-- ==== Sys2Proof/Word.lean ====
section
/-!
DEFINITION. The words of the controller: plain bit vectors of the widths the manual names, and the little-endian
packing of bytes into a number (R9, R10).
-/

namespace Sys2Proof

/-- A byte. -/
abbrev Byte := BitVec 8

/-- A 32-bit word. -/
abbrev Word32 := BitVec 32

/-- A 64-bit word. -/
abbrev Word64 := BitVec 64

/-- Bits [lo + w - 1 : lo] of a number (R9). -/
def bitsOf (x lo w : Nat) : Nat := (x >>> lo) % 2 ^ w

/-- One bit of a number, as a truth value. -/
def bitOf (x i : Nat) : Bool := (x >>> i) % 2 == 1

/-- A number with bits [lo + w - 1 : lo] replaced by the low w bits of v. -/
def setBits (x lo w v : Nat) : Nat :=
  x - (bitsOf x lo w) * 2 ^ lo + (v % 2 ^ w) * 2 ^ lo

/-- The value of w bits read as two's complement (R11). -/
def signed (w x : Nat) : Int :=
  let y := x % 2 ^ w
  if y < 2 ^ (w - 1) then (y : Int) else (y : Int) - (2 ^ w : Nat)

/-- The two's complement code of an integer in w bits. -/
def unsignedOf (w : Nat) (i : Int) : Nat := (i % ((2 ^ w : Nat) : Int)).toNat

/-- A number as n bytes, lowest address first (R10). -/
def bytesLE : Nat → Nat → List Nat
  | 0, _ => []
  | n + 1, x => x % 256 :: bytesLE n (x / 256)

/-- The number that a list of bytes spells, lowest address first (R10). -/
def ofBytesLE : List Nat → Nat
  | [] => 0
  | b :: r => b % 256 + 256 * ofBytesLE r

end Sys2Proof
end

