-- ==== Sys2Proof/Payload.lean ====
section
/-!
DEFINITION. What commands carry: who makes a register access, a link message as received, and what the outside world
is found to hold: what a spot read of a slot, what memory modules and host memory answer.
-/

namespace Sys2Proof

/-- Who makes a register access: the host over its link, controller firmware, the command sequencer. -/
inductive Src where
  | host | firmware | sequencer
deriving DecidableEq, Repr

/-- A link message as received: the 64-bit MSG header (R107), its data blocks, and the CRC block of R109 (0 where the message has
none). DESIGN CHOICE, assumption 202. -/
structure LinkMsg where
  hdr : Nat
  blocks : List Nat
  crc : Nat
deriving DecidableEq, Repr

/-- One row of a slot as a spot read it: the best score of its sync within the window (R258), and the stored values of its 7,680
content bits, from −3 to +3 (R256). -/
structure RowRead where
  score : Nat
  soft : List Int
deriving DecidableEq, Repr

/-- One slot as a spot read it in a search of a zone or of the management area: its 151 rows. What it holds, the controller works
out by R195. DESIGN CHOICE, assumption 4. -/
structure SlotRead where
  rows : List RowRead
deriving DecidableEq, Repr

/-- What the patrol scrub found of a line, where it differs from what the controller itself has stored there (R740, R744): a
correctable line with its rank, codeword, device and beat, or an uncorrectable one with its first failing codeword. DESIGN CHOICE,
assumption 139. -/
inductive LineObs where
  | asStored
  | corrected (rank cw device beat : Nat)
  | uncorrectable (cw : Nat)
deriving DecidableEq, Repr

/-- What the check bits of an SRAM word show (R742, R743). -/
inductive SramWord where
  | clean | corrected | bad
deriving DecidableEq, Repr

/-- Who reads through the system cache: a management core fetching or loading, the command sequencer for one command (queue and
tag) or for none (R748, R751). -/
inductive Reader where
  | fetch (core : Nat)
  | load (core : Nat)
  | command (sq tag : Nat)
  | sequencer
deriving DecidableEq, Repr

/-- Where a slice's stored bits were found uncorrectable: a DRAM line with its first failing codeword, or the slice's own SRAM (R748,
R765). -/
inductive StoreError where
  | dram (line cw : Nat)
  | sram
deriving DecidableEq, Repr

/-- An access to memory for which the table has no row, and what its check bits showed: a read through the cache with the cache's tag
and data words, a write by a management core, a core completing an instruction of its trap handler, a slice reading an entry of its
frame store or a ladder slot (the channel bits lost) or of its write store, an SRAM word corrected, an uncorrectable word of the
merging buffer, of a station or cascade buffer, of a DMA engine (how many bytes it had moved before, and those that came from host memory), of the sequencer, of a core's local
memory, of another unit (R743, R748 to R758, R765). DESIGN CHOICE, assumption 228. -/
inductive MemAct where
  | read (by_ : Reader) (addr n : Nat) (tag data : SramWord)
  | write (core addr : Nat) (bytes : List Nat)
  | handlerRuns (core : Nat)
  | frameStore (slice slot bit n : Nat) (e : StoreError)
  | ladderSlot (slice slot bit n : Nat) (e : StoreError)
  | writeStore (slice slot : Nat) (e : StoreError)
  | corrected (unit : Fin 9)
  | mergeBad
  | linkBad (stn : Option Nat)
  | dmaBad (engine done : Nat) (host : List Nat)
  | commandBad (sq tag : Nat)
  | sequencerBad
  | localBad (core addr : Nat)
  | otherBad
deriving DecidableEq, Repr

/-- How the transfer of a DMA descriptor, or a repeat of it, ended outside the controller: done, with the bytes read where the
source is host memory; a bus error (R718); a translation refused (R592). DESIGN CHOICE, assumption 4. -/
inductive DmaEnd where
  | done (data : List Nat)
  | busError
  | refused
deriving DecidableEq, Repr

/-- The DIMMs of one memory channel as their SPD and training give them (R730 to R732): fitted, the DIMMs, ranks per DIMM, GiB,
the highest rate in units of 100 MT/s, whether the channel trained. DESIGN CHOICE, assumption 4. -/
structure ChanObs where
  fitted : Bool
  dimms : Nat
  ranks : Nat
  size : Nat
  rate : Nat
  trained : Bool
deriving DecidableEq, Repr

/-- A granted translation (R591): its size and translated address, the accesses it allows. -/
structure Grant where
  size : Nat
  trans : Nat
  rd : Bool
  wr : Bool
deriving DecidableEq, Repr

/-- A configuration request: a read of four bytes at an offset, or a write of what this controller acts on. -/
inductive CfgReq where
  | read (offset : Nat)
  | msix (enable functionMask : Bool)
  | ats (enable : Bool)
  | pasid (enable : Bool)
  | cxlCache (enable : Bool)
  | cxlMem (enable : Bool)
  | other (offset value : Nat)
deriving DecidableEq, Repr

/-- A ring message as received on a port (R539): whether it is intact, its destination, source, SEQ and items. DESIGN CHOICE,
assumption 91. -/
structure RingIn where
  intact : Bool
  dst : Nat
  src : Nat
  seq : Nat
  items : List Nat
deriving DecidableEq, Repr

/-- What a start finds of a twin that passes R916: its VERSION and HANDOFF, for an image that was in the array before the run.
DESIGN CHOICE, assumptions 4 and 153. -/
structure ImgObs where
  version : Nat
  handoff : Nat
deriving DecidableEq, Repr

/-- The management area of one side as read at a mount: the slots of copies A and B from index 0 on, up to the first BLANK one of
each (R218, R230). DESIGN CHOICE, assumption 4. -/
structure MgmtSide where
  a : List SlotRead
  b : List SlotRead
deriving DecidableEq, Repr

end Sys2Proof
end

