-- ==== Sys2Proof/Syntax.lean ====
section
/-!
DEFINITION. The commands the block takes: one constructor for each row of the opcode table, with the operands that the
rules of the row need. A command is an access to a register, an operation, a message or an event of the outside world,
or the moment at which something the controller has armed falls due.
-/

namespace Sys2Proof

/-- The commands, in the order of the opcode table. DESIGN CHOICE, assumption 4. -/
inductive Instr where
  -- registers, resets and time
  /-- REGISTER_WRITE (R12). -/
  | registerWrite (src : Src) (addr : BitVec 26) (len : Fin 65) (data : Nat)
  /-- BAR0_RESERVED_ACCESS (R18). -/
  | bar0ReservedAccess (offset : BitVec 26) (write : Bool)
  /-- EVENT_WINDOW_END (R962). -/
  | eventWindowEnd (code inst : Nat)
  /-- FETCH_HOLD (R46). -/
  | fetchHold (on : Bool)
  /-- WARM_RESET (R875). -/
  | warmReset (key : BitVec 16)
  /-- COLD_RESET (R875). -/
  | coldReset (key : BitVec 16)
  /-- RESET_TAKES_EFFECT (R876). -/
  | resetTakesEffect
  /-- PORST_ASSERT (R947). -/
  | porstAssert
  /-- PORST_DEASSERT (R53). -/
  | porstDeassert (mgmtAddr : BitVec 2) (slave clocks : Bool)
  /-- TIME_SECOND_ROLLOVER (R50). -/
  | timeSecondRollover
  /-- CCLK_START (R55). -/
  | cclkStart
  /-- PPS_EDGE (R56). -/
  | ppsEdge (dt : Nat) (fall : Bool)
  /-- TIME_STEP (R62). -/
  | timeStep
  /-- HOLDOVER_TIMEOUT (R66). -/
  | holdoverTimeout
  /-- PPS_ENABLE_WRITE (R66). -/
  | ppsEnableWrite (on : Bool)
  /-- PPS_POLARITY_WRITE (R58). -/
  | ppsPolarityWrite (fall : Bool)
  /-- TIME_LOAD_ARM (R71). -/
  | timeLoadArm
  /-- TIME_LOAD_EFFECT (R72). -/
  | timeLoadEffect
  /-- FINE_TIME_RELOAD (R70). -/
  | fineTimeReload (byPps : Bool)
  /-- LAUNCH (R81). -/
  | launch (sq tag : Nat)
  /-- EMBER_LAUNCH_EXIT (R87). -/
  | emberLaunchExit
  /-- SEEK_SLOT (R92). -/
  | seekSlot (group : Fin 16)
  /-- VG_CONFIG_APPLY (R98). -/
  | vgConfigApply (group : Fin 16)
  /-- SERVO_PERIOD_START (R76). -/
  | servoPeriodStart
  -- station links
  /-- PERIOD_PRESENT (R112). -/
  | periodPresent
  /-- ACTUATE_PRESENT (R112). -/
  | actuatePresent
  /-- SENSOR_DELIVERED (R122). -/
  | sensorDelivered (stn : Fin 128) (msg : LinkMsg) (cause : BitVec 4)
  /-- SENSOR_MISS (R125). -/
  | sensorMiss (stn : Fin 128)
  /-- SAMPLES_RECEIVE (R126). -/
  | samplesReceive (stn : Fin 128) (msg : LinkMsg)
  /-- HEALTH_RECEIVE (R147). -/
  | healthReceive (stn : Fin 128) (msg : LinkMsg)
  /-- REGRSP_RECEIVE (R144). -/
  | regrspReceive (stn : Fin 128) (msg : LinkMsg)
  /-- WRACK_RECEIVE (R138). -/
  | wrackReceive (stn : Fin 128) (msg : LinkMsg)
  /-- ECHORSP_RECEIVE (R149). -/
  | echorspReceive (stn : Fin 128) (msg : LinkMsg) (roundTrip : Nat)
  /-- LINK_BLOCK_ERROR (R105). -/
  | linkBlockError (stn : Fin 128) (hdr : Option (Fin 2 × Nat))
  /-- WRDATA_SEND (R134). -/
  | wrdataSend (stn : Fin 128) (side : Fin 2) (count : Nat)
  /-- WRDATA_RETRANSMIT (R136). -/
  | wrdataRetransmit (stn : Fin 128) (side : Fin 2)
  /-- STEP_SEND (R502). -/
  | stepSend (stn : Fin 128) (side : Fin 2) (count : Nat)
  /-- STEP_RETRANSMIT (R143). -/
  | stepRetransmit (stn : Fin 128)
  /-- STOP_SEND (R139). -/
  | stopSend (stn : Fin 128) (side0 side1 : Bool)
  /-- ECHO_SEND (R149). -/
  | echoSend (stn : Fin 128)
  /-- FE_REG_ACCESS (R144). -/
  | feRegAccess (stn : Fin 128) (write : Bool)
  /-- FE_REG_TIMEOUT (R145). -/
  | feRegTimeout (stn : Fin 128)
  /-- LINK_ENABLE (R152). -/
  | linkEnable (stn : Fin 128)
  /-- LINK_DISABLE (R968). -/
  | linkDisable (stn : Fin 128)
  /-- TRAINING_BATCH_OPEN (R156). -/
  | trainingBatchOpen (batch : Fin 8)
  /-- TRAINING_BATCH_CLOSE (R157). -/
  | trainingBatchClose (batch : Fin 8)
  /-- LINK_TRAIN_DETECTED (R152). -/
  | linkTrainDetected (stn : Fin 128)
  /-- LINK_BLOCK_LOCK (R152). -/
  | linkBlockLock (stn : Fin 128) (lane0 lane1 : Bool)
  /-- LINK_DESKEW_DONE (R152). -/
  | linkDeskewDone (stn : Fin 128) (skew : Nat)
  /-- LINK_IDENTIFY_DONE (R152). -/
  | linkIdentifyDone (stn : Fin 128) (feId feRev feLat feBuf feBoot : Nat)
  /-- LINK_MEASURE_DONE (R151). -/
  | linkMeasureDone (stn : Fin 128) (echoes : List (Nat × Nat))
  /-- LINK_TRAIN_TIMEOUT (R153). -/
  | linkTrainTimeout (stn : Fin 128)
  /-- LINK_RETRY (R967). -/
  | linkRetry (stn : Fin 128)
  /-- LINK_RETRY_TIMEOUT (R967). -/
  | linkRetryTimeout (stn : Fin 128)
  /-- RETRAIN_REQUEST (R159). -/
  | retrainRequest (stn : Fin 128)
  /-- RETRAIN_START (R159). -/
  | retrainStart (stn : Fin 128)
  /-- LINK_RELEASE (R177). -/
  | linkRelease (stn : Fin 128)
  /-- LINK_LOSS (R163). -/
  | linkLoss (stn : Fin 128) (sensors : Bool)
  /-- LINK_DEGRADED_WINDOW (R164). -/
  | linkDegradedWindow (stn : Fin 128)
  -- media
  /-- ZONE_RESOLVE (R973). -/
  | zoneResolve (disc : Nat) (side : Fin 2) (layer : Fin 16) (zone : Fin 64) (found : List SlotRead)
  -- channel slices and read recovery
  /-- SLICE_ASSIGN (R239). -/
  | sliceAssign (stn : Fin 128) (side : Fin 2)
  /-- SLICE_WAIT (R241). -/
  | sliceWait (stn : Fin 128) (side : Fin 2)
  /-- SLICE_RELEASE (R240). -/
  | sliceRelease (slice : Fin 96)
  /-- SLICE_RELEASE_REQUEST (R240). -/
  | sliceReleaseRequest (slice : Fin 96)
  /-- SLICE_STAT_CLEAR (R279). -/
  | sliceStatClear (slice : Fin 96)
  /-- SLICE_MODE_CHANGE (R243). -/
  | sliceModeChange (slice : Fin 96)
  /-- EQ_COMMIT (R253). -/
  | eqCommit (slice : Fin 96)
  /-- EQ_COMMIT_COPY (R253). -/
  | eqCommitCopy (slice : Fin 96)
  /-- EQ_SHADOW_WRITE (R254). -/
  | eqShadowWrite (slice : Fin 96) (filter : Fin 4) (tap : Fin 16) (coef : BitVec 12)
  /-- FRAME_DECODE (R264). -/
  | frameDecode (slice : Fin 96) (slot : Nat)
  /-- FRAME_ENCODE (R267). -/
  | frameEncode (slice : Fin 96)
  /-- SLOT_VERIFY (R271). -/
  | slotVerify (slice : Fin 96)
  /-- RATE_MATCH_TICK (R275). -/
  | rateMatchTick (slice : Fin 96)
  /-- READ_PAUSE (R276). -/
  | readPause (slice : Fin 96)
  /-- READ_RESUME (R276). -/
  | readResume (slice : Fin 96)
  /-- HOLD_STEP (R277). -/
  | holdStep (slice : Fin 96)
  /-- ONE_TRACK_STEP (R395). -/
  | oneTrackStep (stn : Fin 128) (side : Fin 2)
  /-- LADDER_RUNG_DECODE (R290). -/
  | ladderRungDecode (slice : Fin 96) (slot : Nat)
  /-- ROW_SHIFT_SEARCH (R293). -/
  | rowShiftSearch (slice : Fin 96) (slot : Nat)
  /-- LADDER_BUDGET_EXPIRE (R287). -/
  | ladderBudgetExpire (sq tag : Nat)
  /-- LADDER_SLOT_CLAIM (R297). -/
  | ladderSlotClaim (slice : Fin 96) (slot : Nat)
  /-- LADDER_REREAD (R300). -/
  | ladderReread (slice : Fin 96) (slot : Nat)
  /-- REREAD_DECODE (R302). -/
  | rereadDecode (slice : Fin 96) (slot : Nat)
  /-- SOFT_COMBINE (R308). -/
  | softCombine (slice : Fin 96) (slot : Nat)
  /-- OUTER_ERASURE_DECODE (R309). -/
  | outerErasureDecode (slice : Fin 96) (slot : Nat)
  -- loop engine
  /-- LOOP_LANE_RUN (R337). -/
  | loopLaneRun (lane : Fin 32) (bad : List Nat)
  /-- LOOP_OVERRUN (R374). -/
  | loopOverrun (lane : Fin 32)
  /-- LOOP_PARAM_COPY (R370). -/
  | loopParamCopy
  /-- LOOP_SLOT_ENABLE (R361). -/
  | loopSlotEnable (slot : Fin 2048) (ctrl : BitVec 32)
  /-- LOOP_SLOT_DISABLE (R363). -/
  | loopSlotDisable (slot : Fin 2048)
  /-- LOOP_DESC_WRITE (R362). -/
  | loopDescWrite (slot : Fin 2048) (word : Fin 16) (data : BitVec 32)
  /-- LOOP_BANK_WRITE (R366). -/
  | loopBankWrite (slot : Fin 2048) (bank : Fin 2) (word : Fin 64) (data : BitVec 32)
  /-- LOOP_SWAP_SLOT (R367). -/
  | loopSwapSlot (slot : Fin 2048) (mode : Fin 4)
  /-- LOOP_SWAP_GROUP (R367). -/
  | loopSwapGroup (mode : Fin 4)
  /-- LOOP_SWAP_EXECUTE (R368). -/
  | loopSwapExecute (slot : Fin 2048)
  /-- LOOP_SAT_CLEAR (R378). -/
  | loopSatClear
  /-- SAFE_PROGRAM_DONE (R376). -/
  | safeProgramDone
  -- heads and the optical servo
  /-- HEAD_ACQUIRE (R393). -/
  | headAcquire (stn : Fin 128) (side : Fin 2)
  /-- HEAD_SEEK (R398). -/
  | headSeek (stn : Fin 128) (side : Fin 2)
  /-- HEAD_LAYER (R403). -/
  | headLayer (stn : Fin 128) (side : Fin 2)
  /-- HEAD_PARK (R420). -/
  | headPark (stn : Fin 128) (side : Fin 2)
  /-- HEAD_OPC (R408). -/
  | headOpc (stn : Fin 128) (side : Fin 2)
  /-- HEAD_CLEAR_FAULT (R415). -/
  | headClearFault (stn : Fin 128) (side : Fin 2)
  /-- SEEK_REQUEST (R389). -/
  | seekRequest (stn : Fin 128) (side : Fin 2) (slot : Nat) (cmd : Option (Nat × Nat))
  /-- LAYER_JUMP_REQUEST (R403). -/
  | layerJumpRequest (stn : Fin 128) (side : Fin 2) (layer : Fin 16) (cmd : Option (Nat × Nat))
  /-- ACQ_STAGE_LOCKED (R393). -/
  | acqStageLocked (stn : Fin 128) (side : Fin 2) (w1 w2 : BitVec 64) (apart : Nat)
  /-- ACQ_STAGE_TIMEOUT (R393). -/
  | acqStageTimeout (stn : Fin 128) (side : Fin 2)
  /-- SEEK_JUMP_DONE (R397). -/
  | seekJumpDone (stn : Fin 128) (side : Fin 2)
  /-- LONG_SEEK_SETTLED (R399). -/
  | longSeekSettled (stn : Fin 128) (side : Fin 2) (w1 w2 : BitVec 64) (apart : Nat)
  /-- SEEK_RESTART (R969). -/
  | seekRestart (stn : Fin 128) (side : Fin 2)
  /-- LAYER_MOVE_END (R403). -/
  | layerMoveEnd (stn : Fin 128) (side : Fin 2)
  /-- RELAY_LOCKED (R403). -/
  | relayLocked (stn : Fin 128) (side : Fin 2)
  /-- LAYER_JUMP_TIMEOUT (R404). -/
  | layerJumpTimeout (stn : Fin 128) (side : Fin 2)
  /-- LOCK_LOSS (R412). -/
  | lockLoss (stn : Fin 128) (side : Fin 2) (lock : Fin 5)
  /-- HEAD_RECOVERY_DONE (R413). -/
  | headRecoveryDone (stn : Fin 128) (side : Fin 2)
  /-- HEAD_RECOVERY_TIMEOUT (R415). -/
  | headRecoveryTimeout (stn : Fin 128) (side : Fin 2)
  /-- POWER_LIMIT_DETECT (R405). -/
  | powerLimitDetect (stn : Fin 128) (side : Fin 2) (write : Bool)
  /-- OPC_TRIGGER (R407). -/
  | opcTrigger (stn : Fin 128) (side : Fin 2)
  /-- OPC_READBACK (R409). -/
  | opcReadback (stn : Fin 128) (side : Fin 2)
  /-- HEAD_PARK_DONE (R420). -/
  | headParkDone (stn : Fin 128) (side : Fin 2)
  /-- MOUNT_COMPLETE (R417). -/
  | mountComplete (stn : Fin 128) (sideA sideB : MgmtSide) (rebuiltA rebuiltB : List (Nat × List SlotRead))
  -- spindles
  /-- SPINDLE_TARGET_WRITE (R443). -/
  | spindleTargetWrite (stn : Fin 128) (rpm : BitVec 14)
  /-- SPINDLE_SENSE_END (R454). -/
  | spindleSenseEnd (stn : Fin 128)
  /-- SPINDLE_WAIT_SLOW_END (R456). -/
  | spindleWaitSlowEnd (stn : Fin 128)
  /-- SPINDLE_REV_BRAKE_END (R455). -/
  | spindleRevBrakeEnd (stn : Fin 128)
  /-- SPINDLE_ALIGN_START (R457). -/
  | spindleAlignStart (stn : Fin 128)
  /-- SPINDLE_ALIGN_END (R458). -/
  | spindleAlignEnd (stn : Fin 128)
  /-- SPINDLE_HANDOVER (R458). -/
  | spindleHandover (stn : Fin 128)
  /-- SPINDLE_CATCH_DONE (R459). -/
  | spindleCatchDone (stn : Fin 128)
  /-- SPINDLE_ATTEMPT_FAIL (R461). -/
  | spindleAttemptFail (stn : Fin 128)
  /-- SPINDLE_RETRY (R461). -/
  | spindleRetry (stn : Fin 128)
  /-- SPINDLE_LOCKED_ROTOR (R462). -/
  | spindleLockedRotor (stn : Fin 128)
  /-- SPINDLE_OBSERVER_LOSS (R466). -/
  | spindleObserverLoss (stn : Fin 128)
  /-- SPINDLE_REACQUIRED (R467). -/
  | spindleReacquired (stn : Fin 128)
  /-- SPINDLE_REACQ_TIMEOUT (R468). -/
  | spindleReacqTimeout (stn : Fin 128)
  /-- SPINDLE_VBUS_CHANGE (R471). -/
  | spindleVbusChange (stn : Fin 128)
  /-- SPINDLE_BRAKE_END (R474). -/
  | spindleBrakeEnd (stn : Fin 128)
  /-- SPINDLE_HOLD_END (R474). -/
  | spindleHoldEnd (stn : Fin 128)
  /-- SPINDLE_BRAKE_TIMEOUT (R475). -/
  | spindleBrakeTimeout (stn : Fin 128)
  /-- SPINDLE_AT_SPEED (R446). -/
  | spindleAtSpeed (stn : Fin 128)
  /-- PHASE_LOCK_CHANGE (R449). -/
  | phaseLockChange (stn : Fin 128)
  /-- SPINDLE_CLEAR_FAULT (R477). -/
  | spindleClearFault (stn : Fin 128)
  -- motion and library
  /-- AXIS_MOVE (R486). -/
  | axisMove (axis : Fin 264)
  /-- AXIS_STOP (R493). -/
  | axisStop (axis : Fin 264)
  /-- AXIS_HOME (R506). -/
  | axisHome (axis : Fin 264)
  /-- AXIS_CLEAR (R511). -/
  | axisClear (axis : Fin 264)
  /-- AXIS_TARGET_WRITE (R492). -/
  | axisTargetWrite (axis : Fin 264) (value : BitVec 32)
  /-- AXIS_MOVE_DONE (R486). -/
  | axisMoveDone (axis : Fin 264)
  /-- AXIS_HOME_DONE (R507). -/
  | axisHomeDone (axis : Fin 264) (found : Bool) (rise fall : Nat)
  /-- AXIS_FAULT_INPUT (R511). -/
  | axisFaultInput (driver : Fin 8) (level : Bool)
  /-- MOTION_STOP_ALL (R530). -/
  | motionStopAll
  /-- LIBRARY_ENABLE (R531). -/
  | libraryEnable
  /-- DOOR_REQUEST_OPEN (R515). -/
  | doorRequestOpen
  /-- DOOR_REQUEST_LOCK (R516). -/
  | doorRequestLock (closed : Bool)
  /-- DOOR_LOCK_CONFIRMED (R516). -/
  | doorLockConfirmed
  /-- DOOR_OPENED_UNEXPECTED (R517). -/
  | doorOpenedUnexpected (closed : Bool)
  /-- DOOR_WAIT_TIMEOUT (R515). -/
  | doorWaitTimeout (sq tag : Nat)
  /-- TRANSFER_START (R521). -/
  | transferStart
  /-- TRANSFER_PROGRESS (R518). -/
  | transferProgress (picker : Fin 2) (slot disc jaw : Bool)
  /-- TRANSFER_WAIT_TIMEOUT (R521). -/
  | transferWaitTimeout (sq tag : Nat)
  /-- TRANSFER_RESOLVE (R525). -/
  | transferResolve (picker : Fin 2) (inJaws atSrc atDst : Bool)
  /-- INVENTORY_COMPLETE (R524). -/
  | inventoryComplete (dt : Nat) (present : List Bool)
  -- the stack
  /-- CASCADE_ENABLE (R535). -/
  | cascadeEnable
  /-- CASCADE_FORGET (R546). -/
  | cascadeForget
  /-- CASC_PORT_UP (R538). -/
  | cascPortUp (port : Fin 2) (echoes : List (Nat × Nat)) (whole : Bool)
  /-- CASC_PORT_DOWN (R564). -/
  | cascPortDown (port : Fin 2) (errs : Nat)
  /-- ANNOUNCE_SEND (R542). -/
  | announceSend
  /-- ANNOUNCE_RECEIVE (R543). -/
  | announceReceive (port : Fin 2) (intact : Bool) (serial : BitVec 64) (shared : Bool) (version hops : Nat)
  /-- JOIN_RECEIVE (R543). -/
  | joinReceive (port : Fin 2) (hops : Fin 8) (msg : RingIn)
  /-- MEMBERS_RECEIVE (R546). -/
  | membersReceive (port : Fin 2) (msg : RingIn)
  /-- SYNC_RECEIVE (R548). -/
  | syncReceive (dt : Nat) (port : Fin 2) (intact : Bool) (origin : BitVec 64) (acc : BitVec 32) (locked : Bool) (hops : BitVec 3) (residence : Fin 2001)
  /-- RING_CMD_RECEIVE (R553). -/
  | ringCmdReceive (port : Fin 2) (msg : RingIn)
  /-- RING_FRAME_RECEIVE (R554). -/
  | ringFrameReceive (port : Fin 2) (msg : RingIn)
  /-- RING_CAT_RECEIVE (R555). -/
  | ringCatReceive (port : Fin 2) (msg : RingIn)
  /-- RING_LIB_RECEIVE (R560). -/
  | ringLibReceive (port : Fin 2) (msg : RingIn)
  /-- RING_ACK_RECEIVE (R541). -/
  | ringAckReceive (port : Fin 2) (msg : RingIn)
  /-- RING_MESSAGE_FORWARD (R540). -/
  | ringMessageForward (port : Fin 2) (mtype : Nat) (msg : RingIn)
  /-- RING_RETRANSMIT (R541). -/
  | ringRetransmit (dst : Fin 8)
  /-- MEMBER_ABSENT (R565). -/
  | memberAbsent (cell : Fin 8)
  /-- MASTER_LOST (R565). -/
  | masterLost
  /-- STACK_SYNC_TIMEOUT (R552). -/
  | stackSyncTimeout
  /-- CROSS_CELL_TIMEOUT (R557). -/
  | crossCellTimeout (sq tag : Nat)
  /-- PROXY_DELIVER (R556). -/
  | proxyDeliver (cell : Fin 8)
  -- host endpoint and management port
  /-- HOST_LINK_UP (R617). -/
  | hostLinkUp (rate width : Nat) (cxl : Bool)
  /-- HOST_ENDPOINT_RESET (R616). -/
  | hostEndpointReset (perst : Bool)
  /-- CONFIG_REQUEST (R613). -/
  | configRequest (req : CfgReq)
  /-- HDM_DECODER_COMMIT (R578). -/
  | hdmDecoderCommit (ways size : Nat)
  /-- HDM_HOST_READ (R582). -/
  | hdmHostRead (line : BitVec 33)
  /-- HDM_HOST_WRITE (R582). -/
  | hdmHostWrite (line : BitVec 33) (data : BitVec 512) (mask : BitVec 64) (poison : Bool)
  /-- PEER_REQUEST (R601). -/
  | peerRequest (off : BitVec 36) (len : Fin 4096) (reqId : BitVec 16) (data : Option (List Nat))
  /-- PEER_WINDOW_COMMIT (R599). -/
  | peerWindowCommit
  /-- PEER_COMMIT_EFFECT (R600). -/
  | peerCommitEffect
  /-- TRANSLATION_COMPLETION (R592). -/
  | translationCompletion (pasid : Option (BitVec 20)) (addr : BitVec 64) (grant : Option Grant)
  /-- ATS_INVALIDATE (R593). -/
  | atsInvalidate (pasid : Option (BitVec 20)) (addr size itag : Nat) (delayUs : Fin 101)
  /-- HOST_CACHE_ERROR (R588). -/
  | hostCacheError (queue : BitVec 16) (tag : Option (BitVec 12))
  /-- COMPLETION_WRITE (R629). -/
  | completionWrite (entry : Fin 4096)
  /-- MSIX_SEND (R598). -/
  | msixSend (entry : Fin 4096)
  /-- MSIX_UNMASK (R606). -/
  | msixUnmask (vector : Option (Fin 2048))
  /-- CQ_FULL_TIMEOUT (R629). -/
  | cqFullTimeout (entry : Fin 4096)
  /-- SMB_IDENTIFY (R607). -/
  | smbIdentify
  /-- SMB_HEALTH (R607). -/
  | smbHealth
  /-- SMB_SET_OFFSET (R607). -/
  | smbSetOffset (offset : BitVec 32) (pec : Option (BitVec 8))
  /-- SMB_READ_REG (R608). -/
  | smbReadReg
  /-- SMB_WAKE (R607). -/
  | smbWake (value : BitVec 8) (pec : Option (BitVec 8)) (intact : Bool)
  -- the command path
  /-- DOORBELL_WRITE (R626). -/
  | doorbellWrite (queue : BitVec 16) (value : BitVec 64)
  /-- COMMAND_FETCH (R639). -/
  | commandFetch (pkt : BitVec 512)
  /-- COMMAND_START (R647). -/
  | commandStart (queue : BitVec 20) (tag : BitVec 12)
  -- commands of a submission queue
  /-- NOP (R650). -/
  | nop (queue : BitVec 20) (tag : BitVec 12)
  /-- IDENTIFY (R666). -/
  | identify (queue : BitVec 20) (tag : BitVec 12)
  /-- GET_LOG (R667). -/
  | getLog (queue : BitVec 20) (tag : BitVec 12)
  /-- SET_FEATURE (R668). -/
  | setFeature (queue : BitVec 20) (tag : BitVec 12)
  /-- GET_FEATURE (R668). -/
  | getFeature (queue : BitVec 20) (tag : BitVec 12)
  /-- ABORT (R676). -/
  | abort (queue : BitVec 20) (tag : BitVec 12)
  /-- READ (R651). -/
  | read (queue : BitVec 20) (tag : BitVec 12) (sgl : Option (List (Nat × Nat × Nat)))
  /-- WRITE (R652). -/
  | write (queue : BitVec 20) (tag : BitVec 12) (sgl : Option (List (Nat × Nat × Nat)))
  /-- VERIFY (R330). -/
  | verify (queue : BitVec 20) (tag : BitVec 12)
  /-- FLUSH (R657). -/
  | flush (queue : BitVec 20) (tag : BitVec 12)
  /-- ZONE_CLOSE (R658). -/
  | zoneClose (queue : BitVec 20) (tag : BitVec 12)
  /-- DISC_FINALIZE (R659). -/
  | discFinalize (queue : BitVec 20) (tag : BitVec 12)
  /-- BUFFER_ALLOC (R693). -/
  | bufferAlloc (queue : BitVec 20) (tag : BitVec 12)
  /-- BUFFER_RELEASE (R661). -/
  | bufferRelease (queue : BitVec 20) (tag : BitVec 12)
  /-- BUFFER_SHARE (R662). -/
  | bufferShare (queue : BitVec 20) (tag : BitVec 12)
  /-- MOUNT (R663). -/
  | mount (queue : BitVec 20) (tag : BitVec 12)
  /-- UNMOUNT (R664). -/
  | unmount (queue : BitVec 20) (tag : BitVec 12)
  /-- MOVE (R523). -/
  | move (queue : BitVec 20) (tag : BitVec 12)
  /-- INVENTORY (R524). -/
  | inventory (queue : BitVec 20) (tag : BitVec 12)
  /-- TIME_SET (R963). -/
  | timeSet (queue : BitVec 20) (tag : BitVec 12)
  /-- TIME_GET (R669). -/
  | timeGet (queue : BitVec 20) (tag : BitVec 12)
  /-- TALLY_READ (R847). -/
  | tallyRead (queue : BitVec 20) (tag : BitVec 12)
  /-- TALLY_ACK (R848). -/
  | tallyAck (queue : BitVec 20) (tag : BitVec 12)
  /-- FW_DOWNLOAD (R920). -/
  | fwDownload (queue : BitVec 20) (tag : BitVec 12) (words : Option (List Nat))
  /-- FW_ACTIVATE (R923). -/
  | fwActivate (queue : BitVec 20) (tag : BitVec 12) (keyOk sigOk : Bool)
  /-- MODE_SET (R672). -/
  | modeSet (queue : BitVec 20) (tag : BitVec 12)
  /-- STATION_DIAG (R674). -/
  | stationDiag (queue : BitVec 20) (tag : BitVec 12)
  -- queue management
  /-- CREATE_CQ (R633). -/
  | createCq
  /-- DELETE_CQ (R633). -/
  | deleteCq
  /-- CREATE_SQ (R633). -/
  | createSq
  /-- DELETE_SQ (R635). -/
  | deleteSq
  /-- DELETE_SQ_COMPLETE (R635). -/
  | deleteSqComplete
  /-- SET_GROUP (R633). -/
  | setGroup
  /-- QUERY_CQ (R633). -/
  | queryCq
  /-- QUERY_SQ (R633). -/
  | querySq
  /-- QUERY_GROUP (R633). -/
  | queryGroup
  -- buffers and DMA
  /-- COPY_BUFFER_GRANT (R698). -/
  | copyBufferGrant
  /-- BPM_ENABLE (R688). -/
  | bpmEnable
  /-- BPM_DISABLE (R689). -/
  | bpmDisable
  /-- DMA_CHANNEL_START (R710). -/
  | dmaChannelStart (src : Src) (ch : Fin 2176)
  /-- DMA_CHANNEL_RUN (R710). -/
  | dmaChannelRun (engine : Fin 40)
  /-- DMA_DESCRIPTOR_END (R714). -/
  | dmaDescriptorEnd (engine : Fin 40) (result : DmaEnd)
  /-- DMA_BUS_RETRY (R719). -/
  | dmaBusRetry (engine : Fin 8) (result : DmaEnd)
  /-- DMA_CHANNEL_RESET (R722). -/
  | dmaChannelReset (src : Src) (ch : Fin 2176)
  -- device memory and cache
  /-- DRAM_TRAINING_DONE (R731). -/
  | dramTrainingDone (chans : List ChanObs)
  /-- DRAM_INIT_DONE (R735). -/
  | dramInitDone (dt : Nat)
  /-- SCRUB_STEP (R744). -/
  | scrubStep (obs : LineObs)
  /-- SELF_REFRESH_ENTER (R746). -/
  | selfRefreshEnter
  /-- MERGE_BUFFER_DRAIN (R753). -/
  | mergeBufferDrain (acts : List MemAct)
  /-- CACHE_INVALIDATE (R759). -/
  | cacheInvalidate (src : Src) (force : Bool)
  /-- CACHE_DRAIN (R759). -/
  | cacheDrain (src : Src) (force : Bool)
  /-- CACHE_DRAIN_INVALIDATE (R759). -/
  | cacheDrainInvalidate (src : Src) (force : Bool)
  /-- CACHE_LOAD_LOCK (R759). -/
  | cacheLoadLock (src : Src) (force : Bool)
  /-- CACHE_OP_DONE (R760). -/
  | cacheOpDone (dt : Nat)
  /-- CACHE_WAY_LOCK_WRITE (R763). -/
  | cacheWayLockWrite (src : Src) (mask : BitVec 16)
  /-- CACHE_WAY_POWER_WRITE (R764). -/
  | cacheWayPowerWrite (src : Src) (on : BitVec 4)
  /-- ECC_INJECT_ARM (R767). -/
  | eccInjectArm (cw : BitVec 2) (double : Bool)
  -- flash, boot and the journal
  /-- FLASH_PROGRAM (R773). -/
  | flashProgram (word : BitVec 25) (value : BitVec 64) (mask : BitVec 8)
  /-- FLASH_SECTOR_ERASE (R783). -/
  | flashSectorErase (sector : BitVec 12)
  /-- FLASH_SUSPEND (R787). -/
  | flashSuspend
  /-- FLASH_RESUME (R787). -/
  | flashResume
  /-- FLASH_READ_ARRAY (R778). -/
  | flashReadArray
  /-- FLASH_PROGRAM_DONE (R782). -/
  | flashProgramDone (dt : Nat)
  /-- FLASH_ERASE_DONE (R783). -/
  | flashEraseDone (dt pulses fails : Nat)
  /-- ERASE_PENDING_LONG (R787). -/
  | erasePendingLong
  /-- BOOT_SELECT (R792). -/
  | bootSelect (imgA imgB : Option ImgObs)
  /-- JOURNAL_REPLAY (R812). -/
  | journalReplay
  /-- JOURNAL_RECLAIM (R806). -/
  | journalReclaim
  /-- FRONTIER_SEARCH (R809). -/
  | frontierSearch (disc : Nat) (side : Fin 2) (layer : Fin 16) (zone : Fin 64) (found : List SlotRead)
  -- power, modes, temperature and events
  /-- PWRFAIL_ASSERT (R810). -/
  | pwrfailAssert
  /-- PF_JOURNAL_WRITE (R810). -/
  | pfJournalWrite (dt : Nat)
  /-- PWRFAIL_DEASSERT (R844). -/
  | pwrfailDeassert
  /-- PWRFAIL_RECOVER (R880). -/
  | pwrfailRecover
  /-- SUPPLY_FAULT (R881). -/
  | supplyFault (dt : Nat)
  /-- WAKE (R861). -/
  | wake (srcs : BitVec 4) (intact : Bool)
  /-- MODE_TRANSITION_DONE (R857). -/
  | modeTransitionDone (romOk katOk : Bool)
  /-- FW_READY (R873). -/
  | fwReady (slots : Fin 4097) (stns : Fin 129) (ember : Bool)
  /-- WATCHDOG_KICK (R878). -/
  | watchdogKick
  /-- WATCHDOG_EXPIRE (R878). -/
  | watchdogExpire
  /-- THERMAL_READING (R867). -/
  | thermalReading (dt : Nat) (temps : List (BitVec 16))
  /-- THERMAL_EXIT (R869). -/
  | thermalExit
  /-- THERMTRIP (R871). -/
  | thermtrip
  /-- POWER_CAP_ESTIMATE (R864). -/
  | powerCapEstimate (dt own : Nat)
  /-- CAP_EXCEEDED (R866). -/
  | capExceeded
  /-- EVENT_LOG_COPY (R888). -/
  | eventLogCopy
  /-- EVENT_INTERRUPT (R889). -/
  | eventInterrupt
  -- the tally
  /-- TALLY_START (R845). -/
  | tallyStart (romOk katOk : Bool)
  /-- TALLY_MINUTE_BOUNDARY (R825). -/
  | tallyMinuteBoundary (lost : List (BitVec 12 × Fin 4))
  /-- TALLY_MS_SAMPLE (R822). -/
  | tallyMsSample
  /-- TALLY_TAP_EVENT (R823). -/
  | tallyTapEvent (test : Option (BitVec 12 × Fin 4 × Nat))
  /-- TALLY_RECORD_PROGRAM (R837). -/
  | tallyRecordProgram (bad : Option (Fin 9))
  /-- TALLY_SECTOR_ERASE (R838). -/
  | tallySectorErase
  /-- TALLY_PF_CLOSE (R842). -/
  | tallyPfClose (low : Option Nat)
  /-- TALLY_SEAL (R850). -/
  | tallySeal (dt : Nat) (level ok1 ok2 : Bool)
  -- calibration
  /-- CAL_TRIGGER (R894). -/
  | calTrigger (kind : Fin 3) (inst : Fin 256)
  /-- CAL_RUN_ALL (R894). -/
  | calRunAll
  /-- CAL_PORT_RUN (R896). -/
  | calPortRun (port : Fin 130) (runA runB : List Nat)
  /-- CAL_PORT_APPLY (R898). -/
  | calPortApply (port : Fin 130)
  /-- CAL_SLICE_RUN_DONE (R901). -/
  | calSliceRunDone (stn : Fin 128) (side : Fin 2)
  /-- CAL_SLICE_APPLY (R902). -/
  | calSliceApply (stn : Fin 128) (side : Fin 2)
  /-- CAL_TRIM_RUN (R905). -/
  | calTrimRun (stn : Fin 128) (side : Fin 2)
  /-- CAL_TRIM_APPLY (R906). -/
  | calTrimApply (stn : Fin 128) (side : Fin 2)
  /-- CAL_STORE (R911). -/
  | calStore (kind : Fin 3) (inst : Fin 256)
  -- firmware update
  /-- KILN_END (R926). -/
  | kilnEnd
  /-- KILN_TIMEOUT (R928). -/
  | kilnTimeout
  /-- FW_ACTIVATE_RESET (R927). -/
  | fwActivateReset
  /-- TRIAL_CONFIRM (R931). -/
  | trialConfirm
  /-- TRIAL_TIMEOUT (R932). -/
  | trialTimeout
  -- rows the table ends with
  /-- FLASH_SEQ_ERROR (R779). -/
  | flashSeqError
  /-- RING_ECHO_RECEIVE (R538). -/
  | ringEchoReceive (port : Fin 2) (seq : BitVec 8) (turn : Nat)
  /-- REFERENCE_CLOCK_LOST (R55). -/
  | referenceClockLost
  /-- PICKER_DISC_FALL (R518). -/
  | pickerDiscFall (picker : Fin 2)
deriving DecidableEq, Repr

end Sys2Proof
end

