-- ==== Sys2Proof/Decode.lean ====
section
/-!
DEFINITION. The word a command is spelled by. The manual's command table gives no row any bits (a command is a register access,
an operation, a message or an event), so no word spells one.
-/

namespace Sys2Proof

/-- The command that the word w of nbits bits spells: none, since no row of the table gives bits. DESIGN CHOICE, assumption 6. -/
def decodeTableWord (_nbits _w : Nat) : Option Instr := none

end Sys2Proof
end

