-- ==== Sys2Proof/Machine/Maps.lean ====
section
/-!
DEFINITION. Sparse maps: a list of (key, value) pairs. A key that is not listed has the map's default value. `put`
keeps the keys rising where they were, and replaces the entry of a key that is there.
-/

namespace Sys2Proof.Machine

/-- The value at a key, the default where the key is not listed. -/
def mget {α : Type} (d : α) : List (Nat × α) → Nat → α
  | [], _ => d
  | (a, b) :: r, k => if a = k then b else mget d r k

/-- The map with the value at a key replaced. -/
def mput {α : Type} : List (Nat × α) → Nat → α → List (Nat × α)
  | [], k, v => [(k, v)]
  | (a, b) :: r, k, v =>
    if a = k then (k, v) :: r
    else if k < a then (k, v) :: (a, b) :: r
    else (a, b) :: mput r k v

/-- The map without a key. -/
def mdel {α : Type} : List (Nat × α) → Nat → List (Nat × α)
  | [], _ => []
  | (a, b) :: r, k => if a = k then r else (a, b) :: mdel r k

/-- Is the key listed? -/
def mhas {α : Type} (m : List (Nat × α)) (k : Nat) : Bool := m.any fun p => p.1 == k

/-- The value at a key, if it is listed. -/
def mfind {α : Type} : List (Nat × α) → Nat → Option α
  | [], _ => none
  | (a, b) :: r, k => if a = k then some b else mfind r k

/-- The first n numbers, 0 to n - 1, for folds over indices. -/
def upTo (n : Nat) : List Nat := List.range n

/-- A number limited to a range. -/
def clampNat (lo hi x : Nat) : Nat := if x < lo then lo else if hi < x then hi else x

/-- An integer limited to a range. -/
def clampInt (lo hi x : Int) : Int := if x < lo then lo else if hi < x then hi else x

/-- a / b rounded to the nearest integer, halves away from zero; b is positive. -/
def roundDiv (a : Int) (b : Nat) : Int :=
  if 0 ≤ a then (2 * a + b) / (2 * b) else -((2 * (-a) + b) / (2 * b))

/-- a / b rounded up. -/
def ceilDiv (a b : Nat) : Nat := (a + b - 1) / b

/-- Insertion into a rising list. -/
def insertNat (a : Nat) : List Nat → List Nat
  | [] => [a]
  | b :: r => if a ≤ b then a :: b :: r else b :: insertNat a r

/-- A list in rising order. -/
def sortNat (l : List Nat) : List Nat := l.foldr insertNat []

end Sys2Proof.Machine
end

