-- ==== Sys2Proof/Machine/Arith.lean ====
section
/-!
DEFINITION. Fixed-point arithmetic of the sequencers and the loop engine: saturation, square roots, the circular
functions of angles in half turns, and the geometry of the spiral (R344, R345, R401).
-/

namespace Sys2Proof.Machine

/-- Saturation to a two's complement range of w bits. -/
def sat (w : Nat) (x : Int) : Int := clampInt (-(2 ^ (w - 1) : Nat)) (((2 ^ (w - 1) : Nat) : Int) - 1) x

/-- A sum scaled by 2^k brought to a format of w bits: rounded to nearest with ties away from zero, then saturated
(R345). -/
def stage (w k : Nat) (x : Int) : Int := sat w (roundDiv x (2 ^ k))

/-- An integer square root, bit by bit. -/
def isqrtN : Nat → Nat → Nat → Nat
  | 0, _, r => r
  | b + 1, n, r => if (r + 2 ^ b) * (r + 2 ^ b) ≤ n then isqrtN b n (r + 2 ^ b) else isqrtN b n r

/-- The integer square root of a number below 2^256. -/
def isqrt (n : Nat) : Nat := isqrtN 128 n 0

/-- π in units of 2^-60. -/
def pi60 : Int := 3622009729038561421

/-- 1 - x²/(a(a+1)) (1 - x²/((a+2)(a+3)) (...)), in units of 2^-60, for the series of sine and cosine. DESIGN CHOICE, assumption
67. -/
def trigSeries : Nat → Int → Int → Int
  | 0, _, _ => 2 ^ 60
  | n + 1, x2, a => 2 ^ 60 - x2 * trigSeries n x2 (a + 2) / (a * (a + 1)) / 2 ^ 60

/-- An angle of t half turns (units of 2^-40) taken into [-1, 1). -/
def wrapHalf (t : Int) : Int := (t + 2 ^ 40) % 2 ^ 41 - 2 ^ 40

/-- π t in units of 2^-60, for t in units of 2^-40. -/
def radians (t : Int) : Int := pi60 * wrapHalf t / 2 ^ 40

/-- cos(π t) in units of 2^-60. DESIGN CHOICE, assumption 67. -/
def cosHalf (t : Int) : Int :=
  let x := radians t
  trigSeries 20 (x * x / 2 ^ 60) 1

/-- sin(π t) in units of 2^-60. DESIGN CHOICE, assumption 67. -/
def sinHalf (t : Int) : Int :=
  let x := radians t
  x * trigSeries 20 (x * x / 2 ^ 60) 2 / 2 ^ 60

/-- The angle of a vector in the first quadrant, in units of 2^-40 half turns, by bisection over its bits. -/
def angleBits : Nat → Int → Int → Int → Int
  | 0, _, _, t => t
  | n + 1, a, b, t =>
    let u := t + 2 ^ n
    if 0 ≤ b * cosHalf u - a * sinHalf u then angleBits n a b u else angleBits n a b t

/-- The angle of a vector (a, b) in half turns, units of 2^-40, in [-1, 1). -/
def angleOf (a b : Int) : Int :=
  if 0 < a ∧ 0 ≤ b then angleBits 39 a b 0
  else if a ≤ 0 ∧ 0 < b then wrapHalf (2 ^ 39 + angleBits 39 b (-a) 0)
  else if a < 0 ∧ b ≤ 0 then wrapHalf (2 ^ 40 + angleBits 39 (-a) (-b) 0)
  else if b < 0 then wrapHalf (angleBits 39 (-b) a 0 - 2 ^ 39)
  else 0

/-- The length of a vector. -/
def vecLen (a b : Int) : Nat := isqrt (a.natAbs * a.natAbs + b.natAbs * b.natAbs)

/-! ### The spiral (R401) -/

/-- Channel bits in a slot. -/
def slotBits : Nat := 1169344

/-- π times 10^30. -/
def pi30 : Nat := 3141592653589793238462643383279

/-- The squared radius in units of 10^-20 mm², at X channel bits after BIT 0 of lead-in slot 0, whose place lies 2,048
slots before user slot 0. -/
def radius2 (x : Nat) : Nat :=
  let lead := 2048 * slotBits
  (55225000000000000000000 + ((x : Int) - (lead : Int)) * 144 * 10 ^ 40 / (pi30 : Int)).toNat

/-- The radius in units of 10^-10 mm. -/
def radius (x : Nat) : Nat := isqrt (radius2 x)

/-- The length C of the turn at a place, in channel bits of 60 nm, with 20 fraction bits. -/
def turnBits20 (x : Nat) : Nat := 2 * pi30 * radius x * 2 ^ 20 / (60 * 10 ^ 4 * 10 ^ 30)

/-- The landing rule of R398: J = floor((D - M) / C). -/
def landing (pos target : Nat) (margin : Nat) : Int :=
  (((target : Int) - (pos : Int) - (margin : Int)) * 2 ^ 20) / (turnBits20 pos : Int)

/-- The place of BIT 0 of a slot, from BIT 0 of lead-in slot 0. -/
def slotPos (slot : Nat) (leadin : Bool) : Nat := (if leadin then slot else 2048 + slot) * slotBits

end Sys2Proof.Machine
end

