-- ==== Sys2Proof/Machine/Aes.lean ====
section
/-!
DEFINITION. AES-128 and its CMAC (SP 800-38B), with which the tally seals its records (R834). A block is 16 bytes, the first
byte of the standard's order first; a state column is four consecutive bytes.
-/

namespace Sys2Proof.Machine

/-- Exclusive or of two lists of bytes. -/
def xorBytes (a b : List Nat) : List Nat := List.zipWith (· ^^^ ·) a b

/-- Multiplication by x in the field of AES. -/
def aesX (a : Nat) : Nat := if a < 128 then 2 * a else (2 * a) % 256 ^^^ 0x1B

/-- A product in the field of AES, over eight bits of the second factor. -/
def aesMulBits : Nat → Nat → Nat → Nat
  | 0, _, _ => 0
  | n + 1, a, b => (if b % 2 = 1 then a else 0) ^^^ aesMulBits n (aesX a) (b / 2)

def aesMul (a b : Nat) : Nat := aesMulBits 8 a b

/-- The inverse of a byte, its power 254; 0 for 0. -/
def aesInv (a : Nat) : Nat :=
  let a2 := aesMul a a
  let a3 := aesMul a2 a
  let a6 := aesMul a3 a3
  let a12 := aesMul a6 a6
  let a14 := aesMul a12 a2
  let a15 := aesMul a12 a3
  let a30 := aesMul a15 a15
  let a60 := aesMul a30 a30
  let a120 := aesMul a60 a60
  let a240 := aesMul a120 a120
  aesMul a240 a14

/-- A byte turned left by n bits. -/
def rotl8 (n a : Nat) : Nat := (a * 2 ^ n) % 256 + a * 2 ^ n / 256

/-- SubBytes of a byte. -/
def aesSub (a : Nat) : Nat :=
  let b := aesInv a
  b ^^^ rotl8 1 b ^^^ rotl8 2 b ^^^ rotl8 3 b ^^^ rotl8 4 b ^^^ 0x63

/-- The bytes of a block where a row is turned left by its number. -/
def aesShiftRows (b : List Nat) : List Nat := (upTo 16).map fun i => b.getD ((i + 4 * (i % 4)) % 16) 0

/-- MixColumns. -/
def aesMixColumns (b : List Nat) : List Nat :=
  (upTo 16).map fun i =>
    let c := i / 4 * 4
    let at_ := fun (k : Nat) => b.getD (c + (i + k) % 4) 0
    aesX (at_ 0) ^^^ (aesX (at_ 1) ^^^ at_ 1) ^^^ at_ 2 ^^^ at_ 3

/-- The next round key. -/
def aesNextKey (rcon : Nat) (k : List Nat) : List Nat :=
  let w := (upTo 4).map fun i => aesSub (k.getD (12 + (i + 1) % 4) 0)
  let w0 := xorBytes (xorBytes (k.take 4) w) [rcon, 0, 0, 0]
  let w1 := xorBytes ((k.drop 4).take 4) w0
  let w2 := xorBytes ((k.drop 8).take 4) w1
  w0 ++ w1 ++ w2 ++ xorBytes (k.drop 12) w2

/-- The rounds that are left: n with MixColumns, then the last one. -/
def aesRounds : Nat → Nat → List Nat → List Nat → List Nat
  | 0, rcon, k, b => xorBytes (aesShiftRows (b.map aesSub)) (aesNextKey rcon k)
  | n + 1, rcon, k, b =>
    let k1 := aesNextKey rcon k
    aesRounds n (aesX rcon) k1 (xorBytes (aesMixColumns (aesShiftRows (b.map aesSub))) k1)

/-- AES-128 of a block under a key. DESIGN CHOICE, assumption 159. -/
def aes128 (key block : List Nat) : List Nat := aesRounds 9 1 key (xorBytes block key)

/-- A block doubled in the field of CMAC. -/
def cmacDouble (b : List Nat) : List Nat :=
  let sh := (upTo 16).map fun i => (2 * b.getD i 0) % 256 + b.getD (i + 1) 0 / 128
  if 128 ≤ b.headD 0 then sh.take 15 ++ [sh.getD 15 0 ^^^ 0x87] else sh

/-- CMAC's chain over n whole blocks before the last one. -/
def cmacChain : Nat → List Nat → List Nat → List Nat → List Nat
  | 0, _, x, _ => x
  | n + 1, key, x, m => cmacChain n key (aes128 key (xorBytes x (m.take 16))) (m.drop 16)

/-- The AES-128 CMAC of a message that is not a whole number of blocks. -/
def cmacOdd (key m : List Nat) : List Nat :=
  let n := m.length / 16
  let x := cmacChain n key (List.replicate 16 0) m
  let k2 := cmacDouble (cmacDouble (aes128 key (List.replicate 16 0)))
  let last := ((m.drop (16 * n)) ++ [0x80] ++ List.replicate 16 0).take 16
  aes128 key (xorBytes (xorBytes x last) k2)

end Sys2Proof.Machine
end

