-- ==== Sys2Proof/Machine/Regs.lean ====
section
/-!
DEFINITION. The BAR0 registers, one entry for each field of the manual's register tables: where it lies, its width,
its type under R12 and the value it has after reset. The state holds what has been written; a field nothing has
written reads as its reset value.
-/

namespace Sys2Proof.Machine

/-- The types of register fields, R12. -/
inductive FTy where
  | rw | ro | wo | w1c | w1s | rwl | ros
deriving DecidableEq, Repr

/-- One field of a register table. `base` is the BAR0 offset of instance 0, `dims` the counts and strides of its
indices, outermost first, `alt` a second segment (first index in it, its BAR0 offset) or (0, 0), `size` the width of
the register in bits, `lo` and `w` the place of the field, `rst` its value after reset by index. -/
structure Fld where
  id : Nat
  base : Nat
  dims : List (Nat × Nat)
  alt : Nat × Nat
  size : Nat
  lo : Nat
  w : Nat
  ty : FTy
  rst : Nat → Nat

/-- The key of a field's instance in the register file. -/
def Fld.key (f : Fld) (i : Nat) : Nat := i * 8192 + f.id

/-- The index that an offset from instance 0 names, when it falls on an instance. -/
def dimsIndex : List (Nat × Nat) → Nat → Nat → Option Nat
  | [], rel, acc => if rel = 0 then some acc else none
  | (n, st) :: r, rel, acc =>
    let j := rel / st
    if j < n then dimsIndex r (rel % st) (acc * n + j) else none

/-- The instance of the field's register that begins at a BAR0 offset. -/
def Fld.indexAt (f : Fld) (a : Nat) : Option Nat :=
  match f.alt with
  | (0, _) => if f.base ≤ a then dimsIndex f.dims (a - f.base) 0 else none
  | (n, b2) =>
    if b2 ≤ a then
      match dimsIndex f.dims (a - b2) 0 with
      | some j => if n + j < (f.dims.map Prod.fst).foldl (· * ·) 1 then some (n + j) else none
      | none => none
    else if f.base ≤ a then
      match dimsIndex f.dims (a - f.base) 0 with
      | some j => if j < n then some j else none
      | none => none
    else none

namespace Reg

/-- GCTL_ID.PART, R45. -/
def GCTL_ID_PART : Fld := ⟨0, 0x0, [], (0, 0), 32, 0, 16, .ro, fun _ => 0x8128⟩
/-- GCTL_REV.SEALED, R45. -/
def GCTL_REV_SEALED : Fld := ⟨1, 0x4, [], (0, 0), 32, 9, 1, .ro, fun _ => 0⟩
/-- GCTL_REV.ORDER_S, R45. -/
def GCTL_REV_ORDER_S : Fld := ⟨2, 0x4, [], (0, 0), 32, 8, 1, .ro, fun _ => 0⟩
/-- GCTL_REV.BASE, R45. -/
def GCTL_REV_BASE : Fld := ⟨3, 0x4, [], (0, 0), 32, 4, 4, .ro, fun _ => 0xB⟩
/-- GCTL_REV.METAL, R45. -/
def GCTL_REV_METAL : Fld := ⟨4, 0x4, [], (0, 0), 32, 0, 4, .ro, fun _ => 0x0⟩
/-- GCTL_FW_VER.MAJOR, R45. -/
def GCTL_FW_VER_MAJOR : Fld := ⟨5, 0x10, [], (0, 0), 32, 24, 8, .ro, fun _ => 0x00⟩
/-- GCTL_FW_VER.MINOR, R45. -/
def GCTL_FW_VER_MINOR : Fld := ⟨6, 0x10, [], (0, 0), 32, 16, 8, .ro, fun _ => 0x00⟩
/-- GCTL_FW_VER.BUILD, R45. -/
def GCTL_FW_VER_BUILD : Fld := ⟨7, 0x10, [], (0, 0), 32, 0, 16, .ro, fun _ => 0x0000⟩
/-- GCTL_BOOT.FELL_BACK, R45. -/
def GCTL_BOOT_FELL_BACK : Fld := ⟨8, 0x14, [], (0, 0), 32, 2, 1, .ro, fun _ => 0⟩
/-- GCTL_BOOT.TRIAL, R45. -/
def GCTL_BOOT_TRIAL : Fld := ⟨9, 0x14, [], (0, 0), 32, 1, 1, .ro, fun _ => 0⟩
/-- GCTL_BOOT.ACTIVE_TWIN, R45. -/
def GCTL_BOOT_ACTIVE_TWIN : Fld := ⟨10, 0x14, [], (0, 0), 32, 0, 1, .ro, fun _ => 0⟩
/-- GCTL_CELL.MGMT_ADDR, R45. DESIGN CHOICE, assumption 8. -/
def GCTL_CELL_MGMT_ADDR : Fld := ⟨11, 0x18, [], (0, 0), 32, 12, 2, .ro, fun _ => 0⟩
/-- GCTL_CELL.STACK_SIZE, R45. -/
def GCTL_CELL_STACK_SIZE : Fld := ⟨12, 0x18, [], (0, 0), 32, 8, 4, .ro, fun _ => 0x1⟩
/-- GCTL_CELL.STACKED, R45. -/
def GCTL_CELL_STACKED : Fld := ⟨13, 0x18, [], (0, 0), 32, 4, 1, .ro, fun _ => 0⟩
/-- GCTL_CELL.MASTER, R45. DESIGN CHOICE, assumption 8. -/
def GCTL_CELL_MASTER : Fld := ⟨14, 0x18, [], (0, 0), 32, 3, 1, .ro, fun _ => 1⟩
/-- GCTL_CELL.CELL_NUM, R45. -/
def GCTL_CELL_CELL_NUM : Fld := ⟨15, 0x18, [], (0, 0), 32, 0, 3, .ro, fun _ => 0x0⟩
/-- GCTL_SIZE.STN_FITTED, R45. -/
def GCTL_SIZE_STN_FITTED : Fld := ⟨16, 0x1C, [], (0, 0), 32, 16, 8, .ro, fun _ => 0x00⟩
/-- GCTL_SIZE.MAG_SLOTS, R45. -/
def GCTL_SIZE_MAG_SLOTS : Fld := ⟨17, 0x1C, [], (0, 0), 32, 0, 13, .ro, fun _ => 0x0000⟩
/-- GCTL_STATUS.CINDER_CAUSE, R45. -/
def GCTL_STATUS_CINDER_CAUSE : Fld := ⟨18, 0x20, [], (0, 0), 32, 8, 8, .ro, fun _ => 0x00⟩
/-- GCTL_STATUS.FAULT, R45. -/
def GCTL_STATUS_FAULT : Fld := ⟨19, 0x20, [], (0, 0), 32, 6, 1, .ro, fun _ => 0⟩
/-- GCTL_STATUS.STACK_UP, R45. -/
def GCTL_STATUS_STACK_UP : Fld := ⟨20, 0x20, [], (0, 0), 32, 5, 1, .ro, fun _ => 0⟩
/-- GCTL_STATUS.TIME_LOCKED, R45. -/
def GCTL_STATUS_TIME_LOCKED : Fld := ⟨21, 0x20, [], (0, 0), 32, 4, 1, .ro, fun _ => 0⟩
/-- GCTL_STATUS.FW_READY, R45. -/
def GCTL_STATUS_FW_READY : Fld := ⟨22, 0x20, [], (0, 0), 32, 3, 1, .ro, fun _ => 0⟩
/-- GCTL_STATUS.MODE, R45. -/
def GCTL_STATUS_MODE : Fld := ⟨23, 0x20, [], (0, 0), 32, 0, 3, .ro, fun _ => 0x2⟩
/-- GCTL_CTRL.HOLD_ACK, R45. -/
def GCTL_CTRL_HOLD_ACK : Fld := ⟨24, 0x24, [], (0, 0), 32, 1, 1, .ro, fun _ => 0⟩
/-- GCTL_CTRL.FETCH_HOLD, R45. -/
def GCTL_CTRL_FETCH_HOLD : Fld := ⟨25, 0x24, [], (0, 0), 32, 0, 1, .rw, fun _ => 0⟩
/-- GCTL_RESET.KEY, R45. -/
def GCTL_RESET_KEY : Fld := ⟨26, 0x28, [], (0, 0), 32, 16, 16, .wo, fun _ => 0⟩
/-- GCTL_RESET.SCOPE, R45. -/
def GCTL_RESET_SCOPE : Fld := ⟨27, 0x28, [], (0, 0), 32, 0, 2, .wo, fun _ => 0⟩
/-- GCTL_CAPS.STATIONS_MAX, R45. -/
def GCTL_CAPS_STATIONS_MAX : Fld := ⟨28, 0x2C, [], (0, 0), 32, 16, 8, .ro, fun _ => 0x80⟩
/-- GCTL_CAPS.SLICES, R45. -/
def GCTL_CAPS_SLICES : Fld := ⟨29, 0x2C, [], (0, 0), 32, 8, 8, .ro, fun _ => 0x60⟩
/-- GCTL_CAPS.TALLY, R45. -/
def GCTL_CAPS_TALLY : Fld := ⟨30, 0x2C, [], (0, 0), 32, 3, 1, .ro, fun _ => 1⟩
/-- GCTL_CAPS.CASCADE, R45. -/
def GCTL_CAPS_CASCADE : Fld := ⟨31, 0x2C, [], (0, 0), 32, 2, 1, .ro, fun _ => 1⟩
/-- GCTL_CAPS.PEER, R45. -/
def GCTL_CAPS_PEER : Fld := ⟨32, 0x2C, [], (0, 0), 32, 1, 1, .ro, fun _ => 1⟩
/-- GCTL_CAPS.HDM, R45. -/
def GCTL_CAPS_HDM : Fld := ⟨33, 0x2C, [], (0, 0), 32, 0, 1, .ro, fun _ => 1⟩
/-- GCTL_SCRATCH.SCRATCH, R45. -/
def GCTL_SCRATCH_SCRATCH : Fld := ⟨34, 0x30, [], (0, 0), 32, 0, 32, .rw, fun _ => 0x00000000⟩
/-- GCTL_SERIAL_LO.SERIAL, R45. -/
def GCTL_SERIAL_LO_SERIAL : Fld := ⟨35, 0x8, [], (0, 0), 32, 0, 32, .ro, fun _ => 0⟩
/-- GCTL_SERIAL_HI.SERIAL, R45. -/
def GCTL_SERIAL_HI_SERIAL : Fld := ⟨36, 0xC, [], (0, 0), 32, 0, 32, .ro, fun _ => 0⟩

/-- The fields of the GCTL registers, in the order of their tables. -/
def tableGCTL : List Fld :=
  [GCTL_ID_PART, GCTL_REV_SEALED, GCTL_REV_ORDER_S, GCTL_REV_BASE,
   GCTL_REV_METAL, GCTL_FW_VER_MAJOR, GCTL_FW_VER_MINOR, GCTL_FW_VER_BUILD,
   GCTL_BOOT_FELL_BACK, GCTL_BOOT_TRIAL, GCTL_BOOT_ACTIVE_TWIN, GCTL_CELL_MGMT_ADDR,
   GCTL_CELL_STACK_SIZE, GCTL_CELL_STACKED, GCTL_CELL_MASTER, GCTL_CELL_CELL_NUM,
   GCTL_SIZE_STN_FITTED, GCTL_SIZE_MAG_SLOTS, GCTL_STATUS_CINDER_CAUSE, GCTL_STATUS_FAULT,
   GCTL_STATUS_STACK_UP, GCTL_STATUS_TIME_LOCKED, GCTL_STATUS_FW_READY, GCTL_STATUS_MODE,
   GCTL_CTRL_HOLD_ACK, GCTL_CTRL_FETCH_HOLD, GCTL_RESET_KEY, GCTL_RESET_SCOPE,
   GCTL_CAPS_STATIONS_MAX, GCTL_CAPS_SLICES, GCTL_CAPS_TALLY, GCTL_CAPS_CASCADE,
   GCTL_CAPS_PEER, GCTL_CAPS_HDM, GCTL_SCRATCH_SCRATCH, GCTL_SERIAL_LO_SERIAL,
   GCTL_SERIAL_HI_SERIAL]

/-- TIME_NOW.SEC, R97. -/
def TIME_NOW_SEC : Fld := ⟨704, 0x20000, [], (0, 0), 64, 32, 32, .ro, fun _ => 0⟩
/-- TIME_NOW.TICK, R97. -/
def TIME_NOW_TICK : Fld := ⟨705, 0x20000, [], (0, 0), 64, 0, 31, .ro, fun _ => 0⟩
/-- TIME_LOAD.SEC, R97. -/
def TIME_LOAD_SEC : Fld := ⟨706, 0x20008, [], (0, 0), 64, 32, 32, .rw, fun _ => 0⟩
/-- TIME_LOAD.TICK, R97. -/
def TIME_LOAD_TICK : Fld := ⟨707, 0x20008, [], (0, 0), 64, 0, 31, .rw, fun _ => 0⟩
/-- TIME_CTRL.NO_STEP, R97. -/
def TIME_CTRL_NO_STEP : Fld := ⟨708, 0x20010, [], (0, 0), 32, 4, 1, .rw, fun _ => 0⟩
/-- TIME_CTRL.LOAD, R97. -/
def TIME_CTRL_LOAD : Fld := ⟨709, 0x20010, [], (0, 0), 32, 2, 1, .w1s, fun _ => 0⟩
/-- TIME_CTRL.PPS_FALL, R97. -/
def TIME_CTRL_PPS_FALL : Fld := ⟨710, 0x20010, [], (0, 0), 32, 1, 1, .rw, fun _ => 0⟩
/-- TIME_CTRL.PPS_EN, R97. -/
def TIME_CTRL_PPS_EN : Fld := ⟨711, 0x20010, [], (0, 0), 32, 0, 1, .rw, fun _ => 1⟩
/-- TIME_STATUS.FREQ_LIM, R97. -/
def TIME_STATUS_FREQ_LIM : Fld := ⟨712, 0x20014, [], (0, 0), 32, 10, 1, .ro, fun _ => 0⟩
/-- TIME_STATUS.PPS_REJ, R97. -/
def TIME_STATUS_PPS_REJ : Fld := ⟨713, 0x20014, [], (0, 0), 32, 9, 1, .w1c, fun _ => 0⟩
/-- TIME_STATUS.STEPPED, R97. -/
def TIME_STATUS_STEPPED : Fld := ⟨714, 0x20014, [], (0, 0), 32, 8, 1, .w1c, fun _ => 0⟩
/-- TIME_STATUS.STEP_PENDING, R97. -/
def TIME_STATUS_STEP_PENDING : Fld := ⟨715, 0x20014, [], (0, 0), 32, 4, 1, .ro, fun _ => 0⟩
/-- TIME_STATUS.LOAD_PENDING, R97. -/
def TIME_STATUS_LOAD_PENDING : Fld := ⟨716, 0x20014, [], (0, 0), 32, 3, 1, .ro, fun _ => 0⟩
/-- TIME_STATUS.STATE, R97. -/
def TIME_STATUS_STATE : Fld := ⟨717, 0x20014, [], (0, 0), 32, 0, 3, .ro, fun _ => 0x0⟩
/-- TIME_PPS_CAP.CAP, R97. -/
def TIME_PPS_CAP_CAP : Fld := ⟨718, 0x20018, [], (0, 0), 64, 0, 64, .ro, fun _ => 0⟩
/-- TIME_ERR.ERR, R97. -/
def TIME_ERR_ERR : Fld := ⟨719, 0x20020, [], (0, 0), 32, 0, 32, .ro, fun _ => 0⟩
/-- TIME_FREQ.FREQ, R97. -/
def TIME_FREQ_FREQ : Fld := ⟨720, 0x20024, [], (0, 0), 32, 0, 32, .ro, fun _ => 0⟩
/-- TIME_DISC.SLEW_MAX, R97. -/
def TIME_DISC_SLEW_MAX : Fld := ⟨721, 0x20028, [], (0, 0), 32, 24, 8, .rw, fun _ => 0x14⟩
/-- TIME_DISC.STEP_CONFIRM, R97. -/
def TIME_DISC_STEP_CONFIRM : Fld := ⟨722, 0x20028, [], (0, 0), 32, 20, 4, .rw, fun _ => 0x3⟩
/-- TIME_DISC.SLEW_LIMIT, R97. -/
def TIME_DISC_SLEW_LIMIT : Fld := ⟨723, 0x20028, [], (0, 0), 32, 0, 20, .rw, fun _ => 0x124F8⟩
/-- TIME_LOCK.HOLD_MISS, R97. -/
def TIME_LOCK_HOLD_MISS : Fld := ⟨724, 0x2002C, [], (0, 0), 32, 20, 4, .rw, fun _ => 0x2⟩
/-- TIME_LOCK.LOCK_COUNT, R97. -/
def TIME_LOCK_LOCK_COUNT : Fld := ⟨725, 0x2002C, [], (0, 0), 32, 16, 4, .rw, fun _ => 0x4⟩
/-- TIME_LOCK.LOCK_WINDOW, R97. -/
def TIME_LOCK_LOCK_WINDOW : Fld := ⟨726, 0x2002C, [], (0, 0), 32, 0, 16, .rw, fun _ => 0x05DC⟩
/-- TIME_VG_CFG.SEEK_MIN, R97. -/
def TIME_VG_CFG_SEEK_MIN : Fld := ⟨727, 0x20100, [(16, 0x10)], (0, 0), 32, 24, 8, .rw, fun _ => 0x14⟩
/-- TIME_VG_CFG.SPINUP_GAP, R97. -/
def TIME_VG_CFG_SPINUP_GAP : Fld := ⟨728, 0x20100, [(16, 0x10)], (0, 0), 32, 16, 8, .rw, fun _ => 0x32⟩
/-- TIME_VG_CFG.SEEK_SLOT, R97. -/
def TIME_VG_CFG_SEEK_SLOT : Fld := ⟨729, 0x20100, [(16, 0x10)], (0, 0), 32, 8, 8, .rw, fun _ => 0x1E⟩
/-- TIME_VG_CFG.SEEK_MAX, R97. -/
def TIME_VG_CFG_SEEK_MAX : Fld := ⟨730, 0x20100, [(16, 0x10)], (0, 0), 32, 4, 4, .rw, fun _ => 0x2⟩
/-- TIME_VG_CFG.PHASE_EN, R97. -/
def TIME_VG_CFG_PHASE_EN : Fld := ⟨731, 0x20100, [(16, 0x10)], (0, 0), 32, 0, 1, .rw, fun _ => 0⟩
/-- TIME_VG_MAP.MEMBER, R97. -/
def TIME_VG_MAP_MEMBER : Fld := ⟨732, 0x20200, [(128, 0x4)], (0, 0), 32, 4, 1, .rw, fun _ => 0⟩
/-- TIME_VG_MAP.GROUP, R97. -/
def TIME_VG_MAP_GROUP : Fld := ⟨733, 0x20200, [(128, 0x4)], (0, 0), 32, 0, 4, .rw, fun _ => 0x0⟩
/-- TIME_STEPS.COUNT, R97. -/
def TIME_STEPS_COUNT : Fld := ⟨734, 0x20030, [], (0, 0), 32, 0, 32, .ro, fun _ => 0⟩
/-- TIME_LATE.COUNT, R97. -/
def TIME_LATE_COUNT : Fld := ⟨735, 0x20034, [], (0, 0), 32, 0, 32, .ro, fun _ => 0⟩

/-- The fields of the TIME registers, in the order of their tables. -/
def tableTIME : List Fld :=
  [TIME_NOW_SEC, TIME_NOW_TICK, TIME_LOAD_SEC, TIME_LOAD_TICK,
   TIME_CTRL_NO_STEP, TIME_CTRL_LOAD, TIME_CTRL_PPS_FALL, TIME_CTRL_PPS_EN,
   TIME_STATUS_FREQ_LIM, TIME_STATUS_PPS_REJ, TIME_STATUS_STEPPED, TIME_STATUS_STEP_PENDING,
   TIME_STATUS_LOAD_PENDING, TIME_STATUS_STATE, TIME_PPS_CAP_CAP, TIME_ERR_ERR,
   TIME_FREQ_FREQ, TIME_DISC_SLEW_MAX, TIME_DISC_STEP_CONFIRM, TIME_DISC_SLEW_LIMIT,
   TIME_LOCK_HOLD_MISS, TIME_LOCK_LOCK_COUNT, TIME_LOCK_LOCK_WINDOW, TIME_VG_CFG_SEEK_MIN,
   TIME_VG_CFG_SPINUP_GAP, TIME_VG_CFG_SEEK_SLOT, TIME_VG_CFG_SEEK_MAX, TIME_VG_CFG_PHASE_EN,
   TIME_VG_MAP_MEMBER, TIME_VG_MAP_GROUP, TIME_STEPS_COUNT, TIME_LATE_COUNT]

/-- STN_LINK_CTRL.TX_PRESET, R177. -/
def STN_LINK_CTRL_TX_PRESET : Fld := ⟨4096, 0x100000, [(128, 0x10000)], (0, 0), 32, 8, 4, .rw, fun _ => 0x5⟩
/-- STN_LINK_CTRL.RELEASE, R177. -/
def STN_LINK_CTRL_RELEASE : Fld := ⟨4097, 0x100000, [(128, 0x10000)], (0, 0), 32, 3, 1, .w1s, fun _ => 0⟩
/-- STN_LINK_CTRL.RETRAIN, R177. -/
def STN_LINK_CTRL_RETRAIN : Fld := ⟨4098, 0x100000, [(128, 0x10000)], (0, 0), 32, 2, 1, .w1s, fun _ => 0⟩
/-- STN_LINK_CTRL.AUTO_RETRAIN, R177. -/
def STN_LINK_CTRL_AUTO_RETRAIN : Fld := ⟨4099, 0x100000, [(128, 0x10000)], (0, 0), 32, 1, 1, .rw, fun _ => 1⟩
/-- STN_LINK_CTRL.ENABLE, R177. -/
def STN_LINK_CTRL_ENABLE : Fld := ⟨4100, 0x100000, [(128, 0x10000)], (0, 0), 32, 0, 1, .rw, fun _ => 1⟩
/-- STN_LINK_STATUS.FE_SAFE, R177. -/
def STN_LINK_STATUS_FE_SAFE : Fld := ⟨4101, 0x100004, [(128, 0x10000)], (0, 0), 32, 11, 1, .ro, fun _ => 0⟩
/-- STN_LINK_STATUS.RETRAIN_PENDING, R177. -/
def STN_LINK_STATUS_RETRAIN_PENDING : Fld := ⟨4102, 0x100004, [(128, 0x10000)], (0, 0), 32, 10, 1, .ro, fun _ => 0⟩
/-- STN_LINK_STATUS.LANE1_LOCK, R177. -/
def STN_LINK_STATUS_LANE1_LOCK : Fld := ⟨4103, 0x100004, [(128, 0x10000)], (0, 0), 32, 9, 1, .ro, fun _ => 0⟩
/-- STN_LINK_STATUS.LANE0_LOCK, R177. -/
def STN_LINK_STATUS_LANE0_LOCK : Fld := ⟨4104, 0x100004, [(128, 0x10000)], (0, 0), 32, 8, 1, .ro, fun _ => 0⟩
/-- STN_LINK_STATUS.STATE, R177. -/
def STN_LINK_STATUS_STATE : Fld := ⟨4105, 0x100004, [(128, 0x10000)], (0, 0), 32, 0, 3, .ro, fun _ => 0x0⟩
/-- STN_LINK_LAT.LAT_VALID, R177. -/
def STN_LINK_LAT_LAT_VALID : Fld := ⟨4106, 0x100008, [(128, 0x10000)], (0, 0), 32, 31, 1, .ro, fun _ => 0⟩
/-- STN_LINK_LAT.RAW, R177. -/
def STN_LINK_LAT_RAW : Fld := ⟨4107, 0x100008, [(128, 0x10000)], (0, 0), 32, 0, 10, .ro, fun _ => 0x000⟩
/-- STN_LINK_SKEW.TRIM, R177. -/
def STN_LINK_SKEW_TRIM : Fld := ⟨4108, 0x10000C, [(128, 0x10000)], (0, 0), 32, 0, 8, .rw, fun _ => 0x00⟩
/-- STN_LINK_RETX.RETX, R177. -/
def STN_LINK_RETX_RETX : Fld := ⟨4109, 0x100018, [(128, 0x10000)], (0, 0), 32, 0, 32, .ro, fun _ => 0⟩
/-- STN_LINK_EVT.DEGRADED, R177. -/
def STN_LINK_EVT_DEGRADED : Fld := ⟨4110, 0x10001C, [(128, 0x10000)], (0, 0), 32, 6, 1, .w1c, fun _ => 0⟩
/-- STN_LINK_EVT.REG_TIMEOUT, R177. -/
def STN_LINK_EVT_REG_TIMEOUT : Fld := ⟨4111, 0x10001C, [(128, 0x10000)], (0, 0), 32, 5, 1, .w1c, fun _ => 0⟩
/-- STN_LINK_EVT.POWER_CYCLED, R177. -/
def STN_LINK_EVT_POWER_CYCLED : Fld := ⟨4112, 0x10001C, [(128, 0x10000)], (0, 0), 32, 4, 1, .w1c, fun _ => 0⟩
/-- STN_LINK_EVT.FE_SAFE_ENTERED, R177. -/
def STN_LINK_EVT_FE_SAFE_ENTERED : Fld := ⟨4113, 0x10001C, [(128, 0x10000)], (0, 0), 32, 3, 1, .w1c, fun _ => 0⟩
/-- STN_LINK_EVT.TRAIN_FAIL, R177. -/
def STN_LINK_EVT_TRAIN_FAIL : Fld := ⟨4114, 0x10001C, [(128, 0x10000)], (0, 0), 32, 2, 1, .w1c, fun _ => 0⟩
/-- STN_LINK_EVT.DOWN, R177. -/
def STN_LINK_EVT_DOWN : Fld := ⟨4115, 0x10001C, [(128, 0x10000)], (0, 0), 32, 1, 1, .w1c, fun _ => 0⟩
/-- STN_LINK_EVT.UP, R177. -/
def STN_LINK_EVT_UP : Fld := ⟨4116, 0x10001C, [(128, 0x10000)], (0, 0), 32, 0, 1, .w1c, fun _ => 0⟩
/-- STN_REG_CMD.RESULT, R177. -/
def STN_REG_CMD_RESULT : Fld := ⟨4117, 0x100030, [(128, 0x10000)], (0, 0), 32, 10, 2, .ro, fun _ => 0x0⟩
/-- STN_REG_CMD.DONE, R177. -/
def STN_REG_CMD_DONE : Fld := ⟨4118, 0x100030, [(128, 0x10000)], (0, 0), 32, 9, 1, .ro, fun _ => 0⟩
/-- STN_REG_CMD.BUSY, R177. -/
def STN_REG_CMD_BUSY : Fld := ⟨4119, 0x100030, [(128, 0x10000)], (0, 0), 32, 8, 1, .ro, fun _ => 0⟩
/-- STN_REG_CMD.WRITE, R177. -/
def STN_REG_CMD_WRITE : Fld := ⟨4120, 0x100030, [(128, 0x10000)], (0, 0), 32, 1, 1, .rw, fun _ => 0⟩
/-- STN_REG_CMD.GO, R177. -/
def STN_REG_CMD_GO : Fld := ⟨4121, 0x100030, [(128, 0x10000)], (0, 0), 32, 0, 1, .w1s, fun _ => 0⟩
/-- STN_LINK_ERR.MSG_ERR, R177. -/
def STN_LINK_ERR_MSG_ERR : Fld := ⟨4122, 0x100010, [(128, 0x10000)], (0, 0), 32, 16, 16, .ro, fun _ => 0⟩
/-- STN_LINK_ERR.BLOCK_ERR, R177. -/
def STN_LINK_ERR_BLOCK_ERR : Fld := ⟨4123, 0x100010, [(128, 0x10000)], (0, 0), 32, 0, 16, .ro, fun _ => 0⟩
/-- STN_LINK_MISS.FE_MISS, R177. -/
def STN_LINK_MISS_FE_MISS : Fld := ⟨4124, 0x100014, [(128, 0x10000)], (0, 0), 32, 16, 16, .ro, fun _ => 0⟩
/-- STN_LINK_MISS.SENSOR_MISS, R177. -/
def STN_LINK_MISS_SENSOR_MISS : Fld := ⟨4125, 0x100014, [(128, 0x10000)], (0, 0), 32, 0, 16, .ro, fun _ => 0⟩
/-- STN_FE_ID.VALUE, R177. -/
def STN_FE_ID_VALUE : Fld := ⟨4126, 0x100020, [(128, 0x10000)], (0, 0), 32, 0, 32, .ro, fun _ => 0⟩
/-- STN_FE_BOOT.VALUE, R177. -/
def STN_FE_BOOT_VALUE : Fld := ⟨4127, 0x100024, [(128, 0x10000)], (0, 0), 32, 0, 16, .ro, fun _ => 0⟩
/-- STN_REG_ADDR.ADDR, R177. -/
def STN_REG_ADDR_ADDR : Fld := ⟨4128, 0x100028, [(128, 0x10000)], (0, 0), 32, 0, 16, .rw, fun _ => 0⟩
/-- STN_REG_DATA.DATA, R177. -/
def STN_REG_DATA_DATA : Fld := ⟨4129, 0x10002C, [(128, 0x10000)], (0, 0), 32, 0, 32, .rw, fun _ => 0⟩

/-- The fields of the STN registers, in the order of their tables. -/
def tableSTN : List Fld :=
  [STN_LINK_CTRL_TX_PRESET, STN_LINK_CTRL_RELEASE, STN_LINK_CTRL_RETRAIN, STN_LINK_CTRL_AUTO_RETRAIN,
   STN_LINK_CTRL_ENABLE, STN_LINK_STATUS_FE_SAFE, STN_LINK_STATUS_RETRAIN_PENDING, STN_LINK_STATUS_LANE1_LOCK,
   STN_LINK_STATUS_LANE0_LOCK, STN_LINK_STATUS_STATE, STN_LINK_LAT_LAT_VALID, STN_LINK_LAT_RAW,
   STN_LINK_SKEW_TRIM, STN_LINK_RETX_RETX, STN_LINK_EVT_DEGRADED, STN_LINK_EVT_REG_TIMEOUT,
   STN_LINK_EVT_POWER_CYCLED, STN_LINK_EVT_FE_SAFE_ENTERED, STN_LINK_EVT_TRAIN_FAIL, STN_LINK_EVT_DOWN,
   STN_LINK_EVT_UP, STN_REG_CMD_RESULT, STN_REG_CMD_DONE, STN_REG_CMD_BUSY,
   STN_REG_CMD_WRITE, STN_REG_CMD_GO, STN_LINK_ERR_MSG_ERR, STN_LINK_ERR_BLOCK_ERR,
   STN_LINK_MISS_FE_MISS, STN_LINK_MISS_SENSOR_MISS, STN_FE_ID_VALUE, STN_FE_BOOT_VALUE,
   STN_REG_ADDR_ADDR, STN_REG_DATA_DATA]

/-- SLC_CTRL.HOLD_MS, R279. -/
def SLC_CTRL_HOLD_MS : Fld := ⟨4864, 0x900000, [(96, 0x4000)], (0, 0), 32, 16, 16, .rw, fun _ => 0x0014⟩
/-- SLC_CTRL.STAT_CLR, R279. -/
def SLC_CTRL_STAT_CLR : Fld := ⟨4865, 0x900000, [(96, 0x4000)], (0, 0), 32, 4, 1, .w1s, fun _ => 0⟩
/-- SLC_CTRL.EQ_ADAPT, R279. -/
def SLC_CTRL_EQ_ADAPT : Fld := ⟨4866, 0x900000, [(96, 0x4000)], (0, 0), 32, 3, 1, .rw, fun _ => 1⟩
/-- SLC_CTRL.RATE_EN, R279. -/
def SLC_CTRL_RATE_EN : Fld := ⟨4867, 0x900000, [(96, 0x4000)], (0, 0), 32, 2, 1, .rw, fun _ => 1⟩
/-- SLC_CTRL.RELEASE, R279. -/
def SLC_CTRL_RELEASE : Fld := ⟨4868, 0x900000, [(96, 0x4000)], (0, 0), 32, 1, 1, .w1s, fun _ => 0⟩
/-- SLC_CTRL.AVAIL, R279. -/
def SLC_CTRL_AVAIL : Fld := ⟨4869, 0x900000, [(96, 0x4000)], (0, 0), 32, 0, 1, .rw, fun _ => 1⟩
/-- SLC_ASSIGN.ASSIGNED, R279. -/
def SLC_ASSIGN_ASSIGNED : Fld := ⟨4870, 0x900004, [(96, 0x4000)], (0, 0), 32, 31, 1, .ro, fun _ => 0⟩
/-- SLC_ASSIGN.MODE, R279. -/
def SLC_ASSIGN_MODE : Fld := ⟨4871, 0x900004, [(96, 0x4000)], (0, 0), 32, 14, 2, .ro, fun _ => 0x0⟩
/-- SLC_ASSIGN.HEAD, R279. -/
def SLC_ASSIGN_HEAD : Fld := ⟨4872, 0x900004, [(96, 0x4000)], (0, 0), 32, 8, 1, .ro, fun _ => 0⟩
/-- SLC_ASSIGN.STATION, R279. -/
def SLC_ASSIGN_STATION : Fld := ⟨4873, 0x900004, [(96, 0x4000)], (0, 0), 32, 0, 7, .ro, fun _ => 0x00⟩
/-- SLC_STATUS.ENC_READY, R279. -/
def SLC_STATUS_ENC_READY : Fld := ⟨4874, 0x900008, [(96, 0x4000)], (0, 0), 32, 16, 8, .ro, fun _ => 0x00⟩
/-- SLC_STATUS.VFY_PENDING, R279. -/
def SLC_STATUS_VFY_PENDING : Fld := ⟨4875, 0x900008, [(96, 0x4000)], (0, 0), 32, 8, 8, .ro, fun _ => 0x00⟩
/-- SLC_STATUS.BLANK, R279. -/
def SLC_STATUS_BLANK : Fld := ⟨4876, 0x900008, [(96, 0x4000)], (0, 0), 32, 6, 1, .ro, fun _ => 0⟩
/-- SLC_STATUS.TRAIL_CLK, R279. -/
def SLC_STATUS_TRAIL_CLK : Fld := ⟨4877, 0x900008, [(96, 0x4000)], (0, 0), 32, 5, 1, .ro, fun _ => 0⟩
/-- SLC_STATUS.LEAD_CLK, R279. -/
def SLC_STATUS_LEAD_CLK : Fld := ⟨4878, 0x900008, [(96, 0x4000)], (0, 0), 32, 4, 1, .ro, fun _ => 0⟩
/-- SLC_STATUS.STATE, R279. -/
def SLC_STATUS_STATE : Fld := ⟨4879, 0x900008, [(96, 0x4000)], (0, 0), 32, 0, 3, .ro, fun _ => 0x0⟩
/-- SLC_ALIGN.TRAIL_ALIGN, R279. -/
def SLC_ALIGN_TRAIL_ALIGN : Fld := ⟨4880, 0x90000C, [(96, 0x4000)], (0, 0), 32, 16, 16, .rw, fun _ => 0x0000⟩
/-- SLC_ALIGN.LEAD_ALIGN, R279. -/
def SLC_ALIGN_LEAD_ALIGN : Fld := ⟨4881, 0x90000C, [(96, 0x4000)], (0, 0), 32, 0, 16, .rw, fun _ => 0x0000⟩
/-- SLC_OFS.TRAIL_GAIN, R279. -/
def SLC_OFS_TRAIL_GAIN : Fld := ⟨4882, 0x900010, [(96, 0x4000)], (0, 0), 32, 24, 8, .rw, fun _ => 0x80⟩
/-- SLC_OFS.LEAD_GAIN, R279. -/
def SLC_OFS_LEAD_GAIN : Fld := ⟨4883, 0x900010, [(96, 0x4000)], (0, 0), 32, 16, 8, .rw, fun _ => 0x80⟩
/-- SLC_OFS.TRAIL_OFS, R279. -/
def SLC_OFS_TRAIL_OFS : Fld := ⟨4884, 0x900010, [(96, 0x4000)], (0, 0), 32, 8, 8, .rw, fun _ => 0x00⟩
/-- SLC_OFS.LEAD_OFS, R279. -/
def SLC_OFS_LEAD_OFS : Fld := ⟨4885, 0x900010, [(96, 0x4000)], (0, 0), 32, 0, 8, .rw, fun _ => 0x00⟩
/-- SLC_EQ_CTRL.EQ_MU, R279. -/
def SLC_EQ_CTRL_EQ_MU : Fld := ⟨4886, 0x900014, [(96, 0x4000)], (0, 0), 32, 4, 3, .rw, fun _ => 0x4⟩
/-- SLC_EQ_CTRL.WR_DROP, R279. -/
def SLC_EQ_CTRL_WR_DROP : Fld := ⟨4887, 0x900014, [(96, 0x4000)], (0, 0), 32, 2, 1, .w1c, fun _ => 0⟩
/-- SLC_EQ_CTRL.COMMIT_PENDING, R279. -/
def SLC_EQ_CTRL_COMMIT_PENDING : Fld := ⟨4888, 0x900014, [(96, 0x4000)], (0, 0), 32, 1, 1, .ro, fun _ => 0⟩
/-- SLC_EQ_CTRL.COMMIT, R279. -/
def SLC_EQ_CTRL_COMMIT : Fld := ⟨4889, 0x900014, [(96, 0x4000)], (0, 0), 32, 0, 1, .w1s, fun _ => 0⟩
/-- SLC_DET_CFG.LLR_SCALE, R279. -/
def SLC_DET_CFG_LLR_SCALE : Fld := ⟨4890, 0x900018, [(96, 0x4000)], (0, 0), 32, 8, 8, .rw, fun _ => 0x40⟩
/-- SLC_DET_CFG.MAX_ITER, R279. -/
def SLC_DET_CFG_MAX_ITER : Fld := ⟨4891, 0x900018, [(96, 0x4000)], (0, 0), 32, 0, 6, .rw, fun _ => 0x20⟩
/-- SLC_VFY_CFG.HDR_MIN, R279. -/
def SLC_VFY_CFG_HDR_MIN : Fld := ⟨4892, 0x90001C, [(96, 0x4000)], (0, 0), 32, 28, 4, .rw, fun _ => 0xC⟩
/-- SLC_VFY_CFG.FRAME_MAX, R279. -/
def SLC_VFY_CFG_FRAME_MAX : Fld := ⟨4893, 0x90001C, [(96, 0x4000)], (0, 0), 32, 16, 12, .rw, fun _ => 0xB40⟩
/-- SLC_VFY_CFG.CW_MAX, R279. -/
def SLC_VFY_CFG_CW_MAX : Fld := ⟨4894, 0x90001C, [(96, 0x4000)], (0, 0), 32, 0, 12, .rw, fun _ => 0x140⟩
/-- SLC_RATE_CFG.S_MIN, R279. -/
def SLC_RATE_CFG_S_MIN : Fld := ⟨4895, 0x900020, [(96, 0x4000)], (0, 0), 32, 28, 4, .rw, fun _ => 0x4⟩
/-- SLC_RATE_CFG.STEP, R279. -/
def SLC_RATE_CFG_STEP : Fld := ⟨4896, 0x900020, [(96, 0x4000)], (0, 0), 32, 24, 4, .rw, fun _ => 0x1⟩
/-- SLC_RATE_CFG.STALL, R279. -/
def SLC_RATE_CFG_STALL : Fld := ⟨4897, 0x900020, [(96, 0x4000)], (0, 0), 32, 16, 8, .rw, fun _ => 0x30⟩
/-- SLC_RATE_CFG.HIGH, R279. -/
def SLC_RATE_CFG_HIGH : Fld := ⟨4898, 0x900020, [(96, 0x4000)], (0, 0), 32, 8, 8, .rw, fun _ => 0x10⟩
/-- SLC_RATE_CFG.LOW, R279. -/
def SLC_RATE_CFG_LOW : Fld := ⟨4899, 0x900020, [(96, 0x4000)], (0, 0), 32, 0, 8, .rw, fun _ => 0x04⟩
/-- SLC_RATE_STATUS.HOLDING, R279. -/
def SLC_RATE_STATUS_HOLDING : Fld := ⟨4900, 0x900024, [(96, 0x4000)], (0, 0), 32, 17, 1, .ro, fun _ => 0⟩
/-- SLC_RATE_STATUS.PAUSED, R279. -/
def SLC_RATE_STATUS_PAUSED : Fld := ⟨4901, 0x900024, [(96, 0x4000)], (0, 0), 32, 16, 1, .ro, fun _ => 0⟩
/-- SLC_RATE_STATUS.BACKLOG, R279. -/
def SLC_RATE_STATUS_BACKLOG : Fld := ⟨4902, 0x900024, [(96, 0x4000)], (0, 0), 32, 8, 8, .ro, fun _ => 0x00⟩
/-- SLC_RATE_STATUS.SCALE, R279. -/
def SLC_RATE_STATUS_SCALE : Fld := ⟨4903, 0x900024, [(96, 0x4000)], (0, 0), 32, 0, 5, .ro, fun _ => 0x10⟩
/-- SLC_EVT.SPOT_LAG_SHORT, R279. -/
def SLC_EVT_SPOT_LAG_SHORT : Fld := ⟨4904, 0x900028, [(96, 0x4000)], (0, 0), 32, 5, 1, .w1c, fun _ => 0⟩
/-- SLC_EVT.HEADER_MISMATCH, R279. -/
def SLC_EVT_HEADER_MISMATCH : Fld := ⟨4905, 0x900028, [(96, 0x4000)], (0, 0), 32, 4, 1, .w1c, fun _ => 0⟩
/-- SLC_EVT.ZONE_SHORTED, R279. -/
def SLC_EVT_ZONE_SHORTED : Fld := ⟨4906, 0x900028, [(96, 0x4000)], (0, 0), 32, 3, 1, .w1c, fun _ => 0⟩
/-- SLC_EVT.VERIFY_FAIL, R279. -/
def SLC_EVT_VERIFY_FAIL : Fld := ⟨4907, 0x900028, [(96, 0x4000)], (0, 0), 32, 2, 1, .w1c, fun _ => 0⟩
/-- SLC_EVT.SAMPLES_LOST, R279. -/
def SLC_EVT_SAMPLES_LOST : Fld := ⟨4908, 0x900028, [(96, 0x4000)], (0, 0), 32, 1, 1, .w1c, fun _ => 0⟩
/-- SLC_EVT.ROW_SYNC_MISSED, R279. -/
def SLC_EVT_ROW_SYNC_MISSED : Fld := ⟨4909, 0x900028, [(96, 0x4000)], (0, 0), 32, 0, 1, .w1c, fun _ => 0⟩
/-- SLC_LAST_PFA.PFA, R279. -/
def SLC_LAST_PFA_PFA : Fld := ⟨4910, 0x900030, [(96, 0x4000)], (0, 0), 32, 0, 32, .ro, fun _ => 0⟩
/-- SLC_LAST_RES.HDR_COPIES, R279. -/
def SLC_LAST_RES_HDR_COPIES : Fld := ⟨4911, 0x900034, [(96, 0x4000)], (0, 0), 32, 27, 5, .ro, fun _ => 0⟩
/-- SLC_LAST_RES.OUTCOME, R279. -/
def SLC_LAST_RES_OUTCOME : Fld := ⟨4912, 0x900034, [(96, 0x4000)], (0, 0), 32, 24, 3, .ro, fun _ => 0x0⟩
/-- SLC_LAST_RES.ROWS_TRAIL, R279. -/
def SLC_LAST_RES_ROWS_TRAIL : Fld := ⟨4913, 0x900034, [(96, 0x4000)], (0, 0), 32, 16, 8, .ro, fun _ => 0x00⟩
/-- SLC_LAST_RES.CW_FAILED, R279. -/
def SLC_LAST_RES_CW_FAILED : Fld := ⟨4914, 0x900034, [(96, 0x4000)], (0, 0), 32, 11, 5, .ro, fun _ => 0⟩
/-- SLC_LAST_RES.SYNC_MISSED, R279. -/
def SLC_LAST_RES_SYNC_MISSED : Fld := ⟨4915, 0x900034, [(96, 0x4000)], (0, 0), 32, 6, 1, .ro, fun _ => 0⟩
/-- SLC_LAST_RES.ITER_MAX, R279. -/
def SLC_LAST_RES_ITER_MAX : Fld := ⟨4916, 0x900034, [(96, 0x4000)], (0, 0), 32, 0, 6, .ro, fun _ => 0⟩
/-- SLC_STAT.COUNT, R279. -/
def SLC_STAT_COUNT : Fld := ⟨4917, 0x900100, [(96, 0x4000), (13, 0x4)], (0, 0), 32, 0, 32, .ro, fun _ => 0⟩
/-- SLC_EQ_SET.COEF, R279. -/
def SLC_EQ_SET_COEF : Fld := ⟨4918, 0x901000, [(96, 0x4000), (6, 0x100), (4, 0x40), (16, 0x4)], (0, 0), 32, 0, 12, .rw, fun _ => 0⟩

/-- The fields of the SLC registers, in the order of their tables. -/
def tableSLC : List Fld :=
  [SLC_CTRL_HOLD_MS, SLC_CTRL_STAT_CLR, SLC_CTRL_EQ_ADAPT, SLC_CTRL_RATE_EN,
   SLC_CTRL_RELEASE, SLC_CTRL_AVAIL, SLC_ASSIGN_ASSIGNED, SLC_ASSIGN_MODE,
   SLC_ASSIGN_HEAD, SLC_ASSIGN_STATION, SLC_STATUS_ENC_READY, SLC_STATUS_VFY_PENDING,
   SLC_STATUS_BLANK, SLC_STATUS_TRAIL_CLK, SLC_STATUS_LEAD_CLK, SLC_STATUS_STATE,
   SLC_ALIGN_TRAIL_ALIGN, SLC_ALIGN_LEAD_ALIGN, SLC_OFS_TRAIL_GAIN, SLC_OFS_LEAD_GAIN,
   SLC_OFS_TRAIL_OFS, SLC_OFS_LEAD_OFS, SLC_EQ_CTRL_EQ_MU, SLC_EQ_CTRL_WR_DROP,
   SLC_EQ_CTRL_COMMIT_PENDING, SLC_EQ_CTRL_COMMIT, SLC_DET_CFG_LLR_SCALE, SLC_DET_CFG_MAX_ITER,
   SLC_VFY_CFG_HDR_MIN, SLC_VFY_CFG_FRAME_MAX, SLC_VFY_CFG_CW_MAX, SLC_RATE_CFG_S_MIN,
   SLC_RATE_CFG_STEP, SLC_RATE_CFG_STALL, SLC_RATE_CFG_HIGH, SLC_RATE_CFG_LOW,
   SLC_RATE_STATUS_HOLDING, SLC_RATE_STATUS_PAUSED, SLC_RATE_STATUS_BACKLOG, SLC_RATE_STATUS_SCALE,
   SLC_EVT_SPOT_LAG_SHORT, SLC_EVT_HEADER_MISMATCH, SLC_EVT_ZONE_SHORTED, SLC_EVT_VERIFY_FAIL,
   SLC_EVT_SAMPLES_LOST, SLC_EVT_ROW_SYNC_MISSED, SLC_LAST_PFA_PFA, SLC_LAST_RES_HDR_COPIES,
   SLC_LAST_RES_OUTCOME, SLC_LAST_RES_ROWS_TRAIL, SLC_LAST_RES_CW_FAILED, SLC_LAST_RES_SYNC_MISSED,
   SLC_LAST_RES_ITER_MAX, SLC_STAT_COUNT, SLC_EQ_SET_COEF]

/-- LPE_CTRL.SAT_CLR, R378. -/
def LPE_CTRL_SAT_CLR : Fld := ⟨5120, 0xFF0000, [], (0, 0), 32, 1, 1, .w1s, fun _ => 0⟩
/-- LPE_CTRL.RUN, R378. -/
def LPE_CTRL_RUN : Fld := ⟨5121, 0xFF0000, [], (0, 0), 32, 0, 1, .rw, fun _ => 0⟩
/-- LPE_STATUS.K_LO, R378. -/
def LPE_STATUS_K_LO : Fld := ⟨5122, 0xFF0004, [], (0, 0), 32, 16, 16, .ro, fun _ => 0x0000⟩
/-- LPE_STATUS.STATE, R378. -/
def LPE_STATUS_STATE : Fld := ⟨5123, 0xFF0004, [], (0, 0), 32, 0, 3, .ro, fun _ => 0x0⟩
/-- LPE_ERR.VALID, R378. -/
def LPE_ERR_VALID : Fld := ⟨5124, 0xFF0008, [], (0, 0), 32, 31, 1, .w1c, fun _ => 0⟩
/-- LPE_ERR.SLOT, R378. -/
def LPE_ERR_SLOT : Fld := ⟨5125, 0xFF0008, [], (0, 0), 32, 16, 11, .ro, fun _ => 0x000⟩
/-- LPE_ERR.CODE, R378. -/
def LPE_ERR_CODE : Fld := ⟨5126, 0xFF0008, [], (0, 0), 32, 0, 4, .ro, fun _ => 0x0⟩
/-- LPE_SWAP.PENDING, R378. -/
def LPE_SWAP_PENDING : Fld := ⟨5127, 0xFF000C, [], (0, 0), 32, 17, 1, .ro, fun _ => 0⟩
/-- LPE_SWAP.GO, R378. -/
def LPE_SWAP_GO : Fld := ⟨5128, 0xFF000C, [], (0, 0), 32, 16, 1, .w1s, fun _ => 0⟩
/-- LPE_SWAP.MODE, R378. -/
def LPE_SWAP_MODE : Fld := ⟨5129, 0xFF000C, [], (0, 0), 32, 14, 2, .rw, fun _ => 0x0⟩
/-- LPE_SWAP.GROUP, R378. -/
def LPE_SWAP_GROUP : Fld := ⟨5130, 0xFF000C, [], (0, 0), 32, 13, 1, .rw, fun _ => 0⟩
/-- LPE_SWAP.SLOT, R378. -/
def LPE_SWAP_SLOT : Fld := ⟨5131, 0xFF000C, [], (0, 0), 32, 0, 11, .rw, fun _ => 0x000⟩
/-- LPE_LOAD.PEAK_PHASE, R378. -/
def LPE_LOAD_PEAK_PHASE : Fld := ⟨5132, 0xFF0100, [(32, 0x4)], (0, 0), 32, 16, 4, .ro, fun _ => 0x0⟩
/-- LPE_LOAD.PEAK, R378. -/
def LPE_LOAD_PEAK : Fld := ⟨5133, 0xFF0100, [(32, 0x4)], (0, 0), 32, 0, 11, .ro, fun _ => 0x000⟩
/-- DESC_CTRL.STALE_MAX, R360. -/
def DESC_CTRL_STALE_MAX : Fld := ⟨5134, 0xC00000, [(2048, 0x40)], (0, 0), 32, 24, 8, .rw, fun _ => 0x02⟩
/-- DESC_CTRL.STALE_ACT, R360. -/
def DESC_CTRL_STALE_ACT : Fld := ⟨5135, 0xC00000, [(2048, 0x40)], (0, 0), 32, 22, 2, .rw, fun _ => 0x0⟩
/-- DESC_CTRL.EWRAP, R360. -/
def DESC_CTRL_EWRAP : Fld := ⟨5136, 0xC00000, [(2048, 0x40)], (0, 0), 32, 21, 1, .rw, fun _ => 0⟩
/-- DESC_CTRL.INTERP, R360. -/
def DESC_CTRL_INTERP : Fld := ⟨5137, 0xC00000, [(2048, 0x40)], (0, 0), 32, 20, 1, .rw, fun _ => 0⟩
/-- DESC_CTRL.FF_MODE, R360. -/
def DESC_CTRL_FF_MODE : Fld := ⟨5138, 0xC00000, [(2048, 0x40)], (0, 0), 32, 19, 1, .rw, fun _ => 0⟩
/-- DESC_CTRL.FF_EN, R360. -/
def DESC_CTRL_FF_EN : Fld := ⟨5139, 0xC00000, [(2048, 0x40)], (0, 0), 32, 18, 1, .rw, fun _ => 0⟩
/-- DESC_CTRL.NBR, R360. -/
def DESC_CTRL_NBR : Fld := ⟨5140, 0xC00000, [(2048, 0x40)], (0, 0), 32, 16, 2, .rw, fun _ => 0x0⟩
/-- DESC_CTRL.INT_MODE, R360. -/
def DESC_CTRL_INT_MODE : Fld := ⟨5141, 0xC00000, [(2048, 0x40)], (0, 0), 32, 14, 2, .rw, fun _ => 0x0⟩
/-- DESC_CTRL.NSEC, R360. -/
def DESC_CTRL_NSEC : Fld := ⟨5142, 0xC00000, [(2048, 0x40)], (0, 0), 32, 10, 4, .rw, fun _ => 0x0⟩
/-- DESC_CTRL.TYPE, R360. -/
def DESC_CTRL_TYPE : Fld := ⟨5143, 0xC00000, [(2048, 0x40)], (0, 0), 32, 8, 2, .rw, fun _ => 0x0⟩
/-- DESC_CTRL.PHASE, R360. -/
def DESC_CTRL_PHASE : Fld := ⟨5144, 0xC00000, [(2048, 0x40)], (0, 0), 32, 4, 4, .rw, fun _ => 0x0⟩
/-- DESC_CTRL.RATE, R360. -/
def DESC_CTRL_RATE : Fld := ⟨5145, 0xC00000, [(2048, 0x40)], (0, 0), 32, 2, 2, .rw, fun _ => 0x0⟩
/-- DESC_CTRL.BANK, R360. -/
def DESC_CTRL_BANK : Fld := ⟨5146, 0xC00000, [(2048, 0x40)], (0, 0), 32, 1, 1, .ro, fun _ => 0⟩
/-- DESC_CTRL.EN, R360. -/
def DESC_CTRL_EN : Fld := ⟨5147, 0xC00000, [(2048, 0x40)], (0, 0), 32, 0, 1, .rw, fun _ => 0⟩
/-- LPE_SLOT_STAT.START, R378. -/
def LPE_SLOT_STAT_START : Fld := ⟨5148, 0xFE0000, [(2048, 0x4)], (0, 0), 32, 16, 12, .ro, fun _ => 0x000⟩
/-- LPE_SLOT_STAT.STALE_CNT, R378. -/
def LPE_SLOT_STAT_STALE_CNT : Fld := ⟨5149, 0xFE0000, [(2048, 0x4)], (0, 0), 32, 8, 8, .ro, fun _ => 0x00⟩
/-- LPE_SLOT_STAT.SWAP_PENDING, R378. -/
def LPE_SLOT_STAT_SWAP_PENDING : Fld := ⟨5150, 0xFE0000, [(2048, 0x4)], (0, 0), 32, 7, 1, .ro, fun _ => 0⟩
/-- LPE_SLOT_STAT.RAN, R378. -/
def LPE_SLOT_STAT_RAN : Fld := ⟨5151, 0xFE0000, [(2048, 0x4)], (0, 0), 32, 6, 1, .ro, fun _ => 0⟩
/-- LPE_SLOT_STAT.SEL, R378. -/
def LPE_SLOT_STAT_SEL : Fld := ⟨5152, 0xFE0000, [(2048, 0x4)], (0, 0), 32, 4, 2, .ro, fun _ => 0x0⟩
/-- LPE_SLOT_STAT.SAT_LO, R378. -/
def LPE_SLOT_STAT_SAT_LO : Fld := ⟨5153, 0xFE0000, [(2048, 0x4)], (0, 0), 32, 3, 1, .ro, fun _ => 0⟩
/-- LPE_SLOT_STAT.SAT_HI, R378. -/
def LPE_SLOT_STAT_SAT_HI : Fld := ⟨5154, 0xFE0000, [(2048, 0x4)], (0, 0), 32, 2, 1, .ro, fun _ => 0⟩
/-- LPE_SLOT_STAT.STALE, R378. -/
def LPE_SLOT_STAT_STALE : Fld := ⟨5155, 0xFE0000, [(2048, 0x4)], (0, 0), 32, 1, 1, .ro, fun _ => 0⟩
/-- LPE_SLOT_STAT.EN, R378. -/
def LPE_SLOT_STAT_EN : Fld := ⟨5156, 0xFE0000, [(2048, 0x4)], (0, 0), 32, 0, 1, .ro, fun _ => 0⟩
/-- DESC_SRC01.SRC1, R360. -/
def DESC_SRC01_SRC1 : Fld := ⟨5157, 0xC00004, [(2048, 0x40)], (0, 0), 32, 16, 16, .rw, fun _ => 0⟩
/-- DESC_SRC01.SRC0, R360. -/
def DESC_SRC01_SRC0 : Fld := ⟨5158, 0xC00004, [(2048, 0x40)], (0, 0), 32, 0, 16, .rw, fun _ => 0⟩
/-- DESC_SRC23.SRC3, R360. -/
def DESC_SRC23_SRC3 : Fld := ⟨5159, 0xC00008, [(2048, 0x40)], (0, 0), 32, 16, 16, .rw, fun _ => 0⟩
/-- DESC_SRC23.SRC2, R360. -/
def DESC_SRC23_SRC2 : Fld := ⟨5160, 0xC00008, [(2048, 0x40)], (0, 0), 32, 0, 16, .rw, fun _ => 0⟩
/-- DESC_IO.OUT_DEST, R360. -/
def DESC_IO_OUT_DEST : Fld := ⟨5161, 0xC0000C, [(2048, 0x40)], (0, 0), 32, 16, 16, .rw, fun _ => 0⟩
/-- DESC_IO.FF_SRC, R360. -/
def DESC_IO_FF_SRC : Fld := ⟨5162, 0xC0000C, [(2048, 0x40)], (0, 0), 32, 0, 16, .rw, fun _ => 0⟩
/-- DESC_BR01.BR_SRC1, R360. -/
def DESC_BR01_BR_SRC1 : Fld := ⟨5163, 0xC00010, [(2048, 0x40)], (0, 0), 32, 16, 16, .rw, fun _ => 0⟩
/-- DESC_BR01.BR_SRC0, R360. -/
def DESC_BR01_BR_SRC0 : Fld := ⟨5164, 0xC00010, [(2048, 0x40)], (0, 0), 32, 0, 16, .rw, fun _ => 0⟩
/-- DESC_BR2.BR_SRC2, R360. -/
def DESC_BR2_BR_SRC2 : Fld := ⟨5165, 0xC00014, [(2048, 0x40)], (0, 0), 32, 0, 16, .rw, fun _ => 0⟩
/-- LPE_SAFE_CFG.RAMP_MS, R378. -/
def LPE_SAFE_CFG_RAMP_MS : Fld := ⟨5166, 0xFF0010, [], (0, 0), 32, 24, 8, .rw, fun _ => 0x0A⟩
/-- LPE_SAFE_CFG.FOCUS_PARK, R378. -/
def LPE_SAFE_CFG_FOCUS_PARK : Fld := ⟨5167, 0xFF0010, [], (0, 0), 32, 0, 24, .rw, fun _ => 0xE00000⟩
/-- LPE_SAFE_BRAKE.TIMEOUT_S, R378. -/
def LPE_SAFE_BRAKE_TIMEOUT_S : Fld := ⟨5168, 0xFF0014, [], (0, 0), 32, 24, 8, .rw, fun _ => 0x1E⟩
/-- LPE_SAFE_BRAKE.BRAKE_I, R378. -/
def LPE_SAFE_BRAKE_BRAKE_I : Fld := ⟨5169, 0xFF0014, [], (0, 0), 32, 0, 24, .rw, fun _ => 0x100000⟩
/-- LPE_SWAP_SET.BITS, R378. -/
def LPE_SWAP_SET_BITS : Fld := ⟨5170, 0xFF0200, [(64, 0x4)], (0, 0), 32, 0, 32, .rw, fun _ => 0⟩
/-- LPE_SAT.BITS, R378. -/
def LPE_SAT_BITS : Fld := ⟨5171, 0xFF0300, [(64, 0x4)], (0, 0), 32, 0, 32, .w1c, fun _ => 0⟩
/-- LPE_STALE.BITS, R378. -/
def LPE_STALE_BITS : Fld := ⟨5172, 0xFF0400, [(64, 0x4)], (0, 0), 32, 0, 32, .ro, fun _ => 0⟩
/-- LPE_BANK.WORD, R366. -/
def LPE_BANK_WORD : Fld := ⟨5173, 0xD00000, [(2048, 0x200), (2, 0x100), (64, 0x4)], (0, 0), 32, 0, 32, .rw, fun _ => 0⟩
/-- LPE_SIG.VALUE, R377. -/
def LPE_SIG_VALUE : Fld := ⟨5174, 0xF00000, [(2048, 0x10), (4, 0x4)], (0, 0), 32, 0, 32, .ro, fun _ => 0⟩
/-- LPE_STATE[s] value j, 48 bits in the low bytes of 64: s1 and s2 of sections 0 to 7, I, y_prev (R377). -/
def LPE_STATE_VALUE : Fld := ⟨5178, 0xE00000, [(2048, 0x100), (18, 0x8)], (0, 0), 64, 0, 48, .ro, fun _ => 0⟩
/-- LPE_PRM.VALUE, R370. -/
def LPE_PRM_VALUE : Fld := ⟨5175, 0xF10000, [(8192, 0x4)], (0, 0), 32, 0, 24, .rw, fun _ => 0⟩
/-- LPE_OUT.VALUE, R371. -/
def LPE_OUT_VALUE : Fld := ⟨5176, 0xF20000, [(128, 0x80), (24, 0x4)], (0, 0), 32, 0, 24, .rw, fun _ => 0⟩
/-- LPE_OUT.OVR, R371. -/
def LPE_OUT_OVR : Fld := ⟨5177, 0xF20000, [(128, 0x80), (24, 0x4)], (0, 0), 32, 24, 1, .rw, fun _ => 0⟩

/-- The fields of the LPE registers, in the order of their tables. -/
def tableLPE : List Fld :=
  [LPE_CTRL_SAT_CLR, LPE_CTRL_RUN, LPE_STATUS_K_LO, LPE_STATUS_STATE,
   LPE_ERR_VALID, LPE_ERR_SLOT, LPE_ERR_CODE, LPE_SWAP_PENDING,
   LPE_SWAP_GO, LPE_SWAP_MODE, LPE_SWAP_GROUP, LPE_SWAP_SLOT,
   LPE_LOAD_PEAK_PHASE, LPE_LOAD_PEAK, DESC_CTRL_STALE_MAX, DESC_CTRL_STALE_ACT,
   DESC_CTRL_EWRAP, DESC_CTRL_INTERP, DESC_CTRL_FF_MODE, DESC_CTRL_FF_EN,
   DESC_CTRL_NBR, DESC_CTRL_INT_MODE, DESC_CTRL_NSEC, DESC_CTRL_TYPE,
   DESC_CTRL_PHASE, DESC_CTRL_RATE, DESC_CTRL_BANK, DESC_CTRL_EN,
   LPE_SLOT_STAT_START, LPE_SLOT_STAT_STALE_CNT, LPE_SLOT_STAT_SWAP_PENDING, LPE_SLOT_STAT_RAN,
   LPE_SLOT_STAT_SEL, LPE_SLOT_STAT_SAT_LO, LPE_SLOT_STAT_SAT_HI, LPE_SLOT_STAT_STALE,
   LPE_SLOT_STAT_EN, DESC_SRC01_SRC1, DESC_SRC01_SRC0, DESC_SRC23_SRC3,
   DESC_SRC23_SRC2, DESC_IO_OUT_DEST, DESC_IO_FF_SRC, DESC_BR01_BR_SRC1,
   DESC_BR01_BR_SRC0, DESC_BR2_BR_SRC2, LPE_SAFE_CFG_RAMP_MS, LPE_SAFE_CFG_FOCUS_PARK,
   LPE_SAFE_BRAKE_TIMEOUT_S, LPE_SAFE_BRAKE_BRAKE_I, LPE_SWAP_SET_BITS, LPE_SAT_BITS,
   LPE_STALE_BITS, LPE_BANK_WORD, LPE_SIG_VALUE, LPE_STATE_VALUE, LPE_PRM_VALUE,
   LPE_OUT_VALUE, LPE_OUT_OVR]

/-- STN_HD_CTRL.OPC_AUTO, R424. -/
def STN_HD_CTRL_OPC_AUTO : Fld := ⟨4352, 0x101000, [(128, 0x10000), (2, 0x400)], (0, 0), 32, 2, 1, .rw, fun _ => 1⟩
/-- STN_HD_CTRL.AUTO_RECOVER, R424. -/
def STN_HD_CTRL_AUTO_RECOVER : Fld := ⟨4353, 0x101000, [(128, 0x10000), (2, 0x400)], (0, 0), 32, 1, 1, .rw, fun _ => 1⟩
/-- STN_HD_CTRL.EN, R424. -/
def STN_HD_CTRL_EN : Fld := ⟨4354, 0x101000, [(128, 0x10000), (2, 0x400)], (0, 0), 32, 0, 1, .rw, fun _ => 1⟩
/-- STN_HD_CMD.BUSY, R424. -/
def STN_HD_CMD_BUSY : Fld := ⟨4355, 0x101004, [(128, 0x10000), (2, 0x400)], (0, 0), 32, 31, 1, .ro, fun _ => 0⟩
/-- STN_HD_CMD.RESULT, R424. -/
def STN_HD_CMD_RESULT : Fld := ⟨4356, 0x101004, [(128, 0x10000), (2, 0x400)], (0, 0), 32, 28, 3, .ro, fun _ => 0x0⟩
/-- STN_HD_CMD.GO, R424. -/
def STN_HD_CMD_GO : Fld := ⟨4357, 0x101004, [(128, 0x10000), (2, 0x400)], (0, 0), 32, 4, 1, .w1s, fun _ => 0⟩
/-- STN_HD_CMD.OP, R424. -/
def STN_HD_CMD_OP : Fld := ⟨4358, 0x101004, [(128, 0x10000), (2, 0x400)], (0, 0), 32, 0, 4, .rw, fun _ => 0x0⟩
/-- STN_HD_TARGET.LEADIN, R424. -/
def STN_HD_TARGET_LEADIN : Fld := ⟨4359, 0x101008, [(128, 0x10000), (2, 0x400)], (0, 0), 32, 24, 1, .rw, fun _ => 0⟩
/-- STN_HD_TARGET.LAYER, R424. -/
def STN_HD_TARGET_LAYER : Fld := ⟨4360, 0x101008, [(128, 0x10000), (2, 0x400)], (0, 0), 32, 20, 4, .rw, fun _ => 0x0⟩
/-- STN_HD_TARGET.SLOT, R424. -/
def STN_HD_TARGET_SLOT : Fld := ⟨4361, 0x101008, [(128, 0x10000), (2, 0x400)], (0, 0), 32, 0, 20, .rw, fun _ => 0x00000⟩
/-- STN_HD_STATUS.PWR_LIMITED, R424. -/
def STN_HD_STATUS_PWR_LIMITED : Fld := ⟨4362, 0x10100C, [(128, 0x10000), (2, 0x400)], (0, 0), 32, 13, 1, .ro, fun _ => 0⟩
/-- STN_HD_STATUS.WRITING, R424. -/
def STN_HD_STATUS_WRITING : Fld := ⟨4363, 0x10100C, [(128, 0x10000), (2, 0x400)], (0, 0), 32, 12, 1, .ro, fun _ => 0⟩
/-- STN_HD_STATUS.REL_LOCK, R424. -/
def STN_HD_STATUS_REL_LOCK : Fld := ⟨4364, 0x10100C, [(128, 0x10000), (2, 0x400)], (0, 0), 32, 11, 1, .ro, fun _ => 0⟩
/-- STN_HD_STATUS.CLK_LOCK, R424. -/
def STN_HD_STATUS_CLK_LOCK : Fld := ⟨4365, 0x10100C, [(128, 0x10000), (2, 0x400)], (0, 0), 32, 10, 1, .ro, fun _ => 0⟩
/-- STN_HD_STATUS.TRK_LOCK, R424. -/
def STN_HD_STATUS_TRK_LOCK : Fld := ⟨4366, 0x10100C, [(128, 0x10000), (2, 0x400)], (0, 0), 32, 9, 1, .ro, fun _ => 0⟩
/-- STN_HD_STATUS.FOC_LOCK, R424. -/
def STN_HD_STATUS_FOC_LOCK : Fld := ⟨4367, 0x10100C, [(128, 0x10000), (2, 0x400)], (0, 0), 32, 8, 1, .ro, fun _ => 0⟩
/-- STN_HD_STATUS.LAYER, R424. -/
def STN_HD_STATUS_LAYER : Fld := ⟨4368, 0x10100C, [(128, 0x10000), (2, 0x400)], (0, 0), 32, 4, 4, .ro, fun _ => 0x0⟩
/-- STN_HD_STATUS.STATE, R424. -/
def STN_HD_STATUS_STATE : Fld := ⟨4369, 0x10100C, [(128, 0x10000), (2, 0x400)], (0, 0), 32, 0, 4, .ro, fun _ => 0x0⟩
/-- STN_HD_POS.VALID, R424. -/
def STN_HD_POS_VALID : Fld := ⟨4370, 0x101010, [(128, 0x10000), (2, 0x400)], (0, 0), 32, 21, 1, .ro, fun _ => 0⟩
/-- STN_HD_POS.LEADIN, R424. -/
def STN_HD_POS_LEADIN : Fld := ⟨4371, 0x101010, [(128, 0x10000), (2, 0x400)], (0, 0), 32, 20, 1, .ro, fun _ => 0⟩
/-- STN_HD_POS.SLOT, R424. -/
def STN_HD_POS_SLOT : Fld := ⟨4372, 0x101010, [(128, 0x10000), (2, 0x400)], (0, 0), 32, 0, 20, .ro, fun _ => 0x00000⟩
/-- STN_HD_FOC_CFG.SWEEP_MS, R424. -/
def STN_HD_FOC_CFG_SWEEP_MS : Fld := ⟨4373, 0x101014, [(128, 0x10000), (2, 0x400)], (0, 0), 32, 24, 8, .rw, fun _ => 0x32⟩
/-- STN_HD_FOC_CFG.SUM_ACQ, R424. -/
def STN_HD_FOC_CFG_SUM_ACQ : Fld := ⟨4374, 0x101014, [(128, 0x10000), (2, 0x400)], (0, 0), 32, 0, 24, .rw, fun _ => 0x100000⟩
/-- STN_HD_LOSS_CFG.RECOVER_MS, R424. -/
def STN_HD_LOSS_CFG_RECOVER_MS : Fld := ⟨4375, 0x101018, [(128, 0x10000), (2, 0x400)], (0, 0), 32, 24, 8, .rw, fun _ => 0x14⟩
/-- STN_HD_LOSS_CFG.REL_LOSS, R424. -/
def STN_HD_LOSS_CFG_REL_LOSS : Fld := ⟨4376, 0x101018, [(128, 0x10000), (2, 0x400)], (0, 0), 32, 16, 8, .rw, fun _ => 0x40⟩
/-- STN_HD_LOSS_CFG.TE_LOSS, R424. -/
def STN_HD_LOSS_CFG_TE_LOSS : Fld := ⟨4377, 0x101018, [(128, 0x10000), (2, 0x400)], (0, 0), 32, 8, 8, .rw, fun _ => 0x40⟩
/-- STN_HD_LOSS_CFG.SUM_LOSS, R424. -/
def STN_HD_LOSS_CFG_SUM_LOSS : Fld := ⟨4378, 0x101018, [(128, 0x10000), (2, 0x400)], (0, 0), 32, 0, 8, .rw, fun _ => 0x80⟩
/-- STN_HD_TRK_CFG.JUMP_MAX, R424. -/
def STN_HD_TRK_CFG_JUMP_MAX : Fld := ⟨4379, 0x10101C, [(128, 0x10000), (2, 0x400)], (0, 0), 32, 24, 8, .rw, fun _ => 0x40⟩
/-- STN_HD_TRK_CFG.TRK_STEP, R424. -/
def STN_HD_TRK_CFG_TRK_STEP : Fld := ⟨4380, 0x10101C, [(128, 0x10000), (2, 0x400)], (0, 0), 32, 0, 24, .rw, fun _ => 0x008000⟩
/-- STN_HD_SEEK_CFG.SETTLE, R424. -/
def STN_HD_SEEK_CFG_SETTLE : Fld := ⟨4381, 0x101020, [(128, 0x10000), (2, 0x400)], (0, 0), 32, 24, 8, .rw, fun _ => 0x0A⟩
/-- STN_HD_SEEK_CFG.LAND_MARGIN, R424. -/
def STN_HD_SEEK_CFG_LAND_MARGIN : Fld := ⟨4382, 0x101020, [(128, 0x10000), (2, 0x400)], (0, 0), 32, 16, 8, .rw, fun _ => 0x40⟩
/-- STN_HD_SEEK_CFG.TRK_ACQ_MS, R424. -/
def STN_HD_SEEK_CFG_TRK_ACQ_MS : Fld := ⟨4383, 0x101020, [(128, 0x10000), (2, 0x400)], (0, 0), 32, 8, 8, .rw, fun _ => 0x14⟩
/-- STN_HD_SEEK_CFG.TE_CAPTURE, R424. -/
def STN_HD_SEEK_CFG_TE_CAPTURE : Fld := ⟨4384, 0x101020, [(128, 0x10000), (2, 0x400)], (0, 0), 32, 0, 8, .rw, fun _ => 0x20⟩
/-- STN_HD_LJ_CFG.REL_ACQ_MS, R424. -/
def STN_HD_LJ_CFG_REL_ACQ_MS : Fld := ⟨4385, 0x101024, [(128, 0x10000), (2, 0x400)], (0, 0), 32, 16, 8, .rw, fun _ => 0x14⟩
/-- STN_HD_LJ_CFG.LJ_RATE, R424. -/
def STN_HD_LJ_CFG_LJ_RATE : Fld := ⟨4386, 0x101024, [(128, 0x10000), (2, 0x400)], (0, 0), 32, 0, 16, .rw, fun _ => 0x5000⟩
/-- STN_HD_PARK.PARK_PF_MS, R424. -/
def STN_HD_PARK_PARK_PF_MS : Fld := ⟨4387, 0x101030, [(128, 0x10000), (2, 0x400)], (0, 0), 32, 8, 8, .rw, fun _ => 0x02⟩
/-- STN_HD_PARK.PARK_MS, R424. -/
def STN_HD_PARK_PARK_MS : Fld := ⟨4388, 0x101030, [(128, 0x10000), (2, 0x400)], (0, 0), 32, 0, 8, .rw, fun _ => 0x0A⟩
/-- STN_HD_OPC_CFG.OPC_LO, R424. -/
def STN_HD_OPC_CFG_OPC_LO : Fld := ⟨4389, 0x101034, [(128, 0x10000), (2, 0x400)], (0, 0), 32, 24, 8, .rw, fun _ => 0xC0⟩
/-- STN_HD_OPC_CFG.OPC_STEP, R424. -/
def STN_HD_OPC_CFG_OPC_STEP : Fld := ⟨4390, 0x101034, [(128, 0x10000), (2, 0x400)], (0, 0), 32, 16, 8, .rw, fun _ => 0x10⟩
/-- STN_HD_OPC_CFG.OPC_MARGIN, R424. -/
def STN_HD_OPC_CFG_OPC_MARGIN : Fld := ⟨4391, 0x101034, [(128, 0x10000), (2, 0x400)], (0, 0), 32, 8, 8, .rw, fun _ => 0x08⟩
/-- STN_HD_OPC_CFG.OPC_DTEMP, R424. -/
def STN_HD_OPC_CFG_OPC_DTEMP : Fld := ⟨4392, 0x101034, [(128, 0x10000), (2, 0x400)], (0, 0), 32, 0, 8, .rw, fun _ => 0x08⟩
/-- STN_HD_OPC_RES.E_MIN, R424. -/
def STN_HD_OPC_RES_E_MIN : Fld := ⟨4393, 0x101038, [(128, 0x10000), (2, 0x400)], (0, 0), 32, 16, 16, .ro, fun _ => 0x0000⟩
/-- STN_HD_OPC_RES.E_MAX, R424. -/
def STN_HD_OPC_RES_E_MAX : Fld := ⟨4394, 0x101038, [(128, 0x10000), (2, 0x400)], (0, 0), 32, 4, 12, .rw, fun _ => 0x100⟩
/-- STN_HD_OPC_RES.LAYER, R424. -/
def STN_HD_OPC_RES_LAYER : Fld := ⟨4395, 0x101038, [(128, 0x10000), (2, 0x400)], (0, 0), 32, 0, 4, .ro, fun _ => 0x0⟩
/-- STN_HD_EVT.EVENTS, R424. -/
def STN_HD_EVT_EVENTS : Fld := ⟨4396, 0x10103C, [(128, 0x10000), (2, 0x400)], (0, 0), 32, 0, 12, .w1c, fun _ => 0x000⟩
/-- STN_HD_WPWR.VALID, R424. -/
def STN_HD_WPWR_VALID : Fld := ⟨4397, 0x1010C0, [(128, 0x10000), (2, 0x400), (16, 0x4)], (0, 0), 32, 31, 1, .ro, fun _ => 0⟩
/-- STN_HD_WPWR.WRITE_SP, R424. -/
def STN_HD_WPWR_WRITE_SP : Fld := ⟨4398, 0x1010C0, [(128, 0x10000), (2, 0x400), (16, 0x4)], (0, 0), 32, 0, 24, .rw, fun _ => 0x000000⟩
/-- STN_HD_PWR.READ_SP, R424. -/
def STN_HD_PWR_READ_SP : Fld := ⟨4399, 0x101028, [(128, 0x10000), (2, 0x400)], (0, 0), 32, 0, 24, .rw, fun _ => 0x0C0000⟩
/-- STN_HD_GAIN.REL_SLOPE, R424. -/
def STN_HD_GAIN_REL_SLOPE : Fld := ⟨4400, 0x10102C, [(128, 0x10000), (2, 0x400)], (0, 0), 32, 0, 24, .rw, fun _ => 0x200000⟩
/-- STN_HD_LAYER_REL.REL_NOM, R424. -/
def STN_HD_LAYER_REL_REL_NOM : Fld := ⟨4401, 0x101040, [(128, 0x10000), (2, 0x400), (16, 0x8)], (0, 0), 32, 0, 24, .rw, fun i => ((90*0x10000 + 0x1000000 - 12*0x10000*(i % 16)) % 0x1000000)⟩
/-- STN_HD_LAYER_SA.SA, R424. -/
def STN_HD_LAYER_SA_SA : Fld := ⟨4402, 0x101044, [(128, 0x10000), (2, 0x400), (16, 0x8)], (0, 0), 32, 0, 24, .rw, fun i => ((90*0x10000 + 0x1000000 - 12*0x10000*(i % 16)) % 0x1000000)⟩

/-- The fields of the HD registers, in the order of their tables. -/
def tableHD : List Fld :=
  [STN_HD_CTRL_OPC_AUTO, STN_HD_CTRL_AUTO_RECOVER, STN_HD_CTRL_EN, STN_HD_CMD_BUSY,
   STN_HD_CMD_RESULT, STN_HD_CMD_GO, STN_HD_CMD_OP, STN_HD_TARGET_LEADIN,
   STN_HD_TARGET_LAYER, STN_HD_TARGET_SLOT, STN_HD_STATUS_PWR_LIMITED, STN_HD_STATUS_WRITING,
   STN_HD_STATUS_REL_LOCK, STN_HD_STATUS_CLK_LOCK, STN_HD_STATUS_TRK_LOCK, STN_HD_STATUS_FOC_LOCK,
   STN_HD_STATUS_LAYER, STN_HD_STATUS_STATE, STN_HD_POS_VALID, STN_HD_POS_LEADIN,
   STN_HD_POS_SLOT, STN_HD_FOC_CFG_SWEEP_MS, STN_HD_FOC_CFG_SUM_ACQ, STN_HD_LOSS_CFG_RECOVER_MS,
   STN_HD_LOSS_CFG_REL_LOSS, STN_HD_LOSS_CFG_TE_LOSS, STN_HD_LOSS_CFG_SUM_LOSS, STN_HD_TRK_CFG_JUMP_MAX,
   STN_HD_TRK_CFG_TRK_STEP, STN_HD_SEEK_CFG_SETTLE, STN_HD_SEEK_CFG_LAND_MARGIN, STN_HD_SEEK_CFG_TRK_ACQ_MS,
   STN_HD_SEEK_CFG_TE_CAPTURE, STN_HD_LJ_CFG_REL_ACQ_MS, STN_HD_LJ_CFG_LJ_RATE, STN_HD_PARK_PARK_PF_MS,
   STN_HD_PARK_PARK_MS, STN_HD_OPC_CFG_OPC_LO, STN_HD_OPC_CFG_OPC_STEP, STN_HD_OPC_CFG_OPC_MARGIN,
   STN_HD_OPC_CFG_OPC_DTEMP, STN_HD_OPC_RES_E_MIN, STN_HD_OPC_RES_E_MAX, STN_HD_OPC_RES_LAYER,
   STN_HD_EVT_EVENTS, STN_HD_WPWR_VALID, STN_HD_WPWR_WRITE_SP, STN_HD_PWR_READ_SP,
   STN_HD_GAIN_REL_SLOPE, STN_HD_LAYER_REL_REL_NOM, STN_HD_LAYER_SA_SA]

/-- STN_SP_CTRL.CLEAR, R482. -/
def STN_SP_CTRL_CLEAR : Fld := ⟨4608, 0x102000, [(128, 0x10000)], (0, 0), 32, 3, 1, .w1s, fun _ => 0⟩
/-- STN_SP_CTRL.PHASE_ALLOW, R482. -/
def STN_SP_CTRL_PHASE_ALLOW : Fld := ⟨4609, 0x102000, [(128, 0x10000)], (0, 0), 32, 2, 1, .rw, fun _ => 1⟩
/-- STN_SP_CTRL.AUTO_RESTART, R482. -/
def STN_SP_CTRL_AUTO_RESTART : Fld := ⟨4610, 0x102000, [(128, 0x10000)], (0, 0), 32, 1, 1, .rw, fun _ => 1⟩
/-- STN_SP_CTRL.EN, R482. -/
def STN_SP_CTRL_EN : Fld := ⟨4611, 0x102000, [(128, 0x10000)], (0, 0), 32, 0, 1, .rw, fun _ => 1⟩
/-- STN_SP_TARGET.RPM, R482. -/
def STN_SP_TARGET_RPM : Fld := ⟨4612, 0x102004, [(128, 0x10000)], (0, 0), 32, 0, 14, .rw, fun _ => 0x0000⟩
/-- STN_SP_STATUS.FAULT_CAUSE, R482. -/
def STN_SP_STATUS_FAULT_CAUSE : Fld := ⟨4613, 0x102008, [(128, 0x10000)], (0, 0), 32, 20, 4, .ro, fun _ => 0x0⟩
/-- STN_SP_STATUS.ATTEMPT, R482. -/
def STN_SP_STATUS_ATTEMPT : Fld := ⟨4614, 0x102008, [(128, 0x10000)], (0, 0), 32, 16, 2, .ro, fun _ => 0x0⟩
/-- STN_SP_STATUS.REVERSE, R482. -/
def STN_SP_STATUS_REVERSE : Fld := ⟨4615, 0x102008, [(128, 0x10000)], (0, 0), 32, 7, 1, .ro, fun _ => 0⟩
/-- STN_SP_STATUS.SHORT, R482. -/
def STN_SP_STATUS_SHORT : Fld := ⟨4616, 0x102008, [(128, 0x10000)], (0, 0), 32, 6, 1, .ro, fun _ => 0⟩
/-- STN_SP_STATUS.PHASE_LOCKED, R482. -/
def STN_SP_STATUS_PHASE_LOCKED : Fld := ⟨4617, 0x102008, [(128, 0x10000)], (0, 0), 32, 5, 1, .ro, fun _ => 0⟩
/-- STN_SP_STATUS.AT_SPEED, R482. -/
def STN_SP_STATUS_AT_SPEED : Fld := ⟨4618, 0x102008, [(128, 0x10000)], (0, 0), 32, 4, 1, .ro, fun _ => 0⟩
/-- STN_SP_STATUS.STATE, R482. -/
def STN_SP_STATUS_STATE : Fld := ⟨4619, 0x102008, [(128, 0x10000)], (0, 0), 32, 0, 4, .ro, fun _ => 0x0⟩
/-- STN_SP_SPEED.SP_RPM, R482. -/
def STN_SP_SPEED_SP_RPM : Fld := ⟨4620, 0x10200C, [(128, 0x10000)], (0, 0), 32, 16, 16, .ro, fun _ => 0x0000⟩
/-- STN_SP_SPEED.RPM, R482. -/
def STN_SP_SPEED_RPM : Fld := ⟨4621, 0x10200C, [(128, 0x10000)], (0, 0), 32, 0, 16, .ro, fun _ => 0x0000⟩
/-- STN_SP_SLOTS.SPD_SLOT, R482. -/
def STN_SP_SLOTS_SPD_SLOT : Fld := ⟨4622, 0x102010, [(128, 0x10000)], (0, 0), 32, 16, 11, .rw, fun i => (16*i + 15)⟩
/-- STN_SP_SLOTS.FOC_SLOT, R482. -/
def STN_SP_SLOTS_FOC_SLOT : Fld := ⟨4623, 0x102010, [(128, 0x10000)], (0, 0), 32, 0, 11, .rw, fun i => (16*i + 14)⟩
/-- STN_SP_START_CFG.ALIGN_MS, R482. -/
def STN_SP_START_CFG_ALIGN_MS : Fld := ⟨4624, 0x102014, [(128, 0x10000)], (0, 0), 32, 24, 8, .rw, fun _ => 0x96⟩
/-- STN_SP_START_CFG.HANDOVER, R482. -/
def STN_SP_START_CFG_HANDOVER : Fld := ⟨4625, 0x102014, [(128, 0x10000)], (0, 0), 32, 16, 8, .rw, fun _ => 0x3C⟩
/-- STN_SP_START_CFG.RAMP_RATE, R482. -/
def STN_SP_START_CFG_RAMP_RATE : Fld := ⟨4626, 0x102014, [(128, 0x10000)], (0, 0), 32, 8, 8, .rw, fun _ => 0x1E⟩
/-- STN_SP_START_CFG.BEMF_MIN, R482. -/
def STN_SP_START_CFG_BEMF_MIN : Fld := ⟨4627, 0x102014, [(128, 0x10000)], (0, 0), 32, 0, 8, .rw, fun _ => 0x02⟩
/-- STN_SP_RUN_CFG.SLEW, R482. -/
def STN_SP_RUN_CFG_SLEW : Fld := ⟨4628, 0x102018, [(128, 0x10000)], (0, 0), 32, 16, 16, .rw, fun _ => 0x0FA0⟩
/-- STN_SP_RUN_CFG.PHASE_SLEW, R482. -/
def STN_SP_RUN_CFG_PHASE_SLEW : Fld := ⟨4629, 0x102018, [(128, 0x10000)], (0, 0), 32, 8, 8, .rw, fun _ => 0x64⟩
/-- STN_SP_PHASE_CFG.PH_GAIN, R482. -/
def STN_SP_PHASE_CFG_PH_GAIN : Fld := ⟨4630, 0x10201C, [(128, 0x10000)], (0, 0), 32, 16, 16, .rw, fun _ => 0x0190⟩
/-- STN_SP_PHASE_CFG.PH_LOCK, R482. -/
def STN_SP_PHASE_CFG_PH_LOCK : Fld := ⟨4631, 0x10201C, [(128, 0x10000)], (0, 0), 32, 0, 16, .rw, fun _ => 0x0400⟩
/-- STN_SP_OBS_CFG.RES_TRIP, R482. -/
def STN_SP_OBS_CFG_RES_TRIP : Fld := ⟨4632, 0x102020, [(128, 0x10000)], (0, 0), 32, 0, 24, .rw, fun _ => 0x080000⟩
/-- STN_SP_BRAKE_CFG.VBUS_MAX, R482. -/
def STN_SP_BRAKE_CFG_VBUS_MAX : Fld := ⟨4633, 0x102024, [(128, 0x10000)], (0, 0), 32, 24, 8, .rw, fun _ => 0x93⟩
/-- STN_SP_BRAKE_CFG.VBUS_RESUME, R482. -/
def STN_SP_BRAKE_CFG_VBUS_RESUME : Fld := ⟨4634, 0x102024, [(128, 0x10000)], (0, 0), 32, 16, 8, .rw, fun _ => 0x8A⟩
/-- STN_SP_BRAKE_CFG.HOLD_MS, R482. -/
def STN_SP_BRAKE_CFG_HOLD_MS : Fld := ⟨4635, 0x102024, [(128, 0x10000)], (0, 0), 32, 8, 8, .rw, fun _ => 0x32⟩
/-- STN_SP_BRAKE_CFG.STOP_RPM, R482. -/
def STN_SP_BRAKE_CFG_STOP_RPM : Fld := ⟨4636, 0x102024, [(128, 0x10000)], (0, 0), 32, 0, 8, .rw, fun _ => 0x3C⟩
/-- STN_SP_EVT.EVENTS, R482. -/
def STN_SP_EVT_EVENTS : Fld := ⟨4637, 0x102038, [(128, 0x10000)], (0, 0), 32, 0, 11, .w1c, fun _ => 0x000⟩
/-- STN_SP_COUNT.OBS_LOSS, R482. -/
def STN_SP_COUNT_OBS_LOSS : Fld := ⟨4768, 0x10203C, [(128, 0x10000)], (0, 0), 32, 24, 8, .ro, fun _ => 0x00⟩
/-- STN_SP_COUNT.RETRIES, R482. -/
def STN_SP_COUNT_RETRIES : Fld := ⟨4769, 0x10203C, [(128, 0x10000)], (0, 0), 32, 16, 8, .ro, fun _ => 0x00⟩
/-- STN_SP_COUNT.STARTS, R482. -/
def STN_SP_COUNT_STARTS : Fld := ⟨4770, 0x10203C, [(128, 0x10000)], (0, 0), 32, 0, 16, .ro, fun _ => 0x0000⟩
/-- STN_SP_I_ALIGN.VALUE, R482. -/
def STN_SP_I_ALIGN_VALUE : Fld := ⟨4638, 0x102028, [(128, 0x10000)], (0, 0), 32, 0, 24, .rw, fun _ => 0x200000⟩
/-- STN_SP_I_STEP.VALUE, R482. -/
def STN_SP_I_STEP_VALUE : Fld := ⟨4639, 0x10202C, [(128, 0x10000)], (0, 0), 32, 0, 24, .rw, fun _ => 0x080000⟩
/-- STN_SP_I_RAMP.VALUE, R482. -/
def STN_SP_I_RAMP_VALUE : Fld := ⟨4640, 0x102030, [(128, 0x10000)], (0, 0), 32, 0, 24, .rw, fun _ => 0x180000⟩
/-- STN_SP_I_BRAKE.VALUE, R482. -/
def STN_SP_I_BRAKE_VALUE : Fld := ⟨4641, 0x102034, [(128, 0x10000)], (0, 0), 32, 0, 24, .rw, fun _ => 0x100000⟩

/-- The fields of the SP registers, in the order of their tables. -/
def tableSP : List Fld :=
  [STN_SP_CTRL_CLEAR, STN_SP_CTRL_PHASE_ALLOW, STN_SP_CTRL_AUTO_RESTART, STN_SP_CTRL_EN,
   STN_SP_TARGET_RPM, STN_SP_STATUS_FAULT_CAUSE, STN_SP_STATUS_ATTEMPT, STN_SP_STATUS_REVERSE,
   STN_SP_STATUS_SHORT, STN_SP_STATUS_PHASE_LOCKED, STN_SP_STATUS_AT_SPEED, STN_SP_STATUS_STATE,
   STN_SP_SPEED_SP_RPM, STN_SP_SPEED_RPM, STN_SP_SLOTS_SPD_SLOT, STN_SP_SLOTS_FOC_SLOT,
   STN_SP_START_CFG_ALIGN_MS, STN_SP_START_CFG_HANDOVER, STN_SP_START_CFG_RAMP_RATE, STN_SP_START_CFG_BEMF_MIN,
   STN_SP_RUN_CFG_SLEW, STN_SP_RUN_CFG_PHASE_SLEW, STN_SP_PHASE_CFG_PH_GAIN, STN_SP_PHASE_CFG_PH_LOCK,
   STN_SP_OBS_CFG_RES_TRIP, STN_SP_BRAKE_CFG_VBUS_MAX, STN_SP_BRAKE_CFG_VBUS_RESUME, STN_SP_BRAKE_CFG_HOLD_MS,
   STN_SP_BRAKE_CFG_STOP_RPM, STN_SP_EVT_EVENTS, STN_SP_COUNT_OBS_LOSS, STN_SP_COUNT_RETRIES,
   STN_SP_COUNT_STARTS, STN_SP_I_ALIGN_VALUE, STN_SP_I_STEP_VALUE, STN_SP_I_RAMP_VALUE,
   STN_SP_I_BRAKE_VALUE]

/-- MOT_CTRL.STOP_ALL, R530. -/
def MOT_CTRL_STOP_ALL : Fld := ⟨3072, 0xC0000, [], (0, 0), 32, 1, 1, .w1s, fun _ => 0⟩
/-- MOT_CTRL.EN, R530. -/
def MOT_CTRL_EN : Fld := ⟨3073, 0xC0000, [], (0, 0), 32, 0, 1, .rw, fun _ => 1⟩
/-- MOT_ERR.VALID, R530. -/
def MOT_ERR_VALID : Fld := ⟨3074, 0xC0004, [], (0, 0), 32, 31, 1, .w1c, fun _ => 0⟩
/-- MOT_ERR.AXIS, R530. -/
def MOT_ERR_AXIS : Fld := ⟨3075, 0xC0004, [], (0, 0), 32, 16, 9, .ro, fun _ => 0x000⟩
/-- MOT_ERR.CODE, R530. -/
def MOT_ERR_CODE : Fld := ⟨3076, 0xC0004, [], (0, 0), 32, 0, 4, .ro, fun _ => 0x0⟩
/-- MOT_SLED_PARK.PARK, R530. -/
def MOT_SLED_PARK_PARK : Fld := ⟨3077, 0xC0010, [], (0, 0), 32, 0, 32, .rw, fun _ => 0x000007D0⟩
/-- MOT_AX_CTRL.PROFILE, R530. -/
def MOT_AX_CTRL_PROFILE : Fld := ⟨3078, 0xC1000, [(264, 0x40)], (0, 0), 32, 1, 1, .rw, fun _ => 0⟩
/-- MOT_AX_CTRL.EN, R530. -/
def MOT_AX_CTRL_EN : Fld := ⟨3079, 0xC1000, [(264, 0x40)], (0, 0), 32, 0, 1, .rw, fun i => (if i < 256 then 1 else 0)⟩
/-- MOT_AX_CMD.BUSY, R530. -/
def MOT_AX_CMD_BUSY : Fld := ⟨3080, 0xC1004, [(264, 0x40)], (0, 0), 32, 31, 1, .ro, fun _ => 0⟩
/-- MOT_AX_CMD.RESULT, R530. -/
def MOT_AX_CMD_RESULT : Fld := ⟨3081, 0xC1004, [(264, 0x40)], (0, 0), 32, 28, 3, .ro, fun _ => 0x0⟩
/-- MOT_AX_CMD.GO, R530. -/
def MOT_AX_CMD_GO : Fld := ⟨3082, 0xC1004, [(264, 0x40)], (0, 0), 32, 4, 1, .w1s, fun _ => 0⟩
/-- MOT_AX_CMD.OP, R530. -/
def MOT_AX_CMD_OP : Fld := ⟨3083, 0xC1004, [(264, 0x40)], (0, 0), 32, 0, 4, .rw, fun _ => 0x0⟩
/-- MOT_SLED_CFG.RAD0, R530. -/
def MOT_SLED_CFG_RAD0 : Fld := ⟨3084, 0xC0008, [], (0, 0), 32, 16, 16, .rw, fun _ => 0x55F0⟩
/-- MOT_SLED_CFG.USTEP, R530. -/
def MOT_SLED_CFG_USTEP : Fld := ⟨3085, 0xC0008, [], (0, 0), 32, 0, 16, .rw, fun _ => 0x2EE0⟩
/-- MOT_SLED_HOME.TRAVEL, R530. -/
def MOT_SLED_HOME_TRAVEL : Fld := ⟨3086, 0xC000C, [], (0, 0), 32, 16, 16, .rw, fun _ => 0x04E2⟩
/-- MOT_SLED_HOME.VHOME, R530. -/
def MOT_SLED_HOME_VHOME : Fld := ⟨3087, 0xC000C, [], (0, 0), 32, 0, 16, .rw, fun _ => 0x00C8⟩
/-- MOT_PK_PULSE.DIR_SETUP, R530. -/
def MOT_PK_PULSE_DIR_SETUP : Fld := ⟨3088, 0xC0014, [], (0, 0), 32, 16, 16, .rw, fun _ => 0x0177⟩
/-- MOT_PK_PULSE.PULSE, R530. -/
def MOT_PK_PULSE_PULSE : Fld := ⟨3089, 0xC0014, [], (0, 0), 32, 0, 16, .rw, fun _ => 0x0177⟩
/-- MOT_AX_TARGET.VALUE, R530. -/
def MOT_AX_TARGET_VALUE : Fld := ⟨3090, 0xC1008, [(264, 0x40)], (0, 0), 32, 0, 32, .rw, fun _ => 0⟩
/-- MOT_AX_POS.VALUE, R530. -/
def MOT_AX_POS_VALUE : Fld := ⟨3091, 0xC100C, [(264, 0x40)], (0, 0), 32, 0, 32, .ro, fun _ => 0⟩
/-- MOT_AX_LIM_LO.VALUE, R530. -/
def MOT_AX_LIM_LO_VALUE : Fld := ⟨3092, 0xC1028, [(264, 0x40)], (0, 0), 32, 0, 32, .rw, fun _ => 0⟩
/-- MOT_AX_LIM_HI.VALUE, R530. -/
def MOT_AX_LIM_HI_VALUE : Fld := ⟨3093, 0xC102C, [(264, 0x40)], (0, 0), 32, 0, 32, .rw, fun i => (if i < 256 then 0x4A426 else 0)⟩
/-- MOT_AX_HOME_POS.VALUE, R530. -/
def MOT_AX_HOME_POS_VALUE : Fld := ⟨3094, 0xC1030, [(264, 0x40)], (0, 0), 32, 0, 32, .rw, fun _ => 0⟩
/-- MOT_AX_VMAX.VALUE, R530. -/
def MOT_AX_VMAX_VALUE : Fld := ⟨3095, 0xC1014, [(264, 0x40)], (0, 0), 32, 0, 32, .rw, fun i => (if i < 256 then 0x32DCD5 else 0)⟩
/-- MOT_AX_AMAX.VALUE, R530. -/
def MOT_AX_AMAX_VALUE : Fld := ⟨3096, 0xC1018, [(264, 0x40)], (0, 0), 32, 0, 32, .rw, fun i => (if i < 256 then 0x9EF21AB else 0)⟩
/-- MOT_AX_JMAX.VALUE, R530. -/
def MOT_AX_JMAX_VALUE : Fld := ⟨3097, 0xC101C, [(264, 0x40)], (0, 0), 32, 0, 32, .rw, fun _ => 0⟩
/-- MOT_AX_VSTART.VALUE, R530. -/
def MOT_AX_VSTART_VALUE : Fld := ⟨3098, 0xC1020, [(264, 0x40)], (0, 0), 32, 0, 32, .rw, fun i => (if i < 256 then 0x4E20 else 0)⟩
/-- MOT_AX_STOP_DEC.VALUE, R530. -/
def MOT_AX_STOP_DEC_VALUE : Fld := ⟨3099, 0xC1024, [(264, 0x40)], (0, 0), 32, 0, 32, .rw, fun i => (if i < 256 then 0x13DE4355 else 0)⟩
/-- MOT_AX_STATUS.SPEED, R530. -/
def MOT_AX_STATUS_SPEED : Fld := ⟨3100, 0xC1010, [(264, 0x40)], (0, 0), 32, 8, 16, .ro, fun _ => 0⟩
/-- MOT_AX_STATUS.DIR, R530. -/
def MOT_AX_STATUS_DIR : Fld := ⟨3101, 0xC1010, [(264, 0x40)], (0, 0), 32, 7, 1, .ro, fun _ => 0⟩
/-- MOT_AX_STATUS.MOVING, R530. -/
def MOT_AX_STATUS_MOVING : Fld := ⟨3102, 0xC1010, [(264, 0x40)], (0, 0), 32, 6, 1, .ro, fun _ => 0⟩
/-- MOT_AX_STATUS.REF, R530. -/
def MOT_AX_STATUS_REF : Fld := ⟨3103, 0xC1010, [(264, 0x40)], (0, 0), 32, 5, 1, .ro, fun _ => 0⟩
/-- MOT_AX_STATUS.STATE, R530. -/
def MOT_AX_STATUS_STATE : Fld := ⟨3104, 0xC1010, [(264, 0x40)], (0, 0), 32, 0, 4, .ro, fun i => (if i < 256 then 1 else 0)⟩
/-- MOT_AX_HOME_CFG.HOME_DIR, R530. -/
def MOT_AX_HOME_CFG_HOME_DIR : Fld := ⟨3105, 0xC1034, [(264, 0x40)], (0, 0), 32, 31, 1, .rw, fun _ => 0⟩
/-- MOT_AX_HOME_CFG.VHOME, R530. -/
def MOT_AX_HOME_CFG_VHOME : Fld := ⟨3106, 0xC1034, [(264, 0x40)], (0, 0), 32, 0, 24, .rw, fun _ => 0⟩

/-- The fields of the MOT registers, in the order of their tables. -/
def tableMOT : List Fld :=
  [MOT_CTRL_STOP_ALL, MOT_CTRL_EN, MOT_ERR_VALID, MOT_ERR_AXIS,
   MOT_ERR_CODE, MOT_SLED_PARK_PARK, MOT_AX_CTRL_PROFILE, MOT_AX_CTRL_EN,
   MOT_AX_CMD_BUSY, MOT_AX_CMD_RESULT, MOT_AX_CMD_GO, MOT_AX_CMD_OP,
   MOT_SLED_CFG_RAD0, MOT_SLED_CFG_USTEP, MOT_SLED_HOME_TRAVEL, MOT_SLED_HOME_VHOME,
   MOT_PK_PULSE_DIR_SETUP, MOT_PK_PULSE_PULSE, MOT_AX_TARGET_VALUE, MOT_AX_POS_VALUE,
   MOT_AX_LIM_LO_VALUE, MOT_AX_LIM_HI_VALUE, MOT_AX_HOME_POS_VALUE, MOT_AX_VMAX_VALUE,
   MOT_AX_AMAX_VALUE, MOT_AX_JMAX_VALUE, MOT_AX_VSTART_VALUE, MOT_AX_STOP_DEC_VALUE,
   MOT_AX_STATUS_SPEED, MOT_AX_STATUS_DIR, MOT_AX_STATUS_MOVING, MOT_AX_STATUS_REF,
   MOT_AX_STATUS_STATE, MOT_AX_HOME_CFG_HOME_DIR, MOT_AX_HOME_CFG_VHOME]

/-- LIB_PK.LOC, R531. -/
def LIB_PK_LOC : Fld := ⟨3328, 0xD0010, [(2, 0x4)], (0, 0), 32, 16, 16, .ro, fun i => (0x8000 + i)⟩
/-- LIB_PK.SLOT_SNS, R531. -/
def LIB_PK_SLOT_SNS : Fld := ⟨3329, 0xD0010, [(2, 0x4)], (0, 0), 32, 7, 1, .ro, fun _ => 0⟩
/-- LIB_PK.JAW_OPEN, R531. -/
def LIB_PK_JAW_OPEN : Fld := ⟨3330, 0xD0010, [(2, 0x4)], (0, 0), 32, 6, 1, .ro, fun _ => 0⟩
/-- LIB_PK.DISC, R531. -/
def LIB_PK_DISC : Fld := ⟨3331, 0xD0010, [(2, 0x4)], (0, 0), 32, 5, 1, .ro, fun _ => 0⟩
/-- LIB_PK.GRIP, R531. -/
def LIB_PK_GRIP : Fld := ⟨3332, 0xD0010, [(2, 0x4)], (0, 0), 32, 4, 1, .ro, fun _ => 0⟩
/-- LIB_PK.STATE, R531. -/
def LIB_PK_STATE : Fld := ⟨3333, 0xD0010, [(2, 0x4)], (0, 0), 32, 0, 3, .ro, fun _ => 0x0⟩
/-- LIB_POSN.VALUE, R531. -/
def LIB_POSN_VALUE : Fld := ⟨3334, 0xD0040, [(7, 0x4)], (0, 0), 32, 0, 32, .rw, fun _ => 0⟩
/-- LIB_CTRL.AUTO_INV, R531. -/
def LIB_CTRL_AUTO_INV : Fld := ⟨3335, 0xD0000, [], (0, 0), 32, 2, 1, .rw, fun _ => 1⟩
/-- LIB_CTRL.EN, R531. -/
def LIB_CTRL_EN : Fld := ⟨3336, 0xD0000, [], (0, 0), 32, 0, 1, .rw, fun _ => 0⟩
/-- LIB_STATUS.DOOR_LOCKED, R531. -/
def LIB_STATUS_DOOR_LOCKED : Fld := ⟨3337, 0xD0004, [], (0, 0), 32, 2, 1, .ro, fun _ => 0⟩
/-- LIB_STATUS.DOOR_CLOSED, R531. -/
def LIB_STATUS_DOOR_CLOSED : Fld := ⟨3338, 0xD0004, [], (0, 0), 32, 1, 1, .ro, fun _ => 0⟩
/-- LIB_STATUS.INV_STALE, R531. -/
def LIB_STATUS_INV_STALE : Fld := ⟨3339, 0xD0004, [], (0, 0), 32, 0, 1, .ro, fun _ => 1⟩
/-- LIB_DOOR.OPEN_READY, R531. -/
def LIB_DOOR_OPEN_READY : Fld := ⟨3340, 0xD0008, [], (0, 0), 32, 2, 1, .ro, fun _ => 0⟩
/-- LIB_DOOR.REQ_LOCK, R531. -/
def LIB_DOOR_REQ_LOCK : Fld := ⟨3341, 0xD0008, [], (0, 0), 32, 1, 1, .w1s, fun _ => 0⟩
/-- LIB_DOOR.REQ_OPEN, R531. -/
def LIB_DOOR_REQ_OPEN : Fld := ⟨3342, 0xD0008, [], (0, 0), 32, 0, 1, .w1s, fun _ => 0⟩
/-- LIB_CFG.GRIP_MS, R531. -/
def LIB_CFG_GRIP_MS : Fld := ⟨3343, 0xD0020, [], (0, 0), 32, 24, 8, .rw, fun _ => 0x32⟩
/-- LIB_CFG.DOOR_WAIT_S, R531. -/
def LIB_CFG_DOOR_WAIT_S : Fld := ⟨3344, 0xD0020, [], (0, 0), 32, 16, 8, .rw, fun _ => 0x3C⟩
/-- LIB_CFG.SLOTS, R531. -/
def LIB_CFG_SLOTS : Fld := ⟨3345, 0xD0020, [], (0, 0), 32, 0, 13, .rw, fun _ => 0⟩
/-- LIB_SEP.MIN_SEP, R531. -/
def LIB_SEP_MIN_SEP : Fld := ⟨3346, 0xD0024, [], (0, 0), 32, 0, 32, .rw, fun _ => 0⟩
/-- LIB_EVT.EVENTS, R531. -/
def LIB_EVT_EVENTS : Fld := ⟨3347, 0xD0028, [], (0, 0), 32, 0, 12, .w1c, fun _ => 0⟩
/-- LIB_STN_LOC.FACE, R531. -/
def LIB_STN_LOC_FACE : Fld := ⟨3348, 0xD2000, [(128, 0x8)], (0, 0), 64, 63, 1, .rw, fun _ => 0⟩
/-- LIB_STN_LOC.LIFT, R531. -/
def LIB_STN_LOC_LIFT : Fld := ⟨3349, 0xD2000, [(128, 0x8)], (0, 0), 64, 32, 31, .rw, fun _ => 0⟩
/-- LIB_STN_LOC.TRAVEL, R531. -/
def LIB_STN_LOC_TRAVEL : Fld := ⟨3350, 0xD2000, [(128, 0x8)], (0, 0), 64, 0, 32, .rw, fun _ => 0⟩
/-- LIB_SLOT_LOC.FACE, R531. -/
def LIB_SLOT_LOC_FACE : Fld := ⟨3351, 0xD8000, [(4096, 0x8)], (0, 0), 64, 63, 1, .rw, fun _ => 0⟩
/-- LIB_SLOT_LOC.LIFT, R531. -/
def LIB_SLOT_LOC_LIFT : Fld := ⟨3352, 0xD8000, [(4096, 0x8)], (0, 0), 64, 32, 31, .rw, fun _ => 0⟩
/-- LIB_SLOT_LOC.TRAVEL, R531. -/
def LIB_SLOT_LOC_TRAVEL : Fld := ⟨3353, 0xD8000, [(4096, 0x8)], (0, 0), 64, 0, 32, .rw, fun _ => 0⟩
/-- LIB_SLOT_STATE.BITS, R531. -/
def LIB_SLOT_STATE_BITS : Fld := ⟨3354, 0xD4000, [(256, 0x4)], (0, 0), 32, 0, 32, .ro, fun _ => 0⟩
/-- LIB_SLOT_MIS.BITS, R531. -/
def LIB_SLOT_MIS_BITS : Fld := ⟨3355, 0xD4400, [(128, 0x4)], (0, 0), 32, 0, 32, .ro, fun _ => 0⟩

/-- The fields of the LIB registers, in the order of their tables. -/
def tableLIB : List Fld :=
  [LIB_PK_LOC, LIB_PK_SLOT_SNS, LIB_PK_JAW_OPEN, LIB_PK_DISC,
   LIB_PK_GRIP, LIB_PK_STATE, LIB_POSN_VALUE, LIB_CTRL_AUTO_INV,
   LIB_CTRL_EN, LIB_STATUS_DOOR_LOCKED, LIB_STATUS_DOOR_CLOSED, LIB_STATUS_INV_STALE,
   LIB_DOOR_OPEN_READY, LIB_DOOR_REQ_LOCK, LIB_DOOR_REQ_OPEN, LIB_CFG_GRIP_MS,
   LIB_CFG_DOOR_WAIT_S, LIB_CFG_SLOTS, LIB_SEP_MIN_SEP, LIB_EVT_EVENTS,
   LIB_STN_LOC_FACE, LIB_STN_LOC_LIFT, LIB_STN_LOC_TRAVEL, LIB_SLOT_LOC_FACE,
   LIB_SLOT_LOC_LIFT, LIB_SLOT_LOC_TRAVEL, LIB_SLOT_STATE_BITS, LIB_SLOT_MIS_BITS]

/-- CASC_CTRL.FORGET_CELL, R569. -/
def CASC_CTRL_FORGET_CELL : Fld := ⟨2560, 0xA0000, [], (0, 0), 32, 8, 3, .rw, fun _ => 0x0⟩
/-- CASC_CTRL.FORGET, R569. -/
def CASC_CTRL_FORGET : Fld := ⟨2561, 0xA0000, [], (0, 0), 32, 1, 1, .w1s, fun _ => 0⟩
/-- CASC_CTRL.EN, R569. -/
def CASC_CTRL_EN : Fld := ⟨2562, 0xA0000, [], (0, 0), 32, 0, 1, .rw, fun _ => 0⟩
/-- CASC_CFG.SHARED_LIB, R569. -/
def CASC_CFG_SHARED_LIB : Fld := ⟨2563, 0xA0004, [], (0, 0), 32, 8, 1, .rwl, fun _ => 0⟩
/-- CASC_CFG.CELL_ID, R569. -/
def CASC_CFG_CELL_ID : Fld := ⟨2564, 0xA0004, [], (0, 0), 32, 0, 3, .rwl, fun _ => 0x0⟩
/-- CASC_STATUS.SHARED, R569. -/
def CASC_STATUS_SHARED : Fld := ⟨2565, 0xA0008, [], (0, 0), 32, 24, 1, .ro, fun _ => 0⟩
/-- CASC_STATUS.REACHABLE, R569. -/
def CASC_STATUS_REACHABLE : Fld := ⟨2566, 0xA0008, [], (0, 0), 32, 16, 8, .ro, fun _ => 0x00⟩
/-- CASC_STATUS.MEMBERS, R569. -/
def CASC_STATUS_MEMBERS : Fld := ⟨2567, 0xA0008, [], (0, 0), 32, 8, 8, .ro, fun _ => 0x00⟩
/-- CASC_STATUS.REFUSE, R569. -/
def CASC_STATUS_REFUSE : Fld := ⟨2568, 0xA0008, [], (0, 0), 32, 4, 4, .ro, fun _ => 0x0⟩
/-- CASC_STATUS.BROKEN, R569. -/
def CASC_STATUS_BROKEN : Fld := ⟨2569, 0xA0008, [], (0, 0), 32, 3, 1, .ro, fun _ => 0⟩
/-- CASC_STATUS.STATE, R569. -/
def CASC_STATUS_STATE : Fld := ⟨2570, 0xA0008, [], (0, 0), 32, 0, 3, .ro, fun _ => 0x0⟩
/-- CASC_PORT_STATUS.RAW, R569. -/
def CASC_PORT_STATUS_RAW : Fld := ⟨2571, 0xA0010, [(2, 0x8)], (0, 0), 32, 16, 10, .ro, fun _ => 0x000⟩
/-- CASC_PORT_STATUS.UP, R569. -/
def CASC_PORT_STATUS_UP : Fld := ⟨2572, 0xA0010, [(2, 0x8)], (0, 0), 32, 1, 1, .ro, fun _ => 0⟩
/-- CASC_PORT_STATUS.LOCK, R569. -/
def CASC_PORT_STATUS_LOCK : Fld := ⟨2573, 0xA0010, [(2, 0x8)], (0, 0), 32, 0, 1, .ro, fun _ => 0⟩
/-- CASC_PORT_TRIM.TRIM, R569. -/
def CASC_PORT_TRIM_TRIM : Fld := ⟨2574, 0xA0014, [(2, 0x8)], (0, 0), 32, 0, 8, .rw, fun _ => 0x00⟩
/-- CASC_CELL.REACH, R569. -/
def CASC_CELL_REACH : Fld := ⟨2575, 0xA0040, [(8, 0x4)], (0, 0), 32, 29, 1, .ro, fun _ => 0⟩
/-- CASC_CELL.LISTED, R569. -/
def CASC_CELL_LISTED : Fld := ⟨2576, 0xA0040, [(8, 0x4)], (0, 0), 32, 28, 1, .ro, fun _ => 0⟩
/-- CASC_CELL.VIA, R569. -/
def CASC_CELL_VIA : Fld := ⟨2577, 0xA0040, [(8, 0x4)], (0, 0), 32, 27, 1, .ro, fun _ => 0⟩
/-- CASC_CELL.HOPS, R569. -/
def CASC_CELL_HOPS : Fld := ⟨2578, 0xA0040, [(8, 0x4)], (0, 0), 32, 24, 3, .ro, fun _ => 0x0⟩
/-- CASC_CELL.STN_FITTED, R569. -/
def CASC_CELL_STN_FITTED : Fld := ⟨2579, 0xA0040, [(8, 0x4)], (0, 0), 32, 16, 8, .ro, fun _ => 0x00⟩
/-- CASC_CELL.MAG_SLOTS, R569. -/
def CASC_CELL_MAG_SLOTS : Fld := ⟨2580, 0xA0040, [(8, 0x4)], (0, 0), 32, 0, 13, .ro, fun _ => 0x0000⟩
/-- CASC_EVT.EVENTS, R569. -/
def CASC_EVT_EVENTS : Fld := ⟨2581, 0xA0068, [], (0, 0), 32, 0, 8, .w1c, fun _ => 0x00⟩
/-- CASC_ERR.MSG_ERR, R569. -/
def CASC_ERR_MSG_ERR : Fld := ⟨2582, 0xA0060, [], (0, 0), 32, 16, 16, .ro, fun _ => 0⟩
/-- CASC_ERR.BLOCK_ERR, R569. -/
def CASC_ERR_BLOCK_ERR : Fld := ⟨2583, 0xA0060, [], (0, 0), 32, 0, 16, .ro, fun _ => 0⟩
/-- CASC_RETX.RETX, R569. -/
def CASC_RETX_RETX : Fld := ⟨2584, 0xA0064, [], (0, 0), 32, 0, 32, .ro, fun _ => 0⟩

/-- The fields of the CASC registers, in the order of their tables. -/
def tableCASC : List Fld :=
  [CASC_CTRL_FORGET_CELL, CASC_CTRL_FORGET, CASC_CTRL_EN, CASC_CFG_SHARED_LIB,
   CASC_CFG_CELL_ID, CASC_STATUS_SHARED, CASC_STATUS_REACHABLE, CASC_STATUS_MEMBERS,
   CASC_STATUS_REFUSE, CASC_STATUS_BROKEN, CASC_STATUS_STATE, CASC_PORT_STATUS_RAW,
   CASC_PORT_STATUS_UP, CASC_PORT_STATUS_LOCK, CASC_PORT_TRIM_TRIM, CASC_CELL_REACH,
   CASC_CELL_LISTED, CASC_CELL_VIA, CASC_CELL_HOPS, CASC_CELL_STN_FITTED,
   CASC_CELL_MAG_SLOTS, CASC_EVT_EVENTS, CASC_ERR_MSG_ERR, CASC_ERR_BLOCK_ERR,
   CASC_RETX_RETX]

/-- HEP_STATUS.SPEED, R618. -/
def HEP_STATUS_SPEED : Fld := ⟨2048, 0x80000, [], (0, 0), 32, 16, 3, .ro, fun _ => 0x0⟩
/-- HEP_STATUS.WIDTH, R618. -/
def HEP_STATUS_WIDTH : Fld := ⟨2049, 0x80000, [], (0, 0), 32, 8, 5, .ro, fun _ => 0x00⟩
/-- HEP_STATUS.PASID_EN, R618. -/
def HEP_STATUS_PASID_EN : Fld := ⟨2050, 0x80000, [], (0, 0), 32, 6, 1, .ro, fun _ => 0⟩
/-- HEP_STATUS.ATS_EN, R618. -/
def HEP_STATUS_ATS_EN : Fld := ⟨2051, 0x80000, [], (0, 0), 32, 5, 1, .ro, fun _ => 0⟩
/-- HEP_STATUS.HDM_OPEN, R618. -/
def HEP_STATUS_HDM_OPEN : Fld := ⟨2052, 0x80000, [], (0, 0), 32, 4, 1, .ro, fun _ => 0⟩
/-- HEP_STATUS.MEM_EN, R618. -/
def HEP_STATUS_MEM_EN : Fld := ⟨2053, 0x80000, [], (0, 0), 32, 3, 1, .ro, fun _ => 0⟩
/-- HEP_STATUS.CACHE_EN, R618. -/
def HEP_STATUS_CACHE_EN : Fld := ⟨2054, 0x80000, [], (0, 0), 32, 2, 1, .ro, fun _ => 0⟩
/-- HEP_STATUS.CXL, R618. -/
def HEP_STATUS_CXL : Fld := ⟨2055, 0x80000, [], (0, 0), 32, 1, 1, .ro, fun _ => 0⟩
/-- HEP_STATUS.LINK_UP, R618. -/
def HEP_STATUS_LINK_UP : Fld := ⟨2056, 0x80000, [], (0, 0), 32, 0, 1, .ro, fun _ => 0⟩
/-- HEP_CTRL.PRETRANS, R618. -/
def HEP_CTRL_PRETRANS : Fld := ⟨2057, 0x80004, [], (0, 0), 32, 1, 1, .rw, fun _ => 1⟩
/-- HEP_CTRL.RO_EN, R618. -/
def HEP_CTRL_RO_EN : Fld := ⟨2058, 0x80004, [], (0, 0), 32, 0, 1, .rw, fun _ => 1⟩
/-- HEP_ATC.PINNED, R618. -/
def HEP_ATC_PINNED : Fld := ⟨2059, 0x80008, [], (0, 0), 32, 16, 13, .ro, fun _ => 0x0000⟩
/-- HEP_ATC.VALID, R618. -/
def HEP_ATC_VALID : Fld := ⟨2060, 0x80008, [], (0, 0), 32, 0, 13, .ro, fun _ => 0x0000⟩
/-- HEP_BIAS_CNT.TO_DEVICE, R618. -/
def HEP_BIAS_CNT_TO_DEVICE : Fld := ⟨2061, 0x80028, [], (0, 0), 32, 16, 16, .ro, fun _ => 0⟩
/-- HEP_BIAS_CNT.TO_HOST, R618. -/
def HEP_BIAS_CNT_TO_HOST : Fld := ⟨2062, 0x80028, [], (0, 0), 32, 0, 16, .ro, fun _ => 0⟩
/-- HEP_WIN_COMMIT.ERR_WIN, R618. -/
def HEP_WIN_COMMIT_ERR_WIN : Fld := ⟨2063, 0x80100, [], (0, 0), 32, 8, 6, .ro, fun _ => 0x00⟩
/-- HEP_WIN_COMMIT.COMMIT_ERR, R618. -/
def HEP_WIN_COMMIT_COMMIT_ERR : Fld := ⟨2064, 0x80100, [], (0, 0), 32, 2, 1, .w1c, fun _ => 0⟩
/-- HEP_WIN_COMMIT.PENDING, R618. -/
def HEP_WIN_COMMIT_PENDING : Fld := ⟨2065, 0x80100, [], (0, 0), 32, 1, 1, .ro, fun _ => 0⟩
/-- HEP_WIN_COMMIT.GO, R618. -/
def HEP_WIN_COMMIT_GO : Fld := ⟨2066, 0x80100, [], (0, 0), 32, 0, 1, .w1s, fun _ => 0⟩
/-- HEP_XLAT_CNT.COUNT, R618. -/
def HEP_XLAT_CNT_COUNT : Fld := ⟨2067, 0x8000C, [], (0, 0), 32, 0, 32, .ro, fun _ => 0⟩
/-- HEP_INV_CNT.MAX_US, R618. -/
def HEP_INV_CNT_MAX_US : Fld := ⟨2068, 0x80010, [], (0, 0), 32, 16, 16, .ro, fun _ => 0⟩
/-- HEP_INV_CNT.COUNT, R618. -/
def HEP_INV_CNT_COUNT : Fld := ⟨2069, 0x80010, [], (0, 0), 32, 0, 16, .ro, fun _ => 0⟩
/-- HEP_FAULT_ADDR.ADDR, R618. -/
def HEP_FAULT_ADDR_ADDR : Fld := ⟨2070, 0x80018, [], (0, 0), 64, 0, 64, .ro, fun _ => 0⟩
/-- HEP_FAULT_INFO.VALID, R618. -/
def HEP_FAULT_INFO_VALID : Fld := ⟨2071, 0x80020, [], (0, 0), 32, 31, 1, .w1c, fun _ => 0⟩
/-- HEP_FAULT_INFO.PASID, R618. -/
def HEP_FAULT_INFO_PASID : Fld := ⟨2072, 0x80020, [], (0, 0), 32, 0, 20, .ro, fun _ => 0⟩
/-- HEP_WIN_DROP.COUNT, R618. -/
def HEP_WIN_DROP_COUNT : Fld := ⟨2073, 0x80104, [], (0, 0), 32, 0, 32, .ro, fun _ => 0⟩
/-- HEP_WIN_LOG.ADDR, R618. -/
def HEP_WIN_LOG_ADDR : Fld := ⟨2074, 0x80108, [], (0, 0), 64, 0, 64, .ro, fun _ => 0⟩
/-- HEP_WIN_LOG_ID.VALID, R618. -/
def HEP_WIN_LOG_ID_VALID : Fld := ⟨2075, 0x80110, [], (0, 0), 32, 31, 1, .w1c, fun _ => 0⟩
/-- HEP_WIN_LOG_ID.WIN, R618. -/
def HEP_WIN_LOG_ID_WIN : Fld := ⟨2076, 0x80110, [], (0, 0), 32, 16, 6, .ro, fun _ => 0⟩
/-- HEP_WIN_LOG_ID.REQ_ID, R618. -/
def HEP_WIN_LOG_ID_REQ_ID : Fld := ⟨2077, 0x80110, [], (0, 0), 32, 0, 16, .ro, fun _ => 0⟩
/-- HEP_WIN_TGT.TGT, R618. -/
def HEP_WIN_TGT_TGT : Fld := ⟨2078, 0x81000, [(64, 0x10)], (0, 0), 64, 21, 43, .rw, fun _ => 0⟩
/-- HEP_WIN_CFG.EN, R618. -/
def HEP_WIN_CFG_EN : Fld := ⟨2079, 0x81008, [(64, 0x10)], (0, 0), 32, 31, 1, .rw, fun _ => 0⟩
/-- HEP_WIN_CFG.RD, R618. -/
def HEP_WIN_CFG_RD : Fld := ⟨2080, 0x81008, [(64, 0x10)], (0, 0), 32, 30, 1, .rw, fun _ => 0⟩
/-- HEP_WIN_CFG.WR, R618. -/
def HEP_WIN_CFG_WR : Fld := ⟨2081, 0x81008, [(64, 0x10)], (0, 0), 32, 29, 1, .rw, fun _ => 0⟩
/-- HEP_WIN_CFG.REQ_EN, R618. -/
def HEP_WIN_CFG_REQ_EN : Fld := ⟨2082, 0x81008, [(64, 0x10)], (0, 0), 32, 28, 1, .rw, fun _ => 0⟩
/-- HEP_WIN_CFG.SIZE, R618. -/
def HEP_WIN_CFG_SIZE : Fld := ⟨2083, 0x81008, [(64, 0x10)], (0, 0), 32, 16, 10, .rw, fun _ => 0⟩
/-- HEP_WIN_CFG.REQ_ID, R618. -/
def HEP_WIN_CFG_REQ_ID : Fld := ⟨2084, 0x81008, [(64, 0x10)], (0, 0), 32, 0, 16, .rw, fun _ => 0⟩
/-- HEP_WIN_ACT_TGT.ACTIVE, R618. -/
def HEP_WIN_ACT_TGT_ACTIVE : Fld := ⟨2085, 0x82000, [(64, 0x10)], (0, 0), 64, 0, 64, .ro, fun _ => 0⟩
/-- HEP_WIN_ACT_CFG.ACTIVE, R618. -/
def HEP_WIN_ACT_CFG_ACTIVE : Fld := ⟨2086, 0x82008, [(64, 0x10)], (0, 0), 32, 0, 32, .ro, fun _ => 0⟩

/-- The fields of the HEP registers, in the order of their tables. -/
def tableHEP : List Fld :=
  [HEP_STATUS_SPEED, HEP_STATUS_WIDTH, HEP_STATUS_PASID_EN, HEP_STATUS_ATS_EN,
   HEP_STATUS_HDM_OPEN, HEP_STATUS_MEM_EN, HEP_STATUS_CACHE_EN, HEP_STATUS_CXL,
   HEP_STATUS_LINK_UP, HEP_CTRL_PRETRANS, HEP_CTRL_RO_EN, HEP_ATC_PINNED,
   HEP_ATC_VALID, HEP_BIAS_CNT_TO_DEVICE, HEP_BIAS_CNT_TO_HOST, HEP_WIN_COMMIT_ERR_WIN,
   HEP_WIN_COMMIT_COMMIT_ERR, HEP_WIN_COMMIT_PENDING, HEP_WIN_COMMIT_GO, HEP_XLAT_CNT_COUNT,
   HEP_INV_CNT_MAX_US, HEP_INV_CNT_COUNT, HEP_FAULT_ADDR_ADDR, HEP_FAULT_INFO_VALID,
   HEP_FAULT_INFO_PASID, HEP_WIN_DROP_COUNT, HEP_WIN_LOG_ADDR, HEP_WIN_LOG_ID_VALID,
   HEP_WIN_LOG_ID_WIN, HEP_WIN_LOG_ID_REQ_ID, HEP_WIN_TGT_TGT, HEP_WIN_CFG_EN,
   HEP_WIN_CFG_RD, HEP_WIN_CFG_WR, HEP_WIN_CFG_REQ_EN, HEP_WIN_CFG_SIZE,
   HEP_WIN_CFG_REQ_ID, HEP_WIN_ACT_TGT_ACTIVE, HEP_WIN_ACT_CFG_ACTIVE]

/-- CMDQ_CTRL.BURST, R683. -/
def CMDQ_CTRL_BURST : Fld := ⟨3584, 0xE0000, [], (0, 0), 32, 4, 4, .rw, fun _ => 0x4⟩
/-- CMDQ_CTRL.EN, R683. -/
def CMDQ_CTRL_EN : Fld := ⟨3585, 0xE0000, [], (0, 0), 32, 0, 1, .rw, fun _ => 1⟩
/-- CMDQ_STATUS.GROUPS_EN, R683. -/
def CMDQ_STATUS_GROUPS_EN : Fld := ⟨3586, 0xE0004, [], (0, 0), 32, 16, 11, .ro, fun _ => 0x000⟩
/-- CMDQ_STATUS.INFLIGHT, R683. -/
def CMDQ_STATUS_INFLIGHT : Fld := ⟨3587, 0xE0004, [], (0, 0), 32, 0, 13, .ro, fun _ => 0x0000⟩
/-- CMDQ_OP.BUSY, R683. -/
def CMDQ_OP_BUSY : Fld := ⟨3588, 0xE0010, [], (0, 0), 32, 31, 1, .ro, fun _ => 0⟩
/-- CMDQ_OP.RESULT, R683. -/
def CMDQ_OP_RESULT : Fld := ⟨3589, 0xE0010, [], (0, 0), 32, 28, 3, .ro, fun _ => 0x0⟩
/-- CMDQ_OP.GO, R683. -/
def CMDQ_OP_GO : Fld := ⟨3590, 0xE0010, [], (0, 0), 32, 4, 1, .w1s, fun _ => 0⟩
/-- CMDQ_OP.OP, R683. -/
def CMDQ_OP_OP : Fld := ⟨3591, 0xE0010, [], (0, 0), 32, 0, 4, .rw, fun _ => 0x0⟩
/-- CMDQ_QID.QID, R683. -/
def CMDQ_QID_QID : Fld := ⟨3592, 0xE0014, [], (0, 0), 32, 0, 16, .rw, fun _ => 0x0000⟩
/-- CMDQ_BASE.BASE, R683. -/
def CMDQ_BASE_BASE : Fld := ⟨3593, 0xE0018, [], (0, 0), 64, 12, 52, .rw, fun _ => 0⟩
/-- CMDQ_QPTR.HEAD, R683. -/
def CMDQ_QPTR_HEAD : Fld := ⟨3594, 0xE0028, [], (0, 0), 32, 16, 16, .ro, fun _ => 0x0000⟩
/-- CMDQ_QPTR.TAIL, R683. -/
def CMDQ_QPTR_TAIL : Fld := ⟨3595, 0xE0028, [], (0, 0), 32, 0, 16, .ro, fun _ => 0x0000⟩
/-- CMDQ_DB_ERR.VALID, R683. -/
def CMDQ_DB_ERR_VALID : Fld := ⟨3596, 0xE0030, [], (0, 0), 32, 31, 1, .w1c, fun _ => 0⟩
/-- CMDQ_DB_ERR.SQ, R683. -/
def CMDQ_DB_ERR_SQ : Fld := ⟨3597, 0xE0030, [], (0, 0), 32, 0, 16, .ro, fun _ => 0x0000⟩
/-- CMDQ_EVT.EVENTS, R683. -/
def CMDQ_EVT_EVENTS : Fld := ⟨3598, 0xE0034, [], (0, 0), 32, 0, 4, .w1c, fun _ => 0x0⟩
/-- CMDQ_QCFG.VECTOR, R683. -/
def CMDQ_QCFG_VECTOR : Fld := ⟨3599, 0xE0020, [], (0, 0), 32, 16, 12, .rw, fun _ => 0⟩
/-- CMDQ_QCFG.IEN, R683. -/
def CMDQ_QCFG_IEN : Fld := ⟨3600, 0xE0020, [], (0, 0), 32, 15, 1, .rw, fun _ => 0⟩
/-- CMDQ_QCFG.LOW, R683. -/
def CMDQ_QCFG_LOW : Fld := ⟨3601, 0xE0020, [], (0, 0), 32, 0, 5, .rw, fun _ => 0⟩
/-- CMDQ_QCFG2.QUOTA, R683. -/
def CMDQ_QCFG2_QUOTA : Fld := ⟨3602, 0xE0024, [], (0, 0), 32, 16, 16, .rw, fun _ => 0⟩
/-- CMDQ_QCFG2.ACCOUNT, R683. -/
def CMDQ_QCFG2_ACCOUNT : Fld := ⟨3603, 0xE0024, [], (0, 0), 32, 0, 16, .rw, fun _ => 0⟩

/-- The fields of the CMDQ registers, in the order of their tables. -/
def tableCMDQ : List Fld :=
  [CMDQ_CTRL_BURST, CMDQ_CTRL_EN, CMDQ_STATUS_GROUPS_EN, CMDQ_STATUS_INFLIGHT,
   CMDQ_OP_BUSY, CMDQ_OP_RESULT, CMDQ_OP_GO, CMDQ_OP_OP,
   CMDQ_QID_QID, CMDQ_BASE_BASE, CMDQ_QPTR_HEAD, CMDQ_QPTR_TAIL,
   CMDQ_DB_ERR_VALID, CMDQ_DB_ERR_SQ, CMDQ_EVT_EVENTS, CMDQ_QCFG_VECTOR,
   CMDQ_QCFG_IEN, CMDQ_QCFG_LOW, CMDQ_QCFG2_QUOTA, CMDQ_QCFG2_ACCOUNT]

/-- BPM_CTRL.COPY_WINDOW, R728. -/
def BPM_CTRL_COPY_WINDOW : Fld := ⟨1536, 0x60000, [], (0, 0), 32, 8, 8, .rw, fun _ => 0x10⟩
/-- BPM_CTRL.EN, R728. -/
def BPM_CTRL_EN : Fld := ⟨1537, 0x60000, [], (0, 0), 32, 0, 1, .rw, fun _ => 0⟩
/-- BPM_STATUS.ERR_POOL, R728. -/
def BPM_STATUS_ERR_POOL : Fld := ⟨1538, 0x60004, [], (0, 0), 32, 5, 3, .ro, fun _ => 0x0⟩
/-- BPM_STATUS.LAYOUT_ERR, R728. -/
def BPM_STATUS_LAYOUT_ERR : Fld := ⟨1539, 0x60004, [], (0, 0), 32, 1, 1, .w1c, fun _ => 0⟩
/-- BPM_STATUS.ACTIVE, R728. -/
def BPM_STATUS_ACTIVE : Fld := ⟨1540, 0x60004, [], (0, 0), 32, 0, 1, .ro, fun _ => 0⟩
/-- BPM_EVT.EVENTS, R728. -/
def BPM_EVT_EVENTS : Fld := ⟨1541, 0x60310, [], (0, 0), 32, 0, 2, .w1c, fun _ => 0x0⟩
/-- BPM_POOL_BASE.BASE, R728. -/
def BPM_POOL_BASE_BASE : Fld := ⟨1542, 0x60100, [(6, 0x10)], (0, 0), 64, 12, 52, .rw, fun _ => 0⟩
/-- BPM_POOL_CNT.COUNT, R728. -/
def BPM_POOL_CNT_COUNT : Fld := ⟨1543, 0x60108, [(6, 0x10)], (0, 0), 32, 0, 24, .rw, fun _ => 0⟩
/-- BPM_POOL_FREE.FREE, R728. -/
def BPM_POOL_FREE_FREE : Fld := ⟨1544, 0x6010C, [(6, 0x10)], (0, 0), 32, 0, 24, .ro, fun _ => 0⟩
/-- BPM_POOL_STAT_EMPTY.EMPTY, R728. -/
def BPM_POOL_STAT_EMPTY_EMPTY : Fld := ⟨1545, 0x60200, [(6, 0x8)], (0, 0), 32, 0, 32, .ro, fun _ => 0⟩
/-- BPM_POOL_STAT_LOW.LOW, R728. -/
def BPM_POOL_STAT_LOW_LOW : Fld := ⟨1546, 0x60204, [(6, 0x8)], (0, 0), 32, 0, 24, .ro, fun _ => 0xFFFFFF⟩
/-- BPM_SQ_SEL.SQ, R728. -/
def BPM_SQ_SEL_SQ : Fld := ⟨1547, 0x60300, [], (0, 0), 32, 0, 16, .rw, fun _ => 0⟩
/-- BPM_SQ_USE.USED, R728. -/
def BPM_SQ_USE_USED : Fld := ⟨1548, 0x60304, [], (0, 0), 32, 0, 21, .ro, fun _ => 0⟩

/-- The fields of the BPM registers, in the order of their tables. -/
def tableBPM : List Fld :=
  [BPM_CTRL_COPY_WINDOW, BPM_CTRL_EN, BPM_STATUS_ERR_POOL, BPM_STATUS_LAYOUT_ERR,
   BPM_STATUS_ACTIVE, BPM_EVT_EVENTS, BPM_POOL_BASE_BASE, BPM_POOL_CNT_COUNT,
   BPM_POOL_FREE_FREE, BPM_POOL_STAT_EMPTY_EMPTY, BPM_POOL_STAT_LOW_LOW, BPM_SQ_SEL_SQ,
   BPM_SQ_USE_USED]

/-- DMA_EVT.EVENTS, R729. -/
def DMA_EVT_EVENTS : Fld := ⟨1792, 0x7000C, [], (0, 0), 32, 0, 3, .w1c, fun _ => 0x0⟩
/-- DMA_BAD_CNT.COUNT, R729. -/
def DMA_BAD_CNT_COUNT : Fld := ⟨1793, 0x70004, [], (0, 0), 32, 0, 32, .ro, fun _ => 0⟩
/-- DMA_HALT_CNT.COUNT, R729. -/
def DMA_HALT_CNT_COUNT : Fld := ⟨1794, 0x70008, [], (0, 0), 32, 0, 32, .ro, fun _ => 0⟩
/-- DMA_ENG_STATUS.QUEUED, R729. -/
def DMA_ENG_STATUS_QUEUED : Fld := ⟨1795, 0x70100, [(40, 0x4)], (0, 0), 32, 8, 8, .ro, fun _ => 0⟩
/-- DMA_ENG_STATUS.BUSY, R729. -/
def DMA_ENG_STATUS_BUSY : Fld := ⟨1796, 0x70100, [(40, 0x4)], (0, 0), 32, 7, 1, .ro, fun _ => 0⟩
/-- DMA_ENG_STATUS.CHANNEL, R729. -/
def DMA_ENG_STATUS_CHANNEL : Fld := ⟨1797, 0x70100, [(40, 0x4)], (0, 0), 32, 0, 6, .ro, fun _ => 0⟩
/-- DMA_CH_DESC.ADDR, R729. -/
def DMA_CH_DESC_ADDR : Fld := ⟨1798, 0x71000, [(2176, 0x10)], (128, 0x78000), 64, 5, 59, .rw, fun _ => 0⟩
/-- DMA_CH_CTRL.PASID_EN, R729. -/
def DMA_CH_CTRL_PASID_EN : Fld := ⟨1799, 0x71008, [(2176, 0x10)], (128, 0x78008), 32, 31, 1, .rw, fun _ => 0⟩
/-- DMA_CH_CTRL.PASID, R729. -/
def DMA_CH_CTRL_PASID : Fld := ⟨1800, 0x71008, [(2176, 0x10)], (128, 0x78008), 32, 8, 20, .rw, fun _ => 0x00000⟩
/-- DMA_CH_CTRL.RESET, R729. -/
def DMA_CH_CTRL_RESET : Fld := ⟨1801, 0x71008, [(2176, 0x10)], (128, 0x78008), 32, 1, 1, .w1s, fun _ => 0⟩
/-- DMA_CH_CTRL.START, R729. -/
def DMA_CH_CTRL_START : Fld := ⟨1802, 0x71008, [(2176, 0x10)], (128, 0x78008), 32, 0, 1, .w1s, fun _ => 0⟩
/-- DMA_CH_STATUS.LAST, R729. -/
def DMA_CH_STATUS_LAST : Fld := ⟨1803, 0x7100C, [(2176, 0x10)], (128, 0x7800C), 32, 16, 8, .ro, fun _ => 0x00⟩
/-- DMA_CH_STATUS.BAD, R729. -/
def DMA_CH_STATUS_BAD : Fld := ⟨1804, 0x7100C, [(2176, 0x10)], (128, 0x7800C), 32, 8, 8, .ro, fun _ => 0x00⟩
/-- DMA_CH_STATUS.STATE, R729. -/
def DMA_CH_STATUS_STATE : Fld := ⟨1805, 0x7100C, [(2176, 0x10)], (128, 0x7800C), 32, 0, 3, .ro, fun _ => 0x0⟩

/-- The fields of the DMA registers, in the order of their tables. -/
def tableDMA : List Fld :=
  [DMA_EVT_EVENTS, DMA_BAD_CNT_COUNT, DMA_HALT_CNT_COUNT, DMA_ENG_STATUS_QUEUED,
   DMA_ENG_STATUS_BUSY, DMA_ENG_STATUS_CHANNEL, DMA_CH_DESC_ADDR, DMA_CH_CTRL_PASID_EN,
   DMA_CH_CTRL_PASID, DMA_CH_CTRL_RESET, DMA_CH_CTRL_START, DMA_CH_STATUS_LAST,
   DMA_CH_STATUS_BAD, DMA_CH_STATUS_STATE]

/-- MEMC_STATUS.SELF_REFRESH, R767. -/
def MEMC_STATUS_SELF_REFRESH : Fld := ⟨1280, 0x50000, [], (0, 0), 32, 4, 1, .ro, fun _ => 0⟩
/-- MEMC_STATUS.INIT_DONE, R767. -/
def MEMC_STATUS_INIT_DONE : Fld := ⟨1281, 0x50000, [], (0, 0), 32, 3, 1, .ro, fun _ => 0⟩
/-- MEMC_STATUS.TRAINED, R767. -/
def MEMC_STATUS_TRAINED : Fld := ⟨1282, 0x50000, [], (0, 0), 32, 2, 1, .ro, fun _ => 0⟩
/-- MEMC_STATUS.CHANNELS, R767. -/
def MEMC_STATUS_CHANNELS : Fld := ⟨1283, 0x50000, [], (0, 0), 32, 0, 2, .ro, fun _ => 0x0⟩
/-- MEMC_CHAN.FITTED, R767. -/
def MEMC_CHAN_FITTED : Fld := ⟨1284, 0x50010, [(4, 0x4)], (0, 0), 32, 31, 1, .ro, fun _ => 0⟩
/-- MEMC_CHAN.TRAIN_OK, R767. -/
def MEMC_CHAN_TRAIN_OK : Fld := ⟨1285, 0x50010, [(4, 0x4)], (0, 0), 32, 30, 1, .ro, fun _ => 0⟩
/-- MEMC_CHAN.DIMMS, R767. -/
def MEMC_CHAN_DIMMS : Fld := ⟨1286, 0x50010, [(4, 0x4)], (0, 0), 32, 28, 2, .ro, fun _ => 0x0⟩
/-- MEMC_CHAN.RANKS, R767. -/
def MEMC_CHAN_RANKS : Fld := ⟨1287, 0x50010, [(4, 0x4)], (0, 0), 32, 26, 2, .ro, fun _ => 0x0⟩
/-- MEMC_CHAN.RATE, R767. -/
def MEMC_CHAN_RATE : Fld := ⟨1288, 0x50010, [(4, 0x4)], (0, 0), 32, 16, 8, .ro, fun _ => 0x00⟩
/-- MEMC_CHAN.SIZE, R767. -/
def MEMC_CHAN_SIZE : Fld := ⟨1289, 0x50010, [(4, 0x4)], (0, 0), 32, 0, 16, .ro, fun _ => 0x0000⟩
/-- MEMC_CACHE_OP.BUSY, R767. -/
def MEMC_CACHE_OP_BUSY : Fld := ⟨1290, 0x5010C, [], (0, 0), 32, 31, 1, .ro, fun _ => 0⟩
/-- MEMC_CACHE_OP.RESULT, R767. -/
def MEMC_CACHE_OP_RESULT : Fld := ⟨1291, 0x5010C, [], (0, 0), 32, 28, 3, .ro, fun _ => 0x0⟩
/-- MEMC_CACHE_OP.FORCE, R767. -/
def MEMC_CACHE_OP_FORCE : Fld := ⟨1292, 0x5010C, [], (0, 0), 32, 8, 1, .rw, fun _ => 0⟩
/-- MEMC_CACHE_OP.GO, R767. -/
def MEMC_CACHE_OP_GO : Fld := ⟨1293, 0x5010C, [], (0, 0), 32, 4, 1, .w1s, fun _ => 0⟩
/-- MEMC_CACHE_OP.OP, R767. -/
def MEMC_CACHE_OP_OP : Fld := ⟨1294, 0x5010C, [], (0, 0), 32, 0, 4, .rw, fun _ => 0x0⟩
/-- MEMC_CACHE_STAT.MERGE_USED, R767. -/
def MEMC_CACHE_STAT_MERGE_USED : Fld := ⟨1295, 0x50118, [], (0, 0), 32, 2, 6, .ro, fun _ => 0x00⟩
/-- MEMC_CACHE_STAT.LOCK_BUSY, R767. -/
def MEMC_CACHE_STAT_LOCK_BUSY : Fld := ⟨1296, 0x50118, [], (0, 0), 32, 1, 1, .ro, fun _ => 0⟩
/-- MEMC_CACHE_STAT.LOCK_ERR, R767. -/
def MEMC_CACHE_STAT_LOCK_ERR : Fld := ⟨1297, 0x50118, [], (0, 0), 32, 0, 1, .w1c, fun _ => 0⟩
/-- MEMC_SRAM_CE.COUNT, R767. -/
def MEMC_SRAM_CE_COUNT : Fld := ⟨1298, 0x50200, [(9, 0x4)], (0, 0), 32, 0, 32, .ro, fun _ => 0⟩
/-- MEMC_EVT.EVENTS, R767. -/
def MEMC_EVT_EVENTS : Fld := ⟨1299, 0x50300, [], (0, 0), 32, 0, 10, .w1c, fun _ => 0x000⟩
/-- MEMC_SCRUB_CFG.HOURS, R767. -/
def MEMC_SCRUB_CFG_HOURS : Fld := ⟨1300, 0x50040, [], (0, 0), 32, 0, 8, .rw, fun _ => 0x18⟩
/-- MEMC_SCRUB_PASSES.PASSES, R767. -/
def MEMC_SCRUB_PASSES_PASSES : Fld := ⟨1301, 0x50044, [], (0, 0), 32, 0, 32, .ro, fun _ => 0⟩
/-- MEMC_SCRUB_POS.POS, R767. -/
def MEMC_SCRUB_POS_POS : Fld := ⟨1302, 0x50048, [], (0, 0), 64, 0, 64, .ro, fun _ => 0⟩
/-- MEMC_CE_CNT.COUNT, R767. -/
def MEMC_CE_CNT_COUNT : Fld := ⟨1440, 0x50080, [(4, 0x4)], (0, 0), 32, 0, 32, .ro, fun _ => 0⟩
/-- MEMC_UE_CNT.COUNT, R767. -/
def MEMC_UE_CNT_COUNT : Fld := ⟨1441, 0x50090, [], (0, 0), 32, 0, 32, .ro, fun _ => 0⟩
/-- MEMC_CE_THRESH.THRESH, R767. -/
def MEMC_CE_THRESH_THRESH : Fld := ⟨1303, 0x50094, [], (0, 0), 32, 0, 32, .rw, fun _ => 0x40⟩
/-- MEMC_ERR_ADDR.ADDR, R767. -/
def MEMC_ERR_ADDR_ADDR : Fld := ⟨1304, 0x500A0, [], (0, 0), 64, 0, 64, .ro, fun _ => 0⟩
/-- MEMC_CE_ADDR.ADDR, R767. -/
def MEMC_CE_ADDR_ADDR : Fld := ⟨1305, 0x500B0, [], (0, 0), 64, 0, 64, .ro, fun _ => 0⟩
/-- MEMC_ERR_INFO.VALID, R767. -/
def MEMC_ERR_INFO_VALID : Fld := ⟨1306, 0x500A8, [], (0, 0), 32, 31, 1, .w1c, fun _ => 0⟩
/-- MEMC_ERR_INFO.SOURCE, R767. -/
def MEMC_ERR_INFO_SOURCE : Fld := ⟨1307, 0x500A8, [], (0, 0), 32, 27, 4, .ro, fun _ => 0⟩
/-- MEMC_ERR_INFO.CHANNEL, R767. -/
def MEMC_ERR_INFO_CHANNEL : Fld := ⟨1308, 0x500A8, [], (0, 0), 32, 25, 2, .ro, fun _ => 0⟩
/-- MEMC_ERR_INFO.SUBCH, R767. -/
def MEMC_ERR_INFO_SUBCH : Fld := ⟨1309, 0x500A8, [], (0, 0), 32, 24, 1, .ro, fun _ => 0⟩
/-- MEMC_ERR_INFO.RANK, R767. -/
def MEMC_ERR_INFO_RANK : Fld := ⟨1310, 0x500A8, [], (0, 0), 32, 22, 2, .ro, fun _ => 0⟩
/-- MEMC_ERR_INFO.CODEWORD, R767. -/
def MEMC_ERR_INFO_CODEWORD : Fld := ⟨1311, 0x500A8, [], (0, 0), 32, 20, 2, .ro, fun _ => 0⟩
/-- MEMC_ERR_INFO.DEVICE, R767. -/
def MEMC_ERR_INFO_DEVICE : Fld := ⟨1312, 0x500A8, [], (0, 0), 32, 16, 4, .ro, fun _ => 0⟩
/-- MEMC_ERR_INFO.BEAT, R767. -/
def MEMC_ERR_INFO_BEAT : Fld := ⟨1313, 0x500A8, [], (0, 0), 32, 12, 4, .ro, fun _ => 0⟩
/-- MEMC_CE_INFO.VALID, R767. -/
def MEMC_CE_INFO_VALID : Fld := ⟨1314, 0x500B8, [], (0, 0), 32, 31, 1, .w1c, fun _ => 0⟩
/-- MEMC_CE_INFO.SOURCE, R767. -/
def MEMC_CE_INFO_SOURCE : Fld := ⟨1315, 0x500B8, [], (0, 0), 32, 27, 4, .ro, fun _ => 0⟩
/-- MEMC_CE_INFO.CHANNEL, R767. -/
def MEMC_CE_INFO_CHANNEL : Fld := ⟨1316, 0x500B8, [], (0, 0), 32, 25, 2, .ro, fun _ => 0⟩
/-- MEMC_CE_INFO.SUBCH, R767. -/
def MEMC_CE_INFO_SUBCH : Fld := ⟨1317, 0x500B8, [], (0, 0), 32, 24, 1, .ro, fun _ => 0⟩
/-- MEMC_CE_INFO.RANK, R767. -/
def MEMC_CE_INFO_RANK : Fld := ⟨1318, 0x500B8, [], (0, 0), 32, 22, 2, .ro, fun _ => 0⟩
/-- MEMC_CE_INFO.CODEWORD, R767. -/
def MEMC_CE_INFO_CODEWORD : Fld := ⟨1319, 0x500B8, [], (0, 0), 32, 20, 2, .ro, fun _ => 0⟩
/-- MEMC_CE_INFO.DEVICE, R767. -/
def MEMC_CE_INFO_DEVICE : Fld := ⟨1320, 0x500B8, [], (0, 0), 32, 16, 4, .ro, fun _ => 0⟩
/-- MEMC_CE_INFO.BEAT, R767. -/
def MEMC_CE_INFO_BEAT : Fld := ⟨1321, 0x500B8, [], (0, 0), 32, 12, 4, .ro, fun _ => 0⟩
/-- MEMC_INJ_ADDR.ADDR, R767. -/
def MEMC_INJ_ADDR_ADDR : Fld := ⟨1322, 0x500D0, [], (0, 0), 64, 6, 58, .rw, fun _ => 0⟩
/-- MEMC_INJ_CTRL.ARM, R767. -/
def MEMC_INJ_CTRL_ARM : Fld := ⟨1323, 0x500D8, [], (0, 0), 32, 31, 1, .w1s, fun _ => 0⟩
/-- MEMC_INJ_CTRL.CODEWORD, R767. -/
def MEMC_INJ_CTRL_CODEWORD : Fld := ⟨1324, 0x500D8, [], (0, 0), 32, 1, 2, .rw, fun _ => 0⟩
/-- MEMC_INJ_CTRL.DOUBLE, R767. -/
def MEMC_INJ_CTRL_DOUBLE : Fld := ⟨1325, 0x500D8, [], (0, 0), 32, 0, 1, .rw, fun _ => 0⟩
/-- MEMC_CACHE_ADDR.ADDR, R767. -/
def MEMC_CACHE_ADDR_ADDR : Fld := ⟨1326, 0x50100, [], (0, 0), 64, 6, 58, .rw, fun _ => 0⟩
/-- MEMC_CACHE_LEN.LEN, R767. -/
def MEMC_CACHE_LEN_LEN : Fld := ⟨1327, 0x50108, [], (0, 0), 32, 0, 27, .rw, fun _ => 1⟩
/-- MEMC_CACHE_LOCK.LOCK, R767. -/
def MEMC_CACHE_LOCK_LOCK : Fld := ⟨1328, 0x50110, [], (0, 0), 32, 0, 16, .rw, fun _ => 0⟩
/-- MEMC_CACHE_PWR.PWR_STATE, R767. -/
def MEMC_CACHE_PWR_PWR_STATE : Fld := ⟨1329, 0x50114, [], (0, 0), 32, 8, 4, .ro, fun _ => 0xF⟩
/-- MEMC_CACHE_PWR.ON, R767. -/
def MEMC_CACHE_PWR_ON : Fld := ⟨1330, 0x50114, [], (0, 0), 32, 0, 4, .rw, fun _ => 0xF⟩
/-- MEMC_CACHE_LOCKED_SKIP.COUNT, R767. -/
def MEMC_CACHE_LOCKED_SKIP_COUNT : Fld := ⟨1331, 0x50120, [], (0, 0), 32, 0, 32, .ro, fun _ => 0⟩
/-- MEMC_CACHE_LOCK_MISS.COUNT, R767. -/
def MEMC_CACHE_LOCK_MISS_COUNT : Fld := ⟨1332, 0x50124, [], (0, 0), 32, 0, 32, .ro, fun _ => 0⟩
/-- MEMC_CACHE_HITS.COUNT, R767. -/
def MEMC_CACHE_HITS_COUNT : Fld := ⟨1333, 0x50128, [], (0, 0), 32, 0, 32, .ro, fun _ => 0⟩
/-- MEMC_CACHE_MISSES.COUNT, R767. -/
def MEMC_CACHE_MISSES_COUNT : Fld := ⟨1334, 0x5012C, [], (0, 0), 32, 0, 32, .ro, fun _ => 0⟩

/-- The fields of the MEMC registers, in the order of their tables. -/
def tableMEMC : List Fld :=
  [MEMC_STATUS_SELF_REFRESH, MEMC_STATUS_INIT_DONE, MEMC_STATUS_TRAINED, MEMC_STATUS_CHANNELS,
   MEMC_CHAN_FITTED, MEMC_CHAN_TRAIN_OK, MEMC_CHAN_DIMMS, MEMC_CHAN_RANKS,
   MEMC_CHAN_RATE, MEMC_CHAN_SIZE, MEMC_CACHE_OP_BUSY, MEMC_CACHE_OP_RESULT,
   MEMC_CACHE_OP_FORCE, MEMC_CACHE_OP_GO, MEMC_CACHE_OP_OP, MEMC_CACHE_STAT_MERGE_USED,
   MEMC_CACHE_STAT_LOCK_BUSY, MEMC_CACHE_STAT_LOCK_ERR, MEMC_SRAM_CE_COUNT, MEMC_EVT_EVENTS,
   MEMC_SCRUB_CFG_HOURS, MEMC_SCRUB_PASSES_PASSES, MEMC_SCRUB_POS_POS, MEMC_CE_CNT_COUNT,
   MEMC_UE_CNT_COUNT, MEMC_CE_THRESH_THRESH, MEMC_ERR_ADDR_ADDR, MEMC_CE_ADDR_ADDR,
   MEMC_ERR_INFO_VALID, MEMC_ERR_INFO_SOURCE, MEMC_ERR_INFO_CHANNEL, MEMC_ERR_INFO_SUBCH,
   MEMC_ERR_INFO_RANK, MEMC_ERR_INFO_CODEWORD, MEMC_ERR_INFO_DEVICE, MEMC_ERR_INFO_BEAT,
   MEMC_CE_INFO_VALID, MEMC_CE_INFO_SOURCE, MEMC_CE_INFO_CHANNEL, MEMC_CE_INFO_SUBCH,
   MEMC_CE_INFO_RANK, MEMC_CE_INFO_CODEWORD, MEMC_CE_INFO_DEVICE, MEMC_CE_INFO_BEAT,
   MEMC_INJ_ADDR_ADDR, MEMC_INJ_CTRL_ARM, MEMC_INJ_CTRL_CODEWORD, MEMC_INJ_CTRL_DOUBLE,
   MEMC_CACHE_ADDR_ADDR, MEMC_CACHE_LEN_LEN, MEMC_CACHE_LOCK_LOCK, MEMC_CACHE_PWR_PWR_STATE,
   MEMC_CACHE_PWR_ON, MEMC_CACHE_LOCKED_SKIP_COUNT, MEMC_CACHE_LOCK_MISS_COUNT, MEMC_CACHE_HITS_COUNT,
   MEMC_CACHE_MISSES_COUNT]

/-- FLC_STATUS.RESULT, R814. -/
def FLC_STATUS_RESULT : Fld := ⟨1024, 0x40000, [], (0, 0), 32, 16, 8, .ro, fun _ => 0x00⟩
/-- FLC_STATUS.PF_ACTIVE, R814. -/
def FLC_STATUS_PF_ACTIVE : Fld := ⟨1025, 0x40000, [], (0, 0), 32, 4, 1, .ro, fun _ => 0⟩
/-- FLC_STATUS.LOG_B, R814. -/
def FLC_STATUS_LOG_B : Fld := ⟨1026, 0x40000, [], (0, 0), 32, 3, 1, .ro, fun _ => 0⟩
/-- FLC_STATUS.SUSPENDED, R814. -/
def FLC_STATUS_SUSPENDED : Fld := ⟨1027, 0x40000, [], (0, 0), 32, 2, 1, .ro, fun _ => 0⟩
/-- FLC_STATUS.ERASING, R814. -/
def FLC_STATUS_ERASING : Fld := ⟨1028, 0x40000, [], (0, 0), 32, 1, 1, .ro, fun _ => 0⟩
/-- FLC_STATUS.BUSY, R814. -/
def FLC_STATUS_BUSY : Fld := ⟨1029, 0x40000, [], (0, 0), 32, 0, 1, .ro, fun _ => 0⟩
/-- FLC_CTRL.PEND_WARN_S, R814. -/
def FLC_CTRL_PEND_WARN_S : Fld := ⟨1030, 0x40004, [], (0, 0), 32, 8, 8, .rw, fun _ => 0x3C⟩
/-- FLC_CTRL.AUTO_SUSPEND, R814. -/
def FLC_CTRL_AUTO_SUSPEND : Fld := ⟨1031, 0x40004, [], (0, 0), 32, 0, 1, .rw, fun _ => 1⟩
/-- FLC_ERASE.SECTOR, R814. -/
def FLC_ERASE_SECTOR : Fld := ⟨1032, 0x40008, [], (0, 0), 32, 16, 12, .ro, fun _ => 0x000⟩
/-- FLC_ERASE.PULSES, R814. -/
def FLC_ERASE_PULSES : Fld := ⟨1033, 0x40008, [], (0, 0), 32, 0, 16, .ro, fun _ => 0x0000⟩
/-- FLC_SPARE.LEFT, R814. -/
def FLC_SPARE_LEFT : Fld := ⟨1034, 0x40014, [], (0, 0), 32, 16, 8, .ro, fun _ => 0x40⟩
/-- FLC_SPARE.RETIRED, R814. -/
def FLC_SPARE_RETIRED : Fld := ⟨1035, 0x40014, [], (0, 0), 32, 0, 8, .ro, fun _ => 0x00⟩
/-- FLC_EVT.EVENTS, R814. -/
def FLC_EVT_EVENTS : Fld := ⟨1036, 0x40038, [], (0, 0), 32, 0, 13, .w1c, fun _ => 0x0000⟩
/-- FLC_ERASE_PEND.MS, R814. -/
def FLC_ERASE_PEND_MS : Fld := ⟨1037, 0x4000C, [], (0, 0), 32, 0, 32, .ro, fun _ => 0⟩
/-- FLC_ERASE_SEQ.SEQ, R814. -/
def FLC_ERASE_SEQ_SEQ : Fld := ⟨1038, 0x40010, [], (0, 0), 32, 0, 32, .ro, fun _ => 0⟩
/-- FLC_CE_CNT.COUNT, R814. -/
def FLC_CE_CNT_COUNT : Fld := ⟨1184, 0x40018, [], (0, 0), 32, 0, 32, .ro, fun _ => 0⟩
/-- FLC_UE_CNT.COUNT, R814. -/
def FLC_UE_CNT_COUNT : Fld := ⟨1185, 0x4001C, [], (0, 0), 32, 0, 32, .ro, fun _ => 0⟩
/-- FLC_TORN_CNT.COUNT, R814. -/
def FLC_TORN_CNT_COUNT : Fld := ⟨1186, 0x40020, [], (0, 0), 32, 0, 32, .ro, fun _ => 0⟩
/-- FLC_ERR_ADDR.ADDR, R814. -/
def FLC_ERR_ADDR_ADDR : Fld := ⟨1039, 0x40028, [], (0, 0), 64, 0, 64, .ro, fun _ => 0⟩
/-- FLC_ERR_INFO.VALID, R814. -/
def FLC_ERR_INFO_VALID : Fld := ⟨1040, 0x40030, [], (0, 0), 32, 31, 1, .w1c, fun _ => 0⟩
/-- FLC_ERR_INFO.SLOT, R814. -/
def FLC_ERR_INFO_SLOT : Fld := ⟨1041, 0x40030, [], (0, 0), 32, 0, 2, .ro, fun _ => 0⟩

/-- The fields of the FLC registers, in the order of their tables. -/
def tableFLC : List Fld :=
  [FLC_STATUS_RESULT, FLC_STATUS_PF_ACTIVE, FLC_STATUS_LOG_B, FLC_STATUS_SUSPENDED,
   FLC_STATUS_ERASING, FLC_STATUS_BUSY, FLC_CTRL_PEND_WARN_S, FLC_CTRL_AUTO_SUSPEND,
   FLC_ERASE_SECTOR, FLC_ERASE_PULSES, FLC_SPARE_LEFT, FLC_SPARE_RETIRED,
   FLC_EVT_EVENTS, FLC_ERASE_PEND_MS, FLC_ERASE_SEQ_SEQ, FLC_CE_CNT_COUNT,
   FLC_UE_CNT_COUNT, FLC_TORN_CNT_COUNT, FLC_ERR_ADDR_ADDR, FLC_ERR_INFO_VALID,
   FLC_ERR_INFO_SLOT]

/-- TALLY_ID.FAMILY, R853. -/
def TALLY_ID_FAMILY : Fld := ⟨960, 0x30000, [], (0, 0), 32, 16, 16, .ro, fun _ => 0x7A11⟩
/-- TALLY_ID.ROM_VER, R853. -/
def TALLY_ID_ROM_VER : Fld := ⟨961, 0x30000, [], (0, 0), 32, 0, 16, .ro, fun _ => 0x0103⟩
/-- TALLY_STATUS.STORE_LOW, R853. -/
def TALLY_STATUS_STORE_LOW : Fld := ⟨962, 0x30004, [], (0, 0), 32, 9, 1, .ro, fun _ => 0⟩
/-- TALLY_STATUS.CARRYING, R853. -/
def TALLY_STATUS_CARRYING : Fld := ⟨963, 0x30004, [], (0, 0), 32, 8, 1, .ro, fun _ => 0⟩
/-- TALLY_STATUS.SEAL_REQ, R853. -/
def TALLY_STATUS_SEAL_REQ : Fld := ⟨964, 0x30004, [], (0, 0), 32, 7, 1, .ro, fun _ => 0⟩
/-- TALLY_STATUS.TEST_EN, R853. -/
def TALLY_STATUS_TEST_EN : Fld := ⟨965, 0x30004, [], (0, 0), 32, 6, 1, .ro, fun _ => 0⟩
/-- TALLY_STATUS.SEALED, R853. -/
def TALLY_STATUS_SEALED : Fld := ⟨966, 0x30004, [], (0, 0), 32, 5, 1, .ro, fun _ => 0⟩
/-- TALLY_STATUS.KAT_OK, R853. -/
def TALLY_STATUS_KAT_OK : Fld := ⟨967, 0x30004, [], (0, 0), 32, 4, 1, .ro, fun _ => 0⟩
/-- TALLY_STATUS.ROM_OK, R853. -/
def TALLY_STATUS_ROM_OK : Fld := ⟨968, 0x30004, [], (0, 0), 32, 3, 1, .ro, fun _ => 0⟩
/-- TALLY_STATUS.PF_ACTIVE, R853. -/
def TALLY_STATUS_PF_ACTIVE : Fld := ⟨969, 0x30004, [], (0, 0), 32, 2, 1, .ro, fun _ => 0⟩
/-- TALLY_STATUS.FAULT, R853. -/
def TALLY_STATUS_FAULT : Fld := ⟨970, 0x30004, [], (0, 0), 32, 1, 1, .ro, fun _ => 0⟩
/-- TALLY_STATUS.RUNNING, R853. -/
def TALLY_STATUS_RUNNING : Fld := ⟨971, 0x30004, [], (0, 0), 32, 0, 1, .ro, fun _ => 0⟩
/-- TALLY_FREE.FREE, R853. -/
def TALLY_FREE_FREE : Fld := ⟨972, 0x30020, [], (0, 0), 32, 0, 18, .ro, fun _ => 0x00000⟩
/-- TALLY_ACCOUNTS.CARRIED, R853. -/
def TALLY_ACCOUNTS_CARRIED : Fld := ⟨973, 0x30024, [], (0, 0), 32, 16, 13, .ro, fun _ => 0x0000⟩
/-- TALLY_ACCOUNTS.ACTIVE, R853. -/
def TALLY_ACCOUNTS_ACTIVE : Fld := ⟨974, 0x30024, [], (0, 0), 32, 0, 13, .ro, fun _ => 0x0000⟩
/-- TALLY_SUM.SUM, R853. -/
def TALLY_SUM_SUM : Fld := ⟨975, 0x30030, [(4, 0x8)], (0, 0), 64, 0, 64, .ro, fun _ => 0⟩
/-- TALLY_COUNT.ABANDONED, R853. -/
def TALLY_COUNT_ABANDONED : Fld := ⟨976, 0x30050, [], (0, 0), 32, 16, 16, .ro, fun _ => 0x0000⟩
/-- TALLY_COUNT.CARRY, R853. -/
def TALLY_COUNT_CARRY : Fld := ⟨977, 0x30050, [], (0, 0), 32, 0, 16, .ro, fun _ => 0x0000⟩
/-- TALLY_NEWEST.SEQ, R853. -/
def TALLY_NEWEST_SEQ : Fld := ⟨978, 0x30008, [], (0, 0), 64, 0, 48, .ro, fun _ => 0⟩
/-- TALLY_ACKED.SEQ, R853. -/
def TALLY_ACKED_SEQ : Fld := ⟨979, 0x30010, [], (0, 0), 64, 0, 48, .ro, fun _ => 0⟩
/-- TALLY_OLDEST.SEQ, R853. -/
def TALLY_OLDEST_SEQ : Fld := ⟨980, 0x30018, [], (0, 0), 64, 0, 48, .ro, fun _ => 0⟩
/-- TALLY_OPEN.START_SEC, R853. -/
def TALLY_OPEN_START_SEC : Fld := ⟨981, 0x30028, [], (0, 0), 32, 0, 32, .ro, fun _ => 0⟩
/-- TALLY_ROM_CRC.CRC, R853. -/
def TALLY_ROM_CRC_CRC : Fld := ⟨982, 0x3002C, [], (0, 0), 32, 0, 32, .ro, fun _ => 0⟩

/-- The fields of the TALLY registers, in the order of their tables. -/
def tableTALLY : List Fld :=
  [TALLY_ID_FAMILY, TALLY_ID_ROM_VER, TALLY_STATUS_STORE_LOW, TALLY_STATUS_CARRYING,
   TALLY_STATUS_SEAL_REQ, TALLY_STATUS_TEST_EN, TALLY_STATUS_SEALED, TALLY_STATUS_KAT_OK,
   TALLY_STATUS_ROM_OK, TALLY_STATUS_PF_ACTIVE, TALLY_STATUS_FAULT, TALLY_STATUS_RUNNING,
   TALLY_FREE_FREE, TALLY_ACCOUNTS_CARRIED, TALLY_ACCOUNTS_ACTIVE, TALLY_SUM_SUM,
   TALLY_COUNT_ABANDONED, TALLY_COUNT_CARRY, TALLY_NEWEST_SEQ, TALLY_ACKED_SEQ,
   TALLY_OLDEST_SEQ, TALLY_OPEN_START_SEC, TALLY_ROM_CRC_CRC]

/-- PWR_STATUS.WAKE_SRC, R891. -/
def PWR_STATUS_WAKE_SRC : Fld := ⟨256, 0x10000, [], (0, 0), 32, 20, 4, .ro, fun _ => 0x0⟩
/-- PWR_STATUS.LAST_RESET, R891. -/
def PWR_STATUS_LAST_RESET : Fld := ⟨257, 0x10000, [], (0, 0), 32, 16, 4, .ro, fun _ => 0x0⟩
/-- PWR_STATUS.PWRFAIL, R891. -/
def PWR_STATUS_PWRFAIL : Fld := ⟨258, 0x10000, [], (0, 0), 32, 10, 1, .ro, fun _ => 0⟩
/-- PWR_STATUS.OVER_CAP, R891. -/
def PWR_STATUS_OVER_CAP : Fld := ⟨259, 0x10000, [], (0, 0), 32, 9, 1, .ro, fun _ => 0⟩
/-- PWR_STATUS.THERM_DAMPED, R891. -/
def PWR_STATUS_THERM_DAMPED : Fld := ⟨260, 0x10000, [], (0, 0), 32, 8, 1, .ro, fun _ => 0⟩
/-- PWR_STATUS.REQ_MODE, R891. -/
def PWR_STATUS_REQ_MODE : Fld := ⟨261, 0x10000, [], (0, 0), 32, 4, 3, .ro, fun _ => 0x3⟩
/-- PWR_CAP.EST, R891. -/
def PWR_CAP_EST : Fld := ⟨262, 0x10004, [], (0, 0), 32, 16, 16, .ro, fun _ => 0x0000⟩
/-- PWR_CAP.CAP, R891. -/
def PWR_CAP_CAP : Fld := ⟨263, 0x10004, [], (0, 0), 32, 0, 16, .ro, fun _ => 0x047E⟩
/-- PWR_CFG.PF_RECOVER_MS, R891. -/
def PWR_CFG_PF_RECOVER_MS : Fld := ⟨448, 0x10008, [], (0, 0), 32, 16, 16, .rw, fun _ => 0x0064⟩
/-- PWR_CFG.LINK_GRACE, R891. -/
def PWR_CFG_LINK_GRACE : Fld := ⟨449, 0x10008, [], (0, 0), 32, 8, 8, .rw, fun _ => 0x0A⟩
/-- PWR_CFG.TIMER_WAKE_EN, R891. -/
def PWR_CFG_TIMER_WAKE_EN : Fld := ⟨450, 0x10008, [], (0, 0), 32, 3, 1, .rw, fun _ => 0⟩
/-- PWR_CFG.PERST_WAKE_EN, R891. -/
def PWR_CFG_PERST_WAKE_EN : Fld := ⟨451, 0x10008, [], (0, 0), 32, 2, 1, .rw, fun _ => 1⟩
/-- PWR_CFG.SMBUS_WAKE_EN, R891. -/
def PWR_CFG_SMBUS_WAKE_EN : Fld := ⟨452, 0x10008, [], (0, 0), 32, 1, 1, .rw, fun _ => 1⟩
/-- PWR_CFG.WAKE_N_EN, R891. -/
def PWR_CFG_WAKE_N_EN : Fld := ⟨453, 0x10008, [], (0, 0), 32, 0, 1, .rw, fun _ => 1⟩
/-- PWR_WAKE_AT.SEC, R891. -/
def PWR_WAKE_AT_SEC : Fld := ⟨454, 0x1000C, [], (0, 0), 32, 0, 32, .rw, fun _ => 0⟩
/-- PWR_TEMP.TJ_PEAK, R891. -/
def PWR_TEMP_TJ_PEAK : Fld := ⟨455, 0x10010, [], (0, 0), 32, 16, 16, .ro, fun _ => 0x0000⟩
/-- PWR_TEMP.TJ, R891. -/
def PWR_TEMP_TJ : Fld := ⟨456, 0x10010, [], (0, 0), 32, 0, 16, .ro, fun _ => 0x0000⟩
/-- PWR_THERM_CFG.EXIT_S, R891. -/
def PWR_THERM_CFG_EXIT_S : Fld := ⟨457, 0x10014, [], (0, 0), 32, 24, 8, .rw, fun _ => 0x0A⟩
/-- PWR_THERM_CFG.EXIT_C, R891. -/
def PWR_THERM_CFG_EXIT_C : Fld := ⟨458, 0x10014, [], (0, 0), 32, 16, 8, .rw, fun _ => 0x5A⟩
/-- PWR_THERM_CFG.THERM_CAP, R891. -/
def PWR_THERM_CFG_THERM_CAP : Fld := ⟨459, 0x10014, [], (0, 0), 32, 0, 16, .rw, fun _ => 0x0320⟩
/-- PWR_WEIGHT.STN_START_W, R891. -/
def PWR_WEIGHT_STN_START_W : Fld := ⟨264, 0x10018, [], (0, 0), 32, 24, 8, .rw, fun _ => 0x00⟩
/-- PWR_WEIGHT.STN_RUN_W, R891. -/
def PWR_WEIGHT_STN_RUN_W : Fld := ⟨265, 0x10018, [], (0, 0), 32, 16, 8, .rw, fun _ => 0x00⟩
/-- PWR_WEIGHT.HEAD_W, R891. -/
def PWR_WEIGHT_HEAD_W : Fld := ⟨266, 0x10018, [], (0, 0), 32, 8, 8, .rw, fun _ => 0x00⟩
/-- PWR_WEIGHT.SLICE_W, R891. -/
def PWR_WEIGHT_SLICE_W : Fld := ⟨267, 0x10018, [], (0, 0), 32, 0, 8, .rw, fun _ => 0x08⟩
/-- PWR_WDOG.KICK, R891. -/
def PWR_WDOG_KICK : Fld := ⟨268, 0x1001C, [], (0, 0), 32, 31, 1, .w1s, fun _ => 0⟩
/-- PWR_WDOG.TIMEOUT_MS, R891. -/
def PWR_WDOG_TIMEOUT_MS : Fld := ⟨269, 0x1001C, [], (0, 0), 32, 0, 16, .rw, fun _ => 0x07D0⟩
/-- PWR_EVT.EVENTS, R891. -/
def PWR_EVT_EVENTS : Fld := ⟨270, 0x10020, [], (0, 0), 32, 0, 8, .w1c, fun _ => 0x00⟩

/-- The fields of the PWR registers, in the order of their tables. -/
def tablePWR : List Fld :=
  [PWR_STATUS_WAKE_SRC, PWR_STATUS_LAST_RESET, PWR_STATUS_PWRFAIL, PWR_STATUS_OVER_CAP,
   PWR_STATUS_THERM_DAMPED, PWR_STATUS_REQ_MODE, PWR_CAP_EST, PWR_CAP_CAP,
   PWR_CFG_PF_RECOVER_MS, PWR_CFG_LINK_GRACE, PWR_CFG_TIMER_WAKE_EN, PWR_CFG_PERST_WAKE_EN,
   PWR_CFG_SMBUS_WAKE_EN, PWR_CFG_WAKE_N_EN, PWR_WAKE_AT_SEC, PWR_TEMP_TJ_PEAK,
   PWR_TEMP_TJ, PWR_THERM_CFG_EXIT_S, PWR_THERM_CFG_EXIT_C, PWR_THERM_CFG_THERM_CAP,
   PWR_WEIGHT_STN_START_W, PWR_WEIGHT_STN_RUN_W, PWR_WEIGHT_HEAD_W, PWR_WEIGHT_SLICE_W,
   PWR_WDOG_KICK, PWR_WDOG_TIMEOUT_MS, PWR_EVT_EVENTS]

/-- EVT_RD_DATA.DATA, R892. -/
def EVT_RD_DATA_DATA : Fld := ⟨3840, 0xF0100, [(16, 0x4)], (0, 0), 32, 0, 32, .ro, fun _ => 0⟩
/-- EVT_CTRL.IEN, R892. -/
def EVT_CTRL_IEN : Fld := ⟨3841, 0xF0000, [], (0, 0), 32, 0, 1, .rw, fun _ => 0⟩
/-- EVT_MASK.MASK, R892. -/
def EVT_MASK_MASK : Fld := ⟨3842, 0xF0004, [], (0, 0), 32, 1, 15, .rw, fun _ => 0⟩
/-- EVT_STATUS.OVERFLOW, R892. -/
def EVT_STATUS_OVERFLOW : Fld := ⟨3843, 0xF0008, [], (0, 0), 32, 31, 1, .w1c, fun _ => 0⟩
/-- EVT_STATUS.HELD, R892. -/
def EVT_STATUS_HELD : Fld := ⟨3844, 0xF0008, [], (0, 0), 32, 0, 11, .ro, fun _ => 0⟩
/-- EVT_LOST.COUNT, R892. -/
def EVT_LOST_COUNT : Fld := ⟨4032, 0xF000C, [], (0, 0), 32, 0, 32, .ro, fun _ => 0⟩
/-- EVT_NEWEST.SEQ, R892. -/
def EVT_NEWEST_SEQ : Fld := ⟨4033, 0xF0010, [], (0, 0), 64, 0, 48, .ro, fun _ => 0⟩
/-- EVT_RD_SEQ.SEQ, R892. -/
def EVT_RD_SEQ_SEQ : Fld := ⟨3845, 0xF0018, [], (0, 0), 64, 0, 48, .rw, fun _ => 0⟩

/-- The fields of the EVT registers, in the order of their tables. -/
def tableEVT : List Fld :=
  [EVT_RD_DATA_DATA, EVT_CTRL_IEN, EVT_MASK_MASK, EVT_STATUS_OVERFLOW,
   EVT_STATUS_HELD, EVT_LOST_COUNT, EVT_NEWEST_SEQ, EVT_RD_SEQ_SEQ]

/-- CAL_CTRL.STORE_EN, R913. -/
def CAL_CTRL_STORE_EN : Fld := ⟨2816, 0xB0000, [], (0, 0), 32, 5, 1, .rw, fun _ => 1⟩
/-- CAL_CTRL.RUN_ALL, R913. -/
def CAL_CTRL_RUN_ALL : Fld := ⟨2817, 0xB0000, [], (0, 0), 32, 4, 1, .w1s, fun _ => 0⟩
/-- CAL_CTRL.TRIM_EN, R913. -/
def CAL_CTRL_TRIM_EN : Fld := ⟨2818, 0xB0000, [], (0, 0), 32, 3, 1, .rw, fun _ => 1⟩
/-- CAL_CTRL.SLICE_EN, R913. -/
def CAL_CTRL_SLICE_EN : Fld := ⟨2819, 0xB0000, [], (0, 0), 32, 2, 1, .rw, fun _ => 1⟩
/-- CAL_CTRL.LINK_EN, R913. -/
def CAL_CTRL_LINK_EN : Fld := ⟨2820, 0xB0000, [], (0, 0), 32, 1, 1, .rw, fun _ => 1⟩
/-- CAL_CTRL.EN, R913. -/
def CAL_CTRL_EN : Fld := ⟨2821, 0xB0000, [], (0, 0), 32, 0, 1, .rw, fun _ => 1⟩
/-- CAL_CFG.MAX_H, R913. -/
def CAL_CFG_MAX_H : Fld := ⟨2822, 0xB0004, [], (0, 0), 32, 24, 8, .rw, fun _ => 0x18⟩
/-- CAL_CFG.DTEMP_FE, R913. -/
def CAL_CFG_DTEMP_FE : Fld := ⟨2823, 0xB0004, [], (0, 0), 32, 8, 8, .rw, fun _ => 0x14⟩
/-- CAL_CFG.DTEMP_TJ, R913. -/
def CAL_CFG_DTEMP_TJ : Fld := ⟨2824, 0xB0004, [], (0, 0), 32, 0, 8, .rw, fun _ => 0x50⟩
/-- CAL_STATUS.PENDING, R913. -/
def CAL_STATUS_PENDING : Fld := ⟨2825, 0xB0010, [], (0, 0), 32, 16, 9, .ro, fun _ => 0x000⟩
/-- CAL_STATUS.LINK_RUNNING, R913. -/
def CAL_STATUS_LINK_RUNNING : Fld := ⟨2826, 0xB0010, [], (0, 0), 32, 0, 5, .ro, fun _ => 0x00⟩
/-- CAL_HEAD.VALID, R913. -/
def CAL_HEAD_VALID : Fld := ⟨2827, 0xB4000, [(256, 0x4)], (0, 0), 32, 31, 1, .ro, fun _ => 0⟩
/-- CAL_HEAD.TRIM_VALID, R913. -/
def CAL_HEAD_TRIM_VALID : Fld := ⟨2828, 0xB4000, [(256, 0x4)], (0, 0), 32, 30, 1, .ro, fun _ => 0⟩
/-- CAL_HEAD.TEMP_RUN, R913. -/
def CAL_HEAD_TEMP_RUN : Fld := ⟨2829, 0xB4000, [(256, 0x4)], (0, 0), 32, 0, 16, .ro, fun _ => 0x0000⟩
/-- CAL_EVT.EVENTS, R913. -/
def CAL_EVT_EVENTS : Fld := ⟨2830, 0xB0020, [], (0, 0), 32, 0, 3, .w1c, fun _ => 0x0⟩
/-- CAL_SLICE_CFG.FRAMES, R913. -/
def CAL_SLICE_CFG_FRAMES : Fld := ⟨2831, 0xB0008, [], (0, 0), 32, 16, 8, .rw, fun _ => 0x10⟩
/-- CAL_SLICE_CFG.GAIN_STEP, R913. -/
def CAL_SLICE_CFG_GAIN_STEP : Fld := ⟨2832, 0xB0008, [], (0, 0), 32, 8, 8, .rw, fun _ => 8⟩
/-- CAL_SLICE_CFG.RMS_TGT, R913. -/
def CAL_SLICE_CFG_RMS_TGT : Fld := ⟨2833, 0xB0008, [], (0, 0), 32, 0, 8, .rw, fun _ => 0x40⟩
/-- CAL_TRIM_CFG.STEP_MAX, R913. -/
def CAL_TRIM_CFG_STEP_MAX : Fld := ⟨2834, 0xB000C, [], (0, 0), 32, 16, 8, .rw, fun _ => 0x40⟩
/-- CAL_TRIM_CFG.KT, R913. -/
def CAL_TRIM_CFG_KT : Fld := ⟨2835, 0xB000C, [], (0, 0), 32, 0, 8, .rw, fun _ => 0x10⟩
/-- CAL_PORT0.TJ_RUN, R913. -/
def CAL_PORT0_TJ_RUN : Fld := ⟨2836, 0xB1000, [(130, 0x20), (2, 0x10)], (0, 0), 32, 16, 16, .ro, fun _ => 0⟩
/-- CAL_PORT0.CTLE, R913. -/
def CAL_PORT0_CTLE : Fld := ⟨2837, 0xB1000, [(130, 0x20), (2, 0x10)], (0, 0), 32, 8, 8, .ro, fun _ => 0⟩
/-- CAL_PORT0.PHASE, R913. -/
def CAL_PORT0_PHASE : Fld := ⟨2838, 0xB1000, [(130, 0x20), (2, 0x10)], (0, 0), 32, 0, 6, .ro, fun _ => 0⟩
/-- CAL_PORT1.TAP6, R913. -/
def CAL_PORT1_TAP6 : Fld := ⟨2839, 0xB1004, [(130, 0x20), (2, 0x10)], (0, 0), 32, 24, 8, .ro, fun _ => 0⟩
/-- CAL_PORT1.TAP5, R913. -/
def CAL_PORT1_TAP5 : Fld := ⟨2840, 0xB1004, [(130, 0x20), (2, 0x10)], (0, 0), 32, 16, 8, .ro, fun _ => 0⟩
/-- CAL_PORT1.TAP4, R913. -/
def CAL_PORT1_TAP4 : Fld := ⟨2841, 0xB1004, [(130, 0x20), (2, 0x10)], (0, 0), 32, 8, 8, .ro, fun _ => 0⟩
/-- CAL_PORT1.TAP3, R913. -/
def CAL_PORT1_TAP3 : Fld := ⟨2842, 0xB1004, [(130, 0x20), (2, 0x10)], (0, 0), 32, 0, 8, .ro, fun _ => 0⟩
/-- CAL_PORT2.TAP2, R913. -/
def CAL_PORT2_TAP2 : Fld := ⟨2843, 0xB1008, [(130, 0x20), (2, 0x10)], (0, 0), 32, 8, 8, .ro, fun _ => 0⟩
/-- CAL_PORT2.TAP1, R913. -/
def CAL_PORT2_TAP1 : Fld := ⟨2844, 0xB1008, [(130, 0x20), (2, 0x10)], (0, 0), 32, 0, 8, .ro, fun _ => 0⟩

/-- The fields of the CAL registers, in the order of their tables. -/
def tableCAL : List Fld :=
  [CAL_CTRL_STORE_EN, CAL_CTRL_RUN_ALL, CAL_CTRL_TRIM_EN, CAL_CTRL_SLICE_EN,
   CAL_CTRL_LINK_EN, CAL_CTRL_EN, CAL_CFG_MAX_H, CAL_CFG_DTEMP_FE,
   CAL_CFG_DTEMP_TJ, CAL_STATUS_PENDING, CAL_STATUS_LINK_RUNNING, CAL_HEAD_VALID,
   CAL_HEAD_TRIM_VALID, CAL_HEAD_TEMP_RUN, CAL_EVT_EVENTS, CAL_SLICE_CFG_FRAMES,
   CAL_SLICE_CFG_GAIN_STEP, CAL_SLICE_CFG_RMS_TGT, CAL_TRIM_CFG_STEP_MAX, CAL_TRIM_CFG_KT,
   CAL_PORT0_TJ_RUN, CAL_PORT0_CTLE, CAL_PORT0_PHASE, CAL_PORT1_TAP6,
   CAL_PORT1_TAP5, CAL_PORT1_TAP4, CAL_PORT1_TAP3, CAL_PORT2_TAP2,
   CAL_PORT2_TAP1]

/-- MSIX_ADDR_LO.ADDR, R604. -/
def MSIX_ADDR_LO_ADDR : Fld := ⟨2304, 0x90000, [(2048, 0x10)], (0, 0), 32, 0, 32, .rw, fun _ => 0⟩
/-- MSIX_ADDR_HI.ADDR, R604. -/
def MSIX_ADDR_HI_ADDR : Fld := ⟨2305, 0x90004, [(2048, 0x10)], (0, 0), 32, 0, 32, .rw, fun _ => 0⟩
/-- MSIX_DATA.DATA, R604. -/
def MSIX_DATA_DATA : Fld := ⟨2306, 0x90008, [(2048, 0x10)], (0, 0), 32, 0, 32, .rw, fun _ => 0⟩
/-- MSIX_VCTRL.MASK, R604. -/
def MSIX_VCTRL_MASK : Fld := ⟨2307, 0x9000C, [(2048, 0x10)], (0, 0), 32, 0, 1, .rw, fun _ => 1⟩
/-- MSIX_PBA.PENDING, R604. -/
def MSIX_PBA_PENDING : Fld := ⟨2308, 0x98000, [(64, 0x4)], (0, 0), 32, 0, 32, .ro, fun _ => 0⟩

/-- The fields of the MSIX registers, in the order of their tables. -/
def tableMSIX : List Fld :=
  [MSIX_ADDR_LO_ADDR, MSIX_ADDR_HI_ADDR, MSIX_DATA_DATA, MSIX_VCTRL_MASK,
   MSIX_PBA_PENDING]

/-- Every register field of the BAR0 map. -/
def table : List Fld :=
  tableGCTL ++ tableTIME ++ tableSTN ++ tableSLC ++ tableLPE ++ tableHD ++ tableSP ++ tableMOT ++ tableLIB ++ tableCASC ++ tableHEP ++ tableCMDQ ++ tableBPM ++ tableDMA ++ tableMEMC ++ tableFLC ++ tableTALLY ++ tablePWR ++ tableEVT ++ tableCAL ++ tableMSIX

end Reg

end Sys2Proof.Machine
end

