-- ==== Sys2Proof/Config.lean ====
section
/-!
DEFINITION. What an implementation fixes and what the manual leaves open. Every constant here is opaque: nothing can
evaluate it, so whatever is proved holds for every value of it. The free values that depend on the moment are applied
to a plain counter of the state.
-/

namespace Sys2Proof.Config

/-- The 64-bit device serial number held in fuses (R45, GCTL_SERIAL). DESIGN CHOICE, assumption 11. -/
opaque serial : BitVec 64

/-- The ordering variant held in fuses: true on a VK8128S-B0, whose tally seal fuse is blown at the factory (R1). DESIGN
CHOICE, assumption 11. -/
opaque orderS : Bool

/-- The device-unique AES-128 key of the tally, held in fuses (R816). DESIGN CHOICE, assumption 11. -/
opaque deviceKey : BitVec 128

/-- The CRC-32 of the tally ROM held in fuses (TALLY_ROM_CRC). DESIGN CHOICE, assumption 11. -/
opaque romCrc : BitVec 32

/-- Bit 63, COMMIT_N, of word 0 of an event entry that is still in the EVT ring: R885 names the bit and no rule says
what it reads before the entry is copied to flash. It is indexed by the entry's SEQ. DESIGN CHOICE, assumption 175. -/
opaque ringCommitN : Nat → Bool

/-- A value the manual leaves open, of 64 bits, for the moment given by the state's free counter. DESIGN CHOICE, assumption 25. -/
opaque freeValue : Nat → BitVec 64

end Sys2Proof.Config
end

