-- ==== Sys2Proof/Machine/Types.lean ====
section
/-!
DEFINITION. The plain data that the state is made of: one structure for each thing the manual names and keeps (a
station's link, a slice, a zone, a command in flight ...), with its value after reset. No function and no operation
stands here.
-/

namespace Sys2Proof.Machine

/-- What a CXL.io memory request carries beside its address (R589, R590, R596): its PASID, Relaxed Ordering, and whether the address is
a translated one. -/
structure HostTag where
  pasid : Option Nat := none
  relaxed : Bool := false
  translated : Bool := false
deriving DecidableEq, Repr

/-- The D2H requests of CXL.cache that the controller issues (R583, R584, R586). -/
inductive CacheReq where
  | rdCurr
  | itoMWr
  | woWrInv
  | clFlush
deriving DecidableEq, Repr

/-- What the controller has put on its pins and links: the observable outputs, newest first in the log. -/
inductive Out where
  | hostWrite (q : HostTag) (addr : Nat) (bytes : List Nat)
  | hostRead (q : HostTag) (addr len : Nat)
  | zeroRead (q : HostTag) (addr : Nat)
  | cacheReq (op : CacheReq) (addr : Nat) (bytes : List Nat)
  | hdmReq (op : CacheReq) (offset : Nat) (bytes : List Nat)
  | msix (vector addr data : Nat)
  | link (stn mtype seq tag : Nat) (blocks : List Nat)
  | block (stn lane word : Nat)
  | ring (port dst mtype seq : Nat) (items : List Nat)
  | ringEcho (port : Nat) (words : List Nat)
  | cfgRetry
  | cfgNormal
  | invalidateDone (itag : Nat)
  | translationReq (pasid : Option Nat) (addr : Nat)
  | cfgData (offset value : Nat)
  | hdmData (offset : Nat) (bytes : List Nat) (poison : Bool)
  | peerData (offset : Nat) (bytes : List Nat) (poison : Bool)
  | peerUnsupported (offset : Nat)
  | smb (bytes : List Nat)
  | smbNack
  | axisSteps (axis : Nat) (dir : Bool) (dirAt high : Nat) (edges : List Nat)
  | pin (name : Nat) (level : Bool)
  | burst (stn side slot row : Nat) (blocks : List Nat)
  | regData (addr : Nat) (bytes : List Nat)
  | coreData (core : Option Nat) (addr : Nat) (bytes : List Nat)
deriving DecidableEq, Repr

/-- An entry of the EVT ring, R885. `data` are its DATA words without the zero words after the last item. -/
structure EvEntry where
  code : Nat
  mode : Nat
  cell : Nat
  coarse : Bool
  seq : Nat
  time : Nat
  data : List Nat
deriving DecidableEq, Repr

/-- An open rate-limit window, R962: its event and instance, the elapsed time at which it ends, the data of its
first occurrence, the number of occurrences, and whether the event's data gives that number. -/
structure Window where
  code : Nat
  inst : Nat
  endAt : Nat
  data : List Nat
  count : Nat
  counted : Bool
deriving DecidableEq, Repr

/-- The event logic: the ring, the 48-bit SEQ counter, the open windows, whether an unmasked entry waits for its
message and when the last message was sent, the last SEQ copied to EVENT_LOG. -/
structure Events where
  ring : List EvEntry := []
  seq : Nat := 0
  windows : List Window := []
  unsent : Bool := false
  lastMsi : Option Nat := none
  copied : Nat := 0
deriving DecidableEq, Repr

/-- The timebase beside its registers: TIME, the coarse counter, and the discipline loop of R56 to R67; the ticks that slews had
removed when the last accepted edge and the candidate were captured, and those of slews that are over; bit 31 of TIME_LOAD as
written (R52); long seeks started by vibration group, and the number of the slot that they count against (R92, R94); when the
servo period in progress began. -/
structure Timebase where
  sec : Nat := 0
  tick : Nat := 0
  cclk : Bool := false
  refClk : Bool := true
  coarsePhase : Nat := 0
  lastAcc : Option Nat := none
  cand : Option Nat := none
  accSlew : Int := 0
  candSlew : Int := 0
  slewSum : Int := 0
  holdFrom : Nat := 0
  freq : Int := 0
  slewErr : Int := 0
  slewStart : Nat := 0
  slewRate : Nat := 20
  stepErrs : List Int := []
  lockRun : Nat := 0
  stepPending : Option (Int × Int) := none
  loadBy : Option (Nat × Nat) := none
  loadQueue : List (Nat × Nat) := []
  reload : Option Nat := none
  loadHi : Bool := false
  powerUp : Nat := 0
  vgActive : List (Nat × Nat) := []
  lastSpin : List (Nat × Nat) := []
  slotStarts : List (Nat × Nat) := []
  slotAt : List (Nat × Nat) := []
  periodAt : Option Nat := none
deriving DecidableEq, Repr

/-- A long seek waiting for a seek slot of its vibration group, R92. -/
structure SeekWait where
  head : Nat
  outward : Bool
deriving DecidableEq, Repr

/-- A mode transition in progress, R857: where it came from and goes to, the cause of MODE_CHANGED, and the MODE_SET
command that asked for it. -/
structure Trans where
  from_ : Nat
  to_ : Nat
  cause : Nat
  by_ : Option (Nat × Nat)
deriving DecidableEq, Repr

/-- The power and mode logic beside its registers; `ownW` is the controller's own power as last measured, in 0.1 W;
`driven` says that firmware has driven the gripper and bolt pins since PORST_N (R942). -/
structure Power where
  trans : Option Trans := none
  resetPend : Option (Nat × Nat) := none
  prevMode : Nat := 3
  run95 : Nat := 0
  run105 : Nat := 0
  coolFrom : Option Nat := none
  overFrom : Option Nat := none
  capRaised : Bool := false
  admits : List (Nat × Nat) := []
  fresh : Nat := 0
  wdogFrom : Nat := 0
  pfAt : Option Nat := none
  pfClear : Option Nat := none
  faultN : Bool := false
  thermTrip : Bool := false
  porst : Bool := false
  coresRun : Bool := true
  kilnFrom : Nat := 3
  dampAfterKiln : Bool := false
  linkGraceFrom : Option Nat := none
  lastWasReset : Bool := false
  ownW : Nat := 0
  driven : Bool := false
deriving DecidableEq, Repr

/-- What a port does once its four periods of SAFE_NOW are over (R159, R160, R968). -/
inductive AfterSafe where
  | stay | retrain | down | disable
deriving DecidableEq, Repr

/-- A message sent on a link and not yet acknowledged: SEQ, the elapsed moment it was sent at, tag and data blocks; for STEP the moment
its first step is due. -/
structure Unacked where
  seq : Nat
  sentAt : Nat
  tag : Nat
  blocks : List Nat
  due : Nat := 0
deriving DecidableEq, Repr

/-- One station's link beside its STN registers (R99 to R178): the engine, batch and retry of its training, what its front end has
declared, its pads and the RAW they follow, the last SENSOR, SAFE_NOW and SAFE_CLEAR still to go out, SEQ counts, the register access
in progress and when its request was sent last, when RAW was measured last, and by lane the numbers of blocks received since each of
the last invalid sync headers (R162). DESIGN CHOICE, assumption 200. -/
structure Stn where
  engine : Bool := false
  batchDone : Bool := false
  inBatch : Bool := false
  dueAt : Nat := 0
  attemptAt : Nat := 0
  ready : Bool := false
  feRev : Nat := 0
  feLat : Nat := 0
  feBuf : Nat := 0
  bootSeen : Bool := false
  padPeriod : Int := 0
  padActuate : Int := 0
  padSensor : Int := 0
  rawHalf : Nat := 0
  sensor : List Nat := []
  stale : Bool := true
  missRun : Nat := 0
  safeNow : Nat := 0
  safeClear : Nat := 0
  afterSafe : AfterSafe := .stay
  lost : Bool := false
  txSeq : List (Nat × Nat) := []
  rxSeq : List (Nat × Nat) := []
  stepUnacked : List Unacked := []
  reg : Option (Nat × Nat × Nat) := none
  regAt : Nat := 0
  regBy : Option (Nat × Nat) := none
  echoAt : Nat := 0
  hdrs : List (Nat × List Nat) := []
  blockWin : Option (Nat × Nat) := none
  health : List Nat := []
  echoes : Nat := 0
deriving DecidableEq, Repr

/-- One frame's soft values in a frame-store entry or a ladder slot: the guide slot; by row the values of its 7,744 channel bits,
none where nothing is stored yet and 0 for an erasure; the rows placed by flywheel, the sync score and offset of the rows
placed (rows are keyed 2 × row, plus 1 for the trail spot), the rows with trail-spot data; the sums of its corrected
samples: lead sum, sum of squares and number, and the same of the trail spot (R900); the outcome of the header stage, once row 0
is complete (R264). -/
structure Soft where
  slot : Nat
  rows : List (Nat × List (Option Int)) := []
  missed : List Nat := []
  scores : List (Nat × Nat) := []
  offs : List (Nat × Int) := []
  trailRows : List Nat := []
  ys : List Int := []
  hdrDone : Bool := false
  hdr : Option (List Nat) := none
deriving DecidableEq, Repr

/-- One row of a written slot as the trail spot read it back: its hard decisions as 121 data blocks, the score of its sync (0 where it
was taken by flywheel) and its offset, whether a sample of it was lost or blank (R271). -/
structure BackRow where
  words : List Nat
  score : Nat
  off : Int
  lost : Bool
deriving DecidableEq, Repr

/-- One encoded frame in a slice's write store (R267), or written and awaiting verify (R271): its zone and INDEX, its
guide slot and band, its 18,271 data blocks of channel bits. `sent` counts the data blocks handed to the link, `wrack` is
the last WRACK event for it, `back` the rows read back; a doomed frame is finished on the medium but its slot is slipped
already (R273); the slot of a dropped one is slipped when its turn to be verified comes (R970); a broken one could not be read from the
write store (R748). -/
structure Enc where
  zone : Nat
  index : Nat
  slot : Nat
  words : List Nat
  mgmt : Bool := false
  layer : Nat := 0
  sent : Nat := 0
  wrack : Option Nat := none
  doomed : Bool := false
  dropped : Bool := false
  broken : Bool := false
  back : List (Nat × BackRow) := []
deriving DecidableEq, Repr

/-- A slice's pass over its turn (R247, R250): none; one that begins where the trail spot comes down after a step; one begun with the trail spot at a position. -/
inductive Pass where
  | off
  | landing
  | begun (at_ : Nat)
deriving DecidableEq, Repr

/-- The sample pairs of a head not yet worked off by its slice: the guide positions of the first pair on the lead and the trail
spot, the corrected samples (none where a spot's was lost), the equaliser outputs formed so far, the next row of each spot,
counted from row 0 of lead-in slot 0, and the place before which nothing of the lead spot is stored. -/
structure Trace where
  lead : Option Nat := none
  trail : Option Nat := none
  xs : List (Option Int × Option Int) := []
  ys : List (Int × Int) := []
  rowL : Nat := 0
  rowT : Nat := 0
  cutL : Nat := 0
deriving DecidableEq, Repr

/-- One slice beside its SLC registers: its head, since when it is idle, the frame store (R261), the write store (R267), frames
written and awaiting verify, the place each spot is expected at next, when the lead spot was there, and the messages lost on each
since, whether the last message touched a slot boundary, whether it waits for an entry, its pass and the pairs in work, frames
decoded since the last commit (R905), WRDATA not acknowledged, the stretches of channel bits sent and not yet under the lead
spot (R134), the zone written, the ACTIVE set put aside while an alternate set is in use (R301). DESIGN CHOICE, assumption 200. -/
structure Slice where
  head : Option Nat := none
  idleFrom : Nat := 0
  store : List Soft := []
  wstore : List Enc := []
  written : List Enc := []
  spotLag : Int := 0
  lagShort : Bool := false
  lastLead : Option Nat := none
  lastTrail : Option Nat := none
  leadAt : Nat := 0
  lostLead : Nat := 0
  lostTrail : Nat := 0
  edge : Bool := false
  pauseReq : Bool := false
  pass : Pass := .off
  trace : Trace := {}
  trimFrames : Nat := 0
  unacked : List Unacked := []
  ahead : List (Nat × Nat) := []
  framesSinceJournal : Nat := 0
  zoneNow : Option Nat := none
  reverify : Bool := false
  rateAt : Nat := 0
  holdAt : Option Nat := none
  busy : Bool := false
  saved : List Nat := []
deriving DecidableEq, Repr

/-- A head waiting for a slice, oldest first (R239). -/
structure HeadWait where
  head : Nat
  since : Nat
  raised : Bool := false
  write : Bool := false
deriving DecidableEq, Repr

/-- The state of a zone, R225. -/
inductive ZState where
  | blank | open_ | closed | short
deriving DecidableEq, Repr

/-- A zone as the catalogue and journal now hold it (R190 to R194, R225): `acc` is the accepted frontier of R652. -/
structure Zone where
  state : ZState := .blank
  slips : List Nat := []
  frames : Nat := 0
  frontier : Nat := 0
  slipRec : Nat := 0
  closeTime : Nat := 0
  acc : Nat := 0
  changed : Bool := false
  listDue : Bool := false
  stopped : Bool := false
  resolve : Bool := false
  closing : Bool := false
  redo : Nat := 0
  jframes : Nat := 0
  jdue : Nat := 0
deriving DecidableEq, Repr

/-- One side of a disc: its management area and identity (R218 to R237). `idxA` and `idxB` are the next
indices of the copies; `force` holds the bytes of the side's latest record, and `missA` and `missB` say that a copy lacks it (R231). -/
structure DiscSide where
  identity : Bool := false
  finalised : Bool := false
  seqNo : Nat := 0
  idxA : Nat := 0
  idxB : Nat := 0
  missA : Bool := false
  missB : Bool := false
  force : List Nat := []
  pca : List (Nat × Nat) := []
deriving DecidableEq, Repr

/-- Where a disc is. -/
inductive DiscLoc where
  | home | picker (m : Nat) | station (n : Nat) | other (cell n : Nat) | lost
deriving DecidableEq, Repr

/-- A disc of the catalogue, under its home slot. -/
structure Disc where
  known : Bool := false
  discId : Nat := 0
  owner : Nat := 0xFFFF
  loc : DiscLoc := .home
  mounted : Bool := false
  a : DiscSide := {}
  b : DiscSide := {}
deriving DecidableEq, Repr

/-- Where a frame held for writing has got to. -/
inductive HeldStage where
  | buffered | encoded | written | stopped
deriving DecidableEq, Repr

/-- A frame of a WRITE held in a device buffer until it is verified (R36, R269, R326). `disc` is the home slot,
`zone` the zone key, `addr` the DRAM address of its 65,536 bytes, `buf` the handle of its buffer; `failed` marks a frame
of a WRITE that a loss of link has ended (R973). -/
structure Held where
  disc : Nat
  zone : Nat
  index : Nat
  addr : Nat
  buf : Nat
  sq : Nat
  tag : Nat
  acct : Nat
  ord : Nat
  stage : HeldStage := .buffered
  present : Bool := false
  tries : Nat := 0
  failed : Bool := false
deriving DecidableEq, Repr

/-- How far a command has come: accepted and waiting, started, or its outcome fixed. DESIGN CHOICE, assumption 120. -/
inductive CmdPhase where
  | waiting | started | fixed
deriving DecidableEq, Repr

/-- One frame that a READ or VERIFY wants: its zone key, INDEX, guide slot, its place in the command, the DRAM
address for its bytes, and what has become of it. -/
inductive FrameFate where
  | wanted | delivered | ladder | bad
deriving DecidableEq, Repr

structure FrameReq where
  zone : Nat
  index : Nat
  slot : Nat
  addr : Nat := 0
  buf : Nat := 0
  fate : FrameFate := .wanted
  moved : Bool := false
deriving DecidableEq, Repr

/-- A command in flight (R638): from its fetch until its completion entry is written. `pkt` is the 64-byte packet,
byte 0 least significant. `launch` is a launch time that is pending; `launchT` that of a launched command whose first mechanical or
media action has not begun, and whether it was past already when the command was launched (R81, R83); `checked` says that its list has been
read and checked, and its buffers asked for, before its launch. -/
structure Cmd where
  sq : Nat
  tag : Nat
  pkt : Nat
  ord : Nat
  grp : Nat := 0
  acct : Nat := 0
  cq : Nat := 0
  prof : Nat := 0x07D00FF9
  phase : CmdPhase := .waiting
  launch : Option Nat := none
  launchT : Option (Nat × Bool) := none
  status : Nat := 0
  resA : Nat := 0
  resB : Nat := 0
  field : Nat := 0
  silent : Bool := false
  aborting : Bool := false
  stn : Option Nat := none
  disc : Option Nat := none
  frames : List FrameReq := []
  sgl : List (Nat × Nat) := []
  bufs : List Nat := []
  done : Nat := 0
  rungMax : Nat := 1
  budgetFrom : Option Nat := none
  budgetOut : Bool := false
  mismatch : Bool := false
  partialData : Bool := false
  stage : Nat := 0
  since : Nat := 0
  ready : Bool := false
  checked : Bool := false
  launched : Bool := false
  lastWrite : Option Nat := none
  origin : Option Nat := none
  away : Option Nat := none
  awaySince : Option Nat := none
deriving DecidableEq, Repr

/-- A completion that waits for room in its queue (R629). -/
structure Entry where
  sq : Nat
  tag : Nat
  status : Nat
  a : Nat
  b : Nat
  field : Nat
deriving DecidableEq, Repr

/-- A submission queue (R619 to R628). -/
structure Sq where
  base : Nat
  log2 : Nat
  cq : Nat
  quota : Nat
  acct : Nat
  head : Nat := 0
  tail : Nat := 0
  deleting : Bool := false
  abortedN : Nat := 0
  stalled : Bool := false
deriving DecidableEq, Repr

/-- A completion queue: `head` is the consumed head, `pass` the PHASE being written. -/
structure Cq where
  base : Nat
  log2 : Nat
  vector : Nat
  ien : Bool
  head : Nat := 0
  tail : Nat := 0
  phase : Bool := true
  waiting : List Entry := []
  fullFrom : Option Nat := none
  msiDue : Bool := false
deriving DecidableEq, Repr

/-- A queue group's attributes, R622. -/
structure Grp where
  en : Bool := false
  priv : Bool := false
  pasidEn : Bool := false
  pasid : Nat := 0
  inflight : Nat := 4096
deriving DecidableEq, Repr

/-- One copy of a frame's soft values in a ladder slot: the codewords that failed when it was decoded, its age, the row
shifts rung 3 kept for it. -/
structure Copy where
  soft : Soft
  failing : Nat := 0
  age : Nat := 0
  shifts : List (Nat × Int) := []
deriving DecidableEq, Repr

/-- A command that takes a ladder's outcome: queue, tag, and the frame's number in the command. -/
structure Sharer where
  sq : Nat
  tag : Nat
  idx : Nat
deriving DecidableEq, Repr

/-- A frame in the recovery ladder (R285 to R320): its slice, head, guide slot, zone and INDEX; the commands that want
it, the one whose profile is in force first; the rung it is at, whether that rung has started and how many re-reads of
it have begun; the read in progress, and the one waiting to be decoded with its rung; its ladder slot and copies; the codewords
failing after the last decode, the shares of its rows in the unsatisfied checks after rung 2; the bank of codewords that reached
a zero syndrome (none where two attempts disagreed); the best attempt at each codeword (number, unsatisfied checks,
information bits); the accepted header; whether its re-reads have begun, and whether rung 7 was skipped. -/
structure Ladder where
  slice : Nat
  head : Nat
  slot : Nat
  zone : Nat
  index : Nat
  users : List Sharer
  rung : Nat := 2
  started : Bool := false
  tries : Nat := 0
  fresh : Option Soft := none
  ready : Option (Nat × Soft) := none
  rereading : Bool := false
  deepest : Nat := 1
  pool : Option Nat := none
  copies : List Copy := []
  soft : Soft
  failing : List Nat := []
  shares : List (Nat × Nat) := []
  bank : List (Nat × Option Nat) := []
  best : List (Nat × Nat × Nat) := []
  hdr : Option (List Nat) := none
  skipped7 : Bool := false
deriving DecidableEq, Repr

/-- An entry of the READ_DAMAGE log (R334), and whether a GET_LOG has returned it. -/
structure Damage where
  aaddr : Nat
  sq : Nat
  tag : Nat
  mask : Nat
  rung : Nat
  flags : Nat
  time : Nat
  pfa : Nat
  seq : Nat
  got : Bool := false
deriving DecidableEq, Repr

/-- An allocated buffer of a pool (R691 to R707): its last owner, its readers, and, for a buffer of a copy command that
carries no handle, the fetch number of that command. `gone` marks a buffer to be released when its hold ends (R707). -/
structure Buf where
  owner : Nat
  readers : List Nat := []
  copyOf : Option Nat := none
  gone : Bool := false
deriving DecidableEq, Repr

/-- A pool of buffers: the next index that has never been taken since EN was set, and the buffers freed since, the one
freed longest ago first (R694). -/
structure Pool where
  fresh : Nat := 0
  freed : List Nat := []
deriving DecidableEq, Repr

/-- A copy command waiting for a further buffer (R698, R700). -/
structure CopyWait where
  sq : Nat
  tag : Nat
  ord : Nat
deriving DecidableEq, Repr

/-- A DMA engine: the channels started and waiting, the channel running, the address of its descriptor, the retries
used and when the next one is due (R710, R719). -/
structure Engine where
  queue : List Nat := []
  running : Option Nat := none
  desc : Nat := 0
  retries : Nat := 0
  retryAt : Option Nat := none
deriving DecidableEq, Repr

/-- What a channel of the sequencer moves: the command (by fetch number) and the frame of it, or its list. -/
structure ChanJob where
  sq : Nat
  tag : Nat
  ord : Nat
  idx : Nat
  buf : Nat
deriving DecidableEq, Repr

/-- A journal record that is due and not yet programmed (R800 to R804): its words where the manual gives their layout, else its
type and what it carries; the zone it speaks of. DESIGN CHOICE, assumption 37. -/
structure JItem where
  words : List Nat
  zone : Option Nat := none
  frames : Nat := 0
  at_ : Option Nat := none
  type : Nat := 0
  info : List Nat := []
  reply : Option Nat := none
deriving DecidableEq, Repr

/-- A management frame due on a copy of a side (R218 to R237): type, SEQUENCE and bytes of its record, and the index at which it was
last encoded. -/
structure Mgmt where
  disc : Nat
  side : Nat
  copy : Nat
  idx : Option Nat := none
  type : Nat
  seqNo : Nat
  body : List Nat
deriving DecidableEq, Repr

/-! ### The loop engine, the head and spindle sequencers, the motion engine and the library -/

/-- What a sequencer substitutes for a loop's output (R382): one value; a linear ramp from a value at an elapsed time to
another over a span; for a jump, a value that moves one step in each of n periods from an elapsed time on; for the relay, a value that
moves toward another by a rate in each ÷4 period. -/
inductive Gate where
  | hold (v : Int)
  | ramp (a b : Int) (start dur : Nat)
  | stair (base step : Int) (n start : Nat)
  | toward (a b : Int) (rate start : Nat)
deriving DecidableEq, Repr

/-- The observer and current loops of an FOC slot (R432): angle, speed, current and back-EMF estimates and the two integrators in
s7.40, the voltage vector of the last run in the path format, the speeds published last, newest first. DESIGN CHOICE, assumption
200. -/
structure Foc where
  th : Int := 0
  w : Int := 0
  ia : Int := 0
  ib : Int := 0
  ea : Int := 0
  eb : Int := 0
  va : Int := 0
  vb : Int := 0
  intD : Int := 0
  intQ : Int := 0
  ws : List Int := []
deriving DecidableEq, Repr

/-- One loop slot beside its registers: the section states, integrator and previous output in s7.40, the signals published with
the period of each publication (newest first), the elapsed time from which it is due, a stale action in force, a swap that waits
(mode, earliest elapsed time), the observer. DESIGN CHOICE, assumption 200. -/
structure LSlot where
  s1 : List Int := []
  s2 : List Int := []
  i : Int := 0
  y : Int := 0
  pubs : List (Nat × List Int) := []
  dueAt : Nat := 0
  acting : Bool := false
  swap : Option (Nat × Nat) := none
  foc : Foc := {}
deriving DecidableEq, Repr

/-- The loop engine beside its registers: the copy of the parameters (R370), the words its slots wrote in the period
`ranAt`, the values of words 16 to 19 written last and those written since the last period with k mod 4 = 3 (R343), the
values last sent, the gates by word, the spindle sequencers' gates and forced angles by station, and the safe program:
when it began, the values sent before it, whether it is done; the start of the period in which each lane ran last. -/
structure Loop where
  slots : List (Nat × LSlot) := []
  prm : List (Nat × Nat) := []
  ran : List (Nat × Int) := []
  ranAt : Nat := 0
  duty : List (Nat × Int) := []
  dutyNew : List Nat := []
  sent : List (Nat × Int) := []
  gates : List (Nat × Gate) := []
  speedGates : List (Nat × Int) := []
  forced : List (Nat × Int) := []
  safeFrom : Option Nat := none
  safeBase : List (Nat × Int) := []
  safeDone : Bool := false
  coast : List Nat := []
  lanes : List (Nat × Nat) := []
deriving DecidableEq, Repr

/-- An operation of a head sequencer: 1 ACQUIRE, 2 SEEK, 3 LAYER, 4 PARK, 5 OPC, 6 recovery; its slot, band and layer;
whether firmware asked for it through STN_HD_CMD; the command it serves; whether it returns to a slot of the ladder. -/
structure HReq where
  kind : Nat
  slot : Nat := 0
  leadin : Bool := false
  layer : Nat := 0
  firmware : Bool := false
  cmd : Option (Nat × Nat) := none
  reread : Bool := false
  failed : Bool := false
deriving DecidableEq, Repr

/-- Counts of consecutive periods or ÷4 runs for the conditions of R393, R403, R405 and R412. -/
structure Watch where
  focIn : Nat := 0
  trkIn : Nat := 0
  relIn : Nat := 0
  pwrIn : Nat := 0
  sumLow : Nat := 0
  teOut : Nat := 0
  relOut : Nat := 0
  pwrOut : Nat := 0
  limR : Nat := 0
  limW : Nat := 0
  freeR : Nat := 0
  freeW : Nat := 0
  sumMax : Int := 0
  addrBad : Bool := false
  clkBad : Bool := false
  shownR : Bool := false
  shownW : Bool := false
deriving DecidableEq, Repr

/-- Where a write power calibration stands (R217, R408, R409): reading the rows of the burst first, writing it, reading it back. -/
inductive OpcStage where
  | check
  | write
  | back
deriving DecidableEq, Repr

/-- A write power calibration under way: its stage and burst; the rows read; the row now under the lead spot, counted in the burst;
by row the sum and number of write power monitor values; the write power slot's last output before it; the burst could not be
written. -/
structure Opc where
  stage : OpcStage := .check
  burst : Nat := 0
  rows : List (Nat × BackRow) := []
  cur : Option Nat := none
  pow : List (Nat × Int × Nat) := []
  base : Int := 0
  lost : Bool := false
deriving DecidableEq, Repr

/-- One head beside its STN_HD registers. `pos` is the trail spot's place in channel bits from BIT 0 of lead-in slot 0 at the moment
`posAt`. DESIGN CHOICE, assumption 200. -/
structure Head where
  op : Option HReq := none
  waiting : List HReq := []
  again : Option HReq := none
  stage : Nat := 0
  tries : Nat := 0
  seekTries : Nat := 0
  stageAt : Nat := 0
  dueAt : Nat := 0
  longMoves : Nat := 0
  jump : Int := 0
  pos : Nat := 0
  posAt : Nat := 0
  readOn : Bool := false
  parkCause : Nat := 0
  cause : Nat := 0
  recoverAt : Nat := 0
  watch : Watch := {}
  lastOpc : List (Nat × Int) := []
  opcTries : Nat := 0
  opc : Opc := {}
  needOpc : Bool := false
  step : Option (Bool × Nat) := none
  stepAsk : Option Bool := none
  opcBad : List Nat := []
  pfPark : Bool := false
deriving DecidableEq, Repr

/-- A back-EMF measurement (R453): its sign and speed in rpm, its electrical angle in s7.40, its vector in VNOM units. -/
structure Meas where
  rpm : Int := 0
  th : Int := 0
  ea : Int := 0
  eb : Int := 0
deriving DecidableEq, Repr

/-- One spindle beside its STN_SP registers: when its state was entered, the back-EMF vectors of the last ÷4 runs (newest first),
the last valid measurement, the forced angle and speed, runs with the residual below and above RES_TRIP, runs of RAMP that meet
the handover condition, when the last commutation event fell and its sector, when the speed entered the band of R446 and the set
point then, phase-lock runs, when the start began, the observer losses of the last minute; the configuration in force by field
(R483), the current ALIGN rises to, the fraction of a speed step left over, whether the residual reached RES_TRIP in CATCH, when the
bridge opens after a loss, and in pulsed short braking the sign of phase A's current, its last zero crossing and the span before it.
DESIGN CHOICE, assumption 200. -/
structure Spin where
  stateAt : Nat := 0
  bemf : List (Int × Int) := []
  lowFrom : Option Nat := none
  meas : Option Meas := none
  alignReady : Bool := false
  thF : Int := 0
  spF : Nat := 0
  topAt : Option Nat := none
  resLow : Nat := 0
  resHigh : Nat := 0
  handRuns : Nat := 0
  sector : Int := 0
  commAt : Nat := 0
  bandFrom : Option Nat := none
  bandSp : Nat := 0
  phaseRuns : Nat := 0
  phiBad : Bool := false
  startAt : Nat := 0
  firstSpeed : Bool := false
  losses : List Nat := []
  brakeAt : Nat := 0
  tracked : Bool := false
  stopCause : Nat := 0
  lossCatch : Bool := false
  retryAt : Option Nat := none
  cfg : List (Nat × Nat) := []
  alignTo : Int := 0
  slewAcc : Nat := 0
  catchBad : Bool := false
  openAt : Nat := 0
  zcNeg : Bool := false
  zcAt : Nat := 0
  zcSpan : Nat := 0
deriving DecidableEq, Repr

/-- A deceleration that replaces the rest of a plan of `n0` steps (R493, R499): it begins after step `m`, `tm` units of 4 cycles from
the start, and goes from speed `v` down to `low` at `dec`. -/
structure Brake where
  n0 : Nat
  m : Nat
  tm : Nat
  v : Nat
  low : Nat
  dec : Nat
deriving DecidableEq, Repr

/-- A planned move (R486): where it starts and ends, its elapsed start once admitted, the profile's figures in force,
the next step to be sent, the rounded time of the step before it in units of 4 cycles; the deceleration that has replaced its rest;
the cycles by which AXn_DIR is set before the start. -/
structure Plan where
  a : Int
  b : Int
  at_ : Option Nat := none
  profile : Nat := 0
  v : Nat := 0
  acc : Nat := 0
  jerk : Nat := 0
  s : Nat := 0
  next : Nat := 1
  prev : Nat := 0
  head : Bool := false
  homing : Nat := 0
  cut : Option Brake := none
  lead : Nat := 0
deriving DecidableEq, Repr

/-- A move or a homing run that waits for KILN to end (R528): a target, with who asked, or a homing run, with the target after it. -/
inductive HeldMove where
  | move (t : Int) (byHead : Bool)
  | home (after : Option Int)
deriving DecidableEq, Repr

/-- One axis beside its MOT registers: its plan, its present speed and demand in 2^-10 µsteps/s, the microstep phase, the moments at
which the entries that its front end holds fall due, a move that waits for KILN to end. DESIGN CHOICE, assumption 200. -/
structure Axis where
  plan : Option Plan := none
  speed : Int := 0
  demand : Int := 0
  accel : Int := 0
  phase : Nat := 0
  after : Option Int := none
  flt : Bool := false
  queued : List Nat := []
  held : Option HeldMove := none
deriving DecidableEq, Repr

/-- A unit of calibration (R893): whether a run is pending, in progress, or due again after the one in progress; the
temperatures at its last completed run and when that was; the staging set; frames collected and the sums of the corrected
samples and of their squares, lead and trail, with their number; the values that its last run put in force; whether its port has
reached ACTIVE, or its head READY after a mount, since a run became pending for it. -/
structure CalUnit where
  pending : Bool := false
  running : Bool := false
  again : Bool := false
  tempA : Option Int := none
  tempB : Option Int := none
  doneAt : Option Nat := none
  staged : List Nat := []
  frames : Nat := 0
  sums : List Int := []
  count : Nat := 0
  storedAt : Option Nat := none
  value : List Nat := []
  armed : Bool := false
deriving DecidableEq, Repr

/-- A transfer (R518): the command it serves, the disc (home key), where from and to (LOC and cell), its picker and the
step it is at, since when it waits, its span, what is done at its end, the locations of other cells whose table entries are still to come
(R560); LIB_POSN and the table entries of the source and the destination as they stood at its start (R532). -/
structure Transfer where
  id : Nat
  cmd : Option (Nat × Nat) := none
  disc : Nat
  src : Nat
  srcCell : Nat := 0
  dst : Nat
  dstCell : Nat := 0
  picker : Option Nat := none
  step : Nat := 0
  since : Nat := 0
  blocked : Bool := false
  back : Bool := false
  lo : Int := 0
  hi : Int := 0
  kind : Nat := 0
  locsDue : List Nat := []
  ackDue : Bool := false
  posns : List Int := []
  srcE : Nat := 0
  dstE : Nat := 0
deriving DecidableEq, Repr

/-- The library controller beside its registers; `forced`: the door was opened while it was bolted (R517). -/
structure Lib where
  transfers : List Transfer := []
  records : List Transfer := []
  nextId : Nat := 0
  hold : Bool := false
  heldFrom : Nat := 0
  lockOut : Bool := false
  opening : Bool := false
  invDue : Bool := false
  inv : Option (Nat × Nat × Option (Nat × Nat)) := none
  forced : Bool := false
  failed : List Nat := []
  farLocs : List (Nat × Nat) := []
  guests : List Nat := []
deriving DecidableEq, Repr

/-! ### The stack -/

/-- A ring message not yet acknowledged (R541): its destination, type, SEQ and items, and when it was sent (none while it
waits for room among the 128). -/
structure RingMsg where
  dst : Nat
  mtype : Nat
  seq : Nat
  items : List Nat
  sentAt : Option Nat
deriving DecidableEq, Repr

/-- A record held for another home cell (R556). -/
structure Proxy where
  cell : Nat
  word : Nat
  sent : Bool := false
deriving DecidableEq, Repr

/-- The stack beside its registers (R533 to R567): members' serial numbers and when each was last heard (by cell), the table
version, when the last ANNOUNCE went out or came in and from whom, SEQ counts by peer, messages unacknowledged, the hops
of each port's SYNC, the last accepted SYNC's ORIGIN and the elapsed moment it stood for, proxy records, cached
locations by disc, locations still to be delivered, when each cell was lost, discs of this cell that the master is moving, the
cells that asked for a disc's location, when RAW of each port was last measured. -/
structure Stack where
  serials : List (Nat × Nat) := []
  heard : List (Nat × Nat) := []
  version : Nat := 0
  announceAt : Nat := 0
  masters : List (Nat × Nat) := []
  tx : List (Nat × Nat) := []
  rx : List (Nat × Nat) := []
  unacked : List RingMsg := []
  syncHops : List (Nat × Nat) := []
  origin : Option Nat := none
  originAt : Nat := 0
  proxies : List Proxy := []
  cache : List (Nat × Nat × Nat) := []
  lateLocs : List (Nat × Nat) := []
  lostAt : List (Nat × Nat) := []
  farMoving : List Nat := []
  masterLost : Bool := false
  askers : List (Nat × Nat) := []
  rawAt : List (Nat × Nat) := []
deriving DecidableEq, Repr

/-! ### The host endpoint -/

/-- An entry of the ATC (R591): PASID, untranslated address and size, translated address, the accesses allowed, when it was
last used. -/
structure Atc where
  pasid : Option Nat
  addr : Nat
  size : Nat
  trans : Nat
  rd : Bool
  wr : Bool
  used : Nat
deriving DecidableEq, Repr

/-- The host endpoint beside its registers: the ATC, translation requests not answered (PASID and address), those that wait for an entry
that is not pinned (PASID, address, length; R591), the pages of HDM
in host bias (R582), the offset of READ_REG, what configuration space enables for MSI-X, and whether the last commit of HDM
decoder 0 failed; the shadows that a commit of peer windows in progress has taken (window, target, configuration); the addresses that
configuration software has written to the 64-bit BARs. -/
structure Hep where
  atc : List Atc := []
  asked : List (Option Nat × Nat) := []
  xlatWait : List (Option Nat × Nat × Nat) := []
  hostPages : List Nat := []
  smbOffset : Nat := 0
  msixEn : Bool := false
  fnMask : Bool := false
  committed : Bool := false
  notCommitted : Bool := false
  taken : List (Nat × Nat × Nat) := []
  bar0 : Nat := 0
  bar2 : Nat := 0
  mps : Nat := 0
  mrrs : Nat := 2
deriving DecidableEq, Repr

/-! ### Device memory and the system cache -/

/-- An entry of the merging buffer (R753): its line, the bytes valid as a mask, when it was last written. Memory as read
holds its bytes already (R754). -/
structure Merge where
  line : Nat
  mask : Nat
  at_ : Nat
deriving DecidableEq, Repr

/-- A valid line of the system cache: its line number, way, whether LOAD_LOCK put it there (R759, R763), and the 64 bytes the cache
holds of it, which DRAM need not hold any more (R755). -/
structure CLine where
  line : Nat
  way : Nat
  locked : Bool
  data : List Nat
deriving DecidableEq, Repr

/-- The memory system beside its registers: lines that are uncorrectable or poisoned with their first failing codeword, lines
with one corrupted symbol and its codeword, the merging buffer, the cache's lines, how far the zero fill has come and when training ended, corrections and
uncorrectable lines of the scrub pass, corrections by device in the hour they fell in, devices reported in it, the
moment from which DRAM_UE is counted and how often it was raised since, the last access, whether the maintenance operation in
progress skipped lines, the tree of each set's use as 15 bits (R757), the cores that have taken a memory-error trap and not yet
completed an instruction of its handler (R750). -/
structure MemSys where
  ue : List (Nat × Nat) := []
  ce : List (Nat × Nat) := []
  merge : List Merge := []
  lines : List CLine := []
  trainedAt : Option Nat := none
  passCe : Nat := 0
  passUe : Nat := 0
  hour : Nat := 0
  devCe : List (Nat × Nat) := []
  suspects : List Nat := []
  ueFrom : Nat := 0
  ueRaised : Nat := 0
  accessAt : Nat := 0
  skipped : Bool := false
  plru : List (Nat × Nat) := []
  trapped : List Nat := []
deriving DecidableEq, Repr

/-! ### The flash array -/

/-- A word of the array that is not erased (R772): data, check slots A and B, their flags. The manual does not give the check byte
of the (72,64) code as a function of the data, so a slot is held as the data its byte was computed over; an unwritten slot holds
what an erased word's would. DESIGN CHOICE, assumption 152. -/
structure FWord where
  data : Nat
  a : Nat := 2 ^ 64 - 1
  b : Nat := 2 ^ 64 - 1
  pa : Bool := false
  pb : Bool := false
deriving DecidableEq, Repr

/-- A word program in progress: the word's index, the value, whether it goes on past an erase that it suspended. -/
structure Prog where
  word : Nat
  value : Nat
  resume : Bool := false
deriving DecidableEq, Repr

/-- An erase in progress or suspended (R783): its sector, the kind and SEQ of its log entry and where that lies, when step
1 ended, whether it is suspended, whether ERASE_PENDING_LONG has been raised. -/
structure Erase where
  sector : Nat
  kind : Nat
  seq : Nat
  entry : Nat
  from_ : Nat
  suspended : Bool := false
  warned : Bool := false
deriving DecidableEq, Repr

/-- The flash array and its controller beside the registers. `words` holds the words that are not erased, by word index; `ruined`
the sectors that SPARES_EXHAUSTED left unusable. `notes` keeps, by the index of its first word, what a committed multi-word record
whose layout the manual does not give carries: its TYPE and items. DESIGN CHOICE, assumption 12. -/
structure Flash where
  words : List (Nat × FWord) := []
  prog : Option Prog := none
  erase : Option Erase := none
  ruined : List Nat := []
  notes : List (Nat × Nat × List Nat) := []
  pfRecords : Nat := 0
  pfDue : Bool := false
  replayed : Bool := false
deriving DecidableEq, Repr

/-! ### The tally -/

/-- A closing slot (R825): START_SEC, END_SEC, intervals merged, the flags of R827 as bits 28 to 20 less 20, the four counts,
SEALED of the last interval merged; whether power failure closed it; whether it was held over for lack of room. -/
structure Closing where
  start : Nat
  end_ : Nat
  minutes : Nat
  flags : Nat
  counts : List Nat
  cell : Nat
  isSealed : Bool
  pf : Bool := false
  carried : Bool := false
deriving DecidableEq, Repr

/-- A record due that is not a MINUTE record: its TYPE, START_SEC, END_SEC, cell, SEALED, and its body of 24 bytes. -/
structure TRec where
  type : Nat
  start : Nat
  end_ : Nat
  cell : Nat
  isSealed : Bool
  body : List Nat
deriving DecidableEq, Repr

/-- The tally beside its window: tap events not yet taken, each with account, counter, amount and elapsed moment; open counts by account;
conditions of R827 that held in the open interval; accounts with test counts, and with a saturated counter; closing slots
by account; other records due; the commands waiting for an ACK record, with their UP_TO; the moment PWRFAIL_N committed it
to a close, whether that close has come, when its interval opened and how many of its records are written; since when
TALLY_SEAL_REQ is high in VERIFY; the linear count of the next minute boundary; slots abandoned. -/
structure Tally where
  taps : List (Nat × Nat × Nat × Nat) := []
  open_ : List (Nat × List Nat) := []
  flags : Nat := 0
  tests : List Nat := []
  saturated : List Nat := []
  closing : List (Nat × Closing) := []
  due : List TRec := []
  acks : List (Nat × Nat × Nat) := []
  pfAt : Option Nat := none
  pfClosed : Bool := false
  pfCount : Nat := 0
  sealFrom : Option Nat := none
  next : Nat := 60 * 1500000000
  abandoned : List Nat := []
deriving DecidableEq, Repr

/-! ### Firmware -/

/-- The download session and activation (R917 to R932): blocks of 4 KiB written, sectors erased; the activation's
command; HANDOFF and VERSION of the running image; when KILN was entered and the trial started, when R931 began to hold,
when the reset of R927 is due. -/
structure Firm where
  booting : Bool := true
  session : Option (List Nat) := none
  erased : List Nat := []
  activate : Option (Nat × Nat) := none
  handoff : Nat := 0
  version : Nat := 0
  kilnAt : Option Nat := none
  trialAt : Option Nat := none
  healthFrom : Option Nat := none
  resetAt : Option Nat := none
  logged : Bool := false
  ranLoops : Bool := false
deriving DecidableEq, Repr

end Sys2Proof.Machine
end

