-- ==== Sys2Proof/Machine/State.lean ====
section
/-!
DEFINITION. The state of the controller: its registers, everything else the manual gives it, the queue of commands
that wait, and its value after reset. Plain data only.
-/

namespace Sys2Proof.Machine

/-- The state. `pending` is the queue of commands, first in first out. `now` counts elapsed CCLK cycles (R962).
`regs` holds the register fields that have been written, by key. `out` is what has been sent, newest first. `free`
counts the free values drawn. Sparse maps hold what exists per station, slice, head, zone, disc, queue ... -/
structure State where
  pending : List Instr := []
  now : Nat := 0
  regs : List (Nat × Nat) := []
  out : List Out := []
  free : Nat := 0
  ev : Events := {}
  tb : Timebase := {}
  pw : Power := {}
  sealed : Bool := Config.orderS
  stns : List (Nat × Stn) := []
  seekQ : List SeekWait := []
  slices : List (Nat × Slice) := []
  headWait : List HeadWait := []
  discs : List (Nat × Disc) := []
  zones : List (Nat × Zone) := []
  held : List Held := []
  cmds : List Cmd := []
  cmdSeq : Nat := 0
  sqs : List (Nat × Sq) := []
  cqs : List (Nat × Cq) := []
  grps : List (Nat × Grp) := []
  profs : List (Nat × Nat) := []
  rrGroup : Nat := 1023
  rrQueue : List (Nat × Nat) := []
  rrLeft : Nat := 0
  ladders : List Ladder := []
  ladderWait : List (Nat × Nat) := []
  damage : List Damage := []
  damageSeq : Nat := 0
  mem : List Host.Cell := []
  bufs : List (Nat × Buf) := []
  gens : List (Nat × Nat) := []
  pools : List (Nat × Pool) := []
  copyWait : List CopyWait := []
  engines : List (Nat × Engine) := []
  chanJobs : List (Nat × ChanJob) := []
  jq : List JItem := []
  mgmtQ : List Mgmt := []
  loop : Loop := {}
  heads : List (Nat × Head) := []
  spins : List (Nat × Spin) := []
  axes : List (Nat × Axis) := []
  lib : Lib := {}
  cals : List (Nat × CalUnit) := []
  stack : Stack := {}
  hep : Hep := {}
  ms : MemSys := {}
  flash : Flash := {}
  tally : Tally := {}
  firm : Firm := {}
deriving DecidableEq, Repr

/-- The controller right after the deassertion of PORST_N: every register at its reset value, the always-on domain running with
TIME 0 in FREE, the mode KINDLING, no command waiting. DESIGN CHOICE, assumptions 8, 12, 200. PRESUMED, assumption 13. -/
def State.reset : State := {}

/-- Why the machine stops: it has no reason to. Every rule that names an error gives its effect (a status, an event, a
refused access), so no command raises a fault. Safe. -/
inductive Fault where
deriving DecidableEq, Repr

/-- Why a command is turned away: it has no meaning yet. No command of this model is. -/
inductive Refusal where
  /-- Raised by the dispatcher for a command that has no meaning yet. Safe. -/
  | notModelled (mnemonic : String)
deriving DecidableEq, Repr

end Sys2Proof.Machine
end

