-- ==== Sys2Proof/Machine/Ops.lean ====
section
/-!
DEFINITION. The named operations over the state that every meaning is built from: register fields, time, outputs,
events and their windows, device memory, commands in flight and their outcomes.
-/

namespace Sys2Proof.Machine

/-- The outcome of a step of this machine. -/
abbrev Res := Host.Outcome State Fault Refusal

/-! ### Register fields -/

/-- The value of a field's instance. -/
def State.rd (s : State) (f : Fld) (i : Nat) : Nat := mget (f.rst i) s.regs (f.key i)

/-- The state with a field's instance holding a value, cut to the field's width. -/
def State.wr (s : State) (f : Fld) (i v : Nat) : State := { s with regs := mput s.regs (f.key i) (v % 2 ^ f.w) }

/-- A field read as a truth value. -/
def State.flag (s : State) (f : Fld) (i : Nat) : Bool := s.rd f i != 0

/-- The state with a field set to 1. -/
def State.set1 (s : State) (f : Fld) (i : Nat) : State := s.wr f i 1

/-- The state with a field set to 0. -/
def State.clr (s : State) (f : Fld) (i : Nat) : State := s.wr f i 0

/-- The state with a truth value in a field. -/
def State.wrB (s : State) (f : Fld) (i : Nat) (b : Bool) : State := s.wr f i (if b then 1 else 0)

/-- A count grown by n that stays at its largest value. -/
def State.bump (s : State) (f : Fld) (i n : Nat) : State := s.wr f i (min (2 ^ f.w - 1) (s.rd f i + n))

/-- The state with further bits of a field set. -/
def State.orBits (s : State) (f : Fld) (i m : Nat) : State := s.wr f i (s.rd f i ||| m)

/-- A field read as two's complement. -/
def State.rdS (s : State) (f : Fld) (i : Nat) : Int := signed f.w (s.rd f i)

/-- The state with an integer in a field, as two's complement. -/
def State.wrS (s : State) (f : Fld) (i : Nat) (v : Int) : State := s.wr f i (unsignedOf f.w v)

/-- A field whose value 0 acts as 1. -/
def State.rd1 (s : State) (f : Fld) (i : Nat) : Nat := max 1 (s.rd f i)

/-! ### Time (R49 to R55) -/

/-- CCLK cycles in a second. -/
def hz : Nat := 1500000000

/-- Cycles in a millisecond. -/
def msCycles : Nat := 1500000

/-- The linear count T. -/
def State.lin (s : State) : Nat := hz * s.tb.sec + s.tb.tick

/-- T runs modulo this (R51). -/
def linMod : Nat := 2 ^ 32 * hz

/-- The state with TIME set from a linear count. -/
def State.setLin (s : State) (t : Nat) : State :=
  { s with tb := { s.tb with sec := (t / hz) % 2 ^ 32, tick := t % hz } }

/-- The state with TIME moved by a signed number of ticks, elapsed time unchanged. -/
def State.moveTime (s : State) (d : Int) : State := s.setLin (((s.lin : Int) + d) % (linMod : Int)).toNat

/-- TIME in its 64-bit format, R49. -/
def timeFormat (t : Nat) : Nat := 2 ^ 32 * (t / hz % 2 ^ 32) + t % hz

/-- TIME now in its 64-bit format. -/
def State.time (s : State) : Nat := 2 ^ 32 * s.tb.sec + s.tb.tick

/-- A 64-bit TIME value is valid, R52. -/
def timeValid (v : Nat) : Bool := v % 2 ^ 32 < hz

/-- The linear count of a valid TIME value. -/
def linOf (v : Nat) : Nat := hz * (v / 2 ^ 32 % 2 ^ 32) + v % 2 ^ 32

/-- n elapsed cycles: TIME advances by n, R50. DESIGN CHOICE, assumption 2. -/
def State.advance (s : State) (n : Nat) : State := { s.setLin (s.lin + n) with now := s.now + n }

/-- Time moved on to an elapsed moment; a moment already past changes nothing. DESIGN CHOICE, assumption 2. -/
def State.advanceTo (s : State) (t : Nat) : State := s.advance (t - s.now)

/-- Time moved on to the next T that is a multiple of m, strictly later. DESIGN CHOICE, assumption 2. -/
def State.advanceMod (s : State) (m : Nat) : State := s.advance (m - s.lin % m)

/-- Time moved on to a phase of the servo period, R76: this period's when it is still to come, else the next's. -/
def State.advancePhase (s : State) (p : Nat) : State := s.advance ((p + 5000 - s.lin % 5000) % 5000)

/-- The number k of the servo period, R76. -/
def State.period (s : State) : Nat := s.lin / 5000

/-- The ticks that n AOCLK cycles add from a phase: 45,776 each and one more on 47 of every 128. DESIGN CHOICE, assumption 17. -/
def coarseTicks (phase n : Nat) : Nat := 45776 * n + ((phase + n) * 47 / 128 - phase * 47 / 128)

/-- n AOCLK cycles on the coarse counter. -/
def State.coarse (s : State) (n : Nat) : State :=
  let s1 := s.advance (coarseTicks s.tb.coarsePhase n)
  { s1 with tb := { s1.tb with coarsePhase := (s.tb.coarsePhase + n) % 128 } }

/-- The signed difference of two linear counts, R971. DESIGN CHOICE, assumption 26. -/
def timeDiff (l t : Nat) : Int :=
  let d := ((l : Int) - (t : Int)) % (linMod : Int)
  if d < 2 ^ 31 * (hz : Int) then d else d - (linMod : Int)

/-! ### Outputs and free values -/

/-- The state with an output sent. DESIGN CHOICE, assumption 5. -/
def State.emit (s : State) (o : Out) : State := { s with out := o :: s.out }

/-- A free value of w bits and the state after it is drawn. DESIGN CHOICE, assumptions 24, 25, 41. -/
def State.draw (s : State) (w : Nat) : Nat × State :=
  ((Config.freeValue s.free).toNat % 2 ^ w, { s with free := s.free + 1 })

/-- A quotient kept in fewer bits where the manual names no rounding: exact where it divides, else the integer below or above it,
by a free bit. DESIGN CHOICE, assumption 24. -/
def State.kept (s : State) (num : Int) (den : Nat) : Int × State :=
  if num % (den : Int) = 0 then (num / (den : Int), s)
  else let (b, s1) := s.draw 1; (num / (den : Int) + (b : Int), s1)

/-! ### Modes (R854) -/

def mBanked : Nat := 0
def mEmber : Nat := 1
def mKindling : Nat := 2
def mBurn : Nat := 3
def mDamped : Nat := 4
def mKiln : Nat := 5
def mCinder : Nat := 6
def mVerify : Nat := 7

/-- The mode in force. -/
def State.mode (s : State) : Nat := s.rd Reg.GCTL_STATUS_MODE 0

/-- The cell's own number. -/
def State.cell (s : State) : Nat := s.rd Reg.GCTL_CELL_CELL_NUM 0

/-! ### Events (R885 to R892, R972) -/

/-- An item of two words, less significant half first. -/
def w2 (x : Nat) : List Nat := [x % 2 ^ 32, (x / 2 ^ 32) % 2 ^ 32]

/-- A signed item of one word. -/
def i1 (x : Int) : List Nat := [unsignedOf 32 x]

/-- A signed item of two words. -/
def i2 (x : Int) : List Nat := w2 (unsignedOf 64 x)

/-- The event register bit that an event sets, where its block's register numbers its events. -/
def evtBit (code : Nat) (data : List Nat) : Option (Fld × Nat × Nat) :=
  let e := code % 256
  let d0 := data.getD 0 0
  let d1 := data.getD 1 0
  match code / 256 with
  | 0x01 => if 1 ≤ e ∧ e ≤ 8 then some (Reg.PWR_EVT_EVENTS, 0, e - 1) else none
  | 0x05 => if 1 ≤ e ∧ e ≤ 12 then some (Reg.STN_HD_EVT_EVENTS, d0 * 2 + d1, e - 1) else none
  | 0x06 => if 1 ≤ e ∧ e ≤ 11 then some (Reg.STN_SP_EVT_EVENTS, d0, e - 1) else none
  | 0x07 => if 1 ≤ e ∧ e ≤ 12 then some (Reg.LIB_EVT_EVENTS, 0, e - 1) else none
  | 0x09 =>
    if 1 ≤ e ∧ e ≤ 3 then some (Reg.CMDQ_EVT_EVENTS, 0, e - 1)
    else if e = 9 then some (Reg.CMDQ_EVT_EVENTS, 0, 3)
    else if e = 4 ∨ e = 5 then some (Reg.BPM_EVT_EVENTS, 0, e - 4)
    else if 6 ≤ e ∧ e ≤ 8 then some (Reg.DMA_EVT_EVENTS, 0, e - 6) else none
  | 0x0A => if 1 ≤ e ∧ e ≤ 10 then some (Reg.MEMC_EVT_EVENTS, 0, e - 1) else none
  | 0x0B => if 1 ≤ e ∧ e ≤ 13 then some (Reg.FLC_EVT_EVENTS, 0, e - 1) else none
  | 0x0D => if 1 ≤ e ∧ e ≤ 4 then some (Reg.CAL_EVT_EVENTS, 0, e - 1) else none
  | 0x0F => if 1 ≤ e ∧ e ≤ 8 then some (Reg.CASC_EVT_EVENTS, 0, e - 1) else none
  | _ => none

/-- The block's event register records an event. -/
def State.markEvt (s : State) (code : Nat) (data : List Nat) : State :=
  match evtBit code data with
  | some (f, i, b) => s.orBits f i (2 ^ b)
  | none => s

/-- Is TIME coarse now: CCLK stopped, or fine TIME not yet reloaded? -/
def State.isCoarse (s : State) : Bool := !s.tb.cclk || s.tb.reload.isSome

/-- An event is placed in the EVT ring with the next SEQ; a full ring loses its oldest entry (R885 to R887). -/
def State.raise (s : State) (code : Nat) (data : List Nat) : State :=
  let s1 := s.markEvt code data
  let e : EvEntry :=
    { code := code, mode := s.mode, cell := s.cell, coarse := s.isCoarse, seq := (s.ev.seq + 1) % 2 ^ 48,
      time := s.time, data := data }
  let masked := bitOf (2 * s.rd Reg.EVT_MASK_MASK 0) (code / 256)
  let ev1 := { s1.ev with seq := (s.ev.seq + 1) % 2 ^ 48, unsent := s1.ev.unsent || (!masked && s.flag Reg.EVT_CTRL_IEN 0) }
  if s.ev.ring.length < 1024 then { s1 with ev := { ev1 with ring := s.ev.ring ++ [e] } }
  else
    let s2 : State := { s1 with ev := { ev1 with ring := s.ev.ring.drop 1 ++ [e] } }
    (s2.set1 Reg.EVT_STATUS_OVERFLOW 0).bump Reg.EVT_LOST_COUNT 0 1

/-- The window of an event and instance is over: the event is raised once, with its count where its table names one (R962). -/
def State.closeWindow (s : State) (w : Window) : State :=
  let s1 : State := { s with ev := { s.ev with windows := s.ev.windows.filter fun x => !(x.code == w.code && x.inst == w.inst) } }
  s1.raise w.code (if w.counted then w.data ++ [w.count] else w.data)

/-- A window of one second opens. -/
def State.openWindow (s : State) (code inst : Nat) (data : List Nat) (counted : Bool) : State :=
  { s with ev := { s.ev with windows := s.ev.windows ++
      [{ code := code, inst := inst, endAt := s.now + hz, data := data, count := 1, counted := counted }] } }

/-- An occurrence of a rate-limited event, R962: it opens a window of one second, or is counted in the open one. A window whose
second is over is closed first. DESIGN CHOICE, assumption 203. -/
def State.raiseWin (s : State) (code inst : Nat) (data : List Nat) (counted : Bool) : State :=
  match s.ev.windows.find? fun w => w.code == code && w.inst == inst with
  | some w =>
    if w.endAt ≤ s.now then (s.closeWindow w).openWindow code inst data counted
    else { s with ev := { s.ev with windows := s.ev.windows.map fun w =>
        if w.code == code && w.inst == inst then { w with count := w.count + 1 } else w } }
  | none => s.openWindow code inst data counted

/-! ### Device memory (R579, R730, R735) -/

/-- The size of the DRAM address space: 512 GiB. -/
def dramSize : Nat := 2 ^ 39

/-- HDM offset 0 is this DRAM address, R579. -/
def hdmBase : Nat := 0x100000000

/-- What an address that is not listed reads as: the zero fill of R735. DESIGN CHOICE, assumption 15. -/
def memBlank : BitVec 8 := 0

/-- The byte at an address of a memory in canonical form. DESIGN CHOICE, assumption 15. -/
def memRead : List Host.Cell → Nat → BitVec 8
  | [], _ => memBlank
  | (a, b) :: r, k => if a = k then b else memRead r k

/-- The memory with a byte written: addresses rise, and an entry equal to what an unlisted address reads as is
not kept. -/
def memWrite : List Host.Cell → Nat → BitVec 8 → List Host.Cell
  | [], k, v => if v = memBlank then [] else [(k, v)]
  | (a, b) :: r, k, v =>
    if k < a then (if v = memBlank then (a, b) :: r else (k, v) :: (a, b) :: r)
    else if a = k then (if v = memBlank then r else (k, v) :: r)
    else (a, b) :: memWrite r k v

/-- Addresses rise strictly from a bound, and no entry is blank. -/
def memWfFrom : Nat → List Host.Cell → Bool
  | _, [] => true
  | lo, (a, b) :: r => decide (lo ≤ a) && decide (b ≠ memBlank) && memWfFrom (a + 1) r

/-- The canonical form of device memory. -/
def Memory.wf (m : List Host.Cell) : Bool := memWfFrom 0 m

/-- A byte of device memory. -/
def State.byte (s : State) (a : Nat) : Nat := (memRead s.mem a).toNat

/-- n bytes of device memory from an address. -/
def State.bytes (s : State) (a n : Nat) : List Nat := (upTo n).map fun i => s.byte (a + i)

/-- Memory with bytes written from an address on. -/
def memWriteList : List Host.Cell → Nat → List Nat → List Host.Cell
  | m, _, [] => m
  | m, a, b :: r => memWriteList (memWrite m a (BitVec.ofNat 8 b)) (a + 1) r

/-- The line of a DRAM address (R737). -/
def lineOf (a : Nat) : Nat := a / 64

/-- Channels fitted. -/
def State.channels (s : State) : Nat := ((upTo 4).filter fun c => s.flag Reg.MEMC_CHAN_FITTED c).length

/-- The channel of a DRAM address, R733. -/
def State.channelOf (s : State) (a : Nat) : Nat :=
  match s.channels with
  | 4 => (bitsOf a 8 2 ^^^ bitsOf a 20 2) % 4
  | 2 => (bitsOf a 8 1 ^^^ bitsOf a 20 1) % 2
  | _ => 0

/-- Readers of DRAM, in the codes of MEMC_ERR_INFO.SOURCE. -/
def srcFetch : Nat := 0
def srcLoad : Nat := 1
def srcSequencer : Nat := 2
def srcDma : Nat := 3
def srcSlice : Nat := 4
def srcHost : Nat := 5
def srcPeer : Nat := 6
def srcScrub : Nat := 7
def srcRmw : Nat := 8

/-- An uncorrectable read of a line (R749): counted, the first recorded, DRAM_UE raised at most 16 times per second. The rank of
an address is not given: it is a free value. DESIGN CHOICE, assumption 138. -/
def State.noteUe (s : State) (line cw source : Nat) : State :=
  let a := line * 64
  let s1 := s.bump Reg.MEMC_UE_CNT_COUNT 0 1
  let s2 := if s.flag Reg.MEMC_ERR_INFO_VALID 0 then s1
    else
      let (r, t) := s1.draw 2
      let t1 := ((t.wr Reg.MEMC_ERR_ADDR_ADDR 0 a).wr Reg.MEMC_ERR_INFO_SOURCE 0 source).wr Reg.MEMC_ERR_INFO_CHANNEL 0 (s.channelOf a)
      let t2 := ((t1.wr Reg.MEMC_ERR_INFO_SUBCH 0 (bitsOf a 6 1)).wr Reg.MEMC_ERR_INFO_RANK 0 r).wr Reg.MEMC_ERR_INFO_CODEWORD 0 cw
      ((t2.clr Reg.MEMC_ERR_INFO_DEVICE 0).clr Reg.MEMC_ERR_INFO_BEAT 0).set1 Reg.MEMC_ERR_INFO_VALID 0
  let fresh := s.ms.ueRaised = 0 ∨ s.ms.ueFrom + hz ≤ s.now
  let n := if fresh then 0 else s.ms.ueRaised
  let s3 : State := { s2 with ms := { s2.ms with ueFrom := if fresh then s.now else s.ms.ueFrom, ueRaised := n + 1 } }
  if n < 16 then s3.raise 0x0A02 (w2 a ++ [source]) else s3

/-- DRAM is accessed: it leaves self-refresh (R746). -/
def State.touchDram (s : State) : State :=
  let s1 : State := { s with ms := { s.ms with accessAt := s.now } }
  if s.flag Reg.MEMC_STATUS_SELF_REFRESH 0 then s1.clr Reg.MEMC_STATUS_SELF_REFRESH 0 else s1

/-- The first uncorrectable line that a range of DRAM touches, with its codeword. -/
def State.ueAt (s : State) (a n : Nat) : Option (Nat × Nat) :=
  (s.ms.ue.filter fun p => decide (lineOf a ≤ p.1) && decide (p.1 * 64 < a + n)).foldl (fun m p =>
    match m with
    | some q => if p.1 < q.1 then some p else some q
    | none => some p) none

/-- A write of a range: lines it covers whole are good again; a line it covers in part that reads as uncorrectable is stored
poisoned (R581, R739, R741); an armed injection takes effect on its line (R767). -/
def State.touchLines (s : State) (a n : Nat) : State :=
  let whole := fun (l : Nat) => decide (a ≤ l * 64) && decide (l * 64 + 64 ≤ a + n)
  let meets := fun (l : Nat) => decide (l * 64 < a + n) && decide (a < l * 64 + 64)
  let torn := s.ms.ue.filter fun p => meets p.1 && !whole p.1
  let s1 : State := { s with ms := { s.ms with ue := s.ms.ue.filter (fun p => !whole p.1), ce := s.ms.ce.filter fun p => !meets p.1 } }
  let s2 := torn.foldl (fun t p => t.noteUe p.1 p.2 srcRmw) s1
  let l := s.rd Reg.MEMC_INJ_ADDR_ADDR 0
  if s.flag Reg.MEMC_INJ_CTRL_ARM 0 && meets l then
    let cw := s.rd Reg.MEMC_INJ_CTRL_CODEWORD 0
    let s3 := s2.clr Reg.MEMC_INJ_CTRL_ARM 0
    if s.flag Reg.MEMC_INJ_CTRL_DOUBLE 0 then { s3 with ms := { s3.ms with ue := (s3.ms.ue.filter fun p => p.1 != l) ++ [(l, cw)] } }
    else if s3.ms.ue.any fun p => p.1 == l then s3
    else { s3 with ms := { s3.ms with ce := s3.ms.ce ++ [(l, cw)] } }
  else s2

/-- The state with bytes written to device memory. -/
def State.store (s : State) (a : Nat) (bs : List Nat) : State :=
  let s1 : State := { s with mem := memWriteList s.mem a bs }
  if s.ms.ue.isEmpty && s.ms.ce.isEmpty && !s.flag Reg.MEMC_INJ_CTRL_ARM 0 then s1 else s1.touchLines a bs.length

/-- The lines of a DRAM range that lie in pages of HDM in host bias (R582). -/
def State.hostLines (s : State) (a n : Nat) : List Nat :=
  if s.hep.hostPages.isEmpty then []
  else ((upTo ((a + n + 63) / 64 - a / 64)).map (a / 64 + ·)).filter fun l =>
    decide (hdmBase ≤ 64 * l) && s.hep.hostPages.contains ((64 * l - hdmBase) / 4096)

/-- The controller reads DRAM for itself: lines in host bias by RdCurr through the host (R584). DESIGN CHOICE, assumption 227. -/
def State.ownRead (s : State) (a n : Nat) : State :=
  (s.hostLines a n).foldl (fun t l => t.emit (.hdmReq .rdCurr (64 * l - hdmBase) [])) s

/-- The controller writes DRAM for itself: lines in host bias by ItoMWr through the host (R584). DESIGN CHOICE, assumption 227. -/
def State.ownWrite (s : State) (a : Nat) (bs : List Nat) : State :=
  let t := s.store a bs
  (s.hostLines a bs.length).foldl (fun u l => u.emit (.hdmReq .itoMWr (64 * l - hdmBase) (t.bytes (64 * l) 64))) t

/-- Bytes of DRAM as the controller reads them for itself, those in host bias as the host gave them. -/
def State.ownBytes (s : State) (a n : Nat) (host : List Nat) : List Nat :=
  let ls := s.hostLines a n
  (upTo n).map fun i => if ls.contains ((a + i) / 64) then host.getD i (s.byte (a + i)) % 256 else s.byte (a + i)

/-- A memory without the bytes of a range: they read as zero again. -/
def memClear (m : List Host.Cell) (a n : Nat) : List Host.Cell := m.filter fun c => !(decide (a ≤ c.1) && decide (c.1 < a + n))

/-- The state with n bytes of device memory zeroed. -/
def State.zeroMem (s : State) (a n : Nat) : State :=
  let s1 : State := { s with mem := memClear s.mem a n }
  if s.ms.ue.isEmpty && s.ms.ce.isEmpty && !s.flag Reg.MEMC_INJ_CTRL_ARM 0 then s1 else s1.touchLines a n

/-- A correction is counted and recorded, and raises DRAM_CE at most once per second; a device that reaches the threshold in
one hour of TIME is reported once (R740, R747, R766). -/
def State.noteCe (s : State) (line rank cw device beat source : Nat) : State :=
  let a := line * 64
  let ch := s.channelOf a
  let sub := bitsOf a 6 1
  let s1 := (((s.bump Reg.MEMC_CE_CNT_COUNT ch 1).wr Reg.MEMC_CE_ADDR_ADDR 0 a).wr Reg.MEMC_CE_INFO_SOURCE 0 source).wr
    Reg.MEMC_CE_INFO_CHANNEL 0 ch
  let s2 := ((s1.wr Reg.MEMC_CE_INFO_SUBCH 0 sub).wr Reg.MEMC_CE_INFO_RANK 0 rank).wr Reg.MEMC_CE_INFO_CODEWORD 0 cw
  let s3 := (((s2.wr Reg.MEMC_CE_INFO_DEVICE 0 device).wr Reg.MEMC_CE_INFO_BEAT 0 beat).set1 Reg.MEMC_CE_INFO_VALID 0).raiseWin
    0x0A01 0 [ch] true
  let hour := s.tb.sec / 3600
  let ms0 := if s3.ms.hour = hour then s3.ms else { s3.ms with hour := hour, devCe := [], suspects := [] }
  let k := ((ch * 2 + sub) * 4 + rank) * 16 + device
  let n := mget 0 ms0.devCe k + 1
  let hit := decide (s.rd Reg.MEMC_CE_THRESH_THRESH 0 ≤ n) && !ms0.suspects.contains k
  let s4 : State := { s3 with ms := { ms0 with devCe := mput ms0.devCe k n, suspects := if hit then ms0.suspects ++ [k] else ms0.suspects } }
  if hit then s4.raise 0x0A04 [ch, sub, rank, device] else s4

/-- The line a stored correctable error leaves: its device and beat are not given, and are free values. DESIGN CHOICE, assumption
138. -/
def State.correctStored (s : State) (line cw source : Nat) : State :=
  let (r, s1) := s.draw 2
  let (d, s2) := s1.draw 8
  let (b, s3) := s2.draw 2
  let s4 : State := { s3 with ms := { s3.ms with ce := s3.ms.ce.filter fun p => p.1 != line } }
  s4.noteCe line r cw (d % 10) (4 * cw + b) source

/-- A read of a range corrects the lines of it that hold a stored correctable error (R740). -/
def State.correctRange (s : State) (a n source : Nat) : State :=
  (s.ms.ce.filter fun p => decide (lineOf a ≤ p.1) && decide (p.1 * 64 < a + n)).foldl (fun t p => t.correctStored p.1 p.2 source) s

/-! ### Records of the sparse maps -/

def State.stn (s : State) (n : Nat) : Stn := mget {} s.stns n
def State.putStn (s : State) (n : Nat) (x : Stn) : State := { s with stns := mput s.stns n x }
def State.slice (s : State) (n : Nat) : Slice := mget {} s.slices n
def State.putSlice (s : State) (n : Nat) (x : Slice) : State := { s with slices := mput s.slices n x }
def State.zone (s : State) (k : Nat) : Zone := mget {} s.zones k
def State.putZone (s : State) (k : Nat) (x : Zone) : State := { s with zones := mput s.zones k x }
def State.disc (s : State) (k : Nat) : Disc := mget {} s.discs k
def State.putDisc (s : State) (k : Nat) (x : Disc) : State := { s with discs := mput s.discs k x }
def State.head (s : State) (h : Nat) : Head := mget {} s.heads h
def State.putHead (s : State) (h : Nat) (x : Head) : State := { s with heads := mput s.heads h x }
def State.spin (s : State) (n : Nat) : Spin := mget {} s.spins n
def State.putSpin (s : State) (n : Nat) (x : Spin) : State := { s with spins := mput s.spins n x }
def State.axis (s : State) (a : Nat) : Axis := mget {} s.axes a
def State.putAxis (s : State) (a : Nat) (x : Axis) : State := { s with axes := mput s.axes a x }
def State.lslot (s : State) (n : Nat) : LSlot := mget {} s.loop.slots n
def State.putLslot (s : State) (n : Nat) (x : LSlot) : State :=
  { s with loop := { s.loop with slots := mput s.loop.slots n x } }
def State.grp (s : State) (g : Nat) : Grp := mget {} s.grps g

/-- The key of a zone: disc (home slot), side, layer, zone. -/
def zoneKey (disc side layer zone : Nat) : Nat := ((disc * 2 + side) * 16 + layer) * 64 + zone

def zoneDisc (k : Nat) : Nat := k / 2048
def zoneSide (k : Nat) : Nat := k / 1024 % 2
def zoneLayer (k : Nat) : Nat := k / 64 % 16
def zoneNum (k : Nat) : Nat := k % 64

/-! ### Ring messages (R539 to R541) -/

/-- Cell c can be reached (R546, R565). -/
def State.reach (s : State) (c : Nat) : Bool := c == s.cell || s.flag Reg.CASC_CELL_REACH c

/-- The port toward a cell (R540). -/
def State.via (s : State) (c : Nat) : Nat := s.rd Reg.CASC_CELL_VIA c

/-- Messages to a cell sent and not acknowledged. -/
def State.ringOut (s : State) (c : Nat) : Nat :=
  (s.stack.unacked.filter fun m => m.dst == c && m.sentAt.isSome).length

/-- An acknowledged ring message to a cell, with the next SEQ of the pair; at most 128 are unacknowledged, and the rest wait
(R541). The manual gives no layout for the items but those of SYNC. DESIGN CHOICE, assumption 91. -/
def State.ringSend (s : State) (dst mtype : Nat) (items : List Nat) : State :=
  let q := mget 0 s.stack.tx dst
  let room := s.ringOut dst < 128
  let m : RingMsg := { dst := dst, mtype := mtype, seq := q, items := items, sentAt := if room then some s.now else none }
  let s1 : State := { s with stack := { s.stack with tx := mput s.stack.tx dst ((q + 1) % 256),
                                                     unacked := s.stack.unacked ++ [m] } }
  if room then s1.emit (.ring (s.via dst) dst mtype q items) else s1

/-! ### Commands in flight (R638 to R646) -/

/-- Status codes, R645. -/
def stSuccess : Nat := 0x00
def stAborted : Nat := 0x01
def stAbortNotFound : Nat := 0x02
def stInvalidOpcode : Nat := 0x03
def stInvalidField : Nat := 0x04
def stAddressRange : Nat := 0x05
def stPoolEmpty : Nat := 0x06
def stQuota : Nat := 0x07
def stNotOwner : Nat := 0x08
def stSharedBusy : Nat := 0x09
def stDiscNotMounted : Nat := 0x0A
def stMediaUnrecovered : Nat := 0x0B
def stWriteFrontier : Nat := 0x0C
def stZoneClosed : Nat := 0x0D
def stStationFault : Nat := 0x0E
def stLibraryFault : Nat := 0x0F
def stDegraded : Nat := 0x10
def stHostAccess : Nat := 0x11
def stDataEcc : Nat := 0x12
def stBusyMoving : Nat := 0x13
def stFwInvalid : Nat := 0x14
def stModeRefused : Nat := 0x15
def stStackUnavailable : Nat := 0x16

/-- n bytes of a packet from a byte offset, as a number (R10). -/
def Cmd.get (c : Cmd) (off n : Nat) : Nat := bitsOf c.pkt (8 * off) (8 * n)

/-- The opcode, R640. -/
def Cmd.op (c : Cmd) : Nat := c.get 0 1

/-- A flag bit, R641. -/
def Cmd.flagBit (c : Cmd) (b : Nat) : Bool := bitOf (c.get 1 1) b

/-- The command in flight with a submission queue and tag. -/
def State.cmd? (s : State) (sq tag : Nat) : Option Cmd := s.cmds.find? fun c => c.sq == sq && c.tag == tag

/-- The state with every command of a queue and tag changed by a function. -/
def State.updCmd (s : State) (sq tag : Nat) (f : Cmd → Cmd) : State :=
  { s with cmds := s.cmds.map fun c => if c.sq == sq && c.tag == tag then f c else c }

/-- The queue number that the cell which sent a command knows it by: a command served for another cell stands here under 65,536
times one more than that cell's number plus the queue, and one that the master had sent on under 2^20 plus its own number. -/
def homeSq (sq : Nat) : Nat := if 2 ^ 20 ≤ sq then sq - 2 ^ 20 else sq % 65536

/-- The outcome of a command is fixed: its completion waits for room in its queue (R629), or is never written when the
command was stopped by a host endpoint reset (R682). A command served for another cell is reported to that cell (R553).
A command whose outcome is fixed keeps it. -/
def State.finish (s : State) (sq tag status a b field : Nat) : State :=
  match s.cmd? sq tag with
  | none => s
  | some c =>
    if c.phase = .fixed then s
    else if c.silent then { s with cmds := s.cmds.filter fun x => !(x.sq == sq && x.tag == tag) }
    else if c.origin.isSome then
      ({ s with cmds := s.cmds.filter fun x => !(x.sq == sq && x.tag == tag) } : State).ringSend (c.origin.getD 0) 0x06
        [1, homeSq sq, tag, status, a, b, field]
    else
      let s1 := s.updCmd sq tag fun x => { x with phase := .fixed, status := status, resA := a, resB := b,
                                                  field := field, launch := none }
      match mfind s1.cqs c.cq with
      | none => s1
      | some q =>
        { s1 with cqs := mput s1.cqs c.cq { q with waiting := q.waiting ++
            [{ sq := sq, tag := tag, status := status, a := a, b := b, field := field }] } }

/-- The command ends with a status and no results. -/
def State.fail (s : State) (sq tag status : Nat) : State := s.finish sq tag status 0 0 0

/-- Every command that satisfies a test and whose outcome is not fixed ends with a status. -/
def State.failAll (s : State) (p : Cmd → Bool) (status : Nat) : State :=
  (s.cmds.filter fun c => p c && c.phase != .fixed).foldl (fun t c => t.fail c.sq c.tag status) s

/-- A tap event of the tally (R817, R821): an account, a counter (0 FRAMES_READ, 1 FRAMES_WRITTEN, 2 BYTES_DELIVERED,
3 STATION_MS) and what it adds. The tally takes it with TALLY_TAP_EVENT. -/
def State.tap (s : State) (acct counter n : Nat) : State :=
  { s with tally := { s.tally with taps := s.tally.taps ++ [(acct, counter, n, s.now)] } }

/-! ### GCTL summary bits -/

/-- TIME_LOCKED of GCTL_STATUS follows the discipline state. -/
def State.setLocked (s : State) (b : Bool) : State := s.wrB Reg.GCTL_STATUS_TIME_LOCKED 0 b

end Sys2Proof.Machine
end

