-- ==== Sys2Proof/Machine/FlashOps.lean ====
section
/-!
DEFINITION. Words of the flash array as they read, programs and erases of single words and sectors (R768 to R777).
-/

namespace Sys2Proof.Machine

/-! ### Words (R768 to R777) -/

/-- Words of a sector. -/
def sectorWords : Nat := 8192

/-- The index of a sector's first word. -/
def secWord (sec : Nat) : Nat := sec * sectorWords

/-- An erased word. -/
def blankWord : FWord := { data := 2 ^ 64 - 1 }

/-- A word of the array. -/
def State.fword (s : State) (i : Nat) : FWord := mget blankWord s.flash.words i

/-- What a read of a word finds (R775, R776). -/
inductive FRead where
  | erased
  | torn
  | good (v : Nat)
  | corrected (v slot : Nat)
  | bad (slot : Nat)
deriving DecidableEq, Repr

/-- A number has exactly one bit set. -/
def oneBit (x : Nat) : Bool := x != 0 && x &&& (x - 1) == 0

/-- A word as it reads. -/
def FWord.read (w : FWord) : FRead :=
  if !w.pa && !w.pb then (if w.data = 2 ^ 64 - 1 then .erased else .torn)
  else
    let slot := if w.pb then 2 else 1
    let c := if w.pb then w.b else w.a
    if w.data = c then .good c else if oneBit (w.data ^^^ c) then .corrected c slot else .bad slot

/-- The value of a word that decodes; an erased word reads as ones. -/
def State.fval (s : State) (i : Nat) : Option Nat :=
  match (s.fword i).read with
  | .erased => some (2 ^ 64 - 1)
  | .good v => some v
  | .corrected v _ => some v
  | _ => none

/-- A word is erased. -/
def State.fErased (s : State) (i : Nat) : Bool := (s.fword i).read == .erased

/-- A word after a program that is admitted (R773). -/
def FWord.prog (w : FWord) (v : Nat) : FWord :=
  if w.pa then { w with data := v, b := v, pb := true } else { w with data := v, a := v, pa := true }

/-- The RESULT of a program of a value to a word (R773): 0 OK, 1 CONFLICT, 2 EXHAUSTED. -/
def FWord.outcome (w : FWord) (v : Nat) : Nat :=
  if w.pb then 2 else if v &&& w.data = v then 0 else 1

/-- A word is programmed at once, by the flash controller or the boot ROM. -/
def State.programNow (s : State) (i v : Nat) : State :=
  if (s.fword i).outcome v = 0 then { s with flash := { s.flash with words := mput s.flash.words i ((s.fword i).prog v) } } else s

/-- A sector's words read erased. -/
def State.clearSector (s : State) (sec : Nat) : State :=
  { s with flash := { s.flash with words := s.flash.words.filter (fun p => p.1 / sectorWords != sec),
                                   notes := s.flash.notes.filter fun p => p.1 / sectorWords != sec } }

/-- The words of a range that are not erased, in order. -/
def State.fwords (s : State) (lo hi : Nat) : List (Nat × FWord) := s.flash.words.filter fun p => decide (lo ≤ p.1) && decide (p.1 < hi)

end Sys2Proof.Machine
end

