-- ==== Sys2Proof/Machine/Codec.lean ====
section
/-!
DEFINITION. The codes of the link and of the medium: the cyclic redundancy checks (R107, R109, R199, R211), the
scrambler (R201), the outer code over GF(2^16) (R203), Zeckendorf modulation (R204 to R206), the LDPC code (R207 to
R209), the frame layout (R196 to R198) and the header row (R210 to R213).
-/

namespace Sys2Proof.Machine

/-! ### Cyclic redundancy checks -/

/-- One bit of a CRC taken most significant bit first, of width w. -/
def crcBit (w poly crc : Nat) (b : Bool) : Nat :=
  let top := bitOf crc (w - 1)
  let sh := (crc <<< 1) % 2 ^ w
  if top != b then sh ^^^ poly else sh

/-- The bits of a byte, most significant first. -/
def msbBits (b : Nat) : List Bool :=
  [bitOf b 7, bitOf b 6, bitOf b 5, bitOf b 4, bitOf b 3, bitOf b 2, bitOf b 1, bitOf b 0]

/-- A CRC over bytes, each most significant bit first, without reflection. -/
def crcMsb (w poly init : Nat) (bytes : List Nat) : Nat :=
  bytes.foldl (fun c b => (msbBits b).foldl (crcBit w poly) c) init

/-- The CRC-16 of R107, over bytes taken in order. -/
def crc16 (bytes : List Nat) : Nat := crcMsb 16 0x1021 0xFFFF bytes

/-- The CRC-64 of R199. -/
def crc64 (bytes : List Nat) : Nat := crcMsb 64 0x42F0E1EBA9EA3693 0 bytes

/-- One step of a reflected CRC. -/
def crcLsbBit (poly crc : Nat) : Nat :=
  if crc % 2 = 1 then (crc / 2) ^^^ poly else crc / 2

/-- One byte of a reflected CRC. -/
def crcLsbByte (poly crc b : Nat) : Nat :=
  (upTo 8).foldl (fun c _ => crcLsbBit poly c) (crc ^^^ (b % 256))

/-- A reflected 32-bit CRC with initial value and final XOR of all ones. -/
def crcLsb (poly : Nat) (bytes : List Nat) : Nat :=
  (bytes.foldl (crcLsbByte poly) 0xFFFFFFFF) ^^^ 0xFFFFFFFF

/-- The CRC-32 of IEEE 802.3, R211. -/
def crc32 (bytes : List Nat) : Nat := crcLsb 0xEDB88320 bytes

/-- The CRC-32C of RFC 3720, R109. -/
def crc32c (bytes : List Nat) : Nat := crcLsb 0x82F63B78 bytes

/-! ### Scrambler -/

/-- The next state of the scrambler of R201. -/
def lfsrNext (s : Nat) : Nat :=
  let f := (bitOf s 31 != bitOf s 30) != (bitOf s 29 != bitOf s 9)
  ((s <<< 1) % 2 ^ 32) ||| (if f then 1 else 0)

/-- The next n bits of the scrambler as a number, first bit most significant, and the state after them. -/
def lfsrBits : Nat → Nat → Nat → Nat × Nat
  | 0, s, acc => (acc, s)
  | n + 1, s, acc => lfsrBits n (lfsrNext s) (2 * acc + (if bitOf s 31 then 1 else 0))

/-- Bytes XORed with the scrambler's output from a state. -/
def scrambleFrom : Nat → List Nat → List Nat
  | _, [] => []
  | s, b :: r => let (x, s') := lfsrBits 8 s 0; (b ^^^ x) :: scrambleFrom s' r

/-- The scrambling of a frame's bytes for a physical frame address, R201; it is its own inverse. -/
def scramble (pfa : Nat) (bytes : List Nat) : List Nat := scrambleFrom (pfa ||| 0x80000000) bytes

/-- The physical frame address, R200. -/
def pfaOf (slot layer side : Nat) (leadin : Bool) : Nat :=
  slot % 2 ^ 20 + (layer % 16) * 2 ^ 20 + (side % 2) * 2 ^ 24 + (if leadin then 2 ^ 25 else 0)

/-! ### Outer code, R203 -/

/-- Multiplication by α in GF(2^16) with primitive polynomial 0x1_100B. -/
def gfAlpha (a : Nat) : Nat := if a < 0x8000 then 2 * a else (2 * a) ^^^ 0x1100B

/-- The product of two elements of GF(2^16), over the bits of the second. -/
def gfMulN : Nat → Nat → Nat → Nat
  | 0, _, _ => 0
  | n + 1, a, b => (if b % 2 = 1 then a else 0) ^^^ gfMulN n (gfAlpha a) (b / 2)

/-- The product of two elements of GF(2^16). -/
def gfMul (a b : Nat) : Nat := gfMulN 16 a b

/-- a^(2^n - 2) ... the power a^e by squaring over n bits. -/
def gfPowN : Nat → Nat → Nat → Nat
  | 0, _, _ => 1
  | n + 1, a, e => gfMul (if e % 2 = 1 then a else 1) (gfPowN n (gfMul a a) (e / 2))

/-- The inverse of a nonzero element of GF(2^16). -/
def gfInv (a : Nat) : Nat := gfPowN 16 a 65534

/-- α^e. -/
def gfAlphaPow (e : Nat) : Nat := gfPowN 16 2 e

/-- The two syndromes of a column c_0 .. c_17, the values of c(x) at 1 and at α. -/
def rsSyndromes (col : List Nat) : Nat × Nat :=
  col.foldl (fun (s : Nat × Nat) c => (s.1 ^^^ c, gfAlpha s.2 ^^^ c)) (0, 0)

/-- The parity symbols [c_16, c_17] of sixteen data symbols: the remainder modulo x² + 3x + 2. -/
def rsParity (data : List Nat) : Nat × Nat :=
  (data ++ [0, 0]).foldl (fun (r : Nat × Nat) c =>
    (r.2 ^^^ gfMul 3 r.1, c ^^^ gfMul 2 r.1)) (0, 0)

/-- A column with symbol i replaced by its value plus v. -/
def colAdd (col : List Nat) (i v : Nat) : List Nat :=
  col.mapIdx fun j c => if j = i then c ^^^ v else c

/-- The outer code's decoding of one column with up to two erasures (R203, R264): none where more than two symbols
are erased or the column is not a codeword. -/
def rsColumn (col : List (Option Nat)) : Option (List Nat) :=
  let er := (upTo 18).filter fun i => (col.getD i none).isNone
  let base := col.map fun x => x.getD 0
  let (s0, s1) := rsSyndromes base
  match er with
  | [] => if s0 = 0 ∧ s1 = 0 then some base else none
  | [i] =>
    if gfMul (gfAlphaPow (17 - i)) s0 = s1 then some (colAdd base i s0) else none
  | [i, j] =>
    let xi := gfAlphaPow (17 - i)
    let xj := gfAlphaPow (17 - j)
    let vj := gfMul (s1 ^^^ gfMul xi s0) (gfInv (xi ^^^ xj))
    some (colAdd (colAdd base j vj) i (s0 ^^^ vj))
  | _ => none

/-! ### Zeckendorf modulation, R204 to R206 -/

/-- The weights b23 down to b0. -/
def zWeights : List Nat :=
  [75025, 46368, 28657, 17711, 10946, 6765, 4181, 2584, 1597, 987, 610, 377, 233, 144, 89, 55, 34, 21, 13, 8, 5, 3,
   2, 1]

/-- The greedy representation over the weights given, largest first. -/
def zGreedy : List Nat → Nat → List Bool
  | [], _ => []
  | w :: r, v => if w ≤ v then true :: zGreedy r (v - w) else false :: zGreedy r v

/-- The 25 channel bits of a symbol in the order recorded. -/
def zEncode (v : Nat) : List Bool := zGreedy zWeights v ++ [false]

/-- Two adjacent ones in a list of bits. -/
def hasPair : List Bool → Bool
  | a :: b :: r => (a && b) || hasPair (b :: r)
  | _ => false

/-- The symbol that 25 channel bits stand for, none where R206 calls them an erasure. -/
def zDecode (bits : List Bool) : Option Nat :=
  let body := bits.take 24
  let v := (body.zip zWeights).foldl (fun a p => if p.1 then a + p.2 else a) 0
  if hasPair bits || body.getD 0 false || bits.getD 24 false || v > 65535 then none else some v

/-- A list of bits as a number, first bit least significant. -/
def bitsLsb : List Bool → Nat
  | [] => 0
  | b :: r => (if b then 1 else 0) + 2 * bitsLsb r

/-- The n low bits of a number as a list, least significant first. -/
def lsbBits (n x : Nat) : List Bool := (upTo n).map (bitOf x)

/-- The information bits of a codeword, bit i of the number being information bit i (R205). -/
def cwInfo (symbols : List Nat) : Nat :=
  symbols.foldr (fun v acc => bitsLsb (zEncode v) + acc <<< 25) 0

/-! ### LDPC, R207 to R209 -/

/-- The constants a_g, b_g, c_g and A_g of group g. -/
def ldpcGroup : Nat → Nat × Nat × Nat × Nat
  | 0 => (1, 3, 6, 37)
  | 1 => (2, 3, 7, 59)
  | 2 => (1, 4, 6, 83)
  | 3 => (2, 5, 7, 101)
  | 4 => (1, 2, 5, 127)
  | 5 => (3, 4, 6, 149)
  | 6 => (1, 5, 7, 173)
  | _ => (2, 4, 5, 197)

/-- The constant B_i of base row i. -/
def ldpcB (i : Nat) : Nat := [0, 211, 389, 523, 97, 641, 277, 733].getD i 0

/-- Is information block column j present in base row i? -/
def ldpcPresent (i j : Nat) : Bool :=
  let (a, b, c, _) := ldpcGroup (j / 8)
  i == j % 8 || i == (j + a) % 8 || i == (j + b) % 8 || i == (j + c) % 8

/-- The shift of information block column j in base row i. -/
def ldpcShift (i j : Nat) : Nat :=
  let (_, _, _, ag) := ldpcGroup (j / 8)
  (ag * (i + 1) * (j + 1) + ldpcB i) % 800

/-- rot(v, s)[r] = v[(r + s) mod 800] on 800-bit blocks. -/
def rot800 (v s : Nat) : Nat := ((v >>> s) ||| (v <<< (800 - s))) % 2 ^ 800

/-- syn[i]: the sum of the rotated information blocks present in base row i. -/
def ldpcSyn (info i : Nat) : Nat :=
  (upTo 64).foldl (fun acc j =>
    if ldpcPresent i j then acc ^^^ rot800 (bitsOf info (800 * j) 800) (ldpcShift i j) else acc) 0

/-- The parity bits of a codeword by accumulation: bit 800 i + r is p_i[r] (R208). -/
def ldpcParity (info : Nat) : Nat :=
  ((upTo 8).foldl (fun (s : Nat × Nat) i =>
    let p := s.2 ^^^ ldpcSyn info i
    (s.1 + p <<< (800 * i), p)) (0, 0)).1

/-- The unsatisfied checks of base row i for information bits and parity bits, as an 800-bit block. -/
def ldpcChecks (info par i : Nat) : Nat :=
  ldpcSyn info i ^^^ bitsOf par (800 * i) 800 ^^^ (if i = 0 then 0 else bitsOf par (800 * (i - 1)) 800)

/-- Every parity check of a codeword holds: a zero syndrome (R264). -/
def ldpcZero (info par : Nat) : Bool := (upTo 8).all fun i => ldpcChecks info par i == 0

/-- The number of ones among the low n bits. -/
def popcount : Nat → Nat → Nat
  | 0, _ => 0
  | n + 1, x => x % 2 + popcount n (x / 2)

/-- Parity bits spread to pairs (bit, 0), R209. -/
def spreadPairs : Nat → Nat → Nat
  | 0, _ => 0
  | n + 1, x => x % 2 + 4 * spreadPairs n (x / 2)

/-- The 64,000 recorded bits of a codeword, bit i of the number being codeword bit i (R205, R209). -/
def cwRecorded (info : Nat) : Nat := info + (spreadPairs 6400 (ldpcParity info)) <<< 51200

/-- A 64-bit piece of a codeword as a data block, first bit most significant. -/
def chunkWord (cw q : Nat) : Nat :=
  (upTo 64).foldl (fun acc i => 2 * acc + (if bitOf cw (64 * q + i) then 1 else 0)) 0

/-! ### Frame layout and header -/

/-- The row sync, R197. -/
def rowSync : Nat := 0x492524924A492524

/-- Symbols from bytes, the even byte in the high half (R202). -/
def symbolsOf : List Nat → List Nat
  | a :: b :: r => (256 * a + b) :: symbolsOf r
  | _ => []

/-- Bytes from symbols. -/
def bytesOfSymbols (l : List Nat) : List Nat := l.flatMap fun v => [v / 256, v % 256]

/-- The header bytes of R210 and R211: 32 bytes and their CRC-32. DESIGN CHOICE, assumption 35. -/
def headerBytes (pfa discId time zoneSeq : Nat) (rewrite close mgmt : Bool) (dataCrc : Nat) : List Nat :=
  let flags := (if rewrite then 1 else 0) + (if close then 2 else 0) + (if mgmt then 4 else 0)
  let b := bytesLE 4 pfa ++ bytesLE 8 discId ++ bytesLE 8 time ++ bytesLE 2 zoneSeq ++ bytesLE 2 flags
    ++ bytesLE 8 dataCrc
  b ++ bytesLE 4 (crc32 b)

/-- A header copy of 36 bytes passes CRC-32 (R211). -/
def headerOk (h : List Nat) : Bool := h.length == 36 && crc32 (h.take 32) == ofBytesLE (h.drop 32)

/-- Fields of an accepted header. -/
def hdrPfa (h : List Nat) : Nat := ofBytesLE (h.take 4)
def hdrDiscId (h : List Nat) : Nat := ofBytesLE ((h.drop 4).take 8)
def hdrZoneSeq (h : List Nat) : Nat := ofBytesLE ((h.drop 20).take 2)
def hdrMgmt (h : List Nat) : Bool := bitOf (ofBytesLE ((h.drop 22).take 2)) 2
def hdrDataCrc (h : List Nat) : Nat := ofBytesLE ((h.drop 24).take 8)

/-- 64-bit words from a list of bits, first bit most significant. -/
def wordsOfBits : Nat → List Bool → List Nat
  | 0, _ => []
  | n + 1, l => (l.take 64).foldl (fun a b => 2 * a + (if b then 1 else 0)) 0 :: wordsOfBits n (l.drop 64)

/-- The content of the header row: 450 bits repeated 17 times and 30 zeros (R212), as 120 words. -/
def headerRow (h : List Nat) : List Nat :=
  let bits := (symbolsOf h).flatMap zEncode
  wordsOfBits 120 ((upTo 17).flatMap (fun _ => bits) ++ List.replicate 30 false)

/-- The eighteen symbol lists of a frame's codewords, from its scrambled bytes (R202, R203). -/
def frameSymbols (scrambled : List Nat) : List (List Nat) :=
  let sy := symbolsOf scrambled
  let data := (upTo 16).map fun k => (sy.drop (2048 * k)).take 2048
  let par := (upTo 2048).map fun m => rsParity (data.map fun l => l.getD m 0)
  data ++ [par.map Prod.fst, par.map Prod.snd]

/-- A frame as its 18,271 data blocks of 64 channel bits (R131, R196, R198): per row the sync and 120 words. -/
def encodeFrame (pfa discId time zoneSeq : Nat) (rewrite close mgmt : Bool) (bytes : List Nat) : List Nat :=
  let hdr := headerBytes pfa discId time zoneSeq rewrite close mgmt (crc64 bytes)
  let cws := (frameSymbols (scramble pfa bytes)).map fun s => cwRecorded (cwInfo s)
  let chunk := fun c => chunkWord (cws.getD (c % 18) 0) (c / 18)
  (rowSync :: headerRow hdr) ++
    (upTo 150).flatMap fun r => rowSync :: (upTo 120).map fun i => chunk (120 * r + i)

/-- A decoded codeword: its symbols, none where a 25-bit group is an erasure (R205, R206). -/
def cwSymbols (info : Nat) : List (Option Nat) :=
  (upTo 2048).map fun m => zDecode (lsbBits 25 (bitsOf info (25 * m) 25))

/-- The outer code over all 2,048 columns: the sixteen data codewords' symbols, none where a column fails, and the
number of symbols restored. -/
def outerDecode (cws : List (List (Option Nat))) : Option (List (List Nat)) × Nat :=
  let cols := (upTo 2048).map fun m => cws.map fun l => l.getD m none
  let erased := cols.foldl (fun n c => n + (c.filter Option.isNone).length) 0
  let dec := cols.map rsColumn
  if dec.all Option.isSome then
    (some ((upTo 16).map fun k => dec.map fun c => (c.getD []).getD k 0), erased)
  else (none, 0)

/-- Where a codeword's recorded bit lies in the frame: row and content bit (R198). -/
def cwBitPlace (k i : Nat) : Nat × Nat :=
  let c := 18 * (i / 64) + k
  (1 + c / 120, 64 * (c % 120) + i % 64)

end Sys2Proof.Machine
end

