-- ==== Sys2Proof/Machine/Channel.lean ====
section
/-!
DEFINITION. The read channel from equaliser outputs to user bytes: the trellis of PR(1,2,2,1), the max-log-MAP detector, the
hard-decision Viterbi, row sync scores (R181, R182, R255 to R258), the values of a frame, the header and its soft combination, the
layered min-sum decoder of the LDPC code (R209, R213, R264, R290), and the classes of a slot (R195).
-/

namespace Sys2Proof.Machine

/-! ### Trellis (R181, R182, R251, R255) -/

/-- A recorded level as a ∈ {−1, +1}. -/
def level (a : Nat) : Int := if a = 0 then -1 else 1

/-- The target of level a after the three levels of a state, the newest in bit 2 (R251). -/
def trTarget (a st : Nat) : Int :=
  16 * (level a + 2 * level (st / 4 % 2) + 2 * level (st / 2 % 2) + level (st % 2))

/-- Level a makes a transition right after a transition, which the d = 1 constraint forbids (R182). -/
def trPair (a st : Nat) : Bool := a != st / 4 % 2 && st / 4 % 2 != st / 2 % 2

/-- A state that no sequence under the d = 1 constraint reaches: two of the eight (R255). -/
def stPair (st : Nat) : Bool := st / 4 % 2 != st / 2 % 2 && st / 2 % 2 != st % 2

/-- The cost of a path that cannot be. -/
def farCost : Nat := 10 ^ 12

/-- The cost of an output against a target; a lost output costs nothing. -/
def trCost (y : Option Int) (t : Int) : Nat := match y with | some v => ((v - t) * (v - t)).toNat | none => 0

/-- The cost of the branch of level a from a state; with the trellis not open a forbidden branch is far. -/
def branch (opn : Bool) (y : Option Int) (a st : Nat) : Nat := if opn || !trPair a st then trCost y (trTarget a st) else farCost

/-- The state after level a. -/
def trNext (a st : Nat) : Nat := 4 * a + st / 2

/-- The two states before a state. -/
def trPrev (t c : Nat) : Nat := 2 * (t % 4) + c

/-- Least costs of the eight states after one more output. -/
def trForward (opn : Bool) (y : Option Int) (al : List Nat) : List Nat :=
  (upTo 8).map fun t =>
    let f := fun c => al.getD (trPrev t c) farCost + branch opn y (t / 4) (trPrev t c)
    min (f 0) (f 1)

/-- Least costs from the eight states on, one output earlier. -/
def trBackward (opn : Bool) (y : Option Int) (be : List Nat) : List Nat :=
  (upTo 8).map fun st =>
    let f := fun a => be.getD (trNext a st) farCost + branch opn y a st
    min (f 0) (f 1)

/-- What the detector gives for a channel bit: its log-likelihood ratio before scaling, positive for a likely 1, and the decided
level. -/
structure Decided where
  llr : Int
  lev : Bool
deriving DecidableEq, Repr

/-- The least cost over the branches that answer a test. -/
def branchMin (opn : Bool) (y : Option Int) (al be : List Nat) (p : Nat → Nat → Bool) : Nat :=
  (upTo 8).foldl (fun m st => [0, 1].foldl (fun n a =>
    if p a st then min n (al.getD st farCost + branch opn y a st + be.getD (trNext a st) farCost) else n) m) (3 * farCost)

/-- The decision for one channel bit from the costs before and after it: a 1 is a change of level (R181, R255). -/
def decideBit (opn : Bool) (y : Option Int) (al be : List Nat) : Decided :=
  let m := branchMin opn y al be
  { llr := (m fun a st => a == st / 4 % 2 : Nat) - (m fun a st => a != st / 4 % 2 : Nat),
    lev := decide ((m fun a _ => a == 1) < (m fun a _ => a == 0)) }

/-- The max-log-MAP detector over a run of outputs, each with whether the trellis is open to a second 1 there; the costs before
the run are given, those after it come back (R255). -/
def mapRun : List (Bool × Option Int) → List Nat → List Nat × List Decided
  | [], _ => (List.replicate 8 0, [])
  | (o, y) :: r, al =>
    let (be, out) := mapRun r (trForward o y al)
    (trBackward o y be, decideBit o y al be :: out)

/-- The six states a run may begin in. -/
def trStart : List Nat := (upTo 8).map fun st => if stPair st then farCost else 0

/-- The hard-decision Viterbi over a run of outputs: the state before each, and the channel bits (R258). It knows no joins, so
its trellis is open throughout. DESIGN CHOICE, assumption 215. -/
def vitRun : List (Option Int) → List Nat → Nat × List Bool
  | [], al => ((upTo 8).foldl (fun b t => if al.getD t farCost < al.getD b farCost then t else b) 0, [])
  | y :: r, al =>
    let (t, out) := vitRun r (trForward true y al)
    let f := fun c => al.getD (trPrev t c) farCost + branch true y (t / 4) (trPrev t c)
    let st := if f 1 < f 0 then trPrev t 1 else trPrev t 0
    (st, (t / 4 % 2 != st / 4 % 2) :: out)

/-- A second 1 may stand at a bit of a row: the first of a chunk that follows another in rows 1 to 120 (R182). -/
def joinAt (row bit : Nat) : Bool := 1 ≤ row && row ≤ 120 && 64 < bit && bit < 7744 && bit % 64 == 0

/-- The bits of the row sync, first to last (R197). -/
def syncBits : List Bool := (upTo 64).map fun i => bitOf rowSync (63 - i)

/-- How many of 64 decided bits match the row sync; a bit that was not decided matches nothing (R258). -/
def syncScore (bits : List (Option Bool)) : Nat := ((bits.zip syncBits).filter fun p => p.1 == some p.2).length

/-- The chosen start among the 65 scores from −32 to +32, as an offset: the best score of 56 or more, between equal scores the
smaller offset, then the earlier start (R258). DEDUCED, assumption 36. -/
def bestStart (scores : List Nat) : Option (Int × Nat) :=
  (upTo 65).foldl (fun b i =>
    let v := scores.getD i 0
    let o : Int := (i : Int) - 32
    if v < 56 then b
    else match b with
      | none => some (o, v)
      | some (p, w) => if w < v ∨ (w = v ∧ o.natAbs < p.natAbs) then some (o, v) else b) none

/-! ### One row of a spot (R255 to R259) -/

/-- Positions before and after a row's window that the trellis also runs over. -/
def rowPad : Nat := 8

/-- What a spot gave for one position: outside its run, lost or blank, or an equaliser output. -/
inductive Cell where
  | outside
  | lost
  | out (y : Int)
deriving DecidableEq, Repr

/-- The output of a cell. -/
def Cell.y : Cell → Option Int
  | .out v => some v
  | _ => none

/-- A row as detected: the hard decisions, score and offset of its start (no score where it was taken by flywheel, no search where
the sync lies outside the run), the decisions of the detector from the start on, and the cells they were made from. -/
structure RowOut where
  searched : Bool
  start : Option (Int × Nat)
  hard : List (Option Bool)
  dec : List Decided
  cells : List Cell
deriving DecidableEq, Repr

/-- A row is detected from the cells of its window, which begins 32 + 8 positions before its predicted start and ends as many
after its end (R255 to R259). A row whose sync the spot did not pass over is placed at its prediction. DEDUCED, assumption 216. -/
def detectRow (row : Nat) (win : List Cell) : RowOut :=
  let ys := win.map Cell.y
  let (_, bs) := vitRun ys (List.replicate 8 0)
  let hard := (bs.zip ys).map fun p => if p.2.isSome then some p.1 else none
  let scores := (upTo 65).map fun i => syncScore ((hard.drop (rowPad + i)).take 64)
  let searched := !((win.drop rowPad).take 128).contains .outside
  let st := if searched then bestStart scores else none
  let at_ := (rowPad + 32 + (st.getD (0, 0)).1).toNat
  let opens := (upTo win.length).map fun i => at_ ≤ i && joinAt row (i - at_)
  let (_, ds) := mapRun (opens.zip ys) trStart
  { searched := searched, start := st, hard := ((hard.drop at_).take 7744),
    dec := (ds.drop at_).take 7744, cells := (win.drop at_).take 7744 }

/-- The log-likelihood ratio stored for a channel bit: scaled, rounded, of magnitude up to 3 (R256). The unit of the detector's
ratio is 4,096 squared output units. DESIGN CHOICE, assumption 217. -/
def softLlr (scale : Nat) (llr : Int) : Int := clampInt (-3) 3 (roundDiv (llr * scale) (64 * 4096))

/-- The values of a row: none outside the run, an erasure where it was lost (R130, R256). -/
def RowOut.values (r : RowOut) (scale : Nat) : List (Option Int) :=
  (r.cells.zip r.dec).map fun p => match p.1 with
    | .outside => none
    | .lost => some 0
    | .out _ => some (softLlr scale p.2.llr)

/-! ### The values of a frame (R256, R261, R262) -/

/-- Two values for one channel bit are summed, saturated to ±3 (R262). -/
def joinValue : Option Int → Option Int → Option Int
  | some a, some b => some (clampInt (-3) 3 (a + b))
  | some a, none => some a
  | none, b => b

/-- A row of values joins what an entry holds of it. -/
def joinRow (old new : List (Option Int)) : List (Option Int) :=
  (upTo 7744).map fun i => joinValue (old.getD i none) (new.getD i none)

/-- Every channel bit of a row holds a value or an erasure. -/
def Soft.rowFull (e : Soft) (row : Nat) : Bool :=
  match mfind e.rows row with
  | some r => r.length == 7744 && r.all Option.isSome
  | none => false

/-- Every channel bit of the slot holds a value or an erasure (R264). -/
def Soft.full (e : Soft) : Bool := (upTo 151).all e.rowFull

/-- The first bit of a slot for which nothing is stored, the slot's length where there is none. -/
def Soft.firstGap (e : Soft) : Nat :=
  match (upTo 151).find? fun r => !e.rowFull r with
  | none => 151 * 7744
  | some r => 7744 * r + ((mget [] e.rows r).takeWhile Option.isSome).length

/-- The 7,680 content values of a row, a missing one as an erasure, taken under a shift (R292). -/
def Soft.content (e : Soft) (shift : Int) (row : Nat) : Array Int :=
  let v := (((mget [] e.rows row).drop 64).map fun x => x.getD 0).toArray
  ((upTo 7680).map fun (i : Nat) =>
    let j := (i : Int) + shift
    if j < 0 ∨ 7680 ≤ j then 0 else v.getD j.toNat 0).toArray

/-- The content values of all rows, under shifts by row. -/
def Soft.contents (e : Soft) (shifts : List (Nat × Int)) : Array (Array Int) :=
  ((upTo 151).map fun r => e.content (mget 0 shifts r) r).toArray

/-- The value of a content bit of a row. -/
def contentAt (v : Array (Array Int)) (row i : Nat) : Int := (v.getD row #[]).getD i 0

/-- A 1 is likely. -/
def hardOf (v : Int) : Bool := 0 < v

/-! ### LDPC decoding (R207 to R209, R264, R290) -/

/-- The values of the 57,600 bits of codeword k, information bits then parity; a 1 at an inserted position makes the parity bit in
front of it an erasure (R198, R205, R209). -/
def cwValues (v : Array (Array Int)) (k : Nat) : List Int :=
  let at_ := fun i => let p := cwBitPlace k i; contentAt v p.1 p.2
  ((upTo 51200).map at_) ++ (upTo 6400).map fun t => if hardOf (at_ (51201 + 2 * t)) then 0 else at_ (51200 + 2 * t)

/-- The bits of check r of base row i (R207, R208). -/
def checkBits (i r : Nat) : List Nat :=
  (((upTo 64).filter (ldpcPresent i)).map fun j => 800 * j + (r + ldpcShift i j) % 800)
    ++ [51200 + 800 * i + r] ++ (if i = 0 then [] else [51200 + 800 * (i - 1) + r])

/-- The messages of one check to its bits: the sign that satisfies it, the least of the other magnitudes times 3/4. DESIGN CHOICE,
assumption 218. -/
def checkOut (qs : List Int) : List Int :=
  let mags := qs.map Int.natAbs
  let neg := qs.foldl (fun n q => if q < 0 then !n else n) false
  let m1 := mags.foldl min (2 ^ 62)
  let one := (mags.filter (· == m1)).length = 1
  let m2 := (mags.filter (· != m1)).foldl min (2 ^ 62)
  qs.map fun q =>
    let m : Int := (3 * (if one && q.natAbs == m1 then m2 else m1) / 4 : Nat)
    if (decide (q < 0)) != neg then -m else m

/-- One check is worked through: the values of its bits and its messages are renewed. -/
def checkStep (a : Array Int × List (List Int)) (p : (List Nat) × (List Int)) : Array Int × List (List Int) :=
  let qs := (p.1.zip p.2).map fun b => a.1.getD b.1 0 - b.2
  let ms := checkOut qs
  (((p.1.zip (qs.zip ms)).foldl (fun l b => l.setIfInBounds b.1 (b.2.1 + b.2.2)) a.1), ms :: a.2)

/-- The information and parity bits decided: a negative value is a 1. -/
def decidedCw (l : Array Int) : Nat × Nat :=
  let b := l.toList.map fun v => decide (v < 0)
  (bitsLsb (b.take 51200), bitsLsb (b.drop 51200))

/-- A codeword as the LDPC decoder left it: information and parity bits, iterations used, bits changed. -/
structure CwObs where
  info : Nat
  par : Nat
  iters : Nat
  changed : Nat
deriving DecidableEq, Repr

/-- Iterations over all checks, layer by layer, until the syndrome is zero or the limit is reached (R264). -/
def ldpcLoop : Nat → Nat → List (List Nat) → Array Int → List (List Int) → (Nat × Nat) × Nat
  | 0, n, _, l, _ => (decidedCw l, n)
  | k + 1, n, cs, l, ms =>
    let (l1, m1) := (cs.zip ms).foldl checkStep (l, [])
    let d := decidedCw l1
    if ldpcZero d.1 d.2 then (d, n + 1) else ldpcLoop k (n + 1) cs l1 m1.reverse

/-- All 6,400 checks, base row by base row. -/
def allChecks : List (List Nat) := (upTo 8).flatMap fun i => (upTo 800).map (checkBits i)

/-- Layered normalised min-sum over the values of a codeword, each counted with a weight (R264, R290, R308). -/
def ldpcDecode (weight : Nat) (maxIter : Nat) (vals : List Int) : CwObs :=
  let l := (vals.map fun v => -(weight : Int) * v).toArray
  let cs := allChecks
  let (d, n) := ldpcLoop maxIter 0 cs l (cs.map fun c => c.map fun _ => 0)
  let h := (bitsLsb ((vals.take 51200).map hardOf), bitsLsb ((vals.drop 51200).map hardOf))
  { info := d.1, par := d.2, iters := n, changed := popcount 51200 (d.1 ^^^ h.1) + popcount 6400 (d.2 ^^^ h.2) }

/-! ### The header (R212, R213) -/

/-- The 36 bytes that 450 values of row 0 stand for, none where a symbol is an erasure (R206, R212). -/
def headerFrom (v : Nat → Int) : Option (List Nat) :=
  let sy := (upTo 18).map fun m => zDecode ((upTo 25).map fun b => hardOf (v (25 * m + b)))
  if sy.all Option.isSome then some (bytesOfSymbols (sy.map fun x => x.getD 0)) else none

/-- The copies of the header in contents of row 0 that pass CRC-32. -/
def headerCopies (row0 : Array Int) : List (List Nat) :=
  ((upTo 17).filterMap fun c => headerFrom fun i => row0.getD (450 * c + i) 0).filter headerOk

/-- The bitwise soft combination of every copy of every row 0 given (R213, R308). DESIGN CHOICE, assumption 219. -/
def headerSum (rows : List (Array Int)) : Option (List Nat) :=
  (headerFrom fun i => rows.foldl (fun a r => (upTo 17).foldl (fun x c => x + r.getD (450 * c + i) 0) a) 0).filter headerOk

/-- The header accepted from rows 0 of one or more reads: a copy, or the combination of all (R213). -/
def headerOf (rows : List (Array Int)) : Option (List Nat) :=
  match rows.flatMap headerCopies with
  | h :: _ => some h
  | [] => headerSum rows

/-! ### One decode (R213, R264) -/

/-- A frame as a decode left it: the accepted header, its copies that passed CRC-32, the 18 codewords. -/
structure FrameObs where
  hdr : Option (List Nat)
  copies : Nat
  cws : List CwObs
deriving DecidableEq, Repr

/-- Every codeword of a frame is decoded from content values; one that `keep` gives is taken as it is. -/
def decodeWords (weight maxIter : Nat) (v : Array (Array Int)) (keep : Nat → Option CwObs) : List CwObs :=
  (upTo 18).map fun k => match keep k with
    | some c => c
    | none => ldpcDecode weight maxIter (cwValues v k)

/-- LLR weight of one read's values; the sums of four reads count a quarter (R308). -/
def readWeight : Nat := 16

/-- A frame's values are decoded (R264): header, then every codeword. -/
def decodeSoft (maxIter : Nat) (e : Soft) (shifts : List (Nat × Int)) (keep : Nat → Option CwObs) : FrameObs :=
  let v := e.contents shifts
  let r0 := v.getD 0 #[]
  { hdr := headerOf [r0], copies := (headerCopies r0).length, cws := decodeWords readWeight maxIter v keep }

/-- The codewords with a nonzero syndrome. -/
def badWords (cws : List CwObs) : List Nat :=
  (upTo 18).filter fun k => match cws[k]? with | some c => !ldpcZero c.info c.par | none => true

/-- The information bits of an attempt's codeword when it reached a zero syndrome. -/
def obsWord (cws : List CwObs) (k : Nat) : Option Nat :=
  match cws[k]? with | some c => if ldpcZero c.info c.par then some c.info else none | none => none

/-- The symbols of the 18 codewords, none where a codeword is erased. -/
def wordSymbols (get : Nat → Option Nat) : List (List (Option Nat)) :=
  (upTo 18).map fun k => match get k with
    | some info => cwSymbols info
    | none => List.replicate 2048 none

/-- Outer code, descrambling and the CRC-64 (R264): the user bytes when it passes, and the symbols restored. -/
def finishFrame (hdr : List Nat) (pfa : Nat) (get : Nat → Option Nat) : Option (List Nat) × Nat :=
  match outerDecode (wordSymbols get) with
  | (none, n) => (none, n)
  | (some data, n) =>
    let bytes := scramble pfa (data.flatMap bytesOfSymbols)
    (if crc64 bytes = hdrDataCrc hdr then some bytes else none, n)

/-! ### Rungs 2 and 3 on the values of a read (R290 to R295) -/

/-- The unsatisfied checks of a codeword. -/
def unsat (info par : Nat) : Nat := (upTo 8).foldl (fun a i => a + popcount 800 (ldpcChecks info par i)) 0

/-- Marks of the recorded bits of a codeword that take part in unsatisfied checks. -/
def markedBits (info par : Nat) : Nat :=
  let (a, b) := (upTo 8).foldl (fun (m : Nat × Nat) i =>
    let u := ldpcChecks info par i
    let im := (upTo 64).foldl (fun acc j =>
      if ldpcPresent i j then acc ||| (rot800 u (800 - ldpcShift i j) <<< (800 * j)) else acc) m.1
    (im, m.2 ||| (u <<< (800 * i)) ||| (if i = 0 then 0 else u <<< (800 * (i - 1))))) (0, 0)
  a + (spreadPairs 6400 b) <<< 51200

/-- The share of each row of a frame in those bits (R291). -/
def rowShares (cws : List CwObs) : List (Nat × Nat) :=
  (upTo 18).foldl (fun acc k =>
    match cws[k]? with
    | none => acc
    | some c =>
      let m := markedBits c.info c.par
      (upTo 1000).foldl (fun a q =>
        let n := popcount 64 (bitsOf m (64 * q) 64)
        if n = 0 then a else let r := 1 + (18 * q + k) / 120; mput a r (mget 0 a r + n)) acc) []

/-- Iterations of a ladder decode (R290). -/
def ladderIters : Nat := 96

/-- The suspect rows of a frame, in order, at most 8 (R291). -/
def suspects (e : Soft) (shares : List (Nat × Nat)) : List Nat :=
  let total := shares.foldl (fun a p => a + p.2) 0
  let missed := fun (r : Nat) => e.missed.contains (2 * r) || e.missed.contains (2 * r + 1)
  let score := fun (r : Nat) => min (mget 64 e.scores (2 * r)) (mget 64 e.scores (2 * r + 1))
  let share := fun (r : Nat) => mget 0 shares r
  let sus := (upTo 151).filter fun r => 0 < r && (missed r || score r < 62 || 2 * total < share r * 151)
  let key := fun (r : Nat) => (if missed r then 0 else 2 ^ 60) + score r * 2 ^ 40 + (2 ^ 32 - share r) * 2 ^ 8 + r
  ((sortNat (sus.map key)).map fun k => k % 256).take 8

/-- The unsatisfied checks of all 18 codewords on hard decisions (R293); the inserted zeros are left out. -/
def hardChecks (e : Soft) (shifts : List (Nat × Int)) : Nat :=
  let v := e.contents shifts
  (upTo 18).foldl (fun a k =>
    let bit := fun i => let p := cwBitPlace k i; hardOf (contentAt v p.1 p.2)
    let info := bitsLsb ((upTo 51200).map bit)
    let par := bitsLsb ((upTo 6400).map fun i => bit (51200 + 2 * i))
    a + unsat info par) 0

/-- The shifts of R293, in order. -/
def rowShiftTries : List Int := [1, -1, 2, -2, 3, -3, 4, -4]

/-- The shift kept for a row (R293). -/
def chooseShift (e : Soft) (shifts : List (Nat × Int)) (row : Nat) : List (Nat × Int) :=
  let base := hardChecks e shifts
  let best := rowShiftTries.foldl (fun (b : Option (Int × Nat)) t =>
    let n := hardChecks e (mput shifts row t)
    match b with
    | some (_, m) => if n < m then some (t, n) else b
    | none => some (t, n)) none
  match best with
  | some (t, n) => if 4 * n ≤ 3 * base then mput shifts row t else shifts
  | none => shifts

/-- The shift of row 0 that makes a header copy pass CRC-32, with that header (R295). -/
def shiftedHeader (e : Soft) : Option (List Nat) := rowShiftTries.findSome? fun t => (headerCopies (e.content t 0)).head?

/-- Rung 3 on the values of a read (R291 to R295): the shifts kept and the decode with them in place. `known` says that a header
has been accepted before. -/
def rowShift (e : Soft) (shares : List (Nat × Nat)) (known : Bool) : List (Nat × Int) × FrameObs :=
  let shifts := (suspects e shares).foldl (fun a r => chooseShift e a r) []
  let o := decodeSoft ladderIters e shifts fun _ => none
  (shifts, { o with hdr := match o.hdr with | some h => some h | none => if known then none else shiftedHeader e })

/-! ### Classes of a slot (R195) -/

/-- A slot under R195: blank, damaged, or valid with its header's ZONE_SEQ and its user bytes. -/
inductive SlotFound where
  | blank
  | damaged
  | valid (zoneSeq : Nat) (bytes : List Nat)
deriving DecidableEq, Repr

/-- What was read of a slot as a frame's values. -/
def slotSoft (r : SlotRead) : Soft :=
  let at_ := fun (p : RowRead × Nat) => 2 * p.2
  { slot := 0, rows := r.rows.zipIdx.map fun p => (p.2, List.replicate 64 (some 0) ++ p.1.soft.map some),
    missed := (r.rows.zipIdx.filter fun p => p.1.score < 56).map at_, scores := r.rows.zipIdx.map fun p => (at_ p, p.1.score) }

/-- A decode of the slot at an address of a disc: a header of it, accepted here or before, and the payload passing. -/
def slotPasses (pfa discId : Nat) (hdr : Option (List Nat)) (o : FrameObs) : Option (List Nat × List Nat) :=
  match hdr <|> o.hdr with
  | none => none
  | some h =>
    if hdrPfa h ≠ pfa ∨ hdrDiscId h ≠ discId then none else (finishFrame h pfa (obsWord o.cws)).1.map fun bytes => (h, bytes)

/-- The header and the user bytes that rungs 1 to 3 find in a slot of an address and a disc (R809). -/
def slotFrame (e : Soft) (o1 : FrameObs) (pfa discId : Nat) : Option (List Nat × List Nat) :=
  match slotPasses pfa discId none o1 with
  | some f => some f
  | none =>
    let o2 := decodeSoft ladderIters e [] fun k => if (badWords o1.cws).contains k then none else o1.cws[k]?
    match slotPasses pfa discId o1.hdr o2 with
    | some f => some f
    | none => slotPasses pfa discId o1.hdr (rowShift e (rowShares o2.cws) o1.hdr.isSome).2

/-- The class of a slot read, by its own address and the disc's identity (R195): from its row syncs, its header copies, and its
payload decoded with rungs 1 to 3 (R809). -/
def slotClass (r : SlotRead) (pfa discId : Nat) : SlotFound :=
  let e := slotSoft r
  let o := decodeSoft 32 e [] fun _ => none
  if (r.rows.all fun x => x.score < 56) && o.copies == 0 then .blank
  else
    match slotFrame e o pfa discId with
    | some (h, bytes) => .valid (hdrZoneSeq h) bytes
    | none => .damaged

end Sys2Proof.Machine
end

