-- ==== Sys2Proof/Machine/Calib.lean ====
section
/-!
DEFINITION. Rings of sectors as they are read, the records of CALIB, and what firmware loads from them (R243, R402, R796, R797, R799,
R910, R911).
-/

namespace Sys2Proof.Machine

/-- The sectors of a ring in use, with their SECTOR_SEQ, oldest first. -/
def State.ringSectors (s : State) (lo hi : Nat) : List (Nat × Nat) :=
  let heads := (s.flash.words.filter fun p => decide (secWord lo ≤ p.1) && decide (p.1 < secWord hi) && p.1 % sectorWords == 0).filterMap fun p =>
    match s.fval p.1 with
    | some v => if v % 65536 = 0x5AC7 then some (bitsOf v 24 32, p.1 / sectorWords) else none
    | none => none
  heads.foldl (fun l x => l.filter (fun y => y.1 < x.1) ++ [x] ++ l.filter fun y => !(y.1 < x.1)) []

/-! ### Records of 4-word groups (R799) -/

/-- The groups of a value of some bytes: 24 bytes in each. DEDUCED, assumption 151. -/
def groupsOf (len : Nat) : Nat := max 1 (ceilDiv len 24)

/-- The first word of a group, COMMIT_N clear. -/
def settingHead (key format len : Nat) : Nat := key + format * 2 ^ 16 + len * 2 ^ 32

/-- A record of CALIB or SETTINGS: KEY, FORMAT and the bytes of its value. -/
structure Setting where
  key : Nat
  format : Nat
  bytes : List Nat
deriving DecidableEq, Repr

/-- The words of a group that lies at an index: its first word and 24 bytes; none where a word does not decode. -/
def State.groupAt (s : State) (i : Nat) : Option (Nat × List Nat) :=
  match s.fval i, s.fval (i + 1), s.fval (i + 2), s.fval (i + 3) with
  | some a, some b, some c, some d => some (a, bytesLE 8 b ++ bytesLE 8 c ++ bytesLE 8 d)
  | _, _, _, _ => none

/-- The bytes of n groups from an index on, all under one first word, of which the last alone may have had COMMIT_N. -/
def State.groupsFrom (s : State) (head : Nat) : Nat → Nat → Option (List Nat)
  | 0, _ => some []
  | n + 1, i =>
    match s.groupAt i with
    | some (a, bs) => if a = head then (s.groupsFrom head n (i + 4)).map fun r => bs ++ r else none
    | none => none

/-- The record that begins at an index, where a committed one does. -/
def State.settingAt (s : State) (i : Nat) : Option Setting :=
  match s.fval i with
  | none => none
  | some a =>
    let len := bitsOf a 32 16
    if 2 ^ 48 ≤ a then none
    else (s.groupsFrom a (groupsOf len) i).map fun b => { key := a % 65536, format := bitsOf a 16 16, bytes := b.take len }

/-- The committed records among some words of a sector, each behind the end of the one before it. -/
def State.settingsIn (s : State) : Nat → List (Nat × FWord) → List Setting
  | _, [] => []
  | from_, (i, _) :: r =>
    if i < from_ then s.settingsIn from_ r
    else
      match s.settingAt i with
      | some x => x :: s.settingsIn (i + 4 * groupsOf x.bytes.length) r
      | none => s.settingsIn (i + 4) r

/-- The committed records of CALIB, oldest first. -/
def State.calibRecords (s : State) : List Setting :=
  (s.ringSectors 148 164).flatMap fun x => s.settingsIn 0 (s.fwords (secWord x.2 + 1) (secWord (x.2 + 1)))

/-- The record in force of a KEY: the latest committed one. -/
def State.calibInForce (s : State) (key : Nat) : Option Setting :=
  (s.calibRecords.filter fun x => x.key == key).getLast?

/-- The value of a KEY as this firmware takes it: FORMAT 1 of R910, else its default (R799, R911). -/
def State.calib (s : State) (key : Nat) : Option (List Nat) :=
  match s.calibInForce key with
  | some x => if x.format = 1 then some x.bytes else none
  | none => none

/-- The KEYs whose record in force this firmware takes as default, with the FORMAT found. DESIGN CHOICE, assumption 181. -/
def State.calibReset (s : State) : List (Nat × Nat) :=
  ((s.calibRecords.map Setting.key).eraseDups.filterMap s.calibInForce).filterMap fun x =>
    if x.format = 1 then none else some (x.key, x.format)

/-- n bytes of a value from an offset, as a number. -/
def valueAt (bytes : List Nat) (off n : Nat) : Nat := ofBytesLE ((bytes.drop off).take n)

/-! ### What firmware loads (R910) -/

/-- The fields of CAL_PORT in the order of the record of R910: PHASE, CTLE, taps 1 to 6, a byte each. -/
def portFields : List Fld :=
  [Reg.CAL_PORT0_PHASE, Reg.CAL_PORT0_CTLE, Reg.CAL_PORT2_TAP1, Reg.CAL_PORT2_TAP2, Reg.CAL_PORT1_TAP3, Reg.CAL_PORT1_TAP4,
   Reg.CAL_PORT1_TAP5, Reg.CAL_PORT1_TAP6]

/-- At training a port's adaptation starts from its record. -/
def State.loadPort (s : State) (p : Nat) : State :=
  match s.calib (0x100 + p) with
  | none => [0, 1].foldl (fun t l => portFields.foldl (fun u f => u.wr f (2 * p + l) (f.rst 0)) t) s
  | some b => [0, 1].foldl (fun t l => portFields.zipIdx.foldl (fun u q => u.wr q.1 (2 * p + l) (b.getD (8 * l + q.2) 0)) t) s

/-- The four values of SLC_OFS. -/
def ofsFields : List Fld := [Reg.SLC_OFS_LEAD_OFS, Reg.SLC_OFS_TRAIL_OFS, Reg.SLC_OFS_LEAD_GAIN, Reg.SLC_OFS_TRAIL_GAIN]

/-- At slice assignment SLC_OFS takes the head's record. -/
def State.loadOfs (s : State) (sl h : Nat) : State :=
  match s.calib (0x400 + h) with
  | none => ofsFields.foldl (fun t f => t.wr f sl (f.rst sl)) s
  | some b => ofsFields.zipIdx.foldl (fun t q => t.wr q.1 sl (b.getD q.2 0)) s

/-- The taps of filter f that exist (R251). DEDUCED, assumption 179. -/
def eqTaps (f : Nat) : Nat := if f = 0 ∨ f = 3 then 15 else 7

/-- The instances of the coefficients of a set. DEDUCED, assumption 179. -/
def eqSet (sl set : Nat) : List Nat :=
  (upTo 4).flatMap fun f => (upTo (eqTaps f)).map fun t => ((sl * 6 + set) * 4 + f) * 16 + t

/-- The coefficients of a set. -/
def State.eqGet (s : State) (sl set : Nat) : List Nat := (eqSet sl set).map fun i => s.rd Reg.SLC_EQ_SET_COEF i

/-- A set takes coefficients. -/
def State.eqPut (s : State) (sl set : Nat) (v : List Nat) : State :=
  ((eqSet sl set).zip v).foldl (fun t p => t.wr Reg.SLC_EQ_SET_COEF p.1 p.2) s

/-- The starting equaliser set of a head and layer goes to SHADOW and is committed, at assignment and at a layer jump, when no row
is in progress (R243, R253). DESIGN CHOICE, assumption 181. -/
def State.loadEq (s : State) (sl h layer : Nat) : State :=
  let b := (s.calib (0x1000 + 16 * h + layer)).getD []
  let v := (upTo 44).map fun i => valueAt b (2 * i) 2
  (s.eqPut sl 1 v).eqPut sl 0 v

/-- At mount TRIM_OFS and the layer values of a head are loaded, the reset values without a record (R402, R904, R910, R911). DESIGN CHOICE, assumption 180. -/
def State.loadHead (s : State) (h : Nat) : State :=
  let trim := match s.calib (0x600 + h) with
    | some b => valueAt b 0 4
    | none => 0
  let s1 := s.wr Reg.LPE_PRM_VALUE (2560 + h) trim
  let put := fun (t : State) (l : Nat) =>
    let i := h * 16 + l
    match s.calib (0x800 + h) with
    | some b => (t.wr Reg.STN_HD_LAYER_REL_REL_NOM i (valueAt b (3 * l) 3)).wr Reg.STN_HD_LAYER_SA_SA i (valueAt b (48 + 3 * l) 3)
    | none =>
      (t.wr Reg.STN_HD_LAYER_REL_REL_NOM i (Reg.STN_HD_LAYER_REL_REL_NOM.rst i)).wr Reg.STN_HD_LAYER_SA_SA i (Reg.STN_HD_LAYER_SA_SA.rst i)
  (upTo 16).foldl put s1

/-! ### Writing a record (R798, R799) -/

/-- The words of a record: groups under one first word; COMMIT_N is in the first word of the last one. -/
def settingWords (x : Setting) : Nat → List Nat
  | 0 => []
  | n + 1 =>
    let h := settingHead x.key x.format x.bytes.length
    let k := groupsOf x.bytes.length - (n + 1)
    (if n = 0 then h + 2 ^ 63 else h) :: ((upTo 3).map fun j => valueAt x.bytes (24 * k + 8 * j) 8) ++ settingWords x n

end Sys2Proof.Machine
end

