-- ==== Sys2Proof/Machine/TallyOps.lean ====
section
/-!
DEFINITION. The tally's store as it stands, its open interval and closing slots, the close of an interval, and what a jump of
TIME does to them (R80, R820 to R829, R835, R836, R839, R840).
-/

namespace Sys2Proof.Machine

/-! ### The store (R836, R839) -/

/-- Slots of the TALLY partition. -/
def tallySlots : Nat := 131072

/-- The first word of a slot. -/
def tallyWord (slot : Nat) : Nat := secWord 228 + 8 * slot

/-- Slots that are not wholly erased. -/
def State.usedSlots (s : State) : List Nat :=
  ((s.fwords (secWord 228) (secWord 356)).map fun p => (p.1 - secWord 228) / 8).eraseDups

/-- The eight words of a slot that holds a record: COMMIT_N reads 0 and every word decodes (R797, R837). -/
def State.tallyRecord (s : State) (slot : Nat) : Option (List Nat) :=
  let ws := (upTo 8).map fun k => s.fval (tallyWord slot + k)
  let vs := ws.map fun w => w.getD 0
  if ws.all Option.isSome && !bitOf (vs.headD 0) 63 && !s.tally.abandoned.contains slot then some vs else none

/-- SEQ of a record. -/
def recSeq (r : List Nat) : Nat := bitsOf (r.getD 1 0) 0 48

/-- TYPE of a record. -/
def recType (r : List Nat) : Nat := bitsOf (r.headD 0) 0 4

/-- The records held, with their slots. -/
def State.tallyRecords (s : State) : List (Nat × List Nat) := s.usedSlots.filterMap fun i => (s.tallyRecord i).map fun r => (i, r)

/-- The newest record held. -/
def State.newestRecord (s : State) : Option (Nat × List Nat) :=
  s.tallyRecords.foldl (fun m x =>
    match m with
    | none => some x
    | some y => if recSeq y.2 < recSeq x.2 then some x else some y) none

/-- The newest SEQ written; 0 when the store is empty. -/
def State.newestSeq (s : State) : Nat := match s.newestRecord with | some x => recSeq x.2 | none => 0

/-- The oldest SEQ held; 0 when the store is empty. -/
def State.oldestSeq (s : State) : Nat :=
  match s.tallyRecords with
  | [] => 0
  | x :: r => r.foldl (fun m y => min m (recSeq y.2)) (recSeq x.2)

/-- The first slot from a place on that is not used; at most n used ones are passed over. DESIGN CHOICE, assumption 156. -/
def freeSlot (used : List Nat) : Nat → Nat → Nat
  | 0, i => i % tallySlots
  | n + 1, i => if used.contains (i % tallySlots) then freeSlot used n (i + 1) else i % tallySlots

/-- The slot that takes the next record. DESIGN CHOICE, assumption 156. -/
def State.nextSlot (s : State) : Nat :=
  let used := s.usedSlots
  freeSlot used used.length (match s.newestRecord with | some x => x.1 + 1 | none => 0)

/-- F: erased slots that follow the newest record, counted contiguously; abandoned slots are passed over (R837, R839). -/
def State.tallyFree (s : State) : Nat :=
  let i := s.nextSlot
  s.usedSlots.foldl (fun m u => min m ((u + tallySlots - i) % tallySlots)) tallySlots

/-! ### Intervals (R823 to R828, R835, R840) -/

def flCoarse : Nat := 1
def flHoldover : Nat := 2
def flFree : Nat := 4
def flJump : Nat := 8
def flCarried : Nat := 16
def flPf : Nat := 32
def flSaturated : Nat := 64
def flMemErr : Nat := 128
def flTest : Nat := 256

/-- The greatest value of each counter, R821. -/
def counterMax (i : Nat) : Nat := [2 ^ 48 - 1, 2 ^ 48 - 1, 2 ^ 56 - 1, 2 ^ 40 - 1].getD i 0

/-- The tally has started and has no fault: it counts. DESIGN CHOICE, assumption 162. -/
def State.tallyOn (s : State) : Bool := s.flag Reg.TALLY_STATUS_RUNNING 0 && !s.flag Reg.TALLY_STATUS_FAULT 0

/-- The flags whose conditions hold now (R827). -/
def State.flagsNow (s : State) : Nat :=
  let st := s.rd Reg.TIME_STATUS_STATE 0
  (if s.isCoarse then flCoarse else 0) ||| (if st = 3 then flHoldover else 0) ||| (if st = 0 then flFree else 0)

/-- A condition of R827 held in the open interval. -/
def State.markInterval (s : State) (f : Nat) : State := { s with tally := { s.tally with flags := s.tally.flags ||| f } }

/-- The linear count of the first minute boundary after a linear count; TIME_SEC wraps to 0, which is one too (R51, R825). -/
def nextBoundary (t : Nat) : Nat := min ((t / hz / 60 + 1) * 60) (2 ^ 32) * hz

/-- An interval opens at a TIME_SEC. -/
def State.openInterval (s : State) (sec : Nat) : State :=
  let s1 := s.wr Reg.TALLY_OPEN_START_SEC 0 sec
  { s1 with tally := { s1.tally with open_ := [], saturated := [], tests := [], flags := s.flagsNow, next := nextBoundary s.lin } }

/-- An account's counts with an amount added; a counter that would pass its maximum stays there and says so (R824). -/
def addCount (counts : List Nat) (i n : Nat) : List Nat × Bool :=
  let v := counts.getD i 0 + n
  ((upTo 4).map (fun k => if k = i then min (counterMax i) v else counts.getD k 0), decide (counterMax i < v))

/-- An amount is added to an account's open count (R821, R823, R824); `test` marks an injection of the test port. -/
def State.countOpen (s : State) (acct i n : Nat) (test : Bool) : State :=
  let old := mget [0, 0, 0, 0] s.tally.open_ acct
  let (c, sat) := addCount old i n
  let s1 : State := { s with tally := { s.tally with
    open_ := mput s.tally.open_ acct c, flags := s.tally.flags ||| (if s.isCoarse then flCoarse else 0),
    saturated := if sat then s.tally.saturated ++ [acct] else s.tally.saturated,
    tests := if test then s.tally.tests ++ [acct] else s.tally.tests } }
  if sat && old.getD i 0 != counterMax i then s1.raise 0x0C03 [acct, i] else s1

/-- Tap events that happened before a moment are taken. -/
def State.takeTaps (s : State) (before : Nat) : State :=
  let go := s.tally.taps.filter fun t => decide (t.2.2.2 < before)
  let s1 : State := { s with tally := { s.tally with taps := s.tally.taps.filter fun t => !decide (t.2.2.2 < before) } }
  if s.tally.pfClosed then s1 else go.foldl (fun t x => t.countOpen x.1 x.2.1 x.2.2.1 false) s1

/-- One account's open counts move into its closing slot (R825, R826); `lost` are the counters that neither copy holds (R820). -/
def State.closeAccount (s : State) (sec : Nat) (lost : List Nat) (acct : Nat) : State :=
  let o := mget [0, 0, 0, 0] s.tally.open_ acct
  let counts := (upTo 4).map fun i => if lost.contains i then 0 else o.getD i 0
  let s1 := if lost.isEmpty then s else s.raise 0x0C02 [acct]
  match mfind s.tally.closing acct, counts.all (· == 0) with
  | none, true => s1
  | old, _ =>
    let c := old.getD { start := s.rd Reg.TALLY_OPEN_START_SEC 0, end_ := sec, minutes := 0, flags := 0, counts := [0, 0, 0, 0],
                        cell := s.cell, isSealed := s.sealed }
    if c.pf then s1
    else
      let sums := (upTo 4).map fun i => c.counts.getD i 0 + counts.getD i 0
      let sat := (upTo 4).filter fun i => decide (counterMax i < sums.getD i 0)
      let f := c.flags ||| s.tally.flags ||| (if s.tally.saturated.contains acct || !sat.isEmpty then flSaturated else 0)
        ||| (if lost.isEmpty then 0 else flMemErr) ||| (if s.tally.tests.contains acct then flTest else 0)
      let c1 := { c with end_ := sec, minutes := min 0xFFFF (c.minutes + 1), flags := f, cell := s.cell, isSealed := s.sealed,
                         counts := (upTo 4).map fun i => min (counterMax i) (sums.getD i 0) }
      let s2 : State := { s1 with tally := { s1.tally with closing := mput s1.tally.closing acct c1 } }
      (sat.filter fun i => c.counts.getD i 0 != counterMax i).foldl (fun t i => t.raise 0x0C03 [acct, i]) s2

/-- Every account's open counts move into its closing slot, in one cycle (R825). DESIGN CHOICE, assumption 154. -/
def State.closeAll (s : State) (sec : Nat) (lost : List (Nat × Nat)) : State :=
  let s0 := s.markInterval s.flagsNow
  let accts := (s0.tally.open_.map Prod.fst ++ s0.tally.closing.map Prod.fst ++ lost.map Prod.fst).eraseDups
  accts.foldl (fun t a => t.closeAccount sec ((lost.filter fun p => p.1 == a).map Prod.snd) a) s0

/-- Closing slots in the order in which they are written: ascending START_SEC, then account (R840). -/
def insertClosing (x : Nat × Closing) : List (Nat × Closing) → List (Nat × Closing)
  | [] => [x]
  | y :: r => 
    if y.2.start < x.2.start ∨ (y.2.start = x.2.start ∧ y.1 < x.1) then y :: insertClosing x r else x :: y :: r

/-- The closing slots in that order. DESIGN CHOICE, assumption 155. -/
def State.closingOrder (s : State) : List (Nat × Closing) := s.tally.closing.foldl (fun l x => insertClosing x l) []

/-- At a boundary outside BANKED, closing slots that find no room carry; TALLY_CARRY is raised once (R829, R840). -/
def State.markCarry (s : State) (sec : Nat) : State :=
  if s.mode = mBanked ∨ s.tally.pfClosed then s
  else
    let n := s.tallyFree
    let late := ((s.closingOrder.filter fun p => !p.2.pf).zipIdx.filter fun q => q.1.2.carried || decide (n ≤ 5120 + q.2)).map fun q => q.1.1
    if late.isEmpty then s
    else
      let mark := fun (p : Nat × Closing) => if late.contains p.1 then (p.1, { p.2 with carried := true }) else p
      let s1 : State := { s with tally := { s.tally with closing := s.tally.closing.map mark } }
      (s1.bump Reg.TALLY_COUNT_CARRY 0 1).raise 0x0C04 [sec, late.length]

/-- The boundary that TIME reached next is past: the interval closes at it, and the next one opens. -/
def State.crossBoundary (s : State) (lost : List (Nat × Nat)) : State :=
  let b := s.tally.next
  let sec := b / hz % 2 ^ 32
  let late := (timeDiff s.lin (b % linMod)).toNat
  let s1 := (s.takeTaps (s.now - late)).closeAll sec lost
  let s2 := s1.openInterval sec
  let s3 : State := { s2 with tally := { s2.tally with next := nextBoundary (b % linMod) } }
  s3.markCarry sec

/-- The next boundary has been reached. -/
def State.boundaryDue (s : State) : Bool := s.tallyOn && decide (0 ≤ timeDiff s.lin (s.tally.next % linMod))

/-- Boundaries that commands before this one have passed, at most n of them. -/
def State.catchUp : Nat → State → State
  | 0, s => s
  | n + 1, s => if s.boundaryDue then State.catchUp n (s.crossBoundary []) else s

/-- Every boundary passed by now has closed its interval. DESIGN CHOICE, assumption 154. -/
def State.passBoundaries (s : State) : State :=
  State.catchUp ((timeDiff s.lin (s.tally.next % linMod)).toNat / (60 * hz) + 2) s

/-- A record other than MINUTE becomes due, with what stands in it now. -/
def State.tallyDue (s : State) (type start end_ : Nat) (body : List Nat) : State :=
  { s with tally := { s.tally with due := s.tally.due ++
    [{ type := type, start := start, end_ := end_, cell := s.cell, isSealed := s.sealed, body := body }] } }

/-- TIME has jumped by d ticks: 0 a step, 1 a load, 2 a stack load. A move forward across boundaries closes the open interval,
with END_SEC the last boundary crossed; a TIME_JUMP record becomes due (R80, R828). DESIGN CHOICE, assumptions 154 and 160. -/
def State.tallyJump (s : State) (kind : Nat) (d : Int) : State :=
  if !s.tallyOn then s
  else
    let before := ((s.lin : Int) - d) % (linMod : Int)
    let s0 := (s.setLin before.toNat).passBoundaries.setLin s.lin
    let s1 := (s0.takeTaps s.now).markInterval flJump
    let last := s.lin / hz / 60 * 60
    let crossed := decide (0 < d) && decide (before < ((last * hz : Nat) : Int))
    let s2 := if crossed then
        let t := (s1.closeAll last []).openInterval last
        t.markCarry last
      else { s1 with tally := { s1.tally with next := nextBoundary s.lin } }
    s2.tallyDue 2 (before.toNat / hz) (s.lin / hz) (bytesLE 8 (unsignedOf 64 d) ++ [kind])

end Sys2Proof.Machine
end

