-- ==== Sys2Proof/Machine/Time.lean ====
section
/-!
DEFINITION. The timebase: TIME and its coarse counter, the discipline loop, loads and steps, launches and the seek
slots of the vibration groups (R49 to R98).
-/

namespace Sys2Proof.Machine

/-! ### The discipline loop (R56 to R68) -/

def dFree : Nat := 0
def dAcquire : Nat := 1
def dLocked : Nat := 2
def dHoldover : Nat := 3
def dStack : Nat := 4

/-- SLEW_LIMIT, values below 40,000 acting as 40,000. -/
def State.slewLimit (s : State) : Nat := max 40000 (s.rd Reg.TIME_DISC_SLEW_LIMIT 0)

/-- SLEW_MAX in ppm, 1 to 100. -/
def State.slewMax (s : State) : Nat := clampNat 1 100 (s.rd Reg.TIME_DISC_SLEW_MAX 0)

/-- STEP_CONFIRM, 0 acting as 1. -/
def State.stepConfirm (s : State) : Nat := s.rd1 Reg.TIME_DISC_STEP_CONFIRM 0

/-- The slew term asked for in ppb: against the error, at SLEW_MAX as it stood when the slew began (R61). DESIGN CHOICE, assumption
21. -/
def Timebase.slewAsked (tb : Timebase) : Int :=
  if tb.slewErr = 0 then 0 else if 0 < tb.slewErr then -((tb.slewRate * 1000 : Nat) : Int) else ((tb.slewRate * 1000 : Nat) : Int)

/-- A correction limited to ±100 ppm (R65). -/
def limitPpb (x : Int) : Int := clampInt (-100000) 100000 x

/-- The rate at which the slew removes its error, in ppb: what the limited sum leaves of the term asked for (R61, R65). -/
def Timebase.slewPpb (tb : Timebase) : Nat := (limitPpb (tb.freq + tb.slewAsked) - limitPpb tb.freq).natAbs

/-- The ticks of its error that the slew has removed by an elapsed time. DESIGN CHOICE, assumption 22. -/
def Timebase.slewed (tb : Timebase) (now : Nat) : Int :=
  let n := min tb.slewErr.natAbs (tb.slewPpb * (now - tb.slewStart) / 1000000000)
  if tb.slewErr < 0 then -(n : Int) else (n : Int)

/-- The ticks that all slews have removed by an elapsed time. -/
def Timebase.slewTotal (tb : Timebase) (now : Nat) : Int := tb.slewSum + tb.slewed now

/-- The slew term now, in ppb: against the error while any of it is left, zero once it is removed (R61). DESIGN CHOICE, assumption
22. -/
def State.slewTerm (s : State) : Int := if s.tb.slewed s.now = s.tb.slewErr then 0 else s.tb.slewAsked

/-- The correction in force, limited to ±100 ppm (R65). -/
def State.correction (s : State) : Int := limitPpb (s.tb.freq + s.slewTerm)

/-- Is the correction at its limit? -/
def State.atLimit (s : State) : Bool := s.correction = 100000 || s.correction = -100000

/-- FREQ_AT_LIMIT is raised when the limit is entered (R65). TIME_FREQ and FREQ_LIM show the correction at the moment they are read
(`State.shown`). -/
def State.showFreq (s : State) (wasAt : Bool) : State :=
  if s.atLimit && !wasAt then s.raise 0x0206 (i1 s.correction) else s

/-- A slew of e ticks begins now (R61); zero ends any slew. DESIGN CHOICE, assumption 21. -/
def State.slew (s : State) (e : Int) : State :=
  { s with tb := { s.tb with slewSum := s.tb.slewTotal s.now, slewErr := e, slewStart := s.now, slewRate := s.slewMax } }

/-- STACK is left for another state, where it was in force (R96). -/
def State.noStack (s : State) : State := if s.rd Reg.TIME_STATUS_STATE 0 = dStack then s.raise 0x0208 [0] else s

/-- ACQUIRE is entered, with the count of good edges and the list of large errors started afresh (R66). -/
def State.enterAcquire (s : State) : State :=
  let s1 := (s.noStack.wr Reg.TIME_STATUS_STATE 0 dAcquire).setLocked false
  { s1 with tb := { s1.tb with lockRun := 0, stepErrs := [], holdFrom := s.now } }

/-- HOLDOVER is entered: the frequency term is kept, the slew term is zero, and no accepted edge is held (R58, R66). A step that
is pending stays so. DESIGN CHOICE, assumption 204. -/
def State.enterHoldover (s : State) : State :=
  let s1 := (s.noStack.wr Reg.TIME_STATUS_STATE 0 dHoldover).setLocked false
  let s2 := s1.slew 0
  let s3 : State := { s2 with tb := { s2.tb with lastAcc := none, cand := none, lockRun := 0, stepErrs := [] } }
  let s4 := s3.markInterval flHoldover
  (s4.showFreq s.atLimit).raise 0x0202 (i1 s4.tb.freq)

/-- The phase error of a captured TIME_TICK, R59. DESIGN CHOICE, assumption 23. -/
def phaseError (tick : Nat) : Int := if tick < 750000000 then (tick : Int) else (tick : Int) - (hz : Int)

/-- The nearest multiple of 80,000 to an error, halves away from zero (R62). -/
def stepAmount (e : Int) : Int := roundDiv e 80000 * 80000

/-- The errors differ pairwise by no more than a limit. -/
def agree (lim : Nat) (l : List Int) : Bool := l.all fun a => l.all fun b => (a - b).natAbs ≤ lim

/-- The frequency error of the unsteered reference that an interval shows, in ppb: the error of the interval under the frequency
term in force, plus that term (R60). The interval stands as it were without the ticks that slews removed in it. DESIGN CHOICE,
assumption 18. -/
def freqError (iv : Int) (term : Int) : Int := roundDiv (((hz : Int) - iv) * 2) 3 + limitPpb term

/-- Coarse TIME moved to the second boundary nearest to an accepted edge (R69). DESIGN CHOICE, assumption 23. -/
def State.coarseSnap (s : State) : State :=
  if s.tb.tick < 750000000 then { s with tb := { s.tb with tick := 0 } }
  else { s with tb := { s.tb with tick := 0, sec := (s.tb.sec + 1) % 2 ^ 32 } }

/-- What the phase error of an accepted reference does to the discipline state and the lock count (R58, R66, R67); `fresh` starts
acquisition again. In STACK the lock is lost as LOCKED is left. DEDUCED, assumption 20. -/
def State.judgeRef (s : State) (e : Int) (fresh : Bool) : State :=
  let st := s.rd Reg.TIME_STATUS_STATE 0
  let win := s.rd Reg.TIME_LOCK_LOCK_WINDOW 0
  let far := 4 * win < e.natAbs
  let s1 := if st = dStack then (if far then s.setLocked false else s)
    else if fresh ∨ st = dFree ∨ st = dHoldover ∨ (st = dLocked ∧ far) then s.enterAcquire else s
  { s1 with tb := { s1.tb with lockRun := if e.natAbs ≤ win then s1.tb.lockRun + 1 else 0 } }

/-- LOCKED is entered, or the lock of STACK holds, once LOCK_COUNT accepted references in a row were within LOCK_WINDOW (R66). -/
def State.lockDue (s : State) (e : Int) : State :=
  if s.rd1 Reg.TIME_LOCK_LOCK_COUNT 0 ≤ s.tb.lockRun then
    if s.rd Reg.TIME_STATUS_STATE 0 = dAcquire then ((s.wr Reg.TIME_STATUS_STATE 0 dLocked).setLocked true).raise 0x0201 (i1 e)
    else if s.rd Reg.TIME_STATUS_STATE 0 = dStack then s.setLocked true
    else s
  else s

/-- What an accepted reference with phase error e and interval iv does to the frequency, slew and step terms and the lock count,
in ACQUIRE, LOCKED or STACK (R60 to R67). `fresh` starts acquisition again. DESIGN CHOICE, assumption 18. -/
def State.discipline (s : State) (iv : Nat) (e : Int) (fresh : Bool) : State :=
  let wasAt := s.atLimit
  let s1 := s.judgeRef e fresh
  let st1 := s1.rd Reg.TIME_STATUS_STATE 0
  let total := s.tb.slewTotal s.now
  let removed := total - (if fresh then s.tb.candSlew else s.tb.accSlew)
  let meas := freqError ((iv : Int) + removed) s.tb.freq
  let locked := st1 = dLocked ∨ (st1 = dStack ∧ s1.flag Reg.GCTL_STATUS_TIME_LOCKED 0)
  let freq := if locked then s.tb.freq + roundDiv (meas - s.tb.freq) 16 else meas
  let big := s1.slewLimit < e.natAbs
  let noStep := s1.flag Reg.TIME_CTRL_NO_STEP 0
  let errs := if big then (e :: s1.tb.stepErrs).take 15 else []
  let s2 := s1.slew 0
  let s3 : State := { s2 with tb := { s2.tb with freq := freq, stepErrs := errs, accSlew := total } }
  let s4 := s3.slew (if big && !noStep then 0 else e)
  let recent := errs.take s4.stepConfirm
  let s5 :=
    if big && !noStep && recent.length == s4.stepConfirm && agree s4.slewLimit recent then
      ({ s4 with tb := { s4.tb with stepPending := some (stepAmount e, e) } } : State).set1 Reg.TIME_STATUS_STEP_PENDING 0
    else s4
  (s5.showFreq wasAt).lockDue e

/-- A captured edge is accepted (R57 to R62, R69). While CCLK is stopped the synthesiser is not steered: the edge moves coarse TIME
and counts toward the lock. DESIGN CHOICE, assumption 205. -/
def State.acceptEdge (s : State) (iv : Nat) (fresh : Bool) : State :=
  let e := phaseError s.tb.tick
  let s1 := s.wrS Reg.TIME_ERR_ERR 0 e
  let s2 : State := { s1 with tb := { s1.tb with lastAcc := some s.now, cand := none, holdFrom := s.now } }
  if s.tb.cclk then s2.discipline iv e fresh
  else
    let s3 := (s2.judgeRef e fresh).coarseSnap
    ({ s3 with tb := { s3.tb with accSlew := s3.tb.slewTotal s3.now } } : State).lockDue e

/-- The edge captured now is the candidate reference (R58). -/
def State.setCand (s : State) : State :=
  { s with tb := { s.tb with cand := some s.now, candSlew := s.tb.slewTotal s.now } }

/-- A captured edge is rejected and becomes the candidate reference (R57, R58). -/
def State.rejectEdge (s : State) (iv : Nat) : State :=
  ((s.set1 Reg.TIME_STATUS_PPS_REJ 0).raise 0x0204 (w2 iv)).setCand

/-- An interval is a second within ±1,500,000 cycles (R57). -/
def intervalOk (iv : Nat) : Bool := 1498500000 ≤ iv && iv ≤ 1501500000

/-- An edge captured at TIME now (R56 to R58). An edge within tolerance of the accepted edge is accepted by that interval, whatever
its interval from the candidate; the datum of PPS_REJECTED is the interval from the candidate where no accepted edge is held.
DESIGN CHOICE, assumption 206. -/
def State.captureEdge (s : State) : State :=
  let s1 := s.wr Reg.TIME_PPS_CAP_CAP 0 s.time
  match s1.tb.lastAcc, s1.tb.cand with
  | none, none => s1.setCand
  | none, some c => if intervalOk (s1.now - c) then s1.acceptEdge (s1.now - c) true else s1.rejectEdge (s1.now - c)
  | some a, none => if intervalOk (s1.now - a) then s1.acceptEdge (s1.now - a) false else s1.rejectEdge (s1.now - a)
  | some a, some c =>
    if intervalOk (s1.now - a) then s1.acceptEdge (s1.now - a) false
    else if intervalOk (s1.now - c) then s1.acceptEdge (s1.now - c) true
    else s1.rejectEdge (s1.now - a)

/-- PPS_EDGE: an edge of PPS_IN dt cycles after the last command. An edge of the other polarity, with PPS_EN 0, or in STACK, does
nothing (R56, R68). DESIGN CHOICE, assumption 2. -/
def execPpsEdge (dt : Nat) (fall : Bool) (s : State) : Res :=
  let s1 := s.advance dt
  if s1.flag Reg.TIME_CTRL_PPS_EN 0 && (s1.flag Reg.TIME_CTRL_PPS_FALL 0 == fall)
      && s1.rd Reg.TIME_STATUS_STATE 0 != dStack then .next s1.captureEdge
  else .next s1

/-- TIME has jumped: an event of its own, and a report to the tally (R80); 0 a step, 1 a load, 2 a stack load. DESIGN CHOICE,
assumption 19. -/
def State.jumped (s : State) (code kind : Nat) (d : Int) : State := (s.raise code (i2 d)).tallyJump kind d

/-- No step is pending any more. -/
def State.dropStep (s : State) : State :=
  ({ s with tb := { s.tb with stepPending := none } } : State).clr Reg.TIME_STATUS_STEP_PENDING 0

/-- NO_STEP is 1: a step that was pending is not taken, and its error is slewed instead (R64). -/
def State.forbidStep (s : State) : State :=
  match s.tb.stepPending with
  | none => s
  | some (_, e) => (s.dropStep.slew e).showFreq s.atLimit

/-- TIME_STEP: a pending step takes effect at the next T mod 80,000 = 0 (R62, R63). The residual is slewed. DESIGN CHOICE,
assumption 19. -/
def execTimeStep (s : State) : Res :=
  match s.tb.stepPending with
  | none => .next s
  | some (d, e) =>
    if s.flag Reg.TIME_CTRL_NO_STEP 0 then .next s.forbidStep else
    let s1 := (s.advanceMod 80000).moveTime (-d)
    let s3 := ((s1.set1 Reg.TIME_STATUS_STEPPED 0).bump Reg.TIME_STEPS_COUNT 0 1).dropStep
    let s4 := if s3.rd Reg.TIME_STATUS_STATE 0 = dStack then s3 else s3.enterAcquire
    .next (((s4.slew (e - d)).showFreq s.atLimit).jumped 0x0203 0 (-d))

/-- HOLDOVER_TIMEOUT: no accepted edge for HOLD_MISS seconds in ACQUIRE or LOCKED (R66). -/
def execHoldoverTimeout (s : State) : Res :=
  let st := s.rd Reg.TIME_STATUS_STATE 0
  if st = dAcquire ∨ st = dLocked then
    .next (s.advanceTo (s.tb.holdFrom + s.rd1 Reg.TIME_LOCK_HOLD_MISS 0 * hz)).enterHoldover
  else .next s

/-- PPS_ENABLE_WRITE: TIME_CTRL.PPS_EN takes a value (R58, R66). -/
def execPpsEnableWrite (on : Bool) (s : State) : Res :=
  let was := s.flag Reg.TIME_CTRL_PPS_EN 0
  let s1 := s.wrB Reg.TIME_CTRL_PPS_EN 0 on
  let st := s.rd Reg.TIME_STATUS_STATE 0
  if on && !was then .next { s1 with tb := { s1.tb with lastAcc := none, cand := none } }
  else if was && !on && (st == dAcquire || st == dLocked) then .next s1.enterHoldover
  else .next s1

/-- PPS_POLARITY_WRITE: a change of TIME_CTRL.PPS_FALL makes the next edge a candidate reference (R58). -/
def execPpsPolarityWrite (fall : Bool) (s : State) : Res :=
  let s1 := s.wrB Reg.TIME_CTRL_PPS_FALL 0 fall
  if s.flag Reg.TIME_CTRL_PPS_FALL 0 == fall then .next s1
  else .next { s1 with tb := { s1.tb with lastAcc := none, cand := none } }

/-- A load is armed from TIME_LOAD (R71), on behalf of a TIME_SET or of none. -/
def State.armLoad (s : State) (who : Option (Nat × Nat)) : State :=
  let s1 := (s.set1 Reg.TIME_CTRL_LOAD 0).set1 Reg.TIME_STATUS_LOAD_PENDING 0
  { s1 with tb := { s1.tb with loadBy := who } }

/-- TIME_LOAD_ARM: a write of 1 to TIME_CTRL.LOAD (R71). -/
def execTimeLoadArm (s : State) : Res := .next (s.armLoad s.tb.loadBy)

/-- The value of TIME_LOAD, with bit 31 as it was written. DESIGN CHOICE, assumption 207. -/
def State.loadValue (s : State) : Nat :=
  s.rd Reg.TIME_LOAD_SEC 0 * 2 ^ 32 + (if s.tb.loadHi then 2 ^ 31 else 0) + s.rd Reg.TIME_LOAD_TICK 0

/-- TIME_LOAD holds the TIME of a TIME_SET and its load is armed (R963). -/
def State.setLoad (s : State) (v : Nat) (who : Nat × Nat) : State :=
  let s1 := (s.wr Reg.TIME_LOAD_SEC 0 (v / 2 ^ 32)).wr Reg.TIME_LOAD_TICK 0 (v % 2 ^ 31)
  ({ s1 with tb := { s1.tb with loadHi := bitOf v 31 } } : State).armLoad (some who)

/-- The TIME_SET accepted first of those still in flight writes TIME_LOAD and arms its own load, where it has started and waited
(R963). -/
def State.nextTimeSet (s : State) : State :=
  let waits := s.cmds.filter fun c => c.op == 0x30 && c.phase != .fixed && c.origin.isNone
  match waits with
  | [] => { s with tb := { s.tb with loadQueue := [] } }
  | c0 :: r =>
    let c := r.foldl (fun a b => if b.ord < a.ord then b else a) c0
    if s.tb.loadQueue.contains (c.sq, c.tag) then
      let s1 : State := { s with tb := { s.tb with loadQueue := s.tb.loadQueue.filter fun x => x != (c.sq, c.tag) } }
      s1.setLoad (c.get 24 8) (c.sq, c.tag)
    else s

/-- The armed load is over: LOAD and LOAD_PENDING are cleared and its TIME_SET completes. -/
def State.endLoad (s : State) (status field : Nat) : State :=
  let s1 := (s.clr Reg.TIME_CTRL_LOAD 0).clr Reg.TIME_STATUS_LOAD_PENDING 0
  let s2 : State := { s1 with tb := { s1.tb with loadBy := none } }
  match s.tb.loadBy with
  | some (sq, tag) => (s2.finish sq tag status 0 0 field).nextTimeSet
  | none => s2.nextTimeSet

/-- TIME_LOAD_EFFECT: the armed load takes effect at the next T mod 80,000 = 0, its ticks rounded down to a multiple
of 80,000, or is discarded when its value is invalid (R52, R71 to R74, R963). With no load armed, a TIME_SET whose turn has come
arms its own. -/
def execTimeLoadEffect (s : State) : Res :=
  if !s.flag Reg.TIME_STATUS_LOAD_PENDING 0 then .next s.nextTimeSet
  else
    let v := s.loadValue
    if !timeValid v then .next (s.endLoad stInvalidField 24)
    else
      let s1 := s.advanceMod 80000
      let t := s.rd Reg.TIME_LOAD_SEC 0 * hz + s.rd Reg.TIME_LOAD_TICK 0 / 80000 * 80000
      let d : Int := (t : Int) - (s1.lin : Int)
      let s2 := (s1.setLin t).enterAcquire
      .next ((((s2.dropStep.slew 0).showFreq s.atLimit).jumped 0x0205 1 d).endLoad stSuccess 0)

/-- The master of a ring presents SYNC out of both ports at the second boundary (R547): ORIGIN, ACC 0, M_LOCKED, HOPS 0. -/
def State.presentSync (s : State) : State :=
  if s.rd Reg.CASC_STATUS_STATE 0 ≠ 4 then s
  else
    let items := [s.time, 0, if s.rd Reg.TIME_STATUS_STATE 0 = dLocked then 1 else 0, 0]
    [0, 1].foldl (fun t p => if t.flag Reg.CASC_PORT_STATUS_UP p then t.emit (.ring p 15 0x04 0 items) else t) s

/-- TIME_SECOND_ROLLOVER: TIME goes on to the next second, by cycles while CCLK runs and by AOCLK edges while it is
stopped (R50, R51, R55); a stack's master presents SYNC (R547). -/
def execTimeSecondRollover (s : State) : Res :=
  let need := hz - s.tb.tick
  if s.tb.cclk then .next (s.advance need).presentSync
  else
    let n := need * 128 / 5859375
    if need ≤ coarseTicks s.tb.coarsePhase n then .next (s.coarse n)
    else if need ≤ coarseTicks s.tb.coarsePhase (n + 1) then .next (s.coarse (n + 1))
    else .next (s.coarse (n + 2))

/-- CCLK_START: outside BANKED, fine TIME takes the coarse value at the next AOCLK edge; a reference clock is present again (R55,
R955). -/
def execCclkStart (s : State) : Res :=
  if s.mode = mBanked ∨ s.tb.cclk ∨ s.tb.reload.isSome ∨ s.pw.porst then .next s
  else
    let s1 := s.coarse 1
    .next { s1 with tb := { s1.tb with cclk := true, refClk := true } }

/-- REFERENCE_CLOCK_LOST: CCLK stops and TIME goes on on the coarse counter (R55). -/
def execReferenceClockLost (s : State) : Res :=
  .next { s with tb := { s.tb with cclk := false, refClk := false } }

/-- FINE_TIME_RELOAD: on leaving BANKED, fine TIME is loaded from the coarse counter at the first PPS edge, or at an
AOCLK edge when PPS_EN is 0 or no edge came for HOLD_MISS seconds; ACQUIRE is entered (R70). -/
def execFineTimeReload (byPps : Bool) (s : State) : Res :=
  match s.tb.reload with
  | none => .next s
  | some t0 =>
    let en := s.flag Reg.TIME_CTRL_PPS_EN 0
    if byPps && !en then .next s
    else
      let s1 := if byPps || !en then s else s.advanceTo (t0 + s.rd1 Reg.TIME_LOCK_HOLD_MISS 0 * hz)
      let s2 := if byPps then s1 else s1.coarse 1
      .next ({ s2 with tb := { s2.tb with reload := none, cclk := true } } : State).enterAcquire

/-- The control blocks of a link, by BTYPE in [7:0] (R104): IDLE, TRAIN with training state and lane, ALIGN with K_LO, STOP with the
heads it names. -/
def idleBlock : Nat := 0x1E
def trainBlock (state lane : Nat) : Nat := 0x2D + state % 16 * 2 ^ 8 + lane % 2 * 2 ^ 12
def alignBlock (k : Nat) : Nat := 0x4B + k % 65536 * 2 ^ 8
def stopBlock (h0 h1 : Bool) : Nat := 0x78 + (if h0 then 2 ^ 8 else 0) + (if h1 then 2 ^ 9 else 0)

/-- What a port's transmitter sends on each lane in a period beside messages: nothing while it is electrically idle; IDLE in WAIT,
TRAIN in DETECT and EQUALISE; ALIGN from DESKEW on (R106, R152, R158). Of IDLE and TRAIN, which fill the lanes, one block stands for
all. DESIGN CHOICE, assumption 211. -/
def laneBlock (state lane k : Nat) : Option Nat :=
  match state with
  | 0 => none
  | 7 => some idleBlock
  | 1 => some (trainBlock state lane)
  | 2 => some (trainBlock state lane)
  | _ => some (alignBlock k)

/-- One block on each lane of a port. -/
def State.emitLanes (s : State) (n : Nat) (b : Nat → Option Nat) : State :=
  [0, 1].foldl (fun t lane => match b lane with | some w => t.emit (.block n lane w) | none => t) s

/-- SERVO_PERIOD_START: servo period k begins where T = 5,000 k (R76), and each link's transmitter sends its blocks of that period
(R106, R152): in a period that has just begun by a step or load of TIME, where that has not been done yet. -/
def execServoPeriodStart (s : State) : Res :=
  let s1 := if s.lin % 5000 = 0 ∧ s.tb.periodAt ≠ some s.now then s else s.advanceMod 5000
  let s2 : State := { s1 with tb := { s1.tb with periodAt := some s1.now } }
  .next ((upTo 128).foldl (fun t n => t.emitLanes n fun lane => laneBlock (s2.rd Reg.STN_LINK_STATUS_STATE n) lane s2.period) s2)

/-! ### Launches (R81 to R88, R971) -/

/-- The commands whose launch is pending, with their launch times. -/
def State.launches (s : State) : List Nat := s.cmds.filterMap fun c => c.launch

/-- The cap in force in DAMPED: the lower of the MODE_SET cap and the thermal cap (R865). -/
def State.capNow (s : State) : Nat :=
  let c := s.rd Reg.PWR_CAP_CAP 0
  if s.flag Reg.PWR_STATUS_THERM_DAMPED 0 then min c (max 200 (s.rd Reg.PWR_THERM_CFG_THERM_CAP 0)) else c

/-- The estimate shown and the increments admitted since it was formed (R864). DESIGN CHOICE, assumption 173. -/
def State.estNow (s : State) : Nat := s.rd Reg.PWR_CAP_EST 0 + s.pw.fresh

/-- The power cap admits an increment, in DAMPED; elsewhere nothing is held back (R865, R866). -/
def State.capAdmits (s : State) (w : Nat) : Bool :=
  s.mode != mDamped || (!s.flag Reg.PWR_STATUS_OVER_CAP 0 && s.estNow + w ≤ s.capNow)

/-- An admitted increment counts in the estimate for 100 ms (R864). -/
def State.admitted (s : State) (w : Nat) : State := 
  { s with pw := { s.pw with admits := (s.now, w) :: s.pw.admits, fresh := s.pw.fresh + w } }

/-- Modes in which a launch can start, with no transition in progress (R83, R88). -/
def State.launchMode (s : State) : Bool := (s.mode == mBurn || s.mode == mDamped) && s.pw.trans.isNone

/-- The first mechanical or media action of a command begins (R81): a launch that is later than the first servo period at or after
its time, or whose time had passed before it could start, is late (R83, R84, R88). -/
def State.firstAction (s : State) (who : Option (Nat × Nat)) : State :=
  match who with
  | none => s
  | some (sq, tag) =>
    match (s.cmd? sq tag).bind Cmd.launchT with
    | none => s
    | some (l, late) =>
      let d := timeDiff (linOf l) s.lin
      let s1 := s.updCmd sq tag fun x => { x with launchT := none }
      if late || d + 5000 ≤ 0 then (s1.bump Reg.TIME_LATE_COUNT 0 1).raise 0x0207 (tag :: i2 (-d)) else s1

/-- The first action of every launched command that satisfies a test begins. -/
def State.actFor (s : State) (p : Cmd → Bool) : State :=
  (s.cmds.filter fun c => c.launchT.isSome && p c).foldl (fun t c => t.firstAction (some (c.sq, c.tag))) s

/-- A command has been launched and its first action has not begun. -/
def State.launching (s : State) (who : Option (Nat × Nat)) : Bool :=
  match who with
  | none => false
  | some (sq, tag) => ((s.cmd? sq tag).bind Cmd.launchT).isSome

/-- LAUNCH: a pending launch whose moment has come may start in the first servo period at or after its time; one whose time has
passed starts as soon as it can and is late (R81, R83, R84). DESIGN CHOICE, assumptions 2 and 26. -/
def execLaunch (sq tag : Nat) (s : State) : Res :=
  match s.cmd? sq tag with
  | none => .next s
  | some c =>
    match c.launch with
    | none => .next s
    | some l =>
      if !s.launchMode ∨ !c.ready then .next s
      else
        let d := timeDiff (linOf l) s.lin
        let s1 := s.advance d.toNat
        let s2 := if 0 < d then s1.advance ((5000 - s1.lin % 5000) % 5000) else s
        .next (s2.updCmd sq tag fun x => { x with launch := none, launchT := some (l, decide (d ≤ 0)) })

/-- A mode transition is asked for. -/
def State.beginTrans (s : State) (dest cause : Nat) (who : Option (Nat × Nat)) : State :=
  { s with pw := { s.pw with trans := some { from_ := s.mode, to_ := dest, cause := cause, by_ := who } } }

/-- EMBER_LAUNCH_EXIT: 40 ms before the earliest pending launch the controller leaves EMBER for BURN (R87). -/
def execEmberLaunchExit (s : State) : Res :=
  let ahead := s.launches.map fun l => timeDiff (linOf l) s.lin
  match ahead with
  | [] => .next s
  | d :: r =>
    if s.mode = mEmber then
      let m := r.foldl (fun a b => if b < a then b else a) d
      .next ((s.advance (m - 40 * (msCycles : Int)).toNat).beginTrans mBurn 3 none)
    else .next s

/-! ### Vibration groups (R89 to R98) -/

/-- A field of TIME_VG_CFG or TIME_VG_MAP as it is in force (R98). -/
def State.vg (s : State) (f : Fld) (i : Nat) : Nat := mget (f.rst i) s.tb.vgActive (f.key i)

/-- The group a station belongs to, if any. -/
def State.vgOf (s : State) (n : Nat) : Option Nat :=
  if s.vg Reg.TIME_VG_MAP_MEMBER n = 1 then some (s.vg Reg.TIME_VG_MAP_GROUP n) else none

/-- SEEK_SLOT of a group in force, 0 acting as 1. -/
def State.seekSlotLen (s : State) (g : Nat) : Nat := max 1 (s.vg Reg.TIME_VG_CFG_SEEK_SLOT g)

/-- The number of the seek slot in force or last begun, counted from T = 0. -/
def State.slotNow (s : State) (g : Nat) : Nat := s.period / s.seekSlotLen g

/-- Long seeks of a group that count against the present slot (R92, R94). -/
def State.slotUsed (s : State) (g : Nat) : Nat :=
  if mfind s.tb.slotAt g = some (s.slotNow g) then mget 0 s.tb.slotStarts g else 0

/-- n more long seeks of a group count against the present slot. -/
def State.countSeeks (s : State) (g n : Nat) : State :=
  { s with tb := { s.tb with slotStarts := mput s.tb.slotStarts g (s.slotUsed g + n), slotAt := mput s.tb.slotAt g (s.slotNow g) } }

/-- SEEK_MAX of a group in force, 0 acting as 1. -/
def State.seekMax (s : State) (g : Nat) : Nat := max 1 (s.vg Reg.TIME_VG_CFG_SEEK_MAX g)

/-- T moved on to the next seek slot of a group, a period k that SEEK_SLOT divides: the present one where it has just begun. -/
def State.toSeekSlot (s : State) (g : Nat) : State :=
  let m := 5000 * s.seekSlotLen g
  s.advance ((m - s.lin % m) % m)

/-- A sled move that waits for a seek slot of its group: longer than SEEK_MIN, in units of 10 µm (R92). -/
def State.needsSlot (s : State) (a : Nat) (n : Nat) : Option Nat :=
  if a < 256 then
    match s.vgOf (a / 2) with
    | some g => if s.vg Reg.TIME_VG_CFG_SEEK_MIN g * 1000000 < n * s.rd Reg.MOT_SLED_CFG_USTEP 0 then some g else none
    | none => none
  else none

/-- The plan of a waiting seek begins now (R490). -/
def State.seekGo (s : State) (a : Nat) : State :=
  let x := s.axis a
  let s1 := s.putAxis a { x with plan := x.plan.map fun p => { p with at_ := some s.now } }
  { s1 with seekQ := s1.seekQ.filter fun q => q.head != a }

/-- The fields of a group's configuration. -/
def vgCfgFields : List Fld :=
  [Reg.TIME_VG_CFG_SEEK_MIN, Reg.TIME_VG_CFG_SPINUP_GAP, Reg.TIME_VG_CFG_SEEK_SLOT, Reg.TIME_VG_CFG_SEEK_MAX,
   Reg.TIME_VG_CFG_PHASE_EN]

/-- The written configuration of a group, and of the stations it has or gains, put in force: the map of a station that changes
its group at the first of the two groups' slots. DESIGN CHOICE, assumption 208. -/
def State.vgApply (s : State) (g : Nat) : State :=
  let cfg := vgCfgFields.map fun f => (f.key g, s.rd f g)
  let mp := (upTo 128).flatMap fun n =>
    if s.rd Reg.TIME_VG_MAP_GROUP n = g ∨ s.vg Reg.TIME_VG_MAP_GROUP n = g then
      [(Reg.TIME_VG_MAP_MEMBER.key n, s.rd Reg.TIME_VG_MAP_MEMBER n),
       (Reg.TIME_VG_MAP_GROUP.key n, s.rd Reg.TIME_VG_MAP_GROUP n)]
    else []
  { s with tb := { s.tb with vgActive := (cfg ++ mp).foldl (fun m p => mput m p.1 p.2) s.tb.vgActive } }

/-- Waiting seeks that the map or SEEK_MIN in force no longer holds back start (R92, R98). -/
def State.freeSeeks (s : State) : State :=
  (s.seekQ.filter fun q => (s.needsSlot q.head (match (s.axis q.head).plan with | some p => (p.b - p.a).natAbs | none => 0)).isNone).foldl
    (fun t q => t.seekGo q.head) s

/-- VG_CONFIG_APPLY: changes take effect at the group's next seek slot, for the seeks that wait too (R98). -/
def execVgConfigApply (g : Fin 16) (s : State) : Res := .next ((s.toSeekSlot g).vgApply g).freeSeeks

/-- The places of a slot: the oldest waiting seek first, then each time the oldest of opposite direction to the one
before, or the oldest left (R93). -/
def seekPick : Nat → Option Bool → List SeekWait → List SeekWait
  | 0, _, _ => []
  | _, _, [] => []
  | n + 1, none, q :: r => q :: seekPick n (some q.outward) r
  | n + 1, some dir, q :: r =>
    match (q :: r).find? fun x => x.outward != dir with
    | some x => x :: seekPick n (some x.outward) ((q :: r).filter fun y => y.head != x.head)
    | none => q :: seekPick n (some q.outward) r

/-- SEEK_SLOT: outside KILN (R528), at a seek slot of a group up to SEEK_MAX waiting long seeks start (R92, R93), fewer by those that count against it
already (R94); once it is full, at the slot after it. Their sleds' plans begin in this period (R490). -/
def execSeekSlot (g : Fin 16) (s : State) : Res :=
  if s.mode = mKiln then .next s else
  let s0 := s.toSeekSlot g
  let s1 := if s0.seekMax g ≤ s0.slotUsed g then s0.advanceMod (5000 * s0.seekSlotLen g) else s0
  let mine := s1.seekQ.filter fun q => s1.vgOf (q.head / 2) == some g.val
  let go := seekPick (s1.seekMax g - s1.slotUsed g) none mine
  .next (go.foldl (fun t q => t.seekGo q.head) (s1.countSeeks g go.length))

end Sys2Proof.Machine
end

