-- ==== Sys2Proof/Machine/LinkOps.lean ====
section
/-!
DEFINITION. The Sizar station link: messages and their checks, the sequence spaces, latency and padding, and the parts
of training that concern the port alone (R99 to R178).
-/

namespace Sys2Proof.Machine

/-! ### Port states (R152) -/

def lkDown : Nat := 0
def lkDetect : Nat := 1
def lkEqualise : Nat := 2
def lkDeskew : Nat := 3
def lkIdentify : Nat := 4
def lkMeasure : Nat := 5
def lkActive : Nat := 6
def lkWait : Nat := 7

/-- The state of a port. -/
def State.port (s : State) (n : Nat) : Nat := s.rd Reg.STN_LINK_STATUS_STATE n

/-- The state with a port's state changed. -/
def State.setPort (s : State) (n st : Nat) : State := s.wr Reg.STN_LINK_STATUS_STATE n st

/-- The port is ACTIVE. -/
def State.active (s : State) (n : Nat) : Bool := s.port n == lkActive

/-! ### Messages (R107 to R111) -/

/-- Message types, R111, with the numbers of data blocks allowed. -/
def msgLens : Nat → Option (Nat × Nat)
  | 0x01 => some (2, 2)
  | 0x02 => some (12, 12)
  | 0x03 => some (1, 128)
  | 0x04 => some (1, 16)
  | 0x05 => some (1, 1)
  | 0x06 => some (1, 1)
  | 0x07 => some (1, 1)
  | 0x81 => some (16, 16)
  | 0x82 => some (3, 52)
  | 0x83 => some (4, 4)
  | 0x84 => some (1, 1)
  | 0x85 => some (1, 1)
  | 0x87 => some (1, 1)
  | _ => none

/-- The MSG header of a message, R107. DESIGN CHOICE, assumption 32. -/
def msgHeader (mtype len seq tag : Nat) : Nat :=
  let lo := 0x33 + mtype % 256 * 2 ^ 8 + len % 256 * 2 ^ 16 + seq % 256 * 2 ^ 24 + tag % 65536 * 2 ^ 32
  lo + crc16 (bytesLE 6 lo) * 2 ^ 48

/-- The CRC block of a message with data, R109. -/
def msgCrc (hdr : Nat) (blocks : List Nat) : Nat :=
  crc32c (bytesLE 6 (hdr % 2 ^ 48) ++ blocks.flatMap (bytesLE 8))

def msgType (m : LinkMsg) : Nat := bitsOf m.hdr 8 8
def msgSeq (m : LinkMsg) : Nat := bitsOf m.hdr 24 8
def msgTag (m : LinkMsg) : Nat := bitsOf m.hdr 32 16

/-- A received message of a type is intact (R107, R109, R110, R111). DESIGN CHOICE, assumption 202. -/
def msgOk (mtype : Nat) (m : LinkMsg) : Bool :=
  bitsOf m.hdr 0 8 == 0x33 && msgType m == mtype
    && bitsOf m.hdr 48 16 == crc16 (bytesLE 6 (m.hdr % 2 ^ 48))
    && bitsOf m.hdr 16 8 == m.blocks.length
    && (match msgLens mtype with | some (a, b) => a ≤ m.blocks.length && m.blocks.length ≤ b | none => false)
    && m.crc == msgCrc m.hdr m.blocks

/-- The sequence spaces of R108, by message type and tag. -/
def seqSpace (mtype tag : Nat) : Nat :=
  match mtype with
  | 0x03 => 0x300 + tag % 2
  | 0x05 => 0x500
  | 0x06 => 0x500
  | 0x82 => 0x8200 + tag % 2
  | 0x85 => 0x8500 + tag % 2
  | t => t * 256

/-- A message discarded for a bad check counts in MSG_ERR (R110). -/
def State.msgErr (s : State) (n : Nat) : State := s.bump Reg.STN_LINK_ERR_MSG_ERR n 1

/-- The SEQ the next message of a space takes. -/
def State.nextSeq (s : State) (n mtype tag : Nat) : Nat := mget 0 (s.stn n).txSeq (seqSpace mtype tag)

/-- A message sent on a port with the next SEQ of its space (R108). DESIGN CHOICE, assumptions 14 and 32. -/
def State.send (s : State) (n mtype tag : Nat) (blocks : List Nat) : State :=
  let x := s.stn n
  let q := s.nextSeq n mtype tag
  (s.putStn n { x with txSeq := mput x.txSeq (seqSpace mtype tag) ((q + 1) % 256) }).emit
    (.link n mtype q tag blocks)

/-- A message sent again with the SEQ it had (R136, R145); it counts as retransmitted. -/
def State.resend (s : State) (n mtype seq tag : Nat) (blocks : List Nat) : State :=
  (s.bump Reg.STN_LINK_RETX_RETX n 1).emit (.link n mtype seq tag blocks)

/-- Messages still unacknowledged after SEQ `ack` is acknowledged: those after it in their space (R124, R136). -/
def dropAcked (ack : Nat) : List Unacked → List Unacked
  | [] => []
  | u :: r => if (u :: r).any (fun x => x.seq == ack % 256) then
      (if u.seq == ack % 256 then r else dropAcked ack r) else u :: r

/-! ### Latency and padding (R149 to R151) -/

/-- FE_LAT.ACT_DLY and SEN_DLY as the front end declared them. -/
def actDly (x : Stn) : Nat := bitsOf x.feLat 0 8
def senDly (x : Stn) : Nat := bitsOf x.feLat 8 12

/-- RAW in 1/64 cycle from a round trip in cycles and a TURN in unit intervals: (RT − TURN × 0.09375) / 2. DESIGN CHOICE,
assumption 29. -/
def raw64 (rt turn : Nat) : Nat := 32 * rt - 3 * turn

/-- A station with its pads set from RAW (R150), SPAN being 6, 37 and 50 cycles. -/
def padStn (x : Stn) (raw : Nat) (trim : Int) : Stn :=
  let down := fun (span : Int) => 700 - (raw : Int) - span - (actDly x : Int) - trim
  { x with padPeriod := down 6, padActuate := down 37,
           padSensor := 1100 - (senDly x : Int) - (raw : Int) - 50 }

/-- The port's pads follow a RAW as measured (R150). DESIGN CHOICE, assumption 29. -/
def State.setPads (s : State) (n raw : Nat) : State :=
  s.putStn n { padStn (s.stn n) (raw / 64) (s.rdS Reg.STN_LINK_SKEW_TRIM n) with rawHalf := raw }

/-- RAW is shown as measured last (R149, R177). -/
def State.showRaw (s : State) (n raw : Nat) : State := s.wr Reg.STN_LINK_LAT_RAW n (raw / 64)

/-- The median; of an even number of values, the mean of the middle two. DESIGN CHOICE, assumption 28. -/
def medianNat (l : List Nat) : Nat :=
  let s := sortNat l
  (s.getD ((s.length - 1) / 2) 0 + s.getD (s.length / 2) 0) / 2

/-! ### Training: the port alone (R152 to R157, R967) -/

/-- Engines held by ports in training and by port runs, of the 16 there are (R155, R896). -/
def State.enginesUsed (s : State) : Nat :=
  (s.stns.filter fun p => p.2.engine).length + (s.cals.filter fun p => decide (p.1 < 512) && p.2.running).length

/-- A port moves to DETECT and takes an engine. -/
def State.toDetect (s : State) (n : Nat) : State :=
  (s.putStn n { s.stn n with engine := true, attemptAt := s.now }).setPort n lkDetect

/-- A port returns to WAIT, frees its engine, and is due for a retry no sooner than a moment. -/
def State.toWait (s : State) (n due : Nat) : State :=
  ((((s.putStn n { s.stn n with engine := false, dueAt := due, hdrs := [] }).setPort n lkWait).clr
    Reg.STN_LINK_STATUS_LANE0_LOCK n).clr Reg.STN_LINK_STATUS_LANE1_LOCK n)

/-- A port goes to DOWN and frees its engine. -/
def State.toDown (s : State) (n : Nat) : State :=
  ((((s.putStn n { s.stn n with engine := false, hdrs := [] }).setPort n lkDown).clr
    Reg.STN_LINK_STATUS_LANE0_LOCK n).clr Reg.STN_LINK_STATUS_LANE1_LOCK n)

/-- A training attempt fails with the state it reached (R153). -/
def State.trainFail (s : State) (n reached due : Nat) : State :=
  ((s.set1 Reg.STN_LINK_EVT_TRAIN_FAIL n).raise 0x0303 [n, reached]).toWait n due

/-- ENABLE of a port is set: from DOWN it goes to WAIT (R152). -/
def State.enableLink (s : State) (n : Nat) : State :=
  let s1 := s.set1 Reg.STN_LINK_CTRL_ENABLE n
  if s1.port n = lkDown ∧ s.mode ≠ mEmber ∧ s.mode ≠ mBanked then s1.toWait n s.now else s1

/-- LINK_ENABLE: ENABLE set takes a DOWN port to WAIT (R152). -/
def execLinkEnable (n : Fin 128) (s : State) : Res := .next (s.enableLink n)

/-- After power-up a port with ENABLE 1 waits for its batch (R152, R156, R158): it is in DOWN only until the transmitters run. -/
def State.awaitBatch (s : State) (n : Nat) : State :=
  if s.port n = lkDown ∧ s.flag Reg.STN_LINK_CTRL_ENABLE n ∧ !(s.stn n).batchDone ∧ s.mode = mKindling then s.toWait n s.now else s

/-- Every port that its batch is still to train. -/
def State.awaitBatches (s : State) : State := (upTo 128).foldl (fun t n => t.awaitBatch n) s

/-- The stations of a batch, R156. -/
def batchStns (b : Nat) : List Nat := (upTo 16).map fun i => 16 * b + i

/-- TRAINING_BATCH_OPEN: at t + 300 ms + b × 10 ms the ports of batch b with ENABLE 1 enter DETECT, as far as engines
are free (R155, R156); the batch is open for all its ports. -/
def execTrainingBatchOpen (b : Fin 8) (s : State) : Res :=
  let s1 := (s.advanceTo (s.tb.powerUp + (300 + 10 * b.val) * msCycles)).awaitBatches
  if s1.mode ≠ mKindling then .next s1
  else
    .next ((batchStns b).foldl (fun t n =>
      let t1 := t.putStn n { t.stn n with inBatch := true }
      if t.flag Reg.STN_LINK_CTRL_ENABLE n && !(t.stn n).batchDone && t.port n == lkWait && t.enginesUsed < 16 then t1.toDetect n
      else t1) s1)

/-- TRAINING_BATCH_CLOSE: 10 ms after the batch opened, its ports still in DETECT return to WAIT without an event
(R154, R157). -/
def execTrainingBatchClose (b : Fin 8) (s : State) : Res :=
  let s1 := s.advanceTo (s.tb.powerUp + (310 + 10 * b.val) * msCycles)
  .next ((batchStns b).foldl (fun t n =>
    let t1 := if (t.stn n).inBatch && t.port n == lkDetect then t.toWait n t.now else t
    t1.putStn n { t1.stn n with batchDone := true, inBatch := false }) s1)

/-- LINK_TRAIN_DETECTED: TRAIN on both lanes moves a port from DETECT to EQUALISE (R152). -/
def execLinkTrainDetected (n : Fin 128) (s : State) : Res :=
  if s.port n = lkDetect then .next ((s.putStn n { s.stn n with attemptAt := s.now }).setPort n lkEqualise) else .next s

/-- LINK_BLOCK_LOCK: lanes have come to block lock; lock on both ends EQUALISE (R102, R152). DESIGN CHOICE, assumption 202. -/
def execLinkBlockLock (n : Fin 128) (lane0 lane1 : Bool) (s : State) : Res :=
  if s.port n = lkEqualise then
    let s1 := if lane0 then s.set1 Reg.STN_LINK_STATUS_LANE0_LOCK n else s
    let s2 := if lane1 then s1.set1 Reg.STN_LINK_STATUS_LANE1_LOCK n else s1
    .next (if s2.flag Reg.STN_LINK_STATUS_LANE0_LOCK n && s2.flag Reg.STN_LINK_STATUS_LANE1_LOCK n then
        (s2.putStn n { s2.stn n with attemptAt := s.now }).setPort n lkDeskew
      else s2)
  else .next s

/-- LINK_DESKEW_DONE: the ALIGN exchange fixes lane order and skew, up to 4 block times (R106, R152). A greater skew cannot be
deskewed, and the state does not complete. DESIGN CHOICE, assumption 202. -/
def execLinkDeskewDone (n : Fin 128) (skew : Nat) (s : State) : Res :=
  if s.port n = lkDeskew ∧ skew ≤ 4 then
    .next ((s.putStn n { s.stn n with attemptAt := s.now }).setPort n lkIdentify)
  else .next s

/-- LINK_TRAIN_TIMEOUT: a state other than DETECT not complete within 2 ms fails (R153); the port is due again after
100 ms (R967). -/
def execLinkTrainTimeout (n : Fin 128) (s : State) : Res :=
  let st := s.port n
  if st = lkEqualise ∨ st = lkDeskew ∨ st = lkIdentify ∨ st = lkMeasure then
    let s1 := s.advanceTo ((s.stn n).attemptAt + 2 * msCycles)
    .next (s1.trainFail n st (s1.now + 100 * msCycles))
  else .next s

/-- A port that may be retried: in WAIT with ENABLE 1, its batch over (R158, R967). -/
def State.retriable (s : State) (n : Nat) : Bool :=
  s.port n == lkWait && s.flag Reg.STN_LINK_CTRL_ENABLE n && !(s.stn n).inBatch && ((s.stn n).batchDone || s.mode != mKindling)

/-- LINK_RETRY: a due port in WAIT takes a free engine, the lowest station among those due first (R967). -/
def execLinkRetry (n : Fin 128) (s : State) : Res :=
  if s.retriable n then
    let s1 := s.advanceTo (s.stn n).dueAt
    let lower := (upTo n.val).any fun m => s1.retriable m && mhas s1.stns m && (s1.stn m).dueAt ≤ s1.now
    if s1.enginesUsed < 16 ∧ !lower then .next (s1.toDetect n) else .next s1
  else .next s

/-- LINK_RETRY_TIMEOUT: a retry with no TRAIN on both lanes within 10 ms returns to WAIT without an event, and is due
again after 1 s (R154, R967). -/
def execLinkRetryTimeout (n : Fin 128) (s : State) : Res :=
  if s.port n = lkDetect ∧ !(s.stn n).inBatch then
    let s1 := s.advanceTo ((s.stn n).attemptAt + 10 * msCycles)
    .next (s1.toWait n (s1.now + hz))
  else .next s

/-! ### The period schedule -/

/-- T at the beginning of the period that follows: the value of an armed load or a pending step that takes effect there, R62, R63,
R71, R116. -/
def State.nextStart (s : State) : Nat :=
  let t := (s.period + 1) * 5000
  if t % 80000 ≠ 0 then t
  else if s.flag Reg.TIME_STATUS_LOAD_PENDING 0 && timeValid s.loadValue then
    s.rd Reg.TIME_LOAD_SEC 0 * hz + s.rd Reg.TIME_LOAD_TICK 0 / 80000 * 80000
  else if s.flag Reg.TIME_CTRL_NO_STEP 0 then t
  else match s.tb.stepPending with
    | some (d, _) => (((t : Int) - d) % (linMod : Int)).toNat
    | none => t

/-- The blocks of PERIOD of the period that follows, R116 and R117. -/
def periodBlocks (s : State) (safeNow safeClear : Bool) : List Nat :=
  let t := s.nextStart
  let tick := t % hz
  let tv := tick == 750000000
  let b0 := t / 5000 % 65536 + (if tick = 0 then 2 ^ 16 else 0) + (if tv then 2 ^ 17 else 0)
    + (if safeNow then 2 ^ 18 else 0) + (if safeClear then 2 ^ 19 else 0)
  [b0, if tv then timeFormat ((t / hz + 1) * hz) else 0]

/-- One port's PERIOD: SAFE_NOW while its periods of it last or its link is lost, SAFE_CLEAR for four periods after a
release (R116, R163, R177). After the last SAFE_NOW the port does what was to follow (R159, R160, R968). -/
def State.periodOf (s : State) (n : Nat) (all : Bool) : State :=
  let x := s.stn n
  let sn := all || 0 < x.safeNow || x.lost
  let sc := decide (0 < x.safeClear)
  let s1 := s.send n 0x01 0 (periodBlocks s sn sc)
  let y := { s1.stn n with safeNow := x.safeNow - 1, safeClear := x.safeClear - 1 }
  let s2 := s1.putStn n y
  let s3 := if x.safeClear = 1 then s2.clr Reg.STN_LINK_CTRL_RELEASE n else s2
  if x.safeNow = 1 then
    match x.afterSafe with
    | .stay => s3
    | .retrain => (s3.putStn n { s3.stn n with afterSafe := .stay }).toWait n s3.now
    | .down => (s3.putStn n { s3.stn n with afterSafe := .stay }).toDown n
    | .disable => (s3.putStn n { s3.stn n with afterSafe := .stay }).toDown n
  else s3

/-- ECHO_SEND: in MEASURE at once; on an active port a second after the last measurement began (R149, R152). The data block carries
the running number of the ECHO. DESIGN CHOICE, assumption 2. -/
def execEchoSend (n : Fin 128) (s : State) : Res :=
  if s.active n ∨ s.port n = lkMeasure then
    let s1 := if s.active n then s.advanceTo ((s.stn n).echoAt + hz) else s
    let x := s1.stn n
    .next ((s1.putStn n { x with echoes := (x.echoes + 1) % 2 ^ 32, echoAt := s1.now }).send n 0x07 0 [x.echoes])
  else .next s

/-- A port hears messages: it has passed training up to IDENTIFY; before that it discards what it receives (R152, R158). -/
def State.hears (s : State) (n : Nat) : Bool := [lkIdentify, lkMeasure, lkActive].contains (s.port n)

/-- ECHORSP_RECEIVE: RAW is measured again; pads move when it differs by 2 cycles or more from the RAW they follow (R148 to R150).
A response that is not intact is discarded (R110). -/
def execEchorspReceive (n : Fin 128) (m : LinkMsg) (rt : Nat) (s : State) : Res :=
  if !s.hears n then .next s
  else if !msgOk 0x87 m then .next (s.msgErr n)
  else if !s.active n then .next s
  else
    let raw := raw64 rt (bitsOf (m.blocks.getD 0 0) 32 16)
    let old := (s.stn n).rawHalf
    let s1 := (s.showRaw n raw).set1 Reg.STN_LINK_LAT_LAT_VALID n
    .next (if 128 ≤ (if raw ≤ old then old - raw else raw - old) then s1.setPads n raw else s1)

/-- HEALTH_RECEIVE: the four data blocks of a HEALTH are kept (R147), on an active port (R152). -/
def execHealthReceive (n : Fin 128) (m : LinkMsg) (s : State) : Res :=
  if !s.active n then .next s
  else if !msgOk 0x83 m then .next (s.msgErr n) else .next (s.putStn n { s.stn n with health := m.blocks })

/-- STOP four times on each lane of an active port (R139). -/
def State.sendStop (s : State) (n : Nat) (h0 h1 : Bool) : State :=
  if s.active n then (upTo 4).foldl (fun t _ => t.emitLanes n fun _ => some (stopBlock h0 h1)) s else s

/-- STOP_SEND: on a request from firmware the controller sends STOP (R139). -/
def execStopSend (n : Fin 128) (h0 h1 : Bool) (s : State) : Res := .next (s.sendStop n h0 h1)

/-- STN_REG_CMD.GO sends one REGRD or REGWR with request ID 0; it is ignored while BUSY is 1 (R144), and on a port that is not ACTIVE.
DESIGN CHOICE, assumption 212. -/
def State.regGo (s : State) (n : Nat) (write : Bool) (who : Option (Nat × Nat)) : State :=
  if s.flag Reg.STN_REG_CMD_BUSY n || !s.active n then s
  else
    let q := s.nextSeq n 0x05 0
    let a := s.rd Reg.STN_REG_ADDR_ADDR n / 4 * 4
    let d := s.rd Reg.STN_REG_DATA_DATA n
    let blk := a + (if write then d * 2 ^ 32 else 0)
    let mt := if write then 0x06 else 0x05
    let s1 := s.send n mt 0 [blk]
    let s2 := s1.putStn n { s1.stn n with reg := some (q, blk, 1), regAt := s.now, regBy := who }
    ((s2.wrB Reg.STN_REG_CMD_WRITE n write).set1 Reg.STN_REG_CMD_BUSY n).clr Reg.STN_REG_CMD_DONE n

/-- FE_REG_ACCESS: a register of the front end is read or written, for software (R144). DESIGN CHOICE, assumption 31. -/
def execFeRegAccess (n : Fin 128) (write : Bool) (s : State) : Res := .next (s.regGo n write none)

/-- A register access is over: BUSY falls, DONE and RESULT are shown, and a STATION_DIAG that made it completes
(R144, R145, R674). -/
def State.regDone (s : State) (n result : Nat) : State :=
  let x := s.stn n
  let s1 := ((s.clr Reg.STN_REG_CMD_BUSY n).set1 Reg.STN_REG_CMD_DONE n).wr Reg.STN_REG_CMD_RESULT n result
  let s2 := s1.putStn n { x with reg := none, regBy := none }
  match x.regBy with
  | some (sq, tag) =>
    s2.finish sq tag stSuccess (if s.flag Reg.STN_REG_CMD_WRITE n then 0 else s2.rd Reg.STN_REG_DATA_DATA n) result 0
  | none => s2

/-- REGRSP_RECEIVE: the response with the pending ID finishes the access (R144). -/
def execRegrspReceive (n : Fin 128) (m : LinkMsg) (s : State) : Res :=
  if !s.hears n then .next s
  else if !msgOk 0x84 m then .next (s.msgErr n)
  else
    match (s.stn n).reg with
    | none => .next s
    | some _ =>
      if msgTag m % 8 ≠ 0 then .next s
      else
        let b := m.blocks.getD 0 0
        let s1 := if s.flag Reg.STN_REG_CMD_WRITE n then s else s.wr Reg.STN_REG_DATA_DATA n (bitsOf b 0 32)
        .next (s1.regDone n (bitsOf b 32 8))

/-- FE_REG_TIMEOUT: 6 periods after a request was sent without an answer it is repeated, twice, with the same ID and SEQ, and then
abandoned with REG_TIMEOUT (R145). A repeat counts as a message retransmitted. DESIGN CHOICE, assumption 212. -/
def execFeRegTimeout (n : Fin 128) (s : State) : Res :=
  match (s.stn n).reg with
  | none => .next s
  | some (q, blk, tries) =>
    let s1 := s.advanceTo ((s.stn n).regAt + 30000)
    if tries < 3 then
      let mt := if s.flag Reg.STN_REG_CMD_WRITE n then 0x06 else 0x05
      .next ((s1.putStn n { s1.stn n with reg := some (q, blk, tries + 1), regAt := s1.now }).resend n mt q 0 [blk])
    else
      .next (((s1.set1 Reg.STN_LINK_EVT_REG_TIMEOUT n).raise 0x0308 [n, bitsOf blk 0 16]).regDone n 3)

/-- Four servo periods of elapsed time: the age at which a message not acknowledged is sent again (R136). -/
def ackCycles : Nat := 20000

/-- STEP_RETRANSMIT: an unacknowledged STEP 4 periods old is sent again, and those after it (R136, R143). -/
def execStepRetransmit (n : Fin 128) (s : State) : Res :=
  match (s.stn n).stepUnacked with
  | [] => .next s
  | u :: r =>
    if !s.active n ∨ s.now < u.sentAt + ackCycles then .next s
    else
      let s1 := (u :: r).foldl (fun t v => t.resend n 0x04 v.seq v.tag v.blocks) s
      .next (s1.putStn n { s1.stn n with stepUnacked := (u :: r).map fun v => { v with sentAt := s.now } })

/-- LINK_DEGRADED_WINDOW: the window ends; more than 1,000 block errors in it set DEGRADED (R164). -/
def execLinkDegradedWindow (n : Fin 128) (s : State) : Res :=
  match (s.stn n).blockWin with
  | none => .next s
  | some (endAt, before) =>
    let s1 := s.advanceTo endAt
    let s2 := s1.putStn n { s1.stn n with blockWin := none }
    let grown := s2.rd Reg.STN_LINK_ERR_BLOCK_ERR n - before
    if 1000 < grown then .next ((s2.set1 Reg.STN_LINK_EVT_DEGRADED n).raise 0x0307 [n, grown]) else .next s2

/-- LINK_RELEASE: SAFE_CLEAR goes out in the next four PERIODs (R116, R177). -/
def execLinkRelease (n : Fin 128) (s : State) : Res :=
  let s1 := s.set1 Reg.STN_LINK_CTRL_RELEASE n
  .next (s1.putStn n { s1.stn n with safeClear := 4 })

end Sys2Proof.Machine
end

