-- ==== Sys2Proof/Machine/BufferOps.lean ====
section
/-!
DEFINITION. Buffer pools, quotas, ownership (R685 to R707) and the placing of DMA work on channels (R708 to R717).
-/

namespace Sys2Proof.Machine

/-! ### Pools -/

/-- The buffer size of a pool, R685. -/
def poolSize (p : Nat) : Nat := 4096 * 4 ^ p

/-- The granules a buffer of a pool is charged, R685. -/
def poolGranules (p : Nat) : Nat := 4 ^ p

/-- The key of a buffer: pool and index, as in bits [27:0] of a handle (R691). -/
def bufKey (p i : Nat) : Nat := p * 2 ^ 24 + i
def bufPool (k : Nat) : Nat := k / 2 ^ 24
def bufIndex (k : Nat) : Nat := k % 2 ^ 24

/-- The HDM offset of a buffer, R686. -/
def State.bufOffset (s : State) (k : Nat) : Nat :=
  s.rd Reg.BPM_POOL_BASE_BASE (bufPool k) * 4096 + bufIndex k * poolSize (bufPool k)

/-- The generation of a buffer, R691. -/
def State.gen (s : State) (k : Nat) : Nat := mget 0 s.gens k

/-- The handle of a buffer, R691. -/
def State.handle (s : State) (k : Nat) : Nat := s.gen k * 2 ^ 28 + k

/-- The buffer a handle names: allocated with a handle, its GEN matching (R692). -/
def State.known (s : State) (h : Nat) : Option (Nat × Buf) :=
  let k := h % 2 ^ 28
  match mfind s.bufs k with
  | some b => if s.gen k = h / 2 ^ 28 % 16 ∧ b.copyOf.isNone then some (k, b) else none
  | none => none

/-- Buffers of a pool in use. -/
def State.poolUsed (s : State) (p : Nat) : Nat := (s.bufs.filter fun b => bufPool b.1 == p).length

/-- Buffers of a pool free now; none while the layout is not active. -/
def State.poolFree (s : State) (p : Nat) : Nat :=
  if s.flag Reg.BPM_STATUS_ACTIVE 0 then s.rd Reg.BPM_POOL_CNT_COUNT p - s.poolUsed p else 0

/-- The granules charged to a queue, R696. -/
def State.charge (s : State) (q : Nat) : Nat :=
  (s.bufs.filter fun b => b.2.owner == q).foldl (fun a b => a + poolGranules (bufPool b.1)) 0

/-- A further charge keeps a queue within its quota (R696). -/
def State.quotaOk (s : State) (q g : Nat) : Bool :=
  match mfind s.sqs q with
  | none => true
  | some x => x.quota == 0 || s.charge q + g ≤ x.quota * 16

/-- The smallest pool that holds a size, R660. -/
def poolFor (size : Nat) : Option Nat := (upTo 6).find? fun p => size ≤ poolSize p

/-- The buffer a pool gives next, and the pool after it is taken (R694). -/
def poolTake (count : Nat) (x : Pool) : Option (Nat × Pool) :=
  if x.fresh < count then some (x.fresh, { x with fresh := x.fresh + 1 })
  else
    match x.freed with
    | [] => none
    | i :: r => some (i, { x with freed := r })

/-- The pages of a buffer go to device bias, each line by a CLFlush (R582, R583). -/
def State.toDevice (s : State) (k : Nat) : State :=
  let a := s.bufOffset k / 4096
  let n := s.hep.hostPages.filter fun p => decide (a ≤ p) && decide (p < a + poolGranules (bufPool k))
  let s1 : State := { s with hep := { s.hep with hostPages := s.hep.hostPages.filter fun p => !n.contains p } }
  let s2 := n.foldl (fun t p => (upTo 64).foldl (fun u i => u.emit (.hdmReq .clFlush (4096 * p + 64 * i) [])) t) s1
  s2.bump Reg.HEP_BIAS_CNT_TO_DEVICE 0 n.length

/-- A buffer taken from a pool for a queue, in device bias (R582, R693, R694); LOW follows the least FREE seen. -/
def State.takeBuf (s : State) (p q : Nat) (copyOf : Option Nat) : Option (Nat × State) :=
  if !s.flag Reg.BPM_STATUS_ACTIVE 0 then none
  else
    match poolTake (s.rd Reg.BPM_POOL_CNT_COUNT p) (mget {} s.pools p) with
    | none => none
    | some (i, x) =>
      let k := bufKey p i
      let s1 : State := { s with pools := mput s.pools p x,
                                 bufs := mput s.bufs k { owner := q, copyOf := copyOf } }
      let s2 := s1.wr Reg.BPM_POOL_STAT_LOW_LOW p (min (s1.rd Reg.BPM_POOL_STAT_LOW_LOW p) (s1.poolFree p))
      some (k, s2.toDevice k)

/-- A refusal by an empty pool counts, and opens or joins its window (R727). -/
def State.poolEmpty (s : State) (p : Nat) : State :=
  (s.bump Reg.BPM_POOL_STAT_EMPTY_EMPTY p 1).raiseWin 0x0904 p [p] true

/-- A buffer returns to its pool: its GEN advances, its readers and charge are gone, its pages are in device bias (R582, R706). -/
def State.freeBuf (s : State) (k : Nat) : State :=
  if mhas s.bufs k then
    let p := bufPool k
    let x := mget {} s.pools p
    let t := s.toDevice k
    { t with bufs := mdel s.bufs k, gens := mput s.gens k ((s.gen k + 1) % 16),
             pools := mput s.pools p { x with freed := x.freed ++ [bufIndex k] } }
  else s

/-- A buffer is held: a command in flight names it, a frame written from it awaits verify (R705), or a chain moves its
bytes (R724). -/
def State.bufHeld (s : State) (k : Nat) : Bool :=
  (s.cmds.any fun c => c.phase != .fixed && c.bufs.contains k) || (s.held.any fun h => h.buf == k)
    || s.chanJobs.any fun p => p.2.buf == k

/-- A buffer marked to go is released once it is no longer held (R707). -/
def State.settleBuf (s : State) (k : Nat) : State :=
  match mfind s.bufs k with
  | some b => if (b.gone || b.copyOf.isSome) && !s.bufHeld k then s.freeBuf k else s
  | none => s

/-- Every buffer marked to go, and every buffer of a copy command, that is no longer held is released. -/
def State.settleAll (s : State) : State :=
  (s.bufs.filter fun b => b.2.gone || b.2.copyOf.isSome).foldl (fun t b => t.settleBuf b.1) s

/-! ### DMA channels -/

/-- The channel registers are indexed 16 e + c for housekeeping and 128 + 64 b + c for bulk engines. -/
def bulkChan (b c : Nat) : Nat := 128 + 64 * b + c

/-- The engine of a channel: 0 to 7 housekeeping, 8 + b bulk. DESIGN CHOICE, assumption 123. -/
def chanEngine (ch : Nat) : Nat := if ch < 128 then ch / 16 else 8 + (ch - 128) / 64

/-- The channel's number within its engine. -/
def chanNo (ch : Nat) : Nat := if ch < 128 then ch % 16 else (ch - 128) % 64

def chIdle : Nat := 0
def chQueued : Nat := 1
def chRunning : Nat := 2
def chDone : Nat := 3
def chHalted : Nat := 4

def State.chanState (s : State) (ch : Nat) : Nat := s.rd Reg.DMA_CH_STATUS_STATE ch
def State.engine (s : State) (e : Nat) : Engine := mget {} s.engines e
def State.putEngine (s : State) (e : Nat) (x : Engine) : State :=
  let s1 : State := { s with engines := mput s.engines e x }
  ((s1.wr Reg.DMA_ENG_STATUS_QUEUED e x.queue.length).wrB Reg.DMA_ENG_STATUS_BUSY e x.running.isSome).wr
    Reg.DMA_ENG_STATUS_CHANNEL e (match x.running with | some c => chanNo c | none => s.rd Reg.DMA_ENG_STATUS_CHANNEL e)

/-- START queues a channel for its engine; it is ignored unless the channel is IDLE or DONE (R710). -/
def State.startChan (s : State) (ch : Nat) : State :=
  if s.chanState ch = chIdle ∨ s.chanState ch = chDone then
    let e := chanEngine ch
    let x := s.engine e
    ((s.wr Reg.DMA_CH_STATUS_STATE ch chQueued).wr Reg.DMA_CH_STATUS_BAD ch 0).putEngine e
      { x with queue := x.queue ++ [ch] }
  else s

/-- The 32 bytes of a descriptor, R713. -/
def descBytes (src dst next len ctrl : Nat) : List Nat :=
  bytesLE 8 src ++ bytesLE 8 dst ++ bytesLE 8 next ++ bytesLE 4 len ++ bytesLE 4 ctrl

/-- A descriptor as it lies in the private region. -/
structure Desc where
  src : Nat
  dst : Nat
  next : Nat
  len : Nat
  ctrl : Nat
deriving DecidableEq, Repr

/-- The descriptor at an address. -/
def State.desc (s : State) (a : Nat) : Desc :=
  { src := ofBytesLE (s.bytes a 8), dst := ofBytesLE (s.bytes (a + 8) 8), next := ofBytesLE (s.bytes (a + 16) 8),
    len := ofBytesLE (s.bytes (a + 24) 4), ctrl := ofBytesLE (s.bytes (a + 28) 4) }

def Desc.srcSpace (d : Desc) : Nat := bitsOf d.ctrl 0 2
def Desc.dstSpace (d : Desc) : Nat := bitsOf d.ctrl 2 2
def Desc.isEnd (d : Desc) : Bool := bitOf d.ctrl 6

/-- What a descriptor uses of host memory: address and length. -/
def Desc.hostUse (d : Desc) : Option (Nat × Nat) :=
  if d.srcSpace = 0 then some (d.src, d.len) else if d.dstSpace = 0 then some (d.dst, d.len) else none

/-- The hint of a descriptor asks for Relaxed Ordering (R596, R713). -/
def Desc.relaxed (d : Desc) : Bool := bitOf d.ctrl 5

/-- The PASID that the requests of a channel carry (R589). -/
def State.chanPasid (s : State) (ch : Nat) : Option Nat :=
  if s.flag Reg.DMA_CH_CTRL_PASID_EN ch && s.flag Reg.HEP_STATUS_PASID_EN 0 then some (s.rd Reg.DMA_CH_CTRL_PASID ch) else none

/-- What a chain uses of host memory from a descriptor on. -/
def State.chainUses (s : State) : Nat → Nat → List (Nat × Nat)
  | 0, _ => []
  | fuel + 1, a =>
    let d := s.desc a
    let r := if d.isEnd then [] else s.chainUses fuel d.next
    match d.hostUse with
    | some u => u :: r
    | none => r

/-- Where the sequencer builds the chain of a bulk channel in the private region. DESIGN CHOICE, assumption 135. -/
def chainAddr (ch : Nat) : Nat := 0x40000000 + (ch - 128) * 0x100000

/-- The pieces of a byte range of a command in host memory: a contiguous range, or over the entries of its list. -/
def sglPieces : List (Nat × Nat) → Nat → Nat → List (Nat × Nat)
  | [], _, _ => []
  | (a, l) :: r, off, len =>
    if len = 0 then []
    else if l ≤ off then sglPieces r (off - l) len
    else
      let n := min (l - off) len
      (a + off, n) :: sglPieces r 0 (len - n)

/-- An entry drains to DRAM: its bytes are there already as memory is read; a partial line is a read-modify-write (R741). -/
def State.drainEntry (s : State) (e : Merge) : State :=
  let s1 : State := { s with ms := { s.ms with merge := s.ms.merge.filter fun x => x.line != e.line } }
  let s2 := if e.mask = 2 ^ 64 - 1 then s1.touchLines (e.line * 64) 64 else s1.touchLines (e.line * 64) 1
  s2.touchDram

/-- The entry written longest ago. -/
def oldest : List Merge → Option Merge
  | [] => none
  | e :: r => match oldest r with | none => some e | some x => if e.at_ ≤ x.at_ then some e else some x

/-- The tree of a set after a use of way w: each node on the way's path points away from it (R757). DESIGN CHOICE, assumption 228. -/
def plruUse (bits w : Nat) : Nat :=
  (upTo 4).foldl (fun b d => setBits b (2 ^ d + w / 2 ^ (4 - d)) 1 (1 - bitsOf w (3 - d) 1)) bits

/-- Bytes lie over a line's data from a byte of it on. -/
def layBytes (data : List Nat) (i : Nat) (bs : List Nat) : List Nat := data.take i ++ bs ++ data.drop (i + bs.length)

/-- A caching agent uses the cache's copy of a line (R757). -/
def State.useLine (s : State) (c : CLine) : State :=
  let k := c.line % 8192
  { s with ms := { s.ms with plru := mput s.ms.plru k (plruUse (mget 0 s.ms.plru k) c.way) } }

/-- A write that hits updates the cache's copy of its line; one that misses allocates nothing (R752). -/
def State.writeHit (s : State) (a : Nat) (bs : List Nat) : State :=
  match s.ms.lines.find? fun c => c.line == lineOf a with
  | none => s
  | some c =>
    let s1 := s.useLine c
    { s1 with ms := { s1.ms with lines := s1.ms.lines.map fun x =>
        if x.line == c.line then { x with data := layBytes x.data (a % 64) bs } else x } }

/-- The sequencer or a management core writes bytes of one line to the private region: a hit updates the cache's line, and they enter
the merging buffer, which holds 32 lines; reads return them at once (R752 to R754). The bytes lie within one line. DESIGN CHOICE,
assumption 228. -/
def State.mergeWrite (s0 : State) (a : Nat) (bs : List Nat) : State :=
  let l := lineOf a
  let full := 32 ≤ s0.ms.merge.length ∧ !(s0.ms.merge.any fun e => e.line == l)
  let s1 := match oldest s0.ms.merge with
    | some e => if full then s0.drainEntry e else s0
    | none => s0
  let s := s1.writeHit a bs
  let m := (2 ^ bs.length - 1) * 2 ^ (a % 64)
  let old := match s.ms.merge.find? fun e => e.line == l with | some e => e.mask | none => 0
  { s with mem := memWriteList s.mem a bs,
           ms := { s.ms with merge := (s.ms.merge.filter fun e => e.line != l) ++ [{ line := l, mask := old ||| m, at_ := s.now }] } }

/-- A chain of descriptors written to the private region from an address on; `toHost` gives the direction, `hdm` the
HDM offset of the first byte, `ro` the relaxed-ordering hint. -/
def State.writeChain (s : State) (addr : Nat) (toHost ro : Bool) (hdm : Nat) : List (Nat × Nat) → State
  | [] => s
  | (h, n) :: r =>
    let last := r.isEmpty
    let ctrl := (if toHost then 1 else 4) + (if ro then 32 else 0) + (if last then 0xC0 else 0)
    let d := descBytes (if toHost then hdm else h) (if toHost then h else hdm) (if last then 0 else addr + 32) n ctrl
    (s.mergeWrite addr d).writeChain (addr + 32) toHost ro (hdm + n) r

/-- The lowest channel of a bulk engine that can be started. -/
def State.freeChan (s : State) (b : Nat) : Option Nat :=
  ((upTo 64).map (bulkChan b)).find? fun ch =>
    (s.chanState ch == chIdle || s.chanState ch == chDone) && !mhas s.chanJobs ch

/-- The host ranges of a command: its list, or one contiguous range (R651). -/
def Cmd.hostRanges (c : Cmd) : List (Nat × Nat) :=
  if c.get 28 4 = 0 then [(c.get 32 8, c.get 24 4)] else c.sgl

/-- The sequencer places the DMA of a frame on a channel of bulk engine (slice mod 32) and starts it (R709, R710):
`off` is the first byte of the command's range, `hdm` the HDM offset of the data in the buffer. -/
def State.queueMove (s : State) (c : Cmd) (idx slice buf hdm off len : Nat) (toHost : Bool) : State :=
  match s.freeChan (slice % 32) with
  | none => s
  | some ch =>
    let g := s.grp c.grp
    let s1 := s.writeChain (chainAddr ch) toHost (c.flagBit 3) hdm (sglPieces c.hostRanges off len)
    let s2 := (s1.wr Reg.DMA_CH_DESC_ADDR ch (chainAddr ch / 32)).wrB Reg.DMA_CH_CTRL_PASID_EN ch g.pasidEn
    let s3 := s2.wr Reg.DMA_CH_CTRL_PASID ch g.pasid
    let job : ChanJob := { sq := c.sq, tag := c.tag, ord := c.ord, idx := idx, buf := buf }
    ({ s3 with chanJobs := mput s3.chanJobs ch job } : State).startChan ch

end Sys2Proof.Machine
end

