-- ==== Sys2Proof/Machine/Journal.lean ====
section
/-!
DEFINITION. The records that become due for the flash journal (R800 to R804) and the management records of a disc
(R218 to R237).
-/

namespace Sys2Proof.Machine

/-- The STATE code of a zone in records, R225. -/
def ZState.code : ZState → Nat
  | .blank => 0
  | .open_ => 1
  | .closed => 2
  | .short => 3

/-- The state a code stands for. -/
def ZState.ofCode (n : Nat) : ZState :=
  match n % 4 with
  | 0 => .blank
  | 1 => .open_
  | 2 => .closed
  | _ => .short

/-- The low part that ZONE_PTR and SLIP share, R801: TYPE, HOME_CELL, SLOT, SIDE, LAYER, ZONE. A disc's key is its
home cell times 4,096 plus its home slot. -/
def recordPlace (type zk : Nat) : Nat :=
  let d := zoneDisc zk
  type + (d / 4096 % 8) * 2 ^ 4 + (d % 4096) * 2 ^ 7 + zoneSide zk * 2 ^ 19 + zoneLayer zk * 2 ^ 20
    + zoneNum zk * 2 ^ 24

/-- A ZONE_PTR word, R801. -/
def zonePtrWord (zk frontier slips state : Nat) (pf : Bool) (discId : Nat) : Nat :=
  recordPlace 1 zk + frontier % 2 ^ 14 * 2 ^ 30 + slips % 256 * 2 ^ 44 + state % 4 * 2 ^ 52
    + (if pf then 2 ^ 54 else 0) + discId % 512 * 2 ^ 55

/-- A SLIP word, R801. -/
def slipWord (zk offset slips discId : Nat) : Nat :=
  recordPlace 2 zk + offset % 2 ^ 14 * 2 ^ 30 + slips % 256 * 2 ^ 44 + discId % 512 * 2 ^ 55

/-- The ZONE_PTR word of a zone as it stands. -/
def State.zonePtr (s : State) (zk : Nat) (pf : Bool) : Nat :=
  let z := s.zone zk
  zonePtrWord zk z.frontier z.slips.length z.state.code pf (s.disc (zoneDisc zk)).discId

/-- The zone that a ZONE_PTR or SLIP word speaks of, R801. -/
def wordZone (w : Nat) : Nat :=
  zoneKey (bitsOf w 4 3 * 4096 + bitsOf w 7 12) (bitsOf w 19 1) (bitsOf w 20 4) (bitsOf w 24 6)

/-- A rising list of slips with an offset in its place. -/
def addSlip (l : List Nat) (o : Nat) : List Nat := l.filter (· < o) ++ [o] ++ l.filter (o < ·)

/-- A source's frontier, slip and state merged into a zone (R807). No source moves a frontier back. -/
def Zone.merge (z : Zone) (frontier : Nat) (slip : Option Nat) (st : ZState) : Zone :=
  let f := max z.frontier frontier
  let sl := (match slip with | some o => addSlip z.slips o | none => z.slips).filter (· < f)
  let stronger := z.frontier < frontier || z.state == .blank
    || (z.frontier == frontier && (st == .closed || st == .short) && z.state == .open_)
  { z with frontier := f, slips := sl, frames := f - sl.length, acc := max z.acc (f - sl.length),
           state := if stronger then st else z.state }

/-- A ZONE_PTR or SLIP word applied to the catalogue state (R801, R807). A word whose DISC_TAG is not that of the disc, and one
of a finalised side, changes nothing. -/
def State.mergeWord (s : State) (w : Nat) : State :=
  let zk := wordZone w
  let d := s.disc (zoneDisc zk)
  let sd := if zoneSide zk = 0 then d.a else d.b
  if bitsOf w 55 9 ≠ d.discId % 512 ∨ sd.finalised then s
  else if w % 16 = 1 then s.putZone zk ((s.zone zk).merge (bitsOf w 30 14) none (ZState.ofCode (bitsOf w 52 2)))
  else if w % 16 = 2 then s.putZone zk ((s.zone zk).merge (bitsOf w 30 14 + 1) (some (bitsOf w 30 14)) .open_)
  else s

/-- A record becomes due for the journal. -/
def State.journal (s : State) (x : JItem) : State := { s with jq := s.jq ++ [x] }

/-- Records held for a home cell. -/
def State.proxyCount (s : State) (c : Nat) : Nat := (s.stack.proxies.filter fun p => p.cell == c).length

/-- A word of a zone becomes due: in the cell's own journal; for a disc of another cell by CAT to its home cell (R555), or as a
proxy record while that cell cannot be reached (R556, R804). DESIGN CHOICE, assumption 37. -/
def State.journalWord (s : State) (zk word frames : Nat) : State :=
  let home := zoneDisc zk / 4096
  if home = s.cell then s.journal { words := [word], zone := some zk, frames := frames }
  else if s.reach home then s.ringSend home 0x08 [2, word]
  else
    let s1 : State := { s with stack := { s.stack with proxies := s.stack.proxies ++ [{ cell := home, word := word }] } }
    (s1.journal { words := [], zone := some zk, frames := frames, type := 11, info := [word] }).raiseWin 0x0F08 home
      [home, s1.proxyCount home] false

/-- A zone's pointer becomes due (R802). -/
def State.journalZone (s : State) (zk : Nat) : State :=
  let s1 := s.journalWord zk (s.zonePtr zk false) (s.zone zk).frames
  s1.putZone zk { s1.zone zk with jdue := (s1.zone zk).frames }

/-- A slip becomes due, before the frame concerned is encoded again (R800). -/
def State.journalSlip (s : State) (zk off : Nat) : State :=
  s.journalWord zk (slipWord zk off (s.zone zk).slips.length (s.disc (zoneDisc zk)).discId) 0

/-! ### Management records -/

/-- One side of a disc. -/
def Disc.side (d : Disc) (i : Nat) : DiscSide := if i = 0 then d.a else d.b

/-- A disc with one side replaced. -/
def Disc.setSide (d : Disc) (i : Nat) (x : DiscSide) : Disc := if i = 0 then { d with a := x } else { d with b := x }

/-- The common header of a management frame, R220. -/
def mgmtHeader (type seqNo discId time side : Nat) : List Nat :=
  bytesLE 4 0x4D475231 ++ bytesLE 2 1 ++ bytesLE 2 type ++ bytesLE 4 seqNo ++ bytesLE 4 0 ++ bytesLE 8 discId
    ++ bytesLE 8 time ++ bytesLE 1 side ++ List.replicate 31 0

/-- The body of an IDENTITY record, R221. -/
def identityBody (initTime serial : Nat) : List Nat :=
  bytesLE 2 1 ++ [16, 64] ++ bytesLE 2 8320 ++ bytesLE 2 8192 ++ bytesLE 8 initTime ++ bytesLE 8 serial

/-- A zone table entry, R225. -/
def zoneEntry (z : Zone) : List Nat :=
  [z.state.code, z.slips.length] ++ bytesLE 2 z.frames ++ bytesLE 2 z.frontier ++ bytesLE 2 0
    ++ bytesLE 4 (if z.slips.isEmpty then 0 else z.slipRec) ++ bytesLE 4 z.closeTime

/-- A slip list of a record, R227. -/
def slipList (e : Nat) (z : Zone) : List Nat :=
  bytesLE 2 e ++ bytesLE 2 z.slips.length ++ z.slips.flatMap (bytesLE 2)

/-- The zones of a side whose slip lists are due, in ascending entry (R227, R228). -/
def State.listsDue (s : State) (d side : Nat) : List Nat :=
  (upTo 1024).filter fun e =>
    let z := s.zone (zoneKey d side 0 0 + e)
    !z.slips.isEmpty && (z.listDue || z.slipRec == 0)

/-- The zone table entry that the latest record of a side gives a zone; before the first it is BLANK (R228). -/
def DiscSide.lastEntry (sd : DiscSide) (e : Nat) : List Nat :=
  if ofBytesLE ((sd.force.drop 6).take 2) ≤ 1 then List.replicate 16 0 else (sd.force.drop (96 + 16 * e)).take 16

/-- The body of a ZONE_STATE or FINALISE record, R224: calibration pointers, the zone table, slip lists. A zone whose list is to come
in a later record keeps its earlier entry (R228). -/
def State.zoneStateBody (s : State) (d side : Nat) (lists later : List Nat) : List Nat :=
  let sd := (s.disc d).side side
  let base := zoneKey d side 0 0
  ((upTo 16).flatMap fun l => bytesLE 2 (mget 0 sd.pca l))
    ++ ((upTo 1024).flatMap fun e => if later.contains e then sd.lastEntry e else zoneEntry (s.zone (base + e)))
    ++ bytesLE 2 lists.length ++ lists.flatMap fun e => slipList e (s.zone (base + e))

/-- The record in force goes to the copy that it is missing from, before any other management write on the side (R231). DESIGN
CHOICE, assumption 38. -/
def State.mgmtRepair (s : State) (d side : Nat) : State :=
  let x := s.disc d
  let sd := x.side side
  let m := fun (copy : Nat) => ({ disc := d, side := side, copy := copy, type := ofBytesLE ((sd.force.drop 6).take 2),
                                  seqNo := sd.seqNo, body := sd.force } : Mgmt)
  if sd.missA then
    { s.putDisc d (x.setSide side { sd with missA := false }) with mgmtQ := s.mgmtQ ++ [m 0] }
  else if sd.missB then
    { s.putDisc d (x.setSide side { sd with missB := false }) with mgmtQ := s.mgmtQ ++ [m 1] }
  else s

/-- A record becomes due on both copies of a side, copy A first, with the next SEQUENCE (R219, R220). DESIGN CHOICE, assumption
38. -/
def State.mgmtRecord (s0 : State) (d side type : Nat) (body : List Nat) : State :=
  let s := s0.mgmtRepair d side
  let x := s.disc d
  let sd := x.side side
  let n := sd.seqNo + 1
  let rec_ := mgmtHeader type n x.discId s.time side ++ body
  let m := fun copy => ({ disc := d, side := side, copy := copy, type := type, seqNo := n, body := rec_ } : Mgmt)
  { s.putDisc d (x.setSide side { sd with seqNo := n, force := rec_ }) with mgmtQ := s.mgmtQ ++ [m 0, m 1] }

/-- The lists of a set, 188 at a time, each in a record of its own (R228). A zone whose list is in the record names it
as its SLIP_REC; with the last record the zones have no more changes to write. A FINALISE record comes last, as readers heed none
beyond it (R236). DEDUCED, assumption 224. -/
def State.mgmtSet : Nat → State → Nat → Nat → Nat → State
  | 0, s, _, _, _ => s
  | n + 1, s, d, side, type =>
    let due := s.listsDue d side
    let now := due.take 188
    let last := decide (due.length ≤ 188)
    let base := zoneKey d side 0 0
    let seqNo := ((s.disc d).side side).seqNo + 1
    let s1 := now.foldl (fun t e => t.putZone (base + e) { t.zone (base + e) with slipRec := seqNo, listDue := false }) s
    let s2 := s1.mgmtRecord d side (if last then type else 2) (s1.zoneStateBody d side now (due.drop 188))
    if last then
      { s2 with zones := s2.zones.map fun p =>
          if zoneDisc p.1 == d && zoneSide p.1 == side then (p.1, { p.2 with changed := false }) else p }
    else s2.mgmtSet n d side type

/-- The OPEN zones of a side. -/
def State.openZones (s : State) (d side : Nat) : List Nat :=
  (s.zones.filter fun p => zoneDisc p.1 == d && zoneSide p.1 == side && p.2.state == .open_).map Prod.fst

/-- The unused indices of the fuller copy of a side, once the records that wait have theirs (R232). -/
def State.unusedIdx (s : State) (d side : Nat) : Nat :=
  let sd := (s.disc d).side side
  let due := fun (copy : Nat) => (s.mgmtQ.filter fun m => m.disc == d && m.side == side && m.copy == copy && m.idx.isNone).length
  8192 - max (sd.idxA + due 0) (sd.idxB + due 1)

/-- A zone closes at its frontier (R229, R658): its pointer is journalled first (R802). -/
def State.closeZone (s : State) (zk : Nat) (st : ZState) : State :=
  let z := s.zone zk
  let s1 := s.putZone zk { z with state := st, closeTime := s.tb.sec, changed := true, acc := z.frames, stopped := false }
  s1.journalZone zk

end Sys2Proof.Machine
end

