-- ==== Sys2Proof/Machine/LoopOps.lean ====
section
/-!
DEFINITION. The loop engine: when a slot is due, what its sources read, the CHAIN and FOC computations, gates and
outputs (R336 to R372).
-/

namespace Sys2Proof.Machine

/-! ### Slots and rates (R336 to R340) -/

/-- Slots on a lane, ascending. -/
def laneSlots (l : Nat) : List Nat := (upTo 64).map fun i => 64 * l + i

/-- The divider of a rate. -/
def rateDiv (r : Nat) : Nat := if r = 0 then 1 else if r = 1 then 4 else 16

/-- A slot is enabled. -/
def State.slotOn (s : State) (sl : Nat) : Bool := s.flag Reg.DESC_CTRL_EN sl

/-- A slot is due in periods of this number (R340). -/
def State.slotDue (s : State) (sl k : Nat) : Bool :=
  k % rateDiv (s.rd Reg.DESC_CTRL_RATE sl) == s.rd Reg.DESC_CTRL_PHASE sl

/-- A slot computes the field-oriented current control of a spindle. -/
def State.isFoc (s : State) (sl : Nat) : Bool := s.rd Reg.DESC_CTRL_TYPE sl == 1

/-- The cost of a slot, R338. -/
def State.cost (s : State) (sl : Nat) : Nat :=
  if s.isFoc sl then 64
  else 8 + 4 * s.rd Reg.DESC_CTRL_NSEC sl + (if s.rd Reg.DESC_CTRL_INT_MODE sl = 0 then 0 else 4)
    + 6 * s.rd Reg.DESC_CTRL_NBR sl + 2 * s.rd Reg.DESC_CTRL_FF_EN sl

/-- The enabled slots of a lane. -/
def State.laneOn (s : State) (l : Nat) : List Nat := (laneSlots l).filter s.slotOn

/-- The load of a list of slots in periods k (R339). -/
def State.loadOf (s : State) (sls : List Nat) (k : Nat) : Nat :=
  (sls.filter fun sl => s.slotDue sl k).foldl (fun a sl => a + s.cost sl) 0

/-- The heaviest load of a lane and the least k mod 16 with it. -/
def State.peak (s : State) (l : Nat) : Nat × Nat :=
  (upTo 16).foldl (fun (b : Nat × Nat) k => let x := s.loadOf (s.laneOn l) k; if b.1 < x then (x, k) else b) (0, 0)

/-- The phase at which a slot starts in the periods of its due phase with the heaviest load before it. -/
def State.startPhase (s : State) (sl : Nat) : Nat :=
  if s.slotOn sl then
    let before := (s.laneOn (sl / 64)).filter fun x => x < sl
    let ks := (upTo 16).filter fun k => s.slotDue sl k
    1100 + ((ks.foldl (fun (b : Nat × Nat) k =>
      let tot := s.loadOf (s.laneOn (sl / 64)) k
      if b.1 < tot then (tot, s.loadOf before k) else b) (0, 0)).2)
  else 0

/-- LPE_ERR holds the first error since VALID was cleared (R378). -/
def State.lpeErr (s : State) (sl code : Nat) : State :=
  if s.flag Reg.LPE_ERR_VALID 0 then s
  else ((s.set1 Reg.LPE_ERR_VALID 0).wr Reg.LPE_ERR_SLOT 0 sl).wr Reg.LPE_ERR_CODE 0 code

/-! ### Words and gates (R354, R371, R382, R383) -/

/-- The key of ACTUATE word w of station n. -/
def wordKey (n w : Nat) : Nat := n * 32 + w

/-- The value a gate substitutes at an elapsed moment. -/
def gateValue (now : Nat) : Gate → Int
  | .hold v => v
  | .ramp a b start dur =>
    if now ≤ start then a
    else if start + dur ≤ now then b
    else a + roundDiv ((b - a) * ((now - start : Nat) : Int)) (max 1 dur)
  | .stair base step n start => base + step * ((min n ((now - start) / 5000 + 1) : Nat) : Int)
  | .toward a b rate start =>
    let d := min (rate * ((now - start) / 20000 + 1)) (b - a).natAbs
    if a ≤ b then a + (d : Int) else a - (d : Int)

/-- A gate has begun: the steps of a jump start at a period's boundary (R395, R397). -/
def Gate.begun (now : Nat) : Gate → Bool
  | .stair _ _ _ start => decide (start ≤ now)
  | .hold _ | .ramp .. | .toward .. => true

/-- The gate of a word, if it is gated now. -/
def State.gate (s : State) (n w : Nat) : Option Gate := (mfind s.loop.gates (wordKey n w)).filter (Gate.begun s.now)

/-- A word is gated. -/
def State.setGate (s : State) (n w : Nat) (g : Gate) : State :=
  { s with loop := { s.loop with gates := mput s.loop.gates (wordKey n w) g } }

/-- The value of a word last sent. -/
def State.sentWord (s : State) (n w : Nat) : Int := mget 0 s.loop.sent (wordKey n w)

/-- The enabled slot that writes an ACTUATE word. -/
def State.writerOf (s : State) (n w : Nat) : Option Nat :=
  (upTo 2048).find? fun sl => s.slotOn sl && s.rd Reg.DESC_IO_OUT_DEST sl == 0x2000 + n * 64 + w

/-- A bank word as a signed number: a gain in s3.28, or a value in s0.23 sign-extended (R364). DESIGN CHOICE, assumption 70. -/
def State.bankAt (s : State) (sl bank w : Nat) : Int := s.rdS Reg.LPE_BANK_WORD ((sl * 2 + bank) * 64 + w)

/-- A word of the active bank. -/
def State.coef (s : State) (sl w : Nat) : Int := s.bankAt sl (s.rd Reg.DESC_CTRL_BANK sl) w

/-- A slot's section states and previous output are zero and its integrator holds a value. -/
def State.resetSlot (s : State) (sl : Nat) (i : Int) : State :=
  s.putLslot sl { s.lslot sl with s1 := [], s2 := [], y := 0, i := i }

/-- A loop closes after a gate: the states are zero and I holds the last value within INT_LO and INT_HI (R383). -/
def State.closeLoop (s : State) (sl : Nat) (v : Int) : State :=
  s.resetSlot sl (clampInt (s.coef sl 47 * 2 ^ 17) (s.coef sl 46 * 2 ^ 17) (v * 2 ^ 17))

/-- A gate is released (R383). -/
def State.release (s : State) (n w : Nat) : State :=
  match s.gate n w with
  | none => s
  | some g =>
    let s1 : State := { s with loop := { s.loop with gates := mdel s.loop.gates (wordKey n w) } }
    match s.writerOf n w with
    | some sl => s1.closeLoop sl (gateValue s.now g)
    | none => s1

/-- A static output: LPE_OUT takes a value with OVR 1 (R371); a word of 16 to 19 counts as written (R343). -/
def State.setOut (s : State) (n w v : Nat) : State :=
  let s1 := (s.wr Reg.LPE_OUT_VALUE (n * 24 + w) v).set1 Reg.LPE_OUT_OVR (n * 24 + w)
  if 16 ≤ w then { s1 with loop := { s1.loop with duty := mput s1.loop.duty (wordKey n w) (signed 24 v),
                                                   dutyNew := wordKey n w :: s1.loop.dutyNew } }
  else s1

/-- The output of the slot that writes a word, as it last ran, gated or not. -/
def State.slotOut (s : State) (n w : Nat) : Int :=
  match s.writerOf n w with
  | some sl => ((s.lslot sl).pubs.headD (0, [])).2.headD 0
  | none => s.sentWord n w

/-- A loop parameter is written. -/
def State.setPrm (s : State) (i : Nat) (v : Int) : State := s.wrS Reg.LPE_PRM_VALUE i v

/-- A loop parameter in the copy that slots read (R370). -/
def State.prm (s : State) (i : Nat) : Int := signed 24 (mget 0 s.loop.prm i)

/-! ### Sources (R351 to R357) -/

/-- A SENSOR word's last VALID value. -/
def State.sensor (s : State) (n w : Nat) : Int := signed 24 ((s.stn n).sensor.getD w 0)

/-- The rank of a station among the locked members of its group and their number (R90). DESIGN CHOICE, assumption 27. -/
def State.vgRank (s : State) (n : Nat) : Nat × Nat :=
  let g := s.vgOf n
  let on := fun m => s.vgOf m == g && s.rd Reg.STN_SP_SPEED_SP_RPM m == 10000 && s.flag Reg.STN_SP_CTRL_PHASE_ALLOW m
    && s.rd Reg.STN_SP_STATUS_STATE m == 8 && s.flag Reg.STN_SP_STATUS_AT_SPEED m
  let mem := (upTo 128).filter on
  ((mem.filter fun m => m < n).length, mem.length)

/-- The spindle reference angle of a station as a fraction of a half turn, s0.23 (R89, R90, R351). DESIGN CHOICE, assumption 27.
-/
def State.vgRef (s : State) (n : Nat) : Int :=
  let (rank, cnt) := s.vgRank n
  let off := 9000000 * rank / max 1 cnt
  let a := (s.lin + off) % 9000000
  (roundDiv ((a : Int) * 2 ^ 24) 9000000 + 2 ^ 23) % 2 ^ 24 - 2 ^ 23

/-- The signals of a slot that a reader of period k sees: the last publication of an earlier period, ramped from the
one before it where the reader interpolates and runs at a higher rate (R353, R356). -/
def State.signal (s : State) (k reader sl i : Nat) : Int :=
  let vis := (s.lslot sl).pubs.filter fun p => p.1 != k
  let new := match vis with | p :: _ => p.2.getD i 0 | [] => 0
  let old := match vis with | _ :: p :: _ => p.2.getD i 0 | _ => 0
  let kp := match vis with | p :: _ => p.1 | [] => k
  let ds := rateDiv (s.rd Reg.DESC_CTRL_RATE sl)
  let dr := rateDiv (s.rd Reg.DESC_CTRL_RATE reader)
  if s.flag Reg.DESC_CTRL_INTERP reader && dr < ds then
    let dd := ds / dr
    let j := min dd ((k - kp + dr - 1) / dr)
    old + roundDiv ((new - old) * (j : Int)) dd
  else new

/-- What the spindle sequencer substitutes for signal 0 of a station's speed slot: nothing, a value, or 0 in OFF (R440, R450). -/
def State.speedGate (s : State) (n : Nat) : Option Int :=
  match mfind s.loop.speedGates n with
  | some v => some v
  | none => if s.rd Reg.STN_SP_STATUS_STATE n = 0 then some 0 else none

/-- A source's value for a reader in period k, s0.23 (R351). The speed gate of R440 stands in for the speed slot's
signal 0 where the FOC slot of a station reads it. -/
def State.source (s : State) (k reader src : Nat) : Int :=
  match src / 2 ^ 13 with
  | 1 => s.sensor (src / 64 % 128) (src % 32)
  | 2 =>
    let sl := src / 4 % 2048
    let st := (upTo 128).find? fun n => s.rd Reg.STN_SP_SLOTS_FOC_SLOT n == reader
                && s.rd Reg.STN_SP_SLOTS_SPD_SLOT n == sl && (s.speedGate n).isSome
    if src % 4 = 0 then
      match st.bind s.speedGate with
      | some v => v
      | none => s.signal k reader sl 0
    else s.signal k reader sl (src % 4)
  | 3 => s.prm (src % 2 ^ 13)
  | 4 => s.vgRef (src % 128)
  | 5 => (s.axis (src % 512)).accel
  | _ => 0

/-- A source's encoding is legal and names what exists (R351, R361). -/
def sourceOk (src : Nat) : Bool :=
  match src / 2 ^ 13 with
  | 0 => src == 0
  | 1 => !bitOf src 5 && src % 32 ≤ 22
  | 2 => true
  | 3 => true
  | 4 => src / 128 % 64 == 0
  | 5 => src / 512 % 16 == 0 && src % 512 ≤ 263
  | _ => false

/-- The sources a slot's descriptor names: SRC0 to SRC3, FF_SRC, those of its branches; of FOC, SRC0 and SRC1 (R357, R360). DESIGN
CHOICE, assumption 229. -/
def State.sourcesOf (s : State) (sl : Nat) : List Nat :=
  let a := [s.rd Reg.DESC_SRC01_SRC0 sl, s.rd Reg.DESC_SRC01_SRC1 sl]
  if s.isFoc sl then a
  else
    a ++ [s.rd Reg.DESC_SRC23_SRC2 sl, s.rd Reg.DESC_SRC23_SRC3 sl, s.rd Reg.DESC_IO_FF_SRC sl]
      ++ [s.rd Reg.DESC_BR01_BR_SRC0 sl, s.rd Reg.DESC_BR01_BR_SRC1 sl, s.rd Reg.DESC_BR2_BR_SRC2 sl].take
          (s.rd Reg.DESC_CTRL_NBR sl)

/-- The station a slot drives through its OUT_DEST, or that of its axis (R373). -/
def State.slotStn (s : State) (sl : Nat) : Option Nat :=
  let d := s.rd Reg.DESC_IO_OUT_DEST sl
  if d / 2 ^ 13 = 1 then some (d / 64 % 128) else if d / 2 ^ 13 = 2 then some (d % 512 / 2) else none

/-- A slot's inputs are stale in this period (R357). -/
def State.inputsStale (s : State) (sl : Nat) : Bool :=
  ((s.sourcesOf sl).any fun x => x / 2 ^ 13 == 1 && (s.stn (x / 64 % 128)).stale)
    || (s.isFoc sl && (match s.slotStn sl with | some n => (s.stn n).stale | none => false))

/-! ### CHAIN (R345 to R349) -/

/-- What one run of a CHAIN slot forms. -/
structure ChainRun where
  s1 : List Int
  s2 : List Int
  i : Int
  e : Int
  u : Int
  out : Int
  sel : Nat
deriving DecidableEq, Repr

/-- The biquad sections in order: the value that leaves the last one, and the new states. -/
def sections (c : Nat → Int) (s1 s2 : List Int) : Nat → Nat → Int → Int × List Int × List Int
  | 0, _, v => (v, [], [])
  | n + 1, j, v =>
    let b0 := c (5 + 5 * j)
    let y := stage 32 28 (b0 * v + s1.getD j 0 * 2 ^ 12)
    let a := stage 48 12 (c (6 + 5 * j) * v - c (8 + 5 * j) * y + s2.getD j 0 * 2 ^ 12)
    let b := stage 48 12 (c (7 + 5 * j) * v - c (9 + 5 * j) * y)
    let r := sections c s1 s2 n (j + 1) y
    (r.1, a :: r.2.1, b :: r.2.2)

/-- A value wrapped into [-1, 1), in units of 2^-n. -/
def wrapUnit (n : Nat) (x : Int) : Int := (x + 2 ^ n) % 2 ^ (n + 1) - 2 ^ n

/-- The output path after the integrator: feed-forward, min-select, limits. It answers u, sel and out (R347 to
R349). -/
def State.chainOut (s : State) (k sl : Nat) (v i : Int) : Int × Nat × Int :=
  let c := s.coef sl
  let p0 := if s.rd Reg.DESC_CTRL_INT_MODE sl = 3 then stage 32 16 i else stage 32 16 (v * 2 ^ 16 + i)
  let f := s.source k sl (s.rd Reg.DESC_IO_FF_SRC sl)
  let p :=
    if !s.flag Reg.DESC_CTRL_FF_EN sl then p0
    else if s.flag Reg.DESC_CTRL_FF_MODE sl then
      sat 32 (roundDiv (p0 * c 50) ((if f < 2 ^ 19 then 2 ^ 19 else f).toNat * 32))
    else stage 32 27 (p0 * 2 ^ 27 + c 50 * f)
  let y := (s.lslot sl).y
  let br := [s.rd Reg.DESC_BR01_BR_SRC0 sl, s.rd Reg.DESC_BR01_BR_SRC1 sl, s.rd Reg.DESC_BR2_BR_SRC2 sl]
  let pick := (upTo (s.rd Reg.DESC_CTRL_NBR sl)).foldl (fun (b : Int × Nat) i =>
    let x := s.source k sl (br.getD i 0)
    let cand := stage 32 55 (y * 2 ^ 39 + c (58 + i) * (c (52 + i) * 2 ^ 28 + c (55 + i) * x))
    if cand < b.1 then (cand, i + 1) else b) (p, 0)
  (pick.1, pick.2, clampInt (c 49) (c 48) (stage 24 1 pick.1))

/-- One run of a CHAIN slot in period k. DESIGN CHOICE, assumption 70. -/
def State.chain (s : State) (k sl : Nat) : ChainRun :=
  let c := s.coef sl
  let x := s.lslot sl
  let src := fun f => s.source k sl (s.rd f sl)
  let e0 := stage 32 27 (c 4 * 2 ^ 28 + c 0 * src Reg.DESC_SRC01_SRC0 + c 1 * src Reg.DESC_SRC01_SRC1
    + c 2 * src Reg.DESC_SRC23_SRC2 + c 3 * src Reg.DESC_SRC23_SRC3)
  let e := if s.flag Reg.DESC_CTRL_EWRAP sl then wrapUnit 24 e0 else e0
  let r := sections c x.s1 x.s2 (s.rd Reg.DESC_CTRL_NSEC sl) 0 e
  let v := r.1
  let mode := s.rd Reg.DESC_CTRL_INT_MODE sl
  let kv := c 45 * v
  let sum := roundDiv (x.i * 2 ^ 12 + kv) (2 ^ 12)
  let inn :=
    if mode = 0 then 0
    else if mode = 3 then wrapUnit 40 sum
    else clampInt (c 47 * 2 ^ 17) (c 46 * 2 ^ 17) (sat 48 sum)
  let o := s.chainOut k sl v inn
  let hold := ((mode = 1 ∨ mode = 2) ∧ o.2.1 ≠ 0 ∧ 0 < kv)
    ∨ (mode = 2 ∧ ((o.2.2 = c 48 ∧ 0 < kv) ∨ (o.2.2 = c 49 ∧ kv < 0)))
  let i' := if hold then x.i else inn
  let o' := if hold then s.chainOut k sl v x.i else o
  { s1 := r.2.1, s2 := r.2.2, i := i', e := e, u := o'.1, sel := o'.2.1, out := o'.2.2 }

/-! ### FOC (R358, R432) -/

/-- 1/√3 and √3/2 in units of 2^-60. -/
def invRoot3 : Int := 665639541039271462
def halfRoot3 : Int := 998459311558907193

/-- What one run of an FOC slot forms: the observer and integrators, the three duties in s0.23, the residual and the
measured q-axis current in s0.23. -/
structure FocRun where
  foc : Foc
  duty : List Int
  res : Int
  iq : Int
deriving DecidableEq, Repr

/-- A PI controller: its output in the path format and its new integrator (R358 step 3). -/
def piStep (kp ki e i : Int) : Int × Int :=
  let inn := stage 48 12 (i * 2 ^ 12 + ki * e)
  (stage 32 28 (kp * e + inn * 2 ^ 12), inn)

/-- An integrator is held where the voltage limit acts and its step drives the output further (the hold of INT_MODE 2). DEDUCED,
assumption 65. -/
def piHold (lim : Bool) (ki e v i inn : Int) : Int :=
  if lim && ((0 < ki * e && 0 < v) || (ki * e < 0 && v < 0)) then i else inn

/-- One run of an FOC slot: iq* and id* in s0.23, the angle to use, and whether the inputs are stale. DEDUCED, assumptions 65 and
66. -/
def State.focRun (s : State) (sl n : Nat) (iqRef idRef : Int) (angle : Int) (stale : Bool) : FocRun :=
  let c := s.coef sl
  let x := (s.lslot sl).foc
  let ia := s.sensor n 16 * 2
  let ib := stage 32 60 ((s.sensor n 16 * 2 + 2 * (s.sensor n 17 * 2)) * invRoot3)
  let cs := cosHalf angle
  let sn := sinHalf angle
  let id := stage 32 60 (ia * cs + ib * sn)
  let iq := stage 32 60 (ib * cs - ia * sn)
  let ed := sat 32 (idRef * 2 - id)
  let eq := sat 32 (iqRef * 2 - iq)
  let pd := piStep (c 0) (c 1) ed x.intD
  let pq := piStep (c 2) (c 3) eq x.intQ
  let vmax := (c 4 * 2).toNat
  let lim := vmax < vecLen pd.1 pq.1
  let nd := piHold lim (c 1) ed pd.1 x.intD pd.2
  let nq := piHold lim (c 3) eq pq.1 x.intQ pq.2
  let vd0 := stage 32 28 (c 0 * ed + nd * 2 ^ 12)
  let vq0 := stage 32 28 (c 2 * eq + nq * 2 ^ 12)
  let len := vecLen vd0 vq0
  let vd := if vmax < len then roundDiv (vd0 * vmax) len else vd0
  let vq := if vmax < len then roundDiv (vq0 * vmax) len else vq0
  let va := stage 32 60 (vd * cs - vq * sn)
  let vb := stage 32 60 (vd * sn + vq * cs)
  let vdc := (max (s.sensor n 21) (2 ^ 19)).toNat
  let ua := sat 32 (roundDiv (va * c 5) vdc)
  let ub := sat 32 (roundDiv (vb * c 5) vdc)
  let p1 := ua
  let p2 := stage 32 60 (-(ua * 2 ^ 59) + ub * halfRoot3)
  let p3 := stage 32 60 (-(ua * 2 ^ 59) - ub * halfRoot3)
  let hi := max p1 (max p2 p3)
  let lo := min p1 (min p2 p3)
  let duty := fun (p : Int) => clampInt (c 6) (c 7) (stage 24 2 (2 ^ 24 + 2 * p - hi - lo))
  let i40 := fun (v : Int) => v * 2 ^ 16
  let ra := i40 ia - x.ia
  let rb := i40 ib - x.ib
  let res := sat 24 (roundDiv (max (ra.natAbs : Int) (rb.natAbs : Int)) (2 ^ 17))
  let ea := stage 48 28 (x.ea * 2 ^ 28 + c 10 * ra)
  let eb := stage 48 28 (x.eb * 2 ^ 28 + c 10 * rb)
  let pred := fun (i v e : Int) => stage 48 56 (i * 2 ^ 56 + c 8 * (v * 2 ^ 44 - c 9 * i - e * 2 ^ 28))
  let ct := cosHalf x.th
  let st := sinHalf x.th
  let elen := max (vecLen ea eb) (2 ^ 34)
  let dir : Int := if x.w < 0 then 1 else -1
  let eps := dir * sat 48 (roundDiv (ea * ct + eb * st) (elen * 2 ^ 20))
  let w := stage 48 28 (x.w * 2 ^ 28 + c 12 * eps)
  let th := wrapHalf (roundDiv (x.th * 2 ^ 28 + c 13 * w + c 11 * eps) (2 ^ 28))
  let foc :=
    if stale then { x with va := va, vb := vb }
    else { th := th, w := w, ia := pred (i40 ia) x.va ea, ib := pred (i40 ib) x.vb eb, ea := ea, eb := eb, va := va,
           vb := vb, intD := nd, intQ := nq, ws := (sat 24 (roundDiv w (2 ^ 17)) :: x.ws).take 17 }
  { foc := foc, duty := [duty p1, duty p2, duty p3], res := res, iq := sat 24 (roundDiv iq 2) }

/-! ### Outputs of a period -/

/-- The words that slots wrote in period k. -/
def State.ranIn (s : State) (k : Nat) : List (Nat × Int) := if s.loop.ranAt = k then s.loop.ran else []

/-- A slot writes an ACTUATE word in period k. -/
def State.writeWord (s : State) (k n w : Nat) (v : Int) : State :=
  let key := wordKey n w
  let s1 : State := { s with loop := { s.loop with ran := mput (s.ranIn k) key v, ranAt := k } }
  if 16 ≤ w then
    { s1 with loop := { s1.loop with duty := mput s1.loop.duty key v, dutyNew := key :: s1.loop.dutyNew } }
  else s1

/-- A slot publishes its four signals in period k (R352, R353). -/
def State.publish (s : State) (k sl : Nat) (sig : List Int) : State :=
  let x := s.lslot sl
  let s1 := s.putLslot sl { x with pubs := ((k, sig) :: x.pubs).take 3 }
  (upTo 4).foldl (fun t i => t.wrS Reg.LPE_SIG_VALUE (sl * 4 + i) (sig.getD i 0)) s1

/-- One bit of a bitmap of slots. -/
def State.slotBit (s : State) (f : Fld) (sl : Nat) (on : Bool) : State :=
  s.wr f (sl / 32) (setBits (s.rd f (sl / 32)) (sl % 32) 1 (if on then 1 else 0))

/-- Is a slot flagged in a bitmap? -/
def State.slotFlag (s : State) (f : Fld) (sl : Nat) : Bool := bitOf (s.rd f (sl / 32)) (sl % 32)

end Sys2Proof.Machine
end

