-- ==== Sys2Proof/Machine/MotionOps.lean ====
section
/-!
DEFINITION. The motion engine: the plans of moves, the times of their steps, and what starts, stops and refuses a move
(R484 to R511).
-/

namespace Sys2Proof.Machine

/-! ### Axis states (R504) -/

def axDisabled : Nat := 0
def axUnref : Nat := 1
def axHoming : Nat := 2
def axIdle : Nat := 3
def axMoving : Nat := 4
def axFollow : Nat := 5
def axFault : Nat := 6

def State.axState (s : State) (a : Nat) : Nat := s.rd Reg.MOT_AX_STATUS_STATE a

/-- The state with an axis in a state; MOVING is 1 while it homes, moves or follows. -/
def State.setAx (s : State) (a st : Nat) : State :=
  (s.wr Reg.MOT_AX_STATUS_STATE a st).wrB Reg.MOT_AX_STATUS_MOVING a (st == axHoming || st == axMoving)

def State.axPos (s : State) (a : Nat) : Int := s.rdS Reg.MOT_AX_POS_VALUE a

/-- MOT_ERR holds the first error since VALID was cleared (R530). DESIGN CHOICE, assumption 77. -/
def State.motErr (s : State) (a code : Nat) : State :=
  if s.flag Reg.MOT_ERR_VALID 0 then s
  else ((s.set1 Reg.MOT_ERR_VALID 0).wr Reg.MOT_ERR_AXIS 0 a).wr Reg.MOT_ERR_CODE 0 code

/-- An operation of MOT_AX_CMD is refused with a code (RESULT 1). DESIGN CHOICE, assumption 77. -/
def State.axRefuse (s : State) (a code : Nat) : State := (s.motErr a code).wr Reg.MOT_AX_CMD_RESULT a 1

/-- The operation of an axis is over. -/
def State.axDone (s : State) (a result : Nat) : State :=
  if s.flag Reg.MOT_AX_CMD_BUSY a then (s.clr Reg.MOT_AX_CMD_BUSY a).wr Reg.MOT_AX_CMD_RESULT a result else s

/-! ### Plans (R486 to R489). Times are in 2^-20 of a unit of 4 cycles. -/

/-- Q, units per second. -/
def stepQ : Nat := 375000000

/-- Time units per second. -/
def stepU : Nat := stepQ * 2 ^ 20

/-- t_acc for a distance given as twice its value in 2^-20 µsteps (R487). -/
def tAcc (p : Plan) (x2 : Nat) : Nat :=
  let root := isqrt (p.s * p.s * 2 ^ 80 + p.acc * x2 * 2 ^ 60)
  (root - p.s * 2 ^ 40) * stepQ / (p.acc * 2 ^ 20)

/-- Twice xa of R487, in 2^-20 µsteps, for a move of n steps. -/
def xa2 (p : Plan) (n : Nat) : Nat := min ((p.v * p.v - p.s * p.s) * 2 ^ 20 / p.acc) (n * 2 ^ 20)

/-- The whole time of a trapezoid. -/
def trapTotal (p : Plan) (n : Nat) : Nat :=
  2 * tAcc p (xa2 p n) + (n * 2 ^ 20 - xa2 p n) * stepQ / p.v

/-- t_m of a trapezoid of n steps (R487). -/
def trapTime (p : Plan) (n m : Nat) : Nat :=
  let xa := xa2 p n
  if 2 * m * 2 ^ 20 ≤ xa then tAcc p (2 * m * 2 ^ 20)
  else if 2 * (n - m) * 2 ^ 20 ≤ xa then trapTotal p n - tAcc p (2 * (n - m) * 2 ^ 20)
  else tAcc p xa + (2 * m * 2 ^ 20 - xa) * stepQ / (2 * p.v)

/-- The jerk of a profile, µsteps/s³. -/
def jerkOf (p : Plan) : Nat := p.jerk * 256

/-- The time of one jerk ramp of the acceleration from VSTART to a speed given in 2^-10 µsteps/s. -/
def jerkT1 (p : Plan) (v10 : Nat) : Nat :=
  let d := v10 - p.s * 2 ^ 10
  if p.acc * p.acc * 2 ^ 10 ≤ d * jerkOf p then p.acc * stepU / jerkOf p
  else isqrt (d * stepU * stepU / (jerkOf p * 2 ^ 10))

/-- The time of the whole acceleration. -/
def jerkTa (p : Plan) (v10 : Nat) : Nat :=
  let d := v10 - p.s * 2 ^ 10
  if p.acc * p.acc * 2 ^ 10 ≤ d * jerkOf p then d * stepU / (p.acc * 2 ^ 10) + p.acc * stepU / jerkOf p
  else 2 * jerkT1 p v10

/-- The distance of the acceleration, in 2^-20 µsteps. -/
def jerkDist (p : Plan) (v10 : Nat) : Nat := (p.s * 2 ^ 10 + v10) * jerkTa p v10 * 2 ^ 10 / (2 * stepU)

/-- The highest speed of a move of n steps, 2^-10 µsteps/s, by bisection between VSTART and VMAX (R488). -/
def jerkPeak (p : Plan) (n : Nat) : Nat → Nat → Nat → Nat
  | 0, lo, _ => lo
  | f + 1, lo, hi =>
    let mid := (lo + hi) / 2
    if 2 * jerkDist p mid ≤ n * 2 ^ 20 then jerkPeak p n f mid hi else jerkPeak p n f lo mid

/-- The distance covered t units into the acceleration to a speed, in 2^-20 µsteps. -/
def jerkPos (p : Plan) (v10 t : Nat) : Nat :=
  let t1 := jerkT1 p v10
  let ta := jerkTa p v10
  let cubic := fun (x : Nat) => jerkOf p * x * x * x * 2 ^ 20 / (6 * stepU * stepU * stepU)
  if t ≤ t1 then p.s * t * 2 ^ 20 / stepU + cubic t
  else if t + t1 ≤ ta then
    let x := t - t1
    let v1 := p.s * 2 ^ 20 + jerkOf p * t1 * t1 * 2 ^ 20 / (2 * stepU * stepU)
    p.s * t1 * 2 ^ 20 / stepU + cubic t1 + v1 * x / stepU + jerkOf p * t1 * x * x * 2 ^ 20 / (2 * stepU * stepU * stepU)
  else
    let r := ta - t
    jerkDist p v10 - (v10 * r * 2 ^ 10 / stepU - cubic r)

/-- The least time at which the acceleration has covered a distance, by bisection over the bits of the time. -/
def jerkWhen (p : Plan) (v10 x : Nat) : Nat → Nat → Nat
  | 0, t => t
  | b + 1, t => if jerkPos p v10 (t + 2 ^ b) ≤ x then jerkWhen p v10 x b (t + 2 ^ b) else jerkWhen p v10 x b t

/-- t_m of a jerk-limited move of n steps (R488). -/
def jerkTime (p : Plan) (n m : Nat) : Nat :=
  let v10 := if 2 * jerkDist p (p.v * 2 ^ 10) ≤ n * 2 ^ 20 then p.v * 2 ^ 10
             else jerkPeak p n 60 (p.s * 2 ^ 10) (p.v * 2 ^ 10)
  let d := jerkDist p v10
  let ta := jerkTa p v10
  let cruise := (n * 2 ^ 20 - 2 * d) * stepQ * 2 ^ 10 / v10
  if m * 2 ^ 20 ≤ d then jerkWhen p v10 (m * 2 ^ 20) 64 0
  else if (n - m) * 2 ^ 20 ≤ d then 2 * ta + cruise - jerkWhen p v10 ((n - m) * 2 ^ 20) 64 0
  else ta + (m * 2 ^ 20 - d) * stepQ * 2 ^ 10 / v10

/-- The steps of a plan. -/
def Plan.steps (p : Plan) : Nat := (p.b - p.a).natAbs

/-- Q × t_m of a plan of n steps, before rounding (R487, R488). A homing run goes at one speed. -/
def Plan.planned (p : Plan) (n m : Nat) : Nat :=
  if p.homing ≠ 0 then m * stepU / max 1 p.v else if p.profile = 0 then trapTime p n m else jerkTime p n m

/-- Twice the distance of a deceleration, in 2^-20 µsteps. -/
def Brake.d2 (b : Brake) : Nat := (b.v * b.v - b.low * b.low) * 2 ^ 20 / b.dec

/-- The steps of a deceleration: down to VSTART it ends with one last step there (R493), to rest without (R499). -/
def Brake.steps (b : Brake) : Nat := b.d2 / 2 ^ 21 + if b.low = 0 then 0 else 1

/-- The time of step k of a deceleration, counted from its beginning. -/
def Brake.after (b : Brake) (k : Nat) : Nat :=
  let q : Plan := { a := 0, b := 0, acc := b.dec, s := b.low }
  if 2 * k * 2 ^ 20 ≤ b.d2 then tAcc q b.d2 - tAcc q (b.d2 - 2 * k * 2 ^ 20) else tAcc q b.d2 + stepU / max 1 b.low

/-- round(Q × t_m), halves up, in units of 4 cycles (R489). -/
def Plan.time (p : Plan) (m : Nat) : Nat :=
  let round := fun (t : Nat) => (t + 2 ^ 19) / 2 ^ 20
  if m = 0 then 0
  else
    match p.cut with
    | none => round (p.planned p.steps m)
    | some b => if m ≤ b.m then round (p.planned b.n0 m) else b.tm + round (b.after (m - b.m))

/-- The elapsed time at which a plan ends, once it is admitted. -/
def Plan.endAt (p : Plan) : Option Nat := p.at_.map fun t => t + 4 * p.time p.steps

/-- The step a plan has reached at an elapsed time, by bisection over the bits of its number. -/
def Plan.reached (p : Plan) (t0 now : Nat) : Nat → Nat → Nat
  | 0, m => m
  | b + 1, m =>
    if m + 2 ^ b ≤ p.steps ∧ t0 + 4 * p.time (m + 2 ^ b) ≤ now then p.reached t0 now b (m + 2 ^ b)
    else p.reached t0 now b m

/-- The speed of a plan after step m, µsteps/s, from the interval that follows. -/
def Plan.speedFrom (p : Plan) (m : Nat) : Nat := if p.steps ≤ m then 0 else stepQ / max 1 (p.time (m + 1) - p.time m)

/-- The speed of a plan at an elapsed time, from the interval of the step in progress. -/
def Plan.speedAt (p : Plan) (t0 now : Nat) : Nat := p.speedFrom (p.reached t0 now 32 0)

/-- The planned acceleration of a move at an elapsed time, ±1.0 standing for ±AMAX (R501). -/
def Plan.accelAt (p : Plan) (t0 now : Nat) : Int :=
  let t := (now - t0) * 2 ^ 20 / 4
  let tot := p.time p.steps * 2 ^ 20
  let full : Int := if p.b < p.a then -(2 ^ 23) else 2 ^ 23 - 1
  let slow : Int := match p.cut with | some b => -(clampInt (-(2 ^ 23)) (2 ^ 23 - 1) (full * b.dec / max 1 p.acc)) | none => 0
  let ta := if p.profile = 0 then tAcc p (xa2 p p.steps) else jerkTa p (p.v * 2 ^ 10)
  let t1 := if p.profile = 0 then 0 else jerkT1 p (p.v * 2 ^ 10)
  let part := fun (x : Nat) => if t1 = 0 then full else if x < t1 then full * x / t1 else if ta < x + t1 then full * (ta - x : Nat) / t1 else full
  if tot ≤ t then 0
  else if p.cut.any fun b => b.tm * 2 ^ 20 ≤ t then slow
  else if p.homing ≠ 0 then 0
  else if t < ta then part t
  else if tot - t < ta then -(part (tot - t))
  else 0

/-! ### Starting and stopping -/

/-- A profile that cannot move: a zero figure, or PROFILE 1 with JMAX 0 (R488, R530). -/
def State.badProfile (s : State) (a : Nat) : Bool :=
  s.rd Reg.MOT_AX_VMAX_VALUE a == 0 || s.rd Reg.MOT_AX_AMAX_VALUE a == 0 || s.rd Reg.MOT_AX_VSTART_VALUE a == 0
    || s.rd Reg.MOT_AX_STOP_DEC_VALUE a == 0
    || (s.flag Reg.MOT_AX_CTRL_PROFILE a && s.rd Reg.MOT_AX_JMAX_VALUE a == 0)

/-- A target lies within the limits of its axis (R494). -/
def State.inLimits (s : State) (a : Nat) (t : Int) : Bool :=
  s.rdS Reg.MOT_AX_LIM_LO_VALUE a ≤ t && t ≤ s.rdS Reg.MOT_AX_LIM_HI_VALUE a

/-- The door allows the picker axes to step (R514). -/
def State.doorOk (s : State) : Bool :=
  s.flag Reg.LIB_STATUS_DOOR_CLOSED 0 && s.flag Reg.LIB_STATUS_DOOR_LOCKED 0 && s.lib.lockOut

/-- A plan from the present position to a target with the figures in force (R486). -/
def State.planTo (s : State) (a : Nat) (t : Int) (byHead : Bool) : Plan :=
  { a := s.axPos a, b := t, profile := s.rd Reg.MOT_AX_CTRL_PROFILE a, v := s.rd Reg.MOT_AX_VMAX_VALUE a,
    acc := s.rd Reg.MOT_AX_AMAX_VALUE a, jerk := s.rd Reg.MOT_AX_JMAX_VALUE a, s := s.rd Reg.MOT_AX_VSTART_VALUE a,
    head := byHead }

/-- A picker axis, moved by its pins (R484). -/
def isPicker (a : Nat) : Bool := 256 ≤ a

/-- A step interval of a plan is below twice the time that AXn_STEP is held high (R954). -/
def State.tooFast (s : State) (a : Nat) (t : Int) : Bool :=
  let p := s.planTo a t false
  isPicker a && (upTo p.steps).any fun n => p.time (n + 1) - p.time n < 2 * s.rd Reg.MOT_PK_PULSE_PULSE 0

/-- A plan starts at a moment; on a picker axis AXn_DIR is set then, and the first step falls DIR_SETUP later at least (R491). -/
def State.setOff (s : State) (a : Nat) (p : Plan) (at_ : Nat) : Plan :=
  let lead := if isPicker a then 4 * (s.rd Reg.MOT_PK_PULSE_DIR_SETUP 0 - p.time 1) else 0
  { p with at_ := some (at_ + lead), lead := lead }

/-- The rising edges of AXn_STEP for the first n steps of a plan, and the level of AXn_DIR before them, are put out (R485, R491). -/
def State.emitSteps (s : State) (a : Nat) (p : Plan) (n : Nat) : State :=
  match p.at_ with
  | some t0 =>
    if isPicker a && n != 0 then
      s.emit (.axisSteps a (decide (p.a ≤ p.b)) (t0 - p.lead) (4 * s.rd Reg.MOT_PK_PULSE_PULSE 0)
        ((upTo n).map fun i => t0 + 4 * p.time (i + 1)))
    else s
  | none => s

/-- The command whose head operation a sled moves for. -/
def State.moverOf (s : State) (a : Nat) : Option (Nat × Nat) := if a < 256 then (s.head a).op.bind HReq.cmd else none

/-- A move or homing run is asked for in KILN: it waits until KILN ends (R528). -/
def State.holdMove (s : State) (a st : Nat) (h : HeldMove) : State :=
  (s.setAx a st).putAxis a { s.axis a with plan := none, after := none, held := some h }

/-- A move starts: the plan is fixed; a long sled move waits for its slot (R490), any other is admitted at the next period. The
seek of a launch waits for no slot, and counts against the present one (R94). -/
def State.startMove (s : State) (a : Nat) (t : Int) (byHead : Bool) : State :=
  if s.mode = mKiln then s.holdMove a axMoving (.move t byHead) else
  let p := s.planTo a t byHead
  let x := s.axis a
  let s1 := (s.setAx a axMoving).wrB Reg.MOT_AX_STATUS_DIR a (decide (t < p.a))
  let start := if a < 256 then s.now + (5000 - s.lin % 5000) % 5000 else s.now
  let go := fun (u : State) => u.putAxis a { x with plan := some (s.setOff a p start), after := none }
  match s1.needsSlot a p.steps with
  | some g =>
    if s1.launching (s1.moverOf a) then (go s1).countSeeks g 1
    else
      let w : SeekWait := { head := a, outward := decide (p.a < t) }
      { s1.putAxis a { x with plan := some p, after := none } with seekQ := s1.seekQ ++ [w] }
  | none => go s1

/-- A sled homes: inward by TRAVEL × 256 µsteps at VHOME × 1,000 µsteps/s (R506). -/
def State.homeSled (s : State) (a : Nat) (after : Option Int) : State :=
  if s.mode = mKiln then s.holdMove a axHoming (.home after) else
  let n : Int := s.rd Reg.MOT_SLED_HOME_TRAVEL 0 * 256
  let p : Plan := { a := s.axPos a, b := s.axPos a - n, v := s.rd Reg.MOT_SLED_HOME_VHOME 0 * 1000, homing := 1,
                    at_ := some (s.now + (5000 - s.lin % 5000) % 5000) }
  ((s.setAx a axHoming).set1 Reg.MOT_AX_STATUS_DIR a).putAxis a { s.axis a with plan := some p, after := after }

/-- A picker axis begins to home: toward HOME_DIR at VHOME, LIM_HI − LIM_LO at most (R507). -/
def State.homePicker (s : State) (a : Nat) : State :=
  if s.mode = mKiln then s.holdMove a axHoming (.home none)
  else
    let n := s.rdS Reg.MOT_AX_LIM_HI_VALUE a - s.rdS Reg.MOT_AX_LIM_LO_VALUE a
    let up := s.flag Reg.MOT_AX_HOME_CFG_HOME_DIR a
    let p : Plan := { a := s.axPos a, b := if up then s.axPos a + n else s.axPos a - n, v := s.rd Reg.MOT_AX_HOME_CFG_VHOME a, homing := 1 }
    ((s.setAx a axHoming).wrB Reg.MOT_AX_STATUS_DIR a !up).putAxis a { s.axis a with plan := some (s.setOff a p s.now), after := none }

/-- KILN has ended: the moves that waited for it start (R528). -/
def State.runHeld (s : State) : State :=
  s.axes.foldl (fun t p =>
    let a := p.1
    match p.2.held with
    | none => t
    | some h =>
      let u := t.putAxis a { t.axis a with held := none }
      match h with
      | .move x byHead => u.startMove a x byHead
      | .home after => if isPicker a then u.homePicker a else u.homeSled a after) s

/-- An axis in FOLLOW that moves is first brought to rest at AMAX, and then makes the move (R499). -/
def State.brakeFirst (s : State) (a : Nat) (t : Int) : State :=
  let x := s.axis a
  let b : Brake := { n0 := 0, m := 0, tm := 0, v := x.speed.natAbs / 1024, low := 0, dec := max 1 (s.rd Reg.MOT_AX_AMAX_VALUE a) }
  if b.steps = 0 then s.startMove a t true
  else
    let n : Int := b.steps
    let p : Plan := { s.planTo a (if 0 ≤ x.speed then s.axPos a + n else s.axPos a - n) true with
      at_ := some (s.now + (5000 - s.lin % 5000) % 5000), cut := some b }
    ((s.setAx a axMoving).wrB Reg.MOT_AX_STATUS_DIR a (decide (x.speed < 0))).putAxis a
      { x with plan := some p, after := some t, speed := 0, demand := 0 }

/-- A move that a head sequencer asks of its sled: an unreferenced sled homes first (R495, R505), one in FOLLOW comes to rest first
(R499). -/
def State.headMove (s : State) (a : Nat) (t : Int) : State :=
  let st := s.axState a
  let t' := clampInt (s.rdS Reg.MOT_AX_LIM_LO_VALUE a) (s.rdS Reg.MOT_AX_LIM_HI_VALUE a) t
  if st = axUnref then s.homeSled a (some t')
  else if st = axFault ∨ st = axDisabled then s
  else if s.badProfile a then s.motErr a 4
  else if st = axFollow then s.brakeFirst a t'
  else s.startMove a t' true

/-- An axis is at rest and may be loaded, read or handed on. -/
def State.axRest (s : State) (a : Nat) : Bool := s.axState a == axIdle || s.axState a == axFollow

/-- STOP of a plan (R493): a deceleration at STOP_DEC and one last step replace its rest, from the step reached, or on a sled from the
last entry sent. -/
def State.braked (s : State) (a : Nat) (p : Plan) (t0 : Nat) : Plan :=
  let m := max (p.reached t0 s.now 32 0) (p.next - 1)
  let b : Brake := { n0 := p.steps, m := m, tm := max (p.time m) ((s.now - t0) / 4), v := p.speedFrom m,
                     low := s.rd Reg.MOT_AX_VSTART_VALUE a, dec := max 1 (s.rd Reg.MOT_AX_STOP_DEC_VALUE a) }
  let n : Int := min p.steps (m + b.steps)
  { p with b := if p.a ≤ p.b then p.a + n else p.a - n, cut := some b }

/-- A plan is over, its axis at rest at the position reached: the operation ends with a result, and one that homed has no reference. -/
def State.endPlan (s : State) (a : Nat) (p : Plan) (result : Nat) : State :=
  let x := s.axis a
  let s1 := (s.emitSteps a p p.steps).wrS Reg.MOT_AX_POS_VALUE a p.b
  let s2 := if s.axState a = axHoming then (s1.clr Reg.MOT_AX_STATUS_REF a).setAx a axUnref else s1.setAx a axIdle
  let s3 := (s2.putAxis a { x with plan := none, after := none, speed := 0, accel := 0 }).wr Reg.MOT_AX_STATUS_SPEED a 0
  { (s3.axDone a result) with seekQ := s3.seekQ.filter fun w => w.head != a }

/-- A plan that has not begun to step, with no step. -/
def Plan.unbegun (p : Plan) : Plan := { p with b := p.a, at_ := none }

/-- A plan is given up where it stands: the steps that have fallen are put out, and POS shows the position reached. -/
def State.freezePlan (s : State) (a : Nat) : State :=
  let x := s.axis a
  let s0 := s.putAxis a { x with plan := none, after := none, speed := 0, demand := 0, accel := 0, held := none }
  match x.plan, x.plan.bind Plan.at_ with
  | some p, some t0 =>
    let m := p.reached t0 s.now 32 0
    let d : Int := m
    ((s0.emitSteps a p m).wrS Reg.MOT_AX_POS_VALUE a (if p.a ≤ p.b then p.a + d else p.a - d)).wr Reg.MOT_AX_STATUS_SPEED a 0
  | _, _ => s0

/-- STOP of an axis: its plan is cut short, and ends with RESULT 3 (R493); a demand of FOLLOW falls to 0, and a move that waits is
dropped. -/
def State.stopAxis (s0 : State) (a : Nat) : State :=
  let s := match (s0.axis a).held with
    | some _ => (s0.freezePlan a).endPlan a { a := s0.axPos a, b := s0.axPos a } 3
    | none => s0
  let x := s.axis a
  match x.plan with
  | some p =>
    match p.at_ with
    | none => s.endPlan a p.unbegun 3
    | some t0 => if p.cut.isSome then s.putAxis a { x with after := none }
                 else s.putAxis a { x with plan := some (s.braked a p t0), after := none }
  | none =>
    if s.axState a = axFollow then (s.putAxis a { x with speed := 0, demand := 0, accel := 0 }).wr Reg.MOT_AX_STATUS_SPEED a 0 else s

/-- An axis stops as a loss of power or CINDER stops it: the deceleration is over when the command is. DESIGN CHOICE, assumption
225. -/
def State.haltAxis (s : State) (a : Nat) : State :=
  match (s.axis a).plan with
  | some p =>
    match p.at_ with
    | none => s.endPlan a p.unbegun 3
    | some t0 => s.endPlan a (if p.cut.isSome then p else s.braked a p t0) 3
  | none => s.stopAxis a

/-- Every axis is halted. -/
def State.haltAll (s : State) : State := (s.axes.map Prod.fst).foldl (fun t a => t.haltAxis a) s

/-- Every axis stops at STOP_DEC and holds. -/
def State.stopAll (s : State) : State := (s.axes.map Prod.fst).foldl (fun t a => t.stopAxis a) s

/-- An axis loses its reference (R509): 0 BOOT_COUNT, 1 FLT, 2 underrun. -/
def State.loseRef (s : State) (a why : Nat) : State :=
  if s.flag Reg.MOT_AX_STATUS_REF a then
    let s1 := (s.clr Reg.MOT_AX_STATUS_REF a).setAx a axUnref
    (s1.putAxis a { s1.axis a with plan := none, after := none, speed := 0 }).raise 0x0703 [a, why]
  else s

/-- The data block of one step entry (R141). -/
def stepBlock (interval phase : Nat) (inward sync : Bool) : Nat :=
  interval % 2 ^ 32 + phase % 1024 * 2 ^ 32 + (if inward then 2 ^ 42 else 0) + (if sync then 2 ^ 43 else 0)

/-- The microstep phase after a step. DEDUCED, assumption 33. -/
def nextPhase (p : Nat) (inward : Bool) : Nat := if inward then (p + 1023) % 1024 else (p + 1) % 1024

/-! ### The moves of a picker -/

/-- LOC of a picker's park (R513). -/
def locPark (m : Nat) : Nat := 0x8000 + m

/-- A picker's axes: j 0 TRAVEL, 1 LIFT, 2 REACH, 3 TURN (R484). -/
def pkAxis (m j : Nat) : Nat := 256 + 4 * m + j

/-- A position of LIB_POSN. -/
def State.posn (s : State) (i : Nat) : Int := s.rdS Reg.LIB_POSN_VALUE i

/-- LIB_POSN whole. -/
def State.posns (s : State) : List Int := (upTo 7).map s.posn

/-- A picker's axes may all move: IDLE, with a profile that moves. -/
def State.pkReady (s : State) (m : Nat) : Bool :=
  s.doorOk && s.flag Reg.MOT_CTRL_EN 0
    && (upTo 4).all fun j => s.axState (pkAxis m j) == axIdle && !s.badProfile (pkAxis m j)

/-- The plan of a move of a picker axis that starts now. -/
def State.pkPlan (s : State) (m j : Nat) (t : Int) : Plan := s.setOff (pkAxis m j) (s.planTo (pkAxis m j) t true) s.now

/-- The cycles of a move of a picker axis. -/
def State.pkCycles (s : State) (m j : Nat) (t : Int) : Nat :=
  let p := s.pkPlan m j t
  if p.steps = 0 then 0 else p.lead + 4 * p.time p.steps

/-- Axes of a picker move together to their targets; time goes on by the longest move (R486). DESIGN CHOICE, assumption 79. -/
def State.pkMove (s : State) (m : Nat) (ts : List (Nat × Int)) : State :=
  let d := ts.foldl (fun a p => max a (s.pkCycles m p.1 p.2)) 0
  ts.foldl (fun t p =>
    let pl := s.pkPlan m p.1 p.2
    ((t.emitSteps (pkAxis m p.1) pl pl.steps).wrS Reg.MOT_AX_POS_VALUE (pkAxis m p.1) p.2).wrB Reg.MOT_AX_STATUS_DIR (pkAxis m p.1)
      (decide (pl.b < pl.a))) (s.advance d)

/-- The first of some moves of a picker that is refused: with LIMIT (R494), or with CONFIG where its plan steps too fast (R954). Its axis
and the code are answered. -/
def State.pkRefused (s : State) (m : Nat) (ts : List (Nat × Int)) : Option (Nat × Nat) :=
  let code := fun (p : Nat × Int) => if !s.inLimits (pkAxis m p.1) p.2 then 2 else 4
  (ts.find? fun p => !s.inLimits (pkAxis m p.1) p.2 || s.tooFast (pkAxis m p.1) p.2).map fun p => (pkAxis m p.1, code p)

/-- REACH to REACH_IN, by a table of positions. -/
def inTarget (ps : List Int) : List (Nat × Int) := [(2, ps.getD 2 0)]

def State.pkIn (s : State) (m : Nat) (ps : List Int) : State := s.pkMove m (inTarget ps)

/-- A picker moves to its park position; one in FAULT or HELD stays so (R520). -/
def State.pkPark (s : State) (m : Nat) : State :=
  if s.pkReady m then
    match s.pkRefused m [(2, s.posn 2), (0, s.posn (5 + m))] with
    | some (a, c) => s.motErr a c
    | none =>
      let s1 := ((s.pkIn m s.posns).pkMove m [(0, s.posn (5 + m))]).wr Reg.LIB_PK_LOC m (locPark m)
      if s.rd Reg.LIB_PK_STATE m = 5 ∨ s.rd Reg.LIB_PK_STATE m = 6 then s1 else s1.wr Reg.LIB_PK_STATE m 4
  else s

/-- Every picker axis is at rest. -/
def State.pkRest (s : State) : Bool := (upTo 8).all fun i => s.axState (256 + i) != axMoving && s.axState (256 + i) != axHoming

/-- Steps 3 and 4 of R515, once no transfer is in progress and no picker axis moves. DESIGN CHOICE, assumption 81. -/
def State.openDoor (s : State) : State :=
  if s.lib.opening && s.pkRest && !(s.lib.transfers.any fun t => t.step != 0) then
    let s1 := [0, 1].foldl (fun t m => if t.rd Reg.LIB_PK_STATE m == 2 || t.rd Reg.LIB_PK_STATE m == 6 then t.pkPark m else t) s
    let s2 : State := { s1 with lib := { s1.lib with opening := false, lockOut := false } }
    ((s2.set1 Reg.LIB_DOOR_OPEN_READY 0).clr Reg.LIB_STATUS_DOOR_LOCKED 0).raise 0x0709 [0]
  else s

end Sys2Proof.Machine
end

