-- ==== Sys2Proof/Machine/ServoOps.lean ====
section
/-!
DEFINITION. What the head and spindle sequencers do to loops, parameters, gates and sleds, apart from the moments at
which they do it (R380 to R425, R437 to R480).
-/

namespace Sys2Proof.Machine

/-! ### Head states (R387) -/

def hdOff : Nat := 0
def hdParked : Nat := 1
def hdFocusAcq : Nat := 2
def hdTrackAcq : Nat := 3
def hdOnGuide : Nat := 4
def hdLayerAcq : Nat := 5
def hdReady : Nat := 6
def hdSeek : Nat := 7
def hdOpc : Nat := 8
def hdRecover : Nat := 9
def hdSpinWait : Nat := 10
def hdParking : Nat := 11
def hdFault : Nat := 12

/-- Heads are numbered 2n + h. -/
def State.hd (s : State) (h : Nat) : Nat := s.rd Reg.STN_HD_STATUS_STATE h

/-- States in which the sled follows the tracking loop (R497). -/
def followState (st : Nat) : Bool := st == hdOnGuide || st == hdLayerAcq || st == hdReady || st == hdOpc

/-- A head enters a state; its sled, when no position move runs, follows or rests accordingly (R497). -/
def State.setHd (s : State) (h st : Nat) : State :=
  let s1 := s.wr Reg.STN_HD_STATUS_STATE h st
  if followState st && s1.axState h == axIdle then s1.setAx h axFollow
  else if !followState st && s1.axState h == axFollow then (s1.putAxis h { s1.axis h with speed := 0, accel := 0 }).setAx h axIdle
  else s1

/-- The ACTUATE word w (0 to 6) of a head. -/
def headWord (h w : Nat) : Nat := 8 * (h % 2) + w

/-- A gate on a word of a head. -/
def State.gateHead (s : State) (h w : Nat) (g : Gate) : State := s.setGate (h / 2) (headWord h w) g

/-- A word of a head as last sent. -/
def State.lastOut (s : State) (h w : Nat) : Int := s.sentWord (h / 2) (headWord h w)

/-- The gate of a word of a head is released (R383). -/
def State.releaseHead (s : State) (h w : Nat) : State := s.release (h / 2) (headWord h w)

/-- Tracking is gated, and the trim loop with it, at its last output (R394). -/
def State.gateTrack (s : State) (h : Nat) (g : Gate) : State :=
  let s1 := s.gateHead h 1 g
  if (s1.gate (h / 2) (headWord h 6)).isSome then s1 else s1.gateHead h 6 (.hold (s1.lastOut h 6))

/-- Tracking is released, and the trim loop with it (R393, R394). -/
def State.freeTrack (s : State) (h : Nat) : State := (s.releaseHead h 1).releaseHead h 6

/-- A head's own loop parameter (R384). -/
def State.headPrm (s : State) (h i : Nat) (v : Int) : State := s.setPrm (8 * h + i) v

/-- The layer a head is on. -/
def State.layerOf (s : State) (h : Nat) : Nat := s.rd Reg.STN_HD_STATUS_LAYER h

/-- The instance of STN_HD_LAYER or STN_HD_WPWR of a head and layer. -/
def layerIdx (h l : Nat) : Nat := h * 16 + l

/-- Read power is turned on: READ_SP is written and the read power slot released (R384, R393). -/
def State.readPowerOn (s : State) (h : Nat) : State :=
  let s1 := s.headPrm h 0 (s.rdS Reg.STN_HD_PWR_READ_SP h)
  (s1.putHead h { s1.head h with readOn := true }).releaseHead h 4

/-- Read power is turned off (R384). -/
def State.readPowerOff (s : State) (h : Nat) : State :=
  let s1 := s.headPrm h 0 0
  s1.putHead h { s1.head h with readOn := false }

/-- Writing is over on a head: word 5 is gated at 0 (R412). -/
def State.gateWriting (s : State) (h : Nat) : State :=
  if s.flag Reg.STN_HD_STATUS_WRITING h then (s.clr Reg.STN_HD_STATUS_WRITING h).gateHead h 5 (.hold 0) else s

/-- The slice that serves a head. -/
def State.sliceOf (s : State) (h : Nat) : Option Nat :=
  (s.slices.find? fun p => p.2.head == some h).map Prod.fst

/-- Writing stops on a head: word 5 is gated at 0 and a STOP naming the head is sent (R412, R139). -/
def State.stopWriting (s : State) (h : Nat) : State :=
  let s1 := match s.sliceOf h with | some sl => s.putSlice sl { s.slice sl with ahead := [] } | none => s
  if s.flag Reg.STN_HD_STATUS_WRITING h then (s1.gateWriting h).sendStop (h / 2) (h % 2 == 0) (h % 2 == 1) else s1

/-- The result of an operation that firmware started is shown (R424). -/
def State.headResult (s : State) (h result : Nat) : State :=
  if s.flag Reg.STN_HD_CMD_BUSY h then (s.clr Reg.STN_HD_CMD_BUSY h).wr Reg.STN_HD_CMD_RESULT h result else s

/-- The locks of a head are all gone. -/
def State.clearLocks (s : State) (h : Nat) : State :=
  (((s.clr Reg.STN_HD_STATUS_REL_LOCK h).clr Reg.STN_HD_STATUS_CLK_LOCK h).clr Reg.STN_HD_STATUS_TRK_LOCK h).clr
    Reg.STN_HD_STATUS_FOC_LOCK h

/-- The operation in progress is abandoned (R391): firmware sees RESULT 3; a seek, layer jump or OPC is started again
once the head is READY, unless the head is parked. -/
def State.abandonOp (s : State) (h : Nat) (parked : Bool) : State :=
  let x := s.head h
  match x.op with
  | none => s
  | some r =>
    let keep := if !parked && (r.kind == 2 || r.kind == 3 || r.kind == 5) then some r else none
    let s1 := s.putHead h { x with op := none, again := if keep.isSome then keep else x.again }
    if r.firmware then s1.headResult h 3 else s1

/-- The head goes to OFF at once (R388): nothing is closed, its lasers are off. -/
def State.headOff (s : State) (h : Nat) : State :=
  if s.hd h = hdOff then s
  else
    let s1 := ((s.abandonOp h true).readPowerOff h).clearLocks h
    let s2 := (s1.clr Reg.STN_HD_STATUS_WRITING h).clr Reg.STN_HD_POS_VALID h
    let s3 := s2.putHead h { s2.head h with waiting := [], again := none, step := none, watch := {} }
    let ks := (upTo 7).map fun w => wordKey (h / 2) (headWord h w)
    ({ s3 with loop := { s3.loop with gates := s3.loop.gates.filter fun g => !(ks.contains g.1) } } : State).setHd h hdOff

/-- The outputs of a parked head: focus at FOCUS_PARK, tracking and relay gated at 0, lasers off (R387). -/
def State.parkGates (s : State) (h : Nat) : State :=
  ((((s.gateHead h 0 (.hold (s.rdS Reg.LPE_SAFE_CFG_FOCUS_PARK 0))).gateTrack h (.hold 0)).gateHead h 2 (.hold 0)).gateHead
    h 4 (.hold 0)).gateHead h 5 (.hold 0)

/-- The head leaves OFF for PARKED when EN is 1, the port is ACTIVE and the front end is out of its safe state (R388). -/
def State.headOn (s : State) (h : Nat) : State :=
  if s.hd h = hdOff ∧ s.flag Reg.STN_HD_CTRL_EN h ∧ s.active (h / 2) ∧ !s.flag Reg.STN_LINK_STATUS_FE_SAFE (h / 2) then
    (s.parkGates h).setHd h hdParked
  else s

/-- A head whose slices and sequencers it serves is one that turns, tracks or waits: not OFF, PARKED or FAULT. -/
def State.headUp (s : State) (h : Nat) : Bool :=
  let st := s.hd h
  st != hdOff && st != hdParked && st != hdFault

/-- PARK begins (R420, R421): writing stops, lasers and words 1 and 2 go to 0 over 1 ms, then focus to FOCUS_PARK over PARK_MS.
`cause` is that of HEAD_PARKED. Requests that wait for READY go on waiting through a PARK or a change of mode (R389). -/
def State.parkHead (s : State) (h cause : Nat) : State :=
  let st := s.hd h
  if st = hdOff ∨ st = hdParked ∨ (st = hdFault ∧ cause ≠ 4) ∨ (st = hdParking ∧ cause ≠ 4) then s
  else
    let pf := cause = 4
    let ms := max 1 (s.rd (if pf then Reg.STN_HD_PARK_PARK_PF_MS else Reg.STN_HD_PARK_PARK_MS) h) * msCycles
    let s1 := ((s.abandonOp h true).stopWriting h).readPowerOff h
    let s2 := ((s1.gateHead h 4 (.hold 0)).gateHead h 5 (.hold 0)).gateHead h 2 (.ramp (s.lastOut h 2) 0 s.now msCycles)
    let s3 := s2.gateTrack h (.ramp (s.lastOut h 1) 0 s.now msCycles)
    let s4 := s3.gateHead h 0 (.ramp (s.lastOut h 0) (s.rdS Reg.LPE_SAFE_CFG_FOCUS_PARK 0) (s.now + msCycles) ms)
    let x := s4.head h
    let s5 := (s4.putHead h { x with waiting := if cause = 0 ∨ cause = 3 then x.waiting else [], again := none, step := none,
                                     parkCause := cause, stage := 0, pfPark := false,
                                     dueAt := s.now + msCycles + ms }).clearLocks h
    s5.setHd h hdParking

/-- The head goes to FAULT through PARKING (R415): HEAD_FAULT names the event that led to it. -/
def State.faultHead (s : State) (h why : Nat) : State :=
  let s1 := s.raise 0x0508 [h / 2, h % 2, why]
  let s2 := s1.putHead h { s1.head h with cause := why }
  if (s.head h).op.any (fun r => r.firmware) then (s2.headResult h 2).parkHead h 2 else s2.parkHead h 2

/-! ### Operations of a head (R389 to R411) -/

/-- The observer of a station. -/
def State.focOf (s : State) (n : Nat) : Foc := (s.lslot (s.rd Reg.STN_SP_SLOTS_FOC_SLOT n)).foc

/-- An s0.23 speed in rpm. -/
def rpmOf (w : Int) : Int := roundDiv (w * 20000) (2 ^ 23)

/-- The observer's speed in s0.23. -/
def State.obsSpeed (s : State) (n : Nat) : Int := sat 24 (roundDiv (s.focOf n).w (2 ^ 17))

/-- Channel bits of a number of cycles at a head's place and its spindle's speed. -/
def State.bitsIn (s : State) (h cycles : Nat) : Nat :=
  let rpm := (rpmOf (s.obsSpeed (h / 2))).natAbs
  turnBits20 (s.head h).pos * rpm * cycles / (2 ^ 20 * 60 * hz)

/-- Where the trail spot of a head is by now: its last place and the bits of the time since (R398). -/
def State.posNow (s : State) (h : Nat) : Nat :=
  let x := s.head h
  x.pos + s.bitsIn h (s.now - x.posAt)

/-- The margin M of the landing rule (R398). -/
def State.landMargin (s : State) (h : Nat) : Nat := s.rd Reg.STN_HD_SEEK_CFG_LAND_MARGIN h * 4096

/-- JUMP_MAX, 0 acting as 1. -/
def State.jumpMax (s : State) (h : Nat) : Nat := s.rd1 Reg.STN_HD_TRK_CFG_JUMP_MAX h

/-- Steps of word 1, one in each of n periods from a boundary on; the trim loop is gated with it (R394, R395, R397). -/
def State.stepTrack (s : State) (h : Nat) (step : Int) (n start : Nat) : State :=
  (s.gateHead h 1 (.stair (s.lastOut h 1) step n start)).gateHead h 6 (.stair (s.lastOut h 6) 0 n start)

/-- A jump of J tracks gates word 1 for |J| + 1 periods from the next period on (R397). -/
def State.startJump (s : State) (h : Nat) (j : Int) : State :=
  let start := s.now + (5000 - s.lin % 5000) % 5000
  let s1 := s.stepTrack h (s.rdS Reg.STN_HD_TRK_CFG_TRK_STEP h * (if j < 0 then -1 else 1)) j.natAbs start
  s1.putHead h { s1.head h with jump := j, stage := 8, dueAt := start + 5000 * (j.natAbs + 1) }

/-- The sled distance of a seek of J tracks, µsteps (R500). -/
def State.sledSteps (s : State) (j : Int) : Int := roundDiv (j * 24000) (s.rd1 Reg.MOT_SLED_CFG_USTEP 0)

/-- A long move of a seek (R399 steps 1 and 2): tracking and the clock are to lock again after it. -/
def State.longMove (s : State) (h : Nat) (j : Int) : State :=
  let s1 := s.gateTrack h (.hold 0)
  let x := s1.head h
  let s2 := (s1.putHead h { x with jump := j, longMoves := x.longMoves + 1, stage := 9, tries := 0, stageAt := s.now }).clr
    Reg.STN_HD_STATUS_TRK_LOCK h
  (s2.clr Reg.STN_HD_STATUS_CLK_LOCK h).headMove h (s2.axPos h + s2.sledSteps j)

/-- A seek of J tracks: one jump, or a long seek (R399). -/
def State.seekMove (s : State) (h : Nat) (j : Int) : State :=
  if j.natAbs ≤ s.jumpMax h then s.startJump h j else s.longMove h j

/-- A head's operation ends well: READY, the result shown. -/
def State.opDone (s : State) (h : Nat) : State :=
  let x := s.head h
  let s1 := (s.putHead h { x with op := none, longMoves := 0, tries := 0, stage := 0 }).setHd h hdReady
  s1.headResult h 0

/-- The disc that stands mounted in a station. -/
def State.discIn (s : State) (n : Nat) : Option Nat :=
  (s.discs.find? fun p => p.2.loc == .station n && p.2.known).map Prod.fst

/-- The next unused calibration burst of a head's side and a layer. -/
def State.pcaNext (s : State) (h l : Nat) : Nat :=
  match s.discIn (h / 2) with
  | some d => mget 0 ((s.disc d).side (h % 2)).pca l
  | none => 0

/-- A head needs a slice and has none: it waits for one (R239). DESIGN CHOICE, assumptions 45 and 62. -/
def State.wantSlice (s : State) (h : Nat) (write : Bool) : State :=
  if (s.sliceOf h).isSome || s.headWait.any (fun w => w.head == h) then s
  else { s with headWait := s.headWait ++ [{ head := h, since := s.now, write := write }] }

/-- An OPC is in its place: it reads the rows of its burst first, or writes on after a jump (R217, R408). -/
def State.opcLanded (s : State) (h : Nat) : State :=
  (s.putHead h { s.head h with stage := 0, longMoves := 0 }).setHd h hdOpc

/-- J of a seek from where the trail spot is now (R398). -/
def State.landingOf (s : State) (h : Nat) (r : HReq) : Int := landing (s.posNow h) (slotPos r.slot r.leadin) (s.landMargin h)

/-- A seek to the start of a slot (R398, R399): none, one jump or a long seek; `stage` 8 is the jump, 9 the long move. With J 0 the
spiral brings the spot to the slot, and the head is READY meanwhile. DEDUCED, assumption 230. -/
def State.startSeek (s : State) (h : Nat) (r : HReq) : State :=
  let j := s.landingOf h r
  let s1 := s.putHead h { s.head h with op := some r, longMoves := 0, stage := 8 }
  if j = 0 then (if r.kind = 5 then s1.opcLanded h else s1.opDone h) else (s1.setHd h hdSeek).seekMove h j

/-- An OPC of a layer (R408): it seeks to the slot of the next burst in the lead-in, 18 bursts to a slot (R214, R215), with a slice to
read it by. With the calibration area used up there is nothing to seek (R410). DESIGN CHOICE, assumption 220. -/
def State.startOpc (s : State) (h : Nat) (r : HReq) : State :=
  let b := s.pcaNext h r.layer
  let s1 := (s.putHead h { s.head h with opcTries := 0, opc := { burst := b } }).wantSlice h true
  if b < 18432 then s1.startSeek h { r with slot := b / 18, leadin := true }
  else (s1.putHead h { s1.head h with op := some r }).setHd h hdOpc

/-- The relay moves toward a nominal position at LJ_RATE per ÷4 period (R403 steps 1 to 3); `off` is the offset of the
attempt (R404). -/
def State.moveRelay (s : State) (h l : Nat) (off : Int) : State :=
  let from_ := s.lastOut h 2
  let to_ := s.rdS Reg.STN_HD_LAYER_REL_REL_NOM (layerIdx h l) + off
  let rate := s.rd1 Reg.STN_HD_LJ_CFG_LJ_RATE h
  let runs := ceilDiv (to_ - from_).natAbs rate
  let s1 := (s.readPowerOff h).gateHead h 2 (.toward from_ to_ rate s.now)
  let s2 := s1.setOut (h / 2) (headWord h 3) (s.rd Reg.STN_HD_LAYER_SA_SA (layerIdx h l))
  let s3 := s2.headPrm h 1 (s.rdS Reg.STN_HD_WPWR_WRITE_SP (layerIdx h l))
  let x := s3.head h
  (s3.putHead h { x with dueAt := s.now + runs * 20000, stage := 5, watch := { x.watch with relIn := 0 } }).clr
    Reg.STN_HD_STATUS_REL_LOCK h

/-- A layer jump (R403). DESIGN CHOICE, assumption 73. -/
def State.startLayer (s : State) (h : Nat) (r : HReq) : State :=
  let x := s.head h
  ((s.putHead h { x with op := some r, tries := 0 }).setHd h hdLayerAcq).moveRelay h r.layer 0

/-- The pointer moves past a burst. -/
def State.pcaTake (s : State) (h l : Nat) : State :=
  match s.discIn (h / 2) with
  | some d =>
    let x := s.disc d
    let sd := x.side (h % 2)
    s.putDisc d (x.setSide (h % 2) { sd with pca := mput sd.pca l (mget 0 sd.pca l + 1) })
  | none => s


/-- An operation starts on a READY head. -/
def State.startReq (s : State) (h : Nat) (r : HReq) : State :=
  match r.kind with
  | 2 => (s.startSeek h r).firstAction r.cmd
  | 3 => (s.startLayer h r).firstAction r.cmd
  | 5 => s.startOpc h r
  | _ => s

/-- The request served next: one abandoned before (a seek waits for its own restart, R969), then firmware's, then the oldest (R390, R391). -/
def State.nextReq (s : State) (h : Nat) : State :=
  let x := s.head h
  if s.mode = mCinder ∨ s.hd h ≠ hdReady ∨ x.op.isSome then s
  else
    match x.again with
    | some r => if r.kind = 2 then s else (s.putHead h { x with again := none }).startReq h r
    | none =>
      match x.waiting with
      | [] => s
      | r :: rest => (s.putHead h { x with waiting := rest }).startReq h r

/-- A request of the slice or the command sequencer: served when the head is READY, else it waits (R389). -/
def State.askHead (s : State) (h : Nat) (r : HReq) : State :=
  let x := s.head h
  if s.mode = mCinder then s
  else if s.hd h = hdReady ∧ x.op.isNone then s.startReq h r
  else s.putHead h { x with waiting := x.waiting ++ [r] }

/-- The focus sweep of an acquisition attempt (R393). -/
def State.focusSweep (s : State) (h : Nat) : State :=
  let x := s.head h
  let s1 := s.gateHead h 0 (.ramp (s.rdS Reg.LPE_SAFE_CFG_FOCUS_PARK 0) 0x600000 s.now
    (s.rd1 Reg.STN_HD_FOC_CFG_SWEEP_MS h * msCycles))
  let s2 := s1.gateTrack h (.hold 0)
  (s2.putHead h { x with stage := 0, stageAt := s.now, watch := { x.watch with focIn := 0, trkIn := 0, sumMax := 0 } }).setHd
    h hdFocusAcq

/-- ACQUIRE from PARKED or FAULT (R393). -/
def State.acquire (s : State) (h : Nat) (r : HReq) : State :=
  let st := s.hd h
  if st = hdParked ∨ st = hdFault then
    let x := s.head h
    (((s.parkGates h).clr Reg.STN_HD_POS_VALID h).putHead h { x with op := some r, tries := 0 }).focusSweep h
  else s

/-- A head enters RECOVER (R413), from the earliest stage whose lock is lost. -/
def State.enterRecover (s : State) (h stage : Nat) : State :=
  let s1 := s.abandonOp h false
  let x := s1.head h
  let r : HReq := { kind := 6, slot := s.rd Reg.STN_HD_POS_SLOT h, leadin := s.flag Reg.STN_HD_POS_LEADIN h,
                    layer := s.layerOf h }
  (s1.putHead h { x with op := some r, stage := stage, tries := 0, stageAt := s.now, recoverAt := s.now }).setHd h hdRecover

/-! ### Spindles (R443 to R480) -/

def spOff : Nat := 0
def spStopped : Nat := 1
def spSense : Nat := 2
def spWaitSlow : Nat := 3
def spRevBrake : Nat := 4
def spAlign : Nat := 5
def spRamp : Nat := 6
def spCatch : Nat := 7
def spRun : Nat := 8
def spReacq : Nat := 9
def spBrake : Nat := 10
def spHold : Nat := 11
def spFault : Nat := 12

def State.spState (s : State) (n : Nat) : Nat := s.rd Reg.STN_SP_STATUS_STATE n

/-- Fields that come into force at a spindle's next state change, and those at its next ÷16 run (R483). -/
def spStateFields : List Fld := [Reg.STN_SP_START_CFG_ALIGN_MS, Reg.STN_SP_START_CFG_HANDOVER, Reg.STN_SP_START_CFG_RAMP_RATE,
  Reg.STN_SP_START_CFG_BEMF_MIN, Reg.STN_SP_BRAKE_CFG_VBUS_MAX, Reg.STN_SP_BRAKE_CFG_VBUS_RESUME, Reg.STN_SP_BRAKE_CFG_HOLD_MS,
  Reg.STN_SP_BRAKE_CFG_STOP_RPM, Reg.STN_SP_I_ALIGN_VALUE, Reg.STN_SP_I_STEP_VALUE, Reg.STN_SP_I_RAMP_VALUE, Reg.STN_SP_I_BRAKE_VALUE]
def spRunFields : List Fld := [Reg.STN_SP_RUN_CFG_SLEW, Reg.STN_SP_RUN_CFG_PHASE_SLEW, Reg.STN_SP_PHASE_CFG_PH_GAIN,
  Reg.STN_SP_PHASE_CFG_PH_LOCK, Reg.STN_SP_OBS_CFG_RES_TRIP]

/-- The values of some fields of a station come into force (R483). -/
def State.spCapture (s : State) (n : Nat) (fs : List Fld) : State :=
  let x := s.spin n
  s.putSpin n { x with cfg := fs.foldl (fun m f => mput m f.id (s.rd f n)) x.cfg }

/-- The value of a field in force at a station (R483). -/
def State.spRd (s : State) (n : Nat) (f : Fld) : Nat :=
  match mfind (s.spin n).cfg f.id with
  | some v => v
  | none => s.rd f n

/-- A spindle enters a state; only ALIGN and RAMP force an angle (R450, R457, R458). -/
def State.setSp (s : State) (n st : Nat) : State :=
  let x := s.spin n
  let s1 := (s.putSpin n { x with stateAt := s.now, resLow := 0, resHigh := 0, handRuns := 0, retryAt := none, catchBad := false }).wr
    Reg.STN_SP_STATUS_STATE n st
  let s2 : State := if st = spAlign ∨ st = spRamp then s1 else { s1 with loop := { s1.loop with forced := mdel s1.loop.forced n } }
  s2.spCapture n spStateFields

/-- Word 19: 1 enables the bridge, 2 short brake, 4 senses back-EMF, 0 opens the bridge (R430, R431). -/
def State.bridge (s : State) (n v : Nat) : State := s.setOut n 19 v

/-- The speed loop is gated at a value (R440). -/
def State.gateSpeed (s : State) (n : Nat) (v : Int) : State :=
  { s with loop := { s.loop with speedGates := mput s.loop.speedGates n v } }

/-- The gate of the speed loop is released (R383, R440). -/
def State.openSpeed (s : State) (n : Nat) : State :=
  let v := mget 0 s.loop.speedGates n
  ({ s with loop := { s.loop with speedGates := mdel s.loop.speedGates n } } : State).closeLoop
    (s.rd Reg.STN_SP_SLOTS_SPD_SLOT n) v

/-- SPEED_SP and ID_CMD, the spindle's own loop parameters (R437). -/
def State.spPrm (s : State) (n i : Nat) (v : Int) : State := s.setPrm (2048 + 4 * n + i) v

/-- rpm as an s0.23 speed, ±1.0 being ±20,000 rpm (R426). -/
def speedOf (rpm : Int) : Int := roundDiv (rpm * 2 ^ 23) 20000

/-- The speed in rpm that gives 0.75 Gb/s (45 m/s) at a place of the spiral, times S sixteenths, limited to a bound. DESIGN
CHOICE, assumption 68. -/
def clvRpm (pos num den lim : Nat) : Nat := min lim (45000 * 60 * 10 ^ 40 * num / (2 * pi30 * radius pos * den))

/-- The set point in force of a station (R306, R443, R444). DESIGN CHOICE, assumption 68. -/
def State.setPoint (s : State) (n : Nat) : Nat :=
  let t := s.rd Reg.STN_SP_TARGET_RPM n
  if t = 0 then 0
  else
    let lo := max 30 (s.spRd n Reg.STN_SP_START_CFG_HANDOVER) * 10
    let lim := fun (x : Nat) => clampNat lo 10000 x
    match s.ladders.find? fun l => l.head / 2 == n && l.rung == 7 && l.started with
    | some l => lim (clvRpm (slotPos l.slot false) 1 2 5000)
    | none =>
      let sps := [2 * n, 2 * n + 1].filterMap fun h =>
        (s.sliceOf h).map fun sl => clvRpm (s.head h).pos (s.rd Reg.SLC_RATE_STATUS_SCALE sl) 16 10000
      match sps with
      | [] => lim t
      | a :: r => lim (r.foldl min a)

/-- The loop slots of a spindle meet R438 and its pole pairs are set (R439). -/
def State.spConfigOk (s : State) (n : Nat) : Bool :=
  let f := s.rd Reg.STN_SP_SLOTS_FOC_SLOT n
  let v := s.rd Reg.STN_SP_SLOTS_SPD_SLOT n
  s.slotOn f && s.slotOn v && s.isFoc f && !s.isFoc v && s.rd Reg.DESC_CTRL_RATE v == 2
    && s.rd Reg.DESC_CTRL_INT_MODE v == 1 && s.rd Reg.DESC_IO_OUT_DEST v == 0
    && s.rd Reg.DESC_SRC01_SRC0 v == 0x6000 + 2048 + 4 * n && s.coef v 0 == 2 ^ 28
    && s.rd Reg.DESC_SRC01_SRC1 v == 0x4000 + f * 4 + 1 && s.coef v 1 == -(2 ^ 28)
    && s.rd Reg.DESC_SRC01_SRC0 f == 0x4000 + v * 4 && s.rd Reg.DESC_SRC01_SRC1 f == 0x6000 + 2048 + 4 * n + 1
    && s.rd Reg.DESC_IO_OUT_DEST f == 0x2000 + n * 64 + 16 && (s.coef f 14) % 16 != 0

/-- The pole pairs of a motor (R433). -/
def State.poles (s : State) (n : Nat) : Nat := max 1 ((s.coef (s.rd Reg.STN_SP_SLOTS_FOC_SLOT n) 14) % 16).toNat

/-- A spindle enters FAULT with a cause and its bridge open (R450, R481). -/
def State.faultSpindle (s : State) (n cause : Nat) : State :=
  let s1 := ((s.bridge n 0).gateSpeed n 0).wr Reg.STN_SP_STATUS_FAULT_CAUSE n cause
  let s2 := (s1.clr Reg.STN_SP_STATUS_AT_SPEED n).clr Reg.STN_SP_STATUS_SHORT n
  ((s2.setSp n spFault).spPrm n 1 0).raise 0x060B [n, cause]

/-- SENSE: the bridge is open with BEMF_SENSE for 20 ms (R453). -/
def State.senseSpindle (s : State) (n : Nat) : State :=
  let s1 := (s.bridge n 4).gateSpeed n 0
  let s2 := s1.setSp n spSense
  s2.putSpin n { s2.spin n with bemf := [], lowFrom := none, alignReady := false, meas := none }

/-- A start begins (R439, R452). -/
def State.startSpindle (s : State) (n : Nat) : State :=
  if !s.spConfigOk n then s.faultSpindle n 4
  else
    let s1 := s.wr Reg.STN_SP_STATUS_ATTEMPT n 0
    (s1.putSpin n { s1.spin n with startAt := s.now, firstSpeed := false, lossCatch := false }).senseSpindle n

/-- Phase lock ends, with its event when it held (R449). -/
def State.dropPhase (s : State) (n : Nat) : State :=
  let s1 := s.putSpin n { s.spin n with phaseRuns := 0 }
  if s.flag Reg.STN_SP_STATUS_PHASE_LOCKED n then (s1.clr Reg.STN_SP_STATUS_PHASE_LOCKED n).raise 0x060A [n, 0] else s1

/-- Vdc of a station in 1/128 of VNOM. -/
def State.vdc128 (s : State) (n : Nat) : Int :=
  roundDiv (s.sensor n 21 * 128) (max 1 (s.coef (s.rd Reg.STN_SP_SLOTS_FOC_SLOT n) 5)).toNat

/-- Pulsed short braking begins (R471, R472). -/
def State.shortOn (s : State) (n : Nat) : State :=
  let s1 := ((s.set1 Reg.STN_SP_STATUS_SHORT n).bridge n 2).raise 0x0608 (n :: i1 (s.vdc128 n))
  s1.putSpin n { s1.spin n with zcAt := s.now, zcSpan := 0, zcNeg := decide (s.sensor n 16 < 0) }

/-- The speed that the zero crossings of phase A's current show: half an electrical turn in the last span between two, or in the time
since the last where that is longer (R472). DESIGN CHOICE, assumption 231. -/
def State.pulseRpm (s : State) (n : Nat) : Nat :=
  let x := s.spin n
  60 * hz / (2 * s.poles n * max 1 (max x.zcSpan (s.now - x.zcAt)))

/-- A sample in pulsed short braking: all switches are off for the next current-loop period where a phase current exceeds I_BRAKE,
else short braking goes on (R472). -/
def State.pulseBrake (s : State) (n : Nat) : State :=
  let st := s.spState n
  if !s.flag Reg.STN_SP_STATUS_SHORT n ∨ (st ≠ spBrake ∧ st ≠ spRevBrake) then s
  else
    let x := s.spin n
    let ia := s.sensor n 16
    let v := if signed 24 (s.spRd n Reg.STN_SP_I_BRAKE_VALUE) < (max ia.natAbs (s.sensor n 17).natAbs : Nat) then 0 else 2
    let s1 := if s.rd Reg.LPE_OUT_VALUE (n * 24 + 19) = v then s else s.bridge n v
    let neg := decide (ia < 0)
    let s2 := if neg == x.zcNeg then s1 else s1.putSpin n { x with zcNeg := neg, zcAt := s.now, zcSpan := s.now - x.zcAt }
    s2.wr Reg.STN_SP_SPEED_RPM n (min 32767 (s2.pulseRpm n))

/-- BRAKE (R470 to R473): active braking against the observer's angle where it tracks, else pulsed short braking. -/
def State.brakeSpindle (s : State) (n : Nat) (tracks : Bool) (why : Nat) : State :=
  let w := s.obsSpeed n
  let ib : Int := s.rdS Reg.STN_SP_I_BRAKE_VALUE n
  let s1 := (s.dropPhase n).clr Reg.STN_SP_STATUS_AT_SPEED n
  let s2 := s1.spPrm n 1 0
  let s3 := if tracks then (s2.gateSpeed n (if w < 0 then ib else -ib)).bridge n 1 else (s2.gateSpeed n 0).shortOn n
  let s4 := s3.setSp n spBrake
  s4.putSpin n { s4.spin n with brakeAt := s.now, tracked := tracks, stopCause := why, alignReady := false }

/-- A start is abandoned where nothing gives the rotor's angle (R476). -/
def State.dropStart (s : State) (n : Nat) : State := (((s.bridge n 0).gateSpeed n 0).spPrm n 1 0).setSp n spStopped

/-- A spindle that turns is braked to STOPPED (R476, R479): from RUN, or from a start in progress where the observer or a measurement
gives the rotor's angle; in RAMP the observer does while the residual is below RES_TRIP. DEDUCED, assumption 231. -/
def State.stopSpindle (s : State) (n why : Nat) : State :=
  let st := s.spState n
  let x := s.spin n
  if x.retryAt.isSome then s.dropStart n
  else if st = spRun ∨ st = spCatch ∨ st = spRevBrake then s.brakeSpindle n true why
  else if st = spRamp then (if x.resLow = 0 then s.dropStart n else s.brakeSpindle n true why)
  else if st = spReacq then s.brakeSpindle n x.meas.isSome why
  else if st = spSense ∨ st = spWaitSlow then (if x.meas.isSome then s.brakeSpindle n true why else s.dropStart n)
  else if st = spAlign then s.dropStart n
  else s

/-- OFF (R451, R478): the bridge is open, the spindle coasts. -/
def State.spindleOff (s : State) (n : Nat) : State :=
  if s.spState n = spOff then s
  else
    let s1 := ((s.dropPhase n).bridge n 0).gateSpeed n 0
    let s2 := (s1.clr Reg.STN_SP_STATUS_AT_SPEED n).clr Reg.STN_SP_STATUS_SHORT n
    (s2.spPrm n 1 0).setSp n spOff

/-- A spindle leaves OFF for STOPPED (R451), and starts again where AUTO_RESTART allows it (R452). -/
def State.spindleOn (s : State) (n : Nat) : State :=
  if s.mode ≠ mCinder ∧ s.spState n = spOff ∧ s.flag Reg.STN_SP_CTRL_EN n ∧ s.active n ∧ !s.flag Reg.STN_LINK_STATUS_FE_SAFE n then
    let s1 := s.setSp n spStopped
    if s.setPoint n ≠ 0 ∧ s.flag Reg.STN_SP_CTRL_AUTO_RESTART n then s1.startSpindle n else s1
  else s

/-- The target of a spindle is set by the controller or by firmware (R443, R452, R476). -/
def State.spinTarget (s : State) (n rpm : Nat) : State :=
  let s1 := s.wr Reg.STN_SP_TARGET_RPM n rpm
  let s2 := s1.wr Reg.STN_SP_SPEED_SP_RPM n (s1.setPoint n)
  let st := s2.spState n
  if s.mode = mCinder then s2
  else if rpm = 0 then
    (if st = spOff ∨ st = spStopped ∨ st = spFault ∨ st = spBrake ∨ st = spHold then s2 else s2.stopSpindle n 0)
  else if st = spStopped then s2.startSpindle n
  else s2

/-- The station and its heads lose the front end: heads and spindle go to OFF (R388, R451); the disc stays. -/
def State.stationOff (s : State) (n : Nat) : State := ((s.headOff (2 * n)).headOff (2 * n + 1)).spindleOff n

/-- The station has its front end again. -/
def State.stationOn (s : State) (n : Nat) : State := ((s.headOn (2 * n)).headOn (2 * n + 1)).spindleOn n

/-- SAFE_NOW goes out in a number of the next PERIODs, and then what is to follow; what follows a port's disabling stands (R968). -/
def State.safeNow (s : State) (n periods : Nat) (after : AfterSafe) : State :=
  let x := s.stn n
  if 0 < x.safeNow ∧ x.afterSafe = .disable then s else s.putStn n { x with safeNow := periods, afterSafe := after }

/-! ### Commands and stations -/

/-- The station a command acts on, where it has one: that of the disc its AADDR or disc field names. -/
def State.cmdStn (s : State) (c : Cmd) : Option Nat :=
  match c.stn with
  | some n => some n
  | none =>
    match c.disc with
    | some d => match (s.disc d).loc with | .station n => some n | _ => none
    | none => none

/-- Every command in flight on a station ends with STATION_FAULT. -/
def State.failStation (s : State) (n : Nat) : State := s.failAll (fun c => s.cmdStn c == some n) stStationFault

/-- The heads a command works on. -/
def Cmd.heads (c : Cmd) (stn : Option Nat) : List Nat :=
  match stn with
  | none => []
  | some n => (c.frames.map fun f => 2 * n + zoneSide f.zone).eraseDups

/-- Every command in flight on a head ends with STATION_FAULT (R415). DESIGN CHOICE, assumption 126. -/
def State.failHead (s : State) (h : Nat) : State :=
  s.failAll (fun c => (c.heads (s.cmdStn c)).contains h || ((c.op == 0x20 || c.op == 0x21) && s.cmdStn c == some (h / 2)))
    stStationFault

end Sys2Proof.Machine
end

