-- ==== Sys2Proof/Machine/ModeOps.lean ====
section
/-!
DEFINITION. CINDER and what every part of the controller does on entry to it (R320, R376, R527, R680, R726, R881 to
R883).
-/

namespace Sys2Proof.Machine

/-- The causes of CINDER, R881. -/
def cThermal : Nat := 1
def cLoopOverrun : Nat := 2
def cDram : Nat := 3
def cMemory : Nat := 4
def cTally : Nat := 5
def cBoot : Nat := 6
def cWatchdog : Nat := 7
def cSupply : Nat := 8

/-- A spindle turns: its state is none of OFF, STOPPED and FAULT; in CINDER, where the sequencers have stopped, the observer has not
come below the stop speed either (R376, R480). -/
def State.turning (s : State) (n : Nat) : Bool :=
  let st := s.spState n
  st != spOff && st != spStopped && st != spFault
    && (s.mode != mCinder || decide (s.spRd n Reg.STN_SP_BRAKE_CFG_STOP_RPM ≤ (rpmOf (s.obsSpeed n)).natAbs))

/-- The spindles still turning. -/
def State.turningCount (s : State) : Nat := ((upTo 128).filter s.turning).length

/-- Every DMA channel ends its descriptor in progress and stops (R726). DESIGN CHOICE, assumption 137. -/
def State.stopDma (s : State) : State :=
  let s1 := s.engines.foldl (fun t p =>
    let chans := (match p.2.running with | some c => [c] | none => []) ++ p.2.queue
    chans.foldl (fun u c => u.wr Reg.DMA_CH_STATUS_STATE c chIdle) t) s
  let s2 := s.engines.foldl (fun t p => t.putEngine p.1 {}) s1
  { s2 with chanJobs := [] }

/-- The loop engine runs its safe program (R376, R379). -/
def State.startSafe (s : State) : State :=
  let coast := (upTo 128).filter fun n => !(s.slotOn (s.rd Reg.STN_SP_SLOTS_FOC_SLOT n))
  let s1 : State := { s with loop := { s.loop with safeFrom := some s.now, safeBase := s.loop.sent, gates := [],
                                                   speedGates := [], forced := [], coast := coast } }
  (s1.wr Reg.LPE_STATUS_STATE 0 2).raise 0x05F3 [0, s.turningCount]

/-- TJ as shown (R867). -/
def State.tj (s : State) : Nat := s.rd Reg.PWR_TEMP_TJ 0

/-- TJ as an event item: the signed value in a word. -/
def State.tjItem (s : State) : List Nat := i1 (s.rdS Reg.PWR_TEMP_TJ 0)

/-- Every run of calibration in progress or pending is discarded, with its staging set (R908). -/
def State.dropCal (s : State) : State :=
  { s with cals := s.cals.map fun p => (p.1, { p.2 with pending := false, running := false, again := false, armed := false, staged := [],
                                                         frames := 0, sums := [] }) }

/-- The management cores run, and memory and the flash array have their clocks: firmware can reach them. -/
def State.fwRuns (s : State) : Bool := s.pw.coresRun && s.mode != mCinder && s.mode != mBanked && !s.pw.porst

/-- CINDER is entered for a cause; later causes are not recorded, and BANKED does not enter it (R857, R881, R882). -/
def State.cinder (s : State) (cause : Nat) : State :=
  if s.mode = mCinder ∨ s.mode = mBanked then s
  else
    let from_ := s.mode
    let s1 := (s.wr Reg.GCTL_STATUS_CINDER_CAUSE 0 cause).set1 Reg.GCTL_STATUS_FAULT 0
    let s2 : State := { s1 with pw := { s1.pw with faultN := true, coresRun := false, trans := none } }
    let s3 := ({ s2 with ladders := [], ladderWait := [] } : State).failAll (fun _ => true) stDegraded
    let s4 := s3.stopDma.haltAll.dropCal
    let s5 : State := { s4 with heads := s4.heads.map fun p => (p.1, { p.2 with op := none, waiting := [], again := none }),
                                lib := { s4.lib with lockOut := false } }
    let s6 := (s5.wr Reg.GCTL_STATUS_MODE 0 mCinder).startSafe
    let s7 := s6.raise 0x0101 [from_, mCinder, 6]
    s7.raise 0x0104 (cause :: s7.tjItem)

end Sys2Proof.Machine
end

