-- ==== Sys2Proof/Machine/Loop.lean ====
section
/-!
DEFINITION. The commands of the loop engine: a lane's run, the parameter copy, the enable, disable, descriptor, bank
and swap writes, the safe program's end (R336 to R379), and the speed and phase loops' share of a run (R445 to R449,
R458, R462, R465).
-/

namespace Sys2Proof.Machine

/-- Modes in which the enabled slots run while RUN is 1 (R375). -/
def State.loopMode (s : State) : Bool :=
  s.mode == mKindling || s.mode == mBurn || s.mode == mDamped || s.mode == mKiln || s.mode == mVerify

/-- The slots run. -/
def State.loopsRun (s : State) : Bool := s.loopMode && s.flag Reg.LPE_CTRL_RUN 0

/-- A swap takes place: the banks change over and the states follow MODE (R368). -/
def State.swapSlot (s : State) (sl mode : Nat) : State :=
  let b := 1 - s.rd Reg.DESC_CTRL_BANK sl
  let s1 := (s.wr Reg.DESC_CTRL_BANK sl b).clr Reg.LPE_SLOT_STAT_SWAP_PENDING sl
  let s2 := if mode = 1 then s1.resetSlot sl 0
            else if mode = 2 then s1.putLslot sl { s1.lslot sl with s1 := [], s2 := [], i := s1.coef sl 61 * 2 ^ 17 }
            else s1
  let s3 := s2.putLslot sl { s2.lslot sl with swap := none }
  if s3.loop.slots.any fun p => p.2.swap.isSome then s3 else s3.clr Reg.LPE_SWAP_PENDING 0

/-- A slot disabled: its outputs carry VALID 0 from now on (R363), and a swap that waited takes place at once, as of any disabled
slot (R367). -/
def State.disableSlot (s : State) (sl : Nat) : State :=
  let s0 := match (s.lslot sl).swap with
    | some (mode, _) => s.swapSlot sl mode
    | none => s
  let s1 := (s0.clr Reg.DESC_CTRL_EN sl).clr Reg.LPE_SLOT_STAT_RAN sl
  (s1.slotBit Reg.LPE_STALE_BITS sl false).putLslot sl { s1.lslot sl with acting := false }

/-- An uncorrectable error in the memory of a slot: SRAM_UE of unit 3 (R765, R766), and of an enabled slot what R373 says. -/
def State.slotEcc (s0 : State) (sl : Nat) : State :=
  let s := s0.raise 0x0A06 [3]
  if !s.slotOn sl then s
  else
    let st := s.slotStn sl
    let s1 := s.disableSlot sl
    let s2 := match st with
      | some n => (s1.safeNow n 1 .stay).failStation n
      | none => s1
    let s3 : State := if s2.mode = mCinder then
        (match st with
         | some n => { s2 with loop := { s2.loop with coast := if s.isFoc sl then n :: s2.loop.coast else s2.loop.coast } }
         | none => s2)
      else s2
    (s3.lpeErr sl 9).raise 0x05F0 (sl :: (match st with | some n => [n] | none => [0]))

/-- The stale count of a slot in this run, and the action of R358: the count, whether the action is in force. -/
def State.staleRun (s : State) (sl : Nat) (gated : Bool) : State × Bool :=
  let stale := s.inputsStale sl
  let s1 := s.wrB Reg.LPE_SLOT_STAT_STALE sl stale |>.slotBit Reg.LPE_STALE_BITS sl stale
  if !stale then ((s1.wr Reg.LPE_SLOT_STAT_STALE_CNT sl 0).putLslot sl { s1.lslot sl with acting := false }, false)
  else
    let s2 := if gated then s1 else s1.bump Reg.LPE_SLOT_STAT_STALE_CNT sl 1
    let past := s.rd Reg.DESC_CTRL_STALE_MAX sl < s2.rd Reg.LPE_SLOT_STAT_STALE_CNT sl
    let act := s.rd Reg.DESC_CTRL_STALE_ACT sl
    if past && !(s2.lslot sl).acting then
      ((s2.putLslot sl { s2.lslot sl with acting := true }).raise 0x05F1 [sl, act], act != 0)
    else (s2, past && act != 0)

/-- Consecutive runs of a head's power slots with a limit branch selected, and without (R405). -/
def State.watchPower (s : State) (dest sel : Nat) : State :=
  let w := dest % 32
  if dest / 2 ^ 13 = 1 ∧ (w % 8 = 4 ∨ w % 8 = 5) then
    let h := dest / 64 % 128 * 2 + w / 8
    let x := s.head h
    let on := fun (n : Nat) => if sel = 0 then 0 else n + 1
    let off := fun (n : Nat) => if sel = 0 then n + 1 else 0
    let y := if w % 8 = 4 then { x.watch with limR := on x.watch.limR, freeR := off x.watch.freeR }
             else { x.watch with limW := on x.watch.limW, freeW := off x.watch.freeW }
    s.putHead h { x with watch := y }
  else s

/-- A one-track step is over: its gate is released for the period after its two (R395). -/
def State.endSteps (s : State) : State :=
  s.heads.foldl (fun t p =>
    match p.2.step with
    | some (_, e) => if e ≤ t.now then ((t.putHead p.1 { t.head p.1 with step := none }).releaseHead p.1 1).releaseHead p.1 6 else t
    | none => t) s

/-- A CHAIN slot runs in period k. -/
def State.runChain (s : State) (k sl : Nat) : State :=
  let dest := s.rd Reg.DESC_IO_OUT_DEST sl
  let gated := (dest / 2 ^ 13 == 1 && (s.gate (dest / 64 % 128) (dest % 32)).isSome)
    || ((upTo 128).any fun n => s.rd Reg.STN_SP_SLOTS_SPD_SLOT n == sl && (s.speedGate n).isSome)
  let (s1, stop) := s.staleRun sl gated
  let put := fun (t : State) (v : Int) =>
    if dest / 2 ^ 13 = 1 then t.writeWord k (dest / 64 % 128) (dest % 32) v
    else if dest / 2 ^ 13 = 2 then
      let a := dest % 512
      t.putAxis a { t.axis a with demand := roundDiv (v * (t.rd Reg.MOT_AX_VMAX_VALUE a : Int)) (2 ^ 13) }
    else t
  if stop then (if s.rd Reg.DESC_CTRL_STALE_ACT sl = 2 then put s1 (clampInt (-(2 ^ 23)) (2 ^ 23 - 1) (s.coef sl 51)) else s1)
  else
    let r := s1.chain k sl
    let stale := s1.inputsStale sl
    let x := s1.lslot sl
    let s2 := if gated then s1
      else s1.putLslot sl { x with s1 := r.s1, s2 := r.s2, i := if stale then x.i else r.i, y := r.out * 2 ^ 17 }
    let hi := r.out = s.coef sl 48
    let lo := r.out = s.coef sl 49
    let s3 := (((s2.wrB Reg.LPE_SLOT_STAT_SAT_HI sl hi).wrB Reg.LPE_SLOT_STAT_SAT_LO sl lo).wr
      Reg.LPE_SLOT_STAT_SEL sl r.sel).set1 Reg.LPE_SLOT_STAT_RAN sl
    let s4 := (if hi ∨ lo then s3.slotBit Reg.LPE_SAT_BITS sl true else s3).watchPower dest r.sel
    (put s4 r.out).publish k sl [r.out, sat 24 (roundDiv r.e 2), sat 24 (roundDiv r.i (2 ^ 17)), sat 24 (roundDiv r.u 2)]

/-! ### The spindle sequencer's share of a run -/

/-- Counts that the spindle sequencer keeps at each FOC run: residual, handover, commutation, speed band (R446, R458,
R459, R462, R465). -/
def State.watchSpindle (s : State) (n : Nat) (res : Int) : State :=
  let x := s.spin n
  let st := s.spState n
  let trip := signed 24 (s.spRd n Reg.STN_SP_OBS_CFG_RES_TRIP)
  let f := s.focOf n
  let w := rpmOf (s.obsSpeed n)
  let low := decide (res < trip)
  let near := 10 * (w - (x.spF : Int)).natAbs ≤ x.spF
  let sector := f.th * 3 / 2 ^ 40
  let comm := sector ≠ x.sector
  let sp := s.setPoint n
  let inBand := st = spRun ∧ 0 < sp ∧ 100 * (w - (sp : Int)).natAbs ≤ sp ∧ 100 * ((sp : Int) - (x.bandSp : Int)).natAbs ≤ sp
  let y := { x with resLow := if low then x.resLow + 1 else 0, resHigh := if trip < res then x.resHigh + 1 else 0,
                    catchBad := x.catchBad || (decide (st = spCatch) && !low),
                    handRuns := if st = spRamp ∧ low ∧ near then x.handRuns + 1 else 0,
                    sector := sector, commAt := if comm then s.now else x.commAt,
                    bandFrom := if inBand then some (x.bandFrom.getD s.now) else none, bandSp := sp }
  let short := s.flag Reg.STN_SP_STATUS_SHORT n
  let s0 := s.putSpin n y
  let s1 := if st = spSense ∨ st = spWaitSlow ∨ st = spReacq ∨ short then s0
    else s0.wrS Reg.STN_SP_SPEED_RPM n (if st = spRevBrake ∨ st = spRamp ∨ st = spCatch ∨ st = spRun ∨ st = spBrake then w else 0)
  let s2 := s1.wr Reg.STN_SP_SPEED_SP_RPM n sp
  if !inBand && s.flag Reg.STN_SP_STATUS_AT_SPEED n then (s2.clr Reg.STN_SP_STATUS_AT_SPEED n).dropPhase n else s2

/-- An FOC slot runs in period k, with the references of its sources, or those of the safe program. DEDUCED, assumption 66. -/
def State.runFoc (s : State) (k sl : Nat) (safe : Bool) : State :=
  match s.slotStn sl with
  | none => s
  | some n =>
    let (s1, stop) := if safe then (s, false) else s.staleRun sl false
    let dst := [16, 17, 18]
    if stop then
      (if s.rd Reg.DESC_CTRL_STALE_ACT sl = 2 then dst.foldl (fun t w => t.writeWord k n w (s.coef sl 15)) s1 else s1)
    else
      let x := (s1.lslot sl).foc
      let brk := s1.rdS Reg.LPE_SAFE_BRAKE_BRAKE_I 0
      let iq := if safe then (if 0 < x.w then -brk else if x.w < 0 then brk else 0) else s1.source k sl (s.rd Reg.DESC_SRC01_SRC0 sl)
      let id := if safe then 0 else s1.source k sl (s.rd Reg.DESC_SRC01_SRC1 sl)
      let ang := mget x.th s1.loop.forced n
      let stale := s1.inputsStale sl
      let r := s1.focRun sl n iq id ang stale
      let s2 := (s1.putLslot sl { s1.lslot sl with foc := r.foc }).set1 Reg.LPE_SLOT_STAT_RAN sl
      let s3 := (dst.zip r.duty).foldl (fun t p => t.writeWord k n p.1 p.2) s2
      let s4 := s3.publish k sl [sat 24 (roundDiv r.foc.th (2 ^ 17)), sat 24 (roundDiv r.foc.w (2 ^ 17)), r.res, r.iq]
      if safe then s4 else s4.watchSpindle n r.res

/-- Phase lock acts on a station (R447). -/
def State.phaseOn (s : State) (n : Nat) : Bool :=
  (match s.vgOf n with | some g => s.flag Reg.TIME_VG_CFG_PHASE_EN g | none => false)
    && s.flag Reg.STN_SP_CTRL_PHASE_ALLOW n && s.spState n == spRun && s.setPoint n == 10000 && s.flag Reg.STN_SP_STATUS_AT_SPEED n

/-- The speed reference in a ÷16 run (R445, R448, R449), the current of ALIGN (R457) and the forced angle of RAMP (R458), with the
configuration that comes into force in this run (R483). DESIGN CHOICE, assumption 76. -/
def State.spindleTick (s0 : State) (n : Nat) : State :=
  let s := s0.spCapture n spRunFields
  let st := s.spState n
  let x := s.spin n
  if st = spAlign then
    let full := max 1 (s.spRd n Reg.STN_SP_START_CFG_ALIGN_MS) * msCycles / 4
    s.spPrm n 1 (roundDiv (x.alignTo * (min (s.now - x.stateAt) full : Nat)) full)
  else if st = spRamp then
    let top := max 30 (s.spRd n Reg.STN_SP_START_CFG_HANDOVER) * 10
    let rate := max 1 (s.spRd n Reg.STN_SP_START_CFG_RAMP_RATE) * 50
    let v := min top (rate * (s.now - x.stateAt) / hz)
    let th := wrapHalf (x.thF + ((v * s.poles n * 2 * 2 ^ 40 / (60 * 18750) : Nat) : Int))
    let s1 := s.putSpin n { x with spF := v, thF := th, topAt := if v = top then some (x.topAt.getD s.now) else none }
    { s1 with loop := { s1.loop with forced := mput s1.loop.forced n th } }
  else if st = spRun then
    let sp := s.setPoint n
    let cur := s.rdS Reg.LPE_PRM_VALUE (2048 + 4 * n)
    if s.phaseOn n then
      let phi := wrapUnit 40 ((s.poles n : Int) * s.vgRef n * 2 ^ 17 - (s.focOf n).th)
      let lim : Int := s.spRd n Reg.STN_SP_RUN_CFG_PHASE_SLEW * 2 ^ 20
      let add := clampInt (-lim) lim (phi * (s.spRd n Reg.STN_SP_PHASE_CFG_PH_GAIN : Int) / 2 ^ 20)
      let win := s.spRd n Reg.STN_SP_PHASE_CFG_PH_LOCK
      let ok := phi.natAbs ≤ win * 2 ^ 24
      let s1 := s.spPrm n 0 (roundDiv ((10000 * 2 ^ 20 + add) * 2 ^ 3) 20000)
      s1.putSpin n { x with phaseRuns := if ok then x.phaseRuns + 1 else 0,
                            phiBad := decide (4 * win * 2 ^ 24 < phi.natAbs) }
    else
      let to_ := speedOf sp
      let acc := x.slewAcc + (speedOf (max 1 (s.spRd n Reg.STN_SP_RUN_CFG_SLEW))).toNat
      let stepMax : Int := (acc / 18750 : Nat)
      let hot := s.coef (s.rd Reg.STN_SP_SLOTS_FOC_SLOT n) 5 * (s.spRd n Reg.STN_SP_BRAKE_CFG_VBUS_MAX : Int) < s.sensor n 21 * 128
      let next := if cur < to_ then min to_ (cur + stepMax) else if hot then cur else max to_ (cur - stepMax)
      (((s.putSpin n { x with slewAcc := acc % 18750 }).dropPhase n).spPrm n 0 next)
  else s

/-- The station whose speed slot this is. -/
def State.speedStn (s : State) (sl : Nat) : Option Nat :=
  (upTo 128).find? fun n => s.rd Reg.STN_SP_SLOTS_SPD_SLOT n == sl

/-- A slot that is due runs, `at_` cycles after the lane's start, with the swap that waits for it first (R367). -/
def State.runSlot (s : State) (k sl at_ : Nat) : State :=
  let s1 := match (s.lslot sl).swap with
    | some (mode, t) => if t ≤ s.now + at_ then s.swapSlot sl mode else s
    | none => s
  if s1.isFoc sl then s1.runFoc k sl false
  else
    let s2 := s1.runChain k sl
    match s2.speedStn sl with
    | some n => s2.spindleTick n
    | none => s2

/-- The planned accelerations of the moves in progress, for the ACCEL sources (R501). -/
def State.showAccel (s : State) : State :=
  { s with axes := s.axes.map fun p =>
      match p.2.plan with
      | some pl => (p.1, { p.2 with accel := match pl.at_ with | some t0 => pl.accelAt t0 s.now | none => 0 })
      | none => p }

/-- Due slots of a lane run in turn, each after the costs of those before it (R337, R338). -/
def State.runSlots (k : Nat) : State → Nat → List Nat → State
  | s, _, [] => s
  | s, at_, sl :: r => State.runSlots k (s.runSlot k sl at_) (at_ + s.cost sl) r

/-- LOOP_LANE_RUN: at phase 1,100 the lane runs its due slots in ascending order (R337), once in a period; in CINDER its FOC slots
run the safe program (R376). `bad` are the slots found with an uncorrectable error (R373). -/
def execLoopLaneRun (l : Fin 32) (bad : List Nat) (s : State) : Res :=
  let s0 := (s.advancePhase 1100).endSteps.showAccel
  let s1 := (bad.filter fun sl => sl / 64 == l.val).foldl (fun t sl => t.slotEcc sl) s0
  let k := s1.period
  let start := s1.now - 1100
  let due := (s1.laneOn l).filter fun sl => s1.slotDue sl k && (s1.lslot sl).dueAt ≤ start
  if mfind s1.loop.lanes l.val = some start then .next s1
  else
    let s2 : State := { s1 with loop := { s1.loop with lanes := mput s1.loop.lanes l.val start } }
    if s2.mode = mCinder then
      .next (((due.filter s2.isFoc).foldl (fun t sl => t.runFoc k sl true) s2).wr Reg.LPE_STATUS_K_LO 0 (k % 65536))
    else if s2.loopsRun then
      .next (((State.runSlots k s2 0 due).wr Reg.LPE_STATUS_K_LO 0 (k % 65536)).wr Reg.LPE_STATUS_STATE 0 1)
    else .next s2

/-- LOOP_OVERRUN: a lane has not finished at phase 2,400: CINDER (R374). -/
def execLoopOverrun (l : Fin 32) (s : State) : Res :=
  let s1 := s.advancePhase 2400
  .next ((s1.raise 0x05F4 [l, s1.period % 16]).cinder cLoopOverrun)

/-- LOOP_PARAM_COPY: at phase 1,000 the engine copies all parameters (R370). -/
def execLoopParamCopy (s : State) : Res :=
  let s1 := s.advancePhase 1000
  let id := Reg.LPE_PRM_VALUE.id
  .next { s1 with loop := { s1.loop with prm := (s1.regs.filter fun p => p.1 % 8192 == id).map fun p => (p.1 / 8192, p.2) } }

/-- The other fields of a DESC_CTRL write are stored. -/
def State.storeCtrl (s : State) (sl ctrl : Nat) : State :=
  let f := fun (t : State) (p : Fld × Nat) => t.wr p.1 sl (bitsOf ctrl p.2 p.1.w)
  [(Reg.DESC_CTRL_STALE_MAX, 24), (Reg.DESC_CTRL_STALE_ACT, 22), (Reg.DESC_CTRL_EWRAP, 21), (Reg.DESC_CTRL_INTERP, 20),
   (Reg.DESC_CTRL_FF_MODE, 19), (Reg.DESC_CTRL_FF_EN, 18), (Reg.DESC_CTRL_NBR, 16), (Reg.DESC_CTRL_INT_MODE, 14),
   (Reg.DESC_CTRL_NSEC, 10), (Reg.DESC_CTRL_TYPE, 8), (Reg.DESC_CTRL_PHASE, 4), (Reg.DESC_CTRL_RATE, 2)].foldl f s

/-- Every field of the descriptor holds a legal value (R359, R361). -/
def State.fieldsOk (s : State) (sl : Nat) : Bool :=
  let rate := s.rd Reg.DESC_CTRL_RATE sl
  let ph := s.rd Reg.DESC_CTRL_PHASE sl
  rate ≤ 2 && ph < rateDiv rate && s.rd Reg.DESC_CTRL_TYPE sl ≤ 1 && s.rd Reg.DESC_CTRL_NSEC sl ≤ 8
    && s.rd Reg.DESC_CTRL_STALE_ACT sl ≤ 2 && (!s.isFoc sl || (rate == 1 && ph == 0))

/-- OUT_DEST is legal (R354, R355). DESIGN CHOICE, assumption 69. -/
def State.destOk (s : State) (sl : Nat) : Bool :=
  let d := s.rd Reg.DESC_IO_OUT_DEST sl
  let w := d % 32
  match d / 2 ^ 13 with
  | 0 => d == 0 && !s.isFoc sl
  | 1 => !bitOf d 5 && (if s.isFoc sl then w == 16 else w ≤ 14 && w != 7)
  | 2 => !s.isFoc sl && d / 512 % 16 == 0 && d % 512 ≤ 255
  | _ => false

/-- No other enabled slot writes the same word or axis (R361). -/
def State.destFree (s : State) (sl : Nat) : Bool :=
  let d := s.rd Reg.DESC_IO_OUT_DEST sl
  d == 0 || !((upTo 2048).any fun x => x != sl && s.slotOn x && s.rd Reg.DESC_IO_OUT_DEST x == d)

/-- The first check of R361 that fails, as its LPE_ERR code. DESIGN CHOICE, assumption 69. -/
def State.enableError (s : State) (sl : Nat) : Option Nat :=
  if !s.fieldsOk sl then some 3
  else if !((s.sourcesOf sl).all sourceOk) then some 4
  else if !s.destOk sl then some 3
  else if !s.destFree sl then some 2
  else
    let sls := sl :: (s.laneOn (sl / 64))
    if (upTo 16).all fun k => s.loadOf sls k ≤ 1300 then none else some 1

/-- The peak of a lane's load is shown (R378). -/
def State.showLoad (s : State) (l : Nat) : State :=
  let (p, k) := s.peak l
  let s1 := (s.wr Reg.LPE_LOAD_PEAK l p).wr Reg.LPE_LOAD_PEAK_PHASE l k
  (laneSlots l).foldl (fun t sl => (t.wr Reg.LPE_SLOT_STAT_START sl (t.startPhase sl)).wrB Reg.LPE_SLOT_STAT_EN sl (t.slotOn sl)) s1

/-- LOOP_SLOT_ENABLE: a DESC_CTRL write with EN 1 to a disabled slot (R361, R350). -/
def execLoopSlotEnable (sl : Fin 2048) (ctrl : BitVec 32) (s : State) : Res :=
  if s.slotOn sl then .next s
  else
    let s1 := s.storeCtrl sl ctrl.toNat
    match s1.enableError sl with
    | some code => .next ((s1.lpeErr sl code).raise 0x05F2 [sl, code])
    | none =>
      let s2 := (s1.set1 Reg.DESC_CTRL_EN sl).clr Reg.LPE_SLOT_STAT_RAN sl
      let x := s2.lslot sl
      let i0 := if s2.isFoc sl then 0 else s2.coef sl 61 * 2 ^ 17
      .next ((s2.putLslot sl { x with s1 := [], s2 := [], y := 0, i := i0, dueAt := s.now + 5000, acting := false, swap := none,
                                      foc := {} }).showLoad (sl / 64))

/-- LOOP_SLOT_DISABLE: a write that clears EN takes effect at the next period boundary (R363). DESIGN CHOICE, assumption 71. -/
def execLoopSlotDisable (sl : Fin 2048) (s : State) : Res :=
  if s.slotOn sl then .next (((s.advanceMod 5000).disableSlot sl).showLoad (sl / 64)) else .next s

/-- The fields of a descriptor's words beyond DESC_CTRL, high half first. -/
def descWordFields : Nat → List (Fld × Nat)
  | 1 => [(Reg.DESC_SRC01_SRC1, 16), (Reg.DESC_SRC01_SRC0, 0)]
  | 2 => [(Reg.DESC_SRC23_SRC3, 16), (Reg.DESC_SRC23_SRC2, 0)]
  | 3 => [(Reg.DESC_IO_OUT_DEST, 16), (Reg.DESC_IO_FF_SRC, 0)]
  | 4 => [(Reg.DESC_BR01_BR_SRC1, 16), (Reg.DESC_BR01_BR_SRC0, 0)]
  | 5 => [(Reg.DESC_BR2_BR_SRC2, 0)]
  | _ => []

/-- LOOP_DESC_WRITE: a write to a descriptor word; while EN is 1, word 0 acts on EN alone and any other word is
discarded (R362). -/
def execLoopDescWrite (sl : Fin 2048) (w : Fin 16) (data : BitVec 32) (s : State) : Res :=
  if s.slotOn sl then (if w.val = 0 then .next s else .next (s.lpeErr sl 5))
  else if w.val = 0 then .next (s.storeCtrl sl data.toNat)
  else .next ((descWordFields w).foldl (fun t p => t.wr p.1 sl (bitsOf data.toNat p.2 p.1.w)) s)

/-- LOOP_BANK_WRITE: a write to a coefficient bank (R366). -/
def execLoopBankWrite (sl : Fin 2048) (bank : Fin 2) (w : Fin 64) (data : BitVec 32) (s : State) : Res :=
  if s.slotOn sl ∧ bank.val = s.rd Reg.DESC_CTRL_BANK sl then .next (s.lpeErr sl 6)
  else if (s.lslot sl).swap.isSome then .next (s.lpeErr sl 7)
  else .next (s.wr Reg.LPE_BANK_WORD ((sl.val * 2 + bank.val) * 64 + w.val) data.toNat)

/-- A swap is requested of a list of slots: enabled slots at their first run at least 5,000 cycles on, disabled slots at
once (R367). -/
def State.requestSwap (s : State) (sls : List Nat) (mode : Nat) : State :=
  let s1 := s.wr Reg.LPE_SWAP_MODE 0 mode
  sls.foldl (fun t sl =>
    if t.slotOn sl then
      ((t.putLslot sl { t.lslot sl with swap := some (mode, s.now + 5000) }).set1 Reg.LPE_SLOT_STAT_SWAP_PENDING sl).set1
        Reg.LPE_SWAP_PENDING 0
    else t.swapSlot sl mode) s1

/-- LOOP_SWAP_SLOT: GO with GROUP 0 (R367, R369). -/
def execLoopSwapSlot (sl : Fin 2048) (mode : Fin 4) (s : State) : Res :=
  if s.flag Reg.LPE_SWAP_PENDING 0 then .next (s.lpeErr sl 8)
  else .next (((s.wr Reg.LPE_SWAP_SLOT 0 sl).clr Reg.LPE_SWAP_GROUP 0).requestSwap [sl.val] mode)

/-- LOOP_SWAP_GROUP: GO with GROUP 1, for every slot flagged in LPE_SWAP_SET (R367, R369). -/
def execLoopSwapGroup (mode : Fin 4) (s : State) : Res :=
  if s.flag Reg.LPE_SWAP_PENDING 0 then .next (s.lpeErr (s.rd Reg.LPE_SWAP_SLOT 0) 8)
  else .next ((s.set1 Reg.LPE_SWAP_GROUP 0).requestSwap ((upTo 2048).filter fun x => s.slotFlag Reg.LPE_SWAP_SET_BITS x) mode)

/-- LOOP_SWAP_EXECUTE: a waiting swap takes place at the start of the slot's first run that is late enough (R367,
R368). -/
def execLoopSwapExecute (sl : Fin 2048) (s : State) : Res :=
  match (s.lslot sl).swap with
  | some (mode, t) => .next ((s.advanceTo t).swapSlot sl mode)
  | none => .next s

/-- LOOP_SAT_CLEAR: SAT_CLR clears every LPE_SAT bit (R378). -/
def execLoopSatClear (s : State) : Res := .next ((upTo 64).foldl (fun t i => t.wr Reg.LPE_SAT_BITS i 0) s)

/-- SAFE_PROGRAM_DONE: every spindle stopped, or TIMEOUT_S elapsed: SAFE_NOW goes out in every PERIOD (R376, R379). -/
def execSafeProgramDone (s : State) : Res :=
  match s.loop.safeFrom with
  | none => .next s
  | some t0 =>
    if s.loop.safeDone then .next s
    else
      let s1 := if s.turningCount = 0 then s
                else s.advanceTo (t0 + s.rd1 Reg.LPE_SAFE_BRAKE_TIMEOUT_S 0 * hz)
      let s2 : State := { s1 with loop := { s1.loop with safeDone := true } }
      .next ((s2.wr Reg.LPE_STATUS_STATE 0 3).raise 0x05F3 [1, s1.turningCount])

end Sys2Proof.Machine
end

