-- ==== Sys2Proof/Machine/Heads.lean ====
section
/-!
DEFINITION. The commands of the head sequencers: operations, acquisition, steps, jumps, seeks, layer jumps, write power
calibration, loss and recovery (R387 to R416).
-/

namespace Sys2Proof.Machine

/-- The number of a head. -/
def headOf (n : Fin 128) (side : Fin 2) : Nat := 2 * n.val + side.val

/-- A calibration run of a unit is abandoned and stays pending (R899, R903, R907). Kinds: 0 port, 1 slice, 2 trim. -/
def State.abandonCal (s : State) (kind inst : Nat) : State :=
  let k := kind * 512 + inst
  let u := mget {} s.cals k
  if u.running then
    let s1 : State := { s with cals := mput s.cals k { u with running := false, pending := true, staged := [], frames := 0,
                                                              sums := [], count := 0 } }
    s1.raise 0x0D03 [kind, inst]
  else s

/-- A port has reached ACTIVE or UP, or a head READY after a mount: a run of the unit is due (R894). -/
def State.armCal (s : State) (kind inst : Nat) : State :=
  { s with cals := mput s.cals (kind * 512 + inst) { mget {} s.cals (kind * 512 + inst) with armed := true } }

/-- The head's slice and trim runs are abandoned. -/
def State.abandonHeadCal (s : State) (h : Nat) : State := (s.abandonCal 1 h).abandonCal 2 h

/-- GO of STN_HD_CMD with an operation: BUSY, or refused with RESULT 1 (R389, R424); in CINDER the sequencers have stopped (R422). -/
def State.headGo (s : State) (h op : Nat) (ok : Bool) (f : State → State) : State :=
  let s1 := s.wr Reg.STN_HD_CMD_OP h op
  if s.mode = mCinder || (s.flag Reg.STN_HD_CMD_BUSY h && op != 4) then s1
  else
    if ok then f (s1.set1 Reg.STN_HD_CMD_BUSY h) else s1.wr Reg.STN_HD_CMD_RESULT h 1

/-- The target in STN_HD_TARGET as a request of firmware. -/
def State.targetReq (s : State) (h kind : Nat) : HReq :=
  { kind := kind, slot := s.rd Reg.STN_HD_TARGET_SLOT h, leadin := s.flag Reg.STN_HD_TARGET_LEADIN h,
    layer := s.rd Reg.STN_HD_TARGET_LAYER h, firmware := true }

/-- HEAD_ACQUIRE (R393): from PARKED or FAULT. -/
def execHeadAcquire (n : Fin 128) (side : Fin 2) (s : State) : Res :=
  let h := headOf n side
  let st := s.hd h
  .next (s.headGo h 1 (st == hdParked || st == hdFault) fun t => t.acquire h (s.targetReq h 1))

/-- HEAD_SEEK (R389, R398). -/
def execHeadSeek (n : Fin 128) (side : Fin 2) (s : State) : Res :=
  let h := headOf n side
  .next (s.headGo h 2 (s.hd h == hdReady && (s.head h).op.isNone) fun t => t.startSeek h (s.targetReq h 2))

/-- HEAD_LAYER (R389, R403); a slice and a trim run of the head are abandoned (R903, R907). -/
def execHeadLayer (n : Fin 128) (side : Fin 2) (s : State) : Res :=
  let h := headOf n side
  .next (s.headGo h 3 (s.hd h == hdReady && (s.head h).op.isNone)
    fun t => (t.abandonHeadCal h).startLayer h (s.targetReq h 3))

/-- HEAD_PARK (R390, R420): taken even while BUSY; the operation in progress ends abandoned. -/
def execHeadPark (n : Fin 128) (side : Fin 2) (s : State) : Res :=
  let h := headOf n side
  let st := s.hd h
  let ok := st != hdOff && st != hdFault && st != hdParking
  .next (s.headGo h 4 ok fun t =>
    if st = hdParked then t.headResult h 0
    else
      let u := (t.abandonHeadCal h).parkHead h 0
      (u.putHead h { u.head h with op := some { kind := 4, firmware := true } }).set1 Reg.STN_HD_CMD_BUSY h)

/-- HEAD_OPC (R389, R407). -/
def execHeadOpc (n : Fin 128) (side : Fin 2) (s : State) : Res :=
  let h := headOf n side
  .next (s.headGo h 5 (s.hd h == hdReady && (s.head h).op.isNone)
    fun t => t.startOpc h { s.targetReq h 5 with layer := s.layerOf h })

/-- HEAD_CLEAR_FAULT: FAULT to PARKED (R415). -/
def execHeadClearFault (n : Fin 128) (side : Fin 2) (s : State) : Res :=
  let h := headOf n side
  .next (s.headGo h 6 (s.hd h == hdFault) fun t => (t.setHd h hdParked).headResult h 0)

/-- SEEK_REQUEST: the slice or the command sequencer asks for a seek; it waits until the head is READY (R389). -/
def execSeekRequest (n : Fin 128) (side : Fin 2) (slot : Nat) (cmd : Option (Nat × Nat)) (s : State) : Res :=
  let h := headOf n side
  .next (s.askHead h { kind := 2, slot := slot, layer := s.layerOf h, cmd := cmd })

/-- LAYER_JUMP_REQUEST: as SEEK_REQUEST, for a layer; slice and trim runs of the head are abandoned (R903, R907). -/
def execLayerJumpRequest (n : Fin 128) (side : Fin 2) (layer : Fin 16) (cmd : Option (Nat × Nat)) (s : State) : Res :=
  let h := headOf n side
  .next ((s.abandonHeadCal h).askHead h { kind := 3, layer := layer, cmd := cmd })

/-- A one-track step (R395): word 1 is gated at its last output plus or minus TRK_STEP for the period in whose ACTUATE it
is applied and the next; a head that is not READY takes none (R389). -/
def State.oneTrack (s : State) (h : Nat) (inward : Bool) : State :=
  if s.hd h ≠ hdReady ∨ (s.head h).step.isSome then s
  else
    let d := s.rdS Reg.STN_HD_TRK_CFG_TRK_STEP h
    let ph := s.lin % 5000
    let start := if ph ≤ 2400 then s.now - ph else s.now - ph + 5000
    let s1 := s.stepTrack h (if inward then -d else d) 1 start
    let s2 := s1.putHead h { s1.head h with step := some (inward, start + 10000) }
    match s.sliceOf h with
    | some sl => s2.bump Reg.SLC_STAT_COUNT (sl * 13 + 10) 1
    | none => s2

/-- The slice asks for a one-track step (R247, R277, R300). -/
def State.askStep (s : State) (h : Nat) (inward : Bool) : State := s.putHead h { s.head h with stepAsk := some inward }

/-- ONE_TRACK_STEP: the step asked for is made, once the head is READY and no operation or step is under way (R389, R390, R395). -/
def execOneTrackStep (n : Fin 128) (side : Fin 2) (s : State) : Res :=
  let h := headOf n side
  let x := s.head h
  match x.stepAsk with
  | none => .next s
  | some inward =>
    if s.mode = mCinder ∨ s.hd h ≠ hdReady ∨ x.op.isSome ∨ x.step.isSome then .next s
    else .next ((s.putHead h { x with stepAsk := none }).oneTrack h inward)

/-! ### Acquisition (R393) -/

/-- A stage of acquisition or recovery begins: its action, its state, its time limit. -/
def State.enterStage (s : State) (h stage : Nat) : State :=
  let x := s.head h
  let rec_ := x.op.any fun r => r.kind == 6
  let w := { x.watch with focIn := 0, trkIn := 0, relIn := 0, pwrIn := 0, sumLow := 0, teOut := 0, relOut := 0, pwrOut := 0 }
  let s1 := s.putHead h { x with stage := stage, stageAt := s.now, tries := 0, watch := w }
  let to_ := fun (t : State) (st : Nat) => if rec_ then t else t.setHd h st
  let layer := match x.op with | some r => r.layer | none => 0
  match stage with
  | 0 => let t := s1.focusSweep h; if rec_ then t.setHd h hdRecover else t
  | 1 => to_ s1 hdTrackAcq
  | 2 => to_ s1 hdTrackAcq
  | 3 => to_ s1 hdOnGuide
  | 4 => to_ (s1.readPowerOn h) hdLayerAcq
  | 5 => to_ (s1.moveRelay h layer 0) hdLayerAcq
  | _ => s1

/-- A guide address word is sound apart from its side: GCRC, GUIDE_FORMAT and MEDIA_TYPE (R186, R188). DEDUCED, assumption 34. -/
def guideOk (w : Nat) : Bool :=
  crc16 (bytesLE 6 (w % 2 ^ 48)) == bitsOf w 48 16 && bitsOf w 24 8 == 1 && bitsOf w 32 8 == 1

/-- Two consecutive address words, `apart` slot boundaries between them, lock the clock and the address: both sound and of this side, with
SLOT fields that agree with the position counted between them (R393). -/
def addrPair (side w1 w2 apart : Nat) : Bool :=
  guideOk w1 && guideOk w2 && bitsOf w1 20 1 == side && bitsOf w2 20 1 == side && bitsOf w2 0 20 == bitsOf w1 0 20 + apart
    && decide (apart ≤ 1)

/-- The clock and the address are locked, at the slot of an address word (R393). -/
def State.addrLock (s : State) (h w : Nat) : State :=
  let slot := bitsOf w 0 20
  let s1 := ((s.set1 Reg.STN_HD_STATUS_CLK_LOCK h).set1 Reg.STN_HD_POS_VALID h).wr Reg.STN_HD_POS_SLOT h slot
  let s2 := s1.wrB Reg.STN_HD_POS_LEADIN h (bitOf w 21)
  s2.putHead h { s2.head h with pos := slotPos slot (bitOf w 21), posAt := s.now }

/-- A head's operation has failed in acquisition: it goes to FAULT (R393), and what was under way on it fails (R415). -/
def State.acqFail (s : State) (h why : Nat) : State := (s.faultHead h why).failHead h

/-- ACQ_STAGE_LOCKED: the lock condition of the stage holds (R393). `w1` and `w2` are two consecutive address words and `apart`
the slot boundaries counted between them. A word that is sound but for its SIDE is not valid, and fails the side check at once (R188).
DEDUCED, assumption 34. -/
def execAcqStageLocked (n : Fin 128) (side : Fin 2) (w1 w2 : BitVec 64) (apart : Nat) (s : State) : Res :=
  let h := headOf n side
  let x := s.head h
  if !(x.op.any fun r => r.kind == 1 || r.kind == 6) then .next s
  else
    match x.stage with
    | 0 => if 64 ≤ x.watch.focIn then .next ((s.set1 Reg.STN_HD_STATUS_FOC_LOCK h).enterStage h 1) else .next s
    | 1 => if 300 ≤ x.watch.trkIn then .next ((s.set1 Reg.STN_HD_STATUS_TRK_LOCK h).enterStage h 2) else .next s
    | 2 =>
      if !(guideOk w1.toNat && guideOk w2.toNat) then .next s
      else if bitsOf w1.toNat 20 1 ≠ side.val then .next ((s.raise 0x0503 [n, side, bitsOf w1.toNat 20 1]).acqFail h 0x0503)
      else if addrPair side w1.toNat w2.toNat apart then .next ((s.addrLock h w2.toNat).enterStage h 3)
      else .next s
    | 3 =>
      if !guideOk w1.toNat then .next s
      else if bitsOf w1.toNat 20 1 = side.val then .next (s.enterStage h 4)
      else .next ((s.raise 0x0503 [n, side, bitsOf w1.toNat 20 1]).acqFail h 0x0503)
    | 4 => if 16 ≤ x.watch.pwrIn then .next (s.enterStage h 5) else .next s
    | _ => .next s

/-- The limit of a stage for one attempt (R393); tracking and the clock after a long move have both their limits together (R399). -/
def State.stageLimit (s : State) (h stage : Nat) : Nat :=
  let trk := s.rd1 Reg.STN_HD_SEEK_CFG_TRK_ACQ_MS h * msCycles
  match stage with
  | 0 => s.rd1 Reg.STN_HD_FOC_CFG_SWEEP_MS h * msCycles
  | 1 => trk
  | 2 => 10 * msCycles
  | 9 => trk + 10 * msCycles
  | _ => 2 * msCycles

/-- The lens is on its way back to FOCUS_PARK between two sweeps: the moment it arrives (R393). -/
def State.sweepBack (s : State) (h : Nat) : Option Nat :=
  match s.gate (h / 2) (headWord h 0) with
  | some (.ramp _ b start dur) => if b = s.rdS Reg.LPE_SAFE_CFG_FOCUS_PARK 0 then some (start + dur) else none
  | _ => none

/-- A further attempt at a stage (R393): the lens goes back to FOCUS_PARK, or tracking is gated at 0 again. -/
def State.tryAgain (s : State) (h : Nat) : State :=
  let x := s.head h
  let s1 := s.putHead h { x with tries := x.tries + 1, stageAt := s.now }
  match x.stage with
  | 0 => s1.gateHead h 0 (.ramp (s1.lastOut h 0) (s.rdS Reg.LPE_SAFE_CFG_FOCUS_PARK 0) s.now (s.stageLimit h 0))
  | 1 | 9 => s1.gateTrack h (.hold 0)
  | _ => s1

/-- ACQ_STAGE_TIMEOUT: the stage is not locked within its limit: another attempt, up to three in all, then FAULT with the stage's
event (R393); a further focus sweep begins once the lens is back at FOCUS_PARK. The manual gives no codes for the stages, so that item
is a free value. DESIGN CHOICE, assumptions 72 and 230. -/
def execAcqStageTimeout (n : Fin 128) (side : Fin 2) (s : State) : Res :=
  let h := headOf n side
  let x := s.head h
  let acquires := x.op.any fun r => r.kind == 1 || r.kind == 6
  let settles := x.op.isSome && x.longMoves != 0 && x.stage == 9 && s.axState h != axMoving && s.axState h != axHoming
  if !settles ∧ (!acquires ∨ x.stage = 3 ∨ 4 < x.stage) then .next s
  else
    match (if x.stage = 0 then s.sweepBack h else none) with
    | some t =>
      let s1 := (s.advanceTo t).focusSweep h
      .next (if x.op.any fun r => r.kind == 6 then s1.setHd h hdRecover else s1)
    | none =>
      let s1 := s.advanceTo (x.stageAt + s.stageLimit h x.stage)
      if x.tries + 1 < 3 then .next (s1.tryAgain h)
      else if x.stage = 0 then
        .next ((s1.raise 0x0501 ([n.val, side.val, 3] ++ i1 x.watch.sumMax)).acqFail h 0x0501)
      else if x.stage = 4 then .next ((s1.raise 0x0504 [n, side, s1.layerOf h]).acqFail h 0x0504)
      else
        let (code, s2) := s1.draw 32
        .next ((s2.raise 0x0502 [n, side, code]).acqFail h 0x0502)

/-! ### Jumps and seeks (R397 to R401) -/

/-- The place of the trail spot after J tracks. -/
def jumpedPos (pos : Nat) (j : Int) : Nat := ((pos : Int) + j * (turnBits20 pos : Int) / 2 ^ 20).toNat

/-- Firmware loads the starting alignment of both spots at assignment and after every seek or layer jump (R260); no rule gives its
value, so it is free within ±256. DESIGN CHOICE, assumption 221. -/
def State.loadAlign (s : State) (sl : Nat) : State :=
  let (a, s1) := s.draw 9
  let (b, s2) := s1.draw 9
  (s2.wrS Reg.SLC_ALIGN_LEAD_ALIGN sl ((a : Int) - 256)).wrS Reg.SLC_ALIGN_TRAIL_ALIGN sl ((b : Int) - 256)

/-- The seek of the operation has landed: SEEK ends READY; an acquisition, recovery or calibration goes on (R393, R408, R413). -/
def State.landed (s : State) (h : Nat) : State :=
  let x := s.head h
  match x.op with
  | some r =>
    if r.kind = 6 then s.putHead h { x with stage := 7 }
    else if r.kind = 5 then s.opcLanded h
    else
      let s1 := match s.sliceOf h with | some sl => s.loadAlign sl | none => s
      (s1.opDone h).nextReq h
  | none => s

/-- SEEK_JUMP_DONE: |J| + 1 periods after the jump began its gate is released (R397, R383). -/
def execSeekJumpDone (n : Fin 128) (side : Fin 2) (s : State) : Res :=
  let h := headOf n side
  let x := s.head h
  if x.op.isNone ∨ x.jump = 0 then .next s
  else
    let s1 := (s.advanceTo x.dueAt).freeTrack h
    .next ((s1.putHead h { s1.head h with pos := jumpedPos (s1.posNow h) x.jump, posAt := s1.now, jump := 0 }).landed h)

/-- STN_SP_SPEED_SP shows the set point in force (R443). -/
def State.showSp (s : State) (n : Nat) : State := s.wr Reg.STN_SP_SPEED_SP_RPM n (s.setPoint n)

/-- Offsets and the alternate set of a re-read are removed, and ACTIVE restored (R301). -/
def State.endReread (s : State) (l : Ladder) : State :=
  let s1 := (s.headPrm l.head 2 0).headPrm l.head 3 0
  let x := s1.slice l.slice
  let s2 := if x.saved.isEmpty then s1 else (s1.eqPut l.slice 0 x.saved).putSlice l.slice { x with saved := [] }
  s2.showSp (l.head / 2)

/-- A seek has failed (R400, R969): firmware sees RESULT 2; a request of the slice or sequencer is started again after
recovery, and when it fails a second time its command ends, or its frame's re-reads do. That of an acquisition or a recovery is its last
stage, tried three times in all (R393, R413). -/
def State.seekFail (s : State) (h : Nat) (r : HReq) (j : Int) : State :=
  if r.kind = 1 ∨ r.kind = 6 then
    let x := s.head h
    if x.seekTries + 1 < 3 then (s.putHead h { x with seekTries := x.seekTries + 1, longMoves := 0, jump := 0 }).seekMove h (s.landingOf h r)
    else (s.raise 0x0505 ([h / 2, h % 2, r.slot] ++ i1 j)).acqFail h 0x0505
  else
  let s1 := s.raise 0x0505 ([h / 2, h % 2, r.slot] ++ i1 j)
  let s2 := s1.putHead h { s1.head h with op := none, jump := 0, longMoves := 0 }
  let s3 :=
    if r.firmware then s2.headResult h 2
    else if !r.failed then s2.putHead h { s2.head h with again := some { r with failed := true } }
    else if r.reread then
      let t := (s2.ladders.filter fun l => l.head == h && l.slot == r.slot).foldl (fun t l => t.endReread l) s2
      { t with ladders := t.ladders.map fun l =>
          if l.head == h && l.slot == r.slot then { l with rung := 9, fresh := none, started := false } else l }
    else match r.cmd with
      | some (sq, tag) => s2.fail sq tag stStationFault
      | none => s2
  s3.enterRecover h 1

/-- LONG_SEEK_SETTLED: the sled has moved and settled, and tracking, released by then, and the clock are locked again, the clock by
two consecutive address words with `apart` slot boundaries between them (R393, R399 steps 3 and 4): the landing rule is applied once
more (R399 step 5, R400). -/
def execLongSeekSettled (n : Fin 128) (side : Fin 2) (w1 w2 : BitVec 64) (apart : Nat) (s : State) : Res :=
  let h := headOf n side
  let x := s.head h
  match x.op with
  | none => .next s
  | some r =>
    if x.longMoves = 0 ∨ x.stage ≠ 9 ∨ s.axState h = axMoving ∨ s.axState h = axHoming ∨ (s.gate n (headWord h 1)).isSome
        ∨ x.watch.trkIn < 300 ∨ !addrPair side w1.toNat w2.toNat apart then .next s
    else
      let s1 := ((s.set1 Reg.STN_HD_STATUS_TRK_LOCK h).addrLock h w2.toNat)
      let s2 := s1.putHead h { s1.head h with jump := 0, stage := 8 }
      let j := s2.landingOf h r
      if j = 0 then .next (s2.landed h)
      else if j.natAbs ≤ s.jumpMax h then .next (s2.startJump h j)
      else if x.longMoves < 3 then .next (s2.longMove h j)
      else .next (s2.seekFail h r j)

/-- SEEK_RESTART: a failed seek starts again from its beginning once the head is READY (R969). -/
def execSeekRestart (n : Fin 128) (side : Fin 2) (s : State) : Res :=
  let h := headOf n side
  let x := s.head h
  match x.again with
  | some r => if s.hd h = hdReady ∧ x.op.isNone then .next ((s.putHead h { x with again := none }).startReq h r) else .next s
  | none => .next s

/-! ### Layer jumps (R403, R404) -/

/-- A head's operation that moves or acquires the relay. -/
def Head.onRelay (x : Head) : Bool :=
  x.op.any fun r => (r.kind == 3 || r.kind == 1 || r.kind == 6) && x.stage == 5

/-- LAYER_MOVE_END: the gated value has reached its end; read power is restored (R403 step 4). -/
def execLayerMoveEnd (n : Fin 128) (side : Fin 2) (s : State) : Res :=
  let h := headOf n side
  let x := s.head h
  if !x.onRelay then .next s
  else
    let s1 := (s.advanceTo x.dueAt).readPowerOn h
    .next (s1.putHead h { s1.head h with stageAt := s1.now })

/-- RELAY_LOCKED: |relay error| has stayed low for 16 runs (R403): the head is on the layer. -/
def execRelayLocked (n : Fin 128) (side : Fin 2) (s : State) : Res :=
  let h := headOf n side
  let x := s.head h
  match x.op with
  | none => .next s
  | some r =>
    if !x.onRelay ∨ x.watch.relIn < 16 then .next s
    else
      let s1 := (s.set1 Reg.STN_HD_STATUS_REL_LOCK h).wr Reg.STN_HD_STATUS_LAYER h r.layer
      if r.kind = 3 then
        let s2 := match s1.sliceOf h with
          | some sl => (s1.loadEq sl h r.layer).loadAlign sl
          | none => s1
        .next ((s2.opDone h).nextReq h)
      else
        let j := s1.landingOf h r
        let s2 := s1.putHead h { s1.head h with stage := 8, longMoves := 0, tries := 0, seekTries := 0 }
        if j = 0 then .next (s2.landed h) else .next ((if r.kind = 6 then s2 else s2.setHd h hdSeek).seekMove h j)

/-- LAYER_JUMP_TIMEOUT: the relay is not locked within REL_ACQ_MS of the end of the move: a further attempt 4 µm below and then
above the nominal position, then LAYER_ACQ_FAIL (R404). DESIGN CHOICE, assumption 73. -/
def execLayerJumpTimeout (n : Fin 128) (side : Fin 2) (s : State) : Res :=
  let h := headOf n side
  let x := s.head h
  match x.op with
  | none => .next s
  | some r =>
    if !x.onRelay then .next s
    else
      let s1 := s.advanceTo (x.stageAt + s.rd1 Reg.STN_HD_LJ_CFG_REL_ACQ_MS h * msCycles)
      if x.tries < 2 then
        let t := s1.moveRelay h r.layer (if x.tries = 0 then -262144 else 262144)
        .next (t.putHead h { t.head h with tries := x.tries + 1, stageAt := (t.head h).dueAt })
      else
        let s2 := s1.raise 0x0504 [n, side, r.layer]
        if r.kind = 3 then
          let s3 := s2.putHead h { s2.head h with op := none, again := if r.firmware then x.again else some r }
          .next ((if r.firmware then s3.headResult h 2 else s3).enterRecover h 5)
        else .next (s2.acqFail h 0x0504)

/-! ### Loss of lock (R412 to R416) -/

/-- The condition under which a lock is lost: 0 guide focus, 1 tracking, 2 clock, 3 relay, 4 read power (R412). -/
def Watch.lost (w : Watch) (sliced : Bool) : Nat → Bool
  | 0 => 8 ≤ w.sumLow
  | 1 => 16 ≤ w.teOut || w.addrBad
  | 2 => w.clkBad && sliced
  | 3 => 8 ≤ w.relOut
  | _ => 16 ≤ w.pwrOut

/-- The lock bit that a loss clears. -/
def State.clearLock (s : State) (h : Nat) : Nat → State
  | 0 => s.clr Reg.STN_HD_STATUS_FOC_LOCK h
  | 1 => s.clr Reg.STN_HD_STATUS_TRK_LOCK h
  | 2 => s.clr Reg.STN_HD_STATUS_CLK_LOCK h
  | 3 => s.clr Reg.STN_HD_STATUS_REL_LOCK h
  | _ => s

/-- The slice of a head must verify what awaits verify before it writes on (R414). -/
def State.markReverify (s : State) (h : Nat) : State :=
  match s.sliceOf h with
  | some sl =>
    let x := s.slice sl
    s.putSlice sl { x with reverify := !x.written.isEmpty, written := x.written.map fun e => { e with back := [] } }
  | none => s

/-- LOCK_LOSS: a lock of a head in READY, SEEK or OPC is lost (R412, R413). The manual gives no codes for the locks, so that item
of the event is a free value. DESIGN CHOICE, assumption 72. -/
def execLockLoss (n : Fin 128) (side : Fin 2) (lock : Fin 5) (s : State) : Res :=
  let h := headOf n side
  let x := s.head h
  let st := s.hd h
  if s.mode = mCinder || !(st == hdReady || st == hdSeek || st == hdOpc) || !(x.watch.lost (s.sliceOf h).isSome lock) then .next s
  else
    let s1 := ((s.stopWriting h).clearLock h lock).abandonHeadCal h
    let (code, s2) := s1.draw 32
    let s3 := (s2.raise 0x0506 [n, side, code, st]).markReverify h
    let stages := ((upTo 5).filter fun i => x.watch.lost (s.sliceOf h).isSome i).map fun i => [0, 1, 2, 5, 4].getD i 0
    let stage := stages.foldl min 5
    if !s.flag Reg.STN_HD_CTRL_AUTO_RECOVER h then .next ((s3.faultHead h 0x0506).failHead h)
    else .next ((s3.enterRecover h stage).enterStage h stage)

/-- Frames that await verify are read again: the head seeks back to the first of their slots (R414). -/
def State.seekVerify (s : State) (h : Nat) : State :=
  match (s.sliceOf h).bind fun sl => (if (s.slice sl).reverify then (s.slice sl).written.head? else none) with
  | some e => s.askHead h { kind := 2, slot := e.slot, leadin := e.mgmt, layer := e.layer }
  | none => s

/-- HEAD_RECOVERY_DONE: every stage is locked again and the head is back at its layer and position (R413, R414). -/
def execHeadRecoveryDone (n : Fin 128) (side : Fin 2) (s : State) : Res :=
  let h := headOf n side
  let x := s.head h
  if (x.op.any fun r => r.kind == 6) ∧ s.hd h = hdRecover ∧ x.stage = 7 then
    let s1 := s.opDone h
    .next (((s1.raise 0x0507 [n, side, (s.now - x.recoverAt) / msCycles]).seekVerify h).nextReq h)
  else .next s

/-- HEAD_RECOVERY_TIMEOUT: recovery has not succeeded within RECOVER_MS × 10 ms: FAULT (R415). -/
def execHeadRecoveryTimeout (n : Fin 128) (side : Fin 2) (s : State) : Res :=
  let h := headOf n side
  let x := s.head h
  if (x.op.any fun r => r.kind == 6) ∧ s.hd h = hdRecover then
    .next ((s.advanceTo (x.recoverAt + s.rd Reg.STN_HD_LOSS_CFG_RECOVER_MS h * 10 * msCycles)).acqFail h 0x0506)
  else .next s

/-- Write commands in flight on a head end with STATION_FAULT (R406). -/
def State.failWrites (s : State) (h : Nat) : State :=
  s.failAll (fun c => c.op == 0x11 && (c.heads (s.cmdStn c)).contains h) stStationFault

/-- POWER_LIMIT_DETECT: a power slot has selected a limit branch in 16 runs (R405), which stops writing when it is the
write power slot of a head that writes (R406); PWR_LIMITED clears after 16 runs without. -/
def execPowerLimitDetect (n : Fin 128) (side : Fin 2) (write : Bool) (s : State) : Res :=
  let h := headOf n side
  let w := (s.head h).watch
  let (lim, free, shown, other) := if write then (w.limW, w.freeW, w.shownW, w.shownR) else (w.limR, w.freeR, w.shownR, w.shownW)
  let mark := fun (t : State) (b : Bool) =>
    let y := t.head h
    t.putHead h { y with watch := if write then { y.watch with shownW := b } else { y.watch with shownR := b } }
  if 16 ≤ lim ∧ !shown then
    let sl := (s.writerOf n (headWord h (if write then 5 else 4))).getD 0
    let s1 := (mark (s.set1 Reg.STN_HD_STATUS_PWR_LIMITED h) true).raise 0x0509 [n, side, sl, s.rd Reg.LPE_SLOT_STAT_SEL sl - 1]
    .next (if write && s.flag Reg.STN_HD_STATUS_WRITING h then (s1.stopWriting h).failWrites h else s1)
  else if write ∧ 16 ≤ lim ∧ s.flag Reg.STN_HD_STATUS_WRITING h then .next ((s.stopWriting h).failWrites h)
  else if 16 ≤ free ∧ shown then
    let s1 := mark s false
    .next (if other then s1 else s1.clr Reg.STN_HD_STATUS_PWR_LIMITED h)
  else .next s

/-! ### Write power calibration (R407 to R411) -/

/-- Laser temperature of a head, SENSOR word 6 of its side. -/
def State.laserTemp (s : State) (h : Nat) : Int := s.sensor (h / 2) (headWord h 6)

/-- The side under a head is finalised: nothing is written to it (R235). -/
def State.sideFinal (s : State) (h : Nat) : Bool :=
  match s.discIn (h / 2) with
  | some d => ((s.disc d).side (h % 2)).finalised
  | none => false

/-- A trigger of R407 holds: no valid WRITE_SP of the layer, the temperature moved, or R324. -/
def State.opcDue (s : State) (h : Nat) : Bool :=
  let l := s.layerOf h
  let x := s.head h
  let moved := match mfind x.lastOpc l with
    | some t => (s.rd Reg.STN_HD_OPC_CFG_OPC_DTEMP h : Int) * 2 ^ 15 < ((s.laserTemp h - t).natAbs : Int)
    | none => false
  (x.needOpc || !s.flag Reg.STN_HD_WPWR_VALID (layerIdx h l) || moved) && !s.sideFinal h

/-- OPC_TRIGGER: an automatic write power calibration of the current layer (R407). -/
def execOpcTrigger (n : Fin 128) (side : Fin 2) (s : State) : Res :=
  let h := headOf n side
  if s.flag Reg.STN_HD_CTRL_OPC_AUTO h && s.opcDue h then
    .next (s.askHead h { kind := 5, layer := s.layerOf h })
  else .next s

/-- An OPC ends without a result (R410). -/
def State.opcFail (s : State) (h l emin full : Nat) : State :=
  let s1 := (s.raise 0x050B [h / 2, h % 2, l, emin, full]).wr Reg.STN_HD_OPC_RES_LAYER h l
  let fw := (s.head h).op.any fun r => r.firmware
  let s2 := s1.putHead h { s1.head h with needOpc := false, opcBad := l :: (s1.head h).opcBad }
  let s3 := if fw then s2.headResult h 2 else s2
  (s3.opDone h).nextReq h

/-- A burst row as data blocks: the sync, 307 symbols from the scrambler's output seeded by the calibration slot's PFA, 5 zeros
(R216). -/
def burstRow (pfa : Nat) : List Nat :=
  let syms := ((upTo 307).foldl (fun (a : List Nat × Nat) _ => let (v, st) := lfsrBits 16 a.2 0; (v :: a.1, st)) ([], pfa ||| 0x80000000)).1
  rowSync :: wordsOfBits 120 (syms.reverse.flatMap zEncode ++ List.replicate 5 false)

/-- The first row of a burst in its slot (R215). -/
def burstAt (b : Nat) : Nat := 1 + 8 * (b % 18)

/-- The PFA of a burst's calibration slot. -/
def burstPfa (b h l : Nat) : Nat := pfaOf (b / 18) l (h % 2) true

/-- Errors of a row read back against its pattern over content bits 1,024 to 7,679 (R409). -/
def burstErrors (words : List Nat) (pfa : Nat) : Nat :=
  (((burstRow pfa).zip (words ++ List.replicate 121 0)).drop 17).foldl (fun a p => a + popcount 64 (p.1 ^^^ p.2)) 0

/-- The burst is passed over: the pointer moves on, and the next burst's rows are read (R217, R410). -/
def State.opcNext (s : State) (h l : Nat) : State :=
  let s1 := s.pcaTake h l
  s1.putHead h { s1.head h with opc := { burst := s1.pcaNext h l } }

/-- The eight rows of a burst have been read before it is written (R217): a qualifying row sync means that it is used; else the
burst is written on the lead spot's next turn over it, to which the head jumps back two tracks (R408). Nothing is written
to a finalised side (R235). -/
def State.opcChecked (s : State) (h l : Nat) : State :=
  let o := (s.head h).opc
  if o.rows.any fun p => 56 ≤ p.2.score then s.opcNext h l
  else if s.sideFinal h then s.putHead h { s.head h with opc := { o with stage := .back, lost := true } }
  else
    let s1 := s.putHead h { s.head h with opc := { o with stage := .write, rows := [], base := s.slotOut (h / 2) (headWord h 5) } }
    (s1.emit (.burst (h / 2) (h % 2) (o.burst / 18) (burstAt o.burst) ((upTo 8).flatMap fun _ => burstRow (burstPfa o.burst h l)))).startJump h (-2)

/-- A row read by the trail spot during a calibration, where it is one of its burst. -/
def State.opcRow (s : State) (h abs row : Nat) (b : BackRow) : State :=
  match (s.head h).op with
  | none => s
  | some r =>
    let o := (s.head h).opc
    if r.kind ≠ 5 ∨ o.stage = .write ∨ 18432 ≤ o.burst ∨ abs ≠ o.burst / 18 ∨ row < burstAt o.burst ∨ burstAt o.burst + 8 ≤ row then s
    else
      let rows := mput o.rows (row - burstAt o.burst) b
      let s1 := s.putHead h { s.head h with opc := { o with rows := rows } }
      if o.stage = .check ∧ rows.length = 8 then s1.opcChecked h r.layer else s1

/-- While the lead spot passes over the burst to be written, word 5 is gated at the power of the row under it; behind the last row
the writing ends (R408). `pos` is the lead spot's place. -/
def State.opcWrite (s : State) (h pos : Nat) : State :=
  let o := (s.head h).opc
  if s.hd h ≠ hdOpc ∨ o.stage ≠ .write ∨ (s.head h).jump ≠ 0 then s
  else
    let first := 151 * (o.burst / 18) + burstAt o.burst
    let r := pos / 7744
    if r < first ∨ 151 * (o.burst / 18 + 1) ≤ r then s
    else if r < first + 8 then
      let k := r - first
      let v := o.base * ((s.rd Reg.STN_HD_OPC_CFG_OPC_LO h + k * s.rd Reg.STN_HD_OPC_CFG_OPC_STEP h : Nat) : Int)
      let (p, s1) := s.kept v 256
      (s1.gateHead h 5 (.hold (sat 24 p))).putHead h { s1.head h with opc := { o with cur := some k } }
    else (s.gateHead h 5 (.hold 0)).putHead h { s.head h with opc := { o with stage := .back, cur := none } }

/-- The write power monitor of a SENSOR counts for the row under the lead spot (R408). -/
def State.opcMonitor (s : State) (h : Nat) : State :=
  let x := s.head h
  match x.opc.cur with
  | none => s
  | some k =>
    let (a, n) := mget (0, 0) x.opc.pow k
    s.putHead h { x with opc := { x.opc with pow := mput x.opc.pow k (a + s.sensor (h / 2) (headWord h 5), n + 1) } }

/-- The burst of a slot could not be written (R410). -/
def State.opcLost (s : State) (h slot : Nat) : State :=
  let x := s.head h
  if (x.op.any fun r => r.kind == 5) && x.opc.stage != .check && x.opc.burst / 18 == slot then
    s.putHead h { x with opc := { x.opc with stage := .back, lost := true, cur := none } }
  else s

/-- The mean write power monitor of a row of a burst (R408). -/
def State.opcMean (s : State) (h k : Nat) : Int × State :=
  let (a, n) := mget (0, 0) (s.head h).opc.pow k
  if n = 0 then (let (v, s1) := s.draw 24; (signed 24 v, s1)) else s.kept a n

/-- OPC_READBACK: the rows of the burst written are read back and a new WRITE_SP is set, or the calibration fails: once it goes on to
the next burst (R409, R410). -/
def execOpcReadback (n : Fin 128) (side : Fin 2) (s : State) : Res :=
  let h := headOf n side
  let x := s.head h
  match x.op with
  | none => .next s
  | some r =>
    if r.kind ≠ 5 ∨ s.hd h ≠ hdOpc then .next s
    else
      let l := r.layer
      let o := x.opc
      if 18432 ≤ o.burst then .next (s.opcFail h l (s.rd Reg.STN_HD_OPC_RES_E_MIN h) 1)
      else if o.stage ≠ .back ∨ !(o.lost || o.rows.length == 8) then .next s
      else
        let errs := (upTo 8).map fun k => match mfind o.rows k with
          | some b => burstErrors b.words (burstPfa o.burst h l)
          | none => 6656
        let emin := errs.foldl min 6656
        let s2 := (s.wr Reg.STN_HD_OPC_RES_E_MIN h emin).wr Reg.STN_HD_OPC_RES_LAYER h l
        if o.lost ∨ s.rd Reg.STN_HD_OPC_RES_E_MAX h < emin then
          if x.opcTries = 0 then .next ((s2.putHead h { s2.head h with opcTries := 1 }).opcNext h l)
          else .next ((s2.pcaTake h l).opcFail h l emin 0)
        else
          let win := (upTo 8).filter fun k => errs.getD k 0 ≤ 2 * emin + 16
          let (lo, s3) := s2.opcMean h (win.headD 0)
          let (hi, s4) := s3.opcMean h (win.getLastD 0)
          let (v, s5) := s4.kept ((lo + hi) * ((256 + s.rd Reg.STN_HD_OPC_CFG_OPC_MARGIN h : Nat) : Int)) 512
          let s6 := ((s5.pcaTake h l).wrS Reg.STN_HD_WPWR_WRITE_SP (layerIdx h l) v).set1 Reg.STN_HD_WPWR_VALID (layerIdx h l)
          let s7 := s6.headPrm h 1 v
          let y := s7.head h
          let s8 := s7.putHead h { y with lastOpc := mput y.lastOpc l (s.laserTemp h), needOpc := false,
                                          opcBad := y.opcBad.filter fun x => x != l }
          .next (((s8.raise 0x050A ([n.val, side.val, l] ++ i1 v ++ [emin])).opDone h).nextReq h)

/-! ### Parking (R418, R420 to R422) -/

/-- Neither head of a station is up. -/
def State.bothDown (s : State) (n : Nat) : Bool := !s.headUp (2 * n) && !s.headUp (2 * n + 1)

/-- What follows when a head has parked: after an unmount or a mount that failed, the spindle stops once both heads are
down (R417 to R419); before EMBER or BANKED it is braked (R479); after a power failure SAFE_NOW goes out (R421). -/
def State.afterPark (s : State) (n cause : Nat) : State :=
  let unmounted := (s.discs.any fun p => p.2.loc == .station n && !p.2.mounted)
  let s1 := if cause = 2 ∧ unmounted then (s.parkHead (2 * n) 0).parkHead (2 * n + 1) 0 else s
  if !s1.bothDown n then s1
  else if cause = 4 then s1.safeNow n 4 .stay
  else if cause = 3 then s1.stopSpindle n 2
  else if cause = 1 ∨ unmounted then s1.spinTarget n 0
  else s1

/-- HEAD_PARK_DONE: the ramps are over: the sled moves to its park position, unless power fails; and the sled is there: PARKED, or
FAULT (R415, R420, R421). -/
def execHeadParkDone (n : Fin 128) (side : Fin 2) (s : State) : Res :=
  let h := headOf n side
  let x := s.head h
  let park := s.rdS Reg.MOT_SLED_PARK_PARK 0
  if s.mode = mCinder ∨ s.hd h ≠ hdParking ∨ (x.parkCause ≠ 4 ∧ (s.axState h = axMoving ∨ s.axState h = axHoming)) then .next s
  else if x.parkCause ≠ 4 ∧ x.stage ≠ 10 ∧ s.axPos h ≠ park then
    let s1 := s.advanceTo x.dueAt
    .next ((s1.putHead h { s1.head h with stage := 10 }).headMove h park)
  else
    let s1 := ((s.advanceTo x.dueAt).parkGates h).putHead h { x with op := none }
    let s2 := (s1.setHd h (if x.parkCause = 2 then hdFault else hdParked)).headResult h (if x.parkCause = 2 then 2 else 0)
    .next ((s2.raise 0x050C [n, side, x.parkCause]).afterPark n x.parkCause)

end Sys2Proof.Machine
end

