-- ==== Sys2Proof/Machine/Spindle.lean ====
section
/-!
DEFINITION. The commands of the spindle sequencers: starts, catches, observer loss, braking, phase lock and faults
(R439 to R477).
-/

namespace Sys2Proof.Machine

/-- SPINDLE_TARGET_WRITE: STN_SP_TARGET (R443, R452, R476). -/
def execSpindleTargetWrite (n : Fin 128) (rpm : BitVec 14) (s : State) : Res := .next (s.spinTarget n rpm.toNat)

/-! ### Back-EMF (R453, R467) -/

/-- The back-EMF threshold in units of 2^-24 of VNOM: BEMF_MIN / 1,024. -/
def State.bemfMin (s : State) (n : Nat) : Nat := max 1 (s.spRd n Reg.STN_SP_START_CFG_BEMF_MIN) * 2 ^ 14

/-- The vectors of the last runs, newest first, all of at least the threshold. -/
def State.bemfStrong (s : State) (n runs : Nat) : Bool :=
  let l := (s.spin n).bemf.take runs
  l.length == runs && l.all fun v => s.bemfMin n ≤ vecLen v.1 v.2

/-- The angle turned from the second vector to the first, half turns in 2^-40. -/
def turned (a b : Int × Int) : Int := wrapHalf (angleOf a.1 a.2 - angleOf b.1 b.2)

/-- The angles turned between successive vectors, newest first. -/
def turns : List (Int × Int) → List Int
  | a :: b :: r => turned a b :: turns (b :: r)
  | _ => []

/-- A valid measurement over a number of ÷4 runs: strong throughout and turning one way (R453); speed follows from the
angle travelled, divided by p. -/
def State.measure (s : State) (n runs : Nat) : Option Meas :=
  let l := (s.spin n).bemf.take runs
  let t := turns l
  if s.bemfStrong n runs ∧ (t.all (fun d => 0 < d) ∨ t.all (fun d => d < 0)) then
    match l with
    | [] => none
    | v :: _ =>
      let sum := t.foldl (· + ·) 0
      let rpm := roundDiv (sum * 60 * 75000) (2 * s.poles n * (runs - 1) * 2 ^ 40)
      some { rpm := rpm, th := angleOf v.1 v.2, ea := v.1, eb := v.2 }
  else none

/-- The station's voltages as the αβ vector in VNOM units, 2^-24 (R453), kept for the last 750 runs while the bridge is
open to sense, which after a loss it is from `openAt` on; the speed shown follows from them (R482). -/
def State.keepBemf (s : State) (n : Nat) : State :=
  let st := s.spState n
  if st = spSense ∨ st = spWaitSlow ∨ (st = spReacq ∧ (s.spin n).openAt ≤ s.now) then
    let u := s.sensor n 18
    let v := s.sensor n 19
    let w := s.sensor n 20
    let vn := max 1 (s.coef (s.rd Reg.STN_SP_SLOTS_FOC_SLOT n) 5)
    let al := roundDiv ((2 * u - v - w) * 2 ^ 24) (3 * vn).toNat
    let be := roundDiv ((v - w) * invRoot3) (vn * 2 ^ 36).toNat
    let x := s.spin n
    let low := vecLen al be < s.bemfMin n
    let s1 := s.putSpin n { x with bemf := ((al, be) :: x.bemf).take 750, lowFrom := if low then some (x.lowFrom.getD s.now) else none }
    s1.wrS Reg.STN_SP_SPEED_RPM n (match s1.measure n (if st = spReacq then 150 else 750) with | some m => m.rpm | none => 0)
  else s

/-- The observer is seeded from a measurement, before the FOC slot's next run (R442, R459). -/
def State.seedObserver (s : State) (n : Nat) (m : Meas) : State :=
  let sl := s.rd Reg.STN_SP_SLOTS_FOC_SLOT n
  let x := s.lslot sl
  let w := speedOf m.rpm * 2 ^ 17
  let mag : Int := vecLen m.ea m.eb
  s.putLslot sl { x with foc := { x.foc with th := wrapHalf (m.th - 2 ^ 39), w := w, ea := m.ea * 2 ^ 16, eb := m.eb * 2 ^ 16,
                                             intD := 0, intQ := (if m.rpm < 0 then -mag else mag) * 2 ^ 16 } }

/-- CATCH: the observer is seeded and the bridge enabled (R459). -/
def State.catchSpindle (s : State) (n : Nat) (m : Meas) (afterLoss : Bool) : State :=
  let s1 := ((s.seedObserver n m).bridge n 1).gateSpeed n 0
  let s2 := s1.setSp n spCatch
  s2.putSpin n { s2.spin n with meas := some m, lossCatch := afterLoss }

/-- SPINDLE_SENSE_END: after 20 ms the measurement decides (R454). -/
def execSpindleSenseEnd (n : Fin 128) (s : State) : Res :=
  if s.mode = mCinder then .next s else
  if s.spState n ≠ spSense then .next s
  else
    let s1 := s.advanceTo ((s.spin n).stateAt + 20 * msCycles)
    match s1.measure n 750 with
    | some m =>
      let s2 := s1.wrB Reg.STN_SP_STATUS_REVERSE n (decide (m.rpm < 0))
      let s3 := (s2.putSpin n { s2.spin n with meas := some m }).wrS Reg.STN_SP_SPEED_RPM n m.rpm
      if 300 < m.rpm then .next (s3.catchSpindle n m false)
      else if m.rpm < -100 then
        let s4 := (s3.seedObserver n m).brakeSpindle n true 0
        .next ((s4.setSp n spRevBrake).raise 0x0603 (n.val :: i1 m.rpm))
      else .next (s3.setSp n spWaitSlow)
    | none => .next ((s1.putSpin n { s1.spin n with meas := none }).setSp n spWaitSlow)

/-- SPINDLE_WAIT_SLOW_END: back-EMF low for 100 ms, or 1 s: ALIGN may follow (R456). -/
def execSpindleWaitSlowEnd (n : Fin 128) (s : State) : Res :=
  if s.mode = mCinder then .next s else
  if s.spState n ≠ spWaitSlow then .next s
  else
    let x := s.spin n
    let full := x.stateAt + hz
    let due := match x.lowFrom with
      | some t => min full (max x.stateAt t + 100 * msCycles)
      | none => full
    let s1 := s.advanceTo due
    .next (s1.putSpin n { s1.spin n with alignReady := true })

/-- SPINDLE_REV_BRAKE_END: |ω̂| below 60 rpm: ALIGN may follow (R455). -/
def execSpindleRevBrakeEnd (n : Fin 128) (s : State) : Res :=
  if s.mode = mCinder then .next s else
  if s.spState n = spRevBrake ∧ (rpmOf (s.obsSpeed n)).natAbs < 60 then
    let s1 := s.gateSpeed n 0
    .next (s1.putSpin n { s1.spin n with alignReady := true })
  else .next s

/-- The gap of R95 since the last start from rest of the station's group. -/
def State.spinupGap (s : State) (n : Nat) : Bool :=
  match s.vgOf n with
  | none => true
  | some g =>
    match mfind s.tb.lastSpin g with
    | none => true
    | some t => t + s.vg Reg.TIME_VG_CFG_SPINUP_GAP g * msCycles ≤ s.now

/-- SPINDLE_ALIGN_START: the start from rest, when R95 and the power cap allow it (R457, R865); ID_CMD rises from 0 in the ÷16 runs. -/
def execSpindleAlignStart (n : Fin 128) (s : State) : Res :=
  if s.mode = mCinder then .next s else
  let x := s.spin n
  let w := s.rd Reg.PWR_WEIGHT_STN_START_W 0
  if !x.alignReady ∨ !s.spinupGap n ∨ !s.capAdmits w then .next s
  else
    let s1 := match s.vgOf n with
      | some g => { s with tb := { s.tb with lastSpin := mput s.tb.lastSpin g s.now } }
      | none => s
    let s2 := ((s1.admitted w).bridge n 1).gateSpeed n 0
    let i := s.rdS Reg.STN_SP_I_ALIGN_VALUE n + (s.rd Reg.STN_SP_STATUS_ATTEMPT n : Int) * s.rdS Reg.STN_SP_I_STEP_VALUE n
    let s3 := (s2.spPrm n 1 0).setSp n spAlign
    let s4 : State := { s3 with loop := { s3.loop with forced := mput s3.loop.forced n 0 } }
    .next (s4.putSpin n { s4.spin n with alignReady := false, thF := 0, spF := 0, alignTo := sat 24 i })

/-- SPINDLE_ALIGN_END: ALIGN_MS is over: RAMP (R458). -/
def execSpindleAlignEnd (n : Fin 128) (s : State) : Res :=
  if s.mode = mCinder then .next s else
  if s.spState n ≠ spAlign then .next s
  else
    let s1 := s.advanceTo ((s.spin n).stateAt + max 1 (s.spRd n Reg.STN_SP_START_CFG_ALIGN_MS) * msCycles)
    let s2 := ((s1.spPrm n 1 0).gateSpeed n (s.rdS Reg.STN_SP_I_RAMP_VALUE n)).setSp n spRamp
    .next (s2.putSpin n { s2.spin n with thF := 0, spF := 0, topAt := none, commAt := s2.now })

/-- The speed loop closes at the observer's speed: RUN (R458, R459). -/
def State.closeSpeed (s : State) (n : Nat) : State :=
  let s1 : State := { s with loop := { s.loop with forced := mdel s.loop.forced n } }
  let s2 := ((s1.spPrm n 0 (s.obsSpeed n)).openSpeed n).setSp n spRun
  s2.putSpin n { s2.spin n with commAt := s2.now, bandFrom := none }

/-- SPINDLE_HANDOVER: 64 runs with the residual below RES_TRIP and ω̂ within 10 % of the forced speed, once that has come to its end
(R458). DEDUCED, assumption 231. -/
def execSpindleHandover (n : Fin 128) (s : State) : Res :=
  if s.mode = mCinder then .next s else
  let x := s.spin n
  if s.spState n = spRamp ∧ 64 ≤ x.handRuns ∧ x.topAt.isSome then .next (s.closeSpeed n) else .next s

/-- SPINDLE_CATCH_DONE: 64 runs after the bridge was enabled with the residual below RES_TRIP (R459). -/
def execSpindleCatchDone (n : Fin 128) (s : State) : Res :=
  if s.mode = mCinder then .next s else
  let x := s.spin n
  if s.spState n = spCatch ∧ 64 ≤ x.resLow ∧ !x.catchBad then
    let s1 := s.closeSpeed n
    .next (s1.raise 0x0602 ([n.val] ++ i1 (rpmOf (s.obsSpeed n)) ++ [if x.lossCatch then 1 else 0]))
  else .next s

/-- The heads of a station whose spindle gives up go to FAULT (R416). -/
def State.headsGiveUp (s : State) (n why : Nat) : State :=
  [2 * n, 2 * n + 1].foldl (fun t h => if t.hd h = hdSpinWait then (t.faultHead h why).failHead h else t) s

/-- An attempt fails (R460, R461): after attempt 3, FAULT with cause START; else a retry after 200 ms. -/
def State.attemptFail (s : State) (n cause : Nat) : State :=
  let a := s.rd Reg.STN_SP_STATUS_ATTEMPT n
  let s0 : State := { s with loop := { s.loop with forced := mdel s.loop.forced n } }
  let s1 := ((s0.bridge n 0).gateSpeed n 0).spPrm n 1 0
  if a = 3 then ((s1.raise 0x0605 [n, cause]).faultSpindle n 1).headsGiveUp n 0x0605
  else
    let s2 := ((s1.raise 0x0604 [n, a, cause]).wr Reg.STN_SP_STATUS_ATTEMPT n (a + 1)).bump Reg.STN_SP_COUNT_RETRIES n 1
    s2.putSpin n { s2.spin n with retryAt := some (s.now + 200 * msCycles), alignReady := false }

/-- SPINDLE_ATTEMPT_FAIL: no handover within 1 s of the top of the ramp (1), or the residual reached RES_TRIP in CATCH
(3) (R460); a locked rotor in RAMP (2) has its own command. -/
def execSpindleAttemptFail (n : Fin 128) (s : State) : Res :=
  if s.mode = mCinder then .next s else
  let x := s.spin n
  if x.retryAt.isSome then .next s
  else if s.spState n = spRamp then
    match x.topAt with
    | some t => .next ((s.advanceTo (t + hz)).attemptFail n 1)
    | none => .next s
  else if s.spState n = spCatch ∧ x.catchBad then .next (s.attemptFail n 3)
  else .next s

/-- SPINDLE_RETRY: 200 ms after a failed attempt it begins again at SENSE (R461). -/
def execSpindleRetry (n : Fin 128) (s : State) : Res :=
  if s.mode = mCinder then .next s else
  match (s.spin n).retryAt with
  | some t => .next ((s.advanceTo t).senseSpindle n)
  | none => .next s

/-- SPINDLE_LOCKED_ROTOR: no commutation event within 400 ms of the start of RAMP or within 50 ms in RUN (R462 to
R464). -/
def execSpindleLockedRotor (n : Fin 128) (s : State) : Res :=
  if s.mode = mCinder then .next s else
  let x := s.spin n
  if s.spState n = spRamp ∧ x.retryAt.isNone ∧ x.commAt ≤ x.stateAt then
    let s1 := s.advanceTo (x.stateAt + 400 * msCycles)
    .next ((s1.raise 0x0606 [n, 0]).attemptFail n 2)
  else if s.spState n = spRun then
    let s1 := s.advanceTo (x.commAt + 50 * msCycles)
    .next (((s1.dropPhase n).raise 0x0606 [n, 1]).faultSpindle n 2 |>.headsGiveUp n 0x0606)
  else .next s

/-- The conditions of R465: the residual above RES_TRIP in 16 runs, or a speed jump over 16 runs. -/
def State.observerLost (s : State) (n : Nat) : Option Nat :=
  let x := s.spin n
  let ws := (s.focOf n).ws
  let now := ws.getD 0 0
  let old := ws.getD 16 0
  let sp := s.rdS Reg.LPE_PRM_VALUE (2048 + 4 * n)
  if 16 ≤ x.resHigh then some 0
  else if ws.length = 17 ∧ old.natAbs < 5 * (now - old).natAbs ∧ 3 * sp ≤ 10 * (old.natAbs : Int) then some 1
  else none

/-- SPINDLE_OBSERVER_LOSS: the observer is lost in RUN (R465, R466); the heads of the station stop writing and wait
(R416). -/
def execSpindleObserverLoss (n : Fin 128) (s : State) : Res :=
  if s.mode = mCinder then .next s else
  match s.observerLost n with
  | none => .next s
  | some why =>
    if s.spState n ≠ spRun then .next s
    else
      let x := s.spin n
      let s1 := ((s.gateSpeed n 0).bridge n 4).bump Reg.STN_SP_COUNT_OBS_LOSS n 1
      let s2 := s1.raise 0x0607 ([n.val, why] ++ i1 (rpmOf (s.obsSpeed n)))
      let s3 := ((s2.dropPhase n).clr Reg.STN_SP_STATUS_AT_SPEED n).setSp n spReacq
      let y := s3.spin n
      let s4 := s3.putSpin n { y with bemf := [], lowFrom := none, meas := none, openAt := s.now + (20000 - s.lin % 20000),
                                      losses := s.now :: x.losses.filter fun t => s.now < t + 60 * hz }
      .next ([2 * n.val, 2 * n.val + 1].foldl (fun t h =>
        if t.headUp h && t.hd h != hdParking then
          let u := ((t.stopWriting h).abandonOp h false).markReverify h
          let v := (u.gateTrack h (.hold (u.lastOut h 1))).gateHead h 2 (.hold (u.lastOut h 2))
          (v.abandonHeadCal h).setHd h hdSpinWait
        else t) s4)

/-- SPINDLE_REACQUIRED: 2 ms of valid back-EMF: caught when it turns forward above 0.3 × the set point, else braked
(R467, R468). -/
def execSpindleReacquired (n : Fin 128) (s : State) : Res :=
  if s.mode = mCinder then .next s else
  if s.spState n ≠ spReacq then .next s
  else
    match s.measure n 150 with
    | none => .next s
    | some m =>
      let s1 := (s.wrB Reg.STN_SP_STATUS_REVERSE n (decide (m.rpm < 0))).putSpin n { s.spin n with meas := some m }
      if (3 * s.setPoint n : Nat) < (10 * m.rpm : Int) ∧ 0 < s.setPoint n then .next (s1.catchSpindle n m true)
      else .next ((s1.seedObserver n m).brakeSpindle n true 1)

/-- SPINDLE_REACQ_TIMEOUT: not reacquired within 200 ms of the bridge opening, which follows the detecting run at phase 0
of the fourth period: BRAKE by pulsed short braking (R466, R468, R473). -/
def execSpindleReacqTimeout (n : Fin 128) (s : State) : Res :=
  if s.mode = mCinder then .next s else
  if s.spState n ≠ spReacq then .next s
  else .next ((s.advanceTo ((s.spin n).openAt + 200 * msCycles)).brakeSpindle n false 1)

/-- SPINDLE_VBUS_CHANGE: Vdc crosses VBUS_MAX or VBUS_RESUME during active braking (R471). -/
def execSpindleVbusChange (n : Fin 128) (s : State) : Res :=
  if s.mode = mCinder then .next s else
  let st := s.spState n
  if (st ≠ spBrake ∧ st ≠ spRevBrake) ∨ !(s.spin n).tracked then .next s
  else
    let vn := s.coef (s.rd Reg.STN_SP_SLOTS_FOC_SLOT n) 5
    let v := s.sensor n 21
    let short := s.flag Reg.STN_SP_STATUS_SHORT n
    if !short ∧ vn * (s.spRd n Reg.STN_SP_BRAKE_CFG_VBUS_MAX : Int) < v * 128 then .next (s.shortOn n)
    else if short ∧ v * 128 < vn * (s.spRd n Reg.STN_SP_BRAKE_CFG_VBUS_RESUME : Int) then
      .next (((s.clr Reg.STN_SP_STATUS_SHORT n).bridge n 1).raise 0x0608 (n.val :: i1 (s.vdc128 n)))
    else .next s

/-- The speed of a spindle that brakes, rpm: by the observer, or by the zero crossings in pulsed short braking (R472). -/
def State.brakeRpm (s : State) (n : Nat) : Nat :=
  if s.flag Reg.STN_SP_STATUS_SHORT n then s.pulseRpm n else (rpmOf (s.obsSpeed n)).natAbs

/-- SPINDLE_BRAKE_END: the speed has fallen below STOP_RPM: HOLD (R474). -/
def execSpindleBrakeEnd (n : Fin 128) (s : State) : Res :=
  if s.mode = mCinder then .next s else
  if s.spState n ≠ spBrake ∨ s.spRd n Reg.STN_SP_BRAKE_CFG_STOP_RPM ≤ s.brakeRpm n then .next s
  else
    let s1 := ((s.clr Reg.STN_SP_STATUS_SHORT n).bridge n 2).gateSpeed n 0
    .next (s1.setSp n spHold)

/-- SPINDLE_HOLD_END: after HOLD_MS the bridge opens: STOPPED (R474), then a start again, or FAULT at the third observer
loss within 60 s (R469). -/
def execSpindleHoldEnd (n : Fin 128) (s : State) : Res :=
  if s.mode = mCinder then .next s else
  if s.spState n ≠ spHold then .next s
  else
    let x := s.spin n
    let s1 := s.advanceTo (x.stateAt + s.spRd n Reg.STN_SP_BRAKE_CFG_HOLD_MS * 10 * msCycles)
    let s2 := ((s1.bridge n 0).setSp n spStopped).raise 0x0609 [n, x.stopCause]
    let recent := x.losses.filter fun t => s1.now < t + 60 * hz
    if x.stopCause = 1 then
      if 3 ≤ recent.length then .next ((s2.faultSpindle n 3).headsGiveUp n 0x060B)
      else if s.flag Reg.STN_SP_CTRL_AUTO_RESTART n ∧ s2.setPoint n ≠ 0 then .next (s2.startSpindle n)
      else .next (s2.headsGiveUp n 0x0609)
    else if s2.setPoint n ≠ 0 ∧ x.stopCause = 0 then .next (s2.startSpindle n)
    else .next s2

/-- SPINDLE_BRAKE_TIMEOUT: braking has lasted 30 s (R475). -/
def execSpindleBrakeTimeout (n : Fin 128) (s : State) : Res :=
  if s.mode = mCinder then .next s else
  if s.spState n ≠ spBrake then .next s
  else .next (((s.advanceTo ((s.spin n).brakeAt + 30 * hz)).faultSpindle n 5).headsGiveUp n 0x060B)

/-- The heads that waited for the spindle re-acquire from the tracking stage (R416). -/
def State.headsResume (s : State) (n : Nat) : State :=
  [2 * n, 2 * n + 1].foldl (fun t h =>
    if t.hd h = hdSpinWait then ((t.releaseHead h 2).enterRecover h 1).enterStage h 1 else t) s

/-- The sled position of the lead-in, radius 23.38 mm (R417, R485). -/
def State.leadInPos (s : State) : Int :=
  roundDiv ((23380 - (s.rd Reg.MOT_SLED_CFG_RAD0 0 : Int)) * 100000) (s.rd1 Reg.MOT_SLED_CFG_USTEP 0)

/-- A disc that a MOUNT in progress, of this cell or of the master, has brought to a station. -/
def State.mounting (s : State) (n : Nat) : Bool :=
  match s.discIn n with
  | some d => !(s.disc d).mounted && (s.lib.guests.contains d
      || s.cmds.any fun c => c.op == 0x20 && c.disc == some d && c.phase == .started)
  | none => false

/-- A command has started on a mounted disc whose station was put to rest (R859). DESIGN CHOICE, assumption 127. -/
def State.waking (s : State) (n : Nat) : Bool :=
  match s.discIn n with
  | some d => (s.disc d).mounted && s.cmds.any fun c => ([0x10, 0x11, 0x12, 0x14, 0x15].contains c.op || (c.op == 0x21 && c.stage < 2)) && c.disc == some d
      && c.phase == .started
  | none => false

/-- Step 4 of a mount (R417): each enabled head acquires once the spindle is at speed and its sled in the lead-in; so it
does when a command needs a station that was put to rest (R859). -/
def State.mountGo (s : State) (n : Nat) : State :=
  if (s.mounting n || s.waking n) && s.flag Reg.STN_SP_STATUS_AT_SPEED n then
    [2 * n, 2 * n + 1].foldl (fun t h =>
      if t.flag Reg.STN_HD_CTRL_EN h && t.hd h == hdParked && t.axRest h && t.axPos h == t.leadInPos then
        t.acquire h { kind := 1, slot := 1024, leadin := true }
      else t) s
  else s

/-- SPINDLE_AT_SPEED: the speed has stayed within 1 % of the set point for 100 ms (R446, R461); the first time after a
start it is reported. -/
def execSpindleAtSpeed (n : Fin 128) (s : State) : Res :=
  if s.mode = mCinder then .next s else
  let x := s.spin n
  match x.bandFrom with
  | none => .next s
  | some t =>
    if s.spState n ≠ spRun ∨ s.flag Reg.STN_SP_STATUS_AT_SPEED n then .next s
    else
      let s1 := (s.advanceTo (t + 100 * msCycles)).set1 Reg.STN_SP_STATUS_AT_SPEED n
      let s2 := if x.firstSpeed then s1
        else (((s1.wr Reg.STN_SP_STATUS_ATTEMPT n 0).bump Reg.STN_SP_COUNT_STARTS n 1).raise 0x0601
          [n, s.setPoint n, (s1.now - x.startAt) / msCycles]).putSpin n { x with firstSpeed := true }
      .next ((s2.headsResume n).mountGo n)

/-- PHASE_LOCK_CHANGE: |φ| at most PH_LOCK in 16 runs, or beyond 4 × PH_LOCK (R449). -/
def execPhaseLockChange (n : Fin 128) (s : State) : Res :=
  if s.mode = mCinder then .next s else
  let x := s.spin n
  let on := s.flag Reg.STN_SP_STATUS_PHASE_LOCKED n
  if !on ∧ 16 ≤ x.phaseRuns ∧ s.phaseOn n then .next ((s.set1 Reg.STN_SP_STATUS_PHASE_LOCKED n).raise 0x060A [n, 1])
  else if on ∧ (x.phiBad ∨ !s.phaseOn n) then .next (s.dropPhase n)
  else .next s

/-- SPINDLE_CLEAR_FAULT: CLEAR takes FAULT to STOPPED (R477), from which a set point starts it (R452). -/
def execSpindleClearFault (n : Fin 128) (s : State) : Res :=
  if s.mode = mCinder then .next s else
  if s.spState n = spFault then
    let s1 := (s.wr Reg.STN_SP_STATUS_FAULT_CAUSE n 0).setSp n spStopped
    .next (if s1.setPoint n ≠ 0 then s1.startSpindle n else s1)
  else .next s

end Sys2Proof.Machine
end

