-- ==== Sys2Proof/Machine/Motion.lean ====
section
/-!
DEFINITION. The commands of the motion engine: moves, homing, stops, faults, and the steps that reach a sled (R486 to
R511).
-/

namespace Sys2Proof.Machine

/-- A sled's head leaves it to firmware: OFF, PARKED or FAULT (R495). -/
def State.sledFree (s : State) (a : Nat) : Bool := a ≥ 256 || !s.headUp a

/-- An axis at rest is IDLE, or in FOLLOW when its head tracks (R497). -/
def State.axAtRest (s : State) (a : Nat) : State :=
  s.setAx a (if a < 256 && followState (s.hd a) then axFollow else axIdle)

/-- GO of MOT_AX_CMD with an operation. -/
def State.axGo (s : State) (a op : Nat) (f : State → State) : State :=
  let s1 := s.wr Reg.MOT_AX_CMD_OP a op
  if s.flag Reg.MOT_AX_CMD_BUSY a && op != 2 then s1 else f s1

/-- No move starts: PWRFAIL_N is asserted, or the controller is in CINDER (R526, R527). -/
def State.motionHeld (s : State) : Bool := s.pw.pfAt.isSome || s.mode == mCinder

/-- AXIS_MOVE: GO with MOVE (R486, R494, R495, R505, R514, R954). The manual names no code for a move refused because the axis
is disabled, homing, moving or in FAULT, or while PWRFAIL_N is asserted or in CINDER (R526, R527): MOT_ERR stays as it is. -/
def execAxisMove (a : Fin 264) (s : State) : Res :=
  let t := s.rdS Reg.MOT_AX_TARGET_VALUE a
  .next (s.axGo a 1 fun u =>
    if !u.sledFree a then u.axRefuse a 5
    else if u.axState a = axUnref then u.axRefuse a 3
    else if u.axState a ≠ axIdle ∨ u.motionHeld then u.wr Reg.MOT_AX_CMD_RESULT a 1
    else if u.badProfile a || u.tooFast a t then u.axRefuse a 4
    else if !u.inLimits a t then u.axRefuse a 2
    else if isPicker a && !u.doorOk then u.axRefuse a 6
    else (u.set1 Reg.MOT_AX_CMD_BUSY a).startMove a t false)

/-- AXIS_STOP: GO with STOP, accepted while the axis moves (R493). -/
def execAxisStop (a : Fin 264) (s : State) : Res :=
  .next (s.axGo a 2 fun u =>
    if u.axState a = axMoving ∨ u.axState a = axHoming then u.stopAxis a
    else if u.flag Reg.MOT_AX_CMD_BUSY a then u
    else u.wr Reg.MOT_AX_CMD_RESULT a 1)

/-- AXIS_HOME: GO with HOME (R495, R506, R507). DESIGN CHOICE, assumption 78. -/
def execAxisHome (a : Fin 264) (s : State) : Res :=
  let st := s.axState a
  .next (s.axGo a 3 fun u =>
    if !u.sledFree a then u.axRefuse a 5
    else if st = axFault ∨ st = axDisabled ∨ st = axMoving ∨ st = axHoming ∨ u.motionHeld then u.wr Reg.MOT_AX_CMD_RESULT a 1
    else if isPicker a then
      if u.doorOk then (u.set1 Reg.MOT_AX_CMD_BUSY a).homePicker a else u.axRefuse a 6
    else (u.set1 Reg.MOT_AX_CMD_BUSY a).homeSled a none)

/-- AXIS_CLEAR: GO with CLEAR takes FAULT to UNREF once AXn_FLT is 0 (R511). -/
def execAxisClear (a : Fin 264) (s : State) : Res :=
  .next (s.axGo a 4 fun u =>
    if u.axState a = axFault ∧ !(u.axis a).flt then (u.setAx a axUnref).wr Reg.MOT_AX_CMD_RESULT a 0
    else u.wr Reg.MOT_AX_CMD_RESULT a 1)

/-- AXIS_TARGET_WRITE: discarded with MOVING while the axis moves (R492). -/
def execAxisTargetWrite (a : Fin 264) (v : BitVec 32) (s : State) : Res :=
  if s.flag Reg.MOT_AX_STATUS_MOVING a then .next (s.motErr a 1) else .next (s.wr Reg.MOT_AX_TARGET_VALUE a v.toNat)

/-- After a long move of a seek, SETTLE × 100 µs pass before tracking is released (R399 step 3). -/
def State.sledSettle (s : State) (a : Nat) : State :=
  let x := s.head a
  if a < 256 ∧ x.op.isSome ∧ x.longMoves ≠ 0 ∧ x.stage = 9 then
    s.putHead a { x with stageAt := s.now + s.rd Reg.STN_HD_SEEK_CFG_SETTLE a * 15000 }
  else s

/-- Steps are issued on an axis (R514, R530). -/
def State.stepping (s : State) (a : Nat) : Bool := s.flag Reg.MOT_CTRL_EN 0 && (!isPicker a || s.doorOk)

/-- AXIS_MOVE_DONE: the last step of a plan has fallen (R486). A plan that STOP has cut short ends with RESULT 3 (R493); one that has
brought an axis in FOLLOW to rest is followed by its move (R499). -/
def execAxisMoveDone (a : Fin 264) (s : State) : Res :=
  let x := s.axis a
  match x.plan with
  | some p =>
    match p.endAt with
    | some t =>
      let homes := s.axState a == axHoming
      if !(s.axState a == axMoving || (homes && p.cut.isSome)) ∨ !s.stepping a then .next s
      else
        let s1 := s.advanceTo t
        match x.after, p.cut with
        | some t', some _ =>
          .next ((((s1.wrS Reg.MOT_AX_POS_VALUE a p.b).putAxis a { x with plan := none, after := none, speed := 0 }).setAx a axIdle).startMove
            a t' true)
        | _, cut =>
          let s2 := s1.endPlan a p (if cut.isSome then 3 else 0)
          let s3 := if homes then s2 else s2.axAtRest a
          .next ((s3.sledSettle a).mountGo (a / 2)).openDoor
    | none => .next s
  | none => .next s

/-- The axis that homes after one of a picker: REACH, TURN, LIFT, TRAVEL (R507). -/
def homeNext : Nat → Option Nat
  | 2 => some 3
  | 3 => some 1
  | 1 => some 0
  | _ => none

/-- A picker that homes goes on to its next axis; after the last it is IDLE. -/
def State.pickerHomed (s : State) (a : Nat) : State :=
  let m := (a - 256) / 4
  if isPicker a && s.rd Reg.LIB_PK_STATE m == 1 then
    match homeNext (a % 4) with
    | some j => s.homePicker (256 + 4 * m + j)
    | none => s.wr Reg.LIB_PK_STATE m 2
  else s

/-- A homed axis is referenced, with its event; a move that waited for it starts (R505 to R507). -/
def State.homed (s : State) (a : Nat) (pos : Int) : State :=
  let after := (s.axis a).after
  let s1 := (s.wrS Reg.MOT_AX_POS_VALUE a pos).set1 Reg.MOT_AX_STATUS_REF a
  let s2 := (s1.putAxis a { s1.axis a with plan := none, after := none, speed := 0, accel := 0 }).axAtRest a
  let s3 := (s2.axDone a 0).raise 0x0701 [a]
  match after with
  | some t => s3.startMove a t true
  | none => s3.pickerHomed a

/-- The steps of a homing run that finds its sensor: at VHOME until AXn_HOME rises, to a stop at STOP_DEC, and back at VHOME / 8 until
it falls (R507). -/
def State.emitHoming (s : State) (a : Nat) (p : Plan) (t0 rise fall : Nat) : State :=
  let out := { s with now := t0 + rise }.braked a p t0
  let back := s.setOff a { p with b := if p.a ≤ p.b then p.a - p.steps else p.a + p.steps, v := max 1 (p.v / 8), lead := 0 }
    (t0 + 4 * out.time out.steps)
  (s.emitSteps a out out.steps).emitSteps a back (back.reached (back.at_.getD 0) (t0 + fall) 32 0)

/-- AXIS_HOME_DONE: a homing run is over. A sled's ends with its travel (R506). A picker's ends with AXn_HOME, which rises `rise`
cycles and falls `fall` cycles after the run's start, or has travelled LIM_HI − LIM_LO without finding it (R507). -/
def execAxisHomeDone (a : Fin 264) (found : Bool) (rise fall : Nat) (s : State) : Res :=
  let x := s.axis a
  match x.plan with
  | none => .next s
  | some p =>
    match p.at_, p.endAt with
    | some t0, some t =>
      if s.axState a ≠ axHoming ∨ p.cut.isSome ∨ !s.stepping a then .next s
      else if !isPicker a then .next ((s.advanceTo t).homed a 0)
      else if found then
        .next (((s.advanceTo (t0 + fall)).emitHoming a p t0 rise fall).homed a (s.rdS Reg.MOT_AX_HOME_POS_VALUE a)).openDoor
      else
        let s1 := (s.advanceTo t).endPlan a p 2
        .next ((s1.wr Reg.LIB_PK_STATE ((a.val - 256) / 4) 0).raise 0x0702 [a]).openDoor
    | _, _ => .next s

/-- The picker of an axis. -/
def pickerOf (a : Nat) : Nat := (a - 256) / 4

/-- AXIS_FAULT_INPUT: AXn_FLT of a picker axis rises or falls (R509, R511). The picker is in FAULT and the transfer it runs
fails with its record left open (R518). -/
def execAxisFaultInput (j : Fin 8) (level : Bool) (s : State) : Res :=
  let a := 256 + j.val
  let x := s.axis a
  if !level then .next (s.putAxis a { x with flt := false })
  else
    let s1 := (s.putAxis a { x with flt := true }).freezePlan a
    let s2 := ((s1.clr Reg.MOT_AX_CTRL_EN a).loseRef a 1).setAx a axFault
    let s3 := (s2.axDone a 2).raise 0x0704 [a]
    let m := pickerOf a
    let s4 := ((upTo 4).map fun i => 256 + 4 * m + i).foldl (fun t b => if b = a then t else t.stopAxis b) s3
    let s5 := s4.wr Reg.LIB_PK_STATE m 5
    let mine := s5.lib.transfers.filter fun t => t.picker == some m
    let s6 := mine.foldl (fun t r => match r.cmd with | some (q, g) => t.fail q g stLibraryFault | none => t) s5
    .next { s6 with lib := { s6.lib with transfers := s6.lib.transfers.filter fun t => t.picker != some m,
                                         records := s6.lib.records ++ mine } }

/-- MOTION_STOP_ALL: a write of 1 to STOP_ALL (R530). -/
def execMotionStopAll (s : State) : Res := .next s.stopAll

/-! ### Steps of a sled (R497 to R503, R141) -/

/-- The entries of a plan from its next step on, with the plan and phase after them. -/
def planEntries : Nat → Plan → Nat → List Nat × Plan × Nat
  | 0, p, ph => ([], p, ph)
  | n + 1, p, ph =>
    if p.steps < p.next then ([], p, ph)
    else
      let inward := decide (p.b < p.a)
      let t := p.time p.next
      let ph' := nextPhase ph inward
      let blk := stepBlock (t - p.prev) ph' inward (p.next == 1)
      let r := planEntries n { p with next := p.next + 1, prev := t } ph'
      (blk :: r.1, r.2.1, r.2.2)

/-- The speed after one step taken toward a demand with an acceleration of at most amax: v² changes by 2 × amax; speeds are in 2^-10
µsteps/s. DEDUCED, assumption 74. DESIGN CHOICE, assumption 75. -/
def followSpeed (v demand : Int) (amax : Nat) : Int :=
  let up : Int := isqrt (v.natAbs * v.natAbs + amax * 2 ^ 21)
  let down : Int := isqrt (v.natAbs * v.natAbs - amax * 2 ^ 21)
  if 0 ≤ v ∧ 0 < demand then (if v ≤ demand then min demand up else max demand down)
  else if v ≤ 0 ∧ demand < 0 then (if demand ≤ v then max demand (-up) else min demand (-down))
  else if 0 < v then max 0 down
  else if v < 0 then min 0 (-down)
  else 0

/-- Steps of an axis in FOLLOW: entries, speed, position and phase after them. DEDUCED, assumption 74. -/
def followEntries : Nat → Int → Int → Nat → Int → Nat → Int → Int → List Nat × Int × Int × Nat × Bool
  | 0, v, _, _, pos, ph, _, _ => ([], v, pos, ph, false)
  | n + 1, v, d, amax, pos, ph, lo, hi =>
    let v' := followSpeed v d amax
    let m := v + v'
    if m = 0 then ([], v', pos, ph, false)
    else
      let inward := decide (m < 0)
      let pos' := if inward then pos - 1 else pos + 1
      if pos' < lo ∨ hi < pos' then ([], 0, pos, ph, true)
      else
        let ph' := nextPhase ph inward
        let iv := (2 * 2 * stepQ * 1024 + m.natAbs) / (2 * m.natAbs)
        let r := followEntries n v' d amax pos' ph' lo hi
        (stepBlock iv ph' inward (decide (v = 0)) :: r.1, r.2)

/-- Entries that the front end's step queue of a sled axis still takes: those it declares in FE_BUF less those sent that are not yet
acknowledged (R502), or whose time has not come where these are more (R174, R176); no more than 128 messages are unacknowledged (R136,
R143). -/
def State.stepRoom (s : State) (n a : Nat) : Nat :=
  let mine := (s.stn n).stepUnacked.filter fun u => u.tag % 2 == a % 2
  let open_ := mine.foldl (fun k u => k + u.blocks.length) 0
  if 128 ≤ (s.stn n).stepUnacked.length then 0
  else bitsOf (s.stn n).feBuf 16 8 - max open_ ((s.axis a).queued.filter fun t => decide (s.now < t)).length

/-- The moments at which the entries of a STEP message fall due, the first one given. -/
def stepDues : Nat → List Nat → List Nat
  | _, [] => []
  | t, [_] => [t]
  | t, _ :: b :: r => t :: stepDues (t + 4 * bitsOf b 0 32) (b :: r)

/-- A STEP message with its entries goes out and awaits its acknowledgement; `due` is the elapsed time of its first
step. -/
def State.sendStep (s : State) (n side due : Nat) (blocks : List Nat) : State :=
  if blocks.isEmpty then s
  else
    let q := s.nextSeq n 0x04 side
    let s1 := s.send n 0x04 side blocks
    let x := s1.stn n
    let a := 2 * n + side
    let s2 := s1.putAxis a { s1.axis a with queued := ((s1.axis a).queued.filter fun t => decide (s.now < t)) ++ stepDues due blocks }
    s2.putStn n { x with stepUnacked := x.stepUnacked ++
      [{ seq := q, sentAt := s.now, tag := side, blocks := blocks, due := due }] }

/-- Up to `left` entries of a sled's plan go out in messages of 16 at most, while the front end takes them. -/
def State.sendPlan (n side t0 : Nat) : Nat → Nat → State → State
  | 0, _, s => s
  | k + 1, left, s =>
    let a := 2 * n + side
    let x := s.axis a
    match x.plan with
    | none => s
    | some p =>
      let m := min (min left 16) (s.stepRoom n a)
      let r := planEntries m p x.phase
      if r.1.isEmpty then s
      else
        State.sendPlan n side t0 k (left - m) ((s.putAxis a { x with plan := some r.2.1, phase := r.2.2 }).sendStep n side
          (t0 + 4 * p.time p.next) r.1)

/-- STEP_SEND: the engine queues entries of a sled's plan, `count` of them or, where those are more, the steps of the next 8 periods;
or up to 16 of its demand in FOLLOW (R489, R497, R498, R502). -/
def execStepSend (n : Fin 128) (side : Fin 2) (count : Nat) (s : State) : Res :=
  let a := 2 * n.val + side.val
  let x := s.axis a
  if !s.active n || !s.flag Reg.MOT_CTRL_EN 0 then .next s
  else
    match x.plan with
    | some p =>
      match p.at_ with
      | none => .next s
      | some t0 => .next (State.sendPlan n side t0 16 (max count (p.reached t0 (s.now + 40000) 32 0 + 1 - p.next)) s)
    | none =>
      if s.axState a ≠ axFollow then .next s
      else if x.demand.natAbs * 10 < 1024 then
        .next ((s.putAxis a { x with speed := 0, accel := 0 }).wr Reg.MOT_AX_STATUS_SPEED a 0)
      else
        let r := followEntries (min (min count 16) (s.stepRoom n a)) x.speed x.demand (s.rd Reg.MOT_AX_AMAX_VALUE a) (s.axPos a) x.phase
          (s.rdS Reg.MOT_AX_LIM_LO_VALUE a) (s.rdS Reg.MOT_AX_LIM_HI_VALUE a)
        let amax : Int := s.rd1 Reg.MOT_AX_AMAX_VALUE a
        let acc := if r.1.isEmpty then 0
          else clampInt (-(2 ^ 23)) (2 ^ 23 - 1) ((r.2.1 * r.2.1.natAbs - x.speed * x.speed.natAbs) * 4 / amax)
        let s1 := s.putAxis a { x with speed := r.2.1, phase := r.2.2.2.1, accel := acc }
        let s2 := ((s1.wrS Reg.MOT_AX_POS_VALUE a r.2.2.1).wr Reg.MOT_AX_STATUS_SPEED a (min 65535 (r.2.1.natAbs / 1024))).wrB
          Reg.MOT_AX_STATUS_DIR a (decide (r.2.1 < 0))
        let s3 := if r.2.2.2.2 && (x.speed != 0 || !r.1.isEmpty) then s2.raise 0x0705 (a :: i1 r.2.2.1) else s2
        .next (s3.sendStep n side s.now r.1)

end Sys2Proof.Machine
end

