-- ==== Sys2Proof/Machine/Library.lean ====
section
/-!
DEFINITION. The library: the door, transfers of discs by the pickers, inventory (R512 to R528).
-/

namespace Sys2Proof.Machine

/-! ### Places -/

/-- LOC of a magazine slot and of a station (R513). -/
def locSlot (i : Nat) : Nat := i
def locStation (n : Nat) : Nat := 0x4000 + n

/-- What a LOC names: 0 a slot, 1 a station, 2 a picker, 3 an unknown place. DESIGN CHOICE, assumption 85. -/
def locKind (l : Nat) : Nat := l / 2 ^ 14 % 4
def locIndex (l : Nat) : Nat := l % 2 ^ 12

/-- A location under its cell. -/
def locKey (cell loc : Nat) : Nat := cell * 65536 + loc

/-- The table entry of a location: FACE, LIFT and TRAVEL in 64 bits; for a location of another cell, as that cell gave it
(R560). -/
def State.locEntry (s : State) (cell loc : Nat) : Nat :=
  let i := locIndex loc
  if cell ≠ s.cell then mget 0 s.lib.farLocs (locKey cell loc)
  else if locKind loc = 0 then
    s.rd Reg.LIB_SLOT_LOC_TRAVEL i + s.rd Reg.LIB_SLOT_LOC_LIFT i * 2 ^ 32 + s.rd Reg.LIB_SLOT_LOC_FACE i * 2 ^ 63
  else
    s.rd Reg.LIB_STN_LOC_TRAVEL i + s.rd Reg.LIB_STN_LOC_LIFT i * 2 ^ 32 + s.rd Reg.LIB_STN_LOC_FACE i * 2 ^ 63

def locTravel (e : Nat) : Int := signed 32 (bitsOf e 0 32)
def locLift (e : Nat) : Int := signed 31 (bitsOf e 32 31)
def locFace (e : Nat) : Nat := bitsOf e 63 1

/-- A transfer takes LIB_POSN and the entries of its locations as they stand (R532). -/
def State.captureTables (s : State) (t : Transfer) : Transfer :=
  { t with posns := s.posns, srcE := s.locEntry t.srcCell t.src, dstE := s.locEntry t.dstCell t.dst }

/-- The targets of TURN, LIFT and TRAVEL at a location, by a table of positions and its entry (R513, R518). -/
def locTargets (ps : List Int) (e : Nat) : List (Nat × Int) := [(3, ps.getD (locFace e) 0), (1, locLift e), (0, locTravel e)]

/-- TURN, LIFT and TRAVEL to a location (R518). -/
def State.pkTo (s : State) (m : Nat) (ps : List Int) (e loc : Nat) : State := (s.pkMove m (locTargets ps e)).wr Reg.LIB_PK_LOC m loc

/-- The target of REACH at a location. -/
def reachTarget (ps : List Int) (loc : Nat) : List (Nat × Int) := [(2, ps.getD (if locKind loc = 1 then 4 else 3) 0)]

/-- REACH to a location's reach position. -/
def State.pkReach (s : State) (m : Nat) (ps : List Int) (loc : Nat) : State := s.pkMove m (reachTarget ps loc)

/-- The sensor pins of a picker, as found. -/
def State.pkSense (s : State) (m : Nat) (slot disc jaw : Bool) : State :=
  ((s.wrB Reg.LIB_PK_SLOT_SNS m slot).wrB Reg.LIB_PK_DISC m disc).wrB Reg.LIB_PK_JAW_OPEN m jaw

/-! ### Records and locations -/

/-- LOC of a disc (R513, R805). A lost disc keeps the location of its home slot in the record. -/
def locOf (key : Nat) (d : Disc) : Nat :=
  match d.loc with
  | .home => key % 4096
  | .picker m => locPark m
  | .station n => locStation n
  | .other _ n => locStation n
  | .lost => key % 4096

/-- A disc with an open transfer record, R522. -/
def State.discMoving (s : State) (d : Nat) : Bool :=
  (s.lib.transfers.any fun t => t.disc == d && t.step != 0) || (s.lib.records.any fun t => t.disc == d)
    || mhas s.stack.lateLocs d || s.stack.farMoving.contains d

/-- The cell that a location belongs to. -/
def Disc.cellOf (d : Disc) (cell : Nat) : Nat := match d.loc with | .other c _ => c | _ => cell

/-- A disc's location changes. For a disc of another cell the home cell is told by CAT, now or when it can be reached
(R562, R563). -/
def State.setLoc (s : State) (d : Nat) (l : DiscLoc) : State :=
  let x := { s.disc d with loc := l }
  let s1 := s.putDisc d x
  let home := d / 4096
  if home = s.cell then s1
  else if s.reach home then s1.ringSend home 0x08 [4, d, locOf d x, x.cellOf s.cell, if s.discMoving d then 1 else 0]
  else { s1 with stack := { s1.stack with lateLocs := mput s1.stack.lateLocs d (locOf d x) } }

/-- A TRANSFER record (R803): STATE 1 OPEN, 2 IN_PICKER, 3 CLOSED. DESIGN CHOICE, assumption 82. -/
def State.transferRecord (s : State) (t : Transfer) (st : Nat) : State :=
  s.journal { words := [], type := 9,
              info := [t.disc / 4096, t.disc % 4096, t.src, t.srcCell, t.dst, t.dstCell, t.picker.getD 0, st] }

/-- A transfer is replaced, or removed. -/
def State.putTransfer (s : State) (t : Transfer) : State :=
  { s with lib := { s.lib with transfers := s.lib.transfers.map fun x => if x.id == t.id then t else x } }

def State.dropTransfer (s : State) (t : Transfer) : State :=
  { s with lib := { s.lib with transfers := s.lib.transfers.filter fun x => x.id != t.id } }

/-- The command of a transfer ends with LIBRARY_FAULT. -/
def State.failTransfer (s : State) (t : Transfer) : State :=
  match t.cmd with
  | some (q, g) => s.fail q g stLibraryFault
  | none => s

/-- A station named by an open transfer. DESIGN CHOICE, assumption 88. -/
def State.stationNamed (s : State) (cell n : Nat) : Bool :=
  (s.lib.transfers ++ s.lib.records).any fun t =>
    (t.dst == locStation n && t.dstCell == cell) || (t.src == locStation n && t.srcCell == cell)

/-- A transfer is asked for on behalf of a command: 0 MOUNT, 1 UNMOUNT, 2 MOVE. The entry of a location of another cell is asked
of that cell (R560). DESIGN CHOICE, assumption 91. -/
def State.askTransfer (s : State) (t : Transfer) : State :=
  let far := [(t.srcCell, t.src), (t.dstCell, t.dst)].filter fun p => p.1 != s.cell
  let t1 := { t with id := s.lib.nextId, since := s.now, locsDue := far.map fun p => locKey p.1 p.2 }
  let s1 : State := { s with lib := { s.lib with transfers := s.lib.transfers ++ [t1], nextId := s.lib.nextId + 1 } }
  far.foldl (fun u p => u.ringSend p.1 0x09 [7, p.2]) s1

/-- The cell that owns a location has given its table entry (R560). -/
def State.takeEntry (s : State) (cell loc e : Nat) : State :=
  let k := locKey cell loc
  { s with lib := { s.lib with farLocs := mput s.lib.farLocs k e,
                               transfers := s.lib.transfers.map fun t => { t with locsDue := t.locsDue.filter (· != k) } } }

/-! ### Stations -/

/-- A station may be loaded or unloaded (R519). -/
def State.stationFree (s : State) (n : Nat) : Bool :=
  s.spState n == spStopped && [2 * n, 2 * n + 1].all fun h =>
    (s.hd h == hdParked || s.hd h == hdOff) && s.flag Reg.MOT_AX_STATUS_REF h
      && s.axPos h == s.rdS Reg.MOT_SLED_PARK_PARK 0 && s.axState h != axMoving && s.axState h != axHoming

/-- The controller parks and homes as needed (R519). -/
def State.readyStation (s : State) (n : Nat) : State :=
  [2 * n, 2 * n + 1].foldl (fun t h =>
    if t.headUp h then t.parkHead h 1
    else if t.axState h = axMoving ∨ t.axState h = axHoming then t
    else if !t.flag Reg.MOT_AX_STATUS_REF h || t.axPos h != t.rdS Reg.MOT_SLED_PARK_PARK 0 then
      t.headMove h (t.rdS Reg.MOT_SLED_PARK_PARK 0)
    else t) (if s.turning n then s.spinTarget n 0 else s)

/-- A disc of the home cell of this cell's own stations: step 2 and 3 of a mount (R417). -/
def State.mountStart (s : State) (n : Nat) : State :=
  let s1 := s.spinTarget n 10000
  (s1.headMove (2 * n) s1.leadInPos).headMove (2 * n + 1) s1.leadInPos

/-! ### The library and its door (R514 to R517) -/

/-- The pickers home, REACH first (R507). -/
def State.homePickers (s : State) (ms : List Nat) : State :=
  ms.foldl (fun t m =>
    if t.doorOk && t.axState (pkAxis m 2) != axDisabled && t.axState (pkAxis m 2) != axFault then
      (t.wr Reg.LIB_PK_STATE m 1).homePicker (pkAxis m 2)
    else t) s

/-- LIBRARY_ENABLE: LIB_CTRL.EN set homes the pickers (R507, R531). -/
def execLibraryEnable (s : State) : Res := .next ((s.set1 Reg.LIB_CTRL_EN 0).homePickers [0, 1])

/-- DOOR_REQUEST_OPEN (R515). -/
def execDoorRequestOpen (s : State) : Res :=
  .next ({ s with lib := { s.lib with hold := true, opening := true, heldFrom := s.now } } : State).openDoor

/-- DOOR_REQUEST_LOCK, with DOOR_CLOSED as found (R516). DESIGN CHOICE, assumption 81. -/
def execDoorRequestLock (closed : Bool) (s : State) : Res :=
  let s1 := s.wrB Reg.LIB_STATUS_DOOR_CLOSED 0 closed
  if closed then
    .next (({ s1 with lib := { s1.lib with lockOut := true, opening := false } } : State).clr Reg.LIB_DOOR_OPEN_READY 0)
  else .next s1

/-- DOOR_LOCK_CONFIRMED: DOOR_LOCKED reads 1 (R516); a HELD picker with no disc is free again (R520); after R517 the pickers home, so
that their open records can be resolved (R525). -/
def execDoorLockConfirmed (s : State) : Res :=
  if !s.lib.lockOut then .next s
  else
    let s1 := (s.set1 Reg.LIB_STATUS_DOOR_LOCKED 0).set1 Reg.LIB_STATUS_INV_STALE 0
    let auto := s.flag Reg.LIB_CTRL_AUTO_INV 0
    let full := if auto && s1.lib.inv.isNone then some (0, s.rd Reg.LIB_CFG_SLOTS 0, none) else s1.lib.inv
    let s2 : State := { s1 with lib := { s1.lib with hold := false, forced := false, inv := full, invDue := auto } }
    let s3 := [0, 1].foldl (fun t m =>
      if t.rd Reg.LIB_PK_STATE m == 6 && !t.flag Reg.LIB_PK_DISC m then t.wr Reg.LIB_PK_STATE m 2 else t) s2
    let s4 := if s.lib.forced && s.flag Reg.LIB_CTRL_EN 0 then
      s3.homePickers ([0, 1].filter fun m => s3.rd Reg.LIB_PK_STATE m != 5 && s3.rd Reg.LIB_PK_STATE m != 6) else s3
    .next (s4.raise 0x0709 [1])

/-- DOOR_OPENED_UNEXPECTED: DOOR_CLOSED or DOOR_LOCKED falls while DOOR_LOCK is 1 (R517). -/
def execDoorOpenedUnexpected (closed : Bool) (s : State) : Res :=
  if !s.lib.lockOut then .next s
  else
    let s1 := if closed then s.clr Reg.LIB_STATUS_DOOR_LOCKED 0 else s.clr Reg.LIB_STATUS_DOOR_CLOSED 0
    let s2 := ((upTo 8).map (256 + ·)).foldl (fun t a => t.stopAxis a) s1
    let mine := s2.lib.transfers.filter fun t => t.step != 0
    let s3 := mine.foldl State.failTransfer s2
    let s4 : State := { s3 with lib := { s3.lib with transfers := s3.lib.transfers.filter (fun t => t.step == 0),
                                                     records := s3.lib.records ++ mine, hold := true, forced := true,
                                                     heldFrom := s.now } }
    .next ((s4.set1 Reg.LIB_STATUS_INV_STALE 0).raise 0x0709 [2])

/-- DOOR_WAIT_TIMEOUT: a held transfer has waited DOOR_WAIT_S (R515). -/
def execDoorWaitTimeout (sq tag : Nat) (s : State) : Res :=
  match s.lib.transfers.find? fun t => t.cmd == some (sq, tag) && t.step == 0 with
  | some t =>
    if s.lib.hold then
      let s1 := s.advanceTo (max t.since s.lib.heldFrom + s.rd Reg.LIB_CFG_DOOR_WAIT_S 0 * hz)
      .next ((s1.failTransfer t).dropTransfer t)
    else .next s
  | none => .next s

/-! ### Transfers (R518 to R523) -/

/-- The span of a transfer by a picker (R521). -/
def State.spanOf (s : State) (t : Transfer) (m : Nat) : Int × Int :=
  let a := s.axPos (pkAxis m 0)
  let b := locTravel (s.locEntry t.srcCell t.src)
  let c := locTravel (s.locEntry t.dstCell t.dst)
  let w : Int := s.rd Reg.LIB_SEP_MIN_SEP 0
  (min a (min b c) - w, max a (max b c) + w)

/-- A picker that takes no transfer: FAULT or HELD. -/
def State.pkBad (s : State) (m : Nat) : Bool := s.rd Reg.LIB_PK_STATE m == 5 || s.rd Reg.LIB_PK_STATE m == 6

/-- How a transfer stands to a picker: 0 it can start, 1 it must wait, 2 its span takes in a picker in FAULT or HELD. It waits while
the other picker lies in the span and cannot leave it: it is not idle, or its park position lies there too. DESIGN CHOICE, assumption
84. -/
def State.fit (s : State) (t : Transfer) (m : Nat) : Nat :=
  let o := 1 - m
  let sp := s.spanOf t m
  let pos := s.axPos (pkAxis o 0)
  let inside := sp.1 ≤ pos ∧ pos ≤ sp.2
  if s.pkBad m ∨ (s.pkBad o ∧ inside) then 2
  else if !(s.rd Reg.LIB_PK_STATE m == 2 || s.rd Reg.LIB_PK_STATE m == 4) || !s.pkReady m then 1
  else if s.lib.transfers.any fun x => x.picker == some o && !(x.hi < sp.1 || sp.2 < x.lo) then 1
  else if inside ∧ (!(s.rd Reg.LIB_PK_STATE o == 2 || s.rd Reg.LIB_PK_STATE o == 4) || !s.pkReady o
      || (sp.1 ≤ s.posn (5 + o) && s.posn (5 + o) ≤ sp.2)) then 1
  else 0

/-- Transfers may start: the library is enabled, no hold, no inventory due, no power failure, and not in KILN (R515, R516,
R526, R528). -/
def State.libRuns (s : State) : Bool :=
  s.flag Reg.LIB_CTRL_EN 0 && !s.lib.hold && !s.lib.invDue && s.doorOk && s.pw.pfAt.isNone && s.mode != mKiln
    && s.mode != mCinder

/-- TRANSFER_START: the first waiting transfer that a picker can serve reserves its span and its record is journalled
(R518 step 1, R521). A station to be unloaded must be at rest first (R519). -/
def execTransferStart (s : State) : Res :=
  if !s.libRuns then .next s
  else
    match s.lib.transfers.find? fun t =>
        t.step == 0 && t.locsDue.isEmpty && (s.fit t 0 != 1 || s.fit t 1 != 1) with
    | none => .next s
    | some t =>
      let m := if s.fit t 0 = 0 then 0 else 1
      if s.fit t m ≠ 0 then
        if s.fit t 0 = 2 ∧ s.fit t 1 = 2 then .next ((s.failTransfer t).dropTransfer t) else .next s
      else if locKind t.src = 1 ∧ t.srcCell = s.cell ∧ !s.stationFree (locIndex t.src) then
        .next (s.readyStation (locIndex t.src))
      else
        let o := 1 - m
        let sp := s.spanOf t m
        let pos := s.axPos (pkAxis o 0)
        let s1 := if sp.1 ≤ pos ∧ pos ≤ sp.2 then s.pkPark o else s
        let far := t.disc / 4096 ≠ s.cell && s.reach (t.disc / 4096)
        let t1 := s.captureTables { t with picker := some m, step := 2, lo := sp.1, hi := sp.2, ackDue := far }
        let s2 := (((s1.putTransfer t1).wr Reg.LIB_PK_STATE m 3).transferRecord t1 1).firstAction t.cmd
        .next (if t.disc / 4096 ≠ s.cell then s2.setLoc t.disc (s2.disc t.disc).loc else s2)

/-- A transfer is over: its span is released, its picker IDLE or HELD. -/
def State.endTransfer (s : State) (t : Transfer) (m pk : Nat) (closed : Bool) : State :=
  let s1 := if closed then (s.dropTransfer t).transferRecord t 3
    else { s.dropTransfer t with lib := { (s.dropTransfer t).lib with records := s.lib.records ++ [t] } }
  (s1.wr Reg.LIB_PK_STATE m pk).openDoor

/-- A disc moves its home to another slot of its cell (R523). -/
def State.rehome (s : State) (d slot : Nat) : State :=
  let d' := d / 4096 * 4096 + slot
  let x := s.disc d
  { s with discs := mput (mdel s.discs d) d' { x with loc := .home },
           zones := (s.zones.filter fun p => zoneDisc p.1 != d) ++
             (s.zones.filter fun p => zoneDisc p.1 == d).map fun p => (d' * 2048 + p.1 % 2048, p.2) }

/-- Where a disc stands that is at a location: in its home slot, or in a station. -/
def State.placeOf (s : State) (cell loc : Nat) : DiscLoc :=
  if locKind loc = 1 then (if cell = s.cell then .station (locIndex loc) else .other cell (locIndex loc)) else .home

/-- Step 9 is over: the disc is at its destination, and the command ends or the mount goes on. -/
def State.delivered (s : State) (t : Transfer) (m : Nat) : State :=
  let n := locIndex t.dst
  let s1 := s.endTransfer t m 2 true
  if t.back then s1.setLoc t.disc (s.placeOf t.dstCell t.dst)
  else
    let done := fun (u : State) => match t.cmd with | some (q, g) => u.fail q g stSuccess | none => u
    match t.kind with
    | 0 =>
      if t.dstCell = s.cell then (s1.setLoc t.disc (.station n)).mountStart n
      else (s1.setLoc t.disc (.other t.dstCell n)).ringSend t.dstCell 0x09 [2, t.disc, n]
    | 1 => done ((s1.setLoc t.disc .home).putDisc t.disc { (s1.setLoc t.disc .home).disc t.disc with mounted := false })
    | _ => done (s1.rehome t.disc n)

/-- A transfer fails at a step, with its event. DESIGN CHOICE, assumption 82. -/
def State.stepFail (s : State) (t : Transfer) (code : Nat) (data : List Nat) : State :=
  (s.failTransfer t).raise code data

/-- One step of a transfer in progress, with the pins of its picker as found at the end of it (R518). -/
def State.transferStep (s : State) (t : Transfer) (m : Nat) (slot disc jaw : Bool) : State :=
  let go := fun (u : State) (k : Nat) => u.putTransfer { t with step := k }
  let sense := fun (u : State) => u.pkSense m slot disc jaw
  let bit := fun (b : Bool) => if b then 1 else 0
  match t.step with
  | 2 => go (sense ((s.pkIn m t.posns).pkTo m t.posns t.srcE t.src)) 3
  | 3 =>
    if slot && !disc && jaw then go (sense s) 4
    else ((sense s).stepFail t 0x0708 [m, t.src, bit slot]).endTransfer t m 2 true
  | 4 =>
    let s1 := sense (((s.pkReach m t.posns t.src).set1 Reg.LIB_PK_GRIP m).advance (s.rd Reg.LIB_CFG_GRIP_MS 0 * msCycles))
    if disc && !jaw then go s1 5
    else (((s1.clr Reg.LIB_PK_GRIP m).pkIn m t.posns).stepFail t 0x0707 [m, 4, t.src]).endTransfer t m 2 true
  | 5 =>
    let s1 := sense (s.pkIn m t.posns)
    if disc then
      let far := t.disc / 4096 ≠ s.cell && s.reach (t.disc / 4096)
      ((s1.setLoc t.disc (.picker m)).transferRecord t 2).putTransfer { t with step := 6, ackDue := far }
    else
      let s2 := (s1.stepFail t 0x0707 [m, 5, t.src]).setLoc t.disc .lost
      (s2.raise 0x070A [t.disc / 4096, t.disc % 4096]).endTransfer t m 6 true
  | 6 =>
    if locKind t.dst = 1 ∧ t.dstCell = s.cell ∧ !s.stationFree (locIndex t.dst) then s.readyStation (locIndex t.dst)
    else go (sense (s.pkTo m t.posns t.dstE t.dst)) 7
  | 7 =>
    let s1 := sense s
    if !slot then go s1 8
    else
      let s2 := s1.raise 0x0708 [m, t.dst, 1]
      if t.back then s2.endTransfer t m 6 true
      else (s2.failTransfer t).putTransfer
        { t with step := 6, back := true, dst := t.src, dstCell := t.srcCell, dstE := t.srcE, cmd := none }
  | 8 =>
    let s1 := sense (((s.pkReach m t.posns t.dst).clr Reg.LIB_PK_GRIP m).advance (s.rd Reg.LIB_CFG_GRIP_MS 0 * msCycles))
    if jaw && !disc then go s1 9
    else ((s1.pkIn m t.posns).stepFail t 0x0707 [m, 8, t.dst]).endTransfer t m 6 false
  | _ => (sense (s.pkIn m t.posns)).delivered t m

/-- The moves of the next step of a transfer (R518). -/
def Transfer.moves (t : Transfer) : List (Nat × Int) :=
  match t.step with
  | 2 => inTarget t.posns ++ locTargets t.posns t.srcE
  | 4 => reachTarget t.posns t.src
  | 5 => inTarget t.posns
  | 6 => locTargets t.posns t.dstE
  | 8 => reachTarget t.posns t.dst
  | 9 => inTarget t.posns
  | _ => []

/-- TRANSFER_PROGRESS: the next step of the transfer that a picker runs. It waits for the door, for the axes and for an
acknowledgement of the home cell (R514, R562), and for limits and a profile that allow its moves (R494, R954). DESIGN CHOICE,
assumptions 79, 80 and 226. -/
def execTransferProgress (m : Fin 2) (slot disc jaw : Bool) (s : State) : Res :=
  match s.lib.transfers.find? fun t => t.picker == some m.val && t.step != 0 with
  | some t =>
    if s.pkReady m && !t.ackDue && s.pw.pfAt.isNone then
      match s.pkRefused m t.moves with
      | some (a, c) => .next (s.motErr a c)
      | none => .next (s.transferStep t m slot disc jaw)
    else .next s
  | none => .next s

/-- PICKER_DISC_FALL: PKm_DISC falls while the picker carries a disc (R518 step 5). -/
def execPickerDiscFall (m : Fin 2) (s : State) : Res :=
  let s0 := s.clr Reg.LIB_PK_DISC m
  match s.lib.transfers.find? fun t => t.picker == some m.val && (t.step == 5 || t.step == 6 || t.step == 7 || t.step == 8) with
  | some t =>
    let s1 := (s0.stepFail t 0x0707 [m, t.step, t.src]).setLoc t.disc .lost
    .next ((s1.raise 0x070A [t.disc / 4096, t.disc % 4096]).endTransfer t m 6 true)
  | none => .next s0

/-- TRANSFER_WAIT_TIMEOUT: a transfer has waited 10 s for its span (R521). -/
def execTransferWaitTimeout (sq tag : Nat) (s : State) : Res :=
  match s.lib.transfers.find? fun t => t.cmd == some (sq, tag) && t.step == 0 && !t.blocked with
  | some t =>
    let s1 := (s.advanceTo (t.since + 10 * hz)).putTransfer { t with blocked := true }
    let sp := s1.spanOf t 0
    .next (s1.raise 0x070C (0 :: (i1 sp.1 ++ i1 sp.2)))
  | none => .next s

/-- Commands naming a lost disc end with LIBRARY_FAULT (R525). DESIGN CHOICE, assumption 85. -/
def State.discLost (s : State) (d : Nat) : State :=
  ((s.setLoc d .lost).raise 0x070A [d / 4096, d % 4096]).failAll (fun c => c.disc == some d) stLibraryFault

/-- TRANSFER_RESOLVE: a homed picker resolves its open record from what is sensed: a disc in the jaws, at the source, at the
destination (R525). DESIGN CHOICE, assumption 80. -/
def execTransferResolve (m : Fin 2) (inJaws atSrc atDst : Bool) (s : State) : Res :=
  match s.lib.records.find? fun t => t.picker == some m.val with
  | none => .next s
  | some t =>
    if !(s.rd Reg.LIB_PK_STATE m == 2 || s.rd Reg.LIB_PK_STATE m == 4) then .next s
    else
      let s1 : State := { s with lib := { s.lib with records := s.lib.records.filter fun x => x.id != t.id } }
      let s2 := s1.wrB Reg.LIB_PK_DISC m inJaws
      let at_ := fun (u : State) (loc cell : Nat) =>
        if locKind loc ≠ 1 ∧ t.kind = 2 ∧ loc = t.dst then u.rehome t.disc (locIndex loc) else u.setLoc t.disc (u.placeOf cell loc)
      if inJaws then
        if atSrc then .next (((s2.wr Reg.LIB_PK_STATE m 6).raise 0x0708 [m, t.src, 1]).transferRecord t 3)
        else
          let t1 := s.captureTables { t with step := 6, back := true, dst := t.src, dstCell := t.srcCell, cmd := none }
          .next (({ s2 with lib := { s2.lib with transfers := s2.lib.transfers ++ [t1] } } : State).wr Reg.LIB_PK_STATE m 3)
      else if atSrc && !atDst then .next ((at_ s2 t.src t.srcCell).transferRecord t 3)
      else if atDst && !atSrc then .next ((at_ s2 t.dst t.dstCell).transferRecord t 3)
      else .next ((s2.discLost t.disc).transferRecord t 3)

/-! ### Inventory (R524) -/

/-- A disc is catalogued in a slot of this cell. -/
def State.catalogued (s : State) (slot : Nat) : Bool :=
  let d := s.disc (s.cell * 4096 + slot)
  d.known && d.loc == .home

/-- A slot under a transfer record is skipped. -/
def State.slotMoving (s : State) (slot : Nat) : Bool :=
  (s.lib.transfers ++ s.lib.records).any fun t => (t.src == slot && t.srcCell == s.cell) || (t.dst == slot && t.dstCell == s.cell)

/-- One slot scanned: its state and mismatch bits. DESIGN CHOICE, assumption 83. -/
def State.scanSlot (s : State) (slot : Nat) (present : Bool) : State :=
  let f := Reg.LIB_SLOT_STATE_BITS
  let g := Reg.LIB_SLOT_MIS_BITS
  let s1 := s.wr f (slot / 16) (setBits (s.rd f (slot / 16)) (2 * (slot % 16)) 2 (if present then 2 else 1))
  s1.wr g (slot / 32) (setBits (s1.rd g (slot / 32)) (slot % 32) 1 (if present == s.catalogued slot then 0 else 1))

/-- A picker goes past slots in order (R524), as far as its moves are not refused (R494, R954); the axis of a refused move is answered. -/
def State.scanWalk (m : Nat) : List Nat → State → State × Option (Nat × Nat)
  | [], s => (s, none)
  | x :: r, s =>
    let e := s.locEntry s.cell (locSlot x)
    match s.pkRefused m (locTargets s.posns e) with
    | some a => (s, some a)
    | none => State.scanWalk m r (s.pkTo m s.posns e (locSlot x))

/-- The picker that runs an inventory: one IDLE or PARKED whose axes may all move, picker 0 first. -/
def State.invPicker (s : State) : Option Nat :=
  [0, 1].find? fun m => (s.rd Reg.LIB_PK_STATE m == 2 || s.rd Reg.LIB_PK_STATE m == 4) && s.pkReady m

/-- INVENTORY_COMPLETE: a picker has gone past the slots of the scan in progress with its REACH at REACH_IN, its moves and dt cycles
more, with the readings of its slots in order (R524). An automatic scan that waited for it is then due (R516). DESIGN CHOICE,
assumptions 80 and 83. -/
def execInventoryComplete (dt : Nat) (present : List Bool) (s : State) : Res :=
  match s.lib.inv, s.invPicker with
  | some (first, cnt, cmd), some m =>
    let slots := (upTo cnt).map (first + ·)
    let scan := slots.filter fun x => !s.slotMoving x
    let read := fun (x : Nat) => present.getD (x - first) false
    let w := match s.pkRefused m (inTarget s.posns) with
      | some a => (s, some a)
      | none => State.scanWalk m scan (s.pkIn m s.posns)
    match w.2 with
    | some (a, c) => .next (s.motErr a c)
    | none =>
      if s.motionHeld then .next s
      else
        let s1 := scan.foldl (fun t x => t.scanSlot x (read x)) ((w.1.advance dt).wr Reg.LIB_PK_STATE m 2)
        let mis := (scan.filter fun x => read x != s.catalogued x).length
        let full := first == 0 && s.rd Reg.LIB_CFG_SLOTS 0 ≤ cnt
        let s2 := if full then s1.clr Reg.LIB_STATUS_INV_STALE 0 else s1
        let again := s.lib.invDue && cmd.isSome
        let next := if again then some (0, s.rd Reg.LIB_CFG_SLOTS 0, none) else none
        let s3 : State := { s2 with lib := { s2.lib with inv := next, invDue := again } }
        let s4 := s3.raise 0x070B [scan.length, mis]
        .next (match cmd with | some (q, g) => s4.finish q g stSuccess scan.length mis 0 | none => s4)
  | _, _ => .next s

end Sys2Proof.Machine
end

