-- ==== Sys2Proof/Machine/Settle.lean ====
section
/-!
DEFINITION. The data path apart from slices: where a user frame lies, what is delivered, dropped and unrecovered, and which
commands are complete (R28 to R37, R192, R269, R311 to R334, R653 to R664, R970).
-/

namespace Sys2Proof.Machine

/-! ### Places of frames -/

/-- The offset of user frame i in a zone whose slips are given in ascending order (R192). -/
def frameOffset (slips : List Nat) (i : Nat) : Nat := slips.foldl (fun o p => if p ≤ o then o + 1 else o) i

/-- The user-band slot at an offset of a zone (R190). -/
def zoneSlot (zk off : Nat) : Nat := 8320 * zoneNum zk + off

/-- The slot of user frame i of a zone. -/
def State.slotOf (s : State) (zk i : Nat) : Nat := zoneSlot zk (frameOffset (s.zone zk).slips i)

/-- The AADDR of a user frame, R21 and R22. DESIGN CHOICE, assumption 199. -/
def frameAaddr (zk i : Nat) : Nat := zoneDisc zk % 2 ^ 15 * 2 ^ 40 + zk % 2048 * 2 ^ 29 + i % 8192 * 2 ^ 16

/-- The disc of an AADDR: its home cell and slot. -/
def aaddrDisc (a : Nat) : Nat := bitsOf a 40 15

/-- The zone of an AADDR. -/
def aaddrZone (a : Nat) : Nat := aaddrDisc a * 2048 + bitsOf a 29 11

/-- A command's AADDR, bytes 16 to 23. -/
def Cmd.aaddr (c : Cmd) : Nat := c.get 16 8

/-- The head that writes a management record. -/
def State.mgmtHead (s : State) (m : Mgmt) : Option Nat :=
  match (s.disc m.disc).loc with
  | .station n => some (2 * n + m.side)
  | _ => none

/-- The head that serves a zone: its disc stands in a station of this cell. -/
def State.zoneHead (s : State) (zk : Nat) : Option Nat :=
  match (s.disc (zoneDisc zk)).loc with
  | .station n => some (2 * n + zoneSide zk)
  | _ => none

/-- The PFA of a user-band slot of a zone (R200). -/
def zonePfa (zk slot : Nat) : Nat := pfaOf slot (zoneLayer zk) (zoneSide zk) false

/-- No buffer yet. DESIGN CHOICE, assumption 60. -/
def noBuf : Nat := 2 ^ 32

/-! ### Frames held for writing -/

/-- A frame's buffer is done with: a copy command's buffer is freed (R701), any other stays with its owner. -/
def State.letBuf (s : State) (k : Nat) : State :=
  match mfind s.bufs k with
  | some b => if b.copyOf.isSome then (if s.bufHeld k then s else s.freeBuf k) else s.settleBuf k
  | none => s

/-- Held frames are let go. -/
def State.dropHeld (s : State) (p : Held → Bool) : State :=
  let gone := s.held.filter p
  gone.foldl (fun t h => t.letBuf h.buf) { s with held := s.held.filter fun h => !p h }

/-- A flush of a command covers a zone. DEDUCED, assumption 61. -/
def Cmd.flushes (c : Cmd) (zk : Nat) : Bool :=
  c.disc == some (zoneDisc zk) &&
    (if c.op == 0x13 then c.get 24 1 == 0 || aaddrZone c.aaddr == zk
     else if c.op == 0x14 then aaddrZone c.aaddr == zk
     else c.op == 0x15 || c.op == 0x21)

/-- A frame of a WRITE accepted before a flush of its zone has not met R37: that flush reports it (R657). -/
def State.flushMissed (s : State) (zk ord : Nat) : State :=
  { s with cmds := s.cmds.map fun c => if c.flushes zk && ord < c.ord then { c with mismatch := true } else c }

/-- The WRITE of a held frame, while it is in flight. -/
def State.writer (s : State) (h : Held) : Option Cmd := s.cmds.find? fun c => c.sq == h.sq && c.tag == h.tag && c.ord == h.ord

/-- The WRITE of a held frame has completed with SUCCESS. -/
def State.writeEnded (s : State) (h : Held) : Bool :=
  match s.writer h with
  | some c => c.phase == .fixed && c.status == stSuccess
  | none => true

/-- Frames of a zone from an INDEX on leave the slices: those not begun are gone; the slots of those begun are slipped
once their turn to be verified comes. DEDUCED, assumption 223. -/
def State.unqueue (s : State) (zk n : Nat) : State :=
  let hit := fun (e : Enc) => !e.mgmt && e.zone == zk && n ≤ e.index
  { s with slices := s.slices.map fun p =>
      (p.1, { p.2 with wstore := (p.2.wstore.filter fun e => !(hit e && e.sent == 0)).map fun e =>
                                   if hit e then { e with dropped := true } else e,
                       written := p.2.written.map fun e => if hit e then { e with dropped := true } else e }) }

/-- The accepted frontier of a zone falls back to an INDEX (R653, R970): frames at or beyond it are dropped; their WRITEs
in flight complete with WRITE_FRONTIER, and those that had completed are reported. -/
def State.fallBack (s : State) (zk n : Nat) : State :=
  let hit := fun (h : Held) => h.zone == zk && n ≤ h.index
  let gone := s.held.filter hit
  let lost := gone.filter s.writeEnded
  let s1 := gone.foldl (fun t h => t.flushMissed zk h.ord) s
  let s2 := gone.foldl (fun t h =>
    match t.writer h with
    | some c => if c.phase == .fixed then t else t.finish c.sq c.tag stWriteFrontier 0 0 0
    | none => t) s1
  let s3 := (s2.dropHeld hit).unqueue zk n
  let s4 := s3.putZone zk { s3.zone zk with acc := n }
  match lost with
  | [] => s4
  | h :: r => s4.raise 0x0909 (w2 (frameAaddr zk (r.foldl (fun a x => min a x.index) h.index)) ++ [lost.length])

/-- The least INDEX from a start that is not held. -/
def heldRun (l : List Held) (zk : Nat) : Nat → Nat → Nat
  | 0, i => i
  | n + 1, i => if l.any (fun h => h.zone == zk && h.index == i) then heldRun l zk n (i + 1) else i

/-- The WRITEs in flight for a zone end with a status; their frames are dropped, and the accepted frontier falls back to
FRAMES and the frames held without a gap behind it (R325, R653, R973). -/
def State.failZoneWrites (s : State) (zk status : Nat) : State :=
  let mine := s.held.filter fun h => h.zone == zk && !s.writeEnded h
  let s1 := mine.foldl (fun t h => (t.flushMissed zk h.ord).fail h.sq h.tag status) s
  let s2 := (s1.dropHeld fun h => mine.contains h)
  let s3 := mine.foldl (fun t h => { t with slices := t.slices.map fun p =>
    (p.1, { p.2 with wstore := p.2.wstore.filter fun e => !(!e.mgmt && e.zone == zk && e.index == h.index && e.sent == 0) }) }) s2
  s3.fallBack zk (heldRun s3.held zk 8192 (s3.zone zk).frames)

/-- An OPEN zone closes at its frontier though WRITEs for it are in flight: they end with ZONE_CLOSED (R233, R234). -/
def State.shutZone (s : State) (zk : Nat) : State :=
  let s1 := s.failZoneWrites zk stZoneClosed
  (s1.fallBack zk (s1.zone zk).frames).closeZone zk .closed

/-- A set of ZONE_STATE records of a side; when it would leave too few unused indices, every OPEN zone of the side is
closed with it (R229, R233). -/
def State.zoneState (s : State) (d side : Nat) : State :=
  let recs := max 1 (((s.listsDue d side).length + 187) / 188)
  let opens := s.openZones d side
  let s1 := if s.unusedIdx d side ≤ recs + opens.length + 8 then opens.foldl State.shutZone s else s
  s1.mgmtSet 6 d side 2

/-! ### Delivery of read frames -/

/-- The rung in force as the deepest of a command. -/
def Cmd.deepen (c : Cmd) (rung : Nat) : Cmd := { c with rungMax := max c.rungMax rung }

/-- One wanted frame of a command is changed. -/
def Cmd.setFrame (c : Cmd) (i : Nat) (f : FrameReq → FrameReq) : Cmd :=
  { c with frames := c.frames.mapIdx fun j x => if j = i then f x else x }

/-- The part of a frame that lies in a command's range: first byte in the range, first byte in the frame, length. -/
def Cmd.part (c : Cmd) (i : Nat) : Nat × Nat × Nat :=
  let off := c.aaddr % 65536
  let lo := if i = 0 then off else 0
  let hi := min 65536 (off + c.get 24 4 - i * 65536)
  (i * 65536 + lo - off, lo, hi - lo)

/-- A command takes its data in place. -/
def Cmd.inPlace (c : Cmd) : Bool := c.flagBit 4

/-- A frame of a command has its place: a copy READ of this cell needs a buffer for it first (R700). -/
def Cmd.placed (c : Cmd) (f : FrameReq) : Bool := c.op == 0x12 || c.inPlace || c.origin.isSome || f.buf != noBuf

/-- The counts of a frame that leaves the slice or the ladder for a command (R821): a frame read, and in place in this
cell the bytes of the range that lie in it. -/
def State.tapFrame (s : State) (c : Cmd) (i : Nat) : State :=
  let s1 := s.tap c.acct 0 1
  if c.op = 0x10 ∧ c.inPlace ∧ c.origin.isNone then s1.tap c.acct 2 (c.part i).2.2 else s1

/-- Bytes are placed for one frame of a READ: in its buffer, from which a copy READ's DMA starts (R709); or in a FRAME
message to the receiving cell (R554). VERIFY delivers no data (R330). -/
def State.placeFrame (s : State) (c : Cmd) (i slice : Nat) (bytes : List Nat) : State :=
  let f := c.frames.getD i { zone := 0, index := 0, slot := 0 }
  let mv := fun (b : Bool) (t : State) => t.updCmd c.sq c.tag fun x => x.setFrame i fun y => { y with moved := b }
  if c.op = 0x12 then mv true s
  else
    match c.origin with
    | some cell => mv true (s.ringSend cell 0x07 ([homeSq c.sq, c.tag, i, 0] ++ bytes))
    | none =>
      let s1 := s.ownWrite f.addr bytes
      if c.inPlace then mv true s1
      else
        let p := c.part i
        s1.queueMove c i slice f.buf (s1.bufOffset f.buf + p.2.1) p.1 p.2.2 true

/-- A frame has passed its CRC-64: it is delivered to every command that wants it and has a place for it (R33, R312,
R318). -/
def State.deliverFrame (s : State) (zk idx rung slice : Nat) (bytes : List Nat) : State :=
  s.cmds.foldl (fun t c =>
    if c.phase == .started && (c.op == 0x10 || c.op == 0x12) then
      (upTo c.frames.length).foldl (fun u i =>
        match c.frames[i]? with
        | some f =>
          if f.zone == zk && f.index == idx && (f.fate == .wanted || f.fate == .ladder) && c.placed f then
            let u1 := u.updCmd c.sq c.tag fun x => (x.setFrame i fun y => { y with fate := .delivered }).deepen rung
            match u1.cmd? c.sq c.tag with
            | some c1 => (u1.placeFrame c1 i slice bytes).tapFrame c1 i
            | none => u1
          else u
        | none => u) t
    else t) s

/-- A READ_DAMAGE entry (R332, R334); the log holds the latest 4,096. -/
def State.damageEntry (s : State) (slice : Nat) (d : Damage) : State :=
  let q := s.damageSeq + 1
  let s1 : State := { s with damageSeq := q, damage := (s.damage ++ [{ d with seq := q, time := s.time }]) }
  if 4096 < s1.damage.length then
    let old := s1.damage.headD d
    let s2 : State := { s1 with damage := s1.damage.drop 1 }
    if old.got then s2 else s2.raiseWin 0x040E 0 [slice, old.seq] false
  else s1

/-- One frame of a command is unrecovered (R311, R313, R315, R317): `regions` are the bytes to deliver with their mask of
unrecovered regions, where the command asks for partial data. -/
def State.frameBad (s : State) (c : Cmd) (i slice rung flags pfa : Nat) (regions : Option (List Nat × Nat)) : State :=
  let f := c.frames.getD i { zone := 0, index := 0, slot := 0 }
  let partly := c.op = 0x10 && bitOf c.prof 12 && regions.isSome
  let mask := if partly then (regions.getD ([], 0)).2 else 0xFFFF
  let s1 := s.updCmd c.sq c.tag fun x =>
    ((x.setFrame i fun y => { y with fate := .bad }).deepen rung) |> fun y =>
      { y with mismatch := y.mismatch || bitOf flags 1, partialData := y.partialData || partly,
               budgetOut := y.budgetOut || bitOf flags 2 }
  let s2 := match s1.cmd? c.sq c.tag with
    | some c1 =>
      if partly then (s1.placeFrame c1 i slice (regions.getD ([], 0)).1).tapFrame c1 i
      else
        let done := s1.updCmd c.sq c.tag fun x => x.setFrame i fun y => { y with moved := true }
        match c.origin with
        | some cell => done.ringSend cell 0x07 [homeSq c.sq, c.tag, i, 1]
        | none => if c.op = 0x10 && c.inPlace then done.zeroMem f.addr 65536 else done
    | none => s1
  let entry : Damage := { aaddr := frameAaddr f.zone f.index, sq := c.sq, tag := c.tag, mask := mask, rung := rung,
                          flags := flags + (if partly then 8 else 0), time := 0, pfa := pfa, seq := 0 }
  let s3 := s2.damageEntry slice entry
  s3.raise 0x040A [slice, pfa, rung, mask]

/-- MEDIA_RESULT of a command (R329). -/
def Cmd.mediaResult (c : Cmd) : Nat :=
  let bad := (upTo c.frames.length).find? fun i => (c.frames[i]?.map fun f => f.fate == .bad).getD false
  c.rungMax % 16 + (if c.partialData then 16 else 0) + (if c.budgetOut then 32 else 0) + (if c.mismatch then 64 else 0)
    + bad.getD 0 % 2 ^ 24 * 2 ^ 8

/-! ### Management records that commands ask for -/

/-- A disc is initialised before its first write (R222, R223): IDENTITY records on side A, then on side B; its DISC_ID is bound
(R808). The random half of DISC_ID is a free value. DESIGN CHOICE, assumptions 40 and 41. -/
def State.initDisc (s : State) (d : Nat) : State :=
  let x := s.disc d
  if x.a.identity && x.b.identity then s
  else
    let fresh := !x.a.identity && !x.b.identity
    let (r, s0) := if fresh then s.draw 32 else (0, s)
    let x1 := if fresh then { x with discId := s.tb.sec * 2 ^ 32 + (r % (2 ^ 32 - 1) + 1) } else x
    let s1 := s0.putDisc d x1
    let body := identityBody s.time Config.serial.toNat
    let s2 := if x.a.identity then s1 else s1.mgmtRecord d 0 1 body
    let s3 := if x.b.identity then s2 else s2.mgmtRecord d 1 1 body
    let y := s3.disc d
    let s4 := s3.putDisc d { y with a := { y.a with identity := true }, b := { y.b with identity := true } }
    if fresh then s4.journal { words := [], type := 8, info := [d / 4096, d % 4096, x1.discId, x1.owner] } else s4

/-- A catalogue snapshot of a disc is due (R805). -/
def State.snapshot (s : State) (d : Nat) (clean : Bool) : State :=
  s.journal { words := [], type := 7, info := [d / 4096, d % 4096, if clean then 1 else 0] }

/-- A side is finalised: its OPEN zones close and the FINALISE record is due (R234). -/
def State.finalise (s : State) (d side : Nat) : State :=
  let s1 := (s.openZones d side).foldl State.shutZone s
  let s2 := s1.mgmtSet 6 d side 3
  let x := s2.disc d
  s2.putDisc d (x.setSide side { x.side side with finalised := true })

/-- Management frames of a disc still to be written. -/
def State.mgmtDue (s : State) (d : Nat) : Bool := s.mgmtQ.any fun m => m.disc == d

/-! ### Completion -/

/-- Every WRITE that a flush covers has settled (R657). -/
def State.flushed (s : State) (c : Cmd) : Bool :=
  !(s.held.any fun h => c.flushes h.zone && h.ord < c.ord && h.stage != .stopped)

/-- Zones a flush covers whose verified frames no pointer in flash covers. -/
def State.unjournalled (s : State) (c : Cmd) : List Nat :=
  (s.zones.filter fun p => c.flushes p.1 && p.2.jframes < p.2.frames).map Prod.fst

/-- The pointers of those zones become due, once. -/
def State.flushPointers (s : State) (c : Cmd) : State :=
  (s.unjournalled c).foldl (fun t k => if (t.zone k).jdue < (t.zone k).frames then t.journalZone k else t) s

/-- A command moves to its next stage. -/
def State.setStage (s : State) (c : Cmd) (k : Nat) : State := s.updCmd c.sq c.tag fun x => { x with stage := k }

/-- A READ or VERIFY whose frames have all met their end completes (R311, R329); an aborted one once what it had delivered
has moved (R678). Stage 9: the serving cell has reported the outcome, and data still moves here (R554). -/
def State.settleRead (s : State) (c : Cmd) : State :=
  if c.stage = 9 then
    if c.frames.all fun f => f.fate == .wanted || f.moved then s.finish c.sq c.tag c.status c.resA c.resB 0 else s
  else if c.aborting then (if c.frames.all fun f => f.moved then s.fail c.sq c.tag stAborted else s)
  else if c.frames.all fun f => (f.fate == .delivered || f.fate == .bad) && f.moved then
    let resB := if c.op = 0x10 && c.inPlace then ((c.frames.headD { zone := 0, index := 0, slot := 0 }).addr - hdmBase) / 4096 else 0
    s.finish c.sq c.tag (if c.frames.any fun f => f.fate == .bad then stMediaUnrecovered else stSuccess) c.mediaResult resB 0
  else s

/-- The data of a held frame cannot be had (R723, R748): that frame and every later one of its WRITE are dropped; those before
it are written once their data is held, and then the WRITE ends with the status. Where the WRITE has completed already, the
accepted frontier falls back at once (R970). -/
def State.writeBroken (s : State) (h : Held) (status : Nat) : State :=
  match s.writer h with
  | none => s.fallBack h.zone h.index
  | some c =>
    if c.phase == .fixed then s.fallBack h.zone h.index
    else
      let i := h.index - bitsOf c.aaddr 16 13
      let s1 := s.updCmd c.sq c.tag fun x =>
        if x.stage = 8 ∧ x.done ≤ i then x else { x with stage := 8, done := i, status := status }
      (s1.dropHeld fun f => f.sq == h.sq && f.tag == h.tag && f.ord == h.ord && h.index ≤ f.index).unqueue h.zone h.index

/-- A WRITE completes when its data is held, or with FUA when every frame is verified and its pointer journalled (R36,
R37). Stage 8: a frame's data could not be had. -/
def State.settleWrite (s : State) (c : Cmd) : State :=
  let n := c.get 24 4 / 65536
  let mine := s.held.filter fun h => h.sq == c.sq && h.tag == c.tag && h.ord == c.ord
  let last := bitsOf c.aaddr 16 13 + n
  if c.stage = 8 then
    if mine.all fun h => h.present then
      (s.finish c.sq c.tag c.status c.done 0 0).fallBack (aaddrZone c.aaddr) (bitsOf c.aaddr 16 13 + c.done)
    else s
  else if c.flagBit 0 then
    if !mine.isEmpty then s
    else
      let zk := aaddrZone c.aaddr
      let s1 := if (s.zone zk).jdue < last then s.journalZone zk else s
      if last ≤ (s1.zone zk).jframes then s1.finish c.sq c.tag stSuccess n 0 0 else s1
  else if mine.all fun h => h.present then s.finish c.sq c.tag stSuccess n 0 0
  else s

/-- FLUSH (R657). DEDUCED, assumption 61. -/
def State.settleFlush (s : State) (c : Cmd) : State :=
  if !s.flushed c then s
  else
    let s1 := s.flushPointers c
    if (s1.unjournalled c).isEmpty then
      let stopped := s1.held.any fun h => c.flushes h.zone && h.ord < c.ord
      s1.fail c.sq c.tag (if c.mismatch || stopped then stMediaUnrecovered else stSuccess)
    else s1

/-- ZONE_CLOSE (R658): flush, close, and the record on the disc. -/
def State.settleClose (s : State) (c : Cmd) : State :=
  let zk := aaddrZone c.aaddr
  let d := zoneDisc zk
  if c.stage = 0 then
    if s.flushed c && !(s.zone zk).resolve then
      let s1 := (s.initDisc d).closeZone zk .closed
      ((s1.zoneState d (zoneSide zk)).snapshot d false).setStage c 1
    else s
  else if s.mgmtDue d then s
  else s.finish c.sq c.tag stSuccess (s.zone zk).frames (s.zone zk).slips.length 0

/-- Zones of a disc wait for their frontier search (R809). -/
def State.searchDue (s : State) (d : Nat) : Bool := s.zones.any fun p => zoneDisc p.1 == d && p.2.resolve

/-- DISC_FINALIZE (R234, R237, R659). -/
def State.settleFinalise (s : State) (c : Cmd) : State :=
  match c.disc with
  | none => s
  | some d =>
    if c.stage = 0 then
      if s.flushed c && !s.searchDue d then
        let s1 := s.initDisc d
        ((if (s1.disc d).a.finalised then s1 else s1.finalise d 0).setStage c 1)
      else s
    else if s.mgmtDue d then s
    else if c.stage = 1 ∧ !(s.disc d).b.finalised then (s.finalise d 1).setStage c 2
    else (s.snapshot d false).fail c.sq c.tag stSuccess

/-- The zones of a side have changes that no record holds. -/
def State.sideChanged (s : State) (d side : Nat) : Bool :=
  s.zones.any fun p => zoneDisc p.1 == d && zoneSide p.1 == side && p.2.changed

/-- A disc that the master takes from a station of this cell is no longer served here; of one homed in another cell nothing more
is known. DESIGN CHOICE, assumption 102. -/
def State.dropGuest (s : State) (d : Nat) : State :=
  let s1 : State := { s with lib := { s.lib with guests := s.lib.guests.filter fun x => x != d } }
  if d / 4096 = s.cell then s1.putDisc d { s1.disc d with mounted := false }
  else { s1 with discs := mdel s1.discs d, zones := s1.zones.filter fun p => zoneDisc p.1 != d }

/-- Work on a disc that an UNMOUNT waits for: commands on its data that have started or are about to, and frames held for writing by
those or by WRITEs that have completed (R32, R664). DESIGN CHOICE, assumption 210. -/
def State.discBusy (s : State) (d : Nat) : Bool :=
  let begun := fun (x : Cmd) => x.phase == .started || (x.phase == .waiting && x.launched)
  (s.cmds.any fun x => begun x && x.disc == some d && (decide (0x10 ≤ x.op) && decide (x.op ≤ 0x15)))
    || (s.held.any fun h => h.disc == d && h.stage != .stopped && (match s.writer h with | some x => x.phase != .waiting | none => true))

/-- Records may be written on a side: it has its IDENTITY and is not finalised (R223, R235). -/
def DiscSide.writable (x : DiscSide) : Bool := x.identity && !x.finalised

/-- UNMOUNT (R229, R664, R805): flush, records, heads parked, spindle stopped, and the transfer home. -/
def State.settleUnmount (s : State) (c : Cmd) : State :=
  match c.disc, c.stn with
  | some d, some n =>
    let bad := !s.active n || s.spState n == spFault || s.hd (2 * n) == hdFault || s.hd (2 * n + 1) == hdFault
    if c.stage < 3 ∧ bad then s.fail c.sq c.tag stStationFault
    else if c.stage = 0 then
      if s.flushed c && !s.discBusy d then
        let s1 := [0, 1].foldl (fun t i => if t.sideChanged d i && ((t.disc d).side i).writable then t.zoneState d i else t) s
        s1.setStage c 1
      else s
    else if c.stage = 1 then
      if s.mgmtDue d then s
      else
        let s1 := ((s.snapshot d true).parkHead (2 * n) 1).parkHead (2 * n + 1) 1
        (if s1.bothDown n then s1.spinTarget n 0 else s1).setStage c 2
    else if c.stage = 2 then
      if s.stationFree n then
        if !s.flag Reg.CASC_STATUS_SHARED 0 ∨ s.cell = 0 then
          (s.askTransfer { id := 0, cmd := some (c.sq, c.tag), disc := d, src := locStation n, srcCell := s.cell,
                           dst := locSlot (d % 4096), dstCell := d / 4096, kind := 1 }).setStage c 3
        else
          (({ s with cmds := s.cmds.filter fun x => x.ord != c.ord } : State).dropGuest d).ringSend 0 0x09 [5, d, n]
      else s
    else s
  | _, _ => s

/-- An ABORT waits for its target's end (R676, R679). `done` holds the target's fetch number. DESIGN CHOICE, assumption 130. -/
def State.settleAbort (s : State) (c : Cmd) : State :=
  match s.cmds.find? fun x => x.ord == c.done && x.origin.isNone with
  | some x =>
    if x.phase != .fixed then s
    else s.fail c.sq c.tag (if x.status = stAborted then stSuccess else stAbortNotFound)
  | none => s.fail c.sq c.tag stSuccess

/-- One command is looked at: it completes or moves on when what it waits for has come. -/
def State.settleCmd (s : State) (sq tag : Nat) : State :=
  match s.cmd? sq tag with
  | none => s
  | some c =>
    if c.phase != .started || c.away.isSome then s
    else
      match c.op with
      | 0x10 => s.settleRead c
      | 0x12 => s.settleRead c
      | 0x11 => s.settleWrite c
      | 0x13 => s.settleFlush c
      | 0x14 => s.settleClose c
      | 0x15 => s.settleFinalise c
      | 0x21 => s.settleUnmount c
      | 0x08 => s.settleAbort c
      | _ => s

/-! ### Slices at rest -/

/-- A command works on a head: it reads, writes, verifies, flushes, closes or finalises there. -/
def State.onHead (s : State) (c : Cmd) (h : Nat) : Bool :=
  let zk := aaddrZone c.aaddr
  let whole := c.op == 0x15 || (c.op == 0x13 && c.get 24 1 == 0)
  decide (0x10 ≤ c.op) && decide (c.op ≤ 0x15) && c.away.isNone
    && (s.zoneHead zk == some h || (whole && (s.zoneHead zk).map (· / 2) == some (h / 2))
        || c.frames.any fun f => s.zoneHead f.zone == some h)

/-- Work of a head for its slice (R240): commands in flight, from their fetch until their completion entries are written (R638),
frames held to be written, records of its side, and an OPC in progress. -/
def State.headWork (s : State) (h : Nat) : Bool :=
  (s.cmds.any fun c => s.onHead c h)
    || (s.held.any fun x => x.stage != .stopped && s.zoneHead x.zone == some h)
    || (s.mgmtQ.any fun m => s.mgmtHead m == some h)
    || (match (s.head h).op with | some r => r.kind == 5 | none => false)

/-- A slice is busy: its head has work, frames await verify or encoded frames wait (R240). -/
def State.sliceBusy (s : State) (sl : Nat) : Bool :=
  let x := s.slice sl
  match x.head with
  | some h => s.headWork h || !x.wstore.isEmpty || !x.written.isEmpty || (s.ladders.any fun l => l.slice == sl)
  | none => false

/-- Frames decoded for copy reads and not yet moved to host memory, on a head (R275). -/
def State.backlog (s : State) (h : Nat) : Nat :=
  (s.cmds.filter fun c => c.op == 0x10 && !c.inPlace && c.phase == .started).foldl (fun a c =>
    a + (c.frames.filter fun f => f.fate == .delivered && !f.moved && s.zoneHead f.zone == some h).length) 0

/-- A slice is released (R240, R243): the pointer of the zone it leaves becomes due (R802), its adapted coefficients are
discarded, and what ACTIVE then holds is free; runs of calibration on its head are abandoned (R903, R907). DESIGN CHOICE,
assumptions 48 and 49. -/
def State.releaseSlice (s : State) (sl : Nat) : State :=
  let x := s.slice sl
  match x.head with
  | none => s
  | some h =>
    let s0 := match x.zoneNow with
      | some zk => if (s.zone zk).jdue < (s.zone zk).frames then s.journalZone zk else s
      | none => s
    let s1 := (s0.abandonHeadCal h).putSlice sl {}
    let s2 := (eqSet sl 0).foldl (fun t i => let (v, t1) := t.draw 12; t1.wr Reg.SLC_EQ_SET_COEF i v) s1
    let s3 := [Reg.SLC_ASSIGN_ASSIGNED, Reg.SLC_ASSIGN_MODE, Reg.SLC_ASSIGN_HEAD, Reg.SLC_ASSIGN_STATION,
      Reg.SLC_STATUS_STATE, Reg.SLC_STATUS_ENC_READY, Reg.SLC_STATUS_VFY_PENDING, Reg.SLC_STATUS_BLANK,
      Reg.SLC_RATE_STATUS_HOLDING, Reg.SLC_RATE_STATUS_PAUSED, Reg.SLC_RATE_STATUS_BACKLOG, Reg.SLC_CTRL_RELEASE,
      Reg.SLC_EQ_CTRL_COMMIT, Reg.SLC_EQ_CTRL_COMMIT_PENDING].foldl (fun t f => t.clr f sl) s2
    s3.showSp (h / 2)

/-- The counts a slice shows, and since when it is idle; a release asked for by RELEASE takes effect at the first idle
moment (R240). -/
def State.showSlice (s : State) (sl : Nat) : State :=
  let x := s.slice sl
  let b := s.sliceBusy sl
  let wr := s.rd Reg.SLC_ASSIGN_MODE sl == 2
  let bl := match x.head with
    | some h => if wr then x.wstore.length else s.backlog h
    | none => 0
  let s1 := (s.wr Reg.SLC_STATUS_ENC_READY sl x.wstore.length).wr Reg.SLC_STATUS_VFY_PENDING sl
    ((x.written.filter fun e => !e.dropped).length)
  let s2 := s1.wr Reg.SLC_RATE_STATUS_BACKLOG sl (min 255 bl)
  let s3 := s2.putSlice sl { x with busy := b, idleFrom := if x.busy && !b then s.now else x.idleFrom }
  if b then s3
  else if s.flag Reg.SLC_CTRL_RELEASE sl then s3.releaseSlice sl
  else (s3.wr Reg.SLC_STATUS_STATE sl 1).clr Reg.SLC_RATE_STATUS_HOLDING sl

/-- A mounted disc that is finalised on side A only: side B is initialised if need be, and finalised (R223, R237). DESIGN CHOICE,
assumption 44. -/
def State.finishSides (s : State) : State :=
  s.discs.foldl (fun t p =>
    let x := t.disc p.1
    if x.mounted && x.a.finalised && !x.b.finalised && !t.mgmtDue p.1 && !t.searchDue p.1 then
      (if x.b.identity then t.finalise p.1 1 else t.initDisc p.1)
    else t) s

/-- Everything that may have become complete is completed, and heads with records to write ask for slices. -/
def State.settle (s : State) : State :=
  let s1 := (s.cmds.foldl (fun t c => t.settleCmd c.sq c.tag) s).settleAll.finishSides
  let s2 := s1.mgmtQ.foldl (fun t m => match t.mgmtHead m with | some h => t.wantSlice h true | none => t) s1
  (s2.slices.filter fun p => p.2.head.isSome).foldl (fun t p => t.showSlice p.1) s2

end Sys2Proof.Machine
end

