-- ==== Sys2Proof/Machine/Slices.lean ====
section
/-!
DEFINITION. The commands of the slices: assignment and release, the equaliser sets, received samples and the frame store,
encoding, the write stream, inline verify, rate matching, the frontier search (R126 to R138, R238 to R279, R322 to R326,
R809, R970, R973).
-/

namespace Sys2Proof.Machine

/-! ### Slice states and the DRAM budget (R238 to R243, R279) -/

def slFree : Nat := 0
def slIdle : Nat := 1
def slReading : Nat := 2
def slPaused : Nat := 3
def slWriting : Nat := 4
def slHolding : Nat := 5

/-- MODE of a slice: 0 none, 1 read, 2 write. -/
def State.slMode (s : State) (sl : Nat) : Nat := s.rd Reg.SLC_ASSIGN_MODE sl

/-- The state a slice shows. -/
def State.setSl (s : State) (sl st : Nat) : State := s.wr Reg.SLC_STATUS_STATE sl st

/-- The load of a slice mode in MB/s (R242). -/
def modeLoad (mode : Nat) : Nat := if mode = 2 then 350 else 1300

/-- The sum of the loads of all assigned slices, one of them counted in another mode. -/
def State.dramLoad (s : State) (but mode : Nat) : Nat :=
  (s.slices.filter fun p => p.2.head.isSome && p.1 != but).foldl (fun a p => a + modeLoad (s.slMode p.1)) (modeLoad mode)

/-- Ten times the sum of peak bandwidths of the fitted channels, times 0.70, in MB/s. -/
def State.dramLimit10 (s : State) : Nat :=
  7 * ((upTo 4).filter fun c => s.flag Reg.MEMC_CHAN_FITTED c).foldl (fun a c => a + s.rd Reg.MEMC_CHAN_RATE c * 100 * 8) 0

/-- The memory budget admits a slice in a mode. -/
def State.dramOk (s : State) (sl mode : Nat) : Bool := 10 * s.dramLoad sl mode ≤ s.dramLimit10

/-- The slice the allocator gives next: the lowest-numbered free one with AVAIL 1 that the power cap and the memory
budget allow. -/
def State.freeSlice (s : State) (mode : Nat) : Option Nat :=
  (upTo 96).find? fun sl => (s.slice sl).head.isNone && s.flag Reg.SLC_CTRL_AVAIL sl
    && s.capAdmits (s.rd Reg.PWR_WEIGHT_SLICE_W 0) && s.dramOk sl mode

/-- SLICE_ASSIGN: the head that has waited longest receives a slice (R239), with the head's SLC_OFS, starting equaliser set and
alignment (R243, R260, R910). -/
def execSliceAssign (n : Fin 128) (side : Fin 2) (s : State) : Res :=
  let h := headOf n side
  match s.headWait with
  | [] => .next s
  | w :: rest =>
    if w.head ≠ h then .next s
    else
      let mode := if w.write then 2 else 1
      match s.freeSlice mode with
      | none => .next s
      | some sl =>
        let s1 := ({ s with headWait := rest } : State).putSlice sl { head := some h, rateAt := s.now, idleFrom := s.now, busy := true }
        let s2 := (((s1.set1 Reg.SLC_ASSIGN_ASSIGNED sl).wr Reg.SLC_ASSIGN_MODE sl mode).wr Reg.SLC_ASSIGN_HEAD sl side).wr
          Reg.SLC_ASSIGN_STATION sl n
        let s3 := ((s2.loadOfs sl h).loadEq sl h (s2.layerOf h)).loadAlign sl
        .next ((((s3.setSl sl slIdle).admitted (s.rd Reg.PWR_WEIGHT_SLICE_W 0)).showSp n).showSlice sl)

/-- SLICE_WAIT: a head has waited more than 100 ms (R241). -/
def execSliceWait (n : Fin 128) (side : Fin 2) (s : State) : Res :=
  let h := headOf n side
  match s.headWait.find? fun w => w.head == h && !w.raised with
  | none => .next s
  | some w =>
    let s1 := s.advanceTo (w.since + 100 * msCycles)
    let s2 : State := { s1 with headWait := s1.headWait.map fun x => if x.head == h then { x with raised := true } else x }
    .next (s2.raise 0x0406 [0xFFFFFFFF, n, side])

/-- SLICE_RELEASE: idle for HOLD_MS, or for 1 ms where another head waits and HOLD_MS is longer (R240). -/
def execSliceRelease (sl : Fin 96) (s : State) : Res :=
  let x := s.slice sl
  if x.head.isNone ∨ s.sliceBusy sl then .next s
  else
    let hold := s.rd Reg.SLC_CTRL_HOLD_MS sl
    let ms := if s.headWait.isEmpty then hold else min hold 1
    .next ((s.advanceTo (x.idleFrom + ms * msCycles)).releaseSlice sl)

/-- SLICE_RELEASE_REQUEST: a write of 1 to RELEASE (R240). -/
def execSliceReleaseRequest (sl : Fin 96) (s : State) : Res :=
  if (s.slice sl).head.isNone then .next s else .next ((s.set1 Reg.SLC_CTRL_RELEASE sl).showSlice sl)

/-- SLICE_STAT_CLEAR: every SLC_STAT counter is cleared (R279). -/
def execSliceStatClear (sl : Fin 96) (s : State) : Res :=
  .next ((upTo 13).foldl (fun t i => t.clr Reg.SLC_STAT_COUNT (sl * 13 + i)) s)

/-- A head has frames to write: held frames, or management frames of its side. -/
def State.writeWork (s : State) (h : Nat) : Bool :=
  (s.held.any fun x => x.stage != .stopped && s.zoneHead x.zone == some h)
    || (s.mgmtQ.any fun m => s.mgmtHead m == some h)

/-- A head has frames to read. -/
def State.readWork (s : State) (h : Nat) : Bool :=
  (s.cmds.any fun c => c.phase == .started && (c.op == 0x10 || c.op == 0x12)
    && c.frames.any fun f => (f.fate == .wanted || f.fate == .ladder) && s.zoneHead f.zone == some h)

/-- A slice is between frames: no frame in progress under either spot and none awaiting verify (R243). -/
def Slice.atRest (x : Slice) : Bool := x.store.isEmpty && x.written.isEmpty && !(x.wstore.any fun e => e.sent != 0)

/-- A slice stands at a slot boundary: the last samples touched one, or none have come yet (R243). DESIGN CHOICE, assumption 222. -/
def Slice.atEdge (x : Slice) : Bool := x.edge || x.lastTrail.isNone

/-- SLICE_MODE_CHANGE: at a slot boundary to the other mode, where its head has work of that kind; a change to read mode waits for
the memory budget (R243). DESIGN CHOICE, assumption 62. -/
def execSliceModeChange (sl : Fin 96) (s : State) : Res :=
  let x := s.slice sl
  match x.head with
  | none => .next s
  | some h =>
    let s := s.putSlice sl { x with pass := .off }
    if !x.atRest ∨ !x.atEdge then .next s
    else if s.slMode sl = 1 ∧ s.writeWork h then
      .next ((((s.wr Reg.SLC_ASSIGN_MODE sl 2).clr Reg.SLC_RATE_STATUS_PAUSED sl).setSl sl slIdle).showSlice sl)
    else if s.slMode sl = 2 ∧ s.readWork h ∧ s.dramOk sl 1 then
      .next ((((s.wr Reg.SLC_ASSIGN_MODE sl 1).clr Reg.SLC_RATE_STATUS_HOLDING sl).setSl sl slIdle).showSlice sl)
    else .next s

/-! ### Equaliser sets (R253, R254) -/

/-- EQ_COMMIT: a commit is asked for (R253). -/
def execEqCommit (sl : Fin 96) (s : State) : Res :=
  .next ((s.set1 Reg.SLC_EQ_CTRL_COMMIT sl).set1 Reg.SLC_EQ_CTRL_COMMIT_PENDING sl)

/-- EQ_COMMIT_COPY: at a row boundary of the lead spot SHADOW replaces ACTIVE whole (R253); frames are counted anew for
the trim run (R905). While an alternate set is in use for a re-read the copy goes to the set put aside (R301). -/
def execEqCommitCopy (sl : Fin 96) (s : State) : Res :=
  if !s.flag Reg.SLC_EQ_CTRL_COMMIT_PENDING sl then .next s
  else
    let v := s.eqGet sl 1
    let x := s.slice sl
    let s1 := if x.saved.isEmpty then s.eqPut sl 0 v else s
    let s2 := s1.putSlice sl { x with trimFrames := 0, saved := if x.saved.isEmpty then [] else v }
    .next ((s2.clr Reg.SLC_EQ_CTRL_COMMIT sl).clr Reg.SLC_EQ_CTRL_COMMIT_PENDING sl)

/-- EQ_SHADOW_WRITE: discarded while a commit is pending (R254); taps that do not exist keep nothing. -/
def execEqShadowWrite (sl : Fin 96) (f : Fin 4) (t : Fin 16) (v : BitVec 12) (s : State) : Res :=
  if s.flag Reg.SLC_EQ_CTRL_COMMIT_PENDING sl then .next ((s.set1 Reg.SLC_EQ_CTRL_WR_DROP sl).raise 0x0409 [sl])
  else if t.val < eqTaps f then .next (s.wr Reg.SLC_EQ_SET_COEF (((sl * 6 + 1) * 4 + f) * 16 + t) v.toNat)
  else .next s

/-! ### Samples (R126 to R130, R244 to R263) -/

/-- A 6-bit sample. -/
def sampleAt (blk j : Nat) : Int := signed 6 (bitsOf blk (6 * j) 6)

/-- The sample pairs of a SAMPLES message, earliest first (R128). A block whose NPAIR is 6 to 15 gives five. DESIGN CHOICE, assumption
214. -/
def samplePairs (blocks : List Nat) : List (Int × Int) :=
  blocks.flatMap fun b => (upTo (min 5 (bitsOf b 60 4))).map fun p => (sampleAt b (2 * p), sampleAt b (2 * p + 1))

/-- The correction of R245, in quarter units: (x − OFS) × GAIN, saturated to ±31.75. -/
def State.correct (s : State) (sl : Nat) (trail : Bool) (x : Int) : Int × State :=
  let ofs := s.rdS (if trail then Reg.SLC_OFS_TRAIL_OFS else Reg.SLC_OFS_LEAD_OFS) sl
  let gain : Int := s.rd (if trail then Reg.SLC_OFS_TRAIL_GAIN else Reg.SLC_OFS_LEAD_GAIN) sl
  let (y, s1) := s.kept ((4 * x - ofs) * gain) 128
  (clampInt (-127) 127 y, s1)

/-- The corrected pairs of a message, in order. -/
def State.correctAll (s : State) (sl : Nat) (ps : List (Int × Int)) : List (Int × Int) × State :=
  ps.foldl (fun a p =>
    let (l, s1) := a.2.correct sl false p.1
    let (t, s2) := s1.correct sl true p.2
    (a.1 ++ [(l, t)], s2)) ([], s)

/-! ### Equaliser (R251, R252) -/

/-- A coefficient of the ACTIVE set. -/
def State.eqCoef (s : State) (sl f t : Nat) : Int := s.rdS Reg.SLC_EQ_SET_COEF (((sl * 6) * 4 + f) * 16 + t)

/-- The taps before the middle one of a filter. -/
def eqHalf (f : Nat) : Int := if f = 0 ∨ f = 3 then 7 else 3

/-- Σ h[t] x[n + half − t] over the taps of a filter, in units of 1/4,096 of the output (R251). DESIGN CHOICE, assumption 46. -/
def State.eqSum (s : State) (sl f : Nat) (x : Int → Int) (n : Int) : Int :=
  (upTo (eqTaps f)).foldl (fun a (t : Nat) => a + s.eqCoef sl f t * x (n + eqHalf f - t)) 0

/-- A spot's sample at a pair; one that was lost, or outside the run, counts as 0. DESIGN CHOICE, assumption 46. -/
def xAt (xs : Array (Option Int × Option Int)) (trail : Bool) (i : Int) : Int :=
  if i < 0 then 0
  else let p := xs.getD i.toNat (none, none); (if trail then p.2 else p.1).getD 0

/-- The equaliser outputs of both spots for pair n (R251). -/
def State.eqPair (s : State) (sl : Nat) (xs : Array (Option Int × Option Int)) (n : Nat) : (Int × Int) × State :=
  let (yl, s1) := s.kept (s.eqSum sl 0 (xAt xs false) n + s.eqSum sl 1 (xAt xs true) n) 4096
  let (yt, s2) := s1.kept (s.eqSum sl 3 (xAt xs true) n + s.eqSum sl 2 (xAt xs false) n) 4096
  ((sat 10 yl, sat 10 yt), s2)

/-- The outputs of a slice's run are formed up to a number of pairs. -/
def State.formOut (s : State) (sl n : Nat) : State :=
  let t := (s.slice sl).trace
  let xs := t.xs.toArray
  let (ys, s1) := (upTo (n - t.ys.length)).foldl (fun (a : List (Int × Int) × State) i =>
    let (y, u) := a.2.eqPair sl xs (t.ys.length + i); (y :: a.1, u)) ([], s)
  s1.putSlice sl { s1.slice sl with trace := { t with ys := t.ys ++ ys.reverse } }

/-- One filter moves by −μ e x (R252): e in output units, x in quarter units, coefficients in 1/1,024. DESIGN CHOICE, assumption
46. -/
def State.eqMove (s : State) (sl f : Nat) (e : Int) (x : Int → Int) (n : Int) : State :=
  (upTo (eqTaps f)).foldl (fun t (i : Nat) =>
    let (d, t1) := t.kept (-(e * x (n + eqHalf f - i))) (2 ^ s.rd Reg.SLC_EQ_CTRL_EQ_MU sl)
    t1.wrS Reg.SLC_EQ_SET_COEF (((sl * 6) * 4 + f) * 16 + i) (sat 12 (t1.eqCoef sl f i + d))) s

/-- The ACTIVE set adapts over a row of a spot once it is detected: each output against the target of the decided levels (R252).
`at_` is the pair of the row's first bit. -/
def State.eqAdapt (s : State) (sl : Nat) (trail : Bool) (o : RowOut) (at_ : Int) : State :=
  let xs := (s.slice sl).trace.xs.toArray
  let lv := (o.dec.map fun d => if d.lev then 1 else 0).toArray
  o.cells.zipIdx.foldl (fun t p =>
    match p.1 with
    | .out y =>
      if p.2 < 3 then t
      else
        let st := 4 * lv.getD (p.2 - 1) 0 + 2 * lv.getD (p.2 - 2) 0 + lv.getD (p.2 - 3) 0
        let e := y - trTarget (lv.getD p.2 0) st
        let n := at_ + p.2
        (t.eqMove sl (if trail then 3 else 0) e (xAt xs trail) n).eqMove sl (if trail then 2 else 1) e (xAt xs (!trail)) n
    | _ => t) s

/-! ### Slots that are read (R250, R261, R264) -/

/-- The INDEX and zone of a user-band slot that a started READ or VERIFY still wants from a head. -/
def State.wantedAt (s : State) (h slot : Nat) : Option (Nat × Nat) :=
  (s.cmds.filter fun c => c.phase == .started && (c.op == 0x10 || c.op == 0x12)).findSome? fun c =>
    (c.frames.find? fun f => f.fate == .wanted && f.slot == slot && c.placed f && s.zoneHead f.zone == some h
      && zoneLayer f.zone == s.layerOf h).map fun f => (f.zone, f.index)

/-- A frame-store entry of a slot. -/
def Slice.entry (x : Slice) (slot : Nat) : Option Soft := x.store.find? fun e => e.slot == slot

/-- A frame-store entry is changed. -/
def Slice.putEntry (x : Slice) (e : Soft) : Slice := { x with store := x.store.map fun y => if y.slot == e.slot then e else y }

/-- A frame of a command is still to be read by a slice: wanted from its head, and not yet whole in the frame store. -/
def State.toRead (s : State) (sl h : Nat) (f : FrameReq) : Bool :=
  f.fate == .wanted && s.zoneHead f.zone == some h
    && (zoneLayer f.zone != s.layerOf h || (match (s.slice sl).entry f.slot with | some e => !e.full | none => true))

/-- Frames of a head not yet read for the first time. -/
def State.unread (s : State) (sl h : Nat) : Bool :=
  s.cmds.any fun c => c.phase == .started && (c.op == 0x10 || c.op == 0x12) && c.frames.any (s.toRead sl h)

/-- The first unread position of each command of a head on its layer: BIT 0 of the first slot of its range, or the first bit that a
slot begun lacks (R250, R276). -/
def State.firstUnread (s : State) (sl h : Nat) : List Nat :=
  (s.cmds.filter fun c => c.phase == .started && (c.op == 0x10 || c.op == 0x12)).filterMap fun c =>
    let ps := (c.frames.filter fun f => s.toRead sl h f && c.placed f && zoneLayer f.zone == s.layerOf h).map fun f =>
      slotPos f.slot false + (match (s.slice sl).entry f.slot with | some e => e.firstGap | none => 0)
    match ps with
    | [] => none
    | p :: r => some (r.foldl min p)

/-- Is a rung made of re-reads? -/
def rereadRung (r : Nat) : Bool := 4 ≤ r && r ≤ 8

/-- The frame of a slice whose re-reads are under way: the slice reads no other frame until they are over (R299, R301). -/
def State.rereadOn (s : State) (sl : Nat) : Option Ladder := s.ladders.find? fun l => l.slice == sl && l.rereading

/-- A slice holds frames that wait for re-reads (R299). -/
def State.rereadDue (s : State) (sl : Nat) : Bool :=
  s.ladders.any fun l => l.slice == sl && rereadRung l.rung && l.pool.isSome

/-- A reading slice is to pause: its backlog has reached STALL, or it lacks an entry (R263, R276). -/
def State.pauseDue (s : State) (sl h : Nat) : Bool :=
  (s.slice sl).pauseReq || decide (s.rd Reg.SLC_RATE_CFG_STALL sl ≤ s.backlog h)

/-- A new pass may begin. -/
def State.mayPass (s : State) (sl h : Nat) : Bool :=
  s.slMode sl == 1 && s.hd h == hdReady && !s.flag Reg.SLC_RATE_STATUS_PAUSED sl && !s.pauseDue sl h && (s.rereadOn sl).isNone
    && !s.rereadDue sl

/-- A slice reads: a pass is under way or comes down from a step. -/
def Pass.on : Pass → Bool
  | .off => false
  | _ => true

/-- The entry of a slot, claimed when the slot is wanted and an entry is free (R250, R261); none where its samples are
discarded. With no entry free the slice is to pause (R263). -/
def State.claim (s : State) (sl h slot : Nat) : Option Soft × State :=
  let x := s.slice sl
  if !x.pass.on || s.flag Reg.SLC_RATE_STATUS_PAUSED sl || (s.rereadOn sl).isSome then (none, s)
  else match x.entry slot with
    | some e => (some e, s)
    | none =>
      if (s.wantedAt h slot).isNone || s.hd h != hdReady then (none, s)
      else if x.store.length < 4 then
        let e : Soft := { slot := slot }
        (some e, (s.putSlice sl { x with store := x.store ++ [e] }).actFor fun c =>
          c.phase == .started && c.frames.any fun f => f.fate == .wanted && f.slot == slot && s.zoneHead f.zone == some h)
      else (none, s.putSlice sl { x with pauseReq := true })

/-! ### Rows (R255 to R262, R271) -/

/-- The alignment of a spot. -/
def State.align (s : State) (sl : Nat) (trail : Bool) : Int :=
  s.rdS (if trail then Reg.SLC_ALIGN_TRAIL_ALIGN else Reg.SLC_ALIGN_LEAD_ALIGN) sl

/-- The guide position of the first pair of a run on a spot. -/
def Trace.base (t : Trace) (trail : Bool) : Option Nat := if trail then t.trail else t.lead

/-- The cells of a spot from a position on. -/
def Trace.cells (t : Trace) (trail : Bool) (p0 : Int) (n : Nat) : List Cell :=
  match t.base trail with
  | none => List.replicate n .outside
  | some b =>
    let k := p0 - (b : Int)
    let pre := min n (-k).toNat
    let body := (((t.xs.zip t.ys).drop k.toNat).take (n - pre)).map fun q =>
      match (if trail then q.1.2 else q.1.1) with
      | none => Cell.lost
      | some _ => .out (if trail then q.2.2 else q.2.1)
    let l := (List.replicate pre Cell.outside ++ body).zipIdx.map fun q =>
      if !trail && decide (p0 + q.2 < t.cutL) then Cell.outside else q.1
    l ++ List.replicate (n - l.length) .outside

/-- Where the window of a row begins: 32 + 8 positions before its predicted start (R257, R258). -/
def rowFrom (rho : Nat) (align : Int) : Int := 7744 * (rho : Int) + align - 40

/-- A row of a spot is detected from a slice's run (R255 to R259). -/
def State.rowOut (s : State) (sl : Nat) (trail : Bool) (rho : Nat) : RowOut :=
  detectRow (rho % 151) ((s.slice sl).trace.cells trail (rowFrom rho (s.align sl trail)) 7824)

/-- Sums of corrected samples with those of a row of a spot: sum, sum of squares, number; lead first (R900). -/
def addYs (ys : List Int) (trail : Bool) (xs : List Int) : List Int :=
  let k := if trail then 3 else 0
  let (a, b) := xs.foldl (fun (p : Int × Int) y => (p.1 + y, p.2 + y * y)) (0, 0)
  (upTo 6).map fun i => ys.getD i 0 + (if i = k then a else if i = k + 1 then b else if i = k + 2 then (xs.length : Int) else 0)

/-- A frame's values with a row of a spot as detected. -/
def Soft.takeRow (e : Soft) (row : Nat) (trail : Bool) (o : RowOut) (align : Int) (scale : Nat) (xs : List Int) : Soft :=
  let key := 2 * row + (if trail then 1 else 0)
  let e1 := { e with rows := mput e.rows row (joinRow (mget [] e.rows row) (o.values scale)), ys := addYs e.ys trail xs,
                     trailRows := if trail && !e.trailRows.contains row then row :: e.trailRows else e.trailRows }
  match o.searched, o.start with
  | true, some (d, v) => { e1 with offs := mput e1.offs key (align + d), scores := mput e1.scores key v }
  | true, none => { e1 with missed := if e1.missed.contains key then e1.missed else key :: e1.missed }
  | false, _ => e1

/-- A row was taken by flywheel: ROWS_FLYWHEEL and ROW_SYNC_MISSED (R259, R278). -/
def State.flywheel (s : State) (sl : Nat) (o : RowOut) : State :=
  if o.searched && o.start.isNone then
    ((s.set1 Reg.SLC_EVT_ROW_SYNC_MISSED sl).bump Reg.SLC_STAT_COUNT (sl * 13 + 5) 1).raiseWin 0x0401 sl [sl] true
  else s

/-- The pair of a row's first bit in a slice's run, by where the row was placed. -/
def State.rowPair (s : State) (sl : Nat) (trail : Bool) (rho : Nat) (o : RowOut) : Int :=
  rowFrom rho (s.align sl trail) + 40 + (o.start.getD (0, 0)).1 - (((s.slice sl).trace.base trail).getD 0 : Int)

/-- A detected row adapts the equaliser, unless its sync was taken by flywheel or an alternate set is in use (R252, R304). -/
def State.adaptRow (s : State) (sl : Nat) (trail : Bool) (rho : Nat) (o : RowOut) : State :=
  if s.flag Reg.SLC_CTRL_EQ_ADAPT sl && (s.slice sl).saved.isEmpty && o.start.isSome then
    s.eqAdapt sl trail o (s.rowPair sl trail rho o)
  else s

/-- The corrected samples of a row. -/
def State.rowSamples (s : State) (sl : Nat) (trail : Bool) (rho : Nat) (o : RowOut) : List Int :=
  let at_ := s.rowPair sl trail rho o
  (((s.slice sl).trace.xs.drop at_.toNat).take 7744).filterMap fun p => if trail then p.2 else p.1

/-- The row of a slot as read back (R271). -/
def RowOut.back (o : RowOut) (align : Int) : BackRow :=
  { words := wordsOfBits 121 (o.hard.map fun b => b.getD false), score := (o.start.map Prod.snd).getD 0,
    off := align + (o.start.getD (0, 0)).1, lost := o.cells.any fun c => c.y.isNone }

/-- A row of the trail spot over a slot that awaits verify (R271, R259). -/
def State.backRow (s : State) (sl rho : Nat) : State :=
  let x := s.slice sl
  let mine := fun (e : Enc) => slotPos e.slot e.mgmt == slotBits * (rho / 151)
  if !(x.written.any mine) then s
  else
    let o := s.rowOut sl true rho
    let b := o.back (s.align sl true)
    let s1 := s.putSlice sl { x with written := x.written.map fun e => if mine e then { e with back := mput e.back (rho % 151) b } else e }
    (s1.flywheel sl o).adaptRow sl true rho o

/-- A row of the trail spot over a slot that is re-read (R300): the read begins with row 0; behind its last row the slice asks for
the one-track inward step that brings the head back, and the read waits to be decoded (R302). -/
def State.freshRow (s : State) (sl rho : Nat) (l : Ladder) (e : Soft) : State :=
  let r := rho % 151
  if r ≠ 0 ∧ e.rows.isEmpty ∨ e.full then s
  else
    let o := s.rowOut sl true rho
    let e0 := if r = 0 then ({ slot := l.slot } : Soft) else e
    let e1 := e0.takeRow r true o (s.align sl true) (s.rd Reg.SLC_DET_CFG_LLR_SCALE sl) (s.rowSamples sl true rho o)
    let ends := r == 150
    let l1 := if ends && l.ready.isNone then { l with fresh := none, ready := some (l.rung, e1) } else { l with fresh := some e1 }
    let s1 : State := { s with ladders := s.ladders.map fun y => if y.slice == l.slice && y.slot == l.slot then l1 else y }
    let s2 := (s1.flywheel sl o).adaptRow sl true rho o
    if ends then s2.askStep l.head true else s2

/-- A row of a spot over a slot that is read (R250, R261, R262). -/
def State.storeRow (s : State) (sl h : Nat) (trail : Bool) (rho : Nat) : State :=
  if rho < 151 * 2048 then s
  else
    match s.claim sl h (rho / 151 - 2048) with
    | (none, s1) => s1
    | (some e, s1) =>
      let o := s1.rowOut sl trail rho
      let e1 := e.takeRow (rho % 151) trail o (s1.align sl trail) (s1.rd Reg.SLC_DET_CFG_LLR_SCALE sl) (s1.rowSamples sl trail rho o)
      ((s1.putSlice sl ((s1.slice sl).putEntry e1)).flywheel sl o).adaptRow sl trail rho o

/-- What becomes of a row of a spot: the burst of a calibration, inline verify, a re-read, or the frame store. -/
def State.takeRow (s : State) (sl h : Nat) (trail : Bool) (rho : Nat) : State :=
  if s.hd h = hdOpc then
    (if trail then s.opcRow h (rho / 151) (rho % 151) ((s.rowOut sl true rho).back (s.align sl true)) else s)
  else if s.slMode sl = 2 then (if trail then s.backRow sl rho else s)
  else
    match s.ladders.find? fun l => l.slice == sl && l.rereading && l.fresh.isSome && l.slot + 2048 == rho / 151 with
    | some l => (match trail, l.fresh with | true, some e => s.freshRow sl rho l e | _, _ => s)
    | none => s.storeRow sl h trail rho

/-- The next row of a spot. -/
def Trace.next (t : Trace) (trail : Bool) : Nat := if trail then t.rowT else t.rowL

/-- The next row of a spot is set. -/
def Trace.setNext (t : Trace) (trail : Bool) (r : Nat) : Trace := if trail then { t with rowT := r } else { t with rowL := r }

/-- Rows of a spot whose window the outputs cover are worked off; at the end of a run (`all`) the rows begun as well. -/
def State.runRows : Nat → State → Nat → Nat → Bool → Bool → State
  | 0, s, _, _, _, _ => s
  | n + 1, s, sl, h, trail, all =>
    let t := (s.slice sl).trace
    match t.base trail with
    | none => s
    | some b =>
      let rho := t.next trail
      let have_ : Int := b + t.ys.length
      let covered := decide (rowFrom rho (s.align sl trail) + 7824 ≤ have_)
      if !(covered || (all && decide ((7744 * rho : Nat) < have_))) then s
      else
        let s1 := s.takeRow sl h trail rho
        let y := s1.slice sl
        State.runRows n (s1.putSlice sl { y with trace := y.trace.setNext trail (rho + 1) }) sl h trail all

/-- Pairs that no row to come needs are let go. -/
def Trace.trim (t : Trace) : Trace :=
  let need := fun (b : Option Nat) (r : Nat) => match b with | some a => 7744 * r - 340 - a | none => t.ys.length
  let k := min (min (need t.lead t.rowL) (need t.trail t.rowT)) (t.ys.length - 14)
  { t with lead := t.lead.map (· + k), trail := t.trail.map (· + k), xs := t.xs.drop k, ys := t.ys.drop k }

/-- Rows of both spots are worked off, the lead spot's first. -/
def State.workRows (s : State) (sl h : Nat) (all : Bool) : State :=
  let n := (s.slice sl).trace.xs.length / 7744 + 2
  let s1 := State.runRows n s sl h false all
  let s2 := State.runRows n s1 sl h true all
  let y := s2.slice sl
  s2.putSlice sl { y with trace := y.trace.trim }

/-- A run ends: what has come of its rows is worked off (R251). -/
def State.endRun (s : State) (sl h : Nat) : State :=
  let s1 := (s.formOut sl (s.slice sl).trace.xs.length).workRows sl h true
  s1.putSlice sl { s1.slice sl with trace := {} }

/-! ### Samples (R126 to R130, R244 to R250) -/

/-- Where a spot is, R127 and R246: its position if the message can be placed. `last` is the place counted on to, none
after a break. -/
def spotPos (leadin : Bool) (w : Nat) (last : Option Nat) (lost : Nat) : Option Nat :=
  if !bitOf w 41 then none
  else if bitOf w 42 then some (slotPos (bitsOf w 21 20) leadin + bitsOf w 0 21)
  else if lost = 0 then last else none

/-- Messages of a head lost or discarded: SAMPLES_LOST (R246). DESIGN CHOICE, assumption 47. -/
def State.samplesLost (s : State) (sl n : Nat) : State :=
  (upTo n).foldl (fun t _ => ((t.set1 Reg.SLC_EVT_SAMPLES_LOST sl).bump Reg.SLC_STAT_COUNT (sl * 13 + 9) 1).raiseWin
    0x0404 sl [sl] true) s

/-- The blank span of a one-track step holds now: from phase 3,200 of its period to phase 3,200 of the next (R248). -/
def State.blankNow (s : State) (h : Nat) : Bool :=
  match (s.head h).step with
  | some (_, e) => e ≤ s.now + 6800 && s.now + 1800 < e
  | none => false

/-- Where the lead spot may be by now: its last place and the bits of the time since, rounded up (R133). -/
def State.leadNow (s : State) (sl h : Nat) : Option Nat :=
  let x := s.slice sl
  x.lastLead.map fun a => a + (if x.leadAt < s.now then s.bitsIn h (s.now - x.leadAt) + 1 else 0)

/-- The spot lag is measured; one shorter than the blank span is reported once per assignment (R249). -/
def State.measureLag (s : State) (sl h lead trail : Nat) : State :=
  let d : Int := (lead : Int) - (trail : Int) - ((turnBits20 trail / 2 ^ 20 : Nat) : Int)
  let b := s.bitsIn h 5000
  let x := s.slice sl
  let s1 := s.putSlice sl { x with spotLag := d, lagShort := x.lagShort || d < (b : Int) }
  if d < (b : Int) ∧ !x.lagShort then ((s1.set1 Reg.SLC_EVT_SPOT_LAG_SHORT sl).raise 0x0408 ([sl] ++ i1 d ++ [b])) else s1

/-- A run goes on with pairs: on from its end, or after lost messages at the place that the positions say, the pairs between
them lost (R130); none where the positions have broken off. -/
def Trace.extend (t : Trace) (lead trail : Option Nat) (lost : Nat) (ps : List (Option Int × Option Int)) : Option Trace :=
  let len := t.xs.length
  let gap := fun (b p : Option Nat) => match b, p with | some a, some c => [(c : Int) - (a + len : Nat)] | _, _ => []
  match gap t.lead lead ++ gap t.trail trail with
  | [] => none
  | d :: r =>
    if r.any (· != d) ∨ d < 0 ∨ (0 < d ∧ (lost = 0 ∨ (slotBits : Int) < d)) then none
    else
      let n := len + d.toNat
      let at_ := fun (b p : Option Nat) => match b, p with
        | some a, _ => some a
        | none, some c => if n ≤ c then some (c - n) else none
        | none, none => none
      let nl := if t.lead.isNone then (lead.getD 0) / 7744 else t.rowL
      let nt := if t.trail.isNone then (trail.getD 0) / 7744 else t.rowT
      some { t with lead := at_ t.lead lead, trail := at_ t.trail trail, rowL := nl, rowT := nt,
                    xs := t.xs ++ List.replicate d.toNat (none, none) ++ ps }

/-- A new run. -/
def Trace.begin_ (lead trail : Option Nat) (ps : List (Option Int × Option Int)) : Trace :=
  { lead := lead, trail := trail, xs := ps, rowL := lead.getD 0 / 7744, rowT := trail.getD 0 / 7744 }

/-- Of the lead spot a run stores only what comes from the start of a pass on (R250). -/
def Trace.cutLead (t : Trace) (pos : Nat) : Trace :=
  match t.lead with
  | none => t
  | some b => if b < pos then { t with cutL := pos, rowL := pos / 7744 } else t

/-- Positions lo to hi − 1 of the lead spot are erasures in the slots they fall in (R256). -/
def State.eraseSpan (s : State) (sl h lo hi : Nat) : State :=
  (upTo (hi / 7744 + 1 - lo / 7744)).foldl (fun t i =>
    let rho := lo / 7744 + i
    if rho < 151 * 2048 then t
    else
      match t.claim sl h (rho / 151 - 2048) with
      | (none, t1) => t1
      | (some e, t1) =>
        let new := (upTo 7744).map fun j => let p := 7744 * rho + j; if lo ≤ p ∧ p < hi then some (0 : Int) else none
        t1.putSlice sl ((t1.slice sl).putEntry { e with rows := mput e.rows (rho % 151) (joinRow (mget [] e.rows (rho % 151)) new) })) s

/-- The span that an outward step now would leave unread lies in the header row and row 1's sync, and leaves a header copy whole
(R249). `lead` is where the lead spot will be when the step's blank span begins. -/
def spanFits (lead : Nat) (gap : Nat) : Bool :=
  let o := lead % slotBits
  decide (o + gap ≤ 7808) && (upTo 17).any fun j => decide (64 + 450 * (j + 1) ≤ o) || decide (o + gap ≤ 64 + 450 * j)

/-- The place of the lead spot at phase 3,200 of the period in whose ACTUATE a step asked for now is applied (R248, R395). -/
def State.stepLead (s : State) (h lead : Nat) : Nat :=
  let ph := s.lin % 5000
  lead + s.bitsIn h ((if ph ≤ 2400 then 3200 - ph else 8200 - ph))

/-- The pass of a slice after new positions of its spots (R247, R249, R250, R276, R299): it begins where the trail spot reaches a first
unread position, or comes down from a step; at P + C + Δ it ends: with frames still to read, and no pause or re-read to come, the
slice asks for a step outward, at a place that suits a short spot lag. -/
def State.movePass (s : State) (sl h : Nat) (trail n : Nat) : State :=
  let x := s.slice sl
  let put := fun (p : Pass) => s.putSlice sl { x with pass := p }
  match x.pass with
  | .off =>
    if !s.mayPass sl h then s
    else match (s.firstUnread sl h).find? fun p => decide (trail ≤ p) && decide (p < trail + n) with
      | some p =>
        let t := match x.trace.lead, x.trace.trail with
          | some a, some b => x.trace.cutLead (a + (p - b))
          | _, _ => x.trace
        s.putSlice sl { x with pass := .begun p, trace := t }
      | none => s
  | .landing => if s.hd h = hdReady then put (.begun trail) else s
  | .begun p =>
    let c := turnBits20 p / 2 ^ 20
    let lag := x.spotLag.toNat
    if !s.unread sl h then put .off
    else if trail + n < p + c + lag then s
    else if s.pauseDue sl h ∨ s.rereadDue sl then put .off
    else
      let b := s.bitsIn h 5000
      if x.spotLag < (b : Int) ∧ !spanFits (s.stepLead h (x.lastLead.getD 0)) (b - lag) then s
      else (put .landing).askStep h false

/-- A message's corrected samples join the run of its slice and are worked off (R245 to R262). In write mode the lead spot's
samples are discarded; while the head is not READY both spots' count as lost (R270, R392). -/
def State.takePairs (s : State) (sl h : Nat) (lead trail : Option Nat) (lost : Nat) (ps : List (Int × Int)) : State :=
  let (ys, s1) := s.correctAll sl ps
  let ok := s.hd h == hdReady || s.hd h == hdOpc
  let ql := ok && lead.isSome && s.slMode sl != 2
  let qt := ok && trail.isSome
  let xs := ys.map fun p => (if ql then some p.1 else none, if qt then some p.2 else none)
  let s2 := match (s1.slice sl).trace.extend lead trail lost xs with
    | some t => s1.putSlice sl { s1.slice sl with trace := t }
    | none =>
      let u := s1.endRun sl h
      let z := u.slice sl
      u.putSlice sl { z with trace := .begin_ lead trail xs, pass := match z.pass with | .begun _ => .off | p => p }
  let s3 := s2.formOut sl ((s2.slice sl).trace.xs.length - 7)
  let s4 := match trail with | some b => s3.movePass sl h b ps.length | none => s3
  s4.workRows sl h false

/-- Bits of a head's stream that the lead spot has passed are written (R134). -/
def takeAhead (pos : Nat) (l : List (Nat × Nat)) : List (Nat × Nat) :=
  (l.map fun p => (max p.1 (min p.2 pos), p.2)).filter fun p => p.1 < p.2

/-- A message's place touches a slot boundary. -/
def touchesSlot (p : Option Nat) (n : Nat) : Bool :=
  match p with
  | some a => a % slotBits == 0 || a / slotBits != (a + n) / slotBits
  | none => false

/-- A slot number that a SAMPLES message gives is in the lead-in band: of the two places of that number, the nearer to the counted one
(R127, R401). DEDUCED, assumption 230. -/
def bandOf (counted slot : Nat) : Bool :=
  let d := fun (lead : Bool) => ((slotPos slot lead : Int) - (counted : Int)).natAbs
  decide (slot < 2048) && decide (d true ≤ d false)

/-- SAMPLES_RECEIVE: the head's place follows the trail spot; the slice of the head, where there is one, corrects, equalises,
detects, places and stores what it reads (R126 to R130, R244 to R263). -/
def execSamplesReceive (n : Fin 128) (m : LinkMsg) (s : State) : Res :=
  if !s.active n then .next s
  else if !msgOk 0x82 m then .next (s.msgErr n)
  else
    let side := msgTag m % 2
    let h := 2 * n.val + side
    let st := s.stn n
    let sp := seqSpace 0x82 side
    let gap := match mfind st.rxSeq sp with | some q => (msgSeq m + 256 - (q + 1) % 256) % 256 | none => 0
    let s1 := s.putStn n { st with rxSeq := mput st.rxSeq sp (msgSeq m) }
    let lw := m.blocks.getD 0 0
    let tw := m.blocks.getD 1 0
    let hd := s1.head h
    let counted := s1.posNow h
    let inLead := bandOf counted (bitsOf tw 21 20)
    let heard := slotPos (bitsOf tw 21 20) inLead + bitsOf tw 0 21
    let far := bitOf tw 42 && bitOf tw 41 && (s1.gate n (headWord h 1)).isNone
      && (counted / slotBits + 1 < heard / slotBits || heard / slotBits + 1 < counted / slotBits)
    let s2 := s1.putHead h { hd with pos := if bitOf tw 41 then heard else hd.pos, posAt := if bitOf tw 41 then s.now else hd.posAt,
                                     watch := { hd.watch with addrBad := far, clkBad := !bitOf lw 41 || !bitOf tw 41 } }
    let s3 := if bitOf tw 41 then (s2.wr Reg.STN_HD_POS_SLOT h (bitsOf tw 21 20)).wrB Reg.STN_HD_POS_LEADIN h inLead else s2
    match s3.sliceOf h with
    | none => .next s3
    | some sl =>
      let x := s3.slice sl
      let lost := max x.lostLead x.lostTrail + gap
      let lead := spotPos inLead lw x.lastLead (x.lostLead + gap)
      let trail := spotPos inLead tw x.lastTrail (x.lostTrail + gap)
      let bad := (if lead.isNone || trail.isNone then 1 else 0)
      let s4 := ((s3.samplesLost sl (gap + bad)).wrB Reg.SLC_STATUS_LEAD_CLK sl (bitOf lw 41)).wrB Reg.SLC_STATUS_TRAIL_CLK sl (bitOf tw 41)
      let ps := samplePairs (m.blocks.drop 2)
      let y := s4.slice sl
      let s5 := s4.putSlice sl { y with
        lastLead := match lead with | some a => some (a + ps.length) | none => x.lastLead,
        lastTrail := match trail with | some a => some (a + ps.length) | none => x.lastTrail,
        leadAt := if lead.isSome then s.now else x.leadAt,
        lostLead := if lead.isSome then 0 else x.lostLead + gap + 1,
        lostTrail := if trail.isSome then 0 else x.lostTrail + gap + 1,
        ahead := match lead with | some a => takeAhead (a + ps.length) x.ahead | none => x.ahead,
        edge := touchesSlot lead ps.length || touchesSlot trail ps.length }
      let s6 := match lead, trail with | some a, some b => s5.measureLag sl h a b | _, _ => s5
      let s7 := match lead with | some a => s6.opcWrite h a | none => s6
      let blank := s7.blankNow h
      let s8 := s7.wrB Reg.SLC_STATUS_BLANK sl blank
      if blank then
        let t := (s8.slice sl).trace
        if t.xs.isEmpty then .next s8
        else
          let u := match (s8.slice sl).pass, t.lead with
            | .landing, some a => s8.eraseSpan sl h (a + t.xs.length) (a + t.xs.length + s8.bitsIn h 5000)
            | _, _ => s8
          .next (u.endRun sl h)
      else
        let s9 := s8.takePairs sl h lead trail lost ps
        .next (if (s9.slice sl).pass.on && !s9.flag Reg.SLC_RATE_STATUS_PAUSED sl then s9.setSl sl slReading else s9)

/-! ### Rate matching (R275 to R277) -/

/-- RATE_MATCH_TICK: every 100 ms S follows the backlog (R275). -/
def execRateMatchTick (sl : Fin 96) (s : State) : Res :=
  let x := s.slice sl
  match x.head with
  | none => .next s
  | some h =>
    let s1 := s.advanceTo (x.rateAt + 100 * msCycles)
    let s2 := s1.putSlice sl { x with rateAt := s1.now }
    let wr := s.slMode sl == 2
    let b := if wr then x.wstore.length else s.backlog h
    let st := s.rd1 Reg.SLC_RATE_CFG_STEP sl
    let lo := s.rd1 Reg.SLC_RATE_CFG_S_MIN sl
    let high := s.rd Reg.SLC_RATE_CFG_HIGH sl
    let low := s.rd Reg.SLC_RATE_CFG_LOW sl
    let held := match x.holdAt with | some t => s1.now ≤ t + 100 * msCycles | none => false
    let fall := if wr then b ≤ low && held else high ≤ b
    let rise := if wr then high ≤ b else b ≤ low
    let v0 := s.rd Reg.SLC_RATE_STATUS_SCALE sl
    let v1 := if fall then max lo (v0 - st) else v0
    let v2 := if rise then min 16 (v1 + st) else v1
    let v := if s.flag Reg.SLC_CTRL_RATE_EN sl then clampNat lo 16 v2 else 16
    .next ((s2.wr Reg.SLC_RATE_STATUS_SCALE sl v).showSp (h / 2))

/-- READ_PAUSE: at the end of its pass a reading slice at STALL, or short of an entry, pauses (R276). -/
def execReadPause (sl : Fin 96) (s : State) : Res :=
  let x := s.slice sl
  match x.head with
  | none => .next s
  | some h =>
    if s.slMode sl ≠ 1 ∨ s.flag Reg.SLC_RATE_STATUS_PAUSED sl ∨ x.pass.on ∨ !s.pauseDue sl h then .next s
    else
      let s1 := s.putSlice sl { x with pauseReq := false }
      .next (((s1.set1 Reg.SLC_RATE_STATUS_PAUSED sl).setSl sl slPaused).raise 0x0407 [sl, 1])

/-- READ_RESUME: the slice reads on, by a new pass from the first unread position, once the backlog is low and an entry is free
(R250, R276). -/
def execReadResume (sl : Fin 96) (s : State) : Res :=
  let x := s.slice sl
  match x.head with
  | none => .next s
  | some h =>
    if s.flag Reg.SLC_RATE_STATUS_PAUSED sl && s.backlog h ≤ s.rd Reg.SLC_RATE_CFG_LOW sl && x.store.length < 4 then
      .next ((((s.clr Reg.SLC_RATE_STATUS_PAUSED sl).clr Reg.SLC_RATE_STATUS_HOLDING sl).setSl sl slReading).raise 0x0407 [sl, 0])
    else .next s

/-- Frames of a zone whose slots a slice has in hand: encoded, written, or dropped with their slots still to be slipped. -/
def Slice.flight (x : Slice) (zk : Nat) : List Enc := (x.wstore ++ x.written).filter fun e => !e.mgmt && e.zone == zk && !e.doomed

/-- Where a frame begins under the lead spot. -/
def Enc.start (e : Enc) : Nat := slotPos e.slot e.mgmt

/-- The place of the next slot a slice is to write: that of its first frame not begun, else the frontier of its zone. -/
def State.frontierPos (s : State) (sl : Nat) : Option Nat :=
  let x := s.slice sl
  match x.wstore.find? fun e => e.sent == 0 with
  | some e => some e.start
  | none => x.zoneNow.map fun zk => slotPos (zoneSlot zk ((s.zone zk).frontier + (x.flight zk).length)) false

/-- A writing slice is to hold: its frontier slot comes within 1 ms of the lead spot with no frame begun for it (R268), and the
trail spot has left the last written slot (R277). DESIGN CHOICE, assumption 57. -/
def State.mayHold (s : State) (sl h : Nat) : Bool :=
  let x := s.slice sl
  !(x.wstore.any fun e => e.sent != 0)
    && (match s.frontierPos sl, s.leadNow sl h with | some p, some a => decide (p < a + s.bitsIn h msCycles + 1) | _, _ => false)
    && match x.written.getLast? with
      | none => true
      | some e => (match x.lastTrail with | some t => decide (slotPos e.slot e.mgmt + slotBits ≤ t) | none => false)

/-- Cycles of one revolution of a station's disc at its present speed. -/
def State.revCycles (s : State) (n : Nat) : Nat := 60 * hz / (rpmOf (s.obsSpeed n)).natAbs

/-- HOLD_STEP: once per revolution a paused reading slice, or a writing slice whose frontier slot comes with no frame ready, steps
its head one track inward (R268, R277). DESIGN CHOICE, assumption 57. -/
def execHoldStep (sl : Fin 96) (s : State) : Res :=
  let x := s.slice sl
  match x.head with
  | none => .next s
  | some h =>
    let wr := s.slMode sl == 2
    let again : Bool := match x.holdAt with | some t => s.flag Reg.SLC_RATE_STATUS_HOLDING sl && decide (s.now < t + s.revCycles (h / 2)) | none => false
    if again ∨ !(if wr then s.mayHold sl h else s.flag Reg.SLC_RATE_STATUS_PAUSED sl) then .next s
    else
      let s1 := (s.set1 Reg.SLC_RATE_STATUS_HOLDING sl).bump Reg.SLC_STAT_COUNT (sl * 13 + 11) 1
      let s2 := s1.putSlice sl { x with holdAt := some s.now }
      .next ((if wr then s2.setSl sl slHolding else s2).oneTrack h true)

/-! ### The write path (R267 to R270, R131 to R138) -/

/-- Rung 7 of a frame of the other head of a station runs (R307). -/
def State.rung7Other (s : State) (h : Nat) : Bool :=
  s.ladders.any fun l => l.head / 2 == h / 2 && l.head != h && l.rung == 7 && l.started

/-- A slip of a zone is not yet journalled: its frame is not encoded again before (R800). -/
def State.slipDue (s : State) (zk : Nat) : Bool :=
  s.jq.any fun j => j.zone == some zk && j.words.any fun w => w % 16 == 2

/-- The pointers of a side are journalled before its records are written (R802). -/
def State.sideDue (s : State) (d side : Nat) : Bool :=
  s.jq.any fun j => match j.zone with | some zk => zoneDisc zk == d && zoneSide zk == side | none => false

/-- A held frame is the last of its zone before a ZONE_CLOSE or DISC_FINALIZE that has begun and waits for it (R210). -/
def State.lastBeforeClose (s : State) (f : Held) : Bool :=
  (s.cmds.any fun c => (c.op == 0x14 || c.op == 0x15) && c.phase == .started && c.flushes f.zone && f.ord < c.ord && c.stage == 0)
    && !(s.held.any fun g => g.zone == f.zone && f.index < g.index)

/-- The management frame a head writes next. DESIGN CHOICE, assumption 40. -/
def State.nextMgmt (s : State) (h : Nat) : Option Mgmt :=
  s.mgmtQ.find? fun m => s.mgmtHead m == some h

/-- Guide slot and layer of a management index in a copy (R218). -/
def mgmtPlace (copy idx : Nat) : Nat × Nat := (1024 + idx % 1024, 8 * copy + idx / 1024)

/-- n bytes of a list, zeros after its end. -/
def padBytes (n : Nat) (l : List Nat) : List Nat := l ++ List.replicate (n - l.length) 0

/-- The WRITE of a held frame has not started: it waits for its turn or its launch (R81, R647). -/
def State.unstarted (s : State) (x : Held) : Bool :=
  match s.writer x with
  | some c => c.phase == .waiting
  | none => false

/-- User frames may go to a side: it is not finalised, nor is it side B of a disc finalised on side A, and no IDENTITY record of the
disc is still to be written (R223, R235, R237). -/
def State.sideOpen (s : State) (d side : Nat) : Bool :=
  let x := s.disc d
  !(x.side side).finalised && !x.a.finalised && !(s.mgmtQ.any fun m => m.disc == d && m.type == 1)

/-- The held frame a slice encodes next: the oldest whose data is all present and whose INDEX comes next in its zone. -/
def State.nextHeld (s : State) (sl h : Nat) : Option Held :=
  s.held.find? fun x => x.stage == .buffered && x.present && !x.failed && s.zoneHead x.zone == some h && !s.unstarted x
    && !(s.zone x.zone).resolve && !(s.zone x.zone).stopped && !s.slipDue x.zone
    && s.sideOpen x.disc (zoneSide x.zone)
    && x.index == (s.zone x.zone).frames + (((s.slice sl).flight x.zone).filter fun e => !e.dropped).length

/-- FRAME_ENCODE: the slice encodes a management frame, one at a time (R270), or the next user frame (R267). DESIGN CHOICE,
assumption 35. -/
def execFrameEncode (sl : Fin 96) (s : State) : Res :=
  let x := s.slice sl
  match x.head with
  | none => .next s
  | some h =>
    if s.slMode sl ≠ 2 ∨ 32 ≤ x.wstore.length ∨ x.reverify ∨ (s.head h).needOpc ∨ s.rung7Other h then .next s
    else
      match s.nextMgmt h with
      | some m =>
        let own := (x.wstore ++ x.written).any fun e => e.mgmt
        let first := s.mgmtQ.any fun y => y.disc == m.disc && y.type == 1 && (m.type != 1 || decide (y.side < m.side))
        let sd := (s.disc m.disc).side m.side
        let idx := if m.copy = 0 then sd.idxA else sd.idxB
        if own ∨ first ∨ s.sideDue m.disc m.side then .next s
        else if 8192 ≤ idx then .next ({ s with mgmtQ := s.mgmtQ.filter (· != m) } : State).settle
        else
          let (slot, layer) := mgmtPlace m.copy idx
          let pfa := pfaOf slot layer m.side true
          let w := encodeFrame pfa (s.disc m.disc).discId s.time (m.seqNo % 65536) false false true (padBytes 65536 m.body)
          let e : Enc := { zone := zoneKey m.disc m.side 0 0, index := idx, slot := slot, words := w, mgmt := true, layer := layer }
          let sd1 := if m.copy = 0 then { sd with idxA := idx + 1 } else { sd with idxB := idx + 1 }
          let s1 := s.putDisc m.disc ((s.disc m.disc).setSide m.side sd1)
          let s2 : State := { s1 with mgmtQ := s1.mgmtQ.map fun y => if y == m then { y with idx := some idx } else y }
          .next ((s2.putSlice sl { x with wstore := x.wstore ++ [e] }).showSlice sl)
      | none =>
        match s.nextHeld sl h with
        | none => .next s
        | some f =>
          match s.ueAt f.addr 65536 with
          | some (l, cw) => .next ((s.noteUe l cw srcSlice).writeBroken f stDataEcc).settle
          | none =>
          let s := (s.ownRead f.addr 65536).correctRange f.addr 65536 srcSlice
          let z := s.zone f.zone
          let slot := zoneSlot f.zone (z.frontier + (x.flight f.zone).length)
          let w := encodeFrame (zonePfa f.zone slot) (s.disc f.disc).discId s.time f.index (decide (f.index < z.redo)) (f.index == 8191 || s.lastBeforeClose f) false
            (s.bytes f.addr 65536)
          let e : Enc := { zone := f.zone, index := f.index, slot := slot, words := w, layer := zoneLayer f.zone }
          let s0 := match x.zoneNow with
            | some zk => if zk != f.zone && (s.zone zk).jdue < (s.zone zk).frames then s.journalZone zk else s
            | none => s
          let s1 : State := { s0 with held := s0.held.map fun y => if y == f then { y with stage := .encoded } else y }
          .next ((s1.putSlice sl { x with wstore := x.wstore ++ [e], zoneNow := some f.zone }).showSlice sl)

/-- Channel bits of a head's stream sent and not yet under the lead spot (R134). -/
def Slice.streamed (x : Slice) : Nat := x.ahead.foldl (fun a p => a + (p.2 - p.1)) 0

/-- Writing begins on a head: word 5 is released (R383, R405). -/
def State.startWriting (s : State) (h : Nat) : State :=
  if s.flag Reg.STN_HD_STATUS_WRITING h then s else (s.set1 Reg.STN_HD_STATUS_WRITING h).releaseHead h 5

/-- WRDATA_SEND: up to `count` data blocks of the frame in hand, the WRSTART word first at its beginning; the first row
at least 1 ms before its slot reaches the lead spot (R133, R268), within the paced FIFO limit and with at most 128
messages unacknowledged (R134, R136). -/
def execWrdataSend (n : Fin 128) (side : Fin 2) (count : Nat) (s : State) : Res :=
  let h := headOf n side
  match s.sliceOf h with
  | none => .next s
  | some sl =>
    let x := s.slice sl
    match x.wstore, s.leadNow sl h with
    | e :: rest, some lead =>
      let first := e.sent == 0
      let k := min (min count (if first then 127 else 128)) (e.words.length - e.sent)
      let inTime := !first || (decide (lead + s.bitsIn h msCycles + 1 ≤ e.start) && 121 ≤ k)
      let room := x.streamed + 64 * k ≤ (bitsOf (s.stn n).feBuf 0 16 - 2) * 8192
      if !s.active n ∨ s.hd h ≠ hdReady ∨ s.layerOf h ≠ e.layer ∨ k = 0 ∨ !inTime ∨ !room ∨ 128 ≤ x.unacked.length
          ∨ x.reverify ∨ (first ∧ s.rung7Other h) then .next s
      else
        let tag := side.val + (if first then 2 else 0)
        let blocks := (if first then [e.slot] else []) ++ (e.words.drop e.sent).take k
        let q := s.nextSeq n 0x03 tag
        let s1 := (s.startWriting h).send n 0x03 tag blocks
        let u : Unacked := { seq := q, sentAt := s.now, tag := tag, blocks := blocks }
        let e1 := { e with sent := e.sent + k }
        let done := e1.sent = e1.words.length
        let y := { x with unacked := x.unacked ++ [u], ahead := x.ahead ++ [(e.start + 64 * e.sent, e.start + 64 * e1.sent)], wstore := if done then rest else e1 :: rest,
                          written := if done && !e1.doomed then x.written ++ [e1] else x.written }
        let s2 : State := if done && !e1.mgmt then { s1 with held := s1.held.map fun f =>
          if f.zone == e1.zone && f.index == e1.index && f.stage == .encoded then { f with stage := .written } else f } else s1
        let own := fun (c : Cmd) => s.held.any fun f => f.zone == e.zone && f.index == e.index && !e.mgmt && f.sq == c.sq && f.tag == c.tag
        .next (((((if first then s2.actFor own else s2).putSlice sl y).setSl sl slWriting).clr Reg.SLC_RATE_STATUS_HOLDING sl).showSlice sl)
    | _, _ => .next s

/-- WRDATA_RETRANSMIT: the first unacknowledged SEQ is 4 periods old: it and those after it are sent again (R136). -/
def execWrdataRetransmit (n : Fin 128) (side : Fin 2) (s : State) : Res :=
  match s.sliceOf (headOf n side) with
  | none => .next s
  | some sl =>
    let x := s.slice sl
    match x.unacked with
    | [] => .next s
    | u :: r =>
      if !s.active n ∨ s.now < u.sentAt + ackCycles then .next s
      else
        let s1 := (u :: r).foldl (fun t v => t.resend n 0x03 v.seq v.tag v.blocks) s
        .next (s1.putSlice sl { x with unacked := (u :: r).map fun v => { v with sentAt := s.now } })

/-- The write stream of a head has stopped for now: WRITING falls and word 5 is gated at 0. -/
def State.endWriting (s : State) (h : Nat) : State :=
  if s.flag Reg.STN_HD_STATUS_WRITING h then (s.clr Reg.STN_HD_STATUS_WRITING h).gateHead h 5 (.hold 0) else s

/-- A head whose writing has stopped at a row's end on a power failure parks now (R140, R421). -/
def State.parkStopped (s : State) (h : Nat) : State := if (s.head h).pfPark then s.parkHead h 4 else s

/-- WRACK_RECEIVE on an active port: STARTED, COMPLETE, STOPPED, UNDERRUN or MISSED of a slot (R138); the last two raise WR_UNDERRUN (R178), and of
a frame that will not be completed nothing more is sent, whatever EVENT above STARTED and COMPLETE says so. DESIGN CHOICE, assumptions
55 and 213. -/
def execWrackReceive (n : Fin 128) (m : LinkMsg) (s : State) : Res :=
  if !s.active n then .next s
  else if !msgOk 0x85 m then .next (s.msgErr n)
  else
    let h := 2 * n.val + msgTag m % 2
    let b := m.blocks.getD 0 0
    let ev := bitsOf b 0 3
    let slot := bitsOf b 4 20
    let s1 := if ev = 3 ∨ ev = 4 then s.raise 0x030A [n, msgTag m % 2, slot, bitsOf b 24 8] else s
    match s1.sliceOf h with
    | none => .next (if 1 ≤ ev then (s1.endWriting h).parkStopped h else s1)
    | some sl =>
      let x := s1.slice sl
      let mark := fun (e : Enc) => if e.slot == slot then { e with wrack := some ev } else e
      let cut := fun (e : Enc) => e.slot == slot && e.sent != 0 && 2 ≤ ev
      let moved := (x.wstore.filter cut).map mark
      let y := { x with wstore := (x.wstore.filter fun e => !cut e).map mark,
                        written := x.written.map mark ++ moved.filter fun e => !e.doomed,
                        ahead := if ev = 0 then x.ahead else x.ahead.filter fun p => p.1 / slotBits != slot && p.1 / slotBits != 2048 + slot }
      let s2 := (if 2 ≤ ev then s1.opcLost h slot else s1).putSlice sl y
      let going := y.wstore.any fun e => e.sent != 0
      .next ((if 1 ≤ ev && (!going || (s2.head h).pfPark) then (s2.endWriting h).parkStopped h else s2).showSlice sl)

/-! ### Inline verify (R271 to R274, R324, R325) -/

/-- Differing bits of two blocks. -/
def diff64 (a b : Nat) : Nat := popcount 64 (a ^^^ b)

/-- Differing bits of a codeword between a frame and its readback: its chunks of rows 1 to 150 (R198). -/
def cwDiff (w b : List Nat) (k : Nat) : Nat :=
  (upTo 1000).foldl (fun a q =>
    let c := 18 * q + k
    let i := 121 * (1 + c / 120) + 1 + c % 120
    a + diff64 (w.getD i 0) (b.getD i 0)) 0

/-- The content of row 0 as a number, first bit most significant. -/
def row0 (w : List Nat) : Nat := ((w.drop 1).take 120).foldl (fun a b => a * 2 ^ 64 + b) 0

/-- Header copies that match exactly. -/
def hdrSame (w b : List Nat) : Nat :=
  ((upTo 17).filter fun j => bitsOf (row0 w) (7680 - 450 * (j + 1)) 450 == bitsOf (row0 b) (7680 - 450 * (j + 1)) 450).length

/-- The trail spot has passed over every row of a written slot. -/
def Enc.readBack (e : Enc) : Bool := (upTo 151).all fun r => mhas e.back r

/-- The blocks of a slot as read back. -/
def Enc.backWords (e : Enc) : List Nat := (upTo 151).flatMap fun r => match mfind e.back r with | some b => b.words | none => []

/-- The first criterion of R271 that a readback fails, by its number; a frame whose write store could not be read fails as one whose
stream stopped (R748). DESIGN CHOICE, assumption 228. -/
def State.vfyFail (s : State) (sl : Nat) (e : Enc) : Option Nat :=
  let w := e.backWords
  if e.broken then some 6
  else if e.back.any fun p => p.2.score < 56 then some 1
  else if e.back.any fun p => p.2.lost then some 2
  else if (upTo 18).any fun k => s.rd Reg.SLC_VFY_CFG_CW_MAX sl < cwDiff e.words w k then some 3
  else if s.rd Reg.SLC_VFY_CFG_FRAME_MAX sl < (e.words.zip w).foldl (fun a p => a + diff64 p.1 p.2) 0 then some 4
  else if hdrSame e.words w < s.rd1 Reg.SLC_VFY_CFG_HDR_MIN sl then some 5
  else if e.wrack != some 1 then some 6
  else none

/-- The record of the last frame decoded or verified (R279). DEDUCED, assumption 52. -/
def State.lastFrame (s : State) (sl pfa outcome copies rowsTrail failed iter : Nat) (missed : Bool) : State :=
  let s1 := (s.wr Reg.SLC_LAST_PFA_PFA sl pfa).wr Reg.SLC_LAST_RES_OUTCOME sl outcome
  let s2 := ((s1.wr Reg.SLC_LAST_RES_HDR_COPIES sl copies).wr Reg.SLC_LAST_RES_ROWS_TRAIL sl rowsTrail).wr
    Reg.SLC_LAST_RES_CW_FAILED sl failed
  (s2.wrB Reg.SLC_LAST_RES_SYNC_MISSED sl missed).wr Reg.SLC_LAST_RES_ITER_MAX sl iter

/-- A slice's statistic i grows. -/
def State.slStat (s : State) (sl i n : Nat) : State := s.bump Reg.SLC_STAT_COUNT (sl * 13 + i) n

/-- A zone closes SHORT at its frontier (R194): its WRITEs in flight end with ZONE_CLOSED, its frames still held do not exist, and
its record is due (R229). -/
def State.closeShort (s : State) (zk : Nat) : State :=
  let s1 := (s.failZoneWrites zk stZoneClosed).dropHeld fun f => f.zone == zk
  (((s1.unqueue zk 0).closeZone zk .short).zoneState (zoneDisc zk) (zoneSide zk)).snapshot (zoneDisc zk) false

/-- A zone has become full: it closes (R229). -/
def State.closeFull (s : State) (zk : Nat) : State :=
  ((s.closeZone zk .closed).zoneState (zoneDisc zk) (zoneSide zk)).snapshot (zoneDisc zk) false

/-- A user slot has passed verify (R272): its frame is on the medium; the pointer is due after every 64 such frames and
when the zone fills (R229, R802). -/
def State.verified (s : State) (sl : Nat) (e : Enc) : State :=
  let z := s.zone e.zone
  let s1 := s.putZone e.zone { z with frames := z.frames + 1, frontier := z.frontier + 1, changed := true }
  let sT := match s1.held.find? fun f => f.zone == e.zone && f.index == e.index with
    | some f => s1.tap f.acct 1 1
    | none => s1
  let s2 := sT.dropHeld fun f => f.zone == e.zone && f.index == e.index
  let x := s2.slice sl
  let due := 64 ≤ x.framesSinceJournal + 1
  let s3 := s2.putSlice sl { x with framesSinceJournal := if due then 0 else x.framesSinceJournal + 1 }
  if z.frames + 1 = 8192 then
    s3.closeFull e.zone
  else if due then s3.journalZone e.zone
  else s3

/-- The record that a management frame of a slice carries. -/
def State.mgmtOf (s : State) (e : Enc) : Option Mgmt :=
  s.mgmtQ.find? fun m => zoneKey m.disc m.side 0 0 == e.zone && m.idx == some e.index && m.copy == e.layer / 8

/-- A management record is on one copy of a disc (R218): MGMT_REC is journalled (R800). -/
def State.mgmtVerified (s : State) (e : Enc) : State :=
  match s.mgmtOf e with
  | none => s
  | some m =>
    ({ s with mgmtQ := s.mgmtQ.filter fun y => y != m } : State).journal
      { words := [], type := 10, info := [m.disc / 4096, m.disc % 4096, m.side, m.copy, e.index, m.seqNo] }

/-- A management frame that fails verify is left as it is; its record goes to the next index of the same copy (R218). DESIGN
CHOICE, assumption 39. -/
def State.mgmtFailed (s : State) (e : Enc) : State :=
  { s with mgmtQ := s.mgmtQ.map fun y => if s.mgmtOf e == some y then { y with idx := none } else y }

/-- Slots of a zone are slipped one after another from an offset (R194, R273): each is journalled; one that meets 128
slips closes the zone SHORT. The offset at which that happened is answered. -/
def State.slipRun : Nat → State → Nat → Nat → Option Nat × State
  | 0, s, _, _ => (none, s)
  | n + 1, s, zk, o =>
    let z := s.zone zk
    if z.slips.length = 128 then (some o, s)
    else
      let s1 := s.putZone zk { z with slips := z.slips ++ [o], frontier := o + 1, changed := true, listDue := true }
      State.slipRun n (s1.journalSlip zk o) zk (o + 1)

/-- A slip under R273 meets 128 slips: the zone closes SHORT (R274). -/
def State.shortZone (s : State) (sl zk slot : Nat) : State :=
  ((s.set1 Reg.SLC_EVT_ZONE_SHORTED sl).raise 0x0403 [sl, zonePfa zk slot, (s.zone zk).frames]).closeShort zk

/-- A user slot has failed verify (R273, R274, R324, R325). DESIGN CHOICE, assumption 45. -/
def State.verifyFailed (s : State) (sl h : Nat) (e : Enc) (crit : Nat) : State :=
  let zk := e.zone
  let x := s.slice sl
  let mine := fun (f : Enc) => !f.mgmt && f.zone == zk && !f.doomed
  let after := (x.written ++ x.wstore).filter fun f => mine f && f.sent != 0 && e.slot < f.slot
  let n := after.length + 1
  let y := { x with written := x.written.filter fun f => !mine f,
                    wstore := (x.wstore.filter fun f => !(mine f && f.sent == 0)).map fun f =>
                      if mine f then { f with doomed := true } else f }
  let s1 := s.putSlice sl y
  let s2 : State := { s1 with held := s1.held.map fun f =>
    if f.zone == zk && (f.stage == .encoded || f.stage == .written) then
      { f with stage := .buffered, tries := if f.index == e.index then f.tries + 1 else f.tries } else f }
  let z := s2.zone zk
  let redo := after.foldl (fun a g => max a (g.index + 1)) (max z.redo (e.index + 1))
  let (short, s3) := (s2.putZone zk { z with redo := redo }).slipRun n zk (e.slot - zoneSlot zk 0)
  let pfa := zonePfa zk e.slot
  let s4 := ((s3.set1 Reg.SLC_EVT_VERIFY_FAIL sl).slStat sl 3 1).slStat sl 4 ((s3.zone zk).slips.length - (s.zone zk).slips.length)
  let s5 := s4.raise 0x0402 [sl, h / 2, h % 2, pfa, crit, (s3.zone zk).slips.length - (s.zone zk).slips.length]
  match short with
  | some o => s5.shortZone sl zk (zoneSlot zk o)
  | none =>
    let tries := (s5.held.filter fun f => f.zone == zk && f.index == e.index).foldl (fun a f => max a f.tries) 0
    if tries = 3 then s5.putHead h { s5.head h with needOpc := true }
    else if 6 ≤ tries then
      let s6 := s5.putZone zk { s5.zone zk with stopped := true }
      let s7 := (s6.failZoneWrites zk stMediaUnrecovered).raise 0x040D [sl, h / 2, h % 2, pfa, e.index]
      let s8 : State := { s7 with held := s7.held.map fun f => if f.zone == zk then { f with stage := .stopped, tries := 0 } else f }
      s8.unqueue zk 0
    else s5

/-- The median of offsets, limited to ±256 (R260). -/
def medianInt (l : List Int) : Int :=
  let n := sortNat (l.map fun x => (x + 65536).toNat)
  (n.getD (n.length / 2) 65536 : Nat) - 65536

/-- A spot's alignment follows the median of the offsets it chose in a frame (R260). -/
def State.setAlign (s : State) (sl : Nat) (trail : Bool) (offs : List Int) : State :=
  if offs.isEmpty then s
  else s.wrS (if trail then Reg.SLC_ALIGN_TRAIL_ALIGN else Reg.SLC_ALIGN_LEAD_ALIGN) sl (clampInt (-256) 256 (medianInt offs))

/-- A slot whose frame was dropped after it had been written, or begun, is slipped, each under R194 (R192, R970). DEDUCED, assumption
223. -/
def State.slipDropped (s : State) (sl : Nat) (e : Enc) : State :=
  let z := s.zone e.zone
  let o := e.slot - zoneSlot e.zone 0
  if z.state ≠ .open_ ∨ o ≠ z.frontier then s
  else if z.slips.length = 128 then s.shortZone sl e.zone e.slot
  else
    (s.putZone e.zone { z with slips := z.slips ++ [o], frontier := o + 1, changed := true, listDue := true,
                               redo := max z.redo (e.index + 1) }).journalSlip e.zone o

/-- SLOT_VERIFY: the oldest written slot is compared with its readback, once the trail spot has passed over it (R260, R271 to R273,
R218). DESIGN CHOICE, assumptions 39 and 51. -/
def execSlotVerify (sl : Fin 96) (s : State) : Res :=
  let x := s.slice sl
  match x.head, x.written with
  | some h, e :: rest =>
    let s0 := s.putSlice sl { x with written := rest, reverify := x.reverify && !rest.isEmpty }
    if e.dropped then .next (s0.slipDropped sl e).settle
    else if !e.readBack then .next s
    else
      let pfa := pfaOf e.slot e.layer (h % 2) e.mgmt
      let missed := e.back.any fun p => p.2.score < 56
      let s1 := s0.setAlign sl true ((e.back.filter fun p => 56 ≤ p.2.score).map fun p => p.2.off)
      let res := fun (t : State) (o : Nat) => t.lastFrame sl pfa o (hdrSame e.words e.backWords) 151 0 0 missed
      match s1.vfyFail sl e with
      | none =>
        let s2 := (res s1 3).slStat sl 2 1
        .next ((if e.mgmt then s2.mgmtVerified e else s2.verified sl e).settle)
      | some c =>
        let s2 := res s1 4
        if e.mgmt then .next ((s2.slStat sl 3 1).mgmtFailed e).settle else .next (s2.verifyFailed sl h e c).settle
  | _, _ => .next s

/-! ### The frontier search (R809, R973) -/

/-- The offset behind user frame i − 1. -/
def ptrEnd (slips : List Nat) (i : Nat) : Nat := if i = 0 then 0 else frameOffset slips (i - 1) + 1

/-- The search reads on from an offset with the INDEX expected next, over the classes of the slots: INDEXes accepted, offsets
slipped, the offset it ended at, and the slips behind the last INDEX accepted. -/
def searchRun : List SlotFound → Nat → Nat → List Nat × List Nat × Nat × Nat
  | [], o, _ => ([], [], o, 0)
  | f :: r, o, i =>
    let slip := let (a, l, e, k) := searchRun r (o + 1) i; (a, o :: l, e, if a.isEmpty then k + 1 else k)
    match f with
    | .blank => ([], [], o, 0)
    | .damaged => slip
    | .valid q _ =>
      if q = i then let (a, l, e, k) := searchRun r (o + 1) (i + 1); (i :: a, l, e, k) else slip

/-- The classes of the slots of a zone from an offset on, as they were read (R195). -/
def State.classes (s : State) (zk o : Nat) (found : List SlotRead) : List SlotFound :=
  found.zipIdx.map fun p => slotClass p.1 (zonePfa zk (zoneSlot zk (o + p.2))) (s.disc (zoneDisc zk)).discId

/-- The frontier search of an OPEN zone from its journalled FRONTIER (R809): frames accepted, slots slipped, both journalled; a
slip that meets 128 ends it at that slot, as the second part of the answer says (R194). DESIGN CHOICE, assumption 58. -/
def State.frontierSearch (s : State) (zk : Nat) (found : List SlotRead) : State × Bool :=
  let z := s.zone zk
  let o0 := max (ptrEnd z.slips z.jframes) (match z.slips.getLast? with | some p => p + 1 | none => 0)
  let below := z.slips.filter fun p => p < o0
  let i0 := o0 - below.length
  let (acc, slip, stop, tail) := searchRun (s.classes zk o0 found) o0 i0
  let fit := slip.take (128 - below.length)
  let short := fit.length < slip.length
  let front := if short then slip.getD fit.length stop else stop
  let slips := below ++ fit
  let s1 := s.putZone zk { z with slips := slips, frontier := front, frames := front - slips.length, resolve := false,
                                  changed := true, listDue := z.listDue || !fit.isEmpty,
                                  state := if front = 0 then z.state else .open_, jdue := min z.jdue (front - slips.length),
                                  redo := max z.redo (i0 + acc.length + tail) }
  let s2 := fit.foldl (fun t o => t.journalSlip zk o) s1
  ((s2.journalZone zk).raise 0x0B0A [zk % 1024, (acc.filter fun i => i < front - slips.length).length, fit.length], short)

/-- The search of a zone and what follows: held frames it accepts are freed, those of failed WRITEs dropped, the accepted frontier
falls back to FRAMES and the run held behind it (R970, R973), and a zone found full, or short of spares, closes (R194, R229). -/
def State.searchZone (s : State) (zk : Nat) (found : List SlotRead) : State :=
  let (s1, short) := s.frontierSearch zk found
  let n := (s1.zone zk).frames
  let s2 := s1.dropHeld fun f => f.zone == zk && (f.index < n || f.failed)
  let s3 : State := { s2 with held := s2.held.map fun f => if f.zone == zk then { f with stage := .buffered } else f }
  let s4 := (s3.unqueue zk 0).fallBack zk (heldRun s3.held zk 8192 n)
  if short then s4.closeShort zk else if n = 8192 then s4.closeFull zk else s4

/-- ZONE_RESOLVE: the search of a zone that a loss of link, or a mount, left to be resolved (R970, R973). -/
def execZoneResolve (d : Nat) (side : Fin 2) (layer : Fin 16) (zone : Fin 64) (found : List SlotRead) (s : State) : Res :=
  let zk := zoneKey d side layer zone
  if !(s.zone zk).resolve then .next s else .next (s.searchZone zk found).settle

end Sys2Proof.Machine
end

