-- ==== Sys2Proof/Machine/Recovery.lean ====
section
/-!
DEFINITION. The first decode of a frame and the recovery ladder (R245, R260 to R266, R285 to R321, R329 to R335).
-/

namespace Sys2Proof.Machine

/-! ### One decode (R213, R264) -/

/-- The field in which an accepted header disagrees with what its slot should hold (R264): 1 PFA, 2 DISC_ID, 3 MGMT,
4 ZONE_SEQ in the order of the rule. -/
def headerBad (hdr : List Nat) (pfa discId index : Nat) : Option Nat :=
  if hdrPfa hdr ≠ pfa then some 1
  else if hdrDiscId hdr ≠ discId then some 2
  else if hdrMgmt hdr then some 3
  else if hdrZoneSeq hdr ≠ index then some 4
  else none

/-- The counters of a decode (R279). -/
def State.countDecode (s : State) (sl : Nat) (cws : List CwObs) (restored : Nat) : State :=
  let it := cws.foldl (fun a c => a + c.iters) 0
  let ch := cws.foldl (fun a c => a + c.changed) 0
  ((s.slStat sl 6 it).slStat sl 7 ch).slStat sl 8 restored

/-- The alignments of both spots after a frame (R260). -/
def State.realign (s : State) (sl : Nat) (e : Soft) : State :=
  let of_ := fun (tr : Nat) => (e.offs.filter fun p => p.1 % 2 == tr).map Prod.snd
  (s.setAlign sl false (of_ 0)).setAlign sl true (of_ 1)

/-- A frame decoded at rung 1 or 2 feeds the slice and trim calibration of its head (R900, R905). DESIGN CHOICE, assumption 185.
-/
def State.calFrame (s : State) (sl h : Nat) (e : Soft) : State :=
  let x := s.slice sl
  let s1 := s.putSlice sl { x with trimFrames := x.trimFrames + 1 }
  let k := 512 + h
  let v := mget {} s1.cals k
  let u := if v.pending && !v.running then { v with pending := false, running := true, frames := 0, sums := [] } else v
  if u.running && u.staged.isEmpty then
    { s1 with cals := mput s1.cals k { u with frames := u.frames + 1,
                                              sums := (upTo 6).map fun i => u.sums.getD i 0 + e.ys.getD i 0 } }
  else s1

/-- A frame-store entry is freed. -/
def State.freeEntry (s : State) (sl slot : Nat) : State :=
  let x := s.slice sl
  s.putSlice sl { x with store := x.store.filter fun e => e.slot != slot }

/-! ### Ladder bookkeeping -/

/-- The ladder of a slice's slot. -/
def State.ladder? (s : State) (sl slot : Nat) : Option Ladder := s.ladders.find? fun l => l.slice == sl && l.slot == slot

/-- A ladder is changed. -/
def State.putLadder (s : State) (l : Ladder) : State :=
  { s with ladders := s.ladders.map fun x => if x.slice == l.slice && x.slot == l.slot then l else x }

/-- The command whose profile is in force, and its frame number. -/
def State.ladderCmd (s : State) (l : Ladder) : Option (Cmd × Nat) :=
  match l.users with
  | u :: _ => (s.cmd? u.sq u.tag).map fun c => (c, u.idx)
  | [] => none

/-- MAX_RUNG and RUNG_EN of a profile allow a rung (R282, R285). -/
def rungOn (prof r : Nat) : Bool := r ≤ clampNat 1 9 (prof % 16) && bitOf prof (2 + r)

/-- The budget of a command has expired (R287). DESIGN CHOICE, assumption 56. -/
def State.budgetGone (s : State) (c : Cmd) : Bool :=
  c.budgetOut || (c.prof / 2 ^ 16 != 0 && match c.budgetFrom with
    | some t => decide (t + c.prof / 2 ^ 16 * msCycles ≤ s.now)
    | none => false)

/-- The other head of the station has write work (R307). -/
def State.otherWrites (s : State) (h : Nat) : Bool :=
  let o := if h % 2 = 0 then h + 1 else h - 1
  match s.sliceOf o with
  | some sl => s.slMode sl == 2 && (!(s.slice sl).wstore.isEmpty || !(s.slice sl).written.isEmpty)
  | none => false

/-- ALT sets of a slice that are not all zero, from one on (R304). -/
def State.altFrom (s : State) (sl k : Nat) : Option Nat :=
  (upTo 4).find? fun a => k ≤ a && (s.eqGet sl (2 + a)).any fun v => v != 0

/-- The next rung from one on that a ladder tries, none when there is none left; rung 7 is skipped beside write work
(R285, R287, R288, R304, R307). -/
def State.rungFrom (s : State) (l : Ladder) (c : Cmd) : Nat → Nat → Option Nat × Bool
  | 0, _ => (none, false)
  | n + 1, r =>
    if 9 < r then (none, false)
    else if !rungOn c.prof r then s.rungFrom l c n (r + 1)
    else if r ≤ 8 ∧ s.budgetGone c then s.rungFrom l c n (max 9 (r + 1))
    else if r = 7 ∧ s.otherWrites l.head then ((s.rungFrom l c n 8).1, true)
    else if r = 5 ∧ (s.altFrom l.slice 0).isNone then s.rungFrom l c n 6
    else (some r, false)

/-- After the re-reads of a slice's frames it reads on from the first unread position, to which the head seeks (R299). -/
def State.resumeRead (s : State) (l : Ladder) : State :=
  if !l.rereading || s.rereadDue l.slice then s
  else match s.firstUnread l.slice l.head with
    | [] => s
    | p :: r => s.askHead l.head { kind := 2, slot := r.foldl min p / slotBits - 2048, layer := s.layerOf l.head }

/-- A ladder is over: its entry or ladder slot is free (R297). -/
def State.dropLadder (s : State) (l : Ladder) : State :=
  let s1 := if l.started then s.endReread l else s
  let s2 : State := { s1 with ladders := s1.ladders.filter (fun x => !(x.slice == l.slice && x.slot == l.slot)),
                              ladderWait := s1.ladderWait.filter (fun p => p != (l.slice, l.slot)) }
  ((s2.freeEntry l.slice l.slot).showSp (l.head / 2)).resumeRead l

/-- The bank takes the codewords of an attempt that reached a zero syndrome (R309). -/
def bankIn (bank : List (Nat × Option Nat)) (cws : List CwObs) : List (Nat × Option Nat) :=
  (upTo 18).foldl (fun b k =>
    match cws[k]? with
    | some c =>
      if ldpcZero c.info c.par then
        match mfind b k with
        | none => mput b k (some c.info)
        | some v => if v = some c.info then b else mput b k none
      else b
    | none => b) bank

/-- The best attempt at each codeword so far (R315). -/
def bestIn (best : List (Nat × Nat × Nat)) (cws : List CwObs) : List (Nat × Nat × Nat) :=
  (upTo 18).foldl (fun b k =>
    match cws[k]? with
    | some c =>
      let u := unsat c.info c.par
      match mfind b k with
      | some (v, _) => if u < v then mput b k (u, c.info) else b
      | none => mput b k (u, c.info)
    | none => b) best

/-- What the bank gives for a codeword. -/
def Ladder.banked (l : Ladder) (k : Nat) : Option Nat := (mfind l.bank k).getD none

/-- PFA of a ladder's slot. -/
def Ladder.pfa (l : Ladder) : Nat := zonePfa l.zone l.slot

/-! ### Ends of a ladder -/

/-- The frame has passed (R286, R312): delivered to every command that wants it; from rung 4 on FRAME_RECOVERED_DEEP is
raised (R335). -/
def State.ladderPass (s : State) (l : Ladder) (rung : Nat) (bytes : List Nat) : State :=
  let s1 := s.deliverFrame l.zone l.index rung l.slice bytes
  let s2 := if 4 ≤ rung then s1.raise 0x040B [l.slice, l.pfa, rung] else s1
  let s3 := if rung = 2 then s2.calFrame l.slice l.head l.soft else s2
  (s3.dropLadder l).settle

/-- The symbol that best-effort bits stand for; where they are no symbol it is free. DESIGN CHOICE, assumption 54. -/
def State.fillSymbols (s : State) (info : Nat) : List Nat × State :=
  (cwSymbols info).foldl (fun a x =>
    match x with
    | some v => (a.1 ++ [v], a.2)
    | none => let (v, t) := a.2.draw 16; (a.1 ++ [v], t)) ([], s)

/-- The data regions of an unrecovered frame (R314 to R316): the bytes delivered under a profile, and the mask of the unrecovered
regions. A region is recovered when all its symbols come from the bank or were rebuilt by rung 9. DEDUCED, assumption 53. -/
def State.regions (s : State) (l : Ladder) (prof : Nat) : (List Nat × Nat) × State :=
  let syms := wordSymbols l.banked
  let rebuilt : List (List (Option Nat)) :=
    if l.deepest = 9 then
      let cols := (upTo 2048).map fun m => syms.map fun w => w.getD m none
      let dec := cols.map fun c => match rsColumn c with | some d => d.map some | none => c
      (upTo 18).map fun k => dec.map fun c => c.getD k none
    else syms
  let good := (upTo 16).filter fun k => (rebuilt.getD k []).all Option.isSome
  let (out, s1) := (upTo 16).foldl (fun (a : List Nat × State) k =>
    if good.contains k then (a.1 ++ (rebuilt.getD k []).map fun x => x.getD 0, a.2)
    else if bitOf prof 13 then
      let (v, t) := a.2.fillSymbols (match mfind l.best k with | some (_, i) => i | none => 0)
      (a.1 ++ v, t)
    else (a.1 ++ List.replicate 2048 0, a.2)) ([], s)
  let plain := scramble l.pfa (bytesOfSymbols out)
  let bytes := plain.mapIdx fun i b => if good.contains (i / 4096) || bitOf prof 13 then b else 0
  let mask := if l.hdr.isNone then 0xFFFF else ((upTo 16).filter fun k => !good.contains k).foldl (fun a k => a + 2 ^ k) 0
  ((bytes, mask), s1)

/-- One user of a ladder has its frame unrecovered. DEDUCED, assumption 53. -/
def State.ladderBad (s : State) (l : Ladder) (u : Sharer) (mismatch : Bool) : State :=
  match s.cmd? u.sq u.tag with
  | none => s
  | some c =>
    if c.phase = .fixed then s
    else
      let flags := (if l.hdr.isNone then 1 else 0) + (if mismatch then 2 else 0) + (if s.budgetGone c then 4 else 0)
        + (if l.skipped7 then 16 else 0)
      if mismatch then s.frameBad c u.idx l.slice l.deepest flags l.pfa none
      else
        let (r, s1) := s.regions l c.prof
        s1.frameBad c u.idx l.slice l.deepest flags l.pfa (some r)

/-- No rung is left for the profile in force (R311): that command's frame is unrecovered; a later command whose profile allows
deeper rungs goes on from the next rung (R318). DESIGN CHOICE, assumption 54. -/
def State.ladderOut : Nat → State → Ladder → State
  | 0, s, l => s.dropLadder l
  | n + 1, s, l =>
    match l.users with
    | [] => s.dropLadder l
    | u :: rest =>
      let s1 := s.ladderBad l u false
      let l1 := { l with users := rest, started := false, fresh := none, ready := none }
      match s1.ladderCmd l1 with
      | none => State.ladderOut n s1 l1
      | some (c, _) =>
        let s2 := if c.budgetFrom.isNone then s1.updCmd c.sq c.tag fun x => { x with budgetFrom := some s1.now } else s1
        match s2.rungFrom l1 c 10 (l.deepest + 1) with
        | (some r, sk) => s2.putLadder { l1 with rung := r, tries := 0, skipped7 := l.skipped7 || sk }
        | (none, _) => State.ladderOut n s2 l1

/-- A rung has failed: the ladder goes on to the next, or ends (R285). -/
def State.ladderNext (s : State) (l : Ladder) (from_ : Nat) : State :=
  let s1 := if l.started then s.endReread l else s
  let l1 := { l with started := false, fresh := none, ready := none, tries := 0 }
  match s1.ladderCmd l1 with
  | none => s1.dropLadder l1
  | some (c, _) =>
    match s1.rungFrom l1 c 10 from_ with
    | (some r, sk) =>
      let l2 := { l1 with rung := r, skipped7 := l.skipped7 || sk, rereading := l.rereading && rereadRung r }
      let t := s1.putLadder l2
      if l2.rereading then t else t.resumeRead l1
    | (none, sk) => ((s1.putLadder l1).ladderOut (l.users.length + 1) { l1 with skipped7 := l.skipped7 || sk }).settle

/-- The ladders run in this mode: not in KILN (R320). -/
def State.laddersRun (s : State) : Bool := s.mode != mKiln

/-- What an attempt of a ladder learns (R309, R310, R315). -/
def Ladder.learn (l : Ladder) (o : FrameObs) : Ladder :=
  { l with bank := bankIn l.bank o.cws, best := bestIn l.best o.cws, failing := badWords o.cws,
           hdr := match l.hdr with | some h => some h | none => o.hdr }

/-- An accepted header disagrees with the slot (R265): unrecovered for every command. DESIGN CHOICE, assumption 50. -/
def State.ladderMismatch (s : State) (l : Ladder) (field : Nat) : State :=
  let (code, s0) := s.draw 32
  let s1 := ((s0.set1 Reg.SLC_EVT_HEADER_MISMATCH l.slice).slStat l.slice 12 1).raise 0x0405
    [l.slice, l.pfa, if field = 0 then 0 else code]
  let s2 := l.users.foldl (fun t u => t.ladderBad l u true) s1
  (s2.dropLadder l).settle

/-- An attempt is judged (R286): the frame passes at a rung, or the attempt has failed and `next` follows. -/
def State.judge (s : State) (l : Ladder) (rung : Nat) (get : Nat → Option Nat) (cws : List CwObs) (next : State → State) : State :=
  match l.hdr with
  | none => next ((s.countDecode l.slice cws 0).putLadder l)
  | some h =>
    match headerBad h l.pfa (s.disc (zoneDisc l.zone)).discId l.index with
    | some f => (s.putLadder l).ladderMismatch l f
    | none =>
      match finishFrame h l.pfa get with
      | (some bytes, n) => ((s.countDecode l.slice cws n).putLadder l).ladderPass l rung bytes
      | (none, _) => next ((s.countDecode l.slice cws 0).putLadder l)

/-! ### Rung 1 (R264 to R266) -/

/-- A frame is complete: neither spot is over its slot, and every channel bit holds a value or an erasure (R264). -/
def Slice.complete (x : Slice) (e : Soft) : Bool :=
  let past := fun (p : Option Nat) => match p with | some a => a / slotBits == e.slot + 2048 | none => false
  e.full && !past x.lastLead && !past x.lastTrail

/-- The commands that want a frame, oldest first. -/
def State.usersOf (s : State) (zk idx : Nat) : List Sharer :=
  (s.cmds.filter fun c => c.phase == .started && (c.op == 0x10 || c.op == 0x12)).flatMap fun c =>
    ((upTo c.frames.length).filter fun i => match c.frames[i]? with
      | some f => f.zone == zk && f.index == idx && f.fate == .wanted
      | none => false).map fun i => { sq := c.sq, tag := c.tag, idx := i }

/-- Frames go to the ladder: their commands' budgets run from the first of them (R287). -/
def State.markLadder (s : State) (us : List Sharer) : State :=
  us.foldl (fun t u => t.updCmd u.sq u.tag fun c =>
    { c.setFrame u.idx fun f => { f with fate := .ladder } with
        budgetFrom := match c.budgetFrom with | some b => some b | none => some t.now }) s

/-- Iterations per codeword of a slice's first decode (R264, R279). -/
def State.maxIter (s : State) (sl : Nat) : Nat := clampNat 1 32 (s.rd Reg.SLC_DET_CFG_MAX_ITER sl)

/-- The header stage, once row 0 of an entry is complete (R213, R264). -/
def Soft.headed (e : Soft) : Soft :=
  if e.hdrDone || !e.rowFull 0 then e else { e with hdrDone := true, hdr := headerOf [e.content 0 0] }

/-- FRAME_DECODE: the header of a slot whose row 0 is complete is checked; a complete frame is decoded, delivered, or sent to the
ladder (R260, R264 to R266). -/
def execFrameDecode (sl : Fin 96) (slot : Nat) (s : State) : Res :=
  let x := s.slice sl
  match x.head, x.entry slot with
  | some h, some e0 =>
    let e := e0.headed
    let s1 := s.putSlice sl (x.putEntry e)
    if (s.ladder? sl slot).isSome then .next s
    else
      match s.wantedAt h slot with
      | none => .next ((s1.realign sl e).freeEntry sl slot)
      | some (zk, idx) =>
        let pfa := zonePfa zk slot
        let us := s1.usersOf zk idx
        let copies := (headerCopies (e.content 0 0)).length
        let l : Ladder := { slice := sl, head := h, slot := slot, zone := zk, index := idx, users := us, soft := e, hdr := e.hdr }
        let last := fun (t : State) (out failed iter : Nat) =>
          t.lastFrame sl pfa out copies e.trailRows.length failed (min 63 iter) (!e.missed.isEmpty)
        match e.hdr.bind fun hd => headerBad hd pfa (s.disc (zoneDisc zk)).discId idx with
        | some f => .next ((last (s1.realign sl e) 2 0 0).ladderMismatch l f)
        | none =>
          if !x.complete e then .next s1
          else
            let o := decodeSoft (s.maxIter sl) e [] fun _ => none
            let bad := badWords o.cws
            let iter := o.cws.foldl (fun a c => max a c.iters) 0
            let s2 := s1.realign sl e
            let toLadder := fun (t : State) =>
              let t1 := ((last (t.countDecode sl o.cws 0) 1 bad.length iter).slStat sl 1 1).markLadder us
              let l1 := { l with failing := bad, bank := bankIn [] o.cws, best := bestIn [] o.cws }
              ({ t1 with ladders := t1.ladders ++ [l1] } : State).ladderNext l1 2
            match e.hdr with
            | none => .next (toLadder s2)
            | some hd =>
              match finishFrame hd pfa (obsWord o.cws) with
              | (some bytes, n) =>
                let s3 := ((last s2 0 bad.length iter).slStat sl 0 1).countDecode sl o.cws n
                .next (((s3.deliverFrame zk idx 1 sl bytes).calFrame sl h e).freeEntry sl slot).settle
              | (none, _) => .next (toLadder s2)
  | _, _ => .next s

/-! ### Rungs 2 and 3 (R290 to R295) -/

/-- The budget of a ladder's command is over and its rung has not started: it goes on to rung 9 (R287, R288). -/
def State.tooLate (s : State) (l : Ladder) : Bool :=
  !l.started && decide (l.rung ≤ 8) && (match s.ladderCmd l with | some (c, _) => s.budgetGone c | none => false)

/-- LADDER_RUNG_DECODE: rung 2 (R290): failing codewords are decoded again from the stored values. -/
def execLadderRungDecode (sl : Fin 96) (slot : Nat) (s : State) : Res :=
  match s.ladder? sl slot with
  | none => .next s
  | some l =>
    if l.rung ≠ 2 ∨ !s.laddersRun then .next s
    else if s.tooLate l then .next (s.ladderNext l 9)
    else
      let keep := fun (k : Nat) => if l.failing.contains k then none else (l.banked k).map fun i => (⟨i, ldpcParity i, 0, 0⟩ : CwObs)
      let o := decodeSoft ladderIters l.soft [] keep
      let l1 := { l.learn o with deepest := 2, shares := rowShares o.cws }
      .next (s.judge l1 2 (obsWord o.cws) o.cws fun t => t.ladderNext l1 3)

/-- ROW_SHIFT_SEARCH: rung 3 (R291 to R295). -/
def execRowShiftSearch (sl : Fin 96) (slot : Nat) (s : State) : Res :=
  match s.ladder? sl slot with
  | none => .next s
  | some l =>
    if l.rung ≠ 3 ∨ !s.laddersRun then .next s
    else if s.tooLate l then .next (s.ladderNext l 9)
    else
      let (shifts, o) := rowShift l.soft l.shares l.hdr.isSome
      let l1 := { l.learn o with deepest := 3, copies := [{ soft := l.soft, failing := (badWords o.cws).length, shifts := shifts }] }
      .next (s.judge l1 3 (obsWord o.cws) o.cws fun t => t.ladderNext l1 4)

/-! ### Re-reads (R296 to R308) -/

/-- LADDER_SLOT_CLAIM: the soft values move to the lowest free ladder slot and the entry is freed; the frame waits where
none is free (R296, R297). -/
def execLadderSlotClaim (sl : Fin 96) (slot : Nat) (s : State) : Res :=
  match s.ladder? sl slot with
  | none => .next s
  | some l =>
    if !rereadRung l.rung ∨ l.pool.isSome ∨ !s.laddersRun then .next s
    else
      let used := s.ladders.filterMap fun x => x.pool
      let me := (l.slice, l.slot)
      let ahead := match s.ladderWait with | [] => false | w :: _ => w != me
      match (upTo 64).find? fun i => !used.contains i with
      | some i =>
        if ahead then .next s
        else
          let cs := if l.copies.isEmpty then [{ soft := l.soft, failing := l.failing.length }] else l.copies
          let s1 : State := { s with ladderWait := s.ladderWait.filter fun p => p != me }
          .next ((s1.freeEntry sl slot).putLadder { l with pool := some i, copies := cs })
      | none =>
        let s1 : State := if s.ladderWait.contains me then s else { s with ladderWait := s.ladderWait ++ [me] }
        .next (s1.raiseWin 0x040C 0 [sl, s1.ladderWait.length] false)

/-- The re-reads of a rung (R288). -/
def rereads (r : Nat) : Nat := if r = 7 then 2 else 4

/-- TRK_OFS of an offset in hundredths of the track pitch: 0.5 × sin(2π x), s0.23 (R384). -/
def trkOfs (pc : Int) : Int := roundDiv (sinHalf (pc * 2 ^ 41 / 100)) (2 ^ 38)

/-- REL_OFS of an offset in nm: REL_SLOPE × offset in µm (R384). -/
def State.relOfs (s : State) (h : Nat) (nm : Int) : Int := sat 24 (roundDiv (s.rdS Reg.STN_HD_GAIN_REL_SLOPE h * nm) 1000)

/-- A frame may have its re-reads now: its slice has no pass in progress, no other frame of the slice is at its re-reads,
and none of a lower slot waits for them (R299). -/
def State.mayReread (s : State) (l : Ladder) : Bool :=
  let x := s.slice l.slice
  !(x.pass.on && s.unread l.slice l.head) && !(s.ladders.any fun y => y.slice == l.slice && y.slot != l.slot
    && (y.rereading || (!l.rereading && rereadRung y.rung && y.pool.isSome && y.slot < l.slot)))

/-- Reads of a frame that are held, wait to be decoded or are in progress. -/
def Ladder.reads (l : Ladder) : Nat := l.copies.length + (if l.ready.isSome then 1 else 0) + (if l.fresh.isSome then 1 else 0)

/-- The next re-read of a rung, by how many have begun: none when the rung has had all of its own (R288, R304, R306, R308). -/
def State.rungTry (s : State) (l : Ladder) (r tries : Nat) : Option Nat :=
  if r = 5 then s.altFrom l.slice tries
  else if r = 8 then (if l.reads < 4 then some tries else none)
  else if tries < rereads r then some tries else none

/-- The next re-read of a frame: its rung and number, and whether rung 7 was skipped on the way (R288, R302). -/
def State.nextTry (s : State) (l : Ladder) : Option (Nat × Nat) × Bool :=
  match s.rungTry l l.rung l.tries with
  | some k => (some (l.rung, k), false)
  | none =>
    match s.ladderCmd l with
    | none => (none, false)
    | some (c, _) =>
      match s.rungFrom l c 10 (l.rung + 1) with
      | (some r, sk) => if rereadRung r then ((s.rungTry l r 0).map fun k => (r, k), sk) else (none, sk)
      | (none, sk) => (none, sk)

/-- The settings of a rung's re-read are applied while the slot is away from the head (R301 to R306, R384). -/
def State.applyTry (s : State) (l : Ladder) (r k : Nat) : State :=
  let h := l.head
  match r with
  | 4 => s.headPrm h 2 (trkOfs ([8, -8, 16, -16].getD k 0))
  | 5 => (s.putSlice l.slice { s.slice l.slice with saved := s.eqGet l.slice 0 }).eqPut l.slice 0 (s.eqGet l.slice (2 + k))
  | 6 => s.headPrm h 3 (s.relOfs h ([30, -30, 60, -60].getD k 0))
  | _ => s

/-- LADDER_REREAD: the slot is to be read again under the next offset, set or speed (R299 to R308): these are applied, and for the
first of a frame's re-reads the head returns to the slot; later ones follow by the one-track steps of R300. -/
def execLadderReread (sl : Fin 96) (slot : Nat) (s : State) : Res :=
  match s.ladder? sl slot with
  | none => .next s
  | some l =>
    if !rereadRung l.rung ∨ l.pool.isNone ∨ l.fresh.isSome ∨ !s.laddersRun ∨ !s.mayReread l then .next s
    else if s.tooLate l then .next (s.ladderNext l 9)
    else
      match s.nextTry l with
      | (none, _) => .next s
      | (some (r, k), sk) =>
        let h := l.head
        let s1 := (s.endReread l).applyTry l r k
        let s2 := s1.putLadder { l with rung := r, started := true, tries := k + 1, deepest := max l.deepest r, rereading := true,
                                        fresh := some { slot := l.slot }, skipped7 := l.skipped7 || sk }
        let s3 := s2.showSp (h / 2)
        if l.rereading then .next s3
        else
          let s4 := s3.putSlice sl { s3.slice sl with pass := .off }
          let s5 := if s.layerOf h = zoneLayer l.zone then s4 else s4.askHead h { kind := 3, layer := zoneLayer l.zone, reread := true }
          .next (s5.askHead h { kind := 2, slot := slot, layer := zoneLayer l.zone, reread := true })

/-- A read goes into a copy: a free one, or in place of the copy with the most failing codewords other than copy 0, the
older of equals (R298). -/
def putCopy (cs : List Copy) (c : Copy) : List Copy :=
  if cs.length < 4 then cs ++ [c]
  else
    let pick := [1, 2, 3].foldl (fun b i =>
      let x := cs.getD i c
      let y := cs.getD b c
      if y.failing < x.failing ∨ (y.failing = x.failing ∧ x.age < y.age) then i else b) 1
    cs.mapIdx fun i x => if i = pick then c else x

/-- A re-read is decoded as in rung 2, with rung 3 when that fails (R302): the first decode, the shifts kept, the last decode. -/
def rereadTry (e : Soft) (hdr : Option (List Nat)) (pfa : Nat) : FrameObs × List (Nat × Int) × FrameObs :=
  let o := decodeSoft ladderIters e [] fun _ => none
  let ok := match hdr.orElse (fun _ => o.hdr) with
    | some h => (finishFrame h pfa (obsWord o.cws)).1.isSome
    | none => false
  if ok then (o, [], o) else (o, rowShift e (rowShares o.cws) (hdr.isSome || o.hdr.isSome))

/-- REREAD_DECODE: the re-read that waits is decoded (R298, R302). When it passes, a re-read in progress is discarded; when it fails
and no further one follows, the ladder goes on. -/
def execRereadDecode (sl : Fin 96) (slot : Nat) (s : State) : Res :=
  match s.ladder? sl slot with
  | none => .next s
  | some l =>
    match l.ready with
    | none => .next s
    | some (rung, e) =>
      if !s.laddersRun then .next s
      else
        let (o1, shifts, o) := rereadTry e l.hdr l.pfa
        let age := l.copies.foldl (fun a c => max a c.age) 0 + 1
        let c : Copy := { soft := e, failing := (badWords o.cws).length, age := age, shifts := shifts }
        let whole := match l.fresh with | some f => f.full | none => false
        let l0 := (l.learn o1).learn o
        let wait := if whole then l.fresh.map fun f => (l.rung, f) else none
        let l1 := { l0 with ready := wait, fresh := if whole then none else l.fresh, copies := putCopy l.copies c }
        .next (s.judge l1 rung (obsWord o.cws) o.cws fun t =>
          if l1.fresh.isSome || l1.ready.isSome || (t.nextTry l1).1.isSome || (l1.rung == 8 && l1.started) then t
          else t.ladderNext l1 (l1.rung + 1))

/-- The sums of the four copies' values, saturated to ±12, each under the shifts kept for it (R308). -/
def sumCopies (cs : List Copy) : Array (Array Int) :=
  let vs := cs.map fun c => c.soft.contents c.shifts
  ((upTo 151).map fun r => ((upTo 7680).map fun i =>
    clampInt (-12) 12 (vs.foldl (fun a v => a + contentAt v r i) 0)).toArray).toArray

/-- SOFT_COMBINE: rung 8: the values of the four copies are summed and decoded, each sum counting a quarter of a single value; the
header copies of every read are combined (R308). -/
def execSoftCombine (sl : Fin 96) (slot : Nat) (s : State) : Res :=
  match s.ladder? sl slot with
  | none => .next s
  | some l =>
    if l.rung ≠ 8 ∨ l.copies.length < 4 ∨ l.fresh.isSome ∨ l.ready.isSome ∨ !s.laddersRun then .next s
    else if s.tooLate l then .next (s.ladderNext l 9)
    else
      let v := sumCopies l.copies
      let o : FrameObs := { hdr := headerOf (l.copies.map fun c => c.soft.content (mget 0 c.shifts 0) 0), copies := 0,
                            cws := decodeWords (readWeight / 4) ladderIters v fun _ => none }
      let l1 := { l.learn o with deepest := 8 }
      .next (s.judge l1 8 (obsWord o.cws) o.cws fun t => t.ladderNext l1 9)

/-- OUTER_ERASURE_DECODE: rung 9, over the bank (R309, R310). -/
def execOuterErasureDecode (sl : Fin 96) (slot : Nat) (s : State) : Res :=
  match s.ladder? sl slot with
  | none => .next s
  | some l =>
    if l.rung ≠ 9 ∨ !s.laddersRun then .next s
    else
      match s.ladderCmd l with
      | none => .next (s.dropLadder l).settle
      | some (c, _) =>
        if !rungOn c.prof 9 then .next (s.ladderNext l 10)
        else
          let l1 := { l with deepest := 9 }
          .next (s.judge l1 9 l1.banked [] fun t => t.ladderNext l1 10)

/-- LADDER_BUDGET_EXPIRE: a command's budget is over (R287, R288): frames of it whose rung from 2 to 8 has not started go on to
rung 9. In KILN the budget does not run (R320). DESIGN CHOICE, assumption 56. -/
def execLadderBudgetExpire (sq tag : Nat) (s : State) : Res :=
  match s.cmd? sq tag with
  | none => .next s
  | some c =>
    match c.budgetFrom with
    | none => .next s
    | some t0 =>
      if c.prof / 2 ^ 16 = 0 ∨ c.budgetOut ∨ !s.laddersRun ∨ c.phase ≠ .started then .next s
      else
        let s1 := (s.advanceTo (t0 + c.prof / 2 ^ 16 * msCycles)).updCmd sq tag fun x => { x with budgetOut := true }
        .next ((s1.ladders.filter fun l => !l.started && l.rung ≤ 8 && (match l.users with | u :: _ => u.sq == sq && u.tag == tag | [] => false)).foldl
          (fun t l => t.ladderNext l 9) s1)

/-- A command that reads a frame already in the ladder for another takes that ladder's outcome (R318). -/
def State.joinLadders (s : State) (c : Cmd) : State :=
  (upTo c.frames.length).foldl (fun t i =>
    match c.frames[i]? with
    | none => t
    | some f =>
      match t.ladders.find? fun l => l.zone == f.zone && l.index == f.index with
      | none => t
      | some l =>
        let u : Sharer := { sq := c.sq, tag := c.tag, idx := i }
        (t.putLadder { l with users := l.users ++ [u] }).updCmd c.sq c.tag fun x =>
          { x.setFrame i fun y => { y with fate := .ladder } with
              budgetFrom := match x.budgetFrom with | some b => some b | none => some t.now }) s

/-- A command leaves the ladders (R319): a frame it shares goes on for the others; its own work stops. -/
def State.leaveLadders (s : State) (sq tag : Nat) : State :=
  (s.ladders.filter fun l => l.users.any fun u => u.sq == sq && u.tag == tag).foldl (fun t l =>
    let rest := l.users.filter fun u => !(u.sq == sq && u.tag == tag)
    if rest.isEmpty then t.dropLadder l else t.putLadder { l with users := rest }) s

end Sys2Proof.Machine
end

