-- ==== Sys2Proof/Machine/StationLink.lean ====
section
/-!
DEFINITION. The commands of the station link that reach beyond the port: the scheduled messages, identification and
measurement, retraining and loss of link (R112 to R125, R149 to R164, R321, R376, R393, R412, R503, R967, R968, R973).
-/

namespace Sys2Proof.Machine

/-! ### Scheduled messages, downstream -/

/-- Ports send PERIOD and ACTUATE in this mode (R375). -/
def State.schedules (s : State) : Bool := s.mode != mEmber && s.mode != mBanked

/-- The port runs of a port that leaves ACTIVE, retrains or errs are abandoned (R899). -/
def State.portLeft (s : State) (n : Nat) : State := (s.abandonCal 0 n).stationOff n

/-- Step 4 of R973 at the moment of the loss: what a head held written or encoded is to be resolved; held frames stay, those
of WRITEs that end now are marked. -/
def State.loseFrames (s : State) (h : Nat) : State :=
  let zs := ((s.held.filter fun f => s.zoneHead f.zone == some h && (f.stage == .encoded || f.stage == .written || !s.writeEnded f)).map
    fun f => f.zone).eraseDups
  let s1 := zs.foldl (fun t k => t.putZone k { t.zone k with resolve := true }) s
  let keep := fun (f : Held) =>
    if s.zoneHead f.zone == some h then
      { f with stage := if f.stage == .stopped then .stopped else .buffered, failed := f.failed || !s.writeEnded f }
    else f
  let s2 : State := { s1 with held := s1.held.map keep }
  match s2.sliceOf h with
  | none => s2
  | some sl =>
    let x := s2.slice sl
    let s3 := ((x.wstore ++ x.written).filter fun e => e.mgmt && e.sent != 0).foldl (fun t e => t.mgmtFailed e) s2
    s3.putSlice sl { x with store := [], wstore := [], written := [], unacked := [], reverify := false, pass := .off, ahead := [],
                            lastLead := none, lastTrail := none, trace := {} }

/-- The ladders of a station are dropped (R321). -/
def State.dropLadders (s : State) (n : Nat) : State :=
  (s.ladders.filter fun l => l.head / 2 == n).foldl (fun t l => t.dropLadder l) s

/-- A loss of link, but for the state the port goes to (R163, R973): 0 lane lock, 1 SENSOR missing, 2 ENABLE cleared. DESIGN
CHOICE, assumption 30. -/
def State.linkLost (s : State) (n cause : Nat) : State :=
  let s1 := s.putStn n { s.stn n with lost := true }
  let s2 := (s1.loseFrames (2 * n)).loseFrames (2 * n + 1)
  let s3 := (s2.failStation n).dropLadders n
  let s4 := s3.putStn n { s3.stn n with ready := false, stepUnacked := [], safeNow := 0, afterSafe := .stay, lost := false }
  (((s4.portLeft n).set1 Reg.STN_LINK_EVT_DOWN n).raise 0x0302 [n, cause]).settle

/-- PERIOD_PRESENT: at phase 4,300 each ACTIVE port is given the PERIOD of the next period (R112, R116, R375); in
SAFE_DONE every PERIOD carries SAFE_NOW (R376). A port whose four periods of SAFE_NOW are over goes on as it is to: a port disabled
is lost to DOWN (R968), and leaves it at once where ENABLE has been set again (R152). -/
def execPeriodPresent (s : State) : Res :=
  let s1 := (s.advancePhase 4300).awaitBatches
  if !s1.schedules then .next s1
  else
    .next ((upTo 128).foldl (fun t n =>
      if t.active n then
        let dis := (t.stn n).safeNow = 1 ∧ (t.stn n).afterSafe = .disable
        let u := t.periodOf n t.loop.safeDone
        if u.active n then u
        else if dis then
          let v := u.linkLost n 2
          if v.flag Reg.STN_LINK_CTRL_ENABLE n then v.toWait n v.now else v
        else u.portLeft n
      else t) s1)

/-- The word of a station in the safe program (R376), in period k. -/
def State.safeWord (s : State) (k n w : Nat) : Option Int :=
  let t0 := s.loop.safeFrom.getD s.now
  let dur := s.rd1 Reg.LPE_SAFE_CFG_RAMP_MS 0 * msCycles
  let from_ := mget 0 s.loop.safeBase (wordKey n w)
  let ramp := fun (b : Int) => some (gateValue s.now (.ramp from_ b t0 dur))
  if w = 4 ∨ w = 5 ∨ w = 12 ∨ w = 13 then some 0
  else if w = 0 ∨ w = 8 then ramp (s.rdS Reg.LPE_SAFE_CFG_FOCUS_PARK 0)
  else if w = 1 ∨ w = 2 ∨ w = 9 ∨ w = 10 then ramp 0
  else if k % 4 ≠ 3 then none
  else if w = 19 then
    let stop : Int := s.spRd n Reg.STN_SP_BRAKE_CFG_STOP_RPM
    if s.loop.coast.contains n || decide (((rpmOf (s.obsSpeed n)).natAbs : Int) < stop) then some 0 else none
  else if 16 ≤ w ∧ w ≤ 18 ∧ s.loop.dutyNew.contains (wordKey n w) then some (mget 0 s.loop.duty (wordKey n w))
  else none

/-- The word of a station outside the safe program, in period k (R342, R343, R371, R372, R382). -/
def State.actWord (s : State) (k n w : Nat) : Option Int :=
  let key := wordKey n w
  let i := n * 24 + w
  match s.gate n w with
  | some g => some (gateValue s.now g)
  | none =>
    if 20 ≤ w ∨ w = 7 ∨ w = 15 then none
    else if 16 ≤ w then
      if k % 4 = 3 ∧ s.loop.dutyNew.contains key then
        some (if s.flag Reg.LPE_OUT_OVR i then s.rdS Reg.LPE_OUT_VALUE i else mget 0 s.loop.duty key)
      else none
    else if s.flag Reg.LPE_OUT_OVR i then some (s.rdS Reg.LPE_OUT_VALUE i)
    else mfind (s.ranIn k) key

/-- Words as they travel: the value in [23:0], VALID in [24], two to a block (R118). -/
def actBlocks (ws : List (Option Int)) : List Nat :=
  let enc := fun (x : Option Int) => match x with | some v => unsignedOf 24 v + 2 ^ 24 | none => 0
  (upTo 12).map fun i => enc (ws.getD (2 * i) none) + enc (ws.getD (2 * i + 1) none) * 2 ^ 32

/-- One port's ACTUATE. -/
def State.actuateOf (s : State) (k n : Nat) : State :=
  let ws := (upTo 24).map fun w => if s.mode = mCinder then s.safeWord k n w else s.actWord k n w
  let s1 := s.send n 0x02 0 (actBlocks ws)
  let sent := (upTo 24).foldl (fun m w => match ws.getD w none with | some v => mput m (wordKey n w) v | none => m) s1.loop.sent
  { s1 with loop := { s1.loop with sent := sent } }

/-- ACTUATE_PRESENT: at phase 2,500 each ACTIVE port is given the period's output words (R112, R118, R375). -/
def execActuatePresent (s : State) : Res :=
  let s1 := s.advancePhase 2500
  if !s1.schedules then .next s1
  else
    let k := s1.period
    let on := (upTo 128).filter s1.active
    let s2 := on.foldl (fun t n => t.actuateOf k n) s1
    if k % 4 = 3 then
      .next { s2 with loop := { s2.loop with dutyNew := s2.loop.dutyNew.filter fun key => !on.contains (key / 32) } }
    else .next s2

/-! ### SENSOR -/

/-- A count of consecutive periods. -/
def run (ok : Bool) (n : Nat) : Nat := if ok then n + 1 else 0

/-- What the head sequencer watches in each SENSOR, and the gates that it releases on it (R393, R399, R403, R405, R412). `fe0` is
the guide focus error of the SENSOR before. -/
def State.watchHead (s : State) (h k : Nat) (fe0 : Int) : State :=
  let n := h / 2
  let v := fun w => s.sensor n (headWord h w)
  let fe := v 0
  let te := v 1
  let sum := v 2
  let re := v 3
  let x := s.head h
  let w := x.watch
  let acq := s.rdS Reg.STN_HD_FOC_CFG_SUM_ACQ h
  let teL : Int := s.rd Reg.STN_HD_LOSS_CFG_TE_LOSS h * 2 ^ 14
  let reL : Int := s.rd Reg.STN_HD_LOSS_CFG_REL_LOSS h * 2 ^ 14
  let read := s.rdS Reg.STN_HD_PWR_READ_SP h
  let dp := v 4 - read
  let relSlot := (s.writerOf n (headWord h 2)).map fun sl => s.rd Reg.DESC_CTRL_PHASE sl
  let quarter := k % 4 == relSlot.getD 1 % 4
  let g := fun i => (s.gate n (headWord h i)).isSome
  let selFree := match s.writerOf n (headWord h 4) with | some sl => s.rd Reg.LPE_SLOT_STAT_SEL sl == 0 | none => true
  let q := fun (ok : Bool) (c : Nat) => if quarter then run ok c else c
  let w1 := { w with
    focIn := run (acq ≤ sum && decide (fe.natAbs < 2 ^ 20)) w.focIn, trkIn := run (decide ((te.natAbs : Int) < teL) && !g 1) w.trkIn,
    relIn := q (decide ((re.natAbs : Int) < reL) && !g 2) w.relIn, pwrIn := q (decide (16 * dp.natAbs ≤ read.natAbs)) w.pwrIn,
    sumLow := run (decide (sum * 256 < acq * (s.rd Reg.STN_HD_LOSS_CFG_SUM_LOSS h : Int)) && !g 0) w.sumLow,
    teOut := run (decide (2 * teL < (te.natAbs : Int)) && !g 1) w.teOut,
    relOut := q (decide (2 * reL < (re.natAbs : Int)) && !g 2) w.relOut,
    pwrOut := q (x.readOn && selFree && decide (read.natAbs < 4 * dp.natAbs)) w.pwrOut, sumMax := max w.sumMax sum }
  let s1 := s.putHead h { x with watch := w1 }
  let acquiring := x.op.any fun r => r.kind == 1 || r.kind == 6
  let s2 := if acquiring && x.stage == 0 && g 0 && (s.sweepBack h).isNone && acq ≤ sum && (decide (fe < 0) != decide (fe0 < 0)) then s1.releaseHead h 0 else s1
  let settled := x.op.isSome && x.longMoves != 0 && x.stage == 9 && s.axState h != axMoving && s.axState h != axHoming
    && decide (x.stageAt ≤ s.now)
  let s3 := if ((acquiring && x.stage == 1) || settled) && g 1 && decide (te.natAbs ≤ s.rd Reg.STN_HD_SEEK_CFG_TE_CAPTURE h * 2 ^ 15) then
    s2.freeTrack h else s2
  if x.onRelay && g 2 && quarter && x.dueAt ≤ s.now && decide ((re.natAbs : Int) < 2 * reL) then s3.releaseHead h 2 else s3

/-- STEP_ACK acknowledges entries; one whose due time is past is an underrun (R136, R143, R503). -/
def State.ackSteps (s : State) (n ack : Nat) : State :=
  let x := s.stn n
  let left := dropAcked ack x.stepUnacked
  let late := (x.stepUnacked.take (x.stepUnacked.length - left.length)).filter fun u => u.due < s.now
  let s1 := s.putStn n { x with stepUnacked := left }
  late.foldl (fun t u =>
    let a := 2 * n + u.tag % 2
    let speed := stepQ / max 1 (bitsOf (u.blocks.headD 0) 0 32)
    let t1 := t.raise 0x0706 [a, speed]
    match (t1.axis a).plan with
    | some p => if p.s < speed then t1.loseRef a 2 else t1
    | none => if t1.rd Reg.MOT_AX_VSTART_VALUE a < speed then t1.loseRef a 2 else t1) s1

/-- WR_ACK of a head acknowledges WRDATA messages (R124, R136). -/
def State.ackWrdata (s : State) (h ack : Nat) : State :=
  match s.sliceOf h with
  | some sl => let x := s.slice sl; s.putSlice sl { x with unacked := dropAcked ack x.unacked }
  | none => s

/-- The front end enters or leaves its safe state, with its FE_SAFE_CAUSE (R176, R178, R388, R451). DESIGN CHOICE, assumption 64. -/
def State.setFeSafe (s : State) (n : Nat) (safe : Bool) (cause : Nat) : State :=
  let was := s.flag Reg.STN_LINK_STATUS_FE_SAFE n
  let s1 := s.wrB Reg.STN_LINK_STATUS_FE_SAFE n safe
  if safe && !was then
    ((s1.set1 Reg.STN_LINK_EVT_FE_SAFE_ENTERED n).raise 0x0305 [n, cause]).stationOff n
  else if !safe && was then s1.stationOn n
  else s1

/-- SENSOR_DELIVERED: the VALID words replace those held, the status word acts, and the sequencers look at the sensors
(R122 to R125). `cause` is what FE_SAFE_CAUSE holds. -/
def execSensorDelivered (n : Fin 128) (m : LinkMsg) (cause : BitVec 4) (s : State) : Res :=
  if !s.active n then .next s
  else if !msgOk 0x81 m then .next (s.msgErr n)
  else
    let s0 := s.advancePhase 1100
    let k := s0.period
    let x := s0.stn n
    let word := fun w => bitsOf (m.blocks.getD (w / 2) 0) (32 * (w % 2)) 32
    let st := word 23
    let vals := (upTo 24).map fun w => if w < 23 && !bitOf (word w) 24 then x.sensor.getD w 0 else word w % 2 ^ 24
    let fe0 := s0.sensor n 0
    let fe1 := s0.sensor n 8
    let s1 := s0.putStn n { x with sensor := vals, stale := false, missRun := 0, rxSeq := mput x.rxSeq (seqSpace 0x81 0) (msgSeq m) }
    let s2 := (((s1.ackWrdata (2 * n) (bitsOf st 0 8)).ackWrdata (2 * n + 1) (bitsOf st 8 8)).ackSteps n (bitsOf st 16 8)).bump
      Reg.STN_LINK_MISS_FE_MISS n (bitsOf st 26 6)
    let s3 := s2.setFeSafe n (bitOf st 24) cause.toNat
    let s4 := (((s3.watchHead (2 * n) k fe0).watchHead (2 * n + 1) k fe1).opcMonitor (2 * n)).opcMonitor (2 * n + 1)
    .next (if k % 4 = 0 then (s4.keepBemf n).pulseBrake n else s4)

/-- SENSOR_MISS: a SENSOR not delivered intact: the last good contents, marked stale (R125, R178). -/
def execSensorMiss (n : Fin 128) (s : State) : Res :=
  if !s.active n then .next s
  else
    let s1 := s.advancePhase 1100
    let x := s1.stn n
    let s2 := (s1.putStn n { x with stale := true, missRun := x.missRun + 1 }).bump Reg.STN_LINK_MISS_SENSOR_MISS n 1
    .next (s2.raiseWin 0x0306 n [n] true)

/-! ### Training that reaches beyond the port -/

/-- LINK_IDENTIFY_DONE: the identity registers are read (R152); a changed BOOT_COUNT means that the sleds have lost their
reference (R175, R509). -/
def execLinkIdentifyDone (n : Fin 128) (feId feRev feLat feBuf feBoot : Nat) (s : State) : Res :=
  if s.port n ≠ lkIdentify then .next s
  else
    let x := s.stn n
    let old := s.rd Reg.STN_FE_BOOT_VALUE n
    let s1 := (s.wr Reg.STN_FE_ID_VALUE n feId).wr Reg.STN_FE_BOOT_VALUE n feBoot
    let s2 := s1.putStn n { x with feRev := feRev % 2 ^ 32, feLat := feLat % 2 ^ 32, feBuf := feBuf % 2 ^ 24, bootSeen := true, attemptAt := s.now }
    let s3 := s2.setPort n lkMeasure
    if x.bootSeen ∧ old ≠ feBoot % 2 ^ 16 then
      let s4 := (s3.set1 Reg.STN_LINK_EVT_POWER_CYCLED n).raise 0x0309 [n, feBoot % 2 ^ 16]
      .next ((s4.loseRef (2 * n) 0).loseRef (2 * n + 1) 0)
    else .next s3

/-- LINK_MEASURE_DONE: RAW is the median of 16 ECHOs; the port is ACTIVE, with no RAW measured since, or fails with LINK_LATENCY (R149
to R153, R177). DESIGN CHOICE, assumption 28. -/
def execLinkMeasureDone (n : Fin 128) (echoes : List (Nat × Nat)) (s : State) : Res :=
  if s.port n ≠ lkMeasure ∨ echoes.length ≠ 16 then .next s
  else
    let raw := medianNat (echoes.map fun e => raw64 e.1 e.2)
    let x := s.stn n
    let s1 := (s.setPads n raw).showRaw n raw
    if 600 * 64 < raw ∨ 48 < actDly x ∨ 400 < senDly x then
      .next ((s1.raise 0x0304 [n, raw / 64, actDly x, senDly x]).trainFail n lkMeasure (s.now + hz))
    else
      let s2 := [Reg.STN_LINK_ERR_MSG_ERR, Reg.STN_LINK_ERR_BLOCK_ERR, Reg.STN_LINK_MISS_FE_MISS,
        Reg.STN_LINK_MISS_SENSOR_MISS].foldl (fun t f => t.clr f n) s1
      let s3 := s2.putStn n { s2.stn n with engine := false, inBatch := false, lost := false, ready := true, missRun := 0,
                                            stale := true, rxSeq := [], stepUnacked := [], blockWin := none, hdrs := [],
                                            batchDone := true, echoAt := s2.now }
      let s4 := ((s3.clr Reg.STN_LINK_LAT_LAT_VALID n).setPort n lkActive).set1 Reg.STN_LINK_EVT_UP n
      .next ((((s4.raise 0x0301 [n, raw / 64]).loadPort n).armCal 0 n).stationOn n)

/-- Either head of a station is writing. -/
def State.writingStn (s : State) (n : Nat) : Bool :=
  s.flag Reg.STN_HD_STATUS_WRITING (2 * n) || s.flag Reg.STN_HD_STATUS_WRITING (2 * n + 1)

/-- A port carries its last four SAFE_NOW before it is disabled (R968). -/
def State.disabling (s : State) (n : Nat) : Bool := (s.stn n).afterSafe == .disable && decide (0 < (s.stn n).safeNow)

/-- A retrain begins: four periods of SAFE_NOW, then WAIT (R159). -/
def State.beginRetrain (s : State) (n : Nat) : State :=
  (((s.clr Reg.STN_LINK_CTRL_RETRAIN n).clr Reg.STN_LINK_STATUS_RETRAIN_PENDING n).abandonCal 0 n).safeNow n 4 .retrain

/-- RETRAIN_REQUEST: a write of RETRAIN (R159): held while either head writes. A port that is not ACTIVE has nothing to
retrain, nor has one that is being disabled. -/
def execRetrainRequest (n : Fin 128) (s : State) : Res :=
  if !s.active n ∨ s.disabling n then .next s
  else if s.writingStn n then .next ((s.set1 Reg.STN_LINK_CTRL_RETRAIN n).set1 Reg.STN_LINK_STATUS_RETRAIN_PENDING n)
  else .next (s.beginRetrain n)

/-- RETRAIN_START: the writes that held it have ended (R159). -/
def execRetrainStart (n : Fin 128) (s : State) : Res :=
  if s.flag Reg.STN_LINK_STATUS_RETRAIN_PENDING n && s.active n && !s.writingStn n && !s.disabling n then .next (s.beginRetrain n) else .next s

/-- A lane has received 16 or more invalid sync headers within 64 blocks (R162). -/
def Stn.laneBad (x : Stn) : Bool := x.hdrs.any fun p => decide (16 ≤ p.2.length)

/-- LINK_LOSS: lane errors, or three SENSORs in a row not delivered (R162, R163): SAFE_NOW goes out in the PERIOD that can still be
presented, and the port goes to WAIT or DOWN. One that was being disabled is lost as disabled (R968). DESIGN CHOICE, assumption 211. -/
def execLinkLoss (n : Fin 128) (sensors : Bool) (s : State) : Res :=
  if !s.active n ∨ (if sensors then decide ((s.stn n).missRun < 3) else !(s.stn n).laneBad) then .next s
  else
    let dis := s.disabling n
    let s0 := s.advancePhase 4300
    let s1 := (s0.putStn n { s0.stn n with lost := true, afterSafe := .stay }).periodOf n false
    let s2 := s1.linkLost n (if dis then 2 else if sensors then 1 else 0)
    let auto := s2.flag Reg.STN_LINK_CTRL_ENABLE n && (dis || s2.flag Reg.STN_LINK_CTRL_AUTO_RETRAIN n)
    .next (if auto then s2.toWait n s2.now else s2.toDown n)

/-- ENABLE of a port is cleared (R968). DESIGN CHOICE, assumption 30. -/
def State.disableLink (s : State) (n : Nat) : State :=
  let s1 := s.clr Reg.STN_LINK_CTRL_ENABLE n
  if s1.active n then s1.safeNow n 4 .disable else s1.toDown n

/-- LINK_DISABLE: an ACTIVE port carries SAFE_NOW for four periods and is then lost to DOWN; any other goes to DOWN at
once (R968). -/
def execLinkDisable (n : Fin 128) (s : State) : Res := .next (s.disableLink n)

/-- An invalid sync header on a lane, `gap` blocks of that lane after the one before it: those within 64 blocks are kept (R162). -/
def Stn.badHeader (x : Stn) (lane gap : Nat) : Stn :=
  let old := ((mget [] x.hdrs lane).map fun a => a + gap).filter fun a => decide (a < 64)
  { x with hdrs := mput x.hdrs lane (0 :: old) }

/-- LINK_BLOCK_ERROR: a block error is counted, opens the window of R164 on an ACTIVE port, and abandons a calibration run of the
port (R105, R899); `hdr` says for an invalid sync header its lane and how many blocks after the one before it came (R162). DESIGN
CHOICE, assumption 202. -/
def execLinkBlockError (n : Fin 128) (hdr : Option (Fin 2 × Nat)) (s : State) : Res :=
  let before := s.rd Reg.STN_LINK_ERR_BLOCK_ERR n
  let s0 := (s.bump Reg.STN_LINK_ERR_BLOCK_ERR n 1).abandonCal 0 n
  let s1 := match hdr with
    | some (lane, gap) => s0.putStn n ((s0.stn n).badHeader lane gap)
    | none => s0
  let x := s1.stn n
  if s.active n ∧ x.blockWin.isNone then .next (s1.putStn n { x with blockWin := some (s.now + hz, before) }) else .next s1

end Sys2Proof.Machine
end

