-- ==== Sys2Proof/Machine/Checks.lean ====
section
/-!
DEFINITION. The checks that a command meets when it is fetched, and what it takes with it when it is accepted (R21 to R30,
R81, R82, R232, R623, R625, R639 to R643, R650 to R672, R692, R699, R704).
-/

namespace Sys2Proof.Machine

/-! ### The stack as commands see it -/

/-- A cell is a member of the stack: the cell itself, or one of its member table (R24, R546). -/
def State.member (s : State) (c : Nat) : Bool := c == s.cell || s.flag Reg.CASC_CELL_LISTED c

/-- Magazine slots fitted in a cell (R26). -/
def State.slotsOf (s : State) (c : Nat) : Nat :=
  if c = s.cell then s.rd Reg.GCTL_SIZE_MAG_SLOTS 0 else s.rd Reg.CASC_CELL_MAG_SLOTS c

/-- Stations fitted in a cell. -/
def State.stnsOf (s : State) (c : Nat) : Nat :=
  if c = s.cell then s.rd Reg.GCTL_SIZE_STN_FITTED 0 else s.rd Reg.CASC_CELL_STN_FITTED c

/-! ### Opcodes -/

def opNop : Nat := 0x00
def opIdentify : Nat := 0x01
def opGetLog : Nat := 0x02
def opSetFeature : Nat := 0x03
def opGetFeature : Nat := 0x04
def opAbort : Nat := 0x08
def opRead : Nat := 0x10
def opWrite : Nat := 0x11
def opVerify : Nat := 0x12
def opFlush : Nat := 0x13
def opZoneClose : Nat := 0x14
def opFinalize : Nat := 0x15
def opAlloc : Nat := 0x18
def opRelease : Nat := 0x19
def opShare : Nat := 0x1A
def opMount : Nat := 0x20
def opUnmount : Nat := 0x21
def opMove : Nat := 0x22
def opInventory : Nat := 0x23
def opTimeSet : Nat := 0x30
def opTimeGet : Nat := 0x31
def opTallyRead : Nat := 0x38
def opTallyAck : Nat := 0x39
def opFwDownload : Nat := 0x40
def opFwActivate : Nat := 0x41
def opModeSet : Nat := 0x48
def opStationDiag : Nat := 0x50

/-- The opcodes of R650. -/
def opcodes : List Nat :=
  [opNop, opIdentify, opGetLog, opSetFeature, opGetFeature, opAbort, opRead, opWrite, opVerify, opFlush, opZoneClose,
   opFinalize, opAlloc, opRelease, opShare, opMount, opUnmount, opMove, opInventory, opTimeSet, opTimeGet, opTallyRead,
   opTallyAck, opFwDownload, opFwActivate, opModeSet, opStationDiag]

/-- A command uses a privileged opcode, log or feature (R623, R650, R667, R668). -/
def Cmd.privileged (c : Cmd) : Bool :=
  [opMove, opInventory, opTimeSet, opTallyRead, opTallyAck, opFwDownload, opFwActivate, opModeSet, opStationDiag].contains c.op
    || (c.op == opGetLog && c.get 16 2 == 1) || ((c.op == opSetFeature || c.op == opGetFeature) && c.get 16 2 == 0x20)

/-- READ, WRITE and VERIFY. -/
def Cmd.isData (c : Cmd) : Bool := c.op == opRead || c.op == opWrite || c.op == opVerify

/-- LENGTH of a data command. -/
def Cmd.length (c : Cmd) : Nat := c.get 24 4

/-- OFFSET of an AADDR. -/
def Cmd.offset (c : Cmd) : Nat := c.aaddr % 65536

/-- The AADDR that a command names its disc by, where it names one. -/
def Cmd.names (c : Cmd) : Option Nat :=
  if c.isData || [opFlush, opZoneClose, opFinalize, opMount, opUnmount, opMove].contains c.op then some (c.get 16 8)
  else if c.op = opGetLog ∧ c.get 16 2 = 0x20 then some (c.get 40 8)
  else if (c.op = opSetFeature ∨ c.op = opGetFeature) ∧ c.get 16 2 = 0x20 then some (c.get 32 8)
  else none

/-- Frames that the range of a data command touches (R29). -/
def Cmd.frameCount (c : Cmd) : Nat := ceilDiv (c.offset + c.length) 65536

/-- Frame i of a data command: its zone key and INDEX (R29). -/
def Cmd.frameAt (c : Cmd) (i : Nat) : Nat × Nat :=
  let f := bitsOf c.aaddr 16 24 + i
  (aaddrDisc c.aaddr * 2048 + f / 8192 % 2048, f % 8192)

/-! ### Fields (R640 to R643 and the opcode rules) -/

/-- A reserved field of n bytes. -/
def Cmd.zero (c : Cmd) (off n : Nat) : Nat × Bool := (off, c.get off n == 0)

/-- An AADDR field, R23. -/
def Cmd.addrField (c : Cmd) (off : Nat) : Nat × Bool := (off, c.get off 8 < 2 ^ 55)

/-- The flags an opcode allows (R641): IN_PLACE needs HDM open (R571, R572). -/
def State.flagsOk (s : State) (c : Cmd) : Bool :=
  c.get 1 1 < 32
    && (!c.flagBit 2 || c.isData || [opMount, opUnmount, opMove, opInventory].contains c.op)
    && (!c.flagBit 4 || ((c.op == opRead || c.op == opWrite) && s.flag Reg.HEP_STATUS_HDM_OPEN 0))

/-- A launch time is valid and at most 3,600 s ahead (R82, R971). -/
def State.launchOk (s : State) (c : Cmd) : Bool :=
  let l := c.get 8 8
  if c.flagBit 2 then timeValid l && decide (timeDiff (linOf l) s.lin ≤ 3600 * (hz : Int)) else l == 0

/-- The header's fields; `dup` says that the tag is in use. -/
def State.headerFields (s : State) (c : Cmd) (dup : Bool) : List (Nat × Bool) :=
  [(1, s.flagsOk c), (2, c.get 2 2 < 4096 && !dup),
   (4, if c.op == opRead || c.op == opVerify then c.get 4 1 < 16 else c.get 4 1 == 0), c.zero 5 3, (8, s.launchOk c)]

/-- The fields of READ, WRITE and VERIFY (R651, R652). -/
def Cmd.dataFields (c : Cmd) : List (Nat × Bool) :=
  let len := c.length
  let w := c.op == opWrite
  let oneZone := bitsOf c.aaddr 16 13 + len / 65536 ≤ 8192
  [(16, c.get 16 8 < 2 ^ 55 && (!w || c.offset == 0)),
   (24, decide (1 ≤ len) && decide (len ≤ 2 ^ 30) && (!w || (len % 65536 == 0 && decide oneZone)))]
    ++ (if c.op == opVerify then []
        else if c.inPlace then [(36, c.get 36 4 % 4096 == 0)] else [(28, c.get 28 4 < 65536)])
    ++ [c.zero 40 24]

/-- Slots that an INVENTORY covers lie in the magazine of its cell. DESIGN CHOICE, assumption 116. -/
def State.inventoryFields (s : State) (c : Cmd) : List (Nat × Bool) :=
  let cell := c.get 20 1
  let n := if cell < 8 ∧ s.member cell then s.slotsOf cell else 0
  [(16, decide (c.get 16 2 < n)), (18, decide (c.get 16 2 + c.get 18 2 ≤ n)), (20, decide (cell < 8) && s.member cell), c.zero 21 43]

/-- The fields of each opcode with whether they pass. DEDUCED, assumption 115. -/
def State.opFields (s : State) (c : Cmd) : List (Nat × Bool) :=
  match c.op with
  | 0x00 => [c.zero 16 48]
  | 0x01 => [(16, c.get 16 1 < 3), c.zero 17 15, c.zero 40 24]
  | 0x02 =>
    let id := c.get 16 2
    [(16, id == 1 || id == 0x10 || id == 0x20), c.zero 18 2]
      ++ (if id == 0x20 then [c.addrField 40] else [c.zero 40 8]) ++ [c.zero 48 16]
  | 0x03 =>
    let id := c.get 16 2
    [(16, id == 0x10 || id == 0x20), (18, if id == 0x10 then c.get 18 2 < 16 else c.get 18 2 == 0), c.zero 20 4,
     (24, if id == 0x10 then c.get 24 8 < 2 ^ 32 && bitsOf (c.get 24 8) 14 2 == 0 else c.get 24 8 < 2 ^ 16)]
      ++ [if id == 0x20 then c.addrField 32 else c.zero 32 8, c.zero 40 24]
  | 0x04 =>
    let id := c.get 16 2
    [(16, id == 0x10 || id == 0x20), (18, if id == 0x10 then c.get 18 2 < 16 else c.get 18 2 == 0), c.zero 20 4]
      ++ [if id == 0x20 then c.addrField 32 else c.zero 32 8, c.zero 40 24]
  | 0x08 => [c.zero 20 44]
  | 0x10 => c.dataFields
  | 0x11 => c.dataFields
  | 0x12 => c.dataFields
  | 0x13 => [c.addrField 16, (24, c.get 24 1 < 2), c.zero 25 39]
  | 0x14 => [c.addrField 16, c.zero 24 40]
  | 0x15 => [c.addrField 16, c.zero 24 40]
  | 0x18 => [(16, decide (1 ≤ c.get 16 4) && decide (c.get 16 4 ≤ 4194304)), c.zero 20 44]
  | 0x19 => [c.zero 20 44]
  | 0x1A => [c.zero 22 42]
  | 0x20 => [c.addrField 16, (24, bitsOf (c.get 24 2) 11 4 == 0 && (bitOf (c.get 24 2) 15 || !bitOf (c.get 24 2) 7)), c.zero 26 38]
  | 0x21 => [c.addrField 16, c.zero 24 40]
  | 0x22 => [c.addrField 16, (24, c.get 24 2 < 4096), c.zero 26 38]
  | 0x23 => s.inventoryFields c
  | 0x30 => [c.zero 16 8, c.zero 32 32]
  | 0x31 => [c.zero 16 16, c.zero 40 24]
  | 0x38 => [(20, decide (1 ≤ c.get 20 4) && decide (c.get 20 4 ≤ 2048)), c.zero 24 8, c.zero 40 24]
  | 0x39 => [c.zero 20 44]
  | 0x40 => [(16, c.get 16 4 % 4096 == 0), (20, c.get 20 4 % 4096 == 0 && decide (c.get 16 4 + c.get 20 4 ≤ 2 ^ 22)), c.zero 24 8,
             c.zero 40 24]
  | 0x41 => [c.zero 16 48]
  | 0x48 => [(16, [mBanked, mEmber, mBurn, mDamped, mVerify].contains (c.get 16 1)), c.zero 17 3,
             (20, c.get 16 1 != mDamped || (decide (200 ≤ c.get 20 4) && decide (c.get 20 4 ≤ 1150))), c.zero 24 40]
  | 0x50 => [(16, decide (c.get 16 2 < s.rd Reg.GCTL_SIZE_STN_FITTED 0)), (18, c.get 18 1 < 5), c.zero 19 1, c.zero 28 4, c.zero 40 24]
  | _ => []

/-- The byte offset of the first field that fails. DESIGN CHOICE, assumptions 113 and 114. -/
def firstBad (l : List (Nat × Bool)) : Option Nat := (l.find? fun p => !p.2).map Prod.fst

/-! ### Addresses, owners, frontiers, buffers -/

/-- A command's account may use a disc (R625): the opcodes of the rule, from a group without PRIV. DESIGN CHOICE, assumption 63.
-/
def State.ownerOk (s : State) (c : Cmd) (d : Nat) : Bool :=
  let o := (s.disc d).owner
  o == 0xFFFF || o == c.acct || (s.grp c.grp).priv
    || !(c.isData || [opFlush, opZoneClose, opFinalize, opMount, opUnmount, opGetLog].contains c.op)

/-- ADDRESS_RANGE under R25, R26, R30, R625 and R665. -/
def State.rangeOk (s : State) (c : Cmd) : Bool :=
  match c.names with
  | none => true
  | some a =>
    let d := aaddrDisc a
    let cell := d / 4096
    s.member cell && decide (d % 4096 < s.slotsOf cell) && s.ownerOk c d
      && (!c.isData || decide (a % 2 ^ 40 + c.length ≤ 2 ^ 40))
      && (c.op != opMove || decide (c.get 24 2 < s.slotsOf cell))

/-- The opcodes that VERIFY mode refuses (R680). -/
def Cmd.needsMedia (c : Cmd) : Bool :=
  c.isData || [opFlush, opZoneClose, opFinalize, opMount, opUnmount, opMove, opInventory, opStationDiag].contains c.op

/-- The zone of a disc may open (R232). -/
def State.mayOpen (s : State) (zk : Nat) : Bool :=
  let (d, side) := (zoneDisc zk, zoneSide zk)
  decide (((s.openZones d side).filter (· != zk)).length + 8 < s.unusedIdx d side)

/-- A zone's state is kept here: its disc is homed in this cell or stands in a station of it. DESIGN CHOICE, assumption 63. -/
def State.zoneHere (s : State) (zk : Nat) : Bool := zoneDisc zk / 4096 == s.cell || (s.zoneHead zk).isSome

/-- Checks 2 and 3 of R652. -/
def State.writeCheck (s : State) (c : Cmd) : Option Nat :=
  let zk := aaddrZone c.aaddr
  let z := s.zone zk
  if !s.zoneHere zk then none
  else if z.state = .closed ∨ z.state = .short ∨ ((s.disc (zoneDisc zk)).side (zoneSide zk)).finalised
      ∨ (z.state = .blank ∧ !s.mayOpen zk) then some stZoneClosed
  else if bitsOf c.aaddr 16 13 ≠ z.acc then some stWriteFrontier
  else none

/-- The handle checks of an IN_PLACE command (R654, R655, R656, R692, R704): a reader may name the buffer in a WRITE. -/
def State.bufferCheck (s : State) (c : Cmd) : Option (Nat × Nat) :=
  match s.known (c.get 32 4) with
  | none => some (stInvalidField, 32)
  | some (k, b) =>
    let need := if c.op = opRead then c.frameCount * 65536 else c.length
    if b.owner ≠ c.sq ∧ !(c.op == opWrite && b.readers.contains c.sq) then some (stNotOwner, 0)
    else if poolSize (bufPool k) < c.get 36 4 + need then some (stInvalidField, 36)
    else none

/-- The outcome of a command that fails a check at fetch: its status and FIELD (R639). DESIGN CHOICE, assumption 113. -/
def State.check (s : State) (c : Cmd) (dup : Bool) : Option (Nat × Nat) :=
  if !opcodes.contains c.op || (c.privileged && !(s.grp c.grp).priv) then some (stInvalidOpcode, 0)
  else
    match firstBad (s.headerFields c dup ++ s.opFields c) with
    | some off => some (stInvalidField, off)
    | none =>
      if !s.rangeOk c then some (stAddressRange, 0)
      else if s.mode == mVerify && c.needsMedia then some (stModeRefused, 0)
      else
        match (if c.op = opWrite then s.writeCheck c else none) with
        | some st => some (st, 0)
        | none =>
          if (c.op = opRead ∨ c.op = opWrite) ∧ c.inPlace then s.bufferCheck c else none

/-! ### Acceptance -/

/-- The frames of an accepted WRITE are held for writing, in their order; a BLANK zone opens (R36, R229, R652). DESIGN CHOICE,
assumption 60. -/
def State.acceptWrite (s : State) (c : Cmd) : State :=
  let zk := aaddrZone c.aaddr
  if !s.zoneHere zk then s
  else
    let z := s.zone zk
    let n := c.length / 65536
    let own := c.inPlace && c.origin.isNone
    let k := (s.known (c.get 32 4)).map Prod.fst
    let base := match k with | some b => hdmBase + s.bufOffset b + c.get 36 4 | none => 0
    let frame := fun (i : Nat) =>
      ({ disc := zoneDisc zk, zone := zk, index := z.acc + i, addr := if own then base + i * 65536 else 0,
         buf := if own then k.getD noBuf else noBuf, sq := c.sq, tag := c.tag, acct := c.acct, ord := c.ord } : Held)
    let z1 := { z with acc := z.acc + n, state := if z.state = .blank then .open_ else z.state }
    ({ s with held := s.held ++ (upTo n).map frame } : State).putZone zk z1

/-- An accepted command: it is in flight with what it needs from its fetch on: its launch time, its disc, the buffer it names or,
for a copy READ or WRITE, one buffer of pool 2 (R81, R284, R699). Where that buffer cannot be had the command completes at once.
DEDUCED, assumption 121. -/
def State.accept (s : State) (c : Cmd) : State ⊕ (Nat × State) :=
  let c1 := { c with launch := if c.flagBit 2 then some (c.get 8 8) else none, disc := c.names.map aaddrDisc }
  let copy := (c.op = opRead ∨ c.op = opWrite) ∧ !c.inPlace
  if copy then
    if !s.quotaOk c.sq 16 then .inr (stQuota, s)
    else
      match s.takeBuf 2 c.sq (some c.ord) with
      | none => .inr (stPoolEmpty, s.poolEmpty 2)
      | some (k, s1) =>
        let s2 : State := { s1 with cmds := s1.cmds ++ [{ c1 with bufs := [k] }] }
        .inl (if c.op = opWrite then s2.acceptWrite c1 else s2)
  else
    let named := if (c.op = opRead ∨ c.op = opWrite) ∧ c.inPlace then (s.known (c.get 32 4)).map Prod.fst else none
    let s1 : State := { s with cmds := s.cmds ++ [{ c1 with bufs := named.toList }] }
    .inl (if c.op = opWrite then
      (s1.acceptWrite c1 |> fun t => match named with | some k => t.toDevice k | none => t) else s1)

end Sys2Proof.Machine
end

