-- ==== Sys2Proof/Machine/Ats.lean ====
section
/-!
DEFINITION. Address translation: the ATC, what a command uses of host memory, and the translation requests issued for it (R589
to R595).
-/

namespace Sys2Proof.Machine

/-- The PASID that the requests of a group carry (R589). -/
def State.pasidOf (s : State) (g : Nat) : Option Nat :=
  if (s.grp g).pasidEn && s.flag Reg.HEP_STATUS_PASID_EN 0 then some (s.grp g).pasid else none

/-- An entry of the ATC covers an address. -/
def Atc.covers (x : Atc) (p : Option Nat) (a : Nat) : Bool := x.pasid == p && decide (x.addr ≤ a) && decide (a < x.addr + x.size)

/-- An entry of the ATC meets a range. -/
def Atc.meets (x : Atc) (p : Option Nat) (a n : Nat) : Bool := x.pasid == p && decide (x.addr < a + n) && decide (a < x.addr + x.size)

/-- The first address of a range that the ATC does not hold. DESIGN CHOICE, assumption 111. -/
def State.atcMiss (s : State) (p : Option Nat) : Nat → Nat → Nat → Option Nat
  | 0, _, _ => none
  | fuel + 1, a, e =>
    if e ≤ a then none
    else
      match s.hep.atc.find? fun x => x.covers p a with
      | some x => s.atcMiss p fuel (x.addr + x.size) e
      | none => some a

/-- The host ranges of the DMA that is queued or running, by PASID (R591): those of the chains of its channels. -/
def State.dmaUses (s : State) : List (Option Nat × Nat × Nat) :=
  s.engines.flatMap fun e =>
    let chain := fun (ch a : Nat) => (s.chainUses 4096 a).map fun u => (s.chanPasid ch, u.1, u.2)
    (match e.2.running with | some ch => chain ch e.2.desc | none => [])
      ++ e.2.queue.flatMap fun ch => chain ch (s.rd Reg.DMA_CH_DESC_ADDR ch * 32)

/-- Entries that the DMA queued or running uses: they are pinned (R591). -/
def State.pinned (s : State) : List Atc :=
  let us := s.dmaUses
  s.hep.atc.filter fun x => us.any fun u => x.meets u.1 u.2.1 u.2.2

/-- Entries pinned, as HEP_ATC shows them. -/
def State.pinnedCount (s : State) : Nat := s.pinned.length

/-- A request for a translation waits (R591). -/
def State.xlatLater (s : State) (p : Option Nat) (a n : Nat) : State :=
  if s.hep.xlatWait.contains (p, a, n) then s else { s with hep := { s.hep with xlatWait := s.hep.xlatWait ++ [(p, a, n)] } }

/-- A translation is asked for, for the first page of a range that the ATC does not hold, unless it is asked for already. Each
answer leads to the request for the next page, so the size of what the agent returns decides how many there are (R590). While all
4,096 entries are pinned the request waits (R591). DESIGN CHOICE, assumption 111. -/
def State.askRange (s : State) (p : Option Nat) (a n : Nat) : State :=
  if !s.flag Reg.HEP_STATUS_ATS_EN 0 then s
  else
    match s.atcMiss p 4097 a (a + n) with
    | none => s
    | some m =>
      let page := m / 4096 * 4096
      if s.hep.asked.contains (p, page) then s
      else if 4096 ≤ s.pinnedCount then s.xlatLater p a n
      else
        let s1 : State := { s with hep := { s.hep with asked := s.hep.asked ++ [(p, page)] } }
        (s1.bump Reg.HEP_XLAT_CNT_COUNT 0 1).emit (.translationReq p page)

/-- Requests for translations that waited are made, if they now may be. -/
def State.retryXlat (s : State) : State :=
  s.hep.xlatWait.foldl (fun t u => t.askRange u.1 u.2.1 u.2.2) { s with hep := { s.hep with xlatWait := [] } }

/-- The ATC holds the whole of a range, or ATS is not enabled (R590, R595). -/
def State.held? (s : State) (p : Option Nat) (a n : Nat) : Bool :=
  !s.flag Reg.HEP_STATUS_ATS_EN 0 || (s.atcMiss p 4097 a (a + n)).isNone

/-- The requests that a host range takes: address, length, whether translated (R590, R595). A page that the ATC does not hold goes
untranslated. -/
def State.hostPieces (s : State) (p : Option Nat) : Nat → Nat → Nat → List (Nat × Nat × Bool)
  | 0, _, _ => []
  | fuel + 1, a, n =>
    if n = 0 then []
    else if !s.flag Reg.HEP_STATUS_ATS_EN 0 then [(a, n, false)]
    else
      match s.hep.atc.find? fun x => x.covers p a with
      | none => [(a, n, false)]
      | some x =>
        let k := min n (x.addr + x.size - a)
        (x.trans + (a - x.addr), k, true) :: s.hostPieces p fuel (a + k) (n - k)

/-- The tag of a request: Relaxed Ordering only where RO_EN is 1 and its use asks for it (R596). -/
def State.hostTag (s : State) (p : Option Nat) (relaxed translated : Bool) : HostTag :=
  { pasid := p, relaxed := relaxed && s.flag Reg.HEP_CTRL_RO_EN 0, translated := translated }

/-- A range cut at the multiples of a size. -/
def cutAt (m : Nat) : Nat → Nat → Nat → List (Nat × Nat)
  | 0, a, n => [(a, n)]
  | fuel + 1, a, n =>
    let k := m - a % m
    if n ≤ k then [(a, n)] else (a, k) :: cutAt m fuel (a + k) (n - k)

/-- A host memory request does not cross a 4 KiB boundary and carries no more than a limit, which divides 4 KiB (R712): it is cut at the
multiples of the limit. DESIGN CHOICE, assumption 232. -/
def cutReq (m : Nat) (x : Nat × Nat × Bool) : List (Nat × Nat × Bool) :=
  (cutAt m (x.2.1 / m + 1) x.1 x.2.1).map fun y => (y.1, y.2, x.2.2)

/-- Max Payload Size and Max Read Request Size in force, in bytes (R712). -/
def State.maxPayload (s : State) : Nat := 2 ^ (7 + s.hep.mps)
def State.maxReadReq (s : State) : Nat := 2 ^ (7 + s.hep.mrrs)

/-- Bytes are written to host memory over CXL.io (R589, R590, R596, R712). -/
def State.hostWrites (s : State) (p : Option Nat) (relaxed : Bool) (a : Nat) (bs : List Nat) : State :=
  (((s.hostPieces p 4097 a bs.length).flatMap (cutReq s.maxPayload)).foldl (fun (t : State × List Nat) x =>
    (t.1.emit (.hostWrite (s.hostTag p relaxed x.2.2) x.1 (t.2.take x.2.1)), t.2.drop x.2.1)) (s, bs)).1

/-- Bytes are read from host memory over CXL.io (R712). -/
def State.hostReads (s : State) (p : Option Nat) (relaxed : Bool) (a n : Nat) : State :=
  ((s.hostPieces p 4097 a n).flatMap (cutReq s.maxReadReq)).foldl (fun t x => t.emit (.hostRead (s.hostTag p relaxed x.2.2) x.1 x.2.1)) s

/-- A zero-length read of an address of a write, without Relaxed Ordering (R597). -/
def State.zeroReads (s : State) (p : Option Nat) (a : Nat) : State :=
  (s.hostPieces p 1 a 1).foldl (fun t x => t.emit (.zeroRead (s.hostTag p false x.2.2) x.1)) s

/-- What a command uses of host memory: address, length, whether the controller writes there (R651, R666 to R674). -/
def Cmd.hostUses (c : Cmd) : List (Nat × Nat × Bool) :=
  let at_ := fun (n : Nat) (w : Bool) => [(c.get 32 8, n, w)]
  if c.op = opRead ∨ c.op = opWrite then
    if c.inPlace then []
    else
      (if c.get 28 4 = 0 then [] else at_ (16 * c.get 28 4) false) ++ c.hostRanges.map fun p => (p.1, p.2, c.op == opRead)
  else if c.op = opIdentify then at_ 4096 true
  else if c.op = opGetLog then at_ (c.get 20 4) true
  else if c.op = opTimeGet then at_ 16 true
  else if c.op = opTallyRead then at_ (64 * c.get 20 4) true
  else if c.op = opFwDownload then at_ (c.get 20 4) false
  else if c.op = opStationDiag ∧ c.get 18 1 = 0 then at_ 16384 true
  else []

/-- A command's translations are asked for as soon as its host ranges are known, while PRETRANS is 1 (R590). -/
def State.pretrans (s : State) (q tag : Nat) : State :=
  if !s.flag Reg.HEP_CTRL_PRETRANS 0 then s
  else
    match s.cmd? q tag with
    | none => s
    | some c => c.hostUses.foldl (fun t u => t.askRange (t.pasidOf c.grp) u.1 u.2.1) s

/-- A command asks for what it needs of host memory, and whether it holds that. -/
def State.askFor (s : State) (c : Cmd) : State := c.hostUses.foldl (fun t u => t.askRange (t.pasidOf c.grp) u.1 u.2.1) s
def State.translated (s : State) (c : Cmd) : Bool := c.hostUses.all fun u => s.held? (s.pasidOf c.grp) u.1 u.2.1

/-- The entry used longest ago. DESIGN CHOICE, assumption 112. -/
def oldestAtc : List Atc → Option Atc
  | [] => none
  | e :: r => match oldestAtc r with | none => some e | some x => if e.used ≤ x.used then some e else some x

/-- A translation enters the ATC; a full one gives up the least recently used entry that is not pinned (R591). DESIGN CHOICE,
assumption 112. -/
def State.atcPut (s : State) (x : Atc) : State :=
  let keep := s.hep.atc.filter fun y => !(y.pasid == x.pasid && y.addr == x.addr && y.size == x.size)
  if keep.length < 4096 then { s with hep := { s.hep with atc := keep ++ [x] } }
  else
    let pins := s.pinned
    match oldestAtc (keep.filter fun y => !pins.contains y) with
    | none => s.xlatLater x.pasid x.addr 1
    | some v => { s with hep := { s.hep with atc := (keep.filter fun y => y != v) ++ [x] } }

/-- A DMA uses translations: they become the ones used last, and what is not held is asked for. -/
def State.useHost (s : State) (p : Option Nat) (a n : Nat) : State :=
  let mark := fun (x : Atc) => if x.meets p a n then { x with used := s.now } else x
  ({ s with hep := { s.hep with atc := s.hep.atc.map mark } } : State).askRange p a n

/-- A translation is refused (R592): TRANSLATION_FAULT with queue, tag and PASID, and the first fault recorded. DESIGN CHOICE,
assumption 134. -/
def State.xlatFault (s : State) (q tag pasid addr : Nat) : State :=
  let s1 := if s.flag Reg.HEP_FAULT_INFO_VALID 0 then s
    else ((s.wr Reg.HEP_FAULT_ADDR_ADDR 0 addr).wr Reg.HEP_FAULT_INFO_PASID 0 pasid).set1 Reg.HEP_FAULT_INFO_VALID 0
  s1.raise 0x0805 [q, tag, pasid]

end Sys2Proof.Machine
end

