-- ==== Sys2Proof/Machine/Queues.lean ====
section
/-!
DEFINITION. Submission and completion queues, doorbells, fetching, the start of commands, completions and their messages,
ABORT (R594 to R606, R619 to R648, R675 to R682).
-/

namespace Sys2Proof.Machine

/-! ### Doorbells (R626 to R629) -/

/-- Entries of a ring. -/
def depth (log2 : Nat) : Nat := 2 ^ log2

/-- A completion queue has room (R629). -/
def Cq.room (x : Cq) : Bool := (x.tail + 1) % depth x.log2 != x.head

/-- A completion queue as it stands after its head or tail moved: since when it is full. -/
def Cq.watch (x : Cq) (now : Nat) : Cq :=
  { x with fullFrom := if x.room then none else match x.fullFrom with | some t => some t | none => some now }

/-- A doorbell write that is discarded whole (R627). -/
def State.badDoorbell (s : State) (q v : Nat) : State :=
  let s1 := if s.flag Reg.CMDQ_DB_ERR_VALID 0 then s else (s.wr Reg.CMDQ_DB_ERR_SQ 0 q).set1 Reg.CMDQ_DB_ERR_VALID 0
  s1.raiseWin 0x0901 0 (q :: w2 v) false

/-- A completion queue is replaced. -/
def State.putCq (s : State) (i : Nat) (x : Cq) : State := { s with cqs := mput s.cqs i x }

/-- A submission queue is replaced. -/
def State.putSq (s : State) (q : Nat) (x : Sq) : State := { s with sqs := mput s.sqs q x }

/-- DOORBELL_WRITE: SQ_TAIL and CQ_HEAD are applied, or the write is discarded whole (R626, R627). An applied SQ_TAIL lets
a queue whose fetch failed go on (R588). -/
def execDoorbellWrite (q : BitVec 16) (v : BitVec 64) (s : State) : Res :=
  let w := v.toNat
  let tail := bitsOf w 0 16
  let head := bitsOf w 32 16
  match mfind s.sqs q.toNat with
  | none => .next (s.badDoorbell q.toNat w)
  | some x =>
    match mfind s.cqs x.cq with
    | none => .next (s.badDoorbell q.toNat w)
    | some y =>
      if (bitOf w 16 && depth x.log2 ≤ tail) || (bitOf w 48 && depth y.log2 ≤ head) then .next (s.badDoorbell q.toNat w)
      else
        let s1 := if bitOf w 16 then s.putSq q.toNat { x with tail := tail, stalled := false } else s
        .next (if bitOf w 48 then s1.putCq x.cq (({ y with head := head } : Cq).watch s.now) else s1)

/-! ### Fetching (R637 to R639) -/

/-- Commands of a group in flight (R638). -/
def State.groupFlight (s : State) (g : Nat) : Nat := (s.cmds.filter fun c => c.grp == g && c.origin.isNone).length

/-- Fetching goes on: it is enabled and not held, room is left, and the mode serves commands (R46, R638, R680). -/
def State.fetchOn (s : State) : Bool :=
  s.flag Reg.CMDQ_CTRL_EN 0 && !s.flag Reg.GCTL_CTRL_FETCH_HOLD 0 && (s.cmds.filter fun c => c.origin.isNone).length < 4096
    && s.mode != mKindling && s.mode != mBanked

/-- A queue may be fetched from: it holds a command, and its group has EN 1 and room (R588, R635, R636, R638). -/
def State.fetchable (s : State) (q : Nat) (x : Sq) : Bool :=
  x.head != x.tail && !x.deleting && !x.stalled && (s.grp (q / 64)).en && s.groupFlight (q / 64) < (s.grp (q / 64)).inflight

/-- Commands per turn, 0 acting as 1. -/
def State.burst (s : State) : Nat := s.rd1 Reg.CMDQ_CTRL_BURST 0

/-- How far an index lies ahead of the last one served, round a ring of n. -/
def ahead (n last i : Nat) : Nat := (i + n - last % n - 1) % n

/-- The nearest of some queues ahead of a place. -/
def nearest (dist : Nat → Nat) : List Nat → Option Nat
  | [] => none
  | q :: r =>
    match nearest dist r with
    | none => some q
    | some p => if dist q ≤ dist p then some q else some p

/-- The queue whose command is fetched next, and the commands left in the turn after it: the queue whose turn it is, else the next
queue of the next group in round robin (R637). DESIGN CHOICE, assumption 119. -/
def State.nextQueue (s : State) : Option (Nat × Nat) :=
  let can := (s.sqs.filter fun p => s.fetchable p.1 p.2).map Prod.fst
  let cur := s.rrGroup * 64 + mget 63 s.rrQueue s.rrGroup
  if 0 < s.rrLeft ∧ can.contains cur then some (cur, s.rrLeft - 1)
  else
    (nearest (fun q => ahead 1024 s.rrGroup (q / 64) * 64 + ahead 64 (mget 63 s.rrQueue (q / 64)) (q % 64)) can).map
      fun q => (q, s.burst - 1)

/-- A command completes at its fetch (R639). Its entry waits like any other; a command in flight with the same tag is not affected
(R643). DESIGN CHOICE, assumption 113. -/
def State.refuse (s : State) (c : Cmd) (status field : Nat) : State :=
  let s1 : State := { s with cmds := s.cmds ++ [{ c with phase := .fixed, status := status, field := field }] }
  match mfind s1.cqs c.cq with
  | none => s1
  | some q => s1.putCq c.cq { q with waiting := q.waiting ++
      [{ sq := c.sq, tag := c.tag, status := status, a := 0, b := 0, field := field }] }

/-- COMMAND_FETCH: the next command, as read from host memory, is checked and accepted or completes at once (R637 to R643).
In CINDER it completes with DEVICE_DEGRADED unchecked (R680). In EMBER an accepted command other than MODE_SET begins the
return to the mode before (R681). -/
def execCommandFetch (pkt : BitVec 512) (s : State) : Res :=
  if !s.fetchOn then .next s
  else
    match s.nextQueue with
    | none => .next s
    | some (q, left) =>
      match mfind s.sqs q with
      | none => .next s
      | some x =>
        let g := q / 64
        let p := pkt.toNat
        let tag := bitsOf p 16 12
        let c : Cmd := { sq := q, tag := tag, pkt := p, ord := s.cmdSeq + 1, grp := g, acct := x.acct, cq := x.cq,
                         prof := mget 0x07D00FF9 s.profs (g * 16 + bitsOf p 32 4), since := s.now }
        let s0 := s.emit (.cacheReq .rdCurr (x.base + 64 * x.head) [])
        let s1 : State := { s0.putSq q { x with head := (x.head + 1) % depth x.log2 } with
          cmdSeq := s.cmdSeq + 1, rrGroup := g, rrLeft := left, rrQueue := mput s.rrQueue g (q % 64) }
        if s.mode = mCinder then .next (s1.refuse c stDegraded 0)
        else
          match s1.check c (s1.cmd? q tag).isSome with
          | some (st, f) => .next (s1.refuse c st f)
          | none =>
            match s1.accept c with
            | .inr (st, s2) => .next (s2.refuse c st 0)
            | .inl s2 =>
              let s3 := s2.pretrans q tag
              .next (if s.mode = mEmber ∧ s.pw.trans.isNone ∧ c.op ≠ opModeSet then s3.beginTrans s.pw.prevMode 3 none else s3)

/-- HOST_CACHE_ERROR: a CXL.cache request of a queue returns an error (R588): its command completes with HOST_ACCESS_ERROR
where one can be named; else the fetch stops until the next doorbell and TRANSLATION_FAULT is raised. -/
def execHostCacheError (q : BitVec 16) (tag : Option (BitVec 12)) (s : State) : Res :=
  match tag with
  | none =>
    let pasid := (s.pasidOf (q.toNat / 64)).getD 0
    match mfind s.sqs q.toNat with
    | some x => .next ((s.xlatFault q.toNat 0xFFFFFFFF pasid (x.base + 64 * x.head)).putSq q.toNat { x with stalled := true })
    | none => .next (s.raise 0x0805 [q.toNat, 0xFFFFFFFF, pasid])
  | some t =>
    match s.cmd? q.toNat t.toNat with
    | none => .next s
    | some c =>
      if c.phase = .fixed then
        let s1 := s.updCmd c.sq c.tag fun x => { x with status := stHostAccess }
        match mfind s1.cqs c.cq with
        | none => .next s1
        | some y => .next (s1.putCq c.cq { y with waiting := y.waiting.map fun e =>
            if e.sq == c.sq && e.tag == c.tag then { e with status := stHostAccess, a := 0, b := 0, field := 0 } else e })
      else .next (s.fail c.sq c.tag stHostAccess)

/-! ### Starting (R32, R522, R525, R553, R559, R560, R647, R648, R672) -/

/-- A command has started: its order is met and it waits for no launch. -/
def Cmd.begun (c : Cmd) : Bool := c.phase != .waiting || (c.ready && c.launch.isNone)

/-- A command's outcome is fixed. -/
def Cmd.past (c : Cmd) : Bool := c.phase == .fixed

/-- The bytes a command's AADDR range covers: a data command's own, a whole disc, or a zone (R648). -/
def Cmd.range (c : Cmd) : Nat × Nat :=
  let disc := c.aaddr / 2 ^ 40 * 2 ^ 40
  let zone := c.aaddr / 2 ^ 29 * 2 ^ 29
  if c.isData then (c.aaddr, c.aaddr + c.length)
  else if c.op = opZoneClose ∨ (c.op = opFlush ∧ c.get 24 1 = 1) then (zone, zone + 2 ^ 29)
  else (disc, disc + 2 ^ 40)

/-- A READ or VERIFY may start ahead of an earlier command (R648). -/
def Cmd.passes (c x : Cmd) : Bool :=
  (c.op == opRead || c.op == opVerify) && [opWrite, opFlush, opZoneClose, opFinalize].contains x.op

/-- Two ranges share a byte. -/
def rangesMeet (a b : Nat × Nat) : Bool := decide (a.1 < b.2) && decide (b.1 < a.2)

/-- An earlier command of the queue lets a command start (R647, R648). -/
def Cmd.behind (c x : Cmd) : Bool :=
  x.past || (!c.flagBit 1 && !x.flagBit 1 && (if c.passes x then !rangesMeet c.range x.range else x.begun))

/-- The order rules let a command start; MODE_SET waits for every command fetched before it (R672). DESIGN CHOICE, assumption 120.
-/
def State.orderOk (s : State) (c : Cmd) : Bool :=
  s.cmds.all fun x =>
    x.ord ≥ c.ord || x.origin.isSome || (if c.op = opModeSet then x.past else x.sq != c.sq || c.behind x)

/-- The mode in force lets a command start (R680, R681). -/
def State.startMode (s : State) (c : Cmd) : Bool :=
  s.pw.trans.isNone && (s.mode == mBurn || s.mode == mDamped || s.mode == mVerify || (s.mode == mEmber && c.op == opModeSet))

/-- Where a started command runs. -/
inductive Route where
  | here
  | far (cell : Nat)
  | ask (cell : Nat)
  | end_ (status : Nat)
deriving DecidableEq, Repr

/-- The stack shares one library (R559). -/
def State.shared (s : State) : Bool := s.flag Reg.CASC_STATUS_SHARED 0

/-- A disc that is not mounted ends a command: FLUSH with SUCCESS, others with DISC_NOT_MOUNTED (R32). -/
def Cmd.unmounted (c : Cmd) : Route := .end_ (if c.op = opFlush then stSuccess else stDiscNotMounted)

/-- Where a command on a disc runs, from what the catalogue holds (R32, R522, R525, R553). -/
def State.routeDisc (s : State) (c : Cmd) (d : Nat) : Route :=
  let x := s.disc d
  let standing := match x.loc with | .station _ => true | _ => false
  if d / 4096 == s.cell || standing then
    if c.isData && s.discMoving d then .end_ stBusyMoving
    else
      match x.loc with
      | .station _ => if x.mounted then .here else c.unmounted
      | .other cell _ => .far cell
      | .lost => .end_ stLibraryFault
      | _ => c.unmounted
  else
    match mfind s.stack.cache d with
    | some (loc, cell) => if locKind loc = 1 ∧ cell ≠ s.cell then .far cell else c.unmounted
    | none => .ask (d / 4096)

/-- Where a command runs: library work on the master of a shared library, else in the home cell; what concerns a disc's
records in its home cell. -/
def State.route (s : State) (c : Cmd) : Route :=
  let dest := fun (cell : Nat) => if cell = s.cell then Route.here else .far cell
  if c.origin.isSome then .here
  else if c.isData ∨ c.op = opFlush ∨ c.op = opZoneClose ∨ c.op = opFinalize then s.routeDisc c (aaddrDisc c.aaddr)
  else if c.op = opMount ∨ c.op = opUnmount ∨ c.op = opMove then dest (if s.shared then 0 else aaddrDisc c.aaddr / 4096)
  else if c.op = opInventory then dest (if s.shared then 0 else c.get 20 1)
  else if c.op = opTimeSet ∧ !s.flag Reg.GCTL_CELL_MASTER 0 then
    (if s.rd Reg.TIME_STATUS_STATE 0 = dStack then dest 0 else .end_ stStackUnavailable)
  else match c.names with
    | some a => dest (aaddrDisc a / 4096)
    | none => .here

/-- The frames of a WRITE that are held for it. -/
def State.ownFrames (s : State) (c : Cmd) : List Held := s.held.filter fun h => h.sq == c.sq && h.tag == c.tag && h.ord == c.ord

/-- A WRITE ends with a status: its frames whose encoding has not begun are dropped, and the accepted frontier falls back to the
first of them (R678, R723, R970). DESIGN CHOICE, assumption 59. -/
def State.stopWrite (s : State) (c : Cmd) (status a : Nat) : State :=
  let mine := (s.ownFrames c).filter fun h => h.stage == .buffered || h.stage == .stopped
  let s1 := s.finish c.sq c.tag status a 0 0
  match mine with
  | [] => s1
  | h :: r => s1.fallBack h.zone (r.foldl (fun m x => min m x.index) h.index)

/-- A command that has not started ends with a status. -/
def State.cancel (s : State) (c : Cmd) (status : Nat) : State :=
  if c.op = opWrite then s.stopWrite c status 0 else s.fail c.sq c.tag status

/-- A packet as eight items of 64 bits. -/
def pktItems (p : Nat) : List Nat := (upTo 8).map fun i => bitsOf p (64 * i) 64

/-- A command goes to the cell that runs it: library work of a shared library by LIB, any other by CMD (R553, R560). DESIGN
CHOICE, assumption 97. -/
def State.forward (s : State) (c : Cmd) (cell : Nat) : State :=
  let lib := s.shared && [opMount, opUnmount, opMove, opInventory].contains c.op
  let s1 := s.updCmd c.sq c.tag fun x => { x with phase := .started, launched := true, away := some cell }
  s1.ringSend cell (if lib then 0x09 else 0x06) ([if lib then 1 else 0, c.sq, c.tag, c.acct, c.prof] ++ pktItems c.pkt)

/-- A command on the data of a disc comes when an UNMOUNT of the disc is past its flush: it waits for the end of the UNMOUNT, or for the
transfer (R32, R522). DESIGN CHOICE, assumption 210. -/
def State.leaving (s : State) (c : Cmd) : Bool :=
  decide (0x10 ≤ c.op) && decide (c.op ≤ 0x15) &&
    s.cmds.any fun x => x.op == 0x21 && x.phase == .started && decide (1 ≤ x.stage) && decide (x.stage ≤ 2) && x.disc == c.disc

/-- COMMAND_START: an accepted command starts once the order rules and the mode allow it (R647, R648, R672, R680); once it
waits for no launch it takes its place: here, in another cell, or it ends (R32, R522, R553, R557). -/
def execCommandStart (q : BitVec 20) (tag : BitVec 12) (s : State) : Res :=
  match s.cmd? q.toNat tag.toNat with
  | none => .next s
  | some c =>
    if c.phase ≠ .waiting ∨ c.launched ∨ !s.startMode c ∨ !(c.ready || s.orderOk c) ∨ s.leaving c then .next s
    else
      let s1 := s.updCmd c.sq c.tag fun x => { x with ready := true }
      if c.launch.isSome then .next s1
      else
        match s1.route c with
        | .here =>
          if c.origin.isNone && (c.names.any fun a => !s.reach (aaddrDisc a / 4096)) then
            .next (s1.cancel c stStackUnavailable).settle
          else .next ((s1.askFor c).updCmd c.sq c.tag fun x => { x with launched := true })
        | .end_ st => .next (s1.cancel c st).settle
        | .far cell =>
          if !s.reach cell then .next (s1.cancel c stStackUnavailable).settle
          else if c.op = opRead ∨ c.op = opWrite then
            .next (s1.updCmd c.sq c.tag fun x => { x with launched := true, away := some cell })
          else .next (s1.forward c cell)
        | .ask cell =>
          if !s.reach cell then .next (s1.cancel c stStackUnavailable).settle
          else if c.awaySince.isSome then .next s1
          else .next ((s1.updCmd c.sq c.tag fun x => { x with awaySince := some s.now }).ringSend cell 0x08
            [0, aaddrDisc c.aaddr])

/-- The command that an opcode's row acts on: it waits for nothing more. READ and WRITE of a disc that another cell serves
fetch their lists here first; another that uses host memory has its translations (R590). -/
def State.runnable (s : State) (q tag op : Nat) : Option Cmd :=
  match s.cmd? q tag with
  | none => none
  | some c =>
    if c.phase = .waiting && c.launched && (c.away.isNone || op == opRead || op == opWrite) && c.op == op && s.startMode c
        && (op == opRead || op == opWrite || c.origin.isSome || s.translated c) then some c
    else none

/-- The command is under way. DESIGN CHOICE, assumption 97. -/
def State.start (s : State) (c : Cmd) : State := s.updCmd c.sq c.tag fun x => { x with phase := .started }

/-- NOP: completes with no action (R650). -/
def execNop (q : BitVec 20) (tag : BitVec 12) (s : State) : Res :=
  match s.runnable q.toNat tag.toNat opNop with
  | none => .next s
  | some c => .next (s.fail c.sq c.tag stSuccess)

/-! ### ABORT (R675 to R679) -/

/-- A started READ or VERIFY is past its last stopping point: every frame has met its end. -/
def Cmd.delivered (c : Cmd) : Bool := c.frames.all fun f => f.fate == .delivered || f.fate == .bad

/-- A transfer of a command has done step 1 of R518. -/
def State.transferred (s : State) (c : Cmd) : Bool :=
  s.lib.transfers.any fun t => t.cmd == some (c.sq, c.tag) && t.step != 0

/-- The transfer of a command that has not begun is given up. -/
def State.dropAsked (s : State) (c : Cmd) : State :=
  { s with lib := { s.lib with transfers := s.lib.transfers.filter fun t => !(t.cmd == some (c.sq, c.tag) && t.step == 0) } }

/-- The frames of an aborted WRITE that have been encoded or are written (R678). -/
def State.encodedOf (s : State) (c : Cmd) : Nat :=
  c.length / 65536 - ((s.ownFrames c).filter fun h => h.stage == .buffered || h.stage == .stopped).length

/-- A download session is over (R922). -/
def State.dropSession (s : State) : State := { s with firm := { s.firm with session := none, erased := [] } }

/-- A command is aborted (R676, R677): none where it is past its last stopping point or its outcome is fixed. DESIGN CHOICE,
assumption 130. -/
def State.abortCmd (s : State) (c : Cmd) : Option State :=
  if c.phase = .fixed then none
  else if c.away.isSome && c.phase == .started then
    some (s.ringSend (c.away.getD 0) 0x06 [2, c.sq, c.tag])
  else if c.phase = .waiting then
    some (if c.op = opFwActivate then (s.cancel c stAborted).dropSession else s.cancel c stAborted)
  else if c.op = opRead ∨ c.op = opVerify then
    if c.delivered then none
    else
      let keep := fun (x : Cmd) => { x with aborting := true, frames := x.frames.filter fun f => f.fate == .delivered || f.fate == .bad }
      some ((s.leaveLadders c.sq c.tag).updCmd c.sq c.tag keep)
  else if c.op = opWrite then
    if (s.ownFrames c).any fun h => h.stage == .buffered || h.stage == .stopped then
      some (s.stopWrite c stAborted (s.encodedOf c))
    else none
  else if c.op = opFlush then some (s.fail c.sq c.tag stAborted)
  else if c.op = opZoneClose ∨ c.op = opFinalize then
    if c.stage = 0 then some (s.fail c.sq c.tag stAborted) else none
  else if c.op = opMount ∨ c.op = opUnmount ∨ c.op = opMove then
    if s.transferred c ∨ (c.op = opMount ∧ !(s.lib.transfers.any fun t => t.cmd == some (c.sq, c.tag))) then none
    else some ((s.dropAsked c).fail c.sq c.tag stAborted)
  else if c.op = opTimeSet ∧ s.tb.loadQueue.contains (c.sq, c.tag) then
    let s1 : State := { s with tb := { s.tb with loadQueue := s.tb.loadQueue.filter fun p => p != (c.sq, c.tag) } }
    some (s1.fail c.sq c.tag stAborted)
  else none

/-- ABORT: the target, in a queue of the same group and not itself an ABORT, stops at its next stopping point; the ABORT's own
outcome follows the target's (R675 to R679). DESIGN CHOICE, assumption 130. -/
def execAbort (q : BitVec 20) (tag : BitVec 12) (s : State) : Res :=
  match s.runnable q.toNat tag.toNat opAbort with
  | none => .next s
  | some c =>
    let tq := c.get 16 2
    match s.cmd? tq (c.get 18 2) with
    | none => .next (s.fail c.sq c.tag stAbortNotFound)
    | some t =>
      if t.grp ≠ c.grp ∨ t.origin.isSome ∨ t.op = opAbort then .next (s.fail c.sq c.tag stAbortNotFound)
      else
        match s.abortCmd t with
        | none => .next (s.fail c.sq c.tag stAbortNotFound)
        | some s1 => .next (((s1.start c).updCmd c.sq c.tag fun x => { x with done := t.ord }).settle)

/-! ### Completions (R629 to R631, R644, R597, R598, R604 to R606) -/

/-- The 16 bytes of a completion entry, R644. -/
def entryBytes (e : Entry) (sqHead : Nat) (phase : Bool) : List Nat :=
  bytesLE 4 e.a ++ bytesLE 4 e.b ++ bytesLE 2 e.sq ++ bytesLE 2 sqHead
    ++ bytesLE 2 (e.tag % 4096 + (if phase then 32768 else 0)) ++ [e.status, e.field]

/-- The first command of a queue and tag whose outcome is fixed leaves. -/
def dropFixed (q tag : Nat) : List Cmd → List Cmd
  | [] => []
  | c :: r => if c.sq == q && c.tag == tag && c.phase == .fixed then r else c :: dropFixed q tag r

/-- Entries of a completion queue that are not in use. -/
def Cq.free (x : Cq) : Nat := (x.head + depth x.log2 - x.tail - 1) % depth x.log2

/-- The entries that one write takes: a whole line of four where four wait and there is room, else one (R586). -/
def Cq.batch (x : Cq) : List Entry := x.waiting.take (if x.tail % 4 = 0 ∧ 4 ≤ x.waiting.length ∧ 4 ≤ x.free then 4 else 1)

/-- The write of a completion queue's entries: a whole line by ItoMWr, fewer entries by WOWrInv (R586, R644). -/
def State.entryWrite (s : State) (x : Cq) (es : List Entry) : State :=
  let bytes := es.flatMap fun e => entryBytes e (match mfind s.sqs e.sq with | some q => q.head | none => 0) x.phase
  s.emit (.cacheReq (if es.length = 4 then .itoMWr else .woWrInv) (x.base + 16 * x.tail) bytes)

/-- The zero-length read that the completions of commands that wrote to host memory wait for: to the last of their last writes, as it
covers all before it (R597). -/
def State.entryReads (s : State) (es : List Entry) : State :=
  let cs := es.filterMap fun e => s.cmds.find? fun c => c.sq == e.sq && c.tag == e.tag && c.phase == .fixed && c.lastWrite.isSome
  match cs.getLast? with
  | some c => s.zeroReads (s.pasidOf c.grp) (c.lastWrite.getD 0)
  | none => s

/-- COMPLETION_WRITE: the next completions that wait for a queue are written once there is room (R629, R630, R644); those of commands
that wrote to host memory only behind a zero-length read (R597). The commands are then no longer in flight. -/
def execCompletionWrite (i : Fin 4096) (s : State) : Res :=
  match mfind s.cqs i.val with
  | none => .next s
  | some x =>
    if x.waiting.isEmpty ∨ !x.room then .next s
    else
      let es := x.batch
      let s2 := (s.entryReads es).entryWrite x es
      let t := (x.tail + es.length) % depth x.log2
      let y := ({ x with waiting := x.waiting.drop es.length, tail := t, phase := if t = 0 then !x.phase else x.phase,
                         msiDue := x.msiDue || x.ien } : Cq).watch s.now
      .next ({ s2.putCq i.val y with cmds := es.foldl (fun l e => dropFixed e.sq e.tag l) s2.cmds } : State).settleAll

/-- CQ_FULL_TIMEOUT: a completion queue has stayed full for a further second (R629). -/
def execCqFullTimeout (i : Fin 4096) (s : State) : Res :=
  match mfind s.cqs i.val with
  | none => .next s
  | some x =>
    match x.fullFrom with
    | none => .next s
    | some t =>
      let s1 := s.advanceTo (t + hz)
      .next ((s1.putCq i.val { x with fullFrom := some (t + hz) }).raise 0x0902 [i.val, x.waiting.length])

/-- A vector is masked, by itself or with the function (R606). -/
def State.masked (s : State) (v : Nat) : Bool := s.hep.fnMask || s.flag Reg.MSIX_VCTRL_MASK v

/-- The pending bit of a vector takes a value. -/
def State.setPending (s : State) (v : Nat) (b : Bool) : State :=
  s.wr Reg.MSIX_PBA_PENDING (v / 32) (setBits (s.rd Reg.MSIX_PBA_PENDING (v / 32)) (v % 32) 1 (if b then 1 else 0))

/-- The message of a vector goes out. PRESUMED, assumption 104. -/
def State.sendVector (s : State) (v : Nat) : State :=
  s.emit (.msix v (s.rd Reg.MSIX_ADDR_LO_ADDR v + s.rd Reg.MSIX_ADDR_HI_ADDR v * 2 ^ 32) (s.rd Reg.MSIX_DATA_DATA v))

/-- A message is due on a vector: it is sent, or its pending bit set while it is masked (R606). Nothing is sent while MSI-X is not
enabled in configuration space. PRESUMED, assumption 104. -/
def State.msix (s : State) (v : Nat) : State :=
  if !s.hep.msixEn then s else if s.masked v then s.setPending v true else s.sendVector v

/-- MSIX_SEND: the message of a completion queue, after its entries are written (R598, R631). -/
def execMsixSend (i : Fin 4096) (s : State) : Res :=
  match mfind s.cqs i.val with
  | none => .next s
  | some x => if x.msiDue then .next ((s.putCq i.val { x with msiDue := false }).msix x.vector) else .next s

/-- Each pending bit that is set while nothing masks its vector sends one message and is cleared (R606). -/
def State.flushPending (s : State) : State :=
  (upTo 2048).foldl (fun t v =>
    if bitOf (t.rd Reg.MSIX_PBA_PENDING (v / 32)) (v % 32) && !t.masked v && t.hep.msixEn then
      (t.sendVector v).setPending v false
    else t) s

/-- MSIX_UNMASK: a vector's mask, or the function's, is cleared (R606). -/
def execMsixUnmask (v : Option (Fin 2048)) (s : State) : Res :=
  match v with
  | some i => .next (s.clr Reg.MSIX_VCTRL_MASK i.val).flushPending
  | none => .next ({ s with hep := { s.hep with fnMask := false } } : State).flushPending

/-! ### Queue operations (R632 to R636) -/

/-- The write sets OP, and its GO begins the operation unless one is in progress (R12, R632). -/
def State.queueOp (s : State) (op : Nat) (f : State → State) : Res :=
  let s1 := s.wr Reg.CMDQ_OP_OP 0 op
  if s.flag Reg.CMDQ_OP_BUSY 0 then .next s1 else .next (f s1)

/-- RESULT of an operation. DESIGN CHOICE, assumption 117. -/
def State.opResult (s : State) (r : Nat) : State := s.wr Reg.CMDQ_OP_RESULT 0 r

def State.qid (s : State) : Nat := s.rd Reg.CMDQ_QID_QID 0
def State.qbase (s : State) : Nat := s.rd Reg.CMDQ_BASE_BASE 0 * 4096
def State.qvec (s : State) : Nat := s.rd Reg.CMDQ_QCFG_VECTOR 0
def State.qlow (s : State) : Nat := s.rd Reg.CMDQ_QCFG_LOW 0

/-- LOG2_DEPTH is from 1 to 16. -/
def State.depthOk (s : State) : Bool := decide (1 ≤ s.qlow) && decide (s.qlow ≤ 16)

/-- CREATE_CQ (R633, R634). DESIGN CHOICE, assumption 117. -/
def execCreateCq (s : State) : Res :=
  s.queueOp 1 fun t =>
    if 4096 ≤ t.qid ∨ !t.depthOk ∨ t.qvec = 0 ∨ 2048 ≤ t.qvec then t.opResult 1
    else if mhas t.cqs t.qid then t.opResult 4
    else (t.putCq t.qid { base := t.qbase, log2 := t.qlow, vector := t.qvec, ien := t.flag Reg.CMDQ_QCFG_IEN 0 }).opResult 0

/-- DELETE_CQ (R633). -/
def execDeleteCq (s : State) : Res :=
  s.queueOp 2 fun t =>
    if !mhas t.cqs t.qid then t.opResult 3
    else if t.sqs.any fun p => p.2.cq == t.qid then t.opResult 2
    else ({ t with cqs := mdel t.cqs t.qid } : State).opResult 0

/-- CREATE_SQ (R621, R633, R634). DESIGN CHOICE, assumption 117. -/
def execCreateSq (s : State) : Res :=
  s.queueOp 3 fun t =>
    if !t.depthOk ∨ !mhas t.cqs t.qvec then t.opResult 1
    else if t.sqs.any fun p => p.2.cq == t.qvec && p.1 / 64 != t.qid / 64 then t.opResult 2
    else if mhas t.sqs t.qid then t.opResult 4
    else (t.putSq t.qid { base := t.qbase, log2 := t.qlow, cq := t.qvec, quota := t.rd Reg.CMDQ_QCFG2_QUOTA 0,
                          acct := t.rd Reg.CMDQ_QCFG2_ACCOUNT 0 % 4096 }).opResult 0

/-- Every command of a queue is aborted (R635); the number of those that complete with ABORTED. -/
def State.abortQueue (s : State) (q : Nat) : State × Nat :=
  (s.cmds.filter fun c => c.sq == q).foldl (fun p c =>
    match p.1.cmds.find? fun x => x.ord == c.ord with
    | none => p
    | some x => match p.1.abortCmd x with | some t => (t, p.2 + 1) | none => p) (s, 0)

/-- DELETE_SQ: fetching from the queue stops and its commands are aborted (R635). -/
def execDeleteSq (s : State) : Res :=
  s.queueOp 4 fun t =>
    match mfind t.sqs t.qid with
    | none => t.opResult 3
    | some x =>
      let (u, n) := (t.putSq t.qid { x with deleting := true }).abortQueue t.qid
      ((match mfind u.sqs t.qid with
        | some y => u.putSq t.qid { y with abortedN := n }
        | none => u).set1 Reg.CMDQ_OP_BUSY 0).settle

/-- DELETE_SQ_COMPLETE: the last command of a deleted queue has completed: its buffers are released, the queue is gone and
the operation ends (R635, R684, R707). -/
def execDeleteSqComplete (s : State) : Res :=
  match s.sqs.find? fun p => p.2.deleting with
  | none => .next s
  | some (q, x) =>
    if s.cmds.any fun c => c.sq == q then .next s
    else
      let s1 : State := { s with sqs := mdel s.sqs q, bufs := s.bufs.map fun b =>
        (b.1, { b.2 with readers := b.2.readers.filter (fun r => r != q), gone := b.2.gone || b.2.owner == q }) }
      let s2 := (s1.settleAll.clr Reg.CMDQ_OP_BUSY 0).opResult 0
      .next (if x.abortedN = 0 then s2 else s2.raise 0x0903 [q, x.abortedN])

/-- PASID as CMDQ_QCFG2 gives it for a group. -/
def State.qpasid (s : State) : Nat := s.rd Reg.CMDQ_QCFG2_QUOTA 0 * 65536 + s.rd Reg.CMDQ_QCFG2_ACCOUNT 0

/-- SET_GROUP (R622, R633). DESIGN CHOICE, assumption 118. -/
def execSetGroup (s : State) : Res :=
  s.queueOp 5 fun t =>
    let g := t.grp t.qid
    let en := bitOf t.qlow 2
    if 1024 ≤ t.qid ∨ 2 ^ 20 ≤ t.qpasid then t.opResult 1
    else if (en != g.pasidEn || t.qpasid != g.pasid) && t.groupFlight t.qid != 0 then t.opResult 2
    else
      let g1 : Grp := { en := bitOf t.qlow 0, priv := bitOf t.qlow 1, pasidEn := en, pasid := t.qpasid,
                        inflight := if t.qvec = 0 then 4096 else t.qvec }
      ({ t with grps := mput t.grps t.qid g1 } : State).opResult 0

/-- CMDQ_QPTR takes a head and a tail. -/
def State.setPtr (s : State) (h t : Nat) : State := (s.wr Reg.CMDQ_QPTR_HEAD 0 h).wr Reg.CMDQ_QPTR_TAIL 0 t

/-- QUERY_CQ (R633). -/
def execQueryCq (s : State) : Res :=
  s.queueOp 6 fun t =>
    match mfind t.cqs t.qid with
    | none => t.opResult 3
    | some x =>
      let t1 := ((t.wr Reg.CMDQ_BASE_BASE 0 (x.base / 4096)).wr Reg.CMDQ_QCFG_VECTOR 0 x.vector).wrB Reg.CMDQ_QCFG_IEN 0 x.ien
      ((t1.wr Reg.CMDQ_QCFG_LOW 0 x.log2).setPtr x.head x.tail).opResult 0

/-- QUERY_SQ (R633). -/
def execQuerySq (s : State) : Res :=
  s.queueOp 7 fun t =>
    match mfind t.sqs t.qid with
    | none => t.opResult 3
    | some x =>
      let t1 := ((t.wr Reg.CMDQ_BASE_BASE 0 (x.base / 4096)).wr Reg.CMDQ_QCFG_VECTOR 0 x.cq).clr Reg.CMDQ_QCFG_IEN 0
      let t2 := ((t1.wr Reg.CMDQ_QCFG_LOW 0 x.log2).wr Reg.CMDQ_QCFG2_QUOTA 0 x.quota).wr Reg.CMDQ_QCFG2_ACCOUNT 0 x.acct
      (t2.setPtr x.head x.tail).opResult 0

/-- QUERY_GROUP (R633). -/
def execQueryGroup (s : State) : Res :=
  s.queueOp 8 fun t =>
    if 1024 ≤ t.qid then t.opResult 3
    else
      let g := t.grp t.qid
      let low := (if g.en then 1 else 0) + (if g.priv then 2 else 0) + (if g.pasidEn then 4 else 0)
      let t1 := ((t.wr Reg.CMDQ_QCFG_VECTOR 0 (g.inflight % 4096)).clr Reg.CMDQ_QCFG_IEN 0).wr Reg.CMDQ_QCFG_LOW 0 low
      ((t1.wr Reg.CMDQ_QCFG2_QUOTA 0 (g.pasid / 65536)).wr Reg.CMDQ_QCFG2_ACCOUNT 0 g.pasid).opResult 0

end Sys2Proof.Machine
end

