-- ==== Sys2Proof/Machine/DataCmds.lean ====
section
/-!
DEFINITION. The commands on data, zones and buffers: READ, WRITE, VERIFY, FLUSH, ZONE_CLOSE, DISC_FINALIZE, BUFFER_ALLOC,
BUFFER_RELEASE, BUFFER_SHARE, and the buffers that copy commands draw (R28, R32 to R37, R325 to R330, R651 to R662, R693 to
R707).
-/

namespace Sys2Proof.Machine

/-! ### Buffers of copy commands (R699 to R701) -/

/-- The slice whose bulk engine moves a frame of a zone: its head's, else that of engine 0. -/
def State.moveSlice (s : State) (zk : Nat) : Nat := ((s.zoneHead zk).bind s.sliceOf).getD 0

/-- A copy READ, or a WRITE that another cell serves, keeps its frames in its own list. -/
def Cmd.listed (c : Cmd) : Bool := c.op == opRead || c.away.isSome

/-- A copy command has a frame without a buffer. -/
def State.lacks (s : State) (c : Cmd) : Bool :=
  if c.listed then c.frames.any fun f => f.buf == noBuf && f.fate == .wanted
  else (s.ownFrames c).any fun h => h.buf == noBuf

/-- Buffers a command holds now. -/
def Cmd.holding (c : Cmd) : Nat := c.bufs.length

/-- A buffer is given to the first frame of a command that has none: a READ's frame may then be read or served; a WRITE's
data is fetched into it (R700). -/
def State.giveBuf (s : State) (c : Cmd) (k : Nat) : State :=
  let addr := hdmBase + s.bufOffset k
  let s1 := s.updCmd c.sq c.tag fun x => if x.bufs.contains k then x else { x with bufs := x.bufs ++ [k] }
  if c.listed then
    match c.frames.findIdx? fun f => f.buf == noBuf && f.fate == .wanted with
    | none => s1
    | some i =>
      let s2 := s1.updCmd c.sq c.tag fun x => x.setFrame i fun f => { f with buf := k, addr := addr, slot := s.slotOf f.zone f.index }
      if c.op = opWrite then
        s2.queueMove c i (s.moveSlice (c.frameAt i).1) k (s.bufOffset k) (i * 65536) 65536 false
      else s2
  else
    match (s.ownFrames c).find? fun h => h.buf == noBuf with
    | none => s1
    | some h =>
      let i := h.index - bitsOf c.aaddr 16 13
      let s2 : State := { s1 with held := s1.held.map fun x => if x == h then { x with buf := k, addr := addr } else x }
      s2.queueMove c i (s.moveSlice h.zone) k (s.bufOffset k) (i * 65536) 65536 false

/-- A frame of a READ or VERIFY that is held for writing is served from its buffer, without media access and without a count of
frames (R327, R821). DESIGN CHOICE, assumption 123. -/
def State.serveHeld (s : State) (sq tag : Nat) : State :=
  match s.cmd? sq tag with
  | none => s
  | some c =>
    (upTo c.frames.length).foldl (fun t i =>
      match c.frames[i]? with
      | none => t
      | some f =>
        match t.held.find? fun h => h.zone == f.zone && h.index == f.index && h.present && !h.failed with
        | none => t
        | some h =>
          if f.fate == .wanted && c.placed f then
            let t1 := t.updCmd sq tag fun x => x.setFrame i fun y => { y with fate := .delivered }
            let t2 := (t1.ownRead h.addr 65536).placeFrame c i (t.moveSlice f.zone) (t.bytes h.addr 65536)
            if c.op = opRead ∧ c.inPlace ∧ c.origin.isNone then t2.tap c.acct 2 (c.part i).2.2 else t2
          else t) s

/-- Buffers a copy command may hold at once: COPY_WINDOW, from 1 to 64 (R700). -/
def State.copyWindow (s : State) : Nat := clampNat 1 64 (s.rd Reg.BPM_CTRL_COPY_WINDOW 0)

/-- A copy command may take a further buffer now (R700). -/
def State.mayTake (s : State) (c : Cmd) : Bool :=
  s.lacks c && decide (c.holding < s.copyWindow) && s.quotaOk c.sq 16 && decide (0 < s.poolFree 2)

/-- One further buffer is taken and given. -/
def State.takeOne (s : State) (c : Cmd) : State :=
  match s.takeBuf 2 c.sq (some c.ord) with
  | none => s
  | some (k, s1) => let t := s1.giveBuf c k; if c.phase == .waiting then t else t.serveHeld c.sq c.tag

/-- Up to n further buffers at once. DESIGN CHOICE, assumption 124. -/
def State.takeMany : Nat → State → Nat → Nat → State
  | 0, s, _, _ => s
  | n + 1, s, sq, tag =>
    match s.cmd? sq tag with
    | none => s
    | some c => if s.mayTake c then (s.takeOne c).takeMany n sq tag else s

/-- A copy command asks for the buffers it lacks: it takes what it can at once unless others wait, and waits in turn for the rest
(R698, R700). DESIGN CHOICE, assumption 124. -/
def State.wantBuffers (s : State) (sq tag : Nat) : State :=
  let s1 := if s.copyWait.isEmpty then s.takeMany 255 sq tag else s
  match s1.cmd? sq tag with
  | none => s1
  | some c =>
    if s1.lacks c && decide (c.holding < s1.copyWindow) && !(s1.copyWait.any fun w => w.ord == c.ord) then
      { s1 with copyWait := s1.copyWait ++ [{ sq := sq, tag := tag, ord := c.ord }] }
    else s1

/-- The command of a waiting request, while it still lacks a buffer. -/
def State.waiter (s : State) (w : CopyWait) : Option Cmd :=
  match s.cmds.find? fun c => c.ord == w.ord && c.sq == w.sq with
  | some c => if (c.phase == .started || (c.phase == .waiting && c.checked)) && s.lacks c then some c else none
  | none => none

/-- COPY_BUFFER_GRANT: of the commands that wait for a buffer of pool 2, the first that the pool and its own quota can serve
receives one (R698). -/
def execCopyBufferGrant (s : State) : Res :=
  let s0 : State := { s with copyWait := s.copyWait.filter fun w => (s.waiter w).isSome }
  match s0.copyWait.find? fun w => match s0.waiter w with | some c => s0.mayTake c | none => false with
  | none => .next s0
  | some w =>
    match s0.waiter w with
    | none => .next s0
    | some c =>
      let s1 := s0.takeOne c
      let more := match s1.waiter w with
        | some d => decide (d.holding < s1.copyWindow)
        | none => false
      .next ({ s1 with copyWait := if more then s1.copyWait else s1.copyWait.filter fun x => x.ord != w.ord } : State).settle

/-! ### Lists and stations -/

/-- The outcome of reading a command's list (R651, R723): none where it is in order, else a status and FIELD. DESIGN CHOICE,
assumption 114. -/
def Cmd.listCheck (c : Cmd) (sgl : Option (List (Nat × Nat × Nat))) : Option (Nat × Nat) :=
  if c.inPlace || c.get 28 4 == 0 then none
  else
    match sgl with
    | none => some (stHostAccess, 0)
    | some l =>
      let e := l.take (c.get 28 4)
      if (e.any fun p => p.2.2 != 0) || decide (e.foldl (fun a p => a + p.2.1) 0 < c.length) then some (stInvalidField, 28) else none

/-- A command takes its list. -/
def State.keepList (s : State) (c : Cmd) (sgl : Option (List (Nat × Nat × Nat))) : State :=
  let s1 := s.hostReads (s.pasidOf c.grp) (c.flagBit 3) (c.get 32 8) (16 * c.get 28 4)
  (s1.updCmd c.sq c.tag fun x => { x with sgl := ((sgl.getD []).take (c.get 28 4)).map fun p => (p.1, p.2.1) }).pretrans c.sq c.tag

/-- A command that fails before its first action. -/
def State.failStart (s : State) (c : Cmd) (status field : Nat) : State :=
  if c.op = opWrite then
    match s.ownFrames c with
    | [] => s.finish c.sq c.tag status 0 0 field
    | h :: r => (s.finish c.sq c.tag status 0 0 field).fallBack h.zone (r.foldl (fun m x => min m x.index) h.index)
  else s.finish c.sq c.tag status 0 0 field

/-- A head cannot serve: its port is not ACTIVE, it is not enabled, or it or its spindle is in FAULT (R415, R419). DESIGN CHOICE,
assumption 126. -/
def State.headDead (s : State) (h : Nat) : Bool :=
  !s.active (h / 2) || !s.flag Reg.STN_HD_CTRL_EN h || s.hd h == hdFault || s.spState (h / 2) == spFault

/-- A station put to rest by EMBER is brought up again: its spindle started and the sleds of its parked heads taken to the
lead-in, where they acquire (R417, R859). DESIGN CHOICE, assumption 127. -/
def State.wake (s : State) (n : Nat) : State :=
  let s1 := if s.rd Reg.STN_SP_TARGET_RPM n = 0 then s.spinTarget n 10000 else s
  let s2 := [2 * n, 2 * n + 1].foldl (fun t h =>
    if t.flag Reg.STN_HD_CTRL_EN h && t.hd h == hdParked && t.axState h != axMoving && t.axState h != axHoming
      && t.axPos h != t.leadInPos then t.headMove h t.leadInPos else t) s1
  s2.mountGo n

/-- The heads that some zones need. -/
def State.headsOf (s : State) (zs : List Nat) : List Nat := (zs.filterMap s.zoneHead).eraseDups

/-! ### READ and VERIFY -/

/-- A frame's existence (R328): none where it may be read or waits for its zone's search, else the status. -/
def State.frameMissing (s : State) (zk i : Nat) : Option Nat :=
  let z := s.zone zk
  if i < z.frames ∨ s.held.any fun h => h.zone == zk && h.index == i && h.present && !h.failed then none
  else match z.state with
    | .closed => some stAddressRange
    | .short => some stAddressRange
    | _ => if z.resolve then none else some stWriteFrontier

/-- A frame at or beyond the frontier of a zone that is still searched cannot be judged yet. -/
def State.frameOpen (s : State) (zk i : Nat) : Bool :=
  let z := s.zone zk
  z.resolve && decide (z.frames ≤ i) && !(s.held.any fun h => h.zone == zk && h.index == i && h.present && !h.failed)

/-- The frames of a command as it wants them: in place at their places in the buffer, a copy READ's without a buffer yet. -/
def State.frameList (s : State) (c : Cmd) : List FrameReq :=
  let base := match s.known (c.get 32 4) with
    | some (k, _) => (hdmBase + s.bufOffset k + c.get 36 4, k)
    | none => (0, noBuf)
  (upTo c.frameCount).map fun i =>
    let f := c.frameAt i
    { zone := f.1, index := f.2, slot := s.slotOf f.1 f.2,
      addr := if c.inPlace && c.origin.isNone then base.1 + i * 65536 else 0,
      buf := if c.inPlace && c.origin.isNone then base.2 else noBuf }

/-- A command that another cell serves is sent there, with the frames it awaits. A WRITE's data in place goes with it
(R553, R554). -/
def State.sendFar (s : State) (c : Cmd) (cell : Nat) : State :=
  let fs := if c.frames.isEmpty then s.frameList c else c.frames
  let s1 := s.updCmd c.sq c.tag fun x => { x with frames := fs }
  let s2 := s1.forward c cell
  if c.inPlace then
    if c.op = opWrite then
      (upTo fs.length).foldl (fun t i =>
        let a := (fs.getD i { zone := 0, index := 0, slot := 0 }).addr
        (t.ownRead a 65536).ringSend cell 0x07 ([c.sq, c.tag, i, 0] ++ t.bytes a 65536)) s2
    else s2
  else
    match c.bufs with
    | [] => s2
    | k :: _ =>
      (s2.cmd? c.sq c.tag).elim s2 fun d => (s2.giveBuf d k).wantBuffers c.sq c.tag

/-- A READ or VERIFY begins: frames must exist, its heads must serve; frames held for writing come from their buffers, the
others wait for their slots (R327, R328, R651, R654). -/
def State.beginRead (s : State) (c : Cmd) : State :=
  let had := c.checked && !c.frames.isEmpty
  let fs := if had then c.frames.map fun f => { f with slot := s.slotOf f.zone f.index } else s.frameList c
  match fs.findSome? fun f => s.frameMissing f.zone f.index with
  | some st => s.fail c.sq c.tag st
  | none =>
    let hs := s.headsOf (fs.map (·.zone))
    if hs.any s.headDead then s.fail c.sq c.tag stStationFault
    else
      let s1 := (s.start c).updCmd c.sq c.tag fun x => { x with frames := fs }
      let s2 := if c.op = opRead ∧ !c.inPlace ∧ c.origin.isNone ∧ !had then
          (match c.bufs, s1.cmd? c.sq c.tag with
           | k :: _, some d => (s1.giveBuf d k).wantBuffers c.sq c.tag
           | _, _ => s1)
        else s1
      let s3 := s2.serveHeld c.sq c.tag
      match s3.cmd? c.sq c.tag with
      | none => s3
      | some d =>
        let s4 := s3.joinLadders d
        let need := s4.headsOf ((d.frames.filter fun f => f.fate == .wanted).map (·.zone))
        need.foldl (fun t h => (t.wantSlice h false).wake (h / 2)) s4

/-- A command with a launch time, not yet launched, whose list has not been read. -/
def State.early (s : State) (q tag op : Nat) : Option Cmd :=
  match s.cmd? q tag with
  | some c => if c.phase == .waiting && c.op == op && c.launch.isSome && !c.checked && c.away.isNone && c.origin.isNone then some c else none
  | none => none

/-- A LAUNCH_AT command is checked and given its buffers as soon as it arrives (R81); one that another cell may serve draws them when
it is sent on. -/
def State.prepare (s : State) (c : Cmd) (sgl : Option (List (Nat × Nat × Nat))) : State :=
  match c.listCheck sgl with
  | some (st, f) => s.failStart c st f
  | none =>
    let s1 := (s.keepList c sgl).updCmd c.sq c.tag fun x => { x with checked := true }
    if c.inPlace || !s.zoneHere (aaddrZone c.aaddr) then s1
    else
      let fs := s.frameList c
      let s2 := if c.op = opRead then s1.updCmd c.sq c.tag fun x => { x with frames := fs } else s1
      match c.bufs, s2.cmd? c.sq c.tag with
      | k :: _, some d => (s2.giveBuf d k).wantBuffers c.sq c.tag
      | _, _ => s2

/-- What is wrong with the list of a command whose row comes, unless it was checked before its launch. -/
def Cmd.listFault (c : Cmd) (sgl : Option (List (Nat × Nat × Nat))) : Option (Nat × Nat) :=
  if c.checked || c.origin.isSome then none else c.listCheck sgl

/-- The list of a command whose row comes is kept, unless that was done before its launch. -/
def State.takeList (s : State) (c : Cmd) (sgl : Option (List (Nat × Nat × Nat))) : State :=
  if c.checked then s else s.keepList c sgl

/-- READ (R651, R654 to R656, R723). The list is given as read from host memory. -/
def execRead (q : BitVec 20) (tag : BitVec 12) (sgl : Option (List (Nat × Nat × Nat))) (s : State) : Res :=
  match s.runnable q.toNat tag.toNat opRead with
  | none =>
    match s.early q.toNat tag.toNat opRead with
    | some c => .next (s.prepare c sgl).settle
    | none => .next s
  | some c =>
    match c.listFault sgl with
    | some (st, f) => .next (s.failStart c st f).settle
    | none =>
      let s1 := s.takeList c sgl
      match c.away with
      | some cell => .next (s1.sendFar c cell).settle
      | none => if (s.frameList c).any fun f => s.frameOpen f.zone f.index then .next s else .next (s1.beginRead c).settle

/-- VERIFY (R330, R651). -/
def execVerify (q : BitVec 20) (tag : BitVec 12) (s : State) : Res :=
  match s.runnable q.toNat tag.toNat opVerify with
  | none => .next s
  | some c => if (s.frameList c).any fun f => s.frameOpen f.zone f.index then .next s else .next (s.beginRead c).settle

/-! ### WRITE, FLUSH, ZONE_CLOSE, DISC_FINALIZE -/

/-- Writing that stopped under R325 goes on in the zones that satisfy a test (R326). DESIGN CHOICE, assumption 59. -/
def State.resumeZones (s : State) (p : Nat → Bool) : State :=
  { s with held := s.held.map (fun h => if p h.zone && h.stage == .stopped then { h with stage := .buffered, tries := 0 } else h),
           zones := s.zones.map fun z => if p z.1 then (z.1, { z.2 with stopped := false }) else z }

/-- A WRITE begins: its data is held in place, or fetched into the buffers it draws (R36, R655, R700). An uninitialised disc is
initialised first (R223). A zone that its mount shows may not open stays BLANK (R232). DESIGN CHOICE, assumption 40. -/
def State.beginWrite (s : State) (c : Cmd) : State :=
  let zk := aaddrZone c.aaddr
  match s.zoneHead zk with
  | none => s.failStart c stDiscNotMounted 0
  | some h =>
    if s.headDead h then s.failStart c stStationFault 0
    else if (s.zone zk).frontier = 0 ∧ (s.zone zk).state = .open_ ∧ !(s.zone zk).resolve ∧ !s.mayOpen zk then
      let s1 := s.failZoneWrites zk stZoneClosed
      let s2 := s1.fallBack zk 0
      s2.putZone zk { s2.zone zk with state := .blank }
    else
      let s0 := s.start c
      let sI := if s0.mgmtDue (zoneDisc zk) then s0 else s0.initDisc (zoneDisc zk)
      let s1 := sI.resumeZones (· == zk)
      let s2 : State := if c.inPlace ∧ c.origin.isNone then
          { s1 with held := s1.held.map fun x => if x.sq == c.sq && x.tag == c.tag && x.ord == c.ord then { x with present := true } else x }
        else s1
      let s3 := if c.inPlace ∨ c.origin.isSome then s2
        else match c.bufs with
          | k :: _ => if (s2.ownFrames c).any (fun x => x.buf != noBuf) then s2 else (s2.giveBuf c k).wantBuffers c.sq c.tag
          | [] => s2
      (s3.wantSlice h true).wake (h / 2)

/-- WRITE (R652, R655, R656, R699, R723). -/
def execWrite (q : BitVec 20) (tag : BitVec 12) (sgl : Option (List (Nat × Nat × Nat))) (s : State) : Res :=
  match s.runnable q.toNat tag.toNat opWrite with
  | none =>
    match s.early q.toNat tag.toNat opWrite with
    | some c => .next (s.prepare c sgl).settle
    | none => .next s
  | some c =>
    match c.listFault sgl with
    | some (st, f) => .next (s.failStart c st f).settle
    | none =>
      let s1 := s.takeList c sgl
      match c.away with
      | some cell => .next (s1.sendFar c cell).settle
      | none => .next (s1.beginWrite c).settle

/-- FLUSH (R657): it resumes stopped writing of its scope and waits until what was accepted before it has settled. -/
def execFlush (q : BitVec 20) (tag : BitVec 12) (s : State) : Res :=
  match s.runnable q.toNat tag.toNat opFlush with
  | none => .next s
  | some c =>
    let s1 := (s.start c).resumeZones c.flushes
    let hs := s1.headsOf ((s1.held.filter fun h => c.flushes h.zone).map (·.zone))
    .next (hs.foldl (fun t h => (t.wantSlice h true).wake (h / 2)) s1).settle

/-- ZONE_CLOSE (R658): a zone already closed, or one of a finalised side, completes with ZONE_CLOSED. DESIGN CHOICE, assumption
125. -/
def execZoneClose (q : BitVec 20) (tag : BitVec 12) (s : State) : Res :=
  match s.runnable q.toNat tag.toNat opZoneClose with
  | none => .next s
  | some c =>
    let zk := aaddrZone c.aaddr
    let z := s.zone zk
    if z.state = .closed ∨ z.state = .short ∨ ((s.disc (zoneDisc zk)).side (zoneSide zk)).finalised then
      .next (s.fail c.sq c.tag stZoneClosed)
    else
      match s.zoneHead zk with
      | none => .next (s.fail c.sq c.tag stDiscNotMounted)
      | some h =>
        if s.headDead h then .next (s.fail c.sq c.tag stStationFault)
        else .next (((s.start c).resumeZones c.flushes).wantSlice h true |>.wake (h / 2)).settle

/-- DISC_FINALIZE (R659). -/
def execDiscFinalize (q : BitVec 20) (tag : BitVec 12) (s : State) : Res :=
  match s.runnable q.toNat tag.toNat opFinalize with
  | none => .next s
  | some c =>
    let d := aaddrDisc c.aaddr
    let x := s.disc d
    if x.a.finalised && x.b.finalised then .next (s.fail c.sq c.tag stZoneClosed)
    else
      match s.zoneHead (d * 2048) with
      | none => .next (s.fail c.sq c.tag stDiscNotMounted)
      | some h =>
        if s.headDead h || s.headDead (h + 1) then .next (s.fail c.sq c.tag stStationFault)
        else
          let s1 := (s.start c).resumeZones c.flushes
          .next (((s1.wantSlice h true).wantSlice (h + 1) true).wake (h / 2)).settle

/-! ### Buffers (R660 to R662, R693 to R706) -/

/-- BUFFER_ALLOC: quota, then the smallest pool that holds SIZE; the buffer is zeroed and put in device bias (R582, R660,
R693, R695, R696). -/
def execBufferAlloc (q : BitVec 20) (tag : BitVec 12) (s : State) : Res :=
  match s.runnable q.toNat tag.toNat opAlloc with
  | none => .next s
  | some c =>
    match poolFor (c.get 16 4) with
    | none => .next (s.finish c.sq c.tag stInvalidField 0 0 16)
    | some p =>
      if !s.quotaOk c.sq (poolGranules p) then .next (s.fail c.sq c.tag stQuota)
      else
        match s.takeBuf p c.sq none with
        | none => .next ((s.poolEmpty p).fail c.sq c.tag stPoolEmpty)
        | some (k, s1) =>
          let s2 := s1.zeroMem (hdmBase + s1.bufOffset k) (poolSize p)
          .next (s2.finish c.sq c.tag stSuccess (s2.handle k) (s2.bufOffset k / 4096) 0)

/-- BUFFER_RELEASE (R661, R692, R705, R706). -/
def execBufferRelease (q : BitVec 20) (tag : BitVec 12) (s : State) : Res :=
  match s.runnable q.toNat tag.toNat opRelease with
  | none => .next s
  | some c =>
    match s.known (c.get 16 4) with
    | none => .next (s.finish c.sq c.tag stInvalidField 0 0 16)
    | some (k, b) =>
      if b.owner ≠ c.sq then .next (s.fail c.sq c.tag stNotOwner)
      else if s.bufHeld k then .next (s.fail c.sq c.tag stSharedBusy)
      else .next ((s.freeBuf k).fail c.sq c.tag stSuccess)

/-- BUFFER_SHARE (R582, R662, R702 to R705). -/
def execBufferShare (q : BitVec 20) (tag : BitVec 12) (s : State) : Res :=
  match s.runnable q.toNat tag.toNat opShare with
  | none => .next s
  | some c =>
    let dest := c.get 20 2
    match s.known (c.get 16 4) with
    | none => .next (s.finish c.sq c.tag stInvalidField 0 0 16)
    | some (k, b) =>
      let others := b.readers.filter fun r => r != dest
      if b.owner ≠ c.sq then .next (s.fail c.sq c.tag stNotOwner)
      else if s.bufHeld k then .next (s.fail c.sq c.tag stSharedBusy)
      else if !mhas s.sqs dest || (dest / 64 != c.grp && !(s.grp c.grp).priv) || decide (8 ≤ others.length) then
        .next (s.finish c.sq c.tag stInvalidField 0 0 20)
      else if dest ≠ c.sq ∧ !s.quotaOk dest (poolGranules (bufPool k)) then .next (s.fail c.sq c.tag stQuota)
      else
        let b1 := { b with owner := dest, readers := if dest = c.sq then others else others ++ [c.sq] }
        .next ((({ s with bufs := mput s.bufs k b1 } : State).toDevice k).fail c.sq c.tag stSuccess)

end Sys2Proof.Machine
end

