-- ==== Sys2Proof/Machine/Dma.lean ====
section
/-!
DEFINITION. The pool layout and the DMA engines (R582, R592, R685 to R690, R708 to R727).
-/

namespace Sys2Proof.Machine

/-! ### The layout (R685 to R690) -/

/-- Fitted DRAM in bytes. -/
def State.fittedDram (s : State) : Nat :=
  ((upTo 4).filter fun c => s.flag Reg.MEMC_CHAN_FITTED c).foldl (fun a c => a + s.rd Reg.MEMC_CHAN_SIZE c * 2 ^ 30) 0

/-- Range 1 Size, R577. -/
def State.rangeSize (s : State) : Nat := s.fittedDram - hdmBase

/-- The HDM offsets a pool covers, first and one past the last. -/
def State.poolSpan (s : State) (p : Nat) : Nat × Nat :=
  let b := s.rd Reg.BPM_POOL_BASE_BASE p * 4096
  (b, b + s.rd Reg.BPM_POOL_CNT_COUNT p * poolSize p)

/-- A pool satisfies R687. -/
def State.poolOk (s : State) (p : Nat) : Bool :=
  let x := s.poolSpan p
  x.1 % poolSize p == 0 && decide (x.2 ≤ s.rangeSize) && (upTo 6).all fun q =>
    q == p || (s.poolSpan q).2 == (s.poolSpan q).1 || x.2 == x.1 || !rangesMeet x (s.poolSpan q)

/-- The first pool that fails. DESIGN CHOICE, assumption 136. -/
def State.badPool (s : State) : Option Nat := (upTo 6).find? fun p => !s.poolOk p

/-- EN is set: the layout is checked, and becomes active with every buffer free, or LAYOUT_ERR is set (R688, R691). -/
def State.bpmEnable (s : State) : State :=
  if s.flag Reg.BPM_CTRL_EN 0 then s
  else
    match s.badPool with
    | some p => ((s.wr Reg.BPM_STATUS_ERR_POOL 0 p).set1 Reg.BPM_STATUS_LAYOUT_ERR 0).raise 0x0905 [p]
    | none =>
      let s1 : State := { s with bufs := [], gens := [], pools := [] }
      let s2 := (s1.set1 Reg.BPM_CTRL_EN 0).set1 Reg.BPM_STATUS_ACTIVE 0
      (upTo 6).foldl (fun t p => t.wr Reg.BPM_POOL_STAT_LOW_LOW p (t.rd Reg.BPM_POOL_CNT_COUNT p)) s2

/-- BPM_ENABLE: a write of 1 to EN (R688, R691). -/
def execBpmEnable (s : State) : Res := .next s.bpmEnable

/-- Where a pool's share of Range 1 Size begins, in 64ths; it ends where the next one's begins (R690). -/
def shareFrom : Nat → Nat
  | 0 => 0
  | 1 => 1
  | 2 => 2
  | 3 => 34
  | 4 => 42
  | 5 => 50
  | _ => 64

/-- The share of a pool, its base rounded up and its COUNT rounded down to whole buffers (R690). DESIGN CHOICE, assumption 233. -/
def State.firmPool (s : State) (p : Nat) : State :=
  let b := (s.rangeSize * shareFrom p / 64 + poolSize p - 1) / poolSize p * poolSize p
  (s.wr Reg.BPM_POOL_BASE_BASE p (b / 4096)).wr Reg.BPM_POOL_CNT_COUNT p ((s.rangeSize * shareFrom (p + 1) / 64 - b) / poolSize p)

/-- Controller firmware lays out the pools and sets EN, where no layout is active (R690). DESIGN CHOICE, assumption 233. -/
def State.firmLayout (s : State) : State :=
  if s.flag Reg.BPM_STATUS_ACTIVE 0 then s else ((upTo 6).foldl (fun t p => t.firmPool p) s).bpmEnable

/-- BPM_DISABLE: a write of 0 to EN is discarded while a buffer is allocated or held or a command is in flight (R689). -/
def execBpmDisable (s : State) : Res :=
  if !s.bufs.isEmpty || !s.cmds.isEmpty || !s.held.isEmpty then .next s
  else .next ((s.clr Reg.BPM_CTRL_EN 0).clr Reg.BPM_STATUS_ACTIVE 0)

/-! ### Descriptors (R713 to R717) -/

/-- R715. DESIGN CHOICE, assumption 132. -/
def Desc.ok (d : Desc) : Bool :=
  d.dstSpace != 3 && decide (1 ≤ d.len) && decide (d.len ≤ 2 ^ 24) && !bitOf d.ctrl 4 && bitsOf d.ctrl 8 8 == 0

/-- The DRAM address of an address in a space: 1 HDM offset, 2 private region. -/
def dramAddr (space a : Nat) : Nat := if space = 1 then hdmBase + a else a

/-- A pattern of 8 bytes repeated over n bytes. -/
def fillBytes (pattern n : Nat) : List Nat := (upTo n).map fun i => pattern / 256 ^ (i % 8) % 256

/-- Bytes reach the destination of a channel's descriptor. -/
def State.deliver (s : State) (ch : Nat) (d : Desc) (bs : List Nat) : State :=
  if d.dstSpace = 0 then s.hostWrites (s.chanPasid ch) d.relaxed d.dst bs
  else (s.ownWrite (dramAddr d.dstSpace d.dst) bs).touchDram

/-- STATUS codes of R714. -/
def deDone : Nat := 1
def deBadBus : Nat := 2
def deBusHalt : Nat := 3
def deEcc : Nat := 4
def deField : Nat := 5

/-- RETRIES and STATUS are written back (R714). -/
def State.writeBack (s : State) (ch a retries status : Nat) : State :=
  (s.store (a + 30) [retries, status]).wr Reg.DMA_CH_STATUS_LAST ch status

/-! ### What a chain's end means to its command (R701, R709, R723) -/

/-- How the chain of a frame ended. -/
inductive ChainEnd where
  | ok | bus | ecc | refused
deriving DecidableEq, Repr

/-- The status a failed chain gives its command. DESIGN CHOICE, assumption 133. -/
def ChainEnd.status : ChainEnd → Nat
  | .ok => stSuccess
  | .bus => stHostAccess
  | .ecc => stDataEcc
  | .refused => stHostAccess

/-- A frame's buffer is freed by its command, which may then take another (R700, R701). -/
def State.frameDone (s : State) (c : Cmd) (k : Nat) : State :=
  let s1 := s.updCmd c.sq c.tag fun x => { x with bufs := x.bufs.filter fun b => b != k }
  (s1.settleBuf k).wantBuffers c.sq c.tag

/-- The frame of a copy READ has moved, or could not be read from its buffer. -/
def State.readMoved (s : State) (c : Cmd) (j : ChanJob) (r : ChainEnd) : State :=
  if r = .ok then (s.updCmd c.sq c.tag fun x => x.setFrame j.idx fun f => { f with moved := true }).frameDone c j.buf
  else (s.leaveLadders c.sq c.tag).fail c.sq c.tag r.status

/-- The data of a WRITE's frame has come, or could not be read. -/
def State.writeMoved (s : State) (c : Cmd) (j : ChanJob) (r : ChainEnd) : State :=
  match c.away with
  | some cell =>
    let f := c.frames.getD j.idx { zone := 0, index := 0, slot := 0 }
    let s1 := s.updCmd c.sq c.tag fun x => x.setFrame j.idx fun y => { y with fate := .delivered, moved := true }
    let data := if r = .ok then 0 :: s.bytes f.addr 65536 else [if r = .ecc then 3 else 2]
    ((if r = .ok then s1.ownRead f.addr 65536 else s1).ringSend cell 0x07 ([c.sq, c.tag, j.idx] ++ data)).frameDone c j.buf
  | none =>
    let first := bitsOf c.aaddr 16 13
    match (s.ownFrames c).find? fun h => h.index == first + j.idx with
    | none => s
    | some h =>
      if r = .ok then { s with held := s.held.map fun x => if x == h then { x with present := true } else x }
      else s.writeBroken h r.status

/-- A bulk chain is over: the sequencer records its outcome and resets a halted channel (R722, R723). -/
def State.chainOver (s : State) (ch : Nat) (r : ChainEnd) : State :=
  match mfind s.chanJobs ch with
  | none => s
  | some j =>
    let s1 : State := { s with chanJobs := mdel s.chanJobs ch }
    let s2 := if s1.chanState ch = chHalted then s1.wr Reg.DMA_CH_STATUS_STATE ch chIdle else s1
    match s2.cmds.find? fun c => c.ord == j.ord && c.sq == j.sq with
    | none => s2.settleAll
    | some c =>
      if c.phase = .fixed then s2.settleAll
      else if c.op = opRead then s2.readMoved c j r
      else s2.writeMoved c j r

/-- The fetch of a WRITE's data that found no channel free is placed on one now. -/
def State.requeueWrites (s : State) : State :=
  (s.cmds.filter fun c => c.op == opWrite && !c.inPlace && c.phase == .started && c.origin.isNone).foldl (fun t c =>
    let busy := fun (u : State) (i : Nat) => u.chanJobs.any fun p => p.2.ord == c.ord && p.2.idx == i
    if c.away.isSome then
      (upTo c.frames.length).foldl (fun u i =>
        match c.frames[i]? with
        | none => u
        | some f =>
          if f.fate == .wanted && f.buf != noBuf && !busy u i then
            u.queueMove c i (u.moveSlice f.zone) f.buf (u.bufOffset f.buf) (i * 65536) 65536 false
          else u) t
    else
      (t.ownFrames c).foldl (fun u h =>
        let i := h.index - bitsOf c.aaddr 16 13
        if !h.present && h.buf != noBuf && !busy u i then
          u.queueMove c i (u.moveSlice h.zone) h.buf (u.bufOffset h.buf) (i * 65536) 65536 false
        else u) t) s

/-- Frames delivered to copy READs whose DMA found no channel free are placed on channels now. -/
def State.requeueReads (s : State) : State :=
  (s.cmds.filter fun c => c.op == opRead && !c.inPlace && c.phase == .started && c.origin.isNone).foldl (fun t c =>
    (upTo c.frames.length).foldl (fun u i =>
      match c.frames[i]? with
      | none => u
      | some f =>
        if f.fate == .delivered && !f.moved && f.buf != noBuf && !(u.chanJobs.any fun p => p.2.ord == c.ord && p.2.idx == i) then
          let p := c.part i
          u.queueMove c i (u.moveSlice f.zone) f.buf (u.bufOffset f.buf + p.2.1) p.1 p.2.2 true
        else u) t) s

/-- Work that waited for a channel takes one. -/
def State.requeue (s : State) : State := s.requeueReads.requeueWrites

/-! ### Channels (R710 to R722) -/

/-- DMA_CHANNEL_START: a write of 1 to START (R710); from the host link it is discarded (R708). -/
def execDmaChannelStart (src : Src) (ch : Fin 2176) (s : State) : Res :=
  if src = .host then .next s else .next (s.startChan ch.val)

/-- The translations that an engine's descriptor needs are used, or asked for (R591, R594). -/
def State.useDesc (s : State) (e : Nat) : State :=
  let x := s.engine e
  match x.running with
  | none => s
  | some ch =>
    let d := s.desc x.desc
    match d.hostUse with
    | some (a, n) => s.useHost (s.chanPasid ch) a n
    | none => s

/-- Every translation that an engine's descriptor needs is held, or ATS is not enabled (R590, R595). -/
def State.descReady (s : State) (e : Nat) : Bool :=
  let x := s.engine e
  match x.running, (s.desc x.desc).hostUse with
  | some ch, some (a, n) => s.held? (s.chanPasid ch) a n
  | _, _ => true

/-- DMA_CHANNEL_RUN: an engine without a running channel takes the one that has waited longest (R710). -/
def execDmaChannelRun (e : Fin 40) (s : State) : Res :=
  let x := s.engine e.val
  match x.running, x.queue with
  | none, ch :: r =>
    if s.mode = mBanked ∨ s.mode = mCinder then .next s
    else
      let s1 := (s.wr Reg.DMA_CH_STATUS_STATE ch chRunning).putEngine e.val
        { x with queue := r, running := some ch, desc := s.rd Reg.DMA_CH_DESC_ADDR ch * 32, retries := 0, retryAt := none }
      .next (s1.useDesc e.val)
  | _, _ => .next s

/-- The running channel of an engine stops in a state, and the engine is free (R722). DESIGN CHOICE, assumption 133. -/
def State.endChan (s : State) (e ch st : Nat) (r : ChainEnd) : State :=
  let x := s.engine e
  let s1 := (s.wr Reg.DMA_CH_STATUS_STATE ch st).putEngine e { x with running := none, retries := 0, retryAt := none }
  ((if st = chHalted then s1.bump Reg.DMA_HALT_CNT_COUNT 0 1 else s1).chainOver ch r).retryXlat

/-- The channel goes on to the next descriptor, or its chain is done. -/
def State.nextDesc (s : State) (e ch : Nat) (d : Desc) : State :=
  if d.isEnd then s.endChan e ch chDone (if s.rd Reg.DMA_CH_STATUS_BAD ch = 0 then .ok else .bus)
  else s.putEngine e { s.engine e with desc := d.next, retries := 0, retryAt := none }

/-- The bytes of a descriptor to host memory count for the account of its command (R821), and are its last write (R597). -/
def State.countMove (s : State) (ch : Nat) (d : Desc) : State :=
  match mfind s.chanJobs ch with
  | none => s
  | some j =>
    match s.cmds.find? fun c => c.ord == j.ord && c.sq == j.sq with
    | none => s
    | some c =>
      if c.op = opRead ∧ d.dstSpace = 0 then
        (s.tap c.acct 2 d.len).updCmd c.sq c.tag fun x => if x.ord = c.ord then { x with lastWrite := some d.dst } else x
      else s

/-- The first k bytes of a descriptor's source arrive, and the channel halts at an uncorrectable word (R721). -/
def State.eccHalt (s : State) (e ch : Nat) (d : Desc) (bs : List Nat) (at_ : Nat) : State :=
  let x := s.engine e
  (((s.deliver ch d bs).writeBack ch x.desc x.retries deEcc).raise 0x0908 ([e, chanNo ch] ++ w2 at_)).endChan e ch chHalted .ecc

/-- A descriptor's transfer ends: the source as the controller holds it, or as host memory or the host's caches gave it (R584, R714 to
R721). -/
def State.descEnd (s : State) (e ch : Nat) (r : DmaEnd) : State :=
  let x := s.engine e
  let a := x.desc
  let d := s.desc a
  if !d.ok then (s.writeBack ch a x.retries deField).endChan e ch chHalted .ecc
  else
    let s0 := s.touchDram
    let dram := d.srcSpace = 1 ∨ d.srcSpace = 2
    let sa := dramAddr d.srcSpace d.src
    match (if dram then s0.ueAt sa d.len else none) with
    | some (l, cw) =>
      ((s0.ownRead sa d.len).noteUe l cw srcDma).eccHalt e ch d (s0.bytes sa (l * 64 - sa)) (l * 64)
    | none =>
      let s0 := if dram then (s0.ownRead sa d.len).correctRange sa d.len srcDma else s0
      let host := d.srcSpace = 0
      let s0 := if host then s0.hostReads (s0.chanPasid ch) d.relaxed d.src d.len else s0
      match r with
      | .busError =>
        if !host then
          ((s0.deliver ch d (if dram then s0.bytes sa d.len else fillBytes d.src d.len)).writeBack ch a x.retries deDone
            |>.countMove ch d).nextDesc e ch d
        else if e < 8 then s0.putEngine e { x with retryAt := some (s.now + 15000) }
        else
          let s1 := ((s0.writeBack ch a x.retries deBadBus).bump Reg.DMA_CH_STATUS_BAD ch 1).bump Reg.DMA_BAD_CNT_COUNT 0 1
          (s1.raiseWin 0x0906 0 [e, chanNo ch] true).nextDesc e ch d
      | .refused =>
        let s1 := match mfind s0.chanJobs ch with
          | some j => s0.xlatFault j.sq j.tag (s.rd Reg.DMA_CH_CTRL_PASID ch) (if host then d.src else d.dst)
          | none => s0.xlatFault 0xFFFF 0xFFFFFFFF (s.rd Reg.DMA_CH_CTRL_PASID ch) (if host then d.src else d.dst)
        s1.endChan e ch chHalted .refused
      | .done data =>
        let bs := if host then padBytes d.len (data.take d.len)
          else if dram then s0.ownBytes sa d.len data else fillBytes d.src d.len
        (((s0.deliver ch d bs).writeBack ch a x.retries deDone).countMove ch d).nextDesc e ch d

/-- DMA_DESCRIPTOR_END: the descriptor in progress on an engine ends (R714 to R723), once the translations it needs are held (R590,
R594). -/
def execDmaDescriptorEnd (e : Fin 40) (r : DmaEnd) (s : State) : Res :=
  let x := s.engine e.val
  match x.running with
  | none => .next s
  | some ch =>
    let s1 := s.useDesc e.val
    if x.retryAt.isSome then .next s
    else if r != .refused && !s.descReady e.val then .next s1
    else .next (s1.descEnd e.val ch r).requeue.settle

/-- DMA_BUS_RETRY: a housekeeping channel repeats a failed request, 10 µs after the failure; the third repeat that fails halts
it (R719). -/
def execDmaBusRetry (e : Fin 8) (r : DmaEnd) (s : State) : Res :=
  let x := s.engine e.val
  match x.running, x.retryAt with
  | some ch, some t =>
    let s1 := s.advanceTo t
    let s2 := s1.putEngine e.val { x with retries := x.retries + 1, retryAt := none }
    if r = .busError ∧ 3 ≤ x.retries + 1 then
      let s3 := (s2.writeBack ch x.desc (x.retries + 1) deBusHalt).raise 0x0907 ([e.val, chanNo ch] ++ w2 x.desc)
      .next (s3.endChan e.val ch chHalted .bus).settle
    else .next (s2.descEnd e.val ch r).settle
  | _, _ => .next s

/-- DMA_CHANNEL_RESET: a halted channel returns to IDLE (R722); a write from the host link is discarded (R708). -/
def execDmaChannelReset (src : Src) (ch : Fin 2176) (s : State) : Res :=
  if src = .host ∨ s.chanState ch.val ≠ chHalted then .next s else .next (s.wr Reg.DMA_CH_STATUS_STATE ch.val chIdle)

end Sys2Proof.Machine
end

