-- ==== Sys2Proof/Machine/Mem.lean ====
section
/-!
DEFINITION. Device memory: training and initialisation, patrol scrub, self-refresh, the merging buffer, the system cache's
maintenance, locks and power (R730 to R767).
-/

namespace Sys2Proof.Machine

/-! ### Training and initialisation (R730 to R736) -/

/-- Training rates in units of 100 MT/s, highest first (R731). -/
def trainRates : List Nat := [56, 52, 48, 44, 40]

/-- The rate of all channels: the highest that every DIMM supports and the DIMMs per channel allow. -/
def rateOf (l : List ChanObs) : Option Nat :=
  trainRates.find? fun r => l.all fun c => !c.fitted || (decide (r ≤ c.rate) && (c.dimms != 2 || decide (r ≤ 44)))

/-- The first channel at which the fitted DIMMs break R730. -/
def badFit (l : List ChanObs) : Option Nat :=
  let n := (l.filter (·.fitted)).length
  let size := ((l.find? (·.fitted)).map (·.size)).getD 0
  if n ≠ 1 ∧ n ≠ 2 ∧ n ≠ 4 then some ((l.findIdx? fun c => !c.fitted).getD 0)
  else (upTo 4).find? fun i =>
    match l[i]? with
    | none => decide (i < n)
    | some c =>
      c.fitted != decide (i < n)
        || (c.fitted && (c.size != size || decide (c.size < 16) || decide (128 < c.size) || !(c.dimms == 1 || c.dimms == 2)
              || !(c.ranks == 1 || c.ranks == 2)))

/-- DRAM_TRAINING_DONE: training ends, at the rate of R731 with every line zero (R735), or with DRAM_TRAIN_FAIL and CINDER
(R732); DRAM that a warm reset kept through self-refresh keeps its contents (R875). `chans` are the four channels as SPD and training found them. -/
def execDramTrainingDone (chans : List ChanObs) (s : State) : Res :=
  match badFit chans, rateOf chans with
  | some c, _ => .next ((s.raise 0x0A0A [c, 0]).cinder cDram)
  | none, none => .next ((s.raise 0x0A0A [0, 0]).cinder cDram)
  | none, some r =>
    match (upTo 4).find? fun i => match chans[i]? with | some c => c.fitted && !c.trained | none => false with
    | some c => .next ((s.raise 0x0A0A [c, 1]).cinder cDram)
    | none =>
      let put := fun (t : State) (i : Nat) =>
        match chans[i]? with
        | none => t
        | some c =>
          let t1 := ((t.wrB Reg.MEMC_CHAN_FITTED i c.fitted).wrB Reg.MEMC_CHAN_TRAIN_OK i c.fitted).wr Reg.MEMC_CHAN_DIMMS i c.dimms
          ((t1.wr Reg.MEMC_CHAN_RANKS i c.ranks).wr Reg.MEMC_CHAN_RATE i (if c.fitted then r else 0)).wr Reg.MEMC_CHAN_SIZE i c.size
      let s1 := (upTo 4).foldl put s
      let n := s1.channels
      let s2 := ((s1.wr Reg.MEMC_STATUS_CHANNELS 0 (if n = 4 then 3 else n)).set1 Reg.MEMC_STATUS_TRAINED 0).wrB
        Reg.MEMC_STATUS_INIT_DONE 0 s.ms.trainedAt.isSome
      let s3 := s2.wr Reg.MEMC_SCRUB_POS_POS 0 0
      if s.ms.trainedAt.isSome then .next s3
      else .next { s3 with mem := [], ms := { s3.ms with ue := [], ce := [], merge := [], trainedAt := some s.now } }

/-- DRAM_INIT_DONE: the background fill ends, dt cycles on (R735). DESIGN CHOICE, assumption 142. -/
def execDramInitDone (dt : Nat) (s : State) : Res :=
  match s.ms.trainedAt with
  | none => .next s
  | some t =>
    if s.flag Reg.MEMC_STATUS_INIT_DONE 0 ∨ !s.flag Reg.MEMC_STATUS_TRAINED 0 then .next s
    else
      let s1 := (s.advance dt).set1 Reg.MEMC_STATUS_INIT_DONE 0
      .next (s1.raise 0x0A09 [(s1.now - t) / msCycles])

/-! ### Corrections and the scrub (R740, R744 to R747) -/

/-- A scrub pass ends (R745). -/
def State.scrubPass (s : State) : State :=
  let s1 := ((s.wr Reg.MEMC_SCRUB_POS_POS 0 0).bump Reg.MEMC_SCRUB_PASSES_PASSES 0 1).raise 0x0A03 [s.ms.passCe, s.ms.passUe]
  { s1 with ms := { s1.ms with passCe := 0, passUe := 0 } }

/-- SCRUB_STEP: the patrol scrub reads its next line (R744): an uncorrectable one is logged and left, a correctable one written
back; a line with a write pending is skipped. DESIGN CHOICE, assumption 139. -/
def execScrubStep (obs : LineObs) (s : State) : Res :=
  if !s.flag Reg.MEMC_STATUS_TRAINED 0 ∨ s.flag Reg.MEMC_STATUS_SELF_REFRESH 0 ∨ s.mode = mEmber ∨ s.mode = mBanked
      ∨ s.rd Reg.MEMC_SCRUB_CFG_HOURS 0 = 0 then .next s
  else
    let pos := s.rd Reg.MEMC_SCRUB_POS_POS 0
    let l := lineOf pos
    let grow := fun (t : State) (ce ue : Nat) => { t with ms := { t.ms with passCe := t.ms.passCe + ce, passUe := t.ms.passUe + ue } }
    let s1 :=
      if s.ms.merge.any fun e => e.line == l then s
      else match s.ms.ue.find? fun p => p.1 == l with
        | some p => grow (s.noteUe l p.2 srcScrub) 0 1
        | none =>
          match obs with
          | .uncorrectable cw =>
            let t : State := { s with ms := { s.ms with ue := s.ms.ue ++ [(l, cw)], ce := s.ms.ce.filter fun p => p.1 != l } }
            grow (t.noteUe l cw srcScrub) 0 1
          | .corrected r cw d b => grow (s.noteCe l r cw d b srcScrub) 1 0
          | .asStored =>
            match s.ms.ce.find? fun p => p.1 == l with
            | some p => grow (s.correctStored l p.2 srcScrub) 1 0
            | none => s
    .next (if s.fittedDram ≤ pos + 64 then s1.scrubPass else s1.wr Reg.MEMC_SCRUB_POS_POS 0 (pos + 64))

/-- SELF_REFRESH_ENTER: in EMBER, 10 µs after the last access (R746). -/
def execSelfRefreshEnter (s : State) : Res :=
  if s.mode ≠ mEmber ∨ !s.flag Reg.MEMC_STATUS_TRAINED 0 then .next s
  else .next ((s.advanceTo (s.ms.accessAt + 15000)).set1 Reg.MEMC_STATUS_SELF_REFRESH 0)

/-! ### The merging buffer (R752 to R754) -/

/-- Entries that satisfy a test drain. -/
def State.drainIf (s : State) (p : Merge → Bool) : State := (s.ms.merge.filter p).foldl State.drainEntry s

/-! ### Cache maintenance (R759 to R762) -/

/-- The lines of an operation: first and one past the last. -/
def State.cacheRange (s : State) : Nat × Nat :=
  let a := s.rd Reg.MEMC_CACHE_ADDR_ADDR 0
  (a, a + s.rd1 Reg.MEMC_CACHE_LEN_LEN 0)

/-- A line lies in a range. -/
def within (r : Nat × Nat) (l : Nat) : Bool := decide (r.1 ≤ l) && decide (l < r.2)

/-- The cache's lines are replaced. -/
def State.setLines (s : State) (l : List CLine) : State := { s with ms := { s.ms with lines := l } }

/-- Lines of a range become invalid; locked ones only with FORCE, else they are counted (R759). -/
def State.invalidate (s : State) (r : Nat × Nat) (force : Bool) : State :=
  let kept := s.ms.lines.filter fun c => within r c.line && c.locked && !force
  let s1 := s.setLines (s.ms.lines.filter fun c => !within r c.line || (c.locked && !force))
  if kept.isEmpty then s1
  else
    let s2 := s1.bump Reg.MEMC_CACHE_LOCKED_SKIP_COUNT 0 kept.length
    { s2 with ms := { s2.ms with skipped := true } }

/-- A free place for a locked line: a locked way of its set that holds no line locked there (R759). -/
def State.lockedWay (s : State) (line : Nat) : Option Nat :=
  (upTo 16).find? fun w => bitOf (s.rd Reg.MEMC_CACHE_LOCK_LOCK 0) w
    && !(s.ms.lines.any fun c => c.way == w && c.line % 8192 == line % 8192)

/-- One line is fetched and locked; one that DRAM cannot give is logged and not installed (R748, R759). DESIGN CHOICE, assumption
140. -/
def State.loadLock (s : State) (line : Nat) : State :=
  if s.ms.lines.any fun c => c.line == line && c.locked then s
  else
    match s.lockedWay line with
    | some w =>
      let s1 := (s.setLines (s.ms.lines.filter fun c => c.line != line)).touchDram
      match s1.ueAt (line * 64) 64 with
      | some (l, cw) => s1.noteUe l cw srcLoad
      | none =>
        let s2 := s1.correctRange (line * 64) 64 srcLoad
        s2.setLines (s2.ms.lines ++ [{ line := line, way := w, locked := true, data := s2.bytes (line * 64) 64 }])
    | none =>
      let s1 := s.bump Reg.MEMC_CACHE_LOCK_MISS_COUNT 0 1
      { s1 with ms := { s1.ms with skipped := true } }

/-- An operation begins: a write of GO with OP and FORCE from firmware; the host's is discarded, and so is one while another runs
(R760, R761, R767). DESIGN CHOICE, assumption 140. -/
def State.cacheOp (s : State) (src : Src) (op : Nat) (force : Bool) (f : State → Nat × Nat → State) : Res :=
  if src = .host ∨ s.flag Reg.MEMC_CACHE_OP_BUSY 0 then .next s
  else
    let s1 := (s.wr Reg.MEMC_CACHE_OP_OP 0 op).wrB Reg.MEMC_CACHE_OP_FORCE 0 force
    let r := s1.cacheRange
    if 2 ^ 26 < r.2 then .next (s1.wr Reg.MEMC_CACHE_OP_RESULT 0 1)
    else
      let s2 : State := { s1 with ms := { s1.ms with skipped := false } }
      .next ((f s2 r).set1 Reg.MEMC_CACHE_OP_BUSY 0)

/-- CACHE_INVALIDATE (R759). -/
def execCacheInvalidate (src : Src) (force : Bool) (s : State) : Res := s.cacheOp src 1 force fun t r => t.invalidate r force

/-- CACHE_DRAIN (R759). -/
def execCacheDrain (src : Src) (force : Bool) (s : State) : Res :=
  s.cacheOp src 2 force fun t r => t.drainIf fun e => within r e.line

/-- CACHE_DRAIN_INVALIDATE (R759). -/
def execCacheDrainInvalidate (src : Src) (force : Bool) (s : State) : Res :=
  s.cacheOp src 3 force fun t r => (t.drainIf fun e => within r e.line).invalidate r force

/-- CACHE_LOAD_LOCK (R759). -/
def execCacheLoadLock (src : Src) (force : Bool) (s : State) : Res :=
  s.cacheOp src 4 force fun t r => (upTo (r.2 - r.1)).foldl (fun u i => u.loadLock (r.1 + i)) t

/-- CACHE_OP_DONE: the operation in progress ends, within 2 × min(LEN, 131,072) cycles (R760). -/
def execCacheOpDone (dt : Nat) (s : State) : Res :=
  if !s.flag Reg.MEMC_CACHE_OP_BUSY 0 then .next s
  else .next (((s.advance dt).clr Reg.MEMC_CACHE_OP_BUSY 0).wr Reg.MEMC_CACHE_OP_RESULT 0 (if s.ms.skipped then 2 else 0))

/-! ### Ways (R763, R764) -/

/-- Bits set among the low n. -/
def countBits (n x : Nat) : Nat := ((upTo n).filter fun i => bitOf x i).length

/-- The lines of some ways are drained and gone. -/
def State.emptyWays (s : State) (p : CLine → Bool) : State :=
  let gone := s.ms.lines.filter p
  let s1 := s.drainIf fun e => gone.any fun c => c.line == e.line
  s1.setLines (s1.ms.lines.filter fun c => !p c)

/-- CACHE_WAY_LOCK_WRITE: discarded with LOCK_ERR when more than 12 ways or one that is powered down would be locked; ways newly
locked lose their ordinary lines, ways unlocked keep theirs as ordinary lines (R763). -/
def execCacheWayLockWrite (src : Src) (mask : BitVec 16) (s : State) : Res :=
  let m := mask.toNat
  let old := s.rd Reg.MEMC_CACHE_LOCK_LOCK 0
  let off := (upTo 16).any fun w => bitOf m w && !bitOf (s.rd Reg.MEMC_CACHE_PWR_PWR_STATE 0) (w / 4)
  if src = .host then .next s
  else if 12 < countBits 16 m ∨ off then .next (s.set1 Reg.MEMC_CACHE_STAT_LOCK_ERR 0)
  else
    let s1 := s.emptyWays fun c => bitOf m c.way && !bitOf old c.way && !c.locked
    let s2 := s1.setLines (s1.ms.lines.map fun c => if bitOf m c.way then c else { c with locked := false })
    .next (s2.wr Reg.MEMC_CACHE_LOCK_LOCK 0 m)

/-- Way groups take the power state asked for (R764). -/
def State.setWays (s : State) (on : Nat) : State :=
  let m := on ||| 1
  let s1 := s.emptyWays fun c => !bitOf m (c.way / 4)
  (s1.wr Reg.MEMC_CACHE_PWR_ON 0 m).wr Reg.MEMC_CACHE_PWR_PWR_STATE 0 m

/-- CACHE_WAY_POWER_WRITE: discarded with LOCK_ERR when a group that holds a locked way would lose its power (R764). -/
def execCacheWayPowerWrite (src : Src) (on : BitVec 4) (s : State) : Res :=
  let m := on.toNat ||| 1
  let held := (upTo 16).any fun w => bitOf (s.rd Reg.MEMC_CACHE_LOCK_LOCK 0) w && !bitOf m (w / 4)
  if src = .host then .next s
  else if held then .next (s.set1 Reg.MEMC_CACHE_STAT_LOCK_ERR 0)
  else .next (s.setWays m)

/-- ECC_INJECT_ARM: a write of MEMC_INJ_CTRL with ARM (R767). -/
def execEccInjectArm (cw : BitVec 2) (double : Bool) (s : State) : Res :=
  .next (((s.wr Reg.MEMC_INJ_CTRL_CODEWORD 0 cw.toNat).wrB Reg.MEMC_INJ_CTRL_DOUBLE 0 double).set1 Reg.MEMC_INJ_CTRL_ARM 0)

end Sys2Proof.Machine
end

