-- ==== Sys2Proof/Machine/Cache.lean ====
section
/-!
DEFINITION. What the cores, the sequencer and the slices meet when they read and write memory: the system cache, the merging buffer,
uncorrectable DRAM lines and SRAM words (R743, R748 to R758, R765).
-/

namespace Sys2Proof.Machine

/-! ### SRAM words and the traps of the cores -/

/-- A corrected SRAM word of a unit (R743, R766). -/
def State.sramFixed (s : State) (u : Nat) : State := (s.bump Reg.MEMC_SRAM_CE_COUNT u 1).raiseWin 0x0A05 0 [u] false

/-- An uncorrectable SRAM word of a unit (R766). -/
def State.sramBad (s : State) (u : Nat) : State := s.raise 0x0A06 [u]

/-- A management core takes a memory-error trap; a second one before its handler has completed an instruction enters CINDER (R748,
R750). -/
def State.coreTrap (s : State) (core addr : Nat) : State :=
  let s1 := s.raise 0x0A08 (core :: w2 addr)
  if s.ms.trapped.contains core then s1.cinder cMemory
  else { s1 with ms := { s1.ms with trapped := s1.ms.trapped ++ [core] } }

/-- SOURCE of a reader's accesses (R767). -/
def readerSource : Reader → Nat
  | .fetch _ => srcFetch
  | .load _ => srcLoad
  | .command .. | .sequencer => srcSequencer

/-- What a reader meets that cannot be given what it reads (R748). -/
def State.readFails (s : State) (r : Reader) (addr : Nat) : State :=
  match r with
  | .fetch core | .load core => s.coreTrap core addr
  | .command sq tag => (s.failAll (fun c => c.sq == sq && c.tag == tag) stDataEcc).settle
  | .sequencer => s.cinder cMemory

/-- The core that a reader is. -/
def readerCore : Reader → Option Nat
  | .fetch core | .load core => some core
  | .command .. | .sequencer => none

/-! ### The system cache (R751 to R758) -/

/-- The way a tree points to among those of a list: at each node the side it points to, where that side has one of them (R757).
DESIGN CHOICE, assumption 228. -/
def plruPick (bits : Nat) (ways : List Nat) : Nat :=
  (upTo 4).foldl (fun p d =>
    let q := 2 * p + bitsOf bits (2 ^ d + p) 1
    if ways.any fun w => w / 2 ^ (3 - d) == q then q else 4 * p + 1 - q) 0

/-- Ways that a fill may take: powered and not locked (R757, R763, R764). -/
def State.fillWays (s : State) : List Nat :=
  (upTo 16).filter fun w => bitOf (s.rd Reg.MEMC_CACHE_PWR_PWR_STATE 0) (w / 4) && !bitOf (s.rd Reg.MEMC_CACHE_LOCK_LOCK 0) w

/-- The way a fill of a line goes to: an invalid one of its set, else the least recently used (R757). -/
def State.fillWay (s : State) (line : Nat) : Option Nat :=
  let k := line % 8192
  let ways := s.fillWays.filter fun w => !(s.ms.lines.any fun c => c.way == w && c.line % 8192 == k && c.locked)
  match ways.find? fun w => !(s.ms.lines.any fun c => c.way == w && c.line % 8192 == k) with
  | some w => some w
  | none => if ways.isEmpty then none else some (plruPick (mget 0 s.ms.plru k) ways)

/-- A line is filled from DRAM as it stands there; where its set has no way for it, it is not kept. -/
def State.fill (s : State) (line : Nat) : State :=
  match s.fillWay line with
  | none => s
  | some w =>
    let c : CLine := { line := line, way := w, locked := false, data := s.bytes (line * 64) 64 }
    (s.setLines ((s.ms.lines.filter fun x => !(x.way == w && x.line % 8192 == line % 8192)) ++ [c])).useLine c

/-- What a reader is given. -/
def State.give (s : State) (r : Reader) (addr : Nat) (bytes : List Nat) : State := s.emit (.coreData (readerCore r) addr bytes)

/-- A line of DRAM is read for a reader: it is given the bytes, and `keep` says what becomes of the line; one that is uncorrectable is
not installed (R748). -/
def State.readDram (s : State) (r : Reader) (addr n : Nat) (keep : State → State) : State :=
  let a := lineOf addr * 64
  let s1 := s.touchDram
  match s1.ueAt a 64 with
  | some (l, cw) => (s1.noteUe l cw (readerSource r)).readFails r (l * 64)
  | none => (keep (s1.correctRange a 64 (readerSource r))).give r addr (s.bytes addr n)

/-- An uncorrectable tag invalidates every line of its set and releases their locks (R758). -/
def State.tagBad (s : State) (k : Nat) : State :=
  let s1 := s.sramBad 1
  let s2 := s1.setLines (s1.ms.lines.filter fun c => c.line % 8192 != k)
  if s.ms.lines.any fun c => c.line % 8192 == k && c.locked then s2.raise 0x0A07 [k] else s2

/-- A read misses: the line is filled from DRAM (R751, R757). -/
def State.readMiss (s : State) (r : Reader) (addr n : Nat) : State :=
  (s.bump Reg.MEMC_CACHE_MISSES_COUNT 0 1).readDram r addr n fun t => t.fill (lineOf addr)

/-- A read by a management core or the sequencer of bytes of one line: HDM beside the cache, the private region through it (R751 to
R758). DESIGN CHOICE, assumption 228. -/
def State.cacheRead (s : State) (r : Reader) (addr n : Nat) (tag data : SramWord) : State :=
  let l := lineOf addr
  if 2 ^ 32 ≤ addr then (s.ownRead addr n).readDram r addr n id
  else
    let s1 := match tag with
      | .clean => s
      | .corrected => s.sramFixed 1
      | .bad => s.tagBad (l % 8192)
    match s1.ms.lines.find? fun c => c.line == l with
    | none => s1.readMiss r addr n
    | some c =>
      let s2 := (s1.useLine c).bump Reg.MEMC_CACHE_HITS_COUNT 0 1
      let hit := fun (t : State) => t.give r addr ((c.data.drop (addr % 64)).take n)
      match data with
      | .clean => hit s2
      | .corrected => hit (s2.sramFixed 0)
      | .bad =>
        let s3 := (s2.setLines (s2.ms.lines.filter fun x => x.line != l)).sramBad 0
        s3.readDram r addr n fun t =>
          if c.locked then t.setLines (t.ms.lines ++ [{ c with data := t.bytes (l * 64) 64 }]) else t

/-- A write by a management core of bytes of one line: HDM beside the cache, the private region through the merging buffer (R751,
R752). -/
def State.coreWrite (s : State) (addr : Nat) (bytes : List Nat) : State :=
  if 2 ^ 32 ≤ addr then (s.ownWrite addr bytes).touchDram else s.mergeWrite addr bytes

/-! ### The slices' stores, links, engines (R748, R765) -/

/-- An uncorrectable word of a slice's store is logged where it lay (R749, R766). -/
def State.storeErr (s : State) (e : StoreError) : State :=
  match e with
  | .dram line cw => s.noteUe line cw srcSlice
  | .sram => s.sramBad 4

/-- Stored channel bits of a slot from `bit` on become erasures (R748). -/
def eraseStored (e : Soft) (bit n : Nat) : Soft :=
  { e with rows := e.rows.map fun p => (p.1, (p.2.zip (upTo p.2.length)).map fun v =>
      let i := p.1 % 151 * 7744 + v.2
      if bit ≤ i ∧ i < bit + n then v.1.map fun _ => 0 else v.1) }

/-- A write-store entry cannot be read: a frame in the stream stops there, and its slot fails verify (R748). -/
def State.storeBroken (s : State) (sl slot : Nat) : State :=
  let x := s.slice sl
  let hit := fun (e : Enc) => e.slot == slot
  let mark := fun (e : Enc) => if hit e then { e with broken := true } else e
  let (stopped, rest) := match x.wstore with
    | e :: r => if hit e then ([mark e], r) else ([], x.wstore)
    | [] => ([], [])
  (s.putSlice sl { x with wstore := rest, written := x.written.map mark ++ stopped.filter fun e => !e.doomed }).showSlice sl

/-- An uncorrectable word in a DMA engine's memory while it moves a descriptor's bytes, as for a source line (R721, R765). -/
def State.engineBad (s : State) (e done : Nat) (host : List Nat) : State :=
  let s1 := s.sramBad 6
  match (s1.engine e).running with
  | none => s1
  | some ch =>
    let d := s1.desc (s1.engine e).desc
    let bs := match d.srcSpace with
      | 1 | 2 => s1.bytes (dramAddr d.srcSpace d.src) (min done d.len)
      | 3 => fillBytes d.src (min done d.len)
      | _ => host.take (min done d.len)
    (s1.eccHalt e ch d bs (d.src + min done d.len)).requeue.settle

/-! ### Accesses without a row of their own -/

/-- One access (R743, R748 to R758, R765): those of the cores and the sequencer while the cores run, the others outside BANKED. -/
def State.memAct (s : State) (a : MemAct) : State :=
  if s.mode = mBanked then s
  else
    match a with
    | .read r addr n tag data => if s.fwRuns then s.cacheRead r addr n tag data else s
    | .write _ addr bytes => if s.fwRuns then s.coreWrite addr bytes else s
    | .handlerRuns core => { s with ms := { s.ms with trapped := s.ms.trapped.filter (· != core) } }
    | .frameStore sl slot bit n e =>
      let s1 := s.storeErr e
      let x := s1.slice sl
      s1.putSlice sl { x with store := x.store.map fun y => if y.slot == slot then eraseStored y bit n else y }
    | .ladderSlot sl slot bit n e =>
      let s1 := s.storeErr e
      { s1 with ladders := s1.ladders.map fun y =>
          if y.slice == sl && y.slot == slot then { y with soft := eraseStored y.soft bit n } else y }
    | .writeStore sl slot e => (s.storeErr e).storeBroken sl slot
    | .corrected u => s.sramFixed u.val
    | .mergeBad => (s.sramBad 2).cinder cMemory
    | .linkBad (some n) => (s.sramBad 5).msgErr n
    | .linkBad none => s.sramBad 5
    | .dmaBad e done host => s.engineBad e done host
    | .commandBad sq tag => (s.sramBad 6).readFails (.command sq tag) 0
    | .sequencerBad => (s.sramBad 6).readFails .sequencer 0
    | .localBad core addr => if s.fwRuns then (s.sramBad 7).coreTrap core addr else s
    | .otherBad => (s.sramBad 8).cinder cMemory

/-- MERGE_BUFFER_DRAIN: after the accesses since the last one, an entry drains: a whole line, or the oldest of 24 or more entries, or
one 256 cycles after its last write (R753). DESIGN CHOICE, assumption 228. -/
def execMergeBufferDrain (acts : List MemAct) (s0 : State) : Res :=
  let s := acts.foldl State.memAct s0
  match s.ms.merge.find? fun e => e.mask == 2 ^ 64 - 1 with
  | some e => .next (s.drainEntry e)
  | none =>
    match oldest s.ms.merge with
    | none => .next s
    | some e => if 24 ≤ s.ms.merge.length then .next (s.drainEntry e) else .next ((s.advanceTo (e.at_ + 256)).drainEntry e)

end Sys2Proof.Machine
end

