-- ==== Sys2Proof/Machine/Host.lean ====
section
/-!
DEFINITION. The host endpoint: its link and reset, configuration requests, HDM and its bias, peer windows, translation
completions and invalidations (R570 to R603, R612 to R618, R682, R725).
-/

namespace Sys2Proof.Machine

/-! ### The link and configuration space (R570 to R577, R613, R615) -/

/-- HDM_OPEN: decoder 0 is committed and CXL.mem enabled (R572, R618). -/
def State.showHdm (s : State) : State :=
  s.wrB Reg.HEP_STATUS_HDM_OPEN 0 (s.hep.committed && s.flag Reg.HEP_STATUS_MEM_EN 0)

/-- HOST_LINK_UP: the link reaches L0 at a rate (1 to 5) and width; CXL runs at 8.0 GT/s and above only (R570, R571, R617). -/
def execHostLinkUp (rate width : Nat) (cxl : Bool) (s : State) : Res :=
  if s.flag Reg.HEP_STATUS_LINK_UP 0 ∨ !(1 ≤ rate ∧ rate ≤ 5) ∨ !([4, 8, 16].contains width) ∨ s.mode = mBanked ∨ s.pw.porst
      ∨ (cxl ∧ rate < 3) then .next s
  else
    let s1 := ((s.wr Reg.HEP_STATUS_SPEED 0 rate).wr Reg.HEP_STATUS_WIDTH 0 width).wrB Reg.HEP_STATUS_CXL 0 cxl
    let s2 := (s1.set1 Reg.HEP_STATUS_LINK_UP 0).raise 0x0802 [rate, width, if cxl then 1 else 0]
    .next (if width < 16 ∨ rate < 5 then s2.raise 0x0804 [rate, width] else s2)

/-- A dword of a 64-bit BAR of 2^n bytes: the low address bits read 0, the type bits say 64-bit, prefetchable or not (R40, R575). -/
def barWord (base n : Nat) (pref high : Bool) : Nat :=
  let a := base % 2 ^ 64 / 2 ^ n * 2 ^ n
  if high then a / 2 ^ 32 else a % 2 ^ 32 + (if pref then 12 else 4)

/-- A write of half of a 64-bit register. -/
def putHalf (old v : Nat) (high : Bool) : Nat :=
  if high then v % 2 ^ 32 * 2 ^ 32 + old % 2 ^ 32 else old / 2 ^ 32 * 2 ^ 32 + v % 2 ^ 32

/-- A write to a BAR of configuration space (R40, R575), or to Device Control, which holds Max Payload Size, 512 bytes at most, and Max
Read Request Size, 4,096 bytes at most (R569, R712). PRESUMED, assumption 105. -/
def State.cfgBar (s : State) (off v : Nat) : State :=
  if off = 0x010 ∨ off = 0x014 then { s with hep := { s.hep with bar0 := putHalf s.hep.bar0 v (off == 0x014) } }
  else if off = 0x018 ∨ off = 0x01C then { s with hep := { s.hep with bar2 := putHalf s.hep.bar2 v (off == 0x01C) } }
  else if off = 0x068 then { s with hep := { s.hep with mps := min 2 (v / 2 ^ 5 % 8), mrrs := min 5 (v / 2 ^ 12 % 8) } }
  else s

/-- A capability of the standard list: its offset, its ID, the offset of the next one. -/
structure Cap where
  off : Nat
  id : Nat
  nxt : Nat
deriving DecidableEq, Repr

/-- The capabilities in the order of their table, each linked to the next (R574); the IDs are those of PCI Express. PRESUMED,
assumption 105. -/
def caps : List Cap := [⟨0x040, 0x01, 0x050⟩, ⟨0x050, 0x11, 0x060⟩, ⟨0x060, 0x10, 0⟩]
def extCaps : List Cap := [⟨0x100, 0x0001, 0x150⟩, ⟨0x150, 0x000F, 0x158⟩, ⟨0x158, 0x001B, 0x160⟩, ⟨0x160, 0x0019, 0x1B0⟩,
  ⟨0x1B0, 0x0025, 0x1C0⟩, ⟨0x1C0, 0x0026, 0x200⟩, ⟨0x200, 0x002A, 0x240⟩, ⟨0x240, 0x0027, 0x290⟩, ⟨0x290, 0x002E, 0x2B0⟩,
  ⟨0x2B0, 0x0023, 0x2F0⟩, ⟨0x2F0, 0x0023, 0x310⟩, ⟨0x310, 0x0023, 0⟩]

/-- A part of a dword of configuration space: offset, lowest bit, width, value. -/
structure CfgBits where
  off : Nat
  lo : Nat
  w : Nat
  val : Nat
deriving DecidableEq, Repr

/-- What the manual gives of the capabilities: their lists, the MSI-X table and its state, the DVSEC IDs, the Register Locator's entry, and
the ranges of the CXL Device DVSEC (R574, R577, R604, R606). Where in its capability a part lies is PRESUMED, assumption 105. -/
def State.cfgBits (s : State) : List CfgBits :=
  let b := fun (x : Bool) => if x then 1 else 0
  let size := s.rangeSize
  [⟨0x034, 0, 8, 0x40⟩]
    ++ caps.flatMap (fun c => [⟨c.off, 0, 8, c.id⟩, ⟨c.off, 8, 8, c.nxt⟩])
    ++ extCaps.flatMap (fun c => [⟨c.off, 0, 16, c.id⟩, ⟨c.off, 20, 12, c.nxt⟩])
    ++ [⟨0x050, 16, 11, 2047⟩, ⟨0x050, 30, 1, b s.hep.fnMask⟩, ⟨0x050, 31, 1, b s.hep.msixEn⟩, ⟨0x054, 0, 32, 0x90000⟩,
        ⟨0x064, 0, 3, 2⟩, ⟨0x068, 5, 3, s.hep.mps⟩, ⟨0x068, 12, 3, s.hep.mrrs⟩,
        ⟨0x058, 0, 32, 0x98000⟩, ⟨0x2B8, 0, 16, 0⟩, ⟨0x2F8, 0, 16, 7⟩, ⟨0x318, 0, 16, 8⟩, ⟨0x31C, 0, 3, 0⟩, ⟨0x31C, 16, 16, 0x0180⟩,
        ⟨0x320, 0, 32, 0⟩, ⟨0x2C8, 0, 32, size / 2 ^ 32⟩, ⟨0x2CC, 1, 1, b s.ms.trainedAt.isSome⟩, ⟨0x2CC, 13, 3, 0⟩,
        ⟨0x2CC, 28, 4, size / 2 ^ 28⟩, ⟨0x2D8, 0, 32, 0⟩, ⟨0x2DC, 28, 4, 0⟩]

/-- Four bytes of configuration space: what the manual gives of them (R40, R573 to R577); the rest follows the PCI Express and CXL
definitions and is a free value here. PRESUMED, assumption 105. -/
def State.cfgWord (s : State) (off : Nat) : Nat × State :=
  if off = 0x000 then (0x81281D8B, s)
  else if off = 0x008 then (0x120000B0, s)
  else if off = 0x010 ∨ off = 0x014 then (barWord s.hep.bar0 26 false (off == 0x014), s)
  else if off = 0x018 ∨ off = 0x01C then (barWord s.hep.bar2 36 true (off == 0x01C), s)
  else if off = 0x02C then ((if Config.orderS then 2 else 1) * 65536 + 0x1D8B, s)
  else if off = 0x020 ∨ off = 0x024 ∨ off = 0x030 then (0, s)
  else
    let (v, s1) := s.draw 32
    ((s.cfgBits.filter fun c => c.off == off).foldl (fun x c => setBits x c.lo c.w c.val) v, s1)

/-- CONFIG_REQUEST: retry status until FW_READY is 1 or CINDER is entered, then normal (R613, R615). PRESUMED, assumption 105. -/
def execConfigRequest (r : CfgReq) (s : State) : Res :=
  if !s.flag Reg.HEP_STATUS_LINK_UP 0 then .next s
  else if !s.flag Reg.GCTL_STATUS_FW_READY 0 ∧ s.mode ≠ mCinder then .next (s.emit .cfgRetry)
  else
    match r with
    | .read off =>
      let (v, s1) := s.cfgWord off
      .next (s1.emit (.cfgData off v))
    | .msix en mask => .next (({ s with hep := { s.hep with msixEn := en, fnMask := mask } } : State).flushPending.emit .cfgNormal)
    | .ats en => .next ((s.wrB Reg.HEP_STATUS_ATS_EN 0 en).emit .cfgNormal)
    | .pasid en => .next ((s.wrB Reg.HEP_STATUS_PASID_EN 0 en).emit .cfgNormal)
    | .cxlCache en => .next ((s.wrB Reg.HEP_STATUS_CACHE_EN 0 (en && s.flag Reg.HEP_STATUS_CXL 0)).emit .cfgNormal)
    | .cxlMem en => .next ((s.wrB Reg.HEP_STATUS_MEM_EN 0 (en && s.flag Reg.HEP_STATUS_CXL 0)).showHdm.emit .cfgNormal)
    | .other off v => .next ((s.cfgBar off v).emit .cfgNormal)

/-! ### The host endpoint reset (R616, R682, R725) -/

/-- The fields of some blocks return to their reset values, but those kept for longer. DESIGN CHOICE, assumption 106. -/
def State.resetBlocks (s : State) (blks : List Nat) : State :=
  { s with regs := s.regs.filter fun p => !(blks.contains (p.1 % 8192 / 256) && decide (p.1 % 256 < 160)) }

/-- The queue number under which a stopped command of a deleted queue goes on to its stopping point, apart from any queue created
later. DESIGN CHOICE, assumption 107. -/
def ghost (q : Nat) : Nat := if 65536 ≤ q ∧ q < 2 ^ 24 then q else q + 2 ^ 24

/-- A command's name under its deleted queue. -/
def ghost2 (p : Nat × Nat) : Nat × Nat := (ghost p.1, p.2)

/-- A head sequencer's operation serves its command under its new name. -/
def HReq.ghosted (r : HReq) : HReq := { r with cmd := r.cmd.map ghost2 }

/-- Everything that names a command of a host queue names it under its deleted queue. DESIGN CHOICE, assumption 107. -/
def State.ghostAll (s : State) : State :=
  { s with
    cmds := s.cmds.map fun c => { c with sq := ghost c.sq }
    held := s.held.map fun h => { h with sq := ghost h.sq }
    ladders := s.ladders.map fun l => { l with users := l.users.map fun u => { u with sq := ghost u.sq } }
    chanJobs := s.chanJobs.map fun p => (p.1, { p.2 with sq := ghost p.2.sq })
    bufs := s.bufs.map fun p => (p.1, { p.2 with owner := ghost p.2.owner, readers := [], gone := true })
    stns := s.stns.map fun p => (p.1, { p.2 with regBy := p.2.regBy.map ghost2 })
    heads := s.heads.map fun p => (p.1, { p.2 with op := p.2.op.map HReq.ghosted, waiting := p.2.waiting.map HReq.ghosted,
                                                   again := p.2.again.map HReq.ghosted })
    lib := { s.lib with transfers := s.lib.transfers.map (fun t => { t with cmd := t.cmd.map ghost2 })
                        inv := s.lib.inv.map fun x => (x.1, x.2.1, x.2.2.map ghost2) }
    tb := { s.tb with loadBy := s.tb.loadBy.map ghost2, loadQueue := s.tb.loadQueue.map ghost2 }
    pw := { s.pw with trans := s.pw.trans.map fun t => { t with by_ := t.by_.map ghost2 } }
    tally := { s.tally with acks := s.tally.acks.map fun p => (ghost p.1, p.2) }
    firm := { s.firm with activate := s.firm.activate.map ghost2 } }

/-- A command in flight stops at its next stopping point under R677; it gets no completion. One that runs in another cell is
aborted there. -/
def State.stopSilent (s : State) (c : Cmd) : State :=
  match s.cmd? c.sq c.tag with
  | none => s
  | some x =>
    let drop := fun (t : State) => ({ t with cmds := t.cmds.filter fun y => !(y.sq == c.sq && y.tag == c.tag) } : State)
    if x.op = opAbort then drop s
    else
      match s.abortCmd x with
      | some t => if x.away.isSome then drop t else t
      | none => if x.away.isSome then drop s else s

/-- A chain names host memory (R725). -/
def State.chainHost (s : State) : Nat → Nat → Bool
  | 0, _ => false
  | fuel + 1, a =>
    let d := s.desc a
    d.srcSpace == 0 || d.dstSpace == 0 || (!d.isEnd && s.chainHost fuel d.next)

/-- A running channel whose chain names host memory stops; so does one that waits (R725). -/
def State.stopHostDma (s : State) : State :=
  s.engines.foldl (fun t p =>
    let x := p.2
    let wait := x.queue.filter fun ch => t.chainHost 4096 (t.rd Reg.DMA_CH_DESC_ADDR ch * 32)
    let run := match x.running with
      | some ch => if t.chainHost 4096 x.desc then [ch] else []
      | none => []
    let t1 := (wait ++ run).foldl (fun u ch => u.wr Reg.DMA_CH_STATUS_STATE ch chIdle) t
    let x1 := { x with queue := x.queue.filter fun ch => !wait.contains ch }
    let x2 := if run.isEmpty then x1 else { x1 with running := none, retries := 0, retryAt := none }
    ({ t1.putEngine p.1 x2 with chanJobs := t1.chanJobs.filter fun j => !(wait ++ run).contains j.1 } : State)) s

/-- The host endpoint, its queues and groups are reset (R616, R682): commands in flight stop without completions, buffers are
released but for those held under R269, the ATC, the peer windows and the MSI-X table are empty. DESIGN CHOICE, assumption 106. -/
def State.endpointReset (s : State) : State :=
  let s1 : State := { s with cmds := (s.cmds.filter fun c => c.origin.isSome || c.phase != .fixed).map fun c =>
                        if c.origin.isSome then c else { c with silent := true, launch := none } }
  let s2 := (s1.cmds.filter fun c => c.origin.isNone).foldl State.stopSilent s1
  let s3 := s2.ghostAll.stopHostDma
  let s4 := (s3.resetBlocks [8, 9, 14])
  let s5 : State := { s4 with sqs := [], cqs := [], grps := [], profs := [], rrGroup := 1023, rrQueue := [], rrLeft := 0,
                              copyWait := [],
                              hep := { hostPages := s.hep.hostPages, smbOffset := s.hep.smbOffset } }
  s5.settle

/-- HOST_ENDPOINT_RESET: PERST_N is asserted, or the link goes down (R616, R617, R682). -/
def execHostEndpointReset (perst : Bool) (s : State) : Res :=
  .next (s.endpointReset.raise 0x0803 [if perst then 0 else 1])

/-! ### HDM and its bias (R578 to R584) -/

/-- HDM_DECODER_COMMIT: 1-way and Range 1 Size, or Error Not Committed (R578). -/
def execHdmDecoderCommit (ways size : Nat) (s : State) : Res :=
  let ok := decide (ways = 1) && decide (size = s.rangeSize)
  .next ({ s with hep := { s.hep with committed := ok, notCommitted := !ok } } : State).showHdm

/-- Pages that a range touches go to host bias (R582, R603). -/
def State.toHost (s : State) (off n : Nat) : State :=
  let pages := (upTo ((off + n - 1) / 4096 + 1 - off / 4096)).map fun i => off / 4096 + i
  let fresh := pages.filter fun p => !s.hep.hostPages.contains p
  ({ s with hep := { s.hep with hostPages := s.hep.hostPages ++ fresh } } : State).bump Reg.HEP_BIAS_CNT_TO_HOST 0 fresh.length

/-- HDM_HOST_READ: a CXL.mem read of a line of HDM (R579, R581, R582). -/
def execHdmHostRead (line : BitVec 33) (s : State) : Res :=
  let off := line.toNat * 64
  if !s.flag Reg.HEP_STATUS_HDM_OPEN 0 ∨ s.rangeSize < off + 64 then .next s
  else
    let a := hdmBase + off
    let s1 := ((s.toHost off 64).touchDram).correctRange a 64 srcHost
    match s1.ueAt a 64 with
    | some (l, cw) => .next (((s1.noteUe l cw srcHost).emit (.hdmData off (s1.bytes a 64) true)).raise 0x0808 (w2 off))
    | none => .next (s1.emit (.hdmData off (s1.bytes a 64) false))

/-- A line with bytes of it replaced where a mask has a 1. -/
def mergeMask (old new : List Nat) (mask : Nat) : List Nat :=
  (upTo 64).map fun i => if bitOf mask i then new.getD i 0 % 256 else old.getD i 0

/-- HDM_HOST_WRITE: a CXL.mem write of a line or of some bytes of it; one that carries poison stores the line poisoned (R579,
R581, R582, R739, R741). DESIGN CHOICE, assumption 109. -/
def execHdmHostWrite (line : BitVec 33) (data : BitVec 512) (mask : BitVec 64) (poison : Bool) (s : State) : Res :=
  let off := line.toNat * 64
  if !s.flag Reg.HEP_STATUS_HDM_OPEN 0 ∨ s.rangeSize < off + 64 then .next s
  else
    let a := hdmBase + off
    let s1 := (s.toHost off 64).touchDram
    let bs := bytesLE 64 data.toNat
    let s2 :=
      if mask.toNat = 2 ^ 64 - 1 then s1.store a bs
      else ({ s1 with mem := memWriteList s1.mem a (mergeMask (s1.bytes a 64) bs mask.toNat) } : State).touchLines a 1
    .next (if poison then
        { s2 with ms := { s2.ms with ue := (s2.ms.ue.filter fun p => p.1 != lineOf a) ++ [(lineOf a, 0)] } }
      else s2)

/-! ### Peer windows (R599 to R603) -/

/-- A window's target as its shadow holds it. -/
def State.winTgt (s : State) (w : Nat) : Nat := s.rd Reg.HEP_WIN_TGT_TGT w * 2 ^ 21

/-- A window's configuration word as its shadow holds it. -/
def State.winCfg (s : State) (w : Nat) : Nat :=
  s.rd Reg.HEP_WIN_CFG_EN w * 2 ^ 31 + s.rd Reg.HEP_WIN_CFG_RD w * 2 ^ 30 + s.rd Reg.HEP_WIN_CFG_WR w * 2 ^ 29 +
    s.rd Reg.HEP_WIN_CFG_REQ_EN w * 2 ^ 28 + s.rd Reg.HEP_WIN_CFG_SIZE w * 2 ^ 16 + s.rd Reg.HEP_WIN_CFG_REQ_ID w

/-- A window's shadow passes the check of R599. -/
def State.winOk (s : State) (w : Nat) : Bool :=
  let n := s.rd Reg.HEP_WIN_CFG_SIZE w
  !s.flag Reg.HEP_WIN_CFG_EN w || (decide (1 ≤ n) && decide (n ≤ 512) && decide (s.winTgt w + n * 2 ^ 21 ≤ s.rangeSize))

/-- PEER_WINDOW_COMMIT: a write of 1 to GO checks all 64 shadows (R599); it is ignored while PENDING is 1. DESIGN CHOICE,
assumption 110. -/
def execPeerWindowCommit (s : State) : Res :=
  if s.flag Reg.HEP_WIN_COMMIT_PENDING 0 then .next s
  else
    match (upTo 64).find? fun w => !s.winOk w with
    | some w =>
      .next (((s.set1 Reg.HEP_WIN_COMMIT_COMMIT_ERR 0).wr Reg.HEP_WIN_COMMIT_ERR_WIN 0 w).raise 0x0807 [1, w])
    | none =>
      let s1 : State := { s with hep := { s.hep with taken := (upTo 64).map fun w => (w, s.winTgt w, s.winCfg w) } }
      .next (s1.set1 Reg.HEP_WIN_COMMIT_PENDING 0)

/-- PEER_COMMIT_EFFECT: the shadows taken become active together, between two requests (R599, R600). DESIGN CHOICE, assumption
110. -/
def execPeerCommitEffect (s : State) : Res :=
  if !s.flag Reg.HEP_WIN_COMMIT_PENDING 0 then .next s
  else
    let s1 := s.hep.taken.foldl (fun t x => (t.wr Reg.HEP_WIN_ACT_TGT_ACTIVE x.1 x.2.1).wr Reg.HEP_WIN_ACT_CFG_ACTIVE x.1 x.2.2) s
    let s2 : State := { s1 with hep := { s1.hep with taken := [] } }
    .next ((s2.clr Reg.HEP_WIN_COMMIT_PENDING 0).raise 0x0807 [0, s.rd Reg.HEP_WIN_COMMIT_ERR_WIN 0])

/-- Where an active window maps a request to (R601, R602): the HDM offset, or none where it is refused. -/
def State.peerMap (s : State) (off n reqId : Nat) (write : Bool) : Option Nat :=
  let w := off / 2 ^ 30
  let c := s.rd Reg.HEP_WIN_ACT_CFG_ACTIVE w
  let o := off % 2 ^ 30
  if bitOf c 31 && decide (o + n ≤ bitsOf c 16 10 * 2 ^ 21) && (!bitOf c 28 || bitsOf c 0 16 == reqId)
      && bitOf c (if write then 29 else 30) then some (s.rd Reg.HEP_WIN_ACT_TGT_ACTIVE w + o)
  else none

/-- PEER_REQUEST: a read (no data) or write of BAR2 (R571, R572, R581, R601 to R603, R748). DESIGN CHOICE, assumption 108. -/
def execPeerRequest (off : BitVec 36) (len : Fin 4096) (reqId : BitVec 16) (data : Option (List Nat)) (s : State) : Res :=
  let n := len.val + 1
  let o := off.toNat
  if !s.flag Reg.HEP_STATUS_LINK_UP 0 then .next s
  else if !s.flag Reg.HEP_STATUS_HDM_OPEN 0 then .next (s.emit (.peerUnsupported o))
  else
    match s.peerMap o n reqId.toNat data.isSome, data with
    | none, none => .next (s.emit (.peerUnsupported o))
    | none, some _ =>
      let w := o / 2 ^ 30
      let s1 := s.bump Reg.HEP_WIN_DROP_COUNT 0 1
      let s2 := if s.flag Reg.HEP_WIN_LOG_ID_VALID 0 then s1
        else (((s1.wr Reg.HEP_WIN_LOG_ADDR 0 o).wr Reg.HEP_WIN_LOG_ID_WIN 0 w).wr Reg.HEP_WIN_LOG_ID_REQ_ID 0 reqId.toNat).set1
          Reg.HEP_WIN_LOG_ID_VALID 0
      .next (s2.raiseWin 0x0806 0 [w, reqId.toNat] true)
    | some h, none =>
      let a := hdmBase + h
      let s1 := ((s.toHost h n).touchDram).correctRange a n srcPeer
      match s1.ueAt a n with
      | some (l, cw) => .next ((s1.noteUe l cw srcPeer).emit (.peerData o (s1.bytes a n) true))
      | none => .next (s1.emit (.peerData o (s1.bytes a n) false))
    | some h, some bs => .next (((s.toHost h n).touchDram).store (hdmBase + h) (padBytes n (bs.take n)))

/-! ### Translations (R590 to R594) -/

/-- A command ends at the refusal of what it needs of host memory (R592, R723). DESIGN CHOICE, assumption 108. -/
def State.denyHost (s : State) (c : Cmd) : State :=
  if c.op = opWrite then s.stopWrite c stHostAccess 0
  else (s.leaveLadders c.sq c.tag).fail c.sq c.tag stHostAccess

/-- TRANSLATION_COMPLETION: a translation asked for is granted and held, or refused: UR or CA, or without the access that a
command needs, and each command that needs it ends (R591, R592). DESIGN CHOICE, assumption 111. -/
def execTranslationCompletion (pasid : Option (BitVec 20)) (addr : BitVec 64) (g : Option Grant) (s : State) : Res :=
  let p := pasid.map BitVec.toNat
  let a := addr.toNat
  if !s.hep.asked.contains (p, a) then .next s
  else
    let s1 : State := { s with hep := { s.hep with asked := s.hep.asked.filter fun x => x != (p, a) } }
    let size := match g with | some x => max 4096 x.size | none => 4096
    let base := a / size * size
    let s2 := match g with
      | some x => if x.rd || x.wr then s1.atcPut { pasid := p, addr := base, size := size, trans := x.trans, rd := x.rd, wr := x.wr,
                                                   used := s.now } else s1
      | none => s1
    let ok := fun (w : Bool) => match g with | some x => if w then x.wr else x.rd | none => false
    let mine := s2.cmds.filter fun c => c.origin.isNone && c.phase != .fixed && s2.pasidOf c.grp == p
    let bad := mine.filter fun c => c.hostUses.any fun u => decide (u.1 < base + size) && decide (base < u.1 + u.2.1) && !ok u.2.2
    let s3 := bad.foldl (fun t c => (t.xlatFault c.sq c.tag (p.getD 0) a).denyHost c) s2
    .next (mine.foldl (fun t c => t.pretrans c.sq c.tag) s3).settle

/-- ATS_INVALIDATE: the uses of the matching entries drain, the entries go, the completion is sent after at most 100 µs (R593);
a DMA that was stopped asks again (R594). -/
def execAtsInvalidate (pasid : Option (BitVec 20)) (addr size : Nat) (itag : Nat) (us : Fin 101) (s : State) : Res :=
  let p := pasid.map BitVec.toNat
  let s1 := s.advance (us.val * 1500)
  let s2 : State := { s1 with hep := { s1.hep with atc := s1.hep.atc.filter fun x => !x.meets p addr size } }
  let s3 := (s2.bump Reg.HEP_INV_CNT_COUNT 0 1).wr Reg.HEP_INV_CNT_MAX_US 0 (max (s.rd Reg.HEP_INV_CNT_MAX_US 0) us.val)
  let s4 := s3.emit (.invalidateDone itag)
  .next (s4.engines.foldl (fun t e => t.useDesc e.1) s4).retryXlat

end Sys2Proof.Machine
end

