-- ==== Sys2Proof/Machine/Stack.lean ====
section
/-!
DEFINITION. The stack: ports of the ring, forming and losing members, ring messages and their acknowledgement, time across the
ring, commands that cross cells (R533 to R567). The manual gives each message's content and only SYNC's layout; the items here
are this model's.
-/

namespace Sys2Proof.Machine

/-! ### States of a cell in the ring (R569) -/

def csOff : Nat := 0
def csWait : Nat := 1
def csJoin : Nat := 2
def csMember : Nat := 3
def csMaster : Nat := 4
def csConflict : Nat := 5

/-- The state of this cell in the ring. -/
def State.cs (s : State) : Nat := s.rd Reg.CASC_STATUS_STATE 0

/-- This cell is strapped as master. -/
def State.isMaster (s : State) : Bool := s.flag Reg.GCTL_CELL_MASTER 0

/-- A port of the ring is up. -/
def State.portUp (s : State) (p : Nat) : Bool := s.flag Reg.CASC_PORT_STATUS_UP p

/-- A message that is not acknowledged goes out of a port that is up. -/
def State.sendPort (s : State) (p dst mtype : Nat) (items : List Nat) : State :=
  if s.portUp p then s.emit (.ring p dst mtype 0 items) else s

/-- The members listed. -/
def State.listed (s : State) : List Nat := (upTo 8).filter fun c => s.flag Reg.CASC_CELL_LISTED c

/-- What CASC_STATUS and GCTL_CELL show of the table (R546, R569). -/
def State.showTable (s : State) : State :=
  let mask := fun (f : Fld) => (upTo 8).foldl (fun a c => if s.flag f c then a + 2 ^ c else a) 0
  let s1 := (s.wr Reg.CASC_STATUS_MEMBERS 0 (mask Reg.CASC_CELL_LISTED)).wr Reg.CASC_STATUS_REACHABLE 0 (mask Reg.CASC_CELL_REACH)
  let others := s.listed.any fun c => c != s.cell && s.flag Reg.CASC_CELL_REACH c
  (s1.wr Reg.GCTL_CELL_STACK_SIZE 0 s.listed.length).wrB Reg.GCTL_CELL_STACKED 0 others

/-- A cell can be reached, or no longer can; the moment it was lost is kept (R557, R565). -/
def State.setReach (s : State) (c : Nat) (b : Bool) : State :=
  let was := s.flag Reg.CASC_CELL_REACH c
  let s1 := s.wrB Reg.CASC_CELL_REACH c b
  if b then { s1 with stack := { s1.stack with lostAt := mdel s1.stack.lostAt c } }
  else if was then { s1 with stack := { s1.stack with lostAt := mput s1.stack.lostAt c s.now } }
  else s1

/-- No other cell can be reached any more. -/
def State.loseOthers (s : State) : State := ((upTo 8).filter (· != s.cell)).foldl (fun t c => t.setReach c false) s

/-- A member's word of MEMBERS, in the layout of CASC_CELL. -/
def State.memberWord (s : State) (c : Nat) : Nat :=
  s.rd Reg.CASC_CELL_REACH c * 2 ^ 29 + s.rd Reg.CASC_CELL_LISTED c * 2 ^ 28 + s.rd Reg.CASC_CELL_VIA c * 2 ^ 27
    + s.rd Reg.CASC_CELL_HOPS c * 2 ^ 24 + s.rd Reg.CASC_CELL_STN_FITTED c * 2 ^ 16 + s.rd Reg.CASC_CELL_MAG_SLOTS c

/-- The master sends MEMBERS to every cell it reaches, with a new version of the table (R543). DESIGN CHOICE, assumption 92. -/
def State.sendMembers (s : State) : State :=
  let s1 : State := { s.showTable with stack := { s.stack with version := s.stack.version + 1 } }
  let words := (upTo 8).map s1.memberWord
  (s1.listed.filter fun c => c != s1.cell && s1.flag Reg.CASC_CELL_REACH c).foldl (fun t c => t.ringSend c 0x03 words) s1

/-! ### Starting the ring and its ports (R535, R538, R540, R564, R566) -/

/-- CASCADE_ENABLE: EN commits CASC_CFG and starts the ring: the cell takes its number, the master lists itself, a slave waits
(R535, R542, R543). -/
def execCascadeEnable (s : State) : Res :=
  if s.flag Reg.CASC_CTRL_EN 0 then .next s
  else
    let m := s.isMaster
    let c := if m then 0 else s.rd Reg.CASC_CFG_CELL_ID 0
    let s1 := ((s.set1 Reg.CASC_CTRL_EN 0).wr Reg.GCTL_CELL_CELL_NUM 0 c).wr Reg.CASC_STATUS_STATE 0 (if m then csMaster else csWait)
    let s2 := if m then
        ((((s1.set1 Reg.CASC_CELL_LISTED 0).set1 Reg.CASC_CELL_REACH 0).wr Reg.CASC_CELL_STN_FITTED 0
          (s.rd Reg.GCTL_SIZE_STN_FITTED 0)).wr Reg.CASC_CELL_MAG_SLOTS 0 (s.rd Reg.LIB_CFG_SLOTS 0)).wr Reg.CASC_STATUS_SHARED 0
            (s.rd Reg.CASC_CFG_SHARED_LIB 0)
      else s1.set1 Reg.CASC_CELL_REACH c
    .next ({ s2 with stack := { s2.stack with announceAt := s.now, serials := [(c, Config.serial.toNat)], masters := [] } } : State).showTable

/-- CASCADE_FORGET: the master removes an ABSENT member (R546). -/
def execCascadeForget (s : State) : Res :=
  let c := s.rd Reg.CASC_CTRL_FORGET_CELL 0
  if s.cs = csMaster ∧ c ≠ s.cell ∧ s.flag Reg.CASC_CELL_LISTED c ∧ !s.flag Reg.CASC_CELL_REACH c then
    let s1 := [Reg.CASC_CELL_LISTED, Reg.CASC_CELL_VIA, Reg.CASC_CELL_HOPS, Reg.CASC_CELL_STN_FITTED, Reg.CASC_CELL_MAG_SLOTS].foldl
      (fun t f => t.clr f c) s
    .next ({ s1 with stack := { s1.stack with serials := mdel s1.stack.serials c } } : State).sendMembers
  else .next s

/-- Messages to a cell that were sent and not acknowledged go out again on the path in force (R540, R541). -/
def State.resendTo (s : State) (c : Nat) : State :=
  let mine := s.stack.unacked.filter fun m => m.dst == c && m.sentAt.isSome
  let s1 : State := { s with stack := { s.stack with unacked := s.stack.unacked.map fun m =>
    if m.dst == c && m.sentAt.isSome then { m with sentAt := some s.now } else m } }
  let s2 := mine.foldl (fun t m => t.emit (.ring (t.via c) c m.mtype m.seq m.items)) s1
  s2.bump Reg.CASC_RETX_RETX 0 mine.length

/-- CASC_PORT_UP: block lock, RAW as the median of 16 ECHO exchanges (round trip and TURN in cycles) less the trim, then UP; a
port that is up only takes RAW again, a second after it last did (R538). `whole` says that no port of any other member is down (R566). DESIGN CHOICE,
assumption 93. -/
def execCascPortUp (p : Fin 2) (echoes : List (Nat × Nat)) (whole : Bool) (s : State) : Res :=
  if !s.flag Reg.CASC_CTRL_EN 0 ∨ echoes.length ≠ 16 ∨ s.mode = mBanked then .next s
  else
    let m := medianNat (echoes.map fun e => 32 * e.1 - 32 * e.2)
    let raw := (((m / 64 : Nat) : Int) - s.rdS Reg.CASC_PORT_TRIM_TRIM p).toNat
    let s0 := if s.portUp p then s.advanceTo (mget 0 s.stack.rawAt p + hz) else s
    let sent := (upTo 16).foldl (fun t k => t.emit (.ring p 15 0x05 k [k])) s0
    let s1 := (({ sent with stack := { sent.stack with rawAt := mput sent.stack.rawAt p sent.now } } : State)).wr Reg.CASC_PORT_STATUS_RAW
      p raw
    if s.portUp p then .next s1
    else
      let s2 := (((s1.set1 Reg.CASC_PORT_STATUS_LOCK p).set1 Reg.CASC_PORT_STATUS_UP p).loadPort (128 + p)).armCal 0 (128 + p)
      let both := s2.portUp 0 && s2.portUp 1
      let s3 := if both then s2.clr Reg.CASC_STATUS_BROKEN 0 else s2
      let s4 := if s.cs = csMaster then s3.sendMembers else s3
      .next (if both && whole && s.flag Reg.CASC_STATUS_BROKEN 0 then s4.raise 0x0F05 [] else s4)

/-- A port goes down (R564): traffic takes the other one (R540). -/
def State.portDown (s : State) (p : Nat) : State :=
  if !s.portUp p then s
  else
    let s1 := (((s.clr Reg.CASC_PORT_STATUS_UP p).clr Reg.CASC_PORT_STATUS_LOCK p).abandonCal 0 (128 + p))
    let s2 : State := { s1 with stack := { s1.stack with syncHops := mdel s1.stack.syncHops p } }
    let member := s.cs = csMember ∨ s.cs = csMaster
    let s3 := if member then (s2.set1 Reg.CASC_STATUS_BROKEN 0).raise 0x0F04 [p] else s2
    let n := s.listed.length
    let moved := (upTo 8).filter fun c => c != s.cell && s.flag Reg.CASC_CELL_REACH c && s.via c == p
    if s3.portUp (1 - p) then
      moved.foldl (fun t c => ((t.wr Reg.CASC_CELL_VIA c (1 - p)).wr Reg.CASC_CELL_HOPS c (n - s.rd Reg.CASC_CELL_HOPS c)).resendTo c) s3
    else s3

/-- CASC_PORT_DOWN: `errs` block errors on a port within 64 blocks are counted; from 16 on the port goes down (R162, R538, R564). -/
def execCascPortDown (p : Fin 2) (errs : Nat) (s : State) : Res :=
  let s1 := (s.bump Reg.CASC_ERR_BLOCK_ERR 0 errs).abandonCal 0 (128 + p.val)
  .next (if 16 ≤ errs then s1.portDown p.val else s1)

/-- RING_ECHO_RECEIVE: an ECHO of a neighbour is answered out of its port with ECHORSP, which carries TURN in cycles (R538). -/
def execRingEchoReceive (p : Fin 2) (seq : BitVec 8) (turn : Nat) (s : State) : Res :=
  if s.flag Reg.CASC_PORT_STATUS_LOCK p ∨ s.flag Reg.CASC_CTRL_EN 0 then .next (s.emit (.ringEcho p [seq.toNat, turn])) else .next s

/-! ### Forming the stack (R542 to R546) -/

/-- ANNOUNCE_SEND: every 10 ms, out of both ports (R542). -/
def execAnnounceSend (s : State) : Res :=
  if s.cs ≠ csMaster then .next s
  else
    let s1 := s.advanceTo (s.stack.announceAt + 10 * msCycles)
    let items := [Config.serial.toNat, s1.rd Reg.CASC_STATUS_SHARED 0, s1.stack.version, 0]
    let s2 : State := { s1 with stack := { s1.stack with announceAt := s1.now } }
    .next ((s2.sendPort 0 15 0x01 items).sendPort 1 15 0x01 items)

/-- A message that is not intact is discarded and counted (R539). -/
def State.ringBad (s : State) : State := s.bump Reg.CASC_ERR_MSG_ERR 0 1

/-- The path to a cell with fewer hops is taken; of equal ones CASC0 (R540). -/
def State.pathTo (s : State) (c p hops : Nat) : State :=
  let better := !s.flag Reg.CASC_CELL_REACH c || s.via c == p || decide (hops < s.rd Reg.CASC_CELL_HOPS c)
    || (hops == s.rd Reg.CASC_CELL_HOPS c && p == 0)
  if better then (s.wr Reg.CASC_CELL_VIA c p).wr Reg.CASC_CELL_HOPS c hops else s

/-- ANNOUNCE_RECEIVE (R542, R543, R545): forwarded with one more hop; a waiting slave joins; a master that hears another enters
CONFLICT. DESIGN CHOICE, assumptions 93 and 98. -/
def execAnnounceReceive (p : Fin 2) (intact : Bool) (serial : BitVec 64) (shared : Bool) (version hops : Nat) (s : State) : Res :=
  if !s.portUp p then .next s
  else if !intact then .next s.ringBad
  else if s.isMaster then
    if s.cs ≠ csMaster ∨ serial = Config.serial then .next s
    else .next (((s.wr Reg.CASC_STATUS_STATE 0 csConflict).loseOthers.showTable).raise 0x0F03 (w2 serial.toNat))
  else
    let s1 := s.sendPort (1 - p.val) 15 0x01 [serial.toNat, if shared then 1 else 0, version, hops + 1]
    let heard := mput s1.stack.masters serial.toNat s.now
    let two := heard.any fun m => m.1 != serial.toNat && decide (s.now ≤ m.2 + 100 * msCycles)
    let s2 : State := { s1 with stack := { s1.stack with masters := heard, announceAt := s.now, masterLost := false,
                                                         heard := mput s1.stack.heard 0 s.now } }
    let s3 := ((s2.pathTo 0 p (hops + 1)).setReach 0 true).wrB Reg.CASC_STATUS_SHARED 0 shared
    if s.cs = csWait ∧ !two then
      let id := s.rd Reg.CASC_CFG_CELL_ID 0
      .next ((s3.wr Reg.CASC_STATUS_STATE 0 csJoin).ringSend 0 0x02 [id, Config.serial.toNat, s.rd Reg.LIB_CFG_SLOTS 0,
        s.rd Reg.GCTL_SIZE_STN_FITTED 0])
    else .next s3

/-! ### Acknowledged messages (R539 to R541) -/

/-- An ACK for the newest message accepted in order from a cell. -/
def State.ackTo (s : State) (c seq : Nat) : State := s.emit (.ring (s.via c) c 0x0A seq [])

/-- An acknowledged message for this cell: the next in order is accepted and acknowledged; another is discarded and the last
ACK sent again (R541). -/
def State.ringTake (s : State) (r : RingIn) : State × Bool :=
  let s1 : State := { s with stack := { s.stack with heard := mput s.stack.heard r.src s.now } }
  let next := mget 0 s1.stack.rx r.src
  if r.seq = next then
    let s2 : State := { s1 with stack := { s1.stack with rx := mput s1.stack.rx r.src ((next + 1) % 256) } }
    (s2.ackTo r.src r.seq, true)
  else (if mhas s1.stack.rx r.src then s1.ackTo r.src ((next + 255) % 256) else s1, false)

/-- A message for this cell that arrives on a port, with what it does once it is accepted. DESIGN CHOICE, assumption 98. -/
def State.ringIn (s : State) (p : Nat) (r : RingIn) (f : State → State) : Res :=
  if !s.portUp p ∨ s.cs = csConflict ∨ s.cs = csOff then .next s
  else if !r.intact then .next s.ringBad
  else if r.dst ≠ s.cell ∨ r.src = s.cell then .next s
  else
    match s.ringTake r with
    | (t, true) => .next (f t)
    | (t, false) => .next t

/-- JOIN is accepted whatever its SEQ: the pair counts on from it. DESIGN CHOICE, assumption 92. -/
def State.joinSeq (s : State) (r : RingIn) : State := { s with stack := { s.stack with rx := mput s.stack.rx r.src r.seq } }

/-- JOIN_RECEIVE: the master admits or refuses the slave (R543, R544). `hops` is how far off the slave is by that port. DESIGN
CHOICE, assumption 93. -/
def execJoinReceive (p : Fin 2) (hops : Fin 8) (r : RingIn) (s : State) : Res :=
  if s.cs ≠ csMaster then .next s
  else
    (s.joinSeq r).ringIn p r fun t =>
      let id := r.items.getD 0 0
      let serial := r.items.getD 1 0
      let cause := if id < 1 ∨ 7 < id then 1
        else match mfind s.stack.serials id with
          | some x => if x ≠ serial then 2 else 0
          | none => 0
      if cause ≠ 0 then (t.sendPort p id 0x03 [cause]).raise 0x0F02 [id, cause]
      else
        let t1 := (t.pathTo id p hops).setReach id true
        let t2 := ((t1.set1 Reg.CASC_CELL_LISTED id).wr Reg.CASC_CELL_MAG_SLOTS id (r.items.getD 2 0)).wr Reg.CASC_CELL_STN_FITTED id
          (r.items.getD 3 0)
        let t3 : State := { t2 with stack := { t2.stack with serials := mput t2.stack.serials id serial } }
        (t3.raise 0x0F01 (id :: w2 serial)).sendMembers

/-- Where a member stands downstream of the master, from the master's own path to it. -/
def ringPos (n w : Nat) : Nat := if bitOf w 27 then n - bitsOf w 24 3 else bitsOf w 24 3

/-- A member's word is taken into the table of a slave: its path is reckoned from both cells' places in the ring. DESIGN CHOICE,
assumption 92. -/
def State.takeMember (s : State) (words : List Nat) (c : Nat) : State :=
  let w := words.getD c 0
  let n := (words.filter fun x => bitOf x 28).length
  let down := (ringPos n w + n - ringPos n (words.getD s.cell 0)) % max 1 n
  let via0 := decide (down ≤ n - down)
  let s1 := ((s.wr Reg.CASC_CELL_LISTED c (bitsOf w 28 1)).wr Reg.CASC_CELL_STN_FITTED c (bitsOf w 16 8)).wr Reg.CASC_CELL_MAG_SLOTS c
    (bitsOf w 0 13)
  let s2 := s1.setReach c (bitOf w 29)
  if c = s.cell then (s2.clr Reg.CASC_CELL_VIA c).clr Reg.CASC_CELL_HOPS c
  else if via0 ∧ s.portUp 0 ∨ !s.portUp 1 then (s2.wr Reg.CASC_CELL_VIA c 0).wr Reg.CASC_CELL_HOPS c down
  else (s2.wr Reg.CASC_CELL_VIA c 1).wr Reg.CASC_CELL_HOPS c (n - down)

/-- MEMBERS_RECEIVE: a slave's table follows the master's; a cell that is listed is a member. A refusal carries its cause alone
(R543, R544, R546). -/
def execMembersReceive (p : Fin 2) (r : RingIn) (s : State) : Res :=
  if s.isMaster then .next s
  else if r.items.length = 1 then
    if s.cs ≠ csJoin ∨ !r.intact then .next s
    else .next ((s.wr Reg.CASC_STATUS_STATE 0 csWait).wr Reg.CASC_STATUS_REFUSE 0 (r.items.getD 0 0))
  else
    (if s.cs = csJoin then s.joinSeq r else s).ringIn p r fun t =>
      let t1 := (upTo 8).foldl (fun u c => u.takeMember r.items c) t
      let mine := bitOf (r.items.getD s.cell 0) 28
      ((t1.wr Reg.CASC_STATUS_STATE 0 (if mine then csMember else csWait)).clr Reg.CASC_STATUS_REFUSE 0).showTable

/-- RING_MESSAGE_FORWARD: a message for another cell goes out of the other port (R540). -/
def execRingMessageForward (p : Fin 2) (mtype : Nat) (r : RingIn) (s : State) : Res :=
  if !s.portUp p then .next s
  else if !r.intact then .next s.ringBad
  else if r.dst = s.cell then .next s
  else
    let s1 : State := { s with stack := { s.stack with heard := mput s.stack.heard r.src s.now } }
    if s.portUp (1 - p.val) then .next (s1.emit (.ring (1 - p.val) r.dst mtype r.seq r.items)) else .next s1

/-- RING_RETRANSMIT: the first unacknowledged message to a cell is 100 µs old; all from it on go again (R541). -/
def execRingRetransmit (dst : Fin 8) (s : State) : Res :=
  match s.stack.unacked.find? fun m => m.dst == dst.val && m.sentAt.isSome with
  | none => .next s
  | some m => .next ((s.advanceTo (m.sentAt.getD 0 + 150000)).resendTo dst)

/-- Messages that waited for room among the 128 go out (R541). -/
def State.fillRing : Nat → State → Nat → State
  | 0, s, _ => s
  | fuel + 1, s, c =>
    if s.ringOut c < 128 then
      match s.stack.unacked.find? fun m => m.dst == c && m.sentAt.isNone with
      | none => s
      | some m =>
        let s1 : State := { s with stack := { s.stack with unacked := s.stack.unacked.map fun x =>
          if x == m then { x with sentAt := some s.now } else x } }
        (s1.emit (.ring (s.via c) c m.mtype m.seq m.items)).fillRing fuel c
    else s

/-- A transfer goes on once its location is acknowledged (R562). -/
def State.ackTransfers (s : State) (c : Nat) : State :=
  let waits := fun (d : Nat) => s.stack.unacked.any fun m => m.dst == c && m.mtype == 0x08 && m.items.getD 0 0 == 4 && m.items.getD 1 0 == d
  { s with lib := { s.lib with transfers := s.lib.transfers.map fun t =>
      if t.disc / 4096 == c && !waits t.disc then { t with ackDue := false } else t } }

/-- Proxy records that the home cell acknowledged are dead (R556, R804). DESIGN CHOICE, assumption 100. -/
def State.ackProxies (s : State) (c : Nat) : State :=
  let waits := fun (w : Nat) => s.stack.unacked.any fun m => m.dst == c && m.mtype == 0x08 && m.items == [2, w]
  { s with stack := { s.stack with proxies := s.stack.proxies.filter fun p => !(p.cell == c && p.sent && !waits p.word) } }

/-- RING_ACK_RECEIVE: every message up to the SEQ is acknowledged (R541). -/
def execRingAckReceive (p : Fin 2) (r : RingIn) (s : State) : Res :=
  if !s.portUp p then .next s
  else if !r.intact then .next s.ringBad
  else if r.dst ≠ s.cell then .next s
  else
    let c := r.src
    let keep := fun (m : RingMsg) => m.dst != c || m.sentAt.isNone || decide (128 ≤ (r.seq + 256 - m.seq) % 256)
    let s1 : State := { s with stack := { s.stack with unacked := s.stack.unacked.filter keep,
                                                       heard := mput s.stack.heard c s.now } }
    .next (((s1.fillRing 128 c).ackTransfers c).ackProxies c).settle

/-! ### Time across the stack (R548 to R552) -/

/-- The copy of SYNC that a slave uses: fewer hops, of equal ones that of CASC1 (R550). -/
def State.syncBest (s : State) (p hops : Nat) : Bool :=
  match mfind s.stack.syncHops (1 - p) with
  | none => true
  | some h => decide (hops < h) || (hops == h && p == 1)

/-- The first SYNC of a slave enters STACK (R66, R551, R568): an error beyond SLEW_LIMIT, or another TIME_SEC, loads the stack's
time; the rest is slewed. DESIGN CHOICE, assumption 96. -/
def State.enterStack (s : State) (e : Int) (sec : Nat) : State :=
  let wasAt := s.atLimit
  let s1 := (s.wr Reg.TIME_STATUS_STATE 0 dStack).setLocked false
  let t1 : State := { s1 with tb := { s1.tb with lockRun := 0, stepErrs := [], lastAcc := none, cand := none, stepPending := none } }
  let s2 := t1.clr Reg.TIME_STATUS_STEP_PENDING 0
  let s3 := s2.raise 0x0208 [1]
  if s.slewLimit < e.natAbs ∨ s.tb.sec ≠ sec then
    let d := stepAmount e
    (((s3.advanceMod 80000).moveTime (-d)).slew (e - d)).showFreq wasAt |>.jumped 0x0205 2 (-d)
  else (s3.slew e).showFreq wasAt

/-- SYNC_RECEIVE: dt cycles on, a SYNC is delivered on a port: it is forwarded with this hop's latency and residence, and the
slave disciplines its TIME to it (R547 to R551). DESIGN CHOICE, assumptions 94, 95, 96. -/
def execSyncReceive (dt : Nat) (p : Fin 2) (intact : Bool) (origin : BitVec 64) (acc : BitVec 32) (locked : Bool) (hops : BitVec 3)
    (residence : Fin 2001) (s : State) : Res :=
  let s0 := s.advance dt
  if s.isMaster ∨ !s.portUp p then .next s0
  else if !intact then .next s0.ringBad
  else
    let raw := s0.rd Reg.CASC_PORT_STATUS_RAW p
    let s1 := s0.sendPort (1 - p.val) 15 0x04 [origin.toNat, acc.toNat + raw + residence.val, if locked then 1 else 0, hops.toNat + 1]
    let s2 : State := { s1 with stack := { s1.stack with syncHops := mput s1.stack.syncHops p hops.toNat } }
    if s.cs ≠ csMember ∨ !s0.syncBest p hops.toNat ∨ !timeValid origin.toNat then .next s2
    else
      let path := acc.toNat + raw
      let e := timeDiff s0.lin ((linOf origin.toNat + path) % linMod)
      let o := linOf origin.toNat
      let stood := s0.now - path
      let mark := fun (t : State) => ({ t with stack := { t.stack with origin := some o, originAt := stood },
                                               tb := { t.tb with holdFrom := s0.now, accSlew := t.tb.slewTotal t.now } } : State)
      if s0.rd Reg.TIME_STATUS_STATE 0 ≠ dStack then
        .next (mark ((s2.wrS Reg.TIME_ERR_ERR 0 e).enterStack e ((o + path) % linMod / hz)))
      else
        match s2.stack.origin with
        | none => .next (mark ((s2.wrS Reg.TIME_ERR_ERR 0 e).slew e))
        | some o0 =>
          if o = (o0 + hz) % linMod then
            .next (mark ((s2.wrS Reg.TIME_ERR_ERR 0 e).discipline (stood - s.stack.originAt) e false))
          else .next s2

/-- STACK is left for HOLDOVER (R552); STACK_TIME goes out as the state is left (`State.noStack`). -/
def State.leaveStack (s : State) : State :=
  let s1 : State := { s with stack := { s.stack with origin := none, syncHops := [] } }
  s1.enterHoldover

/-- STACK_SYNC_TIMEOUT: no accepted SYNC for HOLD_MISS seconds (R552). -/
def execStackSyncTimeout (s : State) : Res :=
  if s.rd Reg.TIME_STATUS_STATE 0 ≠ dStack then .next s
  else .next (s.advanceTo (s.tb.holdFrom + s.rd1 Reg.TIME_LOCK_HOLD_MISS 0 * hz)).leaveStack

/-! ### Loss of members and of the master (R565) -/

/-- MEMBER_ABSENT: no message of a member for 30 ms (R546, R565). DESIGN CHOICE, assumption 94. -/
def execMemberAbsent (c : Fin 8) (s : State) : Res :=
  if s.cs ≠ csMaster ∨ c.val = s.cell ∨ !s.flag Reg.CASC_CELL_LISTED c ∨ !s.flag Reg.CASC_CELL_REACH c then .next s
  else
    let s1 := (s.advanceTo (mget 0 s.stack.heard c + 30 * msCycles)).setReach c false
    .next (s1.raise 0x0F06 [c]).sendMembers

/-- MASTER_LOST: a slave has heard no ANNOUNCE for 30 ms: it reaches no other cell, leaves STACK and waits to join again (R552,
R565, R566). -/
def execMasterLost (s : State) : Res :=
  if s.isMaster ∨ s.stack.masterLost ∨ !(s.cs = csMember ∨ s.cs = csJoin) then .next s
  else
    let s1 := (s.advanceTo (s.stack.announceAt + 30 * msCycles)).loseOthers
    let s2 : State := { s1 with stack := { s1.stack with masterLost := true } }
    let s3 := ((s2.wr Reg.CASC_STATUS_STATE 0 csWait).showTable).raise 0x0F07 []
    .next (if s3.rd Reg.TIME_STATUS_STATE 0 = dStack then s3.leaveStack else s3)

/-! ### Commands that cross cells (R553 to R557) -/

/-- The cells that a command in flight needs: the one that serves it, the home cell of its disc. -/
def Cmd.needs (c : Cmd) (own : Nat) : List Nat :=
  (c.away.toList ++ (match c.names with | some a => [aaddrDisc a / 4096] | none => [])).filter (· != own)

/-- CROSS_CELL_TIMEOUT: a cell that a command needs cannot be reached for 1 s (R557). Frames whose encoding has started go on. -/
def execCrossCellTimeout (sq tag : Nat) (s : State) : Res :=
  match s.cmd? sq tag with
  | none => .next s
  | some c =>
    match (c.needs s.cell).find? fun x => !s.reach x with
    | none => .next s
    | some x =>
      if c.phase = .fixed ∨ c.origin.isSome then .next s
      else
        let s1 := s.advanceTo (max c.since (mget 0 s.stack.lostAt x) + hz)
        let s2 := s1.updCmd sq tag fun y => { y with away := none }
        .next (if c.op = opWrite then s2.stopWrite c stStackUnavailable 0
          else (s2.leaveLadders sq tag).fail sq tag stStackUnavailable).settle

/-- A command that arrives from another cell: it is in flight here for that cell (R553). -/
def State.foreign (s : State) (src : Nat) (r : List Nat) : State :=
  let sq := 65536 * (src + 1) + r.getD 1 0 % 65536
  let tag := r.getD 2 0
  let pkt := ofBytesLE ((upTo 8).flatMap fun i => bytesLE 8 (r.getD (5 + i) 0))
  let c : Cmd := { sq := sq, tag := tag, pkt := pkt, ord := s.cmdSeq + 1, acct := r.getD 3 0, prof := r.getD 4 0, origin := some src,
                   ready := true, launched := true, since := s.now }
  let c1 := { c with disc := c.names.map aaddrDisc }
  let s1 : State := { s with cmdSeq := s.cmdSeq + 1, cmds := s.cmds ++ [c1] }
  if s.mode = mCinder then s1.fail sq tag stDegraded
  else
    let bad := if c.isData ∨ c.op = opFlush ∨ c.op = opZoneClose ∨ c.op = opFinalize then
        match s.routeDisc c (aaddrDisc c.aaddr) with
        | .here => if c.op = opWrite then s.writeCheck c else none
        | .end_ st => some st
        | _ => some stDiscNotMounted
      else none
    let s2 := match bad with
      | some st => s1.fail sq tag st
      | none => if c.op = opWrite then s1.acceptWrite c1 else s1
    if s.mode = mEmber ∧ s.pw.trans.isNone then s2.beginTrans s.pw.prevMode 3 none else s2

/-- The outcome that the serving cell reports: a READ still waits for the data that moves here (R554). -/
def State.farOutcome (s : State) (r : List Nat) : State :=
  let sq := r.getD 1 0
  let tag := r.getD 2 0
  match s.cmd? sq tag with
  | none => s
  | some c =>
    if c.away.isNone then s
    else if c.op = opRead then
      let b := if c.inPlace ∧ c.origin.isNone then ((c.frames.headD { zone := 0, index := 0, slot := 0 }).addr - hdmBase) / 4096
        else r.getD 5 0
      s.updCmd sq tag fun x => { x with away := none, status := r.getD 3 0, resA := r.getD 4 0, resB := b, stage := 9 }
    else
      (s.updCmd sq tag fun x => { x with away := none }).finish sq tag (r.getD 3 0) (r.getD 4 0) (r.getD 5 0) (r.getD 6 0)

/-- RING_CMD_RECEIVE: a command of another cell, its outcome, or its abort (R553, R675). DESIGN CHOICE, assumption 91. -/
def execRingCmdReceive (p : Fin 2) (r : RingIn) (s : State) : Res :=
  s.ringIn p r fun t =>
    (match r.items.getD 0 0 with
     | 0 => t.foreign r.src r.items
     | 1 => t.farOutcome r.items
     | _ =>
       match t.cmd? (65536 * (r.src + 1) + r.items.getD 1 0 % 65536) (r.items.getD 2 0) with
       | none => t
       | some c => (t.abortCmd c).getD t).settle

/-- A frame that arrives for a READ of this cell reaches its buffer, or is bad (R554). -/
def State.farFrame (s : State) (c : Cmd) (i : Nat) (r : List Nat) : State :=
  let f := c.frames.getD i { zone := 0, index := 0, slot := 0 }
  if f.fate != .wanted then s
  else if r.getD 3 0 = 0 then
    let s1 := s.ownWrite f.addr (padBytes 65536 (r.drop 4))
    let s2 := s1.updCmd c.sq c.tag fun x => x.setFrame i fun y => { y with fate := .delivered, moved := c.inPlace }
    if c.inPlace then s2.tap c.acct 2 (c.part i).2.2
    else
      let q := c.part i
      s2.queueMove c i (s.moveSlice f.zone) f.buf (s2.bufOffset f.buf + q.2.1) q.1 q.2.2 true
  else s.updCmd c.sq c.tag fun x => x.setFrame i fun y => { y with fate := .bad, moved := true }

/-- A frame that arrives for a WRITE served here is held in a buffer of this cell, or its data could not be had (R554). -/
def State.farData (s : State) (c : Cmd) (i : Nat) (r : List Nat) : State :=
  match (s.ownFrames c).find? fun h => h.index == bitsOf c.aaddr 16 13 + i with
  | none => s
  | some h =>
    match r.getD 3 0 with
    | 0 =>
      match s.takeBuf 2 c.sq (some c.ord) with
      | none => s
      | some (k, s1) =>
        let a := hdmBase + s1.bufOffset k
        let s2 : State := { s1 with held := s1.held.map fun x => if x == h then { x with buf := k, addr := a, present := true } else x }
        s2.ownWrite a (padBytes 65536 (r.drop 4))
    | 3 => s.writeBroken h stDataEcc
    | _ => s.writeBroken h stHostAccess

/-- RING_FRAME_RECEIVE: the data of a frame, or what a command that runs elsewhere writes to host memory. A frame for which no
buffer is free is not taken yet: it comes again (R554, R558). DESIGN CHOICE, assumption 91. -/
def execRingFrameReceive (p : Fin 2) (r : RingIn) (s : State) : Res :=
  let sq := r.items.getD 0 0
  let tag := r.items.getD 1 0
  let i := r.items.getD 2 0
  let data := r.items.getD 3 0 == 0
  match s.cmd? sq tag with
  | some c =>
    if c.away = some r.src then
      if i = 65535 then
        s.ringIn p r fun t => (t.hostWrites (t.pasidOf c.grp) (c.flagBit 3) (r.items.getD 4 0) (r.items.drop 5)).updCmd sq tag fun x =>
          { x with lastWrite := some (r.items.getD 4 0) }
      else if data && !c.inPlace && (c.frames.getD i { zone := 0, index := 0, slot := 0 }).buf == noBuf then .next s
      else s.ringIn p r fun t => (t.farFrame c i r.items).settle
    else s.ringIn p r id
  | none =>
    match s.cmd? (65536 * (r.src + 1) + sq) tag with
    | none => s.ringIn p r id
    | some c =>
      if data && (s.takeBuf 2 c.sq (some c.ord)).isNone then .next s
      else s.ringIn p r fun t => (t.farData c i r.items).settle

/-- A disc's location as its home cell answers: LOC, its cell, OWNER, whether it is moving. DESIGN CHOICE, assumption 101. -/
def State.catAnswer (s : State) (d : Nat) : List Nat :=
  let x := s.disc d
  [1, d, locOf d x, x.cellOf s.cell, x.owner, if s.discMoving d then 1 else 0]

/-- A location of another cell's disc is known; commands that asked for it go on, or end (R522, R553, R625). DESIGN CHOICE,
assumption 101. -/
def State.takeLocation (s : State) (r : List Nat) : State :=
  let d := r.getD 1 0
  let s1 : State := { s with stack := { s.stack with cache := mput s.stack.cache d (r.getD 2 0, r.getD 3 0) } }
  let s2 := s1.putDisc d { s1.disc d with owner := r.getD 4 0 }
  let asked := s2.cmds.filter fun c => c.disc == some d && c.awaySince.isSome && c.phase == .waiting
  asked.foldl (fun t c =>
    let t1 := t.updCmd c.sq c.tag fun x => { x with awaySince := none }
    if !t1.ownerOk c d then t1.cancel c stAddressRange
    else if c.isData && r.getD 5 0 == 1 then t1.cancel c stBusyMoving
    else t1) s2

/-- A location that the master, or the cell whose picker moves the disc, reports to its home cell (R562). The cells that asked for
it are told. DESIGN CHOICE, assumption 101. -/
def State.moveLocation (s : State) (r : List Nat) : State :=
  let d := r.getD 1 0
  let loc := r.getD 2 0
  let cell := r.getD 3 0
  let l : DiscLoc := match locKind loc with
    | 0 => .home
    | 1 => if cell = s.cell then .station (locIndex loc) else .other cell (locIndex loc)
    | _ => .picker (locIndex loc)
  let s1 := s.putDisc d { s.disc d with loc := l }
  let rest := s1.stack.farMoving.filter fun x => x != d
  let s2 : State := { s1 with stack := { s1.stack with farMoving := if r.getD 4 0 = 1 then rest ++ [d] else rest } }
  (s2.stack.askers.filter fun a => a.2 == d && a.1 != cell).foldl (fun t a => t.ringSend a.1 0x08 (t.catAnswer d)) s2

/-- RING_CAT_RECEIVE: a query, its answer, a word for the home cell's journal, its acknowledgement, a location (R553, R555, R562).
DESIGN CHOICE, assumption 91. -/
def execRingCatReceive (p : Fin 2) (r : RingIn) (s : State) : Res :=
  s.ringIn p r fun t =>
    let d := r.items.getD 1 0
    (match r.items.getD 0 0 with
     | 0 =>
       let asked := if t.stack.askers.contains (r.src, d) then t.stack.askers else t.stack.askers ++ [(r.src, d)]
       ({ t with stack := { t.stack with askers := asked } } : State).ringSend r.src 0x08 (t.catAnswer d)
     | 1 => t.takeLocation r.items
     | 2 =>
       let t1 := t.mergeWord d
       t1.journal { words := [d], zone := some (wordZone d), frames := (t1.zone (wordZone d)).frames, reply := some r.src }
     | 3 =>
       let zk := wordZone d
       let n := bitsOf d 30 14 - bitsOf d 44 8
       if d % 16 = 1 then t.putZone zk { t.zone zk with jframes := max (t.zone zk).jframes n } else t
     | _ => t.moveLocation r.items).settle

/-- RING_LIB_RECEIVE: library work for the master, its progress, and the preparation of a station for unloading (R560, R561).
DESIGN CHOICE, assumption 91. -/
def execRingLibReceive (p : Fin 2) (r : RingIn) (s : State) : Res :=
  s.ringIn p r fun (t : State) =>
    let d := r.items.getD 1 0
    let n := r.items.getD 2 0
    (match r.items.getD 0 0 with
     | 1 => t.foreign r.src r.items
     | 2 =>
       if t.mode = mCinder then t.ringSend r.src 0x09 [3, d, stDegraded, 0]
       else
       let t1 := t.putDisc d { t.disc d with known := true, loc := .station n, mounted := false }
       ({ t1 with lib := { t1.lib with guests := t1.lib.guests ++ [d] } } : State).mountStart n
     | 3 =>
       match t.cmds.find? fun (c : Cmd) => c.op == opMount && c.disc == some d && c.phase == CmdPhase.started with
       | none => t
       | some c => t.finish c.sq c.tag n (r.items.getD 3 0) 0 0
     | 4 =>
       match (t.disc d).loc with
       | .station k =>
         let c : Cmd := { sq := 2 ^ 20 + n, tag := r.items.getD 3 0, pkt := opUnmount + d * 2 ^ 168, ord := t.cmdSeq + 1, disc := some d,
                          stn := some k, origin := some r.src, ready := true, launched := true, phase := .started, since := t.now }
         let t1 : State := { t with cmdSeq := t.cmdSeq + 1, cmds := t.cmds ++ [c] }
         if t.mode = mCinder then t1.fail c.sq c.tag stDegraded else t1
       | _ => t.ringSend r.src 0x06 [1, n, r.items.getD 3 0, stDiscNotMounted, 0, 0, 0]
     | 6 => t.takeEntry r.src d n
     | 7 => t.ringSend r.src 0x09 [6, d, t.locEntry t.cell d]
     | _ =>
       match t.cmds.find? fun (c : Cmd) => c.op == opUnmount && c.disc == some d && c.away == some r.src with
       | none => t
       | some c =>
         (t.updCmd c.sq c.tag fun x => { x with away := none, stage := 3 }).askTransfer
           { id := 0, cmd := some (c.sq, c.tag), disc := d, src := locStation n, srcCell := r.src, dst := locSlot (d % 4096),
             dstCell := d / 4096, kind := 1 }).settle

/-- PROXY_DELIVER: the records and locations held for a cell that can be reached again are sent (R556, R563). DESIGN CHOICE,
assumption 100. -/
def execProxyDeliver (c : Fin 8) (s : State) : Res :=
  if !s.reach c ∨ c.val = s.cell then .next s
  else
    let due := s.stack.proxies.filter fun x => x.cell == c.val && !x.sent
    let s1 := due.foldl (fun t x => t.ringSend c 0x08 [2, x.word]) s
    let s2 : State := { s1 with stack := { s1.stack with proxies := s1.stack.proxies.map fun x =>
      if x.cell == c.val then { x with sent := true } else x } }
    let locs := s.stack.lateLocs.filter fun x => x.1 / 4096 == c.val
    let s3 : State := { s2 with stack := { s2.stack with lateLocs := s2.stack.lateLocs.filter fun x => x.1 / 4096 != c.val } }
    .next (locs.foldl (fun t x => t.ringSend c 0x08
      [4, x.1, x.2, (t.disc x.1).cellOf t.cell, if t.discMoving x.1 then 1 else 0]) s3)

end Sys2Proof.Machine
end

