-- ==== Sys2Proof/Machine/Flash.lean ====
section
/-!
DEFINITION. The flash array: words and check slots, programs and erases, the erase log, the boot selection, the journal's replay
and reclaim, the frontier search at a mount (R768 to R812, R930, R964).
-/

namespace Sys2Proof.Machine

/-- A structure scan reads a range: corrections, uncorrectable and torn words are counted (R775, R776, R813). A management core that loads
an uncorrectable word takes the memory-error trap of R748, whose handler has run before the next load; the erase logs are read
by the flash controller. DESIGN CHOICE, assumption 234. -/
def State.scanRange (s : State) (lo hi : Nat) : State :=
  (s.fwords lo hi).foldl (fun t p =>
    match p.2.read with
    | .torn => t.bump Reg.FLC_TORN_CNT_COUNT 0 1
    | .corrected _ _ => (t.bump Reg.FLC_CE_CNT_COUNT 0 1).raiseWin 0x0B01 0 [] true
    | .bad slot =>
      let t1 := t.bump Reg.FLC_UE_CNT_COUNT 0 1
      let t2 := if t.flag Reg.FLC_ERR_INFO_VALID 0 then t1
        else ((t1.wr Reg.FLC_ERR_ADDR_ADDR 0 (p.1 * 8)).wr Reg.FLC_ERR_INFO_SLOT 0 slot).set1 Reg.FLC_ERR_INFO_VALID 0
      let t3 := t2.raise 0x0B02 (w2 (p.1 * 8))
      if p.1 / sectorWords = 1 ∨ p.1 / sectorWords = 2 then t3 else t3.raise 0x0A08 (0 :: w2 (p.1 * 8))
    | _ => t) s

/-! ### Who may change what (R770, R771) -/

/-- The first sector of a twin. -/
def twinSector (twin : Nat) : Nat := if twin = 0 then 4 else 68

/-- The twin that runs. -/
def State.activeTwin (s : State) : Nat := s.rd Reg.GCTL_BOOT_ACTIVE_TWIN 0

/-- Controller firmware may program and erase a sector. -/
def State.fwSector (s : State) (sec : Nat) : Bool :=
  sec == 0 || (decide (132 ≤ sec) && decide (sec < 228)) || decide (356 ≤ sec)
    || (decide (4 ≤ sec) && decide (sec < 132) && (decide (sec < 68) == (s.activeTwin == 1)))

/-- An operation ends with a RESULT; a program refused is reported (R813). -/
def State.flashResult (s : State) (r off : Nat) : State :=
  let s1 := s.wr Reg.FLC_STATUS_RESULT 0 r
  if r = 1 ∨ r = 2 ∨ r = 3 then s1.raise 0x0B03 (w2 off ++ [r]) else s1

/-- An erase is running, not suspended. -/
def State.eraseRuns (s : State) : Bool := match s.flash.erase with | some e => !e.suspended | none => false

/-- An erase of a sector is in progress or suspended. -/
def State.eraseOf (s : State) (sec : Nat) : Bool := match s.flash.erase with | some e => e.sector == sec | none => false

/-- BUSY, ERASING and SUSPENDED as they stand (R814). -/
def State.showFlash (s : State) : State :=
  let s1 := s.wrB Reg.FLC_STATUS_BUSY 0 (s.flash.prog.isSome || s.eraseRuns)
  let s2 := s1.wrB Reg.FLC_STATUS_ERASING 0 s.flash.erase.isSome
  s2.wrB Reg.FLC_STATUS_SUSPENDED 0 (s.flash.erase.isSome && !s.eraseRuns)

/-! ### Programs (R773, R777, R780 to R782, R964) -/

/-- The bytes of a value that a mask names, over a word's data (R777). -/
def maskBytes (old new mask : Nat) : Nat :=
  ofBytesLE ((upTo 8).map fun i => if bitOf mask i then bitsOf new (8 * i) 8 else bitsOf old (8 * i) 8)

/-- FLASH_PROGRAM: a complete PROGRAM sequence of controller firmware (R771, R773, R777, R778, R780, R781). DESIGN CHOICE,
assumption 143. -/
def execFlashProgram (word : BitVec 25) (value : BitVec 64) (mask : BitVec 8) (s : State) : Res :=
  let i := word.toNat
  let sec := i / sectorWords
  if !s.fwRuns then .next s
  else if !s.fwSector sec then .next (s.flashResult 3 (i * 8))
  else if s.eraseOf sec then .next (s.flashResult 6 0)
  else if s.flash.prog.isSome ∨ (s.eraseRuns ∧ !s.flag Reg.FLC_CTRL_AUTO_SUSPEND 0) then .next (s.flashResult 5 0)
  else
    let v := maskBytes (s.fword i).data value.toNat mask.toNat
    let r := (s.fword i).outcome v
    if r ≠ 0 then .next (s.flashResult r (i * 8))
    else
      let run := s.eraseRuns
      let er := s.flash.erase.map fun e => if run then { e with suspended := true } else e
      .next ({ s with flash := { s.flash with prog := some { word := i, value := v, resume := run }, erase := er } } : State).showFlash

/-- A journal item has been programmed: the pointer covers its frames, the cell that asked is told (R555, R802). -/
def State.itemDone (s : State) (x : JItem) : State :=
  let s1 := match x.zone with
    | some zk => if x.type = 0 then s.putZone zk { s.zone zk with jframes := max (s.zone zk).jframes x.frames } else s
    | none => s
  match x.reply, x.words with
  | some c, w :: _ => s1.ringSend c 0x08 [3, w]
  | _, _ => s1

/-- The first item that satisfies a test leaves the queue, done. -/
def State.takeItem (s : State) (p : JItem → Bool) (note : Option Nat) : State :=
  match s.jq.find? p with
  | none => s
  | some x =>
    let s1 : State := { s with jq := s.jq.eraseP p }
    let s2 : State := match note with
      | some i => { s1 with flash := { s1.flash with notes := mput s1.flash.notes i (x.type, x.info) } }
      | none => s1
    s2.itemDone x

/-- A committed catalogue snapshot: its first word's index and its words, the last of which holds the CRC-32 of those before it, the
first one as committed (R805). DESIGN CHOICE, assumption 235. -/
def State.snapAt (s : State) (i : Nat) : Option (List Nat) :=
  match s.fval i, s.fval (i + 5) with
  | some v, some h =>
    if v % 16 ≠ 7 ∨ bitOf v 63 then none
    else
      let n := 7 + bitsOf h 0 12 + (bitsOf h 16 19 + 3) / 4
      let ws := (upTo n).map fun k => s.fval (i + k)
      let vs := ws.map fun w => w.getD 0
      if ws.all Option.isSome && crc32 (vs.dropLast.flatMap (bytesLE 8)) == (vs.getLast?.getD 0) % 2 ^ 32 then some vs else none
  | _, _ => none

/-- A word of JOURNAL or CATALOG has been programmed: what was due for it is done. A multi-word record counts when COMMIT_N of
its first word is cleared (R797, R800, R805). A PROXY record is the one due with its word (R804), a snapshot the one due for its
slot with its CLEAN. -/
def State.recorded (s : State) (i v : Nat) : State :=
  let sec := i / sectorWords
  let type := v % 16
  let w := s.fword i
  if sec < 356 then s
  else if sec < 612 then
    if type = 1 ∨ type = 2 then s.takeItem (fun x => x.words == [v]) none
    else if w.pb ∧ 8 ≤ type ∧ type ≤ 11 ∧ !bitOf v 63 then
      s.takeItem (fun x => x.type == type && (type != 11 || x.info == [(s.fval (i + 1)).getD 0])) (some i)
    else s
  else if w.pb ∧ (s.snapAt i).isSome then
    s.takeItem (fun x => x.type == 7 && x.info == [bitsOf v 16 3, bitsOf v 4 12, bitsOf v 51 1]) none
  else s

/-- The program in progress ends with its word programmed; an erase that it suspended goes on. DESIGN CHOICE, assumption 149. -/
def State.endProgram (s : State) : State :=
  match s.flash.prog with
  | none => s
  | some p =>
    let s1 := s.programNow p.word p.value
    let er := s1.flash.erase.map fun e => if p.resume then { e with suspended := false } else e
    let s2 : State := { s1 with flash := { s1.flash with prog := none, erase := er } }
    (((s2.wr Reg.FLC_STATUS_RESULT 0 0).showFlash).recorded p.word p.value).settle

/-- FLASH_PROGRAM_DONE: dt cycles on, the word program ends (R774, R782). -/
def execFlashProgramDone (dt : Nat) (s : State) : Res :=
  if s.flash.prog.isNone then .next s else .next (s.advance dt).endProgram

/-! ### The erase log (R783 to R786) -/

/-- Entries of a log that decode, with their word index. -/
def State.logEntries (s : State) (log : Nat) : List (Nat × Nat) :=
  (s.fwords (secWord (1 + log)) (secWord (2 + log))).filterMap fun p =>
    match p.2.read with
    | .good v => some (p.1, v)
    | .corrected v _ => some (p.1, v)
    | _ => none

/-- The highest SEQ of a log; 0 where it holds none. -/
def State.logMax (s : State) (log : Nat) : Nat := (s.logEntries log).foldl (fun m p => max m (bitsOf p.2 16 32)) 0

/-- The active log (R785). DESIGN CHOICE, assumption 145. -/
def State.activeLog (s : State) : Nat := if s.logMax 0 < s.logMax 1 then 1 else 0

/-- Erased words at the end of a log begin here. DESIGN CHOICE, assumption 145. -/
def State.logNext (s : State) (log : Nat) : Nat :=
  (s.fwords (secWord (1 + log)) (secWord (2 + log))).foldl (fun m p => max m (p.1 + 1)) (secWord (1 + log))

/-- The entry of an erase, R784, with DONE_N 1. -/
def logWord (sec kind seq aux : Nat) : Nat := sec + kind * 2 ^ 12 + seq % 2 ^ 32 * 2 ^ 16 + aux * 2 ^ 48 + 2 ^ 63

/-- An entry is appended to a log: its index and the state. -/
def State.appendEntry (s : State) (log sec kind seq aux : Nat) : Nat × State :=
  let i := s.logNext log
  let s1 := (s.programNow i (logWord sec kind seq aux)).wr Reg.FLC_ERASE_SEQ_SEQ 0 seq
  (i, s1.wrB Reg.FLC_STATUS_LOG_B 0 (log == 1))

/-- An entry's DONE_N is cleared (R783 step 4). -/
def State.entryDone (s : State) (i : Nat) : State := s.programNow i ((s.fword i).data % 2 ^ 63)

/-- Step 1 of R783: the erase's entry, in the active log; the last word of that log records an erase of the other one, which
then becomes active (R785). -/
def State.logErase (s : State) (sec kind aux : Nat) : Nat × Nat × State :=
  let log := s.activeLog
  let seq := max (s.logMax 0) (s.logMax 1) + 1
  if s.logNext log + 1 = secWord (2 + log) then
    let (i, s1) := s.appendEntry log (2 - log) 1 seq 0
    let s2 := (s1.clearSector (2 - log)).entryDone i
    let (j, s3) := s2.appendEntry (1 - log) sec kind (seq + 1) aux
    (j, seq + 1, s3)
  else
    let (i, s1) := s.appendEntry log sec kind seq aux
    (i, seq, s1)

/-- A sector is erased at once by the boot ROM, under a new entry (R811). -/
def State.eraseNow (s : State) (sec kind aux : Nat) : State :=
  let (i, _, s1) := s.logErase sec kind aux
  (s1.clearSector sec).entryDone i

/-! ### The swap selector (R790 to R795) -/

/-- A swap record as it is read: its number, TWIN, KIND, SEQ, the two bits, whether it is a damaged trial. -/
structure Swap where
  j : Nat
  twin : Nat
  kind : Nat
  seq : Nat
  attemptN : Bool
  confirmN : Bool
  damaged : Bool
deriving DecidableEq, Repr

/-- Record j where it is valid or a damaged trial (R791). -/
def State.swapAt (s : State) (j : Nat) : Option Swap :=
  match s.fval (2 * j + 1) with
  | none => none
  | some w1 =>
    if w1 % 256 ≠ 0xB8 then none
    else
      match (s.fword (2 * j)).read with
      | .torn | .bad _ =>
        some { j := j, twin := bitsOf w1 8 1, kind := 0, seq := bitsOf w1 12 32, attemptN := false, confirmN := bitOf w1 63, damaged := true }
      | .erased => none
      | .good w0 | .corrected w0 _ =>
        if w0 % 256 = 0xB7 ∧ bitsOf w0 8 1 = bitsOf w1 8 1 ∧ bitsOf w0 12 32 = bitsOf w1 12 32 then
          some { j := j, twin := bitsOf w0 8 1, kind := bitsOf w0 9 2, seq := bitsOf w0 12 32, attemptN := bitOf w0 63,
                 confirmN := bitOf w1 63, damaged := false }
        else none

/-- The pairs of SWAP_SEL that are not erased. -/
def State.swapUsed (s : State) : List Nat := ((s.fwords 0 sectorWords).map fun p => p.1 / 2).eraseDups

/-- The record in force (R791). -/
def State.swapInForce (s : State) : Option Swap :=
  (s.swapUsed.filterMap s.swapAt).foldl (fun m r =>
    match m with
    | none => some r
    | some x => if x.seq < r.seq then some r else some x) none

/-- A record is appended at the first pair that is erased (R790). -/
def State.appendSwap (s : State) (twin kind version : Nat) : State :=
  let seq := (match s.swapInForce with | some r => r.seq | none => 0) + 1
  match (upTo 4096).find? fun j => !s.swapUsed.contains j with
  | none => s
  | some j =>
    let base := twin * 2 ^ 8 + seq % 2 ^ 32 * 2 ^ 12
    let s1 := s.programNow (2 * j) (0xB7 + base + kind * 2 ^ 9 + 2 ^ 63)
    s1.programNow (2 * j + 1) (0xB8 + base + version % 2 ^ 16 * 2 ^ 44 + (if kind = 0 then 2 ^ 63 else 0))

/-! ### Erases (R780, R781, R783 to R789) -/

/-- An erase begins (R783 step 1). -/
def State.startErase (s : State) (sec kind aux : Nat) : State :=
  let (i, seq, s1) := s.logErase sec kind aux
  let e : Erase := { sector := sec, kind := kind, seq := seq, entry := i, from_ := s.now }
  (({ s1 with flash := { s1.flash with erase := some e } } : State).wr Reg.FLC_ERASE_SECTOR 0 sec).showFlash

/-- SWAP_SEL may be erased: it is full, and its record in force names no trial that is unconfirmed (R793, R794). -/
def State.swapErasable (s : State) : Bool :=
  (upTo 4096).all s.swapUsed.contains && match s.swapInForce with | some r => r.kind != 0 || !r.confirmN | none => false

/-- FLASH_SECTOR_ERASE: a complete SECTOR_ERASE sequence of controller firmware, which issues none for SWAP_SEL but under R794. One erase
is in progress or suspended at a time. DESIGN CHOICE, assumptions 143 and 144. -/
def execFlashSectorErase (sector : BitVec 12) (s : State) : Res :=
  let sec := sector.toNat
  if !s.fwRuns then .next s
  else if !s.fwSector sec then .next (s.flashResult 3 (sec * 65536))
  else if s.eraseOf sec then .next (s.flashResult 6 0)
  else if s.flash.prog.isSome ∨ s.flash.erase.isSome then .next (s.flashResult 5 0)
  else if sec = 0 ∧ !s.swapErasable then .next s
  else
    let twin := match s.swapInForce with | some r => r.twin | none => 0
    .next (s.startErase sec (if sec = 0 then 2 else 0) (if sec = 0 then twin else 0))

/-- FLASH_SUSPEND: the erase in progress stops between pulses (R787). DESIGN CHOICE, assumption 144. -/
def execFlashSuspend (s : State) : Res :=
  if !s.fwRuns then .next s
  else if s.flash.prog.isSome then .next (s.flashResult 5 0)
  else
    .next ({ s with flash := { s.flash with erase := s.flash.erase.map fun e => { e with suspended := true } } } : State).showFlash

/-- FLASH_RESUME: a suspended erase goes on (R787). -/
def execFlashResume (s : State) : Res :=
  if !s.fwRuns then .next s
  else if s.flash.prog.isSome then .next (s.flashResult 5 0)
  else
    .next ({ s with flash := { s.flash with erase := s.flash.erase.map fun e => { e with suspended := false } } } : State).showFlash

/-- FLASH_READ_ARRAY: a partial sequence ends. A sequence is one command here, so none is ever partial; completed while BUSY is 1
it ends with RESULT BUSY (R778, R780). DESIGN CHOICE, assumption 144. -/
def execFlashReadArray (s : State) : Res :=
  if s.fwRuns ∧ s.flag Reg.FLC_STATUS_BUSY 0 then .next (s.flashResult 5 0) else .next s

/-- FLASH_SEQ_ERROR: a write out of the order of R778 (R779). -/
def execFlashSeqError (s : State) : Res := if s.fwRuns then .next (s.flashResult 4 0) else .next s

/-- A sector whose verify failed moves to a spare (R789). -/
def State.retire (s : State) (sec : Nat) : State :=
  let n := s.rd Reg.FLC_SPARE_LEFT 0
  ((s.wr Reg.FLC_SPARE_LEFT 0 (n - 1)).bump Reg.FLC_SPARE_RETIRED 0 1).raise 0x0B05 [sec, n - 1]

/-- The twin that the latest erase of SWAP_SEL names (R795). -/
def State.auxTwin (s : State) : Option Nat :=
  ((s.logEntries s.activeLog).filter fun p => bitsOf p.2 12 4 == 2).foldl (fun _ p => some (bitsOf p.2 48 1)) none

/-- Once SWAP_SEL is erased, controller firmware appends a SET record for the twin in force (R794). -/
def State.swapErased (s : State) (e : Erase) : State :=
  if e.kind = 2 then
    match s.auxTwin with
    | some t => s.appendSwap t 1 (((s.fval (secWord (twinSector t) + 1)).getD 0) % 2 ^ 32 / 65536)
    | none => s
  else s

/-- FLASH_ERASE_DONE: dt cycles on, the erase ends after a number of pulses; `fails` verifies failed, each moving the sector to a
spare while one is left (R783, R788, R789). DESIGN CHOICE, assumption 146. -/
def execFlashEraseDone (dt pulses fails : Nat) (s : State) : Res :=
  match s.flash.erase with
  | none => .next s
  | some e =>
    if e.suspended then .next s
    else
      let s1 := (s.advance dt).wr Reg.FLC_ERASE_PULSES 0 (min 65535 pulses)
      let left := s1.rd Reg.FLC_SPARE_LEFT 0
      let s2 := (upTo (min fails left)).foldl (fun t _ => t.retire e.sector) s1
      let s3 : State := { s2 with flash := { s2.flash with erase := none } }
      let lost := decide (left < fails)
      let s4 := if lost then
          ({ s3.clearSector e.sector with flash := { (s3.clearSector e.sector).flash with ruined := s3.flash.ruined ++ [e.sector] } } : State).raise
            0x0B06 [e.sector]
        else ((s3.clearSector e.sector).entryDone e.entry).swapErased e
      let s5 := s4.wr Reg.FLC_STATUS_RESULT 0 (if lost then 7 else if 0 < fails then 8 else 0)
      .next (if 360 < pulses then s5.raise 0x0B04 [e.sector, pulses] else s5).showFlash

/-- ERASE_PENDING_LONG: an erase has been pending for PEND_WARN_S seconds (R787). -/
def execErasePendingLong (s : State) : Res :=
  match s.flash.erase with
  | none => .next s
  | some e =>
    if e.warned then .next s
    else
      let n := s.rd1 Reg.FLC_CTRL_PEND_WARN_S 0
      let s1 := s.advanceTo (e.from_ + n * hz)
      .next (({ s1 with flash := { s1.flash with erase := some { e with warned := true } } } : State).raise 0x0B08 [e.sector, n])

/-! ### The boot ROM (R792, R795, R811, R872, R930) -/

/-- The entries of the active log that an interruption left undone, and that no later erase of the sector follows. -/
def State.undone (s : State) : List Nat :=
  let es := (s.logEntries s.activeLog).map Prod.snd
  es.filter fun v => bitOf v 63 && !(es.any fun x => x % 4096 == v % 4096 && bitsOf v 16 32 < bitsOf x 16 32)

/-- An interrupted erase is repeated before any scan (R811). That of SWAP_SEL is completed under R795. -/
def State.repairErase (s : State) (v : Nat) : State :=
  let sec := v % 4096
  let s1 := if bitsOf v 12 4 = 1 then
      let (i, _, t) := s.logErase sec 1 0
      (t.clearSector sec).entryDone i
    else s.eraseNow sec (bitsOf v 12 4) (bitsOf v 48 1)
  s1.raise 0x0B07 [sec, bitsOf v 16 32]

/-- The header fields that R916 fixes. -/
def State.hdrOk (s : State) (twin : Nat) : Bool :=
  let b := secWord (twinSector twin)
  let len := match s.fval (b + 2) with | some w => w % 2 ^ 32 | none => 0
  s.fval b == some 0x0200000158464B56
    && (match s.fval (b + 1) with | some w => w / 2 ^ 32 == 0x8128 | none => false)
    && len % 4096 == 0 && decide (8192 ≤ len) && decide (len ≤ 4194304)

/-- VERSION, HANDOFF and IMAGE_LEN of a twin's header. -/
def State.hdrVersion (s : State) (twin : Nat) : Nat := ((s.fval (secWord (twinSector twin) + 1)).getD 0) % 2 ^ 32
def State.hdrHandoff (s : State) (twin : Nat) : Nat := ((s.fval (secWord (twinSector twin) + 2)).getD 0) / 2 ^ 32
def State.hdrLen (s : State) (twin : Nat) : Nat := ((s.fval (secWord (twinSector twin) + 2)).getD 0) % 2 ^ 32

/-- The outcome of the check of R916 at a start. An image that the array held before the run is known by what is found of it
alone; of one that was downloaded, the header is read from the array. DESIGN CHOICE, assumption 153. -/
def State.imgCheck (s : State) (twin : Nat) (o : Option ImgObs) : Option ImgObs :=
  match o with
  | none => none
  | some x =>
    if s.fErased (secWord (twinSector twin)) then some x
    else if s.hdrOk twin then some { version := s.hdrVersion twin, handoff := s.hdrHandoff twin }
    else none

/-- An image starts, and controller firmware drives its pins (R792, R932, R942). DESIGN CHOICE, assumption 237. Its version is shown at FW_READY, or when KILN ends (R45, R926). -/
def State.startImage (s : State) (twin : Nat) (trial fell : Bool) (x : ImgObs) : State :=
  let s1 := ((s.wr Reg.GCTL_BOOT_ACTIVE_TWIN 0 twin).wrB Reg.GCTL_BOOT_TRIAL 0 trial).wrB Reg.GCTL_BOOT_FELL_BACK 0 fell
  { s1 with pw := { s1.pw with driven := true }
            firm := { s1.firm with booting := false, version := x.version, handoff := x.handoff, healthFrom := none,
                                   trialAt := if trial then some s.now else none, logged := false } }

/-- The chosen twin is checked; when it fails, the other one is named by a FALLBACK record and checked; when both fail the
controller enters CINDER (R930). -/
def State.checkAndStart (s : State) (twin : Nat) (trial fell : Bool) (a b : Option ImgObs) : State :=
  let obs := fun (t : Nat) => if t = 0 then a else b
  match s.imgCheck twin (obs twin) with
  | some x => s.startImage twin trial fell x
  | none =>
    let o := 1 - twin
    let s1 := (s.appendSwap o 2 (s.hdrVersion o / 65536)).raise 0x0E06 [o, 1]
    match s1.imgCheck o (obs o) with
    | some x => s1.startImage o false true x
    | none =>
      let s2 := s1.raise 0x0E07 []
      ({ s2 with firm := { s2.firm with booting := false } } : State).cinder cBoot

/-- BOOT_SELECT: the boot ROM repairs interrupted erases, chooses a twin, checks it and starts it (R792, R795, R811, R872, R930);
`a` and `b` say what the check finds of the two twins. DESIGN CHOICE, assumption 153. -/
def execBootSelect (a b : Option ImgObs) (s : State) : Res :=
  if !s.firm.booting ∨ s.pw.pfAt.isSome ∨ s.pw.porst ∨ !(s.mode = mKindling ∨ s.mode = mKiln) then .next s
  else
    let s0 := if s.flash.erase.isSome then s else (s.undone.filter fun v => bitsOf v 12 4 != 2).foldl State.repairErase s
    let s1 := (s0.scanRange 0 (secWord 3)).wrB Reg.FLC_STATUS_LOG_B 0 (s0.activeLog == 1)
    match s1.swapInForce with
    | none =>
      match s1.auxTwin with
      | some t =>
        let s2 := (s1.undone.filter fun v => bitsOf v 12 4 == 2).foldl State.repairErase s1
        .next ((s2.appendSwap t 1 (s2.hdrVersion t / 65536)).checkAndStart t false false a b)
      | none => .next ((s1.appendSwap 0 1 (s1.hdrVersion 0 / 65536)).checkAndStart 0 false false a b)
    | some r =>
      if r.kind ≠ 0 ∨ !r.confirmN then .next (s1.checkAndStart r.twin false false a b)
      else if r.attemptN ∧ !r.damaged then
        .next ((s1.programNow (2 * r.j) ((s1.fword (2 * r.j)).data % 2 ^ 63)).checkAndStart r.twin true false a b)
      else
        let o := 1 - r.twin
        .next (((s1.appendSwap o 2 (s1.hdrVersion o / 65536)).raise 0x0E06 [o, 0]).checkAndStart o false true a b)

/-! ### Replay (R796, R797, R803 to R805, R807, R812) -/

/-- The indices of the records of a sector's words: each with the number of words it takes. -/
def State.recordsIn (s : State) (sec : Nat) : List (Nat × Nat) :=
  (s.fwords (secWord sec + 1) (secWord (sec + 1))).filterMap fun p =>
    match s.fval p.1 with
    | none => none
    | some v =>
      let t := v % 16
      if t = 1 ∨ t = 2 ∨ t = 3 then some (p.1, 1)
      else if 8 ≤ t ∧ t ≤ 11 ∧ !bitOf v 63 ∧ ([1, 2, 3].all fun k => (s.fval (p.1 + k)).isSome) then some (p.1, 4)
      else none

/-- The words that lie inside a multi-word record name no record of their own. -/
def dropInner : Nat → List (Nat × Nat) → List (Nat × Nat)
  | _, [] => []
  | from_, (i, n) :: r => if i < from_ then dropInner from_ r else (i, n) :: dropInner (i + n) r

/-- A transfer that was open when its record was written, to be resolved once the picker has homed (R525, R803). -/
def noteTransfer (id : Nat) (x : List Nat) : Transfer :=
  { id := id, disc := x.getD 0 0 * 4096 + x.getD 1 0, src := x.getD 2 0, srcCell := x.getD 3 0, dst := x.getD 4 0, dstCell := x.getD 5 0,
    picker := some (x.getD 6 0), step := if x.getD 7 0 = 2 then 6 else 2 }

/-- One record applied (R800 to R807). -/
def State.applyRecord (s : State) (i : Nat) : State :=
  match s.fval i with
  | none => s
  | some v =>
    let note := mfind s.flash.notes i
    let x := match note with | some p => p.2 | none => []
    let d := x.getD 0 0 * 4096 + x.getD 1 0
    match v % 16 with
    | 1 => s.mergeWord v
    | 2 => s.mergeWord v
    | 8 => if note.isNone then s else s.putDisc d { s.disc d with known := true, discId := x.getD 2 0, owner := x.getD 3 0xFFFF }
    | 9 =>
      if note.isNone then s
      else
        let rest := s.lib.records.filter fun t => t.disc != d
        let t := noteTransfer s.lib.nextId x
        if x.getD 7 0 = 3 then
          let loc := x.getD 4 0
          let l : DiscLoc := if locKind loc = 1 then (if x.getD 5 0 = s.cell then .station (locIndex loc) else .other (x.getD 5 0) (locIndex loc)) else .home
          ({ s with lib := { s.lib with records := rest } } : State).putDisc d { s.disc d with loc := l }
        else { s with lib := { s.lib with records := rest ++ [t], nextId := s.lib.nextId + 1 } }
    | 10 =>
      if note.isNone then s
      else
        let y := s.disc d
        let sd := y.side (x.getD 2 0)
        let sd1 := if x.getD 3 0 = 0 then { sd with idxA := max sd.idxA (x.getD 4 0 + 1) } else { sd with idxB := max sd.idxB (x.getD 4 0 + 1) }
        s.putDisc d (y.setSide (x.getD 2 0) { sd1 with seqNo := max sd.seqNo (x.getD 5 0) })
    | 11 =>
      let w := (s.fval (i + 1)).getD 0
      if bitOf ((s.fval (i + 3)).getD 0) 63 then
        { s with stack := { s.stack with proxies := s.stack.proxies ++ [{ cell := bitsOf w 4 3, word := w }] } }
      else s
    | _ => s

/-- The snapshot of a home slot with the highest SNAP_SEQ. -/
def State.snapOf (s : State) (slot : Nat) : Option (List Nat) :=
  ((s.flash.words.filter fun p => decide (secWord 612 ≤ p.1)).filterMap fun p => s.snapAt p.1).foldl (fun m ws =>
    let v := ws.headD 0
    if bitsOf v 4 12 ≠ slot then m
    else
      match m with
      | none => some ws
      | some o => if bitsOf (o.headD 0) 19 32 < bitsOf v 19 32 then some ws else some o) none

/-- The zone entries of a snapshot, each with its slips taken in order from the packed offsets. -/
def snapZones : List Nat → List Nat → List (Nat × Nat × List Nat)
  | [], _ => []
  | e :: r, offs =>
    let n := bitsOf e 27 8
    (bitsOf e 0 11, e, offs.take n) :: snapZones r (offs.drop n)

/-- A snapshot becomes the catalogue state of its disc. -/
def State.applySnap (s : State) (ws : List Nat) : State :=
  let v := ws.headD 0
  let d := bitsOf v 16 3 * 4096 + bitsOf v 4 12
  let w2_ := ws.getD 2 0
  let w3 := ws.getD 3 0
  let nz := bitsOf (ws.getD 5 0) 0 12
  let offs := ((ws.drop (6 + nz)).dropLast).flatMap fun w => (upTo 4).map fun k => bitsOf w (16 * k) 16
  let loc := bitsOf w2_ 16 16
  let cell := bitsOf w2_ 32 3
  let l : DiscLoc := match locKind loc with
    | 1 => if cell = s.cell then .station (locIndex loc) else .other cell (locIndex loc)
    | 2 => .picker (locIndex loc)
    | _ => .home
  let x : Disc := { known := ws.getD 1 0 != 0, discId := ws.getD 1 0, owner := bitsOf w2_ 0 16, loc := l,
                    a := { identity := ws.getD 1 0 != 0, finalised := bitOf v 52, seqNo := w3 % 2 ^ 32 },
                    b := { identity := ws.getD 1 0 != 0, finalised := bitOf v 53, seqNo := w3 / 2 ^ 32 } }
  (snapZones ((ws.drop 6).take nz) offs).foldl (fun t z =>
    let f := bitsOf z.2.1 13 13
    t.putZone (d * 2048 + z.1)
      { state := ZState.ofCode (bitsOf z.2.1 11 2), frontier := bitsOf z.2.1 35 14, slips := z.2.2, frames := f, acc := f, jframes := f, jdue := f })
    (s.putDisc d x)

/-- A journal position lies after the one a snapshot includes. -/
def afterPos (pos seq idx : Nat) : Bool := decide (bitsOf pos 0 32 < seq) || (bitsOf pos 0 32 == seq && decide (bitsOf pos 32 13 < idx))

/-- The disc that a record speaks of. -/
def State.recordDisc (s : State) (i : Nat) : Option Nat :=
  match s.fval i with
  | none => none
  | some v =>
    if v % 16 = 1 ∨ v % 16 = 2 then some (zoneDisc (wordZone v))
    else match mfind s.flash.notes i with
      | some (_, x) => some (x.getD 0 0 * 4096 + x.getD 1 0)
      | none => none

/-- JOURNAL_POS of a disc's snapshot in force; 0 where it has none. -/
def State.snapPos (s : State) (d : Nat) : Nat :=
  if d / 4096 ≠ s.cell then 0 else match s.snapOf (d % 4096) with | some ws => ws.getD 4 0 | none => 0

/-- A ZONE_PTR or SLIP whose DISC_TAG is not that of the disc of its home slot: an earlier disc left it (R801). -/
def State.foreignTag (s : State) (i : Nat) : Bool :=
  match s.fval i with
  | some v => (v % 16 == 1 || v % 16 == 2) && bitsOf v 55 9 != (s.disc (zoneDisc (wordZone v))).discId % 512
  | none => false

/-- JOURNAL_REPLAY: the snapshots in force, then the journal's records after each one's JOURNAL_POS, in order (R805, R807, R812);
a PF_END is reported (R810, R813). -/
def execJournalReplay (s : State) : Res :=
  if s.firm.booting ∨ s.flash.replayed ∨ !s.fwRuns ∨ s.flash.erase.isSome then .next s
  else
    let s0 := (s.scanRange (secWord 132) (secWord 228)).scanRange (secWord 356) (secWord 4096)
    let slots := ((s0.flash.words.filter fun p => decide (secWord 612 ≤ p.1)).filterMap fun p =>
      (s0.snapAt p.1).map fun ws => bitsOf (ws.headD 0) 4 12).eraseDups
    let s1 := slots.foldl (fun t k => match t.snapOf k with | some ws => t.applySnap ws | none => t) s0
    let recs := (s1.ringSectors 356 612).flatMap fun q => (dropInner 0 (s1.recordsIn q.2)).map fun r => (q.1, r.1)
    let live := recs.filter fun r =>
      match s1.recordDisc r.2 with
      | some d => afterPos (s1.snapPos d) r.1 (r.2 % sectorWords)
      | none => true
    let (s2, n) := live.foldl (fun (t : State × Nat) r => (t.1.applyRecord r.2, t.2 + if t.1.foreignTag r.2 then 0 else 1)) (s1, 0)
    let zs := (live.filterMap fun r => (s1.fval r.2).bind fun v => if v % 16 = 1 ∨ v % 16 = 2 then some (wordZone v) else none).eraseDups.filter
      fun zk => s2.zone zk != s1.zone zk
    let s3 : State := { s2 with flash := { s2.flash with replayed := true },
                                zones := s2.zones.map fun z => (z.1, { z.2 with jframes := z.2.frames, jdue := z.2.frames }) }
    let s4 := s3.raise 0x0B09 [n, zs.length]
    match recs.getLast? with
    | some r =>
      let v := (s1.fval r.2).getD 0
      .next (if v % 16 = 3 then s4.raise 0x0B0C [bitsOf v 4 8, bitsOf v 12 32] else s4)
    | none => .next s4

/-! ### Reclaim (R798, R806) -/

/-- JOURNAL_RECLAIM: with fewer than 8 erased journal sectors, snapshots of the discs whose live records lie in the oldest one,
and proxy records not yet acknowledged, become due; once they are written the sector is erased. -/
def execJournalReclaim (s : State) : Res :=
  let used := ((s.flash.words.filter fun p => decide (secWord 356 ≤ p.1) && decide (p.1 < secWord 612)).map fun p => p.1 / sectorWords).eraseDups
  if !s.fwRuns ∨ 256 < used.length + 8 then
    match s.ringSectors 356 612 with
    | [] => .next s
    | (seq, sec) :: later =>
      if !s.fwRuns ∨ s.flash.prog.isSome ∨ s.flash.erase.isSome then .next s
      else
        let recs := dropInner 0 (s.recordsIn sec)
        let own := (recs.filterMap fun r => (s.recordDisc r.1).bind fun d =>
          if d / 4096 = s.cell ∧ afterPos (s.snapPos d) seq (r.1 % sectorWords) then some d else none).eraseDups
        let asked := fun (d : Nat) => s.jq.any fun x => x.type == 7 && x.info.getD 1 0 == d % 4096
        let prox := recs.filterMap fun r =>
          if ((s.fval r.1).getD 0) % 16 = 11 ∧ bitOf ((s.fval (r.1 + 3)).getD 0) 63 then s.fval (r.1 + 1) else none
        let again := later.flatMap fun q => (dropInner 0 (s.recordsIn q.2)).filterMap fun r =>
          if ((s.fval r.1).getD 0) % 16 = 11 then s.fval (r.1 + 1) else none
        let kept := prox.filter fun w => (s.stack.proxies.any fun p => p.word == w) && !again.contains w
        let due := kept.filter fun w => !s.jq.any fun x => x.type == 11 && x.info == [w]
        if own.isEmpty ∧ kept.isEmpty then .next (s.startErase sec 0 0)
        else
          let s1 := (own.filter fun d => !asked d).foldl (fun t d => t.snapshot d false) s
          .next (due.foldl (fun t w => t.journal { words := [], type := 11, info := [w] }) s1)
  else .next s

/-! ### The frontier search at a mount (R809) -/

/-- FRONTIER_SEARCH: an OPEN zone that its mount left to be searched (R809): slots accepted or slipped, the result journalled.
DESIGN CHOICE, assumption 58. -/
def execFrontierSearch (d : Nat) (side : Fin 2) (layer : Fin 16) (zone : Fin 64) (found : List SlotRead) (s : State) : Res :=
  let zk := zoneKey d side layer zone
  if !(s.zone zk).resolve ∨ (s.zone zk).state ≠ .open_ then .next s else .next (s.searchZone zk found).settle

end Sys2Proof.Machine
end

