-- ==== Sys2Proof/Machine/Tally.lean ====
section
/-!
DEFINITION. The tally: its start, minute boundaries, samples and taps, its records and their store, the close at a power failure,
the seal (R815 to R853).
-/

namespace Sys2Proof.Machine

/-! ### What the window shows (R841, R853) -/

/-- STORE_LOW follows the records held above ACKED; TALLY_STORE_LOW is raised on its change to 1 (R841). -/
def State.showStore (s : State) : State :=
  let n := (s.tallyRecords.filter fun x => decide (s.rd Reg.TALLY_ACKED_SEQ 0 < recSeq x.2)).length
  let low := decide (98304 < n)
  let s1 := s.wrB Reg.TALLY_STATUS_STORE_LOW 0 low
  if low && !s.flag Reg.TALLY_STATUS_STORE_LOW 0 then s1.raise 0x0C05 [n] else s1

/-! ### Checks and start (R819, R845) -/

/-- The checks of R819 and what a failure does. -/
def State.tallyChecks (s : State) (romOk katOk : Bool) : State :=
  let s1 := (s.wrB Reg.TALLY_STATUS_ROM_OK 0 romOk).wrB Reg.TALLY_STATUS_KAT_OK 0 katOk
  if romOk && katOk then s1
  else ((s1.set1 Reg.TALLY_STATUS_FAULT 0).raise 0x0C01 [if romOk then 2 else 1]).cinder cTally

/-- The greatest UP_TO of the ACK records held; without one, the SEQ of the oldest record less 1. -/
def State.ackedSeq (s : State) : Nat :=
  let acks := (s.tallyRecords.filter fun x => recType x.2 == 5).map fun x => bitsOf (x.2.getD 3 0) 0 48
  if acks.isEmpty then s.oldestSeq - 1 else acks.foldl max 0

/-- TALLY_START: the checks, the scan of the store, ACKED, and the START record (R819, R845). A slot that is programmed in part and holds
no record counts as abandoned, so that its sector can be erased (R837, R838). DESIGN CHOICE, assumption 236. -/
def execTallyStart (romOk katOk : Bool) (s : State) : Res :=
  if s.pw.porst ∨ s.flag Reg.TALLY_STATUS_RUNNING 0 ∨ s.flag Reg.TALLY_STATUS_FAULT 0 then .next s
  else
    let s1 := s.tallyChecks romOk katOk
    if !(romOk && katOk) then .next s1
    else
      let newest := s1.newestRecord
      let loss := match newest with | some x => recType x.2 != 4 | none => false
      let prevEnd := match newest with | some x => bitsOf (x.2.getD 2 0) 32 32 | none => 0
      let body := ((if loss then 1 else 0) + (if newest.isNone then 2 else 0)) :: bytesLE 6 s1.newestSeq
      let s2 := (s1.wr Reg.TALLY_ACKED_SEQ 0 s1.ackedSeq).set1 Reg.TALLY_STATUS_RUNNING 0
      let broken := s2.usedSlots.filter fun i => (s2.tallyRecord i).isNone
      let s3 : State := { s2 with tally := { s2.tally with taps := [], abandoned := broken } }
      .next (((s3.openInterval s3.tb.sec).tallyDue 3 prevEnd s3.tb.sec body).showStore)

/-! ### Counting (R820 to R827) -/

/-- TALLY_MINUTE_BOUNDARY: the next minute boundary, which an earlier command may have passed already; `lost` are the accounts and
counters that neither copy of the SRAM holds. -/
def execTallyMinuteBoundary (lost : List (BitVec 12 × Fin 4)) (s : State) : Res :=
  let late := timeDiff s.lin (s.tally.next % linMod)
  let s1 := if late < 0 then s.advance (-late).toNat else s
  if s.tallyOn then .next (s1.crossBoundary (lost.map fun p => (p.1.toNat, p.2.val))) else .next s1

/-- The oldest of some commands. -/
def oldestCmd (l : List Cmd) : Option Cmd :=
  l.foldl (fun m c =>
    match m with
    | none => some c
    | some x => if c.ord < x.ord then some c else some x) none

/-- The heads that a data command's range lies on. -/
def State.cmdHeads (s : State) (c : Cmd) : List Nat :=
  let a := (c.frameAt 0).1
  let b := (c.frameAt (c.frameCount - 1)).1
  s.headsOf ((upTo (b + 1 - a)).map (a + ·))

/-- A MOUNT or UNMOUNT that this cell runs has passed step 1 of R518 and has not completed. DESIGN CHOICE, assumption 161. -/
def State.moves (s : State) (c : Cmd) : Bool :=
  (c.op == opMount || c.op == opUnmount) && c.phase == .started && c.away.isNone
    && (s.transferred c || (c.op == opMount && !(s.lib.transfers.any fun t => t.cmd == some (c.sq, c.tag))))

/-- The accounts that a sample charges one station-millisecond each (R822). DESIGN CHOICE, assumption 161. -/
def State.sampled (s : State) : List Nat :=
  let data := s.cmds.filter fun c => c.isData && c.launched && c.phase == .started && c.away.isNone
  let heads := (upTo 256).filterMap fun h => (oldestCmd (data.filter fun c => (s.cmdHeads c).contains h)).map Cmd.acct
  heads ++ (s.cmds.filter s.moves).map Cmd.acct

/-- TALLY_MS_SAMPLE: the next T that is a multiple of 1,500,000 (R822). -/
def execTallyMsSample (s : State) : Res :=
  let s1 := s.advanceMod msCycles
  if !s1.tallyOn ∨ s1.tally.pfClosed then .next s1
  else
    let s2 := s1.passBoundaries
    .next (s2.sampled.foldl (fun t a => t.countOpen a 3 1 false) s2)

/-- TALLY_TAP_EVENT: the oldest tap event reaches its counter; or, while the seal fuse is intact, the test port injects a count
(R821, R823, R824, R849). DESIGN CHOICE, assumption 158. -/
def execTallyTapEvent (test : Option (BitVec 12 × Fin 4 × Nat)) (s : State) : Res :=
  match test with
  | some (a, i, n) =>
    if s.sealed ∨ !s.tallyOn ∨ s.tally.pfClosed then .next s
    else .next ((s.passBoundaries.countOpen a.toNat i n true).set1 Reg.TALLY_STATUS_TEST_EN 0)
  | none =>
    match s.tally.taps with
    | [] => .next s
    | x :: r =>
      let s1 := if s.tallyOn then s.passBoundaries else s
      if s1.tally.taps ≠ x :: r then .next s1
      else
        let s2 : State := { s1 with tally := { s1.tally with taps := r } }
        if !s.tallyOn ∨ s.tally.pfClosed then .next s2 else .next (s2.countOpen x.1 x.2.1 x.2.2.1 false)

/-! ### Records (R830 to R840) -/

/-- The 48 bytes of a record before its tag, with COMMIT_N 0. -/
def recordBytes (type acct cell : Nat) (isSealed : Bool) (flags minutes seq start end_ : Nat) (body : List Nat) : List Nat :=
  let w0 := type + acct * 2 ^ 4 + cell * 2 ^ 16 + (if isSealed then 2 ^ 19 else 0) + flags * 2 ^ 20 + minutes * 2 ^ 32
  bytesLE 8 w0 ++ bytesLE 6 seq ++ [0, 0] ++ bytesLE 4 start ++ bytesLE 4 end_ ++ padBytes 24 body

/-- The tag of a record's 48 bytes (R834). DESIGN CHOICE, assumption 159. -/
def recordTag (bytes : List Nat) : List Nat :=
  cmacOdd ((bytesLE 16 Config.deviceKey.toNat).reverse) (bytesLE 8 Config.serial.toNat ++ bytes)

/-- What is programmed next, R839, R840, R842: a closing slot of an account, a record due by its place in the list, or the record of
the ACK that has waited longest. -/
inductive TNext where
  | slot (acct : Nat) (c : Closing)
  | other (i : Nat) (r : TRec)
  | ack (upTo : Nat)
deriving DecidableEq, Repr

/-- The POWER_FAIL records in ascending account, then PF_DONE; else, outside BANKED, the first due of the other records, an ACK,
or the first closing slot, that R839 admits. DESIGN CHOICE, assumption 155. -/
def State.tallyNext (s : State) : Option TNext :=
  let f := s.tallyFree
  let done := (s.tally.due.zipIdx.find? fun p => p.1.type == 4).map fun p => TNext.other p.2 p.1
  match s.tally.closing.find? fun p => p.2.pf with
  | some p => if 0 < f then some (.slot p.1 p.2) else none
  | none =>
    if done.isSome then (if 0 < f then done else none)
    else if s.mode = mBanked then none
    else
      match s.tally.due with
      | r :: _ => if 4160 < f then some (.other 0 r) else
          match s.tally.acks with
          | a :: _ => if 4097 < f then some (.ack a.2.2) else none
          | [] => none
      | [] =>
        match s.tally.acks with
        | a :: _ => if 4097 < f then some (.ack a.2.2) else none
        | [] => if 5120 < f then s.closingOrder.head?.map fun p => .slot p.1 p.2 else none

/-- A record due as it is written now: its times and body where these stand for the write itself (R832). -/
def State.atWrite (s : State) (r : TRec) : TRec :=
  let sec := s.tb.sec
  match r.type with
  | 4 => { r with body := bytesLE 2 s.tally.pfCount }
  | 6 => { r with start := sec, end_ := sec, cell := s.cell, isSealed := s.sealed }
  | 7 =>
    let bit := fun (f : Fld) (k : Nat) => if s.flag f 0 then 2 ^ k else 0
    { r with
      start := sec, end_ := sec, cell := s.cell, isSealed := s.sealed
      body := bytesLE 6 s.newestSeq ++ bytesLE 6 (s.rd Reg.TALLY_ACKED_SEQ 0)
        ++ bytesLE 4 (s.rd Reg.TALLY_ID_FAMILY 0 * 65536 + s.rd Reg.TALLY_ID_ROM_VER 0) ++ bytesLE 3 s.tallyFree
        ++ [bit Reg.TALLY_STATUS_ROM_OK 0 + bit Reg.TALLY_STATUS_KAT_OK 1 + (if s.sealed then 4 else 0) + bit Reg.TALLY_STATUS_TEST_EN 3]
        ++ bytesLE 4 s.tb.tick }
  | _ => r

/-- The bytes of what is programmed next, under a SEQ. -/
def State.nextBytes (s : State) (seq : Nat) : TNext → List Nat
  | .slot a c =>
    recordBytes 1 a c.cell c.isSealed (c.flags ||| (if 1 < c.minutes then flCarried else 0) ||| (if c.pf then flPf else 0)) c.minutes seq c.start
      c.end_ (bytesLE 6 (c.counts.getD 0 0) ++ bytesLE 6 (c.counts.getD 1 0) ++ bytesLE 7 (c.counts.getD 2 0) ++ bytesLE 5 (c.counts.getD 3 0))
  | .other _ r => let x := s.atWrite r; recordBytes x.type 0 x.cell x.isSealed 0 0 seq x.start x.end_ x.body
  | .ack u => recordBytes 5 0 s.cell s.sealed 0 0 seq s.tb.sec s.tb.sec (bytesLE 6 u)

/-- The tally has written its PF_DONE (or had nothing to do): with PWRFAIL_N high again it counts on (R844). -/
def State.pfOver (s : State) : State :=
  if s.tally.pfClosed && !(s.tally.closing.any fun p => p.2.pf) && !(s.tally.due.any fun r => r.type == 4) then
    let s1 := s.clr Reg.TALLY_STATUS_PF_ACTIVE 0
    if s.pw.pfAt.isNone then { s1 with tally := { s1.tally with pfAt := none, pfClosed := false, taps := [] } } else s1
  else s

/-- ACKED becomes UP_TO, and the TALLY_ACKs that it covers complete (R848). -/
def State.acked (s : State) (u : Nat) : State :=
  let a := max u (s.rd Reg.TALLY_ACKED_SEQ 0)
  let s1 := s.wr Reg.TALLY_ACKED_SEQ 0 a
  let go := s1.tally.acks.filter fun x => decide (x.2.2 ≤ a)
  let s2 : State := { s1 with tally := { s1.tally with acks := s1.tally.acks.filter fun x => !decide (x.2.2 ≤ a) } }
  (go.foldl (fun t x => t.fail x.1 x.2.1 stSuccess) s2).showStore

/-- A record is committed. -/
def State.recordDone (s : State) (x : TNext) (seq : Nat) : State :=
  match x with
  | .slot a c =>
    ({ s with tally := { s.tally with closing := mdel s.tally.closing a,
                                      pfCount := if c.pf then s.tally.pfCount + 1 else s.tally.pfCount } } : State).showStore.pfOver
  | .other i r =>
    let s1 : State := { s with tally := { s.tally with due := s.tally.due.eraseIdx i } }
    let s2 := match r.type with
      | 3 => if r.body.headD 0 % 2 = 1 then s1.raise 0x0C07 (w2 seq) else s1
      | 6 => s1.raise 0x0C08 [1]
      | 7 => s1.raise 0x0C0A (w2 seq)
      | _ => s1
    s2.showStore.pfOver
  | .ack u => s.acked u

/-- The programs of a record: word 0 with COMMIT_N, words 1 to 7, word 0 again with COMMIT_N 0 (R797). -/
def recordPrograms (slot : Nat) (words : List Nat) : List (Nat × Nat) :=
  let w0 := words.headD 0
  (tallyWord slot, w0 + 2 ^ 63) :: (words.zipIdx.drop 1).map (fun p => (tallyWord slot + p.2, p.1)) ++ [(tallyWord slot, w0)]

/-- TALLY_RECORD_PROGRAM: the next record that R839 admits is programmed in the next erased slot. `bad` names the program whose
word does not read back as programmed, if any: the slot is abandoned there, and what that word now holds is free (R833, R837).
DESIGN CHOICE, assumption 157. -/
def execTallyRecordProgram (bad : Option (Fin 9)) (s : State) : Res :=
  if !s.tallyOn then .next s
  else
    match s.tallyNext with
    | none => .next s
    | some x =>
      let slot := s.nextSlot
      let seq := s.newestSeq + 1
      let bytes := s.nextBytes seq x
      let all := bytes ++ recordTag bytes
      let progs := recordPrograms slot ((upTo 8).map fun k => ofBytesLE ((all.drop (8 * k)).take 8))
      let s0 : State := { s with tally := { s.tally with abandoned := s.tally.abandoned.filter (· != slot) } }
      match bad with
      | none => .next ((progs.foldl (fun t p => t.programNow p.1 p.2) s0).recordDone x seq)
      | some k =>
        let s1 := (progs.take (k + 1)).foldl (fun t p => t.programNow p.1 p.2) s0
        let i := (progs.getD k (0, 0)).1
        let (v, s2) := s1.draw 64
        let s3 : State := { s2 with flash := { s2.flash with words := mput s2.flash.words i { s2.fword i with data := v } },
                                    tally := { s2.tally with abandoned := s2.tally.abandoned ++ [slot] } }
        .next ((s3.bump Reg.TALLY_COUNT_ABANDONED 0 1).raise 0x0C06 [slot])

/-- A sector of TALLY is used up and acknowledged: each of its slots holds a record of a SEQ up to ACKED, or was abandoned (R838). -/
def State.sectorSpent (s : State) (used : List Nat) (sec : Nat) : Bool :=
  let mine := used.filter fun i => i / 1024 == sec
  mine.length == 1024 && mine.all fun i =>
    match s.tallyRecord i with
    | some r => decide (recSeq r ≤ s.rd Reg.TALLY_ACKED_SEQ 0)
    | none => s.tally.abandoned.contains i

/-- TALLY_SECTOR_ERASE: the oldest sector that is spent begins its erase, through the erase log, when no other is in progress. -/
def execTallySectorErase (s : State) : Res :=
  if !s.tallyOn ∨ s.flash.erase.isSome ∨ s.pw.pfAt.isSome then .next s
  else
    let used := s.usedSlots
    let from_ := (match s.newestRecord with | some x => x.1 / 1024 | none => 0) + 1
    match ((upTo 128).map fun k => (from_ + k) % 128).find? fun sec => s.sectorSpent used sec with
    | none => .next s
    | some sec => .next (s.startErase (228 + sec) 0 0)

/-! ### Power failure (R842 to R844) -/

/-- TALLY_PF_CLOSE: 10 ms after PWRFAIL_N asserted, or when VDD_CORE is found low `low` cycles from now, every interval closes;
the records become due. In BANKED VDD_CORE is gated and only the first counts. DESIGN CHOICE, assumption 162. -/
def execTallyPfClose (low : Option Nat) (s : State) : Res :=
  match s.tally.pfAt with
  | none => .next s
  | some t0 =>
    if s.tally.pfClosed ∨ !s.tallyOn then .next s
    else
      let due := t0 + 10 * msCycles
      let at_ := match low with | some dt => if s.mode = mBanked then due else min due (s.now + dt) | none => due
      let s1 := (s.advanceTo at_).passBoundaries
      let sec := s1.tb.sec
      let start := s1.rd Reg.TALLY_OPEN_START_SEC 0
      let s2 := (s1.takeTaps (s1.now + 1)).closeAll sec []
      let s3 := (s2.openInterval sec).tallyDue 4 start sec []
      let mark := fun (p : Nat × Closing) => (p.1, { p.2 with pf := true, end_ := sec })
      let s4 : State := { s3 with tally := { s3.tally with closing := s3.tally.closing.map mark, pfClosed := true, pfCount := 0 } }
      .next (s4.set1 Reg.TALLY_STATUS_PF_ACTIVE 0)

/-! ### The seal (R849, R850) -/

/-- The seal pin has been high for 2 s in VERIFY: the fuse is blown and read back, at most twice; `ok` are the readbacks. -/
def State.blowSeal (s : State) (ok1 ok2 : Bool) : State :=
  let s1 : State := { s with tally := { s.tally with sealFrom := none } }
  if ok1 || ok2 then
    let s2 : State := { s1 with sealed := true }
    ((s2.clr Reg.TALLY_STATUS_TEST_EN 0).raise 0x0C08 [0]).tallyDue 6 0 0 []
  else s1.raise 0x0C09 [0]

/-- The pin's 2 s are counted while it is high in VERIFY. -/
def State.watchSeal (s : State) : State :=
  let on := s.flag Reg.TALLY_STATUS_SEAL_REQ 0 && s.mode == mVerify && !s.sealed && s.tallyOn
  { s with tally := { s.tally with sealFrom := if on then some (s.tally.sealFrom.getD s.now) else none } }

/-- TALLY_SEAL: dt cycles on, TALLY_SEAL_REQ takes a level; when it had been high for 2 s in VERIFY the fuse is blown at that moment. -/
def execTallySeal (dt : Nat) (level : Bool) (ok1 ok2 : Bool) (s : State) : Res :=
  let s0 := s.watchSeal
  let s1 := match s0.tally.sealFrom with
    | some t => if t + 2 * hz ≤ s0.now + dt then
        let due := max s0.now (t + 2 * hz)
        ((s0.advanceTo due).passBoundaries.blowSeal ok1 ok2).advance (s0.now + dt - due)
      else s0.advance dt
    | none => s0.advance dt
  .next (s1.wrB Reg.TALLY_STATUS_SEAL_REQ 0 level).watchSeal

/-! ### VERIFY (R851) -/

/-- On entry to VERIFY the checks are repeated and an ATTEST record becomes due. -/
def State.attest (s : State) (romOk katOk : Bool) : State :=
  if !s.tallyOn then s
  else
    let s1 := s.tallyChecks romOk katOk
    if romOk && katOk then (s1.tallyDue 7 0 0 []).watchSeal else s1

end Sys2Proof.Machine
end

