-- ==== Sys2Proof/Machine/Power.lean ====
section
/-!
DEFINITION. Power failure, resets, modes and their transitions, temperature, the power cap, the watchdog, and the event log
(R12 to R19, R46 to R48, R810, R854 to R892, R947, R962).
-/

namespace Sys2Proof.Machine

/-! ### Rings of sectors (R796, R797) -/

/-- A sector of the array is erased and may be opened. -/
def State.sectorBlank (s : State) (sec : Nat) : Bool :=
  (s.fwords (secWord sec) (secWord (sec + 1))).isEmpty && !s.flash.ruined.contains sec && !s.eraseOf sec

/-- The first erased word behind the records of a sector. -/
def State.sectorEnd (s : State) (sec : Nat) : Nat :=
  (s.fwords (secWord sec) (secWord (sec + 1))).foldl (fun m p => max m (p.1 + 1)) (secWord sec)

/-- The sector after the newest one of a ring, the first of the ring when none is in use. -/
def State.ringNext (s : State) (lo hi : Nat) : Nat :=
  match (s.ringSectors lo hi).getLast? with
  | none => lo
  | some x => if x.2 + 1 < hi then x.2 + 1 else lo

/-- Where a record of n words goes in a ring of sectors: behind the last one, or in a sector that is opened for it; none while the
sector to be opened is not erased. The partition code of a header is not given: a free value. DESIGN CHOICE, assumption 150. -/
def State.ringPlace (s : State) (lo hi n : Nat) : Option (Nat × State) :=
  let last := (s.ringSectors lo hi).getLast?
  let here := match last with
    | some x => if s.sectorEnd x.2 + n ≤ secWord (x.2 + 1) then some (s.sectorEnd x.2) else none
    | none => none
  match here with
  | some i => some (i, s)
  | none =>
    let sec := s.ringNext lo hi
    if !s.sectorBlank sec then none
    else
      let seq := match last with | some x => x.1 + 1 | none => 1
      let (code, s1) := s.draw 4
      some (secWord sec + 1, s1.programNow (secWord sec) (0x5AC7 + code * 2 ^ 16 + seq % 2 ^ 32 * 2 ^ 24))

/-- Words are programmed from an index on. -/
def State.programList (s : State) : Nat → List Nat → State
  | _, [] => s
  | i, w :: r => (s.programNow i w).programList (i + 1) r

/-- A multi-word record is written with COMMIT_N set and then committed (R797); a single word needs no commit. DESIGN CHOICE,
assumption 150. -/
def State.writeRecord (s : State) (i : Nat) (ws : List Nat) : State :=
  match ws with
  | [] => s
  | [w] => s.programNow i w
  | w :: r => ((s.programNow i (w % 2 ^ 63 + 2 ^ 63)).programList (i + 1) r).programNow i (w % 2 ^ 63)

/-! ### The mode in force -/

/-- The watchdog's count is suspended in these modes (R878). -/
def wdogHeld (m : Nat) : Bool := m == mKiln || m == mKindling || m == mEmber || m == mBanked

/-- GCTL_STATUS.MODE shows a mode. While the count of the watchdog is suspended `wdogFrom` holds the cycles counted so far, else
the moment it counts from. A mode other than BURN and DAMPED remembers which of them to return to. -/
def State.setMode (s : State) (m : Nat) : State :=
  let w := if wdogHeld s.mode == wdogHeld m then s.pw.wdogFrom else s.now - s.pw.wdogFrom
  let p := if s.mode = mBurn ∨ s.mode = mDamped then s.mode else s.pw.prevMode
  { s.wr Reg.GCTL_STATUS_MODE 0 m with pw := { s.pw with wdogFrom := w, prevMode := p } }

/-- A transition completes (R857, R890). -/
def State.arrive (s : State) (m cause : Nat) : State := (s.setMode m).raise 0x0101 [s.mode, m, cause]

/-! ### Power failure (R810, R844, R876, R879, R880) -/

/-- A head parks on a power failure: at once, or, where it writes, once its writing has stopped (R421). -/
def State.parkPf (s : State) (h : Nat) : State :=
  if s.flag Reg.STN_HD_STATUS_WRITING h then s.putHead h { s.head h with pfPark := true, waiting := [], again := none } else s.parkHead h 4

/-- Phase 0 of R810 with R139 (STOP to both heads of every ACTIVE station), R140, R421, R478 and R526: the erase is suspended, programs not started are discarded but for records of
several words, heads park without their sleds, spindles coast, axes stop. In CINDER the safe program has the stations, and in
BANKED only the tally acts (R879). -/
def State.pfActions (s : State) : State :=
  if s.mode = mBanked then s
  else
    let s1 : State := { s with jq := s.jq.filter (fun x => 1 < x.words.length || x.words.isEmpty),
                               flash := { s.flash with erase := s.flash.erase.map (fun e => { e with suspended := true }),
                                                       pfDue := true, pfRecords := 0 } }
    let s0 := (upTo 128).foldl (fun t n => t.sendStop n true true) s1
    let s2 := if s.mode = mCinder then s0
      else (upTo 128).foldl (fun t n => ((t.parkPf (2 * n)).parkPf (2 * n + 1)).spindleOff n) s0
    s2.haltAll.showFlash

/-- PWRFAIL_ASSERT. -/
def execPwrfailAssert (s : State) : Res :=
  if s.pw.porst ∨ s.pw.pfAt.isSome then .next s
  else
    let s1 := (s.set1 Reg.PWR_STATUS_PWRFAIL 0).raise 0x0105 [1]
    let s2 := ({ s1 with pw := { s1.pw with pfAt := some s.now, pfClear := none } } : State).pfActions
    .next (if s2.tallyOn && s2.tally.pfAt.isNone then { s2 with tally := { s2.tally with pfAt := some s.now } } else s2)

/-- One zone's pointer with PF 1, where the journal has room for it. -/
def State.pfPointer (s : State) (zk : Nat) : State :=
  match s.ringPlace 356 612 1 with
  | none => s
  | some (i, s1) =>
    let z := s1.zone zk
    let s2 := (s1.writeRecord i [s1.zonePtr zk true]).putZone zk { z with jframes := z.frames }
    { s2 with flash := { s2.flash with pfRecords := s2.flash.pfRecords + 1 } }

/-- PF_JOURNAL_WRITE: dt cycles on, the program in progress has ended, the zones whose verified frames no pointer covers have
theirs, at most 96, and PF_END is programmed (R810). -/
def execPfJournalWrite (dt : Nat) (s : State) : Res :=
  if !s.flash.pfDue then .next s
  else
    let s1 := (s.advance dt).endProgram
    let zs := ((s1.zones.filter fun p => decide (p.2.jframes < p.2.frames)).map Prod.fst).take 96
    let s2 := zs.foldl State.pfPointer s1
    let end_ := 3 + s2.flash.pfRecords * 2 ^ 4 + s2.tb.sec * 2 ^ 12
    let s3 := match s2.ringPlace 356 612 1 with
      | some (i, t) => t.writeRecord i [end_]
      | none => s2
    .next { s3 with flash := { s3.flash with pfDue := false } }

/-- PWRFAIL_DEASSERT: a close that the assertion committed the tally to still takes place (R844). DESIGN CHOICE, assumption 172.
-/
def execPwrfailDeassert (s : State) : Res :=
  if s.pw.pfAt.isNone then .next s
  else
    let s1 := (s.clr Reg.PWR_STATUS_PWRFAIL 0).raise 0x0105 [0]
    .next ({ s1 with pw := { s1.pw with pfAt := none, pfClear := some s.now } } : State).pfOver

/-! ### Resets (R48, R875 to R877, R947) -/

/-- A reset is asked for: the actions of R810 come first, and it takes effect within 10 ms (R876). One already begun is not
repeated (R880). -/
def State.requestReset (s : State) (code : Nat) : State :=
  if s.pw.resetPend.isSome then s
  else { s.pfActions with pw := { s.pfActions.pw with resetPend := some (code, s.now + 10 * msCycles) } }

/-- PWRFAIL_RECOVER: PWRFAIL_N has stayed deasserted for PF_RECOVER_MS (R880). In BANKED nothing but the tally had acted. DESIGN
CHOICE, assumption 172. -/
def execPwrfailRecover (s : State) : Res :=
  match s.pw.pfClear with
  | none => .next s
  | some t =>
    let s1 := s.advanceTo (t + s.rd1 Reg.PWR_CFG_PF_RECOVER_MS 0 * msCycles)
    let s2 : State := { s1 with pw := { s1.pw with pfClear := none } }
    .next (if s2.pw.resetPend.isSome then s2
      else { s2 with pw := { s2.pw with resetPend := some (3, s2.now + 10 * msCycles) } })

/-- The key that GCTL_RESET asks for, R48. -/
def resetKey : Nat := 0xC1D3

/-- WARM_RESET: a write of GCTL_RESET with SCOPE 0b01. DESIGN CHOICE, assumption 10. -/
def execWarmReset (key : BitVec 16) (s : State) : Res :=
  if key.toNat ≠ resetKey ∨ s.pw.porst then .next s else .next (s.requestReset 2)

/-- COLD_RESET: a write of GCTL_RESET with SCOPE 0b10. -/
def execColdReset (key : BitVec 16) (s : State) : Res :=
  if key.toNat ≠ resetKey ∨ s.pw.porst then .next s else .next (s.requestReset 1)

/-- The register fields that a warm or cold reset keeps: those of the always-on domain, the ROS fields through a warm one, the
straps, the spare sectors, the picker positions and their references. DESIGN CHOICE, assumption 164. -/
def State.keptRegs (s : State) (cold : Bool) : List (Nat × Nat) :=
  let single := [Reg.GCTL_CELL_MASTER.key 0, Reg.GCTL_CELL_MGMT_ADDR.key 0, Reg.FLC_SPARE_LEFT.key 0, Reg.FLC_SPARE_RETIRED.key 0,
    Reg.GCTL_STATUS_TIME_LOCKED.key 0]
  let picker := (upTo 8).flatMap fun i => [Reg.MOT_AX_POS_VALUE.key (256 + i), Reg.MOT_AX_STATUS_REF.key (256 + i)]
  s.regs.filter fun p =>
    let n := p.1 % 256
    decide (192 ≤ n) || (decide (160 ≤ n) && !cold) || single.contains p.1 || picker.contains p.1

/-- The machine after a reset: as at t + 5 ms of Power-up (R875, R877). `code` goes to LAST_RESET. The EVT ring stands, and with it
the open windows of rate-limited events (R962). DESIGN CHOICE, assumptions 142, 149, 164, 165, 166. -/
def State.restart (s : State) (cold : Bool) (code : Nat) : State :=
  let s0 := if s.flash.prog.isSome then s.endProgram else s
  let kept := !cold && s0.flag Reg.MEMC_STATUS_INIT_DONE 0
  let s1 : State :=
    { State.reset with
      pending := s0.pending, now := s0.now, regs := s0.keptRegs cold, out := s0.out, free := s0.free, ev := s0.ev
      tb := { s0.tb with loadBy := none, loadQueue := [], powerUp := s0.now - 5 * msCycles, reload := if s0.mode = mBanked then some s0.now else s0.tb.reload }
      pw := { pfAt := s0.pw.pfAt, pfClear := s0.pw.pfClear, thermTrip := s0.pw.thermTrip, lastWasReset := true, driven := s0.pw.driven }
      sealed := s0.sealed
      damage := if cold then [] else s0.damage
      damageSeq := if cold then 0 else s0.damageSeq
      mem := if kept then s0.mem else []
      ms := if kept then { ue := s0.ms.ue, ce := s0.ms.ce, trainedAt := s0.ms.trainedAt } else {}
      flash := { words := s0.flash.words, ruined := s0.flash.ruined, notes := s0.flash.notes }
      tally := { s0.tally with acks := [] } }
  let s2 := (s1.wr Reg.PWR_STATUS_LAST_RESET 0 code).wrB Reg.PWR_STATUS_PWRFAIL 0 s0.pw.pfAt.isSome
  (s2.raise 0x0101 [s.mode, mKindling, 5]).raise 0x0803 [1]

/-- RESET_TAKES_EFFECT: once PF_END is programmed, and 10 ms after the cause at the latest (R876). -/
def execResetTakesEffect (s : State) : Res :=
  match s.pw.resetPend with
  | none => .next s
  | some (code, due) =>
    let s1 := if s.flash.pfDue then s.advanceTo due else s
    .next (s1.restart (code == 1) code)

/-- The word that a program was cut off in (R774, R776): a first program leaves it torn, with data bits cleared in part; a second
one leaves the data in part changed under slot A. Which bits had changed is free. DESIGN CHOICE, assumption 148. -/
def State.tearProgram (s : State) : State :=
  match s.flash.prog with
  | none => s
  | some p =>
    let (x, s1) := s.draw 64
    let w := s.fword p.word
    let d := w.data &&& (p.value ||| x)
    { s1 with flash := { s1.flash with words := mput s1.flash.words p.word { w with data := d } } }

/-- PORST_ASSERT: every domain is reset at once; only the flash array, the fuses and the spares' record stand (R875, R947). -/
def execPorstAssert (s : State) : Res :=
  let s1 := s.tearProgram
  let spare := [Reg.FLC_SPARE_LEFT.key 0, Reg.FLC_SPARE_RETIRED.key 0]
  .next { State.reset with
    pending := s1.pending, now := s1.now, regs := s1.regs.filter (fun p => spare.contains p.1), out := s1.out, free := s1.free
    sealed := s1.sealed
    flash := { words := s1.flash.words, ruined := s1.flash.ruined, notes := s1.flash.notes }
    pw := { porst := true } }

/-- PORST_DEASSERT: the straps are sampled, TIME is 0 in FREE, the mode KINDLING (R53, R533, R941, R955). DESIGN CHOICE,
assumption 8. PRESUMED, assumption 13. -/
def execPorstDeassert (mgmtAddr : BitVec 2) (slave clocks : Bool) (s : State) : Res :=
  if !s.pw.porst then .next s
  else
    let s1 := (s.setLin 0).wr Reg.GCTL_CELL_MGMT_ADDR 0 mgmtAddr.toNat
    let s2 := s1.wrB Reg.GCTL_CELL_MASTER 0 (!slave)
    .next { s2 with tb := { s2.tb with refClk := clocks, powerUp := s.now }, pw := { s2.pw with porst := false } }

/-! ### Transitions (R857 to R862) -/

/-- Every head is parked and every spindle braked to STOPPED, where it stays until a command needs it (R422, R479, R859). DESIGN
CHOICE, assumption 167. -/
def State.stopStations (s : State) : State :=
  (upTo 128).foldl (fun t n =>
    let t1 := [2 * n, 2 * n + 1].foldl (fun u h => if u.headUp h then u.parkHead h 3 else u) t
    if !t1.bothDown n then t1
    else
      let st := t1.spState n
      let t2 := if t1.turning n && st != spBrake && st != spHold then t1.stopSpindle n 2 else t1
      if t2.rd Reg.STN_SP_TARGET_RPM n = 0 then t2 else ((t2.clr Reg.STN_SP_TARGET_RPM n).showSp n)) s

/-- Heads are parked and no spindle turns. -/
def State.stationsRest (s : State) : Bool := (upTo 128).all fun n => s.bothDown n && !s.turning n

/-- The pickers have ended their transfers and are at rest, and the DMA channels are idle. -/
def State.enginesRest (s : State) : Bool :=
  !(s.lib.transfers.any fun t => t.picker.isSome) && s.lib.inv.isNone && s.pkRest && s.engines.all fun p => p.2.running.isNone && p.2.queue.isEmpty

/-- The MODE_SET of a transition completes (R858, R673). -/
def State.endModeSet (s : State) : State :=
  match s.pw.trans with
  | some t =>
    match t.by_ with
    | some (sq, tag) =>
      ({ s with pw := { s.pw with trans := some { t with by_ := none } } } : State).finish sq tag stSuccess s.mode 0 0
    | none => s
  | none => s

/-- The transition is over: MODE shows the mode it led to, and its MODE_SET completes with it. DESIGN CHOICE, assumption 170. -/
def State.endTrans (s : State) (m cause : Nat) : State :=
  let s1 := (s.arrive m cause).endModeSet
  { s1 with pw := { s1.pw with trans := none } }

/-- Commands wait that were accepted during the entry (R681). DEDUCED, assumption 121. -/
def State.workWaits (s : State) : Bool :=
  s.cmds.any fun c => c.phase == .waiting && c.launch.isNone && c.origin.isNone

/-- Ports go DOWN behind four periods of SAFE_NOW (R160). -/
def State.portsDown (s : State) : State :=
  (upTo 128).foldl (fun t n =>
    if t.active n then (if (t.stn n).safeNow = 0 then t.safeNow n 4 .down else t)
    else if t.port n = lkDown then t
    else t.toDown n) s

/-- Steps 3 to 5 of R859 behind the ports: pickers park, the slices are released, cache groups 1 to 3 lose their power, DRAM
enters self-refresh. CACHE_PWR.ON keeps what was asked for. DESIGN CHOICE, assumption 169. -/
def State.goEmber (s : State) : State :=
  let s1 := [0, 1].foldl (fun t m => t.pkPark m) s.dropCal
  let s2 := (upTo 96).foldl (fun t i => if mhas t.slices i then t.releaseSlice i else t) s1
  let s3 := (upTo 128).foldl (fun t n => t.stationOff n) s2
  let on := s3.rd Reg.MEMC_CACHE_PWR_ON 0
  ((s3.setWays 1).wr Reg.MEMC_CACHE_PWR_ON 0 on).set1 Reg.MEMC_STATUS_SELF_REFRESH 0

/-- The return from EMBER begins with the ports, the cache groups and DRAM. DESIGN CHOICE, assumption 169. -/
def State.leaveEmber (s : State) : State :=
  let s1 := (upTo 128).foldl (fun t n =>
    if t.flag Reg.STN_LINK_CTRL_ENABLE n && t.port n == lkDown then t.toWait n t.now else t) s
  (s1.setWays (s1.rd Reg.MEMC_CACHE_PWR_ON 0)).touchDram

/-- The always-on domain alone goes on: the host link and the ring are down, picker drivers off, every clock but AOCLK stopped
(R528, R567, R860). -/
def State.goBanked (s : State) : State :=
  let s1 := s.endpointReset.raise 0x0803 [1]
  let s2 := (s1.portDown 0).portDown 1
  let s3 := (upTo 8).foldl (fun t i => if t.axState (256 + i) = axDisabled then t else t.setAx (256 + i) axDisabled) s2
  { s3 with tb := { s3.tb with cclk := false }, pw := { s3.pw with linkGraceFrom := none } }

/-- The entry to EMBER and on to BANKED, one step of it. -/
def State.downStep (s : State) (t : Trans) : State :=
  if s.mode = mEmber then
    if s.workWaits then s.beginTrans s.pw.prevMode 3 none
    else
      match s.pw.linkGraceFrom with
      | none => let u := s.endModeSet; { u with pw := { u.pw with linkGraceFrom := some s.now } }
      | some g =>
        let u := (s.advanceTo (g + s.rd Reg.PWR_CFG_LINK_GRACE 0 * msCycles)).goBanked
        u.endTrans mBanked t.cause
  else
    let s1 := s.stopStations
    if !s1.stationsRest ∨ !s1.enginesRest then s1
    else
      let s2 := s1.endModeSet.portsDown
      if (upTo 128).any s2.active then s2
      else
        let s3 := s2.goEmber.arrive mEmber t.cause
        if s3.workWaits then s3.beginTrans s3.pw.prevMode 3 none
        else if t.to_ = mEmber then { s3 with pw := { s3.pw with trans := none } }
        else { s3 with pw := { s3.pw with trans := s3.pw.trans.map fun x => { x with from_ := mEmber } } }

/-- The end of a wake: firmware runs again, fine TIME is to be reloaded, and lock has to return (R70, R862). -/
def State.awake (s : State) : State :=
  let s1 := (upTo 8).foldl (fun t i =>
    if t.flag Reg.MOT_AX_CTRL_EN (256 + i) then t.setAx (256 + i) (if t.flag Reg.MOT_AX_STATUS_REF (256 + i) then axIdle else axUnref) else t) s
  let s2 := s1.setLocked false
  { s2 with tb := { s2.tb with reload := some s.now }, pw := { s2.pw with coresRun := true } }

/-- MODE_TRANSITION_DONE: the transition in progress goes on as far as what it waits for allows, and completes (R857 to R862).
`romOk` and `katOk` are what the tally's checks find on entry to VERIFY (R851). DESIGN CHOICE, assumption 170. -/
def execModeTransitionDone (romOk katOk : Bool) (s : State) : Res :=
  match s.pw.trans with
  | none => .next s
  | some t =>
    if t.to_ = mEmber ∨ t.to_ = mBanked then
      if s.mode = mBanked then .next (s.awake.endTrans mEmber t.cause) else .next (s.downStep t)
    else if t.to_ = mVerify then
      let s1 := s.stopStations
      .next (if s1.stationsRest then (s1.endTrans mVerify t.cause).attest romOk katOk else s1)
    else
      let s1 := if s.mode = mEmber then s.leaveEmber else s
      let m := if t.to_ = mBurn ∧ s.flag Reg.PWR_STATUS_THERM_DAMPED 0 then mDamped else t.to_
      .next (s1.endTrans m t.cause)

/-- The wake source with the lowest number among those enabled, of bits 0 WAKE_N, 1 SMBus, 2 PERST_N, 3 timer. -/
def State.wakeSource (s : State) (srcs : Nat) : Option Nat :=
  let en := [Reg.PWR_CFG_WAKE_N_EN, Reg.PWR_CFG_SMBUS_WAKE_EN, Reg.PWR_CFG_PERST_WAKE_EN, Reg.PWR_CFG_TIMER_WAKE_EN]
  (upTo 4).find? fun i => bitOf srcs i && s.flag (en.getD i Reg.PWR_CFG_WAKE_N_EN) 0

/-- The coarse counter moves on until n ticks have passed. DESIGN CHOICE, assumption 174. -/
def State.coarseFor (s : State) (n : Nat) : State :=
  let k := n * 128 / 5859375
  if n ≤ coarseTicks s.tb.coarsePhase k then s.coarse k
  else if n ≤ coarseTicks s.tb.coarsePhase (k + 1) then s.coarse (k + 1)
  else s.coarse (k + 2)

/-- A wake by a source (R861, R862): with the signature line intact the controller enters EMBER, else it is reset cold. -/
def State.wakeBy (s : State) (src : Nat) (intact : Bool) : State :=
  let s1 := (s.wr Reg.PWR_STATUS_WAKE_SRC 0 (src + 1)).raise 0x0106 [src + 1]
  if intact then s1.beginTrans mEmber 2 none else (s1.raise 0x0108 []).requestReset 1

/-- WAKE: sources act in BANKED (R861). The timer's moment is that at which TIME_SEC reaches PWR_WAKE_AT. DESIGN CHOICE,
assumption 174. -/
def execWake (srcs : BitVec 4) (intact : Bool) (s : State) : Res :=
  if s.mode ≠ mBanked ∨ s.pw.trans.isSome ∨ s.pw.resetPend.isSome then .next s
  else
    match s.wakeSource srcs.toNat with
    | none => .next s
    | some i =>
      let at_ := s.rd Reg.PWR_WAKE_AT_SEC 0
      let s1 := if i = 3 ∧ s.tb.sec ≠ at_ then s.coarseFor ((at_ * hz + linMod - s.lin) % linMod) else s
      .next (s1.wakeBy i intact)

/-! ### The health of a trial image (R931) -/

/-- The conditions of R931 that can be seen at one moment hold: firmware is ready outside CINDER, replay is complete, an entry has
been written to EVENT_LOG, and the loops run where they ran before KILN. DESIGN CHOICE, assumption 177. -/
def State.healthy (s : State) : Bool :=
  s.flag Reg.GCTL_STATUS_FW_READY 0 && s.mode != mCinder && s.mode != mKiln && s.flash.replayed && s.firm.logged
    && (!s.firm.ranLoops || (s.flag Reg.LPE_CTRL_RUN 0 && decide (s.rd Reg.LPE_STATUS_STATE 0 < 2)))

/-- Since when they have held. DESIGN CHOICE, assumption 177. -/
def State.noteHealth (s : State) : State :=
  { s with firm := { s.firm with healthFrom := if s.healthy then some (s.firm.healthFrom.getD s.now) else none } }

/-! ### Power-up (R872 to R874) -/

/-- FW_READY: replay and batches are done, and the pools are laid out where they are not (R690); KINDLING ends in BURN, or by the stored boot mode in EMBER (R873, R874, R890).
`slots` and `stns` are what GCTL_SIZE shows. DESIGN CHOICE, assumption 178. -/
def execFwReady (slots : Fin 4097) (stns : Fin 129) (ember : Bool) (s : State) : Res :=
  if s.mode ≠ mKindling ∨ s.firm.booting ∨ !s.flash.replayed ∨ s.ms.trainedAt.isNone ∨ s.pw.pfAt.isSome ∨ s.pw.porst
      ∨ s.flag Reg.GCTL_STATUS_FW_READY 0 ∨ !((upTo 128).all fun n => (s.stn n).batchDone) then .next s
  else
    let s := s.firmLayout
    let v := s.firm.version
    let s1 := ((s.wr Reg.GCTL_FW_VER_MAJOR 0 (v / 2 ^ 24)).wr Reg.GCTL_FW_VER_MINOR 0 (v / 2 ^ 16)).wr Reg.GCTL_FW_VER_BUILD 0 v
    let s2 := ((s1.wr Reg.GCTL_SIZE_MAG_SLOTS 0 slots.val).wr Reg.GCTL_SIZE_STN_FITTED 0 stns.val).set1 Reg.GCTL_STATUS_FW_READY 0
    let s3 : State := { s2 with pw := { s2.pw with wdogFrom := 0 } }
    let s4 := if s3.pw.lastWasReset then s3.raise 0x0107 [s3.rd Reg.PWR_STATUS_LAST_RESET 0] else s3
    let s5 := s4.calibReset.foldl (fun u x => u.raise 0x0B0D [x.1, x.2]) s4
    .next (if ember then s5.beginTrans mEmber 5 none else s5.arrive mBurn 5).noteHealth

/-! ### The watchdog and the supplies (R878, R881) -/

/-- WATCHDOG_KICK. -/
def execWatchdogKick (s : State) : Res :=
  .next { s with pw := { s.pw with wdogFrom := if wdogHeld s.mode then 0 else s.now } }

/-- WATCHDOG_EXPIRE: TIMEOUT_MS without a kick while FW_READY is 1, outside the modes that suspend the count. -/
def execWatchdogExpire (s : State) : Res :=
  if !s.flag Reg.GCTL_STATUS_FW_READY 0 ∨ wdogHeld s.mode ∨ s.mode = mCinder then .next s
  else .next ((s.advanceTo (s.pw.wdogFrom + s.rd1 Reg.PWR_WDOG_TIMEOUT_MS 0 * msCycles)).cinder cWatchdog)

/-- SUPPLY_FAULT: dt cycles on, a supply has been out of its conditions for 1 ms with PWRFAIL_N deasserted. -/
def execSupplyFault (dt : Nat) (s : State) : Res :=
  let s1 := s.advance dt
  if s1.pw.pfAt.isSome ∨ s1.pw.porst then .next s1 else .next (s1.cinder cSupply)

/-! ### Temperature (R867 to R871) -/

/-- EXIT_C in 1/16 °C. -/
def State.exitTemp (s : State) : Int := 16 * (min 94 (s.rd Reg.PWR_THERM_CFG_EXIT_C 0) : Nat)

/-- Thermal damping begins (R869). DESIGN CHOICE, assumption 171. -/
def State.thermDamp (s : State) : State :=
  let s1 := (s.set1 Reg.PWR_STATUS_THERM_DAMPED 0).raise 0x0102 (1 :: s.tjItem)
  if s1.pw.trans.isNone then s1.beginTrans mDamped 1 none else s1

/-- THERMAL_READING: dt cycles on, the sixteen sensors are read: TJ, and what four readings in a row at a threshold lead to (R867
to R870). DESIGN CHOICE, assumption 176. -/
def execThermalReading (dt : Nat) (temps : List (BitVec 16)) (s : State) : Res :=
  let s1 := s.advance dt
  match temps.map BitVec.toInt with
  | [] => .next s1
  | t0 :: r =>
    if s1.mode = mBanked ∨ s1.pw.porst ∨ temps.length ≠ 16 then .next s1
    else
      let tj := r.foldl max t0
      let peak := max tj (s1.rdS Reg.PWR_TEMP_TJ_PEAK 0)
      let s2 := (s1.wrS Reg.PWR_TEMP_TJ 0 tj).wrS Reg.PWR_TEMP_TJ_PEAK 0 peak
      let n95 := if 1520 ≤ tj then s2.pw.run95 + 1 else 0
      let n105 := if 1680 ≤ tj then s2.pw.run105 + 1 else 0
      let cool := if tj ≤ s2.exitTemp then some (s2.pw.coolFrom.getD s2.now) else none
      let s3 : State := { s2 with pw := { s2.pw with run95 := n95, run105 := n105, coolFrom := cool } }
      if 4 ≤ n105 ∧ s3.mode ≠ mCinder then .next (s3.cinder cThermal)
      else if 4 ≤ n95 ∧ !s3.flag Reg.PWR_STATUS_THERM_DAMPED 0 then
        if s3.mode = mBurn then .next s3.thermDamp
        else if s3.mode = mKiln ∧ s3.pw.kilnFrom = mBurn then .next { s3 with pw := { s3.pw with dampAfterKiln := true } }
        else .next s3
      else .next s3

/-- THERMAL_EXIT: TJ has stayed at or below EXIT_C for EXIT_S seconds: the controller returns to REQ_MODE (R869). -/
def execThermalExit (s : State) : Res :=
  match s.pw.coolFrom with
  | none => .next s
  | some t =>
    if !s.flag Reg.PWR_STATUS_THERM_DAMPED 0 ∨ s.mode = mBanked ∨ s.mode = mCinder then .next s
    else
      let s1 := s.advanceTo (t + s.rd1 Reg.PWR_THERM_CFG_EXIT_S 0 * hz)
      let s2 := (s1.clr Reg.PWR_STATUS_THERM_DAMPED 0).raise 0x0102 (0 :: s1.tjItem)
      .next (if s2.mode = mDamped ∧ s2.pw.trans.isNone ∧ s2.rd Reg.PWR_STATUS_REQ_MODE 0 = mBurn then s2.beginTrans mBurn 1 none else s2)

/-- The number of THERMTRIP_N among the pins of the output log. -/
def pinThermtrip : Nat := 0

/-- THERMTRIP: the comparator asserts THERMTRIP_N, in every mode, until PORST_N (R871). -/
def execThermtrip (s : State) : Res :=
  if s.pw.thermTrip ∨ s.pw.porst then .next s
  else .next (({ s with pw := { s.pw with thermTrip := true } } : State).emit (.pin pinThermtrip false))

/-! ### The power cap (R864 to R866) -/

/-- What the stations and the admissions of the last 100 ms add to the estimate. -/
def State.capLoad (s : State) : Nat :=
  let run := ((upTo 128).filter fun n => [spCatch, spRun, spBrake].contains (s.spState n)).length
  let start := ((upTo 128).filter fun n => [spAlign, spRamp, spRevBrake].contains (s.spState n)).length
  let lit := (s.heads.filter fun p => p.2.readOn || s.flag Reg.STN_HD_STATUS_WRITING p.1).length
  run * s.rd Reg.PWR_WEIGHT_STN_RUN_W 0 + start * s.rd Reg.PWR_WEIGHT_STN_START_W 0 + lit * s.rd Reg.PWR_WEIGHT_HEAD_W 0
    + s.pw.admits.foldl (fun n p => n + p.2) 0

/-- POWER_CAP_ESTIMATE: dt cycles on, EST is formed from the controller's own power, measured in 0.1 W, and OVER_CAP follows it
(R864, R866). DESIGN CHOICE, assumption 173. -/
def execPowerCapEstimate (dt own : Nat) (s : State) : Res :=
  let s1 := s.advance dt
  if s1.mode = mBanked ∨ s1.pw.porst then .next s1
  else
    let s2 : State := { s1 with pw := { s1.pw with admits := s1.pw.admits.filter (fun p => decide (s1.now < p.1 + 100 * msCycles)),
                                                   fresh := 0, ownW := min 65535 own } }
    let est := min 65535 (own + s2.capLoad)
    let past := s2.mode == mDamped && decide (s2.capNow < est)
    let s3 := (s2.wr Reg.PWR_CAP_EST 0 est).wrB Reg.PWR_STATUS_OVER_CAP 0 past
    let was := s2.flag Reg.PWR_STATUS_OVER_CAP 0
    .next { s3 with pw := { s3.pw with overFrom := if past then (if was then s3.pw.overFrom else some s3.now) else none,
                                       capRaised := s3.pw.capRaised && past && was } }

/-- CAP_EXCEEDED: OVER_CAP has stayed 1 for 1 s (R866). -/
def execCapExceeded (s : State) : Res :=
  match s.pw.overFrom with
  | none => .next s
  | some t =>
    if s.pw.capRaised then .next s
    else
      let s1 := s.advanceTo (t + hz)
      .next (({ s1 with pw := { s1.pw with capRaised := true } } : State).raise 0x0103 [s1.rd Reg.PWR_CAP_EST 0, s1.capNow])

/-! ### The event log (R885 to R889, R962) -/

/-- The eight words of an event entry, COMMIT_N 0 (R885, R972). -/
def entryWords (e : EvEntry) : List Nat :=
  let w0 := e.code + e.mode * 2 ^ 16 + e.cell * 2 ^ 19 + (if e.coarse then 2 ^ 22 else 0)
  [w0, e.seq, e.time] ++ (upTo 5).map fun i => e.data.getD (2 * i) 0 % 2 ^ 32 + e.data.getD (2 * i + 1) 0 % 2 ^ 32 * 2 ^ 32

/-- The oldest entry of the ring that EVENT_LOG has not got. -/
def State.uncopied (s : State) : Option EvEntry := s.ev.ring.find? fun e => decide (s.ev.copied < e.seq)

/-- EVENT_LOG_COPY: firmware copies the next entry to EVENT_LOG, outside CINDER and BANKED; a full ring's oldest sector is erased
first (R799, R888). DESIGN CHOICE, assumption 175. -/
def execEventLogCopy (s : State) : Res :=
  if !s.fwRuns ∨ s.firm.booting ∨ s.flash.prog.isSome ∨ s.flash.pfDue then .next s
  else
    match s.uncopied with
    | none => .next s
    | some e =>
      match s.ringPlace 164 228 8 with
      | some (i, s1) =>
        let s2 := s1.writeRecord i (entryWords e)
        .next ({ s2 with ev := { s2.ev with copied := e.seq }, firm := { s2.firm with logged := true } } : State).noteHealth
      | none => if s.flash.erase.isSome then .next s else .next (s.startErase (s.ringNext 164 228) 0 0)

/-- EVENT_INTERRUPT: the message on vector 0 for the unmasked entries since the last, at most one in a millisecond (R889). -/
def execEventInterrupt (s : State) : Res :=
  if !s.ev.unsent ∨ !s.flag Reg.EVT_CTRL_IEN 0 then .next s
  else
    let s1 := match s.ev.lastMsi with
      | some t => s.advanceTo (t + msCycles)
      | none => s
    .next (({ s1 with ev := { s1.ev with unsent := false, lastMsi := some s1.now } } : State).msix 0)

/-- EVENT_WINDOW_END: the window that ends next is over: its event is raised once, with its count where its table names one. -/
def execEventWindowEnd (code inst : Nat) (s : State) : Res :=
  match s.ev.windows.find? fun w => w.code == code && w.inst == inst with
  | none => .next s
  | some w =>
    .next ((s.advanceTo w.endAt).closeWindow w)

/-! ### BAR0 and fetching (R18, R19, R46, R47) -/

/-- BAR0_RESERVED_ACCESS: a read of a reserved offset gives 0, a write is discarded; both are counted in the window of
RESERVED_ACCESS. -/
def execBar0ReservedAccess (offset : BitVec 26) (write : Bool) (s : State) : Res :=
  let s1 := if write then s else s.emit (.regData offset.toNat (List.replicate 4 0))
  .next (s1.raiseWin 0x0801 0 [offset.toNat, if write then 1 else 0] true)

/-- FETCH_HOLD: no fetch is in progress between commands, so HOLD_ACK follows at once. DESIGN CHOICE, assumption 163. -/
def execFetchHold (on : Bool) (s : State) : Res :=
  .next ((s.wrB Reg.GCTL_CTRL_FETCH_HOLD 0 on).wrB Reg.GCTL_CTRL_HOLD_ACK 0 on)

end Sys2Proof.Machine
end

