-- ==== Sys2Proof/Machine/Cal.lean ====
section
/-!
DEFINITION. Temperature-triggered calibration: its triggers, the runs of ports, slices and trail-spot trims, and its stored results
(R893 to R913).
-/

namespace Sys2Proof.Machine

/-! ### Units and triggers (R893 to R895, R908, R909) -/

/-- The key of a unit. Kinds: 0 port, 1 slice, 2 trim. -/
def calKey (kind inst : Nat) : Nat := kind * 512 + inst

def State.cal (s : State) (kind inst : Nat) : CalUnit := mget {} s.cals (calKey kind inst)
def State.putCal (s : State) (kind inst : Nat) (u : CalUnit) : State := { s with cals := mput s.cals (calKey kind inst) u }

/-- The instance exists: 130 ports, 256 heads. -/
def calInst (kind inst : Nat) : Bool := decide (inst < if kind = 0 then 130 else 256)

/-- Runs of a kind may become pending (R895). -/
def State.calOn (s : State) (kind : Nat) : Bool :=
  s.flag Reg.CAL_CTRL_EN 0
    && s.flag (if kind = 0 then Reg.CAL_CTRL_LINK_EN else if kind = 1 then Reg.CAL_CTRL_SLICE_EN else Reg.CAL_CTRL_TRIM_EN) 0

/-- Pending runs of kinds that are not enabled are discarded (R895). -/
def State.calPrune (s : State) : State :=
  { s with cals := s.cals.map fun p => if s.calOn (p.1 / 512) then p else (p.1, { p.2 with pending := false, again := false }) }

/-- Calibration runs in this mode (R908); the ports that power-up has made ACTIVE are calibrated in KINDLING. DEDUCED, assumption
184. -/
def State.calMode (s : State) : Bool := s.mode != mEmber && s.mode != mBanked && s.mode != mCinder

/-- The temperatures that a unit watches: TJ and SENSOR word 22 of a station port, word 6 of a head. -/
def State.calTemps (s : State) (kind inst : Nat) : Int × Option Int :=
  if kind = 0 then (s.rdS Reg.PWR_TEMP_TJ 0, if inst < 128 then some (s.sensor inst 22) else none)
  else (s.sensor (inst / 2) (headWord inst 6), none)

/-- The threshold of a front-end temperature, 1/1,024 of full scale. -/
def State.dtempFe (s : State) : Nat := s.rd1 Reg.CAL_CFG_DTEMP_FE 0 * 8192

/-- A watched temperature differs from that of the last completed run by more than its threshold. -/
def State.calWarm (s : State) (kind inst : Nat) : Bool :=
  let u := s.cal kind inst
  let t := s.calTemps kind inst
  let far := fun (old : Option Int) (now : Int) (lim : Nat) =>
    match old with
    | some o => decide (lim < (now - o).natAbs)
    | none => false
  far u.tempA t.1 (if kind = 0 then s.rd1 Reg.CAL_CFG_DTEMP_TJ 0 else s.dtempFe)
    || (match t.2 with | some b => far u.tempB b s.dtempFe | none => false)

/-- A run of a unit becomes pending; during a run, a further one (R909). -/
def State.calPend (s : State) (kind inst : Nat) : State :=
  let u := s.cal kind inst
  if u.running then s.putCal kind inst { u with again := true, armed := false }
  else s.putCal kind inst { u with pending := true, armed := false }

/-- CAL_TRIGGER: a unit whose port has reached ACTIVE, whose head is READY after a mount, or whose temperature has moved becomes
pending; else it does once MAX_H hours have passed since its last run (R894). -/
def execCalTrigger (kind : Fin 3) (inst : Fin 256) (s : State) : Res :=
  if !s.calOn kind ∨ !s.calMode ∨ !calInst kind inst then .next s
  else
    let u := s.cal kind inst
    if u.armed || s.calWarm kind inst then .next (s.calPend kind inst)
    else
      let h := s.rd Reg.CAL_CFG_MAX_H 0
      match u.doneAt with
      | some t => if h = 0 then .next s else .next ((s.advanceTo (t + h * 3600 * hz)).calPend kind inst)
      | none => .next s

/-- CAL_RUN_ALL: a run of every enabled unit becomes pending. -/
def execCalRunAll (s : State) : Res :=
  if !s.calMode then .next s
  else
    .next ([0, 1, 2].foldl (fun t k =>
      if t.calOn k then (upTo (if k = 0 then 130 else 256)).foldl (fun u i => u.calPend k i) t else t) s)

/-- A run's values are in force (R894, R909, R912). -/
def State.calDone (s : State) (kind inst : Nat) (value : List Nat) : State :=
  let u := s.cal kind inst
  let t := s.calTemps kind inst
  let s1 := s.putCal kind inst { u with running := false, pending := u.again && s.calOn kind, again := false, staged := [], frames := 0,
                                        sums := [], tempA := some t.1, tempB := t.2, doneAt := some s.now, value := value }
  s1.raiseWin 0x0D01 kind [kind, inst] true

/-! ### Port receivers (R896 to R899) -/

/-- The port carries traffic: ACTIVE, or UP. -/
def State.calPortUp (s : State) (p : Nat) : Bool := if p < 128 then s.active p else s.portUp (p - 128)

/-- A lane's new settings, limited (R897), and whether a limit acted. PHASE moves by the shorter way round the UI. DESIGN CHOICE,
assumptions 182 and 186. -/
def State.laneLimit (s : State) (p l : Nat) (r : List Nat) : List Nat × Bool :=
  let i := 2 * p + l
  let old := s.rd Reg.CAL_PORT0_PHASE i
  let d := (((r.getD 0 0 % 64 : Nat) : Int) - (old : Int) + 32) % 64 - 32
  let phase := (((old : Int) + clampInt (-8) 8 d) % 64).toNat
  let c := s.rd Reg.CAL_PORT0_CTLE i
  let ctle := clampNat (c - 1) (min 255 (c + 1)) (r.getD 1 0)
  (phase :: ctle :: (upTo 6).map fun k => r.getD (2 + k) 0 % 256, clampInt (-8) 8 d ≠ d || ctle ≠ r.getD 1 0)

/-- CAL_PORT_RUN: a pending port run takes a free engine that training does not claim and computes its staging set. `a` and `b`
are what the sweep finds of the two lanes: PHASE, CTLE and taps 1 to 6 (R896, R897). DESIGN CHOICE, assumption 183. -/
def execCalPortRun (p : Fin 130) (a b : List Nat) (s : State) : Res :=
  let u := s.cal 0 p
  let claim := (upTo 128).any fun n => mhas s.stns n && s.retriable n && decide ((s.stn n).dueAt ≤ s.now)
  if !u.pending ∨ u.running ∨ !s.calMode ∨ !s.calPortUp p ∨ 16 ≤ s.enginesUsed ∨ claim then .next s
  else
    let x := s.laneLimit p 0 a
    let y := s.laneLimit p 1 b
    let s1 := s.putCal 0 p { u with pending := false, running := true, staged := x.1 ++ y.1 }
    .next (if x.2 || y.2 then s1.raise 0x0D02 [0, p] else s1)

/-- CAL_PORT_APPLY: the staging set of both lanes comes into force after the ALIGN block of the next servo period (R898). DESIGN
CHOICE, assumption 183. -/
def execCalPortApply (p : Fin 130) (s : State) : Res :=
  let u := s.cal 0 p
  if !u.running ∨ u.staged.isEmpty then .next s
  else
    let s1 := s.advanceMod 5000
    let put := fun (t : State) (l : Nat) =>
      portFields.zipIdx.foldl (fun v q => v.wr q.1 (2 * p + l) (u.staged.getD (8 * l + q.2) 0)) (t.wrS Reg.CAL_PORT0_TJ_RUN (2 * p + l) (t.rdS Reg.PWR_TEMP_TJ 0))
    .next (([0, 1].foldl put s1).calDone 0 p u.staged)

/-! ### Slice sample correction (R900 to R903) -/

/-- The slice that serves a head, with the head's corrections in its SLC_OFS. -/
def State.headSlice (s : State) (h : Nat) : Option Nat := s.sliceOf h

/-- New OFS of a spot: in quarter units, from the sum of n samples in quarter units; a free value where the formula divides by 0.
The flag says that the range of the field acted. DESIGN CHOICE, assumption 186. -/
def State.newOfs (s : State) (ofs : Int) (gain n : Nat) (sum : Int) : Int × Bool × State :=
  if n = 0 ∨ gain = 0 then let (v, s1) := s.draw 8; (signed 8 v, false, s1)
  else
    let x := ofs + roundDiv (sum * 128) (n * gain)
    (clampInt (-128) 127 x, decide (x ≤ -128) || decide (127 ≤ x), s)

/-- New GAIN of a spot, held within GAIN_STEP; the flag says that GAIN_STEP or the range of the field acted (R901); a free value within it where the formula divides by 0. DESIGN CHOICE, assumption
185. -/
def State.newGain (s : State) (gain n sumSq : Nat) : Nat × Bool × State :=
  let k := s.rd Reg.CAL_SLICE_CFG_GAIN_STEP 0
  let lo := gain - k
  let hi := min 255 (gain + k)
  if n = 0 ∨ sumSq = 0 then let (v, s1) := s.draw 8; (clampNat lo hi v, false, s1)
  else
    let g := gain * s.rd Reg.CAL_SLICE_CFG_RMS_TGT 0
    let x := (isqrt (4 * g * g * n / sumSq) + 1) / 2
    (clampNat lo hi x, decide (x < lo) || decide (hi < x) || decide (255 ≤ x) || x == 0, s)

/-- CAL_SLICE_RUN_DONE: FRAMES good frames are held: new offset and gain of both spots (R900, R901). -/
def execCalSliceRunDone (n : Fin 128) (side : Fin 2) (s : State) : Res :=
  let h := headOf n side
  let u := s.cal 1 h
  match s.headSlice h with
  | none => .next s
  | some sl =>
    if !u.running ∨ !u.staged.isEmpty ∨ u.frames < s.rd1 Reg.CAL_SLICE_CFG_FRAMES 0 then .next s
    else
      let q := fun (i : Nat) => u.sums.getD i 0
      let gl := s.rd Reg.SLC_OFS_LEAD_GAIN sl
      let gt := s.rd Reg.SLC_OFS_TRAIL_GAIN sl
      let (ol, b1, s1) := s.newOfs (s.rdS Reg.SLC_OFS_LEAD_OFS sl) gl (q 2).toNat (q 0)
      let (ot, b2, s2) := s1.newOfs (s.rdS Reg.SLC_OFS_TRAIL_OFS sl) gt (q 5).toNat (q 3)
      let (nl, b3, s3) := s2.newGain gl (q 2).toNat (q 1).toNat
      let (nt, b4, s4) := s3.newGain gt (q 5).toNat (q 4).toNat
      let s5 := s4.putCal 1 h { u with staged := [unsignedOf 8 ol, unsignedOf 8 ot, nl, nt] }
      .next (if b1 || b2 || b3 || b4 then s5.raise 0x0D02 [1, h] else s5)

/-- TEMP_RUN of a head: bits 23 to 8 of SENSOR word 6. -/
def State.showTempRun (s : State) (h : Nat) : State :=
  s.wr Reg.CAL_HEAD_TEMP_RUN h (unsignedOf 24 (s.sensor (h / 2) (headWord h 6)) / 256)

/-- CAL_SLICE_APPLY: at the next row boundary of the lead spot the slice writes the four values into SLC_OFS (R902). -/
def execCalSliceApply (n : Fin 128) (side : Fin 2) (s : State) : Res :=
  let h := headOf n side
  let u := s.cal 1 h
  match s.headSlice h with
  | none => .next s
  | some sl =>
    if !u.running ∨ u.staged.isEmpty then .next s
    else
      let s1 := ofsFields.zipIdx.foldl (fun t q => t.wr q.1 sl (u.staged.getD q.2 0)) s
      .next (((s1.set1 Reg.CAL_HEAD_VALID h).showTempRun h).calDone 1 h u.staged)

/-! ### Trail-spot trim (R904 to R907) -/

/-- The sum of the magnitudes of the seven taps of a cross filter of ACTIVE. -/
def State.crossSum (s : State) (sl f : Nat) : Nat :=
  (upTo 7).foldl (fun a t => a + (signed 12 (s.rd Reg.SLC_EQ_SET_COEF (((sl * 6) * 4 + f) * 16 + t))).natAbs) 0

/-- CAL_TRIM_RUN: FRAMES frames have been decoded since the last commit: D is formed from the cross filters and gives a new TRIM_OFS
(R905). -/
def execCalTrimRun (n : Fin 128) (side : Fin 2) (s : State) : Res :=
  let h := headOf n side
  let u := s.cal 2 h
  match s.headSlice h with
  | none => .next s
  | some sl =>
    if !u.pending ∨ u.running ∨ (s.slice sl).trimFrames < s.rd1 Reg.CAL_SLICE_CFG_FRAMES 0 then .next s
    else
      let d : Int := (s.crossSum sl 1 : Int) - (s.crossSum sl 2 : Int)
      let change := (s.rd Reg.CAL_TRIM_CFG_KT 0 * 64 : Nat) * d
      let lim : Int := (s.rd Reg.CAL_TRIM_CFG_STEP_MAX 0 * 1024 : Nat)
      let v := sat 24 (s.rdS Reg.LPE_PRM_VALUE (2560 + h) + clampInt (-lim) lim change)
      let s1 := s.putCal 2 h { u with pending := false, running := true, staged := [unsignedOf 32 v] }
      .next (if clampInt (-lim) lim change ≠ change then s1.raise 0x0D02 [2, h] else s1)

/-- CAL_TRIM_APPLY: TRIM_OFS is written once the head is not writing (R906). -/
def execCalTrimApply (n : Fin 128) (side : Fin 2) (s : State) : Res :=
  let h := headOf n side
  let u := s.cal 2 h
  if !u.running ∨ u.staged.isEmpty ∨ s.flag Reg.STN_HD_STATUS_WRITING h then .next s
  else
    let s1 := s.setPrm (2560 + h) (signed 32 (u.staged.getD 0 0))
    .next (((s1.set1 Reg.CAL_HEAD_TRIM_VALID h).showTempRun h).calDone 2 h u.staged)

/-! ### Stored results (R798, R799, R911) -/

/-- KEY and value of a unit's results. DESIGN CHOICE, assumption 180. -/
def calRecord (kind inst : Nat) (value : List Nat) : Nat × List Nat :=
  if kind = 0 then (0x100 + inst, value) else if kind = 1 then (0x400 + inst, value) else (0x600 + inst, bytesLE 4 (value.getD 0 0))

/-- A record is written at an index and committed in its last group. -/
def State.writeSetting (s : State) (i : Nat) (x : Setting) : State :=
  let n := groupsOf x.bytes.length
  (s.programList i (settingWords x n)).programNow (i + 4 * (n - 1)) (settingHead x.key x.format x.bytes.length)

/-- A record is appended to CALIB. DEDUCED, assumption 151. -/
def State.appendCalib (s : State) (key : Nat) (bytes : List Nat) : Option State :=
  (s.ringPlace 148 164 (4 * groupsOf bytes.length)).map fun x => x.2.writeSetting x.1
    { key := key, format := 1, bytes := bytes }

/-- The records of a sector that are in force. -/
def State.liveIn (s : State) (sec : Nat) : List Setting :=
  (s.settingsIn 0 (s.fwords (secWord sec + 1) (secWord (sec + 1)))).filter fun x => s.calibInForce x.key == some x

/-- Once the newest sector is the last that was erased, the records in force of the oldest one are written again in it and the oldest
one is erased (R798). -/
def State.tidyCalib (s : State) : State :=
  let old := s.ringNext 148 164
  if (s.ringSectors 148 164).isEmpty ∨ s.sectorBlank old ∨ s.flash.erase.isSome then s
  else
    let s1 := (s.liveIn old).foldl (fun t x =>
      match t.ringPlace 148 164 (4 * groupsOf x.bytes.length) with
      | some p => p.2.writeSetting p.1 x
      | none => t) s
    s1.startErase old 0 0

/-- An UNMOUNT is under way at a head's station. -/
def State.unmounting (s : State) (h : Nat) : Bool :=
  s.cmds.any fun c => c.op == opUnmount && c.phase == .started && c.stn == some (h / 2)

/-- CAL_STORE: firmware stores a unit's result that differs from its record, once an hour for a KEY, and at UNMOUNT (R911). -/
def execCalStore (kind : Fin 3) (inst : Fin 256) (s : State) : Res :=
  let u := s.cal kind inst
  let r := calRecord kind inst u.value
  let fresh := match u.storedAt with
    | some t => decide (t + 3600 * hz ≤ s.now) || (kind.val != 0 && s.unmounting inst)
    | none => true
  if !s.flag Reg.CAL_CTRL_STORE_EN 0 ∨ !s.fwRuns ∨ s.firm.booting ∨ s.flash.prog.isSome ∨ s.flash.pfDue ∨ u.value.isEmpty ∨ !fresh
      ∨ s.calib r.1 = some r.2 then .next s
  else
    match s.appendCalib r.1 r.2 with
    | none => .next s.tidyCalib
    | some t => .next (t.putCal kind inst { u with storedAt := some s.now }).tidyCalib

end Sys2Proof.Machine
end

