-- ==== Sys2Proof/Machine/Firmware.lean ====
section
/-!
DEFINITION. Firmware images: download, activation, KILN, the trial of an image and its confirmation (R914 to R934).
-/

namespace Sys2Proof.Machine

/-- The twin that GCTL_BOOT.ACTIVE_TWIN does not name (R917). -/
def State.spareTwin (s : State) : Nat := 1 - s.activeTwin

/-! ### Download (R917 to R922) -/

/-- The 4 KiB blocks of a range. -/
def blocksOf (off len : Nat) : List Nat := (upTo (len / 4096)).map fun i => off / 4096 + i

/-- Another FW_DOWNLOAD was accepted earlier (R921). DESIGN CHOICE, assumption 187. -/
def State.downloadAhead (s : State) (c : Cmd) : Bool :=
  s.cmds.any fun x => x.op == opFwDownload && decide (x.ord < c.ord) && x.phase != .fixed

/-- Sectors of the twin that a range touches and the session has not erased are erased, and the range is programmed (R920). -/
def State.writeImage (s : State) (off : Nat) (ws : List Nat) : State :=
  let base := twinSector s.spareTwin
  let secs := ((upTo 64).filter fun k => decide (k * 65536 < off + 8 * ws.length) && decide (off < (k + 1) * 65536) && !s.firm.erased.contains k)
  let s1 := secs.foldl (fun t k => t.eraseNow (base + k) 0 0) s
  let s2 := s1.programList (secWord base + off / 8) ws
  { s2 with firm := { s2.firm with erased := s2.firm.erased ++ secs } }

/-- FW_DOWNLOAD (R917 to R921). `words` is the range as host memory gives it, none where the read fails. DESIGN CHOICE, assumption
187. -/
def execFwDownload (q : BitVec 20) (tag : BitVec 12) (words : Option (List Nat)) (s : State) : Res :=
  match s.runnable q.toNat tag.toNat opFwDownload with
  | none => .next s
  | some c =>
    let off := c.get 16 4
    let len := c.get 20 4
    let bad := fun (f : Nat) => s.finish c.sq c.tag stInvalidField 0 0 f
    if s.downloadAhead c then .next s
    else if len = 0 then .next (bad 20)
    else
      let blocks := blocksOf off len
      let open_ := if off = 0 then some [] else s.firm.session
      match open_ with
      | none => .next (bad 16)
      | some done =>
        if blocks.any done.contains then .next (bad 16)
        else if s.flag Reg.GCTL_BOOT_TRIAL 0 then .next (s.fail c.sq c.tag stModeRefused)
        else if s.flash.prog.isSome ∨ s.flash.erase.isSome ∨ s.flash.pfDue then .next s
        else
          let s1 : State := if off = 0 then { s with firm := { s.firm with session := some [], erased := [] } } else s
          let s1 := s1.hostReads (s1.pasidOf c.grp) (c.flagBit 3) (c.get 32 8) len
          match words with
          | none => .next (s1.fail c.sq c.tag stHostAccess)
          | some ws =>
            if ws.length ≠ len / 8 then .next s
            else
              let s2 := s1.writeImage off ws
              let s3 : State := { s2 with firm := { s2.firm with session := some (done ++ blocks) } }
              .next (s3.fail c.sq c.tag stSuccess)

/-! ### Activation (R923 to R927) -/

/-- The session is over, and FW_ACTIVATE completes. -/
def State.endActivate (s : State) (q tag status : Nat) : State :=
  ({ s.dropSession with firm := { s.dropSession.firm with activate := none } } : State).fail q tag status

/-- Why an image is rejected (R923, R934): 1 incomplete, 2 header, 3 key hash, 4 signature. DESIGN CHOICE, assumption 188. -/
def State.rejectImage (s : State) (keyOk sigOk : Bool) : Option Nat :=
  match s.firm.session with
  | none => some 1
  | some done =>
    if !done.contains 0 then some 1
    else if !s.hdrOk s.spareTwin then some 2
    else if !((upTo (s.hdrLen s.spareTwin / 4096)).all done.contains) then some 1
    else if !keyOk then some 3
    else if !sigOk then some 4
    else none

/-- A TRIAL record names the inactive twin; a full SWAP_SEL is erased first and the twin in force set again (R793, R794). -/
def State.appendTrial (s : State) : State :=
  let twin := s.spareTwin
  let s1 := if (upTo 4096).all s.swapUsed.contains then
      let t := s.activeTwin
      (s.eraseNow 0 2 t).appendSwap t 1 (s.hdrVersion t / 65536)
    else s
  s1.appendSwap twin 0 (s1.hdrVersion twin / 65536)

/-- KILN is entered: the management cores restart through the boot ROM (R925). -/
def State.enterKiln (s : State) (q tag : Nat) : State :=
  let from_ := s.mode
  let s1 := s.arrive mKiln 4
  { s1 with pw := { s1.pw with kilnFrom := from_, dampAfterKiln := false }, ms := { s1.ms with trapped := [] },
            firm := { s1.firm with booting := true, activate := some (q, tag), kilnAt := some s1.now,
                                   ranLoops := s1.flag Reg.LPE_CTRL_RUN 0, healthFrom := none, logged := false } }

/-- FW_ACTIVATE (R919, R923, R924, R927). `keyOk` and `sigOk` are what the hash of PUBKEY and the signature show. DESIGN CHOICE,
assumptions 188 and 189. -/
def execFwActivate (q : BitVec 20) (tag : BitVec 12) (keyOk sigOk : Bool) (s : State) : Res :=
  match s.runnable q.toNat tag.toNat opFwActivate with
  | none => .next s
  | some c =>
    if s.flag Reg.GCTL_BOOT_TRIAL 0 then .next (s.dropSession.fail c.sq c.tag stModeRefused)
    else if (s.cmds.any fun x => x.op == opFwDownload && x.phase != .fixed) ∨ s.flash.prog.isSome ∨ s.flash.erase.isSome ∨ s.flash.pfDue
      then .next s
    else
      match s.rejectImage keyOk sigOk with
      | some why => .next ((s.raise 0x0E01 [why]).endActivate c.sq c.tag stFwInvalid)
      | none =>
        let hand := s.hdrHandoff s.spareTwin
        let s1 := s.appendTrial
        if hand = s.firm.handoff then .next ((s1.start c).enterKiln c.sq c.tag)
        else
          let s2 := (s1.raise 0x0E03 [s.firm.handoff, hand]).endActivate c.sq c.tag stSuccess
          .next { s2 with firm := { s2.firm with resetAt := some (s2.now + 10 * msCycles) } }

/-- GCTL_FW_VER as one number. -/
def State.shownVersion (s : State) : Nat :=
  s.rd Reg.GCTL_FW_VER_MAJOR 0 * 2 ^ 24 + s.rd Reg.GCTL_FW_VER_MINOR 0 * 2 ^ 16 + s.rd Reg.GCTL_FW_VER_BUILD 0

/-- KILN_END: the trial image has adopted the handoff state: the mode is again the one KILN was entered from, budgets that stood
still go on, a damping put off takes effect, moves that waited start, and FW_ACTIVATE completes (R320, R528, R869, R926). DESIGN CHOICE, assumption 188. -/
def execKilnEnd (s : State) : Res :=
  match s.firm.kilnAt, s.firm.activate with
  | some t0, some (q, tag) =>
    if s.mode ≠ mKiln ∨ s.firm.booting ∨ !s.flag Reg.GCTL_BOOT_TRIAL 0 then .next s
    else
      let d := s.now - t0
      let v := s.firm.version
      let old := s.shownVersion
      let s1 := ((s.wr Reg.GCTL_FW_VER_MAJOR 0 (v / 2 ^ 24)).wr Reg.GCTL_FW_VER_MINOR 0 (v / 2 ^ 16)).wr Reg.GCTL_FW_VER_BUILD 0 v
      let s2 : State := { s1 with cmds := s1.cmds.map fun c => { c with budgetFrom := c.budgetFrom.map fun b => b + d } }
      let s3 := (s2.arrive s2.pw.kilnFrom 4).raise 0x0E02 [old, v, d / msCycles]
      let s4 := ({ s3 with firm := { s3.firm with kilnAt := none } } : State).endActivate q tag stSuccess
      let damp := s4.pw.dampAfterKiln && s4.mode == mBurn
      let s5 : State := { s4 with pw := { s4.pw with dampAfterKiln := false } }
      .next (if damp then s5.thermDamp else s5).runHeld.noteHealth.settle
  | _, _ => .next s

/-- KILN_TIMEOUT: KILN has not ended 250 ms after its entry (R928). -/
def execKilnTimeout (s : State) : Res :=
  match s.firm.kilnAt with
  | none => .next s
  | some t =>
    if s.mode ≠ mKiln then .next s
    else
      let s1 := s.advanceTo (t + 250 * msCycles)
      .next ((s1.raise 0x0E04 [match s1.swapInForce with | some r => r.twin | none => s1.spareTwin]).requestReset 2)

/-- FW_ACTIVATE_RESET: the warm reset 10 ms after an activation with a differing HANDOFF (R927). -/
def execFwActivateReset (s : State) : Res :=
  match s.firm.resetAt with
  | none => .next s
  | some t =>
    let s1 := s.advanceTo t
    .next (({ s1 with firm := { s1.firm with resetAt := none } } : State).requestReset 2)

/-! ### The trial (R931, R932) -/

/-- TRIAL_CONFIRM: the trial image confirms itself once R931 has held for 10 s. -/
def execTrialConfirm (s0 : State) : Res :=
  let s := s0.noteHealth
  match s.firm.healthFrom, s.swapInForce with
  | some t, some r =>
    if !s.flag Reg.GCTL_BOOT_TRIAL 0 ∨ s.flash.prog.isSome then .next s
    else
      let s1 := s.advanceTo (t + 10 * hz)
      let i := 2 * r.j + 1
      let s2 := (s1.programNow i ((s1.fword i).data % 2 ^ 63)).clr Reg.GCTL_BOOT_TRIAL 0
      let secs := (s2.now - s2.firm.trialAt.getD s2.now) / hz
      let s3 := s2.raise 0x0E05 [r.twin, s2.firm.version, secs]
      .next { s3 with firm := { s3.firm with trialAt := none } }
  | _, _ => .next s

/-- TRIAL_TIMEOUT: 90 s after the boot ROM started the trial image it is not confirmed (R932). -/
def execTrialTimeout (s : State) : Res :=
  match s.firm.trialAt with
  | none => .next s
  | some t =>
    if !s.flag Reg.GCTL_BOOT_TRIAL 0 then .next s else .next ((s.advanceTo (t + 90 * hz)).requestReset 2)

end Sys2Proof.Machine
end

