-- ==== Sys2Proof/Machine/Operands.lean ====
section
/-!
DEFINITION. What a read of BAR0 returns: the fields that show something the state holds elsewhere, registers as words, and reads
of any width (R12, R17, R18, R20).
-/

namespace Sys2Proof.Machine

/-! ### Fields that show what the state holds elsewhere -/

/-- A field, and what its instance shows. -/
structure Shown where
  fld : Fld
  val : Nat

/-- Word i of the ring entry that EVT_RD_SEQ names (R885, EVT_RD_DATA). -/
def State.shownEvent (s : State) (i : Nat) : Nat :=
  match s.ev.ring.find? fun e => e.seq == s.rd Reg.EVT_RD_SEQ_SEQ 0 with
  | none => 0
  | some e =>
    let w := (entryWords e).getD (i / 2) 0 + (if i / 2 = 0 ∧ Config.ringCommitN e.seq then 2 ^ 63 else 0)
    bitsOf w (32 * (i % 2)) 32

/-- The milliseconds since step 1 of the erase in progress or suspended (R787). DESIGN CHOICE, assumption 147. -/
def State.erasePend (s : State) : Nat :=
  match s.flash.erase with
  | some e => min (2 ^ 32 - 1) ((s.now - e.from_) / msCycles)
  | none => 0

/-- Value i mod 18 of LPE_STATE of slot i div 18, in 48 bits: a section's s1 and s2 in turn, I, y_prev (R377). DESIGN CHOICE,
assumption 229. -/
def State.loopStateShown (s : State) (i : Nat) : Nat :=
  let x := s.lslot (i / 18)
  let j := i % 18
  unsignedOf 48 (if j = 16 then x.i else if j = 17 then x.y else (if j % 2 = 0 then x.s1 else x.s2).getD (j / 2) 0)

/-- Signal i mod 4 of slot i div 4 as published: at phase 2,400 of the period of its run (R353). -/
def State.signalShown (s : State) (i : Nat) : Nat :=
  let late := s.lin % 5000 < 2400
  match (s.lslot (i / 4)).pubs.find? fun p => !(late && p.1 == s.period) with
  | some p => unsignedOf 32 (p.2.getD (i % 4) 0)
  | none => 0

/-- POS and SPEED of an axis: of its plan where it has one that runs, at the last step that has fallen (R530). -/
def State.axShown (s : State) (a : Nat) : Int × Nat :=
  match (s.axis a).plan, (s.axis a).plan.bind Plan.at_ with
  | some p, some t0 =>
    let m := p.reached t0 s.now 32 0
    let d : Int := m
    (if p.a ≤ p.b then p.a + d else p.a - d, if s.now < t0 then 0 else p.speedFrom m)
  | _, _ => (s.axPos a, s.rd Reg.MOT_AX_STATUS_SPEED a)

/-- LPE_STATUS.STATE: the safe program's states stand; else the engine runs or is stopped (R375, R376). DESIGN CHOICE, assumption
197. -/
def State.loopShown (s : State) : Nat :=
  let st := s.rd Reg.LPE_STATUS_STATE 0
  if 2 ≤ st then st else if s.loopsRun then 1 else 0

/-- Accounts with counts in the open interval. -/
def State.accountsActive (s : State) : Nat := (s.tally.open_.filter fun p => p.2.any (· != 0)).length

/-- The open total of a counter over all accounts (TALLY_SUM). -/
def State.openSum (s : State) (i : Nat) : Nat := s.tally.open_.foldl (fun n p => n + p.2.getD i 0) 0

/-- At least one account carries (R840). -/
def State.carrying (s : State) : Bool := s.tally.closing.any fun p => p.2.carried

/-- Calibration runs pending, and port runs that hold an engine (CAL_STATUS). -/
def State.calPending (s : State) : Nat := (s.cals.filter fun p => p.2.pending).length
def State.calRunning (s : State) : Nat := (s.cals.filter fun p => p.2.running && decide (p.1 < 512)).length

/-- Is this cell in the stack's time: the master, or a slave that holds stack TIME?. DESIGN CHOICE, assumption 99. -/
def State.stackUp (s : State) : Bool := s.cs == csMaster || s.rd Reg.TIME_STATUS_STATE 0 == 4

/-- The fields of instance i that show what the state holds elsewhere, each with its value. -/
def State.shown (s : State) (i : Nat) : List Shown := [
  ⟨Reg.GCTL_REV_SEALED, if s.sealed then 1 else 0⟩,
  ⟨Reg.GCTL_REV_ORDER_S, if Config.orderS then 1 else 0⟩,
  ⟨Reg.GCTL_SERIAL_LO_SERIAL, Config.serial.toNat % 2 ^ 32⟩,
  ⟨Reg.GCTL_SERIAL_HI_SERIAL, Config.serial.toNat / 2 ^ 32⟩,
  ⟨Reg.GCTL_STATUS_STACK_UP, if s.stackUp then 1 else 0⟩,
  ⟨Reg.TIME_NOW_SEC, s.tb.sec⟩,
  ⟨Reg.TIME_NOW_TICK, s.tb.tick⟩,
  ⟨Reg.TIME_FREQ_FREQ, unsignedOf Reg.TIME_FREQ_FREQ.w s.correction⟩,
  ⟨Reg.TIME_STATUS_FREQ_LIM, if s.atLimit then 1 else 0⟩,
  ⟨Reg.LPE_STATUS_STATE, s.loopShown⟩,
  ⟨Reg.LPE_STATE_VALUE, s.loopStateShown i⟩,
  ⟨Reg.MOT_AX_POS_VALUE, unsignedOf 32 (s.axShown i).1⟩,
  ⟨Reg.MOT_AX_STATUS_SPEED, min 65535 (s.axShown i).2⟩,
  ⟨Reg.LPE_SIG_VALUE, s.signalShown i⟩,
  ⟨Reg.HEP_ATC_VALID, s.hep.atc.length⟩,
  ⟨Reg.HEP_ATC_PINNED, s.pinnedCount⟩,
  ⟨Reg.CMDQ_STATUS_INFLIGHT, s.cmds.length⟩,
  ⟨Reg.CMDQ_STATUS_GROUPS_EN, (s.grps.filter fun p => p.2.en).length⟩,
  ⟨Reg.BPM_POOL_FREE_FREE, s.poolFree i⟩,
  ⟨Reg.BPM_SQ_USE_USED, s.charge (s.rd Reg.BPM_SQ_SEL_SQ 0)⟩,
  ⟨Reg.MEMC_CACHE_STAT_MERGE_USED, s.ms.merge.length⟩,
  ⟨Reg.FLC_STATUS_PF_ACTIVE, if s.flash.pfDue then 1 else 0⟩,
  ⟨Reg.FLC_ERASE_PEND_MS, s.erasePend⟩,
  ⟨Reg.TALLY_STATUS_CARRYING, if s.carrying then 1 else 0⟩,
  ⟨Reg.TALLY_STATUS_SEALED, if s.sealed then 1 else 0⟩,
  ⟨Reg.TALLY_FREE_FREE, s.tallyFree⟩,
  ⟨Reg.TALLY_ACCOUNTS_CARRIED, s.tally.closing.length⟩,
  ⟨Reg.TALLY_ACCOUNTS_ACTIVE, s.accountsActive⟩,
  ⟨Reg.TALLY_SUM_SUM, s.openSum i⟩,
  ⟨Reg.TALLY_NEWEST_SEQ, s.newestSeq⟩,
  ⟨Reg.TALLY_OLDEST_SEQ, s.oldestSeq⟩,
  ⟨Reg.TALLY_ROM_CRC_CRC, Config.romCrc.toNat⟩,
  ⟨Reg.EVT_STATUS_HELD, s.ev.ring.length⟩,
  ⟨Reg.EVT_NEWEST_SEQ, s.ev.seq⟩,
  ⟨Reg.EVT_RD_DATA_DATA, s.shownEvent i⟩,
  ⟨Reg.CAL_STATUS_PENDING, min 511 s.calPending⟩,
  ⟨Reg.CAL_STATUS_LINK_RUNNING, s.calRunning⟩]

/-- What a read of a field's instance returns: 0 for a write-only field (R12). -/
def State.look (s : State) (f : Fld) (i : Nat) : Nat :=
  if f.ty = .wo then 0
  else
    match (s.shown i).find? fun x => x.fld.id == f.id with
    | some x => x.val % 2 ^ f.w
    | none => s.rd f i

/-! ### Registers and accesses -/

/-- The fields of the register that begins at an offset, with their instance. -/
def fieldsAt (a : Nat) : List (Fld × Nat) := Reg.table.filterMap fun f => (f.indexAt a).map fun i => (f, i)

/-- An offset of BAR0 in the doorbells of the 1,024 pages (R43). -/
def isDoorbell (a : Nat) : Bool := decide (0x1000000 ≤ a) && decide (a < 0x1400000) && decide (a % 4096 < 512)

/-- The CXL component registers, R40. DESIGN CHOICE, assumption 195. -/
def isComponent (a : Nat) : Bool := decide (0x1800000 ≤ a) && decide (a < 0x1810000)

/-- The width in bytes of the register that begins at an offset, 0 where none does. -/
def widthAt (a : Nat) : Nat :=
  if isDoorbell a then (if a % 8 = 0 then 8 else 0)
  else
    match fieldsAt a with
    | (f, _) :: _ => f.size / 8
    | [] => 0

/-- The value of the register that begins at an offset; reserved bits read 0 (R17). -/
def State.regValue (s : State) (a : Nat) : Nat := (fieldsAt a).foldl (fun v p => v + s.look p.1 p.2 * 2 ^ p.1.lo) 0

/-- The start of the register that covers a byte of BAR0, where one does. -/
def regStart (a : Nat) : Option Nat :=
  let w := a - a % 4
  if widthAt w ≠ 0 then some w
  else if 4 ≤ w ∧ widthAt (w - 4) = 8 then some (w - 4)
  else none

/-- The aligned 32-bit word of BAR0 that holds an offset; reserved offsets read 0 (R18). -/
def State.word32 (s : State) (a : Nat) : Nat :=
  let w := a - a % 4
  match regStart w with
  | some r => bitsOf (s.regValue r) (8 * (w - r)) 32
  | none => 0

/-- What a read of some bytes of BAR0 returns, byte for byte (R20). -/
def State.readBytes (s : State) (a n : Nat) : List Nat :=
  let w := a - a % 4
  let words := (upTo ((n + a % 4 + 3) / 4)).flatMap fun i => bytesLE 4 (s.word32 (w + 4 * i))
  (words.drop (a % 4)).take n

/-- A register, by the field that names it, as it reads. -/
def State.regOf (s : State) (f : Fld) : Nat := s.regValue f.base

end Sys2Proof.Machine
end

