-- ==== Sys2Proof/Machine/Mount.lean ====
section
/-!
DEFINITION. MOUNT, UNMOUNT, MOVE and INVENTORY, and what a mount reads from the disc (R218 to R237, R402, R411, R417 to R419, R522 to
R524, R559 to R563, R663 to R665, R807 to R809, R966).
-/

namespace Sys2Proof.Machine

/-! ### The management records of a side (R220 to R236) -/

/-- A sound frame of the management area: its index, the DISC_ID of its header, the bytes of its record (R218, R219). -/
structure MgmtFrame where
  idx : Nat
  disc : Nat
  bytes : List Nat
deriving DecidableEq, Repr

/-- Both copies of a side as a mount read them, with the indices that follow the last slot of each that is not BLANK. -/
structure MgmtArea where
  a : List MgmtFrame
  b : List MgmtFrame
  nextA : Nat
  nextB : Nat
deriving DecidableEq, Repr

/-- What an index of a copy gave: its slot is not BLANK; a frame of this address that is flagged MGMT and passes (R195, R218, R219).
DISC_ID is compared with the disc's once that is known. -/
def mgmtRead (side copy idx : Nat) (r : SlotRead) : Bool × Option MgmtFrame :=
  let e := slotSoft r
  let o := decodeSoft 32 e [] fun _ => none
  let (slot, layer) := mgmtPlace copy idx
  let pfa := pfaOf slot layer side true
  let hdr := o.hdr <|> shiftedHeader e
  let f := hdr.bind fun h => slotFrame e o pfa (hdrDiscId h)
  (!((r.rows.all fun x => x.score < 56) && o.copies == 0),
   f.bind fun x => if hdrMgmt x.1 then some { idx := idx, disc := hdrDiscId x.1, bytes := x.2 } else none)

/-- A copy, read from index 0 to its first BLANK slot (R230). -/
def mgmtCopy (side copy : Nat) (l : List SlotRead) : List MgmtFrame × Nat :=
  let rs := (l.zipIdx.map fun p => mgmtRead side copy p.2 p.1).takeWhile Prod.fst
  (rs.filterMap Prod.snd, rs.length)

/-- Both copies of a side. -/
def mgmtArea (side : Nat) (m : MgmtSide) : MgmtArea :=
  let a := mgmtCopy side 0 m.a
  let b := mgmtCopy side 1 m.b
  { a := a.1, b := b.1, nextA := a.2, nextB := b.2 }

/-- Fields of a record's header, R220. -/
def MgmtFrame.type (f : MgmtFrame) : Nat := valueAt f.bytes 6 2
def MgmtFrame.seqNo (f : MgmtFrame) : Nat := valueAt f.bytes 8 4
def MgmtFrame.discId (f : MgmtFrame) : Nat := valueAt f.bytes 16 8

/-- MAGIC, FORMAT and DISC_ID are correct, that of the frame's header with it (R195, R220). -/
def MgmtFrame.sound (id : Nat) (f : MgmtFrame) : Bool :=
  valueAt f.bytes 0 4 == 0x4D475231 && valueAt f.bytes 4 2 == 1 && f.discId == id && f.disc == id

/-- The records of both copies, copy A first, without those beyond a FINALISE record (R236). -/
def MgmtArea.usable (m : MgmtArea) (id : Nat) : List MgmtFrame :=
  let l := (m.a ++ m.b).filter (MgmtFrame.sound id)
  match (l.filter fun f => f.type == 3).map MgmtFrame.seqNo with
  | [] => l
  | q :: r => let last := r.foldl min q; l.filter fun f => decide (f.seqNo ≤ last)

/-- The record in force: the highest SEQUENCE; of equal ones, copy A's (R230). -/
def MgmtArea.inForce (m : MgmtArea) (id : Nat) : Option MgmtFrame :=
  (m.usable id).foldl (fun o f =>
    match o with
    | none => some f
    | some g => if g.seqNo < f.seqNo then some f else some g) none

/-- The DISC_ID that an IDENTITY record of a side carries. -/
def MgmtArea.ident (m : MgmtArea) : Option Nat :=
  ((m.a ++ m.b).find? fun f => f.type == 1 && f.seqNo == 1 && f.sound f.discId).map MgmtFrame.discId

/-- Slip lists of a record, one after another (R227). -/
def slipLists : Nat → List Nat → List (Nat × List Nat)
  | 0, _ => []
  | n + 1, bs =>
    let c := valueAt bs 2 2
    (valueAt bs 0 2, (upTo c).map fun i => valueAt bs (4 + 2 * i) 2) :: slipLists n (bs.drop (4 + 2 * c))

/-- The slip list of an entry in a record. -/
def MgmtFrame.slipsOf (f : MgmtFrame) (e : Nat) : Option (List Nat) :=
  mfind (slipLists (valueAt f.bytes 16480 2) (f.bytes.drop 16482)) e

/-- A zone table entry of a record, R225. -/
structure ZoneRead where
  state : ZState
  slips : Nat
  frames : Nat
  frontier : Nat
  slipRec : Nat
  closeTime : Nat

def MgmtFrame.entry (f : MgmtFrame) (e : Nat) : ZoneRead :=
  let b := (f.bytes.drop (96 + 16 * e)).take 16
  { state := ZState.ofCode (valueAt b 0 1), slips := valueAt b 1 1, frames := valueAt b 2 2, frontier := valueAt b 4 2,
    slipRec := valueAt b 8 4, closeTime := valueAt b 12 4 }

/-- DISC_ID as read: side A's IDENTITY record fixes it (R222); 0 for an uninitialised disc. -/
def discIdRead (a b : MgmtArea) : Nat := (a.ident <|> b.ident).getD 0

/-- The slips of a zone rebuilt from its slots alone (R965): what is not the last VALID slot of its ZONE_SEQ. -/
def rebuildSlips (z : ZoneRead) (found : List SlotFound) : List Nat :=
  let l := ((found.take z.frontier).takeWhile fun x => x != .blank).zipIdx
  let seqOf := fun (x : SlotFound) => match x with | .valid q _ => some q | _ => none
  (l.filter fun p =>
    match seqOf p.1 with
    | none => true
    | some q => ((z.state == .closed || z.state == .short) && decide (z.frames ≤ q))
        || l.any fun r => decide (p.2 < r.2) && seqOf r.1 == some q).map Prod.snd

/-- A source with a slip list merged into a zone (R807). DESIGN CHOICE, assumption 42. -/
def Zone.mergeList (z : Zone) (frontier : Nat) (slips : List Nat) (st : ZState) : Zone :=
  let y := z.merge frontier none st
  let l := (slips.foldl addSlip y.slips).filter (· < y.frontier)
  { y with slips := l, frames := y.frontier - l.length, acc := y.frontier - l.length }

/-- A zone as the record in force of its side gives it, with the list its SLIP_REC names; a list that no record holds is taken
from the catalogue, or rebuilt and journalled (R807, R966). A finalised side's record prevails. DESIGN CHOICE, assumption 42. -/
def State.takeZone (s : State) (zk : Nat) (z : ZoneRead) (list : Option (List Nat)) (found : List SlotFound) (final : Bool) : State :=
  let old := s.zone zk
  if z.state = .blank then
    (if old.state = .blank then s else s.putZone zk { old with changed := true, listDue := !old.slips.isEmpty })
  else
    let lost := z.slips ≠ 0 ∧ list.isNone
    let again := lost ∧ old.slips.length ≠ z.slips
    let slips := if z.slips = 0 then [] else if lost then (if again then rebuildSlips z found else old.slips) else list.getD []
    let y := if final then { old with state := z.state, slips := slips, frames := z.frames, frontier := z.frontier, acc := z.frames }
      else old.mergeList z.frontier slips z.state
    let new := y.frontier ≠ z.frontier ∨ y.slips.length ≠ z.slips ∨ y.state ≠ z.state
    let s1 := s.putZone zk { y with slipRec := z.slipRec, closeTime := z.closeTime, changed := decide new || decide lost,
                                    listDue := decide lost || decide (y.slips.length ≠ z.slips) }
    if again then slips.foldl (fun t o => t.journalSlip zk o) s1 else s1

/-- What a side's records say of it. `rebuilt` gives the slots of zones whose slip lists are lost, by entry. DESIGN CHOICE,
assumptions 42 and 43. -/
def State.takeSide (s : State) (d side id : Nat) (m : MgmtArea) (rebuilt : List (Nat × List SlotRead)) : State :=
  let recs := m.usable id
  let x := s.disc d
  let sd := x.side side
  match m.inForce id with
  | none => s.putDisc d (x.setSide side { sd with identity := false, seqNo := 0, idxA := m.nextA, idxB := m.nextB })
  | some f =>
    let in_ := fun (l : List MgmtFrame) => l.any fun g => g.sound id && g.seqNo == f.seqNo
    let final := f.type == 3
    let sd1 := { sd with identity := recs.any fun g => g.type == 1, finalised := final, seqNo := f.seqNo, idxA := m.nextA, idxB := m.nextB,
                         missA := !in_ m.a, missB := !in_ m.b, force := f.bytes,
                         pca := if f.type = 1 then sd.pca else (upTo 16).map fun l => (l, valueAt f.bytes (64 + 2 * l) 2) }
    let s1 := s.putDisc d (x.setSide side sd1)
    if f.type = 1 then s1
    else
      (upTo 1024).foldl (fun t e =>
        let z := f.entry e
        let holder := recs.find? fun g => g.seqNo == z.slipRec
        t.takeZone (zoneKey d side 0 0 + e) z (holder.bind fun g => g.slipsOf e) (t.classes (zoneKey d side 0 0 + e) 0 (mget [] rebuilt e)) final) s1

/-! ### The end of a mount -/

/-- The snapshot in force is CLEAN and no journal record of the disc lies after its JOURNAL_POS (R809). DESIGN CHOICE, assumption
44. -/
def State.cleanAtMount (s : State) (d : Nat) : Bool :=
  d / 4096 == s.cell && (match s.snapOf (d % 4096) with | some ws => bitOf (ws.headD 0) 51 | none => false)
    && !(s.jq.any fun j => match j.zone with | some zk => zoneDisc zk == d | none => false)
    && !(((s.ringSectors 356 612).flatMap fun q => (dropInner 0 (s.recordsIn q.2)).map fun r => (q.1, r.1)).any fun r =>
          s.recordDisc r.2 == some d && afterPos (s.snapPos d) r.1 (r.2 % sectorWords))

/-- A disc that is not the one the catalogue knows in its slot: what was known is discarded, the disc bound without an owner, and
DISC_MISMATCH raised (R808). DESIGN CHOICE, assumption 89. -/
def State.rebind (s : State) (d id : Nat) : State :=
  let x := s.disc d
  let s1 : State := { s with zones := s.zones.filter fun p => zoneDisc p.1 != d }
  let s2 := s1.putDisc d { x with discId := id, owner := 0xFFFF, a := {}, b := {} }
  (s2.journal { words := [], type := 8, info := [d / 4096, d % 4096, id, 0xFFFF] }).raise 0x0B0B ((d % 4096) :: w2 id)

/-- The sequencer's part of a mount: WPWR.VALID and calibration marks fall, CALIB values are loaded, calibration becomes due (R402,
R411, R894, R910). -/
def State.mountHead (s : State) (h : Nat) : State :=
  let s1 := (upTo 16).foldl (fun t l => t.clr Reg.STN_HD_WPWR_VALID (layerIdx h l)) s
  let s2 := (s1.loadHead h).putHead h { (s1.loadHead h).head h with lastOpc := [], opcBad := [] }
  let s3 := (s2.clr Reg.CAL_HEAD_VALID h).clr Reg.CAL_HEAD_TRIM_VALID h
  if s3.hd h = hdReady then (s3.armCal 1 h).armCal 2 h else s3

/-- The heads that take part in a mount (R419). -/
def State.mountHeads (s : State) (n : Nat) : List Nat := [2 * n, 2 * n + 1].filter fun h => s.flag Reg.STN_HD_CTRL_EN h

/-- The MOUNT of a disc ends: in this cell, or by word to the master (R560, R663). RESULT_A is in the form of STATION. -/
def State.endMount (s : State) (d n : Nat) : State :=
  let res := n + s.cell * 256
  match s.cmds.find? fun c => c.op == opMount && c.disc == some d && c.phase == .started && c.away.isNone with
  | some c => s.finish c.sq c.tag stSuccess res 0 0
  | none => if s.lib.guests.contains d then s.ringSend 0 0x09 [3, d, stSuccess, res] else s

/-- MOUNT_COMPLETE: the enabled heads of a station are READY; the records of both copies are read, and the mount ends (R417 to
R419, R808, R809). A side whose head takes no part is not read. DESIGN CHOICE, assumptions 43 and 89. -/
def execMountComplete (n : Fin 128) (a b : MgmtSide) (rebuiltA rebuiltB : List (Nat × List SlotRead)) (s : State) : Res :=
  let hs := s.mountHeads n
  if !s.mounting n ∨ !s.flag Reg.STN_SP_STATUS_AT_SPEED n ∨ !(hs.all fun h => s.hd h == hdReady) then .next s
  else
    match s.discIn n with
    | none => .next s
    | some d =>
      let blank : MgmtArea := { a := [], b := [], nextA := 0, nextB := 0 }
      let here := fun (i : Nat) => hs.contains (2 * n.val + i)
      let ma := if here 0 then mgmtArea 0 a else blank
      let mb := if here 1 then mgmtArea 1 b else blank
      let id := discIdRead ma mb
      let s0 := [2 * n.val, 2 * n.val + 1].foldl (fun t h => t.mountHead h) s
      let other := !hs.isEmpty && (s.disc d).discId != id
      let clean := !other && s.cleanAtMount d
      let s1 := if !other then s0 else if d / 4096 = s.cell then s0.rebind d id else s0.putDisc d { s0.disc d with discId := id }
      let s2 := if here 0 then s1.takeSide d 0 id ma rebuiltA else s1
      let s3 := if here 1 then s2.takeSide d 1 id mb rebuiltB else s2
      let due := fun (p : Nat × Zone) => if zoneDisc p.1 == d && p.2.state == .open_ then (p.1, { p.2 with resolve := true }) else p
      let s4 : State := if clean then s3 else { s3 with zones := s3.zones.map due }
      let s5 := s4.putDisc d { s4.disc d with mounted := true }
      .next (s5.endMount d n).settle

/-! ### MOUNT (R559 to R563, R663) -/

/-- A station of this cell could take a disc: it is fitted, ACTIVE and in service, and neither it nor its heads are in FAULT. -/
def State.stationUsable (s : State) (n : Nat) : Bool :=
  s.active n && s.flag Reg.STN_LINK_CTRL_ENABLE n && !s.flag Reg.STN_LINK_STATUS_FE_SAFE n && s.spState n != spFault
    && ([2 * n, 2 * n + 1].all fun h => s.hd h != hdFault)

/-- A disc stands in a station of a cell, as far as the catalogue knows; in this cell's own, or in one that the master serves. -/
def State.stationHolds (s : State) (cell n : Nat) : Bool :=
  s.discs.any fun p => p.2.known && (if cell = s.cell then p.2.loc == .station n else p.2.loc == .other cell n)

/-- Stations that AUTO may pick, in order: those of the home cell, then in a shared library those of the other cells. DESIGN
CHOICE, assumption 88. -/
def State.autoOrder (s : State) (home : Nat) : List (Nat × Nat) :=
  let cells := if s.shared then home :: ((upTo 8).filter fun c => c != home && s.member c) else [home]
  cells.flatMap fun c => (upTo (s.stnsOf c)).map fun n => (c, n)

/-- A station is ready to take a disc. The state of stations of other cells is theirs: this cell takes one that holds no disc. -/
def State.stationReady (s : State) (cell n : Nat) : Bool :=
  !s.stationHolds cell n && !s.stationNamed cell n && (cell != s.cell || s.stationUsable n)

/-- Where a MOUNT goes, or how it ends (status and FIELD). DESIGN CHOICE, assumption 86. -/
def State.mountTarget (s : State) (home st : Nat) : (Nat × Nat) ⊕ (Nat × Nat) :=
  let n := st % 128
  let cell := bitsOf st 8 3
  if bitOf st 15 then
    match (s.autoOrder home).find? fun p => s.stationReady p.1 p.2 with
    | some p => .inl p
    | none => .inr (stStationFault, 0)
  else if !s.member cell ∨ s.stnsOf cell ≤ n ∨ (cell ≠ home ∧ !s.shared) then .inr (stInvalidField, 24)
  else if s.stationHolds cell n then .inr (stInvalidField, 24)
  else if s.stationNamed cell n then .inr (stBusyMoving, 0)
  else if cell = s.cell ∧ !s.stationUsable n then .inr (stStationFault, 0)
  else .inl (cell, n)

/-- A command that names a disc with an open transfer record, or a lost one, ends (R522, R525). DESIGN CHOICE, assumption 87. -/
def State.discBlocked (s : State) (d : Nat) : Option Nat :=
  if s.discMoving d ∨ (s.lib.transfers.any fun t => t.disc == d) then some stBusyMoving
  else match (s.disc d).loc with
    | .lost => some stLibraryFault
    | .picker _ => some stBusyMoving
    | _ => none

/-- MOUNT (R417, R663): a transfer to the station is asked for; a disc mounted already answers with its station, and one that
stands clamped and unmounted is spun up where it is. DESIGN CHOICE, assumption 86. -/
def execMount (q : BitVec 20) (tag : BitVec 12) (s : State) : Res :=
  match s.runnable q.toNat tag.toNat opMount with
  | none => .next s
  | some c =>
    let d := aaddrDisc c.aaddr
    let x := s.disc d
    match s.discBlocked d with
    | some st => .next (s.fail c.sq c.tag st).settle
    | none =>
      match x.loc with
      | .other cell n => .next (s.finish c.sq c.tag stSuccess (n + cell * 256) 0 0).settle
      | .station n =>
        if x.mounted then .next (s.finish c.sq c.tag stSuccess (n + s.cell * 256) 0 0).settle
        else .next ((s.start c).mountStart n).settle
      | _ =>
        match s.mountTarget (d / 4096) (c.get 24 2) with
        | .inr (st, f) => .next (s.finish c.sq c.tag st 0 0 f).settle
        | .inl (cell, n) =>
          .next ((s.start c).askTransfer { id := 0, cmd := some (c.sq, c.tag), disc := d, src := locSlot (d % 4096), srcCell := d / 4096,
                                           dst := locStation n, dstCell := cell, kind := 0 }).settle

/-! ### UNMOUNT, MOVE and INVENTORY -/

/-- UNMOUNT (R664): the stages of it follow; a disc in a station of another cell is readied there first (R560). -/
def execUnmount (q : BitVec 20) (tag : BitVec 12) (s : State) : Res :=
  match s.runnable q.toNat tag.toNat opUnmount with
  | none => .next s
  | some c =>
    let d := aaddrDisc c.aaddr
    match s.discBlocked d, (s.disc d).loc with
    | some st, _ => .next (s.fail c.sq c.tag st).settle
    | none, .station n =>
      let s1 := ((s.start c).resumeZones c.flushes).updCmd c.sq c.tag fun y => { y with stn := some n, disc := some d, stage := 0 }
      let hs := s1.headsOf ((s1.held.filter fun h => c.flushes h.zone).map (·.zone))
      let s2 := hs.foldl (fun t h => (t.wantSlice h true).wake (h / 2)) s1
      .next (if [0, 1].any fun i => s2.sideChanged d i && ((s2.disc d).side i).writable then s2.wake n else s2).settle
    | none, .other cell _ =>
      if !s.reach cell then .next (s.fail c.sq c.tag stStackUnavailable).settle
      else
        let s1 := (s.start c).updCmd c.sq c.tag fun y => { y with away := some cell, disc := some d }
        .next (s1.ringSend cell 0x09 [4, d, c.sq, c.tag])
    | none, _ => .next (s.fail c.sq c.tag stDiscNotMounted).settle

/-- A slot is home to a disc of its cell. DESIGN CHOICE, assumption 87. -/
def State.homeOf (s : State) (cell slot : Nat) : Bool := (s.disc (cell * 4096 + slot)).known

/-- MOVE (R523, R665): from the home slot to a slot that is home to no disc. DESIGN CHOICE, assumption 116. -/
def execMove (q : BitVec 20) (tag : BitVec 12) (s : State) : Res :=
  match s.runnable q.toNat tag.toNat opMove with
  | none => .next s
  | some c =>
    let d := aaddrDisc c.aaddr
    let dst := c.get 24 2
    match s.discBlocked d with
    | some st => .next (s.fail c.sq c.tag st).settle
    | none =>
      if (s.disc d).loc ≠ .home then .next (s.finish c.sq c.tag stInvalidField 0 0 16).settle
      else if s.homeOf (d / 4096) dst then .next (s.finish c.sq c.tag stInvalidField 0 0 24).settle
      else
        .next ((s.start c).askTransfer { id := 0, cmd := some (c.sq, c.tag), disc := d, src := locSlot (d % 4096), srcCell := d / 4096,
                                         dst := locSlot dst, dstCell := d / 4096, kind := 2 }).settle

/-- INVENTORY (R524, R665): a scan of a range of slots begins, after one in progress. DESIGN CHOICE, assumption 90. -/
def execInventory (q : BitVec 20) (tag : BitVec 12) (s : State) : Res :=
  match s.runnable q.toNat tag.toNat opInventory with
  | none => .next s
  | some c =>
    if s.lib.inv.isSome then .next s
    else
      let first := c.get 16 2
      let n := if c.get 18 2 = 0 then s.slotsOf (c.get 20 1) - first else c.get 18 2
      let s1 := (s.start c).firstAction (some (c.sq, c.tag))
      .next { s1 with lib := { s1.lib with inv := some (first, n, some (c.sq, c.tag)) } }

end Sys2Proof.Machine
end

