-- ==== Sys2Proof/Machine/Admin.lean ====
section
/-!
DEFINITION. The information, time, tally, mode and station commands (R332 to R334, R666 to R674, R846 to R848, R857, R858, R888, R963).
-/

namespace Sys2Proof.Machine

/-! ### What a command writes to host memory -/

/-- Bytes go to host memory for a command: at once, or by way of the cell that received it. -/
def State.toHostMem (s : State) (c : Cmd) (addr : Nat) (bytes : List Nat) : State :=
  if bytes.isEmpty then s
  else
    match c.origin with
    | none => s.hostWrites (s.pasidOf c.grp) (c.flagBit 3) addr bytes
    | some cell => s.ringSend cell 0x07 ([homeSq c.sq, c.tag, 65535, 0, addr] ++ bytes)

/-- A command of the information family ends with what it writes at HOST_ADDR; RESULT_A counts it as the table of R650 says.
DESIGN CHOICE, assumption 129. -/
def State.answer (s : State) (c : Cmd) (bytes : List Nat) (a b : Nat) : State :=
  ((s.toHostMem c (c.get 32 8) bytes).finish c.sq c.tag stSuccess a b 0).settle

/-! ### IDENTIFY (R666) -/

/-- DRAM fitted, in MiB. -/
def State.dramMiB (s : State) : Nat := (s.rangeSize + hdmBase) / 2 ^ 20

/-- CNS 0: the controller. -/
def State.identController (s : State) : List Nat :=
  [Reg.GCTL_ID_PART, Reg.GCTL_REV_BASE, Reg.GCTL_SERIAL_LO_SERIAL, Reg.GCTL_SERIAL_HI_SERIAL, Reg.GCTL_FW_VER_MAJOR,
   Reg.GCTL_BOOT_TRIAL, Reg.GCTL_CELL_CELL_NUM, Reg.GCTL_SIZE_STN_FITTED, Reg.GCTL_STATUS_MODE,
   Reg.GCTL_CAPS_STATIONS_MAX].flatMap (fun f => bytesLE 4 (s.regOf f)) ++ bytesLE 8 s.dramMiB

/-- CNS 1: the stack. -/
def State.identStack (s : State) : List Nat := s.readBytes Reg.CASC_CELL_LISTED.base 32

/-- CNS 2: the carrying group. -/
def State.identGroup (s : State) (g : Nat) : List Nat :=
  let x := s.grp g
  let bit := fun (b : Bool) (k : Nat) => if b then 2 ^ k else 0
  let qs := upTo 64
  let has := qs.foldl (fun n i => n + bit (mhas s.sqs (64 * g + i)) i) 0
  bytesLE 4 g ++ bytesLE 4 (bit x.en 0 + bit x.priv 1 + bit x.pasidEn 2) ++ bytesLE 4 x.pasid ++ bytesLE 4 x.inflight ++ bytesLE 8 has
    ++ qs.flatMap fun i => bytesLE 2 (match mfind s.sqs (64 * g + i) with | some q => q.acct | none => 0xFFFF)

/-- IDENTIFY. -/
def execIdentify (q : BitVec 20) (tag : BitVec 12) (s : State) : Res :=
  match s.runnable q.toNat tag.toNat opIdentify with
  | none => .next s
  | some c =>
    let bytes := match c.get 16 1 with
      | 0 => s.identController
      | 1 => s.identStack
      | _ => s.identGroup c.grp
    .next (s.answer c (padBytes 4096 bytes) 4096 0)

/-! ### GET_LOG (R332 to R334, R667, R888) -/

/-- The committed entries of EVENT_LOG in a sector, in order: eight words each. -/
def State.eventEntries (s : State) (sec : Nat) : List (List Nat) :=
  let heads := (s.fwords (secWord sec + 1) (secWord (sec + 1))).filter fun p => (p.1 - secWord sec - 1) % 8 == 0
  heads.filterMap fun p =>
    let ws := (upTo 8).map fun k => s.fval (p.1 + k)
    if ws.all Option.isSome && !bitOf ((ws.headD none).getD 0) 63 then some (ws.map fun w => w.getD 0) else none

/-- The EVENT log: the flash entries oldest first, then the ring entries not yet copied. -/
def State.eventLog (s : State) : List Nat :=
  let flash := (s.ringSectors 164 228).flatMap fun x => s.eventEntries x.2
  let ring := (s.ev.ring.filter fun e => decide (s.ev.copied < e.seq)).map fun e =>
    match entryWords e with
    | w :: r => (w + if Config.ringCommitN e.seq then 2 ^ 63 else 0) :: r
    | [] => []
  (flash ++ ring).flatMap fun ws => ws.flatMap (bytesLE 8)

/-- A READ_DAMAGE entry as bytes, R334. -/
def damageBytes (d : Damage) : List Nat :=
  bytesLE 8 d.aaddr ++ bytesLE 2 d.sq ++ bytesLE 2 d.tag ++ bytesLE 2 d.mask ++ bytesLE 1 d.rung ++ bytesLE 1 d.flags ++ bytesLE 8 d.time
    ++ bytesLE 4 d.pfa ++ bytesLE 4 d.seq

/-- The ZONE_TABLE of a disc: 2,048 entries, side A then side B. -/
def State.zoneTable (s : State) (d : Nat) : List Nat := (upTo 2048).flatMap fun e => zoneEntry (s.zone (d * 2048 + e))

/-- GET_LOG: as much of the log from LOG_OFFSET on as there is, up to LENGTH bytes. DESIGN CHOICE, assumptions 116 and 128. -/
def execGetLog (q : BitVec 20) (tag : BitVec 12) (s : State) : Res :=
  match s.runnable q.toNat tag.toNat opGetLog with
  | none => .next s
  | some c =>
    let len := c.get 20 4
    let off := c.get 24 8
    let mine := s.damage.filter fun d => d.sq / 64 == c.grp
    let log := match c.get 16 2 with
      | 1 => s.eventLog
      | 0x10 => mine.flatMap damageBytes
      | _ => s.zoneTable (aaddrDisc (c.get 40 8))
    let bytes := (log.drop off).take len
    let mark := fun (d : Damage) =>
      let i := mine.findIdx (fun x => x.seq == d.seq) * 32
      if d.sq / 64 == c.grp && decide (off < i + 32) && decide (i < off + len) then { d with got := true } else d
    let s1 : State := if c.get 16 2 = 0x10 then { s with damage := s.damage.map mark } else s
    .next (s1.answer c bytes bytes.length 0)

/-! ### Features (R282 to R284, R625, R668) -/

/-- SET_FEATURE: a recovery profile of the carrying group, or the OWNER of a disc, which is journalled (R800). DESIGN CHOICE,
assumption 129. -/
def execSetFeature (q : BitVec 20) (tag : BitVec 12) (s : State) : Res :=
  match s.runnable q.toNat tag.toNat opSetFeature with
  | none => .next s
  | some c =>
    let v := c.get 24 8
    let s1 : State := if c.get 16 2 = 0x10 then { s with profs := mput s.profs (c.grp * 16 + c.get 18 2) (v % 2 ^ 32) }
      else
        let d := aaddrDisc (c.get 32 8)
        let x := { s.disc d with owner := v % 2 ^ 16 }
        (s.putDisc d x).journal { words := [], type := 8, info := [d / 4096, d % 4096, x.discId, x.owner] }
    .next (s1.fail c.sq c.tag stSuccess).settle

/-- GET_FEATURE: RESULT_A and RESULT_B are the halves of VALUE. DESIGN CHOICE, assumption 129. -/
def execGetFeature (q : BitVec 20) (tag : BitVec 12) (s : State) : Res :=
  match s.runnable q.toNat tag.toNat opGetFeature with
  | none => .next s
  | some c =>
    let v := if c.get 16 2 = 0x10 then mget 0x07D00FF9 s.profs (c.grp * 16 + c.get 18 2) else (s.disc (aaddrDisc (c.get 32 8))).owner
    .next (s.finish c.sq c.tag stSuccess v 0 0).settle

/-! ### Time (R71 to R75, R669, R963) -/

/-- TIME_SET: TIME_LOAD takes the value and its load is armed; or the command waits for the load that is armed, or for the TIME_SET
accepted before it (R963). -/
def execTimeSet (q : BitVec 20) (tag : BitVec 12) (s : State) : Res :=
  match s.runnable q.toNat tag.toNat opTimeSet with
  | none => .next s
  | some c =>
    let s1 := s.start c
    let s2 : State := { s1 with tb := { s1.tb with loadQueue := s1.tb.loadQueue ++ [(c.sq, c.tag)] } }
    .next (if s.flag Reg.TIME_STATUS_LOAD_PENDING 0 then s2 else s2.nextTimeSet)

/-- TIME_GET: TIME_NOW, TIME_STATUS and TIME_ERR as they stand. DESIGN CHOICE, assumption 128. -/
def execTimeGet (q : BitVec 20) (tag : BitVec 12) (s : State) : Res :=
  match s.runnable q.toNat tag.toNat opTimeGet with
  | none => .next s
  | some c =>
    let bytes := bytesLE 8 (s.regOf Reg.TIME_NOW_SEC) ++ bytesLE 4 (s.regOf Reg.TIME_STATUS_STATE) ++ bytesLE 4 (s.regOf Reg.TIME_ERR_ERR)
    .next (s.answer c bytes 0 0)

/-! ### The tally's records (R670, R846 to R848) -/

/-- The SEQ that a 32-bit FIRST or UP_TO names: the one within 2^31 of the newest SEQ written (R846). -/
def seqNamed (newest v : Nat) : Nat :=
  let x := newest / 2 ^ 32 * 2 ^ 32 + v
  if x + 2 ^ 31 < newest then x + 2 ^ 32
  else if newest + 2 ^ 31 < x ∧ 2 ^ 32 ≤ x then x - 2 ^ 32
  else x

/-- A record takes its place among others in ascending SEQ. -/
def insertRec (x : List Nat) : List (List Nat) → List (List Nat)
  | [] => [x]
  | y :: r => if recSeq x < recSeq y then x :: y :: r else y :: insertRec x r

/-- TALLY_READ: committed records from FIRST on in ascending SEQ, at most COUNT, as they are stored. DESIGN CHOICE, assumption
131. -/
def execTallyRead (q : BitVec 20) (tag : BitVec 12) (s : State) : Res :=
  match s.runnable q.toNat tag.toNat opTallyRead with
  | none => .next s
  | some c =>
    let first := seqNamed s.newestSeq (c.get 16 4)
    let recs := (s.tallyRecords.map Prod.snd).filter fun r => decide (first ≤ recSeq r)
    let out := (recs.foldl (fun l r => insertRec r l) []).take (c.get 20 4)
    .next (s.answer c (out.flatMap fun r => r.flatMap (bytesLE 8)) out.length (s.newestSeq % 2 ^ 32))

/-- TALLY_ACK: refused above the newest SEQ, done at or below ACKED, else it waits for its ACK record. DESIGN CHOICE, assumption
131. -/
def execTallyAck (q : BitVec 20) (tag : BitVec 12) (s : State) : Res :=
  match s.runnable q.toNat tag.toNat opTallyAck with
  | none => .next s
  | some c =>
    let u := seqNamed s.newestSeq (c.get 16 4)
    if s.newestSeq < u then .next (s.finish c.sq c.tag stInvalidField 0 0 16).settle
    else if u ≤ s.rd Reg.TALLY_ACKED_SEQ 0 then .next (s.fail c.sq c.tag stSuccess).settle
    else
      let s1 := s.start c
      .next { s1 with tally := { s1.tally with acks := s1.tally.acks ++ [(c.sq, c.tag, u)] } }

/-! ### MODE_SET (R672, R673, R857, R858) -/

/-- MODE_SET may take one mode to another. DESIGN CHOICE, assumption 122. -/
def modePair (a b : Nat) : Bool :=
  if a = mBurn then b == mDamped || b == mEmber || b == mBanked || b == mVerify
  else if a = mDamped then b == mBurn || b == mEmber || b == mBanked || b == mVerify
  else if a = mVerify then b == mBurn || b == mDamped || b == mEmber || b == mBanked
  else if a = mEmber then b == mBurn || b == mDamped || b == mBanked
  else false

/-- MODE_SET. DESIGN CHOICE, assumptions 122, 168, 171. -/
def execModeSet (q : BitVec 20) (tag : BitVec 12) (s : State) : Res :=
  match s.runnable q.toNat tag.toNat opModeSet with
  | none => .next s
  | some c =>
    let m := c.get 16 1
    let asked := fun (t : State) =>
      (if m = mDamped then t.wr Reg.PWR_CAP_CAP 0 (c.get 20 4) else t).wr Reg.PWR_STATUS_REQ_MODE 0 m
    if s.flag Reg.GCTL_BOOT_TRIAL 0 ∧ (m = mEmber ∨ m = mBanked) then .next (s.finish c.sq c.tag stModeRefused s.mode 0 0).settle
    else if m = s.mode then .next ((asked s).finish c.sq c.tag stSuccess m 0 0).settle
    else if !modePair s.mode m then .next (s.finish c.sq c.tag stModeRefused s.mode 0 0).settle
    else if m = mBurn ∧ s.mode = mDamped ∧ s.flag Reg.PWR_STATUS_THERM_DAMPED 0 then
      .next ((asked s).finish c.sq c.tag stSuccess s.mode 0 0).settle
    else .next (((asked s).start c).beginTrans m 0 (some (c.sq, c.tag)))

/-! ### STATION_DIAG (R674) -/

/-- STATION_DIAG: a front-end access completes with its response; one that finds another in progress waits. DESIGN CHOICE,
assumptions 31 and 116. -/
def execStationDiag (q : BitVec 20) (tag : BitVec 12) (s : State) : Res :=
  match s.runnable q.toNat tag.toNat opStationDiag with
  | none => .next s
  | some c =>
    let n := c.get 16 2
    let fe := fun (write : Bool) =>
      if !s.active n then (s.fail c.sq c.tag stStationFault).settle
      else if s.flag Reg.STN_REG_CMD_BUSY n then s
      else
        let s1 := (s.start c).wr Reg.STN_REG_ADDR_ADDR n (c.get 20 4)
        (if write then s1.wr Reg.STN_REG_DATA_DATA n (c.get 24 4) else s1).regGo n write (some (c.sq, c.tag))
    match c.get 18 1 with
    | 0 => .next (s.answer c (s.readBytes (0x100000 + n * 0x10000) 16384) 0 0)
    | 1 => .next (fe false)
    | 2 => .next (fe true)
    | 3 =>
      if (s.discIn n).isSome then .next (s.finish c.sq c.tag stInvalidField 0 0 16).settle
      else .next ((s.disableLink n).fail c.sq c.tag stSuccess).settle
    | _ => .next ((s.enableLink n).fail c.sq c.tag stSuccess).settle

end Sys2Proof.Machine
end

