-- ==== Sys2Proof/Machine/Smb.lean ====
section
/-!
DEFINITION. The SMBus management port (R607 to R611, R614, R861).
-/

namespace Sys2Proof.Machine

/-- The codes of STATUS, R607. -/
def smOk : Nat := 0
def smBusy : Nat := 1
def smDenied : Nat := 2
def smInvalid : Nat := 3

/-- One bit of the CRC-8 of a PEC, x^8 + x^2 + x + 1. PRESUMED, assumption 190. -/
def pecBits : Nat → Nat → Nat
  | 0, c => c
  | n + 1, c => pecBits n (if 128 ≤ c then (c * 2 % 256) ^^^ 7 else c * 2)

/-- The PEC of a message, from the address byte on. PRESUMED, assumption 190. -/
def pec (bytes : List Nat) : Nat := bytes.foldl (fun c b => pecBits 8 (c ^^^ b % 256)) 0

/-- The port's address with the direction bit. -/
def State.smbAddr (s : State) (read : Bool) : Nat :=
  (0x4C + s.rd Reg.GCTL_CELL_MGMT_ADDR 0) * 2 + (if read then 1 else 0)

/-- The port acknowledges its address (R614). -/
def State.smbAwake (s : State) : Bool := !s.pw.porst && decide (s.tb.powerUp + 200 * msCycles ≤ s.now)

/-- Commands other than the three of the always-on domain are answered OK (R611, R614). -/
def State.smbServes (s : State) : Bool := s.flag Reg.GCTL_STATUS_FW_READY 0 && s.mode != mBanked

/-- A block read: the count, the STATUS and content, the PEC over the whole transfer (R609). -/
def State.smbBlock (s : State) (cmd status : Nat) (content : List Nat) : State :=
  let data := (content.length + 1) :: status :: content
  s.emit (.smb (data ++ [pec ([s.smbAddr false, cmd, s.smbAddr true] ++ data)]))

/-- A block read that is not OK: what follows its STATUS is not given. DESIGN CHOICE, assumption 191. -/
def State.smbNot (s : State) (cmd status n : Nat) : State :=
  let (x, s1) := s.draw 64
  s1.smbBlock cmd status (bytesLE n x)

/-- A write is taken when it carries no PEC or the right one. PRESUMED, assumption 190. -/
def State.pecOk (s : State) (cmd : Nat) (data : List Nat) (p : Option (BitVec 8)) : Bool :=
  match p with
  | none => true
  | some x => x.toNat == pec ([s.smbAddr false, cmd] ++ data)

/-- SMB_IDENTIFY. -/
def execSmbIdentify (s : State) : Res :=
  if !s.smbAwake then .next (s.emit .smbNack)
  else .next (s.smbBlock 0x00 smOk ([Reg.GCTL_ID_PART, Reg.GCTL_REV_BASE, Reg.GCTL_SERIAL_LO_SERIAL, Reg.GCTL_SERIAL_HI_SERIAL].flatMap
    fun f => bytesLE 4 (s.regOf f)))

/-- SMB_HEALTH: GCTL_STATUS, the junction temperature, the controller's power (R607, R611). DESIGN CHOICE, assumption 192. -/
def execSmbHealth (s : State) : Res :=
  if !s.smbAwake then .next (s.emit .smbNack)
  else if !s.flag Reg.GCTL_STATUS_FW_READY 0 ∧ s.mode ≠ mBanked then .next (s.smbNot 0x01 smBusy 8)
  else .next (s.smbBlock 0x01 smOk
    (bytesLE 4 (s.regOf Reg.GCTL_STATUS_MODE) ++ bytesLE 2 (s.rd Reg.PWR_TEMP_TJ 0) ++ bytesLE 2 s.pw.ownW))

/-- SMB_SET_OFFSET. DESIGN CHOICE, assumption 192. -/
def execSmbSetOffset (offset : BitVec 32) (p : Option (BitVec 8)) (s : State) : Res :=
  if !s.smbAwake then .next (s.emit .smbNack)
  else if !s.pecOk 0x02 (4 :: bytesLE 4 offset.toNat) p then .next s
  else if !s.smbServes then .next (s.emit (.smb [smBusy]))
  else .next (({ s with hep := { s.hep with smbOffset := offset.toNat } } : State).emit (.smb [smOk]))

/-- READ_REG reaches the blocks GCTL, PWR, TIME, TALLY and EVT, aligned to 4 bytes (R608). -/
def smbReadable (a : Nat) : Bool := (a < 0x40000 || (0xF0000 ≤ a && a < 0x100000)) && a % 4 == 0

/-- SMB_READ_REG: the register at the offset set (R608). A reserved offset reads as 0, and the read is not counted as a reserved
access. DESIGN CHOICE, assumption 209. -/
def execSmbReadReg (s : State) : Res :=
  if !s.smbAwake then .next (s.emit .smbNack)
  else if !s.smbServes then .next (s.smbNot 0x03 smBusy 4)
  else if smbReadable s.hep.smbOffset then .next (s.smbBlock 0x03 smOk (bytesLE 4 (s.word32 s.hep.smbOffset)))
  else .next (s.smbNot 0x03 smDenied 4)

/-- SMB_WAKE: 0x01 requests EMBER from BANKED; `intact` says whether DRAM's signature line is (R607, R861, R862). DESIGN CHOICE,
assumption 192. -/
def execSmbWake (value : BitVec 8) (p : Option (BitVec 8)) (intact : Bool) (s : State) : Res :=
  if !s.smbAwake then .next (s.emit .smbNack)
  else if !s.pecOk 0x08 [value.toNat] p then .next s
  else if !s.flag Reg.GCTL_STATUS_FW_READY 0 ∧ s.mode ≠ mBanked then .next (s.emit (.smb [smBusy]))
  else if value ≠ 1 then .next (s.emit (.smb [smInvalid]))
  else
    let s1 := s.emit (.smb [smOk])
    .next (if s.mode = mBanked ∧ s.pw.trans.isNone ∧ s.pw.resetPend.isNone ∧ s.flag Reg.PWR_CFG_SMBUS_WAKE_EN 0 then s1.wakeBy 1 intact
      else s1)

end Sys2Proof.Machine
end

