-- ==== Sys2Proof/Machine/RegWrite.lean ====
section
/-!
DEFINITION. A write to a register that has no row of its own: each field acts by its type, with what the field's own rules add (R12 to
R20, R388, R451, R535, R632, R688, R708, R761, R767, R769).
-/

namespace Sys2Proof.Machine

/-! ### Fields whose write is a row of the table of its own -/

/-- The state that an outcome gives. -/
def nextOf (r : Res) (s : State) : State :=
  match r with
  | .next t => t
  | _ => s

/-- A field is the one named. -/
def Fld.same (f g : Fld) : Bool := f.id == g.id

/-- Fields whose write is a row of the table of its own; the write then has that row's effect. DESIGN CHOICE, assumption 193. -/
def ownRow : List Fld := [
  Reg.GCTL_CTRL_FETCH_HOLD, Reg.GCTL_RESET_KEY, Reg.GCTL_RESET_SCOPE, Reg.TIME_CTRL_LOAD, Reg.TIME_CTRL_PPS_FALL, Reg.TIME_CTRL_PPS_EN,
  Reg.STN_LINK_CTRL_RELEASE, Reg.STN_LINK_CTRL_RETRAIN, Reg.STN_LINK_CTRL_ENABLE, Reg.STN_REG_CMD_GO,
  Reg.SLC_CTRL_STAT_CLR, Reg.SLC_CTRL_RELEASE, Reg.SLC_EQ_CTRL_COMMIT, Reg.SLC_EQ_SET_COEF, Reg.LPE_CTRL_SAT_CLR, Reg.LPE_SWAP_GO,
  Reg.LPE_BANK_WORD, Reg.STN_HD_CMD_GO, Reg.STN_SP_TARGET_RPM, Reg.STN_SP_CTRL_CLEAR, Reg.MOT_CTRL_STOP_ALL, Reg.MOT_AX_CMD_GO,
  Reg.MOT_AX_TARGET_VALUE, Reg.LIB_DOOR_REQ_OPEN, Reg.LIB_DOOR_REQ_LOCK, Reg.CASC_CTRL_FORGET, Reg.HEP_WIN_COMMIT_GO,
  Reg.CMDQ_OP_GO, Reg.BPM_CTRL_EN, Reg.DMA_CH_CTRL_START, Reg.DMA_CH_CTRL_RESET, Reg.MEMC_CACHE_OP_GO, Reg.MEMC_CACHE_LOCK_LOCK,
  Reg.MEMC_CACHE_PWR_ON, Reg.MEMC_INJ_CTRL_ARM, Reg.PWR_WDOG_KICK, Reg.CAL_CTRL_RUN_ALL]

/-- Is a write of a value to a field a row of its own? A field that clears one thing and sets another has a row for one of them.
DESIGN CHOICE, assumption 193. -/
def rowOfOwn (f : Fld) (v : Nat) : Bool :=
  if f.same Reg.LIB_CTRL_EN || f.same Reg.CASC_CTRL_EN then v != 0
  else if f.same Reg.MSIX_VCTRL_MASK then v == 0
  else ownRow.any f.same

/-- Rows of GCTL, PWR, TIME and CAL (R46, R48, R58, R66, R71, R878, R894). -/
def State.rowGlobal (s : State) (f : Fld) (v reg : Nat) : State :=
  if f.same Reg.GCTL_CTRL_FETCH_HOLD then nextOf (execFetchHold (v != 0) s) s
  else if f.same Reg.GCTL_RESET_KEY then
    (if reg % 4 = 1 then nextOf (execWarmReset (BitVec.ofNat 16 v) s) s
     else if reg % 4 = 2 then nextOf (execColdReset (BitVec.ofNat 16 v) s) s else s)
  else if f.same Reg.TIME_CTRL_LOAD then nextOf (execTimeLoadArm s) s
  else if f.same Reg.TIME_CTRL_PPS_FALL then nextOf (execPpsPolarityWrite (v != 0) s) s
  else if f.same Reg.TIME_CTRL_PPS_EN then nextOf (execPpsEnableWrite (v != 0) s) s
  else if f.same Reg.PWR_WDOG_KICK then nextOf (execWatchdogKick s) s
  else if f.same Reg.CAL_CTRL_RUN_ALL then nextOf (execCalRunAll s) s
  else s

/-- Rows of a station's link (R144, R152, R159, R177, R968). -/
def State.rowLink (s : State) (f : Fld) (i v : Nat) : State :=
  if f.same Reg.STN_LINK_CTRL_ENABLE then
    (if v = 0 then nextOf (execLinkDisable (Fin.ofNat 128 i) s) s else nextOf (execLinkEnable (Fin.ofNat 128 i) s) s)
  else if f.same Reg.STN_LINK_CTRL_RETRAIN then nextOf (execRetrainRequest (Fin.ofNat 128 i) s) s
  else if f.same Reg.STN_LINK_CTRL_RELEASE then nextOf (execLinkRelease (Fin.ofNat 128 i) s) s
  else if f.same Reg.STN_REG_CMD_GO then nextOf (execFeRegAccess (Fin.ofNat 128 i) (s.flag Reg.STN_REG_CMD_WRITE i) s) s
  else s

/-- A write of a coefficient set: ACTIVE cannot be written, SHADOW under R254, the alternate sets at once (R279, R280); taps that do
not exist keep nothing. -/
def State.writeEqSet (s : State) (i v : Nat) : State :=
  let set := i / 64 % 6
  if set = 0 then s
  else if set = 1 then
    nextOf (execEqShadowWrite (Fin.ofNat 96 (i / 384)) (Fin.ofNat 4 (i / 16)) (Fin.ofNat 16 i) (BitVec.ofNat 12 v) s) s
  else if i % 16 < eqTaps (i / 16 % 4) then s.wr Reg.SLC_EQ_SET_COEF i v
  else s

/-- Rows of a slice (R240, R253, R279). -/
def State.rowSlice (s : State) (f : Fld) (i v : Nat) : State :=
  if f.same Reg.SLC_CTRL_STAT_CLR then nextOf (execSliceStatClear (Fin.ofNat 96 i) s) s
  else if f.same Reg.SLC_CTRL_RELEASE then nextOf (execSliceReleaseRequest (Fin.ofNat 96 i) s) s
  else if f.same Reg.SLC_EQ_CTRL_COMMIT then nextOf (execEqCommit (Fin.ofNat 96 i) s) s
  else if f.same Reg.SLC_EQ_SET_COEF then s.writeEqSet i v
  else s

/-- Rows of the loop engine (R366, R367, R378). -/
def State.rowLoop (s : State) (f : Fld) (i v : Nat) : State :=
  if f.same Reg.LPE_CTRL_SAT_CLR then nextOf (execLoopSatClear s) s
  else if f.same Reg.LPE_SWAP_GO then
    (if s.flag Reg.LPE_SWAP_GROUP 0 then nextOf (execLoopSwapGroup (Fin.ofNat 4 (s.rd Reg.LPE_SWAP_MODE 0)) s) s
     else nextOf (execLoopSwapSlot (Fin.ofNat 2048 (s.rd Reg.LPE_SWAP_SLOT 0)) (Fin.ofNat 4 (s.rd Reg.LPE_SWAP_MODE 0)) s) s)
  else if f.same Reg.LPE_BANK_WORD then
    nextOf (execLoopBankWrite (Fin.ofNat 2048 (i / 128)) (Fin.ofNat 2 (i / 64)) (Fin.ofNat 64 i) (BitVec.ofNat 32 v) s) s
  else s

/-- A write to a word of a descriptor (R361 to R363): word 0 enables or disables its slot where it changes EN. -/
def State.writeDesc (s : State) (a v : Nat) : State :=
  let sl : Fin 2048 := Fin.ofNat 2048 ((a - 0xC00000) / 64)
  let w := a / 4 % 16
  if w ≠ 0 then nextOf (execLoopDescWrite sl (Fin.ofNat 16 w) (BitVec.ofNat 32 v) s) s
  else if v % 2 = 0 then
    (if s.slotOn sl then nextOf (execLoopSlotDisable sl s) s else nextOf (execLoopDescWrite sl 0 (BitVec.ofNat 32 v) s) s)
  else nextOf (execLoopSlotEnable sl (BitVec.ofNat 32 v) s) s

/-- GO of STN_HD_CMD: the operation of OP, other values refused (R389, R424). -/
def State.goHead (s : State) (h : Nat) : State :=
  let n : Fin 128 := Fin.ofNat 128 (h / 2)
  let side : Fin 2 := Fin.ofNat 2 h
  match s.rd Reg.STN_HD_CMD_OP h with
  | 1 => nextOf (execHeadAcquire n side s) s
  | 2 => nextOf (execHeadSeek n side s) s
  | 3 => nextOf (execHeadLayer n side s) s
  | 4 => nextOf (execHeadPark n side s) s
  | 5 => nextOf (execHeadOpc n side s) s
  | 6 => nextOf (execHeadClearFault n side s) s
  | _ => if s.flag Reg.STN_HD_CMD_BUSY h then s else s.wr Reg.STN_HD_CMD_RESULT h 1

/-- GO of MOT_AX_CMD: the operation of OP. The manual does not say what another value does: it is refused. DESIGN CHOICE, assumption
193. -/
def State.goAxis (s : State) (a : Nat) : State :=
  let x : Fin 264 := Fin.ofNat 264 a
  match s.rd Reg.MOT_AX_CMD_OP a with
  | 1 => nextOf (execAxisMove x s) s
  | 2 => nextOf (execAxisStop x s) s
  | 3 => nextOf (execAxisHome x s) s
  | 4 => nextOf (execAxisClear x s) s
  | _ => if s.flag Reg.MOT_AX_CMD_BUSY a then s else s.wr Reg.MOT_AX_CMD_RESULT a 1

/-- Rows of heads, spindles, motion and the library (R389, R443, R477, R492, R515, R516, R530, R531). -/
def State.rowMotion (s : State) (f : Fld) (i v : Nat) : State :=
  if f.same Reg.STN_HD_CMD_GO then s.goHead i
  else if f.same Reg.STN_SP_TARGET_RPM then nextOf (execSpindleTargetWrite (Fin.ofNat 128 i) (BitVec.ofNat 14 v) s) s
  else if f.same Reg.STN_SP_CTRL_CLEAR then nextOf (execSpindleClearFault (Fin.ofNat 128 i) s) s
  else if f.same Reg.MOT_CTRL_STOP_ALL then nextOf (execMotionStopAll s) s
  else if f.same Reg.MOT_AX_CMD_GO then s.goAxis i
  else if f.same Reg.MOT_AX_TARGET_VALUE then nextOf (execAxisTargetWrite (Fin.ofNat 264 i) (BitVec.ofNat 32 v) s) s
  else if f.same Reg.LIB_CTRL_EN then nextOf (execLibraryEnable s) s
  else if f.same Reg.LIB_DOOR_REQ_OPEN then nextOf (execDoorRequestOpen s) s
  else if f.same Reg.LIB_DOOR_REQ_LOCK then nextOf (execDoorRequestLock (s.flag Reg.LIB_STATUS_DOOR_CLOSED 0) s) s
  else s

/-- GO of CMDQ_OP: the operation of OP, other values giving RESULT 1 (R632, R633). -/
def State.goQueue (s : State) : State :=
  match s.rd Reg.CMDQ_OP_OP 0 with
  | 1 => nextOf (execCreateCq s) s
  | 2 => nextOf (execDeleteCq s) s
  | 3 => nextOf (execCreateSq s) s
  | 4 => nextOf (execDeleteSq s) s
  | 5 => nextOf (execSetGroup s) s
  | 6 => nextOf (execQueryCq s) s
  | 7 => nextOf (execQuerySq s) s
  | 8 => nextOf (execQueryGroup s) s
  | _ => s.wr Reg.CMDQ_OP_RESULT 0 1

/-- GO of MEMC_CACHE_OP: the operation of OP, other values giving RESULT 1 (R759). -/
def State.goCache (s : State) (src : Src) : State :=
  let force := s.flag Reg.MEMC_CACHE_OP_FORCE 0
  match s.rd Reg.MEMC_CACHE_OP_OP 0 with
  | 1 => nextOf (execCacheInvalidate src force s) s
  | 2 => nextOf (execCacheDrain src force s) s
  | 3 => nextOf (execCacheDrainInvalidate src force s) s
  | 4 => nextOf (execCacheLoadLock src force s) s
  | _ => s.wr Reg.MEMC_CACHE_OP_RESULT 0 1

/-- Rows of the stack, the host endpoint, the command queues and the buffer pools (R535, R546, R599, R606, R632, R688, R689). -/
def State.rowHost (s : State) (f : Fld) (i v : Nat) : State :=
  if f.same Reg.CASC_CTRL_EN then nextOf (execCascadeEnable s) s
  else if f.same Reg.CASC_CTRL_FORGET then nextOf (execCascadeForget s) s
  else if f.same Reg.HEP_WIN_COMMIT_GO then nextOf (execPeerWindowCommit s) s
  else if f.same Reg.MSIX_VCTRL_MASK then nextOf (execMsixUnmask (some (Fin.ofNat 2048 i)) s) s
  else if f.same Reg.CMDQ_OP_GO then s.goQueue
  else if f.same Reg.BPM_CTRL_EN then (if v = 0 then nextOf (execBpmDisable s) s else nextOf (execBpmEnable s) s)
  else s

/-- Rows of the DMA channels, the cache and memory (R710, R722, R759, R763, R764, R767). -/
def State.rowMemory (s : State) (src : Src) (f : Fld) (i v reg : Nat) : State :=
  if f.same Reg.DMA_CH_CTRL_START then nextOf (execDmaChannelStart src (Fin.ofNat 2176 i) s) s
  else if f.same Reg.DMA_CH_CTRL_RESET then nextOf (execDmaChannelReset src (Fin.ofNat 2176 i) s) s
  else if f.same Reg.MEMC_CACHE_OP_GO then s.goCache src
  else if f.same Reg.MEMC_CACHE_LOCK_LOCK then nextOf (execCacheWayLockWrite src (BitVec.ofNat 16 v) s) s
  else if f.same Reg.MEMC_CACHE_PWR_ON then nextOf (execCacheWayPowerWrite src (BitVec.ofNat 4 v) s) s
  else if f.same Reg.MEMC_INJ_CTRL_ARM then nextOf (execEccInjectArm (BitVec.ofNat 2 (bitsOf reg 1 2)) (bitOf reg 0) s) s
  else s

/-- A write to a field that has a row of its own: that row's effect. A field has one row, so at most one of these acts. -/
def State.rowEffect (s : State) (src : Src) (f : Fld) (i v reg : Nat) : State :=
  if f.ty == .w1s && v == 0 then s
  else ((((((s.rowGlobal f v reg).rowLink f i v).rowSlice f i v).rowLoop f i v).rowMotion f i v).rowHost f i v).rowMemory src f i v reg

/-! ### Writes that are discarded -/

/-- The blocks that take no write from the host link: DMA, FLC, and the cache maintenance registers (R708, R767, R769). -/
def hostBarred (f : Fld) : Bool :=
  (0x70000 ≤ f.base && f.base < 0x80000) || (0x40000 ≤ f.base && f.base < 0x50000)
    || [Reg.MEMC_CACHE_OP_OP, Reg.MEMC_CACHE_OP_GO, Reg.MEMC_CACHE_OP_FORCE, Reg.MEMC_CACHE_ADDR_ADDR, Reg.MEMC_CACHE_LEN_LEN,
        Reg.MEMC_CACHE_LOCK_LOCK, Reg.MEMC_CACHE_PWR_ON].any fun g => g.id == f.id

/-- A field cannot be written now. DESIGN CHOICE, assumption 103. -/
def State.shut (s : State) (src : Src) (f : Fld) (i : Nat) : Bool :=
  let is := fun (l : List Fld) => l.any fun g => g.id == f.id
  (src == .host && hostBarred f)
    || (s.flag Reg.CMDQ_OP_BUSY 0
        && is [Reg.CMDQ_QID_QID, Reg.CMDQ_BASE_BASE, Reg.CMDQ_QCFG_VECTOR, Reg.CMDQ_QCFG_IEN, Reg.CMDQ_QCFG_LOW, Reg.CMDQ_QCFG2_QUOTA,
               Reg.CMDQ_QCFG2_ACCOUNT, Reg.CMDQ_OP_GO])
    || (s.flag Reg.BPM_CTRL_EN 0 && is [Reg.BPM_POOL_BASE_BASE, Reg.BPM_POOL_CNT_COUNT])
    || (is [Reg.DMA_CH_DESC_ADDR] && s.chanState i != chIdle && s.chanState i != chDone)
    || (s.flag Reg.MEMC_CACHE_OP_BUSY 0
        && is [Reg.MEMC_CACHE_ADDR_ADDR, Reg.MEMC_CACHE_LEN_LEN, Reg.MEMC_CACHE_OP_OP, Reg.MEMC_CACHE_OP_FORCE, Reg.MEMC_CACHE_OP_GO])
    || (is [Reg.CASC_CFG_SHARED_LIB, Reg.CASC_CFG_CELL_ID] && (s.flag Reg.CASC_CTRL_EN 0 || !s.stack.serials.isEmpty))

/-! ### Fields with effects beyond their value -/

/-- A sled or picker axis is enabled or disabled (R484, MOT_AX_CTRL): disabled, it issues no step, and its operation ends stopped.
DESIGN CHOICE, assumption 196. -/
def State.enableAxis (s : State) (a : Nat) (on : Bool) : State :=
  if on then
    (if s.axState a = axDisabled then s.setAx a (if s.flag Reg.MOT_AX_STATUS_REF a then axIdle else axUnref) else s)
  else
    let s1 := (s.freezePlan a).setAx a axDisabled
    if s.flag Reg.MOT_AX_CMD_BUSY a then (s1.clr Reg.MOT_AX_CMD_BUSY a).wr Reg.MOT_AX_CMD_RESULT a 3 else s1

/-- A word of LPE_OUT that the sequencers act on: a value written to words 16 to 19 counts as written for R343. -/
def State.outWritten (s : State) (i : Nat) : State :=
  let key := wordKey (i / 24) (i % 24)
  if i % 24 < 16 then s
  else { s with loop := { s.loop with duty := mput s.loop.duty key (s.rdS Reg.LPE_OUT_VALUE i), dutyNew := key :: s.loop.dutyNew } }

/-- What follows a written field; `reg` is the whole value written to its register. DESIGN CHOICE, assumptions 103 and 141. -/
def State.afterWrite (s : State) (f : Fld) (i reg : Nat) : State :=
  if f.same Reg.STN_HD_CTRL_EN then (if s.flag f i then s.headOn i else s.headOff i)
  else if f.same Reg.STN_SP_CTRL_EN then (if s.flag f i then s.spindleOn i else s.spindleOff i)
  else if f.same Reg.MOT_AX_CTRL_EN then s.enableAxis i (s.flag f i)
  else if f.same Reg.LPE_OUT_VALUE then s.outWritten i
  else if f.same Reg.LPE_CTRL_RUN then s.noteHealth
  else if f.same Reg.CASC_CTRL_EN then s.wr Reg.CASC_STATUS_STATE 0 csOff
  else if f.same Reg.TIME_LOAD_TICK then { s with tb := { s.tb with loadHi := bitOf reg 31 } }
  else if f.same Reg.TIME_CTRL_NO_STEP then (if s.flag f i then s.forbidStep else s)
  else if [Reg.CAL_CTRL_EN, Reg.CAL_CTRL_LINK_EN, Reg.CAL_CTRL_SLICE_EN, Reg.CAL_CTRL_TRIM_EN].any f.same then s.calPrune
  else s

/-! ### The write -/

/-- One field of a register takes its bits of the value written (R12, R14). -/
def State.writeField (s : State) (src : Src) (f : Fld) (i reg : Nat) : State :=
  let v := bitsOf reg f.lo f.w
  if s.shut src f i then s
  else if rowOfOwn f v then s.rowEffect src f i v reg
  else
    match f.ty with
    | .rw => (s.wr f i v).afterWrite f i reg
    | .rwl => (s.wr f i v).afterWrite f i reg
    | .w1c => s.wr f i (s.rd f i - (s.rd f i &&& v))
    | .w1s => if v = 0 then s else s.orBits f i v
    | _ => s

/-- The submission queue whose doorbell lies at an offset (R43). -/
def doorbellQueue (a : Nat) : Nat := (a - 0x1000000) / 4096 * 64 + a % 4096 / 8

/-- A register written whole: a doorbell; a word of a descriptor; else its fields from the least significant bit on, those that start
an operation last. DESIGN CHOICE, assumption 194. -/
def State.writeReg (s : State) (src : Src) (a v : Nat) : State :=
  if isDoorbell a then nextOf (execDoorbellWrite (BitVec.ofNat 16 (doorbellQueue a)) (BitVec.ofNat 64 v) s) s
  else if 0xC00000 ≤ a ∧ a < 0xC20000 then s.writeDesc a v
  else
    let fs := fieldsAt a
    let put := fun (t : State) (p : Fld × Nat) => t.writeField src p.1 p.2 v
    (fs.filter fun p => p.1.ty == .w1s).foldl put ((fs.filter fun p => p.1.ty != .w1s).foldl put s)

/-- The registers that begin in a range and lie in it whole, in ascending offset, with their width. -/
def wholeRegs (a n : Nat) : List (Nat × Nat) :=
  ((upTo ((n + 3) / 4 + 1)).map fun k => (a + 3) / 4 * 4 + 4 * k).filterMap fun r =>
    if widthAt r ≠ 0 ∧ r + widthAt r ≤ a + n then some (r, widthAt r) else none

/-- The first reserved byte of a range (R18, R20); the CXL component registers are not reserved. DESIGN CHOICE, assumption 194. -/
def firstReserved (a n : Nat) : Option Nat :=
  ((upTo n).map fun k => a + k).find? fun b => (regStart b).isNone && !isComponent b

/-- REGISTER_WRITE: `len` bytes from an offset on, `data` least significant byte first. Registers covered whole are written in
ascending offset, those covered in part are not, and reserved bytes are counted (R12 to R20). A write of CXL component registers
has no effect but that of HDM_DECODER_COMMIT, a row of its own. DESIGN CHOICE, assumptions 193 and 195. -/
def execRegisterWrite (src : Src) (addr : BitVec 26) (len : Fin 65) (data : Nat) (s : State) : Res :=
  let a := addr.toNat
  let s1 := (wholeRegs a len).foldl (fun t r => t.writeReg src r.1 (bitsOf data (8 * (r.1 - a)) (8 * r.2))) s
  match firstReserved a len with
  | some b => .next (s1.raiseWin 0x0801 0 [b, 1] true)
  | none => .next s1

end Sys2Proof.Machine
end

