-- ==== Sys2Proof/Machine/Dispatch.lean ====
section
/-!
DEFINITION. The meaning of every command: one arm per constructor, each a direct call of the definition that gives it. A row whose
conditions do not hold has no effect (DESIGN CHOICE, assumption 3); what a command takes no time for is not timed (assumption 201).
-/

namespace Sys2Proof.Machine

def exec (i : Instr) (s : State) : Host.Outcome State Fault Refusal :=
  match i with
  -- registers, resets and time
  | .registerWrite src addr len data => Sys2Proof.Machine.execRegisterWrite src addr len data s
  | .bar0ReservedAccess offset write => Sys2Proof.Machine.execBar0ReservedAccess offset write s
  | .eventWindowEnd code inst => Sys2Proof.Machine.execEventWindowEnd code inst s
  | .fetchHold on => Sys2Proof.Machine.execFetchHold on s
  | .warmReset key => Sys2Proof.Machine.execWarmReset key s
  | .coldReset key => Sys2Proof.Machine.execColdReset key s
  | .resetTakesEffect => Sys2Proof.Machine.execResetTakesEffect s
  | .porstAssert => Sys2Proof.Machine.execPorstAssert s
  | .porstDeassert mgmtAddr slave clocks => Sys2Proof.Machine.execPorstDeassert mgmtAddr slave clocks s
  | .timeSecondRollover => Sys2Proof.Machine.execTimeSecondRollover s
  | .cclkStart => Sys2Proof.Machine.execCclkStart s
  | .ppsEdge dt fall => Sys2Proof.Machine.execPpsEdge dt fall s
  | .timeStep => Sys2Proof.Machine.execTimeStep s
  | .holdoverTimeout => Sys2Proof.Machine.execHoldoverTimeout s
  | .ppsEnableWrite on => Sys2Proof.Machine.execPpsEnableWrite on s
  | .ppsPolarityWrite fall => Sys2Proof.Machine.execPpsPolarityWrite fall s
  | .timeLoadArm => Sys2Proof.Machine.execTimeLoadArm s
  | .timeLoadEffect => Sys2Proof.Machine.execTimeLoadEffect s
  | .fineTimeReload byPps => Sys2Proof.Machine.execFineTimeReload byPps s
  | .launch sq tag => Sys2Proof.Machine.execLaunch sq tag s
  | .emberLaunchExit => Sys2Proof.Machine.execEmberLaunchExit s
  | .seekSlot group => Sys2Proof.Machine.execSeekSlot group s
  | .vgConfigApply group => Sys2Proof.Machine.execVgConfigApply group s
  | .servoPeriodStart => Sys2Proof.Machine.execServoPeriodStart s
  -- station links
  | .periodPresent => Sys2Proof.Machine.execPeriodPresent s
  | .actuatePresent => Sys2Proof.Machine.execActuatePresent s
  | .sensorDelivered stn msg cause => Sys2Proof.Machine.execSensorDelivered stn msg cause s
  | .sensorMiss stn => Sys2Proof.Machine.execSensorMiss stn s
  | .samplesReceive stn msg => Sys2Proof.Machine.execSamplesReceive stn msg s
  | .healthReceive stn msg => Sys2Proof.Machine.execHealthReceive stn msg s
  | .regrspReceive stn msg => Sys2Proof.Machine.execRegrspReceive stn msg s
  | .wrackReceive stn msg => Sys2Proof.Machine.execWrackReceive stn msg s
  | .echorspReceive stn msg roundTrip => Sys2Proof.Machine.execEchorspReceive stn msg roundTrip s
  | .linkBlockError stn hdr => Sys2Proof.Machine.execLinkBlockError stn hdr s
  | .wrdataSend stn side count => Sys2Proof.Machine.execWrdataSend stn side count s
  | .wrdataRetransmit stn side => Sys2Proof.Machine.execWrdataRetransmit stn side s
  | .stepSend stn side count => Sys2Proof.Machine.execStepSend stn side count s
  | .stepRetransmit stn => Sys2Proof.Machine.execStepRetransmit stn s
  | .stopSend stn side0 side1 => Sys2Proof.Machine.execStopSend stn side0 side1 s
  | .echoSend stn => Sys2Proof.Machine.execEchoSend stn s
  | .feRegAccess stn write => Sys2Proof.Machine.execFeRegAccess stn write s
  | .feRegTimeout stn => Sys2Proof.Machine.execFeRegTimeout stn s
  | .linkEnable stn => Sys2Proof.Machine.execLinkEnable stn s
  | .linkDisable stn => Sys2Proof.Machine.execLinkDisable stn s
  | .trainingBatchOpen batch => Sys2Proof.Machine.execTrainingBatchOpen batch s
  | .trainingBatchClose batch => Sys2Proof.Machine.execTrainingBatchClose batch s
  | .linkTrainDetected stn => Sys2Proof.Machine.execLinkTrainDetected stn s
  | .linkBlockLock stn lane0 lane1 => Sys2Proof.Machine.execLinkBlockLock stn lane0 lane1 s
  | .linkDeskewDone stn skew => Sys2Proof.Machine.execLinkDeskewDone stn skew s
  | .linkIdentifyDone stn feId feRev feLat feBuf feBoot => Sys2Proof.Machine.execLinkIdentifyDone stn feId feRev feLat feBuf feBoot s
  | .linkMeasureDone stn echoes => Sys2Proof.Machine.execLinkMeasureDone stn echoes s
  | .linkTrainTimeout stn => Sys2Proof.Machine.execLinkTrainTimeout stn s
  | .linkRetry stn => Sys2Proof.Machine.execLinkRetry stn s
  | .linkRetryTimeout stn => Sys2Proof.Machine.execLinkRetryTimeout stn s
  | .retrainRequest stn => Sys2Proof.Machine.execRetrainRequest stn s
  | .retrainStart stn => Sys2Proof.Machine.execRetrainStart stn s
  | .linkRelease stn => Sys2Proof.Machine.execLinkRelease stn s
  | .linkLoss stn sensors => Sys2Proof.Machine.execLinkLoss stn sensors s
  | .linkDegradedWindow stn => Sys2Proof.Machine.execLinkDegradedWindow stn s
  -- media
  | .zoneResolve disc side layer zone found => Sys2Proof.Machine.execZoneResolve disc side layer zone found s
  -- channel slices and read recovery
  | .sliceAssign stn side => Sys2Proof.Machine.execSliceAssign stn side s
  | .sliceWait stn side => Sys2Proof.Machine.execSliceWait stn side s
  | .sliceRelease slice => Sys2Proof.Machine.execSliceRelease slice s
  | .sliceReleaseRequest slice => Sys2Proof.Machine.execSliceReleaseRequest slice s
  | .sliceStatClear slice => Sys2Proof.Machine.execSliceStatClear slice s
  | .sliceModeChange slice => Sys2Proof.Machine.execSliceModeChange slice s
  | .eqCommit slice => Sys2Proof.Machine.execEqCommit slice s
  | .eqCommitCopy slice => Sys2Proof.Machine.execEqCommitCopy slice s
  | .eqShadowWrite slice filter tap coef => Sys2Proof.Machine.execEqShadowWrite slice filter tap coef s
  | .frameDecode slice slot => Sys2Proof.Machine.execFrameDecode slice slot s
  | .frameEncode slice => Sys2Proof.Machine.execFrameEncode slice s
  | .slotVerify slice => Sys2Proof.Machine.execSlotVerify slice s
  | .rateMatchTick slice => Sys2Proof.Machine.execRateMatchTick slice s
  | .readPause slice => Sys2Proof.Machine.execReadPause slice s
  | .readResume slice => Sys2Proof.Machine.execReadResume slice s
  | .holdStep slice => Sys2Proof.Machine.execHoldStep slice s
  | .oneTrackStep stn side => Sys2Proof.Machine.execOneTrackStep stn side s
  | .ladderRungDecode slice slot => Sys2Proof.Machine.execLadderRungDecode slice slot s
  | .rowShiftSearch slice slot => Sys2Proof.Machine.execRowShiftSearch slice slot s
  | .ladderBudgetExpire sq tag => Sys2Proof.Machine.execLadderBudgetExpire sq tag s
  | .ladderSlotClaim slice slot => Sys2Proof.Machine.execLadderSlotClaim slice slot s
  | .ladderReread slice slot => Sys2Proof.Machine.execLadderReread slice slot s
  | .rereadDecode slice slot => Sys2Proof.Machine.execRereadDecode slice slot s
  | .softCombine slice slot => Sys2Proof.Machine.execSoftCombine slice slot s
  | .outerErasureDecode slice slot => Sys2Proof.Machine.execOuterErasureDecode slice slot s
  -- loop engine
  | .loopLaneRun lane bad => Sys2Proof.Machine.execLoopLaneRun lane bad s
  | .loopOverrun lane => Sys2Proof.Machine.execLoopOverrun lane s
  | .loopParamCopy => Sys2Proof.Machine.execLoopParamCopy s
  | .loopSlotEnable slot ctrl => Sys2Proof.Machine.execLoopSlotEnable slot ctrl s
  | .loopSlotDisable slot => Sys2Proof.Machine.execLoopSlotDisable slot s
  | .loopDescWrite slot word data => Sys2Proof.Machine.execLoopDescWrite slot word data s
  | .loopBankWrite slot bank word data => Sys2Proof.Machine.execLoopBankWrite slot bank word data s
  | .loopSwapSlot slot mode => Sys2Proof.Machine.execLoopSwapSlot slot mode s
  | .loopSwapGroup mode => Sys2Proof.Machine.execLoopSwapGroup mode s
  | .loopSwapExecute slot => Sys2Proof.Machine.execLoopSwapExecute slot s
  | .loopSatClear => Sys2Proof.Machine.execLoopSatClear s
  | .safeProgramDone => Sys2Proof.Machine.execSafeProgramDone s
  -- heads and the optical servo
  | .headAcquire stn side => Sys2Proof.Machine.execHeadAcquire stn side s
  | .headSeek stn side => Sys2Proof.Machine.execHeadSeek stn side s
  | .headLayer stn side => Sys2Proof.Machine.execHeadLayer stn side s
  | .headPark stn side => Sys2Proof.Machine.execHeadPark stn side s
  | .headOpc stn side => Sys2Proof.Machine.execHeadOpc stn side s
  | .headClearFault stn side => Sys2Proof.Machine.execHeadClearFault stn side s
  | .seekRequest stn side slot cmd => Sys2Proof.Machine.execSeekRequest stn side slot cmd s
  | .layerJumpRequest stn side layer cmd => Sys2Proof.Machine.execLayerJumpRequest stn side layer cmd s
  | .acqStageLocked stn side w1 w2 apart => Sys2Proof.Machine.execAcqStageLocked stn side w1 w2 apart s
  | .acqStageTimeout stn side => Sys2Proof.Machine.execAcqStageTimeout stn side s
  | .seekJumpDone stn side => Sys2Proof.Machine.execSeekJumpDone stn side s
  | .longSeekSettled stn side w1 w2 apart => Sys2Proof.Machine.execLongSeekSettled stn side w1 w2 apart s
  | .seekRestart stn side => Sys2Proof.Machine.execSeekRestart stn side s
  | .layerMoveEnd stn side => Sys2Proof.Machine.execLayerMoveEnd stn side s
  | .relayLocked stn side => Sys2Proof.Machine.execRelayLocked stn side s
  | .layerJumpTimeout stn side => Sys2Proof.Machine.execLayerJumpTimeout stn side s
  | .lockLoss stn side lock => Sys2Proof.Machine.execLockLoss stn side lock s
  | .headRecoveryDone stn side => Sys2Proof.Machine.execHeadRecoveryDone stn side s
  | .headRecoveryTimeout stn side => Sys2Proof.Machine.execHeadRecoveryTimeout stn side s
  | .powerLimitDetect stn side write => Sys2Proof.Machine.execPowerLimitDetect stn side write s
  | .opcTrigger stn side => Sys2Proof.Machine.execOpcTrigger stn side s
  | .opcReadback stn side => Sys2Proof.Machine.execOpcReadback stn side s
  | .headParkDone stn side => Sys2Proof.Machine.execHeadParkDone stn side s
  | .mountComplete stn sideA sideB rebuiltA rebuiltB => Sys2Proof.Machine.execMountComplete stn sideA sideB rebuiltA rebuiltB s
  -- spindles
  | .spindleTargetWrite stn rpm => Sys2Proof.Machine.execSpindleTargetWrite stn rpm s
  | .spindleSenseEnd stn => Sys2Proof.Machine.execSpindleSenseEnd stn s
  | .spindleWaitSlowEnd stn => Sys2Proof.Machine.execSpindleWaitSlowEnd stn s
  | .spindleRevBrakeEnd stn => Sys2Proof.Machine.execSpindleRevBrakeEnd stn s
  | .spindleAlignStart stn => Sys2Proof.Machine.execSpindleAlignStart stn s
  | .spindleAlignEnd stn => Sys2Proof.Machine.execSpindleAlignEnd stn s
  | .spindleHandover stn => Sys2Proof.Machine.execSpindleHandover stn s
  | .spindleCatchDone stn => Sys2Proof.Machine.execSpindleCatchDone stn s
  | .spindleAttemptFail stn => Sys2Proof.Machine.execSpindleAttemptFail stn s
  | .spindleRetry stn => Sys2Proof.Machine.execSpindleRetry stn s
  | .spindleLockedRotor stn => Sys2Proof.Machine.execSpindleLockedRotor stn s
  | .spindleObserverLoss stn => Sys2Proof.Machine.execSpindleObserverLoss stn s
  | .spindleReacquired stn => Sys2Proof.Machine.execSpindleReacquired stn s
  | .spindleReacqTimeout stn => Sys2Proof.Machine.execSpindleReacqTimeout stn s
  | .spindleVbusChange stn => Sys2Proof.Machine.execSpindleVbusChange stn s
  | .spindleBrakeEnd stn => Sys2Proof.Machine.execSpindleBrakeEnd stn s
  | .spindleHoldEnd stn => Sys2Proof.Machine.execSpindleHoldEnd stn s
  | .spindleBrakeTimeout stn => Sys2Proof.Machine.execSpindleBrakeTimeout stn s
  | .spindleAtSpeed stn => Sys2Proof.Machine.execSpindleAtSpeed stn s
  | .phaseLockChange stn => Sys2Proof.Machine.execPhaseLockChange stn s
  | .spindleClearFault stn => Sys2Proof.Machine.execSpindleClearFault stn s
  -- motion and library
  | .axisMove axis => Sys2Proof.Machine.execAxisMove axis s
  | .axisStop axis => Sys2Proof.Machine.execAxisStop axis s
  | .axisHome axis => Sys2Proof.Machine.execAxisHome axis s
  | .axisClear axis => Sys2Proof.Machine.execAxisClear axis s
  | .axisTargetWrite axis value => Sys2Proof.Machine.execAxisTargetWrite axis value s
  | .axisMoveDone axis => Sys2Proof.Machine.execAxisMoveDone axis s
  | .axisHomeDone axis found rise fall => Sys2Proof.Machine.execAxisHomeDone axis found rise fall s
  | .axisFaultInput driver level => Sys2Proof.Machine.execAxisFaultInput driver level s
  | .motionStopAll => Sys2Proof.Machine.execMotionStopAll s
  | .libraryEnable => Sys2Proof.Machine.execLibraryEnable s
  | .doorRequestOpen => Sys2Proof.Machine.execDoorRequestOpen s
  | .doorRequestLock closed => Sys2Proof.Machine.execDoorRequestLock closed s
  | .doorLockConfirmed => Sys2Proof.Machine.execDoorLockConfirmed s
  | .doorOpenedUnexpected closed => Sys2Proof.Machine.execDoorOpenedUnexpected closed s
  | .doorWaitTimeout sq tag => Sys2Proof.Machine.execDoorWaitTimeout sq tag s
  | .transferStart => Sys2Proof.Machine.execTransferStart s
  | .transferProgress picker slot disc jaw => Sys2Proof.Machine.execTransferProgress picker slot disc jaw s
  | .transferWaitTimeout sq tag => Sys2Proof.Machine.execTransferWaitTimeout sq tag s
  | .transferResolve picker inJaws atSrc atDst => Sys2Proof.Machine.execTransferResolve picker inJaws atSrc atDst s
  | .inventoryComplete dt present => Sys2Proof.Machine.execInventoryComplete dt present s
  -- the stack
  | .cascadeEnable => Sys2Proof.Machine.execCascadeEnable s
  | .cascadeForget => Sys2Proof.Machine.execCascadeForget s
  | .cascPortUp port echoes whole => Sys2Proof.Machine.execCascPortUp port echoes whole s
  | .cascPortDown port errs => Sys2Proof.Machine.execCascPortDown port errs s
  | .announceSend => Sys2Proof.Machine.execAnnounceSend s
  | .announceReceive port intact serial shared version hops => Sys2Proof.Machine.execAnnounceReceive port intact serial shared version hops s
  | .joinReceive port hops msg => Sys2Proof.Machine.execJoinReceive port hops msg s
  | .membersReceive port msg => Sys2Proof.Machine.execMembersReceive port msg s
  | .syncReceive dt port intact origin acc locked hops residence => Sys2Proof.Machine.execSyncReceive dt port intact origin acc locked hops residence s
  | .ringCmdReceive port msg => Sys2Proof.Machine.execRingCmdReceive port msg s
  | .ringFrameReceive port msg => Sys2Proof.Machine.execRingFrameReceive port msg s
  | .ringCatReceive port msg => Sys2Proof.Machine.execRingCatReceive port msg s
  | .ringLibReceive port msg => Sys2Proof.Machine.execRingLibReceive port msg s
  | .ringAckReceive port msg => Sys2Proof.Machine.execRingAckReceive port msg s
  | .ringMessageForward port mtype msg => Sys2Proof.Machine.execRingMessageForward port mtype msg s
  | .ringRetransmit dst => Sys2Proof.Machine.execRingRetransmit dst s
  | .memberAbsent cell => Sys2Proof.Machine.execMemberAbsent cell s
  | .masterLost => Sys2Proof.Machine.execMasterLost s
  | .stackSyncTimeout => Sys2Proof.Machine.execStackSyncTimeout s
  | .crossCellTimeout sq tag => Sys2Proof.Machine.execCrossCellTimeout sq tag s
  | .proxyDeliver cell => Sys2Proof.Machine.execProxyDeliver cell s
  -- host endpoint and management port
  | .hostLinkUp rate width cxl => Sys2Proof.Machine.execHostLinkUp rate width cxl s
  | .hostEndpointReset perst => Sys2Proof.Machine.execHostEndpointReset perst s
  | .configRequest req => Sys2Proof.Machine.execConfigRequest req s
  | .hdmDecoderCommit ways size => Sys2Proof.Machine.execHdmDecoderCommit ways size s
  | .hdmHostRead line => Sys2Proof.Machine.execHdmHostRead line s
  | .hdmHostWrite line data mask poison => Sys2Proof.Machine.execHdmHostWrite line data mask poison s
  | .peerRequest off len reqId data => Sys2Proof.Machine.execPeerRequest off len reqId data s
  | .peerWindowCommit => Sys2Proof.Machine.execPeerWindowCommit s
  | .peerCommitEffect => Sys2Proof.Machine.execPeerCommitEffect s
  | .translationCompletion pasid addr grant => Sys2Proof.Machine.execTranslationCompletion pasid addr grant s
  | .atsInvalidate pasid addr size itag delayUs => Sys2Proof.Machine.execAtsInvalidate pasid addr size itag delayUs s
  | .hostCacheError queue tag => Sys2Proof.Machine.execHostCacheError queue tag s
  | .completionWrite entry => Sys2Proof.Machine.execCompletionWrite entry s
  | .msixSend entry => Sys2Proof.Machine.execMsixSend entry s
  | .msixUnmask vector => Sys2Proof.Machine.execMsixUnmask vector s
  | .cqFullTimeout entry => Sys2Proof.Machine.execCqFullTimeout entry s
  | .smbIdentify => Sys2Proof.Machine.execSmbIdentify s
  | .smbHealth => Sys2Proof.Machine.execSmbHealth s
  | .smbSetOffset offset pec => Sys2Proof.Machine.execSmbSetOffset offset pec s
  | .smbReadReg => Sys2Proof.Machine.execSmbReadReg s
  | .smbWake value pec intact => Sys2Proof.Machine.execSmbWake value pec intact s
  -- the command path
  | .doorbellWrite queue value => Sys2Proof.Machine.execDoorbellWrite queue value s
  | .commandFetch pkt => Sys2Proof.Machine.execCommandFetch pkt s
  | .commandStart queue tag => Sys2Proof.Machine.execCommandStart queue tag s
  -- commands of a submission queue
  | .nop queue tag => Sys2Proof.Machine.execNop queue tag s
  | .identify queue tag => Sys2Proof.Machine.execIdentify queue tag s
  | .getLog queue tag => Sys2Proof.Machine.execGetLog queue tag s
  | .setFeature queue tag => Sys2Proof.Machine.execSetFeature queue tag s
  | .getFeature queue tag => Sys2Proof.Machine.execGetFeature queue tag s
  | .abort queue tag => Sys2Proof.Machine.execAbort queue tag s
  | .read queue tag sgl => Sys2Proof.Machine.execRead queue tag sgl s
  | .write queue tag sgl => Sys2Proof.Machine.execWrite queue tag sgl s
  | .verify queue tag => Sys2Proof.Machine.execVerify queue tag s
  | .flush queue tag => Sys2Proof.Machine.execFlush queue tag s
  | .zoneClose queue tag => Sys2Proof.Machine.execZoneClose queue tag s
  | .discFinalize queue tag => Sys2Proof.Machine.execDiscFinalize queue tag s
  | .bufferAlloc queue tag => Sys2Proof.Machine.execBufferAlloc queue tag s
  | .bufferRelease queue tag => Sys2Proof.Machine.execBufferRelease queue tag s
  | .bufferShare queue tag => Sys2Proof.Machine.execBufferShare queue tag s
  | .mount queue tag => Sys2Proof.Machine.execMount queue tag s
  | .unmount queue tag => Sys2Proof.Machine.execUnmount queue tag s
  | .move queue tag => Sys2Proof.Machine.execMove queue tag s
  | .inventory queue tag => Sys2Proof.Machine.execInventory queue tag s
  | .timeSet queue tag => Sys2Proof.Machine.execTimeSet queue tag s
  | .timeGet queue tag => Sys2Proof.Machine.execTimeGet queue tag s
  | .tallyRead queue tag => Sys2Proof.Machine.execTallyRead queue tag s
  | .tallyAck queue tag => Sys2Proof.Machine.execTallyAck queue tag s
  | .fwDownload queue tag words => Sys2Proof.Machine.execFwDownload queue tag words s
  | .fwActivate queue tag keyOk sigOk => Sys2Proof.Machine.execFwActivate queue tag keyOk sigOk s
  | .modeSet queue tag => Sys2Proof.Machine.execModeSet queue tag s
  | .stationDiag queue tag => Sys2Proof.Machine.execStationDiag queue tag s
  -- queue management
  | .createCq => Sys2Proof.Machine.execCreateCq s
  | .deleteCq => Sys2Proof.Machine.execDeleteCq s
  | .createSq => Sys2Proof.Machine.execCreateSq s
  | .deleteSq => Sys2Proof.Machine.execDeleteSq s
  | .deleteSqComplete => Sys2Proof.Machine.execDeleteSqComplete s
  | .setGroup => Sys2Proof.Machine.execSetGroup s
  | .queryCq => Sys2Proof.Machine.execQueryCq s
  | .querySq => Sys2Proof.Machine.execQuerySq s
  | .queryGroup => Sys2Proof.Machine.execQueryGroup s
  -- buffers and DMA
  | .copyBufferGrant => Sys2Proof.Machine.execCopyBufferGrant s
  | .bpmEnable => Sys2Proof.Machine.execBpmEnable s
  | .bpmDisable => Sys2Proof.Machine.execBpmDisable s
  | .dmaChannelStart src ch => Sys2Proof.Machine.execDmaChannelStart src ch s
  | .dmaChannelRun engine => Sys2Proof.Machine.execDmaChannelRun engine s
  | .dmaDescriptorEnd engine result => Sys2Proof.Machine.execDmaDescriptorEnd engine result s
  | .dmaBusRetry engine result => Sys2Proof.Machine.execDmaBusRetry engine result s
  | .dmaChannelReset src ch => Sys2Proof.Machine.execDmaChannelReset src ch s
  -- device memory and cache
  | .dramTrainingDone chans => Sys2Proof.Machine.execDramTrainingDone chans s
  | .dramInitDone dt => Sys2Proof.Machine.execDramInitDone dt s
  | .scrubStep obs => Sys2Proof.Machine.execScrubStep obs s
  | .selfRefreshEnter => Sys2Proof.Machine.execSelfRefreshEnter s
  | .mergeBufferDrain acts => Sys2Proof.Machine.execMergeBufferDrain acts s
  | .cacheInvalidate src force => Sys2Proof.Machine.execCacheInvalidate src force s
  | .cacheDrain src force => Sys2Proof.Machine.execCacheDrain src force s
  | .cacheDrainInvalidate src force => Sys2Proof.Machine.execCacheDrainInvalidate src force s
  | .cacheLoadLock src force => Sys2Proof.Machine.execCacheLoadLock src force s
  | .cacheOpDone dt => Sys2Proof.Machine.execCacheOpDone dt s
  | .cacheWayLockWrite src mask => Sys2Proof.Machine.execCacheWayLockWrite src mask s
  | .cacheWayPowerWrite src on => Sys2Proof.Machine.execCacheWayPowerWrite src on s
  | .eccInjectArm cw double => Sys2Proof.Machine.execEccInjectArm cw double s
  -- flash, boot and the journal
  | .flashProgram word value mask => Sys2Proof.Machine.execFlashProgram word value mask s
  | .flashSectorErase sector => Sys2Proof.Machine.execFlashSectorErase sector s
  | .flashSuspend => Sys2Proof.Machine.execFlashSuspend s
  | .flashResume => Sys2Proof.Machine.execFlashResume s
  | .flashReadArray => Sys2Proof.Machine.execFlashReadArray s
  | .flashProgramDone dt => Sys2Proof.Machine.execFlashProgramDone dt s
  | .flashEraseDone dt pulses fails => Sys2Proof.Machine.execFlashEraseDone dt pulses fails s
  | .erasePendingLong => Sys2Proof.Machine.execErasePendingLong s
  | .bootSelect imgA imgB => Sys2Proof.Machine.execBootSelect imgA imgB s
  | .journalReplay => Sys2Proof.Machine.execJournalReplay s
  | .journalReclaim => Sys2Proof.Machine.execJournalReclaim s
  | .frontierSearch disc side layer zone found => Sys2Proof.Machine.execFrontierSearch disc side layer zone found s
  -- power, modes, temperature and events
  | .pwrfailAssert => Sys2Proof.Machine.execPwrfailAssert s
  | .pfJournalWrite dt => Sys2Proof.Machine.execPfJournalWrite dt s
  | .pwrfailDeassert => Sys2Proof.Machine.execPwrfailDeassert s
  | .pwrfailRecover => Sys2Proof.Machine.execPwrfailRecover s
  | .supplyFault dt => Sys2Proof.Machine.execSupplyFault dt s
  | .wake srcs intact => Sys2Proof.Machine.execWake srcs intact s
  | .modeTransitionDone romOk katOk => Sys2Proof.Machine.execModeTransitionDone romOk katOk s
  | .fwReady slots stns ember => Sys2Proof.Machine.execFwReady slots stns ember s
  | .watchdogKick => Sys2Proof.Machine.execWatchdogKick s
  | .watchdogExpire => Sys2Proof.Machine.execWatchdogExpire s
  | .thermalReading dt temps => Sys2Proof.Machine.execThermalReading dt temps s
  | .thermalExit => Sys2Proof.Machine.execThermalExit s
  | .thermtrip => Sys2Proof.Machine.execThermtrip s
  | .powerCapEstimate dt own => Sys2Proof.Machine.execPowerCapEstimate dt own s
  | .capExceeded => Sys2Proof.Machine.execCapExceeded s
  | .eventLogCopy => Sys2Proof.Machine.execEventLogCopy s
  | .eventInterrupt => Sys2Proof.Machine.execEventInterrupt s
  -- the tally
  | .tallyStart romOk katOk => Sys2Proof.Machine.execTallyStart romOk katOk s
  | .tallyMinuteBoundary lost => Sys2Proof.Machine.execTallyMinuteBoundary lost s
  | .tallyMsSample => Sys2Proof.Machine.execTallyMsSample s
  | .tallyTapEvent test => Sys2Proof.Machine.execTallyTapEvent test s
  | .tallyRecordProgram bad => Sys2Proof.Machine.execTallyRecordProgram bad s
  | .tallySectorErase => Sys2Proof.Machine.execTallySectorErase s
  | .tallyPfClose low => Sys2Proof.Machine.execTallyPfClose low s
  | .tallySeal dt level ok1 ok2 => Sys2Proof.Machine.execTallySeal dt level ok1 ok2 s
  -- calibration
  | .calTrigger kind inst => Sys2Proof.Machine.execCalTrigger kind inst s
  | .calRunAll => Sys2Proof.Machine.execCalRunAll s
  | .calPortRun port runA runB => Sys2Proof.Machine.execCalPortRun port runA runB s
  | .calPortApply port => Sys2Proof.Machine.execCalPortApply port s
  | .calSliceRunDone stn side => Sys2Proof.Machine.execCalSliceRunDone stn side s
  | .calSliceApply stn side => Sys2Proof.Machine.execCalSliceApply stn side s
  | .calTrimRun stn side => Sys2Proof.Machine.execCalTrimRun stn side s
  | .calTrimApply stn side => Sys2Proof.Machine.execCalTrimApply stn side s
  | .calStore kind inst => Sys2Proof.Machine.execCalStore kind inst s
  -- firmware update
  | .kilnEnd => Sys2Proof.Machine.execKilnEnd s
  | .kilnTimeout => Sys2Proof.Machine.execKilnTimeout s
  | .fwActivateReset => Sys2Proof.Machine.execFwActivateReset s
  | .trialConfirm => Sys2Proof.Machine.execTrialConfirm s
  | .trialTimeout => Sys2Proof.Machine.execTrialTimeout s
  -- rows the table ends with
  | .flashSeqError => Sys2Proof.Machine.execFlashSeqError s
  | .ringEchoReceive port seq turn => Sys2Proof.Machine.execRingEchoReceive port seq turn s
  | .referenceClockLost => Sys2Proof.Machine.execReferenceClockLost s
  | .pickerDiscFall picker => Sys2Proof.Machine.execPickerDiscFall picker s

end Sys2Proof.Machine
end

