-- ==== Sys2Proof/Machine/Step.lean ====
section
/-!
DEFINITION. One step: the command at the front of the queue is carried out. On an empty queue the block idles for one cycle of
the clock that runs.
-/

namespace Sys2Proof.Machine

/-- Nothing is commanded: one CCLK cycle passes, or one AOCLK edge while CCLK is stopped (R50, R55); while PORST_N is asserted
nothing counts. DESIGN CHOICE, assumption 1. -/
def State.idle (s : State) : State :=
  if s.pw.porst then s else if s.tb.cclk then s.advance 1 else s.coarse 1

/-- The command at the front of the queue is taken and carried out with the queue's rest. DESIGN CHOICE, assumptions 1, 7, 201. -/
def step (s : State) : Host.Outcome State Fault Refusal :=
  match s.pending with
  | [] => .next s.idle
  | c :: rest => exec c { s with pending := rest }

/-- The state with the command that a word spells in front of its queue. DESIGN CHOICE, assumption 6. -/
def State.withFetchWord (s : State) (nbits w : Nat) : State :=
  match decodeTableWord nbits w with
  | some c => { s with pending := c :: s.pending }
  | none => s

end Sys2Proof.Machine
end

