-- ==== Sys2Proof/Safety.lean ====
section
/-!
DEFINITION. What the statements about the machine are said in: that a command completes, that TIME and device memory are sound,
and what a change of the state leaves as it was.
-/

namespace Sys2Proof.Machine

/-- A command completes in a state, and the next state satisfies a property. -/
def State.gives (s : State) (c : Instr) (p : State → Prop) : Prop := ∃ t, exec c s = .next t ∧ p t

/-- The outcome of the command with a queue and tag is fixed: its status, two results and FIELD_OFFSET. -/
abbrev State.ended (s : State) (sq tag status a b field : Nat) : Prop :=
  (s.cmd? sq tag).map (fun c => (c.phase, c.status, c.resA, c.resB, c.field)) = some (.fixed, status, a, b, field)

/-- The command with a queue and tag is under way. -/
abbrev State.underWay (s : State) (sq tag : Nat) : Prop := (s.cmd? sq tag).map (fun c => c.phase) = some .started

/-- A command is served here for this cell's host, and its completion is to be written. -/
def Cmd.local (c : Cmd) : Bool := !c.silent && c.origin.isNone

/-- The newest entry of the EVT ring is this event with these data items. -/
def State.lastEvent (s : State) (code : Nat) (data : List Nat) : Prop :=
  ∃ e, s.ev.ring.getLast? = some e ∧ e.code = code ∧ e.data = data

/-- TIME is a valid TIME value: TIME_TICK below 1,500,000,000, TIME_SEC of 32 bits (R49, R51). -/
abbrev State.timeOk (s : State) : Prop := s.tb.tick < hz ∧ s.tb.sec < 2 ^ 32

/-- What holds of every state of the machine: TIME is valid and device memory is in its canonical form. -/
abbrev State.sound (s : State) : Prop := s.timeOk ∧ Memory.wf s.mem = true

/-- The parts of the state beside the registers. -/
inductive Part where
  | now | out | free | ev | tb | pw | sealed | stns | seekQ | slices | headWait | discs | zones | held | cmds | cmdSeq
  | sqs | cqs | grps | profs | rrGroup | rrQueue | rrLeft | ladders | ladderWait | damage | damageSeq | mem | bufs | gens
  | pools | copyWait | engines | chanJobs | jq | mgmtQ | loop | heads | spins | axes | lib | cals | stack | hep | ms
  | flash | tally | firm
deriving DecidableEq, Repr

/-- A part is the same in two states. -/
def Part.same (p : Part) (s t : State) : Prop :=
  match p with
  | .now => t.now = s.now
  | .out => t.out = s.out
  | .free => t.free = s.free
  | .ev => t.ev = s.ev
  | .tb => t.tb = s.tb
  | .pw => t.pw = s.pw
  | .sealed => t.sealed = s.sealed
  | .stns => t.stns = s.stns
  | .seekQ => t.seekQ = s.seekQ
  | .slices => t.slices = s.slices
  | .headWait => t.headWait = s.headWait
  | .discs => t.discs = s.discs
  | .zones => t.zones = s.zones
  | .held => t.held = s.held
  | .cmds => t.cmds = s.cmds
  | .cmdSeq => t.cmdSeq = s.cmdSeq
  | .sqs => t.sqs = s.sqs
  | .cqs => t.cqs = s.cqs
  | .grps => t.grps = s.grps
  | .profs => t.profs = s.profs
  | .rrGroup => t.rrGroup = s.rrGroup
  | .rrQueue => t.rrQueue = s.rrQueue
  | .rrLeft => t.rrLeft = s.rrLeft
  | .ladders => t.ladders = s.ladders
  | .ladderWait => t.ladderWait = s.ladderWait
  | .damage => t.damage = s.damage
  | .damageSeq => t.damageSeq = s.damageSeq
  | .mem => t.mem = s.mem
  | .bufs => t.bufs = s.bufs
  | .gens => t.gens = s.gens
  | .pools => t.pools = s.pools
  | .copyWait => t.copyWait = s.copyWait
  | .engines => t.engines = s.engines
  | .chanJobs => t.chanJobs = s.chanJobs
  | .jq => t.jq = s.jq
  | .mgmtQ => t.mgmtQ = s.mgmtQ
  | .loop => t.loop = s.loop
  | .heads => t.heads = s.heads
  | .spins => t.spins = s.spins
  | .axes => t.axes = s.axes
  | .lib => t.lib = s.lib
  | .cals => t.cals = s.cals
  | .stack => t.stack = s.stack
  | .hep => t.hep = s.hep
  | .ms => t.ms = s.ms
  | .flash => t.flash = s.flash
  | .tally => t.tally = s.tally
  | .firm => t.firm = s.firm

/-- From s to t no register field changes but those listed, and no part beside the registers but those listed. -/
def State.onlyChanges (s t : State) (fs : List Fld) (ps : List Part) : Prop :=
  (∀ f ∈ Reg.table, f.id ∉ fs.map Fld.id → ∀ i, t.rd f i = s.rd f i) ∧ ∀ p, p ∉ ps → p.same s t

end Sys2Proof.Machine
end

