-- ==== Sys2Proof/Frames.lean ====
section
/-!
DEFINITION. The frame of every command: the register fields that it may change and the parts of the state beside the registers that it
may change. Sets of fields that several commands share are named after the operation of the model that changes them.
-/

namespace Sys2Proof.Machine

/-- The register fields that `State.tidyCalib` may change. -/
def Frame.tidyCalib : List Fld := [
  Reg.FLC_STATUS_LOG_B, Reg.FLC_STATUS_SUSPENDED, Reg.FLC_STATUS_ERASING, Reg.FLC_STATUS_BUSY, Reg.FLC_ERASE_SECTOR,
  Reg.FLC_ERASE_SEQ_SEQ]

/-- The register fields that `State.opDone` may change. -/
def Frame.opDone : List Fld := [
  Reg.MOT_AX_STATUS_MOVING, Reg.MOT_AX_STATUS_STATE, Reg.STN_HD_CMD_BUSY, Reg.STN_HD_CMD_RESULT, Reg.STN_HD_STATUS_STATE]

/-- The register fields that `State.startReq` may change. -/
def Frame.startReq : List Fld := [
  Reg.PWR_EVT_EVENTS, Reg.TIME_LATE_COUNT, Reg.FLC_EVT_EVENTS, Reg.MEMC_EVT_EVENTS, Reg.BPM_EVT_EVENTS, Reg.DMA_EVT_EVENTS,
  Reg.CASC_EVT_EVENTS, Reg.CAL_EVT_EVENTS, Reg.MOT_ERR_VALID, Reg.MOT_ERR_AXIS, Reg.MOT_ERR_CODE, Reg.MOT_AX_STATUS_DIR,
  Reg.MOT_AX_STATUS_MOVING, Reg.MOT_AX_STATUS_STATE, Reg.LIB_EVT_EVENTS, Reg.CMDQ_EVT_EVENTS, Reg.EVT_STATUS_OVERFLOW,
  Reg.EVT_LOST_COUNT, Reg.STN_HD_CMD_BUSY, Reg.STN_HD_CMD_RESULT, Reg.STN_HD_STATUS_REL_LOCK, Reg.STN_HD_STATUS_CLK_LOCK,
  Reg.STN_HD_STATUS_TRK_LOCK, Reg.STN_HD_STATUS_STATE, Reg.STN_HD_EVT_EVENTS, Reg.STN_SP_EVT_EVENTS, Reg.LPE_PRM_VALUE,
  Reg.LPE_OUT_VALUE, Reg.LPE_OUT_OVR]

/-- The register fields that `State.stopSpindle` may change. -/
def Frame.stopSpindle : List Fld := [
  Reg.PWR_EVT_EVENTS, Reg.FLC_EVT_EVENTS, Reg.MEMC_EVT_EVENTS, Reg.BPM_EVT_EVENTS, Reg.DMA_EVT_EVENTS, Reg.CASC_EVT_EVENTS,
  Reg.CAL_EVT_EVENTS, Reg.LIB_EVT_EVENTS, Reg.CMDQ_EVT_EVENTS, Reg.EVT_STATUS_OVERFLOW, Reg.EVT_LOST_COUNT,
  Reg.STN_HD_EVT_EVENTS, Reg.STN_SP_STATUS_SHORT, Reg.STN_SP_STATUS_PHASE_LOCKED, Reg.STN_SP_STATUS_AT_SPEED,
  Reg.STN_SP_STATUS_STATE, Reg.STN_SP_EVT_EVENTS, Reg.LPE_PRM_VALUE, Reg.LPE_OUT_VALUE, Reg.LPE_OUT_OVR]

/-- The register fields that `State.requestReset` may change. -/
def Frame.requestReset : List Fld := [
  Reg.PWR_EVT_EVENTS, Reg.FLC_STATUS_SUSPENDED, Reg.FLC_STATUS_ERASING, Reg.FLC_STATUS_BUSY, Reg.FLC_EVT_EVENTS,
  Reg.MEMC_EVT_EVENTS, Reg.BPM_EVT_EVENTS, Reg.DMA_EVT_EVENTS, Reg.CASC_EVT_EVENTS, Reg.CAL_EVT_EVENTS, Reg.MOT_AX_CMD_BUSY,
  Reg.MOT_AX_CMD_RESULT, Reg.MOT_AX_POS_VALUE, Reg.MOT_AX_STATUS_SPEED, Reg.MOT_AX_STATUS_MOVING, Reg.MOT_AX_STATUS_REF,
  Reg.MOT_AX_STATUS_STATE, Reg.LIB_EVT_EVENTS, Reg.CMDQ_EVT_EVENTS, Reg.EVT_STATUS_OVERFLOW, Reg.EVT_LOST_COUNT,
  Reg.STN_HD_CMD_BUSY, Reg.STN_HD_CMD_RESULT, Reg.STN_HD_STATUS_WRITING, Reg.STN_HD_STATUS_REL_LOCK,
  Reg.STN_HD_STATUS_CLK_LOCK, Reg.STN_HD_STATUS_TRK_LOCK, Reg.STN_HD_STATUS_FOC_LOCK, Reg.STN_HD_STATUS_STATE,
  Reg.STN_HD_EVT_EVENTS, Reg.STN_SP_STATUS_SHORT, Reg.STN_SP_STATUS_PHASE_LOCKED, Reg.STN_SP_STATUS_AT_SPEED,
  Reg.STN_SP_STATUS_STATE, Reg.STN_SP_EVT_EVENTS, Reg.LPE_PRM_VALUE, Reg.LPE_OUT_VALUE, Reg.LPE_OUT_OVR]

/-- The register fields that `State.wake` may change. -/
def Frame.wake : List Fld := [
  Reg.PWR_EVT_EVENTS, Reg.FLC_EVT_EVENTS, Reg.MEMC_EVT_EVENTS, Reg.BPM_EVT_EVENTS, Reg.DMA_EVT_EVENTS, Reg.CASC_EVT_EVENTS,
  Reg.CAL_EVT_EVENTS, Reg.MOT_ERR_VALID, Reg.MOT_ERR_AXIS, Reg.MOT_ERR_CODE, Reg.MOT_AX_STATUS_DIR, Reg.MOT_AX_STATUS_MOVING,
  Reg.MOT_AX_STATUS_STATE, Reg.LIB_EVT_EVENTS, Reg.CMDQ_EVT_EVENTS, Reg.EVT_STATUS_OVERFLOW, Reg.EVT_LOST_COUNT,
  Reg.STN_HD_STATUS_STATE, Reg.STN_HD_POS_VALID, Reg.STN_HD_EVT_EVENTS, Reg.STN_SP_TARGET_RPM, Reg.STN_SP_STATUS_FAULT_CAUSE,
  Reg.STN_SP_STATUS_ATTEMPT, Reg.STN_SP_STATUS_SHORT, Reg.STN_SP_STATUS_PHASE_LOCKED, Reg.STN_SP_STATUS_AT_SPEED,
  Reg.STN_SP_STATUS_STATE, Reg.STN_SP_SPEED_SP_RPM, Reg.STN_SP_EVT_EVENTS, Reg.LPE_PRM_VALUE, Reg.LPE_OUT_VALUE,
  Reg.LPE_OUT_OVR]

/-- The register fields that `State.flashResult` may change. -/
def Frame.flashResult : List Fld := [
  Reg.PWR_EVT_EVENTS, Reg.FLC_STATUS_RESULT, Reg.FLC_EVT_EVENTS, Reg.MEMC_EVT_EVENTS, Reg.BPM_EVT_EVENTS, Reg.DMA_EVT_EVENTS,
  Reg.CASC_EVT_EVENTS, Reg.CAL_EVT_EVENTS, Reg.LIB_EVT_EVENTS, Reg.CMDQ_EVT_EVENTS, Reg.EVT_STATUS_OVERFLOW,
  Reg.EVT_LOST_COUNT, Reg.STN_HD_EVT_EVENTS, Reg.STN_SP_EVT_EVENTS]

/-- The register fields that `State.headMove` may change. -/
def Frame.headMove : List Fld := [
  Reg.MOT_ERR_VALID, Reg.MOT_ERR_AXIS, Reg.MOT_ERR_CODE, Reg.MOT_AX_STATUS_DIR, Reg.MOT_AX_STATUS_MOVING,
  Reg.MOT_AX_STATUS_STATE]

/-- The register fields that `State.stopAxis` may change. -/
def Frame.stopAxis : List Fld := [
  Reg.MOT_AX_CMD_BUSY, Reg.MOT_AX_CMD_RESULT, Reg.MOT_AX_POS_VALUE, Reg.MOT_AX_STATUS_SPEED, Reg.MOT_AX_STATUS_MOVING,
  Reg.MOT_AX_STATUS_REF, Reg.MOT_AX_STATUS_STATE]

/-- The register fields that `State.openDoor` may change. -/
def Frame.openDoor : List Fld := [
  Reg.PWR_EVT_EVENTS, Reg.FLC_EVT_EVENTS, Reg.MEMC_EVT_EVENTS, Reg.BPM_EVT_EVENTS, Reg.DMA_EVT_EVENTS, Reg.CASC_EVT_EVENTS,
  Reg.CAL_EVT_EVENTS, Reg.MOT_ERR_VALID, Reg.MOT_ERR_AXIS, Reg.MOT_ERR_CODE, Reg.MOT_AX_POS_VALUE, Reg.MOT_AX_STATUS_DIR,
  Reg.LIB_PK_LOC, Reg.LIB_PK_STATE, Reg.LIB_STATUS_DOOR_LOCKED, Reg.LIB_DOOR_OPEN_READY, Reg.LIB_EVT_EVENTS,
  Reg.CMDQ_EVT_EVENTS, Reg.EVT_STATUS_OVERFLOW, Reg.EVT_LOST_COUNT, Reg.STN_HD_EVT_EVENTS, Reg.STN_SP_EVT_EVENTS]

/-- The register fields that `State.lockDue` may change. -/
def Frame.lockDue : List Fld := [
  Reg.GCTL_STATUS_TIME_LOCKED, Reg.PWR_EVT_EVENTS, Reg.TIME_STATUS_STATE, Reg.FLC_EVT_EVENTS, Reg.MEMC_EVT_EVENTS,
  Reg.BPM_EVT_EVENTS, Reg.DMA_EVT_EVENTS, Reg.CASC_EVT_EVENTS, Reg.CAL_EVT_EVENTS, Reg.LIB_EVT_EVENTS, Reg.CMDQ_EVT_EVENTS,
  Reg.EVT_STATUS_OVERFLOW, Reg.EVT_LOST_COUNT, Reg.STN_HD_EVT_EVENTS, Reg.STN_SP_EVT_EVENTS]

/-- The register fields that `State.settle` may change. -/
def Frame.settle : List Fld := [
  Reg.PWR_EVT_EVENTS, Reg.FLC_EVT_EVENTS, Reg.MEMC_EVT_EVENTS, Reg.BPM_EVT_EVENTS, Reg.DMA_EVT_EVENTS,
  Reg.HEP_BIAS_CNT_TO_DEVICE, Reg.CASC_EVT_EVENTS, Reg.CAL_EVT_EVENTS, Reg.MOT_AX_STATUS_MOVING, Reg.MOT_AX_STATUS_STATE,
  Reg.LIB_EVT_EVENTS, Reg.CMDQ_EVT_EVENTS, Reg.EVT_STATUS_OVERFLOW, Reg.EVT_LOST_COUNT, Reg.STN_HD_CMD_BUSY,
  Reg.STN_HD_CMD_RESULT, Reg.STN_HD_STATUS_WRITING, Reg.STN_HD_STATUS_REL_LOCK, Reg.STN_HD_STATUS_CLK_LOCK,
  Reg.STN_HD_STATUS_TRK_LOCK, Reg.STN_HD_STATUS_FOC_LOCK, Reg.STN_HD_STATUS_STATE, Reg.STN_HD_EVT_EVENTS,
  Reg.STN_SP_TARGET_RPM, Reg.STN_SP_STATUS_FAULT_CAUSE, Reg.STN_SP_STATUS_ATTEMPT, Reg.STN_SP_STATUS_SHORT,
  Reg.STN_SP_STATUS_PHASE_LOCKED, Reg.STN_SP_STATUS_AT_SPEED, Reg.STN_SP_STATUS_STATE, Reg.STN_SP_SPEED_SP_RPM,
  Reg.STN_SP_EVT_EVENTS, Reg.SLC_CTRL_RELEASE, Reg.SLC_ASSIGN_ASSIGNED, Reg.SLC_ASSIGN_MODE, Reg.SLC_ASSIGN_HEAD,
  Reg.SLC_ASSIGN_STATION, Reg.SLC_STATUS_ENC_READY, Reg.SLC_STATUS_VFY_PENDING, Reg.SLC_STATUS_BLANK, Reg.SLC_STATUS_STATE,
  Reg.SLC_EQ_CTRL_COMMIT_PENDING, Reg.SLC_EQ_CTRL_COMMIT, Reg.SLC_RATE_STATUS_HOLDING, Reg.SLC_RATE_STATUS_PAUSED,
  Reg.SLC_RATE_STATUS_BACKLOG, Reg.SLC_EQ_SET_COEF, Reg.LPE_PRM_VALUE, Reg.LPE_OUT_VALUE, Reg.LPE_OUT_OVR]

/-- The register fields that `State.showTable` may change. -/
def Frame.showTable : List Fld := [
  Reg.GCTL_CELL_STACK_SIZE, Reg.GCTL_CELL_STACKED, Reg.CASC_STATUS_REACHABLE, Reg.CASC_STATUS_MEMBERS]

/-- The register fields that `State.coreTrap` may change. -/
def Frame.coreTrap : List Fld := [
  Reg.GCTL_STATUS_CINDER_CAUSE, Reg.GCTL_STATUS_FAULT, Reg.GCTL_STATUS_MODE, Reg.PWR_EVT_EVENTS, Reg.FLC_EVT_EVENTS,
  Reg.MEMC_EVT_EVENTS, Reg.BPM_EVT_EVENTS, Reg.DMA_EVT_EVENTS, Reg.DMA_ENG_STATUS_QUEUED, Reg.DMA_ENG_STATUS_BUSY,
  Reg.DMA_ENG_STATUS_CHANNEL, Reg.DMA_CH_STATUS_STATE, Reg.CASC_EVT_EVENTS, Reg.CAL_EVT_EVENTS, Reg.MOT_AX_CMD_BUSY,
  Reg.MOT_AX_CMD_RESULT, Reg.MOT_AX_POS_VALUE, Reg.MOT_AX_STATUS_SPEED, Reg.MOT_AX_STATUS_MOVING, Reg.MOT_AX_STATUS_REF,
  Reg.MOT_AX_STATUS_STATE, Reg.LIB_EVT_EVENTS, Reg.CMDQ_EVT_EVENTS, Reg.EVT_STATUS_OVERFLOW, Reg.EVT_LOST_COUNT,
  Reg.STN_HD_EVT_EVENTS, Reg.STN_SP_EVT_EVENTS, Reg.LPE_STATUS_STATE]

/-- The register fields that `State.storeErr` may change. -/
def Frame.storeErr : List Fld := [
  Reg.PWR_EVT_EVENTS, Reg.FLC_EVT_EVENTS, Reg.MEMC_EVT_EVENTS, Reg.MEMC_ERR_ADDR_ADDR, Reg.MEMC_ERR_INFO_VALID,
  Reg.MEMC_ERR_INFO_SOURCE, Reg.MEMC_ERR_INFO_CHANNEL, Reg.MEMC_ERR_INFO_SUBCH, Reg.MEMC_ERR_INFO_RANK,
  Reg.MEMC_ERR_INFO_CODEWORD, Reg.MEMC_ERR_INFO_DEVICE, Reg.MEMC_ERR_INFO_BEAT, Reg.MEMC_UE_CNT_COUNT, Reg.BPM_EVT_EVENTS,
  Reg.DMA_EVT_EVENTS, Reg.CASC_EVT_EVENTS, Reg.CAL_EVT_EVENTS, Reg.LIB_EVT_EVENTS, Reg.CMDQ_EVT_EVENTS,
  Reg.EVT_STATUS_OVERFLOW, Reg.EVT_LOST_COUNT, Reg.STN_HD_EVT_EVENTS, Reg.STN_SP_EVT_EVENTS]

/-- The register fields that `State.storeBroken` may change. -/
def Frame.storeBroken : List Fld := [
  Reg.PWR_EVT_EVENTS, Reg.FLC_EVT_EVENTS, Reg.MEMC_EVT_EVENTS, Reg.BPM_EVT_EVENTS, Reg.DMA_EVT_EVENTS, Reg.CASC_EVT_EVENTS,
  Reg.CAL_EVT_EVENTS, Reg.LIB_EVT_EVENTS, Reg.CMDQ_EVT_EVENTS, Reg.EVT_STATUS_OVERFLOW, Reg.EVT_LOST_COUNT,
  Reg.STN_HD_EVT_EVENTS, Reg.STN_SP_SPEED_SP_RPM, Reg.STN_SP_EVT_EVENTS, Reg.SLC_CTRL_RELEASE, Reg.SLC_ASSIGN_ASSIGNED,
  Reg.SLC_ASSIGN_MODE, Reg.SLC_ASSIGN_HEAD, Reg.SLC_ASSIGN_STATION, Reg.SLC_STATUS_ENC_READY, Reg.SLC_STATUS_VFY_PENDING,
  Reg.SLC_STATUS_BLANK, Reg.SLC_STATUS_STATE, Reg.SLC_EQ_CTRL_COMMIT_PENDING, Reg.SLC_EQ_CTRL_COMMIT,
  Reg.SLC_RATE_STATUS_HOLDING, Reg.SLC_RATE_STATUS_PAUSED, Reg.SLC_RATE_STATUS_BACKLOG, Reg.SLC_EQ_SET_COEF]

/-- The register fields that `State.headsGiveUp` may change. -/
def Frame.headsGiveUp : List Fld := [
  Reg.PWR_EVT_EVENTS, Reg.FLC_EVT_EVENTS, Reg.MEMC_EVT_EVENTS, Reg.BPM_EVT_EVENTS, Reg.DMA_EVT_EVENTS, Reg.CASC_EVT_EVENTS,
  Reg.CAL_EVT_EVENTS, Reg.MOT_AX_STATUS_MOVING, Reg.MOT_AX_STATUS_STATE, Reg.LIB_EVT_EVENTS, Reg.CMDQ_EVT_EVENTS,
  Reg.EVT_STATUS_OVERFLOW, Reg.EVT_LOST_COUNT, Reg.STN_HD_CMD_BUSY, Reg.STN_HD_CMD_RESULT, Reg.STN_HD_STATUS_WRITING,
  Reg.STN_HD_STATUS_REL_LOCK, Reg.STN_HD_STATUS_CLK_LOCK, Reg.STN_HD_STATUS_TRK_LOCK, Reg.STN_HD_STATUS_FOC_LOCK,
  Reg.STN_HD_STATUS_STATE, Reg.STN_HD_EVT_EVENTS, Reg.STN_SP_EVT_EVENTS, Reg.LPE_PRM_VALUE]

/-- The register fields that `State.tallyJump` may change. -/
def Frame.tallyJump : List Fld := [
  Reg.PWR_EVT_EVENTS, Reg.TALLY_COUNT_CARRY, Reg.TALLY_OPEN_START_SEC, Reg.FLC_EVT_EVENTS, Reg.MEMC_EVT_EVENTS,
  Reg.BPM_EVT_EVENTS, Reg.DMA_EVT_EVENTS, Reg.CASC_EVT_EVENTS, Reg.CAL_EVT_EVENTS, Reg.LIB_EVT_EVENTS, Reg.CMDQ_EVT_EVENTS,
  Reg.EVT_STATUS_OVERFLOW, Reg.EVT_LOST_COUNT, Reg.STN_HD_EVT_EVENTS, Reg.STN_SP_EVT_EVENTS]

/-- The register fields that `State.ladderMismatch` may change. -/
def Frame.ladderMismatch : List Fld := [
  Reg.PWR_EVT_EVENTS, Reg.TIME_LATE_COUNT, Reg.FLC_EVT_EVENTS, Reg.MEMC_STATUS_SELF_REFRESH, Reg.MEMC_EVT_EVENTS,
  Reg.MEMC_ERR_ADDR_ADDR, Reg.MEMC_ERR_INFO_VALID, Reg.MEMC_ERR_INFO_SOURCE, Reg.MEMC_ERR_INFO_CHANNEL,
  Reg.MEMC_ERR_INFO_SUBCH, Reg.MEMC_ERR_INFO_RANK, Reg.MEMC_ERR_INFO_CODEWORD, Reg.MEMC_ERR_INFO_DEVICE,
  Reg.MEMC_ERR_INFO_BEAT, Reg.MEMC_INJ_CTRL_ARM, Reg.MEMC_UE_CNT_COUNT, Reg.BPM_EVT_EVENTS, Reg.DMA_EVT_EVENTS,
  Reg.DMA_ENG_STATUS_QUEUED, Reg.DMA_ENG_STATUS_BUSY, Reg.DMA_ENG_STATUS_CHANNEL, Reg.DMA_CH_DESC_ADDR,
  Reg.DMA_CH_CTRL_PASID_EN, Reg.DMA_CH_CTRL_PASID, Reg.DMA_CH_STATUS_BAD, Reg.DMA_CH_STATUS_STATE, Reg.HEP_BIAS_CNT_TO_DEVICE,
  Reg.CASC_EVT_EVENTS, Reg.CAL_EVT_EVENTS, Reg.MOT_ERR_VALID, Reg.MOT_ERR_AXIS, Reg.MOT_ERR_CODE, Reg.MOT_AX_STATUS_DIR,
  Reg.MOT_AX_STATUS_MOVING, Reg.MOT_AX_STATUS_STATE, Reg.LIB_EVT_EVENTS, Reg.CMDQ_EVT_EVENTS, Reg.EVT_STATUS_OVERFLOW,
  Reg.EVT_LOST_COUNT, Reg.STN_HD_CMD_BUSY, Reg.STN_HD_CMD_RESULT, Reg.STN_HD_STATUS_WRITING, Reg.STN_HD_STATUS_REL_LOCK,
  Reg.STN_HD_STATUS_CLK_LOCK, Reg.STN_HD_STATUS_TRK_LOCK, Reg.STN_HD_STATUS_FOC_LOCK, Reg.STN_HD_STATUS_STATE,
  Reg.STN_HD_EVT_EVENTS, Reg.STN_SP_TARGET_RPM, Reg.STN_SP_STATUS_FAULT_CAUSE, Reg.STN_SP_STATUS_ATTEMPT,
  Reg.STN_SP_STATUS_SHORT, Reg.STN_SP_STATUS_PHASE_LOCKED, Reg.STN_SP_STATUS_AT_SPEED, Reg.STN_SP_STATUS_STATE,
  Reg.STN_SP_SPEED_SP_RPM, Reg.STN_SP_EVT_EVENTS, Reg.SLC_CTRL_RELEASE, Reg.SLC_ASSIGN_ASSIGNED, Reg.SLC_ASSIGN_MODE,
  Reg.SLC_ASSIGN_HEAD, Reg.SLC_ASSIGN_STATION, Reg.SLC_STATUS_ENC_READY, Reg.SLC_STATUS_VFY_PENDING, Reg.SLC_STATUS_BLANK,
  Reg.SLC_STATUS_STATE, Reg.SLC_EQ_CTRL_COMMIT_PENDING, Reg.SLC_EQ_CTRL_COMMIT, Reg.SLC_RATE_STATUS_HOLDING,
  Reg.SLC_RATE_STATUS_PAUSED, Reg.SLC_RATE_STATUS_BACKLOG, Reg.SLC_EVT_HEADER_MISMATCH, Reg.SLC_STAT_COUNT,
  Reg.SLC_EQ_SET_COEF, Reg.LPE_PRM_VALUE, Reg.LPE_OUT_VALUE, Reg.LPE_OUT_OVR]

/-- The register fields that `State.noteCe` may change. -/
def Frame.noteCe : List Fld := [
  Reg.PWR_EVT_EVENTS, Reg.FLC_EVT_EVENTS, Reg.MEMC_EVT_EVENTS, Reg.MEMC_CE_ADDR_ADDR, Reg.MEMC_CE_INFO_VALID,
  Reg.MEMC_CE_INFO_SOURCE, Reg.MEMC_CE_INFO_CHANNEL, Reg.MEMC_CE_INFO_SUBCH, Reg.MEMC_CE_INFO_RANK, Reg.MEMC_CE_INFO_CODEWORD,
  Reg.MEMC_CE_INFO_DEVICE, Reg.MEMC_CE_INFO_BEAT, Reg.MEMC_CE_CNT_COUNT, Reg.BPM_EVT_EVENTS, Reg.DMA_EVT_EVENTS,
  Reg.CASC_EVT_EVENTS, Reg.CAL_EVT_EVENTS, Reg.LIB_EVT_EVENTS, Reg.CMDQ_EVT_EVENTS, Reg.EVT_STATUS_OVERFLOW,
  Reg.EVT_LOST_COUNT, Reg.STN_HD_EVT_EVENTS, Reg.STN_SP_EVT_EVENTS]

/-- The register fields that `State.takeZone` may change. -/
def Frame.takeZone : List Fld := [
  Reg.PWR_EVT_EVENTS, Reg.FLC_EVT_EVENTS, Reg.MEMC_EVT_EVENTS, Reg.BPM_EVT_EVENTS, Reg.DMA_EVT_EVENTS, Reg.CASC_EVT_EVENTS,
  Reg.CAL_EVT_EVENTS, Reg.LIB_EVT_EVENTS, Reg.CMDQ_EVT_EVENTS, Reg.EVT_STATUS_OVERFLOW, Reg.EVT_LOST_COUNT,
  Reg.STN_HD_EVT_EVENTS, Reg.STN_SP_EVT_EVENTS]

/-- The register fields that `State.writeChain` may change. -/
def Frame.writeChain : List Fld := [
  Reg.PWR_EVT_EVENTS, Reg.FLC_EVT_EVENTS, Reg.MEMC_STATUS_SELF_REFRESH, Reg.MEMC_EVT_EVENTS, Reg.MEMC_ERR_ADDR_ADDR,
  Reg.MEMC_ERR_INFO_VALID, Reg.MEMC_ERR_INFO_SOURCE, Reg.MEMC_ERR_INFO_CHANNEL, Reg.MEMC_ERR_INFO_SUBCH,
  Reg.MEMC_ERR_INFO_RANK, Reg.MEMC_ERR_INFO_CODEWORD, Reg.MEMC_ERR_INFO_DEVICE, Reg.MEMC_ERR_INFO_BEAT, Reg.MEMC_INJ_CTRL_ARM,
  Reg.MEMC_UE_CNT_COUNT, Reg.BPM_EVT_EVENTS, Reg.DMA_EVT_EVENTS, Reg.CASC_EVT_EVENTS, Reg.CAL_EVT_EVENTS, Reg.LIB_EVT_EVENTS,
  Reg.CMDQ_EVT_EVENTS, Reg.EVT_STATUS_OVERFLOW, Reg.EVT_LOST_COUNT, Reg.STN_HD_EVT_EVENTS, Reg.STN_SP_EVT_EVENTS]

/-- The register fields that `State.cacheOp` may change. -/
def Frame.cacheOp : List Fld := [
  Reg.MEMC_CACHE_OP_BUSY, Reg.MEMC_CACHE_OP_RESULT, Reg.MEMC_CACHE_OP_FORCE, Reg.MEMC_CACHE_OP_OP]

/-- The register fields that a command may change; the write of a register by its offset and the resets may change any. -/
def frameFields : Instr → List Fld
  | .registerWrite .. => Reg.table
  | .bar0ReservedAccess .. => Frame.takeZone
  | .eventWindowEnd .. => Frame.takeZone
  | .fetchHold .. => [Reg.GCTL_CTRL_HOLD_ACK, Reg.GCTL_CTRL_FETCH_HOLD]
  | .warmReset .. => Frame.requestReset
  | .coldReset .. => Frame.requestReset
  | .resetTakesEffect => Reg.table
  | .porstAssert => Reg.table
  | .porstDeassert .. => [Reg.GCTL_CELL_MGMT_ADDR, Reg.GCTL_CELL_MASTER]
  | .timeSecondRollover => []
  | .cclkStart => []
  | .ppsEdge .. => Frame.lockDue ++ [Reg.TIME_STATUS_PPS_REJ, Reg.TIME_STATUS_STEP_PENDING, Reg.TIME_PPS_CAP_CAP,
      Reg.TIME_ERR_ERR]
  | .timeStep => Frame.tallyJump ++ [Reg.GCTL_STATUS_TIME_LOCKED, Reg.TIME_STATUS_STEPPED, Reg.TIME_STATUS_STEP_PENDING,
      Reg.TIME_STATUS_STATE, Reg.TIME_STEPS_COUNT]
  | .holdoverTimeout => Frame.lockDue
  | .ppsEnableWrite .. => Frame.lockDue ++ [Reg.TIME_CTRL_PPS_EN]
  | .ppsPolarityWrite .. => [Reg.TIME_CTRL_PPS_FALL]
  | .timeLoadArm => [Reg.TIME_CTRL_LOAD, Reg.TIME_STATUS_LOAD_PENDING]
  | .timeLoadEffect => Frame.tallyJump ++ [Reg.GCTL_STATUS_TIME_LOCKED, Reg.TIME_LOAD_SEC, Reg.TIME_LOAD_TICK,
      Reg.TIME_CTRL_LOAD, Reg.TIME_STATUS_STEP_PENDING, Reg.TIME_STATUS_LOAD_PENDING, Reg.TIME_STATUS_STATE]
  | .fineTimeReload .. => Frame.lockDue
  | .launch .. => []
  | .emberLaunchExit => []
  | .seekSlot .. => []
  | .vgConfigApply .. => []
  | .servoPeriodStart => []
  | .periodPresent => Frame.settle ++ Frame.startReq ++ [Reg.STN_LINK_CTRL_RELEASE, Reg.STN_LINK_STATUS_LANE1_LOCK,
      Reg.STN_LINK_STATUS_LANE0_LOCK, Reg.STN_LINK_STATUS_STATE, Reg.STN_LINK_EVT_DOWN, Reg.STN_HD_POS_VALID]
  | .actuatePresent => []
  | .sensorDelivered .. => Frame.headsGiveUp ++ Frame.stopSpindle ++ [Reg.MOT_AX_STATUS_REF, Reg.STN_LINK_STATUS_FE_SAFE,
      Reg.STN_LINK_EVT_FE_SAFE_ENTERED, Reg.STN_LINK_ERR_MSG_ERR, Reg.STN_LINK_MISS_FE_MISS, Reg.STN_HD_POS_VALID,
      Reg.STN_SP_STATUS_FAULT_CAUSE, Reg.STN_SP_STATUS_ATTEMPT, Reg.STN_SP_SPEED_RPM]
  | .sensorMiss .. => Frame.takeZone ++ [Reg.STN_LINK_MISS_SENSOR_MISS]
  | .samplesReceive .. => Frame.takeZone ++ [Reg.TIME_LATE_COUNT, Reg.STN_LINK_ERR_MSG_ERR, Reg.STN_HD_POS_LEADIN,
      Reg.STN_HD_POS_SLOT, Reg.SLC_STATUS_BLANK, Reg.SLC_STATUS_TRAIL_CLK, Reg.SLC_STATUS_LEAD_CLK, Reg.SLC_STATUS_STATE,
      Reg.SLC_EVT_SPOT_LAG_SHORT, Reg.SLC_EVT_SAMPLES_LOST, Reg.SLC_EVT_ROW_SYNC_MISSED, Reg.SLC_STAT_COUNT,
      Reg.SLC_EQ_SET_COEF]
  | .healthReceive .. => [Reg.STN_LINK_ERR_MSG_ERR]
  | .regrspReceive .. => [Reg.STN_REG_CMD_RESULT, Reg.STN_REG_CMD_DONE, Reg.STN_REG_CMD_BUSY, Reg.STN_LINK_ERR_MSG_ERR,
      Reg.STN_REG_DATA_DATA]
  | .wrackReceive .. => Frame.storeBroken ++ Frame.headsGiveUp ++ [Reg.STN_LINK_ERR_MSG_ERR]
  | .echorspReceive .. => [Reg.STN_LINK_LAT_LAT_VALID, Reg.STN_LINK_LAT_RAW, Reg.STN_LINK_ERR_MSG_ERR]
  | .linkBlockError .. => Frame.takeZone ++ [Reg.STN_LINK_ERR_BLOCK_ERR]
  | .wrdataSend .. => Frame.storeBroken ++ [Reg.TIME_LATE_COUNT, Reg.STN_HD_STATUS_WRITING]
  | .wrdataRetransmit .. => [Reg.STN_LINK_RETX_RETX]
  | .stepSend .. => Frame.takeZone ++ [Reg.MOT_AX_POS_VALUE, Reg.MOT_AX_STATUS_SPEED, Reg.MOT_AX_STATUS_DIR]
  | .stepRetransmit .. => [Reg.STN_LINK_RETX_RETX]
  | .stopSend .. => []
  | .echoSend .. => []
  | .feRegAccess .. => [Reg.STN_REG_CMD_DONE, Reg.STN_REG_CMD_BUSY, Reg.STN_REG_CMD_WRITE]
  | .feRegTimeout .. => Frame.takeZone ++ [Reg.STN_LINK_RETX_RETX, Reg.STN_LINK_EVT_REG_TIMEOUT, Reg.STN_REG_CMD_RESULT,
      Reg.STN_REG_CMD_DONE, Reg.STN_REG_CMD_BUSY]
  | .linkEnable .. => [Reg.STN_LINK_CTRL_ENABLE, Reg.STN_LINK_STATUS_LANE1_LOCK, Reg.STN_LINK_STATUS_LANE0_LOCK,
      Reg.STN_LINK_STATUS_STATE]
  | .linkDisable .. => [Reg.STN_LINK_CTRL_ENABLE, Reg.STN_LINK_STATUS_LANE1_LOCK, Reg.STN_LINK_STATUS_LANE0_LOCK,
      Reg.STN_LINK_STATUS_STATE]
  | .trainingBatchOpen .. => [Reg.STN_LINK_STATUS_LANE1_LOCK, Reg.STN_LINK_STATUS_LANE0_LOCK, Reg.STN_LINK_STATUS_STATE]
  | .trainingBatchClose .. => [Reg.STN_LINK_STATUS_LANE1_LOCK, Reg.STN_LINK_STATUS_LANE0_LOCK, Reg.STN_LINK_STATUS_STATE]
  | .linkTrainDetected .. => [Reg.STN_LINK_STATUS_STATE]
  | .linkBlockLock .. => [Reg.STN_LINK_STATUS_LANE1_LOCK, Reg.STN_LINK_STATUS_LANE0_LOCK, Reg.STN_LINK_STATUS_STATE]
  | .linkDeskewDone .. => [Reg.STN_LINK_STATUS_STATE]
  | .linkIdentifyDone .. => Frame.takeZone ++ [Reg.MOT_AX_STATUS_MOVING, Reg.MOT_AX_STATUS_REF, Reg.MOT_AX_STATUS_STATE,
      Reg.STN_LINK_STATUS_STATE, Reg.STN_LINK_EVT_POWER_CYCLED, Reg.STN_FE_ID_VALUE, Reg.STN_FE_BOOT_VALUE]
  | .linkMeasureDone .. => Frame.takeZone ++ [Reg.CAL_PORT0_CTLE, Reg.CAL_PORT0_PHASE, Reg.CAL_PORT1_TAP6, Reg.CAL_PORT1_TAP5,
      Reg.CAL_PORT1_TAP4, Reg.CAL_PORT1_TAP3, Reg.CAL_PORT2_TAP2, Reg.CAL_PORT2_TAP1, Reg.MOT_AX_STATUS_MOVING,
      Reg.MOT_AX_STATUS_STATE, Reg.STN_LINK_STATUS_LANE1_LOCK, Reg.STN_LINK_STATUS_LANE0_LOCK, Reg.STN_LINK_STATUS_STATE,
      Reg.STN_LINK_LAT_LAT_VALID, Reg.STN_LINK_LAT_RAW, Reg.STN_LINK_EVT_TRAIN_FAIL, Reg.STN_LINK_EVT_UP,
      Reg.STN_LINK_ERR_MSG_ERR, Reg.STN_LINK_ERR_BLOCK_ERR, Reg.STN_LINK_MISS_FE_MISS, Reg.STN_LINK_MISS_SENSOR_MISS,
      Reg.STN_HD_STATUS_STATE, Reg.STN_SP_STATUS_FAULT_CAUSE, Reg.STN_SP_STATUS_ATTEMPT, Reg.STN_SP_STATUS_SHORT,
      Reg.STN_SP_STATUS_AT_SPEED, Reg.STN_SP_STATUS_STATE, Reg.LPE_PRM_VALUE, Reg.LPE_OUT_VALUE, Reg.LPE_OUT_OVR]
  | .linkTrainTimeout .. => Frame.takeZone ++ [Reg.STN_LINK_STATUS_LANE1_LOCK, Reg.STN_LINK_STATUS_LANE0_LOCK,
      Reg.STN_LINK_STATUS_STATE, Reg.STN_LINK_EVT_TRAIN_FAIL]
  | .linkRetry .. => [Reg.STN_LINK_STATUS_STATE]
  | .linkRetryTimeout .. => [Reg.STN_LINK_STATUS_LANE1_LOCK, Reg.STN_LINK_STATUS_LANE0_LOCK, Reg.STN_LINK_STATUS_STATE]
  | .retrainRequest .. => Frame.takeZone ++ [Reg.STN_LINK_CTRL_RETRAIN, Reg.STN_LINK_STATUS_RETRAIN_PENDING]
  | .retrainStart .. => Frame.takeZone ++ [Reg.STN_LINK_CTRL_RETRAIN, Reg.STN_LINK_STATUS_RETRAIN_PENDING]
  | .linkRelease .. => [Reg.STN_LINK_CTRL_RELEASE]
  | .linkLoss .. => Frame.settle ++ Frame.startReq ++ [Reg.STN_LINK_CTRL_RELEASE, Reg.STN_LINK_STATUS_LANE1_LOCK,
      Reg.STN_LINK_STATUS_LANE0_LOCK, Reg.STN_LINK_STATUS_STATE, Reg.STN_LINK_EVT_DOWN, Reg.STN_HD_POS_VALID]
  | .linkDegradedWindow .. => Frame.takeZone ++ [Reg.STN_LINK_EVT_DEGRADED]
  | .zoneResolve .. => Frame.settle
  | .sliceAssign .. => Frame.storeBroken ++ [Reg.SLC_ALIGN_TRAIL_ALIGN, Reg.SLC_ALIGN_LEAD_ALIGN, Reg.SLC_OFS_TRAIL_GAIN,
      Reg.SLC_OFS_LEAD_GAIN, Reg.SLC_OFS_TRAIL_OFS, Reg.SLC_OFS_LEAD_OFS]
  | .sliceWait .. => Frame.takeZone
  | .sliceRelease .. => Frame.storeBroken
  | .sliceReleaseRequest .. => Frame.storeBroken
  | .sliceStatClear .. => [Reg.SLC_STAT_COUNT]
  | .sliceModeChange .. => Frame.storeBroken
  | .eqCommit .. => [Reg.SLC_EQ_CTRL_COMMIT_PENDING, Reg.SLC_EQ_CTRL_COMMIT]
  | .eqCommitCopy .. => [Reg.SLC_EQ_CTRL_COMMIT_PENDING, Reg.SLC_EQ_CTRL_COMMIT, Reg.SLC_EQ_SET_COEF]
  | .eqShadowWrite .. => Frame.takeZone ++ [Reg.SLC_EQ_CTRL_WR_DROP, Reg.SLC_EQ_SET_COEF]
  | .frameDecode .. => Frame.ladderMismatch ++ [Reg.SLC_ALIGN_TRAIL_ALIGN, Reg.SLC_ALIGN_LEAD_ALIGN, Reg.SLC_LAST_PFA_PFA,
      Reg.SLC_LAST_RES_HDR_COPIES, Reg.SLC_LAST_RES_OUTCOME, Reg.SLC_LAST_RES_ROWS_TRAIL, Reg.SLC_LAST_RES_CW_FAILED,
      Reg.SLC_LAST_RES_SYNC_MISSED, Reg.SLC_LAST_RES_ITER_MAX]
  | .frameEncode .. => Frame.settle ++ Frame.storeErr ++ Frame.noteCe
  | .slotVerify .. => Reg.table
  | .rateMatchTick .. => [Reg.STN_SP_SPEED_SP_RPM, Reg.SLC_RATE_STATUS_SCALE]
  | .readPause .. => Frame.takeZone ++ [Reg.SLC_STATUS_STATE, Reg.SLC_RATE_STATUS_PAUSED]
  | .readResume .. => Frame.takeZone ++ [Reg.SLC_STATUS_STATE, Reg.SLC_RATE_STATUS_HOLDING, Reg.SLC_RATE_STATUS_PAUSED]
  | .holdStep .. => [Reg.SLC_STATUS_STATE, Reg.SLC_RATE_STATUS_HOLDING, Reg.SLC_STAT_COUNT]
  | .oneTrackStep .. => [Reg.SLC_STAT_COUNT]
  | .ladderRungDecode .. => Frame.ladderMismatch
  | .rowShiftSearch .. => Frame.ladderMismatch
  | .ladderBudgetExpire .. => Frame.settle ++ Frame.writeChain ++ Frame.startReq ++ [Reg.DMA_ENG_STATUS_QUEUED,
      Reg.DMA_ENG_STATUS_BUSY, Reg.DMA_ENG_STATUS_CHANNEL, Reg.DMA_CH_DESC_ADDR, Reg.DMA_CH_CTRL_PASID_EN,
      Reg.DMA_CH_CTRL_PASID, Reg.DMA_CH_STATUS_BAD, Reg.DMA_CH_STATUS_STATE]
  | .ladderSlotClaim .. => Frame.takeZone
  | .ladderReread .. => Frame.settle ++ Frame.writeChain ++ Frame.startReq ++ [Reg.DMA_ENG_STATUS_QUEUED,
      Reg.DMA_ENG_STATUS_BUSY, Reg.DMA_ENG_STATUS_CHANNEL, Reg.DMA_CH_DESC_ADDR, Reg.DMA_CH_CTRL_PASID_EN,
      Reg.DMA_CH_CTRL_PASID, Reg.DMA_CH_STATUS_BAD, Reg.DMA_CH_STATUS_STATE]
  | .rereadDecode .. => Frame.ladderMismatch
  | .softCombine .. => Frame.ladderMismatch
  | .outerErasureDecode .. => Frame.ladderMismatch
  | .loopLaneRun .. => Frame.takeZone ++ [Reg.STN_SP_STATUS_PHASE_LOCKED, Reg.STN_SP_STATUS_AT_SPEED, Reg.STN_SP_SPEED_SP_RPM,
      Reg.STN_SP_SPEED_RPM, Reg.LPE_STATUS_K_LO, Reg.LPE_STATUS_STATE, Reg.LPE_ERR_VALID, Reg.LPE_ERR_SLOT, Reg.LPE_ERR_CODE,
      Reg.LPE_SWAP_PENDING, Reg.DESC_CTRL_BANK, Reg.DESC_CTRL_EN, Reg.LPE_SLOT_STAT_STALE_CNT, Reg.LPE_SLOT_STAT_SWAP_PENDING,
      Reg.LPE_SLOT_STAT_RAN, Reg.LPE_SLOT_STAT_SEL, Reg.LPE_SLOT_STAT_SAT_LO, Reg.LPE_SLOT_STAT_SAT_HI,
      Reg.LPE_SLOT_STAT_STALE, Reg.LPE_SAT_BITS, Reg.LPE_STALE_BITS, Reg.LPE_SIG_VALUE, Reg.LPE_PRM_VALUE]
  | .loopOverrun .. => Frame.coreTrap
  | .loopParamCopy => []
  | .loopSlotEnable .. => Frame.takeZone ++ [Reg.LPE_ERR_VALID, Reg.LPE_ERR_SLOT, Reg.LPE_ERR_CODE, Reg.LPE_LOAD_PEAK_PHASE,
      Reg.LPE_LOAD_PEAK, Reg.DESC_CTRL_STALE_MAX, Reg.DESC_CTRL_STALE_ACT, Reg.DESC_CTRL_EWRAP, Reg.DESC_CTRL_INTERP,
      Reg.DESC_CTRL_FF_MODE, Reg.DESC_CTRL_FF_EN, Reg.DESC_CTRL_NBR, Reg.DESC_CTRL_INT_MODE, Reg.DESC_CTRL_NSEC,
      Reg.DESC_CTRL_TYPE, Reg.DESC_CTRL_PHASE, Reg.DESC_CTRL_RATE, Reg.DESC_CTRL_EN, Reg.LPE_SLOT_STAT_START,
      Reg.LPE_SLOT_STAT_RAN, Reg.LPE_SLOT_STAT_EN]
  | .loopSlotDisable .. => [Reg.LPE_SWAP_PENDING, Reg.LPE_LOAD_PEAK_PHASE, Reg.LPE_LOAD_PEAK, Reg.DESC_CTRL_BANK,
      Reg.DESC_CTRL_EN, Reg.LPE_SLOT_STAT_START, Reg.LPE_SLOT_STAT_SWAP_PENDING, Reg.LPE_SLOT_STAT_RAN, Reg.LPE_SLOT_STAT_EN,
      Reg.LPE_STALE_BITS]
  | .loopDescWrite .. => [Reg.LPE_ERR_VALID, Reg.LPE_ERR_SLOT, Reg.LPE_ERR_CODE, Reg.DESC_CTRL_STALE_MAX,
      Reg.DESC_CTRL_STALE_ACT, Reg.DESC_CTRL_EWRAP, Reg.DESC_CTRL_INTERP, Reg.DESC_CTRL_FF_MODE, Reg.DESC_CTRL_FF_EN,
      Reg.DESC_CTRL_NBR, Reg.DESC_CTRL_INT_MODE, Reg.DESC_CTRL_NSEC, Reg.DESC_CTRL_TYPE, Reg.DESC_CTRL_PHASE,
      Reg.DESC_CTRL_RATE, Reg.DESC_SRC01_SRC1, Reg.DESC_SRC01_SRC0, Reg.DESC_SRC23_SRC3, Reg.DESC_SRC23_SRC2,
      Reg.DESC_IO_OUT_DEST, Reg.DESC_IO_FF_SRC, Reg.DESC_BR01_BR_SRC1, Reg.DESC_BR01_BR_SRC0, Reg.DESC_BR2_BR_SRC2]
  | .loopBankWrite .. => [Reg.LPE_ERR_VALID, Reg.LPE_ERR_SLOT, Reg.LPE_ERR_CODE, Reg.LPE_BANK_WORD]
  | .loopSwapSlot .. => [Reg.LPE_ERR_VALID, Reg.LPE_ERR_SLOT, Reg.LPE_ERR_CODE, Reg.LPE_SWAP_PENDING, Reg.LPE_SWAP_MODE,
      Reg.LPE_SWAP_GROUP, Reg.LPE_SWAP_SLOT, Reg.DESC_CTRL_BANK, Reg.LPE_SLOT_STAT_SWAP_PENDING]
  | .loopSwapGroup .. => [Reg.LPE_ERR_VALID, Reg.LPE_ERR_SLOT, Reg.LPE_ERR_CODE, Reg.LPE_SWAP_PENDING, Reg.LPE_SWAP_MODE,
      Reg.LPE_SWAP_GROUP, Reg.DESC_CTRL_BANK, Reg.LPE_SLOT_STAT_SWAP_PENDING]
  | .loopSwapExecute .. => [Reg.LPE_SWAP_PENDING, Reg.DESC_CTRL_BANK, Reg.LPE_SLOT_STAT_SWAP_PENDING]
  | .loopSatClear => [Reg.LPE_SAT_BITS]
  | .safeProgramDone => Frame.takeZone ++ [Reg.LPE_STATUS_STATE]
  | .headAcquire .. => Frame.opDone ++ [Reg.STN_HD_CMD_OP, Reg.STN_HD_POS_VALID]
  | .headSeek .. => Frame.headMove ++ [Reg.STN_HD_CMD_BUSY, Reg.STN_HD_CMD_RESULT, Reg.STN_HD_CMD_OP,
      Reg.STN_HD_STATUS_CLK_LOCK, Reg.STN_HD_STATUS_TRK_LOCK, Reg.STN_HD_STATUS_STATE]
  | .headLayer .. => Frame.takeZone ++ Frame.opDone ++ [Reg.STN_HD_CMD_OP, Reg.STN_HD_STATUS_REL_LOCK, Reg.LPE_PRM_VALUE,
      Reg.LPE_OUT_VALUE, Reg.LPE_OUT_OVR]
  | .headPark .. => Frame.headsGiveUp ++ [Reg.STN_HD_CMD_OP]
  | .headOpc .. => Frame.headMove ++ [Reg.STN_HD_CMD_BUSY, Reg.STN_HD_CMD_RESULT, Reg.STN_HD_CMD_OP,
      Reg.STN_HD_STATUS_CLK_LOCK, Reg.STN_HD_STATUS_TRK_LOCK, Reg.STN_HD_STATUS_STATE]
  | .headClearFault .. => Frame.opDone ++ [Reg.STN_HD_CMD_OP]
  | .seekRequest .. => Frame.startReq
  | .layerJumpRequest .. => Frame.startReq
  | .acqStageLocked .. => Frame.headsGiveUp ++ [Reg.STN_HD_POS_VALID, Reg.STN_HD_POS_LEADIN, Reg.STN_HD_POS_SLOT,
      Reg.LPE_OUT_VALUE, Reg.LPE_OUT_OVR]
  | .acqStageTimeout .. => Frame.headsGiveUp
  | .seekJumpDone .. => Frame.startReq ++ [Reg.SLC_ALIGN_TRAIL_ALIGN, Reg.SLC_ALIGN_LEAD_ALIGN]
  | .longSeekSettled .. => Frame.startReq ++ [Reg.STN_HD_STATUS_WRITING, Reg.STN_HD_STATUS_FOC_LOCK, Reg.STN_HD_POS_VALID,
      Reg.STN_HD_POS_LEADIN, Reg.STN_HD_POS_SLOT, Reg.STN_SP_SPEED_SP_RPM, Reg.SLC_ALIGN_TRAIL_ALIGN,
      Reg.SLC_ALIGN_LEAD_ALIGN, Reg.SLC_EQ_SET_COEF]
  | .seekRestart .. => Frame.startReq
  | .layerMoveEnd .. => [Reg.LPE_PRM_VALUE]
  | .relayLocked .. => Frame.startReq ++ [Reg.STN_HD_STATUS_LAYER, Reg.SLC_ALIGN_TRAIL_ALIGN, Reg.SLC_ALIGN_LEAD_ALIGN,
      Reg.SLC_EQ_SET_COEF]
  | .layerJumpTimeout .. => Frame.headsGiveUp ++ [Reg.LPE_OUT_VALUE, Reg.LPE_OUT_OVR]
  | .lockLoss .. => Frame.headsGiveUp ++ [Reg.LPE_OUT_VALUE, Reg.LPE_OUT_OVR]
  | .headRecoveryDone .. => Frame.startReq
  | .headRecoveryTimeout .. => Frame.headsGiveUp
  | .powerLimitDetect .. => Frame.takeZone ++ [Reg.STN_HD_STATUS_PWR_LIMITED, Reg.STN_HD_STATUS_WRITING]
  | .opcTrigger .. => Frame.startReq
  | .opcReadback .. => Frame.startReq ++ [Reg.STN_HD_OPC_RES_E_MIN, Reg.STN_HD_OPC_RES_LAYER, Reg.STN_HD_WPWR_VALID,
      Reg.STN_HD_WPWR_WRITE_SP]
  | .headParkDone .. => Frame.headsGiveUp ++ Frame.stopSpindle ++ Frame.headMove ++ [Reg.STN_SP_TARGET_RPM,
      Reg.STN_SP_STATUS_FAULT_CAUSE, Reg.STN_SP_STATUS_ATTEMPT, Reg.STN_SP_SPEED_SP_RPM]
  | .mountComplete .. => Frame.settle ++ [Reg.CAL_HEAD_VALID, Reg.CAL_HEAD_TRIM_VALID, Reg.STN_HD_WPWR_VALID,
      Reg.STN_HD_LAYER_REL_REL_NOM, Reg.STN_HD_LAYER_SA_SA]
  | .spindleTargetWrite .. => Frame.stopSpindle ++ [Reg.STN_SP_TARGET_RPM, Reg.STN_SP_STATUS_FAULT_CAUSE,
      Reg.STN_SP_STATUS_ATTEMPT, Reg.STN_SP_SPEED_SP_RPM]
  | .spindleSenseEnd .. => Frame.stopSpindle ++ [Reg.STN_SP_STATUS_REVERSE, Reg.STN_SP_SPEED_RPM]
  | .spindleWaitSlowEnd .. => []
  | .spindleRevBrakeEnd .. => []
  | .spindleAlignStart .. => [Reg.STN_SP_STATUS_STATE, Reg.LPE_PRM_VALUE, Reg.LPE_OUT_VALUE, Reg.LPE_OUT_OVR]
  | .spindleAlignEnd .. => [Reg.STN_SP_STATUS_STATE, Reg.LPE_PRM_VALUE]
  | .spindleHandover .. => [Reg.STN_SP_STATUS_STATE, Reg.LPE_PRM_VALUE]
  | .spindleCatchDone .. => Frame.takeZone ++ [Reg.STN_SP_STATUS_STATE, Reg.LPE_PRM_VALUE]
  | .spindleAttemptFail .. => Frame.headsGiveUp ++ [Reg.STN_SP_STATUS_FAULT_CAUSE, Reg.STN_SP_STATUS_ATTEMPT,
      Reg.STN_SP_STATUS_SHORT, Reg.STN_SP_STATUS_AT_SPEED, Reg.STN_SP_STATUS_STATE, Reg.STN_SP_COUNT_RETRIES,
      Reg.LPE_OUT_VALUE, Reg.LPE_OUT_OVR]
  | .spindleRetry .. => [Reg.STN_SP_STATUS_STATE, Reg.LPE_OUT_VALUE, Reg.LPE_OUT_OVR]
  | .spindleLockedRotor .. => Frame.headsGiveUp ++ Frame.stopSpindle ++ [Reg.STN_SP_STATUS_FAULT_CAUSE,
      Reg.STN_SP_STATUS_ATTEMPT, Reg.STN_SP_COUNT_RETRIES]
  | .spindleObserverLoss .. => Frame.takeZone ++ Frame.opDone ++ [Reg.STN_HD_STATUS_WRITING, Reg.STN_SP_STATUS_PHASE_LOCKED,
      Reg.STN_SP_STATUS_AT_SPEED, Reg.STN_SP_STATUS_STATE, Reg.STN_SP_COUNT_OBS_LOSS, Reg.LPE_OUT_VALUE, Reg.LPE_OUT_OVR]
  | .spindleReacquired .. => Frame.stopSpindle ++ [Reg.STN_SP_STATUS_REVERSE]
  | .spindleReacqTimeout .. => Frame.stopSpindle
  | .spindleVbusChange .. => Frame.takeZone ++ [Reg.STN_SP_STATUS_SHORT, Reg.LPE_OUT_VALUE, Reg.LPE_OUT_OVR]
  | .spindleBrakeEnd .. => [Reg.STN_SP_STATUS_SHORT, Reg.STN_SP_STATUS_STATE, Reg.LPE_OUT_VALUE, Reg.LPE_OUT_OVR]
  | .spindleHoldEnd .. => Frame.headsGiveUp ++ [Reg.STN_SP_STATUS_FAULT_CAUSE, Reg.STN_SP_STATUS_ATTEMPT,
      Reg.STN_SP_STATUS_SHORT, Reg.STN_SP_STATUS_AT_SPEED, Reg.STN_SP_STATUS_STATE, Reg.LPE_OUT_VALUE, Reg.LPE_OUT_OVR]
  | .spindleBrakeTimeout .. => Frame.headsGiveUp ++ [Reg.STN_SP_STATUS_FAULT_CAUSE, Reg.STN_SP_STATUS_SHORT,
      Reg.STN_SP_STATUS_AT_SPEED, Reg.STN_SP_STATUS_STATE, Reg.LPE_OUT_VALUE, Reg.LPE_OUT_OVR]
  | .spindleAtSpeed .. => Frame.takeZone ++ Frame.opDone ++ [Reg.STN_HD_STATUS_REL_LOCK, Reg.STN_HD_POS_VALID,
      Reg.STN_SP_STATUS_ATTEMPT, Reg.STN_SP_STATUS_AT_SPEED, Reg.STN_SP_COUNT_STARTS, Reg.LPE_PRM_VALUE, Reg.LPE_OUT_VALUE,
      Reg.LPE_OUT_OVR]
  | .phaseLockChange .. => Frame.takeZone ++ [Reg.STN_SP_STATUS_PHASE_LOCKED]
  | .spindleClearFault .. => Frame.takeZone ++ [Reg.STN_SP_STATUS_FAULT_CAUSE, Reg.STN_SP_STATUS_ATTEMPT,
      Reg.STN_SP_STATUS_SHORT, Reg.STN_SP_STATUS_AT_SPEED, Reg.STN_SP_STATUS_STATE, Reg.LPE_PRM_VALUE, Reg.LPE_OUT_VALUE,
      Reg.LPE_OUT_OVR]
  | .axisMove .. => Frame.headMove ++ [Reg.MOT_AX_CMD_BUSY, Reg.MOT_AX_CMD_RESULT, Reg.MOT_AX_CMD_OP]
  | .axisStop .. => Frame.stopAxis ++ [Reg.MOT_AX_CMD_OP]
  | .axisHome .. => Frame.headMove ++ [Reg.MOT_AX_CMD_BUSY, Reg.MOT_AX_CMD_RESULT, Reg.MOT_AX_CMD_OP]
  | .axisClear .. => [Reg.MOT_AX_CMD_RESULT, Reg.MOT_AX_CMD_OP, Reg.MOT_AX_STATUS_MOVING, Reg.MOT_AX_STATUS_STATE]
  | .axisTargetWrite .. => [Reg.MOT_ERR_VALID, Reg.MOT_ERR_AXIS, Reg.MOT_ERR_CODE, Reg.MOT_AX_TARGET_VALUE]
  | .axisMoveDone .. => Frame.openDoor ++ Frame.stopAxis ++ [Reg.STN_HD_STATUS_STATE, Reg.STN_HD_POS_VALID]
  | .axisHomeDone .. => Frame.openDoor ++ Frame.stopAxis
  | .axisFaultInput .. => Frame.takeZone ++ Frame.stopAxis ++ [Reg.MOT_AX_CTRL_EN, Reg.LIB_PK_STATE]
  | .motionStopAll => Frame.stopAxis
  | .libraryEnable => [Reg.MOT_AX_STATUS_DIR, Reg.MOT_AX_STATUS_MOVING, Reg.MOT_AX_STATUS_STATE, Reg.LIB_PK_STATE,
      Reg.LIB_CTRL_EN]
  | .doorRequestOpen => Frame.openDoor
  | .doorRequestLock .. => [Reg.LIB_STATUS_DOOR_CLOSED, Reg.LIB_DOOR_OPEN_READY]
  | .doorLockConfirmed => Frame.takeZone ++ [Reg.MOT_AX_STATUS_DIR, Reg.MOT_AX_STATUS_MOVING, Reg.MOT_AX_STATUS_STATE,
      Reg.LIB_PK_STATE, Reg.LIB_STATUS_DOOR_LOCKED, Reg.LIB_STATUS_INV_STALE]
  | .doorOpenedUnexpected .. => Frame.takeZone ++ Frame.stopAxis ++ [Reg.LIB_STATUS_DOOR_LOCKED, Reg.LIB_STATUS_DOOR_CLOSED,
      Reg.LIB_STATUS_INV_STALE]
  | .doorWaitTimeout .. => []
  | .transferStart => Frame.startReq ++ Frame.stopSpindle ++ [Reg.MOT_AX_POS_VALUE, Reg.LIB_PK_LOC, Reg.LIB_PK_STATE,
      Reg.STN_HD_STATUS_WRITING, Reg.STN_HD_STATUS_FOC_LOCK, Reg.STN_SP_TARGET_RPM, Reg.STN_SP_STATUS_FAULT_CAUSE,
      Reg.STN_SP_STATUS_ATTEMPT, Reg.STN_SP_SPEED_SP_RPM]
  | .transferProgress .. => Frame.headsGiveUp ++ Frame.openDoor ++ Frame.stopSpindle ++ [Reg.LIB_PK_SLOT_SNS,
      Reg.LIB_PK_JAW_OPEN, Reg.LIB_PK_DISC, Reg.LIB_PK_GRIP, Reg.STN_SP_TARGET_RPM, Reg.STN_SP_STATUS_FAULT_CAUSE,
      Reg.STN_SP_STATUS_ATTEMPT, Reg.STN_SP_SPEED_SP_RPM]
  | .transferWaitTimeout .. => Frame.takeZone
  | .transferResolve .. => Frame.takeZone ++ [Reg.LIB_PK_DISC, Reg.LIB_PK_STATE]
  | .inventoryComplete .. => Frame.takeZone ++ [Reg.MOT_ERR_VALID, Reg.MOT_ERR_AXIS, Reg.MOT_ERR_CODE, Reg.MOT_AX_POS_VALUE,
      Reg.MOT_AX_STATUS_DIR, Reg.LIB_PK_LOC, Reg.LIB_PK_STATE, Reg.LIB_STATUS_INV_STALE, Reg.LIB_SLOT_STATE_BITS,
      Reg.LIB_SLOT_MIS_BITS]
  | .cascadeEnable => Frame.showTable ++ [Reg.GCTL_CELL_CELL_NUM, Reg.CASC_CTRL_EN, Reg.CASC_STATUS_SHARED,
      Reg.CASC_STATUS_STATE, Reg.CASC_CELL_REACH, Reg.CASC_CELL_LISTED, Reg.CASC_CELL_STN_FITTED, Reg.CASC_CELL_MAG_SLOTS]
  | .cascadeForget => Frame.showTable ++ [Reg.CASC_CTRL_FORGET_CELL, Reg.CASC_CELL_REACH, Reg.CASC_CELL_LISTED,
      Reg.CASC_CELL_VIA, Reg.CASC_CELL_HOPS, Reg.CASC_CELL_STN_FITTED, Reg.CASC_CELL_MAG_SLOTS]
  | .cascPortUp .. => Frame.takeZone ++ Frame.showTable ++ [Reg.CASC_STATUS_BROKEN, Reg.CASC_PORT_STATUS_RAW,
      Reg.CASC_PORT_STATUS_UP, Reg.CASC_PORT_STATUS_LOCK, Reg.CAL_PORT0_CTLE, Reg.CAL_PORT0_PHASE, Reg.CAL_PORT1_TAP6,
      Reg.CAL_PORT1_TAP5, Reg.CAL_PORT1_TAP4, Reg.CAL_PORT1_TAP3, Reg.CAL_PORT2_TAP2, Reg.CAL_PORT2_TAP1]
  | .cascPortDown .. => Frame.takeZone ++ [Reg.CASC_STATUS_BROKEN, Reg.CASC_PORT_STATUS_UP, Reg.CASC_PORT_STATUS_LOCK,
      Reg.CASC_CELL_VIA, Reg.CASC_CELL_HOPS, Reg.CASC_ERR_BLOCK_ERR, Reg.CASC_RETX_RETX]
  | .announceSend => []
  | .announceReceive .. => Frame.takeZone ++ Frame.showTable ++ [Reg.CASC_STATUS_SHARED, Reg.CASC_STATUS_STATE,
      Reg.CASC_CELL_REACH, Reg.CASC_CELL_VIA, Reg.CASC_CELL_HOPS, Reg.CASC_ERR_MSG_ERR]
  | .joinReceive .. => Frame.takeZone ++ Frame.showTable ++ [Reg.CASC_CELL_REACH, Reg.CASC_CELL_LISTED, Reg.CASC_CELL_VIA,
      Reg.CASC_CELL_HOPS, Reg.CASC_CELL_STN_FITTED, Reg.CASC_CELL_MAG_SLOTS, Reg.CASC_ERR_MSG_ERR]
  | .membersReceive .. => Frame.showTable ++ [Reg.CASC_STATUS_REFUSE, Reg.CASC_STATUS_STATE, Reg.CASC_CELL_REACH,
      Reg.CASC_CELL_LISTED, Reg.CASC_CELL_VIA, Reg.CASC_CELL_HOPS, Reg.CASC_CELL_STN_FITTED, Reg.CASC_CELL_MAG_SLOTS,
      Reg.CASC_ERR_MSG_ERR]
  | .syncReceive .. => Frame.tallyJump ++ [Reg.GCTL_STATUS_TIME_LOCKED, Reg.TIME_STATUS_STEP_PENDING, Reg.TIME_STATUS_STATE,
      Reg.TIME_ERR_ERR, Reg.CASC_ERR_MSG_ERR]
  | .ringCmdReceive .. => Frame.settle ++ Frame.startReq ++ [Reg.CASC_ERR_MSG_ERR]
  | .ringFrameReceive .. => Frame.settle ++ Frame.writeChain ++ [Reg.BPM_POOL_STAT_LOW_LOW, Reg.DMA_ENG_STATUS_QUEUED,
      Reg.DMA_ENG_STATUS_BUSY, Reg.DMA_ENG_STATUS_CHANNEL, Reg.DMA_CH_DESC_ADDR, Reg.DMA_CH_CTRL_PASID_EN,
      Reg.DMA_CH_CTRL_PASID, Reg.DMA_CH_STATUS_BAD, Reg.DMA_CH_STATUS_STATE, Reg.CASC_ERR_MSG_ERR]
  | .ringCatReceive .. => Frame.settle ++ [Reg.CASC_ERR_MSG_ERR]
  | .ringLibReceive .. => Frame.settle ++ Frame.headMove ++ [Reg.CASC_ERR_MSG_ERR]
  | .ringAckReceive .. => Frame.settle ++ [Reg.CASC_ERR_MSG_ERR]
  | .ringMessageForward .. => [Reg.CASC_ERR_MSG_ERR]
  | .ringRetransmit .. => [Reg.CASC_RETX_RETX]
  | .memberAbsent .. => Frame.takeZone ++ Frame.showTable ++ [Reg.CASC_CELL_REACH]
  | .masterLost => Frame.lockDue ++ Frame.showTable ++ [Reg.CASC_STATUS_STATE, Reg.CASC_CELL_REACH]
  | .stackSyncTimeout => Frame.lockDue
  | .crossCellTimeout .. => Frame.settle ++ Frame.startReq
  | .proxyDeliver .. => []
  | .hostLinkUp .. => Frame.takeZone ++ [Reg.HEP_STATUS_SPEED, Reg.HEP_STATUS_WIDTH, Reg.HEP_STATUS_CXL,
      Reg.HEP_STATUS_LINK_UP]
  | .hostEndpointReset .. => Frame.settle ++ Frame.startReq ++ [Reg.DMA_ENG_STATUS_QUEUED, Reg.DMA_ENG_STATUS_BUSY,
      Reg.DMA_ENG_STATUS_CHANNEL, Reg.DMA_CH_STATUS_STATE, Reg.HEP_STATUS_SPEED, Reg.HEP_STATUS_WIDTH,
      Reg.HEP_STATUS_PASID_EN, Reg.HEP_STATUS_ATS_EN, Reg.HEP_STATUS_HDM_OPEN, Reg.HEP_STATUS_MEM_EN, Reg.HEP_STATUS_CACHE_EN,
      Reg.HEP_STATUS_CXL, Reg.HEP_STATUS_LINK_UP, Reg.HEP_CTRL_PRETRANS, Reg.HEP_CTRL_RO_EN, Reg.HEP_ATC_PINNED,
      Reg.HEP_ATC_VALID, Reg.HEP_BIAS_CNT_TO_HOST, Reg.HEP_WIN_COMMIT_ERR_WIN, Reg.HEP_WIN_COMMIT_COMMIT_ERR,
      Reg.HEP_WIN_COMMIT_PENDING, Reg.HEP_WIN_COMMIT_GO, Reg.HEP_XLAT_CNT_COUNT, Reg.HEP_INV_CNT_MAX_US,
      Reg.HEP_INV_CNT_COUNT, Reg.HEP_FAULT_ADDR_ADDR, Reg.HEP_FAULT_INFO_VALID, Reg.HEP_FAULT_INFO_PASID,
      Reg.HEP_WIN_DROP_COUNT, Reg.HEP_WIN_LOG_ADDR, Reg.HEP_WIN_LOG_ID_VALID, Reg.HEP_WIN_LOG_ID_WIN,
      Reg.HEP_WIN_LOG_ID_REQ_ID, Reg.HEP_WIN_TGT_TGT, Reg.HEP_WIN_CFG_EN, Reg.HEP_WIN_CFG_RD, Reg.HEP_WIN_CFG_WR,
      Reg.HEP_WIN_CFG_REQ_EN, Reg.HEP_WIN_CFG_SIZE, Reg.HEP_WIN_CFG_REQ_ID, Reg.HEP_WIN_ACT_TGT_ACTIVE,
      Reg.HEP_WIN_ACT_CFG_ACTIVE, Reg.MSIX_ADDR_LO_ADDR, Reg.MSIX_ADDR_HI_ADDR, Reg.MSIX_DATA_DATA, Reg.MSIX_VCTRL_MASK,
      Reg.MSIX_PBA_PENDING, Reg.CMDQ_CTRL_BURST, Reg.CMDQ_CTRL_EN, Reg.CMDQ_STATUS_GROUPS_EN, Reg.CMDQ_STATUS_INFLIGHT,
      Reg.CMDQ_OP_BUSY, Reg.CMDQ_OP_RESULT, Reg.CMDQ_OP_GO, Reg.CMDQ_OP_OP, Reg.CMDQ_QID_QID, Reg.CMDQ_BASE_BASE,
      Reg.CMDQ_QPTR_HEAD, Reg.CMDQ_QPTR_TAIL, Reg.CMDQ_DB_ERR_VALID, Reg.CMDQ_DB_ERR_SQ, Reg.CMDQ_QCFG_VECTOR,
      Reg.CMDQ_QCFG_IEN, Reg.CMDQ_QCFG_LOW, Reg.CMDQ_QCFG2_QUOTA, Reg.CMDQ_QCFG2_ACCOUNT]
  | .configRequest .. => [Reg.HEP_STATUS_PASID_EN, Reg.HEP_STATUS_ATS_EN, Reg.HEP_STATUS_HDM_OPEN, Reg.HEP_STATUS_MEM_EN,
      Reg.HEP_STATUS_CACHE_EN, Reg.MSIX_PBA_PENDING]
  | .hdmDecoderCommit .. => [Reg.HEP_STATUS_HDM_OPEN]
  | .hdmHostRead .. => Frame.storeErr ++ Frame.noteCe ++ [Reg.MEMC_STATUS_SELF_REFRESH, Reg.HEP_BIAS_CNT_TO_HOST]
  | .hdmHostWrite .. => Frame.writeChain ++ [Reg.HEP_BIAS_CNT_TO_HOST]
  | .peerRequest .. => Frame.writeChain ++ Frame.noteCe ++ [Reg.HEP_BIAS_CNT_TO_HOST, Reg.HEP_WIN_DROP_COUNT,
      Reg.HEP_WIN_LOG_ADDR, Reg.HEP_WIN_LOG_ID_VALID, Reg.HEP_WIN_LOG_ID_WIN, Reg.HEP_WIN_LOG_ID_REQ_ID]
  | .peerWindowCommit => Frame.takeZone ++ [Reg.HEP_WIN_COMMIT_ERR_WIN, Reg.HEP_WIN_COMMIT_COMMIT_ERR,
      Reg.HEP_WIN_COMMIT_PENDING]
  | .peerCommitEffect => Frame.takeZone ++ [Reg.HEP_WIN_COMMIT_PENDING, Reg.HEP_WIN_ACT_TGT_ACTIVE,
      Reg.HEP_WIN_ACT_CFG_ACTIVE]
  | .translationCompletion .. => Frame.settle ++ Frame.startReq ++ [Reg.HEP_XLAT_CNT_COUNT, Reg.HEP_FAULT_ADDR_ADDR,
      Reg.HEP_FAULT_INFO_VALID, Reg.HEP_FAULT_INFO_PASID]
  | .atsInvalidate .. => [Reg.HEP_XLAT_CNT_COUNT, Reg.HEP_INV_CNT_MAX_US, Reg.HEP_INV_CNT_COUNT]
  | .hostCacheError .. => Frame.takeZone ++ [Reg.HEP_FAULT_ADDR_ADDR, Reg.HEP_FAULT_INFO_VALID, Reg.HEP_FAULT_INFO_PASID]
  | .completionWrite .. => [Reg.HEP_BIAS_CNT_TO_DEVICE]
  | .msixSend .. => [Reg.MSIX_PBA_PENDING]
  | .msixUnmask .. => [Reg.MSIX_VCTRL_MASK, Reg.MSIX_PBA_PENDING]
  | .cqFullTimeout .. => Frame.takeZone
  | .smbIdentify => []
  | .smbHealth => []
  | .smbSetOffset .. => []
  | .smbReadReg => []
  | .smbWake .. => Frame.requestReset ++ [Reg.PWR_STATUS_WAKE_SRC]
  | .doorbellWrite .. => Frame.takeZone ++ [Reg.CMDQ_DB_ERR_VALID, Reg.CMDQ_DB_ERR_SQ]
  | .commandFetch .. => Frame.takeZone ++ [Reg.BPM_POOL_STAT_EMPTY_EMPTY, Reg.BPM_POOL_STAT_LOW_LOW,
      Reg.HEP_BIAS_CNT_TO_DEVICE, Reg.HEP_XLAT_CNT_COUNT]
  | .commandStart .. => Frame.settle ++ [Reg.HEP_XLAT_CNT_COUNT]
  | .nop .. => []
  | .identify .. => Frame.settle
  | .getLog .. => Frame.settle
  | .setFeature .. => Frame.settle
  | .getFeature .. => Frame.settle
  | .abort .. => Frame.settle ++ Frame.startReq
  | .read .. => Frame.settle ++ Frame.writeChain ++ Frame.wake ++ [Reg.BPM_POOL_STAT_LOW_LOW, Reg.DMA_ENG_STATUS_QUEUED,
      Reg.DMA_ENG_STATUS_BUSY, Reg.DMA_ENG_STATUS_CHANNEL, Reg.DMA_CH_DESC_ADDR, Reg.DMA_CH_CTRL_PASID_EN,
      Reg.DMA_CH_CTRL_PASID, Reg.DMA_CH_STATUS_BAD, Reg.DMA_CH_STATUS_STATE, Reg.HEP_XLAT_CNT_COUNT]
  | .write .. => Frame.settle ++ Frame.writeChain ++ Frame.wake ++ [Reg.BPM_POOL_STAT_LOW_LOW, Reg.DMA_ENG_STATUS_QUEUED,
      Reg.DMA_ENG_STATUS_BUSY, Reg.DMA_ENG_STATUS_CHANNEL, Reg.DMA_CH_DESC_ADDR, Reg.DMA_CH_CTRL_PASID_EN,
      Reg.DMA_CH_CTRL_PASID, Reg.DMA_CH_STATUS_BAD, Reg.DMA_CH_STATUS_STATE, Reg.HEP_XLAT_CNT_COUNT]
  | .verify .. => Frame.settle ++ Frame.writeChain ++ Frame.wake ++ [Reg.BPM_POOL_STAT_LOW_LOW, Reg.DMA_ENG_STATUS_QUEUED,
      Reg.DMA_ENG_STATUS_BUSY, Reg.DMA_ENG_STATUS_CHANNEL, Reg.DMA_CH_DESC_ADDR, Reg.DMA_CH_CTRL_PASID_EN,
      Reg.DMA_CH_CTRL_PASID, Reg.DMA_CH_STATUS_BAD, Reg.DMA_CH_STATUS_STATE]
  | .flush .. => Frame.settle ++ Frame.wake
  | .zoneClose .. => Frame.settle ++ Frame.wake
  | .discFinalize .. => Frame.settle ++ Frame.wake
  | .bufferAlloc .. => Frame.storeErr ++ [Reg.MEMC_INJ_CTRL_ARM, Reg.BPM_POOL_STAT_EMPTY_EMPTY, Reg.BPM_POOL_STAT_LOW_LOW,
      Reg.HEP_BIAS_CNT_TO_DEVICE]
  | .bufferRelease .. => [Reg.HEP_BIAS_CNT_TO_DEVICE]
  | .bufferShare .. => [Reg.HEP_BIAS_CNT_TO_DEVICE]
  | .mount .. => Frame.settle ++ Frame.headMove
  | .unmount .. => Frame.settle ++ Frame.wake
  | .move .. => Frame.settle
  | .inventory .. => Frame.takeZone ++ [Reg.TIME_LATE_COUNT]
  | .timeSet .. => [Reg.TIME_LOAD_SEC, Reg.TIME_LOAD_TICK, Reg.TIME_CTRL_LOAD, Reg.TIME_STATUS_LOAD_PENDING]
  | .timeGet .. => Frame.settle
  | .tallyRead .. => Frame.settle
  | .tallyAck .. => Frame.settle
  | .fwDownload .. => [Reg.FLC_STATUS_LOG_B, Reg.FLC_ERASE_SEQ_SEQ]
  | .fwActivate .. => Frame.takeZone ++ [Reg.GCTL_STATUS_MODE, Reg.FLC_STATUS_LOG_B, Reg.FLC_ERASE_SEQ_SEQ]
  | .modeSet .. => Frame.settle ++ [Reg.PWR_STATUS_REQ_MODE, Reg.PWR_CAP_CAP]
  | .stationDiag .. => Frame.settle ++ [Reg.STN_LINK_CTRL_ENABLE, Reg.STN_LINK_STATUS_LANE1_LOCK,
      Reg.STN_LINK_STATUS_LANE0_LOCK, Reg.STN_LINK_STATUS_STATE, Reg.STN_REG_CMD_DONE, Reg.STN_REG_CMD_BUSY,
      Reg.STN_REG_CMD_WRITE, Reg.STN_REG_ADDR_ADDR, Reg.STN_REG_DATA_DATA]
  | .createCq => [Reg.CMDQ_OP_RESULT, Reg.CMDQ_OP_OP]
  | .deleteCq => [Reg.CMDQ_OP_RESULT, Reg.CMDQ_OP_OP]
  | .createSq => [Reg.CMDQ_OP_RESULT, Reg.CMDQ_OP_OP]
  | .deleteSq => Frame.settle ++ Frame.startReq ++ [Reg.CMDQ_OP_BUSY, Reg.CMDQ_OP_RESULT, Reg.CMDQ_OP_OP]
  | .deleteSqComplete => Frame.takeZone ++ [Reg.HEP_BIAS_CNT_TO_DEVICE, Reg.CMDQ_OP_BUSY, Reg.CMDQ_OP_RESULT]
  | .setGroup => [Reg.CMDQ_OP_RESULT, Reg.CMDQ_OP_OP]
  | .queryCq => [Reg.CMDQ_OP_RESULT, Reg.CMDQ_OP_OP, Reg.CMDQ_BASE_BASE, Reg.CMDQ_QPTR_HEAD, Reg.CMDQ_QPTR_TAIL,
      Reg.CMDQ_QCFG_VECTOR, Reg.CMDQ_QCFG_IEN, Reg.CMDQ_QCFG_LOW]
  | .querySq => [Reg.CMDQ_OP_RESULT, Reg.CMDQ_OP_OP, Reg.CMDQ_BASE_BASE, Reg.CMDQ_QPTR_HEAD, Reg.CMDQ_QPTR_TAIL,
      Reg.CMDQ_QCFG_VECTOR, Reg.CMDQ_QCFG_IEN, Reg.CMDQ_QCFG_LOW, Reg.CMDQ_QCFG2_QUOTA, Reg.CMDQ_QCFG2_ACCOUNT]
  | .queryGroup => [Reg.CMDQ_OP_RESULT, Reg.CMDQ_OP_OP, Reg.CMDQ_QCFG_VECTOR, Reg.CMDQ_QCFG_IEN, Reg.CMDQ_QCFG_LOW,
      Reg.CMDQ_QCFG2_QUOTA, Reg.CMDQ_QCFG2_ACCOUNT]
  | .copyBufferGrant => Frame.settle ++ Frame.writeChain ++ [Reg.BPM_POOL_STAT_LOW_LOW, Reg.DMA_ENG_STATUS_QUEUED,
      Reg.DMA_ENG_STATUS_BUSY, Reg.DMA_ENG_STATUS_CHANNEL, Reg.DMA_CH_DESC_ADDR, Reg.DMA_CH_CTRL_PASID_EN,
      Reg.DMA_CH_CTRL_PASID, Reg.DMA_CH_STATUS_BAD, Reg.DMA_CH_STATUS_STATE]
  | .bpmEnable => Frame.takeZone ++ [Reg.BPM_CTRL_EN, Reg.BPM_STATUS_ERR_POOL, Reg.BPM_STATUS_LAYOUT_ERR,
      Reg.BPM_STATUS_ACTIVE, Reg.BPM_POOL_STAT_LOW_LOW]
  | .bpmDisable => [Reg.BPM_CTRL_EN, Reg.BPM_STATUS_ACTIVE]
  | .dmaChannelStart .. => [Reg.DMA_ENG_STATUS_QUEUED, Reg.DMA_ENG_STATUS_BUSY, Reg.DMA_ENG_STATUS_CHANNEL,
      Reg.DMA_CH_STATUS_BAD, Reg.DMA_CH_STATUS_STATE]
  | .dmaChannelRun .. => [Reg.DMA_ENG_STATUS_QUEUED, Reg.DMA_ENG_STATUS_BUSY, Reg.DMA_ENG_STATUS_CHANNEL,
      Reg.DMA_CH_STATUS_STATE, Reg.HEP_XLAT_CNT_COUNT]
  | .dmaDescriptorEnd .. => Frame.settle ++ Frame.writeChain ++ Frame.noteCe ++ Frame.startReq ++ [Reg.BPM_POOL_STAT_LOW_LOW,
      Reg.DMA_BAD_CNT_COUNT, Reg.DMA_HALT_CNT_COUNT, Reg.DMA_ENG_STATUS_QUEUED, Reg.DMA_ENG_STATUS_BUSY,
      Reg.DMA_ENG_STATUS_CHANNEL, Reg.DMA_CH_DESC_ADDR, Reg.DMA_CH_CTRL_PASID_EN, Reg.DMA_CH_CTRL_PASID,
      Reg.DMA_CH_STATUS_LAST, Reg.DMA_CH_STATUS_BAD, Reg.DMA_CH_STATUS_STATE, Reg.HEP_XLAT_CNT_COUNT, Reg.HEP_FAULT_ADDR_ADDR,
      Reg.HEP_FAULT_INFO_VALID, Reg.HEP_FAULT_INFO_PASID]
  | .dmaBusRetry .. => Frame.settle ++ Frame.writeChain ++ Frame.noteCe ++ Frame.startReq ++ [Reg.BPM_POOL_STAT_LOW_LOW,
      Reg.DMA_BAD_CNT_COUNT, Reg.DMA_HALT_CNT_COUNT, Reg.DMA_ENG_STATUS_QUEUED, Reg.DMA_ENG_STATUS_BUSY,
      Reg.DMA_ENG_STATUS_CHANNEL, Reg.DMA_CH_DESC_ADDR, Reg.DMA_CH_CTRL_PASID_EN, Reg.DMA_CH_CTRL_PASID,
      Reg.DMA_CH_STATUS_LAST, Reg.DMA_CH_STATUS_BAD, Reg.DMA_CH_STATUS_STATE, Reg.HEP_XLAT_CNT_COUNT, Reg.HEP_FAULT_ADDR_ADDR,
      Reg.HEP_FAULT_INFO_VALID, Reg.HEP_FAULT_INFO_PASID]
  | .dmaChannelReset .. => [Reg.DMA_CH_STATUS_STATE]
  | .dramTrainingDone .. => Frame.coreTrap ++ [Reg.MEMC_STATUS_INIT_DONE, Reg.MEMC_STATUS_TRAINED, Reg.MEMC_STATUS_CHANNELS,
      Reg.MEMC_CHAN_FITTED, Reg.MEMC_CHAN_TRAIN_OK, Reg.MEMC_CHAN_DIMMS, Reg.MEMC_CHAN_RANKS, Reg.MEMC_CHAN_RATE,
      Reg.MEMC_CHAN_SIZE, Reg.MEMC_SCRUB_POS_POS]
  | .dramInitDone .. => Frame.takeZone ++ [Reg.MEMC_STATUS_INIT_DONE]
  | .scrubStep .. => Frame.storeErr ++ Frame.noteCe ++ [Reg.MEMC_SCRUB_PASSES_PASSES, Reg.MEMC_SCRUB_POS_POS]
  | .selfRefreshEnter => [Reg.MEMC_STATUS_SELF_REFRESH]
  | .mergeBufferDrain .. => Frame.settle ++ Frame.coreTrap ++ Frame.writeChain ++ Frame.noteCe ++ Frame.startReq ++
      [Reg.MEMC_SRAM_CE_COUNT, Reg.MEMC_CACHE_HITS_COUNT, Reg.MEMC_CACHE_MISSES_COUNT, Reg.BPM_POOL_STAT_LOW_LOW,
      Reg.DMA_HALT_CNT_COUNT, Reg.DMA_CH_DESC_ADDR, Reg.DMA_CH_CTRL_PASID_EN, Reg.DMA_CH_CTRL_PASID, Reg.DMA_CH_STATUS_LAST,
      Reg.DMA_CH_STATUS_BAD, Reg.HEP_XLAT_CNT_COUNT, Reg.STN_LINK_ERR_MSG_ERR]
  | .cacheInvalidate .. => Frame.cacheOp ++ [Reg.MEMC_CACHE_LOCKED_SKIP_COUNT]
  | .cacheDrain .. => Frame.writeChain ++ Frame.cacheOp
  | .cacheDrainInvalidate .. => Frame.writeChain ++ Frame.cacheOp ++ [Reg.MEMC_CACHE_LOCKED_SKIP_COUNT]
  | .cacheLoadLock .. => Frame.storeErr ++ Frame.noteCe ++ Frame.cacheOp ++ [Reg.MEMC_STATUS_SELF_REFRESH,
      Reg.MEMC_CACHE_LOCK_MISS_COUNT]
  | .cacheOpDone .. => [Reg.MEMC_CACHE_OP_BUSY, Reg.MEMC_CACHE_OP_RESULT]
  | .cacheWayLockWrite .. => Frame.writeChain ++ [Reg.MEMC_CACHE_STAT_LOCK_ERR, Reg.MEMC_CACHE_LOCK_LOCK]
  | .cacheWayPowerWrite .. => Frame.writeChain ++ [Reg.MEMC_CACHE_STAT_LOCK_ERR, Reg.MEMC_CACHE_PWR_PWR_STATE,
      Reg.MEMC_CACHE_PWR_ON]
  | .eccInjectArm .. => [Reg.MEMC_INJ_CTRL_ARM, Reg.MEMC_INJ_CTRL_CODEWORD, Reg.MEMC_INJ_CTRL_DOUBLE]
  | .flashProgram .. => Frame.flashResult ++ [Reg.FLC_STATUS_SUSPENDED, Reg.FLC_STATUS_ERASING, Reg.FLC_STATUS_BUSY]
  | .flashSectorErase .. => Frame.flashResult ++ Frame.tidyCalib
  | .flashSuspend => Frame.flashResult ++ [Reg.FLC_STATUS_SUSPENDED, Reg.FLC_STATUS_ERASING, Reg.FLC_STATUS_BUSY]
  | .flashResume => Frame.flashResult ++ [Reg.FLC_STATUS_SUSPENDED, Reg.FLC_STATUS_ERASING, Reg.FLC_STATUS_BUSY]
  | .flashReadArray => Frame.flashResult
  | .flashProgramDone .. => Frame.settle ++ [Reg.FLC_STATUS_RESULT, Reg.FLC_STATUS_SUSPENDED, Reg.FLC_STATUS_ERASING,
      Reg.FLC_STATUS_BUSY]
  | .flashEraseDone .. => Frame.flashResult ++ [Reg.FLC_STATUS_SUSPENDED, Reg.FLC_STATUS_ERASING, Reg.FLC_STATUS_BUSY,
      Reg.FLC_ERASE_PULSES, Reg.FLC_SPARE_LEFT, Reg.FLC_SPARE_RETIRED]
  | .erasePendingLong => Frame.takeZone
  | .bootSelect .. => Frame.coreTrap ++ [Reg.GCTL_BOOT_FELL_BACK, Reg.GCTL_BOOT_TRIAL, Reg.GCTL_BOOT_ACTIVE_TWIN,
      Reg.FLC_STATUS_LOG_B, Reg.FLC_ERASE_SEQ_SEQ, Reg.FLC_ERR_ADDR_ADDR, Reg.FLC_ERR_INFO_VALID, Reg.FLC_ERR_INFO_SLOT,
      Reg.FLC_CE_CNT_COUNT, Reg.FLC_UE_CNT_COUNT, Reg.FLC_TORN_CNT_COUNT]
  | .journalReplay => Frame.takeZone ++ [Reg.FLC_ERR_ADDR_ADDR, Reg.FLC_ERR_INFO_VALID, Reg.FLC_ERR_INFO_SLOT,
      Reg.FLC_CE_CNT_COUNT, Reg.FLC_UE_CNT_COUNT, Reg.FLC_TORN_CNT_COUNT]
  | .journalReclaim => Frame.tidyCalib
  | .frontierSearch .. => Frame.settle
  | .pwrfailAssert => Frame.requestReset ++ [Reg.PWR_STATUS_PWRFAIL]
  | .pfJournalWrite .. => Frame.settle ++ [Reg.FLC_STATUS_RESULT, Reg.FLC_STATUS_SUSPENDED, Reg.FLC_STATUS_ERASING,
      Reg.FLC_STATUS_BUSY]
  | .pwrfailDeassert => Frame.takeZone ++ [Reg.PWR_STATUS_PWRFAIL, Reg.TALLY_STATUS_PF_ACTIVE]
  | .pwrfailRecover => []
  | .supplyFault .. => Frame.coreTrap
  | .wake .. => Frame.requestReset ++ [Reg.PWR_STATUS_WAKE_SRC]
  | .modeTransitionDone .. => Frame.settle ++ Frame.coreTrap ++ Frame.writeChain ++ Frame.startReq ++
      [Reg.GCTL_STATUS_TIME_LOCKED, Reg.TALLY_STATUS_KAT_OK, Reg.TALLY_STATUS_ROM_OK, Reg.TALLY_STATUS_FAULT,
      Reg.MEMC_CACHE_PWR_PWR_STATE, Reg.MEMC_CACHE_PWR_ON, Reg.HEP_STATUS_SPEED, Reg.HEP_STATUS_WIDTH,
      Reg.HEP_STATUS_PASID_EN, Reg.HEP_STATUS_ATS_EN, Reg.HEP_STATUS_HDM_OPEN, Reg.HEP_STATUS_MEM_EN, Reg.HEP_STATUS_CACHE_EN,
      Reg.HEP_STATUS_CXL, Reg.HEP_STATUS_LINK_UP, Reg.HEP_CTRL_PRETRANS, Reg.HEP_CTRL_RO_EN, Reg.HEP_ATC_PINNED,
      Reg.HEP_ATC_VALID, Reg.HEP_BIAS_CNT_TO_HOST, Reg.HEP_WIN_COMMIT_ERR_WIN, Reg.HEP_WIN_COMMIT_COMMIT_ERR,
      Reg.HEP_WIN_COMMIT_PENDING, Reg.HEP_WIN_COMMIT_GO, Reg.HEP_XLAT_CNT_COUNT, Reg.HEP_INV_CNT_MAX_US,
      Reg.HEP_INV_CNT_COUNT, Reg.HEP_FAULT_ADDR_ADDR, Reg.HEP_FAULT_INFO_VALID, Reg.HEP_FAULT_INFO_PASID,
      Reg.HEP_WIN_DROP_COUNT, Reg.HEP_WIN_LOG_ADDR, Reg.HEP_WIN_LOG_ID_VALID, Reg.HEP_WIN_LOG_ID_WIN,
      Reg.HEP_WIN_LOG_ID_REQ_ID, Reg.HEP_WIN_TGT_TGT, Reg.HEP_WIN_CFG_EN, Reg.HEP_WIN_CFG_RD, Reg.HEP_WIN_CFG_WR,
      Reg.HEP_WIN_CFG_REQ_EN, Reg.HEP_WIN_CFG_SIZE, Reg.HEP_WIN_CFG_REQ_ID, Reg.HEP_WIN_ACT_TGT_ACTIVE,
      Reg.HEP_WIN_ACT_CFG_ACTIVE, Reg.MSIX_ADDR_LO_ADDR, Reg.MSIX_ADDR_HI_ADDR, Reg.MSIX_DATA_DATA, Reg.MSIX_VCTRL_MASK,
      Reg.MSIX_PBA_PENDING, Reg.CASC_STATUS_BROKEN, Reg.CASC_PORT_STATUS_UP, Reg.CASC_PORT_STATUS_LOCK, Reg.CASC_CELL_VIA,
      Reg.CASC_CELL_HOPS, Reg.CASC_RETX_RETX, Reg.LIB_PK_LOC, Reg.LIB_PK_STATE, Reg.CMDQ_CTRL_BURST, Reg.CMDQ_CTRL_EN,
      Reg.CMDQ_STATUS_GROUPS_EN, Reg.CMDQ_STATUS_INFLIGHT, Reg.CMDQ_OP_BUSY, Reg.CMDQ_OP_RESULT, Reg.CMDQ_OP_GO,
      Reg.CMDQ_OP_OP, Reg.CMDQ_QID_QID, Reg.CMDQ_BASE_BASE, Reg.CMDQ_QPTR_HEAD, Reg.CMDQ_QPTR_TAIL, Reg.CMDQ_DB_ERR_VALID,
      Reg.CMDQ_DB_ERR_SQ, Reg.CMDQ_QCFG_VECTOR, Reg.CMDQ_QCFG_IEN, Reg.CMDQ_QCFG_LOW, Reg.CMDQ_QCFG2_QUOTA,
      Reg.CMDQ_QCFG2_ACCOUNT, Reg.STN_LINK_STATUS_LANE1_LOCK, Reg.STN_LINK_STATUS_LANE0_LOCK, Reg.STN_LINK_STATUS_STATE,
      Reg.STN_HD_POS_VALID]
  | .fwReady .. => Frame.takeZone ++ [Reg.GCTL_FW_VER_MAJOR, Reg.GCTL_FW_VER_MINOR, Reg.GCTL_FW_VER_BUILD,
      Reg.GCTL_SIZE_STN_FITTED, Reg.GCTL_SIZE_MAG_SLOTS, Reg.GCTL_STATUS_FW_READY, Reg.GCTL_STATUS_MODE, Reg.BPM_CTRL_EN,
      Reg.BPM_STATUS_ERR_POOL, Reg.BPM_STATUS_LAYOUT_ERR, Reg.BPM_STATUS_ACTIVE, Reg.BPM_POOL_BASE_BASE,
      Reg.BPM_POOL_CNT_COUNT, Reg.BPM_POOL_STAT_LOW_LOW]
  | .watchdogKick => []
  | .watchdogExpire => Frame.coreTrap
  | .thermalReading .. => Frame.coreTrap ++ [Reg.PWR_STATUS_THERM_DAMPED, Reg.PWR_TEMP_TJ_PEAK, Reg.PWR_TEMP_TJ]
  | .thermalExit => Frame.takeZone ++ [Reg.PWR_STATUS_THERM_DAMPED]
  | .thermtrip => []
  | .powerCapEstimate .. => [Reg.PWR_STATUS_OVER_CAP, Reg.PWR_CAP_EST]
  | .capExceeded => Frame.takeZone
  | .eventLogCopy => Frame.tidyCalib
  | .eventInterrupt => [Reg.MSIX_PBA_PENDING]
  | .tallyStart .. => Frame.coreTrap ++ [Reg.TALLY_STATUS_STORE_LOW, Reg.TALLY_STATUS_KAT_OK, Reg.TALLY_STATUS_ROM_OK,
      Reg.TALLY_STATUS_FAULT, Reg.TALLY_STATUS_RUNNING, Reg.TALLY_ACKED_SEQ, Reg.TALLY_OPEN_START_SEC]
  | .tallyMinuteBoundary .. => Frame.tallyJump
  | .tallyMsSample => Frame.tallyJump
  | .tallyTapEvent .. => Frame.tallyJump ++ [Reg.TALLY_STATUS_TEST_EN]
  | .tallyRecordProgram .. => Frame.takeZone ++ [Reg.TALLY_STATUS_STORE_LOW, Reg.TALLY_STATUS_PF_ACTIVE,
      Reg.TALLY_COUNT_ABANDONED, Reg.TALLY_ACKED_SEQ]
  | .tallySectorErase => Frame.tidyCalib
  | .tallyPfClose .. => Frame.tallyJump ++ [Reg.TALLY_STATUS_PF_ACTIVE]
  | .tallySeal .. => Frame.tallyJump ++ [Reg.TALLY_STATUS_SEAL_REQ, Reg.TALLY_STATUS_TEST_EN]
  | .calTrigger .. => []
  | .calRunAll => []
  | .calPortRun .. => Frame.takeZone
  | .calPortApply .. => Frame.takeZone ++ [Reg.CAL_PORT0_TJ_RUN, Reg.CAL_PORT0_CTLE, Reg.CAL_PORT0_PHASE, Reg.CAL_PORT1_TAP6,
      Reg.CAL_PORT1_TAP5, Reg.CAL_PORT1_TAP4, Reg.CAL_PORT1_TAP3, Reg.CAL_PORT2_TAP2, Reg.CAL_PORT2_TAP1]
  | .calSliceRunDone .. => Frame.takeZone
  | .calSliceApply .. => Frame.takeZone ++ [Reg.CAL_HEAD_VALID, Reg.CAL_HEAD_TEMP_RUN, Reg.SLC_OFS_TRAIL_GAIN,
      Reg.SLC_OFS_LEAD_GAIN, Reg.SLC_OFS_TRAIL_OFS, Reg.SLC_OFS_LEAD_OFS]
  | .calTrimRun .. => Frame.takeZone
  | .calTrimApply .. => Frame.takeZone ++ [Reg.CAL_HEAD_TRIM_VALID, Reg.CAL_HEAD_TEMP_RUN, Reg.LPE_PRM_VALUE]
  | .calStore .. => Frame.tidyCalib
  | .kilnEnd => Frame.settle ++ [Reg.GCTL_FW_VER_MAJOR, Reg.GCTL_FW_VER_MINOR, Reg.GCTL_FW_VER_BUILD, Reg.GCTL_STATUS_MODE,
      Reg.PWR_STATUS_THERM_DAMPED, Reg.MOT_AX_STATUS_DIR]
  | .kilnTimeout => Frame.requestReset
  | .fwActivateReset => Frame.requestReset
  | .trialConfirm => Frame.takeZone ++ [Reg.GCTL_BOOT_TRIAL]
  | .trialTimeout => Frame.requestReset
  | .flashSeqError => Frame.flashResult
  | .ringEchoReceive .. => []
  | .referenceClockLost => []
  | .pickerDiscFall .. => Frame.openDoor ++ [Reg.LIB_PK_DISC]

/-- The parts of the state beside the registers that a command may change. -/
def frameParts : Instr → List Part
  | .registerWrite .. => [.now, .out, .free, .ev, .tb, .pw, .stns, .seekQ, .slices, .headWait, .discs, .zones, .held, .cmds,
      .sqs, .cqs, .grps, .ladders, .ladderWait, .bufs, .gens, .pools, .engines, .jq, .mgmtQ, .loop, .heads, .spins, .axes,
      .lib, .cals, .stack, .hep, .ms, .flash, .tally, .firm]
  | .bar0ReservedAccess .. => [.out, .ev]
  | .eventWindowEnd .. => [.now, .ev, .tb]
  | .fetchHold .. => []
  | .warmReset .. => [.out, .ev, .pw, .seekQ, .slices, .jq, .loop, .heads, .spins, .axes, .flash]
  | .coldReset .. => [.out, .ev, .pw, .seekQ, .slices, .jq, .loop, .heads, .spins, .axes, .flash]
  | .resetTakesEffect => [.now, .out, .free, .ev, .tb, .pw, .sealed, .stns, .seekQ, .slices, .headWait, .discs, .zones, .held,
      .cmds, .cmdSeq, .sqs, .cqs, .grps, .profs, .rrGroup, .rrQueue, .rrLeft, .ladders, .ladderWait, .damage, .damageSeq,
      .mem, .bufs, .gens, .pools, .copyWait, .engines, .chanJobs, .jq, .mgmtQ, .loop, .heads, .spins, .axes, .lib, .cals,
      .stack, .hep, .ms, .flash, .tally, .firm]
  | .porstAssert => [.now, .out, .free, .ev, .tb, .pw, .sealed, .stns, .seekQ, .slices, .headWait, .discs, .zones, .held,
      .cmds, .cmdSeq, .sqs, .cqs, .grps, .profs, .rrGroup, .rrQueue, .rrLeft, .ladders, .ladderWait, .damage, .damageSeq,
      .mem, .bufs, .gens, .pools, .copyWait, .engines, .chanJobs, .jq, .mgmtQ, .loop, .heads, .spins, .axes, .lib, .cals,
      .stack, .hep, .ms, .flash, .tally, .firm]
  | .porstDeassert .. => [.tb, .pw]
  | .timeSecondRollover => [.now, .out, .tb]
  | .cclkStart => [.now, .tb]
  | .ppsEdge .. => [.now, .ev, .tb]
  | .timeStep => [.now, .ev, .tb, .tally]
  | .holdoverTimeout => [.now, .ev, .tb, .tally]
  | .ppsEnableWrite .. => [.ev, .tb, .tally]
  | .ppsPolarityWrite .. => [.tb]
  | .timeLoadArm => [.tb]
  | .timeLoadEffect => [.now, .out, .ev, .tb, .cmds, .cqs, .stack, .tally]
  | .fineTimeReload .. => [.now, .ev, .tb]
  | .launch .. => [.now, .tb, .cmds]
  | .emberLaunchExit => [.now, .tb, .pw]
  | .seekSlot .. => [.now, .tb, .seekQ, .axes]
  | .vgConfigApply .. => [.now, .tb, .seekQ, .axes]
  | .servoPeriodStart => [.now, .out, .tb]
  | .periodPresent => [.now, .out, .free, .ev, .tb, .stns, .seekQ, .slices, .headWait, .discs, .zones, .held, .cmds, .cqs,
      .ladders, .ladderWait, .bufs, .gens, .pools, .jq, .mgmtQ, .loop, .heads, .spins, .axes, .lib, .cals, .stack, .hep]
  | .actuatePresent => [.now, .out, .tb, .stns, .loop]
  | .sensorDelivered .. => [.now, .ev, .tb, .stns, .slices, .loop, .heads, .spins, .axes]
  | .sensorMiss .. => [.now, .ev, .tb, .stns]
  | .samplesReceive .. => [.out, .free, .ev, .stns, .slices, .discs, .cmds, .ladders, .loop, .heads]
  | .healthReceive .. => [.stns]
  | .regrspReceive .. => [.out, .stns, .cmds, .cqs, .stack]
  | .wrackReceive .. => [.out, .free, .ev, .slices, .zones, .jq, .loop, .heads, .axes, .cals, .stack]
  | .echorspReceive .. => [.stns]
  | .linkBlockError .. => [.ev, .stns, .cals]
  | .wrdataSend .. => [.out, .free, .ev, .stns, .slices, .zones, .held, .cmds, .jq, .loop, .cals, .stack]
  | .wrdataRetransmit .. => [.out, .slices]
  | .stepSend .. => [.out, .ev, .stns, .axes]
  | .stepRetransmit .. => [.out, .stns]
  | .stopSend .. => [.out]
  | .echoSend .. => [.now, .out, .tb, .stns]
  | .feRegAccess .. => [.out, .stns]
  | .feRegTimeout .. => [.now, .out, .ev, .tb, .stns, .cmds, .cqs, .stack]
  | .linkEnable .. => [.stns]
  | .linkDisable .. => [.stns]
  | .trainingBatchOpen .. => [.now, .tb, .stns]
  | .trainingBatchClose .. => [.now, .tb, .stns]
  | .linkTrainDetected .. => [.stns]
  | .linkBlockLock .. => [.stns]
  | .linkDeskewDone .. => [.stns]
  | .linkIdentifyDone .. => [.ev, .stns, .axes]
  | .linkMeasureDone .. => [.ev, .stns, .loop, .spins, .axes, .cals]
  | .linkTrainTimeout .. => [.now, .ev, .tb, .stns]
  | .linkRetry .. => [.now, .tb, .stns]
  | .linkRetryTimeout .. => [.now, .tb, .stns]
  | .retrainRequest .. => [.ev, .stns, .cals]
  | .retrainStart .. => [.ev, .stns, .cals]
  | .linkRelease .. => [.stns]
  | .linkLoss .. => [.now, .out, .free, .ev, .tb, .stns, .seekQ, .slices, .headWait, .discs, .zones, .held, .cmds, .cqs,
      .ladders, .ladderWait, .bufs, .gens, .pools, .jq, .mgmtQ, .loop, .heads, .spins, .axes, .lib, .cals, .stack, .hep]
  | .linkDegradedWindow .. => [.now, .ev, .tb, .stns]
  | .zoneResolve .. => [.out, .free, .ev, .slices, .headWait, .discs, .zones, .held, .cmds, .cqs, .bufs, .gens, .pools, .jq,
      .mgmtQ, .loop, .heads, .spins, .axes, .lib, .cals, .stack, .hep]
  | .sliceAssign .. => [.out, .free, .ev, .pw, .slices, .headWait, .zones, .jq, .cals, .stack]
  | .sliceWait .. => [.now, .ev, .tb, .headWait]
  | .sliceRelease .. => [.now, .out, .free, .ev, .tb, .slices, .zones, .jq, .cals, .stack]
  | .sliceReleaseRequest .. => [.out, .free, .ev, .slices, .zones, .jq, .cals, .stack]
  | .sliceStatClear .. => []
  | .sliceModeChange .. => [.out, .free, .ev, .slices, .zones, .jq, .cals, .stack]
  | .eqCommit .. => []
  | .eqCommitCopy .. => [.slices]
  | .eqShadowWrite .. => [.ev]
  | .frameDecode .. => [.out, .free, .ev, .tb, .seekQ, .slices, .headWait, .discs, .zones, .held, .cmds, .cqs, .ladders,
      .ladderWait, .damage, .damageSeq, .mem, .bufs, .gens, .pools, .engines, .chanJobs, .jq, .mgmtQ, .loop, .heads, .spins,
      .axes, .lib, .cals, .stack, .hep, .ms, .tally]
  | .frameEncode .. => [.out, .free, .ev, .slices, .headWait, .discs, .zones, .held, .cmds, .cqs, .bufs, .gens, .pools, .jq,
      .mgmtQ, .loop, .heads, .spins, .axes, .lib, .cals, .stack, .hep, .ms]
  | .slotVerify .. => [.out, .free, .ev, .slices, .headWait, .discs, .zones, .held, .cmds, .cqs, .bufs, .gens, .pools, .jq,
      .mgmtQ, .loop, .heads, .spins, .axes, .lib, .cals, .stack, .hep, .tally]
  | .rateMatchTick .. => [.now, .tb, .slices]
  | .readPause .. => [.ev, .slices]
  | .readResume .. => [.ev]
  | .holdStep .. => [.slices, .loop, .heads]
  | .oneTrackStep .. => [.loop, .heads]
  | .ladderRungDecode .. => [.out, .free, .ev, .tb, .seekQ, .slices, .headWait, .discs, .zones, .held, .cmds, .cqs, .ladders,
      .ladderWait, .damage, .damageSeq, .mem, .bufs, .gens, .pools, .engines, .chanJobs, .jq, .mgmtQ, .loop, .heads, .spins,
      .axes, .lib, .cals, .stack, .hep, .ms, .tally]
  | .rowShiftSearch .. => [.out, .free, .ev, .tb, .seekQ, .slices, .headWait, .discs, .zones, .held, .cmds, .cqs, .ladders,
      .ladderWait, .damage, .damageSeq, .mem, .bufs, .gens, .pools, .engines, .chanJobs, .jq, .mgmtQ, .loop, .heads, .spins,
      .axes, .lib, .cals, .stack, .hep, .ms, .tally]
  | .ladderBudgetExpire .. => [.now, .out, .free, .ev, .tb, .seekQ, .slices, .headWait, .discs, .zones, .held, .cmds, .cqs,
      .ladders, .ladderWait, .damage, .damageSeq, .mem, .bufs, .gens, .pools, .engines, .chanJobs, .jq, .mgmtQ, .loop, .heads,
      .spins, .axes, .lib, .cals, .stack, .hep, .ms, .tally]
  | .ladderSlotClaim .. => [.ev, .slices, .ladders, .ladderWait]
  | .ladderReread .. => [.out, .free, .ev, .tb, .seekQ, .slices, .headWait, .discs, .zones, .held, .cmds, .cqs, .ladders,
      .ladderWait, .damage, .damageSeq, .mem, .bufs, .gens, .pools, .engines, .chanJobs, .jq, .mgmtQ, .loop, .heads, .spins,
      .axes, .lib, .cals, .stack, .hep, .ms, .tally]
  | .rereadDecode .. => [.out, .free, .ev, .tb, .seekQ, .slices, .headWait, .discs, .zones, .held, .cmds, .cqs, .ladders,
      .ladderWait, .damage, .damageSeq, .mem, .bufs, .gens, .pools, .engines, .chanJobs, .jq, .mgmtQ, .loop, .heads, .spins,
      .axes, .lib, .cals, .stack, .hep, .ms, .tally]
  | .softCombine .. => [.out, .free, .ev, .tb, .seekQ, .slices, .headWait, .discs, .zones, .held, .cmds, .cqs, .ladders,
      .ladderWait, .damage, .damageSeq, .mem, .bufs, .gens, .pools, .engines, .chanJobs, .jq, .mgmtQ, .loop, .heads, .spins,
      .axes, .lib, .cals, .stack, .hep, .ms, .tally]
  | .outerErasureDecode .. => [.out, .free, .ev, .tb, .seekQ, .slices, .headWait, .discs, .zones, .held, .cmds, .cqs,
      .ladders, .ladderWait, .damage, .damageSeq, .mem, .bufs, .gens, .pools, .engines, .chanJobs, .jq, .mgmtQ, .loop, .heads,
      .spins, .axes, .lib, .cals, .stack, .hep, .ms, .tally]
  | .loopLaneRun .. => [.now, .out, .ev, .tb, .stns, .cmds, .cqs, .loop, .heads, .spins, .axes, .stack]
  | .loopOverrun .. => [.now, .out, .ev, .tb, .pw, .seekQ, .cmds, .cqs, .ladders, .ladderWait, .engines, .chanJobs, .loop,
      .heads, .axes, .lib, .cals, .stack]
  | .loopParamCopy => [.now, .tb, .loop]
  | .loopSlotEnable .. => [.ev, .loop]
  | .loopSlotDisable .. => [.now, .tb, .loop]
  | .loopDescWrite .. => []
  | .loopBankWrite .. => []
  | .loopSwapSlot .. => [.loop]
  | .loopSwapGroup .. => [.loop]
  | .loopSwapExecute .. => [.now, .tb, .loop]
  | .loopSatClear => []
  | .safeProgramDone => [.now, .ev, .tb, .loop]
  | .headAcquire .. => [.loop, .heads, .axes]
  | .headSeek .. => [.tb, .seekQ, .loop, .heads, .axes]
  | .headLayer .. => [.ev, .loop, .heads, .axes, .cals]
  | .headPark .. => [.out, .ev, .slices, .loop, .heads, .axes, .cals]
  | .headOpc .. => [.tb, .seekQ, .headWait, .loop, .heads, .axes]
  | .headClearFault .. => [.axes]
  | .seekRequest .. => [.ev, .tb, .seekQ, .headWait, .cmds, .loop, .heads, .axes]
  | .layerJumpRequest .. => [.ev, .tb, .seekQ, .headWait, .cmds, .loop, .heads, .axes, .cals]
  | .acqStageLocked .. => [.out, .ev, .slices, .cmds, .cqs, .loop, .heads, .axes, .stack]
  | .acqStageTimeout .. => [.now, .out, .free, .ev, .tb, .slices, .cmds, .cqs, .loop, .heads, .axes, .stack]
  | .seekJumpDone .. => [.now, .free, .ev, .tb, .seekQ, .headWait, .cmds, .loop, .heads, .axes]
  | .longSeekSettled .. => [.out, .free, .ev, .tb, .seekQ, .slices, .headWait, .cmds, .cqs, .ladders, .loop, .heads, .axes,
      .stack]
  | .seekRestart .. => [.ev, .tb, .seekQ, .headWait, .cmds, .loop, .heads, .axes]
  | .layerMoveEnd .. => [.now, .tb, .loop, .heads]
  | .relayLocked .. => [.free, .ev, .tb, .seekQ, .headWait, .cmds, .loop, .heads, .axes]
  | .layerJumpTimeout .. => [.now, .out, .ev, .tb, .slices, .cmds, .cqs, .loop, .heads, .axes, .stack]
  | .lockLoss .. => [.out, .free, .ev, .slices, .cmds, .cqs, .loop, .heads, .axes, .cals, .stack]
  | .headRecoveryDone .. => [.ev, .tb, .seekQ, .headWait, .cmds, .loop, .heads, .axes]
  | .headRecoveryTimeout .. => [.now, .out, .ev, .tb, .slices, .cmds, .cqs, .loop, .heads, .axes, .stack]
  | .powerLimitDetect .. => [.out, .ev, .slices, .cmds, .cqs, .loop, .heads, .stack]
  | .opcTrigger .. => [.ev, .tb, .seekQ, .headWait, .cmds, .loop, .heads, .axes]
  | .opcReadback .. => [.free, .ev, .tb, .seekQ, .headWait, .discs, .cmds, .loop, .heads, .axes]
  | .headParkDone .. => [.now, .out, .ev, .tb, .stns, .seekQ, .slices, .loop, .heads, .spins, .axes]
  | .mountComplete .. => [.out, .free, .ev, .slices, .headWait, .discs, .zones, .held, .cmds, .cqs, .bufs, .gens, .pools, .jq,
      .mgmtQ, .loop, .heads, .spins, .axes, .lib, .cals, .stack, .hep]
  | .spindleTargetWrite .. => [.ev, .loop, .spins]
  | .spindleSenseEnd .. => [.now, .ev, .tb, .loop, .spins]
  | .spindleWaitSlowEnd .. => [.now, .tb, .spins]
  | .spindleRevBrakeEnd .. => [.loop, .spins]
  | .spindleAlignStart .. => [.tb, .pw, .loop, .spins]
  | .spindleAlignEnd .. => [.now, .tb, .loop, .spins]
  | .spindleHandover .. => [.loop, .spins]
  | .spindleCatchDone .. => [.ev, .loop, .spins]
  | .spindleAttemptFail .. => [.now, .out, .ev, .tb, .slices, .cmds, .cqs, .loop, .heads, .spins, .axes, .stack]
  | .spindleRetry .. => [.now, .tb, .loop, .spins]
  | .spindleLockedRotor .. => [.now, .out, .ev, .tb, .slices, .cmds, .cqs, .loop, .heads, .spins, .axes, .stack]
  | .spindleObserverLoss .. => [.out, .ev, .slices, .loop, .heads, .spins, .axes, .cals]
  | .spindleReacquired .. => [.ev, .loop, .spins]
  | .spindleReacqTimeout .. => [.now, .ev, .tb, .loop, .spins]
  | .spindleVbusChange .. => [.ev, .loop, .spins]
  | .spindleBrakeEnd .. => [.loop, .spins]
  | .spindleHoldEnd .. => [.now, .out, .ev, .tb, .slices, .cmds, .cqs, .loop, .heads, .spins, .axes, .stack]
  | .spindleBrakeTimeout .. => [.now, .out, .ev, .tb, .slices, .cmds, .cqs, .loop, .heads, .spins, .axes, .stack]
  | .spindleAtSpeed .. => [.now, .ev, .tb, .loop, .heads, .spins, .axes]
  | .phaseLockChange .. => [.ev, .spins]
  | .spindleClearFault .. => [.ev, .loop, .spins]
  | .axisMove .. => [.tb, .seekQ, .axes]
  | .axisStop .. => [.out, .seekQ, .axes]
  | .axisHome .. => [.axes]
  | .axisClear .. => []
  | .axisTargetWrite .. => []
  | .axisMoveDone .. => [.now, .out, .ev, .tb, .seekQ, .loop, .heads, .axes, .lib]
  | .axisHomeDone .. => [.now, .out, .ev, .tb, .seekQ, .axes, .lib]
  | .axisFaultInput .. => [.out, .ev, .seekQ, .cmds, .cqs, .axes, .lib, .stack]
  | .motionStopAll => [.out, .seekQ, .axes]
  | .libraryEnable => [.axes]
  | .doorRequestOpen => [.now, .out, .ev, .tb, .lib]
  | .doorRequestLock .. => [.lib]
  | .doorLockConfirmed => [.ev, .axes, .lib]
  | .doorOpenedUnexpected .. => [.out, .ev, .seekQ, .cmds, .cqs, .axes, .lib, .stack]
  | .doorWaitTimeout .. => [.now, .out, .tb, .cmds, .cqs, .lib, .stack]
  | .transferStart => [.now, .out, .ev, .tb, .seekQ, .slices, .discs, .cmds, .cqs, .jq, .loop, .heads, .spins, .axes, .lib,
      .stack]
  | .transferProgress .. => [.now, .out, .ev, .tb, .seekQ, .slices, .discs, .zones, .cmds, .cqs, .jq, .loop, .heads, .spins,
      .axes, .lib, .stack]
  | .transferWaitTimeout .. => [.now, .ev, .tb, .lib]
  | .transferResolve .. => [.out, .ev, .discs, .zones, .cmds, .cqs, .jq, .lib, .stack]
  | .inventoryComplete .. => [.now, .out, .ev, .tb, .cmds, .cqs, .lib, .stack]
  | .cascadeEnable => [.stack]
  | .cascadeForget => [.out, .stack]
  | .cascPortUp .. => [.now, .out, .ev, .tb, .cals, .stack]
  | .cascPortDown .. => [.out, .ev, .cals, .stack]
  | .announceSend => [.now, .out, .tb, .stack]
  | .announceReceive .. => [.out, .ev, .stack]
  | .joinReceive .. => [.out, .ev, .stack]
  | .membersReceive .. => [.out, .stack]
  | .syncReceive .. => [.now, .out, .ev, .tb, .stack, .tally]
  | .ringCmdReceive .. => [.out, .free, .ev, .tb, .pw, .seekQ, .slices, .headWait, .discs, .zones, .held, .cmds, .cmdSeq,
      .cqs, .ladders, .ladderWait, .bufs, .gens, .pools, .jq, .mgmtQ, .loop, .heads, .spins, .axes, .lib, .cals, .stack, .hep,
      .firm]
  | .ringFrameReceive .. => [.out, .free, .ev, .slices, .headWait, .discs, .zones, .held, .cmds, .cqs, .mem, .bufs, .gens,
      .pools, .engines, .chanJobs, .jq, .mgmtQ, .loop, .heads, .spins, .axes, .lib, .cals, .stack, .hep, .ms, .tally]
  | .ringCatReceive .. => [.out, .free, .ev, .slices, .headWait, .discs, .zones, .held, .cmds, .cqs, .bufs, .gens, .pools,
      .jq, .mgmtQ, .loop, .heads, .spins, .axes, .lib, .cals, .stack, .hep]
  | .ringLibReceive .. => [.out, .free, .ev, .tb, .pw, .seekQ, .slices, .headWait, .discs, .zones, .held, .cmds, .cmdSeq,
      .cqs, .bufs, .gens, .pools, .jq, .mgmtQ, .loop, .heads, .spins, .axes, .lib, .cals, .stack, .hep]
  | .ringAckReceive .. => [.out, .free, .ev, .slices, .headWait, .discs, .zones, .held, .cmds, .cqs, .bufs, .gens, .pools,
      .jq, .mgmtQ, .loop, .heads, .spins, .axes, .lib, .cals, .stack, .hep]
  | .ringMessageForward .. => [.out, .stack]
  | .ringRetransmit .. => [.now, .out, .tb, .stack]
  | .memberAbsent .. => [.now, .out, .ev, .tb, .stack]
  | .masterLost => [.now, .ev, .tb, .stack, .tally]
  | .stackSyncTimeout => [.now, .ev, .tb, .stack, .tally]
  | .crossCellTimeout .. => [.now, .out, .free, .ev, .tb, .seekQ, .slices, .headWait, .discs, .zones, .held, .cmds, .cqs,
      .ladders, .ladderWait, .bufs, .gens, .pools, .jq, .mgmtQ, .loop, .heads, .spins, .axes, .lib, .cals, .stack, .hep]
  | .proxyDeliver .. => [.out, .stack]
  | .hostLinkUp .. => [.ev]
  | .hostEndpointReset .. => [.out, .free, .ev, .tb, .pw, .stns, .seekQ, .slices, .headWait, .discs, .zones, .held, .cmds,
      .sqs, .cqs, .grps, .profs, .rrGroup, .rrQueue, .rrLeft, .ladders, .ladderWait, .bufs, .gens, .pools, .copyWait,
      .engines, .chanJobs, .jq, .mgmtQ, .loop, .heads, .spins, .axes, .lib, .cals, .stack, .hep, .tally, .firm]
  | .configRequest .. => [.out, .free, .hep]
  | .hdmDecoderCommit .. => [.hep]
  | .hdmHostRead .. => [.out, .free, .ev, .hep, .ms]
  | .hdmHostWrite .. => [.free, .ev, .mem, .hep, .ms]
  | .peerRequest .. => [.out, .free, .ev, .mem, .hep, .ms]
  | .peerWindowCommit => [.ev, .hep]
  | .peerCommitEffect => [.ev, .hep]
  | .translationCompletion .. => [.out, .free, .ev, .tb, .seekQ, .slices, .headWait, .discs, .zones, .held, .cmds, .cqs,
      .ladders, .ladderWait, .bufs, .gens, .pools, .jq, .mgmtQ, .loop, .heads, .spins, .axes, .lib, .cals, .stack, .hep]
  | .atsInvalidate .. => [.now, .out, .tb, .hep]
  | .hostCacheError .. => [.out, .ev, .cmds, .sqs, .cqs, .stack]
  | .completionWrite .. => [.out, .cmds, .cqs, .bufs, .gens, .pools, .hep]
  | .msixSend .. => [.out, .cqs]
  | .msixUnmask .. => [.out, .hep]
  | .cqFullTimeout .. => [.now, .ev, .tb, .cqs]
  | .smbIdentify => [.out]
  | .smbHealth => [.out, .free]
  | .smbSetOffset .. => [.out, .hep]
  | .smbReadReg => [.out, .free]
  | .smbWake .. => [.out, .ev, .pw, .seekQ, .slices, .jq, .loop, .heads, .spins, .axes, .flash]
  | .doorbellWrite .. => [.ev, .sqs, .cqs]
  | .commandFetch .. => [.out, .ev, .pw, .zones, .held, .cmds, .cmdSeq, .sqs, .cqs, .rrGroup, .rrQueue, .rrLeft, .bufs,
      .pools, .hep]
  | .commandStart .. => [.out, .free, .ev, .slices, .headWait, .discs, .zones, .held, .cmds, .cqs, .bufs, .gens, .pools, .jq,
      .mgmtQ, .loop, .heads, .spins, .axes, .lib, .cals, .stack, .hep]
  | .nop .. => [.out, .cmds, .cqs, .stack]
  | .identify .. => [.out, .free, .ev, .slices, .headWait, .discs, .zones, .held, .cmds, .cqs, .bufs, .gens, .pools, .jq,
      .mgmtQ, .loop, .heads, .spins, .axes, .lib, .cals, .stack, .hep]
  | .getLog .. => [.out, .free, .ev, .slices, .headWait, .discs, .zones, .held, .cmds, .cqs, .damage, .bufs, .gens, .pools,
      .jq, .mgmtQ, .loop, .heads, .spins, .axes, .lib, .cals, .stack, .hep]
  | .setFeature .. => [.out, .free, .ev, .slices, .headWait, .discs, .zones, .held, .cmds, .cqs, .profs, .bufs, .gens, .pools,
      .jq, .mgmtQ, .loop, .heads, .spins, .axes, .lib, .cals, .stack, .hep]
  | .getFeature .. => [.out, .free, .ev, .slices, .headWait, .discs, .zones, .held, .cmds, .cqs, .bufs, .gens, .pools, .jq,
      .mgmtQ, .loop, .heads, .spins, .axes, .lib, .cals, .stack, .hep]
  | .abort .. => [.out, .free, .ev, .tb, .seekQ, .slices, .headWait, .discs, .zones, .held, .cmds, .cqs, .ladders,
      .ladderWait, .bufs, .gens, .pools, .jq, .mgmtQ, .loop, .heads, .spins, .axes, .lib, .cals, .stack, .hep, .firm]
  | .read .. => [.out, .free, .ev, .tb, .seekQ, .slices, .headWait, .discs, .zones, .held, .cmds, .cqs, .ladders, .mem, .bufs,
      .gens, .pools, .copyWait, .engines, .chanJobs, .jq, .mgmtQ, .loop, .heads, .spins, .axes, .lib, .cals, .stack, .hep,
      .ms, .tally]
  | .write .. => [.out, .free, .ev, .tb, .seekQ, .slices, .headWait, .discs, .zones, .held, .cmds, .cqs, .mem, .bufs, .gens,
      .pools, .copyWait, .engines, .chanJobs, .jq, .mgmtQ, .loop, .heads, .spins, .axes, .lib, .cals, .stack, .hep, .ms,
      .tally]
  | .verify .. => [.out, .free, .ev, .tb, .seekQ, .slices, .headWait, .discs, .zones, .held, .cmds, .cqs, .ladders, .mem,
      .bufs, .gens, .pools, .copyWait, .engines, .chanJobs, .jq, .mgmtQ, .loop, .heads, .spins, .axes, .lib, .cals, .stack,
      .hep, .ms, .tally]
  | .flush .. => [.out, .free, .ev, .tb, .seekQ, .slices, .headWait, .discs, .zones, .held, .cmds, .cqs, .bufs, .gens, .pools,
      .jq, .mgmtQ, .loop, .heads, .spins, .axes, .lib, .cals, .stack, .hep]
  | .zoneClose .. => [.out, .free, .ev, .tb, .seekQ, .slices, .headWait, .discs, .zones, .held, .cmds, .cqs, .bufs, .gens,
      .pools, .jq, .mgmtQ, .loop, .heads, .spins, .axes, .lib, .cals, .stack, .hep]
  | .discFinalize .. => [.out, .free, .ev, .tb, .seekQ, .slices, .headWait, .discs, .zones, .held, .cmds, .cqs, .bufs, .gens,
      .pools, .jq, .mgmtQ, .loop, .heads, .spins, .axes, .lib, .cals, .stack, .hep]
  | .bufferAlloc .. => [.out, .free, .ev, .cmds, .cqs, .mem, .bufs, .pools, .stack, .hep, .ms]
  | .bufferRelease .. => [.out, .cmds, .cqs, .bufs, .gens, .pools, .stack, .hep]
  | .bufferShare .. => [.out, .cmds, .cqs, .bufs, .stack, .hep]
  | .mount .. => [.out, .free, .ev, .tb, .seekQ, .slices, .headWait, .discs, .zones, .held, .cmds, .cqs, .bufs, .gens, .pools,
      .jq, .mgmtQ, .loop, .heads, .spins, .axes, .lib, .cals, .stack, .hep]
  | .unmount .. => [.out, .free, .ev, .tb, .seekQ, .slices, .headWait, .discs, .zones, .held, .cmds, .cqs, .bufs, .gens,
      .pools, .jq, .mgmtQ, .loop, .heads, .spins, .axes, .lib, .cals, .stack, .hep]
  | .move .. => [.out, .free, .ev, .slices, .headWait, .discs, .zones, .held, .cmds, .cqs, .bufs, .gens, .pools, .jq, .mgmtQ,
      .loop, .heads, .spins, .axes, .lib, .cals, .stack, .hep]
  | .inventory .. => [.ev, .cmds, .lib]
  | .timeSet .. => [.tb, .cmds]
  | .timeGet .. => [.out, .free, .ev, .slices, .headWait, .discs, .zones, .held, .cmds, .cqs, .bufs, .gens, .pools, .jq,
      .mgmtQ, .loop, .heads, .spins, .axes, .lib, .cals, .stack, .hep]
  | .tallyRead .. => [.out, .free, .ev, .slices, .headWait, .discs, .zones, .held, .cmds, .cqs, .bufs, .gens, .pools, .jq,
      .mgmtQ, .loop, .heads, .spins, .axes, .lib, .cals, .stack, .hep]
  | .tallyAck .. => [.out, .free, .ev, .slices, .headWait, .discs, .zones, .held, .cmds, .cqs, .bufs, .gens, .pools, .jq,
      .mgmtQ, .loop, .heads, .spins, .axes, .lib, .cals, .stack, .hep, .tally]
  | .fwDownload .. => [.out, .cmds, .cqs, .stack, .flash, .firm]
  | .fwActivate .. => [.out, .ev, .pw, .cmds, .cqs, .stack, .ms, .flash, .firm]
  | .modeSet .. => [.out, .free, .ev, .pw, .slices, .headWait, .discs, .zones, .held, .cmds, .cqs, .bufs, .gens, .pools, .jq,
      .mgmtQ, .loop, .heads, .spins, .axes, .lib, .cals, .stack, .hep]
  | .stationDiag .. => [.out, .free, .ev, .stns, .slices, .headWait, .discs, .zones, .held, .cmds, .cqs, .bufs, .gens, .pools,
      .jq, .mgmtQ, .loop, .heads, .spins, .axes, .lib, .cals, .stack, .hep]
  | .createCq => [.cqs]
  | .deleteCq => [.cqs]
  | .createSq => [.sqs]
  | .deleteSq => [.out, .free, .ev, .tb, .seekQ, .slices, .headWait, .discs, .zones, .held, .cmds, .sqs, .cqs, .ladders,
      .ladderWait, .bufs, .gens, .pools, .jq, .mgmtQ, .loop, .heads, .spins, .axes, .lib, .cals, .stack, .hep, .firm]
  | .deleteSqComplete => [.out, .ev, .sqs, .bufs, .gens, .pools, .hep]
  | .setGroup => [.grps]
  | .queryCq => []
  | .querySq => []
  | .queryGroup => []
  | .copyBufferGrant => [.out, .free, .ev, .slices, .headWait, .discs, .zones, .held, .cmds, .cqs, .mem, .bufs, .gens, .pools,
      .copyWait, .engines, .chanJobs, .jq, .mgmtQ, .loop, .heads, .spins, .axes, .lib, .cals, .stack, .hep, .ms, .tally]
  | .bpmEnable => [.ev, .bufs, .gens, .pools]
  | .bpmDisable => []
  | .dmaChannelStart .. => [.engines]
  | .dmaChannelRun .. => [.out, .engines, .hep]
  | .dmaDescriptorEnd .. => [.out, .free, .ev, .tb, .seekQ, .slices, .headWait, .discs, .zones, .held, .cmds, .cqs, .ladders,
      .ladderWait, .mem, .bufs, .gens, .pools, .copyWait, .engines, .chanJobs, .jq, .mgmtQ, .loop, .heads, .spins, .axes,
      .lib, .cals, .stack, .hep, .ms, .tally]
  | .dmaBusRetry .. => [.now, .out, .free, .ev, .tb, .seekQ, .slices, .headWait, .discs, .zones, .held, .cmds, .cqs, .ladders,
      .ladderWait, .mem, .bufs, .gens, .pools, .copyWait, .engines, .chanJobs, .jq, .mgmtQ, .loop, .heads, .spins, .axes,
      .lib, .cals, .stack, .hep, .ms, .tally]
  | .dmaChannelReset .. => []
  | .dramTrainingDone .. => [.out, .ev, .pw, .seekQ, .cmds, .cqs, .ladders, .ladderWait, .mem, .engines, .chanJobs, .loop,
      .heads, .axes, .lib, .cals, .stack, .ms]
  | .dramInitDone .. => [.now, .ev, .tb]
  | .scrubStep .. => [.free, .ev, .ms]
  | .selfRefreshEnter => [.now, .tb]
  | .mergeBufferDrain .. => [.now, .out, .free, .ev, .tb, .pw, .seekQ, .slices, .headWait, .discs, .zones, .held, .cmds, .cqs,
      .ladders, .ladderWait, .mem, .bufs, .gens, .pools, .copyWait, .engines, .chanJobs, .jq, .mgmtQ, .loop, .heads, .spins,
      .axes, .lib, .cals, .stack, .hep, .ms, .tally]
  | .cacheInvalidate .. => [.ms]
  | .cacheDrain .. => [.free, .ev, .ms]
  | .cacheDrainInvalidate .. => [.free, .ev, .ms]
  | .cacheLoadLock .. => [.free, .ev, .ms]
  | .cacheOpDone .. => [.now, .tb]
  | .cacheWayLockWrite .. => [.free, .ev, .ms]
  | .cacheWayPowerWrite .. => [.free, .ev, .ms]
  | .eccInjectArm .. => []
  | .flashProgram .. => [.ev, .flash]
  | .flashSectorErase .. => [.ev, .flash]
  | .flashSuspend => [.ev, .flash]
  | .flashResume => [.ev, .flash]
  | .flashReadArray => [.ev]
  | .flashProgramDone .. => [.now, .out, .free, .ev, .tb, .slices, .headWait, .discs, .zones, .held, .cmds, .cqs, .bufs,
      .gens, .pools, .jq, .mgmtQ, .loop, .heads, .spins, .axes, .lib, .cals, .stack, .hep, .flash]
  | .flashEraseDone .. => [.now, .ev, .tb, .flash]
  | .erasePendingLong => [.now, .ev, .tb, .flash]
  | .bootSelect .. => [.out, .ev, .pw, .seekQ, .cmds, .cqs, .ladders, .ladderWait, .engines, .chanJobs, .loop, .heads, .axes,
      .lib, .cals, .stack, .flash, .firm]
  | .journalReplay => [.ev, .discs, .zones, .lib, .stack, .flash]
  | .journalReclaim => [.jq, .flash]
  | .frontierSearch .. => [.out, .free, .ev, .slices, .headWait, .discs, .zones, .held, .cmds, .cqs, .bufs, .gens, .pools,
      .jq, .mgmtQ, .loop, .heads, .spins, .axes, .lib, .cals, .stack, .hep]
  | .pwrfailAssert => [.out, .ev, .pw, .seekQ, .slices, .jq, .loop, .heads, .spins, .axes, .flash, .tally]
  | .pfJournalWrite .. => [.now, .out, .free, .ev, .tb, .slices, .headWait, .discs, .zones, .held, .cmds, .cqs, .bufs, .gens,
      .pools, .jq, .mgmtQ, .loop, .heads, .spins, .axes, .lib, .cals, .stack, .hep, .flash]
  | .pwrfailDeassert => [.ev, .pw, .tally]
  | .pwrfailRecover => [.now, .tb, .pw]
  | .supplyFault .. => [.now, .out, .ev, .tb, .pw, .seekQ, .cmds, .cqs, .ladders, .ladderWait, .engines, .chanJobs, .loop,
      .heads, .axes, .lib, .cals, .stack]
  | .wake .. => [.now, .out, .ev, .tb, .pw, .seekQ, .slices, .jq, .loop, .heads, .spins, .axes, .flash]
  | .modeTransitionDone .. => [.now, .out, .free, .ev, .tb, .pw, .stns, .seekQ, .slices, .headWait, .discs, .zones, .held,
      .cmds, .sqs, .cqs, .grps, .profs, .rrGroup, .rrQueue, .rrLeft, .ladders, .ladderWait, .bufs, .gens, .pools, .copyWait,
      .engines, .chanJobs, .jq, .mgmtQ, .loop, .heads, .spins, .axes, .lib, .cals, .stack, .hep, .ms, .tally, .firm]
  | .fwReady .. => [.ev, .pw, .bufs, .gens, .pools, .firm]
  | .watchdogKick => [.pw]
  | .watchdogExpire => [.now, .out, .ev, .tb, .pw, .seekQ, .cmds, .cqs, .ladders, .ladderWait, .engines, .chanJobs, .loop,
      .heads, .axes, .lib, .cals, .stack]
  | .thermalReading .. => [.now, .out, .ev, .tb, .pw, .seekQ, .cmds, .cqs, .ladders, .ladderWait, .engines, .chanJobs, .loop,
      .heads, .axes, .lib, .cals, .stack]
  | .thermalExit => [.now, .ev, .tb, .pw]
  | .thermtrip => [.out, .pw]
  | .powerCapEstimate .. => [.now, .tb, .pw]
  | .capExceeded => [.now, .ev, .tb, .pw]
  | .eventLogCopy => [.free, .ev, .flash, .firm]
  | .eventInterrupt => [.now, .out, .ev, .tb]
  | .tallyStart .. => [.out, .ev, .pw, .seekQ, .cmds, .cqs, .ladders, .ladderWait, .engines, .chanJobs, .loop, .heads, .axes,
      .lib, .cals, .stack, .tally]
  | .tallyMinuteBoundary .. => [.now, .ev, .tb, .tally]
  | .tallyMsSample => [.now, .ev, .tb, .tally]
  | .tallyTapEvent .. => [.ev, .tally]
  | .tallyRecordProgram .. => [.out, .free, .ev, .cmds, .cqs, .stack, .flash, .tally]
  | .tallySectorErase => [.flash]
  | .tallyPfClose .. => [.now, .ev, .tb, .tally]
  | .tallySeal .. => [.now, .ev, .tb, .sealed, .tally]
  | .calTrigger .. => [.now, .tb, .cals]
  | .calRunAll => [.cals]
  | .calPortRun .. => [.ev, .cals]
  | .calPortApply .. => [.now, .ev, .tb, .cals]
  | .calSliceRunDone .. => [.free, .ev, .cals]
  | .calSliceApply .. => [.ev, .cals]
  | .calTrimRun .. => [.ev, .cals]
  | .calTrimApply .. => [.ev, .cals]
  | .calStore .. => [.free, .cals, .flash]
  | .kilnEnd => [.out, .free, .ev, .tb, .pw, .seekQ, .slices, .headWait, .discs, .zones, .held, .cmds, .cqs, .bufs, .gens,
      .pools, .jq, .mgmtQ, .loop, .heads, .spins, .axes, .lib, .cals, .stack, .hep, .firm]
  | .kilnTimeout => [.now, .out, .ev, .tb, .pw, .seekQ, .slices, .jq, .loop, .heads, .spins, .axes, .flash]
  | .fwActivateReset => [.now, .out, .ev, .tb, .pw, .seekQ, .slices, .jq, .loop, .heads, .spins, .axes, .flash, .firm]
  | .trialConfirm => [.now, .ev, .tb, .flash, .firm]
  | .trialTimeout => [.now, .out, .ev, .tb, .pw, .seekQ, .slices, .jq, .loop, .heads, .spins, .axes, .flash]
  | .flashSeqError => [.ev]
  | .ringEchoReceive .. => [.out]
  | .referenceClockLost => [.tb]
  | .pickerDiscFall .. => [.now, .out, .ev, .tb, .discs, .cmds, .cqs, .jq, .lib, .stack]

/-- The commands that store to device memory or clear it. -/
def storesMemory : Instr → Bool
  | .resetTakesEffect => true
  | .porstAssert => true
  | .frameDecode .. => true
  | .ladderRungDecode .. => true
  | .rowShiftSearch .. => true
  | .ladderBudgetExpire .. => true
  | .ladderReread .. => true
  | .rereadDecode .. => true
  | .softCombine .. => true
  | .outerErasureDecode .. => true
  | .ringFrameReceive .. => true
  | .hdmHostWrite .. => true
  | .peerRequest .. => true
  | .read .. => true
  | .write .. => true
  | .verify .. => true
  | .bufferAlloc .. => true
  | .copyBufferGrant => true
  | .dmaDescriptorEnd .. => true
  | .dmaBusRetry .. => true
  | .dramTrainingDone .. => true
  | .mergeBufferDrain .. => true
  | _ => false

end Sys2Proof.Machine
end

