-- ==== Sys2Proof/Certificates/Slice0/Obligations.lean ====
section
/-!
DEFINITION. What is to be proved of the controller's model: statements of the manual's rules, one definition each. A clause
`s.gives c p` says that the command c completes in the state s and that its next state satisfies p.
-/

open Sys2Proof Sys2Proof.Machine

/-- For every command c, queue rest and state s: the step of s with c in front of its queue is exec of c on s with the queue's
rest. The queue is the form in which this model takes commands (spec/opcode_table.json lists them); the per-command statements
reach a run through this one. -/
def Obligations.StepRunsTheFrontCommand : Prop :=
  ∀ (c : Instr) (rest : List Instr) (s : State), step { s with pending := c :: rest } = exec c { s with pending := rest }

/-- With no command waiting and PORST_N high, a step is one CCLK cycle, or one AOCLK edge while CCLK is stopped, and changes
neither registers nor memory nor outputs. That an empty queue stands for a cycle is the model's DESIGN CHOICE (assumption 1);
that TIME counts on the clock which runs is R50 and R55. -/
def Obligations.EmptyQueueIdles : Prop :=
  (∀ s : State, s.pending = [] → s.pw.porst = false → s.tb.cclk = true → step s = .next (s.advance 1)) ∧
  (∀ s : State, s.pending = [] → s.pw.porst = false → s.tb.cclk = false → step s = .next (s.coarse 1)) ∧
  (∀ s : State, s.pending = [] → ∃ t, step s = .next t ∧ t.regs = s.regs ∧ t.mem = s.mem ∧ t.out = s.out ∧ t.pending = [])

/-- State.reset is the machine at the deassertion of PORST_N: TIME 0 and the discipline state FREE (R53), the mode KINDLING
(R854), the SEQ of the next event is 1 (R886), the tally has counted nothing, the seal fuse as ordered, no command in flight
and none waiting. Every register field holds the Reset value of its table; where the table has none the value is the model's,
named in the assumption log (basis derived). -/
def Obligations.ResetLeavesTheStartState : Prop :=
  (State.reset.lin = 0 ∧ State.reset.rd Reg.TIME_STATUS_STATE 0 = dFree ∧ State.reset.mode = mKindling ∧ State.reset.ev.seq =
    0 ∧ State.reset.ev.ring = [] ∧ State.reset.tally.open_ = [] ∧ State.reset.tally.closing = [] ∧ State.reset.sealed =
    Config.orderS ∧ State.reset.cmds = [] ∧ State.reset.pending = []) ∧
  (∀ f ∈ Reg.table, ∀ i, State.reset.rd f i = f.rst i)

/-- The invariant of EveryStepKeepsSoundness holds at State.reset: TIME is 0 (R53), a valid TIME value (R49), and device
memory, which lists nothing, is in its canonical form. The canonical form is this model's way to hold memory. -/
def Obligations.ResetStateIsSound : Prop :=
  State.reset.sound

/-- From every state in which TIME_TICK is below 1,500,000,000, TIME_SEC has 32 bits (R49 to R51) and device memory is in its
canonical form (addresses rise strictly, no entry is blank), every step, whatever the command, gives a state of which the same
holds. -/
def Obligations.EveryStepKeepsSoundness : Prop :=
  ∀ s t : State, s.sound → step s = .next t → t.sound

/-- Blowing the tally seal fuse is irreversible (R2): from every state in which it is blown, whatever command is carried out,
resets and PORST among them (R875), it is blown in the next state; and every step keeps it so. -/
def Obligations.SealStaysBlown : Prop :=
  (∀ (c : Instr) (s t : State), s.sealed = true → exec c s = .next t → t.sealed = true) ∧
  (∀ s t : State, s.sealed = true → step s = .next t → t.sealed = true)

/-- The queue of commands that wait (this model's own, taken first in first out) is changed by no command: a step on a queue
with c in front leaves its rest. And elapsed time never falls in a step. -/
def Obligations.CommandsWaitFirstInFirstOut : Prop :=
  (∀ (c : Instr) (rest : List Instr) (s t : State), s.pending = c :: rest → step s = .next t → t.pending = rest) ∧
  (∀ s t : State, step s = .next t → s.now ≤ t.now)

/-- No command faults and none is refused: for every constructor of Instr, all its operands and every state there is a next
state. What that state holds is said command by command in the statements that follow. -/
def Obligations.EveryCommandAnswersANextState : Prop :=
  ∀ (c : Instr) (s : State), ∃ t, exec c s = .next t

/-- For every command, by name: when it gives a next state, every register field outside frameFields of the command reads as
before in every instance, and every part of the state beside the registers outside frameParts of it (queues, buffers, links,
heads, library, flash, tally, stack, device memory, outputs ...) is as before. The lists name what the command's rules let it
write, what completing commands and events write with them included. -/
def Obligations.EveryCommandKeepsItsFrame : Prop :=
  ∀ (c : Instr) (s t : State), exec c s = .next t → s.onlyChanges t (frameFields c) (frameParts c)

/-- Device memory is one byte array. For every command outside the list that stores to it (a decoded or delivered frame, a
copy or in-place data command, a buffer's zero fill, a DMA descriptor, a host or peer store, the zero fill of training, the
resets) every byte reads as before, at every address. Where the host and the peers store is stated in HostAndPeerMemoryAccess.
-/
def Obligations.MemoryChangesOnlyWhereStored : Prop :=
  ∀ (c : Instr) (s t : State), storesMemory c = false → exec c s = .next t → ∀ a, t.byte a = s.byte a

/-- One cycle of CCLK (State.advance 1, by which every command and the idle step let time pass) adds 1 to TIME_TICK; at
1,500,000,000 TIME_TICK returns to 0 and TIME_SEC advances by 1 (R50); from 4,294,967,295 TIME_SEC goes to 0 (R51). Nothing
else changes but the count of elapsed cycles. -/
def Obligations.TimeCountsEveryCycle : Prop :=
  (∀ s : State, s.timeOk → s.tb.tick + 1 < 1500000000 → s.advance 1 = { s with tb := { s.tb with tick := s.tb.tick + 1 }, now
    := s.now + 1 }) ∧
  (∀ s : State, s.timeOk → s.tb.tick = 1499999999 → s.tb.sec < 4294967295 → s.advance 1 =
    { s with tb := { s.tb with tick := 0, sec := s.tb.sec + 1 }, now := s.now + 1 }) ∧
  (∀ s : State, s.timeOk → s.tb.tick = 1499999999 → s.tb.sec = 4294967295 → s.advance 1 =
    { s with tb := { s.tb with tick := 0, sec := 0 }, now := s.now + 1 })

/-- Every event, by State.raise, is the newest entry of the EVT ring. Below 1,024 entries none is lost; with 1,024 the oldest
is overwritten, EVT_STATUS.OVERFLOW is set and EVT_LOST counts the entry (up to its largest value). The ring never holds more
than 1,024. -/
def Obligations.EventsFillTheRing : Prop :=
  (∀ (s : State) (code : Nat) (d : List Nat), s.ev.ring.length < 1024 → ∃ e : EvEntry, e.code = code ∧ e.data = d ∧ (s.raise
    code d).ev.ring = s.ev.ring ++ [e] ∧ (s.raise code d).rd Reg.EVT_STATUS_OVERFLOW 0 = s.rd Reg.EVT_STATUS_OVERFLOW 0 ∧
    (s.raise code d).rd Reg.EVT_LOST_COUNT 0 = s.rd Reg.EVT_LOST_COUNT 0) ∧
  (∀ (s : State) (code : Nat) (d : List Nat) (e0 : EvEntry) (r : List EvEntry), s.ev.ring = e0 :: r → r.length = 1023 → s.rd
    Reg.EVT_LOST_COUNT 0 < 2 ^ Reg.EVT_LOST_COUNT.w - 1 → ∃ e : EvEntry, e.code = code ∧ e.data = d ∧ (s.raise code d).ev.ring
    = r ++ [e] ∧ (s.raise code d).rd Reg.EVT_STATUS_OVERFLOW 0 = 1 ∧ (s.raise code d).rd Reg.EVT_LOST_COUNT 0 = s.rd
    Reg.EVT_LOST_COUNT 0 + 1)

/-- With MEMC_CACHE_OP.BUSY at 1, each of the four operations that GO would start is ignored, so that one runs at a time, and
writes to MEMC_CACHE_ADDR, MEMC_CACHE_LEN and to MEMC_CACHE_OP with its OP and FORCE are discarded: the state is as before.
Each of these commands is stated to complete, under its clauses' hypotheses alone: cacheInvalidate, cacheDrain,
cacheDrainInvalidate, cacheLoadLock, registerWrite. -/
def Obligations.OneCacheOperationAtATime : Prop :=
  (∀ (s : State) (src : Src) (f : Bool), s.flag Reg.MEMC_CACHE_OP_BUSY 0 = true → s.gives (.cacheInvalidate src f) fun t => t
    = s) ∧
  (∀ (s : State) (src : Src) (f : Bool), s.flag Reg.MEMC_CACHE_OP_BUSY 0 = true → s.gives (.cacheDrain src f) fun t => t = s)
    ∧
  (∀ (s : State) (src : Src) (f : Bool), s.flag Reg.MEMC_CACHE_OP_BUSY 0 = true → s.gives (.cacheDrainInvalidate src f) fun t
    => t = s) ∧
  (∀ (s : State) (src : Src) (f : Bool), s.flag Reg.MEMC_CACHE_OP_BUSY 0 = true → s.gives (.cacheLoadLock src f) fun t => t =
    s) ∧
  (∀ (s : State) (src : Src) (d : Nat), s.flag Reg.MEMC_CACHE_OP_BUSY 0 = true → s.gives (.registerWrite src 0x50100 8 d) fun
    t => t = s) ∧
  (∀ (s : State) (src : Src) (d : Nat), s.flag Reg.MEMC_CACHE_OP_BUSY 0 = true → s.gives (.registerWrite src 0x50108 4 d) fun
    t => t = s) ∧
  (∀ (s : State) (src : Src) (d : Nat), s.flag Reg.MEMC_CACHE_OP_BUSY 0 = true → s.gives (.registerWrite src 0x5010C 4 d) fun
    t => t = s)

/-- From every state, PORST_N asserted and then deasserted, with whatever straps are sampled, leaves TIME 0 and the discipline
state FREE. -/
def Obligations.PorstLeavesTimeZeroInFree : Prop :=
  ∀ (s : State) (a : BitVec 2) (m c : Bool), ∃ t u, exec .porstAssert s = .next t ∧ exec (.porstDeassert a m c) t = .next u ∧
    u.tb.sec = 0 ∧ u.tb.tick = 0 ∧ u.rd Reg.TIME_STATUS_STATE 0 = dFree

/-- In the register table, every field of the STN block lies in the 64 KiB of STN[0] and repeats 128 times at intervals of
0x1_0000 from there; every field of the SLC block lies in the 16 KiB of SLC[0] and repeats 96 times at intervals of 0x4000:
the fields of STN[n] and SLC[n] lie in their own windows. Both blocks have fields. -/
def Obligations.StationAndSliceWindows : Prop :=
  (∀ f ∈ Reg.table, 0x100000 ≤ f.base → f.base < 0x900000 → f.dims.head? = some (128, 0x10000) ∧ f.base < 0x110000) ∧
  (∀ f ∈ Reg.table, 0x900000 ≤ f.base → f.base < 0xC00000 → f.dims.head? = some (96, 0x4000) ∧ f.base < 0x904000) ∧
  ((∃ f ∈ Reg.table, 0x100000 ≤ f.base ∧ f.base < 0x900000) ∧ ∃ f ∈ Reg.table, 0x900000 ≤ f.base ∧ f.base < 0xC00000)

/-- TIME_SECOND_ROLLOVER with CCLK running ends at tick 0 of the next second, which wraps, after as many cycles as the second
had left (R50, R51). CCLK_START outside BANKED starts CCLK with the coarse value of the next AOCLK edge and leaves the
discipline state; REFERENCE_CLOCK_LOST stops CCLK with TIME as it is (R55). FINE_TIME_RELOAD at a PPS edge ends the reload and
enters ACQUIRE (R70). SERVO_PERIOD_START ends at a multiple of 5,000 of T (R76), and every port whose training has reached
DESKEW sends ALIGN with K_LO on both lanes (R106). Each of these commands is stated to complete, under its clauses' hypotheses
alone: timeSecondRollover, cclkStart, referenceClockLost, fineTimeReload, servoPeriodStart. -/
def Obligations.TimeCountsOnItsClock : Prop :=
  (∀ (s : State), s.timeOk → s.tb.cclk = true → s.gives (.timeSecondRollover) fun t => t.tb.tick = 0 ∧ t.tb.sec = (s.tb.sec +
    1) % 2 ^ 32 ∧ t.now = s.now + (hz - s.tb.tick)) ∧
  (∀ (s : State), s.mode ≠ mBanked → s.tb.cclk = false → s.tb.reload = none → s.pw.porst = false → s.gives (.cclkStart) fun t
    => t.tb.cclk = true ∧ t.lin = (s.lin + coarseTicks s.tb.coarsePhase 1) % linMod ∧ t.rd Reg.TIME_STATUS_STATE 0 = s.rd
    Reg.TIME_STATUS_STATE 0) ∧
  (∀ (s : State), s.gives (.referenceClockLost) fun t => t.tb.cclk = false ∧ t.tb.refClk = false ∧ t.lin = s.lin ∧ t.now =
    s.now) ∧
  (∀ (s : State) (t0 : Nat), s.tb.reload = some t0 → s.flag Reg.TIME_CTRL_PPS_EN 0 = true → s.gives (.fineTimeReload true) fun
    t => t.tb.reload = none ∧ t.tb.cclk = true ∧ t.rd Reg.TIME_STATUS_STATE 0 = dAcquire ∧ t.lin = s.lin) ∧
  (∀ (s : State), s.gives (.servoPeriodStart) fun t => t.lin % 5000 = 0 ∧ s.now ≤ t.now ∧ t.tb.periodAt = some t.now ∧ ∀ n ∈
    upTo 128, ∀ lane ∈ upTo 2, 3 ≤ s.rd Reg.STN_LINK_STATUS_STATE n → s.rd Reg.STN_LINK_STATUS_STATE n ≤ 6 → Out.block n lane
    (alignBlock t.period) ∈ t.out)

/-- PPS_EDGE of the selected polarity captures TIME (R56); when its interval from the last accepted edge is out of range and
no candidate stands, it is rejected: PPS_REJ is set and it becomes the candidate (R57, R58). TIME_STEP subtracts the step at a
multiple of 80,000, which leaves T a multiple of 80,000, clears STEP_PENDING and sets STEPPED (R62, R63). HOLDOVER_TIMEOUT,
and clearing PPS_EN, in ACQUIRE or LOCKED enter HOLDOVER with a zero slew term (R66). A change of PPS_FALL forgets the edges
held and leaves the discipline state (R58). Each of these commands is stated to complete, under its clauses' hypotheses alone:
ppsEdge, timeStep, holdoverTimeout, ppsEnableWrite, ppsPolarityWrite. -/
def Obligations.DisciplineFollowsPps : Prop :=
  (∀ (s : State) (dt : Nat) (fall : Bool), s.flag Reg.TIME_CTRL_PPS_EN 0 = true → s.flag Reg.TIME_CTRL_PPS_FALL 0 = fall →
    s.rd Reg.TIME_STATUS_STATE 0 ≠ dStack → s.gives (.ppsEdge dt fall) fun t => t.rd Reg.TIME_PPS_CAP_CAP 0 = (s.advance
    dt).time % 2 ^ 64 ∧ t.now = s.now + dt) ∧
  (∀ (s : State) (dt a : Nat) (fall : Bool), s.flag Reg.TIME_CTRL_PPS_EN 0 = true → s.flag Reg.TIME_CTRL_PPS_FALL 0 = fall →
    s.rd Reg.TIME_STATUS_STATE 0 ≠ dStack → s.tb.lastAcc = some a → s.tb.cand = none → intervalOk (s.now + dt - a) = false →
    s.gives (.ppsEdge dt fall) fun t => t.flag Reg.TIME_STATUS_PPS_REJ 0 = true ∧ t.tb.cand = some (s.now + dt) ∧ t.tb.lastAcc
    = some a ∧ t.rd Reg.TIME_STATUS_STATE 0 = s.rd Reg.TIME_STATUS_STATE 0) ∧
  (∀ (s : State) (d e : Int), s.tb.stepPending = some (d, e) → s.flag Reg.TIME_CTRL_NO_STEP 0 = false → d % 80000 = 0 → s.rd
    Reg.TIME_STATUS_STATE 0 ≠ dStack → s.gives (.timeStep) fun t => t.flag Reg.TIME_STATUS_STEPPED 0 = true ∧ t.flag
    Reg.TIME_STATUS_STEP_PENDING 0 = false ∧ t.rd Reg.TIME_STATUS_STATE 0 = dAcquire ∧ t.tb.stepPending = none ∧ t.lin =
    ((((s.advanceMod 80000).lin : Int) - d) % (linMod : Int)).toNat ∧ t.lin % 80000 = 0) ∧
  (∀ (s : State), s.rd Reg.TIME_STATUS_STATE 0 = dAcquire ∨ s.rd Reg.TIME_STATUS_STATE 0 = dLocked → s.gives
    (.holdoverTimeout) fun t => t.rd Reg.TIME_STATUS_STATE 0 = dHoldover ∧ t.flag Reg.GCTL_STATUS_TIME_LOCKED 0 = false ∧
    t.tb.slewErr = 0 ∧ t.tb.freq = s.tb.freq ∧ s.tb.holdFrom + s.rd1 Reg.TIME_LOCK_HOLD_MISS 0 * hz ≤ t.now) ∧
  (∀ (s : State), s.flag Reg.TIME_CTRL_PPS_EN 0 = true → s.rd Reg.TIME_STATUS_STATE 0 = dAcquire ∨ s.rd Reg.TIME_STATUS_STATE
    0 = dLocked → s.gives (.ppsEnableWrite false) fun t => t.flag Reg.TIME_CTRL_PPS_EN 0 = false ∧ t.rd Reg.TIME_STATUS_STATE
    0 = dHoldover) ∧
  (∀ (s : State), s.flag Reg.TIME_CTRL_PPS_EN 0 = false → s.gives (.ppsEnableWrite true) fun t => t.flag Reg.TIME_CTRL_PPS_EN
    0 = true ∧ t.tb.lastAcc = none ∧ t.tb.cand = none) ∧
  (∀ (s : State) (fall : Bool), s.flag Reg.TIME_CTRL_PPS_FALL 0 ≠ fall → s.gives (.ppsPolarityWrite fall) fun t => t.flag
    Reg.TIME_CTRL_PPS_FALL 0 = fall ∧ t.tb.lastAcc = none ∧ t.tb.cand = none ∧ t.rd Reg.TIME_STATUS_STATE 0 = s.rd
    Reg.TIME_STATUS_STATE 0)

/-- TIME_LOAD_ARM sets LOAD and LOAD_PENDING (R71). A valid load takes effect with its ticks rounded down to a multiple of
80,000, clears both bits, discards a pending step, ends a slew and enters ACQUIRE (R71, R72); an invalid one leaves TIME
(R52). LAUNCH before its time moves to a servo period boundary at or after it; one whose time has passed starts at once and is
marked late (R81, R83, R84). EMBER_LAUNCH_EXIT begins a transition to BURN (R87). SEEK_SLOT ends at a multiple of the slot,
counts no more seeks against it than SEEK_MAX, and starts every waiting seek of the group when no more wait than it still
admits (R92). VG_CONFIG_APPLY puts the written configuration in force (R98). Each of these commands is stated to complete,
under its clauses' hypotheses alone: timeLoadArm, timeLoadEffect, launch, emberLaunchExit, seekSlot, vgConfigApply. -/
def Obligations.LoadsLaunchesAndSlots : Prop :=
  (∀ (s : State), s.gives (.timeLoadArm) fun t => t.flag Reg.TIME_CTRL_LOAD 0 = true ∧ t.flag Reg.TIME_STATUS_LOAD_PENDING 0 =
    true) ∧
  (∀ (s : State), s.flag Reg.TIME_STATUS_LOAD_PENDING 0 = true → s.tb.loadBy = none → s.tb.loadQueue = [] → timeValid
    s.loadValue = true → s.gives (.timeLoadEffect) fun t => t.flag Reg.TIME_CTRL_LOAD 0 = false ∧ t.flag
    Reg.TIME_STATUS_LOAD_PENDING 0 = false ∧ t.rd Reg.TIME_STATUS_STATE 0 = dAcquire ∧ t.tb.stepPending = none ∧ t.tb.slewErr
    = 0 ∧ t.lin = (hz * s.rd Reg.TIME_LOAD_SEC 0 + s.rd Reg.TIME_LOAD_TICK 0 / 80000 * 80000) % linMod) ∧
  (∀ (s : State), s.flag Reg.TIME_STATUS_LOAD_PENDING 0 = true → s.tb.loadBy = none → s.tb.loadQueue = [] → timeValid
    s.loadValue = false → s.gives (.timeLoadEffect) fun t => t.flag Reg.TIME_CTRL_LOAD 0 = false ∧ t.flag
    Reg.TIME_STATUS_LOAD_PENDING 0 = false ∧ t.lin = s.lin ∧ t.now = s.now) ∧
  (∀ (s : State) (sq tag l : Nat) (c : Cmd), s.cmd? sq tag = some c → c.launch = some l → c.ready = true → s.launchMode = true
    → 0 < timeDiff (linOf l) s.lin → s.gives (.launch sq tag) fun t => t.lin % 5000 = 0 ∧ s.now + (timeDiff (linOf l)
    s.lin).toNat ≤ t.now ∧ t.now < s.now + (timeDiff (linOf l) s.lin).toNat + 5000 ∧ (t.cmd? sq tag).map (fun x => (x.launch,
    x.launchT)) = some (none, some (l, false))) ∧
  (∀ (s : State) (sq tag l : Nat) (c : Cmd), s.cmd? sq tag = some c → c.launch = some l → c.ready = true → s.launchMode = true
    → timeDiff (linOf l) s.lin ≤ 0 → s.gives (.launch sq tag) fun t => (t.cmd? sq tag).map (fun x => (x.launch, x.launchT)) =
    some (none, some (l, true)) ∧ t.now = s.now) ∧
  (∀ (s : State), s.mode = mEmber → s.launches ≠ [] → s.gives (.emberLaunchExit) fun t => t.pw.trans.map Trans.to_ = some
    mBurn ∧ s.now ≤ t.now) ∧
  (∀ (s : State) (g : Fin 16), s.mode ≠ mKiln → (s.toSeekSlot g).slotUsed g < s.seekMax g → s.gives (.seekSlot g) fun t =>
    (s.lin + (t.now - s.now)) % (5000 * s.seekSlotLen g) = 0 ∧ s.now ≤ t.now ∧ t.slotUsed g ≤ s.seekMax g ∧ ((s.seekQ.filter
    fun q => s.vgOf (q.head / 2) == some g.val).length + (s.toSeekSlot g).slotUsed g ≤ s.seekMax g → ∀ q ∈ t.seekQ, s.vgOf
    (q.head / 2) ≠ some g.val)) ∧
  (∀ (s : State) (g : Fin 16), s.gives (.vgConfigApply g) fun t => ∀ f ∈ vgCfgFields, t.vg f g = s.rd f g)

/-- ENABLE takes a DOWN port to WAIT (R152). A batch opens 300 ms and 10 ms for each batch before it after power-up and takes
its waiting ports to DETECT while engines are free (R155, R156); 10 ms later its ports still in DETECT return to WAIT (R157).
TRAIN, block lock, the deskew, identification and measurement each take the port to the next state (R152); identification
keeps the identity registers, and a measurement within the limits sets RAW and UP, with LAT_VALID clear until RAW is measured
again (R150, R152, R153, R177). A due retry with no lower station waiting takes a free engine (R967). Each of these commands
is stated to complete, under its clauses' hypotheses alone: linkEnable, trainingBatchOpen, trainingBatchClose,
linkTrainDetected, linkBlockLock, linkDeskewDone, linkIdentifyDone, linkMeasureDone, linkRetry. -/
def Obligations.PortTrainingSteps : Prop :=
  (∀ (s : State) (n : Fin 128), s.port n = lkDown → s.mode ≠ mEmber → s.mode ≠ mBanked → s.gives (.linkEnable n) fun t =>
    t.flag Reg.STN_LINK_CTRL_ENABLE n = true ∧ t.port n = lkWait) ∧
  (∀ (s : State) (b : Fin 8), (s.advanceTo (s.tb.powerUp + (300 + 10 * b.val) * msCycles)).mode = mKindling → s.enginesUsed =
    0 → s.gives (.trainingBatchOpen b) fun t => s.tb.powerUp + (300 + 10 * b.val) * msCycles ≤ t.now ∧ ∀ n ∈ batchStns b,
    s.flag Reg.STN_LINK_CTRL_ENABLE n = true → (s.stn n).batchDone = false → s.port n = lkWait ∨ s.port n = lkDown → t.port n
    = lkDetect ∧ (t.stn n).engine = true) ∧
  (∀ (s : State) (b : Fin 8), s.gives (.trainingBatchClose b) fun t => s.tb.powerUp + (310 + 10 * b.val) * msCycles ≤ t.now ∧
    ∀ n ∈ batchStns b, (t.stn n).batchDone = true ∧ ((s.stn n).inBatch = true → s.port n = lkDetect → t.port n = lkWait)) ∧
  (∀ (s : State) (n : Fin 128), s.port n = lkDetect → s.gives (.linkTrainDetected n) fun t => t.port n = lkEqualise) ∧
  (∀ (s : State) (n : Fin 128) (a b : Bool), s.port n = lkEqualise → a = true ∨ s.flag Reg.STN_LINK_STATUS_LANE0_LOCK n = true
    → b = true ∨ s.flag Reg.STN_LINK_STATUS_LANE1_LOCK n = true → s.gives (.linkBlockLock n a b) fun t => t.port n = lkDeskew
    ∧ t.flag Reg.STN_LINK_STATUS_LANE0_LOCK n = true ∧ t.flag Reg.STN_LINK_STATUS_LANE1_LOCK n = true) ∧
  (∀ (s : State) (n : Fin 128), s.port n = lkEqualise → s.flag Reg.STN_LINK_STATUS_LANE1_LOCK n = false → s.gives
    (.linkBlockLock n true false) fun t => t.port n = lkEqualise ∧ t.flag Reg.STN_LINK_STATUS_LANE0_LOCK n = true ∧ t.flag
    Reg.STN_LINK_STATUS_LANE1_LOCK n = false) ∧
  (∀ (s : State) (n : Fin 128) (skew : Nat), s.port n = lkDeskew → skew ≤ 4 → s.gives (.linkDeskewDone n skew) fun t => t.port
    n = lkIdentify) ∧
  (∀ (s : State) (n : Fin 128) (i r l b c : Nat), s.port n = lkIdentify → s.gives (.linkIdentifyDone n i r l b c) fun t =>
    t.port n = lkMeasure ∧ t.rd Reg.STN_FE_ID_VALUE n = i % 2 ^ 32 ∧ t.rd Reg.STN_FE_BOOT_VALUE n = c % 2 ^ 16 ∧ (t.stn
    n).feLat = l % 2 ^ 32 ∧ (t.stn n).feBuf = b % 2 ^ 24) ∧
  (∀ (s : State) (n : Fin 128) (es : List (Nat × Nat)), s.port n = lkMeasure → es.length = 16 → medianNat (es.map fun e =>
    raw64 e.1 e.2) ≤ 600 * 64 → actDly (s.stn n) ≤ 48 → senDly (s.stn n) ≤ 400 → s.gives (.linkMeasureDone n es) fun t =>
    t.port n = lkActive ∧ t.flag Reg.STN_LINK_LAT_LAT_VALID n = false ∧ t.rd Reg.STN_LINK_LAT_RAW n = medianNat (es.map fun e
    => raw64 e.1 e.2) / 64 ∧ t.flag Reg.STN_LINK_EVT_UP n = true) ∧
  (∀ (s : State) (n : Fin 128), s.retriable n = true → s.enginesUsed < 16 → (∀ m < n.val, s.retriable m = false) → s.gives
    (.linkRetry n) fun t => t.port n = lkDetect ∧ (t.stn n).engine = true ∧ (s.stn n).dueAt ≤ t.now)

/-- A training state not complete within 2 ms fails: TRAIN_FAIL is set and raised and the port is in WAIT, due after 100 ms
(R153, R967); a retry without TRAIN for 10 ms returns to WAIT without an event and is due after 1 s (R154, R967). RETRAIN on a
port whose heads write is held in RETRAIN_PENDING, else four periods of SAFE_NOW begin and it is to retrain (R159). A loss of
link goes to WAIT with AUTO_RETRAIN and to DOWN without, with the DOWN event bit set (R162, R163). Clearing ENABLE takes a
port that is not ACTIVE to DOWN, and an ACTIVE one through four periods of SAFE_NOW (R968). A release sends SAFE_CLEAR in four
PERIODs (R177). Each of these commands is stated to complete, under its clauses' hypotheses alone: linkTrainTimeout,
linkRetryTimeout, retrainRequest, retrainStart, linkLoss, linkDisable, linkRelease. -/
def Obligations.PortLeavesActive : Prop :=
  (∀ (s : State) (n : Fin 128), s.port n = lkEqualise ∨ s.port n = lkDeskew ∨ s.port n = lkIdentify ∨ s.port n = lkMeasure →
    s.gives (.linkTrainTimeout n) fun t => t.port n = lkWait ∧ t.flag Reg.STN_LINK_EVT_TRAIN_FAIL n = true ∧ (t.stn n).dueAt =
    t.now + 100 * msCycles ∧ (t.stn n).engine = false ∧ (s.stn n).attemptAt + 2 * msCycles ≤ t.now ∧ t.lastEvent 0x0303 [n,
    s.port n]) ∧
  (∀ (s : State) (n : Fin 128), s.port n = lkDetect → (s.stn n).inBatch = false → s.gives (.linkRetryTimeout n) fun t =>
    t.port n = lkWait ∧ (t.stn n).dueAt = t.now + hz ∧ (t.stn n).engine = false ∧ t.ev = s.ev ∧ (s.stn n).attemptAt + 10 *
    msCycles ≤ t.now) ∧
  (∀ (s : State) (n : Fin 128), s.active n = true → s.disabling n = false → s.writingStn n = true → s.gives (.retrainRequest
    n) fun t => t.flag Reg.STN_LINK_STATUS_RETRAIN_PENDING n = true ∧ t.port n = lkActive ∧ (t.stn n).safeNow = (s.stn
    n).safeNow) ∧
  (∀ (s : State) (n : Fin 128), s.active n = true → s.disabling n = false → s.writingStn n = false → s.gives (.retrainRequest
    n) fun t => t.flag Reg.STN_LINK_STATUS_RETRAIN_PENDING n = false ∧ (t.stn n).safeNow = 4 ∧ (t.stn n).afterSafe = .retrain)
      ∧
  (∀ (s : State) (n : Fin 128), s.flag Reg.STN_LINK_STATUS_RETRAIN_PENDING n = true → s.active n = true → s.disabling n =
    false → s.writingStn n = false → s.gives (.retrainStart n) fun t => t.flag Reg.STN_LINK_STATUS_RETRAIN_PENDING n = false ∧
    (t.stn n).safeNow = 4 ∧ (t.stn n).afterSafe = .retrain) ∧
  (∀ (s : State) (n : Fin 128) (sensors : Bool), s.active n = true → s.disabling n = false → (if sensors then 3 ≤ (s.stn
    n).missRun else (s.stn n).laneBad = true) → s.gives (.linkLoss n sensors) fun t => t.flag Reg.STN_LINK_EVT_DOWN n = true ∧
    t.port n = (if s.flag Reg.STN_LINK_CTRL_ENABLE n && s.flag Reg.STN_LINK_CTRL_AUTO_RETRAIN n then lkWait else lkDown)) ∧
  (∀ (s : State) (n : Fin 128), s.gives (.linkDisable n) fun t => t.flag Reg.STN_LINK_CTRL_ENABLE n = false ∧ if s.active n
    then t.port n = lkActive ∧ (t.stn n).afterSafe = .disable ∧ (s.disabling n = false → (t.stn n).safeNow = 4) else t.port n
    = lkDown) ∧
  (∀ (s : State) (n : Fin 128), s.gives (.linkRelease n) fun t => t.flag Reg.STN_LINK_CTRL_RELEASE n = true ∧ (t.stn
    n).safeClear = 4)

/-- An ECHO goes out on an active port a second after the last (R149). An intact ECHORSP shows RAW and LAT_VALID, and moves
the pads when RAW has moved by 2 cycles or more (R149, R150); an intact HEALTH is kept (R147); a message that is not intact
only counts in MSG_ERR (R110). STOP is sent eight times, four on each lane (R139). A register access with BUSY 0 sets BUSY and
sends a request (R144); the response clears BUSY, sets DONE and gives data and RESULT (R144); an unanswered one is repeated
after 6 periods and, the third time, ends with REG_TIMEOUT and RESULT 3 (R145). A STEP 4 periods unacknowledged is sent again
(R136). A block error counts (R105), an invalid sync header among those of its lane (R162), and a window with more than 1,000
of them sets DEGRADED (R164). Each of these commands is stated to complete, under its clauses' hypotheses alone: echoSend,
echorspReceive, healthReceive, stopSend, feRegAccess, regrspReceive, feRegTimeout, stepRetransmit, linkBlockError,
linkDegradedWindow. -/
def Obligations.LinkMessagesAndAccesses : Prop :=
  (∀ (s : State) (n : Fin 128), s.active n = true → s.gives (.echoSend n) fun t => t.out = .link n 0x07 (s.nextSeq n 0x07 0) 0
    [(s.stn n).echoes] :: s.out ∧ (s.stn n).echoAt + hz ≤ t.now ∧ (t.stn n).echoAt = t.now) ∧
  (∀ (s : State) (n : Fin 128) (m : LinkMsg) (rt : Nat), msgOk 0x87 m = true → s.active n = true → s.gives (.echorspReceive n
    m rt) fun t => t.rd Reg.STN_LINK_LAT_RAW n = raw64 rt (bitsOf (m.blocks.getD 0 0) 32 16) / 64 % 2 ^ 10 ∧ t.flag
    Reg.STN_LINK_LAT_LAT_VALID n = true ∧ (128 ≤ ((raw64 rt (bitsOf (m.blocks.getD 0 0) 32 16) : Int) - (s.stn
    n).rawHalf).natAbs → (t.stn n).rawHalf = raw64 rt (bitsOf (m.blocks.getD 0 0) 32 16)) ∧ (((raw64 rt (bitsOf (m.blocks.getD
    0 0) 32 16) : Int) - (s.stn n).rawHalf).natAbs < 128 → t.stns = s.stns)) ∧
  (∀ (s : State) (n : Fin 128) (m : LinkMsg) (rt : Nat), s.hears n = true → msgOk 0x87 m = false → s.rd
    Reg.STN_LINK_ERR_MSG_ERR n < 2 ^ 16 - 1 → s.gives (.echorspReceive n m rt) fun t => t.rd Reg.STN_LINK_ERR_MSG_ERR n = s.rd
    Reg.STN_LINK_ERR_MSG_ERR n + 1 ∧ t.stns = s.stns) ∧
  (∀ (s : State) (n : Fin 128) (m : LinkMsg), s.active n = true → msgOk 0x83 m = true → s.gives (.healthReceive n m) fun t =>
    (t.stn n).health = m.blocks) ∧
  (∀ (s : State) (n : Fin 128) (h0 h1 : Bool), s.active n = true → s.gives (.stopSend n h0 h1) fun t => t.out =
    (List.replicate 4 [Out.block n 1 (stopBlock h0 h1), Out.block n 0 (stopBlock h0 h1)]).flatten ++ s.out) ∧
  (∀ (s : State) (n : Fin 128) (w : Bool), s.active n = true → s.flag Reg.STN_REG_CMD_BUSY n = false → s.gives (.feRegAccess n
    w) fun t => t.flag Reg.STN_REG_CMD_BUSY n = true ∧ t.flag Reg.STN_REG_CMD_DONE n = false ∧ t.out = .link n (if w then 0x06
    else 0x05) (s.nextSeq n 0x05 0) 0 [s.rd Reg.STN_REG_ADDR_ADDR n / 4 * 4 + if w then s.rd Reg.STN_REG_DATA_DATA n * 2 ^ 32
    else 0] :: s.out) ∧
  (∀ (s : State) (n : Fin 128) (m : LinkMsg) (r : Nat × Nat × Nat), s.hears n = true → msgOk 0x84 m = true → (s.stn n).reg =
    some r → msgTag m % 8 = 0 → s.gives (.regrspReceive n m) fun t => t.flag Reg.STN_REG_CMD_BUSY n = false ∧ t.flag
    Reg.STN_REG_CMD_DONE n = true ∧ (t.stn n).reg = none ∧ t.rd Reg.STN_REG_CMD_RESULT n = bitsOf (m.blocks.getD 0 0) 32 8 % 2
    ^ Reg.STN_REG_CMD_RESULT.w ∧ (s.flag Reg.STN_REG_CMD_WRITE n = false → t.rd Reg.STN_REG_DATA_DATA n = bitsOf
    (m.blocks.getD 0 0) 0 32)) ∧
  (∀ (s : State) (n : Fin 128) (q b k : Nat), (s.stn n).reg = some (q, b, k) → k < 3 → s.gives (.feRegTimeout n) fun t =>
    (t.stn n).reg = some (q, b, k + 1) ∧ t.now = max s.now ((s.stn n).regAt + 30000) ∧ (t.stn n).regAt = t.now ∧ t.out = .link
    n (if s.flag Reg.STN_REG_CMD_WRITE n then 0x06 else 0x05) q 0 [b] :: s.out) ∧
  (∀ (s : State) (n : Fin 128) (q b k : Nat), (s.stn n).reg = some (q, b, k) → 3 ≤ k → s.gives (.feRegTimeout n) fun t =>
    (t.stn n).reg = none ∧ t.flag Reg.STN_LINK_EVT_REG_TIMEOUT n = true ∧ t.flag Reg.STN_REG_CMD_BUSY n = false ∧ t.rd
    Reg.STN_REG_CMD_RESULT n = 3) ∧
  (∀ (s : State) (n : Fin 128) (u : Unacked), (s.stn n).stepUnacked = [u] → s.active n = true → u.sentAt + ackCycles ≤ s.now →
    s.gives (.stepRetransmit n) fun t => t.out = .link n 0x04 u.seq u.tag u.blocks :: s.out ∧ (t.stn n).stepUnacked =
    [{ u with sentAt := s.now }]) ∧
  (∀ (s : State) (n : Fin 128) (lane : Fin 2) (gap : Nat), s.rd Reg.STN_LINK_ERR_BLOCK_ERR n < 2 ^ 16 - 1 → s.gives
    (.linkBlockError n (some (lane, gap))) fun t => t.rd Reg.STN_LINK_ERR_BLOCK_ERR n = s.rd Reg.STN_LINK_ERR_BLOCK_ERR n + 1
    ∧ (s.active n = true → (s.stn n).blockWin = none → (t.stn n).blockWin = some (s.now + hz, s.rd Reg.STN_LINK_ERR_BLOCK_ERR
    n)) ∧ mget [] (t.stn n).hdrs lane.val = 0 :: ((mget [] (s.stn n).hdrs lane.val).map fun a => a + gap).filter fun a =>
    decide (a < 64)) ∧
  (∀ (s : State) (n : Fin 128), s.rd Reg.STN_LINK_ERR_BLOCK_ERR n < 2 ^ 16 - 1 → s.gives (.linkBlockError n none) fun t =>
    t.rd Reg.STN_LINK_ERR_BLOCK_ERR n = s.rd Reg.STN_LINK_ERR_BLOCK_ERR n + 1 ∧ (t.stn n).hdrs = (s.stn n).hdrs) ∧
  (∀ (s : State) (n : Fin 128) (e b : Nat), (s.stn n).blockWin = some (e, b) → s.gives (.linkDegradedWindow n) fun t => e ≤
    t.now ∧ (t.stn n).blockWin = none ∧ (1000 < s.rd Reg.STN_LINK_ERR_BLOCK_ERR n - b → t.flag Reg.STN_LINK_EVT_DEGRADED n =
    true ∧ t.lastEvent 0x0307 [n, s.rd Reg.STN_LINK_ERR_BLOCK_ERR n - b]))

/-- Outside EMBER and BANKED, PERIOD is sent at phase 4,300 and ACTUATE at phase 2,500 on every ACTIVE port, with the blocks
of R116 and R118 (R112, R375). An intact SENSOR on an ACTIVE port at phase 1,100 is no longer stale, ends a run of misses, and
keeps the last contents of the words that are not VALID (R122, R123). One that is missed leaves the contents, marks them stale
and counts (R125). Each of these commands is stated to complete, under its clauses' hypotheses alone: periodPresent,
actuatePresent, sensorDelivered, sensorMiss. -/
def Obligations.ScheduledMessages : Prop :=
  (∀ (s : State), s.schedules = true → (∀ n ∈ upTo 128, (s.stn n).safeNow ≠ 1) → s.gives (.periodPresent) fun t => t.lin %
    5000 = 4300 ∧ ∀ n ∈ upTo 128, s.active n = true → ∃ q, .link n 0x01 q 0 (periodBlocks (s.advancePhase 4300)
    (s.loop.safeDone || decide (0 < (s.stn n).safeNow) || (s.stn n).lost) (decide (0 < (s.stn n).safeClear))) ∈ t.out) ∧
  (∀ (s : State), s.schedules = true → s.gives (.actuatePresent) fun t => t.lin % 5000 = 2500 ∧ ∀ n ∈ upTo 128, s.active n =
    true → ∃ q, .link n 0x02 q 0 (actBlocks ((upTo 24).map fun w => if s.mode = mCinder then (s.advancePhase 2500).safeWord
    (s.advancePhase 2500).period n w else (s.advancePhase 2500).actWord (s.advancePhase 2500).period n w)) ∈ t.out) ∧
  (∀ (s : State) (n : Fin 128) (m : LinkMsg) (c : BitVec 4), msgOk 0x81 m = true → s.active n = true → s.gives
    (.sensorDelivered n m c) fun t => (t.stn n).stale = false ∧ t.flag Reg.STN_LINK_STATUS_FE_SAFE n = bitOf (m.blocks.getD 11
    0) 56 ∧ (t.stn n).missRun = 0 ∧ t.now = (s.advancePhase 1100).now ∧ ∀ w ∈ upTo 23, (t.stn n).sensor.getD w 0 = if bitOf
    (bitsOf (m.blocks.getD (w / 2) 0) (32 * (w % 2)) 32) 24 then bitsOf (m.blocks.getD (w / 2) 0) (32 * (w % 2)) 24 else
    (s.stn n).sensor.getD w 0) ∧
  (∀ (s : State) (n : Fin 128), s.active n = true → s.gives (.sensorMiss n) fun t => (t.stn n).stale = true ∧ (t.stn
    n).missRun = (s.stn n).missRun + 1 ∧ (t.stn n).sensor = (s.stn n).sensor ∧ t.rd Reg.STN_LINK_MISS_SENSOR_MISS n = min (2 ^
    Reg.STN_LINK_MISS_SENSOR_MISS.w - 1) (s.rd Reg.STN_LINK_MISS_SENSOR_MISS n + 1))

/-- The head that has waited longest receives the next free slice (R239); a wait of more than 100 ms is reported once (R241).
An idle slice is released (R240); RELEASE acts at the first idle moment. Its counters clear on request (R279), and it changes
mode between frames, at a slot boundary, for work of the other kind (R243). COMMIT is pending until SHADOW replaces ACTIVE
whole (R253); a write of SHADOW meanwhile is dropped (R254). With RATE_EN 0 the scale is 16, and with the backlog of reads at
HIGH it falls by STEP (R275). A slice at its STALL backlog pauses at the end of its pass, resumes at LOW, and steps its head
while it waits (R276, R277); a writing slice whose frontier slot comes with no frame begun holds (R268, R277). Each of these
commands is stated to complete, under its clauses' hypotheses alone: sliceAssign, sliceWait, sliceRelease,
sliceReleaseRequest, sliceStatClear, sliceModeChange, eqCommit, eqCommitCopy, eqShadowWrite, rateMatchTick, readPause,
readResume, holdStep. -/
def Obligations.SlicesServeHeads : Prop :=
  (∀ (s : State) (n : Fin 128) (side : Fin 2) (w : HeadWait) (r : List HeadWait) (sl : Nat), s.headWait = w :: r → w.head =
    headOf n side → s.freeSlice (if w.write then 2 else 1) = some sl → s.flag Reg.SLC_CTRL_RELEASE sl = false → s.gives
    (.sliceAssign n side) fun t => t.headWait = r ∧ (t.slice sl).head = some (headOf n side) ∧ t.flag Reg.SLC_ASSIGN_ASSIGNED
    sl = true ∧ t.rd Reg.SLC_ASSIGN_MODE sl = (if w.write then 2 else 1) ∧ t.rd Reg.SLC_ASSIGN_HEAD sl = side.val ∧ t.rd
    Reg.SLC_ASSIGN_STATION sl = n.val) ∧
  (∀ (s : State) (n : Fin 128) (side : Fin 2) (w : HeadWait), (s.headWait.find? fun w => w.head == headOf n side && !w.raised)
    = some w → s.gives (.sliceWait n side) fun t => t.lastEvent 0x0406 [0xFFFFFFFF, n, side] ∧ w.since + 100 * msCycles ≤
    t.now ∧ ∀ x ∈ t.headWait, x.head = headOf n side → x.raised = true) ∧
  (∀ (s : State) (sl : Fin 96), (s.slice sl).head ≠ none → s.sliceBusy sl = false → s.gives (.sliceRelease sl) fun t =>
    (t.slice sl).head = none ∧ t.flag Reg.SLC_ASSIGN_ASSIGNED sl = false ∧ t.rd Reg.SLC_STATUS_STATE sl = slFree ∧ (s.slice
    sl).idleFrom + (if s.headWait.isEmpty then s.rd Reg.SLC_CTRL_HOLD_MS sl else min (s.rd Reg.SLC_CTRL_HOLD_MS sl) 1) *
    msCycles ≤ t.now) ∧
  (∀ (s : State) (sl : Fin 96), (s.slice sl).head ≠ none → s.sliceBusy sl = false → s.gives (.sliceReleaseRequest sl) fun t =>
    (t.slice sl).head = none ∧ t.flag Reg.SLC_ASSIGN_ASSIGNED sl = false ∧ t.flag Reg.SLC_CTRL_RELEASE sl = false) ∧
  (∀ (s : State) (sl : Fin 96), (s.slice sl).head ≠ none → s.sliceBusy sl = true → s.gives (.sliceReleaseRequest sl) fun t =>
    (t.slice sl).head = (s.slice sl).head ∧ t.flag Reg.SLC_CTRL_RELEASE sl = true) ∧
  (∀ (s : State) (sl : Fin 96), s.gives (.sliceStatClear sl) fun t => ∀ i ∈ upTo 13, t.rd Reg.SLC_STAT_COUNT (sl * 13 + i) =
    0) ∧
  (∀ (s : State) (sl : Fin 96) (h : Nat), (s.slice sl).head = some h → (s.slice sl).atRest = true → (s.slice sl).atEdge = true
    → s.slMode sl = 1 → s.writeWork h = true → s.flag Reg.SLC_CTRL_RELEASE sl = false → s.gives (.sliceModeChange sl) fun t =>
    t.slMode sl = 2 ∧ t.flag Reg.SLC_RATE_STATUS_PAUSED sl = false ∧ (t.slice sl).head = some h) ∧
  (∀ (s : State) (sl : Fin 96) (h : Nat), (s.slice sl).head = some h → (s.slice sl).atRest = true → (s.slice sl).atEdge = true
    → s.slMode sl = 2 → s.readWork h = true → s.dramOk sl 1 = true → s.flag Reg.SLC_CTRL_RELEASE sl = false → s.gives
    (.sliceModeChange sl) fun t => t.slMode sl = 1 ∧ t.flag Reg.SLC_RATE_STATUS_HOLDING sl = false ∧ (t.slice sl).head = some
    h) ∧
  (∀ (s : State) (sl : Fin 96), s.gives (.eqCommit sl) fun t => t.flag Reg.SLC_EQ_CTRL_COMMIT sl = true ∧ t.flag
    Reg.SLC_EQ_CTRL_COMMIT_PENDING sl = true) ∧
  (∀ (s : State) (sl : Fin 96), s.flag Reg.SLC_EQ_CTRL_COMMIT_PENDING sl = true → (s.slice sl).saved = [] → s.gives
    (.eqCommitCopy sl) fun t => t.eqGet sl 0 = (s.eqGet sl 1).map (· % 2 ^ 12) ∧ t.flag Reg.SLC_EQ_CTRL_COMMIT_PENDING sl =
    false ∧ t.eqGet sl 1 = s.eqGet sl 1) ∧
  (∀ (s : State) (sl : Fin 96) (f : Fin 4) (i : Fin 16) (v : BitVec 12), s.flag Reg.SLC_EQ_CTRL_COMMIT_PENDING sl = false →
    i.val < eqTaps f → s.gives (.eqShadowWrite sl f i v) fun t => t.rd Reg.SLC_EQ_SET_COEF (((sl * 6 + 1) * 4 + f) * 16 + i) =
    v.toNat ∧ t.eqGet sl 0 = s.eqGet sl 0) ∧
  (∀ (s : State) (sl : Fin 96) (f : Fin 4) (i : Fin 16) (v : BitVec 12), s.flag Reg.SLC_EQ_CTRL_COMMIT_PENDING sl = true →
    s.gives (.eqShadowWrite sl f i v) fun t => t.flag Reg.SLC_EQ_CTRL_WR_DROP sl = true ∧ t.eqGet sl 1 = s.eqGet sl 1 ∧
    t.lastEvent 0x0409 [sl]) ∧
  (∀ (s : State) (sl : Fin 96) (h : Nat), (s.slice sl).head = some h → s.flag Reg.SLC_CTRL_RATE_EN sl = false → s.gives
    (.rateMatchTick sl) fun t => t.rd Reg.SLC_RATE_STATUS_SCALE sl = 16 ∧ (s.slice sl).rateAt + 100 * msCycles ≤ t.now ∧
    (t.slice sl).rateAt = t.now) ∧
  (∀ (s : State) (sl : Fin 96) (h : Nat), (s.slice sl).head = some h → s.flag Reg.SLC_CTRL_RATE_EN sl = true → s.slMode sl = 1
    → s.rd Reg.SLC_RATE_CFG_HIGH sl ≤ s.backlog h → s.rd Reg.SLC_RATE_CFG_LOW sl < s.backlog h → s.rd1 Reg.SLC_RATE_CFG_S_MIN
    sl + s.rd1 Reg.SLC_RATE_CFG_STEP sl ≤ s.rd Reg.SLC_RATE_STATUS_SCALE sl → s.rd Reg.SLC_RATE_STATUS_SCALE sl ≤ 16 → s.gives
    (.rateMatchTick sl) fun t => t.rd Reg.SLC_RATE_STATUS_SCALE sl = s.rd Reg.SLC_RATE_STATUS_SCALE sl - s.rd1
    Reg.SLC_RATE_CFG_STEP sl) ∧
  (∀ (s : State) (sl : Fin 96) (h : Nat), (s.slice sl).head = some h → s.slMode sl = 1 → s.flag Reg.SLC_RATE_STATUS_PAUSED sl
    = false → (s.slice sl).pass.on = false → s.rd Reg.SLC_RATE_CFG_STALL sl ≤ s.backlog h → s.gives (.readPause sl) fun t =>
    t.flag Reg.SLC_RATE_STATUS_PAUSED sl = true ∧ t.rd Reg.SLC_STATUS_STATE sl = slPaused ∧ t.lastEvent 0x0407 [sl, 1]) ∧
  (∀ (s : State) (sl : Fin 96) (h : Nat), (s.slice sl).head = some h → s.flag Reg.SLC_RATE_STATUS_PAUSED sl = true → s.backlog
    h ≤ s.rd Reg.SLC_RATE_CFG_LOW sl → (s.slice sl).store.length < 4 → s.gives (.readResume sl) fun t => t.flag
    Reg.SLC_RATE_STATUS_PAUSED sl = false ∧ t.rd Reg.SLC_STATUS_STATE sl = slReading ∧ t.lastEvent 0x0407 [sl, 0]) ∧
  (∀ (s : State) (sl : Fin 96) (h : Nat), (s.slice sl).head = some h → s.slMode sl = 1 → s.flag Reg.SLC_RATE_STATUS_PAUSED sl
    = true → s.flag Reg.SLC_RATE_STATUS_HOLDING sl = false → s.gives (.holdStep sl) fun t => t.flag
    Reg.SLC_RATE_STATUS_HOLDING sl = true ∧ (t.slice sl).holdAt = some s.now) ∧
  (∀ (s : State) (sl : Fin 96) (h : Nat), (s.slice sl).head = some h → s.slMode sl = 2 → s.mayHold sl h = true → s.flag
    Reg.SLC_RATE_STATUS_HOLDING sl = false → s.gives (.holdStep sl) fun t => t.flag Reg.SLC_RATE_STATUS_HOLDING sl = true ∧
    (t.slice sl).holdAt = some s.now ∧ t.rd Reg.SLC_STATUS_STATE sl = slHolding)

/-- A SAMPLES message moves the head's place to the trail spot's address, and a slice's lead spot to the address of its
message plus the pairs it carried (R127, R246). FRAME_ENCODE adds the next held frame to the write store (R267); WRDATA
carries the next blocks of a frame begun (R133); an unacknowledged WRDATA 4 periods old is sent again (R136); WRACK marks the
slot it names (R138). A slot whose readback meets every criterion adds a frame to its zone; one that fails sets VERIFY_FAIL
(R271 to R273). A frontier search ends a zone's need of it (R809). Each of these commands is stated to complete, under its
clauses' hypotheses alone: samplesReceive, frameEncode, wrdataSend, wrdataRetransmit, wrackReceive, slotVerify, zoneResolve.
-/
def Obligations.SamplesAndFramesMove : Prop :=
  (∀ (s : State) (n : Fin 128) (m : LinkMsg), s.active n = true → msgOk 0x82 m = true → s.sliceOf (2 * n.val + msgTag m % 2) =
    none → bitOf (m.blocks.getD 1 0) 41 = true → s.gives (.samplesReceive n m) fun t => (t.head (2 * n.val + msgTag m %
    2)).pos = slotPos (bitsOf (m.blocks.getD 1 0) 21 20) (bandOf (s.posNow (2 * n.val + msgTag m % 2)) (bitsOf (m.blocks.getD
    1 0) 21 20)) + bitsOf (m.blocks.getD 1 0) 0 21 ∧ (t.head (2 * n.val + msgTag m % 2)).posAt = s.now ∧ t.rd
    Reg.STN_HD_POS_SLOT (2 * n.val + msgTag m % 2) = bitsOf (m.blocks.getD 1 0) 21 20) ∧
  (∀ (s : State) (n : Fin 128) (m : LinkMsg) (sl : Nat), s.active n = true → msgOk 0x82 m = true → s.sliceOf (2 * n.val +
    msgTag m % 2) = some sl → s.slMode sl = 2 → s.hd (2 * n.val + msgTag m % 2) ≠ hdOpc → bitOf (m.blocks.getD 0 0) 41 = true
    → bitOf (m.blocks.getD 0 0) 42 = true → s.gives (.samplesReceive n m) fun t => (t.slice sl).lastLead = some (slotPos
    (bitsOf (m.blocks.getD 0 0) 21 20) (bandOf (s.posNow (2 * n.val + msgTag m % 2)) (bitsOf (m.blocks.getD 1 0) 21 20)) +
    bitsOf (m.blocks.getD 0 0) 0 21 + (samplePairs (m.blocks.drop 2)).length) ∧ (t.slice sl).leadAt = s.now ∧ (t.slice
    sl).lostLead = 0) ∧
  (∀ (s : State) (sl : Fin 96) (h : Nat) (f : Held), (s.slice sl).head = some h → s.slMode sl = 2 → (s.slice sl).wstore.length
    < 32 → (s.slice sl).reverify = false → (s.head h).needOpc = false → s.rung7Other h = false → s.nextMgmt h = none →
    s.nextHeld sl h = some f → s.ueAt f.addr 65536 = none → s.gives (.frameEncode sl) fun t => (t.slice sl).wstore.length =
    (s.slice sl).wstore.length + 1 ∧ (t.slice sl).wstore.getLast?.map (fun e => (e.zone, e.index, e.slot, e.sent)) = some
    (f.zone, f.index, zoneSlot f.zone ((s.zone f.zone).frontier + ((s.slice sl).flight f.zone).length), 0) ∧ t.held =
    s.held.map fun y => if y = f then { y with stage := .encoded } else y) ∧
  (∀ (s : State) (n : Fin 128) (side : Fin 2) (k sl lead : Nat) (e : Enc) (r : List Enc), s.sliceOf (headOf n side) = some sl
    → (s.slice sl).wstore = e :: r → s.leadNow sl (headOf n side) = some lead → 0 < e.sent → k ≤ 128 → 0 < k → k ≤
    e.words.length - e.sent → s.active n = true → s.hd (headOf n side) = hdReady → s.layerOf (headOf n side) = e.layer →
    (s.slice sl).unacked.length < 128 → (s.slice sl).reverify = false → (s.slice sl).streamed + 64 * k ≤ (bitsOf (s.stn
    n).feBuf 0 16 - 2) * 8192 → s.flag Reg.SLC_CTRL_RELEASE sl = false → s.gives (.wrdataSend n side k) fun t => t.out = .link
    n 0x03 (s.nextSeq n 0x03 side) side ((e.words.drop e.sent).take k) :: s.out ∧ (t.slice sl).unacked.length = (s.slice
    sl).unacked.length + 1 ∧ t.flag Reg.STN_HD_STATUS_WRITING (headOf n side) = true ∧ (k < e.words.length - e.sent → (t.slice
    sl).wstore = { e with sent := e.sent + k } :: r)) ∧
  (∀ (s : State) (n : Fin 128) (side : Fin 2) (sl : Nat) (u : Unacked), s.sliceOf (headOf n side) = some sl → (s.slice
    sl).unacked = [u] → s.active n = true → u.sentAt + ackCycles ≤ s.now → s.gives (.wrdataRetransmit n side) fun t => t.out =
    .link n 0x03 u.seq u.tag u.blocks :: s.out ∧ (t.slice sl).unacked = [{ u with sentAt := s.now }]) ∧
  (∀ (s : State) (n : Fin 128) (m : LinkMsg) (sl : Nat), s.active n = true → msgOk 0x85 m = true → s.sliceOf (2 * n.val +
    msgTag m % 2) = some sl → bitsOf (m.blocks.getD 0 0) 0 3 ≤ 1 → s.flag Reg.SLC_CTRL_RELEASE sl = false → s.gives
    (.wrackReceive n m) fun t => (t.slice sl).written = (s.slice sl).written.map fun e => if e.slot == bitsOf (m.blocks.getD 0
    0) 4 20 then { e with wrack := some (bitsOf (m.blocks.getD 0 0) 0 3) } else e) ∧
  (∀ (s : State) (sl : Fin 96) (h : Nat) (e : Enc) (r : List Enc), (s.slice sl).head = some h → (s.slice sl).written = e :: r
    → e.dropped = false → e.readBack = true → s.vfyFail sl e = none → e.mgmt = false → s.gives (.slotVerify sl) fun t => ∃ u :
    State, t = u.settle ∧ (u.zone e.zone).frames = (s.zone e.zone).frames + 1 ∧ (u.zone e.zone).frontier = (s.zone
    e.zone).frontier + 1 ∧ u.rd Reg.SLC_LAST_RES_OUTCOME sl = 3) ∧
  (∀ (s : State) (sl : Fin 96) (h c : Nat) (e : Enc) (r : List Enc), (s.slice sl).head = some h → (s.slice sl).written = e ::
    r → e.dropped = false → e.readBack = true → s.vfyFail sl e = some c → e.mgmt = false → s.gives (.slotVerify sl) fun t => ∃
    u : State, t = u.settle ∧ u.flag Reg.SLC_EVT_VERIFY_FAIL sl = true ∧ u.rd Reg.SLC_LAST_RES_OUTCOME sl = 4) ∧
  (∀ (s : State) (d : Nat) (side : Fin 2) (layer : Fin 16) (zone : Fin 64) (l : List SlotRead), (s.zone (zoneKey d side layer
    zone)).resolve = true → s.gives (.zoneResolve d side layer zone l) fun t => ∃ u : State, t = u.settle ∧ (u.zone (zoneKey d
    side layer zone)).resolve = false)

/-- A complete frame with no accepted header goes to the ladder at rung 2 when its command's profile allows it (R264, R285,
R287); one whose header disagrees with its slot is given up (R265), and the values of a slot that no command wants any more
are let go. An attempt of rung 2, 3 or 8 that gives no accepted header goes on to the next rung that the profile allows (R285,
R290, R291, R308); an accepted header that disagrees with the slot ends the ladder (R265). A frame whose rung re-reads takes
the first free ladder slot (R296), is read again under the next offset, set or speed (R298), and a failed re-read joins its
copies while the next one is in progress (R298, R302). After rung 9 no rung is left and the ladder is gone (R309). An expired
budget sends a frame whose rung has not started to rung 9 (R287, R288). Each of these commands is stated to complete, under
its clauses' hypotheses alone: frameDecode, ladderRungDecode, rowShiftSearch, ladderSlotClaim, ladderReread, rereadDecode,
softCombine, outerErasureDecode, ladderBudgetExpire. -/
def Obligations.RecoveryLadderSteps : Prop :=
  (∀ (s : State) (sl : Fin 96) (slot h : Nat) (e : Soft), (s.slice sl).head = some h → (s.slice sl).entry slot = some e →
    s.ladder? sl slot = none → s.wantedAt h slot = none → s.gives (.frameDecode sl slot) fun t => (t.slice sl).entry slot =
    none ∧ (t.slice sl).head = some h) ∧
  (∀ (s : State) (sl : Fin 96) (slot h zk idx f : Nat) (e : Soft) (hd : List Nat), (s.slice sl).head = some h → (s.slice
    sl).entry slot = some e → s.ladder? sl slot = none → s.wantedAt h slot = some (zk, idx) → e.headed.hdr = some hd →
    headerBad hd (zonePfa zk slot) (s.disc (zoneDisc zk)).discId idx = some f → s.gives (.frameDecode sl slot) fun t => ∃ u :
    State, t = u.settle ∧ u.flag Reg.SLC_EVT_HEADER_MISMATCH sl = true ∧ u.rd Reg.SLC_LAST_RES_OUTCOME sl = 2 ∧ (u.slice
    sl).entry slot = none) ∧
  (∀ (s : State) (sl : Fin 96) (slot h zk idx : Nat) (e : Soft) (u : Sharer) (us : List Sharer) (c : Cmd), (s.slice sl).head =
    some h → (s.slice sl).entry slot = some e → s.ladder? sl slot = none → (s.slice sl).complete e.headed = true → s.wantedAt
    h slot = some (zk, idx) → e.headed.hdr = none → s.usersOf zk idx = u :: us → s.cmd? u.sq u.tag = some c → rungOn c.prof 2
    = true → c.budgetFrom = none → c.budgetOut = false → s.gives (.frameDecode sl slot) fun t => (t.ladder? sl slot).map (fun
    l => (l.rung, l.zone, l.index, l.head)) = some (2, zk, idx, h)) ∧
  (∀ (s : State) (sl : Fin 96) (slot : Nat) (l : Ladder) (c : Cmd) (i : Nat), s.ladder? sl slot = some l → l.rung = 2 → s.mode
    ≠ mKiln → l.started = false → l.hdr = none → headerOf [(l.soft.contents []).getD 0 #[]] = none → s.ladderCmd l = some (c,
    i) → rungOn c.prof 3 = true → s.budgetGone c = false → s.gives (.ladderRungDecode sl slot) fun t => (t.ladder? sl
    slot).map (fun x => (x.rung, x.deepest)) = some (3, 2)) ∧
  (∀ (s : State) (sl : Fin 96) (slot : Nat) (l : Ladder) (hd : List Nat) (f : Nat), s.ladder? sl slot = some l → l.rung = 2 →
    s.mode ≠ mKiln → s.tooLate l = false → l.hdr = some hd → headerBad hd l.pfa (s.disc (zoneDisc l.zone)).discId l.index =
    some f → s.gives (.ladderRungDecode sl slot) fun t => t.ladder? sl slot = none) ∧
  (∀ (s : State) (sl : Fin 96) (slot : Nat) (l : Ladder) (c : Cmd) (i : Nat), s.ladder? sl slot = some l → l.rung = 2 → s.mode
    ≠ mKiln → s.tooLate l = true → s.ladderCmd l = some (c, i) → rungOn c.prof 9 = true → s.gives (.ladderRungDecode sl slot)
    fun t => (t.ladder? sl slot).map (fun x => x.rung) = some 9) ∧
  (∀ (s : State) (sl : Fin 96) (slot : Nat) (l : Ladder) (hd : List Nat) (f : Nat), s.ladder? sl slot = some l → l.rung = 3 →
    s.mode ≠ mKiln → s.tooLate l = false → l.hdr = some hd → headerBad hd l.pfa (s.disc (zoneDisc l.zone)).discId l.index =
    some f → s.gives (.rowShiftSearch sl slot) fun t => t.ladder? sl slot = none) ∧
  (∀ (s : State) (sl : Fin 96) (slot : Nat) (l : Ladder) (c : Cmd) (i : Nat), s.ladder? sl slot = some l → l.rung = 3 → s.mode
    ≠ mKiln → l.started = false → l.hdr = none → (rowShift l.soft l.shares false).2.hdr = none → s.ladderCmd l = some (c, i) →
    rungOn c.prof 4 = true → s.budgetGone c = false → s.gives (.rowShiftSearch sl slot) fun t => (t.ladder? sl slot).map (fun
    x => (x.rung, x.deepest, x.copies.length)) = some (4, 3, 1)) ∧
  (∀ (s : State) (sl : Fin 96) (slot i : Nat) (l : Ladder), s.ladder? sl slot = some l → rereadRung l.rung = true → l.pool =
    none → s.mode ≠ mKiln → s.ladderWait = [] → ((upTo 64).find? fun i => !(s.ladders.filterMap fun x => x.pool).contains i) =
    some i → s.gives (.ladderSlotClaim sl slot) fun t => (t.ladder? sl slot).map (fun x => x.pool) = some (some i) ∧ (t.slice
    sl).entry slot = none) ∧
  (∀ (s : State) (sl : Fin 96) (slot r k : Nat) (sk : Bool) (l : Ladder), s.ladder? sl slot = some l → rereadRung l.rung =
    true → l.pool ≠ none → l.fresh = none → s.mode ≠ mKiln → s.mayReread l = true → s.tooLate l = false → s.nextTry l = (some
    (r, k), sk) → s.gives (.ladderReread sl slot) fun t => (t.ladder? sl slot).map (fun x => (x.rung, x.started, x.tries,
    x.rereading, x.fresh)) = some (r, true, k + 1, true, some { slot := l.slot })) ∧
  (∀ (s : State) (sl : Fin 96) (slot r : Nat) (e f : Soft) (l : Ladder), s.ladder? sl slot = some l → l.ready = some (r, e) →
    l.fresh = some f → f.full = false → s.mode ≠ mKiln → l.hdr = none → (rereadTry e none l.pfa).1.hdr = none → (rereadTry e
    none l.pfa).2.2.hdr = none → l.copies.length < 4 → s.gives (.rereadDecode sl slot) fun t => (t.ladder? sl slot).map (fun x
    => (x.rung, x.ready.isNone, x.fresh, x.copies.length)) = some (l.rung, true, some f, l.copies.length + 1)) ∧
  (∀ (s : State) (sl : Fin 96) (slot : Nat) (l : Ladder) (c : Cmd) (i : Nat), s.ladder? sl slot = some l → l.rung = 8 → s.mode
    ≠ mKiln → l.started = false → l.fresh = none → l.ready = none → 4 ≤ l.copies.length → l.hdr = none → s.tooLate l = false →
    headerOf (l.copies.map fun c => c.soft.content (mget 0 c.shifts 0) 0) = none → s.ladderCmd l = some (c, i) → rungOn c.prof
    9 = true → s.gives (.softCombine sl slot) fun t => (t.ladder? sl slot).map (fun x => (x.rung, x.deepest)) = some (9, 8)) ∧
  (∀ (s : State) (sl : Fin 96) (slot : Nat) (l : Ladder) (c : Cmd) (i : Nat), s.ladder? sl slot = some l → l.rung = 9 → s.mode
    ≠ mKiln → l.hdr = none → s.ladderCmd l = some (c, i) → rungOn c.prof 9 = true → s.gives (.outerErasureDecode sl slot) fun
    t => t.ladder? sl slot = none) ∧
  (∀ (s : State) (sq tag t0 : Nat) (c : Cmd), s.cmd? sq tag = some c → c.budgetFrom = some t0 → c.prof / 2 ^ 16 ≠ 0 →
    c.budgetOut = false → s.mode ≠ mKiln → c.phase = .started → (∀ l ∈ s.ladders, l.started = true) → s.gives
    (.ladderBudgetExpire sq tag) fun t => (t.cmd? sq tag).map (fun x => x.budgetOut) = some true ∧ t0 + c.prof / 2 ^ 16 *
    msCycles ≤ t.now ∧ t.ladders = s.ladders) ∧
  (∀ (s : State) (sq tag t0 : Nat) (c : Cmd) (l : Ladder) (u : Sharer) (us : List Sharer), s.cmd? sq tag = some c →
    c.budgetFrom = some t0 → c.prof / 2 ^ 16 ≠ 0 → c.budgetOut = false → s.mode ≠ mKiln → c.phase = .started → s.ladders = [l]
    → l.started = false → l.rung ≤ 8 → l.users = u :: us → u.sq = sq → u.tag = tag → rungOn c.prof 9 = true → s.gives
    (.ladderBudgetExpire sq tag) fun t => t.ladders.map (fun x => x.rung) = [9])

/-- A READ in place or a VERIFY whose frames all exist and whose heads serve is under way with one wanted frame for each frame
of its range, and each head that a frame still waits for has a slice or waits for one (R327, R651, R654); one of whose frames
does not exist ends with the status of R328. A WRITE in place of a mounted disc is under way, its frames are held with their
data, and its head has a slice or waits for one (R36, R652). FLUSH is under way and resumes stopped frames of its scope (R326,
R657); ZONE_CLOSE of a CLOSED zone ends with ZONE_CLOSED and of another is under way (R658); DISC_FINALIZE is under way
(R659), and on a finalised disc ends with ZONE_CLOSED. A READ with a launch time is checked when it comes (R81). What is then
complete settles. Each of these commands is stated to complete, under its clauses' hypotheses alone: read, verify, write,
flush, zoneClose, discFinalize. -/
def Obligations.DataCommandsBegin : Prop :=
  (∀ (s : State) (q : BitVec 20) (tag : BitVec 12) (c : Cmd), s.runnable q.toNat tag.toNat opRead = some c → c.inPlace = true
    → c.origin = none → c.away = none → c.frames = [] → (∀ f ∈ s.frameList c, s.frameMissing f.zone f.index = none ∧
    s.frameOpen f.zone f.index = false) → (s.headsOf ((s.frameList c).map (·.zone))).any s.headDead = false → s.gives (.read q
    tag none) fun t => ∃ u : State, t = u.settle ∧ u.underWay c.sq c.tag ∧ (u.cmd? c.sq c.tag).map (fun d => d.frames.length)
    = some c.frameCount ∧ ∀ d, u.cmd? c.sq c.tag = some d → ∀ f ∈ d.frames, f.fate = .wanted → ∀ h, u.zoneHead f.zone = some h
    → (u.sliceOf h).isSome = true ∨ (u.headWait.any fun w => w.head == h) = true) ∧
  (∀ (s : State) (q : BitVec 20) (tag : BitVec 12) (c : Cmd), s.runnable q.toNat tag.toNat opVerify = some c → c.origin = none
    → c.frames = [] → (∀ f ∈ s.frameList c, s.frameMissing f.zone f.index = none ∧ s.frameOpen f.zone f.index = false) →
    (s.headsOf ((s.frameList c).map (·.zone))).any s.headDead = false → s.gives (.verify q tag) fun t => ∃ u : State, t =
    u.settle ∧ u.underWay c.sq c.tag ∧ (u.cmd? c.sq c.tag).map (fun d => d.frames.length) = some c.frameCount) ∧
  (∀ (s : State) (q : BitVec 20) (tag : BitVec 12) (c : Cmd) (st : Nat), s.runnable q.toNat tag.toNat opVerify = some c →
    c.local = true → c.frames = [] → (∀ f ∈ s.frameList c, s.frameOpen f.zone f.index = false) → ((s.frameList c).findSome?
    fun f => s.frameMissing f.zone f.index) = some st → s.gives (.verify q tag) fun t => ∃ u : State, t = u.settle ∧ u.ended
    c.sq c.tag st 0 0 0 ∧ u.headWait = s.headWait) ∧
  (∀ (s : State) (q : BitVec 20) (tag : BitVec 12) (c : Cmd) (h : Nat), s.runnable q.toNat tag.toNat opWrite = some c →
    c.inPlace = true → c.origin = none → c.away = none → s.zoneHead (aaddrZone c.aaddr) = some h → s.headDead h = false →
    ((s.zone (aaddrZone c.aaddr)).frontier = 0 → (s.zone (aaddrZone c.aaddr)).state = .open_ → (s.zone (aaddrZone
    c.aaddr)).resolve = false → s.mayOpen (aaddrZone c.aaddr) = true) → s.gives (.write q tag none) fun t => ∃ u : State, t =
    u.settle ∧ u.underWay c.sq c.tag ∧ (∀ x ∈ u.held, x.sq = c.sq → x.tag = c.tag → x.ord = c.ord → x.present = true) ∧
    ((u.sliceOf h).isSome = true ∨ (u.headWait.any fun w => w.head == h) = true)) ∧
  (∀ (s : State) (q : BitVec 20) (tag : BitVec 12) (c : Cmd), s.runnable q.toNat tag.toNat opFlush = some c → s.gives (.flush
    q tag) fun t => ∃ u : State, t = u.settle ∧ u.underWay c.sq c.tag ∧ ∀ x ∈ u.held, c.flushes x.zone = true → x.stage ≠
    .stopped) ∧
  (∀ (s : State) (q : BitVec 20) (tag : BitVec 12) (c : Cmd), s.runnable q.toNat tag.toNat opZoneClose = some c → c.local =
    true → (s.zone (aaddrZone c.aaddr)).state = .closed → s.gives (.zoneClose q tag) fun t => t.ended c.sq c.tag stZoneClosed
    0 0 0 ∧ t.zones = s.zones) ∧
  (∀ (s : State) (q : BitVec 20) (tag : BitVec 12) (c : Cmd) (h : Nat), s.runnable q.toNat tag.toNat opZoneClose = some c →
    (s.zone (aaddrZone c.aaddr)).state = .open_ → ((s.disc (zoneDisc (aaddrZone c.aaddr))).side (zoneSide (aaddrZone
    c.aaddr))).finalised = false → s.zoneHead (aaddrZone c.aaddr) = some h → s.headDead h = false → s.gives (.zoneClose q tag)
    fun t => ∃ u : State, t = u.settle ∧ u.underWay c.sq c.tag ∧ ((u.sliceOf h).isSome = true ∨ (u.headWait.any fun w =>
    w.head == h) = true)) ∧
  (∀ (s : State) (q : BitVec 20) (tag : BitVec 12) (c : Cmd) (h : Nat), s.runnable q.toNat tag.toNat opFinalize = some c →
    ((s.disc (aaddrDisc c.aaddr)).a.finalised && (s.disc (aaddrDisc c.aaddr)).b.finalised) = false → s.zoneHead (aaddrDisc
    c.aaddr * 2048) = some h → s.headDead h = false → s.headDead (h + 1) = false → s.gives (.discFinalize q tag) fun t => ∃ u
    : State, t = u.settle ∧ u.underWay c.sq c.tag ∧ ∀ x ∈ [h, h + 1], (u.sliceOf x).isSome = true ∨ (u.headWait.any fun w =>
    w.head == x) = true) ∧
  (∀ (s : State) (q : BitVec 20) (tag : BitVec 12) (c : Cmd), s.runnable q.toNat tag.toNat opFinalize = some c → c.local =
    true → (s.disc (aaddrDisc c.aaddr)).a.finalised = true → (s.disc (aaddrDisc c.aaddr)).b.finalised = true → s.gives
    (.discFinalize q tag) fun t => t.ended c.sq c.tag stZoneClosed 0 0 0) ∧
  (∀ (s : State) (q : BitVec 20) (tag : BitVec 12) (c : Cmd), s.runnable q.toNat tag.toNat opRead = none → s.early q.toNat
    tag.toNat opRead = some c → c.inPlace = true → s.gives (.read q tag none) fun t => ∃ u : State, t = u.settle ∧ (u.cmd?
    c.sq c.tag).map (fun d => (d.phase, d.checked)) = some (.waiting, true) ∧ u.mem = s.mem)

/-- Within its quota, with a buffer of the pool never taken yet, BUFFER_ALLOC gives the queue the next buffer of the smallest
pool that holds SIZE, zeroed, and answers its handle and page (R660, R693 to R695). BUFFER_RELEASE by the owner of a buffer
that nothing holds frees it and advances its generation (R661, R706); a handle that names no buffer is refused at field 16
(R692). BUFFER_SHARE makes another queue of the group the owner and keeps the old one as a reader (R662, R703, R704). A copy
command whose turn it is receives a buffer of pool 2 (R698). Each of these commands is stated to complete, under its clauses'
hypotheses alone: bufferAlloc, bufferRelease, bufferShare, copyBufferGrant. -/
def Obligations.BufferCommands : Prop :=
  (∀ (s : State) (q : BitVec 20) (tag : BitVec 12) (c : Cmd) (p : Nat), s.runnable q.toNat tag.toNat opAlloc = some c →
    c.local = true → poolFor (c.get 16 4) = some p → s.quotaOk c.sq (poolGranules p) = true → s.flag Reg.BPM_STATUS_ACTIVE 0 =
    true → (mget {} s.pools p).fresh < s.rd Reg.BPM_POOL_CNT_COUNT p → s.gives (.bufferAlloc q tag) fun t => ∃ k, t.ended c.sq
    c.tag stSuccess (t.handle k) (t.bufOffset k / 4096) 0 ∧ k = bufKey p (mget {} s.pools p).fresh ∧ mfind t.bufs k = some
    { owner := c.sq } ∧ (mget {} t.pools p).fresh = (mget {} s.pools p).fresh + 1 ∧ ∀ a, hdmBase + t.bufOffset k ≤ a → a <
    hdmBase + t.bufOffset k + poolSize p → t.byte a = 0) ∧
  (∀ (s : State) (q : BitVec 20) (tag : BitVec 12) (c : Cmd), s.runnable q.toNat tag.toNat opAlloc = some c → c.local = true →
    poolFor (c.get 16 4) = none → s.gives (.bufferAlloc q tag) fun t => t.ended c.sq c.tag stInvalidField 0 0 16 ∧ t.bufs =
    s.bufs ∧ t.mem = s.mem) ∧
  (∀ (s : State) (q : BitVec 20) (tag : BitVec 12) (c : Cmd) (k : Nat) (b : Buf), s.runnable q.toNat tag.toNat opRelease =
    some c → c.local = true → s.known (c.get 16 4) = some (k, b) → b.owner = c.sq → s.bufHeld k = false → s.gives
    (.bufferRelease q tag) fun t => t.ended c.sq c.tag stSuccess 0 0 0 ∧ t.bufs = mdel s.bufs k ∧ t.gen k = (s.gen k + 1) %
    16) ∧
  (∀ (s : State) (q : BitVec 20) (tag : BitVec 12) (c : Cmd), s.runnable q.toNat tag.toNat opRelease = some c → c.local = true
    → s.known (c.get 16 4) = none → s.gives (.bufferRelease q tag) fun t => t.ended c.sq c.tag stInvalidField 0 0 16 ∧ t.bufs
    = s.bufs ∧ t.gens = s.gens) ∧
  (∀ (s : State) (q : BitVec 20) (tag : BitVec 12) (c : Cmd) (k : Nat) (b : Buf), s.runnable q.toNat tag.toNat opShare = some
    c → c.local = true → s.known (c.get 16 4) = some (k, b) → b.owner = c.sq → s.bufHeld k = false → mhas s.sqs (c.get 20 2) =
    true → c.get 20 2 / 64 = c.grp → c.get 20 2 ≠ c.sq → (b.readers.filter fun r => r != c.get 20 2).length < 8 → s.quotaOk
    (c.get 20 2) (poolGranules (bufPool k)) = true → s.gives (.bufferShare q tag) fun t => t.ended c.sq c.tag stSuccess 0 0 0
    ∧ (mfind t.bufs k).map (fun x => (x.owner, x.readers)) = some (c.get 20 2, (b.readers.filter fun r => r != c.get 20 2) ++
    [c.sq])) ∧
  (∀ (s : State) (w : CopyWait) (c : Cmd), (s.copyWait.find? fun w => (s.waiter w).any s.mayTake) = some w → s.waiter w = some
    c → s.flag Reg.BPM_STATUS_ACTIVE 0 = true → (mget {} s.pools 2).fresh < s.rd Reg.BPM_POOL_CNT_COUNT 2 → s.gives
    (.copyBufferGrant) fun t => ∃ u : State, t = u.settle ∧ (mfind u.bufs (bufKey 2 (mget {} s.pools 2).fresh)).map (fun b =>
    (b.owner, b.copyOf)) = some (c.sq, some c.ord) ∧ (u.cmd? c.sq c.tag).map (fun d => d.bufs.contains (bufKey 2 (mget {}
    s.pools 2).fresh)) = some true)

/-- With a layout that passes the check, EN becomes active with every buffer free; else LAYOUT_ERR names the first bad pool
(R687, R688). EN is cleared only while no buffer is in use (R689). START from the controller queues an IDLE channel and one
from the host link is discarded (R708, R710); an engine that is free runs the channel that has waited longest from its first
descriptor (R710). A fill to device memory stores its pattern, and its write-back and status say DONE (R714, R716); a bad
descriptor halts its channel (R715). The third failed repeat of a housekeeping transfer halts it (R719), and a reset takes a
halted channel to IDLE (R722). Each of these commands is stated to complete, under its clauses' hypotheses alone: bpmEnable,
bpmDisable, dmaChannelStart, dmaChannelRun, dmaDescriptorEnd, dmaBusRetry, dmaChannelReset. -/
def Obligations.PoolLayoutAndDmaChannels : Prop :=
  (∀ (s : State), s.flag Reg.BPM_CTRL_EN 0 = false → s.badPool = none → s.gives (.bpmEnable) fun t => t.flag Reg.BPM_CTRL_EN 0
    = true ∧ t.flag Reg.BPM_STATUS_ACTIVE 0 = true ∧ t.bufs = [] ∧ ∀ p ∈ upTo 6, t.rd Reg.BPM_POOL_STAT_LOW_LOW p = s.rd
    Reg.BPM_POOL_CNT_COUNT p % 2 ^ 24) ∧
  (∀ (s : State) (p : Nat), s.flag Reg.BPM_CTRL_EN 0 = false → s.badPool = some p → s.gives (.bpmEnable) fun t => t.flag
    Reg.BPM_STATUS_LAYOUT_ERR 0 = true ∧ t.rd Reg.BPM_STATUS_ERR_POOL 0 = p ∧ t.lastEvent 0x0905 [p] ∧ t.flag Reg.BPM_CTRL_EN
    0 = false) ∧
  (∀ (s : State), s.bufs = [] → s.cmds = [] → s.held = [] → s.gives (.bpmDisable) fun t => t.flag Reg.BPM_CTRL_EN 0 = false ∧
    t.flag Reg.BPM_STATUS_ACTIVE 0 = false) ∧
  (∀ (s : State) (src : Src) (ch : Fin 2176), src ≠ .host → s.chanState ch = chIdle → s.gives (.dmaChannelStart src ch) fun t
    => t.chanState ch = chQueued ∧ (t.engine (chanEngine ch)).queue = (s.engine (chanEngine ch)).queue ++ [ch.val]) ∧
  (∀ (s : State) (ch : Fin 2176), s.gives (.dmaChannelStart .host ch) fun t => t = s) ∧
  (∀ (s : State) (e : Fin 40) (ch : Nat) (r : List Nat), (s.engine e).running = none → (s.engine e).queue = ch :: r → s.mode ≠
    mBanked → s.mode ≠ mCinder → s.gives (.dmaChannelRun e) fun t => (t.engine e).running = some ch ∧ (t.engine e).queue = r ∧
    (t.engine e).desc = s.rd Reg.DMA_CH_DESC_ADDR ch * 32 ∧ t.chanState ch = chRunning) ∧
  (∀ (s : State) (e : Fin 40) (ch : Nat), Memory.wf s.mem = true → (s.engine e).running = some ch → (s.engine e).retryAt =
    none → (s.desc (s.engine e).desc).ok = true → (s.desc (s.engine e).desc).srcSpace = 3 → (s.desc (s.engine
    e).desc).dstSpace = 1 → (s.desc (s.engine e).desc).isEnd = true → mfind s.chanJobs ch = none → s.gives (.dmaDescriptorEnd
    e (.done [])) fun t => ∃ u : State, t = u.requeue.settle ∧ u.chanState ch = chDone ∧ (u.engine e).running = none ∧ u.rd
    Reg.DMA_CH_STATUS_LAST ch = deDone ∧ u.byte ((s.engine e).desc + 31) = deDone ∧ ∀ i < (s.desc (s.engine e).desc).len,
    hdmBase + (s.desc (s.engine e).desc).dst + i ≠ (s.engine e).desc + 30 → hdmBase + (s.desc (s.engine e).desc).dst + i ≠
    (s.engine e).desc + 31 → u.byte (hdmBase + (s.desc (s.engine e).desc).dst + i) = (s.desc (s.engine e).desc).src / 256 ^ (i
    % 8) % 256) ∧
  (∀ (s : State) (e : Fin 40) (ch : Nat), (s.engine e).running = some ch → (s.engine e).retryAt = none → (s.desc (s.engine
    e).desc).ok = false → s.descReady e.val = true → mfind s.chanJobs ch = none → s.gives (.dmaDescriptorEnd e (.done [])) fun
    t => ∃ u : State, t = u.requeue.settle ∧ u.chanState ch = chHalted ∧ (u.engine e).running = none ∧ u.rd
    Reg.DMA_CH_STATUS_LAST ch = deField) ∧
  (∀ (s : State) (e : Fin 8) (ch t0 : Nat), (s.engine e).running = some ch → (s.engine e).retryAt = some t0 → 2 ≤ (s.engine
    e).retries → mfind s.chanJobs ch = none → s.gives (.dmaBusRetry e .busError) fun t => ∃ u : State, t = u.settle ∧
    u.chanState ch = chHalted ∧ (u.engine e).running = none ∧ u.rd Reg.DMA_CH_STATUS_LAST ch = deBusHalt ∧ t0 ≤ u.now) ∧
  (∀ (s : State) (src : Src) (ch : Fin 2176), src ≠ .host → s.chanState ch = chHalted → s.gives (.dmaChannelReset src ch) fun
    t => t.chanState ch = chIdle)

/-- A valid doorbell write of an existing queue moves the tail and head it carries (R626), any other changes no queue and is
shown in CMDQ_DB_ERR (R627). COMMAND_FETCH advances the queue's head (R637); a command that passes its checks and needs no
buffer is in flight and waits, one that fails is complete with its status and field (R639), and in CINDER with DEVICE_DEGRADED
(R680). A host cache error ends its command with HOST_ACCESS_ERROR, or stops the queue's fetch until the next doorbell (R588).
Each of these commands is stated to complete, under its clauses' hypotheses alone: doorbellWrite, commandFetch,
hostCacheError. -/
def Obligations.DoorbellsAndFetch : Prop :=
  (∀ (s : State) (q : BitVec 16) (v : BitVec 64) (x : Sq) (y : Cq), mfind s.sqs q.toNat = some x → mfind s.cqs x.cq = some y →
    (bitOf v.toNat 16 = true → bitsOf v.toNat 0 16 < 2 ^ x.log2) → (bitOf v.toNat 48 = true → bitsOf v.toNat 32 16 < 2 ^
    y.log2) → s.gives (.doorbellWrite q v) fun t => (mfind t.sqs q.toNat).map Sq.tail = some (if bitOf v.toNat 16 then bitsOf
    v.toNat 0 16 else x.tail) ∧ (mfind t.cqs x.cq).map Cq.head = some (if bitOf v.toNat 48 then bitsOf v.toNat 32 16 else
    y.head) ∧ t.regs = s.regs) ∧
  (∀ (s : State) (q : BitVec 16) (v : BitVec 64), mfind s.sqs q.toNat = none → s.gives (.doorbellWrite q v) fun t => t.sqs =
    s.sqs ∧ t.cqs = s.cqs ∧ t.flag Reg.CMDQ_DB_ERR_VALID 0 = true ∧ (s.flag Reg.CMDQ_DB_ERR_VALID 0 = false → t.rd
    Reg.CMDQ_DB_ERR_SQ 0 = q.toNat)) ∧
  (∀ (s : State) (p : BitVec 512) (q l : Nat) (x : Sq), s.fetchOn = true → s.nextQueue = some (q, l) → mfind s.sqs q = some x
    → s.mode = mCinder → s.gives (.commandFetch p) fun t => (mfind t.sqs q).map Sq.head = some ((x.head + 1) % 2 ^ x.log2) ∧
    t.cmds.length = s.cmds.length + 1 ∧ t.cmds.getLast?.map (fun c => (c.sq, c.tag, c.phase, c.status)) = some (q, bitsOf
    p.toNat 16 12, .fixed, stDegraded)) ∧
  (∀ (s : State) (p : BitVec 512) (q l : Nat) (x : Sq), s.fetchOn = true → s.nextQueue = some (q, l) → mfind s.sqs q = some x
    → s.mode = mBurn → p = 0 → s.cmd? q 0 = none → s.gives (.commandFetch p) fun t => (mfind t.sqs q).map Sq.head = some
    ((x.head + 1) % 2 ^ x.log2) ∧ t.cmds.length = s.cmds.length + 1 ∧ t.cmdSeq = s.cmdSeq + 1 ∧ t.cmds.getLast?.map (fun c =>
    (c.sq, c.tag, c.phase, c.pkt, c.acct)) = some (q, 0, .waiting, 0, x.acct)) ∧
  (∀ (s : State) (p : BitVec 512) (q l : Nat) (x : Sq), s.fetchOn = true → s.nextQueue = some (q, l) → mfind s.sqs q = some x
    → s.mode = mBurn → opcodes.contains (p.toNat % 256) = false → s.gives (.commandFetch p) fun t => (mfind t.sqs q).map
    Sq.head = some ((x.head + 1) % 2 ^ x.log2) ∧ t.cmds.length = s.cmds.length + 1 ∧ t.cmds.getLast?.map (fun c => (c.sq,
    c.tag, c.phase, c.status, c.field)) = some (q, bitsOf p.toNat 16 12, .fixed, stInvalidOpcode, 0)) ∧
  (∀ (s : State) (q : BitVec 16) (tag : BitVec 12) (c : Cmd), s.cmd? q.toNat tag.toNat = some c → c.phase ≠ .fixed → c.local =
    true → s.gives (.hostCacheError q (some tag)) fun t => t.ended c.sq c.tag stHostAccess 0 0 0) ∧
  (∀ (s : State) (q : BitVec 16) (x : Sq), mfind s.sqs q.toNat = some x → s.gives (.hostCacheError q none) fun t => (mfind
    t.sqs q.toNat).map Sq.stalled = some true ∧ t.cmds = s.cmds)

/-- A waiting command whose order and mode allow it becomes ready, and launched when it waits for no launch and runs here
(R647, R648). ABORT of a command that is not in flight ends with ABORT_NOT_FOUND (R675); of a waiting one that is no WRITE the
target ends with ABORTED and the ABORT is under way until that is settled (R676). The oldest completions that wait are written
while their queue has room, at the tail with the phase, four that fill a line together (R586, R629, R630, R644). A queue that
stays full is reported each second (R629). A due message of a queue goes out, or pends while its vector is masked (R598, R606,
R631), and unmasking clears the mask (R606). Each of these commands is stated to complete, under its clauses' hypotheses
alone: commandStart, abort, completionWrite, cqFullTimeout, msixSend, msixUnmask. -/
def Obligations.CommandsStartStopAndComplete : Prop :=
  (∀ (s : State) (q : BitVec 20) (tag : BitVec 12) (c : Cmd), s.cmd? q.toNat tag.toNat = some c → c.phase = .waiting →
    c.launched = false → s.startMode c = true → s.orderOk c = true → c.launch = none → s.leaving c = false → c.origin = none →
    c.op = opNop → s.gives (.commandStart q tag) fun t => (t.cmd? q.toNat tag.toNat).map (fun x => (x.ready, x.launched,
    x.phase)) = some (true, true, .waiting)) ∧
  (∀ (s : State) (q : BitVec 20) (tag : BitVec 12) (c : Cmd) (l : Nat), s.cmd? q.toNat tag.toNat = some c → c.phase = .waiting
    → c.launched = false → s.startMode c = true → s.orderOk c = true → c.launch = some l → s.leaving c = false → s.gives
    (.commandStart q tag) fun t => (t.cmd? q.toNat tag.toNat).map (fun x => (x.ready, x.launched, x.launch)) = some (true,
    false, some l)) ∧
  (∀ (s : State) (q : BitVec 20) (tag : BitVec 12) (c : Cmd), s.runnable q.toNat tag.toNat opAbort = some c → c.local = true →
    s.cmd? (c.get 16 2) (c.get 18 2) = none → s.gives (.abort q tag) fun t => t.ended c.sq c.tag stAbortNotFound 0 0 0) ∧
  (∀ (s : State) (q : BitVec 20) (tag : BitVec 12) (c : Cmd) (x : Cmd), s.runnable q.toNat tag.toNat opAbort = some c → s.cmd?
    (c.get 16 2) (c.get 18 2) = some x → x.grp = c.grp → x.local = true → x.op ≠ opAbort → x.op ≠ opWrite → x.phase = .waiting
    → x.away = none → (x.sq, x.tag) ≠ (c.sq, c.tag) → s.gives (.abort q tag) fun t => ∃ u : State, t = u.settle ∧ u.ended x.sq
    x.tag stAborted 0 0 0 ∧ u.underWay c.sq c.tag) ∧
  (∀ (s : State) (i : Fin 4096) (x : Cq), mfind s.cqs i.val = some x → x.waiting ≠ [] → x.room = true → s.gives
    (.completionWrite i) fun t => Out.cacheReq (if x.batch.length = 4 then .itoMWr else .woWrInv) (x.base + 16 * x.tail)
    (x.batch.flatMap fun e => entryBytes e (((mfind s.sqs e.sq).map Sq.head).getD 0) x.phase) ∈ t.out ∧ (mfind t.cqs
    i.val).map (fun y => (y.waiting, y.tail, y.phase)) = some (x.waiting.drop x.batch.length, (x.tail + x.batch.length) % 2 ^
    x.log2, if (x.tail + x.batch.length) % 2 ^ x.log2 = 0 then !x.phase else x.phase)) ∧
  (∀ (s : State) (i : Fin 4096) (x : Cq) (f : Nat), mfind s.cqs i.val = some x → x.fullFrom = some f → s.gives (.cqFullTimeout
    i) fun t => t.lastEvent 0x0902 [i.val, x.waiting.length] ∧ f + hz ≤ t.now) ∧
  (∀ (s : State) (i : Fin 4096) (x : Cq), mfind s.cqs i.val = some x → x.msiDue = true → s.hep.msixEn = true → s.masked
    x.vector = false → s.gives (.msixSend i) fun t => t.out = .msix x.vector (s.rd Reg.MSIX_ADDR_LO_ADDR x.vector + s.rd
    Reg.MSIX_ADDR_HI_ADDR x.vector * 2 ^ 32) (s.rd Reg.MSIX_DATA_DATA x.vector) :: s.out ∧ (mfind t.cqs i.val).map Cq.msiDue =
    some false) ∧
  (∀ (s : State) (i : Fin 4096) (x : Cq), mfind s.cqs i.val = some x → x.msiDue = true → s.hep.msixEn = true → s.masked
    x.vector = true → x.vector < 2048 → s.gives (.msixSend i) fun t => t.out = s.out ∧ bitOf (t.rd Reg.MSIX_PBA_PENDING
    (x.vector / 32)) (x.vector % 32) = true ∧ (mfind t.cqs i.val).map Cq.msiDue = some false) ∧
  (∀ (s : State) (v : Fin 2048), s.gives (.msixUnmask (some v)) fun t => t.flag Reg.MSIX_VCTRL_MASK v = false) ∧
  (∀ (s : State), s.gives (.msixUnmask none) fun t => t.hep.fnMask = false ∧ t.cqs = s.cqs)

/-- With BUSY 0 and operands in range, each operation of CMDQ_OP has its effect and RESULT 0 (R632 to R634): CREATE_CQ and
CREATE_SQ add the queue with the registers' configuration, DELETE_CQ removes one that no submission queue names, DELETE_SQ
stops fetching and sets BUSY until its commands are complete, and DELETE_SQ_COMPLETE then removes it (R635); SET_GROUP
replaces a group's attributes (R622); the queries put the queue's or group's configuration into the registers. With BUSY 1 an
operation changes nothing but OP (R12, R632); with a number out of range RESULT says so (R634). Each of these commands is
stated to complete, under its clauses' hypotheses alone: createCq, deleteCq, createSq, deleteSq, deleteSqComplete, setGroup,
queryCq, querySq, queryGroup. -/
def Obligations.QueueOperations : Prop :=
  (∀ (s : State), s.flag Reg.CMDQ_OP_BUSY 0 = false → s.qid < 4096 → s.depthOk = true → s.qvec ≠ 0 → s.qvec < 2048 → mhas
    s.cqs s.qid = false → s.gives (.createCq) fun t => t.rd Reg.CMDQ_OP_RESULT 0 = 0 ∧ mfind t.cqs s.qid = some
    { base := s.qbase, log2 := s.qlow, vector := s.qvec, ien := s.flag Reg.CMDQ_QCFG_IEN 0 }) ∧
  (∀ (s : State), s.flag Reg.CMDQ_OP_BUSY 0 = false → 4096 ≤ s.qid → s.gives (.createCq) fun t => t.rd Reg.CMDQ_OP_RESULT 0 =
    1 ∧ t.cqs = s.cqs) ∧
  (∀ (s : State), s.flag Reg.CMDQ_OP_BUSY 0 = true → s.gives (.createCq) fun t => t = s.wr Reg.CMDQ_OP_OP 0 1) ∧
  (∀ (s : State), s.flag Reg.CMDQ_OP_BUSY 0 = false → mhas s.cqs s.qid = true → (s.sqs.any fun p => p.2.cq == s.qid) = false →
    s.gives (.deleteCq) fun t => t.rd Reg.CMDQ_OP_RESULT 0 = 0 ∧ t.cqs = mdel s.cqs s.qid) ∧
  (∀ (s : State), s.flag Reg.CMDQ_OP_BUSY 0 = false → s.depthOk = true → mhas s.cqs s.qvec = true → (s.sqs.any fun p => p.2.cq
    == s.qvec && p.1 / 64 != s.qid / 64) = false → mhas s.sqs s.qid = false → s.gives (.createSq) fun t => t.rd
    Reg.CMDQ_OP_RESULT 0 = 0 ∧ mfind t.sqs s.qid = some
    { base := s.qbase, log2 := s.qlow, cq := s.qvec, quota := s.rd Reg.CMDQ_QCFG2_QUOTA 0, acct := s.rd Reg.CMDQ_QCFG2_ACCOUNT 0 % 4096 })
      ∧
  (∀ (s : State) (x : Sq), s.flag Reg.CMDQ_OP_BUSY 0 = false → mfind s.sqs s.qid = some x → s.gives (.deleteSq) fun t =>
    t.flag Reg.CMDQ_OP_BUSY 0 = true ∧ (mfind t.sqs s.qid).map Sq.deleting = some true) ∧
  (∀ (s : State) (q : Nat) (x : Sq), (s.sqs.find? fun p => p.2.deleting) = some (q, x) → (s.cmds.any fun c => c.sq == q) =
    false → s.gives (.deleteSqComplete) fun t => t.sqs = mdel s.sqs q ∧ t.flag Reg.CMDQ_OP_BUSY 0 = false ∧ t.rd
    Reg.CMDQ_OP_RESULT 0 = 0) ∧
  (∀ (s : State), s.flag Reg.CMDQ_OP_BUSY 0 = false → s.qid < 1024 → s.qpasid < 2 ^ 20 → s.groupFlight s.qid = 0 → s.gives
    (.setGroup) fun t => t.rd Reg.CMDQ_OP_RESULT 0 = 0 ∧ t.grp s.qid =
    { en := bitOf s.qlow 0, priv := bitOf s.qlow 1, pasidEn := bitOf s.qlow 2, pasid := s.qpasid, inflight := if s.qvec = 0 then 4096 else s.qvec })
      ∧
  (∀ (s : State) (x : Cq), s.flag Reg.CMDQ_OP_BUSY 0 = false → mfind s.cqs s.qid = some x → s.gives (.queryCq) fun t => t.rd
    Reg.CMDQ_OP_RESULT 0 = 0 ∧ t.rd Reg.CMDQ_BASE_BASE 0 = x.base / 4096 % 2 ^ Reg.CMDQ_BASE_BASE.w ∧ t.rd Reg.CMDQ_QPTR_HEAD
    0 = x.head % 2 ^ 16 ∧ t.rd Reg.CMDQ_QPTR_TAIL 0 = x.tail % 2 ^ 16 ∧ t.flag Reg.CMDQ_QCFG_IEN 0 = x.ien ∧ t.cqs = s.cqs) ∧
  (∀ (s : State) (x : Sq), s.flag Reg.CMDQ_OP_BUSY 0 = false → mfind s.sqs s.qid = some x → s.gives (.querySq) fun t => t.rd
    Reg.CMDQ_OP_RESULT 0 = 0 ∧ t.rd Reg.CMDQ_QPTR_HEAD 0 = x.head % 2 ^ 16 ∧ t.rd Reg.CMDQ_QPTR_TAIL 0 = x.tail % 2 ^ 16 ∧
    t.rd Reg.CMDQ_QCFG2_QUOTA 0 = x.quota % 2 ^ Reg.CMDQ_QCFG2_QUOTA.w ∧ t.sqs = s.sqs) ∧
  (∀ (s : State), s.flag Reg.CMDQ_OP_BUSY 0 = false → s.qid < 1024 → s.gives (.queryGroup) fun t => t.rd Reg.CMDQ_OP_RESULT 0
    = 0 ∧ t.rd Reg.CMDQ_QCFG_LOW 0 = (if (s.grp s.qid).en then 1 else 0) + (if (s.grp s.qid).priv then 2 else 0) + (if (s.grp
    s.qid).pasidEn then 4 else 0) ∧ t.rd Reg.CMDQ_QCFG_VECTOR 0 = (s.grp s.qid).inflight % 4096 ∧ t.grps = s.grps)

/-- A command of this cell's host that may run ends with its status and results, and what is then complete settles. NOP ends
with SUCCESS (R650); one whose host endpoint was reset ends without a completion. IDENTIFY writes 4,096 bytes at HOST_ADDR
(R666); GET_LOG writes as much of the log as LENGTH asks and counts it in RESULT_A (R667); SET_FEATURE sets a recovery profile
or an owner, and GET_FEATURE reads them (R668); TIME_GET writes 16 bytes (R669); TALLY_READ answers the records from FIRST on,
at most COUNT (R846); TALLY_ACK above the newest SEQ is refused at field 16, at or below ACKED succeeds, else waits (R670). A
host write that meets no boundary of the Max Payload Size goes out as one request (R712). Each of these commands is stated to
complete, under its clauses' hypotheses alone: nop, identify, getLog, setFeature, getFeature, timeGet, tallyRead, tallyAck. -/
def Obligations.InformationCommands : Prop :=
  (∀ (s : State) (q : BitVec 20) (tag : BitVec 12) (c : Cmd), s.runnable q.toNat tag.toNat opNop = some c → c.local = true →
    s.gives (.nop q tag) fun t => t.ended c.sq c.tag stSuccess 0 0 0 ∧ t.out = s.out ∧ t.mem = s.mem ∧ t.regs = s.regs) ∧
  (∀ (s : State) (q : BitVec 20) (tag : BitVec 12) (c : Cmd), s.runnable q.toNat tag.toNat opNop = some c → c.silent = true →
    s.gives (.nop q tag) fun t => t.cmd? c.sq c.tag = none ∧ t.cqs = s.cqs ∧ t.out = s.out) ∧
  (∀ (s : State) (q : BitVec 20) (tag : BitVec 12) (c : Cmd), s.runnable q.toNat tag.toNat opIdentify = some c → c.local =
    true → s.gives (.identify q tag) fun t => ∃ u : State, t = u.settle ∧ u.ended c.sq c.tag stSuccess 4096 0 0 ∧ u.out =
    (s.hostWrites (s.pasidOf c.grp) (c.flagBit 3) (c.get 32 8) (padBytes 4096 (if c.get 16 1 = 0 then s.identController else
    if c.get 16 1 = 1 then s.identStack else s.identGroup c.grp))).out) ∧
  (∀ (s : State) (q : BitVec 20) (tag : BitVec 12) (c : Cmd), s.runnable q.toNat tag.toNat opGetLog = some c → c.local = true
    → c.get 16 2 = 1 → (s.eventLog.drop (c.get 24 8)).take (c.get 20 4) ≠ [] → s.gives (.getLog q tag) fun t => ∃ u : State, t
    = u.settle ∧ u.ended c.sq c.tag stSuccess ((s.eventLog.drop (c.get 24 8)).take (c.get 20 4)).length 0 0 ∧ u.out =
    (s.hostWrites (s.pasidOf c.grp) (c.flagBit 3) (c.get 32 8) ((s.eventLog.drop (c.get 24 8)).take (c.get 20 4))).out) ∧
  (∀ (s : State) (q : BitVec 20) (tag : BitVec 12) (c : Cmd), s.runnable q.toNat tag.toNat opSetFeature = some c → c.local =
    true → c.get 16 2 = 0x10 → s.gives (.setFeature q tag) fun t => ∃ u : State, t = u.settle ∧ u.ended c.sq c.tag stSuccess 0
    0 0 ∧ mget 0x07D00FF9 u.profs (c.grp * 16 + c.get 18 2) = c.get 24 8 % 2 ^ 32) ∧
  (∀ (s : State) (q : BitVec 20) (tag : BitVec 12) (c : Cmd), s.runnable q.toNat tag.toNat opSetFeature = some c → c.local =
    true → c.get 16 2 ≠ 0x10 → s.gives (.setFeature q tag) fun t => ∃ u : State, t = u.settle ∧ u.ended c.sq c.tag stSuccess 0
    0 0 ∧ (u.disc (aaddrDisc (c.get 32 8))).owner = c.get 24 8 % 2 ^ 16 ∧ u.jq.length = s.jq.length + 1) ∧
  (∀ (s : State) (q : BitVec 20) (tag : BitVec 12) (c : Cmd), s.runnable q.toNat tag.toNat opGetFeature = some c → c.local =
    true → s.gives (.getFeature q tag) fun t => ∃ u : State, t = u.settle ∧ u.ended c.sq c.tag stSuccess (if c.get 16 2 = 0x10
    then mget 0x07D00FF9 s.profs (c.grp * 16 + c.get 18 2) else (s.disc (aaddrDisc (c.get 32 8))).owner) 0 0) ∧
  (∀ (s : State) (q : BitVec 20) (tag : BitVec 12) (c : Cmd), s.runnable q.toNat tag.toNat opTimeGet = some c → c.local = true
    → s.gives (.timeGet q tag) fun t => ∃ u : State, t = u.settle ∧ u.ended c.sq c.tag stSuccess 0 0 0 ∧ u.out = (s.hostWrites
    (s.pasidOf c.grp) (c.flagBit 3) (c.get 32 8) (bytesLE 8 (s.regOf Reg.TIME_NOW_SEC) ++ bytesLE 4 (s.regOf
    Reg.TIME_STATUS_STATE) ++ bytesLE 4 (s.regOf Reg.TIME_ERR_ERR))).out) ∧
  (∀ (s : State) (q : BitVec 20) (tag : BitVec 12) (c : Cmd), s.runnable q.toNat tag.toNat opTallyRead = some c → c.local =
    true → s.gives (.tallyRead q tag) fun t => ∃ u : State, t = u.settle ∧ ∃ l : List (List Nat), u.ended c.sq c.tag stSuccess
    l.length (s.newestSeq % 2 ^ 32) 0 ∧ l.length ≤ c.get 20 4 ∧ (∀ r ∈ l, seqNamed s.newestSeq (c.get 16 4) ≤ recSeq r) ∧ ∀ r
    ∈ l, r ∈ s.tallyRecords.map Prod.snd) ∧
  (∀ (s : State) (q : BitVec 20) (tag : BitVec 12) (c : Cmd), s.runnable q.toNat tag.toNat opTallyAck = some c → c.local =
    true → s.newestSeq < seqNamed s.newestSeq (c.get 16 4) → s.gives (.tallyAck q tag) fun t => ∃ u : State, t = u.settle ∧
    u.ended c.sq c.tag stInvalidField 0 0 16) ∧
  (∀ (s : State) (q : BitVec 20) (tag : BitVec 12) (c : Cmd), s.runnable q.toNat tag.toNat opTallyAck = some c → c.local =
    true → seqNamed s.newestSeq (c.get 16 4) ≤ s.newestSeq → s.rd Reg.TALLY_ACKED_SEQ 0 < seqNamed s.newestSeq (c.get 16 4) →
    s.gives (.tallyAck q tag) fun t => t.underWay c.sq c.tag ∧ t.tally.acks = s.tally.acks ++ [(c.sq, c.tag, seqNamed
    s.newestSeq (c.get 16 4))]) ∧
  (∀ (s : State) (p : Option Nat) (a : Nat) (bs : List Nat), s.flag Reg.HEP_STATUS_ATS_EN 0 = false → bs ≠ [] →
    a % s.maxPayload + bs.length ≤ s.maxPayload → (s.hostWrites p false a bs).out = .hostWrite { pasid := p } a bs :: s.out)

/-- TIME_SET with no load armed, accepted before any other that waits, writes TIME_LOAD and arms its load; behind an armed
load it waits (R71, R963). MODE_SET to another mode it may go to begins the transition and is under way (R672); to the mode in
force it succeeds with that mode (R673); a pair of modes that is not allowed is refused with MODE_REFUSED and the mode in
force in RESULT_A (R858). STATION_DIAG reads 16 KiB of a station's registers, makes a front-end access that BUSY shows and
that completes it later (R144), disables a station without a disc and enables one (R674). Each of these commands is stated to
complete, under its clauses' hypotheses alone: timeSet, modeSet, stationDiag. -/
def Obligations.ModeTimeAndStationCommands : Prop :=
  (∀ (s : State) (q : BitVec 20) (tag : BitVec 12) (c : Cmd), s.runnable q.toNat tag.toNat opTimeSet = some c → s.flag
    Reg.TIME_STATUS_LOAD_PENDING 0 = false → c.origin = none → (∀ x ∈ s.cmds, x.op = opTimeSet → x ≠ c → c.ord < x.ord) →
    s.gives (.timeSet q tag) fun t => t.underWay c.sq c.tag ∧ t.flag Reg.TIME_STATUS_LOAD_PENDING 0 = true ∧ t.rd
    Reg.TIME_LOAD_SEC 0 = c.get 24 8 / 2 ^ 32 % 2 ^ 32 ∧ t.rd Reg.TIME_LOAD_TICK 0 = c.get 24 8 % 2 ^ 31 ∧ t.tb.loadBy = some
    (c.sq, c.tag)) ∧
  (∀ (s : State) (q : BitVec 20) (tag : BitVec 12) (c : Cmd), s.runnable q.toNat tag.toNat opTimeSet = some c → s.flag
    Reg.TIME_STATUS_LOAD_PENDING 0 = true → s.gives (.timeSet q tag) fun t => t.underWay c.sq c.tag ∧ t.tb.loadQueue =
    s.tb.loadQueue ++ [(c.sq, c.tag)]) ∧
  (∀ (s : State) (q : BitVec 20) (tag : BitVec 12) (c : Cmd), s.runnable q.toNat tag.toNat opModeSet = some c → s.flag
    Reg.GCTL_BOOT_TRIAL 0 = false → modePair s.mode (c.get 16 1) = true → (s.mode = mDamped → s.flag
    Reg.PWR_STATUS_THERM_DAMPED 0 = false) → s.gives (.modeSet q tag) fun t => t.underWay c.sq c.tag ∧ t.pw.trans = some
    { from_ := s.mode, to_ := c.get 16 1, cause := 0, by_ := some (c.sq, c.tag) } ∧ t.mode = s.mode ∧ t.rd
    Reg.PWR_STATUS_REQ_MODE 0 = c.get 16 1 ∧ (c.get 16 1 = mDamped → t.rd Reg.PWR_CAP_CAP 0 = c.get 20 4 % 2 ^
    Reg.PWR_CAP_CAP.w)) ∧
  (∀ (s : State) (q : BitVec 20) (tag : BitVec 12) (c : Cmd), s.runnable q.toNat tag.toNat opModeSet = some c → c.local = true
    → s.flag Reg.GCTL_BOOT_TRIAL 0 = false → c.get 16 1 = s.mode → s.gives (.modeSet q tag) fun t => ∃ u : State, t = u.settle
    ∧ u.ended c.sq c.tag stSuccess s.mode 0 0 ∧ u.mode = s.mode ∧ u.pw = s.pw) ∧
  (∀ (s : State) (q : BitVec 20) (tag : BitVec 12) (c : Cmd), s.runnable q.toNat tag.toNat opModeSet = some c → c.local = true
    → c.get 16 1 ≠ s.mode → modePair s.mode (c.get 16 1) = false → s.gives (.modeSet q tag) fun t => ∃ u : State, t = u.settle
    ∧ u.ended c.sq c.tag stModeRefused s.mode 0 0 ∧ u.pw = s.pw ∧ u.regs = s.regs) ∧
  (∀ (s : State) (q : BitVec 20) (tag : BitVec 12) (c : Cmd), s.runnable q.toNat tag.toNat opStationDiag = some c → c.local =
    true → c.get 18 1 = 0 → s.gives (.stationDiag q tag) fun t => ∃ u : State, t = u.settle ∧ u.ended c.sq c.tag stSuccess 0 0
    0 ∧ u.out = (s.hostWrites (s.pasidOf c.grp) (c.flagBit 3) (c.get 32 8) (s.readBytes (0x100000 + c.get 16 2 * 0x10000)
    16384)).out) ∧
  (∀ (s : State) (q : BitVec 20) (tag : BitVec 12) (c : Cmd), s.runnable q.toNat tag.toNat opStationDiag = some c → c.get 18 1
    = 2 → s.active (c.get 16 2) = true → s.flag Reg.STN_REG_CMD_BUSY (c.get 16 2) = false → s.gives (.stationDiag q tag) fun t
    => t.underWay c.sq c.tag ∧ t.flag Reg.STN_REG_CMD_BUSY (c.get 16 2) = true ∧ t.flag Reg.STN_REG_CMD_WRITE (c.get 16 2) =
    true ∧ (t.stn (c.get 16 2)).regBy = some (c.sq, c.tag)) ∧
  (∀ (s : State) (q : BitVec 20) (tag : BitVec 12) (c : Cmd), s.runnable q.toNat tag.toNat opStationDiag = some c → c.local =
    true → c.get 18 1 = 3 → s.discIn (c.get 16 2) = none → s.gives (.stationDiag q tag) fun t => t.flag
    Reg.STN_LINK_CTRL_ENABLE (c.get 16 2) = false) ∧
  (∀ (s : State) (q : BitVec 20) (tag : BitVec 12) (c : Cmd), s.runnable q.toNat tag.toNat opStationDiag = some c → c.local =
    true → c.get 18 1 = 4 → s.gives (.stationDiag q tag) fun t => t.flag Reg.STN_LINK_CTRL_ENABLE (c.get 16 2) = true)

/-- A lane runs once in a period, at phase 1,100 and shows the period it ran in (R337); a lane still running at phase 2,400
enters CINDER (R374); the parameters are copied at phase 1,000 (R370). A slot whose descriptor passes the checks is enabled
from the next period on, one that fails is reported and stays disabled (R361); a disable takes effect at a period boundary
(R363). A descriptor word of a disabled slot is stored and of an enabled slot is refused with error 5 (R362); a write to the
active bank of an enabled slot is refused with error 6, and to a bank whose swap waits with error 7 (R366). A swap of an
enabled slot waits 5,000 cycles, of a disabled slot takes place at once (R367), and changes the bank over (R368). SAT_CLR
clears every LPE_SAT bit (R378). The safe program ends with state 3 and its event (R376). Each of these commands is stated to
complete, under its clauses' hypotheses alone: loopLaneRun, loopOverrun, loopParamCopy, loopSlotEnable, loopSlotDisable,
loopDescWrite, loopBankWrite, loopSwapSlot, loopSwapGroup, loopSwapExecute, loopSatClear, safeProgramDone. -/
def Obligations.LoopEngineCommands : Prop :=
  (∀ (s : State) (l : Fin 32), s.loopsRun = true → mfind s.loop.lanes l.val ≠ some ((s.advancePhase 1100).now - 1100) →
    s.gives (.loopLaneRun l []) fun t => t.lin % 5000 = 1100 ∧ t.rd Reg.LPE_STATUS_STATE 0 = 1 ∧ t.rd Reg.LPE_STATUS_K_LO 0 =
    t.period % 65536 ∧ t.mode = s.mode) ∧
  (∀ (s : State) (l : Fin 32), s.mode ≠ mCinder → s.mode ≠ mBanked → s.gives (.loopOverrun l) fun t => t.lin % 5000 = 2400 ∧
    t.mode = mCinder ∧ t.rd Reg.GCTL_STATUS_CINDER_CAUSE 0 = cLoopOverrun) ∧
  (∀ (s : State) (i : Nat), s.gives (.loopParamCopy) fun t => t.lin % 5000 = 1000 ∧ t.prm i = signed 24 (s.rd
    Reg.LPE_PRM_VALUE i)) ∧
  (∀ (s : State) (sl : Fin 2048) (c : BitVec 32), s.slotOn sl = false → (s.storeCtrl sl c.toNat).enableError sl = none →
    s.gives (.loopSlotEnable sl c) fun t => t.slotOn sl = true ∧ (t.lslot sl).dueAt = s.now + 5000 ∧ (t.lslot sl).y = 0 ∧
    t.flag Reg.LPE_SLOT_STAT_EN sl = true ∧ t.now = s.now) ∧
  (∀ (s : State) (sl : Fin 2048) (c : BitVec 32) (e : Nat), s.slotOn sl = false → (s.storeCtrl sl c.toNat).enableError sl =
    some e → s.gives (.loopSlotEnable sl c) fun t => t.slotOn sl = false ∧ t.lastEvent 0x05F2 [sl, e] ∧ (s.flag
    Reg.LPE_ERR_VALID 0 = false → t.rd Reg.LPE_ERR_CODE 0 = e ∧ t.rd Reg.LPE_ERR_SLOT 0 = sl)) ∧
  (∀ (s : State) (sl : Fin 2048), s.slotOn sl = true → s.gives (.loopSlotDisable sl) fun t => t.slotOn sl = false ∧ t.lin %
    5000 = 0 ∧ (t.lslot sl).swap = none) ∧
  (∀ (s : State) (sl : Fin 2048) (w : Fin 16) (d : BitVec 32), s.slotOn sl = false → w ≠ 0 → s.gives (.loopDescWrite sl w d)
    fun t => ∀ p ∈ descWordFields w, t.rd p.1 sl = bitsOf d.toNat p.2 p.1.w % 2 ^ p.1.w) ∧
  (∀ (s : State) (sl : Fin 2048) (d : BitVec 32), s.slotOn sl = false → s.gives (.loopDescWrite sl 0 d) fun t => t.rd
    Reg.DESC_CTRL_RATE sl = bitsOf d.toNat 2 2 ∧ t.rd Reg.DESC_CTRL_PHASE sl = bitsOf d.toNat 4 4 ∧ t.rd Reg.DESC_CTRL_NSEC sl
    = bitsOf d.toNat 10 4 ∧ t.slotOn sl = false) ∧
  (∀ (s : State) (sl : Fin 2048) (w : Fin 16) (d : BitVec 32), s.slotOn sl = true → w ≠ 0 → s.flag Reg.LPE_ERR_VALID 0 = false
    → s.gives (.loopDescWrite sl w d) fun t => t.flag Reg.LPE_ERR_VALID 0 = true ∧ t.rd Reg.LPE_ERR_CODE 0 = 5 ∧ t.rd
    Reg.LPE_ERR_SLOT 0 = sl ∧ ∀ p ∈ descWordFields w, t.rd p.1 sl = s.rd p.1 sl) ∧
  (∀ (s : State) (sl : Fin 2048) (b : Fin 2) (w : Fin 64) (d : BitVec 32), s.slotOn sl = false ∨ b.val ≠ s.rd
    Reg.DESC_CTRL_BANK sl → (s.lslot sl).swap = none → s.gives (.loopBankWrite sl b w d) fun t => t.rd Reg.LPE_BANK_WORD ((sl
    * 2 + b) * 64 + w) = d.toNat) ∧
  (∀ (s : State) (sl : Fin 2048) (b : Fin 2) (w : Fin 64) (d : BitVec 32), s.slotOn sl = true → b.val = s.rd
    Reg.DESC_CTRL_BANK sl → s.flag Reg.LPE_ERR_VALID 0 = false → s.gives (.loopBankWrite sl b w d) fun t => t.rd
    Reg.LPE_ERR_CODE 0 = 6 ∧ t.rd Reg.LPE_ERR_SLOT 0 = sl ∧ t.rd Reg.LPE_BANK_WORD ((sl * 2 + b) * 64 + w) = s.rd
    Reg.LPE_BANK_WORD ((sl * 2 + b) * 64 + w)) ∧
  (∀ (s : State) (sl : Fin 2048) (b : Fin 2) (w : Fin 64) (d : BitVec 32), b.val ≠ s.rd Reg.DESC_CTRL_BANK sl → (s.lslot
    sl).swap ≠ none → s.flag Reg.LPE_ERR_VALID 0 = false → s.gives (.loopBankWrite sl b w d) fun t => t.rd Reg.LPE_ERR_CODE 0
    = 7 ∧ t.rd Reg.LPE_BANK_WORD ((sl * 2 + b) * 64 + w) = s.rd Reg.LPE_BANK_WORD ((sl * 2 + b) * 64 + w)) ∧
  (∀ (s : State) (sl : Fin 2048) (m : Fin 4), s.flag Reg.LPE_SWAP_PENDING 0 = false → s.slotOn sl = true → s.gives
    (.loopSwapSlot sl m) fun t => (t.lslot sl).swap = some (m.val, s.now + 5000) ∧ t.flag Reg.LPE_SWAP_PENDING 0 = true ∧ t.rd
    Reg.DESC_CTRL_BANK sl = s.rd Reg.DESC_CTRL_BANK sl) ∧
  (∀ (s : State) (sl : Fin 2048) (m : Fin 4), s.flag Reg.LPE_SWAP_PENDING 0 = false → s.slotOn sl = false → s.gives
    (.loopSwapSlot sl m) fun t => t.rd Reg.DESC_CTRL_BANK sl = 1 - s.rd Reg.DESC_CTRL_BANK sl ∧ (t.lslot sl).swap = none) ∧
  (∀ (s : State) (m : Fin 4) (sl : Fin 2048), s.flag Reg.LPE_SWAP_PENDING 0 = false → s.slotOn sl = true → s.slotFlag
    Reg.LPE_SWAP_SET_BITS sl = true → s.gives (.loopSwapGroup m) fun t => (t.lslot sl).swap = some (m.val, s.now + 5000) ∧
    t.flag Reg.LPE_SWAP_PENDING 0 = true) ∧
  (∀ (s : State) (sl : Fin 2048) (m x : Nat), (s.lslot sl).swap = some (m, x) → s.gives (.loopSwapExecute sl) fun t => t.rd
    Reg.DESC_CTRL_BANK sl = 1 - s.rd Reg.DESC_CTRL_BANK sl ∧ (t.lslot sl).swap = none ∧ x ≤ t.now ∧ (m = 1 → (t.lslot sl).y =
    0)) ∧
  (∀ (s : State), s.gives (.loopSatClear) fun t => ∀ i : Fin 64, t.rd Reg.LPE_SAT_BITS i = 0) ∧
  (∀ (s : State) (x : Nat), s.loop.safeFrom = some x → s.loop.safeDone = false → s.gives (.safeProgramDone) fun t => t.rd
    Reg.LPE_STATUS_STATE 0 = 3 ∧ t.loop.safeDone = true ∧ t.lastEvent 0x05F3 [1, s.turningCount] ∧ (s.turningCount ≠ 0 → x +
    s.rd1 Reg.LPE_SAFE_BRAKE_TIMEOUT_S 0 * hz ≤ t.now))

/-- Whatever its sources, coefficients and states, a CHAIN slot whose OUT_LO is at most OUT_HI gives an output between them
(R349), its integrator in modes 1 and 2 keeps its value or lies within INT_LO and INT_HI (R347), and an FOC slot gives three
duties between its limits (R358). With no section, integrator, feed-forward, branch or wrap, the output is the limited sum of
the scaled sources (R345). -/
def Obligations.LoopOutputsStayWithinLimits : Prop :=
  (∀ (s : State) (k sl : Nat), s.coef sl 49 ≤ s.coef sl 48 → s.coef sl 49 ≤ (s.chain k sl).out ∧ (s.chain k sl).out ≤ s.coef
    sl 48) ∧
  (∀ (s : State) (k sl : Nat), s.rd Reg.DESC_CTRL_INT_MODE sl = 1 ∨ s.rd Reg.DESC_CTRL_INT_MODE sl = 2 → s.coef sl 47 ≤ s.coef
    sl 46 →
    (s.chain k sl).i = (s.lslot sl).i ∨ s.coef sl 47 * 2 ^ 17 ≤ (s.chain k sl).i ∧ (s.chain k sl).i ≤ s.coef sl 46 * 2 ^ 17) ∧
  (∀ (s : State) (sl n : Nat) (iq id ang : Int) (stale : Bool), s.coef sl 6 ≤ s.coef sl 7 →
    (s.focRun sl n iq id ang stale).duty.length = 3 ∧ ∀ d ∈ (s.focRun sl n iq id ang stale).duty, s.coef sl 6 ≤ d ∧ d ≤ s.coef
      sl 7) ∧
  (∀ (s : State) (k sl : Nat) (e : Int), s.rd Reg.DESC_CTRL_NSEC sl = 0 → s.rd Reg.DESC_CTRL_INT_MODE sl = 0 → s.rd
    Reg.DESC_CTRL_NBR sl = 0 →
    s.flag Reg.DESC_CTRL_FF_EN sl = false → s.flag Reg.DESC_CTRL_EWRAP sl = false →
    e = stage 32 27 (s.coef sl 4 * 2 ^ 28 + s.coef sl 0 * s.source k sl (s.rd Reg.DESC_SRC01_SRC0 sl) + s.coef sl 1 * s.source
      k sl (s.rd Reg.DESC_SRC01_SRC1 sl)
      + s.coef sl 2 * s.source k sl (s.rd Reg.DESC_SRC23_SRC2 sl) + s.coef sl 3 * s.source k sl (s.rd Reg.DESC_SRC23_SRC3 sl))
        →
    (s.chain k sl).out = clampInt (s.coef sl 49) (s.coef sl 48) (stage 24 1 (stage 32 16 (e * 2 ^ 16))))

/-- GO with an operation that the head's state does not allow ends with RESULT 1 (R389). ACQUIRE from PARKED or FAULT begins a
focus sweep (R393). A seek ends at once on its place, jumps when JUMP_MAX allows it, else makes a long move (R397 to R399). A
layer jump enters LAYER_ACQ (R403), OPC its own state (R408), PARK PARKING (R390, R420), and CLEAR_FAULT leaves FAULT for
PARKED. Requests of the slice and the command sequencer start on a READY head and wait in turn otherwise (R389). A one-track
step asked for gates word 1 one step away for two periods (R395). An OPC goes to the slot of the next burst (R408). An
automatic OPC starts when a trigger holds (R407). Each of these commands is stated to complete, under its clauses' hypotheses
alone: headAcquire, headSeek, headLayer, headPark, headOpc, headClearFault, seekRequest, layerJumpRequest, oneTrackStep,
opcTrigger. -/
def Obligations.HeadOperationsStart : Prop :=
  (∀ (s : State) (n : Fin 128) (a : Fin 2) (h : Nat), h = headOf n a → s.mode ≠ mCinder → s.flag Reg.STN_HD_CMD_BUSY h = false
    → (s.hd h = hdParked ∨ s.hd h = hdFault) → s.gives (.headAcquire n a) fun t => t.hd h = hdFocusAcq ∧ (t.head h).op = some
    (s.targetReq h 1) ∧ t.flag Reg.STN_HD_CMD_BUSY h = true) ∧
  (∀ (s : State) (n : Fin 128) (a : Fin 2) (h : Nat), h = headOf n a → s.mode ≠ mCinder → s.flag Reg.STN_HD_CMD_BUSY h = false
    → s.hd h ≠ hdParked → s.hd h ≠ hdFault → s.gives (.headAcquire n a) fun t => t.rd Reg.STN_HD_CMD_RESULT h = 1 ∧ t.hd h =
    s.hd h ∧ t.heads = s.heads) ∧
  (∀ (s : State) (n : Fin 128) (a : Fin 2) (h : Nat), h = headOf n a → s.mode ≠ mCinder → s.flag Reg.STN_HD_CMD_BUSY h = false
    → s.hd h = hdReady → (s.head h).op = none → landing (s.posNow h) (slotPos (s.rd Reg.STN_HD_TARGET_SLOT h) (s.flag
    Reg.STN_HD_TARGET_LEADIN h)) (s.landMargin h) = 0 → s.gives (.headSeek n a) fun t => t.hd h = hdReady ∧ (t.head h).op =
    none ∧ t.flag Reg.STN_HD_CMD_BUSY h = false ∧ t.rd Reg.STN_HD_CMD_RESULT h = 0) ∧
  (∀ (s : State) (n : Fin 128) (a : Fin 2) (h : Nat) (j : Int), h = headOf n a → s.mode ≠ mCinder → s.flag Reg.STN_HD_CMD_BUSY
    h = false → s.hd h = hdReady → (s.head h).op = none → j = landing (s.posNow h) (slotPos (s.rd Reg.STN_HD_TARGET_SLOT h)
    (s.flag Reg.STN_HD_TARGET_LEADIN h)) (s.landMargin h) → j ≠ 0 → j.natAbs ≤ s.jumpMax h → s.gives (.headSeek n a) fun t =>
    t.hd h = hdSeek ∧ (t.head h).jump = j ∧ (t.head h).op = some (s.targetReq h 2) ∧ t.flag Reg.STN_HD_CMD_BUSY h = true) ∧
  (∀ (s : State) (n : Fin 128) (a : Fin 2) (h : Nat) (j : Int), h = headOf n a → s.mode ≠ mCinder → s.flag Reg.STN_HD_CMD_BUSY
    h = false → s.hd h = hdReady → (s.head h).op = none → j = landing (s.posNow h) (slotPos (s.rd Reg.STN_HD_TARGET_SLOT h)
    (s.flag Reg.STN_HD_TARGET_LEADIN h)) (s.landMargin h) → s.jumpMax h < j.natAbs → s.gives (.headSeek n a) fun t => t.hd h =
    hdSeek ∧ (t.head h).longMoves = 1 ∧ (t.head h).stage = 9 ∧ t.flag Reg.STN_HD_STATUS_TRK_LOCK h = false) ∧
  (∀ (s : State) (n : Fin 128) (a : Fin 2) (h : Nat), h = headOf n a → s.mode ≠ mCinder → s.flag Reg.STN_HD_CMD_BUSY h = false
    → s.hd h = hdReady → (s.head h).op = none → s.gives (.headLayer n a) fun t => t.hd h = hdLayerAcq ∧ (t.head h).op = some
    (s.targetReq h 3) ∧ (t.head h).stage = 5 ∧ (t.head h).readOn = false) ∧
  (∀ (s : State) (n : Fin 128) (a : Fin 2) (h : Nat), h = headOf n a → s.mode ≠ mCinder → s.headUp h = true → s.hd h ≠
    hdParking → s.gives (.headPark n a) fun t => t.hd h = hdParking ∧ (t.head h).op = some { kind := 4, firmware := true } ∧
    t.flag Reg.STN_HD_CMD_BUSY h = true ∧ (t.head h).readOn = false) ∧
  (∀ (s : State) (n : Fin 128) (a : Fin 2) (h : Nat), h = headOf n a → s.mode ≠ mCinder → s.hd h = hdParked → s.gives
    (.headPark n a) fun t => t.hd h = hdParked ∧ t.flag Reg.STN_HD_CMD_BUSY h = false ∧ t.rd Reg.STN_HD_CMD_RESULT h = 0) ∧
  (∀ (s : State) (n : Fin 128) (a : Fin 2) (h : Nat), h = headOf n a → s.mode ≠ mCinder → s.flag Reg.STN_HD_CMD_BUSY h = false
    → s.hd h = hdReady → (s.head h).op = none → s.pcaNext h (s.layerOf h) < 18432 → s.gives (.headOpc n a) fun t => (t.head
    h).op = some { s.targetReq h 5 with layer := s.layerOf h, slot := s.pcaNext h (s.layerOf h) / 18, leadin := true } ∧
    (t.head h).opc.burst = s.pcaNext h (s.layerOf h) ∧ t.hd h = (if landing (s.posNow h) (slotPos (s.pcaNext h (s.layerOf h) /
    18) true) (s.landMargin h) = 0 then hdOpc else hdSeek)) ∧
  (∀ (s : State) (n : Fin 128) (a : Fin 2) (h : Nat), h = headOf n a → s.mode ≠ mCinder → s.flag Reg.STN_HD_CMD_BUSY h = false
    → s.hd h = hdReady → (s.head h).op = none → 18432 ≤ s.pcaNext h (s.layerOf h) → s.gives (.headOpc n a) fun t => t.hd h =
    hdOpc ∧ (t.head h).op = some { s.targetReq h 5 with layer := s.layerOf h }) ∧
  (∀ (s : State) (n : Fin 128) (a : Fin 2) (h : Nat), h = headOf n a → s.mode ≠ mCinder → s.flag Reg.STN_HD_CMD_BUSY h = false
    → s.hd h = hdFault → s.gives (.headClearFault n a) fun t => t.hd h = hdParked ∧ t.flag Reg.STN_HD_CMD_BUSY h = false ∧
    t.rd Reg.STN_HD_CMD_RESULT h = 0) ∧
  (∀ (s : State) (n : Fin 128) (a : Fin 2) (h : Nat) (p : Nat) (c : Option (Nat × Nat)), h = headOf n a → s.mode ≠ mCinder →
    s.hd h ≠ hdReady → s.gives (.seekRequest n a p c) fun t => (t.head h).waiting = (s.head h).waiting ++
    [{ kind := 2, slot := p, layer := s.layerOf h, cmd := c }] ∧ t.hd h = s.hd h) ∧
  (∀ (s : State) (n : Fin 128) (a : Fin 2) (h : Nat) (p : Nat) (c : Option (Nat × Nat)) (j : Int), h = headOf n a → s.mode ≠
    mCinder → s.hd h = hdReady → (s.head h).op = none → j = landing (s.posNow h) (slotPos p false) (s.landMargin h) → j ≠ 0 →
    j.natAbs ≤ s.jumpMax h → s.gives (.seekRequest n a p c) fun t => t.hd h = hdSeek ∧ (t.head h).jump = j) ∧
  (∀ (s : State) (n : Fin 128) (a : Fin 2) (h : Nat) (l : Fin 16) (c : Option (Nat × Nat)), h = headOf n a → s.mode ≠ mCinder
    → s.hd h ≠ hdReady → s.gives (.layerJumpRequest n a l c) fun t => (t.head h).waiting = (s.head h).waiting ++
    [{ kind := 3, layer := l, cmd := c }] ∧ t.hd h = s.hd h) ∧
  (∀ (s : State) (n : Fin 128) (a : Fin 2) (h : Nat) (l : Fin 16) (c : Option (Nat × Nat)), h = headOf n a → s.mode ≠ mCinder
    → s.hd h = hdReady → (s.head h).op = none → s.gives (.layerJumpRequest n a l c) fun t => t.hd h = hdLayerAcq ∧ (t.head
    h).op = some { kind := 3, layer := l, cmd := c }) ∧
  (∀ (s : State) (n : Fin 128) (a : Fin 2) (h : Nat) (i : Bool) (b : Nat), h = headOf n a → s.mode ≠ mCinder → s.hd h =
    hdReady → (s.head h).op = none → (s.head h).stepAsk = some i → (s.head h).step = none → b = (if s.lin % 5000 ≤ 2400 then
    s.now - s.lin % 5000 else s.now - s.lin % 5000 + 5000) → s.gives (.oneTrackStep n a) fun t => mfind t.loop.gates (wordKey
    (h / 2) (headWord h 1)) = some (.stair (s.lastOut h 1) (if i = true then -s.rdS Reg.STN_HD_TRK_CFG_TRK_STEP h else s.rdS
    Reg.STN_HD_TRK_CFG_TRK_STEP h) 1 b) ∧ (t.head h).step = some (i, b + 10000) ∧ (t.head h).stepAsk = none) ∧
  (∀ (s : State) (n : Fin 128) (a : Fin 2) (h : Nat), h = headOf n a → s.mode ≠ mCinder → s.hd h = hdReady → (s.head h).op =
    none → s.flag Reg.STN_HD_CTRL_OPC_AUTO h = true → s.opcDue h = true → s.pcaNext h (s.layerOf h) < 18432 → s.gives
    (.opcTrigger n a) fun t => (t.head h).op = some
    { kind := 5, layer := s.layerOf h, slot := s.pcaNext h (s.layerOf h) / 18, leadin := true } ∧ (t.hd h = hdOpc ∨ t.hd h =
    hdSeek))

/-- A stage of acquisition that is locked leads to the next with its lock shown; one not locked in its time is tried again,
and the third time the head parks on its way to FAULT (R393, R415). A jump or a long move that lands, and a layer jump whose
relay locks, end READY with the place and layer shown (R397, R399, R403); a relay not locked is tried again (R404); a failed
seek restarts once (R969). A lock lost starts recovery, or parks the head where recovery is off (R412, R413), and a recovery
ends READY or in FAULT (R413, R415). A calibration that reads back well makes WRITE_SP valid (R408, R409). PWR_LIMITED follows
the limit branches (R405). A head in PARKING moves its sled to its place and is then PARKED, or in FAULT (R415, R420). Each of
these commands is stated to complete, under its clauses' hypotheses alone: acqStageLocked, acqStageTimeout, seekJumpDone,
longSeekSettled, seekRestart, layerMoveEnd, relayLocked, layerJumpTimeout, lockLoss, headRecoveryDone, headRecoveryTimeout,
powerLimitDetect, opcReadback, headParkDone. -/
def Obligations.HeadSequencesEnd : Prop :=
  (∀ (s : State) (n : Fin 128) (a : Fin 2) (h : Nat) (r : HReq) (x y : BitVec 64) (k : Nat), h = headOf n a → (s.head h).op =
    some r → r.kind = 1 → (s.head h).stage = 0 → 64 ≤ (s.head h).watch.focIn → s.gives (.acqStageLocked n a x y k) fun t =>
    t.flag Reg.STN_HD_STATUS_FOC_LOCK h = true ∧ t.hd h = hdTrackAcq ∧ (t.head h).stage = 1) ∧
  (∀ (s : State) (n : Fin 128) (a : Fin 2) (h : Nat) (r : HReq) (x y : BitVec 64) (k : Nat), h = headOf n a → (s.head h).op =
    some r → r.kind = 1 → (s.head h).stage = 1 → 300 ≤ (s.head h).watch.trkIn → s.gives (.acqStageLocked n a x y k) fun t =>
    t.flag Reg.STN_HD_STATUS_TRK_LOCK h = true ∧ t.hd h = hdTrackAcq ∧ (t.head h).stage = 2) ∧
  (∀ (s : State) (n : Fin 128) (a : Fin 2) (h : Nat) (r : HReq) (x y : BitVec 64) (k : Nat), h = headOf n a → (s.head h).op =
    some r → r.kind = 1 → (s.head h).stage = 2 → guideOk x.toNat = true → guideOk y.toNat = true → bitsOf x.toNat 20 1 = a →
    bitsOf y.toNat 20 1 = a → k ≤ 1 → bitsOf y.toNat 0 20 = bitsOf x.toNat 0 20 + k → s.gives (.acqStageLocked n a x y k) fun
    t => t.flag Reg.STN_HD_STATUS_CLK_LOCK h = true ∧ t.rd Reg.STN_HD_POS_SLOT h = bitsOf y.toNat 0 20 ∧ t.hd h = hdOnGuide ∧
    (t.head h).stage = 3) ∧
  (∀ (s : State) (n : Fin 128) (a : Fin 2) (h : Nat) (r : HReq) (x y : BitVec 64) (k : Nat), h = headOf n a → (s.head h).op =
    some r → r.kind = 1 → (s.head h).stage = 3 → guideOk x.toNat = true → bitsOf x.toNat 20 1 = a → s.gives (.acqStageLocked n
    a x y k) fun t => t.hd h = hdLayerAcq ∧ (t.head h).stage = 4 ∧ (t.head h).readOn = true) ∧
  (∀ (s : State) (n : Fin 128) (a : Fin 2) (h : Nat) (r : HReq) (x y : BitVec 64) (k : Nat), h = headOf n a → (s.head h).op =
    some r → r.kind = 1 → (s.head h).stage = 2 → guideOk y.toNat = true → ((s.head h).stage = 2 ∨ (s.head h).stage = 3) →
    guideOk x.toNat = true → bitsOf x.toNat 20 1 ≠ a → s.headUp h = true → s.hd h ≠ hdParking → s.gives (.acqStageLocked n a x
    y k) fun t => t.hd h = hdParking ∧ (t.head h).parkCause = 2 ∧ (t.head h).op = none) ∧
  (∀ (s : State) (n : Fin 128) (a : Fin 2) (h : Nat) (r : HReq), h = headOf n a → (s.head h).op = some r → r.kind = 1 →
    ((s.head h).stage < 3 ∨ (s.head h).stage = 4) → ((s.head h).stage = 0 → s.sweepBack h = none) → (s.head h).tries < 2 →
    s.gives (.acqStageTimeout n a) fun t => (t.head h).tries = (s.head h).tries + 1 ∧ (t.head h).stageAt = t.now ∧ (s.head
    h).stageAt + s.stageLimit h (s.head h).stage ≤ t.now) ∧
  (∀ (s : State) (n : Fin 128) (a : Fin 2) (h : Nat) (r : HReq), h = headOf n a → (s.head h).op = some r → r.kind = 1 →
    ((s.head h).stage < 3 ∨ (s.head h).stage = 4) → ((s.head h).stage = 0 → s.sweepBack h = none) → 2 ≤ (s.head h).tries →
    s.headUp h = true → s.hd h ≠ hdParking → s.gives (.acqStageTimeout n a) fun t => t.hd h = hdParking ∧ (t.head h).parkCause
    = 2) ∧
  (∀ (s : State) (n : Fin 128) (a : Fin 2) (h : Nat) (r : HReq) (e : Nat), h = headOf n a → (s.head h).op = some r → r.kind =
    1 → (s.head h).stage = 0 → s.sweepBack h = some e → s.gives (.acqStageTimeout n a) fun t => t.hd h = hdFocusAcq ∧ (t.head
    h).stageAt = t.now ∧ e ≤ t.now) ∧
  (∀ (s : State) (n : Fin 128) (a : Fin 2) (h : Nat) (r : HReq), h = headOf n a → (s.head h).waiting = [] → (s.head h).again =
    none → (s.head h).op = some r → r.kind ≠ 6 → r.kind ≠ 5 → (s.head h).jump ≠ 0 → s.gives (.seekJumpDone n a) fun t => t.hd
    h = hdReady ∧ (t.head h).op = none ∧ (t.head h).pos = jumpedPos ((s.advanceTo (s.head h).dueAt).posNow h) (s.head h).jump
    ∧ (t.head h).jump = 0 ∧ (s.head h).dueAt ≤ t.now) ∧
  (∀ (s : State) (n : Fin 128) (a : Fin 2) (h : Nat) (r : HReq) (x y : BitVec 64) (k : Nat), h = headOf n a → (s.head
    h).waiting = [] → (s.head h).again = none → (s.head h).longMoves ≠ 0 → (s.head h).stage = 9 → s.axState h ≠ axMoving →
    s.axState h ≠ axHoming → s.gate n (headWord h 1) = none → 300 ≤ (s.head h).watch.trkIn → addrPair a x.toNat y.toNat k =
    true → (s.head h).op = some r → r.kind ≠ 6 → r.kind ≠ 5 → landing (slotPos (bitsOf y.toNat 0 20) (bitOf y.toNat 21))
    (slotPos r.slot r.leadin) (s.landMargin h) = 0 → s.gives (.longSeekSettled n a x y k) fun t => t.hd h = hdReady ∧ (t.head
    h).op = none ∧ t.flag Reg.STN_HD_STATUS_TRK_LOCK h = true ∧ t.flag Reg.STN_HD_STATUS_CLK_LOCK h = true ∧ t.rd
    Reg.STN_HD_POS_SLOT h = bitsOf y.toNat 0 20) ∧
  (∀ (s : State) (n : Fin 128) (a : Fin 2) (h : Nat) (r : HReq) (x y : BitVec 64) (k : Nat) (j : Int), h = headOf n a →
    (s.head h).longMoves ≠ 0 → (s.head h).stage = 9 → s.axState h ≠ axMoving → s.axState h ≠ axHoming → s.gate n (headWord h
    1) = none → 300 ≤ (s.head h).watch.trkIn → addrPair a x.toNat y.toNat k = true → (s.head h).op = some r → r.kind = 2 → j =
    landing (slotPos (bitsOf y.toNat 0 20) (bitOf y.toNat 21)) (slotPos r.slot r.leadin) (s.landMargin h) → s.jumpMax h <
    j.natAbs → 3 ≤ (s.head h).longMoves → s.gives (.longSeekSettled n a x y k) fun t => t.hd h = hdRecover ∧ (t.head h).op.map
    HReq.kind = some 6 ∧ (r.firmware = false → r.failed = false → (t.head h).again = some { r with failed := true })) ∧
  (∀ (s : State) (n : Fin 128) (a : Fin 2) (h : Nat) (r : HReq), h = headOf n a → s.hd h = hdReady → (s.head h).op = none →
    (s.head h).again = some r → r.kind = 2 → landing (s.posNow h) (slotPos r.slot r.leadin) (s.landMargin h) = 0 → s.gives
    (.seekRestart n a) fun t => t.hd h = hdReady ∧ (t.head h).op = none ∧ (t.head h).again = none) ∧
  (∀ (s : State) (n : Fin 128) (a : Fin 2) (h : Nat), h = headOf n a → (s.head h).onRelay = true → s.gives (.layerMoveEnd n a)
    fun t => (t.head h).readOn = true ∧ (t.head h).stageAt = t.now ∧ (s.head h).dueAt ≤ t.now) ∧
  (∀ (s : State) (n : Fin 128) (a : Fin 2) (h : Nat) (r : HReq), h = headOf n a → (s.head h).waiting = [] → (s.head h).again =
    none → (s.head h).op = some r → r.kind = 3 → r.layer < 16 → (s.head h).onRelay = true → 16 ≤ (s.head h).watch.relIn →
    s.gives (.relayLocked n a) fun t => t.hd h = hdReady ∧ (t.head h).op = none ∧ t.layerOf h = r.layer ∧ t.flag
    Reg.STN_HD_STATUS_REL_LOCK h = true) ∧
  (∀ (s : State) (n : Fin 128) (a : Fin 2) (h : Nat) (r : HReq), h = headOf n a → (s.head h).op = some r → (s.head h).onRelay
    = true → (s.head h).tries < 2 → s.gives (.layerJumpTimeout n a) fun t => (t.head h).tries = (s.head h).tries + 1 ∧ (t.head
    h).readOn = false ∧ (s.head h).stageAt + s.rd1 Reg.STN_HD_LJ_CFG_REL_ACQ_MS h * msCycles ≤ t.now) ∧
  (∀ (s : State) (n : Fin 128) (a : Fin 2) (h : Nat) (r : HReq), h = headOf n a → (s.head h).op = some r → r.kind = 3 →
    (s.head h).onRelay = true → 2 ≤ (s.head h).tries → s.gives (.layerJumpTimeout n a) fun t => t.hd h = hdRecover ∧ (t.head
    h).op.map HReq.kind = some 6 ∧ (r.firmware = false → (t.head h).again = some r)) ∧
  (∀ (s : State) (n : Fin 128) (a : Fin 2) (h : Nat) (l : Fin 5), h = headOf n a → s.mode ≠ mCinder → (s.hd h = hdReady ∨ s.hd
    h = hdSeek ∨ s.hd h = hdOpc) → ((s.head h).watch.lost (s.sliceOf h).isSome l) = true → s.flag Reg.STN_HD_CTRL_AUTO_RECOVER
    h = true → s.gives (.lockLoss n a l) fun t => t.hd h = hdRecover ∧ (t.head h).op.map HReq.kind = some 6 ∧ t.flag
    Reg.STN_HD_STATUS_WRITING h = false) ∧
  (∀ (s : State) (n : Fin 128) (a : Fin 2) (h : Nat) (l : Fin 5), h = headOf n a → s.mode ≠ mCinder → (s.hd h = hdReady ∨ s.hd
    h = hdSeek ∨ s.hd h = hdOpc) → ((s.head h).watch.lost (s.sliceOf h).isSome l) = true → s.flag Reg.STN_HD_CTRL_AUTO_RECOVER
    h = false → s.gives (.lockLoss n a l) fun t => t.hd h = hdParking ∧ (t.head h).parkCause = 2) ∧
  (∀ (s : State) (n : Fin 128) (a : Fin 2) (h : Nat) (r : HReq), h = headOf n a → (s.head h).waiting = [] → (s.head h).again =
    none → (s.head h).op = some r → r.kind = 6 → s.hd h = hdRecover → (s.head h).stage = 7 → (∀ sl, s.sliceOf h = some sl →
    (s.slice sl).reverify = false) → s.gives (.headRecoveryDone n a) fun t => t.hd h = hdReady ∧ (t.head h).op = none ∧
    t.lastEvent 0x0507 [n, a, (s.now - (s.head h).recoverAt) / msCycles]) ∧
  (∀ (s : State) (n : Fin 128) (a : Fin 2) (h : Nat) (r : HReq), h = headOf n a → (s.head h).op = some r → r.kind = 6 → s.hd h
    = hdRecover → s.gives (.headRecoveryTimeout n a) fun t => t.hd h = hdParking ∧ (t.head h).parkCause = 2 ∧ (s.head
    h).recoverAt + s.rd Reg.STN_HD_LOSS_CFG_RECOVER_MS h * 10 * msCycles ≤ t.now) ∧
  (∀ (s : State) (n : Fin 128) (a : Fin 2) (h : Nat), h = headOf n a → 16 ≤ (s.head h).watch.limR → (s.head h).watch.shownR =
    false → s.gives (.powerLimitDetect n a false) fun t => t.flag Reg.STN_HD_STATUS_PWR_LIMITED h = true ∧ t.hd h = s.hd h) ∧
  (∀ (s : State) (n : Fin 128) (a : Fin 2) (h : Nat) (w : Bool), h = headOf n a → (s.head h).watch.limR < 16 → (s.head
    h).watch.limW < 16 → 16 ≤ (s.head h).watch.freeR → 16 ≤ (s.head h).watch.freeW → (if w then (s.head h).watch.shownW else
    (s.head h).watch.shownR) = true → (if w then (s.head h).watch.shownR else (s.head h).watch.shownW) = false → s.gives
    (.powerLimitDetect n a w) fun t => t.flag Reg.STN_HD_STATUS_PWR_LIMITED h = false) ∧
  (∀ (s : State) (n : Fin 128) (a : Fin 2) (h : Nat) (r : HReq) (d : Nat), h = headOf n a → (s.head h).opc.burst < 18432 →
    (s.head h).opc.stage = .back → (s.head h).op = some r → r.kind = 5 → s.hd h = hdOpc → (s.head h).opc.lost = true → (s.head
    h).opcTries = 0 → s.discIn (h / 2) = some d → s.gives (.opcReadback n a) fun t => t.pcaNext h r.layer = s.pcaNext h
    r.layer + 1 ∧ t.hd h = hdOpc ∧ (t.head h).opcTries = 1 ∧ (t.head h).opc.burst = s.pcaNext h r.layer + 1) ∧
  (∀ (s : State) (n : Fin 128) (a : Fin 2) (h : Nat) (r : HReq) (e : Nat), h = headOf n a → (s.head h).waiting = [] → (s.head
    h).again = none → (s.head h).opc.burst < 18432 → (s.head h).opc.stage = .back → (s.head h).op = some r → r.kind = 5 → s.hd
    h = hdOpc → (s.head h).opc.lost = false → (s.head h).opc.rows.length = 8 → e = ((upTo 8).map fun k => ((mfind (s.head
    h).opc.rows k).map fun b => burstErrors b.words (burstPfa (s.head h).opc.burst h r.layer)).getD 6656).foldl min 6656 → e ≤
    s.rd Reg.STN_HD_OPC_RES_E_MAX h → s.gives (.opcReadback n a) fun t => t.flag Reg.STN_HD_WPWR_VALID (layerIdx h r.layer) =
    true ∧ t.rd Reg.STN_HD_OPC_RES_E_MIN h = e ∧ t.hd h = hdReady ∧ (t.head h).op = none) ∧
  (∀ (s : State) (n : Fin 128) (a : Fin 2) (h : Nat) (r : HReq), h = headOf n a → (s.head h).waiting = [] → (s.head h).again =
    none → (s.head h).op = some r → r.kind = 5 → s.hd h = hdOpc → 18432 ≤ (s.head h).opc.burst → s.gives (.opcReadback n a)
    fun t => t.lastEvent 0x050B [h / 2, h % 2, r.layer, s.rd Reg.STN_HD_OPC_RES_E_MIN h, 1] ∧ t.hd h = hdReady ∧ (t.head h).op
    = none) ∧
  (∀ (s : State) (n : Fin 128) (a : Fin 2) (h : Nat), h = headOf n a → s.mode ≠ mCinder → s.hd h = hdParking → (s.head
    h).parkCause ≠ 4 → s.axState h ≠ axMoving → s.axState h ≠ axHoming → (s.head h).stage ≠ 10 → s.axPos h ≠ s.rdS
    Reg.MOT_SLED_PARK_PARK 0 → s.gives (.headParkDone n a) fun t => t.hd h = hdParking ∧ (t.head h).stage = 10 ∧ (s.head
    h).dueAt ≤ t.now) ∧
  (∀ (s : State) (n : Fin 128) (a : Fin 2) (h : Nat), h = headOf n a → s.mode ≠ mCinder → s.hd h = hdParking → ((s.head
    h).parkCause = 4 ∨ (s.axState h ≠ axMoving ∧ s.axState h ≠ axHoming ∧ ((s.head h).stage = 10 ∨ s.axPos h = s.rdS
    Reg.MOT_SLED_PARK_PARK 0))) → s.gives (.headParkDone n a) fun t => t.hd h = (if (s.head h).parkCause = 2 then hdFault else
    hdParked) ∧ (t.head h).op = none ∧ (s.head h).dueAt ≤ t.now)

/-- A set point other than 0 starts a stopped spindle, in SENSE when its configuration is right and else in FAULT (R443,
R452); a set point of 0 brakes a running one. After 20 ms of SENSE the measurement leads to CATCH, reverse braking or
WAIT_SLOW (R453, R454), from which ALIGN may follow (R455, R456). ALIGN starts when the group's gap and the cap allow it
(R457) and leads to RAMP (R458), which hands over to RUN, as CATCH does (R458, R459). A failed attempt counts and is repeated
after 200 ms; the third ends in FAULT with cause START (R460, R461), and a locked rotor in RAMP is such an attempt (R462).
Each of these commands is stated to complete, under its clauses' hypotheses alone: spindleTargetWrite, spindleSenseEnd,
spindleWaitSlowEnd, spindleRevBrakeEnd, spindleAlignStart, spindleAlignEnd, spindleHandover, spindleCatchDone,
spindleAttemptFail, spindleRetry, spindleLockedRotor. -/
def Obligations.SpindleStarts : Prop :=
  (∀ (s : State) (n : Fin 128) (r : BitVec 14), s.mode ≠ mCinder → s.spState n = spStopped → r ≠ 0 → s.gives
    (.spindleTargetWrite n r) fun t => t.rd Reg.STN_SP_TARGET_RPM n = r.toNat ∧ t.spState n = if s.spConfigOk n = true then
    spSense else spFault) ∧
  (∀ (s : State) (n : Fin 128), s.mode ≠ mCinder → s.spState n = spRun → (s.spin n).retryAt = none → s.gives
    (.spindleTargetWrite n 0) fun t => t.rd Reg.STN_SP_TARGET_RPM n = 0 ∧ t.spState n = spBrake ∧ (t.spin n).stopCause = 0) ∧
  (∀ (s : State) (n : Fin 128), s.mode ≠ mCinder → s.spState n = spSense → s.gives (.spindleSenseEnd n) fun t => (s.spin
    n).stateAt + 20 * msCycles ≤ t.now ∧ t.spState n = (s.measure n 750).elim spWaitSlow (fun m => if 300 < m.rpm then spCatch
    else if m.rpm < -100 then spRevBrake else spWaitSlow)) ∧
  (∀ (s : State) (n : Fin 128), s.mode ≠ mCinder → s.spState n = spWaitSlow → s.gives (.spindleWaitSlowEnd n) fun t => (t.spin
    n).alignReady = true ∧ t.spState n = spWaitSlow ∧ ((s.spin n).lowFrom = none → (s.spin n).stateAt + hz ≤ t.now)) ∧
  (∀ (s : State) (n : Fin 128), s.mode ≠ mCinder → s.spState n = spRevBrake → (rpmOf (s.obsSpeed n)).natAbs < 60 → s.gives
    (.spindleRevBrakeEnd n) fun t => (t.spin n).alignReady = true ∧ t.spState n = spRevBrake) ∧
  (∀ (s : State) (n : Fin 128), s.mode ≠ mCinder → (s.spin n).alignReady = true → s.spinupGap n = true → s.capAdmits (s.rd
    Reg.PWR_WEIGHT_STN_START_W 0) = true → s.gives (.spindleAlignStart n) fun t => t.spState n = spAlign ∧ (t.spin
    n).alignReady = false ∧ (t.spin n).stateAt = s.now) ∧
  (∀ (s : State) (n : Fin 128), s.mode ≠ mCinder → s.spState n = spAlign → s.gives (.spindleAlignEnd n) fun t => t.spState n =
    spRamp ∧ (s.spin n).stateAt + max 1 (s.spRd n Reg.STN_SP_START_CFG_ALIGN_MS) * msCycles ≤ t.now) ∧
  (∀ (s : State) (n : Fin 128), s.mode ≠ mCinder → s.spState n = spRamp → 64 ≤ (s.spin n).handRuns → (s.spin n).topAt ≠ none →
    s.gives (.spindleHandover n) fun t => t.spState n = spRun ∧ (t.spin n).commAt = s.now ∧ (t.spin n).bandFrom = none) ∧
  (∀ (s : State) (n : Fin 128), s.mode ≠ mCinder → s.spState n = spCatch → 64 ≤ (s.spin n).resLow → (s.spin n).catchBad =
    false → s.gives (.spindleCatchDone n) fun t => t.spState n = spRun ∧ t.lastEvent 0x0602 ([n.val] ++ i1 (rpmOf (s.obsSpeed
    n)) ++ [if (s.spin n).lossCatch then 1 else 0])) ∧
  (∀ (s : State) (n : Fin 128) (x : Nat), s.mode ≠ mCinder → s.spState n = spRamp → (s.spin n).retryAt = none → (s.spin
    n).topAt = some x → s.rd Reg.STN_SP_STATUS_ATTEMPT n < 3 → s.gives (.spindleAttemptFail n) fun t => t.rd
    Reg.STN_SP_STATUS_ATTEMPT n = s.rd Reg.STN_SP_STATUS_ATTEMPT n + 1 ∧ (t.spin n).retryAt = some (t.now + 200 * msCycles) ∧
    x + hz ≤ t.now) ∧
  (∀ (s : State) (n : Fin 128) (x : Nat), s.mode ≠ mCinder → s.spState n = spRamp → (s.spin n).retryAt = none → (s.spin
    n).topAt = some x → s.rd Reg.STN_SP_STATUS_ATTEMPT n = 3 → s.gives (.spindleAttemptFail n) fun t => t.spState n = spFault
    ∧ t.rd Reg.STN_SP_STATUS_FAULT_CAUSE n = 1) ∧
  (∀ (s : State) (n : Fin 128) (x : Nat), s.mode ≠ mCinder → (s.spin n).retryAt = some x → s.gives (.spindleRetry n) fun t =>
    t.spState n = spSense ∧ (t.spin n).retryAt = none ∧ x ≤ t.now) ∧
  (∀ (s : State) (n : Fin 128), s.mode ≠ mCinder → s.spState n = spRamp → (s.spin n).retryAt = none → (s.spin n).commAt ≤
    (s.spin n).stateAt → s.rd Reg.STN_SP_STATUS_ATTEMPT n < 3 → s.gives (.spindleLockedRotor n) fun t => t.rd
    Reg.STN_SP_STATUS_ATTEMPT n = s.rd Reg.STN_SP_STATUS_ATTEMPT n + 1 ∧ (t.spin n).retryAt = some (t.now + 200 * msCycles) ∧
    (s.spin n).stateAt + 400 * msCycles ≤ t.now)

/-- 100 ms within the band is reported as AT_SPEED (R446), 16 runs within PH_LOCK as PHASE_LOCKED where phase lock acts (R447,
R449). A rotor locked in RUN leads to FAULT (R462). A lost observer leads to REACQ, with the station's active heads waiting
(R465, R466); a valid measurement then leads to CATCH or BRAKE, none in 200 ms to BRAKE by short braking (R467, R468, R473). A
rise of Vdc switches active braking over (R471). BRAKE leads to HOLD and HOLD to STOPPED (R474), a braking of 30 s to FAULT
(R475), and CLEAR leaves FAULT for STOPPED (R477). Each of these commands is stated to complete, under its clauses' hypotheses
alone: spindleLockedRotor, spindleObserverLoss, spindleReacquired, spindleReacqTimeout, spindleVbusChange, spindleBrakeEnd,
spindleHoldEnd, spindleBrakeTimeout, spindleAtSpeed, phaseLockChange, spindleClearFault. -/
def Obligations.SpindleRunsAndStops : Prop :=
  (∀ (s : State) (n : Fin 128), s.mode ≠ mCinder → s.spState n = spRun → s.gives (.spindleLockedRotor n) fun t => t.spState n
    = spFault ∧ t.rd Reg.STN_SP_STATUS_FAULT_CAUSE n = 2 ∧ (s.spin n).commAt + 50 * msCycles ≤ t.now) ∧
  (∀ (s : State) (n : Fin 128) (w : Nat), s.mode ≠ mCinder → s.spState n = spRun → s.observerLost n = some w → s.gives
    (.spindleObserverLoss n) fun t => t.spState n = spReacq ∧ ∀ a : Fin 2, s.headUp (headOf n a) = true → s.hd (headOf n a) ≠
    hdParking → t.hd (headOf n a) = hdSpinWait) ∧
  (∀ (s : State) (n : Fin 128) (m : Meas), s.mode ≠ mCinder → s.spState n = spReacq → s.measure n 150 = some m → s.gives
    (.spindleReacquired n) fun t => t.spState n = if (3 * s.setPoint n : Nat) < (10 * m.rpm : Int) ∧ 0 < s.setPoint n then
    spCatch else spBrake) ∧
  (∀ (s : State) (n : Fin 128), s.mode ≠ mCinder → s.spState n = spReacq → s.gives (.spindleReacqTimeout n) fun t => t.spState
    n = spBrake ∧ (t.spin n).tracked = false ∧ (s.spin n).openAt + 200 * msCycles ≤ t.now) ∧
  (∀ (s : State) (n : Fin 128), s.mode ≠ mCinder → (s.spState n = spBrake ∨ s.spState n = spRevBrake) → (s.spin n).tracked =
    true → s.flag Reg.STN_SP_STATUS_SHORT n = false → s.coef (s.rd Reg.STN_SP_SLOTS_FOC_SLOT n) 5 * (s.spRd n
    Reg.STN_SP_BRAKE_CFG_VBUS_MAX : Int) < s.sensor n 21 * 128 → s.gives (.spindleVbusChange n) fun t => t.flag
    Reg.STN_SP_STATUS_SHORT n = true ∧ t.spState n = s.spState n) ∧
  (∀ (s : State) (n : Fin 128), s.mode ≠ mCinder → s.spState n = spBrake → s.brakeRpm n < s.spRd n
    Reg.STN_SP_BRAKE_CFG_STOP_RPM → s.gives (.spindleBrakeEnd n) fun t => t.spState n = spHold ∧ (t.spin n).stateAt = s.now ∧
    t.flag Reg.STN_SP_STATUS_SHORT n = false) ∧
  (∀ (s : State) (n : Fin 128), s.mode ≠ mCinder → s.spState n = spHold → (s.spin n).stopCause = 2 → s.gives (.spindleHoldEnd
    n) fun t => t.spState n = spStopped ∧ t.lastEvent 0x0609 [n, 2] ∧ (s.spin n).stateAt + s.spRd n
    Reg.STN_SP_BRAKE_CFG_HOLD_MS * 10 * msCycles ≤ t.now) ∧
  (∀ (s : State) (n : Fin 128), s.mode ≠ mCinder → s.spState n = spBrake → s.gives (.spindleBrakeTimeout n) fun t => t.spState
    n = spFault ∧ t.rd Reg.STN_SP_STATUS_FAULT_CAUSE n = 5 ∧ (s.spin n).brakeAt + 30 * hz ≤ t.now) ∧
  (∀ (s : State) (n : Fin 128) (x : Nat), s.mode ≠ mCinder → s.spState n = spRun → (s.spin n).bandFrom = some x → s.flag
    Reg.STN_SP_STATUS_AT_SPEED n = false → s.gives (.spindleAtSpeed n) fun t => t.flag Reg.STN_SP_STATUS_AT_SPEED n = true ∧
    t.spState n = spRun ∧ x + 100 * msCycles ≤ t.now) ∧
  (∀ (s : State) (n : Fin 128), s.mode ≠ mCinder → s.flag Reg.STN_SP_STATUS_PHASE_LOCKED n = false → 16 ≤ (s.spin n).phaseRuns
    → s.phaseOn n = true → s.gives (.phaseLockChange n) fun t => t.flag Reg.STN_SP_STATUS_PHASE_LOCKED n = true ∧ t.lastEvent
    0x060A [n, 1]) ∧
  (∀ (s : State) (n : Fin 128), s.mode ≠ mCinder → s.flag Reg.STN_SP_STATUS_PHASE_LOCKED n = true → (s.spin n).phiBad = true →
    s.gives (.phaseLockChange n) fun t => t.flag Reg.STN_SP_STATUS_PHASE_LOCKED n = false ∧ t.lastEvent 0x060A [n, 0]) ∧
  (∀ (s : State) (n : Fin 128), s.mode ≠ mCinder → s.spState n = spFault → s.rd Reg.STN_SP_TARGET_RPM n = 0 → s.gives
    (.spindleClearFault n) fun t => t.spState n = spStopped ∧ t.rd Reg.STN_SP_STATUS_FAULT_CAUSE n = 0)

/-- A MOVE of an IDLE axis with a good profile to a target within its limits starts a plan from the present position (R486,
R494); one of an axis without its reference, outside the limits or of a sled in use is refused with its code (R494, R495,
R505). STOP replaces the rest of a plan by a deceleration, and ends one that has not begun (R493), HOME makes it home (R506,
R507), CLEAR leaves FAULT once the fault input is 0 (R511). A TARGET write while the axis moves is discarded (R492). A move
that ends stands at its target (R486), a homing run leaves the axis referenced (R506, R507), on a picker at HOME_POS, or a
picker axis unreferenced where the sensor was not found (R507). The fault input stops the axis in FAULT (R509). STOP_ALL stops
every axis so (R530). Entries of a plan go to the front end as far as its queue takes them (R141, R498). Each of these
commands is stated to complete, under its clauses' hypotheses alone: axisMove, axisStop, axisHome, axisClear, axisTargetWrite,
axisMoveDone, axisHomeDone, axisFaultInput, motionStopAll, stepSend. -/
def Obligations.MotionEngineMoves : Prop :=
  (∀ (s : State) (a : Fin 264), s.flag Reg.MOT_AX_CMD_BUSY a = false → s.sledFree a = true → s.axState a = axIdle →
    s.motionHeld = false → s.mode ≠ mKiln → s.badProfile a = false → s.tooFast a (s.rdS Reg.MOT_AX_TARGET_VALUE a) = false →
    s.inLimits a (s.rdS Reg.MOT_AX_TARGET_VALUE a) = true → (isPicker a = true → s.doorOk = true) → s.gives (.axisMove a) fun
    t => t.axState a = axMoving ∧ t.flag Reg.MOT_AX_CMD_BUSY a = true ∧ (t.axis a).plan.map (fun p => (p.a, p.b)) = some
    (s.axPos a, s.rdS Reg.MOT_AX_TARGET_VALUE a)) ∧
  (∀ (s : State) (a : Fin 264), s.flag Reg.MOT_AX_CMD_BUSY a = false → s.sledFree a = true → s.axState a = axUnref → s.gives
    (.axisMove a) fun t => t.rd Reg.MOT_AX_CMD_RESULT a = 1 ∧ (s.flag Reg.MOT_ERR_VALID 0 = false → t.rd Reg.MOT_ERR_CODE 0 =
    3 ∧ t.rd Reg.MOT_ERR_AXIS 0 = a) ∧ t.axes = s.axes) ∧
  (∀ (s : State) (a : Fin 264), s.flag Reg.MOT_AX_CMD_BUSY a = false → s.sledFree a = true → s.axState a = axIdle →
    s.motionHeld = false → s.badProfile a = false → s.tooFast a (s.rdS Reg.MOT_AX_TARGET_VALUE a) = false → s.inLimits a
    (s.rdS Reg.MOT_AX_TARGET_VALUE a) = false → s.gives (.axisMove a) fun t => t.rd Reg.MOT_AX_CMD_RESULT a = 1 ∧ (s.flag
    Reg.MOT_ERR_VALID 0 = false → t.rd Reg.MOT_ERR_CODE 0 = 2) ∧ t.axes = s.axes) ∧
  (∀ (s : State) (a : Fin 264), s.flag Reg.MOT_AX_CMD_BUSY a = false → s.sledFree a = false → s.gives (.axisMove a) fun t =>
    t.rd Reg.MOT_AX_CMD_RESULT a = 1 ∧ (s.flag Reg.MOT_ERR_VALID 0 = false → t.rd Reg.MOT_ERR_CODE 0 = 5) ∧ t.axes = s.axes) ∧
  (∀ (s : State) (a : Fin 264) (p : Plan), s.axState a = axMoving → (s.axis a).held = none → (s.axis a).plan = some p → p.at_
    = none → s.gives (.axisStop a) fun t => t.axState a = axIdle ∧ (t.axis a).plan = none ∧ t.flag Reg.MOT_AX_CMD_BUSY a =
    false ∧ (t.axis a).speed = 0) ∧
  (∀ (s : State) (a : Fin 264) (p : Plan) (x : Nat), s.axState a = axMoving → (s.axis a).held = none → (s.axis a).plan = some
    p → p.at_ = some x → p.cut = none → s.gives (.axisStop a) fun t => t.axState a = axMoving ∧ (t.axis a).plan = some
    (s.braked a p x) ∧ t.axPos a = s.axPos a) ∧
  (∀ (s : State) (a : Fin 264), s.flag Reg.MOT_AX_CMD_BUSY a = false → s.sledFree a = true → (s.axState a = axUnref ∨
    s.axState a = axIdle) → s.motionHeld = false → s.mode ≠ mKiln → a.val < 256 → s.gives (.axisHome a) fun t => t.axState a =
    axHoming ∧ t.flag Reg.MOT_AX_CMD_BUSY a = true ∧ (t.axis a).plan.map (fun p => p.a) = some (s.axPos a)) ∧
  (∀ (s : State) (a : Fin 264), s.flag Reg.MOT_AX_CMD_BUSY a = false → s.sledFree a = true → (s.axState a = axUnref ∨
    s.axState a = axIdle) → s.motionHeld = false → s.mode ≠ mKiln → 256 ≤ a.val → s.doorOk = true → s.gives (.axisHome a) fun
    t => t.axState a = axHoming ∧ t.flag Reg.MOT_AX_CMD_BUSY a = true ∧ (t.axis a).plan.map (fun p => p.a) = some (s.axPos a))
      ∧
  (∀ (s : State) (a : Fin 264), s.flag Reg.MOT_AX_CMD_BUSY a = false → s.axState a = axFault → (s.axis a).flt = false →
    s.gives (.axisClear a) fun t => t.axState a = axUnref ∧ t.rd Reg.MOT_AX_CMD_RESULT a = 0) ∧
  (∀ (s : State) (a : Fin 264) (v : BitVec 32), s.flag Reg.MOT_AX_STATUS_MOVING a = false → s.gives (.axisTargetWrite a v) fun
    t => t.rd Reg.MOT_AX_TARGET_VALUE a = v.toNat) ∧
  (∀ (s : State) (a : Fin 264) (v : BitVec 32), s.flag Reg.MOT_AX_STATUS_MOVING a = true → s.gives (.axisTargetWrite a v) fun
    t => t.rd Reg.MOT_AX_TARGET_VALUE a = s.rd Reg.MOT_AX_TARGET_VALUE a ∧ (s.flag Reg.MOT_ERR_VALID 0 = false → t.rd
    Reg.MOT_ERR_CODE 0 = 1)) ∧
  (∀ (s : State) (a : Fin 264) (p : Plan) (x : Nat), (s.axis a).plan = some p → p.endAt = some x → p.cut = none → s.axState a
    = axMoving → s.stepping a = true → s.lib.opening = false → s.gives (.axisMoveDone a) fun t => t.axPos a = signed 32
    (unsignedOf 32 p.b) ∧ (t.axis a).plan = none ∧ t.flag Reg.MOT_AX_CMD_BUSY a = false ∧ x ≤ t.now) ∧
  (∀ (s : State) (a : Fin 264) (p : Plan) (x f r : Nat) (b : Bool), s.axState a = axHoming → (s.axis a).plan = some p →
    p.endAt = some x → p.cut = none → s.stepping a = true → a.val < 256 → (s.axis a).after = none → s.gives (.axisHomeDone a b
    r f) fun t => t.flag Reg.MOT_AX_STATUS_REF a = true ∧ t.axPos a = 0 ∧ (t.axis a).plan = none ∧ x ≤ t.now ∧ t.lastEvent
    0x0701 [a]) ∧
  (∀ (s : State) (a : Fin 264) (p : Plan) (x f r : Nat), s.axState a = axHoming → (s.axis a).plan = some p → p.endAt = some x
    → p.cut = none → s.stepping a = true → 256 ≤ a.val → s.lib.opening = false → s.gives (.axisHomeDone a false r f) fun t =>
    t.axState a = axUnref ∧ (t.axis a).plan = none ∧ x ≤ t.now ∧ t.lastEvent 0x0702 [a]) ∧
  (∀ (s : State) (a : Fin 264) (p : Plan) (x f r : Nat), s.axState a = axHoming → (s.axis a).plan = some p → p.at_ = some x →
    p.cut = none → s.stepping a = true → 256 ≤ a.val → (s.axis a).after = none → s.lib.opening = false → s.gives
    (.axisHomeDone a true r f) fun t => t.flag Reg.MOT_AX_STATUS_REF a = true ∧ t.axPos a = s.rdS Reg.MOT_AX_HOME_POS_VALUE a
    ∧ x + f ≤ t.now) ∧
  (∀ (s : State) (j : Fin 8), s.gives (.axisFaultInput j true) fun t => t.axState (256 + j) = axFault ∧ (t.axis (256 + j)).flt
    = true ∧ (t.axis (256 + j)).plan = none ∧ t.rd Reg.LIB_PK_STATE (pickerOf (256 + j)) = 5) ∧
  (∀ (s : State) (j : Fin 8), s.gives (.axisFaultInput j false) fun t => (t.axis (256 + j)).flt = false ∧ t.axState (256 + j)
    = s.axState (256 + j)) ∧
  (∀ (s : State) (a x : Nat) (p : Plan), (s.axis a).held = none → (s.axis a).plan = some p → p.at_ = some x → p.cut = none →
    s.gives (.motionStopAll) fun t => (t.axis a).plan = some (s.braked a p x) ∧ t.now = s.now) ∧
  (∀ (s : State) (a : Nat) (p : Plan), (s.axis a).held = none → (s.axis a).plan = some p → p.at_ = none → s.gives
    (.motionStopAll) fun t => (t.axis a).plan = none ∧ t.now = s.now) ∧
  (∀ (s : State) (n : Fin 128) (b : Fin 2) (k : Nat), s.active n = true → s.flag Reg.MOT_CTRL_EN 0 = true → (s.axis (2 * n +
    b)).plan = none → s.axState (2 * n + b) = axFollow → (s.axis (2 * n + b)).demand = 0 → s.gives (.stepSend n b k) fun t =>
    (t.axis (2 * n + b)).speed = 0 ∧ t.rd Reg.MOT_AX_STATUS_SPEED (2 * n + b) = 0 ∧ t.out = s.out) ∧
  (∀ (s : State) (n : Fin 128) (b : Fin 2) (k x l : Nat) (p : Plan), s.active n = true → s.flag Reg.MOT_CTRL_EN 0 = true →
    (s.axis (2 * n + b)).plan = some p → p.at_ = some x → l = max k (p.reached x (s.now + 40000) 32 0 + 1 - p.next) → 0 < l →
    l ≤ 16 → l ≤ s.stepRoom n (2 * n + b) → p.next ≤ p.steps → s.gives (.stepSend n b k) fun t => (t.axis (2 * n + b)).plan =
    some (planEntries l p (s.axis (2 * n + b)).phase).2.1 ∧ (t.axis (2 * n + b)).phase = (planEntries l p (s.axis (2 * n +
    b)).phase).2.2 ∧ (t.stn n).stepUnacked.map Unacked.blocks = (s.stn n).stepUnacked.map Unacked.blocks ++ [(planEntries l p
    (s.axis (2 * n + b)).phase).1])

/-- Training that succeeds leaves memory zero, unless a warm reset kept it, and the rate shown (R731, R735); a population
against R730 or a channel not trained enters CINDER (R732). The fill ends with INIT_DONE (R735). The scrub goes to its next
line, logs a new uncorrectable one and leaves it (R744), and counts a pass at the end (R745). Self-refresh begins in EMBER 10
µs after the last access (R746). A whole line drains at once, a sole partial one 256 cycles after its last write, and memory
reads as before (R741, R753); a core's write is read back at once (R752), a corrected SRAM word counts (R743), and a second
trap of a core before its handler has run enters CINDER (R750). Each of these commands is stated to complete, under its
clauses' hypotheses alone: dramTrainingDone, dramInitDone, scrubStep, selfRefreshEnter, mergeBufferDrain. -/
def Obligations.MemoryTrainingScrubAndBuffer : Prop :=
  (∀ (s : State) (l : List ChanObs) (r : Nat), badFit l = none → rateOf l = some r → (∀ c ∈ l, c.fitted = true → c.trained =
    true) → s.ms.trainedAt = none → r < 2 ^ Reg.MEMC_CHAN_RATE.w → s.gives (.dramTrainingDone l) fun t => t.flag
    Reg.MEMC_STATUS_TRAINED 0 = true ∧ t.flag Reg.MEMC_STATUS_INIT_DONE 0 = false ∧ t.mem = [] ∧ t.ms.trainedAt = some s.now ∧
    ∀ i : Fin 4, (l[i.val]?).map ChanObs.fitted = some true → t.rd Reg.MEMC_CHAN_RATE i = r) ∧
  (∀ (s : State) (l : List ChanObs) (r x : Nat), badFit l = none → rateOf l = some r → (∀ c ∈ l, c.fitted = true → c.trained =
    true) → s.ms.trainedAt = some x → s.gives (.dramTrainingDone l) fun t => t.flag Reg.MEMC_STATUS_TRAINED 0 = true ∧ t.flag
    Reg.MEMC_STATUS_INIT_DONE 0 = true ∧ t.mem = s.mem ∧ t.ms.trainedAt = some x) ∧
  (∀ (s : State) (l : List ChanObs), (badFit l ≠ none ∨ rateOf l = none ∨ ∃ i : Fin 4, (l[i.val]?).any (fun c => c.fitted &&
    !c.trained) = true) → s.mode ≠ mCinder → s.mode ≠ mBanked → s.gives (.dramTrainingDone l) fun t => t.mode = mCinder ∧ t.rd
    Reg.GCTL_STATUS_CINDER_CAUSE 0 = cDram) ∧
  (∀ (s : State) (dt x : Nat), s.ms.trainedAt = some x → s.flag Reg.MEMC_STATUS_INIT_DONE 0 = false → s.flag
    Reg.MEMC_STATUS_TRAINED 0 = true → s.gives (.dramInitDone dt) fun t => t.flag Reg.MEMC_STATUS_INIT_DONE 0 = true ∧
    t.lastEvent 0x0A09 [(t.now - x) / msCycles] ∧ t.now = s.now + dt) ∧
  (∀ (s : State), s.flag Reg.MEMC_STATUS_TRAINED 0 = true → s.flag Reg.MEMC_STATUS_SELF_REFRESH 0 = false → s.mode ≠ mEmber →
    s.mode ≠ mBanked → s.rd Reg.MEMC_SCRUB_CFG_HOURS 0 ≠ 0 → s.ms.merge = [] → s.ms.ue = [] → s.ms.ce = [] → s.rd
    Reg.MEMC_SCRUB_POS_POS 0 + 64 < s.fittedDram → s.gives (.scrubStep .asStored) fun t => t.rd Reg.MEMC_SCRUB_POS_POS 0 =
    (s.rd Reg.MEMC_SCRUB_POS_POS 0 + 64) % 2 ^ Reg.MEMC_SCRUB_POS_POS.w ∧ t.ms = s.ms ∧ t.mem = s.mem) ∧
  (∀ (s : State) (w : Nat), s.flag Reg.MEMC_STATUS_TRAINED 0 = true → s.flag Reg.MEMC_STATUS_SELF_REFRESH 0 = false → s.mode ≠
    mEmber → s.mode ≠ mBanked → s.rd Reg.MEMC_SCRUB_CFG_HOURS 0 ≠ 0 → s.ms.merge = [] → s.ms.ue = [] → s.rd
    Reg.MEMC_SCRUB_POS_POS 0 + 64 < s.fittedDram → s.gives (.scrubStep (.uncorrectable w)) fun t => t.ms.ue = [(lineOf (s.rd
    Reg.MEMC_SCRUB_POS_POS 0), w)] ∧ t.ms.passUe = s.ms.passUe + 1 ∧ t.mem = s.mem) ∧
  (∀ (s : State), s.flag Reg.MEMC_STATUS_TRAINED 0 = true → s.flag Reg.MEMC_STATUS_SELF_REFRESH 0 = false → s.mode ≠ mEmber →
    s.mode ≠ mBanked → s.rd Reg.MEMC_SCRUB_CFG_HOURS 0 ≠ 0 → s.ms.merge = [] → s.ms.ue = [] → s.ms.ce = [] → s.fittedDram ≤
    s.rd Reg.MEMC_SCRUB_POS_POS 0 + 64 → s.rd Reg.MEMC_SCRUB_PASSES_PASSES 0 < 2 ^ Reg.MEMC_SCRUB_PASSES_PASSES.w - 1 →
    s.gives (.scrubStep .asStored) fun t => t.rd Reg.MEMC_SCRUB_POS_POS 0 = 0 ∧ t.rd Reg.MEMC_SCRUB_PASSES_PASSES 0 = s.rd
    Reg.MEMC_SCRUB_PASSES_PASSES 0 + 1 ∧ t.lastEvent 0x0A03 [s.ms.passCe, s.ms.passUe] ∧ t.ms.passCe = 0) ∧
  (∀ (s : State), s.mode = mEmber → s.flag Reg.MEMC_STATUS_TRAINED 0 = true → s.gives (.selfRefreshEnter) fun t => t.flag
    Reg.MEMC_STATUS_SELF_REFRESH 0 = true ∧ s.ms.accessAt + 15000 ≤ t.now) ∧
  (∀ (s : State) (e : Merge), s.ms.merge = [e] → e.mask = 2 ^ 64 - 1 → s.gives (.mergeBufferDrain []) fun t => t.ms.merge = []
    ∧ t.mem = s.mem ∧ t.now = s.now) ∧
  (∀ (s : State) (e : Merge), s.ms.merge = [e] → e.mask ≠ 2 ^ 64 - 1 → s.gives (.mergeBufferDrain []) fun t => t.ms.merge = []
    ∧ t.mem = s.mem ∧ e.at_ + 256 ≤ t.now) ∧
  (∀ (s : State) (k a v : Nat), Memory.wf s.mem = true → s.ms.merge = [] → s.fwRuns = true → a < 2 ^ 32 → v < 256 → s.gives
    (.mergeBufferDrain [.write k a [v]]) fun t => t.byte a = v ∧ (∀ b, b ≠ a → t.byte b = s.byte b) ∧ t.ms.merge = [] ∧ s.now
    + 256 ≤ t.now) ∧
  (∀ (s : State) (u : Fin 9), s.ms.merge = [] → s.mode ≠ mBanked → s.rd Reg.MEMC_SRAM_CE_COUNT u < 2 ^
    Reg.MEMC_SRAM_CE_COUNT.w - 1 → s.gives (.mergeBufferDrain [.corrected u]) fun t => t.rd Reg.MEMC_SRAM_CE_COUNT u = s.rd
    Reg.MEMC_SRAM_CE_COUNT u + 1 ∧ t.mode = s.mode) ∧
  (∀ (s : State) (k a b : Nat), s.ms.merge = [] → s.fwRuns = true → s.mode ≠ mCinder → s.gives (.mergeBufferDrain [.localBad k
    a, .localBad k b]) fun t => t.mode = mCinder ∧ t.rd Reg.GCTL_STATUS_CINDER_CAUSE 0 = cMemory)

/-- An operation of firmware over a range within memory sets BUSY and leaves no line of the range valid (INVALIDATE with
FORCE), no entry of it in the merging buffer (DRAIN), or its line locked where a locked way is free (LOAD_LOCK) (R759, R760);
the host's writes are discarded (R767). It ends with RESULT 2 where lines were skipped, else 0 (R760). A way lock of at most
12 powered ways is taken, any other sets LOCK_ERR (R763); a group with a locked way keeps its power (R764). Error injection is
armed (R767). Each of these commands is stated to complete, under its clauses' hypotheses alone: cacheInvalidate, cacheDrain,
cacheDrainInvalidate, cacheLoadLock, cacheOpDone, cacheWayLockWrite, cacheWayPowerWrite, eccInjectArm. -/
def Obligations.CacheMaintenanceActs : Prop :=
  (∀ (s : State) (c : Src), c ≠ .host → s.flag Reg.MEMC_CACHE_OP_BUSY 0 = false → s.cacheRange.2 ≤ 2 ^ 26 → s.gives
    (.cacheInvalidate c true) fun t => t.flag Reg.MEMC_CACHE_OP_BUSY 0 = true ∧ (∀ x ∈ t.ms.lines, within s.cacheRange x.line
    = false) ∧ ∀ x ∈ s.ms.lines, within s.cacheRange x.line = false → x ∈ t.ms.lines) ∧
  (∀ (s : State) (c : Src) (f : Bool), c ≠ .host → s.flag Reg.MEMC_CACHE_OP_BUSY 0 = false → s.cacheRange.2 ≤ 2 ^ 26 → s.gives
    (.cacheDrain c f) fun t => t.flag Reg.MEMC_CACHE_OP_BUSY 0 = true ∧ (∀ x ∈ t.ms.merge, within s.cacheRange x.line = false)
    ∧ t.ms.lines = s.ms.lines ∧ t.mem = s.mem) ∧
  (∀ (s : State) (c : Src), c ≠ .host → s.flag Reg.MEMC_CACHE_OP_BUSY 0 = false → s.cacheRange.2 ≤ 2 ^ 26 → s.gives
    (.cacheDrainInvalidate c true) fun t => t.flag Reg.MEMC_CACHE_OP_BUSY 0 = true ∧ (∀ x ∈ t.ms.merge, within s.cacheRange
    x.line = false) ∧ ∀ x ∈ t.ms.lines, within s.cacheRange x.line = false) ∧
  (∀ (s : State) (c : Src) (f : Bool) (w : Nat), c ≠ .host → s.flag Reg.MEMC_CACHE_OP_BUSY 0 = false → s.cacheRange.2 ≤ 2 ^ 26
    → s.cacheRange.2 = s.cacheRange.1 + 1 → (∀ x ∈ s.ms.lines, x.line ≠ s.cacheRange.1) → s.lockedWay s.cacheRange.1 = some w
    → s.ms.ue = [] → s.gives (.cacheLoadLock c f) fun t => t.flag Reg.MEMC_CACHE_OP_BUSY 0 = true ∧
    { line := s.cacheRange.1, way := w, locked := true, data := s.bytes (s.cacheRange.1 * 64) 64 } ∈ t.ms.lines) ∧
  (∀ (s : State) (f : Bool), s.gives (.cacheInvalidate .host f) fun t => t = s) ∧
  (∀ (s : State) (dt : Nat), s.flag Reg.MEMC_CACHE_OP_BUSY 0 = true → s.gives (.cacheOpDone dt) fun t => t.flag
    Reg.MEMC_CACHE_OP_BUSY 0 = false ∧ t.rd Reg.MEMC_CACHE_OP_RESULT 0 = (if s.ms.skipped = true then 2 else 0) ∧ t.now =
    s.now + dt) ∧
  (∀ (s : State) (c : Src) (m : BitVec 16), c ≠ .host → countBits 16 m.toNat ≤ 12 → (∀ w : Fin 16, bitOf m.toNat w = true →
    bitOf (s.rd Reg.MEMC_CACHE_PWR_PWR_STATE 0) (w / 4) = true) → s.gives (.cacheWayLockWrite c m) fun t => t.rd
    Reg.MEMC_CACHE_LOCK_LOCK 0 = m.toNat ∧ ∀ x ∈ t.ms.lines, x.locked = true → bitOf m.toNat x.way = true) ∧
  (∀ (s : State) (c : Src) (m : BitVec 16), c ≠ .host → 12 < countBits 16 m.toNat → s.gives (.cacheWayLockWrite c m) fun t =>
    t.flag Reg.MEMC_CACHE_STAT_LOCK_ERR 0 = true ∧ t.rd Reg.MEMC_CACHE_LOCK_LOCK 0 = s.rd Reg.MEMC_CACHE_LOCK_LOCK 0 ∧ t.ms =
    s.ms) ∧
  (∀ (s : State) (c : Src) (m : BitVec 4), c ≠ .host → (∀ w : Fin 16, bitOf (s.rd Reg.MEMC_CACHE_LOCK_LOCK 0) w = true → bitOf
    (m.toNat ||| 1) (w / 4) = true) → s.gives (.cacheWayPowerWrite c m) fun t => t.rd Reg.MEMC_CACHE_PWR_PWR_STATE 0 = m.toNat
    ||| 1 ∧ t.mem = s.mem) ∧
  (∀ (s : State) (c : Src) (m : BitVec 4) (w : Fin 16), c ≠ .host → bitOf (s.rd Reg.MEMC_CACHE_LOCK_LOCK 0) w = true → bitOf
    (m.toNat ||| 1) (w / 4) = false → s.gives (.cacheWayPowerWrite c m) fun t => t.flag Reg.MEMC_CACHE_STAT_LOCK_ERR 0 = true
    ∧ t.rd Reg.MEMC_CACHE_PWR_PWR_STATE 0 = s.rd Reg.MEMC_CACHE_PWR_PWR_STATE 0) ∧
  (∀ (s : State) (w : BitVec 2) (d : Bool), s.gives (.eccInjectArm w d) fun t => t.flag Reg.MEMC_INJ_CTRL_ARM 0 = true ∧ t.rd
    Reg.MEMC_INJ_CTRL_CODEWORD 0 = w.toNat ∧ t.flag Reg.MEMC_INJ_CTRL_DOUBLE 0 = d)

/-- A link that comes up shows its rate and width (R570, R617). A configuration request before FW_READY is answered with retry
status; after it, a read of offset 0 gives the device's numbers, and a write of the MSI-X control takes effect (R573, R606,
R613). A host endpoint reset takes the link down and removes queues and groups (R616). A decoder commit of one way and the
right size commits (R572, R578). Peer window shadows that pass the check become active together (R599, R600); a bad one is
reported. An invalidation removes the matching translations and is answered (R593). Each of these commands is stated to
complete, under its clauses' hypotheses alone: hostLinkUp, configRequest, hostEndpointReset, hdmDecoderCommit,
peerWindowCommit, peerCommitEffect, atsInvalidate, translationCompletion. -/
def Obligations.HostEndpointActs : Prop :=
  (∀ (s : State) (r w : Nat) (c : Bool), s.flag Reg.HEP_STATUS_LINK_UP 0 = false → 1 ≤ r → r ≤ 5 → w = 4 ∨ w = 8 ∨ w = 16 →
    s.mode ≠ mBanked → s.pw.porst = false → (c = true → 3 ≤ r) → s.gives (.hostLinkUp r w c) fun t => t.flag
    Reg.HEP_STATUS_LINK_UP 0 = true ∧ t.rd Reg.HEP_STATUS_SPEED 0 = r ∧ t.rd Reg.HEP_STATUS_WIDTH 0 = w ∧ t.flag
    Reg.HEP_STATUS_CXL 0 = c) ∧
  (∀ (s : State) (r : CfgReq), s.flag Reg.HEP_STATUS_LINK_UP 0 = true → s.flag Reg.GCTL_STATUS_FW_READY 0 = false → s.mode ≠
    mCinder → s.gives (.configRequest r) fun t => t.out = .cfgRetry :: s.out ∧ t.regs = s.regs ∧ t.hep = s.hep) ∧
  (∀ (s : State), s.flag Reg.HEP_STATUS_LINK_UP 0 = true → s.flag Reg.GCTL_STATUS_FW_READY 0 = true → s.gives (.configRequest
    (.read 0)) fun t => t.out = .cfgData 0 0x81281D8B :: s.out ∧ t.regs = s.regs) ∧
  (∀ (s : State) (en mask : Bool), s.flag Reg.HEP_STATUS_LINK_UP 0 = true → s.flag Reg.GCTL_STATUS_FW_READY 0 = true → s.gives
    (.configRequest (.msix en mask)) fun t => t.hep.msixEn = en ∧ t.hep.fnMask = mask ∧ t.out.head? = some .cfgNormal) ∧
  (∀ (s : State) (p : Bool), s.gives (.hostEndpointReset p) fun t => t.sqs = [] ∧ t.grps = [] ∧ t.copyWait = [] ∧ t.hep.atc =
    [] ∧ t.hep.msixEn = false ∧ t.flag Reg.HEP_STATUS_LINK_UP 0 = false ∧ t.lastEvent 0x0803 [if p then 0 else 1]) ∧
  (∀ (s : State), s.gives (.hdmDecoderCommit 1 s.rangeSize) fun t => t.hep.committed = true ∧ t.hep.notCommitted = false ∧
    t.flag Reg.HEP_STATUS_HDM_OPEN 0 = s.flag Reg.HEP_STATUS_MEM_EN 0) ∧
  (∀ (s : State) (ways size : Nat), ways ≠ 1 ∨ size ≠ s.rangeSize → s.gives (.hdmDecoderCommit ways size) fun t =>
    t.hep.committed = false ∧ t.hep.notCommitted = true ∧ t.flag Reg.HEP_STATUS_HDM_OPEN 0 = false) ∧
  (∀ (s : State), s.flag Reg.HEP_WIN_COMMIT_PENDING 0 = false → (∀ w ∈ upTo 64, s.winOk w = true) → s.gives
    (.peerWindowCommit) fun t => t.flag Reg.HEP_WIN_COMMIT_PENDING 0 = true ∧ t.hep.taken = (upTo 64).map fun w => (w,
    s.winTgt w, s.winCfg w)) ∧
  (∀ (s : State) (w : Nat), s.flag Reg.HEP_WIN_COMMIT_PENDING 0 = false → ((upTo 64).find? fun w => !s.winOk w) = some w →
    s.gives (.peerWindowCommit) fun t => t.flag Reg.HEP_WIN_COMMIT_COMMIT_ERR 0 = true ∧ t.flag Reg.HEP_WIN_COMMIT_PENDING 0 =
    false ∧ t.lastEvent 0x0807 [1, w]) ∧
  (∀ (s : State), s.flag Reg.HEP_WIN_COMMIT_PENDING 0 = true → s.hep.taken = (upTo 64).map (fun w => (w, s.winTgt w, s.winCfg
    w)) → s.gives (.peerCommitEffect) fun t => t.flag Reg.HEP_WIN_COMMIT_PENDING 0 = false ∧ ∀ w ∈ upTo 64, t.rd
    Reg.HEP_WIN_ACT_CFG_ACTIVE w = s.winCfg w % 2 ^ Reg.HEP_WIN_ACT_CFG_ACTIVE.w ∧ t.rd Reg.HEP_WIN_ACT_TGT_ACTIVE w =
    s.winTgt w % 2 ^ Reg.HEP_WIN_ACT_TGT_ACTIVE.w) ∧
  (∀ (s : State) (p : Option (BitVec 20)) (a n itag : Nat) (us : Fin 101), s.gives (.atsInvalidate p a n itag us) fun t => (∀
    x ∈ t.hep.atc, x.meets (p.map BitVec.toNat) a n = false) ∧ .invalidateDone itag ∈ t.out ∧ t.now = s.now + us * 1500) ∧
  (∀ (s : State) (p : Option (BitVec 20)) (a : BitVec 64) (x : Grant), s.hep.asked.contains (p.map BitVec.toNat, a.toNat) =
    true → x.rd = true → x.wr = true → s.cmds = [] → s.hep.atc = [] → s.gives (.translationCompletion p a (some x)) fun t =>
    t.hep.asked.contains (p.map BitVec.toNat, a.toNat) = false ∧ t.hep.atc.map (fun y => (y.pasid, y.addr, y.size, y.trans)) =
    [(p.map BitVec.toNat, a.toNat / max 4096 x.size * max 4096 x.size, max 4096 x.size, x.trans)])

/-- With HDM open, a host read of a line within the range returns its 64 bytes, and a write stores the bytes whose mask is 1
and no others (R579, R582). A peer read through an active window returns the bytes at the mapped offset, and a write stores
them there (R601, R603); an access that no window maps is answered as unsupported, or counted and dropped (R602). Each of
these commands is stated to complete, under its clauses' hypotheses alone: hdmHostRead, hdmHostWrite, peerRequest. -/
def Obligations.HostAndPeerMemoryAccess : Prop :=
  (∀ (s : State) (l : BitVec 33), s.flag Reg.HEP_STATUS_HDM_OPEN 0 = true → l.toNat * 64 + 64 ≤ s.rangeSize → s.ueAt (hdmBase
    + l.toNat * 64) 64 = none → s.gives (.hdmHostRead l) fun t => t.out = .hdmData (l.toNat * 64) (s.bytes (hdmBase + l.toNat
    * 64) 64) false :: s.out ∧ t.mem = s.mem) ∧
  (∀ (s : State) (l : BitVec 33) (d : BitVec 512) (m : BitVec 64) (p : Bool), Memory.wf s.mem = true → s.flag
    Reg.HEP_STATUS_HDM_OPEN 0 = true → l.toNat * 64 + 64 ≤ s.rangeSize → s.gives (.hdmHostWrite l d m p) fun t => (∀ i < 64,
    t.byte (hdmBase + l.toNat * 64 + i) = if bitOf m.toNat i then bitsOf d.toNat (8 * i) 8 else s.byte (hdmBase + l.toNat * 64
    + i)) ∧ ∀ a, a < hdmBase + l.toNat * 64 ∨ hdmBase + l.toNat * 64 + 64 ≤ a → t.byte a = s.byte a) ∧
  (∀ (s : State) (o : BitVec 36) (n : Fin 4096) (id : BitVec 16) (a : Nat), s.flag Reg.HEP_STATUS_LINK_UP 0 = true → s.flag
    Reg.HEP_STATUS_HDM_OPEN 0 = true → s.peerMap o.toNat (n.val + 1) id.toNat false = some a → s.ueAt (hdmBase + a) (n.val +
    1) = none → s.gives (.peerRequest o n id none) fun t => t.out = .peerData o.toNat (s.bytes (hdmBase + a) (n.val + 1))
    false :: s.out ∧ t.mem = s.mem) ∧
  (∀ (s : State) (o : BitVec 36) (n : Fin 4096) (id : BitVec 16) (a : Nat) (bs : List Nat), Memory.wf s.mem = true → s.flag
    Reg.HEP_STATUS_LINK_UP 0 = true → s.flag Reg.HEP_STATUS_HDM_OPEN 0 = true → s.peerMap o.toNat (n.val + 1) id.toNat true =
    some a → bs.length = n.val + 1 → s.gives (.peerRequest o n id (some bs)) fun t => (∀ i < n.val + 1, t.byte (hdmBase + a +
    i) = bs.getD i 0 % 256) ∧ ∀ x, x < hdmBase + a ∨ hdmBase + a + (n.val + 1) ≤ x → t.byte x = s.byte x) ∧
  (∀ (s : State) (o : BitVec 36) (n : Fin 4096) (id : BitVec 16), s.flag Reg.HEP_STATUS_LINK_UP 0 = true → s.flag
    Reg.HEP_STATUS_HDM_OPEN 0 = true → s.peerMap o.toNat (n.val + 1) id.toNat false = none → s.gives (.peerRequest o n id
    none) fun t => t.out = .peerUnsupported o.toNat :: s.out ∧ t.mem = s.mem) ∧
  (∀ (s : State) (o : BitVec 36) (n : Fin 4096) (id : BitVec 16) (bs : List Nat), s.flag Reg.HEP_STATUS_LINK_UP 0 = true →
    s.flag Reg.HEP_STATUS_HDM_OPEN 0 = true → s.peerMap o.toNat (n.val + 1) id.toNat true = none → s.rd Reg.HEP_WIN_DROP_COUNT
    0 < 2 ^ Reg.HEP_WIN_DROP_COUNT.w - 1 → s.gives (.peerRequest o n id (some bs)) fun t => t.rd Reg.HEP_WIN_DROP_COUNT 0 =
    s.rd Reg.HEP_WIN_DROP_COUNT 0 + 1 ∧ t.mem = s.mem ∧ t.out = s.out)

/-- The port does not acknowledge for the first 200 ms (R614). After that IDENTIFY and HEALTH answer their content with STATUS
OK and a PEC, SET_OFFSET with the right PEC takes the offset, READ_REG answers the register word at an offset it may reach and
DENIED elsewhere, and WAKE with a value other than 1 is answered INVALID (R607 to R611). Each of these commands is stated to
complete, under its clauses' hypotheses alone: smbIdentify, smbHealth, smbSetOffset, smbReadReg, smbWake. -/
def Obligations.ManagementPortAnswers : Prop :=
  (∀ (s : State), s.smbAwake = false → s.gives (.smbIdentify) fun t => t.out = .smbNack :: s.out ∧ t.regs = s.regs) ∧
  (∀ (s : State), s.smbAwake = true → s.gives (.smbIdentify) fun t => ∃ l : List Nat, l = ([Reg.GCTL_ID_PART,
    Reg.GCTL_REV_BASE, Reg.GCTL_SERIAL_LO_SERIAL, Reg.GCTL_SERIAL_HI_SERIAL].flatMap fun f => bytesLE 4 (s.regOf f)) ∧ t.out =
    .smb ([17, smOk] ++ l ++ [pec ([s.smbAddr false, 0x00, s.smbAddr true, 17, smOk] ++ l)]) :: s.out) ∧
  (∀ (s : State), s.smbAwake = true → s.flag Reg.GCTL_STATUS_FW_READY 0 = true → s.gives (.smbHealth) fun t => ∃ l : List Nat,
    l = bytesLE 4 (s.regOf Reg.GCTL_STATUS_MODE) ++ bytesLE 2 (s.rd Reg.PWR_TEMP_TJ 0) ++ bytesLE 2 s.pw.ownW ∧ t.out = .smb
    ([9, smOk] ++ l ++ [pec ([s.smbAddr false, 0x01, s.smbAddr true, 9, smOk] ++ l)]) :: s.out) ∧
  (∀ (s : State) (o : BitVec 32) (p : Option (BitVec 8)), s.smbAwake = true → s.pecOk 0x02 (4 :: bytesLE 4 o.toNat) p = true →
    s.smbServes = true → s.gives (.smbSetOffset o p) fun t => t.hep.smbOffset = o.toNat ∧ t.out = .smb [smOk] :: s.out) ∧
  (∀ (s : State), s.smbAwake = true → s.smbServes = true → smbReadable s.hep.smbOffset = true → s.gives (.smbReadReg) fun t =>
    t.out = .smb ([5, smOk] ++ bytesLE 4 (s.word32 s.hep.smbOffset) ++ [pec ([s.smbAddr false, 0x03, s.smbAddr true, 5, smOk]
    ++ bytesLE 4 (s.word32 s.hep.smbOffset))]) :: s.out) ∧
  (∀ (s : State), s.smbAwake = true → s.smbServes = true → smbReadable s.hep.smbOffset = false → s.gives (.smbReadReg) fun t
    => ∃ l : List Nat, t.out = .smb ([l.length + 1, smDenied] ++ l ++ [pec ([s.smbAddr false, 0x03, s.smbAddr true, l.length +
    1, smDenied] ++ l)]) :: s.out ∧ l.length = 4 ∧ t.free = s.free + 1) ∧
  (∀ (s : State) (v : BitVec 8) (p : Option (BitVec 8)) (i : Bool), s.smbAwake = true → s.pecOk 0x08 [v.toNat] p = true →
    s.flag Reg.GCTL_STATUS_FW_READY 0 = true → v ≠ 1 → s.gives (.smbWake v p i) fun t => t.out = .smb [smInvalid] :: s.out ∧
    t.pw = s.pw) ∧
  (∀ (s : State) (p : Option (BitVec 8)) (i : Bool), s.smbAwake = true → s.pecOk 0x08 [1] p = true → s.flag
    Reg.GCTL_STATUS_FW_READY 0 = true → s.mode ≠ mBanked → s.gives (.smbWake 1 p i) fun t => t.out = .smb [smOk] :: s.out ∧
    t.pw = s.pw)

/-- With the array idle, a PROGRAM of a word of a sector that firmware may write, admitted by the word's data, sets BUSY and
is in progress with the masked value (R771, R773, R777); one that the word does not allow ends with CONFLICT or EXHAUSTED and
one outside the sectors with LOCKED, all without changing the array (R771, R773). A program in progress ends with its word
programmed and RESULT OK (R774). SECTOR_ERASE writes its log entry and is in progress (R783); SUSPEND and RESUME stop and
restart it (R787); an erase whose verify passes leaves the sector erased (R783, R788). A sequence out of order ends with
SEQ_ERROR and one completed while BUSY is 1 with BUSY (R778 to R780). An erase pending for PEND_WARN_S seconds raises its
event (R787). Each of these commands is stated to complete, under its clauses' hypotheses alone: flashProgram,
flashProgramDone, flashSectorErase, flashSuspend, flashResume, flashReadArray, flashSeqError, flashEraseDone,
erasePendingLong. -/
def Obligations.FlashSequencesAct : Prop :=
  (∀ (s : State) (w : BitVec 25) (v : BitVec 64) (m : BitVec 8), s.fwRuns = true → s.fwSector (w.toNat / sectorWords) = true →
    s.flash.erase = none → s.flash.prog = none → (s.fword w.toNat).outcome (maskBytes (s.fword w.toNat).data v.toNat m.toNat)
    = 0 → s.gives (.flashProgram w v m) fun t => t.flash.prog = some
    { word := w.toNat, value := maskBytes (s.fword w.toNat).data v.toNat m.toNat } ∧ t.flag Reg.FLC_STATUS_BUSY 0 = true ∧
    t.flash.words = s.flash.words) ∧
  (∀ (s : State) (w : BitVec 25) (v : BitVec 64) (m : BitVec 8), s.fwRuns = true → s.fwSector (w.toNat / sectorWords) = true →
    s.flash.erase = none → s.flash.prog = none → (s.fword w.toNat).outcome (maskBytes (s.fword w.toNat).data v.toNat m.toNat)
    ≠ 0 → s.gives (.flashProgram w v m) fun t => t.rd Reg.FLC_STATUS_RESULT 0 = (s.fword w.toNat).outcome (maskBytes (s.fword
    w.toNat).data v.toNat m.toNat) ∧ t.flash = s.flash ∧ t.lastEvent 0x0B03 (w2 (w.toNat * 8) ++ [(s.fword w.toNat).outcome
    (maskBytes (s.fword w.toNat).data v.toNat m.toNat)])) ∧
  (∀ (s : State) (w : BitVec 25) (v : BitVec 64) (m : BitVec 8), s.fwRuns = true → s.fwSector (w.toNat / sectorWords) = false
    → s.gives (.flashProgram w v m) fun t => t.rd Reg.FLC_STATUS_RESULT 0 = 3 ∧ t.flash = s.flash) ∧
  (∀ (s : State) (dt : Nat) (p : Prog), s.flash.prog = some p → (s.fword p.word).outcome p.value = 0 → s.gives
    (.flashProgramDone dt) fun t => ∃ u : State, t = u.settle ∧ u.fword p.word = (s.fword p.word).prog p.value ∧ u.flash.prog
    = none ∧ u.rd Reg.FLC_STATUS_RESULT 0 = 0 ∧ u.now = s.now + dt) ∧
  (∀ (s : State) (x : BitVec 12), s.fwRuns = true → s.fwSector x.toNat = true → s.flash.prog = none → s.flash.erase = none → x
    ≠ 0 → s.logNext s.activeLog + 1 ≠ secWord (2 + s.activeLog) → s.gives (.flashSectorErase x) fun t => t.flash.erase = some
    { sector := x.toNat, kind := 0, seq := max (s.logMax 0) (s.logMax 1) + 1, entry := s.logNext s.activeLog, from_ := s.now }
    ∧ t.rd Reg.FLC_ERASE_SECTOR 0 = x.toNat ∧ t.flag Reg.FLC_STATUS_ERASING 0 = true ∧ t.flag Reg.FLC_STATUS_BUSY 0 = true ∧
    t.fword (s.logNext s.activeLog) = (if (s.fword (s.logNext s.activeLog)).outcome (logWord x.toNat 0 (max (s.logMax 0)
    (s.logMax 1) + 1) 0) = 0 then (s.fword (s.logNext s.activeLog)).prog (logWord x.toNat 0 (max (s.logMax 0) (s.logMax 1) +
    1) 0) else s.fword (s.logNext s.activeLog))) ∧
  (∀ (s : State) (e : Erase), s.fwRuns = true → s.flash.prog = none → s.flash.erase = some e → s.gives (.flashSuspend) fun t
    => t.flash.erase = some { e with suspended := true } ∧ t.flag Reg.FLC_STATUS_SUSPENDED 0 = true ∧ t.flag
    Reg.FLC_STATUS_BUSY 0 = false) ∧
  (∀ (s : State) (e : Erase), s.fwRuns = true → s.flash.prog = none → s.flash.erase = some e → s.gives (.flashResume) fun t =>
    t.flash.erase = some { e with suspended := false } ∧ t.flag Reg.FLC_STATUS_SUSPENDED 0 = false ∧ t.flag
    Reg.FLC_STATUS_BUSY 0 = true) ∧
  (∀ (s : State), s.fwRuns = true → s.flag Reg.FLC_STATUS_BUSY 0 = false → s.gives (.flashReadArray) fun t => t = s) ∧
  (∀ (s : State), s.fwRuns = true → s.flag Reg.FLC_STATUS_BUSY 0 = true → s.gives (.flashReadArray) fun t => t.rd
    Reg.FLC_STATUS_RESULT 0 = 5 ∧ t.flash = s.flash) ∧
  (∀ (s : State), s.fwRuns = true → s.gives (.flashSeqError) fun t => t.rd Reg.FLC_STATUS_RESULT 0 = 4 ∧ t.flash = s.flash) ∧
  (∀ (s : State) (dt n : Nat) (e : Erase), s.flash.erase = some e → e.suspended = false → n ≤ 360 → e.entry / sectorWords ≠
    e.sector → e.kind ≠ 2 → s.gives (.flashEraseDone dt n 0) fun t => t.flash.erase = none ∧ t.rd Reg.FLC_STATUS_RESULT 0 = 0
    ∧ t.rd Reg.FLC_ERASE_PULSES 0 = n ∧ (∀ p ∈ t.flash.words, p.1 / sectorWords ≠ e.sector) ∧ t.flag Reg.FLC_STATUS_ERASING 0
    = false) ∧
  (∀ (s : State) (dt n tw : Nat) (e : Erase), s.flash.erase = some e → e.suspended = false → n ≤ 360 → e.kind = 2 → (({ s with
    flash := { s.flash with erase := none } } : State).clearSector e.sector |>.entryDone e.entry).auxTwin = some tw → s.gives
    (.flashEraseDone dt n 0) fun t => t.flash.erase = none ∧ t.rd Reg.FLC_STATUS_RESULT 0 = 0 ∧ t.flash = ((({ s with flash :=
    { s.flash with erase := none } } : State).clearSector e.sector |>.entryDone e.entry).appendSwap tw 1 ((((({ s with flash
    := { s.flash with erase := none } } : State).clearSector e.sector |>.entryDone e.entry).fval (secWord (twinSector tw) +
    1)).getD 0) % 2 ^ 32 / 65536)).flash) ∧
  (∀ (s : State) (e : Erase), s.flash.erase = some e → e.warned = false → s.gives (.erasePendingLong) fun t => t.flash.erase =
    some { e with warned := true } ∧ e.from_ + s.rd1 Reg.FLC_CTRL_PEND_WARN_S 0 * hz ≤ t.now ∧ t.lastEvent 0x0B08 [e.sector,
    s.rd1 Reg.FLC_CTRL_PEND_WARN_S 0])

/-- With no erase left undone, BOOT_SELECT starts the image of the twin that a record of another kind than trial names, when
its check passes: ACTIVE_TWIN names it and neither TRIAL nor FELL_BACK is set (R792, R930). A trial record not yet attempted
starts its image as a trial (R792, R932). When neither twin passes, CINDER is entered for cause BOOT (R930). JOURNAL_REPLAY
over a journal and catalogue without records reports 0 records, and always ends with replay done (R805, R807, R812).
JOURNAL_RECLAIM erases an oldest sector without live records once fewer than 8 are erased (R798, R806). FRONTIER_SEARCH
resolves its zone (R809). Each of these commands is stated to complete, under its clauses' hypotheses alone: bootSelect,
journalReplay, journalReclaim, frontierSearch. -/
def Obligations.BootReplayAndSearch : Prop :=
  (∀ (s : State) (a b : Option ImgObs) (r : Swap) (x : ImgObs), s.firm.booting = true → s.pw.pfAt = none → s.pw.porst = false
    → (s.mode = mKindling ∨ s.mode = mKiln) → s.undone = [] → s.swapInForce = some r → r.twin < 2 → r.kind ≠ 0 → s.imgCheck
    r.twin (if r.twin = 0 then a else b) = some x → s.gives (.bootSelect a b) fun t => t.rd Reg.GCTL_BOOT_ACTIVE_TWIN 0 =
    r.twin ∧ t.flag Reg.GCTL_BOOT_TRIAL 0 = false ∧ t.flag Reg.GCTL_BOOT_FELL_BACK 0 = false ∧ t.firm.booting = false ∧
    t.firm.version = x.version ∧ t.mode = s.mode) ∧
  (∀ (s : State) (a b : Option ImgObs) (r : Swap) (x : ImgObs), s.firm.booting = true → s.pw.pfAt = none → s.pw.porst = false
    → (s.mode = mKindling ∨ s.mode = mKiln) → s.undone = [] → s.swapInForce = some r → r.twin < 2 → r.kind = 0 → r.confirmN =
    true → r.attemptN = true → r.damaged = false → s.fErased (secWord (twinSector r.twin)) = true → (if r.twin = 0 then a else
    b) = some x → 2 * r.j + 1 < sectorWords → s.gives (.bootSelect a b) fun t => t.rd Reg.GCTL_BOOT_ACTIVE_TWIN 0 = r.twin ∧
    t.flag Reg.GCTL_BOOT_TRIAL 0 = true ∧ t.flag Reg.GCTL_BOOT_FELL_BACK 0 = false ∧ t.firm.booting = false ∧ t.firm.version =
    x.version ∧ t.firm.trialAt = some t.now) ∧
  (∀ (s : State), s.firm.booting = true → s.pw.pfAt = none → s.pw.porst = false → (s.mode = mKindling ∨ s.mode = mKiln) →
    s.gives (.bootSelect none none) fun t => t.mode = mCinder ∧ t.rd Reg.GCTL_STATUS_CINDER_CAUSE 0 = cBoot ∧ t.pw.coresRun =
    false) ∧
  (∀ (s : State), s.fwRuns = true → s.firm.booting = false → s.flash.replayed = false → s.flash.erase = none → s.gives
    (.journalReplay) fun t => t.flash.replayed = true) ∧
  (∀ (s : State), s.fwRuns = true → s.firm.booting = false → s.flash.replayed = false → s.flash.erase = none → (∀ p ∈
    s.flash.words, p.1 < secWord 356) → s.gives (.journalReplay) fun t => t.flash.replayed = true ∧ t.lastEvent 0x0B09 [0, 0]
    ∧ t.discs = s.discs) ∧
  (∀ (s : State) (q k : Nat) (r : List (Nat × Nat)), s.fwRuns = true → 256 < (((s.flash.words.filter fun p => decide (secWord
    356 ≤ p.1) && decide (p.1 < secWord 612)).map fun p => p.1 / sectorWords).eraseDups).length + 8 → s.ringSectors 356 612 =
    (q, k) :: r → s.flash.prog = none → s.flash.erase = none → dropInner 0 (s.recordsIn k) = [] → s.gives (.journalReclaim)
    fun t => t.flash.erase.map (fun e => e.sector) = some k) ∧
  (∀ (s : State) (d : Nat) (a : Fin 2) (l : Fin 16) (z : Fin 64) (f : List SlotRead), (s.zone (zoneKey d a l z)).resolve =
    true → (s.zone (zoneKey d a l z)).state = .open_ → s.gives (.frontierSearch d a l z f) fun t => ∃ u : State, t = u.settle
    ∧ (u.zone (zoneKey d a l z)).resolve = false)

/-- FW_DOWNLOAD of a first range opens a session, and the spare twin then reads its words (R917 to R920). FW_ACTIVATE without
a session fails as FW_INVALID with reason 1 (R923, R934); with a good image of the same HANDOFF it enters KILN (R924, R925),
with a differing one it succeeds and a warm reset follows 10 ms later (R927). KILN_END returns to the mode KILN was entered
from, shows the new version and ends the command (R926). The timeouts of KILN and of the trial ask for a warm reset (R928,
R932). TRIAL_CONFIRM clears TRIAL (R931). Each of these commands is stated to complete, under its clauses' hypotheses alone:
fwDownload, fwActivate, kilnEnd, kilnTimeout, fwActivateReset, trialConfirm, trialTimeout. -/
def Obligations.FirmwareUpdateActs : Prop :=
  (∀ (s : State) (q : BitVec 20) (tag : BitVec 12) (c : Cmd) (ws : List Nat), s.runnable q.toNat tag.toNat opFwDownload = some
    c → c.local = true → s.downloadAhead c = false → c.get 16 4 = 0 → 0 < c.get 20 4 → c.get 20 4 ≤ 4194304 → s.activeTwin < 2
    → s.flag Reg.GCTL_BOOT_TRIAL 0 = false → s.flash.prog = none → s.flash.erase = none → s.flash.pfDue = false → ws.length =
    c.get 20 4 / 8 → (∀ w ∈ ws, w < 2 ^ 64) → s.gives (.fwDownload q tag (some ws)) fun t => t.ended c.sq c.tag stSuccess 0 0
    0 ∧ t.firm.session = some (blocksOf 0 (c.get 20 4)) ∧ ∀ i < ws.length, t.fval (secWord (twinSector s.spareTwin) + i) =
    some (ws.getD i 0)) ∧
  (∀ (s : State) (q : BitVec 20) (tag : BitVec 12) (c : Cmd) (x y : Bool), s.runnable q.toNat tag.toNat opFwActivate = some c
    → c.local = true → s.flag Reg.GCTL_BOOT_TRIAL 0 = false → (∀ x ∈ s.cmds, x.op ≠ opFwDownload) → s.flash.prog = none →
    s.flash.erase = none → s.flash.pfDue = false → s.firm.session = none → s.gives (.fwActivate q tag x y) fun t => t.ended
    c.sq c.tag stFwInvalid 0 0 0 ∧ t.lastEvent 0x0E01 [1] ∧ t.flash = s.flash) ∧
  (∀ (s : State) (q : BitVec 20) (tag : BitVec 12) (c : Cmd), s.runnable q.toNat tag.toNat opFwActivate = some c → c.local =
    true → s.flag Reg.GCTL_BOOT_TRIAL 0 = false → (∀ x ∈ s.cmds, x.op ≠ opFwDownload) → s.flash.prog = none → s.flash.erase =
    none → s.flash.pfDue = false → s.rejectImage true true = none → s.hdrHandoff s.spareTwin = s.firm.handoff → s.gives
    (.fwActivate q tag true true) fun t => t.mode = mKiln ∧ t.firm.booting = true ∧ t.firm.activate = some (c.sq, c.tag) ∧
    t.firm.kilnAt = some t.now ∧ t.pw.kilnFrom = s.mode ∧ t.underWay c.sq c.tag) ∧
  (∀ (s : State) (q : BitVec 20) (tag : BitVec 12) (c : Cmd), s.runnable q.toNat tag.toNat opFwActivate = some c → c.local =
    true → s.flag Reg.GCTL_BOOT_TRIAL 0 = false → (∀ x ∈ s.cmds, x.op ≠ opFwDownload) → s.flash.prog = none → s.flash.erase =
    none → s.flash.pfDue = false → s.rejectImage true true = none → s.hdrHandoff s.spareTwin ≠ s.firm.handoff → s.gives
    (.fwActivate q tag true true) fun t => t.ended c.sq c.tag stSuccess 0 0 0 ∧ t.lastEvent 0x0E03 [s.firm.handoff,
    s.hdrHandoff s.spareTwin] ∧ t.firm.resetAt = some (t.now + 10 * msCycles) ∧ t.mode = s.mode) ∧
  (∀ (s : State) (t0 q tag : Nat) (c : Cmd), s.firm.kilnAt = some t0 → s.firm.activate = some (q, tag) → s.mode = mKiln →
    s.firm.booting = false → s.flag Reg.GCTL_BOOT_TRIAL 0 = true → s.pw.dampAfterKiln = false → s.cmd? q tag = some c →
    c.local = true → c.phase = .started → s.pw.kilnFrom < 8 → s.firm.version < 2 ^ 32 → s.gives (.kilnEnd) fun t => ∃ u :
    State, t = u.settle ∧ u.mode = s.pw.kilnFrom ∧ u.shownVersion = s.firm.version ∧ u.firm.kilnAt = none ∧ u.firm.session =
    none ∧ u.ended q tag stSuccess 0 0 0) ∧
  (∀ (s : State) (x : Nat), s.firm.kilnAt = some x → s.mode = mKiln → s.pw.resetPend = none → s.gives (.kilnTimeout) fun t =>
    t.pw.resetPend = some (2, t.now + 10 * msCycles) ∧ x + 250 * msCycles ≤ t.now) ∧
  (∀ (s : State) (x : Nat), s.firm.resetAt = some x → s.pw.resetPend = none → s.gives (.fwActivateReset) fun t =>
    t.pw.resetPend = some (2, t.now + 10 * msCycles) ∧ x ≤ t.now ∧ t.firm.resetAt = none) ∧
  (∀ (s : State) (x : Nat) (r : Swap), s.noteHealth.firm.healthFrom = some x → s.swapInForce = some r → s.flag
    Reg.GCTL_BOOT_TRIAL 0 = true → s.flash.prog = none → (s.fword (2 * r.j + 1)).pb = false → s.gives (.trialConfirm) fun t =>
    t.flag Reg.GCTL_BOOT_TRIAL 0 = false ∧ t.firm.trialAt = none ∧ x + 10 * hz ≤ t.now ∧ (t.fword (2 * r.j + 1)).data =
    (s.fword (2 * r.j + 1)).data % 2 ^ 63) ∧
  (∀ (s : State) (x : Nat), s.firm.trialAt = some x → s.flag Reg.GCTL_BOOT_TRIAL 0 = true → s.pw.resetPend = none → s.gives
    (.trialTimeout) fun t => t.pw.resetPend = some (2, t.now + 10 * msCycles) ∧ x + 90 * hz ≤ t.now)

/-- PWRFAIL_ASSERT sets PWRFAIL and, outside BANKED, makes the power-fail records due and suspends the erase (R810, R879);
PF_JOURNAL_WRITE ends them. PWRFAIL_DEASSERT clears PWRFAIL; once it has stayed deasserted for PF_RECOVER_MS a reset of code 3
is due (R880). A write of GCTL_RESET with the key asks for a warm or a cold reset within 10 ms, another key changes nothing
(R48, R876). A reset leaves KINDLING with LAST_RESET its code, no command under way, the journal in flash as it was, and the
damage list through a warm reset only (R875, R877). PORST resets every domain but the flash array and the fuses (R875, R947),
and its end samples the straps with TIME 0 (R53). Each of these commands is stated to complete, under its clauses' hypotheses
alone: pwrfailAssert, pfJournalWrite, pwrfailDeassert, pwrfailRecover, warmReset, coldReset, resetTakesEffect, porstAssert,
porstDeassert. -/
def Obligations.PowerFailureAndResets : Prop :=
  (∀ (s : State), s.pw.porst = false → s.pw.pfAt = none → s.mode ≠ mBanked → s.gives (.pwrfailAssert) fun t => t.pw.pfAt =
    some s.now ∧ t.flag Reg.PWR_STATUS_PWRFAIL 0 = true ∧ t.flash.pfDue = true ∧ t.flash.erase = s.flash.erase.map (fun e =>
    { e with suspended := true }) ∧ t.now = s.now) ∧
  (∀ (s : State), s.pw.porst = false → s.pw.pfAt = none → s.mode = mBanked → s.gives (.pwrfailAssert) fun t => t.pw.pfAt =
    some s.now ∧ t.flag Reg.PWR_STATUS_PWRFAIL 0 = true ∧ t.flash = s.flash) ∧
  (∀ (s : State) (dt : Nat), s.flash.pfDue = true → s.gives (.pfJournalWrite dt) fun t => t.flash.pfDue = false ∧ t.now =
    s.now + dt ∧ t.flash.prog = none) ∧
  (∀ (s : State) (x : Nat), s.pw.pfAt = some x → s.gives (.pwrfailDeassert) fun t => t.flag Reg.PWR_STATUS_PWRFAIL 0 = false ∧
    t.pw.pfAt = none ∧ t.pw.pfClear = some s.now) ∧
  (∀ (s : State) (x : Nat), s.pw.pfClear = some x → s.pw.resetPend = none → s.gives (.pwrfailRecover) fun t => t.pw.resetPend
    = some (3, t.now + 10 * msCycles) ∧ x + s.rd1 Reg.PWR_CFG_PF_RECOVER_MS 0 * msCycles ≤ t.now ∧ t.pw.pfClear = none) ∧
  (∀ (s : State), s.pw.porst = false → s.pw.resetPend = none → s.gives (.warmReset 0xC1D3) fun t => t.pw.resetPend = some (2,
    s.now + 10 * msCycles) ∧ t.now = s.now) ∧
  (∀ (s : State), s.pw.porst = false → s.pw.resetPend = none → s.gives (.coldReset 0xC1D3) fun t => t.pw.resetPend = some (1,
    s.now + 10 * msCycles) ∧ t.now = s.now) ∧
  (∀ (s : State) (k : BitVec 16), k ≠ 0xC1D3 → s.gives (.warmReset k) fun t => t = s) ∧
  (∀ (s : State) (k : BitVec 16), k ≠ 0xC1D3 → s.gives (.coldReset k) fun t => t = s) ∧
  (∀ (s : State) (code due : Nat), s.pw.resetPend = some (code, due) → s.flash.pfDue = false → s.flash.prog = none → code < 2
    ^ Reg.PWR_STATUS_LAST_RESET.w → s.gives (.resetTakesEffect) fun t => t.mode = mKindling ∧ t.rd Reg.PWR_STATUS_LAST_RESET 0
    = code ∧ t.cmds = [] ∧ t.flash.words = s.flash.words ∧ t.sealed = s.sealed ∧ t.pw.resetPend = none ∧ t.firm.booting = true
    ∧ t.damage = (if code = 1 then [] else s.damage) ∧ t.now = s.now) ∧
  (∀ (s : State) (code due : Nat), s.pw.resetPend = some (code, due) → s.flash.pfDue = true → s.gives (.resetTakesEffect) fun
    t => t.mode = mKindling ∧ due ≤ t.now ∧ t.cmds = [] ∧ t.pw.resetPend = none ∧ t.firm.booting = true) ∧
  (∀ (s : State), s.gives (.porstAssert) fun t => t.pw.porst = true ∧ t.mode = mKindling ∧ t.cmds = [] ∧ t.mem = [] ∧ t.sealed
    = s.sealed ∧ (s.flash.prog = none → t.flash.words = s.flash.words)) ∧
  (∀ (s : State) (a : BitVec 2) (m c : Bool), s.pw.porst = true → s.gives (.porstDeassert a m c) fun t => t.pw.porst = false ∧
    t.lin = 0 ∧ t.rd Reg.GCTL_CELL_MGMT_ADDR 0 = a.toNat ∧ t.flag Reg.GCTL_CELL_MASTER 0 = !m ∧ t.tb.refClk = c)

/-- A transition to BURN or DAMPED completes in the mode it leads to, DAMPED while THERM_DAMPED is 1 (R857, R869); EMBER goes
on to BANKED with CCLK stopped (R860), and BANKED wakes to EMBER with the cores running. The wake source recorded is the
lowest enabled one (R861). FW_READY ends KINDLING in BURN or starts the entry to EMBER (R873). THERMAL_READING shows the
highest of the sixteen readings; the fourth in a row at or above the CINDER threshold enters CINDER and at the damping
threshold in BURN begins damping (R867 to R870), which THERMAL_EXIT ends. THERMTRIP asserts its pin (R871). EST is the
controller's power plus its load (R864), and CAP_EXCEEDED reports 1 s of excess (R866). A watchdog not kicked in time and a
supply fault enter CINDER (R878, R881). Each of these commands is stated to complete, under its clauses' hypotheses alone:
modeTransitionDone, wake, fwReady, watchdogKick, watchdogExpire, supplyFault, thermalReading, thermalExit, thermtrip,
powerCapEstimate, capExceeded. -/
def Obligations.ModesTemperatureAndCap : Prop :=
  (∀ (s : State) (x : Trans) (a b : Bool), s.pw.trans = some x → s.mode ≠ mEmber → (x.to_ = mBurn ∨ x.to_ = mDamped) → s.gives
    (.modeTransitionDone a b) fun t => t.pw.trans = none ∧ t.mode = if x.to_ = mBurn ∧ s.flag Reg.PWR_STATUS_THERM_DAMPED 0 =
    true then mDamped else x.to_) ∧
  (∀ (s : State) (x : Trans) (g : Nat) (a b : Bool), s.pw.trans = some x → s.mode = mEmber → x.to_ = mBanked → s.workWaits =
    false → s.pw.linkGraceFrom = some g → s.gives (.modeTransitionDone a b) fun t => t.pw.trans = none ∧ t.mode = mBanked ∧
    t.tb.cclk = false ∧ g + s.rd Reg.PWR_CFG_LINK_GRACE 0 * msCycles ≤ t.now) ∧
  (∀ (s : State) (x : Trans) (a b : Bool), s.pw.trans = some x → s.mode = mBanked → x.to_ = mEmber → s.gives
    (.modeTransitionDone a b) fun t => t.pw.trans = none ∧ t.mode = mEmber ∧ t.pw.coresRun = true ∧ t.tb.reload = some s.now ∧
    t.flag Reg.GCTL_STATUS_TIME_LOCKED 0 = false) ∧
  (∀ (s : State) (x : Trans) (a b : Bool), s.pw.trans = some x → x.to_ = mVerify → s.stationsRest = true → (∀ h : Fin 256,
    s.headUp h = false) → (∀ n : Fin 128, s.rd Reg.STN_SP_TARGET_RPM n = 0) → s.tallyOn = false → s.gives (.modeTransitionDone
    a b) fun t => t.pw.trans = none ∧ t.mode = mVerify) ∧
  (∀ (s : State) (w : BitVec 4) (i : Nat), s.mode = mBanked → s.pw.trans = none → s.pw.resetPend = none → s.wakeSource w.toNat
    = some i → i < 3 → s.gives (.wake w true) fun t => t.rd Reg.PWR_STATUS_WAKE_SRC 0 = i + 1 ∧ t.pw.trans.map Trans.to_ =
    some mEmber ∧ t.mode = mBanked ∧ t.lastEvent 0x0106 [i + 1] ∧ t.now = s.now) ∧
  (∀ (s : State) (w : BitVec 4) (i : Nat), s.mode = mBanked → s.pw.trans = none → s.pw.resetPend = none → s.wakeSource w.toNat
    = some i → i < 3 → s.gives (.wake w false) fun t => t.rd Reg.PWR_STATUS_WAKE_SRC 0 = i + 1 ∧ t.pw.resetPend = some (1,
    s.now + 10 * msCycles) ∧ t.lastEvent 0x0108 []) ∧
  (∀ (s : State) (n : Fin 4097) (m : Fin 129), s.mode = mKindling → s.firm.booting = false → s.flash.replayed = true →
    s.ms.trainedAt.isSome = true → s.pw.pfAt = none → s.pw.porst = false → s.flag Reg.GCTL_STATUS_FW_READY 0 = false → ((upTo
    128).all fun n => (s.stn n).batchDone) = true → s.firm.version < 2 ^ 32 → s.gives (.fwReady n m false) fun t => t.flag
    Reg.GCTL_STATUS_FW_READY 0 = true ∧ t.mode = mBurn ∧ t.shownVersion = s.firm.version ∧ t.rd Reg.GCTL_SIZE_MAG_SLOTS 0 = n
    ∧ t.rd Reg.GCTL_SIZE_STN_FITTED 0 = m) ∧
  (∀ (s : State) (n : Fin 4097) (m : Fin 129), s.mode = mKindling → s.firm.booting = false → s.flash.replayed = true →
    s.ms.trainedAt.isSome = true → s.pw.pfAt = none → s.pw.porst = false → s.flag Reg.GCTL_STATUS_FW_READY 0 = false → ((upTo
    128).all fun n => (s.stn n).batchDone) = true → s.gives (.fwReady n m true) fun t => t.flag Reg.GCTL_STATUS_FW_READY 0 =
    true ∧ t.pw.trans.map Trans.to_ = some mEmber ∧ t.mode = mKindling) ∧
  (∀ (s : State), s.gives (.watchdogKick) fun t => t.pw.wdogFrom = (if wdogHeld s.mode = true then 0 else s.now) ∧ t.regs =
    s.regs) ∧
  (∀ (s : State), s.flag Reg.GCTL_STATUS_FW_READY 0 = true → wdogHeld s.mode = false → s.mode ≠ mCinder → s.gives
    (.watchdogExpire) fun t => t.mode = mCinder ∧ t.rd Reg.GCTL_STATUS_CINDER_CAUSE 0 = cWatchdog ∧ t.flag
    Reg.GCTL_STATUS_FAULT 0 = true ∧ s.pw.wdogFrom + s.rd1 Reg.PWR_WDOG_TIMEOUT_MS 0 * msCycles ≤ t.now) ∧
  (∀ (s : State) (dt : Nat), s.pw.pfAt = none → s.pw.porst = false → s.mode ≠ mCinder → s.mode ≠ mBanked → s.gives
    (.supplyFault dt) fun t => t.mode = mCinder ∧ t.rd Reg.GCTL_STATUS_CINDER_CAUSE 0 = cSupply ∧ t.pw.faultN = true ∧ t.now =
    s.now + dt) ∧
  (∀ (s : State) (dt : Nat) (a : BitVec 16) (l : List (BitVec 16)), l.length = 15 → s.mode ≠ mBanked → s.pw.porst = false →
    s.gives (.thermalReading dt (a :: l)) fun t => t.rd Reg.PWR_TEMP_TJ 0 = unsignedOf 16 ((l.map BitVec.toInt).foldl max
    a.toInt) ∧ t.now = s.now + dt) ∧
  (∀ (s : State) (dt : Nat) (a : BitVec 16) (l : List (BitVec 16)), l.length = 15 → s.mode ≠ mBanked → s.pw.porst = false →
    s.mode ≠ mCinder → 3 ≤ s.pw.run105 → 1680 ≤ ((l.map BitVec.toInt).foldl max a.toInt) → s.gives (.thermalReading dt (a ::
    l)) fun t => t.mode = mCinder ∧ t.rd Reg.GCTL_STATUS_CINDER_CAUSE 0 = cThermal) ∧
  (∀ (s : State) (dt : Nat) (a : BitVec 16) (l : List (BitVec 16)), l.length = 15 → s.mode ≠ mBanked → s.pw.porst = false →
    s.mode = mBurn → s.pw.trans = none → 3 ≤ s.pw.run95 → s.flag Reg.PWR_STATUS_THERM_DAMPED 0 = false → 1520 ≤ ((l.map
    BitVec.toInt).foldl max a.toInt) → ((l.map BitVec.toInt).foldl max a.toInt) < 1680 → s.gives (.thermalReading dt (a :: l))
    fun t => t.mode = mBurn ∧ t.flag Reg.PWR_STATUS_THERM_DAMPED 0 = true ∧ t.pw.trans.map Trans.to_ = some mDamped) ∧
  (∀ (s : State) (x : Nat), s.pw.coolFrom = some x → s.flag Reg.PWR_STATUS_THERM_DAMPED 0 = true → s.mode = mDamped →
    s.pw.trans = none → s.rd Reg.PWR_STATUS_REQ_MODE 0 = mBurn → s.gives (.thermalExit) fun t => t.flag
    Reg.PWR_STATUS_THERM_DAMPED 0 = false ∧ t.pw.trans.map Trans.to_ = some mBurn ∧ x + s.rd1 Reg.PWR_THERM_CFG_EXIT_S 0 * hz
    ≤ t.now) ∧
  (∀ (s : State), s.pw.thermTrip = false → s.pw.porst = false → s.gives (.thermtrip) fun t => t.pw.thermTrip = true ∧ t.out =
    .pin pinThermtrip false :: s.out) ∧
  (∀ (s : State) (dt own : Nat), s.mode ≠ mBanked → s.pw.porst = false → s.pw.admits = [] → s.gives (.powerCapEstimate dt own)
    fun t => t.rd Reg.PWR_CAP_EST 0 = min 65535 (own + s.capLoad) ∧ t.now = s.now + dt ∧ (s.mode ≠ mDamped → t.flag
    Reg.PWR_STATUS_OVER_CAP 0 = false)) ∧
  (∀ (s : State) (x : Nat), s.pw.overFrom = some x → s.pw.capRaised = false → s.gives (.capExceeded) fun t => t.lastEvent
    0x0103 [s.rd Reg.PWR_CAP_EST 0, s.capNow] ∧ t.pw.capRaised = true ∧ x + hz ≤ t.now)

/-- EVENT_LOG_COPY with room in the log copies the oldest entry not yet copied (R885, R888). EVENT_INTERRUPT announces the
entries since the last message, no sooner than a millisecond after it (R889). The end of a window raises its event with its
count (R962). A read of a reserved offset gives 0 and a write changes no register but the event logic's (R18, R19). FETCH_HOLD
is acknowledged (R46, R47). Each of these commands is stated to complete, under its clauses' hypotheses alone: eventLogCopy,
eventInterrupt, eventWindowEnd, bar0ReservedAccess, fetchHold. -/
def Obligations.EventLogAndReservedAccess : Prop :=
  (∀ (s : State) (e : EvEntry), s.fwRuns = true → s.firm.booting = false → s.flash.prog = none → s.flash.pfDue = false →
    s.uncopied = some e → s.ringPlace 164 228 8 ≠ none → s.gives (.eventLogCopy) fun t => t.ev.copied = e.seq ∧ t.firm.logged
    = true ∧ t.ev.ring = s.ev.ring) ∧
  (∀ (s : State), s.ev.unsent = true → s.flag Reg.EVT_CTRL_IEN 0 = true → s.gives (.eventInterrupt) fun t => t.ev.unsent =
    false ∧ t.ev.lastMsi = some t.now ∧ (∀ x, s.ev.lastMsi = some x → x + msCycles ≤ t.now) ∧ (s.ev.lastMsi = none → t.now =
    s.now)) ∧
  (∀ (s : State) (c i : Nat) (w : Window), (s.ev.windows.find? fun w => w.code == c && w.inst == i) = some w → s.gives
    (.eventWindowEnd c i) fun t => t.lastEvent c (if w.counted then w.data ++ [w.count] else w.data) ∧ w.endAt ≤ t.now ∧ ∀ x ∈
    t.ev.windows, ¬(x.code = c ∧ x.inst = i)) ∧
  (∀ (s : State) (o : BitVec 26), s.gives (.bar0ReservedAccess o false) fun t => t.out = .regData o.toNat [0, 0, 0, 0] ::
    s.out ∧ t.mem = s.mem) ∧
  (∀ (s : State) (o : BitVec 26), s.gives (.bar0ReservedAccess o true) fun t => t.out = s.out ∧ t.mem = s.mem ∧ t.cmds =
    s.cmds) ∧
  (∀ (s : State) (on : Bool), s.gives (.fetchHold on) fun t => t.flag Reg.GCTL_CTRL_FETCH_HOLD 0 = on ∧ t.flag
    Reg.GCTL_CTRL_HOLD_ACK 0 = on ∧ t.now = s.now)

/-- TALLY_START with both checks passed runs, takes ACKED from the store and makes a START record due (R819, R845); a failed
check sets FAULT, counts nothing and enters CINDER with the cause TALLY (R819). The oldest tap event adds its amount to its
account's open counter, which saturates (R821, R823, R824); while the fuse is intact the test port adds likewise, after it
nothing is injected (R849). A sample adds 1 to STATION_MS of the account charged (R822), at a multiple of 1,500,000 of T. A
minute boundary opens an interval at its TIME_SEC with no counts, and the counts of an account that had no closing slot become
one whose START_SEC is the opening of the interval moved, with END_SEC the boundary's TIME_SEC (R825). The close of a power
failure comes 10 ms after PWRFAIL_N asserted, or as soon as VDD_CORE is found low outside BANKED, closes the interval, marks
every closing slot POWER_FAIL and makes PF_DONE due (R842). Each of these commands is stated to complete, under its clauses'
hypotheses alone: tallyStart, tallyTapEvent, tallyMsSample, tallyMinuteBoundary, tallyPfClose. -/
def Obligations.TallyCountsAndCloses : Prop :=
  (∀ (s : State), s.pw.porst = false → s.flag Reg.TALLY_STATUS_RUNNING 0 = false → s.flag Reg.TALLY_STATUS_FAULT 0 = false →
    s.gives (.tallyStart true true) fun t => t.tallyOn = true ∧ t.flag Reg.TALLY_STATUS_ROM_OK 0 = true ∧ t.flag
    Reg.TALLY_STATUS_KAT_OK 0 = true ∧ t.rd Reg.TALLY_ACKED_SEQ 0 = s.ackedSeq % 2 ^ 48 ∧ t.tally.open_ = [] ∧
    t.tally.due.length = s.tally.due.length + 1 ∧ t.tally.due.getLast?.map (fun r => (r.type, r.end_)) = some (3, s.tb.sec) ∧
    t.mode = s.mode ∧ t.flash = s.flash) ∧
  (∀ (s : State) (a b : Bool), s.pw.porst = false → s.flag Reg.TALLY_STATUS_RUNNING 0 = false → s.flag Reg.TALLY_STATUS_FAULT
    0 = false → (a && b) = false → s.mode ≠ mBanked → s.mode ≠ mCinder → s.gives (.tallyStart a b) fun t => t.flag
    Reg.TALLY_STATUS_FAULT 0 = true ∧ t.tallyOn = false ∧ t.mode = mCinder ∧ t.flag Reg.TALLY_STATUS_ROM_OK 0 = a ∧ t.flag
    Reg.TALLY_STATUS_KAT_OK 0 = b ∧ t.tally.due = s.tally.due) ∧
  (∀ (s : State) (a i n e : Nat) (r : List (Nat × Nat × Nat × Nat)), s.tallyOn = true → s.tally.pfClosed = false →
    s.boundaryDue = false → s.tally.taps = (a, i, n, e) :: r → s.gives (.tallyTapEvent none) fun t => t.tally.taps = r ∧ mget
    [0, 0, 0, 0] t.tally.open_ a = (addCount (mget [0, 0, 0, 0] s.tally.open_ a) i n).1 ∧ (∀ b : Nat, b ≠ a → mget [0, 0, 0,
    0] t.tally.open_ b = mget [0, 0, 0, 0] s.tally.open_ b) ∧ t.now = s.now) ∧
  (∀ (s : State) (a : BitVec 12) (i : Fin 4) (n : Nat), s.tallyOn = true → s.sealed = false → s.tally.pfClosed = false →
    s.boundaryDue = false → s.gives (.tallyTapEvent (some (a, i, n))) fun t => mget [0, 0, 0, 0] t.tally.open_ a.toNat =
    (addCount (mget [0, 0, 0, 0] s.tally.open_ a.toNat) i n).1 ∧ a.toNat ∈ t.tally.tests ∧ t.flag Reg.TALLY_STATUS_TEST_EN 0 =
    true) ∧
  (∀ (s : State) (a : BitVec 12) (i : Fin 4) (n : Nat), s.sealed = true → s.gives (.tallyTapEvent (some (a, i, n))) fun t => t
    = s) ∧
  (∀ (s : State) (a : Nat), s.tallyOn = true → s.tally.pfClosed = false → (s.advanceMod msCycles).boundaryDue = false →
    (s.advanceMod msCycles).sampled = [a] → s.gives (.tallyMsSample) fun t => t.lin % 1500000 = 0 ∧ s.now < t.now ∧ mget [0,
    0, 0, 0] t.tally.open_ a = (addCount (mget [0, 0, 0, 0] s.tally.open_ a) 3 1).1 ∧ (∀ b : Nat, b ≠ a → mget [0, 0, 0, 0]
    t.tally.open_ b = mget [0, 0, 0, 0] s.tally.open_ b)) ∧
  (∀ (s : State) (l : List (BitVec 12 × Fin 4)), s.timeOk → s.tallyOn = true → timeDiff s.lin (s.tally.next % linMod) < 0 →
    s.gives (.tallyMinuteBoundary l) fun t => t.lin = s.tally.next % linMod ∧ t.tally.open_ = [] ∧ t.rd
    Reg.TALLY_OPEN_START_SEC 0 = s.tally.next / hz % 2 ^ 32 ∧ t.tally.next = nextBoundary (s.tally.next % linMod)) ∧
  (∀ (s : State) (a : Nat) (c : List Nat), s.timeOk → s.tallyOn = true → timeDiff s.lin (s.tally.next % linMod) < 0 →
    s.tally.closing = [] → s.tally.taps = [] → s.tally.open_ = [(a, c)] → c.length = 4 → c.any (· != 0) = true → ∀ i < 4,
    c.getD i 0 ≤ counterMax i → s.gives (.tallyMinuteBoundary []) fun t => (mfind t.tally.closing a).map (fun x => (x.start,
    x.end_, x.minutes, x.counts)) = some (s.rd Reg.TALLY_OPEN_START_SEC 0, s.tally.next / hz % 2 ^ 32, 1, c)) ∧
  (∀ (s : State) (t0 : Nat), s.tally.pfAt = some t0 → s.tally.pfClosed = false → s.tallyOn = true → s.gives (.tallyPfClose
    none) fun t => t.tally.pfClosed = true ∧ t.flag Reg.TALLY_STATUS_PF_ACTIVE 0 = true ∧ t.now = max s.now (t0 + 10 *
    1500000) ∧ t.tally.open_ = [] ∧ (∀ p ∈ t.tally.closing, p.2.pf = true) ∧ t.tally.due.getLast?.map TRec.type = some 4) ∧
  (∀ (s : State) (t0 dt : Nat), s.tally.pfAt = some t0 → s.tally.pfClosed = false → s.tallyOn = true → s.mode ≠ mBanked →
    s.gives (.tallyPfClose (some dt)) fun t => t.tally.pfClosed = true ∧ t.now = max s.now (min (t0 + 10 * 1500000) (s.now +
    dt)) ∧ t.tally.open_ = [])

/-- TALLY_RECORD_PROGRAM writes what R839 and R840 put first: its slot's word 1 takes SEQ, one more than the newest record's
(R833), a closing slot written is empty (R840), a record due is due no more, and an ACK record sets ACKED to its UP_TO and
lets the commands it covers go (R848). When a word does not read back the slot is abandoned and nothing that was to be written
is dropped (R837). TALLY_SECTOR_ERASE begins the erase of a sector that is spent (R838). With the pin high for 2 s in VERIFY,
TALLY_SEAL blows the fuse at that moment, and again when the readback fails: on success SEALED holds and a SEAL record is due;
sooner, or when both readbacks fail, the fuse stays intact (R850). Each of these commands is stated to complete, under its
clauses' hypotheses alone: tallyRecordProgram, tallySectorErase, tallySeal. -/
def Obligations.TallyRecordsAndSeal : Prop :=
  (∀ (s : State) (a : Nat) (c : Closing), s.tallyOn = true → s.tallyNext = some (.slot a c) → ∀ k < 8, s.fword (tallyWord
    s.nextSlot + k) = blankWord → s.newestSeq + 1 < 2 ^ 48 → s.gives (.tallyRecordProgram none) fun t => t.fval (tallyWord
    s.nextSlot + 1) = some (s.newestSeq + 1) ∧ mfind t.tally.closing a = none ∧ t.tally.due = s.tally.due ∧ t.now = s.now) ∧
  (∀ (s : State) (i : Nat) (r : TRec), s.tallyOn = true → s.tallyNext = some (.other i r) → ∀ k < 8, s.fword (tallyWord
    s.nextSlot + k) = blankWord → s.newestSeq + 1 < 2 ^ 48 → s.gives (.tallyRecordProgram none) fun t => t.fval (tallyWord
    s.nextSlot + 1) = some (s.newestSeq + 1) ∧ t.tally.due = s.tally.due.eraseIdx i ∧ t.tally.closing = s.tally.closing) ∧
  (∀ (s : State) (u : Nat), s.tallyOn = true → s.tallyNext = some (.ack u) → ∀ k < 8, s.fword (tallyWord s.nextSlot + k) =
    blankWord → s.newestSeq + 1 < 2 ^ 48 → s.gives (.tallyRecordProgram none) fun t => t.fval (tallyWord s.nextSlot + 1) =
    some (s.newestSeq + 1) ∧ t.rd Reg.TALLY_ACKED_SEQ 0 = max u (s.rd Reg.TALLY_ACKED_SEQ 0) % 2 ^ 48 ∧ ∀ x ∈ t.tally.acks,
    max u (s.rd Reg.TALLY_ACKED_SEQ 0) < x.2.2) ∧
  (∀ (s : State) (x : TNext) (k : Fin 9), s.tallyOn = true → s.tallyNext = some x → s.gives (.tallyRecordProgram (some k)) fun
    t => s.nextSlot ∈ t.tally.abandoned ∧ t.tally.closing = s.tally.closing ∧ t.tally.due = s.tally.due ∧ t.tally.acks =
    s.tally.acks ∧ t.lastEvent 0x0C06 [s.nextSlot]) ∧
  (∀ (s : State) (n : Nat), s.tallyOn = true → s.flash.erase = none → s.pw.pfAt = none → n < 128 → s.sectorSpent s.usedSlots n
    = true → s.gives (.tallySectorErase) fun t => ∃ k, k < 128 ∧ s.sectorSpent s.usedSlots k = true ∧ t.flash.erase.map
    Erase.sector = some (228 + k) ∧ t.rd Reg.FLC_ERASE_SECTOR 0 = 228 + k) ∧
  (∀ (s : State) (dt x : Nat) (l a b : Bool), s.flag Reg.TALLY_STATUS_SEAL_REQ 0 = true → s.mode = mVerify → s.sealed = false
    → s.tallyOn = true → s.tally.sealFrom = some x → x + 2 * hz ≤ s.now + dt → (a || b) = true → s.gives (.tallySeal dt l a b)
    fun t => t.sealed = true ∧ t.flag Reg.TALLY_STATUS_TEST_EN 0 = false ∧ t.flag Reg.TALLY_STATUS_SEAL_REQ 0 = l ∧
    t.tally.due.getLast?.map TRec.type = some 6 ∧ t.now = max s.now (x + 2 * hz) + (s.now + dt - max s.now (x + 2 * hz))) ∧
  (∀ (s : State) (dt x : Nat) (l a b : Bool), s.flag Reg.TALLY_STATUS_SEAL_REQ 0 = true → s.mode = mVerify → s.sealed = false
    → s.tallyOn = true → s.tally.sealFrom = some x → s.now + dt < x + 2 * hz ∨ (a || b) = false → s.gives (.tallySeal dt l a
    b) fun t => t.sealed = false ∧ t.tally.due = s.tally.due ∧ t.flag Reg.TALLY_STATUS_SEAL_REQ 0 = l) ∧
  (∀ (s : State) (dt : Nat) (l a b : Bool), s.sealed = true → s.gives (.tallySeal dt l a b) fun t => t.sealed = true ∧
    t.tally.due = s.tally.due ∧ t.now = s.now + dt ∧ t.flag Reg.TALLY_STATUS_SEAL_REQ 0 = l)

/-- LIB_CTRL.EN homes the pickers, REACH first (R507, R531). With no transfer in progress a door request opens the door
(R515); a lock request on a closed door locks it out and its confirmation ends the hold (R516); a door that opens unasked
fails the transfers in progress and holds the library (R517). A held transfer that waits too long fails (R515), one blocked
for 10 s is reported (R521). A transfer that a free picker fits starts with its picker busy (R518). An open record is resolved
by what is sensed (R525). A disc that falls from a picker is lost (R518). An inventory ends with the number of its slots and
of its mismatches (R524). Each of these commands is stated to complete, under its clauses' hypotheses alone: libraryEnable,
doorRequestOpen, doorRequestLock, doorLockConfirmed, doorOpenedUnexpected, doorWaitTimeout, transferWaitTimeout,
transferStart, transferResolve, pickerDiscFall, inventoryComplete. -/
def Obligations.DoorAndTransfersStart : Prop :=
  (∀ (s : State) (m : Fin 2), s.doorOk = true → s.axState (pkAxis 0 2) = axUnref → s.axState (pkAxis 1 2) = axUnref → s.gives
    (.libraryEnable) fun t => t.flag Reg.LIB_CTRL_EN 0 = true ∧ t.axState (pkAxis m 2) = axHoming ∧ t.rd Reg.LIB_PK_STATE m =
    1) ∧
  (∀ (s : State), (∀ x ∈ s.lib.transfers, x.step = 0) → s.pkRest = true → s.gives (.doorRequestOpen) fun t => t.flag
    Reg.LIB_DOOR_OPEN_READY 0 = true ∧ t.flag Reg.LIB_STATUS_DOOR_LOCKED 0 = false ∧ t.lib.hold = true ∧ t.lib.lockOut = false
    ∧ t.lastEvent 0x0709 [0]) ∧
  (∀ (s : State), s.gives (.doorRequestLock true) fun t => t.lib.lockOut = true ∧ t.flag Reg.LIB_DOOR_OPEN_READY 0 = false ∧
    t.flag Reg.LIB_STATUS_DOOR_CLOSED 0 = true) ∧
  (∀ (s : State), s.gives (.doorRequestLock false) fun t => t.lib = s.lib ∧ t.flag Reg.LIB_STATUS_DOOR_CLOSED 0 = false) ∧
  (∀ (s : State), s.lib.lockOut = true → s.gives (.doorLockConfirmed) fun t => t.flag Reg.LIB_STATUS_DOOR_LOCKED 0 = true ∧
    t.lib.hold = false ∧ t.flag Reg.LIB_STATUS_INV_STALE 0 = true ∧ t.lastEvent 0x0709 [1]) ∧
  (∀ (s : State) (c : Bool), s.lib.lockOut = true → s.gives (.doorOpenedUnexpected c) fun t => t.lib.hold = true ∧ (∀ x ∈
    t.lib.transfers, x.step = 0) ∧ t.flag Reg.LIB_STATUS_INV_STALE 0 = true ∧ t.lastEvent 0x0709 [2]) ∧
  (∀ (s : State) (sq tag : Nat) (x : Transfer) (c : Cmd), s.cmd? sq tag = some c → c.local = true → c.phase ≠ .fixed →
    (s.lib.transfers.find? fun t => t.cmd == some (sq, tag) && t.step == 0) = some x → s.lib.hold = true → s.gives
    (.doorWaitTimeout sq tag) fun t => t.ended sq tag stLibraryFault 0 0 0 ∧ (∀ y ∈ t.lib.transfers, y.id ≠ x.id) ∧ max
    x.since s.lib.heldFrom + s.rd Reg.LIB_CFG_DOOR_WAIT_S 0 * hz ≤ t.now) ∧
  (∀ (s : State) (sq tag : Nat) (x : Transfer), (s.lib.transfers.find? fun t => t.cmd == some (sq, tag) && t.step == 0 &&
    !t.blocked) = some x → s.gives (.transferWaitTimeout sq tag) fun t => (∀ y ∈ t.lib.transfers, y.id = x.id → y.blocked =
    true) ∧ x.since + 10 * hz ≤ t.now) ∧
  (∀ (s : State) (x : Transfer), s.libRuns = true → (s.lib.transfers.find? fun t => t.step == 0 && t.locsDue.isEmpty && (s.fit
    t 0 != 1 || s.fit t 1 != 1)) = some x → s.fit x 0 = 0 → locKind x.src = 0 → s.gives (.transferStart) fun t => (∃ y ∈
    t.lib.transfers, y.id = x.id ∧ y.picker = some 0 ∧ y.step = 2 ∧ (y.lo, y.hi) = s.spanOf x 0) ∧ t.rd Reg.LIB_PK_STATE 0 =
    3) ∧
  (∀ (s : State) (m : Fin 2) (x : Transfer), (s.lib.records.find? fun t => t.picker == some m.val) = some x → s.rd
    Reg.LIB_PK_STATE m = 2 → locKind x.src = 0 → x.kind ≠ 2 → s.gives (.transferResolve m false true false) fun t => (t.disc
    x.disc).loc = .home ∧ ∀ y ∈ t.lib.records, y.id ≠ x.id) ∧
  (∀ (s : State) (m : Fin 2) (x : Transfer), (s.lib.records.find? fun t => t.picker == some m.val) = some x → s.rd
    Reg.LIB_PK_STATE m = 2 → s.gives (.transferResolve m false false false) fun t => (t.disc x.disc).loc = .lost ∧ ∀ y ∈
    t.lib.records, y.id ≠ x.id) ∧
  (∀ (s : State) (m : Fin 2) (x : Transfer), (s.lib.transfers.find? fun t => t.picker == some m.val && (t.step == 5 || t.step
    == 6 || t.step == 7 || t.step == 8)) = some x → s.gives (.pickerDiscFall m) fun t => (t.disc x.disc).loc = .lost ∧ t.rd
    Reg.LIB_PK_STATE m = 6 ∧ t.flag Reg.LIB_PK_DISC m = false ∧ ∀ y ∈ t.lib.transfers, y.id ≠ x.id) ∧
  (∀ (s : State) (dt f n sq tag m : Nat) (l : List Bool) (c : Cmd), s.cmd? sq tag = some c → c.local = true → c.phase ≠ .fixed
    → s.lib.inv = some (f, n, some (sq, tag)) → s.lib.transfers = [] → s.lib.records = [] → s.invPicker = some m →
    s.motionHeld = false → s.pkRefused m (inTarget s.posns) = none → (State.scanWalk m ((upTo n).map (f + ·)) (s.pkIn m
    s.posns)).2 = none → s.gives (.inventoryComplete dt l) fun t => t.lib.inv = (if s.lib.invDue = true then some (0, s.rd
    Reg.LIB_CFG_SLOTS 0, none) else none) ∧ t.lib.invDue = s.lib.invDue ∧ s.now + dt ≤ t.now ∧ t.ended sq tag stSuccess n
    (((upTo n).filter fun i => l.getD i false != s.catalogued (f + i)).length) 0)

/-- Each step of a transfer, with the pins read as they should, leads to the next (R518): to the source, grip, lift, to the
destination and release. A slot found empty at the source fails the transfer with the command. A disc not held after the grip
is lost. The last step brings the disc back to its source, home, unmounted, to its station, or into the slot of a MOVE (R518,
R523). A step whose moves the axes refuse waits, with the error in MOT_ERR (R494, R954). Each of these commands is stated to
complete, under its clauses' hypotheses alone: transferProgress. -/
def Obligations.TransfersGoStepByStep : Prop :=
  (∀ (s : State) (m : Fin 2) (x : Transfer) (a b c : Bool) (i k : Nat), (s.lib.transfers.find? fun t => t.picker == some m.val
    && t.step != 0) = some x → s.pkReady m = true → x.ackDue = false → s.pw.pfAt = none → s.pkRefused m x.moves = some (i, k)
    → s.flag Reg.MOT_ERR_VALID 0 = false → s.gives (.transferProgress m a b c) fun t => t.lib = s.lib ∧ t.now = s.now ∧ t.flag
    Reg.MOT_ERR_VALID 0 = true ∧ t.rd Reg.MOT_ERR_CODE 0 = k % 2 ^ Reg.MOT_ERR_CODE.w) ∧
  (∀ (s : State) (m : Fin 2) (x : Transfer) (a b c : Bool), (s.lib.transfers.find? fun t => t.picker == some m.val && t.step
    != 0) = some x → s.pkReady m = true → x.ackDue = false → s.pw.pfAt = none → s.pkRefused m x.moves = none → x.step = 2 →
    s.gives (.transferProgress m a b c) fun t => ∃ y ∈ t.lib.transfers, y.id = x.id ∧ y.step = 3 ∧ t.flag Reg.LIB_PK_SLOT_SNS
    m = a) ∧
  (∀ (s : State) (m : Fin 2) (x : Transfer), (s.lib.transfers.find? fun t => t.picker == some m.val && t.step != 0) = some x →
    s.pkReady m = true → x.ackDue = false → s.pw.pfAt = none → s.pkRefused m x.moves = none → x.step = 3 → s.gives
    (.transferProgress m true false true) fun t => ∃ y ∈ t.lib.transfers, y.id = x.id ∧ y.step = 4) ∧
  (∀ (s : State) (m : Fin 2) (x : Transfer) (q g : Nat) (c : Cmd), s.cmd? q g = some c → c.local = true → c.phase ≠ .fixed →
    (s.lib.transfers.find? fun t => t.picker == some m.val && t.step != 0) = some x → s.pkReady m = true → x.ackDue = false →
    s.pw.pfAt = none → s.pkRefused m x.moves = none → x.step = 3 → x.cmd = some (q, g) → s.lib.opening = false → s.gives
    (.transferProgress m false false true) fun t => t.ended q g stLibraryFault 0 0 0 ∧ (∀ y ∈ t.lib.transfers, y.id ≠ x.id) ∧
    t.rd Reg.LIB_PK_STATE m = 2) ∧
  (∀ (s : State) (m : Fin 2) (x : Transfer), (s.lib.transfers.find? fun t => t.picker == some m.val && t.step != 0) = some x →
    s.pkReady m = true → x.ackDue = false → s.pw.pfAt = none → s.pkRefused m x.moves = none → x.step = 4 → s.gives
    (.transferProgress m true true false) fun t => ∃ y ∈ t.lib.transfers, y.id = x.id ∧ y.step = 5) ∧
  (∀ (s : State) (m : Fin 2) (x : Transfer) (a : Bool), (s.lib.transfers.find? fun t => t.picker == some m.val && t.step != 0)
    = some x → s.pkReady m = true → x.ackDue = false → s.pw.pfAt = none → s.pkRefused m x.moves = none → x.step = 5 → s.gives
    (.transferProgress m a true false) fun t => (∃ y ∈ t.lib.transfers, y.id = x.id ∧ y.step = 6) ∧ (t.disc x.disc).loc =
    .picker m) ∧
  (∀ (s : State) (m : Fin 2) (x : Transfer) (a : Bool), (s.lib.transfers.find? fun t => t.picker == some m.val && t.step != 0)
    = some x → s.pkReady m = true → x.ackDue = false → s.pw.pfAt = none → s.pkRefused m x.moves = none → x.step = 5 → s.gives
    (.transferProgress m a false false) fun t => (∀ y ∈ t.lib.transfers, y.id ≠ x.id) ∧ (t.disc x.disc).loc = .lost ∧ t.rd
    Reg.LIB_PK_STATE m = 6) ∧
  (∀ (s : State) (m : Fin 2) (x : Transfer) (a b c : Bool), (s.lib.transfers.find? fun t => t.picker == some m.val && t.step
    != 0) = some x → s.pkReady m = true → x.ackDue = false → s.pw.pfAt = none → s.pkRefused m x.moves = none → x.step = 6 →
    locKind x.dst = 0 → s.gives (.transferProgress m a b c) fun t => ∃ y ∈ t.lib.transfers, y.id = x.id ∧ y.step = 7) ∧
  (∀ (s : State) (m : Fin 2) (x : Transfer) (b c : Bool), (s.lib.transfers.find? fun t => t.picker == some m.val && t.step !=
    0) = some x → s.pkReady m = true → x.ackDue = false → s.pw.pfAt = none → s.pkRefused m x.moves = none → x.step = 7 →
    s.gives (.transferProgress m false b c) fun t => ∃ y ∈ t.lib.transfers, y.id = x.id ∧ y.step = 8) ∧
  (∀ (s : State) (m : Fin 2) (x : Transfer) (a : Bool), (s.lib.transfers.find? fun t => t.picker == some m.val && t.step != 0)
    = some x → s.pkReady m = true → x.ackDue = false → s.pw.pfAt = none → s.pkRefused m x.moves = none → x.step = 8 → s.gives
    (.transferProgress m a false true) fun t => ∃ y ∈ t.lib.transfers, y.id = x.id ∧ y.step = 9) ∧
  (∀ (s : State) (m : Fin 2) (x : Transfer) (a b d : Bool) (q g : Nat) (c : Cmd), s.cmd? q g = some c → c.local = true →
    c.phase ≠ .fixed → (s.lib.transfers.find? fun t => t.picker == some m.val && t.step != 0) = some x → s.pkReady m = true →
    x.ackDue = false → s.pw.pfAt = none → s.pkRefused m x.moves = none → x.step = 9 → x.cmd = some (q, g) → x.kind = 1 →
    x.back = false → s.gives (.transferProgress m a b d) fun t => (t.disc x.disc).loc = .home ∧ (t.disc x.disc).mounted =
    false ∧ t.ended q g stSuccess 0 0 0 ∧ ∀ y ∈ t.lib.transfers, y.id ≠ x.id) ∧
  (∀ (s : State) (m : Fin 2) (x : Transfer) (a b d : Bool) (q g : Nat) (c : Cmd), s.cmd? q g = some c → c.local = true →
    c.phase ≠ .fixed → (s.lib.transfers.find? fun t => t.picker == some m.val && t.step != 0) = some x → s.pkReady m = true →
    x.ackDue = false → s.pw.pfAt = none → s.pkRefused m x.moves = none → x.step = 9 → x.cmd = some (q, g) → x.kind = 2 →
    x.back = false → s.gives (.transferProgress m a b d) fun t => (t.disc (x.disc / 4096 * 4096 + locIndex x.dst)).loc = .home
    ∧ t.ended q g stSuccess 0 0 0 ∧ ∀ y ∈ t.lib.transfers, y.id ≠ x.id) ∧
  (∀ (s : State) (m : Fin 2) (x : Transfer) (a b d : Bool), (s.lib.transfers.find? fun t => t.picker == some m.val && t.step
    != 0) = some x → s.pkReady m = true → x.ackDue = false → s.pw.pfAt = none → s.pkRefused m x.moves = none → x.step = 9 →
    x.kind = 0 → x.back = false → x.dstCell = s.cell → s.gives (.transferProgress m a b d) fun t => (t.disc x.disc).loc =
    .station (locIndex x.dst) ∧ ∀ y ∈ t.lib.transfers, y.id ≠ x.id) ∧
  (∀ (s : State) (m : Fin 2) (x : Transfer) (a b d : Bool), (s.lib.transfers.find? fun t => t.picker == some m.val && t.step
    != 0) = some x → s.pkReady m = true → x.ackDue = false → s.pw.pfAt = none → s.pkRefused m x.moves = none → x.step = 9 →
    x.back = true → s.gives (.transferProgress m a b d) fun t => (t.disc x.disc).loc = s.placeOf x.dstCell x.dst ∧ ∀ y ∈
    t.lib.transfers, y.id ≠ x.id)

/-- MOUNT of a disc mounted already answers with its station; of a disc at home it asks for a transfer (R663). UNMOUNT of a
disc in a station is under way there; of one at home it ends with DISC_NOT_MOUNTED (R664). MOVE asks for a transfer to a slot
that is home to no disc, and ends with INVALID_FIELD otherwise (R665). A disc with an open transfer ends them with BUSY_MOVING
(R522). INVENTORY begins a scan (R524, R665). A mount is complete with its heads READY: the disc is mounted under the DISC_ID
that was read (R417 to R419, R808). Each of these commands is stated to complete, under its clauses' hypotheses alone: mount,
unmount, move, inventory, mountComplete. -/
def Obligations.MountUnmountMoveAndInventory : Prop :=
  (∀ (s : State) (q : BitVec 20) (tag : BitVec 12) (c : Cmd) (n : Nat), s.runnable q.toNat tag.toNat opMount = some c →
    c.local = true → s.discBlocked (aaddrDisc c.aaddr) = none → (s.disc (aaddrDisc c.aaddr)).loc = .station n → (s.disc
    (aaddrDisc c.aaddr)).mounted = true → s.gives (.mount q tag) fun t => ∃ u : State, t = u.settle ∧ u.ended c.sq c.tag
    stSuccess (n + s.cell * 256) 0 0 ∧ u.lib = s.lib) ∧
  (∀ (s : State) (q : BitVec 20) (tag : BitVec 12) (c : Cmd) (k n : Nat), s.runnable q.toNat tag.toNat opMount = some c →
    s.discBlocked (aaddrDisc c.aaddr) = none → (s.disc (aaddrDisc c.aaddr)).loc = .home → s.mountTarget (aaddrDisc c.aaddr /
    4096) (c.get 24 2) = .inl (k, n) → s.gives (.mount q tag) fun t => ∃ u : State, t = u.settle ∧ u.underWay c.sq c.tag ∧
    u.lib.transfers.map (fun x => (x.cmd, x.disc, x.dst, x.dstCell)) = s.lib.transfers.map (fun x => (x.cmd, x.disc, x.dst,
    x.dstCell)) ++ [(some (c.sq, c.tag), aaddrDisc c.aaddr, locStation n, k)]) ∧
  (∀ (s : State) (q : BitVec 20) (tag : BitVec 12) (c : Cmd), s.runnable q.toNat tag.toNat opMount = some c → c.local = true →
    s.discMoving (aaddrDisc c.aaddr) = true → s.gives (.mount q tag) fun t => ∃ u : State, t = u.settle ∧ u.ended c.sq c.tag
    stBusyMoving 0 0 0 ∧ u.lib = s.lib) ∧
  (∀ (s : State) (q : BitVec 20) (tag : BitVec 12) (c : Cmd), s.runnable q.toNat tag.toNat opUnmount = some c → c.local = true
    → s.discBlocked (aaddrDisc c.aaddr) = none → (s.disc (aaddrDisc c.aaddr)).loc = .home → s.gives (.unmount q tag) fun t =>
    ∃ u : State, t = u.settle ∧ u.ended c.sq c.tag stDiscNotMounted 0 0 0 ∧ u.lib = s.lib) ∧
  (∀ (s : State) (q : BitVec 20) (tag : BitVec 12) (c : Cmd) (n : Nat), s.runnable q.toNat tag.toNat opUnmount = some c →
    s.discBlocked (aaddrDisc c.aaddr) = none → (s.disc (aaddrDisc c.aaddr)).loc = .station n → s.gives (.unmount q tag) fun t
    => ∃ u : State, t = u.settle ∧ u.underWay c.sq c.tag ∧ (u.cmd? c.sq c.tag).map (fun x => x.stn) = some (some n)) ∧
  (∀ (s : State) (q : BitVec 20) (tag : BitVec 12) (c : Cmd), s.runnable q.toNat tag.toNat opMove = some c → c.local = true →
    s.discBlocked (aaddrDisc c.aaddr) = none → (s.disc (aaddrDisc c.aaddr)).loc = .home → s.homeOf (aaddrDisc c.aaddr / 4096)
    (c.get 24 2) = true → s.gives (.move q tag) fun t => ∃ u : State, t = u.settle ∧ u.ended c.sq c.tag stInvalidField 0 0 24
    ∧ u.lib = s.lib) ∧
  (∀ (s : State) (q : BitVec 20) (tag : BitVec 12) (c : Cmd), s.runnable q.toNat tag.toNat opMove = some c → s.discBlocked
    (aaddrDisc c.aaddr) = none → (s.disc (aaddrDisc c.aaddr)).loc = .home → s.homeOf (aaddrDisc c.aaddr / 4096) (c.get 24 2) =
    false → s.gives (.move q tag) fun t => ∃ u : State, t = u.settle ∧ u.underWay c.sq c.tag ∧ u.lib.transfers.map (fun x =>
    (x.cmd, x.disc, x.dst, x.kind)) = s.lib.transfers.map (fun x => (x.cmd, x.disc, x.dst, x.kind)) ++ [(some (c.sq, c.tag),
    aaddrDisc c.aaddr, locSlot (c.get 24 2), 2)]) ∧
  (∀ (s : State) (q : BitVec 20) (tag : BitVec 12) (c : Cmd), s.runnable q.toNat tag.toNat opInventory = some c → s.lib.inv =
    none → c.get 18 2 ≠ 0 → s.gives (.inventory q tag) fun t => t.underWay c.sq c.tag ∧ t.lib.inv = some (c.get 16 2, c.get 18
    2, some (c.sq, c.tag))) ∧
  (∀ (s : State) (q : BitVec 20) (tag : BitVec 12) (c : Cmd), s.runnable q.toNat tag.toNat opInventory = some c → s.lib.inv =
    none → c.get 18 2 = 0 → s.gives (.inventory q tag) fun t => t.underWay c.sq c.tag ∧ t.lib.inv = some (c.get 16 2,
    s.slotsOf (c.get 20 1) - c.get 16 2, some (c.sq, c.tag))) ∧
  (∀ (s : State) (n : Fin 128) (a b : MgmtSide) (x y : List (Nat × List SlotRead)) (d : Nat), s.mounting n = true → s.flag
    Reg.STN_SP_STATUS_AT_SPEED n = true → s.flag Reg.STN_HD_CTRL_EN (2 * n) = true → s.flag Reg.STN_HD_CTRL_EN (2 * n + 1) =
    true → s.hd (2 * n) = hdReady → s.hd (2 * n + 1) = hdReady → s.discIn n = some d → s.gives (.mountComplete n a b x y) fun
    t => ∃ u : State, t = u.settle ∧ (u.disc d).mounted = true ∧ (u.disc d).discId = discIdRead (mgmtArea 0 a) (mgmtArea 1 b))

/-- CASCADE_ENABLE sets EN and the cell number: 0 on the master, which lists itself, CELL_ID on a slave, which waits (R535). A
port that comes up takes RAW from the median of its 16 exchanges and sets UP; one that is up only takes RAW again, a second on
(R538). Block errors are counted, and from 16 of them on a member's port goes down, which sets BROKEN and raises RING_BROKEN
(R564). An ECHO of a neighbour is answered (R538). The master announces on both ports every 10 ms and a slave forwards an
ANNOUNCE with one more hop (R542); a waiting slave that heard no other master joins (R543), and a master that hears another
serial number enters CONFLICT (R545). The master lists the slave that it admits and raises MEMBER_JOINED, or refuses one whose
number another serial number holds (R543, R544); a refused slave waits and shows the cause (R544); one that is listed is a
member with the master's table (R543, R546). FORGET removes an ABSENT member (R546). A member not heard for 30 ms becomes
ABSENT, and a slave that hears no ANNOUNCE for 30 ms reaches no other cell and waits (R565); it leaves STACK for HOLDOVER, as
it does without a SYNC for HOLD_MISS seconds (R552). Each of these commands is stated to complete, under its clauses'
hypotheses alone: cascadeEnable, cascadeForget, cascPortUp, cascPortDown, ringEchoReceive, announceSend, announceReceive,
joinReceive, membersReceive, memberAbsent, masterLost, stackSyncTimeout. -/
def Obligations.RingFormsAndChanges : Prop :=
  (∀ (s : State), s.flag Reg.CASC_CTRL_EN 0 = false → s.isMaster = true → s.gives (.cascadeEnable) fun t => t.flag
    Reg.CASC_CTRL_EN 0 = true ∧ t.cell = 0 ∧ t.cs = csMaster ∧ t.flag Reg.CASC_CELL_LISTED 0 = true ∧ t.rd
    Reg.GCTL_CELL_STACK_SIZE 0 = t.listed.length) ∧
  (∀ (s : State), s.flag Reg.CASC_CTRL_EN 0 = false → s.isMaster = false → s.gives (.cascadeEnable) fun t => t.flag
    Reg.CASC_CTRL_EN 0 = true ∧ t.cell = s.rd Reg.CASC_CFG_CELL_ID 0 % 8 ∧ t.cs = csWait) ∧
  (∀ (s : State) (c : Nat), s.cs = csMaster → c = s.rd Reg.CASC_CTRL_FORGET_CELL 0 → c ≠ s.cell → s.flag Reg.CASC_CELL_LISTED
    c = true → s.flag Reg.CASC_CELL_REACH c = false → s.gives (.cascadeForget) fun t => t.flag Reg.CASC_CELL_LISTED c = false
    ∧ mhas t.stack.serials c = false ∧ (∀ d ∈ upTo 8, d ≠ c → t.rd Reg.CASC_CELL_LISTED d = s.rd Reg.CASC_CELL_LISTED d)) ∧
  (∀ (s : State) (p : Fin 2) (e : List (Nat × Nat)) (w : Bool), s.flag Reg.CASC_CTRL_EN 0 = true → e.length = 16 → s.mode ≠
    mBanked → s.portUp p = false → s.gives (.cascPortUp p e w) fun t => t.portUp p = true ∧ t.flag Reg.CASC_PORT_STATUS_LOCK p
    = true ∧ t.rd Reg.CASC_PORT_STATUS_RAW p = (((medianNat (e.map fun x => 32 * x.1 - 32 * x.2) / 64 : Nat) : Int) - s.rdS
    Reg.CASC_PORT_TRIM_TRIM p).toNat % 2 ^ 10 ∧ t.portUp (1 - p.val) = s.portUp (1 - p.val)) ∧
  (∀ (s : State) (p : Fin 2) (e : List (Nat × Nat)) (w : Bool), s.flag Reg.CASC_CTRL_EN 0 = true → e.length = 16 → s.mode ≠
    mBanked → s.portUp p = true → s.gives (.cascPortUp p e w) fun t => t.rd Reg.CASC_PORT_STATUS_RAW p = (((medianNat (e.map
    fun x => 32 * x.1 - 32 * x.2) / 64 : Nat) : Int) - s.rdS Reg.CASC_PORT_TRIM_TRIM p).toNat % 2 ^ 10 ∧ t.portUp p = true ∧
    t.now = max s.now (mget 0 s.stack.rawAt p + hz) ∧ mget 0 t.stack.rawAt p = t.now ∧ ∀ k ∈ upTo 16, Out.ring p 15 0x05 k [k]
    ∈ t.out) ∧
  (∀ (s : State) (p : Fin 2) (k : Nat), s.portUp p = true → s.cs = csMember ∨ s.cs = csMaster → 16 ≤ k → s.gives
    (.cascPortDown p k) fun t => t.portUp p = false ∧ t.portUp (1 - p.val) = s.portUp (1 - p.val) ∧ t.flag
    Reg.CASC_STATUS_BROKEN 0 = true ∧ t.lastEvent 0x0F04 [p.val] ∧ t.cs = s.cs) ∧
  (∀ (s : State) (p : Fin 2) (k : Nat), k < 16 → s.rd Reg.CASC_ERR_BLOCK_ERR 0 + k < 2 ^ Reg.CASC_ERR_BLOCK_ERR.w → s.gives
    (.cascPortDown p k) fun t => t.rd Reg.CASC_ERR_BLOCK_ERR 0 = s.rd Reg.CASC_ERR_BLOCK_ERR 0 + k ∧ ∀ x : Fin 2, t.portUp x =
    s.portUp x) ∧
  (∀ (s : State) (p : Fin 2) (q : BitVec 8) (n : Nat), s.flag Reg.CASC_PORT_STATUS_LOCK p = true → s.gives (.ringEchoReceive p
    q n) fun t => t = s.emit (.ringEcho p [q.toNat, n])) ∧
  (∀ (s : State), s.cs = csMaster → s.portUp 0 = true → s.portUp 1 = true → s.gives (.announceSend) fun t => t.now = max s.now
    (s.stack.announceAt + 10 * 1500000) ∧ t.stack.announceAt = t.now ∧ (∀ p ∈ upTo 2, Out.ring p 15 0x01 0
    [Config.serial.toNat, s.rd Reg.CASC_STATUS_SHARED 0, s.stack.version, 0] ∈ t.out)) ∧
  (∀ (s : State) (p : Fin 2) (n : BitVec 64) (sh : Bool) (v h : Nat), s.portUp p = true → s.isMaster = false → s.portUp (1 -
    p.val) = true → s.gives (.announceReceive p true n sh v h) fun t => Out.ring (1 - p.val) 15 0x01 0 [n.toNat, if sh then 1
    else 0, v, h + 1] ∈ t.out ∧ t.flag Reg.CASC_CELL_REACH 0 = true ∧ t.stack.announceAt = s.now) ∧
  (∀ (s : State) (p : Fin 2) (n : BitVec 64) (sh : Bool) (v h : Nat), s.portUp p = true → s.isMaster = false → s.cs = csWait →
    s.stack.masters = [] → s.gives (.announceReceive p true n sh v h) fun t => t.cs = csJoin ∧ t.stack.unacked.getLast?.map
    (fun m => (m.dst, m.mtype, m.items)) = some (0, 0x02, [s.rd Reg.CASC_CFG_CELL_ID 0, Config.serial.toNat, s.rd
    Reg.LIB_CFG_SLOTS 0, s.rd Reg.GCTL_SIZE_STN_FITTED 0])) ∧
  (∀ (s : State) (p : Fin 2) (n : BitVec 64) (sh : Bool) (v h : Nat), s.portUp p = true → s.isMaster = true → s.cs = csMaster
    → n ≠ Config.serial → s.gives (.announceReceive p true n sh v h) fun t => t.cs = csConflict ∧ t.lastEvent 0x0F03 (w2
    n.toNat)) ∧
  (∀ (s : State) (p : Fin 2) (n : BitVec 64) (sh : Bool) (v h : Nat), s.portUp p = true → s.gives (.announceReceive p false n
    sh v h) fun t => t = s.bump Reg.CASC_ERR_MSG_ERR 0 1) ∧
  (∀ (s : State) (p : Fin 2) (h : Fin 8) (r : RingIn) (id x a b : Nat), s.cs = csMaster → s.portUp p = true → r.intact = true
    → r.dst = s.cell → r.src ≠ s.cell → r.items = [id, x, a, b] → 1 ≤ id → id ≤ 7 → (mfind s.stack.serials id = none ∨ mfind
    s.stack.serials id = some x) → s.gives (.joinReceive p h r) fun t => t.flag Reg.CASC_CELL_LISTED id = true ∧ t.flag
    Reg.CASC_CELL_REACH id = true ∧ mfind t.stack.serials id = some x ∧ t.rd Reg.CASC_CELL_MAG_SLOTS id = a % 2 ^ 13 ∧
    t.lastEvent 0x0F01 (id :: w2 x)) ∧
  (∀ (s : State) (p : Fin 2) (h : Fin 8) (r : RingIn) (id x y a b : Nat), s.cs = csMaster → s.portUp p = true → r.intact =
    true → r.dst = s.cell → r.src ≠ s.cell → r.items = [id, x, a, b] → 1 ≤ id → id ≤ 7 → mfind s.stack.serials id = some y → y
    ≠ x → s.gives (.joinReceive p h r) fun t => t.rd Reg.CASC_CELL_LISTED id = s.rd Reg.CASC_CELL_LISTED id ∧ t.stack.serials
    = s.stack.serials ∧ t.lastEvent 0x0F02 [id, 2]) ∧
  (∀ (s : State) (p : Fin 2) (r : RingIn) (c : Nat), s.isMaster = false → s.cs = csJoin → r.intact = true → r.items = [c] →
    s.gives (.membersReceive p r) fun t => t.cs = csWait ∧ t.rd Reg.CASC_STATUS_REFUSE 0 = c % 16) ∧
  (∀ (s : State) (p : Fin 2) (r : RingIn), s.isMaster = false → s.cs = csJoin → s.portUp p = true → r.intact = true → r.dst =
    s.cell → r.src ≠ s.cell → r.items.length ≠ 1 → bitOf (r.items.getD s.cell 0) 28 = true → s.gives (.membersReceive p r) fun
    t => t.cs = csMember ∧ t.rd Reg.CASC_STATUS_REFUSE 0 = 0 ∧ (∀ c ∈ upTo 8, t.rd Reg.CASC_CELL_LISTED c = bitsOf
    (r.items.getD c 0) 28 1) ∧ ∀ c ∈ upTo 8, t.rd Reg.CASC_CELL_REACH c = bitsOf (r.items.getD c 0) 29 1) ∧
  (∀ (s : State) (c : Fin 8), s.cs = csMaster → c.val ≠ s.cell → s.flag Reg.CASC_CELL_LISTED c = true → s.flag
    Reg.CASC_CELL_REACH c = true → s.gives (.memberAbsent c) fun t => t.flag Reg.CASC_CELL_REACH c = false ∧ t.flag
    Reg.CASC_CELL_LISTED c = true ∧ t.lastEvent 0x0F06 [c.val] ∧ t.now = max s.now (mget 0 s.stack.heard c + 30 * 1500000)) ∧
  (∀ (s : State), s.isMaster = false → s.stack.masterLost = false → s.cs = csMember ∨ s.cs = csJoin → s.rd
    Reg.TIME_STATUS_STATE 0 ≠ dStack → s.gives (.masterLost) fun t => t.cs = csWait ∧ (∀ c ∈ upTo 8, c ≠ s.cell → t.flag
    Reg.CASC_CELL_REACH c = false) ∧ t.lastEvent 0x0F07 [] ∧ t.now = max s.now (s.stack.announceAt + 30 * 1500000)) ∧
  (∀ (s : State), s.isMaster = false → s.stack.masterLost = false → s.cs = csMember ∨ s.cs = csJoin → s.rd
    Reg.TIME_STATUS_STATE 0 = dStack → s.gives (.masterLost) fun t => t.cs = csWait ∧ t.rd Reg.TIME_STATUS_STATE 0 = dHoldover
    ∧ ∃ x ∈ t.ev.ring.reverse.take 3, x.code = 0x0208 ∧ x.data = [0]) ∧
  (∀ (s : State), s.rd Reg.TIME_STATUS_STATE 0 = dStack → s.gives (.stackSyncTimeout) fun t => t.rd Reg.TIME_STATUS_STATE 0 =
    dHoldover ∧ (∃ x ∈ t.ev.ring.reverse.take 3, x.code = 0x0208 ∧ x.data = [0]) ∧ s.tb.holdFrom + s.rd1
    Reg.TIME_LOCK_HOLD_MISS 0 * hz ≤ t.now)

/-- A message that is not for this cell goes out of the other port (R540). An acknowledged message out of order is discarded
and the last ACK sent again; one in order is accepted and acknowledged (R541). An ACK frees every message up to its SEQ; after
100 µs the first message not acknowledged goes again (R541). A SYNC is forwarded with RAW and the residence added to ACC and
one more hop (R549); its first one puts a member in STACK (R551). A forwarded command is in flight here (R553); the outcome
that the serving cell reports ends the command, and its frame is delivered or bad (R554). The master takes library work of
another cell, and its progress completes the MOUNT (R561). A cell asked for a location's table entry sends it, and a transfer
that waited for it waits no more (R560). A location asked for is sent, and one that arrives is cached (R553). A command ends
with STACK_UNAVAILABLE when a cell that it needs stays out of reach (R557). Records and locations held for a cell that can be
reached are sent (R556, R563). Each of these commands is stated to complete, under its clauses' hypotheses alone:
ringMessageForward, ringRetransmit, ringAckReceive, ringCmdReceive, ringCatReceive, ringLibReceive, ringFrameReceive,
syncReceive, crossCellTimeout, proxyDeliver. -/
def Obligations.RingMessagesAct : Prop :=
  (∀ (s : State) (p : Fin 2) (m : Nat) (r : RingIn), s.portUp p = true → r.intact = true → r.dst ≠ s.cell → s.portUp (1 -
    p.val) = true → s.gives (.ringMessageForward p m r) fun t => t.out = .ring (1 - p.val) r.dst m r.seq r.items :: s.out ∧
    t.now = s.now) ∧
  (∀ (s : State) (d : Fin 8) (m : RingMsg), s.stack.unacked.find? (fun m => m.dst == d.val && m.sentAt.isSome) = some m →
    s.gives (.ringRetransmit d) fun t => t.now = max s.now (m.sentAt.getD 0 + 150000) ∧ Out.ring (s.via d) d m.mtype m.seq
    m.items ∈ t.out ∧ t.stack.unacked.length = s.stack.unacked.length) ∧
  (∀ (s : State) (p : Fin 2) (r : RingIn), s.portUp p = true → r.intact = true → r.dst = s.cell → ∀ m ∈ s.stack.unacked,
    m.sentAt.isSome = true → s.gives (.ringAckReceive p r) fun t => ∃ u : State, t = u.settle ∧ u.stack.unacked =
    s.stack.unacked.filter fun m => m.dst != r.src || decide (128 ≤ (r.seq + 256 - m.seq) % 256)) ∧
  (∀ (s : State) (p : Fin 2) (r : RingIn), s.portUp p = true → s.cs ≠ csConflict → s.cs ≠ csOff → r.intact = true → r.dst =
    s.cell → r.src ≠ s.cell → r.seq ≠ mget 0 s.stack.rx r.src → mhas s.stack.rx r.src = true → s.gives (.ringCmdReceive p r)
    fun t => t = ({ s with stack := { s.stack with heard := mput s.stack.heard r.src s.now } } : State).ackTo r.src ((mget 0
    s.stack.rx r.src + 255) % 256)) ∧
  (∀ (s : State) (p : Fin 2) (r : RingIn), s.portUp p = true → s.cs ≠ csConflict → s.cs ≠ csOff → r.intact = true → r.dst =
    s.cell → r.src ≠ s.cell → r.seq ≠ mget 0 s.stack.rx r.src → mhas s.stack.rx r.src = true → s.gives (.ringCatReceive p r)
    fun t => t = ({ s with stack := { s.stack with heard := mput s.stack.heard r.src s.now } } : State).ackTo r.src ((mget 0
    s.stack.rx r.src + 255) % 256)) ∧
  (∀ (s : State) (p : Fin 2) (r : RingIn), s.portUp p = true → s.cs ≠ csConflict → s.cs ≠ csOff → r.intact = true → r.dst =
    s.cell → r.src ≠ s.cell → r.seq ≠ mget 0 s.stack.rx r.src → mhas s.stack.rx r.src = true → s.gives (.ringLibReceive p r)
    fun t => t = ({ s with stack := { s.stack with heard := mput s.stack.heard r.src s.now } } : State).ackTo r.src ((mget 0
    s.stack.rx r.src + 255) % 256)) ∧
  (∀ (s : State) (p : Fin 2) (r : RingIn), s.portUp p = true → s.cs ≠ csConflict → s.cs ≠ csOff → r.intact = true → r.dst =
    s.cell → r.src ≠ s.cell → r.seq ≠ mget 0 s.stack.rx r.src → mhas s.stack.rx r.src = true → s.cmd? (r.items.getD 0 0)
    (r.items.getD 1 0) = none → s.cmd? (65536 * (r.src + 1) + r.items.getD 0 0) (r.items.getD 1 0) = none → s.gives
    (.ringFrameReceive p r) fun t => t = ({ s with stack := { s.stack with heard := mput s.stack.heard r.src s.now } } :
    State).ackTo r.src ((mget 0 s.stack.rx r.src + 255) % 256)) ∧
  (∀ (s : State) (dt : Nat) (p : Fin 2) (o : BitVec 64) (a : BitVec 32) (l : Bool) (h : BitVec 3) (e : Fin 2001), s.isMaster =
    false → s.portUp p = true → s.portUp (1 - p.val) = true → s.cs ≠ csMember → s.gives (.syncReceive dt p true o a l h e) fun
    t => t.out = .ring (1 - p.val) 15 0x04 0 [o.toNat, a.toNat + s.rd Reg.CASC_PORT_STATUS_RAW p + e.val, if l then 1 else 0,
    h.toNat + 1] :: s.out ∧ t.now = s.now + dt) ∧
  (∀ (s : State) (dt : Nat) (p : Fin 2) (o : BitVec 64) (a : BitVec 32) (l : Bool) (h : BitVec 3) (e : Fin 2001), s.isMaster =
    false → s.portUp p = true → s.cs = csMember → (s.advance dt).syncBest p h.toNat = true → timeValid o.toNat = true → s.rd
    Reg.TIME_STATUS_STATE 0 ≠ dStack → s.gives (.syncReceive dt p true o a l h e) fun t => t.rd Reg.TIME_STATUS_STATE 0 =
    dStack ∧ t.stack.origin = some (linOf o.toNat) ∧ t.flag Reg.GCTL_STATUS_TIME_LOCKED 0 = false) ∧
  (∀ (s : State) (dt : Nat) (p : Fin 2) (o : BitVec 64) (a : BitVec 32) (l : Bool) (h : BitVec 3) (e : Fin 2001), s.isMaster =
    false → s.portUp p = true → s.gives (.syncReceive dt p false o a l h e) fun t => t = (s.advance dt).bump
    Reg.CASC_ERR_MSG_ERR 0 1) ∧
  (∀ (s : State) (p : Fin 2) (r : RingIn) (sq tag v a b f : Nat) (c : Cmd), s.portUp p = true → s.cs ≠ csConflict → s.cs ≠
    csOff → r.intact = true → r.dst = s.cell → r.src ≠ s.cell → r.seq = mget 0 s.stack.rx r.src → r.items = [1, sq, tag, v, a,
    b, f] → s.cmd? sq tag = some c → c.away = some r.src → c.op ≠ opRead → c.phase ≠ .fixed → c.local = true → s.gives
    (.ringCmdReceive p r) fun t => ∃ u : State, t = u.settle ∧ u.ended sq tag v a b f ∧ mget 0 u.stack.rx r.src = (r.seq + 1)
    % 256 ∧ Out.ring (s.via r.src) r.src 0x0A r.seq [] ∈ u.out) ∧
  (∀ (s : State) (p : Fin 2) (r : RingIn) (k n : Nat), s.portUp p = true → s.cs ≠ csConflict → s.cs ≠ csOff → r.intact = true
    → r.dst = s.cell → r.src ≠ s.cell → r.seq = mget 0 s.stack.rx r.src → r.items.getD 0 0 = 0 → s.mode = mBurn → k =
    ofBytesLE ((upTo 8).flatMap fun i => bytesLE 8 (r.items.getD (5 + i) 0)) → k % 256 = opFlush → (s.disc (aaddrDisc (bitsOf
    k 128 64))).loc = .station n → (s.disc (aaddrDisc (bitsOf k 128 64))).mounted = true → s.cmd? (65536 * (r.src + 1) +
    r.items.getD 1 0 % 65536) (r.items.getD 2 0) = none → s.gives (.ringCmdReceive p r) fun t => ∃ u : State, t = u.settle ∧
    Out.ring (s.via r.src) r.src 0x0A r.seq [] ∈ u.out ∧ (u.cmd? (65536 * (r.src + 1) + r.items.getD 1 0 % 65536)
    (r.items.getD 2 0)).map (fun x => (x.pkt, x.origin, x.phase, x.disc)) = some (k, some r.src, CmdPhase.waiting, some
    (aaddrDisc (bitsOf k 128 64)))) ∧
  (∀ (s : State) (p : Fin 2) (r : RingIn) (c : Cmd), s.portUp p = true → s.cs ≠ csConflict → s.cs ≠ csOff → r.intact = true →
    r.dst = s.cell → r.src ≠ s.cell → r.seq = mget 0 s.stack.rx r.src → r.items.getD 0 0 = 2 → s.cmd? (65536 * (r.src + 1) +
    r.items.getD 1 0 % 65536) (r.items.getD 2 0) = some c → c.phase = .waiting → c.silent = false → c.origin.isSome = true →
    s.gives (.ringCmdReceive p r) fun t => ∃ u : State, t = u.settle ∧ u.cmd? (65536 * (r.src + 1) + r.items.getD 1 0 % 65536)
    (r.items.getD 2 0) = none ∧ Out.ring (s.via r.src) r.src 0x0A r.seq [] ∈ u.out) ∧
  (∀ (s : State) (p : Fin 2) (r : RingIn) (sq tag i : Nat) (d : List Nat) (c : Cmd) (f : FrameReq), s.portUp p = true → s.cs ≠
    csConflict → s.cs ≠ csOff → r.intact = true → r.dst = s.cell → r.src ≠ s.cell → r.seq = mget 0 s.stack.rx r.src → r.items
    = sq :: tag :: i :: 0 :: d → i ≠ 65535 → s.cmd? sq tag = some c → c.away = some r.src → c.inPlace = true → c.frames[i]? =
    some f → f.fate = .wanted → s.gives (.ringFrameReceive p r) fun t => ∃ u : State, t = u.settle ∧ (u.cmd? sq tag).bind (fun
    x => x.frames[i]?) = some { f with fate := .delivered, moved := true }) ∧
  (∀ (s : State) (p : Fin 2) (r : RingIn) (sq tag i v : Nat) (d : List Nat) (c : Cmd) (f : FrameReq), s.portUp p = true → s.cs
    ≠ csConflict → s.cs ≠ csOff → r.intact = true → r.dst = s.cell → r.src ≠ s.cell → r.seq = mget 0 s.stack.rx r.src →
    r.items = sq :: tag :: i :: v :: d → v ≠ 0 → i ≠ 65535 → s.cmd? sq tag = some c → c.away = some r.src → c.frames[i]? =
    some f → f.fate = .wanted → s.gives (.ringFrameReceive p r) fun t => ∃ u : State, t = u.settle ∧ (u.cmd? sq tag).bind (fun
    x => x.frames[i]?) = some { f with fate := .bad, moved := true } ∧ u.mem = s.mem) ∧
  (∀ (s : State) (p : Fin 2) (r : RingIn) (d : Nat), s.portUp p = true → s.cs ≠ csConflict → s.cs ≠ csOff → r.intact = true →
    r.dst = s.cell → r.src ≠ s.cell → r.seq = mget 0 s.stack.rx r.src → r.items = [0, d] → s.gives (.ringCatReceive p r) fun t
    => ∃ u : State, t = u.settle ∧ (r.src, d) ∈ u.stack.askers ∧ u.stack.unacked.getLast?.map (fun m => (m.dst, m.mtype,
    m.items)) = some (r.src, 0x08, s.catAnswer d)) ∧
  (∀ (s : State) (p : Fin 2) (r : RingIn) (d l c o m : Nat), s.portUp p = true → s.cs ≠ csConflict → s.cs ≠ csOff → r.intact =
    true → r.dst = s.cell → r.src ≠ s.cell → r.seq = mget 0 s.stack.rx r.src → r.items = [1, d, l, c, o, m] → s.gives
    (.ringCatReceive p r) fun t => ∃ u : State, t = u.settle ∧ mfind u.stack.cache d = some (l, c) ∧ (u.disc d).owner = o) ∧
  (∀ (s : State) (p : Fin 2) (r : RingIn) (d n v : Nat) (c : Cmd), s.portUp p = true → s.cs ≠ csConflict → s.cs ≠ csOff →
    r.intact = true → r.dst = s.cell → r.src ≠ s.cell → r.seq = mget 0 s.stack.rx r.src → r.items = [3, d, n, v] →
    s.cmds.find? (fun c => c.op == opMount && c.disc == some d && c.phase == CmdPhase.started) = some c → s.cmd? c.sq c.tag =
    some c → c.local = true → s.gives (.ringLibReceive p r) fun t => ∃ u : State, t = u.settle ∧ u.ended c.sq c.tag n v 0 0) ∧
  (∀ (s : State) (p : Fin 2) (r : RingIn) (k : Nat), s.portUp p = true → s.cs ≠ csConflict → s.cs ≠ csOff → r.intact = true →
    r.dst = s.cell → r.src ≠ s.cell → r.seq = mget 0 s.stack.rx r.src → r.items.getD 0 0 = 1 → s.mode = mBurn → k = ofBytesLE
    ((upTo 8).flatMap fun i => bytesLE 8 (r.items.getD (5 + i) 0)) → k % 256 = opMount → s.cmd? (65536 * (r.src + 1) +
    r.items.getD 1 0 % 65536) (r.items.getD 2 0) = none → s.gives (.ringLibReceive p r) fun t => ∃ u : State, t = u.settle ∧
    (u.cmd? (65536 * (r.src + 1) + r.items.getD 1 0 % 65536) (r.items.getD 2 0)).map (fun x => (x.pkt, x.origin, x.phase)) =
    some (k, some r.src, CmdPhase.waiting)) ∧
  (∀ (s : State) (p : Fin 2) (r : RingIn) (d n : Nat), s.portUp p = true → s.cs ≠ csConflict → s.cs ≠ csOff → r.intact = true
    → r.dst = s.cell → r.src ≠ s.cell → r.seq = mget 0 s.stack.rx r.src → r.items = [2, d, n] → s.mode ≠ mCinder → s.gives
    (.ringLibReceive p r) fun t => ∃ u : State, t = u.settle ∧ (u.disc d).loc = .station n ∧ (u.disc d).mounted = false ∧ d ∈
    u.lib.guests) ∧
  (∀ (s : State) (p : Fin 2) (r : RingIn) (d : Nat), s.portUp p = true → s.cs ≠ csConflict → s.cs ≠ csOff → r.intact = true →
    r.dst = s.cell → r.src ≠ s.cell → r.seq = mget 0 s.stack.rx r.src → r.items = [7, d] → s.gives (.ringLibReceive p r) fun t
    => ∃ u : State, t = u.settle ∧ u.stack.unacked.getLast?.map (fun m => (m.dst, m.mtype, m.items)) = some (r.src, 0x09, [6,
    d, s.locEntry s.cell d])) ∧
  (∀ (s : State) (p : Fin 2) (r : RingIn) (d e : Nat), s.portUp p = true → s.cs ≠ csConflict → s.cs ≠ csOff → r.intact = true
    → r.dst = s.cell → r.src ≠ s.cell → r.seq = mget 0 s.stack.rx r.src → r.items = [6, d, e] → s.gives (.ringLibReceive p r)
    fun t => ∃ u : State, t = u.settle ∧ mfind u.lib.farLocs (locKey r.src d) = some e ∧ ∀ x ∈ u.lib.transfers, locKey r.src d
    ∉ x.locsDue) ∧
  (∀ (s : State) (sq tag x : Nat) (c : Cmd), s.cmd? sq tag = some c → (c.needs s.cell).find? (fun x => !s.reach x) = some x →
    c.phase ≠ .fixed → c.local = true → c.op ≠ opWrite → s.gives (.crossCellTimeout sq tag) fun t => ∃ u : State, t = u.settle
    ∧ u.ended sq tag stStackUnavailable 0 0 0 ∧ u.now = max s.now (max c.since (mget 0 s.stack.lostAt x) + hz)) ∧
  (∀ (s : State) (c : Fin 8), s.reach c = true → c.val ≠ s.cell → s.gives (.proxyDeliver c) fun t => (∀ x ∈ t.stack.proxies,
    x.cell = c.val → x.sent = true) ∧ (∀ x ∈ t.stack.lateLocs, x.1 / 4096 ≠ c.val) ∧ (∀ x ∈ s.stack.proxies, x.cell = c.val →
    x.sent = false → ∃ m ∈ t.stack.unacked, m.dst = c.val ∧ m.items = [2, x.word]) ∧ ∀ x ∈ s.stack.lateLocs, x.1 / 4096 =
    c.val → ∃ m ∈ t.stack.unacked, m.dst = c.val ∧ m.mtype = 0x08 ∧ m.items.take 3 = [4, x.1, x.2])

/-- A trigger makes a unit pending, and during a run a further one (R894, R895, R909); CAL_RUN_ALL makes every enabled unit
pending. A port run stages settings whose PHASE and CTLE move within the limits (R897) and applies them at a servo period,
which leaves the unit done (R898). A slice run stages four values (R900, R901) that its head's slice then takes (R902). A trim
run stages TRIM_OFS (R904, R905), applied while the head does not write (R906). CAL_STORE of a value that no record holds
stores it (R911). Each of these commands is stated to complete, under its clauses' hypotheses alone: calTrigger, calRunAll,
calPortRun, calPortApply, calSliceRunDone, calSliceApply, calTrimRun, calTrimApply, calStore. -/
def Obligations.CalibrationRuns : Prop :=
  (∀ (s : State) (k : Fin 3) (i : Fin 256), s.calOn k = true → s.calMode = true → calInst k i = true → ((s.cal k i).armed ||
    s.calWarm k i) = true → s.gives (.calTrigger k i) fun t => if (s.cal k i).running = true then (t.cal k i).again = true
    else (t.cal k i).pending = true) ∧
  (∀ (s : State) (k : Fin 3) (i : Fin 256) (d : Nat), s.calOn k = true → s.calMode = true → calInst k i = true → (s.cal k
    i).doneAt = some d → s.rd Reg.CAL_CFG_MAX_H 0 ≠ 0 → ((s.cal k i).armed || s.calWarm k i) = false → s.gives (.calTrigger k
    i) fun t => d + s.rd Reg.CAL_CFG_MAX_H 0 * 3600 * hz ≤ t.now ∧ if (s.cal k i).running = true then (t.cal k i).again = true
    else (t.cal k i).pending = true) ∧
  (∀ (s : State), s.calMode = true → s.gives (.calRunAll) fun t => ∀ (k : Fin 3) (i : Fin 256), s.calOn k = true → calInst k i
    = true → ((s.cal k i).running = true → (t.cal k i).again = true) ∧ ((s.cal k i).running = false → (t.cal k i).pending =
    true)) ∧
  (∀ (s : State) (p : Fin 130) (x y : List Nat), (s.cal 0 p).pending = true → (s.cal 0 p).running = false → s.calMode = true →
    s.calPortUp p = true → s.enginesUsed < 16 → ((upTo 128).any fun n => mhas s.stns n && s.retriable n && decide ((s.stn
    n).dueAt ≤ s.now)) = false → s.gives (.calPortRun p x y) fun t => (t.cal 0 p).running = true ∧ (t.cal 0 p).pending = false
    ∧ (t.cal 0 p).staged.length = 16 ∧ (t.cal 0 p).staged = (s.laneLimit p 0 x).1 ++ (s.laneLimit p 1 y).1) ∧
  (∀ (s : State) (p l : Nat) (r : List Nat), ∃ d : Int, -8 ≤ d ∧ d ≤ 8 ∧
 (((s.laneLimit p l r).1.getD 0 0 : Nat) : Int) = ((s.rd Reg.CAL_PORT0_PHASE (2 * p + l) : Int) + d) % 64 ∧
 (s.laneLimit p l r).1.getD 1 0 ≤ s.rd Reg.CAL_PORT0_CTLE (2 * p + l) + 1 ∧ s.rd Reg.CAL_PORT0_CTLE (2 * p + l) ≤ (s.laneLimit
   p l r).1.getD 1 0 + 1) ∧
  (∀ (s : State) (p : Fin 130), (s.cal 0 p).running = true → (s.cal 0 p).staged ≠ [] → s.gives (.calPortApply p) fun t =>
    t.lin % 5000 = 0 ∧ s.now < t.now ∧ (t.cal 0 p).running = false ∧ (t.cal 0 p).value = (s.cal 0 p).staged ∧ (t.cal 0
    p).doneAt = some t.now ∧ ∀ l : Fin 2, t.rd Reg.CAL_PORT0_PHASE (2 * p + l) = (s.cal 0 p).staged.getD (8 * l) 0 % 2 ^
    Reg.CAL_PORT0_PHASE.w) ∧
  (∀ (s : State) (n : Fin 128) (a : Fin 2) (sl : Nat), s.headSlice (headOf n a) = some sl → (s.cal 1 (headOf n a)).running =
    true → (s.cal 1 (headOf n a)).staged = [] → s.rd1 Reg.CAL_SLICE_CFG_FRAMES 0 ≤ (s.cal 1 (headOf n a)).frames → s.gives
    (.calSliceRunDone n a) fun t => (t.cal 1 (headOf n a)).staged.length = 4 ∧ (t.cal 1 (headOf n a)).running = true) ∧
  (∀ (s : State) (n : Fin 128) (a : Fin 2) (sl : Nat), s.headSlice (headOf n a) = some sl → (s.cal 1 (headOf n a)).running =
    true → (s.cal 1 (headOf n a)).staged ≠ [] → s.gives (.calSliceApply n a) fun t => (∀ q ∈ ofsFields.zipIdx, t.rd q.1 sl =
    (s.cal 1 (headOf n a)).staged.getD q.2 0 % 2 ^ q.1.w) ∧ t.flag Reg.CAL_HEAD_VALID (headOf n a) = true ∧ (t.cal 1 (headOf n
    a)).running = false ∧ (t.cal 1 (headOf n a)).value = (s.cal 1 (headOf n a)).staged) ∧
  (∀ (s : State) (n : Fin 128) (a : Fin 2) (sl : Nat), s.headSlice (headOf n a) = some sl → (s.cal 2 (headOf n a)).running =
    false → (s.cal 2 (headOf n a)).pending = true → s.rd1 Reg.CAL_SLICE_CFG_FRAMES 0 ≤ (s.slice sl).trimFrames → s.gives
    (.calTrimRun n a) fun t => (t.cal 2 (headOf n a)).running = true ∧ (t.cal 2 (headOf n a)).staged.length = 1 ∧ (s.crossSum
    sl 1 = s.crossSum sl 2 → (t.cal 2 (headOf n a)).staged = [unsignedOf 32 (sat 24 (s.rdS Reg.LPE_PRM_VALUE (2560 + headOf n
    a)))])) ∧
  (∀ (s : State) (n : Fin 128) (a : Fin 2), (s.cal 2 (headOf n a)).running = true → (s.cal 2 (headOf n a)).staged ≠ [] →
    s.flag Reg.STN_HD_STATUS_WRITING (headOf n a) = false → s.gives (.calTrimApply n a) fun t => (t.cal 2 (headOf n
    a)).running = false ∧ (t.cal 2 (headOf n a)).value = (s.cal 2 (headOf n a)).staged ∧ t.flag Reg.CAL_HEAD_TRIM_VALID
    (headOf n a) = true ∧ t.rd Reg.LPE_PRM_VALUE (2560 + headOf n a) = unsignedOf 32 (signed 32 ((s.cal 2 (headOf n
    a)).staged.getD 0 0))) ∧
  (∀ (s : State) (k : Fin 3) (i : Fin 256), s.flag Reg.CAL_CTRL_STORE_EN 0 = true → s.fwRuns = true → s.firm.booting = false →
    s.flash.prog = none → s.flash.pfDue = false → (s.cal k i).value ≠ [] → (s.cal k i).storedAt = none → s.calib (calRecord k
    i (s.cal k i).value).1 ≠ some (calRecord k i (s.cal k i).value).2 → s.appendCalib (calRecord k i (s.cal k i).value).1
    (calRecord k i (s.cal k i).value).2 ≠ none → s.gives (.calStore k i) fun t => (t.cal k i).storedAt = some s.now ∧ (t.cal k
    i).value = (s.cal k i).value)

/-- A write of the whole of TIME_LOAD gives each read-write field its bits of the value, keeps bit 31 beside them (assumption
207) and changes nothing else; a narrower one is discarded (R12, R20). A write of CMDQ_EVT clears the bits written 1 and
leaves the others (R12). A write to read-only fields is ignored (R12). CASC_CFG, whose fields are RWL, ignores a write once
CASC_CTRL.EN is set (R14). Writes of DMA and FLC registers from the host link are discarded (R708, R769). A write that covers
no register and reaches a reserved offset is discarded and counted in the window of RESERVED_ACCESS (R18, R19). A write into
the CXL component registers, whose layout the manual does not give, changes nothing (R40, R576; assumption 195). Each of these
commands is stated to complete, under its clauses' hypotheses alone: registerWrite. -/
def Obligations.RegisterWritesActByType : Prop :=
  (∀ (s : State) (src : Src) (d : Nat), s.gives (.registerWrite src 0x20008 8 d) fun t => t.rd Reg.TIME_LOAD_SEC 0 = bitsOf d
    32 32 ∧ t.rd Reg.TIME_LOAD_TICK 0 = bitsOf d 0 31 ∧ t.tb = { s.tb with loadHi := bitOf d 31 } ∧ s.onlyChanges t
    [Reg.TIME_LOAD_SEC, Reg.TIME_LOAD_TICK] [.tb]) ∧
  (∀ (s : State) (src : Src) (d : Nat), s.gives (.registerWrite src 0x20008 4 d) fun t => t = s) ∧
  (∀ (s : State) (src : Src) (d : Nat), s.gives (.registerWrite src 0xE0034 4 d) fun t => (∀ k < 4, bitOf (t.rd
    Reg.CMDQ_EVT_EVENTS 0) k = (bitOf (s.rd Reg.CMDQ_EVT_EVENTS 0) k && !bitOf d k)) ∧ s.onlyChanges t [Reg.CMDQ_EVT_EVENTS]
    []) ∧
  (∀ (s : State) (src : Src) (d : Nat), s.gives (.registerWrite src 0x4 4 d) fun t => t = s) ∧
  (∀ (s : State) (src : Src) (d : Nat), s.flag Reg.CASC_CTRL_EN 0 = true → s.gives (.registerWrite src 0xA0004 4 d) fun t => t
    = s) ∧
  (∀ (s : State) (d : Nat), s.gives (.registerWrite .host 0x40038 4 d) fun t => t = s) ∧
  (∀ (s : State) (d : Nat), s.gives (.registerWrite .host 0x7000C 4 d) fun t => t = s) ∧
  (∀ (s : State) (d : Nat), s.gives (.registerWrite .host 0x71000 8 d) fun t => t = s) ∧
  (∀ (s : State) (src : Src) (a : BitVec 26) (l : Fin 65) (d b : Nat), wholeRegs a.toNat l.val = [] → firstReserved a.toNat
    l.val = some b → s.gives (.registerWrite src a l d) fun t => t = s.raiseWin 0x0801 0 [b, 1] true) ∧
  (∀ (s : State) (src : Src) (a : BitVec 26) (l : Fin 65) (d : Nat), 0x1800000 ≤ a.toNat → a.toNat + l.val ≤ 0x1810000 →
    s.gives (.registerWrite src a l d) fun t => t = s)
end

