-- ==== Sys2Proof/Laws/Gives.lean ====
section
/-!
SUPPORT. How a statement that a command completes is proved: the outcome of its meaning is taken apart.
-/

set_option Elab.async false

namespace Sys2Proof.Machine

/-- An event raised is the newest entry of the ring. -/
theorem State.raise_lastEvent (s : State) (code : Nat) (data : List Nat) : (s.raise code data).lastEvent code data := by
  unfold State.raise State.lastEvent
  dsimp only
  split <;> exact ⟨_, List.getLast?_concat, rfl, rfl⟩

/-- An outcome is a next state that satisfies a property. -/
def nextIs (r : Res) (p : State → Prop) : Prop :=
  match r with
  | .next t => p t
  | .fault _ => False
  | .refused _ => False

@[simp] theorem nextIs_next (t : State) (p : State → Prop) : nextIs (.next t) p = p t := rfl

@[simp] theorem nextIs_ite {c : Prop} [Decidable c] (x y : Res) (p : State → Prop) :
    nextIs (if c then x else y) p = if c then nextIs x p else nextIs y p := by split <;> rfl

/-- A command completes with a property exactly if its outcome is a next state that has it. -/
theorem State.gives_iff (s : State) (c : Instr) (p : State → Prop) : s.gives c p ↔ nextIs (exec c s) p := by
  constructor
  · rintro ⟨t, h, hp⟩; rw [h]; exact hp
  · intro h
    cases e : exec c s with
    | next t => rw [e] at h; exact ⟨t, e, h⟩
    | fault f => rw [e] at h; cases h
    | refused r => rw [e] at h; cases h

end Sys2Proof.Machine
end

