-- ==== Sys2Proof/Laws/Maps.lean ====
section
/-!
SUPPORT. The small lemmas of the sparse maps: what a key reads as after a write to it, and after a write to another.
-/

set_option Elab.async false

namespace Sys2Proof.Machine

@[simp] theorem mget_mput_same {α : Type} (d : α) (l : List (Nat × α)) (k : Nat) (v : α) : mget d (mput l k v) k = v := by
  induction l with
  | nil => simp [mput, mget]
  | cons p r ih =>
    obtain ⟨a, b⟩ := p
    simp only [mput]
    split
    · simp [mget]
    · split
      · simp [mget]
      · simp [mget, *]

theorem mget_mput_ne {α : Type} (d : α) (l : List (Nat × α)) (j k : Nat) (v : α) (h : j ≠ k) :
    mget d (mput l j v) k = mget d l k := by
  induction l with
  | nil => simp [mput, mget, h]
  | cons p r ih =>
    obtain ⟨a, b⟩ := p
    simp only [mput]
    split
    · subst_vars; simp [mget, h]
    · split
      · simp [mget, h]
      · simp [mget, ih]

theorem mget_mput {α : Type} (d : α) (l : List (Nat × α)) (j k : Nat) (v : α) :
    mget d (mput l j v) k = if j = k then v else mget d l k := by
  split
  · subst_vars; exact mget_mput_same d l _ v
  · exact mget_mput_ne d l j k v ‹_›

end Sys2Proof.Machine
end

