-- ==== Sys2Proof/Laws/Keeps.lean ====
section
/-!
SUPPORT. What an operation leaves as it was, as a relation between the state before and after that composes: nothing but the
register fields and parts of a mask changes, the queue of commands stays, TIME stays valid, device memory keeps its canonical form,
the seal stays blown, elapsed time does not fall. The rules below are the steps that the lemmas of the operations are made of.
-/

set_option Elab.async false

namespace Sys2Proof.Machine

/-- The bit of a part in a mask, above those of the register fields. -/
def Part.bit (p : Part) : Nat := 8192 + p.ctorIdx

/-- A mask of bits. -/
def bits (l : List Nat) : Nat := l.foldl (fun m i => m ||| 1 <<< i) 0

/-- The mask of some register fields. -/
def fieldBits (l : List Fld) : Nat := bits (l.map fun f => f.id % 8192)

/-- The mask of some parts. -/
def partBits (l : List Part) : Nat := bits (l.map Part.bit)

/-- Every bit that a mask may have. -/
def allBits : Nat := 1 <<< 8300 - 1

/-- From s to t nothing changes but the register fields and parts in the mask, and what holds of every state is kept. -/
def Keeps (m : Nat) (s t : State) : Prop :=
  t.pending = s.pending ∧ (s.timeOk → t.timeOk) ∧ (Memory.wf s.mem = true → Memory.wf t.mem = true) ∧
  (s.sealed = true → t.sealed = true) ∧ s.now ≤ t.now ∧
  (∀ k d, m.testBit (k % 8192) = false → mget d t.regs k = mget d s.regs k) ∧
  ∀ p : Part, m.testBit p.bit = false → p.same s t

/-- The same of every next state that an outcome can be. -/
def KeepsRes (m : Nat) (s : State) (r : Res) : Prop := ∀ t, r = .next t → Keeps m s t

/-- The same of the state in a pair. -/
def KeepsSnd {α : Type} (m : Nat) (s : State) (p : α × State) : Prop := Keeps m s p.2

/-- The same of the state in a pair. -/
def KeepsFst {α : Type} (m : Nat) (s : State) (p : State × α) : Prop := Keeps m s p.1

/-- The same of a state that may be there. -/
def KeepsOpt (m : Nat) (s : State) (o : Option State) : Prop := ∀ t, o = some t → Keeps m s t

/-- The same of the state of a pair that may be there. -/
def KeepsOptSnd {α : Type} (m : Nat) (s : State) (o : Option (α × State)) : Prop := ∀ p, o = some p → Keeps m s p.2

/-- The same of the state at the end of a triple. -/
def KeepsSnd2 {α β : Type} (m : Nat) (s : State) (p : α × β × State) : Prop := Keeps m s p.2.2

/-- The same of the state on either side of a sum. -/
def KeepsSum {α : Type} (m : Nat) (s : State) (p : State ⊕ (α × State)) : Prop :=
  Keeps m s (match p with | .inl t => t | .inr q => q.2)

theorem Part.same_refl (p : Part) (s : State) : p.same s s := by cases p <;> rfl

theorem Part.same_trans (p : Part) {s t u : State} (h : p.same s t) (g : p.same t u) : p.same s u := by
  cases p <;> exact Eq.trans g h

theorem testBit_sub {a b k : Nat} (h : a ||| b = b) (hk : b.testBit k = false) : a.testBit k = false := by
  rw [← h, Nat.testBit_or, Bool.or_eq_false_iff] at hk; exact hk.1

theorem testBit_super {a b k : Nat} (h : a ||| b = b) (hk : a.testBit k = true) : b.testBit k = true := by
  rw [← h, Nat.testBit_or, hk, Bool.true_or]

namespace Keeps

theorem refl (m : Nat) (s : State) : Keeps m s s :=
  ⟨rfl, id, id, id, Nat.le_refl _, fun _ _ _ => rfl, fun p _ => p.same_refl s⟩

theorem trans {m : Nat} {s t u : State} (h : Keeps m s t) (g : Keeps m t u) : Keeps m s u := by
  obtain ⟨h1, h2, h3, h4, h5, h6, h7⟩ := h
  obtain ⟨g1, g2, g3, g4, g5, g6, g7⟩ := g
  exact ⟨g1.trans h1, g2 ∘ h2, g3 ∘ h3, g4 ∘ h4, Nat.le_trans h5 g5, fun k d hk => (g6 k d hk).trans (h6 k d hk),
    fun p hp => p.same_trans (h7 p hp) (g7 p hp)⟩

theorem mono {a m : Nat} {s t : State} (h : Keeps a s t) (hm : a ||| m = m := by decide +kernel) : Keeps m s t := by
  obtain ⟨h1, h2, h3, h4, h5, h6, h7⟩ := h
  exact ⟨h1, h2, h3, h4, h5, fun k d hk => h6 k d (testBit_sub hm hk), fun p hp => h7 p (testBit_sub hm hp)⟩

/-- One more operation. -/
theorem step {a m : Nat} {s x y : State} (g : Keeps a x y) (h : Keeps m s x) (hm : a ||| m = m := by decide +kernel) : Keeps m s y :=
  h.trans (g.mono hm)

theorem stepSnd {α : Type} {a m : Nat} {s x : State} {p : α × State} (g : KeepsSnd a x p) (h : Keeps m s x) (hm : a ||| m = m := by decide +kernel) :
    Keeps m s p.2 := h.trans (Keeps.mono g hm)

theorem stepFst {α : Type} {a m : Nat} {s x : State} {p : State × α} (g : KeepsFst a x p) (h : Keeps m s x) (hm : a ||| m = m := by decide +kernel) :
    Keeps m s p.1 := h.trans (Keeps.mono g hm)

theorem ofSnd {α : Type} {m : Nat} {s y : State} {p : α × State} {a : α} (e : p = (a, y)) (h : KeepsSnd m s p) : Keeps m s y := by
  subst e; exact h

theorem ofSnd2 {α β : Type} {m : Nat} {s y : State} {p : α × β × State} {a : α} {b : β} (e : p = (a, b, y))
    (h : KeepsSnd2 m s p) : Keeps m s y := by subst e; exact h

theorem ofFst {α : Type} {m : Nat} {s y : State} {p : State × α} {a : α} (e : p = (y, a)) (h : KeepsFst m s p) : Keeps m s y := by
  subst e; exact h

theorem ofOpt {m : Nat} {s y : State} {o : Option State} (e : o = some y) (h : KeepsOpt m s o) : Keeps m s y := h y e

theorem ofOptSnd {α : Type} {m : Nat} {s y : State} {o : Option (α × State)} {a : α} (e : o = some (a, y))
    (h : KeepsOptSnd m s o) : Keeps m s y := h (a, y) e

theorem ite {m : Nat} {c : Prop} [Decidable c] {s x y : State} (h : Keeps m s x) (g : Keeps m s y) :
    Keeps m s (if c then x else y) := by split <;> assumption

theorem cut {m : Nat} {s x y : State} (h : Keeps m s x) (g : Keeps m s x → Keeps m s y) : Keeps m s y := g h

theorem foldl {α : Type} {m : Nat} {f : State → α → State} {l : List α} {s x : State}
    (hf : ∀ t a, Keeps m t (f t a)) (h : Keeps m s x) : Keeps m s (l.foldl f x) := by
  induction l generalizing x with
  | nil => exact h
  | cons a r ih => exact ih (h.trans (hf x a))

/-- A record update that leaves the registers, TIME, memory, the seal and elapsed time. -/
theorem set {m : Nat} {s y t : State} (h : Keeps m s y) (hp : t.pending = y.pending)
    (ht : t.tb.tick = y.tb.tick ∧ t.tb.sec = y.tb.sec) (hm : t.mem = y.mem) (hs : t.sealed = y.sealed) (hn : t.now = y.now)
    (hr : t.regs = y.regs) (hq : ∀ p : Part, m.testBit p.bit = false → p.same y t) : Keeps m s t := by
  refine h.trans ⟨hp, ?_, ?_, ?_, ?_, ?_, hq⟩
  · unfold State.timeOk; rw [ht.1, ht.2]; exact id
  · rw [hm]; exact id
  · rw [hs]; exact id
  · exact Nat.le_of_eq hn.symm
  · intro k d _; rw [hr]

theorem ofOptSndP {α : Type} {m : Nat} {s : State} {o : Option (α × State)} {p : α × State} (e : o = some p)
    (h : KeepsOptSnd m s o) : Keeps m s p.2 := h p e

theorem ofInl {α : Type} {m : Nat} {s y : State} {r : State ⊕ (α × State)} (e : r = .inl y) (h : KeepsSum m s r) : Keeps m s y := by
  subst e; exact h

theorem ofInr {α : Type} {m : Nat} {s y : State} {a : α} {r : State ⊕ (α × State)} (e : r = .inr (a, y)) (h : KeepsSum m s r) :
    Keeps m s y := by subst e; exact h

theorem elim {α : Type} {m : Nat} {s d : State} {o : Option α} {f : α → State} (hf : ∀ a, Keeps m s (f a)) (h : Keeps m s d) :
    Keeps m s (o.elim d f) := by
  cases o with
  | none => exact h
  | some a => exact hf a

theorem foldlMem {α : Type} {m : Nat} {f : State → α → State} {l : List α} {s x : State}
    (hf : ∀ t, ∀ a ∈ l, Keeps m t (f t a)) (h : Keeps m s x) : Keeps m s (l.foldl f x) := by
  induction l generalizing x with
  | nil => exact h
  | cons a r ih =>
    exact ih (fun t b hb => hf t b (List.mem_cons_of_mem a hb)) (h.trans (hf x a List.mem_cons_self))

theorem getD {m : Nat} {s d : State} {o : Option State} (h : KeepsOpt m s o) (g : Keeps m s d) : Keeps m s (o.getD d) := by
  cases o with
  | none => exact g
  | some x => exact h x rfl

end Keeps

namespace KeepsRes

theorem of {m : Nat} {s y : State} {r : Res} (e : r = .next y) (h : KeepsRes m s r) : Keeps m s y := h y e

theorem next {m : Nat} {s t : State} (h : Keeps m s t) : KeepsRes m s (.next t) := by
  intro u e; cases e; exact h

theorem refused {m : Nat} {s : State} {r : Refusal} : KeepsRes m s (.refused r) := by
  intro u e; cases e

theorem ite {m : Nat} {c : Prop} [Decidable c] {s : State} {x y : Res} (h : KeepsRes m s x) (g : KeepsRes m s y) :
    KeepsRes m s (if c then x else y) := by split <;> assumption

theorem step {a m : Nat} {s x : State} {r : Res} (g : KeepsRes a x r) (h : Keeps m s x) (hm : a ||| m = m := by decide +kernel) : KeepsRes m s r :=
  fun t e => h.trans ((g t e).mono hm)

theorem trans {m : Nat} {s t : State} {r : Res} (h : Keeps m s t) (g : KeepsRes m t r) : KeepsRes m s r :=
  fun u e => h.trans (g u e)

theorem cut {m : Nat} {s x : State} {r : Res} (h : Keeps m s x) (g : Keeps m s x → KeepsRes m s r) : KeepsRes m s r := g h

end KeepsRes

namespace KeepsSnd

theorem get {α : Type} {m : Nat} {s : State} {p : α × State} (h : KeepsSnd m s p) : Keeps m s p.2 := h

theorem mk {α : Type} {m : Nat} {s t : State} {a : α} (h : Keeps m s t) : KeepsSnd m s (a, t) := h

theorem ite {α : Type} {m : Nat} {c : Prop} [Decidable c] {s : State} {x y : α × State} (h : KeepsSnd m s x) (g : KeepsSnd m s y) :
    KeepsSnd m s (if c then x else y) := by split <;> assumption

theorem step {α : Type} {a m : Nat} {s x : State} {p : α × State} (g : KeepsSnd a x p) (h : Keeps m s x) (hm : a ||| m = m := by decide +kernel) :
    KeepsSnd m s p := h.trans (Keeps.mono g hm)

theorem cut {α : Type} {m : Nat} {s x : State} {p : α × State} (h : Keeps m s x) (g : Keeps m s x → KeepsSnd m s p) : KeepsSnd m s p := g h

theorem foldl {α β : Type} {m : Nat} {f : α × State → β → α × State} {l : List β} {s : State} {p : α × State}
    (hf : ∀ t a, KeepsSnd m t.2 (f t a)) (h : KeepsSnd m s p) : KeepsSnd m s (l.foldl f p) := by
  induction l generalizing p with
  | nil => exact h
  | cons a r ih => exact ih (Keeps.trans h (hf p a))

end KeepsSnd

namespace KeepsFst

theorem get {α : Type} {m : Nat} {s : State} {p : State × α} (h : KeepsFst m s p) : Keeps m s p.1 := h

theorem mk {α : Type} {m : Nat} {s t : State} {a : α} (h : Keeps m s t) : KeepsFst m s (t, a) := h

theorem ite {α : Type} {m : Nat} {c : Prop} [Decidable c] {s : State} {x y : State × α} (h : KeepsFst m s x) (g : KeepsFst m s y) :
    KeepsFst m s (if c then x else y) := by split <;> assumption

theorem step {α : Type} {a m : Nat} {s x : State} {p : State × α} (g : KeepsFst a x p) (h : Keeps m s x) (hm : a ||| m = m := by decide +kernel) :
    KeepsFst m s p := h.trans (Keeps.mono g hm)

theorem cut {α : Type} {m : Nat} {s x : State} {p : State × α} (h : Keeps m s x) (g : Keeps m s x → KeepsFst m s p) : KeepsFst m s p := g h

theorem foldl {α β : Type} {m : Nat} {f : State × α → β → State × α} {l : List β} {s : State} {p : State × α}
    (hf : ∀ t a, KeepsFst m t.1 (f t a)) (h : KeepsFst m s p) : KeepsFst m s (l.foldl f p) := by
  induction l generalizing p with
  | nil => exact h
  | cons a r ih => exact ih (Keeps.trans h (hf p a))

end KeepsFst

namespace KeepsOpt

theorem some {m : Nat} {s t : State} (h : Keeps m s t) : KeepsOpt m s (some t) := by intro u e; cases e; exact h

theorem none {m : Nat} {s : State} : KeepsOpt m s none := by intro u e; cases e

theorem ite {m : Nat} {c : Prop} [Decidable c] {s : State} {x y : Option State} (h : KeepsOpt m s x) (g : KeepsOpt m s y) :
    KeepsOpt m s (if c then x else y) := by split <;> assumption

theorem step {a m : Nat} {s x : State} {p : Option State} (g : KeepsOpt a x p) (h : Keeps m s x) (hm : a ||| m = m := by decide +kernel) :
    KeepsOpt m s p := fun t e => h.trans ((g t e).mono hm)

theorem map {α : Type} {m : Nat} {s : State} {o : Option α} {f : α → State} (hf : ∀ a, o = Option.some a → Keeps m s (f a)) :
    KeepsOpt m s (o.map f) := by
  cases o with
  | none => exact none
  | some a => exact some (hf a rfl)

theorem cut {m : Nat} {s x : State} {p : Option State} (h : Keeps m s x) (g : Keeps m s x → KeepsOpt m s p) : KeepsOpt m s p := g h

end KeepsOpt

namespace KeepsSnd2

theorem mk {α β : Type} {m : Nat} {s t : State} {a : α} {b : β} (h : Keeps m s t) : KeepsSnd2 m s (a, b, t) := h

theorem get {α β : Type} {m : Nat} {s : State} {p : α × β × State} (h : KeepsSnd2 m s p) : Keeps m s p.2.2 := h

theorem ite {α β : Type} {m : Nat} {c : Prop} [Decidable c] {s : State} {x y : α × β × State} (h : KeepsSnd2 m s x)
    (g : KeepsSnd2 m s y) : KeepsSnd2 m s (if c then x else y) := by split <;> assumption

theorem step {α β : Type} {a m : Nat} {s x : State} {p : α × β × State} (g : KeepsSnd2 a x p) (h : Keeps m s x) (hm : a ||| m = m := by decide +kernel) :
    KeepsSnd2 m s p := h.trans (Keeps.mono g hm)

end KeepsSnd2

namespace KeepsSum

theorem inl {α : Type} {m : Nat} {s t : State} (h : Keeps m s t) : KeepsSum (α := α) m s (.inl t) := h

theorem inr {α : Type} {m : Nat} {s t : State} {a : α} (h : Keeps m s t) : KeepsSum m s (.inr (a, t)) := h

theorem ite {α : Type} {m : Nat} {c : Prop} [Decidable c] {s : State} {x y : State ⊕ (α × State)} (h : KeepsSum m s x)
    (g : KeepsSum m s y) : KeepsSum m s (if c then x else y) := by split <;> assumption

theorem step {α : Type} {a m : Nat} {s x : State} {p : State ⊕ (α × State)} (g : KeepsSum a x p) (h : Keeps m s x) (hm : a ||| m = m := by decide +kernel) :
    KeepsSum m s p := h.trans (Keeps.mono g hm)

end KeepsSum

namespace KeepsOptSnd

theorem some {α : Type} {m : Nat} {s t : State} {a : α} (h : Keeps m s t) : KeepsOptSnd m s (some (a, t)) := by
  intro u e; cases e; exact h

theorem none {α : Type} {m : Nat} {s : State} : KeepsOptSnd (α := α) m s none := by intro u e; cases e

theorem ite {α : Type} {m : Nat} {c : Prop} [Decidable c] {s : State} {x y : Option (α × State)} (h : KeepsOptSnd m s x)
    (g : KeepsOptSnd m s y) : KeepsOptSnd m s (if c then x else y) := by split <;> assumption

theorem step {α : Type} {a m : Nat} {s x : State} {p : Option (α × State)} (g : KeepsOptSnd a x p) (h : Keeps m s x)
    (hm : a ||| m = m := by decide +kernel) : KeepsOptSnd m s p := fun t e => h.trans ((g t e).mono hm)

theorem cut {α : Type} {m : Nat} {s x : State} {p : Option (α × State)} (h : Keeps m s x) (g : Keeps m s x → KeepsOptSnd m s p) :
    KeepsOptSnd m s p := g h

end KeepsOptSnd

/-! ### What a mask says -/

/-- A register field outside the mask is the same. -/
theorem Keeps.rd {m : Nat} {s t : State} (h : Keeps m s t) (f : Fld) (i : Nat) (hm : m.testBit (f.id % 8192) = false) :
    t.rd f i = s.rd f i := by
  refine h.2.2.2.2.2.1 _ _ ?_
  rw [Fld.key, Nat.add_mod, Nat.mul_mod_left, Nat.zero_add, Nat.mod_mod]
  exact hm

/-- A part outside the mask is the same. -/
theorem Keeps.part {m : Nat} {s t : State} (h : Keeps m s t) (p : Part) (hm : m.testBit p.bit = false) : p.same s t :=
  h.2.2.2.2.2.2 p hm

/-! ### Register fields -/

/-- The bits of every register field. -/
def allRegs : Nat := 1 <<< 8192 - 1

theorem ones_test (n i : Nat) (h : i < n) : (1 <<< n - 1).testBit i = true := by
  rw [Nat.one_shiftLeft, Nat.testBit_two_pow_sub_one]
  exact decide_eq_true h

theorem allRegs_test (k : Nat) : allRegs.testBit (k % 8192) = true := ones_test 8192 _ (Nat.mod_lt _ (by decide))

namespace Keeps

theorem wr {m : Nat} {s x : State} {f : Fld} {i v : Nat} (h : Keeps m s x) (hm : m.testBit (f.id % 8192) = true := by decide +kernel) :
    Keeps m s (x.wr f i v) := by
  refine h.trans ⟨rfl, id, id, id, Nat.le_refl _, ?_, fun p _ => by cases p <;> rfl⟩
  intro k d hk
  refine mget_mput_ne d _ _ k _ ?_
  intro e
  rw [← e] at hk
  simp [Fld.key, Nat.add_mod, hm] at hk

theorem set1 {m : Nat} {s x : State} {f : Fld} {i : Nat} (h : Keeps m s x) (hm : m.testBit (f.id % 8192) = true := by decide +kernel) :
    Keeps m s (x.set1 f i) := h.wr hm

theorem clr {m : Nat} {s x : State} {f : Fld} {i : Nat} (h : Keeps m s x) (hm : m.testBit (f.id % 8192) = true := by decide +kernel) :
    Keeps m s (x.clr f i) := h.wr hm

theorem wrB {m : Nat} {s x : State} {f : Fld} {i : Nat} {b : Bool} (h : Keeps m s x) (hm : m.testBit (f.id % 8192) = true := by decide +kernel) :
    Keeps m s (x.wrB f i b) := h.wr hm

theorem bump {m : Nat} {s x : State} {f : Fld} {i n : Nat} (h : Keeps m s x) (hm : m.testBit (f.id % 8192) = true := by decide +kernel) :
    Keeps m s (x.bump f i n) := h.wr hm

theorem orBits {m : Nat} {s x : State} {f : Fld} {i n : Nat} (h : Keeps m s x) (hm : m.testBit (f.id % 8192) = true := by decide +kernel) :
    Keeps m s (x.orBits f i n) := h.wr hm

theorem wrS {m : Nat} {s x : State} {f : Fld} {i : Nat} {v : Int} (h : Keeps m s x) (hm : m.testBit (f.id % 8192) = true := by decide +kernel) :
    Keeps m s (x.wrS f i v) := h.wr hm

/-- An operation that changes registers and nothing else may change any of them. -/
theorem regsAny {m : Nat} {s x : State} {r : List (Nat × Nat)} (h : Keeps m s x) (hm : ∀ k, m.testBit (k % 8192) = true) :
    Keeps m s { x with regs := r } :=
  h.trans ⟨rfl, id, id, id, Nat.le_refl _, fun k d hk => (by rw [hm k] at hk; cases hk), fun p _ => by cases p <;> rfl⟩

end Keeps

/-! ### One part changed -/

namespace Keeps

theorem set_out {m : Nat} {s x : State} {v_out} (h : Keeps m s x) (h_out : m.testBit (Part.bit .out) = true := by decide +kernel) :
    Keeps m s { x with out := v_out } :=
  h.set rfl ⟨rfl, rfl⟩ rfl rfl rfl rfl (fun p hp => by
    cases p <;> first | rfl | with_reducible exact absurd (h_out.symm.trans hp) Bool.noConfusion)

theorem set_free {m : Nat} {s x : State} {v_free} (h : Keeps m s x) (h_free : m.testBit (Part.bit .free) = true := by decide +kernel) :
    Keeps m s { x with free := v_free } :=
  h.set rfl ⟨rfl, rfl⟩ rfl rfl rfl rfl (fun p hp => by
    cases p <;> first | rfl | with_reducible exact absurd (h_free.symm.trans hp) Bool.noConfusion)

theorem set_ev {m : Nat} {s x : State} {v_ev} (h : Keeps m s x) (h_ev : m.testBit (Part.bit .ev) = true := by decide +kernel) :
    Keeps m s { x with ev := v_ev } :=
  h.set rfl ⟨rfl, rfl⟩ rfl rfl rfl rfl (fun p hp => by
    cases p <;> first | rfl | with_reducible exact absurd (h_ev.symm.trans hp) Bool.noConfusion)

theorem set_tb {m : Nat} {s x : State} {t_cclk t_refClk t_coarsePhase t_lastAcc t_cand t_accSlew t_candSlew t_slewSum t_holdFrom t_freq t_slewErr t_slewStart t_slewRate t_stepErrs t_lockRun t_stepPending t_loadBy t_loadQueue t_reload t_loadHi t_powerUp t_vgActive t_lastSpin t_slotStarts t_slotAt t_periodAt} (h : Keeps m s x) (h_tb : m.testBit (Part.bit .tb) = true := by decide +kernel) :
    Keeps m s { x with tb := Timebase.mk x.tb.sec x.tb.tick t_cclk t_refClk t_coarsePhase t_lastAcc t_cand t_accSlew t_candSlew t_slewSum t_holdFrom t_freq t_slewErr t_slewStart t_slewRate t_stepErrs t_lockRun t_stepPending t_loadBy t_loadQueue t_reload t_loadHi t_powerUp t_vgActive t_lastSpin t_slotStarts t_slotAt t_periodAt } :=
  h.set rfl ⟨rfl, rfl⟩ rfl rfl rfl rfl (fun p hp => by
    cases p <;> first | rfl | with_reducible exact absurd (h_tb.symm.trans hp) Bool.noConfusion)

theorem set_pw {m : Nat} {s x : State} {v_pw} (h : Keeps m s x) (h_pw : m.testBit (Part.bit .pw) = true := by decide +kernel) :
    Keeps m s { x with pw := v_pw } :=
  h.set rfl ⟨rfl, rfl⟩ rfl rfl rfl rfl (fun p hp => by
    cases p <;> first | rfl | with_reducible exact absurd (h_pw.symm.trans hp) Bool.noConfusion)

theorem set_stns {m : Nat} {s x : State} {v_stns} (h : Keeps m s x) (h_stns : m.testBit (Part.bit .stns) = true := by decide +kernel) :
    Keeps m s { x with stns := v_stns } :=
  h.set rfl ⟨rfl, rfl⟩ rfl rfl rfl rfl (fun p hp => by
    cases p <;> first | rfl | with_reducible exact absurd (h_stns.symm.trans hp) Bool.noConfusion)

theorem set_seekQ {m : Nat} {s x : State} {v_seekQ} (h : Keeps m s x) (h_seekQ : m.testBit (Part.bit .seekQ) = true := by decide +kernel) :
    Keeps m s { x with seekQ := v_seekQ } :=
  h.set rfl ⟨rfl, rfl⟩ rfl rfl rfl rfl (fun p hp => by
    cases p <;> first | rfl | with_reducible exact absurd (h_seekQ.symm.trans hp) Bool.noConfusion)

theorem set_slices {m : Nat} {s x : State} {v_slices} (h : Keeps m s x) (h_slices : m.testBit (Part.bit .slices) = true := by decide +kernel) :
    Keeps m s { x with slices := v_slices } :=
  h.set rfl ⟨rfl, rfl⟩ rfl rfl rfl rfl (fun p hp => by
    cases p <;> first | rfl | with_reducible exact absurd (h_slices.symm.trans hp) Bool.noConfusion)

theorem set_headWait {m : Nat} {s x : State} {v_headWait} (h : Keeps m s x) (h_headWait : m.testBit (Part.bit .headWait) = true := by decide +kernel) :
    Keeps m s { x with headWait := v_headWait } :=
  h.set rfl ⟨rfl, rfl⟩ rfl rfl rfl rfl (fun p hp => by
    cases p <;> first | rfl | with_reducible exact absurd (h_headWait.symm.trans hp) Bool.noConfusion)

theorem set_discs {m : Nat} {s x : State} {v_discs} (h : Keeps m s x) (h_discs : m.testBit (Part.bit .discs) = true := by decide +kernel) :
    Keeps m s { x with discs := v_discs } :=
  h.set rfl ⟨rfl, rfl⟩ rfl rfl rfl rfl (fun p hp => by
    cases p <;> first | rfl | with_reducible exact absurd (h_discs.symm.trans hp) Bool.noConfusion)

theorem set_zones {m : Nat} {s x : State} {v_zones} (h : Keeps m s x) (h_zones : m.testBit (Part.bit .zones) = true := by decide +kernel) :
    Keeps m s { x with zones := v_zones } :=
  h.set rfl ⟨rfl, rfl⟩ rfl rfl rfl rfl (fun p hp => by
    cases p <;> first | rfl | with_reducible exact absurd (h_zones.symm.trans hp) Bool.noConfusion)

theorem set_held {m : Nat} {s x : State} {v_held} (h : Keeps m s x) (h_held : m.testBit (Part.bit .held) = true := by decide +kernel) :
    Keeps m s { x with held := v_held } :=
  h.set rfl ⟨rfl, rfl⟩ rfl rfl rfl rfl (fun p hp => by
    cases p <;> first | rfl | with_reducible exact absurd (h_held.symm.trans hp) Bool.noConfusion)

theorem set_cmds {m : Nat} {s x : State} {v_cmds} (h : Keeps m s x) (h_cmds : m.testBit (Part.bit .cmds) = true := by decide +kernel) :
    Keeps m s { x with cmds := v_cmds } :=
  h.set rfl ⟨rfl, rfl⟩ rfl rfl rfl rfl (fun p hp => by
    cases p <;> first | rfl | with_reducible exact absurd (h_cmds.symm.trans hp) Bool.noConfusion)

theorem set_sqs {m : Nat} {s x : State} {v_sqs} (h : Keeps m s x) (h_sqs : m.testBit (Part.bit .sqs) = true := by decide +kernel) :
    Keeps m s { x with sqs := v_sqs } :=
  h.set rfl ⟨rfl, rfl⟩ rfl rfl rfl rfl (fun p hp => by
    cases p <;> first | rfl | with_reducible exact absurd (h_sqs.symm.trans hp) Bool.noConfusion)

theorem set_cqs {m : Nat} {s x : State} {v_cqs} (h : Keeps m s x) (h_cqs : m.testBit (Part.bit .cqs) = true := by decide +kernel) :
    Keeps m s { x with cqs := v_cqs } :=
  h.set rfl ⟨rfl, rfl⟩ rfl rfl rfl rfl (fun p hp => by
    cases p <;> first | rfl | with_reducible exact absurd (h_cqs.symm.trans hp) Bool.noConfusion)

theorem set_grps {m : Nat} {s x : State} {v_grps} (h : Keeps m s x) (h_grps : m.testBit (Part.bit .grps) = true := by decide +kernel) :
    Keeps m s { x with grps := v_grps } :=
  h.set rfl ⟨rfl, rfl⟩ rfl rfl rfl rfl (fun p hp => by
    cases p <;> first | rfl | with_reducible exact absurd (h_grps.symm.trans hp) Bool.noConfusion)

theorem set_profs {m : Nat} {s x : State} {v_profs} (h : Keeps m s x) (h_profs : m.testBit (Part.bit .profs) = true := by decide +kernel) :
    Keeps m s { x with profs := v_profs } :=
  h.set rfl ⟨rfl, rfl⟩ rfl rfl rfl rfl (fun p hp => by
    cases p <;> first | rfl | with_reducible exact absurd (h_profs.symm.trans hp) Bool.noConfusion)

theorem set_ladders {m : Nat} {s x : State} {v_ladders} (h : Keeps m s x) (h_ladders : m.testBit (Part.bit .ladders) = true := by decide +kernel) :
    Keeps m s { x with ladders := v_ladders } :=
  h.set rfl ⟨rfl, rfl⟩ rfl rfl rfl rfl (fun p hp => by
    cases p <;> first | rfl | with_reducible exact absurd (h_ladders.symm.trans hp) Bool.noConfusion)

theorem set_ladderWait {m : Nat} {s x : State} {v_ladderWait} (h : Keeps m s x) (h_ladderWait : m.testBit (Part.bit .ladderWait) = true := by decide +kernel) :
    Keeps m s { x with ladderWait := v_ladderWait } :=
  h.set rfl ⟨rfl, rfl⟩ rfl rfl rfl rfl (fun p hp => by
    cases p <;> first | rfl | with_reducible exact absurd (h_ladderWait.symm.trans hp) Bool.noConfusion)

theorem set_damage {m : Nat} {s x : State} {v_damage} (h : Keeps m s x) (h_damage : m.testBit (Part.bit .damage) = true := by decide +kernel) :
    Keeps m s { x with damage := v_damage } :=
  h.set rfl ⟨rfl, rfl⟩ rfl rfl rfl rfl (fun p hp => by
    cases p <;> first | rfl | with_reducible exact absurd (h_damage.symm.trans hp) Bool.noConfusion)

theorem set_bufs {m : Nat} {s x : State} {v_bufs} (h : Keeps m s x) (h_bufs : m.testBit (Part.bit .bufs) = true := by decide +kernel) :
    Keeps m s { x with bufs := v_bufs } :=
  h.set rfl ⟨rfl, rfl⟩ rfl rfl rfl rfl (fun p hp => by
    cases p <;> first | rfl | with_reducible exact absurd (h_bufs.symm.trans hp) Bool.noConfusion)

theorem set_copyWait {m : Nat} {s x : State} {v_copyWait} (h : Keeps m s x) (h_copyWait : m.testBit (Part.bit .copyWait) = true := by decide +kernel) :
    Keeps m s { x with copyWait := v_copyWait } :=
  h.set rfl ⟨rfl, rfl⟩ rfl rfl rfl rfl (fun p hp => by
    cases p <;> first | rfl | with_reducible exact absurd (h_copyWait.symm.trans hp) Bool.noConfusion)

theorem set_engines {m : Nat} {s x : State} {v_engines} (h : Keeps m s x) (h_engines : m.testBit (Part.bit .engines) = true := by decide +kernel) :
    Keeps m s { x with engines := v_engines } :=
  h.set rfl ⟨rfl, rfl⟩ rfl rfl rfl rfl (fun p hp => by
    cases p <;> first | rfl | with_reducible exact absurd (h_engines.symm.trans hp) Bool.noConfusion)

theorem set_chanJobs {m : Nat} {s x : State} {v_chanJobs} (h : Keeps m s x) (h_chanJobs : m.testBit (Part.bit .chanJobs) = true := by decide +kernel) :
    Keeps m s { x with chanJobs := v_chanJobs } :=
  h.set rfl ⟨rfl, rfl⟩ rfl rfl rfl rfl (fun p hp => by
    cases p <;> first | rfl | with_reducible exact absurd (h_chanJobs.symm.trans hp) Bool.noConfusion)

theorem set_jq {m : Nat} {s x : State} {v_jq} (h : Keeps m s x) (h_jq : m.testBit (Part.bit .jq) = true := by decide +kernel) :
    Keeps m s { x with jq := v_jq } :=
  h.set rfl ⟨rfl, rfl⟩ rfl rfl rfl rfl (fun p hp => by
    cases p <;> first | rfl | with_reducible exact absurd (h_jq.symm.trans hp) Bool.noConfusion)

theorem set_mgmtQ {m : Nat} {s x : State} {v_mgmtQ} (h : Keeps m s x) (h_mgmtQ : m.testBit (Part.bit .mgmtQ) = true := by decide +kernel) :
    Keeps m s { x with mgmtQ := v_mgmtQ } :=
  h.set rfl ⟨rfl, rfl⟩ rfl rfl rfl rfl (fun p hp => by
    cases p <;> first | rfl | with_reducible exact absurd (h_mgmtQ.symm.trans hp) Bool.noConfusion)

theorem set_loop {m : Nat} {s x : State} {v_loop} (h : Keeps m s x) (h_loop : m.testBit (Part.bit .loop) = true := by decide +kernel) :
    Keeps m s { x with loop := v_loop } :=
  h.set rfl ⟨rfl, rfl⟩ rfl rfl rfl rfl (fun p hp => by
    cases p <;> first | rfl | with_reducible exact absurd (h_loop.symm.trans hp) Bool.noConfusion)

theorem set_heads {m : Nat} {s x : State} {v_heads} (h : Keeps m s x) (h_heads : m.testBit (Part.bit .heads) = true := by decide +kernel) :
    Keeps m s { x with heads := v_heads } :=
  h.set rfl ⟨rfl, rfl⟩ rfl rfl rfl rfl (fun p hp => by
    cases p <;> first | rfl | with_reducible exact absurd (h_heads.symm.trans hp) Bool.noConfusion)

theorem set_spins {m : Nat} {s x : State} {v_spins} (h : Keeps m s x) (h_spins : m.testBit (Part.bit .spins) = true := by decide +kernel) :
    Keeps m s { x with spins := v_spins } :=
  h.set rfl ⟨rfl, rfl⟩ rfl rfl rfl rfl (fun p hp => by
    cases p <;> first | rfl | with_reducible exact absurd (h_spins.symm.trans hp) Bool.noConfusion)

theorem set_axes {m : Nat} {s x : State} {v_axes} (h : Keeps m s x) (h_axes : m.testBit (Part.bit .axes) = true := by decide +kernel) :
    Keeps m s { x with axes := v_axes } :=
  h.set rfl ⟨rfl, rfl⟩ rfl rfl rfl rfl (fun p hp => by
    cases p <;> first | rfl | with_reducible exact absurd (h_axes.symm.trans hp) Bool.noConfusion)

theorem set_lib {m : Nat} {s x : State} {v_lib} (h : Keeps m s x) (h_lib : m.testBit (Part.bit .lib) = true := by decide +kernel) :
    Keeps m s { x with lib := v_lib } :=
  h.set rfl ⟨rfl, rfl⟩ rfl rfl rfl rfl (fun p hp => by
    cases p <;> first | rfl | with_reducible exact absurd (h_lib.symm.trans hp) Bool.noConfusion)

theorem set_cals {m : Nat} {s x : State} {v_cals} (h : Keeps m s x) (h_cals : m.testBit (Part.bit .cals) = true := by decide +kernel) :
    Keeps m s { x with cals := v_cals } :=
  h.set rfl ⟨rfl, rfl⟩ rfl rfl rfl rfl (fun p hp => by
    cases p <;> first | rfl | with_reducible exact absurd (h_cals.symm.trans hp) Bool.noConfusion)

theorem set_stack {m : Nat} {s x : State} {v_stack} (h : Keeps m s x) (h_stack : m.testBit (Part.bit .stack) = true := by decide +kernel) :
    Keeps m s { x with stack := v_stack } :=
  h.set rfl ⟨rfl, rfl⟩ rfl rfl rfl rfl (fun p hp => by
    cases p <;> first | rfl | with_reducible exact absurd (h_stack.symm.trans hp) Bool.noConfusion)

theorem set_hep {m : Nat} {s x : State} {v_hep} (h : Keeps m s x) (h_hep : m.testBit (Part.bit .hep) = true := by decide +kernel) :
    Keeps m s { x with hep := v_hep } :=
  h.set rfl ⟨rfl, rfl⟩ rfl rfl rfl rfl (fun p hp => by
    cases p <;> first | rfl | with_reducible exact absurd (h_hep.symm.trans hp) Bool.noConfusion)

theorem set_ms {m : Nat} {s x : State} {v_ms} (h : Keeps m s x) (h_ms : m.testBit (Part.bit .ms) = true := by decide +kernel) :
    Keeps m s { x with ms := v_ms } :=
  h.set rfl ⟨rfl, rfl⟩ rfl rfl rfl rfl (fun p hp => by
    cases p <;> first | rfl | with_reducible exact absurd (h_ms.symm.trans hp) Bool.noConfusion)

theorem set_flash {m : Nat} {s x : State} {v_flash} (h : Keeps m s x) (h_flash : m.testBit (Part.bit .flash) = true := by decide +kernel) :
    Keeps m s { x with flash := v_flash } :=
  h.set rfl ⟨rfl, rfl⟩ rfl rfl rfl rfl (fun p hp => by
    cases p <;> first | rfl | with_reducible exact absurd (h_flash.symm.trans hp) Bool.noConfusion)

theorem set_tally {m : Nat} {s x : State} {v_tally} (h : Keeps m s x) (h_tally : m.testBit (Part.bit .tally) = true := by decide +kernel) :
    Keeps m s { x with tally := v_tally } :=
  h.set rfl ⟨rfl, rfl⟩ rfl rfl rfl rfl (fun p hp => by
    cases p <;> first | rfl | with_reducible exact absurd (h_tally.symm.trans hp) Bool.noConfusion)

theorem set_firm {m : Nat} {s x : State} {v_firm} (h : Keeps m s x) (h_firm : m.testBit (Part.bit .firm) = true := by decide +kernel) :
    Keeps m s { x with firm := v_firm } :=
  h.set rfl ⟨rfl, rfl⟩ rfl rfl rfl rfl (fun p hp => by
    cases p <;> first | rfl | with_reducible exact absurd (h_firm.symm.trans hp) Bool.noConfusion)

theorem set_ev_firm {m : Nat} {s x : State} {v_ev v_firm} (h : Keeps m s x) (h_ev : m.testBit (Part.bit .ev) = true := by decide +kernel) (h_firm : m.testBit (Part.bit .firm) = true := by decide +kernel) :
    Keeps m s { x with ev := v_ev, firm := v_firm } :=
  h.set rfl ⟨rfl, rfl⟩ rfl rfl rfl rfl (fun p hp => by
    cases p <;> first | rfl | with_reducible exact absurd (h_ev.symm.trans hp) Bool.noConfusion | with_reducible exact absurd (h_firm.symm.trans hp) Bool.noConfusion)

theorem set_tb_pw {m : Nat} {s x : State} {v_pw} {t_cclk t_refClk t_coarsePhase t_lastAcc t_cand t_accSlew t_candSlew t_slewSum t_holdFrom t_freq t_slewErr t_slewStart t_slewRate t_stepErrs t_lockRun t_stepPending t_loadBy t_loadQueue t_reload t_loadHi t_powerUp t_vgActive t_lastSpin t_slotStarts t_slotAt t_periodAt} (h : Keeps m s x) (h_tb : m.testBit (Part.bit .tb) = true := by decide +kernel) (h_pw : m.testBit (Part.bit .pw) = true := by decide +kernel) :
    Keeps m s { x with tb := Timebase.mk x.tb.sec x.tb.tick t_cclk t_refClk t_coarsePhase t_lastAcc t_cand t_accSlew t_candSlew t_slewSum t_holdFrom t_freq t_slewErr t_slewStart t_slewRate t_stepErrs t_lockRun t_stepPending t_loadBy t_loadQueue t_reload t_loadHi t_powerUp t_vgActive t_lastSpin t_slotStarts t_slotAt t_periodAt, pw := v_pw } :=
  h.set rfl ⟨rfl, rfl⟩ rfl rfl rfl rfl (fun p hp => by
    cases p <;> first | rfl | with_reducible exact absurd (h_tb.symm.trans hp) Bool.noConfusion | with_reducible exact absurd (h_pw.symm.trans hp) Bool.noConfusion)

theorem set_tb_stack {m : Nat} {s x : State} {v_stack} {t_cclk t_refClk t_coarsePhase t_lastAcc t_cand t_accSlew t_candSlew t_slewSum t_holdFrom t_freq t_slewErr t_slewStart t_slewRate t_stepErrs t_lockRun t_stepPending t_loadBy t_loadQueue t_reload t_loadHi t_powerUp t_vgActive t_lastSpin t_slotStarts t_slotAt t_periodAt} (h : Keeps m s x) (h_tb : m.testBit (Part.bit .tb) = true := by decide +kernel) (h_stack : m.testBit (Part.bit .stack) = true := by decide +kernel) :
    Keeps m s { x with tb := Timebase.mk x.tb.sec x.tb.tick t_cclk t_refClk t_coarsePhase t_lastAcc t_cand t_accSlew t_candSlew t_slewSum t_holdFrom t_freq t_slewErr t_slewStart t_slewRate t_stepErrs t_lockRun t_stepPending t_loadBy t_loadQueue t_reload t_loadHi t_powerUp t_vgActive t_lastSpin t_slotStarts t_slotAt t_periodAt, stack := v_stack } :=
  h.set rfl ⟨rfl, rfl⟩ rfl rfl rfl rfl (fun p hp => by
    cases p <;> first | rfl | with_reducible exact absurd (h_tb.symm.trans hp) Bool.noConfusion | with_reducible exact absurd (h_stack.symm.trans hp) Bool.noConfusion)

theorem set_pw_firm {m : Nat} {s x : State} {v_pw v_firm} (h : Keeps m s x) (h_pw : m.testBit (Part.bit .pw) = true := by decide +kernel) (h_firm : m.testBit (Part.bit .firm) = true := by decide +kernel) :
    Keeps m s { x with pw := v_pw, firm := v_firm } :=
  h.set rfl ⟨rfl, rfl⟩ rfl rfl rfl rfl (fun p hp => by
    cases p <;> first | rfl | with_reducible exact absurd (h_pw.symm.trans hp) Bool.noConfusion | with_reducible exact absurd (h_firm.symm.trans hp) Bool.noConfusion)

theorem set_discs_zones {m : Nat} {s x : State} {v_discs v_zones} (h : Keeps m s x) (h_discs : m.testBit (Part.bit .discs) = true := by decide +kernel) (h_zones : m.testBit (Part.bit .zones) = true := by decide +kernel) :
    Keeps m s { x with discs := v_discs, zones := v_zones } :=
  h.set rfl ⟨rfl, rfl⟩ rfl rfl rfl rfl (fun p hp => by
    cases p <;> first | rfl | with_reducible exact absurd (h_discs.symm.trans hp) Bool.noConfusion | with_reducible exact absurd (h_zones.symm.trans hp) Bool.noConfusion)

theorem set_zones_held {m : Nat} {s x : State} {v_zones v_held} (h : Keeps m s x) (h_zones : m.testBit (Part.bit .zones) = true := by decide +kernel) (h_held : m.testBit (Part.bit .held) = true := by decide +kernel) :
    Keeps m s { x with zones := v_zones, held := v_held } :=
  h.set rfl ⟨rfl, rfl⟩ rfl rfl rfl rfl (fun p hp => by
    cases p <;> first | rfl | with_reducible exact absurd (h_zones.symm.trans hp) Bool.noConfusion | with_reducible exact absurd (h_held.symm.trans hp) Bool.noConfusion)

theorem set_zones_flash {m : Nat} {s x : State} {v_zones v_flash} (h : Keeps m s x) (h_zones : m.testBit (Part.bit .zones) = true := by decide +kernel) (h_flash : m.testBit (Part.bit .flash) = true := by decide +kernel) :
    Keeps m s { x with zones := v_zones, flash := v_flash } :=
  h.set rfl ⟨rfl, rfl⟩ rfl rfl rfl rfl (fun p hp => by
    cases p <;> first | rfl | with_reducible exact absurd (h_zones.symm.trans hp) Bool.noConfusion | with_reducible exact absurd (h_flash.symm.trans hp) Bool.noConfusion)

theorem set_cmds_cmdSeq {m : Nat} {s x : State} {v_cmds v_cmdSeq} (h : Keeps m s x) (h_cmds : m.testBit (Part.bit .cmds) = true := by decide +kernel) (h_cmdSeq : m.testBit (Part.bit .cmdSeq) = true := by decide +kernel) :
    Keeps m s { x with cmds := v_cmds, cmdSeq := v_cmdSeq } :=
  h.set rfl ⟨rfl, rfl⟩ rfl rfl rfl rfl (fun p hp => by
    cases p <;> first | rfl | with_reducible exact absurd (h_cmds.symm.trans hp) Bool.noConfusion | with_reducible exact absurd (h_cmdSeq.symm.trans hp) Bool.noConfusion)

theorem set_sqs_bufs {m : Nat} {s x : State} {v_sqs v_bufs} (h : Keeps m s x) (h_sqs : m.testBit (Part.bit .sqs) = true := by decide +kernel) (h_bufs : m.testBit (Part.bit .bufs) = true := by decide +kernel) :
    Keeps m s { x with sqs := v_sqs, bufs := v_bufs } :=
  h.set rfl ⟨rfl, rfl⟩ rfl rfl rfl rfl (fun p hp => by
    cases p <;> first | rfl | with_reducible exact absurd (h_sqs.symm.trans hp) Bool.noConfusion | with_reducible exact absurd (h_bufs.symm.trans hp) Bool.noConfusion)

theorem set_ladders_ladderWait {m : Nat} {s x : State} {v_ladders v_ladderWait} (h : Keeps m s x) (h_ladders : m.testBit (Part.bit .ladders) = true := by decide +kernel) (h_ladderWait : m.testBit (Part.bit .ladderWait) = true := by decide +kernel) :
    Keeps m s { x with ladders := v_ladders, ladderWait := v_ladderWait } :=
  h.set rfl ⟨rfl, rfl⟩ rfl rfl rfl rfl (fun p hp => by
    cases p <;> first | rfl | with_reducible exact absurd (h_ladders.symm.trans hp) Bool.noConfusion | with_reducible exact absurd (h_ladderWait.symm.trans hp) Bool.noConfusion)

theorem set_damage_damageSeq {m : Nat} {s x : State} {v_damage v_damageSeq} (h : Keeps m s x) (h_damage : m.testBit (Part.bit .damage) = true := by decide +kernel) (h_damageSeq : m.testBit (Part.bit .damageSeq) = true := by decide +kernel) :
    Keeps m s { x with damage := v_damage, damageSeq := v_damageSeq } :=
  h.set rfl ⟨rfl, rfl⟩ rfl rfl rfl rfl (fun p hp => by
    cases p <;> first | rfl | with_reducible exact absurd (h_damage.symm.trans hp) Bool.noConfusion | with_reducible exact absurd (h_damageSeq.symm.trans hp) Bool.noConfusion)

theorem set_bufs_pools {m : Nat} {s x : State} {v_bufs v_pools} (h : Keeps m s x) (h_bufs : m.testBit (Part.bit .bufs) = true := by decide +kernel) (h_pools : m.testBit (Part.bit .pools) = true := by decide +kernel) :
    Keeps m s { x with bufs := v_bufs, pools := v_pools } :=
  h.set rfl ⟨rfl, rfl⟩ rfl rfl rfl rfl (fun p hp => by
    cases p <;> first | rfl | with_reducible exact absurd (h_bufs.symm.trans hp) Bool.noConfusion | with_reducible exact absurd (h_pools.symm.trans hp) Bool.noConfusion)

theorem set_jq_flash {m : Nat} {s x : State} {v_jq v_flash} (h : Keeps m s x) (h_jq : m.testBit (Part.bit .jq) = true := by decide +kernel) (h_flash : m.testBit (Part.bit .flash) = true := by decide +kernel) :
    Keeps m s { x with jq := v_jq, flash := v_flash } :=
  h.set rfl ⟨rfl, rfl⟩ rfl rfl rfl rfl (fun p hp => by
    cases p <;> first | rfl | with_reducible exact absurd (h_jq.symm.trans hp) Bool.noConfusion | with_reducible exact absurd (h_flash.symm.trans hp) Bool.noConfusion)

theorem set_heads_lib {m : Nat} {s x : State} {v_heads v_lib} (h : Keeps m s x) (h_heads : m.testBit (Part.bit .heads) = true := by decide +kernel) (h_lib : m.testBit (Part.bit .lib) = true := by decide +kernel) :
    Keeps m s { x with heads := v_heads, lib := v_lib } :=
  h.set rfl ⟨rfl, rfl⟩ rfl rfl rfl rfl (fun p hp => by
    cases p <;> first | rfl | with_reducible exact absurd (h_heads.symm.trans hp) Bool.noConfusion | with_reducible exact absurd (h_lib.symm.trans hp) Bool.noConfusion)

theorem set_flash_tally {m : Nat} {s x : State} {v_flash v_tally} (h : Keeps m s x) (h_flash : m.testBit (Part.bit .flash) = true := by decide +kernel) (h_tally : m.testBit (Part.bit .tally) = true := by decide +kernel) :
    Keeps m s { x with flash := v_flash, tally := v_tally } :=
  h.set rfl ⟨rfl, rfl⟩ rfl rfl rfl rfl (fun p hp => by
    cases p <;> first | rfl | with_reducible exact absurd (h_flash.symm.trans hp) Bool.noConfusion | with_reducible exact absurd (h_tally.symm.trans hp) Bool.noConfusion)

theorem set_pw_ms_firm {m : Nat} {s x : State} {v_pw v_ms v_firm} (h : Keeps m s x) (h_pw : m.testBit (Part.bit .pw) = true := by decide +kernel) (h_ms : m.testBit (Part.bit .ms) = true := by decide +kernel) (h_firm : m.testBit (Part.bit .firm) = true := by decide +kernel) :
    Keeps m s { x with pw := v_pw, ms := v_ms, firm := v_firm } :=
  h.set rfl ⟨rfl, rfl⟩ rfl rfl rfl rfl (fun p hp => by
    cases p <;> first | rfl | with_reducible exact absurd (h_pw.symm.trans hp) Bool.noConfusion | with_reducible exact absurd (h_ms.symm.trans hp) Bool.noConfusion | with_reducible exact absurd (h_firm.symm.trans hp) Bool.noConfusion)

theorem set_bufs_gens_pools {m : Nat} {s x : State} {v_bufs v_gens v_pools} (h : Keeps m s x) (h_bufs : m.testBit (Part.bit .bufs) = true := by decide +kernel) (h_gens : m.testBit (Part.bit .gens) = true := by decide +kernel) (h_pools : m.testBit (Part.bit .pools) = true := by decide +kernel) :
    Keeps m s { x with bufs := v_bufs, gens := v_gens, pools := v_pools } :=
  h.set rfl ⟨rfl, rfl⟩ rfl rfl rfl rfl (fun p hp => by
    cases p <;> first | rfl | with_reducible exact absurd (h_bufs.symm.trans hp) Bool.noConfusion | with_reducible exact absurd (h_gens.symm.trans hp) Bool.noConfusion | with_reducible exact absurd (h_pools.symm.trans hp) Bool.noConfusion)

theorem set_cmdSeq_rrGroup_rrQueue_rrLeft {m : Nat} {s x : State} {v_cmdSeq v_rrGroup v_rrQueue v_rrLeft} (h : Keeps m s x) (h_cmdSeq : m.testBit (Part.bit .cmdSeq) = true := by decide +kernel) (h_rrGroup : m.testBit (Part.bit .rrGroup) = true := by decide +kernel) (h_rrQueue : m.testBit (Part.bit .rrQueue) = true := by decide +kernel) (h_rrLeft : m.testBit (Part.bit .rrLeft) = true := by decide +kernel) :
    Keeps m s { x with cmdSeq := v_cmdSeq, rrGroup := v_rrGroup, rrQueue := v_rrQueue, rrLeft := v_rrLeft } :=
  h.set rfl ⟨rfl, rfl⟩ rfl rfl rfl rfl (fun p hp => by
    cases p <;> first | rfl | with_reducible exact absurd (h_cmdSeq.symm.trans hp) Bool.noConfusion | with_reducible exact absurd (h_rrGroup.symm.trans hp) Bool.noConfusion | with_reducible exact absurd (h_rrQueue.symm.trans hp) Bool.noConfusion | with_reducible exact absurd (h_rrLeft.symm.trans hp) Bool.noConfusion)

theorem set_sqs_cqs_grps_profs_rrGroup_rrQueue_rrLeft_copyWait_hep {m : Nat} {s x : State} {v_sqs v_cqs v_grps v_profs v_rrGroup v_rrQueue v_rrLeft v_copyWait v_hep} (h : Keeps m s x) (h_sqs : m.testBit (Part.bit .sqs) = true := by decide +kernel) (h_cqs : m.testBit (Part.bit .cqs) = true := by decide +kernel) (h_grps : m.testBit (Part.bit .grps) = true := by decide +kernel) (h_profs : m.testBit (Part.bit .profs) = true := by decide +kernel) (h_rrGroup : m.testBit (Part.bit .rrGroup) = true := by decide +kernel) (h_rrQueue : m.testBit (Part.bit .rrQueue) = true := by decide +kernel) (h_rrLeft : m.testBit (Part.bit .rrLeft) = true := by decide +kernel) (h_copyWait : m.testBit (Part.bit .copyWait) = true := by decide +kernel) (h_hep : m.testBit (Part.bit .hep) = true := by decide +kernel) :
    Keeps m s { x with sqs := v_sqs, cqs := v_cqs, grps := v_grps, profs := v_profs, rrGroup := v_rrGroup, rrQueue := v_rrQueue, rrLeft := v_rrLeft, copyWait := v_copyWait, hep := v_hep } :=
  h.set rfl ⟨rfl, rfl⟩ rfl rfl rfl rfl (fun p hp => by
    cases p <;> first | rfl | with_reducible exact absurd (h_sqs.symm.trans hp) Bool.noConfusion | with_reducible exact absurd (h_cqs.symm.trans hp) Bool.noConfusion | with_reducible exact absurd (h_grps.symm.trans hp) Bool.noConfusion | with_reducible exact absurd (h_profs.symm.trans hp) Bool.noConfusion | with_reducible exact absurd (h_rrGroup.symm.trans hp) Bool.noConfusion | with_reducible exact absurd (h_rrQueue.symm.trans hp) Bool.noConfusion | with_reducible exact absurd (h_rrLeft.symm.trans hp) Bool.noConfusion | with_reducible exact absurd (h_copyWait.symm.trans hp) Bool.noConfusion | with_reducible exact absurd (h_hep.symm.trans hp) Bool.noConfusion)

theorem set_tb_pw_stns_held_cmds_ladders_bufs_chanJobs_heads_lib_tally_firm {m : Nat} {s x : State} {v_pw v_stns v_held v_cmds v_ladders v_bufs v_chanJobs v_heads v_lib v_tally v_firm} {t_cclk t_refClk t_coarsePhase t_lastAcc t_cand t_accSlew t_candSlew t_slewSum t_holdFrom t_freq t_slewErr t_slewStart t_slewRate t_stepErrs t_lockRun t_stepPending t_loadBy t_loadQueue t_reload t_loadHi t_powerUp t_vgActive t_lastSpin t_slotStarts t_slotAt t_periodAt} (h : Keeps m s x) (h_tb : m.testBit (Part.bit .tb) = true := by decide +kernel) (h_pw : m.testBit (Part.bit .pw) = true := by decide +kernel) (h_stns : m.testBit (Part.bit .stns) = true := by decide +kernel) (h_held : m.testBit (Part.bit .held) = true := by decide +kernel) (h_cmds : m.testBit (Part.bit .cmds) = true := by decide +kernel) (h_ladders : m.testBit (Part.bit .ladders) = true := by decide +kernel) (h_bufs : m.testBit (Part.bit .bufs) = true := by decide +kernel) (h_chanJobs : m.testBit (Part.bit .chanJobs) = true := by decide +kernel) (h_heads : m.testBit (Part.bit .heads) = true := by decide +kernel) (h_lib : m.testBit (Part.bit .lib) = true := by decide +kernel) (h_tally : m.testBit (Part.bit .tally) = true := by decide +kernel) (h_firm : m.testBit (Part.bit .firm) = true := by decide +kernel) :
    Keeps m s { x with tb := Timebase.mk x.tb.sec x.tb.tick t_cclk t_refClk t_coarsePhase t_lastAcc t_cand t_accSlew t_candSlew t_slewSum t_holdFrom t_freq t_slewErr t_slewStart t_slewRate t_stepErrs t_lockRun t_stepPending t_loadBy t_loadQueue t_reload t_loadHi t_powerUp t_vgActive t_lastSpin t_slotStarts t_slotAt t_periodAt, pw := v_pw, stns := v_stns, held := v_held, cmds := v_cmds, ladders := v_ladders, bufs := v_bufs, chanJobs := v_chanJobs, heads := v_heads, lib := v_lib, tally := v_tally, firm := v_firm } :=
  h.set rfl ⟨rfl, rfl⟩ rfl rfl rfl rfl (fun p hp => by
    cases p <;> first | rfl | with_reducible exact absurd (h_tb.symm.trans hp) Bool.noConfusion | with_reducible exact absurd (h_pw.symm.trans hp) Bool.noConfusion | with_reducible exact absurd (h_stns.symm.trans hp) Bool.noConfusion | with_reducible exact absurd (h_held.symm.trans hp) Bool.noConfusion | with_reducible exact absurd (h_cmds.symm.trans hp) Bool.noConfusion | with_reducible exact absurd (h_ladders.symm.trans hp) Bool.noConfusion | with_reducible exact absurd (h_bufs.symm.trans hp) Bool.noConfusion | with_reducible exact absurd (h_chanJobs.symm.trans hp) Bool.noConfusion | with_reducible exact absurd (h_heads.symm.trans hp) Bool.noConfusion | with_reducible exact absurd (h_lib.symm.trans hp) Bool.noConfusion | with_reducible exact absurd (h_tally.symm.trans hp) Bool.noConfusion | with_reducible exact absurd (h_firm.symm.trans hp) Bool.noConfusion)

theorem set_tb_v {m : Nat} {s x : State} {v_tb : Timebase} (h : Keeps m s x)
    (ht : v_tb.tick = x.tb.tick ∧ v_tb.sec = x.tb.sec) (h_tb : m.testBit (Part.bit .tb) = true := by decide +kernel) :
    Keeps m s { x with tb := v_tb } :=
  h.set rfl ht rfl rfl rfl rfl (fun p hp => by
    cases p <;> first | rfl | with_reducible exact absurd (h_tb.symm.trans hp) Bool.noConfusion)

theorem set_tb_pw_v {m : Nat} {s x : State} {v_tb : Timebase} {v_pw} (h : Keeps m s x)
    (ht : v_tb.tick = x.tb.tick ∧ v_tb.sec = x.tb.sec) (h_tb : m.testBit (Part.bit .tb) = true := by decide +kernel) (h_pw : m.testBit (Part.bit .pw) = true := by decide +kernel) :
    Keeps m s { x with tb := v_tb, pw := v_pw } :=
  h.set rfl ht rfl rfl rfl rfl (fun p hp => by
    cases p <;> first | rfl | with_reducible exact absurd (h_tb.symm.trans hp) Bool.noConfusion | with_reducible exact absurd (h_pw.symm.trans hp) Bool.noConfusion)

theorem set_tb_stack_v {m : Nat} {s x : State} {v_tb : Timebase} {v_stack} (h : Keeps m s x)
    (ht : v_tb.tick = x.tb.tick ∧ v_tb.sec = x.tb.sec) (h_tb : m.testBit (Part.bit .tb) = true := by decide +kernel) (h_stack : m.testBit (Part.bit .stack) = true := by decide +kernel) :
    Keeps m s { x with tb := v_tb, stack := v_stack } :=
  h.set rfl ht rfl rfl rfl rfl (fun p hp => by
    cases p <;> first | rfl | with_reducible exact absurd (h_tb.symm.trans hp) Bool.noConfusion | with_reducible exact absurd (h_stack.symm.trans hp) Bool.noConfusion)

theorem set_tb_pw_stns_held_cmds_ladders_bufs_chanJobs_heads_lib_tally_firm_v {m : Nat} {s x : State} {v_tb : Timebase} {v_pw v_stns v_held v_cmds v_ladders v_bufs v_chanJobs v_heads v_lib v_tally v_firm} (h : Keeps m s x)
    (ht : v_tb.tick = x.tb.tick ∧ v_tb.sec = x.tb.sec) (h_tb : m.testBit (Part.bit .tb) = true := by decide +kernel) (h_pw : m.testBit (Part.bit .pw) = true := by decide +kernel) (h_stns : m.testBit (Part.bit .stns) = true := by decide +kernel) (h_held : m.testBit (Part.bit .held) = true := by decide +kernel) (h_cmds : m.testBit (Part.bit .cmds) = true := by decide +kernel) (h_ladders : m.testBit (Part.bit .ladders) = true := by decide +kernel) (h_bufs : m.testBit (Part.bit .bufs) = true := by decide +kernel) (h_chanJobs : m.testBit (Part.bit .chanJobs) = true := by decide +kernel) (h_heads : m.testBit (Part.bit .heads) = true := by decide +kernel) (h_lib : m.testBit (Part.bit .lib) = true := by decide +kernel) (h_tally : m.testBit (Part.bit .tally) = true := by decide +kernel) (h_firm : m.testBit (Part.bit .firm) = true := by decide +kernel) :
    Keeps m s { x with tb := v_tb, pw := v_pw, stns := v_stns, held := v_held, cmds := v_cmds, ladders := v_ladders, bufs := v_bufs, chanJobs := v_chanJobs, heads := v_heads, lib := v_lib, tally := v_tally, firm := v_firm } :=
  h.set rfl ht rfl rfl rfl rfl (fun p hp => by
    cases p <;> first | rfl | with_reducible exact absurd (h_tb.symm.trans hp) Bool.noConfusion | with_reducible exact absurd (h_pw.symm.trans hp) Bool.noConfusion | with_reducible exact absurd (h_stns.symm.trans hp) Bool.noConfusion | with_reducible exact absurd (h_held.symm.trans hp) Bool.noConfusion | with_reducible exact absurd (h_cmds.symm.trans hp) Bool.noConfusion | with_reducible exact absurd (h_ladders.symm.trans hp) Bool.noConfusion | with_reducible exact absurd (h_bufs.symm.trans hp) Bool.noConfusion | with_reducible exact absurd (h_chanJobs.symm.trans hp) Bool.noConfusion | with_reducible exact absurd (h_heads.symm.trans hp) Bool.noConfusion | with_reducible exact absurd (h_lib.symm.trans hp) Bool.noConfusion | with_reducible exact absurd (h_tally.symm.trans hp) Bool.noConfusion | with_reducible exact absurd (h_firm.symm.trans hp) Bool.noConfusion)

theorem set_now {m : Nat} {s x : State} {v : Nat} (h : Keeps m s x) (hv : x.now ≤ v) (hm : m.testBit (Part.bit .now) = true := by decide +kernel) :
    Keeps m s { x with now := v } := by
  refine h.trans ⟨rfl, id, id, id, hv, fun _ _ _ => rfl, fun p hp => ?_⟩
  cases p <;> first | rfl | exact absurd (hm.symm.trans hp) Bool.noConfusion

theorem set_mem {m : Nat} {s x : State} {v : List Host.Cell} (h : Keeps m s x) (hw : Memory.wf x.mem = true → Memory.wf v = true)
    (hm : m.testBit (Part.bit .mem) = true := by decide +kernel) : Keeps m s { x with mem := v } := by
  refine h.trans ⟨rfl, id, hw, id, Nat.le_refl _, fun _ _ _ => rfl, fun p hp => ?_⟩
  cases p <;> first | rfl | with_reducible exact absurd (hm.symm.trans hp) Bool.noConfusion

theorem set_mem_ms {m : Nat} {s x : State} {v : List Host.Cell} {v_ms} (h : Keeps m s x)
    (hw : Memory.wf x.mem = true → Memory.wf v = true) (hm : m.testBit (Part.bit .mem) = true := by decide +kernel)
    (hn : m.testBit (Part.bit .ms) = true := by decide +kernel) : Keeps m s { x with mem := v, ms := v_ms } := by
  refine h.trans ⟨rfl, id, hw, id, Nat.le_refl _, fun _ _ _ => rfl, fun p hp => ?_⟩
  cases p <;> first
    | rfl
    | with_reducible exact absurd (hm.symm.trans hp) Bool.noConfusion
    | with_reducible exact absurd (hn.symm.trans hp) Bool.noConfusion

theorem set_sealed {m : Nat} {s x : State} (h : Keeps m s x) (hm : m.testBit (Part.bit .sealed) = true := by decide +kernel) :
    Keeps m s { x with sealed := true } := by
  refine h.trans ⟨rfl, id, id, fun _ => rfl, Nat.le_refl _, fun _ _ _ => rfl, fun p hp => ?_⟩
  cases p <;> first | rfl | with_reducible exact absurd (hm.symm.trans hp) Bool.noConfusion

end Keeps

end Sys2Proof.Machine
end

