-- ==== Sys2Proof/Laws/Memory.lean ====
section
/-!
SUPPORT. Device memory: a read after a write, and that every operation keeps the canonical form.
-/

set_option Elab.async false

namespace Sys2Proof.Machine

/-- Below the first entry nothing is listed. -/
theorem memRead_below (l : List Host.Cell) (lo k : Nat) (h : memWfFrom lo l = true) (hk : k < lo) : memRead l k = memBlank := by
  induction l generalizing lo with
  | nil => rfl
  | cons q r ih =>
    obtain ⟨x, y⟩ := q
    simp only [memWfFrom, Bool.and_eq_true, decide_eq_true_eq] at h
    have hx : ¬ x = k := by omega
    simp only [memRead, hx, if_false]
    exact ih (x + 1) h.2 (by omega)

theorem memRead_cons_same (a : Nat) (b : BitVec 8) (r : List Host.Cell) : memRead ((a, b) :: r) a = b := by
  simp only [memRead, if_true]

theorem memRead_cons_ne (a k : Nat) (b : BitVec 8) (r : List Host.Cell) (h : a ≠ k) : memRead ((a, b) :: r) k = memRead r k := by
  simp only [memRead, h, if_false]

/-- A read after a write: the byte written at its address, what was there elsewhere. -/
theorem memRead_memWrite (m : List Host.Cell) (k j : Nat) (v : BitVec 8) (lo : Nat) (h : memWfFrom lo m = true) :
    memRead (memWrite m k v) j = if j = k then v else memRead m j := by
  induction m generalizing lo with
  | nil =>
    simp only [memWrite]
    by_cases hj : j = k
    · subst hj
      rw [if_pos rfl]
      split
      · exact Eq.symm ‹_›
      · exact memRead_cons_same j v []
    · rw [if_neg hj]
      split
      · rfl
      · exact memRead_cons_ne k j v [] (Ne.symm hj)
  | cons p r ih =>
    obtain ⟨a, b⟩ := p
    simp only [memWfFrom, Bool.and_eq_true, decide_eq_true_eq] at h
    simp only [memWrite]
    by_cases hj : j = k
    · subst hj
      rw [if_pos rfl]
      split <;> rename_i c1
      · split <;> rename_i c2
        · rw [memRead_cons_ne a j b r (by omega), memRead_below r (a + 1) j h.2 (by omega), c2]
        · exact memRead_cons_same j v _
      · split <;> rename_i c2
        · split <;> rename_i c3
          · rw [memRead_below r (a + 1) j h.2 (by omega), c3]
          · exact memRead_cons_same j v _
        · rw [memRead_cons_ne a j b _ c2, ih (a + 1) h.2, if_pos rfl]
    · rw [if_neg hj]
      split <;> rename_i c1
      · split
        · rfl
        · exact memRead_cons_ne k j v _ (Ne.symm hj)
      · split <;> rename_i c2
        · have ha : a ≠ j := fun e => hj (e.symm.trans c2)
          split
          · exact (memRead_cons_ne a j b r ha).symm
          · rw [memRead_cons_ne k j v r (Ne.symm hj), memRead_cons_ne a j b r ha]
        · by_cases ha : a = j
          · subst ha; rw [memRead_cons_same, memRead_cons_same]
          · rw [memRead_cons_ne a j b _ ha, memRead_cons_ne a j b r ha, ih (a + 1) h.2, if_neg hj]

theorem memWfFrom_mono (m : List Host.Cell) (lo hi : Nat) (h : memWfFrom hi m = true) (hl : lo ≤ hi) : memWfFrom lo m = true := by
  cases m with
  | nil => rfl
  | cons p r =>
    obtain ⟨a, b⟩ := p
    simp only [memWfFrom, Bool.and_eq_true, decide_eq_true_eq] at *
    exact ⟨⟨by omega, h.1.2⟩, h.2⟩

theorem memWrite_wfFrom (m : List Host.Cell) (k : Nat) (v : BitVec 8) (lo : Nat) (h : memWfFrom lo m = true) (hk : lo ≤ k) :
    memWfFrom lo (memWrite m k v) = true := by
  induction m generalizing lo with
  | nil =>
    simp only [memWrite]
    split
    · rfl
    · simp only [memWfFrom, Bool.and_eq_true, decide_eq_true_eq]
      exact ⟨⟨hk, ‹_›⟩, trivial⟩
  | cons p r ih =>
    obtain ⟨a, b⟩ := p
    have h' := h
    simp only [memWfFrom, Bool.and_eq_true, decide_eq_true_eq] at h
    simp only [memWrite]
    split <;> rename_i c1
    · split
      · exact h'
      · simp only [memWfFrom, Bool.and_eq_true, decide_eq_true_eq]
        exact ⟨⟨hk, ‹_›⟩, ⟨by omega, h.1.2⟩, h.2⟩
    · split <;> rename_i c2
      · split
        · exact memWfFrom_mono r lo (a + 1) h.2 (by omega)
        · simp only [memWfFrom, Bool.and_eq_true, decide_eq_true_eq]
          subst c2
          exact ⟨⟨hk, ‹_›⟩, h.2⟩
      · simp only [memWfFrom, Bool.and_eq_true, decide_eq_true_eq]
        exact ⟨h.1, ih (a + 1) h.2 (by omega)⟩

/-- A write of one byte keeps the canonical form. -/
theorem memWrite_wf (m : List Host.Cell) (k : Nat) (v : BitVec 8) (h : Memory.wf m = true) : Memory.wf (memWrite m k v) = true :=
  memWrite_wfFrom m k v 0 h (Nat.zero_le k)

/-- A write of bytes keeps the canonical form. -/
theorem memWriteList_wf (l : List Nat) (m : List Host.Cell) (a : Nat) (h : Memory.wf m = true) :
    Memory.wf (memWriteList m a l) = true := by
  induction l generalizing m a with
  | nil => exact h
  | cons b r ih => exact ih _ _ (memWrite_wf m a _ h)

theorem filter_wfFrom (p : Host.Cell → Bool) (m : List Host.Cell) (lo : Nat) (h : memWfFrom lo m = true) :
    memWfFrom lo (m.filter p) = true := by
  induction m generalizing lo with
  | nil => rfl
  | cons q r ih =>
    obtain ⟨a, b⟩ := q
    simp only [memWfFrom, Bool.and_eq_true, decide_eq_true_eq] at h
    simp only [List.filter]
    split
    · simp only [memWfFrom, Bool.and_eq_true, decide_eq_true_eq]; exact ⟨h.1, ih _ h.2⟩
    · exact ih lo (memWfFrom_mono r lo (a + 1) h.2 (by omega))

/-- Clearing a range keeps the canonical form. -/
theorem memClear_wf (m : List Host.Cell) (a n : Nat) (h : Memory.wf m = true) : Memory.wf (memClear m a n) = true :=
  filter_wfFrom _ m 0 h

end Sys2Proof.Machine
end

