-- ==== Sys2Proof/Laws/KeepsOps.lean ====
section
/-!
SUPPORT. What the operations of Machine/Ops.lean leave as it was, one lemma for each.
-/

set_option Elab.async false

namespace Sys2Proof.Machine

theorem State.setLin_sameNow (s : State) (t : Nat) : (s.setLin t).now = s.now := rfl

def State.setLin_mask : Nat := partBits [.tb]

theorem State.setLin_keeps (s : State) (t : Nat) : Keeps State.setLin_mask s (s.setLin t) := by
  refine ⟨rfl, fun _ => ⟨Nat.mod_lt _ (by decide), Nat.mod_lt _ (by decide)⟩, id, id, Nat.le_refl _, fun _ _ _ => rfl, ?_⟩
  intro p hp
  cases p <;> first | rfl | exact absurd hp (by decide +kernel)

def State.moveTime_mask : Nat := State.setLin_mask

theorem State.moveTime_keeps (s : State) (d : Int) : Keeps State.moveTime_mask s (State.moveTime s d) := by
  unfold State.moveTime
  exact Keeps.step (State.setLin_keeps ..) (Keeps.refl _ _)

def State.advance_mask : Nat := State.setLin_mask ||| partBits [.now]

theorem State.advance_keeps (s : State) (n : Nat) : Keeps State.advance_mask s (s.advance n) := by
  unfold State.advance
  exact Keeps.set_now (Keeps.step (State.setLin_keeps ..) (Keeps.refl _ _) (by decide +kernel))
    (Nat.le_trans (Nat.le_of_eq (State.setLin_sameNow ..)) (Nat.le_add_right _ _)) (by decide +kernel)

def State.advanceTo_mask : Nat := State.advance_mask

theorem State.advanceTo_keeps (s : State) (t : Nat) : Keeps State.advanceTo_mask s (State.advanceTo s t) := by
  unfold State.advanceTo
  exact Keeps.step (State.advance_keeps ..) (Keeps.refl _ _)

def State.advanceMod_mask : Nat := State.advance_mask

theorem State.advanceMod_keeps (s : State) (m : Nat) : Keeps State.advanceMod_mask s (State.advanceMod s m) := by
  unfold State.advanceMod
  exact Keeps.step (State.advance_keeps ..) (Keeps.refl _ _)

def State.advancePhase_mask : Nat := State.advance_mask

theorem State.advancePhase_keeps (s : State) (p : Nat) : Keeps State.advancePhase_mask s (State.advancePhase s p) := by
  unfold State.advancePhase
  exact Keeps.step (State.advance_keeps ..) (Keeps.refl _ _)

def State.coarse_mask : Nat := State.advance_mask ||| partBits [.tb]

theorem State.coarse_keeps (s : State) (n : Nat) : Keeps State.coarse_mask s (State.coarse s n) := by
  unfold State.coarse
  extract_lets +onlyGivenNames y0
  have h1 : Keeps State.coarse_mask s y0 := Keeps.step (State.advance_keeps ..) (Keeps.refl _ _)
  clear_value y0
  extract_lets +onlyGivenNames y2
  unfold y2
  exact Keeps.set_tb h1

def State.emit_mask : Nat := partBits [.out]

theorem State.emit_keeps (s : State) (o : Out) : Keeps State.emit_mask s (State.emit s o) := by
  unfold State.emit
  exact Keeps.set_out (Keeps.refl _ _)

def State.draw_mask : Nat := partBits [.free]

theorem State.draw_keeps (s : State) (w : Nat) : KeepsSnd State.draw_mask s (State.draw s w) := by
  unfold State.draw
  exact KeepsSnd.mk (Keeps.set_free (Keeps.refl _ _))

def State.kept_mask : Nat := State.draw_mask

theorem State.kept_keeps (s : State) (num : Int) (den : Nat) : KeepsSnd State.kept_mask s (State.kept s num den) := by
  unfold State.kept
  refine KeepsSnd.ite ?_ ?_
  · exact KeepsSnd.mk (Keeps.refl _ _)
  split
  rename_i z0 z1 z2 z3
  exact KeepsSnd.mk (Keeps.ofSnd z3 (KeepsSnd.step (State.draw_keeps ..) (Keeps.refl _ _)))

/-- Every event register that evtBit names. -/
def evtRegs : List Fld := [Reg.PWR_EVT_EVENTS, Reg.STN_HD_EVT_EVENTS, Reg.STN_SP_EVT_EVENTS, Reg.LIB_EVT_EVENTS, Reg.CMDQ_EVT_EVENTS,
  Reg.BPM_EVT_EVENTS, Reg.DMA_EVT_EVENTS, Reg.MEMC_EVT_EVENTS, Reg.FLC_EVT_EVENTS, Reg.CAL_EVT_EVENTS, Reg.CASC_EVT_EVENTS]

theorem evtBit_regs (code : Nat) (data : List Nat) (f : Fld) (i b : Nat) (h : evtBit code data = some (f, i, b)) :
    f ∈ evtRegs := by
  unfold evtBit at h
  revert h
  dsimp only
  repeat' split
  all_goals intro h
  all_goals first | (cases h; simp [evtRegs]) | cases h

def State.markEvt_mask : Nat := fieldBits evtRegs

theorem State.markEvt_keeps (s : State) (code : Nat) (data : List Nat) : Keeps State.markEvt_mask s (s.markEvt code data) := by
  unfold State.markEvt
  split
  · rename_i f i b h
    refine Keeps.orBits (Keeps.refl _ _) ?_
    have hm : ∀ f ∈ evtRegs, State.markEvt_mask.testBit (f.id % 8192) = true := by
      simp only [evtRegs, List.forall_mem_cons, List.not_mem_nil, false_implies, implies_true, and_true]
      decide +kernel
    exact hm f (evtBit_regs code data f i b h)
  · exact Keeps.refl _ _

def State.raise_mask : Nat := State.markEvt_mask ||| fieldBits [Reg.EVT_LOST_COUNT, Reg.EVT_STATUS_OVERFLOW] ||| partBits [.ev]

theorem State.raise_keeps (s : State) (code : Nat) (data : List Nat) : Keeps State.raise_mask s (State.raise s code data) := by
  unfold State.raise
  extract_lets +onlyGivenNames y0
  have h1 : Keeps State.raise_mask s y0 := Keeps.step (State.markEvt_keeps ..) (Keeps.refl _ _)
  clear_value y0
  extract_lets +onlyGivenNames y2
  clear_value y2
  extract_lets +onlyGivenNames y3
  clear_value y3
  extract_lets +onlyGivenNames y4
  clear_value y4
  extract_lets +onlyGivenNames y5
  clear_value y5
  refine Keeps.ite ?_ ?_
  · exact Keeps.set_ev h1
  extract_lets +onlyGivenNames y6
  have h7 : Keeps State.raise_mask s y6 := Keeps.set_ev h1
  clear_value y6
  exact Keeps.bump (Keeps.set1 h7)

def State.closeWindow_mask : Nat := State.raise_mask ||| partBits [.ev]

theorem State.closeWindow_keeps (s : State) (w : Window) : Keeps State.closeWindow_mask s (State.closeWindow s w) := by
  unfold State.closeWindow
  extract_lets +onlyGivenNames y0
  clear_value y0
  extract_lets +onlyGivenNames y1
  have h2 : Keeps State.closeWindow_mask s y1 := Keeps.set_ev (Keeps.refl _ _)
  clear_value y1
  exact Keeps.step (State.raise_keeps ..) h2

def State.openWindow_mask : Nat := partBits [.ev]

theorem State.openWindow_keeps (s : State) (code inst : Nat) (data : List Nat) (counted : Bool) : Keeps State.openWindow_mask s
    (State.openWindow s code inst data counted) := by
  unfold State.openWindow
  exact Keeps.set_ev (Keeps.refl _ _)

def State.raiseWin_mask : Nat := State.openWindow_mask ||| State.closeWindow_mask ||| partBits [.ev]

theorem State.raiseWin_keeps (s : State) (code inst : Nat) (data : List Nat) (counted : Bool) : Keeps State.raiseWin_mask s
    (State.raiseWin s code inst data counted) := by
  unfold State.raiseWin
  split
  · rename_i z0 z1 z2
    refine Keeps.ite ?_ ?_
    · exact Keeps.step (State.openWindow_keeps ..) (Keeps.step (State.closeWindow_keeps ..) (Keeps.refl _ _))
    exact Keeps.set_ev (Keeps.refl _ _)
  rename_i z3 z4
  exact Keeps.step (State.openWindow_keeps ..) (Keeps.refl _ _)

def State.noteUe_mask : Nat := State.draw_mask ||| State.raise_mask ||| fieldBits [Reg.MEMC_UE_CNT_COUNT,
    Reg.MEMC_ERR_INFO_CHANNEL, Reg.MEMC_ERR_INFO_SOURCE, Reg.MEMC_ERR_ADDR_ADDR, Reg.MEMC_ERR_INFO_CODEWORD,
    Reg.MEMC_ERR_INFO_RANK, Reg.MEMC_ERR_INFO_SUBCH, Reg.MEMC_ERR_INFO_VALID, Reg.MEMC_ERR_INFO_BEAT, Reg.MEMC_ERR_INFO_DEVICE]
    ||| partBits [.ms]

theorem State.noteUe_keeps (s : State) (line cw source : Nat) : Keeps State.noteUe_mask s (State.noteUe s line cw source) := by
  unfold State.noteUe
  extract_lets +onlyGivenNames y0
  clear_value y0
  extract_lets +onlyGivenNames y1
  have h2 : Keeps State.noteUe_mask s y1 := Keeps.bump (Keeps.refl _ _)
  clear_value y1
  extract_lets +onlyGivenNames y3
  have h4 : Keeps State.noteUe_mask s y3 := by
    unfold y3
    refine Keeps.ite ?_ ?_
    · exact h2
    split
    rename_i z5 z6 z7 z8
    extract_lets +onlyGivenNames y9
    have h10 : Keeps State.noteUe_mask s y9 := Keeps.wr (Keeps.wr (Keeps.wr (Keeps.ofSnd z8 (KeepsSnd.step (State.draw_keeps
        ..) h2))))
    clear_value y9
    extract_lets +onlyGivenNames y11
    have h12 : Keeps State.noteUe_mask s y11 := Keeps.wr (Keeps.wr (Keeps.wr h10))
    clear_value y11
    exact Keeps.set1 (Keeps.clr (Keeps.clr h12))
  clear_value y3
  extract_lets +onlyGivenNames y13
  extract_lets +onlyGivenNames y14
  clear_value y14
  extract_lets +onlyGivenNames y15
  clear_value y15
  extract_lets +onlyGivenNames y16
  have h17 : Keeps State.noteUe_mask s y16 := Keeps.set_ms h4
  clear_value y16
  refine Keeps.ite ?_ ?_
  · exact Keeps.step (State.raise_keeps ..) h17
  exact h17

def State.touchDram_mask : Nat := fieldBits [Reg.MEMC_STATUS_SELF_REFRESH] ||| partBits [.ms]

theorem State.touchDram_keeps (s : State) : Keeps State.touchDram_mask s (State.touchDram s) := by
  unfold State.touchDram
  extract_lets +onlyGivenNames y0
  clear_value y0
  extract_lets +onlyGivenNames y1
  have h2 : Keeps State.touchDram_mask s y1 := Keeps.set_ms (Keeps.refl _ _)
  clear_value y1
  refine Keeps.ite ?_ ?_
  · exact Keeps.clr h2
  exact h2

def State.touchLines_mask : Nat := State.noteUe_mask ||| fieldBits [Reg.MEMC_INJ_CTRL_ARM] ||| partBits [.ms]

theorem State.touchLines_keeps (s : State) (a n : Nat) : Keeps State.touchLines_mask s (State.touchLines s a n) := by
  unfold State.touchLines
  extract_lets +onlyGivenNames y0
  clear_value y0
  extract_lets +onlyGivenNames y1
  clear_value y1
  extract_lets +onlyGivenNames y2
  clear_value y2
  extract_lets +onlyGivenNames y3
  clear_value y3
  extract_lets +onlyGivenNames y4
  have h5 : Keeps State.touchLines_mask s y4 := Keeps.set_ms (Keeps.refl _ _)
  clear_value y4
  extract_lets +onlyGivenNames y6
  have h7 : Keeps State.touchLines_mask s y6 := by
    unfold y6
    refine Keeps.foldl (fun t8 a9 => ?_) ?_
    · exact Keeps.step (State.noteUe_keeps ..) (Keeps.refl _ _)
    exact h5
  clear_value y6
  extract_lets +onlyGivenNames y10
  clear_value y10
  refine Keeps.ite ?_ ?_
  · extract_lets +onlyGivenNames y11
    clear_value y11
    extract_lets +onlyGivenNames y12
    have h13 : Keeps State.touchLines_mask s y12 := Keeps.clr h7
    clear_value y12
    refine Keeps.ite ?_ ?_
    · exact Keeps.set_ms h13
    refine Keeps.ite ?_ ?_
    · exact h13
    exact Keeps.set_ms h13
  exact h7

def State.store_mask : Nat := State.touchLines_mask ||| partBits [.mem]

theorem State.store_keeps (s : State) (a : Nat) (bs : List Nat) : Keeps State.store_mask s (State.store s a bs) := by
  unfold State.store
  extract_lets +onlyGivenNames y0
  have h1 : Keeps State.store_mask s y0 := Keeps.set_mem (Keeps.refl _ _) (memWriteList_wf _ _ _)
  clear_value y0
  refine Keeps.ite ?_ ?_
  · exact h1
  exact Keeps.step (State.touchLines_keeps ..) h1

def State.ownRead_mask : Nat := State.emit_mask

theorem State.ownRead_keeps (s : State) (a n : Nat) : Keeps State.ownRead_mask s (State.ownRead s a n) := by
  unfold State.ownRead
  refine Keeps.foldl (fun t0 a1 => ?_) ?_
  · exact Keeps.step (State.emit_keeps ..) (Keeps.refl _ _)
  exact Keeps.refl _ _

def State.ownWrite_mask : Nat := State.store_mask ||| State.emit_mask

theorem State.ownWrite_keeps (s : State) (a : Nat) (bs : List Nat) : Keeps State.ownWrite_mask s (State.ownWrite s a bs) := by
  unfold State.ownWrite
  extract_lets +onlyGivenNames y0
  have h1 : Keeps State.ownWrite_mask s y0 := Keeps.step (State.store_keeps ..) (Keeps.refl _ _)
  clear_value y0
  refine Keeps.foldl (fun t2 a3 => ?_) ?_
  · exact Keeps.step (State.emit_keeps ..) (Keeps.refl _ _)
  exact h1

def State.zeroMem_mask : Nat := State.touchLines_mask ||| partBits [.mem]

theorem State.zeroMem_keeps (s : State) (a n : Nat) : Keeps State.zeroMem_mask s (State.zeroMem s a n) := by
  unfold State.zeroMem
  extract_lets +onlyGivenNames y0
  have h1 : Keeps State.zeroMem_mask s y0 := Keeps.set_mem (Keeps.refl _ _) (memClear_wf _ _ _)
  clear_value y0
  refine Keeps.ite ?_ ?_
  · exact h1
  exact Keeps.step (State.touchLines_keeps ..) h1

def State.noteCe_mask : Nat := State.raiseWin_mask ||| State.raise_mask ||| fieldBits [Reg.MEMC_CE_INFO_CHANNEL,
    Reg.MEMC_CE_INFO_SOURCE, Reg.MEMC_CE_ADDR_ADDR, Reg.MEMC_CE_CNT_COUNT, Reg.MEMC_CE_INFO_CODEWORD, Reg.MEMC_CE_INFO_RANK,
    Reg.MEMC_CE_INFO_SUBCH, Reg.MEMC_CE_INFO_VALID, Reg.MEMC_CE_INFO_BEAT, Reg.MEMC_CE_INFO_DEVICE] ||| partBits [.ms]

theorem State.noteCe_keeps (s : State) (line rank cw device beat source : Nat) : Keeps State.noteCe_mask s (State.noteCe s line
    rank cw device beat source) := by
  unfold State.noteCe
  extract_lets +onlyGivenNames y0
  clear_value y0
  extract_lets +onlyGivenNames y1
  clear_value y1
  extract_lets +onlyGivenNames y2
  clear_value y2
  extract_lets +onlyGivenNames y3
  have h4 : Keeps State.noteCe_mask s y3 := Keeps.wr (Keeps.wr (Keeps.wr (Keeps.bump (Keeps.refl _ _))))
  clear_value y3
  extract_lets +onlyGivenNames y5
  have h6 : Keeps State.noteCe_mask s y5 := Keeps.wr (Keeps.wr (Keeps.wr h4))
  clear_value y5
  extract_lets +onlyGivenNames y7
  have h8 : Keeps State.noteCe_mask s y7 := Keeps.step (State.raiseWin_keeps ..) (Keeps.set1 (Keeps.wr (Keeps.wr h6)))
  clear_value y7
  extract_lets +onlyGivenNames y9
  clear_value y9
  extract_lets +onlyGivenNames y10
  clear_value y10
  extract_lets +onlyGivenNames y11
  clear_value y11
  extract_lets +onlyGivenNames y12
  clear_value y12
  extract_lets +onlyGivenNames y13
  clear_value y13
  extract_lets +onlyGivenNames y14
  clear_value y14
  extract_lets +onlyGivenNames y15
  have h16 : Keeps State.noteCe_mask s y15 := Keeps.set_ms h8
  clear_value y15
  refine Keeps.ite ?_ ?_
  · exact Keeps.step (State.raise_keeps ..) h16
  exact h16

def State.correctStored_mask : Nat := State.draw_mask ||| State.noteCe_mask ||| partBits [.ms]

theorem State.correctStored_keeps (s : State) (line cw source : Nat) : Keeps State.correctStored_mask s (State.correctStored s
    line cw source) := by
  unfold State.correctStored
  split
  rename_i z0 z1 z2 z3
  split
  rename_i z4 z5 z6 z7
  split
  rename_i z8 z9 z10 z11
  extract_lets +onlyGivenNames y12
  clear_value y12
  extract_lets +onlyGivenNames y13
  have h14 : Keeps State.correctStored_mask s y13 := Keeps.set_ms (Keeps.ofSnd z11 (KeepsSnd.step (State.draw_keeps ..)
      (Keeps.ofSnd z7 (KeepsSnd.step (State.draw_keeps ..) (Keeps.ofSnd z3 (KeepsSnd.step (State.draw_keeps ..) (Keeps.refl _
      _)))))))
  clear_value y13
  exact Keeps.step (State.noteCe_keeps ..) h14

def State.correctRange_mask : Nat := State.correctStored_mask

theorem State.correctRange_keeps (s : State) (a n source : Nat) : Keeps State.correctRange_mask s (State.correctRange s a n
    source) := by
  unfold State.correctRange
  refine Keeps.foldl (fun t0 a1 => ?_) ?_
  · exact Keeps.step (State.correctStored_keeps ..) (Keeps.refl _ _)
  exact Keeps.refl _ _

def State.putStn_mask : Nat := partBits [.stns]

theorem State.putStn_keeps (s : State) (n : Nat) (x : Stn) : Keeps State.putStn_mask s (State.putStn s n x) := by
  unfold State.putStn
  exact Keeps.set_stns (Keeps.refl _ _)

def State.putSlice_mask : Nat := partBits [.slices]

theorem State.putSlice_keeps (s : State) (n : Nat) (x : Slice) : Keeps State.putSlice_mask s (State.putSlice s n x) := by
  unfold State.putSlice
  exact Keeps.set_slices (Keeps.refl _ _)

def State.putZone_mask : Nat := partBits [.zones]

theorem State.putZone_keeps (s : State) (k : Nat) (x : Zone) : Keeps State.putZone_mask s (State.putZone s k x) := by
  unfold State.putZone
  exact Keeps.set_zones (Keeps.refl _ _)

def State.putDisc_mask : Nat := partBits [.discs]

theorem State.putDisc_keeps (s : State) (k : Nat) (x : Disc) : Keeps State.putDisc_mask s (State.putDisc s k x) := by
  unfold State.putDisc
  exact Keeps.set_discs (Keeps.refl _ _)

def State.putHead_mask : Nat := partBits [.heads]

theorem State.putHead_keeps (s : State) (h : Nat) (x : Head) : Keeps State.putHead_mask s (State.putHead s h x) := by
  unfold State.putHead
  exact Keeps.set_heads (Keeps.refl _ _)

def State.putSpin_mask : Nat := partBits [.spins]

theorem State.putSpin_keeps (s : State) (n : Nat) (x : Spin) : Keeps State.putSpin_mask s (State.putSpin s n x) := by
  unfold State.putSpin
  exact Keeps.set_spins (Keeps.refl _ _)

def State.putAxis_mask : Nat := partBits [.axes]

theorem State.putAxis_keeps (s : State) (a : Nat) (x : Axis) : Keeps State.putAxis_mask s (State.putAxis s a x) := by
  unfold State.putAxis
  exact Keeps.set_axes (Keeps.refl _ _)

def State.putLslot_mask : Nat := partBits [.loop]

theorem State.putLslot_keeps (s : State) (n : Nat) (x : LSlot) : Keeps State.putLslot_mask s (State.putLslot s n x) := by
  unfold State.putLslot
  exact Keeps.set_loop (Keeps.refl _ _)

def State.ringSend_mask : Nat := State.emit_mask ||| partBits [.stack]

theorem State.ringSend_keeps (s : State) (dst mtype : Nat) (items : List Nat) : Keeps State.ringSend_mask s (State.ringSend s
    dst mtype items) := by
  unfold State.ringSend
  extract_lets +onlyGivenNames y0
  clear_value y0
  extract_lets +onlyGivenNames y1
  extract_lets +onlyGivenNames y2
  clear_value y2
  extract_lets +onlyGivenNames y3
  clear_value y3
  extract_lets +onlyGivenNames y4
  have h5 : Keeps State.ringSend_mask s y4 := Keeps.set_stack (Keeps.refl _ _)
  clear_value y4
  refine Keeps.ite ?_ ?_
  · exact Keeps.step (State.emit_keeps ..) h5
  exact h5

def State.updCmd_mask : Nat := partBits [.cmds]

theorem State.updCmd_keeps (s : State) (sq tag : Nat) (f : Cmd → Cmd) : Keeps State.updCmd_mask s (State.updCmd s sq tag f) :=
    by
  unfold State.updCmd
  exact Keeps.set_cmds (Keeps.refl _ _)

def State.finish_mask : Nat := State.ringSend_mask ||| State.updCmd_mask ||| partBits [.cmds, .cqs]

theorem State.finish_keeps (s : State) (sq tag status a b field : Nat) : Keeps State.finish_mask s (State.finish s sq tag
    status a b field) := by
  unfold State.finish
  split
  · rename_i z0 z1
    exact Keeps.refl _ _
  rename_i z2 z3 z4
  refine Keeps.ite ?_ ?_
  · exact Keeps.refl _ _
  refine Keeps.ite ?_ ?_
  · exact Keeps.set_cmds (Keeps.refl _ _)
  refine Keeps.ite ?_ ?_
  · exact Keeps.step (State.ringSend_keeps ..) (Keeps.set_cmds (Keeps.refl _ _))
  extract_lets +onlyGivenNames y5
  have h6 : Keeps State.finish_mask s y5 := Keeps.step (State.updCmd_keeps ..) (Keeps.refl _ _)
  clear_value y5
  split
  · rename_i z7 z8
    exact h6
  rename_i z9 z10 z11
  exact Keeps.set_cqs h6

def State.fail_mask : Nat := State.finish_mask

theorem State.fail_keeps (s : State) (sq tag status : Nat) : Keeps State.fail_mask s (State.fail s sq tag status) := by
  unfold State.fail
  exact Keeps.step (State.finish_keeps ..) (Keeps.refl _ _)

def State.failAll_mask : Nat := State.fail_mask

theorem State.failAll_keeps (s : State) (p : Cmd → Bool) (status : Nat) : Keeps State.failAll_mask s (State.failAll s p status)
    := by
  unfold State.failAll
  refine Keeps.foldl (fun t0 a1 => ?_) ?_
  · exact Keeps.step (State.fail_keeps ..) (Keeps.refl _ _)
  exact Keeps.refl _ _

def State.tap_mask : Nat := partBits [.tally]

theorem State.tap_keeps (s : State) (acct counter n : Nat) : Keeps State.tap_mask s (State.tap s acct counter n) := by
  unfold State.tap
  exact Keeps.set_tally (Keeps.refl _ _)

def State.setLocked_mask : Nat := fieldBits [Reg.GCTL_STATUS_TIME_LOCKED]

theorem State.setLocked_keeps (s : State) (b : Bool) : Keeps State.setLocked_mask s (State.setLocked s b) := by
  unfold State.setLocked
  exact Keeps.wrB (Keeps.refl _ _)

end Sys2Proof.Machine
end

