-- ==== Sys2Proof/Laws/KeepsFlashOps.lean ====
section
/-!
SUPPORT. What the operations of Machine/FlashOps.lean leave as it was, one lemma for each.
-/

set_option Elab.async false

namespace Sys2Proof.Machine

def State.programNow_mask : Nat := partBits [.flash]

theorem State.programNow_keeps (s : State) (i v : Nat) : Keeps State.programNow_mask s (State.programNow s i v) := by
  unfold State.programNow
  refine Keeps.ite ?_ ?_
  · exact Keeps.set_flash (Keeps.refl _ _)
  exact Keeps.refl _ _

def State.clearSector_mask : Nat := partBits [.flash]

theorem State.clearSector_keeps (s : State) (sec : Nat) : Keeps State.clearSector_mask s (State.clearSector s sec) := by
  unfold State.clearSector
  exact Keeps.set_flash (Keeps.refl _ _)

end Sys2Proof.Machine
end

