-- ==== Sys2Proof/Laws/KeepsCalib.lean ====
section
/-!
SUPPORT. What the operations of Machine/Calib.lean leave as it was, one lemma for each.
-/

set_option Elab.async false

namespace Sys2Proof.Machine

def State.loadPort_mask : Nat := fieldBits portFields

theorem State.loadPort_keeps (s : State) (p : Nat) : Keeps State.loadPort_mask s (State.loadPort s p) := by
  unfold State.loadPort
  split
  · rename_i z0 z1
    refine Keeps.foldl (fun t2 a3 => ?_) ?_
    · refine Keeps.foldlMem (fun t4 a5 m6 => ?_) ?_
      · exact Keeps.wr (Keeps.refl _ _) (by revert a5; decide +kernel)
      exact Keeps.refl _ _
    exact Keeps.refl _ _
  rename_i z7 z8 z9
  refine Keeps.foldl (fun t10 a11 => ?_) ?_
  · refine Keeps.foldlMem (fun t12 a13 m14 => ?_) ?_
    · exact Keeps.wr (Keeps.refl _ _) (by revert a13; decide +kernel)
    exact Keeps.refl _ _
  exact Keeps.refl _ _

def State.loadOfs_mask : Nat := fieldBits ofsFields

theorem State.loadOfs_keeps (s : State) (sl h : Nat) : Keeps State.loadOfs_mask s (State.loadOfs s sl h) := by
  unfold State.loadOfs
  split
  · rename_i z0 z1
    refine Keeps.foldlMem (fun t2 a3 m4 => ?_) ?_
    · exact Keeps.wr (Keeps.refl _ _) (by revert a3; decide +kernel)
    exact Keeps.refl _ _
  rename_i z5 z6 z7
  refine Keeps.foldlMem (fun t8 a9 m10 => ?_) ?_
  · exact Keeps.wr (Keeps.refl _ _) (by revert a9; decide +kernel)
  exact Keeps.refl _ _

def State.eqPut_mask : Nat := fieldBits [Reg.SLC_EQ_SET_COEF]

theorem State.eqPut_keeps (s : State) (sl set : Nat) (v : List Nat) : Keeps State.eqPut_mask s (State.eqPut s sl set v) := by
  unfold State.eqPut
  refine Keeps.foldl (fun t0 a1 => ?_) ?_
  · exact Keeps.wr (Keeps.refl _ _)
  exact Keeps.refl _ _

def State.loadEq_mask : Nat := State.eqPut_mask

theorem State.loadEq_keeps (s : State) (sl h layer : Nat) : Keeps State.loadEq_mask s (State.loadEq s sl h layer) := by
  unfold State.loadEq
  extract_lets +onlyGivenNames y0
  clear_value y0
  extract_lets +onlyGivenNames y1
  clear_value y1
  exact Keeps.step (State.eqPut_keeps ..) (Keeps.step (State.eqPut_keeps ..) (Keeps.refl _ _))

def State.loadHead_mask : Nat := fieldBits [Reg.LPE_PRM_VALUE, Reg.STN_HD_LAYER_SA_SA, Reg.STN_HD_LAYER_REL_REL_NOM]

theorem State.loadHead_keeps (s : State) (h : Nat) : Keeps State.loadHead_mask s (State.loadHead s h) := by
  unfold State.loadHead
  extract_lets +onlyGivenNames y0
  clear_value y0
  extract_lets +onlyGivenNames y1
  have h2 : Keeps State.loadHead_mask s y1 := Keeps.wr (Keeps.refl _ _)
  clear_value y1
  extract_lets +onlyGivenNames y3
  have h4 : ∀ t5 t6, Keeps State.loadHead_mask t5 (y3 t5 t6) := by
    intro t5 t6
    unfold y3
    extract_lets +onlyGivenNames y7
    clear_value y7
    split
    · rename_i z8 z9 z10
      exact Keeps.wr (Keeps.wr (Keeps.refl _ _))
    rename_i z11 z12
    exact Keeps.wr (Keeps.wr (Keeps.refl _ _))
  clear_value y3
  refine Keeps.foldl (fun t13 a14 => ?_) ?_
  · exact Keeps.trans (Keeps.refl _ _) (h4 _ _)
  exact h2

end Sys2Proof.Machine
end

