-- ==== Sys2Proof/Laws/KeepsTallyOps.lean ====
section
/-!
SUPPORT. What the operations of Machine/TallyOps.lean leave as it was, one lemma for each.
-/

set_option Elab.async false

namespace Sys2Proof.Machine

def State.markInterval_mask : Nat := partBits [.tally]

theorem State.markInterval_keeps (s : State) (f : Nat) : Keeps State.markInterval_mask s (State.markInterval s f) := by
  unfold State.markInterval
  exact Keeps.set_tally (Keeps.refl _ _)

def State.openInterval_mask : Nat := fieldBits [Reg.TALLY_OPEN_START_SEC] ||| partBits [.tally]

theorem State.openInterval_keeps (s : State) (sec : Nat) : Keeps State.openInterval_mask s (State.openInterval s sec) := by
  unfold State.openInterval
  extract_lets +onlyGivenNames y0
  have h1 : Keeps State.openInterval_mask s y0 := Keeps.wr (Keeps.refl _ _)
  clear_value y0
  exact Keeps.set_tally h1

def State.countOpen_mask : Nat := State.raise_mask ||| partBits [.tally]

theorem State.countOpen_keeps (s : State) (acct i n : Nat) (test : Bool) : Keeps State.countOpen_mask s (State.countOpen s acct
    i n test) := by
  unfold State.countOpen
  extract_lets +onlyGivenNames y0
  clear_value y0
  split
  rename_i z1 z2 z3 z4
  extract_lets +onlyGivenNames y5
  clear_value y5
  extract_lets +onlyGivenNames y6
  have h7 : Keeps State.countOpen_mask s y6 := Keeps.set_tally (Keeps.refl _ _)
  clear_value y6
  refine Keeps.ite ?_ ?_
  · exact Keeps.step (State.raise_keeps ..) h7
  exact h7

def State.takeTaps_mask : Nat := State.countOpen_mask ||| partBits [.tally]

theorem State.takeTaps_keeps (s : State) (before : Nat) : Keeps State.takeTaps_mask s (State.takeTaps s before) := by
  unfold State.takeTaps
  extract_lets +onlyGivenNames y0
  clear_value y0
  extract_lets +onlyGivenNames y1
  clear_value y1
  extract_lets +onlyGivenNames y2
  have h3 : Keeps State.takeTaps_mask s y2 := Keeps.set_tally (Keeps.refl _ _)
  clear_value y2
  refine Keeps.ite ?_ ?_
  · exact h3
  refine Keeps.foldl (fun t4 a5 => ?_) ?_
  · exact Keeps.step (State.countOpen_keeps ..) (Keeps.refl _ _)
  exact h3

def State.closeAccount_mask : Nat := State.raise_mask ||| partBits [.tally]

theorem State.closeAccount_keeps (s : State) (sec : Nat) (lost : List Nat) (acct : Nat) : Keeps State.closeAccount_mask s
    (State.closeAccount s sec lost acct) := by
  unfold State.closeAccount
  extract_lets +onlyGivenNames y0
  clear_value y0
  extract_lets +onlyGivenNames y1
  clear_value y1
  extract_lets +onlyGivenNames y2
  have h3 : Keeps State.closeAccount_mask s y2 := by
    unfold y2
    refine Keeps.ite ?_ ?_
    · exact Keeps.refl _ _
    exact Keeps.step (State.raise_keeps ..) (Keeps.refl _ _)
  clear_value y2
  split
  · rename_i z4 z5 z6 z7
    exact h3
  rename_i z8 z9 z10
  extract_lets +onlyGivenNames y11
  clear_value y11
  refine Keeps.ite ?_ ?_
  · exact h3
  extract_lets +onlyGivenNames y12
  clear_value y12
  extract_lets +onlyGivenNames y13
  clear_value y13
  extract_lets +onlyGivenNames y14
  clear_value y14
  extract_lets +onlyGivenNames y15
  clear_value y15
  extract_lets +onlyGivenNames y16
  clear_value y16
  extract_lets +onlyGivenNames y17
  have h18 : Keeps State.closeAccount_mask s y17 := Keeps.set_tally h3
  clear_value y17
  refine Keeps.foldl (fun t19 a20 => ?_) ?_
  · exact Keeps.step (State.raise_keeps ..) (Keeps.refl _ _)
  exact h18

def State.closeAll_mask : Nat := State.markInterval_mask ||| State.closeAccount_mask

theorem State.closeAll_keeps (s : State) (sec : Nat) (lost : List (Nat × Nat)) : Keeps State.closeAll_mask s (State.closeAll s
    sec lost) := by
  unfold State.closeAll
  extract_lets +onlyGivenNames y0
  have h1 : Keeps State.closeAll_mask s y0 := Keeps.step (State.markInterval_keeps ..) (Keeps.refl _ _)
  clear_value y0
  extract_lets +onlyGivenNames y2
  clear_value y2
  refine Keeps.foldl (fun t3 a4 => ?_) ?_
  · exact Keeps.step (State.closeAccount_keeps ..) (Keeps.refl _ _)
  exact h1

def State.markCarry_mask : Nat := State.raise_mask ||| fieldBits [Reg.TALLY_COUNT_CARRY] ||| partBits [.tally]

theorem State.markCarry_keeps (s : State) (sec : Nat) : Keeps State.markCarry_mask s (State.markCarry s sec) := by
  unfold State.markCarry
  refine Keeps.ite ?_ ?_
  · exact Keeps.refl _ _
  extract_lets +onlyGivenNames y0
  clear_value y0
  extract_lets +onlyGivenNames y1
  clear_value y1
  refine Keeps.ite ?_ ?_
  · exact Keeps.refl _ _
  extract_lets +onlyGivenNames y2
  clear_value y2
  extract_lets +onlyGivenNames y3
  clear_value y3
  extract_lets +onlyGivenNames y4
  have h5 : Keeps State.markCarry_mask s y4 := Keeps.set_tally (Keeps.refl _ _)
  clear_value y4
  exact Keeps.step (State.raise_keeps ..) (Keeps.bump h5)

def State.crossBoundary_mask : Nat := State.closeAll_mask ||| State.takeTaps_mask ||| State.openInterval_mask |||
    State.markCarry_mask ||| partBits [.tally]

theorem State.crossBoundary_keeps (s : State) (lost : List (Nat × Nat)) : Keeps State.crossBoundary_mask s (State.crossBoundary
    s lost) := by
  unfold State.crossBoundary
  extract_lets +onlyGivenNames y0
  clear_value y0
  extract_lets +onlyGivenNames y1
  clear_value y1
  extract_lets +onlyGivenNames y2
  clear_value y2
  extract_lets +onlyGivenNames y3
  have h4 : Keeps State.crossBoundary_mask s y3 := Keeps.step (State.closeAll_keeps ..) (Keeps.step (State.takeTaps_keeps ..)
      (Keeps.refl _ _))
  clear_value y3
  extract_lets +onlyGivenNames y5
  have h6 : Keeps State.crossBoundary_mask s y5 := Keeps.step (State.openInterval_keeps ..) h4
  clear_value y5
  extract_lets +onlyGivenNames y7
  clear_value y7
  extract_lets +onlyGivenNames y8
  have h9 : Keeps State.crossBoundary_mask s y8 := Keeps.set_tally h6
  clear_value y8
  exact Keeps.step (State.markCarry_keeps ..) h9

def State.catchUp_mask : Nat := State.crossBoundary_mask

theorem State.catchUp_keeps : ∀ (n : Nat) (s : State), Keeps State.catchUp_mask s (State.catchUp n s) := by
  intro n
  induction n with
  | zero => intro s; exact Keeps.refl _ _
  | succ n ih =>
    intro s
    unfold State.catchUp
    refine Keeps.ite ?_ ?_
    · exact Keeps.step (ih ..) (Keeps.step (State.crossBoundary_keeps ..) (Keeps.refl _ _)) (Nat.or_self _)
    exact Keeps.refl _ _

def State.passBoundaries_mask : Nat := State.catchUp_mask

theorem State.passBoundaries_keeps (s : State) : Keeps State.passBoundaries_mask s (State.passBoundaries s) := by
  unfold State.passBoundaries
  exact Keeps.step (State.catchUp_keeps ..) (Keeps.refl _ _)

def State.tallyDue_mask : Nat := partBits [.tally]

theorem State.tallyDue_keeps (s : State) (type start end_ : Nat) (body : List Nat) : Keeps State.tallyDue_mask s
    (State.tallyDue s type start end_ body) := by
  unfold State.tallyDue
  exact Keeps.set_tally (Keeps.refl _ _)

def State.tallyJump_mask : Nat := State.setLin_mask ||| State.passBoundaries_mask ||| State.markInterval_mask |||
    State.takeTaps_mask ||| State.openInterval_mask ||| State.closeAll_mask ||| State.markCarry_mask ||| State.tallyDue_mask
    ||| partBits [.tally]

theorem State.tallyJump_keeps (s : State) (kind : Nat) (d : Int) : Keeps State.tallyJump_mask s (State.tallyJump s kind d) := by
  unfold State.tallyJump
  refine Keeps.ite ?_ ?_
  · exact Keeps.refl _ _
  extract_lets +onlyGivenNames y0
  clear_value y0
  extract_lets +onlyGivenNames y1
  have h2 : Keeps State.tallyJump_mask s y1 := Keeps.step (State.setLin_keeps ..) (Keeps.step (State.passBoundaries_keeps ..)
      (Keeps.step (State.setLin_keeps ..) (Keeps.refl _ _)))
  clear_value y1
  extract_lets +onlyGivenNames y3
  have h4 : Keeps State.tallyJump_mask s y3 := Keeps.step (State.markInterval_keeps ..) (Keeps.step (State.takeTaps_keeps ..)
      h2)
  clear_value y3
  extract_lets +onlyGivenNames y5
  clear_value y5
  extract_lets +onlyGivenNames y6
  clear_value y6
  extract_lets +onlyGivenNames y7
  have h8 : Keeps State.tallyJump_mask s y7 := Keeps.step (State.openInterval_keeps ..) (Keeps.step (State.closeAll_keeps ..)
      h4)
  clear_value y7
  extract_lets +onlyGivenNames y9
  clear_value y9
  extract_lets +onlyGivenNames y10
  have h11 : Keeps State.tallyJump_mask s y10 := by
    unfold y10
    refine Keeps.ite ?_ ?_
    · exact Keeps.step (State.markCarry_keeps ..) h8
    exact Keeps.set_tally h4
  clear_value y10
  exact Keeps.step (State.tallyDue_keeps ..) h11

end Sys2Proof.Machine
end

