-- ==== Sys2Proof/Laws/KeepsTime.lean ====
section
/-!
SUPPORT. What the operations of Machine/Time.lean leave as it was, one lemma for each.
-/

set_option Elab.async false

namespace Sys2Proof.Machine

def State.showFreq_mask : Nat := State.raise_mask

theorem State.showFreq_keeps (s : State) (wasAt : Bool) : Keeps State.showFreq_mask s (State.showFreq s wasAt) := by
  unfold State.showFreq
  refine Keeps.ite ?_ ?_
  · exact Keeps.step (State.raise_keeps ..) (Keeps.refl _ _)
  exact Keeps.refl _ _

def State.slew_mask : Nat := partBits [.tb]

theorem State.slew_keeps (s : State) (e : Int) : Keeps State.slew_mask s (State.slew s e) := by
  unfold State.slew
  extract_lets +onlyGivenNames y0
  unfold y0
  exact Keeps.set_tb (Keeps.refl _ _)

def State.noStack_mask : Nat := State.raise_mask

theorem State.noStack_keeps (s : State) : Keeps State.noStack_mask s (State.noStack s) := by
  unfold State.noStack
  refine Keeps.ite ?_ ?_
  · exact Keeps.step (State.raise_keeps ..) (Keeps.refl _ _)
  exact Keeps.refl _ _

def State.enterAcquire_mask : Nat := State.setLocked_mask ||| State.noStack_mask ||| fieldBits [Reg.TIME_STATUS_STATE] |||
    partBits [.tb]

theorem State.enterAcquire_keeps (s : State) : Keeps State.enterAcquire_mask s (State.enterAcquire s) := by
  unfold State.enterAcquire
  extract_lets +onlyGivenNames y0
  have h1 : Keeps State.enterAcquire_mask s y0 := Keeps.step (State.setLocked_keeps ..) (Keeps.wr (Keeps.step
      (State.noStack_keeps ..) (Keeps.refl _ _)))
  clear_value y0
  extract_lets +onlyGivenNames y2
  unfold y2
  exact Keeps.set_tb h1

def State.enterHoldover_mask : Nat := State.setLocked_mask ||| State.noStack_mask ||| State.slew_mask |||
    State.markInterval_mask ||| State.raise_mask ||| State.showFreq_mask ||| fieldBits [Reg.TIME_STATUS_STATE] ||| partBits
    [.tb]

theorem State.enterHoldover_keeps (s : State) : Keeps State.enterHoldover_mask s (State.enterHoldover s) := by
  unfold State.enterHoldover
  extract_lets +onlyGivenNames y0
  have h1 : Keeps State.enterHoldover_mask s y0 := Keeps.step (State.setLocked_keeps ..) (Keeps.wr (Keeps.step
      (State.noStack_keeps ..) (Keeps.refl _ _)))
  clear_value y0
  extract_lets +onlyGivenNames y2
  have h3 : Keeps State.enterHoldover_mask s y2 := Keeps.step (State.slew_keeps ..) h1
  clear_value y2
  extract_lets +onlyGivenNames y4
  unfold y4
  extract_lets +onlyGivenNames y5
  have h6 : Keeps State.enterHoldover_mask s y5 := Keeps.set_tb h3
  clear_value y5
  extract_lets +onlyGivenNames y7
  have h8 : Keeps State.enterHoldover_mask s y7 := Keeps.step (State.markInterval_keeps ..) h6
  clear_value y7
  exact Keeps.step (State.raise_keeps ..) (Keeps.step (State.showFreq_keeps ..) h8)

def State.coarseSnap_mask : Nat := partBits [.tb]

theorem State.coarseSnap_keeps (s : State) : Keeps State.coarseSnap_mask s s.coarseSnap := by
  unfold State.coarseSnap
  refine Keeps.ite ⟨rfl, fun h => ⟨Nat.zero_lt_succ _, h.2⟩, id, id, Nat.le_refl _, fun _ _ _ => rfl, ?_⟩
    ⟨rfl, fun _ => ⟨Nat.zero_lt_succ _, Nat.mod_lt _ (by decide)⟩, id, id, Nat.le_refl _, fun _ _ _ => rfl, ?_⟩
  · intro p hp; cases p <;> first | rfl | exact absurd hp (by decide +kernel)
  · intro p hp; cases p <;> first | rfl | exact absurd hp (by decide +kernel)

def State.judgeRef_mask : Nat := State.setLocked_mask ||| State.enterAcquire_mask ||| partBits [.tb]

theorem State.judgeRef_keeps (s : State) (e : Int) (fresh : Bool) : Keeps State.judgeRef_mask s (State.judgeRef s e fresh) := by
  unfold State.judgeRef
  extract_lets +onlyGivenNames y0
  clear_value y0
  extract_lets +onlyGivenNames y1
  clear_value y1
  extract_lets +onlyGivenNames y2
  extract_lets +onlyGivenNames y3
  have h4 : Keeps State.judgeRef_mask s y3 := by
    unfold y3
    refine Keeps.ite ?_ ?_
    · refine Keeps.ite ?_ ?_
      · exact Keeps.step (State.setLocked_keeps ..) (Keeps.refl _ _)
      exact Keeps.refl _ _
    refine Keeps.ite ?_ ?_
    · exact Keeps.step (State.enterAcquire_keeps ..) (Keeps.refl _ _)
    exact Keeps.refl _ _
  clear_value y3
  extract_lets +onlyGivenNames y5
  unfold y5
  exact Keeps.set_tb h4

def State.lockDue_mask : Nat := State.raise_mask ||| State.setLocked_mask ||| fieldBits [Reg.TIME_STATUS_STATE]

theorem State.lockDue_keeps (s : State) (e : Int) : Keeps State.lockDue_mask s (State.lockDue s e) := by
  unfold State.lockDue
  refine Keeps.ite ?_ ?_
  · refine Keeps.ite ?_ ?_
    · exact Keeps.step (State.raise_keeps ..) (Keeps.step (State.setLocked_keeps ..) (Keeps.wr (Keeps.refl _ _)))
    refine Keeps.ite ?_ ?_
    · exact Keeps.step (State.setLocked_keeps ..) (Keeps.refl _ _)
    exact Keeps.refl _ _
  exact Keeps.refl _ _

def State.discipline_mask : Nat := State.judgeRef_mask ||| State.slew_mask ||| State.lockDue_mask ||| State.showFreq_mask |||
    fieldBits [Reg.TIME_STATUS_STEP_PENDING] ||| partBits [.tb]

theorem State.discipline_keeps (s : State) (iv : Nat) (e : Int) (fresh : Bool) : Keeps State.discipline_mask s
    (State.discipline s iv e fresh) := by
  unfold State.discipline
  extract_lets +onlyGivenNames y0
  clear_value y0
  extract_lets +onlyGivenNames y1
  have h2 : Keeps State.discipline_mask s y1 := Keeps.step (State.judgeRef_keeps ..) (Keeps.refl _ _)
  clear_value y1
  extract_lets +onlyGivenNames y3
  clear_value y3
  extract_lets +onlyGivenNames y4
  clear_value y4
  extract_lets +onlyGivenNames y5
  clear_value y5
  extract_lets +onlyGivenNames y6
  clear_value y6
  extract_lets +onlyGivenNames y7
  extract_lets +onlyGivenNames y8
  clear_value y8
  extract_lets +onlyGivenNames y9
  extract_lets +onlyGivenNames y10
  clear_value y10
  extract_lets +onlyGivenNames y11
  clear_value y11
  extract_lets +onlyGivenNames y12
  have h13 : Keeps State.discipline_mask s y12 := Keeps.step (State.slew_keeps ..) h2
  clear_value y12
  extract_lets +onlyGivenNames y14
  unfold y14
  extract_lets +onlyGivenNames y15
  have h16 : Keeps State.discipline_mask s y15 := Keeps.set_tb h13
  clear_value y15
  extract_lets +onlyGivenNames y17
  have h18 : Keeps State.discipline_mask s y17 := Keeps.step (State.slew_keeps ..) h16
  clear_value y17
  extract_lets +onlyGivenNames y19
  clear_value y19
  extract_lets +onlyGivenNames y20
  unfold y20
  extract_lets +onlyGivenNames y21
  have h22 : Keeps State.discipline_mask s y21 := by
    unfold y21
    refine Keeps.ite ?_ ?_
    · exact Keeps.set1 (Keeps.set_tb h18)
    exact h18
  clear_value y21
  exact Keeps.step (State.lockDue_keeps ..) (Keeps.step (State.showFreq_keeps ..) h22)

def State.acceptEdge_mask : Nat := State.discipline_mask ||| State.coarseSnap_mask ||| State.judgeRef_mask |||
    State.lockDue_mask ||| fieldBits [Reg.TIME_ERR_ERR] ||| partBits [.tb]

theorem State.acceptEdge_keeps (s : State) (iv : Nat) (fresh : Bool) : Keeps State.acceptEdge_mask s (State.acceptEdge s iv
    fresh) := by
  unfold State.acceptEdge
  extract_lets +onlyGivenNames y0
  clear_value y0
  extract_lets +onlyGivenNames y1
  have h2 : Keeps State.acceptEdge_mask s y1 := Keeps.wrS (Keeps.refl _ _)
  clear_value y1
  extract_lets +onlyGivenNames y3
  unfold y3
  extract_lets +onlyGivenNames y4
  have h5 : Keeps State.acceptEdge_mask s y4 := Keeps.set_tb h2
  clear_value y4
  refine Keeps.ite ?_ ?_
  · exact Keeps.step (State.discipline_keeps ..) h5
  extract_lets +onlyGivenNames y6
  have h7 : Keeps State.acceptEdge_mask s y6 := Keeps.step (State.coarseSnap_keeps ..) (Keeps.step (State.judgeRef_keeps ..) h5)
  clear_value y6
  refine Keeps.step (State.lockDue_keeps ..) ?_
  extract_lets +onlyGivenNames y8
  unfold y8
  exact Keeps.set_tb h7

def State.setCand_mask : Nat := partBits [.tb]

theorem State.setCand_keeps (s : State) : Keeps State.setCand_mask s (State.setCand s) := by
  unfold State.setCand
  extract_lets +onlyGivenNames y0
  unfold y0
  exact Keeps.set_tb (Keeps.refl _ _)

def State.rejectEdge_mask : Nat := State.setCand_mask ||| State.raise_mask ||| fieldBits [Reg.TIME_STATUS_PPS_REJ]

theorem State.rejectEdge_keeps (s : State) (iv : Nat) : Keeps State.rejectEdge_mask s (State.rejectEdge s iv) := by
  unfold State.rejectEdge
  exact Keeps.step (State.setCand_keeps ..) (Keeps.step (State.raise_keeps ..) (Keeps.set1 (Keeps.refl _ _)))

def State.captureEdge_mask : Nat := State.setCand_mask ||| State.acceptEdge_mask ||| State.rejectEdge_mask ||| fieldBits
    [Reg.TIME_PPS_CAP_CAP]

theorem State.captureEdge_keeps (s : State) : Keeps State.captureEdge_mask s (State.captureEdge s) := by
  unfold State.captureEdge
  extract_lets +onlyGivenNames y0
  have h1 : Keeps State.captureEdge_mask s y0 := Keeps.wr (Keeps.refl _ _)
  clear_value y0
  split
  · rename_i z2 z3 z4 z5
    exact Keeps.step (State.setCand_keeps ..) h1
  · rename_i z6 z7 z8 z9 z10
    refine Keeps.ite ?_ ?_
    · exact Keeps.step (State.acceptEdge_keeps ..) h1
    exact Keeps.step (State.rejectEdge_keeps ..) h1
  · rename_i z11 z12 z13 z14 z15
    refine Keeps.ite ?_ ?_
    · exact Keeps.step (State.acceptEdge_keeps ..) h1
    exact Keeps.step (State.rejectEdge_keeps ..) h1
  rename_i z16 z17 z18 z19 z20 z21
  refine Keeps.ite ?_ ?_
  · exact Keeps.step (State.acceptEdge_keeps ..) h1
  refine Keeps.ite ?_ ?_
  · exact Keeps.step (State.acceptEdge_keeps ..) h1
  exact Keeps.step (State.rejectEdge_keeps ..) h1

def execPpsEdge_mask : Nat := State.advance_mask ||| State.captureEdge_mask

theorem execPpsEdge_keeps (dt : Nat) (fall : Bool) (s : State) : KeepsRes execPpsEdge_mask s (execPpsEdge dt fall s) := by
  unfold execPpsEdge
  extract_lets +onlyGivenNames y0
  have h1 : Keeps execPpsEdge_mask s y0 := Keeps.step (State.advance_keeps ..) (Keeps.refl _ _)
  clear_value y0
  refine KeepsRes.ite ?_ ?_
  · exact KeepsRes.next (Keeps.step (State.captureEdge_keeps ..) h1)
  exact KeepsRes.next h1

def State.jumped_mask : Nat := State.tallyJump_mask ||| State.raise_mask

theorem State.jumped_keeps (s : State) (code kind : Nat) (d : Int) : Keeps State.jumped_mask s (State.jumped s code kind d) :=
    by
  unfold State.jumped
  exact Keeps.step (State.tallyJump_keeps ..) (Keeps.step (State.raise_keeps ..) (Keeps.refl _ _))

def State.dropStep_mask : Nat := fieldBits [Reg.TIME_STATUS_STEP_PENDING] ||| partBits [.tb]

theorem State.dropStep_keeps (s : State) : Keeps State.dropStep_mask s (State.dropStep s) := by
  unfold State.dropStep
  refine Keeps.clr ?_
  extract_lets +onlyGivenNames y0
  unfold y0
  exact Keeps.set_tb (Keeps.refl _ _)

def State.forbidStep_mask : Nat := State.showFreq_mask ||| State.slew_mask ||| State.dropStep_mask

theorem State.forbidStep_keeps (s : State) : Keeps State.forbidStep_mask s (State.forbidStep s) := by
  unfold State.forbidStep
  split
  · rename_i z0 z1
    exact Keeps.refl _ _
  rename_i z2 z3 z4 z5
  exact Keeps.step (State.showFreq_keeps ..) (Keeps.step (State.slew_keeps ..) (Keeps.step (State.dropStep_keeps ..)
      (Keeps.refl _ _)))

def execTimeStep_mask : Nat := State.forbidStep_mask ||| State.moveTime_mask ||| State.advanceMod_mask ||| State.dropStep_mask
    ||| State.enterAcquire_mask ||| State.jumped_mask ||| State.showFreq_mask ||| State.slew_mask ||| fieldBits
    [Reg.TIME_STEPS_COUNT, Reg.TIME_STATUS_STEPPED]

theorem execTimeStep_keeps (s : State) : KeepsRes execTimeStep_mask s (execTimeStep s) := by
  unfold execTimeStep
  split
  · rename_i z0 z1
    exact KeepsRes.next (Keeps.refl _ _)
  rename_i z2 z3 z4 z5
  refine KeepsRes.ite ?_ ?_
  · exact KeepsRes.next (Keeps.step (State.forbidStep_keeps ..) (Keeps.refl _ _))
  extract_lets +onlyGivenNames y6
  have h7 : Keeps execTimeStep_mask s y6 := Keeps.step (State.moveTime_keeps ..) (Keeps.step (State.advanceMod_keeps ..)
      (Keeps.refl _ _))
  clear_value y6
  extract_lets +onlyGivenNames y8
  have h9 : Keeps execTimeStep_mask s y8 := Keeps.step (State.dropStep_keeps ..) (Keeps.bump (Keeps.set1 h7))
  clear_value y8
  extract_lets +onlyGivenNames y10
  have h11 : Keeps execTimeStep_mask s y10 := by
    unfold y10
    refine Keeps.ite ?_ ?_
    · exact h9
    exact Keeps.step (State.enterAcquire_keeps ..) h9
  clear_value y10
  exact KeepsRes.next (Keeps.step (State.jumped_keeps ..) (Keeps.step (State.showFreq_keeps ..) (Keeps.step (State.slew_keeps
      ..) h11)))

def execHoldoverTimeout_mask : Nat := State.enterHoldover_mask ||| State.advanceTo_mask

theorem execHoldoverTimeout_keeps (s : State) : KeepsRes execHoldoverTimeout_mask s (execHoldoverTimeout s) := by
  unfold execHoldoverTimeout
  extract_lets +onlyGivenNames y0
  clear_value y0
  refine KeepsRes.ite ?_ ?_
  · exact KeepsRes.next (Keeps.step (State.enterHoldover_keeps ..) (Keeps.step (State.advanceTo_keeps ..) (Keeps.refl _ _)))
  exact KeepsRes.next (Keeps.refl _ _)

def execPpsEnableWrite_mask : Nat := State.enterHoldover_mask ||| fieldBits [Reg.TIME_CTRL_PPS_EN] ||| partBits [.tb]

theorem execPpsEnableWrite_keeps (on : Bool) (s : State) : KeepsRes execPpsEnableWrite_mask s (execPpsEnableWrite on s) := by
  unfold execPpsEnableWrite
  extract_lets +onlyGivenNames y0
  clear_value y0
  extract_lets +onlyGivenNames y1
  have h2 : Keeps execPpsEnableWrite_mask s y1 := Keeps.wrB (Keeps.refl _ _)
  clear_value y1
  extract_lets +onlyGivenNames y3
  clear_value y3
  refine KeepsRes.ite ?_ ?_
  · refine KeepsRes.next ?_
    extract_lets +onlyGivenNames y4
    unfold y4
    exact Keeps.set_tb h2
  refine KeepsRes.ite ?_ ?_
  · exact KeepsRes.next (Keeps.step (State.enterHoldover_keeps ..) h2)
  exact KeepsRes.next h2

def execPpsPolarityWrite_mask : Nat := fieldBits [Reg.TIME_CTRL_PPS_FALL] ||| partBits [.tb]

theorem execPpsPolarityWrite_keeps (fall : Bool) (s : State) : KeepsRes execPpsPolarityWrite_mask s (execPpsPolarityWrite fall
    s) := by
  unfold execPpsPolarityWrite
  extract_lets +onlyGivenNames y0
  have h1 : Keeps execPpsPolarityWrite_mask s y0 := Keeps.wrB (Keeps.refl _ _)
  clear_value y0
  refine KeepsRes.ite ?_ ?_
  · exact KeepsRes.next h1
  refine KeepsRes.next ?_
  extract_lets +onlyGivenNames y2
  unfold y2
  exact Keeps.set_tb h1

def State.armLoad_mask : Nat := fieldBits [Reg.TIME_STATUS_LOAD_PENDING, Reg.TIME_CTRL_LOAD] ||| partBits [.tb]

theorem State.armLoad_keeps (s : State) (who : Option (Nat × Nat)) : Keeps State.armLoad_mask s (State.armLoad s who) := by
  unfold State.armLoad
  extract_lets +onlyGivenNames y0
  have h1 : Keeps State.armLoad_mask s y0 := Keeps.set1 (Keeps.set1 (Keeps.refl _ _))
  clear_value y0
  extract_lets +onlyGivenNames y2
  unfold y2
  exact Keeps.set_tb h1

def execTimeLoadArm_mask : Nat := State.armLoad_mask

theorem execTimeLoadArm_keeps (s : State) : KeepsRes execTimeLoadArm_mask s (execTimeLoadArm s) := by
  unfold execTimeLoadArm
  exact KeepsRes.next (Keeps.step (State.armLoad_keeps ..) (Keeps.refl _ _))

def State.setLoad_mask : Nat := State.armLoad_mask ||| fieldBits [Reg.TIME_LOAD_TICK, Reg.TIME_LOAD_SEC] ||| partBits [.tb]

theorem State.setLoad_keeps (s : State) (v : Nat) (who : Nat × Nat) : Keeps State.setLoad_mask s (State.setLoad s v who) := by
  unfold State.setLoad
  extract_lets +onlyGivenNames y0
  have h1 : Keeps State.setLoad_mask s y0 := Keeps.wr (Keeps.wr (Keeps.refl _ _))
  clear_value y0
  refine Keeps.step (State.armLoad_keeps ..) ?_
  extract_lets +onlyGivenNames y2
  unfold y2
  exact Keeps.set_tb h1

def State.nextTimeSet_mask : Nat := State.setLoad_mask ||| partBits [.tb]

theorem State.nextTimeSet_keeps (s : State) : Keeps State.nextTimeSet_mask s (State.nextTimeSet s) := by
  unfold State.nextTimeSet
  extract_lets +onlyGivenNames y0
  clear_value y0
  split
  · rename_i z1
    extract_lets +onlyGivenNames y2
    unfold y2
    exact Keeps.set_tb (Keeps.refl _ _)
  rename_i z3 z4 z5
  extract_lets +onlyGivenNames y6
  clear_value y6
  refine Keeps.ite ?_ ?_
  · extract_lets +onlyGivenNames y7
    unfold y7
    extract_lets +onlyGivenNames y8
    have h9 : Keeps State.nextTimeSet_mask s y8 := Keeps.set_tb (Keeps.refl _ _)
    clear_value y8
    exact Keeps.step (State.setLoad_keeps ..) h9
  exact Keeps.refl _ _

def State.endLoad_mask : Nat := State.nextTimeSet_mask ||| State.finish_mask ||| fieldBits [Reg.TIME_STATUS_LOAD_PENDING,
    Reg.TIME_CTRL_LOAD] ||| partBits [.tb]

theorem State.endLoad_keeps (s : State) (status field : Nat) : Keeps State.endLoad_mask s (State.endLoad s status field) := by
  unfold State.endLoad
  extract_lets +onlyGivenNames y0
  have h1 : Keeps State.endLoad_mask s y0 := Keeps.clr (Keeps.clr (Keeps.refl _ _))
  clear_value y0
  extract_lets +onlyGivenNames y2
  unfold y2
  extract_lets +onlyGivenNames y3
  have h4 : Keeps State.endLoad_mask s y3 := Keeps.set_tb h1
  clear_value y3
  split
  · rename_i z5 z6 z7 z8
    exact Keeps.step (State.nextTimeSet_keeps ..) (Keeps.step (State.finish_keeps ..) h4)
  rename_i z9 z10
  exact Keeps.step (State.nextTimeSet_keeps ..) h4

def execTimeLoadEffect_mask : Nat := State.nextTimeSet_mask ||| State.endLoad_mask ||| State.advanceMod_mask |||
    State.enterAcquire_mask ||| State.setLin_mask ||| State.jumped_mask ||| State.showFreq_mask ||| State.slew_mask |||
    State.dropStep_mask

theorem execTimeLoadEffect_keeps (s : State) : KeepsRes execTimeLoadEffect_mask s (execTimeLoadEffect s) := by
  unfold execTimeLoadEffect
  refine KeepsRes.ite ?_ ?_
  · exact KeepsRes.next (Keeps.step (State.nextTimeSet_keeps ..) (Keeps.refl _ _))
  extract_lets +onlyGivenNames y0
  clear_value y0
  refine KeepsRes.ite ?_ ?_
  · exact KeepsRes.next (Keeps.step (State.endLoad_keeps ..) (Keeps.refl _ _))
  extract_lets +onlyGivenNames y1
  have h2 : Keeps execTimeLoadEffect_mask s y1 := Keeps.step (State.advanceMod_keeps ..) (Keeps.refl _ _)
  clear_value y1
  extract_lets +onlyGivenNames y3
  clear_value y3
  extract_lets +onlyGivenNames y4
  clear_value y4
  extract_lets +onlyGivenNames y5
  have h6 : Keeps execTimeLoadEffect_mask s y5 := Keeps.step (State.enterAcquire_keeps ..) (Keeps.step (State.setLin_keeps ..)
      h2)
  clear_value y5
  exact KeepsRes.next (Keeps.step (State.endLoad_keeps ..) (Keeps.step (State.jumped_keeps ..) (Keeps.step
      (State.showFreq_keeps ..) (Keeps.step (State.slew_keeps ..) (Keeps.step (State.dropStep_keeps ..) h6)))))

def State.presentSync_mask : Nat := State.emit_mask

theorem State.presentSync_keeps (s : State) : Keeps State.presentSync_mask s (State.presentSync s) := by
  unfold State.presentSync
  refine Keeps.ite ?_ ?_
  · exact Keeps.refl _ _
  extract_lets +onlyGivenNames y0
  clear_value y0
  refine Keeps.foldl (fun t1 a2 => ?_) ?_
  · refine Keeps.ite ?_ ?_
    · exact Keeps.step (State.emit_keeps ..) (Keeps.refl _ _)
    exact Keeps.refl _ _
  exact Keeps.refl _ _

def execTimeSecondRollover_mask : Nat := State.presentSync_mask ||| State.advance_mask ||| State.coarse_mask

theorem execTimeSecondRollover_keeps (s : State) : KeepsRes execTimeSecondRollover_mask s (execTimeSecondRollover s) := by
  unfold execTimeSecondRollover
  extract_lets +onlyGivenNames y0
  clear_value y0
  refine KeepsRes.ite ?_ ?_
  · exact KeepsRes.next (Keeps.step (State.presentSync_keeps ..) (Keeps.step (State.advance_keeps ..) (Keeps.refl _ _)))
  extract_lets +onlyGivenNames y1
  clear_value y1
  refine KeepsRes.ite ?_ ?_
  · exact KeepsRes.next (Keeps.step (State.coarse_keeps ..) (Keeps.refl _ _))
  refine KeepsRes.ite ?_ ?_
  · exact KeepsRes.next (Keeps.step (State.coarse_keeps ..) (Keeps.refl _ _))
  exact KeepsRes.next (Keeps.step (State.coarse_keeps ..) (Keeps.refl _ _))

def execCclkStart_mask : Nat := State.coarse_mask ||| partBits [.tb]

theorem execCclkStart_keeps (s : State) : KeepsRes execCclkStart_mask s (execCclkStart s) := by
  unfold execCclkStart
  refine KeepsRes.ite ?_ ?_
  · exact KeepsRes.next (Keeps.refl _ _)
  extract_lets +onlyGivenNames y0
  have h1 : Keeps execCclkStart_mask s y0 := Keeps.step (State.coarse_keeps ..) (Keeps.refl _ _)
  clear_value y0
  refine KeepsRes.next ?_
  extract_lets +onlyGivenNames y2
  unfold y2
  exact Keeps.set_tb h1

def execReferenceClockLost_mask : Nat := partBits [.tb]

theorem execReferenceClockLost_keeps (s : State) : KeepsRes execReferenceClockLost_mask s (execReferenceClockLost s) := by
  unfold execReferenceClockLost
  refine KeepsRes.next ?_
  extract_lets +onlyGivenNames y0
  unfold y0
  exact Keeps.set_tb (Keeps.refl _ _)

def execFineTimeReload_mask : Nat := State.advanceTo_mask ||| State.coarse_mask ||| State.enterAcquire_mask ||| partBits [.tb]

theorem execFineTimeReload_keeps (byPps : Bool) (s : State) : KeepsRes execFineTimeReload_mask s (execFineTimeReload byPps s)
    := by
  unfold execFineTimeReload
  split
  · rename_i z0 z1
    exact KeepsRes.next (Keeps.refl _ _)
  rename_i z2 z3 z4
  extract_lets +onlyGivenNames y5
  clear_value y5
  refine KeepsRes.ite ?_ ?_
  · exact KeepsRes.next (Keeps.refl _ _)
  extract_lets +onlyGivenNames y6
  have h7 : Keeps execFineTimeReload_mask s y6 := by
    unfold y6
    refine Keeps.ite ?_ ?_
    · exact Keeps.refl _ _
    exact Keeps.step (State.advanceTo_keeps ..) (Keeps.refl _ _)
  clear_value y6
  extract_lets +onlyGivenNames y8
  have h9 : Keeps execFineTimeReload_mask s y8 := by
    unfold y8
    refine Keeps.ite ?_ ?_
    · exact h7
    exact Keeps.step (State.coarse_keeps ..) h7
  clear_value y8
  refine KeepsRes.next (Keeps.step (State.enterAcquire_keeps ..) ?_)
  extract_lets +onlyGivenNames y10
  unfold y10
  exact Keeps.set_tb h9

def State.emitLanes_mask : Nat := State.emit_mask

theorem State.emitLanes_keeps (s : State) (n : Nat) (b : Nat → Option Nat) : Keeps State.emitLanes_mask s (State.emitLanes s n
    b) := by
  unfold State.emitLanes
  refine Keeps.foldl (fun t0 a1 => ?_) ?_
  · split
    · rename_i z2 z3 z4
      exact Keeps.step (State.emit_keeps ..) (Keeps.refl _ _)
    rename_i z5 z6
    exact Keeps.refl _ _
  exact Keeps.refl _ _

def execServoPeriodStart_mask : Nat := State.advanceMod_mask ||| State.emitLanes_mask ||| partBits [.tb]

theorem execServoPeriodStart_keeps (s : State) : KeepsRes execServoPeriodStart_mask s (execServoPeriodStart s) := by
  unfold execServoPeriodStart
  extract_lets +onlyGivenNames y0
  have h1 : Keeps execServoPeriodStart_mask s y0 := by
    unfold y0
    refine Keeps.ite ?_ ?_
    · exact Keeps.refl _ _
    exact Keeps.step (State.advanceMod_keeps ..) (Keeps.refl _ _)
  clear_value y0
  extract_lets +onlyGivenNames y2
  unfold y2
  extract_lets +onlyGivenNames y3
  have h4 : Keeps execServoPeriodStart_mask s y3 := Keeps.set_tb h1
  clear_value y3
  refine KeepsRes.next (Keeps.foldl (fun t5 a6 => ?_) ?_)
  · exact Keeps.step (State.emitLanes_keeps ..) (Keeps.refl _ _)
  exact h4

def State.admitted_mask : Nat := partBits [.pw]

theorem State.admitted_keeps (s : State) (w : Nat) : Keeps State.admitted_mask s (State.admitted s w) := by
  unfold State.admitted
  exact Keeps.set_pw (Keeps.refl _ _)

def State.firstAction_mask : Nat := State.updCmd_mask ||| State.raise_mask ||| fieldBits [Reg.TIME_LATE_COUNT]

theorem State.firstAction_keeps (s : State) (who : Option (Nat × Nat)) : Keeps State.firstAction_mask s (State.firstAction s
    who) := by
  unfold State.firstAction
  split
  · rename_i z0
    exact Keeps.refl _ _
  rename_i z1 z2 z3
  split
  · rename_i z4 z5
    exact Keeps.refl _ _
  rename_i z6 z7 z8 z9
  extract_lets +onlyGivenNames y10
  clear_value y10
  extract_lets +onlyGivenNames y11
  have h12 : Keeps State.firstAction_mask s y11 := Keeps.step (State.updCmd_keeps ..) (Keeps.refl _ _)
  clear_value y11
  refine Keeps.ite ?_ ?_
  · exact Keeps.step (State.raise_keeps ..) (Keeps.bump h12)
  exact h12

def State.actFor_mask : Nat := State.firstAction_mask

theorem State.actFor_keeps (s : State) (p : Cmd → Bool) : Keeps State.actFor_mask s (State.actFor s p) := by
  unfold State.actFor
  refine Keeps.foldl (fun t0 a1 => ?_) ?_
  · exact Keeps.step (State.firstAction_keeps ..) (Keeps.refl _ _)
  exact Keeps.refl _ _

def execLaunch_mask : Nat := State.advance_mask ||| State.updCmd_mask

theorem execLaunch_keeps (sq tag : Nat) (s : State) : KeepsRes execLaunch_mask s (execLaunch sq tag s) := by
  unfold execLaunch
  split
  · rename_i z0 z1
    exact KeepsRes.next (Keeps.refl _ _)
  rename_i z2 z3 z4
  split
  · rename_i z5 z6
    exact KeepsRes.next (Keeps.refl _ _)
  rename_i z7 z8 z9
  refine KeepsRes.ite ?_ ?_
  · exact KeepsRes.next (Keeps.refl _ _)
  extract_lets +onlyGivenNames y10
  clear_value y10
  extract_lets +onlyGivenNames y11
  have h12 : Keeps execLaunch_mask s y11 := Keeps.step (State.advance_keeps ..) (Keeps.refl _ _)
  clear_value y11
  extract_lets +onlyGivenNames y13
  have h14 : Keeps execLaunch_mask s y13 := by
    unfold y13
    refine Keeps.ite ?_ ?_
    · exact Keeps.step (State.advance_keeps ..) h12
    exact Keeps.refl _ _
  clear_value y13
  exact KeepsRes.next (Keeps.step (State.updCmd_keeps ..) h14)

def State.beginTrans_mask : Nat := partBits [.pw]

theorem State.beginTrans_keeps (s : State) (dest cause : Nat) (who : Option (Nat × Nat)) : Keeps State.beginTrans_mask s
    (State.beginTrans s dest cause who) := by
  unfold State.beginTrans
  exact Keeps.set_pw (Keeps.refl _ _)

def execEmberLaunchExit_mask : Nat := State.beginTrans_mask ||| State.advance_mask

theorem execEmberLaunchExit_keeps (s : State) : KeepsRes execEmberLaunchExit_mask s (execEmberLaunchExit s) := by
  unfold execEmberLaunchExit
  extract_lets +onlyGivenNames y0
  clear_value y0
  split
  · rename_i z1
    exact KeepsRes.next (Keeps.refl _ _)
  rename_i z2 z3 z4
  refine KeepsRes.ite ?_ ?_
  · extract_lets +onlyGivenNames y5
    clear_value y5
    exact KeepsRes.next (Keeps.step (State.beginTrans_keeps ..) (Keeps.step (State.advance_keeps ..) (Keeps.refl _ _)))
  exact KeepsRes.next (Keeps.refl _ _)

def State.countSeeks_mask : Nat := partBits [.tb]

theorem State.countSeeks_keeps (s : State) (g n : Nat) : Keeps State.countSeeks_mask s (State.countSeeks s g n) := by
  unfold State.countSeeks
  extract_lets +onlyGivenNames y0
  unfold y0
  exact Keeps.set_tb (Keeps.refl _ _)

def State.toSeekSlot_mask : Nat := State.advance_mask

theorem State.toSeekSlot_keeps (s : State) (g : Nat) : Keeps State.toSeekSlot_mask s (State.toSeekSlot s g) := by
  unfold State.toSeekSlot
  extract_lets +onlyGivenNames y0
  clear_value y0
  exact Keeps.step (State.advance_keeps ..) (Keeps.refl _ _)

def State.seekGo_mask : Nat := State.putAxis_mask ||| partBits [.seekQ]

theorem State.seekGo_keeps (s : State) (a : Nat) : Keeps State.seekGo_mask s (State.seekGo s a) := by
  unfold State.seekGo
  extract_lets +onlyGivenNames y0
  clear_value y0
  extract_lets +onlyGivenNames y1
  have h2 : Keeps State.seekGo_mask s y1 := Keeps.step (State.putAxis_keeps ..) (Keeps.refl _ _)
  clear_value y1
  exact Keeps.set_seekQ h2

def State.vgApply_mask : Nat := partBits [.tb]

theorem State.vgApply_keeps (s : State) (g : Nat) : Keeps State.vgApply_mask s (State.vgApply s g) := by
  unfold State.vgApply
  extract_lets +onlyGivenNames y0
  clear_value y0
  extract_lets +onlyGivenNames y1
  clear_value y1
  extract_lets +onlyGivenNames y2
  unfold y2
  exact Keeps.set_tb (Keeps.refl _ _)

def State.freeSeeks_mask : Nat := State.seekGo_mask

theorem State.freeSeeks_keeps (s : State) : Keeps State.freeSeeks_mask s (State.freeSeeks s) := by
  unfold State.freeSeeks
  refine Keeps.foldl (fun t0 a1 => ?_) ?_
  · exact Keeps.step (State.seekGo_keeps ..) (Keeps.refl _ _)
  exact Keeps.refl _ _

def execVgConfigApply_mask : Nat := State.freeSeeks_mask ||| State.vgApply_mask ||| State.toSeekSlot_mask

theorem execVgConfigApply_keeps (g : Fin 16) (s : State) : KeepsRes execVgConfigApply_mask s (execVgConfigApply g s) := by
  unfold execVgConfigApply
  exact KeepsRes.next (Keeps.step (State.freeSeeks_keeps ..) (Keeps.step (State.vgApply_keeps ..) (Keeps.step
      (State.toSeekSlot_keeps ..) (Keeps.refl _ _))))

def execSeekSlot_mask : Nat := State.toSeekSlot_mask ||| State.advanceMod_mask ||| State.seekGo_mask ||| State.countSeeks_mask

theorem execSeekSlot_keeps (g : Fin 16) (s : State) : KeepsRes execSeekSlot_mask s (execSeekSlot g s) := by
  unfold execSeekSlot
  refine KeepsRes.ite ?_ ?_
  · exact KeepsRes.next (Keeps.refl _ _)
  extract_lets +onlyGivenNames y0
  have h1 : Keeps execSeekSlot_mask s y0 := Keeps.step (State.toSeekSlot_keeps ..) (Keeps.refl _ _)
  clear_value y0
  extract_lets +onlyGivenNames y2
  have h3 : Keeps execSeekSlot_mask s y2 := by
    unfold y2
    refine Keeps.ite ?_ ?_
    · exact Keeps.step (State.advanceMod_keeps ..) h1
    exact h1
  clear_value y2
  extract_lets +onlyGivenNames y4
  clear_value y4
  extract_lets +onlyGivenNames y5
  clear_value y5
  refine KeepsRes.next (Keeps.foldl (fun t6 a7 => ?_) ?_)
  · exact Keeps.step (State.seekGo_keeps ..) (Keeps.refl _ _)
  exact Keeps.step (State.countSeeks_keeps ..) h3

end Sys2Proof.Machine
end

