-- ==== Sys2Proof/Laws/KeepsLinkOps.lean ====
section
/-!
SUPPORT. What the operations of Machine/LinkOps.lean leave as it was, one lemma for each.
-/

set_option Elab.async false

namespace Sys2Proof.Machine

def State.setPort_mask : Nat := fieldBits [Reg.STN_LINK_STATUS_STATE]

theorem State.setPort_keeps (s : State) (n st : Nat) : Keeps State.setPort_mask s (State.setPort s n st) := by
  unfold State.setPort
  exact Keeps.wr (Keeps.refl _ _)

def State.msgErr_mask : Nat := fieldBits [Reg.STN_LINK_ERR_MSG_ERR]

theorem State.msgErr_keeps (s : State) (n : Nat) : Keeps State.msgErr_mask s (State.msgErr s n) := by
  unfold State.msgErr
  exact Keeps.bump (Keeps.refl _ _)

def State.send_mask : Nat := State.emit_mask ||| State.putStn_mask

theorem State.send_keeps (s : State) (n mtype tag : Nat) (blocks : List Nat) : Keeps State.send_mask s (State.send s n mtype
    tag blocks) := by
  unfold State.send
  extract_lets +onlyGivenNames y0
  clear_value y0
  extract_lets +onlyGivenNames y1
  clear_value y1
  exact Keeps.step (State.emit_keeps ..) (Keeps.step (State.putStn_keeps ..) (Keeps.refl _ _))

def State.resend_mask : Nat := State.emit_mask ||| fieldBits [Reg.STN_LINK_RETX_RETX]

theorem State.resend_keeps (s : State) (n mtype seq tag : Nat) (blocks : List Nat) : Keeps State.resend_mask s (State.resend s
    n mtype seq tag blocks) := by
  unfold State.resend
  exact Keeps.step (State.emit_keeps ..) (Keeps.bump (Keeps.refl _ _))

def State.setPads_mask : Nat := State.putStn_mask

theorem State.setPads_keeps (s : State) (n raw : Nat) : Keeps State.setPads_mask s (State.setPads s n raw) := by
  unfold State.setPads
  exact Keeps.step (State.putStn_keeps ..) (Keeps.refl _ _)

def State.showRaw_mask : Nat := fieldBits [Reg.STN_LINK_LAT_RAW]

theorem State.showRaw_keeps (s : State) (n raw : Nat) : Keeps State.showRaw_mask s (State.showRaw s n raw) := by
  unfold State.showRaw
  exact Keeps.wr (Keeps.refl _ _)

def State.toDetect_mask : Nat := State.setPort_mask ||| State.putStn_mask

theorem State.toDetect_keeps (s : State) (n : Nat) : Keeps State.toDetect_mask s (State.toDetect s n) := by
  unfold State.toDetect
  exact Keeps.step (State.setPort_keeps ..) (Keeps.step (State.putStn_keeps ..) (Keeps.refl _ _))

def State.toWait_mask : Nat := State.setPort_mask ||| State.putStn_mask ||| fieldBits [Reg.STN_LINK_STATUS_LANE1_LOCK,
    Reg.STN_LINK_STATUS_LANE0_LOCK]

theorem State.toWait_keeps (s : State) (n due : Nat) : Keeps State.toWait_mask s (State.toWait s n due) := by
  unfold State.toWait
  exact Keeps.clr (Keeps.clr (Keeps.step (State.setPort_keeps ..) (Keeps.step (State.putStn_keeps ..) (Keeps.refl _ _))))

def State.toDown_mask : Nat := State.setPort_mask ||| State.putStn_mask ||| fieldBits [Reg.STN_LINK_STATUS_LANE1_LOCK,
    Reg.STN_LINK_STATUS_LANE0_LOCK]

theorem State.toDown_keeps (s : State) (n : Nat) : Keeps State.toDown_mask s (State.toDown s n) := by
  unfold State.toDown
  exact Keeps.clr (Keeps.clr (Keeps.step (State.setPort_keeps ..) (Keeps.step (State.putStn_keeps ..) (Keeps.refl _ _))))

def State.trainFail_mask : Nat := State.toWait_mask ||| State.raise_mask ||| fieldBits [Reg.STN_LINK_EVT_TRAIN_FAIL]

theorem State.trainFail_keeps (s : State) (n reached due : Nat) : Keeps State.trainFail_mask s (State.trainFail s n reached
    due) := by
  unfold State.trainFail
  exact Keeps.step (State.toWait_keeps ..) (Keeps.step (State.raise_keeps ..) (Keeps.set1 (Keeps.refl _ _)))

def State.enableLink_mask : Nat := State.toWait_mask ||| fieldBits [Reg.STN_LINK_CTRL_ENABLE]

theorem State.enableLink_keeps (s : State) (n : Nat) : Keeps State.enableLink_mask s (State.enableLink s n) := by
  unfold State.enableLink
  extract_lets +onlyGivenNames y0
  have h1 : Keeps State.enableLink_mask s y0 := Keeps.set1 (Keeps.refl _ _)
  clear_value y0
  refine Keeps.ite ?_ ?_
  · exact Keeps.step (State.toWait_keeps ..) h1
  exact h1

def execLinkEnable_mask : Nat := State.enableLink_mask

theorem execLinkEnable_keeps (n : Fin 128) (s : State) : KeepsRes execLinkEnable_mask s (execLinkEnable n s) := by
  unfold execLinkEnable
  exact KeepsRes.next (Keeps.step (State.enableLink_keeps ..) (Keeps.refl _ _))

def State.awaitBatch_mask : Nat := State.toWait_mask

theorem State.awaitBatch_keeps (s : State) (n : Nat) : Keeps State.awaitBatch_mask s (State.awaitBatch s n) := by
  unfold State.awaitBatch
  refine Keeps.ite ?_ ?_
  · exact Keeps.step (State.toWait_keeps ..) (Keeps.refl _ _)
  exact Keeps.refl _ _

def State.awaitBatches_mask : Nat := State.awaitBatch_mask

theorem State.awaitBatches_keeps (s : State) : Keeps State.awaitBatches_mask s (State.awaitBatches s) := by
  unfold State.awaitBatches
  refine Keeps.foldl (fun t0 a1 => ?_) ?_
  · exact Keeps.step (State.awaitBatch_keeps ..) (Keeps.refl _ _)
  exact Keeps.refl _ _

def execTrainingBatchOpen_mask : Nat := State.awaitBatches_mask ||| State.advanceTo_mask ||| State.putStn_mask |||
    State.toDetect_mask

theorem execTrainingBatchOpen_keeps (b : Fin 8) (s : State) : KeepsRes execTrainingBatchOpen_mask s (execTrainingBatchOpen b s)
    := by
  unfold execTrainingBatchOpen
  extract_lets +onlyGivenNames y0
  have h1 : Keeps execTrainingBatchOpen_mask s y0 := Keeps.step (State.awaitBatches_keeps ..) (Keeps.step
      (State.advanceTo_keeps ..) (Keeps.refl _ _))
  clear_value y0
  refine KeepsRes.ite ?_ ?_
  · exact KeepsRes.next h1
  refine KeepsRes.next (Keeps.foldl (fun t2 a3 => ?_) ?_)
  · extract_lets +onlyGivenNames y4
    clear_value y4
    extract_lets +onlyGivenNames y5
    have h6 : Keeps execTrainingBatchOpen_mask t2 y5 := Keeps.step (State.putStn_keeps ..) (Keeps.refl _ _)
    clear_value y5
    refine Keeps.ite ?_ ?_
    · exact Keeps.step (State.toDetect_keeps ..) h6
    exact h6
  exact h1

def execTrainingBatchClose_mask : Nat := State.advanceTo_mask ||| State.toWait_mask ||| State.putStn_mask

theorem execTrainingBatchClose_keeps (b : Fin 8) (s : State) : KeepsRes execTrainingBatchClose_mask s (execTrainingBatchClose b
    s) := by
  unfold execTrainingBatchClose
  extract_lets +onlyGivenNames y0
  have h1 : Keeps execTrainingBatchClose_mask s y0 := Keeps.step (State.advanceTo_keeps ..) (Keeps.refl _ _)
  clear_value y0
  refine KeepsRes.next (Keeps.foldl (fun t2 a3 => ?_) ?_)
  · extract_lets +onlyGivenNames y4
    have h5 : Keeps execTrainingBatchClose_mask t2 y4 := by
      unfold y4
      refine Keeps.ite ?_ ?_
      · exact Keeps.step (State.toWait_keeps ..) (Keeps.refl _ _)
      exact Keeps.refl _ _
    clear_value y4
    exact Keeps.step (State.putStn_keeps ..) h5
  exact h1

def execLinkTrainDetected_mask : Nat := State.setPort_mask ||| State.putStn_mask

theorem execLinkTrainDetected_keeps (n : Fin 128) (s : State) : KeepsRes execLinkTrainDetected_mask s (execLinkTrainDetected n
    s) := by
  unfold execLinkTrainDetected
  refine KeepsRes.ite ?_ ?_
  · exact KeepsRes.next (Keeps.step (State.setPort_keeps ..) (Keeps.step (State.putStn_keeps ..) (Keeps.refl _ _)))
  exact KeepsRes.next (Keeps.refl _ _)

def execLinkBlockLock_mask : Nat := State.setPort_mask ||| State.putStn_mask ||| fieldBits [Reg.STN_LINK_STATUS_LANE0_LOCK,
    Reg.STN_LINK_STATUS_LANE1_LOCK]

theorem execLinkBlockLock_keeps (n : Fin 128) (lane0 lane1 : Bool) (s : State) : KeepsRes execLinkBlockLock_mask s
    (execLinkBlockLock n lane0 lane1 s) := by
  unfold execLinkBlockLock
  refine KeepsRes.ite ?_ ?_
  · extract_lets +onlyGivenNames y0
    have h1 : Keeps execLinkBlockLock_mask s y0 := by
      unfold y0
      refine Keeps.ite ?_ ?_
      · exact Keeps.set1 (Keeps.refl _ _)
      exact Keeps.refl _ _
    clear_value y0
    extract_lets +onlyGivenNames y2
    have h3 : Keeps execLinkBlockLock_mask s y2 := by
      unfold y2
      refine Keeps.ite ?_ ?_
      · exact Keeps.set1 h1
      exact h1
    clear_value y2
    refine KeepsRes.next (Keeps.ite ?_ ?_)
    · exact Keeps.step (State.setPort_keeps ..) (Keeps.step (State.putStn_keeps ..) h3)
    exact h3
  exact KeepsRes.next (Keeps.refl _ _)

def execLinkDeskewDone_mask : Nat := State.setPort_mask ||| State.putStn_mask

theorem execLinkDeskewDone_keeps (n : Fin 128) (skew : Nat) (s : State) : KeepsRes execLinkDeskewDone_mask s
    (execLinkDeskewDone n skew s) := by
  unfold execLinkDeskewDone
  refine KeepsRes.ite ?_ ?_
  · exact KeepsRes.next (Keeps.step (State.setPort_keeps ..) (Keeps.step (State.putStn_keeps ..) (Keeps.refl _ _)))
  exact KeepsRes.next (Keeps.refl _ _)

def execLinkTrainTimeout_mask : Nat := State.advanceTo_mask ||| State.trainFail_mask

theorem execLinkTrainTimeout_keeps (n : Fin 128) (s : State) : KeepsRes execLinkTrainTimeout_mask s (execLinkTrainTimeout n s)
    := by
  unfold execLinkTrainTimeout
  extract_lets +onlyGivenNames y0
  clear_value y0
  refine KeepsRes.ite ?_ ?_
  · extract_lets +onlyGivenNames y1
    have h2 : Keeps execLinkTrainTimeout_mask s y1 := Keeps.step (State.advanceTo_keeps ..) (Keeps.refl _ _)
    clear_value y1
    exact KeepsRes.next (Keeps.step (State.trainFail_keeps ..) h2)
  exact KeepsRes.next (Keeps.refl _ _)

def execLinkRetry_mask : Nat := State.advanceTo_mask ||| State.toDetect_mask

theorem execLinkRetry_keeps (n : Fin 128) (s : State) : KeepsRes execLinkRetry_mask s (execLinkRetry n s) := by
  unfold execLinkRetry
  refine KeepsRes.ite ?_ ?_
  · extract_lets +onlyGivenNames y0
    have h1 : Keeps execLinkRetry_mask s y0 := Keeps.step (State.advanceTo_keeps ..) (Keeps.refl _ _)
    clear_value y0
    extract_lets +onlyGivenNames y2
    clear_value y2
    refine KeepsRes.ite ?_ ?_
    · exact KeepsRes.next (Keeps.step (State.toDetect_keeps ..) h1)
    exact KeepsRes.next h1
  exact KeepsRes.next (Keeps.refl _ _)

def execLinkRetryTimeout_mask : Nat := State.advanceTo_mask ||| State.toWait_mask

theorem execLinkRetryTimeout_keeps (n : Fin 128) (s : State) : KeepsRes execLinkRetryTimeout_mask s (execLinkRetryTimeout n s)
    := by
  unfold execLinkRetryTimeout
  refine KeepsRes.ite ?_ ?_
  · extract_lets +onlyGivenNames y0
    have h1 : Keeps execLinkRetryTimeout_mask s y0 := Keeps.step (State.advanceTo_keeps ..) (Keeps.refl _ _)
    clear_value y0
    exact KeepsRes.next (Keeps.step (State.toWait_keeps ..) h1)
  exact KeepsRes.next (Keeps.refl _ _)

def State.periodOf_mask : Nat := State.send_mask ||| State.putStn_mask ||| State.toWait_mask ||| State.toDown_mask |||
    fieldBits [Reg.STN_LINK_CTRL_RELEASE]

theorem State.periodOf_keeps (s : State) (n : Nat) (all : Bool) : Keeps State.periodOf_mask s (State.periodOf s n all) := by
  unfold State.periodOf
  extract_lets +onlyGivenNames y0
  clear_value y0
  extract_lets +onlyGivenNames y1
  clear_value y1
  extract_lets +onlyGivenNames y2
  clear_value y2
  extract_lets +onlyGivenNames y3
  have h4 : Keeps State.periodOf_mask s y3 := Keeps.step (State.send_keeps ..) (Keeps.refl _ _)
  clear_value y3
  extract_lets +onlyGivenNames y5
  clear_value y5
  extract_lets +onlyGivenNames y6
  clear_value y6
  extract_lets +onlyGivenNames y7
  have h8 : Keeps State.periodOf_mask s y7 := Keeps.step (State.putStn_keeps ..) h4
  clear_value y7
  extract_lets +onlyGivenNames y9
  have h10 : Keeps State.periodOf_mask s y9 := by
    unfold y9
    refine Keeps.ite ?_ ?_
    · exact Keeps.clr h8
    exact h8
  clear_value y9
  refine Keeps.ite ?_ ?_
  · split
    · rename_i z11 z12
      exact h10
    · rename_i z13 z14
      exact Keeps.step (State.toWait_keeps ..) (Keeps.step (State.putStn_keeps ..) h10)
    · rename_i z15 z16
      exact Keeps.step (State.toDown_keeps ..) (Keeps.step (State.putStn_keeps ..) h10)
    rename_i z17 z18
    exact Keeps.step (State.toDown_keeps ..) (Keeps.step (State.putStn_keeps ..) h10)
  exact h10

def execEchoSend_mask : Nat := State.advanceTo_mask ||| State.send_mask ||| State.putStn_mask

theorem execEchoSend_keeps (n : Fin 128) (s : State) : KeepsRes execEchoSend_mask s (execEchoSend n s) := by
  unfold execEchoSend
  refine KeepsRes.ite ?_ ?_
  · extract_lets +onlyGivenNames y0
    have h1 : Keeps execEchoSend_mask s y0 := by
      unfold y0
      refine Keeps.ite ?_ ?_
      · exact Keeps.step (State.advanceTo_keeps ..) (Keeps.refl _ _)
      exact Keeps.refl _ _
    clear_value y0
    extract_lets +onlyGivenNames y2
    clear_value y2
    exact KeepsRes.next (Keeps.step (State.send_keeps ..) (Keeps.step (State.putStn_keeps ..) h1))
  exact KeepsRes.next (Keeps.refl _ _)

def execEchorspReceive_mask : Nat := State.msgErr_mask ||| State.showRaw_mask ||| State.setPads_mask ||| fieldBits
    [Reg.STN_LINK_LAT_LAT_VALID]

theorem execEchorspReceive_keeps (n : Fin 128) (m : LinkMsg) (rt : Nat) (s : State) : KeepsRes execEchorspReceive_mask s
    (execEchorspReceive n m rt s) := by
  unfold execEchorspReceive
  refine KeepsRes.ite ?_ ?_
  · exact KeepsRes.next (Keeps.refl _ _)
  refine KeepsRes.ite ?_ ?_
  · exact KeepsRes.next (Keeps.step (State.msgErr_keeps ..) (Keeps.refl _ _))
  refine KeepsRes.ite ?_ ?_
  · exact KeepsRes.next (Keeps.refl _ _)
  extract_lets +onlyGivenNames y0
  clear_value y0
  extract_lets +onlyGivenNames y1
  clear_value y1
  extract_lets +onlyGivenNames y2
  have h3 : Keeps execEchorspReceive_mask s y2 := Keeps.set1 (Keeps.step (State.showRaw_keeps ..) (Keeps.refl _ _))
  clear_value y2
  refine KeepsRes.next (Keeps.ite ?_ ?_)
  · exact Keeps.step (State.setPads_keeps ..) h3
  exact h3

def execHealthReceive_mask : Nat := State.msgErr_mask ||| State.putStn_mask

theorem execHealthReceive_keeps (n : Fin 128) (m : LinkMsg) (s : State) : KeepsRes execHealthReceive_mask s (execHealthReceive
    n m s) := by
  unfold execHealthReceive
  refine KeepsRes.ite ?_ ?_
  · exact KeepsRes.next (Keeps.refl _ _)
  refine KeepsRes.ite ?_ ?_
  · exact KeepsRes.next (Keeps.step (State.msgErr_keeps ..) (Keeps.refl _ _))
  exact KeepsRes.next (Keeps.step (State.putStn_keeps ..) (Keeps.refl _ _))

def State.sendStop_mask : Nat := State.emitLanes_mask

theorem State.sendStop_keeps (s : State) (n : Nat) (h0 h1 : Bool) : Keeps State.sendStop_mask s (State.sendStop s n h0 h1) := by
  unfold State.sendStop
  refine Keeps.ite ?_ ?_
  · refine Keeps.foldl (fun t0 a1 => ?_) ?_
    · exact Keeps.step (State.emitLanes_keeps ..) (Keeps.refl _ _)
    exact Keeps.refl _ _
  exact Keeps.refl _ _

def execStopSend_mask : Nat := State.sendStop_mask

theorem execStopSend_keeps (n : Fin 128) (h0 h1 : Bool) (s : State) : KeepsRes execStopSend_mask s (execStopSend n h0 h1 s) :=
    by
  unfold execStopSend
  exact KeepsRes.next (Keeps.step (State.sendStop_keeps ..) (Keeps.refl _ _))

def State.regGo_mask : Nat := State.send_mask ||| State.putStn_mask ||| fieldBits [Reg.STN_REG_CMD_DONE, Reg.STN_REG_CMD_BUSY,
    Reg.STN_REG_CMD_WRITE]

theorem State.regGo_keeps (s : State) (n : Nat) (write : Bool) (who : Option (Nat × Nat)) : Keeps State.regGo_mask s
    (State.regGo s n write who) := by
  unfold State.regGo
  refine Keeps.ite ?_ ?_
  · exact Keeps.refl _ _
  extract_lets +onlyGivenNames y0
  clear_value y0
  extract_lets +onlyGivenNames y1
  clear_value y1
  extract_lets +onlyGivenNames y2
  clear_value y2
  extract_lets +onlyGivenNames y3
  clear_value y3
  extract_lets +onlyGivenNames y4
  clear_value y4
  extract_lets +onlyGivenNames y5
  have h6 : Keeps State.regGo_mask s y5 := Keeps.step (State.send_keeps ..) (Keeps.refl _ _)
  clear_value y5
  extract_lets +onlyGivenNames y7
  clear_value y7
  extract_lets +onlyGivenNames y8
  have h9 : Keeps State.regGo_mask s y8 := Keeps.step (State.putStn_keeps ..) h6
  clear_value y8
  exact Keeps.clr (Keeps.set1 (Keeps.wrB h9))

def execFeRegAccess_mask : Nat := State.regGo_mask

theorem execFeRegAccess_keeps (n : Fin 128) (write : Bool) (s : State) : KeepsRes execFeRegAccess_mask s (execFeRegAccess n
    write s) := by
  unfold execFeRegAccess
  exact KeepsRes.next (Keeps.step (State.regGo_keeps ..) (Keeps.refl _ _))

def State.regDone_mask : Nat := State.putStn_mask ||| State.finish_mask ||| fieldBits [Reg.STN_REG_CMD_RESULT,
    Reg.STN_REG_CMD_DONE, Reg.STN_REG_CMD_BUSY]

theorem State.regDone_keeps (s : State) (n result : Nat) : Keeps State.regDone_mask s (State.regDone s n result) := by
  unfold State.regDone
  extract_lets +onlyGivenNames y0
  clear_value y0
  extract_lets +onlyGivenNames y1
  have h2 : Keeps State.regDone_mask s y1 := Keeps.wr (Keeps.set1 (Keeps.clr (Keeps.refl _ _)))
  clear_value y1
  extract_lets +onlyGivenNames y3
  have h4 : Keeps State.regDone_mask s y3 := Keeps.step (State.putStn_keeps ..) h2
  clear_value y3
  split
  · rename_i z5 z6 z7 z8
    exact Keeps.step (State.finish_keeps ..) h4
  rename_i z9 z10
  exact h4

def execRegrspReceive_mask : Nat := State.msgErr_mask ||| State.regDone_mask ||| fieldBits [Reg.STN_REG_DATA_DATA]

theorem execRegrspReceive_keeps (n : Fin 128) (m : LinkMsg) (s : State) : KeepsRes execRegrspReceive_mask s (execRegrspReceive
    n m s) := by
  unfold execRegrspReceive
  refine KeepsRes.ite ?_ ?_
  · exact KeepsRes.next (Keeps.refl _ _)
  refine KeepsRes.ite ?_ ?_
  · exact KeepsRes.next (Keeps.step (State.msgErr_keeps ..) (Keeps.refl _ _))
  split
  · rename_i z0 z1
    exact KeepsRes.next (Keeps.refl _ _)
  rename_i z2 z3 z4
  refine KeepsRes.ite ?_ ?_
  · exact KeepsRes.next (Keeps.refl _ _)
  extract_lets +onlyGivenNames y5
  clear_value y5
  extract_lets +onlyGivenNames y6
  have h7 : Keeps execRegrspReceive_mask s y6 := by
    unfold y6
    refine Keeps.ite ?_ ?_
    · exact Keeps.refl _ _
    exact Keeps.wr (Keeps.refl _ _)
  clear_value y6
  exact KeepsRes.next (Keeps.step (State.regDone_keeps ..) h7)

def execFeRegTimeout_mask : Nat := State.advanceTo_mask ||| State.resend_mask ||| State.putStn_mask ||| State.regDone_mask |||
    State.raise_mask ||| fieldBits [Reg.STN_LINK_EVT_REG_TIMEOUT]

theorem execFeRegTimeout_keeps (n : Fin 128) (s : State) : KeepsRes execFeRegTimeout_mask s (execFeRegTimeout n s) := by
  unfold execFeRegTimeout
  split
  · rename_i z0 z1
    exact KeepsRes.next (Keeps.refl _ _)
  rename_i z2 z3 z4 z5 z6
  extract_lets +onlyGivenNames y7
  have h8 : Keeps execFeRegTimeout_mask s y7 := Keeps.step (State.advanceTo_keeps ..) (Keeps.refl _ _)
  clear_value y7
  refine KeepsRes.ite ?_ ?_
  · extract_lets +onlyGivenNames y9
    clear_value y9
    exact KeepsRes.next (Keeps.step (State.resend_keeps ..) (Keeps.step (State.putStn_keeps ..) h8))
  exact KeepsRes.next (Keeps.step (State.regDone_keeps ..) (Keeps.step (State.raise_keeps ..) (Keeps.set1 h8)))

def execStepRetransmit_mask : Nat := State.resend_mask ||| State.putStn_mask

theorem execStepRetransmit_keeps (n : Fin 128) (s : State) : KeepsRes execStepRetransmit_mask s (execStepRetransmit n s) := by
  unfold execStepRetransmit
  split
  · rename_i z0 z1
    exact KeepsRes.next (Keeps.refl _ _)
  rename_i z2 z3 z4 z5
  refine KeepsRes.ite ?_ ?_
  · exact KeepsRes.next (Keeps.refl _ _)
  extract_lets +onlyGivenNames y6
  have h7 : Keeps execStepRetransmit_mask s y6 := by
    unfold y6
    refine Keeps.foldl (fun t8 a9 => ?_) ?_
    · exact Keeps.step (State.resend_keeps ..) (Keeps.refl _ _)
    exact Keeps.refl _ _
  clear_value y6
  exact KeepsRes.next (Keeps.step (State.putStn_keeps ..) h7)

def execLinkDegradedWindow_mask : Nat := State.advanceTo_mask ||| State.putStn_mask ||| State.raise_mask ||| fieldBits
    [Reg.STN_LINK_EVT_DEGRADED]

theorem execLinkDegradedWindow_keeps (n : Fin 128) (s : State) : KeepsRes execLinkDegradedWindow_mask s (execLinkDegradedWindow
    n s) := by
  unfold execLinkDegradedWindow
  split
  · rename_i z0 z1
    exact KeepsRes.next (Keeps.refl _ _)
  rename_i z2 z3 z4 z5
  extract_lets +onlyGivenNames y6
  have h7 : Keeps execLinkDegradedWindow_mask s y6 := Keeps.step (State.advanceTo_keeps ..) (Keeps.refl _ _)
  clear_value y6
  extract_lets +onlyGivenNames y8
  clear_value y8
  extract_lets +onlyGivenNames y9
  have h10 : Keeps execLinkDegradedWindow_mask s y9 := Keeps.step (State.putStn_keeps ..) h7
  clear_value y9
  extract_lets +onlyGivenNames y11
  clear_value y11
  refine KeepsRes.ite ?_ ?_
  · exact KeepsRes.next (Keeps.step (State.raise_keeps ..) (Keeps.set1 h10))
  exact KeepsRes.next h10

def execLinkRelease_mask : Nat := State.putStn_mask ||| fieldBits [Reg.STN_LINK_CTRL_RELEASE]

theorem execLinkRelease_keeps (n : Fin 128) (s : State) : KeepsRes execLinkRelease_mask s (execLinkRelease n s) := by
  unfold execLinkRelease
  extract_lets +onlyGivenNames y0
  have h1 : Keeps execLinkRelease_mask s y0 := Keeps.set1 (Keeps.refl _ _)
  clear_value y0
  exact KeepsRes.next (Keeps.step (State.putStn_keeps ..) h1)

end Sys2Proof.Machine
end

