-- ==== Sys2Proof/Laws/KeepsBufferOps.lean ====
section
/-!
SUPPORT. What the operations of Machine/BufferOps.lean leave as it was, one lemma for each.
-/

set_option Elab.async false

namespace Sys2Proof.Machine

def State.toDevice_mask : Nat := State.emit_mask ||| fieldBits [Reg.HEP_BIAS_CNT_TO_DEVICE] ||| partBits [.hep]

theorem State.toDevice_keeps (s : State) (k : Nat) : Keeps State.toDevice_mask s (State.toDevice s k) := by
  unfold State.toDevice
  extract_lets +onlyGivenNames y0
  clear_value y0
  extract_lets +onlyGivenNames y1
  clear_value y1
  extract_lets +onlyGivenNames y2
  clear_value y2
  extract_lets +onlyGivenNames y3
  have h4 : Keeps State.toDevice_mask s y3 := Keeps.set_hep (Keeps.refl _ _)
  clear_value y3
  extract_lets +onlyGivenNames y5
  have h6 : Keeps State.toDevice_mask s y5 := by
    unfold y5
    refine Keeps.foldl (fun t7 a8 => ?_) ?_
    · refine Keeps.foldl (fun t9 a10 => ?_) ?_
      · exact Keeps.step (State.emit_keeps ..) (Keeps.refl _ _)
      exact Keeps.refl _ _
    exact h4
  clear_value y5
  exact Keeps.bump h6

def State.takeBuf_mask : Nat := State.toDevice_mask ||| fieldBits [Reg.BPM_POOL_STAT_LOW_LOW] ||| partBits [.bufs, .pools]

theorem State.takeBuf_keeps (s : State) (p q : Nat) (copyOf : Option Nat) : KeepsOptSnd State.takeBuf_mask s (State.takeBuf s p
    q copyOf) := by
  unfold State.takeBuf
  refine KeepsOptSnd.ite ?_ ?_
  · exact KeepsOptSnd.none
  split
  · rename_i z0 z1
    exact KeepsOptSnd.none
  rename_i z2 z3 z4 z5
  extract_lets +onlyGivenNames y6
  clear_value y6
  extract_lets +onlyGivenNames y7
  have h8 : Keeps State.takeBuf_mask s y7 := Keeps.set_bufs_pools (Keeps.refl _ _)
  clear_value y7
  extract_lets +onlyGivenNames y9
  have h10 : Keeps State.takeBuf_mask s y9 := Keeps.wr h8
  clear_value y9
  exact KeepsOptSnd.some (Keeps.step (State.toDevice_keeps ..) h10)

def State.poolEmpty_mask : Nat := State.raiseWin_mask ||| fieldBits [Reg.BPM_POOL_STAT_EMPTY_EMPTY]

theorem State.poolEmpty_keeps (s : State) (p : Nat) : Keeps State.poolEmpty_mask s (State.poolEmpty s p) := by
  unfold State.poolEmpty
  exact Keeps.step (State.raiseWin_keeps ..) (Keeps.bump (Keeps.refl _ _))

def State.freeBuf_mask : Nat := State.toDevice_mask ||| partBits [.bufs, .gens, .pools]

theorem State.freeBuf_keeps (s : State) (k : Nat) : Keeps State.freeBuf_mask s (State.freeBuf s k) := by
  unfold State.freeBuf
  refine Keeps.ite ?_ ?_
  · extract_lets +onlyGivenNames y0
    clear_value y0
    extract_lets +onlyGivenNames y1
    clear_value y1
    extract_lets +onlyGivenNames y2
    have h3 : Keeps State.freeBuf_mask s y2 := Keeps.step (State.toDevice_keeps ..) (Keeps.refl _ _)
    clear_value y2
    exact Keeps.set_bufs_gens_pools h3
  exact Keeps.refl _ _

def State.settleBuf_mask : Nat := State.freeBuf_mask

theorem State.settleBuf_keeps (s : State) (k : Nat) : Keeps State.settleBuf_mask s (State.settleBuf s k) := by
  unfold State.settleBuf
  split
  · rename_i z0 z1 z2
    refine Keeps.ite ?_ ?_
    · exact Keeps.step (State.freeBuf_keeps ..) (Keeps.refl _ _)
    exact Keeps.refl _ _
  rename_i z3 z4
  exact Keeps.refl _ _

def State.settleAll_mask : Nat := State.settleBuf_mask

theorem State.settleAll_keeps (s : State) : Keeps State.settleAll_mask s (State.settleAll s) := by
  unfold State.settleAll
  refine Keeps.foldl (fun t0 a1 => ?_) ?_
  · exact Keeps.step (State.settleBuf_keeps ..) (Keeps.refl _ _)
  exact Keeps.refl _ _

def State.putEngine_mask : Nat := fieldBits [Reg.DMA_ENG_STATUS_CHANNEL, Reg.DMA_ENG_STATUS_BUSY, Reg.DMA_ENG_STATUS_QUEUED]
    ||| partBits [.engines]

theorem State.putEngine_keeps (s : State) (e : Nat) (x : Engine) : Keeps State.putEngine_mask s (State.putEngine s e x) := by
  unfold State.putEngine
  extract_lets +onlyGivenNames y0
  have h1 : Keeps State.putEngine_mask s y0 := Keeps.set_engines (Keeps.refl _ _)
  clear_value y0
  exact Keeps.wr (Keeps.wrB (Keeps.wr h1))

def State.startChan_mask : Nat := State.putEngine_mask ||| fieldBits [Reg.DMA_CH_STATUS_BAD, Reg.DMA_CH_STATUS_STATE]

theorem State.startChan_keeps (s : State) (ch : Nat) : Keeps State.startChan_mask s (State.startChan s ch) := by
  unfold State.startChan
  refine Keeps.ite ?_ ?_
  · extract_lets +onlyGivenNames y0
    clear_value y0
    extract_lets +onlyGivenNames y1
    clear_value y1
    exact Keeps.step (State.putEngine_keeps ..) (Keeps.wr (Keeps.wr (Keeps.refl _ _)))
  exact Keeps.refl _ _

def State.drainEntry_mask : Nat := State.touchLines_mask ||| State.touchDram_mask ||| partBits [.ms]

theorem State.drainEntry_keeps (s : State) (e : Merge) : Keeps State.drainEntry_mask s (State.drainEntry s e) := by
  unfold State.drainEntry
  extract_lets +onlyGivenNames y0
  clear_value y0
  extract_lets +onlyGivenNames y1
  have h2 : Keeps State.drainEntry_mask s y1 := Keeps.set_ms (Keeps.refl _ _)
  clear_value y1
  extract_lets +onlyGivenNames y3
  have h4 : Keeps State.drainEntry_mask s y3 := by
    unfold y3
    refine Keeps.ite ?_ ?_
    · exact Keeps.step (State.touchLines_keeps ..) h2
    exact Keeps.step (State.touchLines_keeps ..) h2
  clear_value y3
  exact Keeps.step (State.touchDram_keeps ..) h4

def State.useLine_mask : Nat := partBits [.ms]

theorem State.useLine_keeps (s : State) (c : CLine) : Keeps State.useLine_mask s (State.useLine s c) := by
  unfold State.useLine
  extract_lets +onlyGivenNames y0
  clear_value y0
  exact Keeps.set_ms (Keeps.refl _ _)

def State.writeHit_mask : Nat := State.useLine_mask ||| partBits [.ms]

theorem State.writeHit_keeps (s : State) (a : Nat) (bs : List Nat) : Keeps State.writeHit_mask s (State.writeHit s a bs) := by
  unfold State.writeHit
  split
  · rename_i z0 z1
    exact Keeps.refl _ _
  rename_i z2 z3 z4
  extract_lets +onlyGivenNames y5
  have h6 : Keeps State.writeHit_mask s y5 := Keeps.step (State.useLine_keeps ..) (Keeps.refl _ _)
  clear_value y5
  exact Keeps.set_ms h6

def State.mergeWrite_mask : Nat := State.drainEntry_mask ||| State.writeHit_mask ||| partBits [.mem, .ms]

theorem State.mergeWrite_keeps (s0 : State) (a : Nat) (bs : List Nat) : Keeps State.mergeWrite_mask s0 (State.mergeWrite s0 a
    bs) := by
  unfold State.mergeWrite
  extract_lets +onlyGivenNames y0
  clear_value y0
  extract_lets +onlyGivenNames y1
  extract_lets +onlyGivenNames y2
  have h3 : Keeps State.mergeWrite_mask s0 y2 := by
    unfold y2
    split
    · rename_i z4 z5 z6
      refine Keeps.ite ?_ ?_
      · exact Keeps.step (State.drainEntry_keeps ..) (Keeps.refl _ _)
      exact Keeps.refl _ _
    rename_i z7 z8
    exact Keeps.refl _ _
  clear_value y2
  extract_lets +onlyGivenNames y9
  have h10 : Keeps State.mergeWrite_mask s0 y9 := Keeps.step (State.writeHit_keeps ..) h3
  clear_value y9
  extract_lets +onlyGivenNames y11
  clear_value y11
  extract_lets +onlyGivenNames y12
  clear_value y12
  exact Keeps.set_mem_ms h10 (memWriteList_wf _ _ _)

def State.writeChain_mask : Nat := State.mergeWrite_mask

theorem State.writeChain_keeps : ∀ (r : List (Nat × Nat)) (s : State) (addr : Nat) (toHost ro : Bool) (hdm : Nat), Keeps
    State.writeChain_mask s (State.writeChain s addr toHost ro hdm r) := by
  intro r
  induction r with
  | nil => intro s addr toHost ro hdm; exact Keeps.refl _ _
  | cons x r ih =>
    intro s addr toHost ro hdm
    obtain ⟨h, n⟩ := x
    unfold State.writeChain
    extract_lets +onlyGivenNames y0
    clear_value y0
    extract_lets +onlyGivenNames y1
    clear_value y1
    extract_lets +onlyGivenNames y2
    clear_value y2
    exact Keeps.step (ih ..) (Keeps.step (State.mergeWrite_keeps ..) (Keeps.refl _ _)) (Nat.or_self _)

def State.queueMove_mask : Nat := State.writeChain_mask ||| State.startChan_mask ||| fieldBits [Reg.DMA_CH_CTRL_PASID_EN,
    Reg.DMA_CH_DESC_ADDR, Reg.DMA_CH_CTRL_PASID] ||| partBits [.chanJobs]

theorem State.queueMove_keeps (s : State) (c : Cmd) (idx slice buf hdm off len : Nat) (toHost : Bool) : Keeps
    State.queueMove_mask s (State.queueMove s c idx slice buf hdm off len toHost) := by
  unfold State.queueMove
  split
  · rename_i z0 z1
    exact Keeps.refl _ _
  rename_i z2 z3 z4
  extract_lets +onlyGivenNames y5
  clear_value y5
  extract_lets +onlyGivenNames y6
  have h7 : Keeps State.queueMove_mask s y6 := Keeps.step (State.writeChain_keeps ..) (Keeps.refl _ _)
  clear_value y6
  extract_lets +onlyGivenNames y8
  have h9 : Keeps State.queueMove_mask s y8 := Keeps.wrB (Keeps.wr h7)
  clear_value y8
  extract_lets +onlyGivenNames y10
  have h11 : Keeps State.queueMove_mask s y10 := Keeps.wr h9
  clear_value y10
  extract_lets +onlyGivenNames y12
  clear_value y12
  exact Keeps.step (State.startChan_keeps ..) (Keeps.set_chanJobs h11)

end Sys2Proof.Machine
end

