-- ==== Sys2Proof/Laws/KeepsJournal.lean ====
section
/-!
SUPPORT. What the operations of Machine/Journal.lean leave as it was, one lemma for each.
-/

set_option Elab.async false

namespace Sys2Proof.Machine

def State.mergeWord_mask : Nat := State.putZone_mask

theorem State.mergeWord_keeps (s : State) (w : Nat) : Keeps State.mergeWord_mask s (State.mergeWord s w) := by
  unfold State.mergeWord
  extract_lets +onlyGivenNames y0
  clear_value y0
  extract_lets +onlyGivenNames y1
  clear_value y1
  extract_lets +onlyGivenNames y2
  clear_value y2
  refine Keeps.ite ?_ ?_
  · exact Keeps.refl _ _
  refine Keeps.ite ?_ ?_
  · exact Keeps.step (State.putZone_keeps ..) (Keeps.refl _ _)
  refine Keeps.ite ?_ ?_
  · exact Keeps.step (State.putZone_keeps ..) (Keeps.refl _ _)
  exact Keeps.refl _ _

def State.journal_mask : Nat := partBits [.jq]

theorem State.journal_keeps (s : State) (x : JItem) : Keeps State.journal_mask s (State.journal s x) := by
  unfold State.journal
  exact Keeps.set_jq (Keeps.refl _ _)

def State.journalWord_mask : Nat := State.journal_mask ||| State.ringSend_mask ||| State.raiseWin_mask ||| partBits [.stack]

theorem State.journalWord_keeps (s : State) (zk word frames : Nat) : Keeps State.journalWord_mask s (State.journalWord s zk
    word frames) := by
  unfold State.journalWord
  extract_lets +onlyGivenNames y0
  clear_value y0
  refine Keeps.ite ?_ ?_
  · exact Keeps.step (State.journal_keeps ..) (Keeps.refl _ _)
  refine Keeps.ite ?_ ?_
  · exact Keeps.step (State.ringSend_keeps ..) (Keeps.refl _ _)
  extract_lets +onlyGivenNames y1
  clear_value y1
  extract_lets +onlyGivenNames y2
  have h3 : Keeps State.journalWord_mask s y2 := Keeps.set_stack (Keeps.refl _ _)
  clear_value y2
  exact Keeps.step (State.raiseWin_keeps ..) (Keeps.step (State.journal_keeps ..) h3)

def State.journalZone_mask : Nat := State.journalWord_mask ||| State.putZone_mask

theorem State.journalZone_keeps (s : State) (zk : Nat) : Keeps State.journalZone_mask s (State.journalZone s zk) := by
  unfold State.journalZone
  extract_lets +onlyGivenNames y0
  have h1 : Keeps State.journalZone_mask s y0 := Keeps.step (State.journalWord_keeps ..) (Keeps.refl _ _)
  clear_value y0
  exact Keeps.step (State.putZone_keeps ..) h1

def State.journalSlip_mask : Nat := State.journalWord_mask

theorem State.journalSlip_keeps (s : State) (zk off : Nat) : Keeps State.journalSlip_mask s (State.journalSlip s zk off) := by
  unfold State.journalSlip
  exact Keeps.step (State.journalWord_keeps ..) (Keeps.refl _ _)

def State.mgmtRepair_mask : Nat := State.putDisc_mask ||| partBits [.mgmtQ]

theorem State.mgmtRepair_keeps (s : State) (d side : Nat) : Keeps State.mgmtRepair_mask s (State.mgmtRepair s d side) := by
  unfold State.mgmtRepair
  extract_lets +onlyGivenNames y0
  clear_value y0
  extract_lets +onlyGivenNames y1
  clear_value y1
  extract_lets +onlyGivenNames y2
  clear_value y2
  refine Keeps.ite ?_ ?_
  · extract_lets +onlyGivenNames y3
    have h4 : Keeps State.mgmtRepair_mask s y3 := Keeps.step (State.putDisc_keeps ..) (Keeps.refl _ _)
    clear_value y3
    exact Keeps.set_mgmtQ h4
  refine Keeps.ite ?_ ?_
  · extract_lets +onlyGivenNames y5
    have h6 : Keeps State.mgmtRepair_mask s y5 := Keeps.step (State.putDisc_keeps ..) (Keeps.refl _ _)
    clear_value y5
    exact Keeps.set_mgmtQ h6
  exact Keeps.refl _ _

def State.mgmtRecord_mask : Nat := State.mgmtRepair_mask ||| State.putDisc_mask ||| partBits [.mgmtQ]

theorem State.mgmtRecord_keeps (s0 : State) (d side type : Nat) (body : List Nat) : Keeps State.mgmtRecord_mask s0
    (State.mgmtRecord s0 d side type body) := by
  unfold State.mgmtRecord
  extract_lets +onlyGivenNames y0
  have h1 : Keeps State.mgmtRecord_mask s0 y0 := Keeps.step (State.mgmtRepair_keeps ..) (Keeps.refl _ _)
  clear_value y0
  extract_lets +onlyGivenNames y2
  clear_value y2
  extract_lets +onlyGivenNames y3
  clear_value y3
  extract_lets +onlyGivenNames y4
  clear_value y4
  extract_lets +onlyGivenNames y5
  clear_value y5
  extract_lets +onlyGivenNames y6
  clear_value y6
  extract_lets +onlyGivenNames y7
  have h8 : Keeps State.mgmtRecord_mask s0 y7 := Keeps.step (State.putDisc_keeps ..) h1
  clear_value y7
  exact Keeps.set_mgmtQ h8

def State.mgmtSet_mask : Nat := State.putZone_mask ||| State.mgmtRecord_mask ||| partBits [.zones]

theorem State.mgmtSet_keeps : ∀ (n : Nat) (s : State) (d side type : Nat), Keeps State.mgmtSet_mask s (State.mgmtSet n s d side
    type) := by
  intro n
  induction n with
  | zero => intro s d side type; exact Keeps.refl _ _
  | succ n ih =>
    intro s d side type
    unfold State.mgmtSet
    extract_lets +onlyGivenNames y0
    clear_value y0
    extract_lets +onlyGivenNames y1
    clear_value y1
    extract_lets +onlyGivenNames y2
    clear_value y2
    extract_lets +onlyGivenNames y3
    clear_value y3
    extract_lets +onlyGivenNames y4
    clear_value y4
    extract_lets +onlyGivenNames y5
    have h6 : Keeps State.mgmtSet_mask s y5 := by
      unfold y5
      refine Keeps.foldl (fun t7 a8 => ?_) ?_
      · exact Keeps.step (State.putZone_keeps ..) (Keeps.refl _ _)
      exact Keeps.refl _ _
    clear_value y5
    extract_lets +onlyGivenNames y9
    have h10 : Keeps State.mgmtSet_mask s y9 := Keeps.step (State.mgmtRecord_keeps ..) h6
    clear_value y9
    refine Keeps.ite ?_ ?_
    · exact Keeps.set_zones h10
    exact Keeps.step (ih ..) h10 (Nat.or_self _)

def State.closeZone_mask : Nat := State.putZone_mask ||| State.journalZone_mask

theorem State.closeZone_keeps (s : State) (zk : Nat) (st : ZState) : Keeps State.closeZone_mask s (State.closeZone s zk st) :=
    by
  unfold State.closeZone
  extract_lets +onlyGivenNames y0
  clear_value y0
  extract_lets +onlyGivenNames y1
  have h2 : Keeps State.closeZone_mask s y1 := Keeps.step (State.putZone_keeps ..) (Keeps.refl _ _)
  clear_value y1
  exact Keeps.step (State.journalZone_keeps ..) h2

end Sys2Proof.Machine
end

