-- ==== Sys2Proof/Laws/KeepsLoopOps.lean ====
section
/-!
SUPPORT. What the operations of Machine/LoopOps.lean leave as it was, one lemma for each.
-/

set_option Elab.async false

namespace Sys2Proof.Machine

def State.lpeErr_mask : Nat := fieldBits [Reg.LPE_ERR_CODE, Reg.LPE_ERR_SLOT, Reg.LPE_ERR_VALID]

theorem State.lpeErr_keeps (s : State) (sl code : Nat) : Keeps State.lpeErr_mask s (State.lpeErr s sl code) := by
  unfold State.lpeErr
  refine Keeps.ite ?_ ?_
  · exact Keeps.refl _ _
  exact Keeps.wr (Keeps.wr (Keeps.set1 (Keeps.refl _ _)))

def State.setGate_mask : Nat := partBits [.loop]

theorem State.setGate_keeps (s : State) (n w : Nat) (g : Gate) : Keeps State.setGate_mask s (State.setGate s n w g) := by
  unfold State.setGate
  exact Keeps.set_loop (Keeps.refl _ _)

def State.resetSlot_mask : Nat := State.putLslot_mask

theorem State.resetSlot_keeps (s : State) (sl : Nat) (i : Int) : Keeps State.resetSlot_mask s (State.resetSlot s sl i) := by
  unfold State.resetSlot
  exact Keeps.step (State.putLslot_keeps ..) (Keeps.refl _ _)

def State.closeLoop_mask : Nat := State.resetSlot_mask

theorem State.closeLoop_keeps (s : State) (sl : Nat) (v : Int) : Keeps State.closeLoop_mask s (State.closeLoop s sl v) := by
  unfold State.closeLoop
  exact Keeps.step (State.resetSlot_keeps ..) (Keeps.refl _ _)

def State.release_mask : Nat := State.closeLoop_mask ||| partBits [.loop]

theorem State.release_keeps (s : State) (n w : Nat) : Keeps State.release_mask s (State.release s n w) := by
  unfold State.release
  split
  · rename_i z0 z1
    exact Keeps.refl _ _
  rename_i z2 z3 z4
  extract_lets +onlyGivenNames y5
  clear_value y5
  extract_lets +onlyGivenNames y6
  have h7 : Keeps State.release_mask s y6 := Keeps.set_loop (Keeps.refl _ _)
  clear_value y6
  split
  · rename_i z8 z9 z10
    exact Keeps.step (State.closeLoop_keeps ..) h7
  rename_i z11 z12
  exact h7

def State.setOut_mask : Nat := fieldBits [Reg.LPE_OUT_OVR, Reg.LPE_OUT_VALUE] ||| partBits [.loop]

theorem State.setOut_keeps (s : State) (n w v : Nat) : Keeps State.setOut_mask s (State.setOut s n w v) := by
  unfold State.setOut
  extract_lets +onlyGivenNames y0
  have h1 : Keeps State.setOut_mask s y0 := Keeps.set1 (Keeps.wr (Keeps.refl _ _))
  clear_value y0
  refine Keeps.ite ?_ ?_
  · exact Keeps.set_loop h1
  exact h1

def State.setPrm_mask : Nat := fieldBits [Reg.LPE_PRM_VALUE]

theorem State.setPrm_keeps (s : State) (i : Nat) (v : Int) : Keeps State.setPrm_mask s (State.setPrm s i v) := by
  unfold State.setPrm
  exact Keeps.wrS (Keeps.refl _ _)

def State.writeWord_mask : Nat := partBits [.loop]

theorem State.writeWord_keeps (s : State) (k n w : Nat) (v : Int) : Keeps State.writeWord_mask s (State.writeWord s k n w v) :=
    by
  unfold State.writeWord
  extract_lets +onlyGivenNames y0
  clear_value y0
  extract_lets +onlyGivenNames y1
  clear_value y1
  extract_lets +onlyGivenNames y2
  have h3 : Keeps State.writeWord_mask s y2 := Keeps.set_loop (Keeps.refl _ _)
  clear_value y2
  refine Keeps.ite ?_ ?_
  · exact Keeps.set_loop h3
  exact h3

def State.publish_mask : Nat := State.putLslot_mask ||| fieldBits [Reg.LPE_SIG_VALUE]

theorem State.publish_keeps (s : State) (k sl : Nat) (sig : List Int) : Keeps State.publish_mask s (State.publish s k sl sig)
    := by
  unfold State.publish
  extract_lets +onlyGivenNames y0
  clear_value y0
  extract_lets +onlyGivenNames y1
  have h2 : Keeps State.publish_mask s y1 := Keeps.step (State.putLslot_keeps ..) (Keeps.refl _ _)
  clear_value y1
  refine Keeps.foldl (fun t3 a4 => ?_) ?_
  · exact Keeps.wrS (Keeps.refl _ _)
  exact h2

theorem Keeps.slotBit {m : Nat} {s x : State} {f : Fld} {sl : Nat} {on : Bool} (h : Keeps m s x)
    (hm : m.testBit (f.id % 8192) = true := by decide +kernel) : Keeps m s (x.slotBit f sl on) := h.wr hm

end Sys2Proof.Machine
end

