-- ==== Sys2Proof/Laws/KeepsMotionOps.lean ====
section
/-!
SUPPORT. What the operations of Machine/MotionOps.lean leave as it was, one lemma for each.
-/

set_option Elab.async false

namespace Sys2Proof.Machine

def State.setAx_mask : Nat := fieldBits [Reg.MOT_AX_STATUS_MOVING, Reg.MOT_AX_STATUS_STATE]

theorem State.setAx_keeps (s : State) (a st : Nat) : Keeps State.setAx_mask s (State.setAx s a st) := by
  unfold State.setAx
  exact Keeps.wrB (Keeps.wr (Keeps.refl _ _))

def State.motErr_mask : Nat := fieldBits [Reg.MOT_ERR_CODE, Reg.MOT_ERR_AXIS, Reg.MOT_ERR_VALID]

theorem State.motErr_keeps (s : State) (a code : Nat) : Keeps State.motErr_mask s (State.motErr s a code) := by
  unfold State.motErr
  refine Keeps.ite ?_ ?_
  · exact Keeps.refl _ _
  exact Keeps.wr (Keeps.wr (Keeps.set1 (Keeps.refl _ _)))

def State.axRefuse_mask : Nat := State.motErr_mask ||| fieldBits [Reg.MOT_AX_CMD_RESULT]

theorem State.axRefuse_keeps (s : State) (a code : Nat) : Keeps State.axRefuse_mask s (State.axRefuse s a code) := by
  unfold State.axRefuse
  exact Keeps.wr (Keeps.step (State.motErr_keeps ..) (Keeps.refl _ _))

def State.axDone_mask : Nat := fieldBits [Reg.MOT_AX_CMD_RESULT, Reg.MOT_AX_CMD_BUSY]

theorem State.axDone_keeps (s : State) (a result : Nat) : Keeps State.axDone_mask s (State.axDone s a result) := by
  unfold State.axDone
  refine Keeps.ite ?_ ?_
  · exact Keeps.wr (Keeps.clr (Keeps.refl _ _))
  exact Keeps.refl _ _

def State.emitSteps_mask : Nat := State.emit_mask

theorem State.emitSteps_keeps (s : State) (a : Nat) (p : Plan) (n : Nat) : Keeps State.emitSteps_mask s (State.emitSteps s a p
    n) := by
  unfold State.emitSteps
  split
  · rename_i z0 z1 z2
    refine Keeps.ite ?_ ?_
    · exact Keeps.step (State.emit_keeps ..) (Keeps.refl _ _)
    exact Keeps.refl _ _
  rename_i z3 z4
  exact Keeps.refl _ _

def State.holdMove_mask : Nat := State.putAxis_mask ||| State.setAx_mask

theorem State.holdMove_keeps (s : State) (a st : Nat) (h : HeldMove) : Keeps State.holdMove_mask s (State.holdMove s a st h) :=
    by
  unfold State.holdMove
  exact Keeps.step (State.putAxis_keeps ..) (Keeps.step (State.setAx_keeps ..) (Keeps.refl _ _))

def State.startMove_mask : Nat := State.holdMove_mask ||| State.setAx_mask ||| State.putAxis_mask ||| State.countSeeks_mask |||
    fieldBits [Reg.MOT_AX_STATUS_DIR] ||| partBits [.seekQ]

theorem State.startMove_keeps (s : State) (a : Nat) (t : Int) (byHead : Bool) : Keeps State.startMove_mask s (State.startMove s
    a t byHead) := by
  unfold State.startMove
  refine Keeps.ite ?_ ?_
  · exact Keeps.step (State.holdMove_keeps ..) (Keeps.refl _ _)
  extract_lets +onlyGivenNames y0
  clear_value y0
  extract_lets +onlyGivenNames y1
  clear_value y1
  extract_lets +onlyGivenNames y2
  have h3 : Keeps State.startMove_mask s y2 := Keeps.wrB (Keeps.step (State.setAx_keeps ..) (Keeps.refl _ _))
  clear_value y2
  extract_lets +onlyGivenNames y4
  clear_value y4
  extract_lets +onlyGivenNames y5
  have h6 : ∀ t7, Keeps State.startMove_mask t7 (y5 t7) := by
    intro t7
    unfold y5
    exact Keeps.step (State.putAxis_keeps ..) (Keeps.refl _ _)
  clear_value y5
  split
  · rename_i z8 z9 z10
    refine Keeps.ite ?_ ?_
    · exact Keeps.step (State.countSeeks_keeps ..) (Keeps.trans h3 (h6 _))
    extract_lets +onlyGivenNames y11
    clear_value y11
    extract_lets +onlyGivenNames y12
    have h13 : Keeps State.startMove_mask s y12 := Keeps.step (State.putAxis_keeps ..) h3
    clear_value y12
    exact Keeps.set_seekQ h13
  rename_i z14 z15
  exact Keeps.trans h3 (h6 _)

def State.homeSled_mask : Nat := State.holdMove_mask ||| State.putAxis_mask ||| State.setAx_mask ||| fieldBits
    [Reg.MOT_AX_STATUS_DIR]

theorem State.homeSled_keeps (s : State) (a : Nat) (after : Option Int) : Keeps State.homeSled_mask s (State.homeSled s a
    after) := by
  unfold State.homeSled
  refine Keeps.ite ?_ ?_
  · exact Keeps.step (State.holdMove_keeps ..) (Keeps.refl _ _)
  extract_lets +onlyGivenNames y0
  clear_value y0
  extract_lets +onlyGivenNames y1
  clear_value y1
  exact Keeps.step (State.putAxis_keeps ..) (Keeps.set1 (Keeps.step (State.setAx_keeps ..) (Keeps.refl _ _)))

def State.homePicker_mask : Nat := State.holdMove_mask ||| State.putAxis_mask ||| State.setAx_mask ||| fieldBits
    [Reg.MOT_AX_STATUS_DIR]

theorem State.homePicker_keeps (s : State) (a : Nat) : Keeps State.homePicker_mask s (State.homePicker s a) := by
  unfold State.homePicker
  refine Keeps.ite ?_ ?_
  · exact Keeps.step (State.holdMove_keeps ..) (Keeps.refl _ _)
  extract_lets +onlyGivenNames y0
  clear_value y0
  extract_lets +onlyGivenNames y1
  clear_value y1
  extract_lets +onlyGivenNames y2
  clear_value y2
  exact Keeps.step (State.putAxis_keeps ..) (Keeps.wrB (Keeps.step (State.setAx_keeps ..) (Keeps.refl _ _)))

def State.runHeld_mask : Nat := State.putAxis_mask ||| State.startMove_mask ||| State.homePicker_mask ||| State.homeSled_mask

theorem State.runHeld_keeps (s : State) : Keeps State.runHeld_mask s (State.runHeld s) := by
  unfold State.runHeld
  refine Keeps.foldl (fun t0 a1 => ?_) ?_
  · extract_lets +onlyGivenNames y2
    clear_value y2
    split
    · rename_i z3 z4
      exact Keeps.refl _ _
    rename_i z5 z6 z7
    extract_lets +onlyGivenNames y8
    clear_value y8
    extract_lets +onlyGivenNames y9
    have h10 : Keeps State.runHeld_mask t0 y9 := Keeps.step (State.putAxis_keeps ..) (Keeps.refl _ _)
    clear_value y9
    split
    · rename_i z11 z12 z13
      exact Keeps.step (State.startMove_keeps ..) h10
    rename_i z14 z15
    refine Keeps.ite ?_ ?_
    · exact Keeps.step (State.homePicker_keeps ..) h10
    exact Keeps.step (State.homeSled_keeps ..) h10
  exact Keeps.refl _ _

def State.brakeFirst_mask : Nat := State.startMove_mask ||| State.putAxis_mask ||| State.setAx_mask ||| fieldBits
    [Reg.MOT_AX_STATUS_DIR]

theorem State.brakeFirst_keeps (s : State) (a : Nat) (t : Int) : Keeps State.brakeFirst_mask s (State.brakeFirst s a t) := by
  unfold State.brakeFirst
  extract_lets +onlyGivenNames y0
  clear_value y0
  extract_lets +onlyGivenNames y1
  clear_value y1
  refine Keeps.ite ?_ ?_
  · exact Keeps.step (State.startMove_keeps ..) (Keeps.refl _ _)
  extract_lets +onlyGivenNames y2
  clear_value y2
  extract_lets +onlyGivenNames y3
  clear_value y3
  extract_lets +onlyGivenNames y4
  clear_value y4
  exact Keeps.step (State.putAxis_keeps ..) (Keeps.wrB (Keeps.step (State.setAx_keeps ..) (Keeps.refl _ _)))

def State.headMove_mask : Nat := State.homeSled_mask ||| State.motErr_mask ||| State.brakeFirst_mask ||| State.startMove_mask

theorem State.headMove_keeps (s : State) (a : Nat) (t : Int) : Keeps State.headMove_mask s (State.headMove s a t) := by
  unfold State.headMove
  extract_lets +onlyGivenNames y0
  clear_value y0
  extract_lets +onlyGivenNames y1
  clear_value y1
  refine Keeps.ite ?_ ?_
  · exact Keeps.step (State.homeSled_keeps ..) (Keeps.refl _ _)
  refine Keeps.ite ?_ ?_
  · exact Keeps.refl _ _
  refine Keeps.ite ?_ ?_
  · exact Keeps.step (State.motErr_keeps ..) (Keeps.refl _ _)
  refine Keeps.ite ?_ ?_
  · exact Keeps.step (State.brakeFirst_keeps ..) (Keeps.refl _ _)
  exact Keeps.step (State.startMove_keeps ..) (Keeps.refl _ _)

def State.endPlan_mask : Nat := State.emitSteps_mask ||| State.setAx_mask ||| State.putAxis_mask ||| State.axDone_mask |||
    fieldBits [Reg.MOT_AX_POS_VALUE, Reg.MOT_AX_STATUS_REF, Reg.MOT_AX_STATUS_SPEED] ||| partBits [.seekQ]

theorem State.endPlan_keeps (s : State) (a : Nat) (p : Plan) (result : Nat) : Keeps State.endPlan_mask s (State.endPlan s a p
    result) := by
  unfold State.endPlan
  extract_lets +onlyGivenNames y0
  clear_value y0
  extract_lets +onlyGivenNames y1
  have h2 : Keeps State.endPlan_mask s y1 := Keeps.wrS (Keeps.step (State.emitSteps_keeps ..) (Keeps.refl _ _))
  clear_value y1
  extract_lets +onlyGivenNames y3
  have h4 : Keeps State.endPlan_mask s y3 := by
    unfold y3
    refine Keeps.ite ?_ ?_
    · exact Keeps.step (State.setAx_keeps ..) (Keeps.clr h2)
    exact Keeps.step (State.setAx_keeps ..) h2
  clear_value y3
  extract_lets +onlyGivenNames y5
  have h6 : Keeps State.endPlan_mask s y5 := Keeps.wr (Keeps.step (State.putAxis_keeps ..) h4)
  clear_value y5
  extract_lets +onlyGivenNames y7
  have h8 : Keeps State.endPlan_mask s y7 := Keeps.step (State.axDone_keeps ..) h6
  clear_value y7
  exact Keeps.set_seekQ h8

def State.freezePlan_mask : Nat := State.putAxis_mask ||| State.emitSteps_mask ||| fieldBits [Reg.MOT_AX_STATUS_SPEED,
    Reg.MOT_AX_POS_VALUE]

theorem State.freezePlan_keeps (s : State) (a : Nat) : Keeps State.freezePlan_mask s (State.freezePlan s a) := by
  unfold State.freezePlan
  extract_lets +onlyGivenNames y0
  clear_value y0
  extract_lets +onlyGivenNames y1
  have h2 : Keeps State.freezePlan_mask s y1 := Keeps.step (State.putAxis_keeps ..) (Keeps.refl _ _)
  clear_value y1
  split
  · rename_i z3 z4 z5 z6 z7 z8
    extract_lets +onlyGivenNames y9
    clear_value y9
    extract_lets +onlyGivenNames y10
    clear_value y10
    exact Keeps.wr (Keeps.wrS (Keeps.step (State.emitSteps_keeps ..) h2))
  rename_i z11 z12 z13
  exact h2

def State.stopAxis_mask : Nat := State.endPlan_mask ||| State.freezePlan_mask ||| State.putAxis_mask ||| fieldBits
    [Reg.MOT_AX_STATUS_SPEED]

theorem State.stopAxis_keeps (s0 : State) (a : Nat) : Keeps State.stopAxis_mask s0 (State.stopAxis s0 a) := by
  unfold State.stopAxis
  extract_lets +onlyGivenNames y0
  have h1 : Keeps State.stopAxis_mask s0 y0 := by
    unfold y0
    split
    · rename_i z2 z3 z4
      exact Keeps.step (State.endPlan_keeps ..) (Keeps.step (State.freezePlan_keeps ..) (Keeps.refl _ _))
    rename_i z5 z6
    exact Keeps.refl _ _
  clear_value y0
  extract_lets +onlyGivenNames y7
  clear_value y7
  split
  · rename_i z8 z9 z10
    split
    · rename_i z11 z12
      exact Keeps.step (State.endPlan_keeps ..) h1
    rename_i z13 z14 z15
    refine Keeps.ite ?_ ?_
    · exact Keeps.step (State.putAxis_keeps ..) h1
    exact Keeps.step (State.putAxis_keeps ..) h1
  rename_i z16 z17
  refine Keeps.ite ?_ ?_
  · exact Keeps.wr (Keeps.step (State.putAxis_keeps ..) h1)
  exact h1

def State.haltAxis_mask : Nat := State.endPlan_mask ||| State.stopAxis_mask

theorem State.haltAxis_keeps (s : State) (a : Nat) : Keeps State.haltAxis_mask s (State.haltAxis s a) := by
  unfold State.haltAxis
  split
  · rename_i z0 z1 z2
    split
    · rename_i z3 z4
      exact Keeps.step (State.endPlan_keeps ..) (Keeps.refl _ _)
    rename_i z5 z6 z7
    exact Keeps.step (State.endPlan_keeps ..) (Keeps.refl _ _)
  rename_i z8 z9
  exact Keeps.step (State.stopAxis_keeps ..) (Keeps.refl _ _)

def State.haltAll_mask : Nat := State.haltAxis_mask

theorem State.haltAll_keeps (s : State) : Keeps State.haltAll_mask s (State.haltAll s) := by
  unfold State.haltAll
  refine Keeps.foldl (fun t0 a1 => ?_) ?_
  · exact Keeps.step (State.haltAxis_keeps ..) (Keeps.refl _ _)
  exact Keeps.refl _ _

def State.stopAll_mask : Nat := State.stopAxis_mask

theorem State.stopAll_keeps (s : State) : Keeps State.stopAll_mask s (State.stopAll s) := by
  unfold State.stopAll
  refine Keeps.foldl (fun t0 a1 => ?_) ?_
  · exact Keeps.step (State.stopAxis_keeps ..) (Keeps.refl _ _)
  exact Keeps.refl _ _

def State.loseRef_mask : Nat := State.setAx_mask ||| State.raise_mask ||| State.putAxis_mask ||| fieldBits
    [Reg.MOT_AX_STATUS_REF]

theorem State.loseRef_keeps (s : State) (a why : Nat) : Keeps State.loseRef_mask s (State.loseRef s a why) := by
  unfold State.loseRef
  refine Keeps.ite ?_ ?_
  · extract_lets +onlyGivenNames y0
    have h1 : Keeps State.loseRef_mask s y0 := Keeps.step (State.setAx_keeps ..) (Keeps.clr (Keeps.refl _ _))
    clear_value y0
    exact Keeps.step (State.raise_keeps ..) (Keeps.step (State.putAxis_keeps ..) h1)
  exact Keeps.refl _ _

def State.pkMove_mask : Nat := State.emitSteps_mask ||| State.advance_mask ||| fieldBits [Reg.MOT_AX_STATUS_DIR,
    Reg.MOT_AX_POS_VALUE]

theorem State.pkMove_keeps (s : State) (m : Nat) (ts : List (Nat × Int)) : Keeps State.pkMove_mask s (State.pkMove s m ts) := by
  unfold State.pkMove
  extract_lets +onlyGivenNames y0
  clear_value y0
  refine Keeps.foldl (fun t1 a2 => ?_) ?_
  · extract_lets +onlyGivenNames y3
    clear_value y3
    exact Keeps.wrB (Keeps.wrS (Keeps.step (State.emitSteps_keeps ..) (Keeps.refl _ _)))
  exact Keeps.step (State.advance_keeps ..) (Keeps.refl _ _)

def State.pkIn_mask : Nat := State.pkMove_mask

theorem State.pkIn_keeps (s : State) (m : Nat) (ps : List Int) : Keeps State.pkIn_mask s (State.pkIn s m ps) := by
  unfold State.pkIn
  exact Keeps.step (State.pkMove_keeps ..) (Keeps.refl _ _)

def State.pkPark_mask : Nat := State.motErr_mask ||| State.pkMove_mask ||| State.pkIn_mask ||| fieldBits [Reg.LIB_PK_LOC,
    Reg.LIB_PK_STATE]

theorem State.pkPark_keeps (s : State) (m : Nat) : Keeps State.pkPark_mask s (State.pkPark s m) := by
  unfold State.pkPark
  refine Keeps.ite ?_ ?_
  · split
    · rename_i z0 z1 z2 z3
      exact Keeps.step (State.motErr_keeps ..) (Keeps.refl _ _)
    rename_i z4 z5
    extract_lets +onlyGivenNames y6
    have h7 : Keeps State.pkPark_mask s y6 := Keeps.wr (Keeps.step (State.pkMove_keeps ..) (Keeps.step (State.pkIn_keeps ..)
        (Keeps.refl _ _)))
    clear_value y6
    refine Keeps.ite ?_ ?_
    · exact h7
    exact Keeps.wr h7
  exact Keeps.refl _ _

def State.openDoor_mask : Nat := State.pkPark_mask ||| State.raise_mask ||| fieldBits [Reg.LIB_STATUS_DOOR_LOCKED,
    Reg.LIB_DOOR_OPEN_READY] ||| partBits [.lib]

theorem State.openDoor_keeps (s : State) : Keeps State.openDoor_mask s (State.openDoor s) := by
  unfold State.openDoor
  refine Keeps.ite ?_ ?_
  · extract_lets +onlyGivenNames y0
    have h1 : Keeps State.openDoor_mask s y0 := by
      unfold y0
      refine Keeps.foldl (fun t2 a3 => ?_) ?_
      · refine Keeps.ite ?_ ?_
        · exact Keeps.step (State.pkPark_keeps ..) (Keeps.refl _ _)
        exact Keeps.refl _ _
      exact Keeps.refl _ _
    clear_value y0
    extract_lets +onlyGivenNames y4
    clear_value y4
    extract_lets +onlyGivenNames y5
    have h6 : Keeps State.openDoor_mask s y5 := Keeps.set_lib h1
    clear_value y5
    exact Keeps.step (State.raise_keeps ..) (Keeps.clr (Keeps.set1 h6))
  exact Keeps.refl _ _

end Sys2Proof.Machine
end

