-- ==== Sys2Proof/Laws/KeepsServoOps.lean ====
section
/-!
SUPPORT. What the operations of Machine/ServoOps.lean leave as it was, one lemma for each.
-/

set_option Elab.async false

namespace Sys2Proof.Machine

def State.setHd_mask : Nat := State.setAx_mask ||| State.putAxis_mask ||| fieldBits [Reg.STN_HD_STATUS_STATE]

theorem State.setHd_keeps (s : State) (h st : Nat) : Keeps State.setHd_mask s (State.setHd s h st) := by
  unfold State.setHd
  extract_lets +onlyGivenNames y0
  have h1 : Keeps State.setHd_mask s y0 := Keeps.wr (Keeps.refl _ _)
  clear_value y0
  refine Keeps.ite ?_ ?_
  · exact Keeps.step (State.setAx_keeps ..) h1
  refine Keeps.ite ?_ ?_
  · exact Keeps.step (State.setAx_keeps ..) (Keeps.step (State.putAxis_keeps ..) h1)
  exact h1

def State.gateHead_mask : Nat := State.setGate_mask

theorem State.gateHead_keeps (s : State) (h w : Nat) (g : Gate) : Keeps State.gateHead_mask s (State.gateHead s h w g) := by
  unfold State.gateHead
  exact Keeps.step (State.setGate_keeps ..) (Keeps.refl _ _)

def State.releaseHead_mask : Nat := State.release_mask

theorem State.releaseHead_keeps (s : State) (h w : Nat) : Keeps State.releaseHead_mask s (State.releaseHead s h w) := by
  unfold State.releaseHead
  exact Keeps.step (State.release_keeps ..) (Keeps.refl _ _)

def State.gateTrack_mask : Nat := State.gateHead_mask

theorem State.gateTrack_keeps (s : State) (h : Nat) (g : Gate) : Keeps State.gateTrack_mask s (State.gateTrack s h g) := by
  unfold State.gateTrack
  extract_lets +onlyGivenNames y0
  have h1 : Keeps State.gateTrack_mask s y0 := Keeps.step (State.gateHead_keeps ..) (Keeps.refl _ _)
  clear_value y0
  refine Keeps.ite ?_ ?_
  · exact h1
  exact Keeps.step (State.gateHead_keeps ..) h1

def State.freeTrack_mask : Nat := State.releaseHead_mask

theorem State.freeTrack_keeps (s : State) (h : Nat) : Keeps State.freeTrack_mask s (State.freeTrack s h) := by
  unfold State.freeTrack
  exact Keeps.step (State.releaseHead_keeps ..) (Keeps.step (State.releaseHead_keeps ..) (Keeps.refl _ _))

def State.headPrm_mask : Nat := State.setPrm_mask

theorem State.headPrm_keeps (s : State) (h i : Nat) (v : Int) : Keeps State.headPrm_mask s (State.headPrm s h i v) := by
  unfold State.headPrm
  exact Keeps.step (State.setPrm_keeps ..) (Keeps.refl _ _)

def State.readPowerOn_mask : Nat := State.headPrm_mask ||| State.releaseHead_mask ||| State.putHead_mask

theorem State.readPowerOn_keeps (s : State) (h : Nat) : Keeps State.readPowerOn_mask s (State.readPowerOn s h) := by
  unfold State.readPowerOn
  extract_lets +onlyGivenNames y0
  have h1 : Keeps State.readPowerOn_mask s y0 := Keeps.step (State.headPrm_keeps ..) (Keeps.refl _ _)
  clear_value y0
  exact Keeps.step (State.releaseHead_keeps ..) (Keeps.step (State.putHead_keeps ..) h1)

def State.readPowerOff_mask : Nat := State.headPrm_mask ||| State.putHead_mask

theorem State.readPowerOff_keeps (s : State) (h : Nat) : Keeps State.readPowerOff_mask s (State.readPowerOff s h) := by
  unfold State.readPowerOff
  extract_lets +onlyGivenNames y0
  have h1 : Keeps State.readPowerOff_mask s y0 := Keeps.step (State.headPrm_keeps ..) (Keeps.refl _ _)
  clear_value y0
  exact Keeps.step (State.putHead_keeps ..) h1

def State.gateWriting_mask : Nat := State.gateHead_mask ||| fieldBits [Reg.STN_HD_STATUS_WRITING]

theorem State.gateWriting_keeps (s : State) (h : Nat) : Keeps State.gateWriting_mask s (State.gateWriting s h) := by
  unfold State.gateWriting
  refine Keeps.ite ?_ ?_
  · exact Keeps.step (State.gateHead_keeps ..) (Keeps.clr (Keeps.refl _ _))
  exact Keeps.refl _ _

def State.stopWriting_mask : Nat := State.putSlice_mask ||| State.sendStop_mask ||| State.gateWriting_mask

theorem State.stopWriting_keeps (s : State) (h : Nat) : Keeps State.stopWriting_mask s (State.stopWriting s h) := by
  unfold State.stopWriting
  extract_lets +onlyGivenNames y0
  have h1 : Keeps State.stopWriting_mask s y0 := by
    unfold y0
    split
    · rename_i z2 z3 z4
      exact Keeps.step (State.putSlice_keeps ..) (Keeps.refl _ _)
    rename_i z5 z6
    exact Keeps.refl _ _
  clear_value y0
  refine Keeps.ite ?_ ?_
  · exact Keeps.step (State.sendStop_keeps ..) (Keeps.step (State.gateWriting_keeps ..) h1)
  exact h1

def State.headResult_mask : Nat := fieldBits [Reg.STN_HD_CMD_RESULT, Reg.STN_HD_CMD_BUSY]

theorem State.headResult_keeps (s : State) (h result : Nat) : Keeps State.headResult_mask s (State.headResult s h result) := by
  unfold State.headResult
  refine Keeps.ite ?_ ?_
  · exact Keeps.wr (Keeps.clr (Keeps.refl _ _))
  exact Keeps.refl _ _

def State.clearLocks_mask : Nat := fieldBits [Reg.STN_HD_STATUS_FOC_LOCK, Reg.STN_HD_STATUS_TRK_LOCK,
    Reg.STN_HD_STATUS_CLK_LOCK, Reg.STN_HD_STATUS_REL_LOCK]

theorem State.clearLocks_keeps (s : State) (h : Nat) : Keeps State.clearLocks_mask s (State.clearLocks s h) := by
  unfold State.clearLocks
  exact Keeps.clr (Keeps.clr (Keeps.clr (Keeps.clr (Keeps.refl _ _))))

def State.abandonOp_mask : Nat := State.putHead_mask ||| State.headResult_mask

theorem State.abandonOp_keeps (s : State) (h : Nat) (parked : Bool) : Keeps State.abandonOp_mask s (State.abandonOp s h parked)
    := by
  unfold State.abandonOp
  extract_lets +onlyGivenNames y0
  clear_value y0
  split
  · rename_i z1 z2
    exact Keeps.refl _ _
  rename_i z3 z4 z5
  extract_lets +onlyGivenNames y6
  clear_value y6
  extract_lets +onlyGivenNames y7
  have h8 : Keeps State.abandonOp_mask s y7 := Keeps.step (State.putHead_keeps ..) (Keeps.refl _ _)
  clear_value y7
  refine Keeps.ite ?_ ?_
  · exact Keeps.step (State.headResult_keeps ..) h8
  exact h8

def State.headOff_mask : Nat := State.clearLocks_mask ||| State.readPowerOff_mask ||| State.abandonOp_mask |||
    State.putHead_mask ||| State.setHd_mask ||| fieldBits [Reg.STN_HD_POS_VALID, Reg.STN_HD_STATUS_WRITING] ||| partBits
    [.loop]

theorem State.headOff_keeps (s : State) (h : Nat) : Keeps State.headOff_mask s (State.headOff s h) := by
  unfold State.headOff
  refine Keeps.ite ?_ ?_
  · exact Keeps.refl _ _
  extract_lets +onlyGivenNames y0
  have h1 : Keeps State.headOff_mask s y0 := Keeps.step (State.clearLocks_keeps ..) (Keeps.step (State.readPowerOff_keeps ..)
      (Keeps.step (State.abandonOp_keeps ..) (Keeps.refl _ _)))
  clear_value y0
  extract_lets +onlyGivenNames y2
  have h3 : Keeps State.headOff_mask s y2 := Keeps.clr (Keeps.clr h1)
  clear_value y2
  extract_lets +onlyGivenNames y4
  clear_value y4
  extract_lets +onlyGivenNames y5
  have h6 : Keeps State.headOff_mask s y5 := Keeps.step (State.putHead_keeps ..) h3
  clear_value y5
  extract_lets +onlyGivenNames y7
  clear_value y7
  exact Keeps.step (State.setHd_keeps ..) (Keeps.set_loop h6)

def State.parkGates_mask : Nat := State.gateHead_mask ||| State.gateTrack_mask

theorem State.parkGates_keeps (s : State) (h : Nat) : Keeps State.parkGates_mask s (State.parkGates s h) := by
  unfold State.parkGates
  exact Keeps.step (State.gateHead_keeps ..) (Keeps.step (State.gateHead_keeps ..) (Keeps.step (State.gateHead_keeps ..)
      (Keeps.step (State.gateTrack_keeps ..) (Keeps.step (State.gateHead_keeps ..) (Keeps.refl _ _)))))

def State.headOn_mask : Nat := State.setHd_mask ||| State.parkGates_mask

theorem State.headOn_keeps (s : State) (h : Nat) : Keeps State.headOn_mask s (State.headOn s h) := by
  unfold State.headOn
  refine Keeps.ite ?_ ?_
  · exact Keeps.step (State.setHd_keeps ..) (Keeps.step (State.parkGates_keeps ..) (Keeps.refl _ _))
  exact Keeps.refl _ _

def State.parkHead_mask : Nat := State.readPowerOff_mask ||| State.stopWriting_mask ||| State.abandonOp_mask |||
    State.gateHead_mask ||| State.gateTrack_mask ||| State.clearLocks_mask ||| State.putHead_mask ||| State.setHd_mask

theorem State.parkHead_keeps (s : State) (h cause : Nat) : Keeps State.parkHead_mask s (State.parkHead s h cause) := by
  unfold State.parkHead
  extract_lets +onlyGivenNames y0
  clear_value y0
  refine Keeps.ite ?_ ?_
  · exact Keeps.refl _ _
  extract_lets +onlyGivenNames y1
  extract_lets +onlyGivenNames y2
  clear_value y2
  extract_lets +onlyGivenNames y3
  have h4 : Keeps State.parkHead_mask s y3 := Keeps.step (State.readPowerOff_keeps ..) (Keeps.step (State.stopWriting_keeps ..)
      (Keeps.step (State.abandonOp_keeps ..) (Keeps.refl _ _)))
  clear_value y3
  extract_lets +onlyGivenNames y5
  have h6 : Keeps State.parkHead_mask s y5 := Keeps.step (State.gateHead_keeps ..) (Keeps.step (State.gateHead_keeps ..)
      (Keeps.step (State.gateHead_keeps ..) h4))
  clear_value y5
  extract_lets +onlyGivenNames y7
  have h8 : Keeps State.parkHead_mask s y7 := Keeps.step (State.gateTrack_keeps ..) h6
  clear_value y7
  extract_lets +onlyGivenNames y9
  have h10 : Keeps State.parkHead_mask s y9 := Keeps.step (State.gateHead_keeps ..) h8
  clear_value y9
  extract_lets +onlyGivenNames y11
  clear_value y11
  extract_lets +onlyGivenNames y12
  have h13 : Keeps State.parkHead_mask s y12 := Keeps.step (State.clearLocks_keeps ..) (Keeps.step (State.putHead_keeps ..) h10)
  clear_value y12
  exact Keeps.step (State.setHd_keeps ..) h13

def State.faultHead_mask : Nat := State.raise_mask ||| State.putHead_mask ||| State.parkHead_mask ||| State.headResult_mask

theorem State.faultHead_keeps (s : State) (h why : Nat) : Keeps State.faultHead_mask s (State.faultHead s h why) := by
  unfold State.faultHead
  extract_lets +onlyGivenNames y0
  have h1 : Keeps State.faultHead_mask s y0 := Keeps.step (State.raise_keeps ..) (Keeps.refl _ _)
  clear_value y0
  extract_lets +onlyGivenNames y2
  clear_value y2
  extract_lets +onlyGivenNames y3
  have h4 : Keeps State.faultHead_mask s y3 := Keeps.step (State.putHead_keeps ..) h1
  clear_value y3
  refine Keeps.ite ?_ ?_
  · exact Keeps.step (State.parkHead_keeps ..) (Keeps.step (State.headResult_keeps ..) h4)
  exact Keeps.step (State.parkHead_keeps ..) h4

def State.stepTrack_mask : Nat := State.gateHead_mask

theorem State.stepTrack_keeps (s : State) (h : Nat) (step : Int) (n start : Nat) : Keeps State.stepTrack_mask s
    (State.stepTrack s h step n start) := by
  unfold State.stepTrack
  exact Keeps.step (State.gateHead_keeps ..) (Keeps.step (State.gateHead_keeps ..) (Keeps.refl _ _))

def State.startJump_mask : Nat := State.stepTrack_mask ||| State.putHead_mask

theorem State.startJump_keeps (s : State) (h : Nat) (j : Int) : Keeps State.startJump_mask s (State.startJump s h j) := by
  unfold State.startJump
  extract_lets +onlyGivenNames y0
  clear_value y0
  extract_lets +onlyGivenNames y1
  have h2 : Keeps State.startJump_mask s y1 := Keeps.step (State.stepTrack_keeps ..) (Keeps.refl _ _)
  clear_value y1
  exact Keeps.step (State.putHead_keeps ..) h2

def State.longMove_mask : Nat := State.gateTrack_mask ||| State.putHead_mask ||| State.headMove_mask ||| fieldBits
    [Reg.STN_HD_STATUS_TRK_LOCK, Reg.STN_HD_STATUS_CLK_LOCK]

theorem State.longMove_keeps (s : State) (h : Nat) (j : Int) : Keeps State.longMove_mask s (State.longMove s h j) := by
  unfold State.longMove
  extract_lets +onlyGivenNames y0
  have h1 : Keeps State.longMove_mask s y0 := Keeps.step (State.gateTrack_keeps ..) (Keeps.refl _ _)
  clear_value y0
  extract_lets +onlyGivenNames y2
  clear_value y2
  extract_lets +onlyGivenNames y3
  have h4 : Keeps State.longMove_mask s y3 := Keeps.clr (Keeps.step (State.putHead_keeps ..) h1)
  clear_value y3
  exact Keeps.step (State.headMove_keeps ..) (Keeps.clr h4)

def State.seekMove_mask : Nat := State.startJump_mask ||| State.longMove_mask

theorem State.seekMove_keeps (s : State) (h : Nat) (j : Int) : Keeps State.seekMove_mask s (State.seekMove s h j) := by
  unfold State.seekMove
  refine Keeps.ite ?_ ?_
  · exact Keeps.step (State.startJump_keeps ..) (Keeps.refl _ _)
  exact Keeps.step (State.longMove_keeps ..) (Keeps.refl _ _)

def State.opDone_mask : Nat := State.setHd_mask ||| State.putHead_mask ||| State.headResult_mask

theorem State.opDone_keeps (s : State) (h : Nat) : Keeps State.opDone_mask s (State.opDone s h) := by
  unfold State.opDone
  extract_lets +onlyGivenNames y0
  clear_value y0
  extract_lets +onlyGivenNames y1
  have h2 : Keeps State.opDone_mask s y1 := Keeps.step (State.setHd_keeps ..) (Keeps.step (State.putHead_keeps ..) (Keeps.refl
      _ _))
  clear_value y1
  exact Keeps.step (State.headResult_keeps ..) h2

def State.wantSlice_mask : Nat := partBits [.headWait]

theorem State.wantSlice_keeps (s : State) (h : Nat) (write : Bool) : Keeps State.wantSlice_mask s (State.wantSlice s h write)
    := by
  unfold State.wantSlice
  refine Keeps.ite ?_ ?_
  · exact Keeps.refl _ _
  exact Keeps.set_headWait (Keeps.refl _ _)

def State.opcLanded_mask : Nat := State.setHd_mask ||| State.putHead_mask

theorem State.opcLanded_keeps (s : State) (h : Nat) : Keeps State.opcLanded_mask s (State.opcLanded s h) := by
  unfold State.opcLanded
  exact Keeps.step (State.setHd_keeps ..) (Keeps.step (State.putHead_keeps ..) (Keeps.refl _ _))

def State.startSeek_mask : Nat := State.putHead_mask ||| State.opcLanded_mask ||| State.opDone_mask ||| State.seekMove_mask |||
    State.setHd_mask

theorem State.startSeek_keeps (s : State) (h : Nat) (r : HReq) : Keeps State.startSeek_mask s (State.startSeek s h r) := by
  unfold State.startSeek
  extract_lets +onlyGivenNames y0
  clear_value y0
  extract_lets +onlyGivenNames y1
  clear_value y1
  extract_lets +onlyGivenNames y2
  have h3 : Keeps State.startSeek_mask s y2 := Keeps.step (State.putHead_keeps ..) (Keeps.refl _ _)
  clear_value y2
  refine Keeps.ite ?_ ?_
  · refine Keeps.ite ?_ ?_
    · exact Keeps.step (State.opcLanded_keeps ..) h3
    exact Keeps.step (State.opDone_keeps ..) h3
  exact Keeps.step (State.seekMove_keeps ..) (Keeps.step (State.setHd_keeps ..) h3)

def State.startOpc_mask : Nat := State.wantSlice_mask ||| State.putHead_mask ||| State.startSeek_mask ||| State.setHd_mask

theorem State.startOpc_keeps (s : State) (h : Nat) (r : HReq) : Keeps State.startOpc_mask s (State.startOpc s h r) := by
  unfold State.startOpc
  extract_lets +onlyGivenNames y0
  clear_value y0
  extract_lets +onlyGivenNames y1
  clear_value y1
  extract_lets +onlyGivenNames y2
  have h3 : Keeps State.startOpc_mask s y2 := Keeps.step (State.wantSlice_keeps ..) (Keeps.step (State.putHead_keeps ..)
      (Keeps.refl _ _))
  clear_value y2
  refine Keeps.ite ?_ ?_
  · exact Keeps.step (State.startSeek_keeps ..) h3
  exact Keeps.step (State.setHd_keeps ..) (Keeps.step (State.putHead_keeps ..) h3)

def State.moveRelay_mask : Nat := State.gateHead_mask ||| State.readPowerOff_mask ||| State.setOut_mask ||| State.headPrm_mask
    ||| State.putHead_mask ||| fieldBits [Reg.STN_HD_STATUS_REL_LOCK]

theorem State.moveRelay_keeps (s : State) (h l : Nat) (off : Int) : Keeps State.moveRelay_mask s (State.moveRelay s h l off) :=
    by
  unfold State.moveRelay
  extract_lets +onlyGivenNames y0
  clear_value y0
  extract_lets +onlyGivenNames y1
  clear_value y1
  extract_lets +onlyGivenNames y2
  clear_value y2
  extract_lets +onlyGivenNames y3
  clear_value y3
  extract_lets +onlyGivenNames y4
  have h5 : Keeps State.moveRelay_mask s y4 := Keeps.step (State.gateHead_keeps ..) (Keeps.step (State.readPowerOff_keeps ..)
      (Keeps.refl _ _))
  clear_value y4
  extract_lets +onlyGivenNames y6
  have h7 : Keeps State.moveRelay_mask s y6 := Keeps.step (State.setOut_keeps ..) h5
  clear_value y6
  extract_lets +onlyGivenNames y8
  have h9 : Keeps State.moveRelay_mask s y8 := Keeps.step (State.headPrm_keeps ..) h7
  clear_value y8
  extract_lets +onlyGivenNames y10
  clear_value y10
  exact Keeps.clr (Keeps.step (State.putHead_keeps ..) h9)

def State.startLayer_mask : Nat := State.moveRelay_mask ||| State.setHd_mask ||| State.putHead_mask

theorem State.startLayer_keeps (s : State) (h : Nat) (r : HReq) : Keeps State.startLayer_mask s (State.startLayer s h r) := by
  unfold State.startLayer
  extract_lets +onlyGivenNames y0
  clear_value y0
  exact Keeps.step (State.moveRelay_keeps ..) (Keeps.step (State.setHd_keeps ..) (Keeps.step (State.putHead_keeps ..)
      (Keeps.refl _ _)))

def State.pcaTake_mask : Nat := State.putDisc_mask

theorem State.pcaTake_keeps (s : State) (h l : Nat) : Keeps State.pcaTake_mask s (State.pcaTake s h l) := by
  unfold State.pcaTake
  split
  · rename_i z0 z1 z2
    extract_lets +onlyGivenNames y3
    clear_value y3
    extract_lets +onlyGivenNames y4
    clear_value y4
    exact Keeps.step (State.putDisc_keeps ..) (Keeps.refl _ _)
  rename_i z5 z6
  exact Keeps.refl _ _

def State.startReq_mask : Nat := State.firstAction_mask ||| State.startSeek_mask ||| State.startLayer_mask |||
    State.startOpc_mask

theorem State.startReq_keeps (s : State) (h : Nat) (r : HReq) : Keeps State.startReq_mask s (State.startReq s h r) := by
  unfold State.startReq
  split
  · rename_i z0 z1
    exact Keeps.step (State.firstAction_keeps ..) (Keeps.step (State.startSeek_keeps ..) (Keeps.refl _ _))
  · rename_i z2 z3
    exact Keeps.step (State.firstAction_keeps ..) (Keeps.step (State.startLayer_keeps ..) (Keeps.refl _ _))
  · rename_i z4 z5
    exact Keeps.step (State.startOpc_keeps ..) (Keeps.refl _ _)
  rename_i z6 z7 z8 z9
  exact Keeps.refl _ _

def State.nextReq_mask : Nat := State.startReq_mask ||| State.putHead_mask

theorem State.nextReq_keeps (s : State) (h : Nat) : Keeps State.nextReq_mask s (State.nextReq s h) := by
  unfold State.nextReq
  extract_lets +onlyGivenNames y0
  clear_value y0
  refine Keeps.ite ?_ ?_
  · exact Keeps.refl _ _
  split
  · rename_i z1 z2 z3
    refine Keeps.ite ?_ ?_
    · exact Keeps.refl _ _
    exact Keeps.step (State.startReq_keeps ..) (Keeps.step (State.putHead_keeps ..) (Keeps.refl _ _))
  rename_i z4 z5
  split
  · rename_i z6 z7
    exact Keeps.refl _ _
  rename_i z8 z9 z10 z11
  exact Keeps.step (State.startReq_keeps ..) (Keeps.step (State.putHead_keeps ..) (Keeps.refl _ _))

def State.askHead_mask : Nat := State.startReq_mask ||| State.putHead_mask

theorem State.askHead_keeps (s : State) (h : Nat) (r : HReq) : Keeps State.askHead_mask s (State.askHead s h r) := by
  unfold State.askHead
  extract_lets +onlyGivenNames y0
  clear_value y0
  refine Keeps.ite ?_ ?_
  · exact Keeps.refl _ _
  refine Keeps.ite ?_ ?_
  · exact Keeps.step (State.startReq_keeps ..) (Keeps.refl _ _)
  exact Keeps.step (State.putHead_keeps ..) (Keeps.refl _ _)

def State.focusSweep_mask : Nat := State.gateHead_mask ||| State.gateTrack_mask ||| State.setHd_mask ||| State.putHead_mask

theorem State.focusSweep_keeps (s : State) (h : Nat) : Keeps State.focusSweep_mask s (State.focusSweep s h) := by
  unfold State.focusSweep
  extract_lets +onlyGivenNames y0
  clear_value y0
  extract_lets +onlyGivenNames y1
  have h2 : Keeps State.focusSweep_mask s y1 := Keeps.step (State.gateHead_keeps ..) (Keeps.refl _ _)
  clear_value y1
  extract_lets +onlyGivenNames y3
  have h4 : Keeps State.focusSweep_mask s y3 := Keeps.step (State.gateTrack_keeps ..) h2
  clear_value y3
  exact Keeps.step (State.setHd_keeps ..) (Keeps.step (State.putHead_keeps ..) h4)

def State.acquire_mask : Nat := State.focusSweep_mask ||| State.putHead_mask ||| State.parkGates_mask ||| fieldBits
    [Reg.STN_HD_POS_VALID]

theorem State.acquire_keeps (s : State) (h : Nat) (r : HReq) : Keeps State.acquire_mask s (State.acquire s h r) := by
  unfold State.acquire
  extract_lets +onlyGivenNames y0
  clear_value y0
  refine Keeps.ite ?_ ?_
  · extract_lets +onlyGivenNames y1
    clear_value y1
    exact Keeps.step (State.focusSweep_keeps ..) (Keeps.step (State.putHead_keeps ..) (Keeps.clr (Keeps.step
        (State.parkGates_keeps ..) (Keeps.refl _ _))))
  exact Keeps.refl _ _

def State.enterRecover_mask : Nat := State.abandonOp_mask ||| State.setHd_mask ||| State.putHead_mask

theorem State.enterRecover_keeps (s : State) (h stage : Nat) : Keeps State.enterRecover_mask s (State.enterRecover s h stage)
    := by
  unfold State.enterRecover
  extract_lets +onlyGivenNames y0
  have h1 : Keeps State.enterRecover_mask s y0 := Keeps.step (State.abandonOp_keeps ..) (Keeps.refl _ _)
  clear_value y0
  extract_lets +onlyGivenNames y2
  clear_value y2
  extract_lets +onlyGivenNames y3
  clear_value y3
  exact Keeps.step (State.setHd_keeps ..) (Keeps.step (State.putHead_keeps ..) h1)

def State.spCapture_mask : Nat := State.putSpin_mask

theorem State.spCapture_keeps (s : State) (n : Nat) (fs : List Fld) : Keeps State.spCapture_mask s (State.spCapture s n fs) :=
    by
  unfold State.spCapture
  extract_lets +onlyGivenNames y0
  clear_value y0
  exact Keeps.step (State.putSpin_keeps ..) (Keeps.refl _ _)

def State.setSp_mask : Nat := State.putSpin_mask ||| State.spCapture_mask ||| fieldBits [Reg.STN_SP_STATUS_STATE] ||| partBits
    [.loop]

theorem State.setSp_keeps (s : State) (n st : Nat) : Keeps State.setSp_mask s (State.setSp s n st) := by
  unfold State.setSp
  extract_lets +onlyGivenNames y0
  clear_value y0
  extract_lets +onlyGivenNames y1
  have h2 : Keeps State.setSp_mask s y1 := Keeps.wr (Keeps.step (State.putSpin_keeps ..) (Keeps.refl _ _))
  clear_value y1
  extract_lets +onlyGivenNames y3
  clear_value y3
  extract_lets +onlyGivenNames y4
  have h5 : Keeps State.setSp_mask s y4 := by
    unfold y4
    refine Keeps.ite ?_ ?_
    · exact h2
    exact Keeps.set_loop h2
  clear_value y4
  exact Keeps.step (State.spCapture_keeps ..) h5

def State.bridge_mask : Nat := State.setOut_mask

theorem State.bridge_keeps (s : State) (n v : Nat) : Keeps State.bridge_mask s (State.bridge s n v) := by
  unfold State.bridge
  exact Keeps.step (State.setOut_keeps ..) (Keeps.refl _ _)

def State.gateSpeed_mask : Nat := partBits [.loop]

theorem State.gateSpeed_keeps (s : State) (n : Nat) (v : Int) : Keeps State.gateSpeed_mask s (State.gateSpeed s n v) := by
  unfold State.gateSpeed
  exact Keeps.set_loop (Keeps.refl _ _)

def State.openSpeed_mask : Nat := State.closeLoop_mask ||| partBits [.loop]

theorem State.openSpeed_keeps (s : State) (n : Nat) : Keeps State.openSpeed_mask s (State.openSpeed s n) := by
  unfold State.openSpeed
  extract_lets +onlyGivenNames y0
  clear_value y0
  exact Keeps.step (State.closeLoop_keeps ..) (Keeps.set_loop (Keeps.refl _ _))

def State.spPrm_mask : Nat := State.setPrm_mask

theorem State.spPrm_keeps (s : State) (n i : Nat) (v : Int) : Keeps State.spPrm_mask s (State.spPrm s n i v) := by
  unfold State.spPrm
  exact Keeps.step (State.setPrm_keeps ..) (Keeps.refl _ _)

def State.faultSpindle_mask : Nat := State.gateSpeed_mask ||| State.bridge_mask ||| State.raise_mask ||| State.spPrm_mask |||
    State.setSp_mask ||| fieldBits [Reg.STN_SP_STATUS_FAULT_CAUSE, Reg.STN_SP_STATUS_SHORT, Reg.STN_SP_STATUS_AT_SPEED]

theorem State.faultSpindle_keeps (s : State) (n cause : Nat) : Keeps State.faultSpindle_mask s (State.faultSpindle s n cause)
    := by
  unfold State.faultSpindle
  extract_lets +onlyGivenNames y0
  have h1 : Keeps State.faultSpindle_mask s y0 := Keeps.wr (Keeps.step (State.gateSpeed_keeps ..) (Keeps.step
      (State.bridge_keeps ..) (Keeps.refl _ _)))
  clear_value y0
  extract_lets +onlyGivenNames y2
  have h3 : Keeps State.faultSpindle_mask s y2 := Keeps.clr (Keeps.clr h1)
  clear_value y2
  exact Keeps.step (State.raise_keeps ..) (Keeps.step (State.spPrm_keeps ..) (Keeps.step (State.setSp_keeps ..) h3))

def State.senseSpindle_mask : Nat := State.gateSpeed_mask ||| State.bridge_mask ||| State.setSp_mask ||| State.putSpin_mask

theorem State.senseSpindle_keeps (s : State) (n : Nat) : Keeps State.senseSpindle_mask s (State.senseSpindle s n) := by
  unfold State.senseSpindle
  extract_lets +onlyGivenNames y0
  have h1 : Keeps State.senseSpindle_mask s y0 := Keeps.step (State.gateSpeed_keeps ..) (Keeps.step (State.bridge_keeps ..)
      (Keeps.refl _ _))
  clear_value y0
  extract_lets +onlyGivenNames y2
  have h3 : Keeps State.senseSpindle_mask s y2 := Keeps.step (State.setSp_keeps ..) h1
  clear_value y2
  exact Keeps.step (State.putSpin_keeps ..) h3

def State.startSpindle_mask : Nat := State.faultSpindle_mask ||| State.senseSpindle_mask ||| State.putSpin_mask ||| fieldBits
    [Reg.STN_SP_STATUS_ATTEMPT]

theorem State.startSpindle_keeps (s : State) (n : Nat) : Keeps State.startSpindle_mask s (State.startSpindle s n) := by
  unfold State.startSpindle
  refine Keeps.ite ?_ ?_
  · exact Keeps.step (State.faultSpindle_keeps ..) (Keeps.refl _ _)
  extract_lets +onlyGivenNames y0
  have h1 : Keeps State.startSpindle_mask s y0 := Keeps.wr (Keeps.refl _ _)
  clear_value y0
  exact Keeps.step (State.senseSpindle_keeps ..) (Keeps.step (State.putSpin_keeps ..) h1)

def State.dropPhase_mask : Nat := State.putSpin_mask ||| State.raise_mask ||| fieldBits [Reg.STN_SP_STATUS_PHASE_LOCKED]

theorem State.dropPhase_keeps (s : State) (n : Nat) : Keeps State.dropPhase_mask s (State.dropPhase s n) := by
  unfold State.dropPhase
  extract_lets +onlyGivenNames y0
  clear_value y0
  extract_lets +onlyGivenNames y1
  have h2 : Keeps State.dropPhase_mask s y1 := Keeps.step (State.putSpin_keeps ..) (Keeps.refl _ _)
  clear_value y1
  refine Keeps.ite ?_ ?_
  · exact Keeps.step (State.raise_keeps ..) (Keeps.clr h2)
  exact h2

def State.shortOn_mask : Nat := State.raise_mask ||| State.bridge_mask ||| State.putSpin_mask ||| fieldBits
    [Reg.STN_SP_STATUS_SHORT]

theorem State.shortOn_keeps (s : State) (n : Nat) : Keeps State.shortOn_mask s (State.shortOn s n) := by
  unfold State.shortOn
  extract_lets +onlyGivenNames y0
  have h1 : Keeps State.shortOn_mask s y0 := Keeps.step (State.raise_keeps ..) (Keeps.step (State.bridge_keeps ..) (Keeps.set1
      (Keeps.refl _ _)))
  clear_value y0
  exact Keeps.step (State.putSpin_keeps ..) h1

def State.pulseBrake_mask : Nat := State.bridge_mask ||| State.putSpin_mask ||| fieldBits [Reg.STN_SP_SPEED_RPM]

theorem State.pulseBrake_keeps (s : State) (n : Nat) : Keeps State.pulseBrake_mask s (State.pulseBrake s n) := by
  unfold State.pulseBrake
  extract_lets +onlyGivenNames y0
  clear_value y0
  refine Keeps.ite ?_ ?_
  · exact Keeps.refl _ _
  extract_lets +onlyGivenNames y1
  clear_value y1
  extract_lets +onlyGivenNames y2
  clear_value y2
  extract_lets +onlyGivenNames y3
  clear_value y3
  extract_lets +onlyGivenNames y4
  have h5 : Keeps State.pulseBrake_mask s y4 := by
    unfold y4
    refine Keeps.ite ?_ ?_
    · exact Keeps.refl _ _
    exact Keeps.step (State.bridge_keeps ..) (Keeps.refl _ _)
  clear_value y4
  extract_lets +onlyGivenNames y6
  clear_value y6
  extract_lets +onlyGivenNames y7
  have h8 : Keeps State.pulseBrake_mask s y7 := by
    unfold y7
    refine Keeps.ite ?_ ?_
    · exact h5
    exact Keeps.step (State.putSpin_keeps ..) h5
  clear_value y7
  exact Keeps.wr h8

def State.brakeSpindle_mask : Nat := State.dropPhase_mask ||| State.spPrm_mask ||| State.bridge_mask ||| State.gateSpeed_mask
    ||| State.shortOn_mask ||| State.setSp_mask ||| State.putSpin_mask ||| fieldBits [Reg.STN_SP_STATUS_AT_SPEED]

theorem State.brakeSpindle_keeps (s : State) (n : Nat) (tracks : Bool) (why : Nat) : Keeps State.brakeSpindle_mask s
    (State.brakeSpindle s n tracks why) := by
  unfold State.brakeSpindle
  extract_lets +onlyGivenNames y0
  clear_value y0
  extract_lets +onlyGivenNames y1
  clear_value y1
  extract_lets +onlyGivenNames y2
  have h3 : Keeps State.brakeSpindle_mask s y2 := Keeps.clr (Keeps.step (State.dropPhase_keeps ..) (Keeps.refl _ _))
  clear_value y2
  extract_lets +onlyGivenNames y4
  have h5 : Keeps State.brakeSpindle_mask s y4 := Keeps.step (State.spPrm_keeps ..) h3
  clear_value y4
  extract_lets +onlyGivenNames y6
  have h7 : Keeps State.brakeSpindle_mask s y6 := by
    unfold y6
    refine Keeps.ite ?_ ?_
    · exact Keeps.step (State.bridge_keeps ..) (Keeps.step (State.gateSpeed_keeps ..) h5)
    exact Keeps.step (State.shortOn_keeps ..) (Keeps.step (State.gateSpeed_keeps ..) h5)
  clear_value y6
  extract_lets +onlyGivenNames y8
  have h9 : Keeps State.brakeSpindle_mask s y8 := Keeps.step (State.setSp_keeps ..) h7
  clear_value y8
  exact Keeps.step (State.putSpin_keeps ..) h9

def State.dropStart_mask : Nat := State.setSp_mask ||| State.spPrm_mask ||| State.gateSpeed_mask ||| State.bridge_mask

theorem State.dropStart_keeps (s : State) (n : Nat) : Keeps State.dropStart_mask s (State.dropStart s n) := by
  unfold State.dropStart
  exact Keeps.step (State.setSp_keeps ..) (Keeps.step (State.spPrm_keeps ..) (Keeps.step (State.gateSpeed_keeps ..) (Keeps.step
      (State.bridge_keeps ..) (Keeps.refl _ _))))

def State.stopSpindle_mask : Nat := State.dropStart_mask ||| State.brakeSpindle_mask

theorem State.stopSpindle_keeps (s : State) (n why : Nat) : Keeps State.stopSpindle_mask s (State.stopSpindle s n why) := by
  unfold State.stopSpindle
  extract_lets +onlyGivenNames y0
  clear_value y0
  extract_lets +onlyGivenNames y1
  clear_value y1
  refine Keeps.ite ?_ ?_
  · exact Keeps.step (State.dropStart_keeps ..) (Keeps.refl _ _)
  refine Keeps.ite ?_ ?_
  · exact Keeps.step (State.brakeSpindle_keeps ..) (Keeps.refl _ _)
  refine Keeps.ite ?_ ?_
  · refine Keeps.ite ?_ ?_
    · exact Keeps.step (State.dropStart_keeps ..) (Keeps.refl _ _)
    exact Keeps.step (State.brakeSpindle_keeps ..) (Keeps.refl _ _)
  refine Keeps.ite ?_ ?_
  · exact Keeps.step (State.brakeSpindle_keeps ..) (Keeps.refl _ _)
  refine Keeps.ite ?_ ?_
  · refine Keeps.ite ?_ ?_
    · exact Keeps.step (State.brakeSpindle_keeps ..) (Keeps.refl _ _)
    exact Keeps.step (State.dropStart_keeps ..) (Keeps.refl _ _)
  refine Keeps.ite ?_ ?_
  · exact Keeps.step (State.dropStart_keeps ..) (Keeps.refl _ _)
  exact Keeps.refl _ _

def State.spindleOff_mask : Nat := State.gateSpeed_mask ||| State.bridge_mask ||| State.dropPhase_mask ||| State.setSp_mask |||
    State.spPrm_mask ||| fieldBits [Reg.STN_SP_STATUS_SHORT, Reg.STN_SP_STATUS_AT_SPEED]

theorem State.spindleOff_keeps (s : State) (n : Nat) : Keeps State.spindleOff_mask s (State.spindleOff s n) := by
  unfold State.spindleOff
  refine Keeps.ite ?_ ?_
  · exact Keeps.refl _ _
  extract_lets +onlyGivenNames y0
  have h1 : Keeps State.spindleOff_mask s y0 := Keeps.step (State.gateSpeed_keeps ..) (Keeps.step (State.bridge_keeps ..)
      (Keeps.step (State.dropPhase_keeps ..) (Keeps.refl _ _)))
  clear_value y0
  extract_lets +onlyGivenNames y2
  have h3 : Keeps State.spindleOff_mask s y2 := Keeps.clr (Keeps.clr h1)
  clear_value y2
  exact Keeps.step (State.setSp_keeps ..) (Keeps.step (State.spPrm_keeps ..) h3)

def State.spindleOn_mask : Nat := State.setSp_mask ||| State.startSpindle_mask

theorem State.spindleOn_keeps (s : State) (n : Nat) : Keeps State.spindleOn_mask s (State.spindleOn s n) := by
  unfold State.spindleOn
  refine Keeps.ite ?_ ?_
  · extract_lets +onlyGivenNames y0
    have h1 : Keeps State.spindleOn_mask s y0 := Keeps.step (State.setSp_keeps ..) (Keeps.refl _ _)
    clear_value y0
    refine Keeps.ite ?_ ?_
    · exact Keeps.step (State.startSpindle_keeps ..) h1
    exact h1
  exact Keeps.refl _ _

def State.spinTarget_mask : Nat := State.stopSpindle_mask ||| State.startSpindle_mask ||| fieldBits [Reg.STN_SP_TARGET_RPM,
    Reg.STN_SP_SPEED_SP_RPM]

theorem State.spinTarget_keeps (s : State) (n rpm : Nat) : Keeps State.spinTarget_mask s (State.spinTarget s n rpm) := by
  unfold State.spinTarget
  extract_lets +onlyGivenNames y0
  have h1 : Keeps State.spinTarget_mask s y0 := Keeps.wr (Keeps.refl _ _)
  clear_value y0
  extract_lets +onlyGivenNames y2
  have h3 : Keeps State.spinTarget_mask s y2 := Keeps.wr h1
  clear_value y2
  extract_lets +onlyGivenNames y4
  clear_value y4
  refine Keeps.ite ?_ ?_
  · exact h3
  refine Keeps.ite ?_ ?_
  · refine Keeps.ite ?_ ?_
    · exact h3
    exact Keeps.step (State.stopSpindle_keeps ..) h3
  refine Keeps.ite ?_ ?_
  · exact Keeps.step (State.startSpindle_keeps ..) h3
  exact h3

def State.stationOff_mask : Nat := State.spindleOff_mask ||| State.headOff_mask

theorem State.stationOff_keeps (s : State) (n : Nat) : Keeps State.stationOff_mask s (State.stationOff s n) := by
  unfold State.stationOff
  exact Keeps.step (State.spindleOff_keeps ..) (Keeps.step (State.headOff_keeps ..) (Keeps.step (State.headOff_keeps ..)
      (Keeps.refl _ _)))

def State.stationOn_mask : Nat := State.spindleOn_mask ||| State.headOn_mask

theorem State.stationOn_keeps (s : State) (n : Nat) : Keeps State.stationOn_mask s (State.stationOn s n) := by
  unfold State.stationOn
  exact Keeps.step (State.spindleOn_keeps ..) (Keeps.step (State.headOn_keeps ..) (Keeps.step (State.headOn_keeps ..)
      (Keeps.refl _ _)))

def State.safeNow_mask : Nat := State.putStn_mask

theorem State.safeNow_keeps (s : State) (n periods : Nat) (after : AfterSafe) : Keeps State.safeNow_mask s (State.safeNow s n
    periods after) := by
  unfold State.safeNow
  extract_lets +onlyGivenNames y0
  clear_value y0
  refine Keeps.ite ?_ ?_
  · exact Keeps.refl _ _
  exact Keeps.step (State.putStn_keeps ..) (Keeps.refl _ _)

def State.failStation_mask : Nat := State.failAll_mask

theorem State.failStation_keeps (s : State) (n : Nat) : Keeps State.failStation_mask s (State.failStation s n) := by
  unfold State.failStation
  exact Keeps.step (State.failAll_keeps ..) (Keeps.refl _ _)

def State.failHead_mask : Nat := State.failAll_mask

theorem State.failHead_keeps (s : State) (h : Nat) : Keeps State.failHead_mask s (State.failHead s h) := by
  unfold State.failHead
  exact Keeps.step (State.failAll_keeps ..) (Keeps.refl _ _)

end Sys2Proof.Machine
end

