-- ==== Sys2Proof/Laws/KeepsModeOps.lean ====
section
/-!
SUPPORT. What the operations of Machine/ModeOps.lean leave as it was, one lemma for each.
-/

set_option Elab.async false

namespace Sys2Proof.Machine

def State.stopDma_mask : Nat := State.putEngine_mask ||| fieldBits [Reg.DMA_CH_STATUS_STATE] ||| partBits [.chanJobs]

theorem State.stopDma_keeps (s : State) : Keeps State.stopDma_mask s (State.stopDma s) := by
  unfold State.stopDma
  extract_lets +onlyGivenNames y0
  have h1 : Keeps State.stopDma_mask s y0 := by
    unfold y0
    refine Keeps.foldl (fun t2 a3 => ?_) ?_
    · extract_lets +onlyGivenNames y4
      clear_value y4
      refine Keeps.foldl (fun t5 a6 => ?_) ?_
      · exact Keeps.wr (Keeps.refl _ _)
      exact Keeps.refl _ _
    exact Keeps.refl _ _
  clear_value y0
  extract_lets +onlyGivenNames y7
  have h8 : Keeps State.stopDma_mask s y7 := by
    unfold y7
    refine Keeps.foldl (fun t9 a10 => ?_) ?_
    · exact Keeps.step (State.putEngine_keeps ..) (Keeps.refl _ _)
    exact h1
  clear_value y7
  exact Keeps.set_chanJobs h8

def State.startSafe_mask : Nat := State.raise_mask ||| fieldBits [Reg.LPE_STATUS_STATE] ||| partBits [.loop]

theorem State.startSafe_keeps (s : State) : Keeps State.startSafe_mask s (State.startSafe s) := by
  unfold State.startSafe
  extract_lets +onlyGivenNames y0
  clear_value y0
  extract_lets +onlyGivenNames y1
  clear_value y1
  extract_lets +onlyGivenNames y2
  have h3 : Keeps State.startSafe_mask s y2 := Keeps.set_loop (Keeps.refl _ _)
  clear_value y2
  exact Keeps.step (State.raise_keeps ..) (Keeps.wr h3)

def State.dropCal_mask : Nat := partBits [.cals]

theorem State.dropCal_keeps (s : State) : Keeps State.dropCal_mask s (State.dropCal s) := by
  unfold State.dropCal
  exact Keeps.set_cals (Keeps.refl _ _)

def State.cinder_mask : Nat := State.failAll_mask ||| State.dropCal_mask ||| State.haltAll_mask ||| State.stopDma_mask |||
    State.startSafe_mask ||| State.raise_mask ||| fieldBits [Reg.GCTL_STATUS_FAULT, Reg.GCTL_STATUS_CINDER_CAUSE,
    Reg.GCTL_STATUS_MODE] ||| partBits [.pw, .ladders, .ladderWait, .heads, .lib]

theorem State.cinder_keeps (s : State) (cause : Nat) : Keeps State.cinder_mask s (State.cinder s cause) := by
  unfold State.cinder
  refine Keeps.ite ?_ ?_
  · exact Keeps.refl _ _
  extract_lets +onlyGivenNames y0
  clear_value y0
  extract_lets +onlyGivenNames y1
  have h2 : Keeps State.cinder_mask s y1 := Keeps.set1 (Keeps.wr (Keeps.refl _ _))
  clear_value y1
  extract_lets +onlyGivenNames y3
  clear_value y3
  extract_lets +onlyGivenNames y4
  have h5 : Keeps State.cinder_mask s y4 := Keeps.set_pw h2
  clear_value y4
  extract_lets +onlyGivenNames y6
  have h7 : Keeps State.cinder_mask s y6 := Keeps.step (State.failAll_keeps ..) (Keeps.set_ladders_ladderWait h5)
  clear_value y6
  extract_lets +onlyGivenNames y8
  have h9 : Keeps State.cinder_mask s y8 := Keeps.step (State.dropCal_keeps ..) (Keeps.step (State.haltAll_keeps ..)
      (Keeps.step (State.stopDma_keeps ..) h7))
  clear_value y8
  extract_lets +onlyGivenNames y10
  clear_value y10
  extract_lets +onlyGivenNames y11
  have h12 : Keeps State.cinder_mask s y11 := Keeps.set_heads_lib h9
  clear_value y11
  extract_lets +onlyGivenNames y13
  have h14 : Keeps State.cinder_mask s y13 := Keeps.step (State.startSafe_keeps ..) (Keeps.wr h12)
  clear_value y13
  extract_lets +onlyGivenNames y15
  have h16 : Keeps State.cinder_mask s y15 := Keeps.step (State.raise_keeps ..) h14
  clear_value y15
  exact Keeps.step (State.raise_keeps ..) h16

end Sys2Proof.Machine
end

