-- ==== Sys2Proof/Laws/KeepsLoop.lean ====
section
/-!
SUPPORT. What the operations of Machine/Loop.lean leave as it was, one lemma for each.
-/

set_option Elab.async false

namespace Sys2Proof.Machine

def State.swapSlot_mask : Nat := State.resetSlot_mask ||| State.putLslot_mask ||| fieldBits [Reg.LPE_SLOT_STAT_SWAP_PENDING,
    Reg.DESC_CTRL_BANK, Reg.LPE_SWAP_PENDING]

theorem State.swapSlot_keeps (s : State) (sl mode : Nat) : Keeps State.swapSlot_mask s (State.swapSlot s sl mode) := by
  unfold State.swapSlot
  extract_lets +onlyGivenNames y0
  clear_value y0
  extract_lets +onlyGivenNames y1
  have h2 : Keeps State.swapSlot_mask s y1 := Keeps.clr (Keeps.wr (Keeps.refl _ _))
  clear_value y1
  extract_lets +onlyGivenNames y3
  clear_value y3
  extract_lets +onlyGivenNames y4
  have h5 : Keeps State.swapSlot_mask s y4 := by
    unfold y4
    refine Keeps.ite ?_ ?_
    · exact Keeps.step (State.resetSlot_keeps ..) h2
    refine Keeps.ite ?_ ?_
    · exact Keeps.step (State.putLslot_keeps ..) h2
    exact h2
  clear_value y4
  extract_lets +onlyGivenNames y6
  clear_value y6
  extract_lets +onlyGivenNames y7
  have h8 : Keeps State.swapSlot_mask s y7 := Keeps.step (State.putLslot_keeps ..) h5
  clear_value y7
  refine Keeps.ite ?_ ?_
  · exact h8
  exact Keeps.clr h8

def State.disableSlot_mask : Nat := State.swapSlot_mask ||| State.putLslot_mask ||| fieldBits [Reg.LPE_SLOT_STAT_RAN,
    Reg.DESC_CTRL_EN, Reg.LPE_STALE_BITS]

theorem State.disableSlot_keeps (s : State) (sl : Nat) : Keeps State.disableSlot_mask s (State.disableSlot s sl) := by
  unfold State.disableSlot
  extract_lets +onlyGivenNames y0
  have h1 : Keeps State.disableSlot_mask s y0 := by
    unfold y0
    split
    · rename_i z2 z3 z4 z5
      exact Keeps.step (State.swapSlot_keeps ..) (Keeps.refl _ _)
    rename_i z6 z7
    exact Keeps.refl _ _
  clear_value y0
  extract_lets +onlyGivenNames y8
  have h9 : Keeps State.disableSlot_mask s y8 := Keeps.clr (Keeps.clr h1)
  clear_value y8
  exact Keeps.step (State.putLslot_keeps ..) (Keeps.slotBit h9)

def State.slotEcc_mask : Nat := State.raise_mask ||| State.disableSlot_mask ||| State.failStation_mask ||| State.safeNow_mask
    ||| State.lpeErr_mask ||| partBits [.loop]

theorem State.slotEcc_keeps (s0 : State) (sl : Nat) : Keeps State.slotEcc_mask s0 (State.slotEcc s0 sl) := by
  unfold State.slotEcc
  extract_lets +onlyGivenNames y0
  have h1 : Keeps State.slotEcc_mask s0 y0 := Keeps.step (State.raise_keeps ..) (Keeps.refl _ _)
  clear_value y0
  refine Keeps.ite ?_ ?_
  · exact h1
  extract_lets +onlyGivenNames y2
  clear_value y2
  extract_lets +onlyGivenNames y3
  have h4 : Keeps State.slotEcc_mask s0 y3 := Keeps.step (State.disableSlot_keeps ..) h1
  clear_value y3
  extract_lets +onlyGivenNames y5
  have h6 : Keeps State.slotEcc_mask s0 y5 := by
    unfold y5
    split
    · rename_i z7 z8
      exact Keeps.step (State.failStation_keeps ..) (Keeps.step (State.safeNow_keeps ..) h4)
    rename_i z9
    exact h4
  clear_value y5
  extract_lets +onlyGivenNames y10
  clear_value y10
  extract_lets +onlyGivenNames y11
  have h12 : Keeps State.slotEcc_mask s0 y11 := by
    unfold y11
    refine Keeps.ite ?_ ?_
    · split
      · rename_i z13 z14
        exact Keeps.set_loop h6
      rename_i z15
      exact h6
    exact h6
  clear_value y11
  exact Keeps.step (State.raise_keeps ..) (Keeps.step (State.lpeErr_keeps ..) h12)

def State.staleRun_mask : Nat := State.putLslot_mask ||| State.raise_mask ||| fieldBits [Reg.LPE_STALE_BITS,
    Reg.LPE_SLOT_STAT_STALE, Reg.LPE_SLOT_STAT_STALE_CNT]

theorem State.staleRun_keeps (s : State) (sl : Nat) (gated : Bool) : KeepsFst State.staleRun_mask s (State.staleRun s sl gated)
    := by
  unfold State.staleRun
  extract_lets +onlyGivenNames y0
  clear_value y0
  extract_lets +onlyGivenNames y1
  have h2 : Keeps State.staleRun_mask s y1 := Keeps.slotBit (Keeps.wrB (Keeps.refl _ _))
  clear_value y1
  refine KeepsFst.ite ?_ ?_
  · exact KeepsFst.mk (Keeps.step (State.putLslot_keeps ..) (Keeps.wr h2))
  extract_lets +onlyGivenNames y3
  have h4 : Keeps State.staleRun_mask s y3 := by
    unfold y3
    refine Keeps.ite ?_ ?_
    · exact h2
    exact Keeps.bump h2
  clear_value y3
  extract_lets +onlyGivenNames y5
  extract_lets +onlyGivenNames y6
  clear_value y6
  refine KeepsFst.ite ?_ ?_
  · exact KeepsFst.mk (Keeps.step (State.raise_keeps ..) (Keeps.step (State.putLslot_keeps ..) h4))
  exact KeepsFst.mk h4

def State.watchPower_mask : Nat := State.putHead_mask

theorem State.watchPower_keeps (s : State) (dest sel : Nat) : Keeps State.watchPower_mask s (State.watchPower s dest sel) := by
  unfold State.watchPower
  extract_lets +onlyGivenNames y0
  clear_value y0
  refine Keeps.ite ?_ ?_
  · extract_lets +onlyGivenNames y1
    clear_value y1
    extract_lets +onlyGivenNames y2
    clear_value y2
    extract_lets +onlyGivenNames y3
    clear_value y3
    extract_lets +onlyGivenNames y4
    clear_value y4
    extract_lets +onlyGivenNames y5
    clear_value y5
    extract_lets +onlyGivenNames y6
    clear_value y6
    exact Keeps.step (State.putHead_keeps ..) (Keeps.refl _ _)
  exact Keeps.refl _ _

def State.endSteps_mask : Nat := State.releaseHead_mask ||| State.putHead_mask

theorem State.endSteps_keeps (s : State) : Keeps State.endSteps_mask s (State.endSteps s) := by
  unfold State.endSteps
  refine Keeps.foldl (fun t0 a1 => ?_) ?_
  · split
    · rename_i z2 z3 z4 z5
      refine Keeps.ite ?_ ?_
      · exact Keeps.step (State.releaseHead_keeps ..) (Keeps.step (State.releaseHead_keeps ..) (Keeps.step (State.putHead_keeps
          ..) (Keeps.refl _ _)))
      exact Keeps.refl _ _
    rename_i z6 z7
    exact Keeps.refl _ _
  exact Keeps.refl _ _

def State.runChain_mask : Nat := State.writeWord_mask ||| State.putAxis_mask ||| State.staleRun_mask ||| State.putLslot_mask
    ||| State.watchPower_mask ||| State.publish_mask ||| fieldBits [Reg.LPE_SLOT_STAT_RAN, Reg.LPE_SLOT_STAT_SEL,
    Reg.LPE_SLOT_STAT_SAT_LO, Reg.LPE_SLOT_STAT_SAT_HI, Reg.LPE_SAT_BITS]

theorem State.runChain_keeps (s : State) (k sl : Nat) : Keeps State.runChain_mask s (State.runChain s k sl) := by
  unfold State.runChain
  extract_lets +onlyGivenNames y0
  clear_value y0
  extract_lets +onlyGivenNames y1
  clear_value y1
  split
  rename_i z2 z3 z4 z5
  extract_lets +onlyGivenNames y6
  clear_value y6
  extract_lets +onlyGivenNames y7
  have h8 : ∀ t9 t10, Keeps State.runChain_mask t9 (y7 t9 t10) := by
    intro t9 t10
    unfold y7
    refine Keeps.ite ?_ ?_
    · exact Keeps.step (State.writeWord_keeps ..) (Keeps.refl _ _)
    refine Keeps.ite ?_ ?_
    · exact Keeps.step (State.putAxis_keeps ..) (Keeps.refl _ _)
    exact Keeps.refl _ _
  clear_value y7
  refine Keeps.ite ?_ ?_
  · refine Keeps.ite ?_ ?_
    · exact Keeps.trans (Keeps.ofFst z5 (KeepsFst.step (State.staleRun_keeps ..) (Keeps.refl _ _))) (h8 _ _)
    exact Keeps.ofFst z5 (KeepsFst.step (State.staleRun_keeps ..) (Keeps.refl _ _))
  extract_lets +onlyGivenNames y11
  clear_value y11
  extract_lets +onlyGivenNames y12
  clear_value y12
  extract_lets +onlyGivenNames y13
  clear_value y13
  extract_lets +onlyGivenNames y14
  have h15 : Keeps State.runChain_mask s y14 := by
    unfold y14
    refine Keeps.ite ?_ ?_
    · exact Keeps.ofFst z5 (KeepsFst.step (State.staleRun_keeps ..) (Keeps.refl _ _))
    exact Keeps.step (State.putLslot_keeps ..) (Keeps.ofFst z5 (KeepsFst.step (State.staleRun_keeps ..) (Keeps.refl _ _)))
  clear_value y14
  extract_lets +onlyGivenNames y16
  extract_lets +onlyGivenNames y17
  extract_lets +onlyGivenNames y18
  have h19 : Keeps State.runChain_mask s y18 := Keeps.set1 (Keeps.wr (Keeps.wrB (Keeps.wrB h15)))
  clear_value y18
  extract_lets +onlyGivenNames y20
  have h21 : Keeps State.runChain_mask s y20 := by
    unfold y20
    refine Keeps.step (State.watchPower_keeps ..) (Keeps.ite ?_ ?_)
    · exact Keeps.slotBit h19
    exact h19
  clear_value y20
  exact Keeps.step (State.publish_keeps ..) (Keeps.trans h21 (h8 _ _))

def State.watchSpindle_mask : Nat := State.putSpin_mask ||| State.dropPhase_mask ||| fieldBits [Reg.STN_SP_SPEED_RPM,
    Reg.STN_SP_SPEED_SP_RPM, Reg.STN_SP_STATUS_AT_SPEED]

theorem State.watchSpindle_keeps (s : State) (n : Nat) (res : Int) : Keeps State.watchSpindle_mask s (State.watchSpindle s n
    res) := by
  unfold State.watchSpindle
  extract_lets +onlyGivenNames y0
  clear_value y0
  extract_lets +onlyGivenNames y1
  clear_value y1
  extract_lets +onlyGivenNames y2
  clear_value y2
  extract_lets +onlyGivenNames y3
  clear_value y3
  extract_lets +onlyGivenNames y4
  clear_value y4
  extract_lets +onlyGivenNames y5
  clear_value y5
  extract_lets +onlyGivenNames y6
  extract_lets +onlyGivenNames y7
  clear_value y7
  extract_lets +onlyGivenNames y8
  extract_lets +onlyGivenNames y9
  clear_value y9
  extract_lets +onlyGivenNames y10
  extract_lets +onlyGivenNames y11
  clear_value y11
  extract_lets +onlyGivenNames y12
  clear_value y12
  extract_lets +onlyGivenNames y13
  have h14 : Keeps State.watchSpindle_mask s y13 := Keeps.step (State.putSpin_keeps ..) (Keeps.refl _ _)
  clear_value y13
  extract_lets +onlyGivenNames y15
  have h16 : Keeps State.watchSpindle_mask s y15 := by
    unfold y15
    refine Keeps.ite ?_ ?_
    · exact h14
    exact Keeps.wrS h14
  clear_value y15
  extract_lets +onlyGivenNames y17
  have h18 : Keeps State.watchSpindle_mask s y17 := Keeps.wr h16
  clear_value y17
  refine Keeps.ite ?_ ?_
  · exact Keeps.step (State.dropPhase_keeps ..) (Keeps.clr h18)
  exact h18

def State.runFoc_mask : Nat := State.writeWord_mask ||| State.staleRun_mask ||| State.putLslot_mask ||| State.publish_mask |||
    State.watchSpindle_mask ||| fieldBits [Reg.LPE_SLOT_STAT_RAN]

theorem State.runFoc_keeps (s : State) (k sl : Nat) (safe : Bool) : Keeps State.runFoc_mask s (State.runFoc s k sl safe) := by
  unfold State.runFoc
  split
  · rename_i z0 z1
    exact Keeps.refl _ _
  rename_i z2 z3 z4
  split
  rename_i z5 z6 z7 z8
  extract_lets +onlyGivenNames y9
  clear_value y9
  refine Keeps.ite ?_ ?_
  · refine Keeps.ite ?_ ?_
    · refine Keeps.foldl (fun t10 a11 => ?_) ?_
      · exact Keeps.step (State.writeWord_keeps ..) (Keeps.refl _ _)
      refine Keeps.ofFst z8 (KeepsFst.ite ?_ ?_)
      · exact KeepsFst.mk (Keeps.refl _ _)
      exact KeepsFst.step (State.staleRun_keeps ..) (Keeps.refl _ _)
    refine Keeps.ofFst z8 (KeepsFst.ite ?_ ?_)
    · exact KeepsFst.mk (Keeps.refl _ _)
    exact KeepsFst.step (State.staleRun_keeps ..) (Keeps.refl _ _)
  extract_lets +onlyGivenNames y12
  clear_value y12
  extract_lets +onlyGivenNames y13
  clear_value y13
  extract_lets +onlyGivenNames y14
  clear_value y14
  extract_lets +onlyGivenNames y15
  clear_value y15
  extract_lets +onlyGivenNames y16
  clear_value y16
  extract_lets +onlyGivenNames y17
  clear_value y17
  extract_lets +onlyGivenNames y18
  clear_value y18
  extract_lets +onlyGivenNames y19
  clear_value y19
  extract_lets +onlyGivenNames y20
  have h21 : Keeps State.runFoc_mask s y20 := by
    unfold y20
    refine Keeps.set1 (Keeps.step (State.putLslot_keeps ..) (Keeps.ofFst z8 (KeepsFst.ite ?_ ?_)))
    · exact KeepsFst.mk (Keeps.refl _ _)
    exact KeepsFst.step (State.staleRun_keeps ..) (Keeps.refl _ _)
  clear_value y20
  extract_lets +onlyGivenNames y22
  have h23 : Keeps State.runFoc_mask s y22 := by
    unfold y22
    refine Keeps.foldl (fun t24 a25 => ?_) ?_
    · exact Keeps.step (State.writeWord_keeps ..) (Keeps.refl _ _)
    exact h21
  clear_value y22
  extract_lets +onlyGivenNames y26
  have h27 : Keeps State.runFoc_mask s y26 := Keeps.step (State.publish_keeps ..) h23
  clear_value y26
  refine Keeps.ite ?_ ?_
  · exact h27
  exact Keeps.step (State.watchSpindle_keeps ..) h27

def State.spindleTick_mask : Nat := State.spCapture_mask ||| State.spPrm_mask ||| State.putSpin_mask ||| State.dropPhase_mask
    ||| partBits [.loop]

theorem State.spindleTick_keeps (s0 : State) (n : Nat) : Keeps State.spindleTick_mask s0 (State.spindleTick s0 n) := by
  unfold State.spindleTick
  extract_lets +onlyGivenNames y0
  have h1 : Keeps State.spindleTick_mask s0 y0 := Keeps.step (State.spCapture_keeps ..) (Keeps.refl _ _)
  clear_value y0
  extract_lets +onlyGivenNames y2
  clear_value y2
  extract_lets +onlyGivenNames y3
  clear_value y3
  refine Keeps.ite ?_ ?_
  · extract_lets +onlyGivenNames y4
    clear_value y4
    exact Keeps.step (State.spPrm_keeps ..) h1
  refine Keeps.ite ?_ ?_
  · extract_lets +onlyGivenNames y5
    clear_value y5
    extract_lets +onlyGivenNames y6
    clear_value y6
    extract_lets +onlyGivenNames y7
    clear_value y7
    extract_lets +onlyGivenNames y8
    clear_value y8
    extract_lets +onlyGivenNames y9
    have h10 : Keeps State.spindleTick_mask s0 y9 := Keeps.step (State.putSpin_keeps ..) h1
    clear_value y9
    exact Keeps.set_loop h10
  refine Keeps.ite ?_ ?_
  · extract_lets +onlyGivenNames y11
    clear_value y11
    extract_lets +onlyGivenNames y12
    clear_value y12
    refine Keeps.ite ?_ ?_
    · extract_lets +onlyGivenNames y13
      clear_value y13
      extract_lets +onlyGivenNames y14
      clear_value y14
      extract_lets +onlyGivenNames y15
      clear_value y15
      extract_lets +onlyGivenNames y16
      clear_value y16
      extract_lets +onlyGivenNames y17
      extract_lets +onlyGivenNames y18
      have h19 : Keeps State.spindleTick_mask s0 y18 := Keeps.step (State.spPrm_keeps ..) h1
      clear_value y18
      exact Keeps.step (State.putSpin_keeps ..) h19
    extract_lets +onlyGivenNames y20
    clear_value y20
    extract_lets +onlyGivenNames y21
    clear_value y21
    extract_lets +onlyGivenNames y22
    clear_value y22
    extract_lets +onlyGivenNames y23
    extract_lets +onlyGivenNames y24
    clear_value y24
    exact Keeps.step (State.spPrm_keeps ..) (Keeps.step (State.dropPhase_keeps ..) (Keeps.step (State.putSpin_keeps ..) h1))
  exact h1

def State.runSlot_mask : Nat := State.swapSlot_mask ||| State.runFoc_mask ||| State.runChain_mask ||| State.spindleTick_mask

theorem State.runSlot_keeps (s : State) (k sl at_ : Nat) : Keeps State.runSlot_mask s (State.runSlot s k sl at_) := by
  unfold State.runSlot
  extract_lets +onlyGivenNames y0
  have h1 : Keeps State.runSlot_mask s y0 := by
    unfold y0
    split
    · rename_i z2 z3 z4 z5
      refine Keeps.ite ?_ ?_
      · exact Keeps.step (State.swapSlot_keeps ..) (Keeps.refl _ _)
      exact Keeps.refl _ _
    rename_i z6 z7
    exact Keeps.refl _ _
  clear_value y0
  refine Keeps.ite ?_ ?_
  · exact Keeps.step (State.runFoc_keeps ..) h1
  extract_lets +onlyGivenNames y8
  have h9 : Keeps State.runSlot_mask s y8 := Keeps.step (State.runChain_keeps ..) h1
  clear_value y8
  split
  · rename_i z10 z11 z12
    exact Keeps.step (State.spindleTick_keeps ..) h9
  rename_i z13 z14
  exact h9

def State.showAccel_mask : Nat := partBits [.axes]

theorem State.showAccel_keeps (s : State) : Keeps State.showAccel_mask s (State.showAccel s) := by
  unfold State.showAccel
  exact Keeps.set_axes (Keeps.refl _ _)

def State.runSlots_mask : Nat := State.runSlot_mask

theorem State.runSlots_keeps : ∀ (k : Nat) (r : List Nat) (s : State) (a : Nat), Keeps State.runSlots_mask s (State.runSlots k
    s a r) := by
  intro k r
  induction r with
  | nil => intro s a; exact Keeps.refl _ _
  | cons x r ih =>
    intro s a
    unfold State.runSlots
    exact Keeps.step (ih ..) (Keeps.step (State.runSlot_keeps ..) (Keeps.refl _ _)) (Nat.or_self _)

def execLoopLaneRun_mask : Nat := State.showAccel_mask ||| State.endSteps_mask ||| State.advancePhase_mask |||
    State.slotEcc_mask ||| State.runFoc_mask ||| State.runSlots_mask ||| fieldBits [Reg.LPE_STATUS_K_LO, Reg.LPE_STATUS_STATE]
    ||| partBits [.loop]

theorem execLoopLaneRun_keeps (l : Fin 32) (bad : List Nat) (s : State) : KeepsRes execLoopLaneRun_mask s (execLoopLaneRun l
    bad s) := by
  unfold execLoopLaneRun
  extract_lets +onlyGivenNames y0
  have h1 : Keeps execLoopLaneRun_mask s y0 := Keeps.step (State.showAccel_keeps ..) (Keeps.step (State.endSteps_keeps ..)
      (Keeps.step (State.advancePhase_keeps ..) (Keeps.refl _ _)))
  clear_value y0
  extract_lets +onlyGivenNames y2
  have h3 : Keeps execLoopLaneRun_mask s y2 := by
    unfold y2
    refine Keeps.foldl (fun t4 a5 => ?_) ?_
    · exact Keeps.step (State.slotEcc_keeps ..) (Keeps.refl _ _)
    exact h1
  clear_value y2
  extract_lets +onlyGivenNames y6
  clear_value y6
  extract_lets +onlyGivenNames y7
  clear_value y7
  extract_lets +onlyGivenNames y8
  clear_value y8
  refine KeepsRes.ite ?_ ?_
  · exact KeepsRes.next h3
  extract_lets +onlyGivenNames y9
  clear_value y9
  extract_lets +onlyGivenNames y10
  have h11 : Keeps execLoopLaneRun_mask s y10 := Keeps.set_loop h3
  clear_value y10
  refine KeepsRes.ite ?_ ?_
  · refine KeepsRes.next (Keeps.wr (Keeps.foldl (fun t12 a13 => ?_) ?_))
    · exact Keeps.step (State.runFoc_keeps ..) (Keeps.refl _ _)
    exact h11
  refine KeepsRes.ite ?_ ?_
  · exact KeepsRes.next (Keeps.wr (Keeps.wr (Keeps.step (State.runSlots_keeps ..) h11)))
  exact KeepsRes.next h11

def execLoopOverrun_mask : Nat := State.advancePhase_mask ||| State.cinder_mask ||| State.raise_mask

theorem execLoopOverrun_keeps (l : Fin 32) (s : State) : KeepsRes execLoopOverrun_mask s (execLoopOverrun l s) := by
  unfold execLoopOverrun
  extract_lets +onlyGivenNames y0
  have h1 : Keeps execLoopOverrun_mask s y0 := Keeps.step (State.advancePhase_keeps ..) (Keeps.refl _ _)
  clear_value y0
  exact KeepsRes.next (Keeps.step (State.cinder_keeps ..) (Keeps.step (State.raise_keeps ..) h1))

def execLoopParamCopy_mask : Nat := State.advancePhase_mask ||| partBits [.loop]

theorem execLoopParamCopy_keeps (s : State) : KeepsRes execLoopParamCopy_mask s (execLoopParamCopy s) := by
  unfold execLoopParamCopy
  extract_lets +onlyGivenNames y0
  have h1 : Keeps execLoopParamCopy_mask s y0 := Keeps.step (State.advancePhase_keeps ..) (Keeps.refl _ _)
  clear_value y0
  extract_lets +onlyGivenNames y2
  clear_value y2
  exact KeepsRes.next (Keeps.set_loop h1)

def State.storeCtrl_mask : Nat := fieldBits [Reg.DESC_CTRL_STALE_MAX, Reg.DESC_CTRL_STALE_ACT, Reg.DESC_CTRL_EWRAP,
    Reg.DESC_CTRL_INTERP, Reg.DESC_CTRL_FF_MODE, Reg.DESC_CTRL_FF_EN, Reg.DESC_CTRL_NBR, Reg.DESC_CTRL_INT_MODE,
    Reg.DESC_CTRL_NSEC, Reg.DESC_CTRL_TYPE, Reg.DESC_CTRL_PHASE, Reg.DESC_CTRL_RATE]

theorem State.storeCtrl_keeps (s : State) (sl ctrl : Nat) : Keeps State.storeCtrl_mask s (State.storeCtrl s sl ctrl) := by
  unfold State.storeCtrl
  extract_lets +onlyGivenNames y0
  refine Keeps.foldlMem (fun t1 a2 m3 => ?_) ?_
  · unfold y0
    exact Keeps.wr (Keeps.refl _ _) (by revert a2; decide +kernel)
  exact Keeps.refl _ _

def State.showLoad_mask : Nat := fieldBits [Reg.LPE_LOAD_PEAK_PHASE, Reg.LPE_LOAD_PEAK, Reg.LPE_SLOT_STAT_EN,
    Reg.LPE_SLOT_STAT_START]

theorem State.showLoad_keeps (s : State) (l : Nat) : Keeps State.showLoad_mask s (State.showLoad s l) := by
  unfold State.showLoad
  split
  rename_i z0 z1 z2 z3
  extract_lets +onlyGivenNames y4
  have h5 : Keeps State.showLoad_mask s y4 := Keeps.wr (Keeps.wr (Keeps.refl _ _))
  clear_value y4
  refine Keeps.foldl (fun t6 a7 => ?_) ?_
  · exact Keeps.wrB (Keeps.wr (Keeps.refl _ _))
  exact h5

def execLoopSlotEnable_mask : Nat := State.storeCtrl_mask ||| State.raise_mask ||| State.lpeErr_mask ||| State.showLoad_mask
    ||| State.putLslot_mask ||| fieldBits [Reg.LPE_SLOT_STAT_RAN, Reg.DESC_CTRL_EN]

theorem execLoopSlotEnable_keeps (sl : Fin 2048) (ctrl : BitVec 32) (s : State) : KeepsRes execLoopSlotEnable_mask s
    (execLoopSlotEnable sl ctrl s) := by
  unfold execLoopSlotEnable
  refine KeepsRes.ite ?_ ?_
  · exact KeepsRes.next (Keeps.refl _ _)
  extract_lets +onlyGivenNames y0
  have h1 : Keeps execLoopSlotEnable_mask s y0 := Keeps.step (State.storeCtrl_keeps ..) (Keeps.refl _ _)
  clear_value y0
  split
  · rename_i z2 z3 z4
    exact KeepsRes.next (Keeps.step (State.raise_keeps ..) (Keeps.step (State.lpeErr_keeps ..) h1))
  rename_i z5 z6
  extract_lets +onlyGivenNames y7
  have h8 : Keeps execLoopSlotEnable_mask s y7 := Keeps.clr (Keeps.set1 h1)
  clear_value y7
  extract_lets +onlyGivenNames y9
  clear_value y9
  extract_lets +onlyGivenNames y10
  clear_value y10
  exact KeepsRes.next (Keeps.step (State.showLoad_keeps ..) (Keeps.step (State.putLslot_keeps ..) h8))

def execLoopSlotDisable_mask : Nat := State.showLoad_mask ||| State.disableSlot_mask ||| State.advanceMod_mask

theorem execLoopSlotDisable_keeps (sl : Fin 2048) (s : State) : KeepsRes execLoopSlotDisable_mask s (execLoopSlotDisable sl s)
    := by
  unfold execLoopSlotDisable
  refine KeepsRes.ite ?_ ?_
  · exact KeepsRes.next (Keeps.step (State.showLoad_keeps ..) (Keeps.step (State.disableSlot_keeps ..) (Keeps.step
      (State.advanceMod_keeps ..) (Keeps.refl _ _))))
  exact KeepsRes.next (Keeps.refl _ _)

def execLoopDescWrite_mask : Nat := State.lpeErr_mask ||| State.storeCtrl_mask |||
  fieldBits ((((List.range 16).map descWordFields).flatten).map Prod.fst)

theorem execLoopDescWrite_keeps (sl : Fin 2048) (w : Fin 16) (data : BitVec 32) (s : State) :
    KeepsRes execLoopDescWrite_mask s (execLoopDescWrite sl w data s) := by
  have hm : ∀ w : Fin 16, ∀ p ∈ descWordFields w, execLoopDescWrite_mask.testBit (p.1.id % 8192) = true := by decide +kernel
  unfold execLoopDescWrite
  refine KeepsRes.ite (KeepsRes.ite (KeepsRes.next (Keeps.refl _ _))
    (KeepsRes.next (Keeps.step (State.lpeErr_keeps ..) (Keeps.refl _ _) (by decide +kernel)))) (KeepsRes.ite
    (KeepsRes.next (Keeps.step (State.storeCtrl_keeps ..) (Keeps.refl _ _) (by decide +kernel)))
    (KeepsRes.next (Keeps.foldlMem (fun t a ha => Keeps.wr (Keeps.refl _ _) (hm w a ha)) (Keeps.refl _ _))))

def execLoopBankWrite_mask : Nat := State.lpeErr_mask ||| fieldBits [Reg.LPE_BANK_WORD]

theorem execLoopBankWrite_keeps (sl : Fin 2048) (bank : Fin 2) (w : Fin 64) (data : BitVec 32) (s : State) : KeepsRes
    execLoopBankWrite_mask s (execLoopBankWrite sl bank w data s) := by
  unfold execLoopBankWrite
  refine KeepsRes.ite ?_ ?_
  · exact KeepsRes.next (Keeps.step (State.lpeErr_keeps ..) (Keeps.refl _ _))
  refine KeepsRes.ite ?_ ?_
  · exact KeepsRes.next (Keeps.step (State.lpeErr_keeps ..) (Keeps.refl _ _))
  exact KeepsRes.next (Keeps.wr (Keeps.refl _ _))

def State.requestSwap_mask : Nat := State.putLslot_mask ||| State.swapSlot_mask ||| fieldBits [Reg.LPE_SWAP_MODE,
    Reg.LPE_SWAP_PENDING, Reg.LPE_SLOT_STAT_SWAP_PENDING]

theorem State.requestSwap_keeps (s : State) (sls : List Nat) (mode : Nat) : Keeps State.requestSwap_mask s (State.requestSwap s
    sls mode) := by
  unfold State.requestSwap
  extract_lets +onlyGivenNames y0
  have h1 : Keeps State.requestSwap_mask s y0 := Keeps.wr (Keeps.refl _ _)
  clear_value y0
  refine Keeps.foldl (fun t2 a3 => ?_) ?_
  · refine Keeps.ite ?_ ?_
    · exact Keeps.set1 (Keeps.set1 (Keeps.step (State.putLslot_keeps ..) (Keeps.refl _ _)))
    exact Keeps.step (State.swapSlot_keeps ..) (Keeps.refl _ _)
  exact h1

def execLoopSwapSlot_mask : Nat := State.lpeErr_mask ||| State.requestSwap_mask ||| fieldBits [Reg.LPE_SWAP_GROUP,
    Reg.LPE_SWAP_SLOT]

theorem execLoopSwapSlot_keeps (sl : Fin 2048) (mode : Fin 4) (s : State) : KeepsRes execLoopSwapSlot_mask s (execLoopSwapSlot
    sl mode s) := by
  unfold execLoopSwapSlot
  refine KeepsRes.ite ?_ ?_
  · exact KeepsRes.next (Keeps.step (State.lpeErr_keeps ..) (Keeps.refl _ _))
  exact KeepsRes.next (Keeps.step (State.requestSwap_keeps ..) (Keeps.clr (Keeps.wr (Keeps.refl _ _))))

def execLoopSwapGroup_mask : Nat := State.lpeErr_mask ||| State.requestSwap_mask ||| fieldBits [Reg.LPE_SWAP_GROUP]

theorem execLoopSwapGroup_keeps (mode : Fin 4) (s : State) : KeepsRes execLoopSwapGroup_mask s (execLoopSwapGroup mode s) := by
  unfold execLoopSwapGroup
  refine KeepsRes.ite ?_ ?_
  · exact KeepsRes.next (Keeps.step (State.lpeErr_keeps ..) (Keeps.refl _ _))
  exact KeepsRes.next (Keeps.step (State.requestSwap_keeps ..) (Keeps.set1 (Keeps.refl _ _)))

def execLoopSwapExecute_mask : Nat := State.swapSlot_mask ||| State.advanceTo_mask

theorem execLoopSwapExecute_keeps (sl : Fin 2048) (s : State) : KeepsRes execLoopSwapExecute_mask s (execLoopSwapExecute sl s)
    := by
  unfold execLoopSwapExecute
  split
  · rename_i z0 z1 z2 z3
    exact KeepsRes.next (Keeps.step (State.swapSlot_keeps ..) (Keeps.step (State.advanceTo_keeps ..) (Keeps.refl _ _)))
  rename_i z4 z5
  exact KeepsRes.next (Keeps.refl _ _)

def execLoopSatClear_mask : Nat := fieldBits [Reg.LPE_SAT_BITS]

theorem execLoopSatClear_keeps (s : State) : KeepsRes execLoopSatClear_mask s (execLoopSatClear s) := by
  unfold execLoopSatClear
  refine KeepsRes.next (Keeps.foldl (fun t0 a1 => ?_) ?_)
  · exact Keeps.wr (Keeps.refl _ _)
  exact Keeps.refl _ _

def execSafeProgramDone_mask : Nat := State.advanceTo_mask ||| State.raise_mask ||| fieldBits [Reg.LPE_STATUS_STATE] |||
    partBits [.loop]

theorem execSafeProgramDone_keeps (s : State) : KeepsRes execSafeProgramDone_mask s (execSafeProgramDone s) := by
  unfold execSafeProgramDone
  split
  · rename_i z0 z1
    exact KeepsRes.next (Keeps.refl _ _)
  rename_i z2 z3 z4
  refine KeepsRes.ite ?_ ?_
  · exact KeepsRes.next (Keeps.refl _ _)
  extract_lets +onlyGivenNames y5
  have h6 : Keeps execSafeProgramDone_mask s y5 := by
    unfold y5
    refine Keeps.ite ?_ ?_
    · exact Keeps.refl _ _
    exact Keeps.step (State.advanceTo_keeps ..) (Keeps.refl _ _)
  clear_value y5
  extract_lets +onlyGivenNames y7
  clear_value y7
  extract_lets +onlyGivenNames y8
  have h9 : Keeps execSafeProgramDone_mask s y8 := Keeps.set_loop h6
  clear_value y8
  exact KeepsRes.next (Keeps.step (State.raise_keeps ..) (Keeps.wr h9))

end Sys2Proof.Machine
end

