-- ==== Sys2Proof/Laws/KeepsHeads.lean ====
section
/-!
SUPPORT. What the operations of Machine/Heads.lean leave as it was, one lemma for each.
-/

set_option Elab.async false

namespace Sys2Proof.Machine

def State.abandonCal_mask : Nat := State.raise_mask ||| partBits [.cals]

theorem State.abandonCal_keeps (s : State) (kind inst : Nat) : Keeps State.abandonCal_mask s (State.abandonCal s kind inst) :=
    by
  unfold State.abandonCal
  extract_lets +onlyGivenNames y0
  clear_value y0
  extract_lets +onlyGivenNames y1
  clear_value y1
  refine Keeps.ite ?_ ?_
  · extract_lets +onlyGivenNames y2
    have h3 : Keeps State.abandonCal_mask s y2 := Keeps.set_cals (Keeps.refl _ _)
    clear_value y2
    exact Keeps.step (State.raise_keeps ..) h3
  exact Keeps.refl _ _

def State.armCal_mask : Nat := partBits [.cals]

theorem State.armCal_keeps (s : State) (kind inst : Nat) : Keeps State.armCal_mask s (State.armCal s kind inst) := by
  unfold State.armCal
  exact Keeps.set_cals (Keeps.refl _ _)

def State.abandonHeadCal_mask : Nat := State.abandonCal_mask

theorem State.abandonHeadCal_keeps (s : State) (h : Nat) : Keeps State.abandonHeadCal_mask s (State.abandonHeadCal s h) := by
  unfold State.abandonHeadCal
  exact Keeps.step (State.abandonCal_keeps ..) (Keeps.step (State.abandonCal_keeps ..) (Keeps.refl _ _))

def State.headGo_mask : Nat := fieldBits [Reg.STN_HD_CMD_OP, Reg.STN_HD_CMD_BUSY, Reg.STN_HD_CMD_RESULT]

theorem State.headGo_keeps {m : Nat} (s : State) (h op : Nat) (ok : Bool) (f : State → State) (hf : ∀ t, Keeps m t (f t))
    (hm : State.headGo_mask ||| m = m := by decide +kernel) : Keeps m s (s.headGo h op ok f) := by
  unfold State.headGo
  extract_lets x
  have hx : Keeps m s x := Keeps.wr (Keeps.refl _ _) (testBit_super hm (by decide +kernel))
  exact Keeps.ite hx (Keeps.ite (Keeps.trans (Keeps.set1 hx (testBit_super hm (by decide +kernel))) (hf _))
    (Keeps.wr hx (testBit_super hm (by decide +kernel))))

def execHeadAcquire_mask : Nat := State.headGo_mask ||| State.acquire_mask

theorem execHeadAcquire_keeps (n : Fin 128) (side : Fin 2) (s : State) : KeepsRes execHeadAcquire_mask s (execHeadAcquire n
    side s) := by
  unfold execHeadAcquire
  extract_lets +onlyGivenNames y0
  clear_value y0
  extract_lets +onlyGivenNames y1
  clear_value y1
  refine KeepsRes.next (Keeps.trans ?_ (State.headGo_keeps _ _ _ _ _ (fun t2 => ?_)))
  · exact Keeps.refl _ _
  exact Keeps.step (State.acquire_keeps ..) (Keeps.refl _ _)

def execHeadSeek_mask : Nat := State.headGo_mask ||| State.startSeek_mask

theorem execHeadSeek_keeps (n : Fin 128) (side : Fin 2) (s : State) : KeepsRes execHeadSeek_mask s (execHeadSeek n side s) := by
  unfold execHeadSeek
  extract_lets +onlyGivenNames y0
  clear_value y0
  refine KeepsRes.next (Keeps.trans ?_ (State.headGo_keeps _ _ _ _ _ (fun t1 => ?_)))
  · exact Keeps.refl _ _
  exact Keeps.step (State.startSeek_keeps ..) (Keeps.refl _ _)

def execHeadLayer_mask : Nat := State.headGo_mask ||| State.startLayer_mask ||| State.abandonHeadCal_mask

theorem execHeadLayer_keeps (n : Fin 128) (side : Fin 2) (s : State) : KeepsRes execHeadLayer_mask s (execHeadLayer n side s)
    := by
  unfold execHeadLayer
  extract_lets +onlyGivenNames y0
  clear_value y0
  refine KeepsRes.next (Keeps.trans ?_ (State.headGo_keeps _ _ _ _ _ (fun t1 => ?_)))
  · exact Keeps.refl _ _
  exact Keeps.step (State.startLayer_keeps ..) (Keeps.step (State.abandonHeadCal_keeps ..) (Keeps.refl _ _))

def execHeadPark_mask : Nat := State.headGo_mask ||| State.headResult_mask ||| State.parkHead_mask |||
    State.abandonHeadCal_mask ||| State.putHead_mask ||| fieldBits [Reg.STN_HD_CMD_BUSY]

theorem execHeadPark_keeps (n : Fin 128) (side : Fin 2) (s : State) : KeepsRes execHeadPark_mask s (execHeadPark n side s) := by
  unfold execHeadPark
  extract_lets +onlyGivenNames y0
  clear_value y0
  extract_lets +onlyGivenNames y1
  clear_value y1
  extract_lets +onlyGivenNames y2
  clear_value y2
  refine KeepsRes.next (Keeps.trans ?_ (State.headGo_keeps _ _ _ _ _ (fun t3 => ?_)))
  · exact Keeps.refl _ _
  refine Keeps.ite ?_ ?_
  · exact Keeps.step (State.headResult_keeps ..) (Keeps.refl _ _)
  extract_lets +onlyGivenNames y5
  have h6 : Keeps execHeadPark_mask t3 y5 := Keeps.step (State.parkHead_keeps ..) (Keeps.step (State.abandonHeadCal_keeps ..)
      (Keeps.refl _ _))
  clear_value y5
  exact Keeps.set1 (Keeps.step (State.putHead_keeps ..) h6)

def execHeadOpc_mask : Nat := State.headGo_mask ||| State.startOpc_mask

theorem execHeadOpc_keeps (n : Fin 128) (side : Fin 2) (s : State) : KeepsRes execHeadOpc_mask s (execHeadOpc n side s) := by
  unfold execHeadOpc
  extract_lets +onlyGivenNames y0
  clear_value y0
  refine KeepsRes.next (Keeps.trans ?_ (State.headGo_keeps _ _ _ _ _ (fun t1 => ?_)))
  · exact Keeps.refl _ _
  exact Keeps.step (State.startOpc_keeps ..) (Keeps.refl _ _)

def execHeadClearFault_mask : Nat := State.headGo_mask ||| State.headResult_mask ||| State.setHd_mask

theorem execHeadClearFault_keeps (n : Fin 128) (side : Fin 2) (s : State) : KeepsRes execHeadClearFault_mask s
    (execHeadClearFault n side s) := by
  unfold execHeadClearFault
  extract_lets +onlyGivenNames y0
  clear_value y0
  refine KeepsRes.next (Keeps.trans ?_ (State.headGo_keeps _ _ _ _ _ (fun t1 => ?_)))
  · exact Keeps.refl _ _
  exact Keeps.step (State.headResult_keeps ..) (Keeps.step (State.setHd_keeps ..) (Keeps.refl _ _))

def execSeekRequest_mask : Nat := State.askHead_mask

theorem execSeekRequest_keeps (n : Fin 128) (side : Fin 2) (slot : Nat) (cmd : Option (Nat × Nat)) (s : State) : KeepsRes
    execSeekRequest_mask s (execSeekRequest n side slot cmd s) := by
  unfold execSeekRequest
  extract_lets +onlyGivenNames y0
  clear_value y0
  exact KeepsRes.next (Keeps.step (State.askHead_keeps ..) (Keeps.refl _ _))

def execLayerJumpRequest_mask : Nat := State.askHead_mask ||| State.abandonHeadCal_mask

theorem execLayerJumpRequest_keeps (n : Fin 128) (side : Fin 2) (layer : Fin 16) (cmd : Option (Nat × Nat)) (s : State) :
    KeepsRes execLayerJumpRequest_mask s (execLayerJumpRequest n side layer cmd s) := by
  unfold execLayerJumpRequest
  extract_lets +onlyGivenNames y0
  clear_value y0
  exact KeepsRes.next (Keeps.step (State.askHead_keeps ..) (Keeps.step (State.abandonHeadCal_keeps ..) (Keeps.refl _ _)))

def State.oneTrack_mask : Nat := State.stepTrack_mask ||| State.putHead_mask ||| fieldBits [Reg.SLC_STAT_COUNT]

theorem State.oneTrack_keeps (s : State) (h : Nat) (inward : Bool) : Keeps State.oneTrack_mask s (State.oneTrack s h inward) :=
    by
  unfold State.oneTrack
  refine Keeps.ite ?_ ?_
  · exact Keeps.refl _ _
  extract_lets +onlyGivenNames y0
  clear_value y0
  extract_lets +onlyGivenNames y1
  clear_value y1
  extract_lets +onlyGivenNames y2
  clear_value y2
  extract_lets +onlyGivenNames y3
  have h4 : Keeps State.oneTrack_mask s y3 := Keeps.step (State.stepTrack_keeps ..) (Keeps.refl _ _)
  clear_value y3
  extract_lets +onlyGivenNames y5
  clear_value y5
  extract_lets +onlyGivenNames y6
  have h7 : Keeps State.oneTrack_mask s y6 := Keeps.step (State.putHead_keeps ..) h4
  clear_value y6
  split
  · rename_i z8 z9 z10
    exact Keeps.bump h7
  rename_i z11 z12
  exact h7

def State.askStep_mask : Nat := State.putHead_mask

theorem State.askStep_keeps (s : State) (h : Nat) (inward : Bool) : Keeps State.askStep_mask s (State.askStep s h inward) := by
  unfold State.askStep
  exact Keeps.step (State.putHead_keeps ..) (Keeps.refl _ _)

def execOneTrackStep_mask : Nat := State.oneTrack_mask ||| State.putHead_mask

theorem execOneTrackStep_keeps (n : Fin 128) (side : Fin 2) (s : State) : KeepsRes execOneTrackStep_mask s (execOneTrackStep n
    side s) := by
  unfold execOneTrackStep
  extract_lets +onlyGivenNames y0
  clear_value y0
  extract_lets +onlyGivenNames y1
  clear_value y1
  split
  · rename_i z2 z3
    exact KeepsRes.next (Keeps.refl _ _)
  rename_i z4 z5 z6
  refine KeepsRes.ite ?_ ?_
  · exact KeepsRes.next (Keeps.refl _ _)
  exact KeepsRes.next (Keeps.step (State.oneTrack_keeps ..) (Keeps.step (State.putHead_keeps ..) (Keeps.refl _ _)))

def State.enterStage_mask : Nat := State.putHead_mask ||| State.setHd_mask ||| State.focusSweep_mask ||| State.readPowerOn_mask
    ||| State.moveRelay_mask

theorem State.enterStage_keeps (s : State) (h stage : Nat) : Keeps State.enterStage_mask s (State.enterStage s h stage) := by
  unfold State.enterStage
  extract_lets +onlyGivenNames y0
  clear_value y0
  extract_lets +onlyGivenNames y1
  clear_value y1
  extract_lets +onlyGivenNames y2
  clear_value y2
  extract_lets +onlyGivenNames y3
  clear_value y3
  extract_lets +onlyGivenNames y4
  have h5 : Keeps State.enterStage_mask s y4 := Keeps.step (State.putHead_keeps ..) (Keeps.refl _ _)
  clear_value y4
  extract_lets +onlyGivenNames y6
  have h7 : ∀ t8 t9, Keeps State.enterStage_mask t8 (y6 t8 t9) := by
    intro t8 t9
    unfold y6
    refine Keeps.ite ?_ ?_
    · exact Keeps.refl _ _
    exact Keeps.step (State.setHd_keeps ..) (Keeps.refl _ _)
  clear_value y6
  extract_lets +onlyGivenNames y10
  clear_value y10
  split
  · rename_i z11
    extract_lets +onlyGivenNames y12
    have h13 : Keeps State.enterStage_mask s y12 := Keeps.step (State.focusSweep_keeps ..) h5
    clear_value y12
    refine Keeps.ite ?_ ?_
    · exact Keeps.step (State.setHd_keeps ..) h13
    exact h13
  · rename_i z14
    exact Keeps.trans h5 (h7 _ _)
  · rename_i z15
    exact Keeps.trans h5 (h7 _ _)
  · rename_i z16
    exact Keeps.trans h5 (h7 _ _)
  · rename_i z17
    exact Keeps.trans (Keeps.step (State.readPowerOn_keeps ..) h5) (h7 _ _)
  · rename_i z18
    exact Keeps.trans (Keeps.step (State.moveRelay_keeps ..) h5) (h7 _ _)
  rename_i z19 z20 z21 z22 z23 z24 z25
  exact h5

def State.addrLock_mask : Nat := State.putHead_mask ||| fieldBits [Reg.STN_HD_POS_SLOT, Reg.STN_HD_POS_VALID,
    Reg.STN_HD_STATUS_CLK_LOCK, Reg.STN_HD_POS_LEADIN]

theorem State.addrLock_keeps (s : State) (h w : Nat) : Keeps State.addrLock_mask s (State.addrLock s h w) := by
  unfold State.addrLock
  extract_lets +onlyGivenNames y0
  clear_value y0
  extract_lets +onlyGivenNames y1
  have h2 : Keeps State.addrLock_mask s y1 := Keeps.wr (Keeps.set1 (Keeps.set1 (Keeps.refl _ _)))
  clear_value y1
  extract_lets +onlyGivenNames y3
  have h4 : Keeps State.addrLock_mask s y3 := Keeps.wrB h2
  clear_value y3
  exact Keeps.step (State.putHead_keeps ..) h4

def State.acqFail_mask : Nat := State.failHead_mask ||| State.faultHead_mask

theorem State.acqFail_keeps (s : State) (h why : Nat) : Keeps State.acqFail_mask s (State.acqFail s h why) := by
  unfold State.acqFail
  exact Keeps.step (State.failHead_keeps ..) (Keeps.step (State.faultHead_keeps ..) (Keeps.refl _ _))

def execAcqStageLocked_mask : Nat := State.enterStage_mask ||| State.acqFail_mask ||| State.raise_mask ||| State.addrLock_mask
    ||| fieldBits [Reg.STN_HD_STATUS_FOC_LOCK, Reg.STN_HD_STATUS_TRK_LOCK]

theorem execAcqStageLocked_keeps (n : Fin 128) (side : Fin 2) (w1 w2 : BitVec 64) (apart : Nat) (s : State) : KeepsRes
    execAcqStageLocked_mask s (execAcqStageLocked n side w1 w2 apart s) := by
  unfold execAcqStageLocked
  extract_lets +onlyGivenNames y0
  clear_value y0
  extract_lets +onlyGivenNames y1
  clear_value y1
  refine KeepsRes.ite ?_ ?_
  · exact KeepsRes.next (Keeps.refl _ _)
  split
  · rename_i z2 z3
    refine KeepsRes.ite ?_ ?_
    · exact KeepsRes.next (Keeps.step (State.enterStage_keeps ..) (Keeps.set1 (Keeps.refl _ _)))
    exact KeepsRes.next (Keeps.refl _ _)
  · rename_i z4 z5
    refine KeepsRes.ite ?_ ?_
    · exact KeepsRes.next (Keeps.step (State.enterStage_keeps ..) (Keeps.set1 (Keeps.refl _ _)))
    exact KeepsRes.next (Keeps.refl _ _)
  · rename_i z6 z7
    refine KeepsRes.ite ?_ ?_
    · exact KeepsRes.next (Keeps.refl _ _)
    refine KeepsRes.ite ?_ ?_
    · exact KeepsRes.next (Keeps.step (State.acqFail_keeps ..) (Keeps.step (State.raise_keeps ..) (Keeps.refl _ _)))
    refine KeepsRes.ite ?_ ?_
    · exact KeepsRes.next (Keeps.step (State.enterStage_keeps ..) (Keeps.step (State.addrLock_keeps ..) (Keeps.refl _ _)))
    exact KeepsRes.next (Keeps.refl _ _)
  · rename_i z8 z9
    refine KeepsRes.ite ?_ ?_
    · exact KeepsRes.next (Keeps.refl _ _)
    refine KeepsRes.ite ?_ ?_
    · exact KeepsRes.next (Keeps.step (State.enterStage_keeps ..) (Keeps.refl _ _))
    exact KeepsRes.next (Keeps.step (State.acqFail_keeps ..) (Keeps.step (State.raise_keeps ..) (Keeps.refl _ _)))
  · rename_i z10 z11
    refine KeepsRes.ite ?_ ?_
    · exact KeepsRes.next (Keeps.step (State.enterStage_keeps ..) (Keeps.refl _ _))
    exact KeepsRes.next (Keeps.refl _ _)
  rename_i z12 z13 z14 z15 z16 z17
  exact KeepsRes.next (Keeps.refl _ _)

def State.tryAgain_mask : Nat := State.putHead_mask ||| State.gateHead_mask ||| State.gateTrack_mask

theorem State.tryAgain_keeps (s : State) (h : Nat) : Keeps State.tryAgain_mask s (State.tryAgain s h) := by
  unfold State.tryAgain
  extract_lets +onlyGivenNames y0
  clear_value y0
  extract_lets +onlyGivenNames y1
  have h2 : Keeps State.tryAgain_mask s y1 := Keeps.step (State.putHead_keeps ..) (Keeps.refl _ _)
  clear_value y1
  split
  · rename_i z3 z4
    exact Keeps.step (State.gateHead_keeps ..) h2
  · rename_i z5 z6
    exact Keeps.step (State.gateTrack_keeps ..) h2
  · rename_i z7 z8
    exact Keeps.step (State.gateTrack_keeps ..) h2
  rename_i z9 z10 z11 z12
  exact h2

def execAcqStageTimeout_mask : Nat := State.focusSweep_mask ||| State.advanceTo_mask ||| State.setHd_mask |||
    State.tryAgain_mask ||| State.acqFail_mask ||| State.raise_mask ||| State.draw_mask

theorem execAcqStageTimeout_keeps (n : Fin 128) (side : Fin 2) (s : State) : KeepsRes execAcqStageTimeout_mask s
    (execAcqStageTimeout n side s) := by
  unfold execAcqStageTimeout
  extract_lets +onlyGivenNames y0
  clear_value y0
  extract_lets +onlyGivenNames y1
  clear_value y1
  extract_lets +onlyGivenNames y2
  clear_value y2
  extract_lets +onlyGivenNames y3
  clear_value y3
  refine KeepsRes.ite ?_ ?_
  · exact KeepsRes.next (Keeps.refl _ _)
  split
  · rename_i z4 z5 z6
    extract_lets +onlyGivenNames y7
    have h8 : Keeps execAcqStageTimeout_mask s y7 := Keeps.step (State.focusSweep_keeps ..) (Keeps.step (State.advanceTo_keeps
        ..) (Keeps.refl _ _))
    clear_value y7
    refine KeepsRes.next (Keeps.ite ?_ ?_)
    · exact Keeps.step (State.setHd_keeps ..) h8
    exact h8
  rename_i z9 z10
  extract_lets +onlyGivenNames y11
  have h12 : Keeps execAcqStageTimeout_mask s y11 := Keeps.step (State.advanceTo_keeps ..) (Keeps.refl _ _)
  clear_value y11
  refine KeepsRes.ite ?_ ?_
  · exact KeepsRes.next (Keeps.step (State.tryAgain_keeps ..) h12)
  refine KeepsRes.ite ?_ ?_
  · exact KeepsRes.next (Keeps.step (State.acqFail_keeps ..) (Keeps.step (State.raise_keeps ..) h12))
  refine KeepsRes.ite ?_ ?_
  · exact KeepsRes.next (Keeps.step (State.acqFail_keeps ..) (Keeps.step (State.raise_keeps ..) h12))
  split
  rename_i z13 z14 z15 z16
  exact KeepsRes.next (Keeps.step (State.acqFail_keeps ..) (Keeps.step (State.raise_keeps ..) (Keeps.ofSnd z16 (KeepsSnd.step
      (State.draw_keeps ..) h12))))

def State.loadAlign_mask : Nat := State.draw_mask ||| fieldBits [Reg.SLC_ALIGN_TRAIL_ALIGN, Reg.SLC_ALIGN_LEAD_ALIGN]

theorem State.loadAlign_keeps (s : State) (sl : Nat) : Keeps State.loadAlign_mask s (State.loadAlign s sl) := by
  unfold State.loadAlign
  split
  rename_i z0 z1 z2 z3
  split
  rename_i z4 z5 z6 z7
  exact Keeps.wrS (Keeps.wrS (Keeps.ofSnd z7 (KeepsSnd.step (State.draw_keeps ..) (Keeps.ofSnd z3 (KeepsSnd.step
      (State.draw_keeps ..) (Keeps.refl _ _))))))

def State.landed_mask : Nat := State.putHead_mask ||| State.opcLanded_mask ||| State.loadAlign_mask ||| State.nextReq_mask |||
    State.opDone_mask

theorem State.landed_keeps (s : State) (h : Nat) : Keeps State.landed_mask s (State.landed s h) := by
  unfold State.landed
  extract_lets +onlyGivenNames y0
  clear_value y0
  split
  · rename_i z1 z2 z3
    refine Keeps.ite ?_ ?_
    · exact Keeps.step (State.putHead_keeps ..) (Keeps.refl _ _)
    refine Keeps.ite ?_ ?_
    · exact Keeps.step (State.opcLanded_keeps ..) (Keeps.refl _ _)
    extract_lets +onlyGivenNames y4
    have h5 : Keeps State.landed_mask s y4 := by
      unfold y4
      split
      · rename_i z6 z7 z8
        exact Keeps.step (State.loadAlign_keeps ..) (Keeps.refl _ _)
      rename_i z9 z10
      exact Keeps.refl _ _
    clear_value y4
    exact Keeps.step (State.nextReq_keeps ..) (Keeps.step (State.opDone_keeps ..) h5)
  rename_i z11 z12
  exact Keeps.refl _ _

def execSeekJumpDone_mask : Nat := State.freeTrack_mask ||| State.advanceTo_mask ||| State.landed_mask ||| State.putHead_mask

theorem execSeekJumpDone_keeps (n : Fin 128) (side : Fin 2) (s : State) : KeepsRes execSeekJumpDone_mask s (execSeekJumpDone n
    side s) := by
  unfold execSeekJumpDone
  extract_lets +onlyGivenNames y0
  clear_value y0
  extract_lets +onlyGivenNames y1
  clear_value y1
  refine KeepsRes.ite ?_ ?_
  · exact KeepsRes.next (Keeps.refl _ _)
  extract_lets +onlyGivenNames y2
  have h3 : Keeps execSeekJumpDone_mask s y2 := Keeps.step (State.freeTrack_keeps ..) (Keeps.step (State.advanceTo_keeps ..)
      (Keeps.refl _ _))
  clear_value y2
  exact KeepsRes.next (Keeps.step (State.landed_keeps ..) (Keeps.step (State.putHead_keeps ..) h3))

def State.showSp_mask : Nat := fieldBits [Reg.STN_SP_SPEED_SP_RPM]

theorem State.showSp_keeps (s : State) (n : Nat) : Keeps State.showSp_mask s (State.showSp s n) := by
  unfold State.showSp
  exact Keeps.wr (Keeps.refl _ _)

def State.endReread_mask : Nat := State.headPrm_mask ||| State.putSlice_mask ||| State.eqPut_mask ||| State.showSp_mask

theorem State.endReread_keeps (s : State) (l : Ladder) : Keeps State.endReread_mask s (State.endReread s l) := by
  unfold State.endReread
  extract_lets +onlyGivenNames y0
  have h1 : Keeps State.endReread_mask s y0 := Keeps.step (State.headPrm_keeps ..) (Keeps.step (State.headPrm_keeps ..)
      (Keeps.refl _ _))
  clear_value y0
  extract_lets +onlyGivenNames y2
  clear_value y2
  extract_lets +onlyGivenNames y3
  have h4 : Keeps State.endReread_mask s y3 := by
    unfold y3
    refine Keeps.ite ?_ ?_
    · exact h1
    exact Keeps.step (State.putSlice_keeps ..) (Keeps.step (State.eqPut_keeps ..) h1)
  clear_value y3
  exact Keeps.step (State.showSp_keeps ..) h4

def State.seekFail_mask : Nat := State.seekMove_mask ||| State.putHead_mask ||| State.acqFail_mask ||| State.raise_mask |||
    State.endReread_mask ||| State.headResult_mask ||| State.fail_mask ||| State.enterRecover_mask ||| partBits [.ladders]

theorem State.seekFail_keeps (s : State) (h : Nat) (r : HReq) (j : Int) : Keeps State.seekFail_mask s (State.seekFail s h r j)
    := by
  unfold State.seekFail
  refine Keeps.ite ?_ ?_
  · extract_lets +onlyGivenNames y0
    clear_value y0
    refine Keeps.ite ?_ ?_
    · exact Keeps.step (State.seekMove_keeps ..) (Keeps.step (State.putHead_keeps ..) (Keeps.refl _ _))
    exact Keeps.step (State.acqFail_keeps ..) (Keeps.step (State.raise_keeps ..) (Keeps.refl _ _))
  extract_lets +onlyGivenNames y1
  have h2 : Keeps State.seekFail_mask s y1 := Keeps.step (State.raise_keeps ..) (Keeps.refl _ _)
  clear_value y1
  extract_lets +onlyGivenNames y3
  clear_value y3
  extract_lets +onlyGivenNames y4
  have h5 : Keeps State.seekFail_mask s y4 := Keeps.step (State.putHead_keeps ..) h2
  clear_value y4
  extract_lets +onlyGivenNames y6
  clear_value y6
  extract_lets +onlyGivenNames y7
  have h8 : Keeps State.seekFail_mask s y7 := by
    unfold y7
    refine Keeps.foldl (fun t9 a10 => ?_) ?_
    · exact Keeps.step (State.endReread_keeps ..) (Keeps.refl _ _)
    exact h5
  clear_value y7
  extract_lets +onlyGivenNames y11
  have h12 : Keeps State.seekFail_mask s y11 := by
    unfold y11
    refine Keeps.ite ?_ ?_
    · exact Keeps.step (State.headResult_keeps ..) h5
    refine Keeps.ite ?_ ?_
    · exact Keeps.step (State.putHead_keeps ..) h5
    refine Keeps.ite ?_ ?_
    · exact Keeps.set_ladders h8
    split
    · rename_i z13 z14 z15 z16
      exact Keeps.step (State.fail_keeps ..) h5
    rename_i z17 z18
    exact h5
  clear_value y11
  exact Keeps.step (State.enterRecover_keeps ..) h12

def execLongSeekSettled_mask : Nat := State.addrLock_mask ||| State.putHead_mask ||| State.landed_mask ||| State.startJump_mask
    ||| State.longMove_mask ||| State.seekFail_mask ||| fieldBits [Reg.STN_HD_STATUS_TRK_LOCK]

theorem execLongSeekSettled_keeps (n : Fin 128) (side : Fin 2) (w1 w2 : BitVec 64) (apart : Nat) (s : State) : KeepsRes
    execLongSeekSettled_mask s (execLongSeekSettled n side w1 w2 apart s) := by
  unfold execLongSeekSettled
  extract_lets +onlyGivenNames y0
  clear_value y0
  extract_lets +onlyGivenNames y1
  clear_value y1
  split
  · rename_i z2 z3
    exact KeepsRes.next (Keeps.refl _ _)
  rename_i z4 z5 z6
  refine KeepsRes.ite ?_ ?_
  · exact KeepsRes.next (Keeps.refl _ _)
  extract_lets +onlyGivenNames y7
  have h8 : Keeps execLongSeekSettled_mask s y7 := Keeps.step (State.addrLock_keeps ..) (Keeps.set1 (Keeps.refl _ _))
  clear_value y7
  extract_lets +onlyGivenNames y9
  clear_value y9
  extract_lets +onlyGivenNames y10
  have h11 : Keeps execLongSeekSettled_mask s y10 := Keeps.step (State.putHead_keeps ..) h8
  clear_value y10
  extract_lets +onlyGivenNames y12
  clear_value y12
  refine KeepsRes.ite ?_ ?_
  · exact KeepsRes.next (Keeps.step (State.landed_keeps ..) h11)
  refine KeepsRes.ite ?_ ?_
  · exact KeepsRes.next (Keeps.step (State.startJump_keeps ..) h11)
  refine KeepsRes.ite ?_ ?_
  · exact KeepsRes.next (Keeps.step (State.longMove_keeps ..) h11)
  exact KeepsRes.next (Keeps.step (State.seekFail_keeps ..) h11)

def execSeekRestart_mask : Nat := State.startReq_mask ||| State.putHead_mask

theorem execSeekRestart_keeps (n : Fin 128) (side : Fin 2) (s : State) : KeepsRes execSeekRestart_mask s (execSeekRestart n
    side s) := by
  unfold execSeekRestart
  extract_lets +onlyGivenNames y0
  clear_value y0
  extract_lets +onlyGivenNames y1
  clear_value y1
  split
  · rename_i z2 z3 z4
    refine KeepsRes.ite ?_ ?_
    · exact KeepsRes.next (Keeps.step (State.startReq_keeps ..) (Keeps.step (State.putHead_keeps ..) (Keeps.refl _ _)))
    exact KeepsRes.next (Keeps.refl _ _)
  rename_i z5 z6
  exact KeepsRes.next (Keeps.refl _ _)

def execLayerMoveEnd_mask : Nat := State.readPowerOn_mask ||| State.advanceTo_mask ||| State.putHead_mask

theorem execLayerMoveEnd_keeps (n : Fin 128) (side : Fin 2) (s : State) : KeepsRes execLayerMoveEnd_mask s (execLayerMoveEnd n
    side s) := by
  unfold execLayerMoveEnd
  extract_lets +onlyGivenNames y0
  clear_value y0
  extract_lets +onlyGivenNames y1
  clear_value y1
  refine KeepsRes.ite ?_ ?_
  · exact KeepsRes.next (Keeps.refl _ _)
  extract_lets +onlyGivenNames y2
  have h3 : Keeps execLayerMoveEnd_mask s y2 := Keeps.step (State.readPowerOn_keeps ..) (Keeps.step (State.advanceTo_keeps ..)
      (Keeps.refl _ _))
  clear_value y2
  exact KeepsRes.next (Keeps.step (State.putHead_keeps ..) h3)

def execRelayLocked_mask : Nat := State.loadAlign_mask ||| State.loadEq_mask ||| State.nextReq_mask ||| State.opDone_mask |||
    State.putHead_mask ||| State.landed_mask ||| State.seekMove_mask ||| State.setHd_mask ||| fieldBits
    [Reg.STN_HD_STATUS_LAYER, Reg.STN_HD_STATUS_REL_LOCK]

theorem execRelayLocked_keeps (n : Fin 128) (side : Fin 2) (s : State) : KeepsRes execRelayLocked_mask s (execRelayLocked n
    side s) := by
  unfold execRelayLocked
  extract_lets +onlyGivenNames y0
  clear_value y0
  extract_lets +onlyGivenNames y1
  clear_value y1
  split
  · rename_i z2 z3
    exact KeepsRes.next (Keeps.refl _ _)
  rename_i z4 z5 z6
  refine KeepsRes.ite ?_ ?_
  · exact KeepsRes.next (Keeps.refl _ _)
  extract_lets +onlyGivenNames y7
  have h8 : Keeps execRelayLocked_mask s y7 := Keeps.wr (Keeps.set1 (Keeps.refl _ _))
  clear_value y7
  refine KeepsRes.ite ?_ ?_
  · extract_lets +onlyGivenNames y9
    have h10 : Keeps execRelayLocked_mask s y9 := by
      unfold y9
      split
      · rename_i z11 z12 z13
        exact Keeps.step (State.loadAlign_keeps ..) (Keeps.step (State.loadEq_keeps ..) h8)
      rename_i z14 z15
      exact h8
    clear_value y9
    exact KeepsRes.next (Keeps.step (State.nextReq_keeps ..) (Keeps.step (State.opDone_keeps ..) h10))
  extract_lets +onlyGivenNames y16
  clear_value y16
  extract_lets +onlyGivenNames y17
  clear_value y17
  extract_lets +onlyGivenNames y18
  have h19 : Keeps execRelayLocked_mask s y18 := Keeps.step (State.putHead_keeps ..) h8
  clear_value y18
  refine KeepsRes.ite ?_ ?_
  · exact KeepsRes.next (Keeps.step (State.landed_keeps ..) h19)
  refine KeepsRes.next (Keeps.step (State.seekMove_keeps ..) (Keeps.ite ?_ ?_))
  · exact h19
  exact Keeps.step (State.setHd_keeps ..) h19

def execLayerJumpTimeout_mask : Nat := State.advanceTo_mask ||| State.moveRelay_mask ||| State.putHead_mask |||
    State.raise_mask ||| State.enterRecover_mask ||| State.headResult_mask ||| State.acqFail_mask

theorem execLayerJumpTimeout_keeps (n : Fin 128) (side : Fin 2) (s : State) : KeepsRes execLayerJumpTimeout_mask s
    (execLayerJumpTimeout n side s) := by
  unfold execLayerJumpTimeout
  extract_lets +onlyGivenNames y0
  clear_value y0
  extract_lets +onlyGivenNames y1
  clear_value y1
  split
  · rename_i z2 z3
    exact KeepsRes.next (Keeps.refl _ _)
  rename_i z4 z5 z6
  refine KeepsRes.ite ?_ ?_
  · exact KeepsRes.next (Keeps.refl _ _)
  extract_lets +onlyGivenNames y7
  have h8 : Keeps execLayerJumpTimeout_mask s y7 := Keeps.step (State.advanceTo_keeps ..) (Keeps.refl _ _)
  clear_value y7
  refine KeepsRes.ite ?_ ?_
  · extract_lets +onlyGivenNames y9
    have h10 : Keeps execLayerJumpTimeout_mask s y9 := Keeps.step (State.moveRelay_keeps ..) h8
    clear_value y9
    exact KeepsRes.next (Keeps.step (State.putHead_keeps ..) h10)
  extract_lets +onlyGivenNames y11
  have h12 : Keeps execLayerJumpTimeout_mask s y11 := Keeps.step (State.raise_keeps ..) h8
  clear_value y11
  refine KeepsRes.ite ?_ ?_
  · extract_lets +onlyGivenNames y13
    clear_value y13
    extract_lets +onlyGivenNames y14
    have h15 : Keeps execLayerJumpTimeout_mask s y14 := Keeps.step (State.putHead_keeps ..) h12
    clear_value y14
    refine KeepsRes.next (Keeps.step (State.enterRecover_keeps ..) (Keeps.ite ?_ ?_))
    · exact Keeps.step (State.headResult_keeps ..) h15
    exact h15
  exact KeepsRes.next (Keeps.step (State.acqFail_keeps ..) h12)

def State.clearLock_mask : Nat := fieldBits [Reg.STN_HD_STATUS_FOC_LOCK, Reg.STN_HD_STATUS_TRK_LOCK,
  Reg.STN_HD_STATUS_CLK_LOCK, Reg.STN_HD_STATUS_REL_LOCK]

theorem State.clearLock_keeps (s : State) (h n : Nat) : Keeps State.clearLock_mask s (s.clearLock h n) := by
  match n with
  | 0 => exact Keeps.clr (Keeps.refl _ _) (by decide +kernel)
  | 1 => exact Keeps.clr (Keeps.refl _ _) (by decide +kernel)
  | 2 => exact Keeps.clr (Keeps.refl _ _) (by decide +kernel)
  | 3 => exact Keeps.clr (Keeps.refl _ _) (by decide +kernel)
  | _ + 4 => exact Keeps.refl _ _

def State.markReverify_mask : Nat := State.putSlice_mask

theorem State.markReverify_keeps (s : State) (h : Nat) : Keeps State.markReverify_mask s (State.markReverify s h) := by
  unfold State.markReverify
  split
  · rename_i z0 z1 z2
    extract_lets +onlyGivenNames y3
    clear_value y3
    exact Keeps.step (State.putSlice_keeps ..) (Keeps.refl _ _)
  rename_i z4 z5
  exact Keeps.refl _ _

def execLockLoss_mask : Nat := State.abandonHeadCal_mask ||| State.clearLock_mask ||| State.stopWriting_mask |||
    State.markReverify_mask ||| State.raise_mask ||| State.draw_mask ||| State.failHead_mask ||| State.faultHead_mask |||
    State.enterStage_mask ||| State.enterRecover_mask

theorem execLockLoss_keeps (n : Fin 128) (side : Fin 2) (lock : Fin 5) (s : State) : KeepsRes execLockLoss_mask s (execLockLoss
    n side lock s) := by
  unfold execLockLoss
  extract_lets +onlyGivenNames y0
  clear_value y0
  extract_lets +onlyGivenNames y1
  clear_value y1
  extract_lets +onlyGivenNames y2
  clear_value y2
  refine KeepsRes.ite ?_ ?_
  · exact KeepsRes.next (Keeps.refl _ _)
  extract_lets +onlyGivenNames y3
  have h4 : Keeps execLockLoss_mask s y3 := Keeps.step (State.abandonHeadCal_keeps ..) (Keeps.step (State.clearLock_keeps ..)
      (Keeps.step (State.stopWriting_keeps ..) (Keeps.refl _ _)))
  clear_value y3
  split
  rename_i z5 z6 z7 z8
  extract_lets +onlyGivenNames y9
  have h10 : Keeps execLockLoss_mask s y9 := Keeps.step (State.markReverify_keeps ..) (Keeps.step (State.raise_keeps ..)
      (Keeps.ofSnd z8 (KeepsSnd.step (State.draw_keeps ..) h4)))
  clear_value y9
  extract_lets +onlyGivenNames y11
  clear_value y11
  extract_lets +onlyGivenNames y12
  clear_value y12
  refine KeepsRes.ite ?_ ?_
  · exact KeepsRes.next (Keeps.step (State.failHead_keeps ..) (Keeps.step (State.faultHead_keeps ..) h10))
  exact KeepsRes.next (Keeps.step (State.enterStage_keeps ..) (Keeps.step (State.enterRecover_keeps ..) h10))

def State.seekVerify_mask : Nat := State.askHead_mask

theorem State.seekVerify_keeps (s : State) (h : Nat) : Keeps State.seekVerify_mask s (State.seekVerify s h) := by
  unfold State.seekVerify
  split
  · rename_i z0 z1 z2
    exact Keeps.step (State.askHead_keeps ..) (Keeps.refl _ _)
  rename_i z3 z4
  exact Keeps.refl _ _

def execHeadRecoveryDone_mask : Nat := State.opDone_mask ||| State.nextReq_mask ||| State.seekVerify_mask ||| State.raise_mask

theorem execHeadRecoveryDone_keeps (n : Fin 128) (side : Fin 2) (s : State) : KeepsRes execHeadRecoveryDone_mask s
    (execHeadRecoveryDone n side s) := by
  unfold execHeadRecoveryDone
  extract_lets +onlyGivenNames y0
  clear_value y0
  extract_lets +onlyGivenNames y1
  clear_value y1
  refine KeepsRes.ite ?_ ?_
  · extract_lets +onlyGivenNames y2
    have h3 : Keeps execHeadRecoveryDone_mask s y2 := Keeps.step (State.opDone_keeps ..) (Keeps.refl _ _)
    clear_value y2
    exact KeepsRes.next (Keeps.step (State.nextReq_keeps ..) (Keeps.step (State.seekVerify_keeps ..) (Keeps.step
        (State.raise_keeps ..) h3)))
  exact KeepsRes.next (Keeps.refl _ _)

def execHeadRecoveryTimeout_mask : Nat := State.acqFail_mask ||| State.advanceTo_mask

theorem execHeadRecoveryTimeout_keeps (n : Fin 128) (side : Fin 2) (s : State) : KeepsRes execHeadRecoveryTimeout_mask s
    (execHeadRecoveryTimeout n side s) := by
  unfold execHeadRecoveryTimeout
  extract_lets +onlyGivenNames y0
  clear_value y0
  extract_lets +onlyGivenNames y1
  clear_value y1
  refine KeepsRes.ite ?_ ?_
  · exact KeepsRes.next (Keeps.step (State.acqFail_keeps ..) (Keeps.step (State.advanceTo_keeps ..) (Keeps.refl _ _)))
  exact KeepsRes.next (Keeps.refl _ _)

def State.failWrites_mask : Nat := State.failAll_mask

theorem State.failWrites_keeps (s : State) (h : Nat) : Keeps State.failWrites_mask s (State.failWrites s h) := by
  unfold State.failWrites
  exact Keeps.step (State.failAll_keeps ..) (Keeps.refl _ _)

def execPowerLimitDetect_mask : Nat := State.putHead_mask ||| State.raise_mask ||| State.failWrites_mask |||
    State.stopWriting_mask ||| fieldBits [Reg.STN_HD_STATUS_PWR_LIMITED]

theorem execPowerLimitDetect_keeps (n : Fin 128) (side : Fin 2) (write : Bool) (s : State) : KeepsRes execPowerLimitDetect_mask
    s (execPowerLimitDetect n side write s) := by
  unfold execPowerLimitDetect
  extract_lets +onlyGivenNames y0
  clear_value y0
  extract_lets +onlyGivenNames y1
  clear_value y1
  split
  rename_i z2 z3 z4 z5 z6 z7
  extract_lets +onlyGivenNames y8
  have h9 : ∀ t10 t11, Keeps execPowerLimitDetect_mask t10 (y8 t10 t11) := by
    intro t10 t11
    unfold y8
    extract_lets +onlyGivenNames y12
    clear_value y12
    exact Keeps.step (State.putHead_keeps ..) (Keeps.refl _ _)
  clear_value y8
  refine KeepsRes.ite ?_ ?_
  · extract_lets +onlyGivenNames y13
    clear_value y13
    extract_lets +onlyGivenNames y14
    have h15 : Keeps execPowerLimitDetect_mask s y14 := Keeps.step (State.raise_keeps ..) (Keeps.trans (Keeps.set1 (Keeps.refl
        _ _)) (h9 _ _))
    clear_value y14
    refine KeepsRes.next (Keeps.ite ?_ ?_)
    · exact Keeps.step (State.failWrites_keeps ..) (Keeps.step (State.stopWriting_keeps ..) h15)
    exact h15
  refine KeepsRes.ite ?_ ?_
  · exact KeepsRes.next (Keeps.step (State.failWrites_keeps ..) (Keeps.step (State.stopWriting_keeps ..) (Keeps.refl _ _)))
  refine KeepsRes.ite ?_ ?_
  · extract_lets +onlyGivenNames y16
    have h17 : Keeps execPowerLimitDetect_mask s y16 := Keeps.trans (Keeps.refl _ _) (h9 _ _)
    clear_value y16
    refine KeepsRes.next (Keeps.ite ?_ ?_)
    · exact h17
    exact Keeps.clr h17
  exact KeepsRes.next (Keeps.refl _ _)

def execOpcTrigger_mask : Nat := State.askHead_mask

theorem execOpcTrigger_keeps (n : Fin 128) (side : Fin 2) (s : State) : KeepsRes execOpcTrigger_mask s (execOpcTrigger n side
    s) := by
  unfold execOpcTrigger
  extract_lets +onlyGivenNames y0
  clear_value y0
  refine KeepsRes.ite ?_ ?_
  · exact KeepsRes.next (Keeps.step (State.askHead_keeps ..) (Keeps.refl _ _))
  exact KeepsRes.next (Keeps.refl _ _)

def State.opcFail_mask : Nat := State.raise_mask ||| State.putHead_mask ||| State.headResult_mask ||| State.nextReq_mask |||
    State.opDone_mask ||| fieldBits [Reg.STN_HD_OPC_RES_LAYER]

theorem State.opcFail_keeps (s : State) (h l emin full : Nat) : Keeps State.opcFail_mask s (State.opcFail s h l emin full) := by
  unfold State.opcFail
  extract_lets +onlyGivenNames y0
  have h1 : Keeps State.opcFail_mask s y0 := Keeps.wr (Keeps.step (State.raise_keeps ..) (Keeps.refl _ _))
  clear_value y0
  extract_lets +onlyGivenNames y2
  clear_value y2
  extract_lets +onlyGivenNames y3
  clear_value y3
  extract_lets +onlyGivenNames y4
  have h5 : Keeps State.opcFail_mask s y4 := Keeps.step (State.putHead_keeps ..) h1
  clear_value y4
  extract_lets +onlyGivenNames y6
  have h7 : Keeps State.opcFail_mask s y6 := by
    unfold y6
    refine Keeps.ite ?_ ?_
    · exact Keeps.step (State.headResult_keeps ..) h5
    exact h5
  clear_value y6
  exact Keeps.step (State.nextReq_keeps ..) (Keeps.step (State.opDone_keeps ..) h7)

def State.opcNext_mask : Nat := State.pcaTake_mask ||| State.putHead_mask

theorem State.opcNext_keeps (s : State) (h l : Nat) : Keeps State.opcNext_mask s (State.opcNext s h l) := by
  unfold State.opcNext
  extract_lets +onlyGivenNames y0
  have h1 : Keeps State.opcNext_mask s y0 := Keeps.step (State.pcaTake_keeps ..) (Keeps.refl _ _)
  clear_value y0
  exact Keeps.step (State.putHead_keeps ..) h1

def State.opcChecked_mask : Nat := State.opcNext_mask ||| State.putHead_mask ||| State.startJump_mask ||| State.emit_mask

theorem State.opcChecked_keeps (s : State) (h l : Nat) : Keeps State.opcChecked_mask s (State.opcChecked s h l) := by
  unfold State.opcChecked
  extract_lets +onlyGivenNames y0
  clear_value y0
  refine Keeps.ite ?_ ?_
  · exact Keeps.step (State.opcNext_keeps ..) (Keeps.refl _ _)
  refine Keeps.ite ?_ ?_
  · exact Keeps.step (State.putHead_keeps ..) (Keeps.refl _ _)
  extract_lets +onlyGivenNames y1
  clear_value y1
  extract_lets +onlyGivenNames y2
  have h3 : Keeps State.opcChecked_mask s y2 := Keeps.step (State.putHead_keeps ..) (Keeps.refl _ _)
  clear_value y2
  exact Keeps.step (State.startJump_keeps ..) (Keeps.step (State.emit_keeps ..) h3)

def State.opcRow_mask : Nat := State.putHead_mask ||| State.opcChecked_mask

theorem State.opcRow_keeps (s : State) (h abs row : Nat) (b : BackRow) : Keeps State.opcRow_mask s (State.opcRow s h abs row b)
    := by
  unfold State.opcRow
  split
  · rename_i z0 z1
    exact Keeps.refl _ _
  rename_i z2 z3 z4
  extract_lets +onlyGivenNames y5
  clear_value y5
  refine Keeps.ite ?_ ?_
  · exact Keeps.refl _ _
  extract_lets +onlyGivenNames y6
  clear_value y6
  extract_lets +onlyGivenNames y7
  clear_value y7
  extract_lets +onlyGivenNames y8
  have h9 : Keeps State.opcRow_mask s y8 := Keeps.step (State.putHead_keeps ..) (Keeps.refl _ _)
  clear_value y8
  refine Keeps.ite ?_ ?_
  · exact Keeps.step (State.opcChecked_keeps ..) h9
  exact h9

def State.opcWrite_mask : Nat := State.putHead_mask ||| State.gateHead_mask ||| State.kept_mask

theorem State.opcWrite_keeps (s : State) (h pos : Nat) : Keeps State.opcWrite_mask s (State.opcWrite s h pos) := by
  unfold State.opcWrite
  extract_lets +onlyGivenNames y0
  clear_value y0
  refine Keeps.ite ?_ ?_
  · exact Keeps.refl _ _
  extract_lets +onlyGivenNames y1
  clear_value y1
  extract_lets +onlyGivenNames y2
  clear_value y2
  refine Keeps.ite ?_ ?_
  · exact Keeps.refl _ _
  refine Keeps.ite ?_ ?_
  · extract_lets +onlyGivenNames y3
    clear_value y3
    extract_lets +onlyGivenNames y4
    clear_value y4
    split
    rename_i z5 z6 z7 z8
    exact Keeps.step (State.putHead_keeps ..) (Keeps.step (State.gateHead_keeps ..) (Keeps.ofSnd z8 (KeepsSnd.step
        (State.kept_keeps ..) (Keeps.refl _ _))))
  exact Keeps.step (State.putHead_keeps ..) (Keeps.step (State.gateHead_keeps ..) (Keeps.refl _ _))

def State.opcMonitor_mask : Nat := State.putHead_mask

theorem State.opcMonitor_keeps (s : State) (h : Nat) : Keeps State.opcMonitor_mask s (State.opcMonitor s h) := by
  unfold State.opcMonitor
  extract_lets +onlyGivenNames y0
  clear_value y0
  split
  · rename_i z1 z2
    exact Keeps.refl _ _
  rename_i z3 z4 z5
  split
  rename_i z6 z7 z8 z9
  exact Keeps.step (State.putHead_keeps ..) (Keeps.refl _ _)

def State.opcLost_mask : Nat := State.putHead_mask

theorem State.opcLost_keeps (s : State) (h slot : Nat) : Keeps State.opcLost_mask s (State.opcLost s h slot) := by
  unfold State.opcLost
  extract_lets +onlyGivenNames y0
  clear_value y0
  refine Keeps.ite ?_ ?_
  · exact Keeps.step (State.putHead_keeps ..) (Keeps.refl _ _)
  exact Keeps.refl _ _

def State.opcMean_mask : Nat := State.draw_mask ||| State.kept_mask

theorem State.opcMean_keeps (s : State) (h k : Nat) : KeepsSnd State.opcMean_mask s (State.opcMean s h k) := by
  unfold State.opcMean
  split
  rename_i z0 z1 z2 z3
  refine KeepsSnd.ite ?_ ?_
  · split
    rename_i z4 z5 z6 z7
    exact KeepsSnd.mk (Keeps.ofSnd z7 (KeepsSnd.step (State.draw_keeps ..) (Keeps.refl _ _)))
  exact KeepsSnd.step (State.kept_keeps ..) (Keeps.refl _ _)

def execOpcReadback_mask : Nat := State.opcFail_mask ||| State.opcNext_mask ||| State.putHead_mask ||| State.pcaTake_mask |||
    State.kept_mask ||| State.opcMean_mask ||| State.headPrm_mask ||| State.nextReq_mask ||| State.opDone_mask |||
    State.raise_mask ||| fieldBits [Reg.STN_HD_OPC_RES_LAYER, Reg.STN_HD_OPC_RES_E_MIN, Reg.STN_HD_WPWR_VALID,
    Reg.STN_HD_WPWR_WRITE_SP]

theorem execOpcReadback_keeps (n : Fin 128) (side : Fin 2) (s : State) : KeepsRes execOpcReadback_mask s (execOpcReadback n
    side s) := by
  unfold execOpcReadback
  extract_lets +onlyGivenNames y0
  clear_value y0
  extract_lets +onlyGivenNames y1
  clear_value y1
  split
  · rename_i z2 z3
    exact KeepsRes.next (Keeps.refl _ _)
  rename_i z4 z5 z6
  refine KeepsRes.ite ?_ ?_
  · exact KeepsRes.next (Keeps.refl _ _)
  extract_lets +onlyGivenNames y7
  clear_value y7
  extract_lets +onlyGivenNames y8
  clear_value y8
  refine KeepsRes.ite ?_ ?_
  · exact KeepsRes.next (Keeps.step (State.opcFail_keeps ..) (Keeps.refl _ _))
  refine KeepsRes.ite ?_ ?_
  · exact KeepsRes.next (Keeps.refl _ _)
  extract_lets +onlyGivenNames y9
  clear_value y9
  extract_lets +onlyGivenNames y10
  clear_value y10
  extract_lets +onlyGivenNames y11
  have h12 : Keeps execOpcReadback_mask s y11 := Keeps.wr (Keeps.wr (Keeps.refl _ _))
  clear_value y11
  refine KeepsRes.ite ?_ ?_
  · refine KeepsRes.ite ?_ ?_
    · exact KeepsRes.next (Keeps.step (State.opcNext_keeps ..) (Keeps.step (State.putHead_keeps ..) h12))
    exact KeepsRes.next (Keeps.step (State.opcFail_keeps ..) (Keeps.step (State.pcaTake_keeps ..) h12))
  extract_lets +onlyGivenNames y13
  clear_value y13
  split
  rename_i z14 z15 z16 z17
  split
  rename_i z18 z19 z20 z21
  split
  rename_i z22 z23 z24 z25
  extract_lets +onlyGivenNames y26
  have h27 : Keeps execOpcReadback_mask s y26 := Keeps.set1 (Keeps.wrS (Keeps.step (State.pcaTake_keeps ..) (Keeps.ofSnd z25
      (KeepsSnd.step (State.kept_keeps ..) (Keeps.ofSnd z21 (KeepsSnd.step (State.opcMean_keeps ..) (Keeps.ofSnd z17
      (KeepsSnd.step (State.opcMean_keeps ..) h12))))))))
  clear_value y26
  extract_lets +onlyGivenNames y28
  have h29 : Keeps execOpcReadback_mask s y28 := Keeps.step (State.headPrm_keeps ..) h27
  clear_value y28
  extract_lets +onlyGivenNames y30
  clear_value y30
  extract_lets +onlyGivenNames y31
  have h32 : Keeps execOpcReadback_mask s y31 := Keeps.step (State.putHead_keeps ..) h29
  clear_value y31
  exact KeepsRes.next (Keeps.step (State.nextReq_keeps ..) (Keeps.step (State.opDone_keeps ..) (Keeps.step (State.raise_keeps
      ..) h32)))

def State.afterPark_mask : Nat := State.parkHead_mask ||| State.safeNow_mask ||| State.stopSpindle_mask |||
    State.spinTarget_mask

theorem State.afterPark_keeps (s : State) (n cause : Nat) : Keeps State.afterPark_mask s (State.afterPark s n cause) := by
  unfold State.afterPark
  extract_lets +onlyGivenNames y0
  clear_value y0
  extract_lets +onlyGivenNames y1
  have h2 : Keeps State.afterPark_mask s y1 := by
    unfold y1
    refine Keeps.ite ?_ ?_
    · exact Keeps.step (State.parkHead_keeps ..) (Keeps.step (State.parkHead_keeps ..) (Keeps.refl _ _))
    exact Keeps.refl _ _
  clear_value y1
  refine Keeps.ite ?_ ?_
  · exact h2
  refine Keeps.ite ?_ ?_
  · exact Keeps.step (State.safeNow_keeps ..) h2
  refine Keeps.ite ?_ ?_
  · exact Keeps.step (State.stopSpindle_keeps ..) h2
  refine Keeps.ite ?_ ?_
  · exact Keeps.step (State.spinTarget_keeps ..) h2
  exact h2

def execHeadParkDone_mask : Nat := State.advanceTo_mask ||| State.headMove_mask ||| State.putHead_mask ||| State.parkGates_mask
    ||| State.headResult_mask ||| State.setHd_mask ||| State.afterPark_mask ||| State.raise_mask

theorem execHeadParkDone_keeps (n : Fin 128) (side : Fin 2) (s : State) : KeepsRes execHeadParkDone_mask s (execHeadParkDone n
    side s) := by
  unfold execHeadParkDone
  extract_lets +onlyGivenNames y0
  clear_value y0
  extract_lets +onlyGivenNames y1
  clear_value y1
  extract_lets +onlyGivenNames y2
  clear_value y2
  refine KeepsRes.ite ?_ ?_
  · exact KeepsRes.next (Keeps.refl _ _)
  refine KeepsRes.ite ?_ ?_
  · extract_lets +onlyGivenNames y3
    have h4 : Keeps execHeadParkDone_mask s y3 := Keeps.step (State.advanceTo_keeps ..) (Keeps.refl _ _)
    clear_value y3
    exact KeepsRes.next (Keeps.step (State.headMove_keeps ..) (Keeps.step (State.putHead_keeps ..) h4))
  extract_lets +onlyGivenNames y5
  have h6 : Keeps execHeadParkDone_mask s y5 := Keeps.step (State.putHead_keeps ..) (Keeps.step (State.parkGates_keeps ..)
      (Keeps.step (State.advanceTo_keeps ..) (Keeps.refl _ _)))
  clear_value y5
  extract_lets +onlyGivenNames y7
  have h8 : Keeps execHeadParkDone_mask s y7 := Keeps.step (State.headResult_keeps ..) (Keeps.step (State.setHd_keeps ..) h6)
  clear_value y7
  exact KeepsRes.next (Keeps.step (State.afterPark_keeps ..) (Keeps.step (State.raise_keeps ..) h8))

end Sys2Proof.Machine
end

