-- ==== Sys2Proof/Laws/KeepsSpindle.lean ====
section
/-!
SUPPORT. What the operations of Machine/Spindle.lean leave as it was, one lemma for each.
-/

set_option Elab.async false

namespace Sys2Proof.Machine

def execSpindleTargetWrite_mask : Nat := State.spinTarget_mask

theorem execSpindleTargetWrite_keeps (n : Fin 128) (rpm : BitVec 14) (s : State) : KeepsRes execSpindleTargetWrite_mask s
    (execSpindleTargetWrite n rpm s) := by
  unfold execSpindleTargetWrite
  exact KeepsRes.next (Keeps.step (State.spinTarget_keeps ..) (Keeps.refl _ _))

def State.keepBemf_mask : Nat := State.putSpin_mask ||| fieldBits [Reg.STN_SP_SPEED_RPM]

theorem State.keepBemf_keeps (s : State) (n : Nat) : Keeps State.keepBemf_mask s (State.keepBemf s n) := by
  unfold State.keepBemf
  extract_lets +onlyGivenNames y0
  clear_value y0
  refine Keeps.ite ?_ ?_
  · extract_lets +onlyGivenNames y1
    clear_value y1
    extract_lets +onlyGivenNames y2
    clear_value y2
    extract_lets +onlyGivenNames y3
    clear_value y3
    extract_lets +onlyGivenNames y4
    clear_value y4
    extract_lets +onlyGivenNames y5
    clear_value y5
    extract_lets +onlyGivenNames y6
    clear_value y6
    extract_lets +onlyGivenNames y7
    clear_value y7
    extract_lets +onlyGivenNames y8
    extract_lets +onlyGivenNames y9
    have h10 : Keeps State.keepBemf_mask s y9 := Keeps.step (State.putSpin_keeps ..) (Keeps.refl _ _)
    clear_value y9
    exact Keeps.wrS h10
  exact Keeps.refl _ _

def State.seedObserver_mask : Nat := State.putLslot_mask

theorem State.seedObserver_keeps (s : State) (n : Nat) (m : Meas) : Keeps State.seedObserver_mask s (State.seedObserver s n m)
    := by
  unfold State.seedObserver
  extract_lets +onlyGivenNames y0
  clear_value y0
  extract_lets +onlyGivenNames y1
  clear_value y1
  extract_lets +onlyGivenNames y2
  clear_value y2
  extract_lets +onlyGivenNames y3
  clear_value y3
  exact Keeps.step (State.putLslot_keeps ..) (Keeps.refl _ _)

def State.catchSpindle_mask : Nat := State.gateSpeed_mask ||| State.bridge_mask ||| State.seedObserver_mask |||
    State.setSp_mask ||| State.putSpin_mask

theorem State.catchSpindle_keeps (s : State) (n : Nat) (m : Meas) (afterLoss : Bool) : Keeps State.catchSpindle_mask s
    (State.catchSpindle s n m afterLoss) := by
  unfold State.catchSpindle
  extract_lets +onlyGivenNames y0
  have h1 : Keeps State.catchSpindle_mask s y0 := Keeps.step (State.gateSpeed_keeps ..) (Keeps.step (State.bridge_keeps ..)
      (Keeps.step (State.seedObserver_keeps ..) (Keeps.refl _ _)))
  clear_value y0
  extract_lets +onlyGivenNames y2
  have h3 : Keeps State.catchSpindle_mask s y2 := Keeps.step (State.setSp_keeps ..) h1
  clear_value y2
  exact Keeps.step (State.putSpin_keeps ..) h3

def execSpindleSenseEnd_mask : Nat := State.advanceTo_mask ||| State.putSpin_mask ||| State.catchSpindle_mask |||
    State.brakeSpindle_mask ||| State.seedObserver_mask ||| State.raise_mask ||| State.setSp_mask ||| fieldBits
    [Reg.STN_SP_STATUS_REVERSE, Reg.STN_SP_SPEED_RPM]

theorem execSpindleSenseEnd_keeps (n : Fin 128) (s : State) : KeepsRes execSpindleSenseEnd_mask s (execSpindleSenseEnd n s) :=
    by
  unfold execSpindleSenseEnd
  refine KeepsRes.ite ?_ ?_
  · exact KeepsRes.next (Keeps.refl _ _)
  refine KeepsRes.ite ?_ ?_
  · exact KeepsRes.next (Keeps.refl _ _)
  extract_lets +onlyGivenNames y0
  have h1 : Keeps execSpindleSenseEnd_mask s y0 := Keeps.step (State.advanceTo_keeps ..) (Keeps.refl _ _)
  clear_value y0
  split
  · rename_i z2 z3 z4
    extract_lets +onlyGivenNames y5
    have h6 : Keeps execSpindleSenseEnd_mask s y5 := Keeps.wrB h1
    clear_value y5
    extract_lets +onlyGivenNames y7
    clear_value y7
    extract_lets +onlyGivenNames y8
    have h9 : Keeps execSpindleSenseEnd_mask s y8 := Keeps.wrS (Keeps.step (State.putSpin_keeps ..) h6)
    clear_value y8
    refine KeepsRes.ite ?_ ?_
    · exact KeepsRes.next (Keeps.step (State.catchSpindle_keeps ..) h9)
    refine KeepsRes.ite ?_ ?_
    · extract_lets +onlyGivenNames y10
      have h11 : Keeps execSpindleSenseEnd_mask s y10 := Keeps.step (State.brakeSpindle_keeps ..) (Keeps.step
          (State.seedObserver_keeps ..) h9)
      clear_value y10
      exact KeepsRes.next (Keeps.step (State.raise_keeps ..) (Keeps.step (State.setSp_keeps ..) h11))
    exact KeepsRes.next (Keeps.step (State.setSp_keeps ..) h9)
  rename_i z12 z13
  exact KeepsRes.next (Keeps.step (State.setSp_keeps ..) (Keeps.step (State.putSpin_keeps ..) h1))

def execSpindleWaitSlowEnd_mask : Nat := State.advanceTo_mask ||| State.putSpin_mask

theorem execSpindleWaitSlowEnd_keeps (n : Fin 128) (s : State) : KeepsRes execSpindleWaitSlowEnd_mask s (execSpindleWaitSlowEnd
    n s) := by
  unfold execSpindleWaitSlowEnd
  refine KeepsRes.ite ?_ ?_
  · exact KeepsRes.next (Keeps.refl _ _)
  refine KeepsRes.ite ?_ ?_
  · exact KeepsRes.next (Keeps.refl _ _)
  extract_lets +onlyGivenNames y0
  clear_value y0
  extract_lets +onlyGivenNames y1
  clear_value y1
  extract_lets +onlyGivenNames y2
  clear_value y2
  extract_lets +onlyGivenNames y3
  have h4 : Keeps execSpindleWaitSlowEnd_mask s y3 := Keeps.step (State.advanceTo_keeps ..) (Keeps.refl _ _)
  clear_value y3
  exact KeepsRes.next (Keeps.step (State.putSpin_keeps ..) h4)

def execSpindleRevBrakeEnd_mask : Nat := State.gateSpeed_mask ||| State.putSpin_mask

theorem execSpindleRevBrakeEnd_keeps (n : Fin 128) (s : State) : KeepsRes execSpindleRevBrakeEnd_mask s (execSpindleRevBrakeEnd
    n s) := by
  unfold execSpindleRevBrakeEnd
  refine KeepsRes.ite ?_ ?_
  · exact KeepsRes.next (Keeps.refl _ _)
  refine KeepsRes.ite ?_ ?_
  · extract_lets +onlyGivenNames y0
    have h1 : Keeps execSpindleRevBrakeEnd_mask s y0 := Keeps.step (State.gateSpeed_keeps ..) (Keeps.refl _ _)
    clear_value y0
    exact KeepsRes.next (Keeps.step (State.putSpin_keeps ..) h1)
  exact KeepsRes.next (Keeps.refl _ _)

def execSpindleAlignStart_mask : Nat := State.gateSpeed_mask ||| State.bridge_mask ||| State.admitted_mask ||| State.setSp_mask
    ||| State.spPrm_mask ||| State.putSpin_mask ||| partBits [.tb, .loop]

theorem execSpindleAlignStart_keeps (n : Fin 128) (s : State) : KeepsRes execSpindleAlignStart_mask s (execSpindleAlignStart n
    s) := by
  unfold execSpindleAlignStart
  refine KeepsRes.ite ?_ ?_
  · exact KeepsRes.next (Keeps.refl _ _)
  extract_lets +onlyGivenNames y0
  clear_value y0
  extract_lets +onlyGivenNames y1
  clear_value y1
  refine KeepsRes.ite ?_ ?_
  · exact KeepsRes.next (Keeps.refl _ _)
  extract_lets +onlyGivenNames y2
  unfold y2
  extract_lets +onlyGivenNames y3
  have h4 : Keeps execSpindleAlignStart_mask s y3 := by
    unfold y3
    split
    · rename_i z5 z6 z7
      exact Keeps.set_tb (Keeps.refl _ _)
    rename_i z8 z9
    exact Keeps.refl _ _
  clear_value y3
  extract_lets +onlyGivenNames y10
  have h11 : Keeps execSpindleAlignStart_mask s y10 := Keeps.step (State.gateSpeed_keeps ..) (Keeps.step (State.bridge_keeps
      ..) (Keeps.step (State.admitted_keeps ..) h4))
  clear_value y10
  extract_lets +onlyGivenNames y12
  clear_value y12
  extract_lets +onlyGivenNames y13
  have h14 : Keeps execSpindleAlignStart_mask s y13 := Keeps.step (State.setSp_keeps ..) (Keeps.step (State.spPrm_keeps ..) h11)
  clear_value y13
  extract_lets +onlyGivenNames y15
  clear_value y15
  extract_lets +onlyGivenNames y16
  have h17 : Keeps execSpindleAlignStart_mask s y16 := Keeps.set_loop h14
  clear_value y16
  exact KeepsRes.next (Keeps.step (State.putSpin_keeps ..) h17)

def execSpindleAlignEnd_mask : Nat := State.advanceTo_mask ||| State.setSp_mask ||| State.gateSpeed_mask ||| State.spPrm_mask
    ||| State.putSpin_mask

theorem execSpindleAlignEnd_keeps (n : Fin 128) (s : State) : KeepsRes execSpindleAlignEnd_mask s (execSpindleAlignEnd n s) :=
    by
  unfold execSpindleAlignEnd
  refine KeepsRes.ite ?_ ?_
  · exact KeepsRes.next (Keeps.refl _ _)
  refine KeepsRes.ite ?_ ?_
  · exact KeepsRes.next (Keeps.refl _ _)
  extract_lets +onlyGivenNames y0
  have h1 : Keeps execSpindleAlignEnd_mask s y0 := Keeps.step (State.advanceTo_keeps ..) (Keeps.refl _ _)
  clear_value y0
  extract_lets +onlyGivenNames y2
  have h3 : Keeps execSpindleAlignEnd_mask s y2 := Keeps.step (State.setSp_keeps ..) (Keeps.step (State.gateSpeed_keeps ..)
      (Keeps.step (State.spPrm_keeps ..) h1))
  clear_value y2
  exact KeepsRes.next (Keeps.step (State.putSpin_keeps ..) h3)

def State.closeSpeed_mask : Nat := State.setSp_mask ||| State.openSpeed_mask ||| State.spPrm_mask ||| State.putSpin_mask |||
    partBits [.loop]

theorem State.closeSpeed_keeps (s : State) (n : Nat) : Keeps State.closeSpeed_mask s (State.closeSpeed s n) := by
  unfold State.closeSpeed
  extract_lets +onlyGivenNames y0
  clear_value y0
  extract_lets +onlyGivenNames y1
  have h2 : Keeps State.closeSpeed_mask s y1 := Keeps.set_loop (Keeps.refl _ _)
  clear_value y1
  extract_lets +onlyGivenNames y3
  have h4 : Keeps State.closeSpeed_mask s y3 := Keeps.step (State.setSp_keeps ..) (Keeps.step (State.openSpeed_keeps ..)
      (Keeps.step (State.spPrm_keeps ..) h2))
  clear_value y3
  exact Keeps.step (State.putSpin_keeps ..) h4

def execSpindleHandover_mask : Nat := State.closeSpeed_mask

theorem execSpindleHandover_keeps (n : Fin 128) (s : State) : KeepsRes execSpindleHandover_mask s (execSpindleHandover n s) :=
    by
  unfold execSpindleHandover
  refine KeepsRes.ite ?_ ?_
  · exact KeepsRes.next (Keeps.refl _ _)
  extract_lets +onlyGivenNames y0
  clear_value y0
  refine KeepsRes.ite ?_ ?_
  · exact KeepsRes.next (Keeps.step (State.closeSpeed_keeps ..) (Keeps.refl _ _))
  exact KeepsRes.next (Keeps.refl _ _)

def execSpindleCatchDone_mask : Nat := State.closeSpeed_mask ||| State.raise_mask

theorem execSpindleCatchDone_keeps (n : Fin 128) (s : State) : KeepsRes execSpindleCatchDone_mask s (execSpindleCatchDone n s)
    := by
  unfold execSpindleCatchDone
  refine KeepsRes.ite ?_ ?_
  · exact KeepsRes.next (Keeps.refl _ _)
  extract_lets +onlyGivenNames y0
  clear_value y0
  refine KeepsRes.ite ?_ ?_
  · extract_lets +onlyGivenNames y1
    have h2 : Keeps execSpindleCatchDone_mask s y1 := Keeps.step (State.closeSpeed_keeps ..) (Keeps.refl _ _)
    clear_value y1
    exact KeepsRes.next (Keeps.step (State.raise_keeps ..) h2)
  exact KeepsRes.next (Keeps.refl _ _)

def State.headsGiveUp_mask : Nat := State.failHead_mask ||| State.faultHead_mask

theorem State.headsGiveUp_keeps (s : State) (n why : Nat) : Keeps State.headsGiveUp_mask s (State.headsGiveUp s n why) := by
  unfold State.headsGiveUp
  refine Keeps.foldl (fun t0 a1 => ?_) ?_
  · refine Keeps.ite ?_ ?_
    · exact Keeps.step (State.failHead_keeps ..) (Keeps.step (State.faultHead_keeps ..) (Keeps.refl _ _))
    exact Keeps.refl _ _
  exact Keeps.refl _ _

def State.attemptFail_mask : Nat := State.spPrm_mask ||| State.gateSpeed_mask ||| State.bridge_mask ||| State.headsGiveUp_mask
    ||| State.faultSpindle_mask ||| State.raise_mask ||| State.putSpin_mask ||| fieldBits [Reg.STN_SP_COUNT_RETRIES,
    Reg.STN_SP_STATUS_ATTEMPT] ||| partBits [.loop]

theorem State.attemptFail_keeps (s : State) (n cause : Nat) : Keeps State.attemptFail_mask s (State.attemptFail s n cause) := by
  unfold State.attemptFail
  extract_lets +onlyGivenNames y0
  clear_value y0
  extract_lets +onlyGivenNames y1
  clear_value y1
  extract_lets +onlyGivenNames y2
  have h3 : Keeps State.attemptFail_mask s y2 := Keeps.set_loop (Keeps.refl _ _)
  clear_value y2
  extract_lets +onlyGivenNames y4
  have h5 : Keeps State.attemptFail_mask s y4 := Keeps.step (State.spPrm_keeps ..) (Keeps.step (State.gateSpeed_keeps ..)
      (Keeps.step (State.bridge_keeps ..) h3))
  clear_value y4
  refine Keeps.ite ?_ ?_
  · exact Keeps.step (State.headsGiveUp_keeps ..) (Keeps.step (State.faultSpindle_keeps ..) (Keeps.step (State.raise_keeps ..)
      h5))
  extract_lets +onlyGivenNames y6
  have h7 : Keeps State.attemptFail_mask s y6 := Keeps.bump (Keeps.wr (Keeps.step (State.raise_keeps ..) h5))
  clear_value y6
  exact Keeps.step (State.putSpin_keeps ..) h7

def execSpindleAttemptFail_mask : Nat := State.attemptFail_mask ||| State.advanceTo_mask

theorem execSpindleAttemptFail_keeps (n : Fin 128) (s : State) : KeepsRes execSpindleAttemptFail_mask s (execSpindleAttemptFail
    n s) := by
  unfold execSpindleAttemptFail
  refine KeepsRes.ite ?_ ?_
  · exact KeepsRes.next (Keeps.refl _ _)
  extract_lets +onlyGivenNames y0
  clear_value y0
  refine KeepsRes.ite ?_ ?_
  · exact KeepsRes.next (Keeps.refl _ _)
  refine KeepsRes.ite ?_ ?_
  · split
    · rename_i z1 z2 z3
      exact KeepsRes.next (Keeps.step (State.attemptFail_keeps ..) (Keeps.step (State.advanceTo_keeps ..) (Keeps.refl _ _)))
    rename_i z4 z5
    exact KeepsRes.next (Keeps.refl _ _)
  refine KeepsRes.ite ?_ ?_
  · exact KeepsRes.next (Keeps.step (State.attemptFail_keeps ..) (Keeps.refl _ _))
  exact KeepsRes.next (Keeps.refl _ _)

def execSpindleRetry_mask : Nat := State.senseSpindle_mask ||| State.advanceTo_mask

theorem execSpindleRetry_keeps (n : Fin 128) (s : State) : KeepsRes execSpindleRetry_mask s (execSpindleRetry n s) := by
  unfold execSpindleRetry
  refine KeepsRes.ite ?_ ?_
  · exact KeepsRes.next (Keeps.refl _ _)
  split
  · rename_i z0 z1 z2
    exact KeepsRes.next (Keeps.step (State.senseSpindle_keeps ..) (Keeps.step (State.advanceTo_keeps ..) (Keeps.refl _ _)))
  rename_i z3 z4
  exact KeepsRes.next (Keeps.refl _ _)

def execSpindleLockedRotor_mask : Nat := State.advanceTo_mask ||| State.attemptFail_mask ||| State.raise_mask |||
    State.headsGiveUp_mask ||| State.faultSpindle_mask ||| State.dropPhase_mask

theorem execSpindleLockedRotor_keeps (n : Fin 128) (s : State) : KeepsRes execSpindleLockedRotor_mask s (execSpindleLockedRotor
    n s) := by
  unfold execSpindleLockedRotor
  refine KeepsRes.ite ?_ ?_
  · exact KeepsRes.next (Keeps.refl _ _)
  extract_lets +onlyGivenNames y0
  clear_value y0
  refine KeepsRes.ite ?_ ?_
  · extract_lets +onlyGivenNames y1
    have h2 : Keeps execSpindleLockedRotor_mask s y1 := Keeps.step (State.advanceTo_keeps ..) (Keeps.refl _ _)
    clear_value y1
    exact KeepsRes.next (Keeps.step (State.attemptFail_keeps ..) (Keeps.step (State.raise_keeps ..) h2))
  refine KeepsRes.ite ?_ ?_
  · extract_lets +onlyGivenNames y3
    have h4 : Keeps execSpindleLockedRotor_mask s y3 := Keeps.step (State.advanceTo_keeps ..) (Keeps.refl _ _)
    clear_value y3
    exact KeepsRes.next (Keeps.step (State.headsGiveUp_keeps ..) (Keeps.step (State.faultSpindle_keeps ..) (Keeps.step
        (State.raise_keeps ..) (Keeps.step (State.dropPhase_keeps ..) h4))))
  exact KeepsRes.next (Keeps.refl _ _)

def execSpindleObserverLoss_mask : Nat := State.bridge_mask ||| State.gateSpeed_mask ||| State.raise_mask ||| State.setSp_mask
    ||| State.dropPhase_mask ||| State.putSpin_mask ||| State.markReverify_mask ||| State.abandonOp_mask |||
    State.stopWriting_mask ||| State.gateHead_mask ||| State.gateTrack_mask ||| State.setHd_mask ||| State.abandonHeadCal_mask
    ||| fieldBits [Reg.STN_SP_COUNT_OBS_LOSS, Reg.STN_SP_STATUS_AT_SPEED]

theorem execSpindleObserverLoss_keeps (n : Fin 128) (s : State) : KeepsRes execSpindleObserverLoss_mask s
    (execSpindleObserverLoss n s) := by
  unfold execSpindleObserverLoss
  refine KeepsRes.ite ?_ ?_
  · exact KeepsRes.next (Keeps.refl _ _)
  split
  · rename_i z0 z1
    exact KeepsRes.next (Keeps.refl _ _)
  rename_i z2 z3 z4
  refine KeepsRes.ite ?_ ?_
  · exact KeepsRes.next (Keeps.refl _ _)
  extract_lets +onlyGivenNames y5
  clear_value y5
  extract_lets +onlyGivenNames y6
  have h7 : Keeps execSpindleObserverLoss_mask s y6 := Keeps.bump (Keeps.step (State.bridge_keeps ..) (Keeps.step
      (State.gateSpeed_keeps ..) (Keeps.refl _ _)))
  clear_value y6
  extract_lets +onlyGivenNames y8
  have h9 : Keeps execSpindleObserverLoss_mask s y8 := Keeps.step (State.raise_keeps ..) h7
  clear_value y8
  extract_lets +onlyGivenNames y10
  have h11 : Keeps execSpindleObserverLoss_mask s y10 := Keeps.step (State.setSp_keeps ..) (Keeps.clr (Keeps.step
      (State.dropPhase_keeps ..) h9))
  clear_value y10
  extract_lets +onlyGivenNames y12
  clear_value y12
  extract_lets +onlyGivenNames y13
  have h14 : Keeps execSpindleObserverLoss_mask s y13 := Keeps.step (State.putSpin_keeps ..) h11
  clear_value y13
  refine KeepsRes.next (Keeps.foldl (fun t15 a16 => ?_) ?_)
  · refine Keeps.ite ?_ ?_
    · extract_lets +onlyGivenNames y17
      have h18 : Keeps execSpindleObserverLoss_mask t15 y17 := Keeps.step (State.markReverify_keeps ..) (Keeps.step
          (State.abandonOp_keeps ..) (Keeps.step (State.stopWriting_keeps ..) (Keeps.refl _ _)))
      clear_value y17
      extract_lets +onlyGivenNames y19
      have h20 : Keeps execSpindleObserverLoss_mask t15 y19 := Keeps.step (State.gateHead_keeps ..) (Keeps.step
          (State.gateTrack_keeps ..) h18)
      clear_value y19
      exact Keeps.step (State.setHd_keeps ..) (Keeps.step (State.abandonHeadCal_keeps ..) h20)
    exact Keeps.refl _ _
  exact h14

def execSpindleReacquired_mask : Nat := State.putSpin_mask ||| State.catchSpindle_mask ||| State.brakeSpindle_mask |||
    State.seedObserver_mask ||| fieldBits [Reg.STN_SP_STATUS_REVERSE]

theorem execSpindleReacquired_keeps (n : Fin 128) (s : State) : KeepsRes execSpindleReacquired_mask s (execSpindleReacquired n
    s) := by
  unfold execSpindleReacquired
  refine KeepsRes.ite ?_ ?_
  · exact KeepsRes.next (Keeps.refl _ _)
  refine KeepsRes.ite ?_ ?_
  · exact KeepsRes.next (Keeps.refl _ _)
  split
  · rename_i z0 z1
    exact KeepsRes.next (Keeps.refl _ _)
  rename_i z2 z3 z4
  extract_lets +onlyGivenNames y5
  clear_value y5
  extract_lets +onlyGivenNames y6
  have h7 : Keeps execSpindleReacquired_mask s y6 := Keeps.step (State.putSpin_keeps ..) (Keeps.wrB (Keeps.refl _ _))
  clear_value y6
  refine KeepsRes.ite ?_ ?_
  · exact KeepsRes.next (Keeps.step (State.catchSpindle_keeps ..) h7)
  exact KeepsRes.next (Keeps.step (State.brakeSpindle_keeps ..) (Keeps.step (State.seedObserver_keeps ..) h7))

def execSpindleReacqTimeout_mask : Nat := State.brakeSpindle_mask ||| State.advanceTo_mask

theorem execSpindleReacqTimeout_keeps (n : Fin 128) (s : State) : KeepsRes execSpindleReacqTimeout_mask s
    (execSpindleReacqTimeout n s) := by
  unfold execSpindleReacqTimeout
  refine KeepsRes.ite ?_ ?_
  · exact KeepsRes.next (Keeps.refl _ _)
  refine KeepsRes.ite ?_ ?_
  · exact KeepsRes.next (Keeps.refl _ _)
  exact KeepsRes.next (Keeps.step (State.brakeSpindle_keeps ..) (Keeps.step (State.advanceTo_keeps ..) (Keeps.refl _ _)))

def execSpindleVbusChange_mask : Nat := State.shortOn_mask ||| State.raise_mask ||| State.bridge_mask ||| fieldBits
    [Reg.STN_SP_STATUS_SHORT]

theorem execSpindleVbusChange_keeps (n : Fin 128) (s : State) : KeepsRes execSpindleVbusChange_mask s (execSpindleVbusChange n
    s) := by
  unfold execSpindleVbusChange
  refine KeepsRes.ite ?_ ?_
  · exact KeepsRes.next (Keeps.refl _ _)
  extract_lets +onlyGivenNames y0
  clear_value y0
  refine KeepsRes.ite ?_ ?_
  · exact KeepsRes.next (Keeps.refl _ _)
  extract_lets +onlyGivenNames y1
  clear_value y1
  extract_lets +onlyGivenNames y2
  clear_value y2
  extract_lets +onlyGivenNames y3
  clear_value y3
  refine KeepsRes.ite ?_ ?_
  · exact KeepsRes.next (Keeps.step (State.shortOn_keeps ..) (Keeps.refl _ _))
  refine KeepsRes.ite ?_ ?_
  · exact KeepsRes.next (Keeps.step (State.raise_keeps ..) (Keeps.step (State.bridge_keeps ..) (Keeps.clr (Keeps.refl _ _))))
  exact KeepsRes.next (Keeps.refl _ _)

def execSpindleBrakeEnd_mask : Nat := State.gateSpeed_mask ||| State.bridge_mask ||| State.setSp_mask ||| fieldBits
    [Reg.STN_SP_STATUS_SHORT]

theorem execSpindleBrakeEnd_keeps (n : Fin 128) (s : State) : KeepsRes execSpindleBrakeEnd_mask s (execSpindleBrakeEnd n s) :=
    by
  unfold execSpindleBrakeEnd
  refine KeepsRes.ite ?_ ?_
  · exact KeepsRes.next (Keeps.refl _ _)
  refine KeepsRes.ite ?_ ?_
  · exact KeepsRes.next (Keeps.refl _ _)
  extract_lets +onlyGivenNames y0
  have h1 : Keeps execSpindleBrakeEnd_mask s y0 := Keeps.step (State.gateSpeed_keeps ..) (Keeps.step (State.bridge_keeps ..)
      (Keeps.clr (Keeps.refl _ _)))
  clear_value y0
  exact KeepsRes.next (Keeps.step (State.setSp_keeps ..) h1)

def execSpindleHoldEnd_mask : Nat := State.advanceTo_mask ||| State.raise_mask ||| State.setSp_mask ||| State.bridge_mask |||
    State.headsGiveUp_mask ||| State.faultSpindle_mask ||| State.startSpindle_mask

theorem execSpindleHoldEnd_keeps (n : Fin 128) (s : State) : KeepsRes execSpindleHoldEnd_mask s (execSpindleHoldEnd n s) := by
  unfold execSpindleHoldEnd
  refine KeepsRes.ite ?_ ?_
  · exact KeepsRes.next (Keeps.refl _ _)
  refine KeepsRes.ite ?_ ?_
  · exact KeepsRes.next (Keeps.refl _ _)
  extract_lets +onlyGivenNames y0
  clear_value y0
  extract_lets +onlyGivenNames y1
  have h2 : Keeps execSpindleHoldEnd_mask s y1 := Keeps.step (State.advanceTo_keeps ..) (Keeps.refl _ _)
  clear_value y1
  extract_lets +onlyGivenNames y3
  have h4 : Keeps execSpindleHoldEnd_mask s y3 := Keeps.step (State.raise_keeps ..) (Keeps.step (State.setSp_keeps ..)
      (Keeps.step (State.bridge_keeps ..) h2))
  clear_value y3
  extract_lets +onlyGivenNames y5
  clear_value y5
  refine KeepsRes.ite ?_ ?_
  · refine KeepsRes.ite ?_ ?_
    · exact KeepsRes.next (Keeps.step (State.headsGiveUp_keeps ..) (Keeps.step (State.faultSpindle_keeps ..) h4))
    refine KeepsRes.ite ?_ ?_
    · exact KeepsRes.next (Keeps.step (State.startSpindle_keeps ..) h4)
    exact KeepsRes.next (Keeps.step (State.headsGiveUp_keeps ..) h4)
  refine KeepsRes.ite ?_ ?_
  · exact KeepsRes.next (Keeps.step (State.startSpindle_keeps ..) h4)
  exact KeepsRes.next h4

def execSpindleBrakeTimeout_mask : Nat := State.headsGiveUp_mask ||| State.faultSpindle_mask ||| State.advanceTo_mask

theorem execSpindleBrakeTimeout_keeps (n : Fin 128) (s : State) : KeepsRes execSpindleBrakeTimeout_mask s
    (execSpindleBrakeTimeout n s) := by
  unfold execSpindleBrakeTimeout
  refine KeepsRes.ite ?_ ?_
  · exact KeepsRes.next (Keeps.refl _ _)
  refine KeepsRes.ite ?_ ?_
  · exact KeepsRes.next (Keeps.refl _ _)
  exact KeepsRes.next (Keeps.step (State.headsGiveUp_keeps ..) (Keeps.step (State.faultSpindle_keeps ..) (Keeps.step
      (State.advanceTo_keeps ..) (Keeps.refl _ _))))

def State.headsResume_mask : Nat := State.enterStage_mask ||| State.enterRecover_mask ||| State.releaseHead_mask

theorem State.headsResume_keeps (s : State) (n : Nat) : Keeps State.headsResume_mask s (State.headsResume s n) := by
  unfold State.headsResume
  refine Keeps.foldl (fun t0 a1 => ?_) ?_
  · refine Keeps.ite ?_ ?_
    · exact Keeps.step (State.enterStage_keeps ..) (Keeps.step (State.enterRecover_keeps ..) (Keeps.step
        (State.releaseHead_keeps ..) (Keeps.refl _ _)))
    exact Keeps.refl _ _
  exact Keeps.refl _ _

def State.mountGo_mask : Nat := State.acquire_mask

theorem State.mountGo_keeps (s : State) (n : Nat) : Keeps State.mountGo_mask s (State.mountGo s n) := by
  unfold State.mountGo
  refine Keeps.ite ?_ ?_
  · refine Keeps.foldl (fun t0 a1 => ?_) ?_
    · refine Keeps.ite ?_ ?_
      · exact Keeps.step (State.acquire_keeps ..) (Keeps.refl _ _)
      exact Keeps.refl _ _
    exact Keeps.refl _ _
  exact Keeps.refl _ _

def execSpindleAtSpeed_mask : Nat := State.advanceTo_mask ||| State.putSpin_mask ||| State.raise_mask ||| State.mountGo_mask
    ||| State.headsResume_mask ||| fieldBits [Reg.STN_SP_STATUS_AT_SPEED, Reg.STN_SP_COUNT_STARTS, Reg.STN_SP_STATUS_ATTEMPT]

theorem execSpindleAtSpeed_keeps (n : Fin 128) (s : State) : KeepsRes execSpindleAtSpeed_mask s (execSpindleAtSpeed n s) := by
  unfold execSpindleAtSpeed
  refine KeepsRes.ite ?_ ?_
  · exact KeepsRes.next (Keeps.refl _ _)
  extract_lets +onlyGivenNames y0
  clear_value y0
  split
  · rename_i z1 z2
    exact KeepsRes.next (Keeps.refl _ _)
  rename_i z3 z4 z5
  refine KeepsRes.ite ?_ ?_
  · exact KeepsRes.next (Keeps.refl _ _)
  extract_lets +onlyGivenNames y6
  have h7 : Keeps execSpindleAtSpeed_mask s y6 := Keeps.set1 (Keeps.step (State.advanceTo_keeps ..) (Keeps.refl _ _))
  clear_value y6
  extract_lets +onlyGivenNames y8
  have h9 : Keeps execSpindleAtSpeed_mask s y8 := by
    unfold y8
    refine Keeps.ite ?_ ?_
    · exact h7
    exact Keeps.step (State.putSpin_keeps ..) (Keeps.step (State.raise_keeps ..) (Keeps.bump (Keeps.wr h7)))
  clear_value y8
  exact KeepsRes.next (Keeps.step (State.mountGo_keeps ..) (Keeps.step (State.headsResume_keeps ..) h9))

def execPhaseLockChange_mask : Nat := State.raise_mask ||| State.dropPhase_mask ||| fieldBits [Reg.STN_SP_STATUS_PHASE_LOCKED]

theorem execPhaseLockChange_keeps (n : Fin 128) (s : State) : KeepsRes execPhaseLockChange_mask s (execPhaseLockChange n s) :=
    by
  unfold execPhaseLockChange
  refine KeepsRes.ite ?_ ?_
  · exact KeepsRes.next (Keeps.refl _ _)
  extract_lets +onlyGivenNames y0
  clear_value y0
  extract_lets +onlyGivenNames y1
  clear_value y1
  refine KeepsRes.ite ?_ ?_
  · exact KeepsRes.next (Keeps.step (State.raise_keeps ..) (Keeps.set1 (Keeps.refl _ _)))
  refine KeepsRes.ite ?_ ?_
  · exact KeepsRes.next (Keeps.step (State.dropPhase_keeps ..) (Keeps.refl _ _))
  exact KeepsRes.next (Keeps.refl _ _)

def execSpindleClearFault_mask : Nat := State.setSp_mask ||| State.startSpindle_mask ||| fieldBits
    [Reg.STN_SP_STATUS_FAULT_CAUSE]

theorem execSpindleClearFault_keeps (n : Fin 128) (s : State) : KeepsRes execSpindleClearFault_mask s (execSpindleClearFault n
    s) := by
  unfold execSpindleClearFault
  refine KeepsRes.ite ?_ ?_
  · exact KeepsRes.next (Keeps.refl _ _)
  refine KeepsRes.ite ?_ ?_
  · extract_lets +onlyGivenNames y0
    have h1 : Keeps execSpindleClearFault_mask s y0 := Keeps.step (State.setSp_keeps ..) (Keeps.wr (Keeps.refl _ _))
    clear_value y0
    refine KeepsRes.next (Keeps.ite ?_ ?_)
    · exact Keeps.step (State.startSpindle_keeps ..) h1
    exact h1
  exact KeepsRes.next (Keeps.refl _ _)

end Sys2Proof.Machine
end

