-- ==== Sys2Proof/Laws/KeepsMotion.lean ====
section
/-!
SUPPORT. What the operations of Machine/Motion.lean leave as it was, one lemma for each.
-/

set_option Elab.async false

namespace Sys2Proof.Machine

def State.axAtRest_mask : Nat := State.setAx_mask

theorem State.axAtRest_keeps (s : State) (a : Nat) : Keeps State.axAtRest_mask s (State.axAtRest s a) := by
  unfold State.axAtRest
  exact Keeps.step (State.setAx_keeps ..) (Keeps.refl _ _)

def State.axGo_mask : Nat := fieldBits [Reg.MOT_AX_CMD_OP]

theorem State.axGo_keeps {m : Nat} (s : State) (a op : Nat) (f : State → State) (hf : ∀ t, Keeps m t (f t))
    (hm : State.axGo_mask ||| m = m := by decide +kernel) : Keeps m s (s.axGo a op f) := by
  unfold State.axGo
  have hx : Keeps m s (s.wr Reg.MOT_AX_CMD_OP a op) := Keeps.wr (Keeps.refl _ _) (testBit_super hm (by decide +kernel))
  exact Keeps.ite hx (Keeps.trans hx (hf _))

def execAxisMove_mask : Nat := State.axGo_mask ||| State.axRefuse_mask ||| State.startMove_mask ||| fieldBits
    [Reg.MOT_AX_CMD_RESULT, Reg.MOT_AX_CMD_BUSY]

theorem execAxisMove_keeps (a : Fin 264) (s : State) : KeepsRes execAxisMove_mask s (execAxisMove a s) := by
  unfold execAxisMove
  extract_lets +onlyGivenNames y0
  clear_value y0
  refine KeepsRes.next (Keeps.trans ?_ (State.axGo_keeps _ _ _ _ (fun t1 => ?_)))
  · exact Keeps.refl _ _
  refine Keeps.ite ?_ ?_
  · exact Keeps.step (State.axRefuse_keeps ..) (Keeps.refl _ _)
  refine Keeps.ite ?_ ?_
  · exact Keeps.step (State.axRefuse_keeps ..) (Keeps.refl _ _)
  refine Keeps.ite ?_ ?_
  · exact Keeps.wr (Keeps.refl _ _)
  refine Keeps.ite ?_ ?_
  · exact Keeps.step (State.axRefuse_keeps ..) (Keeps.refl _ _)
  refine Keeps.ite ?_ ?_
  · exact Keeps.step (State.axRefuse_keeps ..) (Keeps.refl _ _)
  refine Keeps.ite ?_ ?_
  · exact Keeps.step (State.axRefuse_keeps ..) (Keeps.refl _ _)
  exact Keeps.step (State.startMove_keeps ..) (Keeps.set1 (Keeps.refl _ _))

def execAxisStop_mask : Nat := State.axGo_mask ||| State.stopAxis_mask ||| fieldBits [Reg.MOT_AX_CMD_RESULT]

theorem execAxisStop_keeps (a : Fin 264) (s : State) : KeepsRes execAxisStop_mask s (execAxisStop a s) := by
  unfold execAxisStop
  refine KeepsRes.next (Keeps.trans ?_ (State.axGo_keeps _ _ _ _ (fun t0 => ?_)))
  · exact Keeps.refl _ _
  refine Keeps.ite ?_ ?_
  · exact Keeps.step (State.stopAxis_keeps ..) (Keeps.refl _ _)
  refine Keeps.ite ?_ ?_
  · exact Keeps.refl _ _
  exact Keeps.wr (Keeps.refl _ _)

def execAxisHome_mask : Nat := State.axGo_mask ||| State.axRefuse_mask ||| State.homePicker_mask ||| State.homeSled_mask |||
    fieldBits [Reg.MOT_AX_CMD_RESULT, Reg.MOT_AX_CMD_BUSY]

theorem execAxisHome_keeps (a : Fin 264) (s : State) : KeepsRes execAxisHome_mask s (execAxisHome a s) := by
  unfold execAxisHome
  extract_lets +onlyGivenNames y0
  clear_value y0
  refine KeepsRes.next (Keeps.trans ?_ (State.axGo_keeps _ _ _ _ (fun t1 => ?_)))
  · exact Keeps.refl _ _
  refine Keeps.ite ?_ ?_
  · exact Keeps.step (State.axRefuse_keeps ..) (Keeps.refl _ _)
  refine Keeps.ite ?_ ?_
  · exact Keeps.wr (Keeps.refl _ _)
  refine Keeps.ite ?_ ?_
  · refine Keeps.ite ?_ ?_
    · exact Keeps.step (State.homePicker_keeps ..) (Keeps.set1 (Keeps.refl _ _))
    exact Keeps.step (State.axRefuse_keeps ..) (Keeps.refl _ _)
  exact Keeps.step (State.homeSled_keeps ..) (Keeps.set1 (Keeps.refl _ _))

def execAxisClear_mask : Nat := State.axGo_mask ||| State.setAx_mask ||| fieldBits [Reg.MOT_AX_CMD_RESULT]

theorem execAxisClear_keeps (a : Fin 264) (s : State) : KeepsRes execAxisClear_mask s (execAxisClear a s) := by
  unfold execAxisClear
  refine KeepsRes.next (Keeps.trans ?_ (State.axGo_keeps _ _ _ _ (fun t0 => ?_)))
  · exact Keeps.refl _ _
  refine Keeps.ite ?_ ?_
  · exact Keeps.wr (Keeps.step (State.setAx_keeps ..) (Keeps.refl _ _))
  exact Keeps.wr (Keeps.refl _ _)

def execAxisTargetWrite_mask : Nat := State.motErr_mask ||| fieldBits [Reg.MOT_AX_TARGET_VALUE]

theorem execAxisTargetWrite_keeps (a : Fin 264) (v : BitVec 32) (s : State) : KeepsRes execAxisTargetWrite_mask s
    (execAxisTargetWrite a v s) := by
  unfold execAxisTargetWrite
  refine KeepsRes.ite ?_ ?_
  · exact KeepsRes.next (Keeps.step (State.motErr_keeps ..) (Keeps.refl _ _))
  exact KeepsRes.next (Keeps.wr (Keeps.refl _ _))

def State.sledSettle_mask : Nat := State.putHead_mask

theorem State.sledSettle_keeps (s : State) (a : Nat) : Keeps State.sledSettle_mask s (State.sledSettle s a) := by
  unfold State.sledSettle
  extract_lets +onlyGivenNames y0
  clear_value y0
  refine Keeps.ite ?_ ?_
  · exact Keeps.step (State.putHead_keeps ..) (Keeps.refl _ _)
  exact Keeps.refl _ _

def execAxisMoveDone_mask : Nat := State.advanceTo_mask ||| State.startMove_mask ||| State.setAx_mask ||| State.putAxis_mask
    ||| State.endPlan_mask ||| State.axAtRest_mask ||| State.openDoor_mask ||| State.mountGo_mask ||| State.sledSettle_mask |||
    fieldBits [Reg.MOT_AX_POS_VALUE]

theorem execAxisMoveDone_keeps (a : Fin 264) (s : State) : KeepsRes execAxisMoveDone_mask s (execAxisMoveDone a s) := by
  unfold execAxisMoveDone
  extract_lets +onlyGivenNames y0
  clear_value y0
  split
  · rename_i z1 z2 z3
    split
    · rename_i z4 z5 z6
      extract_lets +onlyGivenNames y7
      clear_value y7
      refine KeepsRes.ite ?_ ?_
      · exact KeepsRes.next (Keeps.refl _ _)
      extract_lets +onlyGivenNames y8
      have h9 : Keeps execAxisMoveDone_mask s y8 := Keeps.step (State.advanceTo_keeps ..) (Keeps.refl _ _)
      clear_value y8
      split
      · rename_i z10 z11 z12 z13 z14 z15
        exact KeepsRes.next (Keeps.step (State.startMove_keeps ..) (Keeps.step (State.setAx_keeps ..) (Keeps.step
            (State.putAxis_keeps ..) (Keeps.wrS h9))))
      rename_i z16 z17 z18
      extract_lets +onlyGivenNames y19
      have h20 : Keeps execAxisMoveDone_mask s y19 := Keeps.step (State.endPlan_keeps ..) h9
      clear_value y19
      extract_lets +onlyGivenNames y21
      have h22 : Keeps execAxisMoveDone_mask s y21 := by
        unfold y21
        refine Keeps.ite ?_ ?_
        · exact h20
        exact Keeps.step (State.axAtRest_keeps ..) h20
      clear_value y21
      exact KeepsRes.next (Keeps.step (State.openDoor_keeps ..) (Keeps.step (State.mountGo_keeps ..) (Keeps.step
          (State.sledSettle_keeps ..) h22)))
    rename_i z23 z24
    exact KeepsRes.next (Keeps.refl _ _)
  rename_i z25 z26
  exact KeepsRes.next (Keeps.refl _ _)

def State.pickerHomed_mask : Nat := State.homePicker_mask ||| fieldBits [Reg.LIB_PK_STATE]

theorem State.pickerHomed_keeps (s : State) (a : Nat) : Keeps State.pickerHomed_mask s (State.pickerHomed s a) := by
  unfold State.pickerHomed
  extract_lets +onlyGivenNames y0
  clear_value y0
  refine Keeps.ite ?_ ?_
  · split
    · rename_i z1 z2 z3
      exact Keeps.step (State.homePicker_keeps ..) (Keeps.refl _ _)
    rename_i z4 z5
    exact Keeps.wr (Keeps.refl _ _)
  exact Keeps.refl _ _

def State.homed_mask : Nat := State.axAtRest_mask ||| State.putAxis_mask ||| State.raise_mask ||| State.axDone_mask |||
    State.startMove_mask ||| State.pickerHomed_mask ||| fieldBits [Reg.MOT_AX_STATUS_REF, Reg.MOT_AX_POS_VALUE]

theorem State.homed_keeps (s : State) (a : Nat) (pos : Int) : Keeps State.homed_mask s (State.homed s a pos) := by
  unfold State.homed
  extract_lets +onlyGivenNames y0
  clear_value y0
  extract_lets +onlyGivenNames y1
  have h2 : Keeps State.homed_mask s y1 := Keeps.set1 (Keeps.wrS (Keeps.refl _ _))
  clear_value y1
  extract_lets +onlyGivenNames y3
  clear_value y3
  extract_lets +onlyGivenNames y4
  have h5 : Keeps State.homed_mask s y4 := Keeps.step (State.axAtRest_keeps ..) (Keeps.step (State.putAxis_keeps ..) h2)
  clear_value y4
  extract_lets +onlyGivenNames y6
  have h7 : Keeps State.homed_mask s y6 := Keeps.step (State.raise_keeps ..) (Keeps.step (State.axDone_keeps ..) h5)
  clear_value y6
  split
  · rename_i z8 z9
    exact Keeps.step (State.startMove_keeps ..) h7
  rename_i z10
  exact Keeps.step (State.pickerHomed_keeps ..) h7

def State.emitHoming_mask : Nat := State.emitSteps_mask

theorem State.emitHoming_keeps (s : State) (a : Nat) (p : Plan) (t0 rise fall : Nat) : Keeps State.emitHoming_mask s
    (State.emitHoming s a p t0 rise fall) := by
  unfold State.emitHoming
  extract_lets +onlyGivenNames y0
  clear_value y0
  extract_lets +onlyGivenNames y1
  clear_value y1
  exact Keeps.step (State.emitSteps_keeps ..) (Keeps.step (State.emitSteps_keeps ..) (Keeps.refl _ _))

def execAxisHomeDone_mask : Nat := State.homed_mask ||| State.advanceTo_mask ||| State.openDoor_mask ||| State.emitHoming_mask
    ||| State.endPlan_mask ||| State.raise_mask ||| fieldBits [Reg.LIB_PK_STATE]

theorem execAxisHomeDone_keeps (a : Fin 264) (found : Bool) (rise fall : Nat) (s : State) : KeepsRes execAxisHomeDone_mask s
    (execAxisHomeDone a found rise fall s) := by
  unfold execAxisHomeDone
  extract_lets +onlyGivenNames y0
  clear_value y0
  split
  · rename_i z1 z2
    exact KeepsRes.next (Keeps.refl _ _)
  rename_i z3 z4 z5
  split
  · rename_i z6 z7 z8 z9 z10 z11
    refine KeepsRes.ite ?_ ?_
    · exact KeepsRes.next (Keeps.refl _ _)
    refine KeepsRes.ite ?_ ?_
    · exact KeepsRes.next (Keeps.step (State.homed_keeps ..) (Keeps.step (State.advanceTo_keeps ..) (Keeps.refl _ _)))
    refine KeepsRes.ite ?_ ?_
    · exact KeepsRes.next (Keeps.step (State.openDoor_keeps ..) (Keeps.step (State.homed_keeps ..) (Keeps.step
        (State.emitHoming_keeps ..) (Keeps.step (State.advanceTo_keeps ..) (Keeps.refl _ _)))))
    extract_lets +onlyGivenNames y12
    have h13 : Keeps execAxisHomeDone_mask s y12 := Keeps.step (State.endPlan_keeps ..) (Keeps.step (State.advanceTo_keeps ..)
        (Keeps.refl _ _))
    clear_value y12
    exact KeepsRes.next (Keeps.step (State.openDoor_keeps ..) (Keeps.step (State.raise_keeps ..) (Keeps.wr h13)))
  rename_i z14 z15 z16
  exact KeepsRes.next (Keeps.refl _ _)

def execAxisFaultInput_mask : Nat := State.putAxis_mask ||| State.freezePlan_mask ||| State.setAx_mask ||| State.loseRef_mask
    ||| State.raise_mask ||| State.axDone_mask ||| State.stopAxis_mask ||| State.fail_mask ||| fieldBits [Reg.MOT_AX_CTRL_EN,
    Reg.LIB_PK_STATE] ||| partBits [.lib]

theorem execAxisFaultInput_keeps (j : Fin 8) (level : Bool) (s : State) : KeepsRes execAxisFaultInput_mask s
    (execAxisFaultInput j level s) := by
  unfold execAxisFaultInput
  extract_lets +onlyGivenNames y0
  clear_value y0
  extract_lets +onlyGivenNames y1
  clear_value y1
  refine KeepsRes.ite ?_ ?_
  · exact KeepsRes.next (Keeps.step (State.putAxis_keeps ..) (Keeps.refl _ _))
  extract_lets +onlyGivenNames y2
  have h3 : Keeps execAxisFaultInput_mask s y2 := Keeps.step (State.freezePlan_keeps ..) (Keeps.step (State.putAxis_keeps ..)
      (Keeps.refl _ _))
  clear_value y2
  extract_lets +onlyGivenNames y4
  have h5 : Keeps execAxisFaultInput_mask s y4 := Keeps.step (State.setAx_keeps ..) (Keeps.step (State.loseRef_keeps ..)
      (Keeps.clr h3))
  clear_value y4
  extract_lets +onlyGivenNames y6
  have h7 : Keeps execAxisFaultInput_mask s y6 := Keeps.step (State.raise_keeps ..) (Keeps.step (State.axDone_keeps ..) h5)
  clear_value y6
  extract_lets +onlyGivenNames y8
  clear_value y8
  extract_lets +onlyGivenNames y9
  have h10 : Keeps execAxisFaultInput_mask s y9 := by
    unfold y9
    refine Keeps.foldl (fun t11 a12 => ?_) ?_
    · refine Keeps.ite ?_ ?_
      · exact Keeps.refl _ _
      exact Keeps.step (State.stopAxis_keeps ..) (Keeps.refl _ _)
    exact h7
  clear_value y9
  extract_lets +onlyGivenNames y13
  have h14 : Keeps execAxisFaultInput_mask s y13 := Keeps.wr h10
  clear_value y13
  extract_lets +onlyGivenNames y15
  clear_value y15
  extract_lets +onlyGivenNames y16
  have h17 : Keeps execAxisFaultInput_mask s y16 := by
    unfold y16
    refine Keeps.foldl (fun t18 a19 => ?_) ?_
    · split
      · rename_i z20 z21 z22 z23
        exact Keeps.step (State.fail_keeps ..) (Keeps.refl _ _)
      rename_i z24 z25
      exact Keeps.refl _ _
    exact h14
  clear_value y16
  exact KeepsRes.next (Keeps.set_lib h17)

def execMotionStopAll_mask : Nat := State.stopAll_mask

theorem execMotionStopAll_keeps (s : State) : KeepsRes execMotionStopAll_mask s (execMotionStopAll s) := by
  unfold execMotionStopAll
  exact KeepsRes.next (Keeps.step (State.stopAll_keeps ..) (Keeps.refl _ _))

def State.sendStep_mask : Nat := State.send_mask ||| State.putAxis_mask ||| State.putStn_mask

theorem State.sendStep_keeps (s : State) (n side due : Nat) (blocks : List Nat) : Keeps State.sendStep_mask s (State.sendStep s
    n side due blocks) := by
  unfold State.sendStep
  refine Keeps.ite ?_ ?_
  · exact Keeps.refl _ _
  extract_lets +onlyGivenNames y0
  clear_value y0
  extract_lets +onlyGivenNames y1
  have h2 : Keeps State.sendStep_mask s y1 := Keeps.step (State.send_keeps ..) (Keeps.refl _ _)
  clear_value y1
  extract_lets +onlyGivenNames y3
  clear_value y3
  extract_lets +onlyGivenNames y4
  clear_value y4
  extract_lets +onlyGivenNames y5
  clear_value y5
  extract_lets +onlyGivenNames y6
  have h7 : Keeps State.sendStep_mask s y6 := Keeps.step (State.putAxis_keeps ..) h2
  clear_value y6
  exact Keeps.step (State.putStn_keeps ..) h7

def State.sendPlan_mask : Nat := State.sendStep_mask ||| State.putAxis_mask

theorem State.sendPlan_keeps : ∀ (n side t0 k left : Nat) (s : State), Keeps State.sendPlan_mask s (State.sendPlan n side t0 k
    left s) := by
  intro n side t0 k
  induction k with
  | zero => intro left s; exact Keeps.refl _ _
  | succ k ih =>
    intro left s
    unfold State.sendPlan
    extract_lets +onlyGivenNames y0
    clear_value y0
    extract_lets +onlyGivenNames y1
    clear_value y1
    split
    · rename_i z2 z3
      exact Keeps.refl _ _
    rename_i z4 z5 z6
    extract_lets +onlyGivenNames y7
    clear_value y7
    extract_lets +onlyGivenNames y8
    clear_value y8
    refine Keeps.ite ?_ ?_
    · exact Keeps.refl _ _
    exact Keeps.step (ih ..) (Keeps.step (State.sendStep_keeps ..) (Keeps.step (State.putAxis_keeps ..) (Keeps.refl _ _)))
        (Nat.or_self _)

def execStepSend_mask : Nat := State.sendPlan_mask ||| State.putAxis_mask ||| State.raise_mask ||| State.sendStep_mask |||
    fieldBits [Reg.MOT_AX_STATUS_SPEED, Reg.MOT_AX_STATUS_DIR, Reg.MOT_AX_POS_VALUE]

theorem execStepSend_keeps (n : Fin 128) (side : Fin 2) (count : Nat) (s : State) : KeepsRes execStepSend_mask s (execStepSend
    n side count s) := by
  unfold execStepSend
  extract_lets +onlyGivenNames y0
  clear_value y0
  extract_lets +onlyGivenNames y1
  clear_value y1
  refine KeepsRes.ite ?_ ?_
  · exact KeepsRes.next (Keeps.refl _ _)
  split
  · rename_i z2 z3 z4
    split
    · rename_i z5 z6
      exact KeepsRes.next (Keeps.refl _ _)
    rename_i z7 z8 z9
    exact KeepsRes.next (Keeps.step (State.sendPlan_keeps ..) (Keeps.refl _ _))
  rename_i z10 z11
  refine KeepsRes.ite ?_ ?_
  · exact KeepsRes.next (Keeps.refl _ _)
  refine KeepsRes.ite ?_ ?_
  · exact KeepsRes.next (Keeps.wr (Keeps.step (State.putAxis_keeps ..) (Keeps.refl _ _)))
  extract_lets +onlyGivenNames y12
  clear_value y12
  extract_lets +onlyGivenNames y13
  clear_value y13
  extract_lets +onlyGivenNames y14
  clear_value y14
  extract_lets +onlyGivenNames y15
  have h16 : Keeps execStepSend_mask s y15 := Keeps.step (State.putAxis_keeps ..) (Keeps.refl _ _)
  clear_value y15
  extract_lets +onlyGivenNames y17
  have h18 : Keeps execStepSend_mask s y17 := Keeps.wrB (Keeps.wr (Keeps.wrS h16))
  clear_value y17
  extract_lets +onlyGivenNames y19
  have h20 : Keeps execStepSend_mask s y19 := by
    unfold y19
    refine Keeps.ite ?_ ?_
    · exact Keeps.step (State.raise_keeps ..) h18
    exact h18
  clear_value y19
  exact KeepsRes.next (Keeps.step (State.sendStep_keeps ..) h20)

end Sys2Proof.Machine
end

