-- ==== Sys2Proof/Laws/KeepsLibrary.lean ====
section
/-!
SUPPORT. What the operations of Machine/Library.lean leave as it was, one lemma for each.
-/

set_option Elab.async false

namespace Sys2Proof.Machine

def State.pkTo_mask : Nat := State.pkMove_mask ||| fieldBits [Reg.LIB_PK_LOC]

theorem State.pkTo_keeps (s : State) (m : Nat) (ps : List Int) (e loc : Nat) : Keeps State.pkTo_mask s (State.pkTo s m ps e
    loc) := by
  unfold State.pkTo
  exact Keeps.wr (Keeps.step (State.pkMove_keeps ..) (Keeps.refl _ _))

def State.pkReach_mask : Nat := State.pkMove_mask

theorem State.pkReach_keeps (s : State) (m : Nat) (ps : List Int) (loc : Nat) : Keeps State.pkReach_mask s (State.pkReach s m
    ps loc) := by
  unfold State.pkReach
  exact Keeps.step (State.pkMove_keeps ..) (Keeps.refl _ _)

def State.pkSense_mask : Nat := fieldBits [Reg.LIB_PK_JAW_OPEN, Reg.LIB_PK_DISC, Reg.LIB_PK_SLOT_SNS]

theorem State.pkSense_keeps (s : State) (m : Nat) (slot disc jaw : Bool) : Keeps State.pkSense_mask s (State.pkSense s m slot
    disc jaw) := by
  unfold State.pkSense
  exact Keeps.wrB (Keeps.wrB (Keeps.wrB (Keeps.refl _ _)))

def State.setLoc_mask : Nat := State.putDisc_mask ||| State.ringSend_mask ||| partBits [.stack]

theorem State.setLoc_keeps (s : State) (d : Nat) (l : DiscLoc) : Keeps State.setLoc_mask s (State.setLoc s d l) := by
  unfold State.setLoc
  extract_lets +onlyGivenNames y0
  clear_value y0
  extract_lets +onlyGivenNames y1
  clear_value y1
  extract_lets +onlyGivenNames y2
  have h3 : Keeps State.setLoc_mask s y2 := Keeps.step (State.putDisc_keeps ..) (Keeps.refl _ _)
  clear_value y2
  extract_lets +onlyGivenNames y4
  clear_value y4
  refine Keeps.ite ?_ ?_
  · exact h3
  refine Keeps.ite ?_ ?_
  · exact Keeps.step (State.ringSend_keeps ..) h3
  exact Keeps.set_stack h3

def State.transferRecord_mask : Nat := State.journal_mask

theorem State.transferRecord_keeps (s : State) (t : Transfer) (st : Nat) : Keeps State.transferRecord_mask s
    (State.transferRecord s t st) := by
  unfold State.transferRecord
  exact Keeps.step (State.journal_keeps ..) (Keeps.refl _ _)

def State.putTransfer_mask : Nat := partBits [.lib]

theorem State.putTransfer_keeps (s : State) (t : Transfer) : Keeps State.putTransfer_mask s (State.putTransfer s t) := by
  unfold State.putTransfer
  exact Keeps.set_lib (Keeps.refl _ _)

def State.dropTransfer_mask : Nat := partBits [.lib]

theorem State.dropTransfer_keeps (s : State) (t : Transfer) : Keeps State.dropTransfer_mask s (State.dropTransfer s t) := by
  unfold State.dropTransfer
  exact Keeps.set_lib (Keeps.refl _ _)

def State.failTransfer_mask : Nat := State.fail_mask

theorem State.failTransfer_keeps (s : State) (t : Transfer) : Keeps State.failTransfer_mask s (State.failTransfer s t) := by
  unfold State.failTransfer
  split
  · rename_i z0 z1 z2 z3
    exact Keeps.step (State.fail_keeps ..) (Keeps.refl _ _)
  rename_i z4 z5
  exact Keeps.refl _ _

def State.askTransfer_mask : Nat := State.ringSend_mask ||| partBits [.lib]

theorem State.askTransfer_keeps (s : State) (t : Transfer) : Keeps State.askTransfer_mask s (State.askTransfer s t) := by
  unfold State.askTransfer
  extract_lets +onlyGivenNames y0
  clear_value y0
  extract_lets +onlyGivenNames y1
  clear_value y1
  extract_lets +onlyGivenNames y2
  clear_value y2
  extract_lets +onlyGivenNames y3
  have h4 : Keeps State.askTransfer_mask s y3 := Keeps.set_lib (Keeps.refl _ _)
  clear_value y3
  refine Keeps.foldl (fun t5 a6 => ?_) ?_
  · exact Keeps.step (State.ringSend_keeps ..) (Keeps.refl _ _)
  exact h4

def State.takeEntry_mask : Nat := partBits [.lib]

theorem State.takeEntry_keeps (s : State) (cell loc e : Nat) : Keeps State.takeEntry_mask s (State.takeEntry s cell loc e) := by
  unfold State.takeEntry
  extract_lets +onlyGivenNames y0
  clear_value y0
  exact Keeps.set_lib (Keeps.refl _ _)

def State.readyStation_mask : Nat := State.parkHead_mask ||| State.headMove_mask ||| State.spinTarget_mask

theorem State.readyStation_keeps (s : State) (n : Nat) : Keeps State.readyStation_mask s (State.readyStation s n) := by
  unfold State.readyStation
  refine Keeps.foldl (fun t0 a1 => ?_) ?_
  · refine Keeps.ite ?_ ?_
    · exact Keeps.step (State.parkHead_keeps ..) (Keeps.refl _ _)
    refine Keeps.ite ?_ ?_
    · exact Keeps.refl _ _
    refine Keeps.ite ?_ ?_
    · exact Keeps.step (State.headMove_keeps ..) (Keeps.refl _ _)
    exact Keeps.refl _ _
  refine Keeps.ite ?_ ?_
  · exact Keeps.step (State.spinTarget_keeps ..) (Keeps.refl _ _)
  exact Keeps.refl _ _

def State.mountStart_mask : Nat := State.spinTarget_mask ||| State.headMove_mask

theorem State.mountStart_keeps (s : State) (n : Nat) : Keeps State.mountStart_mask s (State.mountStart s n) := by
  unfold State.mountStart
  extract_lets +onlyGivenNames y0
  have h1 : Keeps State.mountStart_mask s y0 := Keeps.step (State.spinTarget_keeps ..) (Keeps.refl _ _)
  clear_value y0
  exact Keeps.step (State.headMove_keeps ..) (Keeps.step (State.headMove_keeps ..) h1)

def State.homePickers_mask : Nat := State.homePicker_mask ||| fieldBits [Reg.LIB_PK_STATE]

theorem State.homePickers_keeps (s : State) (ms : List Nat) : Keeps State.homePickers_mask s (State.homePickers s ms) := by
  unfold State.homePickers
  refine Keeps.foldl (fun t0 a1 => ?_) ?_
  · refine Keeps.ite ?_ ?_
    · exact Keeps.step (State.homePicker_keeps ..) (Keeps.wr (Keeps.refl _ _))
    exact Keeps.refl _ _
  exact Keeps.refl _ _

def execLibraryEnable_mask : Nat := State.homePickers_mask ||| fieldBits [Reg.LIB_CTRL_EN]

theorem execLibraryEnable_keeps (s : State) : KeepsRes execLibraryEnable_mask s (execLibraryEnable s) := by
  unfold execLibraryEnable
  exact KeepsRes.next (Keeps.step (State.homePickers_keeps ..) (Keeps.set1 (Keeps.refl _ _)))

def execDoorRequestOpen_mask : Nat := State.openDoor_mask ||| partBits [.lib]

theorem execDoorRequestOpen_keeps (s : State) : KeepsRes execDoorRequestOpen_mask s (execDoorRequestOpen s) := by
  unfold execDoorRequestOpen
  exact KeepsRes.next (Keeps.step (State.openDoor_keeps ..) (Keeps.set_lib (Keeps.refl _ _)))

def execDoorRequestLock_mask : Nat := fieldBits [Reg.LIB_STATUS_DOOR_CLOSED, Reg.LIB_DOOR_OPEN_READY] ||| partBits [.lib]

theorem execDoorRequestLock_keeps (closed : Bool) (s : State) : KeepsRes execDoorRequestLock_mask s (execDoorRequestLock closed
    s) := by
  unfold execDoorRequestLock
  extract_lets +onlyGivenNames y0
  have h1 : Keeps execDoorRequestLock_mask s y0 := Keeps.wrB (Keeps.refl _ _)
  clear_value y0
  refine KeepsRes.ite ?_ ?_
  · exact KeepsRes.next (Keeps.clr (Keeps.set_lib h1))
  exact KeepsRes.next h1

def execDoorLockConfirmed_mask : Nat := State.homePickers_mask ||| State.raise_mask ||| fieldBits [Reg.LIB_STATUS_INV_STALE,
    Reg.LIB_STATUS_DOOR_LOCKED, Reg.LIB_PK_STATE] ||| partBits [.lib]

theorem execDoorLockConfirmed_keeps (s : State) : KeepsRes execDoorLockConfirmed_mask s (execDoorLockConfirmed s) := by
  unfold execDoorLockConfirmed
  refine KeepsRes.ite ?_ ?_
  · exact KeepsRes.next (Keeps.refl _ _)
  extract_lets +onlyGivenNames y0
  have h1 : Keeps execDoorLockConfirmed_mask s y0 := Keeps.set1 (Keeps.set1 (Keeps.refl _ _))
  clear_value y0
  extract_lets +onlyGivenNames y2
  clear_value y2
  extract_lets +onlyGivenNames y3
  clear_value y3
  extract_lets +onlyGivenNames y4
  clear_value y4
  extract_lets +onlyGivenNames y5
  have h6 : Keeps execDoorLockConfirmed_mask s y5 := Keeps.set_lib h1
  clear_value y5
  extract_lets +onlyGivenNames y7
  have h8 : Keeps execDoorLockConfirmed_mask s y7 := by
    unfold y7
    refine Keeps.foldl (fun t9 a10 => ?_) ?_
    · refine Keeps.ite ?_ ?_
      · exact Keeps.wr (Keeps.refl _ _)
      exact Keeps.refl _ _
    exact h6
  clear_value y7
  extract_lets +onlyGivenNames y11
  have h12 : Keeps execDoorLockConfirmed_mask s y11 := by
    unfold y11
    refine Keeps.ite ?_ ?_
    · exact Keeps.step (State.homePickers_keeps ..) h8
    exact h8
  clear_value y11
  exact KeepsRes.next (Keeps.step (State.raise_keeps ..) h12)

def execDoorOpenedUnexpected_mask : Nat := State.stopAxis_mask ||| State.failTransfer_mask ||| State.raise_mask ||| fieldBits
    [Reg.LIB_STATUS_DOOR_LOCKED, Reg.LIB_STATUS_DOOR_CLOSED, Reg.LIB_STATUS_INV_STALE] ||| partBits [.lib]

theorem execDoorOpenedUnexpected_keeps (closed : Bool) (s : State) : KeepsRes execDoorOpenedUnexpected_mask s
    (execDoorOpenedUnexpected closed s) := by
  unfold execDoorOpenedUnexpected
  refine KeepsRes.ite ?_ ?_
  · exact KeepsRes.next (Keeps.refl _ _)
  extract_lets +onlyGivenNames y0
  have h1 : Keeps execDoorOpenedUnexpected_mask s y0 := by
    unfold y0
    refine Keeps.ite ?_ ?_
    · exact Keeps.clr (Keeps.refl _ _)
    exact Keeps.clr (Keeps.refl _ _)
  clear_value y0
  extract_lets +onlyGivenNames y2
  have h3 : Keeps execDoorOpenedUnexpected_mask s y2 := by
    unfold y2
    refine Keeps.foldl (fun t4 a5 => ?_) ?_
    · exact Keeps.step (State.stopAxis_keeps ..) (Keeps.refl _ _)
    exact h1
  clear_value y2
  extract_lets +onlyGivenNames y6
  clear_value y6
  extract_lets +onlyGivenNames y7
  have h8 : Keeps execDoorOpenedUnexpected_mask s y7 := by
    unfold y7
    refine Keeps.foldl (fun t9 a10 => ?_) ?_
    · exact Keeps.step (State.failTransfer_keeps ..) (Keeps.refl _ _)
    exact h3
  clear_value y7
  extract_lets +onlyGivenNames y11
  clear_value y11
  extract_lets +onlyGivenNames y12
  have h13 : Keeps execDoorOpenedUnexpected_mask s y12 := Keeps.set_lib h8
  clear_value y12
  exact KeepsRes.next (Keeps.step (State.raise_keeps ..) (Keeps.set1 h13))

def execDoorWaitTimeout_mask : Nat := State.advanceTo_mask ||| State.dropTransfer_mask ||| State.failTransfer_mask

theorem execDoorWaitTimeout_keeps (sq tag : Nat) (s : State) : KeepsRes execDoorWaitTimeout_mask s (execDoorWaitTimeout sq tag
    s) := by
  unfold execDoorWaitTimeout
  split
  · rename_i z0 z1 z2
    refine KeepsRes.ite ?_ ?_
    · extract_lets +onlyGivenNames y3
      have h4 : Keeps execDoorWaitTimeout_mask s y3 := Keeps.step (State.advanceTo_keeps ..) (Keeps.refl _ _)
      clear_value y3
      exact KeepsRes.next (Keeps.step (State.dropTransfer_keeps ..) (Keeps.step (State.failTransfer_keeps ..) h4))
    exact KeepsRes.next (Keeps.refl _ _)
  rename_i z5 z6
  exact KeepsRes.next (Keeps.refl _ _)

def execTransferStart_mask : Nat := State.dropTransfer_mask ||| State.failTransfer_mask ||| State.readyStation_mask |||
    State.pkPark_mask ||| State.firstAction_mask ||| State.transferRecord_mask ||| State.putTransfer_mask ||| State.setLoc_mask
    ||| fieldBits [Reg.LIB_PK_STATE]

theorem execTransferStart_keeps (s : State) : KeepsRes execTransferStart_mask s (execTransferStart s) := by
  unfold execTransferStart
  refine KeepsRes.ite ?_ ?_
  · exact KeepsRes.next (Keeps.refl _ _)
  split
  · rename_i z0 z1
    exact KeepsRes.next (Keeps.refl _ _)
  rename_i z2 z3 z4
  extract_lets +onlyGivenNames y5
  clear_value y5
  refine KeepsRes.ite ?_ ?_
  · refine KeepsRes.ite ?_ ?_
    · exact KeepsRes.next (Keeps.step (State.dropTransfer_keeps ..) (Keeps.step (State.failTransfer_keeps ..) (Keeps.refl _ _)))
    exact KeepsRes.next (Keeps.refl _ _)
  refine KeepsRes.ite ?_ ?_
  · exact KeepsRes.next (Keeps.step (State.readyStation_keeps ..) (Keeps.refl _ _))
  extract_lets +onlyGivenNames y6
  clear_value y6
  extract_lets +onlyGivenNames y7
  clear_value y7
  extract_lets +onlyGivenNames y8
  clear_value y8
  extract_lets +onlyGivenNames y9
  have h10 : Keeps execTransferStart_mask s y9 := by
    unfold y9
    refine Keeps.ite ?_ ?_
    · exact Keeps.step (State.pkPark_keeps ..) (Keeps.refl _ _)
    exact Keeps.refl _ _
  clear_value y9
  extract_lets +onlyGivenNames y11
  clear_value y11
  extract_lets +onlyGivenNames y12
  clear_value y12
  extract_lets +onlyGivenNames y13
  have h14 : Keeps execTransferStart_mask s y13 := Keeps.step (State.firstAction_keeps ..) (Keeps.step
      (State.transferRecord_keeps ..) (Keeps.wr (Keeps.step (State.putTransfer_keeps ..) h10)))
  clear_value y13
  refine KeepsRes.next (Keeps.ite ?_ ?_)
  · exact Keeps.step (State.setLoc_keeps ..) h14
  exact h14

def State.endTransfer_mask : Nat := State.dropTransfer_mask ||| State.transferRecord_mask ||| State.openDoor_mask ||| fieldBits
    [Reg.LIB_PK_STATE] ||| partBits [.lib]

theorem State.endTransfer_keeps (s : State) (t : Transfer) (m pk : Nat) (closed : Bool) : Keeps State.endTransfer_mask s
    (State.endTransfer s t m pk closed) := by
  unfold State.endTransfer
  extract_lets +onlyGivenNames y0
  have h1 : Keeps State.endTransfer_mask s y0 := Keeps.step (State.dropTransfer_keeps ..) (Keeps.refl _ _)
  clear_value y0
  extract_lets +onlyGivenNames y2
  clear_value y2
  extract_lets +onlyGivenNames y3
  have h4 : Keeps State.endTransfer_mask s y3 := by
    unfold y3
    refine Keeps.ite ?_ ?_
    · exact Keeps.step (State.transferRecord_keeps ..) (Keeps.step (State.dropTransfer_keeps ..) (Keeps.refl _ _))
    exact Keeps.set_lib h1
  clear_value y3
  exact Keeps.step (State.openDoor_keeps ..) (Keeps.wr h4)

def State.rehome_mask : Nat := partBits [.discs, .zones]

theorem State.rehome_keeps (s : State) (d slot : Nat) : Keeps State.rehome_mask s (State.rehome s d slot) := by
  unfold State.rehome
  extract_lets +onlyGivenNames y0
  clear_value y0
  extract_lets +onlyGivenNames y1
  clear_value y1
  exact Keeps.set_discs_zones (Keeps.refl _ _)

def State.delivered_mask : Nat := State.endTransfer_mask ||| State.setLoc_mask ||| State.fail_mask ||| State.mountStart_mask
    ||| State.ringSend_mask ||| State.putDisc_mask ||| State.rehome_mask

theorem State.delivered_keeps (s : State) (t : Transfer) (m : Nat) : Keeps State.delivered_mask s (State.delivered s t m) := by
  unfold State.delivered
  extract_lets +onlyGivenNames y0
  clear_value y0
  extract_lets +onlyGivenNames y1
  have h2 : Keeps State.delivered_mask s y1 := Keeps.step (State.endTransfer_keeps ..) (Keeps.refl _ _)
  clear_value y1
  refine Keeps.ite ?_ ?_
  · exact Keeps.step (State.setLoc_keeps ..) h2
  extract_lets +onlyGivenNames y3
  have h4 : ∀ t5, Keeps State.delivered_mask t5 (y3 t5) := by
    intro t5
    unfold y3
    split
    · rename_i z6 z7 z8 z9
      exact Keeps.step (State.fail_keeps ..) (Keeps.refl _ _)
    rename_i z10 z11
    exact Keeps.refl _ _
  clear_value y3
  split
  · rename_i z12 z13
    refine Keeps.ite ?_ ?_
    · exact Keeps.step (State.mountStart_keeps ..) (Keeps.step (State.setLoc_keeps ..) h2)
    exact Keeps.step (State.ringSend_keeps ..) (Keeps.step (State.setLoc_keeps ..) h2)
  · rename_i z14 z15
    exact Keeps.trans (Keeps.step (State.putDisc_keeps ..) (Keeps.step (State.setLoc_keeps ..) h2)) (h4 _)
  rename_i z16 z17 z18
  exact Keeps.trans (Keeps.step (State.rehome_keeps ..) h2) (h4 _)

def State.stepFail_mask : Nat := State.raise_mask ||| State.failTransfer_mask

theorem State.stepFail_keeps (s : State) (t : Transfer) (code : Nat) (data : List Nat) : Keeps State.stepFail_mask s
    (State.stepFail s t code data) := by
  unfold State.stepFail
  exact Keeps.step (State.raise_keeps ..) (Keeps.step (State.failTransfer_keeps ..) (Keeps.refl _ _))

def State.transferStep_mask : Nat := State.putTransfer_mask ||| State.pkSense_mask ||| State.pkTo_mask ||| State.pkIn_mask |||
    State.endTransfer_mask ||| State.stepFail_mask ||| State.advance_mask ||| State.pkReach_mask ||| State.transferRecord_mask
    ||| State.setLoc_mask ||| State.raise_mask ||| State.readyStation_mask ||| State.failTransfer_mask ||| State.delivered_mask
    ||| fieldBits [Reg.LIB_PK_GRIP]

theorem State.transferStep_keeps (s : State) (t : Transfer) (m : Nat) (slot disc jaw : Bool) : Keeps State.transferStep_mask s
    (State.transferStep s t m slot disc jaw) := by
  unfold State.transferStep
  extract_lets +onlyGivenNames y0
  have h1 : ∀ t2 t3, Keeps State.transferStep_mask t2 (y0 t2 t3) := by
    intro t2 t3
    unfold y0
    exact Keeps.step (State.putTransfer_keeps ..) (Keeps.refl _ _)
  clear_value y0
  extract_lets +onlyGivenNames y4
  have h5 : ∀ t6, Keeps State.transferStep_mask t6 (y4 t6) := by
    intro t6
    unfold y4
    exact Keeps.step (State.pkSense_keeps ..) (Keeps.refl _ _)
  clear_value y4
  extract_lets +onlyGivenNames y7
  clear_value y7
  split
  · rename_i z8 z9
    exact Keeps.trans (Keeps.trans (Keeps.step (State.pkTo_keeps ..) (Keeps.step (State.pkIn_keeps ..) (Keeps.refl _ _))) (h5
        _)) (h1 _ _)
  · rename_i z10 z11
    refine Keeps.ite ?_ ?_
    · exact Keeps.trans (Keeps.trans (Keeps.refl _ _) (h5 _)) (h1 _ _)
    exact Keeps.step (State.endTransfer_keeps ..) (Keeps.step (State.stepFail_keeps ..) (Keeps.trans (Keeps.refl _ _) (h5 _)))
  · rename_i z12 z13
    extract_lets +onlyGivenNames y14
    have h15 : Keeps State.transferStep_mask s y14 := Keeps.trans (Keeps.step (State.advance_keeps ..) (Keeps.set1 (Keeps.step
        (State.pkReach_keeps ..) (Keeps.refl _ _)))) (h5 _)
    clear_value y14
    refine Keeps.ite ?_ ?_
    · exact Keeps.trans h15 (h1 _ _)
    exact Keeps.step (State.endTransfer_keeps ..) (Keeps.step (State.stepFail_keeps ..) (Keeps.step (State.pkIn_keeps ..)
        (Keeps.clr h15)))
  · rename_i z16 z17
    extract_lets +onlyGivenNames y18
    have h19 : Keeps State.transferStep_mask s y18 := Keeps.trans (Keeps.step (State.pkIn_keeps ..) (Keeps.refl _ _)) (h5 _)
    clear_value y18
    refine Keeps.ite ?_ ?_
    · extract_lets +onlyGivenNames y20
      clear_value y20
      exact Keeps.step (State.putTransfer_keeps ..) (Keeps.step (State.transferRecord_keeps ..) (Keeps.step (State.setLoc_keeps
          ..) h19))
    extract_lets +onlyGivenNames y21
    have h22 : Keeps State.transferStep_mask s y21 := Keeps.step (State.setLoc_keeps ..) (Keeps.step (State.stepFail_keeps ..)
        h19)
    clear_value y21
    exact Keeps.step (State.endTransfer_keeps ..) (Keeps.step (State.raise_keeps ..) h22)
  · rename_i z23 z24
    refine Keeps.ite ?_ ?_
    · exact Keeps.step (State.readyStation_keeps ..) (Keeps.refl _ _)
    exact Keeps.trans (Keeps.trans (Keeps.step (State.pkTo_keeps ..) (Keeps.refl _ _)) (h5 _)) (h1 _ _)
  · rename_i z25 z26
    extract_lets +onlyGivenNames y27
    have h28 : Keeps State.transferStep_mask s y27 := Keeps.trans (Keeps.refl _ _) (h5 _)
    clear_value y27
    refine Keeps.ite ?_ ?_
    · exact Keeps.trans h28 (h1 _ _)
    extract_lets +onlyGivenNames y29
    have h30 : Keeps State.transferStep_mask s y29 := Keeps.step (State.raise_keeps ..) h28
    clear_value y29
    refine Keeps.ite ?_ ?_
    · exact Keeps.step (State.endTransfer_keeps ..) h30
    exact Keeps.step (State.putTransfer_keeps ..) (Keeps.step (State.failTransfer_keeps ..) h30)
  · rename_i z31 z32
    extract_lets +onlyGivenNames y33
    have h34 : Keeps State.transferStep_mask s y33 := Keeps.trans (Keeps.step (State.advance_keeps ..) (Keeps.clr (Keeps.step
        (State.pkReach_keeps ..) (Keeps.refl _ _)))) (h5 _)
    clear_value y33
    refine Keeps.ite ?_ ?_
    · exact Keeps.trans h34 (h1 _ _)
    exact Keeps.step (State.endTransfer_keeps ..) (Keeps.step (State.stepFail_keeps ..) (Keeps.step (State.pkIn_keeps ..) h34))
  rename_i z35 z36 z37 z38 z39 z40 z41 z42
  exact Keeps.step (State.delivered_keeps ..) (Keeps.trans (Keeps.step (State.pkIn_keeps ..) (Keeps.refl _ _)) (h5 _))

def execTransferProgress_mask : Nat := State.motErr_mask ||| State.transferStep_mask

theorem execTransferProgress_keeps (m : Fin 2) (slot disc jaw : Bool) (s : State) : KeepsRes execTransferProgress_mask s
    (execTransferProgress m slot disc jaw s) := by
  unfold execTransferProgress
  split
  · rename_i z0 z1 z2
    refine KeepsRes.ite ?_ ?_
    · split
      · rename_i z3 z4 z5 z6
        exact KeepsRes.next (Keeps.step (State.motErr_keeps ..) (Keeps.refl _ _))
      rename_i z7 z8
      exact KeepsRes.next (Keeps.step (State.transferStep_keeps ..) (Keeps.refl _ _))
    exact KeepsRes.next (Keeps.refl _ _)
  rename_i z9 z10
  exact KeepsRes.next (Keeps.refl _ _)

def execPickerDiscFall_mask : Nat := State.setLoc_mask ||| State.stepFail_mask ||| State.endTransfer_mask ||| State.raise_mask
    ||| fieldBits [Reg.LIB_PK_DISC]

theorem execPickerDiscFall_keeps (m : Fin 2) (s : State) : KeepsRes execPickerDiscFall_mask s (execPickerDiscFall m s) := by
  unfold execPickerDiscFall
  extract_lets +onlyGivenNames y0
  have h1 : Keeps execPickerDiscFall_mask s y0 := Keeps.clr (Keeps.refl _ _)
  clear_value y0
  split
  · rename_i z2 z3 z4
    extract_lets +onlyGivenNames y5
    have h6 : Keeps execPickerDiscFall_mask s y5 := Keeps.step (State.setLoc_keeps ..) (Keeps.step (State.stepFail_keeps ..) h1)
    clear_value y5
    exact KeepsRes.next (Keeps.step (State.endTransfer_keeps ..) (Keeps.step (State.raise_keeps ..) h6))
  rename_i z7 z8
  exact KeepsRes.next h1

def execTransferWaitTimeout_mask : Nat := State.putTransfer_mask ||| State.advanceTo_mask ||| State.raise_mask

theorem execTransferWaitTimeout_keeps (sq tag : Nat) (s : State) : KeepsRes execTransferWaitTimeout_mask s
    (execTransferWaitTimeout sq tag s) := by
  unfold execTransferWaitTimeout
  split
  · rename_i z0 z1 z2
    extract_lets +onlyGivenNames y3
    have h4 : Keeps execTransferWaitTimeout_mask s y3 := Keeps.step (State.putTransfer_keeps ..) (Keeps.step
        (State.advanceTo_keeps ..) (Keeps.refl _ _))
    clear_value y3
    extract_lets +onlyGivenNames y5
    clear_value y5
    exact KeepsRes.next (Keeps.step (State.raise_keeps ..) h4)
  rename_i z6 z7
  exact KeepsRes.next (Keeps.refl _ _)

def State.discLost_mask : Nat := State.failAll_mask ||| State.raise_mask ||| State.setLoc_mask

theorem State.discLost_keeps (s : State) (d : Nat) : Keeps State.discLost_mask s (State.discLost s d) := by
  unfold State.discLost
  exact Keeps.step (State.failAll_keeps ..) (Keeps.step (State.raise_keeps ..) (Keeps.step (State.setLoc_keeps ..) (Keeps.refl
      _ _)))

def execTransferResolve_mask : Nat := State.rehome_mask ||| State.setLoc_mask ||| State.transferRecord_mask |||
    State.raise_mask ||| State.discLost_mask ||| fieldBits [Reg.LIB_PK_DISC, Reg.LIB_PK_STATE] ||| partBits [.lib]

theorem execTransferResolve_keeps (m : Fin 2) (inJaws atSrc atDst : Bool) (s : State) : KeepsRes execTransferResolve_mask s
    (execTransferResolve m inJaws atSrc atDst s) := by
  unfold execTransferResolve
  split
  · rename_i z0 z1
    exact KeepsRes.next (Keeps.refl _ _)
  rename_i z2 z3 z4
  refine KeepsRes.ite ?_ ?_
  · exact KeepsRes.next (Keeps.refl _ _)
  extract_lets +onlyGivenNames y5
  clear_value y5
  extract_lets +onlyGivenNames y6
  have h7 : Keeps execTransferResolve_mask s y6 := Keeps.set_lib (Keeps.refl _ _)
  clear_value y6
  extract_lets +onlyGivenNames y8
  have h9 : Keeps execTransferResolve_mask s y8 := Keeps.wrB h7
  clear_value y8
  extract_lets +onlyGivenNames y10
  have h11 : ∀ t12 t13 t14, Keeps execTransferResolve_mask t12 (y10 t12 t13 t14) := by
    intro t12 t13 t14
    unfold y10
    refine Keeps.ite ?_ ?_
    · exact Keeps.step (State.rehome_keeps ..) (Keeps.refl _ _)
    exact Keeps.step (State.setLoc_keeps ..) (Keeps.refl _ _)
  clear_value y10
  refine KeepsRes.ite ?_ ?_
  · refine KeepsRes.ite ?_ ?_
    · exact KeepsRes.next (Keeps.step (State.transferRecord_keeps ..) (Keeps.step (State.raise_keeps ..) (Keeps.wr h9)))
    extract_lets +onlyGivenNames y15
    clear_value y15
    exact KeepsRes.next (Keeps.wr (Keeps.set_lib h9))
  refine KeepsRes.ite ?_ ?_
  · exact KeepsRes.next (Keeps.step (State.transferRecord_keeps ..) (Keeps.trans h9 (h11 _ _ _)))
  refine KeepsRes.ite ?_ ?_
  · exact KeepsRes.next (Keeps.step (State.transferRecord_keeps ..) (Keeps.trans h9 (h11 _ _ _)))
  exact KeepsRes.next (Keeps.step (State.transferRecord_keeps ..) (Keeps.step (State.discLost_keeps ..) h9))

def State.scanSlot_mask : Nat := fieldBits [Reg.LIB_SLOT_STATE_BITS, Reg.LIB_SLOT_MIS_BITS]

theorem State.scanSlot_keeps (s : State) (slot : Nat) (present : Bool) : Keeps State.scanSlot_mask s (State.scanSlot s slot
    present) := by
  unfold State.scanSlot
  extract_lets +onlyGivenNames y0
  extract_lets +onlyGivenNames y1
  extract_lets +onlyGivenNames y2
  have h3 : Keeps State.scanSlot_mask s y2 := by
    unfold y2
    unfold y0
    exact Keeps.wr (Keeps.refl _ _)
  clear_value y2
  unfold y1
  exact Keeps.wr h3

def State.scanWalk_mask : Nat := State.pkTo_mask

theorem State.scanWalk_keeps : ∀ (m : Nat) (l : List Nat) (s : State), KeepsFst State.scanWalk_mask s (State.scanWalk m l s) :=
    by
  intro m l
  induction l with
  | nil => intro s; exact Keeps.refl _ _
  | cons x r ih =>
    intro s
    unfold State.scanWalk
    extract_lets +onlyGivenNames y0
    clear_value y0
    split
    · rename_i z1 z2 z3
      exact KeepsFst.mk (Keeps.refl _ _)
    rename_i z4 z5
    exact KeepsFst.step (ih ..) (Keeps.step (State.pkTo_keeps ..) (Keeps.refl _ _)) (Nat.or_self _)

def execInventoryComplete_mask : Nat := State.scanWalk_mask ||| State.pkIn_mask ||| State.motErr_mask ||| State.scanSlot_mask
    ||| State.advance_mask ||| State.raise_mask ||| State.finish_mask ||| fieldBits [Reg.LIB_PK_STATE,
    Reg.LIB_STATUS_INV_STALE] ||| partBits [.lib]

theorem execInventoryComplete_keeps (dt : Nat) (present : List Bool) (s : State) : KeepsRes execInventoryComplete_mask s
    (execInventoryComplete dt present s) := by
  unfold execInventoryComplete
  split
  · rename_i z0 z1 z2 z3 z4 z5 z6 z7
    extract_lets +onlyGivenNames y8
    clear_value y8
    extract_lets +onlyGivenNames y9
    clear_value y9
    extract_lets +onlyGivenNames y10
    clear_value y10
    extract_lets +onlyGivenNames y11
    have h12 : KeepsFst execInventoryComplete_mask s y11 := by
      unfold y11
      split
      · rename_i z13 z14 z15
        exact KeepsFst.mk (Keeps.refl _ _)
      rename_i z16 z17
      exact KeepsFst.step (State.scanWalk_keeps ..) (Keeps.step (State.pkIn_keeps ..) (Keeps.refl _ _))
    clear_value y11
    split
    · rename_i z18 z19 z20 z21
      exact KeepsRes.next (Keeps.step (State.motErr_keeps ..) (Keeps.refl _ _))
    rename_i z22 z23
    refine KeepsRes.ite ?_ ?_
    · exact KeepsRes.next (Keeps.refl _ _)
    extract_lets +onlyGivenNames y24
    have h25 : Keeps execInventoryComplete_mask s y24 := by
      unfold y24
      refine Keeps.foldl (fun t26 a27 => ?_) ?_
      · exact Keeps.step (State.scanSlot_keeps ..) (Keeps.refl _ _)
      exact Keeps.wr (Keeps.step (State.advance_keeps ..) (KeepsFst.get h12))
    clear_value y24
    extract_lets +onlyGivenNames y28
    clear_value y28
    extract_lets +onlyGivenNames y29
    clear_value y29
    extract_lets +onlyGivenNames y30
    have h31 : Keeps execInventoryComplete_mask s y30 := by
      unfold y30
      refine Keeps.ite ?_ ?_
      · exact Keeps.clr h25
      exact h25
    clear_value y30
    extract_lets +onlyGivenNames y32
    clear_value y32
    extract_lets +onlyGivenNames y33
    clear_value y33
    extract_lets +onlyGivenNames y34
    clear_value y34
    extract_lets +onlyGivenNames y35
    have h36 : Keeps execInventoryComplete_mask s y35 := Keeps.set_lib h31
    clear_value y35
    extract_lets +onlyGivenNames y37
    have h38 : Keeps execInventoryComplete_mask s y37 := Keeps.step (State.raise_keeps ..) h36
    clear_value y37
    refine KeepsRes.next ?_
    split
    · rename_i z39 z40 z41
      exact Keeps.step (State.finish_keeps ..) h38
    rename_i z42
    exact h38
  rename_i z43 z44 z45
  exact KeepsRes.next (Keeps.refl _ _)

end Sys2Proof.Machine
end

