-- ==== Sys2Proof/Laws/KeepsSettle.lean ====
section
/-!
SUPPORT. What the operations of Machine/Settle.lean leave as it was, one lemma for each.
-/

set_option Elab.async false

namespace Sys2Proof.Machine

def State.letBuf_mask : Nat := State.freeBuf_mask ||| State.settleBuf_mask

theorem State.letBuf_keeps (s : State) (k : Nat) : Keeps State.letBuf_mask s (State.letBuf s k) := by
  unfold State.letBuf
  split
  · rename_i z0 z1 z2
    refine Keeps.ite ?_ ?_
    · refine Keeps.ite ?_ ?_
      · exact Keeps.refl _ _
      exact Keeps.step (State.freeBuf_keeps ..) (Keeps.refl _ _)
    exact Keeps.step (State.settleBuf_keeps ..) (Keeps.refl _ _)
  rename_i z3 z4
  exact Keeps.refl _ _

def State.dropHeld_mask : Nat := State.letBuf_mask ||| partBits [.held]

theorem State.dropHeld_keeps (s : State) (p : Held → Bool) : Keeps State.dropHeld_mask s (State.dropHeld s p) := by
  unfold State.dropHeld
  extract_lets +onlyGivenNames y0
  clear_value y0
  refine Keeps.foldl (fun t1 a2 => ?_) ?_
  · exact Keeps.step (State.letBuf_keeps ..) (Keeps.refl _ _)
  exact Keeps.set_held (Keeps.refl _ _)

def State.flushMissed_mask : Nat := partBits [.cmds]

theorem State.flushMissed_keeps (s : State) (zk ord : Nat) : Keeps State.flushMissed_mask s (State.flushMissed s zk ord) := by
  unfold State.flushMissed
  exact Keeps.set_cmds (Keeps.refl _ _)

def State.unqueue_mask : Nat := partBits [.slices]

theorem State.unqueue_keeps (s : State) (zk n : Nat) : Keeps State.unqueue_mask s (State.unqueue s zk n) := by
  unfold State.unqueue
  extract_lets +onlyGivenNames y0
  clear_value y0
  exact Keeps.set_slices (Keeps.refl _ _)

def State.fallBack_mask : Nat := State.flushMissed_mask ||| State.finish_mask ||| State.unqueue_mask ||| State.dropHeld_mask
    ||| State.putZone_mask ||| State.raise_mask

theorem State.fallBack_keeps (s : State) (zk n : Nat) : Keeps State.fallBack_mask s (State.fallBack s zk n) := by
  unfold State.fallBack
  extract_lets +onlyGivenNames y0
  clear_value y0
  extract_lets +onlyGivenNames y1
  clear_value y1
  extract_lets +onlyGivenNames y2
  clear_value y2
  extract_lets +onlyGivenNames y3
  have h4 : Keeps State.fallBack_mask s y3 := by
    unfold y3
    refine Keeps.foldl (fun t5 a6 => ?_) ?_
    · exact Keeps.step (State.flushMissed_keeps ..) (Keeps.refl _ _)
    exact Keeps.refl _ _
  clear_value y3
  extract_lets +onlyGivenNames y7
  have h8 : Keeps State.fallBack_mask s y7 := by
    unfold y7
    refine Keeps.foldl (fun t9 a10 => ?_) ?_
    · split
      · rename_i z11 z12 z13
        refine Keeps.ite ?_ ?_
        · exact Keeps.refl _ _
        exact Keeps.step (State.finish_keeps ..) (Keeps.refl _ _)
      rename_i z14 z15
      exact Keeps.refl _ _
    exact h4
  clear_value y7
  extract_lets +onlyGivenNames y16
  have h17 : Keeps State.fallBack_mask s y16 := Keeps.step (State.unqueue_keeps ..) (Keeps.step (State.dropHeld_keeps ..) h8)
  clear_value y16
  extract_lets +onlyGivenNames y18
  clear_value y18
  extract_lets +onlyGivenNames y19
  have h20 : Keeps State.fallBack_mask s y19 := Keeps.step (State.putZone_keeps ..) h17
  clear_value y19
  split
  · rename_i z21
    exact h20
  rename_i z22 z23 z24
  exact Keeps.step (State.raise_keeps ..) h20

def State.failZoneWrites_mask : Nat := State.fail_mask ||| State.flushMissed_mask ||| State.dropHeld_mask |||
    State.fallBack_mask ||| partBits [.slices]

theorem State.failZoneWrites_keeps (s : State) (zk status : Nat) : Keeps State.failZoneWrites_mask s (State.failZoneWrites s zk
    status) := by
  unfold State.failZoneWrites
  extract_lets +onlyGivenNames y0
  clear_value y0
  extract_lets +onlyGivenNames y1
  have h2 : Keeps State.failZoneWrites_mask s y1 := by
    unfold y1
    refine Keeps.foldl (fun t3 a4 => ?_) ?_
    · exact Keeps.step (State.fail_keeps ..) (Keeps.step (State.flushMissed_keeps ..) (Keeps.refl _ _))
    exact Keeps.refl _ _
  clear_value y1
  extract_lets +onlyGivenNames y5
  have h6 : Keeps State.failZoneWrites_mask s y5 := Keeps.step (State.dropHeld_keeps ..) h2
  clear_value y5
  extract_lets +onlyGivenNames y7
  have h8 : Keeps State.failZoneWrites_mask s y7 := by
    unfold y7
    refine Keeps.foldl (fun t9 a10 => ?_) ?_
    · exact Keeps.set_slices (Keeps.refl _ _)
    exact h6
  clear_value y7
  exact Keeps.step (State.fallBack_keeps ..) h8

def State.shutZone_mask : Nat := State.failZoneWrites_mask ||| State.closeZone_mask ||| State.fallBack_mask

theorem State.shutZone_keeps (s : State) (zk : Nat) : Keeps State.shutZone_mask s (State.shutZone s zk) := by
  unfold State.shutZone
  extract_lets +onlyGivenNames y0
  have h1 : Keeps State.shutZone_mask s y0 := Keeps.step (State.failZoneWrites_keeps ..) (Keeps.refl _ _)
  clear_value y0
  exact Keeps.step (State.closeZone_keeps ..) (Keeps.step (State.fallBack_keeps ..) h1)

def State.zoneState_mask : Nat := State.shutZone_mask ||| State.mgmtSet_mask

theorem State.zoneState_keeps (s : State) (d side : Nat) : Keeps State.zoneState_mask s (State.zoneState s d side) := by
  unfold State.zoneState
  extract_lets +onlyGivenNames y0
  clear_value y0
  extract_lets +onlyGivenNames y1
  clear_value y1
  extract_lets +onlyGivenNames y2
  have h3 : Keeps State.zoneState_mask s y2 := by
    unfold y2
    refine Keeps.ite ?_ ?_
    · refine Keeps.foldl (fun t4 a5 => ?_) ?_
      · exact Keeps.step (State.shutZone_keeps ..) (Keeps.refl _ _)
      exact Keeps.refl _ _
    exact Keeps.refl _ _
  clear_value y2
  exact Keeps.step (State.mgmtSet_keeps ..) h3

def State.tapFrame_mask : Nat := State.tap_mask

theorem State.tapFrame_keeps (s : State) (c : Cmd) (i : Nat) : Keeps State.tapFrame_mask s (State.tapFrame s c i) := by
  unfold State.tapFrame
  extract_lets +onlyGivenNames y0
  have h1 : Keeps State.tapFrame_mask s y0 := Keeps.step (State.tap_keeps ..) (Keeps.refl _ _)
  clear_value y0
  refine Keeps.ite ?_ ?_
  · exact Keeps.step (State.tap_keeps ..) h1
  exact h1

def State.placeFrame_mask : Nat := State.updCmd_mask ||| State.ringSend_mask ||| State.ownWrite_mask ||| State.queueMove_mask

theorem State.placeFrame_keeps (s : State) (c : Cmd) (i slice : Nat) (bytes : List Nat) : Keeps State.placeFrame_mask s
    (State.placeFrame s c i slice bytes) := by
  unfold State.placeFrame
  extract_lets +onlyGivenNames y0
  clear_value y0
  extract_lets +onlyGivenNames y1
  refine Keeps.ite ?_ ?_
  · unfold y1
    exact Keeps.step (State.updCmd_keeps ..) (Keeps.refl _ _)
  split
  · rename_i z2 z3 z4
    unfold y1
    exact Keeps.step (State.updCmd_keeps ..) (Keeps.step (State.ringSend_keeps ..) (Keeps.refl _ _))
  rename_i z5 z6
  extract_lets +onlyGivenNames y7
  have h8 : Keeps State.placeFrame_mask s y7 := Keeps.step (State.ownWrite_keeps ..) (Keeps.refl _ _)
  clear_value y7
  refine Keeps.ite ?_ ?_
  · unfold y1
    exact Keeps.step (State.updCmd_keeps ..) h8
  extract_lets +onlyGivenNames y9
  clear_value y9
  exact Keeps.step (State.queueMove_keeps ..) h8

def State.deliverFrame_mask : Nat := State.updCmd_mask ||| State.tapFrame_mask ||| State.placeFrame_mask

theorem State.deliverFrame_keeps (s : State) (zk idx rung slice : Nat) (bytes : List Nat) : Keeps State.deliverFrame_mask s
    (State.deliverFrame s zk idx rung slice bytes) := by
  unfold State.deliverFrame
  refine Keeps.foldl (fun t0 a1 => ?_) ?_
  · refine Keeps.ite ?_ ?_
    · refine Keeps.foldl (fun t2 a3 => ?_) ?_
      · split
        · rename_i z4 z5 z6
          refine Keeps.ite ?_ ?_
          · extract_lets +onlyGivenNames y7
            have h8 : Keeps State.deliverFrame_mask t2 y7 := Keeps.step (State.updCmd_keeps ..) (Keeps.refl _ _)
            clear_value y7
            split
            · rename_i z9 z10 z11
              exact Keeps.step (State.tapFrame_keeps ..) (Keeps.step (State.placeFrame_keeps ..) h8)
            rename_i z12 z13
            exact h8
          exact Keeps.refl _ _
        rename_i z14 z15
        exact Keeps.refl _ _
      exact Keeps.refl _ _
    exact Keeps.refl _ _
  exact Keeps.refl _ _

def State.damageEntry_mask : Nat := State.raiseWin_mask ||| partBits [.damage, .damageSeq]

theorem State.damageEntry_keeps (s : State) (slice : Nat) (d : Damage) : Keeps State.damageEntry_mask s (State.damageEntry s
    slice d) := by
  unfold State.damageEntry
  extract_lets +onlyGivenNames y0
  clear_value y0
  extract_lets +onlyGivenNames y1
  have h2 : Keeps State.damageEntry_mask s y1 := Keeps.set_damage_damageSeq (Keeps.refl _ _)
  clear_value y1
  refine Keeps.ite ?_ ?_
  · extract_lets +onlyGivenNames y3
    clear_value y3
    extract_lets +onlyGivenNames y4
    have h5 : Keeps State.damageEntry_mask s y4 := Keeps.set_damage h2
    clear_value y4
    refine Keeps.ite ?_ ?_
    · exact h5
    exact Keeps.step (State.raiseWin_keeps ..) h5
  exact h2

def State.frameBad_mask : Nat := State.updCmd_mask ||| State.tapFrame_mask ||| State.placeFrame_mask ||| State.ringSend_mask
    ||| State.zeroMem_mask ||| State.damageEntry_mask ||| State.raise_mask

theorem State.frameBad_keeps (s : State) (c : Cmd) (i slice rung flags pfa : Nat) (regions : Option (List Nat × Nat)) : Keeps
    State.frameBad_mask s (State.frameBad s c i slice rung flags pfa regions) := by
  unfold State.frameBad
  extract_lets +onlyGivenNames y0
  clear_value y0
  extract_lets +onlyGivenNames y1
  clear_value y1
  extract_lets +onlyGivenNames y2
  clear_value y2
  extract_lets +onlyGivenNames y3
  have h4 : Keeps State.frameBad_mask s y3 := Keeps.step (State.updCmd_keeps ..) (Keeps.refl _ _)
  clear_value y3
  extract_lets +onlyGivenNames y5
  have h6 : Keeps State.frameBad_mask s y5 := Keeps.step (State.updCmd_keeps ..) h4
  clear_value y5
  extract_lets +onlyGivenNames y7
  have h8 : Keeps State.frameBad_mask s y7 := by
    unfold y7
    split
    · rename_i z9 z10 z11
      refine Keeps.ite ?_ ?_
      · exact Keeps.step (State.tapFrame_keeps ..) (Keeps.step (State.placeFrame_keeps ..) h4)
      split
      · rename_i z12 z13 z14
        exact Keeps.step (State.ringSend_keeps ..) h6
      rename_i z15 z16
      refine Keeps.ite ?_ ?_
      · exact Keeps.step (State.zeroMem_keeps ..) h6
      exact h6
    rename_i z17 z18
    exact h4
  clear_value y7
  extract_lets +onlyGivenNames y19
  clear_value y19
  extract_lets +onlyGivenNames y20
  have h21 : Keeps State.frameBad_mask s y20 := Keeps.step (State.damageEntry_keeps ..) h8
  clear_value y20
  exact Keeps.step (State.raise_keeps ..) h21

def State.initDisc_mask : Nat := State.putDisc_mask ||| State.draw_mask ||| State.mgmtRecord_mask ||| State.journal_mask

theorem State.initDisc_keeps (s : State) (d : Nat) : Keeps State.initDisc_mask s (State.initDisc s d) := by
  unfold State.initDisc
  extract_lets +onlyGivenNames y0
  clear_value y0
  refine Keeps.ite ?_ ?_
  · exact Keeps.refl _ _
  extract_lets +onlyGivenNames y1
  clear_value y1
  split
  rename_i z2 z3 z4 z5
  extract_lets +onlyGivenNames y6
  clear_value y6
  extract_lets +onlyGivenNames y7
  have h8 : Keeps State.initDisc_mask s y7 := by
    unfold y7
    refine Keeps.step (State.putDisc_keeps ..) (Keeps.ofSnd z5 (KeepsSnd.ite ?_ ?_))
    · exact KeepsSnd.step (State.draw_keeps ..) (Keeps.refl _ _)
    exact KeepsSnd.mk (Keeps.refl _ _)
  clear_value y7
  extract_lets +onlyGivenNames y9
  clear_value y9
  extract_lets +onlyGivenNames y10
  have h11 : Keeps State.initDisc_mask s y10 := by
    unfold y10
    refine Keeps.ite ?_ ?_
    · exact h8
    exact Keeps.step (State.mgmtRecord_keeps ..) h8
  clear_value y10
  extract_lets +onlyGivenNames y12
  have h13 : Keeps State.initDisc_mask s y12 := by
    unfold y12
    refine Keeps.ite ?_ ?_
    · exact h11
    exact Keeps.step (State.mgmtRecord_keeps ..) h11
  clear_value y12
  extract_lets +onlyGivenNames y14
  clear_value y14
  extract_lets +onlyGivenNames y15
  clear_value y15
  extract_lets +onlyGivenNames y16
  clear_value y16
  extract_lets +onlyGivenNames y17
  have h18 : Keeps State.initDisc_mask s y17 := Keeps.step (State.putDisc_keeps ..) h13
  clear_value y17
  refine Keeps.ite ?_ ?_
  · exact Keeps.step (State.journal_keeps ..) h18
  exact h18

def State.snapshot_mask : Nat := State.journal_mask

theorem State.snapshot_keeps (s : State) (d : Nat) (clean : Bool) : Keeps State.snapshot_mask s (State.snapshot s d clean) := by
  unfold State.snapshot
  exact Keeps.step (State.journal_keeps ..) (Keeps.refl _ _)

def State.finalise_mask : Nat := State.shutZone_mask ||| State.mgmtSet_mask ||| State.putDisc_mask

theorem State.finalise_keeps (s : State) (d side : Nat) : Keeps State.finalise_mask s (State.finalise s d side) := by
  unfold State.finalise
  extract_lets +onlyGivenNames y0
  have h1 : Keeps State.finalise_mask s y0 := by
    unfold y0
    refine Keeps.foldl (fun t2 a3 => ?_) ?_
    · exact Keeps.step (State.shutZone_keeps ..) (Keeps.refl _ _)
    exact Keeps.refl _ _
  clear_value y0
  extract_lets +onlyGivenNames y4
  have h5 : Keeps State.finalise_mask s y4 := Keeps.step (State.mgmtSet_keeps ..) h1
  clear_value y4
  extract_lets +onlyGivenNames y6
  clear_value y6
  exact Keeps.step (State.putDisc_keeps ..) h5

def State.flushPointers_mask : Nat := State.journalZone_mask

theorem State.flushPointers_keeps (s : State) (c : Cmd) : Keeps State.flushPointers_mask s (State.flushPointers s c) := by
  unfold State.flushPointers
  refine Keeps.foldl (fun t0 a1 => ?_) ?_
  · refine Keeps.ite ?_ ?_
    · exact Keeps.step (State.journalZone_keeps ..) (Keeps.refl _ _)
    exact Keeps.refl _ _
  exact Keeps.refl _ _

def State.setStage_mask : Nat := State.updCmd_mask

theorem State.setStage_keeps (s : State) (c : Cmd) (k : Nat) : Keeps State.setStage_mask s (State.setStage s c k) := by
  unfold State.setStage
  exact Keeps.step (State.updCmd_keeps ..) (Keeps.refl _ _)

def State.settleRead_mask : Nat := State.finish_mask ||| State.fail_mask

theorem State.settleRead_keeps (s : State) (c : Cmd) : Keeps State.settleRead_mask s (State.settleRead s c) := by
  unfold State.settleRead
  refine Keeps.ite ?_ ?_
  · refine Keeps.ite ?_ ?_
    · exact Keeps.step (State.finish_keeps ..) (Keeps.refl _ _)
    exact Keeps.refl _ _
  refine Keeps.ite ?_ ?_
  · refine Keeps.ite ?_ ?_
    · exact Keeps.step (State.fail_keeps ..) (Keeps.refl _ _)
    exact Keeps.refl _ _
  refine Keeps.ite ?_ ?_
  · extract_lets +onlyGivenNames y0
    clear_value y0
    exact Keeps.step (State.finish_keeps ..) (Keeps.refl _ _)
  exact Keeps.refl _ _

def State.writeBroken_mask : Nat := State.fallBack_mask ||| State.updCmd_mask ||| State.unqueue_mask ||| State.dropHeld_mask

theorem State.writeBroken_keeps (s : State) (h : Held) (status : Nat) : Keeps State.writeBroken_mask s (State.writeBroken s h
    status) := by
  unfold State.writeBroken
  split
  · rename_i z0 z1
    exact Keeps.step (State.fallBack_keeps ..) (Keeps.refl _ _)
  rename_i z2 z3 z4
  refine Keeps.ite ?_ ?_
  · exact Keeps.step (State.fallBack_keeps ..) (Keeps.refl _ _)
  extract_lets +onlyGivenNames y5
  clear_value y5
  extract_lets +onlyGivenNames y6
  have h7 : Keeps State.writeBroken_mask s y6 := Keeps.step (State.updCmd_keeps ..) (Keeps.refl _ _)
  clear_value y6
  exact Keeps.step (State.unqueue_keeps ..) (Keeps.step (State.dropHeld_keeps ..) h7)

def State.settleWrite_mask : Nat := State.fallBack_mask ||| State.finish_mask ||| State.journalZone_mask

theorem State.settleWrite_keeps (s : State) (c : Cmd) : Keeps State.settleWrite_mask s (State.settleWrite s c) := by
  unfold State.settleWrite
  extract_lets +onlyGivenNames y0
  clear_value y0
  extract_lets +onlyGivenNames y1
  clear_value y1
  extract_lets +onlyGivenNames y2
  clear_value y2
  refine Keeps.ite ?_ ?_
  · refine Keeps.ite ?_ ?_
    · exact Keeps.step (State.fallBack_keeps ..) (Keeps.step (State.finish_keeps ..) (Keeps.refl _ _))
    exact Keeps.refl _ _
  refine Keeps.ite ?_ ?_
  · refine Keeps.ite ?_ ?_
    · exact Keeps.refl _ _
    extract_lets +onlyGivenNames y3
    clear_value y3
    extract_lets +onlyGivenNames y4
    have h5 : Keeps State.settleWrite_mask s y4 := by
      unfold y4
      refine Keeps.ite ?_ ?_
      · exact Keeps.step (State.journalZone_keeps ..) (Keeps.refl _ _)
      exact Keeps.refl _ _
    clear_value y4
    refine Keeps.ite ?_ ?_
    · exact Keeps.step (State.finish_keeps ..) h5
    exact h5
  refine Keeps.ite ?_ ?_
  · exact Keeps.step (State.finish_keeps ..) (Keeps.refl _ _)
  exact Keeps.refl _ _

def State.settleFlush_mask : Nat := State.flushPointers_mask ||| State.fail_mask

theorem State.settleFlush_keeps (s : State) (c : Cmd) : Keeps State.settleFlush_mask s (State.settleFlush s c) := by
  unfold State.settleFlush
  refine Keeps.ite ?_ ?_
  · exact Keeps.refl _ _
  extract_lets +onlyGivenNames y0
  have h1 : Keeps State.settleFlush_mask s y0 := Keeps.step (State.flushPointers_keeps ..) (Keeps.refl _ _)
  clear_value y0
  refine Keeps.ite ?_ ?_
  · extract_lets +onlyGivenNames y2
    clear_value y2
    exact Keeps.step (State.fail_keeps ..) h1
  exact h1

def State.settleClose_mask : Nat := State.closeZone_mask ||| State.initDisc_mask ||| State.setStage_mask |||
    State.snapshot_mask ||| State.zoneState_mask ||| State.finish_mask

theorem State.settleClose_keeps (s : State) (c : Cmd) : Keeps State.settleClose_mask s (State.settleClose s c) := by
  unfold State.settleClose
  extract_lets +onlyGivenNames y0
  clear_value y0
  extract_lets +onlyGivenNames y1
  clear_value y1
  refine Keeps.ite ?_ ?_
  · refine Keeps.ite ?_ ?_
    · extract_lets +onlyGivenNames y2
      have h3 : Keeps State.settleClose_mask s y2 := Keeps.step (State.closeZone_keeps ..) (Keeps.step (State.initDisc_keeps
          ..) (Keeps.refl _ _))
      clear_value y2
      exact Keeps.step (State.setStage_keeps ..) (Keeps.step (State.snapshot_keeps ..) (Keeps.step (State.zoneState_keeps ..)
          h3))
    exact Keeps.refl _ _
  refine Keeps.ite ?_ ?_
  · exact Keeps.refl _ _
  exact Keeps.step (State.finish_keeps ..) (Keeps.refl _ _)

def State.settleFinalise_mask : Nat := State.initDisc_mask ||| State.setStage_mask ||| State.finalise_mask ||| State.fail_mask
    ||| State.snapshot_mask

theorem State.settleFinalise_keeps (s : State) (c : Cmd) : Keeps State.settleFinalise_mask s (State.settleFinalise s c) := by
  unfold State.settleFinalise
  split
  · rename_i z0 z1
    exact Keeps.refl _ _
  rename_i z2 z3 z4
  refine Keeps.ite ?_ ?_
  · refine Keeps.ite ?_ ?_
    · extract_lets +onlyGivenNames y5
      have h6 : Keeps State.settleFinalise_mask s y5 := Keeps.step (State.initDisc_keeps ..) (Keeps.refl _ _)
      clear_value y5
      refine Keeps.step (State.setStage_keeps ..) (Keeps.ite ?_ ?_)
      · exact h6
      exact Keeps.step (State.finalise_keeps ..) h6
    exact Keeps.refl _ _
  refine Keeps.ite ?_ ?_
  · exact Keeps.refl _ _
  refine Keeps.ite ?_ ?_
  · exact Keeps.step (State.setStage_keeps ..) (Keeps.step (State.finalise_keeps ..) (Keeps.refl _ _))
  exact Keeps.step (State.fail_keeps ..) (Keeps.step (State.snapshot_keeps ..) (Keeps.refl _ _))

def State.dropGuest_mask : Nat := State.putDisc_mask ||| partBits [.lib, .discs, .zones]

theorem State.dropGuest_keeps (s : State) (d : Nat) : Keeps State.dropGuest_mask s (State.dropGuest s d) := by
  unfold State.dropGuest
  extract_lets +onlyGivenNames y0
  clear_value y0
  extract_lets +onlyGivenNames y1
  have h2 : Keeps State.dropGuest_mask s y1 := Keeps.set_lib (Keeps.refl _ _)
  clear_value y1
  refine Keeps.ite ?_ ?_
  · exact Keeps.step (State.putDisc_keeps ..) h2
  exact Keeps.set_discs_zones h2

def State.settleUnmount_mask : Nat := State.fail_mask ||| State.zoneState_mask ||| State.setStage_mask ||| State.parkHead_mask
    ||| State.snapshot_mask ||| State.spinTarget_mask ||| State.askTransfer_mask ||| State.ringSend_mask |||
    State.dropGuest_mask ||| partBits [.cmds]

theorem State.settleUnmount_keeps (s : State) (c : Cmd) : Keeps State.settleUnmount_mask s (State.settleUnmount s c) := by
  unfold State.settleUnmount
  split
  · rename_i z0 z1 z2 z3 z4 z5
    extract_lets +onlyGivenNames y6
    clear_value y6
    refine Keeps.ite ?_ ?_
    · exact Keeps.step (State.fail_keeps ..) (Keeps.refl _ _)
    refine Keeps.ite ?_ ?_
    · refine Keeps.ite ?_ ?_
      · extract_lets +onlyGivenNames y7
        have h8 : Keeps State.settleUnmount_mask s y7 := by
          unfold y7
          refine Keeps.foldl (fun t9 a10 => ?_) ?_
          · refine Keeps.ite ?_ ?_
            · exact Keeps.step (State.zoneState_keeps ..) (Keeps.refl _ _)
            exact Keeps.refl _ _
          exact Keeps.refl _ _
        clear_value y7
        exact Keeps.step (State.setStage_keeps ..) h8
      exact Keeps.refl _ _
    refine Keeps.ite ?_ ?_
    · refine Keeps.ite ?_ ?_
      · exact Keeps.refl _ _
      extract_lets +onlyGivenNames y11
      have h12 : Keeps State.settleUnmount_mask s y11 := Keeps.step (State.parkHead_keeps ..) (Keeps.step (State.parkHead_keeps
          ..) (Keeps.step (State.snapshot_keeps ..) (Keeps.refl _ _)))
      clear_value y11
      refine Keeps.step (State.setStage_keeps ..) (Keeps.ite ?_ ?_)
      · exact Keeps.step (State.spinTarget_keeps ..) h12
      exact h12
    refine Keeps.ite ?_ ?_
    · refine Keeps.ite ?_ ?_
      · refine Keeps.ite ?_ ?_
        · exact Keeps.step (State.setStage_keeps ..) (Keeps.step (State.askTransfer_keeps ..) (Keeps.refl _ _))
        exact Keeps.step (State.ringSend_keeps ..) (Keeps.step (State.dropGuest_keeps ..) (Keeps.set_cmds (Keeps.refl _ _)))
      exact Keeps.refl _ _
    exact Keeps.refl _ _
  rename_i z13 z14 z15
  exact Keeps.refl _ _

def State.settleAbort_mask : Nat := State.fail_mask

theorem State.settleAbort_keeps (s : State) (c : Cmd) : Keeps State.settleAbort_mask s (State.settleAbort s c) := by
  unfold State.settleAbort
  split
  · rename_i z0 z1 z2
    refine Keeps.ite ?_ ?_
    · exact Keeps.refl _ _
    exact Keeps.step (State.fail_keeps ..) (Keeps.refl _ _)
  rename_i z3 z4
  exact Keeps.step (State.fail_keeps ..) (Keeps.refl _ _)

def State.settleCmd_mask : Nat := State.settleRead_mask ||| State.settleWrite_mask ||| State.settleFlush_mask |||
    State.settleClose_mask ||| State.settleFinalise_mask ||| State.settleUnmount_mask ||| State.settleAbort_mask

theorem State.settleCmd_keeps (s : State) (sq tag : Nat) : Keeps State.settleCmd_mask s (State.settleCmd s sq tag) := by
  unfold State.settleCmd
  split
  · rename_i z0 z1
    exact Keeps.refl _ _
  rename_i z2 z3 z4
  refine Keeps.ite ?_ ?_
  · exact Keeps.refl _ _
  split
  · rename_i z5 z6
    exact Keeps.step (State.settleRead_keeps ..) (Keeps.refl _ _)
  · rename_i z7 z8
    exact Keeps.step (State.settleRead_keeps ..) (Keeps.refl _ _)
  · rename_i z9 z10
    exact Keeps.step (State.settleWrite_keeps ..) (Keeps.refl _ _)
  · rename_i z11 z12
    exact Keeps.step (State.settleFlush_keeps ..) (Keeps.refl _ _)
  · rename_i z13 z14
    exact Keeps.step (State.settleClose_keeps ..) (Keeps.refl _ _)
  · rename_i z15 z16
    exact Keeps.step (State.settleFinalise_keeps ..) (Keeps.refl _ _)
  · rename_i z17 z18
    exact Keeps.step (State.settleUnmount_keeps ..) (Keeps.refl _ _)
  · rename_i z19 z20
    exact Keeps.step (State.settleAbort_keeps ..) (Keeps.refl _ _)
  rename_i z21 z22 z23 z24 z25 z26 z27 z28 z29
  exact Keeps.refl _ _

def State.releaseSlice_mask : Nat := State.journalZone_mask ||| State.putSlice_mask ||| State.abandonHeadCal_mask |||
    State.draw_mask ||| State.showSp_mask ||| fieldBits [Reg.SLC_EQ_SET_COEF, Reg.SLC_ASSIGN_ASSIGNED, Reg.SLC_ASSIGN_MODE,
    Reg.SLC_ASSIGN_HEAD, Reg.SLC_ASSIGN_STATION, Reg.SLC_STATUS_STATE, Reg.SLC_STATUS_ENC_READY, Reg.SLC_STATUS_VFY_PENDING,
    Reg.SLC_STATUS_BLANK, Reg.SLC_RATE_STATUS_HOLDING, Reg.SLC_RATE_STATUS_PAUSED, Reg.SLC_RATE_STATUS_BACKLOG,
    Reg.SLC_CTRL_RELEASE, Reg.SLC_EQ_CTRL_COMMIT, Reg.SLC_EQ_CTRL_COMMIT_PENDING]

theorem State.releaseSlice_keeps (s : State) (sl : Nat) : Keeps State.releaseSlice_mask s (State.releaseSlice s sl) := by
  unfold State.releaseSlice
  extract_lets +onlyGivenNames y0
  clear_value y0
  split
  · rename_i z1 z2
    exact Keeps.refl _ _
  rename_i z3 z4 z5
  extract_lets +onlyGivenNames y6
  have h7 : Keeps State.releaseSlice_mask s y6 := by
    unfold y6
    split
    · rename_i z8 z9 z10
      refine Keeps.ite ?_ ?_
      · exact Keeps.step (State.journalZone_keeps ..) (Keeps.refl _ _)
      exact Keeps.refl _ _
    rename_i z11 z12
    exact Keeps.refl _ _
  clear_value y6
  extract_lets +onlyGivenNames y13
  have h14 : Keeps State.releaseSlice_mask s y13 := Keeps.step (State.putSlice_keeps ..) (Keeps.step
      (State.abandonHeadCal_keeps ..) h7)
  clear_value y13
  extract_lets +onlyGivenNames y15
  have h16 : Keeps State.releaseSlice_mask s y15 := by
    unfold y15
    refine Keeps.foldl (fun t17 a18 => ?_) ?_
    · split
      rename_i z19 z20 z21 z22
      exact Keeps.wr (Keeps.ofSnd z22 (KeepsSnd.step (State.draw_keeps ..) (Keeps.refl _ _)))
    exact h14
  clear_value y15
  extract_lets +onlyGivenNames y23
  have h24 : Keeps State.releaseSlice_mask s y23 := by
    unfold y23
    refine Keeps.foldlMem (fun t25 a26 m27 => ?_) ?_
    · exact Keeps.clr (Keeps.refl _ _) (by revert a26; decide +kernel)
    exact h16
  clear_value y23
  exact Keeps.step (State.showSp_keeps ..) h24

def State.showSlice_mask : Nat := State.putSlice_mask ||| State.releaseSlice_mask ||| fieldBits [Reg.SLC_STATUS_VFY_PENDING,
    Reg.SLC_STATUS_ENC_READY, Reg.SLC_RATE_STATUS_BACKLOG, Reg.SLC_RATE_STATUS_HOLDING, Reg.SLC_STATUS_STATE]

theorem State.showSlice_keeps (s : State) (sl : Nat) : Keeps State.showSlice_mask s (State.showSlice s sl) := by
  unfold State.showSlice
  extract_lets +onlyGivenNames y0
  clear_value y0
  extract_lets +onlyGivenNames y1
  clear_value y1
  extract_lets +onlyGivenNames y2
  clear_value y2
  extract_lets +onlyGivenNames y3
  clear_value y3
  extract_lets +onlyGivenNames y4
  have h5 : Keeps State.showSlice_mask s y4 := Keeps.wr (Keeps.wr (Keeps.refl _ _))
  clear_value y4
  extract_lets +onlyGivenNames y6
  have h7 : Keeps State.showSlice_mask s y6 := Keeps.wr h5
  clear_value y6
  extract_lets +onlyGivenNames y8
  have h9 : Keeps State.showSlice_mask s y8 := Keeps.step (State.putSlice_keeps ..) h7
  clear_value y8
  refine Keeps.ite ?_ ?_
  · exact h9
  refine Keeps.ite ?_ ?_
  · exact Keeps.step (State.releaseSlice_keeps ..) h9
  exact Keeps.clr (Keeps.wr h9)

def State.finishSides_mask : Nat := State.finalise_mask ||| State.initDisc_mask

theorem State.finishSides_keeps (s : State) : Keeps State.finishSides_mask s (State.finishSides s) := by
  unfold State.finishSides
  refine Keeps.foldl (fun t0 a1 => ?_) ?_
  · extract_lets +onlyGivenNames y2
    clear_value y2
    refine Keeps.ite ?_ ?_
    · refine Keeps.ite ?_ ?_
      · exact Keeps.step (State.finalise_keeps ..) (Keeps.refl _ _)
      exact Keeps.step (State.initDisc_keeps ..) (Keeps.refl _ _)
    exact Keeps.refl _ _
  exact Keeps.refl _ _

def State.settle_mask : Nat := State.finishSides_mask ||| State.settleAll_mask ||| State.settleCmd_mask |||
    State.wantSlice_mask ||| State.showSlice_mask

theorem State.settle_keeps (s : State) : Keeps State.settle_mask s (State.settle s) := by
  unfold State.settle
  extract_lets +onlyGivenNames y0
  have h1 : Keeps State.settle_mask s y0 := by
    unfold y0
    refine Keeps.step (State.finishSides_keeps ..) (Keeps.step (State.settleAll_keeps ..) (Keeps.foldl (fun t2 a3 => ?_) ?_))
    · exact Keeps.step (State.settleCmd_keeps ..) (Keeps.refl _ _)
    exact Keeps.refl _ _
  clear_value y0
  extract_lets +onlyGivenNames y4
  have h5 : Keeps State.settle_mask s y4 := by
    unfold y4
    refine Keeps.foldl (fun t6 a7 => ?_) ?_
    · split
      · rename_i z8 z9 z10
        exact Keeps.step (State.wantSlice_keeps ..) (Keeps.refl _ _)
      rename_i z11 z12
      exact Keeps.refl _ _
    exact h1
  clear_value y4
  refine Keeps.foldl (fun t13 a14 => ?_) ?_
  · exact Keeps.step (State.showSlice_keeps ..) (Keeps.refl _ _)
  exact h5

end Sys2Proof.Machine
end

