-- ==== Sys2Proof/Laws/KeepsSlices.lean ====
section
/-!
SUPPORT. What the operations of Machine/Slices.lean leave as it was, one lemma for each.
-/

set_option Elab.async false

namespace Sys2Proof.Machine

def State.setSl_mask : Nat := fieldBits [Reg.SLC_STATUS_STATE]

theorem State.setSl_keeps (s : State) (sl st : Nat) : Keeps State.setSl_mask s (State.setSl s sl st) := by
  unfold State.setSl
  exact Keeps.wr (Keeps.refl _ _)

def execSliceAssign_mask : Nat := State.putSlice_mask ||| State.loadAlign_mask ||| State.loadEq_mask ||| State.loadOfs_mask |||
    State.showSlice_mask ||| State.showSp_mask ||| State.admitted_mask ||| State.setSl_mask ||| fieldBits
    [Reg.SLC_ASSIGN_STATION, Reg.SLC_ASSIGN_HEAD, Reg.SLC_ASSIGN_MODE, Reg.SLC_ASSIGN_ASSIGNED] ||| partBits [.headWait]

theorem execSliceAssign_keeps (n : Fin 128) (side : Fin 2) (s : State) : KeepsRes execSliceAssign_mask s (execSliceAssign n
    side s) := by
  unfold execSliceAssign
  extract_lets +onlyGivenNames y0
  clear_value y0
  split
  · rename_i z1 z2
    exact KeepsRes.next (Keeps.refl _ _)
  rename_i z3 z4 z5 z6
  refine KeepsRes.ite ?_ ?_
  · exact KeepsRes.next (Keeps.refl _ _)
  extract_lets +onlyGivenNames y7
  clear_value y7
  split
  · rename_i z8 z9
    exact KeepsRes.next (Keeps.refl _ _)
  rename_i z10 z11 z12
  extract_lets +onlyGivenNames y13
  have h14 : Keeps execSliceAssign_mask s y13 := Keeps.step (State.putSlice_keeps ..) (Keeps.set_headWait (Keeps.refl _ _))
  clear_value y13
  extract_lets +onlyGivenNames y15
  have h16 : Keeps execSliceAssign_mask s y15 := Keeps.wr (Keeps.wr (Keeps.wr (Keeps.set1 h14)))
  clear_value y15
  extract_lets +onlyGivenNames y17
  have h18 : Keeps execSliceAssign_mask s y17 := Keeps.step (State.loadAlign_keeps ..) (Keeps.step (State.loadEq_keeps ..)
      (Keeps.step (State.loadOfs_keeps ..) h16))
  clear_value y17
  exact KeepsRes.next (Keeps.step (State.showSlice_keeps ..) (Keeps.step (State.showSp_keeps ..) (Keeps.step
      (State.admitted_keeps ..) (Keeps.step (State.setSl_keeps ..) h18))))

def execSliceWait_mask : Nat := State.advanceTo_mask ||| State.raise_mask ||| partBits [.headWait]

theorem execSliceWait_keeps (n : Fin 128) (side : Fin 2) (s : State) : KeepsRes execSliceWait_mask s (execSliceWait n side s)
    := by
  unfold execSliceWait
  extract_lets +onlyGivenNames y0
  clear_value y0
  split
  · rename_i z1 z2
    exact KeepsRes.next (Keeps.refl _ _)
  rename_i z3 z4 z5
  extract_lets +onlyGivenNames y6
  have h7 : Keeps execSliceWait_mask s y6 := Keeps.step (State.advanceTo_keeps ..) (Keeps.refl _ _)
  clear_value y6
  extract_lets +onlyGivenNames y8
  have h9 : Keeps execSliceWait_mask s y8 := Keeps.set_headWait h7
  clear_value y8
  exact KeepsRes.next (Keeps.step (State.raise_keeps ..) h9)

def execSliceRelease_mask : Nat := State.releaseSlice_mask ||| State.advanceTo_mask

theorem execSliceRelease_keeps (sl : Fin 96) (s : State) : KeepsRes execSliceRelease_mask s (execSliceRelease sl s) := by
  unfold execSliceRelease
  extract_lets +onlyGivenNames y0
  clear_value y0
  refine KeepsRes.ite ?_ ?_
  · exact KeepsRes.next (Keeps.refl _ _)
  extract_lets +onlyGivenNames y1
  clear_value y1
  extract_lets +onlyGivenNames y2
  clear_value y2
  exact KeepsRes.next (Keeps.step (State.releaseSlice_keeps ..) (Keeps.step (State.advanceTo_keeps ..) (Keeps.refl _ _)))

def execSliceReleaseRequest_mask : Nat := State.showSlice_mask ||| fieldBits [Reg.SLC_CTRL_RELEASE]

theorem execSliceReleaseRequest_keeps (sl : Fin 96) (s : State) : KeepsRes execSliceReleaseRequest_mask s
    (execSliceReleaseRequest sl s) := by
  unfold execSliceReleaseRequest
  refine KeepsRes.ite ?_ ?_
  · exact KeepsRes.next (Keeps.refl _ _)
  exact KeepsRes.next (Keeps.step (State.showSlice_keeps ..) (Keeps.set1 (Keeps.refl _ _)))

def execSliceStatClear_mask : Nat := fieldBits [Reg.SLC_STAT_COUNT]

theorem execSliceStatClear_keeps (sl : Fin 96) (s : State) : KeepsRes execSliceStatClear_mask s (execSliceStatClear sl s) := by
  unfold execSliceStatClear
  refine KeepsRes.next (Keeps.foldl (fun t0 a1 => ?_) ?_)
  · exact Keeps.clr (Keeps.refl _ _)
  exact Keeps.refl _ _

def execSliceModeChange_mask : Nat := State.putSlice_mask ||| State.showSlice_mask ||| State.setSl_mask ||| fieldBits
    [Reg.SLC_RATE_STATUS_PAUSED, Reg.SLC_ASSIGN_MODE, Reg.SLC_RATE_STATUS_HOLDING]

theorem execSliceModeChange_keeps (sl : Fin 96) (s : State) : KeepsRes execSliceModeChange_mask s (execSliceModeChange sl s) :=
    by
  unfold execSliceModeChange
  extract_lets +onlyGivenNames y0
  clear_value y0
  split
  · rename_i z1 z2
    exact KeepsRes.next (Keeps.refl _ _)
  rename_i z3 z4 z5
  extract_lets +onlyGivenNames y6
  have h7 : Keeps execSliceModeChange_mask s y6 := Keeps.step (State.putSlice_keeps ..) (Keeps.refl _ _)
  clear_value y6
  refine KeepsRes.ite ?_ ?_
  · exact KeepsRes.next h7
  refine KeepsRes.ite ?_ ?_
  · exact KeepsRes.next (Keeps.step (State.showSlice_keeps ..) (Keeps.step (State.setSl_keeps ..) (Keeps.clr (Keeps.wr h7))))
  refine KeepsRes.ite ?_ ?_
  · exact KeepsRes.next (Keeps.step (State.showSlice_keeps ..) (Keeps.step (State.setSl_keeps ..) (Keeps.clr (Keeps.wr h7))))
  exact KeepsRes.next h7

def execEqCommit_mask : Nat := fieldBits [Reg.SLC_EQ_CTRL_COMMIT_PENDING, Reg.SLC_EQ_CTRL_COMMIT]

theorem execEqCommit_keeps (sl : Fin 96) (s : State) : KeepsRes execEqCommit_mask s (execEqCommit sl s) := by
  unfold execEqCommit
  exact KeepsRes.next (Keeps.set1 (Keeps.set1 (Keeps.refl _ _)))

def execEqCommitCopy_mask : Nat := State.eqPut_mask ||| State.putSlice_mask ||| fieldBits [Reg.SLC_EQ_CTRL_COMMIT_PENDING,
    Reg.SLC_EQ_CTRL_COMMIT]

theorem execEqCommitCopy_keeps (sl : Fin 96) (s : State) : KeepsRes execEqCommitCopy_mask s (execEqCommitCopy sl s) := by
  unfold execEqCommitCopy
  refine KeepsRes.ite ?_ ?_
  · exact KeepsRes.next (Keeps.refl _ _)
  extract_lets +onlyGivenNames y0
  clear_value y0
  extract_lets +onlyGivenNames y1
  clear_value y1
  extract_lets +onlyGivenNames y2
  have h3 : Keeps execEqCommitCopy_mask s y2 := by
    unfold y2
    refine Keeps.ite ?_ ?_
    · exact Keeps.step (State.eqPut_keeps ..) (Keeps.refl _ _)
    exact Keeps.refl _ _
  clear_value y2
  extract_lets +onlyGivenNames y4
  have h5 : Keeps execEqCommitCopy_mask s y4 := Keeps.step (State.putSlice_keeps ..) h3
  clear_value y4
  exact KeepsRes.next (Keeps.clr (Keeps.clr h5))

def execEqShadowWrite_mask : Nat := State.raise_mask ||| fieldBits [Reg.SLC_EQ_CTRL_WR_DROP, Reg.SLC_EQ_SET_COEF]

theorem execEqShadowWrite_keeps (sl : Fin 96) (f : Fin 4) (t : Fin 16) (v : BitVec 12) (s : State) : KeepsRes
    execEqShadowWrite_mask s (execEqShadowWrite sl f t v s) := by
  unfold execEqShadowWrite
  refine KeepsRes.ite ?_ ?_
  · exact KeepsRes.next (Keeps.step (State.raise_keeps ..) (Keeps.set1 (Keeps.refl _ _)))
  refine KeepsRes.ite ?_ ?_
  · exact KeepsRes.next (Keeps.wr (Keeps.refl _ _))
  exact KeepsRes.next (Keeps.refl _ _)

def State.correct_mask : Nat := State.kept_mask

theorem State.correct_keeps (s : State) (sl : Nat) (trail : Bool) (x : Int) : KeepsSnd State.correct_mask s (State.correct s sl
    trail x) := by
  unfold State.correct
  extract_lets +onlyGivenNames y0
  clear_value y0
  extract_lets +onlyGivenNames y1
  clear_value y1
  split
  rename_i z2 z3 z4 z5
  exact KeepsSnd.mk (Keeps.ofSnd z5 (KeepsSnd.step (State.kept_keeps ..) (Keeps.refl _ _)))

def State.correctAll_mask : Nat := State.correct_mask

theorem State.correctAll_keeps (s : State) (sl : Nat) (ps : List (Int × Int)) : KeepsSnd State.correctAll_mask s
    (State.correctAll s sl ps) := by
  unfold State.correctAll
  refine KeepsSnd.foldl (fun t0 a1 => ?_) ?_
  · split
    rename_i z2 z3 z4 z5
    split
    rename_i z6 z7 z8 z9
    exact KeepsSnd.mk (Keeps.ofSnd z9 (KeepsSnd.step (State.correct_keeps ..) (Keeps.ofSnd z5 (KeepsSnd.step
        (State.correct_keeps ..) (Keeps.refl _ _)))))
  exact KeepsSnd.mk (Keeps.refl _ _)

def State.eqPair_mask : Nat := State.kept_mask

theorem State.eqPair_keeps (s : State) (sl : Nat) (xs : Array (Option Int × Option Int)) (n : Nat) : KeepsSnd State.eqPair_mask
    s (State.eqPair s sl xs n) := by
  unfold State.eqPair
  split
  rename_i z0 z1 z2 z3
  split
  rename_i z4 z5 z6 z7
  exact KeepsSnd.mk (Keeps.ofSnd z7 (KeepsSnd.step (State.kept_keeps ..) (Keeps.ofSnd z3 (KeepsSnd.step (State.kept_keeps ..)
      (Keeps.refl _ _)))))

def State.formOut_mask : Nat := State.putSlice_mask ||| State.eqPair_mask

theorem State.formOut_keeps (s : State) (sl n : Nat) : Keeps State.formOut_mask s (State.formOut s sl n) := by
  unfold State.formOut
  extract_lets +onlyGivenNames y0
  clear_value y0
  extract_lets +onlyGivenNames y1
  clear_value y1
  split
  rename_i z2 z3 z4 z5
  refine Keeps.step (State.putSlice_keeps ..) (Keeps.ofSnd z5 (KeepsSnd.foldl (fun t6 a7 => ?_) ?_))
  · split
    rename_i z8 z9 z10 z11
    exact KeepsSnd.mk (Keeps.ofSnd z11 (KeepsSnd.step (State.eqPair_keeps ..) (Keeps.refl _ _)))
  exact KeepsSnd.mk (Keeps.refl _ _)

def State.eqMove_mask : Nat := State.kept_mask ||| fieldBits [Reg.SLC_EQ_SET_COEF]

theorem State.eqMove_keeps (s : State) (sl f : Nat) (e : Int) (x : Int → Int) (n : Int) : Keeps State.eqMove_mask s
    (State.eqMove s sl f e x n) := by
  unfold State.eqMove
  refine Keeps.foldl (fun t0 a1 => ?_) ?_
  · split
    rename_i z2 z3 z4 z5
    exact Keeps.wrS (Keeps.ofSnd z5 (KeepsSnd.step (State.kept_keeps ..) (Keeps.refl _ _)))
  exact Keeps.refl _ _

def State.eqAdapt_mask : Nat := State.eqMove_mask

theorem State.eqAdapt_keeps (s : State) (sl : Nat) (trail : Bool) (o : RowOut) (at_ : Int) : Keeps State.eqAdapt_mask s
    (State.eqAdapt s sl trail o at_) := by
  unfold State.eqAdapt
  extract_lets +onlyGivenNames y0
  clear_value y0
  extract_lets +onlyGivenNames y1
  clear_value y1
  refine Keeps.foldl (fun t2 a3 => ?_) ?_
  · split
    · rename_i z4 z5 z6
      refine Keeps.ite ?_ ?_
      · exact Keeps.refl _ _
      extract_lets +onlyGivenNames y7
      clear_value y7
      extract_lets +onlyGivenNames y8
      clear_value y8
      extract_lets +onlyGivenNames y9
      clear_value y9
      exact Keeps.step (State.eqMove_keeps ..) (Keeps.step (State.eqMove_keeps ..) (Keeps.refl _ _))
    rename_i z10 z11
    exact Keeps.refl _ _
  exact Keeps.refl _ _

def State.claim_mask : Nat := State.actFor_mask ||| State.putSlice_mask

theorem State.claim_keeps (s : State) (sl h slot : Nat) : KeepsSnd State.claim_mask s (State.claim s sl h slot) := by
  unfold State.claim
  extract_lets +onlyGivenNames y0
  clear_value y0
  refine KeepsSnd.ite ?_ ?_
  · exact KeepsSnd.mk (Keeps.refl _ _)
  split
  · rename_i z1 z2 z3
    exact KeepsSnd.mk (Keeps.refl _ _)
  rename_i z4 z5
  refine KeepsSnd.ite ?_ ?_
  · exact KeepsSnd.mk (Keeps.refl _ _)
  refine KeepsSnd.ite ?_ ?_
  · extract_lets +onlyGivenNames y6
    clear_value y6
    exact KeepsSnd.mk (Keeps.step (State.actFor_keeps ..) (Keeps.step (State.putSlice_keeps ..) (Keeps.refl _ _)))
  exact KeepsSnd.mk (Keeps.step (State.putSlice_keeps ..) (Keeps.refl _ _))

def State.flywheel_mask : Nat := State.raiseWin_mask ||| fieldBits [Reg.SLC_STAT_COUNT, Reg.SLC_EVT_ROW_SYNC_MISSED]

theorem State.flywheel_keeps (s : State) (sl : Nat) (o : RowOut) : Keeps State.flywheel_mask s (State.flywheel s sl o) := by
  unfold State.flywheel
  refine Keeps.ite ?_ ?_
  · exact Keeps.step (State.raiseWin_keeps ..) (Keeps.bump (Keeps.set1 (Keeps.refl _ _)))
  exact Keeps.refl _ _

def State.adaptRow_mask : Nat := State.eqAdapt_mask

theorem State.adaptRow_keeps (s : State) (sl : Nat) (trail : Bool) (rho : Nat) (o : RowOut) : Keeps State.adaptRow_mask s
    (State.adaptRow s sl trail rho o) := by
  unfold State.adaptRow
  refine Keeps.ite ?_ ?_
  · exact Keeps.step (State.eqAdapt_keeps ..) (Keeps.refl _ _)
  exact Keeps.refl _ _

def State.backRow_mask : Nat := State.putSlice_mask ||| State.adaptRow_mask ||| State.flywheel_mask

theorem State.backRow_keeps (s : State) (sl rho : Nat) : Keeps State.backRow_mask s (State.backRow s sl rho) := by
  unfold State.backRow
  extract_lets +onlyGivenNames y0
  clear_value y0
  extract_lets +onlyGivenNames y1
  clear_value y1
  refine Keeps.ite ?_ ?_
  · exact Keeps.refl _ _
  extract_lets +onlyGivenNames y2
  clear_value y2
  extract_lets +onlyGivenNames y3
  clear_value y3
  extract_lets +onlyGivenNames y4
  have h5 : Keeps State.backRow_mask s y4 := Keeps.step (State.putSlice_keeps ..) (Keeps.refl _ _)
  clear_value y4
  exact Keeps.step (State.adaptRow_keeps ..) (Keeps.step (State.flywheel_keeps ..) h5)

def State.freshRow_mask : Nat := State.adaptRow_mask ||| State.flywheel_mask ||| State.askStep_mask ||| partBits [.ladders]

theorem State.freshRow_keeps (s : State) (sl rho : Nat) (l : Ladder) (e : Soft) : Keeps State.freshRow_mask s (State.freshRow s
    sl rho l e) := by
  unfold State.freshRow
  extract_lets +onlyGivenNames y0
  clear_value y0
  refine Keeps.ite ?_ ?_
  · exact Keeps.refl _ _
  extract_lets +onlyGivenNames y1
  clear_value y1
  extract_lets +onlyGivenNames y2
  clear_value y2
  extract_lets +onlyGivenNames y3
  clear_value y3
  extract_lets +onlyGivenNames y4
  clear_value y4
  extract_lets +onlyGivenNames y5
  clear_value y5
  extract_lets +onlyGivenNames y6
  have h7 : Keeps State.freshRow_mask s y6 := Keeps.set_ladders (Keeps.refl _ _)
  clear_value y6
  extract_lets +onlyGivenNames y8
  have h9 : Keeps State.freshRow_mask s y8 := Keeps.step (State.adaptRow_keeps ..) (Keeps.step (State.flywheel_keeps ..) h7)
  clear_value y8
  refine Keeps.ite ?_ ?_
  · exact Keeps.step (State.askStep_keeps ..) h9
  exact h9

def State.storeRow_mask : Nat := State.claim_mask ||| State.adaptRow_mask ||| State.flywheel_mask ||| State.putSlice_mask

theorem State.storeRow_keeps (s : State) (sl h : Nat) (trail : Bool) (rho : Nat) : Keeps State.storeRow_mask s (State.storeRow
    s sl h trail rho) := by
  unfold State.storeRow
  refine Keeps.ite ?_ ?_
  · exact Keeps.refl _ _
  split
  · rename_i z0 z1 z2
    exact Keeps.ofSnd z2 (KeepsSnd.step (State.claim_keeps ..) (Keeps.refl _ _))
  rename_i z3 z4 z5 z6
  extract_lets +onlyGivenNames y7
  clear_value y7
  extract_lets +onlyGivenNames y8
  clear_value y8
  exact Keeps.step (State.adaptRow_keeps ..) (Keeps.step (State.flywheel_keeps ..) (Keeps.step (State.putSlice_keeps ..)
      (Keeps.ofSnd z6 (KeepsSnd.step (State.claim_keeps ..) (Keeps.refl _ _)))))

def State.takeRow_mask : Nat := State.opcRow_mask ||| State.backRow_mask ||| State.freshRow_mask ||| State.storeRow_mask

theorem State.takeRow_keeps (s : State) (sl h : Nat) (trail : Bool) (rho : Nat) : Keeps State.takeRow_mask s (State.takeRow s
    sl h trail rho) := by
  unfold State.takeRow
  refine Keeps.ite ?_ ?_
  · refine Keeps.ite ?_ ?_
    · exact Keeps.step (State.opcRow_keeps ..) (Keeps.refl _ _)
    exact Keeps.refl _ _
  refine Keeps.ite ?_ ?_
  · refine Keeps.ite ?_ ?_
    · exact Keeps.step (State.backRow_keeps ..) (Keeps.refl _ _)
    exact Keeps.refl _ _
  split
  · rename_i z0 z1 z2
    split
    · rename_i z3 z4 z5 z6
      exact Keeps.step (State.freshRow_keeps ..) (Keeps.refl _ _)
    rename_i z7 z8 z9 z10
    exact Keeps.refl _ _
  rename_i z11 z12
  exact Keeps.step (State.storeRow_keeps ..) (Keeps.refl _ _)

def State.runRows_mask : Nat := State.takeRow_mask ||| State.putSlice_mask

theorem State.runRows_keeps : ∀ (n : Nat) (s : State) (sl h : Nat) (trail all : Bool), Keeps State.runRows_mask s
    (State.runRows n s sl h trail all) := by
  intro n
  induction n with
  | zero => intro s sl h trail all; exact Keeps.refl _ _
  | succ n ih =>
    intro s sl h trail all
    unfold State.runRows
    extract_lets +onlyGivenNames y0
    clear_value y0
    split
    · rename_i z1 z2
      exact Keeps.refl _ _
    rename_i z3 z4 z5
    extract_lets +onlyGivenNames y6
    clear_value y6
    extract_lets +onlyGivenNames y7
    clear_value y7
    extract_lets +onlyGivenNames y8
    clear_value y8
    refine Keeps.ite ?_ ?_
    · exact Keeps.refl _ _
    extract_lets +onlyGivenNames y9
    have h10 : Keeps State.runRows_mask s y9 := Keeps.step (State.takeRow_keeps ..) (Keeps.refl _ _)
    clear_value y9
    extract_lets +onlyGivenNames y11
    clear_value y11
    exact Keeps.step (ih ..) (Keeps.step (State.putSlice_keeps ..) h10) (Nat.or_self _)

def State.workRows_mask : Nat := State.runRows_mask ||| State.putSlice_mask

theorem State.workRows_keeps (s : State) (sl h : Nat) (all : Bool) : Keeps State.workRows_mask s (State.workRows s sl h all) :=
    by
  unfold State.workRows
  extract_lets +onlyGivenNames y0
  clear_value y0
  extract_lets +onlyGivenNames y1
  have h2 : Keeps State.workRows_mask s y1 := Keeps.step (State.runRows_keeps ..) (Keeps.refl _ _)
  clear_value y1
  extract_lets +onlyGivenNames y3
  have h4 : Keeps State.workRows_mask s y3 := Keeps.step (State.runRows_keeps ..) h2
  clear_value y3
  extract_lets +onlyGivenNames y5
  clear_value y5
  exact Keeps.step (State.putSlice_keeps ..) h4

def State.endRun_mask : Nat := State.workRows_mask ||| State.formOut_mask ||| State.putSlice_mask

theorem State.endRun_keeps (s : State) (sl h : Nat) : Keeps State.endRun_mask s (State.endRun s sl h) := by
  unfold State.endRun
  extract_lets +onlyGivenNames y0
  have h1 : Keeps State.endRun_mask s y0 := Keeps.step (State.workRows_keeps ..) (Keeps.step (State.formOut_keeps ..)
      (Keeps.refl _ _))
  clear_value y0
  exact Keeps.step (State.putSlice_keeps ..) h1

def State.samplesLost_mask : Nat := State.raiseWin_mask ||| fieldBits [Reg.SLC_STAT_COUNT, Reg.SLC_EVT_SAMPLES_LOST]

theorem State.samplesLost_keeps (s : State) (sl n : Nat) : Keeps State.samplesLost_mask s (State.samplesLost s sl n) := by
  unfold State.samplesLost
  refine Keeps.foldl (fun t0 a1 => ?_) ?_
  · exact Keeps.step (State.raiseWin_keeps ..) (Keeps.bump (Keeps.set1 (Keeps.refl _ _)))
  exact Keeps.refl _ _

def State.measureLag_mask : Nat := State.putSlice_mask ||| State.raise_mask ||| fieldBits [Reg.SLC_EVT_SPOT_LAG_SHORT]

theorem State.measureLag_keeps (s : State) (sl h lead trail : Nat) : Keeps State.measureLag_mask s (State.measureLag s sl h
    lead trail) := by
  unfold State.measureLag
  extract_lets +onlyGivenNames y0
  clear_value y0
  extract_lets +onlyGivenNames y1
  clear_value y1
  extract_lets +onlyGivenNames y2
  clear_value y2
  extract_lets +onlyGivenNames y3
  have h4 : Keeps State.measureLag_mask s y3 := Keeps.step (State.putSlice_keeps ..) (Keeps.refl _ _)
  clear_value y3
  refine Keeps.ite ?_ ?_
  · exact Keeps.step (State.raise_keeps ..) (Keeps.set1 h4)
  exact h4

def State.eraseSpan_mask : Nat := State.claim_mask ||| State.putSlice_mask

theorem State.eraseSpan_keeps (s : State) (sl h lo hi : Nat) : Keeps State.eraseSpan_mask s (State.eraseSpan s sl h lo hi) := by
  unfold State.eraseSpan
  refine Keeps.foldl (fun t0 a1 => ?_) ?_
  · extract_lets +onlyGivenNames y2
    clear_value y2
    refine Keeps.ite ?_ ?_
    · exact Keeps.refl _ _
    split
    · rename_i z3 z4 z5
      exact Keeps.ofSnd z5 (KeepsSnd.step (State.claim_keeps ..) (Keeps.refl _ _))
    rename_i z6 z7 z8 z9
    extract_lets +onlyGivenNames y10
    clear_value y10
    exact Keeps.step (State.putSlice_keeps ..) (Keeps.ofSnd z9 (KeepsSnd.step (State.claim_keeps ..) (Keeps.refl _ _)))
  exact Keeps.refl _ _

def State.movePass_mask : Nat := State.putSlice_mask ||| State.askStep_mask

theorem State.movePass_keeps (s : State) (sl h : Nat) (trail n : Nat) : Keeps State.movePass_mask s (State.movePass s sl h
    trail n) := by
  unfold State.movePass
  extract_lets +onlyGivenNames y0
  clear_value y0
  extract_lets +onlyGivenNames y1
  split
  · rename_i z2 z3
    refine Keeps.ite ?_ ?_
    · exact Keeps.refl _ _
    split
    · rename_i z4 z5 z6
      extract_lets +onlyGivenNames y7
      clear_value y7
      exact Keeps.step (State.putSlice_keeps ..) (Keeps.refl _ _)
    rename_i z8 z9
    exact Keeps.refl _ _
  · rename_i z10 z11
    refine Keeps.ite ?_ ?_
    · unfold y1
      exact Keeps.step (State.putSlice_keeps ..) (Keeps.refl _ _)
    exact Keeps.refl _ _
  rename_i z12 z13 z14
  extract_lets +onlyGivenNames y15
  clear_value y15
  extract_lets +onlyGivenNames y16
  clear_value y16
  refine Keeps.ite ?_ ?_
  · unfold y1
    exact Keeps.step (State.putSlice_keeps ..) (Keeps.refl _ _)
  refine Keeps.ite ?_ ?_
  · exact Keeps.refl _ _
  refine Keeps.ite ?_ ?_
  · unfold y1
    exact Keeps.step (State.putSlice_keeps ..) (Keeps.refl _ _)
  extract_lets +onlyGivenNames y17
  clear_value y17
  refine Keeps.ite ?_ ?_
  · exact Keeps.refl _ _
  refine Keeps.step (State.askStep_keeps ..) ?_
  unfold y1
  exact Keeps.step (State.putSlice_keeps ..) (Keeps.refl _ _)

def State.takePairs_mask : Nat := State.endRun_mask ||| State.correctAll_mask ||| State.putSlice_mask ||| State.formOut_mask
    ||| State.movePass_mask ||| State.workRows_mask

theorem State.takePairs_keeps (s : State) (sl h : Nat) (lead trail : Option Nat) (lost : Nat) (ps : List (Int × Int)) : Keeps
    State.takePairs_mask s (State.takePairs s sl h lead trail lost ps) := by
  unfold State.takePairs
  split
  rename_i z0 z1 z2 z3
  extract_lets +onlyGivenNames y4
  clear_value y4
  extract_lets +onlyGivenNames y5
  clear_value y5
  extract_lets +onlyGivenNames y6
  clear_value y6
  extract_lets +onlyGivenNames y7
  clear_value y7
  extract_lets +onlyGivenNames y8
  clear_value y8
  extract_lets +onlyGivenNames y9
  have h10 : Keeps State.takePairs_mask s y9 := Keeps.step (State.endRun_keeps ..) (Keeps.ofSnd z3 (KeepsSnd.step
      (State.correctAll_keeps ..) (Keeps.refl _ _)))
  clear_value y9
  extract_lets +onlyGivenNames y11
  clear_value y11
  extract_lets +onlyGivenNames y12
  have h13 : Keeps State.takePairs_mask s y12 := by
    unfold y12
    split
    · rename_i z14 z15 z16
      exact Keeps.step (State.putSlice_keeps ..) (Keeps.ofSnd z3 (KeepsSnd.step (State.correctAll_keeps ..) (Keeps.refl _ _)))
    rename_i z17 z18
    exact Keeps.step (State.putSlice_keeps ..) h10
  clear_value y12
  extract_lets +onlyGivenNames y19
  have h20 : Keeps State.takePairs_mask s y19 := Keeps.step (State.formOut_keeps ..) h13
  clear_value y19
  extract_lets +onlyGivenNames y21
  have h22 : Keeps State.takePairs_mask s y21 := by
    unfold y21
    split
    · rename_i z23 z24
      exact Keeps.step (State.movePass_keeps ..) h20
    rename_i z25
    exact h20
  clear_value y21
  exact Keeps.step (State.workRows_keeps ..) h22

def execSamplesReceive_mask : Nat := State.msgErr_mask ||| State.putStn_mask ||| State.putHead_mask ||| State.samplesLost_mask
    ||| State.putSlice_mask ||| State.measureLag_mask ||| State.opcWrite_mask ||| State.eraseSpan_mask ||| State.endRun_mask
    ||| State.takePairs_mask ||| State.setSl_mask ||| fieldBits [Reg.STN_HD_POS_LEADIN, Reg.STN_HD_POS_SLOT,
    Reg.SLC_STATUS_TRAIL_CLK, Reg.SLC_STATUS_LEAD_CLK, Reg.SLC_STATUS_BLANK]

theorem execSamplesReceive_keeps (n : Fin 128) (m : LinkMsg) (s : State) : KeepsRes execSamplesReceive_mask s
    (execSamplesReceive n m s) := by
  unfold execSamplesReceive
  refine KeepsRes.ite ?_ ?_
  · exact KeepsRes.next (Keeps.refl _ _)
  refine KeepsRes.ite ?_ ?_
  · exact KeepsRes.next (Keeps.step (State.msgErr_keeps ..) (Keeps.refl _ _))
  extract_lets +onlyGivenNames y0
  clear_value y0
  extract_lets +onlyGivenNames y1
  clear_value y1
  extract_lets +onlyGivenNames y2
  clear_value y2
  extract_lets +onlyGivenNames y3
  clear_value y3
  extract_lets +onlyGivenNames y4
  clear_value y4
  extract_lets +onlyGivenNames y5
  have h6 : Keeps execSamplesReceive_mask s y5 := Keeps.step (State.putStn_keeps ..) (Keeps.refl _ _)
  clear_value y5
  extract_lets +onlyGivenNames y7
  clear_value y7
  extract_lets +onlyGivenNames y8
  clear_value y8
  extract_lets +onlyGivenNames y9
  clear_value y9
  extract_lets +onlyGivenNames y10
  clear_value y10
  extract_lets +onlyGivenNames y11
  clear_value y11
  extract_lets +onlyGivenNames y12
  clear_value y12
  extract_lets +onlyGivenNames y13
  clear_value y13
  extract_lets +onlyGivenNames y14
  clear_value y14
  extract_lets +onlyGivenNames y15
  have h16 : Keeps execSamplesReceive_mask s y15 := Keeps.step (State.putHead_keeps ..) h6
  clear_value y15
  extract_lets +onlyGivenNames y17
  have h18 : Keeps execSamplesReceive_mask s y17 := by
    unfold y17
    refine Keeps.ite ?_ ?_
    · exact Keeps.wrB (Keeps.wr h16)
    exact h16
  clear_value y17
  split
  · rename_i z19 z20
    exact KeepsRes.next h18
  rename_i z21 z22 z23
  extract_lets +onlyGivenNames y24
  clear_value y24
  extract_lets +onlyGivenNames y25
  clear_value y25
  extract_lets +onlyGivenNames y26
  clear_value y26
  extract_lets +onlyGivenNames y27
  clear_value y27
  extract_lets +onlyGivenNames y28
  clear_value y28
  extract_lets +onlyGivenNames y29
  have h30 : Keeps execSamplesReceive_mask s y29 := Keeps.wrB (Keeps.wrB (Keeps.step (State.samplesLost_keeps ..) h18))
  clear_value y29
  extract_lets +onlyGivenNames y31
  clear_value y31
  extract_lets +onlyGivenNames y32
  clear_value y32
  extract_lets +onlyGivenNames y33
  have h34 : Keeps execSamplesReceive_mask s y33 := Keeps.step (State.putSlice_keeps ..) h30
  clear_value y33
  extract_lets +onlyGivenNames y35
  have h36 : Keeps execSamplesReceive_mask s y35 := by
    unfold y35
    split
    · rename_i z37 z38 z39 z40
      exact Keeps.step (State.measureLag_keeps ..) h34
    rename_i z41 z42 z43
    exact h34
  clear_value y35
  extract_lets +onlyGivenNames y44
  have h45 : Keeps execSamplesReceive_mask s y44 := by
    unfold y44
    split
    · rename_i z46 z47
      exact Keeps.step (State.opcWrite_keeps ..) h36
    rename_i z48
    exact h36
  clear_value y44
  extract_lets +onlyGivenNames y49
  clear_value y49
  extract_lets +onlyGivenNames y50
  have h51 : Keeps execSamplesReceive_mask s y50 := Keeps.wrB h45
  clear_value y50
  refine KeepsRes.ite ?_ ?_
  · extract_lets +onlyGivenNames y52
    clear_value y52
    refine KeepsRes.ite ?_ ?_
    · exact KeepsRes.next h51
    extract_lets +onlyGivenNames y53
    have h54 : Keeps execSamplesReceive_mask s y53 := by
      unfold y53
      split
      · rename_i z55 z56 z57 z58 z59
        exact Keeps.step (State.eraseSpan_keeps ..) h51
      rename_i z60 z61 z62
      exact h51
    clear_value y53
    exact KeepsRes.next (Keeps.step (State.endRun_keeps ..) h54)
  extract_lets +onlyGivenNames y63
  have h64 : Keeps execSamplesReceive_mask s y63 := Keeps.step (State.takePairs_keeps ..) h51
  clear_value y63
  refine KeepsRes.next (Keeps.ite ?_ ?_)
  · exact Keeps.step (State.setSl_keeps ..) h64
  exact h64

def execRateMatchTick_mask : Nat := State.advanceTo_mask ||| State.putSlice_mask ||| State.showSp_mask ||| fieldBits
    [Reg.SLC_RATE_STATUS_SCALE]

theorem execRateMatchTick_keeps (sl : Fin 96) (s : State) : KeepsRes execRateMatchTick_mask s (execRateMatchTick sl s) := by
  unfold execRateMatchTick
  extract_lets +onlyGivenNames y0
  clear_value y0
  split
  · rename_i z1 z2
    exact KeepsRes.next (Keeps.refl _ _)
  rename_i z3 z4 z5
  extract_lets +onlyGivenNames y6
  have h7 : Keeps execRateMatchTick_mask s y6 := Keeps.step (State.advanceTo_keeps ..) (Keeps.refl _ _)
  clear_value y6
  extract_lets +onlyGivenNames y8
  have h9 : Keeps execRateMatchTick_mask s y8 := Keeps.step (State.putSlice_keeps ..) h7
  clear_value y8
  extract_lets +onlyGivenNames y10
  clear_value y10
  extract_lets +onlyGivenNames y11
  clear_value y11
  extract_lets +onlyGivenNames y12
  clear_value y12
  extract_lets +onlyGivenNames y13
  clear_value y13
  extract_lets +onlyGivenNames y14
  clear_value y14
  extract_lets +onlyGivenNames y15
  clear_value y15
  extract_lets +onlyGivenNames y16
  clear_value y16
  extract_lets +onlyGivenNames y17
  clear_value y17
  extract_lets +onlyGivenNames y18
  extract_lets +onlyGivenNames y19
  clear_value y19
  extract_lets +onlyGivenNames y20
  clear_value y20
  extract_lets +onlyGivenNames y21
  clear_value y21
  extract_lets +onlyGivenNames y22
  clear_value y22
  exact KeepsRes.next (Keeps.step (State.showSp_keeps ..) (Keeps.wr h9))

def execReadPause_mask : Nat := State.putSlice_mask ||| State.raise_mask ||| State.setSl_mask ||| fieldBits
    [Reg.SLC_RATE_STATUS_PAUSED]

theorem execReadPause_keeps (sl : Fin 96) (s : State) : KeepsRes execReadPause_mask s (execReadPause sl s) := by
  unfold execReadPause
  extract_lets +onlyGivenNames y0
  clear_value y0
  split
  · rename_i z1 z2
    exact KeepsRes.next (Keeps.refl _ _)
  rename_i z3 z4 z5
  refine KeepsRes.ite ?_ ?_
  · exact KeepsRes.next (Keeps.refl _ _)
  extract_lets +onlyGivenNames y6
  have h7 : Keeps execReadPause_mask s y6 := Keeps.step (State.putSlice_keeps ..) (Keeps.refl _ _)
  clear_value y6
  exact KeepsRes.next (Keeps.step (State.raise_keeps ..) (Keeps.step (State.setSl_keeps ..) (Keeps.set1 h7)))

def execReadResume_mask : Nat := State.raise_mask ||| State.setSl_mask ||| fieldBits [Reg.SLC_RATE_STATUS_HOLDING,
    Reg.SLC_RATE_STATUS_PAUSED]

theorem execReadResume_keeps (sl : Fin 96) (s : State) : KeepsRes execReadResume_mask s (execReadResume sl s) := by
  unfold execReadResume
  extract_lets +onlyGivenNames y0
  clear_value y0
  split
  · rename_i z1 z2
    exact KeepsRes.next (Keeps.refl _ _)
  rename_i z3 z4 z5
  refine KeepsRes.ite ?_ ?_
  · exact KeepsRes.next (Keeps.step (State.raise_keeps ..) (Keeps.step (State.setSl_keeps ..) (Keeps.clr (Keeps.clr (Keeps.refl
      _ _)))))
  exact KeepsRes.next (Keeps.refl _ _)

def execHoldStep_mask : Nat := State.putSlice_mask ||| State.oneTrack_mask ||| State.setSl_mask ||| fieldBits
    [Reg.SLC_STAT_COUNT, Reg.SLC_RATE_STATUS_HOLDING]

theorem execHoldStep_keeps (sl : Fin 96) (s : State) : KeepsRes execHoldStep_mask s (execHoldStep sl s) := by
  unfold execHoldStep
  extract_lets +onlyGivenNames y0
  clear_value y0
  split
  · rename_i z1 z2
    exact KeepsRes.next (Keeps.refl _ _)
  rename_i z3 z4 z5
  extract_lets +onlyGivenNames y6
  clear_value y6
  extract_lets +onlyGivenNames y7
  clear_value y7
  refine KeepsRes.ite ?_ ?_
  · exact KeepsRes.next (Keeps.refl _ _)
  extract_lets +onlyGivenNames y8
  have h9 : Keeps execHoldStep_mask s y8 := Keeps.bump (Keeps.set1 (Keeps.refl _ _))
  clear_value y8
  extract_lets +onlyGivenNames y10
  have h11 : Keeps execHoldStep_mask s y10 := Keeps.step (State.putSlice_keeps ..) h9
  clear_value y10
  refine KeepsRes.next (Keeps.step (State.oneTrack_keeps ..) (Keeps.ite ?_ ?_))
  · exact Keeps.step (State.setSl_keeps ..) h11
  exact h11

def execFrameEncode_mask : Nat := State.settle_mask ||| State.putDisc_mask ||| State.showSlice_mask ||| State.putSlice_mask |||
    State.writeBroken_mask ||| State.noteUe_mask ||| State.correctRange_mask ||| State.ownRead_mask ||| State.journalZone_mask
    ||| partBits [.mgmtQ, .held]

theorem execFrameEncode_keeps (sl : Fin 96) (s : State) : KeepsRes execFrameEncode_mask s (execFrameEncode sl s) := by
  unfold execFrameEncode
  extract_lets +onlyGivenNames y0
  clear_value y0
  split
  · rename_i z1 z2
    exact KeepsRes.next (Keeps.refl _ _)
  rename_i z3 z4 z5
  refine KeepsRes.ite ?_ ?_
  · exact KeepsRes.next (Keeps.refl _ _)
  split
  · rename_i z6 z7 z8
    extract_lets +onlyGivenNames y9
    clear_value y9
    extract_lets +onlyGivenNames y10
    clear_value y10
    extract_lets +onlyGivenNames y11
    clear_value y11
    extract_lets +onlyGivenNames y12
    clear_value y12
    refine KeepsRes.ite ?_ ?_
    · exact KeepsRes.next (Keeps.refl _ _)
    refine KeepsRes.ite ?_ ?_
    · exact KeepsRes.next (Keeps.step (State.settle_keeps ..) (Keeps.set_mgmtQ (Keeps.refl _ _)))
    split
    rename_i z13 z14 z15 z16
    extract_lets +onlyGivenNames y17
    clear_value y17
    extract_lets +onlyGivenNames y18
    clear_value y18
    extract_lets +onlyGivenNames y19
    clear_value y19
    extract_lets +onlyGivenNames y20
    clear_value y20
    extract_lets +onlyGivenNames y21
    have h22 : Keeps execFrameEncode_mask s y21 := Keeps.step (State.putDisc_keeps ..) (Keeps.refl _ _)
    clear_value y21
    extract_lets +onlyGivenNames y23
    have h24 : Keeps execFrameEncode_mask s y23 := Keeps.set_mgmtQ h22
    clear_value y23
    exact KeepsRes.next (Keeps.step (State.showSlice_keeps ..) (Keeps.step (State.putSlice_keeps ..) h24))
  rename_i z25 z26
  split
  · rename_i z27 z28
    exact KeepsRes.next (Keeps.refl _ _)
  rename_i z29 z30 z31
  split
  · rename_i z32 z33 z34 z35
    exact KeepsRes.next (Keeps.step (State.settle_keeps ..) (Keeps.step (State.writeBroken_keeps ..) (Keeps.step
        (State.noteUe_keeps ..) (Keeps.refl _ _))))
  rename_i z36 z37
  extract_lets +onlyGivenNames y38
  have h39 : Keeps execFrameEncode_mask s y38 := Keeps.step (State.correctRange_keeps ..) (Keeps.step (State.ownRead_keeps ..)
      (Keeps.refl _ _))
  clear_value y38
  extract_lets +onlyGivenNames y40
  clear_value y40
  extract_lets +onlyGivenNames y41
  clear_value y41
  extract_lets +onlyGivenNames y42
  clear_value y42
  extract_lets +onlyGivenNames y43
  clear_value y43
  extract_lets +onlyGivenNames y44
  have h45 : Keeps execFrameEncode_mask s y44 := by
    unfold y44
    split
    · rename_i z46 z47 z48
      refine Keeps.ite ?_ ?_
      · exact Keeps.step (State.journalZone_keeps ..) h39
      exact h39
    rename_i z49 z50
    exact h39
  clear_value y44
  extract_lets +onlyGivenNames y51
  have h52 : Keeps execFrameEncode_mask s y51 := Keeps.set_held h45
  clear_value y51
  exact KeepsRes.next (Keeps.step (State.showSlice_keeps ..) (Keeps.step (State.putSlice_keeps ..) h52))

def State.startWriting_mask : Nat := State.releaseHead_mask ||| fieldBits [Reg.STN_HD_STATUS_WRITING]

theorem State.startWriting_keeps (s : State) (h : Nat) : Keeps State.startWriting_mask s (State.startWriting s h) := by
  unfold State.startWriting
  refine Keeps.ite ?_ ?_
  · exact Keeps.refl _ _
  exact Keeps.step (State.releaseHead_keeps ..) (Keeps.set1 (Keeps.refl _ _))

def execWrdataSend_mask : Nat := State.send_mask ||| State.startWriting_mask ||| State.showSlice_mask ||| State.setSl_mask |||
    State.putSlice_mask ||| State.actFor_mask ||| fieldBits [Reg.SLC_RATE_STATUS_HOLDING] ||| partBits [.held]

theorem execWrdataSend_keeps (n : Fin 128) (side : Fin 2) (count : Nat) (s : State) : KeepsRes execWrdataSend_mask s
    (execWrdataSend n side count s) := by
  unfold execWrdataSend
  extract_lets +onlyGivenNames y0
  clear_value y0
  split
  · rename_i z1 z2
    exact KeepsRes.next (Keeps.refl _ _)
  rename_i z3 z4 z5
  extract_lets +onlyGivenNames y6
  clear_value y6
  split
  · rename_i z7 z8 z9 z10 z11 z12 z13
    extract_lets +onlyGivenNames y14
    clear_value y14
    extract_lets +onlyGivenNames y15
    clear_value y15
    extract_lets +onlyGivenNames y16
    clear_value y16
    extract_lets +onlyGivenNames y17
    refine KeepsRes.ite ?_ ?_
    · exact KeepsRes.next (Keeps.refl _ _)
    extract_lets +onlyGivenNames y18
    clear_value y18
    extract_lets +onlyGivenNames y19
    clear_value y19
    extract_lets +onlyGivenNames y20
    clear_value y20
    extract_lets +onlyGivenNames y21
    have h22 : Keeps execWrdataSend_mask s y21 := Keeps.step (State.send_keeps ..) (Keeps.step (State.startWriting_keeps ..)
        (Keeps.refl _ _))
    clear_value y21
    extract_lets +onlyGivenNames y23
    clear_value y23
    extract_lets +onlyGivenNames y24
    clear_value y24
    extract_lets +onlyGivenNames y25
    extract_lets +onlyGivenNames y26
    clear_value y26
    extract_lets +onlyGivenNames y27
    have h28 : Keeps execWrdataSend_mask s y27 := by
      unfold y27
      refine Keeps.ite ?_ ?_
      · exact Keeps.set_held h22
      exact h22
    clear_value y27
    extract_lets +onlyGivenNames y29
    clear_value y29
    refine KeepsRes.next (Keeps.step (State.showSlice_keeps ..) (Keeps.clr (Keeps.step (State.setSl_keeps ..) (Keeps.step
        (State.putSlice_keeps ..) (Keeps.ite ?_ ?_)))))
    · exact Keeps.step (State.actFor_keeps ..) h28
    exact h28
  rename_i z30 z31 z32
  exact KeepsRes.next (Keeps.refl _ _)

def execWrdataRetransmit_mask : Nat := State.resend_mask ||| State.putSlice_mask

theorem execWrdataRetransmit_keeps (n : Fin 128) (side : Fin 2) (s : State) : KeepsRes execWrdataRetransmit_mask s
    (execWrdataRetransmit n side s) := by
  unfold execWrdataRetransmit
  split
  · rename_i z0 z1
    exact KeepsRes.next (Keeps.refl _ _)
  rename_i z2 z3 z4
  extract_lets +onlyGivenNames y5
  clear_value y5
  split
  · rename_i z6 z7
    exact KeepsRes.next (Keeps.refl _ _)
  rename_i z8 z9 z10 z11
  refine KeepsRes.ite ?_ ?_
  · exact KeepsRes.next (Keeps.refl _ _)
  extract_lets +onlyGivenNames y12
  have h13 : Keeps execWrdataRetransmit_mask s y12 := by
    unfold y12
    refine Keeps.foldl (fun t14 a15 => ?_) ?_
    · exact Keeps.step (State.resend_keeps ..) (Keeps.refl _ _)
    exact Keeps.refl _ _
  clear_value y12
  exact KeepsRes.next (Keeps.step (State.putSlice_keeps ..) h13)

def State.endWriting_mask : Nat := State.gateHead_mask ||| fieldBits [Reg.STN_HD_STATUS_WRITING]

theorem State.endWriting_keeps (s : State) (h : Nat) : Keeps State.endWriting_mask s (State.endWriting s h) := by
  unfold State.endWriting
  refine Keeps.ite ?_ ?_
  · exact Keeps.step (State.gateHead_keeps ..) (Keeps.clr (Keeps.refl _ _))
  exact Keeps.refl _ _

def State.parkStopped_mask : Nat := State.parkHead_mask

theorem State.parkStopped_keeps (s : State) (h : Nat) : Keeps State.parkStopped_mask s (State.parkStopped s h) := by
  unfold State.parkStopped
  refine Keeps.ite ?_ ?_
  · exact Keeps.step (State.parkHead_keeps ..) (Keeps.refl _ _)
  exact Keeps.refl _ _

def execWrackReceive_mask : Nat := State.msgErr_mask ||| State.raise_mask ||| State.parkStopped_mask ||| State.endWriting_mask
    ||| State.putSlice_mask ||| State.opcLost_mask ||| State.showSlice_mask

theorem execWrackReceive_keeps (n : Fin 128) (m : LinkMsg) (s : State) : KeepsRes execWrackReceive_mask s (execWrackReceive n m
    s) := by
  unfold execWrackReceive
  refine KeepsRes.ite ?_ ?_
  · exact KeepsRes.next (Keeps.refl _ _)
  refine KeepsRes.ite ?_ ?_
  · exact KeepsRes.next (Keeps.step (State.msgErr_keeps ..) (Keeps.refl _ _))
  extract_lets +onlyGivenNames y0
  clear_value y0
  extract_lets +onlyGivenNames y1
  clear_value y1
  extract_lets +onlyGivenNames y2
  clear_value y2
  extract_lets +onlyGivenNames y3
  clear_value y3
  extract_lets +onlyGivenNames y4
  have h5 : Keeps execWrackReceive_mask s y4 := by
    unfold y4
    refine Keeps.ite ?_ ?_
    · exact Keeps.step (State.raise_keeps ..) (Keeps.refl _ _)
    exact Keeps.refl _ _
  clear_value y4
  split
  · rename_i z6 z7
    refine KeepsRes.next (Keeps.ite ?_ ?_)
    · exact Keeps.step (State.parkStopped_keeps ..) (Keeps.step (State.endWriting_keeps ..) h5)
    exact h5
  rename_i z8 z9 z10
  extract_lets +onlyGivenNames y11
  clear_value y11
  extract_lets +onlyGivenNames y12
  clear_value y12
  extract_lets +onlyGivenNames y13
  clear_value y13
  extract_lets +onlyGivenNames y14
  clear_value y14
  extract_lets +onlyGivenNames y15
  clear_value y15
  extract_lets +onlyGivenNames y16
  have h17 : Keeps execWrackReceive_mask s y16 := by
    unfold y16
    refine Keeps.step (State.putSlice_keeps ..) (Keeps.ite ?_ ?_)
    · exact Keeps.step (State.opcLost_keeps ..) h5
    exact h5
  clear_value y16
  extract_lets +onlyGivenNames y18
  clear_value y18
  refine KeepsRes.next (Keeps.step (State.showSlice_keeps ..) (Keeps.ite ?_ ?_))
  · exact Keeps.step (State.parkStopped_keeps ..) (Keeps.step (State.endWriting_keeps ..) h17)
  exact h17

def State.lastFrame_mask : Nat := fieldBits [Reg.SLC_LAST_RES_OUTCOME, Reg.SLC_LAST_PFA_PFA, Reg.SLC_LAST_RES_CW_FAILED,
    Reg.SLC_LAST_RES_ROWS_TRAIL, Reg.SLC_LAST_RES_HDR_COPIES, Reg.SLC_LAST_RES_ITER_MAX, Reg.SLC_LAST_RES_SYNC_MISSED]

theorem State.lastFrame_keeps (s : State) (sl pfa outcome copies rowsTrail failed iter : Nat) (missed : Bool) : Keeps
    State.lastFrame_mask s (State.lastFrame s sl pfa outcome copies rowsTrail failed iter missed) := by
  unfold State.lastFrame
  extract_lets +onlyGivenNames y0
  have h1 : Keeps State.lastFrame_mask s y0 := Keeps.wr (Keeps.wr (Keeps.refl _ _))
  clear_value y0
  extract_lets +onlyGivenNames y2
  have h3 : Keeps State.lastFrame_mask s y2 := Keeps.wr (Keeps.wr (Keeps.wr h1))
  clear_value y2
  exact Keeps.wr (Keeps.wrB h3)

def State.slStat_mask : Nat := fieldBits [Reg.SLC_STAT_COUNT]

theorem State.slStat_keeps (s : State) (sl i n : Nat) : Keeps State.slStat_mask s (State.slStat s sl i n) := by
  unfold State.slStat
  exact Keeps.bump (Keeps.refl _ _)

def State.closeShort_mask : Nat := State.dropHeld_mask ||| State.failZoneWrites_mask ||| State.snapshot_mask |||
    State.zoneState_mask ||| State.closeZone_mask ||| State.unqueue_mask

theorem State.closeShort_keeps (s : State) (zk : Nat) : Keeps State.closeShort_mask s (State.closeShort s zk) := by
  unfold State.closeShort
  extract_lets +onlyGivenNames y0
  have h1 : Keeps State.closeShort_mask s y0 := Keeps.step (State.dropHeld_keeps ..) (Keeps.step (State.failZoneWrites_keeps
      ..) (Keeps.refl _ _))
  clear_value y0
  exact Keeps.step (State.snapshot_keeps ..) (Keeps.step (State.zoneState_keeps ..) (Keeps.step (State.closeZone_keeps ..)
      (Keeps.step (State.unqueue_keeps ..) h1)))

def State.closeFull_mask : Nat := State.snapshot_mask ||| State.zoneState_mask ||| State.closeZone_mask

theorem State.closeFull_keeps (s : State) (zk : Nat) : Keeps State.closeFull_mask s (State.closeFull s zk) := by
  unfold State.closeFull
  exact Keeps.step (State.snapshot_keeps ..) (Keeps.step (State.zoneState_keeps ..) (Keeps.step (State.closeZone_keeps ..)
      (Keeps.refl _ _)))

def State.verified_mask : Nat := State.putZone_mask ||| State.tap_mask ||| State.dropHeld_mask ||| State.putSlice_mask |||
    State.closeFull_mask ||| State.journalZone_mask

theorem State.verified_keeps (s : State) (sl : Nat) (e : Enc) : Keeps State.verified_mask s (State.verified s sl e) := by
  unfold State.verified
  extract_lets +onlyGivenNames y0
  extract_lets +onlyGivenNames y1
  have h2 : Keeps State.verified_mask s y1 := Keeps.step (State.putZone_keeps ..) (Keeps.refl _ _)
  extract_lets +onlyGivenNames y3
  have h4 : Keeps State.verified_mask s y3 := by
    unfold y3
    split
    · rename_i z5 z6 z7
      exact Keeps.step (State.tap_keeps ..) h2
    rename_i z8 z9
    exact h2
  extract_lets +onlyGivenNames y10
  have h11 : Keeps State.verified_mask s y10 := Keeps.step (State.dropHeld_keeps ..) h4
  extract_lets +onlyGivenNames y12
  extract_lets +onlyGivenNames y13
  extract_lets +onlyGivenNames y14
  have h15 : Keeps State.verified_mask s y14 := Keeps.step (State.putSlice_keeps ..) h11
  clear_value y14
  refine Keeps.ite ?_ ?_
  · exact Keeps.step (State.closeFull_keeps ..) h15
  refine Keeps.ite ?_ ?_
  · exact Keeps.step (State.journalZone_keeps ..) h15
  exact h15

def State.mgmtVerified_mask : Nat := State.journal_mask ||| partBits [.mgmtQ]

theorem State.mgmtVerified_keeps (s : State) (e : Enc) : Keeps State.mgmtVerified_mask s (State.mgmtVerified s e) := by
  unfold State.mgmtVerified
  split
  · rename_i z0 z1
    exact Keeps.refl _ _
  rename_i z2 z3 z4
  exact Keeps.step (State.journal_keeps ..) (Keeps.set_mgmtQ (Keeps.refl _ _))

def State.mgmtFailed_mask : Nat := partBits [.mgmtQ]

theorem State.mgmtFailed_keeps (s : State) (e : Enc) : Keeps State.mgmtFailed_mask s (State.mgmtFailed s e) := by
  unfold State.mgmtFailed
  exact Keeps.set_mgmtQ (Keeps.refl _ _)

def State.slipRun_mask : Nat := State.putZone_mask ||| State.journalSlip_mask

theorem State.slipRun_keeps : ∀ (n : Nat) (s : State) (zk o : Nat), KeepsSnd State.slipRun_mask s (State.slipRun n s zk o) := by
  intro n
  induction n with
  | zero => intro s zk o; exact Keeps.refl _ _
  | succ n ih =>
    intro s zk o
    unfold State.slipRun
    extract_lets +onlyGivenNames y0
    clear_value y0
    refine KeepsSnd.ite ?_ ?_
    · exact KeepsSnd.mk (Keeps.refl _ _)
    extract_lets +onlyGivenNames y1
    have h2 : Keeps State.slipRun_mask s y1 := Keeps.step (State.putZone_keeps ..) (Keeps.refl _ _)
    clear_value y1
    exact KeepsSnd.step (ih ..) (Keeps.step (State.journalSlip_keeps ..) h2) (Nat.or_self _)

def State.shortZone_mask : Nat := State.closeShort_mask ||| State.raise_mask ||| fieldBits [Reg.SLC_EVT_ZONE_SHORTED]

theorem State.shortZone_keeps (s : State) (sl zk slot : Nat) : Keeps State.shortZone_mask s (State.shortZone s sl zk slot) := by
  unfold State.shortZone
  exact Keeps.step (State.closeShort_keeps ..) (Keeps.step (State.raise_keeps ..) (Keeps.set1 (Keeps.refl _ _)))

def State.verifyFailed_mask : Nat := State.putSlice_mask ||| State.slStat_mask ||| State.slipRun_mask ||| State.putZone_mask
    ||| State.raise_mask ||| State.shortZone_mask ||| State.putHead_mask ||| State.failZoneWrites_mask ||| State.unqueue_mask
    ||| fieldBits [Reg.SLC_EVT_VERIFY_FAIL] ||| partBits [.held]

theorem State.verifyFailed_keeps (s : State) (sl h : Nat) (e : Enc) (crit : Nat) : Keeps State.verifyFailed_mask s
    (State.verifyFailed s sl h e crit) := by
  unfold State.verifyFailed
  extract_lets +onlyGivenNames y0
  clear_value y0
  extract_lets +onlyGivenNames y1
  clear_value y1
  extract_lets +onlyGivenNames y2
  clear_value y2
  extract_lets +onlyGivenNames y3
  clear_value y3
  extract_lets +onlyGivenNames y4
  clear_value y4
  extract_lets +onlyGivenNames y5
  clear_value y5
  extract_lets +onlyGivenNames y6
  have h7 : Keeps State.verifyFailed_mask s y6 := Keeps.step (State.putSlice_keeps ..) (Keeps.refl _ _)
  clear_value y6
  extract_lets +onlyGivenNames y8
  have h9 : Keeps State.verifyFailed_mask s y8 := Keeps.set_held h7
  clear_value y8
  extract_lets +onlyGivenNames y10
  clear_value y10
  extract_lets +onlyGivenNames y11
  clear_value y11
  split
  rename_i z12 z13 z14 z15
  extract_lets +onlyGivenNames y16
  clear_value y16
  extract_lets +onlyGivenNames y17
  have h18 : Keeps State.verifyFailed_mask s y17 := Keeps.step (State.slStat_keeps ..) (Keeps.step (State.slStat_keeps ..)
      (Keeps.set1 (Keeps.ofSnd z15 (KeepsSnd.step (State.slipRun_keeps ..) (Keeps.step (State.putZone_keeps ..) h9)))))
  clear_value y17
  extract_lets +onlyGivenNames y19
  have h20 : Keeps State.verifyFailed_mask s y19 := Keeps.step (State.raise_keeps ..) h18
  clear_value y19
  split
  · rename_i z21 z22
    exact Keeps.step (State.shortZone_keeps ..) h20
  rename_i z23
  extract_lets +onlyGivenNames y24
  clear_value y24
  refine Keeps.ite ?_ ?_
  · exact Keeps.step (State.putHead_keeps ..) h20
  refine Keeps.ite ?_ ?_
  · extract_lets +onlyGivenNames y25
    clear_value y25
    extract_lets +onlyGivenNames y26
    have h27 : Keeps State.verifyFailed_mask s y26 := Keeps.step (State.putZone_keeps ..) h20
    clear_value y26
    extract_lets +onlyGivenNames y28
    have h29 : Keeps State.verifyFailed_mask s y28 := Keeps.step (State.raise_keeps ..) (Keeps.step (State.failZoneWrites_keeps
        ..) h27)
    clear_value y28
    extract_lets +onlyGivenNames y30
    have h31 : Keeps State.verifyFailed_mask s y30 := Keeps.set_held h29
    clear_value y30
    exact Keeps.step (State.unqueue_keeps ..) h31
  exact h20

def State.setAlign_mask : Nat := allRegs

theorem State.setAlign_keeps (s : State) (sl : Nat) (trail : Bool) (offs : List Int) : Keeps State.setAlign_mask s
    (State.setAlign s sl trail offs) := by
  unfold State.setAlign
  refine Keeps.ite ?_ ?_
  · exact Keeps.refl _ _
  exact Keeps.wrS (Keeps.refl _ _) (testBit_super (a := allRegs) (by decide +kernel) (allRegs_test _))

def State.slipDropped_mask : Nat := State.shortZone_mask ||| State.journalSlip_mask ||| State.putZone_mask

theorem State.slipDropped_keeps (s : State) (sl : Nat) (e : Enc) : Keeps State.slipDropped_mask s (State.slipDropped s sl e) :=
    by
  unfold State.slipDropped
  extract_lets +onlyGivenNames y0
  clear_value y0
  extract_lets +onlyGivenNames y1
  clear_value y1
  refine Keeps.ite ?_ ?_
  · exact Keeps.refl _ _
  refine Keeps.ite ?_ ?_
  · exact Keeps.step (State.shortZone_keeps ..) (Keeps.refl _ _)
  exact Keeps.step (State.journalSlip_keeps ..) (Keeps.step (State.putZone_keeps ..) (Keeps.refl _ _))

def execSlotVerify_mask : Nat := State.putSlice_mask ||| State.settle_mask ||| State.slipDropped_mask ||| State.setAlign_mask
    ||| State.lastFrame_mask ||| State.slStat_mask ||| State.mgmtVerified_mask ||| State.verified_mask |||
    State.mgmtFailed_mask ||| State.verifyFailed_mask

theorem execSlotVerify_keeps (sl : Fin 96) (s : State) : KeepsRes execSlotVerify_mask s (execSlotVerify sl s) := by
  unfold execSlotVerify
  extract_lets +onlyGivenNames y0
  clear_value y0
  split
  · rename_i z1 z2 z3 z4 z5 z6 z7
    extract_lets +onlyGivenNames y8
    have h9 : Keeps execSlotVerify_mask s y8 := Keeps.step (State.putSlice_keeps ..) (Keeps.refl _ _)
    clear_value y8
    refine KeepsRes.ite ?_ ?_
    · exact KeepsRes.next (Keeps.step (State.settle_keeps ..) (Keeps.step (State.slipDropped_keeps ..) h9))
    refine KeepsRes.ite ?_ ?_
    · exact KeepsRes.next (Keeps.refl _ _)
    extract_lets +onlyGivenNames y10
    clear_value y10
    extract_lets +onlyGivenNames y11
    clear_value y11
    extract_lets +onlyGivenNames y12
    have h13 : Keeps execSlotVerify_mask s y12 := Keeps.step (State.setAlign_keeps ..) h9
    clear_value y12
    extract_lets +onlyGivenNames y14
    have h15 : ∀ t16 t17, Keeps execSlotVerify_mask t16 (y14 t16 t17) := by
      intro t16 t17
      unfold y14
      exact Keeps.step (State.lastFrame_keeps ..) (Keeps.refl _ _)
    clear_value y14
    split
    · rename_i z18 z19
      extract_lets +onlyGivenNames y20
      have h21 : Keeps execSlotVerify_mask s y20 := Keeps.step (State.slStat_keeps ..) (Keeps.trans h13 (h15 _ _))
      clear_value y20
      refine KeepsRes.next (Keeps.step (State.settle_keeps ..) (Keeps.ite ?_ ?_))
      · exact Keeps.step (State.mgmtVerified_keeps ..) h21
      exact Keeps.step (State.verified_keeps ..) h21
    rename_i z22 z23 z24
    extract_lets +onlyGivenNames y25
    have h26 : Keeps execSlotVerify_mask s y25 := Keeps.trans h13 (h15 _ _)
    clear_value y25
    refine KeepsRes.ite ?_ ?_
    · exact KeepsRes.next (Keeps.step (State.settle_keeps ..) (Keeps.step (State.mgmtFailed_keeps ..) (Keeps.step
        (State.slStat_keeps ..) h26)))
    exact KeepsRes.next (Keeps.step (State.settle_keeps ..) (Keeps.step (State.verifyFailed_keeps ..) h26))
  rename_i z27 z28 z29
  exact KeepsRes.next (Keeps.refl _ _)

def State.frontierSearch_mask : Nat := State.putZone_mask ||| State.journalSlip_mask ||| State.raise_mask |||
    State.journalZone_mask

theorem State.frontierSearch_keeps (s : State) (zk : Nat) (found : List SlotRead) : KeepsFst State.frontierSearch_mask s
    (State.frontierSearch s zk found) := by
  unfold State.frontierSearch
  extract_lets +onlyGivenNames y0
  clear_value y0
  extract_lets +onlyGivenNames y1
  clear_value y1
  extract_lets +onlyGivenNames y2
  clear_value y2
  extract_lets +onlyGivenNames y3
  clear_value y3
  split
  rename_i z4 z5 z6 z7 z8 z9
  extract_lets +onlyGivenNames y10
  clear_value y10
  extract_lets +onlyGivenNames y11
  extract_lets +onlyGivenNames y12
  clear_value y12
  extract_lets +onlyGivenNames y13
  clear_value y13
  extract_lets +onlyGivenNames y14
  have h15 : Keeps State.frontierSearch_mask s y14 := Keeps.step (State.putZone_keeps ..) (Keeps.refl _ _)
  clear_value y14
  extract_lets +onlyGivenNames y16
  have h17 : Keeps State.frontierSearch_mask s y16 := by
    unfold y16
    refine Keeps.foldl (fun t18 a19 => ?_) ?_
    · exact Keeps.step (State.journalSlip_keeps ..) (Keeps.refl _ _)
    exact h15
  clear_value y16
  exact KeepsFst.mk (Keeps.step (State.raise_keeps ..) (Keeps.step (State.journalZone_keeps ..) h17))

def State.searchZone_mask : Nat := State.dropHeld_mask ||| State.frontierSearch_mask ||| State.fallBack_mask |||
    State.unqueue_mask ||| State.closeShort_mask ||| State.closeFull_mask ||| partBits [.held]

theorem State.searchZone_keeps (s : State) (zk : Nat) (found : List SlotRead) : Keeps State.searchZone_mask s (State.searchZone
    s zk found) := by
  unfold State.searchZone
  split
  rename_i z0 z1 z2 z3
  extract_lets +onlyGivenNames y4
  clear_value y4
  extract_lets +onlyGivenNames y5
  have h6 : Keeps State.searchZone_mask s y5 := Keeps.step (State.dropHeld_keeps ..) (Keeps.ofFst z3 (KeepsFst.step
      (State.frontierSearch_keeps ..) (Keeps.refl _ _)))
  clear_value y5
  extract_lets +onlyGivenNames y7
  have h8 : Keeps State.searchZone_mask s y7 := Keeps.set_held h6
  clear_value y7
  extract_lets +onlyGivenNames y9
  have h10 : Keeps State.searchZone_mask s y9 := Keeps.step (State.fallBack_keeps ..) (Keeps.step (State.unqueue_keeps ..) h8)
  clear_value y9
  refine Keeps.ite ?_ ?_
  · exact Keeps.step (State.closeShort_keeps ..) h10
  refine Keeps.ite ?_ ?_
  · exact Keeps.step (State.closeFull_keeps ..) h10
  exact h10

def execZoneResolve_mask : Nat := State.settle_mask ||| State.searchZone_mask

theorem execZoneResolve_keeps (d : Nat) (side : Fin 2) (layer : Fin 16) (zone : Fin 64) (found : List SlotRead) (s : State) :
    KeepsRes execZoneResolve_mask s (execZoneResolve d side layer zone found s) := by
  unfold execZoneResolve
  extract_lets +onlyGivenNames y0
  clear_value y0
  refine KeepsRes.ite ?_ ?_
  · exact KeepsRes.next (Keeps.refl _ _)
  exact KeepsRes.next (Keeps.step (State.settle_keeps ..) (Keeps.step (State.searchZone_keeps ..) (Keeps.refl _ _)))

end Sys2Proof.Machine
end

