-- ==== Sys2Proof/Laws/KeepsRecovery.lean ====
section
/-!
SUPPORT. What the operations of Machine/Recovery.lean leave as it was, one lemma for each.
-/

set_option Elab.async false

namespace Sys2Proof.Machine

def State.countDecode_mask : Nat := State.slStat_mask

theorem State.countDecode_keeps (s : State) (sl : Nat) (cws : List CwObs) (restored : Nat) : Keeps State.countDecode_mask s
    (State.countDecode s sl cws restored) := by
  unfold State.countDecode
  extract_lets +onlyGivenNames y0
  clear_value y0
  extract_lets +onlyGivenNames y1
  clear_value y1
  exact Keeps.step (State.slStat_keeps ..) (Keeps.step (State.slStat_keeps ..) (Keeps.step (State.slStat_keeps ..) (Keeps.refl
      _ _)))

def State.realign_mask : Nat := fieldBits [Reg.SLC_ALIGN_LEAD_ALIGN, Reg.SLC_ALIGN_TRAIL_ALIGN]

theorem State.realign_keeps (s : State) (sl : Nat) (e : Soft) : Keeps State.realign_mask s (State.realign s sl e) := by
  have h : ∀ (t : State) (f : Fld) (l : List Int), State.realign_mask.testBit (f.id % 8192) = true →
      Keeps State.realign_mask t (if l.isEmpty then t else t.wrS f sl (clampInt (-256) 256 (medianInt l))) :=
    fun t f l hf => Keeps.ite (Keeps.refl _ _) (Keeps.wrS (Keeps.refl _ _) hf)
  exact Keeps.trans (h _ _ _ (by decide +kernel)) (h _ _ _ (by decide +kernel))

def State.calFrame_mask : Nat := State.putSlice_mask ||| partBits [.cals]

theorem State.calFrame_keeps (s : State) (sl h : Nat) (e : Soft) : Keeps State.calFrame_mask s (State.calFrame s sl h e) := by
  unfold State.calFrame
  extract_lets +onlyGivenNames y0
  clear_value y0
  extract_lets +onlyGivenNames y1
  have h2 : Keeps State.calFrame_mask s y1 := Keeps.step (State.putSlice_keeps ..) (Keeps.refl _ _)
  clear_value y1
  extract_lets +onlyGivenNames y3
  clear_value y3
  extract_lets +onlyGivenNames y4
  clear_value y4
  extract_lets +onlyGivenNames y5
  clear_value y5
  refine Keeps.ite ?_ ?_
  · exact Keeps.set_cals h2
  exact h2

def State.freeEntry_mask : Nat := State.putSlice_mask

theorem State.freeEntry_keeps (s : State) (sl slot : Nat) : Keeps State.freeEntry_mask s (State.freeEntry s sl slot) := by
  unfold State.freeEntry
  extract_lets +onlyGivenNames y0
  clear_value y0
  exact Keeps.step (State.putSlice_keeps ..) (Keeps.refl _ _)

def State.putLadder_mask : Nat := partBits [.ladders]

theorem State.putLadder_keeps (s : State) (l : Ladder) : Keeps State.putLadder_mask s (State.putLadder s l) := by
  unfold State.putLadder
  exact Keeps.set_ladders (Keeps.refl _ _)

def State.resumeRead_mask : Nat := State.askHead_mask

theorem State.resumeRead_keeps (s : State) (l : Ladder) : Keeps State.resumeRead_mask s (State.resumeRead s l) := by
  unfold State.resumeRead
  refine Keeps.ite ?_ ?_
  · exact Keeps.refl _ _
  split
  · rename_i z0 z1
    exact Keeps.refl _ _
  rename_i z2 z3 z4 z5
  exact Keeps.step (State.askHead_keeps ..) (Keeps.refl _ _)

def State.dropLadder_mask : Nat := State.endReread_mask ||| State.resumeRead_mask ||| State.showSp_mask |||
    State.freeEntry_mask ||| partBits [.ladders, .ladderWait]

theorem State.dropLadder_keeps (s : State) (l : Ladder) : Keeps State.dropLadder_mask s (State.dropLadder s l) := by
  unfold State.dropLadder
  extract_lets +onlyGivenNames y0
  have h1 : Keeps State.dropLadder_mask s y0 := by
    unfold y0
    refine Keeps.ite ?_ ?_
    · exact Keeps.step (State.endReread_keeps ..) (Keeps.refl _ _)
    exact Keeps.refl _ _
  clear_value y0
  extract_lets +onlyGivenNames y2
  have h3 : Keeps State.dropLadder_mask s y2 := Keeps.set_ladders_ladderWait h1
  clear_value y2
  exact Keeps.step (State.resumeRead_keeps ..) (Keeps.step (State.showSp_keeps ..) (Keeps.step (State.freeEntry_keeps ..) h3))

def State.ladderPass_mask : Nat := State.deliverFrame_mask ||| State.raise_mask ||| State.calFrame_mask ||| State.settle_mask
    ||| State.dropLadder_mask

theorem State.ladderPass_keeps (s : State) (l : Ladder) (rung : Nat) (bytes : List Nat) : Keeps State.ladderPass_mask s
    (State.ladderPass s l rung bytes) := by
  unfold State.ladderPass
  extract_lets +onlyGivenNames y0
  have h1 : Keeps State.ladderPass_mask s y0 := Keeps.step (State.deliverFrame_keeps ..) (Keeps.refl _ _)
  clear_value y0
  extract_lets +onlyGivenNames y2
  have h3 : Keeps State.ladderPass_mask s y2 := by
    unfold y2
    refine Keeps.ite ?_ ?_
    · exact Keeps.step (State.raise_keeps ..) h1
    exact h1
  clear_value y2
  extract_lets +onlyGivenNames y4
  have h5 : Keeps State.ladderPass_mask s y4 := by
    unfold y4
    refine Keeps.ite ?_ ?_
    · exact Keeps.step (State.calFrame_keeps ..) h3
    exact h3
  clear_value y4
  exact Keeps.step (State.settle_keeps ..) (Keeps.step (State.dropLadder_keeps ..) h5)

def State.fillSymbols_mask : Nat := State.draw_mask

theorem State.fillSymbols_keeps (s : State) (info : Nat) : KeepsSnd State.fillSymbols_mask s (State.fillSymbols s info) := by
  unfold State.fillSymbols
  refine KeepsSnd.foldl (fun t0 a1 => ?_) ?_
  · split
    · rename_i z2 z3
      exact KeepsSnd.mk (Keeps.refl _ _)
    rename_i z4
    split
    rename_i z5 z6 z7 z8
    exact KeepsSnd.mk (Keeps.ofSnd z8 (KeepsSnd.step (State.draw_keeps ..) (Keeps.refl _ _)))
  exact KeepsSnd.mk (Keeps.refl _ _)

def State.regions_mask : Nat := State.fillSymbols_mask

theorem State.regions_keeps (s : State) (l : Ladder) (prof : Nat) : KeepsSnd State.regions_mask s (State.regions s l prof) := by
  unfold State.regions
  extract_lets +onlyGivenNames y0
  clear_value y0
  extract_lets +onlyGivenNames y1
  clear_value y1
  extract_lets +onlyGivenNames y2
  clear_value y2
  extract_lets +onlyGivenNames y3
  clear_value y3
  extract_lets +onlyGivenNames y4
  clear_value y4
  split
  rename_i z5 z6 z7 z8
  extract_lets +onlyGivenNames y9
  clear_value y9
  extract_lets +onlyGivenNames y10
  clear_value y10
  extract_lets +onlyGivenNames y11
  clear_value y11
  refine KeepsSnd.mk (Keeps.ofSnd z8 (KeepsSnd.foldl (fun t12 a13 => ?_) ?_))
  · refine KeepsSnd.ite ?_ ?_
    · exact KeepsSnd.mk (Keeps.refl _ _)
    refine KeepsSnd.ite ?_ ?_
    · split
      rename_i z14 z15 z16 z17
      exact KeepsSnd.mk (Keeps.ofSnd z17 (KeepsSnd.step (State.fillSymbols_keeps ..) (Keeps.refl _ _)))
    exact KeepsSnd.mk (Keeps.refl _ _)
  exact KeepsSnd.mk (Keeps.refl _ _)

def State.ladderBad_mask : Nat := State.frameBad_mask ||| State.regions_mask

theorem State.ladderBad_keeps (s : State) (l : Ladder) (u : Sharer) (mismatch : Bool) : Keeps State.ladderBad_mask s
    (State.ladderBad s l u mismatch) := by
  unfold State.ladderBad
  split
  · rename_i z0 z1
    exact Keeps.refl _ _
  rename_i z2 z3 z4
  refine Keeps.ite ?_ ?_
  · exact Keeps.refl _ _
  extract_lets +onlyGivenNames y5
  clear_value y5
  refine Keeps.ite ?_ ?_
  · exact Keeps.step (State.frameBad_keeps ..) (Keeps.refl _ _)
  split
  rename_i z6 z7 z8 z9
  exact Keeps.step (State.frameBad_keeps ..) (Keeps.ofSnd z9 (KeepsSnd.step (State.regions_keeps ..) (Keeps.refl _ _)))

def State.ladderOut_mask : Nat := State.dropLadder_mask ||| State.ladderBad_mask ||| State.updCmd_mask ||| State.putLadder_mask

theorem State.ladderOut_keeps : ∀ (n : Nat) (s : State) (l : Ladder), Keeps State.ladderOut_mask s (State.ladderOut n s l) := by
  intro n
  induction n with
  | zero =>
    intro s l
    unfold State.ladderOut
    exact Keeps.step (State.dropLadder_keeps ..) (Keeps.refl _ _)
  | succ n ih =>
    intro s l
    unfold State.ladderOut
    split
    · rename_i z0 z1
      exact Keeps.step (State.dropLadder_keeps ..) (Keeps.refl _ _)
    rename_i z2 z3 z4 z5
    extract_lets +onlyGivenNames y6
    have h7 : Keeps State.ladderOut_mask s y6 := Keeps.step (State.ladderBad_keeps ..) (Keeps.refl _ _)
    clear_value y6
    extract_lets +onlyGivenNames y8
    clear_value y8
    split
    · rename_i z9 z10
      exact Keeps.step (ih ..) h7 (Nat.or_self _)
    rename_i z11 z12 z13 z14
    extract_lets +onlyGivenNames y15
    have h16 : Keeps State.ladderOut_mask s y15 := by
      unfold y15
      refine Keeps.ite ?_ ?_
      · exact Keeps.step (State.updCmd_keeps ..) h7
      exact h7
    clear_value y15
    split
    · rename_i z17 z18 z19 z20
      exact Keeps.step (State.putLadder_keeps ..) h16
    rename_i z21 z22 z23
    exact Keeps.step (ih ..) h16 (Nat.or_self _)

def State.ladderNext_mask : Nat := State.endReread_mask ||| State.dropLadder_mask ||| State.putLadder_mask |||
    State.resumeRead_mask ||| State.settle_mask ||| State.ladderOut_mask

theorem State.ladderNext_keeps (s : State) (l : Ladder) (from_ : Nat) : Keeps State.ladderNext_mask s (State.ladderNext s l
    from_) := by
  unfold State.ladderNext
  extract_lets +onlyGivenNames y0
  have h1 : Keeps State.ladderNext_mask s y0 := by
    unfold y0
    refine Keeps.ite ?_ ?_
    · exact Keeps.step (State.endReread_keeps ..) (Keeps.refl _ _)
    exact Keeps.refl _ _
  clear_value y0
  extract_lets +onlyGivenNames y2
  clear_value y2
  split
  · rename_i z3 z4
    exact Keeps.step (State.dropLadder_keeps ..) h1
  rename_i z5 z6 z7 z8
  split
  · rename_i z9 z10 z11 z12
    extract_lets +onlyGivenNames y13
    clear_value y13
    extract_lets +onlyGivenNames y14
    have h15 : Keeps State.ladderNext_mask s y14 := Keeps.step (State.putLadder_keeps ..) h1
    clear_value y14
    refine Keeps.ite ?_ ?_
    · exact h15
    exact Keeps.step (State.resumeRead_keeps ..) h15
  rename_i z16 z17 z18
  exact Keeps.step (State.settle_keeps ..) (Keeps.step (State.ladderOut_keeps ..) (Keeps.step (State.putLadder_keeps ..) h1))

def State.ladderMismatch_mask : Nat := State.raise_mask ||| State.slStat_mask ||| State.draw_mask ||| State.ladderBad_mask |||
    State.settle_mask ||| State.dropLadder_mask ||| fieldBits [Reg.SLC_EVT_HEADER_MISMATCH]

theorem State.ladderMismatch_keeps (s : State) (l : Ladder) (field : Nat) : Keeps State.ladderMismatch_mask s
    (State.ladderMismatch s l field) := by
  unfold State.ladderMismatch
  split
  rename_i z0 z1 z2 z3
  extract_lets +onlyGivenNames y4
  have h5 : Keeps State.ladderMismatch_mask s y4 := Keeps.step (State.raise_keeps ..) (Keeps.step (State.slStat_keeps ..)
      (Keeps.set1 (Keeps.ofSnd z3 (KeepsSnd.step (State.draw_keeps ..) (Keeps.refl _ _)))))
  clear_value y4
  extract_lets +onlyGivenNames y6
  have h7 : Keeps State.ladderMismatch_mask s y6 := by
    unfold y6
    refine Keeps.foldl (fun t8 a9 => ?_) ?_
    · exact Keeps.step (State.ladderBad_keeps ..) (Keeps.refl _ _)
    exact h5
  clear_value y6
  exact Keeps.step (State.settle_keeps ..) (Keeps.step (State.dropLadder_keeps ..) h7)

def State.judge_mask : Nat := State.countDecode_mask ||| State.putLadder_mask ||| State.ladderMismatch_mask ||| State.ladderPass_mask

theorem State.judge_keeps {m : Nat} (s : State) (l : Ladder) (rung : Nat) (get : Nat → Option Nat) (cws : List CwObs)
    (next : State → State) (hf : ∀ t, Keeps m t (next t)) (hm : State.judge_mask ||| m = m := by decide +kernel) :
    Keeps m s (s.judge l rung get cws next) := by
  have k : ∀ {a : Nat}, a ||| State.judge_mask = State.judge_mask → a ||| m = m := by
    intro a h; rw [← hm, ← Nat.or_assoc, h]
  have hp : ∀ t x, Keeps m t (t.putLadder x) := fun t x => Keeps.step (State.putLadder_keeps ..) (Keeps.refl _ _) (k (by decide +kernel))
  have hc : ∀ t a b c, Keeps m t (t.countDecode a b c) :=
    fun t a b c => Keeps.step (State.countDecode_keeps ..) (Keeps.refl _ _) (k (by decide +kernel))
  unfold State.judge
  split
  · exact Keeps.trans (Keeps.trans (hc ..) (hp ..)) (hf _)
  · split
    · exact Keeps.step (State.ladderMismatch_keeps ..) (hp ..) (k (by decide +kernel))
    · split
      · exact Keeps.step (State.ladderPass_keeps ..) (Keeps.trans (hc ..) (hp ..)) (k (by decide +kernel))
      · exact Keeps.trans (Keeps.trans (hc ..) (hp ..)) (hf _)

def State.markLadder_mask : Nat := State.updCmd_mask

theorem State.markLadder_keeps (s : State) (us : List Sharer) : Keeps State.markLadder_mask s (State.markLadder s us) := by
  unfold State.markLadder
  refine Keeps.foldl (fun t0 a1 => ?_) ?_
  · exact Keeps.step (State.updCmd_keeps ..) (Keeps.refl _ _)
  exact Keeps.refl _ _

def execFrameDecode_mask : Nat := State.putSlice_mask ||| State.freeEntry_mask ||| State.realign_mask ||| State.lastFrame_mask
    ||| State.ladderMismatch_mask ||| State.markLadder_mask ||| State.slStat_mask ||| State.countDecode_mask |||
    State.ladderNext_mask ||| State.settle_mask ||| State.calFrame_mask ||| State.deliverFrame_mask ||| partBits [.ladders]

theorem execFrameDecode_keeps (sl : Fin 96) (slot : Nat) (s : State) : KeepsRes execFrameDecode_mask s (execFrameDecode sl slot
    s) := by
  unfold execFrameDecode
  extract_lets +onlyGivenNames y0
  clear_value y0
  split
  · rename_i z1 z2 z3 z4 z5 z6
    extract_lets +onlyGivenNames y7
    clear_value y7
    extract_lets +onlyGivenNames y8
    have h9 : Keeps execFrameDecode_mask s y8 := Keeps.step (State.putSlice_keeps ..) (Keeps.refl _ _)
    clear_value y8
    refine KeepsRes.ite ?_ ?_
    · exact KeepsRes.next (Keeps.refl _ _)
    split
    · rename_i z10 z11
      exact KeepsRes.next (Keeps.step (State.freeEntry_keeps ..) (Keeps.step (State.realign_keeps ..) h9))
    rename_i z12 z13 z14 z15
    extract_lets +onlyGivenNames y16
    clear_value y16
    extract_lets +onlyGivenNames y17
    clear_value y17
    extract_lets +onlyGivenNames y18
    clear_value y18
    extract_lets +onlyGivenNames y19
    clear_value y19
    extract_lets +onlyGivenNames y20
    have h21 : ∀ t22 t23 t24 t25, Keeps execFrameDecode_mask t22 (y20 t22 t23 t24 t25) := by
      intro t22 t23 t24 t25
      unfold y20
      exact Keeps.step (State.lastFrame_keeps ..) (Keeps.refl _ _)
    clear_value y20
    split
    · rename_i z26 z27 z28
      exact KeepsRes.next (Keeps.step (State.ladderMismatch_keeps ..) (Keeps.trans (Keeps.step (State.realign_keeps ..) h9)
          (h21 _ _ _ _)))
    rename_i z29 z30
    refine KeepsRes.ite ?_ ?_
    · exact KeepsRes.next h9
    extract_lets +onlyGivenNames y31
    clear_value y31
    extract_lets +onlyGivenNames y32
    clear_value y32
    extract_lets +onlyGivenNames y33
    clear_value y33
    extract_lets +onlyGivenNames y34
    have h35 : Keeps execFrameDecode_mask s y34 := Keeps.step (State.realign_keeps ..) h9
    clear_value y34
    extract_lets +onlyGivenNames y36
    clear_value y36
    extract_lets +onlyGivenNames y37
    have h38 : ∀ t39, Keeps execFrameDecode_mask t39 (y37 t39) := by
      intro t39
      unfold y37
      extract_lets +onlyGivenNames y40
      have h41 : Keeps execFrameDecode_mask t39 y40 := Keeps.step (State.markLadder_keeps ..) (Keeps.step (State.slStat_keeps
          ..) (Keeps.trans (Keeps.step (State.countDecode_keeps ..) (Keeps.refl _ _)) (h21 _ _ _ _)))
      clear_value y40
      exact Keeps.step (State.ladderNext_keeps ..) (Keeps.set_ladders h41)
    clear_value y37
    split
    · rename_i z42 z43
      exact KeepsRes.next (Keeps.trans h35 (h38 _))
    rename_i z44 z45 z46
    split
    · rename_i z47 z48 z49 z50
      extract_lets +onlyGivenNames y51
      have h52 : Keeps execFrameDecode_mask s y51 := Keeps.step (State.countDecode_keeps ..) (Keeps.step (State.slStat_keeps
          ..) (Keeps.trans h35 (h21 _ _ _ _)))
      clear_value y51
      exact KeepsRes.next (Keeps.step (State.settle_keeps ..) (Keeps.step (State.freeEntry_keeps ..) (Keeps.step
          (State.calFrame_keeps ..) (Keeps.step (State.deliverFrame_keeps ..) h52))))
    rename_i z53 z54 z55
    exact KeepsRes.next (Keeps.trans h35 (h38 _))
  rename_i z56 z57 z58
  exact KeepsRes.next (Keeps.refl _ _)

def execLadderRungDecode_mask : Nat := State.ladderNext_mask ||| State.judge_mask

theorem execLadderRungDecode_keeps (sl : Fin 96) (slot : Nat) (s : State) : KeepsRes execLadderRungDecode_mask s
    (execLadderRungDecode sl slot s) := by
  unfold execLadderRungDecode
  split
  · rename_i z0 z1
    exact KeepsRes.next (Keeps.refl _ _)
  rename_i z2 z3 z4
  refine KeepsRes.ite ?_ ?_
  · exact KeepsRes.next (Keeps.refl _ _)
  refine KeepsRes.ite ?_ ?_
  · exact KeepsRes.next (Keeps.step (State.ladderNext_keeps ..) (Keeps.refl _ _))
  extract_lets +onlyGivenNames y5
  clear_value y5
  extract_lets +onlyGivenNames y6
  clear_value y6
  extract_lets +onlyGivenNames y7
  clear_value y7
  extract_lets +onlyGivenNames y8
  clear_value y8
  refine KeepsRes.next (Keeps.trans ?_ (State.judge_keeps _ _ _ _ _ _ (fun t9 => ?_)))
  · exact Keeps.refl _ _
  exact Keeps.step (State.ladderNext_keeps ..) (Keeps.refl _ _)

def execRowShiftSearch_mask : Nat := State.ladderNext_mask ||| State.judge_mask

theorem execRowShiftSearch_keeps (sl : Fin 96) (slot : Nat) (s : State) : KeepsRes execRowShiftSearch_mask s
    (execRowShiftSearch sl slot s) := by
  unfold execRowShiftSearch
  split
  · rename_i z0 z1
    exact KeepsRes.next (Keeps.refl _ _)
  rename_i z2 z3 z4
  refine KeepsRes.ite ?_ ?_
  · exact KeepsRes.next (Keeps.refl _ _)
  refine KeepsRes.ite ?_ ?_
  · exact KeepsRes.next (Keeps.step (State.ladderNext_keeps ..) (Keeps.refl _ _))
  split
  rename_i z5 z6 z7 z8
  extract_lets +onlyGivenNames y9
  clear_value y9
  extract_lets +onlyGivenNames y10
  clear_value y10
  refine KeepsRes.next (Keeps.trans ?_ (State.judge_keeps _ _ _ _ _ _ (fun t11 => ?_)))
  · exact Keeps.refl _ _
  exact Keeps.step (State.ladderNext_keeps ..) (Keeps.refl _ _)

def execLadderSlotClaim_mask : Nat := State.putLadder_mask ||| State.freeEntry_mask ||| State.raiseWin_mask ||| partBits
    [.ladderWait]

theorem execLadderSlotClaim_keeps (sl : Fin 96) (slot : Nat) (s : State) : KeepsRes execLadderSlotClaim_mask s
    (execLadderSlotClaim sl slot s) := by
  unfold execLadderSlotClaim
  split
  · rename_i z0 z1
    exact KeepsRes.next (Keeps.refl _ _)
  rename_i z2 z3 z4
  refine KeepsRes.ite ?_ ?_
  · exact KeepsRes.next (Keeps.refl _ _)
  extract_lets +onlyGivenNames y5
  clear_value y5
  extract_lets +onlyGivenNames y6
  clear_value y6
  extract_lets +onlyGivenNames y7
  clear_value y7
  split
  · rename_i z8 z9 z10
    refine KeepsRes.ite ?_ ?_
    · exact KeepsRes.next (Keeps.refl _ _)
    extract_lets +onlyGivenNames y11
    clear_value y11
    extract_lets +onlyGivenNames y12
    have h13 : Keeps execLadderSlotClaim_mask s y12 := Keeps.set_ladderWait (Keeps.refl _ _)
    clear_value y12
    exact KeepsRes.next (Keeps.step (State.putLadder_keeps ..) (Keeps.step (State.freeEntry_keeps ..) h13))
  rename_i z14 z15
  extract_lets +onlyGivenNames y16
  have h17 : Keeps execLadderSlotClaim_mask s y16 := by
    unfold y16
    refine Keeps.ite ?_ ?_
    · exact Keeps.refl _ _
    exact Keeps.set_ladderWait (Keeps.refl _ _)
  clear_value y16
  exact KeepsRes.next (Keeps.step (State.raiseWin_keeps ..) h17)

def State.applyTry_mask : Nat := State.headPrm_mask ||| State.eqPut_mask ||| State.putSlice_mask

theorem State.applyTry_keeps (s : State) (l : Ladder) (r k : Nat) : Keeps State.applyTry_mask s (State.applyTry s l r k) := by
  unfold State.applyTry
  extract_lets +onlyGivenNames y0
  clear_value y0
  split
  · rename_i z1
    exact Keeps.step (State.headPrm_keeps ..) (Keeps.refl _ _)
  · rename_i z2
    exact Keeps.step (State.eqPut_keeps ..) (Keeps.step (State.putSlice_keeps ..) (Keeps.refl _ _))
  · rename_i z3
    exact Keeps.step (State.headPrm_keeps ..) (Keeps.refl _ _)
  rename_i z4 z5 z6 z7
  exact Keeps.refl _ _

def execLadderReread_mask : Nat := State.ladderNext_mask ||| State.applyTry_mask ||| State.endReread_mask |||
    State.putLadder_mask ||| State.showSp_mask ||| State.putSlice_mask ||| State.askHead_mask

theorem execLadderReread_keeps (sl : Fin 96) (slot : Nat) (s : State) : KeepsRes execLadderReread_mask s (execLadderReread sl
    slot s) := by
  unfold execLadderReread
  split
  · rename_i z0 z1
    exact KeepsRes.next (Keeps.refl _ _)
  rename_i z2 z3 z4
  refine KeepsRes.ite ?_ ?_
  · exact KeepsRes.next (Keeps.refl _ _)
  refine KeepsRes.ite ?_ ?_
  · exact KeepsRes.next (Keeps.step (State.ladderNext_keeps ..) (Keeps.refl _ _))
  split
  · rename_i z5 z6 z7
    exact KeepsRes.next (Keeps.refl _ _)
  rename_i z8 z9 z10 z11 z12
  extract_lets +onlyGivenNames y13
  clear_value y13
  extract_lets +onlyGivenNames y14
  have h15 : Keeps execLadderReread_mask s y14 := Keeps.step (State.applyTry_keeps ..) (Keeps.step (State.endReread_keeps ..)
      (Keeps.refl _ _))
  clear_value y14
  extract_lets +onlyGivenNames y16
  have h17 : Keeps execLadderReread_mask s y16 := Keeps.step (State.putLadder_keeps ..) h15
  clear_value y16
  extract_lets +onlyGivenNames y18
  have h19 : Keeps execLadderReread_mask s y18 := Keeps.step (State.showSp_keeps ..) h17
  clear_value y18
  refine KeepsRes.ite ?_ ?_
  · exact KeepsRes.next h19
  extract_lets +onlyGivenNames y20
  clear_value y20
  extract_lets +onlyGivenNames y21
  have h22 : Keeps execLadderReread_mask s y21 := Keeps.step (State.putSlice_keeps ..) h19
  clear_value y21
  extract_lets +onlyGivenNames y23
  have h24 : Keeps execLadderReread_mask s y23 := by
    unfold y23
    refine Keeps.ite ?_ ?_
    · exact h22
    exact Keeps.step (State.askHead_keeps ..) h22
  clear_value y23
  exact KeepsRes.next (Keeps.step (State.askHead_keeps ..) h24)

def execRereadDecode_mask : Nat := State.judge_mask ||| State.ladderNext_mask

theorem execRereadDecode_keeps (sl : Fin 96) (slot : Nat) (s : State) : KeepsRes execRereadDecode_mask s (execRereadDecode sl
    slot s) := by
  unfold execRereadDecode
  split
  · rename_i z0 z1
    exact KeepsRes.next (Keeps.refl _ _)
  rename_i z2 z3 z4
  split
  · rename_i z5 z6
    exact KeepsRes.next (Keeps.refl _ _)
  rename_i z7 z8 z9 z10
  refine KeepsRes.ite ?_ ?_
  · exact KeepsRes.next (Keeps.refl _ _)
  split
  rename_i z11 z12 z13 z14 z15
  extract_lets +onlyGivenNames y16
  clear_value y16
  extract_lets +onlyGivenNames y17
  clear_value y17
  extract_lets +onlyGivenNames y18
  clear_value y18
  extract_lets +onlyGivenNames y19
  clear_value y19
  extract_lets +onlyGivenNames y20
  clear_value y20
  extract_lets +onlyGivenNames y21
  clear_value y21
  refine KeepsRes.next (Keeps.trans ?_ (State.judge_keeps _ _ _ _ _ _ (fun t22 => ?_)))
  · exact Keeps.refl _ _
  refine Keeps.ite ?_ ?_
  · exact Keeps.refl _ _
  exact Keeps.step (State.ladderNext_keeps ..) (Keeps.refl _ _)

def execSoftCombine_mask : Nat := State.ladderNext_mask ||| State.judge_mask

theorem execSoftCombine_keeps (sl : Fin 96) (slot : Nat) (s : State) : KeepsRes execSoftCombine_mask s (execSoftCombine sl slot
    s) := by
  unfold execSoftCombine
  split
  · rename_i z0 z1
    exact KeepsRes.next (Keeps.refl _ _)
  rename_i z2 z3 z4
  refine KeepsRes.ite ?_ ?_
  · exact KeepsRes.next (Keeps.refl _ _)
  refine KeepsRes.ite ?_ ?_
  · exact KeepsRes.next (Keeps.step (State.ladderNext_keeps ..) (Keeps.refl _ _))
  extract_lets +onlyGivenNames y5
  clear_value y5
  extract_lets +onlyGivenNames y6
  clear_value y6
  extract_lets +onlyGivenNames y7
  clear_value y7
  extract_lets +onlyGivenNames y8
  clear_value y8
  refine KeepsRes.next (Keeps.trans ?_ (State.judge_keeps _ _ _ _ _ _ (fun t9 => ?_)))
  · exact Keeps.refl _ _
  exact Keeps.step (State.ladderNext_keeps ..) (Keeps.refl _ _)

def execOuterErasureDecode_mask : Nat := State.settle_mask ||| State.dropLadder_mask ||| State.ladderNext_mask |||
    State.judge_mask

theorem execOuterErasureDecode_keeps (sl : Fin 96) (slot : Nat) (s : State) : KeepsRes execOuterErasureDecode_mask s
    (execOuterErasureDecode sl slot s) := by
  unfold execOuterErasureDecode
  split
  · rename_i z0 z1
    exact KeepsRes.next (Keeps.refl _ _)
  rename_i z2 z3 z4
  refine KeepsRes.ite ?_ ?_
  · exact KeepsRes.next (Keeps.refl _ _)
  split
  · rename_i z5 z6
    exact KeepsRes.next (Keeps.step (State.settle_keeps ..) (Keeps.step (State.dropLadder_keeps ..) (Keeps.refl _ _)))
  rename_i z7 z8 z9 z10
  refine KeepsRes.ite ?_ ?_
  · exact KeepsRes.next (Keeps.step (State.ladderNext_keeps ..) (Keeps.refl _ _))
  extract_lets +onlyGivenNames y11
  clear_value y11
  refine KeepsRes.next (Keeps.trans ?_ (State.judge_keeps _ _ _ _ _ _ (fun t12 => ?_)))
  · exact Keeps.refl _ _
  exact Keeps.step (State.ladderNext_keeps ..) (Keeps.refl _ _)

def execLadderBudgetExpire_mask : Nat := State.updCmd_mask ||| State.advanceTo_mask ||| State.ladderNext_mask

theorem execLadderBudgetExpire_keeps (sq tag : Nat) (s : State) : KeepsRes execLadderBudgetExpire_mask s
    (execLadderBudgetExpire sq tag s) := by
  unfold execLadderBudgetExpire
  split
  · rename_i z0 z1
    exact KeepsRes.next (Keeps.refl _ _)
  rename_i z2 z3 z4
  split
  · rename_i z5 z6
    exact KeepsRes.next (Keeps.refl _ _)
  rename_i z7 z8 z9
  refine KeepsRes.ite ?_ ?_
  · exact KeepsRes.next (Keeps.refl _ _)
  extract_lets +onlyGivenNames y10
  have h11 : Keeps execLadderBudgetExpire_mask s y10 := Keeps.step (State.updCmd_keeps ..) (Keeps.step (State.advanceTo_keeps
      ..) (Keeps.refl _ _))
  clear_value y10
  refine KeepsRes.next (Keeps.foldl (fun t12 a13 => ?_) ?_)
  · exact Keeps.step (State.ladderNext_keeps ..) (Keeps.refl _ _)
  exact h11

def State.joinLadders_mask : Nat := State.updCmd_mask ||| State.putLadder_mask

theorem State.joinLadders_keeps (s : State) (c : Cmd) : Keeps State.joinLadders_mask s (State.joinLadders s c) := by
  unfold State.joinLadders
  refine Keeps.foldl (fun t0 a1 => ?_) ?_
  · split
    · rename_i z2 z3
      exact Keeps.refl _ _
    rename_i z4 z5 z6
    split
    · rename_i z7 z8
      exact Keeps.refl _ _
    rename_i z9 z10 z11
    extract_lets +onlyGivenNames y12
    clear_value y12
    exact Keeps.step (State.updCmd_keeps ..) (Keeps.step (State.putLadder_keeps ..) (Keeps.refl _ _))
  exact Keeps.refl _ _

def State.leaveLadders_mask : Nat := State.dropLadder_mask ||| State.putLadder_mask

theorem State.leaveLadders_keeps (s : State) (sq tag : Nat) : Keeps State.leaveLadders_mask s (State.leaveLadders s sq tag) :=
    by
  unfold State.leaveLadders
  refine Keeps.foldl (fun t0 a1 => ?_) ?_
  · extract_lets +onlyGivenNames y2
    clear_value y2
    refine Keeps.ite ?_ ?_
    · exact Keeps.step (State.dropLadder_keeps ..) (Keeps.refl _ _)
    exact Keeps.step (State.putLadder_keeps ..) (Keeps.refl _ _)
  exact Keeps.refl _ _

end Sys2Proof.Machine
end

