-- ==== Sys2Proof/Laws/KeepsStationLink.lean ====
section
/-!
SUPPORT. What the operations of Machine/StationLink.lean leave as it was, one lemma for each.
-/

set_option Elab.async false

namespace Sys2Proof.Machine

def State.portLeft_mask : Nat := State.stationOff_mask ||| State.abandonCal_mask

theorem State.portLeft_keeps (s : State) (n : Nat) : Keeps State.portLeft_mask s (State.portLeft s n) := by
  unfold State.portLeft
  exact Keeps.step (State.stationOff_keeps ..) (Keeps.step (State.abandonCal_keeps ..) (Keeps.refl _ _))

def State.loseFrames_mask : Nat := State.putZone_mask ||| State.mgmtFailed_mask ||| State.putSlice_mask ||| partBits [.held]

theorem State.loseFrames_keeps (s : State) (h : Nat) : Keeps State.loseFrames_mask s (State.loseFrames s h) := by
  unfold State.loseFrames
  extract_lets +onlyGivenNames y0
  clear_value y0
  extract_lets +onlyGivenNames y1
  have h2 : Keeps State.loseFrames_mask s y1 := by
    unfold y1
    refine Keeps.foldl (fun t3 a4 => ?_) ?_
    · exact Keeps.step (State.putZone_keeps ..) (Keeps.refl _ _)
    exact Keeps.refl _ _
  clear_value y1
  extract_lets +onlyGivenNames y5
  clear_value y5
  extract_lets +onlyGivenNames y6
  have h7 : Keeps State.loseFrames_mask s y6 := Keeps.set_held h2
  clear_value y6
  split
  · rename_i z8 z9
    exact h7
  rename_i z10 z11 z12
  extract_lets +onlyGivenNames y13
  clear_value y13
  extract_lets +onlyGivenNames y14
  have h15 : Keeps State.loseFrames_mask s y14 := by
    unfold y14
    refine Keeps.foldl (fun t16 a17 => ?_) ?_
    · exact Keeps.step (State.mgmtFailed_keeps ..) (Keeps.refl _ _)
    exact h7
  clear_value y14
  exact Keeps.step (State.putSlice_keeps ..) h15

def State.dropLadders_mask : Nat := State.dropLadder_mask

theorem State.dropLadders_keeps (s : State) (n : Nat) : Keeps State.dropLadders_mask s (State.dropLadders s n) := by
  unfold State.dropLadders
  refine Keeps.foldl (fun t0 a1 => ?_) ?_
  · exact Keeps.step (State.dropLadder_keeps ..) (Keeps.refl _ _)
  exact Keeps.refl _ _

def State.linkLost_mask : Nat := State.putStn_mask ||| State.loseFrames_mask ||| State.dropLadders_mask |||
    State.failStation_mask ||| State.settle_mask ||| State.raise_mask ||| State.portLeft_mask ||| fieldBits
    [Reg.STN_LINK_EVT_DOWN]

theorem State.linkLost_keeps (s : State) (n cause : Nat) : Keeps State.linkLost_mask s (State.linkLost s n cause) := by
  unfold State.linkLost
  extract_lets +onlyGivenNames y0
  clear_value y0
  extract_lets +onlyGivenNames y1
  have h2 : Keeps State.linkLost_mask s y1 := Keeps.step (State.putStn_keeps ..) (Keeps.refl _ _)
  clear_value y1
  extract_lets +onlyGivenNames y3
  have h4 : Keeps State.linkLost_mask s y3 := Keeps.step (State.loseFrames_keeps ..) (Keeps.step (State.loseFrames_keeps ..) h2)
  clear_value y3
  extract_lets +onlyGivenNames y5
  have h6 : Keeps State.linkLost_mask s y5 := Keeps.step (State.dropLadders_keeps ..) (Keeps.step (State.failStation_keeps ..)
      h4)
  clear_value y5
  extract_lets +onlyGivenNames y7
  clear_value y7
  extract_lets +onlyGivenNames y8
  have h9 : Keeps State.linkLost_mask s y8 := Keeps.step (State.putStn_keeps ..) h6
  clear_value y8
  exact Keeps.step (State.settle_keeps ..) (Keeps.step (State.raise_keeps ..) (Keeps.set1 (Keeps.step (State.portLeft_keeps ..)
      h9)))

def execPeriodPresent_mask : Nat := State.awaitBatches_mask ||| State.advancePhase_mask ||| State.periodOf_mask |||
    State.linkLost_mask ||| State.toWait_mask ||| State.portLeft_mask

theorem execPeriodPresent_keeps (s : State) : KeepsRes execPeriodPresent_mask s (execPeriodPresent s) := by
  unfold execPeriodPresent
  extract_lets +onlyGivenNames y0
  have h1 : Keeps execPeriodPresent_mask s y0 := Keeps.step (State.awaitBatches_keeps ..) (Keeps.step (State.advancePhase_keeps
      ..) (Keeps.refl _ _))
  clear_value y0
  refine KeepsRes.ite ?_ ?_
  · exact KeepsRes.next h1
  refine KeepsRes.next (Keeps.foldl (fun t2 a3 => ?_) ?_)
  · refine Keeps.ite ?_ ?_
    · extract_lets +onlyGivenNames y4
      extract_lets +onlyGivenNames y5
      have h6 : Keeps execPeriodPresent_mask t2 y5 := Keeps.step (State.periodOf_keeps ..) (Keeps.refl _ _)
      clear_value y5
      refine Keeps.ite ?_ ?_
      · exact h6
      refine Keeps.ite ?_ ?_
      · extract_lets +onlyGivenNames y7
        have h8 : Keeps execPeriodPresent_mask t2 y7 := Keeps.step (State.linkLost_keeps ..) h6
        clear_value y7
        refine Keeps.ite ?_ ?_
        · exact Keeps.step (State.toWait_keeps ..) h8
        exact h8
      exact Keeps.step (State.portLeft_keeps ..) h6
    exact Keeps.refl _ _
  exact h1

def State.actuateOf_mask : Nat := State.send_mask ||| partBits [.loop]

theorem State.actuateOf_keeps (s : State) (k n : Nat) : Keeps State.actuateOf_mask s (State.actuateOf s k n) := by
  unfold State.actuateOf
  extract_lets +onlyGivenNames y0
  clear_value y0
  extract_lets +onlyGivenNames y1
  have h2 : Keeps State.actuateOf_mask s y1 := Keeps.step (State.send_keeps ..) (Keeps.refl _ _)
  clear_value y1
  extract_lets +onlyGivenNames y3
  clear_value y3
  exact Keeps.set_loop h2

def execActuatePresent_mask : Nat := State.advancePhase_mask ||| State.actuateOf_mask ||| partBits [.loop]

theorem execActuatePresent_keeps (s : State) : KeepsRes execActuatePresent_mask s (execActuatePresent s) := by
  unfold execActuatePresent
  extract_lets +onlyGivenNames y0
  have h1 : Keeps execActuatePresent_mask s y0 := Keeps.step (State.advancePhase_keeps ..) (Keeps.refl _ _)
  clear_value y0
  refine KeepsRes.ite ?_ ?_
  · exact KeepsRes.next h1
  extract_lets +onlyGivenNames y2
  clear_value y2
  extract_lets +onlyGivenNames y3
  clear_value y3
  extract_lets +onlyGivenNames y4
  have h5 : Keeps execActuatePresent_mask s y4 := by
    unfold y4
    refine Keeps.foldl (fun t6 a7 => ?_) ?_
    · exact Keeps.step (State.actuateOf_keeps ..) (Keeps.refl _ _)
    exact h1
  clear_value y4
  refine KeepsRes.ite ?_ ?_
  · exact KeepsRes.next (Keeps.set_loop h5)
  exact KeepsRes.next h5

def State.watchHead_mask : Nat := State.putHead_mask ||| State.releaseHead_mask ||| State.freeTrack_mask

theorem State.watchHead_keeps (s : State) (h k : Nat) (fe0 : Int) : Keeps State.watchHead_mask s (State.watchHead s h k fe0) :=
    by
  unfold State.watchHead
  extract_lets +onlyGivenNames y0
  clear_value y0
  extract_lets +onlyGivenNames y1
  clear_value y1
  extract_lets +onlyGivenNames y2
  clear_value y2
  extract_lets +onlyGivenNames y3
  clear_value y3
  extract_lets +onlyGivenNames y4
  clear_value y4
  extract_lets +onlyGivenNames y5
  clear_value y5
  extract_lets +onlyGivenNames y6
  clear_value y6
  extract_lets +onlyGivenNames y7
  clear_value y7
  extract_lets +onlyGivenNames y8
  clear_value y8
  extract_lets +onlyGivenNames y9
  clear_value y9
  extract_lets +onlyGivenNames y10
  clear_value y10
  extract_lets +onlyGivenNames y11
  clear_value y11
  extract_lets +onlyGivenNames y12
  clear_value y12
  extract_lets +onlyGivenNames y13
  clear_value y13
  extract_lets +onlyGivenNames y14
  clear_value y14
  extract_lets +onlyGivenNames y15
  clear_value y15
  extract_lets +onlyGivenNames y16
  clear_value y16
  extract_lets +onlyGivenNames y17
  clear_value y17
  extract_lets +onlyGivenNames y18
  clear_value y18
  extract_lets +onlyGivenNames y19
  have h20 : Keeps State.watchHead_mask s y19 := Keeps.step (State.putHead_keeps ..) (Keeps.refl _ _)
  clear_value y19
  extract_lets +onlyGivenNames y21
  clear_value y21
  extract_lets +onlyGivenNames y22
  have h23 : Keeps State.watchHead_mask s y22 := by
    unfold y22
    refine Keeps.ite ?_ ?_
    · exact Keeps.step (State.releaseHead_keeps ..) h20
    exact h20
  clear_value y22
  extract_lets +onlyGivenNames y24
  clear_value y24
  extract_lets +onlyGivenNames y25
  have h26 : Keeps State.watchHead_mask s y25 := by
    unfold y25
    refine Keeps.ite ?_ ?_
    · exact Keeps.step (State.freeTrack_keeps ..) h23
    exact h23
  clear_value y25
  refine Keeps.ite ?_ ?_
  · exact Keeps.step (State.releaseHead_keeps ..) h26
  exact h26

def State.ackSteps_mask : Nat := State.putStn_mask ||| State.raise_mask ||| State.loseRef_mask

theorem State.ackSteps_keeps (s : State) (n ack : Nat) : Keeps State.ackSteps_mask s (State.ackSteps s n ack) := by
  unfold State.ackSteps
  extract_lets +onlyGivenNames y0
  clear_value y0
  extract_lets +onlyGivenNames y1
  clear_value y1
  extract_lets +onlyGivenNames y2
  clear_value y2
  extract_lets +onlyGivenNames y3
  have h4 : Keeps State.ackSteps_mask s y3 := Keeps.step (State.putStn_keeps ..) (Keeps.refl _ _)
  clear_value y3
  refine Keeps.foldl (fun t5 a6 => ?_) ?_
  · extract_lets +onlyGivenNames y7
    clear_value y7
    extract_lets +onlyGivenNames y8
    clear_value y8
    extract_lets +onlyGivenNames y9
    have h10 : Keeps State.ackSteps_mask t5 y9 := Keeps.step (State.raise_keeps ..) (Keeps.refl _ _)
    clear_value y9
    split
    · rename_i z11 z12 z13
      refine Keeps.ite ?_ ?_
      · exact Keeps.step (State.loseRef_keeps ..) h10
      exact h10
    rename_i z14 z15
    refine Keeps.ite ?_ ?_
    · exact Keeps.step (State.loseRef_keeps ..) h10
    exact h10
  exact h4

def State.ackWrdata_mask : Nat := State.putSlice_mask

theorem State.ackWrdata_keeps (s : State) (h ack : Nat) : Keeps State.ackWrdata_mask s (State.ackWrdata s h ack) := by
  unfold State.ackWrdata
  split
  · rename_i z0 z1 z2
    extract_lets +onlyGivenNames y3
    clear_value y3
    exact Keeps.step (State.putSlice_keeps ..) (Keeps.refl _ _)
  rename_i z4 z5
  exact Keeps.refl _ _

def State.setFeSafe_mask : Nat := State.stationOff_mask ||| State.raise_mask ||| State.stationOn_mask ||| fieldBits
    [Reg.STN_LINK_STATUS_FE_SAFE, Reg.STN_LINK_EVT_FE_SAFE_ENTERED]

theorem State.setFeSafe_keeps (s : State) (n : Nat) (safe : Bool) (cause : Nat) : Keeps State.setFeSafe_mask s (State.setFeSafe
    s n safe cause) := by
  unfold State.setFeSafe
  extract_lets +onlyGivenNames y0
  clear_value y0
  extract_lets +onlyGivenNames y1
  have h2 : Keeps State.setFeSafe_mask s y1 := Keeps.wrB (Keeps.refl _ _)
  clear_value y1
  refine Keeps.ite ?_ ?_
  · exact Keeps.step (State.stationOff_keeps ..) (Keeps.step (State.raise_keeps ..) (Keeps.set1 h2))
  refine Keeps.ite ?_ ?_
  · exact Keeps.step (State.stationOn_keeps ..) h2
  exact h2

def execSensorDelivered_mask : Nat := State.msgErr_mask ||| State.advancePhase_mask ||| State.putStn_mask |||
    State.ackSteps_mask ||| State.ackWrdata_mask ||| State.setFeSafe_mask ||| State.opcMonitor_mask ||| State.watchHead_mask
    ||| State.pulseBrake_mask ||| State.keepBemf_mask ||| fieldBits [Reg.STN_LINK_MISS_FE_MISS]

theorem execSensorDelivered_keeps (n : Fin 128) (m : LinkMsg) (cause : BitVec 4) (s : State) : KeepsRes
    execSensorDelivered_mask s (execSensorDelivered n m cause s) := by
  unfold execSensorDelivered
  refine KeepsRes.ite ?_ ?_
  · exact KeepsRes.next (Keeps.refl _ _)
  refine KeepsRes.ite ?_ ?_
  · exact KeepsRes.next (Keeps.step (State.msgErr_keeps ..) (Keeps.refl _ _))
  extract_lets +onlyGivenNames y0
  have h1 : Keeps execSensorDelivered_mask s y0 := Keeps.step (State.advancePhase_keeps ..) (Keeps.refl _ _)
  clear_value y0
  extract_lets +onlyGivenNames y2
  clear_value y2
  extract_lets +onlyGivenNames y3
  clear_value y3
  extract_lets +onlyGivenNames y4
  clear_value y4
  extract_lets +onlyGivenNames y5
  clear_value y5
  extract_lets +onlyGivenNames y6
  clear_value y6
  extract_lets +onlyGivenNames y7
  clear_value y7
  extract_lets +onlyGivenNames y8
  clear_value y8
  extract_lets +onlyGivenNames y9
  have h10 : Keeps execSensorDelivered_mask s y9 := Keeps.step (State.putStn_keeps ..) h1
  clear_value y9
  extract_lets +onlyGivenNames y11
  have h12 : Keeps execSensorDelivered_mask s y11 := Keeps.bump (Keeps.step (State.ackSteps_keeps ..) (Keeps.step
      (State.ackWrdata_keeps ..) (Keeps.step (State.ackWrdata_keeps ..) h10)))
  clear_value y11
  extract_lets +onlyGivenNames y13
  have h14 : Keeps execSensorDelivered_mask s y13 := Keeps.step (State.setFeSafe_keeps ..) h12
  clear_value y13
  extract_lets +onlyGivenNames y15
  have h16 : Keeps execSensorDelivered_mask s y15 := Keeps.step (State.opcMonitor_keeps ..) (Keeps.step (State.opcMonitor_keeps
      ..) (Keeps.step (State.watchHead_keeps ..) (Keeps.step (State.watchHead_keeps ..) h14)))
  clear_value y15
  refine KeepsRes.next (Keeps.ite ?_ ?_)
  · exact Keeps.step (State.pulseBrake_keeps ..) (Keeps.step (State.keepBemf_keeps ..) h16)
  exact h16

def execSensorMiss_mask : Nat := State.advancePhase_mask ||| State.putStn_mask ||| State.raiseWin_mask ||| fieldBits
    [Reg.STN_LINK_MISS_SENSOR_MISS]

theorem execSensorMiss_keeps (n : Fin 128) (s : State) : KeepsRes execSensorMiss_mask s (execSensorMiss n s) := by
  unfold execSensorMiss
  refine KeepsRes.ite ?_ ?_
  · exact KeepsRes.next (Keeps.refl _ _)
  extract_lets +onlyGivenNames y0
  have h1 : Keeps execSensorMiss_mask s y0 := Keeps.step (State.advancePhase_keeps ..) (Keeps.refl _ _)
  clear_value y0
  extract_lets +onlyGivenNames y2
  clear_value y2
  extract_lets +onlyGivenNames y3
  have h4 : Keeps execSensorMiss_mask s y3 := Keeps.bump (Keeps.step (State.putStn_keeps ..) h1)
  clear_value y3
  exact KeepsRes.next (Keeps.step (State.raiseWin_keeps ..) h4)

def execLinkIdentifyDone_mask : Nat := State.putStn_mask ||| State.setPort_mask ||| State.raise_mask ||| State.loseRef_mask |||
    fieldBits [Reg.STN_FE_BOOT_VALUE, Reg.STN_FE_ID_VALUE, Reg.STN_LINK_EVT_POWER_CYCLED]

theorem execLinkIdentifyDone_keeps (n : Fin 128) (feId feRev feLat feBuf feBoot : Nat) (s : State) : KeepsRes
    execLinkIdentifyDone_mask s (execLinkIdentifyDone n feId feRev feLat feBuf feBoot s) := by
  unfold execLinkIdentifyDone
  refine KeepsRes.ite ?_ ?_
  · exact KeepsRes.next (Keeps.refl _ _)
  extract_lets +onlyGivenNames y0
  clear_value y0
  extract_lets +onlyGivenNames y1
  clear_value y1
  extract_lets +onlyGivenNames y2
  have h3 : Keeps execLinkIdentifyDone_mask s y2 := Keeps.wr (Keeps.wr (Keeps.refl _ _))
  clear_value y2
  extract_lets +onlyGivenNames y4
  have h5 : Keeps execLinkIdentifyDone_mask s y4 := Keeps.step (State.putStn_keeps ..) h3
  clear_value y4
  extract_lets +onlyGivenNames y6
  have h7 : Keeps execLinkIdentifyDone_mask s y6 := Keeps.step (State.setPort_keeps ..) h5
  clear_value y6
  refine KeepsRes.ite ?_ ?_
  · extract_lets +onlyGivenNames y8
    have h9 : Keeps execLinkIdentifyDone_mask s y8 := Keeps.step (State.raise_keeps ..) (Keeps.set1 h7)
    clear_value y8
    exact KeepsRes.next (Keeps.step (State.loseRef_keeps ..) (Keeps.step (State.loseRef_keeps ..) h9))
  exact KeepsRes.next h7

def execLinkMeasureDone_mask : Nat := State.showRaw_mask ||| State.setPads_mask ||| State.trainFail_mask ||| State.raise_mask
    ||| State.putStn_mask ||| State.setPort_mask ||| State.stationOn_mask ||| State.armCal_mask ||| State.loadPort_mask |||
    fieldBits [Reg.STN_LINK_EVT_UP, Reg.STN_LINK_LAT_LAT_VALID, Reg.STN_LINK_ERR_MSG_ERR, Reg.STN_LINK_ERR_BLOCK_ERR,
    Reg.STN_LINK_MISS_FE_MISS, Reg.STN_LINK_MISS_SENSOR_MISS]

theorem execLinkMeasureDone_keeps (n : Fin 128) (echoes : List (Nat × Nat)) (s : State) : KeepsRes execLinkMeasureDone_mask s
    (execLinkMeasureDone n echoes s) := by
  unfold execLinkMeasureDone
  refine KeepsRes.ite ?_ ?_
  · exact KeepsRes.next (Keeps.refl _ _)
  extract_lets +onlyGivenNames y0
  clear_value y0
  extract_lets +onlyGivenNames y1
  clear_value y1
  extract_lets +onlyGivenNames y2
  have h3 : Keeps execLinkMeasureDone_mask s y2 := Keeps.step (State.showRaw_keeps ..) (Keeps.step (State.setPads_keeps ..)
      (Keeps.refl _ _))
  clear_value y2
  refine KeepsRes.ite ?_ ?_
  · exact KeepsRes.next (Keeps.step (State.trainFail_keeps ..) (Keeps.step (State.raise_keeps ..) h3))
  extract_lets +onlyGivenNames y4
  have h5 : Keeps execLinkMeasureDone_mask s y4 := by
    unfold y4
    refine Keeps.foldlMem (fun t6 a7 m8 => ?_) ?_
    · exact Keeps.clr (Keeps.refl _ _) (by revert a7; decide +kernel)
    exact h3
  clear_value y4
  extract_lets +onlyGivenNames y9
  clear_value y9
  extract_lets +onlyGivenNames y10
  have h11 : Keeps execLinkMeasureDone_mask s y10 := Keeps.step (State.putStn_keeps ..) h5
  clear_value y10
  extract_lets +onlyGivenNames y12
  have h13 : Keeps execLinkMeasureDone_mask s y12 := Keeps.set1 (Keeps.step (State.setPort_keeps ..) (Keeps.clr h11))
  clear_value y12
  exact KeepsRes.next (Keeps.step (State.stationOn_keeps ..) (Keeps.step (State.armCal_keeps ..) (Keeps.step
      (State.loadPort_keeps ..) (Keeps.step (State.raise_keeps ..) h13))))

def State.beginRetrain_mask : Nat := State.safeNow_mask ||| State.abandonCal_mask ||| fieldBits
    [Reg.STN_LINK_STATUS_RETRAIN_PENDING, Reg.STN_LINK_CTRL_RETRAIN]

theorem State.beginRetrain_keeps (s : State) (n : Nat) : Keeps State.beginRetrain_mask s (State.beginRetrain s n) := by
  unfold State.beginRetrain
  exact Keeps.step (State.safeNow_keeps ..) (Keeps.step (State.abandonCal_keeps ..) (Keeps.clr (Keeps.clr (Keeps.refl _ _))))

def execRetrainRequest_mask : Nat := State.beginRetrain_mask ||| fieldBits [Reg.STN_LINK_STATUS_RETRAIN_PENDING,
    Reg.STN_LINK_CTRL_RETRAIN]

theorem execRetrainRequest_keeps (n : Fin 128) (s : State) : KeepsRes execRetrainRequest_mask s (execRetrainRequest n s) := by
  unfold execRetrainRequest
  refine KeepsRes.ite ?_ ?_
  · exact KeepsRes.next (Keeps.refl _ _)
  refine KeepsRes.ite ?_ ?_
  · exact KeepsRes.next (Keeps.set1 (Keeps.set1 (Keeps.refl _ _)))
  exact KeepsRes.next (Keeps.step (State.beginRetrain_keeps ..) (Keeps.refl _ _))

def execRetrainStart_mask : Nat := State.beginRetrain_mask

theorem execRetrainStart_keeps (n : Fin 128) (s : State) : KeepsRes execRetrainStart_mask s (execRetrainStart n s) := by
  unfold execRetrainStart
  refine KeepsRes.ite ?_ ?_
  · exact KeepsRes.next (Keeps.step (State.beginRetrain_keeps ..) (Keeps.refl _ _))
  exact KeepsRes.next (Keeps.refl _ _)

def execLinkLoss_mask : Nat := State.advancePhase_mask ||| State.periodOf_mask ||| State.putStn_mask ||| State.linkLost_mask
    ||| State.toWait_mask ||| State.toDown_mask

theorem execLinkLoss_keeps (n : Fin 128) (sensors : Bool) (s : State) : KeepsRes execLinkLoss_mask s (execLinkLoss n sensors s)
    := by
  unfold execLinkLoss
  refine KeepsRes.ite ?_ ?_
  · exact KeepsRes.next (Keeps.refl _ _)
  extract_lets +onlyGivenNames y0
  clear_value y0
  extract_lets +onlyGivenNames y1
  have h2 : Keeps execLinkLoss_mask s y1 := Keeps.step (State.advancePhase_keeps ..) (Keeps.refl _ _)
  clear_value y1
  extract_lets +onlyGivenNames y3
  clear_value y3
  extract_lets +onlyGivenNames y4
  have h5 : Keeps execLinkLoss_mask s y4 := Keeps.step (State.periodOf_keeps ..) (Keeps.step (State.putStn_keeps ..) h2)
  clear_value y4
  extract_lets +onlyGivenNames y6
  have h7 : Keeps execLinkLoss_mask s y6 := Keeps.step (State.linkLost_keeps ..) h5
  clear_value y6
  extract_lets +onlyGivenNames y8
  clear_value y8
  refine KeepsRes.next (Keeps.ite ?_ ?_)
  · exact Keeps.step (State.toWait_keeps ..) h7
  exact Keeps.step (State.toDown_keeps ..) h7

def State.disableLink_mask : Nat := State.safeNow_mask ||| State.toDown_mask ||| fieldBits [Reg.STN_LINK_CTRL_ENABLE]

theorem State.disableLink_keeps (s : State) (n : Nat) : Keeps State.disableLink_mask s (State.disableLink s n) := by
  unfold State.disableLink
  extract_lets +onlyGivenNames y0
  have h1 : Keeps State.disableLink_mask s y0 := Keeps.clr (Keeps.refl _ _)
  clear_value y0
  refine Keeps.ite ?_ ?_
  · exact Keeps.step (State.safeNow_keeps ..) h1
  exact Keeps.step (State.toDown_keeps ..) h1

def execLinkDisable_mask : Nat := State.disableLink_mask

theorem execLinkDisable_keeps (n : Fin 128) (s : State) : KeepsRes execLinkDisable_mask s (execLinkDisable n s) := by
  unfold execLinkDisable
  exact KeepsRes.next (Keeps.step (State.disableLink_keeps ..) (Keeps.refl _ _))

def execLinkBlockError_mask : Nat := State.abandonCal_mask ||| State.putStn_mask ||| fieldBits [Reg.STN_LINK_ERR_BLOCK_ERR]

theorem execLinkBlockError_keeps (n : Fin 128) (hdr : Option (Fin 2 × Nat)) (s : State) : KeepsRes execLinkBlockError_mask s
    (execLinkBlockError n hdr s) := by
  unfold execLinkBlockError
  extract_lets +onlyGivenNames y0
  clear_value y0
  extract_lets +onlyGivenNames y1
  have h2 : Keeps execLinkBlockError_mask s y1 := Keeps.step (State.abandonCal_keeps ..) (Keeps.bump (Keeps.refl _ _))
  extract_lets +onlyGivenNames y3
  have h4 : Keeps execLinkBlockError_mask s y3 := by
    unfold y3
    split
    · rename_i z5 z6 z7
      exact Keeps.step (State.putStn_keeps ..) h2
    rename_i z8
    exact h2
  extract_lets +onlyGivenNames y9
  refine KeepsRes.ite ?_ ?_
  · exact KeepsRes.next (Keeps.step (State.putStn_keeps ..) h4)
  exact KeepsRes.next h4

end Sys2Proof.Machine
end

