-- ==== Sys2Proof/Laws/KeepsChecks.lean ====
section
/-!
SUPPORT. What the operations of Machine/Checks.lean leave as it was, one lemma for each.
-/

set_option Elab.async false

namespace Sys2Proof.Machine

def State.acceptWrite_mask : Nat := State.putZone_mask ||| partBits [.held]

theorem State.acceptWrite_keeps (s : State) (c : Cmd) : Keeps State.acceptWrite_mask s (State.acceptWrite s c) := by
  unfold State.acceptWrite
  extract_lets +onlyGivenNames y0
  clear_value y0
  refine Keeps.ite ?_ ?_
  · exact Keeps.refl _ _
  extract_lets +onlyGivenNames y1
  clear_value y1
  extract_lets +onlyGivenNames y2
  clear_value y2
  extract_lets +onlyGivenNames y3
  clear_value y3
  extract_lets +onlyGivenNames y4
  clear_value y4
  extract_lets +onlyGivenNames y5
  clear_value y5
  extract_lets +onlyGivenNames y6
  clear_value y6
  extract_lets +onlyGivenNames y7
  clear_value y7
  exact Keeps.step (State.putZone_keeps ..) (Keeps.set_held (Keeps.refl _ _))

def State.accept_mask : Nat := State.poolEmpty_mask ||| State.takeBuf_mask ||| State.acceptWrite_mask ||| State.toDevice_mask
    ||| partBits [.cmds]

theorem State.accept_keeps (s : State) (c : Cmd) : KeepsSum State.accept_mask s (State.accept s c) := by
  unfold State.accept
  extract_lets +onlyGivenNames y0
  clear_value y0
  extract_lets +onlyGivenNames y1
  refine KeepsSum.ite ?_ ?_
  · refine KeepsSum.ite ?_ ?_
    · exact KeepsSum.inr (Keeps.refl _ _)
    split
    · rename_i z2 z3
      exact KeepsSum.inr (Keeps.step (State.poolEmpty_keeps ..) (Keeps.refl _ _))
    rename_i z4 z5 z6 z7
    extract_lets +onlyGivenNames y8
    have h9 : Keeps State.accept_mask s y8 := Keeps.set_cmds (Keeps.ofOptSnd z7 (KeepsOptSnd.step (State.takeBuf_keeps _ _ _ _)
        (Keeps.refl _ _)))
    clear_value y8
    refine KeepsSum.inl (Keeps.ite ?_ ?_)
    · exact Keeps.step (State.acceptWrite_keeps ..) h9
    exact h9
  extract_lets +onlyGivenNames y10
  clear_value y10
  extract_lets +onlyGivenNames y11
  have h12 : Keeps State.accept_mask s y11 := Keeps.set_cmds (Keeps.refl _ _)
  clear_value y11
  refine KeepsSum.inl (Keeps.ite ?_ ?_)
  · dsimp only
    split
    · rename_i z13 z14
      exact Keeps.step (State.toDevice_keeps ..) (Keeps.step (State.acceptWrite_keeps ..) h12)
    rename_i z15
    exact Keeps.step (State.acceptWrite_keeps ..) h12
  exact h12

end Sys2Proof.Machine
end

