-- ==== Sys2Proof/Laws/KeepsAts.lean ====
section
/-!
SUPPORT. What the operations of Machine/Ats.lean leave as it was, one lemma for each.
-/

set_option Elab.async false

namespace Sys2Proof.Machine

def State.xlatLater_mask : Nat := partBits [.hep]

theorem State.xlatLater_keeps (s : State) (p : Option Nat) (a n : Nat) : Keeps State.xlatLater_mask s (State.xlatLater s p a n)
    := by
  unfold State.xlatLater
  refine Keeps.ite ?_ ?_
  · exact Keeps.refl _ _
  exact Keeps.set_hep (Keeps.refl _ _)

def State.askRange_mask : Nat := State.xlatLater_mask ||| State.emit_mask ||| fieldBits [Reg.HEP_XLAT_CNT_COUNT] ||| partBits
    [.hep]

theorem State.askRange_keeps (s : State) (p : Option Nat) (a n : Nat) : Keeps State.askRange_mask s (State.askRange s p a n) :=
    by
  unfold State.askRange
  refine Keeps.ite ?_ ?_
  · exact Keeps.refl _ _
  split
  · rename_i z0 z1
    exact Keeps.refl _ _
  rename_i z2 z3 z4
  extract_lets +onlyGivenNames y5
  clear_value y5
  refine Keeps.ite ?_ ?_
  · exact Keeps.refl _ _
  refine Keeps.ite ?_ ?_
  · exact Keeps.step (State.xlatLater_keeps ..) (Keeps.refl _ _)
  extract_lets +onlyGivenNames y6
  clear_value y6
  extract_lets +onlyGivenNames y7
  have h8 : Keeps State.askRange_mask s y7 := Keeps.set_hep (Keeps.refl _ _)
  clear_value y7
  exact Keeps.step (State.emit_keeps ..) (Keeps.bump h8)

def State.retryXlat_mask : Nat := State.askRange_mask ||| partBits [.hep]

theorem State.retryXlat_keeps (s : State) : Keeps State.retryXlat_mask s (State.retryXlat s) := by
  unfold State.retryXlat
  refine Keeps.foldl (fun t0 a1 => ?_) ?_
  · exact Keeps.step (State.askRange_keeps ..) (Keeps.refl _ _)
  exact Keeps.set_hep (Keeps.refl _ _)

def State.hostWrites_mask : Nat := State.emit_mask

theorem State.hostWrites_keeps (s : State) (p : Option Nat) (relaxed : Bool) (a : Nat) (bs : List Nat) : Keeps
    State.hostWrites_mask s (State.hostWrites s p relaxed a bs) := by
  unfold State.hostWrites
  refine KeepsFst.get (KeepsFst.foldl (fun t0 a1 => ?_) ?_)
  · exact KeepsFst.mk (Keeps.step (State.emit_keeps ..) (Keeps.refl _ _))
  exact KeepsFst.mk (Keeps.refl _ _)

def State.hostReads_mask : Nat := State.emit_mask

theorem State.hostReads_keeps (s : State) (p : Option Nat) (relaxed : Bool) (a n : Nat) : Keeps State.hostReads_mask s
    (State.hostReads s p relaxed a n) := by
  unfold State.hostReads
  refine Keeps.foldl (fun t0 a1 => ?_) ?_
  · exact Keeps.step (State.emit_keeps ..) (Keeps.refl _ _)
  exact Keeps.refl _ _

def State.zeroReads_mask : Nat := State.emit_mask

theorem State.zeroReads_keeps (s : State) (p : Option Nat) (a : Nat) : Keeps State.zeroReads_mask s (State.zeroReads s p a) :=
    by
  unfold State.zeroReads
  refine Keeps.foldl (fun t0 a1 => ?_) ?_
  · exact Keeps.step (State.emit_keeps ..) (Keeps.refl _ _)
  exact Keeps.refl _ _

def State.pretrans_mask : Nat := State.askRange_mask

theorem State.pretrans_keeps (s : State) (q tag : Nat) : Keeps State.pretrans_mask s (State.pretrans s q tag) := by
  unfold State.pretrans
  refine Keeps.ite ?_ ?_
  · exact Keeps.refl _ _
  split
  · rename_i z0 z1
    exact Keeps.refl _ _
  rename_i z2 z3 z4
  refine Keeps.foldl (fun t5 a6 => ?_) ?_
  · exact Keeps.step (State.askRange_keeps ..) (Keeps.refl _ _)
  exact Keeps.refl _ _

def State.askFor_mask : Nat := State.askRange_mask

theorem State.askFor_keeps (s : State) (c : Cmd) : Keeps State.askFor_mask s (State.askFor s c) := by
  unfold State.askFor
  refine Keeps.foldl (fun t0 a1 => ?_) ?_
  · exact Keeps.step (State.askRange_keeps ..) (Keeps.refl _ _)
  exact Keeps.refl _ _

def State.atcPut_mask : Nat := State.xlatLater_mask ||| partBits [.hep]

theorem State.atcPut_keeps (s : State) (x : Atc) : Keeps State.atcPut_mask s (State.atcPut s x) := by
  unfold State.atcPut
  extract_lets +onlyGivenNames y0
  clear_value y0
  refine Keeps.ite ?_ ?_
  · exact Keeps.set_hep (Keeps.refl _ _)
  extract_lets +onlyGivenNames y1
  clear_value y1
  split
  · rename_i z2 z3
    exact Keeps.step (State.xlatLater_keeps ..) (Keeps.refl _ _)
  rename_i z4 z5 z6
  exact Keeps.set_hep (Keeps.refl _ _)

def State.useHost_mask : Nat := State.askRange_mask ||| partBits [.hep]

theorem State.useHost_keeps (s : State) (p : Option Nat) (a n : Nat) : Keeps State.useHost_mask s (State.useHost s p a n) := by
  unfold State.useHost
  extract_lets +onlyGivenNames y0
  clear_value y0
  exact Keeps.step (State.askRange_keeps ..) (Keeps.set_hep (Keeps.refl _ _))

def State.xlatFault_mask : Nat := State.raise_mask ||| fieldBits [Reg.HEP_FAULT_INFO_VALID, Reg.HEP_FAULT_INFO_PASID,
    Reg.HEP_FAULT_ADDR_ADDR]

theorem State.xlatFault_keeps (s : State) (q tag pasid addr : Nat) : Keeps State.xlatFault_mask s (State.xlatFault s q tag
    pasid addr) := by
  unfold State.xlatFault
  extract_lets +onlyGivenNames y0
  have h1 : Keeps State.xlatFault_mask s y0 := by
    unfold y0
    refine Keeps.ite ?_ ?_
    · exact Keeps.refl _ _
    exact Keeps.set1 (Keeps.wr (Keeps.wr (Keeps.refl _ _)))
  clear_value y0
  exact Keeps.step (State.raise_keeps ..) h1

end Sys2Proof.Machine
end

