-- ==== Sys2Proof/Laws/KeepsQueues.lean ====
section
/-!
SUPPORT. What the operations of Machine/Queues.lean leave as it was, one lemma for each.
-/

set_option Elab.async false

namespace Sys2Proof.Machine

def State.badDoorbell_mask : Nat := State.raiseWin_mask ||| fieldBits [Reg.CMDQ_DB_ERR_VALID, Reg.CMDQ_DB_ERR_SQ]

theorem State.badDoorbell_keeps (s : State) (q v : Nat) : Keeps State.badDoorbell_mask s (State.badDoorbell s q v) := by
  unfold State.badDoorbell
  extract_lets +onlyGivenNames y0
  have h1 : Keeps State.badDoorbell_mask s y0 := by
    unfold y0
    refine Keeps.ite ?_ ?_
    · exact Keeps.refl _ _
    exact Keeps.set1 (Keeps.wr (Keeps.refl _ _))
  clear_value y0
  exact Keeps.step (State.raiseWin_keeps ..) h1

def State.putCq_mask : Nat := partBits [.cqs]

theorem State.putCq_keeps (s : State) (i : Nat) (x : Cq) : Keeps State.putCq_mask s (State.putCq s i x) := by
  unfold State.putCq
  exact Keeps.set_cqs (Keeps.refl _ _)

def State.putSq_mask : Nat := partBits [.sqs]

theorem State.putSq_keeps (s : State) (q : Nat) (x : Sq) : Keeps State.putSq_mask s (State.putSq s q x) := by
  unfold State.putSq
  exact Keeps.set_sqs (Keeps.refl _ _)

def execDoorbellWrite_mask : Nat := State.badDoorbell_mask ||| State.putSq_mask ||| State.putCq_mask

theorem execDoorbellWrite_keeps (q : BitVec 16) (v : BitVec 64) (s : State) : KeepsRes execDoorbellWrite_mask s
    (execDoorbellWrite q v s) := by
  unfold execDoorbellWrite
  extract_lets +onlyGivenNames y0
  clear_value y0
  extract_lets +onlyGivenNames y1
  clear_value y1
  extract_lets +onlyGivenNames y2
  clear_value y2
  split
  · rename_i z3 z4
    exact KeepsRes.next (Keeps.step (State.badDoorbell_keeps ..) (Keeps.refl _ _))
  rename_i z5 z6 z7
  split
  · rename_i z8 z9
    exact KeepsRes.next (Keeps.step (State.badDoorbell_keeps ..) (Keeps.refl _ _))
  rename_i z10 z11 z12
  refine KeepsRes.ite ?_ ?_
  · exact KeepsRes.next (Keeps.step (State.badDoorbell_keeps ..) (Keeps.refl _ _))
  extract_lets +onlyGivenNames y13
  have h14 : Keeps execDoorbellWrite_mask s y13 := by
    unfold y13
    refine Keeps.ite ?_ ?_
    · exact Keeps.step (State.putSq_keeps ..) (Keeps.refl _ _)
    exact Keeps.refl _ _
  clear_value y13
  refine KeepsRes.next (Keeps.ite ?_ ?_)
  · exact Keeps.step (State.putCq_keeps ..) h14
  exact h14

def State.refuse_mask : Nat := State.putCq_mask ||| partBits [.cmds]

theorem State.refuse_keeps (s : State) (c : Cmd) (status field : Nat) : Keeps State.refuse_mask s (State.refuse s c status
    field) := by
  unfold State.refuse
  extract_lets +onlyGivenNames y0
  have h1 : Keeps State.refuse_mask s y0 := Keeps.set_cmds (Keeps.refl _ _)
  clear_value y0
  split
  · rename_i z2 z3
    exact h1
  rename_i z4 z5 z6
  exact Keeps.step (State.putCq_keeps ..) h1

def execCommandFetch_mask : Nat := State.emit_mask ||| State.putSq_mask ||| State.refuse_mask ||| State.accept_mask |||
    State.pretrans_mask ||| State.beginTrans_mask ||| partBits [.cmdSeq, .rrGroup, .rrQueue, .rrLeft]

theorem execCommandFetch_keeps (pkt : BitVec 512) (s : State) : KeepsRes execCommandFetch_mask s (execCommandFetch pkt s) := by
  unfold execCommandFetch
  refine KeepsRes.ite ?_ ?_
  · exact KeepsRes.next (Keeps.refl _ _)
  split
  · rename_i z0 z1
    exact KeepsRes.next (Keeps.refl _ _)
  rename_i z2 z3 z4 z5
  split
  · rename_i z6 z7
    exact KeepsRes.next (Keeps.refl _ _)
  rename_i z8 z9 z10
  extract_lets +onlyGivenNames y11
  clear_value y11
  extract_lets +onlyGivenNames y12
  clear_value y12
  extract_lets +onlyGivenNames y13
  clear_value y13
  extract_lets +onlyGivenNames y14
  clear_value y14
  extract_lets +onlyGivenNames y15
  have h16 : Keeps execCommandFetch_mask s y15 := Keeps.step (State.emit_keeps ..) (Keeps.refl _ _)
  clear_value y15
  extract_lets +onlyGivenNames y17
  have h18 : Keeps execCommandFetch_mask s y17 := Keeps.step (State.putSq_keeps ..) h16
  clear_value y17
  extract_lets +onlyGivenNames y19
  have h20 : Keeps execCommandFetch_mask s y19 := Keeps.set_cmdSeq_rrGroup_rrQueue_rrLeft h18
  clear_value y19
  refine KeepsRes.ite ?_ ?_
  · exact KeepsRes.next (Keeps.step (State.refuse_keeps ..) h20)
  split
  · rename_i z21 z22 z23 z24
    exact KeepsRes.next (Keeps.step (State.refuse_keeps ..) h20)
  rename_i z25 z26
  split
  · rename_i z27 z28 z29 z30
    exact KeepsRes.next (Keeps.step (State.refuse_keeps ..) (Keeps.ofInr z30 (KeepsSum.step (State.accept_keeps ..) h20)))
  rename_i z31 z32 z33
  extract_lets +onlyGivenNames y34
  have h35 : Keeps execCommandFetch_mask s y34 := Keeps.step (State.pretrans_keeps ..) (Keeps.ofInl z33 (KeepsSum.step
      (State.accept_keeps ..) h20))
  clear_value y34
  refine KeepsRes.next (Keeps.ite ?_ ?_)
  · exact Keeps.step (State.beginTrans_keeps ..) h35
  exact h35

def execHostCacheError_mask : Nat := State.putSq_mask ||| State.xlatFault_mask ||| State.raise_mask ||| State.updCmd_mask |||
    State.putCq_mask ||| State.fail_mask

theorem execHostCacheError_keeps (q : BitVec 16) (tag : Option (BitVec 12)) (s : State) : KeepsRes execHostCacheError_mask s
    (execHostCacheError q tag s) := by
  unfold execHostCacheError
  split
  · rename_i z0
    extract_lets +onlyGivenNames y1
    clear_value y1
    split
    · rename_i z2 z3 z4
      exact KeepsRes.next (Keeps.step (State.putSq_keeps ..) (Keeps.step (State.xlatFault_keeps ..) (Keeps.refl _ _)))
    rename_i z5 z6
    exact KeepsRes.next (Keeps.step (State.raise_keeps ..) (Keeps.refl _ _))
  rename_i z7 z8
  split
  · rename_i z9 z10
    exact KeepsRes.next (Keeps.refl _ _)
  rename_i z11 z12 z13
  refine KeepsRes.ite ?_ ?_
  · extract_lets +onlyGivenNames y14
    have h15 : Keeps execHostCacheError_mask s y14 := Keeps.step (State.updCmd_keeps ..) (Keeps.refl _ _)
    clear_value y14
    split
    · rename_i z16 z17
      exact KeepsRes.next h15
    rename_i z18 z19 z20
    exact KeepsRes.next (Keeps.step (State.putCq_keeps ..) h15)
  exact KeepsRes.next (Keeps.step (State.fail_keeps ..) (Keeps.refl _ _))

def State.stopWrite_mask : Nat := State.finish_mask ||| State.fallBack_mask

theorem State.stopWrite_keeps (s : State) (c : Cmd) (status a : Nat) : Keeps State.stopWrite_mask s (State.stopWrite s c status
    a) := by
  unfold State.stopWrite
  extract_lets +onlyGivenNames y0
  clear_value y0
  extract_lets +onlyGivenNames y1
  have h2 : Keeps State.stopWrite_mask s y1 := Keeps.step (State.finish_keeps ..) (Keeps.refl _ _)
  clear_value y1
  split
  · rename_i z3
    exact h2
  rename_i z4 z5 z6
  exact Keeps.step (State.fallBack_keeps ..) h2

def State.cancel_mask : Nat := State.stopWrite_mask ||| State.fail_mask

theorem State.cancel_keeps (s : State) (c : Cmd) (status : Nat) : Keeps State.cancel_mask s (State.cancel s c status) := by
  unfold State.cancel
  refine Keeps.ite ?_ ?_
  · exact Keeps.step (State.stopWrite_keeps ..) (Keeps.refl _ _)
  exact Keeps.step (State.fail_keeps ..) (Keeps.refl _ _)

def State.forward_mask : Nat := State.updCmd_mask ||| State.ringSend_mask

theorem State.forward_keeps (s : State) (c : Cmd) (cell : Nat) : Keeps State.forward_mask s (State.forward s c cell) := by
  unfold State.forward
  extract_lets +onlyGivenNames y0
  clear_value y0
  extract_lets +onlyGivenNames y1
  have h2 : Keeps State.forward_mask s y1 := Keeps.step (State.updCmd_keeps ..) (Keeps.refl _ _)
  clear_value y1
  exact Keeps.step (State.ringSend_keeps ..) h2

def execCommandStart_mask : Nat := State.updCmd_mask ||| State.settle_mask ||| State.cancel_mask ||| State.askFor_mask |||
    State.forward_mask ||| State.ringSend_mask

theorem execCommandStart_keeps (q : BitVec 20) (tag : BitVec 12) (s : State) : KeepsRes execCommandStart_mask s
    (execCommandStart q tag s) := by
  unfold execCommandStart
  split
  · rename_i z0 z1
    exact KeepsRes.next (Keeps.refl _ _)
  rename_i z2 z3 z4
  refine KeepsRes.ite ?_ ?_
  · exact KeepsRes.next (Keeps.refl _ _)
  extract_lets +onlyGivenNames y5
  have h6 : Keeps execCommandStart_mask s y5 := Keeps.step (State.updCmd_keeps ..) (Keeps.refl _ _)
  clear_value y5
  refine KeepsRes.ite ?_ ?_
  · exact KeepsRes.next h6
  split
  · rename_i z7 z8
    refine KeepsRes.ite ?_ ?_
    · exact KeepsRes.next (Keeps.step (State.settle_keeps ..) (Keeps.step (State.cancel_keeps ..) h6))
    exact KeepsRes.next (Keeps.step (State.updCmd_keeps ..) (Keeps.step (State.askFor_keeps ..) h6))
  · rename_i z9 z10 z11
    exact KeepsRes.next (Keeps.step (State.settle_keeps ..) (Keeps.step (State.cancel_keeps ..) h6))
  · rename_i z12 z13 z14
    refine KeepsRes.ite ?_ ?_
    · exact KeepsRes.next (Keeps.step (State.settle_keeps ..) (Keeps.step (State.cancel_keeps ..) h6))
    refine KeepsRes.ite ?_ ?_
    · exact KeepsRes.next (Keeps.step (State.updCmd_keeps ..) h6)
    exact KeepsRes.next (Keeps.step (State.forward_keeps ..) h6)
  rename_i z15 z16 z17
  refine KeepsRes.ite ?_ ?_
  · exact KeepsRes.next (Keeps.step (State.settle_keeps ..) (Keeps.step (State.cancel_keeps ..) h6))
  refine KeepsRes.ite ?_ ?_
  · exact KeepsRes.next h6
  exact KeepsRes.next (Keeps.step (State.ringSend_keeps ..) (Keeps.step (State.updCmd_keeps ..) h6))

def State.start_mask : Nat := State.updCmd_mask

theorem State.start_keeps (s : State) (c : Cmd) : Keeps State.start_mask s (State.start s c) := by
  unfold State.start
  exact Keeps.step (State.updCmd_keeps ..) (Keeps.refl _ _)

def execNop_mask : Nat := State.fail_mask

theorem execNop_keeps (q : BitVec 20) (tag : BitVec 12) (s : State) : KeepsRes execNop_mask s (execNop q tag s) := by
  unfold execNop
  split
  · rename_i z0 z1
    exact KeepsRes.next (Keeps.refl _ _)
  rename_i z2 z3 z4
  exact KeepsRes.next (Keeps.step (State.fail_keeps ..) (Keeps.refl _ _))

def State.dropAsked_mask : Nat := partBits [.lib]

theorem State.dropAsked_keeps (s : State) (c : Cmd) : Keeps State.dropAsked_mask s (State.dropAsked s c) := by
  unfold State.dropAsked
  exact Keeps.set_lib (Keeps.refl _ _)

def State.dropSession_mask : Nat := partBits [.firm]

theorem State.dropSession_keeps (s : State) : Keeps State.dropSession_mask s (State.dropSession s) := by
  unfold State.dropSession
  exact Keeps.set_firm (Keeps.refl _ _)

def State.abortCmd_mask : Nat := State.ringSend_mask ||| State.dropSession_mask ||| State.cancel_mask ||| State.updCmd_mask |||
    State.leaveLadders_mask ||| State.stopWrite_mask ||| State.fail_mask ||| State.dropAsked_mask ||| partBits [.tb]

theorem State.abortCmd_keeps (s : State) (c : Cmd) : KeepsOpt State.abortCmd_mask s (State.abortCmd s c) := by
  unfold State.abortCmd
  refine KeepsOpt.ite ?_ ?_
  · exact KeepsOpt.none
  refine KeepsOpt.ite ?_ ?_
  · exact KeepsOpt.some (Keeps.step (State.ringSend_keeps ..) (Keeps.refl _ _))
  refine KeepsOpt.ite ?_ ?_
  · refine KeepsOpt.some (Keeps.ite ?_ ?_)
    · exact Keeps.step (State.dropSession_keeps ..) (Keeps.step (State.cancel_keeps ..) (Keeps.refl _ _))
    exact Keeps.step (State.cancel_keeps ..) (Keeps.refl _ _)
  refine KeepsOpt.ite ?_ ?_
  · refine KeepsOpt.ite ?_ ?_
    · exact KeepsOpt.none
    extract_lets +onlyGivenNames y0
    clear_value y0
    exact KeepsOpt.some (Keeps.step (State.updCmd_keeps ..) (Keeps.step (State.leaveLadders_keeps ..) (Keeps.refl _ _)))
  refine KeepsOpt.ite ?_ ?_
  · refine KeepsOpt.ite ?_ ?_
    · exact KeepsOpt.some (Keeps.step (State.stopWrite_keeps ..) (Keeps.refl _ _))
    exact KeepsOpt.none
  refine KeepsOpt.ite ?_ ?_
  · exact KeepsOpt.some (Keeps.step (State.fail_keeps ..) (Keeps.refl _ _))
  refine KeepsOpt.ite ?_ ?_
  · refine KeepsOpt.ite ?_ ?_
    · exact KeepsOpt.some (Keeps.step (State.fail_keeps ..) (Keeps.refl _ _))
    exact KeepsOpt.none
  refine KeepsOpt.ite ?_ ?_
  · refine KeepsOpt.ite ?_ ?_
    · exact KeepsOpt.none
    exact KeepsOpt.some (Keeps.step (State.fail_keeps ..) (Keeps.step (State.dropAsked_keeps ..) (Keeps.refl _ _)))
  refine KeepsOpt.ite ?_ ?_
  · extract_lets +onlyGivenNames y1
    unfold y1
    extract_lets +onlyGivenNames y2
    have h3 : Keeps State.abortCmd_mask s y2 := Keeps.set_tb (Keeps.refl _ _)
    clear_value y2
    exact KeepsOpt.some (Keeps.step (State.fail_keeps ..) h3)
  exact KeepsOpt.none

def execAbort_mask : Nat := State.fail_mask ||| State.settle_mask ||| State.updCmd_mask ||| State.start_mask |||
    State.abortCmd_mask

theorem execAbort_keeps (q : BitVec 20) (tag : BitVec 12) (s : State) : KeepsRes execAbort_mask s (execAbort q tag s) := by
  unfold execAbort
  split
  · rename_i z0 z1
    exact KeepsRes.next (Keeps.refl _ _)
  rename_i z2 z3 z4
  extract_lets +onlyGivenNames y5
  clear_value y5
  split
  · rename_i z6 z7
    exact KeepsRes.next (Keeps.step (State.fail_keeps ..) (Keeps.refl _ _))
  rename_i z8 z9 z10
  refine KeepsRes.ite ?_ ?_
  · exact KeepsRes.next (Keeps.step (State.fail_keeps ..) (Keeps.refl _ _))
  split
  · rename_i z11 z12
    exact KeepsRes.next (Keeps.step (State.fail_keeps ..) (Keeps.refl _ _))
  rename_i z13 z14 z15
  exact KeepsRes.next (Keeps.step (State.settle_keeps ..) (Keeps.step (State.updCmd_keeps ..) (Keeps.step (State.start_keeps
      ..) (Keeps.ofOpt z15 (KeepsOpt.step (State.abortCmd_keeps _ _) (Keeps.refl _ _))))))

def State.entryWrite_mask : Nat := State.emit_mask

theorem State.entryWrite_keeps (s : State) (x : Cq) (es : List Entry) : Keeps State.entryWrite_mask s (State.entryWrite s x es)
    := by
  unfold State.entryWrite
  extract_lets +onlyGivenNames y0
  clear_value y0
  exact Keeps.step (State.emit_keeps ..) (Keeps.refl _ _)

def State.entryReads_mask : Nat := State.zeroReads_mask

theorem State.entryReads_keeps (s : State) (es : List Entry) : Keeps State.entryReads_mask s (State.entryReads s es) := by
  unfold State.entryReads
  extract_lets +onlyGivenNames y0
  clear_value y0
  split
  · rename_i z1 z2 z3
    exact Keeps.step (State.zeroReads_keeps ..) (Keeps.refl _ _)
  rename_i z4 z5
  exact Keeps.refl _ _

def execCompletionWrite_mask : Nat := State.entryWrite_mask ||| State.entryReads_mask ||| State.settleAll_mask |||
    State.putCq_mask ||| partBits [.cmds]

theorem execCompletionWrite_keeps (i : Fin 4096) (s : State) : KeepsRes execCompletionWrite_mask s (execCompletionWrite i s) :=
    by
  unfold execCompletionWrite
  split
  · rename_i z0 z1
    exact KeepsRes.next (Keeps.refl _ _)
  rename_i z2 z3 z4
  refine KeepsRes.ite ?_ ?_
  · exact KeepsRes.next (Keeps.refl _ _)
  extract_lets +onlyGivenNames y5
  clear_value y5
  extract_lets +onlyGivenNames y6
  have h7 : Keeps execCompletionWrite_mask s y6 := Keeps.step (State.entryWrite_keeps ..) (Keeps.step (State.entryReads_keeps
      ..) (Keeps.refl _ _))
  clear_value y6
  extract_lets +onlyGivenNames y8
  clear_value y8
  extract_lets +onlyGivenNames y9
  clear_value y9
  refine KeepsRes.next (Keeps.step (State.settleAll_keeps ..) ?_)
  extract_lets +onlyGivenNames y10
  have h11 : Keeps execCompletionWrite_mask s y10 := Keeps.step (State.putCq_keeps ..) h7
  clear_value y10
  exact Keeps.set_cmds h11

def execCqFullTimeout_mask : Nat := State.advanceTo_mask ||| State.raise_mask ||| State.putCq_mask

theorem execCqFullTimeout_keeps (i : Fin 4096) (s : State) : KeepsRes execCqFullTimeout_mask s (execCqFullTimeout i s) := by
  unfold execCqFullTimeout
  split
  · rename_i z0 z1
    exact KeepsRes.next (Keeps.refl _ _)
  rename_i z2 z3 z4
  split
  · rename_i z5 z6
    exact KeepsRes.next (Keeps.refl _ _)
  rename_i z7 z8 z9
  extract_lets +onlyGivenNames y10
  have h11 : Keeps execCqFullTimeout_mask s y10 := Keeps.step (State.advanceTo_keeps ..) (Keeps.refl _ _)
  clear_value y10
  exact KeepsRes.next (Keeps.step (State.raise_keeps ..) (Keeps.step (State.putCq_keeps ..) h11))

def State.setPending_mask : Nat := fieldBits [Reg.MSIX_PBA_PENDING]

theorem State.setPending_keeps (s : State) (v : Nat) (b : Bool) : Keeps State.setPending_mask s (State.setPending s v b) := by
  unfold State.setPending
  exact Keeps.wr (Keeps.refl _ _)

def State.sendVector_mask : Nat := State.emit_mask

theorem State.sendVector_keeps (s : State) (v : Nat) : Keeps State.sendVector_mask s (State.sendVector s v) := by
  unfold State.sendVector
  exact Keeps.step (State.emit_keeps ..) (Keeps.refl _ _)

def State.msix_mask : Nat := State.setPending_mask ||| State.sendVector_mask

theorem State.msix_keeps (s : State) (v : Nat) : Keeps State.msix_mask s (State.msix s v) := by
  unfold State.msix
  refine Keeps.ite ?_ ?_
  · exact Keeps.refl _ _
  refine Keeps.ite ?_ ?_
  · exact Keeps.step (State.setPending_keeps ..) (Keeps.refl _ _)
  exact Keeps.step (State.sendVector_keeps ..) (Keeps.refl _ _)

def execMsixSend_mask : Nat := State.msix_mask ||| State.putCq_mask

theorem execMsixSend_keeps (i : Fin 4096) (s : State) : KeepsRes execMsixSend_mask s (execMsixSend i s) := by
  unfold execMsixSend
  split
  · rename_i z0 z1
    exact KeepsRes.next (Keeps.refl _ _)
  rename_i z2 z3 z4
  refine KeepsRes.ite ?_ ?_
  · exact KeepsRes.next (Keeps.step (State.msix_keeps ..) (Keeps.step (State.putCq_keeps ..) (Keeps.refl _ _)))
  exact KeepsRes.next (Keeps.refl _ _)

def State.flushPending_mask : Nat := State.setPending_mask ||| State.sendVector_mask

theorem State.flushPending_keeps (s : State) : Keeps State.flushPending_mask s (State.flushPending s) := by
  unfold State.flushPending
  refine Keeps.foldl (fun t0 a1 => ?_) ?_
  · refine Keeps.ite ?_ ?_
    · exact Keeps.step (State.setPending_keeps ..) (Keeps.step (State.sendVector_keeps ..) (Keeps.refl _ _))
    exact Keeps.refl _ _
  exact Keeps.refl _ _

def execMsixUnmask_mask : Nat := State.flushPending_mask ||| fieldBits [Reg.MSIX_VCTRL_MASK] ||| partBits [.hep]

theorem execMsixUnmask_keeps (v : Option (Fin 2048)) (s : State) : KeepsRes execMsixUnmask_mask s (execMsixUnmask v s) := by
  unfold execMsixUnmask
  split
  · rename_i z0 z1
    exact KeepsRes.next (Keeps.step (State.flushPending_keeps ..) (Keeps.clr (Keeps.refl _ _)))
  rename_i z2
  exact KeepsRes.next (Keeps.step (State.flushPending_keeps ..) (Keeps.set_hep (Keeps.refl _ _)))

def State.queueOp_mask : Nat := fieldBits [Reg.CMDQ_OP_OP]

theorem State.queueOp_keeps {m : Nat} (s : State) (op : Nat) (f : State → State) (hf : ∀ t, Keeps m t (f t))
    (hm : State.queueOp_mask ||| m = m := by decide +kernel) : KeepsRes m s (s.queueOp op f) := by
  unfold State.queueOp
  have hx : Keeps m s (s.wr Reg.CMDQ_OP_OP 0 op) := Keeps.wr (Keeps.refl _ _) (testBit_super hm (by decide +kernel))
  exact KeepsRes.ite (KeepsRes.next hx) (KeepsRes.next (Keeps.trans hx (hf _)))

def State.opResult_mask : Nat := fieldBits [Reg.CMDQ_OP_RESULT]

theorem State.opResult_keeps (s : State) (r : Nat) : Keeps State.opResult_mask s (State.opResult s r) := by
  unfold State.opResult
  exact Keeps.wr (Keeps.refl _ _)

def execCreateCq_mask : Nat := State.queueOp_mask ||| State.opResult_mask ||| State.putCq_mask

theorem execCreateCq_keeps (s : State) : KeepsRes execCreateCq_mask s (execCreateCq s) := by
  unfold execCreateCq
  refine KeepsRes.trans ?_ (State.queueOp_keeps _ _ _ (fun t0 => ?_))
  · exact Keeps.refl _ _
  refine Keeps.ite ?_ ?_
  · exact Keeps.step (State.opResult_keeps ..) (Keeps.refl _ _)
  refine Keeps.ite ?_ ?_
  · exact Keeps.step (State.opResult_keeps ..) (Keeps.refl _ _)
  exact Keeps.step (State.opResult_keeps ..) (Keeps.step (State.putCq_keeps ..) (Keeps.refl _ _))

def execDeleteCq_mask : Nat := State.queueOp_mask ||| State.opResult_mask ||| partBits [.cqs]

theorem execDeleteCq_keeps (s : State) : KeepsRes execDeleteCq_mask s (execDeleteCq s) := by
  unfold execDeleteCq
  refine KeepsRes.trans ?_ (State.queueOp_keeps _ _ _ (fun t0 => ?_))
  · exact Keeps.refl _ _
  refine Keeps.ite ?_ ?_
  · exact Keeps.step (State.opResult_keeps ..) (Keeps.refl _ _)
  refine Keeps.ite ?_ ?_
  · exact Keeps.step (State.opResult_keeps ..) (Keeps.refl _ _)
  exact Keeps.step (State.opResult_keeps ..) (Keeps.set_cqs (Keeps.refl _ _))

def execCreateSq_mask : Nat := State.queueOp_mask ||| State.opResult_mask ||| State.putSq_mask

theorem execCreateSq_keeps (s : State) : KeepsRes execCreateSq_mask s (execCreateSq s) := by
  unfold execCreateSq
  refine KeepsRes.trans ?_ (State.queueOp_keeps _ _ _ (fun t0 => ?_))
  · exact Keeps.refl _ _
  refine Keeps.ite ?_ ?_
  · exact Keeps.step (State.opResult_keeps ..) (Keeps.refl _ _)
  refine Keeps.ite ?_ ?_
  · exact Keeps.step (State.opResult_keeps ..) (Keeps.refl _ _)
  refine Keeps.ite ?_ ?_
  · exact Keeps.step (State.opResult_keeps ..) (Keeps.refl _ _)
  exact Keeps.step (State.opResult_keeps ..) (Keeps.step (State.putSq_keeps ..) (Keeps.refl _ _))

def State.abortQueue_mask : Nat := State.abortCmd_mask

theorem State.abortQueue_keeps (s : State) (q : Nat) : KeepsFst State.abortQueue_mask s (State.abortQueue s q) := by
  unfold State.abortQueue
  refine KeepsFst.foldl (fun t0 a1 => ?_) ?_
  · split
    · rename_i z2 z3
      exact Keeps.refl _ _
    rename_i z4 z5 z6
    split
    · rename_i z7 z8 z9
      exact KeepsFst.mk (Keeps.ofOpt z9 (KeepsOpt.step (State.abortCmd_keeps _ _) (Keeps.refl _ _)))
    rename_i z10 z11
    exact Keeps.refl _ _
  exact KeepsFst.mk (Keeps.refl _ _)

def execDeleteSq_mask : Nat := State.queueOp_mask ||| State.opResult_mask ||| State.settle_mask ||| State.putSq_mask |||
    State.abortQueue_mask ||| fieldBits [Reg.CMDQ_OP_BUSY]

theorem execDeleteSq_keeps (s : State) : KeepsRes execDeleteSq_mask s (execDeleteSq s) := by
  unfold execDeleteSq
  refine KeepsRes.trans ?_ (State.queueOp_keeps _ _ _ (fun t0 => ?_))
  · exact Keeps.refl _ _
  split
  · rename_i z2 z3
    exact Keeps.step (State.opResult_keeps ..) (Keeps.refl _ _)
  rename_i z4 z5 z6
  split
  rename_i z7 z8 z9 z10
  refine Keeps.step (State.settle_keeps ..) (Keeps.set1 ?_)
  split
  · rename_i z11 z12 z13
    exact Keeps.step (State.putSq_keeps ..) (Keeps.ofFst z10 (KeepsFst.step (State.abortQueue_keeps ..) (Keeps.step
        (State.putSq_keeps ..) (Keeps.refl _ _))))
  rename_i z14 z15
  exact Keeps.ofFst z10 (KeepsFst.step (State.abortQueue_keeps ..) (Keeps.step (State.putSq_keeps ..) (Keeps.refl _ _)))

def execDeleteSqComplete_mask : Nat := State.opResult_mask ||| State.settleAll_mask ||| State.raise_mask ||| fieldBits
    [Reg.CMDQ_OP_BUSY] ||| partBits [.sqs, .bufs]

theorem execDeleteSqComplete_keeps (s : State) : KeepsRes execDeleteSqComplete_mask s (execDeleteSqComplete s) := by
  unfold execDeleteSqComplete
  split
  · rename_i z0 z1
    exact KeepsRes.next (Keeps.refl _ _)
  rename_i z2 z3 z4 z5
  refine KeepsRes.ite ?_ ?_
  · exact KeepsRes.next (Keeps.refl _ _)
  extract_lets +onlyGivenNames y6
  have h7 : Keeps execDeleteSqComplete_mask s y6 := Keeps.set_sqs_bufs (Keeps.refl _ _)
  clear_value y6
  extract_lets +onlyGivenNames y8
  have h9 : Keeps execDeleteSqComplete_mask s y8 := Keeps.step (State.opResult_keeps ..) (Keeps.clr (Keeps.step
      (State.settleAll_keeps ..) h7))
  clear_value y8
  refine KeepsRes.next (Keeps.ite ?_ ?_)
  · exact h9
  exact Keeps.step (State.raise_keeps ..) h9

def execSetGroup_mask : Nat := State.queueOp_mask ||| State.opResult_mask ||| partBits [.grps]

theorem execSetGroup_keeps (s : State) : KeepsRes execSetGroup_mask s (execSetGroup s) := by
  unfold execSetGroup
  refine KeepsRes.trans ?_ (State.queueOp_keeps _ _ _ (fun t0 => ?_))
  · exact Keeps.refl _ _
  extract_lets +onlyGivenNames y2
  clear_value y2
  extract_lets +onlyGivenNames y3
  clear_value y3
  refine Keeps.ite ?_ ?_
  · exact Keeps.step (State.opResult_keeps ..) (Keeps.refl _ _)
  refine Keeps.ite ?_ ?_
  · exact Keeps.step (State.opResult_keeps ..) (Keeps.refl _ _)
  extract_lets +onlyGivenNames y4
  clear_value y4
  exact Keeps.step (State.opResult_keeps ..) (Keeps.set_grps (Keeps.refl _ _))

def State.setPtr_mask : Nat := fieldBits [Reg.CMDQ_QPTR_TAIL, Reg.CMDQ_QPTR_HEAD]

theorem State.setPtr_keeps (s : State) (h t : Nat) : Keeps State.setPtr_mask s (State.setPtr s h t) := by
  unfold State.setPtr
  exact Keeps.wr (Keeps.wr (Keeps.refl _ _))

def execQueryCq_mask : Nat := State.queueOp_mask ||| State.opResult_mask ||| State.setPtr_mask ||| fieldBits
    [Reg.CMDQ_QCFG_IEN, Reg.CMDQ_QCFG_VECTOR, Reg.CMDQ_BASE_BASE, Reg.CMDQ_QCFG_LOW]

theorem execQueryCq_keeps (s : State) : KeepsRes execQueryCq_mask s (execQueryCq s) := by
  unfold execQueryCq
  refine KeepsRes.trans ?_ (State.queueOp_keeps _ _ _ (fun t0 => ?_))
  · exact Keeps.refl _ _
  split
  · rename_i z2 z3
    exact Keeps.step (State.opResult_keeps ..) (Keeps.refl _ _)
  rename_i z4 z5 z6
  extract_lets +onlyGivenNames y7
  have h8 : Keeps execQueryCq_mask t0 y7 := Keeps.wrB (Keeps.wr (Keeps.wr (Keeps.refl _ _)))
  clear_value y7
  exact Keeps.step (State.opResult_keeps ..) (Keeps.step (State.setPtr_keeps ..) (Keeps.wr h8))

def execQuerySq_mask : Nat := State.queueOp_mask ||| State.opResult_mask ||| State.setPtr_mask ||| fieldBits
    [Reg.CMDQ_QCFG_IEN, Reg.CMDQ_QCFG_VECTOR, Reg.CMDQ_BASE_BASE, Reg.CMDQ_QCFG2_ACCOUNT, Reg.CMDQ_QCFG2_QUOTA,
    Reg.CMDQ_QCFG_LOW]

theorem execQuerySq_keeps (s : State) : KeepsRes execQuerySq_mask s (execQuerySq s) := by
  unfold execQuerySq
  refine KeepsRes.trans ?_ (State.queueOp_keeps _ _ _ (fun t0 => ?_))
  · exact Keeps.refl _ _
  split
  · rename_i z2 z3
    exact Keeps.step (State.opResult_keeps ..) (Keeps.refl _ _)
  rename_i z4 z5 z6
  extract_lets +onlyGivenNames y7
  have h8 : Keeps execQuerySq_mask t0 y7 := Keeps.clr (Keeps.wr (Keeps.wr (Keeps.refl _ _)))
  clear_value y7
  extract_lets +onlyGivenNames y9
  have h10 : Keeps execQuerySq_mask t0 y9 := Keeps.wr (Keeps.wr (Keeps.wr h8))
  clear_value y9
  exact Keeps.step (State.opResult_keeps ..) (Keeps.step (State.setPtr_keeps ..) h10)

def execQueryGroup_mask : Nat := State.queueOp_mask ||| State.opResult_mask ||| fieldBits [Reg.CMDQ_QCFG_LOW,
    Reg.CMDQ_QCFG_IEN, Reg.CMDQ_QCFG_VECTOR, Reg.CMDQ_QCFG2_ACCOUNT, Reg.CMDQ_QCFG2_QUOTA]

theorem execQueryGroup_keeps (s : State) : KeepsRes execQueryGroup_mask s (execQueryGroup s) := by
  unfold execQueryGroup
  refine KeepsRes.trans ?_ (State.queueOp_keeps _ _ _ (fun t0 => ?_))
  · exact Keeps.refl _ _
  refine Keeps.ite ?_ ?_
  · exact Keeps.step (State.opResult_keeps ..) (Keeps.refl _ _)
  extract_lets +onlyGivenNames y2
  clear_value y2
  extract_lets +onlyGivenNames y3
  clear_value y3
  extract_lets +onlyGivenNames y4
  have h5 : Keeps execQueryGroup_mask t0 y4 := Keeps.wr (Keeps.clr (Keeps.wr (Keeps.refl _ _)))
  clear_value y4
  exact Keeps.step (State.opResult_keeps ..) (Keeps.wr (Keeps.wr h5))

end Sys2Proof.Machine
end

