-- ==== Sys2Proof/Laws/KeepsDataCmds.lean ====
section
/-!
SUPPORT. What the operations of Machine/DataCmds.lean leave as it was, one lemma for each.
-/

set_option Elab.async false

namespace Sys2Proof.Machine

def State.giveBuf_mask : Nat := State.updCmd_mask ||| State.queueMove_mask ||| partBits [.held]

theorem State.giveBuf_keeps (s : State) (c : Cmd) (k : Nat) : Keeps State.giveBuf_mask s (State.giveBuf s c k) := by
  unfold State.giveBuf
  extract_lets +onlyGivenNames y0
  clear_value y0
  extract_lets +onlyGivenNames y1
  have h2 : Keeps State.giveBuf_mask s y1 := Keeps.step (State.updCmd_keeps ..) (Keeps.refl _ _)
  clear_value y1
  refine Keeps.ite ?_ ?_
  · split
    · rename_i z3 z4
      exact h2
    rename_i z5 z6 z7
    extract_lets +onlyGivenNames y8
    have h9 : Keeps State.giveBuf_mask s y8 := Keeps.step (State.updCmd_keeps ..) h2
    clear_value y8
    refine Keeps.ite ?_ ?_
    · exact Keeps.step (State.queueMove_keeps ..) h9
    exact h9
  split
  · rename_i z10 z11
    exact h2
  rename_i z12 z13 z14
  extract_lets +onlyGivenNames y15
  clear_value y15
  extract_lets +onlyGivenNames y16
  have h17 : Keeps State.giveBuf_mask s y16 := Keeps.set_held h2
  clear_value y16
  exact Keeps.step (State.queueMove_keeps ..) h17

def State.serveHeld_mask : Nat := State.updCmd_mask ||| State.placeFrame_mask ||| State.ownRead_mask ||| State.tap_mask

theorem State.serveHeld_keeps (s : State) (sq tag : Nat) : Keeps State.serveHeld_mask s (State.serveHeld s sq tag) := by
  unfold State.serveHeld
  split
  · rename_i z0 z1
    exact Keeps.refl _ _
  rename_i z2 z3 z4
  refine Keeps.foldl (fun t5 a6 => ?_) ?_
  · split
    · rename_i z7 z8
      exact Keeps.refl _ _
    rename_i z9 z10 z11
    split
    · rename_i z12 z13
      exact Keeps.refl _ _
    rename_i z14 z15 z16
    refine Keeps.ite ?_ ?_
    · extract_lets +onlyGivenNames y17
      have h18 : Keeps State.serveHeld_mask t5 y17 := Keeps.step (State.updCmd_keeps ..) (Keeps.refl _ _)
      clear_value y17
      extract_lets +onlyGivenNames y19
      have h20 : Keeps State.serveHeld_mask t5 y19 := Keeps.step (State.placeFrame_keeps ..) (Keeps.step (State.ownRead_keeps
          ..) h18)
      clear_value y19
      refine Keeps.ite ?_ ?_
      · exact Keeps.step (State.tap_keeps ..) h20
      exact h20
    exact Keeps.refl _ _
  exact Keeps.refl _ _

def State.takeOne_mask : Nat := State.giveBuf_mask ||| State.takeBuf_mask ||| State.serveHeld_mask

theorem State.takeOne_keeps (s : State) (c : Cmd) : Keeps State.takeOne_mask s (State.takeOne s c) := by
  unfold State.takeOne
  split
  · rename_i z0 z1
    exact Keeps.refl _ _
  rename_i z2 z3 z4 z5
  extract_lets +onlyGivenNames y6
  have h7 : Keeps State.takeOne_mask s y6 := Keeps.step (State.giveBuf_keeps ..) (Keeps.ofOptSnd z5 (KeepsOptSnd.step
      (State.takeBuf_keeps _ _ _ _) (Keeps.refl _ _)))
  clear_value y6
  refine Keeps.ite ?_ ?_
  · exact h7
  exact Keeps.step (State.serveHeld_keeps ..) h7

def State.takeMany_mask : Nat := State.takeOne_mask

theorem State.takeMany_keeps : ∀ (n : Nat) (s : State) (sq tag : Nat), Keeps State.takeMany_mask s (State.takeMany n s sq tag)
    := by
  intro n
  induction n with
  | zero => intro s sq tag; exact Keeps.refl _ _
  | succ n ih =>
    intro s sq tag
    unfold State.takeMany
    split
    · rename_i z0 z1
      exact Keeps.refl _ _
    rename_i z2 z3 z4
    refine Keeps.ite ?_ ?_
    · exact Keeps.step (ih ..) (Keeps.step (State.takeOne_keeps ..) (Keeps.refl _ _)) (Nat.or_self _)
    exact Keeps.refl _ _

def State.wantBuffers_mask : Nat := State.takeMany_mask ||| partBits [.copyWait]

theorem State.wantBuffers_keeps (s : State) (sq tag : Nat) : Keeps State.wantBuffers_mask s (State.wantBuffers s sq tag) := by
  unfold State.wantBuffers
  extract_lets +onlyGivenNames y0
  have h1 : Keeps State.wantBuffers_mask s y0 := by
    unfold y0
    refine Keeps.ite ?_ ?_
    · exact Keeps.step (State.takeMany_keeps ..) (Keeps.refl _ _)
    exact Keeps.refl _ _
  clear_value y0
  split
  · rename_i z2 z3
    exact h1
  rename_i z4 z5 z6
  refine Keeps.ite ?_ ?_
  · exact Keeps.set_copyWait h1
  exact h1

def execCopyBufferGrant_mask : Nat := State.takeOne_mask ||| State.settle_mask ||| partBits [.copyWait]

theorem execCopyBufferGrant_keeps (s : State) : KeepsRes execCopyBufferGrant_mask s (execCopyBufferGrant s) := by
  unfold execCopyBufferGrant
  extract_lets +onlyGivenNames y0
  have h1 : Keeps execCopyBufferGrant_mask s y0 := Keeps.set_copyWait (Keeps.refl _ _)
  clear_value y0
  split
  · rename_i z2 z3
    exact KeepsRes.next h1
  rename_i z4 z5 z6
  split
  · rename_i z7 z8
    exact KeepsRes.next h1
  rename_i z9 z10 z11
  extract_lets +onlyGivenNames y12
  have h13 : Keeps execCopyBufferGrant_mask s y12 := Keeps.step (State.takeOne_keeps ..) h1
  clear_value y12
  extract_lets +onlyGivenNames y14
  clear_value y14
  exact KeepsRes.next (Keeps.step (State.settle_keeps ..) (Keeps.set_copyWait h13))

def State.keepList_mask : Nat := State.hostReads_mask ||| State.pretrans_mask ||| State.updCmd_mask

theorem State.keepList_keeps (s : State) (c : Cmd) (sgl : Option (List (Nat × Nat × Nat))) : Keeps State.keepList_mask s
    (State.keepList s c sgl) := by
  unfold State.keepList
  extract_lets +onlyGivenNames y0
  have h1 : Keeps State.keepList_mask s y0 := Keeps.step (State.hostReads_keeps ..) (Keeps.refl _ _)
  clear_value y0
  exact Keeps.step (State.pretrans_keeps ..) (Keeps.step (State.updCmd_keeps ..) h1)

def State.failStart_mask : Nat := State.finish_mask ||| State.fallBack_mask

theorem State.failStart_keeps (s : State) (c : Cmd) (status field : Nat) : Keeps State.failStart_mask s (State.failStart s c
    status field) := by
  unfold State.failStart
  refine Keeps.ite ?_ ?_
  · split
    · rename_i z0 z1
      exact Keeps.step (State.finish_keeps ..) (Keeps.refl _ _)
    rename_i z2 z3 z4 z5
    exact Keeps.step (State.fallBack_keeps ..) (Keeps.step (State.finish_keeps ..) (Keeps.refl _ _))
  exact Keeps.step (State.finish_keeps ..) (Keeps.refl _ _)

def State.wake_mask : Nat := State.spinTarget_mask ||| State.headMove_mask ||| State.mountGo_mask

theorem State.wake_keeps (s : State) (n : Nat) : Keeps State.wake_mask s (State.wake s n) := by
  unfold State.wake
  extract_lets +onlyGivenNames y0
  have h1 : Keeps State.wake_mask s y0 := by
    unfold y0
    refine Keeps.ite ?_ ?_
    · exact Keeps.step (State.spinTarget_keeps ..) (Keeps.refl _ _)
    exact Keeps.refl _ _
  clear_value y0
  extract_lets +onlyGivenNames y2
  have h3 : Keeps State.wake_mask s y2 := by
    unfold y2
    refine Keeps.foldl (fun t4 a5 => ?_) ?_
    · refine Keeps.ite ?_ ?_
      · exact Keeps.step (State.headMove_keeps ..) (Keeps.refl _ _)
      exact Keeps.refl _ _
    exact h1
  clear_value y2
  exact Keeps.step (State.mountGo_keeps ..) h3

def State.sendFar_mask : Nat := State.updCmd_mask ||| State.forward_mask ||| State.ringSend_mask ||| State.ownRead_mask |||
    State.wantBuffers_mask ||| State.giveBuf_mask

theorem State.sendFar_keeps (s : State) (c : Cmd) (cell : Nat) : Keeps State.sendFar_mask s (State.sendFar s c cell) := by
  unfold State.sendFar
  extract_lets +onlyGivenNames y0
  clear_value y0
  extract_lets +onlyGivenNames y1
  have h2 : Keeps State.sendFar_mask s y1 := Keeps.step (State.updCmd_keeps ..) (Keeps.refl _ _)
  clear_value y1
  extract_lets +onlyGivenNames y3
  have h4 : Keeps State.sendFar_mask s y3 := Keeps.step (State.forward_keeps ..) h2
  clear_value y3
  refine Keeps.ite ?_ ?_
  · refine Keeps.ite ?_ ?_
    · refine Keeps.foldl (fun t5 a6 => ?_) ?_
      · extract_lets +onlyGivenNames y7
        clear_value y7
        exact Keeps.step (State.ringSend_keeps ..) (Keeps.step (State.ownRead_keeps ..) (Keeps.refl _ _))
      exact h4
    exact h4
  split
  · rename_i z8 z9
    exact h4
  rename_i z10 z11 z12 z13
  refine Keeps.elim (fun a14 => ?_) ?_
  · exact Keeps.step (State.wantBuffers_keeps ..) (Keeps.step (State.giveBuf_keeps ..) h4)
  exact h4

def State.beginRead_mask : Nat := State.fail_mask ||| State.updCmd_mask ||| State.start_mask ||| State.wantBuffers_mask |||
    State.giveBuf_mask ||| State.serveHeld_mask ||| State.joinLadders_mask ||| State.wake_mask ||| State.wantSlice_mask

theorem State.beginRead_keeps (s : State) (c : Cmd) : Keeps State.beginRead_mask s (State.beginRead s c) := by
  unfold State.beginRead
  extract_lets +onlyGivenNames y0
  clear_value y0
  extract_lets +onlyGivenNames y1
  clear_value y1
  split
  · rename_i z2 z3 z4
    exact Keeps.step (State.fail_keeps ..) (Keeps.refl _ _)
  rename_i z5 z6
  extract_lets +onlyGivenNames y7
  clear_value y7
  refine Keeps.ite ?_ ?_
  · exact Keeps.step (State.fail_keeps ..) (Keeps.refl _ _)
  extract_lets +onlyGivenNames y8
  have h9 : Keeps State.beginRead_mask s y8 := Keeps.step (State.updCmd_keeps ..) (Keeps.step (State.start_keeps ..)
      (Keeps.refl _ _))
  clear_value y8
  extract_lets +onlyGivenNames y10
  have h11 : Keeps State.beginRead_mask s y10 := by
    unfold y10
    refine Keeps.ite ?_ ?_
    · split
      · rename_i z12 z13 z14 z15 z16 z17 z18
        exact Keeps.step (State.wantBuffers_keeps ..) (Keeps.step (State.giveBuf_keeps ..) h9)
      rename_i z19 z20 z21
      exact h9
    exact h9
  clear_value y10
  extract_lets +onlyGivenNames y22
  have h23 : Keeps State.beginRead_mask s y22 := Keeps.step (State.serveHeld_keeps ..) h11
  clear_value y22
  split
  · rename_i z24 z25
    exact h23
  rename_i z26 z27 z28
  extract_lets +onlyGivenNames y29
  have h30 : Keeps State.beginRead_mask s y29 := Keeps.step (State.joinLadders_keeps ..) h23
  clear_value y29
  extract_lets +onlyGivenNames y31
  clear_value y31
  refine Keeps.foldl (fun t32 a33 => ?_) ?_
  · exact Keeps.step (State.wake_keeps ..) (Keeps.step (State.wantSlice_keeps ..) (Keeps.refl _ _))
  exact h30

def State.prepare_mask : Nat := State.failStart_mask ||| State.updCmd_mask ||| State.keepList_mask ||| State.wantBuffers_mask
    ||| State.giveBuf_mask

theorem State.prepare_keeps (s : State) (c : Cmd) (sgl : Option (List (Nat × Nat × Nat))) : Keeps State.prepare_mask s
    (State.prepare s c sgl) := by
  unfold State.prepare
  split
  · rename_i z0 z1 z2 z3
    exact Keeps.step (State.failStart_keeps ..) (Keeps.refl _ _)
  rename_i z4 z5
  extract_lets +onlyGivenNames y6
  have h7 : Keeps State.prepare_mask s y6 := Keeps.step (State.updCmd_keeps ..) (Keeps.step (State.keepList_keeps ..)
      (Keeps.refl _ _))
  clear_value y6
  refine Keeps.ite ?_ ?_
  · exact h7
  extract_lets +onlyGivenNames y8
  clear_value y8
  extract_lets +onlyGivenNames y9
  have h10 : Keeps State.prepare_mask s y9 := by
    unfold y9
    refine Keeps.ite ?_ ?_
    · exact Keeps.step (State.updCmd_keeps ..) h7
    exact h7
  clear_value y9
  split
  · rename_i z11 z12 z13 z14 z15 z16 z17
    exact Keeps.step (State.wantBuffers_keeps ..) (Keeps.step (State.giveBuf_keeps ..) h10)
  rename_i z18 z19 z20
  exact h10

def State.takeList_mask : Nat := State.keepList_mask

theorem State.takeList_keeps (s : State) (c : Cmd) (sgl : Option (List (Nat × Nat × Nat))) : Keeps State.takeList_mask s
    (State.takeList s c sgl) := by
  unfold State.takeList
  refine Keeps.ite ?_ ?_
  · exact Keeps.refl _ _
  exact Keeps.step (State.keepList_keeps ..) (Keeps.refl _ _)

def execRead_mask : Nat := State.settle_mask ||| State.prepare_mask ||| State.failStart_mask ||| State.takeList_mask |||
    State.sendFar_mask ||| State.beginRead_mask

theorem execRead_keeps (q : BitVec 20) (tag : BitVec 12) (sgl : Option (List (Nat × Nat × Nat))) (s : State) : KeepsRes
    execRead_mask s (execRead q tag sgl s) := by
  unfold execRead
  split
  · rename_i z0 z1
    split
    · rename_i z2 z3 z4
      exact KeepsRes.next (Keeps.step (State.settle_keeps ..) (Keeps.step (State.prepare_keeps ..) (Keeps.refl _ _)))
    rename_i z5 z6
    exact KeepsRes.next (Keeps.refl _ _)
  rename_i z7 z8 z9
  split
  · rename_i z10 z11 z12 z13
    exact KeepsRes.next (Keeps.step (State.settle_keeps ..) (Keeps.step (State.failStart_keeps ..) (Keeps.refl _ _)))
  rename_i z14 z15
  extract_lets +onlyGivenNames y16
  have h17 : Keeps execRead_mask s y16 := Keeps.step (State.takeList_keeps ..) (Keeps.refl _ _)
  clear_value y16
  split
  · rename_i z18 z19 z20
    exact KeepsRes.next (Keeps.step (State.settle_keeps ..) (Keeps.step (State.sendFar_keeps ..) h17))
  rename_i z21 z22
  refine KeepsRes.ite ?_ ?_
  · exact KeepsRes.next (Keeps.refl _ _)
  exact KeepsRes.next (Keeps.step (State.settle_keeps ..) (Keeps.step (State.beginRead_keeps ..) h17))

def execVerify_mask : Nat := State.settle_mask ||| State.beginRead_mask

theorem execVerify_keeps (q : BitVec 20) (tag : BitVec 12) (s : State) : KeepsRes execVerify_mask s (execVerify q tag s) := by
  unfold execVerify
  split
  · rename_i z0 z1
    exact KeepsRes.next (Keeps.refl _ _)
  rename_i z2 z3 z4
  refine KeepsRes.ite ?_ ?_
  · exact KeepsRes.next (Keeps.refl _ _)
  exact KeepsRes.next (Keeps.step (State.settle_keeps ..) (Keeps.step (State.beginRead_keeps ..) (Keeps.refl _ _)))

def State.resumeZones_mask : Nat := partBits [.zones, .held]

theorem State.resumeZones_keeps (s : State) (p : Nat → Bool) : Keeps State.resumeZones_mask s (State.resumeZones s p) := by
  unfold State.resumeZones
  exact Keeps.set_zones_held (Keeps.refl _ _)

def State.beginWrite_mask : Nat := State.failStart_mask ||| State.failZoneWrites_mask ||| State.fallBack_mask |||
    State.putZone_mask ||| State.start_mask ||| State.initDisc_mask ||| State.resumeZones_mask ||| State.wantBuffers_mask |||
    State.giveBuf_mask ||| State.wake_mask ||| State.wantSlice_mask ||| partBits [.held]

theorem State.beginWrite_keeps (s : State) (c : Cmd) : Keeps State.beginWrite_mask s (State.beginWrite s c) := by
  unfold State.beginWrite
  extract_lets +onlyGivenNames y0
  clear_value y0
  split
  · rename_i z1 z2
    exact Keeps.step (State.failStart_keeps ..) (Keeps.refl _ _)
  rename_i z3 z4 z5
  refine Keeps.ite ?_ ?_
  · exact Keeps.step (State.failStart_keeps ..) (Keeps.refl _ _)
  refine Keeps.ite ?_ ?_
  · extract_lets +onlyGivenNames y6
    have h7 : Keeps State.beginWrite_mask s y6 := Keeps.step (State.failZoneWrites_keeps ..) (Keeps.refl _ _)
    clear_value y6
    extract_lets +onlyGivenNames y8
    have h9 : Keeps State.beginWrite_mask s y8 := Keeps.step (State.fallBack_keeps ..) h7
    clear_value y8
    exact Keeps.step (State.putZone_keeps ..) h9
  extract_lets +onlyGivenNames y10
  have h11 : Keeps State.beginWrite_mask s y10 := Keeps.step (State.start_keeps ..) (Keeps.refl _ _)
  clear_value y10
  extract_lets +onlyGivenNames y12
  have h13 : Keeps State.beginWrite_mask s y12 := by
    unfold y12
    refine Keeps.ite ?_ ?_
    · exact h11
    exact Keeps.step (State.initDisc_keeps ..) h11
  clear_value y12
  extract_lets +onlyGivenNames y14
  have h15 : Keeps State.beginWrite_mask s y14 := Keeps.step (State.resumeZones_keeps ..) h13
  clear_value y14
  extract_lets +onlyGivenNames y16
  have h17 : Keeps State.beginWrite_mask s y16 := by
    unfold y16
    refine Keeps.ite ?_ ?_
    · exact Keeps.set_held h15
    exact h15
  clear_value y16
  extract_lets +onlyGivenNames y18
  have h19 : Keeps State.beginWrite_mask s y18 := by
    unfold y18
    refine Keeps.ite ?_ ?_
    · exact h17
    split
    · rename_i z20 z21 z22 z23
      refine Keeps.ite ?_ ?_
      · exact h17
      exact Keeps.step (State.wantBuffers_keeps ..) (Keeps.step (State.giveBuf_keeps ..) h17)
    rename_i z24 z25
    exact h17
  clear_value y18
  exact Keeps.step (State.wake_keeps ..) (Keeps.step (State.wantSlice_keeps ..) h19)

def execWrite_mask : Nat := State.settle_mask ||| State.prepare_mask ||| State.failStart_mask ||| State.takeList_mask |||
    State.sendFar_mask ||| State.beginWrite_mask

theorem execWrite_keeps (q : BitVec 20) (tag : BitVec 12) (sgl : Option (List (Nat × Nat × Nat))) (s : State) : KeepsRes
    execWrite_mask s (execWrite q tag sgl s) := by
  unfold execWrite
  split
  · rename_i z0 z1
    split
    · rename_i z2 z3 z4
      exact KeepsRes.next (Keeps.step (State.settle_keeps ..) (Keeps.step (State.prepare_keeps ..) (Keeps.refl _ _)))
    rename_i z5 z6
    exact KeepsRes.next (Keeps.refl _ _)
  rename_i z7 z8 z9
  split
  · rename_i z10 z11 z12 z13
    exact KeepsRes.next (Keeps.step (State.settle_keeps ..) (Keeps.step (State.failStart_keeps ..) (Keeps.refl _ _)))
  rename_i z14 z15
  extract_lets +onlyGivenNames y16
  have h17 : Keeps execWrite_mask s y16 := Keeps.step (State.takeList_keeps ..) (Keeps.refl _ _)
  clear_value y16
  split
  · rename_i z18 z19 z20
    exact KeepsRes.next (Keeps.step (State.settle_keeps ..) (Keeps.step (State.sendFar_keeps ..) h17))
  rename_i z21 z22
  exact KeepsRes.next (Keeps.step (State.settle_keeps ..) (Keeps.step (State.beginWrite_keeps ..) h17))

def execFlush_mask : Nat := State.resumeZones_mask ||| State.start_mask ||| State.settle_mask ||| State.wake_mask |||
    State.wantSlice_mask

theorem execFlush_keeps (q : BitVec 20) (tag : BitVec 12) (s : State) : KeepsRes execFlush_mask s (execFlush q tag s) := by
  unfold execFlush
  split
  · rename_i z0 z1
    exact KeepsRes.next (Keeps.refl _ _)
  rename_i z2 z3 z4
  extract_lets +onlyGivenNames y5
  have h6 : Keeps execFlush_mask s y5 := Keeps.step (State.resumeZones_keeps ..) (Keeps.step (State.start_keeps ..) (Keeps.refl
      _ _))
  clear_value y5
  extract_lets +onlyGivenNames y7
  clear_value y7
  refine KeepsRes.next (Keeps.step (State.settle_keeps ..) (Keeps.foldl (fun t8 a9 => ?_) ?_))
  · exact Keeps.step (State.wake_keeps ..) (Keeps.step (State.wantSlice_keeps ..) (Keeps.refl _ _))
  exact h6

def execZoneClose_mask : Nat := State.fail_mask ||| State.settle_mask ||| State.wake_mask ||| State.wantSlice_mask |||
    State.resumeZones_mask ||| State.start_mask

theorem execZoneClose_keeps (q : BitVec 20) (tag : BitVec 12) (s : State) : KeepsRes execZoneClose_mask s (execZoneClose q tag
    s) := by
  unfold execZoneClose
  split
  · rename_i z0 z1
    exact KeepsRes.next (Keeps.refl _ _)
  rename_i z2 z3 z4
  extract_lets +onlyGivenNames y5
  clear_value y5
  extract_lets +onlyGivenNames y6
  clear_value y6
  refine KeepsRes.ite ?_ ?_
  · exact KeepsRes.next (Keeps.step (State.fail_keeps ..) (Keeps.refl _ _))
  split
  · rename_i z7 z8
    exact KeepsRes.next (Keeps.step (State.fail_keeps ..) (Keeps.refl _ _))
  rename_i z9 z10 z11
  refine KeepsRes.ite ?_ ?_
  · exact KeepsRes.next (Keeps.step (State.fail_keeps ..) (Keeps.refl _ _))
  exact KeepsRes.next (Keeps.step (State.settle_keeps ..) (Keeps.step (State.wake_keeps ..) (Keeps.step (State.wantSlice_keeps
      ..) (Keeps.step (State.resumeZones_keeps ..) (Keeps.step (State.start_keeps ..) (Keeps.refl _ _))))))

def execDiscFinalize_mask : Nat := State.fail_mask ||| State.resumeZones_mask ||| State.start_mask ||| State.settle_mask |||
    State.wake_mask ||| State.wantSlice_mask

theorem execDiscFinalize_keeps (q : BitVec 20) (tag : BitVec 12) (s : State) : KeepsRes execDiscFinalize_mask s
    (execDiscFinalize q tag s) := by
  unfold execDiscFinalize
  split
  · rename_i z0 z1
    exact KeepsRes.next (Keeps.refl _ _)
  rename_i z2 z3 z4
  extract_lets +onlyGivenNames y5
  clear_value y5
  extract_lets +onlyGivenNames y6
  clear_value y6
  refine KeepsRes.ite ?_ ?_
  · exact KeepsRes.next (Keeps.step (State.fail_keeps ..) (Keeps.refl _ _))
  split
  · rename_i z7 z8
    exact KeepsRes.next (Keeps.step (State.fail_keeps ..) (Keeps.refl _ _))
  rename_i z9 z10 z11
  refine KeepsRes.ite ?_ ?_
  · exact KeepsRes.next (Keeps.step (State.fail_keeps ..) (Keeps.refl _ _))
  extract_lets +onlyGivenNames y12
  have h13 : Keeps execDiscFinalize_mask s y12 := Keeps.step (State.resumeZones_keeps ..) (Keeps.step (State.start_keeps ..)
      (Keeps.refl _ _))
  clear_value y12
  exact KeepsRes.next (Keeps.step (State.settle_keeps ..) (Keeps.step (State.wake_keeps ..) (Keeps.step (State.wantSlice_keeps
      ..) (Keeps.step (State.wantSlice_keeps ..) h13))))

def execBufferAlloc_mask : Nat := State.finish_mask ||| State.fail_mask ||| State.poolEmpty_mask ||| State.zeroMem_mask |||
    State.takeBuf_mask

theorem execBufferAlloc_keeps (q : BitVec 20) (tag : BitVec 12) (s : State) : KeepsRes execBufferAlloc_mask s (execBufferAlloc
    q tag s) := by
  unfold execBufferAlloc
  split
  · rename_i z0 z1
    exact KeepsRes.next (Keeps.refl _ _)
  rename_i z2 z3 z4
  split
  · rename_i z5 z6
    exact KeepsRes.next (Keeps.step (State.finish_keeps ..) (Keeps.refl _ _))
  rename_i z7 z8 z9
  refine KeepsRes.ite ?_ ?_
  · exact KeepsRes.next (Keeps.step (State.fail_keeps ..) (Keeps.refl _ _))
  split
  · rename_i z10 z11
    exact KeepsRes.next (Keeps.step (State.fail_keeps ..) (Keeps.step (State.poolEmpty_keeps ..) (Keeps.refl _ _)))
  rename_i z12 z13 z14 z15
  extract_lets +onlyGivenNames y16
  have h17 : Keeps execBufferAlloc_mask s y16 := Keeps.step (State.zeroMem_keeps ..) (Keeps.ofOptSnd z15 (KeepsOptSnd.step
      (State.takeBuf_keeps _ _ _ _) (Keeps.refl _ _)))
  clear_value y16
  exact KeepsRes.next (Keeps.step (State.finish_keeps ..) h17)

def execBufferRelease_mask : Nat := State.finish_mask ||| State.fail_mask ||| State.freeBuf_mask

theorem execBufferRelease_keeps (q : BitVec 20) (tag : BitVec 12) (s : State) : KeepsRes execBufferRelease_mask s
    (execBufferRelease q tag s) := by
  unfold execBufferRelease
  split
  · rename_i z0 z1
    exact KeepsRes.next (Keeps.refl _ _)
  rename_i z2 z3 z4
  split
  · rename_i z5 z6
    exact KeepsRes.next (Keeps.step (State.finish_keeps ..) (Keeps.refl _ _))
  rename_i z7 z8 z9 z10
  refine KeepsRes.ite ?_ ?_
  · exact KeepsRes.next (Keeps.step (State.fail_keeps ..) (Keeps.refl _ _))
  refine KeepsRes.ite ?_ ?_
  · exact KeepsRes.next (Keeps.step (State.fail_keeps ..) (Keeps.refl _ _))
  exact KeepsRes.next (Keeps.step (State.fail_keeps ..) (Keeps.step (State.freeBuf_keeps ..) (Keeps.refl _ _)))

def execBufferShare_mask : Nat := State.finish_mask ||| State.fail_mask ||| State.toDevice_mask ||| partBits [.bufs]

theorem execBufferShare_keeps (q : BitVec 20) (tag : BitVec 12) (s : State) : KeepsRes execBufferShare_mask s (execBufferShare
    q tag s) := by
  unfold execBufferShare
  split
  · rename_i z0 z1
    exact KeepsRes.next (Keeps.refl _ _)
  rename_i z2 z3 z4
  extract_lets +onlyGivenNames y5
  clear_value y5
  split
  · rename_i z6 z7
    exact KeepsRes.next (Keeps.step (State.finish_keeps ..) (Keeps.refl _ _))
  rename_i z8 z9 z10 z11
  extract_lets +onlyGivenNames y12
  clear_value y12
  refine KeepsRes.ite ?_ ?_
  · exact KeepsRes.next (Keeps.step (State.fail_keeps ..) (Keeps.refl _ _))
  refine KeepsRes.ite ?_ ?_
  · exact KeepsRes.next (Keeps.step (State.fail_keeps ..) (Keeps.refl _ _))
  refine KeepsRes.ite ?_ ?_
  · exact KeepsRes.next (Keeps.step (State.finish_keeps ..) (Keeps.refl _ _))
  refine KeepsRes.ite ?_ ?_
  · exact KeepsRes.next (Keeps.step (State.fail_keeps ..) (Keeps.refl _ _))
  extract_lets +onlyGivenNames y13
  clear_value y13
  exact KeepsRes.next (Keeps.step (State.fail_keeps ..) (Keeps.step (State.toDevice_keeps ..) (Keeps.set_bufs (Keeps.refl _
      _))))

end Sys2Proof.Machine
end

