-- ==== Sys2Proof/Laws/KeepsDma.lean ====
section
/-!
SUPPORT. What the operations of Machine/Dma.lean leave as it was, one lemma for each.
-/

set_option Elab.async false

namespace Sys2Proof.Machine

def State.bpmEnable_mask : Nat := State.raise_mask ||| fieldBits [Reg.BPM_STATUS_LAYOUT_ERR, Reg.BPM_STATUS_ERR_POOL,
    Reg.BPM_STATUS_ACTIVE, Reg.BPM_CTRL_EN, Reg.BPM_POOL_STAT_LOW_LOW] ||| partBits [.bufs, .gens, .pools]

theorem State.bpmEnable_keeps (s : State) : Keeps State.bpmEnable_mask s (State.bpmEnable s) := by
  unfold State.bpmEnable
  refine Keeps.ite ?_ ?_
  · exact Keeps.refl _ _
  split
  · rename_i z0 z1 z2
    exact Keeps.step (State.raise_keeps ..) (Keeps.set1 (Keeps.wr (Keeps.refl _ _)))
  rename_i z3 z4
  extract_lets +onlyGivenNames y5
  have h6 : Keeps State.bpmEnable_mask s y5 := Keeps.set_bufs_gens_pools (Keeps.refl _ _)
  clear_value y5
  extract_lets +onlyGivenNames y7
  have h8 : Keeps State.bpmEnable_mask s y7 := Keeps.set1 (Keeps.set1 h6)
  clear_value y7
  refine Keeps.foldl (fun t9 a10 => ?_) ?_
  · exact Keeps.wr (Keeps.refl _ _)
  exact h8

def execBpmEnable_mask : Nat := State.bpmEnable_mask

theorem execBpmEnable_keeps (s : State) : KeepsRes execBpmEnable_mask s (execBpmEnable s) := by
  unfold execBpmEnable
  exact KeepsRes.next (Keeps.step (State.bpmEnable_keeps ..) (Keeps.refl _ _))

def State.firmPool_mask : Nat := fieldBits [Reg.BPM_POOL_CNT_COUNT, Reg.BPM_POOL_BASE_BASE]

theorem State.firmPool_keeps (s : State) (p : Nat) : Keeps State.firmPool_mask s (State.firmPool s p) := by
  unfold State.firmPool
  extract_lets +onlyGivenNames y0
  clear_value y0
  exact Keeps.wr (Keeps.wr (Keeps.refl _ _))

def State.firmLayout_mask : Nat := State.bpmEnable_mask ||| State.firmPool_mask

theorem State.firmLayout_keeps (s : State) : Keeps State.firmLayout_mask s (State.firmLayout s) := by
  unfold State.firmLayout
  refine Keeps.ite ?_ ?_
  · exact Keeps.refl _ _
  refine Keeps.step (State.bpmEnable_keeps ..) (Keeps.foldl (fun t0 a1 => ?_) ?_)
  · exact Keeps.step (State.firmPool_keeps ..) (Keeps.refl _ _)
  exact Keeps.refl _ _

def execBpmDisable_mask : Nat := fieldBits [Reg.BPM_STATUS_ACTIVE, Reg.BPM_CTRL_EN]

theorem execBpmDisable_keeps (s : State) : KeepsRes execBpmDisable_mask s (execBpmDisable s) := by
  unfold execBpmDisable
  refine KeepsRes.ite ?_ ?_
  · exact KeepsRes.next (Keeps.refl _ _)
  exact KeepsRes.next (Keeps.clr (Keeps.clr (Keeps.refl _ _)))

def State.deliver_mask : Nat := State.hostWrites_mask ||| State.touchDram_mask ||| State.ownWrite_mask

theorem State.deliver_keeps (s : State) (ch : Nat) (d : Desc) (bs : List Nat) : Keeps State.deliver_mask s (State.deliver s ch
    d bs) := by
  unfold State.deliver
  refine Keeps.ite ?_ ?_
  · exact Keeps.step (State.hostWrites_keeps ..) (Keeps.refl _ _)
  exact Keeps.step (State.touchDram_keeps ..) (Keeps.step (State.ownWrite_keeps ..) (Keeps.refl _ _))

def State.writeBack_mask : Nat := State.store_mask ||| fieldBits [Reg.DMA_CH_STATUS_LAST]

theorem State.writeBack_keeps (s : State) (ch a retries status : Nat) : Keeps State.writeBack_mask s (State.writeBack s ch a
    retries status) := by
  unfold State.writeBack
  exact Keeps.wr (Keeps.step (State.store_keeps ..) (Keeps.refl _ _))

def State.frameDone_mask : Nat := State.updCmd_mask ||| State.wantBuffers_mask ||| State.settleBuf_mask

theorem State.frameDone_keeps (s : State) (c : Cmd) (k : Nat) : Keeps State.frameDone_mask s (State.frameDone s c k) := by
  unfold State.frameDone
  extract_lets +onlyGivenNames y0
  have h1 : Keeps State.frameDone_mask s y0 := Keeps.step (State.updCmd_keeps ..) (Keeps.refl _ _)
  clear_value y0
  exact Keeps.step (State.wantBuffers_keeps ..) (Keeps.step (State.settleBuf_keeps ..) h1)

def State.readMoved_mask : Nat := State.frameDone_mask ||| State.updCmd_mask ||| State.fail_mask ||| State.leaveLadders_mask

theorem State.readMoved_keeps (s : State) (c : Cmd) (j : ChanJob) (r : ChainEnd) : Keeps State.readMoved_mask s
    (State.readMoved s c j r) := by
  unfold State.readMoved
  refine Keeps.ite ?_ ?_
  · exact Keeps.step (State.frameDone_keeps ..) (Keeps.step (State.updCmd_keeps ..) (Keeps.refl _ _))
  exact Keeps.step (State.fail_keeps ..) (Keeps.step (State.leaveLadders_keeps ..) (Keeps.refl _ _))

def State.writeMoved_mask : Nat := State.updCmd_mask ||| State.frameDone_mask ||| State.ringSend_mask ||| State.ownRead_mask
    ||| State.writeBroken_mask ||| partBits [.held]

theorem State.writeMoved_keeps (s : State) (c : Cmd) (j : ChanJob) (r : ChainEnd) : Keeps State.writeMoved_mask s
    (State.writeMoved s c j r) := by
  unfold State.writeMoved
  split
  · rename_i z0 z1 z2
    extract_lets +onlyGivenNames y3
    clear_value y3
    extract_lets +onlyGivenNames y4
    have h5 : Keeps State.writeMoved_mask s y4 := Keeps.step (State.updCmd_keeps ..) (Keeps.refl _ _)
    clear_value y4
    extract_lets +onlyGivenNames y6
    clear_value y6
    refine Keeps.step (State.frameDone_keeps ..) (Keeps.step (State.ringSend_keeps ..) (Keeps.ite ?_ ?_))
    · exact Keeps.step (State.ownRead_keeps ..) h5
    exact h5
  rename_i z7 z8
  extract_lets +onlyGivenNames y9
  clear_value y9
  split
  · rename_i z10 z11
    exact Keeps.refl _ _
  rename_i z12 z13 z14
  refine Keeps.ite ?_ ?_
  · exact Keeps.set_held (Keeps.refl _ _)
  exact Keeps.step (State.writeBroken_keeps ..) (Keeps.refl _ _)

def State.chainOver_mask : Nat := State.settleAll_mask ||| State.readMoved_mask ||| State.writeMoved_mask ||| fieldBits
    [Reg.DMA_CH_STATUS_STATE] ||| partBits [.chanJobs]

theorem State.chainOver_keeps (s : State) (ch : Nat) (r : ChainEnd) : Keeps State.chainOver_mask s (State.chainOver s ch r) :=
    by
  unfold State.chainOver
  split
  · rename_i z0 z1
    exact Keeps.refl _ _
  rename_i z2 z3 z4
  extract_lets +onlyGivenNames y5
  have h6 : Keeps State.chainOver_mask s y5 := Keeps.set_chanJobs (Keeps.refl _ _)
  clear_value y5
  extract_lets +onlyGivenNames y7
  have h8 : Keeps State.chainOver_mask s y7 := by
    unfold y7
    refine Keeps.ite ?_ ?_
    · exact Keeps.wr h6
    exact h6
  clear_value y7
  split
  · rename_i z9 z10
    exact Keeps.step (State.settleAll_keeps ..) h8
  rename_i z11 z12 z13
  refine Keeps.ite ?_ ?_
  · exact Keeps.step (State.settleAll_keeps ..) h8
  refine Keeps.ite ?_ ?_
  · exact Keeps.step (State.readMoved_keeps ..) h8
  exact Keeps.step (State.writeMoved_keeps ..) h8

def State.requeueWrites_mask : Nat := State.queueMove_mask

theorem State.requeueWrites_keeps (s : State) : Keeps State.requeueWrites_mask s (State.requeueWrites s) := by
  unfold State.requeueWrites
  refine Keeps.foldl (fun t0 a1 => ?_) ?_
  · extract_lets +onlyGivenNames y2
    clear_value y2
    refine Keeps.ite ?_ ?_
    · refine Keeps.foldl (fun t3 a4 => ?_) ?_
      · split
        · rename_i z5 z6
          exact Keeps.refl _ _
        rename_i z7 z8 z9
        refine Keeps.ite ?_ ?_
        · exact Keeps.step (State.queueMove_keeps ..) (Keeps.refl _ _)
        exact Keeps.refl _ _
      exact Keeps.refl _ _
    refine Keeps.foldl (fun t10 a11 => ?_) ?_
    · extract_lets +onlyGivenNames y12
      clear_value y12
      refine Keeps.ite ?_ ?_
      · exact Keeps.step (State.queueMove_keeps ..) (Keeps.refl _ _)
      exact Keeps.refl _ _
    exact Keeps.refl _ _
  exact Keeps.refl _ _

def State.requeueReads_mask : Nat := State.queueMove_mask

theorem State.requeueReads_keeps (s : State) : Keeps State.requeueReads_mask s (State.requeueReads s) := by
  unfold State.requeueReads
  refine Keeps.foldl (fun t0 a1 => ?_) ?_
  · refine Keeps.foldl (fun t2 a3 => ?_) ?_
    · split
      · rename_i z4 z5
        exact Keeps.refl _ _
      rename_i z6 z7 z8
      refine Keeps.ite ?_ ?_
      · extract_lets +onlyGivenNames y9
        clear_value y9
        exact Keeps.step (State.queueMove_keeps ..) (Keeps.refl _ _)
      exact Keeps.refl _ _
    exact Keeps.refl _ _
  exact Keeps.refl _ _

def State.requeue_mask : Nat := State.requeueWrites_mask ||| State.requeueReads_mask

theorem State.requeue_keeps (s : State) : Keeps State.requeue_mask s (State.requeue s) := by
  unfold State.requeue
  exact Keeps.step (State.requeueWrites_keeps ..) (Keeps.step (State.requeueReads_keeps ..) (Keeps.refl _ _))

def execDmaChannelStart_mask : Nat := State.startChan_mask

theorem execDmaChannelStart_keeps (src : Src) (ch : Fin 2176) (s : State) : KeepsRes execDmaChannelStart_mask s
    (execDmaChannelStart src ch s) := by
  unfold execDmaChannelStart
  refine KeepsRes.ite ?_ ?_
  · exact KeepsRes.next (Keeps.refl _ _)
  exact KeepsRes.next (Keeps.step (State.startChan_keeps ..) (Keeps.refl _ _))

def State.useDesc_mask : Nat := State.useHost_mask

theorem State.useDesc_keeps (s : State) (e : Nat) : Keeps State.useDesc_mask s (State.useDesc s e) := by
  unfold State.useDesc
  extract_lets +onlyGivenNames y0
  clear_value y0
  split
  · rename_i z1 z2
    exact Keeps.refl _ _
  rename_i z3 z4 z5
  extract_lets +onlyGivenNames y6
  clear_value y6
  split
  · rename_i z7 z8 z9 z10
    exact Keeps.step (State.useHost_keeps ..) (Keeps.refl _ _)
  rename_i z11 z12
  exact Keeps.refl _ _

def execDmaChannelRun_mask : Nat := State.putEngine_mask ||| State.useDesc_mask ||| fieldBits [Reg.DMA_CH_STATUS_STATE]

theorem execDmaChannelRun_keeps (e : Fin 40) (s : State) : KeepsRes execDmaChannelRun_mask s (execDmaChannelRun e s) := by
  unfold execDmaChannelRun
  extract_lets +onlyGivenNames y0
  clear_value y0
  split
  · rename_i z1 z2 z3 z4 z5 z6
    refine KeepsRes.ite ?_ ?_
    · exact KeepsRes.next (Keeps.refl _ _)
    extract_lets +onlyGivenNames y7
    have h8 : Keeps execDmaChannelRun_mask s y7 := Keeps.step (State.putEngine_keeps ..) (Keeps.wr (Keeps.refl _ _))
    clear_value y7
    exact KeepsRes.next (Keeps.step (State.useDesc_keeps ..) h8)
  rename_i z9 z10 z11
  exact KeepsRes.next (Keeps.refl _ _)

def State.endChan_mask : Nat := State.putEngine_mask ||| State.retryXlat_mask ||| State.chainOver_mask ||| fieldBits
    [Reg.DMA_CH_STATUS_STATE, Reg.DMA_HALT_CNT_COUNT]

theorem State.endChan_keeps (s : State) (e ch st : Nat) (r : ChainEnd) : Keeps State.endChan_mask s (State.endChan s e ch st r)
    := by
  unfold State.endChan
  extract_lets +onlyGivenNames y0
  clear_value y0
  extract_lets +onlyGivenNames y1
  have h2 : Keeps State.endChan_mask s y1 := Keeps.step (State.putEngine_keeps ..) (Keeps.wr (Keeps.refl _ _))
  clear_value y1
  refine Keeps.step (State.retryXlat_keeps ..) (Keeps.step (State.chainOver_keeps ..) (Keeps.ite ?_ ?_))
  · exact Keeps.bump h2
  exact h2

def State.nextDesc_mask : Nat := State.endChan_mask ||| State.putEngine_mask

theorem State.nextDesc_keeps (s : State) (e ch : Nat) (d : Desc) : Keeps State.nextDesc_mask s (State.nextDesc s e ch d) := by
  unfold State.nextDesc
  refine Keeps.ite ?_ ?_
  · exact Keeps.step (State.endChan_keeps ..) (Keeps.refl _ _)
  exact Keeps.step (State.putEngine_keeps ..) (Keeps.refl _ _)

def State.countMove_mask : Nat := State.updCmd_mask ||| State.tap_mask

theorem State.countMove_keeps (s : State) (ch : Nat) (d : Desc) : Keeps State.countMove_mask s (State.countMove s ch d) := by
  unfold State.countMove
  split
  · rename_i z0 z1
    exact Keeps.refl _ _
  rename_i z2 z3 z4
  split
  · rename_i z5 z6
    exact Keeps.refl _ _
  rename_i z7 z8 z9
  refine Keeps.ite ?_ ?_
  · exact Keeps.step (State.updCmd_keeps ..) (Keeps.step (State.tap_keeps ..) (Keeps.refl _ _))
  exact Keeps.refl _ _

def State.eccHalt_mask : Nat := State.endChan_mask ||| State.raise_mask ||| State.writeBack_mask ||| State.deliver_mask

theorem State.eccHalt_keeps (s : State) (e ch : Nat) (d : Desc) (bs : List Nat) (at_ : Nat) : Keeps State.eccHalt_mask s
    (State.eccHalt s e ch d bs at_) := by
  unfold State.eccHalt
  extract_lets +onlyGivenNames y0
  clear_value y0
  exact Keeps.step (State.endChan_keeps ..) (Keeps.step (State.raise_keeps ..) (Keeps.step (State.writeBack_keeps ..)
      (Keeps.step (State.deliver_keeps ..) (Keeps.refl _ _))))

def State.descEnd_mask : Nat := State.endChan_mask ||| State.writeBack_mask ||| State.touchDram_mask ||| State.eccHalt_mask |||
    State.noteUe_mask ||| State.ownRead_mask ||| State.correctRange_mask ||| State.hostReads_mask ||| State.nextDesc_mask |||
    State.countMove_mask ||| State.deliver_mask ||| State.putEngine_mask ||| State.raiseWin_mask ||| State.xlatFault_mask |||
    fieldBits [Reg.DMA_BAD_CNT_COUNT, Reg.DMA_CH_STATUS_BAD]

theorem State.descEnd_keeps (s : State) (e ch : Nat) (r : DmaEnd) : Keeps State.descEnd_mask s (State.descEnd s e ch r) := by
  unfold State.descEnd
  extract_lets +onlyGivenNames y0
  clear_value y0
  extract_lets +onlyGivenNames y1
  clear_value y1
  extract_lets +onlyGivenNames y2
  clear_value y2
  refine Keeps.ite ?_ ?_
  · exact Keeps.step (State.endChan_keeps ..) (Keeps.step (State.writeBack_keeps ..) (Keeps.refl _ _))
  extract_lets +onlyGivenNames y3
  have h4 : Keeps State.descEnd_mask s y3 := Keeps.step (State.touchDram_keeps ..) (Keeps.refl _ _)
  clear_value y3
  extract_lets +onlyGivenNames y5
  extract_lets +onlyGivenNames y6
  clear_value y6
  split
  · rename_i z7 z8 z9 z10
    exact Keeps.step (State.eccHalt_keeps ..) (Keeps.step (State.noteUe_keeps ..) (Keeps.step (State.ownRead_keeps ..) h4))
  rename_i z11 z12
  extract_lets +onlyGivenNames y13
  have h14 : Keeps State.descEnd_mask s y13 := by
    unfold y13
    refine Keeps.ite ?_ ?_
    · exact Keeps.step (State.correctRange_keeps ..) (Keeps.step (State.ownRead_keeps ..) h4)
    exact h4
  clear_value y13
  extract_lets +onlyGivenNames y15
  extract_lets +onlyGivenNames y16
  have h17 : Keeps State.descEnd_mask s y16 := by
    unfold y16
    refine Keeps.ite ?_ ?_
    · exact Keeps.step (State.hostReads_keeps ..) h14
    exact h14
  clear_value y16
  split
  · rename_i z18
    refine Keeps.ite ?_ ?_
    · exact Keeps.step (State.nextDesc_keeps ..) (Keeps.step (State.countMove_keeps ..) (Keeps.step (State.writeBack_keeps ..)
        (Keeps.step (State.deliver_keeps ..) h17)))
    refine Keeps.ite ?_ ?_
    · exact Keeps.step (State.putEngine_keeps ..) h17
    extract_lets +onlyGivenNames y19
    have h20 : Keeps State.descEnd_mask s y19 := Keeps.bump (Keeps.bump (Keeps.step (State.writeBack_keeps ..) h17))
    clear_value y19
    exact Keeps.step (State.nextDesc_keeps ..) (Keeps.step (State.raiseWin_keeps ..) h20)
  · rename_i z21
    extract_lets +onlyGivenNames y22
    have h23 : Keeps State.descEnd_mask s y22 := by
      unfold y22
      split
      · rename_i z24 z25 z26
        exact Keeps.step (State.xlatFault_keeps ..) h17
      rename_i z27 z28
      exact Keeps.step (State.xlatFault_keeps ..) h17
    clear_value y22
    exact Keeps.step (State.endChan_keeps ..) h23
  rename_i z29 z30
  extract_lets +onlyGivenNames y31
  clear_value y31
  exact Keeps.step (State.nextDesc_keeps ..) (Keeps.step (State.countMove_keeps ..) (Keeps.step (State.writeBack_keeps ..)
      (Keeps.step (State.deliver_keeps ..) h17)))

def execDmaDescriptorEnd_mask : Nat := State.useDesc_mask ||| State.settle_mask ||| State.requeue_mask ||| State.descEnd_mask

theorem execDmaDescriptorEnd_keeps (e : Fin 40) (r : DmaEnd) (s : State) : KeepsRes execDmaDescriptorEnd_mask s
    (execDmaDescriptorEnd e r s) := by
  unfold execDmaDescriptorEnd
  extract_lets +onlyGivenNames y0
  clear_value y0
  split
  · rename_i z1 z2
    exact KeepsRes.next (Keeps.refl _ _)
  rename_i z3 z4 z5
  extract_lets +onlyGivenNames y6
  have h7 : Keeps execDmaDescriptorEnd_mask s y6 := Keeps.step (State.useDesc_keeps ..) (Keeps.refl _ _)
  clear_value y6
  refine KeepsRes.ite ?_ ?_
  · exact KeepsRes.next (Keeps.refl _ _)
  refine KeepsRes.ite ?_ ?_
  · exact KeepsRes.next h7
  exact KeepsRes.next (Keeps.step (State.settle_keeps ..) (Keeps.step (State.requeue_keeps ..) (Keeps.step (State.descEnd_keeps
      ..) h7)))

def execDmaBusRetry_mask : Nat := State.advanceTo_mask ||| State.putEngine_mask ||| State.raise_mask ||| State.writeBack_mask
    ||| State.settle_mask ||| State.endChan_mask ||| State.descEnd_mask

theorem execDmaBusRetry_keeps (e : Fin 8) (r : DmaEnd) (s : State) : KeepsRes execDmaBusRetry_mask s (execDmaBusRetry e r s) :=
    by
  unfold execDmaBusRetry
  extract_lets +onlyGivenNames y0
  clear_value y0
  split
  · rename_i z1 z2 z3 z4 z5 z6
    extract_lets +onlyGivenNames y7
    have h8 : Keeps execDmaBusRetry_mask s y7 := Keeps.step (State.advanceTo_keeps ..) (Keeps.refl _ _)
    clear_value y7
    extract_lets +onlyGivenNames y9
    have h10 : Keeps execDmaBusRetry_mask s y9 := Keeps.step (State.putEngine_keeps ..) h8
    clear_value y9
    refine KeepsRes.ite ?_ ?_
    · extract_lets +onlyGivenNames y11
      have h12 : Keeps execDmaBusRetry_mask s y11 := Keeps.step (State.raise_keeps ..) (Keeps.step (State.writeBack_keeps ..)
          h10)
      clear_value y11
      exact KeepsRes.next (Keeps.step (State.settle_keeps ..) (Keeps.step (State.endChan_keeps ..) h12))
    exact KeepsRes.next (Keeps.step (State.settle_keeps ..) (Keeps.step (State.descEnd_keeps ..) h10))
  rename_i z13 z14 z15
  exact KeepsRes.next (Keeps.refl _ _)

def execDmaChannelReset_mask : Nat := fieldBits [Reg.DMA_CH_STATUS_STATE]

theorem execDmaChannelReset_keeps (src : Src) (ch : Fin 2176) (s : State) : KeepsRes execDmaChannelReset_mask s
    (execDmaChannelReset src ch s) := by
  unfold execDmaChannelReset
  refine KeepsRes.ite ?_ ?_
  · exact KeepsRes.next (Keeps.refl _ _)
  exact KeepsRes.next (Keeps.wr (Keeps.refl _ _))

end Sys2Proof.Machine
end

