-- ==== Sys2Proof/Laws/KeepsMem.lean ====
section
/-!
SUPPORT. What the operations of Machine/Mem.lean leave as it was, one lemma for each.
-/

set_option Elab.async false

namespace Sys2Proof.Machine

def execDramTrainingDone_mask : Nat := State.cinder_mask ||| State.raise_mask ||| fieldBits [Reg.MEMC_CHAN_DIMMS,
    Reg.MEMC_CHAN_TRAIN_OK, Reg.MEMC_CHAN_FITTED, Reg.MEMC_CHAN_SIZE, Reg.MEMC_CHAN_RATE, Reg.MEMC_CHAN_RANKS,
    Reg.MEMC_STATUS_INIT_DONE, Reg.MEMC_STATUS_TRAINED, Reg.MEMC_STATUS_CHANNELS, Reg.MEMC_SCRUB_POS_POS] ||| partBits [.mem,
    .ms]

theorem execDramTrainingDone_keeps (chans : List ChanObs) (s : State) : KeepsRes execDramTrainingDone_mask s
    (execDramTrainingDone chans s) := by
  unfold execDramTrainingDone
  split
  · rename_i z0 z1 z2 z3
    exact KeepsRes.next (Keeps.step (State.cinder_keeps ..) (Keeps.step (State.raise_keeps ..) (Keeps.refl _ _)))
  · rename_i z4 z5 z6 z7
    exact KeepsRes.next (Keeps.step (State.cinder_keeps ..) (Keeps.step (State.raise_keeps ..) (Keeps.refl _ _)))
  rename_i z8 z9 z10 z11 z12
  split
  · rename_i z13 z14 z15
    exact KeepsRes.next (Keeps.step (State.cinder_keeps ..) (Keeps.step (State.raise_keeps ..) (Keeps.refl _ _)))
  rename_i z16 z17
  extract_lets +onlyGivenNames y18
  have h19 : ∀ t20 t21, Keeps execDramTrainingDone_mask t20 (y18 t20 t21) := by
    intro t20 t21
    unfold y18
    split
    · rename_i z22 z23
      exact Keeps.refl _ _
    rename_i z24 z25 z26
    extract_lets +onlyGivenNames y27
    have h28 : Keeps execDramTrainingDone_mask t20 y27 := Keeps.wr (Keeps.wrB (Keeps.wrB (Keeps.refl _ _)))
    clear_value y27
    exact Keeps.wr (Keeps.wr (Keeps.wr h28))
  clear_value y18
  extract_lets +onlyGivenNames y29
  have h30 : Keeps execDramTrainingDone_mask s y29 := by
    unfold y29
    refine Keeps.foldl (fun t31 a32 => ?_) ?_
    · exact Keeps.trans (Keeps.refl _ _) (h19 _ _)
    exact Keeps.refl _ _
  clear_value y29
  extract_lets +onlyGivenNames y33
  clear_value y33
  extract_lets +onlyGivenNames y34
  have h35 : Keeps execDramTrainingDone_mask s y34 := Keeps.wrB (Keeps.set1 (Keeps.wr h30))
  clear_value y34
  extract_lets +onlyGivenNames y36
  have h37 : Keeps execDramTrainingDone_mask s y36 := Keeps.wr h35
  clear_value y36
  refine KeepsRes.ite ?_ ?_
  · exact KeepsRes.next h37
  exact KeepsRes.next (Keeps.set_mem_ms h37 (fun _ => rfl))

def execDramInitDone_mask : Nat := State.advance_mask ||| State.raise_mask ||| fieldBits [Reg.MEMC_STATUS_INIT_DONE]

theorem execDramInitDone_keeps (dt : Nat) (s : State) : KeepsRes execDramInitDone_mask s (execDramInitDone dt s) := by
  unfold execDramInitDone
  split
  · rename_i z0 z1
    exact KeepsRes.next (Keeps.refl _ _)
  rename_i z2 z3 z4
  refine KeepsRes.ite ?_ ?_
  · exact KeepsRes.next (Keeps.refl _ _)
  extract_lets +onlyGivenNames y5
  have h6 : Keeps execDramInitDone_mask s y5 := Keeps.set1 (Keeps.step (State.advance_keeps ..) (Keeps.refl _ _))
  clear_value y5
  exact KeepsRes.next (Keeps.step (State.raise_keeps ..) h6)

def State.scrubPass_mask : Nat := State.raise_mask ||| fieldBits [Reg.MEMC_SCRUB_PASSES_PASSES, Reg.MEMC_SCRUB_POS_POS] |||
    partBits [.ms]

theorem State.scrubPass_keeps (s : State) : Keeps State.scrubPass_mask s (State.scrubPass s) := by
  unfold State.scrubPass
  extract_lets +onlyGivenNames y0
  have h1 : Keeps State.scrubPass_mask s y0 := Keeps.step (State.raise_keeps ..) (Keeps.bump (Keeps.wr (Keeps.refl _ _)))
  clear_value y0
  exact Keeps.set_ms h1

def execScrubStep_mask : Nat := State.noteUe_mask ||| State.noteCe_mask ||| State.correctStored_mask ||| State.scrubPass_mask
    ||| fieldBits [Reg.MEMC_SCRUB_POS_POS] ||| partBits [.ms]

theorem execScrubStep_keeps (obs : LineObs) (s : State) : KeepsRes execScrubStep_mask s (execScrubStep obs s) := by
  unfold execScrubStep
  refine KeepsRes.ite ?_ ?_
  · exact KeepsRes.next (Keeps.refl _ _)
  extract_lets +onlyGivenNames y0
  clear_value y0
  extract_lets +onlyGivenNames y1
  clear_value y1
  extract_lets +onlyGivenNames y2
  have h3 : ∀ t4 t5 t6, Keeps execScrubStep_mask t4 (y2 t4 t5 t6) := by
    intro t4 t5 t6
    unfold y2
    exact Keeps.set_ms (Keeps.refl _ _)
  clear_value y2
  extract_lets +onlyGivenNames y7
  clear_value y7
  extract_lets +onlyGivenNames y8
  have h9 : Keeps execScrubStep_mask s y8 := by
    unfold y8
    refine Keeps.ite ?_ ?_
    · exact Keeps.refl _ _
    split
    · rename_i z10 z11 z12
      exact Keeps.trans (Keeps.step (State.noteUe_keeps ..) (Keeps.refl _ _)) (h3 _ _ _)
    rename_i z13 z14
    split
    · rename_i z15 z16
      extract_lets +onlyGivenNames y17
      have h18 : Keeps execScrubStep_mask s y17 := Keeps.set_ms (Keeps.refl _ _)
      clear_value y17
      exact Keeps.trans (Keeps.step (State.noteUe_keeps ..) h18) (h3 _ _ _)
    · rename_i z19 z20 z21 z22 z23
      exact Keeps.trans (Keeps.step (State.noteCe_keeps ..) (Keeps.refl _ _)) (h3 _ _ _)
    rename_i z24
    split
    · rename_i z25 z26 z27
      exact Keeps.trans (Keeps.step (State.correctStored_keeps ..) (Keeps.refl _ _)) (h3 _ _ _)
    rename_i z28 z29
    exact Keeps.refl _ _
  clear_value y8
  refine KeepsRes.next (Keeps.ite ?_ ?_)
  · exact Keeps.step (State.scrubPass_keeps ..) h9
  exact Keeps.wr h9

def execSelfRefreshEnter_mask : Nat := State.advanceTo_mask ||| fieldBits [Reg.MEMC_STATUS_SELF_REFRESH]

theorem execSelfRefreshEnter_keeps (s : State) : KeepsRes execSelfRefreshEnter_mask s (execSelfRefreshEnter s) := by
  unfold execSelfRefreshEnter
  refine KeepsRes.ite ?_ ?_
  · exact KeepsRes.next (Keeps.refl _ _)
  exact KeepsRes.next (Keeps.set1 (Keeps.step (State.advanceTo_keeps ..) (Keeps.refl _ _)))

def State.drainIf_mask : Nat := State.drainEntry_mask

theorem State.drainIf_keeps (s : State) (p : Merge → Bool) : Keeps State.drainIf_mask s (State.drainIf s p) := by
  unfold State.drainIf
  refine Keeps.foldl (fun t0 a1 => ?_) ?_
  · exact Keeps.step (State.drainEntry_keeps ..) (Keeps.refl _ _)
  exact Keeps.refl _ _

def State.setLines_mask : Nat := partBits [.ms]

theorem State.setLines_keeps (s : State) (l : List CLine) : Keeps State.setLines_mask s (State.setLines s l) := by
  unfold State.setLines
  exact Keeps.set_ms (Keeps.refl _ _)

def State.invalidate_mask : Nat := State.setLines_mask ||| fieldBits [Reg.MEMC_CACHE_LOCKED_SKIP_COUNT] ||| partBits [.ms]

theorem State.invalidate_keeps (s : State) (r : Nat × Nat) (force : Bool) : Keeps State.invalidate_mask s (State.invalidate s r
    force) := by
  unfold State.invalidate
  extract_lets +onlyGivenNames y0
  clear_value y0
  extract_lets +onlyGivenNames y1
  have h2 : Keeps State.invalidate_mask s y1 := Keeps.step (State.setLines_keeps ..) (Keeps.refl _ _)
  clear_value y1
  refine Keeps.ite ?_ ?_
  · exact h2
  extract_lets +onlyGivenNames y3
  have h4 : Keeps State.invalidate_mask s y3 := Keeps.bump h2
  clear_value y3
  exact Keeps.set_ms h4

def State.loadLock_mask : Nat := State.touchDram_mask ||| State.setLines_mask ||| State.noteUe_mask ||| State.correctRange_mask
    ||| fieldBits [Reg.MEMC_CACHE_LOCK_MISS_COUNT] ||| partBits [.ms]

theorem State.loadLock_keeps (s : State) (line : Nat) : Keeps State.loadLock_mask s (State.loadLock s line) := by
  unfold State.loadLock
  refine Keeps.ite ?_ ?_
  · exact Keeps.refl _ _
  split
  · rename_i z0 z1 z2
    extract_lets +onlyGivenNames y3
    have h4 : Keeps State.loadLock_mask s y3 := Keeps.step (State.touchDram_keeps ..) (Keeps.step (State.setLines_keeps ..)
        (Keeps.refl _ _))
    clear_value y3
    split
    · rename_i z5 z6 z7 z8
      exact Keeps.step (State.noteUe_keeps ..) h4
    rename_i z9 z10
    extract_lets +onlyGivenNames y11
    have h12 : Keeps State.loadLock_mask s y11 := Keeps.step (State.correctRange_keeps ..) h4
    clear_value y11
    exact Keeps.step (State.setLines_keeps ..) h12
  rename_i z13 z14
  extract_lets +onlyGivenNames y15
  have h16 : Keeps State.loadLock_mask s y15 := Keeps.bump (Keeps.refl _ _)
  clear_value y15
  exact Keeps.set_ms h16

def State.cacheOp_mask : Nat := fieldBits [Reg.MEMC_CACHE_OP_OP, Reg.MEMC_CACHE_OP_FORCE, Reg.MEMC_CACHE_OP_RESULT,
  Reg.MEMC_CACHE_OP_BUSY] ||| partBits [.ms]

theorem State.cacheOp_keeps {m : Nat} (s : State) (src : Src) (op : Nat) (force : Bool) (f : State → Nat × Nat → State)
    (hf : ∀ t r, Keeps m t (f t r)) (hm : State.cacheOp_mask ||| m = m := by decide +kernel) : KeepsRes m s (s.cacheOp src op force f) := by
  unfold State.cacheOp
  extract_lets x r z y
  have hx : Keeps m s x := Keeps.wrB (Keeps.wr (Keeps.refl _ _) (testBit_super hm (by decide +kernel)))
    (testBit_super hm (by decide +kernel))
  have hy : Keeps m s y := Keeps.set_ms hx (testBit_super hm (by decide +kernel))
  exact KeepsRes.ite (KeepsRes.next (Keeps.refl _ _)) (KeepsRes.ite
    (KeepsRes.next (Keeps.wr hx (testBit_super hm (by decide +kernel))))
    (KeepsRes.next (Keeps.set1 (Keeps.trans hy (hf _ _)) (testBit_super hm (by decide +kernel)))))

def execCacheInvalidate_mask : Nat := State.cacheOp_mask ||| State.invalidate_mask

theorem execCacheInvalidate_keeps (src : Src) (force : Bool) (s : State) : KeepsRes execCacheInvalidate_mask s
    (execCacheInvalidate src force s) := by
  unfold execCacheInvalidate
  refine KeepsRes.trans ?_ (State.cacheOp_keeps _ _ _ _ _ (fun t0 r1 => ?_))
  · exact Keeps.refl _ _
  exact Keeps.step (State.invalidate_keeps ..) (Keeps.refl _ _)

def execCacheDrain_mask : Nat := State.cacheOp_mask ||| State.drainIf_mask

theorem execCacheDrain_keeps (src : Src) (force : Bool) (s : State) : KeepsRes execCacheDrain_mask s (execCacheDrain src force
    s) := by
  unfold execCacheDrain
  refine KeepsRes.trans ?_ (State.cacheOp_keeps _ _ _ _ _ (fun t0 r1 => ?_))
  · exact Keeps.refl _ _
  exact Keeps.step (State.drainIf_keeps ..) (Keeps.refl _ _)

def execCacheDrainInvalidate_mask : Nat := State.cacheOp_mask ||| State.invalidate_mask ||| State.drainIf_mask

theorem execCacheDrainInvalidate_keeps (src : Src) (force : Bool) (s : State) : KeepsRes execCacheDrainInvalidate_mask s
    (execCacheDrainInvalidate src force s) := by
  unfold execCacheDrainInvalidate
  refine KeepsRes.trans ?_ (State.cacheOp_keeps _ _ _ _ _ (fun t0 r1 => ?_))
  · exact Keeps.refl _ _
  exact Keeps.step (State.invalidate_keeps ..) (Keeps.step (State.drainIf_keeps ..) (Keeps.refl _ _))

def execCacheLoadLock_mask : Nat := State.cacheOp_mask ||| State.loadLock_mask

theorem execCacheLoadLock_keeps (src : Src) (force : Bool) (s : State) : KeepsRes execCacheLoadLock_mask s (execCacheLoadLock
    src force s) := by
  unfold execCacheLoadLock
  refine KeepsRes.trans ?_ (State.cacheOp_keeps _ _ _ _ _ (fun t0 r1 => ?_))
  · exact Keeps.refl _ _
  refine Keeps.foldl (fun t2 a3 => ?_) ?_
  · exact Keeps.step (State.loadLock_keeps ..) (Keeps.refl _ _)
  exact Keeps.refl _ _

def execCacheOpDone_mask : Nat := State.advance_mask ||| fieldBits [Reg.MEMC_CACHE_OP_RESULT, Reg.MEMC_CACHE_OP_BUSY]

theorem execCacheOpDone_keeps (dt : Nat) (s : State) : KeepsRes execCacheOpDone_mask s (execCacheOpDone dt s) := by
  unfold execCacheOpDone
  refine KeepsRes.ite ?_ ?_
  · exact KeepsRes.next (Keeps.refl _ _)
  exact KeepsRes.next (Keeps.wr (Keeps.clr (Keeps.step (State.advance_keeps ..) (Keeps.refl _ _))))

def State.emptyWays_mask : Nat := State.drainIf_mask ||| State.setLines_mask

theorem State.emptyWays_keeps (s : State) (p : CLine → Bool) : Keeps State.emptyWays_mask s (State.emptyWays s p) := by
  unfold State.emptyWays
  extract_lets +onlyGivenNames y0
  clear_value y0
  extract_lets +onlyGivenNames y1
  have h2 : Keeps State.emptyWays_mask s y1 := Keeps.step (State.drainIf_keeps ..) (Keeps.refl _ _)
  clear_value y1
  exact Keeps.step (State.setLines_keeps ..) h2

def execCacheWayLockWrite_mask : Nat := State.emptyWays_mask ||| State.setLines_mask ||| fieldBits
    [Reg.MEMC_CACHE_STAT_LOCK_ERR, Reg.MEMC_CACHE_LOCK_LOCK]

theorem execCacheWayLockWrite_keeps (src : Src) (mask : BitVec 16) (s : State) : KeepsRes execCacheWayLockWrite_mask s
    (execCacheWayLockWrite src mask s) := by
  unfold execCacheWayLockWrite
  extract_lets +onlyGivenNames y0
  clear_value y0
  extract_lets +onlyGivenNames y1
  clear_value y1
  extract_lets +onlyGivenNames y2
  clear_value y2
  refine KeepsRes.ite ?_ ?_
  · exact KeepsRes.next (Keeps.refl _ _)
  refine KeepsRes.ite ?_ ?_
  · exact KeepsRes.next (Keeps.set1 (Keeps.refl _ _))
  extract_lets +onlyGivenNames y3
  have h4 : Keeps execCacheWayLockWrite_mask s y3 := Keeps.step (State.emptyWays_keeps ..) (Keeps.refl _ _)
  clear_value y3
  extract_lets +onlyGivenNames y5
  have h6 : Keeps execCacheWayLockWrite_mask s y5 := Keeps.step (State.setLines_keeps ..) h4
  clear_value y5
  exact KeepsRes.next (Keeps.wr h6)

def State.setWays_mask : Nat := State.emptyWays_mask ||| fieldBits [Reg.MEMC_CACHE_PWR_PWR_STATE, Reg.MEMC_CACHE_PWR_ON]

theorem State.setWays_keeps (s : State) (on : Nat) : Keeps State.setWays_mask s (State.setWays s on) := by
  unfold State.setWays
  extract_lets +onlyGivenNames y0
  clear_value y0
  extract_lets +onlyGivenNames y1
  have h2 : Keeps State.setWays_mask s y1 := Keeps.step (State.emptyWays_keeps ..) (Keeps.refl _ _)
  clear_value y1
  exact Keeps.wr (Keeps.wr h2)

def execCacheWayPowerWrite_mask : Nat := State.setWays_mask ||| fieldBits [Reg.MEMC_CACHE_STAT_LOCK_ERR]

theorem execCacheWayPowerWrite_keeps (src : Src) (on : BitVec 4) (s : State) : KeepsRes execCacheWayPowerWrite_mask s
    (execCacheWayPowerWrite src on s) := by
  unfold execCacheWayPowerWrite
  extract_lets +onlyGivenNames y0
  clear_value y0
  extract_lets +onlyGivenNames y1
  clear_value y1
  refine KeepsRes.ite ?_ ?_
  · exact KeepsRes.next (Keeps.refl _ _)
  refine KeepsRes.ite ?_ ?_
  · exact KeepsRes.next (Keeps.set1 (Keeps.refl _ _))
  exact KeepsRes.next (Keeps.step (State.setWays_keeps ..) (Keeps.refl _ _))

def execEccInjectArm_mask : Nat := fieldBits [Reg.MEMC_INJ_CTRL_ARM, Reg.MEMC_INJ_CTRL_DOUBLE, Reg.MEMC_INJ_CTRL_CODEWORD]

theorem execEccInjectArm_keeps (cw : BitVec 2) (double : Bool) (s : State) : KeepsRes execEccInjectArm_mask s (execEccInjectArm
    cw double s) := by
  unfold execEccInjectArm
  exact KeepsRes.next (Keeps.set1 (Keeps.wrB (Keeps.wr (Keeps.refl _ _))))

end Sys2Proof.Machine
end

