-- ==== Sys2Proof/Laws/KeepsCache.lean ====
section
/-!
SUPPORT. What the operations of Machine/Cache.lean leave as it was, one lemma for each.
-/

set_option Elab.async false

namespace Sys2Proof.Machine

def State.sramFixed_mask : Nat := State.raiseWin_mask ||| fieldBits [Reg.MEMC_SRAM_CE_COUNT]

theorem State.sramFixed_keeps (s : State) (u : Nat) : Keeps State.sramFixed_mask s (State.sramFixed s u) := by
  unfold State.sramFixed
  exact Keeps.step (State.raiseWin_keeps ..) (Keeps.bump (Keeps.refl _ _))

def State.sramBad_mask : Nat := State.raise_mask

theorem State.sramBad_keeps (s : State) (u : Nat) : Keeps State.sramBad_mask s (State.sramBad s u) := by
  unfold State.sramBad
  exact Keeps.step (State.raise_keeps ..) (Keeps.refl _ _)

def State.coreTrap_mask : Nat := State.raise_mask ||| State.cinder_mask ||| partBits [.ms]

theorem State.coreTrap_keeps (s : State) (core addr : Nat) : Keeps State.coreTrap_mask s (State.coreTrap s core addr) := by
  unfold State.coreTrap
  extract_lets +onlyGivenNames y0
  have h1 : Keeps State.coreTrap_mask s y0 := Keeps.step (State.raise_keeps ..) (Keeps.refl _ _)
  clear_value y0
  refine Keeps.ite ?_ ?_
  · exact Keeps.step (State.cinder_keeps ..) h1
  exact Keeps.set_ms h1

def State.readFails_mask : Nat := State.coreTrap_mask ||| State.settle_mask ||| State.failAll_mask ||| State.cinder_mask

theorem State.readFails_keeps (s : State) (r : Reader) (addr : Nat) : Keeps State.readFails_mask s (State.readFails s r addr)
    := by
  unfold State.readFails
  split
  · rename_i z0 z1
    exact Keeps.step (State.coreTrap_keeps ..) (Keeps.refl _ _)
  · rename_i z2 z3
    exact Keeps.step (State.coreTrap_keeps ..) (Keeps.refl _ _)
  · rename_i z4 z5 z6
    exact Keeps.step (State.settle_keeps ..) (Keeps.step (State.failAll_keeps ..) (Keeps.refl _ _))
  rename_i z7
  exact Keeps.step (State.cinder_keeps ..) (Keeps.refl _ _)

def State.fill_mask : Nat := State.useLine_mask ||| State.setLines_mask

theorem State.fill_keeps (s : State) (line : Nat) : Keeps State.fill_mask s (State.fill s line) := by
  unfold State.fill
  split
  · rename_i z0 z1
    exact Keeps.refl _ _
  rename_i z2 z3 z4
  extract_lets +onlyGivenNames y5
  clear_value y5
  exact Keeps.step (State.useLine_keeps ..) (Keeps.step (State.setLines_keeps ..) (Keeps.refl _ _))

def State.give_mask : Nat := State.emit_mask

theorem State.give_keeps (s : State) (r : Reader) (addr : Nat) (bytes : List Nat) : Keeps State.give_mask s (State.give s r
    addr bytes) := by
  unfold State.give
  exact Keeps.step (State.emit_keeps ..) (Keeps.refl _ _)

def State.readDram_mask : Nat := State.touchDram_mask ||| State.noteUe_mask ||| State.readFails_mask ||| State.correctRange_mask |||
  State.give_mask

theorem State.readDram_keeps {m : Nat} (s : State) (r : Reader) (addr n : Nat) (keep : State → State) (hf : ∀ t, Keeps m t (keep t))
    (hm : State.readDram_mask ||| m = m := by decide +kernel) : Keeps m s (s.readDram r addr n keep) := by
  have k : ∀ {a : Nat}, a ||| State.readDram_mask = State.readDram_mask → a ||| m = m := by
    intro a h; rw [← hm, ← Nat.or_assoc, h]
  unfold State.readDram
  extract_lets a s1
  have h1 : Keeps m s s1 := Keeps.step (State.touchDram_keeps ..) (Keeps.refl _ _) (k (by decide +kernel))
  split
  · exact Keeps.step (State.readFails_keeps ..) (Keeps.step (State.noteUe_keeps ..) h1 (k (by decide +kernel))) (k (by decide +kernel))
  · exact Keeps.step (State.give_keeps ..) (Keeps.trans (Keeps.step (State.correctRange_keeps ..) h1 (k (by decide +kernel))) (hf _))
      (k (by decide +kernel))

def State.tagBad_mask : Nat := State.sramBad_mask ||| State.setLines_mask ||| State.raise_mask

theorem State.tagBad_keeps (s : State) (k : Nat) : Keeps State.tagBad_mask s (State.tagBad s k) := by
  unfold State.tagBad
  extract_lets +onlyGivenNames y0
  have h1 : Keeps State.tagBad_mask s y0 := Keeps.step (State.sramBad_keeps ..) (Keeps.refl _ _)
  clear_value y0
  extract_lets +onlyGivenNames y2
  have h3 : Keeps State.tagBad_mask s y2 := Keeps.step (State.setLines_keeps ..) h1
  clear_value y2
  refine Keeps.ite ?_ ?_
  · exact Keeps.step (State.raise_keeps ..) h3
  exact h3

def State.readMiss_mask : Nat := State.readDram_mask ||| State.fill_mask ||| fieldBits [Reg.MEMC_CACHE_MISSES_COUNT]

theorem State.readMiss_keeps (s : State) (r : Reader) (addr n : Nat) : Keeps State.readMiss_mask s (State.readMiss s r addr n)
    := by
  unfold State.readMiss
  refine Keeps.trans ?_ (State.readDram_keeps _ _ _ _ _ (fun t0 => ?_))
  · exact Keeps.bump (Keeps.refl _ _)
  exact Keeps.step (State.fill_keeps ..) (Keeps.refl _ _)

def State.cacheRead_mask : Nat := State.readDram_mask ||| State.ownRead_mask ||| State.sramFixed_mask ||| State.tagBad_mask |||
    State.readMiss_mask ||| State.useLine_mask ||| State.give_mask ||| State.sramBad_mask ||| State.setLines_mask ||| fieldBits
    [Reg.MEMC_CACHE_HITS_COUNT]

theorem State.cacheRead_keeps (s : State) (r : Reader) (addr n : Nat) (tag data : SramWord) : Keeps State.cacheRead_mask s
    (State.cacheRead s r addr n tag data) := by
  unfold State.cacheRead
  extract_lets +onlyGivenNames y0
  clear_value y0
  refine Keeps.ite ?_ ?_
  · refine Keeps.trans ?_ (State.readDram_keeps _ _ _ _ _ (fun t1 => ?_))
    · exact Keeps.step (State.ownRead_keeps ..) (Keeps.refl _ _)
    dsimp only [id]
    exact Keeps.refl _ _
  extract_lets +onlyGivenNames y3
  have h4 : Keeps State.cacheRead_mask s y3 := by
    unfold y3
    split
    · rename_i z5
      exact Keeps.refl _ _
    · rename_i z6
      exact Keeps.step (State.sramFixed_keeps ..) (Keeps.refl _ _)
    rename_i z7
    exact Keeps.step (State.tagBad_keeps ..) (Keeps.refl _ _)
  clear_value y3
  split
  · rename_i z8 z9
    exact Keeps.step (State.readMiss_keeps ..) h4
  rename_i z10 z11 z12
  extract_lets +onlyGivenNames y13
  have h14 : Keeps State.cacheRead_mask s y13 := Keeps.bump (Keeps.step (State.useLine_keeps ..) h4)
  clear_value y13
  extract_lets +onlyGivenNames y15
  have h16 : ∀ t17, Keeps State.cacheRead_mask t17 (y15 t17) := by
    intro t17
    unfold y15
    exact Keeps.step (State.give_keeps ..) (Keeps.refl _ _)
  clear_value y15
  split
  · rename_i z18
    exact Keeps.trans h14 (h16 _)
  · rename_i z19
    exact Keeps.trans (Keeps.step (State.sramFixed_keeps ..) h14) (h16 _)
  rename_i z20
  extract_lets +onlyGivenNames y21
  have h22 : Keeps State.cacheRead_mask s y21 := Keeps.step (State.sramBad_keeps ..) (Keeps.step (State.setLines_keeps ..) h14)
  clear_value y21
  refine Keeps.trans ?_ (State.readDram_keeps _ _ _ _ _ (fun t23 => ?_))
  · exact h22
  refine Keeps.ite ?_ ?_
  · exact Keeps.step (State.setLines_keeps ..) (Keeps.refl _ _)
  exact Keeps.refl _ _

def State.coreWrite_mask : Nat := State.touchDram_mask ||| State.ownWrite_mask ||| State.mergeWrite_mask

theorem State.coreWrite_keeps (s : State) (addr : Nat) (bytes : List Nat) : Keeps State.coreWrite_mask s (State.coreWrite s
    addr bytes) := by
  unfold State.coreWrite
  refine Keeps.ite ?_ ?_
  · exact Keeps.step (State.touchDram_keeps ..) (Keeps.step (State.ownWrite_keeps ..) (Keeps.refl _ _))
  exact Keeps.step (State.mergeWrite_keeps ..) (Keeps.refl _ _)

def State.storeErr_mask : Nat := State.noteUe_mask ||| State.sramBad_mask

theorem State.storeErr_keeps (s : State) (e : StoreError) : Keeps State.storeErr_mask s (State.storeErr s e) := by
  unfold State.storeErr
  split
  · rename_i z0 z1 z2
    exact Keeps.step (State.noteUe_keeps ..) (Keeps.refl _ _)
  rename_i z3
  exact Keeps.step (State.sramBad_keeps ..) (Keeps.refl _ _)

def State.storeBroken_mask : Nat := State.showSlice_mask ||| State.putSlice_mask

theorem State.storeBroken_keeps (s : State) (sl slot : Nat) : Keeps State.storeBroken_mask s (State.storeBroken s sl slot) := by
  unfold State.storeBroken
  extract_lets +onlyGivenNames y0
  clear_value y0
  extract_lets +onlyGivenNames y1
  clear_value y1
  extract_lets +onlyGivenNames y2
  clear_value y2
  split
  rename_i z3 z4 z5 z6
  exact Keeps.step (State.showSlice_keeps ..) (Keeps.step (State.putSlice_keeps ..) (Keeps.refl _ _))

def State.engineBad_mask : Nat := State.sramBad_mask ||| State.settle_mask ||| State.requeue_mask ||| State.eccHalt_mask

theorem State.engineBad_keeps (s : State) (e done : Nat) (host : List Nat) : Keeps State.engineBad_mask s (State.engineBad s e
    done host) := by
  unfold State.engineBad
  extract_lets +onlyGivenNames y0
  have h1 : Keeps State.engineBad_mask s y0 := Keeps.step (State.sramBad_keeps ..) (Keeps.refl _ _)
  clear_value y0
  split
  · rename_i z2 z3
    exact h1
  rename_i z4 z5 z6
  extract_lets +onlyGivenNames y7
  clear_value y7
  extract_lets +onlyGivenNames y8
  clear_value y8
  exact Keeps.step (State.settle_keeps ..) (Keeps.step (State.requeue_keeps ..) (Keeps.step (State.eccHalt_keeps ..) h1))

def State.memAct_mask : Nat := State.cacheRead_mask ||| State.coreWrite_mask ||| State.storeErr_mask ||| State.putSlice_mask
    ||| State.storeBroken_mask ||| State.sramFixed_mask ||| State.cinder_mask ||| State.sramBad_mask ||| State.msgErr_mask |||
    State.engineBad_mask ||| State.readFails_mask ||| State.coreTrap_mask ||| partBits [.ms, .ladders]

theorem State.memAct_keeps (s : State) (a : MemAct) : Keeps State.memAct_mask s (State.memAct s a) := by
  unfold State.memAct
  refine Keeps.ite ?_ ?_
  · exact Keeps.refl _ _
  split
  · rename_i z0 z1 z2 z3 z4 z5
    refine Keeps.ite ?_ ?_
    · exact Keeps.step (State.cacheRead_keeps ..) (Keeps.refl _ _)
    exact Keeps.refl _ _
  · rename_i z6 z7 z8 z9
    refine Keeps.ite ?_ ?_
    · exact Keeps.step (State.coreWrite_keeps ..) (Keeps.refl _ _)
    exact Keeps.refl _ _
  · rename_i z10 z11
    exact Keeps.set_ms (Keeps.refl _ _)
  · rename_i z12 z13 z14 z15 z16 z17
    extract_lets +onlyGivenNames y18
    have h19 : Keeps State.memAct_mask s y18 := Keeps.step (State.storeErr_keeps ..) (Keeps.refl _ _)
    clear_value y18
    extract_lets +onlyGivenNames y20
    clear_value y20
    exact Keeps.step (State.putSlice_keeps ..) h19
  · rename_i z21 z22 z23 z24 z25 z26
    extract_lets +onlyGivenNames y27
    have h28 : Keeps State.memAct_mask s y27 := Keeps.step (State.storeErr_keeps ..) (Keeps.refl _ _)
    clear_value y27
    exact Keeps.set_ladders h28
  · rename_i z29 z30 z31 z32
    exact Keeps.step (State.storeBroken_keeps ..) (Keeps.step (State.storeErr_keeps ..) (Keeps.refl _ _))
  · rename_i z33 z34
    exact Keeps.step (State.sramFixed_keeps ..) (Keeps.refl _ _)
  · rename_i z35
    exact Keeps.step (State.cinder_keeps ..) (Keeps.step (State.sramBad_keeps ..) (Keeps.refl _ _))
  · rename_i z36 z37
    exact Keeps.step (State.msgErr_keeps ..) (Keeps.step (State.sramBad_keeps ..) (Keeps.refl _ _))
  · rename_i z38
    exact Keeps.step (State.sramBad_keeps ..) (Keeps.refl _ _)
  · rename_i z39 z40 z41 z42
    exact Keeps.step (State.engineBad_keeps ..) (Keeps.refl _ _)
  · rename_i z43 z44 z45
    exact Keeps.step (State.readFails_keeps ..) (Keeps.step (State.sramBad_keeps ..) (Keeps.refl _ _))
  · rename_i z46
    exact Keeps.step (State.readFails_keeps ..) (Keeps.step (State.sramBad_keeps ..) (Keeps.refl _ _))
  · rename_i z47 z48 z49
    refine Keeps.ite ?_ ?_
    · exact Keeps.step (State.coreTrap_keeps ..) (Keeps.step (State.sramBad_keeps ..) (Keeps.refl _ _))
    exact Keeps.refl _ _
  rename_i z50
  exact Keeps.step (State.cinder_keeps ..) (Keeps.step (State.sramBad_keeps ..) (Keeps.refl _ _))

def execMergeBufferDrain_mask : Nat := State.memAct_mask ||| State.drainEntry_mask ||| State.advanceTo_mask

theorem execMergeBufferDrain_keeps (acts : List MemAct) (s0 : State) : KeepsRes execMergeBufferDrain_mask s0
    (execMergeBufferDrain acts s0) := by
  unfold execMergeBufferDrain
  extract_lets +onlyGivenNames y0
  have h1 : Keeps execMergeBufferDrain_mask s0 y0 := by
    unfold y0
    refine Keeps.foldl (fun t2 a3 => ?_) ?_
    · exact Keeps.step (State.memAct_keeps ..) (Keeps.refl _ _)
    exact Keeps.refl _ _
  clear_value y0
  split
  · rename_i z4 z5 z6
    exact KeepsRes.next (Keeps.step (State.drainEntry_keeps ..) h1)
  rename_i z7 z8
  split
  · rename_i z9 z10
    exact KeepsRes.next h1
  rename_i z11 z12 z13
  refine KeepsRes.ite ?_ ?_
  · exact KeepsRes.next (Keeps.step (State.drainEntry_keeps ..) h1)
  exact KeepsRes.next (Keeps.step (State.drainEntry_keeps ..) (Keeps.step (State.advanceTo_keeps ..) h1))

end Sys2Proof.Machine
end

