-- ==== Sys2Proof/Laws/KeepsHost.lean ====
section
/-!
SUPPORT. What the operations of Machine/Host.lean leave as it was, one lemma for each.
-/

set_option Elab.async false

namespace Sys2Proof.Machine

def State.showHdm_mask : Nat := fieldBits [Reg.HEP_STATUS_HDM_OPEN]

theorem State.showHdm_keeps (s : State) : Keeps State.showHdm_mask s (State.showHdm s) := by
  unfold State.showHdm
  exact Keeps.wrB (Keeps.refl _ _)

def execHostLinkUp_mask : Nat := State.raise_mask ||| fieldBits [Reg.HEP_STATUS_CXL, Reg.HEP_STATUS_WIDTH,
    Reg.HEP_STATUS_SPEED, Reg.HEP_STATUS_LINK_UP]

theorem execHostLinkUp_keeps (rate width : Nat) (cxl : Bool) (s : State) : KeepsRes execHostLinkUp_mask s (execHostLinkUp rate
    width cxl s) := by
  unfold execHostLinkUp
  refine KeepsRes.ite ?_ ?_
  · exact KeepsRes.next (Keeps.refl _ _)
  extract_lets +onlyGivenNames y0
  have h1 : Keeps execHostLinkUp_mask s y0 := Keeps.wrB (Keeps.wr (Keeps.wr (Keeps.refl _ _)))
  clear_value y0
  extract_lets +onlyGivenNames y2
  have h3 : Keeps execHostLinkUp_mask s y2 := Keeps.step (State.raise_keeps ..) (Keeps.set1 h1)
  clear_value y2
  refine KeepsRes.next (Keeps.ite ?_ ?_)
  · exact Keeps.step (State.raise_keeps ..) h3
  exact h3

def State.cfgBar_mask : Nat := partBits [.hep]

theorem State.cfgBar_keeps (s : State) (off v : Nat) : Keeps State.cfgBar_mask s (State.cfgBar s off v) := by
  unfold State.cfgBar
  refine Keeps.ite ?_ ?_
  · exact Keeps.set_hep (Keeps.refl _ _)
  refine Keeps.ite ?_ ?_
  · exact Keeps.set_hep (Keeps.refl _ _)
  refine Keeps.ite ?_ ?_
  · exact Keeps.set_hep (Keeps.refl _ _)
  exact Keeps.refl _ _

def State.cfgWord_mask : Nat := State.draw_mask

theorem State.cfgWord_keeps (s : State) (off : Nat) : KeepsSnd State.cfgWord_mask s (State.cfgWord s off) := by
  unfold State.cfgWord
  refine KeepsSnd.ite ?_ ?_
  · exact KeepsSnd.mk (Keeps.refl _ _)
  refine KeepsSnd.ite ?_ ?_
  · exact KeepsSnd.mk (Keeps.refl _ _)
  refine KeepsSnd.ite ?_ ?_
  · exact KeepsSnd.mk (Keeps.refl _ _)
  refine KeepsSnd.ite ?_ ?_
  · exact KeepsSnd.mk (Keeps.refl _ _)
  refine KeepsSnd.ite ?_ ?_
  · exact KeepsSnd.mk (Keeps.refl _ _)
  refine KeepsSnd.ite ?_ ?_
  · exact KeepsSnd.mk (Keeps.refl _ _)
  split
  rename_i z0 z1 z2 z3
  exact KeepsSnd.mk (Keeps.ofSnd z3 (KeepsSnd.step (State.draw_keeps ..) (Keeps.refl _ _)))

def execConfigRequest_mask : Nat := State.emit_mask ||| State.cfgWord_mask ||| State.flushPending_mask ||| State.showHdm_mask
    ||| State.cfgBar_mask ||| fieldBits [Reg.HEP_STATUS_ATS_EN, Reg.HEP_STATUS_PASID_EN, Reg.HEP_STATUS_CACHE_EN,
    Reg.HEP_STATUS_MEM_EN] ||| partBits [.hep]

theorem execConfigRequest_keeps (r : CfgReq) (s : State) : KeepsRes execConfigRequest_mask s (execConfigRequest r s) := by
  unfold execConfigRequest
  refine KeepsRes.ite ?_ ?_
  · exact KeepsRes.next (Keeps.refl _ _)
  refine KeepsRes.ite ?_ ?_
  · exact KeepsRes.next (Keeps.step (State.emit_keeps ..) (Keeps.refl _ _))
  split
  · rename_i z0 z1
    split
    rename_i z2 z3 z4 z5
    exact KeepsRes.next (Keeps.step (State.emit_keeps ..) (Keeps.ofSnd z5 (KeepsSnd.step (State.cfgWord_keeps ..) (Keeps.refl _
        _))))
  · rename_i z6 z7 z8
    exact KeepsRes.next (Keeps.step (State.emit_keeps ..) (Keeps.step (State.flushPending_keeps ..) (Keeps.set_hep (Keeps.refl
        _ _))))
  · rename_i z9 z10
    exact KeepsRes.next (Keeps.step (State.emit_keeps ..) (Keeps.wrB (Keeps.refl _ _)))
  · rename_i z11 z12
    exact KeepsRes.next (Keeps.step (State.emit_keeps ..) (Keeps.wrB (Keeps.refl _ _)))
  · rename_i z13 z14
    exact KeepsRes.next (Keeps.step (State.emit_keeps ..) (Keeps.wrB (Keeps.refl _ _)))
  · rename_i z15 z16
    exact KeepsRes.next (Keeps.step (State.emit_keeps ..) (Keeps.step (State.showHdm_keeps ..) (Keeps.wrB (Keeps.refl _ _))))
  rename_i z17 z18 z19
  exact KeepsRes.next (Keeps.step (State.emit_keeps ..) (Keeps.step (State.cfgBar_keeps ..) (Keeps.refl _ _)))

theorem mget_filter {α : Type} (d : α) (q : Nat → Bool) (l : List (Nat × α)) (k : Nat) (hq : q k = true) :
    mget d (l.filter fun p => q p.1) k = mget d l k := by
  induction l with
  | nil => rfl
  | cons x r ih =>
    obtain ⟨a, b⟩ := x
    by_cases h : a = k
    · subst h; simp [hq, mget]
    · by_cases g : q a = true
      · simp [g, mget, h, ih]
      · simp [g, mget, h, ih]

/-- The register fields of blocks that a reset of them clears. -/
def blockMask (blks : List Nat) : Nat := blks.foldl (fun m b => m ||| (1 <<< 160 - 1) <<< (b * 256)) 0

theorem State.resetBlocks_keeps {m : Nat} (s : State) (blks : List Nat)
    (hm : ∀ b ∈ blks, ∀ j < 160, m.testBit (b * 256 + j) = true) : Keeps m s (s.resetBlocks blks) := by
  refine ⟨rfl, id, id, id, Nat.le_refl _, ?_, fun p _ => by cases p <;> rfl⟩
  intro k d hk
  refine mget_filter d (fun k => !(blks.contains (k % 8192 / 256) && decide (k % 256 < 160))) s.regs k ?_
  cases hb : blks.contains (k % 8192 / 256) with
  | false => rfl
  | true =>
    by_cases hj : k % 256 < 160
    · have e : k % 8192 / 256 * 256 + k % 256 = k % 8192 := by omega
      rw [← e, hm _ (List.contains_iff_mem.mp hb) _ hj] at hk
      cases hk
    · simp [hj]

def State.ghostAll_mask : Nat := partBits [.tb, .pw, .stns, .held, .cmds, .ladders, .bufs, .chanJobs, .heads, .lib, .tally,
    .firm]

theorem State.ghostAll_keeps (s : State) : Keeps State.ghostAll_mask s (State.ghostAll s) := by
  unfold State.ghostAll
  extract_lets +onlyGivenNames y0
  unfold y0
  exact Keeps.set_tb_pw_stns_held_cmds_ladders_bufs_chanJobs_heads_lib_tally_firm (Keeps.refl _ _)

def State.stopSilent_mask : Nat := State.abortCmd_mask ||| partBits [.cmds]

theorem State.stopSilent_keeps (s : State) (c : Cmd) : Keeps State.stopSilent_mask s (State.stopSilent s c) := by
  unfold State.stopSilent
  split
  · rename_i z0 z1
    exact Keeps.refl _ _
  rename_i z2 z3 z4
  extract_lets +onlyGivenNames y5
  have h6 : ∀ t7, Keeps State.stopSilent_mask t7 (y5 t7) := by
    intro t7
    unfold y5
    exact Keeps.set_cmds (Keeps.refl _ _)
  clear_value y5
  refine Keeps.ite ?_ ?_
  · exact Keeps.trans (Keeps.refl _ _) (h6 _)
  split
  · rename_i z8 z9 z10
    refine Keeps.ite ?_ ?_
    · exact Keeps.trans (Keeps.ofOpt z10 (KeepsOpt.step (State.abortCmd_keeps _ _) (Keeps.refl _ _))) (h6 _)
    exact Keeps.ofOpt z10 (KeepsOpt.step (State.abortCmd_keeps _ _) (Keeps.refl _ _))
  rename_i z11 z12
  refine Keeps.ite ?_ ?_
  · exact Keeps.trans (Keeps.refl _ _) (h6 _)
  exact Keeps.refl _ _

def State.stopHostDma_mask : Nat := State.putEngine_mask ||| fieldBits [Reg.DMA_CH_STATUS_STATE] ||| partBits [.chanJobs]

theorem State.stopHostDma_keeps (s : State) : Keeps State.stopHostDma_mask s (State.stopHostDma s) := by
  unfold State.stopHostDma
  refine Keeps.foldl (fun t0 a1 => ?_) ?_
  · extract_lets +onlyGivenNames y2
    clear_value y2
    extract_lets +onlyGivenNames y3
    clear_value y3
    extract_lets +onlyGivenNames y4
    clear_value y4
    extract_lets +onlyGivenNames y5
    have h6 : Keeps State.stopHostDma_mask t0 y5 := by
      unfold y5
      refine Keeps.foldl (fun t7 a8 => ?_) ?_
      · exact Keeps.wr (Keeps.refl _ _)
      exact Keeps.refl _ _
    clear_value y5
    extract_lets +onlyGivenNames y9
    clear_value y9
    extract_lets +onlyGivenNames y10
    clear_value y10
    extract_lets +onlyGivenNames y11
    have h12 : Keeps State.stopHostDma_mask t0 y11 := Keeps.step (State.putEngine_keeps ..) h6
    clear_value y11
    exact Keeps.set_chanJobs h12
  exact Keeps.refl _ _

def State.endpointReset_mask : Nat := State.stopSilent_mask ||| State.stopHostDma_mask ||| State.ghostAll_mask |||
    State.settle_mask ||| blockMask [8, 9, 14] ||| partBits [.cmds, .sqs, .cqs, .grps, .profs, .rrGroup, .rrQueue, .rrLeft,
    .copyWait, .hep]

theorem State.endpointReset_keeps (s : State) : Keeps State.endpointReset_mask s (State.endpointReset s) := by
  unfold State.endpointReset
  extract_lets +onlyGivenNames y0
  have h1 : Keeps State.endpointReset_mask s y0 := Keeps.set_cmds (Keeps.refl _ _)
  clear_value y0
  extract_lets +onlyGivenNames y2
  have h3 : Keeps State.endpointReset_mask s y2 := by
    unfold y2
    refine Keeps.foldl (fun t4 a5 => ?_) ?_
    · exact Keeps.step (State.stopSilent_keeps ..) (Keeps.refl _ _)
    exact h1
  clear_value y2
  extract_lets +onlyGivenNames y6
  have h7 : Keeps State.endpointReset_mask s y6 := Keeps.step (State.stopHostDma_keeps ..) (Keeps.step (State.ghostAll_keeps
      ..) h3)
  clear_value y6
  extract_lets +onlyGivenNames y8
  have h9 : Keeps State.endpointReset_mask s y8 := Keeps.trans h7 (State.resetBlocks_keeps _ _ (by decide +kernel))
  clear_value y8
  extract_lets +onlyGivenNames y10
  have h11 : Keeps State.endpointReset_mask s y10 := Keeps.set_sqs_cqs_grps_profs_rrGroup_rrQueue_rrLeft_copyWait_hep h9
  clear_value y10
  exact Keeps.step (State.settle_keeps ..) h11

def execHostEndpointReset_mask : Nat := State.raise_mask ||| State.endpointReset_mask

theorem execHostEndpointReset_keeps (perst : Bool) (s : State) : KeepsRes execHostEndpointReset_mask s (execHostEndpointReset
    perst s) := by
  unfold execHostEndpointReset
  exact KeepsRes.next (Keeps.step (State.raise_keeps ..) (Keeps.step (State.endpointReset_keeps ..) (Keeps.refl _ _)))

def execHdmDecoderCommit_mask : Nat := State.showHdm_mask ||| partBits [.hep]

theorem execHdmDecoderCommit_keeps (ways size : Nat) (s : State) : KeepsRes execHdmDecoderCommit_mask s (execHdmDecoderCommit
    ways size s) := by
  unfold execHdmDecoderCommit
  extract_lets +onlyGivenNames y0
  clear_value y0
  exact KeepsRes.next (Keeps.step (State.showHdm_keeps ..) (Keeps.set_hep (Keeps.refl _ _)))

def State.toHost_mask : Nat := fieldBits [Reg.HEP_BIAS_CNT_TO_HOST] ||| partBits [.hep]

theorem State.toHost_keeps (s : State) (off n : Nat) : Keeps State.toHost_mask s (State.toHost s off n) := by
  unfold State.toHost
  extract_lets +onlyGivenNames y0
  clear_value y0
  extract_lets +onlyGivenNames y1
  clear_value y1
  exact Keeps.bump (Keeps.set_hep (Keeps.refl _ _))

def execHdmHostRead_mask : Nat := State.correctRange_mask ||| State.touchDram_mask ||| State.toHost_mask ||| State.raise_mask
    ||| State.emit_mask ||| State.noteUe_mask

theorem execHdmHostRead_keeps (line : BitVec 33) (s : State) : KeepsRes execHdmHostRead_mask s (execHdmHostRead line s) := by
  unfold execHdmHostRead
  extract_lets +onlyGivenNames y0
  clear_value y0
  refine KeepsRes.ite ?_ ?_
  · exact KeepsRes.next (Keeps.refl _ _)
  extract_lets +onlyGivenNames y1
  clear_value y1
  extract_lets +onlyGivenNames y2
  have h3 : Keeps execHdmHostRead_mask s y2 := Keeps.step (State.correctRange_keeps ..) (Keeps.step (State.touchDram_keeps ..)
      (Keeps.step (State.toHost_keeps ..) (Keeps.refl _ _)))
  clear_value y2
  split
  · rename_i z4 z5 z6 z7
    exact KeepsRes.next (Keeps.step (State.raise_keeps ..) (Keeps.step (State.emit_keeps ..) (Keeps.step (State.noteUe_keeps
        ..) h3)))
  rename_i z8 z9
  exact KeepsRes.next (Keeps.step (State.emit_keeps ..) h3)

def execHdmHostWrite_mask : Nat := State.touchDram_mask ||| State.toHost_mask ||| State.store_mask ||| State.touchLines_mask
    ||| partBits [.mem, .ms]

theorem execHdmHostWrite_keeps (line : BitVec 33) (data : BitVec 512) (mask : BitVec 64) (poison : Bool) (s : State) : KeepsRes
    execHdmHostWrite_mask s (execHdmHostWrite line data mask poison s) := by
  unfold execHdmHostWrite
  extract_lets +onlyGivenNames y0
  clear_value y0
  refine KeepsRes.ite ?_ ?_
  · exact KeepsRes.next (Keeps.refl _ _)
  extract_lets +onlyGivenNames y1
  clear_value y1
  extract_lets +onlyGivenNames y2
  have h3 : Keeps execHdmHostWrite_mask s y2 := Keeps.step (State.touchDram_keeps ..) (Keeps.step (State.toHost_keeps ..)
      (Keeps.refl _ _))
  clear_value y2
  extract_lets +onlyGivenNames y4
  clear_value y4
  extract_lets +onlyGivenNames y5
  have h6 : Keeps execHdmHostWrite_mask s y5 := by
    unfold y5
    refine Keeps.ite ?_ ?_
    · exact Keeps.step (State.store_keeps ..) h3
    exact Keeps.step (State.touchLines_keeps ..) (Keeps.set_mem h3 (memWriteList_wf _ _ _))
  clear_value y5
  refine KeepsRes.next (Keeps.ite ?_ ?_)
  · exact Keeps.set_ms h6
  exact h6

def execPeerWindowCommit_mask : Nat := State.raise_mask ||| fieldBits [Reg.HEP_WIN_COMMIT_ERR_WIN,
    Reg.HEP_WIN_COMMIT_COMMIT_ERR, Reg.HEP_WIN_COMMIT_PENDING] ||| partBits [.hep]

theorem execPeerWindowCommit_keeps (s : State) : KeepsRes execPeerWindowCommit_mask s (execPeerWindowCommit s) := by
  unfold execPeerWindowCommit
  refine KeepsRes.ite ?_ ?_
  · exact KeepsRes.next (Keeps.refl _ _)
  split
  · rename_i z0 z1 z2
    exact KeepsRes.next (Keeps.step (State.raise_keeps ..) (Keeps.wr (Keeps.set1 (Keeps.refl _ _))))
  rename_i z3 z4
  extract_lets +onlyGivenNames y5
  clear_value y5
  extract_lets +onlyGivenNames y6
  have h7 : Keeps execPeerWindowCommit_mask s y6 := Keeps.set_hep (Keeps.refl _ _)
  clear_value y6
  exact KeepsRes.next (Keeps.set1 h7)

def execPeerCommitEffect_mask : Nat := State.raise_mask ||| fieldBits [Reg.HEP_WIN_ACT_CFG_ACTIVE, Reg.HEP_WIN_ACT_TGT_ACTIVE,
    Reg.HEP_WIN_COMMIT_PENDING] ||| partBits [.hep]

theorem execPeerCommitEffect_keeps (s : State) : KeepsRes execPeerCommitEffect_mask s (execPeerCommitEffect s) := by
  unfold execPeerCommitEffect
  refine KeepsRes.ite ?_ ?_
  · exact KeepsRes.next (Keeps.refl _ _)
  extract_lets +onlyGivenNames y0
  have h1 : Keeps execPeerCommitEffect_mask s y0 := by
    unfold y0
    refine Keeps.foldl (fun t2 a3 => ?_) ?_
    · exact Keeps.wr (Keeps.wr (Keeps.refl _ _))
    exact Keeps.refl _ _
  clear_value y0
  extract_lets +onlyGivenNames y4
  clear_value y4
  extract_lets +onlyGivenNames y5
  have h6 : Keeps execPeerCommitEffect_mask s y5 := Keeps.set_hep h1
  clear_value y5
  exact KeepsRes.next (Keeps.step (State.raise_keeps ..) (Keeps.clr h6))

def execPeerRequest_mask : Nat := State.emit_mask ||| State.raiseWin_mask ||| State.correctRange_mask ||| State.touchDram_mask
    ||| State.toHost_mask ||| State.noteUe_mask ||| State.store_mask ||| fieldBits [Reg.HEP_WIN_DROP_COUNT,
    Reg.HEP_WIN_LOG_ID_VALID, Reg.HEP_WIN_LOG_ID_REQ_ID, Reg.HEP_WIN_LOG_ID_WIN, Reg.HEP_WIN_LOG_ADDR]

theorem execPeerRequest_keeps (off : BitVec 36) (len : Fin 4096) (reqId : BitVec 16) (data : Option (List Nat)) (s : State) :
    KeepsRes execPeerRequest_mask s (execPeerRequest off len reqId data s) := by
  unfold execPeerRequest
  extract_lets +onlyGivenNames y0
  clear_value y0
  extract_lets +onlyGivenNames y1
  clear_value y1
  refine KeepsRes.ite ?_ ?_
  · exact KeepsRes.next (Keeps.refl _ _)
  refine KeepsRes.ite ?_ ?_
  · exact KeepsRes.next (Keeps.step (State.emit_keeps ..) (Keeps.refl _ _))
  split
  · rename_i z2 z3 z4
    exact KeepsRes.next (Keeps.step (State.emit_keeps ..) (Keeps.refl _ _))
  · rename_i z5 z6 z7 z8
    extract_lets +onlyGivenNames y9
    clear_value y9
    extract_lets +onlyGivenNames y10
    have h11 : Keeps execPeerRequest_mask s y10 := Keeps.bump (Keeps.refl _ _)
    clear_value y10
    extract_lets +onlyGivenNames y12
    have h13 : Keeps execPeerRequest_mask s y12 := by
      unfold y12
      refine Keeps.ite ?_ ?_
      · exact h11
      exact Keeps.set1 (Keeps.wr (Keeps.wr (Keeps.wr h11)))
    clear_value y12
    exact KeepsRes.next (Keeps.step (State.raiseWin_keeps ..) h13)
  · rename_i z14 z15 z16 z17
    extract_lets +onlyGivenNames y18
    clear_value y18
    extract_lets +onlyGivenNames y19
    have h20 : Keeps execPeerRequest_mask s y19 := Keeps.step (State.correctRange_keeps ..) (Keeps.step (State.touchDram_keeps
        ..) (Keeps.step (State.toHost_keeps ..) (Keeps.refl _ _)))
    clear_value y19
    split
    · rename_i z21 z22 z23 z24
      exact KeepsRes.next (Keeps.step (State.emit_keeps ..) (Keeps.step (State.noteUe_keeps ..) h20))
    rename_i z25 z26
    exact KeepsRes.next (Keeps.step (State.emit_keeps ..) h20)
  rename_i z27 z28 z29 z30 z31
  exact KeepsRes.next (Keeps.step (State.store_keeps ..) (Keeps.step (State.touchDram_keeps ..) (Keeps.step (State.toHost_keeps
      ..) (Keeps.refl _ _))))

def State.denyHost_mask : Nat := State.stopWrite_mask ||| State.fail_mask ||| State.leaveLadders_mask

theorem State.denyHost_keeps (s : State) (c : Cmd) : Keeps State.denyHost_mask s (State.denyHost s c) := by
  unfold State.denyHost
  refine Keeps.ite ?_ ?_
  · exact Keeps.step (State.stopWrite_keeps ..) (Keeps.refl _ _)
  exact Keeps.step (State.fail_keeps ..) (Keeps.step (State.leaveLadders_keeps ..) (Keeps.refl _ _))

def execTranslationCompletion_mask : Nat := State.atcPut_mask ||| State.denyHost_mask ||| State.xlatFault_mask |||
    State.settle_mask ||| State.pretrans_mask ||| partBits [.hep]

theorem execTranslationCompletion_keeps (pasid : Option (BitVec 20)) (addr : BitVec 64) (g : Option Grant) (s : State) :
    KeepsRes execTranslationCompletion_mask s (execTranslationCompletion pasid addr g s) := by
  unfold execTranslationCompletion
  extract_lets +onlyGivenNames y0
  clear_value y0
  extract_lets +onlyGivenNames y1
  clear_value y1
  refine KeepsRes.ite ?_ ?_
  · exact KeepsRes.next (Keeps.refl _ _)
  extract_lets +onlyGivenNames y2
  clear_value y2
  extract_lets +onlyGivenNames y3
  have h4 : Keeps execTranslationCompletion_mask s y3 := Keeps.set_hep (Keeps.refl _ _)
  clear_value y3
  extract_lets +onlyGivenNames y5
  clear_value y5
  extract_lets +onlyGivenNames y6
  clear_value y6
  extract_lets +onlyGivenNames y7
  have h8 : Keeps execTranslationCompletion_mask s y7 := by
    unfold y7
    split
    · rename_i z9 z10
      refine Keeps.ite ?_ ?_
      · exact Keeps.step (State.atcPut_keeps ..) h4
      exact h4
    rename_i z11
    exact h4
  clear_value y7
  extract_lets +onlyGivenNames y12
  clear_value y12
  extract_lets +onlyGivenNames y13
  clear_value y13
  extract_lets +onlyGivenNames y14
  clear_value y14
  extract_lets +onlyGivenNames y15
  have h16 : Keeps execTranslationCompletion_mask s y15 := by
    unfold y15
    refine Keeps.foldl (fun t17 a18 => ?_) ?_
    · exact Keeps.step (State.denyHost_keeps ..) (Keeps.step (State.xlatFault_keeps ..) (Keeps.refl _ _))
    exact h8
  clear_value y15
  refine KeepsRes.next (Keeps.step (State.settle_keeps ..) (Keeps.foldl (fun t19 a20 => ?_) ?_))
  · exact Keeps.step (State.pretrans_keeps ..) (Keeps.refl _ _)
  exact h16

def execAtsInvalidate_mask : Nat := State.advance_mask ||| State.emit_mask ||| State.retryXlat_mask ||| State.useDesc_mask |||
    fieldBits [Reg.HEP_INV_CNT_MAX_US, Reg.HEP_INV_CNT_COUNT] ||| partBits [.hep]

theorem execAtsInvalidate_keeps (pasid : Option (BitVec 20)) (addr size : Nat) (itag : Nat) (us : Fin 101) (s : State) :
    KeepsRes execAtsInvalidate_mask s (execAtsInvalidate pasid addr size itag us s) := by
  unfold execAtsInvalidate
  extract_lets +onlyGivenNames y0
  clear_value y0
  extract_lets +onlyGivenNames y1
  have h2 : Keeps execAtsInvalidate_mask s y1 := Keeps.step (State.advance_keeps ..) (Keeps.refl _ _)
  clear_value y1
  extract_lets +onlyGivenNames y3
  clear_value y3
  extract_lets +onlyGivenNames y4
  have h5 : Keeps execAtsInvalidate_mask s y4 := Keeps.set_hep h2
  clear_value y4
  extract_lets +onlyGivenNames y6
  have h7 : Keeps execAtsInvalidate_mask s y6 := Keeps.wr (Keeps.bump h5)
  clear_value y6
  extract_lets +onlyGivenNames y8
  have h9 : Keeps execAtsInvalidate_mask s y8 := Keeps.step (State.emit_keeps ..) h7
  clear_value y8
  refine KeepsRes.next (Keeps.step (State.retryXlat_keeps ..) (Keeps.foldl (fun t10 a11 => ?_) ?_))
  · exact Keeps.step (State.useDesc_keeps ..) (Keeps.refl _ _)
  exact h9

end Sys2Proof.Machine
end

