-- ==== Sys2Proof/Laws/KeepsStack.lean ====
section
/-!
SUPPORT. What the operations of Machine/Stack.lean leave as it was, one lemma for each.
-/

set_option Elab.async false

namespace Sys2Proof.Machine

def State.sendPort_mask : Nat := State.emit_mask

theorem State.sendPort_keeps (s : State) (p dst mtype : Nat) (items : List Nat) : Keeps State.sendPort_mask s (State.sendPort s
    p dst mtype items) := by
  unfold State.sendPort
  refine Keeps.ite ?_ ?_
  · exact Keeps.step (State.emit_keeps ..) (Keeps.refl _ _)
  exact Keeps.refl _ _

def State.showTable_mask : Nat := fieldBits [Reg.CASC_STATUS_REACHABLE, Reg.CASC_STATUS_MEMBERS, Reg.GCTL_CELL_STACKED,
    Reg.GCTL_CELL_STACK_SIZE]

theorem State.showTable_keeps (s : State) : Keeps State.showTable_mask s (State.showTable s) := by
  unfold State.showTable
  extract_lets +onlyGivenNames y0
  clear_value y0
  extract_lets +onlyGivenNames y1
  have h2 : Keeps State.showTable_mask s y1 := Keeps.wr (Keeps.wr (Keeps.refl _ _))
  clear_value y1
  extract_lets +onlyGivenNames y3
  clear_value y3
  exact Keeps.wrB (Keeps.wr h2)

def State.setReach_mask : Nat := fieldBits [Reg.CASC_CELL_REACH] ||| partBits [.stack]

theorem State.setReach_keeps (s : State) (c : Nat) (b : Bool) : Keeps State.setReach_mask s (State.setReach s c b) := by
  unfold State.setReach
  extract_lets +onlyGivenNames y0
  clear_value y0
  extract_lets +onlyGivenNames y1
  have h2 : Keeps State.setReach_mask s y1 := Keeps.wrB (Keeps.refl _ _)
  clear_value y1
  refine Keeps.ite ?_ ?_
  · exact Keeps.set_stack h2
  refine Keeps.ite ?_ ?_
  · exact Keeps.set_stack h2
  exact h2

def State.loseOthers_mask : Nat := State.setReach_mask

theorem State.loseOthers_keeps (s : State) : Keeps State.loseOthers_mask s (State.loseOthers s) := by
  unfold State.loseOthers
  refine Keeps.foldl (fun t0 a1 => ?_) ?_
  · exact Keeps.step (State.setReach_keeps ..) (Keeps.refl _ _)
  exact Keeps.refl _ _

def State.sendMembers_mask : Nat := State.showTable_mask ||| State.ringSend_mask ||| partBits [.stack]

theorem State.sendMembers_keeps (s : State) : Keeps State.sendMembers_mask s (State.sendMembers s) := by
  unfold State.sendMembers
  extract_lets +onlyGivenNames y0
  have h1 : Keeps State.sendMembers_mask s y0 := Keeps.step (State.showTable_keeps ..) (Keeps.refl _ _)
  clear_value y0
  extract_lets +onlyGivenNames y2
  clear_value y2
  extract_lets +onlyGivenNames y3
  have h4 : Keeps State.sendMembers_mask s y3 := Keeps.set_stack h1
  clear_value y3
  extract_lets +onlyGivenNames y5
  clear_value y5
  refine Keeps.foldl (fun t6 a7 => ?_) ?_
  · exact Keeps.step (State.ringSend_keeps ..) (Keeps.refl _ _)
  exact h4

def execCascadeEnable_mask : Nat := State.showTable_mask ||| fieldBits [Reg.CASC_STATUS_STATE, Reg.GCTL_CELL_CELL_NUM,
    Reg.CASC_CTRL_EN, Reg.CASC_STATUS_SHARED, Reg.CASC_CELL_MAG_SLOTS, Reg.CASC_CELL_STN_FITTED, Reg.CASC_CELL_REACH,
    Reg.CASC_CELL_LISTED] ||| partBits [.stack]

theorem execCascadeEnable_keeps (s : State) : KeepsRes execCascadeEnable_mask s (execCascadeEnable s) := by
  unfold execCascadeEnable
  refine KeepsRes.ite ?_ ?_
  · exact KeepsRes.next (Keeps.refl _ _)
  extract_lets +onlyGivenNames y0
  clear_value y0
  extract_lets +onlyGivenNames y1
  clear_value y1
  extract_lets +onlyGivenNames y2
  have h3 : Keeps execCascadeEnable_mask s y2 := Keeps.wr (Keeps.wr (Keeps.set1 (Keeps.refl _ _)))
  clear_value y2
  extract_lets +onlyGivenNames y4
  have h5 : Keeps execCascadeEnable_mask s y4 := by
    unfold y4
    refine Keeps.ite ?_ ?_
    · exact Keeps.wr (Keeps.wr (Keeps.wr (Keeps.set1 (Keeps.set1 h3))))
    exact Keeps.set1 h3
  clear_value y4
  exact KeepsRes.next (Keeps.step (State.showTable_keeps ..) (Keeps.set_stack h5))

def execCascadeForget_mask : Nat := State.sendMembers_mask ||| fieldBits [Reg.CASC_CTRL_FORGET_CELL, Reg.CASC_CELL_LISTED,
    Reg.CASC_CELL_REACH, Reg.CASC_CELL_VIA, Reg.CASC_CELL_HOPS, Reg.CASC_CELL_STN_FITTED, Reg.CASC_CELL_MAG_SLOTS] ||| partBits
    [.stack]

theorem execCascadeForget_keeps (s : State) : KeepsRes execCascadeForget_mask s (execCascadeForget s) := by
  unfold execCascadeForget
  extract_lets +onlyGivenNames y0
  clear_value y0
  refine KeepsRes.ite ?_ ?_
  · extract_lets +onlyGivenNames y1
    have h2 : Keeps execCascadeForget_mask s y1 := by
      unfold y1
      refine Keeps.foldlMem (fun t3 a4 m5 => ?_) ?_
      · exact Keeps.clr (Keeps.refl _ _) (by revert a4; decide +kernel)
      exact Keeps.refl _ _
    clear_value y1
    exact KeepsRes.next (Keeps.step (State.sendMembers_keeps ..) (Keeps.set_stack h2))
  exact KeepsRes.next (Keeps.refl _ _)

def State.resendTo_mask : Nat := State.emit_mask ||| fieldBits [Reg.CASC_RETX_RETX] ||| partBits [.stack]

theorem State.resendTo_keeps (s : State) (c : Nat) : Keeps State.resendTo_mask s (State.resendTo s c) := by
  unfold State.resendTo
  extract_lets +onlyGivenNames y0
  clear_value y0
  extract_lets +onlyGivenNames y1
  clear_value y1
  extract_lets +onlyGivenNames y2
  have h3 : Keeps State.resendTo_mask s y2 := Keeps.set_stack (Keeps.refl _ _)
  clear_value y2
  extract_lets +onlyGivenNames y4
  have h5 : Keeps State.resendTo_mask s y4 := by
    unfold y4
    refine Keeps.foldl (fun t6 a7 => ?_) ?_
    · exact Keeps.step (State.emit_keeps ..) (Keeps.refl _ _)
    exact h3
  clear_value y4
  exact Keeps.bump h5

def execCascPortUp_mask : Nat := State.advanceTo_mask ||| State.emit_mask ||| State.armCal_mask ||| State.loadPort_mask |||
    State.sendMembers_mask ||| State.raise_mask ||| fieldBits [Reg.CASC_PORT_STATUS_RAW, Reg.CASC_PORT_STATUS_UP,
    Reg.CASC_PORT_STATUS_LOCK, Reg.CASC_STATUS_BROKEN] ||| partBits [.stack]

theorem execCascPortUp_keeps (p : Fin 2) (echoes : List (Nat × Nat)) (whole : Bool) (s : State) : KeepsRes execCascPortUp_mask
    s (execCascPortUp p echoes whole s) := by
  unfold execCascPortUp
  refine KeepsRes.ite ?_ ?_
  · exact KeepsRes.next (Keeps.refl _ _)
  extract_lets +onlyGivenNames y0
  clear_value y0
  extract_lets +onlyGivenNames y1
  clear_value y1
  extract_lets +onlyGivenNames y2
  have h3 : Keeps execCascPortUp_mask s y2 := by
    unfold y2
    refine Keeps.ite ?_ ?_
    · exact Keeps.step (State.advanceTo_keeps ..) (Keeps.refl _ _)
    exact Keeps.refl _ _
  clear_value y2
  extract_lets +onlyGivenNames y4
  have h5 : Keeps execCascPortUp_mask s y4 := by
    unfold y4
    refine Keeps.foldl (fun t6 a7 => ?_) ?_
    · exact Keeps.step (State.emit_keeps ..) (Keeps.refl _ _)
    exact h3
  clear_value y4
  extract_lets +onlyGivenNames y8
  clear_value y8
  extract_lets +onlyGivenNames y9
  have h10 : Keeps execCascPortUp_mask s y9 := Keeps.wr (Keeps.set_stack h5)
  clear_value y9
  refine KeepsRes.ite ?_ ?_
  · exact KeepsRes.next h10
  extract_lets +onlyGivenNames y11
  have h12 : Keeps execCascPortUp_mask s y11 := Keeps.step (State.armCal_keeps ..) (Keeps.step (State.loadPort_keeps ..)
      (Keeps.set1 (Keeps.set1 h10)))
  clear_value y11
  extract_lets +onlyGivenNames y13
  clear_value y13
  extract_lets +onlyGivenNames y14
  have h15 : Keeps execCascPortUp_mask s y14 := by
    unfold y14
    refine Keeps.ite ?_ ?_
    · exact Keeps.clr h12
    exact h12
  clear_value y14
  extract_lets +onlyGivenNames y16
  have h17 : Keeps execCascPortUp_mask s y16 := by
    unfold y16
    refine Keeps.ite ?_ ?_
    · exact Keeps.step (State.sendMembers_keeps ..) h15
    exact h15
  clear_value y16
  refine KeepsRes.next (Keeps.ite ?_ ?_)
  · exact Keeps.step (State.raise_keeps ..) h17
  exact h17

def State.portDown_mask : Nat := State.abandonCal_mask ||| State.raise_mask ||| State.resendTo_mask ||| fieldBits
    [Reg.CASC_PORT_STATUS_LOCK, Reg.CASC_PORT_STATUS_UP, Reg.CASC_STATUS_BROKEN, Reg.CASC_CELL_HOPS, Reg.CASC_CELL_VIA] |||
    partBits [.stack]

theorem State.portDown_keeps (s : State) (p : Nat) : Keeps State.portDown_mask s (State.portDown s p) := by
  unfold State.portDown
  refine Keeps.ite ?_ ?_
  · exact Keeps.refl _ _
  extract_lets +onlyGivenNames y0
  have h1 : Keeps State.portDown_mask s y0 := Keeps.step (State.abandonCal_keeps ..) (Keeps.clr (Keeps.clr (Keeps.refl _ _)))
  clear_value y0
  extract_lets +onlyGivenNames y2
  clear_value y2
  extract_lets +onlyGivenNames y3
  have h4 : Keeps State.portDown_mask s y3 := Keeps.set_stack h1
  clear_value y3
  extract_lets +onlyGivenNames y5
  extract_lets +onlyGivenNames y6
  have h7 : Keeps State.portDown_mask s y6 := by
    unfold y6
    refine Keeps.ite ?_ ?_
    · exact Keeps.step (State.raise_keeps ..) (Keeps.set1 h4)
    exact h4
  clear_value y6
  extract_lets +onlyGivenNames y8
  clear_value y8
  extract_lets +onlyGivenNames y9
  clear_value y9
  refine Keeps.ite ?_ ?_
  · refine Keeps.foldl (fun t10 a11 => ?_) ?_
    · exact Keeps.step (State.resendTo_keeps ..) (Keeps.wr (Keeps.wr (Keeps.refl _ _)))
    exact h7
  exact h7

def execCascPortDown_mask : Nat := State.abandonCal_mask ||| State.portDown_mask ||| fieldBits [Reg.CASC_ERR_BLOCK_ERR]

theorem execCascPortDown_keeps (p : Fin 2) (errs : Nat) (s : State) : KeepsRes execCascPortDown_mask s (execCascPortDown p errs
    s) := by
  unfold execCascPortDown
  extract_lets +onlyGivenNames y0
  have h1 : Keeps execCascPortDown_mask s y0 := Keeps.step (State.abandonCal_keeps ..) (Keeps.bump (Keeps.refl _ _))
  clear_value y0
  refine KeepsRes.next (Keeps.ite ?_ ?_)
  · exact Keeps.step (State.portDown_keeps ..) h1
  exact h1

def execRingEchoReceive_mask : Nat := State.emit_mask

theorem execRingEchoReceive_keeps (p : Fin 2) (seq : BitVec 8) (turn : Nat) (s : State) : KeepsRes execRingEchoReceive_mask s
    (execRingEchoReceive p seq turn s) := by
  unfold execRingEchoReceive
  refine KeepsRes.ite ?_ ?_
  · exact KeepsRes.next (Keeps.step (State.emit_keeps ..) (Keeps.refl _ _))
  exact KeepsRes.next (Keeps.refl _ _)

def execAnnounceSend_mask : Nat := State.advanceTo_mask ||| State.sendPort_mask ||| partBits [.stack]

theorem execAnnounceSend_keeps (s : State) : KeepsRes execAnnounceSend_mask s (execAnnounceSend s) := by
  unfold execAnnounceSend
  refine KeepsRes.ite ?_ ?_
  · exact KeepsRes.next (Keeps.refl _ _)
  extract_lets +onlyGivenNames y0
  have h1 : Keeps execAnnounceSend_mask s y0 := Keeps.step (State.advanceTo_keeps ..) (Keeps.refl _ _)
  clear_value y0
  extract_lets +onlyGivenNames y2
  clear_value y2
  extract_lets +onlyGivenNames y3
  clear_value y3
  extract_lets +onlyGivenNames y4
  have h5 : Keeps execAnnounceSend_mask s y4 := Keeps.set_stack h1
  clear_value y4
  exact KeepsRes.next (Keeps.step (State.sendPort_keeps ..) (Keeps.step (State.sendPort_keeps ..) h5))

def State.ringBad_mask : Nat := fieldBits [Reg.CASC_ERR_MSG_ERR]

theorem State.ringBad_keeps (s : State) : Keeps State.ringBad_mask s (State.ringBad s) := by
  unfold State.ringBad
  exact Keeps.bump (Keeps.refl _ _)

def State.pathTo_mask : Nat := fieldBits [Reg.CASC_CELL_HOPS, Reg.CASC_CELL_VIA]

theorem State.pathTo_keeps (s : State) (c p hops : Nat) : Keeps State.pathTo_mask s (State.pathTo s c p hops) := by
  unfold State.pathTo
  extract_lets +onlyGivenNames y0
  clear_value y0
  refine Keeps.ite ?_ ?_
  · exact Keeps.wr (Keeps.wr (Keeps.refl _ _))
  exact Keeps.refl _ _

def execAnnounceReceive_mask : Nat := State.ringBad_mask ||| State.raise_mask ||| State.showTable_mask |||
    State.loseOthers_mask ||| State.sendPort_mask ||| State.setReach_mask ||| State.pathTo_mask ||| State.ringSend_mask |||
    fieldBits [Reg.CASC_STATUS_STATE, Reg.CASC_STATUS_SHARED] ||| partBits [.stack]

theorem execAnnounceReceive_keeps (p : Fin 2) (intact : Bool) (serial : BitVec 64) (shared : Bool) (version hops : Nat) (s :
    State) : KeepsRes execAnnounceReceive_mask s (execAnnounceReceive p intact serial shared version hops s) := by
  unfold execAnnounceReceive
  refine KeepsRes.ite ?_ ?_
  · exact KeepsRes.next (Keeps.refl _ _)
  refine KeepsRes.ite ?_ ?_
  · exact KeepsRes.next (Keeps.step (State.ringBad_keeps ..) (Keeps.refl _ _))
  refine KeepsRes.ite ?_ ?_
  · refine KeepsRes.ite ?_ ?_
    · exact KeepsRes.next (Keeps.refl _ _)
    exact KeepsRes.next (Keeps.step (State.raise_keeps ..) (Keeps.step (State.showTable_keeps ..) (Keeps.step
        (State.loseOthers_keeps ..) (Keeps.wr (Keeps.refl _ _)))))
  extract_lets +onlyGivenNames y0
  have h1 : Keeps execAnnounceReceive_mask s y0 := Keeps.step (State.sendPort_keeps ..) (Keeps.refl _ _)
  clear_value y0
  extract_lets +onlyGivenNames y2
  clear_value y2
  extract_lets +onlyGivenNames y3
  clear_value y3
  extract_lets +onlyGivenNames y4
  clear_value y4
  extract_lets +onlyGivenNames y5
  have h6 : Keeps execAnnounceReceive_mask s y5 := Keeps.set_stack h1
  clear_value y5
  extract_lets +onlyGivenNames y7
  have h8 : Keeps execAnnounceReceive_mask s y7 := Keeps.wrB (Keeps.step (State.setReach_keeps ..) (Keeps.step
      (State.pathTo_keeps ..) h6))
  clear_value y7
  refine KeepsRes.ite ?_ ?_
  · extract_lets +onlyGivenNames y9
    clear_value y9
    exact KeepsRes.next (Keeps.step (State.ringSend_keeps ..) (Keeps.wr h8))
  exact KeepsRes.next h8

def State.ackTo_mask : Nat := State.emit_mask

theorem State.ackTo_keeps (s : State) (c seq : Nat) : Keeps State.ackTo_mask s (State.ackTo s c seq) := by
  unfold State.ackTo
  exact Keeps.step (State.emit_keeps ..) (Keeps.refl _ _)

def State.ringTake_mask : Nat := State.ackTo_mask ||| partBits [.stack]

theorem State.ringTake_keeps (s : State) (r : RingIn) : KeepsFst State.ringTake_mask s (State.ringTake s r) := by
  unfold State.ringTake
  extract_lets +onlyGivenNames y0
  clear_value y0
  extract_lets +onlyGivenNames y1
  have h2 : Keeps State.ringTake_mask s y1 := Keeps.set_stack (Keeps.refl _ _)
  clear_value y1
  extract_lets +onlyGivenNames y3
  clear_value y3
  refine KeepsFst.ite ?_ ?_
  · extract_lets +onlyGivenNames y4
    clear_value y4
    extract_lets +onlyGivenNames y5
    have h6 : Keeps State.ringTake_mask s y5 := Keeps.set_stack h2
    clear_value y5
    exact KeepsFst.mk (Keeps.step (State.ackTo_keeps ..) h6)
  refine KeepsFst.mk (Keeps.ite ?_ ?_)
  · exact Keeps.step (State.ackTo_keeps ..) h2
  exact h2

def State.ringIn_mask : Nat := State.ringBad_mask ||| State.ringTake_mask

theorem State.ringIn_keeps {m : Nat} (s : State) (p : Nat) (r : RingIn) (f : State → State) (hf : ∀ t, Keeps m t (f t))
    (hm : State.ringIn_mask ||| m = m := by decide +kernel) : KeepsRes m s (s.ringIn p r f) := by
  have h0 : State.ringBad_mask ||| m = m := by rw [← hm, ← Nat.or_assoc]; congr 1
  have h1 : State.ringTake_mask ||| m = m := by rw [← hm, ← Nat.or_assoc]; congr 1
  unfold State.ringIn
  refine KeepsRes.ite (KeepsRes.next (Keeps.refl _ _)) (KeepsRes.ite
    (KeepsRes.next (Keeps.step (State.ringBad_keeps ..) (Keeps.refl _ _) h0)) (KeepsRes.ite (KeepsRes.next (Keeps.refl _ _)) ?_))
  have ht : KeepsFst m s (s.ringTake r) := KeepsFst.step (State.ringTake_keeps ..) (Keeps.refl _ _) h1
  split
  · rename_i t e; exact KeepsRes.next (Keeps.trans (Keeps.ofFst e ht) (hf _))
  · rename_i t e; exact KeepsRes.next (Keeps.ofFst e ht)

def State.joinSeq_mask : Nat := partBits [.stack]

theorem State.joinSeq_keeps (s : State) (r : RingIn) : Keeps State.joinSeq_mask s (State.joinSeq s r) := by
  unfold State.joinSeq
  exact Keeps.set_stack (Keeps.refl _ _)

def execJoinReceive_mask : Nat := State.ringIn_mask ||| State.joinSeq_mask ||| State.raise_mask ||| State.sendPort_mask |||
    State.setReach_mask ||| State.pathTo_mask ||| State.sendMembers_mask ||| fieldBits [Reg.CASC_CELL_STN_FITTED,
    Reg.CASC_CELL_MAG_SLOTS, Reg.CASC_CELL_LISTED] ||| partBits [.stack]

theorem execJoinReceive_keeps (p : Fin 2) (hops : Fin 8) (r : RingIn) (s : State) : KeepsRes execJoinReceive_mask s
    (execJoinReceive p hops r s) := by
  unfold execJoinReceive
  refine KeepsRes.ite ?_ ?_
  · exact KeepsRes.next (Keeps.refl _ _)
  refine KeepsRes.trans ?_ (State.ringIn_keeps _ _ _ _ (fun t0 => ?_))
  · exact Keeps.step (State.joinSeq_keeps ..) (Keeps.refl _ _)
  extract_lets +onlyGivenNames y2
  clear_value y2
  extract_lets +onlyGivenNames y3
  clear_value y3
  extract_lets +onlyGivenNames y4
  clear_value y4
  refine Keeps.ite ?_ ?_
  · exact Keeps.step (State.raise_keeps ..) (Keeps.step (State.sendPort_keeps ..) (Keeps.refl _ _))
  extract_lets +onlyGivenNames y5
  have h6 : Keeps execJoinReceive_mask t0 y5 := Keeps.step (State.setReach_keeps ..) (Keeps.step (State.pathTo_keeps ..)
      (Keeps.refl _ _))
  clear_value y5
  extract_lets +onlyGivenNames y7
  have h8 : Keeps execJoinReceive_mask t0 y7 := Keeps.wr (Keeps.wr (Keeps.set1 h6))
  clear_value y7
  extract_lets +onlyGivenNames y9
  clear_value y9
  extract_lets +onlyGivenNames y10
  have h11 : Keeps execJoinReceive_mask t0 y10 := Keeps.set_stack h8
  clear_value y10
  exact Keeps.step (State.sendMembers_keeps ..) (Keeps.step (State.raise_keeps ..) h11)

def State.takeMember_mask : Nat := State.setReach_mask ||| fieldBits [Reg.CASC_CELL_MAG_SLOTS, Reg.CASC_CELL_STN_FITTED,
    Reg.CASC_CELL_LISTED, Reg.CASC_CELL_HOPS, Reg.CASC_CELL_VIA]

theorem State.takeMember_keeps (s : State) (words : List Nat) (c : Nat) : Keeps State.takeMember_mask s (State.takeMember s
    words c) := by
  unfold State.takeMember
  extract_lets +onlyGivenNames y0
  clear_value y0
  extract_lets +onlyGivenNames y1
  clear_value y1
  extract_lets +onlyGivenNames y2
  clear_value y2
  extract_lets +onlyGivenNames y3
  clear_value y3
  extract_lets +onlyGivenNames y4
  have h5 : Keeps State.takeMember_mask s y4 := Keeps.wr (Keeps.wr (Keeps.wr (Keeps.refl _ _)))
  clear_value y4
  extract_lets +onlyGivenNames y6
  have h7 : Keeps State.takeMember_mask s y6 := Keeps.step (State.setReach_keeps ..) h5
  clear_value y6
  refine Keeps.ite ?_ ?_
  · exact Keeps.clr (Keeps.clr h7)
  refine Keeps.ite ?_ ?_
  · exact Keeps.wr (Keeps.wr h7)
  exact Keeps.wr (Keeps.wr h7)

def execMembersReceive_mask : Nat := State.ringIn_mask ||| State.joinSeq_mask ||| State.takeMember_mask |||
    State.showTable_mask ||| fieldBits [Reg.CASC_STATUS_REFUSE, Reg.CASC_STATUS_STATE]

theorem execMembersReceive_keeps (p : Fin 2) (r : RingIn) (s : State) : KeepsRes execMembersReceive_mask s (execMembersReceive
    p r s) := by
  unfold execMembersReceive
  refine KeepsRes.ite ?_ ?_
  · exact KeepsRes.next (Keeps.refl _ _)
  refine KeepsRes.ite ?_ ?_
  · refine KeepsRes.ite ?_ ?_
    · exact KeepsRes.next (Keeps.refl _ _)
    exact KeepsRes.next (Keeps.wr (Keeps.wr (Keeps.refl _ _)))
  refine KeepsRes.trans ?_ (State.ringIn_keeps _ _ _ _ (fun t0 => ?_))
  · refine Keeps.ite ?_ ?_
    · exact Keeps.step (State.joinSeq_keeps ..) (Keeps.refl _ _)
    exact Keeps.refl _ _
  extract_lets +onlyGivenNames y2
  have h3 : Keeps execMembersReceive_mask t0 y2 := by
    unfold y2
    refine Keeps.foldl (fun t4 a5 => ?_) ?_
    · exact Keeps.step (State.takeMember_keeps ..) (Keeps.refl _ _)
    exact Keeps.refl _ _
  clear_value y2
  extract_lets +onlyGivenNames y6
  clear_value y6
  exact Keeps.step (State.showTable_keeps ..) (Keeps.clr (Keeps.wr h3))

def execRingMessageForward_mask : Nat := State.ringBad_mask ||| State.emit_mask ||| partBits [.stack]

theorem execRingMessageForward_keeps (p : Fin 2) (mtype : Nat) (r : RingIn) (s : State) : KeepsRes execRingMessageForward_mask
    s (execRingMessageForward p mtype r s) := by
  unfold execRingMessageForward
  refine KeepsRes.ite ?_ ?_
  · exact KeepsRes.next (Keeps.refl _ _)
  refine KeepsRes.ite ?_ ?_
  · exact KeepsRes.next (Keeps.step (State.ringBad_keeps ..) (Keeps.refl _ _))
  refine KeepsRes.ite ?_ ?_
  · exact KeepsRes.next (Keeps.refl _ _)
  extract_lets +onlyGivenNames y0
  clear_value y0
  extract_lets +onlyGivenNames y1
  have h2 : Keeps execRingMessageForward_mask s y1 := Keeps.set_stack (Keeps.refl _ _)
  clear_value y1
  refine KeepsRes.ite ?_ ?_
  · exact KeepsRes.next (Keeps.step (State.emit_keeps ..) h2)
  exact KeepsRes.next h2

def execRingRetransmit_mask : Nat := State.resendTo_mask ||| State.advanceTo_mask

theorem execRingRetransmit_keeps (dst : Fin 8) (s : State) : KeepsRes execRingRetransmit_mask s (execRingRetransmit dst s) := by
  unfold execRingRetransmit
  split
  · rename_i z0 z1
    exact KeepsRes.next (Keeps.refl _ _)
  rename_i z2 z3 z4
  exact KeepsRes.next (Keeps.step (State.resendTo_keeps ..) (Keeps.step (State.advanceTo_keeps ..) (Keeps.refl _ _)))

def State.fillRing_mask : Nat := State.emit_mask ||| partBits [.stack]

theorem State.fillRing_keeps : ∀ (n : Nat) (s : State) (c : Nat), Keeps State.fillRing_mask s (State.fillRing n s c) := by
  intro n
  induction n with
  | zero => intro s c; exact Keeps.refl _ _
  | succ n ih =>
    intro s c
    unfold State.fillRing
    refine Keeps.ite ?_ ?_
    · split
      · rename_i z0 z1
        exact Keeps.refl _ _
      rename_i z2 z3 z4
      extract_lets +onlyGivenNames y5
      clear_value y5
      extract_lets +onlyGivenNames y6
      have h7 : Keeps State.fillRing_mask s y6 := Keeps.set_stack (Keeps.refl _ _)
      clear_value y6
      exact Keeps.step (ih ..) (Keeps.step (State.emit_keeps ..) h7) (Nat.or_self _)
    exact Keeps.refl _ _

def State.ackTransfers_mask : Nat := partBits [.lib]

theorem State.ackTransfers_keeps (s : State) (c : Nat) : Keeps State.ackTransfers_mask s (State.ackTransfers s c) := by
  unfold State.ackTransfers
  extract_lets +onlyGivenNames y0
  clear_value y0
  exact Keeps.set_lib (Keeps.refl _ _)

def State.ackProxies_mask : Nat := partBits [.stack]

theorem State.ackProxies_keeps (s : State) (c : Nat) : Keeps State.ackProxies_mask s (State.ackProxies s c) := by
  unfold State.ackProxies
  extract_lets +onlyGivenNames y0
  clear_value y0
  exact Keeps.set_stack (Keeps.refl _ _)

def execRingAckReceive_mask : Nat := State.ringBad_mask ||| State.settle_mask ||| State.ackProxies_mask |||
    State.ackTransfers_mask ||| State.fillRing_mask ||| partBits [.stack]

theorem execRingAckReceive_keeps (p : Fin 2) (r : RingIn) (s : State) : KeepsRes execRingAckReceive_mask s (execRingAckReceive
    p r s) := by
  unfold execRingAckReceive
  refine KeepsRes.ite ?_ ?_
  · exact KeepsRes.next (Keeps.refl _ _)
  refine KeepsRes.ite ?_ ?_
  · exact KeepsRes.next (Keeps.step (State.ringBad_keeps ..) (Keeps.refl _ _))
  refine KeepsRes.ite ?_ ?_
  · exact KeepsRes.next (Keeps.refl _ _)
  extract_lets +onlyGivenNames y0
  clear_value y0
  extract_lets +onlyGivenNames y1
  clear_value y1
  extract_lets +onlyGivenNames y2
  clear_value y2
  extract_lets +onlyGivenNames y3
  have h4 : Keeps execRingAckReceive_mask s y3 := Keeps.set_stack (Keeps.refl _ _)
  clear_value y3
  exact KeepsRes.next (Keeps.step (State.settle_keeps ..) (Keeps.step (State.ackProxies_keeps ..) (Keeps.step
      (State.ackTransfers_keeps ..) (Keeps.step (State.fillRing_keeps ..) h4))))

def State.enterStack_mask : Nat := State.setLocked_mask ||| State.raise_mask ||| State.jumped_mask ||| State.showFreq_mask |||
    State.slew_mask ||| State.moveTime_mask ||| State.advanceMod_mask ||| fieldBits [Reg.TIME_STATUS_STATE,
    Reg.TIME_STATUS_STEP_PENDING] ||| partBits [.tb]

theorem State.enterStack_keeps (s : State) (e : Int) (sec : Nat) : Keeps State.enterStack_mask s (State.enterStack s e sec) :=
    by
  unfold State.enterStack
  extract_lets +onlyGivenNames y0
  clear_value y0
  extract_lets +onlyGivenNames y1
  have h2 : Keeps State.enterStack_mask s y1 := Keeps.step (State.setLocked_keeps ..) (Keeps.wr (Keeps.refl _ _))
  clear_value y1
  extract_lets +onlyGivenNames y3
  unfold y3
  extract_lets +onlyGivenNames y4
  have h5 : Keeps State.enterStack_mask s y4 := Keeps.set_tb h2
  clear_value y4
  extract_lets +onlyGivenNames y6
  have h7 : Keeps State.enterStack_mask s y6 := Keeps.clr h5
  clear_value y6
  extract_lets +onlyGivenNames y8
  have h9 : Keeps State.enterStack_mask s y8 := Keeps.step (State.raise_keeps ..) h7
  clear_value y8
  refine Keeps.ite ?_ ?_
  · extract_lets +onlyGivenNames y10
    clear_value y10
    exact Keeps.step (State.jumped_keeps ..) (Keeps.step (State.showFreq_keeps ..) (Keeps.step (State.slew_keeps ..)
        (Keeps.step (State.moveTime_keeps ..) (Keeps.step (State.advanceMod_keeps ..) h9))))
  exact Keeps.step (State.showFreq_keeps ..) (Keeps.step (State.slew_keeps ..) h9)

def execSyncReceive_mask : Nat := State.advance_mask ||| State.ringBad_mask ||| State.sendPort_mask ||| State.enterStack_mask
    ||| State.slew_mask ||| State.discipline_mask ||| fieldBits [Reg.TIME_ERR_ERR] ||| partBits [.stack, .tb]

theorem execSyncReceive_keeps (dt : Nat) (p : Fin 2) (intact : Bool) (origin : BitVec 64) (acc : BitVec 32) (locked : Bool)
    (hops : BitVec 3) (residence : Fin 2001) (s : State) : KeepsRes execSyncReceive_mask s (execSyncReceive dt p intact origin
    acc locked hops residence s) := by
  unfold execSyncReceive
  extract_lets +onlyGivenNames y0
  have h1 : Keeps execSyncReceive_mask s y0 := Keeps.step (State.advance_keeps ..) (Keeps.refl _ _)
  clear_value y0
  refine KeepsRes.ite ?_ ?_
  · exact KeepsRes.next h1
  refine KeepsRes.ite ?_ ?_
  · exact KeepsRes.next (Keeps.step (State.ringBad_keeps ..) h1)
  extract_lets +onlyGivenNames y2
  clear_value y2
  extract_lets +onlyGivenNames y3
  have h4 : Keeps execSyncReceive_mask s y3 := Keeps.step (State.sendPort_keeps ..) h1
  clear_value y3
  extract_lets +onlyGivenNames y5
  clear_value y5
  extract_lets +onlyGivenNames y6
  have h7 : Keeps execSyncReceive_mask s y6 := Keeps.set_stack h4
  clear_value y6
  refine KeepsRes.ite ?_ ?_
  · exact KeepsRes.next h7
  extract_lets +onlyGivenNames y8
  clear_value y8
  extract_lets +onlyGivenNames y9
  clear_value y9
  extract_lets +onlyGivenNames y10
  clear_value y10
  extract_lets +onlyGivenNames y11
  clear_value y11
  extract_lets +onlyGivenNames y12
  have h13 : ∀ t14, Keeps execSyncReceive_mask t14 (y12 t14) := by
    intro t14
    unfold y12
    extract_lets +onlyGivenNames y15
    unfold y15
    exact Keeps.set_tb_stack (Keeps.refl _ _)
  clear_value y12
  refine KeepsRes.ite ?_ ?_
  · exact KeepsRes.next (Keeps.trans (Keeps.step (State.enterStack_keeps ..) (Keeps.wrS h7)) (h13 _))
  split
  · rename_i z16 z17
    exact KeepsRes.next (Keeps.trans (Keeps.step (State.slew_keeps ..) (Keeps.wrS h7)) (h13 _))
  rename_i z18 z19 z20
  refine KeepsRes.ite ?_ ?_
  · exact KeepsRes.next (Keeps.trans (Keeps.step (State.discipline_keeps ..) (Keeps.wrS h7)) (h13 _))
  exact KeepsRes.next h7

def State.leaveStack_mask : Nat := State.enterHoldover_mask ||| partBits [.stack]

theorem State.leaveStack_keeps (s : State) : Keeps State.leaveStack_mask s (State.leaveStack s) := by
  unfold State.leaveStack
  extract_lets +onlyGivenNames y0
  clear_value y0
  extract_lets +onlyGivenNames y1
  have h2 : Keeps State.leaveStack_mask s y1 := Keeps.set_stack (Keeps.refl _ _)
  clear_value y1
  exact Keeps.step (State.enterHoldover_keeps ..) h2

def execStackSyncTimeout_mask : Nat := State.leaveStack_mask ||| State.advanceTo_mask

theorem execStackSyncTimeout_keeps (s : State) : KeepsRes execStackSyncTimeout_mask s (execStackSyncTimeout s) := by
  unfold execStackSyncTimeout
  refine KeepsRes.ite ?_ ?_
  · exact KeepsRes.next (Keeps.refl _ _)
  exact KeepsRes.next (Keeps.step (State.leaveStack_keeps ..) (Keeps.step (State.advanceTo_keeps ..) (Keeps.refl _ _)))

def execMemberAbsent_mask : Nat := State.setReach_mask ||| State.advanceTo_mask ||| State.sendMembers_mask ||| State.raise_mask

theorem execMemberAbsent_keeps (c : Fin 8) (s : State) : KeepsRes execMemberAbsent_mask s (execMemberAbsent c s) := by
  unfold execMemberAbsent
  refine KeepsRes.ite ?_ ?_
  · exact KeepsRes.next (Keeps.refl _ _)
  extract_lets +onlyGivenNames y0
  have h1 : Keeps execMemberAbsent_mask s y0 := Keeps.step (State.setReach_keeps ..) (Keeps.step (State.advanceTo_keeps ..)
      (Keeps.refl _ _))
  clear_value y0
  exact KeepsRes.next (Keeps.step (State.sendMembers_keeps ..) (Keeps.step (State.raise_keeps ..) h1))

def execMasterLost_mask : Nat := State.loseOthers_mask ||| State.advanceTo_mask ||| State.raise_mask ||| State.showTable_mask
    ||| State.leaveStack_mask ||| fieldBits [Reg.CASC_STATUS_STATE] ||| partBits [.stack]

theorem execMasterLost_keeps (s : State) : KeepsRes execMasterLost_mask s (execMasterLost s) := by
  unfold execMasterLost
  refine KeepsRes.ite ?_ ?_
  · exact KeepsRes.next (Keeps.refl _ _)
  extract_lets +onlyGivenNames y0
  have h1 : Keeps execMasterLost_mask s y0 := Keeps.step (State.loseOthers_keeps ..) (Keeps.step (State.advanceTo_keeps ..)
      (Keeps.refl _ _))
  clear_value y0
  extract_lets +onlyGivenNames y2
  clear_value y2
  extract_lets +onlyGivenNames y3
  have h4 : Keeps execMasterLost_mask s y3 := Keeps.set_stack h1
  clear_value y3
  extract_lets +onlyGivenNames y5
  have h6 : Keeps execMasterLost_mask s y5 := Keeps.step (State.raise_keeps ..) (Keeps.step (State.showTable_keeps ..)
      (Keeps.wr h4))
  clear_value y5
  refine KeepsRes.next (Keeps.ite ?_ ?_)
  · exact Keeps.step (State.leaveStack_keeps ..) h6
  exact h6

def execCrossCellTimeout_mask : Nat := State.advanceTo_mask ||| State.updCmd_mask ||| State.settle_mask |||
    State.stopWrite_mask ||| State.fail_mask ||| State.leaveLadders_mask

theorem execCrossCellTimeout_keeps (sq tag : Nat) (s : State) : KeepsRes execCrossCellTimeout_mask s (execCrossCellTimeout sq
    tag s) := by
  unfold execCrossCellTimeout
  split
  · rename_i z0 z1
    exact KeepsRes.next (Keeps.refl _ _)
  rename_i z2 z3 z4
  split
  · rename_i z5 z6
    exact KeepsRes.next (Keeps.refl _ _)
  rename_i z7 z8 z9
  refine KeepsRes.ite ?_ ?_
  · exact KeepsRes.next (Keeps.refl _ _)
  extract_lets +onlyGivenNames y10
  have h11 : Keeps execCrossCellTimeout_mask s y10 := Keeps.step (State.advanceTo_keeps ..) (Keeps.refl _ _)
  clear_value y10
  extract_lets +onlyGivenNames y12
  have h13 : Keeps execCrossCellTimeout_mask s y12 := Keeps.step (State.updCmd_keeps ..) h11
  clear_value y12
  refine KeepsRes.next (Keeps.step (State.settle_keeps ..) (Keeps.ite ?_ ?_))
  · exact Keeps.step (State.stopWrite_keeps ..) h13
  exact Keeps.step (State.fail_keeps ..) (Keeps.step (State.leaveLadders_keeps ..) h13)

def State.foreign_mask : Nat := State.fail_mask ||| State.acceptWrite_mask ||| State.beginTrans_mask ||| partBits [.cmds,
    .cmdSeq]

theorem State.foreign_keeps (s : State) (src : Nat) (r : List Nat) : Keeps State.foreign_mask s (State.foreign s src r) := by
  unfold State.foreign
  extract_lets +onlyGivenNames y0
  clear_value y0
  extract_lets +onlyGivenNames y1
  clear_value y1
  extract_lets +onlyGivenNames y2
  clear_value y2
  extract_lets +onlyGivenNames y3
  clear_value y3
  extract_lets +onlyGivenNames y4
  clear_value y4
  extract_lets +onlyGivenNames y5
  have h6 : Keeps State.foreign_mask s y5 := Keeps.set_cmds_cmdSeq (Keeps.refl _ _)
  clear_value y5
  refine Keeps.ite ?_ ?_
  · exact Keeps.step (State.fail_keeps ..) h6
  extract_lets +onlyGivenNames y7
  clear_value y7
  extract_lets +onlyGivenNames y8
  have h9 : Keeps State.foreign_mask s y8 := by
    unfold y8
    split
    · rename_i z10 z11
      exact Keeps.step (State.fail_keeps ..) h6
    rename_i z12
    refine Keeps.ite ?_ ?_
    · exact Keeps.step (State.acceptWrite_keeps ..) h6
    exact h6
  clear_value y8
  refine Keeps.ite ?_ ?_
  · exact Keeps.step (State.beginTrans_keeps ..) h9
  exact h9

def State.farOutcome_mask : Nat := State.updCmd_mask ||| State.finish_mask

theorem State.farOutcome_keeps (s : State) (r : List Nat) : Keeps State.farOutcome_mask s (State.farOutcome s r) := by
  unfold State.farOutcome
  extract_lets +onlyGivenNames y0
  clear_value y0
  extract_lets +onlyGivenNames y1
  clear_value y1
  split
  · rename_i z2 z3
    exact Keeps.refl _ _
  rename_i z4 z5 z6
  refine Keeps.ite ?_ ?_
  · exact Keeps.refl _ _
  refine Keeps.ite ?_ ?_
  · extract_lets +onlyGivenNames y7
    clear_value y7
    exact Keeps.step (State.updCmd_keeps ..) (Keeps.refl _ _)
  exact Keeps.step (State.finish_keeps ..) (Keeps.step (State.updCmd_keeps ..) (Keeps.refl _ _))

def execRingCmdReceive_mask : Nat := State.ringIn_mask ||| State.settle_mask ||| State.foreign_mask ||| State.farOutcome_mask
    ||| State.abortCmd_mask

theorem execRingCmdReceive_keeps (p : Fin 2) (r : RingIn) (s : State) : KeepsRes execRingCmdReceive_mask s (execRingCmdReceive
    p r s) := by
  unfold execRingCmdReceive
  refine KeepsRes.trans ?_ (State.ringIn_keeps _ _ _ _ (fun t0 => ?_))
  · exact Keeps.refl _ _
  refine Keeps.step (State.settle_keeps ..) ?_
  split
  · rename_i z2 z3
    exact Keeps.step (State.foreign_keeps ..) (Keeps.refl _ _)
  · rename_i z4 z5
    exact Keeps.step (State.farOutcome_keeps ..) (Keeps.refl _ _)
  rename_i z6 z7 z8
  split
  · rename_i z9 z10
    exact Keeps.refl _ _
  rename_i z11 z12 z13
  refine Keeps.getD ?_ ?_
  · exact KeepsOpt.step (State.abortCmd_keeps _ _) (Keeps.refl _ _)
  exact Keeps.refl _ _

def State.farFrame_mask : Nat := State.ownWrite_mask ||| State.updCmd_mask ||| State.tap_mask ||| State.queueMove_mask

theorem State.farFrame_keeps (s : State) (c : Cmd) (i : Nat) (r : List Nat) : Keeps State.farFrame_mask s (State.farFrame s c i
    r) := by
  unfold State.farFrame
  extract_lets +onlyGivenNames y0
  clear_value y0
  refine Keeps.ite ?_ ?_
  · exact Keeps.refl _ _
  refine Keeps.ite ?_ ?_
  · extract_lets +onlyGivenNames y1
    have h2 : Keeps State.farFrame_mask s y1 := Keeps.step (State.ownWrite_keeps ..) (Keeps.refl _ _)
    clear_value y1
    extract_lets +onlyGivenNames y3
    have h4 : Keeps State.farFrame_mask s y3 := Keeps.step (State.updCmd_keeps ..) h2
    clear_value y3
    refine Keeps.ite ?_ ?_
    · exact Keeps.step (State.tap_keeps ..) h4
    extract_lets +onlyGivenNames y5
    clear_value y5
    exact Keeps.step (State.queueMove_keeps ..) h4
  exact Keeps.step (State.updCmd_keeps ..) (Keeps.refl _ _)

def State.farData_mask : Nat := State.takeBuf_mask ||| State.ownWrite_mask ||| State.writeBroken_mask ||| partBits [.held]

theorem State.farData_keeps (s : State) (c : Cmd) (i : Nat) (r : List Nat) : Keeps State.farData_mask s (State.farData s c i r)
    := by
  unfold State.farData
  split
  · rename_i z0 z1
    exact Keeps.refl _ _
  rename_i z2 z3 z4
  split
  · rename_i z5 z6
    split
    · rename_i z7 z8
      exact Keeps.refl _ _
    rename_i z9 z10 z11 z12
    extract_lets +onlyGivenNames y13
    clear_value y13
    extract_lets +onlyGivenNames y14
    have h15 : Keeps State.farData_mask s y14 := Keeps.set_held (Keeps.ofOptSnd z12 (KeepsOptSnd.step (State.takeBuf_keeps _ _
        _ _) (Keeps.refl _ _)))
    clear_value y14
    exact Keeps.step (State.ownWrite_keeps ..) h15
  · rename_i z16 z17
    exact Keeps.step (State.writeBroken_keeps ..) (Keeps.refl _ _)
  rename_i z18 z19 z20
  exact Keeps.step (State.writeBroken_keeps ..) (Keeps.refl _ _)

def execRingFrameReceive_mask : Nat := State.ringIn_mask ||| State.updCmd_mask ||| State.hostWrites_mask ||| State.settle_mask
    ||| State.farFrame_mask ||| State.farData_mask

theorem execRingFrameReceive_keeps (p : Fin 2) (r : RingIn) (s : State) : KeepsRes execRingFrameReceive_mask s
    (execRingFrameReceive p r s) := by
  unfold execRingFrameReceive
  extract_lets +onlyGivenNames y0
  clear_value y0
  extract_lets +onlyGivenNames y1
  clear_value y1
  extract_lets +onlyGivenNames y2
  clear_value y2
  extract_lets +onlyGivenNames y3
  clear_value y3
  split
  · rename_i z4 z5 z6
    refine KeepsRes.ite ?_ ?_
    · refine KeepsRes.ite ?_ ?_
      · refine KeepsRes.trans ?_ (State.ringIn_keeps _ _ _ _ (fun t7 => ?_))
        · exact Keeps.refl _ _
        exact Keeps.step (State.updCmd_keeps ..) (Keeps.step (State.hostWrites_keeps ..) (Keeps.refl _ _))
      refine KeepsRes.ite ?_ ?_
      · exact KeepsRes.next (Keeps.refl _ _)
      refine KeepsRes.trans ?_ (State.ringIn_keeps _ _ _ _ (fun t9 => ?_))
      · exact Keeps.refl _ _
      exact Keeps.step (State.settle_keeps ..) (Keeps.step (State.farFrame_keeps ..) (Keeps.refl _ _))
    refine KeepsRes.trans ?_ (State.ringIn_keeps _ _ _ _ (fun t11 => ?_))
    · exact Keeps.refl _ _
    dsimp only [id]
    exact Keeps.refl _ _
  rename_i z13 z14
  split
  · rename_i z15 z16
    refine KeepsRes.trans ?_ (State.ringIn_keeps _ _ _ _ (fun t17 => ?_))
    · exact Keeps.refl _ _
    dsimp only [id]
    exact Keeps.refl _ _
  rename_i z19 z20 z21
  refine KeepsRes.ite ?_ ?_
  · exact KeepsRes.next (Keeps.refl _ _)
  refine KeepsRes.trans ?_ (State.ringIn_keeps _ _ _ _ (fun t22 => ?_))
  · exact Keeps.refl _ _
  exact Keeps.step (State.settle_keeps ..) (Keeps.step (State.farData_keeps ..) (Keeps.refl _ _))

def State.takeLocation_mask : Nat := State.putDisc_mask ||| State.updCmd_mask ||| State.cancel_mask ||| partBits [.stack]

theorem State.takeLocation_keeps (s : State) (r : List Nat) : Keeps State.takeLocation_mask s (State.takeLocation s r) := by
  unfold State.takeLocation
  extract_lets +onlyGivenNames y0
  clear_value y0
  extract_lets +onlyGivenNames y1
  clear_value y1
  extract_lets +onlyGivenNames y2
  have h3 : Keeps State.takeLocation_mask s y2 := Keeps.set_stack (Keeps.refl _ _)
  clear_value y2
  extract_lets +onlyGivenNames y4
  clear_value y4
  extract_lets +onlyGivenNames y5
  have h6 : Keeps State.takeLocation_mask s y5 := Keeps.step (State.putDisc_keeps ..) h3
  clear_value y5
  extract_lets +onlyGivenNames y7
  clear_value y7
  refine Keeps.foldl (fun t8 a9 => ?_) ?_
  · extract_lets +onlyGivenNames y10
    have h11 : Keeps State.takeLocation_mask t8 y10 := Keeps.step (State.updCmd_keeps ..) (Keeps.refl _ _)
    clear_value y10
    refine Keeps.ite ?_ ?_
    · exact Keeps.step (State.cancel_keeps ..) h11
    refine Keeps.ite ?_ ?_
    · exact Keeps.step (State.cancel_keeps ..) h11
    exact h11
  exact h6

def State.moveLocation_mask : Nat := State.putDisc_mask ||| State.ringSend_mask ||| partBits [.stack]

theorem State.moveLocation_keeps (s : State) (r : List Nat) : Keeps State.moveLocation_mask s (State.moveLocation s r) := by
  unfold State.moveLocation
  extract_lets +onlyGivenNames y0
  clear_value y0
  extract_lets +onlyGivenNames y1
  clear_value y1
  extract_lets +onlyGivenNames y2
  clear_value y2
  extract_lets +onlyGivenNames y3
  clear_value y3
  extract_lets +onlyGivenNames y4
  clear_value y4
  extract_lets +onlyGivenNames y5
  have h6 : Keeps State.moveLocation_mask s y5 := Keeps.step (State.putDisc_keeps ..) (Keeps.refl _ _)
  clear_value y5
  extract_lets +onlyGivenNames y7
  clear_value y7
  extract_lets +onlyGivenNames y8
  clear_value y8
  extract_lets +onlyGivenNames y9
  have h10 : Keeps State.moveLocation_mask s y9 := Keeps.set_stack h6
  clear_value y9
  refine Keeps.foldl (fun t11 a12 => ?_) ?_
  · exact Keeps.step (State.ringSend_keeps ..) (Keeps.refl _ _)
  exact h10

def execRingCatReceive_mask : Nat := State.ringIn_mask ||| State.settle_mask ||| State.ringSend_mask |||
    State.takeLocation_mask ||| State.mergeWord_mask ||| State.journal_mask ||| State.putZone_mask ||| State.moveLocation_mask
    ||| partBits [.stack]

theorem execRingCatReceive_keeps (p : Fin 2) (r : RingIn) (s : State) : KeepsRes execRingCatReceive_mask s (execRingCatReceive
    p r s) := by
  unfold execRingCatReceive
  refine KeepsRes.trans ?_ (State.ringIn_keeps _ _ _ _ (fun t0 => ?_))
  · exact Keeps.refl _ _
  extract_lets +onlyGivenNames y2
  clear_value y2
  refine Keeps.step (State.settle_keeps ..) ?_
  split
  · rename_i z3 z4
    extract_lets +onlyGivenNames y5
    clear_value y5
    exact Keeps.step (State.ringSend_keeps ..) (Keeps.set_stack (Keeps.refl _ _))
  · rename_i z6 z7
    exact Keeps.step (State.takeLocation_keeps ..) (Keeps.refl _ _)
  · rename_i z8 z9
    extract_lets +onlyGivenNames y10
    have h11 : Keeps execRingCatReceive_mask t0 y10 := Keeps.step (State.mergeWord_keeps ..) (Keeps.refl _ _)
    clear_value y10
    exact Keeps.step (State.journal_keeps ..) h11
  · rename_i z12 z13
    extract_lets +onlyGivenNames y14
    clear_value y14
    extract_lets +onlyGivenNames y15
    clear_value y15
    refine Keeps.ite ?_ ?_
    · exact Keeps.step (State.putZone_keeps ..) (Keeps.refl _ _)
    exact Keeps.refl _ _
  rename_i z16 z17 z18 z19 z20
  exact Keeps.step (State.moveLocation_keeps ..) (Keeps.refl _ _)

def execRingLibReceive_mask : Nat := State.ringIn_mask ||| State.settle_mask ||| State.foreign_mask ||| State.ringSend_mask |||
    State.putDisc_mask ||| State.mountStart_mask ||| State.finish_mask ||| State.fail_mask ||| State.takeEntry_mask |||
    State.askTransfer_mask ||| State.updCmd_mask ||| partBits [.lib, .cmds, .cmdSeq]

theorem execRingLibReceive_keeps (p : Fin 2) (r : RingIn) (s : State) : KeepsRes execRingLibReceive_mask s (execRingLibReceive
    p r s) := by
  unfold execRingLibReceive
  refine KeepsRes.trans ?_ (State.ringIn_keeps _ _ _ _ (fun t0 => ?_))
  · exact Keeps.refl _ _
  extract_lets +onlyGivenNames y2
  clear_value y2
  extract_lets +onlyGivenNames y3
  clear_value y3
  refine Keeps.step (State.settle_keeps ..) ?_
  split
  · rename_i z4 z5
    exact Keeps.step (State.foreign_keeps ..) (Keeps.refl _ _)
  · rename_i z6 z7
    refine Keeps.ite ?_ ?_
    · exact Keeps.step (State.ringSend_keeps ..) (Keeps.refl _ _)
    extract_lets +onlyGivenNames y8
    clear_value y8
    extract_lets +onlyGivenNames y9
    have h10 : Keeps execRingLibReceive_mask t0 y9 := Keeps.step (State.putDisc_keeps ..) (Keeps.refl _ _)
    clear_value y9
    exact Keeps.step (State.mountStart_keeps ..) (Keeps.set_lib h10)
  · rename_i z11 z12
    split
    · rename_i z13 z14
      exact Keeps.refl _ _
    rename_i z15 z16 z17
    exact Keeps.step (State.finish_keeps ..) (Keeps.refl _ _)
  · rename_i z18 z19
    split
    · rename_i z20 z21 z22
      extract_lets +onlyGivenNames y23
      clear_value y23
      extract_lets +onlyGivenNames y24
      have h25 : Keeps execRingLibReceive_mask t0 y24 := Keeps.set_cmds_cmdSeq (Keeps.refl _ _)
      clear_value y24
      refine Keeps.ite ?_ ?_
      · exact Keeps.step (State.fail_keeps ..) h25
      exact h25
    rename_i z26 z27
    exact Keeps.step (State.ringSend_keeps ..) (Keeps.refl _ _)
  · rename_i z28 z29
    exact Keeps.step (State.takeEntry_keeps ..) (Keeps.refl _ _)
  · rename_i z30 z31
    exact Keeps.step (State.ringSend_keeps ..) (Keeps.refl _ _)
  rename_i z32 z33 z34 z35 z36 z37 z38
  split
  · rename_i z39 z40
    exact Keeps.refl _ _
  rename_i z41 z42 z43
  exact Keeps.step (State.askTransfer_keeps ..) (Keeps.step (State.updCmd_keeps ..) (Keeps.refl _ _))

def execProxyDeliver_mask : Nat := State.ringSend_mask ||| partBits [.stack]

theorem execProxyDeliver_keeps (c : Fin 8) (s : State) : KeepsRes execProxyDeliver_mask s (execProxyDeliver c s) := by
  unfold execProxyDeliver
  refine KeepsRes.ite ?_ ?_
  · exact KeepsRes.next (Keeps.refl _ _)
  extract_lets +onlyGivenNames y0
  clear_value y0
  extract_lets +onlyGivenNames y1
  have h2 : Keeps execProxyDeliver_mask s y1 := by
    unfold y1
    refine Keeps.foldl (fun t3 a4 => ?_) ?_
    · exact Keeps.step (State.ringSend_keeps ..) (Keeps.refl _ _)
    exact Keeps.refl _ _
  clear_value y1
  extract_lets +onlyGivenNames y5
  clear_value y5
  extract_lets +onlyGivenNames y6
  have h7 : Keeps execProxyDeliver_mask s y6 := Keeps.set_stack h2
  clear_value y6
  extract_lets +onlyGivenNames y8
  clear_value y8
  extract_lets +onlyGivenNames y9
  clear_value y9
  extract_lets +onlyGivenNames y10
  have h11 : Keeps execProxyDeliver_mask s y10 := Keeps.set_stack h7
  clear_value y10
  refine KeepsRes.next (Keeps.foldl (fun t12 a13 => ?_) ?_)
  · exact Keeps.step (State.ringSend_keeps ..) (Keeps.refl _ _)
  exact h11

end Sys2Proof.Machine
end

