-- ==== Sys2Proof/Laws/KeepsFlash.lean ====
section
/-!
SUPPORT. What the operations of Machine/Flash.lean leave as it was, one lemma for each.
-/

set_option Elab.async false

namespace Sys2Proof.Machine

def State.scanRange_mask : Nat := State.raiseWin_mask ||| State.raise_mask ||| fieldBits [Reg.FLC_TORN_CNT_COUNT,
    Reg.FLC_CE_CNT_COUNT, Reg.FLC_UE_CNT_COUNT, Reg.FLC_ERR_INFO_VALID, Reg.FLC_ERR_INFO_SLOT, Reg.FLC_ERR_ADDR_ADDR]

theorem State.scanRange_keeps (s : State) (lo hi : Nat) : Keeps State.scanRange_mask s (State.scanRange s lo hi) := by
  unfold State.scanRange
  refine Keeps.foldl (fun t0 a1 => ?_) ?_
  · split
    · rename_i z2 z3
      exact Keeps.bump (Keeps.refl _ _)
    · rename_i z4 z5 z6 z7
      exact Keeps.step (State.raiseWin_keeps ..) (Keeps.bump (Keeps.refl _ _))
    · rename_i z8 z9 z10
      extract_lets +onlyGivenNames y11
      have h12 : Keeps State.scanRange_mask t0 y11 := Keeps.bump (Keeps.refl _ _)
      clear_value y11
      extract_lets +onlyGivenNames y13
      have h14 : Keeps State.scanRange_mask t0 y13 := by
        unfold y13
        refine Keeps.ite ?_ ?_
        · exact h12
        exact Keeps.set1 (Keeps.wr (Keeps.wr h12))
      clear_value y13
      extract_lets +onlyGivenNames y15
      have h16 : Keeps State.scanRange_mask t0 y15 := Keeps.step (State.raise_keeps ..) h14
      clear_value y15
      refine Keeps.ite ?_ ?_
      · exact h16
      exact Keeps.step (State.raise_keeps ..) h16
    rename_i z17 z18 z19 z20
    exact Keeps.refl _ _
  exact Keeps.refl _ _

def State.flashResult_mask : Nat := State.raise_mask ||| fieldBits [Reg.FLC_STATUS_RESULT]

theorem State.flashResult_keeps (s : State) (r off : Nat) : Keeps State.flashResult_mask s (State.flashResult s r off) := by
  unfold State.flashResult
  extract_lets +onlyGivenNames y0
  have h1 : Keeps State.flashResult_mask s y0 := Keeps.wr (Keeps.refl _ _)
  clear_value y0
  refine Keeps.ite ?_ ?_
  · exact Keeps.step (State.raise_keeps ..) h1
  exact h1

def State.showFlash_mask : Nat := fieldBits [Reg.FLC_STATUS_BUSY, Reg.FLC_STATUS_ERASING, Reg.FLC_STATUS_SUSPENDED]

theorem State.showFlash_keeps (s : State) : Keeps State.showFlash_mask s (State.showFlash s) := by
  unfold State.showFlash
  extract_lets +onlyGivenNames y0
  have h1 : Keeps State.showFlash_mask s y0 := Keeps.wrB (Keeps.refl _ _)
  clear_value y0
  extract_lets +onlyGivenNames y2
  have h3 : Keeps State.showFlash_mask s y2 := Keeps.wrB h1
  clear_value y2
  exact Keeps.wrB h3

def execFlashProgram_mask : Nat := State.flashResult_mask ||| State.showFlash_mask ||| partBits [.flash]

theorem execFlashProgram_keeps (word : BitVec 25) (value : BitVec 64) (mask : BitVec 8) (s : State) : KeepsRes
    execFlashProgram_mask s (execFlashProgram word value mask s) := by
  unfold execFlashProgram
  extract_lets +onlyGivenNames y0
  clear_value y0
  extract_lets +onlyGivenNames y1
  clear_value y1
  refine KeepsRes.ite ?_ ?_
  · exact KeepsRes.next (Keeps.refl _ _)
  refine KeepsRes.ite ?_ ?_
  · exact KeepsRes.next (Keeps.step (State.flashResult_keeps ..) (Keeps.refl _ _))
  refine KeepsRes.ite ?_ ?_
  · exact KeepsRes.next (Keeps.step (State.flashResult_keeps ..) (Keeps.refl _ _))
  refine KeepsRes.ite ?_ ?_
  · exact KeepsRes.next (Keeps.step (State.flashResult_keeps ..) (Keeps.refl _ _))
  extract_lets +onlyGivenNames y2
  clear_value y2
  extract_lets +onlyGivenNames y3
  clear_value y3
  refine KeepsRes.ite ?_ ?_
  · exact KeepsRes.next (Keeps.step (State.flashResult_keeps ..) (Keeps.refl _ _))
  extract_lets +onlyGivenNames y4
  clear_value y4
  extract_lets +onlyGivenNames y5
  clear_value y5
  exact KeepsRes.next (Keeps.step (State.showFlash_keeps ..) (Keeps.set_flash (Keeps.refl _ _)))

def State.itemDone_mask : Nat := State.putZone_mask ||| State.ringSend_mask

theorem State.itemDone_keeps (s : State) (x : JItem) : Keeps State.itemDone_mask s (State.itemDone s x) := by
  unfold State.itemDone
  extract_lets +onlyGivenNames y0
  have h1 : Keeps State.itemDone_mask s y0 := by
    unfold y0
    split
    · rename_i z2 z3 z4
      refine Keeps.ite ?_ ?_
      · exact Keeps.step (State.putZone_keeps ..) (Keeps.refl _ _)
      exact Keeps.refl _ _
    rename_i z5 z6
    exact Keeps.refl _ _
  clear_value y0
  split
  · rename_i z7 z8 z9 z10 z11 z12 z13
    exact Keeps.step (State.ringSend_keeps ..) h1
  rename_i z14 z15 z16
  exact h1

def State.takeItem_mask : Nat := State.itemDone_mask ||| partBits [.jq, .flash]

theorem State.takeItem_keeps (s : State) (p : JItem → Bool) (note : Option Nat) : Keeps State.takeItem_mask s (State.takeItem s
    p note) := by
  unfold State.takeItem
  split
  · rename_i z0 z1
    exact Keeps.refl _ _
  rename_i z2 z3 z4
  extract_lets +onlyGivenNames y5
  have h6 : Keeps State.takeItem_mask s y5 := Keeps.set_jq (Keeps.refl _ _)
  clear_value y5
  extract_lets +onlyGivenNames y7
  clear_value y7
  extract_lets +onlyGivenNames y8
  have h9 : Keeps State.takeItem_mask s y8 := by
    unfold y8
    split
    · rename_i z10 z11
      exact Keeps.set_flash h6
    rename_i z12
    exact h6
  clear_value y8
  exact Keeps.step (State.itemDone_keeps ..) h9

def State.recorded_mask : Nat := State.takeItem_mask

theorem State.recorded_keeps (s : State) (i v : Nat) : Keeps State.recorded_mask s (State.recorded s i v) := by
  unfold State.recorded
  extract_lets +onlyGivenNames y0
  clear_value y0
  extract_lets +onlyGivenNames y1
  clear_value y1
  extract_lets +onlyGivenNames y2
  clear_value y2
  refine Keeps.ite ?_ ?_
  · exact Keeps.refl _ _
  refine Keeps.ite ?_ ?_
  · refine Keeps.ite ?_ ?_
    · exact Keeps.step (State.takeItem_keeps ..) (Keeps.refl _ _)
    refine Keeps.ite ?_ ?_
    · exact Keeps.step (State.takeItem_keeps ..) (Keeps.refl _ _)
    exact Keeps.refl _ _
  refine Keeps.ite ?_ ?_
  · exact Keeps.step (State.takeItem_keeps ..) (Keeps.refl _ _)
  exact Keeps.refl _ _

def State.endProgram_mask : Nat := State.programNow_mask ||| State.settle_mask ||| State.recorded_mask ||| State.showFlash_mask
    ||| fieldBits [Reg.FLC_STATUS_RESULT] ||| partBits [.flash]

theorem State.endProgram_keeps (s : State) : Keeps State.endProgram_mask s (State.endProgram s) := by
  unfold State.endProgram
  split
  · rename_i z0 z1
    exact Keeps.refl _ _
  rename_i z2 z3 z4
  extract_lets +onlyGivenNames y5
  have h6 : Keeps State.endProgram_mask s y5 := Keeps.step (State.programNow_keeps ..) (Keeps.refl _ _)
  clear_value y5
  extract_lets +onlyGivenNames y7
  clear_value y7
  extract_lets +onlyGivenNames y8
  clear_value y8
  extract_lets +onlyGivenNames y9
  have h10 : Keeps State.endProgram_mask s y9 := Keeps.set_flash h6
  clear_value y9
  exact Keeps.step (State.settle_keeps ..) (Keeps.step (State.recorded_keeps ..) (Keeps.step (State.showFlash_keeps ..)
      (Keeps.wr h10)))

def execFlashProgramDone_mask : Nat := State.endProgram_mask ||| State.advance_mask

theorem execFlashProgramDone_keeps (dt : Nat) (s : State) : KeepsRes execFlashProgramDone_mask s (execFlashProgramDone dt s) :=
    by
  unfold execFlashProgramDone
  refine KeepsRes.ite ?_ ?_
  · exact KeepsRes.next (Keeps.refl _ _)
  exact KeepsRes.next (Keeps.step (State.endProgram_keeps ..) (Keeps.step (State.advance_keeps ..) (Keeps.refl _ _)))

def State.appendEntry_mask : Nat := State.programNow_mask ||| fieldBits [Reg.FLC_ERASE_SEQ_SEQ, Reg.FLC_STATUS_LOG_B]

theorem State.appendEntry_keeps (s : State) (log sec kind seq aux : Nat) : KeepsSnd State.appendEntry_mask s (State.appendEntry
    s log sec kind seq aux) := by
  unfold State.appendEntry
  extract_lets +onlyGivenNames y0
  clear_value y0
  extract_lets +onlyGivenNames y1
  have h2 : Keeps State.appendEntry_mask s y1 := Keeps.wr (Keeps.step (State.programNow_keeps ..) (Keeps.refl _ _))
  clear_value y1
  exact KeepsSnd.mk (Keeps.wrB h2)

def State.entryDone_mask : Nat := State.programNow_mask

theorem State.entryDone_keeps (s : State) (i : Nat) : Keeps State.entryDone_mask s (State.entryDone s i) := by
  unfold State.entryDone
  exact Keeps.step (State.programNow_keeps ..) (Keeps.refl _ _)

def State.logErase_mask : Nat := State.entryDone_mask ||| State.clearSector_mask ||| State.appendEntry_mask

theorem State.logErase_keeps (s : State) (sec kind aux : Nat) : KeepsSnd2 State.logErase_mask s (State.logErase s sec kind aux)
    := by
  unfold State.logErase
  extract_lets +onlyGivenNames y0
  clear_value y0
  extract_lets +onlyGivenNames y1
  clear_value y1
  refine KeepsSnd2.ite ?_ ?_
  · split
    rename_i z2 z3 z4 z5
    extract_lets +onlyGivenNames y6
    have h7 : Keeps State.logErase_mask s y6 := Keeps.step (State.entryDone_keeps ..) (Keeps.step (State.clearSector_keeps ..)
        (Keeps.ofSnd z5 (KeepsSnd.step (State.appendEntry_keeps ..) (Keeps.refl _ _))))
    clear_value y6
    split
    rename_i z8 z9 z10 z11
    exact KeepsSnd2.mk (Keeps.ofSnd z11 (KeepsSnd.step (State.appendEntry_keeps ..) h7))
  split
  rename_i z12 z13 z14 z15
  exact KeepsSnd2.mk (Keeps.ofSnd z15 (KeepsSnd.step (State.appendEntry_keeps ..) (Keeps.refl _ _)))

def State.eraseNow_mask : Nat := State.entryDone_mask ||| State.clearSector_mask ||| State.logErase_mask

theorem State.eraseNow_keeps (s : State) (sec kind aux : Nat) : Keeps State.eraseNow_mask s (State.eraseNow s sec kind aux) :=
    by
  unfold State.eraseNow
  split
  rename_i z0 z1 z2 z3 z4
  exact Keeps.step (State.entryDone_keeps ..) (Keeps.step (State.clearSector_keeps ..) (Keeps.ofSnd2 z4 (KeepsSnd2.step
      (State.logErase_keeps ..) (Keeps.refl _ _))))

def State.appendSwap_mask : Nat := State.programNow_mask

theorem State.appendSwap_keeps (s : State) (twin kind version : Nat) : Keeps State.appendSwap_mask s (State.appendSwap s twin
    kind version) := by
  unfold State.appendSwap
  extract_lets +onlyGivenNames y0
  clear_value y0
  split
  · rename_i z1 z2
    exact Keeps.refl _ _
  rename_i z3 z4 z5
  extract_lets +onlyGivenNames y6
  clear_value y6
  extract_lets +onlyGivenNames y7
  have h8 : Keeps State.appendSwap_mask s y7 := Keeps.step (State.programNow_keeps ..) (Keeps.refl _ _)
  clear_value y7
  exact Keeps.step (State.programNow_keeps ..) h8

def State.startErase_mask : Nat := State.showFlash_mask ||| State.logErase_mask ||| fieldBits [Reg.FLC_ERASE_SECTOR] |||
    partBits [.flash]

theorem State.startErase_keeps (s : State) (sec kind aux : Nat) : Keeps State.startErase_mask s (State.startErase s sec kind
    aux) := by
  unfold State.startErase
  split
  rename_i z0 z1 z2 z3 z4
  extract_lets +onlyGivenNames y5
  clear_value y5
  exact Keeps.step (State.showFlash_keeps ..) (Keeps.wr (Keeps.set_flash (Keeps.ofSnd2 z4 (KeepsSnd2.step (State.logErase_keeps
      ..) (Keeps.refl _ _)))))

def execFlashSectorErase_mask : Nat := State.flashResult_mask ||| State.startErase_mask

theorem execFlashSectorErase_keeps (sector : BitVec 12) (s : State) : KeepsRes execFlashSectorErase_mask s
    (execFlashSectorErase sector s) := by
  unfold execFlashSectorErase
  extract_lets +onlyGivenNames y0
  clear_value y0
  refine KeepsRes.ite ?_ ?_
  · exact KeepsRes.next (Keeps.refl _ _)
  refine KeepsRes.ite ?_ ?_
  · exact KeepsRes.next (Keeps.step (State.flashResult_keeps ..) (Keeps.refl _ _))
  refine KeepsRes.ite ?_ ?_
  · exact KeepsRes.next (Keeps.step (State.flashResult_keeps ..) (Keeps.refl _ _))
  refine KeepsRes.ite ?_ ?_
  · exact KeepsRes.next (Keeps.step (State.flashResult_keeps ..) (Keeps.refl _ _))
  refine KeepsRes.ite ?_ ?_
  · exact KeepsRes.next (Keeps.refl _ _)
  extract_lets +onlyGivenNames y1
  clear_value y1
  exact KeepsRes.next (Keeps.step (State.startErase_keeps ..) (Keeps.refl _ _))

def execFlashSuspend_mask : Nat := State.flashResult_mask ||| State.showFlash_mask ||| partBits [.flash]

theorem execFlashSuspend_keeps (s : State) : KeepsRes execFlashSuspend_mask s (execFlashSuspend s) := by
  unfold execFlashSuspend
  refine KeepsRes.ite ?_ ?_
  · exact KeepsRes.next (Keeps.refl _ _)
  refine KeepsRes.ite ?_ ?_
  · exact KeepsRes.next (Keeps.step (State.flashResult_keeps ..) (Keeps.refl _ _))
  exact KeepsRes.next (Keeps.step (State.showFlash_keeps ..) (Keeps.set_flash (Keeps.refl _ _)))

def execFlashResume_mask : Nat := State.flashResult_mask ||| State.showFlash_mask ||| partBits [.flash]

theorem execFlashResume_keeps (s : State) : KeepsRes execFlashResume_mask s (execFlashResume s) := by
  unfold execFlashResume
  refine KeepsRes.ite ?_ ?_
  · exact KeepsRes.next (Keeps.refl _ _)
  refine KeepsRes.ite ?_ ?_
  · exact KeepsRes.next (Keeps.step (State.flashResult_keeps ..) (Keeps.refl _ _))
  exact KeepsRes.next (Keeps.step (State.showFlash_keeps ..) (Keeps.set_flash (Keeps.refl _ _)))

def execFlashReadArray_mask : Nat := State.flashResult_mask

theorem execFlashReadArray_keeps (s : State) : KeepsRes execFlashReadArray_mask s (execFlashReadArray s) := by
  unfold execFlashReadArray
  refine KeepsRes.ite ?_ ?_
  · exact KeepsRes.next (Keeps.step (State.flashResult_keeps ..) (Keeps.refl _ _))
  exact KeepsRes.next (Keeps.refl _ _)

def execFlashSeqError_mask : Nat := State.flashResult_mask

theorem execFlashSeqError_keeps (s : State) : KeepsRes execFlashSeqError_mask s (execFlashSeqError s) := by
  unfold execFlashSeqError
  refine KeepsRes.ite ?_ ?_
  · exact KeepsRes.next (Keeps.step (State.flashResult_keeps ..) (Keeps.refl _ _))
  exact KeepsRes.next (Keeps.refl _ _)

def State.retire_mask : Nat := State.raise_mask ||| fieldBits [Reg.FLC_SPARE_RETIRED, Reg.FLC_SPARE_LEFT]

theorem State.retire_keeps (s : State) (sec : Nat) : Keeps State.retire_mask s (State.retire s sec) := by
  unfold State.retire
  extract_lets +onlyGivenNames y0
  clear_value y0
  exact Keeps.step (State.raise_keeps ..) (Keeps.bump (Keeps.wr (Keeps.refl _ _)))

def State.swapErased_mask : Nat := State.appendSwap_mask

theorem State.swapErased_keeps (s : State) (e : Erase) : Keeps State.swapErased_mask s (State.swapErased s e) := by
  unfold State.swapErased
  refine Keeps.ite ?_ ?_
  · split
    · rename_i z0 z1 z2
      exact Keeps.step (State.appendSwap_keeps ..) (Keeps.refl _ _)
    rename_i z3 z4
    exact Keeps.refl _ _
  exact Keeps.refl _ _

def execFlashEraseDone_mask : Nat := State.advance_mask ||| State.retire_mask ||| State.clearSector_mask ||| State.raise_mask
    ||| State.swapErased_mask ||| State.entryDone_mask ||| State.showFlash_mask ||| fieldBits [Reg.FLC_ERASE_PULSES,
    Reg.FLC_STATUS_RESULT] ||| partBits [.flash]

theorem execFlashEraseDone_keeps (dt pulses fails : Nat) (s : State) : KeepsRes execFlashEraseDone_mask s (execFlashEraseDone
    dt pulses fails s) := by
  unfold execFlashEraseDone
  split
  · rename_i z0 z1
    exact KeepsRes.next (Keeps.refl _ _)
  rename_i z2 z3 z4
  refine KeepsRes.ite ?_ ?_
  · exact KeepsRes.next (Keeps.refl _ _)
  extract_lets +onlyGivenNames y5
  have h6 : Keeps execFlashEraseDone_mask s y5 := Keeps.wr (Keeps.step (State.advance_keeps ..) (Keeps.refl _ _))
  clear_value y5
  extract_lets +onlyGivenNames y7
  clear_value y7
  extract_lets +onlyGivenNames y8
  have h9 : Keeps execFlashEraseDone_mask s y8 := by
    unfold y8
    refine Keeps.foldl (fun t10 a11 => ?_) ?_
    · exact Keeps.step (State.retire_keeps ..) (Keeps.refl _ _)
    exact h6
  clear_value y8
  extract_lets +onlyGivenNames y12
  clear_value y12
  extract_lets +onlyGivenNames y13
  have h14 : Keeps execFlashEraseDone_mask s y13 := Keeps.set_flash h9
  clear_value y13
  extract_lets +onlyGivenNames y15
  clear_value y15
  extract_lets +onlyGivenNames y16
  have h17 : Keeps execFlashEraseDone_mask s y16 := Keeps.step (State.clearSector_keeps ..) h14
  clear_value y16
  extract_lets +onlyGivenNames y18
  clear_value y18
  extract_lets +onlyGivenNames y19
  have h20 : Keeps execFlashEraseDone_mask s y19 := by
    unfold y19
    refine Keeps.ite ?_ ?_
    · exact Keeps.step (State.raise_keeps ..) (Keeps.set_flash h17)
    exact Keeps.step (State.swapErased_keeps ..) (Keeps.step (State.entryDone_keeps ..) (Keeps.step (State.clearSector_keeps
        ..) h14))
  clear_value y19
  extract_lets +onlyGivenNames y21
  have h22 : Keeps execFlashEraseDone_mask s y21 := Keeps.wr h20
  clear_value y21
  refine KeepsRes.next (Keeps.step (State.showFlash_keeps ..) (Keeps.ite ?_ ?_))
  · exact Keeps.step (State.raise_keeps ..) h22
  exact h22

def execErasePendingLong_mask : Nat := State.advanceTo_mask ||| State.raise_mask ||| partBits [.flash]

theorem execErasePendingLong_keeps (s : State) : KeepsRes execErasePendingLong_mask s (execErasePendingLong s) := by
  unfold execErasePendingLong
  split
  · rename_i z0 z1
    exact KeepsRes.next (Keeps.refl _ _)
  rename_i z2 z3 z4
  refine KeepsRes.ite ?_ ?_
  · exact KeepsRes.next (Keeps.refl _ _)
  extract_lets +onlyGivenNames y5
  clear_value y5
  extract_lets +onlyGivenNames y6
  have h7 : Keeps execErasePendingLong_mask s y6 := Keeps.step (State.advanceTo_keeps ..) (Keeps.refl _ _)
  clear_value y6
  exact KeepsRes.next (Keeps.step (State.raise_keeps ..) (Keeps.set_flash h7))

def State.repairErase_mask : Nat := State.entryDone_mask ||| State.clearSector_mask ||| State.logErase_mask |||
    State.eraseNow_mask ||| State.raise_mask

theorem State.repairErase_keeps (s : State) (v : Nat) : Keeps State.repairErase_mask s (State.repairErase s v) := by
  unfold State.repairErase
  extract_lets +onlyGivenNames y0
  clear_value y0
  extract_lets +onlyGivenNames y1
  have h2 : Keeps State.repairErase_mask s y1 := by
    unfold y1
    refine Keeps.ite ?_ ?_
    · split
      rename_i z3 z4 z5 z6 z7
      exact Keeps.step (State.entryDone_keeps ..) (Keeps.step (State.clearSector_keeps ..) (Keeps.ofSnd2 z7 (KeepsSnd2.step
          (State.logErase_keeps ..) (Keeps.refl _ _))))
    exact Keeps.step (State.eraseNow_keeps ..) (Keeps.refl _ _)
  clear_value y1
  exact Keeps.step (State.raise_keeps ..) h2

def State.startImage_mask : Nat := fieldBits [Reg.GCTL_BOOT_FELL_BACK, Reg.GCTL_BOOT_TRIAL, Reg.GCTL_BOOT_ACTIVE_TWIN] |||
    partBits [.pw, .firm]

theorem State.startImage_keeps (s : State) (twin : Nat) (trial fell : Bool) (x : ImgObs) : Keeps State.startImage_mask s
    (State.startImage s twin trial fell x) := by
  unfold State.startImage
  extract_lets +onlyGivenNames y0
  have h1 : Keeps State.startImage_mask s y0 := Keeps.wrB (Keeps.wrB (Keeps.wr (Keeps.refl _ _)))
  clear_value y0
  exact Keeps.set_pw_firm h1

def State.checkAndStart_mask : Nat := State.startImage_mask ||| State.raise_mask ||| State.appendSwap_mask |||
    State.cinder_mask ||| partBits [.firm]

theorem State.checkAndStart_keeps (s : State) (twin : Nat) (trial fell : Bool) (a b : Option ImgObs) : Keeps
    State.checkAndStart_mask s (State.checkAndStart s twin trial fell a b) := by
  unfold State.checkAndStart
  extract_lets +onlyGivenNames y0
  clear_value y0
  split
  · rename_i z1 z2 z3
    exact Keeps.step (State.startImage_keeps ..) (Keeps.refl _ _)
  rename_i z4 z5
  extract_lets +onlyGivenNames y6
  clear_value y6
  extract_lets +onlyGivenNames y7
  have h8 : Keeps State.checkAndStart_mask s y7 := Keeps.step (State.raise_keeps ..) (Keeps.step (State.appendSwap_keeps ..)
      (Keeps.refl _ _))
  clear_value y7
  split
  · rename_i z9 z10 z11
    exact Keeps.step (State.startImage_keeps ..) h8
  rename_i z12 z13
  extract_lets +onlyGivenNames y14
  have h15 : Keeps State.checkAndStart_mask s y14 := Keeps.step (State.raise_keeps ..) h8
  clear_value y14
  exact Keeps.step (State.cinder_keeps ..) (Keeps.set_firm h15)

def execBootSelect_mask : Nat := State.repairErase_mask ||| State.scanRange_mask ||| State.checkAndStart_mask |||
    State.appendSwap_mask ||| State.programNow_mask ||| State.raise_mask ||| fieldBits [Reg.FLC_STATUS_LOG_B]

theorem execBootSelect_keeps (a b : Option ImgObs) (s : State) : KeepsRes execBootSelect_mask s (execBootSelect a b s) := by
  unfold execBootSelect
  refine KeepsRes.ite ?_ ?_
  · exact KeepsRes.next (Keeps.refl _ _)
  extract_lets +onlyGivenNames y0
  have h1 : Keeps execBootSelect_mask s y0 := by
    unfold y0
    refine Keeps.ite ?_ ?_
    · exact Keeps.refl _ _
    refine Keeps.foldl (fun t2 a3 => ?_) ?_
    · exact Keeps.step (State.repairErase_keeps ..) (Keeps.refl _ _)
    exact Keeps.refl _ _
  clear_value y0
  extract_lets +onlyGivenNames y4
  have h5 : Keeps execBootSelect_mask s y4 := Keeps.wrB (Keeps.step (State.scanRange_keeps ..) h1)
  clear_value y4
  split
  · rename_i z6 z7
    split
    · rename_i z8 z9 z10
      extract_lets +onlyGivenNames y11
      have h12 : Keeps execBootSelect_mask s y11 := by
        unfold y11
        refine Keeps.foldl (fun t13 a14 => ?_) ?_
        · exact Keeps.step (State.repairErase_keeps ..) (Keeps.refl _ _)
        exact h5
      clear_value y11
      exact KeepsRes.next (Keeps.step (State.checkAndStart_keeps ..) (Keeps.step (State.appendSwap_keeps ..) h12))
    rename_i z15 z16
    exact KeepsRes.next (Keeps.step (State.checkAndStart_keeps ..) (Keeps.step (State.appendSwap_keeps ..) h5))
  rename_i z17 z18 z19
  refine KeepsRes.ite ?_ ?_
  · exact KeepsRes.next (Keeps.step (State.checkAndStart_keeps ..) h5)
  refine KeepsRes.ite ?_ ?_
  · exact KeepsRes.next (Keeps.step (State.checkAndStart_keeps ..) (Keeps.step (State.programNow_keeps ..) h5))
  extract_lets +onlyGivenNames y20
  clear_value y20
  exact KeepsRes.next (Keeps.step (State.checkAndStart_keeps ..) (Keeps.step (State.raise_keeps ..) (Keeps.step
      (State.appendSwap_keeps ..) h5)))

def State.applyRecord_mask : Nat := State.mergeWord_mask ||| State.putDisc_mask ||| partBits [.lib, .stack]

theorem State.applyRecord_keeps (s : State) (i : Nat) : Keeps State.applyRecord_mask s (State.applyRecord s i) := by
  unfold State.applyRecord
  split
  · rename_i z0 z1
    exact Keeps.refl _ _
  rename_i z2 z3 z4
  extract_lets +onlyGivenNames y5
  clear_value y5
  extract_lets +onlyGivenNames y6
  clear_value y6
  extract_lets +onlyGivenNames y7
  clear_value y7
  split
  · rename_i z8 z9
    exact Keeps.step (State.mergeWord_keeps ..) (Keeps.refl _ _)
  · rename_i z10 z11
    exact Keeps.step (State.mergeWord_keeps ..) (Keeps.refl _ _)
  · rename_i z12 z13
    refine Keeps.ite ?_ ?_
    · exact Keeps.refl _ _
    exact Keeps.step (State.putDisc_keeps ..) (Keeps.refl _ _)
  · rename_i z14 z15
    refine Keeps.ite ?_ ?_
    · exact Keeps.refl _ _
    extract_lets +onlyGivenNames y16
    clear_value y16
    extract_lets +onlyGivenNames y17
    clear_value y17
    refine Keeps.ite ?_ ?_
    · extract_lets +onlyGivenNames y18
      clear_value y18
      extract_lets +onlyGivenNames y19
      clear_value y19
      exact Keeps.step (State.putDisc_keeps ..) (Keeps.set_lib (Keeps.refl _ _))
    exact Keeps.set_lib (Keeps.refl _ _)
  · rename_i z20 z21
    refine Keeps.ite ?_ ?_
    · exact Keeps.refl _ _
    extract_lets +onlyGivenNames y22
    clear_value y22
    extract_lets +onlyGivenNames y23
    clear_value y23
    extract_lets +onlyGivenNames y24
    clear_value y24
    exact Keeps.step (State.putDisc_keeps ..) (Keeps.refl _ _)
  · rename_i z25 z26
    extract_lets +onlyGivenNames y27
    clear_value y27
    refine Keeps.ite ?_ ?_
    · exact Keeps.set_stack (Keeps.refl _ _)
    exact Keeps.refl _ _
  rename_i z28 z29 z30 z31 z32 z33 z34
  exact Keeps.refl _ _

def State.applySnap_mask : Nat := State.putZone_mask ||| State.putDisc_mask

theorem State.applySnap_keeps (s : State) (ws : List Nat) : Keeps State.applySnap_mask s (State.applySnap s ws) := by
  unfold State.applySnap
  extract_lets +onlyGivenNames y0
  clear_value y0
  extract_lets +onlyGivenNames y1
  clear_value y1
  extract_lets +onlyGivenNames y2
  clear_value y2
  extract_lets +onlyGivenNames y3
  clear_value y3
  extract_lets +onlyGivenNames y4
  clear_value y4
  extract_lets +onlyGivenNames y5
  clear_value y5
  extract_lets +onlyGivenNames y6
  clear_value y6
  extract_lets +onlyGivenNames y7
  clear_value y7
  extract_lets +onlyGivenNames y8
  clear_value y8
  extract_lets +onlyGivenNames y9
  clear_value y9
  refine Keeps.foldl (fun t10 a11 => ?_) ?_
  · extract_lets +onlyGivenNames y12
    clear_value y12
    exact Keeps.step (State.putZone_keeps ..) (Keeps.refl _ _)
  exact Keeps.step (State.putDisc_keeps ..) (Keeps.refl _ _)

def execJournalReplay_mask : Nat := State.scanRange_mask ||| State.applySnap_mask ||| State.applyRecord_mask |||
    State.raise_mask ||| partBits [.zones, .flash]

theorem execJournalReplay_keeps (s : State) : KeepsRes execJournalReplay_mask s (execJournalReplay s) := by
  unfold execJournalReplay
  refine KeepsRes.ite ?_ ?_
  · exact KeepsRes.next (Keeps.refl _ _)
  extract_lets +onlyGivenNames y0
  have h1 : Keeps execJournalReplay_mask s y0 := Keeps.step (State.scanRange_keeps ..) (Keeps.step (State.scanRange_keeps ..)
      (Keeps.refl _ _))
  clear_value y0
  extract_lets +onlyGivenNames y2
  clear_value y2
  extract_lets +onlyGivenNames y3
  have h4 : Keeps execJournalReplay_mask s y3 := by
    unfold y3
    refine Keeps.foldl (fun t5 a6 => ?_) ?_
    · split
      · rename_i z7 z8 z9
        exact Keeps.step (State.applySnap_keeps ..) (Keeps.refl _ _)
      rename_i z10 z11
      exact Keeps.refl _ _
    exact h1
  clear_value y3
  extract_lets +onlyGivenNames y12
  clear_value y12
  extract_lets +onlyGivenNames y13
  clear_value y13
  split
  rename_i z14 z15 z16 z17
  extract_lets +onlyGivenNames y18
  clear_value y18
  extract_lets +onlyGivenNames y19
  clear_value y19
  extract_lets +onlyGivenNames y20
  have h21 : Keeps execJournalReplay_mask s y20 := by
    unfold y20
    refine Keeps.set_zones_flash (Keeps.ofFst z17 (KeepsFst.foldl (fun t22 a23 => ?_) ?_))
    · exact KeepsFst.mk (Keeps.step (State.applyRecord_keeps ..) (Keeps.refl _ _))
    exact KeepsFst.mk h4
  clear_value y20
  extract_lets +onlyGivenNames y24
  have h25 : Keeps execJournalReplay_mask s y24 := Keeps.step (State.raise_keeps ..) h21
  clear_value y24
  split
  · rename_i z26 z27 z28
    extract_lets +onlyGivenNames y29
    clear_value y29
    refine KeepsRes.next (Keeps.ite ?_ ?_)
    · exact Keeps.step (State.raise_keeps ..) h25
    exact h25
  rename_i z30 z31
  exact KeepsRes.next h25

def execJournalReclaim_mask : Nat := State.startErase_mask ||| State.snapshot_mask ||| State.journal_mask

theorem execJournalReclaim_keeps (s : State) : KeepsRes execJournalReclaim_mask s (execJournalReclaim s) := by
  unfold execJournalReclaim
  extract_lets +onlyGivenNames y0
  clear_value y0
  refine KeepsRes.ite ?_ ?_
  · split
    · rename_i z1 z2
      exact KeepsRes.next (Keeps.refl _ _)
    rename_i z3 z4 z5 z6 z7
    refine KeepsRes.ite ?_ ?_
    · exact KeepsRes.next (Keeps.refl _ _)
    extract_lets +onlyGivenNames y8
    clear_value y8
    extract_lets +onlyGivenNames y9
    clear_value y9
    extract_lets +onlyGivenNames y10
    clear_value y10
    extract_lets +onlyGivenNames y11
    clear_value y11
    extract_lets +onlyGivenNames y12
    clear_value y12
    extract_lets +onlyGivenNames y13
    clear_value y13
    extract_lets +onlyGivenNames y14
    clear_value y14
    refine KeepsRes.ite ?_ ?_
    · exact KeepsRes.next (Keeps.step (State.startErase_keeps ..) (Keeps.refl _ _))
    extract_lets +onlyGivenNames y15
    have h16 : Keeps execJournalReclaim_mask s y15 := by
      unfold y15
      refine Keeps.foldl (fun t17 a18 => ?_) ?_
      · exact Keeps.step (State.snapshot_keeps ..) (Keeps.refl _ _)
      exact Keeps.refl _ _
    clear_value y15
    refine KeepsRes.next (Keeps.foldl (fun t19 a20 => ?_) ?_)
    · exact Keeps.step (State.journal_keeps ..) (Keeps.refl _ _)
    exact h16
  exact KeepsRes.next (Keeps.refl _ _)

def execFrontierSearch_mask : Nat := State.settle_mask ||| State.searchZone_mask

theorem execFrontierSearch_keeps (d : Nat) (side : Fin 2) (layer : Fin 16) (zone : Fin 64) (found : List SlotRead) (s : State)
    : KeepsRes execFrontierSearch_mask s (execFrontierSearch d side layer zone found s) := by
  unfold execFrontierSearch
  extract_lets +onlyGivenNames y0
  clear_value y0
  refine KeepsRes.ite ?_ ?_
  · exact KeepsRes.next (Keeps.refl _ _)
  exact KeepsRes.next (Keeps.step (State.settle_keeps ..) (Keeps.step (State.searchZone_keeps ..) (Keeps.refl _ _)))

end Sys2Proof.Machine
end

