-- ==== Sys2Proof/Laws/KeepsTally.lean ====
section
/-!
SUPPORT. What the operations of Machine/Tally.lean leave as it was, one lemma for each.
-/

set_option Elab.async false

namespace Sys2Proof.Machine

def State.showStore_mask : Nat := State.raise_mask ||| fieldBits [Reg.TALLY_STATUS_STORE_LOW]

theorem State.showStore_keeps (s : State) : Keeps State.showStore_mask s (State.showStore s) := by
  unfold State.showStore
  extract_lets +onlyGivenNames y0
  clear_value y0
  extract_lets +onlyGivenNames y1
  clear_value y1
  extract_lets +onlyGivenNames y2
  have h3 : Keeps State.showStore_mask s y2 := Keeps.wrB (Keeps.refl _ _)
  clear_value y2
  refine Keeps.ite ?_ ?_
  · exact Keeps.step (State.raise_keeps ..) h3
  exact h3

def State.tallyChecks_mask : Nat := State.cinder_mask ||| State.raise_mask ||| fieldBits [Reg.TALLY_STATUS_KAT_OK,
    Reg.TALLY_STATUS_ROM_OK, Reg.TALLY_STATUS_FAULT]

theorem State.tallyChecks_keeps (s : State) (romOk katOk : Bool) : Keeps State.tallyChecks_mask s (State.tallyChecks s romOk
    katOk) := by
  unfold State.tallyChecks
  extract_lets +onlyGivenNames y0
  have h1 : Keeps State.tallyChecks_mask s y0 := Keeps.wrB (Keeps.wrB (Keeps.refl _ _))
  clear_value y0
  refine Keeps.ite ?_ ?_
  · exact h1
  exact Keeps.step (State.cinder_keeps ..) (Keeps.step (State.raise_keeps ..) (Keeps.set1 h1))

def execTallyStart_mask : Nat := State.tallyChecks_mask ||| State.showStore_mask ||| State.tallyDue_mask |||
    State.openInterval_mask ||| fieldBits [Reg.TALLY_STATUS_RUNNING, Reg.TALLY_ACKED_SEQ] ||| partBits [.tally]

theorem execTallyStart_keeps (romOk katOk : Bool) (s : State) : KeepsRes execTallyStart_mask s (execTallyStart romOk katOk s)
    := by
  unfold execTallyStart
  refine KeepsRes.ite ?_ ?_
  · exact KeepsRes.next (Keeps.refl _ _)
  extract_lets +onlyGivenNames y0
  have h1 : Keeps execTallyStart_mask s y0 := Keeps.step (State.tallyChecks_keeps ..) (Keeps.refl _ _)
  clear_value y0
  refine KeepsRes.ite ?_ ?_
  · exact KeepsRes.next h1
  extract_lets +onlyGivenNames y2
  clear_value y2
  extract_lets +onlyGivenNames y3
  clear_value y3
  extract_lets +onlyGivenNames y4
  clear_value y4
  extract_lets +onlyGivenNames y5
  clear_value y5
  extract_lets +onlyGivenNames y6
  have h7 : Keeps execTallyStart_mask s y6 := Keeps.set1 (Keeps.wr h1)
  clear_value y6
  extract_lets +onlyGivenNames y8
  clear_value y8
  extract_lets +onlyGivenNames y9
  clear_value y9
  extract_lets +onlyGivenNames y10
  have h11 : Keeps execTallyStart_mask s y10 := Keeps.set_tally h7
  clear_value y10
  exact KeepsRes.next (Keeps.step (State.showStore_keeps ..) (Keeps.step (State.tallyDue_keeps ..) (Keeps.step
      (State.openInterval_keeps ..) h11)))

def execTallyMinuteBoundary_mask : Nat := State.advance_mask ||| State.crossBoundary_mask

theorem execTallyMinuteBoundary_keeps (lost : List (BitVec 12 × Fin 4)) (s : State) : KeepsRes execTallyMinuteBoundary_mask s
    (execTallyMinuteBoundary lost s) := by
  unfold execTallyMinuteBoundary
  extract_lets +onlyGivenNames y0
  clear_value y0
  extract_lets +onlyGivenNames y1
  have h2 : Keeps execTallyMinuteBoundary_mask s y1 := by
    unfold y1
    refine Keeps.ite ?_ ?_
    · exact Keeps.step (State.advance_keeps ..) (Keeps.refl _ _)
    exact Keeps.refl _ _
  clear_value y1
  refine KeepsRes.ite ?_ ?_
  · exact KeepsRes.next (Keeps.step (State.crossBoundary_keeps ..) h2)
  exact KeepsRes.next h2

def execTallyMsSample_mask : Nat := State.advanceMod_mask ||| State.passBoundaries_mask ||| State.countOpen_mask

theorem execTallyMsSample_keeps (s : State) : KeepsRes execTallyMsSample_mask s (execTallyMsSample s) := by
  unfold execTallyMsSample
  extract_lets +onlyGivenNames y0
  have h1 : Keeps execTallyMsSample_mask s y0 := Keeps.step (State.advanceMod_keeps ..) (Keeps.refl _ _)
  clear_value y0
  refine KeepsRes.ite ?_ ?_
  · exact KeepsRes.next h1
  extract_lets +onlyGivenNames y2
  have h3 : Keeps execTallyMsSample_mask s y2 := Keeps.step (State.passBoundaries_keeps ..) h1
  clear_value y2
  refine KeepsRes.next (Keeps.foldl (fun t4 a5 => ?_) ?_)
  · exact Keeps.step (State.countOpen_keeps ..) (Keeps.refl _ _)
  exact h3

def execTallyTapEvent_mask : Nat := State.countOpen_mask ||| State.passBoundaries_mask ||| fieldBits [Reg.TALLY_STATUS_TEST_EN]
    ||| partBits [.tally]

theorem execTallyTapEvent_keeps (test : Option (BitVec 12 × Fin 4 × Nat)) (s : State) : KeepsRes execTallyTapEvent_mask s
    (execTallyTapEvent test s) := by
  unfold execTallyTapEvent
  split
  · rename_i z0 z1 z2 z3
    refine KeepsRes.ite ?_ ?_
    · exact KeepsRes.next (Keeps.refl _ _)
    exact KeepsRes.next (Keeps.set1 (Keeps.step (State.countOpen_keeps ..) (Keeps.step (State.passBoundaries_keeps ..)
        (Keeps.refl _ _))))
  rename_i z4
  split
  · rename_i z5 z6
    exact KeepsRes.next (Keeps.refl _ _)
  rename_i z7 z8 z9 z10
  extract_lets +onlyGivenNames y11
  have h12 : Keeps execTallyTapEvent_mask s y11 := by
    unfold y11
    refine Keeps.ite ?_ ?_
    · exact Keeps.step (State.passBoundaries_keeps ..) (Keeps.refl _ _)
    exact Keeps.refl _ _
  clear_value y11
  refine KeepsRes.ite ?_ ?_
  · exact KeepsRes.next h12
  extract_lets +onlyGivenNames y13
  clear_value y13
  extract_lets +onlyGivenNames y14
  have h15 : Keeps execTallyTapEvent_mask s y14 := Keeps.set_tally h12
  clear_value y14
  refine KeepsRes.ite ?_ ?_
  · exact KeepsRes.next h15
  exact KeepsRes.next (Keeps.step (State.countOpen_keeps ..) h15)

def State.pfOver_mask : Nat := fieldBits [Reg.TALLY_STATUS_PF_ACTIVE] ||| partBits [.tally]

theorem State.pfOver_keeps (s : State) : Keeps State.pfOver_mask s (State.pfOver s) := by
  unfold State.pfOver
  refine Keeps.ite ?_ ?_
  · extract_lets +onlyGivenNames y0
    have h1 : Keeps State.pfOver_mask s y0 := Keeps.clr (Keeps.refl _ _)
    clear_value y0
    refine Keeps.ite ?_ ?_
    · exact Keeps.set_tally h1
    exact h1
  exact Keeps.refl _ _

def State.acked_mask : Nat := State.showStore_mask ||| State.fail_mask ||| fieldBits [Reg.TALLY_ACKED_SEQ] ||| partBits [.tally]

theorem State.acked_keeps (s : State) (u : Nat) : Keeps State.acked_mask s (State.acked s u) := by
  unfold State.acked
  extract_lets +onlyGivenNames y0
  clear_value y0
  extract_lets +onlyGivenNames y1
  have h2 : Keeps State.acked_mask s y1 := Keeps.wr (Keeps.refl _ _)
  clear_value y1
  extract_lets +onlyGivenNames y3
  clear_value y3
  extract_lets +onlyGivenNames y4
  clear_value y4
  extract_lets +onlyGivenNames y5
  have h6 : Keeps State.acked_mask s y5 := Keeps.set_tally h2
  clear_value y5
  refine Keeps.step (State.showStore_keeps ..) (Keeps.foldl (fun t7 a8 => ?_) ?_)
  · exact Keeps.step (State.fail_keeps ..) (Keeps.refl _ _)
  exact h6

def State.recordDone_mask : Nat := State.pfOver_mask ||| State.showStore_mask ||| State.raise_mask ||| State.acked_mask |||
    partBits [.tally]

theorem State.recordDone_keeps (s : State) (x : TNext) (seq : Nat) : Keeps State.recordDone_mask s (State.recordDone s x seq)
    := by
  unfold State.recordDone
  split
  · rename_i z0 z1 z2
    exact Keeps.step (State.pfOver_keeps ..) (Keeps.step (State.showStore_keeps ..) (Keeps.set_tally (Keeps.refl _ _)))
  · rename_i z3 z4 z5
    extract_lets +onlyGivenNames y6
    clear_value y6
    extract_lets +onlyGivenNames y7
    have h8 : Keeps State.recordDone_mask s y7 := Keeps.set_tally (Keeps.refl _ _)
    clear_value y7
    extract_lets +onlyGivenNames y9
    have h10 : Keeps State.recordDone_mask s y9 := by
      unfold y9
      split
      · rename_i z11 z12
        refine Keeps.ite ?_ ?_
        · exact Keeps.step (State.raise_keeps ..) h8
        exact h8
      · rename_i z13 z14
        exact Keeps.step (State.raise_keeps ..) h8
      · rename_i z15 z16
        exact Keeps.step (State.raise_keeps ..) h8
      rename_i z17 z18 z19 z20
      exact h8
    clear_value y9
    exact Keeps.step (State.pfOver_keeps ..) (Keeps.step (State.showStore_keeps ..) h10)
  rename_i z21 z22
  exact Keeps.step (State.acked_keeps ..) (Keeps.refl _ _)

def execTallyRecordProgram_mask : Nat := State.recordDone_mask ||| State.programNow_mask ||| State.draw_mask |||
    State.raise_mask ||| fieldBits [Reg.TALLY_COUNT_ABANDONED] ||| partBits [.tally, .flash]

theorem execTallyRecordProgram_keeps (bad : Option (Fin 9)) (s : State) : KeepsRes execTallyRecordProgram_mask s
    (execTallyRecordProgram bad s) := by
  unfold execTallyRecordProgram
  refine KeepsRes.ite ?_ ?_
  · exact KeepsRes.next (Keeps.refl _ _)
  split
  · rename_i z0 z1
    exact KeepsRes.next (Keeps.refl _ _)
  rename_i z2 z3 z4
  extract_lets +onlyGivenNames y5
  clear_value y5
  extract_lets +onlyGivenNames y6
  clear_value y6
  extract_lets +onlyGivenNames y7
  clear_value y7
  extract_lets +onlyGivenNames y8
  clear_value y8
  extract_lets +onlyGivenNames y9
  clear_value y9
  extract_lets +onlyGivenNames y10
  clear_value y10
  extract_lets +onlyGivenNames y11
  have h12 : Keeps execTallyRecordProgram_mask s y11 := Keeps.set_tally (Keeps.refl _ _)
  clear_value y11
  split
  · rename_i z13
    refine KeepsRes.next (Keeps.step (State.recordDone_keeps ..) (Keeps.foldl (fun t14 a15 => ?_) ?_))
    · exact Keeps.step (State.programNow_keeps ..) (Keeps.refl _ _)
    exact h12
  rename_i z16 z17
  extract_lets +onlyGivenNames y18
  have h19 : Keeps execTallyRecordProgram_mask s y18 := by
    unfold y18
    refine Keeps.foldl (fun t20 a21 => ?_) ?_
    · exact Keeps.step (State.programNow_keeps ..) (Keeps.refl _ _)
    exact h12
  clear_value y18
  extract_lets +onlyGivenNames y22
  clear_value y22
  split
  rename_i z23 z24 z25 z26
  extract_lets +onlyGivenNames y27
  clear_value y27
  extract_lets +onlyGivenNames y28
  clear_value y28
  extract_lets +onlyGivenNames y29
  clear_value y29
  extract_lets +onlyGivenNames y30
  have h31 : Keeps execTallyRecordProgram_mask s y30 := Keeps.set_flash_tally (Keeps.ofSnd z26 (KeepsSnd.step (State.draw_keeps
      ..) h19))
  clear_value y30
  exact KeepsRes.next (Keeps.step (State.raise_keeps ..) (Keeps.bump h31))

def execTallySectorErase_mask : Nat := State.startErase_mask

theorem execTallySectorErase_keeps (s : State) : KeepsRes execTallySectorErase_mask s (execTallySectorErase s) := by
  unfold execTallySectorErase
  refine KeepsRes.ite ?_ ?_
  · exact KeepsRes.next (Keeps.refl _ _)
  extract_lets +onlyGivenNames y0
  clear_value y0
  extract_lets +onlyGivenNames y1
  clear_value y1
  split
  · rename_i z2 z3
    exact KeepsRes.next (Keeps.refl _ _)
  rename_i z4 z5 z6
  exact KeepsRes.next (Keeps.step (State.startErase_keeps ..) (Keeps.refl _ _))

def execTallyPfClose_mask : Nat := State.passBoundaries_mask ||| State.advanceTo_mask ||| State.closeAll_mask |||
    State.takeTaps_mask ||| State.tallyDue_mask ||| State.openInterval_mask ||| fieldBits [Reg.TALLY_STATUS_PF_ACTIVE] |||
    partBits [.tally]

theorem execTallyPfClose_keeps (low : Option Nat) (s : State) : KeepsRes execTallyPfClose_mask s (execTallyPfClose low s) := by
  unfold execTallyPfClose
  split
  · rename_i z0 z1
    exact KeepsRes.next (Keeps.refl _ _)
  rename_i z2 z3 z4
  refine KeepsRes.ite ?_ ?_
  · exact KeepsRes.next (Keeps.refl _ _)
  extract_lets +onlyGivenNames y5
  clear_value y5
  extract_lets +onlyGivenNames y6
  clear_value y6
  extract_lets +onlyGivenNames y7
  have h8 : Keeps execTallyPfClose_mask s y7 := Keeps.step (State.passBoundaries_keeps ..) (Keeps.step (State.advanceTo_keeps
      ..) (Keeps.refl _ _))
  clear_value y7
  extract_lets +onlyGivenNames y9
  clear_value y9
  extract_lets +onlyGivenNames y10
  clear_value y10
  extract_lets +onlyGivenNames y11
  have h12 : Keeps execTallyPfClose_mask s y11 := Keeps.step (State.closeAll_keeps ..) (Keeps.step (State.takeTaps_keeps ..) h8)
  clear_value y11
  extract_lets +onlyGivenNames y13
  have h14 : Keeps execTallyPfClose_mask s y13 := Keeps.step (State.tallyDue_keeps ..) (Keeps.step (State.openInterval_keeps
      ..) h12)
  clear_value y13
  extract_lets +onlyGivenNames y15
  clear_value y15
  extract_lets +onlyGivenNames y16
  clear_value y16
  extract_lets +onlyGivenNames y17
  have h18 : Keeps execTallyPfClose_mask s y17 := Keeps.set_tally h14
  clear_value y17
  exact KeepsRes.next (Keeps.set1 h18)

def State.blowSeal_mask : Nat := State.tallyDue_mask ||| State.raise_mask ||| fieldBits [Reg.TALLY_STATUS_TEST_EN] ||| partBits
    [.tally, .sealed]

theorem State.blowSeal_keeps (s : State) (ok1 ok2 : Bool) : Keeps State.blowSeal_mask s (State.blowSeal s ok1 ok2) := by
  unfold State.blowSeal
  extract_lets +onlyGivenNames y0
  clear_value y0
  extract_lets +onlyGivenNames y1
  have h2 : Keeps State.blowSeal_mask s y1 := Keeps.set_tally (Keeps.refl _ _)
  clear_value y1
  refine Keeps.ite ?_ ?_
  · extract_lets +onlyGivenNames y3
    have h4 : Keeps State.blowSeal_mask s y3 := Keeps.set_sealed h2
    clear_value y3
    exact Keeps.step (State.tallyDue_keeps ..) (Keeps.step (State.raise_keeps ..) (Keeps.clr h4))
  exact Keeps.step (State.raise_keeps ..) h2

def State.watchSeal_mask : Nat := partBits [.tally]

theorem State.watchSeal_keeps (s : State) : Keeps State.watchSeal_mask s (State.watchSeal s) := by
  unfold State.watchSeal
  extract_lets +onlyGivenNames y0
  clear_value y0
  exact Keeps.set_tally (Keeps.refl _ _)

def execTallySeal_mask : Nat := State.watchSeal_mask ||| State.advance_mask ||| State.blowSeal_mask |||
    State.passBoundaries_mask ||| State.advanceTo_mask ||| fieldBits [Reg.TALLY_STATUS_SEAL_REQ]

theorem execTallySeal_keeps (dt : Nat) (level : Bool) (ok1 ok2 : Bool) (s : State) : KeepsRes execTallySeal_mask s
    (execTallySeal dt level ok1 ok2 s) := by
  unfold execTallySeal
  extract_lets +onlyGivenNames y0
  have h1 : Keeps execTallySeal_mask s y0 := Keeps.step (State.watchSeal_keeps ..) (Keeps.refl _ _)
  clear_value y0
  extract_lets +onlyGivenNames y2
  have h3 : Keeps execTallySeal_mask s y2 := by
    unfold y2
    split
    · rename_i z4 z5 z6
      refine Keeps.ite ?_ ?_
      · extract_lets +onlyGivenNames y7
        clear_value y7
        exact Keeps.step (State.advance_keeps ..) (Keeps.step (State.blowSeal_keeps ..) (Keeps.step (State.passBoundaries_keeps
            ..) (Keeps.step (State.advanceTo_keeps ..) h1)))
      exact Keeps.step (State.advance_keeps ..) h1
    rename_i z8 z9
    exact Keeps.step (State.advance_keeps ..) h1
  clear_value y2
  exact KeepsRes.next (Keeps.step (State.watchSeal_keeps ..) (Keeps.wrB h3))

def State.attest_mask : Nat := State.tallyChecks_mask ||| State.watchSeal_mask ||| State.tallyDue_mask

theorem State.attest_keeps (s : State) (romOk katOk : Bool) : Keeps State.attest_mask s (State.attest s romOk katOk) := by
  unfold State.attest
  refine Keeps.ite ?_ ?_
  · exact Keeps.refl _ _
  extract_lets +onlyGivenNames y0
  have h1 : Keeps State.attest_mask s y0 := Keeps.step (State.tallyChecks_keeps ..) (Keeps.refl _ _)
  clear_value y0
  refine Keeps.ite ?_ ?_
  · exact Keeps.step (State.watchSeal_keeps ..) (Keeps.step (State.tallyDue_keeps ..) h1)
  exact h1

end Sys2Proof.Machine
end

