-- ==== Sys2Proof/Laws/KeepsPower.lean ====
section
/-!
SUPPORT. What the operations of Machine/Power.lean leave as it was, one lemma for each.
-/

set_option Elab.async false

namespace Sys2Proof.Machine

def State.ringPlace_mask : Nat := State.programNow_mask ||| State.draw_mask

theorem State.ringPlace_keeps (s : State) (lo hi n : Nat) : KeepsOptSnd State.ringPlace_mask s (State.ringPlace s lo hi n) := by
  unfold State.ringPlace
  extract_lets +onlyGivenNames y0
  clear_value y0
  extract_lets +onlyGivenNames y1
  clear_value y1
  split
  · rename_i z2 z3
    exact KeepsOptSnd.some (Keeps.refl _ _)
  rename_i z4
  extract_lets +onlyGivenNames y5
  clear_value y5
  refine KeepsOptSnd.ite ?_ ?_
  · exact KeepsOptSnd.none
  extract_lets +onlyGivenNames y6
  clear_value y6
  split
  rename_i z7 z8 z9 z10
  exact KeepsOptSnd.some (Keeps.step (State.programNow_keeps ..) (Keeps.ofSnd z10 (KeepsSnd.step (State.draw_keeps ..)
      (Keeps.refl _ _))))

def State.programList_mask : Nat := State.programNow_mask

theorem State.programList_keeps : ∀ (l : List Nat) (s : State) (i : Nat), Keeps State.programList_mask s (State.programList s i
    l) := by
  intro l
  induction l with
  | nil => intro s i; exact Keeps.refl _ _
  | cons w r ih =>
    intro s i
    unfold State.programList
    exact Keeps.step (ih ..) (Keeps.step (State.programNow_keeps ..) (Keeps.refl _ _)) (Nat.or_self _)

def State.writeRecord_mask : Nat := State.programNow_mask ||| State.programList_mask

theorem State.writeRecord_keeps (s : State) (i : Nat) (ws : List Nat) : Keeps State.writeRecord_mask s (State.writeRecord s i
    ws) := by
  unfold State.writeRecord
  split
  · rename_i z0
    exact Keeps.refl _ _
  · rename_i z1 z2
    exact Keeps.step (State.programNow_keeps ..) (Keeps.refl _ _)
  rename_i z3 z4 z5 z6
  exact Keeps.step (State.programNow_keeps ..) (Keeps.step (State.programList_keeps ..) (Keeps.step (State.programNow_keeps ..)
      (Keeps.refl _ _)))

def State.setMode_mask : Nat := fieldBits [Reg.GCTL_STATUS_MODE] ||| partBits [.pw]

theorem State.setMode_keeps (s : State) (m : Nat) : Keeps State.setMode_mask s (State.setMode s m) := by
  unfold State.setMode
  extract_lets +onlyGivenNames y0
  clear_value y0
  extract_lets +onlyGivenNames y1
  clear_value y1
  extract_lets +onlyGivenNames y2
  have h3 : Keeps State.setMode_mask s y2 := Keeps.wr (Keeps.refl _ _)
  clear_value y2
  exact Keeps.set_pw h3

def State.arrive_mask : Nat := State.raise_mask ||| State.setMode_mask

theorem State.arrive_keeps (s : State) (m cause : Nat) : Keeps State.arrive_mask s (State.arrive s m cause) := by
  unfold State.arrive
  exact Keeps.step (State.raise_keeps ..) (Keeps.step (State.setMode_keeps ..) (Keeps.refl _ _))

def State.parkPf_mask : Nat := State.putHead_mask ||| State.parkHead_mask

theorem State.parkPf_keeps (s : State) (h : Nat) : Keeps State.parkPf_mask s (State.parkPf s h) := by
  unfold State.parkPf
  refine Keeps.ite ?_ ?_
  · exact Keeps.step (State.putHead_keeps ..) (Keeps.refl _ _)
  exact Keeps.step (State.parkHead_keeps ..) (Keeps.refl _ _)

def State.pfActions_mask : Nat := State.sendStop_mask ||| State.spindleOff_mask ||| State.parkPf_mask ||| State.showFlash_mask
    ||| State.haltAll_mask ||| partBits [.jq, .flash]

theorem State.pfActions_keeps (s : State) : Keeps State.pfActions_mask s (State.pfActions s) := by
  unfold State.pfActions
  refine Keeps.ite ?_ ?_
  · exact Keeps.refl _ _
  extract_lets +onlyGivenNames y0
  clear_value y0
  extract_lets +onlyGivenNames y1
  have h2 : Keeps State.pfActions_mask s y1 := Keeps.set_jq_flash (Keeps.refl _ _)
  clear_value y1
  extract_lets +onlyGivenNames y3
  have h4 : Keeps State.pfActions_mask s y3 := by
    unfold y3
    refine Keeps.foldl (fun t5 a6 => ?_) ?_
    · exact Keeps.step (State.sendStop_keeps ..) (Keeps.refl _ _)
    exact h2
  clear_value y3
  extract_lets +onlyGivenNames y7
  have h8 : Keeps State.pfActions_mask s y7 := by
    unfold y7
    refine Keeps.ite ?_ ?_
    · exact h4
    refine Keeps.foldl (fun t9 a10 => ?_) ?_
    · exact Keeps.step (State.spindleOff_keeps ..) (Keeps.step (State.parkPf_keeps ..) (Keeps.step (State.parkPf_keeps ..)
        (Keeps.refl _ _)))
    exact h4
  clear_value y7
  exact Keeps.step (State.showFlash_keeps ..) (Keeps.step (State.haltAll_keeps ..) h8)

def execPwrfailAssert_mask : Nat := State.raise_mask ||| State.pfActions_mask ||| fieldBits [Reg.PWR_STATUS_PWRFAIL] |||
    partBits [.pw, .tally]

theorem execPwrfailAssert_keeps (s : State) : KeepsRes execPwrfailAssert_mask s (execPwrfailAssert s) := by
  unfold execPwrfailAssert
  refine KeepsRes.ite ?_ ?_
  · exact KeepsRes.next (Keeps.refl _ _)
  extract_lets +onlyGivenNames y0
  have h1 : Keeps execPwrfailAssert_mask s y0 := Keeps.step (State.raise_keeps ..) (Keeps.set1 (Keeps.refl _ _))
  clear_value y0
  extract_lets +onlyGivenNames y2
  clear_value y2
  extract_lets +onlyGivenNames y3
  have h4 : Keeps execPwrfailAssert_mask s y3 := Keeps.step (State.pfActions_keeps ..) (Keeps.set_pw h1)
  clear_value y3
  refine KeepsRes.next (Keeps.ite ?_ ?_)
  · exact Keeps.set_tally h4
  exact h4

def State.pfPointer_mask : Nat := State.putZone_mask ||| State.writeRecord_mask ||| State.ringPlace_mask ||| partBits [.flash]

theorem State.pfPointer_keeps (s : State) (zk : Nat) : Keeps State.pfPointer_mask s (State.pfPointer s zk) := by
  unfold State.pfPointer
  split
  · rename_i z0 z1
    exact Keeps.refl _ _
  rename_i z2 z3 z4 z5
  extract_lets +onlyGivenNames y6
  clear_value y6
  extract_lets +onlyGivenNames y7
  have h8 : Keeps State.pfPointer_mask s y7 := Keeps.step (State.putZone_keeps ..) (Keeps.step (State.writeRecord_keeps ..)
      (Keeps.ofOptSnd z5 (KeepsOptSnd.step (State.ringPlace_keeps _ _ _ _) (Keeps.refl _ _))))
  clear_value y7
  exact Keeps.set_flash h8

def execPfJournalWrite_mask : Nat := State.endProgram_mask ||| State.advance_mask ||| State.pfPointer_mask |||
    State.writeRecord_mask ||| State.ringPlace_mask ||| partBits [.flash]

theorem execPfJournalWrite_keeps (dt : Nat) (s : State) : KeepsRes execPfJournalWrite_mask s (execPfJournalWrite dt s) := by
  unfold execPfJournalWrite
  refine KeepsRes.ite ?_ ?_
  · exact KeepsRes.next (Keeps.refl _ _)
  extract_lets +onlyGivenNames y0
  have h1 : Keeps execPfJournalWrite_mask s y0 := Keeps.step (State.endProgram_keeps ..) (Keeps.step (State.advance_keeps ..)
      (Keeps.refl _ _))
  clear_value y0
  extract_lets +onlyGivenNames y2
  clear_value y2
  extract_lets +onlyGivenNames y3
  have h4 : Keeps execPfJournalWrite_mask s y3 := by
    unfold y3
    refine Keeps.foldl (fun t5 a6 => ?_) ?_
    · exact Keeps.step (State.pfPointer_keeps ..) (Keeps.refl _ _)
    exact h1
  clear_value y3
  extract_lets +onlyGivenNames y7
  clear_value y7
  extract_lets +onlyGivenNames y8
  have h9 : Keeps execPfJournalWrite_mask s y8 := by
    unfold y8
    split
    · rename_i z10 z11 z12 z13
      exact Keeps.step (State.writeRecord_keeps ..) (Keeps.ofOptSnd z13 (KeepsOptSnd.step (State.ringPlace_keeps _ _ _ _) h4))
    rename_i z14 z15
    exact h4
  clear_value y8
  exact KeepsRes.next (Keeps.set_flash h9)

def execPwrfailDeassert_mask : Nat := State.raise_mask ||| State.pfOver_mask ||| fieldBits [Reg.PWR_STATUS_PWRFAIL] |||
    partBits [.pw]

theorem execPwrfailDeassert_keeps (s : State) : KeepsRes execPwrfailDeassert_mask s (execPwrfailDeassert s) := by
  unfold execPwrfailDeassert
  refine KeepsRes.ite ?_ ?_
  · exact KeepsRes.next (Keeps.refl _ _)
  extract_lets +onlyGivenNames y0
  have h1 : Keeps execPwrfailDeassert_mask s y0 := Keeps.step (State.raise_keeps ..) (Keeps.clr (Keeps.refl _ _))
  clear_value y0
  exact KeepsRes.next (Keeps.step (State.pfOver_keeps ..) (Keeps.set_pw h1))

def State.requestReset_mask : Nat := State.pfActions_mask ||| partBits [.pw]

theorem State.requestReset_keeps (s : State) (code : Nat) : Keeps State.requestReset_mask s (State.requestReset s code) := by
  unfold State.requestReset
  refine Keeps.ite ?_ ?_
  · exact Keeps.refl _ _
  extract_lets +onlyGivenNames y0
  have h1 : Keeps State.requestReset_mask s y0 := Keeps.step (State.pfActions_keeps ..) (Keeps.refl _ _)
  clear_value y0
  exact Keeps.set_pw h1

def execPwrfailRecover_mask : Nat := State.advanceTo_mask ||| partBits [.pw]

theorem execPwrfailRecover_keeps (s : State) : KeepsRes execPwrfailRecover_mask s (execPwrfailRecover s) := by
  unfold execPwrfailRecover
  split
  · rename_i z0 z1
    exact KeepsRes.next (Keeps.refl _ _)
  rename_i z2 z3 z4
  extract_lets +onlyGivenNames y5
  have h6 : Keeps execPwrfailRecover_mask s y5 := Keeps.step (State.advanceTo_keeps ..) (Keeps.refl _ _)
  clear_value y5
  extract_lets +onlyGivenNames y7
  clear_value y7
  extract_lets +onlyGivenNames y8
  have h9 : Keeps execPwrfailRecover_mask s y8 := Keeps.set_pw h6
  clear_value y8
  refine KeepsRes.next (Keeps.ite ?_ ?_)
  · exact h9
  exact Keeps.set_pw h9

def execWarmReset_mask : Nat := State.requestReset_mask

theorem execWarmReset_keeps (key : BitVec 16) (s : State) : KeepsRes execWarmReset_mask s (execWarmReset key s) := by
  unfold execWarmReset
  refine KeepsRes.ite ?_ ?_
  · exact KeepsRes.next (Keeps.refl _ _)
  exact KeepsRes.next (Keeps.step (State.requestReset_keeps ..) (Keeps.refl _ _))

def execColdReset_mask : Nat := State.requestReset_mask

theorem execColdReset_keeps (key : BitVec 16) (s : State) : KeepsRes execColdReset_mask s (execColdReset key s) := by
  unfold execColdReset
  refine KeepsRes.ite ?_ ?_
  · exact KeepsRes.next (Keeps.refl _ _)
  exact KeepsRes.next (Keeps.step (State.requestReset_keeps ..) (Keeps.refl _ _))

def State.restart_mask : Nat := allBits

theorem State.restart_keeps (s : State) (cold : Bool) (code : Nat) : Keeps State.restart_mask s (s.restart cold code) := by
  have hall : ∀ k, State.restart_mask.testBit (k % 8192) = true := fun k => testBit_super (by decide +kernel) (allRegs_test k)
  have hpart : ∀ p : Part, State.restart_mask.testBit p.bit = true := by intro p; cases p <;> decide +kernel
  unfold State.restart
  extract_lets s0 kept b tb0 ta0 s1 s2
  have h0 : Keeps State.restart_mask s s0 :=
    Keeps.ite (Keeps.step (State.endProgram_keeps ..) (Keeps.refl _ _) (by decide +kernel)) (Keeps.refl _ _)
  have h1 : Keeps State.restart_mask s s1 := by
    unfold s1 b tb0 ta0
    clear_value kept s0
    refine h0.trans ⟨rfl, id, ?_, id, Nat.le_refl _, fun k d hk => ?_, fun p hp => ?_⟩
    · intro h; cases kept
      · exact rfl
      · exact h
    · rw [hall k] at hk; cases hk
    · rw [hpart p] at hp; cases hp
  have h2 : Keeps State.restart_mask s s2 := by
    unfold s2
    clear_value s1
    exact Keeps.wrB (Keeps.wr h1 (hall _)) (hall _)
  clear_value s2
  exact Keeps.step (State.raise_keeps ..) (Keeps.step (State.raise_keeps ..) h2 (by decide +kernel)) (by decide +kernel)

def execResetTakesEffect_mask : Nat := State.advanceTo_mask ||| State.restart_mask

theorem execResetTakesEffect_keeps (s : State) : KeepsRes execResetTakesEffect_mask s (execResetTakesEffect s) := by
  unfold execResetTakesEffect
  split
  · rename_i z0 z1
    exact KeepsRes.next (Keeps.refl _ _)
  rename_i z2 z3 z4 z5
  extract_lets +onlyGivenNames y6
  have h7 : Keeps execResetTakesEffect_mask s y6 := by
    unfold y6
    refine Keeps.ite ?_ ?_
    · exact Keeps.step (State.advanceTo_keeps ..) (Keeps.refl _ _)
    exact Keeps.refl _ _
  clear_value y6
  exact KeepsRes.next (Keeps.step (State.restart_keeps ..) h7)

def State.tearProgram_mask : Nat := State.draw_mask ||| partBits [.flash]

theorem State.tearProgram_keeps (s : State) : Keeps State.tearProgram_mask s (State.tearProgram s) := by
  unfold State.tearProgram
  split
  · rename_i z0 z1
    exact Keeps.refl _ _
  rename_i z2 z3 z4
  split
  rename_i z5 z6 z7 z8
  extract_lets +onlyGivenNames y9
  clear_value y9
  extract_lets +onlyGivenNames y10
  clear_value y10
  exact Keeps.set_flash (Keeps.ofSnd z8 (KeepsSnd.step (State.draw_keeps ..) (Keeps.refl _ _)))

def execPorstAssert_mask : Nat := allBits

theorem execPorstAssert_keeps (s : State) : KeepsRes execPorstAssert_mask s (execPorstAssert s) := by
  have hall : ∀ k, execPorstAssert_mask.testBit (k % 8192) = true := fun k => testBit_super (by decide +kernel) (allRegs_test k)
  have hpart : ∀ p : Part, execPorstAssert_mask.testBit p.bit = true := by intro p; cases p <;> decide +kernel
  unfold execPorstAssert
  extract_lets s1 spare b
  have h1 : Keeps execPorstAssert_mask s s1 := Keeps.step (State.tearProgram_keeps ..) (Keeps.refl _ _) (by decide +kernel)
  clear_value s1 spare
  unfold b
  refine KeepsRes.next (h1.trans ⟨rfl, fun _ => ⟨Nat.zero_lt_succ _, Nat.zero_lt_succ _⟩, fun _ => rfl, id, Nat.le_refl _,
    fun k d hk => ?_, fun p hp => ?_⟩)
  · rw [hall k] at hk; cases hk
  · rw [hpart p] at hp; cases hp

def execPorstDeassert_mask : Nat := State.setLin_mask ||| fieldBits [Reg.GCTL_CELL_MGMT_ADDR, Reg.GCTL_CELL_MASTER] |||
    partBits [.tb, .pw]

theorem execPorstDeassert_keeps (mgmtAddr : BitVec 2) (slave clocks : Bool) (s : State) : KeepsRes execPorstDeassert_mask s
    (execPorstDeassert mgmtAddr slave clocks s) := by
  unfold execPorstDeassert
  refine KeepsRes.ite ?_ ?_
  · exact KeepsRes.next (Keeps.refl _ _)
  extract_lets +onlyGivenNames y0
  have h1 : Keeps execPorstDeassert_mask s y0 := Keeps.wr (Keeps.step (State.setLin_keeps ..) (Keeps.refl _ _))
  clear_value y0
  extract_lets +onlyGivenNames y2
  have h3 : Keeps execPorstDeassert_mask s y2 := Keeps.wrB h1
  clear_value y2
  refine KeepsRes.next ?_
  extract_lets +onlyGivenNames y4
  unfold y4
  exact Keeps.set_tb_pw h3

def State.stopStations_mask : Nat := State.parkHead_mask ||| State.stopSpindle_mask ||| State.showSp_mask ||| fieldBits
    [Reg.STN_SP_TARGET_RPM]

theorem State.stopStations_keeps (s : State) : Keeps State.stopStations_mask s (State.stopStations s) := by
  unfold State.stopStations
  refine Keeps.foldl (fun t0 a1 => ?_) ?_
  · extract_lets +onlyGivenNames y2
    have h3 : Keeps State.stopStations_mask t0 y2 := by
      unfold y2
      refine Keeps.foldl (fun t4 a5 => ?_) ?_
      · refine Keeps.ite ?_ ?_
        · exact Keeps.step (State.parkHead_keeps ..) (Keeps.refl _ _)
        exact Keeps.refl _ _
      exact Keeps.refl _ _
    clear_value y2
    refine Keeps.ite ?_ ?_
    · exact h3
    extract_lets +onlyGivenNames y6
    clear_value y6
    extract_lets +onlyGivenNames y7
    have h8 : Keeps State.stopStations_mask t0 y7 := by
      unfold y7
      refine Keeps.ite ?_ ?_
      · exact Keeps.step (State.stopSpindle_keeps ..) h3
      exact h3
    clear_value y7
    refine Keeps.ite ?_ ?_
    · exact h8
    exact Keeps.step (State.showSp_keeps ..) (Keeps.clr h8)
  exact Keeps.refl _ _

def State.endModeSet_mask : Nat := State.finish_mask ||| partBits [.pw]

theorem State.endModeSet_keeps (s : State) : Keeps State.endModeSet_mask s (State.endModeSet s) := by
  unfold State.endModeSet
  split
  · rename_i z0 z1 z2
    split
    · rename_i z3 z4 z5 z6
      exact Keeps.step (State.finish_keeps ..) (Keeps.set_pw (Keeps.refl _ _))
    rename_i z7 z8
    exact Keeps.refl _ _
  rename_i z9 z10
  exact Keeps.refl _ _

def State.endTrans_mask : Nat := State.endModeSet_mask ||| State.arrive_mask ||| partBits [.pw]

theorem State.endTrans_keeps (s : State) (m cause : Nat) : Keeps State.endTrans_mask s (State.endTrans s m cause) := by
  unfold State.endTrans
  extract_lets +onlyGivenNames y0
  have h1 : Keeps State.endTrans_mask s y0 := Keeps.step (State.endModeSet_keeps ..) (Keeps.step (State.arrive_keeps ..)
      (Keeps.refl _ _))
  clear_value y0
  exact Keeps.set_pw h1

def State.portsDown_mask : Nat := State.safeNow_mask ||| State.toDown_mask

theorem State.portsDown_keeps (s : State) : Keeps State.portsDown_mask s (State.portsDown s) := by
  unfold State.portsDown
  refine Keeps.foldl (fun t0 a1 => ?_) ?_
  · refine Keeps.ite ?_ ?_
    · refine Keeps.ite ?_ ?_
      · exact Keeps.step (State.safeNow_keeps ..) (Keeps.refl _ _)
      exact Keeps.refl _ _
    refine Keeps.ite ?_ ?_
    · exact Keeps.refl _ _
    exact Keeps.step (State.toDown_keeps ..) (Keeps.refl _ _)
  exact Keeps.refl _ _

def State.goEmber_mask : Nat := State.pkPark_mask ||| State.dropCal_mask ||| State.releaseSlice_mask ||| State.stationOff_mask
    ||| State.setWays_mask ||| fieldBits [Reg.MEMC_STATUS_SELF_REFRESH, Reg.MEMC_CACHE_PWR_ON]

theorem State.goEmber_keeps (s : State) : Keeps State.goEmber_mask s (State.goEmber s) := by
  unfold State.goEmber
  extract_lets +onlyGivenNames y0
  have h1 : Keeps State.goEmber_mask s y0 := by
    unfold y0
    refine Keeps.foldl (fun t2 a3 => ?_) ?_
    · exact Keeps.step (State.pkPark_keeps ..) (Keeps.refl _ _)
    exact Keeps.step (State.dropCal_keeps ..) (Keeps.refl _ _)
  clear_value y0
  extract_lets +onlyGivenNames y4
  have h5 : Keeps State.goEmber_mask s y4 := by
    unfold y4
    refine Keeps.foldl (fun t6 a7 => ?_) ?_
    · refine Keeps.ite ?_ ?_
      · exact Keeps.step (State.releaseSlice_keeps ..) (Keeps.refl _ _)
      exact Keeps.refl _ _
    exact h1
  clear_value y4
  extract_lets +onlyGivenNames y8
  have h9 : Keeps State.goEmber_mask s y8 := by
    unfold y8
    refine Keeps.foldl (fun t10 a11 => ?_) ?_
    · exact Keeps.step (State.stationOff_keeps ..) (Keeps.refl _ _)
    exact h5
  clear_value y8
  extract_lets +onlyGivenNames y12
  clear_value y12
  exact Keeps.set1 (Keeps.wr (Keeps.step (State.setWays_keeps ..) h9))

def State.leaveEmber_mask : Nat := State.toWait_mask ||| State.touchDram_mask ||| State.setWays_mask

theorem State.leaveEmber_keeps (s : State) : Keeps State.leaveEmber_mask s (State.leaveEmber s) := by
  unfold State.leaveEmber
  extract_lets +onlyGivenNames y0
  have h1 : Keeps State.leaveEmber_mask s y0 := by
    unfold y0
    refine Keeps.foldl (fun t2 a3 => ?_) ?_
    · refine Keeps.ite ?_ ?_
      · exact Keeps.step (State.toWait_keeps ..) (Keeps.refl _ _)
      exact Keeps.refl _ _
    exact Keeps.refl _ _
  clear_value y0
  exact Keeps.step (State.touchDram_keeps ..) (Keeps.step (State.setWays_keeps ..) h1)

def State.goBanked_mask : Nat := State.raise_mask ||| State.endpointReset_mask ||| State.portDown_mask ||| State.setAx_mask |||
    partBits [.tb, .pw]

theorem State.goBanked_keeps (s : State) : Keeps State.goBanked_mask s (State.goBanked s) := by
  unfold State.goBanked
  extract_lets +onlyGivenNames y0
  have h1 : Keeps State.goBanked_mask s y0 := Keeps.step (State.raise_keeps ..) (Keeps.step (State.endpointReset_keeps ..)
      (Keeps.refl _ _))
  clear_value y0
  extract_lets +onlyGivenNames y2
  have h3 : Keeps State.goBanked_mask s y2 := Keeps.step (State.portDown_keeps ..) (Keeps.step (State.portDown_keeps ..) h1)
  clear_value y2
  extract_lets +onlyGivenNames y4
  have h5 : Keeps State.goBanked_mask s y4 := by
    unfold y4
    refine Keeps.foldl (fun t6 a7 => ?_) ?_
    · refine Keeps.ite ?_ ?_
      · exact Keeps.refl _ _
      exact Keeps.step (State.setAx_keeps ..) (Keeps.refl _ _)
    exact h3
  clear_value y4
  extract_lets +onlyGivenNames y8
  unfold y8
  exact Keeps.set_tb_pw h5

def State.downStep_mask : Nat := State.beginTrans_mask ||| State.endModeSet_mask ||| State.goBanked_mask |||
    State.advanceTo_mask ||| State.endTrans_mask ||| State.stopStations_mask ||| State.portsDown_mask ||| State.arrive_mask |||
    State.goEmber_mask ||| partBits [.pw]

theorem State.downStep_keeps (s : State) (t : Trans) : Keeps State.downStep_mask s (State.downStep s t) := by
  unfold State.downStep
  refine Keeps.ite ?_ ?_
  · refine Keeps.ite ?_ ?_
    · exact Keeps.step (State.beginTrans_keeps ..) (Keeps.refl _ _)
    split
    · rename_i z0 z1
      extract_lets +onlyGivenNames y2
      have h3 : Keeps State.downStep_mask s y2 := Keeps.step (State.endModeSet_keeps ..) (Keeps.refl _ _)
      clear_value y2
      exact Keeps.set_pw h3
    rename_i z4 z5 z6
    extract_lets +onlyGivenNames y7
    have h8 : Keeps State.downStep_mask s y7 := Keeps.step (State.goBanked_keeps ..) (Keeps.step (State.advanceTo_keeps ..)
        (Keeps.refl _ _))
    clear_value y7
    exact Keeps.step (State.endTrans_keeps ..) h8
  extract_lets +onlyGivenNames y9
  have h10 : Keeps State.downStep_mask s y9 := Keeps.step (State.stopStations_keeps ..) (Keeps.refl _ _)
  clear_value y9
  refine Keeps.ite ?_ ?_
  · exact h10
  extract_lets +onlyGivenNames y11
  have h12 : Keeps State.downStep_mask s y11 := Keeps.step (State.portsDown_keeps ..) (Keeps.step (State.endModeSet_keeps ..)
      h10)
  clear_value y11
  refine Keeps.ite ?_ ?_
  · exact h12
  extract_lets +onlyGivenNames y13
  have h14 : Keeps State.downStep_mask s y13 := Keeps.step (State.arrive_keeps ..) (Keeps.step (State.goEmber_keeps ..) h12)
  clear_value y13
  refine Keeps.ite ?_ ?_
  · exact Keeps.step (State.beginTrans_keeps ..) h14
  refine Keeps.ite ?_ ?_
  · exact Keeps.set_pw h14
  exact Keeps.set_pw h14

def State.awake_mask : Nat := State.setAx_mask ||| State.setLocked_mask ||| partBits [.tb, .pw]

theorem State.awake_keeps (s : State) : Keeps State.awake_mask s (State.awake s) := by
  unfold State.awake
  extract_lets +onlyGivenNames y0
  have h1 : Keeps State.awake_mask s y0 := by
    unfold y0
    refine Keeps.foldl (fun t2 a3 => ?_) ?_
    · refine Keeps.ite ?_ ?_
      · exact Keeps.step (State.setAx_keeps ..) (Keeps.refl _ _)
      exact Keeps.refl _ _
    exact Keeps.refl _ _
  clear_value y0
  extract_lets +onlyGivenNames y4
  have h5 : Keeps State.awake_mask s y4 := Keeps.step (State.setLocked_keeps ..) h1
  clear_value y4
  extract_lets +onlyGivenNames y6
  unfold y6
  exact Keeps.set_tb_pw h5

def execModeTransitionDone_mask : Nat := State.endTrans_mask ||| State.awake_mask ||| State.downStep_mask |||
    State.stopStations_mask ||| State.attest_mask ||| State.leaveEmber_mask

theorem execModeTransitionDone_keeps (romOk katOk : Bool) (s : State) : KeepsRes execModeTransitionDone_mask s
    (execModeTransitionDone romOk katOk s) := by
  unfold execModeTransitionDone
  split
  · rename_i z0 z1
    exact KeepsRes.next (Keeps.refl _ _)
  rename_i z2 z3 z4
  refine KeepsRes.ite ?_ ?_
  · refine KeepsRes.ite ?_ ?_
    · exact KeepsRes.next (Keeps.step (State.endTrans_keeps ..) (Keeps.step (State.awake_keeps ..) (Keeps.refl _ _)))
    exact KeepsRes.next (Keeps.step (State.downStep_keeps ..) (Keeps.refl _ _))
  refine KeepsRes.ite ?_ ?_
  · extract_lets +onlyGivenNames y5
    have h6 : Keeps execModeTransitionDone_mask s y5 := Keeps.step (State.stopStations_keeps ..) (Keeps.refl _ _)
    clear_value y5
    refine KeepsRes.next (Keeps.ite ?_ ?_)
    · exact Keeps.step (State.attest_keeps ..) (Keeps.step (State.endTrans_keeps ..) h6)
    exact h6
  extract_lets +onlyGivenNames y7
  have h8 : Keeps execModeTransitionDone_mask s y7 := by
    unfold y7
    refine Keeps.ite ?_ ?_
    · exact Keeps.step (State.leaveEmber_keeps ..) (Keeps.refl _ _)
    exact Keeps.refl _ _
  clear_value y7
  extract_lets +onlyGivenNames y9
  clear_value y9
  exact KeepsRes.next (Keeps.step (State.endTrans_keeps ..) h8)

def State.coarseFor_mask : Nat := State.coarse_mask

theorem State.coarseFor_keeps (s : State) (n : Nat) : Keeps State.coarseFor_mask s (State.coarseFor s n) := by
  unfold State.coarseFor
  extract_lets +onlyGivenNames y0
  clear_value y0
  refine Keeps.ite ?_ ?_
  · exact Keeps.step (State.coarse_keeps ..) (Keeps.refl _ _)
  refine Keeps.ite ?_ ?_
  · exact Keeps.step (State.coarse_keeps ..) (Keeps.refl _ _)
  exact Keeps.step (State.coarse_keeps ..) (Keeps.refl _ _)

def State.wakeBy_mask : Nat := State.raise_mask ||| State.beginTrans_mask ||| State.requestReset_mask ||| fieldBits
    [Reg.PWR_STATUS_WAKE_SRC]

theorem State.wakeBy_keeps (s : State) (src : Nat) (intact : Bool) : Keeps State.wakeBy_mask s (State.wakeBy s src intact) := by
  unfold State.wakeBy
  extract_lets +onlyGivenNames y0
  have h1 : Keeps State.wakeBy_mask s y0 := Keeps.step (State.raise_keeps ..) (Keeps.wr (Keeps.refl _ _))
  clear_value y0
  refine Keeps.ite ?_ ?_
  · exact Keeps.step (State.beginTrans_keeps ..) h1
  exact Keeps.step (State.requestReset_keeps ..) (Keeps.step (State.raise_keeps ..) h1)

def execWake_mask : Nat := State.coarseFor_mask ||| State.wakeBy_mask

theorem execWake_keeps (srcs : BitVec 4) (intact : Bool) (s : State) : KeepsRes execWake_mask s (execWake srcs intact s) := by
  unfold execWake
  refine KeepsRes.ite ?_ ?_
  · exact KeepsRes.next (Keeps.refl _ _)
  split
  · rename_i z0 z1
    exact KeepsRes.next (Keeps.refl _ _)
  rename_i z2 z3 z4
  extract_lets +onlyGivenNames y5
  clear_value y5
  extract_lets +onlyGivenNames y6
  have h7 : Keeps execWake_mask s y6 := by
    unfold y6
    refine Keeps.ite ?_ ?_
    · exact Keeps.step (State.coarseFor_keeps ..) (Keeps.refl _ _)
    exact Keeps.refl _ _
  clear_value y6
  exact KeepsRes.next (Keeps.step (State.wakeBy_keeps ..) h7)

def State.noteHealth_mask : Nat := partBits [.firm]

theorem State.noteHealth_keeps (s : State) : Keeps State.noteHealth_mask s (State.noteHealth s) := by
  unfold State.noteHealth
  exact Keeps.set_firm (Keeps.refl _ _)

def execFwReady_mask : Nat := State.firmLayout_mask ||| State.raise_mask ||| State.noteHealth_mask ||| State.beginTrans_mask
    ||| State.arrive_mask ||| fieldBits [Reg.GCTL_FW_VER_BUILD, Reg.GCTL_FW_VER_MINOR, Reg.GCTL_FW_VER_MAJOR,
    Reg.GCTL_STATUS_FW_READY, Reg.GCTL_SIZE_STN_FITTED, Reg.GCTL_SIZE_MAG_SLOTS] ||| partBits [.pw]

theorem execFwReady_keeps (slots : Fin 4097) (stns : Fin 129) (ember : Bool) (s : State) : KeepsRes execFwReady_mask s
    (execFwReady slots stns ember s) := by
  unfold execFwReady
  refine KeepsRes.ite ?_ ?_
  · exact KeepsRes.next (Keeps.refl _ _)
  extract_lets +onlyGivenNames y0
  have h1 : Keeps execFwReady_mask s y0 := Keeps.step (State.firmLayout_keeps ..) (Keeps.refl _ _)
  clear_value y0
  extract_lets +onlyGivenNames y2
  clear_value y2
  extract_lets +onlyGivenNames y3
  have h4 : Keeps execFwReady_mask s y3 := Keeps.wr (Keeps.wr (Keeps.wr h1))
  clear_value y3
  extract_lets +onlyGivenNames y5
  have h6 : Keeps execFwReady_mask s y5 := Keeps.set1 (Keeps.wr (Keeps.wr h4))
  clear_value y5
  extract_lets +onlyGivenNames y7
  clear_value y7
  extract_lets +onlyGivenNames y8
  have h9 : Keeps execFwReady_mask s y8 := Keeps.set_pw h6
  clear_value y8
  extract_lets +onlyGivenNames y10
  have h11 : Keeps execFwReady_mask s y10 := by
    unfold y10
    refine Keeps.ite ?_ ?_
    · exact Keeps.step (State.raise_keeps ..) h9
    exact h9
  clear_value y10
  extract_lets +onlyGivenNames y12
  have h13 : Keeps execFwReady_mask s y12 := by
    unfold y12
    refine Keeps.foldl (fun t14 a15 => ?_) ?_
    · exact Keeps.step (State.raise_keeps ..) (Keeps.refl _ _)
    exact h11
  clear_value y12
  refine KeepsRes.next (Keeps.step (State.noteHealth_keeps ..) (Keeps.ite ?_ ?_))
  · exact Keeps.step (State.beginTrans_keeps ..) h13
  exact Keeps.step (State.arrive_keeps ..) h13

def execWatchdogKick_mask : Nat := partBits [.pw]

theorem execWatchdogKick_keeps (s : State) : KeepsRes execWatchdogKick_mask s (execWatchdogKick s) := by
  unfold execWatchdogKick
  exact KeepsRes.next (Keeps.set_pw (Keeps.refl _ _))

def execWatchdogExpire_mask : Nat := State.cinder_mask ||| State.advanceTo_mask

theorem execWatchdogExpire_keeps (s : State) : KeepsRes execWatchdogExpire_mask s (execWatchdogExpire s) := by
  unfold execWatchdogExpire
  refine KeepsRes.ite ?_ ?_
  · exact KeepsRes.next (Keeps.refl _ _)
  exact KeepsRes.next (Keeps.step (State.cinder_keeps ..) (Keeps.step (State.advanceTo_keeps ..) (Keeps.refl _ _)))

def execSupplyFault_mask : Nat := State.advance_mask ||| State.cinder_mask

theorem execSupplyFault_keeps (dt : Nat) (s : State) : KeepsRes execSupplyFault_mask s (execSupplyFault dt s) := by
  unfold execSupplyFault
  extract_lets +onlyGivenNames y0
  have h1 : Keeps execSupplyFault_mask s y0 := Keeps.step (State.advance_keeps ..) (Keeps.refl _ _)
  clear_value y0
  refine KeepsRes.ite ?_ ?_
  · exact KeepsRes.next h1
  exact KeepsRes.next (Keeps.step (State.cinder_keeps ..) h1)

def State.thermDamp_mask : Nat := State.raise_mask ||| State.beginTrans_mask ||| fieldBits [Reg.PWR_STATUS_THERM_DAMPED]

theorem State.thermDamp_keeps (s : State) : Keeps State.thermDamp_mask s (State.thermDamp s) := by
  unfold State.thermDamp
  extract_lets +onlyGivenNames y0
  have h1 : Keeps State.thermDamp_mask s y0 := Keeps.step (State.raise_keeps ..) (Keeps.set1 (Keeps.refl _ _))
  clear_value y0
  refine Keeps.ite ?_ ?_
  · exact Keeps.step (State.beginTrans_keeps ..) h1
  exact h1

def execThermalReading_mask : Nat := State.advance_mask ||| State.cinder_mask ||| State.thermDamp_mask ||| fieldBits
    [Reg.PWR_TEMP_TJ_PEAK, Reg.PWR_TEMP_TJ] ||| partBits [.pw]

theorem execThermalReading_keeps (dt : Nat) (temps : List (BitVec 16)) (s : State) : KeepsRes execThermalReading_mask s
    (execThermalReading dt temps s) := by
  unfold execThermalReading
  extract_lets +onlyGivenNames y0
  have h1 : Keeps execThermalReading_mask s y0 := Keeps.step (State.advance_keeps ..) (Keeps.refl _ _)
  clear_value y0
  split
  · rename_i z2 z3
    exact KeepsRes.next h1
  rename_i z4 z5 z6 z7
  refine KeepsRes.ite ?_ ?_
  · exact KeepsRes.next h1
  extract_lets +onlyGivenNames y8
  clear_value y8
  extract_lets +onlyGivenNames y9
  clear_value y9
  extract_lets +onlyGivenNames y10
  have h11 : Keeps execThermalReading_mask s y10 := Keeps.wrS (Keeps.wrS h1)
  clear_value y10
  extract_lets +onlyGivenNames y12
  clear_value y12
  extract_lets +onlyGivenNames y13
  clear_value y13
  extract_lets +onlyGivenNames y14
  clear_value y14
  extract_lets +onlyGivenNames y15
  clear_value y15
  extract_lets +onlyGivenNames y16
  have h17 : Keeps execThermalReading_mask s y16 := Keeps.set_pw h11
  clear_value y16
  refine KeepsRes.ite ?_ ?_
  · exact KeepsRes.next (Keeps.step (State.cinder_keeps ..) h17)
  refine KeepsRes.ite ?_ ?_
  · refine KeepsRes.ite ?_ ?_
    · exact KeepsRes.next (Keeps.step (State.thermDamp_keeps ..) h17)
    refine KeepsRes.ite ?_ ?_
    · exact KeepsRes.next (Keeps.set_pw h17)
    exact KeepsRes.next h17
  exact KeepsRes.next h17

def execThermalExit_mask : Nat := State.advanceTo_mask ||| State.raise_mask ||| State.beginTrans_mask ||| fieldBits
    [Reg.PWR_STATUS_THERM_DAMPED]

theorem execThermalExit_keeps (s : State) : KeepsRes execThermalExit_mask s (execThermalExit s) := by
  unfold execThermalExit
  split
  · rename_i z0 z1
    exact KeepsRes.next (Keeps.refl _ _)
  rename_i z2 z3 z4
  refine KeepsRes.ite ?_ ?_
  · exact KeepsRes.next (Keeps.refl _ _)
  extract_lets +onlyGivenNames y5
  have h6 : Keeps execThermalExit_mask s y5 := Keeps.step (State.advanceTo_keeps ..) (Keeps.refl _ _)
  clear_value y5
  extract_lets +onlyGivenNames y7
  have h8 : Keeps execThermalExit_mask s y7 := Keeps.step (State.raise_keeps ..) (Keeps.clr h6)
  clear_value y7
  refine KeepsRes.next (Keeps.ite ?_ ?_)
  · exact Keeps.step (State.beginTrans_keeps ..) h8
  exact h8

def execThermtrip_mask : Nat := State.emit_mask ||| partBits [.pw]

theorem execThermtrip_keeps (s : State) : KeepsRes execThermtrip_mask s (execThermtrip s) := by
  unfold execThermtrip
  refine KeepsRes.ite ?_ ?_
  · exact KeepsRes.next (Keeps.refl _ _)
  exact KeepsRes.next (Keeps.step (State.emit_keeps ..) (Keeps.set_pw (Keeps.refl _ _)))

def execPowerCapEstimate_mask : Nat := State.advance_mask ||| fieldBits [Reg.PWR_STATUS_OVER_CAP, Reg.PWR_CAP_EST] ||| partBits
    [.pw]

theorem execPowerCapEstimate_keeps (dt own : Nat) (s : State) : KeepsRes execPowerCapEstimate_mask s (execPowerCapEstimate dt
    own s) := by
  unfold execPowerCapEstimate
  extract_lets +onlyGivenNames y0
  have h1 : Keeps execPowerCapEstimate_mask s y0 := Keeps.step (State.advance_keeps ..) (Keeps.refl _ _)
  clear_value y0
  refine KeepsRes.ite ?_ ?_
  · exact KeepsRes.next h1
  extract_lets +onlyGivenNames y2
  clear_value y2
  extract_lets +onlyGivenNames y3
  have h4 : Keeps execPowerCapEstimate_mask s y3 := Keeps.set_pw h1
  clear_value y3
  extract_lets +onlyGivenNames y5
  clear_value y5
  extract_lets +onlyGivenNames y6
  clear_value y6
  extract_lets +onlyGivenNames y7
  have h8 : Keeps execPowerCapEstimate_mask s y7 := Keeps.wrB (Keeps.wr h4)
  clear_value y7
  extract_lets +onlyGivenNames y9
  clear_value y9
  exact KeepsRes.next (Keeps.set_pw h8)

def execCapExceeded_mask : Nat := State.advanceTo_mask ||| State.raise_mask ||| partBits [.pw]

theorem execCapExceeded_keeps (s : State) : KeepsRes execCapExceeded_mask s (execCapExceeded s) := by
  unfold execCapExceeded
  split
  · rename_i z0 z1
    exact KeepsRes.next (Keeps.refl _ _)
  rename_i z2 z3 z4
  refine KeepsRes.ite ?_ ?_
  · exact KeepsRes.next (Keeps.refl _ _)
  extract_lets +onlyGivenNames y5
  have h6 : Keeps execCapExceeded_mask s y5 := Keeps.step (State.advanceTo_keeps ..) (Keeps.refl _ _)
  clear_value y5
  exact KeepsRes.next (Keeps.step (State.raise_keeps ..) (Keeps.set_pw h6))

def execEventLogCopy_mask : Nat := State.writeRecord_mask ||| State.ringPlace_mask ||| State.noteHealth_mask |||
    State.startErase_mask ||| partBits [.ev, .firm]

theorem execEventLogCopy_keeps (s : State) : KeepsRes execEventLogCopy_mask s (execEventLogCopy s) := by
  unfold execEventLogCopy
  refine KeepsRes.ite ?_ ?_
  · exact KeepsRes.next (Keeps.refl _ _)
  split
  · rename_i z0 z1
    exact KeepsRes.next (Keeps.refl _ _)
  rename_i z2 z3 z4
  split
  · rename_i z5 z6 z7 z8
    extract_lets +onlyGivenNames y9
    have h10 : Keeps execEventLogCopy_mask s y9 := Keeps.step (State.writeRecord_keeps ..) (Keeps.ofOptSnd z8 (KeepsOptSnd.step
        (State.ringPlace_keeps _ _ _ _) (Keeps.refl _ _)))
    clear_value y9
    exact KeepsRes.next (Keeps.step (State.noteHealth_keeps ..) (Keeps.set_ev_firm h10))
  rename_i z11 z12
  refine KeepsRes.ite ?_ ?_
  · exact KeepsRes.next (Keeps.refl _ _)
  exact KeepsRes.next (Keeps.step (State.startErase_keeps ..) (Keeps.refl _ _))

def execEventInterrupt_mask : Nat := State.advanceTo_mask ||| State.msix_mask ||| partBits [.ev]

theorem execEventInterrupt_keeps (s : State) : KeepsRes execEventInterrupt_mask s (execEventInterrupt s) := by
  unfold execEventInterrupt
  refine KeepsRes.ite ?_ ?_
  · exact KeepsRes.next (Keeps.refl _ _)
  extract_lets +onlyGivenNames y0
  have h1 : Keeps execEventInterrupt_mask s y0 := by
    unfold y0
    split
    · rename_i z2 z3 z4
      exact Keeps.step (State.advanceTo_keeps ..) (Keeps.refl _ _)
    rename_i z5 z6
    exact Keeps.refl _ _
  clear_value y0
  exact KeepsRes.next (Keeps.step (State.msix_keeps ..) (Keeps.set_ev h1))

def execEventWindowEnd_mask : Nat := State.closeWindow_mask ||| State.advanceTo_mask

theorem execEventWindowEnd_keeps (code inst : Nat) (s : State) : KeepsRes execEventWindowEnd_mask s (execEventWindowEnd code
    inst s) := by
  unfold execEventWindowEnd
  split
  · rename_i z0 z1
    exact KeepsRes.next (Keeps.refl _ _)
  rename_i z2 z3 z4
  exact KeepsRes.next (Keeps.step (State.closeWindow_keeps ..) (Keeps.step (State.advanceTo_keeps ..) (Keeps.refl _ _)))

def execBar0ReservedAccess_mask : Nat := State.emit_mask ||| State.raiseWin_mask

theorem execBar0ReservedAccess_keeps (offset : BitVec 26) (write : Bool) (s : State) : KeepsRes execBar0ReservedAccess_mask s
    (execBar0ReservedAccess offset write s) := by
  unfold execBar0ReservedAccess
  extract_lets +onlyGivenNames y0
  have h1 : Keeps execBar0ReservedAccess_mask s y0 := by
    unfold y0
    refine Keeps.ite ?_ ?_
    · exact Keeps.refl _ _
    exact Keeps.step (State.emit_keeps ..) (Keeps.refl _ _)
  clear_value y0
  exact KeepsRes.next (Keeps.step (State.raiseWin_keeps ..) h1)

def execFetchHold_mask : Nat := fieldBits [Reg.GCTL_CTRL_HOLD_ACK, Reg.GCTL_CTRL_FETCH_HOLD]

theorem execFetchHold_keeps (on : Bool) (s : State) : KeepsRes execFetchHold_mask s (execFetchHold on s) := by
  unfold execFetchHold
  exact KeepsRes.next (Keeps.wrB (Keeps.wrB (Keeps.refl _ _)))

end Sys2Proof.Machine
end

