-- ==== Sys2Proof/Laws/KeepsCal.lean ====
section
/-!
SUPPORT. What the operations of Machine/Cal.lean leave as it was, one lemma for each.
-/

set_option Elab.async false

namespace Sys2Proof.Machine

def State.putCal_mask : Nat := partBits [.cals]

theorem State.putCal_keeps (s : State) (kind inst : Nat) (u : CalUnit) : Keeps State.putCal_mask s (State.putCal s kind inst u)
    := by
  unfold State.putCal
  exact Keeps.set_cals (Keeps.refl _ _)

def State.calPrune_mask : Nat := partBits [.cals]

theorem State.calPrune_keeps (s : State) : Keeps State.calPrune_mask s (State.calPrune s) := by
  unfold State.calPrune
  exact Keeps.set_cals (Keeps.refl _ _)

def State.calPend_mask : Nat := State.putCal_mask

theorem State.calPend_keeps (s : State) (kind inst : Nat) : Keeps State.calPend_mask s (State.calPend s kind inst) := by
  unfold State.calPend
  extract_lets +onlyGivenNames y0
  clear_value y0
  refine Keeps.ite ?_ ?_
  · exact Keeps.step (State.putCal_keeps ..) (Keeps.refl _ _)
  exact Keeps.step (State.putCal_keeps ..) (Keeps.refl _ _)

def execCalTrigger_mask : Nat := State.calPend_mask ||| State.advanceTo_mask

theorem execCalTrigger_keeps (kind : Fin 3) (inst : Fin 256) (s : State) : KeepsRes execCalTrigger_mask s (execCalTrigger kind
    inst s) := by
  unfold execCalTrigger
  refine KeepsRes.ite ?_ ?_
  · exact KeepsRes.next (Keeps.refl _ _)
  extract_lets +onlyGivenNames y0
  clear_value y0
  refine KeepsRes.ite ?_ ?_
  · exact KeepsRes.next (Keeps.step (State.calPend_keeps ..) (Keeps.refl _ _))
  extract_lets +onlyGivenNames y1
  clear_value y1
  split
  · rename_i z2 z3 z4
    refine KeepsRes.ite ?_ ?_
    · exact KeepsRes.next (Keeps.refl _ _)
    exact KeepsRes.next (Keeps.step (State.calPend_keeps ..) (Keeps.step (State.advanceTo_keeps ..) (Keeps.refl _ _)))
  rename_i z5 z6
  exact KeepsRes.next (Keeps.refl _ _)

def execCalRunAll_mask : Nat := State.calPend_mask

theorem execCalRunAll_keeps (s : State) : KeepsRes execCalRunAll_mask s (execCalRunAll s) := by
  unfold execCalRunAll
  refine KeepsRes.ite ?_ ?_
  · exact KeepsRes.next (Keeps.refl _ _)
  refine KeepsRes.next (Keeps.foldl (fun t0 a1 => ?_) ?_)
  · refine Keeps.ite ?_ ?_
    · refine Keeps.foldl (fun t2 a3 => ?_) ?_
      · exact Keeps.step (State.calPend_keeps ..) (Keeps.refl _ _)
      exact Keeps.refl _ _
    exact Keeps.refl _ _
  exact Keeps.refl _ _

def State.calDone_mask : Nat := State.putCal_mask ||| State.raiseWin_mask

theorem State.calDone_keeps (s : State) (kind inst : Nat) (value : List Nat) : Keeps State.calDone_mask s (State.calDone s kind
    inst value) := by
  unfold State.calDone
  extract_lets +onlyGivenNames y0
  clear_value y0
  extract_lets +onlyGivenNames y1
  clear_value y1
  extract_lets +onlyGivenNames y2
  have h3 : Keeps State.calDone_mask s y2 := Keeps.step (State.putCal_keeps ..) (Keeps.refl _ _)
  clear_value y2
  exact Keeps.step (State.raiseWin_keeps ..) h3

def execCalPortRun_mask : Nat := State.putCal_mask ||| State.raise_mask

theorem execCalPortRun_keeps (p : Fin 130) (a b : List Nat) (s : State) : KeepsRes execCalPortRun_mask s (execCalPortRun p a b
    s) := by
  unfold execCalPortRun
  extract_lets +onlyGivenNames y0
  clear_value y0
  extract_lets +onlyGivenNames y1
  clear_value y1
  refine KeepsRes.ite ?_ ?_
  · exact KeepsRes.next (Keeps.refl _ _)
  extract_lets +onlyGivenNames y2
  clear_value y2
  extract_lets +onlyGivenNames y3
  clear_value y3
  extract_lets +onlyGivenNames y4
  have h5 : Keeps execCalPortRun_mask s y4 := Keeps.step (State.putCal_keeps ..) (Keeps.refl _ _)
  clear_value y4
  refine KeepsRes.next (Keeps.ite ?_ ?_)
  · exact Keeps.step (State.raise_keeps ..) h5
  exact h5

def execCalPortApply_mask : Nat := State.advanceMod_mask ||| State.calDone_mask ||| fieldBits portFields ||| fieldBits
    [Reg.CAL_PORT0_TJ_RUN]

theorem execCalPortApply_keeps (p : Fin 130) (s : State) : KeepsRes execCalPortApply_mask s (execCalPortApply p s) := by
  unfold execCalPortApply
  extract_lets +onlyGivenNames y0
  clear_value y0
  refine KeepsRes.ite ?_ ?_
  · exact KeepsRes.next (Keeps.refl _ _)
  extract_lets +onlyGivenNames y1
  have h2 : Keeps execCalPortApply_mask s y1 := Keeps.step (State.advanceMod_keeps ..) (Keeps.refl _ _)
  clear_value y1
  extract_lets +onlyGivenNames y3
  have h4 : ∀ t5 t6, Keeps execCalPortApply_mask t5 (y3 t5 t6) := by
    intro t5 t6
    unfold y3
    refine Keeps.foldlMem (fun t7 a8 m9 => ?_) ?_
    · exact Keeps.wr (Keeps.refl _ _) (by revert a8; decide +kernel)
    exact Keeps.wrS (Keeps.refl _ _)
  clear_value y3
  refine KeepsRes.next (Keeps.step (State.calDone_keeps ..) (Keeps.foldl (fun t10 a11 => ?_) ?_))
  · exact Keeps.trans (Keeps.refl _ _) (h4 _ _)
  exact h2

def State.newOfs_mask : Nat := State.draw_mask

theorem State.newOfs_keeps (s : State) (ofs : Int) (gain n : Nat) (sum : Int) : KeepsSnd2 State.newOfs_mask s (State.newOfs s
    ofs gain n sum) := by
  unfold State.newOfs
  refine KeepsSnd2.ite ?_ ?_
  · split
    rename_i z0 z1 z2 z3
    exact KeepsSnd2.mk (Keeps.ofSnd z3 (KeepsSnd.step (State.draw_keeps ..) (Keeps.refl _ _)))
  extract_lets +onlyGivenNames y4
  clear_value y4
  exact KeepsSnd2.mk (Keeps.refl _ _)

def State.newGain_mask : Nat := State.draw_mask

theorem State.newGain_keeps (s : State) (gain n sumSq : Nat) : KeepsSnd2 State.newGain_mask s (State.newGain s gain n sumSq) :=
    by
  unfold State.newGain
  extract_lets +onlyGivenNames y0
  clear_value y0
  extract_lets +onlyGivenNames y1
  clear_value y1
  extract_lets +onlyGivenNames y2
  clear_value y2
  refine KeepsSnd2.ite ?_ ?_
  · split
    rename_i z3 z4 z5 z6
    exact KeepsSnd2.mk (Keeps.ofSnd z6 (KeepsSnd.step (State.draw_keeps ..) (Keeps.refl _ _)))
  extract_lets +onlyGivenNames y7
  clear_value y7
  extract_lets +onlyGivenNames y8
  clear_value y8
  exact KeepsSnd2.mk (Keeps.refl _ _)

def execCalSliceRunDone_mask : Nat := State.putCal_mask ||| State.newGain_mask ||| State.newOfs_mask ||| State.raise_mask

theorem execCalSliceRunDone_keeps (n : Fin 128) (side : Fin 2) (s : State) : KeepsRes execCalSliceRunDone_mask s
    (execCalSliceRunDone n side s) := by
  unfold execCalSliceRunDone
  extract_lets +onlyGivenNames y0
  clear_value y0
  extract_lets +onlyGivenNames y1
  clear_value y1
  split
  · rename_i z2 z3
    exact KeepsRes.next (Keeps.refl _ _)
  rename_i z4 z5 z6
  refine KeepsRes.ite ?_ ?_
  · exact KeepsRes.next (Keeps.refl _ _)
  extract_lets +onlyGivenNames y7
  clear_value y7
  extract_lets +onlyGivenNames y8
  clear_value y8
  extract_lets +onlyGivenNames y9
  clear_value y9
  split
  rename_i z10 z11 z12 z13 z14
  split
  rename_i z15 z16 z17 z18 z19
  split
  rename_i z20 z21 z22 z23 z24
  split
  rename_i z25 z26 z27 z28 z29
  extract_lets +onlyGivenNames y30
  have h31 : Keeps execCalSliceRunDone_mask s y30 := Keeps.step (State.putCal_keeps ..) (Keeps.ofSnd2 z29 (KeepsSnd2.step
      (State.newGain_keeps ..) (Keeps.ofSnd2 z24 (KeepsSnd2.step (State.newGain_keeps ..) (Keeps.ofSnd2 z19 (KeepsSnd2.step
      (State.newOfs_keeps ..) (Keeps.ofSnd2 z14 (KeepsSnd2.step (State.newOfs_keeps ..) (Keeps.refl _ _)))))))))
  clear_value y30
  refine KeepsRes.next (Keeps.ite ?_ ?_)
  · exact Keeps.step (State.raise_keeps ..) h31
  exact h31

def State.showTempRun_mask : Nat := fieldBits [Reg.CAL_HEAD_TEMP_RUN]

theorem State.showTempRun_keeps (s : State) (h : Nat) : Keeps State.showTempRun_mask s (State.showTempRun s h) := by
  unfold State.showTempRun
  exact Keeps.wr (Keeps.refl _ _)

def execCalSliceApply_mask : Nat := State.calDone_mask ||| State.showTempRun_mask ||| fieldBits ofsFields ||| fieldBits
    [Reg.CAL_HEAD_VALID]

theorem execCalSliceApply_keeps (n : Fin 128) (side : Fin 2) (s : State) : KeepsRes execCalSliceApply_mask s (execCalSliceApply
    n side s) := by
  unfold execCalSliceApply
  extract_lets +onlyGivenNames y0
  clear_value y0
  extract_lets +onlyGivenNames y1
  clear_value y1
  split
  · rename_i z2 z3
    exact KeepsRes.next (Keeps.refl _ _)
  rename_i z4 z5 z6
  refine KeepsRes.ite ?_ ?_
  · exact KeepsRes.next (Keeps.refl _ _)
  extract_lets +onlyGivenNames y7
  have h8 : Keeps execCalSliceApply_mask s y7 := by
    unfold y7
    refine Keeps.foldlMem (fun t9 a10 m11 => ?_) ?_
    · exact Keeps.wr (Keeps.refl _ _) (by revert a10; decide +kernel)
    exact Keeps.refl _ _
  clear_value y7
  exact KeepsRes.next (Keeps.step (State.calDone_keeps ..) (Keeps.step (State.showTempRun_keeps ..) (Keeps.set1 h8)))

def execCalTrimRun_mask : Nat := State.putCal_mask ||| State.raise_mask

theorem execCalTrimRun_keeps (n : Fin 128) (side : Fin 2) (s : State) : KeepsRes execCalTrimRun_mask s (execCalTrimRun n side
    s) := by
  unfold execCalTrimRun
  extract_lets +onlyGivenNames y0
  clear_value y0
  extract_lets +onlyGivenNames y1
  clear_value y1
  split
  · rename_i z2 z3
    exact KeepsRes.next (Keeps.refl _ _)
  rename_i z4 z5 z6
  refine KeepsRes.ite ?_ ?_
  · exact KeepsRes.next (Keeps.refl _ _)
  extract_lets +onlyGivenNames y7
  clear_value y7
  extract_lets +onlyGivenNames y8
  clear_value y8
  extract_lets +onlyGivenNames y9
  clear_value y9
  extract_lets +onlyGivenNames y10
  clear_value y10
  extract_lets +onlyGivenNames y11
  have h12 : Keeps execCalTrimRun_mask s y11 := Keeps.step (State.putCal_keeps ..) (Keeps.refl _ _)
  clear_value y11
  refine KeepsRes.next (Keeps.ite ?_ ?_)
  · exact Keeps.step (State.raise_keeps ..) h12
  exact h12

def execCalTrimApply_mask : Nat := State.setPrm_mask ||| State.calDone_mask ||| State.showTempRun_mask ||| fieldBits
    [Reg.CAL_HEAD_TRIM_VALID]

theorem execCalTrimApply_keeps (n : Fin 128) (side : Fin 2) (s : State) : KeepsRes execCalTrimApply_mask s (execCalTrimApply n
    side s) := by
  unfold execCalTrimApply
  extract_lets +onlyGivenNames y0
  clear_value y0
  extract_lets +onlyGivenNames y1
  clear_value y1
  refine KeepsRes.ite ?_ ?_
  · exact KeepsRes.next (Keeps.refl _ _)
  extract_lets +onlyGivenNames y2
  have h3 : Keeps execCalTrimApply_mask s y2 := Keeps.step (State.setPrm_keeps ..) (Keeps.refl _ _)
  clear_value y2
  exact KeepsRes.next (Keeps.step (State.calDone_keeps ..) (Keeps.step (State.showTempRun_keeps ..) (Keeps.set1 h3)))

def State.writeSetting_mask : Nat := State.programNow_mask ||| State.programList_mask

theorem State.writeSetting_keeps (s : State) (i : Nat) (x : Setting) : Keeps State.writeSetting_mask s (State.writeSetting s i
    x) := by
  unfold State.writeSetting
  extract_lets +onlyGivenNames y0
  clear_value y0
  exact Keeps.step (State.programNow_keeps ..) (Keeps.step (State.programList_keeps ..) (Keeps.refl _ _))

def State.appendCalib_mask : Nat := State.writeSetting_mask ||| State.ringPlace_mask

theorem State.appendCalib_keeps (s : State) (key : Nat) (bytes : List Nat) : KeepsOpt State.appendCalib_mask s
    (State.appendCalib s key bytes) := by
  unfold State.appendCalib
  refine KeepsOpt.map (fun a0 e1 => ?_)
  exact Keeps.step (State.writeSetting_keeps ..) (Keeps.ofOptSndP e1 (KeepsOptSnd.step (State.ringPlace_keeps _ _ _ _)
      (Keeps.refl _ _)))

def State.tidyCalib_mask : Nat := State.writeSetting_mask ||| State.ringPlace_mask ||| State.startErase_mask

theorem State.tidyCalib_keeps (s : State) : Keeps State.tidyCalib_mask s (State.tidyCalib s) := by
  unfold State.tidyCalib
  extract_lets +onlyGivenNames y0
  clear_value y0
  refine Keeps.ite ?_ ?_
  · exact Keeps.refl _ _
  extract_lets +onlyGivenNames y1
  have h2 : Keeps State.tidyCalib_mask s y1 := by
    unfold y1
    refine Keeps.foldl (fun t3 a4 => ?_) ?_
    · split
      · rename_i z5 z6 z7
        exact Keeps.step (State.writeSetting_keeps ..) (Keeps.ofOptSndP z7 (KeepsOptSnd.step (State.ringPlace_keeps _ _ _ _)
            (Keeps.refl _ _)))
      rename_i z8 z9
      exact Keeps.refl _ _
    exact Keeps.refl _ _
  clear_value y1
  exact Keeps.step (State.startErase_keeps ..) h2

def execCalStore_mask : Nat := State.tidyCalib_mask ||| State.putCal_mask ||| State.appendCalib_mask

theorem execCalStore_keeps (kind : Fin 3) (inst : Fin 256) (s : State) : KeepsRes execCalStore_mask s (execCalStore kind inst
    s) := by
  unfold execCalStore
  extract_lets +onlyGivenNames y0
  clear_value y0
  extract_lets +onlyGivenNames y1
  clear_value y1
  extract_lets +onlyGivenNames y2
  clear_value y2
  refine KeepsRes.ite ?_ ?_
  · exact KeepsRes.next (Keeps.refl _ _)
  split
  · rename_i z3 z4
    exact KeepsRes.next (Keeps.step (State.tidyCalib_keeps ..) (Keeps.refl _ _))
  rename_i z5 z6 z7
  exact KeepsRes.next (Keeps.step (State.tidyCalib_keeps ..) (Keeps.step (State.putCal_keeps ..) (Keeps.ofOpt z7 (KeepsOpt.step
      (State.appendCalib_keeps _ _ _) (Keeps.refl _ _)))))

end Sys2Proof.Machine
end

