-- ==== Sys2Proof/Laws/KeepsFirmware.lean ====
section
/-!
SUPPORT. What the operations of Machine/Firmware.lean leave as it was, one lemma for each.
-/

set_option Elab.async false

namespace Sys2Proof.Machine

def State.writeImage_mask : Nat := State.eraseNow_mask ||| State.programList_mask ||| partBits [.firm]

theorem State.writeImage_keeps (s : State) (off : Nat) (ws : List Nat) : Keeps State.writeImage_mask s (State.writeImage s off
    ws) := by
  unfold State.writeImage
  extract_lets +onlyGivenNames y0
  clear_value y0
  extract_lets +onlyGivenNames y1
  clear_value y1
  extract_lets +onlyGivenNames y2
  have h3 : Keeps State.writeImage_mask s y2 := by
    unfold y2
    refine Keeps.foldl (fun t4 a5 => ?_) ?_
    · exact Keeps.step (State.eraseNow_keeps ..) (Keeps.refl _ _)
    exact Keeps.refl _ _
  clear_value y2
  extract_lets +onlyGivenNames y6
  have h7 : Keeps State.writeImage_mask s y6 := Keeps.step (State.programList_keeps ..) h3
  clear_value y6
  exact Keeps.set_firm h7

def execFwDownload_mask : Nat := State.finish_mask ||| State.fail_mask ||| State.hostReads_mask ||| State.writeImage_mask |||
    partBits [.firm]

theorem execFwDownload_keeps (q : BitVec 20) (tag : BitVec 12) (words : Option (List Nat)) (s : State) : KeepsRes
    execFwDownload_mask s (execFwDownload q tag words s) := by
  unfold execFwDownload
  split
  · rename_i z0 z1
    exact KeepsRes.next (Keeps.refl _ _)
  rename_i z2 z3 z4
  extract_lets +onlyGivenNames y5
  clear_value y5
  extract_lets +onlyGivenNames y6
  clear_value y6
  extract_lets +onlyGivenNames y7
  refine KeepsRes.ite ?_ ?_
  · exact KeepsRes.next (Keeps.refl _ _)
  refine KeepsRes.ite ?_ ?_
  · refine KeepsRes.next ?_
    unfold y7
    exact Keeps.step (State.finish_keeps ..) (Keeps.refl _ _)
  extract_lets +onlyGivenNames y8
  clear_value y8
  extract_lets +onlyGivenNames y9
  clear_value y9
  split
  · rename_i z10
    refine KeepsRes.next ?_
    unfold y7
    exact Keeps.step (State.finish_keeps ..) (Keeps.refl _ _)
  rename_i z11 z12
  refine KeepsRes.ite ?_ ?_
  · refine KeepsRes.next ?_
    unfold y7
    exact Keeps.step (State.finish_keeps ..) (Keeps.refl _ _)
  refine KeepsRes.ite ?_ ?_
  · exact KeepsRes.next (Keeps.step (State.fail_keeps ..) (Keeps.refl _ _))
  refine KeepsRes.ite ?_ ?_
  · exact KeepsRes.next (Keeps.refl _ _)
  extract_lets +onlyGivenNames y13
  clear_value y13
  extract_lets +onlyGivenNames y14
  have h15 : Keeps execFwDownload_mask s y14 := by
    unfold y14
    refine Keeps.ite ?_ ?_
    · exact Keeps.set_firm (Keeps.refl _ _)
    exact Keeps.refl _ _
  clear_value y14
  extract_lets +onlyGivenNames y16
  have h17 : Keeps execFwDownload_mask s y16 := Keeps.step (State.hostReads_keeps ..) h15
  clear_value y16
  split
  · rename_i z18
    exact KeepsRes.next (Keeps.step (State.fail_keeps ..) h17)
  rename_i z19 z20
  refine KeepsRes.ite ?_ ?_
  · exact KeepsRes.next (Keeps.refl _ _)
  extract_lets +onlyGivenNames y21
  have h22 : Keeps execFwDownload_mask s y21 := Keeps.step (State.writeImage_keeps ..) h17
  clear_value y21
  extract_lets +onlyGivenNames y23
  clear_value y23
  extract_lets +onlyGivenNames y24
  have h25 : Keeps execFwDownload_mask s y24 := Keeps.set_firm h22
  clear_value y24
  exact KeepsRes.next (Keeps.step (State.fail_keeps ..) h25)

def State.endActivate_mask : Nat := State.fail_mask ||| State.dropSession_mask ||| partBits [.firm]

theorem State.endActivate_keeps (s : State) (q tag status : Nat) : Keeps State.endActivate_mask s (State.endActivate s q tag
    status) := by
  unfold State.endActivate
  refine Keeps.step (State.fail_keeps ..) ?_
  extract_lets +onlyGivenNames y0
  have h1 : Keeps State.endActivate_mask s y0 := Keeps.step (State.dropSession_keeps ..) (Keeps.refl _ _)
  clear_value y0
  exact Keeps.set_firm h1

def State.appendTrial_mask : Nat := State.appendSwap_mask ||| State.eraseNow_mask

theorem State.appendTrial_keeps (s : State) : Keeps State.appendTrial_mask s (State.appendTrial s) := by
  unfold State.appendTrial
  extract_lets +onlyGivenNames y0
  clear_value y0
  extract_lets +onlyGivenNames y1
  clear_value y1
  extract_lets +onlyGivenNames y2
  have h3 : Keeps State.appendTrial_mask s y2 := by
    unfold y2
    refine Keeps.ite ?_ ?_
    · exact Keeps.step (State.appendSwap_keeps ..) (Keeps.step (State.eraseNow_keeps ..) (Keeps.refl _ _))
    exact Keeps.refl _ _
  clear_value y2
  exact Keeps.step (State.appendSwap_keeps ..) h3

def State.enterKiln_mask : Nat := State.arrive_mask ||| partBits [.pw, .ms, .firm]

theorem State.enterKiln_keeps (s : State) (q tag : Nat) : Keeps State.enterKiln_mask s (State.enterKiln s q tag) := by
  unfold State.enterKiln
  extract_lets +onlyGivenNames y0
  clear_value y0
  extract_lets +onlyGivenNames y1
  have h2 : Keeps State.enterKiln_mask s y1 := Keeps.step (State.arrive_keeps ..) (Keeps.refl _ _)
  clear_value y1
  exact Keeps.set_pw_ms_firm h2

def execFwActivate_mask : Nat := State.fail_mask ||| State.dropSession_mask ||| State.endActivate_mask ||| State.raise_mask |||
    State.appendTrial_mask ||| State.enterKiln_mask ||| State.start_mask ||| partBits [.firm]

theorem execFwActivate_keeps (q : BitVec 20) (tag : BitVec 12) (keyOk sigOk : Bool) (s : State) : KeepsRes execFwActivate_mask
    s (execFwActivate q tag keyOk sigOk s) := by
  unfold execFwActivate
  split
  · rename_i z0 z1
    exact KeepsRes.next (Keeps.refl _ _)
  rename_i z2 z3 z4
  refine KeepsRes.ite ?_ ?_
  · exact KeepsRes.next (Keeps.step (State.fail_keeps ..) (Keeps.step (State.dropSession_keeps ..) (Keeps.refl _ _)))
  refine KeepsRes.ite ?_ ?_
  · exact KeepsRes.next (Keeps.refl _ _)
  split
  · rename_i z5 z6 z7
    exact KeepsRes.next (Keeps.step (State.endActivate_keeps ..) (Keeps.step (State.raise_keeps ..) (Keeps.refl _ _)))
  rename_i z8 z9
  extract_lets +onlyGivenNames y10
  clear_value y10
  extract_lets +onlyGivenNames y11
  have h12 : Keeps execFwActivate_mask s y11 := Keeps.step (State.appendTrial_keeps ..) (Keeps.refl _ _)
  clear_value y11
  refine KeepsRes.ite ?_ ?_
  · exact KeepsRes.next (Keeps.step (State.enterKiln_keeps ..) (Keeps.step (State.start_keeps ..) h12))
  extract_lets +onlyGivenNames y13
  have h14 : Keeps execFwActivate_mask s y13 := Keeps.step (State.endActivate_keeps ..) (Keeps.step (State.raise_keeps ..) h12)
  clear_value y13
  exact KeepsRes.next (Keeps.set_firm h14)

def execKilnEnd_mask : Nat := State.raise_mask ||| State.arrive_mask ||| State.endActivate_mask ||| State.settle_mask |||
    State.noteHealth_mask ||| State.runHeld_mask ||| State.thermDamp_mask ||| fieldBits [Reg.GCTL_FW_VER_BUILD,
    Reg.GCTL_FW_VER_MINOR, Reg.GCTL_FW_VER_MAJOR] ||| partBits [.cmds, .firm, .pw]

theorem execKilnEnd_keeps (s : State) : KeepsRes execKilnEnd_mask s (execKilnEnd s) := by
  unfold execKilnEnd
  split
  · rename_i z0 z1 z2 z3 z4 z5 z6
    refine KeepsRes.ite ?_ ?_
    · exact KeepsRes.next (Keeps.refl _ _)
    extract_lets +onlyGivenNames y7
    clear_value y7
    extract_lets +onlyGivenNames y8
    clear_value y8
    extract_lets +onlyGivenNames y9
    clear_value y9
    extract_lets +onlyGivenNames y10
    have h11 : Keeps execKilnEnd_mask s y10 := Keeps.wr (Keeps.wr (Keeps.wr (Keeps.refl _ _)))
    clear_value y10
    extract_lets +onlyGivenNames y12
    have h13 : Keeps execKilnEnd_mask s y12 := Keeps.set_cmds h11
    clear_value y12
    extract_lets +onlyGivenNames y14
    have h15 : Keeps execKilnEnd_mask s y14 := Keeps.step (State.raise_keeps ..) (Keeps.step (State.arrive_keeps ..) h13)
    clear_value y14
    extract_lets +onlyGivenNames y16
    clear_value y16
    extract_lets +onlyGivenNames y17
    have h18 : Keeps execKilnEnd_mask s y17 := Keeps.step (State.endActivate_keeps ..) (Keeps.set_firm h15)
    clear_value y17
    extract_lets +onlyGivenNames y19
    clear_value y19
    extract_lets +onlyGivenNames y20
    clear_value y20
    extract_lets +onlyGivenNames y21
    have h22 : Keeps execKilnEnd_mask s y21 := Keeps.set_pw h18
    clear_value y21
    refine KeepsRes.next (Keeps.step (State.settle_keeps ..) (Keeps.step (State.noteHealth_keeps ..) (Keeps.step
        (State.runHeld_keeps ..) (Keeps.ite ?_ ?_))))
    · exact Keeps.step (State.thermDamp_keeps ..) h22
    exact h22
  rename_i z23 z24 z25
  exact KeepsRes.next (Keeps.refl _ _)

def execKilnTimeout_mask : Nat := State.advanceTo_mask ||| State.requestReset_mask ||| State.raise_mask

theorem execKilnTimeout_keeps (s : State) : KeepsRes execKilnTimeout_mask s (execKilnTimeout s) := by
  unfold execKilnTimeout
  split
  · rename_i z0 z1
    exact KeepsRes.next (Keeps.refl _ _)
  rename_i z2 z3 z4
  refine KeepsRes.ite ?_ ?_
  · exact KeepsRes.next (Keeps.refl _ _)
  extract_lets +onlyGivenNames y5
  have h6 : Keeps execKilnTimeout_mask s y5 := Keeps.step (State.advanceTo_keeps ..) (Keeps.refl _ _)
  clear_value y5
  exact KeepsRes.next (Keeps.step (State.requestReset_keeps ..) (Keeps.step (State.raise_keeps ..) h6))

def execFwActivateReset_mask : Nat := State.advanceTo_mask ||| State.requestReset_mask ||| partBits [.firm]

theorem execFwActivateReset_keeps (s : State) : KeepsRes execFwActivateReset_mask s (execFwActivateReset s) := by
  unfold execFwActivateReset
  split
  · rename_i z0 z1
    exact KeepsRes.next (Keeps.refl _ _)
  rename_i z2 z3 z4
  extract_lets +onlyGivenNames y5
  have h6 : Keeps execFwActivateReset_mask s y5 := Keeps.step (State.advanceTo_keeps ..) (Keeps.refl _ _)
  clear_value y5
  exact KeepsRes.next (Keeps.step (State.requestReset_keeps ..) (Keeps.set_firm h6))

def execTrialConfirm_mask : Nat := State.noteHealth_mask ||| State.advanceTo_mask ||| State.programNow_mask |||
    State.raise_mask ||| fieldBits [Reg.GCTL_BOOT_TRIAL] ||| partBits [.firm]

theorem execTrialConfirm_keeps (s0 : State) : KeepsRes execTrialConfirm_mask s0 (execTrialConfirm s0) := by
  unfold execTrialConfirm
  extract_lets +onlyGivenNames y0
  have h1 : Keeps execTrialConfirm_mask s0 y0 := Keeps.step (State.noteHealth_keeps ..) (Keeps.refl _ _)
  clear_value y0
  split
  · rename_i z2 z3 z4 z5 z6 z7
    refine KeepsRes.ite ?_ ?_
    · exact KeepsRes.next h1
    extract_lets +onlyGivenNames y8
    have h9 : Keeps execTrialConfirm_mask s0 y8 := Keeps.step (State.advanceTo_keeps ..) h1
    clear_value y8
    extract_lets +onlyGivenNames y10
    clear_value y10
    extract_lets +onlyGivenNames y11
    have h12 : Keeps execTrialConfirm_mask s0 y11 := Keeps.clr (Keeps.step (State.programNow_keeps ..) h9)
    clear_value y11
    extract_lets +onlyGivenNames y13
    clear_value y13
    extract_lets +onlyGivenNames y14
    have h15 : Keeps execTrialConfirm_mask s0 y14 := Keeps.step (State.raise_keeps ..) h12
    clear_value y14
    exact KeepsRes.next (Keeps.set_firm h15)
  rename_i z16 z17 z18
  exact KeepsRes.next h1

def execTrialTimeout_mask : Nat := State.requestReset_mask ||| State.advanceTo_mask

theorem execTrialTimeout_keeps (s : State) : KeepsRes execTrialTimeout_mask s (execTrialTimeout s) := by
  unfold execTrialTimeout
  split
  · rename_i z0 z1
    exact KeepsRes.next (Keeps.refl _ _)
  rename_i z2 z3 z4
  refine KeepsRes.ite ?_ ?_
  · exact KeepsRes.next (Keeps.refl _ _)
  exact KeepsRes.next (Keeps.step (State.requestReset_keeps ..) (Keeps.step (State.advanceTo_keeps ..) (Keeps.refl _ _)))

end Sys2Proof.Machine
end

