-- ==== Sys2Proof/Laws/KeepsMount.lean ====
section
/-!
SUPPORT. What the operations of Machine/Mount.lean leave as it was, one lemma for each.
-/

set_option Elab.async false

namespace Sys2Proof.Machine

def State.takeZone_mask : Nat := State.putZone_mask ||| State.journalSlip_mask

theorem State.takeZone_keeps (s : State) (zk : Nat) (z : ZoneRead) (list : Option (List Nat)) (found : List SlotFound) (final :
    Bool) : Keeps State.takeZone_mask s (State.takeZone s zk z list found final) := by
  unfold State.takeZone
  extract_lets +onlyGivenNames y0
  clear_value y0
  refine Keeps.ite ?_ ?_
  · refine Keeps.ite ?_ ?_
    · exact Keeps.refl _ _
    exact Keeps.step (State.putZone_keeps ..) (Keeps.refl _ _)
  extract_lets +onlyGivenNames y1
  extract_lets +onlyGivenNames y2
  extract_lets +onlyGivenNames y3
  clear_value y3
  extract_lets +onlyGivenNames y4
  clear_value y4
  extract_lets +onlyGivenNames y5
  extract_lets +onlyGivenNames y6
  have h7 : Keeps State.takeZone_mask s y6 := Keeps.step (State.putZone_keeps ..) (Keeps.refl _ _)
  clear_value y6
  refine Keeps.ite ?_ ?_
  · refine Keeps.foldl (fun t8 a9 => ?_) ?_
    · exact Keeps.step (State.journalSlip_keeps ..) (Keeps.refl _ _)
    exact h7
  exact h7

def State.takeSide_mask : Nat := State.putDisc_mask ||| State.takeZone_mask

theorem State.takeSide_keeps (s : State) (d side id : Nat) (m : MgmtArea) (rebuilt : List (Nat × List SlotRead)) : Keeps
    State.takeSide_mask s (State.takeSide s d side id m rebuilt) := by
  unfold State.takeSide
  extract_lets +onlyGivenNames y0
  clear_value y0
  extract_lets +onlyGivenNames y1
  clear_value y1
  extract_lets +onlyGivenNames y2
  clear_value y2
  split
  · rename_i z3 z4
    exact Keeps.step (State.putDisc_keeps ..) (Keeps.refl _ _)
  rename_i z5 z6 z7
  extract_lets +onlyGivenNames y8
  clear_value y8
  extract_lets +onlyGivenNames y9
  clear_value y9
  extract_lets +onlyGivenNames y10
  clear_value y10
  extract_lets +onlyGivenNames y11
  have h12 : Keeps State.takeSide_mask s y11 := Keeps.step (State.putDisc_keeps ..) (Keeps.refl _ _)
  clear_value y11
  refine Keeps.ite ?_ ?_
  · exact h12
  refine Keeps.foldl (fun t13 a14 => ?_) ?_
  · extract_lets +onlyGivenNames y15
    clear_value y15
    extract_lets +onlyGivenNames y16
    clear_value y16
    exact Keeps.step (State.takeZone_keeps ..) (Keeps.refl _ _)
  exact h12

def State.rebind_mask : Nat := State.putDisc_mask ||| State.raise_mask ||| State.journal_mask ||| partBits [.zones]

theorem State.rebind_keeps (s : State) (d id : Nat) : Keeps State.rebind_mask s (State.rebind s d id) := by
  unfold State.rebind
  extract_lets +onlyGivenNames y0
  clear_value y0
  extract_lets +onlyGivenNames y1
  have h2 : Keeps State.rebind_mask s y1 := Keeps.set_zones (Keeps.refl _ _)
  clear_value y1
  extract_lets +onlyGivenNames y3
  have h4 : Keeps State.rebind_mask s y3 := Keeps.step (State.putDisc_keeps ..) h2
  clear_value y3
  exact Keeps.step (State.raise_keeps ..) (Keeps.step (State.journal_keeps ..) h4)

def State.mountHead_mask : Nat := State.putHead_mask ||| State.loadHead_mask ||| State.armCal_mask ||| fieldBits
    [Reg.STN_HD_WPWR_VALID, Reg.CAL_HEAD_TRIM_VALID, Reg.CAL_HEAD_VALID]

theorem State.mountHead_keeps (s : State) (h : Nat) : Keeps State.mountHead_mask s (State.mountHead s h) := by
  unfold State.mountHead
  extract_lets +onlyGivenNames y0
  have h1 : Keeps State.mountHead_mask s y0 := by
    unfold y0
    refine Keeps.foldl (fun t2 a3 => ?_) ?_
    · exact Keeps.clr (Keeps.refl _ _)
    exact Keeps.refl _ _
  clear_value y0
  extract_lets +onlyGivenNames y4
  clear_value y4
  extract_lets +onlyGivenNames y5
  have h6 : Keeps State.mountHead_mask s y5 := Keeps.step (State.putHead_keeps ..) (Keeps.step (State.loadHead_keeps ..) h1)
  clear_value y5
  extract_lets +onlyGivenNames y7
  have h8 : Keeps State.mountHead_mask s y7 := Keeps.clr (Keeps.clr h6)
  clear_value y7
  refine Keeps.ite ?_ ?_
  · exact Keeps.step (State.armCal_keeps ..) (Keeps.step (State.armCal_keeps ..) h8)
  exact h8

def State.endMount_mask : Nat := State.finish_mask ||| State.ringSend_mask

theorem State.endMount_keeps (s : State) (d n : Nat) : Keeps State.endMount_mask s (State.endMount s d n) := by
  unfold State.endMount
  extract_lets +onlyGivenNames y0
  clear_value y0
  split
  · rename_i z1 z2 z3
    exact Keeps.step (State.finish_keeps ..) (Keeps.refl _ _)
  rename_i z4 z5
  refine Keeps.ite ?_ ?_
  · exact Keeps.step (State.ringSend_keeps ..) (Keeps.refl _ _)
  exact Keeps.refl _ _

def execMountComplete_mask : Nat := State.mountHead_mask ||| State.rebind_mask ||| State.putDisc_mask ||| State.takeSide_mask
    ||| State.settle_mask ||| State.endMount_mask ||| partBits [.zones]

theorem execMountComplete_keeps (n : Fin 128) (a b : MgmtSide) (rebuiltA rebuiltB : List (Nat × List SlotRead)) (s : State) :
    KeepsRes execMountComplete_mask s (execMountComplete n a b rebuiltA rebuiltB s) := by
  unfold execMountComplete
  extract_lets +onlyGivenNames y0
  clear_value y0
  refine KeepsRes.ite ?_ ?_
  · exact KeepsRes.next (Keeps.refl _ _)
  split
  · rename_i z1 z2
    exact KeepsRes.next (Keeps.refl _ _)
  rename_i z3 z4 z5
  extract_lets +onlyGivenNames y6
  clear_value y6
  extract_lets +onlyGivenNames y7
  clear_value y7
  extract_lets +onlyGivenNames y8
  clear_value y8
  extract_lets +onlyGivenNames y9
  clear_value y9
  extract_lets +onlyGivenNames y10
  clear_value y10
  extract_lets +onlyGivenNames y11
  have h12 : Keeps execMountComplete_mask s y11 := by
    unfold y11
    refine Keeps.foldl (fun t13 a14 => ?_) ?_
    · exact Keeps.step (State.mountHead_keeps ..) (Keeps.refl _ _)
    exact Keeps.refl _ _
  clear_value y11
  extract_lets +onlyGivenNames y15
  clear_value y15
  extract_lets +onlyGivenNames y16
  clear_value y16
  extract_lets +onlyGivenNames y17
  clear_value y17
  extract_lets +onlyGivenNames y18
  have h19 : Keeps execMountComplete_mask s y18 := by
    unfold y18
    refine Keeps.ite ?_ ?_
    · exact h12
    refine Keeps.ite ?_ ?_
    · exact Keeps.step (State.rebind_keeps ..) h12
    exact Keeps.step (State.putDisc_keeps ..) h12
  clear_value y18
  extract_lets +onlyGivenNames y20
  have h21 : Keeps execMountComplete_mask s y20 := by
    unfold y20
    refine Keeps.ite ?_ ?_
    · exact Keeps.step (State.takeSide_keeps ..) h19
    exact h19
  clear_value y20
  extract_lets +onlyGivenNames y22
  have h23 : Keeps execMountComplete_mask s y22 := by
    unfold y22
    refine Keeps.ite ?_ ?_
    · exact Keeps.step (State.takeSide_keeps ..) h21
    exact h21
  clear_value y22
  extract_lets +onlyGivenNames y24
  clear_value y24
  extract_lets +onlyGivenNames y25
  have h26 : Keeps execMountComplete_mask s y25 := by
    unfold y25
    refine Keeps.ite ?_ ?_
    · exact h23
    exact Keeps.set_zones h23
  clear_value y25
  extract_lets +onlyGivenNames y27
  clear_value y27
  extract_lets +onlyGivenNames y28
  have h29 : Keeps execMountComplete_mask s y28 := Keeps.step (State.putDisc_keeps ..) h26
  clear_value y28
  exact KeepsRes.next (Keeps.step (State.settle_keeps ..) (Keeps.step (State.endMount_keeps ..) h29))

def execMount_mask : Nat := State.settle_mask ||| State.fail_mask ||| State.finish_mask ||| State.mountStart_mask |||
    State.start_mask ||| State.askTransfer_mask

theorem execMount_keeps (q : BitVec 20) (tag : BitVec 12) (s : State) : KeepsRes execMount_mask s (execMount q tag s) := by
  unfold execMount
  split
  · rename_i z0 z1
    exact KeepsRes.next (Keeps.refl _ _)
  rename_i z2 z3 z4
  extract_lets +onlyGivenNames y5
  clear_value y5
  extract_lets +onlyGivenNames y6
  clear_value y6
  split
  · rename_i z7 z8 z9
    exact KeepsRes.next (Keeps.step (State.settle_keeps ..) (Keeps.step (State.fail_keeps ..) (Keeps.refl _ _)))
  rename_i z10 z11
  split
  · rename_i z12 z13 z14 z15
    exact KeepsRes.next (Keeps.step (State.settle_keeps ..) (Keeps.step (State.finish_keeps ..) (Keeps.refl _ _)))
  · rename_i z16 z17 z18
    refine KeepsRes.ite ?_ ?_
    · exact KeepsRes.next (Keeps.step (State.settle_keeps ..) (Keeps.step (State.finish_keeps ..) (Keeps.refl _ _)))
    exact KeepsRes.next (Keeps.step (State.settle_keeps ..) (Keeps.step (State.mountStart_keeps ..) (Keeps.step
        (State.start_keeps ..) (Keeps.refl _ _))))
  rename_i z19 z20 z21
  split
  · rename_i z22 z23 z24 z25
    exact KeepsRes.next (Keeps.step (State.settle_keeps ..) (Keeps.step (State.finish_keeps ..) (Keeps.refl _ _)))
  rename_i z26 z27 z28 z29
  exact KeepsRes.next (Keeps.step (State.settle_keeps ..) (Keeps.step (State.askTransfer_keeps ..) (Keeps.step
      (State.start_keeps ..) (Keeps.refl _ _))))

def execUnmount_mask : Nat := State.settle_mask ||| State.fail_mask ||| State.updCmd_mask ||| State.resumeZones_mask |||
    State.start_mask ||| State.wake_mask ||| State.wantSlice_mask ||| State.ringSend_mask

theorem execUnmount_keeps (q : BitVec 20) (tag : BitVec 12) (s : State) : KeepsRes execUnmount_mask s (execUnmount q tag s) :=
    by
  unfold execUnmount
  split
  · rename_i z0 z1
    exact KeepsRes.next (Keeps.refl _ _)
  rename_i z2 z3 z4
  extract_lets +onlyGivenNames y5
  clear_value y5
  split
  · rename_i z6 z7 z8 z9
    exact KeepsRes.next (Keeps.step (State.settle_keeps ..) (Keeps.step (State.fail_keeps ..) (Keeps.refl _ _)))
  · rename_i z10 z11 z12 z13 z14
    extract_lets +onlyGivenNames y15
    have h16 : Keeps execUnmount_mask s y15 := Keeps.step (State.updCmd_keeps ..) (Keeps.step (State.resumeZones_keeps ..)
        (Keeps.step (State.start_keeps ..) (Keeps.refl _ _)))
    clear_value y15
    extract_lets +onlyGivenNames y17
    clear_value y17
    extract_lets +onlyGivenNames y18
    have h19 : Keeps execUnmount_mask s y18 := by
      unfold y18
      refine Keeps.foldl (fun t20 a21 => ?_) ?_
      · exact Keeps.step (State.wake_keeps ..) (Keeps.step (State.wantSlice_keeps ..) (Keeps.refl _ _))
      exact h16
    clear_value y18
    refine KeepsRes.next (Keeps.step (State.settle_keeps ..) (Keeps.ite ?_ ?_))
    · exact Keeps.step (State.wake_keeps ..) h19
    exact h19
  · rename_i z22 z23 z24 z25 z26 z27
    refine KeepsRes.ite ?_ ?_
    · exact KeepsRes.next (Keeps.step (State.settle_keeps ..) (Keeps.step (State.fail_keeps ..) (Keeps.refl _ _)))
    extract_lets +onlyGivenNames y28
    have h29 : Keeps execUnmount_mask s y28 := Keeps.step (State.updCmd_keeps ..) (Keeps.step (State.start_keeps ..)
        (Keeps.refl _ _))
    clear_value y28
    exact KeepsRes.next (Keeps.step (State.ringSend_keeps ..) h29)
  rename_i z30 z31 z32 z33 z34
  exact KeepsRes.next (Keeps.step (State.settle_keeps ..) (Keeps.step (State.fail_keeps ..) (Keeps.refl _ _)))

def execMove_mask : Nat := State.settle_mask ||| State.fail_mask ||| State.finish_mask ||| State.askTransfer_mask |||
    State.start_mask

theorem execMove_keeps (q : BitVec 20) (tag : BitVec 12) (s : State) : KeepsRes execMove_mask s (execMove q tag s) := by
  unfold execMove
  split
  · rename_i z0 z1
    exact KeepsRes.next (Keeps.refl _ _)
  rename_i z2 z3 z4
  extract_lets +onlyGivenNames y5
  clear_value y5
  extract_lets +onlyGivenNames y6
  clear_value y6
  split
  · rename_i z7 z8 z9
    exact KeepsRes.next (Keeps.step (State.settle_keeps ..) (Keeps.step (State.fail_keeps ..) (Keeps.refl _ _)))
  rename_i z10 z11
  refine KeepsRes.ite ?_ ?_
  · exact KeepsRes.next (Keeps.step (State.settle_keeps ..) (Keeps.step (State.finish_keeps ..) (Keeps.refl _ _)))
  refine KeepsRes.ite ?_ ?_
  · exact KeepsRes.next (Keeps.step (State.settle_keeps ..) (Keeps.step (State.finish_keeps ..) (Keeps.refl _ _)))
  exact KeepsRes.next (Keeps.step (State.settle_keeps ..) (Keeps.step (State.askTransfer_keeps ..) (Keeps.step
      (State.start_keeps ..) (Keeps.refl _ _))))

def execInventory_mask : Nat := State.firstAction_mask ||| State.start_mask ||| partBits [.lib]

theorem execInventory_keeps (q : BitVec 20) (tag : BitVec 12) (s : State) : KeepsRes execInventory_mask s (execInventory q tag
    s) := by
  unfold execInventory
  split
  · rename_i z0 z1
    exact KeepsRes.next (Keeps.refl _ _)
  rename_i z2 z3 z4
  refine KeepsRes.ite ?_ ?_
  · exact KeepsRes.next (Keeps.refl _ _)
  extract_lets +onlyGivenNames y5
  clear_value y5
  extract_lets +onlyGivenNames y6
  clear_value y6
  extract_lets +onlyGivenNames y7
  have h8 : Keeps execInventory_mask s y7 := Keeps.step (State.firstAction_keeps ..) (Keeps.step (State.start_keeps ..)
      (Keeps.refl _ _))
  clear_value y7
  exact KeepsRes.next (Keeps.set_lib h8)

end Sys2Proof.Machine
end

