-- ==== Sys2Proof/Laws/KeepsAdmin.lean ====
section
/-!
SUPPORT. What the operations of Machine/Admin.lean leave as it was, one lemma for each.
-/

set_option Elab.async false

namespace Sys2Proof.Machine

def State.toHostMem_mask : Nat := State.hostWrites_mask ||| State.ringSend_mask

theorem State.toHostMem_keeps (s : State) (c : Cmd) (addr : Nat) (bytes : List Nat) : Keeps State.toHostMem_mask s
    (State.toHostMem s c addr bytes) := by
  unfold State.toHostMem
  refine Keeps.ite ?_ ?_
  · exact Keeps.refl _ _
  split
  · rename_i z0 z1
    exact Keeps.step (State.hostWrites_keeps ..) (Keeps.refl _ _)
  rename_i z2 z3 z4
  exact Keeps.step (State.ringSend_keeps ..) (Keeps.refl _ _)

def State.answer_mask : Nat := State.settle_mask ||| State.finish_mask ||| State.toHostMem_mask

theorem State.answer_keeps (s : State) (c : Cmd) (bytes : List Nat) (a b : Nat) : Keeps State.answer_mask s (State.answer s c
    bytes a b) := by
  unfold State.answer
  exact Keeps.step (State.settle_keeps ..) (Keeps.step (State.finish_keeps ..) (Keeps.step (State.toHostMem_keeps ..)
      (Keeps.refl _ _)))

def execIdentify_mask : Nat := State.answer_mask

theorem execIdentify_keeps (q : BitVec 20) (tag : BitVec 12) (s : State) : KeepsRes execIdentify_mask s (execIdentify q tag s)
    := by
  unfold execIdentify
  split
  · rename_i z0 z1
    exact KeepsRes.next (Keeps.refl _ _)
  rename_i z2 z3 z4
  extract_lets +onlyGivenNames y5
  clear_value y5
  exact KeepsRes.next (Keeps.step (State.answer_keeps ..) (Keeps.refl _ _))

def execGetLog_mask : Nat := State.answer_mask ||| partBits [.damage]

theorem execGetLog_keeps (q : BitVec 20) (tag : BitVec 12) (s : State) : KeepsRes execGetLog_mask s (execGetLog q tag s) := by
  unfold execGetLog
  split
  · rename_i z0 z1
    exact KeepsRes.next (Keeps.refl _ _)
  rename_i z2 z3 z4
  extract_lets +onlyGivenNames y5
  clear_value y5
  extract_lets +onlyGivenNames y6
  clear_value y6
  extract_lets +onlyGivenNames y7
  clear_value y7
  extract_lets +onlyGivenNames y8
  clear_value y8
  extract_lets +onlyGivenNames y9
  clear_value y9
  extract_lets +onlyGivenNames y10
  clear_value y10
  extract_lets +onlyGivenNames y11
  have h12 : Keeps execGetLog_mask s y11 := by
    unfold y11
    refine Keeps.ite ?_ ?_
    · exact Keeps.set_damage (Keeps.refl _ _)
    exact Keeps.refl _ _
  clear_value y11
  exact KeepsRes.next (Keeps.step (State.answer_keeps ..) h12)

def execSetFeature_mask : Nat := State.journal_mask ||| State.putDisc_mask ||| State.settle_mask ||| State.fail_mask |||
    partBits [.profs]

theorem execSetFeature_keeps (q : BitVec 20) (tag : BitVec 12) (s : State) : KeepsRes execSetFeature_mask s (execSetFeature q
    tag s) := by
  unfold execSetFeature
  split
  · rename_i z0 z1
    exact KeepsRes.next (Keeps.refl _ _)
  rename_i z2 z3 z4
  extract_lets +onlyGivenNames y5
  clear_value y5
  extract_lets +onlyGivenNames y6
  clear_value y6
  extract_lets +onlyGivenNames y7
  clear_value y7
  extract_lets +onlyGivenNames y8
  clear_value y8
  extract_lets +onlyGivenNames y9
  have h10 : Keeps execSetFeature_mask s y9 := by
    unfold y9
    refine Keeps.ite ?_ ?_
    · exact Keeps.set_profs (Keeps.refl _ _)
    exact Keeps.step (State.journal_keeps ..) (Keeps.step (State.putDisc_keeps ..) (Keeps.refl _ _))
  clear_value y9
  exact KeepsRes.next (Keeps.step (State.settle_keeps ..) (Keeps.step (State.fail_keeps ..) h10))

def execGetFeature_mask : Nat := State.settle_mask ||| State.finish_mask

theorem execGetFeature_keeps (q : BitVec 20) (tag : BitVec 12) (s : State) : KeepsRes execGetFeature_mask s (execGetFeature q
    tag s) := by
  unfold execGetFeature
  split
  · rename_i z0 z1
    exact KeepsRes.next (Keeps.refl _ _)
  rename_i z2 z3 z4
  extract_lets +onlyGivenNames y5
  clear_value y5
  exact KeepsRes.next (Keeps.step (State.settle_keeps ..) (Keeps.step (State.finish_keeps ..) (Keeps.refl _ _)))

def execTimeSet_mask : Nat := State.start_mask ||| State.nextTimeSet_mask ||| partBits [.tb]

theorem execTimeSet_keeps (q : BitVec 20) (tag : BitVec 12) (s : State) : KeepsRes execTimeSet_mask s (execTimeSet q tag s) :=
    by
  unfold execTimeSet
  split
  · rename_i z0 z1
    exact KeepsRes.next (Keeps.refl _ _)
  rename_i z2 z3 z4
  extract_lets +onlyGivenNames y5
  have h6 : Keeps execTimeSet_mask s y5 := Keeps.step (State.start_keeps ..) (Keeps.refl _ _)
  clear_value y5
  extract_lets +onlyGivenNames y7
  unfold y7
  extract_lets +onlyGivenNames y8
  have h9 : Keeps execTimeSet_mask s y8 := Keeps.set_tb h6
  clear_value y8
  refine KeepsRes.next (Keeps.ite ?_ ?_)
  · exact h9
  exact Keeps.step (State.nextTimeSet_keeps ..) h9

def execTimeGet_mask : Nat := State.answer_mask

theorem execTimeGet_keeps (q : BitVec 20) (tag : BitVec 12) (s : State) : KeepsRes execTimeGet_mask s (execTimeGet q tag s) :=
    by
  unfold execTimeGet
  split
  · rename_i z0 z1
    exact KeepsRes.next (Keeps.refl _ _)
  rename_i z2 z3 z4
  extract_lets +onlyGivenNames y5
  clear_value y5
  exact KeepsRes.next (Keeps.step (State.answer_keeps ..) (Keeps.refl _ _))

def execTallyRead_mask : Nat := State.answer_mask

theorem execTallyRead_keeps (q : BitVec 20) (tag : BitVec 12) (s : State) : KeepsRes execTallyRead_mask s (execTallyRead q tag
    s) := by
  unfold execTallyRead
  split
  · rename_i z0 z1
    exact KeepsRes.next (Keeps.refl _ _)
  rename_i z2 z3 z4
  extract_lets +onlyGivenNames y5
  clear_value y5
  extract_lets +onlyGivenNames y6
  clear_value y6
  extract_lets +onlyGivenNames y7
  clear_value y7
  exact KeepsRes.next (Keeps.step (State.answer_keeps ..) (Keeps.refl _ _))

def execTallyAck_mask : Nat := State.settle_mask ||| State.finish_mask ||| State.fail_mask ||| State.start_mask ||| partBits
    [.tally]

theorem execTallyAck_keeps (q : BitVec 20) (tag : BitVec 12) (s : State) : KeepsRes execTallyAck_mask s (execTallyAck q tag s)
    := by
  unfold execTallyAck
  split
  · rename_i z0 z1
    exact KeepsRes.next (Keeps.refl _ _)
  rename_i z2 z3 z4
  extract_lets +onlyGivenNames y5
  clear_value y5
  refine KeepsRes.ite ?_ ?_
  · exact KeepsRes.next (Keeps.step (State.settle_keeps ..) (Keeps.step (State.finish_keeps ..) (Keeps.refl _ _)))
  refine KeepsRes.ite ?_ ?_
  · exact KeepsRes.next (Keeps.step (State.settle_keeps ..) (Keeps.step (State.fail_keeps ..) (Keeps.refl _ _)))
  extract_lets +onlyGivenNames y6
  have h7 : Keeps execTallyAck_mask s y6 := Keeps.step (State.start_keeps ..) (Keeps.refl _ _)
  clear_value y6
  exact KeepsRes.next (Keeps.set_tally h7)

def execModeSet_mask : Nat := State.settle_mask ||| State.finish_mask ||| State.beginTrans_mask ||| State.start_mask |||
    fieldBits [Reg.PWR_STATUS_REQ_MODE, Reg.PWR_CAP_CAP]

theorem execModeSet_keeps (q : BitVec 20) (tag : BitVec 12) (s : State) : KeepsRes execModeSet_mask s (execModeSet q tag s) :=
    by
  unfold execModeSet
  split
  · rename_i z0 z1
    exact KeepsRes.next (Keeps.refl _ _)
  rename_i z2 z3 z4
  extract_lets +onlyGivenNames y5
  clear_value y5
  extract_lets +onlyGivenNames y6
  have h7 : ∀ t8, Keeps execModeSet_mask t8 (y6 t8) := by
    intro t8
    unfold y6
    refine Keeps.wr (Keeps.ite ?_ ?_)
    · exact Keeps.wr (Keeps.refl _ _)
    exact Keeps.refl _ _
  clear_value y6
  refine KeepsRes.ite ?_ ?_
  · exact KeepsRes.next (Keeps.step (State.settle_keeps ..) (Keeps.step (State.finish_keeps ..) (Keeps.refl _ _)))
  refine KeepsRes.ite ?_ ?_
  · exact KeepsRes.next (Keeps.step (State.settle_keeps ..) (Keeps.step (State.finish_keeps ..) (Keeps.trans (Keeps.refl _ _)
      (h7 _))))
  refine KeepsRes.ite ?_ ?_
  · exact KeepsRes.next (Keeps.step (State.settle_keeps ..) (Keeps.step (State.finish_keeps ..) (Keeps.refl _ _)))
  refine KeepsRes.ite ?_ ?_
  · exact KeepsRes.next (Keeps.step (State.settle_keeps ..) (Keeps.step (State.finish_keeps ..) (Keeps.trans (Keeps.refl _ _)
      (h7 _))))
  exact KeepsRes.next (Keeps.step (State.beginTrans_keeps ..) (Keeps.step (State.start_keeps ..) (Keeps.trans (Keeps.refl _ _)
      (h7 _))))

def execStationDiag_mask : Nat := State.start_mask ||| State.answer_mask ||| State.settle_mask ||| State.fail_mask |||
    State.regGo_mask ||| State.finish_mask ||| State.disableLink_mask ||| State.enableLink_mask ||| fieldBits
    [Reg.STN_REG_ADDR_ADDR, Reg.STN_REG_DATA_DATA]

theorem execStationDiag_keeps (q : BitVec 20) (tag : BitVec 12) (s : State) : KeepsRes execStationDiag_mask s (execStationDiag
    q tag s) := by
  unfold execStationDiag
  split
  · rename_i z0 z1
    exact KeepsRes.next (Keeps.refl _ _)
  rename_i z2 z3 z4
  extract_lets +onlyGivenNames y5
  clear_value y5
  extract_lets +onlyGivenNames y6
  have h7 : Keeps execStationDiag_mask s y6 := Keeps.wr (Keeps.step (State.start_keeps ..) (Keeps.refl _ _))
  clear_value y6
  extract_lets +onlyGivenNames y8
  split
  · rename_i z9 z10
    exact KeepsRes.next (Keeps.step (State.answer_keeps ..) (Keeps.refl _ _))
  · rename_i z11 z12
    refine KeepsRes.next ?_
    unfold y8
    refine Keeps.ite ?_ ?_
    · exact Keeps.step (State.settle_keeps ..) (Keeps.step (State.fail_keeps ..) (Keeps.refl _ _))
    refine Keeps.ite ?_ ?_
    · exact Keeps.refl _ _
    refine Keeps.step (State.regGo_keeps ..) (Keeps.ite ?_ ?_)
    · exact Keeps.wr h7
    exact h7
  · rename_i z13 z14
    refine KeepsRes.next ?_
    unfold y8
    refine Keeps.ite ?_ ?_
    · exact Keeps.step (State.settle_keeps ..) (Keeps.step (State.fail_keeps ..) (Keeps.refl _ _))
    refine Keeps.ite ?_ ?_
    · exact Keeps.refl _ _
    refine Keeps.step (State.regGo_keeps ..) (Keeps.ite ?_ ?_)
    · exact Keeps.wr h7
    exact h7
  · rename_i z15 z16
    refine KeepsRes.ite ?_ ?_
    · exact KeepsRes.next (Keeps.step (State.settle_keeps ..) (Keeps.step (State.finish_keeps ..) (Keeps.refl _ _)))
    exact KeepsRes.next (Keeps.step (State.settle_keeps ..) (Keeps.step (State.fail_keeps ..) (Keeps.step
        (State.disableLink_keeps ..) (Keeps.refl _ _))))
  rename_i z17 z18 z19 z20 z21
  exact KeepsRes.next (Keeps.step (State.settle_keeps ..) (Keeps.step (State.fail_keeps ..) (Keeps.step (State.enableLink_keeps
      ..) (Keeps.refl _ _))))

end Sys2Proof.Machine
end

