-- ==== Sys2Proof/Laws/KeepsSmb.lean ====
section
/-!
SUPPORT. What the operations of Machine/Smb.lean leave as it was, one lemma for each.
-/

set_option Elab.async false

namespace Sys2Proof.Machine

def State.smbBlock_mask : Nat := State.emit_mask

theorem State.smbBlock_keeps (s : State) (cmd status : Nat) (content : List Nat) : Keeps State.smbBlock_mask s (State.smbBlock
    s cmd status content) := by
  unfold State.smbBlock
  extract_lets +onlyGivenNames y0
  clear_value y0
  exact Keeps.step (State.emit_keeps ..) (Keeps.refl _ _)

def State.smbNot_mask : Nat := State.smbBlock_mask ||| State.draw_mask

theorem State.smbNot_keeps (s : State) (cmd status n : Nat) : Keeps State.smbNot_mask s (State.smbNot s cmd status n) := by
  unfold State.smbNot
  split
  rename_i z0 z1 z2 z3
  exact Keeps.step (State.smbBlock_keeps ..) (Keeps.ofSnd z3 (KeepsSnd.step (State.draw_keeps ..) (Keeps.refl _ _)))

def execSmbIdentify_mask : Nat := State.emit_mask ||| State.smbBlock_mask

theorem execSmbIdentify_keeps (s : State) : KeepsRes execSmbIdentify_mask s (execSmbIdentify s) := by
  unfold execSmbIdentify
  refine KeepsRes.ite ?_ ?_
  · exact KeepsRes.next (Keeps.step (State.emit_keeps ..) (Keeps.refl _ _))
  exact KeepsRes.next (Keeps.step (State.smbBlock_keeps ..) (Keeps.refl _ _))

def execSmbHealth_mask : Nat := State.emit_mask ||| State.smbNot_mask ||| State.smbBlock_mask

theorem execSmbHealth_keeps (s : State) : KeepsRes execSmbHealth_mask s (execSmbHealth s) := by
  unfold execSmbHealth
  refine KeepsRes.ite ?_ ?_
  · exact KeepsRes.next (Keeps.step (State.emit_keeps ..) (Keeps.refl _ _))
  refine KeepsRes.ite ?_ ?_
  · exact KeepsRes.next (Keeps.step (State.smbNot_keeps ..) (Keeps.refl _ _))
  exact KeepsRes.next (Keeps.step (State.smbBlock_keeps ..) (Keeps.refl _ _))

def execSmbSetOffset_mask : Nat := State.emit_mask ||| partBits [.hep]

theorem execSmbSetOffset_keeps (offset : BitVec 32) (p : Option (BitVec 8)) (s : State) : KeepsRes execSmbSetOffset_mask s
    (execSmbSetOffset offset p s) := by
  unfold execSmbSetOffset
  refine KeepsRes.ite ?_ ?_
  · exact KeepsRes.next (Keeps.step (State.emit_keeps ..) (Keeps.refl _ _))
  refine KeepsRes.ite ?_ ?_
  · exact KeepsRes.next (Keeps.refl _ _)
  refine KeepsRes.ite ?_ ?_
  · exact KeepsRes.next (Keeps.step (State.emit_keeps ..) (Keeps.refl _ _))
  exact KeepsRes.next (Keeps.step (State.emit_keeps ..) (Keeps.set_hep (Keeps.refl _ _)))

def execSmbReadReg_mask : Nat := State.emit_mask ||| State.smbNot_mask ||| State.smbBlock_mask

theorem execSmbReadReg_keeps (s : State) : KeepsRes execSmbReadReg_mask s (execSmbReadReg s) := by
  unfold execSmbReadReg
  refine KeepsRes.ite ?_ ?_
  · exact KeepsRes.next (Keeps.step (State.emit_keeps ..) (Keeps.refl _ _))
  refine KeepsRes.ite ?_ ?_
  · exact KeepsRes.next (Keeps.step (State.smbNot_keeps ..) (Keeps.refl _ _))
  refine KeepsRes.ite ?_ ?_
  · exact KeepsRes.next (Keeps.step (State.smbBlock_keeps ..) (Keeps.refl _ _))
  exact KeepsRes.next (Keeps.step (State.smbNot_keeps ..) (Keeps.refl _ _))

def execSmbWake_mask : Nat := State.emit_mask ||| State.wakeBy_mask

theorem execSmbWake_keeps (value : BitVec 8) (p : Option (BitVec 8)) (intact : Bool) (s : State) : KeepsRes execSmbWake_mask s
    (execSmbWake value p intact s) := by
  unfold execSmbWake
  refine KeepsRes.ite ?_ ?_
  · exact KeepsRes.next (Keeps.step (State.emit_keeps ..) (Keeps.refl _ _))
  refine KeepsRes.ite ?_ ?_
  · exact KeepsRes.next (Keeps.refl _ _)
  refine KeepsRes.ite ?_ ?_
  · exact KeepsRes.next (Keeps.step (State.emit_keeps ..) (Keeps.refl _ _))
  refine KeepsRes.ite ?_ ?_
  · exact KeepsRes.next (Keeps.step (State.emit_keeps ..) (Keeps.refl _ _))
  extract_lets +onlyGivenNames y0
  have h1 : Keeps execSmbWake_mask s y0 := Keeps.step (State.emit_keeps ..) (Keeps.refl _ _)
  clear_value y0
  refine KeepsRes.next (Keeps.ite ?_ ?_)
  · exact Keeps.step (State.wakeBy_keeps ..) h1
  exact h1

end Sys2Proof.Machine
end

