-- ==== Sys2Proof/Laws/KeepsRegWrite.lean ====
section
/-!
SUPPORT. What the operations of Machine/RegWrite.lean leave as it was, one lemma for each.
-/

set_option Elab.async false

namespace Sys2Proof.Machine

theorem nextOf_keeps {m : Nat} {s x : State} {r : Res} (h : Keeps m s x) (g : KeepsRes m s r) : Keeps m s (nextOf r x) := by
  unfold nextOf
  split
  · exact g _ rfl
  · exact h

def State.rowGlobal_mask : Nat := execFetchHold_mask ||| execWarmReset_mask ||| execColdReset_mask ||| execTimeLoadArm_mask |||
    execPpsPolarityWrite_mask ||| execPpsEnableWrite_mask ||| execWatchdogKick_mask ||| execCalRunAll_mask

theorem State.rowGlobal_keeps (s : State) (f : Fld) (v reg : Nat) : Keeps State.rowGlobal_mask s (State.rowGlobal s f v reg) :=
    by
  unfold State.rowGlobal
  refine Keeps.ite ?_ ?_
  · refine nextOf_keeps ?_ ?_
    · exact Keeps.refl _ _
    exact KeepsRes.step (execFetchHold_keeps _ _) (Keeps.refl _ _)
  refine Keeps.ite ?_ ?_
  · refine Keeps.ite ?_ ?_
    · refine nextOf_keeps ?_ ?_
      · exact Keeps.refl _ _
      exact KeepsRes.step (execWarmReset_keeps _ _) (Keeps.refl _ _)
    refine Keeps.ite ?_ ?_
    · refine nextOf_keeps ?_ ?_
      · exact Keeps.refl _ _
      exact KeepsRes.step (execColdReset_keeps _ _) (Keeps.refl _ _)
    exact Keeps.refl _ _
  refine Keeps.ite ?_ ?_
  · refine nextOf_keeps ?_ ?_
    · exact Keeps.refl _ _
    exact KeepsRes.step (execTimeLoadArm_keeps _) (Keeps.refl _ _)
  refine Keeps.ite ?_ ?_
  · refine nextOf_keeps ?_ ?_
    · exact Keeps.refl _ _
    exact KeepsRes.step (execPpsPolarityWrite_keeps _ _) (Keeps.refl _ _)
  refine Keeps.ite ?_ ?_
  · refine nextOf_keeps ?_ ?_
    · exact Keeps.refl _ _
    exact KeepsRes.step (execPpsEnableWrite_keeps _ _) (Keeps.refl _ _)
  refine Keeps.ite ?_ ?_
  · refine nextOf_keeps ?_ ?_
    · exact Keeps.refl _ _
    exact KeepsRes.step (execWatchdogKick_keeps _) (Keeps.refl _ _)
  refine Keeps.ite ?_ ?_
  · refine nextOf_keeps ?_ ?_
    · exact Keeps.refl _ _
    exact KeepsRes.step (execCalRunAll_keeps _) (Keeps.refl _ _)
  exact Keeps.refl _ _

def State.rowLink_mask : Nat := execLinkDisable_mask ||| execLinkEnable_mask ||| execRetrainRequest_mask |||
    execLinkRelease_mask ||| execFeRegAccess_mask

theorem State.rowLink_keeps (s : State) (f : Fld) (i v : Nat) : Keeps State.rowLink_mask s (State.rowLink s f i v) := by
  unfold State.rowLink
  refine Keeps.ite ?_ ?_
  · refine Keeps.ite ?_ ?_
    · refine nextOf_keeps ?_ ?_
      · exact Keeps.refl _ _
      exact KeepsRes.step (execLinkDisable_keeps _ _) (Keeps.refl _ _)
    refine nextOf_keeps ?_ ?_
    · exact Keeps.refl _ _
    exact KeepsRes.step (execLinkEnable_keeps _ _) (Keeps.refl _ _)
  refine Keeps.ite ?_ ?_
  · refine nextOf_keeps ?_ ?_
    · exact Keeps.refl _ _
    exact KeepsRes.step (execRetrainRequest_keeps _ _) (Keeps.refl _ _)
  refine Keeps.ite ?_ ?_
  · refine nextOf_keeps ?_ ?_
    · exact Keeps.refl _ _
    exact KeepsRes.step (execLinkRelease_keeps _ _) (Keeps.refl _ _)
  refine Keeps.ite ?_ ?_
  · refine nextOf_keeps ?_ ?_
    · exact Keeps.refl _ _
    exact KeepsRes.step (execFeRegAccess_keeps _ _ _) (Keeps.refl _ _)
  exact Keeps.refl _ _

def State.writeEqSet_mask : Nat := execEqShadowWrite_mask ||| fieldBits [Reg.SLC_EQ_SET_COEF]

theorem State.writeEqSet_keeps (s : State) (i v : Nat) : Keeps State.writeEqSet_mask s (State.writeEqSet s i v) := by
  unfold State.writeEqSet
  extract_lets +onlyGivenNames y0
  clear_value y0
  refine Keeps.ite ?_ ?_
  · exact Keeps.refl _ _
  refine Keeps.ite ?_ ?_
  · refine nextOf_keeps ?_ ?_
    · exact Keeps.refl _ _
    exact KeepsRes.step (execEqShadowWrite_keeps _ _ _ _ _) (Keeps.refl _ _)
  refine Keeps.ite ?_ ?_
  · exact Keeps.wr (Keeps.refl _ _)
  exact Keeps.refl _ _

def State.rowSlice_mask : Nat := execSliceStatClear_mask ||| execSliceReleaseRequest_mask ||| execEqCommit_mask |||
    State.writeEqSet_mask

theorem State.rowSlice_keeps (s : State) (f : Fld) (i v : Nat) : Keeps State.rowSlice_mask s (State.rowSlice s f i v) := by
  unfold State.rowSlice
  refine Keeps.ite ?_ ?_
  · refine nextOf_keeps ?_ ?_
    · exact Keeps.refl _ _
    exact KeepsRes.step (execSliceStatClear_keeps _ _) (Keeps.refl _ _)
  refine Keeps.ite ?_ ?_
  · refine nextOf_keeps ?_ ?_
    · exact Keeps.refl _ _
    exact KeepsRes.step (execSliceReleaseRequest_keeps _ _) (Keeps.refl _ _)
  refine Keeps.ite ?_ ?_
  · refine nextOf_keeps ?_ ?_
    · exact Keeps.refl _ _
    exact KeepsRes.step (execEqCommit_keeps _ _) (Keeps.refl _ _)
  refine Keeps.ite ?_ ?_
  · exact Keeps.step (State.writeEqSet_keeps ..) (Keeps.refl _ _)
  exact Keeps.refl _ _

def State.rowLoop_mask : Nat := execLoopSatClear_mask ||| execLoopSwapGroup_mask ||| execLoopSwapSlot_mask |||
    execLoopBankWrite_mask

theorem State.rowLoop_keeps (s : State) (f : Fld) (i v : Nat) : Keeps State.rowLoop_mask s (State.rowLoop s f i v) := by
  unfold State.rowLoop
  refine Keeps.ite ?_ ?_
  · refine nextOf_keeps ?_ ?_
    · exact Keeps.refl _ _
    exact KeepsRes.step (execLoopSatClear_keeps _) (Keeps.refl _ _)
  refine Keeps.ite ?_ ?_
  · refine Keeps.ite ?_ ?_
    · refine nextOf_keeps ?_ ?_
      · exact Keeps.refl _ _
      exact KeepsRes.step (execLoopSwapGroup_keeps _ _) (Keeps.refl _ _)
    refine nextOf_keeps ?_ ?_
    · exact Keeps.refl _ _
    exact KeepsRes.step (execLoopSwapSlot_keeps _ _ _) (Keeps.refl _ _)
  refine Keeps.ite ?_ ?_
  · refine nextOf_keeps ?_ ?_
    · exact Keeps.refl _ _
    exact KeepsRes.step (execLoopBankWrite_keeps _ _ _ _ _) (Keeps.refl _ _)
  exact Keeps.refl _ _

def State.writeDesc_mask : Nat := execLoopDescWrite_mask ||| execLoopSlotDisable_mask ||| execLoopSlotEnable_mask

theorem State.writeDesc_keeps (s : State) (a v : Nat) : Keeps State.writeDesc_mask s (State.writeDesc s a v) := by
  unfold State.writeDesc
  extract_lets +onlyGivenNames y0
  clear_value y0
  extract_lets +onlyGivenNames y1
  clear_value y1
  refine Keeps.ite ?_ ?_
  · refine nextOf_keeps ?_ ?_
    · exact Keeps.refl _ _
    exact KeepsRes.step (execLoopDescWrite_keeps _ _ _ _) (Keeps.refl _ _)
  refine Keeps.ite ?_ ?_
  · refine Keeps.ite ?_ ?_
    · refine nextOf_keeps ?_ ?_
      · exact Keeps.refl _ _
      exact KeepsRes.step (execLoopSlotDisable_keeps _ _) (Keeps.refl _ _)
    refine nextOf_keeps ?_ ?_
    · exact Keeps.refl _ _
    exact KeepsRes.step (execLoopDescWrite_keeps _ _ _ _) (Keeps.refl _ _)
  refine nextOf_keeps ?_ ?_
  · exact Keeps.refl _ _
  exact KeepsRes.step (execLoopSlotEnable_keeps _ _ _) (Keeps.refl _ _)

def State.goHead_mask : Nat := execHeadAcquire_mask ||| execHeadSeek_mask ||| execHeadLayer_mask ||| execHeadPark_mask |||
    execHeadOpc_mask ||| execHeadClearFault_mask ||| fieldBits [Reg.STN_HD_CMD_RESULT]

theorem State.goHead_keeps (s : State) (h : Nat) : Keeps State.goHead_mask s (State.goHead s h) := by
  unfold State.goHead
  extract_lets +onlyGivenNames y0
  clear_value y0
  extract_lets +onlyGivenNames y1
  clear_value y1
  split
  · rename_i z2 z3
    refine nextOf_keeps ?_ ?_
    · exact Keeps.refl _ _
    exact KeepsRes.step (execHeadAcquire_keeps _ _ _) (Keeps.refl _ _)
  · rename_i z4 z5
    refine nextOf_keeps ?_ ?_
    · exact Keeps.refl _ _
    exact KeepsRes.step (execHeadSeek_keeps _ _ _) (Keeps.refl _ _)
  · rename_i z6 z7
    refine nextOf_keeps ?_ ?_
    · exact Keeps.refl _ _
    exact KeepsRes.step (execHeadLayer_keeps _ _ _) (Keeps.refl _ _)
  · rename_i z8 z9
    refine nextOf_keeps ?_ ?_
    · exact Keeps.refl _ _
    exact KeepsRes.step (execHeadPark_keeps _ _ _) (Keeps.refl _ _)
  · rename_i z10 z11
    refine nextOf_keeps ?_ ?_
    · exact Keeps.refl _ _
    exact KeepsRes.step (execHeadOpc_keeps _ _ _) (Keeps.refl _ _)
  · rename_i z12 z13
    refine nextOf_keeps ?_ ?_
    · exact Keeps.refl _ _
    exact KeepsRes.step (execHeadClearFault_keeps _ _ _) (Keeps.refl _ _)
  rename_i z14 z15 z16 z17 z18 z19 z20
  refine Keeps.ite ?_ ?_
  · exact Keeps.refl _ _
  exact Keeps.wr (Keeps.refl _ _)

def State.goAxis_mask : Nat := execAxisMove_mask ||| execAxisStop_mask ||| execAxisHome_mask ||| execAxisClear_mask |||
    fieldBits [Reg.MOT_AX_CMD_RESULT]

theorem State.goAxis_keeps (s : State) (a : Nat) : Keeps State.goAxis_mask s (State.goAxis s a) := by
  unfold State.goAxis
  extract_lets +onlyGivenNames y0
  clear_value y0
  split
  · rename_i z1 z2
    refine nextOf_keeps ?_ ?_
    · exact Keeps.refl _ _
    exact KeepsRes.step (execAxisMove_keeps _ _) (Keeps.refl _ _)
  · rename_i z3 z4
    refine nextOf_keeps ?_ ?_
    · exact Keeps.refl _ _
    exact KeepsRes.step (execAxisStop_keeps _ _) (Keeps.refl _ _)
  · rename_i z5 z6
    refine nextOf_keeps ?_ ?_
    · exact Keeps.refl _ _
    exact KeepsRes.step (execAxisHome_keeps _ _) (Keeps.refl _ _)
  · rename_i z7 z8
    refine nextOf_keeps ?_ ?_
    · exact Keeps.refl _ _
    exact KeepsRes.step (execAxisClear_keeps _ _) (Keeps.refl _ _)
  rename_i z9 z10 z11 z12 z13
  refine Keeps.ite ?_ ?_
  · exact Keeps.refl _ _
  exact Keeps.wr (Keeps.refl _ _)

def State.rowMotion_mask : Nat := State.goHead_mask ||| execSpindleTargetWrite_mask ||| execSpindleClearFault_mask |||
    execMotionStopAll_mask ||| State.goAxis_mask ||| execAxisTargetWrite_mask ||| execLibraryEnable_mask |||
    execDoorRequestOpen_mask ||| execDoorRequestLock_mask

theorem State.rowMotion_keeps (s : State) (f : Fld) (i v : Nat) : Keeps State.rowMotion_mask s (State.rowMotion s f i v) := by
  unfold State.rowMotion
  refine Keeps.ite ?_ ?_
  · exact Keeps.step (State.goHead_keeps ..) (Keeps.refl _ _)
  refine Keeps.ite ?_ ?_
  · refine nextOf_keeps ?_ ?_
    · exact Keeps.refl _ _
    exact KeepsRes.step (execSpindleTargetWrite_keeps _ _ _) (Keeps.refl _ _)
  refine Keeps.ite ?_ ?_
  · refine nextOf_keeps ?_ ?_
    · exact Keeps.refl _ _
    exact KeepsRes.step (execSpindleClearFault_keeps _ _) (Keeps.refl _ _)
  refine Keeps.ite ?_ ?_
  · refine nextOf_keeps ?_ ?_
    · exact Keeps.refl _ _
    exact KeepsRes.step (execMotionStopAll_keeps _) (Keeps.refl _ _)
  refine Keeps.ite ?_ ?_
  · exact Keeps.step (State.goAxis_keeps ..) (Keeps.refl _ _)
  refine Keeps.ite ?_ ?_
  · refine nextOf_keeps ?_ ?_
    · exact Keeps.refl _ _
    exact KeepsRes.step (execAxisTargetWrite_keeps _ _ _) (Keeps.refl _ _)
  refine Keeps.ite ?_ ?_
  · refine nextOf_keeps ?_ ?_
    · exact Keeps.refl _ _
    exact KeepsRes.step (execLibraryEnable_keeps _) (Keeps.refl _ _)
  refine Keeps.ite ?_ ?_
  · refine nextOf_keeps ?_ ?_
    · exact Keeps.refl _ _
    exact KeepsRes.step (execDoorRequestOpen_keeps _) (Keeps.refl _ _)
  refine Keeps.ite ?_ ?_
  · refine nextOf_keeps ?_ ?_
    · exact Keeps.refl _ _
    exact KeepsRes.step (execDoorRequestLock_keeps _ _) (Keeps.refl _ _)
  exact Keeps.refl _ _

def State.goQueue_mask : Nat := execCreateCq_mask ||| execDeleteCq_mask ||| execCreateSq_mask ||| execDeleteSq_mask |||
    execSetGroup_mask ||| execQueryCq_mask ||| execQuerySq_mask ||| execQueryGroup_mask ||| fieldBits [Reg.CMDQ_OP_RESULT]

theorem State.goQueue_keeps (s : State) : Keeps State.goQueue_mask s (State.goQueue s) := by
  unfold State.goQueue
  split
  · rename_i z0 z1
    refine nextOf_keeps ?_ ?_
    · exact Keeps.refl _ _
    exact KeepsRes.step (execCreateCq_keeps _) (Keeps.refl _ _)
  · rename_i z2 z3
    refine nextOf_keeps ?_ ?_
    · exact Keeps.refl _ _
    exact KeepsRes.step (execDeleteCq_keeps _) (Keeps.refl _ _)
  · rename_i z4 z5
    refine nextOf_keeps ?_ ?_
    · exact Keeps.refl _ _
    exact KeepsRes.step (execCreateSq_keeps _) (Keeps.refl _ _)
  · rename_i z6 z7
    refine nextOf_keeps ?_ ?_
    · exact Keeps.refl _ _
    exact KeepsRes.step (execDeleteSq_keeps _) (Keeps.refl _ _)
  · rename_i z8 z9
    refine nextOf_keeps ?_ ?_
    · exact Keeps.refl _ _
    exact KeepsRes.step (execSetGroup_keeps _) (Keeps.refl _ _)
  · rename_i z10 z11
    refine nextOf_keeps ?_ ?_
    · exact Keeps.refl _ _
    exact KeepsRes.step (execQueryCq_keeps _) (Keeps.refl _ _)
  · rename_i z12 z13
    refine nextOf_keeps ?_ ?_
    · exact Keeps.refl _ _
    exact KeepsRes.step (execQuerySq_keeps _) (Keeps.refl _ _)
  · rename_i z14 z15
    refine nextOf_keeps ?_ ?_
    · exact Keeps.refl _ _
    exact KeepsRes.step (execQueryGroup_keeps _) (Keeps.refl _ _)
  rename_i z16 z17 z18 z19 z20 z21 z22 z23 z24
  exact Keeps.wr (Keeps.refl _ _)

def State.goCache_mask : Nat := execCacheInvalidate_mask ||| execCacheDrain_mask ||| execCacheDrainInvalidate_mask |||
    execCacheLoadLock_mask ||| fieldBits [Reg.MEMC_CACHE_OP_RESULT]

theorem State.goCache_keeps (s : State) (src : Src) : Keeps State.goCache_mask s (State.goCache s src) := by
  unfold State.goCache
  extract_lets +onlyGivenNames y0
  clear_value y0
  split
  · rename_i z1 z2
    refine nextOf_keeps ?_ ?_
    · exact Keeps.refl _ _
    exact KeepsRes.step (execCacheInvalidate_keeps _ _ _) (Keeps.refl _ _)
  · rename_i z3 z4
    refine nextOf_keeps ?_ ?_
    · exact Keeps.refl _ _
    exact KeepsRes.step (execCacheDrain_keeps _ _ _) (Keeps.refl _ _)
  · rename_i z5 z6
    refine nextOf_keeps ?_ ?_
    · exact Keeps.refl _ _
    exact KeepsRes.step (execCacheDrainInvalidate_keeps _ _ _) (Keeps.refl _ _)
  · rename_i z7 z8
    refine nextOf_keeps ?_ ?_
    · exact Keeps.refl _ _
    exact KeepsRes.step (execCacheLoadLock_keeps _ _ _) (Keeps.refl _ _)
  rename_i z9 z10 z11 z12 z13
  exact Keeps.wr (Keeps.refl _ _)

def State.rowHost_mask : Nat := execCascadeEnable_mask ||| execCascadeForget_mask ||| execPeerWindowCommit_mask |||
    execMsixUnmask_mask ||| State.goQueue_mask ||| execBpmDisable_mask ||| execBpmEnable_mask

theorem State.rowHost_keeps (s : State) (f : Fld) (i v : Nat) : Keeps State.rowHost_mask s (State.rowHost s f i v) := by
  unfold State.rowHost
  refine Keeps.ite ?_ ?_
  · refine nextOf_keeps ?_ ?_
    · exact Keeps.refl _ _
    exact KeepsRes.step (execCascadeEnable_keeps _) (Keeps.refl _ _)
  refine Keeps.ite ?_ ?_
  · refine nextOf_keeps ?_ ?_
    · exact Keeps.refl _ _
    exact KeepsRes.step (execCascadeForget_keeps _) (Keeps.refl _ _)
  refine Keeps.ite ?_ ?_
  · refine nextOf_keeps ?_ ?_
    · exact Keeps.refl _ _
    exact KeepsRes.step (execPeerWindowCommit_keeps _) (Keeps.refl _ _)
  refine Keeps.ite ?_ ?_
  · refine nextOf_keeps ?_ ?_
    · exact Keeps.refl _ _
    exact KeepsRes.step (execMsixUnmask_keeps _ _) (Keeps.refl _ _)
  refine Keeps.ite ?_ ?_
  · exact Keeps.step (State.goQueue_keeps ..) (Keeps.refl _ _)
  refine Keeps.ite ?_ ?_
  · refine Keeps.ite ?_ ?_
    · refine nextOf_keeps ?_ ?_
      · exact Keeps.refl _ _
      exact KeepsRes.step (execBpmDisable_keeps _) (Keeps.refl _ _)
    refine nextOf_keeps ?_ ?_
    · exact Keeps.refl _ _
    exact KeepsRes.step (execBpmEnable_keeps _) (Keeps.refl _ _)
  exact Keeps.refl _ _

def State.rowMemory_mask : Nat := execDmaChannelStart_mask ||| execDmaChannelReset_mask ||| State.goCache_mask |||
    execCacheWayLockWrite_mask ||| execCacheWayPowerWrite_mask ||| execEccInjectArm_mask

theorem State.rowMemory_keeps (s : State) (src : Src) (f : Fld) (i v reg : Nat) : Keeps State.rowMemory_mask s (State.rowMemory
    s src f i v reg) := by
  unfold State.rowMemory
  refine Keeps.ite ?_ ?_
  · refine nextOf_keeps ?_ ?_
    · exact Keeps.refl _ _
    exact KeepsRes.step (execDmaChannelStart_keeps _ _ _) (Keeps.refl _ _)
  refine Keeps.ite ?_ ?_
  · refine nextOf_keeps ?_ ?_
    · exact Keeps.refl _ _
    exact KeepsRes.step (execDmaChannelReset_keeps _ _ _) (Keeps.refl _ _)
  refine Keeps.ite ?_ ?_
  · exact Keeps.step (State.goCache_keeps ..) (Keeps.refl _ _)
  refine Keeps.ite ?_ ?_
  · refine nextOf_keeps ?_ ?_
    · exact Keeps.refl _ _
    exact KeepsRes.step (execCacheWayLockWrite_keeps _ _ _) (Keeps.refl _ _)
  refine Keeps.ite ?_ ?_
  · refine nextOf_keeps ?_ ?_
    · exact Keeps.refl _ _
    exact KeepsRes.step (execCacheWayPowerWrite_keeps _ _ _) (Keeps.refl _ _)
  refine Keeps.ite ?_ ?_
  · refine nextOf_keeps ?_ ?_
    · exact Keeps.refl _ _
    exact KeepsRes.step (execEccInjectArm_keeps _ _ _) (Keeps.refl _ _)
  exact Keeps.refl _ _

def State.rowEffect_mask : Nat := State.rowMemory_mask ||| State.rowHost_mask ||| State.rowMotion_mask ||| State.rowLoop_mask
    ||| State.rowSlice_mask ||| State.rowLink_mask ||| State.rowGlobal_mask

theorem State.rowEffect_keeps (s : State) (src : Src) (f : Fld) (i v reg : Nat) : Keeps State.rowEffect_mask s (State.rowEffect
    s src f i v reg) := by
  unfold State.rowEffect
  refine Keeps.ite ?_ ?_
  · exact Keeps.refl _ _
  exact Keeps.step (State.rowMemory_keeps ..) (Keeps.step (State.rowHost_keeps ..) (Keeps.step (State.rowMotion_keeps ..)
      (Keeps.step (State.rowLoop_keeps ..) (Keeps.step (State.rowSlice_keeps ..) (Keeps.step (State.rowLink_keeps ..)
      (Keeps.step (State.rowGlobal_keeps ..) (Keeps.refl _ _)))))))

def State.enableAxis_mask : Nat := State.setAx_mask ||| State.freezePlan_mask ||| fieldBits [Reg.MOT_AX_CMD_RESULT,
    Reg.MOT_AX_CMD_BUSY]

theorem State.enableAxis_keeps (s : State) (a : Nat) (on : Bool) : Keeps State.enableAxis_mask s (State.enableAxis s a on) := by
  unfold State.enableAxis
  refine Keeps.ite ?_ ?_
  · refine Keeps.ite ?_ ?_
    · exact Keeps.step (State.setAx_keeps ..) (Keeps.refl _ _)
    exact Keeps.refl _ _
  extract_lets +onlyGivenNames y0
  have h1 : Keeps State.enableAxis_mask s y0 := Keeps.step (State.setAx_keeps ..) (Keeps.step (State.freezePlan_keeps ..)
      (Keeps.refl _ _))
  clear_value y0
  refine Keeps.ite ?_ ?_
  · exact Keeps.wr (Keeps.clr h1)
  exact h1

def State.outWritten_mask : Nat := partBits [.loop]

theorem State.outWritten_keeps (s : State) (i : Nat) : Keeps State.outWritten_mask s (State.outWritten s i) := by
  unfold State.outWritten
  extract_lets +onlyGivenNames y0
  clear_value y0
  refine Keeps.ite ?_ ?_
  · exact Keeps.refl _ _
  exact Keeps.set_loop (Keeps.refl _ _)

def State.afterWrite_mask : Nat := State.headOn_mask ||| State.headOff_mask ||| State.spindleOn_mask ||| State.spindleOff_mask
    ||| State.enableAxis_mask ||| State.outWritten_mask ||| State.noteHealth_mask ||| State.forbidStep_mask |||
    State.calPrune_mask ||| fieldBits [Reg.CASC_STATUS_STATE] ||| partBits [.tb]

theorem State.afterWrite_keeps (s : State) (f : Fld) (i reg : Nat) : Keeps State.afterWrite_mask s (State.afterWrite s f i reg)
    := by
  unfold State.afterWrite
  refine Keeps.ite ?_ ?_
  · refine Keeps.ite ?_ ?_
    · exact Keeps.step (State.headOn_keeps ..) (Keeps.refl _ _)
    exact Keeps.step (State.headOff_keeps ..) (Keeps.refl _ _)
  refine Keeps.ite ?_ ?_
  · refine Keeps.ite ?_ ?_
    · exact Keeps.step (State.spindleOn_keeps ..) (Keeps.refl _ _)
    exact Keeps.step (State.spindleOff_keeps ..) (Keeps.refl _ _)
  refine Keeps.ite ?_ ?_
  · exact Keeps.step (State.enableAxis_keeps ..) (Keeps.refl _ _)
  refine Keeps.ite ?_ ?_
  · exact Keeps.step (State.outWritten_keeps ..) (Keeps.refl _ _)
  refine Keeps.ite ?_ ?_
  · exact Keeps.step (State.noteHealth_keeps ..) (Keeps.refl _ _)
  refine Keeps.ite ?_ ?_
  · exact Keeps.wr (Keeps.refl _ _)
  refine Keeps.ite ?_ ?_
  · extract_lets +onlyGivenNames y0
    unfold y0
    exact Keeps.set_tb (Keeps.refl _ _)
  refine Keeps.ite ?_ ?_
  · refine Keeps.ite ?_ ?_
    · exact Keeps.step (State.forbidStep_keeps ..) (Keeps.refl _ _)
    exact Keeps.refl _ _
  refine Keeps.ite ?_ ?_
  · exact Keeps.step (State.calPrune_keeps ..) (Keeps.refl _ _)
  exact Keeps.refl _ _

def State.writeField_mask : Nat := State.rowEffect_mask ||| State.afterWrite_mask ||| allRegs

theorem State.writeField_keeps (s : State) (src : Src) (f : Fld) (i reg : Nat) : Keeps State.writeField_mask s
    (State.writeField s src f i reg) := by
  unfold State.writeField
  extract_lets +onlyGivenNames y0
  clear_value y0
  refine Keeps.ite ?_ ?_
  · exact Keeps.refl _ _
  refine Keeps.ite ?_ ?_
  · exact Keeps.step (State.rowEffect_keeps ..) (Keeps.refl _ _)
  split
  · rename_i z1 z2
    exact Keeps.step (State.afterWrite_keeps ..) (Keeps.wr (Keeps.refl _ _) (testBit_super (a := allRegs) (by decide +kernel)
        (allRegs_test _)))
  · rename_i z3 z4
    exact Keeps.step (State.afterWrite_keeps ..) (Keeps.wr (Keeps.refl _ _) (testBit_super (a := allRegs) (by decide +kernel)
        (allRegs_test _)))
  · rename_i z5 z6
    exact Keeps.wr (Keeps.refl _ _) (testBit_super (a := allRegs) (by decide +kernel) (allRegs_test _))
  · rename_i z7 z8
    refine Keeps.ite ?_ ?_
    · exact Keeps.refl _ _
    exact Keeps.orBits (Keeps.refl _ _) (testBit_super (a := allRegs) (by decide +kernel) (allRegs_test _))
  rename_i z9 z10 z11 z12 z13
  exact Keeps.refl _ _

def State.writeReg_mask : Nat := execDoorbellWrite_mask ||| State.writeDesc_mask ||| State.writeField_mask

theorem State.writeReg_keeps (s : State) (src : Src) (a v : Nat) : Keeps State.writeReg_mask s (State.writeReg s src a v) := by
  unfold State.writeReg
  refine Keeps.ite ?_ ?_
  · refine nextOf_keeps ?_ ?_
    · exact Keeps.refl _ _
    exact KeepsRes.step (execDoorbellWrite_keeps _ _ _) (Keeps.refl _ _)
  refine Keeps.ite ?_ ?_
  · exact Keeps.step (State.writeDesc_keeps ..) (Keeps.refl _ _)
  extract_lets +onlyGivenNames y0
  clear_value y0
  extract_lets +onlyGivenNames y1
  refine Keeps.foldlMem (fun t2 a3 m4 => ?_) ?_
  · unfold y1
    exact Keeps.step (State.writeField_keeps ..) (Keeps.refl _ _)
  refine Keeps.foldlMem (fun t5 a6 m7 => ?_) ?_
  · unfold y1
    exact Keeps.step (State.writeField_keeps ..) (Keeps.refl _ _)
  exact Keeps.refl _ _

def execRegisterWrite_mask : Nat := State.writeReg_mask ||| State.raiseWin_mask

theorem execRegisterWrite_keeps (src : Src) (addr : BitVec 26) (len : Fin 65) (data : Nat) (s : State) : KeepsRes
    execRegisterWrite_mask s (execRegisterWrite src addr len data s) := by
  unfold execRegisterWrite
  extract_lets +onlyGivenNames y0
  clear_value y0
  extract_lets +onlyGivenNames y1
  have h2 : Keeps execRegisterWrite_mask s y1 := by
    unfold y1
    refine Keeps.foldl (fun t3 a4 => ?_) ?_
    · exact Keeps.step (State.writeReg_keeps ..) (Keeps.refl _ _)
    exact Keeps.refl _ _
  clear_value y1
  split
  · rename_i z5 z6 z7
    exact KeepsRes.next (Keeps.step (State.raiseWin_keeps ..) h2)
  rename_i z8 z9
  exact KeepsRes.next h2

end Sys2Proof.Machine
end

