-- ==== Sys2Proof/Laws/KeepsExec.lean ====
section
/-!
SUPPORT. What a command leaves as it was: for each command the register fields and parts that it may change, and that it keeps the
queue of commands, a valid TIME, the canonical form of device memory and the seal.
-/

set_option Elab.async false

namespace Sys2Proof.Machine

/-- What a command may change. -/
def execMask (c : Instr) : Nat :=
  match c with
  | .registerWrite .. => execRegisterWrite_mask
  | .bar0ReservedAccess .. => execBar0ReservedAccess_mask
  | .eventWindowEnd .. => execEventWindowEnd_mask
  | .fetchHold .. => execFetchHold_mask
  | .warmReset .. => execWarmReset_mask
  | .coldReset .. => execColdReset_mask
  | .resetTakesEffect => execResetTakesEffect_mask
  | .porstAssert => execPorstAssert_mask
  | .porstDeassert .. => execPorstDeassert_mask
  | .timeSecondRollover => execTimeSecondRollover_mask
  | .cclkStart => execCclkStart_mask
  | .ppsEdge .. => execPpsEdge_mask
  | .timeStep => execTimeStep_mask
  | .holdoverTimeout => execHoldoverTimeout_mask
  | .ppsEnableWrite .. => execPpsEnableWrite_mask
  | .ppsPolarityWrite .. => execPpsPolarityWrite_mask
  | .timeLoadArm => execTimeLoadArm_mask
  | .timeLoadEffect => execTimeLoadEffect_mask
  | .fineTimeReload .. => execFineTimeReload_mask
  | .launch .. => execLaunch_mask
  | .emberLaunchExit => execEmberLaunchExit_mask
  | .seekSlot .. => execSeekSlot_mask
  | .vgConfigApply .. => execVgConfigApply_mask
  | .servoPeriodStart => execServoPeriodStart_mask
  | .periodPresent => execPeriodPresent_mask
  | .actuatePresent => execActuatePresent_mask
  | .sensorDelivered .. => execSensorDelivered_mask
  | .sensorMiss .. => execSensorMiss_mask
  | .samplesReceive .. => execSamplesReceive_mask
  | .healthReceive .. => execHealthReceive_mask
  | .regrspReceive .. => execRegrspReceive_mask
  | .wrackReceive .. => execWrackReceive_mask
  | .echorspReceive .. => execEchorspReceive_mask
  | .linkBlockError .. => execLinkBlockError_mask
  | .wrdataSend .. => execWrdataSend_mask
  | .wrdataRetransmit .. => execWrdataRetransmit_mask
  | .stepSend .. => execStepSend_mask
  | .stepRetransmit .. => execStepRetransmit_mask
  | .stopSend .. => execStopSend_mask
  | .echoSend .. => execEchoSend_mask
  | .feRegAccess .. => execFeRegAccess_mask
  | .feRegTimeout .. => execFeRegTimeout_mask
  | .linkEnable .. => execLinkEnable_mask
  | .linkDisable .. => execLinkDisable_mask
  | .trainingBatchOpen .. => execTrainingBatchOpen_mask
  | .trainingBatchClose .. => execTrainingBatchClose_mask
  | .linkTrainDetected .. => execLinkTrainDetected_mask
  | .linkBlockLock .. => execLinkBlockLock_mask
  | .linkDeskewDone .. => execLinkDeskewDone_mask
  | .linkIdentifyDone .. => execLinkIdentifyDone_mask
  | .linkMeasureDone .. => execLinkMeasureDone_mask
  | .linkTrainTimeout .. => execLinkTrainTimeout_mask
  | .linkRetry .. => execLinkRetry_mask
  | .linkRetryTimeout .. => execLinkRetryTimeout_mask
  | .retrainRequest .. => execRetrainRequest_mask
  | .retrainStart .. => execRetrainStart_mask
  | .linkRelease .. => execLinkRelease_mask
  | .linkLoss .. => execLinkLoss_mask
  | .linkDegradedWindow .. => execLinkDegradedWindow_mask
  | .zoneResolve .. => execZoneResolve_mask
  | .sliceAssign .. => execSliceAssign_mask
  | .sliceWait .. => execSliceWait_mask
  | .sliceRelease .. => execSliceRelease_mask
  | .sliceReleaseRequest .. => execSliceReleaseRequest_mask
  | .sliceStatClear .. => execSliceStatClear_mask
  | .sliceModeChange .. => execSliceModeChange_mask
  | .eqCommit .. => execEqCommit_mask
  | .eqCommitCopy .. => execEqCommitCopy_mask
  | .eqShadowWrite .. => execEqShadowWrite_mask
  | .frameDecode .. => execFrameDecode_mask
  | .frameEncode .. => execFrameEncode_mask
  | .slotVerify .. => execSlotVerify_mask
  | .rateMatchTick .. => execRateMatchTick_mask
  | .readPause .. => execReadPause_mask
  | .readResume .. => execReadResume_mask
  | .holdStep .. => execHoldStep_mask
  | .oneTrackStep .. => execOneTrackStep_mask
  | .ladderRungDecode .. => execLadderRungDecode_mask
  | .rowShiftSearch .. => execRowShiftSearch_mask
  | .ladderBudgetExpire .. => execLadderBudgetExpire_mask
  | .ladderSlotClaim .. => execLadderSlotClaim_mask
  | .ladderReread .. => execLadderReread_mask
  | .rereadDecode .. => execRereadDecode_mask
  | .softCombine .. => execSoftCombine_mask
  | .outerErasureDecode .. => execOuterErasureDecode_mask
  | .loopLaneRun .. => execLoopLaneRun_mask
  | .loopOverrun .. => execLoopOverrun_mask
  | .loopParamCopy => execLoopParamCopy_mask
  | .loopSlotEnable .. => execLoopSlotEnable_mask
  | .loopSlotDisable .. => execLoopSlotDisable_mask
  | .loopDescWrite .. => execLoopDescWrite_mask
  | .loopBankWrite .. => execLoopBankWrite_mask
  | .loopSwapSlot .. => execLoopSwapSlot_mask
  | .loopSwapGroup .. => execLoopSwapGroup_mask
  | .loopSwapExecute .. => execLoopSwapExecute_mask
  | .loopSatClear => execLoopSatClear_mask
  | .safeProgramDone => execSafeProgramDone_mask
  | .headAcquire .. => execHeadAcquire_mask
  | .headSeek .. => execHeadSeek_mask
  | .headLayer .. => execHeadLayer_mask
  | .headPark .. => execHeadPark_mask
  | .headOpc .. => execHeadOpc_mask
  | .headClearFault .. => execHeadClearFault_mask
  | .seekRequest .. => execSeekRequest_mask
  | .layerJumpRequest .. => execLayerJumpRequest_mask
  | .acqStageLocked .. => execAcqStageLocked_mask
  | .acqStageTimeout .. => execAcqStageTimeout_mask
  | .seekJumpDone .. => execSeekJumpDone_mask
  | .longSeekSettled .. => execLongSeekSettled_mask
  | .seekRestart .. => execSeekRestart_mask
  | .layerMoveEnd .. => execLayerMoveEnd_mask
  | .relayLocked .. => execRelayLocked_mask
  | .layerJumpTimeout .. => execLayerJumpTimeout_mask
  | .lockLoss .. => execLockLoss_mask
  | .headRecoveryDone .. => execHeadRecoveryDone_mask
  | .headRecoveryTimeout .. => execHeadRecoveryTimeout_mask
  | .powerLimitDetect .. => execPowerLimitDetect_mask
  | .opcTrigger .. => execOpcTrigger_mask
  | .opcReadback .. => execOpcReadback_mask
  | .headParkDone .. => execHeadParkDone_mask
  | .mountComplete .. => execMountComplete_mask
  | .spindleTargetWrite .. => execSpindleTargetWrite_mask
  | .spindleSenseEnd .. => execSpindleSenseEnd_mask
  | .spindleWaitSlowEnd .. => execSpindleWaitSlowEnd_mask
  | .spindleRevBrakeEnd .. => execSpindleRevBrakeEnd_mask
  | .spindleAlignStart .. => execSpindleAlignStart_mask
  | .spindleAlignEnd .. => execSpindleAlignEnd_mask
  | .spindleHandover .. => execSpindleHandover_mask
  | .spindleCatchDone .. => execSpindleCatchDone_mask
  | .spindleAttemptFail .. => execSpindleAttemptFail_mask
  | .spindleRetry .. => execSpindleRetry_mask
  | .spindleLockedRotor .. => execSpindleLockedRotor_mask
  | .spindleObserverLoss .. => execSpindleObserverLoss_mask
  | .spindleReacquired .. => execSpindleReacquired_mask
  | .spindleReacqTimeout .. => execSpindleReacqTimeout_mask
  | .spindleVbusChange .. => execSpindleVbusChange_mask
  | .spindleBrakeEnd .. => execSpindleBrakeEnd_mask
  | .spindleHoldEnd .. => execSpindleHoldEnd_mask
  | .spindleBrakeTimeout .. => execSpindleBrakeTimeout_mask
  | .spindleAtSpeed .. => execSpindleAtSpeed_mask
  | .phaseLockChange .. => execPhaseLockChange_mask
  | .spindleClearFault .. => execSpindleClearFault_mask
  | .axisMove .. => execAxisMove_mask
  | .axisStop .. => execAxisStop_mask
  | .axisHome .. => execAxisHome_mask
  | .axisClear .. => execAxisClear_mask
  | .axisTargetWrite .. => execAxisTargetWrite_mask
  | .axisMoveDone .. => execAxisMoveDone_mask
  | .axisHomeDone .. => execAxisHomeDone_mask
  | .axisFaultInput .. => execAxisFaultInput_mask
  | .motionStopAll => execMotionStopAll_mask
  | .libraryEnable => execLibraryEnable_mask
  | .doorRequestOpen => execDoorRequestOpen_mask
  | .doorRequestLock .. => execDoorRequestLock_mask
  | .doorLockConfirmed => execDoorLockConfirmed_mask
  | .doorOpenedUnexpected .. => execDoorOpenedUnexpected_mask
  | .doorWaitTimeout .. => execDoorWaitTimeout_mask
  | .transferStart => execTransferStart_mask
  | .transferProgress .. => execTransferProgress_mask
  | .transferWaitTimeout .. => execTransferWaitTimeout_mask
  | .transferResolve .. => execTransferResolve_mask
  | .inventoryComplete .. => execInventoryComplete_mask
  | .cascadeEnable => execCascadeEnable_mask
  | .cascadeForget => execCascadeForget_mask
  | .cascPortUp .. => execCascPortUp_mask
  | .cascPortDown .. => execCascPortDown_mask
  | .announceSend => execAnnounceSend_mask
  | .announceReceive .. => execAnnounceReceive_mask
  | .joinReceive .. => execJoinReceive_mask
  | .membersReceive .. => execMembersReceive_mask
  | .syncReceive .. => execSyncReceive_mask
  | .ringCmdReceive .. => execRingCmdReceive_mask
  | .ringFrameReceive .. => execRingFrameReceive_mask
  | .ringCatReceive .. => execRingCatReceive_mask
  | .ringLibReceive .. => execRingLibReceive_mask
  | .ringAckReceive .. => execRingAckReceive_mask
  | .ringMessageForward .. => execRingMessageForward_mask
  | .ringRetransmit .. => execRingRetransmit_mask
  | .memberAbsent .. => execMemberAbsent_mask
  | .masterLost => execMasterLost_mask
  | .stackSyncTimeout => execStackSyncTimeout_mask
  | .crossCellTimeout .. => execCrossCellTimeout_mask
  | .proxyDeliver .. => execProxyDeliver_mask
  | .hostLinkUp .. => execHostLinkUp_mask
  | .hostEndpointReset .. => execHostEndpointReset_mask
  | .configRequest .. => execConfigRequest_mask
  | .hdmDecoderCommit .. => execHdmDecoderCommit_mask
  | .hdmHostRead .. => execHdmHostRead_mask
  | .hdmHostWrite .. => execHdmHostWrite_mask
  | .peerRequest .. => execPeerRequest_mask
  | .peerWindowCommit => execPeerWindowCommit_mask
  | .peerCommitEffect => execPeerCommitEffect_mask
  | .translationCompletion .. => execTranslationCompletion_mask
  | .atsInvalidate .. => execAtsInvalidate_mask
  | .hostCacheError .. => execHostCacheError_mask
  | .completionWrite .. => execCompletionWrite_mask
  | .msixSend .. => execMsixSend_mask
  | .msixUnmask .. => execMsixUnmask_mask
  | .cqFullTimeout .. => execCqFullTimeout_mask
  | .smbIdentify => execSmbIdentify_mask
  | .smbHealth => execSmbHealth_mask
  | .smbSetOffset .. => execSmbSetOffset_mask
  | .smbReadReg => execSmbReadReg_mask
  | .smbWake .. => execSmbWake_mask
  | .doorbellWrite .. => execDoorbellWrite_mask
  | .commandFetch .. => execCommandFetch_mask
  | .commandStart .. => execCommandStart_mask
  | .nop .. => execNop_mask
  | .identify .. => execIdentify_mask
  | .getLog .. => execGetLog_mask
  | .setFeature .. => execSetFeature_mask
  | .getFeature .. => execGetFeature_mask
  | .abort .. => execAbort_mask
  | .read .. => execRead_mask
  | .write .. => execWrite_mask
  | .verify .. => execVerify_mask
  | .flush .. => execFlush_mask
  | .zoneClose .. => execZoneClose_mask
  | .discFinalize .. => execDiscFinalize_mask
  | .bufferAlloc .. => execBufferAlloc_mask
  | .bufferRelease .. => execBufferRelease_mask
  | .bufferShare .. => execBufferShare_mask
  | .mount .. => execMount_mask
  | .unmount .. => execUnmount_mask
  | .move .. => execMove_mask
  | .inventory .. => execInventory_mask
  | .timeSet .. => execTimeSet_mask
  | .timeGet .. => execTimeGet_mask
  | .tallyRead .. => execTallyRead_mask
  | .tallyAck .. => execTallyAck_mask
  | .fwDownload .. => execFwDownload_mask
  | .fwActivate .. => execFwActivate_mask
  | .modeSet .. => execModeSet_mask
  | .stationDiag .. => execStationDiag_mask
  | .createCq => execCreateCq_mask
  | .deleteCq => execDeleteCq_mask
  | .createSq => execCreateSq_mask
  | .deleteSq => execDeleteSq_mask
  | .deleteSqComplete => execDeleteSqComplete_mask
  | .setGroup => execSetGroup_mask
  | .queryCq => execQueryCq_mask
  | .querySq => execQuerySq_mask
  | .queryGroup => execQueryGroup_mask
  | .copyBufferGrant => execCopyBufferGrant_mask
  | .bpmEnable => execBpmEnable_mask
  | .bpmDisable => execBpmDisable_mask
  | .dmaChannelStart .. => execDmaChannelStart_mask
  | .dmaChannelRun .. => execDmaChannelRun_mask
  | .dmaDescriptorEnd .. => execDmaDescriptorEnd_mask
  | .dmaBusRetry .. => execDmaBusRetry_mask
  | .dmaChannelReset .. => execDmaChannelReset_mask
  | .dramTrainingDone .. => execDramTrainingDone_mask
  | .dramInitDone .. => execDramInitDone_mask
  | .scrubStep .. => execScrubStep_mask
  | .selfRefreshEnter => execSelfRefreshEnter_mask
  | .mergeBufferDrain .. => execMergeBufferDrain_mask
  | .cacheInvalidate .. => execCacheInvalidate_mask
  | .cacheDrain .. => execCacheDrain_mask
  | .cacheDrainInvalidate .. => execCacheDrainInvalidate_mask
  | .cacheLoadLock .. => execCacheLoadLock_mask
  | .cacheOpDone .. => execCacheOpDone_mask
  | .cacheWayLockWrite .. => execCacheWayLockWrite_mask
  | .cacheWayPowerWrite .. => execCacheWayPowerWrite_mask
  | .eccInjectArm .. => execEccInjectArm_mask
  | .flashProgram .. => execFlashProgram_mask
  | .flashSectorErase .. => execFlashSectorErase_mask
  | .flashSuspend => execFlashSuspend_mask
  | .flashResume => execFlashResume_mask
  | .flashReadArray => execFlashReadArray_mask
  | .flashProgramDone .. => execFlashProgramDone_mask
  | .flashEraseDone .. => execFlashEraseDone_mask
  | .erasePendingLong => execErasePendingLong_mask
  | .bootSelect .. => execBootSelect_mask
  | .journalReplay => execJournalReplay_mask
  | .journalReclaim => execJournalReclaim_mask
  | .frontierSearch .. => execFrontierSearch_mask
  | .pwrfailAssert => execPwrfailAssert_mask
  | .pfJournalWrite .. => execPfJournalWrite_mask
  | .pwrfailDeassert => execPwrfailDeassert_mask
  | .pwrfailRecover => execPwrfailRecover_mask
  | .supplyFault .. => execSupplyFault_mask
  | .wake .. => execWake_mask
  | .modeTransitionDone .. => execModeTransitionDone_mask
  | .fwReady .. => execFwReady_mask
  | .watchdogKick => execWatchdogKick_mask
  | .watchdogExpire => execWatchdogExpire_mask
  | .thermalReading .. => execThermalReading_mask
  | .thermalExit => execThermalExit_mask
  | .thermtrip => execThermtrip_mask
  | .powerCapEstimate .. => execPowerCapEstimate_mask
  | .capExceeded => execCapExceeded_mask
  | .eventLogCopy => execEventLogCopy_mask
  | .eventInterrupt => execEventInterrupt_mask
  | .tallyStart .. => execTallyStart_mask
  | .tallyMinuteBoundary .. => execTallyMinuteBoundary_mask
  | .tallyMsSample => execTallyMsSample_mask
  | .tallyTapEvent .. => execTallyTapEvent_mask
  | .tallyRecordProgram .. => execTallyRecordProgram_mask
  | .tallySectorErase => execTallySectorErase_mask
  | .tallyPfClose .. => execTallyPfClose_mask
  | .tallySeal .. => execTallySeal_mask
  | .calTrigger .. => execCalTrigger_mask
  | .calRunAll => execCalRunAll_mask
  | .calPortRun .. => execCalPortRun_mask
  | .calPortApply .. => execCalPortApply_mask
  | .calSliceRunDone .. => execCalSliceRunDone_mask
  | .calSliceApply .. => execCalSliceApply_mask
  | .calTrimRun .. => execCalTrimRun_mask
  | .calTrimApply .. => execCalTrimApply_mask
  | .calStore .. => execCalStore_mask
  | .kilnEnd => execKilnEnd_mask
  | .kilnTimeout => execKilnTimeout_mask
  | .fwActivateReset => execFwActivateReset_mask
  | .trialConfirm => execTrialConfirm_mask
  | .trialTimeout => execTrialTimeout_mask
  | .flashSeqError => execFlashSeqError_mask
  | .ringEchoReceive .. => execRingEchoReceive_mask
  | .referenceClockLost => execReferenceClockLost_mask
  | .pickerDiscFall .. => execPickerDiscFall_mask

theorem exec_keeps (c : Instr) (s : State) : KeepsRes (execMask c) s (exec c s) := by
  cases c with
  | registerWrite src addr len data => exact execRegisterWrite_keeps src addr len data s
  | bar0ReservedAccess offset write => exact execBar0ReservedAccess_keeps offset write s
  | eventWindowEnd code inst => exact execEventWindowEnd_keeps code inst s
  | fetchHold on => exact execFetchHold_keeps on s
  | warmReset key => exact execWarmReset_keeps key s
  | coldReset key => exact execColdReset_keeps key s
  | resetTakesEffect => exact execResetTakesEffect_keeps s
  | porstAssert => exact execPorstAssert_keeps s
  | porstDeassert mgmtAddr slave clocks => exact execPorstDeassert_keeps mgmtAddr slave clocks s
  | timeSecondRollover => exact execTimeSecondRollover_keeps s
  | cclkStart => exact execCclkStart_keeps s
  | ppsEdge dt fall => exact execPpsEdge_keeps dt fall s
  | timeStep => exact execTimeStep_keeps s
  | holdoverTimeout => exact execHoldoverTimeout_keeps s
  | ppsEnableWrite on => exact execPpsEnableWrite_keeps on s
  | ppsPolarityWrite fall => exact execPpsPolarityWrite_keeps fall s
  | timeLoadArm => exact execTimeLoadArm_keeps s
  | timeLoadEffect => exact execTimeLoadEffect_keeps s
  | fineTimeReload byPps => exact execFineTimeReload_keeps byPps s
  | launch sq tag => exact execLaunch_keeps sq tag s
  | emberLaunchExit => exact execEmberLaunchExit_keeps s
  | seekSlot group => exact execSeekSlot_keeps group s
  | vgConfigApply group => exact execVgConfigApply_keeps group s
  | servoPeriodStart => exact execServoPeriodStart_keeps s
  | periodPresent => exact execPeriodPresent_keeps s
  | actuatePresent => exact execActuatePresent_keeps s
  | sensorDelivered stn msg cause => exact execSensorDelivered_keeps stn msg cause s
  | sensorMiss stn => exact execSensorMiss_keeps stn s
  | samplesReceive stn msg => exact execSamplesReceive_keeps stn msg s
  | healthReceive stn msg => exact execHealthReceive_keeps stn msg s
  | regrspReceive stn msg => exact execRegrspReceive_keeps stn msg s
  | wrackReceive stn msg => exact execWrackReceive_keeps stn msg s
  | echorspReceive stn msg roundTrip => exact execEchorspReceive_keeps stn msg roundTrip s
  | linkBlockError stn hdr => exact execLinkBlockError_keeps stn hdr s
  | wrdataSend stn side count => exact execWrdataSend_keeps stn side count s
  | wrdataRetransmit stn side => exact execWrdataRetransmit_keeps stn side s
  | stepSend stn side count => exact execStepSend_keeps stn side count s
  | stepRetransmit stn => exact execStepRetransmit_keeps stn s
  | stopSend stn side0 side1 => exact execStopSend_keeps stn side0 side1 s
  | echoSend stn => exact execEchoSend_keeps stn s
  | feRegAccess stn write => exact execFeRegAccess_keeps stn write s
  | feRegTimeout stn => exact execFeRegTimeout_keeps stn s
  | linkEnable stn => exact execLinkEnable_keeps stn s
  | linkDisable stn => exact execLinkDisable_keeps stn s
  | trainingBatchOpen batch => exact execTrainingBatchOpen_keeps batch s
  | trainingBatchClose batch => exact execTrainingBatchClose_keeps batch s
  | linkTrainDetected stn => exact execLinkTrainDetected_keeps stn s
  | linkBlockLock stn lane0 lane1 => exact execLinkBlockLock_keeps stn lane0 lane1 s
  | linkDeskewDone stn skew => exact execLinkDeskewDone_keeps stn skew s
  | linkIdentifyDone stn feId feRev feLat feBuf feBoot => exact execLinkIdentifyDone_keeps stn feId feRev feLat feBuf feBoot s
  | linkMeasureDone stn echoes => exact execLinkMeasureDone_keeps stn echoes s
  | linkTrainTimeout stn => exact execLinkTrainTimeout_keeps stn s
  | linkRetry stn => exact execLinkRetry_keeps stn s
  | linkRetryTimeout stn => exact execLinkRetryTimeout_keeps stn s
  | retrainRequest stn => exact execRetrainRequest_keeps stn s
  | retrainStart stn => exact execRetrainStart_keeps stn s
  | linkRelease stn => exact execLinkRelease_keeps stn s
  | linkLoss stn sensors => exact execLinkLoss_keeps stn sensors s
  | linkDegradedWindow stn => exact execLinkDegradedWindow_keeps stn s
  | zoneResolve disc side layer zone found => exact execZoneResolve_keeps disc side layer zone found s
  | sliceAssign stn side => exact execSliceAssign_keeps stn side s
  | sliceWait stn side => exact execSliceWait_keeps stn side s
  | sliceRelease slice => exact execSliceRelease_keeps slice s
  | sliceReleaseRequest slice => exact execSliceReleaseRequest_keeps slice s
  | sliceStatClear slice => exact execSliceStatClear_keeps slice s
  | sliceModeChange slice => exact execSliceModeChange_keeps slice s
  | eqCommit slice => exact execEqCommit_keeps slice s
  | eqCommitCopy slice => exact execEqCommitCopy_keeps slice s
  | eqShadowWrite slice filter tap coef => exact execEqShadowWrite_keeps slice filter tap coef s
  | frameDecode slice slot => exact execFrameDecode_keeps slice slot s
  | frameEncode slice => exact execFrameEncode_keeps slice s
  | slotVerify slice => exact execSlotVerify_keeps slice s
  | rateMatchTick slice => exact execRateMatchTick_keeps slice s
  | readPause slice => exact execReadPause_keeps slice s
  | readResume slice => exact execReadResume_keeps slice s
  | holdStep slice => exact execHoldStep_keeps slice s
  | oneTrackStep stn side => exact execOneTrackStep_keeps stn side s
  | ladderRungDecode slice slot => exact execLadderRungDecode_keeps slice slot s
  | rowShiftSearch slice slot => exact execRowShiftSearch_keeps slice slot s
  | ladderBudgetExpire sq tag => exact execLadderBudgetExpire_keeps sq tag s
  | ladderSlotClaim slice slot => exact execLadderSlotClaim_keeps slice slot s
  | ladderReread slice slot => exact execLadderReread_keeps slice slot s
  | rereadDecode slice slot => exact execRereadDecode_keeps slice slot s
  | softCombine slice slot => exact execSoftCombine_keeps slice slot s
  | outerErasureDecode slice slot => exact execOuterErasureDecode_keeps slice slot s
  | loopLaneRun lane bad => exact execLoopLaneRun_keeps lane bad s
  | loopOverrun lane => exact execLoopOverrun_keeps lane s
  | loopParamCopy => exact execLoopParamCopy_keeps s
  | loopSlotEnable slot ctrl => exact execLoopSlotEnable_keeps slot ctrl s
  | loopSlotDisable slot => exact execLoopSlotDisable_keeps slot s
  | loopDescWrite slot word data => exact execLoopDescWrite_keeps slot word data s
  | loopBankWrite slot bank word data => exact execLoopBankWrite_keeps slot bank word data s
  | loopSwapSlot slot mode => exact execLoopSwapSlot_keeps slot mode s
  | loopSwapGroup mode => exact execLoopSwapGroup_keeps mode s
  | loopSwapExecute slot => exact execLoopSwapExecute_keeps slot s
  | loopSatClear => exact execLoopSatClear_keeps s
  | safeProgramDone => exact execSafeProgramDone_keeps s
  | headAcquire stn side => exact execHeadAcquire_keeps stn side s
  | headSeek stn side => exact execHeadSeek_keeps stn side s
  | headLayer stn side => exact execHeadLayer_keeps stn side s
  | headPark stn side => exact execHeadPark_keeps stn side s
  | headOpc stn side => exact execHeadOpc_keeps stn side s
  | headClearFault stn side => exact execHeadClearFault_keeps stn side s
  | seekRequest stn side slot cmd => exact execSeekRequest_keeps stn side slot cmd s
  | layerJumpRequest stn side layer cmd => exact execLayerJumpRequest_keeps stn side layer cmd s
  | acqStageLocked stn side w1 w2 apart => exact execAcqStageLocked_keeps stn side w1 w2 apart s
  | acqStageTimeout stn side => exact execAcqStageTimeout_keeps stn side s
  | seekJumpDone stn side => exact execSeekJumpDone_keeps stn side s
  | longSeekSettled stn side w1 w2 apart => exact execLongSeekSettled_keeps stn side w1 w2 apart s
  | seekRestart stn side => exact execSeekRestart_keeps stn side s
  | layerMoveEnd stn side => exact execLayerMoveEnd_keeps stn side s
  | relayLocked stn side => exact execRelayLocked_keeps stn side s
  | layerJumpTimeout stn side => exact execLayerJumpTimeout_keeps stn side s
  | lockLoss stn side lock => exact execLockLoss_keeps stn side lock s
  | headRecoveryDone stn side => exact execHeadRecoveryDone_keeps stn side s
  | headRecoveryTimeout stn side => exact execHeadRecoveryTimeout_keeps stn side s
  | powerLimitDetect stn side write => exact execPowerLimitDetect_keeps stn side write s
  | opcTrigger stn side => exact execOpcTrigger_keeps stn side s
  | opcReadback stn side => exact execOpcReadback_keeps stn side s
  | headParkDone stn side => exact execHeadParkDone_keeps stn side s
  | mountComplete stn sideA sideB rebuiltA rebuiltB => exact execMountComplete_keeps stn sideA sideB rebuiltA rebuiltB s
  | spindleTargetWrite stn rpm => exact execSpindleTargetWrite_keeps stn rpm s
  | spindleSenseEnd stn => exact execSpindleSenseEnd_keeps stn s
  | spindleWaitSlowEnd stn => exact execSpindleWaitSlowEnd_keeps stn s
  | spindleRevBrakeEnd stn => exact execSpindleRevBrakeEnd_keeps stn s
  | spindleAlignStart stn => exact execSpindleAlignStart_keeps stn s
  | spindleAlignEnd stn => exact execSpindleAlignEnd_keeps stn s
  | spindleHandover stn => exact execSpindleHandover_keeps stn s
  | spindleCatchDone stn => exact execSpindleCatchDone_keeps stn s
  | spindleAttemptFail stn => exact execSpindleAttemptFail_keeps stn s
  | spindleRetry stn => exact execSpindleRetry_keeps stn s
  | spindleLockedRotor stn => exact execSpindleLockedRotor_keeps stn s
  | spindleObserverLoss stn => exact execSpindleObserverLoss_keeps stn s
  | spindleReacquired stn => exact execSpindleReacquired_keeps stn s
  | spindleReacqTimeout stn => exact execSpindleReacqTimeout_keeps stn s
  | spindleVbusChange stn => exact execSpindleVbusChange_keeps stn s
  | spindleBrakeEnd stn => exact execSpindleBrakeEnd_keeps stn s
  | spindleHoldEnd stn => exact execSpindleHoldEnd_keeps stn s
  | spindleBrakeTimeout stn => exact execSpindleBrakeTimeout_keeps stn s
  | spindleAtSpeed stn => exact execSpindleAtSpeed_keeps stn s
  | phaseLockChange stn => exact execPhaseLockChange_keeps stn s
  | spindleClearFault stn => exact execSpindleClearFault_keeps stn s
  | axisMove axis => exact execAxisMove_keeps axis s
  | axisStop axis => exact execAxisStop_keeps axis s
  | axisHome axis => exact execAxisHome_keeps axis s
  | axisClear axis => exact execAxisClear_keeps axis s
  | axisTargetWrite axis value => exact execAxisTargetWrite_keeps axis value s
  | axisMoveDone axis => exact execAxisMoveDone_keeps axis s
  | axisHomeDone axis found rise fall => exact execAxisHomeDone_keeps axis found rise fall s
  | axisFaultInput driver level => exact execAxisFaultInput_keeps driver level s
  | motionStopAll => exact execMotionStopAll_keeps s
  | libraryEnable => exact execLibraryEnable_keeps s
  | doorRequestOpen => exact execDoorRequestOpen_keeps s
  | doorRequestLock closed => exact execDoorRequestLock_keeps closed s
  | doorLockConfirmed => exact execDoorLockConfirmed_keeps s
  | doorOpenedUnexpected closed => exact execDoorOpenedUnexpected_keeps closed s
  | doorWaitTimeout sq tag => exact execDoorWaitTimeout_keeps sq tag s
  | transferStart => exact execTransferStart_keeps s
  | transferProgress picker slot disc jaw => exact execTransferProgress_keeps picker slot disc jaw s
  | transferWaitTimeout sq tag => exact execTransferWaitTimeout_keeps sq tag s
  | transferResolve picker inJaws atSrc atDst => exact execTransferResolve_keeps picker inJaws atSrc atDst s
  | inventoryComplete dt present => exact execInventoryComplete_keeps dt present s
  | cascadeEnable => exact execCascadeEnable_keeps s
  | cascadeForget => exact execCascadeForget_keeps s
  | cascPortUp port echoes whole => exact execCascPortUp_keeps port echoes whole s
  | cascPortDown port errs => exact execCascPortDown_keeps port errs s
  | announceSend => exact execAnnounceSend_keeps s
  | announceReceive port intact serial shared version hops => exact execAnnounceReceive_keeps port intact serial shared version hops s
  | joinReceive port hops msg => exact execJoinReceive_keeps port hops msg s
  | membersReceive port msg => exact execMembersReceive_keeps port msg s
  | syncReceive dt port intact origin acc locked hops residence => exact execSyncReceive_keeps dt port intact origin acc locked hops residence s
  | ringCmdReceive port msg => exact execRingCmdReceive_keeps port msg s
  | ringFrameReceive port msg => exact execRingFrameReceive_keeps port msg s
  | ringCatReceive port msg => exact execRingCatReceive_keeps port msg s
  | ringLibReceive port msg => exact execRingLibReceive_keeps port msg s
  | ringAckReceive port msg => exact execRingAckReceive_keeps port msg s
  | ringMessageForward port mtype msg => exact execRingMessageForward_keeps port mtype msg s
  | ringRetransmit dst => exact execRingRetransmit_keeps dst s
  | memberAbsent cell => exact execMemberAbsent_keeps cell s
  | masterLost => exact execMasterLost_keeps s
  | stackSyncTimeout => exact execStackSyncTimeout_keeps s
  | crossCellTimeout sq tag => exact execCrossCellTimeout_keeps sq tag s
  | proxyDeliver cell => exact execProxyDeliver_keeps cell s
  | hostLinkUp rate width cxl => exact execHostLinkUp_keeps rate width cxl s
  | hostEndpointReset perst => exact execHostEndpointReset_keeps perst s
  | configRequest req => exact execConfigRequest_keeps req s
  | hdmDecoderCommit ways size => exact execHdmDecoderCommit_keeps ways size s
  | hdmHostRead line => exact execHdmHostRead_keeps line s
  | hdmHostWrite line data mask poison => exact execHdmHostWrite_keeps line data mask poison s
  | peerRequest off len reqId data => exact execPeerRequest_keeps off len reqId data s
  | peerWindowCommit => exact execPeerWindowCommit_keeps s
  | peerCommitEffect => exact execPeerCommitEffect_keeps s
  | translationCompletion pasid addr grant => exact execTranslationCompletion_keeps pasid addr grant s
  | atsInvalidate pasid addr size itag delayUs => exact execAtsInvalidate_keeps pasid addr size itag delayUs s
  | hostCacheError queue tag => exact execHostCacheError_keeps queue tag s
  | completionWrite entry => exact execCompletionWrite_keeps entry s
  | msixSend entry => exact execMsixSend_keeps entry s
  | msixUnmask vector => exact execMsixUnmask_keeps vector s
  | cqFullTimeout entry => exact execCqFullTimeout_keeps entry s
  | smbIdentify => exact execSmbIdentify_keeps s
  | smbHealth => exact execSmbHealth_keeps s
  | smbSetOffset offset pec => exact execSmbSetOffset_keeps offset pec s
  | smbReadReg => exact execSmbReadReg_keeps s
  | smbWake value pec intact => exact execSmbWake_keeps value pec intact s
  | doorbellWrite queue value => exact execDoorbellWrite_keeps queue value s
  | commandFetch pkt => exact execCommandFetch_keeps pkt s
  | commandStart queue tag => exact execCommandStart_keeps queue tag s
  | nop queue tag => exact execNop_keeps queue tag s
  | identify queue tag => exact execIdentify_keeps queue tag s
  | getLog queue tag => exact execGetLog_keeps queue tag s
  | setFeature queue tag => exact execSetFeature_keeps queue tag s
  | getFeature queue tag => exact execGetFeature_keeps queue tag s
  | abort queue tag => exact execAbort_keeps queue tag s
  | read queue tag sgl => exact execRead_keeps queue tag sgl s
  | write queue tag sgl => exact execWrite_keeps queue tag sgl s
  | verify queue tag => exact execVerify_keeps queue tag s
  | flush queue tag => exact execFlush_keeps queue tag s
  | zoneClose queue tag => exact execZoneClose_keeps queue tag s
  | discFinalize queue tag => exact execDiscFinalize_keeps queue tag s
  | bufferAlloc queue tag => exact execBufferAlloc_keeps queue tag s
  | bufferRelease queue tag => exact execBufferRelease_keeps queue tag s
  | bufferShare queue tag => exact execBufferShare_keeps queue tag s
  | mount queue tag => exact execMount_keeps queue tag s
  | unmount queue tag => exact execUnmount_keeps queue tag s
  | move queue tag => exact execMove_keeps queue tag s
  | inventory queue tag => exact execInventory_keeps queue tag s
  | timeSet queue tag => exact execTimeSet_keeps queue tag s
  | timeGet queue tag => exact execTimeGet_keeps queue tag s
  | tallyRead queue tag => exact execTallyRead_keeps queue tag s
  | tallyAck queue tag => exact execTallyAck_keeps queue tag s
  | fwDownload queue tag words => exact execFwDownload_keeps queue tag words s
  | fwActivate queue tag keyOk sigOk => exact execFwActivate_keeps queue tag keyOk sigOk s
  | modeSet queue tag => exact execModeSet_keeps queue tag s
  | stationDiag queue tag => exact execStationDiag_keeps queue tag s
  | createCq => exact execCreateCq_keeps s
  | deleteCq => exact execDeleteCq_keeps s
  | createSq => exact execCreateSq_keeps s
  | deleteSq => exact execDeleteSq_keeps s
  | deleteSqComplete => exact execDeleteSqComplete_keeps s
  | setGroup => exact execSetGroup_keeps s
  | queryCq => exact execQueryCq_keeps s
  | querySq => exact execQuerySq_keeps s
  | queryGroup => exact execQueryGroup_keeps s
  | copyBufferGrant => exact execCopyBufferGrant_keeps s
  | bpmEnable => exact execBpmEnable_keeps s
  | bpmDisable => exact execBpmDisable_keeps s
  | dmaChannelStart src ch => exact execDmaChannelStart_keeps src ch s
  | dmaChannelRun engine => exact execDmaChannelRun_keeps engine s
  | dmaDescriptorEnd engine result => exact execDmaDescriptorEnd_keeps engine result s
  | dmaBusRetry engine result => exact execDmaBusRetry_keeps engine result s
  | dmaChannelReset src ch => exact execDmaChannelReset_keeps src ch s
  | dramTrainingDone chans => exact execDramTrainingDone_keeps chans s
  | dramInitDone dt => exact execDramInitDone_keeps dt s
  | scrubStep obs => exact execScrubStep_keeps obs s
  | selfRefreshEnter => exact execSelfRefreshEnter_keeps s
  | mergeBufferDrain acts => exact execMergeBufferDrain_keeps acts s
  | cacheInvalidate src force => exact execCacheInvalidate_keeps src force s
  | cacheDrain src force => exact execCacheDrain_keeps src force s
  | cacheDrainInvalidate src force => exact execCacheDrainInvalidate_keeps src force s
  | cacheLoadLock src force => exact execCacheLoadLock_keeps src force s
  | cacheOpDone dt => exact execCacheOpDone_keeps dt s
  | cacheWayLockWrite src mask => exact execCacheWayLockWrite_keeps src mask s
  | cacheWayPowerWrite src on => exact execCacheWayPowerWrite_keeps src on s
  | eccInjectArm cw double => exact execEccInjectArm_keeps cw double s
  | flashProgram word value mask => exact execFlashProgram_keeps word value mask s
  | flashSectorErase sector => exact execFlashSectorErase_keeps sector s
  | flashSuspend => exact execFlashSuspend_keeps s
  | flashResume => exact execFlashResume_keeps s
  | flashReadArray => exact execFlashReadArray_keeps s
  | flashProgramDone dt => exact execFlashProgramDone_keeps dt s
  | flashEraseDone dt pulses fails => exact execFlashEraseDone_keeps dt pulses fails s
  | erasePendingLong => exact execErasePendingLong_keeps s
  | bootSelect imgA imgB => exact execBootSelect_keeps imgA imgB s
  | journalReplay => exact execJournalReplay_keeps s
  | journalReclaim => exact execJournalReclaim_keeps s
  | frontierSearch disc side layer zone found => exact execFrontierSearch_keeps disc side layer zone found s
  | pwrfailAssert => exact execPwrfailAssert_keeps s
  | pfJournalWrite dt => exact execPfJournalWrite_keeps dt s
  | pwrfailDeassert => exact execPwrfailDeassert_keeps s
  | pwrfailRecover => exact execPwrfailRecover_keeps s
  | supplyFault dt => exact execSupplyFault_keeps dt s
  | wake srcs intact => exact execWake_keeps srcs intact s
  | modeTransitionDone romOk katOk => exact execModeTransitionDone_keeps romOk katOk s
  | fwReady slots stns ember => exact execFwReady_keeps slots stns ember s
  | watchdogKick => exact execWatchdogKick_keeps s
  | watchdogExpire => exact execWatchdogExpire_keeps s
  | thermalReading dt temps => exact execThermalReading_keeps dt temps s
  | thermalExit => exact execThermalExit_keeps s
  | thermtrip => exact execThermtrip_keeps s
  | powerCapEstimate dt own => exact execPowerCapEstimate_keeps dt own s
  | capExceeded => exact execCapExceeded_keeps s
  | eventLogCopy => exact execEventLogCopy_keeps s
  | eventInterrupt => exact execEventInterrupt_keeps s
  | tallyStart romOk katOk => exact execTallyStart_keeps romOk katOk s
  | tallyMinuteBoundary lost => exact execTallyMinuteBoundary_keeps lost s
  | tallyMsSample => exact execTallyMsSample_keeps s
  | tallyTapEvent test => exact execTallyTapEvent_keeps test s
  | tallyRecordProgram bad => exact execTallyRecordProgram_keeps bad s
  | tallySectorErase => exact execTallySectorErase_keeps s
  | tallyPfClose low => exact execTallyPfClose_keeps low s
  | tallySeal dt level ok1 ok2 => exact execTallySeal_keeps dt level ok1 ok2 s
  | calTrigger kind inst => exact execCalTrigger_keeps kind inst s
  | calRunAll => exact execCalRunAll_keeps s
  | calPortRun port runA runB => exact execCalPortRun_keeps port runA runB s
  | calPortApply port => exact execCalPortApply_keeps port s
  | calSliceRunDone stn side => exact execCalSliceRunDone_keeps stn side s
  | calSliceApply stn side => exact execCalSliceApply_keeps stn side s
  | calTrimRun stn side => exact execCalTrimRun_keeps stn side s
  | calTrimApply stn side => exact execCalTrimApply_keeps stn side s
  | calStore kind inst => exact execCalStore_keeps kind inst s
  | kilnEnd => exact execKilnEnd_keeps s
  | kilnTimeout => exact execKilnTimeout_keeps s
  | fwActivateReset => exact execFwActivateReset_keeps s
  | trialConfirm => exact execTrialConfirm_keeps s
  | trialTimeout => exact execTrialTimeout_keeps s
  | flashSeqError => exact execFlashSeqError_keeps s
  | ringEchoReceive port seq turn => exact execRingEchoReceive_keeps port seq turn s
  | referenceClockLost => exact execReferenceClockLost_keeps s
  | pickerDiscFall picker => exact execPickerDiscFall_keeps picker s

end Sys2Proof.Machine
end

