-- ==== Sys2Proof/Laws/State.lean ====
section
/-!
SUPPORT. What the updates of the state leave as it was, and what is read after them: one lemma for each update and each component.
-/

set_option Elab.async false

namespace Sys2Proof.Machine

/-! ### Register fields -/

theorem State.rd_wr (s : State) (f g : Fld) (i j v : Nat) :
    (s.wr f i v).rd g j = if f.key i = g.key j then v % 2 ^ f.w else s.rd g j := by
  simp only [State.rd, State.wr, mget_mput]

@[simp] theorem State.rd_wr_same (s : State) (f : Fld) (i v : Nat) : (s.wr f i v).rd f i = v % 2 ^ f.w := by
  rw [State.rd_wr, if_pos rfl]

theorem State.rd_wr_inst (s : State) (f : Fld) (i j v : Nat) (h : i ≠ j) : (s.wr f i v).rd f j = s.rd f j := by
  rw [State.rd_wr, if_neg]
  intro e
  simp only [Fld.key] at e
  omega

/-- A field keeps its value when another field is written. -/
theorem State.rd_wr_ne (s : State) (f g : Fld) (i j v : Nat) (h : f.id % 8192 ≠ g.id % 8192) : (s.wr f i v).rd g j = s.rd g j := by
  rw [State.rd_wr, if_neg]
  intro e
  apply h
  simp only [Fld.key] at e
  omega

@[simp] theorem State.rd_set1 (s : State) (f : Fld) (i : Nat) : (s.set1 f i).rd f i = 1 % 2 ^ f.w := State.rd_wr_same ..

@[simp] theorem State.rd_clr (s : State) (f : Fld) (i : Nat) : (s.clr f i).rd f i = 0 := by
  rw [State.clr, State.rd_wr_same, Nat.zero_mod]

@[simp] theorem State.rd_wrB (s : State) (f : Fld) (i : Nat) (b : Bool) : (s.wrB f i b).rd f i = (if b then 1 else 0) % 2 ^ f.w :=
  State.rd_wr_same ..

theorem State.rd_set1_ne (s : State) (f g : Fld) (i j : Nat) (h : f.id % 8192 ≠ g.id % 8192) : (s.set1 f i).rd g j = s.rd g j :=
  s.rd_wr_ne f g i j 1 h

theorem State.rd_clr_ne (s : State) (f g : Fld) (i j : Nat) (h : f.id % 8192 ≠ g.id % 8192) : (s.clr f i).rd g j = s.rd g j :=
  s.rd_wr_ne f g i j 0 h

theorem State.rd_wrB_ne (s : State) (f g : Fld) (i j : Nat) (b : Bool) (h : f.id % 8192 ≠ g.id % 8192) :
    (s.wrB f i b).rd g j = s.rd g j := s.rd_wr_ne f g i j _ h

theorem State.rd_bump_ne (s : State) (f g : Fld) (i j n : Nat) (h : f.id % 8192 ≠ g.id % 8192) :
    (s.bump f i n).rd g j = s.rd g j := s.rd_wr_ne f g i j _ h

theorem State.rd_orBits_ne (s : State) (f g : Fld) (i j n : Nat) (h : f.id % 8192 ≠ g.id % 8192) :
    (s.orBits f i n).rd g j = s.rd g j := s.rd_wr_ne f g i j _ h

theorem State.rd_wrS_ne (s : State) (f g : Fld) (i j : Nat) (v : Int) (h : f.id % 8192 ≠ g.id % 8192) :
    (s.wrS f i v).rd g j = s.rd g j := s.rd_wr_ne f g i j _ h

/-! ### Records of the sparse maps -/

@[simp] theorem State.putStn_stn (s : State) (n : Nat) (x : Stn) : (s.putStn n x).stn n = x := mget_mput_same _ _ _ _

@[simp] theorem State.putSlice_slice (s : State) (n : Nat) (x : Slice) : (s.putSlice n x).slice n = x := mget_mput_same _ _ _ _

@[simp] theorem State.putZone_zone (s : State) (n : Nat) (x : Zone) : (s.putZone n x).zone n = x := mget_mput_same _ _ _ _

@[simp] theorem State.putDisc_disc (s : State) (n : Nat) (x : Disc) : (s.putDisc n x).disc n = x := mget_mput_same _ _ _ _

@[simp] theorem State.putHead_head (s : State) (n : Nat) (x : Head) : (s.putHead n x).head n = x := mget_mput_same _ _ _ _

@[simp] theorem State.putSpin_spin (s : State) (n : Nat) (x : Spin) : (s.putSpin n x).spin n = x := mget_mput_same _ _ _ _

@[simp] theorem State.putAxis_axis (s : State) (n : Nat) (x : Axis) : (s.putAxis n x).axis n = x := mget_mput_same _ _ _ _

/-! ### Components that an update leaves -/

@[simp] theorem State.wr_pending (s : State) (f : Fld) (i v : Nat) : (s.wr f i v).pending = s.pending := rfl
@[simp] theorem State.wr_now (s : State) (f : Fld) (i v : Nat) : (s.wr f i v).now = s.now := rfl
@[simp] theorem State.wr_out (s : State) (f : Fld) (i v : Nat) : (s.wr f i v).out = s.out := rfl
@[simp] theorem State.wr_free (s : State) (f : Fld) (i v : Nat) : (s.wr f i v).free = s.free := rfl
@[simp] theorem State.wr_ev (s : State) (f : Fld) (i v : Nat) : (s.wr f i v).ev = s.ev := rfl
@[simp] theorem State.wr_tb (s : State) (f : Fld) (i v : Nat) : (s.wr f i v).tb = s.tb := rfl
@[simp] theorem State.wr_pw (s : State) (f : Fld) (i v : Nat) : (s.wr f i v).pw = s.pw := rfl
@[simp] theorem State.wr_sealed (s : State) (f : Fld) (i v : Nat) : (s.wr f i v).sealed = s.sealed := rfl
@[simp] theorem State.wr_stns (s : State) (f : Fld) (i v : Nat) : (s.wr f i v).stns = s.stns := rfl
@[simp] theorem State.wr_seekQ (s : State) (f : Fld) (i v : Nat) : (s.wr f i v).seekQ = s.seekQ := rfl
@[simp] theorem State.wr_slices (s : State) (f : Fld) (i v : Nat) : (s.wr f i v).slices = s.slices := rfl
@[simp] theorem State.wr_headWait (s : State) (f : Fld) (i v : Nat) : (s.wr f i v).headWait = s.headWait := rfl
@[simp] theorem State.wr_discs (s : State) (f : Fld) (i v : Nat) : (s.wr f i v).discs = s.discs := rfl
@[simp] theorem State.wr_zones (s : State) (f : Fld) (i v : Nat) : (s.wr f i v).zones = s.zones := rfl
@[simp] theorem State.wr_held (s : State) (f : Fld) (i v : Nat) : (s.wr f i v).held = s.held := rfl
@[simp] theorem State.wr_cmds (s : State) (f : Fld) (i v : Nat) : (s.wr f i v).cmds = s.cmds := rfl
@[simp] theorem State.wr_cmdSeq (s : State) (f : Fld) (i v : Nat) : (s.wr f i v).cmdSeq = s.cmdSeq := rfl
@[simp] theorem State.wr_sqs (s : State) (f : Fld) (i v : Nat) : (s.wr f i v).sqs = s.sqs := rfl
@[simp] theorem State.wr_cqs (s : State) (f : Fld) (i v : Nat) : (s.wr f i v).cqs = s.cqs := rfl
@[simp] theorem State.wr_grps (s : State) (f : Fld) (i v : Nat) : (s.wr f i v).grps = s.grps := rfl
@[simp] theorem State.wr_profs (s : State) (f : Fld) (i v : Nat) : (s.wr f i v).profs = s.profs := rfl
@[simp] theorem State.wr_rrGroup (s : State) (f : Fld) (i v : Nat) : (s.wr f i v).rrGroup = s.rrGroup := rfl
@[simp] theorem State.wr_rrQueue (s : State) (f : Fld) (i v : Nat) : (s.wr f i v).rrQueue = s.rrQueue := rfl
@[simp] theorem State.wr_rrLeft (s : State) (f : Fld) (i v : Nat) : (s.wr f i v).rrLeft = s.rrLeft := rfl
@[simp] theorem State.wr_ladders (s : State) (f : Fld) (i v : Nat) : (s.wr f i v).ladders = s.ladders := rfl
@[simp] theorem State.wr_ladderWait (s : State) (f : Fld) (i v : Nat) : (s.wr f i v).ladderWait = s.ladderWait := rfl
@[simp] theorem State.wr_damage (s : State) (f : Fld) (i v : Nat) : (s.wr f i v).damage = s.damage := rfl
@[simp] theorem State.wr_damageSeq (s : State) (f : Fld) (i v : Nat) : (s.wr f i v).damageSeq = s.damageSeq := rfl
@[simp] theorem State.wr_mem (s : State) (f : Fld) (i v : Nat) : (s.wr f i v).mem = s.mem := rfl
@[simp] theorem State.wr_bufs (s : State) (f : Fld) (i v : Nat) : (s.wr f i v).bufs = s.bufs := rfl
@[simp] theorem State.wr_gens (s : State) (f : Fld) (i v : Nat) : (s.wr f i v).gens = s.gens := rfl
@[simp] theorem State.wr_pools (s : State) (f : Fld) (i v : Nat) : (s.wr f i v).pools = s.pools := rfl
@[simp] theorem State.wr_copyWait (s : State) (f : Fld) (i v : Nat) : (s.wr f i v).copyWait = s.copyWait := rfl
@[simp] theorem State.wr_engines (s : State) (f : Fld) (i v : Nat) : (s.wr f i v).engines = s.engines := rfl
@[simp] theorem State.wr_chanJobs (s : State) (f : Fld) (i v : Nat) : (s.wr f i v).chanJobs = s.chanJobs := rfl
@[simp] theorem State.wr_jq (s : State) (f : Fld) (i v : Nat) : (s.wr f i v).jq = s.jq := rfl
@[simp] theorem State.wr_mgmtQ (s : State) (f : Fld) (i v : Nat) : (s.wr f i v).mgmtQ = s.mgmtQ := rfl
@[simp] theorem State.wr_loop (s : State) (f : Fld) (i v : Nat) : (s.wr f i v).loop = s.loop := rfl
@[simp] theorem State.wr_heads (s : State) (f : Fld) (i v : Nat) : (s.wr f i v).heads = s.heads := rfl
@[simp] theorem State.wr_spins (s : State) (f : Fld) (i v : Nat) : (s.wr f i v).spins = s.spins := rfl
@[simp] theorem State.wr_axes (s : State) (f : Fld) (i v : Nat) : (s.wr f i v).axes = s.axes := rfl
@[simp] theorem State.wr_lib (s : State) (f : Fld) (i v : Nat) : (s.wr f i v).lib = s.lib := rfl
@[simp] theorem State.wr_cals (s : State) (f : Fld) (i v : Nat) : (s.wr f i v).cals = s.cals := rfl
@[simp] theorem State.wr_stack (s : State) (f : Fld) (i v : Nat) : (s.wr f i v).stack = s.stack := rfl
@[simp] theorem State.wr_hep (s : State) (f : Fld) (i v : Nat) : (s.wr f i v).hep = s.hep := rfl
@[simp] theorem State.wr_ms (s : State) (f : Fld) (i v : Nat) : (s.wr f i v).ms = s.ms := rfl
@[simp] theorem State.wr_flash (s : State) (f : Fld) (i v : Nat) : (s.wr f i v).flash = s.flash := rfl
@[simp] theorem State.wr_tally (s : State) (f : Fld) (i v : Nat) : (s.wr f i v).tally = s.tally := rfl
@[simp] theorem State.wr_firm (s : State) (f : Fld) (i v : Nat) : (s.wr f i v).firm = s.firm := rfl

@[simp] theorem State.set1_pending (s : State) (f : Fld) (i : Nat) : (s.set1 f i).pending = s.pending := rfl
@[simp] theorem State.set1_now (s : State) (f : Fld) (i : Nat) : (s.set1 f i).now = s.now := rfl
@[simp] theorem State.set1_out (s : State) (f : Fld) (i : Nat) : (s.set1 f i).out = s.out := rfl
@[simp] theorem State.set1_free (s : State) (f : Fld) (i : Nat) : (s.set1 f i).free = s.free := rfl
@[simp] theorem State.set1_ev (s : State) (f : Fld) (i : Nat) : (s.set1 f i).ev = s.ev := rfl
@[simp] theorem State.set1_tb (s : State) (f : Fld) (i : Nat) : (s.set1 f i).tb = s.tb := rfl
@[simp] theorem State.set1_pw (s : State) (f : Fld) (i : Nat) : (s.set1 f i).pw = s.pw := rfl
@[simp] theorem State.set1_sealed (s : State) (f : Fld) (i : Nat) : (s.set1 f i).sealed = s.sealed := rfl
@[simp] theorem State.set1_stns (s : State) (f : Fld) (i : Nat) : (s.set1 f i).stns = s.stns := rfl
@[simp] theorem State.set1_seekQ (s : State) (f : Fld) (i : Nat) : (s.set1 f i).seekQ = s.seekQ := rfl
@[simp] theorem State.set1_slices (s : State) (f : Fld) (i : Nat) : (s.set1 f i).slices = s.slices := rfl
@[simp] theorem State.set1_headWait (s : State) (f : Fld) (i : Nat) : (s.set1 f i).headWait = s.headWait := rfl
@[simp] theorem State.set1_discs (s : State) (f : Fld) (i : Nat) : (s.set1 f i).discs = s.discs := rfl
@[simp] theorem State.set1_zones (s : State) (f : Fld) (i : Nat) : (s.set1 f i).zones = s.zones := rfl
@[simp] theorem State.set1_held (s : State) (f : Fld) (i : Nat) : (s.set1 f i).held = s.held := rfl
@[simp] theorem State.set1_cmds (s : State) (f : Fld) (i : Nat) : (s.set1 f i).cmds = s.cmds := rfl
@[simp] theorem State.set1_cmdSeq (s : State) (f : Fld) (i : Nat) : (s.set1 f i).cmdSeq = s.cmdSeq := rfl
@[simp] theorem State.set1_sqs (s : State) (f : Fld) (i : Nat) : (s.set1 f i).sqs = s.sqs := rfl
@[simp] theorem State.set1_cqs (s : State) (f : Fld) (i : Nat) : (s.set1 f i).cqs = s.cqs := rfl
@[simp] theorem State.set1_grps (s : State) (f : Fld) (i : Nat) : (s.set1 f i).grps = s.grps := rfl
@[simp] theorem State.set1_profs (s : State) (f : Fld) (i : Nat) : (s.set1 f i).profs = s.profs := rfl
@[simp] theorem State.set1_rrGroup (s : State) (f : Fld) (i : Nat) : (s.set1 f i).rrGroup = s.rrGroup := rfl
@[simp] theorem State.set1_rrQueue (s : State) (f : Fld) (i : Nat) : (s.set1 f i).rrQueue = s.rrQueue := rfl
@[simp] theorem State.set1_rrLeft (s : State) (f : Fld) (i : Nat) : (s.set1 f i).rrLeft = s.rrLeft := rfl
@[simp] theorem State.set1_ladders (s : State) (f : Fld) (i : Nat) : (s.set1 f i).ladders = s.ladders := rfl
@[simp] theorem State.set1_ladderWait (s : State) (f : Fld) (i : Nat) : (s.set1 f i).ladderWait = s.ladderWait := rfl
@[simp] theorem State.set1_damage (s : State) (f : Fld) (i : Nat) : (s.set1 f i).damage = s.damage := rfl
@[simp] theorem State.set1_damageSeq (s : State) (f : Fld) (i : Nat) : (s.set1 f i).damageSeq = s.damageSeq := rfl
@[simp] theorem State.set1_mem (s : State) (f : Fld) (i : Nat) : (s.set1 f i).mem = s.mem := rfl
@[simp] theorem State.set1_bufs (s : State) (f : Fld) (i : Nat) : (s.set1 f i).bufs = s.bufs := rfl
@[simp] theorem State.set1_gens (s : State) (f : Fld) (i : Nat) : (s.set1 f i).gens = s.gens := rfl
@[simp] theorem State.set1_pools (s : State) (f : Fld) (i : Nat) : (s.set1 f i).pools = s.pools := rfl
@[simp] theorem State.set1_copyWait (s : State) (f : Fld) (i : Nat) : (s.set1 f i).copyWait = s.copyWait := rfl
@[simp] theorem State.set1_engines (s : State) (f : Fld) (i : Nat) : (s.set1 f i).engines = s.engines := rfl
@[simp] theorem State.set1_chanJobs (s : State) (f : Fld) (i : Nat) : (s.set1 f i).chanJobs = s.chanJobs := rfl
@[simp] theorem State.set1_jq (s : State) (f : Fld) (i : Nat) : (s.set1 f i).jq = s.jq := rfl
@[simp] theorem State.set1_mgmtQ (s : State) (f : Fld) (i : Nat) : (s.set1 f i).mgmtQ = s.mgmtQ := rfl
@[simp] theorem State.set1_loop (s : State) (f : Fld) (i : Nat) : (s.set1 f i).loop = s.loop := rfl
@[simp] theorem State.set1_heads (s : State) (f : Fld) (i : Nat) : (s.set1 f i).heads = s.heads := rfl
@[simp] theorem State.set1_spins (s : State) (f : Fld) (i : Nat) : (s.set1 f i).spins = s.spins := rfl
@[simp] theorem State.set1_axes (s : State) (f : Fld) (i : Nat) : (s.set1 f i).axes = s.axes := rfl
@[simp] theorem State.set1_lib (s : State) (f : Fld) (i : Nat) : (s.set1 f i).lib = s.lib := rfl
@[simp] theorem State.set1_cals (s : State) (f : Fld) (i : Nat) : (s.set1 f i).cals = s.cals := rfl
@[simp] theorem State.set1_stack (s : State) (f : Fld) (i : Nat) : (s.set1 f i).stack = s.stack := rfl
@[simp] theorem State.set1_hep (s : State) (f : Fld) (i : Nat) : (s.set1 f i).hep = s.hep := rfl
@[simp] theorem State.set1_ms (s : State) (f : Fld) (i : Nat) : (s.set1 f i).ms = s.ms := rfl
@[simp] theorem State.set1_flash (s : State) (f : Fld) (i : Nat) : (s.set1 f i).flash = s.flash := rfl
@[simp] theorem State.set1_tally (s : State) (f : Fld) (i : Nat) : (s.set1 f i).tally = s.tally := rfl
@[simp] theorem State.set1_firm (s : State) (f : Fld) (i : Nat) : (s.set1 f i).firm = s.firm := rfl

@[simp] theorem State.clr_pending (s : State) (f : Fld) (i : Nat) : (s.clr f i).pending = s.pending := rfl
@[simp] theorem State.clr_now (s : State) (f : Fld) (i : Nat) : (s.clr f i).now = s.now := rfl
@[simp] theorem State.clr_out (s : State) (f : Fld) (i : Nat) : (s.clr f i).out = s.out := rfl
@[simp] theorem State.clr_free (s : State) (f : Fld) (i : Nat) : (s.clr f i).free = s.free := rfl
@[simp] theorem State.clr_ev (s : State) (f : Fld) (i : Nat) : (s.clr f i).ev = s.ev := rfl
@[simp] theorem State.clr_tb (s : State) (f : Fld) (i : Nat) : (s.clr f i).tb = s.tb := rfl
@[simp] theorem State.clr_pw (s : State) (f : Fld) (i : Nat) : (s.clr f i).pw = s.pw := rfl
@[simp] theorem State.clr_sealed (s : State) (f : Fld) (i : Nat) : (s.clr f i).sealed = s.sealed := rfl
@[simp] theorem State.clr_stns (s : State) (f : Fld) (i : Nat) : (s.clr f i).stns = s.stns := rfl
@[simp] theorem State.clr_seekQ (s : State) (f : Fld) (i : Nat) : (s.clr f i).seekQ = s.seekQ := rfl
@[simp] theorem State.clr_slices (s : State) (f : Fld) (i : Nat) : (s.clr f i).slices = s.slices := rfl
@[simp] theorem State.clr_headWait (s : State) (f : Fld) (i : Nat) : (s.clr f i).headWait = s.headWait := rfl
@[simp] theorem State.clr_discs (s : State) (f : Fld) (i : Nat) : (s.clr f i).discs = s.discs := rfl
@[simp] theorem State.clr_zones (s : State) (f : Fld) (i : Nat) : (s.clr f i).zones = s.zones := rfl
@[simp] theorem State.clr_held (s : State) (f : Fld) (i : Nat) : (s.clr f i).held = s.held := rfl
@[simp] theorem State.clr_cmds (s : State) (f : Fld) (i : Nat) : (s.clr f i).cmds = s.cmds := rfl
@[simp] theorem State.clr_cmdSeq (s : State) (f : Fld) (i : Nat) : (s.clr f i).cmdSeq = s.cmdSeq := rfl
@[simp] theorem State.clr_sqs (s : State) (f : Fld) (i : Nat) : (s.clr f i).sqs = s.sqs := rfl
@[simp] theorem State.clr_cqs (s : State) (f : Fld) (i : Nat) : (s.clr f i).cqs = s.cqs := rfl
@[simp] theorem State.clr_grps (s : State) (f : Fld) (i : Nat) : (s.clr f i).grps = s.grps := rfl
@[simp] theorem State.clr_profs (s : State) (f : Fld) (i : Nat) : (s.clr f i).profs = s.profs := rfl
@[simp] theorem State.clr_rrGroup (s : State) (f : Fld) (i : Nat) : (s.clr f i).rrGroup = s.rrGroup := rfl
@[simp] theorem State.clr_rrQueue (s : State) (f : Fld) (i : Nat) : (s.clr f i).rrQueue = s.rrQueue := rfl
@[simp] theorem State.clr_rrLeft (s : State) (f : Fld) (i : Nat) : (s.clr f i).rrLeft = s.rrLeft := rfl
@[simp] theorem State.clr_ladders (s : State) (f : Fld) (i : Nat) : (s.clr f i).ladders = s.ladders := rfl
@[simp] theorem State.clr_ladderWait (s : State) (f : Fld) (i : Nat) : (s.clr f i).ladderWait = s.ladderWait := rfl
@[simp] theorem State.clr_damage (s : State) (f : Fld) (i : Nat) : (s.clr f i).damage = s.damage := rfl
@[simp] theorem State.clr_damageSeq (s : State) (f : Fld) (i : Nat) : (s.clr f i).damageSeq = s.damageSeq := rfl
@[simp] theorem State.clr_mem (s : State) (f : Fld) (i : Nat) : (s.clr f i).mem = s.mem := rfl
@[simp] theorem State.clr_bufs (s : State) (f : Fld) (i : Nat) : (s.clr f i).bufs = s.bufs := rfl
@[simp] theorem State.clr_gens (s : State) (f : Fld) (i : Nat) : (s.clr f i).gens = s.gens := rfl
@[simp] theorem State.clr_pools (s : State) (f : Fld) (i : Nat) : (s.clr f i).pools = s.pools := rfl
@[simp] theorem State.clr_copyWait (s : State) (f : Fld) (i : Nat) : (s.clr f i).copyWait = s.copyWait := rfl
@[simp] theorem State.clr_engines (s : State) (f : Fld) (i : Nat) : (s.clr f i).engines = s.engines := rfl
@[simp] theorem State.clr_chanJobs (s : State) (f : Fld) (i : Nat) : (s.clr f i).chanJobs = s.chanJobs := rfl
@[simp] theorem State.clr_jq (s : State) (f : Fld) (i : Nat) : (s.clr f i).jq = s.jq := rfl
@[simp] theorem State.clr_mgmtQ (s : State) (f : Fld) (i : Nat) : (s.clr f i).mgmtQ = s.mgmtQ := rfl
@[simp] theorem State.clr_loop (s : State) (f : Fld) (i : Nat) : (s.clr f i).loop = s.loop := rfl
@[simp] theorem State.clr_heads (s : State) (f : Fld) (i : Nat) : (s.clr f i).heads = s.heads := rfl
@[simp] theorem State.clr_spins (s : State) (f : Fld) (i : Nat) : (s.clr f i).spins = s.spins := rfl
@[simp] theorem State.clr_axes (s : State) (f : Fld) (i : Nat) : (s.clr f i).axes = s.axes := rfl
@[simp] theorem State.clr_lib (s : State) (f : Fld) (i : Nat) : (s.clr f i).lib = s.lib := rfl
@[simp] theorem State.clr_cals (s : State) (f : Fld) (i : Nat) : (s.clr f i).cals = s.cals := rfl
@[simp] theorem State.clr_stack (s : State) (f : Fld) (i : Nat) : (s.clr f i).stack = s.stack := rfl
@[simp] theorem State.clr_hep (s : State) (f : Fld) (i : Nat) : (s.clr f i).hep = s.hep := rfl
@[simp] theorem State.clr_ms (s : State) (f : Fld) (i : Nat) : (s.clr f i).ms = s.ms := rfl
@[simp] theorem State.clr_flash (s : State) (f : Fld) (i : Nat) : (s.clr f i).flash = s.flash := rfl
@[simp] theorem State.clr_tally (s : State) (f : Fld) (i : Nat) : (s.clr f i).tally = s.tally := rfl
@[simp] theorem State.clr_firm (s : State) (f : Fld) (i : Nat) : (s.clr f i).firm = s.firm := rfl

@[simp] theorem State.wrB_pending (s : State) (f : Fld) (i : Nat) (b : Bool) : (s.wrB f i b).pending = s.pending := rfl
@[simp] theorem State.wrB_now (s : State) (f : Fld) (i : Nat) (b : Bool) : (s.wrB f i b).now = s.now := rfl
@[simp] theorem State.wrB_out (s : State) (f : Fld) (i : Nat) (b : Bool) : (s.wrB f i b).out = s.out := rfl
@[simp] theorem State.wrB_free (s : State) (f : Fld) (i : Nat) (b : Bool) : (s.wrB f i b).free = s.free := rfl
@[simp] theorem State.wrB_ev (s : State) (f : Fld) (i : Nat) (b : Bool) : (s.wrB f i b).ev = s.ev := rfl
@[simp] theorem State.wrB_tb (s : State) (f : Fld) (i : Nat) (b : Bool) : (s.wrB f i b).tb = s.tb := rfl
@[simp] theorem State.wrB_pw (s : State) (f : Fld) (i : Nat) (b : Bool) : (s.wrB f i b).pw = s.pw := rfl
@[simp] theorem State.wrB_sealed (s : State) (f : Fld) (i : Nat) (b : Bool) : (s.wrB f i b).sealed = s.sealed := rfl
@[simp] theorem State.wrB_stns (s : State) (f : Fld) (i : Nat) (b : Bool) : (s.wrB f i b).stns = s.stns := rfl
@[simp] theorem State.wrB_seekQ (s : State) (f : Fld) (i : Nat) (b : Bool) : (s.wrB f i b).seekQ = s.seekQ := rfl
@[simp] theorem State.wrB_slices (s : State) (f : Fld) (i : Nat) (b : Bool) : (s.wrB f i b).slices = s.slices := rfl
@[simp] theorem State.wrB_headWait (s : State) (f : Fld) (i : Nat) (b : Bool) : (s.wrB f i b).headWait = s.headWait := rfl
@[simp] theorem State.wrB_discs (s : State) (f : Fld) (i : Nat) (b : Bool) : (s.wrB f i b).discs = s.discs := rfl
@[simp] theorem State.wrB_zones (s : State) (f : Fld) (i : Nat) (b : Bool) : (s.wrB f i b).zones = s.zones := rfl
@[simp] theorem State.wrB_held (s : State) (f : Fld) (i : Nat) (b : Bool) : (s.wrB f i b).held = s.held := rfl
@[simp] theorem State.wrB_cmds (s : State) (f : Fld) (i : Nat) (b : Bool) : (s.wrB f i b).cmds = s.cmds := rfl
@[simp] theorem State.wrB_cmdSeq (s : State) (f : Fld) (i : Nat) (b : Bool) : (s.wrB f i b).cmdSeq = s.cmdSeq := rfl
@[simp] theorem State.wrB_sqs (s : State) (f : Fld) (i : Nat) (b : Bool) : (s.wrB f i b).sqs = s.sqs := rfl
@[simp] theorem State.wrB_cqs (s : State) (f : Fld) (i : Nat) (b : Bool) : (s.wrB f i b).cqs = s.cqs := rfl
@[simp] theorem State.wrB_grps (s : State) (f : Fld) (i : Nat) (b : Bool) : (s.wrB f i b).grps = s.grps := rfl
@[simp] theorem State.wrB_profs (s : State) (f : Fld) (i : Nat) (b : Bool) : (s.wrB f i b).profs = s.profs := rfl
@[simp] theorem State.wrB_rrGroup (s : State) (f : Fld) (i : Nat) (b : Bool) : (s.wrB f i b).rrGroup = s.rrGroup := rfl
@[simp] theorem State.wrB_rrQueue (s : State) (f : Fld) (i : Nat) (b : Bool) : (s.wrB f i b).rrQueue = s.rrQueue := rfl
@[simp] theorem State.wrB_rrLeft (s : State) (f : Fld) (i : Nat) (b : Bool) : (s.wrB f i b).rrLeft = s.rrLeft := rfl
@[simp] theorem State.wrB_ladders (s : State) (f : Fld) (i : Nat) (b : Bool) : (s.wrB f i b).ladders = s.ladders := rfl
@[simp] theorem State.wrB_ladderWait (s : State) (f : Fld) (i : Nat) (b : Bool) : (s.wrB f i b).ladderWait = s.ladderWait := rfl
@[simp] theorem State.wrB_damage (s : State) (f : Fld) (i : Nat) (b : Bool) : (s.wrB f i b).damage = s.damage := rfl
@[simp] theorem State.wrB_damageSeq (s : State) (f : Fld) (i : Nat) (b : Bool) : (s.wrB f i b).damageSeq = s.damageSeq := rfl
@[simp] theorem State.wrB_mem (s : State) (f : Fld) (i : Nat) (b : Bool) : (s.wrB f i b).mem = s.mem := rfl
@[simp] theorem State.wrB_bufs (s : State) (f : Fld) (i : Nat) (b : Bool) : (s.wrB f i b).bufs = s.bufs := rfl
@[simp] theorem State.wrB_gens (s : State) (f : Fld) (i : Nat) (b : Bool) : (s.wrB f i b).gens = s.gens := rfl
@[simp] theorem State.wrB_pools (s : State) (f : Fld) (i : Nat) (b : Bool) : (s.wrB f i b).pools = s.pools := rfl
@[simp] theorem State.wrB_copyWait (s : State) (f : Fld) (i : Nat) (b : Bool) : (s.wrB f i b).copyWait = s.copyWait := rfl
@[simp] theorem State.wrB_engines (s : State) (f : Fld) (i : Nat) (b : Bool) : (s.wrB f i b).engines = s.engines := rfl
@[simp] theorem State.wrB_chanJobs (s : State) (f : Fld) (i : Nat) (b : Bool) : (s.wrB f i b).chanJobs = s.chanJobs := rfl
@[simp] theorem State.wrB_jq (s : State) (f : Fld) (i : Nat) (b : Bool) : (s.wrB f i b).jq = s.jq := rfl
@[simp] theorem State.wrB_mgmtQ (s : State) (f : Fld) (i : Nat) (b : Bool) : (s.wrB f i b).mgmtQ = s.mgmtQ := rfl
@[simp] theorem State.wrB_loop (s : State) (f : Fld) (i : Nat) (b : Bool) : (s.wrB f i b).loop = s.loop := rfl
@[simp] theorem State.wrB_heads (s : State) (f : Fld) (i : Nat) (b : Bool) : (s.wrB f i b).heads = s.heads := rfl
@[simp] theorem State.wrB_spins (s : State) (f : Fld) (i : Nat) (b : Bool) : (s.wrB f i b).spins = s.spins := rfl
@[simp] theorem State.wrB_axes (s : State) (f : Fld) (i : Nat) (b : Bool) : (s.wrB f i b).axes = s.axes := rfl
@[simp] theorem State.wrB_lib (s : State) (f : Fld) (i : Nat) (b : Bool) : (s.wrB f i b).lib = s.lib := rfl
@[simp] theorem State.wrB_cals (s : State) (f : Fld) (i : Nat) (b : Bool) : (s.wrB f i b).cals = s.cals := rfl
@[simp] theorem State.wrB_stack (s : State) (f : Fld) (i : Nat) (b : Bool) : (s.wrB f i b).stack = s.stack := rfl
@[simp] theorem State.wrB_hep (s : State) (f : Fld) (i : Nat) (b : Bool) : (s.wrB f i b).hep = s.hep := rfl
@[simp] theorem State.wrB_ms (s : State) (f : Fld) (i : Nat) (b : Bool) : (s.wrB f i b).ms = s.ms := rfl
@[simp] theorem State.wrB_flash (s : State) (f : Fld) (i : Nat) (b : Bool) : (s.wrB f i b).flash = s.flash := rfl
@[simp] theorem State.wrB_tally (s : State) (f : Fld) (i : Nat) (b : Bool) : (s.wrB f i b).tally = s.tally := rfl
@[simp] theorem State.wrB_firm (s : State) (f : Fld) (i : Nat) (b : Bool) : (s.wrB f i b).firm = s.firm := rfl

@[simp] theorem State.bump_pending (s : State) (f : Fld) (i n : Nat) : (s.bump f i n).pending = s.pending := rfl
@[simp] theorem State.bump_now (s : State) (f : Fld) (i n : Nat) : (s.bump f i n).now = s.now := rfl
@[simp] theorem State.bump_out (s : State) (f : Fld) (i n : Nat) : (s.bump f i n).out = s.out := rfl
@[simp] theorem State.bump_free (s : State) (f : Fld) (i n : Nat) : (s.bump f i n).free = s.free := rfl
@[simp] theorem State.bump_ev (s : State) (f : Fld) (i n : Nat) : (s.bump f i n).ev = s.ev := rfl
@[simp] theorem State.bump_tb (s : State) (f : Fld) (i n : Nat) : (s.bump f i n).tb = s.tb := rfl
@[simp] theorem State.bump_pw (s : State) (f : Fld) (i n : Nat) : (s.bump f i n).pw = s.pw := rfl
@[simp] theorem State.bump_sealed (s : State) (f : Fld) (i n : Nat) : (s.bump f i n).sealed = s.sealed := rfl
@[simp] theorem State.bump_stns (s : State) (f : Fld) (i n : Nat) : (s.bump f i n).stns = s.stns := rfl
@[simp] theorem State.bump_seekQ (s : State) (f : Fld) (i n : Nat) : (s.bump f i n).seekQ = s.seekQ := rfl
@[simp] theorem State.bump_slices (s : State) (f : Fld) (i n : Nat) : (s.bump f i n).slices = s.slices := rfl
@[simp] theorem State.bump_headWait (s : State) (f : Fld) (i n : Nat) : (s.bump f i n).headWait = s.headWait := rfl
@[simp] theorem State.bump_discs (s : State) (f : Fld) (i n : Nat) : (s.bump f i n).discs = s.discs := rfl
@[simp] theorem State.bump_zones (s : State) (f : Fld) (i n : Nat) : (s.bump f i n).zones = s.zones := rfl
@[simp] theorem State.bump_held (s : State) (f : Fld) (i n : Nat) : (s.bump f i n).held = s.held := rfl
@[simp] theorem State.bump_cmds (s : State) (f : Fld) (i n : Nat) : (s.bump f i n).cmds = s.cmds := rfl
@[simp] theorem State.bump_cmdSeq (s : State) (f : Fld) (i n : Nat) : (s.bump f i n).cmdSeq = s.cmdSeq := rfl
@[simp] theorem State.bump_sqs (s : State) (f : Fld) (i n : Nat) : (s.bump f i n).sqs = s.sqs := rfl
@[simp] theorem State.bump_cqs (s : State) (f : Fld) (i n : Nat) : (s.bump f i n).cqs = s.cqs := rfl
@[simp] theorem State.bump_grps (s : State) (f : Fld) (i n : Nat) : (s.bump f i n).grps = s.grps := rfl
@[simp] theorem State.bump_profs (s : State) (f : Fld) (i n : Nat) : (s.bump f i n).profs = s.profs := rfl
@[simp] theorem State.bump_rrGroup (s : State) (f : Fld) (i n : Nat) : (s.bump f i n).rrGroup = s.rrGroup := rfl
@[simp] theorem State.bump_rrQueue (s : State) (f : Fld) (i n : Nat) : (s.bump f i n).rrQueue = s.rrQueue := rfl
@[simp] theorem State.bump_rrLeft (s : State) (f : Fld) (i n : Nat) : (s.bump f i n).rrLeft = s.rrLeft := rfl
@[simp] theorem State.bump_ladders (s : State) (f : Fld) (i n : Nat) : (s.bump f i n).ladders = s.ladders := rfl
@[simp] theorem State.bump_ladderWait (s : State) (f : Fld) (i n : Nat) : (s.bump f i n).ladderWait = s.ladderWait := rfl
@[simp] theorem State.bump_damage (s : State) (f : Fld) (i n : Nat) : (s.bump f i n).damage = s.damage := rfl
@[simp] theorem State.bump_damageSeq (s : State) (f : Fld) (i n : Nat) : (s.bump f i n).damageSeq = s.damageSeq := rfl
@[simp] theorem State.bump_mem (s : State) (f : Fld) (i n : Nat) : (s.bump f i n).mem = s.mem := rfl
@[simp] theorem State.bump_bufs (s : State) (f : Fld) (i n : Nat) : (s.bump f i n).bufs = s.bufs := rfl
@[simp] theorem State.bump_gens (s : State) (f : Fld) (i n : Nat) : (s.bump f i n).gens = s.gens := rfl
@[simp] theorem State.bump_pools (s : State) (f : Fld) (i n : Nat) : (s.bump f i n).pools = s.pools := rfl
@[simp] theorem State.bump_copyWait (s : State) (f : Fld) (i n : Nat) : (s.bump f i n).copyWait = s.copyWait := rfl
@[simp] theorem State.bump_engines (s : State) (f : Fld) (i n : Nat) : (s.bump f i n).engines = s.engines := rfl
@[simp] theorem State.bump_chanJobs (s : State) (f : Fld) (i n : Nat) : (s.bump f i n).chanJobs = s.chanJobs := rfl
@[simp] theorem State.bump_jq (s : State) (f : Fld) (i n : Nat) : (s.bump f i n).jq = s.jq := rfl
@[simp] theorem State.bump_mgmtQ (s : State) (f : Fld) (i n : Nat) : (s.bump f i n).mgmtQ = s.mgmtQ := rfl
@[simp] theorem State.bump_loop (s : State) (f : Fld) (i n : Nat) : (s.bump f i n).loop = s.loop := rfl
@[simp] theorem State.bump_heads (s : State) (f : Fld) (i n : Nat) : (s.bump f i n).heads = s.heads := rfl
@[simp] theorem State.bump_spins (s : State) (f : Fld) (i n : Nat) : (s.bump f i n).spins = s.spins := rfl
@[simp] theorem State.bump_axes (s : State) (f : Fld) (i n : Nat) : (s.bump f i n).axes = s.axes := rfl
@[simp] theorem State.bump_lib (s : State) (f : Fld) (i n : Nat) : (s.bump f i n).lib = s.lib := rfl
@[simp] theorem State.bump_cals (s : State) (f : Fld) (i n : Nat) : (s.bump f i n).cals = s.cals := rfl
@[simp] theorem State.bump_stack (s : State) (f : Fld) (i n : Nat) : (s.bump f i n).stack = s.stack := rfl
@[simp] theorem State.bump_hep (s : State) (f : Fld) (i n : Nat) : (s.bump f i n).hep = s.hep := rfl
@[simp] theorem State.bump_ms (s : State) (f : Fld) (i n : Nat) : (s.bump f i n).ms = s.ms := rfl
@[simp] theorem State.bump_flash (s : State) (f : Fld) (i n : Nat) : (s.bump f i n).flash = s.flash := rfl
@[simp] theorem State.bump_tally (s : State) (f : Fld) (i n : Nat) : (s.bump f i n).tally = s.tally := rfl
@[simp] theorem State.bump_firm (s : State) (f : Fld) (i n : Nat) : (s.bump f i n).firm = s.firm := rfl

@[simp] theorem State.orBits_pending (s : State) (f : Fld) (i n : Nat) : (s.orBits f i n).pending = s.pending := rfl
@[simp] theorem State.orBits_now (s : State) (f : Fld) (i n : Nat) : (s.orBits f i n).now = s.now := rfl
@[simp] theorem State.orBits_out (s : State) (f : Fld) (i n : Nat) : (s.orBits f i n).out = s.out := rfl
@[simp] theorem State.orBits_free (s : State) (f : Fld) (i n : Nat) : (s.orBits f i n).free = s.free := rfl
@[simp] theorem State.orBits_ev (s : State) (f : Fld) (i n : Nat) : (s.orBits f i n).ev = s.ev := rfl
@[simp] theorem State.orBits_tb (s : State) (f : Fld) (i n : Nat) : (s.orBits f i n).tb = s.tb := rfl
@[simp] theorem State.orBits_pw (s : State) (f : Fld) (i n : Nat) : (s.orBits f i n).pw = s.pw := rfl
@[simp] theorem State.orBits_sealed (s : State) (f : Fld) (i n : Nat) : (s.orBits f i n).sealed = s.sealed := rfl
@[simp] theorem State.orBits_stns (s : State) (f : Fld) (i n : Nat) : (s.orBits f i n).stns = s.stns := rfl
@[simp] theorem State.orBits_seekQ (s : State) (f : Fld) (i n : Nat) : (s.orBits f i n).seekQ = s.seekQ := rfl
@[simp] theorem State.orBits_slices (s : State) (f : Fld) (i n : Nat) : (s.orBits f i n).slices = s.slices := rfl
@[simp] theorem State.orBits_headWait (s : State) (f : Fld) (i n : Nat) : (s.orBits f i n).headWait = s.headWait := rfl
@[simp] theorem State.orBits_discs (s : State) (f : Fld) (i n : Nat) : (s.orBits f i n).discs = s.discs := rfl
@[simp] theorem State.orBits_zones (s : State) (f : Fld) (i n : Nat) : (s.orBits f i n).zones = s.zones := rfl
@[simp] theorem State.orBits_held (s : State) (f : Fld) (i n : Nat) : (s.orBits f i n).held = s.held := rfl
@[simp] theorem State.orBits_cmds (s : State) (f : Fld) (i n : Nat) : (s.orBits f i n).cmds = s.cmds := rfl
@[simp] theorem State.orBits_cmdSeq (s : State) (f : Fld) (i n : Nat) : (s.orBits f i n).cmdSeq = s.cmdSeq := rfl
@[simp] theorem State.orBits_sqs (s : State) (f : Fld) (i n : Nat) : (s.orBits f i n).sqs = s.sqs := rfl
@[simp] theorem State.orBits_cqs (s : State) (f : Fld) (i n : Nat) : (s.orBits f i n).cqs = s.cqs := rfl
@[simp] theorem State.orBits_grps (s : State) (f : Fld) (i n : Nat) : (s.orBits f i n).grps = s.grps := rfl
@[simp] theorem State.orBits_profs (s : State) (f : Fld) (i n : Nat) : (s.orBits f i n).profs = s.profs := rfl
@[simp] theorem State.orBits_rrGroup (s : State) (f : Fld) (i n : Nat) : (s.orBits f i n).rrGroup = s.rrGroup := rfl
@[simp] theorem State.orBits_rrQueue (s : State) (f : Fld) (i n : Nat) : (s.orBits f i n).rrQueue = s.rrQueue := rfl
@[simp] theorem State.orBits_rrLeft (s : State) (f : Fld) (i n : Nat) : (s.orBits f i n).rrLeft = s.rrLeft := rfl
@[simp] theorem State.orBits_ladders (s : State) (f : Fld) (i n : Nat) : (s.orBits f i n).ladders = s.ladders := rfl
@[simp] theorem State.orBits_ladderWait (s : State) (f : Fld) (i n : Nat) : (s.orBits f i n).ladderWait = s.ladderWait := rfl
@[simp] theorem State.orBits_damage (s : State) (f : Fld) (i n : Nat) : (s.orBits f i n).damage = s.damage := rfl
@[simp] theorem State.orBits_damageSeq (s : State) (f : Fld) (i n : Nat) : (s.orBits f i n).damageSeq = s.damageSeq := rfl
@[simp] theorem State.orBits_mem (s : State) (f : Fld) (i n : Nat) : (s.orBits f i n).mem = s.mem := rfl
@[simp] theorem State.orBits_bufs (s : State) (f : Fld) (i n : Nat) : (s.orBits f i n).bufs = s.bufs := rfl
@[simp] theorem State.orBits_gens (s : State) (f : Fld) (i n : Nat) : (s.orBits f i n).gens = s.gens := rfl
@[simp] theorem State.orBits_pools (s : State) (f : Fld) (i n : Nat) : (s.orBits f i n).pools = s.pools := rfl
@[simp] theorem State.orBits_copyWait (s : State) (f : Fld) (i n : Nat) : (s.orBits f i n).copyWait = s.copyWait := rfl
@[simp] theorem State.orBits_engines (s : State) (f : Fld) (i n : Nat) : (s.orBits f i n).engines = s.engines := rfl
@[simp] theorem State.orBits_chanJobs (s : State) (f : Fld) (i n : Nat) : (s.orBits f i n).chanJobs = s.chanJobs := rfl
@[simp] theorem State.orBits_jq (s : State) (f : Fld) (i n : Nat) : (s.orBits f i n).jq = s.jq := rfl
@[simp] theorem State.orBits_mgmtQ (s : State) (f : Fld) (i n : Nat) : (s.orBits f i n).mgmtQ = s.mgmtQ := rfl
@[simp] theorem State.orBits_loop (s : State) (f : Fld) (i n : Nat) : (s.orBits f i n).loop = s.loop := rfl
@[simp] theorem State.orBits_heads (s : State) (f : Fld) (i n : Nat) : (s.orBits f i n).heads = s.heads := rfl
@[simp] theorem State.orBits_spins (s : State) (f : Fld) (i n : Nat) : (s.orBits f i n).spins = s.spins := rfl
@[simp] theorem State.orBits_axes (s : State) (f : Fld) (i n : Nat) : (s.orBits f i n).axes = s.axes := rfl
@[simp] theorem State.orBits_lib (s : State) (f : Fld) (i n : Nat) : (s.orBits f i n).lib = s.lib := rfl
@[simp] theorem State.orBits_cals (s : State) (f : Fld) (i n : Nat) : (s.orBits f i n).cals = s.cals := rfl
@[simp] theorem State.orBits_stack (s : State) (f : Fld) (i n : Nat) : (s.orBits f i n).stack = s.stack := rfl
@[simp] theorem State.orBits_hep (s : State) (f : Fld) (i n : Nat) : (s.orBits f i n).hep = s.hep := rfl
@[simp] theorem State.orBits_ms (s : State) (f : Fld) (i n : Nat) : (s.orBits f i n).ms = s.ms := rfl
@[simp] theorem State.orBits_flash (s : State) (f : Fld) (i n : Nat) : (s.orBits f i n).flash = s.flash := rfl
@[simp] theorem State.orBits_tally (s : State) (f : Fld) (i n : Nat) : (s.orBits f i n).tally = s.tally := rfl
@[simp] theorem State.orBits_firm (s : State) (f : Fld) (i n : Nat) : (s.orBits f i n).firm = s.firm := rfl

@[simp] theorem State.wrS_pending (s : State) (f : Fld) (i : Nat) (v : Int) : (s.wrS f i v).pending = s.pending := rfl
@[simp] theorem State.wrS_now (s : State) (f : Fld) (i : Nat) (v : Int) : (s.wrS f i v).now = s.now := rfl
@[simp] theorem State.wrS_out (s : State) (f : Fld) (i : Nat) (v : Int) : (s.wrS f i v).out = s.out := rfl
@[simp] theorem State.wrS_free (s : State) (f : Fld) (i : Nat) (v : Int) : (s.wrS f i v).free = s.free := rfl
@[simp] theorem State.wrS_ev (s : State) (f : Fld) (i : Nat) (v : Int) : (s.wrS f i v).ev = s.ev := rfl
@[simp] theorem State.wrS_tb (s : State) (f : Fld) (i : Nat) (v : Int) : (s.wrS f i v).tb = s.tb := rfl
@[simp] theorem State.wrS_pw (s : State) (f : Fld) (i : Nat) (v : Int) : (s.wrS f i v).pw = s.pw := rfl
@[simp] theorem State.wrS_sealed (s : State) (f : Fld) (i : Nat) (v : Int) : (s.wrS f i v).sealed = s.sealed := rfl
@[simp] theorem State.wrS_stns (s : State) (f : Fld) (i : Nat) (v : Int) : (s.wrS f i v).stns = s.stns := rfl
@[simp] theorem State.wrS_seekQ (s : State) (f : Fld) (i : Nat) (v : Int) : (s.wrS f i v).seekQ = s.seekQ := rfl
@[simp] theorem State.wrS_slices (s : State) (f : Fld) (i : Nat) (v : Int) : (s.wrS f i v).slices = s.slices := rfl
@[simp] theorem State.wrS_headWait (s : State) (f : Fld) (i : Nat) (v : Int) : (s.wrS f i v).headWait = s.headWait := rfl
@[simp] theorem State.wrS_discs (s : State) (f : Fld) (i : Nat) (v : Int) : (s.wrS f i v).discs = s.discs := rfl
@[simp] theorem State.wrS_zones (s : State) (f : Fld) (i : Nat) (v : Int) : (s.wrS f i v).zones = s.zones := rfl
@[simp] theorem State.wrS_held (s : State) (f : Fld) (i : Nat) (v : Int) : (s.wrS f i v).held = s.held := rfl
@[simp] theorem State.wrS_cmds (s : State) (f : Fld) (i : Nat) (v : Int) : (s.wrS f i v).cmds = s.cmds := rfl
@[simp] theorem State.wrS_cmdSeq (s : State) (f : Fld) (i : Nat) (v : Int) : (s.wrS f i v).cmdSeq = s.cmdSeq := rfl
@[simp] theorem State.wrS_sqs (s : State) (f : Fld) (i : Nat) (v : Int) : (s.wrS f i v).sqs = s.sqs := rfl
@[simp] theorem State.wrS_cqs (s : State) (f : Fld) (i : Nat) (v : Int) : (s.wrS f i v).cqs = s.cqs := rfl
@[simp] theorem State.wrS_grps (s : State) (f : Fld) (i : Nat) (v : Int) : (s.wrS f i v).grps = s.grps := rfl
@[simp] theorem State.wrS_profs (s : State) (f : Fld) (i : Nat) (v : Int) : (s.wrS f i v).profs = s.profs := rfl
@[simp] theorem State.wrS_rrGroup (s : State) (f : Fld) (i : Nat) (v : Int) : (s.wrS f i v).rrGroup = s.rrGroup := rfl
@[simp] theorem State.wrS_rrQueue (s : State) (f : Fld) (i : Nat) (v : Int) : (s.wrS f i v).rrQueue = s.rrQueue := rfl
@[simp] theorem State.wrS_rrLeft (s : State) (f : Fld) (i : Nat) (v : Int) : (s.wrS f i v).rrLeft = s.rrLeft := rfl
@[simp] theorem State.wrS_ladders (s : State) (f : Fld) (i : Nat) (v : Int) : (s.wrS f i v).ladders = s.ladders := rfl
@[simp] theorem State.wrS_ladderWait (s : State) (f : Fld) (i : Nat) (v : Int) : (s.wrS f i v).ladderWait = s.ladderWait := rfl
@[simp] theorem State.wrS_damage (s : State) (f : Fld) (i : Nat) (v : Int) : (s.wrS f i v).damage = s.damage := rfl
@[simp] theorem State.wrS_damageSeq (s : State) (f : Fld) (i : Nat) (v : Int) : (s.wrS f i v).damageSeq = s.damageSeq := rfl
@[simp] theorem State.wrS_mem (s : State) (f : Fld) (i : Nat) (v : Int) : (s.wrS f i v).mem = s.mem := rfl
@[simp] theorem State.wrS_bufs (s : State) (f : Fld) (i : Nat) (v : Int) : (s.wrS f i v).bufs = s.bufs := rfl
@[simp] theorem State.wrS_gens (s : State) (f : Fld) (i : Nat) (v : Int) : (s.wrS f i v).gens = s.gens := rfl
@[simp] theorem State.wrS_pools (s : State) (f : Fld) (i : Nat) (v : Int) : (s.wrS f i v).pools = s.pools := rfl
@[simp] theorem State.wrS_copyWait (s : State) (f : Fld) (i : Nat) (v : Int) : (s.wrS f i v).copyWait = s.copyWait := rfl
@[simp] theorem State.wrS_engines (s : State) (f : Fld) (i : Nat) (v : Int) : (s.wrS f i v).engines = s.engines := rfl
@[simp] theorem State.wrS_chanJobs (s : State) (f : Fld) (i : Nat) (v : Int) : (s.wrS f i v).chanJobs = s.chanJobs := rfl
@[simp] theorem State.wrS_jq (s : State) (f : Fld) (i : Nat) (v : Int) : (s.wrS f i v).jq = s.jq := rfl
@[simp] theorem State.wrS_mgmtQ (s : State) (f : Fld) (i : Nat) (v : Int) : (s.wrS f i v).mgmtQ = s.mgmtQ := rfl
@[simp] theorem State.wrS_loop (s : State) (f : Fld) (i : Nat) (v : Int) : (s.wrS f i v).loop = s.loop := rfl
@[simp] theorem State.wrS_heads (s : State) (f : Fld) (i : Nat) (v : Int) : (s.wrS f i v).heads = s.heads := rfl
@[simp] theorem State.wrS_spins (s : State) (f : Fld) (i : Nat) (v : Int) : (s.wrS f i v).spins = s.spins := rfl
@[simp] theorem State.wrS_axes (s : State) (f : Fld) (i : Nat) (v : Int) : (s.wrS f i v).axes = s.axes := rfl
@[simp] theorem State.wrS_lib (s : State) (f : Fld) (i : Nat) (v : Int) : (s.wrS f i v).lib = s.lib := rfl
@[simp] theorem State.wrS_cals (s : State) (f : Fld) (i : Nat) (v : Int) : (s.wrS f i v).cals = s.cals := rfl
@[simp] theorem State.wrS_stack (s : State) (f : Fld) (i : Nat) (v : Int) : (s.wrS f i v).stack = s.stack := rfl
@[simp] theorem State.wrS_hep (s : State) (f : Fld) (i : Nat) (v : Int) : (s.wrS f i v).hep = s.hep := rfl
@[simp] theorem State.wrS_ms (s : State) (f : Fld) (i : Nat) (v : Int) : (s.wrS f i v).ms = s.ms := rfl
@[simp] theorem State.wrS_flash (s : State) (f : Fld) (i : Nat) (v : Int) : (s.wrS f i v).flash = s.flash := rfl
@[simp] theorem State.wrS_tally (s : State) (f : Fld) (i : Nat) (v : Int) : (s.wrS f i v).tally = s.tally := rfl
@[simp] theorem State.wrS_firm (s : State) (f : Fld) (i : Nat) (v : Int) : (s.wrS f i v).firm = s.firm := rfl

@[simp] theorem State.emit_pending (s : State) (o : Out) : (s.emit o).pending = s.pending := rfl
@[simp] theorem State.emit_now (s : State) (o : Out) : (s.emit o).now = s.now := rfl
@[simp] theorem State.emit_free (s : State) (o : Out) : (s.emit o).free = s.free := rfl
@[simp] theorem State.emit_ev (s : State) (o : Out) : (s.emit o).ev = s.ev := rfl
@[simp] theorem State.emit_tb (s : State) (o : Out) : (s.emit o).tb = s.tb := rfl
@[simp] theorem State.emit_pw (s : State) (o : Out) : (s.emit o).pw = s.pw := rfl
@[simp] theorem State.emit_sealed (s : State) (o : Out) : (s.emit o).sealed = s.sealed := rfl
@[simp] theorem State.emit_stns (s : State) (o : Out) : (s.emit o).stns = s.stns := rfl
@[simp] theorem State.emit_seekQ (s : State) (o : Out) : (s.emit o).seekQ = s.seekQ := rfl
@[simp] theorem State.emit_slices (s : State) (o : Out) : (s.emit o).slices = s.slices := rfl
@[simp] theorem State.emit_headWait (s : State) (o : Out) : (s.emit o).headWait = s.headWait := rfl
@[simp] theorem State.emit_discs (s : State) (o : Out) : (s.emit o).discs = s.discs := rfl
@[simp] theorem State.emit_zones (s : State) (o : Out) : (s.emit o).zones = s.zones := rfl
@[simp] theorem State.emit_held (s : State) (o : Out) : (s.emit o).held = s.held := rfl
@[simp] theorem State.emit_cmds (s : State) (o : Out) : (s.emit o).cmds = s.cmds := rfl
@[simp] theorem State.emit_cmdSeq (s : State) (o : Out) : (s.emit o).cmdSeq = s.cmdSeq := rfl
@[simp] theorem State.emit_sqs (s : State) (o : Out) : (s.emit o).sqs = s.sqs := rfl
@[simp] theorem State.emit_cqs (s : State) (o : Out) : (s.emit o).cqs = s.cqs := rfl
@[simp] theorem State.emit_grps (s : State) (o : Out) : (s.emit o).grps = s.grps := rfl
@[simp] theorem State.emit_profs (s : State) (o : Out) : (s.emit o).profs = s.profs := rfl
@[simp] theorem State.emit_rrGroup (s : State) (o : Out) : (s.emit o).rrGroup = s.rrGroup := rfl
@[simp] theorem State.emit_rrQueue (s : State) (o : Out) : (s.emit o).rrQueue = s.rrQueue := rfl
@[simp] theorem State.emit_rrLeft (s : State) (o : Out) : (s.emit o).rrLeft = s.rrLeft := rfl
@[simp] theorem State.emit_ladders (s : State) (o : Out) : (s.emit o).ladders = s.ladders := rfl
@[simp] theorem State.emit_ladderWait (s : State) (o : Out) : (s.emit o).ladderWait = s.ladderWait := rfl
@[simp] theorem State.emit_damage (s : State) (o : Out) : (s.emit o).damage = s.damage := rfl
@[simp] theorem State.emit_damageSeq (s : State) (o : Out) : (s.emit o).damageSeq = s.damageSeq := rfl
@[simp] theorem State.emit_mem (s : State) (o : Out) : (s.emit o).mem = s.mem := rfl
@[simp] theorem State.emit_bufs (s : State) (o : Out) : (s.emit o).bufs = s.bufs := rfl
@[simp] theorem State.emit_gens (s : State) (o : Out) : (s.emit o).gens = s.gens := rfl
@[simp] theorem State.emit_pools (s : State) (o : Out) : (s.emit o).pools = s.pools := rfl
@[simp] theorem State.emit_copyWait (s : State) (o : Out) : (s.emit o).copyWait = s.copyWait := rfl
@[simp] theorem State.emit_engines (s : State) (o : Out) : (s.emit o).engines = s.engines := rfl
@[simp] theorem State.emit_chanJobs (s : State) (o : Out) : (s.emit o).chanJobs = s.chanJobs := rfl
@[simp] theorem State.emit_jq (s : State) (o : Out) : (s.emit o).jq = s.jq := rfl
@[simp] theorem State.emit_mgmtQ (s : State) (o : Out) : (s.emit o).mgmtQ = s.mgmtQ := rfl
@[simp] theorem State.emit_loop (s : State) (o : Out) : (s.emit o).loop = s.loop := rfl
@[simp] theorem State.emit_heads (s : State) (o : Out) : (s.emit o).heads = s.heads := rfl
@[simp] theorem State.emit_spins (s : State) (o : Out) : (s.emit o).spins = s.spins := rfl
@[simp] theorem State.emit_axes (s : State) (o : Out) : (s.emit o).axes = s.axes := rfl
@[simp] theorem State.emit_lib (s : State) (o : Out) : (s.emit o).lib = s.lib := rfl
@[simp] theorem State.emit_cals (s : State) (o : Out) : (s.emit o).cals = s.cals := rfl
@[simp] theorem State.emit_stack (s : State) (o : Out) : (s.emit o).stack = s.stack := rfl
@[simp] theorem State.emit_hep (s : State) (o : Out) : (s.emit o).hep = s.hep := rfl
@[simp] theorem State.emit_ms (s : State) (o : Out) : (s.emit o).ms = s.ms := rfl
@[simp] theorem State.emit_flash (s : State) (o : Out) : (s.emit o).flash = s.flash := rfl
@[simp] theorem State.emit_tally (s : State) (o : Out) : (s.emit o).tally = s.tally := rfl
@[simp] theorem State.emit_firm (s : State) (o : Out) : (s.emit o).firm = s.firm := rfl
@[simp] theorem State.emit_regs (s : State) (o : Out) : (s.emit o).regs = s.regs := rfl
@[simp] theorem State.emit_rd (s : State) (o : Out) (f : Fld) (j : Nat) : (s.emit o).rd f j = s.rd f j := rfl

@[simp] theorem State.putStn_pending (s : State) (n : Nat) (x : Stn) : (s.putStn n x).pending = s.pending := rfl
@[simp] theorem State.putStn_now (s : State) (n : Nat) (x : Stn) : (s.putStn n x).now = s.now := rfl
@[simp] theorem State.putStn_out (s : State) (n : Nat) (x : Stn) : (s.putStn n x).out = s.out := rfl
@[simp] theorem State.putStn_free (s : State) (n : Nat) (x : Stn) : (s.putStn n x).free = s.free := rfl
@[simp] theorem State.putStn_ev (s : State) (n : Nat) (x : Stn) : (s.putStn n x).ev = s.ev := rfl
@[simp] theorem State.putStn_tb (s : State) (n : Nat) (x : Stn) : (s.putStn n x).tb = s.tb := rfl
@[simp] theorem State.putStn_pw (s : State) (n : Nat) (x : Stn) : (s.putStn n x).pw = s.pw := rfl
@[simp] theorem State.putStn_sealed (s : State) (n : Nat) (x : Stn) : (s.putStn n x).sealed = s.sealed := rfl
@[simp] theorem State.putStn_seekQ (s : State) (n : Nat) (x : Stn) : (s.putStn n x).seekQ = s.seekQ := rfl
@[simp] theorem State.putStn_slices (s : State) (n : Nat) (x : Stn) : (s.putStn n x).slices = s.slices := rfl
@[simp] theorem State.putStn_headWait (s : State) (n : Nat) (x : Stn) : (s.putStn n x).headWait = s.headWait := rfl
@[simp] theorem State.putStn_discs (s : State) (n : Nat) (x : Stn) : (s.putStn n x).discs = s.discs := rfl
@[simp] theorem State.putStn_zones (s : State) (n : Nat) (x : Stn) : (s.putStn n x).zones = s.zones := rfl
@[simp] theorem State.putStn_held (s : State) (n : Nat) (x : Stn) : (s.putStn n x).held = s.held := rfl
@[simp] theorem State.putStn_cmds (s : State) (n : Nat) (x : Stn) : (s.putStn n x).cmds = s.cmds := rfl
@[simp] theorem State.putStn_cmdSeq (s : State) (n : Nat) (x : Stn) : (s.putStn n x).cmdSeq = s.cmdSeq := rfl
@[simp] theorem State.putStn_sqs (s : State) (n : Nat) (x : Stn) : (s.putStn n x).sqs = s.sqs := rfl
@[simp] theorem State.putStn_cqs (s : State) (n : Nat) (x : Stn) : (s.putStn n x).cqs = s.cqs := rfl
@[simp] theorem State.putStn_grps (s : State) (n : Nat) (x : Stn) : (s.putStn n x).grps = s.grps := rfl
@[simp] theorem State.putStn_profs (s : State) (n : Nat) (x : Stn) : (s.putStn n x).profs = s.profs := rfl
@[simp] theorem State.putStn_rrGroup (s : State) (n : Nat) (x : Stn) : (s.putStn n x).rrGroup = s.rrGroup := rfl
@[simp] theorem State.putStn_rrQueue (s : State) (n : Nat) (x : Stn) : (s.putStn n x).rrQueue = s.rrQueue := rfl
@[simp] theorem State.putStn_rrLeft (s : State) (n : Nat) (x : Stn) : (s.putStn n x).rrLeft = s.rrLeft := rfl
@[simp] theorem State.putStn_ladders (s : State) (n : Nat) (x : Stn) : (s.putStn n x).ladders = s.ladders := rfl
@[simp] theorem State.putStn_ladderWait (s : State) (n : Nat) (x : Stn) : (s.putStn n x).ladderWait = s.ladderWait := rfl
@[simp] theorem State.putStn_damage (s : State) (n : Nat) (x : Stn) : (s.putStn n x).damage = s.damage := rfl
@[simp] theorem State.putStn_damageSeq (s : State) (n : Nat) (x : Stn) : (s.putStn n x).damageSeq = s.damageSeq := rfl
@[simp] theorem State.putStn_mem (s : State) (n : Nat) (x : Stn) : (s.putStn n x).mem = s.mem := rfl
@[simp] theorem State.putStn_bufs (s : State) (n : Nat) (x : Stn) : (s.putStn n x).bufs = s.bufs := rfl
@[simp] theorem State.putStn_gens (s : State) (n : Nat) (x : Stn) : (s.putStn n x).gens = s.gens := rfl
@[simp] theorem State.putStn_pools (s : State) (n : Nat) (x : Stn) : (s.putStn n x).pools = s.pools := rfl
@[simp] theorem State.putStn_copyWait (s : State) (n : Nat) (x : Stn) : (s.putStn n x).copyWait = s.copyWait := rfl
@[simp] theorem State.putStn_engines (s : State) (n : Nat) (x : Stn) : (s.putStn n x).engines = s.engines := rfl
@[simp] theorem State.putStn_chanJobs (s : State) (n : Nat) (x : Stn) : (s.putStn n x).chanJobs = s.chanJobs := rfl
@[simp] theorem State.putStn_jq (s : State) (n : Nat) (x : Stn) : (s.putStn n x).jq = s.jq := rfl
@[simp] theorem State.putStn_mgmtQ (s : State) (n : Nat) (x : Stn) : (s.putStn n x).mgmtQ = s.mgmtQ := rfl
@[simp] theorem State.putStn_loop (s : State) (n : Nat) (x : Stn) : (s.putStn n x).loop = s.loop := rfl
@[simp] theorem State.putStn_heads (s : State) (n : Nat) (x : Stn) : (s.putStn n x).heads = s.heads := rfl
@[simp] theorem State.putStn_spins (s : State) (n : Nat) (x : Stn) : (s.putStn n x).spins = s.spins := rfl
@[simp] theorem State.putStn_axes (s : State) (n : Nat) (x : Stn) : (s.putStn n x).axes = s.axes := rfl
@[simp] theorem State.putStn_lib (s : State) (n : Nat) (x : Stn) : (s.putStn n x).lib = s.lib := rfl
@[simp] theorem State.putStn_cals (s : State) (n : Nat) (x : Stn) : (s.putStn n x).cals = s.cals := rfl
@[simp] theorem State.putStn_stack (s : State) (n : Nat) (x : Stn) : (s.putStn n x).stack = s.stack := rfl
@[simp] theorem State.putStn_hep (s : State) (n : Nat) (x : Stn) : (s.putStn n x).hep = s.hep := rfl
@[simp] theorem State.putStn_ms (s : State) (n : Nat) (x : Stn) : (s.putStn n x).ms = s.ms := rfl
@[simp] theorem State.putStn_flash (s : State) (n : Nat) (x : Stn) : (s.putStn n x).flash = s.flash := rfl
@[simp] theorem State.putStn_tally (s : State) (n : Nat) (x : Stn) : (s.putStn n x).tally = s.tally := rfl
@[simp] theorem State.putStn_firm (s : State) (n : Nat) (x : Stn) : (s.putStn n x).firm = s.firm := rfl
@[simp] theorem State.putStn_regs (s : State) (n : Nat) (x : Stn) : (s.putStn n x).regs = s.regs := rfl
@[simp] theorem State.putStn_rd (s : State) (n : Nat) (x : Stn) (f : Fld) (j : Nat) : (s.putStn n x).rd f j = s.rd f j := rfl

@[simp] theorem State.putSlice_pending (s : State) (n : Nat) (x : Slice) : (s.putSlice n x).pending = s.pending := rfl
@[simp] theorem State.putSlice_now (s : State) (n : Nat) (x : Slice) : (s.putSlice n x).now = s.now := rfl
@[simp] theorem State.putSlice_out (s : State) (n : Nat) (x : Slice) : (s.putSlice n x).out = s.out := rfl
@[simp] theorem State.putSlice_free (s : State) (n : Nat) (x : Slice) : (s.putSlice n x).free = s.free := rfl
@[simp] theorem State.putSlice_ev (s : State) (n : Nat) (x : Slice) : (s.putSlice n x).ev = s.ev := rfl
@[simp] theorem State.putSlice_tb (s : State) (n : Nat) (x : Slice) : (s.putSlice n x).tb = s.tb := rfl
@[simp] theorem State.putSlice_pw (s : State) (n : Nat) (x : Slice) : (s.putSlice n x).pw = s.pw := rfl
@[simp] theorem State.putSlice_sealed (s : State) (n : Nat) (x : Slice) : (s.putSlice n x).sealed = s.sealed := rfl
@[simp] theorem State.putSlice_stns (s : State) (n : Nat) (x : Slice) : (s.putSlice n x).stns = s.stns := rfl
@[simp] theorem State.putSlice_seekQ (s : State) (n : Nat) (x : Slice) : (s.putSlice n x).seekQ = s.seekQ := rfl
@[simp] theorem State.putSlice_headWait (s : State) (n : Nat) (x : Slice) : (s.putSlice n x).headWait = s.headWait := rfl
@[simp] theorem State.putSlice_discs (s : State) (n : Nat) (x : Slice) : (s.putSlice n x).discs = s.discs := rfl
@[simp] theorem State.putSlice_zones (s : State) (n : Nat) (x : Slice) : (s.putSlice n x).zones = s.zones := rfl
@[simp] theorem State.putSlice_held (s : State) (n : Nat) (x : Slice) : (s.putSlice n x).held = s.held := rfl
@[simp] theorem State.putSlice_cmds (s : State) (n : Nat) (x : Slice) : (s.putSlice n x).cmds = s.cmds := rfl
@[simp] theorem State.putSlice_cmdSeq (s : State) (n : Nat) (x : Slice) : (s.putSlice n x).cmdSeq = s.cmdSeq := rfl
@[simp] theorem State.putSlice_sqs (s : State) (n : Nat) (x : Slice) : (s.putSlice n x).sqs = s.sqs := rfl
@[simp] theorem State.putSlice_cqs (s : State) (n : Nat) (x : Slice) : (s.putSlice n x).cqs = s.cqs := rfl
@[simp] theorem State.putSlice_grps (s : State) (n : Nat) (x : Slice) : (s.putSlice n x).grps = s.grps := rfl
@[simp] theorem State.putSlice_profs (s : State) (n : Nat) (x : Slice) : (s.putSlice n x).profs = s.profs := rfl
@[simp] theorem State.putSlice_rrGroup (s : State) (n : Nat) (x : Slice) : (s.putSlice n x).rrGroup = s.rrGroup := rfl
@[simp] theorem State.putSlice_rrQueue (s : State) (n : Nat) (x : Slice) : (s.putSlice n x).rrQueue = s.rrQueue := rfl
@[simp] theorem State.putSlice_rrLeft (s : State) (n : Nat) (x : Slice) : (s.putSlice n x).rrLeft = s.rrLeft := rfl
@[simp] theorem State.putSlice_ladders (s : State) (n : Nat) (x : Slice) : (s.putSlice n x).ladders = s.ladders := rfl
@[simp] theorem State.putSlice_ladderWait (s : State) (n : Nat) (x : Slice) : (s.putSlice n x).ladderWait = s.ladderWait := rfl
@[simp] theorem State.putSlice_damage (s : State) (n : Nat) (x : Slice) : (s.putSlice n x).damage = s.damage := rfl
@[simp] theorem State.putSlice_damageSeq (s : State) (n : Nat) (x : Slice) : (s.putSlice n x).damageSeq = s.damageSeq := rfl
@[simp] theorem State.putSlice_mem (s : State) (n : Nat) (x : Slice) : (s.putSlice n x).mem = s.mem := rfl
@[simp] theorem State.putSlice_bufs (s : State) (n : Nat) (x : Slice) : (s.putSlice n x).bufs = s.bufs := rfl
@[simp] theorem State.putSlice_gens (s : State) (n : Nat) (x : Slice) : (s.putSlice n x).gens = s.gens := rfl
@[simp] theorem State.putSlice_pools (s : State) (n : Nat) (x : Slice) : (s.putSlice n x).pools = s.pools := rfl
@[simp] theorem State.putSlice_copyWait (s : State) (n : Nat) (x : Slice) : (s.putSlice n x).copyWait = s.copyWait := rfl
@[simp] theorem State.putSlice_engines (s : State) (n : Nat) (x : Slice) : (s.putSlice n x).engines = s.engines := rfl
@[simp] theorem State.putSlice_chanJobs (s : State) (n : Nat) (x : Slice) : (s.putSlice n x).chanJobs = s.chanJobs := rfl
@[simp] theorem State.putSlice_jq (s : State) (n : Nat) (x : Slice) : (s.putSlice n x).jq = s.jq := rfl
@[simp] theorem State.putSlice_mgmtQ (s : State) (n : Nat) (x : Slice) : (s.putSlice n x).mgmtQ = s.mgmtQ := rfl
@[simp] theorem State.putSlice_loop (s : State) (n : Nat) (x : Slice) : (s.putSlice n x).loop = s.loop := rfl
@[simp] theorem State.putSlice_heads (s : State) (n : Nat) (x : Slice) : (s.putSlice n x).heads = s.heads := rfl
@[simp] theorem State.putSlice_spins (s : State) (n : Nat) (x : Slice) : (s.putSlice n x).spins = s.spins := rfl
@[simp] theorem State.putSlice_axes (s : State) (n : Nat) (x : Slice) : (s.putSlice n x).axes = s.axes := rfl
@[simp] theorem State.putSlice_lib (s : State) (n : Nat) (x : Slice) : (s.putSlice n x).lib = s.lib := rfl
@[simp] theorem State.putSlice_cals (s : State) (n : Nat) (x : Slice) : (s.putSlice n x).cals = s.cals := rfl
@[simp] theorem State.putSlice_stack (s : State) (n : Nat) (x : Slice) : (s.putSlice n x).stack = s.stack := rfl
@[simp] theorem State.putSlice_hep (s : State) (n : Nat) (x : Slice) : (s.putSlice n x).hep = s.hep := rfl
@[simp] theorem State.putSlice_ms (s : State) (n : Nat) (x : Slice) : (s.putSlice n x).ms = s.ms := rfl
@[simp] theorem State.putSlice_flash (s : State) (n : Nat) (x : Slice) : (s.putSlice n x).flash = s.flash := rfl
@[simp] theorem State.putSlice_tally (s : State) (n : Nat) (x : Slice) : (s.putSlice n x).tally = s.tally := rfl
@[simp] theorem State.putSlice_firm (s : State) (n : Nat) (x : Slice) : (s.putSlice n x).firm = s.firm := rfl
@[simp] theorem State.putSlice_regs (s : State) (n : Nat) (x : Slice) : (s.putSlice n x).regs = s.regs := rfl
@[simp] theorem State.putSlice_rd (s : State) (n : Nat) (x : Slice) (f : Fld) (j : Nat) : (s.putSlice n x).rd f j = s.rd f j := rfl

@[simp] theorem State.putZone_pending (s : State) (n : Nat) (x : Zone) : (s.putZone n x).pending = s.pending := rfl
@[simp] theorem State.putZone_now (s : State) (n : Nat) (x : Zone) : (s.putZone n x).now = s.now := rfl
@[simp] theorem State.putZone_out (s : State) (n : Nat) (x : Zone) : (s.putZone n x).out = s.out := rfl
@[simp] theorem State.putZone_free (s : State) (n : Nat) (x : Zone) : (s.putZone n x).free = s.free := rfl
@[simp] theorem State.putZone_ev (s : State) (n : Nat) (x : Zone) : (s.putZone n x).ev = s.ev := rfl
@[simp] theorem State.putZone_tb (s : State) (n : Nat) (x : Zone) : (s.putZone n x).tb = s.tb := rfl
@[simp] theorem State.putZone_pw (s : State) (n : Nat) (x : Zone) : (s.putZone n x).pw = s.pw := rfl
@[simp] theorem State.putZone_sealed (s : State) (n : Nat) (x : Zone) : (s.putZone n x).sealed = s.sealed := rfl
@[simp] theorem State.putZone_stns (s : State) (n : Nat) (x : Zone) : (s.putZone n x).stns = s.stns := rfl
@[simp] theorem State.putZone_seekQ (s : State) (n : Nat) (x : Zone) : (s.putZone n x).seekQ = s.seekQ := rfl
@[simp] theorem State.putZone_slices (s : State) (n : Nat) (x : Zone) : (s.putZone n x).slices = s.slices := rfl
@[simp] theorem State.putZone_headWait (s : State) (n : Nat) (x : Zone) : (s.putZone n x).headWait = s.headWait := rfl
@[simp] theorem State.putZone_discs (s : State) (n : Nat) (x : Zone) : (s.putZone n x).discs = s.discs := rfl
@[simp] theorem State.putZone_held (s : State) (n : Nat) (x : Zone) : (s.putZone n x).held = s.held := rfl
@[simp] theorem State.putZone_cmds (s : State) (n : Nat) (x : Zone) : (s.putZone n x).cmds = s.cmds := rfl
@[simp] theorem State.putZone_cmdSeq (s : State) (n : Nat) (x : Zone) : (s.putZone n x).cmdSeq = s.cmdSeq := rfl
@[simp] theorem State.putZone_sqs (s : State) (n : Nat) (x : Zone) : (s.putZone n x).sqs = s.sqs := rfl
@[simp] theorem State.putZone_cqs (s : State) (n : Nat) (x : Zone) : (s.putZone n x).cqs = s.cqs := rfl
@[simp] theorem State.putZone_grps (s : State) (n : Nat) (x : Zone) : (s.putZone n x).grps = s.grps := rfl
@[simp] theorem State.putZone_profs (s : State) (n : Nat) (x : Zone) : (s.putZone n x).profs = s.profs := rfl
@[simp] theorem State.putZone_rrGroup (s : State) (n : Nat) (x : Zone) : (s.putZone n x).rrGroup = s.rrGroup := rfl
@[simp] theorem State.putZone_rrQueue (s : State) (n : Nat) (x : Zone) : (s.putZone n x).rrQueue = s.rrQueue := rfl
@[simp] theorem State.putZone_rrLeft (s : State) (n : Nat) (x : Zone) : (s.putZone n x).rrLeft = s.rrLeft := rfl
@[simp] theorem State.putZone_ladders (s : State) (n : Nat) (x : Zone) : (s.putZone n x).ladders = s.ladders := rfl
@[simp] theorem State.putZone_ladderWait (s : State) (n : Nat) (x : Zone) : (s.putZone n x).ladderWait = s.ladderWait := rfl
@[simp] theorem State.putZone_damage (s : State) (n : Nat) (x : Zone) : (s.putZone n x).damage = s.damage := rfl
@[simp] theorem State.putZone_damageSeq (s : State) (n : Nat) (x : Zone) : (s.putZone n x).damageSeq = s.damageSeq := rfl
@[simp] theorem State.putZone_mem (s : State) (n : Nat) (x : Zone) : (s.putZone n x).mem = s.mem := rfl
@[simp] theorem State.putZone_bufs (s : State) (n : Nat) (x : Zone) : (s.putZone n x).bufs = s.bufs := rfl
@[simp] theorem State.putZone_gens (s : State) (n : Nat) (x : Zone) : (s.putZone n x).gens = s.gens := rfl
@[simp] theorem State.putZone_pools (s : State) (n : Nat) (x : Zone) : (s.putZone n x).pools = s.pools := rfl
@[simp] theorem State.putZone_copyWait (s : State) (n : Nat) (x : Zone) : (s.putZone n x).copyWait = s.copyWait := rfl
@[simp] theorem State.putZone_engines (s : State) (n : Nat) (x : Zone) : (s.putZone n x).engines = s.engines := rfl
@[simp] theorem State.putZone_chanJobs (s : State) (n : Nat) (x : Zone) : (s.putZone n x).chanJobs = s.chanJobs := rfl
@[simp] theorem State.putZone_jq (s : State) (n : Nat) (x : Zone) : (s.putZone n x).jq = s.jq := rfl
@[simp] theorem State.putZone_mgmtQ (s : State) (n : Nat) (x : Zone) : (s.putZone n x).mgmtQ = s.mgmtQ := rfl
@[simp] theorem State.putZone_loop (s : State) (n : Nat) (x : Zone) : (s.putZone n x).loop = s.loop := rfl
@[simp] theorem State.putZone_heads (s : State) (n : Nat) (x : Zone) : (s.putZone n x).heads = s.heads := rfl
@[simp] theorem State.putZone_spins (s : State) (n : Nat) (x : Zone) : (s.putZone n x).spins = s.spins := rfl
@[simp] theorem State.putZone_axes (s : State) (n : Nat) (x : Zone) : (s.putZone n x).axes = s.axes := rfl
@[simp] theorem State.putZone_lib (s : State) (n : Nat) (x : Zone) : (s.putZone n x).lib = s.lib := rfl
@[simp] theorem State.putZone_cals (s : State) (n : Nat) (x : Zone) : (s.putZone n x).cals = s.cals := rfl
@[simp] theorem State.putZone_stack (s : State) (n : Nat) (x : Zone) : (s.putZone n x).stack = s.stack := rfl
@[simp] theorem State.putZone_hep (s : State) (n : Nat) (x : Zone) : (s.putZone n x).hep = s.hep := rfl
@[simp] theorem State.putZone_ms (s : State) (n : Nat) (x : Zone) : (s.putZone n x).ms = s.ms := rfl
@[simp] theorem State.putZone_flash (s : State) (n : Nat) (x : Zone) : (s.putZone n x).flash = s.flash := rfl
@[simp] theorem State.putZone_tally (s : State) (n : Nat) (x : Zone) : (s.putZone n x).tally = s.tally := rfl
@[simp] theorem State.putZone_firm (s : State) (n : Nat) (x : Zone) : (s.putZone n x).firm = s.firm := rfl
@[simp] theorem State.putZone_regs (s : State) (n : Nat) (x : Zone) : (s.putZone n x).regs = s.regs := rfl
@[simp] theorem State.putZone_rd (s : State) (n : Nat) (x : Zone) (f : Fld) (j : Nat) : (s.putZone n x).rd f j = s.rd f j := rfl

@[simp] theorem State.putDisc_pending (s : State) (n : Nat) (x : Disc) : (s.putDisc n x).pending = s.pending := rfl
@[simp] theorem State.putDisc_now (s : State) (n : Nat) (x : Disc) : (s.putDisc n x).now = s.now := rfl
@[simp] theorem State.putDisc_out (s : State) (n : Nat) (x : Disc) : (s.putDisc n x).out = s.out := rfl
@[simp] theorem State.putDisc_free (s : State) (n : Nat) (x : Disc) : (s.putDisc n x).free = s.free := rfl
@[simp] theorem State.putDisc_ev (s : State) (n : Nat) (x : Disc) : (s.putDisc n x).ev = s.ev := rfl
@[simp] theorem State.putDisc_tb (s : State) (n : Nat) (x : Disc) : (s.putDisc n x).tb = s.tb := rfl
@[simp] theorem State.putDisc_pw (s : State) (n : Nat) (x : Disc) : (s.putDisc n x).pw = s.pw := rfl
@[simp] theorem State.putDisc_sealed (s : State) (n : Nat) (x : Disc) : (s.putDisc n x).sealed = s.sealed := rfl
@[simp] theorem State.putDisc_stns (s : State) (n : Nat) (x : Disc) : (s.putDisc n x).stns = s.stns := rfl
@[simp] theorem State.putDisc_seekQ (s : State) (n : Nat) (x : Disc) : (s.putDisc n x).seekQ = s.seekQ := rfl
@[simp] theorem State.putDisc_slices (s : State) (n : Nat) (x : Disc) : (s.putDisc n x).slices = s.slices := rfl
@[simp] theorem State.putDisc_headWait (s : State) (n : Nat) (x : Disc) : (s.putDisc n x).headWait = s.headWait := rfl
@[simp] theorem State.putDisc_zones (s : State) (n : Nat) (x : Disc) : (s.putDisc n x).zones = s.zones := rfl
@[simp] theorem State.putDisc_held (s : State) (n : Nat) (x : Disc) : (s.putDisc n x).held = s.held := rfl
@[simp] theorem State.putDisc_cmds (s : State) (n : Nat) (x : Disc) : (s.putDisc n x).cmds = s.cmds := rfl
@[simp] theorem State.putDisc_cmdSeq (s : State) (n : Nat) (x : Disc) : (s.putDisc n x).cmdSeq = s.cmdSeq := rfl
@[simp] theorem State.putDisc_sqs (s : State) (n : Nat) (x : Disc) : (s.putDisc n x).sqs = s.sqs := rfl
@[simp] theorem State.putDisc_cqs (s : State) (n : Nat) (x : Disc) : (s.putDisc n x).cqs = s.cqs := rfl
@[simp] theorem State.putDisc_grps (s : State) (n : Nat) (x : Disc) : (s.putDisc n x).grps = s.grps := rfl
@[simp] theorem State.putDisc_profs (s : State) (n : Nat) (x : Disc) : (s.putDisc n x).profs = s.profs := rfl
@[simp] theorem State.putDisc_rrGroup (s : State) (n : Nat) (x : Disc) : (s.putDisc n x).rrGroup = s.rrGroup := rfl
@[simp] theorem State.putDisc_rrQueue (s : State) (n : Nat) (x : Disc) : (s.putDisc n x).rrQueue = s.rrQueue := rfl
@[simp] theorem State.putDisc_rrLeft (s : State) (n : Nat) (x : Disc) : (s.putDisc n x).rrLeft = s.rrLeft := rfl
@[simp] theorem State.putDisc_ladders (s : State) (n : Nat) (x : Disc) : (s.putDisc n x).ladders = s.ladders := rfl
@[simp] theorem State.putDisc_ladderWait (s : State) (n : Nat) (x : Disc) : (s.putDisc n x).ladderWait = s.ladderWait := rfl
@[simp] theorem State.putDisc_damage (s : State) (n : Nat) (x : Disc) : (s.putDisc n x).damage = s.damage := rfl
@[simp] theorem State.putDisc_damageSeq (s : State) (n : Nat) (x : Disc) : (s.putDisc n x).damageSeq = s.damageSeq := rfl
@[simp] theorem State.putDisc_mem (s : State) (n : Nat) (x : Disc) : (s.putDisc n x).mem = s.mem := rfl
@[simp] theorem State.putDisc_bufs (s : State) (n : Nat) (x : Disc) : (s.putDisc n x).bufs = s.bufs := rfl
@[simp] theorem State.putDisc_gens (s : State) (n : Nat) (x : Disc) : (s.putDisc n x).gens = s.gens := rfl
@[simp] theorem State.putDisc_pools (s : State) (n : Nat) (x : Disc) : (s.putDisc n x).pools = s.pools := rfl
@[simp] theorem State.putDisc_copyWait (s : State) (n : Nat) (x : Disc) : (s.putDisc n x).copyWait = s.copyWait := rfl
@[simp] theorem State.putDisc_engines (s : State) (n : Nat) (x : Disc) : (s.putDisc n x).engines = s.engines := rfl
@[simp] theorem State.putDisc_chanJobs (s : State) (n : Nat) (x : Disc) : (s.putDisc n x).chanJobs = s.chanJobs := rfl
@[simp] theorem State.putDisc_jq (s : State) (n : Nat) (x : Disc) : (s.putDisc n x).jq = s.jq := rfl
@[simp] theorem State.putDisc_mgmtQ (s : State) (n : Nat) (x : Disc) : (s.putDisc n x).mgmtQ = s.mgmtQ := rfl
@[simp] theorem State.putDisc_loop (s : State) (n : Nat) (x : Disc) : (s.putDisc n x).loop = s.loop := rfl
@[simp] theorem State.putDisc_heads (s : State) (n : Nat) (x : Disc) : (s.putDisc n x).heads = s.heads := rfl
@[simp] theorem State.putDisc_spins (s : State) (n : Nat) (x : Disc) : (s.putDisc n x).spins = s.spins := rfl
@[simp] theorem State.putDisc_axes (s : State) (n : Nat) (x : Disc) : (s.putDisc n x).axes = s.axes := rfl
@[simp] theorem State.putDisc_lib (s : State) (n : Nat) (x : Disc) : (s.putDisc n x).lib = s.lib := rfl
@[simp] theorem State.putDisc_cals (s : State) (n : Nat) (x : Disc) : (s.putDisc n x).cals = s.cals := rfl
@[simp] theorem State.putDisc_stack (s : State) (n : Nat) (x : Disc) : (s.putDisc n x).stack = s.stack := rfl
@[simp] theorem State.putDisc_hep (s : State) (n : Nat) (x : Disc) : (s.putDisc n x).hep = s.hep := rfl
@[simp] theorem State.putDisc_ms (s : State) (n : Nat) (x : Disc) : (s.putDisc n x).ms = s.ms := rfl
@[simp] theorem State.putDisc_flash (s : State) (n : Nat) (x : Disc) : (s.putDisc n x).flash = s.flash := rfl
@[simp] theorem State.putDisc_tally (s : State) (n : Nat) (x : Disc) : (s.putDisc n x).tally = s.tally := rfl
@[simp] theorem State.putDisc_firm (s : State) (n : Nat) (x : Disc) : (s.putDisc n x).firm = s.firm := rfl
@[simp] theorem State.putDisc_regs (s : State) (n : Nat) (x : Disc) : (s.putDisc n x).regs = s.regs := rfl
@[simp] theorem State.putDisc_rd (s : State) (n : Nat) (x : Disc) (f : Fld) (j : Nat) : (s.putDisc n x).rd f j = s.rd f j := rfl

@[simp] theorem State.putHead_pending (s : State) (n : Nat) (x : Head) : (s.putHead n x).pending = s.pending := rfl
@[simp] theorem State.putHead_now (s : State) (n : Nat) (x : Head) : (s.putHead n x).now = s.now := rfl
@[simp] theorem State.putHead_out (s : State) (n : Nat) (x : Head) : (s.putHead n x).out = s.out := rfl
@[simp] theorem State.putHead_free (s : State) (n : Nat) (x : Head) : (s.putHead n x).free = s.free := rfl
@[simp] theorem State.putHead_ev (s : State) (n : Nat) (x : Head) : (s.putHead n x).ev = s.ev := rfl
@[simp] theorem State.putHead_tb (s : State) (n : Nat) (x : Head) : (s.putHead n x).tb = s.tb := rfl
@[simp] theorem State.putHead_pw (s : State) (n : Nat) (x : Head) : (s.putHead n x).pw = s.pw := rfl
@[simp] theorem State.putHead_sealed (s : State) (n : Nat) (x : Head) : (s.putHead n x).sealed = s.sealed := rfl
@[simp] theorem State.putHead_stns (s : State) (n : Nat) (x : Head) : (s.putHead n x).stns = s.stns := rfl
@[simp] theorem State.putHead_seekQ (s : State) (n : Nat) (x : Head) : (s.putHead n x).seekQ = s.seekQ := rfl
@[simp] theorem State.putHead_slices (s : State) (n : Nat) (x : Head) : (s.putHead n x).slices = s.slices := rfl
@[simp] theorem State.putHead_headWait (s : State) (n : Nat) (x : Head) : (s.putHead n x).headWait = s.headWait := rfl
@[simp] theorem State.putHead_discs (s : State) (n : Nat) (x : Head) : (s.putHead n x).discs = s.discs := rfl
@[simp] theorem State.putHead_zones (s : State) (n : Nat) (x : Head) : (s.putHead n x).zones = s.zones := rfl
@[simp] theorem State.putHead_held (s : State) (n : Nat) (x : Head) : (s.putHead n x).held = s.held := rfl
@[simp] theorem State.putHead_cmds (s : State) (n : Nat) (x : Head) : (s.putHead n x).cmds = s.cmds := rfl
@[simp] theorem State.putHead_cmdSeq (s : State) (n : Nat) (x : Head) : (s.putHead n x).cmdSeq = s.cmdSeq := rfl
@[simp] theorem State.putHead_sqs (s : State) (n : Nat) (x : Head) : (s.putHead n x).sqs = s.sqs := rfl
@[simp] theorem State.putHead_cqs (s : State) (n : Nat) (x : Head) : (s.putHead n x).cqs = s.cqs := rfl
@[simp] theorem State.putHead_grps (s : State) (n : Nat) (x : Head) : (s.putHead n x).grps = s.grps := rfl
@[simp] theorem State.putHead_profs (s : State) (n : Nat) (x : Head) : (s.putHead n x).profs = s.profs := rfl
@[simp] theorem State.putHead_rrGroup (s : State) (n : Nat) (x : Head) : (s.putHead n x).rrGroup = s.rrGroup := rfl
@[simp] theorem State.putHead_rrQueue (s : State) (n : Nat) (x : Head) : (s.putHead n x).rrQueue = s.rrQueue := rfl
@[simp] theorem State.putHead_rrLeft (s : State) (n : Nat) (x : Head) : (s.putHead n x).rrLeft = s.rrLeft := rfl
@[simp] theorem State.putHead_ladders (s : State) (n : Nat) (x : Head) : (s.putHead n x).ladders = s.ladders := rfl
@[simp] theorem State.putHead_ladderWait (s : State) (n : Nat) (x : Head) : (s.putHead n x).ladderWait = s.ladderWait := rfl
@[simp] theorem State.putHead_damage (s : State) (n : Nat) (x : Head) : (s.putHead n x).damage = s.damage := rfl
@[simp] theorem State.putHead_damageSeq (s : State) (n : Nat) (x : Head) : (s.putHead n x).damageSeq = s.damageSeq := rfl
@[simp] theorem State.putHead_mem (s : State) (n : Nat) (x : Head) : (s.putHead n x).mem = s.mem := rfl
@[simp] theorem State.putHead_bufs (s : State) (n : Nat) (x : Head) : (s.putHead n x).bufs = s.bufs := rfl
@[simp] theorem State.putHead_gens (s : State) (n : Nat) (x : Head) : (s.putHead n x).gens = s.gens := rfl
@[simp] theorem State.putHead_pools (s : State) (n : Nat) (x : Head) : (s.putHead n x).pools = s.pools := rfl
@[simp] theorem State.putHead_copyWait (s : State) (n : Nat) (x : Head) : (s.putHead n x).copyWait = s.copyWait := rfl
@[simp] theorem State.putHead_engines (s : State) (n : Nat) (x : Head) : (s.putHead n x).engines = s.engines := rfl
@[simp] theorem State.putHead_chanJobs (s : State) (n : Nat) (x : Head) : (s.putHead n x).chanJobs = s.chanJobs := rfl
@[simp] theorem State.putHead_jq (s : State) (n : Nat) (x : Head) : (s.putHead n x).jq = s.jq := rfl
@[simp] theorem State.putHead_mgmtQ (s : State) (n : Nat) (x : Head) : (s.putHead n x).mgmtQ = s.mgmtQ := rfl
@[simp] theorem State.putHead_loop (s : State) (n : Nat) (x : Head) : (s.putHead n x).loop = s.loop := rfl
@[simp] theorem State.putHead_spins (s : State) (n : Nat) (x : Head) : (s.putHead n x).spins = s.spins := rfl
@[simp] theorem State.putHead_axes (s : State) (n : Nat) (x : Head) : (s.putHead n x).axes = s.axes := rfl
@[simp] theorem State.putHead_lib (s : State) (n : Nat) (x : Head) : (s.putHead n x).lib = s.lib := rfl
@[simp] theorem State.putHead_cals (s : State) (n : Nat) (x : Head) : (s.putHead n x).cals = s.cals := rfl
@[simp] theorem State.putHead_stack (s : State) (n : Nat) (x : Head) : (s.putHead n x).stack = s.stack := rfl
@[simp] theorem State.putHead_hep (s : State) (n : Nat) (x : Head) : (s.putHead n x).hep = s.hep := rfl
@[simp] theorem State.putHead_ms (s : State) (n : Nat) (x : Head) : (s.putHead n x).ms = s.ms := rfl
@[simp] theorem State.putHead_flash (s : State) (n : Nat) (x : Head) : (s.putHead n x).flash = s.flash := rfl
@[simp] theorem State.putHead_tally (s : State) (n : Nat) (x : Head) : (s.putHead n x).tally = s.tally := rfl
@[simp] theorem State.putHead_firm (s : State) (n : Nat) (x : Head) : (s.putHead n x).firm = s.firm := rfl
@[simp] theorem State.putHead_regs (s : State) (n : Nat) (x : Head) : (s.putHead n x).regs = s.regs := rfl
@[simp] theorem State.putHead_rd (s : State) (n : Nat) (x : Head) (f : Fld) (j : Nat) : (s.putHead n x).rd f j = s.rd f j := rfl

@[simp] theorem State.putSpin_pending (s : State) (n : Nat) (x : Spin) : (s.putSpin n x).pending = s.pending := rfl
@[simp] theorem State.putSpin_now (s : State) (n : Nat) (x : Spin) : (s.putSpin n x).now = s.now := rfl
@[simp] theorem State.putSpin_out (s : State) (n : Nat) (x : Spin) : (s.putSpin n x).out = s.out := rfl
@[simp] theorem State.putSpin_free (s : State) (n : Nat) (x : Spin) : (s.putSpin n x).free = s.free := rfl
@[simp] theorem State.putSpin_ev (s : State) (n : Nat) (x : Spin) : (s.putSpin n x).ev = s.ev := rfl
@[simp] theorem State.putSpin_tb (s : State) (n : Nat) (x : Spin) : (s.putSpin n x).tb = s.tb := rfl
@[simp] theorem State.putSpin_pw (s : State) (n : Nat) (x : Spin) : (s.putSpin n x).pw = s.pw := rfl
@[simp] theorem State.putSpin_sealed (s : State) (n : Nat) (x : Spin) : (s.putSpin n x).sealed = s.sealed := rfl
@[simp] theorem State.putSpin_stns (s : State) (n : Nat) (x : Spin) : (s.putSpin n x).stns = s.stns := rfl
@[simp] theorem State.putSpin_seekQ (s : State) (n : Nat) (x : Spin) : (s.putSpin n x).seekQ = s.seekQ := rfl
@[simp] theorem State.putSpin_slices (s : State) (n : Nat) (x : Spin) : (s.putSpin n x).slices = s.slices := rfl
@[simp] theorem State.putSpin_headWait (s : State) (n : Nat) (x : Spin) : (s.putSpin n x).headWait = s.headWait := rfl
@[simp] theorem State.putSpin_discs (s : State) (n : Nat) (x : Spin) : (s.putSpin n x).discs = s.discs := rfl
@[simp] theorem State.putSpin_zones (s : State) (n : Nat) (x : Spin) : (s.putSpin n x).zones = s.zones := rfl
@[simp] theorem State.putSpin_held (s : State) (n : Nat) (x : Spin) : (s.putSpin n x).held = s.held := rfl
@[simp] theorem State.putSpin_cmds (s : State) (n : Nat) (x : Spin) : (s.putSpin n x).cmds = s.cmds := rfl
@[simp] theorem State.putSpin_cmdSeq (s : State) (n : Nat) (x : Spin) : (s.putSpin n x).cmdSeq = s.cmdSeq := rfl
@[simp] theorem State.putSpin_sqs (s : State) (n : Nat) (x : Spin) : (s.putSpin n x).sqs = s.sqs := rfl
@[simp] theorem State.putSpin_cqs (s : State) (n : Nat) (x : Spin) : (s.putSpin n x).cqs = s.cqs := rfl
@[simp] theorem State.putSpin_grps (s : State) (n : Nat) (x : Spin) : (s.putSpin n x).grps = s.grps := rfl
@[simp] theorem State.putSpin_profs (s : State) (n : Nat) (x : Spin) : (s.putSpin n x).profs = s.profs := rfl
@[simp] theorem State.putSpin_rrGroup (s : State) (n : Nat) (x : Spin) : (s.putSpin n x).rrGroup = s.rrGroup := rfl
@[simp] theorem State.putSpin_rrQueue (s : State) (n : Nat) (x : Spin) : (s.putSpin n x).rrQueue = s.rrQueue := rfl
@[simp] theorem State.putSpin_rrLeft (s : State) (n : Nat) (x : Spin) : (s.putSpin n x).rrLeft = s.rrLeft := rfl
@[simp] theorem State.putSpin_ladders (s : State) (n : Nat) (x : Spin) : (s.putSpin n x).ladders = s.ladders := rfl
@[simp] theorem State.putSpin_ladderWait (s : State) (n : Nat) (x : Spin) : (s.putSpin n x).ladderWait = s.ladderWait := rfl
@[simp] theorem State.putSpin_damage (s : State) (n : Nat) (x : Spin) : (s.putSpin n x).damage = s.damage := rfl
@[simp] theorem State.putSpin_damageSeq (s : State) (n : Nat) (x : Spin) : (s.putSpin n x).damageSeq = s.damageSeq := rfl
@[simp] theorem State.putSpin_mem (s : State) (n : Nat) (x : Spin) : (s.putSpin n x).mem = s.mem := rfl
@[simp] theorem State.putSpin_bufs (s : State) (n : Nat) (x : Spin) : (s.putSpin n x).bufs = s.bufs := rfl
@[simp] theorem State.putSpin_gens (s : State) (n : Nat) (x : Spin) : (s.putSpin n x).gens = s.gens := rfl
@[simp] theorem State.putSpin_pools (s : State) (n : Nat) (x : Spin) : (s.putSpin n x).pools = s.pools := rfl
@[simp] theorem State.putSpin_copyWait (s : State) (n : Nat) (x : Spin) : (s.putSpin n x).copyWait = s.copyWait := rfl
@[simp] theorem State.putSpin_engines (s : State) (n : Nat) (x : Spin) : (s.putSpin n x).engines = s.engines := rfl
@[simp] theorem State.putSpin_chanJobs (s : State) (n : Nat) (x : Spin) : (s.putSpin n x).chanJobs = s.chanJobs := rfl
@[simp] theorem State.putSpin_jq (s : State) (n : Nat) (x : Spin) : (s.putSpin n x).jq = s.jq := rfl
@[simp] theorem State.putSpin_mgmtQ (s : State) (n : Nat) (x : Spin) : (s.putSpin n x).mgmtQ = s.mgmtQ := rfl
@[simp] theorem State.putSpin_loop (s : State) (n : Nat) (x : Spin) : (s.putSpin n x).loop = s.loop := rfl
@[simp] theorem State.putSpin_heads (s : State) (n : Nat) (x : Spin) : (s.putSpin n x).heads = s.heads := rfl
@[simp] theorem State.putSpin_axes (s : State) (n : Nat) (x : Spin) : (s.putSpin n x).axes = s.axes := rfl
@[simp] theorem State.putSpin_lib (s : State) (n : Nat) (x : Spin) : (s.putSpin n x).lib = s.lib := rfl
@[simp] theorem State.putSpin_cals (s : State) (n : Nat) (x : Spin) : (s.putSpin n x).cals = s.cals := rfl
@[simp] theorem State.putSpin_stack (s : State) (n : Nat) (x : Spin) : (s.putSpin n x).stack = s.stack := rfl
@[simp] theorem State.putSpin_hep (s : State) (n : Nat) (x : Spin) : (s.putSpin n x).hep = s.hep := rfl
@[simp] theorem State.putSpin_ms (s : State) (n : Nat) (x : Spin) : (s.putSpin n x).ms = s.ms := rfl
@[simp] theorem State.putSpin_flash (s : State) (n : Nat) (x : Spin) : (s.putSpin n x).flash = s.flash := rfl
@[simp] theorem State.putSpin_tally (s : State) (n : Nat) (x : Spin) : (s.putSpin n x).tally = s.tally := rfl
@[simp] theorem State.putSpin_firm (s : State) (n : Nat) (x : Spin) : (s.putSpin n x).firm = s.firm := rfl
@[simp] theorem State.putSpin_regs (s : State) (n : Nat) (x : Spin) : (s.putSpin n x).regs = s.regs := rfl
@[simp] theorem State.putSpin_rd (s : State) (n : Nat) (x : Spin) (f : Fld) (j : Nat) : (s.putSpin n x).rd f j = s.rd f j := rfl

@[simp] theorem State.putAxis_pending (s : State) (n : Nat) (x : Axis) : (s.putAxis n x).pending = s.pending := rfl
@[simp] theorem State.putAxis_now (s : State) (n : Nat) (x : Axis) : (s.putAxis n x).now = s.now := rfl
@[simp] theorem State.putAxis_out (s : State) (n : Nat) (x : Axis) : (s.putAxis n x).out = s.out := rfl
@[simp] theorem State.putAxis_free (s : State) (n : Nat) (x : Axis) : (s.putAxis n x).free = s.free := rfl
@[simp] theorem State.putAxis_ev (s : State) (n : Nat) (x : Axis) : (s.putAxis n x).ev = s.ev := rfl
@[simp] theorem State.putAxis_tb (s : State) (n : Nat) (x : Axis) : (s.putAxis n x).tb = s.tb := rfl
@[simp] theorem State.putAxis_pw (s : State) (n : Nat) (x : Axis) : (s.putAxis n x).pw = s.pw := rfl
@[simp] theorem State.putAxis_sealed (s : State) (n : Nat) (x : Axis) : (s.putAxis n x).sealed = s.sealed := rfl
@[simp] theorem State.putAxis_stns (s : State) (n : Nat) (x : Axis) : (s.putAxis n x).stns = s.stns := rfl
@[simp] theorem State.putAxis_seekQ (s : State) (n : Nat) (x : Axis) : (s.putAxis n x).seekQ = s.seekQ := rfl
@[simp] theorem State.putAxis_slices (s : State) (n : Nat) (x : Axis) : (s.putAxis n x).slices = s.slices := rfl
@[simp] theorem State.putAxis_headWait (s : State) (n : Nat) (x : Axis) : (s.putAxis n x).headWait = s.headWait := rfl
@[simp] theorem State.putAxis_discs (s : State) (n : Nat) (x : Axis) : (s.putAxis n x).discs = s.discs := rfl
@[simp] theorem State.putAxis_zones (s : State) (n : Nat) (x : Axis) : (s.putAxis n x).zones = s.zones := rfl
@[simp] theorem State.putAxis_held (s : State) (n : Nat) (x : Axis) : (s.putAxis n x).held = s.held := rfl
@[simp] theorem State.putAxis_cmds (s : State) (n : Nat) (x : Axis) : (s.putAxis n x).cmds = s.cmds := rfl
@[simp] theorem State.putAxis_cmdSeq (s : State) (n : Nat) (x : Axis) : (s.putAxis n x).cmdSeq = s.cmdSeq := rfl
@[simp] theorem State.putAxis_sqs (s : State) (n : Nat) (x : Axis) : (s.putAxis n x).sqs = s.sqs := rfl
@[simp] theorem State.putAxis_cqs (s : State) (n : Nat) (x : Axis) : (s.putAxis n x).cqs = s.cqs := rfl
@[simp] theorem State.putAxis_grps (s : State) (n : Nat) (x : Axis) : (s.putAxis n x).grps = s.grps := rfl
@[simp] theorem State.putAxis_profs (s : State) (n : Nat) (x : Axis) : (s.putAxis n x).profs = s.profs := rfl
@[simp] theorem State.putAxis_rrGroup (s : State) (n : Nat) (x : Axis) : (s.putAxis n x).rrGroup = s.rrGroup := rfl
@[simp] theorem State.putAxis_rrQueue (s : State) (n : Nat) (x : Axis) : (s.putAxis n x).rrQueue = s.rrQueue := rfl
@[simp] theorem State.putAxis_rrLeft (s : State) (n : Nat) (x : Axis) : (s.putAxis n x).rrLeft = s.rrLeft := rfl
@[simp] theorem State.putAxis_ladders (s : State) (n : Nat) (x : Axis) : (s.putAxis n x).ladders = s.ladders := rfl
@[simp] theorem State.putAxis_ladderWait (s : State) (n : Nat) (x : Axis) : (s.putAxis n x).ladderWait = s.ladderWait := rfl
@[simp] theorem State.putAxis_damage (s : State) (n : Nat) (x : Axis) : (s.putAxis n x).damage = s.damage := rfl
@[simp] theorem State.putAxis_damageSeq (s : State) (n : Nat) (x : Axis) : (s.putAxis n x).damageSeq = s.damageSeq := rfl
@[simp] theorem State.putAxis_mem (s : State) (n : Nat) (x : Axis) : (s.putAxis n x).mem = s.mem := rfl
@[simp] theorem State.putAxis_bufs (s : State) (n : Nat) (x : Axis) : (s.putAxis n x).bufs = s.bufs := rfl
@[simp] theorem State.putAxis_gens (s : State) (n : Nat) (x : Axis) : (s.putAxis n x).gens = s.gens := rfl
@[simp] theorem State.putAxis_pools (s : State) (n : Nat) (x : Axis) : (s.putAxis n x).pools = s.pools := rfl
@[simp] theorem State.putAxis_copyWait (s : State) (n : Nat) (x : Axis) : (s.putAxis n x).copyWait = s.copyWait := rfl
@[simp] theorem State.putAxis_engines (s : State) (n : Nat) (x : Axis) : (s.putAxis n x).engines = s.engines := rfl
@[simp] theorem State.putAxis_chanJobs (s : State) (n : Nat) (x : Axis) : (s.putAxis n x).chanJobs = s.chanJobs := rfl
@[simp] theorem State.putAxis_jq (s : State) (n : Nat) (x : Axis) : (s.putAxis n x).jq = s.jq := rfl
@[simp] theorem State.putAxis_mgmtQ (s : State) (n : Nat) (x : Axis) : (s.putAxis n x).mgmtQ = s.mgmtQ := rfl
@[simp] theorem State.putAxis_loop (s : State) (n : Nat) (x : Axis) : (s.putAxis n x).loop = s.loop := rfl
@[simp] theorem State.putAxis_heads (s : State) (n : Nat) (x : Axis) : (s.putAxis n x).heads = s.heads := rfl
@[simp] theorem State.putAxis_spins (s : State) (n : Nat) (x : Axis) : (s.putAxis n x).spins = s.spins := rfl
@[simp] theorem State.putAxis_lib (s : State) (n : Nat) (x : Axis) : (s.putAxis n x).lib = s.lib := rfl
@[simp] theorem State.putAxis_cals (s : State) (n : Nat) (x : Axis) : (s.putAxis n x).cals = s.cals := rfl
@[simp] theorem State.putAxis_stack (s : State) (n : Nat) (x : Axis) : (s.putAxis n x).stack = s.stack := rfl
@[simp] theorem State.putAxis_hep (s : State) (n : Nat) (x : Axis) : (s.putAxis n x).hep = s.hep := rfl
@[simp] theorem State.putAxis_ms (s : State) (n : Nat) (x : Axis) : (s.putAxis n x).ms = s.ms := rfl
@[simp] theorem State.putAxis_flash (s : State) (n : Nat) (x : Axis) : (s.putAxis n x).flash = s.flash := rfl
@[simp] theorem State.putAxis_tally (s : State) (n : Nat) (x : Axis) : (s.putAxis n x).tally = s.tally := rfl
@[simp] theorem State.putAxis_firm (s : State) (n : Nat) (x : Axis) : (s.putAxis n x).firm = s.firm := rfl
@[simp] theorem State.putAxis_regs (s : State) (n : Nat) (x : Axis) : (s.putAxis n x).regs = s.regs := rfl
@[simp] theorem State.putAxis_rd (s : State) (n : Nat) (x : Axis) (f : Fld) (j : Nat) : (s.putAxis n x).rd f j = s.rd f j := rfl

@[simp] theorem State.putLslot_pending (s : State) (n : Nat) (x : LSlot) : (s.putLslot n x).pending = s.pending := rfl
@[simp] theorem State.putLslot_now (s : State) (n : Nat) (x : LSlot) : (s.putLslot n x).now = s.now := rfl
@[simp] theorem State.putLslot_out (s : State) (n : Nat) (x : LSlot) : (s.putLslot n x).out = s.out := rfl
@[simp] theorem State.putLslot_free (s : State) (n : Nat) (x : LSlot) : (s.putLslot n x).free = s.free := rfl
@[simp] theorem State.putLslot_ev (s : State) (n : Nat) (x : LSlot) : (s.putLslot n x).ev = s.ev := rfl
@[simp] theorem State.putLslot_tb (s : State) (n : Nat) (x : LSlot) : (s.putLslot n x).tb = s.tb := rfl
@[simp] theorem State.putLslot_pw (s : State) (n : Nat) (x : LSlot) : (s.putLslot n x).pw = s.pw := rfl
@[simp] theorem State.putLslot_sealed (s : State) (n : Nat) (x : LSlot) : (s.putLslot n x).sealed = s.sealed := rfl
@[simp] theorem State.putLslot_stns (s : State) (n : Nat) (x : LSlot) : (s.putLslot n x).stns = s.stns := rfl
@[simp] theorem State.putLslot_seekQ (s : State) (n : Nat) (x : LSlot) : (s.putLslot n x).seekQ = s.seekQ := rfl
@[simp] theorem State.putLslot_slices (s : State) (n : Nat) (x : LSlot) : (s.putLslot n x).slices = s.slices := rfl
@[simp] theorem State.putLslot_headWait (s : State) (n : Nat) (x : LSlot) : (s.putLslot n x).headWait = s.headWait := rfl
@[simp] theorem State.putLslot_discs (s : State) (n : Nat) (x : LSlot) : (s.putLslot n x).discs = s.discs := rfl
@[simp] theorem State.putLslot_zones (s : State) (n : Nat) (x : LSlot) : (s.putLslot n x).zones = s.zones := rfl
@[simp] theorem State.putLslot_held (s : State) (n : Nat) (x : LSlot) : (s.putLslot n x).held = s.held := rfl
@[simp] theorem State.putLslot_cmds (s : State) (n : Nat) (x : LSlot) : (s.putLslot n x).cmds = s.cmds := rfl
@[simp] theorem State.putLslot_cmdSeq (s : State) (n : Nat) (x : LSlot) : (s.putLslot n x).cmdSeq = s.cmdSeq := rfl
@[simp] theorem State.putLslot_sqs (s : State) (n : Nat) (x : LSlot) : (s.putLslot n x).sqs = s.sqs := rfl
@[simp] theorem State.putLslot_cqs (s : State) (n : Nat) (x : LSlot) : (s.putLslot n x).cqs = s.cqs := rfl
@[simp] theorem State.putLslot_grps (s : State) (n : Nat) (x : LSlot) : (s.putLslot n x).grps = s.grps := rfl
@[simp] theorem State.putLslot_profs (s : State) (n : Nat) (x : LSlot) : (s.putLslot n x).profs = s.profs := rfl
@[simp] theorem State.putLslot_rrGroup (s : State) (n : Nat) (x : LSlot) : (s.putLslot n x).rrGroup = s.rrGroup := rfl
@[simp] theorem State.putLslot_rrQueue (s : State) (n : Nat) (x : LSlot) : (s.putLslot n x).rrQueue = s.rrQueue := rfl
@[simp] theorem State.putLslot_rrLeft (s : State) (n : Nat) (x : LSlot) : (s.putLslot n x).rrLeft = s.rrLeft := rfl
@[simp] theorem State.putLslot_ladders (s : State) (n : Nat) (x : LSlot) : (s.putLslot n x).ladders = s.ladders := rfl
@[simp] theorem State.putLslot_ladderWait (s : State) (n : Nat) (x : LSlot) : (s.putLslot n x).ladderWait = s.ladderWait := rfl
@[simp] theorem State.putLslot_damage (s : State) (n : Nat) (x : LSlot) : (s.putLslot n x).damage = s.damage := rfl
@[simp] theorem State.putLslot_damageSeq (s : State) (n : Nat) (x : LSlot) : (s.putLslot n x).damageSeq = s.damageSeq := rfl
@[simp] theorem State.putLslot_mem (s : State) (n : Nat) (x : LSlot) : (s.putLslot n x).mem = s.mem := rfl
@[simp] theorem State.putLslot_bufs (s : State) (n : Nat) (x : LSlot) : (s.putLslot n x).bufs = s.bufs := rfl
@[simp] theorem State.putLslot_gens (s : State) (n : Nat) (x : LSlot) : (s.putLslot n x).gens = s.gens := rfl
@[simp] theorem State.putLslot_pools (s : State) (n : Nat) (x : LSlot) : (s.putLslot n x).pools = s.pools := rfl
@[simp] theorem State.putLslot_copyWait (s : State) (n : Nat) (x : LSlot) : (s.putLslot n x).copyWait = s.copyWait := rfl
@[simp] theorem State.putLslot_engines (s : State) (n : Nat) (x : LSlot) : (s.putLslot n x).engines = s.engines := rfl
@[simp] theorem State.putLslot_chanJobs (s : State) (n : Nat) (x : LSlot) : (s.putLslot n x).chanJobs = s.chanJobs := rfl
@[simp] theorem State.putLslot_jq (s : State) (n : Nat) (x : LSlot) : (s.putLslot n x).jq = s.jq := rfl
@[simp] theorem State.putLslot_mgmtQ (s : State) (n : Nat) (x : LSlot) : (s.putLslot n x).mgmtQ = s.mgmtQ := rfl
@[simp] theorem State.putLslot_heads (s : State) (n : Nat) (x : LSlot) : (s.putLslot n x).heads = s.heads := rfl
@[simp] theorem State.putLslot_spins (s : State) (n : Nat) (x : LSlot) : (s.putLslot n x).spins = s.spins := rfl
@[simp] theorem State.putLslot_axes (s : State) (n : Nat) (x : LSlot) : (s.putLslot n x).axes = s.axes := rfl
@[simp] theorem State.putLslot_lib (s : State) (n : Nat) (x : LSlot) : (s.putLslot n x).lib = s.lib := rfl
@[simp] theorem State.putLslot_cals (s : State) (n : Nat) (x : LSlot) : (s.putLslot n x).cals = s.cals := rfl
@[simp] theorem State.putLslot_stack (s : State) (n : Nat) (x : LSlot) : (s.putLslot n x).stack = s.stack := rfl
@[simp] theorem State.putLslot_hep (s : State) (n : Nat) (x : LSlot) : (s.putLslot n x).hep = s.hep := rfl
@[simp] theorem State.putLslot_ms (s : State) (n : Nat) (x : LSlot) : (s.putLslot n x).ms = s.ms := rfl
@[simp] theorem State.putLslot_flash (s : State) (n : Nat) (x : LSlot) : (s.putLslot n x).flash = s.flash := rfl
@[simp] theorem State.putLslot_tally (s : State) (n : Nat) (x : LSlot) : (s.putLslot n x).tally = s.tally := rfl
@[simp] theorem State.putLslot_firm (s : State) (n : Nat) (x : LSlot) : (s.putLslot n x).firm = s.firm := rfl
@[simp] theorem State.putLslot_regs (s : State) (n : Nat) (x : LSlot) : (s.putLslot n x).regs = s.regs := rfl
@[simp] theorem State.putLslot_rd (s : State) (n : Nat) (x : LSlot) (f : Fld) (j : Nat) : (s.putLslot n x).rd f j = s.rd f j := rfl

@[simp] theorem State.setLin_pending (s : State) (t : Nat) : (s.setLin t).pending = s.pending := rfl
@[simp] theorem State.setLin_now (s : State) (t : Nat) : (s.setLin t).now = s.now := rfl
@[simp] theorem State.setLin_out (s : State) (t : Nat) : (s.setLin t).out = s.out := rfl
@[simp] theorem State.setLin_free (s : State) (t : Nat) : (s.setLin t).free = s.free := rfl
@[simp] theorem State.setLin_ev (s : State) (t : Nat) : (s.setLin t).ev = s.ev := rfl
@[simp] theorem State.setLin_pw (s : State) (t : Nat) : (s.setLin t).pw = s.pw := rfl
@[simp] theorem State.setLin_sealed (s : State) (t : Nat) : (s.setLin t).sealed = s.sealed := rfl
@[simp] theorem State.setLin_stns (s : State) (t : Nat) : (s.setLin t).stns = s.stns := rfl
@[simp] theorem State.setLin_seekQ (s : State) (t : Nat) : (s.setLin t).seekQ = s.seekQ := rfl
@[simp] theorem State.setLin_slices (s : State) (t : Nat) : (s.setLin t).slices = s.slices := rfl
@[simp] theorem State.setLin_headWait (s : State) (t : Nat) : (s.setLin t).headWait = s.headWait := rfl
@[simp] theorem State.setLin_discs (s : State) (t : Nat) : (s.setLin t).discs = s.discs := rfl
@[simp] theorem State.setLin_zones (s : State) (t : Nat) : (s.setLin t).zones = s.zones := rfl
@[simp] theorem State.setLin_held (s : State) (t : Nat) : (s.setLin t).held = s.held := rfl
@[simp] theorem State.setLin_cmds (s : State) (t : Nat) : (s.setLin t).cmds = s.cmds := rfl
@[simp] theorem State.setLin_cmdSeq (s : State) (t : Nat) : (s.setLin t).cmdSeq = s.cmdSeq := rfl
@[simp] theorem State.setLin_sqs (s : State) (t : Nat) : (s.setLin t).sqs = s.sqs := rfl
@[simp] theorem State.setLin_cqs (s : State) (t : Nat) : (s.setLin t).cqs = s.cqs := rfl
@[simp] theorem State.setLin_grps (s : State) (t : Nat) : (s.setLin t).grps = s.grps := rfl
@[simp] theorem State.setLin_profs (s : State) (t : Nat) : (s.setLin t).profs = s.profs := rfl
@[simp] theorem State.setLin_rrGroup (s : State) (t : Nat) : (s.setLin t).rrGroup = s.rrGroup := rfl
@[simp] theorem State.setLin_rrQueue (s : State) (t : Nat) : (s.setLin t).rrQueue = s.rrQueue := rfl
@[simp] theorem State.setLin_rrLeft (s : State) (t : Nat) : (s.setLin t).rrLeft = s.rrLeft := rfl
@[simp] theorem State.setLin_ladders (s : State) (t : Nat) : (s.setLin t).ladders = s.ladders := rfl
@[simp] theorem State.setLin_ladderWait (s : State) (t : Nat) : (s.setLin t).ladderWait = s.ladderWait := rfl
@[simp] theorem State.setLin_damage (s : State) (t : Nat) : (s.setLin t).damage = s.damage := rfl
@[simp] theorem State.setLin_damageSeq (s : State) (t : Nat) : (s.setLin t).damageSeq = s.damageSeq := rfl
@[simp] theorem State.setLin_mem (s : State) (t : Nat) : (s.setLin t).mem = s.mem := rfl
@[simp] theorem State.setLin_bufs (s : State) (t : Nat) : (s.setLin t).bufs = s.bufs := rfl
@[simp] theorem State.setLin_gens (s : State) (t : Nat) : (s.setLin t).gens = s.gens := rfl
@[simp] theorem State.setLin_pools (s : State) (t : Nat) : (s.setLin t).pools = s.pools := rfl
@[simp] theorem State.setLin_copyWait (s : State) (t : Nat) : (s.setLin t).copyWait = s.copyWait := rfl
@[simp] theorem State.setLin_engines (s : State) (t : Nat) : (s.setLin t).engines = s.engines := rfl
@[simp] theorem State.setLin_chanJobs (s : State) (t : Nat) : (s.setLin t).chanJobs = s.chanJobs := rfl
@[simp] theorem State.setLin_jq (s : State) (t : Nat) : (s.setLin t).jq = s.jq := rfl
@[simp] theorem State.setLin_mgmtQ (s : State) (t : Nat) : (s.setLin t).mgmtQ = s.mgmtQ := rfl
@[simp] theorem State.setLin_loop (s : State) (t : Nat) : (s.setLin t).loop = s.loop := rfl
@[simp] theorem State.setLin_heads (s : State) (t : Nat) : (s.setLin t).heads = s.heads := rfl
@[simp] theorem State.setLin_spins (s : State) (t : Nat) : (s.setLin t).spins = s.spins := rfl
@[simp] theorem State.setLin_axes (s : State) (t : Nat) : (s.setLin t).axes = s.axes := rfl
@[simp] theorem State.setLin_lib (s : State) (t : Nat) : (s.setLin t).lib = s.lib := rfl
@[simp] theorem State.setLin_cals (s : State) (t : Nat) : (s.setLin t).cals = s.cals := rfl
@[simp] theorem State.setLin_stack (s : State) (t : Nat) : (s.setLin t).stack = s.stack := rfl
@[simp] theorem State.setLin_hep (s : State) (t : Nat) : (s.setLin t).hep = s.hep := rfl
@[simp] theorem State.setLin_ms (s : State) (t : Nat) : (s.setLin t).ms = s.ms := rfl
@[simp] theorem State.setLin_flash (s : State) (t : Nat) : (s.setLin t).flash = s.flash := rfl
@[simp] theorem State.setLin_tally (s : State) (t : Nat) : (s.setLin t).tally = s.tally := rfl
@[simp] theorem State.setLin_firm (s : State) (t : Nat) : (s.setLin t).firm = s.firm := rfl
@[simp] theorem State.setLin_regs (s : State) (t : Nat) : (s.setLin t).regs = s.regs := rfl
@[simp] theorem State.setLin_rd (s : State) (t : Nat) (f : Fld) (j : Nat) : (s.setLin t).rd f j = s.rd f j := rfl

@[simp] theorem State.advance_pending (s : State) (n : Nat) : (s.advance n).pending = s.pending := by
  unfold State.advance; dsimp only; rw [State.setLin_pending]
@[simp] theorem State.advance_out (s : State) (n : Nat) : (s.advance n).out = s.out := by
  unfold State.advance; dsimp only; rw [State.setLin_out]
@[simp] theorem State.advance_free (s : State) (n : Nat) : (s.advance n).free = s.free := by
  unfold State.advance; dsimp only; rw [State.setLin_free]
@[simp] theorem State.advance_ev (s : State) (n : Nat) : (s.advance n).ev = s.ev := by
  unfold State.advance; dsimp only; rw [State.setLin_ev]
@[simp] theorem State.advance_pw (s : State) (n : Nat) : (s.advance n).pw = s.pw := by
  unfold State.advance; dsimp only; rw [State.setLin_pw]
@[simp] theorem State.advance_sealed (s : State) (n : Nat) : (s.advance n).sealed = s.sealed := by
  unfold State.advance; dsimp only; rw [State.setLin_sealed]
@[simp] theorem State.advance_stns (s : State) (n : Nat) : (s.advance n).stns = s.stns := by
  unfold State.advance; dsimp only; rw [State.setLin_stns]
@[simp] theorem State.advance_seekQ (s : State) (n : Nat) : (s.advance n).seekQ = s.seekQ := by
  unfold State.advance; dsimp only; rw [State.setLin_seekQ]
@[simp] theorem State.advance_slices (s : State) (n : Nat) : (s.advance n).slices = s.slices := by
  unfold State.advance; dsimp only; rw [State.setLin_slices]
@[simp] theorem State.advance_headWait (s : State) (n : Nat) : (s.advance n).headWait = s.headWait := by
  unfold State.advance; dsimp only; rw [State.setLin_headWait]
@[simp] theorem State.advance_discs (s : State) (n : Nat) : (s.advance n).discs = s.discs := by
  unfold State.advance; dsimp only; rw [State.setLin_discs]
@[simp] theorem State.advance_zones (s : State) (n : Nat) : (s.advance n).zones = s.zones := by
  unfold State.advance; dsimp only; rw [State.setLin_zones]
@[simp] theorem State.advance_held (s : State) (n : Nat) : (s.advance n).held = s.held := by
  unfold State.advance; dsimp only; rw [State.setLin_held]
@[simp] theorem State.advance_cmds (s : State) (n : Nat) : (s.advance n).cmds = s.cmds := by
  unfold State.advance; dsimp only; rw [State.setLin_cmds]
@[simp] theorem State.advance_cmdSeq (s : State) (n : Nat) : (s.advance n).cmdSeq = s.cmdSeq := by
  unfold State.advance; dsimp only; rw [State.setLin_cmdSeq]
@[simp] theorem State.advance_sqs (s : State) (n : Nat) : (s.advance n).sqs = s.sqs := by
  unfold State.advance; dsimp only; rw [State.setLin_sqs]
@[simp] theorem State.advance_cqs (s : State) (n : Nat) : (s.advance n).cqs = s.cqs := by
  unfold State.advance; dsimp only; rw [State.setLin_cqs]
@[simp] theorem State.advance_grps (s : State) (n : Nat) : (s.advance n).grps = s.grps := by
  unfold State.advance; dsimp only; rw [State.setLin_grps]
@[simp] theorem State.advance_profs (s : State) (n : Nat) : (s.advance n).profs = s.profs := by
  unfold State.advance; dsimp only; rw [State.setLin_profs]
@[simp] theorem State.advance_rrGroup (s : State) (n : Nat) : (s.advance n).rrGroup = s.rrGroup := by
  unfold State.advance; dsimp only; rw [State.setLin_rrGroup]
@[simp] theorem State.advance_rrQueue (s : State) (n : Nat) : (s.advance n).rrQueue = s.rrQueue := by
  unfold State.advance; dsimp only; rw [State.setLin_rrQueue]
@[simp] theorem State.advance_rrLeft (s : State) (n : Nat) : (s.advance n).rrLeft = s.rrLeft := by
  unfold State.advance; dsimp only; rw [State.setLin_rrLeft]
@[simp] theorem State.advance_ladders (s : State) (n : Nat) : (s.advance n).ladders = s.ladders := by
  unfold State.advance; dsimp only; rw [State.setLin_ladders]
@[simp] theorem State.advance_ladderWait (s : State) (n : Nat) : (s.advance n).ladderWait = s.ladderWait := by
  unfold State.advance; dsimp only; rw [State.setLin_ladderWait]
@[simp] theorem State.advance_damage (s : State) (n : Nat) : (s.advance n).damage = s.damage := by
  unfold State.advance; dsimp only; rw [State.setLin_damage]
@[simp] theorem State.advance_damageSeq (s : State) (n : Nat) : (s.advance n).damageSeq = s.damageSeq := by
  unfold State.advance; dsimp only; rw [State.setLin_damageSeq]
@[simp] theorem State.advance_mem (s : State) (n : Nat) : (s.advance n).mem = s.mem := by
  unfold State.advance; dsimp only; rw [State.setLin_mem]
@[simp] theorem State.advance_bufs (s : State) (n : Nat) : (s.advance n).bufs = s.bufs := by
  unfold State.advance; dsimp only; rw [State.setLin_bufs]
@[simp] theorem State.advance_gens (s : State) (n : Nat) : (s.advance n).gens = s.gens := by
  unfold State.advance; dsimp only; rw [State.setLin_gens]
@[simp] theorem State.advance_pools (s : State) (n : Nat) : (s.advance n).pools = s.pools := by
  unfold State.advance; dsimp only; rw [State.setLin_pools]
@[simp] theorem State.advance_copyWait (s : State) (n : Nat) : (s.advance n).copyWait = s.copyWait := by
  unfold State.advance; dsimp only; rw [State.setLin_copyWait]
@[simp] theorem State.advance_engines (s : State) (n : Nat) : (s.advance n).engines = s.engines := by
  unfold State.advance; dsimp only; rw [State.setLin_engines]
@[simp] theorem State.advance_chanJobs (s : State) (n : Nat) : (s.advance n).chanJobs = s.chanJobs := by
  unfold State.advance; dsimp only; rw [State.setLin_chanJobs]
@[simp] theorem State.advance_jq (s : State) (n : Nat) : (s.advance n).jq = s.jq := by
  unfold State.advance; dsimp only; rw [State.setLin_jq]
@[simp] theorem State.advance_mgmtQ (s : State) (n : Nat) : (s.advance n).mgmtQ = s.mgmtQ := by
  unfold State.advance; dsimp only; rw [State.setLin_mgmtQ]
@[simp] theorem State.advance_loop (s : State) (n : Nat) : (s.advance n).loop = s.loop := by
  unfold State.advance; dsimp only; rw [State.setLin_loop]
@[simp] theorem State.advance_heads (s : State) (n : Nat) : (s.advance n).heads = s.heads := by
  unfold State.advance; dsimp only; rw [State.setLin_heads]
@[simp] theorem State.advance_spins (s : State) (n : Nat) : (s.advance n).spins = s.spins := by
  unfold State.advance; dsimp only; rw [State.setLin_spins]
@[simp] theorem State.advance_axes (s : State) (n : Nat) : (s.advance n).axes = s.axes := by
  unfold State.advance; dsimp only; rw [State.setLin_axes]
@[simp] theorem State.advance_lib (s : State) (n : Nat) : (s.advance n).lib = s.lib := by
  unfold State.advance; dsimp only; rw [State.setLin_lib]
@[simp] theorem State.advance_cals (s : State) (n : Nat) : (s.advance n).cals = s.cals := by
  unfold State.advance; dsimp only; rw [State.setLin_cals]
@[simp] theorem State.advance_stack (s : State) (n : Nat) : (s.advance n).stack = s.stack := by
  unfold State.advance; dsimp only; rw [State.setLin_stack]
@[simp] theorem State.advance_hep (s : State) (n : Nat) : (s.advance n).hep = s.hep := by
  unfold State.advance; dsimp only; rw [State.setLin_hep]
@[simp] theorem State.advance_ms (s : State) (n : Nat) : (s.advance n).ms = s.ms := by
  unfold State.advance; dsimp only; rw [State.setLin_ms]
@[simp] theorem State.advance_flash (s : State) (n : Nat) : (s.advance n).flash = s.flash := by
  unfold State.advance; dsimp only; rw [State.setLin_flash]
@[simp] theorem State.advance_tally (s : State) (n : Nat) : (s.advance n).tally = s.tally := by
  unfold State.advance; dsimp only; rw [State.setLin_tally]
@[simp] theorem State.advance_firm (s : State) (n : Nat) : (s.advance n).firm = s.firm := by
  unfold State.advance; dsimp only; rw [State.setLin_firm]
@[simp] theorem State.advance_regs (s : State) (n : Nat) : (s.advance n).regs = s.regs := by
  unfold State.advance; dsimp only; rw [State.setLin_regs]
@[simp] theorem State.advance_rd (s : State) (n : Nat) (f : Fld) (j : Nat) : (s.advance n).rd f j = s.rd f j := by
  unfold State.rd; rw [State.advance_regs]
@[simp] theorem State.advance_now (s : State) (n : Nat) : (s.advance n).now = s.now + n := by
  unfold State.advance; dsimp only

/-! ### The linear count -/

theorem split_mod (t h m : Nat) : h * (t / h % m) + t % h = t % (m * h) := by
  rw [Nat.mul_comm m h, Nat.mod_mul, Nat.add_comm]

theorem State.setLin_lin (s : State) (t : Nat) : (s.setLin t).lin = t % linMod := by
  simp only [State.lin, State.setLin, linMod]
  exact split_mod t hz (2 ^ 32)

theorem State.lin_congr {s t : State} (h : t.tb = s.tb) : t.lin = s.lin := by
  unfold State.lin; rw [h]

theorem State.advance_tb (s : State) (n : Nat) : (s.advance n).tb = (s.setLin (s.lin + n)).tb := by
  unfold State.advance; dsimp only

theorem State.advance_lin (s : State) (n : Nat) : (s.advance n).lin = (s.lin + n) % linMod :=
  (State.lin_congr (s.advance_tb n)).trans (s.setLin_lin _)

end Sys2Proof.Machine
end

