-- ==== Sys2Proof/Machine/Pins.lean ====
section
/-!
DEFINITION. The pins: the balls that carry them (R935 to R938), and the levels of the output pins as the state gives them (R512, R937,
R940, R942).
-/

namespace Sys2Proof.Machine

/-! ### Balls (R935 to R938) -/

/-- The letters of ball rows, in order (R935). -/
def rowLetters : List Char :=
  ['A', 'B', 'C', 'D', 'E', 'F', 'G', 'H', 'J', 'K', 'L', 'M', 'N', 'P', 'T', 'U', 'V', 'W', 'Y']

/-- The name of a ball row by its index, 1 to 69 (R935). -/
def rowName (i : Nat) : String :=
  let k := i - 1
  let c := rowLetters.getD (k % 19) 'A'
  if k < 19 then String.singleton c else String.singleton (rowLetters.getD (k / 19 - 1) 'A') ++ String.singleton c

/-- A ball: the index of its row and its column, from the top of the package. -/
structure Ball where
  row : Nat
  col : Nat
deriving DecidableEq, Repr

/-- The name of a ball. -/
def Ball.name (b : Ball) : String := rowName b.row ++ toString b.col

/-- The ball of a signal of station n: transmit or receive, lane 0 or 1, the negative or the positive line (R936). -/
def stationBall (n : Nat) (tx : Bool) (lane : Nat) (neg : Bool) : Ball :=
  let m := n % 64
  { row := (if n < 64 then 1 else 54) + 4 * (m / 16) + (if tx then 0 else 2)
    col := 3 + 4 * (m % 16) + 2 * lane + (if neg then 1 else 0) }

/-- The pins of a picker axis (R938). -/
inductive AxPin where
  | step | dir | en | flt | home
deriving DecidableEq, Repr

/-- The ball of a pin of picker axis n, 0 to 7 (R938). -/
def axisBall (n : Nat) : AxPin → Ball
  | .step => { row := 54 + 2 * n, col := 67 }
  | .dir => { row := 54 + 2 * n, col := 68 }
  | .en => { row := 54 + 2 * n, col := 69 }
  | .flt => { row := 55 + 2 * n, col := 67 }
  | .home => { row := 55 + 2 * n, col := 68 }

/-- The other pins of the edge strips, with their balls (R937). -/
def edgePins : List (String × String) :=
  [("A1", "XTAL_25M_IN"), ("A2", "XTAL_25M_OUT"), ("C1", "AOCLK_XI"), ("C2", "AOCLK_XO"), ("D1", "PORST_N"), ("D2", "PERST_N"),
   ("E1", "PWRFAIL_N"), ("E2", "WAKE_N"), ("F1", "PPS_IN"), ("G1", "FAULT_N"), ("G2", "THERMTRIP_N"), ("H1", "SMB_SCL"), ("H2", "SMB_SDA"),
   ("J1", "CASC_ROLE"), ("J2", "TALLY_SEAL_REQ"), ("K1", "MGMT_ADDR0"), ("K2", "MGMT_ADDR1"), ("L1", "TCK"), ("L2", "TMS"), ("M1", "TDI"),
   ("M2", "TDO"), ("N1", "TRST_N"), ("A67", "CASC0_TXP"), ("A68", "CASC0_TXN"), ("C67", "CASC0_RXP"), ("C68", "CASC0_RXN"),
   ("E67", "CASC1_TXP"), ("E68", "CASC1_TXN"), ("G67", "CASC1_RXP"), ("G68", "CASC1_RXN"), ("BU1", "PK0_GRIP"), ("BU2", "PK1_GRIP"),
   ("BV1", "PK0_DISC"), ("BV2", "PK1_DISC"), ("BW1", "PK0_JAW_OPEN"), ("BW2", "PK1_JAW_OPEN"), ("BY1", "PK0_SLOT"), ("BY2", "PK1_SLOT"),
   ("CA1", "DOOR_CLOSED"), ("CA2", "DOOR_LOCK"), ("CB1", "DOOR_LOCKED")]

/-! ### Output pins (R512, R937, R942) -/

/-- The output pins whose levels the state holds; AXn_STEP and AXn_DIR are seen in the steps that are put out. -/
inductive OutPin where
  | faultN | thermtripN | doorLock
  | axEn (n : Fin 8)
  | grip (m : Fin 2)
deriving DecidableEq, Repr

/-- The level that the controller drives on a pin, none where it drives none: an open drain released, or a gripper or bolt output from
PORST_N until controller firmware first drives it (R937, R940, R942). DESIGN CHOICE, assumption 237. -/
def State.outPin (s : State) : OutPin → Option Bool
  | .faultN => if s.pw.faultN then some false else none
  | .thermtripN => if s.pw.thermTrip then some false else none
  | .doorLock => if s.pw.driven then some s.lib.lockOut else none
  | .axEn n => some (s.axState (256 + n) != axDisabled)
  | .grip m => if s.pw.driven then some (s.flag Reg.LIB_PK_GRIP m) else none

end Sys2Proof.Machine
end

