-- ==== Sys2Proof/WellFormed.lean ====
section
/-!
DEFINITION. What a command's operands may be: the counts and widths that the rules give what a command carries, where its type does
not give them already. A command that is not well formed cannot come from the hardware; the meanings do not rely on it.
-/

namespace Sys2Proof

/-- Every element is a byte. -/
def bytesOk (l : List Nat) : Bool := l.all fun b => decide (b < 256)

/-- A command tag has 12 bits (R640). -/
def tagOk (t : Nat) : Bool := decide (t < 4096)

/-- A home slot of the stack: a magazine of up to 4,096 slots in each of eight cells. -/
def discOk (d : Nat) : Bool := decide (d < 32768)

/-- A guide slot: 532,480 of them in the user band, 2,048 in the lead-in (R184). -/
def slotOk (n : Nat) : Bool := decide (n < 532480)

/-- A link message: 64-bit header and data blocks, a 32-bit CRC (R107, R109). -/
def LinkMsg.wf (m : LinkMsg) : Bool :=
  decide (m.hdr < 2 ^ 64) && m.blocks.all (fun b => decide (b < 2 ^ 64)) && decide (m.crc < 2 ^ 32)

/-- A row as read: a sync score of at most 64 and 7,680 values from −3 to +3 (R196, R256, R258). -/
def RowRead.wf (r : RowRead) : Bool :=
  decide (r.score ≤ 64) && decide (r.soft.length = 7680) && r.soft.all fun v => decide (-3 ≤ v) && decide (v ≤ 3)

/-- A slot as read has 151 rows (R196). -/
def SlotRead.wf (r : SlotRead) : Bool := decide (r.rows.length = 151) && r.rows.all RowRead.wf

/-- The management area of a side: at most 8,192 slots of each copy (R218). -/
def MgmtSide.wf (m : MgmtSide) : Bool :=
  (m.a ++ m.b).all SlotRead.wf && decide (m.a.length ≤ 8192) && decide (m.b.length ≤ 8192)

/-- Bytes of one line of DRAM (R737). -/
def inLine (addr n : Nat) : Bool := decide (1 ≤ n) && decide (addr % 64 + n ≤ 64)

/-- An access to memory concerns bytes of one line, one of 96 slices, 128 stations or 40 engines, and one of a line's four codewords. -/
def MemAct.wf : MemAct → Bool
  | .read _ addr n _ _ => inLine addr n
  | .write _ addr bytes => inLine addr bytes.length && bytesOk bytes
  | .frameStore sl slot _ _ e | .ladderSlot sl slot _ _ e | .writeStore sl slot e =>
    decide (sl < 96) && slotOk slot && (match e with | .dram line cw => decide (line < 2 ^ 26) && decide (cw < 4) | .sram => true)
  | .linkBad stn => match stn with | some n => decide (n < 128) | none => true
  | .dmaBad e _ host => decide (e < 40) && bytesOk host
  | .commandBad _ tag => tagOk tag
  | .handlerRuns _ | .corrected _ | .mergeBad | .sequencerBad | .localBad .. | .otherBad => true

/-- A ring message between cells 0 to 7, or to all (15), with SEQ of 8 bits (R107, R539). -/
def RingIn.wf (m : RingIn) : Bool := decide (m.dst < 16) && decide (m.src < 8) && decide (m.seq < 256)

/-- The bytes of a transfer that was read. -/
def DmaEnd.wf : DmaEnd → Bool
  | .done data => bytesOk data
  | .busError => true
  | .refused => true

/-- The operands are within what the rules give them. -/
def Instr.wf : Instr → Bool
  | .registerWrite _ addr len data => decide (0 < len.val) && decide (addr.toNat + len.val ≤ 2 ^ 26) && decide (data < 2 ^ (8 * len.val))
  | .eventWindowEnd code _ => decide (code < 65536)
  | .launch _ tag => tagOk tag
  | .sensorDelivered _ msg _ => msg.wf
  | .samplesReceive _ msg => msg.wf
  | .healthReceive _ msg => msg.wf
  | .regrspReceive _ msg => msg.wf
  | .wrackReceive _ msg => msg.wf
  | .echorspReceive _ msg _ => msg.wf
  | .linkMeasureDone _ echoes => decide (echoes.length = 16)
  | .zoneResolve disc _ _ _ found => discOk disc && found.all SlotRead.wf
  | .frameDecode _ slot => slotOk slot
  | .ladderRungDecode _ slot => slotOk slot
  | .rowShiftSearch _ slot => slotOk slot
  | .ladderBudgetExpire _ tag => tagOk tag
  | .ladderSlotClaim _ slot => slotOk slot
  | .ladderReread _ slot => slotOk slot
  | .rereadDecode _ slot => slotOk slot
  | .softCombine _ slot => slotOk slot
  | .outerErasureDecode _ slot => slotOk slot
  | .loopLaneRun _ bad => bad.all fun n => decide (n < 2048)
  | .seekRequest _ _ slot cmd => slotOk slot && cmd.all fun c => tagOk c.2
  | .layerJumpRequest _ _ _ cmd => cmd.all fun c => tagOk c.2
  | .mountComplete _ sideA sideB rebuiltA rebuiltB => sideA.wf && sideB.wf && (rebuiltA ++ rebuiltB).all fun z => decide (z.1 < 1024) && z.2.all SlotRead.wf
  | .doorWaitTimeout _ tag => tagOk tag
  | .transferWaitTimeout _ tag => tagOk tag
  | .inventoryComplete _ present => decide (present.length ≤ 4096)
  | .cascPortUp _ echoes _ => decide (echoes.length = 16)
  | .joinReceive _ _ msg => msg.wf
  | .membersReceive _ msg => msg.wf
  | .ringCmdReceive _ msg => msg.wf
  | .ringFrameReceive _ msg => msg.wf
  | .ringCatReceive _ msg => msg.wf
  | .ringLibReceive _ msg => msg.wf
  | .ringAckReceive _ msg => msg.wf
  | .ringMessageForward _ mtype msg => decide (mtype < 256) && msg.wf
  | .crossCellTimeout _ tag => tagOk tag
  | .hostLinkUp rate width _ => decide (1 ≤ rate) && decide (rate ≤ 5) && [4, 8, 16].contains width
  | .peerRequest _ len _ data => data.all fun d => decide (d.length = len.val + 1) && bytesOk d
  | .fwDownload _ _ words => words.all fun w => w.all fun x => decide (x < 2 ^ 64)
  | .dmaDescriptorEnd _ result => result.wf
  | .dmaBusRetry _ result => result.wf
  | .dramTrainingDone chans => decide (chans.length = 4)
  | .mergeBufferDrain acts => acts.all MemAct.wf
  | .frontierSearch disc _ _ _ found => discOk disc && found.all SlotRead.wf
  | .thermalReading _ temps => decide (temps.length = 16)
  | .tallyPfClose low => low.all fun n => decide (n < 2 ^ 64)
  | .bar0ReservedAccess .. | .fetchHold .. | .warmReset .. | .coldReset .. | .resetTakesEffect
  | .porstAssert | .porstDeassert .. | .timeSecondRollover | .cclkStart | .ppsEdge ..
  | .timeStep | .holdoverTimeout | .ppsEnableWrite .. | .ppsPolarityWrite .. | .timeLoadArm
  | .timeLoadEffect | .fineTimeReload .. | .emberLaunchExit | .seekSlot .. | .vgConfigApply ..
  | .servoPeriodStart | .periodPresent | .actuatePresent | .sensorMiss .. | .linkBlockError ..
  | .wrdataSend .. | .wrdataRetransmit .. | .stepSend .. | .stepRetransmit .. | .stopSend ..
  | .echoSend .. | .feRegAccess .. | .feRegTimeout .. | .linkEnable .. | .linkDisable ..
  | .trainingBatchOpen .. | .trainingBatchClose .. | .linkTrainDetected .. | .linkBlockLock .. | .linkDeskewDone ..
  | .linkIdentifyDone .. | .linkTrainTimeout .. | .linkRetry .. | .linkRetryTimeout .. | .retrainRequest ..
  | .retrainStart .. | .linkRelease .. | .linkLoss .. | .linkDegradedWindow .. | .sliceAssign ..
  | .sliceWait .. | .sliceRelease .. | .sliceReleaseRequest .. | .sliceStatClear .. | .sliceModeChange ..
  | .eqCommit .. | .eqCommitCopy .. | .eqShadowWrite .. | .frameEncode .. | .rateMatchTick ..
  | .slotVerify .. | .readPause .. | .readResume .. | .holdStep .. | .oneTrackStep .. | .loopOverrun ..
  | .loopParamCopy | .loopSlotEnable .. | .loopSlotDisable .. | .loopDescWrite .. | .loopBankWrite ..
  | .loopSwapSlot .. | .loopSwapGroup .. | .loopSwapExecute .. | .loopSatClear | .safeProgramDone
  | .headAcquire .. | .headSeek .. | .headLayer .. | .headPark .. | .headOpc ..
  | .headClearFault .. | .acqStageLocked .. | .acqStageTimeout .. | .seekJumpDone .. | .longSeekSettled ..
  | .seekRestart .. | .layerMoveEnd .. | .relayLocked .. | .layerJumpTimeout .. | .lockLoss ..
  | .headRecoveryDone .. | .headRecoveryTimeout .. | .powerLimitDetect .. | .opcTrigger .. | .opcReadback ..
  | .headParkDone .. | .spindleTargetWrite .. | .spindleSenseEnd .. | .spindleWaitSlowEnd .. | .spindleRevBrakeEnd ..
  | .spindleAlignStart .. | .spindleAlignEnd .. | .spindleHandover .. | .spindleCatchDone .. | .spindleAttemptFail ..
  | .spindleRetry .. | .spindleLockedRotor .. | .spindleObserverLoss .. | .spindleReacquired .. | .spindleReacqTimeout ..
  | .spindleVbusChange .. | .spindleBrakeEnd .. | .spindleHoldEnd .. | .spindleBrakeTimeout .. | .spindleAtSpeed ..
  | .phaseLockChange .. | .spindleClearFault .. | .axisMove .. | .axisStop .. | .axisHome ..
  | .axisClear .. | .axisTargetWrite .. | .axisMoveDone .. | .axisHomeDone .. | .axisFaultInput ..
  | .motionStopAll | .libraryEnable | .doorRequestOpen | .doorRequestLock .. | .doorLockConfirmed
  | .doorOpenedUnexpected .. | .transferStart | .transferProgress .. | .transferResolve .. | .cascadeEnable
  | .cascadeForget | .cascPortDown .. | .announceSend | .announceReceive .. | .syncReceive ..
  | .ringRetransmit .. | .memberAbsent .. | .masterLost | .stackSyncTimeout | .proxyDeliver ..
  | .hostEndpointReset .. | .configRequest .. | .hdmDecoderCommit .. | .hdmHostRead .. | .hdmHostWrite ..
  | .peerWindowCommit | .peerCommitEffect | .translationCompletion .. | .atsInvalidate .. | .hostCacheError ..
  | .completionWrite .. | .msixSend .. | .msixUnmask .. | .cqFullTimeout .. | .smbIdentify
  | .smbHealth | .smbSetOffset .. | .smbReadReg | .smbWake .. | .doorbellWrite ..
  | .commandFetch .. | .commandStart .. | .nop .. | .identify .. | .getLog ..
  | .setFeature .. | .getFeature .. | .abort .. | .read .. | .write ..
  | .verify .. | .flush .. | .zoneClose .. | .discFinalize .. | .bufferAlloc ..
  | .bufferRelease .. | .bufferShare .. | .mount .. | .unmount .. | .move ..
  | .inventory .. | .timeSet .. | .timeGet .. | .tallyRead .. | .tallyAck ..
  | .fwActivate .. | .modeSet .. | .stationDiag .. | .createCq | .deleteCq
  | .createSq | .deleteSq | .deleteSqComplete | .setGroup | .queryCq
  | .querySq | .queryGroup | .copyBufferGrant | .bpmEnable | .bpmDisable
  | .dmaChannelStart .. | .dmaChannelRun .. | .dmaChannelReset .. | .dramInitDone .. | .scrubStep ..
  | .selfRefreshEnter | .cacheInvalidate .. | .cacheDrain .. | .cacheDrainInvalidate ..
  | .cacheLoadLock .. | .cacheOpDone .. | .cacheWayLockWrite .. | .cacheWayPowerWrite .. | .eccInjectArm ..
  | .flashProgram .. | .flashSectorErase .. | .flashSuspend | .flashResume | .flashReadArray
  | .flashProgramDone .. | .flashEraseDone .. | .erasePendingLong | .bootSelect .. | .journalReplay
  | .journalReclaim | .pwrfailAssert | .pfJournalWrite .. | .pwrfailDeassert | .pwrfailRecover
  | .supplyFault .. | .wake .. | .modeTransitionDone .. | .fwReady .. | .watchdogKick
  | .watchdogExpire | .thermalExit | .thermtrip | .powerCapEstimate .. | .capExceeded
  | .eventLogCopy | .eventInterrupt | .tallyStart .. | .tallyMinuteBoundary .. | .tallyMsSample
  | .tallyTapEvent .. | .tallyRecordProgram .. | .tallySectorErase | .tallySeal .. | .calTrigger ..
  | .calRunAll | .calPortRun .. | .calPortApply .. | .calSliceRunDone .. | .calSliceApply ..
  | .calTrimRun .. | .calTrimApply .. | .calStore .. | .kilnEnd | .kilnTimeout
  | .fwActivateReset | .trialConfirm | .trialTimeout | .flashSeqError | .ringEchoReceive ..
  | .referenceClockLost | .pickerDiscFall .. => true

end Sys2Proof
end

