-- ==== Sys2Proof/Tests/Slice0.lean ====
section
/-!
SUPPORT. The model's own tests: ill-formed commands that WellFormed refuses, small steps with results worked out from the manual, and for each
statement with hypotheses a state and operands that meet them.
-/

namespace Sys2Proof.Tests
open Sys2Proof Sys2Proof.Machine

set_option Elab.async false
set_option linter.all false
open Sys2Proof.Machine
/-- The reset state with register fields written. -/
def regs (l : List (Fld × Nat × Nat)) : State := l.foldl (fun t x => t.wr x.1 x.2.1 x.2.2) {}
/-- A mode. -/
def inMode (s : State) (m : Nat) : State := s.wr Reg.GCTL_STATUS_MODE 0 m

/-- An intact message. -/
def mkMsg (ty seq tag : Nat) (bs : List Nat) : LinkMsg :=
  { hdr := msgHeader ty bs.length seq tag, blocks := bs, crc := msgCrc (msgHeader ty bs.length seq tag) bs }

/-- A command that has a launch time. -/
def aCmd (l : Nat) : Cmd := { sq := 0, tag := 0, pkt := 0, ord := 0, launch := some l, ready := true }

/-- A command ready to run, with its packet given as (byte offset, value) fields. -/
def cmdOf (p : List (Nat × Nat)) : Cmd :=
  { sq := 0, tag := 0, pkt := p.foldl (fun a x => a + x.2 * 2 ^ (8 * x.1)) 0, ord := 1, launched := true, ready := true }
/-- BURN with that one command in flight. -/
def withCmd (p : List (Nat × Nat)) : State := { inMode {} mBurn with cmds := [cmdOf p] }

end Sys2Proof.Tests
namespace Sys2Proof.Tests
open Sys2Proof Sys2Proof.Machine

set_option Elab.async false
set_option linter.all false
/-- A submission queue and a completion queue. -/
def theSq : Sq := { base := 0x10000, log2 := 4, cq := 3, quota := 0, acct := 12 }
def theCq : Cq := { base := 0x20000, log2 := 4, vector := 9, ien := true }
/-- Queue 5 of group 0 with a command to fetch, and its completion queue 3; the group and fetching are enabled. -/
def mkQueues (s : State) : State :=
  { (s.set1 Reg.CMDQ_CTRL_EN 0).clr Reg.GCTL_CTRL_FETCH_HOLD 0 with
    sqs := [(5, { theSq with tail := 1 })], cqs := [(3, theCq)], grps := [(0, { en := true })] }

/-- Disc 0 stands mounted in station 0, whose port is ACTIVE and whose heads are enabled. -/
def onStation (s : State) : State :=
  { ((s.setPort 0 lkActive).set1 Reg.STN_HD_CTRL_EN 0).set1 Reg.STN_HD_CTRL_EN 1 with
    discs := [(0, { known := true, loc := .station 0, mounted := true })] }
/-- Pools are active with 16 buffers each. -/
def pooled (s : State) : State :=
  (upTo 6).foldl (fun t p => t.wr Reg.BPM_POOL_CNT_COUNT p 16) (s.set1 Reg.BPM_STATUS_ACTIVE 0)
/-- A copy READ under way whose one frame has no buffer. -/
def copyCmd : Cmd :=
  { cmdOf [(0, 0x10), (24, 65536)] with phase := .started, frames := [{ zone := 0, index := 0, slot := 0, buf := noBuf }] }

theorem popcount_zero (n : Nat) : popcount n 0 = 0 := by
  induction n with
  | zero => rfl
  | succ n ih => simp [popcount, ih]

theorem cwDiff_nil (k : Nat) : cwDiff [] [] k = 0 := by
  have h : ∀ (l : List Nat) (a : Nat), l.foldl (fun x _ => x + 0) a = a := by
    intro l; induction l with
    | nil => intro a; rfl
    | cons b r ih => intro a; exact ih a
  simp only [cwDiff, diff64, List.getD_nil, Nat.xor_self, popcount_zero]
  exact h _ _

/-- A slot read back as it was written, each sync with a score. -/
def backEnc (v : Nat) : Enc :=
  { zone := 0, index := 0, slot := 8320, words := [], wrack := some 1,
    back := (upTo 151).map fun r => (r, { words := [], score := v, off := 0, lost := false }) }

theorem backEnc_words : (backEnc 64).backWords = [] := by decide +kernel

/-- A slot written and read back alike passes verify. -/
theorem backEnc_passes (s : State) (h0 : s.regs = []) : s.vfyFail 1 (backEnc 64) = none := by
  have hc : ((upTo 18).any fun k => decide (s.rd Reg.SLC_VFY_CFG_CW_MAX 1 < cwDiff (backEnc 64).words [] k)) = false := by
    simp [show (backEnc 64).words = [] from rfl, cwDiff_nil]
  have hh : ¬ hdrSame (backEnc 64).words [] < s.rd1 Reg.SLC_VFY_CFG_HDR_MIN 1 := by
    simp only [State.rd1, State.rd, h0]; decide +kernel
  have h1 : ((backEnc 64).back.any fun p => decide (p.2.score < 56)) = false := by decide +kernel
  have h2 : ((backEnc 64).back.any fun p => p.2.lost) = false := by decide +kernel
  simp only [State.vfyFail, backEnc_words, hc, hh, h1, h2]
  simp [backEnc]

/-- A VERIFY under way. -/
def vfyCmd : Cmd :=
  { cmdOf [(0, 0x12), (24, 65536)] with phase := .started, frames := [{ zone := 0, index := 0, slot := 5, fate := .ladder }] }

end Sys2Proof.Tests
namespace Sys2Proof.Tests
open Sys2Proof Sys2Proof.Machine

set_option Elab.async false
set_option linter.all false
theorem headerFrom_zero : (headerFrom fun _ => 0).filter headerOk = none := by decide +kernel
theorem headerCopies_zero (r : Array Int) (h : ∀ i, r.getD i 0 = 0) : headerCopies r = [] := by
  unfold headerCopies
  simp only [h]
  have := headerFrom_zero
  cases e : headerFrom (fun _ => 0) with
  | none => simp
  | some x =>
    rw [e] at this
    simp at this ⊢
    rw [this]; simp
theorem headerOf_zero (rows : List (Array Int)) (h : ∀ r ∈ rows, ∀ i, r.getD i 0 = 0) : headerOf rows = none := by
  have h1 : rows.flatMap headerCopies = [] := by
    rw [List.flatMap_eq_nil_iff]; intro r hr; exact headerCopies_zero r (h r hr)
  have h2 : ∀ i (a : Int), rows.foldl (fun a r => (upTo 17).foldl (fun x c => x + r.getD (450 * c + i) 0) a) a = a := by
    intro i
    have hk : ∀ (l : List Nat) (r : Array Int) (a : Int), (∀ i, r.getD i 0 = 0) → l.foldl (fun x c => x + r.getD (450 * c + i) 0) a = a := by
      intro l r a hr; simp only [hr, Int.add_zero]; induction l with
      | nil => rfl
      | cons b t ih => exact ih
    clear h1
    induction rows with
    | nil => intro a; rfl
    | cons r t ih =>
      intro a
      rw [List.foldl_cons, hk _ _ _ (h r (by simp))]
      exact ih (fun r hr => h r (by simp [hr])) a
  unfold headerOf headerSum
  simp only [h1, h2]
  exact headerFrom_zero
theorem content_empty (n : Nat) (sh : Int) (row i : Nat) : (Soft.content { slot := n } sh row).getD i 0 = 0 := by
  unfold Soft.content
  simp [mget, Array.getD]
theorem map_getD_zero (f : Nat → Array Int) (hf : ∀ k i, (f k).getD i 0 = 0) (l : List Nat) (r i : Nat) :
    ((l.map f).toArray.getD r #[]).getD i 0 = 0 := by
  have e : (l.map f).toArray.getD r #[] = ((l.map f)[r]?).getD #[] := by
    simp [Array.getD_eq_getD_getElem?]
  rw [e, List.getElem?_map]
  cases l[r]? with
  | none => rfl
  | some k => exact hf k i
theorem contents_empty (n : Nat) (shs : List (Nat × Int)) (r i : Nat) : ((Soft.contents { slot := n } shs).getD r #[]).getD i 0 = 0 :=
  map_getD_zero _ (fun _ _ => content_empty ..) _ _ _
theorem decode_empty (m n : Nat) (shs : List (Nat × Int)) (k : Nat → Option CwObs) : (decodeSoft m { slot := n } shs k).hdr = none := by
  have h : headerOf [(Soft.contents { slot := n } shs).getD 0 #[]] = none :=
    headerOf_zero _ (by intro r hr i; rw [List.mem_singleton] at hr; subst hr; exact contents_empty n shs 0 i)
  simp only [decodeSoft, h]
theorem head_empty (n : Nat) (shs : List (Nat × Int)) : headerOf [(Soft.contents { slot := n } shs).getD 0 #[]] = none :=
  headerOf_zero _ (by intro r hr i; rw [List.mem_singleton] at hr; subst hr; exact contents_empty n shs 0 i)
theorem shifted_empty (n : Nat) : shiftedHeader { slot := n } = none := by
  unfold shiftedHeader
  simp only [List.findSome?_eq_none_iff]
  intro t _
  rw [headerCopies_zero _ (content_empty n t 0)]; rfl
theorem rowShift_empty (n : Nat) (sh : List (Nat × Nat)) : (rowShift { slot := n } sh false).2.hdr = none := by
  unfold rowShift
  dsimp only
  rw [decode_empty, shifted_empty]; rfl
/-- A slot every bit of which reads as an erasure. -/
def blankSoft : Soft := { slot := 5, rows := (upTo 151).map fun r => (r, List.replicate 7744 (some 0)), hdrDone := true }
theorem mfind_same {α : Type} (v : α) (l : List Nat) (k : Nat) (h : k ∈ l) : mfind (l.map fun r => (r, v)) k = some v := by
  induction l with
  | nil => cases h
  | cons a t ih =>
    rw [List.map_cons, mfind]
    split
    · rfl
    · rename_i hk
      rcases List.mem_cons.1 h with rfl | h'
      · exact absurd rfl hk
      · exact ih h'
theorem blankSoft_full : blankSoft.full = true := by
  unfold Soft.full
  rw [List.all_eq_true]
  intro r hr
  unfold Soft.rowFull blankSoft
  rw [mfind_same _ _ _ hr]
  show (_ && _) = true
  rw [Bool.and_eq_true]
  exact ⟨by rw [List.length_replicate]; rfl, List.all_eq_true.2 fun x hx => by rw [List.eq_of_mem_replicate hx]; rfl⟩
theorem blankSoft_headed : blankSoft.headed = blankSoft := by
  unfold Soft.headed
  rw [show blankSoft.hdrDone = true from rfl, Bool.true_or, if_pos rfl]
theorem blank_complete (x : Slice) (h1 : x.lastLead = none) (h2 : x.lastTrail = none) : x.complete blankSoft.headed = true := by
  simp only [blankSoft_headed, Slice.complete, blankSoft_full, h1, h2]; rfl
theorem reread_empty (n pfa : Nat) : (rereadTry { slot := n } none pfa).1.hdr = none ∧ (rereadTry { slot := n } none pfa).2.2.hdr = none := by
  have ho : (none : Option (List Nat)).orElse (fun _ => (decodeSoft ladderIters { slot := n } [] fun _ => none).hdr) = none := by
    rw [decode_empty]; rfl
  have e : rereadTry { slot := n } none pfa = (decodeSoft ladderIters { slot := n } [] fun _ => none,
      rowShift { slot := n } (rowShares (decodeSoft ladderIters { slot := n } [] fun _ => none).cws) false) := by
    unfold rereadTry
    simp only [ho, decode_empty]
    rfl
  rw [e]
  exact ⟨decode_empty .., rowShift_empty ..⟩

/-- The tally runs, and every slot of the store's first sector was abandoned. -/
def spentSector : State :=
  { State.set1 {} Reg.TALLY_STATUS_RUNNING 0 with
    flash := { words := (upTo 1024).map fun i => (secWord 228 + 8 * i, { data := 0 }) }, tally := { abandoned := upTo 1024 } }

theorem eraseDups_nodup (l : List Nat) (h : l.Nodup) : l.eraseDups = l := by
  induction l with
  | nil => rfl
  | cons a r ih =>
    rw [List.eraseDups_cons, List.filter_eq_self.2, ih (List.nodup_cons.1 h).2]
    intro b hb
    have := (List.nodup_cons.1 h).1
    simp; rintro rfl; exact this hb
theorem spent_used : spentSector.usedSlots = upTo 1024 := by
  have hw : spentSector.fwords (secWord 228) (secWord 356) = spentSector.flash.words := by
    unfold State.fwords
    rw [List.filter_eq_self]
    intro p hp
    simp only [spentSector, upTo, List.mem_map, List.mem_range] at hp
    obtain ⟨i, hi, rfl⟩ := hp
    simp [secWord, sectorWords]
    exact decide_eq_true (by omega)
  unfold State.usedSlots
  rw [hw, eraseDups_nodup]
  · simp [spentSector, upTo, Function.comp_def]
  · simp [spentSector, upTo, Function.comp_def, List.nodup_range]

theorem spent_first : spentSector.sectorSpent spentSector.usedSlots 0 = true := by
  have hf : ((upTo 1024).filter fun i => i / 1024 == 0) = upTo 1024 := by
    rw [List.filter_eq_self]
    intro i hi
    simp only [upTo, List.mem_range] at hi
    simp; omega
  unfold State.sectorSpent
  rw [spent_used, hf]
  simp only [upTo, List.length_range, beq_self_eq_true, Bool.true_and, List.all_eq_true, List.mem_range]
  intro i hi
  have hc : spentSector.tally.abandoned.contains i = true := by
    simp [spentSector, upTo, hi]
  have hr : spentSector.tallyRecord i = none := by
    simp only [State.tallyRecord, hc]
    simp
  rw [hr]; simpa using hc
end Sys2Proof.Tests

namespace Sys2Proof.Tests
open Sys2Proof Sys2Proof.Machine

set_option Elab.async false
set_option linter.all false

/-! ### Ill-formed commands, one for each check of WellFormed -/

/-- A row and a slot as read, well formed, and slots with one row that is not. -/
def aRow : RowRead := { score := 64, soft := List.replicate 7680 1 }
def aSlot (r : RowRead) : SlotRead := { rows := r :: List.replicate 150 aRow }
def badScore : SlotRead := aSlot { aRow with score := 65 }
def badSoft : SlotRead := aSlot { aRow with soft := List.replicate 7680 4 }
def badCount : SlotRead := aSlot { aRow with soft := [] }

theorem test_wf_accepts : (Instr.zoneResolve 0 0 0 0 [aSlot aRow]).wf = true ∧ (Instr.launch 0 4095).wf = true
    ∧ (Instr.registerWrite .host 0x3FFFFFC 4 0xFFFFFFFF).wf = true ∧ (Instr.mergeBufferDrain [.read .sequencer 56 8 .clean .clean]).wf = true := by
  decide +kernel

theorem test_wf_refuses_registerWrite_empty : (.registerWrite .host 0 0 0 : Instr).wf = false := by decide +kernel

theorem test_wf_refuses_registerWrite_beyond : (.registerWrite .host 0x3FFFFFF 2 0 : Instr).wf = false := by decide +kernel

theorem test_wf_refuses_registerWrite_data : (.registerWrite .host 0 4 (2 ^ 32) : Instr).wf = false := by decide +kernel

theorem test_wf_refuses_eventWindowEnd : (.eventWindowEnd 65536 0 : Instr).wf = false := by decide +kernel

theorem test_wf_refuses_launch : (.launch 0 4096 : Instr).wf = false := by decide +kernel

theorem test_wf_refuses_sensorDelivered_hdr :
    (.sensorDelivered 0 { hdr := 2 ^ 64, blocks := [], crc := 0 } 0 : Instr).wf = false := by decide +kernel

theorem test_wf_refuses_sensorDelivered_block :
    (.sensorDelivered 0 { hdr := 0, blocks := [2 ^ 64], crc := 0 } 0 : Instr).wf = false := by decide +kernel

theorem test_wf_refuses_sensorDelivered_crc :
    (.sensorDelivered 0 { hdr := 0, blocks := [], crc := 2 ^ 32 } 0 : Instr).wf = false := by decide +kernel

theorem test_wf_refuses_samplesReceive :
    (.samplesReceive 0 { hdr := 2 ^ 64, blocks := [], crc := 0 } : Instr).wf = false := by decide +kernel

theorem test_wf_refuses_healthReceive :
    (.healthReceive 0 { hdr := 2 ^ 64, blocks := [], crc := 0 } : Instr).wf = false := by decide +kernel

theorem test_wf_refuses_regrspReceive :
    (.regrspReceive 0 { hdr := 2 ^ 64, blocks := [], crc := 0 } : Instr).wf = false := by decide +kernel

theorem test_wf_refuses_wrackReceive :
    (.wrackReceive 0 { hdr := 2 ^ 64, blocks := [], crc := 0 } : Instr).wf = false := by decide +kernel

theorem test_wf_refuses_echorspReceive :
    (.echorspReceive 0 { hdr := 0, blocks := [], crc := 2 ^ 32 } 0 : Instr).wf = false := by decide +kernel

theorem test_wf_refuses_linkMeasureDone : (.linkMeasureDone 0 [] : Instr).wf = false := by decide +kernel

theorem test_wf_refuses_zoneResolve_disc : (.zoneResolve 32768 0 0 0 [] : Instr).wf = false := by decide +kernel

theorem test_wf_refuses_zoneResolve_rows : (.zoneResolve 0 0 0 0 [{ rows := [] }] : Instr).wf = false := by decide +kernel

theorem test_wf_refuses_zoneResolve_score : (.zoneResolve 0 0 0 0 [badScore] : Instr).wf = false := by decide +kernel

theorem test_wf_refuses_zoneResolve_soft : (.zoneResolve 0 0 0 0 [badSoft] : Instr).wf = false := by decide +kernel

theorem test_wf_refuses_zoneResolve_count : (.zoneResolve 0 0 0 0 [badCount] : Instr).wf = false := by decide +kernel

theorem test_wf_refuses_frontierSearch_disc : (.frontierSearch 32768 0 0 0 [] : Instr).wf = false := by decide +kernel

theorem test_wf_refuses_frontierSearch_found :
    (.frontierSearch 0 0 0 0 [{ rows := [] }] : Instr).wf = false := by decide +kernel

theorem test_wf_refuses_frameDecode : (.frameDecode 0 532480 : Instr).wf = false := by decide +kernel

theorem test_wf_refuses_ladderRungDecode : (.ladderRungDecode 0 532480 : Instr).wf = false := by decide +kernel

theorem test_wf_refuses_rowShiftSearch : (.rowShiftSearch 0 532480 : Instr).wf = false := by decide +kernel

theorem test_wf_refuses_softCombine : (.softCombine 0 532480 : Instr).wf = false := by decide +kernel

theorem test_wf_refuses_rereadDecode : (.rereadDecode 0 532480 : Instr).wf = false := by decide +kernel

theorem test_wf_refuses_ladderBudgetExpire : (.ladderBudgetExpire 0 4096 : Instr).wf = false := by decide +kernel

theorem test_wf_refuses_ladderSlotClaim : (.ladderSlotClaim 0 532480 : Instr).wf = false := by decide +kernel

theorem test_wf_refuses_ladderReread : (.ladderReread 0 532480 : Instr).wf = false := by decide +kernel

theorem test_wf_refuses_outerErasureDecode : (.outerErasureDecode 0 532480 : Instr).wf = false := by decide +kernel

theorem test_wf_refuses_loopLaneRun : (.loopLaneRun 0 [2048] : Instr).wf = false := by decide +kernel

theorem test_wf_refuses_seekRequest_slot : (.seekRequest 0 0 532480 none : Instr).wf = false := by decide +kernel

theorem test_wf_refuses_seekRequest_tag : (.seekRequest 0 0 0 (some (0, 4096)) : Instr).wf = false := by decide +kernel

theorem test_wf_refuses_layerJumpRequest : (.layerJumpRequest 0 0 0 (some (0, 4096)) : Instr).wf = false := by decide +kernel

theorem test_wf_refuses_mountComplete_slot :
    (.mountComplete 0 { a := [{ rows := [] }], b := [] } { a := [], b := [] } [] [] : Instr).wf = false := by decide +kernel

theorem test_wf_refuses_mountComplete_zone :
    (.mountComplete 0 { a := [], b := [] } { a := [], b := [] } [(1024, [])] [] : Instr).wf = false := by decide +kernel

theorem test_wf_refuses_mountComplete_found :
    (.mountComplete 0 { a := [], b := [] } { a := [], b := [] } [] [(0, [{ rows := [] }])] : Instr).wf = false := by decide +kernel

theorem test_wf_refuses_mountComplete_area :
    (.mountComplete 0 { a := List.replicate 8193 { rows := [] }, b := [] } { a := [], b := [] } [] [] : Instr).wf = false := by decide +kernel

theorem test_wf_refuses_doorWaitTimeout : (.doorWaitTimeout 0 4096 : Instr).wf = false := by decide +kernel

theorem test_wf_refuses_transferWaitTimeout : (.transferWaitTimeout 0 4096 : Instr).wf = false := by decide +kernel

theorem test_wf_refuses_crossCellTimeout : (.crossCellTimeout 0 4096 : Instr).wf = false := by decide +kernel

theorem test_wf_refuses_inventoryComplete :
    (.inventoryComplete 0 (List.replicate 4097 true) : Instr).wf = false := by decide +kernel

theorem test_wf_refuses_cascPortUp : (.cascPortUp 0 [] true : Instr).wf = false := by decide +kernel

theorem test_wf_refuses_joinReceive_dst :
    (.joinReceive 0 0 { intact := true, dst := 16, src := 0, seq := 0, items := [] } : Instr).wf = false := by decide +kernel

theorem test_wf_refuses_membersReceive_src :
    (.membersReceive 0 { intact := true, dst := 0, src := 8, seq := 0, items := [] } : Instr).wf = false := by decide +kernel

theorem test_wf_refuses_ringCmdReceive_seq :
    (.ringCmdReceive 0 { intact := true, dst := 0, src := 0, seq := 256, items := [] } : Instr).wf = false := by decide +kernel

theorem test_wf_refuses_ringFrameReceive_seq :
    (.ringFrameReceive 0 { intact := true, dst := 0, src := 0, seq := 256, items := [] } : Instr).wf = false := by decide +kernel

theorem test_wf_refuses_ringCatReceive_seq :
    (.ringCatReceive 0 { intact := true, dst := 0, src := 0, seq := 256, items := [] } : Instr).wf = false := by decide +kernel

theorem test_wf_refuses_ringLibReceive_seq :
    (.ringLibReceive 0 { intact := true, dst := 0, src := 0, seq := 256, items := [] } : Instr).wf = false := by decide +kernel

theorem test_wf_refuses_ringAckReceive_seq :
    (.ringAckReceive 0 { intact := true, dst := 0, src := 0, seq := 256, items := [] } : Instr).wf = false := by decide +kernel

theorem test_wf_refuses_ringMessageForward_mtype :
    (.ringMessageForward 0 256 { intact := true, dst := 0, src := 0, seq := 0, items := [] } : Instr).wf = false := by decide +kernel

theorem test_wf_refuses_ringMessageForward_msg :
    (.ringMessageForward 0 6 { intact := true, dst := 16, src := 0, seq := 0, items := [] } : Instr).wf = false := by decide +kernel

theorem test_wf_refuses_hostLinkUp_rate_low : (.hostLinkUp 0 16 true : Instr).wf = false := by decide +kernel

theorem test_wf_refuses_hostLinkUp_rate_high : (.hostLinkUp 6 16 true : Instr).wf = false := by decide +kernel

theorem test_wf_refuses_hostLinkUp_width : (.hostLinkUp 5 2 true : Instr).wf = false := by decide +kernel

theorem test_wf_refuses_peerRequest_length : (.peerRequest 0 3 0 (some [1]) : Instr).wf = false := by decide +kernel

theorem test_wf_refuses_peerRequest_byte : (.peerRequest 0 0 0 (some [256]) : Instr).wf = false := by decide +kernel

theorem test_wf_refuses_fwDownload : (.fwDownload 0 0 (some [2 ^ 64]) : Instr).wf = false := by decide +kernel

theorem test_wf_refuses_dmaDescriptorEnd : (.dmaDescriptorEnd 0 (.done [256]) : Instr).wf = false := by decide +kernel

theorem test_wf_refuses_dmaBusRetry : (.dmaBusRetry 0 (.done [256]) : Instr).wf = false := by decide +kernel

theorem test_wf_refuses_mergeBufferDrain_line_empty :
    (.mergeBufferDrain [.write 0 0 []] : Instr).wf = false := by decide +kernel

theorem test_wf_refuses_mergeBufferDrain_line_end :
    (.mergeBufferDrain [.read .sequencer 63 2 .clean .clean] : Instr).wf = false := by decide +kernel

theorem test_wf_refuses_mergeBufferDrain_byte : (.mergeBufferDrain [.write 0 0 [256]] : Instr).wf = false := by decide +kernel

theorem test_wf_refuses_mergeBufferDrain_slice :
    (.mergeBufferDrain [.frameStore 96 0 0 0 .sram] : Instr).wf = false := by decide +kernel

theorem test_wf_refuses_mergeBufferDrain_slot :
    (.mergeBufferDrain [.ladderSlot 0 532480 0 0 .sram] : Instr).wf = false := by decide +kernel

theorem test_wf_refuses_mergeBufferDrain_line :
    (.mergeBufferDrain [.writeStore 0 0 (.dram (2 ^ 26) 0)] : Instr).wf = false := by decide +kernel

theorem test_wf_refuses_mergeBufferDrain_codeword :
    (.mergeBufferDrain [.writeStore 0 0 (.dram 0 4)] : Instr).wf = false := by decide +kernel

theorem test_wf_refuses_mergeBufferDrain_station :
    (.mergeBufferDrain [.linkBad (some 128)] : Instr).wf = false := by decide +kernel

theorem test_wf_refuses_mergeBufferDrain_engine :
    (.mergeBufferDrain [.dmaBad 40 0 []] : Instr).wf = false := by decide +kernel

theorem test_wf_refuses_mergeBufferDrain_host :
    (.mergeBufferDrain [.dmaBad 0 0 [256]] : Instr).wf = false := by decide +kernel

theorem test_wf_refuses_mergeBufferDrain_tag :
    (.mergeBufferDrain [.commandBad 0 4096] : Instr).wf = false := by decide +kernel

theorem test_wf_refuses_dramTrainingDone : (.dramTrainingDone [] : Instr).wf = false := by decide +kernel

theorem test_wf_refuses_thermalReading : (.thermalReading 0 [] : Instr).wf = false := by decide +kernel

theorem test_wf_refuses_tallyPfClose : (.tallyPfClose (some (2 ^ 64)) : Instr).wf = false := by decide +kernel

end Sys2Proof.Tests

namespace Sys2Proof.Tests
open Sys2Proof Sys2Proof.Machine

set_option Elab.async false
set_option linter.all false

/-! ### Small steps, with results worked out from the manual -/

/-- Does the command give a next state with this property? -/
def after (c : Instr) (s : State) (p : State → Bool) : Bool := match exec c s with | .next t => p t | _ => false

/-- The example of 01_archive_cell.md: disc in slot 1,234 of cell 2, side B, layer 5, zone 17, frame 100, with FRAME as R22 lays it out (assumption 199). -/
theorem test_aaddr_example : aaddrDisc 0x0024D2AA20640800 = 2 * 4096 + 1234
    ∧ aaddrZone 0x0024D2AA20640800 = (2 * 4096 + 1234) * 2048 + 1024 + 5 * 64 + 17 ∧ bitsOf 0x0024D2AA20640800 16 13 = 100 := by decide +kernel

/-- The example of R936: the true side of lane 0 of the transmitter of station 42 is on ball J43. -/
theorem test_ball_map : (stationBall 42 true 0 false).name = "J43" := by decide +kernel

/-- R51: TIME_SEC wraps to 0. -/
theorem test_rollover_wraps : after .timeSecondRollover { tb := { cclk := true, sec := 2 ^ 32 - 1, tick := 1499999999 } }
    (fun t => t.lin == 0 && t.now == 1) = true := by decide +kernel

/-- R69: 32,768 AOCLK cycles make 1,500,000,000 ticks. -/
theorem test_coarse_second : coarseTicks 0 32768 = 1500000000 ∧ coarseTicks 5 128 = 45776 * 128 + 47 := by decide +kernel

/-- The example of 11_stack.md, cell 3: the error is +6 ticks and the new ACC 1,037. -/
theorem test_sync_hop : after (.syncReceive 0 1 true (BitVec.ofNat 64 (1800000000 * 2 ^ 32)) 0 true 0 625)
    { regs [(Reg.GCTL_CELL_MASTER, 0, 0), (Reg.CASC_STATUS_STATE, 0, csMember), (Reg.CASC_PORT_STATUS_UP, 0, 1),
        (Reg.CASC_PORT_STATUS_UP, 1, 1), (Reg.CASC_PORT_STATUS_RAW, 1, 412), (Reg.TIME_STATUS_STATE, 0, dStack)] with
      tb := { cclk := true, sec := 1800000000, tick := 418 } }
    (fun t => t.rdS Reg.TIME_ERR_ERR 0 == 6 && t.out.contains (.ring 0 15 4 0 [1800000000 * 2 ^ 32, 1037, 1, 1])) = true := by decide +kernel

/-- The example of 17_tally.md: word 0 of the MINUTE record of account 37 once committed. -/
theorem test_tally_word0 : ofBytesLE ((recordBytes 1 37 2 false 0 1 9 0x6B49D23C 0x6B49D278 []).take 8) = 0x0000000100020251 := by decide +kernel

/-- R20: a write narrower than its register is discarded. -/
theorem test_narrow_write_discarded : after (.registerWrite .host 0x20008 4 0xFFFFFFFF) {} (fun t => t.rd Reg.TIME_LOAD_TICK 0 == 0) = true := by decide +kernel

/-- R12: a write of 1 clears the bit, of 0 leaves it. -/
theorem test_w1c_clears : after (.registerWrite .host 0xE0034 4 0x5) (regs [(Reg.CMDQ_EVT_EVENTS, 0, 0xF)])
    (fun t => t.rd Reg.CMDQ_EVT_EVENTS 0 == 0xA) = true := by decide +kernel

/-- The front command is carried out and leaves the queue. -/
theorem test_step_takes_front : (match step { pending := [.referenceClockLost, .cclkStart] } with
      | .next t => decide (t.pending = [.cclkStart]) && !t.tb.refClk
      | _ => false) = true := by decide +kernel

end Sys2Proof.Tests

namespace Sys2Proof.Tests
open Sys2Proof Sys2Proof.Machine

set_option Elab.async false
set_option linter.all false

/-! ### States and operands that meet the hypotheses of the statements -/

theorem witness_EmptyQueueIdles_1 : ∃ s : State, s.pending = [] ∧ s.pw.porst = false ∧ s.tb.cclk = true :=
  ⟨{ tb := { cclk := true } }, by decide⟩

theorem witness_EmptyQueueIdles_2 : ∃ s : State, s.pending = [] ∧ s.pw.porst = false ∧ s.tb.cclk = false :=
  ⟨{}, by decide⟩

theorem witness_EmptyQueueIdles_3 : ∃ s : State, s.pending = [] :=
  ⟨{}, rfl⟩

theorem witness_EveryStepKeepsSoundness_1 : ∃ s t : State, s.sound ∧ step s = .next t :=
  ⟨{}, _, by decide, rfl⟩

theorem witness_SealStaysBlown_1 : ∃ (c : Instr) (s t : State), s.sealed = true ∧ exec c s = .next t :=
  ⟨.porstAssert, { sealed := true }, _, rfl, rfl⟩

theorem witness_SealStaysBlown_2 : ∃ s t : State, s.sealed = true ∧ step s = .next t :=
  ⟨{ sealed := true }, _, rfl, rfl⟩

theorem witness_CommandsWaitFirstInFirstOut_1 : ∃ (c : Instr) (rest : List Instr) (s t : State), s.pending = c :: rest ∧ step s = .next t :=
  ⟨.watchdogKick, [], { pending := [.watchdogKick] }, _, rfl, rfl⟩

theorem witness_CommandsWaitFirstInFirstOut_2 : ∃ s t : State, step s = .next t :=
  ⟨{}, _, rfl⟩

theorem witness_EveryCommandKeepsItsFrame_1 : ∃ (c : Instr) (s t : State), exec c s = .next t :=
  ⟨.watchdogKick, {}, _, rfl⟩

theorem witness_MemoryChangesOnlyWhereStored_1 : ∃ (c : Instr) (s t : State), storesMemory c = false ∧ exec c s = .next t :=
  ⟨.watchdogKick, {}, _, rfl, rfl⟩

theorem witness_TimeCountsEveryCycle_1 : ∃ s : State, s.timeOk ∧ s.tb.tick + 1 < 1500000000 :=
  ⟨{ tb := { tick := 1499999998 } }, by decide⟩

theorem witness_TimeCountsEveryCycle_2 : ∃ s : State, s.timeOk ∧ s.tb.tick = 1499999999 ∧ s.tb.sec < 4294967295 :=
  ⟨{ tb := { tick := 1499999999, sec := 4294967294 } }, by decide⟩

theorem witness_TimeCountsEveryCycle_3 : ∃ s : State, s.timeOk ∧ s.tb.tick = 1499999999 ∧ s.tb.sec = 4294967295 :=
  ⟨{ tb := { tick := 1499999999, sec := 4294967295 } }, by decide⟩

theorem witness_EventsFillTheRing_1 : ∃ s : State, s.ev.ring.length < 1024 :=
  ⟨{}, by decide⟩

theorem witness_EventsFillTheRing_2 : ∃ (s : State) (e0 : EvEntry) (r : List EvEntry), s.ev.ring = e0 :: r ∧ r.length = 1023 ∧ s.rd Reg.EVT_LOST_COUNT 0 < 2 ^ Reg.EVT_LOST_COUNT.w - 1 :=
  let e : EvEntry := { code := 0, mode := 0, cell := 0, coarse := false, seq := 0, time := 0, data := [] }
  ⟨{ ev := { ring := e :: List.replicate 1023 e } }, e, List.replicate 1023 e, rfl, List.length_replicate, by decide +kernel⟩

theorem witness_OneCacheOperationAtATime_1 : ∃ (s : State) (src : Src) (f : Bool), s.flag Reg.MEMC_CACHE_OP_BUSY 0 = true :=
  ⟨State.set1 {} Reg.MEMC_CACHE_OP_BUSY 0, .firmware, true, by decide +kernel⟩

theorem witness_OneCacheOperationAtATime_2 : ∃ (s : State) (src : Src) (f : Bool), s.flag Reg.MEMC_CACHE_OP_BUSY 0 = true :=
  ⟨State.set1 {} Reg.MEMC_CACHE_OP_BUSY 0, .firmware, true, by decide +kernel⟩

theorem witness_OneCacheOperationAtATime_3 : ∃ (s : State) (src : Src) (f : Bool), s.flag Reg.MEMC_CACHE_OP_BUSY 0 = true :=
  ⟨State.set1 {} Reg.MEMC_CACHE_OP_BUSY 0, .firmware, true, by decide +kernel⟩

theorem witness_OneCacheOperationAtATime_4 : ∃ (s : State) (src : Src) (f : Bool), s.flag Reg.MEMC_CACHE_OP_BUSY 0 = true :=
  ⟨State.set1 {} Reg.MEMC_CACHE_OP_BUSY 0, .firmware, true, by decide +kernel⟩

theorem witness_OneCacheOperationAtATime_5 : ∃ (s : State) (src : Src) (d : Nat), s.flag Reg.MEMC_CACHE_OP_BUSY 0 = true :=
  ⟨State.set1 {} Reg.MEMC_CACHE_OP_BUSY 0, .firmware, 4096, by decide +kernel⟩

theorem witness_OneCacheOperationAtATime_6 : ∃ (s : State) (src : Src) (d : Nat), s.flag Reg.MEMC_CACHE_OP_BUSY 0 = true :=
  ⟨State.set1 {} Reg.MEMC_CACHE_OP_BUSY 0, .firmware, 4096, by decide +kernel⟩

theorem witness_OneCacheOperationAtATime_7 : ∃ (s : State) (src : Src) (d : Nat), s.flag Reg.MEMC_CACHE_OP_BUSY 0 = true :=
  ⟨State.set1 {} Reg.MEMC_CACHE_OP_BUSY 0, .firmware, 0x111, by decide +kernel⟩

theorem witness_TimeCountsOnItsClock_1 : ∃ (s : State), s.timeOk ∧ s.tb.cclk = true :=
  ⟨{ tb := { cclk := true, sec := 2 ^ 32 - 1, tick := 7 } }, by decide +kernel⟩

theorem witness_TimeCountsOnItsClock_2 : ∃ (s : State), s.mode ≠ mBanked ∧ s.tb.cclk = false ∧ s.tb.reload = none ∧ s.pw.porst
    = false :=
  ⟨{}, by decide +kernel⟩

theorem witness_TimeCountsOnItsClock_4 : ∃ (s : State) (t0 : Nat), s.tb.reload = some t0 ∧ s.flag Reg.TIME_CTRL_PPS_EN 0 =
    true :=
  ⟨{ tb := { reload := some 0 } }, 0, by decide +kernel⟩

theorem witness_DisciplineFollowsPps_1 : ∃ (s : State) (dt : Nat) (fall : Bool), s.flag Reg.TIME_CTRL_PPS_EN 0 = true ∧ s.flag
    Reg.TIME_CTRL_PPS_FALL 0 = fall ∧ s.rd Reg.TIME_STATUS_STATE 0 ≠ dStack :=
  ⟨{}, 3000000000, false, by decide +kernel⟩

theorem witness_DisciplineFollowsPps_2 : ∃ (s : State) (dt a : Nat) (fall : Bool), s.flag Reg.TIME_CTRL_PPS_EN 0 = true ∧
    s.flag Reg.TIME_CTRL_PPS_FALL 0 = fall ∧ s.rd Reg.TIME_STATUS_STATE 0 ≠ dStack ∧ s.tb.lastAcc = some a ∧ s.tb.cand = none
    ∧ intervalOk (s.now + dt - a) = false :=
  ⟨{ tb := { lastAcc := some 0 } }, 5, 0, false, by decide +kernel⟩

theorem witness_DisciplineFollowsPps_3 : ∃ (s : State) (d e : Int), s.tb.stepPending = some (d, e) ∧ s.flag
    Reg.TIME_CTRL_NO_STEP 0 = false ∧ d % 80000 = 0 ∧ s.rd Reg.TIME_STATUS_STATE 0 ≠ dStack :=
  ⟨{ tb := { stepPending := some (80000, 80001) } }, 80000, 80001, by decide +kernel⟩

theorem witness_DisciplineFollowsPps_4 : ∃ (s : State), s.rd Reg.TIME_STATUS_STATE 0 = dAcquire ∨ s.rd Reg.TIME_STATUS_STATE 0
    = dLocked :=
  ⟨State.wr {} Reg.TIME_STATUS_STATE 0 2, by decide +kernel⟩

theorem witness_DisciplineFollowsPps_5 : ∃ (s : State), s.flag Reg.TIME_CTRL_PPS_EN 0 = true ∧ (s.rd Reg.TIME_STATUS_STATE 0 =
    dAcquire ∨ s.rd Reg.TIME_STATUS_STATE 0 = dLocked) :=
  ⟨State.wr {} Reg.TIME_STATUS_STATE 0 2, by decide +kernel⟩

theorem witness_DisciplineFollowsPps_6 : ∃ (s : State), s.flag Reg.TIME_CTRL_PPS_EN 0 = false :=
  ⟨State.clr {} Reg.TIME_CTRL_PPS_EN 0, by decide +kernel⟩

theorem witness_DisciplineFollowsPps_7 : ∃ (s : State) (fall : Bool), s.flag Reg.TIME_CTRL_PPS_FALL 0 ≠ fall :=
  ⟨{ tb := { lastAcc := some 4 } }, true, by decide +kernel⟩

theorem witness_LoadsLaunchesAndSlots_2 : ∃ (s : State), s.flag Reg.TIME_STATUS_LOAD_PENDING 0 = true ∧ s.tb.loadBy = none ∧
    s.tb.loadQueue = [] ∧ timeValid s.loadValue = true :=
  ⟨State.set1 (State.wr {} Reg.TIME_LOAD_TICK 0 99999) Reg.TIME_STATUS_LOAD_PENDING 0, by decide +kernel⟩

theorem witness_LoadsLaunchesAndSlots_3 : ∃ (s : State), s.flag Reg.TIME_STATUS_LOAD_PENDING 0 = true ∧ s.tb.loadBy = none ∧
    s.tb.loadQueue = [] ∧ timeValid s.loadValue = false :=
  ⟨State.set1 (State.wr {} Reg.TIME_LOAD_TICK 0 1500000000) Reg.TIME_STATUS_LOAD_PENDING 0, by decide +kernel⟩

theorem witness_LoadsLaunchesAndSlots_4 : ∃ (s : State) (sq tag l : Nat) (c : Cmd), s.cmd? sq tag = some c ∧ c.launch = some l
    ∧ c.ready = true ∧ s.launchMode = true ∧ 0 < timeDiff (linOf l) s.lin :=
  ⟨{ inMode {} mBurn with cmds := [aCmd 7] }, 0, 0, 7, aCmd 7, by decide +kernel⟩

theorem witness_LoadsLaunchesAndSlots_5 : ∃ (s : State) (sq tag l : Nat) (c : Cmd), s.cmd? sq tag = some c ∧ c.launch = some l
    ∧ c.ready = true ∧ s.launchMode = true ∧ timeDiff (linOf l) s.lin ≤ 0 :=
  ⟨{ inMode {} mBurn with cmds := [aCmd 0] }, 0, 0, 0, aCmd 0, by decide +kernel⟩

theorem witness_LoadsLaunchesAndSlots_6 : ∃ (s : State), s.mode = mEmber ∧ s.launches ≠ [] :=
  ⟨{ inMode {} mEmber with cmds := [aCmd 7] }, by decide +kernel⟩

theorem witness_LoadsLaunchesAndSlots_7 : ∃ (s : State) (g : Fin 16), s.mode ≠ mKiln ∧ (s.toSeekSlot g).slotUsed g < s.seekMax
    g :=
  ⟨{}, 3, by decide +kernel⟩

theorem witness_PortTrainingSteps_1 : ∃ (s : State) (n : Fin 128), s.port n = lkDown ∧ s.mode ≠ mEmber ∧ s.mode ≠ mBanked :=
  ⟨State.reset, 3, by decide +kernel⟩

theorem witness_PortTrainingSteps_2 : ∃ (s : State) (b : Fin 8), (s.advanceTo (s.tb.powerUp + (300 + 10 * b.val) *
    msCycles)).mode = mKindling ∧ s.enginesUsed = 0 :=
  ⟨(upTo 128).foldl (fun t n => t.setPort n lkWait) {}, 7, by decide +kernel⟩

theorem witness_PortTrainingSteps_4 : ∃ (s : State) (n : Fin 128), s.port n = lkDetect :=
  ⟨State.setPort {} 127 lkDetect, 127, by decide +kernel⟩

theorem witness_PortTrainingSteps_5 : ∃ (s : State) (n : Fin 128) (a b : Bool), s.port n = lkEqualise ∧ (a = true ∨ s.flag
    Reg.STN_LINK_STATUS_LANE0_LOCK n = true) ∧ (b = true ∨ s.flag Reg.STN_LINK_STATUS_LANE1_LOCK n = true) :=
  ⟨State.setPort {} 0 lkEqualise, 0, true, true, by decide +kernel⟩

theorem witness_PortTrainingSteps_6 : ∃ (s : State) (n : Fin 128), s.port n = lkEqualise ∧ s.flag
    Reg.STN_LINK_STATUS_LANE1_LOCK n = false :=
  ⟨State.setPort {} 0 lkEqualise, 0, by decide +kernel⟩

theorem witness_PortTrainingSteps_7 : ∃ (s : State) (n : Fin 128) (skew : Nat), s.port n = lkDeskew ∧ skew ≤ 4 :=
  ⟨State.setPort {} 9 lkDeskew, 9, 4, by decide +kernel⟩

theorem witness_PortTrainingSteps_8 : ∃ (s : State) (n : Fin 128) (i r l b c : Nat), s.port n = lkIdentify :=
  ⟨State.setPort {} 9 lkIdentify, 9, 5, 6, 7, 8, 70000, by decide +kernel⟩

theorem witness_PortTrainingSteps_9 : ∃ (s : State) (n : Fin 128) (es : List (Nat × Nat)), s.port n = lkMeasure ∧ es.length =
    16 ∧ medianNat (es.map fun e => raw64 e.1 e.2) ≤ 600 * 64 ∧ actDly (s.stn n) ≤ 48 ∧ senDly (s.stn n) ≤ 400 :=
  ⟨State.setPort {} 9 lkMeasure, 9, List.replicate 16 (100, 20), by decide +kernel⟩

theorem witness_PortTrainingSteps_10 : ∃ (s : State) (n : Fin 128), s.retriable n = true ∧ s.enginesUsed < 16 ∧ ((∀ m < n.val,
    s.retriable m = false)) :=
  ⟨State.setPort (inMode {} mBurn) 9 lkWait, 9, by decide +kernel⟩

theorem witness_PortLeavesActive_1 : ∃ (s : State) (n : Fin 128), s.port n = lkEqualise ∨ s.port n = lkDeskew ∨ s.port n =
    lkIdentify ∨ s.port n = lkMeasure :=
  ⟨State.setPort {} 127 lkMeasure, 127, by decide +kernel⟩

theorem witness_PortLeavesActive_2 : ∃ (s : State) (n : Fin 128), s.port n = lkDetect ∧ (s.stn n).inBatch = false :=
  ⟨State.setPort {} 5 lkDetect, 5, by decide +kernel⟩

theorem witness_PortLeavesActive_3 : ∃ (s : State) (n : Fin 128), s.active n = true ∧ s.disabling n = false ∧ s.writingStn n =
    true :=
  ⟨State.set1 (State.setPort {} 5 lkActive) Reg.STN_HD_STATUS_WRITING 11, 5, by decide +kernel⟩

theorem witness_PortLeavesActive_4 : ∃ (s : State) (n : Fin 128), s.active n = true ∧ s.disabling n = false ∧ s.writingStn n =
    false :=
  ⟨State.setPort {} 5 lkActive, 5, by decide +kernel⟩

theorem witness_PortLeavesActive_5 : ∃ (s : State) (n : Fin 128), s.flag Reg.STN_LINK_STATUS_RETRAIN_PENDING n = true ∧
    s.active n = true ∧ s.disabling n = false ∧ s.writingStn n = false :=
  ⟨State.set1 (State.setPort {} 5 lkActive) Reg.STN_LINK_STATUS_RETRAIN_PENDING 5, 5, by decide +kernel⟩

theorem witness_PortLeavesActive_6 : ∃ (s : State) (n : Fin 128) (sensors : Bool), s.active n = true ∧ s.disabling n = false ∧
    (if sensors then 3 ≤ (s.stn n).missRun else (s.stn n).laneBad = true) :=
  ⟨State.putStn (State.setPort {} 5 lkActive) 5 { missRun := 3 }, 5, true, by decide +kernel⟩

theorem witness_LinkMessagesAndAccesses_1 : ∃ (s : State) (n : Fin 128), s.active n = true :=
  ⟨State.setPort {} 5 lkActive, 5, by decide +kernel⟩

theorem witness_LinkMessagesAndAccesses_2 : ∃ (s : State) (n : Fin 128) (m : LinkMsg) (rt : Nat), msgOk 0x87 m = true ∧
    s.active n = true :=
  ⟨State.setPort {} 5 lkActive, 5, mkMsg 0x87 0 0 [20 * 2 ^ 32], 100, by decide +kernel⟩

theorem witness_LinkMessagesAndAccesses_3 : ∃ (s : State) (n : Fin 128) (m : LinkMsg) (rt : Nat), s.hears n = true ∧ msgOk
    0x87 m = false ∧ s.rd Reg.STN_LINK_ERR_MSG_ERR n < 2 ^ 16 - 1 :=
  ⟨State.setPort {} 5 lkMeasure, 5, { (mkMsg 0x87 0 0 [7]) with crc := 0 }, 100, by decide +kernel⟩

theorem witness_LinkMessagesAndAccesses_4 : ∃ (s : State) (n : Fin 128) (m : LinkMsg), s.active n = true ∧ msgOk 0x83 m = true
    :=
  ⟨State.setPort {} 5 lkActive, 5, mkMsg 0x83 0 0 [1, 2, 3, 4], by decide +kernel⟩

theorem witness_LinkMessagesAndAccesses_5 : ∃ (s : State) (n : Fin 128) (h0 h1 : Bool), s.active n = true :=
  ⟨State.setPort {} 5 lkActive, 5, true, false, by decide +kernel⟩

theorem witness_LinkMessagesAndAccesses_6 : ∃ (s : State) (n : Fin 128) (w : Bool), s.active n = true ∧ s.flag
    Reg.STN_REG_CMD_BUSY n = false :=
  ⟨State.setPort {} 5 lkActive, 5, true, by decide +kernel⟩

theorem witness_LinkMessagesAndAccesses_7 : ∃ (s : State) (n : Fin 128) (m : LinkMsg) (r : Nat × Nat × Nat), s.hears n = true
    ∧ msgOk 0x84 m = true ∧ (s.stn n).reg = some r ∧ msgTag m % 8 = 0 :=
  ⟨State.putStn (State.setPort {} 5 lkActive) 5 { reg := some (0, 8, 1) }, 5, mkMsg 0x84 0 0 [77 + 2 * 2 ^ 32], (0, 8, 1), by decide +kernel⟩

theorem witness_LinkMessagesAndAccesses_8 : ∃ (s : State) (n : Fin 128) (q b k : Nat), (s.stn n).reg = some (q, b, k) ∧ k < 3
    :=
  ⟨State.putStn {} 5 { reg := some (9, 8, 2) }, 5, 9, 8, 2, by decide +kernel⟩

theorem witness_LinkMessagesAndAccesses_9 : ∃ (s : State) (n : Fin 128) (q b k : Nat), (s.stn n).reg = some (q, b, k) ∧ 3 ≤ k
    :=
  ⟨State.putStn {} 5 { reg := some (9, 8, 3) }, 5, 9, 8, 3, by decide +kernel⟩

theorem witness_LinkMessagesAndAccesses_10 : ∃ (s : State) (n : Fin 128) (u : Unacked), (s.stn n).stepUnacked = [u] ∧ s.active
    n = true ∧ u.sentAt + ackCycles ≤ s.now :=
  ⟨(State.putStn (State.setPort {} 5 lkActive) 5 { stepUnacked := [{ seq := 1, tag := 0, blocks := [5], sentAt := 0 }] }).advance 20000, 5, { seq := 1, tag := 0, blocks := [5], sentAt := 0 }, by decide +kernel⟩

theorem witness_LinkMessagesAndAccesses_11 : ∃ (s : State) (n : Fin 128) (lane : Fin 2) (gap : Nat), s.rd
    Reg.STN_LINK_ERR_BLOCK_ERR n < 2 ^ 16 - 1 :=
  ⟨State.setPort {} 5 lkActive, 5, 1, 7, by decide +kernel⟩

theorem witness_LinkMessagesAndAccesses_12 : ∃ (s : State) (n : Fin 128), s.rd Reg.STN_LINK_ERR_BLOCK_ERR n < 2 ^ 16 - 1 :=
  ⟨State.setPort {} 5 lkActive, 5, by decide +kernel⟩

theorem witness_LinkMessagesAndAccesses_13 : ∃ (s : State) (n : Fin 128) (e b : Nat), (s.stn n).blockWin = some (e, b) :=
  ⟨State.wr (State.putStn {} 5 { blockWin := some (7, 2) }) Reg.STN_LINK_ERR_BLOCK_ERR 5 1003, 5, 7, 2, by decide +kernel⟩

theorem witness_ScheduledMessages_1 : ∃ (s : State), s.schedules = true ∧ ((∀ n ∈ upTo 128, (s.stn n).safeNow ≠ 1)) :=
  ⟨State.setPort {} 5 lkActive, by decide +kernel⟩

theorem witness_ScheduledMessages_2 : ∃ (s : State), s.schedules = true :=
  ⟨State.setPort {} 5 lkActive, by decide +kernel⟩

theorem witness_ScheduledMessages_3 : ∃ (s : State) (n : Fin 128) (m : LinkMsg) (c : BitVec 4), msgOk 0x81 m = true ∧ s.active
    n = true :=
  ⟨State.setPort {} 5 lkActive, 5, mkMsg 0x81 0 0 (List.replicate 16 (2 ^ 24 + 77 + 2 ^ 50)), 3, by decide +kernel⟩

theorem witness_ScheduledMessages_4 : ∃ (s : State) (n : Fin 128), s.active n = true :=
  ⟨State.setPort {} 5 lkActive, 5, by decide +kernel⟩

theorem witness_SlicesServeHeads_1 : ∃ (s : State) (n : Fin 128) (side : Fin 2) (w : HeadWait) (r : List HeadWait) (sl : Nat),
    s.headWait = w :: r ∧ w.head = headOf n side ∧ s.freeSlice (if w.write then 2 else 1) = some sl ∧ s.flag
    Reg.SLC_CTRL_RELEASE sl = false :=
  ⟨{ regs [(Reg.MEMC_CHAN_FITTED, 0, 1), (Reg.MEMC_CHAN_RATE, 0, 64)] with headWait := [{ head := 7, since := 0, write := true }] }, 3, 1, { head := 7, since := 0, write := true }, [], 0, by decide +kernel⟩

theorem witness_SlicesServeHeads_2 : ∃ (s : State) (n : Fin 128) (side : Fin 2) (w : HeadWait), (s.headWait.find? fun w =>
    w.head == headOf n side && !w.raised) = some w :=
  ⟨{ headWait := [{ head := 7, since := 0, write := true }] }, 3, 1, { head := 7, since := 0, write := true }, by decide +kernel⟩

theorem witness_SlicesServeHeads_3 : ∃ (s : State) (sl : Fin 96), (s.slice sl).head ≠ none ∧ s.sliceBusy sl = false :=
  ⟨{ slices := [(95, { head := some 7 })] }, 95, by decide +kernel⟩

theorem witness_SlicesServeHeads_4 : ∃ (s : State) (sl : Fin 96), (s.slice sl).head ≠ none ∧ s.sliceBusy sl = false :=
  ⟨{ slices := [(95, { head := some 7 })] }, 95, by decide +kernel⟩

theorem witness_SlicesServeHeads_5 : ∃ (s : State) (sl : Fin 96), (s.slice sl).head ≠ none ∧ s.sliceBusy sl = true :=
  ⟨{ slices := [(95, { head := some 7, written := [{ zone := 0, index := 0, slot := 0, words := [] }] })] }, 95, by decide +kernel⟩

theorem witness_SlicesServeHeads_7 : ∃ (s : State) (sl : Fin 96) (h : Nat), (s.slice sl).head = some h ∧ (s.slice sl).atRest =
    true ∧ (s.slice sl).atEdge = true ∧ s.slMode sl = 1 ∧ s.writeWork h = true ∧ s.flag Reg.SLC_CTRL_RELEASE sl = false :=
  ⟨{ onStation (State.wr {} Reg.SLC_ASSIGN_MODE 4 1) with slices := [(4, { head := some 0 })], held := [{ disc := 0, zone := 0, index := 0, addr := 0, buf := 0, sq := 0, tag := 0, acct := 0, ord := 0 }] }, 4, 0, by decide +kernel⟩

theorem witness_SlicesServeHeads_8 : ∃ (s : State) (sl : Fin 96) (h : Nat), (s.slice sl).head = some h ∧ (s.slice sl).atRest =
    true ∧ (s.slice sl).atEdge = true ∧ s.slMode sl = 2 ∧ s.readWork h = true ∧ s.dramOk sl 1 = true ∧ s.flag
    Reg.SLC_CTRL_RELEASE sl = false :=
  ⟨{ onStation (regs [(Reg.SLC_ASSIGN_MODE, 4, 2), (Reg.MEMC_CHAN_FITTED, 0, 1), (Reg.MEMC_CHAN_RATE, 0, 64)]) with slices := [(4, { head := some 0 })], cmds := [{ copyCmd with frames := [{ zone := 0, index := 0, slot := 0 }] }] }, 4, 0, by decide +kernel⟩

theorem witness_SlicesServeHeads_10 : ∃ (s : State) (sl : Fin 96), s.flag Reg.SLC_EQ_CTRL_COMMIT_PENDING sl = true ∧ (s.slice
    sl).saved = [] :=
  ⟨regs [(Reg.SLC_EQ_CTRL_COMMIT_PENDING, 1, 1), (Reg.SLC_EQ_SET_COEF, ((1 * 6 + 1) * 4 + 3) * 16 + 5, 77)], 1, by decide +kernel⟩

theorem witness_SlicesServeHeads_11 : ∃ (s : State) (sl : Fin 96) (f : Fin 4) (i : Fin 16) (v : BitVec 12), s.flag
    Reg.SLC_EQ_CTRL_COMMIT_PENDING sl = false ∧ i.val < eqTaps f :=
  ⟨{}, 1, 3, 14, 0xFFF, by decide +kernel⟩

theorem witness_SlicesServeHeads_12 : ∃ (s : State) (sl : Fin 96) (f : Fin 4) (i : Fin 16) (v : BitVec 12), s.flag
    Reg.SLC_EQ_CTRL_COMMIT_PENDING sl = true :=
  ⟨regs [(Reg.SLC_EQ_CTRL_COMMIT_PENDING, 1, 1)], 1, 3, 14, 0xFFF, by decide +kernel⟩

theorem witness_SlicesServeHeads_13 : ∃ (s : State) (sl : Fin 96) (h : Nat), (s.slice sl).head = some h ∧ s.flag
    Reg.SLC_CTRL_RATE_EN sl = false :=
  ⟨{ State.clr {} Reg.SLC_CTRL_RATE_EN 1 with slices := [(1, { head := some 7 })] }, 1, 7, by decide +kernel⟩

theorem witness_SlicesServeHeads_14 : ∃ (s : State) (sl : Fin 96) (h : Nat), (s.slice sl).head = some h ∧ s.flag
    Reg.SLC_CTRL_RATE_EN sl = true ∧ s.slMode sl = 1 ∧ s.rd Reg.SLC_RATE_CFG_HIGH sl ≤ s.backlog h ∧ s.rd Reg.SLC_RATE_CFG_LOW
    sl < s.backlog h ∧ s.rd1 Reg.SLC_RATE_CFG_S_MIN sl + s.rd1 Reg.SLC_RATE_CFG_STEP sl ≤ s.rd Reg.SLC_RATE_STATUS_SCALE sl ∧
    s.rd Reg.SLC_RATE_STATUS_SCALE sl ≤ 16 :=
  ⟨{ onStation (regs [(Reg.SLC_ASSIGN_MODE, 1, 1), (Reg.SLC_RATE_CFG_HIGH, 1, 1), (Reg.SLC_RATE_CFG_LOW, 1, 0)]) with slices := [(1, { head := some 0 })], cmds := [{ copyCmd with frames := [{ zone := 0, index := 0, slot := 0, fate := .delivered }] }] }, 1, 0, by decide +kernel⟩

theorem witness_SlicesServeHeads_15 : ∃ (s : State) (sl : Fin 96) (h : Nat), (s.slice sl).head = some h ∧ s.slMode sl = 1 ∧
    s.flag Reg.SLC_RATE_STATUS_PAUSED sl = false ∧ (s.slice sl).pass.on = false ∧ s.rd Reg.SLC_RATE_CFG_STALL sl ≤ s.backlog h
    :=
  ⟨{ regs [(Reg.SLC_ASSIGN_MODE, 1, 1), (Reg.SLC_RATE_CFG_STALL, 1, 0)] with slices := [(1, { head := some 7 })] }, 1, 7, by decide +kernel⟩

theorem witness_SlicesServeHeads_16 : ∃ (s : State) (sl : Fin 96) (h : Nat), (s.slice sl).head = some h ∧ s.flag
    Reg.SLC_RATE_STATUS_PAUSED sl = true ∧ s.backlog h ≤ s.rd Reg.SLC_RATE_CFG_LOW sl ∧ (s.slice sl).store.length < 4 :=
  ⟨{ regs [(Reg.SLC_RATE_STATUS_PAUSED, 1, 1)] with slices := [(1, { head := some 7 })] }, 1, 7, by decide +kernel⟩

theorem witness_SlicesServeHeads_17 : ∃ (s : State) (sl : Fin 96) (h : Nat), (s.slice sl).head = some h ∧ s.slMode sl = 1 ∧
    s.flag Reg.SLC_RATE_STATUS_PAUSED sl = true ∧ s.flag Reg.SLC_RATE_STATUS_HOLDING sl = false :=
  ⟨{ regs [(Reg.SLC_RATE_STATUS_PAUSED, 1, 1), (Reg.SLC_ASSIGN_MODE, 1, 1)] with slices := [(1, { head := some 7 })] }, 1, 7, by decide +kernel⟩

theorem witness_SlicesServeHeads_18 : ∃ (s : State) (sl : Fin 96) (h : Nat), (s.slice sl).head = some h ∧ s.slMode sl = 2 ∧
    s.mayHold sl h = true ∧ s.flag Reg.SLC_RATE_STATUS_HOLDING sl = false :=
  ⟨{ regs [(Reg.SLC_ASSIGN_MODE, 1, 2)] with slices := [(1, { head := some 7, zoneNow := some 0, lastLead := some (2 ^ 40) })] }, 1, 7, by decide +kernel⟩

theorem witness_SamplesAndFramesMove_1 : ∃ (s : State) (n : Fin 128) (m : LinkMsg), s.active n = true ∧ msgOk 0x82 m = true ∧
    s.sliceOf (2 * n.val + msgTag m % 2) = none ∧ bitOf (m.blocks.getD 1 0) 41 = true :=
  ⟨State.setPort {} 3 lkActive, 3, mkMsg 0x82 0 1 [0, 2 ^ 41 + 2 ^ 21 * 5000 + 7, 0], by decide +kernel⟩

theorem witness_SamplesAndFramesMove_2 : ∃ (s : State) (n : Fin 128) (m : LinkMsg) (sl : Nat), s.active n = true ∧ msgOk 0x82
    m = true ∧ s.sliceOf (2 * n.val + msgTag m % 2) = some sl ∧ s.slMode sl = 2 ∧ s.hd (2 * n.val + msgTag m % 2) ≠ hdOpc ∧
    bitOf (m.blocks.getD 0 0) 41 = true ∧ bitOf (m.blocks.getD 0 0) 42 = true :=
  ⟨{ State.setPort (regs [(Reg.SLC_ASSIGN_MODE, 1, 2)]) 3 lkActive with slices := [(1, { head := some 7 })] }, 3, mkMsg 0x82 0 1 [3 * 2 ^ 41 + 2 ^ 21 * 5000 + 7, 0, 2 ^ 60 * 3], 1, by decide +kernel⟩

theorem witness_SamplesAndFramesMove_3 : ∃ (s : State) (sl : Fin 96) (h : Nat) (f : Held), (s.slice sl).head = some h ∧
    s.slMode sl = 2 ∧ (s.slice sl).wstore.length < 32 ∧ (s.slice sl).reverify = false ∧ (s.head h).needOpc = false ∧
    s.rung7Other h = false ∧ s.nextMgmt h = none ∧ s.nextHeld sl h = some f ∧ s.ueAt f.addr 65536 = none :=
  ⟨{ onStation (regs [(Reg.SLC_ASSIGN_MODE, 1, 2)]) with slices := [(1, { head := some 0 })], held := [{ disc := 0, zone := 0, index := 0, addr := 0, buf := 0, sq := 0, tag := 0, acct := 0, ord := 0, present := true }] }, 1, 0, { disc := 0, zone := 0, index := 0, addr := 0, buf := 0, sq := 0, tag := 0, acct := 0, ord := 0, present := true }, by decide +kernel⟩

theorem witness_SamplesAndFramesMove_4 : ∃ (s : State) (n : Fin 128) (side : Fin 2) (k sl lead : Nat) (e : Enc) (r : List
    Enc), s.sliceOf (headOf n side) = some sl ∧ (s.slice sl).wstore = e :: r ∧ s.leadNow sl (headOf n side) = some lead ∧ 0 <
    e.sent ∧ k ≤ 128 ∧ 0 < k ∧ k ≤ e.words.length - e.sent ∧ s.active n = true ∧ s.hd (headOf n side) = hdReady ∧ s.layerOf
    (headOf n side) = e.layer ∧ (s.slice sl).unacked.length < 128 ∧ (s.slice sl).reverify = false ∧ (s.slice sl).streamed + 64
    * k ≤ (bitsOf (s.stn n).feBuf 0 16 - 2) * 8192 ∧ s.flag Reg.SLC_CTRL_RELEASE sl = false :=
  ⟨{ (State.wr (onStation (regs [(Reg.SLC_ASSIGN_MODE, 1, 2)])) Reg.STN_HD_STATUS_STATE 0 hdReady).putStn 0 { feBuf := 100 } with slices := [(1, { head := some 0, wstore := [{ zone := 0, index := 0, slot := 8320, words := [1, 2, 3], sent := 1 }], lastLead := some 0 })] }, 0, 0, 1, 1, 0, { zone := 0, index := 0, slot := 8320, words := [1, 2, 3], sent := 1 }, [], by decide +kernel⟩

theorem witness_SamplesAndFramesMove_5 : ∃ (s : State) (n : Fin 128) (side : Fin 2) (sl : Nat) (u : Unacked), s.sliceOf
    (headOf n side) = some sl ∧ (s.slice sl).unacked = [u] ∧ s.active n = true ∧ u.sentAt + ackCycles ≤ s.now :=
  ⟨{ (State.setPort {} 3 lkActive).advance 20000 with slices := [(1, { head := some 7, unacked := [{ seq := 1, tag := 0, blocks := [5], sentAt := 0 }] })] }, 3, 1, 1, { seq := 1, tag := 0, blocks := [5], sentAt := 0 }, by decide +kernel⟩

theorem witness_SamplesAndFramesMove_6 : ∃ (s : State) (n : Fin 128) (m : LinkMsg) (sl : Nat), s.active n = true ∧ msgOk 0x85
    m = true ∧ s.sliceOf (2 * n.val + msgTag m % 2) = some sl ∧ bitsOf (m.blocks.getD 0 0) 0 3 ≤ 1 ∧ s.flag
    Reg.SLC_CTRL_RELEASE sl = false :=
  ⟨{ State.setPort {} 3 lkActive with slices := [(1, { head := some 7, written := [{ zone := 0, index := 0, slot := 8320, words := [1, 2, 3], sent := 1 }] })] }, 3, mkMsg 0x85 0 1 [8320 * 16 + 1], 1, by decide +kernel⟩

theorem witness_SamplesAndFramesMove_7 : ∃ (s : State) (sl : Fin 96) (h : Nat) (e : Enc) (r : List Enc), (s.slice sl).head =
    some h ∧ (s.slice sl).written = e :: r ∧ e.dropped = false ∧ e.readBack = true ∧ s.vfyFail sl e = none ∧ e.mgmt = false :=
  ⟨{ slices := [(1, { head := some 7, written := [backEnc 64] })] }, 1, 7, backEnc 64, [], by exact ⟨by decide +kernel, rfl, rfl, by decide +kernel, backEnc_passes _ rfl, rfl⟩⟩

theorem witness_SamplesAndFramesMove_8 : ∃ (s : State) (sl : Fin 96) (h c : Nat) (e : Enc) (r : List Enc), (s.slice sl).head =
    some h ∧ (s.slice sl).written = e :: r ∧ e.dropped = false ∧ e.readBack = true ∧ s.vfyFail sl e = some c ∧ e.mgmt = false
    :=
  ⟨{ slices := [(1, { head := some 7, written := [backEnc 5] })] }, 1, 7, 1, backEnc 5, [], by decide +kernel⟩

theorem witness_SamplesAndFramesMove_9 : ∃ (s : State) (d : Nat) (side : Fin 2) (layer : Fin 16) (zone : Fin 64) (l : List
    SlotRead), (s.zone (zoneKey d side layer zone)).resolve = true :=
  ⟨{ zones := [(zoneKey 5 1 15 63, { resolve := true })] }, 5, 1, 15, 63, [], by decide +kernel⟩

theorem witness_RecoveryLadderSteps_1 : ∃ (s : State) (sl : Fin 96) (slot h : Nat) (e : Soft), (s.slice sl).head = some h ∧
    (s.slice sl).entry slot = some e ∧ s.ladder? sl slot = none ∧ s.wantedAt h slot = none :=
  ⟨{ slices := [(1, { head := some 0, store := [{ slot := 5 }] })] }, 1, 5, 0, { slot := 5 }, by decide +kernel⟩

theorem witness_RecoveryLadderSteps_2 : ∃ (s : State) (sl : Fin 96) (slot h zk idx f : Nat) (e : Soft) (hd : List Nat),
    (s.slice sl).head = some h ∧ (s.slice sl).entry slot = some e ∧ s.ladder? sl slot = none ∧ s.wantedAt h slot = some (zk,
    idx) ∧ e.headed.hdr = some hd ∧ headerBad hd (zonePfa zk slot) (s.disc (zoneDisc zk)).discId idx = some f :=
  ⟨{ onStation {} with cmds := [{ vfyCmd with frames := [{ zone := 0, index := 0, slot := 5 }] }], slices := [(1, { head := some 0, store := [{ slot := 5, hdrDone := true, hdr := some [] }] })] }, 1, 5, 0, 0, 0, 1, { slot := 5, hdrDone := true, hdr := some [] }, [], by decide +kernel⟩

theorem witness_RecoveryLadderSteps_3 : ∃ (s : State) (sl : Fin 96) (slot h zk idx : Nat) (e : Soft) (u : Sharer) (us : List
    Sharer) (c : Cmd), (s.slice sl).head = some h ∧ (s.slice sl).entry slot = some e ∧ s.ladder? sl slot = none ∧ (s.slice
    sl).complete e.headed = true ∧ s.wantedAt h slot = some (zk, idx) ∧ e.headed.hdr = none ∧ s.usersOf zk idx = u :: us ∧
    s.cmd? u.sq u.tag = some c ∧ rungOn c.prof 2 = true ∧ c.budgetFrom = none ∧ c.budgetOut = false :=
  ⟨{ onStation {} with cmds := [{ vfyCmd with frames := [{ zone := 0, index := 0, slot := 5 }] }], slices := [(1, { head := some 0, store := [blankSoft] })] }, 1, 5, 0, 0, 0, blankSoft, { sq := 0, tag := 0, idx := 0 }, [], { vfyCmd with frames := [{ zone := 0, index := 0, slot := 5 }] }, by refine ⟨by decide +kernel, List.find?_cons_of_pos (by decide +kernel), by decide +kernel, ?_, by decide +kernel, by rw [blankSoft_headed]; rfl, by decide +kernel, by decide +kernel, by decide +kernel, rfl, rfl⟩; exact blank_complete _ (by decide +kernel) (by decide +kernel)⟩

theorem witness_RecoveryLadderSteps_4 : ∃ (s : State) (sl : Fin 96) (slot : Nat) (l : Ladder) (c : Cmd) (i : Nat), s.ladder?
    sl slot = some l ∧ l.rung = 2 ∧ s.mode ≠ mKiln ∧ l.started = false ∧ l.hdr = none ∧ headerOf [(l.soft.contents []).getD 0
    #[]] = none ∧ s.ladderCmd l = some (c, i) ∧ rungOn c.prof 3 = true ∧ s.budgetGone c = false :=
  ⟨{ onStation {} with cmds := [vfyCmd], slices := [(1, { head := some 0 })], ladders := [{ slice := 1, head := 0, slot := 5, zone := 0, index := 0, users := [{ sq := 0, tag := 0, idx := 0 }], soft := { slot := 5 } }] }, 1, 5, { slice := 1, head := 0, slot := 5, zone := 0, index := 0, users := [{ sq := 0, tag := 0, idx := 0 }], soft := { slot := 5 } }, vfyCmd, 0, by refine ⟨by decide +kernel, by decide +kernel, by decide +kernel, by decide +kernel, by decide +kernel, ?_, by decide +kernel, by decide +kernel, by decide +kernel⟩; dsimp only; exact head_empty 5 []⟩

theorem witness_RecoveryLadderSteps_5 : ∃ (s : State) (sl : Fin 96) (slot : Nat) (l : Ladder) (hd : List Nat) (f : Nat),
    s.ladder? sl slot = some l ∧ l.rung = 2 ∧ s.mode ≠ mKiln ∧ s.tooLate l = false ∧ l.hdr = some hd ∧ headerBad hd l.pfa
    (s.disc (zoneDisc l.zone)).discId l.index = some f :=
  ⟨{ onStation {} with cmds := [vfyCmd], slices := [(1, { head := some 0 })], ladders := [{ slice := 1, head := 0, slot := 5, zone := 0, index := 0, users := [{ sq := 0, tag := 0, idx := 0 }], soft := { slot := 5 }, hdr := some [] }] }, 1, 5, { slice := 1, head := 0, slot := 5, zone := 0, index := 0, users := [{ sq := 0, tag := 0, idx := 0 }], soft := { slot := 5 }, hdr := some [] }, [], 1, by decide +kernel⟩

theorem witness_RecoveryLadderSteps_6 : ∃ (s : State) (sl : Fin 96) (slot : Nat) (l : Ladder) (c : Cmd) (i : Nat), s.ladder?
    sl slot = some l ∧ l.rung = 2 ∧ s.mode ≠ mKiln ∧ s.tooLate l = true ∧ s.ladderCmd l = some (c, i) ∧ rungOn c.prof 9 = true
    :=
  ⟨{ onStation {} with cmds := [{ vfyCmd with budgetOut := true }], slices := [(1, { head := some 0 })], ladders := [{ slice := 1, head := 0, slot := 5, zone := 0, index := 0, users := [{ sq := 0, tag := 0, idx := 0 }], soft := { slot := 5 } }] }, 1, 5, { slice := 1, head := 0, slot := 5, zone := 0, index := 0, users := [{ sq := 0, tag := 0, idx := 0 }], soft := { slot := 5 } }, { vfyCmd with budgetOut := true }, 0, by decide +kernel⟩

theorem witness_RecoveryLadderSteps_7 : ∃ (s : State) (sl : Fin 96) (slot : Nat) (l : Ladder) (hd : List Nat) (f : Nat),
    s.ladder? sl slot = some l ∧ l.rung = 3 ∧ s.mode ≠ mKiln ∧ s.tooLate l = false ∧ l.hdr = some hd ∧ headerBad hd l.pfa
    (s.disc (zoneDisc l.zone)).discId l.index = some f :=
  ⟨{ onStation {} with cmds := [vfyCmd], slices := [(1, { head := some 0 })], ladders := [{ slice := 1, head := 0, slot := 5, zone := 0, index := 0, users := [{ sq := 0, tag := 0, idx := 0 }], soft := { slot := 5 }, rung := 3, hdr := some [] }] }, 1, 5, { slice := 1, head := 0, slot := 5, zone := 0, index := 0, users := [{ sq := 0, tag := 0, idx := 0 }], soft := { slot := 5 }, rung := 3, hdr := some [] }, [], 1, by decide +kernel⟩

theorem witness_RecoveryLadderSteps_8 : ∃ (s : State) (sl : Fin 96) (slot : Nat) (l : Ladder) (c : Cmd) (i : Nat), s.ladder?
    sl slot = some l ∧ l.rung = 3 ∧ s.mode ≠ mKiln ∧ l.started = false ∧ l.hdr = none ∧ (rowShift l.soft l.shares false).2.hdr
    = none ∧ s.ladderCmd l = some (c, i) ∧ rungOn c.prof 4 = true ∧ s.budgetGone c = false :=
  ⟨{ onStation {} with cmds := [vfyCmd], slices := [(1, { head := some 0 })], ladders := [{ slice := 1, head := 0, slot := 5, zone := 0, index := 0, users := [{ sq := 0, tag := 0, idx := 0 }], soft := { slot := 5 }, rung := 3 }] }, 1, 5, { slice := 1, head := 0, slot := 5, zone := 0, index := 0, users := [{ sq := 0, tag := 0, idx := 0 }], soft := { slot := 5 }, rung := 3 }, vfyCmd, 0, by refine ⟨by decide +kernel, by decide +kernel, by decide +kernel, by decide +kernel, by decide +kernel, ?_, by decide +kernel, by decide +kernel, by decide +kernel⟩; dsimp only; exact rowShift_empty 5 []⟩

theorem witness_RecoveryLadderSteps_9 : ∃ (s : State) (sl : Fin 96) (slot i : Nat) (l : Ladder), s.ladder? sl slot = some l ∧
    rereadRung l.rung = true ∧ l.pool = none ∧ s.mode ≠ mKiln ∧ s.ladderWait = [] ∧ ((upTo 64).find? fun i =>
    !(s.ladders.filterMap fun x => x.pool).contains i) = some i :=
  ⟨{ onStation {} with cmds := [vfyCmd], slices := [(1, { head := some 0 })], ladders := [{ slice := 1, head := 0, slot := 5, zone := 0, index := 0, users := [{ sq := 0, tag := 0, idx := 0 }], soft := { slot := 5 }, rung := 4 }] }, 1, 5, 0, { slice := 1, head := 0, slot := 5, zone := 0, index := 0, users := [{ sq := 0, tag := 0, idx := 0 }], soft := { slot := 5 }, rung := 4 }, by decide +kernel⟩

theorem witness_RecoveryLadderSteps_10 : ∃ (s : State) (sl : Fin 96) (slot r k : Nat) (sk : Bool) (l : Ladder), s.ladder? sl
    slot = some l ∧ rereadRung l.rung = true ∧ l.pool ≠ none ∧ l.fresh = none ∧ s.mode ≠ mKiln ∧ s.mayReread l = true ∧
    s.tooLate l = false ∧ s.nextTry l = (some (r, k), sk) :=
  ⟨{ onStation {} with cmds := [vfyCmd], slices := [(1, { head := some 0 })], ladders := [{ slice := 1, head := 0, slot := 5, zone := 0, index := 0, users := [{ sq := 0, tag := 0, idx := 0 }], soft := { slot := 5 }, rung := 4, pool := some 0 }] }, 1, 5, 4, 0, false, { slice := 1, head := 0, slot := 5, zone := 0, index := 0, users := [{ sq := 0, tag := 0, idx := 0 }], soft := { slot := 5 }, rung := 4, pool := some 0 }, by decide +kernel⟩

theorem witness_RecoveryLadderSteps_11 : ∃ (s : State) (sl : Fin 96) (slot r : Nat) (e f : Soft) (l : Ladder), s.ladder? sl
    slot = some l ∧ l.ready = some (r, e) ∧ l.fresh = some f ∧ f.full = false ∧ s.mode ≠ mKiln ∧ l.hdr = none ∧ (rereadTry e
    none l.pfa).1.hdr = none ∧ (rereadTry e none l.pfa).2.2.hdr = none ∧ l.copies.length < 4 :=
  ⟨{ onStation {} with cmds := [vfyCmd], slices := [(1, { head := some 0 })], ladders := [{ slice := 1, head := 0, slot := 5, zone := 0, index := 0, users := [{ sq := 0, tag := 0, idx := 0 }], soft := { slot := 5 }, rung := 4, pool := some 0, started := true, fresh := some { slot := 5 }, ready := some (4, { slot := 5 }) }] }, 1, 5, 4, { slot := 5 }, { slot := 5 }, { slice := 1, head := 0, slot := 5, zone := 0, index := 0, users := [{ sq := 0, tag := 0, idx := 0 }], soft := { slot := 5 }, rung := 4, pool := some 0, started := true, fresh := some { slot := 5 }, ready := some (4, { slot := 5 }) }, by exact ⟨by decide +kernel, by decide +kernel, by decide +kernel, by decide +kernel, by decide +kernel, by decide +kernel, (reread_empty 5 _).1, (reread_empty 5 _).2, by decide +kernel⟩⟩

theorem witness_RecoveryLadderSteps_12 : ∃ (s : State) (sl : Fin 96) (slot : Nat) (l : Ladder) (c : Cmd) (i : Nat), s.ladder?
    sl slot = some l ∧ l.rung = 8 ∧ s.mode ≠ mKiln ∧ l.started = false ∧ l.fresh = none ∧ l.ready = none ∧ 4 ≤ l.copies.length
    ∧ l.hdr = none ∧ s.tooLate l = false ∧ headerOf (l.copies.map fun c => c.soft.content (mget 0 c.shifts 0) 0) = none ∧
    s.ladderCmd l = some (c, i) ∧ rungOn c.prof 9 = true :=
  ⟨{ onStation {} with cmds := [vfyCmd], slices := [(1, { head := some 0 })], ladders := [{ slice := 1, head := 0, slot := 5, zone := 0, index := 0, users := [{ sq := 0, tag := 0, idx := 0 }], soft := { slot := 5 }, rung := 8, copies := List.replicate 4 { soft := { slot := 5 }, failing := 0 } }] }, 1, 5, { slice := 1, head := 0, slot := 5, zone := 0, index := 0, users := [{ sq := 0, tag := 0, idx := 0 }], soft := { slot := 5 }, rung := 8, copies := List.replicate 4 { soft := { slot := 5 }, failing := 0 } }, vfyCmd, 0, by refine ⟨by decide +kernel, by decide +kernel, by decide +kernel, by decide +kernel, by decide +kernel, by decide +kernel, by decide +kernel, by decide +kernel, by decide +kernel, headerOf_zero _ ?_, by decide +kernel, by decide +kernel⟩; intro r hr; obtain ⟨c, hc, rfl⟩ := List.mem_map.1 hr; rw [List.eq_of_mem_replicate hc]; exact content_empty 5 _ _⟩

theorem witness_RecoveryLadderSteps_13 : ∃ (s : State) (sl : Fin 96) (slot : Nat) (l : Ladder) (c : Cmd) (i : Nat), s.ladder?
    sl slot = some l ∧ l.rung = 9 ∧ s.mode ≠ mKiln ∧ l.hdr = none ∧ s.ladderCmd l = some (c, i) ∧ rungOn c.prof 9 = true :=
  ⟨{ onStation {} with cmds := [vfyCmd], slices := [(1, { head := some 0 })], ladders := [{ slice := 1, head := 0, slot := 5, zone := 0, index := 0, users := [{ sq := 0, tag := 0, idx := 0 }], soft := { slot := 5 }, rung := 9 }] }, 1, 5, { slice := 1, head := 0, slot := 5, zone := 0, index := 0, users := [{ sq := 0, tag := 0, idx := 0 }], soft := { slot := 5 }, rung := 9 }, vfyCmd, 0, by decide +kernel⟩

theorem witness_RecoveryLadderSteps_14 : ∃ (s : State) (sq tag t0 : Nat) (c : Cmd), s.cmd? sq tag = some c ∧ c.budgetFrom =
    some t0 ∧ c.prof / 2 ^ 16 ≠ 0 ∧ c.budgetOut = false ∧ s.mode ≠ mKiln ∧ c.phase = .started ∧ ((∀ l ∈ s.ladders, l.started =
    true)) :=
  ⟨{ cmds := [{ vfyCmd with budgetFrom := some 3 }] }, 0, 0, 3, { vfyCmd with budgetFrom := some 3 }, by decide +kernel⟩

theorem witness_RecoveryLadderSteps_15 : ∃ (s : State) (sq tag t0 : Nat) (c : Cmd) (l : Ladder) (u : Sharer) (us : List
    Sharer), s.cmd? sq tag = some c ∧ c.budgetFrom = some t0 ∧ c.prof / 2 ^ 16 ≠ 0 ∧ c.budgetOut = false ∧ s.mode ≠ mKiln ∧
    c.phase = .started ∧ s.ladders = [l] ∧ l.started = false ∧ l.rung ≤ 8 ∧ l.users = u :: us ∧ u.sq = sq ∧ u.tag = tag ∧
    rungOn c.prof 9 = true :=
  ⟨{ onStation {} with cmds := [{ vfyCmd with budgetFrom := some 3 }], slices := [(1, { head := some 0 })], ladders := [{ slice := 1, head := 0, slot := 5, zone := 0, index := 0, users := [{ sq := 0, tag := 0, idx := 0 }], soft := { slot := 5 } }] }, 0, 0, 3, { vfyCmd with budgetFrom := some 3 }, { slice := 1, head := 0, slot := 5, zone := 0, index := 0, users := [{ sq := 0, tag := 0, idx := 0 }], soft := { slot := 5 } }, { sq := 0, tag := 0, idx := 0 }, [], by decide +kernel⟩

theorem witness_DataCommandsBegin_1 : ∃ (s : State) (q : BitVec 20) (tag : BitVec 12) (c : Cmd), s.runnable q.toNat tag.toNat
    opRead = some c ∧ c.inPlace = true ∧ c.origin = none ∧ c.away = none ∧ c.frames = [] ∧ ((∀ f ∈ s.frameList c,
    s.frameMissing f.zone f.index = none ∧ s.frameOpen f.zone f.index = false)) ∧ (s.headsOf ((s.frameList c).map
    (·.zone))).any s.headDead = false :=
  ⟨{ onStation (withCmd [(0, 0x10), (1, 16), (24, 65536)]) with zones := [(0, { frames := 1 })] }, 0, 0, cmdOf [(0, 0x10), (1, 16), (24, 65536)], by decide +kernel⟩

theorem witness_DataCommandsBegin_2 : ∃ (s : State) (q : BitVec 20) (tag : BitVec 12) (c : Cmd), s.runnable q.toNat tag.toNat
    opVerify = some c ∧ c.origin = none ∧ c.frames = [] ∧ ((∀ f ∈ s.frameList c, s.frameMissing f.zone f.index = none ∧
    s.frameOpen f.zone f.index = false)) ∧ (s.headsOf ((s.frameList c).map (·.zone))).any s.headDead = false :=
  ⟨{ onStation (withCmd [(0, 0x12), (24, 65536)]) with zones := [(0, { frames := 1 })] }, 0, 0, cmdOf [(0, 0x12), (24, 65536)], by decide +kernel⟩

theorem witness_DataCommandsBegin_3 : ∃ (s : State) (q : BitVec 20) (tag : BitVec 12) (c : Cmd) (st : Nat), s.runnable q.toNat
    tag.toNat opVerify = some c ∧ c.local = true ∧ c.frames = [] ∧ ((∀ f ∈ s.frameList c, s.frameOpen f.zone f.index = false))
    ∧ ((s.frameList c).findSome? fun f => s.frameMissing f.zone f.index) = some st :=
  ⟨withCmd [(0, 0x12), (24, 65536)], 0, 0, cmdOf [(0, 0x12), (24, 65536)], stWriteFrontier, by decide +kernel⟩

theorem witness_DataCommandsBegin_4 : ∃ (s : State) (q : BitVec 20) (tag : BitVec 12) (c : Cmd) (h : Nat), s.runnable q.toNat
    tag.toNat opWrite = some c ∧ c.inPlace = true ∧ c.origin = none ∧ c.away = none ∧ s.zoneHead (aaddrZone c.aaddr) = some h
    ∧ s.headDead h = false ∧ (((s.zone (aaddrZone c.aaddr)).frontier = 0 → (s.zone (aaddrZone c.aaddr)).state = .open_ →
    (s.zone (aaddrZone c.aaddr)).resolve = false → s.mayOpen (aaddrZone c.aaddr) = true)) :=
  ⟨onStation (withCmd [(0, 0x11), (1, 16), (24, 65536)]), 0, 0, cmdOf [(0, 0x11), (1, 16), (24, 65536)], 0, by decide +kernel⟩

theorem witness_DataCommandsBegin_5 : ∃ (s : State) (q : BitVec 20) (tag : BitVec 12) (c : Cmd), s.runnable q.toNat tag.toNat
    opFlush = some c :=
  ⟨withCmd [(0, 0x13)], 0, 0, cmdOf [(0, 0x13)], by decide +kernel⟩

theorem witness_DataCommandsBegin_6 : ∃ (s : State) (q : BitVec 20) (tag : BitVec 12) (c : Cmd), s.runnable q.toNat tag.toNat
    opZoneClose = some c ∧ c.local = true ∧ (s.zone (aaddrZone c.aaddr)).state = .closed :=
  ⟨{ withCmd [(0, 0x14)] with zones := [(0, { state := .closed })] }, 0, 0, cmdOf [(0, 0x14)], by decide +kernel⟩

theorem witness_DataCommandsBegin_7 : ∃ (s : State) (q : BitVec 20) (tag : BitVec 12) (c : Cmd) (h : Nat), s.runnable q.toNat
    tag.toNat opZoneClose = some c ∧ (s.zone (aaddrZone c.aaddr)).state = .open_ ∧ ((s.disc (zoneDisc (aaddrZone
    c.aaddr))).side (zoneSide (aaddrZone c.aaddr))).finalised = false ∧ s.zoneHead (aaddrZone c.aaddr) = some h ∧ s.headDead h
    = false :=
  ⟨{ onStation (withCmd [(0, 0x14)]) with zones := [(0, { state := .open_ })] }, 0, 0, cmdOf [(0, 0x14)], 0, by decide +kernel⟩

theorem witness_DataCommandsBegin_8 : ∃ (s : State) (q : BitVec 20) (tag : BitVec 12) (c : Cmd) (h : Nat), s.runnable q.toNat
    tag.toNat opFinalize = some c ∧ ((s.disc (aaddrDisc c.aaddr)).a.finalised && (s.disc (aaddrDisc c.aaddr)).b.finalised) =
    false ∧ s.zoneHead (aaddrDisc c.aaddr * 2048) = some h ∧ s.headDead h = false ∧ s.headDead (h + 1) = false :=
  ⟨onStation (withCmd [(0, 0x15)]), 0, 0, cmdOf [(0, 0x15)], 0, by decide +kernel⟩

theorem witness_DataCommandsBegin_9 : ∃ (s : State) (q : BitVec 20) (tag : BitVec 12) (c : Cmd), s.runnable q.toNat tag.toNat
    opFinalize = some c ∧ c.local = true ∧ (s.disc (aaddrDisc c.aaddr)).a.finalised = true ∧ (s.disc (aaddrDisc
    c.aaddr)).b.finalised = true :=
  ⟨{ withCmd [(0, 0x15)] with discs := [(0, { known := true, a := { finalised := true }, b := { finalised := true } })] }, 0, 0, cmdOf [(0, 0x15)], by decide +kernel⟩

theorem witness_DataCommandsBegin_10 : ∃ (s : State) (q : BitVec 20) (tag : BitVec 12) (c : Cmd), s.runnable q.toNat tag.toNat
    opRead = none ∧ s.early q.toNat tag.toNat opRead = some c ∧ c.inPlace = true :=
  ⟨{ withCmd [] with cmds := [{ cmdOf [(0, 0x10), (1, 16), (24, 65536)] with launch := some 5, launched := false }] }, 0, 0, { cmdOf [(0, 0x10), (1, 16), (24, 65536)] with launch := some 5, launched := false }, by decide +kernel⟩

theorem witness_BufferCommands_1 : ∃ (s : State) (q : BitVec 20) (tag : BitVec 12) (c : Cmd) (p : Nat), s.runnable q.toNat
    tag.toNat opAlloc = some c ∧ c.local = true ∧ poolFor (c.get 16 4) = some p ∧ s.quotaOk c.sq (poolGranules p) = true ∧
    s.flag Reg.BPM_STATUS_ACTIVE 0 = true ∧ (mget {} s.pools p).fresh < s.rd Reg.BPM_POOL_CNT_COUNT p :=
  ⟨pooled (withCmd [(0, 0x18), (16, 4096)]), 0, 0, cmdOf [(0, 0x18), (16, 4096)], 0, by decide +kernel⟩

theorem witness_BufferCommands_2 : ∃ (s : State) (q : BitVec 20) (tag : BitVec 12) (c : Cmd), s.runnable q.toNat tag.toNat
    opAlloc = some c ∧ c.local = true ∧ poolFor (c.get 16 4) = none :=
  ⟨withCmd [(0, 0x18), (16, 4194305)], 0, 0, cmdOf [(0, 0x18), (16, 4194305)], by decide +kernel⟩

theorem witness_BufferCommands_3 : ∃ (s : State) (q : BitVec 20) (tag : BitVec 12) (c : Cmd) (k : Nat) (b : Buf), s.runnable
    q.toNat tag.toNat opRelease = some c ∧ c.local = true ∧ s.known (c.get 16 4) = some (k, b) ∧ b.owner = c.sq ∧ s.bufHeld k
    = false :=
  ⟨{ withCmd [(0, 0x19), (16, 7)] with bufs := [(7, { owner := 0 })] }, 0, 0, cmdOf [(0, 0x19), (16, 7)], 7, { owner := 0 }, by decide +kernel⟩

theorem witness_BufferCommands_4 : ∃ (s : State) (q : BitVec 20) (tag : BitVec 12) (c : Cmd), s.runnable q.toNat tag.toNat
    opRelease = some c ∧ c.local = true ∧ s.known (c.get 16 4) = none :=
  ⟨withCmd [(0, 0x19), (16, 7)], 0, 0, cmdOf [(0, 0x19), (16, 7)], by decide +kernel⟩

theorem witness_BufferCommands_5 : ∃ (s : State) (q : BitVec 20) (tag : BitVec 12) (c : Cmd) (k : Nat) (b : Buf), s.runnable
    q.toNat tag.toNat opShare = some c ∧ c.local = true ∧ s.known (c.get 16 4) = some (k, b) ∧ b.owner = c.sq ∧ s.bufHeld k =
    false ∧ mhas s.sqs (c.get 20 2) = true ∧ c.get 20 2 / 64 = c.grp ∧ c.get 20 2 ≠ c.sq ∧ (b.readers.filter fun r => r !=
    c.get 20 2).length < 8 ∧ s.quotaOk (c.get 20 2) (poolGranules (bufPool k)) = true :=
  ⟨{ withCmd [(0, 0x1A), (16, 7), (20, 5)] with bufs := [(7, { owner := 0 })], sqs := [(5, theSq)] }, 0, 0, cmdOf [(0, 0x1A), (16, 7), (20, 5)], 7, { owner := 0 }, by decide +kernel⟩

theorem witness_BufferCommands_6 : ∃ (s : State) (w : CopyWait) (c : Cmd), (s.copyWait.find? fun w => (s.waiter w).any
    s.mayTake) = some w ∧ s.waiter w = some c ∧ s.flag Reg.BPM_STATUS_ACTIVE 0 = true ∧ (mget {} s.pools 2).fresh < s.rd
    Reg.BPM_POOL_CNT_COUNT 2 :=
  ⟨{ pooled {} with copyWait := [{ sq := 0, tag := 0, ord := 1 }], cmds := [copyCmd] }, { sq := 0, tag := 0, ord := 1 }, copyCmd, by decide +kernel⟩

theorem witness_PoolLayoutAndDmaChannels_1 : ∃ (s : State), s.flag Reg.BPM_CTRL_EN 0 = false ∧ s.badPool = none :=
  ⟨{}, by decide +kernel⟩

theorem witness_PoolLayoutAndDmaChannels_2 : ∃ (s : State) (p : Nat), s.flag Reg.BPM_CTRL_EN 0 = false ∧ s.badPool = some p :=
  ⟨regs [(Reg.BPM_POOL_BASE_BASE, 5, 1)], 5, by decide +kernel⟩

theorem witness_PoolLayoutAndDmaChannels_3 : ∃ (s : State), s.bufs = [] ∧ s.cmds = [] ∧ s.held = [] :=
  ⟨regs [(Reg.BPM_CTRL_EN, 0, 1)], by decide +kernel⟩

theorem witness_PoolLayoutAndDmaChannels_4 : ∃ (s : State) (src : Src) (ch : Fin 2176), src ≠ .host ∧ s.chanState ch = chIdle
    :=
  ⟨{}, .firmware, 2175, by decide +kernel⟩

theorem witness_PoolLayoutAndDmaChannels_6 : ∃ (s : State) (e : Fin 40) (ch : Nat) (r : List Nat), (s.engine e).running = none
    ∧ (s.engine e).queue = ch :: r ∧ s.mode ≠ mBanked ∧ s.mode ≠ mCinder :=
  ⟨{ engines := [(39, { queue := [2175] })] }, 39, 2175, [], by decide +kernel⟩

theorem witness_PoolLayoutAndDmaChannels_7 : ∃ (s : State) (e : Fin 40) (ch : Nat), Memory.wf s.mem = true ∧ (s.engine
    e).running = some ch ∧ (s.engine e).retryAt = none ∧ (s.desc (s.engine e).desc).ok = true ∧ (s.desc (s.engine
    e).desc).srcSpace = 3 ∧ (s.desc (s.engine e).desc).dstSpace = 1 ∧ (s.desc (s.engine e).desc).isEnd = true ∧ mfind
    s.chanJobs ch = none :=
  ⟨{ engines := [(0, { running := some 3, desc := 64 })], mem := memWriteList [] 64 (descBytes 0x0102030405060708 4096 0 16 0x47) }, 0, 3, by decide +kernel⟩

theorem witness_PoolLayoutAndDmaChannels_8 : ∃ (s : State) (e : Fin 40) (ch : Nat), (s.engine e).running = some ch ∧ (s.engine
    e).retryAt = none ∧ (s.desc (s.engine e).desc).ok = false ∧ s.descReady e.val = true ∧ mfind s.chanJobs ch = none :=
  ⟨{ engines := [(0, { running := some 3, desc := 64 })] }, 0, 3, by decide +kernel⟩

theorem witness_PoolLayoutAndDmaChannels_9 : ∃ (s : State) (e : Fin 8) (ch t0 : Nat), (s.engine e).running = some ch ∧
    (s.engine e).retryAt = some t0 ∧ 2 ≤ (s.engine e).retries ∧ mfind s.chanJobs ch = none :=
  ⟨{ engines := [(7, { running := some 115, desc := 64, retries := 2, retryAt := some 9 })] }, 7, 115, 9, by decide +kernel⟩

theorem witness_PoolLayoutAndDmaChannels_10 : ∃ (s : State) (src : Src) (ch : Fin 2176), src ≠ .host ∧ s.chanState ch =
    chHalted :=
  ⟨regs [(Reg.DMA_CH_STATUS_STATE, 7, 4)], .firmware, 7, by decide +kernel⟩

theorem witness_DoorbellsAndFetch_1 : ∃ (s : State) (q : BitVec 16) (v : BitVec 64) (x : Sq) (y : Cq), mfind s.sqs q.toNat =
    some x ∧ mfind s.cqs x.cq = some y ∧ ((bitOf v.toNat 16 = true → bitsOf v.toNat 0 16 < 2 ^ x.log2)) ∧ ((bitOf v.toNat 48 =
    true → bitsOf v.toNat 32 16 < 2 ^ y.log2)) :=
  ⟨mkQueues {}, 5, 0x0001000300010002, { theSq with tail := 1 }, theCq, by decide +kernel⟩

theorem witness_DoorbellsAndFetch_2 : ∃ (s : State) (q : BitVec 16) (v : BitVec 64), mfind s.sqs q.toNat = none :=
  ⟨mkQueues {}, 6, 1, by decide +kernel⟩

theorem witness_DoorbellsAndFetch_3 : ∃ (s : State) (p : BitVec 512) (q l : Nat) (x : Sq), s.fetchOn = true ∧ s.nextQueue =
    some (q, l) ∧ mfind s.sqs q = some x ∧ s.mode = mCinder :=
  ⟨inMode (mkQueues {}) mCinder, 0x0, 5, 3, { theSq with tail := 1 }, by decide +kernel⟩

theorem witness_DoorbellsAndFetch_4 : ∃ (s : State) (p : BitVec 512) (q l : Nat) (x : Sq), s.fetchOn = true ∧ s.nextQueue =
    some (q, l) ∧ mfind s.sqs q = some x ∧ s.mode = mBurn ∧ p = 0 ∧ s.cmd? q 0 = none :=
  ⟨inMode (mkQueues {}) mBurn, 0x0, 5, 3, { theSq with tail := 1 }, by decide +kernel⟩

theorem witness_DoorbellsAndFetch_5 : ∃ (s : State) (p : BitVec 512) (q l : Nat) (x : Sq), s.fetchOn = true ∧ s.nextQueue =
    some (q, l) ∧ mfind s.sqs q = some x ∧ s.mode = mBurn ∧ opcodes.contains (p.toNat % 256) = false :=
  ⟨inMode (mkQueues {}) mBurn, 0xff, 5, 3, { theSq with tail := 1 }, by decide +kernel⟩

theorem witness_DoorbellsAndFetch_6 : ∃ (s : State) (q : BitVec 16) (tag : BitVec 12) (c : Cmd), s.cmd? q.toNat tag.toNat =
    some c ∧ c.phase ≠ .fixed ∧ c.local = true :=
  ⟨withCmd [], 0, 0, cmdOf [], by decide +kernel⟩

theorem witness_DoorbellsAndFetch_7 : ∃ (s : State) (q : BitVec 16) (x : Sq), mfind s.sqs q.toNat = some x :=
  ⟨mkQueues {}, 5, { theSq with tail := 1 }, by decide +kernel⟩

theorem witness_CommandsStartStopAndComplete_1 : ∃ (s : State) (q : BitVec 20) (tag : BitVec 12) (c : Cmd), s.cmd? q.toNat
    tag.toNat = some c ∧ c.phase = .waiting ∧ c.launched = false ∧ s.startMode c = true ∧ s.orderOk c = true ∧ c.launch = none
    ∧ s.leaving c = false ∧ c.origin = none ∧ c.op = opNop :=
  ⟨{ withCmd [] with cmds := [{ cmdOf [] with launched := false }] }, 0, 0, { cmdOf [] with launched := false }, by decide +kernel⟩

theorem witness_CommandsStartStopAndComplete_2 : ∃ (s : State) (q : BitVec 20) (tag : BitVec 12) (c : Cmd) (l : Nat), s.cmd?
    q.toNat tag.toNat = some c ∧ c.phase = .waiting ∧ c.launched = false ∧ s.startMode c = true ∧ s.orderOk c = true ∧
    c.launch = some l ∧ s.leaving c = false :=
  ⟨{ withCmd [] with cmds := [{ cmdOf [] with launched := false, launch := some 5 }] }, 0, 0, { cmdOf [] with launched := false, launch := some 5 }, 5, by decide +kernel⟩

theorem witness_CommandsStartStopAndComplete_3 : ∃ (s : State) (q : BitVec 20) (tag : BitVec 12) (c : Cmd), s.runnable q.toNat
    tag.toNat opAbort = some c ∧ c.local = true ∧ s.cmd? (c.get 16 2) (c.get 18 2) = none :=
  ⟨withCmd [(0, 8), (16, 7)], 0, 0, cmdOf [(0, 8), (16, 7)], by decide +kernel⟩

theorem witness_CommandsStartStopAndComplete_4 : ∃ (s : State) (q : BitVec 20) (tag : BitVec 12) (c : Cmd) (x : Cmd),
    s.runnable q.toNat tag.toNat opAbort = some c ∧ s.cmd? (c.get 16 2) (c.get 18 2) = some x ∧ x.grp = c.grp ∧ x.local = true
    ∧ x.op ≠ opAbort ∧ x.op ≠ opWrite ∧ x.phase = .waiting ∧ x.away = none ∧ (x.sq, x.tag) ≠ (c.sq, c.tag) :=
  ⟨{ withCmd [(0, 8), (16, 7)] with cmds := [cmdOf [(0, 8), (16, 7)], { cmdOf [] with sq := 7, ord := 2 }] }, 0, 0, cmdOf [(0, 8), (16, 7)], { cmdOf [] with sq := 7, ord := 2 }, by decide +kernel⟩

theorem witness_CommandsStartStopAndComplete_5 : ∃ (s : State) (i : Fin 4096) (x : Cq), mfind s.cqs i.val = some x ∧ x.waiting
    ≠ [] ∧ x.room = true :=
  ⟨(mkQueues {}).putCq 3 { theCq with waiting := [{ sq := 5, tag := 1, status := 0, a := 1, b := 2, field := 0 }], tail := 15, head := 1 }, 3, { theCq with waiting := [{ sq := 5, tag := 1, status := 0, a := 1, b := 2, field := 0 }], tail := 15, head := 1 }, by decide +kernel⟩

theorem witness_CommandsStartStopAndComplete_6 : ∃ (s : State) (i : Fin 4096) (x : Cq) (f : Nat), mfind s.cqs i.val = some x ∧
    x.fullFrom = some f :=
  ⟨(mkQueues {}).putCq 3 { theCq with fullFrom := some 4 }, 3, { theCq with fullFrom := some 4 }, 4, by decide +kernel⟩

theorem witness_CommandsStartStopAndComplete_7 : ∃ (s : State) (i : Fin 4096) (x : Cq), mfind s.cqs i.val = some x ∧ x.msiDue
    = true ∧ s.hep.msixEn = true ∧ s.masked x.vector = false :=
  ⟨{ ((mkQueues {}).clr Reg.MSIX_VCTRL_MASK 9).putCq 3 { theCq with msiDue := true } with hep := { msixEn := true } }, 3, { theCq with msiDue := true }, by decide +kernel⟩

theorem witness_CommandsStartStopAndComplete_8 : ∃ (s : State) (i : Fin 4096) (x : Cq), mfind s.cqs i.val = some x ∧ x.msiDue
    = true ∧ s.hep.msixEn = true ∧ s.masked x.vector = true ∧ x.vector < 2048 :=
  ⟨{ ((mkQueues {}).set1 Reg.MSIX_VCTRL_MASK 9).putCq 3 { theCq with msiDue := true } with hep := { msixEn := true } }, 3, { theCq with msiDue := true }, by decide +kernel⟩

theorem witness_QueueOperations_1 : ∃ (s : State), s.flag Reg.CMDQ_OP_BUSY 0 = false ∧ s.qid < 4096 ∧ s.depthOk = true ∧
    s.qvec ≠ 0 ∧ s.qvec < 2048 ∧ mhas s.cqs s.qid = false :=
  ⟨regs [(Reg.CMDQ_QCFG_VECTOR, 0, 9), (Reg.CMDQ_QCFG_LOW, 0, 16), (Reg.CMDQ_QID_QID, 0, 4095)], by decide +kernel⟩

theorem witness_QueueOperations_2 : ∃ (s : State), s.flag Reg.CMDQ_OP_BUSY 0 = false ∧ 4096 ≤ s.qid :=
  ⟨regs [(Reg.CMDQ_QID_QID, 0, 4096)], by decide +kernel⟩

theorem witness_QueueOperations_3 : ∃ (s : State), s.flag Reg.CMDQ_OP_BUSY 0 = true :=
  ⟨regs [(Reg.CMDQ_OP_BUSY, 0, 1)], by decide +kernel⟩

theorem witness_QueueOperations_4 : ∃ (s : State), s.flag Reg.CMDQ_OP_BUSY 0 = false ∧ mhas s.cqs s.qid = true ∧ (s.sqs.any
    fun p => p.2.cq == s.qid) = false :=
  ⟨{ State.wr (mkQueues {}) Reg.CMDQ_QID_QID 0 3 with sqs := [] }, by decide +kernel⟩

theorem witness_QueueOperations_5 : ∃ (s : State), s.flag Reg.CMDQ_OP_BUSY 0 = false ∧ s.depthOk = true ∧ mhas s.cqs s.qvec =
    true ∧ (s.sqs.any fun p => p.2.cq == s.qvec && p.1 / 64 != s.qid / 64) = false ∧ mhas s.sqs s.qid = false :=
  ⟨State.wr (State.wr (State.wr (mkQueues {}) Reg.CMDQ_QCFG_VECTOR 0 3) Reg.CMDQ_QCFG_LOW 0 1) Reg.CMDQ_QID_QID 0 6, by decide +kernel⟩

theorem witness_QueueOperations_6 : ∃ (s : State) (x : Sq), s.flag Reg.CMDQ_OP_BUSY 0 = false ∧ mfind s.sqs s.qid = some x :=
  ⟨State.wr (mkQueues {}) Reg.CMDQ_QID_QID 0 5, { theSq with tail := 1 }, by decide +kernel⟩

theorem witness_QueueOperations_7 : ∃ (s : State) (q : Nat) (x : Sq), (s.sqs.find? fun p => p.2.deleting) = some (q, x) ∧
    (s.cmds.any fun c => c.sq == q) = false :=
  ⟨(mkQueues {}).putSq 5 { theSq with deleting := true }, 5, { theSq with deleting := true }, by decide +kernel⟩

theorem witness_QueueOperations_8 : ∃ (s : State), s.flag Reg.CMDQ_OP_BUSY 0 = false ∧ s.qid < 1024 ∧ s.qpasid < 2 ^ 20 ∧
    s.groupFlight s.qid = 0 :=
  ⟨regs [(Reg.CMDQ_QCFG_LOW, 0, 7), (Reg.CMDQ_QID_QID, 0, 1023)], by decide +kernel⟩

theorem witness_QueueOperations_9 : ∃ (s : State) (x : Cq), s.flag Reg.CMDQ_OP_BUSY 0 = false ∧ mfind s.cqs s.qid = some x :=
  ⟨State.wr (mkQueues {}) Reg.CMDQ_QID_QID 0 3, theCq, by decide +kernel⟩

theorem witness_QueueOperations_10 : ∃ (s : State) (x : Sq), s.flag Reg.CMDQ_OP_BUSY 0 = false ∧ mfind s.sqs s.qid = some x :=
  ⟨State.wr (mkQueues {}) Reg.CMDQ_QID_QID 0 5, { theSq with tail := 1 }, by decide +kernel⟩

theorem witness_QueueOperations_11 : ∃ (s : State), s.flag Reg.CMDQ_OP_BUSY 0 = false ∧ s.qid < 1024 :=
  ⟨regs [(Reg.CMDQ_QID_QID, 0, 1023)], by decide +kernel⟩

theorem witness_InformationCommands_1 : ∃ (s : State) (q : BitVec 20) (tag : BitVec 12) (c : Cmd), s.runnable q.toNat
    tag.toNat opNop = some c ∧ c.local = true :=
  ⟨withCmd [(0, 0)], 0, 0, cmdOf [(0, 0)], by decide +kernel⟩

theorem witness_InformationCommands_2 : ∃ (s : State) (q : BitVec 20) (tag : BitVec 12) (c : Cmd), s.runnable q.toNat
    tag.toNat opNop = some c ∧ c.silent = true :=
  ⟨{ inMode {} mBurn with cmds := [{ cmdOf [] with silent := true }] }, 0, 0, { cmdOf [] with silent := true }, by decide +kernel⟩

theorem witness_InformationCommands_3 : ∃ (s : State) (q : BitVec 20) (tag : BitVec 12) (c : Cmd), s.runnable q.toNat
    tag.toNat opIdentify = some c ∧ c.local = true :=
  ⟨withCmd [(0, 1), (32, 0x5000)], 0, 0, cmdOf [(0, 1), (32, 0x5000)], by decide +kernel⟩

theorem witness_InformationCommands_4 : ∃ (s : State) (q : BitVec 20) (tag : BitVec 12) (c : Cmd), s.runnable q.toNat
    tag.toNat opGetLog = some c ∧ c.local = true ∧ c.get 16 2 = 1 ∧ (s.eventLog.drop (c.get 24 8)).take (c.get 20 4) ≠ [] :=
  ⟨(withCmd [(0, 2), (16, 1), (20, 100), (32, 0x5000)]).raise 0x0301 [1, 2], 0, 0, cmdOf [(0, 2), (16, 1), (20, 100), (32, 0x5000)], by decide +kernel⟩

theorem witness_InformationCommands_5 : ∃ (s : State) (q : BitVec 20) (tag : BitVec 12) (c : Cmd), s.runnable q.toNat
    tag.toNat opSetFeature = some c ∧ c.local = true ∧ c.get 16 2 = 0x10 :=
  ⟨withCmd [(0, 3), (16, 0x10), (18, 3), (24, 77)], 0, 0, cmdOf [(0, 3), (16, 0x10), (18, 3), (24, 77)], by decide +kernel⟩

theorem witness_InformationCommands_6 : ∃ (s : State) (q : BitVec 20) (tag : BitVec 12) (c : Cmd), s.runnable q.toNat
    tag.toNat opSetFeature = some c ∧ c.local = true ∧ c.get 16 2 ≠ 0x10 :=
  ⟨withCmd [(0, 3), (16, 0x20), (24, 77)], 0, 0, cmdOf [(0, 3), (16, 0x20), (24, 77)], by decide +kernel⟩

theorem witness_InformationCommands_7 : ∃ (s : State) (q : BitVec 20) (tag : BitVec 12) (c : Cmd), s.runnable q.toNat
    tag.toNat opGetFeature = some c ∧ c.local = true :=
  ⟨withCmd [(0, 4), (16, 0x10), (18, 3)], 0, 0, cmdOf [(0, 4), (16, 0x10), (18, 3)], by decide +kernel⟩

theorem witness_InformationCommands_8 : ∃ (s : State) (q : BitVec 20) (tag : BitVec 12) (c : Cmd), s.runnable q.toNat
    tag.toNat opTimeGet = some c ∧ c.local = true :=
  ⟨withCmd [(0, 0x31), (32, 0x5000)], 0, 0, cmdOf [(0, 0x31), (32, 0x5000)], by decide +kernel⟩

theorem witness_InformationCommands_9 : ∃ (s : State) (q : BitVec 20) (tag : BitVec 12) (c : Cmd), s.runnable q.toNat
    tag.toNat opTallyRead = some c ∧ c.local = true :=
  ⟨withCmd [(0, 0x38), (20, 5)], 0, 0, cmdOf [(0, 0x38), (20, 5)], by decide +kernel⟩

theorem witness_InformationCommands_10 : ∃ (s : State) (q : BitVec 20) (tag : BitVec 12) (c : Cmd), s.runnable q.toNat
    tag.toNat opTallyAck = some c ∧ c.local = true ∧ s.newestSeq < seqNamed s.newestSeq (c.get 16 4) :=
  ⟨withCmd [(0, 0x39), (16, 9)], 0, 0, cmdOf [(0, 0x39), (16, 9)], by decide +kernel⟩

theorem witness_InformationCommands_11 : ∃ (s : State) (q : BitVec 20) (tag : BitVec 12) (c : Cmd), s.runnable q.toNat
    tag.toNat opTallyAck = some c ∧ c.local = true ∧ seqNamed s.newestSeq (c.get 16 4) ≤ s.newestSeq ∧ s.rd
    Reg.TALLY_ACKED_SEQ 0 < seqNamed s.newestSeq (c.get 16 4) :=
  ⟨(withCmd [(0, 0x39), (16, 9)]).programList (tallyWord 0) [1, 9, 0, 0, 0, 0, 0, 0], 0, 0, cmdOf [(0, 0x39), (16, 9)], by decide +kernel⟩

theorem witness_InformationCommands_12 : ∃ (s : State) (a : Nat) (bs : List Nat), s.flag Reg.HEP_STATUS_ATS_EN 0 = false ∧ bs ≠ [] ∧ a % s.maxPayload + bs.length ≤ s.maxPayload := ⟨{}, 0x5000, [1], by decide +kernel⟩

theorem witness_ModeTimeAndStationCommands_1 : ∃ (s : State) (q : BitVec 20) (tag : BitVec 12) (c : Cmd), s.runnable q.toNat
    tag.toNat opTimeSet = some c ∧ s.flag Reg.TIME_STATUS_LOAD_PENDING 0 = false ∧ c.origin = none ∧ ((∀ x ∈ s.cmds, x.op =
    opTimeSet → x ≠ c → c.ord < x.ord)) :=
  ⟨withCmd [(0, 0x30), (24, 2 ^ 32 * 5 + 7)], 0, 0, cmdOf [(0, 0x30), (24, 2 ^ 32 * 5 + 7)], by decide +kernel⟩

theorem witness_ModeTimeAndStationCommands_2 : ∃ (s : State) (q : BitVec 20) (tag : BitVec 12) (c : Cmd), s.runnable q.toNat
    tag.toNat opTimeSet = some c ∧ s.flag Reg.TIME_STATUS_LOAD_PENDING 0 = true :=
  ⟨(withCmd [(0, 0x30)]).set1 Reg.TIME_STATUS_LOAD_PENDING 0, 0, 0, cmdOf [(0, 0x30)], by decide +kernel⟩

theorem witness_ModeTimeAndStationCommands_3 : ∃ (s : State) (q : BitVec 20) (tag : BitVec 12) (c : Cmd), s.runnable q.toNat
    tag.toNat opModeSet = some c ∧ s.flag Reg.GCTL_BOOT_TRIAL 0 = false ∧ modePair s.mode (c.get 16 1) = true ∧ ((s.mode =
    mDamped → s.flag Reg.PWR_STATUS_THERM_DAMPED 0 = false)) :=
  ⟨withCmd [(0, 0x48), (16, 4), (20, 300)], 0, 0, cmdOf [(0, 0x48), (16, 4), (20, 300)], by decide +kernel⟩

theorem witness_ModeTimeAndStationCommands_4 : ∃ (s : State) (q : BitVec 20) (tag : BitVec 12) (c : Cmd), s.runnable q.toNat
    tag.toNat opModeSet = some c ∧ c.local = true ∧ s.flag Reg.GCTL_BOOT_TRIAL 0 = false ∧ c.get 16 1 = s.mode :=
  ⟨withCmd [(0, 0x48), (16, 3)], 0, 0, cmdOf [(0, 0x48), (16, 3)], by decide +kernel⟩

theorem witness_ModeTimeAndStationCommands_5 : ∃ (s : State) (q : BitVec 20) (tag : BitVec 12) (c : Cmd), s.runnable q.toNat
    tag.toNat opModeSet = some c ∧ c.local = true ∧ c.get 16 1 ≠ s.mode ∧ modePair s.mode (c.get 16 1) = false :=
  ⟨withCmd [(0, 0x48), (16, 5)], 0, 0, cmdOf [(0, 0x48), (16, 5)], by decide +kernel⟩

theorem witness_ModeTimeAndStationCommands_6 : ∃ (s : State) (q : BitVec 20) (tag : BitVec 12) (c : Cmd), s.runnable q.toNat
    tag.toNat opStationDiag = some c ∧ c.local = true ∧ c.get 18 1 = 0 :=
  ⟨withCmd [(0, 0x50), (16, 3)], 0, 0, cmdOf [(0, 0x50), (16, 3)], by decide +kernel⟩

theorem witness_ModeTimeAndStationCommands_7 : ∃ (s : State) (q : BitVec 20) (tag : BitVec 12) (c : Cmd), s.runnable q.toNat
    tag.toNat opStationDiag = some c ∧ c.get 18 1 = 2 ∧ s.active (c.get 16 2) = true ∧ s.flag Reg.STN_REG_CMD_BUSY (c.get 16
    2) = false :=
  ⟨(withCmd [(0, 0x50), (16, 3), (18, 2)]).setPort 3 lkActive, 0, 0, cmdOf [(0, 0x50), (16, 3), (18, 2)], by decide +kernel⟩

theorem witness_ModeTimeAndStationCommands_8 : ∃ (s : State) (q : BitVec 20) (tag : BitVec 12) (c : Cmd), s.runnable q.toNat
    tag.toNat opStationDiag = some c ∧ c.local = true ∧ c.get 18 1 = 3 ∧ s.discIn (c.get 16 2) = none :=
  ⟨withCmd [(0, 0x50), (16, 3), (18, 3)], 0, 0, cmdOf [(0, 0x50), (16, 3), (18, 3)], by decide +kernel⟩

theorem witness_ModeTimeAndStationCommands_9 : ∃ (s : State) (q : BitVec 20) (tag : BitVec 12) (c : Cmd), s.runnable q.toNat
    tag.toNat opStationDiag = some c ∧ c.local = true ∧ c.get 18 1 = 4 :=
  ⟨(withCmd [(0, 0x50), (16, 3), (18, 4)]).clr Reg.STN_LINK_CTRL_ENABLE 3, 0, 0, cmdOf [(0, 0x50), (16, 3), (18, 4)], by decide +kernel⟩

theorem witness_LoopEngineCommands_1 : ∃ (s : State) (l : Fin 32), s.loopsRun = true ∧ mfind s.loop.lanes l.val ≠ some
    ((s.advancePhase 1100).now - 1100) :=
  ⟨regs [(Reg.LPE_CTRL_RUN, 0, 1)], 3, by decide +kernel⟩

theorem witness_LoopEngineCommands_2 : ∃ (s : State) (l : Fin 32), s.mode ≠ mCinder ∧ s.mode ≠ mBanked :=
  ⟨{}, 3, by decide +kernel⟩

theorem witness_LoopEngineCommands_4 : ∃ (s : State) (sl : Fin 2048) (c : BitVec 32), s.slotOn sl = false ∧ (s.storeCtrl sl
    c.toNat).enableError sl = none :=
  ⟨{}, 5, 1, by decide +kernel⟩

theorem witness_LoopEngineCommands_5 : ∃ (s : State) (sl : Fin 2048) (c : BitVec 32) (e : Nat), s.slotOn sl = false ∧
    (s.storeCtrl sl c.toNat).enableError sl = some e :=
  ⟨{}, 5, 0xC, 3, by decide +kernel⟩

theorem witness_LoopEngineCommands_6 : ∃ (s : State) (sl : Fin 2048), s.slotOn sl = true :=
  ⟨regs [(Reg.DESC_CTRL_EN, 5, 1)], 5, by decide +kernel⟩

theorem witness_LoopEngineCommands_7 : ∃ (s : State) (sl : Fin 2048) (w : Fin 16) (d : BitVec 32), s.slotOn sl = false ∧ w ≠ 0
    :=
  ⟨{}, 5, 3, 0x20400001, by decide +kernel⟩

theorem witness_LoopEngineCommands_8 : ∃ (s : State) (sl : Fin 2048) (d : BitVec 32), s.slotOn sl = false :=
  ⟨{}, 5, 0xA4, by decide +kernel⟩

theorem witness_LoopEngineCommands_9 : ∃ (s : State) (sl : Fin 2048) (w : Fin 16) (d : BitVec 32), s.slotOn sl = true ∧ w ≠ 0
    ∧ s.flag Reg.LPE_ERR_VALID 0 = false :=
  ⟨regs [(Reg.DESC_CTRL_EN, 5, 1)], 5, 3, 0x20400001, by decide +kernel⟩

theorem witness_LoopEngineCommands_10 : ∃ (s : State) (sl : Fin 2048) (b : Fin 2) (w : Fin 64) (d : BitVec 32), (s.slotOn sl =
    false ∨ b.val ≠ s.rd Reg.DESC_CTRL_BANK sl) ∧ (s.lslot sl).swap = none :=
  ⟨regs [(Reg.DESC_CTRL_EN, 5, 1)], 5, 1, 63, 0xFFFFFFFF, by decide +kernel⟩

theorem witness_LoopEngineCommands_11 : ∃ (s : State) (sl : Fin 2048) (b : Fin 2) (w : Fin 64) (d : BitVec 32), s.slotOn sl =
    true ∧ b.val = s.rd Reg.DESC_CTRL_BANK sl ∧ s.flag Reg.LPE_ERR_VALID 0 = false :=
  ⟨regs [(Reg.DESC_CTRL_EN, 5, 1)], 5, 0, 63, 0xFFFFFFFF, by decide +kernel⟩

theorem witness_LoopEngineCommands_12 : ∃ (s : State) (sl : Fin 2048) (b : Fin 2) (w : Fin 64) (d : BitVec 32), b.val ≠ s.rd
    Reg.DESC_CTRL_BANK sl ∧ (s.lslot sl).swap ≠ none ∧ s.flag Reg.LPE_ERR_VALID 0 = false :=
  ⟨{ loop := { slots := [(5, { swap := some (0, 7) })] } }, 5, 1, 63, 0xFFFFFFFF, by decide +kernel⟩

theorem witness_LoopEngineCommands_13 : ∃ (s : State) (sl : Fin 2048) (m : Fin 4), s.flag Reg.LPE_SWAP_PENDING 0 = false ∧
    s.slotOn sl = true :=
  ⟨regs [(Reg.DESC_CTRL_EN, 5, 1)], 5, 1, by decide +kernel⟩

theorem witness_LoopEngineCommands_14 : ∃ (s : State) (sl : Fin 2048) (m : Fin 4), s.flag Reg.LPE_SWAP_PENDING 0 = false ∧
    s.slotOn sl = false :=
  ⟨{}, 5, 1, by decide +kernel⟩

theorem witness_LoopEngineCommands_15 : ∃ (s : State) (m : Fin 4) (sl : Fin 2048), s.flag Reg.LPE_SWAP_PENDING 0 = false ∧
    s.slotOn sl = true ∧ s.slotFlag Reg.LPE_SWAP_SET_BITS sl = true :=
  ⟨regs [(Reg.DESC_CTRL_EN, 5, 1), (Reg.LPE_SWAP_SET_BITS, 0, 32)], 1, 5, by decide +kernel⟩

theorem witness_LoopEngineCommands_16 : ∃ (s : State) (sl : Fin 2048) (m x : Nat), (s.lslot sl).swap = some (m, x) :=
  ⟨{ loop := { slots := [(5, { swap := some (1, 7) })] } }, 5, 1, 7, by decide +kernel⟩

theorem witness_LoopEngineCommands_18 : ∃ (s : State) (x : Nat), s.loop.safeFrom = some x ∧ s.loop.safeDone = false :=
  ⟨{ loop := { safeFrom := some 4 } }, 4, by decide +kernel⟩

theorem witness_LoopOutputsStayWithinLimits_1 : ∃ (s : State) (sl : Nat), s.coef sl 49 ≤ s.coef sl 48 := ⟨{}, 5, by decide +kernel⟩

theorem witness_LoopOutputsStayWithinLimits_2 : ∃ (s : State) (sl : Nat), (s.rd Reg.DESC_CTRL_INT_MODE sl = 1 ∨ s.rd Reg.DESC_CTRL_INT_MODE sl = 2) ∧ s.coef sl 47 ≤ s.coef sl 46 := ⟨regs [(Reg.DESC_CTRL_INT_MODE, 5, 1)], 5, by decide +kernel⟩

theorem witness_LoopOutputsStayWithinLimits_3 : ∃ (s : State) (sl : Nat), s.coef sl 6 ≤ s.coef sl 7 := ⟨{}, 5, by decide +kernel⟩

theorem witness_LoopOutputsStayWithinLimits_4 : ∃ (s : State) (k sl : Nat) (e : Int), s.rd Reg.DESC_CTRL_NSEC sl = 0 ∧ s.rd Reg.DESC_CTRL_INT_MODE sl = 0 ∧ s.rd Reg.DESC_CTRL_NBR sl = 0 ∧
    s.flag Reg.DESC_CTRL_FF_EN sl = false ∧ s.flag Reg.DESC_CTRL_EWRAP sl = false ∧
    e = stage 32 27 (s.coef sl 4 * 2 ^ 28 + s.coef sl 0 * s.source k sl (s.rd Reg.DESC_SRC01_SRC0 sl) + s.coef sl 1 * s.source k sl (s.rd Reg.DESC_SRC01_SRC1 sl)
      + s.coef sl 2 * s.source k sl (s.rd Reg.DESC_SRC23_SRC2 sl) + s.coef sl 3 * s.source k sl (s.rd Reg.DESC_SRC23_SRC3 sl)) := ⟨{}, 0, 5, 0, by decide +kernel⟩

theorem witness_HeadOperationsStart_1 : ∃ (s : State) (n : Fin 128) (a : Fin 2) (h : Nat), h = headOf n a ∧ s.mode ≠ mCinder ∧
    s.flag Reg.STN_HD_CMD_BUSY h = false ∧ ((s.hd h = hdParked ∨ s.hd h = hdFault)) :=
  ⟨{ regs [(Reg.STN_HD_STATUS_STATE, 6, hdParked)] with heads := [(6, {  })] }, 3, 0, 6, by decide +kernel⟩

theorem witness_HeadOperationsStart_2 : ∃ (s : State) (n : Fin 128) (a : Fin 2) (h : Nat), h = headOf n a ∧ s.mode ≠ mCinder ∧
    s.flag Reg.STN_HD_CMD_BUSY h = false ∧ s.hd h ≠ hdParked ∧ s.hd h ≠ hdFault :=
  ⟨{ regs [(Reg.STN_HD_STATUS_STATE, 6, hdReady)] with heads := [(6, {  })] }, 3, 0, 6, by decide +kernel⟩

theorem witness_HeadOperationsStart_3 : ∃ (s : State) (n : Fin 128) (a : Fin 2) (h : Nat), h = headOf n a ∧ s.mode ≠ mCinder ∧
    s.flag Reg.STN_HD_CMD_BUSY h = false ∧ s.hd h = hdReady ∧ (s.head h).op = none ∧ landing (s.posNow h) (slotPos (s.rd
    Reg.STN_HD_TARGET_SLOT h) (s.flag Reg.STN_HD_TARGET_LEADIN h)) (s.landMargin h) = 0 :=
  ⟨{ regs [(Reg.STN_HD_STATUS_STATE, 6, hdReady)] with heads := [(6, { pos := slotPos 0 false - 300000 })] }, 3, 0, 6, by decide +kernel⟩

theorem witness_HeadOperationsStart_4 : ∃ (s : State) (n : Fin 128) (a : Fin 2) (h : Nat) (j : Int), h = headOf n a ∧ s.mode ≠
    mCinder ∧ s.flag Reg.STN_HD_CMD_BUSY h = false ∧ s.hd h = hdReady ∧ (s.head h).op = none ∧ j = landing (s.posNow h)
    (slotPos (s.rd Reg.STN_HD_TARGET_SLOT h) (s.flag Reg.STN_HD_TARGET_LEADIN h)) (s.landMargin h) ∧ j ≠ 0 ∧ j.natAbs ≤
    s.jumpMax h :=
  ⟨{ regs [(Reg.STN_HD_STATUS_STATE, 6, hdReady), (Reg.STN_HD_TRK_CFG_JUMP_MAX, 6, 63), (Reg.STN_HD_TARGET_SLOT, 6, 40)] with heads := [(6, { pos := slotPos 0 false })] }, 3, 0, 6, landing (slotPos 0 false) (slotPos 40 false) ((regs []).landMargin 6), by decide +kernel⟩

theorem witness_HeadOperationsStart_5 : ∃ (s : State) (n : Fin 128) (a : Fin 2) (h : Nat) (j : Int), h = headOf n a ∧ s.mode ≠
    mCinder ∧ s.flag Reg.STN_HD_CMD_BUSY h = false ∧ s.hd h = hdReady ∧ (s.head h).op = none ∧ j = landing (s.posNow h)
    (slotPos (s.rd Reg.STN_HD_TARGET_SLOT h) (s.flag Reg.STN_HD_TARGET_LEADIN h)) (s.landMargin h) ∧ s.jumpMax h < j.natAbs :=
  ⟨{ regs [(Reg.STN_HD_STATUS_STATE, 6, hdReady), (Reg.STN_HD_TARGET_SLOT, 6, 400000)] with heads := [(6, { pos := slotPos 0 false })] }, 3, 0, 6, landing (slotPos 0 false) (slotPos 400000 false) ((regs []).landMargin 6), by decide +kernel⟩

theorem witness_HeadOperationsStart_6 : ∃ (s : State) (n : Fin 128) (a : Fin 2) (h : Nat), h = headOf n a ∧ s.mode ≠ mCinder ∧
    s.flag Reg.STN_HD_CMD_BUSY h = false ∧ s.hd h = hdReady ∧ (s.head h).op = none :=
  ⟨{ regs [(Reg.STN_HD_STATUS_STATE, 6, hdReady)] with heads := [(6, {  })] }, 3, 0, 6, by decide +kernel⟩

theorem witness_HeadOperationsStart_7 : ∃ (s : State) (n : Fin 128) (a : Fin 2) (h : Nat), h = headOf n a ∧ s.mode ≠ mCinder ∧
    s.headUp h = true ∧ s.hd h ≠ hdParking :=
  ⟨{ regs [(Reg.STN_HD_STATUS_STATE, 6, hdReady)] with heads := [(6, {  })] }, 3, 0, 6, by decide +kernel⟩

theorem witness_HeadOperationsStart_8 : ∃ (s : State) (n : Fin 128) (a : Fin 2) (h : Nat), h = headOf n a ∧ s.mode ≠ mCinder ∧
    s.hd h = hdParked :=
  ⟨{ regs [(Reg.STN_HD_STATUS_STATE, 6, hdParked)] with heads := [(6, {  })] }, 3, 0, 6, by decide +kernel⟩

theorem witness_HeadOperationsStart_9 : ∃ (s : State) (n : Fin 128) (a : Fin 2) (h : Nat), h = headOf n a ∧ s.mode ≠ mCinder ∧
    s.flag Reg.STN_HD_CMD_BUSY h = false ∧ s.hd h = hdReady ∧ (s.head h).op = none ∧ s.pcaNext h (s.layerOf h) < 18432 :=
  ⟨{ regs [(Reg.STN_HD_STATUS_STATE, 6, hdReady)] with heads := [(6, {  })] }, 3, 0, 6, by decide +kernel⟩

theorem witness_HeadOperationsStart_10 : ∃ (s : State) (n : Fin 128) (a : Fin 2) (h : Nat), h = headOf n a ∧ s.mode ≠ mCinder
    ∧ s.flag Reg.STN_HD_CMD_BUSY h = false ∧ s.hd h = hdReady ∧ (s.head h).op = none ∧ 18432 ≤ s.pcaNext h (s.layerOf h) :=
  ⟨{ ({ regs [(Reg.STN_HD_STATUS_STATE, 6, hdReady)] with heads := [(6, {  })] }) with discs := [(0, { known := true, loc := .station 3, mounted := true, a := { pca := [(0, 18432)] } })] }, 3, 0, 6, by decide +kernel⟩

theorem witness_HeadOperationsStart_11 : ∃ (s : State) (n : Fin 128) (a : Fin 2) (h : Nat), h = headOf n a ∧ s.mode ≠ mCinder
    ∧ s.flag Reg.STN_HD_CMD_BUSY h = false ∧ s.hd h = hdFault :=
  ⟨{ regs [(Reg.STN_HD_STATUS_STATE, 6, hdFault)] with heads := [(6, {  })] }, 3, 0, 6, by decide +kernel⟩

theorem witness_HeadOperationsStart_12 : ∃ (s : State) (n : Fin 128) (a : Fin 2) (h : Nat) (p : Nat) (c : Option (Nat × Nat)),
    h = headOf n a ∧ s.mode ≠ mCinder ∧ s.hd h ≠ hdReady :=
  ⟨{ regs [(Reg.STN_HD_STATUS_STATE, 6, hdSeek)] with heads := [(6, {  })] }, 3, 0, 6, 9, none, by decide +kernel⟩

theorem witness_HeadOperationsStart_13 : ∃ (s : State) (n : Fin 128) (a : Fin 2) (h : Nat) (p : Nat) (c : Option (Nat × Nat))
    (j : Int), h = headOf n a ∧ s.mode ≠ mCinder ∧ s.hd h = hdReady ∧ (s.head h).op = none ∧ j = landing (s.posNow h) (slotPos
    p false) (s.landMargin h) ∧ j ≠ 0 ∧ j.natAbs ≤ s.jumpMax h :=
  ⟨{ regs [(Reg.STN_HD_STATUS_STATE, 6, hdReady), (Reg.STN_HD_TRK_CFG_JUMP_MAX, 6, 63)] with heads := [(6, { pos := slotPos 0 false })] }, 3, 0, 6, 40, none, landing (slotPos 0 false) (slotPos 40 false) ((regs []).landMargin 6), by decide +kernel⟩

theorem witness_HeadOperationsStart_14 : ∃ (s : State) (n : Fin 128) (a : Fin 2) (h : Nat) (l : Fin 16) (c : Option (Nat ×
    Nat)), h = headOf n a ∧ s.mode ≠ mCinder ∧ s.hd h ≠ hdReady :=
  ⟨{ regs [(Reg.STN_HD_STATUS_STATE, 6, hdSeek)] with heads := [(6, {  })] }, 3, 0, 6, 9, none, by decide +kernel⟩

theorem witness_HeadOperationsStart_15 : ∃ (s : State) (n : Fin 128) (a : Fin 2) (h : Nat) (l : Fin 16) (c : Option (Nat ×
    Nat)), h = headOf n a ∧ s.mode ≠ mCinder ∧ s.hd h = hdReady ∧ (s.head h).op = none :=
  ⟨{ regs [(Reg.STN_HD_STATUS_STATE, 6, hdReady)] with heads := [(6, {  })] }, 3, 0, 6, 9, none, by decide +kernel⟩

theorem witness_HeadOperationsStart_16 : ∃ (s : State) (n : Fin 128) (a : Fin 2) (h : Nat) (i : Bool) (b : Nat), h = headOf n
    a ∧ s.mode ≠ mCinder ∧ s.hd h = hdReady ∧ (s.head h).op = none ∧ (s.head h).stepAsk = some i ∧ (s.head h).step = none ∧ b
    = (if s.lin % 5000 ≤ 2400 then s.now - s.lin % 5000 else s.now - s.lin % 5000 + 5000) :=
  ⟨{ regs [(Reg.STN_HD_STATUS_STATE, 6, hdReady), (Reg.STN_HD_TRK_CFG_TRK_STEP, 6, 3)] with heads := [(6, { stepAsk := some true })] }, 3, 0, 6, true, 0, by decide +kernel⟩

theorem witness_HeadOperationsStart_17 : ∃ (s : State) (n : Fin 128) (a : Fin 2) (h : Nat), h = headOf n a ∧ s.mode ≠ mCinder
    ∧ s.hd h = hdReady ∧ (s.head h).op = none ∧ s.flag Reg.STN_HD_CTRL_OPC_AUTO h = true ∧ s.opcDue h = true ∧ s.pcaNext h
    (s.layerOf h) < 18432 :=
  ⟨{ regs [(Reg.STN_HD_STATUS_STATE, 6, hdReady), (Reg.STN_HD_CTRL_OPC_AUTO, 6, 1)] with heads := [(6, {  })] }, 3, 0, 6, by decide +kernel⟩

theorem witness_HeadSequencesEnd_1 : ∃ (s : State) (n : Fin 128) (a : Fin 2) (h : Nat) (r : HReq) (x y : BitVec 64) (k : Nat),
    h = headOf n a ∧ (s.head h).op = some r ∧ r.kind = 1 ∧ (s.head h).stage = 0 ∧ 64 ≤ (s.head h).watch.focIn :=
  ⟨{ regs [(Reg.STN_HD_STATUS_STATE, 6, hdFocusAcq)] with heads := [(6, { op := some { kind := 1, firmware := true }, watch := { focIn := 64 } })] }, 3, 0, 6, { kind := 1, firmware := true }, 0, 0, 0, by decide +kernel⟩

theorem witness_HeadSequencesEnd_2 : ∃ (s : State) (n : Fin 128) (a : Fin 2) (h : Nat) (r : HReq) (x y : BitVec 64) (k : Nat),
    h = headOf n a ∧ (s.head h).op = some r ∧ r.kind = 1 ∧ (s.head h).stage = 1 ∧ 300 ≤ (s.head h).watch.trkIn :=
  ⟨{ regs [(Reg.STN_HD_STATUS_STATE, 6, hdTrackAcq)] with heads := [(6, { op := some { kind := 1, firmware := true }, stage := 1, watch := { trkIn := 300 } })] }, 3, 0, 6, { kind := 1, firmware := true }, 0, 0, 0, by decide +kernel⟩

theorem witness_HeadSequencesEnd_3 : ∃ (s : State) (n : Fin 128) (a : Fin 2) (h : Nat) (r : HReq) (x y : BitVec 64) (k : Nat),
    h = headOf n a ∧ (s.head h).op = some r ∧ r.kind = 1 ∧ (s.head h).stage = 2 ∧ guideOk x.toNat = true ∧ guideOk y.toNat =
    true ∧ bitsOf x.toNat 20 1 = a ∧ bitsOf y.toNat 20 1 = a ∧ k ≤ 1 ∧ bitsOf y.toNat 0 20 = bitsOf x.toNat 0 20 + k :=
  ⟨{ regs [(Reg.STN_HD_STATUS_STATE, 6, hdTrackAcq)] with heads := [(6, { op := some { kind := 1, firmware := true }, stage := 2 })] }, 3, 0, 6, { kind := 1, firmware := true }, BitVec.ofNat 64 (0x101000005 + crc16 (bytesLE 6 0x101000005) * 2 ^ 48), BitVec.ofNat 64 (0x101000006 + crc16 (bytesLE 6 0x101000006) * 2 ^ 48), 1, by decide +kernel⟩

theorem witness_HeadSequencesEnd_4 : ∃ (s : State) (n : Fin 128) (a : Fin 2) (h : Nat) (r : HReq) (x y : BitVec 64) (k : Nat),
    h = headOf n a ∧ (s.head h).op = some r ∧ r.kind = 1 ∧ (s.head h).stage = 3 ∧ guideOk x.toNat = true ∧ bitsOf x.toNat 20 1
    = a :=
  ⟨{ regs [(Reg.STN_HD_STATUS_STATE, 6, hdOnGuide)] with heads := [(6, { op := some { kind := 1, firmware := true }, stage := 3 })] }, 3, 0, 6, { kind := 1, firmware := true }, BitVec.ofNat 64 (0x101000005 + crc16 (bytesLE 6 0x101000005) * 2 ^ 48), 0, 0, by decide +kernel⟩

theorem witness_HeadSequencesEnd_5 : ∃ (s : State) (n : Fin 128) (a : Fin 2) (h : Nat) (r : HReq) (x y : BitVec 64) (k : Nat),
    h = headOf n a ∧ (s.head h).op = some r ∧ r.kind = 1 ∧ ((s.head h).stage = 2 → guideOk y.toNat = true) ∧ (((s.head
    h).stage = 2 ∨ (s.head h).stage = 3)) ∧ guideOk x.toNat = true ∧ bitsOf x.toNat 20 1 ≠ a ∧ s.headUp h = true ∧ s.hd h ≠
    hdParking :=
  ⟨{ regs [(Reg.STN_HD_STATUS_STATE, 6, hdOnGuide)] with heads := [(6, { op := some { kind := 1, firmware := true }, stage := 3 })] }, 3, 0, 6, { kind := 1, firmware := true }, BitVec.ofNat 64 (0x101100005 + crc16 (bytesLE 6 0x101100005) * 2 ^ 48), 0, 0, by decide +kernel⟩

theorem witness_HeadSequencesEnd_6 : ∃ (s : State) (n : Fin 128) (a : Fin 2) (h : Nat) (r : HReq), h = headOf n a ∧ (s.head
    h).op = some r ∧ r.kind = 1 ∧ (((s.head h).stage < 3 ∨ (s.head h).stage = 4)) ∧ (((s.head h).stage = 0 → s.sweepBack h =
    none)) ∧ (s.head h).tries < 2 :=
  ⟨{ regs [(Reg.STN_HD_STATUS_STATE, 6, hdFocusAcq)] with heads := [(6, { op := some { kind := 1, firmware := true }, stage := 0 })] }, 3, 0, 6, { kind := 1, firmware := true }, by decide +kernel⟩

theorem witness_HeadSequencesEnd_7 : ∃ (s : State) (n : Fin 128) (a : Fin 2) (h : Nat) (r : HReq), h = headOf n a ∧ (s.head
    h).op = some r ∧ r.kind = 1 ∧ (((s.head h).stage < 3 ∨ (s.head h).stage = 4)) ∧ (((s.head h).stage = 0 → s.sweepBack h =
    none)) ∧ 2 ≤ (s.head h).tries ∧ s.headUp h = true ∧ s.hd h ≠ hdParking :=
  ⟨{ regs [(Reg.STN_HD_STATUS_STATE, 6, hdFocusAcq)] with heads := [(6, { op := some { kind := 1, firmware := true }, stage := 1, tries := 2 })] }, 3, 0, 6, { kind := 1, firmware := true }, by decide +kernel⟩

theorem witness_HeadSequencesEnd_8 : ∃ (s : State) (n : Fin 128) (a : Fin 2) (h : Nat) (r : HReq) (e : Nat), h = headOf n a ∧
    (s.head h).op = some r ∧ r.kind = 1 ∧ (s.head h).stage = 0 ∧ s.sweepBack h = some e :=
  ⟨({ regs [(Reg.STN_HD_STATUS_STATE, 6, hdFocusAcq)] with heads := [(6, { op := some { kind := 1, firmware := true }, stage := 0 })] }).gateHead 6 0 (.ramp 1 (State.rdS {} Reg.LPE_SAFE_CFG_FOCUS_PARK 0) 0 5), 3, 0, 6, { kind := 1, firmware := true }, 5, by decide +kernel⟩

theorem witness_HeadSequencesEnd_9 : ∃ (s : State) (n : Fin 128) (a : Fin 2) (h : Nat) (r : HReq), h = headOf n a ∧ (s.head
    h).waiting = [] ∧ (s.head h).again = none ∧ (s.head h).op = some r ∧ r.kind ≠ 6 ∧ r.kind ≠ 5 ∧ (s.head h).jump ≠ 0 :=
  ⟨{ regs [(Reg.STN_HD_STATUS_STATE, 6, hdSeek)] with heads := [(6, { op := some { kind := 2, firmware := true }, jump := 4, dueAt := 77, pos := 30000 })] }, 3, 0, 6, { kind := 2, firmware := true }, by decide +kernel⟩

theorem witness_HeadSequencesEnd_10 : ∃ (s : State) (n : Fin 128) (a : Fin 2) (h : Nat) (r : HReq) (x y : BitVec 64) (k :
    Nat), h = headOf n a ∧ (s.head h).waiting = [] ∧ (s.head h).again = none ∧ (s.head h).longMoves ≠ 0 ∧ (s.head h).stage = 9
    ∧ s.axState h ≠ axMoving ∧ s.axState h ≠ axHoming ∧ s.gate n (headWord h 1) = none ∧ 300 ≤ (s.head h).watch.trkIn ∧
    addrPair a x.toNat y.toNat k = true ∧ (s.head h).op = some r ∧ r.kind ≠ 6 ∧ r.kind ≠ 5 ∧ landing (slotPos (bitsOf y.toNat
    0 20) (bitOf y.toNat 21)) (slotPos r.slot r.leadin) (s.landMargin h) = 0 :=
  ⟨{ regs [(Reg.STN_HD_STATUS_STATE, 6, hdSeek)] with heads := [(6, { op := some { kind := 2, slot := 7 }, longMoves := 1, stage := 9, watch := { trkIn := 300 } })] }, 3, 0, 6, { kind := 2, slot := 7 }, BitVec.ofNat 64 (0x101000005 + crc16 (bytesLE 6 0x101000005) * 2 ^ 48), BitVec.ofNat 64 (0x101000006 + crc16 (bytesLE 6 0x101000006) * 2 ^ 48), 1, by decide +kernel⟩

theorem witness_HeadSequencesEnd_11 : ∃ (s : State) (n : Fin 128) (a : Fin 2) (h : Nat) (r : HReq) (x y : BitVec 64) (k : Nat)
    (j : Int), h = headOf n a ∧ (s.head h).longMoves ≠ 0 ∧ (s.head h).stage = 9 ∧ s.axState h ≠ axMoving ∧ s.axState h ≠
    axHoming ∧ s.gate n (headWord h 1) = none ∧ 300 ≤ (s.head h).watch.trkIn ∧ addrPair a x.toNat y.toNat k = true ∧ (s.head
    h).op = some r ∧ r.kind = 2 ∧ j = landing (slotPos (bitsOf y.toNat 0 20) (bitOf y.toNat 21)) (slotPos r.slot r.leadin)
    (s.landMargin h) ∧ s.jumpMax h < j.natAbs ∧ 3 ≤ (s.head h).longMoves :=
  ⟨{ regs [(Reg.STN_HD_STATUS_STATE, 6, hdSeek)] with heads := [(6, { op := some { kind := 2, slot := 400000 }, longMoves := 3, stage := 9, watch := { trkIn := 300 } })] }, 3, 0, 6, { kind := 2, slot := 400000 }, BitVec.ofNat 64 (0x101000005 + crc16 (bytesLE 6 0x101000005) * 2 ^ 48), BitVec.ofNat 64 (0x101000006 + crc16 (bytesLE 6 0x101000006) * 2 ^ 48), 1, landing (slotPos 6 false) (slotPos 400000 false) ((regs []).landMargin 6), by decide +kernel⟩

theorem witness_HeadSequencesEnd_12 : ∃ (s : State) (n : Fin 128) (a : Fin 2) (h : Nat) (r : HReq), h = headOf n a ∧ s.hd h =
    hdReady ∧ (s.head h).op = none ∧ (s.head h).again = some r ∧ r.kind = 2 ∧ landing (s.posNow h) (slotPos r.slot r.leadin)
    (s.landMargin h) = 0 :=
  ⟨{ regs [(Reg.STN_HD_STATUS_STATE, 6, hdReady)] with heads := [(6, { again := some { kind := 2 }, pos := slotPos 0 false - 300000 })] }, 3, 0, 6, { kind := 2 }, by decide +kernel⟩

theorem witness_HeadSequencesEnd_13 : ∃ (s : State) (n : Fin 128) (a : Fin 2) (h : Nat), h = headOf n a ∧ (s.head h).onRelay =
    true :=
  ⟨{ regs [(Reg.STN_HD_STATUS_STATE, 6, hdLayerAcq)] with heads := [(6, { op := some { kind := 3, firmware := true }, stage := 5 })] }, 3, 0, 6, by decide +kernel⟩

theorem witness_HeadSequencesEnd_14 : ∃ (s : State) (n : Fin 128) (a : Fin 2) (h : Nat) (r : HReq), h = headOf n a ∧ (s.head
    h).waiting = [] ∧ (s.head h).again = none ∧ (s.head h).op = some r ∧ r.kind = 3 ∧ r.layer < 16 ∧ (s.head h).onRelay = true
    ∧ 16 ≤ (s.head h).watch.relIn :=
  ⟨{ regs [(Reg.STN_HD_STATUS_STATE, 6, hdLayerAcq)] with heads := [(6, { op := some { kind := 3, firmware := true }, stage := 5, watch := { relIn := 16 } })] }, 3, 0, 6, { kind := 3, firmware := true }, by decide +kernel⟩

theorem witness_HeadSequencesEnd_15 : ∃ (s : State) (n : Fin 128) (a : Fin 2) (h : Nat) (r : HReq), h = headOf n a ∧ (s.head
    h).op = some r ∧ (s.head h).onRelay = true ∧ (s.head h).tries < 2 :=
  ⟨{ regs [(Reg.STN_HD_STATUS_STATE, 6, hdLayerAcq)] with heads := [(6, { op := some { kind := 3, firmware := true }, stage := 5 })] }, 3, 0, 6, { kind := 3, firmware := true }, by decide +kernel⟩

theorem witness_HeadSequencesEnd_16 : ∃ (s : State) (n : Fin 128) (a : Fin 2) (h : Nat) (r : HReq), h = headOf n a ∧ (s.head
    h).op = some r ∧ r.kind = 3 ∧ (s.head h).onRelay = true ∧ 2 ≤ (s.head h).tries :=
  ⟨{ regs [(Reg.STN_HD_STATUS_STATE, 6, hdLayerAcq)] with heads := [(6, { op := some { kind := 3, layer := 2 }, stage := 5, tries := 2 })] }, 3, 0, 6, { kind := 3, layer := 2 }, by decide +kernel⟩

theorem witness_HeadSequencesEnd_17 : ∃ (s : State) (n : Fin 128) (a : Fin 2) (h : Nat) (l : Fin 5), h = headOf n a ∧ s.mode ≠
    mCinder ∧ ((s.hd h = hdReady ∨ s.hd h = hdSeek ∨ s.hd h = hdOpc)) ∧ ((s.head h).watch.lost (s.sliceOf h).isSome l) = true
    ∧ s.flag Reg.STN_HD_CTRL_AUTO_RECOVER h = true :=
  ⟨{ regs [(Reg.STN_HD_STATUS_STATE, 6, hdReady), (Reg.STN_HD_CTRL_AUTO_RECOVER, 6, 1)] with heads := [(6, { watch := { sumLow := 8 } })] }, 3, 0, 6, 0, by decide +kernel⟩

theorem witness_HeadSequencesEnd_18 : ∃ (s : State) (n : Fin 128) (a : Fin 2) (h : Nat) (l : Fin 5), h = headOf n a ∧ s.mode ≠
    mCinder ∧ ((s.hd h = hdReady ∨ s.hd h = hdSeek ∨ s.hd h = hdOpc)) ∧ ((s.head h).watch.lost (s.sliceOf h).isSome l) = true
    ∧ s.flag Reg.STN_HD_CTRL_AUTO_RECOVER h = false :=
  ⟨{ regs [(Reg.STN_HD_STATUS_STATE, 6, hdReady), (Reg.STN_HD_CTRL_AUTO_RECOVER, 6, 0)] with heads := [(6, { watch := { sumLow := 8 } })] }, 3, 0, 6, 0, by decide +kernel⟩

theorem witness_HeadSequencesEnd_19 : ∃ (s : State) (n : Fin 128) (a : Fin 2) (h : Nat) (r : HReq), h = headOf n a ∧ (s.head
    h).waiting = [] ∧ (s.head h).again = none ∧ (s.head h).op = some r ∧ r.kind = 6 ∧ s.hd h = hdRecover ∧ (s.head h).stage =
    7 ∧ ((∀ sl, s.sliceOf h = some sl → (s.slice sl).reverify = false)) :=
  ⟨{ regs [(Reg.STN_HD_STATUS_STATE, 6, hdRecover)] with heads := [(6, { op := some { kind := 6, firmware := true }, stage := 7 })] }, 3, 0, 6, { kind := 6, firmware := true }, by refine ⟨by decide +kernel, by decide +kernel, by decide +kernel, by decide +kernel, by decide +kernel, by decide +kernel, by decide +kernel, fun sl h => ?_⟩; cases h⟩

theorem witness_HeadSequencesEnd_20 : ∃ (s : State) (n : Fin 128) (a : Fin 2) (h : Nat) (r : HReq), h = headOf n a ∧ (s.head
    h).op = some r ∧ r.kind = 6 ∧ s.hd h = hdRecover :=
  ⟨{ regs [(Reg.STN_HD_STATUS_STATE, 6, hdRecover)] with heads := [(6, { op := some { kind := 6, firmware := true }, stage := 2 })] }, 3, 0, 6, { kind := 6, firmware := true }, by decide +kernel⟩

theorem witness_HeadSequencesEnd_21 : ∃ (s : State) (n : Fin 128) (a : Fin 2) (h : Nat), h = headOf n a ∧ 16 ≤ (s.head
    h).watch.limR ∧ (s.head h).watch.shownR = false :=
  ⟨{ regs [(Reg.STN_HD_STATUS_STATE, 6, hdReady)] with heads := [(6, { watch := { limR := 16 } })] }, 3, 0, 6, by decide +kernel⟩

theorem witness_HeadSequencesEnd_22 : ∃ (s : State) (n : Fin 128) (a : Fin 2) (h : Nat) (w : Bool), h = headOf n a ∧ (s.head
    h).watch.limR < 16 ∧ (s.head h).watch.limW < 16 ∧ 16 ≤ (s.head h).watch.freeR ∧ 16 ≤ (s.head h).watch.freeW ∧ (if w then
    (s.head h).watch.shownW else (s.head h).watch.shownR) = true ∧ (if w then (s.head h).watch.shownR else (s.head
    h).watch.shownW) = false :=
  ⟨{ regs [(Reg.STN_HD_STATUS_STATE, 6, hdReady), (Reg.STN_HD_STATUS_PWR_LIMITED, 6, 1)] with heads := [(6, { watch := { freeR := 16, freeW := 16, shownW := true } })] }, 3, 0, 6, true, by decide +kernel⟩

theorem witness_HeadSequencesEnd_23 : ∃ (s : State) (n : Fin 128) (a : Fin 2) (h : Nat) (r : HReq) (d : Nat), h = headOf n a ∧
    (s.head h).opc.burst < 18432 ∧ (s.head h).opc.stage = .back ∧ (s.head h).op = some r ∧ r.kind = 5 ∧ s.hd h = hdOpc ∧
    (s.head h).opc.lost = true ∧ (s.head h).opcTries = 0 ∧ s.discIn (h / 2) = some d :=
  ⟨{ ({ regs [(Reg.STN_HD_STATUS_STATE, 6, hdOpc)] with heads := [(6, { op := some { kind := 5, firmware := true }, opc := { stage := .back, lost := true } })] }) with discs := [(0, { known := true, loc := .station 3, mounted := true })] }, 3, 0, 6, { kind := 5, firmware := true }, 0, by decide +kernel⟩

theorem witness_HeadSequencesEnd_24 : ∃ (s : State) (n : Fin 128) (a : Fin 2) (h : Nat) (r : HReq) (e : Nat), h = headOf n a ∧
    (s.head h).waiting = [] ∧ (s.head h).again = none ∧ (s.head h).opc.burst < 18432 ∧ (s.head h).opc.stage = .back ∧ (s.head
    h).op = some r ∧ r.kind = 5 ∧ s.hd h = hdOpc ∧ (s.head h).opc.lost = false ∧ (s.head h).opc.rows.length = 8 ∧ e = ((upTo
    8).map fun k => ((mfind (s.head h).opc.rows k).map fun b => burstErrors b.words (burstPfa (s.head h).opc.burst h
    r.layer)).getD 6656).foldl min 6656 ∧ e ≤ s.rd Reg.STN_HD_OPC_RES_E_MAX h :=
  ⟨{ regs [(Reg.STN_HD_STATUS_STATE, 6, hdOpc), (Reg.STN_HD_OPC_RES_E_MAX, 6, 7000)] with heads := [(6, { op := some { kind := 5, firmware := true }, opc := { stage := .back, rows := (upTo 8).map fun k => (k, { words := [], score := 64, off := 0, lost := false }) } })] }, 3, 0, 6, { kind := 5, firmware := true }, ((upTo 8).map fun _ => burstErrors [] (burstPfa 0 6 0)).foldl min 6656, by decide +kernel⟩

theorem witness_HeadSequencesEnd_25 : ∃ (s : State) (n : Fin 128) (a : Fin 2) (h : Nat) (r : HReq), h = headOf n a ∧ (s.head
    h).waiting = [] ∧ (s.head h).again = none ∧ (s.head h).op = some r ∧ r.kind = 5 ∧ s.hd h = hdOpc ∧ 18432 ≤ (s.head
    h).opc.burst :=
  ⟨{ regs [(Reg.STN_HD_STATUS_STATE, 6, hdOpc)] with heads := [(6, { op := some { kind := 5, firmware := true }, opc := { burst := 18432 } })] }, 3, 0, 6, { kind := 5, firmware := true }, by decide +kernel⟩

theorem witness_HeadSequencesEnd_26 : ∃ (s : State) (n : Fin 128) (a : Fin 2) (h : Nat), h = headOf n a ∧ s.mode ≠ mCinder ∧
    s.hd h = hdParking ∧ (s.head h).parkCause ≠ 4 ∧ s.axState h ≠ axMoving ∧ s.axState h ≠ axHoming ∧ (s.head h).stage ≠ 10 ∧
    s.axPos h ≠ s.rdS Reg.MOT_SLED_PARK_PARK 0 :=
  ⟨{ regs [(Reg.STN_HD_STATUS_STATE, 6, hdParking), (Reg.MOT_SLED_PARK_PARK, 0, 7)] with heads := [(6, { op := some { kind := 4, firmware := true }, dueAt := 9 })] }, 3, 0, 6, by decide +kernel⟩

theorem witness_HeadSequencesEnd_27 : ∃ (s : State) (n : Fin 128) (a : Fin 2) (h : Nat), h = headOf n a ∧ s.mode ≠ mCinder ∧
    s.hd h = hdParking ∧ (((s.head h).parkCause = 4 ∨ (s.axState h ≠ axMoving ∧ s.axState h ≠ axHoming ∧ ((s.head h).stage =
    10 ∨ s.axPos h = s.rdS Reg.MOT_SLED_PARK_PARK 0)))) :=
  ⟨{ regs [(Reg.STN_HD_STATUS_STATE, 6, hdParking)] with heads := [(6, { op := some { kind := 4, firmware := true }, dueAt := 9, stage := 10 })] }, 3, 0, 6, by decide +kernel⟩

theorem witness_SpindleStarts_1 : ∃ (s : State) (n : Fin 128) (r : BitVec 14), s.mode ≠ mCinder ∧ s.spState n = spStopped ∧ r
    ≠ 0 :=
  ⟨{ regs [(Reg.STN_SP_STATUS_STATE, 3, spStopped)] with spins := [(3, {  })] }, 3, 9000, by decide +kernel⟩

theorem witness_SpindleStarts_2 : ∃ (s : State) (n : Fin 128), s.mode ≠ mCinder ∧ s.spState n = spRun ∧ (s.spin n).retryAt =
    none :=
  ⟨{ regs [(Reg.STN_SP_STATUS_STATE, 3, spRun)] with spins := [(3, {  })] }, 3, by decide +kernel⟩

theorem witness_SpindleStarts_3 : ∃ (s : State) (n : Fin 128), s.mode ≠ mCinder ∧ s.spState n = spSense :=
  ⟨{ regs [(Reg.STN_SP_STATUS_STATE, 3, spSense)] with spins := [(3, {  })] }, 3, by decide +kernel⟩

theorem witness_SpindleStarts_4 : ∃ (s : State) (n : Fin 128), s.mode ≠ mCinder ∧ s.spState n = spWaitSlow :=
  ⟨{ regs [(Reg.STN_SP_STATUS_STATE, 3, spWaitSlow)] with spins := [(3, {  })] }, 3, by decide +kernel⟩

theorem witness_SpindleStarts_5 : ∃ (s : State) (n : Fin 128), s.mode ≠ mCinder ∧ s.spState n = spRevBrake ∧ (rpmOf
    (s.obsSpeed n)).natAbs < 60 :=
  ⟨{ regs [(Reg.STN_SP_STATUS_STATE, 3, spRevBrake)] with spins := [(3, {  })] }, 3, by decide +kernel⟩

theorem witness_SpindleStarts_6 : ∃ (s : State) (n : Fin 128), s.mode ≠ mCinder ∧ (s.spin n).alignReady = true ∧ s.spinupGap n
    = true ∧ s.capAdmits (s.rd Reg.PWR_WEIGHT_STN_START_W 0) = true :=
  ⟨{ regs [(Reg.STN_SP_STATUS_STATE, 3, spWaitSlow)] with spins := [(3, { alignReady := true })] }, 3, by decide +kernel⟩

theorem witness_SpindleStarts_7 : ∃ (s : State) (n : Fin 128), s.mode ≠ mCinder ∧ s.spState n = spAlign :=
  ⟨{ regs [(Reg.STN_SP_STATUS_STATE, 3, spAlign)] with spins := [(3, {  })] }, 3, by decide +kernel⟩

theorem witness_SpindleStarts_8 : ∃ (s : State) (n : Fin 128), s.mode ≠ mCinder ∧ s.spState n = spRamp ∧ 64 ≤ (s.spin
    n).handRuns ∧ (s.spin n).topAt ≠ none :=
  ⟨{ regs [(Reg.STN_SP_STATUS_STATE, 3, spRamp)] with spins := [(3, { handRuns := 64, topAt := some 4 })] }, 3, by decide +kernel⟩

theorem witness_SpindleStarts_9 : ∃ (s : State) (n : Fin 128), s.mode ≠ mCinder ∧ s.spState n = spCatch ∧ 64 ≤ (s.spin
    n).resLow ∧ (s.spin n).catchBad = false :=
  ⟨{ regs [(Reg.STN_SP_STATUS_STATE, 3, spCatch)] with spins := [(3, { resLow := 64 })] }, 3, by decide +kernel⟩

theorem witness_SpindleStarts_10 : ∃ (s : State) (n : Fin 128) (x : Nat), s.mode ≠ mCinder ∧ s.spState n = spRamp ∧ (s.spin
    n).retryAt = none ∧ (s.spin n).topAt = some x ∧ s.rd Reg.STN_SP_STATUS_ATTEMPT n < 3 :=
  ⟨{ regs [(Reg.STN_SP_STATUS_STATE, 3, spRamp)] with spins := [(3, { topAt := some 4 })] }, 3, 4, by decide +kernel⟩

theorem witness_SpindleStarts_11 : ∃ (s : State) (n : Fin 128) (x : Nat), s.mode ≠ mCinder ∧ s.spState n = spRamp ∧ (s.spin
    n).retryAt = none ∧ (s.spin n).topAt = some x ∧ s.rd Reg.STN_SP_STATUS_ATTEMPT n = 3 :=
  ⟨{ regs [(Reg.STN_SP_STATUS_STATE, 3, spRamp), (Reg.STN_SP_STATUS_ATTEMPT, 3, 3)] with spins := [(3, { topAt := some 4 })] }, 3, 4, by decide +kernel⟩

theorem witness_SpindleStarts_12 : ∃ (s : State) (n : Fin 128) (x : Nat), s.mode ≠ mCinder ∧ (s.spin n).retryAt = some x :=
  ⟨{ regs [(Reg.STN_SP_STATUS_STATE, 3, spRamp)] with spins := [(3, { retryAt := some 4 })] }, 3, 4, by decide +kernel⟩

theorem witness_SpindleStarts_13 : ∃ (s : State) (n : Fin 128), s.mode ≠ mCinder ∧ s.spState n = spRamp ∧ (s.spin n).retryAt =
    none ∧ (s.spin n).commAt ≤ (s.spin n).stateAt ∧ s.rd Reg.STN_SP_STATUS_ATTEMPT n < 3 :=
  ⟨{ regs [(Reg.STN_SP_STATUS_STATE, 3, spRamp)] with spins := [(3, {  })] }, 3, by decide +kernel⟩

theorem witness_SpindleRunsAndStops_1 : ∃ (s : State) (n : Fin 128), s.mode ≠ mCinder ∧ s.spState n = spRun :=
  ⟨{ regs [(Reg.STN_SP_STATUS_STATE, 3, spRun)] with spins := [(3, {  })] }, 3, by decide +kernel⟩

theorem witness_SpindleRunsAndStops_2 : ∃ (s : State) (n : Fin 128) (w : Nat), s.mode ≠ mCinder ∧ s.spState n = spRun ∧
    s.observerLost n = some w :=
  ⟨{ regs [(Reg.STN_SP_STATUS_STATE, 3, spRun), (Reg.STN_HD_STATUS_STATE, 6, hdReady)] with spins := [(3, { resHigh := 16 })] }, 3, 0, by decide +kernel⟩

theorem witness_SpindleRunsAndStops_3 : ∃ (s : State) (n : Fin 128) (m : Meas), s.mode ≠ mCinder ∧ s.spState n = spReacq ∧
    s.measure n 150 = some m :=
  ⟨{ regs [(Reg.STN_SP_STATUS_STATE, 3, spReacq)] with spins := [(3, { bemf := (upTo 150).map fun i => [(2 ^ 23, 0), (2 ^ 23, -(2 ^ 23)), (0, -(2 ^ 23)), (-(2 ^ 23), -(2 ^ 23)), (-(2 ^ 23), 0), (-(2 ^ 23), 2 ^ 23), (0, 2 ^ 23), (2 ^ 23, 2 ^ 23)].getD (i % 8) (0, 0) })] }, 3, (State.measure ({ regs [(Reg.STN_SP_STATUS_STATE, 3, spReacq)] with spins := [(3, { bemf := (upTo 150).map fun i => [(2 ^ 23, 0), (2 ^ 23, -(2 ^ 23)), (0, -(2 ^ 23)), (-(2 ^ 23), -(2 ^ 23)), (-(2 ^ 23), 0), (-(2 ^ 23), 2 ^ 23), (0, 2 ^ 23), (2 ^ 23, 2 ^ 23)].getD (i % 8) (0, 0) })] }) 3 150).getD {}, by decide +kernel⟩

theorem witness_SpindleRunsAndStops_4 : ∃ (s : State) (n : Fin 128), s.mode ≠ mCinder ∧ s.spState n = spReacq :=
  ⟨{ regs [(Reg.STN_SP_STATUS_STATE, 3, spReacq)] with spins := [(3, {  })] }, 3, by decide +kernel⟩

theorem witness_SpindleRunsAndStops_5 : ∃ (s : State) (n : Fin 128), s.mode ≠ mCinder ∧ ((s.spState n = spBrake ∨ s.spState n
    = spRevBrake)) ∧ (s.spin n).tracked = true ∧ s.flag Reg.STN_SP_STATUS_SHORT n = false ∧ s.coef (s.rd
    Reg.STN_SP_SLOTS_FOC_SLOT n) 5 * (s.spRd n Reg.STN_SP_BRAKE_CFG_VBUS_MAX : Int) < s.sensor n 21 * 128 :=
  ⟨{ ({ regs [(Reg.STN_SP_STATUS_STATE, 3, spBrake)] with spins := [(3, { tracked := true })] }) with stns := [(3, { sensor := List.replicate 23 5 })] }, 3, by decide +kernel⟩

theorem witness_SpindleRunsAndStops_6 : ∃ (s : State) (n : Fin 128), s.mode ≠ mCinder ∧ s.spState n = spBrake ∧ s.brakeRpm n <
    s.spRd n Reg.STN_SP_BRAKE_CFG_STOP_RPM :=
  ⟨{ regs [(Reg.STN_SP_STATUS_STATE, 3, spBrake)] with spins := [(3, {  })] }, 3, by decide +kernel⟩

theorem witness_SpindleRunsAndStops_7 : ∃ (s : State) (n : Fin 128), s.mode ≠ mCinder ∧ s.spState n = spHold ∧ (s.spin
    n).stopCause = 2 :=
  ⟨{ regs [(Reg.STN_SP_STATUS_STATE, 3, spHold)] with spins := [(3, { stopCause := 2 })] }, 3, by decide +kernel⟩

theorem witness_SpindleRunsAndStops_8 : ∃ (s : State) (n : Fin 128), s.mode ≠ mCinder ∧ s.spState n = spBrake :=
  ⟨{ regs [(Reg.STN_SP_STATUS_STATE, 3, spBrake)] with spins := [(3, {  })] }, 3, by decide +kernel⟩

theorem witness_SpindleRunsAndStops_9 : ∃ (s : State) (n : Fin 128) (x : Nat), s.mode ≠ mCinder ∧ s.spState n = spRun ∧
    (s.spin n).bandFrom = some x ∧ s.flag Reg.STN_SP_STATUS_AT_SPEED n = false :=
  ⟨{ regs [(Reg.STN_SP_STATUS_STATE, 3, spRun)] with spins := [(3, { bandFrom := some 4 })] }, 3, 4, by decide +kernel⟩

theorem witness_SpindleRunsAndStops_10 : ∃ (s : State) (n : Fin 128), s.mode ≠ mCinder ∧ s.flag Reg.STN_SP_STATUS_PHASE_LOCKED
    n = false ∧ 16 ≤ (s.spin n).phaseRuns ∧ s.phaseOn n = true :=
  ⟨{ { regs [(Reg.STN_SP_STATUS_STATE, 3, spRun), (Reg.TIME_VG_CFG_PHASE_EN, 0, 1), (Reg.STN_SP_CTRL_PHASE_ALLOW, 3, 1), (Reg.STN_SP_TARGET_RPM, 3, 10000), (Reg.STN_SP_STATUS_AT_SPEED, 3, 1)] with spins := [(3, { phaseRuns := 16 })] } with tb := { vgActive := [(Reg.TIME_VG_MAP_MEMBER.key 3, 1)] } }, 3, by decide +kernel⟩

theorem witness_SpindleRunsAndStops_11 : ∃ (s : State) (n : Fin 128), s.mode ≠ mCinder ∧ s.flag Reg.STN_SP_STATUS_PHASE_LOCKED
    n = true ∧ (s.spin n).phiBad = true :=
  ⟨{ regs [(Reg.STN_SP_STATUS_STATE, 3, spRun), (Reg.STN_SP_STATUS_PHASE_LOCKED, 3, 1)] with spins := [(3, { phiBad := true })] }, 3, by decide +kernel⟩

theorem witness_SpindleRunsAndStops_12 : ∃ (s : State) (n : Fin 128), s.mode ≠ mCinder ∧ s.spState n = spFault ∧ s.rd
    Reg.STN_SP_TARGET_RPM n = 0 :=
  ⟨{ regs [(Reg.STN_SP_STATUS_STATE, 3, spFault)] with spins := [(3, {  })] }, 3, by decide +kernel⟩

theorem witness_MotionEngineMoves_1 : ∃ (s : State) (a : Fin 264), s.flag Reg.MOT_AX_CMD_BUSY a = false ∧ s.sledFree a = true
    ∧ s.axState a = axIdle ∧ s.motionHeld = false ∧ s.mode ≠ mKiln ∧ s.badProfile a = false ∧ s.tooFast a (s.rdS
    Reg.MOT_AX_TARGET_VALUE a) = false ∧ s.inLimits a (s.rdS Reg.MOT_AX_TARGET_VALUE a) = true ∧ ((isPicker a = true →
    s.doorOk = true)) :=
  ⟨{ regs [(Reg.MOT_AX_STATUS_STATE, 6, axIdle), (Reg.MOT_AX_VMAX_VALUE, 6, 100), (Reg.MOT_AX_AMAX_VALUE, 6, 100), (Reg.MOT_AX_VSTART_VALUE, 6, 10), (Reg.MOT_AX_STOP_DEC_VALUE, 6, 10), (Reg.MOT_AX_LIM_HI_VALUE, 6, 1000), (Reg.MOT_AX_TARGET_VALUE, 6, 100)] with axes := [(6, {  })] }, 6, by decide +kernel⟩

theorem witness_MotionEngineMoves_2 : ∃ (s : State) (a : Fin 264), s.flag Reg.MOT_AX_CMD_BUSY a = false ∧ s.sledFree a = true
    ∧ s.axState a = axUnref :=
  ⟨{ regs [(Reg.MOT_AX_STATUS_STATE, 6, axUnref)] with axes := [(6, {  })] }, 6, by decide +kernel⟩

theorem witness_MotionEngineMoves_3 : ∃ (s : State) (a : Fin 264), s.flag Reg.MOT_AX_CMD_BUSY a = false ∧ s.sledFree a = true
    ∧ s.axState a = axIdle ∧ s.motionHeld = false ∧ s.badProfile a = false ∧ s.tooFast a (s.rdS Reg.MOT_AX_TARGET_VALUE a) =
    false ∧ s.inLimits a (s.rdS Reg.MOT_AX_TARGET_VALUE a) = false :=
  ⟨{ regs [(Reg.MOT_AX_STATUS_STATE, 6, axIdle), (Reg.MOT_AX_VMAX_VALUE, 6, 100), (Reg.MOT_AX_AMAX_VALUE, 6, 100), (Reg.MOT_AX_VSTART_VALUE, 6, 10), (Reg.MOT_AX_STOP_DEC_VALUE, 6, 10), (Reg.MOT_AX_LIM_HI_VALUE, 6, 50), (Reg.MOT_AX_TARGET_VALUE, 6, 100)] with axes := [(6, {  })] }, 6, by decide +kernel⟩

theorem witness_MotionEngineMoves_4 : ∃ (s : State) (a : Fin 264), s.flag Reg.MOT_AX_CMD_BUSY a = false ∧ s.sledFree a = false
    :=
  ⟨{ regs [(Reg.MOT_AX_STATUS_STATE, 6, axFollow), (Reg.STN_HD_STATUS_STATE, 6, hdReady)] with axes := [(6, {  })] }, 6, by decide +kernel⟩

theorem witness_MotionEngineMoves_5 : ∃ (s : State) (a : Fin 264) (p : Plan), s.axState a = axMoving ∧ (s.axis a).held = none
    ∧ (s.axis a).plan = some p ∧ p.at_ = none :=
  ⟨{ regs [(Reg.MOT_AX_STATUS_STATE, 6, axMoving)] with axes := [(6, { plan := some { a := 5, b := 5 } })] }, 6, { a := 5, b := 5 }, by decide +kernel⟩

theorem witness_MotionEngineMoves_6 : ∃ (s : State) (a : Fin 264) (p : Plan) (x : Nat), s.axState a = axMoving ∧ (s.axis
    a).held = none ∧ (s.axis a).plan = some p ∧ p.at_ = some x ∧ p.cut = none :=
  ⟨{ regs [(Reg.MOT_AX_STATUS_STATE, 6, axMoving)] with axes := [(6, { plan := some { a := 0, b := 5, v := 10, acc := 10, s := 1, at_ := some 7 } })] }, 6, { a := 0, b := 5, v := 10, acc := 10, s := 1, at_ := some 7 }, 7, by decide +kernel⟩

theorem witness_MotionEngineMoves_7 : ∃ (s : State) (a : Fin 264), s.flag Reg.MOT_AX_CMD_BUSY a = false ∧ s.sledFree a = true
    ∧ ((s.axState a = axUnref ∨ s.axState a = axIdle)) ∧ s.motionHeld = false ∧ s.mode ≠ mKiln ∧ a.val < 256 :=
  ⟨{ regs [(Reg.MOT_AX_STATUS_STATE, 6, axUnref)] with axes := [(6, {  })] }, 6, by decide +kernel⟩

theorem witness_MotionEngineMoves_8 : ∃ (s : State) (a : Fin 264), s.flag Reg.MOT_AX_CMD_BUSY a = false ∧ s.sledFree a = true
    ∧ ((s.axState a = axUnref ∨ s.axState a = axIdle)) ∧ s.motionHeld = false ∧ s.mode ≠ mKiln ∧ 256 ≤ a.val ∧ s.doorOk = true
    :=
  ⟨{ regs [(Reg.MOT_AX_STATUS_STATE, 256, axUnref), (Reg.LIB_STATUS_DOOR_CLOSED, 0, 1), (Reg.LIB_STATUS_DOOR_LOCKED, 0, 1)] with lib := { lockOut := true } }, 256, by decide +kernel⟩

theorem witness_MotionEngineMoves_9 : ∃ (s : State) (a : Fin 264), s.flag Reg.MOT_AX_CMD_BUSY a = false ∧ s.axState a =
    axFault ∧ (s.axis a).flt = false :=
  ⟨{ regs [(Reg.MOT_AX_STATUS_STATE, 6, axFault)] with axes := [(6, {  })] }, 6, by decide +kernel⟩

theorem witness_MotionEngineMoves_10 : ∃ (s : State) (a : Fin 264) (v : BitVec 32), s.flag Reg.MOT_AX_STATUS_MOVING a = false
    :=
  ⟨{}, 6, 100, by decide +kernel⟩

theorem witness_MotionEngineMoves_11 : ∃ (s : State) (a : Fin 264) (v : BitVec 32), s.flag Reg.MOT_AX_STATUS_MOVING a = true
    :=
  ⟨regs [(Reg.MOT_AX_STATUS_MOVING, 6, 1)], 6, 100, by decide +kernel⟩

theorem witness_MotionEngineMoves_12 : ∃ (s : State) (a : Fin 264) (p : Plan) (x : Nat), (s.axis a).plan = some p ∧ p.endAt =
    some x ∧ p.cut = none ∧ s.axState a = axMoving ∧ s.stepping a = true ∧ s.lib.opening = false :=
  ⟨{ regs [(Reg.MOT_AX_STATUS_STATE, 6, axMoving), (Reg.MOT_CTRL_EN, 0, 1)] with axes := [(6, { plan := some { a := 0, b := 5, v := 10, acc := 10, s := 1, at_ := some 7 } })] }, 6, { a := 0, b := 5, v := 10, acc := 10, s := 1, at_ := some 7 }, 7 + 4 * Plan.time { a := 0, b := 5, v := 10, acc := 10, s := 1, at_ := some 7 } 5, by decide +kernel⟩

theorem witness_MotionEngineMoves_13 : ∃ (s : State) (a : Fin 264) (p : Plan) (x f r : Nat) (b : Bool), s.axState a = axHoming
    ∧ (s.axis a).plan = some p ∧ p.endAt = some x ∧ p.cut = none ∧ s.stepping a = true ∧ a.val < 256 ∧ (s.axis a).after = none
    :=
  ⟨{ regs [(Reg.MOT_AX_STATUS_STATE, 6, axHoming), (Reg.MOT_CTRL_EN, 0, 1)] with axes := [(6, { plan := some { a := 5, b := 0, v := 10, homing := 1, at_ := some 7 } })] }, 6, { a := 5, b := 0, v := 10, homing := 1, at_ := some 7 }, 7 + 4 * Plan.time { a := 5, b := 0, v := 10, homing := 1 } 5, 0, 0, true, by decide +kernel⟩

theorem witness_MotionEngineMoves_14 : ∃ (s : State) (a : Fin 264) (p : Plan) (x f r : Nat), s.axState a = axHoming ∧ (s.axis
    a).plan = some p ∧ p.endAt = some x ∧ p.cut = none ∧ s.stepping a = true ∧ 256 ≤ a.val ∧ s.lib.opening = false :=
  ⟨{ regs [(Reg.MOT_AX_STATUS_STATE, 256, axHoming), (Reg.MOT_CTRL_EN, 0, 1), (Reg.LIB_STATUS_DOOR_CLOSED, 0, 1), (Reg.LIB_STATUS_DOOR_LOCKED, 0, 1)] with axes := [(256, { plan := some { a := 5, b := 0, v := 10, homing := 1, at_ := some 7 } })], lib := { lockOut := true } }, 256, { a := 5, b := 0, v := 10, homing := 1, at_ := some 7 }, 7 + 4 * Plan.time { a := 5, b := 0, v := 10, homing := 1 } 5, 0, 0, by decide +kernel⟩

theorem witness_MotionEngineMoves_15 : ∃ (s : State) (a : Fin 264) (p : Plan) (x f r : Nat), s.axState a = axHoming ∧ (s.axis
    a).plan = some p ∧ p.at_ = some x ∧ p.cut = none ∧ s.stepping a = true ∧ 256 ≤ a.val ∧ (s.axis a).after = none ∧
    s.lib.opening = false :=
  ⟨{ regs [(Reg.MOT_AX_STATUS_STATE, 256, axHoming), (Reg.MOT_CTRL_EN, 0, 1), (Reg.LIB_STATUS_DOOR_CLOSED, 0, 1), (Reg.LIB_STATUS_DOOR_LOCKED, 0, 1)] with axes := [(256, { plan := some { a := 5, b := 0, v := 10, homing := 1, at_ := some 7 } })], lib := { lockOut := true } }, 256, { a := 5, b := 0, v := 10, homing := 1, at_ := some 7 }, 7, 9, 3, by decide +kernel⟩

theorem witness_MotionEngineMoves_18 : ∃ (s : State) (a x : Nat) (p : Plan), (s.axis a).held = none ∧ (s.axis a).plan = some p
    ∧ p.at_ = some x ∧ p.cut = none :=
  ⟨{ regs [(Reg.MOT_AX_STATUS_STATE, 6, axMoving)] with axes := [(6, { plan := some { a := 0, b := 5, v := 10, acc := 10, s := 1, at_ := some 7 } })] }, 6, 7, { a := 0, b := 5, v := 10, acc := 10, s := 1, at_ := some 7 }, by decide +kernel⟩

theorem witness_MotionEngineMoves_19 : ∃ (s : State) (a : Nat) (p : Plan), (s.axis a).held = none ∧ (s.axis a).plan = some p ∧
    p.at_ = none :=
  ⟨{ regs [(Reg.MOT_AX_STATUS_STATE, 6, axMoving)] with axes := [(6, { plan := some { a := 5, b := 5 } })] }, 6, { a := 5, b := 5 }, by decide +kernel⟩

theorem witness_MotionEngineMoves_20 : ∃ (s : State) (n : Fin 128) (b : Fin 2) (k : Nat), s.active n = true ∧ s.flag
    Reg.MOT_CTRL_EN 0 = true ∧ (s.axis (2 * n + b)).plan = none ∧ s.axState (2 * n + b) = axFollow ∧ (s.axis (2 * n +
    b)).demand = 0 :=
  ⟨{ State.setPort (regs [(Reg.MOT_AX_STATUS_STATE, 6, axFollow), (Reg.MOT_CTRL_EN, 0, 1)]) 3 lkActive with axes := [(6, { speed := 3 })] }, 3, 0, 4, by decide +kernel⟩

theorem witness_MotionEngineMoves_21 : ∃ (s : State) (n : Fin 128) (b : Fin 2) (k x l : Nat) (p : Plan), s.active n = true ∧
    s.flag Reg.MOT_CTRL_EN 0 = true ∧ (s.axis (2 * n + b)).plan = some p ∧ p.at_ = some x ∧ l = max k (p.reached x (s.now +
    40000) 32 0 + 1 - p.next) ∧ 0 < l ∧ l ≤ 16 ∧ l ≤ s.stepRoom n (2 * n + b) ∧ p.next ≤ p.steps :=
  ⟨{ State.setPort (regs [(Reg.MOT_CTRL_EN, 0, 1)]) 3 lkActive with axes := [(6, { plan := some { a := 0, b := 5, v := 10, acc := 10, s := 1, at_ := some 7 } })], stns := [(3, { feBuf := 0x100000 })] }, 3, 0, 2, 7, 2, { a := 0, b := 5, v := 10, acc := 10, s := 1, at_ := some 7 }, by decide +kernel⟩

theorem witness_MemoryTrainingScrubAndBuffer_1 : ∃ (s : State) (l : List ChanObs) (r : Nat), badFit l = none ∧ rateOf l = some
    r ∧ ((∀ c ∈ l, c.fitted = true → c.trained = true)) ∧ s.ms.trainedAt = none ∧ r < 2 ^ Reg.MEMC_CHAN_RATE.w :=
  ⟨{}, [{ fitted := true, dimms := 1, ranks := 1, size := 32, rate := 48, trained := true }, { fitted := false, dimms := 0, ranks := 0, size := 0, rate := 0, trained := false }, { fitted := false, dimms := 0, ranks := 0, size := 0, rate := 0, trained := false }, { fitted := false, dimms := 0, ranks := 0, size := 0, rate := 0, trained := false }], 48, by decide +kernel⟩

theorem witness_MemoryTrainingScrubAndBuffer_2 : ∃ (s : State) (l : List ChanObs) (r x : Nat), badFit l = none ∧ rateOf l =
    some r ∧ ((∀ c ∈ l, c.fitted = true → c.trained = true)) ∧ s.ms.trainedAt = some x :=
  ⟨{ regs [] with ms := { trainedAt := some 3 } }, [{ fitted := true, dimms := 1, ranks := 1, size := 32, rate := 48, trained := true }, { fitted := false, dimms := 0, ranks := 0, size := 0, rate := 0, trained := false }, { fitted := false, dimms := 0, ranks := 0, size := 0, rate := 0, trained := false }, { fitted := false, dimms := 0, ranks := 0, size := 0, rate := 0, trained := false }], 48, 3, by decide +kernel⟩

theorem witness_MemoryTrainingScrubAndBuffer_3 : ∃ (s : State) (l : List ChanObs), ((badFit l ≠ none ∨ rateOf l = none ∨ ∃ i :
    Fin 4, (l[i.val]?).any (fun c => c.fitted && !c.trained) = true)) ∧ s.mode ≠ mCinder ∧ s.mode ≠ mBanked :=
  ⟨{}, [{ fitted := true, dimms := 1, ranks := 1, size := 32, rate := 48, trained := false }, { fitted := false, dimms := 0, ranks := 0, size := 0, rate := 0, trained := false }, { fitted := false, dimms := 0, ranks := 0, size := 0, rate := 0, trained := false }, { fitted := false, dimms := 0, ranks := 0, size := 0, rate := 0, trained := false }], by decide +kernel⟩

theorem witness_MemoryTrainingScrubAndBuffer_4 : ∃ (s : State) (dt x : Nat), s.ms.trainedAt = some x ∧ s.flag
    Reg.MEMC_STATUS_INIT_DONE 0 = false ∧ s.flag Reg.MEMC_STATUS_TRAINED 0 = true :=
  ⟨{ regs [(Reg.MEMC_STATUS_TRAINED, 0, 1)] with ms := { trainedAt := some 3 } }, 50, 3, by decide +kernel⟩

theorem witness_MemoryTrainingScrubAndBuffer_5 : ∃ (s : State), s.flag Reg.MEMC_STATUS_TRAINED 0 = true ∧ s.flag
    Reg.MEMC_STATUS_SELF_REFRESH 0 = false ∧ s.mode ≠ mEmber ∧ s.mode ≠ mBanked ∧ s.rd Reg.MEMC_SCRUB_CFG_HOURS 0 ≠ 0 ∧
    s.ms.merge = [] ∧ s.ms.ue = [] ∧ s.ms.ce = [] ∧ s.rd Reg.MEMC_SCRUB_POS_POS 0 + 64 < s.fittedDram :=
  ⟨{ regs [(Reg.MEMC_STATUS_TRAINED, 0, 1), (Reg.MEMC_SCRUB_CFG_HOURS, 0, 24), (Reg.MEMC_CHAN_FITTED, 0, 1), (Reg.MEMC_CHAN_SIZE, 0, 32), (Reg.MEMC_STATUS_CHANNELS, 0, 1)] with ms := {  } }, by decide +kernel⟩

theorem witness_MemoryTrainingScrubAndBuffer_6 : ∃ (s : State) (w : Nat), s.flag Reg.MEMC_STATUS_TRAINED 0 = true ∧ s.flag
    Reg.MEMC_STATUS_SELF_REFRESH 0 = false ∧ s.mode ≠ mEmber ∧ s.mode ≠ mBanked ∧ s.rd Reg.MEMC_SCRUB_CFG_HOURS 0 ≠ 0 ∧
    s.ms.merge = [] ∧ s.ms.ue = [] ∧ s.rd Reg.MEMC_SCRUB_POS_POS 0 + 64 < s.fittedDram :=
  ⟨{ regs [(Reg.MEMC_STATUS_TRAINED, 0, 1), (Reg.MEMC_SCRUB_CFG_HOURS, 0, 24), (Reg.MEMC_CHAN_FITTED, 0, 1), (Reg.MEMC_CHAN_SIZE, 0, 32), (Reg.MEMC_STATUS_CHANNELS, 0, 1)] with ms := {  } }, 2, by decide +kernel⟩

theorem witness_MemoryTrainingScrubAndBuffer_7 : ∃ (s : State), s.flag Reg.MEMC_STATUS_TRAINED 0 = true ∧ s.flag
    Reg.MEMC_STATUS_SELF_REFRESH 0 = false ∧ s.mode ≠ mEmber ∧ s.mode ≠ mBanked ∧ s.rd Reg.MEMC_SCRUB_CFG_HOURS 0 ≠ 0 ∧
    s.ms.merge = [] ∧ s.ms.ue = [] ∧ s.ms.ce = [] ∧ s.fittedDram ≤ s.rd Reg.MEMC_SCRUB_POS_POS 0 + 64 ∧ s.rd
    Reg.MEMC_SCRUB_PASSES_PASSES 0 < 2 ^ Reg.MEMC_SCRUB_PASSES_PASSES.w - 1 :=
  ⟨{ regs [(Reg.MEMC_STATUS_TRAINED, 0, 1), (Reg.MEMC_SCRUB_CFG_HOURS, 0, 24)] with ms := {  } }, by decide +kernel⟩

theorem witness_MemoryTrainingScrubAndBuffer_8 : ∃ (s : State), s.mode = mEmber ∧ s.flag Reg.MEMC_STATUS_TRAINED 0 = true :=
  ⟨inMode (regs [(Reg.MEMC_STATUS_TRAINED, 0, 1)]) mEmber, by decide +kernel⟩

theorem witness_MemoryTrainingScrubAndBuffer_9 : ∃ (s : State) (e : Merge), s.ms.merge = [e] ∧ e.mask = 2 ^ 64 - 1 :=
  ⟨{ regs [] with ms := { merge := [{ line := 5, mask := 2 ^ 64 - 1, at_ := 3 }] } }, { line := 5, mask := 2 ^ 64 - 1, at_ := 3 }, by decide +kernel⟩

theorem witness_MemoryTrainingScrubAndBuffer_10 : ∃ (s : State) (e : Merge), s.ms.merge = [e] ∧ e.mask ≠ 2 ^ 64 - 1 :=
  ⟨{ regs [] with ms := { merge := [{ line := 5, mask := 1, at_ := 3 }] } }, { line := 5, mask := 1, at_ := 3 }, by decide +kernel⟩

theorem witness_MemoryTrainingScrubAndBuffer_11 : ∃ (s : State) (k a v : Nat), Memory.wf s.mem = true ∧ s.ms.merge = [] ∧
    s.fwRuns = true ∧ a < 2 ^ 32 ∧ v < 256 :=
  ⟨inMode {} mBurn, 0, 77, 9, by decide +kernel⟩

theorem witness_MemoryTrainingScrubAndBuffer_12 : ∃ (s : State) (u : Fin 9), s.ms.merge = [] ∧ s.mode ≠ mBanked ∧ s.rd
    Reg.MEMC_SRAM_CE_COUNT u < 2 ^ Reg.MEMC_SRAM_CE_COUNT.w - 1 :=
  ⟨{}, 8, by decide +kernel⟩

theorem witness_MemoryTrainingScrubAndBuffer_13 : ∃ (s : State) (k a b : Nat), s.ms.merge = [] ∧ s.fwRuns = true ∧ s.mode ≠
    mCinder :=
  ⟨inMode {} mBurn, 1, 77, 99, by decide +kernel⟩

theorem witness_CacheMaintenanceActs_1 : ∃ (s : State) (c : Src), c ≠ .host ∧ s.flag Reg.MEMC_CACHE_OP_BUSY 0 = false ∧
    s.cacheRange.2 ≤ 2 ^ 26 :=
  ⟨{ regs [(Reg.MEMC_CACHE_ADDR_ADDR, 0, 5), (Reg.MEMC_CACHE_LEN_LEN, 0, 4)] with ms := { lines := [{ line := 6, way := 0, locked := true, data := [] }, { line := 9, way := 1, locked := false, data := [] }] } }, .firmware, by decide +kernel⟩

theorem witness_CacheMaintenanceActs_2 : ∃ (s : State) (c : Src) (f : Bool), c ≠ .host ∧ s.flag Reg.MEMC_CACHE_OP_BUSY 0 =
    false ∧ s.cacheRange.2 ≤ 2 ^ 26 :=
  ⟨{ regs [(Reg.MEMC_CACHE_ADDR_ADDR, 0, 5), (Reg.MEMC_CACHE_LEN_LEN, 0, 4)] with ms := { merge := [{ line := 5, mask := 1, at_ := 3 }] } }, .firmware, false, by decide +kernel⟩

theorem witness_CacheMaintenanceActs_3 : ∃ (s : State) (c : Src), c ≠ .host ∧ s.flag Reg.MEMC_CACHE_OP_BUSY 0 = false ∧
    s.cacheRange.2 ≤ 2 ^ 26 :=
  ⟨{ regs [(Reg.MEMC_CACHE_ADDR_ADDR, 0, 5), (Reg.MEMC_CACHE_LEN_LEN, 0, 4)] with ms := { merge := [{ line := 5, mask := 1, at_ := 3 }], lines := [{ line := 6, way := 0, locked := true, data := [] }] } }, .firmware, by decide +kernel⟩

theorem witness_CacheMaintenanceActs_4 : ∃ (s : State) (c : Src) (f : Bool) (w : Nat), c ≠ .host ∧ s.flag
    Reg.MEMC_CACHE_OP_BUSY 0 = false ∧ s.cacheRange.2 ≤ 2 ^ 26 ∧ s.cacheRange.2 = s.cacheRange.1 + 1 ∧ ((∀ x ∈ s.ms.lines,
    x.line ≠ s.cacheRange.1)) ∧ s.lockedWay s.cacheRange.1 = some w ∧ s.ms.ue = [] :=
  ⟨{ regs [(Reg.MEMC_CACHE_ADDR_ADDR, 0, 5), (Reg.MEMC_CACHE_LEN_LEN, 0, 1), (Reg.MEMC_CACHE_LOCK_LOCK, 0, 4)] with ms := {  } }, .firmware, false, 2, by decide +kernel⟩

theorem witness_CacheMaintenanceActs_6 : ∃ (s : State) (dt : Nat), s.flag Reg.MEMC_CACHE_OP_BUSY 0 = true :=
  ⟨{ regs [(Reg.MEMC_CACHE_OP_BUSY, 0, 1)] with ms := {  } }, 40, by decide +kernel⟩

theorem witness_CacheMaintenanceActs_7 : ∃ (s : State) (c : Src) (m : BitVec 16), c ≠ .host ∧ countBits 16 m.toNat ≤ 12 ∧ ((∀
    w : Fin 16, bitOf m.toNat w = true → bitOf (s.rd Reg.MEMC_CACHE_PWR_PWR_STATE 0) (w / 4) = true)) :=
  ⟨{ regs [(Reg.MEMC_CACHE_PWR_PWR_STATE, 0, 15)] with ms := { lines := [{ line := 6, way := 5, locked := true, data := [] }] } }, .firmware, 0xFF0, by decide +kernel⟩

theorem witness_CacheMaintenanceActs_8 : ∃ (s : State) (c : Src) (m : BitVec 16), c ≠ .host ∧ 12 < countBits 16 m.toNat :=
  ⟨{}, .firmware, 0x1FFF, by decide +kernel⟩

theorem witness_CacheMaintenanceActs_9 : ∃ (s : State) (c : Src) (m : BitVec 4), c ≠ .host ∧ ((∀ w : Fin 16, bitOf (s.rd
    Reg.MEMC_CACHE_LOCK_LOCK 0) w = true → bitOf (m.toNat ||| 1) (w / 4) = true)) :=
  ⟨{}, .firmware, 4, by decide +kernel⟩

theorem witness_CacheMaintenanceActs_10 : ∃ (s : State) (c : Src) (m : BitVec 4) (w : Fin 16), c ≠ .host ∧ bitOf (s.rd
    Reg.MEMC_CACHE_LOCK_LOCK 0) w = true ∧ bitOf (m.toNat ||| 1) (w / 4) = false :=
  ⟨{ regs [(Reg.MEMC_CACHE_LOCK_LOCK, 0, 0x80)] with ms := {  } }, .firmware, 1, 7, by decide +kernel⟩

theorem witness_HostEndpointActs_1 : ∃ (s : State) (r w : Nat) (c : Bool), s.flag Reg.HEP_STATUS_LINK_UP 0 = false ∧ 1 ≤ r ∧ r
    ≤ 5 ∧ (w = 4 ∨ w = 8 ∨ w = 16) ∧ s.mode ≠ mBanked ∧ s.pw.porst = false ∧ ((c = true → 3 ≤ r)) :=
  ⟨{}, 5, 16, true, by decide +kernel⟩

theorem witness_HostEndpointActs_2 : ∃ (s : State) (r : CfgReq), s.flag Reg.HEP_STATUS_LINK_UP 0 = true ∧ s.flag
    Reg.GCTL_STATUS_FW_READY 0 = false ∧ s.mode ≠ mCinder :=
  ⟨regs [(Reg.HEP_STATUS_LINK_UP, 0, 1)], .read 0, by decide +kernel⟩

theorem witness_HostEndpointActs_3 : ∃ (s : State), s.flag Reg.HEP_STATUS_LINK_UP 0 = true ∧ s.flag Reg.GCTL_STATUS_FW_READY 0
    = true :=
  ⟨regs [(Reg.HEP_STATUS_LINK_UP, 0, 1), (Reg.GCTL_STATUS_FW_READY, 0, 1)], by decide +kernel⟩

theorem witness_HostEndpointActs_4 : ∃ (s : State) (en mask : Bool), s.flag Reg.HEP_STATUS_LINK_UP 0 = true ∧ s.flag
    Reg.GCTL_STATUS_FW_READY 0 = true :=
  ⟨regs [(Reg.HEP_STATUS_LINK_UP, 0, 1), (Reg.GCTL_STATUS_FW_READY, 0, 1)], true, false, by decide +kernel⟩

theorem witness_HostEndpointActs_7 : ∃ (s : State) (ways size : Nat), ways ≠ 1 ∨ size ≠ s.rangeSize :=
  ⟨{}, 2, 0, by decide +kernel⟩

theorem witness_HostEndpointActs_8 : ∃ (s : State), s.flag Reg.HEP_WIN_COMMIT_PENDING 0 = false ∧ ((∀ w ∈ upTo 64, s.winOk w =
    true)) :=
  ⟨{}, by decide +kernel⟩

theorem witness_HostEndpointActs_9 : ∃ (s : State) (w : Nat), s.flag Reg.HEP_WIN_COMMIT_PENDING 0 = false ∧ ((upTo 64).find?
    fun w => !s.winOk w) = some w :=
  ⟨regs [(Reg.HEP_WIN_CFG_EN, 63, 1)], 63, by decide +kernel⟩

theorem witness_HostEndpointActs_10 : ∃ (s : State), s.flag Reg.HEP_WIN_COMMIT_PENDING 0 = true ∧ s.hep.taken = (upTo 64).map
    (fun w => (w, s.winTgt w, s.winCfg w)) :=
  ⟨{ regs [(Reg.HEP_WIN_COMMIT_PENDING, 0, 1), (Reg.HEP_WIN_TGT_TGT, 3, 1)] with hep := { taken := (upTo 64).map fun w => (w, (regs [(Reg.HEP_WIN_TGT_TGT, 3, 1)]).winTgt w, (regs []).winCfg w) } }, by decide +kernel⟩

theorem witness_HostEndpointActs_12 : ∃ (s : State) (p : Option (BitVec 20)) (a : BitVec 64) (x : Grant), s.hep.asked.contains
    (p.map BitVec.toNat, a.toNat) = true ∧ x.rd = true ∧ x.wr = true ∧ s.cmds = [] ∧ s.hep.atc = [] :=
  ⟨{ hep := { asked := [(none, 8192)] } }, none, 8192, { size := 4096, trans := 5, rd := true, wr := true }, by decide +kernel⟩

theorem witness_HostAndPeerMemoryAccess_1 : ∃ (s : State) (l : BitVec 33), s.flag Reg.HEP_STATUS_HDM_OPEN 0 = true ∧ l.toNat *
    64 + 64 ≤ s.rangeSize ∧ s.ueAt (hdmBase + l.toNat * 64) 64 = none :=
  ⟨regs [(Reg.HEP_STATUS_HDM_OPEN, 0, 1), (Reg.HEP_STATUS_LINK_UP, 0, 1), (Reg.MEMC_CHAN_FITTED, 0, 1), (Reg.MEMC_CHAN_SIZE, 0, 64)], 5, by decide +kernel⟩

theorem witness_HostAndPeerMemoryAccess_2 : ∃ (s : State) (l : BitVec 33) (d : BitVec 512) (m : BitVec 64) (p : Bool),
    Memory.wf s.mem = true ∧ s.flag Reg.HEP_STATUS_HDM_OPEN 0 = true ∧ l.toNat * 64 + 64 ≤ s.rangeSize :=
  ⟨regs [(Reg.HEP_STATUS_HDM_OPEN, 0, 1), (Reg.HEP_STATUS_LINK_UP, 0, 1), (Reg.MEMC_CHAN_FITTED, 0, 1), (Reg.MEMC_CHAN_SIZE, 0, 64)], 5, 77, 1, false, by decide +kernel⟩

theorem witness_HostAndPeerMemoryAccess_3 : ∃ (s : State) (o : BitVec 36) (n : Fin 4096) (id : BitVec 16) (a : Nat), s.flag
    Reg.HEP_STATUS_LINK_UP 0 = true ∧ s.flag Reg.HEP_STATUS_HDM_OPEN 0 = true ∧ s.peerMap o.toNat (n.val + 1) id.toNat false =
    some a ∧ s.ueAt (hdmBase + a) (n.val + 1) = none :=
  ⟨State.wr (State.wr (regs [(Reg.HEP_STATUS_HDM_OPEN, 0, 1), (Reg.HEP_STATUS_LINK_UP, 0, 1), (Reg.MEMC_CHAN_FITTED, 0, 1), (Reg.MEMC_CHAN_SIZE, 0, 64)]) Reg.HEP_WIN_ACT_CFG_ACTIVE 0 0xE0010000) Reg.HEP_WIN_ACT_TGT_ACTIVE 0 0x200000, 8, 3, 7, 0x200008, by decide +kernel⟩

theorem witness_HostAndPeerMemoryAccess_4 : ∃ (s : State) (o : BitVec 36) (n : Fin 4096) (id : BitVec 16) (a : Nat) (bs : List
    Nat), Memory.wf s.mem = true ∧ s.flag Reg.HEP_STATUS_LINK_UP 0 = true ∧ s.flag Reg.HEP_STATUS_HDM_OPEN 0 = true ∧
    s.peerMap o.toNat (n.val + 1) id.toNat true = some a ∧ bs.length = n.val + 1 :=
  ⟨State.wr (State.wr (regs [(Reg.HEP_STATUS_HDM_OPEN, 0, 1), (Reg.HEP_STATUS_LINK_UP, 0, 1), (Reg.MEMC_CHAN_FITTED, 0, 1), (Reg.MEMC_CHAN_SIZE, 0, 64)]) Reg.HEP_WIN_ACT_CFG_ACTIVE 0 0xE0010000) Reg.HEP_WIN_ACT_TGT_ACTIVE 0 0x200000, 8, 3, 7, 0x200008, [1, 2, 3, 4], by decide +kernel⟩

theorem witness_HostAndPeerMemoryAccess_5 : ∃ (s : State) (o : BitVec 36) (n : Fin 4096) (id : BitVec 16), s.flag
    Reg.HEP_STATUS_LINK_UP 0 = true ∧ s.flag Reg.HEP_STATUS_HDM_OPEN 0 = true ∧ s.peerMap o.toNat (n.val + 1) id.toNat false =
    none :=
  ⟨regs [(Reg.HEP_STATUS_HDM_OPEN, 0, 1), (Reg.HEP_STATUS_LINK_UP, 0, 1), (Reg.MEMC_CHAN_FITTED, 0, 1), (Reg.MEMC_CHAN_SIZE, 0, 64)], 8, 3, 7, by decide +kernel⟩

theorem witness_HostAndPeerMemoryAccess_6 : ∃ (s : State) (o : BitVec 36) (n : Fin 4096) (id : BitVec 16) (bs : List Nat),
    s.flag Reg.HEP_STATUS_LINK_UP 0 = true ∧ s.flag Reg.HEP_STATUS_HDM_OPEN 0 = true ∧ s.peerMap o.toNat (n.val + 1) id.toNat
    true = none ∧ s.rd Reg.HEP_WIN_DROP_COUNT 0 < 2 ^ Reg.HEP_WIN_DROP_COUNT.w - 1 :=
  ⟨regs [(Reg.HEP_STATUS_HDM_OPEN, 0, 1), (Reg.HEP_STATUS_LINK_UP, 0, 1), (Reg.MEMC_CHAN_FITTED, 0, 1), (Reg.MEMC_CHAN_SIZE, 0, 64)], 8, 3, 7, [1], by decide +kernel⟩

theorem witness_ManagementPortAnswers_1 : ∃ (s : State), s.smbAwake = false :=
  ⟨{}, by decide +kernel⟩

theorem witness_ManagementPortAnswers_2 : ∃ (s : State), s.smbAwake = true :=
  ⟨{ now := 300000000 }, by decide +kernel⟩

theorem witness_ManagementPortAnswers_3 : ∃ (s : State), s.smbAwake = true ∧ s.flag Reg.GCTL_STATUS_FW_READY 0 = true :=
  ⟨{ regs [(Reg.GCTL_STATUS_FW_READY, 0, 1)] with now := 300000000 }, by decide +kernel⟩

theorem witness_ManagementPortAnswers_4 : ∃ (s : State) (o : BitVec 32) (p : Option (BitVec 8)), s.smbAwake = true ∧ s.pecOk
    0x02 (4 :: bytesLE 4 o.toNat) p = true ∧ s.smbServes = true :=
  ⟨{ regs [(Reg.GCTL_STATUS_FW_READY, 0, 1)] with now := 300000000 }, 0x1234, none, by decide +kernel⟩

theorem witness_ManagementPortAnswers_5 : ∃ (s : State), s.smbAwake = true ∧ s.smbServes = true ∧ smbReadable s.hep.smbOffset
    = true :=
  ⟨{ regs [(Reg.GCTL_STATUS_FW_READY, 0, 1)] with now := 300000000 }, by decide +kernel⟩

theorem witness_ManagementPortAnswers_6 : ∃ (s : State), s.smbAwake = true ∧ s.smbServes = true ∧ smbReadable s.hep.smbOffset
    = false :=
  ⟨{ regs [(Reg.GCTL_STATUS_FW_READY, 0, 1)] with now := 300000000, hep := { smbOffset := 0x50000 } }, by decide +kernel⟩

theorem witness_ManagementPortAnswers_7 : ∃ (s : State) (v : BitVec 8) (p : Option (BitVec 8)) (i : Bool), s.smbAwake = true ∧
    s.pecOk 0x08 [v.toNat] p = true ∧ s.flag Reg.GCTL_STATUS_FW_READY 0 = true ∧ v ≠ 1 :=
  ⟨{ regs [(Reg.GCTL_STATUS_FW_READY, 0, 1)] with now := 300000000 }, 2, none, true, by decide +kernel⟩

theorem witness_ManagementPortAnswers_8 : ∃ (s : State) (p : Option (BitVec 8)) (i : Bool), s.smbAwake = true ∧ s.pecOk 0x08
    [1] p = true ∧ s.flag Reg.GCTL_STATUS_FW_READY 0 = true ∧ s.mode ≠ mBanked :=
  ⟨{ regs [(Reg.GCTL_STATUS_FW_READY, 0, 1)] with now := 300000000 }, none, true, by decide +kernel⟩

theorem witness_FlashSequencesAct_1 : ∃ (s : State) (w : BitVec 25) (v : BitVec 64) (m : BitVec 8), s.fwRuns = true ∧
    s.fwSector (w.toNat / sectorWords) = true ∧ s.flash.erase = none ∧ s.flash.prog = none ∧ (s.fword w.toNat).outcome
    (maskBytes (s.fword w.toNat).data v.toNat m.toNat) = 0 :=
  ⟨{}, 0x120000, 7, 255, by decide +kernel⟩

theorem witness_FlashSequencesAct_2 : ∃ (s : State) (w : BitVec 25) (v : BitVec 64) (m : BitVec 8), s.fwRuns = true ∧
    s.fwSector (w.toNat / sectorWords) = true ∧ s.flash.erase = none ∧ s.flash.prog = none ∧ (s.fword w.toNat).outcome
    (maskBytes (s.fword w.toNat).data v.toNat m.toNat) ≠ 0 :=
  ⟨{ flash := { words := [(0x120000, { data := 0 })] } }, 0x120000, 7, 255, by decide +kernel⟩

theorem witness_FlashSequencesAct_3 : ∃ (s : State) (w : BitVec 25) (v : BitVec 64) (m : BitVec 8), s.fwRuns = true ∧
    s.fwSector (w.toNat / sectorWords) = false :=
  ⟨{}, 8192, 7, 255, by decide +kernel⟩

theorem witness_FlashSequencesAct_4 : ∃ (s : State) (dt : Nat) (p : Prog), s.flash.prog = some p ∧ (s.fword p.word).outcome
    p.value = 0 :=
  ⟨{ flash := { prog := some { word := 0x120000, value := 7 } } }, 50, { word := 0x120000, value := 7 }, by decide +kernel⟩

theorem witness_FlashSequencesAct_5 : ∃ (s : State) (x : BitVec 12), s.fwRuns = true ∧ s.fwSector x.toNat = true ∧
    s.flash.prog = none ∧ s.flash.erase = none ∧ x ≠ 0 ∧ s.logNext s.activeLog + 1 ≠ secWord (2 + s.activeLog) :=
  ⟨{}, 140, by decide +kernel⟩

theorem witness_FlashSequencesAct_6 : ∃ (s : State) (e : Erase), s.fwRuns = true ∧ s.flash.prog = none ∧ s.flash.erase = some
    e :=
  ⟨{ flash := { erase := some { sector := 20, kind := 0, seq := 1, entry := 8192, from_ := 0 } } }, { sector := 20, kind := 0, seq := 1, entry := 8192, from_ := 0 }, by decide +kernel⟩

theorem witness_FlashSequencesAct_7 : ∃ (s : State) (e : Erase), s.fwRuns = true ∧ s.flash.prog = none ∧ s.flash.erase = some
    e :=
  ⟨{ flash := { erase := some { sector := 20, kind := 0, seq := 1, entry := 8192, from_ := 0, suspended := true } } }, { sector := 20, kind := 0, seq := 1, entry := 8192, from_ := 0, suspended := true }, by decide +kernel⟩

theorem witness_FlashSequencesAct_8 : ∃ (s : State), s.fwRuns = true ∧ s.flag Reg.FLC_STATUS_BUSY 0 = false :=
  ⟨{}, by decide +kernel⟩

theorem witness_FlashSequencesAct_9 : ∃ (s : State), s.fwRuns = true ∧ s.flag Reg.FLC_STATUS_BUSY 0 = true :=
  ⟨regs [(Reg.FLC_STATUS_BUSY, 0, 1)], by decide +kernel⟩

theorem witness_FlashSequencesAct_10 : ∃ (s : State), s.fwRuns = true :=
  ⟨{}, by decide +kernel⟩

theorem witness_FlashSequencesAct_11 : ∃ (s : State) (dt n : Nat) (e : Erase), s.flash.erase = some e ∧ e.suspended = false ∧
    n ≤ 360 ∧ e.entry / sectorWords ≠ e.sector ∧ e.kind ≠ 2 :=
  ⟨{ flash := { erase := some { sector := 20, kind := 0, seq := 1, entry := 8192, from_ := 0 }, words := [(20 * 8192, { data := 0 })] } }, 50, 9, { sector := 20, kind := 0, seq := 1, entry := 8192, from_ := 0 }, by decide +kernel⟩

theorem witness_FlashSequencesAct_12 : ∃ (s : State) (dt n tw : Nat) (e : Erase), s.flash.erase = some e ∧ e.suspended = false
    ∧ n ≤ 360 ∧ e.kind = 2 ∧ (({ s with flash := { s.flash with erase := none } } : State).clearSector e.sector |>.entryDone
    e.entry).auxTwin = some tw :=
  ⟨{ State.programNow {} 8192 (logWord 0 2 1 0) with flash := { (State.programNow {} 8192 (logWord 0 2 1 0)).flash with erase := some { sector := 0, kind := 2, seq := 1, entry := 8192, from_ := 0 } } }, 50, 9, 0, { sector := 0, kind := 2, seq := 1, entry := 8192, from_ := 0 }, by decide +kernel⟩

theorem witness_FlashSequencesAct_13 : ∃ (s : State) (e : Erase), s.flash.erase = some e ∧ e.warned = false :=
  ⟨{ flash := { erase := some { sector := 20, kind := 0, seq := 1, entry := 8192, from_ := 0 } } }, { sector := 20, kind := 0, seq := 1, entry := 8192, from_ := 0 }, by decide +kernel⟩

theorem witness_BootReplayAndSearch_1 : ∃ (s : State) (a b : Option ImgObs) (r : Swap) (x : ImgObs), s.firm.booting = true ∧
    s.pw.pfAt = none ∧ s.pw.porst = false ∧ ((s.mode = mKindling ∨ s.mode = mKiln)) ∧ s.undone = [] ∧ s.swapInForce = some r ∧
    r.twin < 2 ∧ r.kind ≠ 0 ∧ s.imgCheck r.twin (if r.twin = 0 then a else b) = some x :=
  ⟨State.appendSwap {} 1 1 5, none, some { version := 7, handoff := 3 }, { j := 0, twin := 1, kind := 1, seq := 1, attemptN := true, confirmN := false, damaged := false }, { version := 7, handoff := 3 }, by decide +kernel⟩

theorem witness_BootReplayAndSearch_2 : ∃ (s : State) (a b : Option ImgObs) (r : Swap) (x : ImgObs), s.firm.booting = true ∧
    s.pw.pfAt = none ∧ s.pw.porst = false ∧ ((s.mode = mKindling ∨ s.mode = mKiln)) ∧ s.undone = [] ∧ s.swapInForce = some r ∧
    r.twin < 2 ∧ r.kind = 0 ∧ r.confirmN = true ∧ r.attemptN = true ∧ r.damaged = false ∧ s.fErased (secWord (twinSector
    r.twin)) = true ∧ (if r.twin = 0 then a else b) = some x ∧ 2 * r.j + 1 < sectorWords :=
  ⟨State.appendSwap {} 1 0 5, none, some { version := 7, handoff := 3 }, { j := 0, twin := 1, kind := 0, seq := 1, attemptN := true, confirmN := true, damaged := false }, { version := 7, handoff := 3 }, by decide +kernel⟩

theorem witness_BootReplayAndSearch_3 : ∃ (s : State), s.firm.booting = true ∧ s.pw.pfAt = none ∧ s.pw.porst = false ∧
    ((s.mode = mKindling ∨ s.mode = mKiln)) :=
  ⟨{}, by decide +kernel⟩

theorem witness_BootReplayAndSearch_4 : ∃ (s : State), s.fwRuns = true ∧ s.firm.booting = false ∧ s.flash.replayed = false ∧
    s.flash.erase = none :=
  ⟨{ firm := { booting := false } }, by decide +kernel⟩

theorem witness_BootReplayAndSearch_5 : ∃ (s : State), s.fwRuns = true ∧ s.firm.booting = false ∧ s.flash.replayed = false ∧
    s.flash.erase = none ∧ ((∀ p ∈ s.flash.words, p.1 < secWord 356)) :=
  ⟨{ firm := { booting := false } }, by decide +kernel⟩

theorem witness_BootReplayAndSearch_6 : ∃ (s : State) (q k : Nat) (r : List (Nat × Nat)), s.fwRuns = true ∧ 256 <
    (((s.flash.words.filter fun p => decide (secWord 356 ≤ p.1) && decide (p.1 < secWord 612)).map fun p => p.1 /
    sectorWords).eraseDups).length + 8 ∧ s.ringSectors 356 612 = (q, k) :: r ∧ s.flash.prog = none ∧ s.flash.erase = none ∧
    dropInner 0 (s.recordsIn k) = [] :=
  ⟨{ flash := { words := ((upTo 249).map fun i => (secWord (363 + i), { data := 0x5AC7 + (i + 1) * 2 ^ 24, a := 0x5AC7 + (i + 1) * 2 ^ 24, pa := true })) } }, 1, 363, (upTo 248).map fun i => (i + 2, 364 + i), by decide +kernel⟩

theorem witness_BootReplayAndSearch_7 : ∃ (s : State) (d : Nat) (a : Fin 2) (l : Fin 16) (z : Fin 64) (f : List SlotRead),
    (s.zone (zoneKey d a l z)).resolve = true ∧ (s.zone (zoneKey d a l z)).state = .open_ :=
  ⟨{ zones := [(zoneKey 5 0 1 2, { state := .open_, resolve := true })] }, 5, 0, 1, 2, [], by decide +kernel⟩

theorem witness_FirmwareUpdateActs_1 : ∃ (s : State) (q : BitVec 20) (tag : BitVec 12) (c : Cmd) (ws : List Nat), s.runnable
    q.toNat tag.toNat opFwDownload = some c ∧ c.local = true ∧ s.downloadAhead c = false ∧ c.get 16 4 = 0 ∧ 0 < c.get 20 4 ∧
    c.get 20 4 ≤ 4194304 ∧ s.activeTwin < 2 ∧ s.flag Reg.GCTL_BOOT_TRIAL 0 = false ∧ s.flash.prog = none ∧ s.flash.erase =
    none ∧ s.flash.pfDue = false ∧ ws.length = c.get 20 4 / 8 ∧ ((∀ w ∈ ws, w < 2 ^ 64)) :=
  ⟨withCmd [(0, opFwDownload), (20, 4096)], 0, 0, cmdOf [(0, opFwDownload), (20, 4096)], List.replicate 512 77, by decide +kernel⟩

theorem witness_FirmwareUpdateActs_2 : ∃ (s : State) (q : BitVec 20) (tag : BitVec 12) (c : Cmd) (x y : Bool), s.runnable
    q.toNat tag.toNat opFwActivate = some c ∧ c.local = true ∧ s.flag Reg.GCTL_BOOT_TRIAL 0 = false ∧ ((∀ x ∈ s.cmds, x.op ≠
    opFwDownload)) ∧ s.flash.prog = none ∧ s.flash.erase = none ∧ s.flash.pfDue = false ∧ s.firm.session = none :=
  ⟨withCmd [(0, opFwActivate)], 0, 0, cmdOf [(0, opFwActivate)], true, true, by decide +kernel⟩

theorem witness_FirmwareUpdateActs_3 : ∃ (s : State) (q : BitVec 20) (tag : BitVec 12) (c : Cmd), s.runnable q.toNat tag.toNat
    opFwActivate = some c ∧ c.local = true ∧ s.flag Reg.GCTL_BOOT_TRIAL 0 = false ∧ ((∀ x ∈ s.cmds, x.op ≠ opFwDownload)) ∧
    s.flash.prog = none ∧ s.flash.erase = none ∧ s.flash.pfDue = false ∧ s.rejectImage true true = none ∧ s.hdrHandoff
    s.spareTwin = s.firm.handoff :=
  ⟨{ (State.programList (State.set1 (withCmd [(0, opFwActivate)]) Reg.GCTL_STATUS_FW_READY 0) (secWord (twinSector 1)) [0x0200000158464B56, 0x8128 * 2 ^ 32 + 9, 8192 + 0 * 2 ^ 32]) with firm := { session := some [0, 1], booting := false } }, 0, 0, cmdOf [(0, opFwActivate)], by decide +kernel⟩

theorem witness_FirmwareUpdateActs_4 : ∃ (s : State) (q : BitVec 20) (tag : BitVec 12) (c : Cmd), s.runnable q.toNat tag.toNat
    opFwActivate = some c ∧ c.local = true ∧ s.flag Reg.GCTL_BOOT_TRIAL 0 = false ∧ ((∀ x ∈ s.cmds, x.op ≠ opFwDownload)) ∧
    s.flash.prog = none ∧ s.flash.erase = none ∧ s.flash.pfDue = false ∧ s.rejectImage true true = none ∧ s.hdrHandoff
    s.spareTwin ≠ s.firm.handoff :=
  ⟨{ (State.programList (State.set1 (withCmd [(0, opFwActivate)]) Reg.GCTL_STATUS_FW_READY 0) (secWord (twinSector 1)) [0x0200000158464B56, 0x8128 * 2 ^ 32 + 9, 8192 + 5 * 2 ^ 32]) with firm := { session := some [0, 1], booting := false } }, 0, 0, cmdOf [(0, opFwActivate)], by decide +kernel⟩

theorem witness_FirmwareUpdateActs_5 : ∃ (s : State) (t0 q tag : Nat) (c : Cmd), s.firm.kilnAt = some t0 ∧ s.firm.activate =
    some (q, tag) ∧ s.mode = mKiln ∧ s.firm.booting = false ∧ s.flag Reg.GCTL_BOOT_TRIAL 0 = true ∧ s.pw.dampAfterKiln = false
    ∧ s.cmd? q tag = some c ∧ c.local = true ∧ c.phase = .started ∧ s.pw.kilnFrom < 8 ∧ s.firm.version < 2 ^ 32 :=
  ⟨{ State.set1 (inMode {} mKiln) Reg.GCTL_BOOT_TRIAL 0 with cmds := [{ cmdOf [(0, opFwActivate)] with phase := .started }], firm := { kilnAt := some 0, activate := some (0, 0), booting := false, version := 0x01020304 } }, 0, 0, 0, { cmdOf [(0, opFwActivate)] with phase := .started }, by decide +kernel⟩

theorem witness_FirmwareUpdateActs_6 : ∃ (s : State) (x : Nat), s.firm.kilnAt = some x ∧ s.mode = mKiln ∧ s.pw.resetPend =
    none :=
  ⟨{ inMode {} mKiln with firm := { kilnAt := some 0 } }, 0, by decide +kernel⟩

theorem witness_FirmwareUpdateActs_7 : ∃ (s : State) (x : Nat), s.firm.resetAt = some x ∧ s.pw.resetPend = none :=
  ⟨{ firm := { resetAt := some 9 } }, 9, by decide +kernel⟩

theorem witness_FirmwareUpdateActs_8 : ∃ (s : State) (x : Nat) (r : Swap), s.noteHealth.firm.healthFrom = some x ∧
    s.swapInForce = some r ∧ s.flag Reg.GCTL_BOOT_TRIAL 0 = true ∧ s.flash.prog = none ∧ (s.fword (2 * r.j + 1)).pb = false :=
  ⟨{ State.set1 (State.set1 (inMode (State.appendSwap {} 1 0 5) mBurn) Reg.GCTL_BOOT_TRIAL 0) Reg.GCTL_STATUS_FW_READY 0 with firm := { logged := true, healthFrom := some 4 }, flash := { (State.appendSwap {} 1 0 5).flash with replayed := true } }, 4, { j := 0, twin := 1, kind := 0, seq := 1, attemptN := true, confirmN := true, damaged := false }, by decide +kernel⟩

theorem witness_FirmwareUpdateActs_9 : ∃ (s : State) (x : Nat), s.firm.trialAt = some x ∧ s.flag Reg.GCTL_BOOT_TRIAL 0 = true
    ∧ s.pw.resetPend = none :=
  ⟨{ regs [(Reg.GCTL_BOOT_TRIAL, 0, 1)] with firm := { trialAt := some 0 } }, 0, by decide +kernel⟩

theorem witness_PowerFailureAndResets_1 : ∃ (s : State), s.pw.porst = false ∧ s.pw.pfAt = none ∧ s.mode ≠ mBanked :=
  ⟨{}, by decide +kernel⟩

theorem witness_PowerFailureAndResets_2 : ∃ (s : State), s.pw.porst = false ∧ s.pw.pfAt = none ∧ s.mode = mBanked :=
  ⟨inMode {} mBanked, by decide +kernel⟩

theorem witness_PowerFailureAndResets_3 : ∃ (s : State) (dt : Nat), s.flash.pfDue = true :=
  ⟨{ flash := { pfDue := true } }, 9, by decide +kernel⟩

theorem witness_PowerFailureAndResets_4 : ∃ (s : State) (x : Nat), s.pw.pfAt = some x :=
  ⟨{ pw := { pfAt := some 4 } }, 4, by decide +kernel⟩

theorem witness_PowerFailureAndResets_5 : ∃ (s : State) (x : Nat), s.pw.pfClear = some x ∧ s.pw.resetPend = none :=
  ⟨{ pw := { pfClear := some 4 } }, 4, by decide +kernel⟩

theorem witness_PowerFailureAndResets_6 : ∃ (s : State), s.pw.porst = false ∧ s.pw.resetPend = none :=
  ⟨{}, by decide +kernel⟩

theorem witness_PowerFailureAndResets_7 : ∃ (s : State), s.pw.porst = false ∧ s.pw.resetPend = none :=
  ⟨{}, by decide +kernel⟩

theorem witness_PowerFailureAndResets_8 : ∃ (s : State) (k : BitVec 16), k ≠ 0xC1D3 :=
  ⟨{}, 5, by decide +kernel⟩

theorem witness_PowerFailureAndResets_9 : ∃ (s : State) (k : BitVec 16), k ≠ 0xC1D3 :=
  ⟨{}, 5, by decide +kernel⟩

theorem witness_PowerFailureAndResets_10 : ∃ (s : State) (code due : Nat), s.pw.resetPend = some (code, due) ∧ s.flash.pfDue =
    false ∧ s.flash.prog = none ∧ code < 2 ^ Reg.PWR_STATUS_LAST_RESET.w :=
  ⟨{ withCmd [] with pw := { resetPend := some (2, 77) } }, 2, 77, by decide +kernel⟩

theorem witness_PowerFailureAndResets_11 : ∃ (s : State) (code due : Nat), s.pw.resetPend = some (code, due) ∧ s.flash.pfDue =
    true :=
  ⟨{ flash := { pfDue := true }, pw := { resetPend := some (2, 77) } }, 2, 77, by decide +kernel⟩

theorem witness_PowerFailureAndResets_13 : ∃ (s : State) (a : BitVec 2) (m c : Bool), s.pw.porst = true :=
  ⟨{ pw := { porst := true } }, 2, true, true, by decide +kernel⟩

theorem witness_ModesTemperatureAndCap_1 : ∃ (s : State) (x : Trans) (a b : Bool), s.pw.trans = some x ∧ s.mode ≠ mEmber ∧
    ((x.to_ = mBurn ∨ x.to_ = mDamped)) :=
  ⟨{ pw := { trans := some { from_ := 2, to_ := mBurn, cause := 3, by_ := none } } }, { from_ := 2, to_ := mBurn, cause := 3, by_ := none }, true, true, by decide +kernel⟩

theorem witness_ModesTemperatureAndCap_2 : ∃ (s : State) (x : Trans) (g : Nat) (a b : Bool), s.pw.trans = some x ∧ s.mode =
    mEmber ∧ x.to_ = mBanked ∧ s.workWaits = false ∧ s.pw.linkGraceFrom = some g :=
  ⟨{ inMode {} mEmber with pw := { trans := some { from_ := 2, to_ := mBanked, cause := 3, by_ := none }, linkGraceFrom := some 3 } }, { from_ := 2, to_ := mBanked, cause := 3, by_ := none }, 3, true, true, by decide +kernel⟩

theorem witness_ModesTemperatureAndCap_3 : ∃ (s : State) (x : Trans) (a b : Bool), s.pw.trans = some x ∧ s.mode = mBanked ∧
    x.to_ = mEmber :=
  ⟨{ inMode {} mBanked with pw := { trans := some { from_ := 2, to_ := mEmber, cause := 3, by_ := none }, coresRun := false } }, { from_ := 2, to_ := mEmber, cause := 3, by_ := none }, true, true, by decide +kernel⟩

theorem witness_ModesTemperatureAndCap_4 : ∃ (s : State) (x : Trans) (a b : Bool), s.pw.trans = some x ∧ x.to_ = mVerify ∧
    s.stationsRest = true ∧ ((∀ h : Fin 256, s.headUp h = false)) ∧ ((∀ n : Fin 128, s.rd Reg.STN_SP_TARGET_RPM n = 0)) ∧
    s.tallyOn = false :=
  ⟨{ inMode {} mBurn with pw := { trans := some { from_ := 2, to_ := mVerify, cause := 3, by_ := none } }, sealed := false }, { from_ := 2, to_ := mVerify, cause := 3, by_ := none }, true, true, by decide +kernel⟩

theorem witness_ModesTemperatureAndCap_5 : ∃ (s : State) (w : BitVec 4) (i : Nat), s.mode = mBanked ∧ s.pw.trans = none ∧
    s.pw.resetPend = none ∧ s.wakeSource w.toNat = some i ∧ i < 3 :=
  ⟨inMode (regs [(Reg.PWR_CFG_WAKE_N_EN, 0, 1)]) mBanked, 1, 0, by decide +kernel⟩

theorem witness_ModesTemperatureAndCap_6 : ∃ (s : State) (w : BitVec 4) (i : Nat), s.mode = mBanked ∧ s.pw.trans = none ∧
    s.pw.resetPend = none ∧ s.wakeSource w.toNat = some i ∧ i < 3 :=
  ⟨inMode (regs [(Reg.PWR_CFG_WAKE_N_EN, 0, 1)]) mBanked, 1, 0, by decide +kernel⟩

theorem witness_ModesTemperatureAndCap_7 : ∃ (s : State) (n : Fin 4097) (m : Fin 129), s.mode = mKindling ∧ s.firm.booting =
    false ∧ s.flash.replayed = true ∧ s.ms.trainedAt.isSome = true ∧ s.pw.pfAt = none ∧ s.pw.porst = false ∧ s.flag
    Reg.GCTL_STATUS_FW_READY 0 = false ∧ ((upTo 128).all fun n => (s.stn n).batchDone) = true ∧ s.firm.version < 2 ^ 32 :=
  ⟨{ regs [(Reg.BPM_STATUS_ACTIVE, 0, 1)] with firm := { booting := false, version := 7 }, flash := { replayed := true }, ms := { trainedAt := some 9 }, stns := (upTo 128).map fun n => (n, { batchDone := true }) }, 4096, 128, by decide +kernel⟩

theorem witness_ModesTemperatureAndCap_8 : ∃ (s : State) (n : Fin 4097) (m : Fin 129), s.mode = mKindling ∧ s.firm.booting =
    false ∧ s.flash.replayed = true ∧ s.ms.trainedAt.isSome = true ∧ s.pw.pfAt = none ∧ s.pw.porst = false ∧ s.flag
    Reg.GCTL_STATUS_FW_READY 0 = false ∧ ((upTo 128).all fun n => (s.stn n).batchDone) = true :=
  ⟨{ regs [(Reg.BPM_STATUS_ACTIVE, 0, 1)] with firm := { booting := false, version := 7 }, flash := { replayed := true }, ms := { trainedAt := some 9 }, stns := (upTo 128).map fun n => (n, { batchDone := true }) }, 4096, 128, by decide +kernel⟩

theorem witness_ModesTemperatureAndCap_10 : ∃ (s : State), s.flag Reg.GCTL_STATUS_FW_READY 0 = true ∧ wdogHeld s.mode = false
    ∧ s.mode ≠ mCinder :=
  ⟨inMode (regs [(Reg.GCTL_STATUS_FW_READY, 0, 1)]) mBurn, by decide +kernel⟩

theorem witness_ModesTemperatureAndCap_11 : ∃ (s : State) (dt : Nat), s.pw.pfAt = none ∧ s.pw.porst = false ∧ s.mode ≠ mCinder
    ∧ s.mode ≠ mBanked :=
  ⟨{}, 5, by decide +kernel⟩

theorem witness_ModesTemperatureAndCap_12 : ∃ (s : State) (dt : Nat) (a : BitVec 16) (l : List (BitVec 16)), l.length = 15 ∧
    s.mode ≠ mBanked ∧ s.pw.porst = false :=
  ⟨{}, 5, 100, List.replicate 15 7, by decide +kernel⟩

theorem witness_ModesTemperatureAndCap_13 : ∃ (s : State) (dt : Nat) (a : BitVec 16) (l : List (BitVec 16)), l.length = 15 ∧
    s.mode ≠ mBanked ∧ s.pw.porst = false ∧ s.mode ≠ mCinder ∧ 3 ≤ s.pw.run105 ∧ 1680 ≤ ((l.map BitVec.toInt).foldl max
    a.toInt) :=
  ⟨{ pw := { run105 := 3 } }, 5, 1700, List.replicate 15 7, by decide +kernel⟩

theorem witness_ModesTemperatureAndCap_14 : ∃ (s : State) (dt : Nat) (a : BitVec 16) (l : List (BitVec 16)), l.length = 15 ∧
    s.mode ≠ mBanked ∧ s.pw.porst = false ∧ s.mode = mBurn ∧ s.pw.trans = none ∧ 3 ≤ s.pw.run95 ∧ s.flag
    Reg.PWR_STATUS_THERM_DAMPED 0 = false ∧ 1520 ≤ ((l.map BitVec.toInt).foldl max a.toInt) ∧ ((l.map BitVec.toInt).foldl max
    a.toInt) < 1680 :=
  ⟨{ inMode {} mBurn with pw := { run95 := 3 } }, 5, 1600, List.replicate 15 7, by decide +kernel⟩

theorem witness_ModesTemperatureAndCap_15 : ∃ (s : State) (x : Nat), s.pw.coolFrom = some x ∧ s.flag
    Reg.PWR_STATUS_THERM_DAMPED 0 = true ∧ s.mode = mDamped ∧ s.pw.trans = none ∧ s.rd Reg.PWR_STATUS_REQ_MODE 0 = mBurn :=
  ⟨{ inMode (regs [(Reg.PWR_STATUS_THERM_DAMPED, 0, 1), (Reg.PWR_STATUS_REQ_MODE, 0, 3)]) mDamped with pw := { coolFrom := some 4 } }, 4, by decide +kernel⟩

theorem witness_ModesTemperatureAndCap_16 : ∃ (s : State), s.pw.thermTrip = false ∧ s.pw.porst = false :=
  ⟨{}, by decide +kernel⟩

theorem witness_ModesTemperatureAndCap_17 : ∃ (s : State) (dt own : Nat), s.mode ≠ mBanked ∧ s.pw.porst = false ∧ s.pw.admits
    = [] :=
  ⟨{}, 5, 100, by decide +kernel⟩

theorem witness_ModesTemperatureAndCap_18 : ∃ (s : State) (x : Nat), s.pw.overFrom = some x ∧ s.pw.capRaised = false :=
  ⟨{ pw := { overFrom := some 3 } }, 3, by decide +kernel⟩

theorem witness_EventLogAndReservedAccess_1 : ∃ (s : State) (e : EvEntry), s.fwRuns = true ∧ s.firm.booting = false ∧
    s.flash.prog = none ∧ s.flash.pfDue = false ∧ s.uncopied = some e ∧ s.ringPlace 164 228 8 ≠ none :=
  ⟨{ firm := { booting := false }, ev := { ring := [{ seq := 5, code := 0x0101, mode := 2, cell := 0, coarse := false, time := 9, data := [1] }] } }, { seq := 5, code := 0x0101, mode := 2, cell := 0, coarse := false, time := 9, data := [1] }, by decide +kernel⟩

theorem witness_EventLogAndReservedAccess_2 : ∃ (s : State), s.ev.unsent = true ∧ s.flag Reg.EVT_CTRL_IEN 0 = true :=
  ⟨{ regs [(Reg.EVT_CTRL_IEN, 0, 1)] with ev := { unsent := true, lastMsi := some 8 } }, by decide +kernel⟩

theorem witness_EventLogAndReservedAccess_3 : ∃ (s : State) (c i : Nat) (w : Window), (s.ev.windows.find? fun w => w.code == c
    && w.inst == i) = some w :=
  ⟨{ ev := { windows := [{ code := 0x0801, inst := 0, endAt := 77, data := [4, 0], count := 3, counted := true }] } }, 0x0801, 0, { code := 0x0801, inst := 0, endAt := 77, data := [4, 0], count := 3, counted := true }, by decide +kernel⟩

theorem witness_TallyCountsAndCloses_1 : ∃ (s : State), s.pw.porst = false ∧ s.flag Reg.TALLY_STATUS_RUNNING 0 = false ∧
    s.flag Reg.TALLY_STATUS_FAULT 0 = false :=
  ⟨{}, by decide +kernel⟩

theorem witness_TallyCountsAndCloses_2 : ∃ (s : State) (a b : Bool), s.pw.porst = false ∧ s.flag Reg.TALLY_STATUS_RUNNING 0 =
    false ∧ s.flag Reg.TALLY_STATUS_FAULT 0 = false ∧ (a && b) = false ∧ s.mode ≠ mBanked ∧ s.mode ≠ mCinder :=
  ⟨{}, true, false, by decide +kernel⟩

theorem witness_TallyCountsAndCloses_3 : ∃ (s : State) (a i n e : Nat) (r : List (Nat × Nat × Nat × Nat)), s.tallyOn = true ∧
    s.tally.pfClosed = false ∧ s.boundaryDue = false ∧ s.tally.taps = (a, i, n, e) :: r :=
  ⟨{ State.set1 {} Reg.TALLY_STATUS_RUNNING 0 with tally := { taps := [(5, 2, 40, 9), (6, 0, 1, 9)] } }, 5, 2, 40, 9, [(6, 0, 1, 9)], by decide +kernel⟩

theorem witness_TallyCountsAndCloses_4 : ∃ (s : State) (a : BitVec 12) (i : Fin 4) (n : Nat), s.tallyOn = true ∧ s.sealed =
    false ∧ s.tally.pfClosed = false ∧ s.boundaryDue = false :=
  ⟨{ State.set1 {} Reg.TALLY_STATUS_RUNNING 0 with sealed := false }, 5, 1, 40, by decide +kernel⟩

theorem witness_TallyCountsAndCloses_5 : ∃ (s : State) (a : BitVec 12) (i : Fin 4) (n : Nat), s.sealed = true :=
  ⟨{ sealed := true }, 5, 1, 40, by decide +kernel⟩

theorem witness_TallyCountsAndCloses_6 : ∃ (s : State) (a : Nat), s.tallyOn = true ∧ s.tally.pfClosed = false ∧ (s.advanceMod
    msCycles).boundaryDue = false ∧ (s.advanceMod msCycles).sampled = [a] :=
  ⟨{ State.set1 {} Reg.TALLY_STATUS_RUNNING 0 with cmds := [{ cmdOf [(0, opMount)] with phase := .started, acct := 12 }] }, 12, by decide +kernel⟩

theorem witness_TallyCountsAndCloses_7 : ∃ (s : State) (l : List (BitVec 12 × Fin 4)), s.timeOk ∧ s.tallyOn = true ∧ timeDiff
    s.lin (s.tally.next % linMod) < 0 :=
  ⟨State.set1 {} Reg.TALLY_STATUS_RUNNING 0, [], by decide +kernel⟩

theorem witness_TallyCountsAndCloses_8 : ∃ (s : State) (a : Nat) (c : List Nat), s.timeOk ∧ s.tallyOn = true ∧ timeDiff s.lin
    (s.tally.next % linMod) < 0 ∧ s.tally.closing = [] ∧ s.tally.taps = [] ∧ s.tally.open_ = [(a, c)] ∧ c.length = 4 ∧ c.any
    (· != 0) = true ∧ (∀ i < 4, c.getD i 0 ≤ counterMax i) :=
  ⟨{ State.set1 {} Reg.TALLY_STATUS_RUNNING 0 with tally := { open_ := [(37, [4, 0, 262144, 7])] } }, 37, [4, 0, 262144, 7], by decide +kernel⟩

theorem witness_TallyCountsAndCloses_9 : ∃ (s : State) (t0 : Nat), s.tally.pfAt = some t0 ∧ s.tally.pfClosed = false ∧
    s.tallyOn = true :=
  ⟨{ State.set1 {} Reg.TALLY_STATUS_RUNNING 0 with tally := { pfAt := some 3 } }, 3, by decide +kernel⟩

theorem witness_TallyCountsAndCloses_10 : ∃ (s : State) (t0 dt : Nat), s.tally.pfAt = some t0 ∧ s.tally.pfClosed = false ∧
    s.tallyOn = true ∧ s.mode ≠ mBanked :=
  ⟨{ State.set1 {} Reg.TALLY_STATUS_RUNNING 0 with tally := { pfAt := some 3 } }, 3, 800, by decide +kernel⟩

theorem witness_TallyRecordsAndSeal_1 : ∃ (s : State) (a : Nat) (c : Closing), s.tallyOn = true ∧ s.tallyNext = some (.slot a
    c) ∧ (∀ k < 8, s.fword (tallyWord s.nextSlot + k) = blankWord) ∧ s.newestSeq + 1 < 2 ^ 48 :=
  ⟨{ State.set1 {} Reg.TALLY_STATUS_RUNNING 0 with tally := { closing := [(37, { start := 0, end_ := 60, minutes := 1, flags := 0, counts := [4, 0, 0, 7], cell := 0, isSealed := false })] } }, 37, { start := 0, end_ := 60, minutes := 1, flags := 0, counts := [4, 0, 0, 7], cell := 0, isSealed := false }, by decide +kernel⟩

theorem witness_TallyRecordsAndSeal_2 : ∃ (s : State) (i : Nat) (r : TRec), s.tallyOn = true ∧ s.tallyNext = some (.other i r)
    ∧ (∀ k < 8, s.fword (tallyWord s.nextSlot + k) = blankWord) ∧ s.newestSeq + 1 < 2 ^ 48 :=
  ⟨{ State.set1 {} Reg.TALLY_STATUS_RUNNING 0 with tally := { due := [{ type := 7, start := 0, end_ := 0, cell := 0, isSealed := false, body := [] }] } }, 0, { type := 7, start := 0, end_ := 0, cell := 0, isSealed := false, body := [] }, by decide +kernel⟩

theorem witness_TallyRecordsAndSeal_3 : ∃ (s : State) (u : Nat), s.tallyOn = true ∧ s.tallyNext = some (.ack u) ∧ (∀ k < 8,
    s.fword (tallyWord s.nextSlot + k) = blankWord) ∧ s.newestSeq + 1 < 2 ^ 48 :=
  ⟨{ State.set1 {} Reg.TALLY_STATUS_RUNNING 0 with tally := { acks := [(0, 3, 2)] } }, 2, by decide +kernel⟩

theorem witness_TallyRecordsAndSeal_4 : ∃ (s : State) (x : TNext) (k : Fin 9), s.tallyOn = true ∧ s.tallyNext = some x :=
  ⟨{ State.set1 {} Reg.TALLY_STATUS_RUNNING 0 with tally := { acks := [(0, 3, 2)] } }, .ack 2, 3, by decide +kernel⟩

theorem witness_TallyRecordsAndSeal_5 : ∃ (s : State) (n : Nat), s.tallyOn = true ∧ s.flash.erase = none ∧ s.pw.pfAt = none ∧
    n < 128 ∧ s.sectorSpent s.usedSlots n = true :=
  ⟨spentSector, 0, by exact ⟨by decide +kernel, by decide +kernel, by decide +kernel, by decide, spent_first⟩⟩

theorem witness_TallyRecordsAndSeal_6 : ∃ (s : State) (dt x : Nat) (l a b : Bool), s.flag Reg.TALLY_STATUS_SEAL_REQ 0 = true ∧
    s.mode = mVerify ∧ s.sealed = false ∧ s.tallyOn = true ∧ s.tally.sealFrom = some x ∧ x + 2 * hz ≤ s.now + dt ∧ (a || b) =
    true :=
  ⟨{ regs [(Reg.TALLY_STATUS_RUNNING, 0, 1), (Reg.TALLY_STATUS_SEAL_REQ, 0, 1), (Reg.GCTL_STATUS_MODE, 0, mVerify)] with sealed := false, tally := { sealFrom := some 0 } }, 3000000000, 0, false, false, true, by decide +kernel⟩

theorem witness_TallyRecordsAndSeal_7 : ∃ (s : State) (dt x : Nat) (l a b : Bool), s.flag Reg.TALLY_STATUS_SEAL_REQ 0 = true ∧
    s.mode = mVerify ∧ s.sealed = false ∧ s.tallyOn = true ∧ s.tally.sealFrom = some x ∧ (s.now + dt < x + 2 * hz ∨ (a || b) =
    false) :=
  ⟨{ regs [(Reg.TALLY_STATUS_RUNNING, 0, 1), (Reg.TALLY_STATUS_SEAL_REQ, 0, 1), (Reg.GCTL_STATUS_MODE, 0, mVerify)] with sealed := false, tally := { sealFrom := some 0 } }, 2999999999, 0, false, true, true, by decide +kernel⟩

theorem witness_TallyRecordsAndSeal_8 : ∃ (s : State) (dt : Nat) (l a b : Bool), s.sealed = true :=
  ⟨{ sealed := true, tally := { sealFrom := none } }, 5, true, true, true, by decide +kernel⟩

theorem witness_DoorAndTransfersStart_1 : ∃ (s : State) (m : Fin 2), s.doorOk = true ∧ s.axState (pkAxis 0 2) = axUnref ∧
    s.axState (pkAxis 1 2) = axUnref :=
  ⟨{ regs [(Reg.LIB_POSN_VALUE, 6, 1000000), (Reg.LIB_CTRL_EN, 0, 1), (Reg.LIB_STATUS_DOOR_CLOSED, 0, 1), (Reg.LIB_STATUS_DOOR_LOCKED, 0, 1), (Reg.LIB_PK_STATE, 0, 2), (Reg.LIB_PK_STATE, 1, 2), (Reg.MOT_CTRL_EN, 0, 1), (Reg.MOT_AX_STATUS_STATE, 258, 1), (Reg.MOT_AX_STATUS_STATE, 262, 1)] with lib := { lockOut := true } }, 1, by decide +kernel⟩

theorem witness_DoorAndTransfersStart_2 : ∃ (s : State), ((∀ x ∈ s.lib.transfers, x.step = 0)) ∧ s.pkRest = true :=
  ⟨{ (upTo 8).foldl (fun t i => (((((t.wr Reg.MOT_AX_STATUS_STATE (256 + i) axIdle).wr Reg.MOT_AX_VMAX_VALUE (256 + i) 9).wr Reg.MOT_AX_AMAX_VALUE (256 + i) 9).wr Reg.MOT_AX_VSTART_VALUE (256 + i) 2).wr Reg.MOT_AX_STOP_DEC_VALUE (256 + i) 9)) (regs [(Reg.LIB_POSN_VALUE, 6, 1000000), (Reg.LIB_CTRL_EN, 0, 1), (Reg.LIB_STATUS_DOOR_CLOSED, 0, 1), (Reg.LIB_STATUS_DOOR_LOCKED, 0, 1), (Reg.LIB_PK_STATE, 0, 2), (Reg.LIB_PK_STATE, 1, 2), (Reg.MOT_CTRL_EN, 0, 1)]) with lib := { lockOut := true, transfers := [{ id := 3, disc := 5, src := 5, dst := 0x4002 }] }, cmds := [] }, by decide +kernel⟩

theorem witness_DoorAndTransfersStart_5 : ∃ (s : State), s.lib.lockOut = true :=
  ⟨{ lib := { lockOut := true, hold := true } }, by decide +kernel⟩

theorem witness_DoorAndTransfersStart_6 : ∃ (s : State) (c : Bool), s.lib.lockOut = true :=
  ⟨{ (upTo 8).foldl (fun t i => (((((t.wr Reg.MOT_AX_STATUS_STATE (256 + i) axIdle).wr Reg.MOT_AX_VMAX_VALUE (256 + i) 9).wr Reg.MOT_AX_AMAX_VALUE (256 + i) 9).wr Reg.MOT_AX_VSTART_VALUE (256 + i) 2).wr Reg.MOT_AX_STOP_DEC_VALUE (256 + i) 9)) (regs [(Reg.LIB_POSN_VALUE, 6, 1000000), (Reg.LIB_CTRL_EN, 0, 1), (Reg.LIB_STATUS_DOOR_CLOSED, 0, 1), (Reg.LIB_STATUS_DOOR_LOCKED, 0, 1), (Reg.LIB_PK_STATE, 0, 2), (Reg.LIB_PK_STATE, 1, 2), (Reg.MOT_CTRL_EN, 0, 1)]) with lib := { lockOut := true, transfers := [{ id := 3, disc := 5, src := 5, dst := 0x4002, step := 4 }] }, cmds := [] }, true, by decide +kernel⟩

theorem witness_DoorAndTransfersStart_7 : ∃ (s : State) (sq tag : Nat) (x : Transfer) (c : Cmd), s.cmd? sq tag = some c ∧
    c.local = true ∧ c.phase ≠ .fixed ∧ (s.lib.transfers.find? fun t => t.cmd == some (sq, tag) && t.step == 0) = some x ∧
    s.lib.hold = true :=
  ⟨{ (upTo 8).foldl (fun t i => (((((t.wr Reg.MOT_AX_STATUS_STATE (256 + i) axIdle).wr Reg.MOT_AX_VMAX_VALUE (256 + i) 9).wr Reg.MOT_AX_AMAX_VALUE (256 + i) 9).wr Reg.MOT_AX_VSTART_VALUE (256 + i) 2).wr Reg.MOT_AX_STOP_DEC_VALUE (256 + i) 9)) (regs [(Reg.LIB_POSN_VALUE, 6, 1000000), (Reg.LIB_CTRL_EN, 0, 1), (Reg.LIB_STATUS_DOOR_CLOSED, 0, 1), (Reg.LIB_STATUS_DOOR_LOCKED, 0, 1), (Reg.LIB_PK_STATE, 0, 2), (Reg.LIB_PK_STATE, 1, 2), (Reg.MOT_CTRL_EN, 0, 1)]) with lib := { lockOut := true, hold := true, transfers := [{ id := 3, disc := 5, src := 5, dst := 0x4002, cmd := some (0, 0) }] }, cmds := [{ cmdOf [(0, 0x20)] with phase := .started }] }, 0, 0, { id := 3, disc := 5, src := 5, dst := 0x4002, cmd := some (0, 0) }, { cmdOf [(0, 0x20)] with phase := .started }, by decide +kernel⟩

theorem witness_DoorAndTransfersStart_8 : ∃ (s : State) (sq tag : Nat) (x : Transfer), (s.lib.transfers.find? fun t => t.cmd
    == some (sq, tag) && t.step == 0 && !t.blocked) = some x :=
  ⟨{ (upTo 8).foldl (fun t i => (((((t.wr Reg.MOT_AX_STATUS_STATE (256 + i) axIdle).wr Reg.MOT_AX_VMAX_VALUE (256 + i) 9).wr Reg.MOT_AX_AMAX_VALUE (256 + i) 9).wr Reg.MOT_AX_VSTART_VALUE (256 + i) 2).wr Reg.MOT_AX_STOP_DEC_VALUE (256 + i) 9)) (regs [(Reg.LIB_POSN_VALUE, 6, 1000000), (Reg.LIB_CTRL_EN, 0, 1), (Reg.LIB_STATUS_DOOR_CLOSED, 0, 1), (Reg.LIB_STATUS_DOOR_LOCKED, 0, 1), (Reg.LIB_PK_STATE, 0, 2), (Reg.LIB_PK_STATE, 1, 2), (Reg.MOT_CTRL_EN, 0, 1)]) with lib := { lockOut := true, transfers := [{ id := 3, disc := 5, src := 5, dst := 0x4002, cmd := some (0, 0) }] }, cmds := [{ cmdOf [(0, 0x20)] with phase := .started }] }, 0, 0, { id := 3, disc := 5, src := 5, dst := 0x4002, cmd := some (0, 0) }, by decide +kernel⟩

theorem witness_DoorAndTransfersStart_9 : ∃ (s : State) (x : Transfer), s.libRuns = true ∧ (s.lib.transfers.find? fun t =>
    t.step == 0 && t.locsDue.isEmpty && (s.fit t 0 != 1 || s.fit t 1 != 1)) = some x ∧ s.fit x 0 = 0 ∧ locKind x.src = 0 :=
  ⟨{ (upTo 8).foldl (fun t i => (((((t.wr Reg.MOT_AX_STATUS_STATE (256 + i) axIdle).wr Reg.MOT_AX_VMAX_VALUE (256 + i) 9).wr Reg.MOT_AX_AMAX_VALUE (256 + i) 9).wr Reg.MOT_AX_VSTART_VALUE (256 + i) 2).wr Reg.MOT_AX_STOP_DEC_VALUE (256 + i) 9)) (regs [(Reg.LIB_POSN_VALUE, 6, 1000000), (Reg.LIB_CTRL_EN, 0, 1), (Reg.LIB_STATUS_DOOR_CLOSED, 0, 1), (Reg.LIB_STATUS_DOOR_LOCKED, 0, 1), (Reg.LIB_PK_STATE, 0, 2), (Reg.LIB_PK_STATE, 1, 2), (Reg.MOT_CTRL_EN, 0, 1)]) with lib := { lockOut := true, transfers := [{ id := 3, disc := 5, src := 5, dst := 0x4002, cmd := some (0, 0) }] }, cmds := [{ cmdOf [(0, 0x20)] with phase := .started }] }, { id := 3, disc := 5, src := 5, dst := 0x4002, cmd := some (0, 0) }, by decide +kernel⟩

theorem witness_DoorAndTransfersStart_10 : ∃ (s : State) (m : Fin 2) (x : Transfer), (s.lib.records.find? fun t => t.picker ==
    some m.val) = some x ∧ s.rd Reg.LIB_PK_STATE m = 2 ∧ locKind x.src = 0 ∧ x.kind ≠ 2 :=
  ⟨{ (upTo 8).foldl (fun t i => (((((t.wr Reg.MOT_AX_STATUS_STATE (256 + i) axIdle).wr Reg.MOT_AX_VMAX_VALUE (256 + i) 9).wr Reg.MOT_AX_AMAX_VALUE (256 + i) 9).wr Reg.MOT_AX_VSTART_VALUE (256 + i) 2).wr Reg.MOT_AX_STOP_DEC_VALUE (256 + i) 9)) (regs [(Reg.LIB_POSN_VALUE, 6, 1000000), (Reg.LIB_CTRL_EN, 0, 1), (Reg.LIB_STATUS_DOOR_CLOSED, 0, 1), (Reg.LIB_STATUS_DOOR_LOCKED, 0, 1), (Reg.LIB_PK_STATE, 0, 2), (Reg.LIB_PK_STATE, 1, 2), (Reg.MOT_CTRL_EN, 0, 1)]) with lib := { lockOut := true, records := [{ id := 3, disc := 5, src := 5, dst := 0x4002, picker := some 0 }] }, cmds := [] }, 0, { id := 3, disc := 5, src := 5, dst := 0x4002, picker := some 0 }, by decide +kernel⟩

theorem witness_DoorAndTransfersStart_11 : ∃ (s : State) (m : Fin 2) (x : Transfer), (s.lib.records.find? fun t => t.picker ==
    some m.val) = some x ∧ s.rd Reg.LIB_PK_STATE m = 2 :=
  ⟨{ (upTo 8).foldl (fun t i => (((((t.wr Reg.MOT_AX_STATUS_STATE (256 + i) axIdle).wr Reg.MOT_AX_VMAX_VALUE (256 + i) 9).wr Reg.MOT_AX_AMAX_VALUE (256 + i) 9).wr Reg.MOT_AX_VSTART_VALUE (256 + i) 2).wr Reg.MOT_AX_STOP_DEC_VALUE (256 + i) 9)) (regs [(Reg.LIB_POSN_VALUE, 6, 1000000), (Reg.LIB_CTRL_EN, 0, 1), (Reg.LIB_STATUS_DOOR_CLOSED, 0, 1), (Reg.LIB_STATUS_DOOR_LOCKED, 0, 1), (Reg.LIB_PK_STATE, 0, 2), (Reg.LIB_PK_STATE, 1, 2), (Reg.MOT_CTRL_EN, 0, 1)]) with lib := { lockOut := true, records := [{ id := 3, disc := 5, src := 5, dst := 0x4002, picker := some 0 }] }, cmds := [] }, 0, { id := 3, disc := 5, src := 5, dst := 0x4002, picker := some 0 }, by decide +kernel⟩

theorem witness_DoorAndTransfersStart_12 : ∃ (s : State) (m : Fin 2) (x : Transfer), (s.lib.transfers.find? fun t => t.picker
    == some m.val && (t.step == 5 || t.step == 6 || t.step == 7 || t.step == 8)) = some x :=
  ⟨{ (upTo 8).foldl (fun t i => (((((t.wr Reg.MOT_AX_STATUS_STATE (256 + i) axIdle).wr Reg.MOT_AX_VMAX_VALUE (256 + i) 9).wr Reg.MOT_AX_AMAX_VALUE (256 + i) 9).wr Reg.MOT_AX_VSTART_VALUE (256 + i) 2).wr Reg.MOT_AX_STOP_DEC_VALUE (256 + i) 9)) (regs [(Reg.LIB_POSN_VALUE, 6, 1000000), (Reg.LIB_CTRL_EN, 0, 1), (Reg.LIB_STATUS_DOOR_CLOSED, 0, 1), (Reg.LIB_STATUS_DOOR_LOCKED, 0, 1), (Reg.LIB_PK_STATE, 0, 2), (Reg.LIB_PK_STATE, 1, 2), (Reg.MOT_CTRL_EN, 0, 1)]) with lib := { lockOut := true, transfers := [{ id := 3, disc := 5, src := 5, dst := 0x4002, picker := some 0, step := 6 }] }, cmds := [] }, 0, { id := 3, disc := 5, src := 5, dst := 0x4002, picker := some 0, step := 6 }, by decide +kernel⟩

theorem witness_DoorAndTransfersStart_13 : ∃ (s : State) (dt f n sq tag m : Nat) (l : List Bool) (c : Cmd), s.cmd? sq tag =
    some c ∧ c.local = true ∧ c.phase ≠ .fixed ∧ s.lib.inv = some (f, n, some (sq, tag)) ∧ s.lib.transfers = [] ∧
    s.lib.records = [] ∧ s.invPicker = some m ∧ s.motionHeld = false ∧ s.pkRefused m (inTarget s.posns) = none ∧
    (State.scanWalk m ((upTo n).map (f + ·)) (s.pkIn m s.posns)).2 = none :=
  ⟨{ (upTo 8).foldl (fun t i => (((((t.wr Reg.MOT_AX_STATUS_STATE (256 + i) axIdle).wr Reg.MOT_AX_VMAX_VALUE (256 + i) 9).wr Reg.MOT_AX_AMAX_VALUE (256 + i) 9).wr Reg.MOT_AX_VSTART_VALUE (256 + i) 2).wr Reg.MOT_AX_STOP_DEC_VALUE (256 + i) 9)) (regs [(Reg.LIB_POSN_VALUE, 6, 1000000), (Reg.LIB_CTRL_EN, 0, 1), (Reg.LIB_STATUS_DOOR_CLOSED, 0, 1), (Reg.LIB_STATUS_DOOR_LOCKED, 0, 1), (Reg.LIB_PK_STATE, 0, 2), (Reg.LIB_PK_STATE, 1, 2), (Reg.MOT_CTRL_EN, 0, 1)]) with lib := { lockOut := true, inv := some (4, 2, some (0, 0)) }, cmds := [{ cmdOf [(0, 0x20)] with phase := .started }] }, 9, 4, 2, 0, 0, 0, [true, false], { cmdOf [(0, 0x20)] with phase := .started }, by decide +kernel⟩

theorem witness_TransfersGoStepByStep_1 : ∃ (s : State) (m : Fin 2) (x : Transfer) (a b c : Bool) (i k : Nat),
    (s.lib.transfers.find? fun t => t.picker == some m.val && t.step != 0) = some x ∧ s.pkReady m = true ∧ x.ackDue = false ∧
    s.pw.pfAt = none ∧ s.pkRefused m x.moves = some (i, k) ∧ s.flag Reg.MOT_ERR_VALID 0 = false :=
  ⟨{ (upTo 8).foldl (fun t i => (((((t.wr Reg.MOT_AX_STATUS_STATE (256 + i) axIdle).wr Reg.MOT_AX_VMAX_VALUE (256 + i) 9).wr Reg.MOT_AX_AMAX_VALUE (256 + i) 9).wr Reg.MOT_AX_VSTART_VALUE (256 + i) 2).wr Reg.MOT_AX_STOP_DEC_VALUE (256 + i) 9)) (regs [(Reg.LIB_POSN_VALUE, 6, 1000000), (Reg.LIB_CTRL_EN, 0, 1), (Reg.LIB_STATUS_DOOR_CLOSED, 0, 1), (Reg.LIB_STATUS_DOOR_LOCKED, 0, 1), (Reg.LIB_PK_STATE, 0, 2), (Reg.LIB_PK_STATE, 1, 2), (Reg.MOT_CTRL_EN, 0, 1)]) with lib := { lockOut := true, transfers := [{ id := 3, disc := 5, src := 5, dst := 0x4002, picker := some 0, step := 2, posns := [0, 0, 9] }] }, cmds := [{ cmdOf [(0, 0x20)] with phase := .started }] }, 0, { id := 3, disc := 5, src := 5, dst := 0x4002, picker := some 0, step := 2, posns := [0, 0, 9] }, true, true, true, 258, 2, by decide +kernel⟩

theorem witness_TransfersGoStepByStep_2 : ∃ (s : State) (m : Fin 2) (x : Transfer) (a b c : Bool), (s.lib.transfers.find? fun
    t => t.picker == some m.val && t.step != 0) = some x ∧ s.pkReady m = true ∧ x.ackDue = false ∧ s.pw.pfAt = none ∧
    s.pkRefused m x.moves = none ∧ x.step = 2 :=
  ⟨{ (upTo 8).foldl (fun t i => (((((t.wr Reg.MOT_AX_STATUS_STATE (256 + i) axIdle).wr Reg.MOT_AX_VMAX_VALUE (256 + i) 9).wr Reg.MOT_AX_AMAX_VALUE (256 + i) 9).wr Reg.MOT_AX_VSTART_VALUE (256 + i) 2).wr Reg.MOT_AX_STOP_DEC_VALUE (256 + i) 9)) (regs [(Reg.LIB_POSN_VALUE, 6, 1000000), (Reg.LIB_CTRL_EN, 0, 1), (Reg.LIB_STATUS_DOOR_CLOSED, 0, 1), (Reg.LIB_STATUS_DOOR_LOCKED, 0, 1), (Reg.LIB_PK_STATE, 0, 2), (Reg.LIB_PK_STATE, 1, 2), (Reg.MOT_CTRL_EN, 0, 1)]) with lib := { lockOut := true, transfers := [{ id := 3, disc := 5, src := 5, dst := 0x4002, picker := some 0, step := 2 }] }, cmds := [{ cmdOf [(0, 0x20)] with phase := .started }] }, 0, { id := 3, disc := 5, src := 5, dst := 0x4002, picker := some 0, step := 2 }, true, false, true, by decide +kernel⟩

theorem witness_TransfersGoStepByStep_3 : ∃ (s : State) (m : Fin 2) (x : Transfer), (s.lib.transfers.find? fun t => t.picker
    == some m.val && t.step != 0) = some x ∧ s.pkReady m = true ∧ x.ackDue = false ∧ s.pw.pfAt = none ∧ s.pkRefused m x.moves
    = none ∧ x.step = 3 :=
  ⟨{ (upTo 8).foldl (fun t i => (((((t.wr Reg.MOT_AX_STATUS_STATE (256 + i) axIdle).wr Reg.MOT_AX_VMAX_VALUE (256 + i) 9).wr Reg.MOT_AX_AMAX_VALUE (256 + i) 9).wr Reg.MOT_AX_VSTART_VALUE (256 + i) 2).wr Reg.MOT_AX_STOP_DEC_VALUE (256 + i) 9)) (regs [(Reg.LIB_POSN_VALUE, 6, 1000000), (Reg.LIB_CTRL_EN, 0, 1), (Reg.LIB_STATUS_DOOR_CLOSED, 0, 1), (Reg.LIB_STATUS_DOOR_LOCKED, 0, 1), (Reg.LIB_PK_STATE, 0, 2), (Reg.LIB_PK_STATE, 1, 2), (Reg.MOT_CTRL_EN, 0, 1)]) with lib := { lockOut := true, transfers := [{ id := 3, disc := 5, src := 5, dst := 0x4002, picker := some 0, step := 3 }] }, cmds := [{ cmdOf [(0, 0x20)] with phase := .started }] }, 0, { id := 3, disc := 5, src := 5, dst := 0x4002, picker := some 0, step := 3 }, by decide +kernel⟩

theorem witness_TransfersGoStepByStep_4 : ∃ (s : State) (m : Fin 2) (x : Transfer) (q g : Nat) (c : Cmd), s.cmd? q g = some c
    ∧ c.local = true ∧ c.phase ≠ .fixed ∧ (s.lib.transfers.find? fun t => t.picker == some m.val && t.step != 0) = some x ∧
    s.pkReady m = true ∧ x.ackDue = false ∧ s.pw.pfAt = none ∧ s.pkRefused m x.moves = none ∧ x.step = 3 ∧ x.cmd = some (q, g)
    ∧ s.lib.opening = false :=
  ⟨{ (upTo 8).foldl (fun t i => (((((t.wr Reg.MOT_AX_STATUS_STATE (256 + i) axIdle).wr Reg.MOT_AX_VMAX_VALUE (256 + i) 9).wr Reg.MOT_AX_AMAX_VALUE (256 + i) 9).wr Reg.MOT_AX_VSTART_VALUE (256 + i) 2).wr Reg.MOT_AX_STOP_DEC_VALUE (256 + i) 9)) (regs [(Reg.LIB_POSN_VALUE, 6, 1000000), (Reg.LIB_CTRL_EN, 0, 1), (Reg.LIB_STATUS_DOOR_CLOSED, 0, 1), (Reg.LIB_STATUS_DOOR_LOCKED, 0, 1), (Reg.LIB_PK_STATE, 0, 2), (Reg.LIB_PK_STATE, 1, 2), (Reg.MOT_CTRL_EN, 0, 1)]) with lib := { lockOut := true, transfers := [{ id := 3, disc := 5, src := 5, dst := 0x4002, picker := some 0, step := 3, cmd := some (0, 0) }] }, cmds := [{ cmdOf [(0, 0x20)] with phase := .started }] }, 0, { id := 3, disc := 5, src := 5, dst := 0x4002, picker := some 0, step := 3, cmd := some (0, 0) }, 0, 0, { cmdOf [(0, 0x20)] with phase := .started }, by decide +kernel⟩

theorem witness_TransfersGoStepByStep_5 : ∃ (s : State) (m : Fin 2) (x : Transfer), (s.lib.transfers.find? fun t => t.picker
    == some m.val && t.step != 0) = some x ∧ s.pkReady m = true ∧ x.ackDue = false ∧ s.pw.pfAt = none ∧ s.pkRefused m x.moves
    = none ∧ x.step = 4 :=
  ⟨{ (upTo 8).foldl (fun t i => (((((t.wr Reg.MOT_AX_STATUS_STATE (256 + i) axIdle).wr Reg.MOT_AX_VMAX_VALUE (256 + i) 9).wr Reg.MOT_AX_AMAX_VALUE (256 + i) 9).wr Reg.MOT_AX_VSTART_VALUE (256 + i) 2).wr Reg.MOT_AX_STOP_DEC_VALUE (256 + i) 9)) (regs [(Reg.LIB_POSN_VALUE, 6, 1000000), (Reg.LIB_CTRL_EN, 0, 1), (Reg.LIB_STATUS_DOOR_CLOSED, 0, 1), (Reg.LIB_STATUS_DOOR_LOCKED, 0, 1), (Reg.LIB_PK_STATE, 0, 2), (Reg.LIB_PK_STATE, 1, 2), (Reg.MOT_CTRL_EN, 0, 1)]) with lib := { lockOut := true, transfers := [{ id := 3, disc := 5, src := 5, dst := 0x4002, picker := some 0, step := 4 }] }, cmds := [{ cmdOf [(0, 0x20)] with phase := .started }] }, 0, { id := 3, disc := 5, src := 5, dst := 0x4002, picker := some 0, step := 4 }, by decide +kernel⟩

theorem witness_TransfersGoStepByStep_6 : ∃ (s : State) (m : Fin 2) (x : Transfer) (a : Bool), (s.lib.transfers.find? fun t =>
    t.picker == some m.val && t.step != 0) = some x ∧ s.pkReady m = true ∧ x.ackDue = false ∧ s.pw.pfAt = none ∧ s.pkRefused m
    x.moves = none ∧ x.step = 5 :=
  ⟨{ (upTo 8).foldl (fun t i => (((((t.wr Reg.MOT_AX_STATUS_STATE (256 + i) axIdle).wr Reg.MOT_AX_VMAX_VALUE (256 + i) 9).wr Reg.MOT_AX_AMAX_VALUE (256 + i) 9).wr Reg.MOT_AX_VSTART_VALUE (256 + i) 2).wr Reg.MOT_AX_STOP_DEC_VALUE (256 + i) 9)) (regs [(Reg.LIB_POSN_VALUE, 6, 1000000), (Reg.LIB_CTRL_EN, 0, 1), (Reg.LIB_STATUS_DOOR_CLOSED, 0, 1), (Reg.LIB_STATUS_DOOR_LOCKED, 0, 1), (Reg.LIB_PK_STATE, 0, 2), (Reg.LIB_PK_STATE, 1, 2), (Reg.MOT_CTRL_EN, 0, 1)]) with lib := { lockOut := true, transfers := [{ id := 3, disc := 5, src := 5, dst := 0x4002, picker := some 0, step := 5 }] }, cmds := [{ cmdOf [(0, 0x20)] with phase := .started }] }, 0, { id := 3, disc := 5, src := 5, dst := 0x4002, picker := some 0, step := 5 }, true, by decide +kernel⟩

theorem witness_TransfersGoStepByStep_7 : ∃ (s : State) (m : Fin 2) (x : Transfer) (a : Bool), (s.lib.transfers.find? fun t =>
    t.picker == some m.val && t.step != 0) = some x ∧ s.pkReady m = true ∧ x.ackDue = false ∧ s.pw.pfAt = none ∧ s.pkRefused m
    x.moves = none ∧ x.step = 5 :=
  ⟨{ (upTo 8).foldl (fun t i => (((((t.wr Reg.MOT_AX_STATUS_STATE (256 + i) axIdle).wr Reg.MOT_AX_VMAX_VALUE (256 + i) 9).wr Reg.MOT_AX_AMAX_VALUE (256 + i) 9).wr Reg.MOT_AX_VSTART_VALUE (256 + i) 2).wr Reg.MOT_AX_STOP_DEC_VALUE (256 + i) 9)) (regs [(Reg.LIB_POSN_VALUE, 6, 1000000), (Reg.LIB_CTRL_EN, 0, 1), (Reg.LIB_STATUS_DOOR_CLOSED, 0, 1), (Reg.LIB_STATUS_DOOR_LOCKED, 0, 1), (Reg.LIB_PK_STATE, 0, 2), (Reg.LIB_PK_STATE, 1, 2), (Reg.MOT_CTRL_EN, 0, 1)]) with lib := { lockOut := true, transfers := [{ id := 3, disc := 5, src := 5, dst := 0x4002, picker := some 0, step := 5 }] }, cmds := [{ cmdOf [(0, 0x20)] with phase := .started }] }, 0, { id := 3, disc := 5, src := 5, dst := 0x4002, picker := some 0, step := 5 }, true, by decide +kernel⟩

theorem witness_TransfersGoStepByStep_8 : ∃ (s : State) (m : Fin 2) (x : Transfer) (a b c : Bool), (s.lib.transfers.find? fun
    t => t.picker == some m.val && t.step != 0) = some x ∧ s.pkReady m = true ∧ x.ackDue = false ∧ s.pw.pfAt = none ∧
    s.pkRefused m x.moves = none ∧ x.step = 6 ∧ locKind x.dst = 0 :=
  ⟨{ (upTo 8).foldl (fun t i => (((((t.wr Reg.MOT_AX_STATUS_STATE (256 + i) axIdle).wr Reg.MOT_AX_VMAX_VALUE (256 + i) 9).wr Reg.MOT_AX_AMAX_VALUE (256 + i) 9).wr Reg.MOT_AX_VSTART_VALUE (256 + i) 2).wr Reg.MOT_AX_STOP_DEC_VALUE (256 + i) 9)) (regs [(Reg.LIB_POSN_VALUE, 6, 1000000), (Reg.LIB_CTRL_EN, 0, 1), (Reg.LIB_STATUS_DOOR_CLOSED, 0, 1), (Reg.LIB_STATUS_DOOR_LOCKED, 0, 1), (Reg.LIB_PK_STATE, 0, 2), (Reg.LIB_PK_STATE, 1, 2), (Reg.MOT_CTRL_EN, 0, 1)]) with lib := { lockOut := true, transfers := [{ id := 3, disc := 5, src := 5, dst := 9, picker := some 0, step := 6 }] }, cmds := [{ cmdOf [(0, 0x20)] with phase := .started }] }, 0, { id := 3, disc := 5, src := 5, dst := 9, picker := some 0, step := 6 }, true, true, true, by decide +kernel⟩

theorem witness_TransfersGoStepByStep_9 : ∃ (s : State) (m : Fin 2) (x : Transfer) (b c : Bool), (s.lib.transfers.find? fun t
    => t.picker == some m.val && t.step != 0) = some x ∧ s.pkReady m = true ∧ x.ackDue = false ∧ s.pw.pfAt = none ∧
    s.pkRefused m x.moves = none ∧ x.step = 7 :=
  ⟨{ (upTo 8).foldl (fun t i => (((((t.wr Reg.MOT_AX_STATUS_STATE (256 + i) axIdle).wr Reg.MOT_AX_VMAX_VALUE (256 + i) 9).wr Reg.MOT_AX_AMAX_VALUE (256 + i) 9).wr Reg.MOT_AX_VSTART_VALUE (256 + i) 2).wr Reg.MOT_AX_STOP_DEC_VALUE (256 + i) 9)) (regs [(Reg.LIB_POSN_VALUE, 6, 1000000), (Reg.LIB_CTRL_EN, 0, 1), (Reg.LIB_STATUS_DOOR_CLOSED, 0, 1), (Reg.LIB_STATUS_DOOR_LOCKED, 0, 1), (Reg.LIB_PK_STATE, 0, 2), (Reg.LIB_PK_STATE, 1, 2), (Reg.MOT_CTRL_EN, 0, 1)]) with lib := { lockOut := true, transfers := [{ id := 3, disc := 5, src := 5, dst := 0x4002, picker := some 0, step := 7 }] }, cmds := [{ cmdOf [(0, 0x20)] with phase := .started }] }, 0, { id := 3, disc := 5, src := 5, dst := 0x4002, picker := some 0, step := 7 }, true, true, by decide +kernel⟩

theorem witness_TransfersGoStepByStep_10 : ∃ (s : State) (m : Fin 2) (x : Transfer) (a : Bool), (s.lib.transfers.find? fun t
    => t.picker == some m.val && t.step != 0) = some x ∧ s.pkReady m = true ∧ x.ackDue = false ∧ s.pw.pfAt = none ∧
    s.pkRefused m x.moves = none ∧ x.step = 8 :=
  ⟨{ (upTo 8).foldl (fun t i => (((((t.wr Reg.MOT_AX_STATUS_STATE (256 + i) axIdle).wr Reg.MOT_AX_VMAX_VALUE (256 + i) 9).wr Reg.MOT_AX_AMAX_VALUE (256 + i) 9).wr Reg.MOT_AX_VSTART_VALUE (256 + i) 2).wr Reg.MOT_AX_STOP_DEC_VALUE (256 + i) 9)) (regs [(Reg.LIB_POSN_VALUE, 6, 1000000), (Reg.LIB_CTRL_EN, 0, 1), (Reg.LIB_STATUS_DOOR_CLOSED, 0, 1), (Reg.LIB_STATUS_DOOR_LOCKED, 0, 1), (Reg.LIB_PK_STATE, 0, 2), (Reg.LIB_PK_STATE, 1, 2), (Reg.MOT_CTRL_EN, 0, 1)]) with lib := { lockOut := true, transfers := [{ id := 3, disc := 5, src := 5, dst := 0x4002, picker := some 0, step := 8 }] }, cmds := [{ cmdOf [(0, 0x20)] with phase := .started }] }, 0, { id := 3, disc := 5, src := 5, dst := 0x4002, picker := some 0, step := 8 }, true, by decide +kernel⟩

theorem witness_TransfersGoStepByStep_11 : ∃ (s : State) (m : Fin 2) (x : Transfer) (a b d : Bool) (q g : Nat) (c : Cmd),
    s.cmd? q g = some c ∧ c.local = true ∧ c.phase ≠ .fixed ∧ (s.lib.transfers.find? fun t => t.picker == some m.val && t.step
    != 0) = some x ∧ s.pkReady m = true ∧ x.ackDue = false ∧ s.pw.pfAt = none ∧ s.pkRefused m x.moves = none ∧ x.step = 9 ∧
    x.cmd = some (q, g) ∧ x.kind = 1 ∧ x.back = false :=
  ⟨{ (upTo 8).foldl (fun t i => (((((t.wr Reg.MOT_AX_STATUS_STATE (256 + i) axIdle).wr Reg.MOT_AX_VMAX_VALUE (256 + i) 9).wr Reg.MOT_AX_AMAX_VALUE (256 + i) 9).wr Reg.MOT_AX_VSTART_VALUE (256 + i) 2).wr Reg.MOT_AX_STOP_DEC_VALUE (256 + i) 9)) (regs [(Reg.LIB_POSN_VALUE, 6, 1000000), (Reg.LIB_CTRL_EN, 0, 1), (Reg.LIB_STATUS_DOOR_CLOSED, 0, 1), (Reg.LIB_STATUS_DOOR_LOCKED, 0, 1), (Reg.LIB_PK_STATE, 0, 2), (Reg.LIB_PK_STATE, 1, 2), (Reg.MOT_CTRL_EN, 0, 1)]) with lib := { lockOut := true, transfers := [{ id := 3, disc := 5, src := 5, dst := 0x4002, picker := some 0, step := 9, cmd := some (0, 0), kind := 1 }] }, cmds := [{ cmdOf [(0, 0x20)] with phase := .started }] }, 0, { id := 3, disc := 5, src := 5, dst := 0x4002, picker := some 0, step := 9, cmd := some (0, 0), kind := 1 }, true, false, true, 0, 0, { cmdOf [(0, 0x20)] with phase := .started }, by decide +kernel⟩

theorem witness_TransfersGoStepByStep_12 : ∃ (s : State) (m : Fin 2) (x : Transfer) (a b d : Bool) (q g : Nat) (c : Cmd),
    s.cmd? q g = some c ∧ c.local = true ∧ c.phase ≠ .fixed ∧ (s.lib.transfers.find? fun t => t.picker == some m.val && t.step
    != 0) = some x ∧ s.pkReady m = true ∧ x.ackDue = false ∧ s.pw.pfAt = none ∧ s.pkRefused m x.moves = none ∧ x.step = 9 ∧
    x.cmd = some (q, g) ∧ x.kind = 2 ∧ x.back = false :=
  ⟨{ (upTo 8).foldl (fun t i => (((((t.wr Reg.MOT_AX_STATUS_STATE (256 + i) axIdle).wr Reg.MOT_AX_VMAX_VALUE (256 + i) 9).wr Reg.MOT_AX_AMAX_VALUE (256 + i) 9).wr Reg.MOT_AX_VSTART_VALUE (256 + i) 2).wr Reg.MOT_AX_STOP_DEC_VALUE (256 + i) 9)) (regs [(Reg.LIB_POSN_VALUE, 6, 1000000), (Reg.LIB_CTRL_EN, 0, 1), (Reg.LIB_STATUS_DOOR_CLOSED, 0, 1), (Reg.LIB_STATUS_DOOR_LOCKED, 0, 1), (Reg.LIB_PK_STATE, 0, 2), (Reg.LIB_PK_STATE, 1, 2), (Reg.MOT_CTRL_EN, 0, 1)]) with lib := { lockOut := true, transfers := [{ id := 3, disc := 5, src := 5, dst := 9, picker := some 0, step := 9, cmd := some (0, 0), kind := 2 }] }, cmds := [{ cmdOf [(0, 0x20)] with phase := .started }] }, 0, { id := 3, disc := 5, src := 5, dst := 9, picker := some 0, step := 9, cmd := some (0, 0), kind := 2 }, true, false, true, 0, 0, { cmdOf [(0, 0x20)] with phase := .started }, by decide +kernel⟩

theorem witness_TransfersGoStepByStep_13 : ∃ (s : State) (m : Fin 2) (x : Transfer) (a b d : Bool), (s.lib.transfers.find? fun
    t => t.picker == some m.val && t.step != 0) = some x ∧ s.pkReady m = true ∧ x.ackDue = false ∧ s.pw.pfAt = none ∧
    s.pkRefused m x.moves = none ∧ x.step = 9 ∧ x.kind = 0 ∧ x.back = false ∧ x.dstCell = s.cell :=
  ⟨{ (upTo 8).foldl (fun t i => (((((t.wr Reg.MOT_AX_STATUS_STATE (256 + i) axIdle).wr Reg.MOT_AX_VMAX_VALUE (256 + i) 9).wr Reg.MOT_AX_AMAX_VALUE (256 + i) 9).wr Reg.MOT_AX_VSTART_VALUE (256 + i) 2).wr Reg.MOT_AX_STOP_DEC_VALUE (256 + i) 9)) (regs [(Reg.LIB_POSN_VALUE, 6, 1000000), (Reg.LIB_CTRL_EN, 0, 1), (Reg.LIB_STATUS_DOOR_CLOSED, 0, 1), (Reg.LIB_STATUS_DOOR_LOCKED, 0, 1), (Reg.LIB_PK_STATE, 0, 2), (Reg.LIB_PK_STATE, 1, 2), (Reg.MOT_CTRL_EN, 0, 1)]) with lib := { lockOut := true, transfers := [{ id := 3, disc := 5, src := 5, dst := 0x4002, picker := some 0, step := 9, cmd := some (0, 0) }] }, cmds := [{ cmdOf [(0, 0x20)] with phase := .started }] }, 0, { id := 3, disc := 5, src := 5, dst := 0x4002, picker := some 0, step := 9, cmd := some (0, 0) }, true, false, true, by decide +kernel⟩

theorem witness_TransfersGoStepByStep_14 : ∃ (s : State) (m : Fin 2) (x : Transfer) (a b d : Bool), (s.lib.transfers.find? fun
    t => t.picker == some m.val && t.step != 0) = some x ∧ s.pkReady m = true ∧ x.ackDue = false ∧ s.pw.pfAt = none ∧
    s.pkRefused m x.moves = none ∧ x.step = 9 ∧ x.back = true :=
  ⟨{ (upTo 8).foldl (fun t i => (((((t.wr Reg.MOT_AX_STATUS_STATE (256 + i) axIdle).wr Reg.MOT_AX_VMAX_VALUE (256 + i) 9).wr Reg.MOT_AX_AMAX_VALUE (256 + i) 9).wr Reg.MOT_AX_VSTART_VALUE (256 + i) 2).wr Reg.MOT_AX_STOP_DEC_VALUE (256 + i) 9)) (regs [(Reg.LIB_POSN_VALUE, 6, 1000000), (Reg.LIB_CTRL_EN, 0, 1), (Reg.LIB_STATUS_DOOR_CLOSED, 0, 1), (Reg.LIB_STATUS_DOOR_LOCKED, 0, 1), (Reg.LIB_PK_STATE, 0, 2), (Reg.LIB_PK_STATE, 1, 2), (Reg.MOT_CTRL_EN, 0, 1)]) with lib := { lockOut := true, transfers := [{ id := 3, disc := 5, src := 5, dst := 0x4002, picker := some 0, step := 9, back := true }] }, cmds := [{ cmdOf [(0, 0x20)] with phase := .started }] }, 0, { id := 3, disc := 5, src := 5, dst := 0x4002, picker := some 0, step := 9, back := true }, true, false, true, by decide +kernel⟩

theorem witness_MountUnmountMoveAndInventory_1 : ∃ (s : State) (q : BitVec 20) (tag : BitVec 12) (c : Cmd) (n : Nat),
    s.runnable q.toNat tag.toNat opMount = some c ∧ c.local = true ∧ s.discBlocked (aaddrDisc c.aaddr) = none ∧ (s.disc
    (aaddrDisc c.aaddr)).loc = .station n ∧ (s.disc (aaddrDisc c.aaddr)).mounted = true :=
  ⟨{ withCmd [(0, opMount)] with discs := [(0, { known := true, loc := .station 3, mounted := true })] }, 0, 0, cmdOf [(0, opMount)], 3, by decide +kernel⟩

theorem witness_MountUnmountMoveAndInventory_2 : ∃ (s : State) (q : BitVec 20) (tag : BitVec 12) (c : Cmd) (k n : Nat),
    s.runnable q.toNat tag.toNat opMount = some c ∧ s.discBlocked (aaddrDisc c.aaddr) = none ∧ (s.disc (aaddrDisc
    c.aaddr)).loc = .home ∧ s.mountTarget (aaddrDisc c.aaddr / 4096) (c.get 24 2) = .inl (k, n) :=
  ⟨{ State.wr (State.set1 (State.setPort (withCmd [(0, opMount), (24, 3)]) 3 lkActive) Reg.STN_LINK_CTRL_ENABLE 3) Reg.GCTL_SIZE_STN_FITTED 0 128 with discs := [(0, { known := true })] }, 0, 0, cmdOf [(0, opMount), (24, 3)], 0, 3, by decide +kernel⟩

theorem witness_MountUnmountMoveAndInventory_3 : ∃ (s : State) (q : BitVec 20) (tag : BitVec 12) (c : Cmd), s.runnable q.toNat
    tag.toNat opMount = some c ∧ c.local = true ∧ s.discMoving (aaddrDisc c.aaddr) = true :=
  ⟨{ withCmd [(0, opMount)] with discs := [(0, { known := true, loc := .home })], lib := { records := [{ id := 3, disc := 0, src := 0, dst := 0x4002 }] } }, 0, 0, cmdOf [(0, opMount)], by decide +kernel⟩

theorem witness_MountUnmountMoveAndInventory_4 : ∃ (s : State) (q : BitVec 20) (tag : BitVec 12) (c : Cmd), s.runnable q.toNat
    tag.toNat opUnmount = some c ∧ c.local = true ∧ s.discBlocked (aaddrDisc c.aaddr) = none ∧ (s.disc (aaddrDisc
    c.aaddr)).loc = .home :=
  ⟨{ withCmd [(0, opUnmount)] with discs := [(0, { known := true,  })] }, 0, 0, cmdOf [(0, opUnmount)], by decide +kernel⟩

theorem witness_MountUnmountMoveAndInventory_5 : ∃ (s : State) (q : BitVec 20) (tag : BitVec 12) (c : Cmd) (n : Nat),
    s.runnable q.toNat tag.toNat opUnmount = some c ∧ s.discBlocked (aaddrDisc c.aaddr) = none ∧ (s.disc (aaddrDisc
    c.aaddr)).loc = .station n :=
  ⟨{ withCmd [(0, opUnmount)] with discs := [(0, { known := true, loc := .station 3, mounted := true })] }, 0, 0, cmdOf [(0, opUnmount)], 3, by decide +kernel⟩

theorem witness_MountUnmountMoveAndInventory_6 : ∃ (s : State) (q : BitVec 20) (tag : BitVec 12) (c : Cmd), s.runnable q.toNat
    tag.toNat opMove = some c ∧ c.local = true ∧ s.discBlocked (aaddrDisc c.aaddr) = none ∧ (s.disc (aaddrDisc c.aaddr)).loc =
    .home ∧ s.homeOf (aaddrDisc c.aaddr / 4096) (c.get 24 2) = true :=
  ⟨{ withCmd [(0, opMove)] with discs := [(0, { known := true,  })] }, 0, 0, cmdOf [(0, opMove)], by decide +kernel⟩

theorem witness_MountUnmountMoveAndInventory_7 : ∃ (s : State) (q : BitVec 20) (tag : BitVec 12) (c : Cmd), s.runnable q.toNat
    tag.toNat opMove = some c ∧ s.discBlocked (aaddrDisc c.aaddr) = none ∧ (s.disc (aaddrDisc c.aaddr)).loc = .home ∧ s.homeOf
    (aaddrDisc c.aaddr / 4096) (c.get 24 2) = false :=
  ⟨{ withCmd [(0, opMove), (24, 9)] with discs := [(0, { known := true })] }, 0, 0, cmdOf [(0, opMove), (24, 9)], by decide +kernel⟩

theorem witness_MountUnmountMoveAndInventory_8 : ∃ (s : State) (q : BitVec 20) (tag : BitVec 12) (c : Cmd), s.runnable q.toNat
    tag.toNat opInventory = some c ∧ s.lib.inv = none ∧ c.get 18 2 ≠ 0 :=
  ⟨withCmd [(0, opInventory), (16, 4), (18, 6)], 0, 0, cmdOf [(0, opInventory), (16, 4), (18, 6)], by decide +kernel⟩

theorem witness_MountUnmountMoveAndInventory_9 : ∃ (s : State) (q : BitVec 20) (tag : BitVec 12) (c : Cmd), s.runnable q.toNat
    tag.toNat opInventory = some c ∧ s.lib.inv = none ∧ c.get 18 2 = 0 :=
  ⟨withCmd [(0, opInventory), (16, 4)], 0, 0, cmdOf [(0, opInventory), (16, 4)], by decide +kernel⟩

theorem witness_MountUnmountMoveAndInventory_10 : ∃ (s : State) (n : Fin 128) (a b : MgmtSide) (x y : List (Nat × List
    SlotRead)) (d : Nat), s.mounting n = true ∧ s.flag Reg.STN_SP_STATUS_AT_SPEED n = true ∧ s.flag Reg.STN_HD_CTRL_EN (2 * n)
    = true ∧ s.flag Reg.STN_HD_CTRL_EN (2 * n + 1) = true ∧ s.hd (2 * n) = hdReady ∧ s.hd (2 * n + 1) = hdReady ∧ s.discIn n =
    some d :=
  ⟨{ onStation (regs [(Reg.STN_SP_STATUS_AT_SPEED, 0, 1), (Reg.STN_HD_STATUS_STATE, 0, hdReady), (Reg.STN_HD_STATUS_STATE, 1, hdReady)]) with discs := [(0, { known := true, loc := .station 0 })], cmds := [{ cmdOf [(0, 0x20)] with phase := .started, disc := some 0 }] }, 0, { a := [], b := [] }, { a := [], b := [] }, [], [], 0, by decide +kernel⟩

theorem witness_RingFormsAndChanges_1 : ∃ (s : State), s.flag Reg.CASC_CTRL_EN 0 = false ∧ s.isMaster = true :=
  ⟨{}, by decide +kernel⟩

theorem witness_RingFormsAndChanges_2 : ∃ (s : State), s.flag Reg.CASC_CTRL_EN 0 = false ∧ s.isMaster = false :=
  ⟨regs [(Reg.GCTL_CELL_MASTER, 0, 0), (Reg.CASC_CFG_CELL_ID, 0, 5)], by decide +kernel⟩

theorem witness_RingFormsAndChanges_3 : ∃ (s : State) (c : Nat), s.cs = csMaster ∧ c = s.rd Reg.CASC_CTRL_FORGET_CELL 0 ∧ c ≠
    s.cell ∧ s.flag Reg.CASC_CELL_LISTED c = true ∧ s.flag Reg.CASC_CELL_REACH c = false :=
  ⟨{ regs [(Reg.CASC_PORT_STATUS_UP, 0, 1), (Reg.CASC_PORT_STATUS_UP, 1, 1), (Reg.CASC_CTRL_EN, 0, 1), (Reg.CASC_STATUS_STATE, 0, csMaster), (Reg.CASC_CELL_LISTED, 0, 1), (Reg.CASC_CELL_REACH, 0, 1), (Reg.CASC_CTRL_FORGET_CELL, 0, 3), (Reg.CASC_CELL_LISTED, 3, 1)] with stack := { } }, 3, by decide +kernel⟩

theorem witness_RingFormsAndChanges_4 : ∃ (s : State) (p : Fin 2) (e : List (Nat × Nat)) (w : Bool), s.flag Reg.CASC_CTRL_EN 0
    = true ∧ e.length = 16 ∧ s.mode ≠ mBanked ∧ s.portUp p = false :=
  ⟨State.set1 {} Reg.CASC_CTRL_EN 0, 0, List.replicate 16 (828, 4), true, by decide +kernel⟩

theorem witness_RingFormsAndChanges_5 : ∃ (s : State) (p : Fin 2) (e : List (Nat × Nat)) (w : Bool), s.flag Reg.CASC_CTRL_EN 0
    = true ∧ e.length = 16 ∧ s.mode ≠ mBanked ∧ s.portUp p = true :=
  ⟨{ regs [(Reg.CASC_PORT_STATUS_UP, 0, 1), (Reg.CASC_PORT_STATUS_UP, 1, 1), (Reg.CASC_CTRL_EN, 0, 1)] with stack := { } }, 1, List.replicate 16 (828, 4), true, by decide +kernel⟩

theorem witness_RingFormsAndChanges_6 : ∃ (s : State) (p : Fin 2) (k : Nat), s.portUp p = true ∧ (s.cs = csMember ∨ s.cs =
    csMaster) ∧ 16 ≤ k :=
  ⟨{ regs [(Reg.CASC_PORT_STATUS_UP, 0, 1), (Reg.CASC_PORT_STATUS_UP, 1, 1), (Reg.CASC_CTRL_EN, 0, 1), (Reg.CASC_STATUS_STATE, 0, csMaster), (Reg.CASC_CELL_LISTED, 0, 1), (Reg.CASC_CELL_REACH, 0, 1)] with stack := { } }, 1, 16, by decide +kernel⟩

theorem witness_RingFormsAndChanges_7 : ∃ (s : State) (p : Fin 2) (k : Nat), k < 16 ∧ s.rd Reg.CASC_ERR_BLOCK_ERR 0 + k < 2 ^
    Reg.CASC_ERR_BLOCK_ERR.w :=
  ⟨{ regs [(Reg.CASC_PORT_STATUS_UP, 0, 1), (Reg.CASC_PORT_STATUS_UP, 1, 1), (Reg.CASC_CTRL_EN, 0, 1), (Reg.CASC_STATUS_STATE, 0, csMaster), (Reg.CASC_CELL_LISTED, 0, 1), (Reg.CASC_CELL_REACH, 0, 1)] with stack := { } }, 1, 15, by decide +kernel⟩

theorem witness_RingFormsAndChanges_8 : ∃ (s : State) (p : Fin 2) (q : BitVec 8) (n : Nat), s.flag Reg.CASC_PORT_STATUS_LOCK p
    = true :=
  ⟨State.set1 {} Reg.CASC_PORT_STATUS_LOCK 1, 1, 7, 4, by decide +kernel⟩

theorem witness_RingFormsAndChanges_9 : ∃ (s : State), s.cs = csMaster ∧ s.portUp 0 = true ∧ s.portUp 1 = true :=
  ⟨{ regs [(Reg.CASC_PORT_STATUS_UP, 0, 1), (Reg.CASC_PORT_STATUS_UP, 1, 1), (Reg.CASC_CTRL_EN, 0, 1), (Reg.CASC_STATUS_STATE, 0, csMaster), (Reg.CASC_CELL_LISTED, 0, 1), (Reg.CASC_CELL_REACH, 0, 1)] with stack := { } }, by decide +kernel⟩

theorem witness_RingFormsAndChanges_10 : ∃ (s : State) (p : Fin 2) (n : BitVec 64) (sh : Bool) (v h : Nat), s.portUp p = true
    ∧ s.isMaster = false ∧ s.portUp (1 - p.val) = true :=
  ⟨{ regs [(Reg.CASC_PORT_STATUS_UP, 0, 1), (Reg.CASC_PORT_STATUS_UP, 1, 1), (Reg.CASC_CTRL_EN, 0, 1), (Reg.GCTL_CELL_MASTER, 0, 0), (Reg.GCTL_CELL_CELL_NUM, 0, 3), (Reg.CASC_CFG_CELL_ID, 0, 3), (Reg.CASC_STATUS_STATE, 0, csMember)] with stack := { } }, 1, 5, true, 9, 0, by decide +kernel⟩

theorem witness_RingFormsAndChanges_11 : ∃ (s : State) (p : Fin 2) (n : BitVec 64) (sh : Bool) (v h : Nat), s.portUp p = true
    ∧ s.isMaster = false ∧ s.cs = csWait ∧ s.stack.masters = [] :=
  ⟨{ regs [(Reg.CASC_PORT_STATUS_UP, 0, 1), (Reg.CASC_PORT_STATUS_UP, 1, 1), (Reg.CASC_CTRL_EN, 0, 1), (Reg.GCTL_CELL_MASTER, 0, 0), (Reg.GCTL_CELL_CELL_NUM, 0, 3), (Reg.CASC_CFG_CELL_ID, 0, 3), (Reg.CASC_STATUS_STATE, 0, csWait)] with stack := { } }, 1, 5, true, 9, 0, by decide +kernel⟩

theorem witness_RingFormsAndChanges_12 : ∃ (s : State) (p : Fin 2) (n : BitVec 64) (sh : Bool) (v h : Nat), s.portUp p = true
    ∧ s.isMaster = true ∧ s.cs = csMaster ∧ n ≠ Config.serial :=
  ⟨{ regs [(Reg.CASC_PORT_STATUS_UP, 0, 1), (Reg.CASC_PORT_STATUS_UP, 1, 1), (Reg.CASC_CTRL_EN, 0, 1), (Reg.CASC_STATUS_STATE, 0, csMaster), (Reg.CASC_CELL_LISTED, 0, 1), (Reg.CASC_CELL_REACH, 0, 1)] with stack := { } }, 1, Config.serial + 1, true, 9, 0, by exact ⟨by decide +kernel, by decide +kernel, by decide +kernel, by bv_omega⟩⟩

theorem witness_RingFormsAndChanges_13 : ∃ (s : State) (p : Fin 2) (n : BitVec 64) (sh : Bool) (v h : Nat), s.portUp p = true
    :=
  ⟨{ regs [(Reg.CASC_PORT_STATUS_UP, 0, 1), (Reg.CASC_PORT_STATUS_UP, 1, 1), (Reg.CASC_CTRL_EN, 0, 1), (Reg.CASC_STATUS_STATE, 0, csMaster), (Reg.CASC_CELL_LISTED, 0, 1), (Reg.CASC_CELL_REACH, 0, 1)] with stack := { } }, 1, 5, true, 9, 0, by decide +kernel⟩

theorem witness_RingFormsAndChanges_14 : ∃ (s : State) (p : Fin 2) (h : Fin 8) (r : RingIn) (id x a b : Nat), s.cs = csMaster
    ∧ s.portUp p = true ∧ r.intact = true ∧ r.dst = s.cell ∧ r.src ≠ s.cell ∧ r.items = [id, x, a, b] ∧ 1 ≤ id ∧ id ≤ 7 ∧
    ((mfind s.stack.serials id = none ∨ mfind s.stack.serials id = some x)) :=
  ⟨{ regs [(Reg.CASC_PORT_STATUS_UP, 0, 1), (Reg.CASC_PORT_STATUS_UP, 1, 1), (Reg.CASC_CTRL_EN, 0, 1), (Reg.CASC_STATUS_STATE, 0, csMaster), (Reg.CASC_CELL_LISTED, 0, 1), (Reg.CASC_CELL_REACH, 0, 1)] with stack := { } }, 1, 2, { intact := true, dst := 0, src := 3, seq := 0, items := [3, 77, 4096, 128] }, 3, 77, 4096, 128, by decide +kernel⟩

theorem witness_RingFormsAndChanges_15 : ∃ (s : State) (p : Fin 2) (h : Fin 8) (r : RingIn) (id x y a b : Nat), s.cs =
    csMaster ∧ s.portUp p = true ∧ r.intact = true ∧ r.dst = s.cell ∧ r.src ≠ s.cell ∧ r.items = [id, x, a, b] ∧ 1 ≤ id ∧ id ≤
    7 ∧ mfind s.stack.serials id = some y ∧ y ≠ x :=
  ⟨{ regs [(Reg.CASC_PORT_STATUS_UP, 0, 1), (Reg.CASC_PORT_STATUS_UP, 1, 1), (Reg.CASC_CTRL_EN, 0, 1), (Reg.CASC_STATUS_STATE, 0, csMaster), (Reg.CASC_CELL_LISTED, 0, 1), (Reg.CASC_CELL_REACH, 0, 1)] with stack := { serials := [(3, 76)] } }, 1, 2, { intact := true, dst := 0, src := 3, seq := 0, items := [3, 77, 4096, 128] }, 3, 77, 76, 4096, 128, by decide +kernel⟩

theorem witness_RingFormsAndChanges_16 : ∃ (s : State) (p : Fin 2) (r : RingIn) (c : Nat), s.isMaster = false ∧ s.cs = csJoin
    ∧ r.intact = true ∧ r.items = [c] :=
  ⟨{ regs [(Reg.CASC_PORT_STATUS_UP, 0, 1), (Reg.CASC_PORT_STATUS_UP, 1, 1), (Reg.CASC_CTRL_EN, 0, 1), (Reg.GCTL_CELL_MASTER, 0, 0), (Reg.GCTL_CELL_CELL_NUM, 0, 3), (Reg.CASC_CFG_CELL_ID, 0, 3), (Reg.CASC_STATUS_STATE, 0, csJoin)] with stack := { } }, 1, { intact := true, dst := 3, src := 0, seq := 0, items := [2] }, 2, by decide +kernel⟩

theorem witness_RingFormsAndChanges_17 : ∃ (s : State) (p : Fin 2) (r : RingIn), s.isMaster = false ∧ s.cs = csJoin ∧ s.portUp
    p = true ∧ r.intact = true ∧ r.dst = s.cell ∧ r.src ≠ s.cell ∧ r.items.length ≠ 1 ∧ bitOf (r.items.getD s.cell 0) 28 =
    true :=
  ⟨{ regs [(Reg.CASC_PORT_STATUS_UP, 0, 1), (Reg.CASC_PORT_STATUS_UP, 1, 1), (Reg.CASC_CTRL_EN, 0, 1), (Reg.GCTL_CELL_MASTER, 0, 0), (Reg.GCTL_CELL_CELL_NUM, 0, 3), (Reg.CASC_CFG_CELL_ID, 0, 3), (Reg.CASC_STATUS_STATE, 0, csJoin)] with stack := { } }, 1, { intact := true, dst := 3, src := 0, seq := 0, items := [0x30000000, 0, 0, 0x31000000, 0, 0, 0, 0] }, by decide +kernel⟩

theorem witness_RingFormsAndChanges_18 : ∃ (s : State) (c : Fin 8), s.cs = csMaster ∧ c.val ≠ s.cell ∧ s.flag
    Reg.CASC_CELL_LISTED c = true ∧ s.flag Reg.CASC_CELL_REACH c = true :=
  ⟨{ regs [(Reg.CASC_PORT_STATUS_UP, 0, 1), (Reg.CASC_PORT_STATUS_UP, 1, 1), (Reg.CASC_CTRL_EN, 0, 1), (Reg.CASC_STATUS_STATE, 0, csMaster), (Reg.CASC_CELL_LISTED, 0, 1), (Reg.CASC_CELL_REACH, 0, 1), (Reg.CASC_CELL_LISTED, 3, 1), (Reg.CASC_CELL_REACH, 3, 1)] with stack := { } }, 3, by decide +kernel⟩

theorem witness_RingFormsAndChanges_19 : ∃ (s : State), s.isMaster = false ∧ s.stack.masterLost = false ∧ (s.cs = csMember ∨
    s.cs = csJoin) ∧ s.rd Reg.TIME_STATUS_STATE 0 ≠ dStack :=
  ⟨{ regs [(Reg.CASC_PORT_STATUS_UP, 0, 1), (Reg.CASC_PORT_STATUS_UP, 1, 1), (Reg.CASC_CTRL_EN, 0, 1), (Reg.GCTL_CELL_MASTER, 0, 0), (Reg.GCTL_CELL_CELL_NUM, 0, 3), (Reg.CASC_CFG_CELL_ID, 0, 3), (Reg.CASC_STATUS_STATE, 0, csMember), (Reg.CASC_CELL_REACH, 0, 1)] with stack := { } }, by decide +kernel⟩

theorem witness_RingFormsAndChanges_20 : ∃ (s : State), s.isMaster = false ∧ s.stack.masterLost = false ∧ (s.cs = csMember ∨
    s.cs = csJoin) ∧ s.rd Reg.TIME_STATUS_STATE 0 = dStack :=
  ⟨{ regs [(Reg.CASC_PORT_STATUS_UP, 0, 1), (Reg.CASC_PORT_STATUS_UP, 1, 1), (Reg.CASC_CTRL_EN, 0, 1), (Reg.GCTL_CELL_MASTER, 0, 0), (Reg.GCTL_CELL_CELL_NUM, 0, 3), (Reg.CASC_CFG_CELL_ID, 0, 3), (Reg.CASC_STATUS_STATE, 0, csMember), (Reg.TIME_STATUS_STATE, 0, dStack)] with stack := { } }, by decide +kernel⟩

theorem witness_RingFormsAndChanges_21 : ∃ (s : State), s.rd Reg.TIME_STATUS_STATE 0 = dStack :=
  ⟨{ regs [(Reg.CASC_PORT_STATUS_UP, 0, 1), (Reg.CASC_PORT_STATUS_UP, 1, 1), (Reg.CASC_CTRL_EN, 0, 1), (Reg.GCTL_CELL_MASTER, 0, 0), (Reg.GCTL_CELL_CELL_NUM, 0, 3), (Reg.CASC_CFG_CELL_ID, 0, 3), (Reg.CASC_STATUS_STATE, 0, csMember), (Reg.TIME_STATUS_STATE, 0, dStack)] with stack := { } }, by decide +kernel⟩

theorem witness_RingMessagesAct_1 : ∃ (s : State) (p : Fin 2) (m : Nat) (r : RingIn), s.portUp p = true ∧ r.intact = true ∧
    r.dst ≠ s.cell ∧ s.portUp (1 - p.val) = true :=
  ⟨{ regs [(Reg.CASC_PORT_STATUS_UP, 0, 1), (Reg.CASC_PORT_STATUS_UP, 1, 1), (Reg.CASC_CTRL_EN, 0, 1), (Reg.CASC_STATUS_STATE, 0, csMaster), (Reg.CASC_CELL_LISTED, 0, 1), (Reg.CASC_CELL_REACH, 0, 1)] with stack := { } }, 1, 6, { intact := true, dst := 5, src := 2, seq := 9, items := [4] }, by decide +kernel⟩

theorem witness_RingMessagesAct_2 : ∃ (s : State) (d : Fin 8) (m : RingMsg), s.stack.unacked.find? (fun m => m.dst == d.val &&
    m.sentAt.isSome) = some m :=
  ⟨{ regs [(Reg.CASC_PORT_STATUS_UP, 0, 1), (Reg.CASC_PORT_STATUS_UP, 1, 1), (Reg.CASC_CTRL_EN, 0, 1), (Reg.CASC_STATUS_STATE, 0, csMaster), (Reg.CASC_CELL_LISTED, 0, 1), (Reg.CASC_CELL_REACH, 0, 1)] with stack := { unacked := [{ dst := 3, mtype := 6, seq := 4, items := [], sentAt := some 2 }] } }, 3, { dst := 3, mtype := 6, seq := 4, items := [], sentAt := some 2 }, by decide +kernel⟩

theorem witness_RingMessagesAct_3 : ∃ (s : State) (p : Fin 2) (r : RingIn), s.portUp p = true ∧ r.intact = true ∧ r.dst =
    s.cell ∧ (∀ m ∈ s.stack.unacked, m.sentAt.isSome = true) :=
  ⟨{ regs [(Reg.CASC_PORT_STATUS_UP, 0, 1), (Reg.CASC_PORT_STATUS_UP, 1, 1), (Reg.CASC_CTRL_EN, 0, 1), (Reg.CASC_STATUS_STATE, 0, csMaster), (Reg.CASC_CELL_LISTED, 0, 1), (Reg.CASC_CELL_REACH, 0, 1)] with stack := { unacked := [{ dst := 3, mtype := 6, seq := 4, items := [], sentAt := some 2 }] } }, 1, { intact := true, dst := 0, src := 3, seq := 4, items := [] }, by decide +kernel⟩

theorem witness_RingMessagesAct_4 : ∃ (s : State) (p : Fin 2) (r : RingIn), s.portUp p = true ∧ s.cs ≠ csConflict ∧ s.cs ≠
    csOff ∧ r.intact = true ∧ r.dst = s.cell ∧ r.src ≠ s.cell ∧ r.seq ≠ mget 0 s.stack.rx r.src ∧ mhas s.stack.rx r.src = true
    :=
  ⟨{ regs [(Reg.CASC_PORT_STATUS_UP, 0, 1), (Reg.CASC_PORT_STATUS_UP, 1, 1), (Reg.CASC_CTRL_EN, 0, 1), (Reg.CASC_STATUS_STATE, 0, csMaster), (Reg.CASC_CELL_LISTED, 0, 1), (Reg.CASC_CELL_REACH, 0, 1)] with stack := { rx := [(2, 8)] } }, 1, { intact := true, dst := 0, src := 2, seq := 9, items := [0] }, by decide +kernel⟩

theorem witness_RingMessagesAct_5 : ∃ (s : State) (p : Fin 2) (r : RingIn), s.portUp p = true ∧ s.cs ≠ csConflict ∧ s.cs ≠
    csOff ∧ r.intact = true ∧ r.dst = s.cell ∧ r.src ≠ s.cell ∧ r.seq ≠ mget 0 s.stack.rx r.src ∧ mhas s.stack.rx r.src = true
    :=
  ⟨{ regs [(Reg.CASC_PORT_STATUS_UP, 0, 1), (Reg.CASC_PORT_STATUS_UP, 1, 1), (Reg.CASC_CTRL_EN, 0, 1), (Reg.CASC_STATUS_STATE, 0, csMaster), (Reg.CASC_CELL_LISTED, 0, 1), (Reg.CASC_CELL_REACH, 0, 1)] with stack := { rx := [(2, 8)] } }, 1, { intact := true, dst := 0, src := 2, seq := 9, items := [0] }, by decide +kernel⟩

theorem witness_RingMessagesAct_6 : ∃ (s : State) (p : Fin 2) (r : RingIn), s.portUp p = true ∧ s.cs ≠ csConflict ∧ s.cs ≠
    csOff ∧ r.intact = true ∧ r.dst = s.cell ∧ r.src ≠ s.cell ∧ r.seq ≠ mget 0 s.stack.rx r.src ∧ mhas s.stack.rx r.src = true
    :=
  ⟨{ regs [(Reg.CASC_PORT_STATUS_UP, 0, 1), (Reg.CASC_PORT_STATUS_UP, 1, 1), (Reg.CASC_CTRL_EN, 0, 1), (Reg.CASC_STATUS_STATE, 0, csMaster), (Reg.CASC_CELL_LISTED, 0, 1), (Reg.CASC_CELL_REACH, 0, 1)] with stack := { rx := [(2, 8)] } }, 1, { intact := true, dst := 0, src := 2, seq := 9, items := [0] }, by decide +kernel⟩

theorem witness_RingMessagesAct_7 : ∃ (s : State) (p : Fin 2) (r : RingIn), s.portUp p = true ∧ s.cs ≠ csConflict ∧ s.cs ≠
    csOff ∧ r.intact = true ∧ r.dst = s.cell ∧ r.src ≠ s.cell ∧ r.seq ≠ mget 0 s.stack.rx r.src ∧ mhas s.stack.rx r.src = true
    ∧ s.cmd? (r.items.getD 0 0) (r.items.getD 1 0) = none ∧ s.cmd? (65536 * (r.src + 1) + r.items.getD 0 0) (r.items.getD 1 0)
    = none :=
  ⟨{ regs [(Reg.CASC_PORT_STATUS_UP, 0, 1), (Reg.CASC_PORT_STATUS_UP, 1, 1), (Reg.CASC_CTRL_EN, 0, 1), (Reg.CASC_STATUS_STATE, 0, csMaster), (Reg.CASC_CELL_LISTED, 0, 1), (Reg.CASC_CELL_REACH, 0, 1)] with stack := { rx := [(2, 8)] } }, 1, { intact := true, dst := 0, src := 2, seq := 9, items := [0] }, by decide +kernel⟩

theorem witness_RingMessagesAct_8 : ∃ (s : State) (dt : Nat) (p : Fin 2) (o : BitVec 64) (a : BitVec 32) (l : Bool) (h :
    BitVec 3) (e : Fin 2001), s.isMaster = false ∧ s.portUp p = true ∧ s.portUp (1 - p.val) = true ∧ s.cs ≠ csMember :=
  ⟨{ regs [(Reg.CASC_PORT_STATUS_UP, 0, 1), (Reg.CASC_PORT_STATUS_UP, 1, 1), (Reg.CASC_CTRL_EN, 0, 1), (Reg.GCTL_CELL_MASTER, 0, 0), (Reg.GCTL_CELL_CELL_NUM, 0, 3), (Reg.CASC_CFG_CELL_ID, 0, 3), (Reg.CASC_STATUS_STATE, 0, csWait)] with stack := { } }, 9, 1, 4294967296, 500, true, 2, 700, by decide +kernel⟩

theorem witness_RingMessagesAct_9 : ∃ (s : State) (dt : Nat) (p : Fin 2) (o : BitVec 64) (a : BitVec 32) (l : Bool) (h :
    BitVec 3) (e : Fin 2001), s.isMaster = false ∧ s.portUp p = true ∧ s.cs = csMember ∧ (s.advance dt).syncBest p h.toNat =
    true ∧ timeValid o.toNat = true ∧ s.rd Reg.TIME_STATUS_STATE 0 ≠ dStack :=
  ⟨{ regs [(Reg.CASC_PORT_STATUS_UP, 0, 1), (Reg.CASC_PORT_STATUS_UP, 1, 1), (Reg.CASC_CTRL_EN, 0, 1), (Reg.GCTL_CELL_MASTER, 0, 0), (Reg.GCTL_CELL_CELL_NUM, 0, 3), (Reg.CASC_CFG_CELL_ID, 0, 3), (Reg.CASC_STATUS_STATE, 0, csMember)] with stack := { } }, 9, 1, 4294967296, 500, true, 2, 700, by decide +kernel⟩

theorem witness_RingMessagesAct_10 : ∃ (s : State) (dt : Nat) (p : Fin 2) (o : BitVec 64) (a : BitVec 32) (l : Bool) (h :
    BitVec 3) (e : Fin 2001), s.isMaster = false ∧ s.portUp p = true :=
  ⟨{ regs [(Reg.CASC_PORT_STATUS_UP, 0, 1), (Reg.CASC_PORT_STATUS_UP, 1, 1), (Reg.CASC_CTRL_EN, 0, 1), (Reg.GCTL_CELL_MASTER, 0, 0), (Reg.GCTL_CELL_CELL_NUM, 0, 3), (Reg.CASC_CFG_CELL_ID, 0, 3), (Reg.CASC_STATUS_STATE, 0, csMember)] with stack := { } }, 9, 1, 4294967296, 500, true, 2, 700, by decide +kernel⟩

theorem witness_RingMessagesAct_11 : ∃ (s : State) (p : Fin 2) (r : RingIn) (sq tag v a b f : Nat) (c : Cmd), s.portUp p =
    true ∧ s.cs ≠ csConflict ∧ s.cs ≠ csOff ∧ r.intact = true ∧ r.dst = s.cell ∧ r.src ≠ s.cell ∧ r.seq = mget 0 s.stack.rx
    r.src ∧ r.items = [1, sq, tag, v, a, b, f] ∧ s.cmd? sq tag = some c ∧ c.away = some r.src ∧ c.op ≠ opRead ∧ c.phase ≠
    .fixed ∧ c.local = true :=
  ⟨{ ({ regs [(Reg.CASC_PORT_STATUS_UP, 0, 1), (Reg.CASC_PORT_STATUS_UP, 1, 1), (Reg.CASC_CTRL_EN, 0, 1), (Reg.CASC_STATUS_STATE, 0, csMaster), (Reg.CASC_CELL_LISTED, 0, 1), (Reg.CASC_CELL_REACH, 0, 1)] with stack := { } } : State) with cmds := [{ cmdOf [(0, 0x12), (24, 65536)] with phase := .started, away := some 2 }] }, 1, { intact := true, dst := 0, src := 2, seq := 0, items := [1, 0, 0, 5, 1, 2, 3] }, 0, 0, 5, 1, 2, 3, { cmdOf [(0, 0x12), (24, 65536)] with phase := .started, away := some 2 }, by decide +kernel⟩

theorem witness_RingMessagesAct_12 : ∃ (s : State) (p : Fin 2) (r : RingIn) (k n : Nat), s.portUp p = true ∧ s.cs ≠ csConflict
    ∧ s.cs ≠ csOff ∧ r.intact = true ∧ r.dst = s.cell ∧ r.src ≠ s.cell ∧ r.seq = mget 0 s.stack.rx r.src ∧ r.items.getD 0 0 =
    0 ∧ s.mode = mBurn ∧ k = ofBytesLE ((upTo 8).flatMap fun i => bytesLE 8 (r.items.getD (5 + i) 0)) ∧ k % 256 = opFlush ∧
    (s.disc (aaddrDisc (bitsOf k 128 64))).loc = .station n ∧ (s.disc (aaddrDisc (bitsOf k 128 64))).mounted = true ∧ s.cmd?
    (65536 * (r.src + 1) + r.items.getD 1 0 % 65536) (r.items.getD 2 0) = none :=
  ⟨{ inMode ({ regs [(Reg.CASC_PORT_STATUS_UP, 0, 1), (Reg.CASC_PORT_STATUS_UP, 1, 1), (Reg.CASC_CTRL_EN, 0, 1), (Reg.CASC_STATUS_STATE, 0, csMaster), (Reg.CASC_CELL_LISTED, 0, 1), (Reg.CASC_CELL_REACH, 0, 1)] with stack := { } }) mBurn with discs := [(0, { known := true, loc := .station 3, mounted := true })] }, 1, { intact := true, dst := 0, src := 2, seq := 0, items := [0, 4, 7, 12, 0, 0x13, 0, 0, 0, 0, 0, 0, 0] }, 0x13, 3, by decide +kernel⟩

theorem witness_RingMessagesAct_13 : ∃ (s : State) (p : Fin 2) (r : RingIn) (c : Cmd), s.portUp p = true ∧ s.cs ≠ csConflict ∧
    s.cs ≠ csOff ∧ r.intact = true ∧ r.dst = s.cell ∧ r.src ≠ s.cell ∧ r.seq = mget 0 s.stack.rx r.src ∧ r.items.getD 0 0 = 2
    ∧ s.cmd? (65536 * (r.src + 1) + r.items.getD 1 0 % 65536) (r.items.getD 2 0) = some c ∧ c.phase = .waiting ∧ c.silent =
    false ∧ c.origin.isSome = true :=
  ⟨{ ({ regs [(Reg.CASC_PORT_STATUS_UP, 0, 1), (Reg.CASC_PORT_STATUS_UP, 1, 1), (Reg.CASC_CTRL_EN, 0, 1), (Reg.CASC_STATUS_STATE, 0, csMaster), (Reg.CASC_CELL_LISTED, 0, 1), (Reg.CASC_CELL_REACH, 0, 1)] with stack := { } } : State) with cmds := [{ cmdOf [(0, 0x13)] with sq := 196612, tag := 7, origin := some 2 }] }, 1, { intact := true, dst := 0, src := 2, seq := 0, items := [2, 4, 7] }, { cmdOf [(0, 0x13)] with sq := 196612, tag := 7, origin := some 2 }, by decide +kernel⟩

theorem witness_RingMessagesAct_14 : ∃ (s : State) (p : Fin 2) (r : RingIn) (sq tag i : Nat) (d : List Nat) (c : Cmd) (f :
    FrameReq), s.portUp p = true ∧ s.cs ≠ csConflict ∧ s.cs ≠ csOff ∧ r.intact = true ∧ r.dst = s.cell ∧ r.src ≠ s.cell ∧
    r.seq = mget 0 s.stack.rx r.src ∧ r.items = sq :: tag :: i :: 0 :: d ∧ i ≠ 65535 ∧ s.cmd? sq tag = some c ∧ c.away = some
    r.src ∧ c.inPlace = true ∧ c.frames[i]? = some f ∧ f.fate = .wanted :=
  ⟨{ ({ regs [(Reg.CASC_PORT_STATUS_UP, 0, 1), (Reg.CASC_PORT_STATUS_UP, 1, 1), (Reg.CASC_CTRL_EN, 0, 1), (Reg.CASC_STATUS_STATE, 0, csMaster), (Reg.CASC_CELL_LISTED, 0, 1), (Reg.CASC_CELL_REACH, 0, 1)] with stack := { } } : State) with cmds := [{ cmdOf [(0, 0x10), (1, 16), (24, 65536)] with phase := .started, away := some 2, frames := [{ zone := 0, index := 0, slot := 0, addr := hdmBase }] }] }, 1, { intact := true, dst := 0, src := 2, seq := 0, items := [0, 0, 0, 0, 5] }, 0, 0, 0, [5], { cmdOf [(0, 0x10), (1, 16), (24, 65536)] with phase := .started, away := some 2, frames := [{ zone := 0, index := 0, slot := 0, addr := hdmBase }] }, { zone := 0, index := 0, slot := 0, addr := hdmBase }, by decide +kernel⟩

theorem witness_RingMessagesAct_15 : ∃ (s : State) (p : Fin 2) (r : RingIn) (sq tag i v : Nat) (d : List Nat) (c : Cmd) (f :
    FrameReq), s.portUp p = true ∧ s.cs ≠ csConflict ∧ s.cs ≠ csOff ∧ r.intact = true ∧ r.dst = s.cell ∧ r.src ≠ s.cell ∧
    r.seq = mget 0 s.stack.rx r.src ∧ r.items = sq :: tag :: i :: v :: d ∧ v ≠ 0 ∧ i ≠ 65535 ∧ s.cmd? sq tag = some c ∧ c.away
    = some r.src ∧ c.frames[i]? = some f ∧ f.fate = .wanted :=
  ⟨{ ({ regs [(Reg.CASC_PORT_STATUS_UP, 0, 1), (Reg.CASC_PORT_STATUS_UP, 1, 1), (Reg.CASC_CTRL_EN, 0, 1), (Reg.CASC_STATUS_STATE, 0, csMaster), (Reg.CASC_CELL_LISTED, 0, 1), (Reg.CASC_CELL_REACH, 0, 1)] with stack := { } } : State) with cmds := [{ cmdOf [(0, 0x10), (1, 16), (24, 65536)] with phase := .started, away := some 2, frames := [{ zone := 0, index := 0, slot := 0, addr := hdmBase }] }] }, 1, { intact := true, dst := 0, src := 2, seq := 0, items := [0, 0, 0, 1, 5] }, 0, 0, 0, 1, [5], { cmdOf [(0, 0x10), (1, 16), (24, 65536)] with phase := .started, away := some 2, frames := [{ zone := 0, index := 0, slot := 0, addr := hdmBase }] }, { zone := 0, index := 0, slot := 0, addr := hdmBase }, by decide +kernel⟩

theorem witness_RingMessagesAct_16 : ∃ (s : State) (p : Fin 2) (r : RingIn) (d : Nat), s.portUp p = true ∧ s.cs ≠ csConflict ∧
    s.cs ≠ csOff ∧ r.intact = true ∧ r.dst = s.cell ∧ r.src ≠ s.cell ∧ r.seq = mget 0 s.stack.rx r.src ∧ r.items = [0, d] :=
  ⟨{ regs [(Reg.CASC_PORT_STATUS_UP, 0, 1), (Reg.CASC_PORT_STATUS_UP, 1, 1), (Reg.CASC_CTRL_EN, 0, 1), (Reg.CASC_STATUS_STATE, 0, csMaster), (Reg.CASC_CELL_LISTED, 0, 1), (Reg.CASC_CELL_REACH, 0, 1)] with stack := { } }, 1, { intact := true, dst := 0, src := 2, seq := 0, items := [0, 6] }, 6, by decide +kernel⟩

theorem witness_RingMessagesAct_17 : ∃ (s : State) (p : Fin 2) (r : RingIn) (d l c o m : Nat), s.portUp p = true ∧ s.cs ≠
    csConflict ∧ s.cs ≠ csOff ∧ r.intact = true ∧ r.dst = s.cell ∧ r.src ≠ s.cell ∧ r.seq = mget 0 s.stack.rx r.src ∧ r.items
    = [1, d, l, c, o, m] :=
  ⟨{ regs [(Reg.CASC_PORT_STATUS_UP, 0, 1), (Reg.CASC_PORT_STATUS_UP, 1, 1), (Reg.CASC_CTRL_EN, 0, 1), (Reg.CASC_STATUS_STATE, 0, csMaster), (Reg.CASC_CELL_LISTED, 0, 1), (Reg.CASC_CELL_REACH, 0, 1)] with stack := { } }, 1, { intact := true, dst := 0, src := 2, seq := 0, items := [1, 8198, 5, 2, 65535, 0] }, 8198, 5, 2, 65535, 0, by decide +kernel⟩

theorem witness_RingMessagesAct_18 : ∃ (s : State) (p : Fin 2) (r : RingIn) (d n v : Nat) (c : Cmd), s.portUp p = true ∧ s.cs
    ≠ csConflict ∧ s.cs ≠ csOff ∧ r.intact = true ∧ r.dst = s.cell ∧ r.src ≠ s.cell ∧ r.seq = mget 0 s.stack.rx r.src ∧
    r.items = [3, d, n, v] ∧ s.cmds.find? (fun c => c.op == opMount && c.disc == some d && c.phase == CmdPhase.started) = some
    c ∧ s.cmd? c.sq c.tag = some c ∧ c.local = true :=
  ⟨{ ({ regs [(Reg.CASC_PORT_STATUS_UP, 0, 1), (Reg.CASC_PORT_STATUS_UP, 1, 1), (Reg.CASC_CTRL_EN, 0, 1), (Reg.CASC_STATUS_STATE, 0, csMaster), (Reg.CASC_CELL_LISTED, 0, 1), (Reg.CASC_CELL_REACH, 0, 1)] with stack := { } } : State) with cmds := [{ cmdOf [(0, opMount)] with phase := .started, disc := some 5 }] }, 1, { intact := true, dst := 0, src := 2, seq := 0, items := [3, 5, 0, 7] }, 5, 0, 7, { cmdOf [(0, opMount)] with phase := .started, disc := some 5 }, by decide +kernel⟩

theorem witness_RingMessagesAct_19 : ∃ (s : State) (p : Fin 2) (r : RingIn) (k : Nat), s.portUp p = true ∧ s.cs ≠ csConflict ∧
    s.cs ≠ csOff ∧ r.intact = true ∧ r.dst = s.cell ∧ r.src ≠ s.cell ∧ r.seq = mget 0 s.stack.rx r.src ∧ r.items.getD 0 0 = 1
    ∧ s.mode = mBurn ∧ k = ofBytesLE ((upTo 8).flatMap fun i => bytesLE 8 (r.items.getD (5 + i) 0)) ∧ k % 256 = opMount ∧
    s.cmd? (65536 * (r.src + 1) + r.items.getD 1 0 % 65536) (r.items.getD 2 0) = none :=
  ⟨inMode ({ regs [(Reg.CASC_PORT_STATUS_UP, 0, 1), (Reg.CASC_PORT_STATUS_UP, 1, 1), (Reg.CASC_CTRL_EN, 0, 1), (Reg.CASC_STATUS_STATE, 0, csMaster), (Reg.CASC_CELL_LISTED, 0, 1), (Reg.CASC_CELL_REACH, 0, 1)] with stack := { } }) mBurn, 1, { intact := true, dst := 0, src := 2, seq := 0, items := [1, 4, 7, 12, 0, 0x20, 0, 0, 0, 0, 0, 0, 0] }, 0x20, by decide +kernel⟩

theorem witness_RingMessagesAct_20 : ∃ (s : State) (p : Fin 2) (r : RingIn) (d n : Nat), s.portUp p = true ∧ s.cs ≠ csConflict
    ∧ s.cs ≠ csOff ∧ r.intact = true ∧ r.dst = s.cell ∧ r.src ≠ s.cell ∧ r.seq = mget 0 s.stack.rx r.src ∧ r.items = [2, d, n]
    ∧ s.mode ≠ mCinder :=
  ⟨{ regs [(Reg.CASC_PORT_STATUS_UP, 0, 1), (Reg.CASC_PORT_STATUS_UP, 1, 1), (Reg.CASC_CTRL_EN, 0, 1), (Reg.CASC_STATUS_STATE, 0, csMaster), (Reg.CASC_CELL_LISTED, 0, 1), (Reg.CASC_CELL_REACH, 0, 1)] with stack := { } }, 1, { intact := true, dst := 0, src := 2, seq := 0, items := [2, 8198, 5] }, 8198, 5, by decide +kernel⟩

theorem witness_RingMessagesAct_21 : ∃ (s : State) (p : Fin 2) (r : RingIn) (d : Nat), s.portUp p = true ∧ s.cs ≠ csConflict ∧
    s.cs ≠ csOff ∧ r.intact = true ∧ r.dst = s.cell ∧ r.src ≠ s.cell ∧ r.seq = mget 0 s.stack.rx r.src ∧ r.items = [7, d] :=
  ⟨{ regs [(Reg.CASC_PORT_STATUS_UP, 0, 1), (Reg.CASC_PORT_STATUS_UP, 1, 1), (Reg.CASC_CTRL_EN, 0, 1), (Reg.CASC_STATUS_STATE, 0, csMaster), (Reg.CASC_CELL_LISTED, 0, 1), (Reg.CASC_CELL_REACH, 0, 1)] with stack := { } }, 1, { intact := true, dst := 0, src := 2, seq := 0, items := [7, 6] }, 6, by decide +kernel⟩

theorem witness_RingMessagesAct_22 : ∃ (s : State) (p : Fin 2) (r : RingIn) (d e : Nat), s.portUp p = true ∧ s.cs ≠ csConflict
    ∧ s.cs ≠ csOff ∧ r.intact = true ∧ r.dst = s.cell ∧ r.src ≠ s.cell ∧ r.seq = mget 0 s.stack.rx r.src ∧ r.items = [6, d, e]
    :=
  ⟨{ regs [(Reg.CASC_PORT_STATUS_UP, 0, 1), (Reg.CASC_PORT_STATUS_UP, 1, 1), (Reg.CASC_CTRL_EN, 0, 1), (Reg.CASC_STATUS_STATE, 0, csMaster), (Reg.CASC_CELL_LISTED, 0, 1), (Reg.CASC_CELL_REACH, 0, 1)] with stack := { } }, 1, { intact := true, dst := 0, src := 2, seq := 0, items := [6, 5, 77] }, 5, 77, by decide +kernel⟩

theorem witness_RingMessagesAct_23 : ∃ (s : State) (sq tag x : Nat) (c : Cmd), s.cmd? sq tag = some c ∧ (c.needs s.cell).find?
    (fun x => !s.reach x) = some x ∧ c.phase ≠ .fixed ∧ c.local = true ∧ c.op ≠ opWrite :=
  ⟨{ ({ regs [(Reg.CASC_PORT_STATUS_UP, 0, 1), (Reg.CASC_PORT_STATUS_UP, 1, 1), (Reg.CASC_CTRL_EN, 0, 1), (Reg.CASC_STATUS_STATE, 0, csMaster), (Reg.CASC_CELL_LISTED, 0, 1), (Reg.CASC_CELL_REACH, 0, 1)] with stack := { } } : State) with cmds := [{ cmdOf [(0, 0x12), (24, 65536)] with phase := .started, away := some 2 }] }, 0, 0, 2, { cmdOf [(0, 0x12), (24, 65536)] with phase := .started, away := some 2 }, by decide +kernel⟩

theorem witness_RingMessagesAct_24 : ∃ (s : State) (c : Fin 8), s.reach c = true ∧ c.val ≠ s.cell :=
  ⟨{ regs [(Reg.CASC_PORT_STATUS_UP, 0, 1), (Reg.CASC_PORT_STATUS_UP, 1, 1), (Reg.CASC_CTRL_EN, 0, 1), (Reg.CASC_STATUS_STATE, 0, csMaster), (Reg.CASC_CELL_LISTED, 0, 1), (Reg.CASC_CELL_REACH, 0, 1), (Reg.CASC_CELL_REACH, 2, 1)] with stack := { proxies := [{ cell := 2, word := 9 }], lateLocs := [(8193, 5)] } }, 2, by decide +kernel⟩

theorem witness_CalibrationRuns_1 : ∃ (s : State) (k : Fin 3) (i : Fin 256), s.calOn k = true ∧ s.calMode = true ∧ calInst k i
    = true ∧ ((s.cal k i).armed || s.calWarm k i) = true :=
  ⟨{ cals := [(0, { armed := true })] }, 0, 0, by decide +kernel⟩

theorem witness_CalibrationRuns_2 : ∃ (s : State) (k : Fin 3) (i : Fin 256) (d : Nat), s.calOn k = true ∧ s.calMode = true ∧
    calInst k i = true ∧ (s.cal k i).doneAt = some d ∧ s.rd Reg.CAL_CFG_MAX_H 0 ≠ 0 ∧ ((s.cal k i).armed || s.calWarm k i) =
    false :=
  ⟨{ cals := [(0, { doneAt := some 4 })] }, 0, 0, 4, by decide +kernel⟩

theorem witness_CalibrationRuns_3 : ∃ (s : State), s.calMode = true :=
  ⟨{}, by decide +kernel⟩

theorem witness_CalibrationRuns_4 : ∃ (s : State) (p : Fin 130) (x y : List Nat), (s.cal 0 p).pending = true ∧ (s.cal 0
    p).running = false ∧ s.calMode = true ∧ s.calPortUp p = true ∧ s.enginesUsed < 16 ∧ ((upTo 128).any fun n => mhas s.stns n
    && s.retriable n && decide ((s.stn n).dueAt ≤ s.now)) = false :=
  ⟨{ State.setPort {} 3 lkActive with cals := [(3, { pending := true })] }, 3, [9, 1], [60], by decide +kernel⟩

theorem witness_CalibrationRuns_6 : ∃ (s : State) (p : Fin 130), (s.cal 0 p).running = true ∧ (s.cal 0 p).staged ≠ [] :=
  ⟨{ cals := [(3, { running := true, staged := (upTo 16) })] }, 3, by decide +kernel⟩

theorem witness_CalibrationRuns_7 : ∃ (s : State) (n : Fin 128) (a : Fin 2) (sl : Nat), s.headSlice (headOf n a) = some sl ∧
    (s.cal 1 (headOf n a)).running = true ∧ (s.cal 1 (headOf n a)).staged = [] ∧ s.rd1 Reg.CAL_SLICE_CFG_FRAMES 0 ≤ (s.cal 1
    (headOf n a)).frames :=
  ⟨{ cals := [(518, { running := true, frames := 100, sums := [4, 100, 10, 5, 100, 10] })], slices := [(2, { head := some 6 })] }, 3, 0, 2, by decide +kernel⟩

theorem witness_CalibrationRuns_8 : ∃ (s : State) (n : Fin 128) (a : Fin 2) (sl : Nat), s.headSlice (headOf n a) = some sl ∧
    (s.cal 1 (headOf n a)).running = true ∧ (s.cal 1 (headOf n a)).staged ≠ [] :=
  ⟨{ cals := [(518, { running := true, staged := [1, 2, 3, 4] })], slices := [(2, { head := some 6 })] }, 3, 0, 2, by decide +kernel⟩

theorem witness_CalibrationRuns_9 : ∃ (s : State) (n : Fin 128) (a : Fin 2) (sl : Nat), s.headSlice (headOf n a) = some sl ∧
    (s.cal 2 (headOf n a)).running = false ∧ (s.cal 2 (headOf n a)).pending = true ∧ s.rd1 Reg.CAL_SLICE_CFG_FRAMES 0 ≤
    (s.slice sl).trimFrames :=
  ⟨{ cals := [(1030, { pending := true })], slices := [(2, { head := some 6, trimFrames := 100000 })] }, 3, 0, 2, by decide +kernel⟩

theorem witness_CalibrationRuns_10 : ∃ (s : State) (n : Fin 128) (a : Fin 2), (s.cal 2 (headOf n a)).running = true ∧ (s.cal 2
    (headOf n a)).staged ≠ [] ∧ s.flag Reg.STN_HD_STATUS_WRITING (headOf n a) = false :=
  ⟨{ cals := [(1030, { running := true, staged := [77] })] }, 3, 0, by decide +kernel⟩

theorem witness_CalibrationRuns_11 : ∃ (s : State) (k : Fin 3) (i : Fin 256), s.flag Reg.CAL_CTRL_STORE_EN 0 = true ∧ s.fwRuns
    = true ∧ s.firm.booting = false ∧ s.flash.prog = none ∧ s.flash.pfDue = false ∧ (s.cal k i).value ≠ [] ∧ (s.cal k
    i).storedAt = none ∧ s.calib (calRecord k i (s.cal k i).value).1 ≠ some (calRecord k i (s.cal k i).value).2 ∧
    s.appendCalib (calRecord k i (s.cal k i).value).1 (calRecord k i (s.cal k i).value).2 ≠ none :=
  ⟨{ regs [(Reg.CAL_CTRL_STORE_EN, 0, 1)] with firm := { booting := false }, cals := [(3, { value := [5] })] }, 0, 3, by decide +kernel⟩

theorem witness_RegisterWritesActByType_5 : ∃ (s : State) (src : Src) (d : Nat), s.flag Reg.CASC_CTRL_EN 0 = true :=
  ⟨State.set1 {} Reg.CASC_CTRL_EN 0, .host, 7, by decide +kernel⟩

theorem witness_RegisterWritesActByType_9 : ∃ (s : State) (src : Src) (a : BitVec 26) (l : Fin 65) (d b : Nat), wholeRegs
    a.toNat l.val = [] ∧ firstReserved a.toNat l.val = some b :=
  ⟨{}, .host, 0xA80000, 4, 7, 0xA80000, by decide +kernel⟩

theorem witness_RegisterWritesActByType_10 : ∃ (s : State) (src : Src) (a : BitVec 26) (l : Fin 65) (d : Nat), 0x1800000 ≤
    a.toNat ∧ a.toNat + l.val ≤ 0x1810000 :=
  ⟨{}, .host, 0x1800000, 4, 7, by decide +kernel⟩

end Sys2Proof.Tests
end

section
/-!
PROOF. A blown seal stays blown (O6), and every command keeps its frame (O9): both follow from what every command keeps, `exec_keeps`.
-/

set_option Elab.async false

namespace Sys2Proof.Machine

/-! ### One step -/

/-- Nothing unseals. -/
theorem Keeps.sealed {m : Nat} {s t : State} (h : Keeps m s t) (hs : s.sealed = true) : t.sealed = true := by
  obtain ⟨_, _, _, hseal, _⟩ := h
  exact hseal hs

theorem State.idle_keeps (s : State) : Keeps (State.advance_mask ||| State.coarse_mask) s s.idle := by
  unfold State.idle
  refine Keeps.ite (Keeps.refl _ _) (Keeps.ite ?_ ?_)
  · exact Keeps.step (State.advance_keeps ..) (Keeps.refl _ _)
  · exact Keeps.step (State.coarse_keeps ..) (Keeps.refl _ _)

/-- A step idles on an empty queue, and else carries out the command in front with the queue's rest. -/
theorem step_cases {s t : State} (h : step s = .next t) :
    (s.pending = [] ∧ t = s.idle) ∨ ∃ c rest, s.pending = c :: rest ∧ exec c { s with pending := rest } = .next t := by
  unfold step at h
  split at h
  · next hp => cases h; exact .inl ⟨hp, rfl⟩
  · next c rest hp => exact .inr ⟨c, rest, hp, h⟩

/-! ### What a mask of fields and parts says -/

theorem bits_testBit (l : List Nat) (k : Nat) : (bits l).testBit k = true ↔ k ∈ l := by
  have hfold (m : Nat) : (l.foldl (fun m i => m ||| 1 <<< i) m).testBit k = true ↔ m.testBit k = true ∨ k ∈ l := by
    induction l generalizing m with
    | nil => simp
    | cons i r ih =>
      rw [List.foldl_cons, ih, Nat.testBit_or, Nat.one_shiftLeft, Nat.testBit_two_pow, List.mem_cons, Bool.or_eq_true,
        decide_eq_true_iff, or_assoc, eq_comm (a := i)]
  rw [bits, hfold, Nat.zero_testBit]
  simp

/-- The bits of register fields, by number. -/
def idBits (l : List Fld) : Nat := bits (l.map Fld.id)

/-- The bits of parts, by number. -/
def idxBits (l : List Part) : Nat := bits (l.map Part.ctorIdx)

theorem Reg.table_id_lt : ∀ f ∈ Reg.table, f.id < 8192 := by decide +kernel

/-- The bits of register fields in a mask lie within a frame: those beside the frame belong to no field of the register table. -/
def FieldsWithin (m : Nat) (fs : List Fld) : Prop := m % 2 ^ 8192 &&& idBits Reg.table ||| idBits fs = idBits fs

theorem FieldsWithin.of_no_bit_beside {m : Nat} {fs : List Fld} (h : m % 2 ^ 8192 ||| idBits fs = idBits fs) : FieldsWithin m fs := by
  rw [FieldsWithin, Nat.or_and_distrib_right, h]
  exact Nat.eq_of_testBit_eq fun i => by simp +contextual

/-- A mask within a frame leaves every field of the register table outside the frame alone. -/
theorem FieldsWithin.outside {m : Nat} {fs : List Fld} (hm : FieldsWithin m fs) {f : Fld} (ht : f ∈ Reg.table)
    (hf : f.id ∉ fs.map Fld.id) : m.testBit (f.id % 8192) = false := by
  have hlt := Reg.table_id_lt f ht
  rw [Nat.mod_eq_of_lt hlt, Bool.eq_false_iff]
  intro hbit
  refine hf ((bits_testBit _ _).1 (testBit_super hm ?_))
  rw [Nat.testBit_and, Nat.testBit_mod_two_pow, hbit, decide_eq_true hlt, Bool.true_and, Bool.true_and]
  exact (bits_testBit _ _).2 (List.mem_map_of_mem ht)

/-- A mask whose bits of parts lie among those of some parts leaves every other part alone. -/
theorem part_outside_mask {m : Nat} {ps : List Part} (hm : m >>> 8192 % 2 ^ 48 ||| idxBits ps = idxBits ps) {p : Part} (hp : p ∉ ps) :
    m.testBit p.bit = false := by
  have hlt : p.ctorIdx < 48 := by cases p <;> decide
  rw [Bool.eq_false_iff]
  intro hbit
  have hmem : p.ctorIdx ∈ ps.map Part.ctorIdx := by
    refine (bits_testBit _ _).1 (testBit_super hm ?_)
    rw [Nat.testBit_mod_two_pow, Nat.testBit_shiftRight, decide_eq_true hlt, Bool.true_and]
    exact hbit
  obtain ⟨q, hq, hpq⟩ := List.mem_map.1 hmem
  have hqp : q = p := by rw [← Part.ofNat_ctorIdx q, hpq, Part.ofNat_ctorIdx]
  exact hp (hqp ▸ hq)

/-! ### The mask of a command lies within its frame -/

/-- The frame of a command is the whole register table or holds every field of its mask; the resets of whole blocks have bits in
their masks that belong to no field. -/
theorem execMask_fields (c : Instr) : frameFields c = Reg.table ∨ FieldsWithin (execMask c) (frameFields c) := by
  cases c
  case registerWrite | resetTakesEffect | porstAssert | slotVerify => exact .inl rfl
  case hostEndpointReset | modeTransitionDone =>
    refine .inr ?_
    dsimp only [execMask, frameFields, FieldsWithin]
    decide +kernel
  all_goals
    refine .inr (.of_no_bit_beside ?_)
    dsimp only [execMask, frameFields]
    decide +kernel

/-- A command changes no part of the state outside its frame: its mask has no part's bit beside it. -/
theorem execMask_parts (c : Instr) : execMask c >>> 8192 % 2 ^ 48 ||| idxBits (frameParts c) = idxBits (frameParts c) := by
  cases c
  all_goals
    dsimp only [execMask, frameParts]
    decide +kernel

theorem execMask_field {c : Instr} {f : Fld} (ht : f ∈ Reg.table) (hf : f.id ∉ (frameFields c).map Fld.id) :
    (execMask c).testBit (f.id % 8192) = false := by
  obtain hall | hm := execMask_fields c
  · exact absurd (List.mem_map_of_mem ht) (hall ▸ hf)
  · exact hm.outside ht hf

/-! ### The statements -/

/-- Settles O6: a command keeps the seal (`exec_keeps`), and a step is a command or an idle cycle. -/
theorem sealStaysBlown : Obligations.SealStaysBlown := by
  unfold Obligations.SealStaysBlown
  have hexec (c : Instr) (s t : State) (hs : s.sealed = true) (h : exec c s = .next t) : t.sealed = true :=
    (exec_keeps c s t h).sealed hs
  refine ⟨hexec, fun s t hs h => ?_⟩
  obtain ⟨_, rfl⟩ | ⟨c, rest, _, h⟩ := step_cases h
  · exact s.idle_keeps.sealed hs
  · exact hexec c { s with pending := rest } t hs h

/-- Settles O9: what a command may change is its mask (`exec_keeps`), and the mask lies within the frame. -/
theorem everyCommandKeepsItsFrame : Obligations.EveryCommandKeepsItsFrame := by
  unfold Obligations.EveryCommandKeepsItsFrame
  intro c s t h
  have hk : Keeps (execMask c) s t := exec_keeps c s t h
  exact ⟨fun f ht hf i => hk.rd f i (execMask_field ht hf), fun p hp => hk.part p (part_outside_mask (execMask_parts c) hp)⟩

end Sys2Proof.Machine
end

section
/-!
PROOF. REGISTER_WRITE (O60): which registers a write covers, what a field's type lets a write do, and the writes that change nothing.
-/

set_option Elab.async false

namespace Sys2Proof.Machine

/-! ### Bits of numbers -/

theorem bitOf_eq_testBit (x i : Nat) : bitOf x i = x.testBit i := by
  rw [bitOf, Nat.shiftRight_eq_div_pow, Nat.testBit_eq_decide_div_mod_eq]
  rfl

theorem testBit_bitsOf (x lo w i : Nat) : (bitsOf x lo w).testBit i = (decide (i < w) && x.testBit (lo + i)) := by
  rw [bitsOf, Nat.testBit_mod_two_pow, Nat.testBit_shiftRight]

/-- Bits of the low bits of a number are bits of the number. -/
theorem bitsOf_bitsOf_zero {x n lo w : Nat} (h : lo + w ≤ n) : bitsOf (bitsOf x 0 n) lo w = bitsOf x lo w := by
  refine Nat.eq_of_testBit_eq fun i => ?_
  simp only [testBit_bitsOf, Nat.zero_add]
  by_cases hi : i < w
  · rw [decide_eq_true (show lo + i < n by omega), Bool.true_and]
  · rw [decide_eq_false hi, Bool.false_and, Bool.false_and]

theorem bitOf_bitsOf_zero {x n i : Nat} (h : i < n) : bitOf (bitsOf x 0 n) i = bitOf x i := by
  rw [bitOf_eq_testBit, bitOf_eq_testBit, testBit_bitsOf, decide_eq_true h, Bool.true_and, Nat.zero_add]

theorem bitsOf_mod (x lo w : Nat) : bitsOf x lo w % 2 ^ w = bitsOf x lo w := Nat.mod_mod _ _

/-- Taking the bits of v from x clears exactly those. -/
theorem testBit_sub_and (x v i : Nat) : (x - (x &&& v)).testBit i = (x.testBit i && !v.testBit i) := by
  induction i generalizing x v with
  | zero =>
    have hle : x &&& v ≤ x := Nat.and_le_left
    have hmod : (x &&& v) % 2 = 1 ↔ x % 2 = 1 ∧ v % 2 = 1 := Nat.and_mod_two_eq_one
    simp only [Nat.testBit_zero, ← decide_not, ← Bool.decide_and, decide_eq_decide]
    omega
  | succ i ih =>
    have hle : x &&& v ≤ x := Nat.and_le_left
    have hmod : (x &&& v) % 2 = 1 ↔ x % 2 = 1 ∧ v % 2 = 1 := Nat.and_mod_two_eq_one
    have hhalf : (x - (x &&& v)) / 2 = x / 2 - (x / 2 &&& v / 2) := by
      rw [← Nat.and_div_two]
      omega
    rw [Nat.testBit_add_one, hhalf, ih, Nat.testBit_add_one, Nat.testBit_add_one]

/-! ### What changes, field by field -/

theorem State.onlyChanges.refl (s : State) (fs : List Fld) (ps : List Part) : s.onlyChanges s fs ps :=
  ⟨fun _ _ _ _ => rfl, fun p _ => p.same_refl s⟩

/-- A field of the list is written. -/
theorem State.onlyChanges.wr {s t : State} {fs : List Fld} {ps : List Part} (h : s.onlyChanges t fs ps) {f : Fld} (hf : f ∈ fs)
    (hlt : f.id < 8192) (i v : Nat) : s.onlyChanges (t.wr f i v) fs ps := by
  obtain ⟨hregs, hparts⟩ := h
  refine ⟨fun g hg hgf j => ?_, fun p hp => ?_⟩
  · have hne : f.id ≠ g.id := fun e => hgf (e ▸ List.mem_map_of_mem hf)
    rw [State.rd_wr_ne, hregs g hg hgf]
    rwa [Nat.mod_eq_of_lt hlt, Nat.mod_eq_of_lt (Reg.table_id_lt g hg)]
  · have hsame : p.same t (t.wr f i v) := by cases p <;> rfl
    exact p.same_trans (hparts p hp) hsame

/-- What is kept of TIME beside its value changes. -/
theorem State.onlyChanges.set_tb {s t : State} {fs : List Fld} {ps : List Part} (h : s.onlyChanges t fs ps) (hp : Part.tb ∈ ps)
    (x : Timebase) : s.onlyChanges { t with tb := x } fs ps := by
  obtain ⟨hregs, hparts⟩ := h
  refine ⟨hregs, fun p hnp => p.same_trans (hparts p hnp) ?_⟩
  cases p
  case tb => exact absurd hp hnp
  all_goals rfl

/-! ### Which registers a write covers -/

/-- A write that covers one register and no reserved byte writes that register. -/
theorem exec_registerWrite_of_one {s : State} {src : Src} {a : BitVec 26} {l : Fin 65} {d r w : Nat}
    (hw : wholeRegs a.toNat l.val = [(r, w)]) (hr : firstReserved a.toNat l.val = none) :
    exec (.registerWrite src a l d) s = .next (s.writeReg src r (bitsOf d (8 * (r - a.toNat)) (8 * w))) := by
  simp only [exec, execRegisterWrite, hw, hr, List.foldl_cons, List.foldl_nil]

/-- A write that covers no register and no reserved byte changes nothing. -/
theorem exec_registerWrite_of_none {s : State} {src : Src} {a : BitVec 26} {l : Fin 65} {d : Nat}
    (hw : wholeRegs a.toNat l.val = []) (hr : firstReserved a.toNat l.val = none) :
    exec (.registerWrite src a l d) s = .next s := by
  simp only [exec, execRegisterWrite, hw, hr, List.foldl_nil]

/-- A write that covers no register but a reserved byte is counted (R18, R19). -/
theorem exec_registerWrite_of_reserved {s : State} {src : Src} {a : BitVec 26} {l : Fin 65} {d b : Nat}
    (hw : wholeRegs a.toNat l.val = []) (hr : firstReserved a.toNat l.val = some b) :
    exec (.registerWrite src a l d) s = .next (s.raiseWin 0x0801 0 [b, 1] true) := by
  simp only [exec, execRegisterWrite, hw, hr, List.foldl_nil]

/-- An offset at which a register of plain fields begins: no doorbell, no descriptor, no field that starts an operation. -/
def plainReg (r : Nat) : Bool :=
  !isDoorbell r && !decide (0xC00000 ≤ r ∧ r < 0xC20000) && (fieldsAt r).all fun p => p.1.ty != .w1s

/-- A register of plain fields is written field by field. -/
theorem State.writeReg_of_plainReg {r : Nat} (h : plainReg r = true) (s : State) (src : Src) (v : Nat) :
    s.writeReg src r v = (fieldsAt r).foldl (fun t p => t.writeField src p.1 p.2 v) s := by
  simp only [plainReg, Bool.and_eq_true, Bool.not_eq_true', decide_eq_false_iff_not] at h
  obtain ⟨⟨hdoor, hdesc⟩, hty⟩ := h
  have hall := List.all_eq_true.1 hty
  have hnone : (fieldsAt r).filter (fun p => p.1.ty == .w1s) = [] :=
    List.filter_eq_nil_iff.2 fun p hp => by simpa using hall p hp
  rw [State.writeReg, hdoor, if_neg Bool.false_ne_true, if_neg hdesc]
  dsimp only
  rw [hnone, List.filter_eq_self.2 hall, List.foldl_nil]

/-! ### Writes that change nothing -/

theorem State.writeField_of_shut {s : State} {src : Src} {f : Fld} {i : Nat} (h : s.shut src f i = true) (v : Nat) :
    s.writeField src f i v = s := by
  rw [State.writeField]
  exact if_pos h

/-- The DMA, FLC and cache maintenance registers take no write from the host link (R708, R767, R769). -/
theorem State.shut_of_hostBarred (s : State) {f : Fld} (h : hostBarred f = true) (i : Nat) : s.shut .host f i = true := by
  simp [State.shut, h]

/-- CASC_CFG is locked while the ring is enabled (R14). -/
theorem State.shut_of_cascade {s : State} (h : s.flag Reg.CASC_CTRL_EN 0 = true) (src : Src) {f : Fld}
    (hf : ([Reg.CASC_CFG_SHARED_LIB, Reg.CASC_CFG_CELL_ID].any fun g => g.id == f.id) = true) (i : Nat) : s.shut src f i = true := by
  simp only [State.shut, h, hf, Bool.true_or, Bool.and_self, Bool.or_true]

/-- A field whose write may be a row of the table of its own. -/
def hasRow (f : Fld) : Bool := f.same Reg.LIB_CTRL_EN || f.same Reg.CASC_CTRL_EN || f.same Reg.MSIX_VCTRL_MASK || ownRow.any f.same

theorem rowOfOwn_of_not_hasRow {f : Fld} (h : hasRow f = false) (v : Nat) : rowOfOwn f v = false := by
  simp only [hasRow, Bool.or_eq_false_iff] at h
  obtain ⟨⟨⟨hlib, hcasc⟩, hmask⟩, hown⟩ := h
  simp only [rowOfOwn, hlib, hcasc, hmask, hown, Bool.or_self, Bool.false_eq_true, if_false]

/-- A write to a read-only field is ignored (R12). -/
theorem State.writeField_of_readOnly (s : State) (src : Src) {f : Fld} (ht : f.ty = .ro) (h : hasRow f = false) (i v : Nat) :
    s.writeField src f i v = s := by
  simp only [State.writeField, rowOfOwn_of_not_hasRow h, ht, Bool.false_eq_true, if_false, ite_self]

/-- A write of one register changes nothing when it changes none of its fields. -/
theorem State.gives_self_of_fields {s : State} {src : Src} {a : BitVec 26} {l : Fin 65} {d r w : Nat}
    (hw : wholeRegs a.toNat l.val = [(r, w)]) (hr : firstReserved a.toNat l.val = none) (hp : plainReg r = true)
    (hf : ∀ p ∈ fieldsAt r, ∀ v, s.writeField src p.1 p.2 v = s) : s.gives (.registerWrite src a l d) fun t => t = s := by
  refine ⟨_, exec_registerWrite_of_one hw hr, ?_⟩
  rw [State.writeReg_of_plainReg hp]
  exact List.foldlRecOn (motive := fun t => t = s) _ _ rfl fun t ht p hmem => by rw [ht]; exact hf p hmem _

/-- A write from the host link to a register whose fields it may not write changes nothing. -/
theorem State.gives_self_of_hostBarred {s : State} {a : BitVec 26} {l : Fin 65} {d r w : Nat}
    (hw : wholeRegs a.toNat l.val = [(r, w)]) (hr : firstReserved a.toNat l.val = none) (hp : plainReg r = true)
    (hb : ((fieldsAt r).all fun p => hostBarred p.1) = true) : s.gives (.registerWrite .host a l d) fun t => t = s :=
  State.gives_self_of_fields hw hr hp fun _ hmem _ =>
    State.writeField_of_shut (s.shut_of_hostBarred (List.all_eq_true.1 hb _ hmem) _) _

/-! ### The CXL component registers (R40, R576) -/

/-- How far beyond a field's base its dimensions can reach. -/
def dimsSpan : List (Nat × Nat) → Nat
  | [] => 0
  | (n, st) :: r => (n - 1) * st + dimsSpan r

theorem dimsIndex_isNone {dims : List (Nat × Nat)} {rel : Nat} (h : dimsSpan dims < rel) (acc : Nat) : dimsIndex dims rel acc = none := by
  induction dims generalizing rel acc with
  | nil => exact if_neg (Nat.ne_of_gt h)
  | cons p r ih =>
    obtain ⟨n, st⟩ := p
    simp only [dimsIndex]
    split
    · next hj =>
      refine ih ?_ _
      have hdiv : st * (rel / st) + rel % st = rel := Nat.div_add_mod rel st
      have hle : st * (rel / st) ≤ st * (n - 1) := Nat.mul_le_mul_left st (Nat.le_sub_one_of_lt hj)
      simp only [dimsSpan, Nat.mul_comm (n - 1) st] at h
      omega
    · rfl

/-- No register of a field begins beyond the span of its dimensions. -/
theorem Fld.indexAt_isNone {f : Fld} {a : Nat} (hbase : f.base + dimsSpan f.dims < a) (halt : f.alt.2 + dimsSpan f.dims < a) :
    f.indexAt a = none := by
  have hb : dimsIndex f.dims (a - f.base) 0 = none := dimsIndex_isNone (by omega) 0
  have h2 : dimsIndex f.dims (a - f.alt.2) 0 = none := dimsIndex_isNone (by omega) 0
  unfold Fld.indexAt
  split
  · rw [hb, ite_self]
  · next n b2 heq =>
    rw [heq] at h2
    simp only [hb, h2, ite_self]

/-- No register of the table reaches the CXL component registers. -/
theorem Reg.table_below_component :
    ∀ f ∈ Reg.table, f.base + dimsSpan f.dims < 0x1800000 ∧ f.alt.2 + dimsSpan f.dims < 0x1800000 := by decide +kernel

theorem widthAt_component {a : Nat} (h : 0x1800000 ≤ a) : widthAt a = 0 := by
  have hdoor : isDoorbell a = false := by
    rw [isDoorbell, decide_eq_false (show ¬a < 0x1400000 by omega), Bool.and_false, Bool.false_and]
  have hfields : fieldsAt a = [] := by
    refine List.filterMap_eq_nil_iff.2 fun f hf => ?_
    obtain ⟨hbase, halt⟩ := Reg.table_below_component f hf
    rw [Fld.indexAt_isNone (Nat.lt_of_lt_of_le hbase h) (Nat.lt_of_lt_of_le halt h), Option.map_none]
  rw [widthAt, hdoor, hfields]
  rfl

theorem wholeRegs_component {a : Nat} (h : 0x1800000 ≤ a) (n : Nat) : wholeRegs a n = [] := by
  refine List.filterMap_eq_nil_iff.2 fun r hr => if_neg ?_
  obtain ⟨k, -, rfl⟩ := List.mem_map.1 hr
  exact fun hc => hc.1 (widthAt_component (by omega))

theorem firstReserved_component {a n : Nat} (h : 0x1800000 ≤ a) (hn : a + n ≤ 0x1810000) : firstReserved a n = none := by
  refine List.find?_eq_none.2 fun b hb => ?_
  obtain ⟨k, hk, rfl⟩ := List.mem_map.1 hb
  have hlt : k < n := List.mem_range.1 hk
  have hcomp : isComponent (a + k) = true := by
    rw [isComponent, decide_eq_true (show 0x1800000 ≤ a + k by omega), decide_eq_true (show a + k < 0x1810000 by omega), Bool.and_self]
  simp [hcomp]

/-! ### Writes that take effect -/

/-- A field that no state of the machine locks: neither barred to the host link nor held by an operation under way. -/
def neverShut (f : Fld) : Bool :=
  !hostBarred f && !([Reg.CMDQ_QID_QID, Reg.CMDQ_BASE_BASE, Reg.CMDQ_QCFG_VECTOR, Reg.CMDQ_QCFG_IEN, Reg.CMDQ_QCFG_LOW,
    Reg.CMDQ_QCFG2_QUOTA, Reg.CMDQ_QCFG2_ACCOUNT, Reg.CMDQ_OP_GO, Reg.BPM_POOL_BASE_BASE, Reg.BPM_POOL_CNT_COUNT,
    Reg.DMA_CH_DESC_ADDR, Reg.MEMC_CACHE_ADDR_ADDR, Reg.MEMC_CACHE_LEN_LEN, Reg.MEMC_CACHE_OP_OP, Reg.MEMC_CACHE_OP_FORCE,
    Reg.MEMC_CACHE_OP_GO, Reg.CASC_CFG_SHARED_LIB, Reg.CASC_CFG_CELL_ID].any fun g => g.id == f.id)

theorem State.shut_of_neverShut (s : State) (src : Src) {f : Fld} (h : neverShut f = true) (i : Nat) : s.shut src f i = false := by
  simp only [neverShut, Bool.and_eq_true, Bool.not_eq_true', List.any_cons, List.any_nil, Bool.or_eq_false_iff] at h
  simp [State.shut, h]

/-- A read-write field takes its bits of the value. -/
theorem State.writeField_of_readWrite (s : State) (src : Src) {f : Fld} (ht : f.ty = .rw) (hs : neverShut f = true)
    (h : hasRow f = false) (i v : Nat) : s.writeField src f i v = (s.wr f i (bitsOf v f.lo f.w)).afterWrite f i v := by
  simp only [State.writeField, s.shut_of_neverShut src hs, rowOfOwn_of_not_hasRow h, ht, Bool.false_eq_true, if_false]

/-- A write to a write-1-to-clear field clears the bits written 1. -/
theorem State.writeField_of_writeOneClears (s : State) (src : Src) {f : Fld} (ht : f.ty = .w1c) (hs : neverShut f = true)
    (h : hasRow f = false) (i v : Nat) :
    s.writeField src f i v = s.wr f i (s.rd f i - (s.rd f i &&& bitsOf v f.lo f.w)) := by
  simp only [State.writeField, s.shut_of_neverShut src hs, rowOfOwn_of_not_hasRow h, ht, Bool.false_eq_true, if_false]

/- The table is looked through block by block: evaluated in one piece it is too deep. -/

theorem fieldsAt_timeLoad : fieldsAt 0x20008 = [(Reg.TIME_LOAD_SEC, 0), (Reg.TIME_LOAD_TICK, 0)] := by
  unfold fieldsAt
  delta Reg.table
  simp only [List.filterMap_append]
  rfl

theorem fieldsAt_cmdqEvt : fieldsAt 0xE0034 = [(Reg.CMDQ_EVT_EVENTS, 0)] := by
  unfold fieldsAt
  delta Reg.table
  simp only [List.filterMap_append]
  rfl

/-- TIME_LOAD written whole: both fields take their bits, and bit 31 is kept beside them (R12). DESIGN CHOICE, assumption 207. -/
theorem State.writeReg_timeLoad (s : State) (src : Src) (v : Nat) :
    s.writeReg src 0x20008 v =
      { (s.wr Reg.TIME_LOAD_SEC 0 (bitsOf v 32 32)).wr Reg.TIME_LOAD_TICK 0 (bitsOf v 0 31) with
        tb := { s.tb with loadHi := bitOf v 31 } } := by
  rw [State.writeReg_of_plainReg (by decide +kernel), fieldsAt_timeLoad, List.foldl_cons, List.foldl_cons, List.foldl_nil,
    State.writeField_of_readWrite _ _ rfl (by decide +kernel) (by decide +kernel),
    State.writeField_of_readWrite _ _ rfl (by decide +kernel) (by decide +kernel)]
  rfl

theorem State.writeReg_cmdqEvt (s : State) (src : Src) (v : Nat) :
    s.writeReg src 0xE0034 v =
      s.wr Reg.CMDQ_EVT_EVENTS 0 (s.rd Reg.CMDQ_EVT_EVENTS 0 - (s.rd Reg.CMDQ_EVT_EVENTS 0 &&& bitsOf v 0 4)) := by
  rw [State.writeReg_of_plainReg (by decide +kernel), fieldsAt_cmdqEvt, List.foldl_cons, List.foldl_nil,
    State.writeField_of_writeOneClears _ _ rfl (by decide +kernel) (by decide +kernel)]
  rfl

/-! ### The statement's clauses -/

theorem gives_registerWrite_timeLoad (s : State) (src : Src) (d : Nat) :
    s.gives (.registerWrite src 0x20008 8 d) fun t => t.rd Reg.TIME_LOAD_SEC 0 = bitsOf d 32 32 ∧
      t.rd Reg.TIME_LOAD_TICK 0 = bitsOf d 0 31 ∧ t.tb = { s.tb with loadHi := bitOf d 31 } ∧
      s.onlyChanges t [Reg.TIME_LOAD_SEC, Reg.TIME_LOAD_TICK] [.tb] := by
  refine ⟨_, exec_registerWrite_of_one (r := 0x20008) (w := 8) (by decide +kernel) (by decide +kernel), ?_⟩
  rw [State.writeReg_timeLoad]
  simp only [show 8 * (0x20008 - (0x20008 : BitVec 26).toNat) = 0 by decide,
    bitsOf_bitsOf_zero (show 32 + 32 ≤ 8 * 8 by decide), bitsOf_bitsOf_zero (show 0 + 31 ≤ 8 * 8 by decide),
    bitOf_bitsOf_zero (show 31 < 8 * 8 by decide)]
  refine ⟨?_, ?_, trivial, ?_⟩
  · exact (State.rd_wr_ne _ Reg.TIME_LOAD_TICK Reg.TIME_LOAD_SEC 0 0 _ (by decide)).trans
      ((State.rd_wr_same ..).trans (bitsOf_mod d 32 32))
  · exact (State.rd_wr_same _ Reg.TIME_LOAD_TICK 0 _).trans (bitsOf_mod d 0 31)
  · have hsec := (State.onlyChanges.refl s [Reg.TIME_LOAD_SEC, Reg.TIME_LOAD_TICK] [.tb]).wr (List.mem_cons_self ..) (by decide) 0
      (bitsOf d 32 32)
    exact (hsec.wr (.tail _ (.head _)) (by decide) 0 (bitsOf d 0 31)).set_tb (.head _) _

theorem gives_registerWrite_cmdqEvt (s : State) (src : Src) (d : Nat) :
    s.gives (.registerWrite src 0xE0034 4 d) fun t =>
      (∀ k < 4, bitOf (t.rd Reg.CMDQ_EVT_EVENTS 0) k = (bitOf (s.rd Reg.CMDQ_EVT_EVENTS 0) k && !bitOf d k)) ∧
      s.onlyChanges t [Reg.CMDQ_EVT_EVENTS] [] := by
  refine ⟨_, exec_registerWrite_of_one (r := 0xE0034) (w := 4) (by decide +kernel) (by decide +kernel), ?_⟩
  rw [State.writeReg_cmdqEvt]
  simp only [show 8 * (0xE0034 - (0xE0034 : BitVec 26).toNat) = 0 by decide, bitsOf_bitsOf_zero (show 0 + 4 ≤ 8 * 4 by decide)]
  refine ⟨fun k hk => ?_, (State.onlyChanges.refl ..).wr (.head _) (by decide) _ _⟩
  have hw : k < Reg.CMDQ_EVT_EVENTS.w := hk
  rw [State.rd_wr_same, bitOf_eq_testBit, bitOf_eq_testBit, bitOf_eq_testBit, Nat.testBit_mod_two_pow, testBit_sub_and, testBit_bitsOf,
    decide_eq_true hk, decide_eq_true hw, Bool.true_and, Bool.true_and, Nat.zero_add]

theorem gives_registerWrite_gctlRev_ignored (s : State) (src : Src) (d : Nat) : s.gives (.registerWrite src 0x4 4 d) fun t => t = s := by
  have hro : ((fieldsAt 0x4).all fun p => decide (p.1.ty = .ro) && !hasRow p.1) = true := by decide +kernel
  refine State.gives_self_of_fields (r := 0x4) (w := 4) (by decide +kernel) (by decide +kernel) (by decide +kernel) fun p hp v => ?_
  obtain ⟨hty, hrow⟩ := (Bool.and_eq_true ..).mp (List.all_eq_true.1 hro p hp)
  exact s.writeField_of_readOnly src (of_decide_eq_true hty) (Bool.not_eq_true' _ |>.mp hrow) p.2 v

theorem gives_registerWrite_cascCfg_locked (s : State) (src : Src) (d : Nat) (hen : s.flag Reg.CASC_CTRL_EN 0 = true) :
    s.gives (.registerWrite src 0xA0004 4 d) fun t => t = s := by
  have hcfg : ((fieldsAt 0xA0004).all fun p => [Reg.CASC_CFG_SHARED_LIB, Reg.CASC_CFG_CELL_ID].any fun g => g.id == p.1.id) = true := by
    decide +kernel
  exact State.gives_self_of_fields (r := 0xA0004) (w := 4) (by decide +kernel) (by decide +kernel) (by decide +kernel) fun p hp v =>
    State.writeField_of_shut (State.shut_of_cascade hen src (List.all_eq_true.1 hcfg p hp) p.2) v

/-- Settles O60: a write is taken apart into the registers that it covers, and each register into its fields, by their types. -/
theorem registerWritesActByType : Obligations.RegisterWritesActByType := by
  unfold Obligations.RegisterWritesActByType
  refine ⟨gives_registerWrite_timeLoad, fun s src d => ?_, gives_registerWrite_cmdqEvt, gives_registerWrite_gctlRev_ignored,
    gives_registerWrite_cascCfg_locked, fun s d => ?_, fun s d => ?_, fun s d => ?_, fun s src a l d b hw hr => ?_, fun s src a l d ha hl => ?_⟩
  · exact ⟨s, exec_registerWrite_of_none (by decide +kernel) (by decide +kernel), rfl⟩
  · exact State.gives_self_of_hostBarred (r := 0x40038) (w := 4) (by decide +kernel) (by decide +kernel) (by decide +kernel)
      (by decide +kernel)
  · exact State.gives_self_of_hostBarred (r := 0x7000C) (w := 4) (by decide +kernel) (by decide +kernel) (by decide +kernel)
      (by decide +kernel)
  · exact State.gives_self_of_hostBarred (r := 0x71000) (w := 8) (by decide +kernel) (by decide +kernel) (by decide +kernel)
      (by decide +kernel)
  · exact ⟨_, exec_registerWrite_of_reserved hw hr, rfl⟩
  · exact ⟨s, exec_registerWrite_of_none (wholeRegs_component ha _) (firstReserved_component ha hl), rfl⟩

end Sys2Proof.Machine
end

section
/-!
PROOF. Every command answers a next state (O8). The meaning of a command is a tree of conditions and case distinctions; each lemma
walks the tree of a command whose tree has a shape of its own, and `exec_completes` gathers the commands, those of one shape together.
-/

set_option Elab.async false

namespace Sys2Proof.Machine

/-- An outcome is a next state. -/
def Completes (r : Res) : Prop := ∃ t, r = .next t

namespace Completes

theorem next (t : State) : Completes (.next t) := ⟨t, rfl⟩

theorem ite {c : Prop} [Decidable c] {x y : Res} (h : Completes x) (g : Completes y) : Completes (if c then x else y) := by
  split <;> assumption

/-- A condition under which the command ends at once. -/
theorem guard {c : Prop} [Decidable c] {t : State} {y : Res} (g : Completes y) : Completes (if c then .next t else y) :=
  .ite (.next t) g

end Completes

/-- A message over the ring, whatever it makes the cell do. -/
theorem State.ringIn_completes (s : State) (p : Nat) (r : RingIn) (f : State → State) : Completes (s.ringIn p r f) := by
  unfold State.ringIn
  refine .guard (.guard (.guard ?_))
  split <;> exact .next _

/-! ### Station links -/

theorem execPeriodPresent_completes (s : State) : Completes (execPeriodPresent s) := by
  unfold execPeriodPresent
  extract_lets +onlyGivenNames s1
  exact .guard (.next _)

theorem execSamplesReceive_completes (n : Fin 128) (m : LinkMsg) (s : State) : Completes (execSamplesReceive n m s) := by
  unfold execSamplesReceive
  refine .guard (.guard ?_)
  extract_lets +onlyGivenNames side h st sp gap before s1 lw tw hd counted inLead heard far s2 s3
  split
  · exact .next _
  · exact .ite (.guard (.next _)) (.next _)

theorem execRegrspReceive_completes (n : Fin 128) (m : LinkMsg) (s : State) : Completes (execRegrspReceive n m s) := by
  unfold execRegrspReceive
  refine .guard (.guard ?_)
  split
  · exact .next _
  · exact .guard (.next _)

theorem execWrackReceive_completes (n : Fin 128) (m : LinkMsg) (s : State) : Completes (execWrackReceive n m s) := by
  unfold execWrackReceive
  refine .guard (.guard ?_)
  extract_lets +onlyGivenNames h b ev slot s1
  split <;> exact .next _

theorem execWrdataSend_completes (n : Fin 128) (side : Fin 2) (count : Nat) (s : State) :
    Completes (execWrdataSend n side count s) := by
  unfold execWrdataSend
  extract_lets +onlyGivenNames h
  split
  · exact .next _
  · extract_lets +onlyGivenNames x
    split
    · exact .guard (.next _)
    · exact .next _

theorem execStepSend_completes (n : Fin 128) (side : Fin 2) (count : Nat) (s : State) :
    Completes (execStepSend n side count s) := by
  unfold execStepSend
  refine .guard ?_
  split
  · split <;> exact .next _
  · exact .guard (.guard (.next _))

theorem execTrainingBatchOpen_completes (b : Fin 8) (s : State) : Completes (execTrainingBatchOpen b s) := by
  unfold execTrainingBatchOpen
  extract_lets +onlyGivenNames s1
  exact .guard (.next _)

/-! ### Channel slices and read recovery -/

theorem execSliceAssign_completes (n : Fin 128) (side : Fin 2) (s : State) : Completes (execSliceAssign n side s) := by
  unfold execSliceAssign
  extract_lets +onlyGivenNames h
  split
  · exact .next _
  · refine .guard ?_
    extract_lets +onlyGivenNames mode
    split <;> exact .next _

theorem execFrameDecode_completes (sl : Fin 96) (slot : Nat) (s : State) : Completes (execFrameDecode sl slot s) := by
  unfold execFrameDecode
  extract_lets +onlyGivenNames x
  split
  · refine .guard ?_
    split
    · exact .next _
    · extract_lets +onlyGivenNames pfa us copies l last
      split
      · exact .next _
      · refine .guard ?_
        extract_lets +onlyGivenNames o bad iter s2 toLadder
        split
        · exact .next _
        · split <;> exact .next _
  · exact .next _

theorem execFrameEncode_completes (sl : Fin 96) (s : State) : Completes (execFrameEncode sl s) := by
  unfold execFrameEncode
  extract_lets +onlyGivenNames x
  split
  · exact .next _
  · refine .guard ?_
    split
    · refine .guard (.guard ?_)
      split
      exact .next _
    · split
      · exact .next _
      · split <;> exact .next _

theorem execSlotVerify_completes (sl : Fin 96) (s : State) : Completes (execSlotVerify sl s) := by
  unfold execSlotVerify
  extract_lets +onlyGivenNames x
  split
  · refine .guard (.guard ?_)
    extract_lets +onlyGivenNames pfa missed s1 res
    split
    · exact .next _
    · exact .guard (.next _)
  · exact .next _

theorem execRowShiftSearch_completes (sl : Fin 96) (slot : Nat) (s : State) : Completes (execRowShiftSearch sl slot s) := by
  unfold execRowShiftSearch
  split
  · exact .next _
  · refine .guard (.guard ?_)
    split
    exact .next _

theorem execLadderSlotClaim_completes (sl : Fin 96) (slot : Nat) (s : State) : Completes (execLadderSlotClaim sl slot s) := by
  unfold execLadderSlotClaim
  split
  · exact .next _
  · refine .guard ?_
    extract_lets +onlyGivenNames used me ahead
    split
    · exact .guard (.next _)
    · exact .next _

theorem execLadderReread_completes (sl : Fin 96) (slot : Nat) (s : State) : Completes (execLadderReread sl slot s) := by
  unfold execLadderReread
  split
  · exact .next _
  · refine .guard (.guard ?_)
    split
    · exact .next _
    · exact .guard (.next _)

theorem execRereadDecode_completes (sl : Fin 96) (slot : Nat) (s : State) : Completes (execRereadDecode sl slot s) := by
  unfold execRereadDecode
  split
  · exact .next _
  · split
    · exact .next _
    · refine .guard ?_
      split
      exact .next _

/-! ### Heads and the optical servo -/

theorem execAcqStageLocked_completes (n : Fin 128) (side : Fin 2) (w1 w2 : BitVec 64) (apart : Nat) (s : State) :
    Completes (execAcqStageLocked n side w1 w2 apart s) := by
  unfold execAcqStageLocked
  refine .guard ?_
  split
  · exact .guard (.next _)
  · exact .guard (.next _)
  · exact .guard (.guard (.guard (.next _)))
  · exact .guard (.guard (.next _))
  · exact .guard (.next _)
  · exact .next _

theorem execAcqStageTimeout_completes (n : Fin 128) (side : Fin 2) (s : State) : Completes (execAcqStageTimeout n side s) := by
  unfold execAcqStageTimeout
  refine .guard ?_
  split
  · exact .next _
  · refine .guard (.guard (.guard ?_))
    split
    exact .next _

theorem execLongSeekSettled_completes (n : Fin 128) (side : Fin 2) (w1 w2 : BitVec 64) (apart : Nat) (s : State) :
    Completes (execLongSeekSettled n side w1 w2 apart s) := by
  unfold execLongSeekSettled
  extract_lets +onlyGivenNames h x
  split
  · exact .next _
  · exact .guard (.guard (.guard (.guard (.next _))))

theorem execLockLoss_completes (n : Fin 128) (side : Fin 2) (lock : Fin 5) (s : State) :
    Completes (execLockLoss n side lock s) := by
  unfold execLockLoss
  refine .guard ?_
  extract_lets +onlyGivenNames s1
  split
  exact .guard (.next _)

theorem execPowerLimitDetect_completes (n : Fin 128) (side : Fin 2) (write : Bool) (s : State) :
    Completes (execPowerLimitDetect n side write s) := by
  unfold execPowerLimitDetect
  extract_lets +onlyGivenNames h w
  split
  exact .guard (.guard (.guard (.next _)))

theorem execOpcReadback_completes (n : Fin 128) (side : Fin 2) (s : State) : Completes (execOpcReadback n side s) := by
  unfold execOpcReadback
  extract_lets +onlyGivenNames h x
  split
  · exact .next _
  · refine .guard (.guard (.guard (.ite (.guard (.next _)) ?_)))
    extract_lets +onlyGivenNames win
    split
    split
    split
    exact .next _

/-! ### Spindles -/

theorem execSpindleSenseEnd_completes (n : Fin 128) (s : State) : Completes (execSpindleSenseEnd n s) := by
  unfold execSpindleSenseEnd
  refine .guard (.guard ?_)
  extract_lets +onlyGivenNames s1
  split
  · exact .guard (.guard (.next _))
  · exact .next _

theorem execSpindleAttemptFail_completes (n : Fin 128) (s : State) : Completes (execSpindleAttemptFail n s) := by
  unfold execSpindleAttemptFail
  refine .guard (.guard (.ite ?_ (.guard (.next _))))
  split <;> exact .next _

theorem execSpindleObserverLoss_completes (n : Fin 128) (s : State) : Completes (execSpindleObserverLoss n s) := by
  unfold execSpindleObserverLoss
  refine .guard ?_
  split
  · exact .next _
  · exact .guard (.next _)

theorem execSpindleReacquired_completes (n : Fin 128) (s : State) : Completes (execSpindleReacquired n s) := by
  unfold execSpindleReacquired
  refine .guard (.guard ?_)
  split
  · exact .next _
  · exact .guard (.next _)

theorem execSpindleAtSpeed_completes (n : Fin 128) (s : State) : Completes (execSpindleAtSpeed n s) := by
  unfold execSpindleAtSpeed
  refine .guard ?_
  extract_lets +onlyGivenNames x
  split
  · exact .next _
  · exact .guard (.next _)

/-! ### Motion and library -/

theorem execAxisMoveDone_completes (a : Fin 264) (s : State) : Completes (execAxisMoveDone a s) := by
  unfold execAxisMoveDone
  extract_lets +onlyGivenNames x
  split
  · split
    · refine .guard ?_
      extract_lets +onlyGivenNames s1
      split <;> exact .next _
    · exact .next _
  · exact .next _

theorem execAxisHomeDone_completes (a : Fin 264) (found : Bool) (rise fall : Nat) (s : State) :
    Completes (execAxisHomeDone a found rise fall s) := by
  unfold execAxisHomeDone
  extract_lets +onlyGivenNames x
  split
  · exact .next _
  · split
    · exact .guard (.guard (.guard (.next _)))
    · exact .next _

theorem execTransferStart_completes (s : State) : Completes (execTransferStart s) := by
  unfold execTransferStart
  refine .guard ?_
  split
  · exact .next _
  · exact .ite (.guard (.next _)) (.guard (.next _))

theorem execTransferProgress_completes (m : Fin 2) (slot disc jaw : Bool) (s : State) :
    Completes (execTransferProgress m slot disc jaw s) := by
  unfold execTransferProgress
  split
  · refine .ite ?_ (.next _)
    split <;> exact .next _
  · exact .next _

theorem execTransferResolve_completes (m : Fin 2) (inJaws atSrc atDst : Bool) (s : State) :
    Completes (execTransferResolve m inJaws atSrc atDst s) := by
  unfold execTransferResolve
  split
  · exact .next _
  · exact .guard (.ite (.guard (.next _)) (.guard (.guard (.next _))))

theorem execInventoryComplete_completes (dt : Nat) (present : List Bool) (s : State) :
    Completes (execInventoryComplete dt present s) := by
  unfold execInventoryComplete
  split
  · extract_lets +onlyGivenNames slots scan read w
    split
    · exact .next _
    · exact .guard (.next _)
  · exact .next _

/-! ### The stack -/

theorem execSyncReceive_completes (dt : Nat) (p : Fin 2) (intact : Bool) (origin : BitVec 64) (acc : BitVec 32) (locked : Bool)
    (hops : BitVec 3) (residence : Fin 2001) (s : State) :
    Completes (execSyncReceive dt p intact origin acc locked hops residence s) := by
  unfold execSyncReceive
  refine .guard (.guard (.guard (.guard ?_)))
  split
  · exact .next _
  · exact .guard (.next _)

theorem execRingFrameReceive_completes (p : Fin 2) (r : RingIn) (s : State) : Completes (execRingFrameReceive p r s) := by
  unfold execRingFrameReceive
  extract_lets +onlyGivenNames sq tag i data
  split
  · exact .ite (.ite (State.ringIn_completes ..) (.guard (State.ringIn_completes ..))) (State.ringIn_completes ..)
  · split
    · exact State.ringIn_completes ..
    · exact .guard (State.ringIn_completes ..)

/-! ### Host endpoint and management port -/

theorem execConfigRequest_completes (r : CfgReq) (s : State) : Completes (execConfigRequest r s) := by
  unfold execConfigRequest
  refine .guard (.guard ?_)
  split
  · split
    exact .next _
  · exact .next _
  · exact .next _
  · exact .next _
  · exact .next _
  · exact .next _
  · exact .next _

theorem execPeerRequest_completes (off : BitVec 36) (len : Fin 4096) (reqId : BitVec 16)
    (data : Option (List Nat)) (s : State) :
    Completes (execPeerRequest off len reqId data s) := by
  unfold execPeerRequest
  refine .guard (.guard ?_)
  split
  · exact .next _
  · exact .next _
  · extract_lets +onlyGivenNames a s1
    split <;> exact .next _
  · exact .next _

theorem execHostCacheError_completes (q : BitVec 16) (tag : Option (BitVec 12)) (s : State) :
    Completes (execHostCacheError q tag s) := by
  unfold execHostCacheError
  split
  · extract_lets +onlyGivenNames pasid
    split <;> exact .next _
  · split
    · exact .next _
    · refine .ite ?_ (.next _)
      extract_lets +onlyGivenNames s1
      split <;> exact .next _

theorem execCqFullTimeout_completes (i : Fin 4096) (s : State) : Completes (execCqFullTimeout i s) := by
  unfold execCqFullTimeout
  split
  · exact .next _
  · split <;> exact .next _

/-! ### The command path -/

theorem execCommandFetch_completes (pkt : BitVec 512) (s : State) : Completes (execCommandFetch pkt s) := by
  unfold execCommandFetch
  refine .guard ?_
  split
  · exact .next _
  · split
    · exact .next _
    · refine .guard ?_
      split
      · exact .next _
      · split <;> exact .next _

theorem execCommandStart_completes (q : BitVec 20) (tag : BitVec 12) (s : State) : Completes (execCommandStart q tag s) := by
  unfold execCommandStart
  split
  · exact .next _
  · refine .guard (.guard ?_)
    split
    · exact .guard (.next _)
    · exact .next _
    · exact .guard (.guard (.next _))
    · exact .guard (.guard (.next _))

/-! ### Commands of a submission queue -/

theorem execAbort_completes (q : BitVec 20) (tag : BitVec 12) (s : State) : Completes (execAbort q tag s) := by
  unfold execAbort
  split
  · exact .next _
  · extract_lets +onlyGivenNames tq
    split
    · exact .next _
    · refine .guard ?_
      split <;> exact .next _

theorem execRead_completes (q : BitVec 20) (tag : BitVec 12) (sgl : Option (List (Nat × Nat × Nat))) (s : State) :
    Completes (execRead q tag sgl s) := by
  unfold execRead
  split
  · split <;> exact .next _
  · split
    · exact .next _
    · extract_lets +onlyGivenNames s1
      split
      · exact .next _
      · exact .guard (.next _)

theorem execWrite_completes (q : BitVec 20) (tag : BitVec 12) (sgl : Option (List (Nat × Nat × Nat))) (s : State) :
    Completes (execWrite q tag sgl s) := by
  unfold execWrite
  split
  · split <;> exact .next _
  · split
    · exact .next _
    · extract_lets +onlyGivenNames s1
      split <;> exact .next _

theorem execBufferAlloc_completes (q : BitVec 20) (tag : BitVec 12) (s : State) : Completes (execBufferAlloc q tag s) := by
  unfold execBufferAlloc
  split
  · exact .next _
  · split
    · exact .next _
    · refine .guard ?_
      split <;> exact .next _

theorem execBufferRelease_completes (q : BitVec 20) (tag : BitVec 12) (s : State) : Completes (execBufferRelease q tag s) := by
  unfold execBufferRelease
  split
  · exact .next _
  · split
    · exact .next _
    · exact .guard (.guard (.next _))

theorem execBufferShare_completes (q : BitVec 20) (tag : BitVec 12) (s : State) : Completes (execBufferShare q tag s) := by
  unfold execBufferShare
  split
  · exact .next _
  · extract_lets +onlyGivenNames dest
    split
    · exact .next _
    · exact .guard (.guard (.guard (.guard (.next _))))

theorem execMount_completes (q : BitVec 20) (tag : BitVec 12) (s : State) : Completes (execMount q tag s) := by
  unfold execMount
  split
  · exact .next _
  · extract_lets +onlyGivenNames d x
    split
    · exact .next _
    · split
      · exact .next _
      · exact .guard (.next _)
      · split <;> exact .next _

theorem execUnmount_completes (q : BitVec 20) (tag : BitVec 12) (s : State) : Completes (execUnmount q tag s) := by
  unfold execUnmount
  split
  · exact .next _
  · extract_lets +onlyGivenNames d
    split
    · exact .next _
    · exact .next _
    · exact .guard (.next _)
    · exact .next _

theorem execMove_completes (q : BitVec 20) (tag : BitVec 12) (s : State) : Completes (execMove q tag s) := by
  unfold execMove
  split
  · exact .next _
  · extract_lets +onlyGivenNames d dst
    split
    · exact .next _
    · exact .guard (.guard (.next _))

theorem execFwDownload_completes (q : BitVec 20) (tag : BitVec 12) (words : Option (List Nat)) (s : State) :
    Completes (execFwDownload q tag words s) := by
  unfold execFwDownload
  split
  · exact .next _
  · refine .guard (.guard ?_)
    extract_lets +onlyGivenNames blocks open_
    clear_value open_
    split
    · exact .next _
    · refine .guard (.guard (.guard ?_))
      extract_lets +onlyGivenNames s1 s1
      split
      · exact .next _
      · exact .guard (.next _)

theorem execFwActivate_completes (q : BitVec 20) (tag : BitVec 12) (keyOk sigOk : Bool) (s : State) :
    Completes (execFwActivate q tag keyOk sigOk s) := by
  unfold execFwActivate
  split
  · exact .next _
  · refine .guard (.guard ?_)
    split
    · exact .next _
    · exact .guard (.next _)

theorem execModeSet_completes (q : BitVec 20) (tag : BitVec 12) (s : State) : Completes (execModeSet q tag s) := by
  unfold execModeSet
  split
  · exact .next _
  · exact .guard (.guard (.guard (.guard (.next _))))

theorem execStationDiag_completes (q : BitVec 20) (tag : BitVec 12) (s : State) : Completes (execStationDiag q tag s) := by
  unfold execStationDiag
  split
  · exact .next _
  · extract_lets +onlyGivenNames n s1 fe
    split
    · exact .next _
    · exact .next _
    · exact .next _
    · exact .guard (.next _)
    · exact .next _

/-! ### Buffers and DMA -/

theorem execCopyBufferGrant_completes (s : State) : Completes (execCopyBufferGrant s) := by
  unfold execCopyBufferGrant
  extract_lets +onlyGivenNames s0
  split
  · exact .next _
  · split <;> exact .next _

/-! ### Device memory and cache -/

theorem execDramTrainingDone_completes (chans : List ChanObs) (s : State) : Completes (execDramTrainingDone chans s) := by
  unfold execDramTrainingDone
  split
  · exact .next _
  · exact .next _
  · split
    · exact .next _
    · exact .guard (.next _)

/-! ### Flash, boot and the journal -/

theorem execBootSelect_completes (a b : Option ImgObs) (s : State) : Completes (execBootSelect a b s) := by
  unfold execBootSelect
  refine .guard ?_
  extract_lets +onlyGivenNames s0 s1
  split
  · split <;> exact .next _
  · exact .guard (.guard (.next _))

theorem execJournalReplay_completes (s : State) : Completes (execJournalReplay s) := by
  unfold execJournalReplay
  refine .guard ?_
  extract_lets +onlyGivenNames s0 slots s1 recs live
  split
  extract_lets +onlyGivenNames zs s3 s4
  split <;> exact .next _

theorem execJournalReclaim_completes (s : State) : Completes (execJournalReclaim s) := by
  unfold execJournalReclaim
  refine .ite ?_ (.next _)
  split
  · exact .next _
  · exact .guard (.guard (.next _))

/-! ### Power, modes, temperature and events -/

theorem execModeTransitionDone_completes (romOk katOk : Bool) (s : State) :
    Completes (execModeTransitionDone romOk katOk s) := by
  unfold execModeTransitionDone
  split
  · exact .next _
  · exact .ite (.guard (.next _)) (.guard (.next _))

theorem execThermalReading_completes (dt : Nat) (temps : List (BitVec 16)) (s : State) :
    Completes (execThermalReading dt temps s) := by
  unfold execThermalReading
  extract_lets +onlyGivenNames s1
  split
  · exact .next _
  · exact .guard (.guard (.ite (.guard (.guard (.next _))) (.next _)))

theorem execEventLogCopy_completes (s : State) : Completes (execEventLogCopy s) := by
  unfold execEventLogCopy
  refine .guard ?_
  split
  · exact .next _
  · split
    · exact .next _
    · exact .guard (.next _)

/-! ### The tally -/

theorem execTallyTapEvent_completes (test : Option (BitVec 12 × Fin 4 × Nat)) (s : State) :
    Completes (execTallyTapEvent test s) := by
  unfold execTallyTapEvent
  split
  · exact .guard (.next _)
  · split
    · exact .next _
    · exact .guard (.guard (.next _))

theorem execTallyRecordProgram_completes (bad : Option (Fin 9)) (s : State) : Completes (execTallyRecordProgram bad s) := by
  unfold execTallyRecordProgram
  refine .guard ?_
  split
  · exact .next _
  · extract_lets +onlyGivenNames slot seq bytes all progs s0
    split
    · exact .next _
    · extract_lets +onlyGivenNames s1 i
      split
      exact .next _

/-! ### Calibration -/

theorem execCalTrigger_completes (kind : Fin 3) (inst : Fin 256) (s : State) : Completes (execCalTrigger kind inst s) := by
  unfold execCalTrigger
  refine .guard (.guard ?_)
  extract_lets +onlyGivenNames h
  split
  · exact .guard (.next _)
  · exact .next _

theorem execCalSliceRunDone_completes (n : Fin 128) (side : Fin 2) (s : State) : Completes (execCalSliceRunDone n side s) := by
  unfold execCalSliceRunDone
  extract_lets +onlyGivenNames h u
  split
  · exact .next _
  · refine .guard ?_
    extract_lets +onlyGivenNames q gl gt
    split
    split
    split
    split
    exact .next _

/-! ### All commands -/

/-- Every command answers a next state. -/
theorem exec_completes (c : Instr) (s : State) : Completes (exec c s) := by
  cases c
  -- Where the tree begins with a case distinction, whnf brings it to the front.
  case bar0ReservedAccess | fetchHold | porstAssert | timeLoadArm | vgConfigApply | servoPeriodStart | stopSend | feRegAccess |
      linkEnable | linkDisable | trainingBatchClose | linkRelease | sliceStatClear | eqCommit | loopOverrun | loopParamCopy |
      loopSatClear | headAcquire | headSeek | headLayer | headPark | headOpc | headClearFault | seekRequest |
      layerJumpRequest | spindleTargetWrite | axisMove | axisStop | axisHome | axisClear | motionStopAll | libraryEnable |
      doorRequestOpen | cascPortDown | hostEndpointReset | hdmDecoderCommit | atsInvalidate | bpmEnable | eccInjectArm |
      watchdogKick | tallySeal | referenceClockLost =>
    exact .next _
  case warmReset | coldReset | porstDeassert | cclkStart | ppsEdge | holdoverTimeout | ppsPolarityWrite | seekSlot |
      sensorMiss | linkBlockError | echoSend | linkTrainDetected | linkBlockLock | linkDeskewDone | linkTrainTimeout |
      linkRetryTimeout | retrainStart | linkLoss | zoneResolve | sliceRelease | sliceReleaseRequest | eqCommitCopy |
      loopSlotDisable | loopSwapSlot | loopSwapGroup | seekJumpDone | layerMoveEnd | headRecoveryDone | headRecoveryTimeout |
      opcTrigger | axisTargetWrite | axisFaultInput | doorRequestLock | doorLockConfirmed | doorOpenedUnexpected |
      cascadeEnable | cascadeForget | announceSend | memberAbsent | masterLost | stackSyncTimeout | proxyDeliver | hostLinkUp |
      hdmHostWrite | peerCommitEffect | translationCompletion | smbIdentify | createCq | deleteCq | createSq | deleteSq |
      setGroup | queryCq | querySq | queryGroup | bpmDisable | dmaChannelStart | dmaChannelReset | scrubStep |
      selfRefreshEnter | cacheOpDone | flashReadArray | flashProgramDone | frontierSearch | pwrfailAssert | pfJournalWrite |
      pwrfailDeassert | supplyFault | fwReady | watchdogExpire | thermtrip | powerCapEstimate | eventInterrupt |
      tallyMinuteBoundary | tallyMsSample | calRunAll | calPortRun | calPortApply | calTrimApply | flashSeqError |
      ringEchoReceive =>
    exact .guard (.next _)
  case timeSecondRollover | echorspReceive | loopLaneRun | spindleLockedRotor | phaseLockChange | ringAckReceive |
      smbSetOffset | smbReadReg =>
    exact .guard (.guard (.guard (.next _)))
  case ppsEnableWrite | timeLoadEffect | actuatePresent | sensorDelivered | healthReceive | linkIdentifyDone |
      linkMeasureDone | retrainRequest | eqShadowWrite | loopBankWrite | headParkDone | spindleWaitSlowEnd |
      spindleRevBrakeEnd | spindleAlignStart | spindleAlignEnd | spindleHandover | spindleCatchDone | spindleReacqTimeout |
      spindleBrakeEnd | spindleBrakeTimeout | spindleClearFault | cascPortUp | smbHealth | cacheInvalidate | cacheDrain |
      cacheDrainInvalidate | cacheLoadLock | cacheWayLockWrite | cacheWayPowerWrite | flashSuspend | flashResume | tallyStart =>
    exact .guard (.guard (.next _))
  case linkRetry => exact .ite (.guard (.next _)) (.next _)
  case loopDescWrite => exact .ite (.guard (.next _)) (.guard (.next _))
  case spindleVbusChange | ringMessageForward | smbWake => exact .guard (.guard (.guard (.guard (.next _))))
  case spindleHoldEnd => exact .guard (.guard (.ite (.guard (.guard (.next _))) (.guard (.next _))))
  case announceReceive => exact .guard (.guard (.ite (.guard (.next _)) (.guard (.next _))))
  case joinReceive => exact .guard (State.ringIn_completes ..)
  case membersReceive => exact .guard (.ite (.guard (.next _)) (State.ringIn_completes ..))
  case ringCmdReceive | ringCatReceive | ringLibReceive => exact State.ringIn_completes ..
  case flashProgram | flashSectorErase => exact .guard (.guard (.guard (.guard (.guard (.next _)))))
  case registerWrite | eventWindowEnd | resetTakesEffect | sliceWait | rateMatchTick | loopSwapExecute | transferWaitTimeout |
      ringRetransmit | msixUnmask | nop | identify | getLog | setFeature | getFeature | flush | timeSet | timeGet | tallyRead |
      pwrfailRecover | fwActivateReset | pickerDiscFall =>
    conv => arg 1; whnf
    split <;> exact .next _
  case timeStep | fineTimeReload | emberLaunchExit | stepRetransmit | feRegTimeout | linkDegradedWindow | readPause |
      readResume | holdStep | oneTrackStep | safeProgramDone | completionWrite | msixSend | verify | inventory |
      deleteSqComplete | dramInitDone | flashEraseDone | erasePendingLong | thermalExit | capExceeded | tallyPfClose |
      calSliceApply | calTrimRun | kilnTimeout | trialTimeout =>
    conv => arg 1; whnf
    split
    · exact .next _
    · exact .guard (.next _)
  case launch | wrdataRetransmit | ladderBudgetExpire | crossCellTimeout | doorbellWrite | mergeBufferDrain =>
    conv => arg 1; whnf
    split
    · exact .next _
    · conv => arg 1; whnf
      split
      · exact .next _
      · exact .guard (.next _)
  case sliceModeChange | relayLocked | layerJumpTimeout =>
    conv => arg 1; whnf
    split
    · exact .next _
    · exact .guard (.guard (.guard (.next _)))
  case ladderRungDecode | softCombine | tallyAck | dmaDescriptorEnd =>
    conv => arg 1; whnf
    split
    · exact .next _
    · exact .guard (.guard (.next _))
  case outerErasureDecode | zoneClose | discFinalize =>
    conv => arg 1; whnf
    split
    · exact .next _
    · refine .guard ?_
      split
      · exact .next _
      · exact .guard (.next _)
  case loopSlotEnable | mountComplete | spindleRetry | hdmHostRead | peerWindowCommit | wake | tallySectorErase | calStore =>
    refine .guard ?_
    split <;> exact .next _
  case seekRestart | doorWaitTimeout | dmaChannelRun | dmaBusRetry | kilnEnd | trialConfirm =>
    conv => arg 1; whnf
    split
    · exact .guard (.next _)
    · exact .next _
  case periodPresent => exact execPeriodPresent_completes s
  case samplesReceive n m => exact execSamplesReceive_completes n m s
  case regrspReceive n m => exact execRegrspReceive_completes n m s
  case wrackReceive n m => exact execWrackReceive_completes n m s
  case wrdataSend n side count => exact execWrdataSend_completes n side count s
  case stepSend n side count => exact execStepSend_completes n side count s
  case trainingBatchOpen b => exact execTrainingBatchOpen_completes b s
  case sliceAssign n side => exact execSliceAssign_completes n side s
  case frameDecode sl slot => exact execFrameDecode_completes sl slot s
  case frameEncode sl => exact execFrameEncode_completes sl s
  case slotVerify sl => exact execSlotVerify_completes sl s
  case rowShiftSearch sl slot => exact execRowShiftSearch_completes sl slot s
  case ladderSlotClaim sl slot => exact execLadderSlotClaim_completes sl slot s
  case ladderReread sl slot => exact execLadderReread_completes sl slot s
  case rereadDecode sl slot => exact execRereadDecode_completes sl slot s
  case acqStageLocked n side w1 w2 apart => exact execAcqStageLocked_completes n side w1 w2 apart s
  case acqStageTimeout n side => exact execAcqStageTimeout_completes n side s
  case longSeekSettled n side w1 w2 apart => exact execLongSeekSettled_completes n side w1 w2 apart s
  case lockLoss n side lock => exact execLockLoss_completes n side lock s
  case powerLimitDetect n side write => exact execPowerLimitDetect_completes n side write s
  case opcReadback n side => exact execOpcReadback_completes n side s
  case spindleSenseEnd n => exact execSpindleSenseEnd_completes n s
  case spindleAttemptFail n => exact execSpindleAttemptFail_completes n s
  case spindleObserverLoss n => exact execSpindleObserverLoss_completes n s
  case spindleReacquired n => exact execSpindleReacquired_completes n s
  case spindleAtSpeed n => exact execSpindleAtSpeed_completes n s
  case axisMoveDone a => exact execAxisMoveDone_completes a s
  case axisHomeDone a found rise fall => exact execAxisHomeDone_completes a found rise fall s
  case transferStart => exact execTransferStart_completes s
  case transferProgress m slot disc jaw => exact execTransferProgress_completes m slot disc jaw s
  case transferResolve m inJaws atSrc atDst => exact execTransferResolve_completes m inJaws atSrc atDst s
  case inventoryComplete dt present => exact execInventoryComplete_completes dt present s
  case syncReceive dt p intact origin acc locked hops residence =>
    exact execSyncReceive_completes dt p intact origin acc locked hops residence s
  case ringFrameReceive p r => exact execRingFrameReceive_completes p r s
  case configRequest r => exact execConfigRequest_completes r s
  case peerRequest off len reqId data => exact execPeerRequest_completes off len reqId data s
  case hostCacheError q tag => exact execHostCacheError_completes q tag s
  case cqFullTimeout i => exact execCqFullTimeout_completes i s
  case commandFetch pkt => exact execCommandFetch_completes pkt s
  case commandStart q tag => exact execCommandStart_completes q tag s
  case abort q tag => exact execAbort_completes q tag s
  case read q tag sgl => exact execRead_completes q tag sgl s
  case write q tag sgl => exact execWrite_completes q tag sgl s
  case bufferAlloc q tag => exact execBufferAlloc_completes q tag s
  case bufferRelease q tag => exact execBufferRelease_completes q tag s
  case bufferShare q tag => exact execBufferShare_completes q tag s
  case mount q tag => exact execMount_completes q tag s
  case unmount q tag => exact execUnmount_completes q tag s
  case move q tag => exact execMove_completes q tag s
  case fwDownload q tag words => exact execFwDownload_completes q tag words s
  case fwActivate q tag keyOk sigOk => exact execFwActivate_completes q tag keyOk sigOk s
  case modeSet q tag => exact execModeSet_completes q tag s
  case stationDiag q tag => exact execStationDiag_completes q tag s
  case copyBufferGrant => exact execCopyBufferGrant_completes s
  case dramTrainingDone chans => exact execDramTrainingDone_completes chans s
  case bootSelect a b => exact execBootSelect_completes a b s
  case journalReplay => exact execJournalReplay_completes s
  case journalReclaim => exact execJournalReclaim_completes s
  case modeTransitionDone romOk katOk => exact execModeTransitionDone_completes romOk katOk s
  case thermalReading dt temps => exact execThermalReading_completes dt temps s
  case eventLogCopy => exact execEventLogCopy_completes s
  case tallyTapEvent test => exact execTallyTapEvent_completes test s
  case tallyRecordProgram bad => exact execTallyRecordProgram_completes bad s
  case calTrigger kind inst => exact execCalTrigger_completes kind inst s
  case calSliceRunDone n side => exact execCalSliceRunDone_completes n side s

/-- Settles O8: every path through the meaning of a command ends in a next state. -/
theorem everyCommandAnswersANextState : Obligations.EveryCommandAnswersANextState := by
  unfold Obligations.EveryCommandAnswersANextState
  exact exec_completes

end Sys2Proof.Machine
end

section
/-!
PROOF. The fields of STN[n] and SLC[n] lie in their own windows (O15). The register table is taken block by block: the blocks of the
station window (STN, HD and SP), the slices' block, and the blocks whose registers lie below the stations or above the slices.
-/

set_option Elab.async false

namespace Sys2Proof.Machine

/-- A field whose outermost index counts `n` windows of `size` bytes, and whose base lies in the first, at `start`. -/
def Fld.InWindows (start n size : Nat) (f : Fld) : Prop :=
  f.dims.head? = some (n, size) ∧ start ≤ f.base ∧ f.base < start + size

/-- The fields with a register in each station's window: link, heads and spindle (R41). -/
def Reg.stationTables : List Fld := tableSTN ++ tableHD ++ tableSP

/-- The fields whose registers are neither a station's nor a slice's. -/
def Reg.cellTables : List Fld :=
  tableGCTL ++ tableTIME ++ tableLPE ++ tableMOT ++ tableLIB ++ tableCASC ++ tableHEP ++ tableCMDQ ++ tableBPM ++ tableDMA ++
    tableMEMC ++ tableFLC ++ tableTALLY ++ tablePWR ++ tableEVT ++ tableCAL ++ tableMSIX

theorem Reg.mem_table_iff {f : Fld} :
    f ∈ Reg.table ↔ f ∈ Reg.stationTables ∨ f ∈ Reg.tableSLC ∨ f ∈ Reg.cellTables := by
  delta Reg.table Reg.stationTables Reg.cellTables
  simp only [List.mem_append, or_assoc, or_left_comm, or_comm]

theorem Reg.stationTables_inWindows : ∀ f ∈ Reg.stationTables, f.InWindows 0x100000 128 0x10000 := by
  unfold Fld.InWindows
  decide +kernel

theorem Reg.tableSLC_inWindows : ∀ f ∈ Reg.tableSLC, f.InWindows 0x900000 96 0x4000 := by
  unfold Fld.InWindows
  decide +kernel

theorem Reg.cellTables_outside : ∀ f ∈ Reg.cellTables, f.base < 0x100000 ∨ 0xC00000 ≤ f.base := by decide +kernel

/-- A field of the register table is in the stations' windows, in the slices' windows, or outside both address ranges. -/
theorem Reg.table_windows {f : Fld} (hf : f ∈ Reg.table) :
    f.InWindows 0x100000 128 0x10000 ∨ f.InWindows 0x900000 96 0x4000 ∨ f.base < 0x100000 ∨ 0xC00000 ≤ f.base :=
  (Reg.mem_table_iff.1 hf).imp (Reg.stationTables_inWindows f) (.imp (Reg.tableSLC_inWindows f) (Reg.cellTables_outside f))

theorem Reg.table_inStationWindows {f : Fld} (hf : f ∈ Reg.table) (hlo : 0x100000 ≤ f.base) (hhi : f.base < 0x900000) :
    f.InWindows 0x100000 128 0x10000 := by
  obtain hstn | ⟨-, hslc, -⟩ | hout := Reg.table_windows hf
  · exact hstn
  · omega
  · omega

theorem Reg.table_inSliceWindows {f : Fld} (hf : f ∈ Reg.table) (hlo : 0x900000 ≤ f.base) (hhi : f.base < 0xC00000) :
    f.InWindows 0x900000 96 0x4000 := by
  obtain ⟨-, -, hstn⟩ | hslc | hout := Reg.table_windows hf
  · omega
  · exact hslc
  · omega

/-- Settles O15: the address range that holds a field's base decides the windows it lies in; STN_LINK_CTRL.ENABLE and
SLC_CTRL.AVAIL are fields of the two blocks. -/
theorem stationAndSliceWindows : Obligations.StationAndSliceWindows := by
  unfold Obligations.StationAndSliceWindows
  refine ⟨fun f hf hlo hhi => ?_, fun f hf hlo hhi => ?_, ⟨Reg.STN_LINK_CTRL_ENABLE, ?_, by decide⟩,
    Reg.SLC_CTRL_AVAIL, ?_, by decide⟩
  · obtain ⟨hdims, -, hlt⟩ := Reg.table_inStationWindows hf hlo hhi
    exact ⟨hdims, hlt⟩
  · obtain ⟨hdims, -, hlt⟩ := Reg.table_inSliceWindows hf hlo hhi
    exact ⟨hdims, hlt⟩
  · exact Reg.mem_table_iff.2 (.inl (by simp [Reg.stationTables, Reg.tableSTN]))
  · exact Reg.mem_table_iff.2 (.inr (.inl (by simp [Reg.tableSLC])))

end Sys2Proof.Machine
end

section
/-!
PROOF. TIME and device memory stay sound (O5), reset and PORST (O3, O4, O14), the idle step (O2) and the count of one cycle (O11).
-/

set_option Elab.async false

namespace Sys2Proof.Machine

/-! ### Soundness (R49 to R51) -/

theorem Keeps.sound {m : Nat} {s t : State} (h : Keeps m s t) (hs : s.sound) : t.sound := by
  obtain ⟨_, htime, hmem, _⟩ := h
  exact hs.imp htime hmem

/-- Settles O5: every command and every idle step keeps TIME valid and device memory in its canonical form. -/
theorem everyStepKeepsSoundness : Obligations.EveryStepKeepsSoundness := by
  unfold Obligations.EveryStepKeepsSoundness
  intro s t hs h
  obtain ⟨_, rfl⟩ | ⟨c, rest, _, h⟩ := step_cases h
  · exact s.idle_keeps.sound hs
  · exact Keeps.sound (exec_keeps c { s with pending := rest } t h) hs

/-! ### Reset (R53, R854) -/

/-- Settles O4: TIME is 0 and device memory lists nothing. -/
theorem resetStateIsSound : Obligations.ResetStateIsSound := by
  unfold Obligations.ResetStateIsSound State.sound State.timeOk
  decide

/-- Settles O3: no register has been written, so each reads as its reset value. -/
theorem resetLeavesTheStartState : Obligations.ResetLeavesTheStartState := by
  unfold Obligations.ResetLeavesTheStartState
  exact ⟨⟨rfl, rfl, rfl, rfl, rfl, rfl, rfl, rfl, rfl, rfl⟩, fun _ _ _ => rfl⟩

/-! ### The idle step (R50, R55) -/

@[simp] theorem State.coarse_regs (s : State) (n : Nat) : (s.coarse n).regs = s.regs :=
  s.advance_regs (coarseTicks s.tb.coarsePhase n)

@[simp] theorem State.coarse_rd (s : State) (n : Nat) (f : Fld) (i : Nat) : (s.coarse n).rd f i = s.rd f i :=
  s.advance_rd (coarseTicks s.tb.coarsePhase n) f i

@[simp] theorem State.coarse_mem (s : State) (n : Nat) : (s.coarse n).mem = s.mem :=
  s.advance_mem (coarseTicks s.tb.coarsePhase n)

@[simp] theorem State.coarse_out (s : State) (n : Nat) : (s.coarse n).out = s.out :=
  s.advance_out (coarseTicks s.tb.coarsePhase n)

@[simp] theorem State.coarse_pending (s : State) (n : Nat) : (s.coarse n).pending = s.pending :=
  s.advance_pending (coarseTicks s.tb.coarsePhase n)

theorem step_of_empty {s : State} (h : s.pending = []) : step s = .next s.idle := by
  rw [step, h]

/-- Settles O2: the idle step lets time pass on the clock that runs. -/
theorem emptyQueueIdles : Obligations.EmptyQueueIdles := by
  unfold Obligations.EmptyQueueIdles
  refine ⟨fun s hp hn hc => ?_, fun s hp hn hc => ?_, fun s hp => ⟨_, step_of_empty hp, ?_⟩⟩
  · simp [step_of_empty hp, State.idle, hn, hc]
  · simp [step_of_empty hp, State.idle, hn, hc]
  · unfold State.idle
    split
    · simp [hp]
    · split <;> simp [hp]

/-! ### One cycle (R50, R51) -/

/-- A linear count of whole seconds and a rest splits into TIME_SEC, which wraps, and TIME_TICK. -/
theorem State.setLin_split (s : State) {sec tick : Nat} (h : tick < hz) :
    s.setLin (hz * sec + tick) = { s with tb := { s.tb with sec := sec % 2 ^ 32, tick := tick } } := by
  have hdiv : (hz * sec + tick) / hz = sec := by
    rw [Nat.mul_add_div (by decide), Nat.div_eq_of_lt h, Nat.add_zero]
  rw [State.setLin, hdiv, Nat.mul_add_mod, Nat.mod_eq_of_lt h]

/-- Within the second only TIME_TICK and the elapsed cycles count. -/
theorem State.advance_within (s : State) {n : Nat} (hsec : s.tb.sec < 2 ^ 32) (h : s.tb.tick + n < hz) :
    s.advance n = { s with tb := { s.tb with tick := s.tb.tick + n }, now := s.now + n } := by
  rw [State.advance, State.lin, Nat.add_assoc, State.setLin_split s h, Nat.mod_eq_of_lt hsec]

/-- The cycles left of a second lead to tick 0 of the next (R50), which wraps (R51). -/
theorem State.advance_second (s : State) {n : Nat} (h : s.tb.tick + n = hz) :
    s.advance n = { s with tb := { s.tb with tick := 0, sec := (s.tb.sec + 1) % 2 ^ 32 }, now := s.now + n } := by
  rw [State.advance, State.lin, Nat.add_assoc, h, ← Nat.mul_succ, ← Nat.add_zero (hz * _), State.setLin_split s (by decide)]

/-- Settles O11: a cycle counts within the second or completes it. -/
theorem timeCountsEveryCycle : Obligations.TimeCountsEveryCycle := by
  unfold Obligations.TimeCountsEveryCycle
  refine ⟨fun s ⟨_, hsec⟩ h => s.advance_within hsec h, fun s _ h hsec => ?_, fun s _ h hsec => ?_⟩
  · rw [s.advance_second (by rw [h]; rfl), Nat.mod_eq_of_lt (by omega)]
  · rw [s.advance_second (by rw [h]; rfl), show (s.tb.sec + 1) % 2 ^ 32 = 0 by rw [hsec]; rfl]

/-! ### PORST_N (R53) -/

/-- A key that a filter does not let through reads as the default. -/
theorem mget_filter_false {α : Type} (d : α) (p : Nat × α → Bool) (l : List (Nat × α)) {k : Nat} (h : ∀ v, p (k, v) = false) :
    mget d (l.filter p) k = d := by
  induction l with
  | nil => rfl
  | cons q r ih =>
    obtain ⟨a, b⟩ := q
    rw [List.filter_cons]
    split
    · next hq =>
      have hne : a ≠ k := by rintro rfl; rw [h b] at hq; cases hq
      rw [mget, if_neg hne, ih]
    · exact ih

/-- While PORST_N is asserted the discipline state reads as FREE: no register but the spares' record stands (R875). -/
theorem execPorstAssert_free (s : State) :
    ∃ t, execPorstAssert s = .next t ∧ t.pw.porst = true ∧ t.rd Reg.TIME_STATUS_STATE 0 = dFree :=
  ⟨_, rfl, rfl, mget_filter_false _ _ _ fun _ => rfl⟩

/-- The deassertion of PORST_N sets TIME to 0 and writes the straps alone. -/
theorem execPorstDeassert_of_porst {s : State} (h : s.pw.porst = true) (a : BitVec 2) (m c : Bool) :
    ∃ u, execPorstDeassert a m c s = .next u ∧ u.tb.sec = 0 ∧ u.tb.tick = 0 ∧
      u.rd Reg.TIME_STATUS_STATE 0 = s.rd Reg.TIME_STATUS_STATE 0 := by
  refine ⟨_, by rw [execPorstDeassert, h]; rfl, rfl, rfl, ?_⟩
  calc _ = ((s.setLin 0).wr Reg.GCTL_CELL_MGMT_ADDR 0 a.toNat).rd Reg.TIME_STATUS_STATE 0 := State.rd_wrB_ne _ _ _ _ _ _ (by decide)
    _ = (s.setLin 0).rd Reg.TIME_STATUS_STATE 0 := State.rd_wr_ne _ _ _ _ _ _ (by decide)

/-- Settles O14: the assertion takes the discipline state to FREE, the deassertion TIME to 0. -/
theorem porstLeavesTimeZeroInFree : Obligations.PorstLeavesTimeZeroInFree := by
  unfold Obligations.PorstLeavesTimeZeroInFree
  intro s a m c
  obtain ⟨t, ht, hporst, hfree⟩ := execPorstAssert_free s
  obtain ⟨u, hu, hsec, htick, hstate⟩ := execPorstDeassert_of_porst hporst a m c
  exact ⟨t, u, ht, hu, hsec, htick, hstate.trans hfree⟩

end Sys2Proof.Machine
end

section
/-!
PROOF. TIME on its clocks (O16): what the operations of time do to T and to what is kept of TIME.
-/

set_option Elab.async false

namespace Sys2Proof.Machine

theorem State.gives_of_exec {s t : State} {c : Instr} {p : State → Prop} (h : exec c s = .next t) (hp : p t) : s.gives c p :=
  ⟨t, h, hp⟩

/-! ### The linear count T -/

/-- What a number lacks to its next multiple of m completes it to one. -/
theorem add_lack_mod (x : Nat) {m : Nat} (hm : 0 < m) : (x + (m - x % m)) % m = 0 := by
  have hdiv := Nat.div_add_mod x m
  have hlt := Nat.mod_lt x hm
  refine Nat.mod_eq_zero_of_dvd ⟨x / m + 1, ?_⟩
  rw [Nat.mul_succ]
  omega

/-- The same where a multiple lacks nothing. -/
theorem add_lack_mod_mod (x : Nat) {m : Nat} (hm : 0 < m) : (x + (m - x % m) % m) % m = 0 := by
  rw [Nat.add_mod_mod, add_lack_mod x hm]

/-- The rest of T by a divisor of its modulus counts on with it. -/
theorem State.advance_lin_mod (s : State) (n : Nat) {m : Nat} (hm : m ∣ linMod) : (s.advance n).lin % m = (s.lin + n) % m := by
  rw [State.advance_lin, Nat.mod_mod_of_dvd _ hm]

/-- T moved on to a multiple of m is one, where the modulus of T is. -/
theorem State.advanceMod_lin_mod (s : State) {m : Nat} (hm : m ∣ linMod) : (s.advanceMod m).lin % m = 0 := by
  rw [State.advanceMod, State.advance_lin_mod _ _ hm, add_lack_mod _ (Nat.pos_of_dvd_of_pos hm (by decide))]

theorem State.coarse_lin (s : State) (n : Nat) : (s.coarse n).lin = (s.lin + coarseTicks s.tb.coarsePhase n) % linMod :=
  s.advance_lin (coarseTicks s.tb.coarsePhase n)

/-! ### What leaves TIME alone -/

@[simp] theorem State.raise_tb (s : State) (code : Nat) (data : List Nat) : (s.raise code data).tb = s.tb :=
  (s.raise_keeps code data).part .tb (by decide +kernel)

@[simp] theorem State.raise_now (s : State) (code : Nat) (data : List Nat) : (s.raise code data).now = s.now :=
  (s.raise_keeps code data).part .now (by decide +kernel)

@[simp] theorem State.noStack_tb (s : State) : s.noStack.tb = s.tb := s.noStack_keeps.part .tb (by decide +kernel)

@[simp] theorem State.noStack_now (s : State) : s.noStack.now = s.now := s.noStack_keeps.part .now (by decide +kernel)

@[simp] theorem State.presentSync_tb (s : State) : s.presentSync.tb = s.tb := s.presentSync_keeps.part .tb (by decide +kernel)

@[simp] theorem State.presentSync_now (s : State) : s.presentSync.now = s.now :=
  s.presentSync_keeps.part .now (by decide +kernel)

/-! ### ACQUIRE is entered (R66) -/

@[simp] theorem State.enterAcquire_tb (s : State) :
    s.enterAcquire.tb = { s.tb with lockRun := 0, stepErrs := [], holdFrom := s.now } := by
  simp only [State.enterAcquire, State.setLocked, State.wrB_tb, State.wr_tb, State.wrB_now, State.wr_now, State.noStack_tb,
    State.noStack_now]

theorem State.enterAcquire_state (s : State) : s.enterAcquire.rd Reg.TIME_STATUS_STATE 0 = dAcquire := by
  calc _ = (s.noStack.wr Reg.TIME_STATUS_STATE 0 dAcquire).rd Reg.TIME_STATUS_STATE 0 := State.rd_wrB_ne _ _ _ _ _ _ (by decide)
    _ = dAcquire := State.rd_wr_same ..

theorem State.enterAcquire_lin (s : State) : s.enterAcquire.lin = s.lin := by
  simp only [State.lin, State.enterAcquire_tb]

/-! ### The clocks (R50, R51, R55, R70) -/

theorem gives_timeSecondRollover (s : State) (ht : s.timeOk) (hc : s.tb.cclk = true) :
    s.gives .timeSecondRollover fun t =>
      t.tb.tick = 0 ∧ t.tb.sec = (s.tb.sec + 1) % 2 ^ 32 ∧ t.now = s.now + (hz - s.tb.tick) := by
  obtain ⟨htick, -⟩ := ht
  have hexec : exec .timeSecondRollover s = .next (s.advance (hz - s.tb.tick)).presentSync := if_pos hc
  refine State.gives_of_exec hexec ?_
  rw [State.presentSync_tb, State.presentSync_now, s.advance_second (Nat.add_sub_of_le htick.le)]
  exact ⟨rfl, rfl, rfl⟩

theorem gives_cclkStart (s : State) (hm : s.mode ≠ mBanked) (hc : s.tb.cclk = false) (hr : s.tb.reload = none)
    (hp : s.pw.porst = false) :
    s.gives .cclkStart fun t => t.tb.cclk = true ∧ t.lin = (s.lin + coarseTicks s.tb.coarsePhase 1) % linMod ∧
      t.rd Reg.TIME_STATUS_STATE 0 = s.rd Reg.TIME_STATUS_STATE 0 := by
  have hgo : ¬(s.mode = mBanked ∨ s.tb.cclk ∨ s.tb.reload.isSome ∨ s.pw.porst) := by simp [hm, hc, hr, hp]
  exact ⟨_, if_neg hgo, rfl, s.coarse_lin 1, s.coarse_rd 1 _ _⟩

theorem gives_referenceClockLost (s : State) :
    s.gives .referenceClockLost fun t => t.tb.cclk = false ∧ t.tb.refClk = false ∧ t.lin = s.lin ∧ t.now = s.now :=
  ⟨_, rfl, rfl, rfl, rfl, rfl⟩

theorem gives_fineTimeReload (s : State) {t0 : Nat} (hr : s.tb.reload = some t0) (hen : s.flag Reg.TIME_CTRL_PPS_EN 0 = true) :
    s.gives (.fineTimeReload true) fun t => t.tb.reload = none ∧ t.tb.cclk = true ∧
      t.rd Reg.TIME_STATUS_STATE 0 = dAcquire ∧ t.lin = s.lin := by
  refine ⟨({ s with tb := { s.tb with reload := none, cclk := true } } : State).enterAcquire, ?_, ?_, ?_,
    State.enterAcquire_state _, State.enterAcquire_lin _⟩
  · simp [exec, execFineTimeReload, hr, hen]
  · rw [State.enterAcquire_tb]
  · rw [State.enterAcquire_tb]

/-! ### Servo periods (R76, R106) -/

/-- What every step of a fold keeps and the step of one element makes true is true after the fold. -/
theorem foldl_of_mem {α σ : Type} {f : σ → α → σ} {p : σ → Prop} {l : List α} (hkeep : ∀ t, ∀ b ∈ l, p t → p (f t b)) {a : α}
    (ha : a ∈ l) (hmake : ∀ t, p (f t a)) (s : σ) : p (l.foldl f s) := by
  obtain ⟨before, after, rfl⟩ := List.append_of_mem ha
  rw [List.foldl_append, List.foldl_cons]
  exact List.foldlRecOn after f (hmake _) fun t ht b hb => hkeep t b (by simp [hb]) ht

/-- A lane for which there is a block sends it, and nothing sent before is lost. -/
theorem State.emitLanes_out (s : State) (n : Nat) (b : Nat → Option Nat) :
    (s.emitLanes n b).out = ((b 1).map (Out.block n 1)).toList ++ ((b 0).map (Out.block n 0)).toList ++ s.out := by
  simp only [State.emitLanes, List.foldl_cons, List.foldl_nil]
  cases b 0 <;> cases b 1 <;> rfl

/-- From DESKEW to the last state before ACTIVE is left, both lanes send ALIGN. -/
theorem laneBlock_align {state : Nat} (hlo : 3 ≤ state) (hhi : state ≤ 6) (lane k : Nat) :
    laneBlock state lane k = some (alignBlock k) := by
  obtain rfl | rfl | rfl | rfl : state = 3 ∨ state = 4 ∨ state = 5 ∨ state = 6 := by omega
  all_goals rfl

/-- The period's blocks of every port. -/
def State.sendLanes (s : State) : State :=
  (upTo 128).foldl (fun t n => t.emitLanes n fun lane => laneBlock (s.rd Reg.STN_LINK_STATUS_STATE n) lane s.period) s

theorem State.sendLanes_keeps (s : State) : Keeps State.emitLanes_mask s s.sendLanes :=
  Keeps.foldl (fun t _ => t.emitLanes_keeps _ _) (Keeps.refl _ _)

theorem State.sendLanes_align (s : State) {n lane : Nat} (hn : n ∈ upTo 128) (hl : lane ∈ upTo 2)
    (hlo : 3 ≤ s.rd Reg.STN_LINK_STATUS_STATE n) (hhi : s.rd Reg.STN_LINK_STATUS_STATE n ≤ 6) :
    Out.block n lane (alignBlock s.period) ∈ s.sendLanes.out := by
  refine foldl_of_mem (p := fun t : State => Out.block n lane (alignBlock s.period) ∈ t.out) (fun t m _ ht => ?_) hn (fun t => ?_) s
  · rw [State.emitLanes_out]
    exact List.mem_append_right _ ht
  · have hlane : lane = 0 ∨ lane = 1 := by have := List.mem_range.1 hl; omega
    rw [State.emitLanes_out, laneBlock_align hlo hhi, laneBlock_align hlo hhi]
    obtain rfl | rfl := hlane <;> simp

/-- T moved on to where a servo period begins; it stays where one has just begun by a step or a load. -/
def State.toPeriod (s : State) : State := if s.lin % 5000 = 0 ∧ s.tb.periodAt ≠ some s.now then s else s.advanceMod 5000

theorem State.toPeriod_lin_mod (s : State) : s.toPeriod.lin % 5000 = 0 := by
  unfold State.toPeriod
  split
  · next h => exact h.1
  · exact s.advanceMod_lin_mod (by decide)

theorem State.toPeriod_now_le (s : State) : s.now ≤ s.toPeriod.now := by
  unfold State.toPeriod
  split
  · exact le_rfl
  · exact (s.advance_now _).symm ▸ Nat.le_add_right _ _

theorem State.toPeriod_rd (s : State) (f : Fld) (i : Nat) : s.toPeriod.rd f i = s.rd f i := by
  unfold State.toPeriod
  split
  · rfl
  · exact s.advance_rd _ f i

theorem gives_servoPeriodStart (s : State) :
    s.gives .servoPeriodStart fun t => t.lin % 5000 = 0 ∧ s.now ≤ t.now ∧ t.tb.periodAt = some t.now ∧
      ∀ n ∈ upTo 128, ∀ lane ∈ upTo 2, 3 ≤ s.rd Reg.STN_LINK_STATUS_STATE n → s.rd Reg.STN_LINK_STATUS_STATE n ≤ 6 →
        Out.block n lane (alignBlock t.period) ∈ t.out := by
  let u : State := { s.toPeriod with tb := { s.toPeriod.tb with periodAt := some s.toPeriod.now } }
  have htb : u.sendLanes.tb = u.tb := u.sendLanes_keeps.part .tb (by decide +kernel)
  have hnow : u.sendLanes.now = u.now := u.sendLanes_keeps.part .now (by decide +kernel)
  have hlin : u.sendLanes.lin = u.lin := State.lin_congr htb
  refine State.gives_of_exec (t := u.sendLanes) rfl ⟨?_, ?_, ?_, fun n hn lane hl hlo hhi => ?_⟩
  · rw [hlin]
    exact s.toPeriod_lin_mod
  · rw [hnow]
    exact s.toPeriod_now_le
  · rw [htb, hnow]
  · rw [State.period, hlin]
    rw [← s.toPeriod_rd] at hlo hhi
    exact u.sendLanes_align hn hl hlo hhi

/-- Settles O16, one command after the other. -/
theorem timeCountsOnItsClock : Obligations.TimeCountsOnItsClock := by
  unfold Obligations.TimeCountsOnItsClock
  exact ⟨gives_timeSecondRollover, gives_cclkStart, gives_referenceClockLost, fun s _ => gives_fineTimeReload s,
    gives_servoPeriodStart⟩

end Sys2Proof.Machine
end

section
/-!
PROOF. The discipline of TIME by PPS (O17): edges that are captured and rejected, steps, HOLDOVER and the controls of PPS.
-/

set_option Elab.async false

namespace Sys2Proof.Machine

theorem State.flag_eq_true {s : State} {f : Fld} {i : Nat} (h : s.rd f i = 1) : s.flag f i = true := by rw [State.flag, h]; rfl

theorem State.flag_eq_false {s : State} {f : Fld} {i : Nat} (h : s.rd f i = 0) : s.flag f i = false := by rw [State.flag, h]; rfl

/-! ### Captured edges (R56 to R58) -/

/-- After TIME is captured an edge is judged: TIME_PPS_CAP and the elapsed time stay. -/
theorem State.captureEdge_keeps_capture (s : State) :
    Keeps (State.setCand_mask ||| State.acceptEdge_mask ||| State.rejectEdge_mask) (s.wr Reg.TIME_PPS_CAP_CAP 0 s.time) s.captureEdge := by
  unfold State.captureEdge
  generalize s.wr Reg.TIME_PPS_CAP_CAP 0 s.time = u
  have hcand : Keeps (State.setCand_mask ||| State.acceptEdge_mask ||| State.rejectEdge_mask) u u.setCand :=
    u.setCand_keeps.mono
  have haccept (iv : Nat) (fresh : Bool) :
      Keeps (State.setCand_mask ||| State.acceptEdge_mask ||| State.rejectEdge_mask) u (u.acceptEdge iv fresh) :=
    (u.acceptEdge_keeps iv fresh).mono
  have hreject (iv : Nat) : Keeps (State.setCand_mask ||| State.acceptEdge_mask ||| State.rejectEdge_mask) u (u.rejectEdge iv) :=
    (u.rejectEdge_keeps iv).mono
  dsimp only
  split
  · exact hcand
  · exact .ite (haccept ..) (hreject _)
  · exact .ite (haccept ..) (hreject _)
  · exact .ite (haccept ..) (.ite (haccept ..) (hreject _))

theorem State.captureEdge_capture (s : State) : s.captureEdge.rd Reg.TIME_PPS_CAP_CAP 0 = s.time % 2 ^ 64 := by
  rw [s.captureEdge_keeps_capture.rd _ _ (by decide +kernel)]
  exact State.rd_wr_same ..

theorem State.captureEdge_now (s : State) : s.captureEdge.now = s.now := s.captureEdge_keeps.part .now (by decide +kernel)

/-- An edge out of range of the accepted one, with no candidate, is rejected. -/
theorem State.captureEdge_of_reject {s : State} {a : Nat} (ha : s.tb.lastAcc = some a) (hc : s.tb.cand = none)
    (hiv : intervalOk (s.now - a) = false) :
    s.captureEdge = (s.wr Reg.TIME_PPS_CAP_CAP 0 s.time).rejectEdge (s.now - a) := by
  simp only [State.captureEdge, State.wr_tb, State.wr_now, ha, hc, hiv, Bool.false_eq_true, if_false]

@[simp] theorem State.rejectEdge_tb (s : State) (iv : Nat) :
    (s.rejectEdge iv).tb = { s.tb with cand := some s.now, candSlew := s.tb.slewTotal s.now } := by
  simp only [State.rejectEdge, State.setCand, State.raise_tb, State.raise_now, State.set1_tb, State.set1_now]

theorem State.rejectEdge_rd (s : State) (iv : Nat) {f : Fld} (i : Nat) (hf : State.raise_mask.testBit (f.id % 8192) = false) :
    (s.rejectEdge iv).rd f i = (s.set1 Reg.TIME_STATUS_PPS_REJ 0).rd f i :=
  Keeps.rd (State.raise_keeps ..) f i hf

/-- An edge of the selected polarity while PPS disciplines TIME is captured. -/
theorem exec_ppsEdge_of_selected {s : State} {fall : Bool} (hen : s.flag Reg.TIME_CTRL_PPS_EN 0 = true)
    (hpol : s.flag Reg.TIME_CTRL_PPS_FALL 0 = fall) (hst : s.rd Reg.TIME_STATUS_STATE 0 ≠ dStack) (dt : Nat) :
    exec (.ppsEdge dt fall) s = .next (s.advance dt).captureEdge := by
  refine if_pos ?_
  simp only [State.flag, State.advance_rd] at hen hpol ⊢
  simp [hen, hpol, hst]

theorem gives_ppsEdge_capture (s : State) (dt : Nat) (fall : Bool) (hen : s.flag Reg.TIME_CTRL_PPS_EN 0 = true)
    (hpol : s.flag Reg.TIME_CTRL_PPS_FALL 0 = fall) (hst : s.rd Reg.TIME_STATUS_STATE 0 ≠ dStack) :
    s.gives (.ppsEdge dt fall) fun t =>
      t.rd Reg.TIME_PPS_CAP_CAP 0 = (s.advance dt).time % 2 ^ 64 ∧ t.now = s.now + dt :=
  State.gives_of_exec (exec_ppsEdge_of_selected hen hpol hst dt)
    ⟨State.captureEdge_capture _, (State.captureEdge_now _).trans (s.advance_now dt)⟩

@[simp] theorem State.advance_lastAcc (s : State) (n : Nat) : (s.advance n).tb.lastAcc = s.tb.lastAcc := by
  rw [State.advance_tb]; rfl

@[simp] theorem State.advance_cand (s : State) (n : Nat) : (s.advance n).tb.cand = s.tb.cand := by
  rw [State.advance_tb]; rfl

theorem gives_ppsEdge_reject (s : State) (dt a : Nat) (fall : Bool) (hen : s.flag Reg.TIME_CTRL_PPS_EN 0 = true)
    (hpol : s.flag Reg.TIME_CTRL_PPS_FALL 0 = fall) (hst : s.rd Reg.TIME_STATUS_STATE 0 ≠ dStack)
    (ha : s.tb.lastAcc = some a) (hc : s.tb.cand = none) (hiv : intervalOk (s.now + dt - a) = false) :
    s.gives (.ppsEdge dt fall) fun t => t.flag Reg.TIME_STATUS_PPS_REJ 0 = true ∧ t.tb.cand = some (s.now + dt) ∧
      t.tb.lastAcc = some a ∧ t.rd Reg.TIME_STATUS_STATE 0 = s.rd Reg.TIME_STATUS_STATE 0 := by
  refine State.gives_of_exec (exec_ppsEdge_of_selected hen hpol hst dt) ?_
  rw [State.captureEdge_of_reject (by rw [State.advance_lastAcc, ha]) (by rw [State.advance_cand, hc])
    (by rw [State.advance_now, hiv])]
  refine ⟨State.flag_eq_true ?_, ?_, ?_, ?_⟩
  · rw [State.rejectEdge_rd _ _ _ (by decide +kernel), State.rd_set1]; rfl
  · simp
  · simp [ha]
  · rw [State.rejectEdge_rd _ _ _ (by decide +kernel), State.rd_set1_ne _ _ _ _ _ (by decide), State.rd_wr_ne _ _ _ _ _ _ (by decide),
      State.advance_rd]

/-! ### Jumps of TIME (R62, R63, R80) -/

theorem State.setLin_timeOk (s : State) (t : Nat) : (s.setLin t).timeOk := ⟨Nat.mod_lt _ (by decide), Nat.mod_lt _ (by decide)⟩

theorem State.lin_lt_linMod {s : State} (h : s.timeOk) : s.lin < linMod := by
  obtain ⟨htick, hsec⟩ := h
  simp only [State.lin, linMod, hz] at *
  omega

/-- A valid TIME set to itself. -/
theorem State.setLin_lin_self {s : State} (h : s.timeOk) : s.setLin s.lin = s := by
  obtain ⟨htick, hsec⟩ := h
  rw [State.lin, State.setLin_split s htick, Nat.mod_eq_of_lt hsec]

theorem State.setLin_tb_congr {s t : State} (h : t.tb = s.tb) (x : Nat) : (t.setLin x).tb = (s.setLin x).tb := by
  simp only [State.setLin, h]

/-- The tally's work on a jump leaves a valid TIME as it was, though it sets TIME back for a while to close its intervals. -/
theorem State.tallyJump_tb {s : State} (h : s.timeOk) (kind : Nat) (d : Int) : (s.tallyJump kind d).tb = s.tb := by
  unfold State.tallyJump
  split
  · rfl
  · extract_lets +onlyGivenNames before s0 s1 last crossed t tally s2
    have h0 : s0.tb = s.tb := by
      have hpass : (s.setLin before.toNat).passBoundaries.tb = (s.setLin before.toNat).tb :=
        (State.passBoundaries_keeps _).part .tb (by decide +kernel)
      calc s0.tb = ((s.setLin before.toNat).setLin s.lin).tb := State.setLin_tb_congr hpass _
        _ = s.tb := congrArg State.tb (State.setLin_lin_self h)
    have h1 : s1.tb = s0.tb :=
      (Keeps.step (m := State.takeTaps_mask ||| State.markInterval_mask) (State.markInterval_keeps ..)
        (Keeps.mono (State.takeTaps_keeps ..))).part .tb (by decide +kernel)
    have h2 : s2.tb = s1.tb := by
      unfold s2
      split
      · exact (Keeps.step (m := State.closeAll_mask ||| State.openInterval_mask ||| State.markCarry_mask) (State.markCarry_keeps ..)
          (Keeps.step (State.openInterval_keeps ..) (Keeps.mono (State.closeAll_keeps ..)))).part .tb (by decide +kernel)
      · rfl
    exact h2.trans (h1.trans h0)

theorem State.jumped_tb {s : State} (h : s.timeOk) (code kind : Nat) (d : Int) : (s.jumped code kind d).tb = s.tb := by
  have hraise : (s.raise code (i2 d)).timeOk := by simpa only [State.timeOk, State.raise_tb] using h
  rw [State.jumped, State.tallyJump_tb hraise, State.raise_tb]

@[simp] theorem State.showFreq_tb (s : State) (wasAt : Bool) : (s.showFreq wasAt).tb = s.tb :=
  (s.showFreq_keeps wasAt).part .tb (by decide +kernel)

theorem State.slew_lin (s : State) (e : Int) : (s.slew e).lin = s.lin := rfl

/-- What is left of TIME after a jump is reported: the slew that begins with it, and nothing else. -/
theorem State.reportJump_tb {s : State} (h : s.timeOk) (e : Int) (wasAt : Bool) (code kind : Nat) (d : Int) :
    (((s.slew e).showFreq wasAt).jumped code kind d).tb = (s.slew e).tb := by
  have hok : ((s.slew e).showFreq wasAt).timeOk := by
    rw [State.timeOk, State.showFreq_tb]
    exact h
  rw [State.jumped_tb hok, State.showFreq_tb]

/-- What the report of a jump and the slew that begins with it may change. -/
def reportJump_mask : Nat := State.slew_mask ||| State.showFreq_mask ||| State.jumped_mask

theorem State.reportJump_keeps (s : State) (e : Int) (wasAt : Bool) (code kind : Nat) (d : Int) :
    Keeps reportJump_mask s (((s.slew e).showFreq wasAt).jumped code kind d) :=
  Keeps.step (State.jumped_keeps ..) (Keeps.step (State.showFreq_keeps ..) (Keeps.mono (State.slew_keeps ..)))

/-! ### TIME_STEP (R62, R63) -/

/-- TIME moved by the pending step, with the step counted. -/
def State.stepped (s : State) (d : Int) : State :=
  ((((s.advanceMod 80000).moveTime (-d)).set1 Reg.TIME_STATUS_STEPPED 0).bump Reg.TIME_STEPS_COUNT 0 1).dropStep

theorem State.stepped_tb (s : State) (d : Int) :
    (s.stepped d).tb = { ((s.advanceMod 80000).moveTime (-d)).tb with stepPending := none } := rfl

theorem State.stepped_lin (s : State) (d : Int) :
    (s.stepped d).lin = ((((s.advanceMod 80000).lin : Int) - d) % (linMod : Int)).toNat := by
  have hpos : (0 : Int) < linMod := by decide
  have hlt := Int.emod_lt_of_pos (((s.advanceMod 80000).lin : Int) - d) hpos
  calc (s.stepped d).lin = ((s.advanceMod 80000).moveTime (-d)).lin := by simp only [State.lin, State.stepped_tb]
    _ = ((((s.advanceMod 80000).lin : Int) - d) % (linMod : Int)).toNat % linMod := State.setLin_lin _ _
    _ = _ := Nat.mod_eq_of_lt (by omega)

/-- What a step may change before ACQUIRE is entered. -/
def State.stepped_mask : Nat :=
  State.advanceMod_mask ||| State.moveTime_mask ||| State.dropStep_mask ||| fieldBits [Reg.TIME_STATUS_STEPPED, Reg.TIME_STEPS_COUNT]

theorem State.stepped_keeps (s : State) (d : Int) : Keeps State.stepped_mask s (s.stepped d) :=
  Keeps.step (State.dropStep_keeps ..) (Keeps.bump (Keeps.set1 (Keeps.step (State.moveTime_keeps ..)
    (Keeps.mono (State.advanceMod_keeps ..)))))

theorem State.stepped_timeOk (s : State) (d : Int) : (s.stepped d).timeOk := (s.advanceMod 80000).setLin_timeOk _

theorem State.stepped_isStepped (s : State) (d : Int) : (s.stepped d).rd Reg.TIME_STATUS_STEPPED 0 = 1 := by
  rw [State.stepped, State.dropStep, State.rd_clr_ne _ _ _ _ _ (by decide)]
  exact (State.rd_bump_ne _ _ _ _ _ _ (by decide)).trans (State.rd_set1 ..)

theorem State.dropStep_notPending (s : State) : s.dropStep.rd Reg.TIME_STATUS_STEP_PENDING 0 = 0 := State.rd_clr ..

/-- A step that may be taken moves TIME and enters ACQUIRE; its residual is slewed. -/
theorem exec_timeStep_of_pending {s : State} {d e : Int} (hstep : s.tb.stepPending = some (d, e))
    (hno : s.flag Reg.TIME_CTRL_NO_STEP 0 = false) (hst : s.rd Reg.TIME_STATUS_STATE 0 ≠ dStack) :
    exec .timeStep s = .next ((((s.stepped d).enterAcquire.slew (e - d)).showFreq s.atLimit).jumped 0x0203 0 (-d)) := by
  have hst' : (s.stepped d).rd Reg.TIME_STATUS_STATE 0 ≠ dStack := by
    rwa [(s.stepped_keeps d).rd _ _ (by decide +kernel)]
  unfold State.stepped at hst' ⊢
  simp only [exec, execTimeStep, hstep, hno, Bool.false_eq_true, if_false, if_neg hst']

theorem gives_timeStep (s : State) (d e : Int) (hstep : s.tb.stepPending = some (d, e))
    (hno : s.flag Reg.TIME_CTRL_NO_STEP 0 = false) (hd : d % 80000 = 0) (hst : s.rd Reg.TIME_STATUS_STATE 0 ≠ dStack) :
    s.gives .timeStep fun t => t.flag Reg.TIME_STATUS_STEPPED 0 = true ∧ t.flag Reg.TIME_STATUS_STEP_PENDING 0 = false ∧
      t.rd Reg.TIME_STATUS_STATE 0 = dAcquire ∧ t.tb.stepPending = none ∧
      t.lin = ((((s.advanceMod 80000).lin : Int) - d) % (linMod : Int)).toNat ∧ t.lin % 80000 = 0 := by
  refine State.gives_of_exec (exec_timeStep_of_pending hstep hno hst) ?_
  have hok : (s.stepped d).enterAcquire.timeOk := by
    rw [State.timeOk, State.enterAcquire_tb]
    exact s.stepped_timeOk d
  have hreport := (s.stepped d).enterAcquire.reportJump_keeps (e - d) s.atLimit 0x0203 0 (-d)
  have htb := State.reportJump_tb hok (e - d) s.atLimit 0x0203 0 (-d)
  have hacquire := (s.stepped d).enterAcquire_keeps
  generalize (((s.stepped d).enterAcquire.slew (e - d)).showFreq s.atLimit).jumped 0x0203 0 (-d) = t at hreport htb ⊢
  have hlin : t.lin = ((((s.advanceMod 80000).lin : Int) - d) % (linMod : Int)).toNat :=
    calc t.lin = ((s.stepped d).enterAcquire.slew (e - d)).lin := State.lin_congr htb
      _ = (s.stepped d).lin := by rw [State.slew_lin, State.enterAcquire_lin]
      _ = _ := s.stepped_lin d
  refine ⟨State.flag_eq_true ?_, State.flag_eq_false ?_, ?_, ?_, hlin, ?_⟩
  · rw [hreport.rd _ _ (by decide +kernel), hacquire.rd _ _ (by decide +kernel), State.stepped_isStepped]
  · rw [hreport.rd _ _ (by decide +kernel), hacquire.rd _ _ (by decide +kernel)]
    exact State.dropStep_notPending _
  · rw [hreport.rd _ _ (by decide +kernel), State.enterAcquire_state]
  · simp only [htb, State.slew, State.enterAcquire_tb, State.stepped_tb]
  · have hmod : (s.advanceMod 80000).lin % 80000 = 0 := s.advanceMod_lin_mod (by decide)
    have hdvd : linMod % 80000 = 0 := by decide
    rw [hlin]
    simp only [linMod, hz] at *
    omega

/-! ### HOLDOVER (R66) -/

/-- What HOLDOVER does after its state is entered. -/
theorem State.enterHoldover_keeps_state (s : State) :
    Keeps (State.slew_mask ||| State.markInterval_mask ||| State.showFreq_mask ||| State.raise_mask)
      ((s.noStack.wr Reg.TIME_STATUS_STATE 0 dHoldover).setLocked false) s.enterHoldover :=
  Keeps.step (State.raise_keeps ..) (Keeps.step (State.showFreq_keeps ..) (Keeps.step (State.markInterval_keeps ..)
    (Keeps.set_tb_v (Keeps.mono (State.slew_keeps ..)) ⟨rfl, rfl⟩)))

theorem State.enterHoldover_state (s : State) : s.enterHoldover.rd Reg.TIME_STATUS_STATE 0 = dHoldover := by
  rw [s.enterHoldover_keeps_state.rd _ _ (by decide +kernel), State.setLocked, State.rd_wrB_ne _ _ _ _ _ _ (by decide)]
  exact State.rd_wr_same ..

theorem State.enterHoldover_unlocked (s : State) : s.enterHoldover.rd Reg.GCTL_STATUS_TIME_LOCKED 0 = 0 := by
  rw [s.enterHoldover_keeps_state.rd _ _ (by decide +kernel)]
  exact State.rd_wrB ..

@[simp] theorem State.markInterval_tb (s : State) (f : Nat) : (s.markInterval f).tb = s.tb := rfl

theorem State.enterHoldover_slewErr (s : State) : s.enterHoldover.tb.slewErr = 0 := by
  simp only [State.enterHoldover, State.raise_tb, State.showFreq_tb, State.markInterval_tb, State.slew]

theorem State.enterHoldover_freq (s : State) : s.enterHoldover.tb.freq = s.tb.freq := by
  simp only [State.enterHoldover, State.raise_tb, State.showFreq_tb, State.markInterval_tb, State.slew, State.setLocked,
    State.wrB_tb, State.wr_tb, State.noStack_tb]

@[simp] theorem State.enterHoldover_now (s : State) : s.enterHoldover.now = s.now :=
  s.enterHoldover_keeps.part .now (by decide +kernel)

theorem State.le_advanceTo_now (s : State) (t : Nat) : t ≤ (s.advanceTo t).now := by
  rw [State.advanceTo, State.advance_now]
  omega

theorem State.advanceTo_freq (s : State) (t : Nat) : (s.advanceTo t).tb.freq = s.tb.freq := by
  rw [State.advanceTo, State.advance_tb]
  rfl

theorem gives_holdoverTimeout (s : State)
    (hst : s.rd Reg.TIME_STATUS_STATE 0 = dAcquire ∨ s.rd Reg.TIME_STATUS_STATE 0 = dLocked) :
    s.gives .holdoverTimeout fun t => t.rd Reg.TIME_STATUS_STATE 0 = dHoldover ∧ t.flag Reg.GCTL_STATUS_TIME_LOCKED 0 = false ∧
      t.tb.slewErr = 0 ∧ t.tb.freq = s.tb.freq ∧ s.tb.holdFrom + s.rd1 Reg.TIME_LOCK_HOLD_MISS 0 * hz ≤ t.now := by
  have hexec : exec .holdoverTimeout s =
      .next (s.advanceTo (s.tb.holdFrom + s.rd1 Reg.TIME_LOCK_HOLD_MISS 0 * hz)).enterHoldover := by
    simp only [exec, execHoldoverTimeout, if_pos hst]
  have hnow := s.le_advanceTo_now (s.tb.holdFrom + s.rd1 Reg.TIME_LOCK_HOLD_MISS 0 * hz)
  have hfreq := s.advanceTo_freq (s.tb.holdFrom + s.rd1 Reg.TIME_LOCK_HOLD_MISS 0 * hz)
  generalize s.advanceTo (s.tb.holdFrom + s.rd1 Reg.TIME_LOCK_HOLD_MISS 0 * hz) = u at hexec hnow hfreq
  refine State.gives_of_exec hexec ⟨u.enterHoldover_state, State.flag_eq_false u.enterHoldover_unlocked, u.enterHoldover_slewErr,
    u.enterHoldover_freq.trans hfreq, ?_⟩
  rwa [State.enterHoldover_now]

/-! ### The controls of PPS (R58, R66) -/

theorem gives_ppsEnableWrite_off (s : State) (hen : s.flag Reg.TIME_CTRL_PPS_EN 0 = true)
    (hst : s.rd Reg.TIME_STATUS_STATE 0 = dAcquire ∨ s.rd Reg.TIME_STATUS_STATE 0 = dLocked) :
    s.gives (.ppsEnableWrite false) fun t =>
      t.flag Reg.TIME_CTRL_PPS_EN 0 = false ∧ t.rd Reg.TIME_STATUS_STATE 0 = dHoldover := by
  have hexec : exec (.ppsEnableWrite false) s = .next (s.wrB Reg.TIME_CTRL_PPS_EN 0 false).enterHoldover := by
    obtain h | h := hst <;> simp [exec, execPpsEnableWrite, hen, h]
  refine State.gives_of_exec hexec ⟨State.flag_eq_false ?_, State.enterHoldover_state _⟩
  rw [(State.enterHoldover_keeps _).rd _ _ (by decide +kernel)]
  exact State.rd_wrB ..

theorem gives_ppsEnableWrite_on (s : State) (hen : s.flag Reg.TIME_CTRL_PPS_EN 0 = false) :
    s.gives (.ppsEnableWrite true) fun t => t.flag Reg.TIME_CTRL_PPS_EN 0 = true ∧ t.tb.lastAcc = none ∧ t.tb.cand = none := by
  refine State.gives_of_exec (if_pos (by rw [hen]; rfl)) ⟨State.flag_eq_true ?_, rfl, rfl⟩
  exact State.rd_wrB s Reg.TIME_CTRL_PPS_EN 0 true

theorem gives_ppsPolarityWrite (s : State) (fall : Bool) (hpol : s.flag Reg.TIME_CTRL_PPS_FALL 0 ≠ fall) :
    s.gives (.ppsPolarityWrite fall) fun t => t.flag Reg.TIME_CTRL_PPS_FALL 0 = fall ∧ t.tb.lastAcc = none ∧ t.tb.cand = none ∧
      t.rd Reg.TIME_STATUS_STATE 0 = s.rd Reg.TIME_STATUS_STATE 0 := by
  refine State.gives_of_exec (if_neg (by simpa using hpol)) ⟨?_, rfl, rfl, ?_⟩
  · have hrd := State.rd_wrB s Reg.TIME_CTRL_PPS_FALL 0 fall
    cases fall
    · exact State.flag_eq_false hrd
    · exact State.flag_eq_true hrd
  · exact State.rd_wrB_ne _ _ _ _ _ _ (by decide)

/-- Settles O17, one command after the other. -/
theorem disciplineFollowsPps : Obligations.DisciplineFollowsPps := by
  unfold Obligations.DisciplineFollowsPps
  exact ⟨gives_ppsEdge_capture, gives_ppsEdge_reject, gives_timeStep, gives_holdoverTimeout, gives_ppsEnableWrite_off,
    gives_ppsEnableWrite_on, gives_ppsPolarityWrite⟩

end Sys2Proof.Machine
end

section
/-!
PROOF. Loads of TIME, launches, seek slots and the configuration of vibration groups (O18).
-/

set_option Elab.async false

namespace Sys2Proof.Machine

/-! ### Loads of TIME (R52, R71 to R74) -/

theorem gives_timeLoadArm (s : State) :
    s.gives .timeLoadArm fun t => t.flag Reg.TIME_CTRL_LOAD 0 = true ∧ t.flag Reg.TIME_STATUS_LOAD_PENDING 0 = true := by
  refine State.gives_of_exec rfl ⟨State.flag_eq_true ?_, State.flag_eq_true ?_⟩
  · exact (State.rd_set1_ne _ _ _ _ _ (by decide)).trans (State.rd_set1 ..)
  · exact State.rd_set1 (s.set1 Reg.TIME_CTRL_LOAD 0) Reg.TIME_STATUS_LOAD_PENDING 0

/-- Where no TIME_SET waits for its turn, none arms its load. -/
theorem State.nextTimeSet_of_empty {s : State} (h : s.tb.loadQueue = []) : s.nextTimeSet = s := by
  have hself : ({ s with tb := { s.tb with loadQueue := [] } } : State) = s :=
    congrArg (fun q => ({ s with tb := { s.tb with loadQueue := q } } : State)) h.symm
  unfold State.nextTimeSet
  dsimp only
  split
  · exact hself
  · simp only [h, List.contains_nil, Bool.false_eq_true, if_false]

/-- A load that no TIME_SET armed, with none waiting, ends by clearing its two bits. -/
theorem State.endLoad_of_none {s : State} (hby : s.tb.loadBy = none) (hq : s.tb.loadQueue = []) (status field : Nat) :
    s.endLoad status field = (s.clr Reg.TIME_CTRL_LOAD 0).clr Reg.TIME_STATUS_LOAD_PENDING 0 := by
  let u := (s.clr Reg.TIME_CTRL_LOAD 0).clr Reg.TIME_STATUS_LOAD_PENDING 0
  have hself : ({ u with tb := { u.tb with loadBy := none } } : State) = u :=
    congrArg (fun b => ({ u with tb := { u.tb with loadBy := b } } : State)) hby.symm
  have hnext : u.nextTimeSet = u := State.nextTimeSet_of_empty hq
  simp only [State.endLoad, hby]
  exact (congrArg State.nextTimeSet hself).trans hnext

/-- The end of a load leaves both of its bits clear. -/
theorem State.clearLoad_bits (s : State) :
    ((s.clr Reg.TIME_CTRL_LOAD 0).clr Reg.TIME_STATUS_LOAD_PENDING 0).flag Reg.TIME_CTRL_LOAD 0 = false ∧
      ((s.clr Reg.TIME_CTRL_LOAD 0).clr Reg.TIME_STATUS_LOAD_PENDING 0).flag Reg.TIME_STATUS_LOAD_PENDING 0 = false := by
  refine ⟨State.flag_eq_false ?_, State.flag_eq_false (State.rd_clr ..)⟩
  exact (State.rd_clr_ne _ _ _ _ _ (by decide)).trans (State.rd_clr ..)

/-- The linear count that a load sets: the ticks of TIME_LOAD rounded down to a multiple of 80,000. -/
def State.loadLin (s : State) : Nat := s.rd Reg.TIME_LOAD_SEC 0 * hz + s.rd Reg.TIME_LOAD_TICK 0 / 80000 * 80000

/-- TIME loaded: ACQUIRE is entered and no step is pending. -/
def State.loaded (s : State) : State := ((s.advanceMod 80000).setLin s.loadLin).enterAcquire.dropStep

theorem State.loaded_tb (s : State) :
    s.loaded.tb = { ((s.advanceMod 80000).setLin s.loadLin).tb with
      lockRun := 0, stepErrs := [], holdFrom := ((s.advanceMod 80000).setLin s.loadLin).now, stepPending := none } := by
  simp only [State.loaded, State.dropStep, State.clr_tb, State.enterAcquire_tb]

theorem State.loaded_timeOk (s : State) : s.loaded.timeOk := by
  rw [State.timeOk, State.loaded_tb]
  exact (s.advanceMod 80000).setLin_timeOk _

theorem State.loaded_lin (s : State) : s.loaded.lin = s.loadLin % linMod := by
  rw [← State.setLin_lin (s.advanceMod 80000)]
  simp only [State.lin, State.loaded_tb]

theorem State.loaded_state (s : State) : s.loaded.rd Reg.TIME_STATUS_STATE 0 = dAcquire := by
  rw [State.loaded, (State.dropStep_keeps _).rd _ _ (by decide +kernel), State.enterAcquire_state]

theorem State.advanceMod_load (s : State) (m : Nat) :
    (s.advanceMod m).tb.loadBy = s.tb.loadBy ∧ (s.advanceMod m).tb.loadQueue = s.tb.loadQueue := by
  rw [State.advanceMod, State.advance_tb]
  exact ⟨rfl, rfl⟩

theorem gives_timeLoadEffect_valid (s : State) (hp : s.flag Reg.TIME_STATUS_LOAD_PENDING 0 = true) (hby : s.tb.loadBy = none)
    (hq : s.tb.loadQueue = []) (hv : timeValid s.loadValue = true) :
    s.gives .timeLoadEffect fun t => t.flag Reg.TIME_CTRL_LOAD 0 = false ∧ t.flag Reg.TIME_STATUS_LOAD_PENDING 0 = false ∧
      t.rd Reg.TIME_STATUS_STATE 0 = dAcquire ∧ t.tb.stepPending = none ∧ t.tb.slewErr = 0 ∧
      t.lin = (hz * s.rd Reg.TIME_LOAD_SEC 0 + s.rd Reg.TIME_LOAD_TICK 0 / 80000 * 80000) % linMod := by
  let d : Int := (s.loadLin : Int) - ((s.advanceMod 80000).lin : Int)
  have hexec : exec .timeLoadEffect s =
      .next ((((s.loaded.slew 0).showFreq s.atLimit).jumped 0x0205 1 d).endLoad stSuccess 0) := by
    simp only [exec, execTimeLoadEffect, hp, hv, Bool.not_true, Bool.false_eq_true, if_false]
    rfl
  have hreport := s.loaded.reportJump_keeps 0 s.atLimit 0x0205 1 d
  have htb := State.reportJump_tb s.loaded_timeOk 0 s.atLimit 0x0205 1 d
  generalize ((s.loaded.slew 0).showFreq s.atLimit).jumped 0x0205 1 d = u at hexec hreport htb
  obtain ⟨hby', hq'⟩ := s.advanceMod_load 80000
  have huby : u.tb.loadBy = none := by
    simp only [htb, State.slew, State.loaded_tb, State.setLin, hby', hby]
  have huq : u.tb.loadQueue = [] := by
    simp only [htb, State.slew, State.loaded_tb, State.setLin, hq', hq]
  rw [State.endLoad_of_none huby huq] at hexec
  obtain ⟨hload, hpend⟩ := u.clearLoad_bits
  refine State.gives_of_exec hexec ⟨hload, hpend, ?_, ?_, ?_, ?_⟩
  · rw [State.rd_clr_ne _ _ _ _ _ (by decide), State.rd_clr_ne _ _ _ _ _ (by decide), hreport.rd _ _ (by decide +kernel),
      State.loaded_state]
  · simp only [State.clr_tb, htb, State.slew, State.loaded_tb]
  · simp only [State.clr_tb, htb, State.slew]
  · calc ((u.clr Reg.TIME_CTRL_LOAD 0).clr Reg.TIME_STATUS_LOAD_PENDING 0).lin = u.lin := rfl
      _ = (s.loaded.slew 0).lin := State.lin_congr htb
      _ = s.loadLin % linMod := by rw [State.slew_lin, State.loaded_lin]
      _ = _ := by rw [State.loadLin, Nat.mul_comm hz]

theorem gives_timeLoadEffect_invalid (s : State) (hp : s.flag Reg.TIME_STATUS_LOAD_PENDING 0 = true) (hby : s.tb.loadBy = none)
    (hq : s.tb.loadQueue = []) (hv : timeValid s.loadValue = false) :
    s.gives .timeLoadEffect fun t => t.flag Reg.TIME_CTRL_LOAD 0 = false ∧ t.flag Reg.TIME_STATUS_LOAD_PENDING 0 = false ∧
      t.lin = s.lin ∧ t.now = s.now := by
  have hexec : exec .timeLoadEffect s = .next ((s.clr Reg.TIME_CTRL_LOAD 0).clr Reg.TIME_STATUS_LOAD_PENDING 0) := by
    rw [← State.endLoad_of_none hby hq stInvalidField 24]
    simp only [exec, execTimeLoadEffect, hp, hv, Bool.not_true, Bool.not_false, Bool.false_eq_true, if_false, if_true]
  obtain ⟨hload, hpend⟩ := s.clearLoad_bits
  exact State.gives_of_exec hexec ⟨hload, hpend, rfl, rfl⟩

/-! ### Launches (R81 to R88) -/

/-- A command changed under its queue and tag is found there as changed. -/
theorem State.cmd?_updCmd (s : State) (sq tag : Nat) {f : Cmd → Cmd} (hf : ∀ c, (f c).sq = c.sq ∧ (f c).tag = c.tag) :
    (s.updCmd sq tag f).cmd? sq tag = (s.cmd? sq tag).map f := by
  simp only [State.cmd?, State.updCmd]
  induction s.cmds with
  | nil => rfl
  | cons c r ih =>
    rw [List.map_cons, List.find?_cons, List.find?_cons]
    obtain hc | hc := Bool.eq_false_or_eq_true (c.sq == sq && c.tag == tag)
    · obtain ⟨hsq, htag⟩ := hf c
      simp only [hc, if_true, hsq, htag, Option.map_some]
    · simp only [hc, Bool.false_eq_true, if_false, ih]

/-- The launch of a command starts as of now. -/
def State.launchNow (s : State) (sq tag l : Nat) (late : Bool) : State :=
  s.updCmd sq tag fun x => { x with launch := none, launchT := some (l, late) }

theorem State.launchNow_cmd? {s : State} {sq tag : Nat} {c : Cmd} (hc : s.cmd? sq tag = some c) (l : Nat) (late : Bool) :
    ((s.launchNow sq tag l late).cmd? sq tag).map (fun x => (x.launch, x.launchT)) = some (none, some (l, late)) := by
  have hupd := s.cmd?_updCmd sq tag (f := fun x => { x with launch := none, launchT := some (l, late) }) fun _ => ⟨rfl, rfl⟩
  rw [State.launchNow, hupd, hc]
  rfl

theorem gives_launch_ahead (s : State) (sq tag l : Nat) (c : Cmd) (hc : s.cmd? sq tag = some c) (hl : c.launch = some l)
    (hr : c.ready = true) (hm : s.launchMode = true) (hd : 0 < timeDiff (linOf l) s.lin) :
    s.gives (.launch sq tag) fun t => t.lin % 5000 = 0 ∧ s.now + (timeDiff (linOf l) s.lin).toNat ≤ t.now ∧
      t.now < s.now + (timeDiff (linOf l) s.lin).toNat + 5000 ∧
      (t.cmd? sq tag).map (fun x => (x.launch, x.launchT)) = some (none, some (l, false)) := by
  let u := s.advance (timeDiff (linOf l) s.lin).toNat
  let v := u.advance ((5000 - u.lin % 5000) % 5000)
  have hexec : exec (.launch sq tag) s = .next (v.launchNow sq tag l false) := by
    have hlate : decide (timeDiff (linOf l) s.lin ≤ 0) = false := decide_eq_false (by omega)
    simp only [exec, execLaunch, hc, hl, hr, hm, hd, hlate, Bool.not_true, Bool.false_eq_true, or_self, if_false, if_true]
    rfl
  have hnow : v.now = s.now + (timeDiff (linOf l) s.lin).toNat + (5000 - u.lin % 5000) % 5000 := by
    rw [State.advance_now, State.advance_now]
  have hlt : (5000 - u.lin % 5000) % 5000 < 5000 := Nat.mod_lt _ (by decide)
  have hlin : v.lin % 5000 = 0 := by rw [State.advance_lin_mod _ _ (by decide), add_lack_mod_mod _ (by decide)]
  have hvc : v.cmd? sq tag = some c := by simp only [v, u, State.cmd?, State.advance_cmds] at hc ⊢; exact hc
  have htnow : (v.launchNow sq tag l false).now = v.now := rfl
  refine State.gives_of_exec hexec ⟨hlin, ?_, ?_, State.launchNow_cmd? hvc l false⟩
  · omega
  · omega

theorem gives_launch_late (s : State) (sq tag l : Nat) (c : Cmd) (hc : s.cmd? sq tag = some c) (hl : c.launch = some l)
    (hr : c.ready = true) (hm : s.launchMode = true) (hd : timeDiff (linOf l) s.lin ≤ 0) :
    s.gives (.launch sq tag) fun t =>
      (t.cmd? sq tag).map (fun x => (x.launch, x.launchT)) = some (none, some (l, true)) ∧ t.now = s.now := by
  have hexec : exec (.launch sq tag) s = .next (s.launchNow sq tag l true) := by
    have hahead : ¬0 < timeDiff (linOf l) s.lin := by omega
    simp only [exec, execLaunch, hc, hl, hr, hm, hd, hahead, decide_true, Bool.not_true, Bool.false_eq_true, or_self, if_false]
    rfl
  exact State.gives_of_exec hexec ⟨State.launchNow_cmd? hc l true, rfl⟩

theorem gives_emberLaunchExit (s : State) (hm : s.mode = mEmber) (hl : s.launches ≠ []) :
    s.gives .emberLaunchExit fun t => t.pw.trans.map Trans.to_ = some mBurn ∧ s.now ≤ t.now := by
  obtain ⟨l, r, hlr⟩ := List.exists_cons_of_ne_nil hl
  simp only [State.gives_iff, exec, execEmberLaunchExit, hlr, List.map_cons, if_pos hm, nextIs_next]
  refine ⟨rfl, ?_⟩
  exact (State.advance_now ..).symm ▸ Nat.le_add_right _ _

/-! ### Seek slots (R90 to R94) -/

theorem State.vg_congr {s t : State} (h : t.tb.vgActive = s.tb.vgActive) (f : Fld) (i : Nat) : t.vg f i = s.vg f i := by
  simp only [State.vg, h]

theorem State.vgOf_congr {s t : State} (h : t.tb.vgActive = s.tb.vgActive) (n : Nat) : t.vgOf n = s.vgOf n := by
  simp only [State.vgOf, State.vg_congr h]

theorem State.seekMax_congr {s t : State} (h : t.tb.vgActive = s.tb.vgActive) (g : Nat) : t.seekMax g = s.seekMax g := by
  simp only [State.seekMax, State.vg_congr h]

theorem State.slotUsed_congr {s t : State} (h : t.tb = s.tb) (g : Nat) : t.slotUsed g = s.slotUsed g := by
  have hslot : t.slotNow g = s.slotNow g := by
    simp only [State.slotNow, State.period, State.lin, State.seekSlotLen, State.vg, h]
  rw [State.slotUsed, State.slotUsed, hslot, h]

theorem State.toSeekSlot_vgActive (s : State) (g : Nat) : (s.toSeekSlot g).tb.vgActive = s.tb.vgActive := by
  rw [State.toSeekSlot, State.advance_tb]
  rfl

theorem State.toSeekSlot_seekQ (s : State) (g : Nat) : (s.toSeekSlot g).seekQ = s.seekQ := State.advance_seekQ ..

theorem State.toSeekSlot_now_le (s : State) (g : Nat) : s.now ≤ (s.toSeekSlot g).now := by
  rw [State.toSeekSlot, State.advance_now]
  exact Nat.le_add_right ..

/-- The cycles to a seek slot bring T, without its wrap, to a multiple of the slot. -/
theorem State.toSeekSlot_mod (s : State) (g : Nat) :
    (s.lin + ((s.toSeekSlot g).now - s.now)) % (5000 * s.seekSlotLen g) = 0 := by
  have hpos : 0 < 5000 * s.seekSlotLen g := Nat.mul_pos (by decide) (Nat.le_max_left ..)
  rw [State.toSeekSlot, State.advance_now, Nat.add_sub_cancel_left, add_lack_mod_mod _ hpos]

theorem mfind_mput_same {α : Type} (l : List (Nat × α)) (k : Nat) (v : α) : mfind (mput l k v) k = some v := by
  induction l with
  | nil => simp [mput, mfind]
  | cons p r ih =>
    obtain ⟨a, b⟩ := p
    rw [mput]
    split
    · simp [mfind]
    · split
      · simp [mfind]
      · next hne _ => rw [mfind, if_neg hne, ih]

/-- Seeks counted against a slot are used up in it. -/
theorem State.countSeeks_slotUsed (s : State) (g n : Nat) : (s.countSeeks g n).slotUsed g = s.slotUsed g + n := by
  have hat : mfind (s.countSeeks g n).tb.slotAt g = some ((s.countSeeks g n).slotNow g) := mfind_mput_same ..
  rw [State.slotUsed, if_pos hat]
  exact mget_mput_same ..

/-- No more seeks are picked than there is room for. -/
theorem seekPick_length_le (n : Nat) (dir : Option Bool) (l : List SeekWait) : (seekPick n dir l).length ≤ n := by
  induction n generalizing dir l with
  | zero => simp [seekPick]
  | succ n ih =>
    cases l with
    | nil => simp [seekPick]
    | cons q r =>
      cases dir with
      | none => simpa [seekPick] using ih _ _
      | some dir =>
        rw [seekPick]
        split <;> simpa using ih _ _

/-- With room for all of them, every seek's head is picked. -/
theorem mem_seekPick_head {n : Nat} {l : List SeekWait} (dir : Option Bool) (hl : l.length ≤ n) {q : SeekWait} (hq : q ∈ l) :
    ∃ x ∈ seekPick n dir l, x.head = q.head := by
  induction n generalizing dir l with
  | zero => simp [List.length_eq_zero_iff.1 (Nat.le_zero.1 hl)] at hq
  | succ n ih =>
    cases l with
    | nil => cases hq
    | cons p r =>
      -- The oldest is picked, and the rest after it.
      have holdest (d : Option Bool) : ∃ x ∈ p :: seekPick n d r, x.head = q.head := by
        obtain rfl | hr := List.mem_cons.1 hq
        · exact ⟨q, List.mem_cons_self, rfl⟩
        · obtain ⟨x, hx, hxq⟩ := ih d (Nat.le_of_succ_le_succ hl) hr
          exact ⟨x, List.mem_cons_of_mem _ hx, hxq⟩
      cases dir with
      | none => exact holdest _
      | some dir =>
        rw [seekPick]
        split
        · next y hy =>
          by_cases hyq : y.head = q.head
          · exact ⟨y, List.mem_cons_self, hyq⟩
          · have hrest : q ∈ (p :: r).filter fun z => z.head != y.head :=
              List.mem_filter.2 ⟨hq, bne_iff_ne.2 fun e => hyq e.symm⟩
            have hlt : ((p :: r).filter fun z => z.head != y.head).length < (p :: r).length :=
              List.length_filter_lt_length_iff_exists.2 ⟨y, List.mem_of_find?_eq_some hy, by simp⟩
            obtain ⟨x, hx, hxq⟩ := ih _ (Nat.le_of_lt_succ (hlt.trans_le hl)) hrest
            exact ⟨x, List.mem_cons_of_mem _ hx, hxq⟩
        · exact holdest _

/-- Seeks begin. -/
def State.seeksGo (s : State) (l : List SeekWait) : State := l.foldl (fun t q => t.seekGo q.head) s

theorem State.seeksGo_keeps (s : State) (l : List SeekWait) : Keeps State.seekGo_mask s (s.seeksGo l) :=
  Keeps.foldl (fun t q => t.seekGo_keeps q.head) (Keeps.refl _ _)

/-- Seeks that still wait waited before, and their heads did not begin one. -/
theorem State.mem_seeksGo_seekQ {s : State} {l : List SeekWait} {q : SeekWait} (h : q ∈ (s.seeksGo l).seekQ) :
    q ∈ s.seekQ ∧ ∀ x ∈ l, x.head ≠ q.head := by
  induction l generalizing s with
  | nil => exact ⟨h, by simp⟩
  | cons y r ih =>
    obtain ⟨hgo, hr⟩ := ih (s := s.seekGo y.head) h
    obtain ⟨hq, hy⟩ := List.mem_filter.1 hgo
    refine ⟨hq, fun x hx => ?_⟩
    obtain rfl | hx := List.mem_cons.1 hx
    · exact fun e => bne_iff_ne.1 hy e.symm
    · exact hr x hx

/-- The seeks of a group that wait. -/
def State.seeksOf (s : State) (g : Nat) : List SeekWait := s.seekQ.filter fun q => s.vgOf (q.head / 2) == some g

/-- The seeks that begin in a slot of a group. -/
def State.slotGo (s : State) (g : Nat) : List SeekWait := seekPick (s.seekMax g - s.slotUsed g) none (s.seeksOf g)

theorem exec_seekSlot_of_room {s : State} {g : Fin 16} (hm : s.mode ≠ mKiln) (hroom : (s.toSeekSlot g).slotUsed g < s.seekMax g) :
    exec (.seekSlot g) s = .next (((s.toSeekSlot g).countSeeks g ((s.toSeekSlot g).slotGo g).length).seeksGo ((s.toSeekSlot g).slotGo g)) := by
  have hfree : ¬(s.toSeekSlot g).seekMax g ≤ (s.toSeekSlot g).slotUsed g := by
    rw [State.seekMax_congr (s.toSeekSlot_vgActive g)]
    omega
  simp only [exec, execSeekSlot, if_neg hm, if_neg hfree]
  rfl

theorem gives_seekSlot (s : State) (g : Fin 16) (hm : s.mode ≠ mKiln) (hroom : (s.toSeekSlot g).slotUsed g < s.seekMax g) :
    s.gives (.seekSlot g) fun t => (s.lin + (t.now - s.now)) % (5000 * s.seekSlotLen g) = 0 ∧ s.now ≤ t.now ∧
      t.slotUsed g ≤ s.seekMax g ∧
      ((s.seekQ.filter fun q => s.vgOf (q.head / 2) == some g.val).length + (s.toSeekSlot g).slotUsed g ≤ s.seekMax g →
        ∀ q ∈ t.seekQ, s.vgOf (q.head / 2) ≠ some g.val) := by
  have hexec := exec_seekSlot_of_room hm hroom
  have hvg := s.toSeekSlot_vgActive g
  have hmax : (s.toSeekSlot g).seekMax g = s.seekMax g := State.seekMax_congr hvg g
  have hof : (s.toSeekSlot g).seeksOf g = s.seeksOf g := by
    simp only [State.seeksOf, State.toSeekSlot_seekQ, State.vgOf_congr hvg]
  have hmod := s.toSeekSlot_mod g
  have hle := s.toSeekSlot_now_le g
  have hq := s.toSeekSlot_seekQ g
  generalize s.toSeekSlot g = u at *
  have hkeeps := (u.countSeeks g (u.slotGo g).length).seeksGo_keeps (u.slotGo g)
  have hnow : ((u.countSeeks g (u.slotGo g).length).seeksGo (u.slotGo g)).now = u.now := hkeeps.part .now (by decide +kernel)
  have hused : ((u.countSeeks g (u.slotGo g).length).seeksGo (u.slotGo g)).slotUsed g = u.slotUsed g + (u.slotGo g).length := by
    rw [State.slotUsed_congr (hkeeps.part .tb (by decide +kernel)), State.countSeeks_slotUsed]
  have hlen : (u.slotGo g).length ≤ u.seekMax g - u.slotUsed g := seekPick_length_le ..
  refine State.gives_of_exec hexec ⟨?_, ?_, ?_, fun hall q hmem hg => ?_⟩
  · rw [hnow, hmod]
  · rw [hnow]
    exact hle
  · rw [hused]
    omega
  · obtain ⟨hwait, hhead⟩ := State.mem_seeksGo_seekQ hmem
    have hqs : q ∈ u.seeksOf g := by
      rw [hof]
      exact List.mem_filter.2 ⟨hq ▸ hwait, beq_iff_eq.2 hg⟩
    have hroomy : (u.seeksOf g).length ≤ u.seekMax g - u.slotUsed g := by
      rw [hof, hmax]
      exact Nat.le_sub_of_add_le hall
    obtain ⟨x, hx, hxq⟩ := mem_seekPick_head none hroomy hqs
    exact hhead x hx hxq

/-! ### The configuration of a group (R98) -/

theorem Fld.key_mod (f : Fld) (i : Nat) : f.key i % 8192 = f.id % 8192 := by
  rw [Fld.key, Nat.mul_add_mod_self_right]

/-- The fields of a group's configuration are told apart by their keys, from each other and from the map's fields. -/
theorem vgCfgFields_keys :
    (vgCfgFields.map fun f => f.id % 8192).Nodup ∧ ∀ f ∈ vgCfgFields, f.id % 8192 ≠ Reg.TIME_VG_MAP_MEMBER.id % 8192 ∧
      f.id % 8192 ≠ Reg.TIME_VG_MAP_GROUP.id % 8192 := by decide

/-- Writes to a map that agree on a key leave their value there. -/
theorem mget_foldl_mput {α : Type} (d : α) (m : List (Nat × α)) {l : List (Nat × α)} {k : Nat} {v : α} (hmem : (k, v) ∈ l)
    (hagree : ∀ p ∈ l, p.1 = k → p.2 = v) : mget d (l.foldl (fun m p => mput m p.1 p.2) m) k = v := by
  refine foldl_of_mem (p := fun m => mget d m k = v) (fun m p hp hm => ?_) hmem (fun m => mget_mput_same ..) m
  rw [mget_mput]
  split
  · next hk => exact hagree p hp hk
  · exact hm

/-- Once a group's configuration is applied, each of its fields is in force as it was written. -/
theorem State.vgApply_vg (s : State) (g : Nat) {f : Fld} (hf : f ∈ vgCfgFields) : (s.vgApply g).vg f g = s.rd f g := by
  obtain ⟨hnodup, hmap⟩ := vgCfgFields_keys
  refine mget_foldl_mput _ _ (List.mem_append_left _ (List.mem_map_of_mem (f := fun f => (f.key g, s.rd f g)) hf)) fun p hp hk => ?_
  have hid : p.1 % 8192 = f.id % 8192 := by rw [hk, Fld.key_mod]
  obtain hp | hp := List.mem_append.1 hp
  · obtain ⟨f', hf', rfl⟩ := List.mem_map.1 hp
    rw [Fld.key_mod] at hid
    rw [List.inj_on_of_nodup_map hnodup hf' hf hid]
  · obtain ⟨hmember, hgroup⟩ := hmap f hf
    obtain ⟨n, -, hn⟩ := List.mem_flatMap.1 hp
    split at hn
    · obtain rfl | rfl := by simpa using hn
      · exact absurd (hid.symm.trans (Fld.key_mod ..)) hmember
      · exact absurd (hid.symm.trans (Fld.key_mod ..)) hgroup
    · cases hn

theorem gives_vgConfigApply (s : State) (g : Fin 16) : s.gives (.vgConfigApply g) fun t => ∀ f ∈ vgCfgFields, t.vg f g = s.rd f g := by
  refine State.gives_of_exec (t := ((s.toSeekSlot g).vgApply g).freeSeeks) rfl fun f hf => ?_
  have htb : ((s.toSeekSlot g).vgApply g).freeSeeks.tb = ((s.toSeekSlot g).vgApply g).tb :=
    (State.freeSeeks_keeps _).part .tb (by decide +kernel)
  rw [State.vg_congr (congrArg Timebase.vgActive htb), State.vgApply_vg _ _ hf]
  exact State.advance_rd ..

/-- Settles O18, one command after the other. -/
theorem loadsLaunchesAndSlots : Obligations.LoadsLaunchesAndSlots := by
  unfold Obligations.LoadsLaunchesAndSlots
  exact ⟨gives_timeLoadArm, gives_timeLoadEffect_valid, gives_timeLoadEffect_invalid, gives_launch_ahead, gives_launch_late,
    gives_emberLaunchExit, gives_seekSlot, gives_vgConfigApply⟩

end Sys2Proof.Machine
end

section
/-!
PROOF. TIME_SET, MODE_SET and STATION_DIAG (O33), and what every command that acts on a command in flight needs: how it is found, put
under way and ended.
-/

set_option Elab.async false

namespace Sys2Proof.Machine

/-! ### Commands in flight -/

theorem State.cmd?_congr {s t : State} (h : t.cmds = s.cmds) (sq tag : Nat) : t.cmd? sq tag = s.cmd? sq tag := by
  rw [State.cmd?, State.cmd?, h]

/-- What is found under a queue and tag has them. -/
theorem State.cmd?_eq {s : State} {sq tag : Nat} {c : Cmd} (h : s.cmd? sq tag = some c) : c.sq = sq ∧ c.tag = tag := by
  simpa using List.find?_some h

/-- A command that an opcode's row acts on is in flight, waits, and has that opcode. -/
theorem State.runnable_spec {s : State} {q tag op : Nat} {c : Cmd} (h : s.runnable q tag op = some c) :
    s.cmd? c.sq c.tag = some c ∧ c.phase = .waiting ∧ c.op = op := by
  unfold State.runnable at h
  split at h
  · cases h
  · next x hx =>
    obtain ⟨hsq, htag⟩ := State.cmd?_eq hx
    split at h
    · next hif =>
      cases h
      simp only [Bool.and_eq_true, decide_eq_true_eq, beq_iff_eq] at hif
      obtain ⟨⟨⟨⟨⟨hphase, -⟩, -⟩, hop⟩, -⟩, -⟩ := hif
      exact ⟨by rw [hsq, htag, hx], hphase, hop⟩
    · cases h

/-- A command that has been started is under way. -/
theorem State.start_underWay {s : State} {c : Cmd} (hc : s.cmd? c.sq c.tag = some c) : (s.start c).underWay c.sq c.tag := by
  have hupd := s.cmd?_updCmd c.sq c.tag (f := fun x => { x with phase := .started }) fun _ => ⟨rfl, rfl⟩
  rw [State.underWay, State.start, hupd, hc]
  rfl

theorem State.underWay_congr {s t : State} (h : t.cmds = s.cmds) {sq tag : Nat} (hs : s.underWay sq tag) : t.underWay sq tag := by
  rwa [State.underWay, State.cmd?_congr h]

/-- A command with its outcome fixed. -/
def Cmd.fixedAs (status a b field : Nat) (c : Cmd) : Cmd :=
  { c with phase := .fixed, status := status, resA := a, resB := b, field := field, launch := none }

/-- The end of a command of this cell's own host fixes its outcome, sends nothing, and leaves registers and power as they were. -/
theorem State.finish_of_local {s : State} {c : Cmd} (hc : s.cmd? c.sq c.tag = some c) (hp : c.phase = .waiting) (hl : c.local = true)
    (status a b field : Nat) :
    (s.finish c.sq c.tag status a b field).cmds = (s.updCmd c.sq c.tag (Cmd.fixedAs status a b field)).cmds ∧
      (s.finish c.sq c.tag status a b field).regs = s.regs ∧ (s.finish c.sq c.tag status a b field).pw = s.pw ∧
      (s.finish c.sq c.tag status a b field).out = s.out := by
  simp only [Cmd.local, Bool.and_eq_true, Bool.not_eq_true', Option.isNone_iff_eq_none] at hl
  obtain ⟨hsilent, horigin⟩ := hl
  simp only [State.finish, hc, hp, hsilent, horigin, Option.isSome_none, Bool.false_eq_true, reduceCtorEq, if_false]
  split <;> exact ⟨rfl, rfl, rfl, rfl⟩

theorem State.finish_ended {s : State} {c : Cmd} (hc : s.cmd? c.sq c.tag = some c) (hp : c.phase = .waiting) (hl : c.local = true)
    (status a b field : Nat) : (s.finish c.sq c.tag status a b field).ended c.sq c.tag status a b field := by
  obtain ⟨hcmds, -⟩ := State.finish_of_local hc hp hl status a b field
  have hupd := s.cmd?_updCmd c.sq c.tag (f := Cmd.fixedAs status a b field) fun _ => ⟨rfl, rfl⟩
  rw [State.ended, State.cmd?_congr hcmds, hupd, hc]
  rfl

theorem State.rd_congr {s t : State} (h : t.regs = s.regs) (f : Fld) (i : Nat) : t.rd f i = s.rd f i := by
  rw [State.rd, State.rd, h]

/-! ### TIME_SET (R71, R963) -/

/-- The command accepted first among some is the one that the search for the smallest place ends with. -/
theorem foldl_least {c a : Cmd} {l : List Cmd} (hc : c ∈ a :: l) (hmin : ∀ x ∈ a :: l, x ≠ c → c.ord < x.ord) :
    l.foldl (fun a b => if b.ord < a.ord then b else a) a = c := by
  induction l generalizing a with
  | nil => exact (List.mem_singleton.1 hc).symm
  | cons b r ih =>
    rw [List.foldl_cons]
    split
    · next hlt =>
      have hca : c ≠ a := by
        rintro rfl
        have hcb := hmin b (by simp) fun e => by simp [e] at hlt
        omega
      exact ih (List.mem_of_ne_of_mem hca hc) fun x hx => hmin x (List.mem_cons_of_mem _ hx)
    · next hge =>
      have hcr : c ∈ a :: r := by
        by_contra hno
        rw [List.mem_cons, not_or] at hno
        obtain ⟨hca, hcr⟩ := hno
        obtain rfl : c = b := by simpa [hca, hcr] using hc
        exact hge (hmin a List.mem_cons_self fun e => hca e.symm)
      exact ih hcr fun x hx => hmin x (List.cons_subset_cons _ (List.subset_cons_self ..) hx)

/-- The TIME_SETs that are in flight. -/
def State.timeSets (s : State) : List Cmd := s.cmds.filter fun c => c.op == 0x30 && c.phase != .fixed && c.origin.isNone

/-- The TIME_SET accepted first, where it waits for its turn, writes TIME_LOAD and arms its load. -/
theorem State.nextTimeSet_of_first {s : State} {c : Cmd} (hc : c ∈ s.timeSets) (hmin : ∀ x ∈ s.timeSets, x ≠ c → c.ord < x.ord)
    (hq : (c.sq, c.tag) ∈ s.tb.loadQueue) :
    s.nextTimeSet = ({ s with tb := { s.tb with loadQueue := s.tb.loadQueue.filter fun x => x != (c.sq, c.tag) } } : State).setLoad
      (c.get 24 8) (c.sq, c.tag) := by
  unfold State.nextTimeSet
  change (match s.timeSets with | [] => _ | c0 :: r => _) = _
  generalize s.timeSets = l at hc hmin
  cases l with
  | nil => cases hc
  | cons c0 r => simp only [foldl_least hc hmin, List.contains_iff_mem.2 hq, if_true]

/-- A TIME_SET whose load is armed: it is in TIME_LOAD, and the load is on its behalf. -/
theorem State.setLoad_armed (s : State) (v : Nat) (who : Nat × Nat) :
    (s.setLoad v who).flag Reg.TIME_STATUS_LOAD_PENDING 0 = true ∧ (s.setLoad v who).rd Reg.TIME_LOAD_SEC 0 = v / 2 ^ 32 % 2 ^ 32 ∧
      (s.setLoad v who).rd Reg.TIME_LOAD_TICK 0 = v % 2 ^ 31 ∧ (s.setLoad v who).tb.loadBy = some who := by
  let u : State := { (s.wr Reg.TIME_LOAD_SEC 0 (v / 2 ^ 32)).wr Reg.TIME_LOAD_TICK 0 (v % 2 ^ 31) with
    tb := { s.tb with loadHi := bitOf v 31 } }
  have hkeeps : Keeps State.armLoad_mask u (s.setLoad v who) := u.armLoad_keeps _
  refine ⟨State.flag_eq_true ?_, ?_, ?_, rfl⟩
  · exact State.rd_set1 (u.set1 Reg.TIME_CTRL_LOAD 0) Reg.TIME_STATUS_LOAD_PENDING 0
  · rw [hkeeps.rd _ _ (by decide +kernel)]
    exact (State.rd_wr_ne _ _ _ _ _ _ (by decide)).trans (State.rd_wr_same ..)
  · rw [hkeeps.rd _ _ (by decide +kernel)]
    exact (State.rd_wr_same (s.wr Reg.TIME_LOAD_SEC 0 (v / 2 ^ 32)) Reg.TIME_LOAD_TICK 0 (v % 2 ^ 31)).trans (Nat.mod_mod ..)

/-- A TIME_SET starts and waits for its turn. -/
def State.queueTimeSet (s : State) (c : Cmd) : State :=
  { s.start c with tb := { s.tb with loadQueue := s.tb.loadQueue ++ [(c.sq, c.tag)] } }

theorem exec_timeSet {s : State} {q : BitVec 20} {tag : BitVec 12} {c : Cmd} (hc : s.runnable q.toNat tag.toNat opTimeSet = some c) :
    exec (.timeSet q tag) s = .next (if s.flag Reg.TIME_STATUS_LOAD_PENDING 0 then s.queueTimeSet c else (s.queueTimeSet c).nextTimeSet) := by
  simp only [exec, execTimeSet, hc]
  rfl

theorem gives_timeSet_waits (s : State) (q : BitVec 20) (tag : BitVec 12) (c : Cmd)
    (hc : s.runnable q.toNat tag.toNat opTimeSet = some c) (hp : s.flag Reg.TIME_STATUS_LOAD_PENDING 0 = true) :
    s.gives (.timeSet q tag) fun t => t.underWay c.sq c.tag ∧ t.tb.loadQueue = s.tb.loadQueue ++ [(c.sq, c.tag)] := by
  obtain ⟨hfound, -⟩ := State.runnable_spec hc
  refine State.gives_of_exec ((exec_timeSet hc).trans (by rw [if_pos hp])) ⟨?_, rfl⟩
  exact State.underWay_congr (s := s.start c) rfl (State.start_underWay hfound)

/-- The TIME_SETs in flight once one more has started: itself, and the others as they were. -/
theorem State.mem_queueTimeSet_timeSets {s : State} {c x : Cmd} (h : x ∈ (s.queueTimeSet c).timeSets) :
    ∃ y ∈ s.cmds, y.op = opTimeSet ∧ x = if y.sq == c.sq && y.tag == c.tag then { y with phase := .started } else y := by
  obtain ⟨hx, htest⟩ := List.mem_filter.1 h
  obtain ⟨y, hy, rfl⟩ := List.mem_map.1 hx
  refine ⟨y, hy, ?_, rfl⟩
  simp only [Bool.and_eq_true, beq_iff_eq] at htest
  obtain ⟨⟨hop, -⟩, -⟩ := htest
  split at hop <;> exact hop

theorem gives_timeSet_first (s : State) (q : BitVec 20) (tag : BitVec 12) (c : Cmd)
    (hc : s.runnable q.toNat tag.toNat opTimeSet = some c) (hp : s.flag Reg.TIME_STATUS_LOAD_PENDING 0 = false)
    (horigin : c.origin = none) (hfirst : ∀ x ∈ s.cmds, x.op = opTimeSet → x ≠ c → c.ord < x.ord) :
    s.gives (.timeSet q tag) fun t => t.underWay c.sq c.tag ∧ t.flag Reg.TIME_STATUS_LOAD_PENDING 0 = true ∧
      t.rd Reg.TIME_LOAD_SEC 0 = c.get 24 8 / 2 ^ 32 % 2 ^ 32 ∧ t.rd Reg.TIME_LOAD_TICK 0 = c.get 24 8 % 2 ^ 31 ∧
      t.tb.loadBy = some (c.sq, c.tag) := by
  obtain ⟨hfound, -, hop⟩ := State.runnable_spec hc
  let c1 : Cmd := { c with phase := .started }
  have hmem : c1 ∈ (s.queueTimeSet c).timeSets := by
    refine List.mem_filter.2 ⟨List.mem_map.2 ⟨c, List.mem_of_find?_eq_some hfound, by simp [c1]⟩, ?_⟩
    have hop1 : c1.op = 0x30 := hop
    have horigin1 : c1.origin = none := horigin
    rw [hop1, horigin1]
    rfl
  have hmin : ∀ x ∈ (s.queueTimeSet c).timeSets, x ≠ c1 → c1.ord < x.ord := by
    intro x hx hne
    obtain ⟨y, hy, hyop, rfl⟩ := State.mem_queueTimeSet_timeSets hx
    have hyc : y ≠ c := by
      rintro rfl
      simp [c1] at hne
    have hlt := hfirst y hy hyop hyc
    split <;> exact hlt
  have hwaits : (c1.sq, c1.tag) ∈ (s.queueTimeSet c).tb.loadQueue := List.mem_append_right _ (List.mem_singleton.2 rfl)
  have hexec := exec_timeSet hc
  rw [if_neg (by simp [hp]), State.nextTimeSet_of_first hmem hmin hwaits] at hexec
  refine State.gives_of_exec hexec ⟨?_, State.setLoad_armed ..⟩
  have hcmds := (State.setLoad_keeps ({ s.queueTimeSet c with tb := { (s.queueTimeSet c).tb with
    loadQueue := (s.queueTimeSet c).tb.loadQueue.filter fun x => x != (c1.sq, c1.tag) } } : State) (c1.get 24 8)
    (c1.sq, c1.tag)).part .cmds (by decide +kernel)
  exact State.underWay_congr (s := s.start c) hcmds (State.start_underWay hfound)

/-! ### MODE_SET (R672, R673, R858) -/

/-- A pair that MODE_SET allows has two modes of three bits. -/
theorem modePair_spec {a b : Nat} (h : modePair a b = true) : a ≠ b ∧ b < 8 := by
  unfold modePair at h
  split_ifs at h with hburn hdamped hverify hember <;>
    simp only [Bool.or_eq_true, beq_iff_eq, mBurn, mDamped, mVerify, mEmber, mBanked] at * <;> omega

/-- The mode that MODE_SET asks for is shown, with the cap where it is DAMPED. -/
def State.askMode (s : State) (c : Cmd) : State :=
  (if c.get 16 1 = mDamped then s.wr Reg.PWR_CAP_CAP 0 (c.get 20 4) else s).wr Reg.PWR_STATUS_REQ_MODE 0 (c.get 16 1)

theorem State.askMode_keeps (s : State) (c : Cmd) : Keeps (fieldBits [Reg.PWR_CAP_CAP, Reg.PWR_STATUS_REQ_MODE]) s (s.askMode c) :=
  Keeps.wr (Keeps.ite (Keeps.wr (Keeps.refl _ _)) (Keeps.refl _ _))

theorem State.askMode_mode (s : State) (c : Cmd) : (s.askMode c).mode = s.mode := (s.askMode_keeps c).rd _ _ (by decide +kernel)

theorem State.askMode_cmd? (s : State) (c : Cmd) (sq tag : Nat) : (s.askMode c).cmd? sq tag = s.cmd? sq tag :=
  State.cmd?_congr ((s.askMode_keeps c).part .cmds (by decide +kernel)) sq tag

theorem State.askMode_reqMode (s : State) (c : Cmd) : (s.askMode c).rd Reg.PWR_STATUS_REQ_MODE 0 = c.get 16 1 % 8 :=
  State.rd_wr_same ..

theorem State.askMode_cap (s : State) {c : Cmd} (h : c.get 16 1 = mDamped) :
    (s.askMode c).rd Reg.PWR_CAP_CAP 0 = c.get 20 4 % 2 ^ Reg.PWR_CAP_CAP.w := by
  rw [State.askMode, if_pos h, State.rd_wr_ne _ _ _ _ _ _ (by decide)]
  exact State.rd_wr_same ..

theorem gives_modeSet_begins (s : State) (q : BitVec 20) (tag : BitVec 12) (c : Cmd)
    (hc : s.runnable q.toNat tag.toNat opModeSet = some c) (htrial : s.flag Reg.GCTL_BOOT_TRIAL 0 = false)
    (hpair : modePair s.mode (c.get 16 1) = true)
    (htherm : s.mode = mDamped → s.flag Reg.PWR_STATUS_THERM_DAMPED 0 = false) :
    s.gives (.modeSet q tag) fun t => t.underWay c.sq c.tag ∧
      t.pw.trans = some { from_ := s.mode, to_ := c.get 16 1, cause := 0, by_ := some (c.sq, c.tag) } ∧ t.mode = s.mode ∧
      t.rd Reg.PWR_STATUS_REQ_MODE 0 = c.get 16 1 ∧
      (c.get 16 1 = mDamped → t.rd Reg.PWR_CAP_CAP 0 = c.get 20 4 % 2 ^ Reg.PWR_CAP_CAP.w) := by
  obtain ⟨hfound, -⟩ := State.runnable_spec hc
  obtain ⟨hne, hlt⟩ := modePair_spec hpair
  have hexec : exec (.modeSet q tag) s = .next (((s.askMode c).start c).beginTrans (c.get 16 1) 0 (some (c.sq, c.tag))) := by
    have hcool : ¬(c.get 16 1 = mBurn ∧ s.mode = mDamped ∧ s.flag Reg.PWR_STATUS_THERM_DAMPED 0 = true) := by
      rintro ⟨-, hd, ht⟩
      rw [htherm hd] at ht
      cases ht
    simp only [exec, execModeSet, hc, htrial, hpair, hne.symm, hcool, Bool.false_eq_true, Bool.not_true, false_and, if_false]
    rfl
  have hmode : ((s.askMode c).start c).mode = s.mode := s.askMode_mode c
  refine State.gives_of_exec hexec ⟨?_, ?_, hmode, ?_, s.askMode_cap⟩
  · exact State.underWay_congr (s := (s.askMode c).start c) rfl (State.start_underWay (by rw [State.askMode_cmd?, hfound]))
  · rw [← hmode]
    rfl
  · exact (s.askMode_reqMode c).trans (Nat.mod_eq_of_lt hlt)

theorem gives_modeSet_inForce (s : State) (q : BitVec 20) (tag : BitVec 12) (c : Cmd)
    (hc : s.runnable q.toNat tag.toNat opModeSet = some c) (hl : c.local = true)
    (htrial : s.flag Reg.GCTL_BOOT_TRIAL 0 = false) (hm : c.get 16 1 = s.mode) :
    s.gives (.modeSet q tag) fun t => ∃ u : State, t = u.settle ∧ u.ended c.sq c.tag stSuccess s.mode 0 0 ∧ u.mode = s.mode ∧
      u.pw = s.pw := by
  obtain ⟨hfound, hphase, -⟩ := State.runnable_spec hc
  have hasked : (s.askMode c).cmd? c.sq c.tag = some c := by rw [State.askMode_cmd?, hfound]
  have hexec : exec (.modeSet q tag) s = .next ((s.askMode c).finish c.sq c.tag stSuccess s.mode 0 0).settle := by
    simp only [exec, execModeSet, hc, htrial, Bool.false_eq_true, false_and, if_false, if_pos hm]
    rw [← hm]
    rfl
  obtain ⟨-, hregs, hpw, -⟩ := State.finish_of_local hasked hphase hl stSuccess s.mode 0 0
  exact State.gives_of_exec hexec ⟨_, rfl, State.finish_ended hasked hphase hl _ _ _ _,
    (State.rd_congr hregs _ _).trans (s.askMode_mode c), hpw.trans ((s.askMode_keeps c).part .pw (by decide +kernel))⟩

theorem gives_modeSet_refused (s : State) (q : BitVec 20) (tag : BitVec 12) (c : Cmd)
    (hc : s.runnable q.toNat tag.toNat opModeSet = some c) (hl : c.local = true) (hm : c.get 16 1 ≠ s.mode)
    (hpair : modePair s.mode (c.get 16 1) = false) :
    s.gives (.modeSet q tag) fun t => ∃ u : State, t = u.settle ∧ u.ended c.sq c.tag stModeRefused s.mode 0 0 ∧ u.pw = s.pw ∧
      u.regs = s.regs := by
  obtain ⟨hfound, hphase, -⟩ := State.runnable_spec hc
  have hexec : exec (.modeSet q tag) s = .next (s.finish c.sq c.tag stModeRefused s.mode 0 0).settle := by
    simp only [exec, execModeSet, hc, hm, hpair, Bool.not_false, if_true, if_false, ite_self]
  obtain ⟨-, hregs, hpw, -⟩ := State.finish_of_local hfound hphase hl stModeRefused s.mode 0 0
  exact State.gives_of_exec hexec ⟨_, rfl, State.finish_ended hfound hphase hl _ _ _ _, hpw, hregs⟩

/-! ### STATION_DIAG (R674, R144) -/

/-- A write of no bytes to host memory sends nothing. -/
theorem State.hostWrites_nil (s : State) (p : Option Nat) (relaxed : Bool) (a : Nat) : s.hostWrites p relaxed a [] = s := rfl

/-- A command of this cell's own host writes to that host's memory. -/
theorem State.toHostMem_of_origin (s : State) {c : Cmd} (h : c.origin = none) (a : Nat) (bytes : List Nat) :
    s.toHostMem c a bytes = s.hostWrites (s.pasidOf c.grp) (c.flagBit 3) a bytes := by
  cases bytes with
  | nil => rw [State.hostWrites_nil]; rfl
  | cons b r => simp only [State.toHostMem, List.isEmpty_cons, Bool.false_eq_true, if_false, h]

theorem gives_stationDiag_read (s : State) (q : BitVec 20) (tag : BitVec 12) (c : Cmd)
    (hc : s.runnable q.toNat tag.toNat opStationDiag = some c) (hl : c.local = true) (hop : c.get 18 1 = 0) :
    s.gives (.stationDiag q tag) fun t => ∃ u : State, t = u.settle ∧ u.ended c.sq c.tag stSuccess 0 0 0 ∧
      u.out = (s.hostWrites (s.pasidOf c.grp) (c.flagBit 3) (c.get 32 8)
        (s.readBytes (0x100000 + c.get 16 2 * 0x10000) 16384)).out := by
  obtain ⟨hfound, hphase, -⟩ := State.runnable_spec hc
  have horigin : c.origin = none := by
    simp only [Cmd.local, Bool.and_eq_true, Option.isNone_iff_eq_none] at hl
    exact hl.2
  have hexec : exec (.stationDiag q tag) s =
      .next (s.answer c (s.readBytes (0x100000 + c.get 16 2 * 0x10000) 16384) 0 0) := by
    simp only [exec, execStationDiag, hc, hop]
  rw [State.answer, State.toHostMem_of_origin s horigin] at hexec
  generalize s.readBytes (0x100000 + c.get 16 2 * 0x10000) 16384 = bytes at hexec ⊢
  have hsent : (s.hostWrites (s.pasidOf c.grp) (c.flagBit 3) (c.get 32 8) bytes).cmd? c.sq c.tag = some c := by
    rw [State.cmd?_congr ((State.hostWrites_keeps ..).part .cmds (by decide +kernel)), hfound]
  obtain ⟨-, -, -, hout⟩ := State.finish_of_local hsent hphase hl stSuccess 0 0 0
  exact State.gives_of_exec hexec ⟨_, rfl, State.finish_ended hsent hphase hl _ _ _ _, hout⟩

/-- A register access starts on an ACTIVE port that has none in progress, and shows it. -/
theorem State.regGo_starts {s : State} {n : Nat} (ha : s.active n = true) (hb : s.flag Reg.STN_REG_CMD_BUSY n = false) (write : Bool)
    (who : Option (Nat × Nat)) : (s.regGo n write who).flag Reg.STN_REG_CMD_BUSY n = true ∧
      (s.regGo n write who).flag Reg.STN_REG_CMD_WRITE n = write ∧ ((s.regGo n write who).stn n).regBy = who := by
  unfold State.regGo
  rw [if_neg (by simp [ha, hb])]
  refine ⟨State.flag_eq_true ?_, ?_, ?_⟩
  · rw [State.rd_clr_ne _ _ _ _ _ (by decide)]
    exact State.rd_set1 ..
  · rw [State.flag, State.rd_clr_ne _ _ _ _ _ (by decide), State.rd_set1_ne _ _ _ _ _ (by decide), State.rd_wrB]
    cases write <;> rfl
  · exact congrArg Stn.regBy (State.putStn_stn ..)

/-- The address and the data of a front-end write that STATION_DIAG makes are written. -/
def State.diagWrite (s : State) (c : Cmd) : State :=
  ((s.start c).wr Reg.STN_REG_ADDR_ADDR (c.get 16 2) (c.get 20 4)).wr Reg.STN_REG_DATA_DATA (c.get 16 2) (c.get 24 4)

theorem State.rd_diagWrite (s : State) (c : Cmd) (f : Fld) (i : Nat) (ha : Reg.STN_REG_ADDR_ADDR.id % 8192 ≠ f.id % 8192)
    (hd : Reg.STN_REG_DATA_DATA.id % 8192 ≠ f.id % 8192) : (s.diagWrite c).rd f i = s.rd f i := by
  rw [State.diagWrite, State.rd_wr_ne _ _ _ _ _ _ hd, State.rd_wr_ne _ _ _ _ _ _ ha]
  rfl

theorem gives_stationDiag_write (s : State) (q : BitVec 20) (tag : BitVec 12) (c : Cmd)
    (hc : s.runnable q.toNat tag.toNat opStationDiag = some c) (hop : c.get 18 1 = 2) (ha : s.active (c.get 16 2) = true)
    (hb : s.flag Reg.STN_REG_CMD_BUSY (c.get 16 2) = false) :
    s.gives (.stationDiag q tag) fun t => t.underWay c.sq c.tag ∧ t.flag Reg.STN_REG_CMD_BUSY (c.get 16 2) = true ∧
      t.flag Reg.STN_REG_CMD_WRITE (c.get 16 2) = true ∧ (t.stn (c.get 16 2)).regBy = some (c.sq, c.tag) := by
  obtain ⟨hfound, -⟩ := State.runnable_spec hc
  have hexec : exec (.stationDiag q tag) s = .next ((s.diagWrite c).regGo (c.get 16 2) true (some (c.sq, c.tag))) := by
    simp only [exec, execStationDiag, hc, hop, ha, hb, Bool.not_true, Bool.false_eq_true, if_false, if_true]
    rfl
  have ha' : (s.diagWrite c).active (c.get 16 2) = true := by
    rwa [State.active, State.port, State.rd_diagWrite _ _ _ _ (by decide) (by decide)]
  have hb' : (s.diagWrite c).flag Reg.STN_REG_CMD_BUSY (c.get 16 2) = false := by
    rwa [State.flag, State.rd_diagWrite _ _ _ _ (by decide) (by decide)]
  have hcmds := (State.regGo_keeps (s.diagWrite c) (c.get 16 2) true (some (c.sq, c.tag))).part .cmds (by decide +kernel)
  exact State.gives_of_exec hexec ⟨State.underWay_congr (s := s.start c) hcmds (State.start_underWay hfound),
    State.regGo_starts ha' hb' true _⟩

/-- ENABLE of a port reads the same after a command has ended. -/
theorem State.enable_fail_settle (s : State) (sq tag status n : Nat) :
    ((s.fail sq tag status).settle).rd Reg.STN_LINK_CTRL_ENABLE n = s.rd Reg.STN_LINK_CTRL_ENABLE n :=
  ((State.settle_keeps _).rd _ _ (by decide +kernel)).trans ((s.fail_keeps ..).rd _ _ (by decide +kernel))

theorem State.disableLink_enable (s : State) (n : Nat) : (s.disableLink n).rd Reg.STN_LINK_CTRL_ENABLE n = 0 := by
  have hclr := State.rd_clr s Reg.STN_LINK_CTRL_ENABLE n
  simp only [State.disableLink]
  split
  · exact ((State.safeNow_keeps ..).rd _ _ (by decide +kernel)).trans hclr
  · exact ((State.toDown_keeps ..).rd _ _ (by decide +kernel)).trans hclr

theorem State.enableLink_enable (s : State) (n : Nat) : (s.enableLink n).rd Reg.STN_LINK_CTRL_ENABLE n = 1 := by
  have hset := State.rd_set1 s Reg.STN_LINK_CTRL_ENABLE n
  simp only [State.enableLink]
  split
  · exact ((State.toWait_keeps ..).rd _ _ (by decide +kernel)).trans hset
  · exact hset

theorem gives_stationDiag_disable (s : State) (q : BitVec 20) (tag : BitVec 12) (c : Cmd)
    (hc : s.runnable q.toNat tag.toNat opStationDiag = some c) (hop : c.get 18 1 = 3) (hd : s.discIn (c.get 16 2) = none) :
    s.gives (.stationDiag q tag) fun t => t.flag Reg.STN_LINK_CTRL_ENABLE (c.get 16 2) = false := by
  have hexec : exec (.stationDiag q tag) s = .next ((s.disableLink (c.get 16 2)).fail c.sq c.tag stSuccess).settle := by
    simp only [exec, execStationDiag, hc, hop, hd, Option.isSome_none, Bool.false_eq_true, if_false]
  exact State.gives_of_exec hexec (State.flag_eq_false ((State.enable_fail_settle ..).trans (State.disableLink_enable ..)))

theorem gives_stationDiag_enable (s : State) (q : BitVec 20) (tag : BitVec 12) (c : Cmd)
    (hc : s.runnable q.toNat tag.toNat opStationDiag = some c) (hop : c.get 18 1 = 4) :
    s.gives (.stationDiag q tag) fun t => t.flag Reg.STN_LINK_CTRL_ENABLE (c.get 16 2) = true := by
  have hexec : exec (.stationDiag q tag) s = .next ((s.enableLink (c.get 16 2)).fail c.sq c.tag stSuccess).settle := by
    simp only [exec, execStationDiag, hc, hop]
  exact State.gives_of_exec hexec (State.flag_eq_true ((State.enable_fail_settle ..).trans (State.enableLink_enable ..)))

/-- Settles O33: each clause is what the command's meaning comes to under the clause's conditions; the TIME_SET accepted first is the
one `foldl_least` finds, and a command of this cell's own host ends as `State.finish_of_local` says. -/
theorem modeTimeAndStationCommands : Obligations.ModeTimeAndStationCommands := by
  unfold Obligations.ModeTimeAndStationCommands
  exact ⟨gives_timeSet_first, gives_timeSet_waits, gives_modeSet_begins, gives_modeSet_inForce, gives_modeSet_refused,
    gives_stationDiag_read, gives_stationDiag_write, fun s q tag c hc _ => gives_stationDiag_disable s q tag c hc,
    fun s q tag c hc _ => gives_stationDiag_enable s q tag c hc⟩

end Sys2Proof.Machine
end

section
/-!
PROOF. What the operations of a station link do to the port, to the station's record and to what is sent: the rules that the proofs
about links (O19 to O22) are made of.
-/

set_option Elab.async false

namespace Sys2Proof.Machine

/-! ### What is read after an operation -/

theorem State.stn_congr {s t : State} (h : t.stns = s.stns) (n : Nat) : t.stn n = s.stn n := by rw [State.stn, State.stn, h]

theorem Keeps.stn {m : Nat} {s t : State} (h : Keeps m s t) (n : Nat) (hm : m.testBit (Part.bit .stns) = false := by decide +kernel) :
    t.stn n = s.stn n := State.stn_congr (h.part .stns hm) n

theorem Keeps.flag {m : Nat} {s t : State} (h : Keeps m s t) (f : Fld) (i : Nat) (hm : m.testBit (f.id % 8192) = false) :
    t.flag f i = s.flag f i := by rw [State.flag, State.flag, h.rd f i hm]

theorem Keeps.port {m : Nat} {s t : State} (h : Keeps m s t) (n : Nat)
    (hm : m.testBit (Reg.STN_LINK_STATUS_STATE.id % 8192) = false := by decide +kernel) : t.port n = s.port n := h.rd _ n hm

theorem Keeps.active {m : Nat} {s t : State} (h : Keeps m s t) (n : Nat)
    (hm : m.testBit (Reg.STN_LINK_STATUS_STATE.id % 8192) = false := by decide +kernel) : t.active n = s.active n := by
  rw [State.active, State.active, h.port n hm]

theorem Keeps.now {m : Nat} {s t : State} (h : Keeps m s t) (hm : m.testBit (Part.bit .now) = false := by decide +kernel) :
    t.now = s.now := h.part .now hm

theorem State.active_iff {s : State} {n : Nat} : s.active n = true ↔ s.port n = lkActive := beq_iff_eq

theorem State.flag_set1 (s : State) {f : Fld} (i : Nat) (hw : 0 < f.w) : (s.set1 f i).flag f i = true := by
  have hlt : 1 < 2 ^ f.w := Nat.one_lt_two_pow hw.ne'
  exact State.flag_eq_true ((State.rd_set1 ..).trans (Nat.mod_eq_of_lt hlt))

theorem State.flag_clr (s : State) (f : Fld) (i : Nat) : (s.clr f i).flag f i = false := State.flag_eq_false (State.rd_clr ..)

theorem State.flag_wr_ne (s : State) (f g : Fld) (i j v : Nat) (h : f.id % 8192 ≠ g.id % 8192) :
    (s.wr f i v).flag g j = s.flag g j := by rw [State.flag, State.flag, State.rd_wr_ne _ _ _ _ _ _ h]

/-- A count that is not yet full grows by what is added. -/
theorem State.rd_bump_of_lt (s : State) {f : Fld} {i n : Nat} (h : s.rd f i + n < 2 ^ f.w) : (s.bump f i n).rd f i = s.rd f i + n := by
  rw [State.bump, State.rd_wr_same, Nat.min_eq_right (Nat.le_sub_one_of_lt h), Nat.mod_eq_of_lt h]

/-! ### The station's record -/

theorem State.putStn_stn_ne (s : State) {i n : Nat} (x : Stn) (h : i ≠ n) : (s.putStn i x).stn n = s.stn n := mget_mput_ne _ _ _ _ _ h

@[simp] theorem State.wr_stn (s : State) (f : Fld) (i v n : Nat) : (s.wr f i v).stn n = s.stn n := rfl
@[simp] theorem State.set1_stn (s : State) (f : Fld) (i n : Nat) : (s.set1 f i).stn n = s.stn n := rfl
@[simp] theorem State.clr_stn (s : State) (f : Fld) (i n : Nat) : (s.clr f i).stn n = s.stn n := rfl
@[simp] theorem State.wrB_stn (s : State) (f : Fld) (i : Nat) (b : Bool) (n : Nat) : (s.wrB f i b).stn n = s.stn n := rfl
@[simp] theorem State.bump_stn (s : State) (f : Fld) (i k n : Nat) : (s.bump f i k).stn n = s.stn n := rfl
@[simp] theorem State.emit_stn (s : State) (o : Out) (n : Nat) : (s.emit o).stn n = s.stn n := rfl
@[simp] theorem State.setPort_stn (s : State) (i st n : Nat) : (s.setPort i st).stn n = s.stn n := rfl
@[simp] theorem State.advance_stn (s : State) (k n : Nat) : (s.advance k).stn n = s.stn n := State.stn_congr (s.advance_stns k) n
@[simp] theorem State.raise_stn (s : State) (code : Nat) (data : List Nat) (n : Nat) : (s.raise code data).stn n = s.stn n :=
  (s.raise_keeps code data).stn n

@[simp] theorem State.advanceTo_stn (s : State) (k n : Nat) : (s.advanceTo k).stn n = s.stn n := s.advance_stn _ n
@[simp] theorem State.advanceTo_rd (s : State) (k : Nat) (f : Fld) (i : Nat) : (s.advanceTo k).rd f i = s.rd f i := s.advance_rd _ f i
@[simp] theorem State.advanceTo_flag (s : State) (k : Nat) (f : Fld) (i : Nat) : (s.advanceTo k).flag f i = s.flag f i := by
  rw [State.flag, State.flag, State.advanceTo_rd]
@[simp] theorem State.advanceTo_port (s : State) (k n : Nat) : (s.advanceTo k).port n = s.port n := s.advanceTo_rd k _ n
@[simp] theorem State.advanceTo_active (s : State) (k n : Nat) : (s.advanceTo k).active n = s.active n := by
  rw [State.active, State.active, State.advanceTo_port]

theorem State.advanceTo_out (s : State) (k : Nat) : (s.advanceTo k).out = s.out := s.advance_out _
theorem State.advanceTo_now (s : State) (k : Nat) : (s.advanceTo k).now = max s.now k := by
  rw [State.advanceTo, State.advance_now]
  omega

@[simp] theorem State.advancePhase_stn (s : State) (p n : Nat) : (s.advancePhase p).stn n = s.stn n := s.advance_stn _ n
@[simp] theorem State.advancePhase_rd (s : State) (p : Nat) (f : Fld) (i : Nat) : (s.advancePhase p).rd f i = s.rd f i :=
  s.advance_rd _ f i
@[simp] theorem State.advancePhase_flag (s : State) (p : Nat) (f : Fld) (i : Nat) : (s.advancePhase p).flag f i = s.flag f i := by
  rw [State.flag, State.flag, State.advancePhase_rd]
@[simp] theorem State.advancePhase_port (s : State) (p n : Nat) : (s.advancePhase p).port n = s.port n := s.advancePhase_rd p _ n
@[simp] theorem State.advancePhase_active (s : State) (p n : Nat) : (s.advancePhase p).active n = s.active n := by
  rw [State.active, State.active, State.advancePhase_port]

/-- T moved on to a phase of the period is at that phase. -/
theorem State.advancePhase_lin_mod (s : State) {p : Nat} (hp : p < 5000) : (s.advancePhase p).lin % 5000 = p := by
  rw [State.advancePhase, State.advance_lin_mod _ _ (by decide)]
  omega

/-! ### The state of a port (R152) -/

@[simp] theorem State.setPort_port (s : State) (n : Nat) {st : Nat} (h : st < 8 := by decide) : (s.setPort n st).port n = st :=
  (State.rd_wr_same ..).trans (Nat.mod_eq_of_lt h)

theorem State.setPort_port_ne (s : State) {i n : Nat} (st : Nat) (h : i ≠ n) : (s.setPort i st).port n = s.port n :=
  State.rd_wr_inst _ _ _ _ _ h

@[simp] theorem State.putStn_port (s : State) (i : Nat) (x : Stn) (n : Nat) : (s.putStn i x).port n = s.port n := rfl

theorem State.port_wr_ne (s : State) (f : Fld) (i v n : Nat) (h : f.id % 8192 ≠ Reg.STN_LINK_STATUS_STATE.id % 8192) :
    (s.wr f i v).port n = s.port n := State.rd_wr_ne _ _ _ _ _ _ h

theorem State.toDetect_port (s : State) (n : Nat) : (s.toDetect n).port n = lkDetect := State.setPort_port ..

theorem State.toDetect_stn (s : State) (n : Nat) : (s.toDetect n).stn n = { s.stn n with engine := true, attemptAt := s.now } :=
  State.putStn_stn ..

theorem State.toDetect_ne (s : State) {i n : Nat} (h : i ≠ n) : (s.toDetect i).port n = s.port n ∧ (s.toDetect i).stn n = s.stn n :=
  ⟨State.setPort_port_ne _ _ h, State.putStn_stn_ne _ _ h⟩

/-- After the locks of both lanes are cleared the port's state is what it was. -/
theorem State.clearLanes_port (s : State) (i n : Nat) :
    ((s.clr Reg.STN_LINK_STATUS_LANE0_LOCK i).clr Reg.STN_LINK_STATUS_LANE1_LOCK i).port n = s.port n :=
  (State.port_wr_ne _ _ _ _ _ (by decide)).trans (State.port_wr_ne _ _ _ _ _ (by decide))

theorem State.toWait_port (s : State) (n due : Nat) : (s.toWait n due).port n = lkWait :=
  (State.clearLanes_port ..).trans (State.setPort_port ..)

theorem State.toWait_stn (s : State) (n due : Nat) :
    (s.toWait n due).stn n = { s.stn n with engine := false, dueAt := due, hdrs := [] } := State.putStn_stn ..

theorem State.toWait_ne (s : State) {i n : Nat} (due : Nat) (h : i ≠ n) :
    (s.toWait i due).port n = s.port n ∧ (s.toWait i due).stn n = s.stn n :=
  ⟨(State.clearLanes_port ..).trans (State.setPort_port_ne _ _ h), State.putStn_stn_ne _ _ h⟩

theorem State.toDown_port (s : State) (n : Nat) : (s.toDown n).port n = lkDown :=
  (State.clearLanes_port ..).trans (State.setPort_port ..)

@[simp] theorem State.toWait_now (s : State) (n due : Nat) : (s.toWait n due).now = s.now := rfl

@[simp] theorem State.toDown_now (s : State) (n : Nat) : (s.toDown n).now = s.now := rfl

/-! ### One station after the other -/

/-- Each element's turn comes once: if what an element needs for its turn is left by the turns of the others, and so is what its
turn brings about, then after the fold every element has it. -/
theorem foldl_each {α σ : Type} {f : σ → α → σ} {ready done : σ → α → Prop} (hmake : ∀ t a, ready t a → done (f t a) a)
    (hready : ∀ t a b, ready t a → b ≠ a → ready t b → ready (f t a) b)
    (hdone : ∀ t a b, ready t a → b ≠ a → done t b → done (f t a) b) {l : List α} (hl : l.Nodup) {s : σ}
    (hs : ∀ a ∈ l, ready s a) : ∀ a ∈ l, done (l.foldl f s) a := by
  suffices h : ∀ before : List α, (∀ a ∈ before, a ∉ l) → (∀ a ∈ before, done s a) → ∀ a, a ∈ before ∨ a ∈ l → done (l.foldl f s) a by
    exact fun a ha => h [] (by simp) (by simp) a (.inr ha)
  induction l generalizing s with
  | nil => exact fun before _ hb a ha => hb a (by simpa using ha)
  | cons x r ih =>
    intro before hout hb a ha
    obtain ⟨hx, hr⟩ := List.nodup_cons.1 hl
    have hsx := hs x List.mem_cons_self
    refine ih hr (fun b hbr => hready s x b hsx (fun e => hx (e ▸ hbr)) (hs b (List.mem_cons_of_mem _ hbr))) (x :: before) ?_ ?_ a ?_
    · intro b hbm hbr
      obtain rfl | hbm := List.mem_cons.1 hbm
      · exact hx hbr
      · exact hout b hbm (List.mem_cons_of_mem _ hbr)
    · intro b hbm
      obtain rfl | hbm := List.mem_cons.1 hbm
      · exact hmake s b hsx
      · exact hdone s x b hsx (fun e => hout b hbm (e ▸ List.mem_cons_self)) (hb b hbm)
    · simpa [or_assoc, or_comm, or_left_comm] using ha

theorem upTo_nodup (n : Nat) : (upTo n).Nodup := List.nodup_range

end Sys2Proof.Machine
end

section
/-!
PROOF. The training of a port (O19): from DOWN through WAIT, DETECT, EQUALISE, DESKEW, IDENTIFY and MEASURE to ACTIVE, the batches after
power-up and the retries.
-/

set_option Elab.async false

namespace Sys2Proof.Machine

/-! ### ENABLE (R152) -/

/-- ENABLE set takes a DOWN port to WAIT. -/
theorem State.enableLink_port {s : State} {n : Nat} (hp : s.port n = lkDown) (he : s.mode ≠ mEmber) (hb : s.mode ≠ mBanked) :
    (s.enableLink n).port n = lkWait := by
  have hport : (s.set1 Reg.STN_LINK_CTRL_ENABLE n).port n = s.port n := State.port_wr_ne _ _ _ _ _ (by decide)
  rw [State.enableLink, if_pos ⟨hport.trans hp, he, hb⟩, State.toWait_port]

theorem gives_linkEnable (s : State) (n : Fin 128) (hp : s.port n = lkDown) (he : s.mode ≠ mEmber) (hb : s.mode ≠ mBanked) :
    s.gives (.linkEnable n) fun t => t.flag Reg.STN_LINK_CTRL_ENABLE n = true ∧ t.port n = lkWait :=
  State.gives_of_exec rfl ⟨State.flag_eq_true (s.enableLink_enable n), State.enableLink_port hp he hb⟩

/-! ### Engines (R155) -/

/-- The entries of a station map that hold an engine. -/
def enginesIn (l : List (Nat × Stn)) : Nat := (l.filter fun p => p.2.engine).length

theorem enginesIn_cons (p : Nat × Stn) (l : List (Nat × Stn)) :
    enginesIn (p :: l) = (if p.2.engine then 1 else 0) + enginesIn l := by
  rw [enginesIn, List.filter_cons]
  split
  · rw [List.length_cons, Nat.add_comm, enginesIn]
  · rw [Nat.zero_add, enginesIn]

/-- A record written to the map takes an engine at most if it holds one. -/
theorem enginesIn_mput (l : List (Nat × Stn)) (k : Nat) (x : Stn) :
    enginesIn (mput l k x) ≤ enginesIn l + (if x.engine then 1 else 0) := by
  induction l with
  | nil => rw [mput, enginesIn_cons, Nat.add_comm]
  | cons p r ih =>
    obtain ⟨a, y⟩ := p
    rw [mput]
    split
    · simp only [enginesIn_cons]; omega
    · split
      · simp only [enginesIn_cons]; omega
      · simp only [enginesIn_cons]; omega

/-- What a map reads at a key is in it, or is the default. -/
theorem mget_eq_or_mem {α : Type} (d : α) (l : List (Nat × α)) (k : Nat) : mget d l k = d ∨ (k, mget d l k) ∈ l := by
  induction l with
  | nil => exact .inl rfl
  | cons p r ih =>
    obtain ⟨a, b⟩ := p
    rw [mget]
    split
    · next h => exact .inr (h ▸ List.mem_cons_self)
    · exact ih.imp_right (List.mem_cons_of_mem _)

/-- While no engine is used no station has one. -/
theorem State.engine_of_none_used {s : State} (h : s.enginesUsed = 0) (n : Nat) : (s.stn n).engine = false := by
  obtain hd | hm := mget_eq_or_mem ({} : Stn) s.stns n
  · rw [State.stn, hd]
  · have hnone : s.stns.filter (fun p => p.2.engine) = [] := List.eq_nil_of_length_eq_zero (Nat.eq_zero_of_add_eq_zero_right h)
    exact Bool.eq_false_iff.2 (List.filter_eq_nil_iff.1 hnone _ hm)

theorem State.enginesUsed_congr {s t : State} (h : t.stns = s.stns) (hc : t.cals = s.cals) : t.enginesUsed = s.enginesUsed := by
  rw [State.enginesUsed, State.enginesUsed, h, hc]

theorem State.putStn_enginesUsed (s : State) (n : Nat) (x : Stn) :
    (s.putStn n x).enginesUsed ≤ s.enginesUsed + (if x.engine then 1 else 0) := by
  have h := enginesIn_mput s.stns n x
  simp only [enginesIn] at h
  simp only [State.enginesUsed, State.putStn]
  omega

theorem State.toWait_enginesUsed (s : State) (n due : Nat) : (s.toWait n due).enginesUsed ≤ s.enginesUsed :=
  s.putStn_enginesUsed n { s.stn n with engine := false, dueAt := due, hdrs := [] }

theorem State.toDetect_enginesUsed (s : State) (n : Nat) : (s.toDetect n).enginesUsed ≤ s.enginesUsed + 1 :=
  s.putStn_enginesUsed n { s.stn n with engine := true, attemptAt := s.now }

/-! ### A batch opens (R155, R156) -/

theorem State.awaitBatch_ne (s : State) {i n : Nat} (h : i ≠ n) :
    (s.awaitBatch i).port n = s.port n ∧ (s.awaitBatch i).stn n = s.stn n := by
  unfold State.awaitBatch
  split
  · exact State.toWait_ne _ _ h
  · exact ⟨rfl, rfl⟩

theorem State.awaitBatch_enginesUsed (s : State) (n : Nat) : (s.awaitBatch n).enginesUsed ≤ s.enginesUsed := by
  unfold State.awaitBatch
  split
  · exact s.toWait_enginesUsed n s.now
  · exact le_rfl

theorem State.awaitBatches_enginesUsed (s : State) : s.awaitBatches.enginesUsed ≤ s.enginesUsed :=
  List.foldlRecOn (motive := fun t : State => t.enginesUsed ≤ s.enginesUsed) _ _ le_rfl fun t ht n _ =>
    (t.awaitBatch_enginesUsed n).trans ht

/-- A port waits for its batch, or is about to. -/
def State.awaits (s : State) (n : Nat) : Prop :=
  (s.port n = lkWait ∨ s.port n = lkDown) ∧ s.flag Reg.STN_LINK_CTRL_ENABLE n = true ∧ (s.stn n).batchDone = false ∧
    s.mode = mKindling

/-- A port in WAIT that its batch is to train. -/
def State.awaitsInWait (s : State) (n : Nat) : Prop :=
  s.port n = lkWait ∧ s.flag Reg.STN_LINK_CTRL_ENABLE n = true ∧ (s.stn n).batchDone = false

theorem State.awaits.awaitBatch {s : State} {n : Nat} (h : s.awaits n) : (s.awaitBatch n).awaitsInWait n := by
  obtain ⟨hport, hen, hdone, hmode⟩ := h
  refine ⟨?_, ((s.awaitBatch_keeps n).flag _ _ (by decide +kernel)).trans hen, ?_⟩
  · unfold State.awaitBatch
    obtain hw | hd := hport
    · rw [if_neg (by simp [hw, lkDown, lkWait]), hw]
    · rw [if_pos (by simp [hd, hen, hdone, hmode]), State.toWait_port]
  · unfold State.awaitBatch
    split
    · rw [State.toWait_stn, hdone]
    · exact hdone

/-- After power-up every port that its batch is to train comes to WAIT. -/
theorem State.awaits.awaitBatches {s : State} {n : Nat} (h : s.awaits n) (hn : n < 128) : s.awaitBatches.awaitsInWait n := by
  refine foldl_each (f := fun (t : State) i => t.awaitBatch i) (ready := fun t i => i = n → t.awaits n)
    (done := fun t i => i = n → t.awaitsInWait n) (fun t i hi e => ?_) (fun t i j _ hij hj e => ?_) (fun t i j _ hij hj e => ?_)
    (upTo_nodup 128) (fun _ _ _ => h) n (List.mem_range.2 hn) rfl
  · subst e
    exact (hi rfl).awaitBatch
  · subst e
    obtain ⟨hport, hstn⟩ := t.awaitBatch_ne (Ne.symm hij)
    have hkeeps := t.awaitBatch_keeps i
    obtain ⟨hw, hen, hdone, hmode⟩ := hj rfl
    exact ⟨hport ▸ hw, (hkeeps.flag _ _ (by decide +kernel)).trans hen, hstn ▸ hdone,
      (hkeeps.rd _ _ (by decide +kernel)).trans hmode⟩
  · subst e
    obtain ⟨hport, hstn⟩ := t.awaitBatch_ne (Ne.symm hij)
    obtain ⟨hw, hen, hdone⟩ := hj rfl
    exact ⟨hport.trans hw, ((t.awaitBatch_keeps i).flag _ _ (by decide +kernel)).trans hen, hstn ▸ hdone⟩

/-- One port as its batch opens. -/
def State.openPort (s : State) (n : Nat) : State :=
  if s.flag Reg.STN_LINK_CTRL_ENABLE n && !(s.stn n).batchDone && s.port n == lkWait && s.enginesUsed < 16 then
    (s.putStn n { s.stn n with inBatch := true }).toDetect n
  else s.putStn n { s.stn n with inBatch := true }

theorem State.openPort_keeps (s : State) (n : Nat) : Keeps State.toDetect_mask s (s.openPort n) :=
  Keeps.ite (Keeps.step (State.toDetect_keeps ..) (Keeps.mono (State.putStn_keeps ..))) (Keeps.mono (State.putStn_keeps ..))

theorem State.openPort_ne (s : State) {i n : Nat} (h : i ≠ n) :
    (s.openPort i).port n = s.port n ∧ (s.openPort i).stn n = s.stn n := by
  have hput : (s.putStn i { s.stn i with inBatch := true }).stn n = s.stn n := State.putStn_stn_ne _ _ h
  unfold State.openPort
  split
  · obtain ⟨hport, hstn⟩ := (s.putStn i { s.stn i with inBatch := true }).toDetect_ne h
    exact ⟨hport, hstn.trans hput⟩
  · exact ⟨rfl, hput⟩

theorem State.openPort_enginesUsed {s : State} {n : Nat} (h : (s.stn n).engine = false) :
    (s.openPort n).enginesUsed ≤ s.enginesUsed + 1 := by
  have hput : (s.putStn n { s.stn n with inBatch := true }).enginesUsed ≤ s.enginesUsed := by
    simpa [h] using s.putStn_enginesUsed n { s.stn n with inBatch := true }
  unfold State.openPort
  split
  · exact (State.toDetect_enginesUsed ..).trans (Nat.add_le_add_right hput 1)
  · exact hput.trans (Nat.le_succ _)

theorem State.openPort_detects {s : State} {n : Nat} (h : s.awaitsInWait n) (hroom : s.enginesUsed < 16) :
    (s.openPort n).port n = lkDetect ∧ ((s.openPort n).stn n).engine = true := by
  obtain ⟨hport, hen, hdone⟩ := h
  rw [State.openPort, if_pos (by simp [hen, hdone, hport, hroom])]
  exact ⟨State.toDetect_port .., congrArg Stn.engine (State.toDetect_stn ..)⟩

/-- The ports of a batch that wait enter DETECT while engines are free for all of them. -/
theorem State.openPorts_detect {l : List Nat} (hl : l.Nodup) {s : State} (hroom : s.enginesUsed + l.length ≤ 16)
    (hidle : ∀ n ∈ l, (s.stn n).engine = false) {n : Nat} (hn : n ∈ l) (h : s.awaitsInWait n) :
    (l.foldl State.openPort s).port n = lkDetect ∧ ((l.foldl State.openPort s).stn n).engine = true := by
  induction l generalizing s with
  | nil => cases hn
  | cons i r ih =>
    obtain ⟨hi, hr⟩ := List.nodup_cons.1 hl
    rw [List.length_cons] at hroom
    rw [List.foldl_cons]
    obtain rfl | hnr := List.mem_cons.1 hn
    · have hopen := State.openPort_detects h (by omega)
      refine List.foldlRecOn (motive := fun t : State => t.port n = lkDetect ∧ (t.stn n).engine = true) r _ hopen fun t ht j hj => ?_
      obtain ⟨hport, hstn⟩ := t.openPort_ne (i := j) (n := n) fun e => hi (e ▸ hj)
      rwa [hport, hstn]
    · have hne (j : Nat) (hj : j ∈ r) : i ≠ j := fun e => hi (e ▸ hj)
      have hengine := State.openPort_enginesUsed (hidle i List.mem_cons_self)
      refine ih hr (by omega) (fun j hj => ?_) hnr ?_
      · rw [(s.openPort_ne (hne j hj)).2, hidle j (List.mem_cons_of_mem _ hj)]
      · obtain ⟨hport, hstn⟩ := s.openPort_ne (hne n hnr)
        obtain ⟨hw, hen, hdone⟩ := h
        exact ⟨hport.trans hw, ((s.openPort_keeps i).flag _ _ (by decide +kernel)).trans hen, hstn ▸ hdone⟩

theorem batchStns_nodup (b : Nat) : (batchStns b).Nodup :=
  (upTo_nodup 16).map fun i j h => by simpa using h

theorem batchStns_lt {b : Fin 8} {n : Nat} (h : n ∈ batchStns b) : n < 128 := by
  obtain ⟨i, hi, rfl⟩ := List.mem_map.1 h
  have hlt : i < 16 := List.mem_range.1 hi
  omega

theorem exec_trainingBatchOpen {s : State} {b : Fin 8}
    (hm : (s.advanceTo (s.tb.powerUp + (300 + 10 * b.val) * msCycles)).awaitBatches.mode = mKindling) :
    exec (.trainingBatchOpen b) s = .next ((batchStns b).foldl State.openPort
      (s.advanceTo (s.tb.powerUp + (300 + 10 * b.val) * msCycles)).awaitBatches) := by
  rw [exec, execTrainingBatchOpen]
  exact if_neg (not_not.2 hm)

theorem gives_trainingBatchOpen (s : State) (b : Fin 8)
    (hm : (s.advanceTo (s.tb.powerUp + (300 + 10 * b.val) * msCycles)).mode = mKindling) (he : s.enginesUsed = 0) :
    s.gives (.trainingBatchOpen b) fun t => s.tb.powerUp + (300 + 10 * b.val) * msCycles ≤ t.now ∧
      ∀ n ∈ batchStns b, s.flag Reg.STN_LINK_CTRL_ENABLE n = true → (s.stn n).batchDone = false →
        s.port n = lkWait ∨ s.port n = lkDown → t.port n = lkDetect ∧ (t.stn n).engine = true := by
  have hnow := s.le_advanceTo_now (s.tb.powerUp + (300 + 10 * b.val) * msCycles)
  have hadv := s.advanceTo_keeps (s.tb.powerUp + (300 + 10 * b.val) * msCycles)
  have hexec := exec_trainingBatchOpen (((State.awaitBatches_keeps _).rd _ _ (by decide +kernel)).trans hm)
  generalize s.advanceTo (s.tb.powerUp + (300 + 10 * b.val) * msCycles) = u at hm hnow hadv hexec
  have hengines : u.awaitBatches.enginesUsed = 0 := by
    have hle := u.awaitBatches_enginesUsed
    rw [State.enginesUsed_congr (hadv.part .stns (by decide +kernel)) (hadv.part .cals (by decide +kernel)), he] at hle
    exact Nat.le_zero.1 hle
  have hopens : Keeps State.toDetect_mask u.awaitBatches ((batchStns b).foldl State.openPort u.awaitBatches) :=
    Keeps.foldl (fun t n => t.openPort_keeps n) (Keeps.refl _ _)
  refine State.gives_of_exec hexec ⟨?_, fun n hn hen hdone hport => ?_⟩
  · rwa [hopens.now, (u.awaitBatches_keeps).now]
  · have hawaits : u.awaits n :=
      ⟨(hadv.port n).symm ▸ hport, (hadv.flag _ _ (by decide +kernel)).trans hen, (hadv.stn n).symm ▸ hdone, hm⟩
    refine State.openPorts_detect (batchStns_nodup b) ?_ (fun i _ => State.engine_of_none_used hengines i) hn
      (hawaits.awaitBatches (batchStns_lt hn))
    rw [hengines]
    exact le_rfl

/-! ### A batch closes (R154, R157) -/

/-- One port as its batch closes. -/
def State.closePort (s : State) (n : Nat) : State :=
  let t := if (s.stn n).inBatch && s.port n == lkDetect then s.toWait n s.now else s
  t.putStn n { t.stn n with batchDone := true, inBatch := false }

theorem State.closePort_keeps (s : State) (n : Nat) : Keeps State.toWait_mask s (s.closePort n) :=
  Keeps.step (State.putStn_keeps ..) (Keeps.ite (State.toWait_keeps ..) (Keeps.refl _ _))

theorem State.closePort_ne (s : State) {i n : Nat} (h : i ≠ n) :
    (s.closePort i).port n = s.port n ∧ (s.closePort i).stn n = s.stn n := by
  unfold State.closePort
  split
  · obtain ⟨hport, hstn⟩ := s.toWait_ne s.now h
    exact ⟨hport, (State.putStn_stn_ne _ _ h).trans hstn⟩
  · exact ⟨rfl, State.putStn_stn_ne _ _ h⟩

theorem State.closePort_done (s : State) (n : Nat) : ((s.closePort n).stn n).batchDone = true :=
  congrArg Stn.batchDone (State.putStn_stn ..)

theorem State.closePort_waits {s : State} {n : Nat} (hin : (s.stn n).inBatch = true) (hp : s.port n = lkDetect) :
    (s.closePort n).port n = lkWait := by
  rw [State.closePort, if_pos (by simp [hin, hp])]
  exact State.toWait_port ..

theorem gives_trainingBatchClose (s : State) (b : Fin 8) :
    s.gives (.trainingBatchClose b) fun t => s.tb.powerUp + (310 + 10 * b.val) * msCycles ≤ t.now ∧
      ∀ n ∈ batchStns b, (t.stn n).batchDone = true ∧ ((s.stn n).inBatch = true → s.port n = lkDetect → t.port n = lkWait) := by
  let u := s.advanceTo (s.tb.powerUp + (310 + 10 * b.val) * msCycles)
  have hcloses : Keeps State.toWait_mask u ((batchStns b).foldl State.closePort u) :=
    Keeps.foldl (fun t n => t.closePort_keeps n) (Keeps.refl _ _)
  refine State.gives_of_exec (t := (batchStns b).foldl State.closePort u) rfl ⟨?_, ?_⟩
  · rw [hcloses.now]
    exact s.le_advanceTo_now _
  · refine foldl_each (f := State.closePort) (ready := fun t n => t.port n = s.port n ∧ t.stn n = s.stn n)
      (done := fun t n => (t.stn n).batchDone = true ∧ ((s.stn n).inBatch = true → s.port n = lkDetect → t.port n = lkWait))
      (fun t n h => ?_) (fun t i n _ hin h => ?_) (fun t i n _ hin h => ?_) (batchStns_nodup b)
      (fun n _ => ⟨State.advanceTo_port .., State.advanceTo_stn ..⟩)
    · obtain ⟨hport, hstn⟩ := h
      exact ⟨t.closePort_done n, fun hb hd => State.closePort_waits (hstn ▸ hb) (hport.trans hd)⟩
    · obtain ⟨hport, hstn⟩ := t.closePort_ne (Ne.symm hin)
      rwa [hport, hstn]
    · obtain ⟨hport, hstn⟩ := t.closePort_ne (Ne.symm hin)
      rwa [hport, hstn]

/-! ### The steps of training (R102, R106, R152) -/

theorem gives_linkTrainDetected (s : State) (n : Fin 128) (hp : s.port n = lkDetect) :
    s.gives (.linkTrainDetected n) fun t => t.port n = lkEqualise :=
  State.gives_of_exec (if_pos hp) (State.setPort_port _ _)

/-- The lanes that have come to block lock are shown as locked. -/
def State.lockLanes (s : State) (n : Nat) (lane0 lane1 : Bool) : State :=
  let s1 := if lane0 then s.set1 Reg.STN_LINK_STATUS_LANE0_LOCK n else s
  if lane1 then s1.set1 Reg.STN_LINK_STATUS_LANE1_LOCK n else s1

theorem State.lockLanes_keeps (s : State) (n : Nat) (lane0 lane1 : Bool) :
    Keeps (fieldBits [Reg.STN_LINK_STATUS_LANE0_LOCK, Reg.STN_LINK_STATUS_LANE1_LOCK]) s (s.lockLanes n lane0 lane1) := by
  have h0 : Keeps (fieldBits [Reg.STN_LINK_STATUS_LANE0_LOCK, Reg.STN_LINK_STATUS_LANE1_LOCK]) s
      (if lane0 then s.set1 Reg.STN_LINK_STATUS_LANE0_LOCK n else s) := Keeps.ite (Keeps.set1 (Keeps.refl _ _)) (Keeps.refl _ _)
  exact Keeps.ite (Keeps.set1 h0) h0

/-- A lane is shown as locked if it has come to lock now or had before. -/
theorem State.lockLanes_locks (s : State) (n : Nat) (lane0 lane1 : Bool) :
    (s.lockLanes n lane0 lane1).flag Reg.STN_LINK_STATUS_LANE0_LOCK n = (lane0 || s.flag Reg.STN_LINK_STATUS_LANE0_LOCK n) ∧
      (s.lockLanes n lane0 lane1).flag Reg.STN_LINK_STATUS_LANE1_LOCK n = (lane1 || s.flag Reg.STN_LINK_STATUS_LANE1_LOCK n) := by
  have hset0 := s.flag_set1 (f := Reg.STN_LINK_STATUS_LANE0_LOCK) n (by decide)
  have hset1 (t : State) := t.flag_set1 (f := Reg.STN_LINK_STATUS_LANE1_LOCK) n (by decide)
  have hne0 (t : State) : (t.set1 Reg.STN_LINK_STATUS_LANE1_LOCK n).flag Reg.STN_LINK_STATUS_LANE0_LOCK n =
      t.flag Reg.STN_LINK_STATUS_LANE0_LOCK n := State.flag_wr_ne _ _ _ _ _ _ (by decide)
  have hne1 : (s.set1 Reg.STN_LINK_STATUS_LANE0_LOCK n).flag Reg.STN_LINK_STATUS_LANE1_LOCK n =
      s.flag Reg.STN_LINK_STATUS_LANE1_LOCK n := State.flag_wr_ne _ _ _ _ _ _ (by decide)
  cases lane0 <;> cases lane1 <;> simp [State.lockLanes, hset0, hset1, hne0, hne1]

theorem exec_linkBlockLock {s : State} {n : Fin 128} (hp : s.port n = lkEqualise) (lane0 lane1 : Bool) :
    exec (.linkBlockLock n lane0 lane1) s =
      .next (if (lane0 || s.flag Reg.STN_LINK_STATUS_LANE0_LOCK n) && (lane1 || s.flag Reg.STN_LINK_STATUS_LANE1_LOCK n) then
        ((s.lockLanes n lane0 lane1).putStn n { (s.lockLanes n lane0 lane1).stn n with attemptAt := s.now }).setPort n lkDeskew
      else s.lockLanes n lane0 lane1) := by
  obtain ⟨h0, h1⟩ := s.lockLanes_locks n lane0 lane1
  rw [← h0, ← h1]
  exact if_pos hp

theorem gives_linkBlockLock_both (s : State) (n : Fin 128) (a b : Bool) (hp : s.port n = lkEqualise)
    (ha : a = true ∨ s.flag Reg.STN_LINK_STATUS_LANE0_LOCK n = true) (hb : b = true ∨ s.flag Reg.STN_LINK_STATUS_LANE1_LOCK n = true) :
    s.gives (.linkBlockLock n a b) fun t => t.port n = lkDeskew ∧ t.flag Reg.STN_LINK_STATUS_LANE0_LOCK n = true ∧
      t.flag Reg.STN_LINK_STATUS_LANE1_LOCK n = true := by
  obtain ⟨h0, h1⟩ := s.lockLanes_locks n a b
  have h0 := h0.trans ((Bool.or_eq_true ..).mpr ha)
  have h1 := h1.trans ((Bool.or_eq_true ..).mpr hb)
  refine State.gives_of_exec ((exec_linkBlockLock hp a b).trans (by rw [if_pos (by simp [ha, hb])])) ⟨State.setPort_port _ _, ?_, ?_⟩
  · exact (State.flag_wr_ne _ _ _ _ _ _ (by decide)).trans h0
  · exact (State.flag_wr_ne _ _ _ _ _ _ (by decide)).trans h1

theorem gives_linkBlockLock_one (s : State) (n : Fin 128) (hp : s.port n = lkEqualise)
    (h1 : s.flag Reg.STN_LINK_STATUS_LANE1_LOCK n = false) :
    s.gives (.linkBlockLock n true false) fun t => t.port n = lkEqualise ∧ t.flag Reg.STN_LINK_STATUS_LANE0_LOCK n = true ∧
      t.flag Reg.STN_LINK_STATUS_LANE1_LOCK n = false := by
  obtain ⟨hlock0, hlock1⟩ := s.lockLanes_locks n true false
  refine State.gives_of_exec ((exec_linkBlockLock hp true false).trans (by rw [if_neg (by simp [h1])])) ⟨?_, hlock0, ?_⟩
  · rw [(s.lockLanes_keeps n true false).port, hp]
  · rw [hlock1, h1, Bool.or_self]

theorem gives_linkDeskewDone (s : State) (n : Fin 128) (skew : Nat) (hp : s.port n = lkDeskew) (hs : skew ≤ 4) :
    s.gives (.linkDeskewDone n skew) fun t => t.port n = lkIdentify :=
  State.gives_of_exec (if_pos ⟨hp, hs⟩) (State.setPort_port _ _)

/-! ### Identification (R152, R175) -/

/-- The identity registers of a front end are kept, and the port goes on to MEASURE. -/
def State.identified (s : State) (n i r l b c : Nat) : State :=
  let s1 := (s.wr Reg.STN_FE_ID_VALUE n i).wr Reg.STN_FE_BOOT_VALUE n c
  (s1.putStn n { s.stn n with
    feRev := r % 2 ^ 32, feLat := l % 2 ^ 32, feBuf := b % 2 ^ 24, bootSeen := true, attemptAt := s.now }).setPort n lkMeasure

/-- A front end that was power-cycled is reported, and its sleds have lost their reference. -/
def State.powerCycled (s : State) (n c : Nat) : State :=
  (((s.set1 Reg.STN_LINK_EVT_POWER_CYCLED n).raise 0x0309 [n, c % 2 ^ 16]).loseRef (2 * n) 0).loseRef (2 * n + 1) 0

def State.powerCycled_mask : Nat := State.loseRef_mask ||| State.raise_mask ||| fieldBits [Reg.STN_LINK_EVT_POWER_CYCLED]

theorem State.powerCycled_keeps (s : State) (n c : Nat) : Keeps State.powerCycled_mask s (s.powerCycled n c) :=
  Keeps.step (State.loseRef_keeps ..) (Keeps.step (State.loseRef_keeps ..) (Keeps.step (State.raise_keeps ..)
    (Keeps.set1 (Keeps.refl _ _))))

theorem exec_linkIdentifyDone {s : State} {n : Fin 128} (hp : s.port n = lkIdentify) (i r l b c : Nat) :
    exec (.linkIdentifyDone n i r l b c) s = .next (if (s.stn n).bootSeen ∧ s.rd Reg.STN_FE_BOOT_VALUE n ≠ c % 2 ^ 16 then
      (s.identified n i r l b c).powerCycled n c else s.identified n i r l b c) := by
  rw [exec, execLinkIdentifyDone, if_neg (not_not.2 hp)]
  exact (apply_ite Host.Outcome.next _ _ _).symm

theorem State.identified_rd (s : State) (n i r l b c : Nat) :
    (s.identified n i r l b c).port n = lkMeasure ∧ (s.identified n i r l b c).rd Reg.STN_FE_ID_VALUE n = i % 2 ^ 32 ∧
      (s.identified n i r l b c).rd Reg.STN_FE_BOOT_VALUE n = c % 2 ^ 16 ∧
      ((s.identified n i r l b c).stn n).feLat = l % 2 ^ 32 ∧ ((s.identified n i r l b c).stn n).feBuf = b % 2 ^ 24 := by
  refine ⟨State.setPort_port .., ?_, ?_, congrArg Stn.feLat (State.putStn_stn ..), congrArg Stn.feBuf (State.putStn_stn ..)⟩
  · exact (State.rd_wr_ne _ _ _ _ _ _ (by decide)).trans ((State.rd_wr_ne _ _ _ _ _ _ (by decide)).trans (State.rd_wr_same ..))
  · exact (State.rd_wr_ne _ _ _ _ _ _ (by decide)).trans (State.rd_wr_same _ Reg.STN_FE_BOOT_VALUE _ _)

theorem gives_linkIdentifyDone (s : State) (n : Fin 128) (i r l b c : Nat) (hp : s.port n = lkIdentify) :
    s.gives (.linkIdentifyDone n i r l b c) fun t => t.port n = lkMeasure ∧ t.rd Reg.STN_FE_ID_VALUE n = i % 2 ^ 32 ∧
      t.rd Reg.STN_FE_BOOT_VALUE n = c % 2 ^ 16 ∧ (t.stn n).feLat = l % 2 ^ 32 ∧ (t.stn n).feBuf = b % 2 ^ 24 := by
  refine State.gives_of_exec (exec_linkIdentifyDone hp i r l b c) ?_
  have hkept := s.identified_rd n i r l b c
  split
  · have hk := (s.identified n i r l b c).powerCycled_keeps n c
    rwa [hk.port, hk.rd _ _ (by decide +kernel), hk.rd _ _ (by decide +kernel), hk.stn]
  · exact hkept

/-! ### Measurement (R149 to R153, R177) -/

/-- RAW is shown, and the counts of the port start anew. -/
def State.showMeasured (s : State) (n raw : Nat) : State :=
  (((((s.setPads n raw).showRaw n raw).clr Reg.STN_LINK_ERR_MSG_ERR n).clr Reg.STN_LINK_ERR_BLOCK_ERR n).clr
    Reg.STN_LINK_MISS_FE_MISS n).clr Reg.STN_LINK_MISS_SENSOR_MISS n

/-- A port measured within the limits is ACTIVE and shows UP. -/
def State.measured (s : State) (n raw : Nat) : State :=
  let s1 := s.showMeasured n raw
  let s2 := s1.putStn n { s1.stn n with engine := false, inBatch := false, lost := false, ready := true, missRun := 0,
                                        stale := true, rxSeq := [], stepUnacked := [], blockWin := none, hdrs := [],
                                        batchDone := true, echoAt := s1.now }
  ((s2.clr Reg.STN_LINK_LAT_LAT_VALID n).setPort n lkActive).set1 Reg.STN_LINK_EVT_UP n

theorem State.measured_keeps (s : State) (n raw : Nat) :
    Keeps (State.setPort_mask ||| State.putStn_mask ||| fieldBits [Reg.STN_LINK_LAT_LAT_VALID, Reg.STN_LINK_EVT_UP])
      (s.showMeasured n raw) (s.measured n raw) :=
  Keeps.set1 (Keeps.step (State.setPort_keeps ..) (Keeps.clr (Keeps.mono (State.putStn_keeps ..))))

theorem State.showMeasured_raw (s : State) (n : Nat) {raw : Nat} (h : raw ≤ 600 * 64) :
    (s.showMeasured n raw).rd Reg.STN_LINK_LAT_RAW n = raw / 64 := by
  calc _ = ((s.setPads n raw).showRaw n raw).rd Reg.STN_LINK_LAT_RAW n :=
        Keeps.rd (m := fieldBits [Reg.STN_LINK_ERR_MSG_ERR, Reg.STN_LINK_ERR_BLOCK_ERR, Reg.STN_LINK_MISS_FE_MISS,
          Reg.STN_LINK_MISS_SENSOR_MISS]) (Keeps.clr (Keeps.clr (Keeps.clr (Keeps.clr (Keeps.refl _ _))))) _ _ (by decide +kernel)
    _ = raw / 64 % 2 ^ 10 := State.rd_wr_same ..
    _ = raw / 64 := Nat.mod_eq_of_lt (by omega)

theorem State.measured_rd (s : State) (n : Nat) {raw : Nat} (h : raw ≤ 600 * 64) :
    (s.measured n raw).port n = lkActive ∧ (s.measured n raw).flag Reg.STN_LINK_LAT_LAT_VALID n = false ∧
      (s.measured n raw).rd Reg.STN_LINK_LAT_RAW n = raw / 64 ∧ (s.measured n raw).flag Reg.STN_LINK_EVT_UP n = true := by
  refine ⟨?_, ?_, ?_, State.flag_set1 _ _ (by decide)⟩
  · exact (State.port_wr_ne _ _ _ _ _ (by decide)).trans (State.setPort_port ..)
  · exact (State.flag_wr_ne _ _ _ _ _ _ (by decide)).trans ((State.flag_wr_ne _ _ _ _ _ _ (by decide)).trans (State.flag_clr ..))
  · rw [(s.measured_keeps n raw).rd _ _ (by decide +kernel), s.showMeasured_raw n h]

/-- What follows once a port is up: the event, its adaptation, its calibration, its heads and its spindle. -/
def State.afterUp (s : State) (n raw : Nat) : State := (((s.raise 0x0301 [n, raw / 64]).loadPort n).armCal 0 n).stationOn n

def State.afterUp_mask : Nat := State.raise_mask ||| State.loadPort_mask ||| State.armCal_mask ||| State.stationOn_mask

theorem State.afterUp_keeps (s : State) (n raw : Nat) : Keeps State.afterUp_mask s (s.afterUp n raw) :=
  Keeps.step (State.stationOn_keeps ..) (Keeps.step (State.armCal_keeps ..) (Keeps.step (State.loadPort_keeps ..)
    (Keeps.mono (State.raise_keeps ..))))

theorem exec_linkMeasureDone {s : State} {n : Fin 128} {es : List (Nat × Nat)} (hp : s.port n = lkMeasure) (hes : es.length = 16)
    (hraw : medianNat (es.map fun e => raw64 e.1 e.2) ≤ 600 * 64) (hact : actDly (s.stn n) ≤ 48) (hsen : senDly (s.stn n) ≤ 400) :
    exec (.linkMeasureDone n es) s = .next ((s.measured n (medianNat (es.map fun e => raw64 e.1 e.2))).afterUp n
      (medianNat (es.map fun e => raw64 e.1 e.2))) := by
  rw [exec, execLinkMeasureDone, if_neg (by simp [hp, hes])]
  exact if_neg (by omega)

theorem gives_linkMeasureDone (s : State) (n : Fin 128) (es : List (Nat × Nat)) (hp : s.port n = lkMeasure) (hes : es.length = 16)
    (hraw : medianNat (es.map fun e => raw64 e.1 e.2) ≤ 600 * 64) (hact : actDly (s.stn n) ≤ 48) (hsen : senDly (s.stn n) ≤ 400) :
    s.gives (.linkMeasureDone n es) fun t => t.port n = lkActive ∧ t.flag Reg.STN_LINK_LAT_LAT_VALID n = false ∧
      t.rd Reg.STN_LINK_LAT_RAW n = medianNat (es.map fun e => raw64 e.1 e.2) / 64 ∧ t.flag Reg.STN_LINK_EVT_UP n = true := by
  refine State.gives_of_exec (exec_linkMeasureDone hp hes hraw hact hsen) ?_
  have hk := (s.measured n (medianNat (es.map fun e => raw64 e.1 e.2))).afterUp_keeps n (medianNat (es.map fun e => raw64 e.1 e.2))
  rw [hk.port, hk.flag _ _ (by decide +kernel), hk.rd _ _ (by decide +kernel), hk.flag _ _ (by decide +kernel)]
  exact s.measured_rd n hraw

/-! ### Retries (R158, R967) -/

theorem State.advanceTo_retriable (s : State) (k n : Nat) : (s.advanceTo k).retriable n = s.retriable n := by
  have hmode : (s.advanceTo k).mode = s.mode := State.advanceTo_rd ..
  simp only [State.retriable, State.advanceTo_port, State.advanceTo_flag, State.advanceTo_stn, hmode]

theorem gives_linkRetry (s : State) (n : Fin 128) (hr : s.retriable n = true) (he : s.enginesUsed < 16)
    (hlow : ∀ m < n.val, s.retriable m = false) :
    s.gives (.linkRetry n) fun t => t.port n = lkDetect ∧ (t.stn n).engine = true ∧ (s.stn n).dueAt ≤ t.now := by
  let u := s.advanceTo (s.stn n).dueAt
  have hengines : u.enginesUsed < 16 := by
    rwa [State.enginesUsed_congr (s := s) ((s.advanceTo_keeps _).part .stns (by decide +kernel))
      ((s.advanceTo_keeps _).part .cals (by decide +kernel))]
  have hnone : (upTo n.val).any (fun m => u.retriable m && mhas u.stns m && (u.stn m).dueAt ≤ u.now) = false := by
    refine List.any_eq_false.2 fun m hm => ?_
    rw [State.advanceTo_retriable, hlow m (List.mem_range.1 hm)]
    simp
  have hexec : exec (.linkRetry n) s = .next (u.toDetect n) := (if_pos hr).trans (if_pos ⟨hengines, by rw [hnone]; rfl⟩)
  exact State.gives_of_exec hexec ⟨State.toDetect_port .., congrArg Stn.engine (State.toDetect_stn ..), s.le_advanceTo_now _⟩

/-- Settles O19, one command after the other. -/
theorem portTrainingSteps : Obligations.PortTrainingSteps := by
  unfold Obligations.PortTrainingSteps
  exact ⟨gives_linkEnable, gives_trainingBatchOpen, gives_trainingBatchClose, gives_linkTrainDetected, gives_linkBlockLock_both,
    gives_linkBlockLock_one, gives_linkDeskewDone, gives_linkIdentifyDone, gives_linkMeasureDone, gives_linkRetry⟩

end Sys2Proof.Machine
end

section
/-!
PROOF. How a port leaves training and ACTIVE (O20): failed training and retries, retraining, loss of link, ENABLE cleared and release.
-/

set_option Elab.async false

namespace Sys2Proof.Machine

/-! ### Failed training and retries (R153, R154, R967) -/

/-- A failed attempt sets and raises TRAIN_FAIL and leaves the port in WAIT, without its engine, until it is due. -/
theorem State.trainFail_spec (s : State) (n reached due : Nat) :
    (s.trainFail n reached due).port n = lkWait ∧ (s.trainFail n reached due).flag Reg.STN_LINK_EVT_TRAIN_FAIL n = true ∧
      ((s.trainFail n reached due).stn n).dueAt = due ∧ ((s.trainFail n reached due).stn n).engine = false ∧
      (s.trainFail n reached due).now = s.now ∧ (s.trainFail n reached due).lastEvent 0x0303 [n, reached] := by
  refine ⟨State.toWait_port .., ?_, congrArg Stn.dueAt (State.toWait_stn ..), congrArg Stn.engine (State.toWait_stn ..),
    (s.trainFail_keeps n reached due).now, (s.set1 Reg.STN_LINK_EVT_TRAIN_FAIL n).raise_lastEvent 0x0303 [n, reached]⟩
  exact ((State.toWait_keeps ..).flag _ _ (by decide +kernel)).trans
    (((State.raise_keeps ..).flag _ _ (by decide +kernel)).trans (State.flag_set1 _ _ (by decide)))

theorem gives_linkTrainTimeout (s : State) (n : Fin 128)
    (hp : s.port n = lkEqualise ∨ s.port n = lkDeskew ∨ s.port n = lkIdentify ∨ s.port n = lkMeasure) :
    s.gives (.linkTrainTimeout n) fun t => t.port n = lkWait ∧ t.flag Reg.STN_LINK_EVT_TRAIN_FAIL n = true ∧
      (t.stn n).dueAt = t.now + 100 * msCycles ∧ (t.stn n).engine = false ∧ (s.stn n).attemptAt + 2 * msCycles ≤ t.now ∧
      t.lastEvent 0x0303 [n, s.port n] := by
  have hle := s.le_advanceTo_now ((s.stn n).attemptAt + 2 * msCycles)
  have hexec : exec (.linkTrainTimeout n) s = .next ((s.advanceTo ((s.stn n).attemptAt + 2 * msCycles)).trainFail n (s.port n)
      ((s.advanceTo ((s.stn n).attemptAt + 2 * msCycles)).now + 100 * msCycles)) := if_pos hp
  generalize s.advanceTo ((s.stn n).attemptAt + 2 * msCycles) = u at hle hexec
  obtain ⟨hport, hfail, hdue, hengine, hnow, hevent⟩ := u.trainFail_spec n (s.port n) (u.now + 100 * msCycles)
  exact State.gives_of_exec hexec ⟨hport, hfail, hnow.symm ▸ hdue, hengine, hnow.symm ▸ hle, hevent⟩

theorem gives_linkRetryTimeout (s : State) (n : Fin 128) (hp : s.port n = lkDetect) (hb : (s.stn n).inBatch = false) :
    s.gives (.linkRetryTimeout n) fun t => t.port n = lkWait ∧ (t.stn n).dueAt = t.now + hz ∧ (t.stn n).engine = false ∧
      t.ev = s.ev ∧ (s.stn n).attemptAt + 10 * msCycles ≤ t.now := by
  refine State.gives_of_exec (if_pos ⟨hp, by rw [hb]; rfl⟩) ⟨State.toWait_port .., congrArg Stn.dueAt (State.toWait_stn ..),
    congrArg Stn.engine (State.toWait_stn ..), ?_, s.le_advanceTo_now _⟩
  exact ((State.toWait_keeps ..).part .ev (by decide +kernel)).trans ((s.advanceTo_keeps _).part .ev (by decide +kernel))

/-! ### Retraining (R159) -/

theorem gives_retrainRequest_writing (s : State) (n : Fin 128) (ha : s.active n = true) (hd : s.disabling n = false)
    (hw : s.writingStn n = true) :
    s.gives (.retrainRequest n) fun t => t.flag Reg.STN_LINK_STATUS_RETRAIN_PENDING n = true ∧ t.port n = lkActive ∧
      (t.stn n).safeNow = (s.stn n).safeNow := by
  have hexec : exec (.retrainRequest n) s =
      .next ((s.set1 Reg.STN_LINK_CTRL_RETRAIN n).set1 Reg.STN_LINK_STATUS_RETRAIN_PENDING n) := by
    rw [exec, execRetrainRequest, if_neg (by simp [ha, hd]), if_pos hw]
  refine State.gives_of_exec hexec ⟨State.flag_set1 _ _ (by decide), ?_, rfl⟩
  exact (State.port_wr_ne _ _ _ _ _ (by decide)).trans ((State.port_wr_ne _ _ _ _ _ (by decide)).trans (State.active_iff.1 ha))

/-- SAFE_NOW begins on a port that is not being disabled. -/
theorem State.safeNow_stn {s : State} {n : Nat} (h : s.disabling n = false) (periods : Nat) (after : AfterSafe) :
    (s.safeNow n periods after).stn n = { s.stn n with safeNow := periods, afterSafe := after } := by
  have hfree : ¬(0 < (s.stn n).safeNow ∧ (s.stn n).afterSafe = .disable) := by
    rintro ⟨hpos, hafter⟩
    simp [State.disabling, hpos, hafter] at h
  rw [State.safeNow]
  exact (congrArg (fun t : State => t.stn n) (if_neg hfree)).trans (State.putStn_stn ..)

/-- A retrain that begins is no longer pending and sends four periods of SAFE_NOW. -/
theorem State.beginRetrain_spec {s : State} {n : Nat} (h : s.disabling n = false) :
    (s.beginRetrain n).flag Reg.STN_LINK_STATUS_RETRAIN_PENDING n = false ∧ ((s.beginRetrain n).stn n).safeNow = 4 ∧
      ((s.beginRetrain n).stn n).afterSafe = .retrain := by
  let u := (s.clr Reg.STN_LINK_CTRL_RETRAIN n).clr Reg.STN_LINK_STATUS_RETRAIN_PENDING n
  have hstn : (u.abandonCal 0 n).stn n = s.stn n := (u.abandonCal_keeps 0 n).stn n
  have hdis : (u.abandonCal 0 n).disabling n = false := by rwa [State.disabling, hstn]
  have hafter : (s.beginRetrain n).stn n = { (u.abandonCal 0 n).stn n with safeNow := 4, afterSafe := .retrain } :=
    State.safeNow_stn hdis 4 .retrain
  refine ⟨?_, congrArg Stn.safeNow hafter, congrArg Stn.afterSafe hafter⟩
  exact ((State.safeNow_keeps ..).flag _ _ (by decide +kernel)).trans
    (((u.abandonCal_keeps 0 n).flag _ _ (by decide +kernel)).trans (State.flag_clr ..))

theorem gives_retrainRequest_idle (s : State) (n : Fin 128) (ha : s.active n = true) (hd : s.disabling n = false)
    (hw : s.writingStn n = false) :
    s.gives (.retrainRequest n) fun t => t.flag Reg.STN_LINK_STATUS_RETRAIN_PENDING n = false ∧ (t.stn n).safeNow = 4 ∧
      (t.stn n).afterSafe = .retrain := by
  have hexec : exec (.retrainRequest n) s = .next (s.beginRetrain n) := by
    rw [exec, execRetrainRequest, if_neg (by simp [ha, hd]), if_neg (by simp [hw])]
  exact State.gives_of_exec hexec (State.beginRetrain_spec hd)

theorem gives_retrainStart (s : State) (n : Fin 128) (hp : s.flag Reg.STN_LINK_STATUS_RETRAIN_PENDING n = true)
    (ha : s.active n = true) (hd : s.disabling n = false) (hw : s.writingStn n = false) :
    s.gives (.retrainStart n) fun t => t.flag Reg.STN_LINK_STATUS_RETRAIN_PENDING n = false ∧ (t.stn n).safeNow = 4 ∧
      (t.stn n).afterSafe = .retrain :=
  State.gives_of_exec (if_pos (by simp [hp, ha, hd, hw])) (State.beginRetrain_spec hd)

/-! ### Loss of link (R162, R163) -/

/-- What a loss of link does after its event bit is set. -/
theorem State.linkLost_down (s : State) (n cause : Nat) : (s.linkLost n cause).flag Reg.STN_LINK_EVT_DOWN n = true := by
  rw [State.linkLost]
  exact ((State.settle_keeps _).flag _ _ (by decide +kernel)).trans
    (((State.raise_keeps ..).flag _ _ (by decide +kernel)).trans (State.flag_set1 _ _ (by decide)))

/-- The last PERIOD with SAFE_NOW goes out, and the link is lost. -/
def State.lossOf (s : State) (n cause : Nat) : State :=
  let s0 := s.advancePhase 4300
  ((s0.putStn n { s0.stn n with lost := true, afterSafe := .stay }).periodOf n false).linkLost n cause

def State.lossOf_mask : Nat := State.advancePhase_mask ||| State.putStn_mask ||| State.periodOf_mask ||| State.linkLost_mask

theorem State.lossOf_keeps (s : State) (n cause : Nat) : Keeps State.lossOf_mask s (s.lossOf n cause) := by
  unfold State.lossOf
  exact Keeps.step (State.linkLost_keeps ..) (Keeps.step (State.periodOf_keeps ..) (Keeps.step (State.putStn_keeps ..)
    (Keeps.mono (State.advancePhase_keeps ..))))

theorem exec_linkLoss {s : State} {n : Fin 128} {sensors : Bool} (ha : s.active n = true) (hd : s.disabling n = false)
    (hbad : if sensors then 3 ≤ (s.stn n).missRun else (s.stn n).laneBad = true) :
    exec (.linkLoss n sensors) s = .next (if s.flag Reg.STN_LINK_CTRL_ENABLE n && s.flag Reg.STN_LINK_CTRL_AUTO_RETRAIN n then
        (s.lossOf n (if sensors then 1 else 0)).toWait n (s.lossOf n (if sensors then 1 else 0)).now
      else (s.lossOf n (if sensors then 1 else 0)).toDown n) := by
  have hk := s.lossOf_keeps n (if sensors then 1 else 0)
  rw [← hk.flag Reg.STN_LINK_CTRL_ENABLE _ (by decide +kernel), ← hk.flag Reg.STN_LINK_CTRL_AUTO_RETRAIN _ (by decide +kernel)]
  rw [exec, execLinkLoss, if_neg (by cases sensors <;> simp_all)]
  simp only [hd, Bool.false_or, Bool.false_eq_true, if_false]
  rfl

theorem gives_linkLoss (s : State) (n : Fin 128) (sensors : Bool) (ha : s.active n = true) (hd : s.disabling n = false)
    (hbad : if sensors then 3 ≤ (s.stn n).missRun else (s.stn n).laneBad = true) :
    s.gives (.linkLoss n sensors) fun t => t.flag Reg.STN_LINK_EVT_DOWN n = true ∧
      t.port n = (if s.flag Reg.STN_LINK_CTRL_ENABLE n && s.flag Reg.STN_LINK_CTRL_AUTO_RETRAIN n then lkWait else lkDown) := by
  have hdown : (s.lossOf n (if sensors then 1 else 0)).flag Reg.STN_LINK_EVT_DOWN n = true := by
    unfold State.lossOf
    exact State.linkLost_down ..
  refine State.gives_of_exec (exec_linkLoss ha hd hbad) ?_
  split
  · exact ⟨((State.toWait_keeps ..).flag _ _ (by decide +kernel)).trans hdown, State.toWait_port ..⟩
  · exact ⟨((State.toDown_keeps ..).flag _ _ (by decide +kernel)).trans hdown, State.toDown_port ..⟩

/-! ### ENABLE cleared, and release (R116, R177, R968) -/

/-- An ACTIVE port whose ENABLE is cleared stays ACTIVE while its last SAFE_NOW go out; any other goes to DOWN. -/
theorem State.disableLink_port (s : State) (n : Nat) : if s.active n then
    (s.disableLink n).port n = lkActive ∧ ((s.disableLink n).stn n).afterSafe = .disable ∧
      (s.disabling n = false → ((s.disableLink n).stn n).safeNow = 4)
    else (s.disableLink n).port n = lkDown := by
  have hport : (s.clr Reg.STN_LINK_CTRL_ENABLE n).port n = s.port n := State.port_wr_ne _ _ _ _ _ (by decide)
  have hactive : (s.clr Reg.STN_LINK_CTRL_ENABLE n).active n = s.active n := by rw [State.active, hport]; rfl
  rw [State.disableLink]
  simp only [hactive]
  split
  · next ha =>
    refine ⟨((State.safeNow_keeps ..).port n).trans (hport.trans (State.active_iff.1 ha)), ?_, fun hd =>
      congrArg Stn.safeNow (State.safeNow_stn (s := s.clr Reg.STN_LINK_CTRL_ENABLE n) hd 4 .disable)⟩
    rw [State.safeNow]
    split
    · next hdis => exact hdis.2
    · exact congrArg Stn.afterSafe (State.putStn_stn ..)
  · exact State.toDown_port ..

theorem gives_linkDisable (s : State) (n : Fin 128) :
    s.gives (.linkDisable n) fun t => t.flag Reg.STN_LINK_CTRL_ENABLE n = false ∧
      if s.active n then t.port n = lkActive ∧ (t.stn n).afterSafe = .disable ∧ (s.disabling n = false → (t.stn n).safeNow = 4)
      else t.port n = lkDown :=
  State.gives_of_exec rfl ⟨State.flag_eq_false (s.disableLink_enable n), s.disableLink_port n⟩

theorem gives_linkRelease (s : State) (n : Fin 128) :
    s.gives (.linkRelease n) fun t => t.flag Reg.STN_LINK_CTRL_RELEASE n = true ∧ (t.stn n).safeClear = 4 :=
  State.gives_of_exec rfl ⟨s.flag_set1 _ (by decide), congrArg Stn.safeClear (State.putStn_stn ..)⟩

/-- Settles O20, one command after the other. -/
theorem portLeavesActive : Obligations.PortLeavesActive := by
  unfold Obligations.PortLeavesActive
  exact ⟨gives_linkTrainTimeout, gives_linkRetryTimeout, gives_retrainRequest_writing, gives_retrainRequest_idle, gives_retrainStart,
    gives_linkLoss, gives_linkDisable, gives_linkRelease⟩

end Sys2Proof.Machine
end

section
/-!
PROOF. Messages and register accesses of a link (O21): ECHO, HEALTH, STOP, accesses to the front end's registers, STEP sent again,
block errors and their window.
-/

set_option Elab.async false

namespace Sys2Proof.Machine

/-! ### Messages sent (R108, R136) -/

theorem State.send_out (s : State) (n mtype tag : Nat) (blocks : List Nat) :
    (s.send n mtype tag blocks).out = .link n mtype (s.nextSeq n mtype tag) tag blocks :: s.out := rfl

/-- A message sent takes its SEQ from the station's record and leaves the rest of it. -/
theorem State.send_stn (s : State) (n mtype tag : Nat) (blocks : List Nat) :
    (s.send n mtype tag blocks).stn n = { s.stn n with
      txSeq := mput (s.stn n).txSeq (seqSpace mtype tag) ((s.nextSeq n mtype tag + 1) % 256) } := State.putStn_stn ..

theorem State.nextSeq_congr {s t : State} {n : Nat} (h : (t.stn n).txSeq = (s.stn n).txSeq) (mtype tag : Nat) :
    t.nextSeq n mtype tag = s.nextSeq n mtype tag := by rw [State.nextSeq, State.nextSeq, h]

theorem State.resend_out (s : State) (n mtype seq tag : Nat) (blocks : List Nat) :
    (s.resend n mtype seq tag blocks).out = .link n mtype seq tag blocks :: s.out := rfl

/-! ### ECHO (R149, R150) -/

/-- An ECHO is counted, and the measurement begins. -/
def State.echoed (s : State) (n : Nat) : State :=
  s.putStn n { s.stn n with echoes := ((s.stn n).echoes + 1) % 2 ^ 32, echoAt := s.now }

theorem exec_echoSend {s : State} {n : Fin 128} (ha : s.active n = true) :
    exec (.echoSend n) s = .next (((s.advanceTo ((s.stn n).echoAt + hz)).echoed n).send n 0x07 0
      [((s.advanceTo ((s.stn n).echoAt + hz)).stn n).echoes]) := by
  rw [exec, execEchoSend, if_pos (.inl ha)]
  simp only [ha, if_true]
  rfl

theorem gives_echoSend (s : State) (n : Fin 128) (ha : s.active n = true) :
    s.gives (.echoSend n) fun t => t.out = .link n 0x07 (s.nextSeq n 0x07 0) 0 [(s.stn n).echoes] :: s.out ∧
      (s.stn n).echoAt + hz ≤ t.now ∧ (t.stn n).echoAt = t.now := by
  obtain ⟨u, hu⟩ : ∃ u, s.advanceTo ((s.stn n).echoAt + hz) = u := ⟨_, rfl⟩
  have hexec := exec_echoSend ha
  have hle : (s.stn n).echoAt + hz ≤ u.now := hu ▸ s.le_advanceTo_now _
  have hstn : u.stn n = s.stn n := hu ▸ s.advanceTo_stn _ n
  have hout : u.out = s.out := hu ▸ s.advanceTo_out _
  rw [hu] at hexec
  have hput : (u.echoed n).stn n = { u.stn n with echoes := ((u.stn n).echoes + 1) % 2 ^ 32, echoAt := u.now } := State.putStn_stn ..
  generalize hz = second at hle ⊢
  refine State.gives_of_exec hexec ⟨?_, hle, ?_⟩
  · have hseq : (u.echoed n).nextSeq n 0x07 0 = s.nextSeq n 0x07 0 := State.nextSeq_congr (by rw [hput, hstn]) _ _
    have houts : (u.echoed n).out = s.out := hout
    rw [State.send_out, hseq, houts, hstn]
  · rw [State.send_stn, hput]
    rfl

/-- The difference of two counts. -/
theorem natAbs_sub_eq (a b : Nat) : ((a : Int) - b).natAbs = if a ≤ b then b - a else a - b := by
  split <;> omega

/-- What an intact ECHORSP on an active port does, by how far RAW has moved. -/
theorem exec_echorspReceive {s : State} {n : Fin 128} {m : LinkMsg} (hok : msgOk 0x87 m = true) (ha : s.active n = true) (rt : Nat) :
    exec (.echorspReceive n m rt) s =
      .next (if 128 ≤ ((raw64 rt (bitsOf (m.blocks.getD 0 0) 32 16) : Int) - (s.stn n).rawHalf).natAbs then
        ((s.showRaw n (raw64 rt (bitsOf (m.blocks.getD 0 0) 32 16))).set1 Reg.STN_LINK_LAT_LAT_VALID n).setPads n
          (raw64 rt (bitsOf (m.blocks.getD 0 0) 32 16))
      else (s.showRaw n (raw64 rt (bitsOf (m.blocks.getD 0 0) 32 16))).set1 Reg.STN_LINK_LAT_LAT_VALID n) := by
  have hears : s.hears n = true := by rw [State.hears, State.active_iff.1 ha]; rfl
  rw [exec, execEchorspReceive, hears, hok, ha, natAbs_sub_eq]
  rfl

theorem gives_echorspReceive_intact (s : State) (n : Fin 128) (m : LinkMsg) (rt : Nat) (hok : msgOk 0x87 m = true)
    (ha : s.active n = true) :
    s.gives (.echorspReceive n m rt) fun t =>
      t.rd Reg.STN_LINK_LAT_RAW n = raw64 rt (bitsOf (m.blocks.getD 0 0) 32 16) / 64 % 2 ^ 10 ∧
      t.flag Reg.STN_LINK_LAT_LAT_VALID n = true ∧
      (128 ≤ ((raw64 rt (bitsOf (m.blocks.getD 0 0) 32 16) : Int) - (s.stn n).rawHalf).natAbs →
        (t.stn n).rawHalf = raw64 rt (bitsOf (m.blocks.getD 0 0) 32 16)) ∧
      (((raw64 rt (bitsOf (m.blocks.getD 0 0) 32 16) : Int) - (s.stn n).rawHalf).natAbs < 128 → t.stns = s.stns) := by
  refine State.gives_of_exec (exec_echorspReceive hok ha rt) ?_
  generalize raw64 rt (bitsOf (m.blocks.getD 0 0) 32 16) = raw
  let u := (s.showRaw n raw).set1 Reg.STN_LINK_LAT_LAT_VALID n
  have hraw : u.rd Reg.STN_LINK_LAT_RAW n = raw / 64 % 2 ^ 10 :=
    (State.rd_set1_ne _ _ _ _ _ (by decide)).trans (State.rd_wr_same ..)
  have hvalid : u.flag Reg.STN_LINK_LAT_LAT_VALID n = true := State.flag_set1 _ _ (by decide)
  split
  · next hfar => exact ⟨hraw, hvalid, fun _ => congrArg Stn.rawHalf (State.putStn_stn ..), fun hnear => absurd hfar (by omega)⟩
  · next hnear => exact ⟨hraw, hvalid, fun hfar => absurd hfar hnear, fun _ => rfl⟩

theorem gives_echorspReceive_bad (s : State) (n : Fin 128) (m : LinkMsg) (rt : Nat) (hh : s.hears n = true)
    (hok : msgOk 0x87 m = false) (hlt : s.rd Reg.STN_LINK_ERR_MSG_ERR n < 2 ^ 16 - 1) :
    s.gives (.echorspReceive n m rt) fun t => t.rd Reg.STN_LINK_ERR_MSG_ERR n = s.rd Reg.STN_LINK_ERR_MSG_ERR n + 1 ∧
      t.stns = s.stns := by
  have hexec : exec (.echorspReceive n m rt) s = .next (s.msgErr n) := by
    rw [exec, execEchorspReceive, hh, hok]
    rfl
  exact State.gives_of_exec hexec ⟨State.rd_bump_of_lt _ (Nat.add_lt_of_lt_sub hlt), rfl⟩

/-! ### HEALTH and STOP (R139, R147) -/

theorem gives_healthReceive (s : State) (n : Fin 128) (m : LinkMsg) (ha : s.active n = true) (hok : msgOk 0x83 m = true) :
    s.gives (.healthReceive n m) fun t => (t.stn n).health = m.blocks := by
  have hexec : exec (.healthReceive n m) s = .next (s.putStn n { s.stn n with health := m.blocks }) := by
    rw [exec, execHealthReceive, ha, hok]
    rfl
  exact State.gives_of_exec hexec (congrArg Stn.health (State.putStn_stn ..))

theorem gives_stopSend (s : State) (n : Fin 128) (h0 h1 : Bool) (ha : s.active n = true) :
    s.gives (.stopSend n h0 h1) fun t =>
      t.out = (List.replicate 4 [Out.block n 1 (stopBlock h0 h1), Out.block n 0 (stopBlock h0 h1)]).flatten ++ s.out := by
  have hexec : exec (.stopSend n h0 h1) s =
      .next ((upTo 4).foldl (fun t _ => t.emitLanes n fun _ => some (stopBlock h0 h1)) s) := by
    rw [exec, execStopSend, State.sendStop, if_pos ha]
  exact State.gives_of_exec hexec rfl

/-! ### Registers of the front end (R144, R145) -/

theorem gives_feRegAccess (s : State) (n : Fin 128) (w : Bool) (ha : s.active n = true)
    (hb : s.flag Reg.STN_REG_CMD_BUSY n = false) :
    s.gives (.feRegAccess n w) fun t => t.flag Reg.STN_REG_CMD_BUSY n = true ∧ t.flag Reg.STN_REG_CMD_DONE n = false ∧
      t.out = .link n (if w then 0x06 else 0x05) (s.nextSeq n 0x05 0) 0
        [s.rd Reg.STN_REG_ADDR_ADDR n / 4 * 4 + if w then s.rd Reg.STN_REG_DATA_DATA n * 2 ^ 32 else 0] :: s.out := by
  refine State.gives_of_exec rfl ⟨(State.regGo_starts ha hb w none).1, ?_, ?_⟩
  · rw [State.regGo, if_neg (by simp [ha, hb])]
    exact State.flag_clr ..
  · rw [State.regGo, if_neg (by simp [ha, hb])]
    cases w <;> rfl

/-- The end of an access, but for the STATION_DIAG that made it. -/
def State.regShown (s : State) (n result : Nat) : State :=
  let s1 := ((s.clr Reg.STN_REG_CMD_BUSY n).set1 Reg.STN_REG_CMD_DONE n).wr Reg.STN_REG_CMD_RESULT n result
  s1.putStn n { s.stn n with reg := none, regBy := none }

/-- What follows the end of an access is the completion of its STATION_DIAG, if one made it. -/
theorem State.regDone_keeps_shown (s : State) (n result : Nat) : Keeps State.finish_mask (s.regShown n result) (s.regDone n result) := by
  rw [State.regDone]
  split
  · exact State.finish_keeps ..
  · exact Keeps.refl _ _

/-- Once an access is over, BUSY has fallen, DONE and RESULT are shown, and none is in progress. -/
theorem State.regDone_spec (s : State) (n result : Nat) :
    (s.regDone n result).flag Reg.STN_REG_CMD_BUSY n = false ∧ (s.regDone n result).flag Reg.STN_REG_CMD_DONE n = true ∧
      ((s.regDone n result).stn n).reg = none ∧
      (s.regDone n result).rd Reg.STN_REG_CMD_RESULT n = result % 2 ^ Reg.STN_REG_CMD_RESULT.w := by
  have hk := s.regDone_keeps_shown n result
  rw [hk.flag _ _ (by decide +kernel), hk.flag _ _ (by decide +kernel), hk.stn, hk.rd _ _ (by decide +kernel)]
  refine ⟨?_, ?_, congrArg Stn.reg (State.putStn_stn ..), State.rd_wr_same _ Reg.STN_REG_CMD_RESULT _ _⟩
  · exact (State.flag_wr_ne _ _ _ _ _ _ (by decide)).trans ((State.flag_wr_ne _ _ _ _ _ _ (by decide)).trans (State.flag_clr ..))
  · exact (State.flag_wr_ne _ _ _ _ _ _ (by decide)).trans (State.flag_set1 _ _ (by decide))

/-- The data that a response carries, of a read. -/
def State.regData (s : State) (n b : Nat) : State :=
  if s.flag Reg.STN_REG_CMD_WRITE n then s else s.wr Reg.STN_REG_DATA_DATA n (bitsOf b 0 32)

theorem exec_regrspReceive {s : State} {n : Fin 128} {m : LinkMsg} {r : Nat × Nat × Nat} (hh : s.hears n = true)
    (hok : msgOk 0x84 m = true) (hr : (s.stn n).reg = some r) (ht : msgTag m % 8 = 0) :
    exec (.regrspReceive n m) s =
      .next ((s.regData n (m.blocks.getD 0 0)).regDone n (bitsOf (m.blocks.getD 0 0) 32 8)) := by
  rw [exec, execRegrspReceive, hh, hok]
  simp only [hr, ht]
  rfl

theorem gives_regrspReceive (s : State) (n : Fin 128) (m : LinkMsg) (r : Nat × Nat × Nat) (hh : s.hears n = true)
    (hok : msgOk 0x84 m = true) (hr : (s.stn n).reg = some r) (ht : msgTag m % 8 = 0) :
    s.gives (.regrspReceive n m) fun t => t.flag Reg.STN_REG_CMD_BUSY n = false ∧ t.flag Reg.STN_REG_CMD_DONE n = true ∧
      (t.stn n).reg = none ∧
      t.rd Reg.STN_REG_CMD_RESULT n = bitsOf (m.blocks.getD 0 0) 32 8 % 2 ^ Reg.STN_REG_CMD_RESULT.w ∧
      (s.flag Reg.STN_REG_CMD_WRITE n = false → t.rd Reg.STN_REG_DATA_DATA n = bitsOf (m.blocks.getD 0 0) 0 32) := by
  obtain ⟨hbusy, hdone, hreg, hresult⟩ := (s.regData n (m.blocks.getD 0 0)).regDone_spec n (bitsOf (m.blocks.getD 0 0) 32 8)
  refine State.gives_of_exec (exec_regrspReceive hh hok hr ht) ⟨hbusy, hdone, hreg, hresult, fun hw => ?_⟩
  rw [(State.regDone_keeps ..).rd _ _ (by decide +kernel), State.regData, if_neg (by simp [hw]), State.rd_wr_same]
  exact bitsOf_mod ..

theorem gives_feRegTimeout_again (s : State) (n : Fin 128) (q b k : Nat) (hr : (s.stn n).reg = some (q, b, k)) (hk : k < 3) :
    s.gives (.feRegTimeout n) fun t => (t.stn n).reg = some (q, b, k + 1) ∧ t.now = max s.now ((s.stn n).regAt + 30000) ∧
      (t.stn n).regAt = t.now ∧
      t.out = .link n (if s.flag Reg.STN_REG_CMD_WRITE n then 0x06 else 0x05) q 0 [b] :: s.out := by
  let u := s.advanceTo ((s.stn n).regAt + 30000)
  let v := u.putStn n { u.stn n with reg := some (q, b, k + 1), regAt := u.now }
  have hexec : exec (.feRegTimeout n) s =
      .next (v.resend n (if s.flag Reg.STN_REG_CMD_WRITE n then 0x06 else 0x05) q 0 [b]) := by
    rw [exec, execFeRegTimeout]
    simp only [hr, if_pos hk]
    rfl
  have hv : v.stn n = { u.stn n with reg := some (q, b, k + 1), regAt := u.now } := State.putStn_stn ..
  refine State.gives_of_exec hexec ⟨congrArg Stn.reg hv, s.advanceTo_now _, congrArg Stn.regAt hv, ?_⟩
  have hout : v.out = s.out := s.advanceTo_out ((s.stn n).regAt + 30000)
  rw [State.resend_out, hout]

theorem gives_feRegTimeout_last (s : State) (n : Fin 128) (q b k : Nat) (hr : (s.stn n).reg = some (q, b, k)) (hk : 3 ≤ k) :
    s.gives (.feRegTimeout n) fun t => (t.stn n).reg = none ∧ t.flag Reg.STN_LINK_EVT_REG_TIMEOUT n = true ∧
      t.flag Reg.STN_REG_CMD_BUSY n = false ∧ t.rd Reg.STN_REG_CMD_RESULT n = 3 := by
  let u := (s.advanceTo ((s.stn n).regAt + 30000)).set1 Reg.STN_LINK_EVT_REG_TIMEOUT n
  let v := u.raise 0x0308 [n, bitsOf b 0 16]
  have hexec : exec (.feRegTimeout n) s = .next (v.regDone n 3) := by
    rw [exec, execFeRegTimeout]
    simp only [hr, if_neg (Nat.not_lt.2 hk)]
    rfl
  obtain ⟨hbusy, -, hreg, hresult⟩ := v.regDone_spec n 3
  refine State.gives_of_exec hexec ⟨hreg, ?_, hbusy, hresult⟩
  exact ((State.regDone_keeps ..).flag _ _ (by decide +kernel)).trans
    (((u.raise_keeps ..).flag _ _ (by decide +kernel)).trans (State.flag_set1 _ _ (by decide)))

/-! ### STEP (R136, R143) -/

theorem gives_stepRetransmit (s : State) (n : Fin 128) (u : Unacked) (hu : (s.stn n).stepUnacked = [u]) (ha : s.active n = true)
    (hage : u.sentAt + ackCycles ≤ s.now) :
    s.gives (.stepRetransmit n) fun t => t.out = .link n 0x04 u.seq u.tag u.blocks :: s.out ∧
      (t.stn n).stepUnacked = [{ u with sentAt := s.now }] := by
  let v := s.resend n 0x04 u.seq u.tag u.blocks
  have hexec : exec (.stepRetransmit n) s = .next (v.putStn n { v.stn n with stepUnacked := [{ u with sentAt := s.now }] }) := by
    have hdue : ¬(!s.active n ∨ s.now < u.sentAt + ackCycles) := by simp [ha, hage]
    rw [exec, execStepRetransmit]
    simp only [hu, if_neg hdue]
    rfl
  exact State.gives_of_exec hexec ⟨rfl, congrArg Stn.stepUnacked (State.putStn_stn ..)⟩

/-! ### Block errors (R105, R162, R164) -/

/-- A block error counted, and the port's calibration run abandoned. -/
def State.blockCounted (s : State) (n : Nat) : State := (s.bump Reg.STN_LINK_ERR_BLOCK_ERR n 1).abandonCal 0 n

theorem State.blockCounted_rd {s : State} {n : Nat} (h : s.rd Reg.STN_LINK_ERR_BLOCK_ERR n < 2 ^ 16 - 1) :
    (s.blockCounted n).rd Reg.STN_LINK_ERR_BLOCK_ERR n = s.rd Reg.STN_LINK_ERR_BLOCK_ERR n + 1 :=
  ((State.abandonCal_keeps ..).rd _ _ (by decide +kernel)).trans (State.rd_bump_of_lt _ (Nat.add_lt_of_lt_sub h))

theorem State.blockCounted_stn (s : State) (n : Nat) : (s.blockCounted n).stn n = s.stn n := (State.abandonCal_keeps ..).stn n

/-- The window of R164 opens on an ACTIVE port that has none open. -/
def State.openBlockWin (s : State) (n : Nat) (active : Bool) (now before : Nat) : State :=
  if active ∧ (s.stn n).blockWin.isNone then s.putStn n { s.stn n with blockWin := some (now + hz, before) } else s

theorem State.openBlockWin_rd (s : State) (n : Nat) (active : Bool) (now before : Nat) (f : Fld) (i : Nat) :
    (s.openBlockWin n active now before).rd f i = s.rd f i := by
  rw [State.openBlockWin]
  split <;> rfl

theorem State.openBlockWin_hdrs (s : State) (n : Nat) (active : Bool) (now before : Nat) :
    ((s.openBlockWin n active now before).stn n).hdrs = (s.stn n).hdrs := by
  rw [State.openBlockWin]
  split
  · rw [State.putStn_stn]
  · rfl

theorem exec_linkBlockError_header (s : State) (n : Fin 128) (lane : Fin 2) (gap : Nat) :
    exec (.linkBlockError n (some (lane, gap))) s =
      .next (((s.blockCounted n).putStn n (((s.blockCounted n).stn n).badHeader lane gap)).openBlockWin n (s.active n) s.now
        (s.rd Reg.STN_LINK_ERR_BLOCK_ERR n)) := by
  rw [exec, execLinkBlockError, State.openBlockWin]
  exact (apply_ite Host.Outcome.next _ _ _).symm

theorem exec_linkBlockError_other (s : State) (n : Fin 128) :
    exec (.linkBlockError n none) s =
      .next ((s.blockCounted n).openBlockWin n (s.active n) s.now (s.rd Reg.STN_LINK_ERR_BLOCK_ERR n)) := by
  rw [exec, execLinkBlockError, State.openBlockWin]
  exact (apply_ite Host.Outcome.next _ _ _).symm

theorem gives_linkBlockError_header (s : State) (n : Fin 128) (lane : Fin 2) (gap : Nat)
    (hlt : s.rd Reg.STN_LINK_ERR_BLOCK_ERR n < 2 ^ 16 - 1) :
    s.gives (.linkBlockError n (some (lane, gap))) fun t =>
      t.rd Reg.STN_LINK_ERR_BLOCK_ERR n = s.rd Reg.STN_LINK_ERR_BLOCK_ERR n + 1 ∧
      (s.active n = true → (s.stn n).blockWin = none →
        (t.stn n).blockWin = some (s.now + hz, s.rd Reg.STN_LINK_ERR_BLOCK_ERR n)) ∧
      mget [] (t.stn n).hdrs lane.val =
        0 :: ((mget [] (s.stn n).hdrs lane.val).map fun a => a + gap).filter fun a => decide (a < 64) := by
  let u := (s.blockCounted n).putStn n (((s.blockCounted n).stn n).badHeader lane gap)
  have hu : u.stn n = (s.stn n).badHeader lane gap := by rw [State.putStn_stn, State.blockCounted_stn]
  refine State.gives_of_exec (exec_linkBlockError_header s n lane gap) ⟨?_, fun ha hw => ?_, ?_⟩
  · rw [State.openBlockWin_rd]
    exact State.blockCounted_rd hlt
  · have hopen : s.active n ∧ (u.stn n).blockWin.isNone := ⟨ha, by rw [hu]; simpa [Stn.badHeader] using hw⟩
    rw [State.openBlockWin, if_pos hopen, State.putStn_stn]
  · rw [State.openBlockWin_hdrs, hu]
    exact mget_mput_same ..

theorem gives_linkBlockError_other (s : State) (n : Fin 128) (hlt : s.rd Reg.STN_LINK_ERR_BLOCK_ERR n < 2 ^ 16 - 1) :
    s.gives (.linkBlockError n none) fun t =>
      t.rd Reg.STN_LINK_ERR_BLOCK_ERR n = s.rd Reg.STN_LINK_ERR_BLOCK_ERR n + 1 ∧ (t.stn n).hdrs = (s.stn n).hdrs := by
  refine State.gives_of_exec (exec_linkBlockError_other s n) ⟨?_, ?_⟩
  · rw [State.openBlockWin_rd, State.blockCounted_rd hlt]
  · rw [State.openBlockWin_hdrs, State.blockCounted_stn]

theorem gives_linkDegradedWindow (s : State) (n : Fin 128) (e b : Nat) (hw : (s.stn n).blockWin = some (e, b)) :
    s.gives (.linkDegradedWindow n) fun t => e ≤ t.now ∧ (t.stn n).blockWin = none ∧
      (1000 < s.rd Reg.STN_LINK_ERR_BLOCK_ERR n - b → t.flag Reg.STN_LINK_EVT_DEGRADED n = true ∧
        t.lastEvent 0x0307 [n, s.rd Reg.STN_LINK_ERR_BLOCK_ERR n - b]) := by
  let u := (s.advanceTo e).putStn n { (s.advanceTo e).stn n with blockWin := none }
  have hu : (u.stn n).blockWin = none := congrArg Stn.blockWin (State.putStn_stn ..)
  have hle : e ≤ u.now := s.le_advanceTo_now e
  have hexec : exec (.linkDegradedWindow n) s = if 1000 < s.rd Reg.STN_LINK_ERR_BLOCK_ERR n - b then
      .next ((u.set1 Reg.STN_LINK_EVT_DEGRADED n).raise 0x0307 [n, s.rd Reg.STN_LINK_ERR_BLOCK_ERR n - b]) else .next u := by
    have hrd : u.rd Reg.STN_LINK_ERR_BLOCK_ERR n = s.rd Reg.STN_LINK_ERR_BLOCK_ERR n := s.advanceTo_rd e _ _
    rw [exec, execLinkDegradedWindow, ← hrd]
    simp only [hw]
    rfl
  rw [State.gives_iff, hexec]
  split
  · refine ⟨?_, ?_, fun _ => ⟨?_, State.raise_lastEvent ..⟩⟩
    · rwa [State.raise_now]
    · rwa [State.raise_stn]
    · exact ((State.raise_keeps ..).flag _ _ (by decide +kernel)).trans (State.flag_set1 _ _ (by decide))
  · next hfew => exact ⟨hle, hu, fun hmany => absurd hmany hfew⟩

/-- Settles O21, one command after the other. -/
theorem linkMessagesAndAccesses : Obligations.LinkMessagesAndAccesses := by
  unfold Obligations.LinkMessagesAndAccesses
  exact ⟨gives_echoSend, gives_echorspReceive_intact, gives_echorspReceive_bad, gives_healthReceive, gives_stopSend, gives_feRegAccess,
    gives_regrspReceive, gives_feRegTimeout_again, gives_feRegTimeout_last, gives_stepRetransmit, gives_linkBlockError_header,
    gives_linkBlockError_other, gives_linkDegradedWindow⟩

end Sys2Proof.Machine
end

section
/-!
PROOF. Scheduled messages (O22): PERIOD and ACTUATE to each active port, and SENSOR delivered or missed.
-/

set_option Elab.async false

namespace Sys2Proof.Machine

/-! ### PERIOD (R112, R116) -/

/-- A port whose four periods of SAFE_NOW do not end stays as it is: it sends PERIOD and counts its periods down. -/
def State.periodSent (s : State) (n : Nat) (all : Bool) : State :=
  let x := s.stn n
  let s1 := s.send n 0x01 0 (periodBlocks s (all || decide (0 < x.safeNow) || x.lost) (decide (0 < x.safeClear)))
  let s2 := s1.putStn n { s1.stn n with safeNow := x.safeNow - 1, safeClear := x.safeClear - 1 }
  if x.safeClear = 1 then s2.clr Reg.STN_LINK_CTRL_RELEASE n else s2

def State.periodSent_mask : Nat := State.send_mask ||| State.putStn_mask ||| fieldBits [Reg.STN_LINK_CTRL_RELEASE]

theorem State.periodSent_keeps (s : State) (n : Nat) (all : Bool) : Keeps State.periodSent_mask s (s.periodSent n all) := by
  unfold State.periodSent
  have hsent : ∀ blocks x, Keeps State.periodSent_mask s ((s.send n 0x01 0 blocks).putStn n x) := fun blocks x =>
    Keeps.step (State.putStn_keeps ..) (Keeps.mono (State.send_keeps ..))
  exact Keeps.ite (Keeps.clr (hsent _ _)) (hsent _ _)

theorem State.periodOf_eq {s : State} {n : Nat} (all : Bool) (h : (s.stn n).safeNow ≠ 1) : s.periodOf n all = s.periodSent n all := by
  rw [State.periodOf]
  exact if_neg h

theorem State.periodSent_out (s : State) (n : Nat) (all : Bool) : (s.periodSent n all).out =
    .link n 0x01 (s.nextSeq n 0x01 0) 0 (periodBlocks s (all || decide (0 < (s.stn n).safeNow) || (s.stn n).lost)
      (decide (0 < (s.stn n).safeClear))) :: s.out := by
  rw [State.periodSent]
  split <;> rfl

theorem State.periodSent_stn_ne (s : State) {i n : Nat} (all : Bool) (h : i ≠ n) : (s.periodSent i all).stn n = s.stn n := by
  rw [State.periodSent]
  split <;> exact (State.putStn_stn_ne _ _ h).trans (State.putStn_stn_ne _ _ h)

/-- What the next PERIOD carries depends on the time and on the value of TIME that is to be loaded. -/
theorem Keeps.periodBlocks {m : Nat} {s t : State} (h : Keeps m s t) (safeNow safeClear : Bool)
    (hm : m.testBit (Part.bit .tb) = false ∧ ∀ f ∈ [Reg.TIME_STATUS_LOAD_PENDING, Reg.TIME_LOAD_SEC, Reg.TIME_LOAD_TICK,
      Reg.TIME_CTRL_NO_STEP], m.testBit (f.id % 8192) = false := by decide +kernel) :
    Machine.periodBlocks t safeNow safeClear = Machine.periodBlocks s safeNow safeClear := by
  obtain ⟨htb, hregs⟩ := hm
  have htb : t.tb = s.tb := h.part .tb htb
  have hpending := h.flag Reg.TIME_STATUS_LOAD_PENDING 0 (hregs _ (by simp))
  have hsec := h.rd Reg.TIME_LOAD_SEC 0 (hregs _ (by simp))
  have htick := h.rd Reg.TIME_LOAD_TICK 0 (hregs _ (by simp))
  have hstep := h.flag Reg.TIME_CTRL_NO_STEP 0 (hregs _ (by simp))
  have hnext : t.nextStart = s.nextStart := by
    rw [State.nextStart, State.nextStart, State.loadValue, State.loadValue, State.period, State.period, State.lin_congr htb, hpending,
      hsec, htick, hstep, htb]
  rw [Machine.periodBlocks, Machine.periodBlocks, hnext]

/-- Waiting for its batch is not for an active port, and begins no SAFE_NOW. -/
theorem State.awaitBatch_stn (s : State) (i n : Nat) :
    ((s.awaitBatch i).stn n).safeNow = (s.stn n).safeNow ∧
      (s.active n = true → (s.awaitBatch i).active n = true ∧ (s.awaitBatch i).stn n = s.stn n) := by
  rw [State.awaitBatch]
  split
  · next hdown =>
    by_cases hi : i = n
    · subst hi
      refine ⟨by rw [State.toWait_stn], fun ha => ?_⟩
      exact absurd ((State.active_iff.1 ha).symm.trans hdown.1) (by decide)
    · obtain ⟨hport, hstn⟩ := s.toWait_ne s.now hi
      exact ⟨congrArg Stn.safeNow hstn, fun ha => ⟨by rwa [State.active, hport], hstn⟩⟩
  · exact ⟨rfl, fun ha => ⟨ha, rfl⟩⟩

theorem State.awaitBatches_stn (s : State) (n : Nat) :
    (s.awaitBatches.stn n).safeNow = (s.stn n).safeNow ∧
      (s.active n = true → s.awaitBatches.active n = true ∧ s.awaitBatches.stn n = s.stn n) := by
  rw [State.awaitBatches]
  induction upTo 128 generalizing s with
  | nil => exact ⟨rfl, fun ha => ⟨ha, rfl⟩⟩
  | cons i r ih =>
    obtain ⟨hsafe, hact⟩ := s.awaitBatch_stn i n
    obtain ⟨hsafe', hact'⟩ := ih (s.awaitBatch i)
    refine ⟨hsafe'.trans hsafe, fun ha => ?_⟩
    obtain ⟨ha1, hstn1⟩ := hact ha
    obtain ⟨ha2, hstn2⟩ := hact' ha1
    exact ⟨ha2, hstn2.trans hstn1⟩

/-- One port's turn at phase 4,300. -/
def State.periodTurn (t : State) (n : Nat) : State :=
  if t.active n then
    let dis := (t.stn n).safeNow = 1 ∧ (t.stn n).afterSafe = .disable
    let u := t.periodOf n t.loop.safeDone
    if u.active n then u
    else if dis then
      let v := u.linkLost n 2
      if v.flag Reg.STN_LINK_CTRL_ENABLE n then v.toWait n v.now else v
    else u.portLeft n
  else t

theorem State.periodTurn_eq {t : State} {n : Nat} (h : (t.stn n).safeNow ≠ 1) :
    t.periodTurn n = if t.active n then t.periodSent n t.loop.safeDone else t := by
  have hact := (t.periodSent_keeps n t.loop.safeDone).active n
  rw [State.periodTurn, State.periodOf_eq _ h]
  simp only [hact]
  by_cases ha : t.active n = true
  · rw [if_pos ha, if_pos ha, if_pos ha]
  · rw [if_neg ha, if_neg ha]

/-- A port before its turn: the other ports' turns have left it as it was in `s`. -/
def State.periodDue (s t : State) (n : Nat) : Prop :=
  Keeps State.periodSent_mask s t ∧ t.stn n = s.stn n ∧ (s.stn n).safeNow ≠ 1

/-- A port after its turn: if it is active, its PERIOD has gone out. -/
def State.periodGone (s t : State) (n : Nat) : Prop :=
  Keeps State.periodSent_mask s t ∧ (s.active n = true → ∃ q, .link n 0x01 q 0 (periodBlocks s
    (s.loop.safeDone || decide (0 < (s.stn n).safeNow) || (s.stn n).lost) (decide (0 < (s.stn n).safeClear))) ∈ t.out)

theorem State.periodDue.turn_keeps {s t : State} {n : Nat} (h : s.periodDue t n) : Keeps State.periodSent_mask s (t.periodTurn n) := by
  obtain ⟨hk, hstn, hsafe⟩ := h
  rw [State.periodTurn_eq (hstn ▸ hsafe)]
  exact Keeps.ite (Keeps.step (State.periodSent_keeps ..) hk) hk

theorem State.periodDue.turn_gone {s t : State} {n : Nat} (h : s.periodDue t n) : s.periodGone (t.periodTurn n) n := by
  refine ⟨h.turn_keeps, fun ha => ⟨t.nextSeq n 0x01 0, ?_⟩⟩
  obtain ⟨hk, hstn, hsafe⟩ := h
  have hloop : t.loop = s.loop := hk.part .loop (by decide +kernel)
  rw [State.periodTurn_eq (hstn ▸ hsafe), if_pos ((hk.active n).trans ha), State.periodSent_out, hk.periodBlocks, hloop, hstn]
  exact List.mem_cons_self

theorem State.periodDue.turn_due {s t : State} {i n : Nat} (h : s.periodDue t i) (hne : n ≠ i) (hn : s.periodDue t n) :
    s.periodDue (t.periodTurn i) n := by
  refine ⟨h.turn_keeps, ?_, hn.2.2⟩
  obtain ⟨_, hstn, hsafe⟩ := h
  rw [State.periodTurn_eq (hstn ▸ hsafe)]
  split
  · exact (State.periodSent_stn_ne _ _ hne.symm).trans hn.2.1
  · exact hn.2.1

theorem State.periodDue.turn_stays {s t : State} {i n : Nat} (h : s.periodDue t i) (hn : s.periodGone t n) :
    s.periodGone (t.periodTurn i) n := by
  refine ⟨h.turn_keeps, fun ha => ?_⟩
  obtain ⟨q, hq⟩ := hn.2 ha
  obtain ⟨_, hstn, hsafe⟩ := h
  rw [State.periodTurn_eq (hstn ▸ hsafe)]
  refine ⟨q, ?_⟩
  split
  · rw [State.periodSent_out]
    exact List.mem_cons_of_mem _ hq
  · exact hq

theorem State.periodTurns_gone {s : State} (hsafe : ∀ n ∈ upTo 128, (s.stn n).safeNow ≠ 1) :
    ∀ n ∈ upTo 128, s.periodGone ((upTo 128).foldl State.periodTurn s) n :=
  foldl_each (ready := s.periodDue) (done := s.periodGone) (fun _ _ h => h.turn_gone) (fun _ _ _ h hne => h.turn_due hne)
    (fun _ _ _ h _ => h.turn_stays) (upTo_nodup 128) fun n hn => ⟨Keeps.refl _ _, rfl, hsafe n hn⟩

theorem gives_periodPresent (s : State) (hs : s.schedules = true) (hsafe : ∀ n ∈ upTo 128, (s.stn n).safeNow ≠ 1) :
    s.gives .periodPresent fun t => t.lin % 5000 = 4300 ∧ ∀ n ∈ upTo 128, s.active n = true →
      ∃ q, .link n 0x01 q 0 (periodBlocks (s.advancePhase 4300)
        (s.loop.safeDone || decide (0 < (s.stn n).safeNow) || (s.stn n).lost) (decide (0 < (s.stn n).safeClear))) ∈ t.out := by
  obtain ⟨u, hu⟩ : ∃ u, (s.advancePhase 4300).awaitBatches = u := ⟨_, rfl⟩
  have hk : Keeps State.awaitBatches_mask (s.advancePhase 4300) u := hu ▸ State.awaitBatches_keeps _
  have hmode : u.mode = s.mode := (hk.rd _ _ (by decide +kernel)).trans (State.advancePhase_rd ..)
  have hloop : u.loop = s.loop := (hk.part .loop (by decide +kernel)).trans ((s.advancePhase_keeps _).part .loop (by decide +kernel))
  have hstn : ∀ n, (u.stn n).safeNow = (s.stn n).safeNow ∧ (s.active n = true → u.active n = true ∧ u.stn n = s.stn n) := by
    intro n
    have h := (s.advancePhase 4300).awaitBatches_stn n
    rwa [hu, State.advancePhase_stn, State.advancePhase_active] at h
  have hsched : u.schedules = true := by simpa only [State.schedules, hmode] using hs
  have hexec : exec .periodPresent s = .next ((upTo 128).foldl State.periodTurn u) := by
    rw [exec, execPeriodPresent, hu]
    simp only [hsched, Bool.not_true, Bool.false_eq_true, if_false]
    rfl
  have hgone := State.periodTurns_gone (s := u) fun n hn => (hstn n).1 ▸ hsafe n hn
  refine State.gives_of_exec hexec ⟨?_, fun n hn ha => ?_⟩
  · have hlin := (hgone 0 (by decide)).1.part .tb (by decide +kernel)
    rw [State.lin_congr hlin, State.lin_congr (hk.part .tb (by decide +kernel))]
    exact s.advancePhase_lin_mod (by decide)
  · obtain ⟨hact, hstn⟩ := (hstn n).2 ha
    obtain ⟨q, hq⟩ := (hgone n hn).2 hact
    rw [hk.periodBlocks, hloop, hstn] at hq
    exact ⟨q, hq⟩

/-! ### ACTUATE (R112, R118) -/

/-- The state after messages on links: their records, what is sent, and the output words sent last. -/
def State.actuated (s : State) (stns : List (Nat × Stn)) (out : List Out) (sent : List (Nat × Int)) : State :=
  { s with stns := stns, out := out, loop := { s.loop with sent := sent } }

/-- The output words of a station in period k. -/
def State.outWords (s : State) (k n : Nat) : List (Option Int) :=
  (upTo 24).map fun w => if s.mode = mCinder then s.safeWord k n w else s.actWord k n w

/-- The output words do not depend on what has been sent. -/
theorem State.outWords_actuated (s : State) (stns : List (Nat × Stn)) (out : List Out) (sent : List (Nat × Int)) (k n : Nat) :
    (s.actuated stns out sent).outWords k n = s.outWords k n := rfl

/-- A port before its turn: only other ports' messages have gone out. -/
def State.actuateDue (s t : State) : Prop := ∃ stns out sent, t = s.actuated stns out sent

/-- A port after its turn: its ACTUATE has gone out. -/
def State.actuateGone (s : State) (k : Nat) (t : State) (n : Nat) : Prop :=
  s.actuateDue t ∧ ∃ q, .link n 0x02 q 0 (actBlocks (s.outWords k n)) ∈ t.out

theorem State.actuateOf_out (s : State) (k n : Nat) :
    (s.actuateOf k n).out = .link n 0x02 (s.nextSeq n 0x02 0) 0 (actBlocks (s.outWords k n)) :: s.out := rfl

theorem State.actuateDue.turn_due {s t : State} (h : s.actuateDue t) (k n : Nat) : s.actuateDue (t.actuateOf k n) := by
  obtain ⟨stns, out, sent, rfl⟩ := h
  exact ⟨_, _, _, rfl⟩

theorem State.actuateDue.turn_gone {s t : State} (h : s.actuateDue t) (k n : Nat) : s.actuateGone k (t.actuateOf k n) n := by
  refine ⟨h.turn_due k n, t.nextSeq n 0x02 0, ?_⟩
  obtain ⟨stns, out, sent, rfl⟩ := h
  rw [State.actuateOf_out, State.outWords_actuated]
  exact List.mem_cons_self

theorem State.actuateDue.turn_stays {s t : State} {k i n : Nat} (h : s.actuateDue t) (hn : s.actuateGone k t n) :
    s.actuateGone k (t.actuateOf k i) n := by
  obtain ⟨_, q, hq⟩ := hn
  exact ⟨h.turn_due k i, q, by rw [State.actuateOf_out]; exact List.mem_cons_of_mem _ hq⟩

theorem State.actuates_due (s : State) (k : Nat) (l : List Nat) : s.actuateDue (l.foldl (fun t n => t.actuateOf k n) s) :=
  List.foldlRecOn l _ ⟨_, _, _, rfl⟩ fun _ h n _ => h.turn_due k n

theorem State.actuates_gone (s : State) (k : Nat) {l : List Nat} (hl : l.Nodup) :
    ∀ n ∈ l, s.actuateGone k (l.foldl (fun t n => t.actuateOf k n) s) n :=
  foldl_each (ready := fun t _ => s.actuateDue t) (done := s.actuateGone k) (fun _ n h => h.turn_gone k n)
    (fun _ i _ h _ _ => h.turn_due k i) (fun _ _ _ h _ => h.turn_stays) hl fun _ _ => ⟨_, _, _, rfl⟩

/-- Every active port has its turn; one period in four ends with the duties taken. -/
theorem exec_actuatePresent {s : State} (hs : s.schedules = true) : ∃ t, exec .actuatePresent s = .next t ∧
    t.tb = (((upTo 128).filter (s.advancePhase 2500).active).foldl
      (fun t n => t.actuateOf (s.advancePhase 2500).period n) (s.advancePhase 2500)).tb ∧
    t.out = (((upTo 128).filter (s.advancePhase 2500).active).foldl
      (fun t n => t.actuateOf (s.advancePhase 2500).period n) (s.advancePhase 2500)).out := by
  have hsched : (s.advancePhase 2500).schedules = true := by
    simpa only [State.schedules, State.mode, State.advancePhase_rd] using hs
  rw [exec, execActuatePresent]
  simp only [hsched, Bool.not_true, Bool.false_eq_true, if_false]
  split <;> exact ⟨_, rfl, rfl, rfl⟩

theorem gives_actuatePresent (s : State) (hs : s.schedules = true) :
    s.gives .actuatePresent fun t => t.lin % 5000 = 2500 ∧ ∀ n ∈ upTo 128, s.active n = true →
      ∃ q, .link n 0x02 q 0 (actBlocks ((upTo 24).map fun w =>
        if s.mode = mCinder then (s.advancePhase 2500).safeWord (s.advancePhase 2500).period n w
        else (s.advancePhase 2500).actWord (s.advancePhase 2500).period n w)) ∈ t.out := by
  obtain ⟨t, hexec, htb, hout⟩ := exec_actuatePresent hs
  have hmode : (s.advancePhase 2500).mode = s.mode := State.advancePhase_rd ..
  have hact : (s.advancePhase 2500).active = s.active := funext (s.advancePhase_active 2500)
  have hlin := s.advancePhase_lin_mod (p := 2500) (by decide)
  rw [← hmode]
  generalize s.advancePhase 2500 = u at *
  have hl : ((upTo 128).filter u.active).Nodup := (upTo_nodup 128).filter _
  refine State.gives_of_exec hexec ⟨?_, fun n hn ha => ?_⟩
  · obtain ⟨_, _, _, heq⟩ := u.actuates_due u.period ((upTo 128).filter u.active)
    rw [heq] at htb
    rwa [State.lin_congr htb]
  · obtain ⟨_, q, hq⟩ := u.actuates_gone u.period hl n (List.mem_filter.2 ⟨hn, hact ▸ ha⟩)
    exact ⟨q, by rw [hout]; exact hq⟩

/-! ### SENSOR (R122 to R125) -/

/-- A word of a SENSOR message. -/
def sensorWord (m : LinkMsg) (w : Nat) : Nat := bitsOf (m.blocks.getD (w / 2) 0) (32 * (w % 2)) 32

/-- The words held after a SENSOR: those that are VALID replace those held before. -/
def sensorVals (m : LinkMsg) (old : List Nat) : List Nat :=
  (upTo 24).map fun w => if w < 23 && !bitOf (sensorWord m w) 24 then old.getD w 0 else sensorWord m w % 2 ^ 24

theorem sensorVals_getD {m : LinkMsg} {old : List Nat} {w : Nat} (hw : w ∈ upTo 23) :
    (sensorVals m old).getD w 0 =
      if bitOf (sensorWord m w) 24 then bitsOf (m.blocks.getD (w / 2) 0) (32 * (w % 2)) 24 else old.getD w 0 := by
  have hlt : w < 23 := List.mem_range.1 hw
  have hlow : sensorWord m w % 2 ^ 24 = bitsOf (m.blocks.getD (w / 2) 0) (32 * (w % 2)) 24 := by
    rw [sensorWord, bitsOf, bitsOf, Nat.mod_mod_of_dvd _ (by decide)]
  have hget : (sensorVals m old).getD w 0 =
      if w < 23 && !bitOf (sensorWord m w) 24 then old.getD w 0 else sensorWord m w % 2 ^ 24 := by
    rw [sensorVals, List.getD_eq_getElem?_getD, List.getElem?_map, upTo, List.getElem?_range (Nat.lt_of_lt_of_le hlt (by decide))]
    rfl
  rw [hget, hlow, decide_eq_true hlt, Bool.true_and]
  cases bitOf (sensorWord m w) 24 <;> rfl

/-- The station keeps what an intact SENSOR brings. -/
def State.sensed (s : State) (n : Nat) (m : LinkMsg) : State :=
  s.putStn n { s.stn n with sensor := sensorVals m (s.stn n).sensor, stale := false, missRun := 0,
                            rxSeq := mput (s.stn n).rxSeq (seqSpace 0x81 0) (msgSeq m) }

/-- What its status word acknowledges and counts. -/
def State.statusTaken (s : State) (n st : Nat) : State :=
  (((s.ackWrdata (2 * n) (bitsOf st 0 8)).ackWrdata (2 * n + 1) (bitsOf st 8 8)).ackSteps n (bitsOf st 16 8)).bump
    Reg.STN_LINK_MISS_FE_MISS n (bitsOf st 26 6)

theorem State.sensed_stn (s : State) (n : Nat) (m : LinkMsg) : (s.sensed n m).stn n =
    { s.stn n with sensor := sensorVals m (s.stn n).sensor, stale := false, missRun := 0,
                   rxSeq := mput (s.stn n).rxSeq (seqSpace 0x81 0) (msgSeq m) } := State.putStn_stn ..

/-- A STEP acknowledged late is reported, and its axis loses its place if it was moving faster than it can start. -/
def State.stepLate (t : State) (n : Nat) (u : Unacked) : State :=
  let a := 2 * n + u.tag % 2
  let speed := stepQ / max 1 (bitsOf (u.blocks.headD 0) 0 32)
  let t1 := t.raise 0x0706 [a, speed]
  match (t1.axis a).plan with
  | some p => if p.s < speed then t1.loseRef a 2 else t1
  | none => if t1.rd Reg.MOT_AX_VSTART_VALUE a < speed then t1.loseRef a 2 else t1

theorem State.stepLate_keeps (t : State) (n : Nat) (u : Unacked) : Keeps (State.raise_mask ||| State.loseRef_mask) t (t.stepLate n u) := by
  unfold State.stepLate
  have hraise : ∀ a speed, Keeps (State.raise_mask ||| State.loseRef_mask) t (t.raise 0x0706 [a, speed]) := fun a speed =>
    Keeps.mono (State.raise_keeps ..)
  dsimp only
  split <;> exact Keeps.ite (Keeps.step (State.loseRef_keeps ..) (hraise ..)) (hraise ..)

/-- Acknowledged STEPs leave the list of those sent, and nothing else of the station's record changes. -/
theorem State.ackSteps_stn (s : State) (n ack : Nat) :
    (s.ackSteps n ack).stn n = { s.stn n with stepUnacked := dropAcked ack (s.stn n).stepUnacked } := by
  have hlate : ∀ (l : List Unacked) (t : State), Keeps (State.raise_mask ||| State.loseRef_mask) t
      (l.foldl (fun t u => t.stepLate n u) t) := fun l t => Keeps.foldl (fun t u => t.stepLate_keeps n u) (Keeps.refl _ _)
  exact ((hlate _ (s.putStn n { s.stn n with stepUnacked := dropAcked ack (s.stn n).stepUnacked })).stn n).trans (State.putStn_stn ..)

theorem State.statusTaken_stn (s : State) (n st : Nat) : ∃ left, (s.statusTaken n st).stn n = { s.stn n with stepUnacked := left } := by
  have hw : ∀ (t : State) (h ack : Nat), (t.ackWrdata h ack).stn n = t.stn n := fun t h ack => (t.ackWrdata_keeps h ack).stn n
  refine ⟨dropAcked (bitsOf st 16 8) (s.stn n).stepUnacked, (State.ackSteps_stn ..).trans ?_⟩
  rw [hw, hw]

def State.statusTaken_mask : Nat := State.ackWrdata_mask ||| State.ackSteps_mask ||| fieldBits [Reg.STN_LINK_MISS_FE_MISS]

theorem State.statusTaken_keeps (s : State) (n st : Nat) : Keeps State.statusTaken_mask s (s.statusTaken n st) := by
  unfold State.statusTaken
  exact Keeps.bump (Keeps.step (State.ackSteps_keeps ..) (Keeps.step (State.ackWrdata_keeps ..) (Keeps.mono (State.ackWrdata_keeps ..))))

/-- The flag shows the front end's safe state, whatever entering or leaving it does besides. -/
theorem State.setFeSafe_flag (s : State) (n : Nat) (safe : Bool) (cause : Nat) :
    (s.setFeSafe n safe cause).flag Reg.STN_LINK_STATUS_FE_SAFE n = safe := by
  have hshown : (s.wrB Reg.STN_LINK_STATUS_FE_SAFE n safe).flag Reg.STN_LINK_STATUS_FE_SAFE n = safe := by
    cases safe
    · exact State.flag_clr ..
    · exact State.flag_set1 _ _ (by decide)
  rw [State.setFeSafe]
  split
  · refine ((State.stationOff_keeps ..).flag _ _ (by decide +kernel)).trans (((State.raise_keeps ..).flag _ _ (by decide +kernel)).trans ?_)
    exact (State.flag_wr_ne _ _ _ _ _ _ (by decide)).trans hshown
  · split
    · exact ((State.stationOn_keeps ..).flag _ _ (by decide +kernel)).trans hshown
    · exact hshown

/-- What the sequencers make of the sensors, at the end of the current loop's period in k % 4 = 0. -/
def State.watched (s : State) (n k : Nat) (fe0 fe1 : Int) : State :=
  let s4 := (((s.watchHead (2 * n) k fe0).watchHead (2 * n + 1) k fe1).opcMonitor (2 * n)).opcMonitor (2 * n + 1)
  if k % 4 = 0 then (s4.keepBemf n).pulseBrake n else s4

def State.watched_mask : Nat := State.watchHead_mask ||| State.opcMonitor_mask ||| State.keepBemf_mask ||| State.pulseBrake_mask

theorem State.watched_keeps (s : State) (n k : Nat) (fe0 fe1 : Int) : Keeps State.watched_mask s (s.watched n k fe0 fe1) := by
  unfold State.watched
  have hheads : Keeps State.watched_mask s
      ((((s.watchHead (2 * n) k fe0).watchHead (2 * n + 1) k fe1).opcMonitor (2 * n)).opcMonitor (2 * n + 1)) :=
    Keeps.step (State.opcMonitor_keeps ..) (Keeps.step (State.opcMonitor_keeps ..) (Keeps.step (State.watchHead_keeps ..)
      (Keeps.mono (State.watchHead_keeps ..))))
  exact Keeps.ite (Keeps.step (State.pulseBrake_keeps ..) (Keeps.step (State.keepBemf_keeps ..) hheads)) hheads

theorem exec_sensorDelivered {s : State} {n : Fin 128} {m : LinkMsg} (hok : msgOk 0x81 m = true) (ha : s.active n = true)
    (c : BitVec 4) : ∃ k fe0 fe1, exec (.sensorDelivered n m c) s =
      .next (((((s.advancePhase 1100).sensed n m).statusTaken n (sensorWord m 23)).setFeSafe n (bitOf (sensorWord m 23) 24) c.toNat).watched
        n k fe0 fe1) := by
  refine ⟨(s.advancePhase 1100).period, (s.advancePhase 1100).sensor n 0, (s.advancePhase 1100).sensor n 8, ?_⟩
  rw [exec, execSensorDelivered, ha, hok]
  rfl

theorem gives_sensorDelivered (s : State) (n : Fin 128) (m : LinkMsg) (c : BitVec 4) (hok : msgOk 0x81 m = true)
    (ha : s.active n = true) :
    s.gives (.sensorDelivered n m c) fun t => (t.stn n).stale = false ∧
      t.flag Reg.STN_LINK_STATUS_FE_SAFE n = bitOf (m.blocks.getD 11 0) 56 ∧ (t.stn n).missRun = 0 ∧
      t.now = (s.advancePhase 1100).now ∧ ∀ w ∈ upTo 23, (t.stn n).sensor.getD w 0 =
        if bitOf (bitsOf (m.blocks.getD (w / 2) 0) (32 * (w % 2)) 32) 24 then bitsOf (m.blocks.getD (w / 2) 0) (32 * (w % 2)) 24
        else (s.stn n).sensor.getD w 0 := by
  obtain ⟨k, fe0, fe1, hexec⟩ := exec_sensorDelivered hok ha c
  have hstn0 := s.advancePhase_stn 1100 n
  generalize s.advancePhase 1100 = u at hexec hstn0 ⊢
  let u1 := u.sensed n m
  let u2 := u1.statusTaken n (sensorWord m 23)
  let u3 := u2.setFeSafe n (bitOf (sensorWord m 23) 24) c.toNat
  have hwatch : Keeps State.watched_mask u3 (u3.watched n k fe0 fe1) := State.watched_keeps ..
  obtain ⟨left, hleft⟩ := u1.statusTaken_stn n (sensorWord m 23)
  have hstn : (u3.watched n k fe0 fe1).stn n = { u1.stn n with stepUnacked := left } :=
    (hwatch.stn n).trans (((State.setFeSafe_keeps ..).stn n).trans hleft)
  rw [show u1.stn n = _ from u.sensed_stn n m, hstn0] at hstn
  refine State.gives_of_exec hexec ⟨congrArg Stn.stale hstn, ?_, congrArg Stn.missRun hstn, ?_, fun w hw => ?_⟩
  · have hbit : bitOf (sensorWord m 23) 24 = bitOf (m.blocks.getD 11 0) 56 := by
      rw [bitOf_eq_testBit, bitOf_eq_testBit, sensorWord, testBit_bitsOf]
      rfl
    exact (hwatch.flag _ _ (by decide +kernel)).trans ((State.setFeSafe_flag ..).trans hbit)
  · exact hwatch.now.trans ((State.setFeSafe_keeps ..).now.trans (State.statusTaken_keeps ..).now)
  · exact (congrArg (fun x : Stn => x.sensor.getD w 0) hstn).trans (sensorVals_getD hw)

/-- A SENSOR missed leaves what is held, marks it stale and counts. -/
theorem gives_sensorMiss (s : State) (n : Fin 128) (ha : s.active n = true) :
    s.gives (.sensorMiss n) fun t => (t.stn n).stale = true ∧ (t.stn n).missRun = (s.stn n).missRun + 1 ∧
      (t.stn n).sensor = (s.stn n).sensor ∧ t.rd Reg.STN_LINK_MISS_SENSOR_MISS n =
        min (2 ^ Reg.STN_LINK_MISS_SENSOR_MISS.w - 1) (s.rd Reg.STN_LINK_MISS_SENSOR_MISS n + 1) := by
  let u := s.advancePhase 1100
  let u1 := u.putStn n { u.stn n with stale := true, missRun := (u.stn n).missRun + 1 }
  have hexec : exec (.sensorMiss n) s = .next ((u1.bump Reg.STN_LINK_MISS_SENSOR_MISS n 1).raiseWin 0x0306 n [n] true) := by
    rw [exec, execSensorMiss, ha]
    rfl
  have hwin := (u1.bump Reg.STN_LINK_MISS_SENSOR_MISS n 1).raiseWin_keeps 0x0306 n [n] true
  have hstn := (hwin.stn n).trans (u.putStn_stn n { u.stn n with stale := true, missRun := (u.stn n).missRun + 1 })
  rw [s.advancePhase_stn] at hstn
  refine State.gives_of_exec hexec ⟨congrArg Stn.stale hstn, congrArg Stn.missRun hstn, by rw [hstn], ?_⟩
  have hcount : u1.rd Reg.STN_LINK_MISS_SENSOR_MISS n = s.rd Reg.STN_LINK_MISS_SENSOR_MISS n := s.advancePhase_rd 1100 _ _
  rw [hwin.rd _ _ (by decide +kernel), State.bump, State.rd_wr_same, hcount]
  exact Nat.mod_eq_of_lt (Nat.lt_of_le_of_lt (Nat.min_le_left _ _) (by decide))

/-- Settles O22, one command after the other. -/
theorem scheduledMessages : Obligations.ScheduledMessages :=
  ⟨gives_periodPresent, gives_actuatePresent, gives_sensorDelivered, gives_sensorMiss⟩

end Sys2Proof.Machine
end

section
/-!
PROOF. Samples and frames (O24): a head's place, a slice's write store, WRDATA and WRACK. The slots that are verified and the zones
that are searched follow.
-/

set_option Elab.async false

namespace Sys2Proof.Machine

/-! ### Slices -/

theorem State.slice_congr {s t : State} (h : t.slices = s.slices) (k : Nat) : t.slice k = s.slice k := by
  rw [State.slice, State.slice, h]

theorem Keeps.slice {m : Nat} {s t : State} (h : Keeps m s t) (k : Nat) (hm : m.testBit (Part.bit .slices) = false := by decide +kernel) :
    t.slice k = s.slice k := State.slice_congr (h.part .slices hm) k

/-- What `g` reads of each part that `get` gives, of each slice or of each zone, is the same in two states. -/
structure EachKeeps {β α : Type} (get : State → Nat → β) (g : β → α) (s t : State) : Prop where
  same : ∀ k, g (get t k) = g (get s k)

abbrev SliceKeeps {α : Type} (g : Slice → α) (s t : State) : Prop := EachKeeps State.slice g s t

abbrev ZoneKeeps {α : Type} (g : Zone → α) (s t : State) : Prop := EachKeeps State.zone g s t

namespace EachKeeps

variable {β α : Type} {get : State → Nat → β} {g : β → α} {s t u : State}

theorem refl (s : State) : EachKeeps get g s s := ⟨fun _ => rfl⟩

theorem trans (h : EachKeeps get g s t) (h' : EachKeeps get g t u) : EachKeeps get g s u :=
  ⟨fun k => (h'.same k).trans (h.same k)⟩

theorem ite {c : Prop} [Decidable c] (ht : EachKeeps get g s t) (hu : EachKeeps get g s u) : EachKeeps get g s (if c then t else u) := by
  split <;> assumption

theorem foldl {γ : Type} {f : State → γ → State} {l : List γ} (hf : ∀ t a, EachKeeps get g t (f t a)) (h : EachKeeps get g s t) :
    EachKeeps get g s (l.foldl f t) := by
  induction l generalizing t with
  | nil => exact h
  | cons a r ih => exact ih (h.trans (hf t a))

end EachKeeps

namespace EachKeeps

variable {α : Type} {g : Slice → α} {s t u : State}

/-- The state changed in a part that is not the slices. -/
theorem ofSlices (h : t.slices = s.slices) : SliceKeeps g s t := ⟨fun k => congrArg g (State.slice_congr h k)⟩

/-- An operation that leaves the slices, after those before it. -/
theorem slices {m : Nat} (h : SliceKeeps g s t) (hk : Keeps m t u) (hm : m.testBit (Part.bit .slices) = false := by decide +kernel) :
    SliceKeeps g s u := h.trans (.ofSlices (hk.part .slices hm))

/-- A slice replaced by one of which `g` reads the same, after other operations. -/
theorem putSlice {sl : Nat} {x : Slice} (h : SliceKeeps g s t) (hx : g x = g (t.slice sl)) : SliceKeeps g s (t.putSlice sl x) := by
  refine h.trans ⟨fun k => ?_⟩
  by_cases hk : sl = k
  · subst hk
    exact (congrArg g (State.putSlice_slice ..)).trans hx
  · exact congrArg g (mget_mput_ne _ _ _ _ _ hk)

end EachKeeps

/-! ### A slice shows its counts (R240) -/

def State.showSliceCounts_mask : Nat := partBits [.slices] ||| fieldBits [Reg.SLC_STATUS_ENC_READY, Reg.SLC_STATUS_VFY_PENDING,
  Reg.SLC_RATE_STATUS_BACKLOG, Reg.SLC_STATUS_STATE, Reg.SLC_RATE_STATUS_HOLDING]

/-- A slice that is busy, or that RELEASE does not ask for, shows its counts and whether it is idle, and stays assigned. -/
theorem State.showSlice_spec {s : State} {sl : Nat} (h : s.sliceBusy sl = true ∨ s.flag Reg.SLC_CTRL_RELEASE sl = false) :
    Keeps State.showSliceCounts_mask s (s.showSlice sl) ∧
      ∃ busy idle, (s.showSlice sl).slice sl = { s.slice sl with busy := busy, idleFrom := idle } := by
  have hcounts : ∀ a b c x, Keeps State.showSliceCounts_mask s
      ((((s.wr Reg.SLC_STATUS_ENC_READY sl a).wr Reg.SLC_STATUS_VFY_PENDING sl b).wr Reg.SLC_RATE_STATUS_BACKLOG sl c).putSlice sl x) :=
    fun a b c x => Keeps.step (State.putSlice_keeps ..) (Keeps.wr (Keeps.wr (Keeps.wr (Keeps.refl _ _))))
  unfold State.showSlice
  dsimp only
  split
  · exact ⟨hcounts _ _ _ _, _, _, State.putSlice_slice ..⟩
  · next hidle =>
    rw [if_neg (by simpa using h.resolve_left hidle)]
    exact ⟨Keeps.clr (Keeps.wr (hcounts _ _ _ _)), _, _, State.putSlice_slice ..⟩

/-- A head with encoded frames waiting keeps its slice busy. -/
theorem State.sliceBusy_of_wstore {s : State} {sl h : Nat} (hh : (s.slice sl).head = some h) (hw : (s.slice sl).wstore ≠ []) :
    s.sliceBusy sl = true := by
  rw [State.sliceBusy]
  simp [hh, hw]

/-! ### SAMPLES: the head's place (R127) -/

/-- Where a SAMPLES message says the trail spot is, by the place counted so far. -/
def heardAt (counted : Nat) (m : LinkMsg) : Nat :=
  slotPos (bitsOf (m.blocks.getD 1 0) 21 20) (bandOf counted (bitsOf (m.blocks.getD 1 0) 21 20)) + bitsOf (m.blocks.getD 1 0) 0 21

/-- SAMPLES messages missing before this one. -/
def State.sampleGap (s : State) (n : Nat) (m : LinkMsg) : Nat :=
  match mfind (s.stn n).rxSeq (seqSpace 0x82 (msgTag m % 2)) with
  | some q => (msgSeq m + 256 - (q + 1) % 256) % 256
  | none => 0

/-- The head's place follows the trail spot. -/
def State.headHeard (s : State) (n : Nat) (m : LinkMsg) : State :=
  let side := msgTag m % 2
  let h := 2 * n + side
  let s1 := s.putStn n { s.stn n with rxSeq := mput (s.stn n).rxSeq (seqSpace 0x82 side) (msgSeq m) }
  let lw := m.blocks.getD 0 0
  let tw := m.blocks.getD 1 0
  let hd := s1.head h
  let counted := s1.posNow h
  let heard := heardAt counted m
  let far := bitOf tw 42 && bitOf tw 41 && (s1.gate n (headWord h 1)).isNone
    && (counted / slotBits + 1 < heard / slotBits || heard / slotBits + 1 < counted / slotBits)
  let s2 := s1.putHead h { hd with pos := if bitOf tw 41 then heard else hd.pos, posAt := if bitOf tw 41 then s.now else hd.posAt,
                                   watch := { hd.watch with addrBad := far, clkBad := !bitOf lw 41 || !bitOf tw 41 } }
  if bitOf tw 41 then (s2.wr Reg.STN_HD_POS_SLOT h (bitsOf tw 21 20)).wrB Reg.STN_HD_POS_LEADIN h (bandOf counted (bitsOf tw 21 20)) else s2

def State.headHeard_mask : Nat := State.putStn_mask ||| State.putHead_mask ||| fieldBits [Reg.STN_HD_POS_SLOT, Reg.STN_HD_POS_LEADIN]

theorem State.headHeard_keeps (s : State) (n : Nat) (m : LinkMsg) : Keeps State.headHeard_mask s (s.headHeard n m) := by
  unfold State.headHeard
  have hput : ∀ x y, Keeps State.headHeard_mask s ((s.putStn n x).putHead (2 * n + msgTag m % 2) y) := fun x y =>
    Keeps.step (State.putHead_keeps ..) (Keeps.mono (State.putStn_keeps ..))
  exact Keeps.ite (Keeps.wrB (Keeps.wr (hput _ _))) (hput _ _)

/-- With a valid trail clock the head is where the message says, and shows its slot. -/
theorem State.headHeard_spec {s : State} {n : Nat} {m : LinkMsg} (hvalid : bitOf (m.blocks.getD 1 0) 41 = true) :
    ((s.headHeard n m).head (2 * n + msgTag m % 2)).pos = heardAt (s.posNow (2 * n + msgTag m % 2)) m ∧
      ((s.headHeard n m).head (2 * n + msgTag m % 2)).posAt = s.now ∧
      (s.headHeard n m).rd Reg.STN_HD_POS_SLOT (2 * n + msgTag m % 2) = bitsOf (m.blocks.getD 1 0) 21 20 := by
  have hslot : bitsOf (m.blocks.getD 1 0) 21 20 % 2 ^ 20 = bitsOf (m.blocks.getD 1 0) 21 20 := bitsOf_mod ..
  rw [State.headHeard]
  simp only [hvalid, if_true]
  refine ⟨?_, ?_, ?_⟩
  · exact (congrArg Head.pos (State.putHead_head ..)).trans rfl
  · exact (congrArg Head.posAt (State.putHead_head ..)).trans rfl
  · exact (State.rd_wrB_ne _ _ _ _ _ _ (by decide)).trans ((State.rd_wr_same ..).trans hslot)

/-! ### SAMPLES: the lead spot of a slice (R246) -/

/-- Where the lead spot of a slice is, and what was lost on it. -/
def Slice.leadPlace (x : Slice) : Option Nat × Nat × Nat := (x.lastLead, x.leadAt, x.lostLead)

/-- An operation does not move the lead spot of any slice. -/
abbrev LeadKeeps (s t : State) : Prop := SliceKeeps Slice.leadPlace s t

theorem State.correctAll_lead (s : State) (sl : Nat) (ps : List (Int × Int)) : LeadKeeps s (s.correctAll sl ps).2 :=
  (EachKeeps.refl s).slices (State.correctAll_keeps ..)

theorem State.formOut_lead (s : State) (sl n : Nat) : LeadKeeps s (s.formOut sl n) := by
  have hform : ∀ (l : List Nat) (f : List (Int × Int) × State → Nat → List (Int × Int) × State),
      (∀ a i, KeepsSnd State.eqPair_mask a.2 (f a i)) → Keeps State.eqPair_mask s (l.foldl f ([], s)).2 :=
    fun l f hf => KeepsSnd.foldl (p := ([], s)) hf (Keeps.refl _ _)
  unfold State.formOut
  exact ((EachKeeps.refl s).slices (hform _ _ fun a i => State.eqPair_keeps ..)).putSlice rfl

theorem State.claim_lead (s : State) (sl h slot : Nat) : LeadKeeps s (s.claim sl h slot).2 := by
  have hput : ∀ y : Slice, y.leadPlace = (s.slice sl).leadPlace → LeadKeeps s (s.putSlice sl y) := fun y hy =>
    (EachKeeps.refl s).putSlice hy
  unfold State.claim
  dsimp only
  split
  · exact .refl s
  · split
    · exact .refl s
    · split
      · exact .refl s
      · split
        · refine EachKeeps.slices ?_ (State.actFor_keeps ..)
          exact hput _ rfl
        · exact hput _ rfl

/-- What a row teaches the flywheel and the equaliser is in registers. -/
theorem State.rowLearnt_lead {s t : State} (h : LeadKeeps s t) (sl rho : Nat) (trail : Bool) (o : RowOut) :
    LeadKeeps s ((t.flywheel sl o).adaptRow sl trail rho o) := (h.slices (State.flywheel_keeps ..)).slices (State.adaptRow_keeps ..)

theorem State.backRow_lead (s : State) (sl rho : Nat) : LeadKeeps s (s.backRow sl rho) := by
  unfold State.backRow
  exact .ite (.refl s) (State.rowLearnt_lead ((EachKeeps.refl s).putSlice (by rfl)) _ _ _ _)

theorem State.storeRow_lead (s : State) (sl h : Nat) (trail : Bool) (rho : Nat) : LeadKeeps s (s.storeRow sl h trail rho) := by
  have hclaim := s.claim_lead sl h (rho / 151 - 2048)
  unfold State.storeRow
  split
  · exact .refl s
  · split
    · next heq => rwa [heq] at hclaim
    · next heq =>
      rw [heq] at hclaim
      extract_lets o e1
      clear_value o e1
      refine State.rowLearnt_lead ?_ ..
      exact hclaim.putSlice rfl

theorem State.freshRow_lead (s : State) (sl rho : Nat) (l : Ladder) (e : Soft) : LeadKeeps s (s.freshRow sl rho l e) := by
  unfold State.freshRow
  extract_lets r o e0 e1 ends l1 s1 s2
  have h2 : LeadKeeps s s2 := State.rowLearnt_lead (.ofSlices (by rfl)) ..
  clear_value s2
  exact .ite (.refl s) (.ite (h2.slices (State.askStep_keeps ..)) h2)

theorem State.takeRow_lead (s : State) (sl h : Nat) (trail : Bool) (rho : Nat) : LeadKeeps s (s.takeRow sl h trail rho) := by
  unfold State.takeRow
  split
  · exact .ite ((EachKeeps.refl s).slices (State.opcRow_keeps ..)) (.refl s)
  · split
    · exact .ite (s.backRow_lead sl rho) (.refl s)
    · split
      · split
        · exact s.freshRow_lead ..
        · exact .refl s
      · exact s.storeRow_lead ..

theorem State.runRows_lead (k : Nat) (s : State) (sl h : Nat) (trail all : Bool) : LeadKeeps s (State.runRows k s sl h trail all) := by
  induction k generalizing s with
  | zero => exact .refl s
  | succ k ih =>
    unfold State.runRows
    dsimp only
    split
    · exact .refl s
    · exact .ite (.refl s) (EachKeeps.trans ((s.takeRow_lead ..).putSlice (by rfl)) (ih _))

theorem State.workRows_lead (s : State) (sl h : Nat) (all : Bool) : LeadKeeps s (s.workRows sl h all) := by
  unfold State.workRows
  exact ((State.runRows_lead ..).trans (State.runRows_lead ..)).putSlice (by rfl)

theorem State.endRun_lead (s : State) (sl h : Nat) : LeadKeeps s (s.endRun sl h) := by
  unfold State.endRun
  exact ((s.formOut_lead ..).trans (State.workRows_lead ..)).putSlice (by rfl)

theorem State.movePass_lead (s : State) (sl h trail n : Nat) : LeadKeeps s (s.movePass sl h trail n) := by
  have hput : ∀ y : Slice, y.leadPlace = (s.slice sl).leadPlace → LeadKeeps s (s.putSlice sl y) := fun y hy =>
    (EachKeeps.refl s).putSlice hy
  unfold State.movePass
  dsimp only
  split
  · split
    · exact .refl s
    · split
      · exact hput _ rfl
      · exact .refl s
  · exact .ite (hput _ rfl) (.refl s)
  · refine .ite (hput _ rfl) (.ite (.refl s) (.ite (hput _ rfl) (.ite (.refl s) ?_)))
    exact EachKeeps.slices (hput { s.slice sl with pass := .landing } rfl) (State.askStep_keeps ..)

theorem State.takePairs_lead (s : State) (sl h : Nat) (lead trail : Option Nat) (lost : Nat) (ps : List (Int × Int)) :
    LeadKeeps s (s.takePairs sl h lead trail lost ps) := by
  have hall := s.correctAll_lead sl ps
  unfold State.takePairs
  generalize s.correctAll sl ps = p at hall ⊢
  obtain ⟨ys, s1⟩ := p
  dsimp -zeta only at hall ⊢
  extract_lets ok ql qt xs x u z s2 s3 s4
  have h2 : LeadKeeps s s2 := by
    unfold s2
    split
    · exact hall.putSlice rfl
    · exact (hall.trans (State.endRun_lead ..)).putSlice rfl
  have h4 : LeadKeeps s s4 := by
    unfold s4
    split
    · exact (h2.trans (State.formOut_lead ..)).trans (State.movePass_lead ..)
    · exact h2.trans (State.formOut_lead ..)
  exact h4.trans (State.workRows_lead ..)

theorem State.eraseSpan_lead (s : State) (sl h lo hi : Nat) : LeadKeeps s (s.eraseSpan sl h lo hi) := by
  unfold State.eraseSpan
  refine EachKeeps.foldl (fun t i => ?_) (.refl s)
  have hclaim := t.claim_lead sl h ((lo / 7744 + i) / 151 - 2048)
  dsimp only
  split
  · exact .refl t
  · split
    · next heq => rwa [heq] at hclaim
    · next heq =>
      rw [heq] at hclaim
      exact hclaim.putSlice rfl

theorem State.measureLag_lead (s : State) (sl h lead trail : Nat) : LeadKeeps s (s.measureLag sl h lead trail) := by
  unfold State.measureLag
  extract_lets d b x s1
  have h1 : LeadKeeps s s1 := (EachKeeps.refl s).putSlice (by rfl)
  refine .ite (EachKeeps.slices ?_ (State.raise_keeps ..)) h1
  exact h1.trans (.ofSlices rfl)

/-- What a slice makes of the samples once its spots are placed. -/
def State.samplesWorked (s5 : State) (sl h : Nat) (lead trail : Option Nat) (lost : Nat) (ps : List (Int × Int)) : Res :=
  let s6 := match lead, trail with | some a, some b => s5.measureLag sl h a b | _, _ => s5
  let s7 := match lead with | some a => s6.opcWrite h a | none => s6
  let blank := s7.blankNow h
  let s8 := s7.wrB Reg.SLC_STATUS_BLANK sl blank
  if blank then
    let t := (s8.slice sl).trace
    if t.xs.isEmpty then .next s8
    else
      let u := match (s8.slice sl).pass, t.lead with
        | .landing, some a => s8.eraseSpan sl h (a + t.xs.length) (a + t.xs.length + s8.bitsIn h 5000)
        | _, _ => s8
      .next (u.endRun sl h)
  else
    let s9 := s8.takePairs sl h lead trail lost ps
    .next (if (s9.slice sl).pass.on && !s9.flag Reg.SLC_RATE_STATUS_PAUSED sl then s9.setSl sl slReading else s9)

theorem State.samplesWorked_lead (s5 : State) (sl h : Nat) (lead trail : Option Nat) (lost : Nat) (ps : List (Int × Int)) :
    ∃ t, s5.samplesWorked sl h lead trail lost ps = .next t ∧ LeadKeeps s5 t := by
  unfold State.samplesWorked
  extract_lets s6 s7 blank s8 t u s9
  have h6 : LeadKeeps s5 s6 := by
    unfold s6
    split
    · exact State.measureLag_lead ..
    · exact .refl s5
  have h7 : LeadKeeps s5 s7 := by
    unfold s7
    split
    · exact h6.slices (State.opcWrite_keeps ..)
    · exact h6
  have h8 : LeadKeeps s5 s8 := h7.trans (.ofSlices rfl)
  have hu : LeadKeeps s5 u := by
    unfold u
    split
    · exact h8.trans (State.eraseSpan_lead ..)
    · exact h8
  have h9 : LeadKeeps s5 s9 := h8.trans (State.takePairs_lead ..)
  clear_value s8 u s9
  split
  · split
    · exact ⟨_, rfl, h8⟩
    · exact ⟨_, rfl, hu.trans (State.endRun_lead ..)⟩
  · exact ⟨_, rfl, .ite (h9.slices (State.setSl_keeps ..)) h9⟩

/-- The spots of a slice are placed by a message, or counted on past what was lost. -/
def State.spotsPlaced (s3 : State) (now sl gap lw tw n : Nat) (lead trail : Option Nat) : State :=
  let x := s3.slice sl
  let bad := (if lead.isNone || trail.isNone then 1 else 0)
  let s4 := ((s3.samplesLost sl (gap + bad)).wrB Reg.SLC_STATUS_LEAD_CLK sl (bitOf lw 41)).wrB Reg.SLC_STATUS_TRAIL_CLK sl (bitOf tw 41)
  let y := s4.slice sl
  s4.putSlice sl { y with
    lastLead := match lead with | some a => some (a + n) | none => x.lastLead,
    lastTrail := match trail with | some a => some (a + n) | none => x.lastTrail,
    leadAt := if lead.isSome then now else x.leadAt,
    lostLead := if lead.isSome then 0 else x.lostLead + gap + 1,
    lostTrail := if trail.isSome then 0 else x.lostTrail + gap + 1,
    ahead := match lead with | some a => takeAhead (a + n) x.ahead | none => x.ahead,
    edge := touchesSlot lead n || touchesSlot trail n }

theorem State.spotsPlaced_lead (s3 : State) (now sl gap lw tw n a : Nat) (trail : Option Nat) :
    ((s3.spotsPlaced now sl gap lw tw n (some a) trail).slice sl).leadPlace = (some (a + n), now, 0) :=
  congrArg Slice.leadPlace (State.putSlice_slice ..)

/-- What a slice does with a SAMPLES message once the head's place is known. -/
def State.sliceSamples (s3 : State) (now sl h gap : Nat) (inLead : Bool) (m : LinkMsg) : Res :=
  let x := s3.slice sl
  let lw := m.blocks.getD 0 0
  let tw := m.blocks.getD 1 0
  let ps := samplePairs (m.blocks.drop 2)
  let lead := spotPos inLead lw x.lastLead (x.lostLead + gap)
  let trail := spotPos inLead tw x.lastTrail (x.lostTrail + gap)
  (s3.spotsPlaced now sl gap lw tw ps.length lead trail).samplesWorked sl h lead trail (max x.lostLead x.lostTrail + gap) ps

theorem spotPos_of_valid {inLead : Bool} {w : Nat} (hclk : bitOf w 41 = true) (haddr : bitOf w 42 = true) (last : Option Nat)
    (lost : Nat) : spotPos inLead w last lost = some (slotPos (bitsOf w 21 20) inLead + bitsOf w 0 21) := by
  simp [spotPos, hclk, haddr]

/-- A lead spot whose address the message gives is behind the pairs that the message carries, as of now. -/
theorem State.sliceSamples_lead (s3 : State) (now sl h gap : Nat) (inLead : Bool) (m : LinkMsg)
    (hclk : bitOf (m.blocks.getD 0 0) 41 = true) (haddr : bitOf (m.blocks.getD 0 0) 42 = true) :
    ∃ t, s3.sliceSamples now sl h gap inLead m = .next t ∧ (t.slice sl).leadPlace =
      (some (slotPos (bitsOf (m.blocks.getD 0 0) 21 20) inLead + bitsOf (m.blocks.getD 0 0) 0 21 + (samplePairs (m.blocks.drop 2)).length),
        now, 0) := by
  rw [State.sliceSamples, spotPos_of_valid hclk haddr]
  obtain ⟨t, hnext, hlead⟩ := State.samplesWorked_lead _ sl h _ _ _ _
  exact ⟨t, hnext, (hlead.same sl).trans (State.spotsPlaced_lead ..)⟩

/-- An intact SAMPLES message on an active port moves the head's place, and its samples go to the slice that serves the head. -/
theorem exec_samplesReceive {s : State} {n : Fin 128} {m : LinkMsg} (ha : s.active n = true) (hok : msgOk 0x82 m = true) :
    exec (.samplesReceive n m) s = (s.sliceOf (2 * n.val + msgTag m % 2)).elim (.next (s.headHeard n m)) fun sl =>
      (s.headHeard n m).sliceSamples s.now sl (2 * n.val + msgTag m % 2) (s.sampleGap n m)
        (bandOf (s.posNow (2 * n.val + msgTag m % 2)) (bitsOf (m.blocks.getD 1 0) 21 20)) m := by
  have hsame : (s.headHeard n m).sliceOf (2 * n.val + msgTag m % 2) = s.sliceOf (2 * n.val + msgTag m % 2) := by
    rw [State.sliceOf, (s.headHeard_keeps n m).part .slices (by decide +kernel)]
    rfl
  rw [exec, execSamplesReceive, ha, hok]
  rw [if_neg (show ¬(!true) = true by decide), if_neg (show ¬(!true) = true by decide)]
  extract_lets side h st sp gap s1 lw tw hd counted inLead heard far watch s2 s3
  have hheard : s.headHeard n m = s3 := rfl
  have hgap : s.sampleGap n m = gap := rfl
  have hband : bandOf (s.posNow (2 * n.val + msgTag m % 2)) (bitsOf (m.blocks.getD 1 0) 21 20) = inLead := rfl
  rw [hheard] at hsame ⊢
  rw [hgap, hband]
  clear_value s3 gap inLead
  split
  · next hnone =>
    rw [show s.sliceOf (2 * n.val + msgTag m % 2) = none from hsame.symm.trans hnone]
    rfl
  · next sl hsome =>
    rw [show s.sliceOf (2 * n.val + msgTag m % 2) = some sl from hsame.symm.trans hsome]
    rfl

theorem gives_samplesReceive_noSlice (s : State) (n : Fin 128) (m : LinkMsg) (ha : s.active n = true) (hok : msgOk 0x82 m = true)
    (hsl : s.sliceOf (2 * n.val + msgTag m % 2) = none) (hvalid : bitOf (m.blocks.getD 1 0) 41 = true) :
    s.gives (.samplesReceive n m) fun t => (t.head (2 * n.val + msgTag m % 2)).pos =
        slotPos (bitsOf (m.blocks.getD 1 0) 21 20) (bandOf (s.posNow (2 * n.val + msgTag m % 2)) (bitsOf (m.blocks.getD 1 0) 21 20)) +
          bitsOf (m.blocks.getD 1 0) 0 21 ∧
      (t.head (2 * n.val + msgTag m % 2)).posAt = s.now ∧
      t.rd Reg.STN_HD_POS_SLOT (2 * n.val + msgTag m % 2) = bitsOf (m.blocks.getD 1 0) 21 20 :=
  State.gives_of_exec (by rw [exec_samplesReceive ha hok, hsl]; rfl) (State.headHeard_spec hvalid)

theorem gives_samplesReceive_slice (s : State) (n : Fin 128) (m : LinkMsg) (sl : Nat) (ha : s.active n = true) (hok : msgOk 0x82 m = true)
    (hsl : s.sliceOf (2 * n.val + msgTag m % 2) = some sl) (hclk : bitOf (m.blocks.getD 0 0) 41 = true)
    (haddr : bitOf (m.blocks.getD 0 0) 42 = true) :
    s.gives (.samplesReceive n m) fun t => (t.slice sl).lastLead = some (slotPos (bitsOf (m.blocks.getD 0 0) 21 20)
          (bandOf (s.posNow (2 * n.val + msgTag m % 2)) (bitsOf (m.blocks.getD 1 0) 21 20)) + bitsOf (m.blocks.getD 0 0) 0 21 +
        (samplePairs (m.blocks.drop 2)).length) ∧ (t.slice sl).leadAt = s.now ∧ (t.slice sl).lostLead = 0 := by
  obtain ⟨t, hnext, hlead⟩ := (s.headHeard n m).sliceSamples_lead s.now sl (2 * n.val + msgTag m % 2) (s.sampleGap n m)
    (bandOf (s.posNow (2 * n.val + msgTag m % 2)) (bitsOf (m.blocks.getD 1 0) 21 20)) m hclk haddr
  simp only [Slice.leadPlace, Prod.mk.injEq] at hlead
  refine State.gives_of_exec ?_ hlead
  rw [exec_samplesReceive ha hok, hsl]
  exact hnext

end Sys2Proof.Machine
end

section
/-!
PROOF. Frames of a slice's write store (O24): FRAME_ENCODE, WRDATA and WRACK.
-/

set_option Elab.async false

namespace Sys2Proof.Machine

/-! ### WRDATA (R133, R136) -/

theorem State.startWriting_flag (s : State) (h : Nat) : (s.startWriting h).flag Reg.STN_HD_STATUS_WRITING h = true := by
  rw [State.startWriting]
  split
  · assumption
  · exact ((State.releaseHead_keeps ..).flag _ _ (by decide +kernel)).trans (State.flag_set1 _ _ (by decide))

/-- What a slice does when WRDATA of a frame begun has gone out: its record is `y`, and it shows that it writes. -/
def State.wrdataShown (s : State) (sl : Nat) (y : Slice) : State :=
  (((s.putSlice sl y).setSl sl slWriting).clr Reg.SLC_RATE_STATUS_HOLDING sl).showSlice sl

def State.wrdataShown_mask : Nat := State.showSliceCounts_mask ||| State.putSlice_mask ||| State.setSl_mask |||
  fieldBits [Reg.SLC_RATE_STATUS_HOLDING]

theorem State.wrdataShown_spec {s : State} {sl : Nat} (y : Slice) (h : s.flag Reg.SLC_CTRL_RELEASE sl = false) :
    Keeps State.wrdataShown_mask s (s.wrdataShown sl y) ∧
      ∃ busy idle, (s.wrdataShown sl y).slice sl = { y with busy := busy, idleFrom := idle } := by
  let u := ((s.putSlice sl y).setSl sl slWriting).clr Reg.SLC_RATE_STATUS_HOLDING sl
  have hu : Keeps State.wrdataShown_mask s u :=
    Keeps.clr (Keeps.step (State.setSl_keeps ..) (Keeps.mono (State.putSlice_keeps ..)))
  have hslice : u.slice sl = y := State.putSlice_slice ..
  obtain ⟨hshow, busy, idle, hshown⟩ := State.showSlice_spec (s := u) (sl := sl) (.inr ((hu.flag _ _ (by decide +kernel)).trans h))
  rw [hslice] at hshown
  exact ⟨Keeps.step hshow hu, busy, idle, hshown⟩

/-- The frame in hand after k more of its blocks are sent. -/
def Slice.wrdataSent (x : Slice) (e : Enc) (r : List Enc) (k : Nat) (u : Unacked) : Slice :=
  { x with unacked := x.unacked ++ [u], ahead := x.ahead ++ [(e.start + 64 * e.sent, e.start + 64 * (e.sent + k))],
           wstore := if e.sent + k = e.words.length then r else { e with sent := e.sent + k } :: r,
           written := if (e.sent + k = e.words.length) && !e.doomed then x.written ++ [{ e with sent := e.sent + k }] else x.written }

theorem exec_wrdataSend {s : State} {n : Fin 128} {side : Fin 2} {k sl lead : Nat} {e : Enc} {r : List Enc}
    (hsl : s.sliceOf (headOf n side) = some sl) (hw : (s.slice sl).wstore = e :: r) (hlead : s.leadNow sl (headOf n side) = some lead)
    (hsent : 0 < e.sent) (hk : k ≤ 128) (hk0 : 0 < k) (hke : k ≤ e.words.length - e.sent) (ha : s.active n = true)
    (hhd : s.hd (headOf n side) = hdReady) (hlayer : s.layerOf (headOf n side) = e.layer) (hun : (s.slice sl).unacked.length < 128)
    (hrv : (s.slice sl).reverify = false) (hroom : (s.slice sl).streamed + 64 * k ≤ (bitsOf (s.stn n).feBuf 0 16 - 2) * 8192) :
    ∃ u2 u, Keeps (partBits [.held]) ((s.startWriting (headOf n side)).send n 0x03 side ((e.words.drop e.sent).take k)) u2 ∧
      exec (.wrdataSend n side k) s = .next (u2.wrdataShown sl ((s.slice sl).wrdataSent e r k u)) := by
  have hfirst : (e.sent == 0) = false := by simpa using Nat.pos_iff_ne_zero.1 hsent
  have hcount : min (min k 128) (e.words.length - e.sent) = k := by omega
  rw [exec, execWrdataSend]
  simp only [hsl, hw, hlead, hfirst, hcount, Bool.false_eq_true, if_false]
  rw [if_neg]
  · exact ⟨_, _, Keeps.ite (Keeps.set_held (Keeps.refl _ _)) (Keeps.refl _ _), rfl⟩
  · simp [ha, hhd, hlayer, hrv, hroom]
    omega

theorem gives_wrdataSend (s : State) (n : Fin 128) (side : Fin 2) (k sl lead : Nat) (e : Enc) (r : List Enc)
    (hsl : s.sliceOf (headOf n side) = some sl) (hw : (s.slice sl).wstore = e :: r) (hlead : s.leadNow sl (headOf n side) = some lead)
    (hsent : 0 < e.sent) (hk : k ≤ 128) (hk0 : 0 < k) (hke : k ≤ e.words.length - e.sent) (ha : s.active n = true)
    (hhd : s.hd (headOf n side) = hdReady) (hlayer : s.layerOf (headOf n side) = e.layer) (hun : (s.slice sl).unacked.length < 128)
    (hrv : (s.slice sl).reverify = false) (hroom : (s.slice sl).streamed + 64 * k ≤ (bitsOf (s.stn n).feBuf 0 16 - 2) * 8192)
    (hrel : s.flag Reg.SLC_CTRL_RELEASE sl = false) :
    s.gives (.wrdataSend n side k) fun t =>
      t.out = .link n 0x03 (s.nextSeq n 0x03 side) side ((e.words.drop e.sent).take k) :: s.out ∧
      (t.slice sl).unacked.length = (s.slice sl).unacked.length + 1 ∧ t.flag Reg.STN_HD_STATUS_WRITING (headOf n side) = true ∧
      (k < e.words.length - e.sent → (t.slice sl).wstore = { e with sent := e.sent + k } :: r) := by
  obtain ⟨u2, u, hu2, hexec⟩ := exec_wrdataSend hsl hw hlead hsent hk hk0 hke ha hhd hlayer hun hrv hroom
  let u1 := s.startWriting (headOf n side)
  have hstart : Keeps State.startWriting_mask s u1 := State.startWriting_keeps ..
  have hsend : Keeps State.send_mask u1 (u1.send n 0x03 side ((e.words.drop e.sent).take k)) := State.send_keeps ..
  have hrel2 : u2.flag Reg.SLC_CTRL_RELEASE sl = false :=
    (hu2.flag _ _ (by decide +kernel)).trans ((hsend.flag _ _ (by decide +kernel)).trans ((hstart.flag _ _ (by decide +kernel)).trans hrel))
  obtain ⟨hshow, busy, idle, hslice⟩ := State.wrdataShown_spec ((s.slice sl).wrdataSent e r k u) hrel2
  refine State.gives_of_exec hexec ⟨?_, ?_, ?_, fun hmore => ?_⟩
  · rw [hshow.part .out (by decide +kernel), hu2.part .out (by decide +kernel), State.send_out,
      State.nextSeq_congr (congrArg Stn.txSeq (hstart.stn n)), hstart.part .out (by decide +kernel)]
  · rw [hslice]
    simp [Slice.wrdataSent]
  · exact (hshow.flag _ _ (by decide +kernel)).trans ((hu2.flag _ _ (by decide +kernel)).trans
      ((hsend.flag _ _ (by decide +kernel)).trans (State.startWriting_flag ..)))
  · rw [hslice]
    exact if_neg (by omega)

theorem gives_wrdataRetransmit (s : State) (n : Fin 128) (side : Fin 2) (sl : Nat) (u : Unacked)
    (hsl : s.sliceOf (headOf n side) = some sl) (hun : (s.slice sl).unacked = [u]) (ha : s.active n = true)
    (hold : u.sentAt + ackCycles ≤ s.now) :
    s.gives (.wrdataRetransmit n side) fun t => t.out = .link n 0x03 u.seq u.tag u.blocks :: s.out ∧
      (t.slice sl).unacked = [{ u with sentAt := s.now }] := by
  have hexec : exec (.wrdataRetransmit n side) s = .next ((s.resend n 0x03 u.seq u.tag u.blocks).putSlice sl
      { s.slice sl with unacked := [{ u with sentAt := s.now }] }) := by
    rw [exec, execWrdataRetransmit]
    simp only [hsl, hun, ha]
    rw [if_neg (by simpa using hold)]
    rfl
  exact State.gives_of_exec hexec ⟨rfl, congrArg Slice.unacked (State.putSlice_slice ..)⟩

/-! ### WRACK (R138) -/

/-- What was written by a slice. -/
abbrev WrittenKeeps (s t : State) : Prop := SliceKeeps Slice.written s t

theorem State.stopWriting_written (s : State) (h : Nat) : WrittenKeeps s (s.stopWriting h) := by
  unfold State.stopWriting
  extract_lets s1
  have h1 : WrittenKeeps s s1 := by
    unfold s1
    split
    · exact (EachKeeps.refl s).putSlice rfl
    · exact .refl s
  exact .ite ((h1.slices (State.gateWriting_keeps ..)).slices (State.sendStop_keeps ..)) h1

theorem State.parkHead_written (s : State) (h cause : Nat) : WrittenKeeps s (s.parkHead h cause) := by
  unfold State.parkHead
  extract_lets st pf ms s1 s2 s3 s4 x s5
  have h1 : WrittenKeeps s s1 :=
    (((EachKeeps.refl s).slices (State.abandonOp_keeps ..)).trans (State.stopWriting_written ..)).slices (State.readPowerOff_keeps ..)
  have h4 : WrittenKeeps s s4 := ((((h1.slices (State.gateHead_keeps ..)).slices (State.gateHead_keeps ..)).slices (State.gateHead_keeps ..)).slices
    (State.gateTrack_keeps ..)).slices (State.gateHead_keeps ..)
  have h5 : WrittenKeeps s s5 := (h4.slices (State.putHead_keeps ..)).slices (State.clearLocks_keeps ..)
  exact .ite (.refl s) (h5.slices (State.setHd_keeps ..))

theorem State.parkStopped_written (s : State) (h : Nat) : WrittenKeeps s (s.parkStopped h) := by
  unfold State.parkStopped
  exact .ite (State.parkHead_written ..) (.refl s)

/-- The frame in the slot that a WRACK names is marked with it. -/
def Enc.acked (slot ev : Nat) (e : Enc) : Enc := if e.slot == slot then { e with wrack := some ev } else e

/-- STARTED and COMPLETE mark the frame of their slot, and end the writing where no other frame goes on. -/
theorem exec_wrackReceive {s : State} {n : Fin 128} {m : LinkMsg} {sl : Nat} (ha : s.active n = true) (hok : msgOk 0x85 m = true)
    (hsl : s.sliceOf (2 * n.val + msgTag m % 2) = some sl) (hev : bitsOf (m.blocks.getD 0 0) 0 3 ≤ 1) :
    ∃ (y : Slice) (ends : Bool),
      y.written = (s.slice sl).written.map (Enc.acked (bitsOf (m.blocks.getD 0 0) 4 20) (bitsOf (m.blocks.getD 0 0) 0 3)) ∧
      exec (.wrackReceive n m) s = .next ((if ends then
        ((s.putSlice sl y).endWriting (2 * n.val + msgTag m % 2)).parkStopped (2 * n.val + msgTag m % 2)
        else s.putSlice sl y).showSlice sl) := by
  rw [exec, execWrackReceive, ha, hok]
  rw [if_neg (show ¬(!true) = true by decide), if_neg (show ¬(!true) = true by decide)]
  extract_lets h b ev slot s1 mark cut
  have hle : ev ≤ 1 := hev
  have hs1 : s1 = s := if_neg (show ¬(ev = 3 ∨ ev = 4) by omega)
  rw [hs1]
  split
  · next hnone => exact absurd (hsl.symm.trans hnone) nofun
  · next sl' hsome =>
    obtain rfl : sl = sl' := Option.some.inj (hsl.symm.trans hsome)
    extract_lets x moved y s2 going
    have hcut : ∀ e, cut e = false := fun e => by
      have hstarted : decide (2 ≤ ev) = false := decide_eq_false (by omega)
      simp only [cut, hstarted, Bool.and_false]
    have hmoved : moved = [] := by
      simp only [moved, List.filter_eq_nil_iff.2 fun e _ => ne_true_of_eq_false (hcut e), List.map_nil]
    have hs2 : s2 = s.putSlice sl y := congrArg (fun t : State => t.putSlice sl y) (if_neg (show ¬2 ≤ ev by omega))
    refine ⟨y, decide (1 ≤ ev) && (!going || (s2.head h).pfPark), ?_, by rw [hs2]⟩
    change x.written.map mark ++ moved.filter _ = _
    rw [hmoved, List.filter_nil, List.append_nil]
    rfl

theorem gives_wrackReceive (s : State) (n : Fin 128) (m : LinkMsg) (sl : Nat) (ha : s.active n = true) (hok : msgOk 0x85 m = true)
    (hsl : s.sliceOf (2 * n.val + msgTag m % 2) = some sl) (hev : bitsOf (m.blocks.getD 0 0) 0 3 ≤ 1)
    (hrel : s.flag Reg.SLC_CTRL_RELEASE sl = false) :
    s.gives (.wrackReceive n m) fun t => (t.slice sl).written = (s.slice sl).written.map fun e =>
      if e.slot == bitsOf (m.blocks.getD 0 0) 4 20 then { e with wrack := some (bitsOf (m.blocks.getD 0 0) 0 3) } else e := by
  obtain ⟨y, ends, hy, hexec⟩ := exec_wrackReceive ha hok hsl hev
  let u := s.putSlice sl y
  let v := if ends then (u.endWriting (2 * n.val + msgTag m % 2)).parkStopped (2 * n.val + msgTag m % 2) else u
  have hwritten : WrittenKeeps u v :=
    .ite (((EachKeeps.refl u).slices (State.endWriting_keeps ..)).trans (State.parkStopped_written ..)) (.refl u)
  have hv : Keeps (State.endWriting_mask ||| State.parkStopped_mask) u v :=
    Keeps.ite (Keeps.step (State.parkStopped_keeps ..) (Keeps.mono (State.endWriting_keeps ..))) (Keeps.refl _ _)
  obtain ⟨_, busy, idle, hshown⟩ := State.showSlice_spec (s := v) (sl := sl) (.inr ((hv.flag _ _ (by decide +kernel)).trans hrel))
  refine State.gives_of_exec hexec ((congrArg Slice.written hshown).trans ((hwritten.same sl).trans ?_))
  exact (congrArg Slice.written (State.putSlice_slice ..)).trans hy

/-! ### FRAME_ENCODE (R267) -/

/-- The frame is read for encoding: lines of it that held a correctable error are corrected. -/
def State.frameRead (s : State) (f : Held) : State := (s.ownRead f.addr 65536).correctRange f.addr 65536 srcSlice

def State.frameRead_mask : Nat := State.ownRead_mask ||| State.correctRange_mask

theorem State.frameRead_keeps (s : State) (f : Held) : Keeps State.frameRead_mask s (s.frameRead f) := by
  unfold State.frameRead
  exact Keeps.step (State.correctRange_keeps ..) (Keeps.mono (State.ownRead_keeps ..))

/-- A slice that goes over to another zone shows the pointer of the one it leaves (R802). -/
def State.zoneLeft (s : State) (x : Slice) (f : Held) : State :=
  match x.zoneNow with
  | some zk => if zk != f.zone && (s.zone zk).jdue < (s.zone zk).frames then s.journalZone zk else s
  | none => s

theorem State.zoneLeft_keeps (s : State) (x : Slice) (f : Held) : Keeps State.journalZone_mask s (s.zoneLeft x f) := by
  unfold State.zoneLeft
  split
  · exact Keeps.ite (State.journalZone_keeps ..) (Keeps.refl _ _)
  · exact Keeps.refl _ _

/-- A held frame as a slice encodes it: for the next slot of its zone behind those on their way. -/
def State.encodeHeld (s : State) (x : Slice) (f : Held) : Enc :=
  let z := s.zone f.zone
  let slot := zoneSlot f.zone (z.frontier + (x.flight f.zone).length)
  let w := encodeFrame (zonePfa f.zone slot) (s.disc f.disc).discId s.time f.index (decide (f.index < z.redo))
    (f.index == 8191 || s.lastBeforeClose f) false (s.bytes f.addr 65536)
  { zone := f.zone, index := f.index, slot := slot, words := w, layer := zoneLayer f.zone }

/-- A held frame is no longer buffered but encoded. -/
def State.heldEncoded (s : State) (f : Held) : State :=
  { s with held := s.held.map fun y => if y == f then { y with stage := .encoded } else y }

/-- A frame joins the write store behind the others. -/
def Slice.withEncoded (x : Slice) (e : Enc) : Slice := { x with wstore := x.wstore ++ [e], zoneNow := some e.zone }

theorem exec_frameEncode {s : State} {sl : Fin 96} {h : Nat} {f : Held} (hh : (s.slice sl).head = some h) (hmode : s.slMode sl = 2)
    (hroom : (s.slice sl).wstore.length < 32) (hrv : (s.slice sl).reverify = false) (hopc : (s.head h).needOpc = false)
    (hrung : s.rung7Other h = false) (hmgmt : s.nextMgmt h = none) (hf : s.nextHeld sl h = some f) (hue : s.ueAt f.addr 65536 = none) :
    ∃ (u : State) (e : Enc), Keeps (State.frameRead_mask ||| State.journalZone_mask) s u ∧ e.zone = f.zone ∧ e.index = f.index ∧
      e.slot = zoneSlot f.zone ((s.zone f.zone).frontier + ((s.slice sl).flight f.zone).length) ∧ e.sent = 0 ∧
      exec (.frameEncode sl) s = .next (((u.heldEncoded f).putSlice sl ((s.slice sl).withEncoded e)).showSlice sl) := by
  have hzone : (s.frameRead f).zone f.zone = s.zone f.zone := by
    rw [State.zone, State.zone, (s.frameRead_keeps f).part .zones (by decide +kernel)]
  rw [exec, execFrameEncode]
  simp only [hh, hmgmt, hf, hue]
  rw [if_neg (by simp [hmode, hroom, hrv, hopc, hrung])]
  refine ⟨(s.frameRead f).zoneLeft (s.slice sl) f, (s.frameRead f).encodeHeld (s.slice sl) f,
    Keeps.step (State.zoneLeft_keeps ..) (Keeps.mono (s.frameRead_keeps f)), rfl, rfl, ?_, rfl, ?_⟩
  · exact congrArg (fun z : Zone => zoneSlot f.zone (z.frontier + ((s.slice sl).flight f.zone).length)) hzone
  · rw [Slice.withEncoded, hh]
    rfl

theorem gives_frameEncode (s : State) (sl : Fin 96) (h : Nat) (f : Held) (hh : (s.slice sl).head = some h) (hmode : s.slMode sl = 2)
    (hroom : (s.slice sl).wstore.length < 32) (hrv : (s.slice sl).reverify = false) (hopc : (s.head h).needOpc = false)
    (hrung : s.rung7Other h = false) (hmgmt : s.nextMgmt h = none) (hf : s.nextHeld sl h = some f) (hue : s.ueAt f.addr 65536 = none) :
    s.gives (.frameEncode sl) fun t => (t.slice sl).wstore.length = (s.slice sl).wstore.length + 1 ∧
      (t.slice sl).wstore.getLast?.map (fun e => (e.zone, e.index, e.slot, e.sent)) =
        some (f.zone, f.index, zoneSlot f.zone ((s.zone f.zone).frontier + ((s.slice sl).flight f.zone).length), 0) ∧
      t.held = s.held.map fun y => if y = f then { y with stage := .encoded } else y := by
  obtain ⟨u, e, hu, hzone, hindex, hslot, hsent, hexec⟩ := exec_frameEncode hh hmode hroom hrv hopc hrung hmgmt hf hue
  let v := (u.heldEncoded f).putSlice sl ((s.slice sl).withEncoded e)
  have hv : v.slice sl = (s.slice sl).withEncoded e := State.putSlice_slice ..
  have hbusy : v.sliceBusy sl = true := by
    refine State.sliceBusy_of_wstore (h := h) ?_ ?_ <;> rw [hv]
    · exact hh
    · simp [Slice.withEncoded]
  obtain ⟨hshow, busy, idle, hshown⟩ := State.showSlice_spec (s := v) (sl := sl) (.inl hbusy)
  rw [hv] at hshown
  refine State.gives_of_exec hexec ⟨?_, ?_, ?_⟩
  · rw [hshown]
    exact List.length_append
  · rw [hshown]
    simp [Slice.withEncoded, hzone, hindex, hslot, hsent]
  · rw [hshow.part .held (by decide +kernel)]
    have hheld : u.held = s.held := hu.part .held (by decide +kernel)
    simp only [v, State.putSlice, State.heldEncoded, hheld, beq_iff_eq]

end Sys2Proof.Machine
end

section
/-!
PROOF. Written slots verified and zones searched (O24): what closing a zone, its records and the end of its WRITEs leave of how far the
zones have come.
-/

set_option Elab.async false

namespace Sys2Proof.Machine

/-! ### Zones -/

theorem State.zone_congr {s t : State} (h : t.zones = s.zones) (k : Nat) : t.zone k = s.zone k := by rw [State.zone, State.zone, h]

/-- A map changed value by value, in a way that `g` does not see. -/
theorem mget_map_eq {β α : Type} {g : β → α} {f : Nat × β → Nat × β} (hkey : ∀ p, (f p).1 = p.1) (hval : ∀ p, g (f p).2 = g p.2) (d : β)
    (l : List (Nat × β)) (k : Nat) : g (mget d (l.map f) k) = g (mget d l k) := by
  induction l with
  | nil => rfl
  | cons p r ih =>
    have hp : f p = (p.1, (f p).2) := Prod.ext (hkey p) rfl
    rw [List.map_cons, hp, mget, mget]
    split
    · exact hval p
    · exact ih

namespace EachKeeps

variable {α : Type} {g : Zone → α} {s t u : State}

/-- The state changed in a part that is not the zones. -/
theorem ofZones (h : t.zones = s.zones) : ZoneKeeps g s t := ⟨fun k => congrArg g (State.zone_congr h k)⟩

/-- An operation that leaves the zones, after those before it. -/
theorem zones {m : Nat} (h : ZoneKeeps g s t) (hk : Keeps m t u) (hm : m.testBit (Part.bit .zones) = false := by decide +kernel) :
    ZoneKeeps g s u := h.trans (.ofZones (hk.part .zones hm))

/-- A zone replaced by one of which `g` reads the same, after other operations. -/
theorem putZone {zk : Nat} {x : Zone} (h : ZoneKeeps g s t) (hx : g x = g (t.zone zk)) : ZoneKeeps g s (t.putZone zk x) := by
  refine h.trans ⟨fun k => ?_⟩
  by_cases hk : zk = k
  · subst hk
    exact (congrArg g (State.putZone_zone ..)).trans hx
  · exact congrArg g (mget_mput_ne _ _ _ _ _ hk)

end EachKeeps

/-- How far a zone has come: its frames, its frontier, and whether a search is due. -/
def Zone.reached (z : Zone) : Nat × Nat × Bool := (z.frames, z.frontier, z.resolve)

/-- An operation leaves how far every zone has come. -/
abbrev ReachKeeps (s t : State) : Prop := ZoneKeeps Zone.reached s t

theorem State.journalZone_reach (s : State) (zk : Nat) : ReachKeeps s (s.journalZone zk) := by
  unfold State.journalZone
  exact ((EachKeeps.refl s).zones (State.journalWord_keeps ..)).putZone rfl

theorem State.closeZone_reach (s : State) (zk : Nat) (st : ZState) : ReachKeeps s (s.closeZone zk st) := by
  unfold State.closeZone
  exact ((EachKeeps.refl s).putZone (by rfl)).trans (State.journalZone_reach ..)

theorem State.fallBack_reach (s : State) (zk n : Nat) : ReachKeeps s (s.fallBack zk n) := by
  unfold State.fallBack
  extract_lets hit gone lost s1 s2 s3 z s4
  have h1 : ReachKeeps s s1 := EachKeeps.foldl (fun t h => (EachKeeps.refl t).zones (State.flushMissed_keeps ..)) (.refl s)
  have h2 : ReachKeeps s s2 := by
    refine EachKeeps.foldl (fun t h => ?_) h1
    split
    · exact .ite (.refl t) ((EachKeeps.refl t).zones (State.finish_keeps ..))
    · exact .refl t
  have h3 : ReachKeeps s s3 := (h2.zones (State.dropHeld_keeps ..)).zones (State.unqueue_keeps ..)
  have h4 : ReachKeeps s s4 := h3.putZone rfl
  clear_value lost
  split
  · exact h4
  · exact h4.zones (State.raise_keeps ..)

theorem State.failZoneWrites_reach (s : State) (zk status : Nat) : ReachKeeps s (s.failZoneWrites zk status) := by
  unfold State.failZoneWrites
  extract_lets mine s1 s2 s3
  have h1 : ReachKeeps s s1 := EachKeeps.foldl
    (fun t h => ((EachKeeps.refl t).zones (State.flushMissed_keeps ..)).zones (State.fail_keeps ..)) (.refl s)
  have h2 : ReachKeeps s s2 := h1.zones (State.dropHeld_keeps ..)
  have h3 : ReachKeeps s s3 := EachKeeps.foldl (fun _ _ => .ofZones rfl) h2
  exact h3.trans (State.fallBack_reach ..)

theorem State.shutZone_reach (s : State) (zk : Nat) : ReachKeeps s (s.shutZone zk) := by
  unfold State.shutZone
  exact ((s.failZoneWrites_reach ..).trans (State.fallBack_reach ..)).trans (State.closeZone_reach ..)

theorem State.mgmtSet_reach (n : Nat) (s : State) (d side type : Nat) : ReachKeeps s (State.mgmtSet n s d side type) := by
  induction n generalizing s with
  | zero => exact .refl s
  | succ n ih =>
    unfold State.mgmtSet
    extract_lets due now last base seqNo s1 s2
    have h1 : ReachKeeps s s1 := EachKeeps.foldl (fun t e => (EachKeeps.refl t).putZone rfl) (.refl s)
    have h2 : ReachKeeps s s2 := h1.zones (State.mgmtRecord_keeps ..)
    refine .ite (h2.trans ⟨fun k => mget_map_eq (fun p => ?_) (fun p => ?_) {} s2.zones k⟩) (h2.trans (ih ..))
    · dsimp only
      split <;> rfl
    · dsimp only
      split <;> rfl

theorem State.zoneState_reach (s : State) (d side : Nat) : ReachKeeps s (s.zoneState d side) := by
  unfold State.zoneState
  exact EachKeeps.trans (.ite (EachKeeps.foldl State.shutZone_reach (.refl s)) (.refl s)) (State.mgmtSet_reach ..)

theorem State.closeShort_reach (s : State) (zk : Nat) : ReachKeeps s (s.closeShort zk) := by
  unfold State.closeShort
  exact ((((((s.failZoneWrites_reach ..).zones (State.dropHeld_keeps ..)).zones (State.unqueue_keeps ..)).trans
    (State.closeZone_reach ..)).trans (State.zoneState_reach ..)).zones (State.snapshot_keeps ..))

theorem State.closeFull_reach (s : State) (zk : Nat) : ReachKeeps s (s.closeFull zk) := by
  unfold State.closeFull
  exact ((s.closeZone_reach ..).trans (State.zoneState_reach ..)).zones (State.snapshot_keeps ..)

/-! ### SLOT_VERIFY (R271 to R273) -/

/-- A frame that passes verify is one more of its zone, whose frontier moves on. -/
theorem State.verified_reach (s : State) (sl : Nat) (e : Enc) :
    ((s.verified sl e).zone e.zone).frames = (s.zone e.zone).frames + 1 ∧
      ((s.verified sl e).zone e.zone).frontier = (s.zone e.zone).frontier + 1 := by
  suffices h : ∃ z : Zone, z.frames = (s.zone e.zone).frames + 1 ∧ z.frontier = (s.zone e.zone).frontier + 1 ∧
      ((s.verified sl e).zone e.zone).reached = z.reached by
    obtain ⟨z, hframes, hfrontier, hreached⟩ := h
    simp only [Zone.reached, Prod.mk.injEq] at hreached
    exact ⟨hreached.1.trans hframes, hreached.2.1.trans hfrontier⟩
  unfold State.verified
  extract_lets z s1 sT s2 x due s3
  refine ⟨s1.zone e.zone, by rw [State.putZone_zone], by rw [State.putZone_zone], ?_⟩
  have hT : ReachKeeps s1 sT := by
    unfold sT
    split
    · exact (EachKeeps.refl s1).zones (State.tap_keeps ..)
    · exact .refl s1
  have h3 : ReachKeeps s1 s3 := (hT.zones (State.dropHeld_keeps ..)).trans (.ofZones rfl)
  exact (EachKeeps.ite (h3.trans (State.closeFull_reach ..)) (.ite (h3.trans (State.journalZone_reach ..)) h3)).same e.zone

/-- The slice lets go of its oldest written slot and follows the offsets found in its readback. -/
def State.verifyTaken (s : State) (sl : Nat) (e : Enc) (r : List Enc) : State :=
  (s.putSlice sl { s.slice sl with written := r, reverify := (s.slice sl).reverify && !r.isEmpty }).setAlign sl true
    ((e.back.filter fun p => 56 ≤ p.2.score).map fun p => p.2.off)

/-- Only an alignment changes among the registers. -/
theorem State.verifyTaken_rd (s : State) (sl : Nat) (e : Enc) (r : List Enc) (f : Fld) (i : Nat)
    (hf : Reg.SLC_ALIGN_TRAIL_ALIGN.id % 8192 ≠ f.id % 8192) : (s.verifyTaken sl e r).rd f i = s.rd f i := by
  unfold State.verifyTaken State.setAlign
  split
  · rfl
  · exact State.rd_wr_ne _ _ _ _ _ _ hf

theorem State.verifyTaken_zone (s : State) (sl : Nat) (e : Enc) (r : List Enc) (k : Nat) : (s.verifyTaken sl e r).zone k = s.zone k :=
  State.zone_congr ((State.setAlign_keeps ..).part .zones (by decide +kernel)) k

/-- The criteria of a readback are in registers that the alignment does not touch. -/
theorem State.vfyFail_verifyTaken (s : State) (sl : Nat) (e e' : Enc) (r : List Enc) : (s.verifyTaken sl e r).vfyFail sl e' = s.vfyFail sl e' := by
  have hcw := s.verifyTaken_rd sl e r Reg.SLC_VFY_CFG_CW_MAX sl (by decide)
  have hframe := s.verifyTaken_rd sl e r Reg.SLC_VFY_CFG_FRAME_MAX sl (by decide)
  have hhdr : (s.verifyTaken sl e r).rd1 Reg.SLC_VFY_CFG_HDR_MIN sl = s.rd1 Reg.SLC_VFY_CFG_HDR_MIN sl := by
    rw [State.rd1, State.rd1, s.verifyTaken_rd sl e r _ sl (by decide)]
  rw [State.vfyFail, State.vfyFail, hcw, hframe, hhdr]

/-- The slice shows how the slot came out. -/
def State.verifyShown (s : State) (sl h : Nat) (e : Enc) (outcome : Nat) : State :=
  s.lastFrame sl (pfaOf e.slot e.layer (h % 2) e.mgmt) outcome (hdrSame e.words e.backWords) 151 0 0 (e.back.any fun p => p.2.score < 56)

theorem State.lastFrame_outcome (s : State) (sl pfa outcome copies rows failed iter : Nat) (missed : Bool) (ho : outcome < 8) :
    (s.lastFrame sl pfa outcome copies rows failed iter missed).rd Reg.SLC_LAST_RES_OUTCOME sl = outcome := by
  have hlt : outcome % 2 ^ Reg.SLC_LAST_RES_OUTCOME.w = outcome := Nat.mod_eq_of_lt ho
  rw [State.lastFrame]
  simp only [State.wrB]
  rw [State.rd_wr_ne _ _ _ _ _ _ (by decide), State.rd_wr_ne _ _ _ _ _ _ (by decide), State.rd_wr_ne _ _ _ _ _ _ (by decide),
    State.rd_wr_ne _ _ _ _ _ _ (by decide), State.rd_wr_ne _ _ _ _ _ _ (by decide), State.rd_wr_same, hlt]

/-- What becomes of a user frame whose slot has been read back, by the criterion that its readback fails. -/
def State.verifyDone (s : State) (sl h : Nat) (e : Enc) : Option Nat → State
  | none => ((s.verifyShown sl h e 3).slStat sl 2 1).verified sl e
  | some c => (s.verifyShown sl h e 4).verifyFailed sl h e c

theorem exec_slotVerify {s : State} {sl : Fin 96} {h : Nat} {e : Enc} {r : List Enc} (hh : (s.slice sl).head = some h)
    (hw : (s.slice sl).written = e :: r) (hd : e.dropped = false) (hb : e.readBack = true) (hm : e.mgmt = false) :
    exec (.slotVerify sl) s = .next ((s.verifyTaken sl e r).verifyDone sl h e (s.vfyFail sl e)).settle := by
  rw [← s.vfyFail_verifyTaken sl e e r, exec, execSlotVerify]
  split
  · next h' e' r' hh' hw' =>
    obtain rfl : h = h' := Option.some.inj (hh.symm.trans hh')
    obtain ⟨rfl, rfl⟩ : e = e' ∧ r = r' := List.cons.inj (hw.symm.trans hw')
    extract_lets s0 pfa missed s1 res s2 s3
    rw [if_neg (by simp [hd]), if_neg (by simp [hb])]
    change (match (s.verifyTaken sl e r).vfyFail sl e with | none => _ | some c => _) = _
    split
    · next hok =>
      rw [hok, if_neg (by simp [hm])]
      rfl
    · next c hbad =>
      rw [hbad, if_neg (by simp [hm])]
      rfl
  · next hno => exact (hno h e r hh hw).elim

theorem gives_slotVerify_ok (s : State) (sl : Fin 96) (h : Nat) (e : Enc) (r : List Enc) (hh : (s.slice sl).head = some h)
    (hw : (s.slice sl).written = e :: r) (hd : e.dropped = false) (hb : e.readBack = true) (hv : s.vfyFail sl e = none)
    (hm : e.mgmt = false) :
    s.gives (.slotVerify sl) fun t => ∃ u : State, t = u.settle ∧ (u.zone e.zone).frames = (s.zone e.zone).frames + 1 ∧
      (u.zone e.zone).frontier = (s.zone e.zone).frontier + 1 ∧ u.rd Reg.SLC_LAST_RES_OUTCOME sl = 3 := by
  refine State.gives_of_exec (exec_slotVerify hh hw hd hb hm) ⟨_, rfl, ?_⟩
  rw [hv]
  let u1 := s.verifyTaken sl e r
  let u2 := (u1.verifyShown sl h e 3).slStat sl 2 1
  have hzone : u2.zone e.zone = s.zone e.zone :=
    (State.zone_congr (((State.slStat_keeps ..).part .zones (by decide +kernel)).trans
      ((State.lastFrame_keeps ..).part .zones (by decide +kernel))) _).trans (s.verifyTaken_zone sl e r e.zone)
  obtain ⟨hframes, hfrontier⟩ := u2.verified_reach sl e
  rw [hzone] at hframes hfrontier
  refine ⟨hframes, hfrontier, ?_⟩
  exact ((State.verified_keeps ..).rd _ _ (by decide +kernel)).trans
    (((State.slStat_keeps ..).rd _ _ (by decide +kernel)).trans (State.lastFrame_outcome _ _ _ 3 _ _ _ _ _ (by decide)))

/-- What may follow once a failed verify is reported: the zone closes SHORT, or its frames are tried again or given up. -/
def State.verifyFailedRest_mask : Nat := State.shortZone_mask ||| State.putHead_mask ||| State.failZoneWrites_mask ||| State.raise_mask |||
  State.unqueue_mask ||| State.putZone_mask ||| partBits [.held]

/-- However a failed verify goes on, its event bit is set. -/
theorem State.verifyFailed_flag (s : State) (sl h : Nat) (e : Enc) (c : Nat) :
    (s.verifyFailed sl h e c).flag Reg.SLC_EVT_VERIFY_FAIL sl = true := by
  unfold State.verifyFailed
  extract_lets zk x mine after n y s1 s2 z redo pfa
  generalize State.slipRun n _ zk _ = slipped
  obtain ⟨short, s3⟩ := slipped
  dsimp -zeta only
  extract_lets s4 s5 tries hd z5 s6 s7 s8
  have h5 : s5.flag Reg.SLC_EVT_VERIFY_FAIL sl = true :=
    ((State.raise_keeps ..).flag _ _ (by decide +kernel)).trans (((State.slStat_keeps ..).flag _ _ (by decide +kernel)).trans
      (((State.slStat_keeps ..).flag _ _ (by decide +kernel)).trans (State.flag_set1 _ _ (by decide))))
  clear_value s5
  have h7 : Keeps State.verifyFailedRest_mask s5 s7 := Keeps.step (State.raise_keeps ..)
    (Keeps.step (State.failZoneWrites_keeps ..) (Keeps.mono (State.putZone_keeps ..)))
  clear_value s7
  have h8 : Keeps State.verifyFailedRest_mask s5 s8 := Keeps.set_held h7
  refine (Keeps.flag (m := State.verifyFailedRest_mask) ?_ _ _ (by decide +kernel)).trans h5
  clear_value s8
  split
  · exact Keeps.mono (State.shortZone_keeps ..)
  · exact Keeps.ite (Keeps.mono (State.putHead_keeps ..)) (Keeps.ite (Keeps.step (State.unqueue_keeps ..) h8) (Keeps.refl _ _))

theorem gives_slotVerify_bad (s : State) (sl : Fin 96) (h c : Nat) (e : Enc) (r : List Enc) (hh : (s.slice sl).head = some h)
    (hw : (s.slice sl).written = e :: r) (hd : e.dropped = false) (hb : e.readBack = true) (hv : s.vfyFail sl e = some c)
    (hm : e.mgmt = false) :
    s.gives (.slotVerify sl) fun t => ∃ u : State, t = u.settle ∧ u.flag Reg.SLC_EVT_VERIFY_FAIL sl = true ∧
      u.rd Reg.SLC_LAST_RES_OUTCOME sl = 4 := by
  refine State.gives_of_exec (exec_slotVerify hh hw hd hb hm) ⟨_, rfl, ?_⟩
  rw [hv]
  exact ⟨State.verifyFailed_flag .., ((State.verifyFailed_keeps ..).rd _ _ (by decide +kernel)).trans
    (State.lastFrame_outcome _ _ _ 4 _ _ _ _ _ (by decide))⟩

/-! ### ZONE_RESOLVE (R809, R973) -/

/-- The search itself ends the zone's need of it. -/
theorem State.frontierSearch_resolve (s : State) (zk : Nat) (found : List SlotRead) :
    ((s.frontierSearch zk found).1.zone zk).resolve = false := by
  unfold State.frontierSearch
  extract_lets z o0 below i0
  generalize searchRun _ _ _ = run
  obtain ⟨acc, slip, stop, tail⟩ := run
  dsimp -zeta only
  extract_lets fit short front slips s1 s2
  have h1 : (s1.zone zk).resolve = false := congrArg Zone.resolve (State.putZone_zone ..)
  have h2 : ReachKeeps s1 s2 := EachKeeps.foldl (fun t o => (EachKeeps.refl t).zones (State.journalSlip_keeps ..)) (.refl s1)
  have h3 : ReachKeeps s1 ((s2.journalZone zk).raise 0x0B0A
      [zk % 1024, (acc.filter fun i => i < front - slips.length).length, fit.length]) :=
    (h2.trans (State.journalZone_reach ..)).zones (State.raise_keeps ..)
  exact (congrArg (fun p : Nat × Nat × Bool => p.2.2) (h3.same zk)).trans h1

theorem State.searchZone_resolve (s : State) (zk : Nat) (found : List SlotRead) : ((s.searchZone zk found).zone zk).resolve = false := by
  have hsearch := s.frontierSearch_resolve zk found
  unfold State.searchZone
  generalize s.frontierSearch zk found = p at hsearch ⊢
  obtain ⟨s1, short⟩ := p
  dsimp -zeta only at hsearch ⊢
  extract_lets n s2 s3 s4
  have h3 : ReachKeeps s1 s3 := ((EachKeeps.refl s1).zones (State.dropHeld_keeps ..)).trans (.ofZones rfl)
  have h4 : ReachKeeps s1 s4 := (h3.zones (State.unqueue_keeps ..)).trans (State.fallBack_reach ..)
  have hend : ReachKeeps s1 (if short then s4.closeShort zk else if n = 8192 then s4.closeFull zk else s4) :=
    .ite (h4.trans (State.closeShort_reach ..)) (.ite (h4.trans (State.closeFull_reach ..)) h4)
  exact (congrArg (fun p : Nat × Nat × Bool => p.2.2) (hend.same zk)).trans hsearch

theorem gives_zoneResolve (s : State) (d : Nat) (side : Fin 2) (layer : Fin 16) (zone : Fin 64) (l : List SlotRead)
    (hr : (s.zone (zoneKey d side layer zone)).resolve = true) :
    s.gives (.zoneResolve d side layer zone l) fun t => ∃ u : State, t = u.settle ∧
      (u.zone (zoneKey d side layer zone)).resolve = false := by
  have hexec : exec (.zoneResolve d side layer zone l) s = .next (s.searchZone (zoneKey d side layer zone) l).settle := by
    rw [exec, execZoneResolve]
    exact if_neg (by simp [hr])
  exact State.gives_of_exec hexec ⟨_, rfl, State.searchZone_resolve ..⟩

/-- Settles O24, one command after the other. -/
theorem samplesAndFramesMove : Obligations.SamplesAndFramesMove :=
  ⟨gives_samplesReceive_noSlice, fun s n m sl ha hok hsl _ _ => gives_samplesReceive_slice s n m sl ha hok hsl, gives_frameEncode,
    gives_wrdataSend, gives_wrdataRetransmit, gives_wrackReceive, gives_slotVerify_ok, gives_slotVerify_bad, gives_zoneResolve⟩

end Sys2Proof.Machine
end

section
/-!
PROOF. Slices serve heads (O23): a slice is assigned, goes over to the other mode, and is released.
-/

set_option Elab.async false

namespace Sys2Proof.Machine

/-! ### Fields cleared -/

theorem State.rd_clr_of_zero {s : State} {g : Fld} {j : Nat} (h : s.rd g j = 0) (f : Fld) (i : Nat) : (s.clr f i).rd g j = 0 := by
  rw [State.clr, State.rd_wr, Nat.zero_mod, h, ite_self]

/-- Of fields cleared one after the other each reads 0. -/
theorem State.rd_foldl_clr {α : Type} {fld : α → Fld} {inst : α → Nat} {l : List α} {a : α} (ha : a ∈ l) (s : State) :
    (l.foldl (fun t b => t.clr (fld b) (inst b)) s).rd (fld a) (inst a) = 0 := by
  induction l generalizing s with
  | nil => cases ha
  | cons b r ih =>
    rw [List.foldl_cons]
    cases ha with
    | head =>
      exact List.foldlRecOn (motive := fun t : State => t.rd (fld a) (inst a) = 0) r _ (State.rd_clr ..)
        fun t ht b _ => State.rd_clr_of_zero ht _ _
    | tail _ hr => exact ih hr _

/-! ### A slice shows itself (R240) -/

/-- A slice that is busy, or that RELEASE does not ask for, keeps its head and its mode. -/
theorem State.showSlice_assigned {s : State} {sl : Nat} (h : s.sliceBusy sl = true ∨ s.flag Reg.SLC_CTRL_RELEASE sl = false) :
    ((s.showSlice sl).slice sl).head = (s.slice sl).head ∧ (s.showSlice sl).slMode sl = s.slMode sl := by
  obtain ⟨hkeep, busy, idle, hslice⟩ := State.showSlice_spec h
  exact ⟨by rw [hslice], hkeep.rd _ _ (by decide +kernel)⟩

/-- A slice that does not hold does not begin to by showing itself. -/
theorem State.showSlice_holding {s : State} {sl : Nat} (h : s.sliceBusy sl = true ∨ s.flag Reg.SLC_CTRL_RELEASE sl = false)
    (hold : s.flag Reg.SLC_RATE_STATUS_HOLDING sl = false) : (s.showSlice sl).flag Reg.SLC_RATE_STATUS_HOLDING sl = false := by
  unfold State.showSlice
  dsimp only
  split
  · have hcounts : ∀ a b c x, Keeps (fieldBits [Reg.SLC_STATUS_ENC_READY, Reg.SLC_STATUS_VFY_PENDING, Reg.SLC_RATE_STATUS_BACKLOG] |||
        State.putSlice_mask) s ((((s.wr Reg.SLC_STATUS_ENC_READY sl a).wr Reg.SLC_STATUS_VFY_PENDING sl b).wr
          Reg.SLC_RATE_STATUS_BACKLOG sl c).putSlice sl x) :=
      fun a b c x => Keeps.step (State.putSlice_keeps ..) (Keeps.wr (Keeps.wr (Keeps.wr (Keeps.refl _ _))))
    exact ((hcounts _ _ _ _).flag _ _ (by decide +kernel)).trans hold
  · next hidle =>
    rw [if_neg (by simpa using h.resolve_left hidle)]
    exact State.flag_clr ..

/-- An idle slice that RELEASE asks for is released. -/
theorem State.showSlice_releases {s : State} {sl : Nat} (hidle : s.sliceBusy sl = false) (hrel : s.flag Reg.SLC_CTRL_RELEASE sl = true) :
    ∃ u : State, (u.slice sl).head = (s.slice sl).head ∧ s.showSlice sl = u.releaseSlice sl := by
  unfold State.showSlice
  dsimp only
  rw [if_neg (by simp [hidle]), if_pos hrel]
  exact ⟨_, by rw [State.putSlice_slice], rfl⟩

/-! ### Assignment (R239, R241) -/

/-- A free slice is given to a head, for work of a mode. -/
def State.sliceGiven (s : State) (n : Fin 128) (side : Fin 2) (mode sl : Nat) (r : List HeadWait) : State :=
  let s1 := ({ s with headWait := r } : State).putSlice sl
    { head := some (headOf n side), rateAt := s.now, idleFrom := s.now, busy := true }
  (((s1.set1 Reg.SLC_ASSIGN_ASSIGNED sl).wr Reg.SLC_ASSIGN_MODE sl mode).wr Reg.SLC_ASSIGN_HEAD sl side).wr Reg.SLC_ASSIGN_STATION sl n

/-- A slice given to a head takes what is kept of the head: its SLC_OFS, starting equaliser set and alignment. -/
def State.sliceLoaded (s : State) (n h sl weight : Nat) : State :=
  let s1 := ((s.loadOfs sl h).loadEq sl h (s.layerOf h)).loadAlign sl
  ((s1.setSl sl slIdle).admitted weight).showSp n

def State.sliceLoaded_mask : Nat := State.loadOfs_mask ||| State.loadEq_mask ||| State.loadAlign_mask ||| State.setSl_mask |||
  State.admitted_mask ||| State.showSp_mask

theorem State.sliceLoaded_keeps (s : State) (n h sl weight : Nat) : Keeps State.sliceLoaded_mask s (s.sliceLoaded n h sl weight) := by
  unfold State.sliceLoaded
  exact Keeps.step (State.showSp_keeps ..) (Keeps.step (State.admitted_keeps ..) (Keeps.step (State.setSl_keeps ..)
    (Keeps.step (State.loadAlign_keeps ..) (Keeps.step (State.loadEq_keeps ..) (Keeps.mono (State.loadOfs_keeps ..))))))

/-- The registers of SLC_ASSIGN name the head and the mode. -/
theorem State.sliceGiven_assign (s : State) (n : Fin 128) (side : Fin 2) (mode sl : Nat) (r : List HeadWait) :
    (s.sliceGiven n side mode sl r).flag Reg.SLC_ASSIGN_ASSIGNED sl = true ∧
      (s.sliceGiven n side mode sl r).rd Reg.SLC_ASSIGN_MODE sl = mode % 4 ∧
      (s.sliceGiven n side mode sl r).rd Reg.SLC_ASSIGN_HEAD sl = side.val ∧
      (s.sliceGiven n side mode sl r).rd Reg.SLC_ASSIGN_STATION sl = n.val := by
  unfold State.sliceGiven
  refine ⟨?_, ?_, ?_, ?_⟩
  · rw [State.flag_wr_ne _ _ _ _ _ _ (by decide), State.flag_wr_ne _ _ _ _ _ _ (by decide), State.flag_wr_ne _ _ _ _ _ _ (by decide)]
    exact State.flag_set1 _ _ (by decide)
  · rw [State.rd_wr_ne _ _ _ _ _ _ (by decide), State.rd_wr_ne _ _ _ _ _ _ (by decide), State.rd_wr_same]
    rfl
  · rw [State.rd_wr_ne _ _ _ _ _ _ (by decide), State.rd_wr_same]
    exact Nat.mod_eq_of_lt side.isLt
  · rw [State.rd_wr_same]
    exact Nat.mod_eq_of_lt n.isLt

theorem exec_sliceAssign {s : State} {n : Fin 128} {side : Fin 2} {w : HeadWait} {r : List HeadWait} {sl : Nat} (hw : s.headWait = w :: r)
    (hh : w.head = headOf n side) (hfree : s.freeSlice (if w.write then 2 else 1) = some sl) :
    exec (.sliceAssign n side) s = .next (((s.sliceGiven n side (if w.write then 2 else 1) sl r).sliceLoaded n (headOf n side) sl
      (s.rd Reg.PWR_WEIGHT_SLICE_W 0)).showSlice sl) := by
  rw [exec, execSliceAssign]
  simp only [hw]
  rw [if_neg (by simp [hh])]
  simp only [hfree]
  rfl

theorem gives_sliceAssign (s : State) (n : Fin 128) (side : Fin 2) (w : HeadWait) (r : List HeadWait) (sl : Nat) (hw : s.headWait = w :: r)
    (hh : w.head = headOf n side) (hfree : s.freeSlice (if w.write then 2 else 1) = some sl)
    (hrel : s.flag Reg.SLC_CTRL_RELEASE sl = false) :
    s.gives (.sliceAssign n side) fun t => t.headWait = r ∧ (t.slice sl).head = some (headOf n side) ∧
      t.flag Reg.SLC_ASSIGN_ASSIGNED sl = true ∧ t.rd Reg.SLC_ASSIGN_MODE sl = (if w.write then 2 else 1) ∧
      t.rd Reg.SLC_ASSIGN_HEAD sl = side.val ∧ t.rd Reg.SLC_ASSIGN_STATION sl = n.val := by
  let u := s.sliceGiven n side (if w.write then 2 else 1) sl r
  let v := u.sliceLoaded n (headOf n side) sl (s.rd Reg.PWR_WEIGHT_SLICE_W 0)
  obtain ⟨hassigned, hmode, hhead, hstation⟩ := s.sliceGiven_assign n side (if w.write then 2 else 1) sl r
  have hload : Keeps State.sliceLoaded_mask u v := State.sliceLoaded_keeps ..
  have hrelu : u.flag Reg.SLC_CTRL_RELEASE sl = false := by
    refine Eq.trans ?_ hrel
    iterate 4 refine (State.flag_wr_ne _ _ _ _ _ _ (by decide)).trans ?_
    rfl
  have hrelv : v.flag Reg.SLC_CTRL_RELEASE sl = false := (hload.flag _ _ (by decide +kernel)).trans hrelu
  obtain ⟨hshow, busy, idle, hslice⟩ := State.showSlice_spec (s := v) (.inr hrelv)
  refine State.gives_of_exec (exec_sliceAssign hw hh hfree) ⟨?_, ?_, ?_, ?_, ?_, ?_⟩
  · exact (hshow.part .headWait (by decide +kernel)).trans (hload.part .headWait (by decide +kernel))
  · rw [hslice, hload.slice]
    exact congrArg Slice.head (State.putSlice_slice ..)
  · exact (hshow.flag _ _ (by decide +kernel)).trans ((hload.flag _ _ (by decide +kernel)).trans hassigned)
  · refine (hshow.rd _ _ (by decide +kernel)).trans ((hload.rd _ _ (by decide +kernel)).trans (hmode.trans ?_))
    split <;> rfl
  · exact (hshow.rd _ _ (by decide +kernel)).trans ((hload.rd _ _ (by decide +kernel)).trans hhead)
  · exact (hshow.rd _ _ (by decide +kernel)).trans ((hload.rd _ _ (by decide +kernel)).trans hstation)

/-- The wait of a head has been reported. -/
def HeadWait.reported (h : Nat) (x : HeadWait) : HeadWait := if x.head == h then { x with raised := true } else x

theorem gives_sliceWait (s : State) (n : Fin 128) (side : Fin 2) (w : HeadWait)
    (hw : (s.headWait.find? fun w => w.head == headOf n side && !w.raised) = some w) :
    s.gives (.sliceWait n side) fun t => t.lastEvent 0x0406 [0xFFFFFFFF, n, side] ∧ w.since + 100 * msCycles ≤ t.now ∧
      ∀ x ∈ t.headWait, x.head = headOf n side → x.raised = true := by
  let s1 := s.advanceTo (w.since + 100 * msCycles)
  let s2 : State := { s1 with headWait := s1.headWait.map (HeadWait.reported (headOf n side)) }
  have hexec : exec (.sliceWait n side) s = .next (s2.raise 0x0406 [0xFFFFFFFF, n, side]) := by
    rw [exec, execSliceWait]
    simp only [hw]
    rfl
  refine State.gives_of_exec hexec ⟨State.raise_lastEvent .., ?_, fun x hx hxh => ?_⟩
  · rw [(State.raise_keeps ..).now]
    exact State.le_advanceTo_now ..
  · rw [(State.raise_keeps s2 ..).part .headWait (by decide +kernel)] at hx
    obtain ⟨y, -, rfl⟩ := List.mem_map.1 hx
    unfold HeadWait.reported at hxh ⊢
    split
    · rfl
    · next hne =>
      rw [if_neg hne] at hxh
      exact absurd (beq_iff_eq.2 hxh) hne

/-! ### Release (R240) -/

/-- The fields of a slice that its release clears. -/
def releasedFields : List Fld := [Reg.SLC_ASSIGN_ASSIGNED, Reg.SLC_ASSIGN_MODE, Reg.SLC_ASSIGN_HEAD, Reg.SLC_ASSIGN_STATION,
  Reg.SLC_STATUS_STATE, Reg.SLC_STATUS_ENC_READY, Reg.SLC_STATUS_VFY_PENDING, Reg.SLC_STATUS_BLANK, Reg.SLC_RATE_STATUS_HOLDING,
  Reg.SLC_RATE_STATUS_PAUSED, Reg.SLC_RATE_STATUS_BACKLOG, Reg.SLC_CTRL_RELEASE, Reg.SLC_EQ_CTRL_COMMIT, Reg.SLC_EQ_CTRL_COMMIT_PENDING]

/-- What is kept of a slice that is released is gone before its fields are cleared. -/
theorem State.releaseSlice_eq {s : State} {sl : Nat} (hh : (s.slice sl).head ≠ none) :
    ∃ (u : State) (n : Nat), (u.slice sl).head = none ∧ s.releaseSlice sl = (releasedFields.foldl (fun t f => t.clr f sl) u).showSp n := by
  unfold State.releaseSlice
  extract_lets x s0
  split
  · next hnone => exact absurd hnone hh
  · extract_lets s1 s2 s3
    have h2 : Keeps (State.draw_mask ||| fieldBits [Reg.SLC_EQ_SET_COEF]) s1 s2 := by
      refine Keeps.foldl (fun t i => ?_) (Keeps.refl _ _)
      split
      next v u hdraw => exact Keeps.wr (Keeps.ofSnd hdraw (KeepsSnd.step (State.draw_keeps ..) (Keeps.refl _ _)))
    have hslice : s2.slice sl = {} := (h2.slice sl).trans (State.putSlice_slice ..)
    exact ⟨s2, _, congrArg Slice.head hslice, rfl⟩

/-- A released slice has no head, and its fields read 0. -/
theorem State.releaseSlice_spec {s : State} {sl : Nat} (hh : (s.slice sl).head ≠ none) :
    ((s.releaseSlice sl).slice sl).head = none ∧ ∀ f ∈ releasedFields, (s.releaseSlice sl).rd f sl = 0 := by
  obtain ⟨u, n, hu, heq⟩ := State.releaseSlice_eq hh
  have hcleared : (releasedFields.foldl (fun t f => t.clr f sl) u).slice sl = u.slice sl :=
    List.foldlRecOn (motive := fun t : State => t.slice sl = u.slice sl) _ _ rfl fun _ ht _ _ => ht
  have hkept : ∀ f ∈ releasedFields, State.showSp_mask.testBit (f.id % 8192) = false := by decide +kernel
  rw [heq]
  refine ⟨by rw [(State.showSp_keeps ..).slice, hcleared, hu], fun f hf => ?_⟩
  rw [(State.showSp_keeps ..).rd f sl (hkept f hf)]
  exact State.rd_foldl_clr (fld := fun f => f) (inst := fun _ => sl) hf u

/-- The same, of the fields that say that a slice is assigned. -/
theorem State.releaseSlice_freed {s : State} {sl : Nat} (hh : (s.slice sl).head ≠ none) :
    ((s.releaseSlice sl).slice sl).head = none ∧ (s.releaseSlice sl).flag Reg.SLC_ASSIGN_ASSIGNED sl = false ∧
      (s.releaseSlice sl).rd Reg.SLC_STATUS_STATE sl = slFree ∧ (s.releaseSlice sl).flag Reg.SLC_CTRL_RELEASE sl = false := by
  obtain ⟨hhead, hzero⟩ := State.releaseSlice_spec hh
  exact ⟨hhead, State.flag_eq_false (hzero _ (by simp [releasedFields])), hzero _ (by simp [releasedFields]),
    State.flag_eq_false (hzero _ (by simp [releasedFields]))⟩

theorem gives_sliceRelease (s : State) (sl : Fin 96) (hh : (s.slice sl).head ≠ none) (hidle : s.sliceBusy sl = false) :
    s.gives (.sliceRelease sl) fun t => (t.slice sl).head = none ∧ t.flag Reg.SLC_ASSIGN_ASSIGNED sl = false ∧
      t.rd Reg.SLC_STATUS_STATE sl = slFree ∧ (s.slice sl).idleFrom + (if s.headWait.isEmpty then s.rd Reg.SLC_CTRL_HOLD_MS sl
        else min (s.rd Reg.SLC_CTRL_HOLD_MS sl) 1) * msCycles ≤ t.now := by
  let due := (s.slice sl).idleFrom + (if s.headWait.isEmpty then s.rd Reg.SLC_CTRL_HOLD_MS sl
    else min (s.rd Reg.SLC_CTRL_HOLD_MS sl) 1) * msCycles
  have hexec : exec (.sliceRelease sl) s = .next ((s.advanceTo due).releaseSlice sl) := by
    rw [exec, execSliceRelease]
    exact if_neg (by simp [hh, hidle])
  have hslice : (s.advanceTo due).slice sl = s.slice sl := (State.advanceTo_keeps ..).slice _
  obtain ⟨hhead, hassigned, hstate, -⟩ := State.releaseSlice_freed (s := s.advanceTo due) (by rwa [hslice])
  obtain ⟨-, -, -, -, hnow, -⟩ := State.releaseSlice_keeps (s.advanceTo due) sl
  exact State.gives_of_exec hexec ⟨hhead, hassigned, hstate, (s.le_advanceTo_now due).trans hnow⟩

theorem exec_sliceReleaseRequest {s : State} {sl : Fin 96} (hh : (s.slice sl).head ≠ none) :
    exec (.sliceReleaseRequest sl) s = .next ((s.set1 Reg.SLC_CTRL_RELEASE sl).showSlice sl) := by
  rw [exec, execSliceReleaseRequest]
  exact if_neg (by simp [hh])

/-- Whether a slice is busy is not read from registers. -/
theorem State.wr_sliceBusy (s : State) (f : Fld) (i v sl : Nat) : (s.wr f i v).sliceBusy sl = s.sliceBusy sl := rfl

theorem gives_sliceReleaseRequest_idle (s : State) (sl : Fin 96) (hh : (s.slice sl).head ≠ none) (hidle : s.sliceBusy sl = false) :
    s.gives (.sliceReleaseRequest sl) fun t => (t.slice sl).head = none ∧ t.flag Reg.SLC_ASSIGN_ASSIGNED sl = false ∧
      t.flag Reg.SLC_CTRL_RELEASE sl = false := by
  obtain ⟨u, hu, hshow⟩ := State.showSlice_releases (s := s.set1 Reg.SLC_CTRL_RELEASE sl) (sl := sl)
    ((s.wr_sliceBusy ..).trans hidle) (State.flag_set1 _ _ (by decide))
  obtain ⟨hhead, hassigned, -, hrel⟩ := State.releaseSlice_freed (s := u) (sl := sl) (by rwa [hu])
  exact State.gives_of_exec ((exec_sliceReleaseRequest hh).trans (congrArg _ hshow)) ⟨hhead, hassigned, hrel⟩

theorem gives_sliceReleaseRequest_busy (s : State) (sl : Fin 96) (hh : (s.slice sl).head ≠ none) (hbusy : s.sliceBusy sl = true) :
    s.gives (.sliceReleaseRequest sl) fun t => (t.slice sl).head = (s.slice sl).head ∧ t.flag Reg.SLC_CTRL_RELEASE sl = true := by
  obtain ⟨hshow, busy, idle, hslice⟩ := State.showSlice_spec (s := s.set1 Reg.SLC_CTRL_RELEASE sl) (sl := sl)
    (.inl ((s.wr_sliceBusy ..).trans hbusy))
  exact State.gives_of_exec (exec_sliceReleaseRequest hh) ⟨by rw [hslice]; rfl,
    (hshow.flag _ _ (by decide +kernel)).trans (State.flag_set1 _ _ (by decide))⟩

/-! ### Counters and mode (R243, R279) -/

theorem gives_sliceStatClear (s : State) (sl : Fin 96) :
    s.gives (.sliceStatClear sl) fun t => ∀ i ∈ upTo 13, t.rd Reg.SLC_STAT_COUNT (sl * 13 + i) = 0 :=
  State.gives_of_exec rfl fun _ hi =>
    State.rd_foldl_clr (fld := fun _ => Reg.SLC_STAT_COUNT) (inst := fun i => sl * 13 + i) hi s

/-- A replaced entry is not seen past a filter that leaves its key out. -/
theorem filter_mput {α : Type} {p : Nat × α → Bool} {k : Nat} (hp : ∀ v, p (k, v) = false) (l : List (Nat × α)) (v : α) :
    (mput l k v).filter p = l.filter p := by
  induction l with
  | nil => simp [mput, hp]
  | cons q r ih =>
    obtain ⟨a, b⟩ := q
    rw [mput]
    split
    · next hak => simp [hak, hp]
    · split
      · simp [List.filter_cons, hp]
      · simp [List.filter_cons, ih]

/-- The load of the other slices does not depend on the slice that is counted in another mode. -/
theorem State.putSlice_dramOk (s : State) (sl : Nat) (x : Slice) (mode : Nat) : (s.putSlice sl x).dramOk sl mode = s.dramOk sl mode := by
  have hothers := filter_mput (p := fun p : Nat × Slice => p.2.head.isSome && p.1 != sl) (k := sl) (by simp) s.slices x
  have hmode (k : Nat) : (s.putSlice sl x).slMode k = s.slMode k := rfl
  have hload : (s.putSlice sl x).dramLoad sl mode = s.dramLoad sl mode := by
    simp only [State.dramLoad, hmode]
    rw [State.putSlice, hothers]
  have hlimit : (s.putSlice sl x).dramLimit10 = s.dramLimit10 := rfl
  rw [State.dramOk, State.dramOk, hload, hlimit]

/-- A slice goes over to another mode: what it paused or held for is over. -/
def State.modeChanged (s : State) (sl mode : Nat) (f : Fld) : State :=
  (((s.putSlice sl { s.slice sl with pass := .off }).wr Reg.SLC_ASSIGN_MODE sl mode).clr f sl).setSl sl slIdle

theorem State.modeChanged_head (s : State) (sl mode : Nat) (f : Fld) :
    ((s.modeChanged sl mode f).slice sl).head = (s.slice sl).head := by
  have hslice : (s.modeChanged sl mode f).slice sl = { s.slice sl with pass := .off } := State.putSlice_slice ..
  rw [hslice]

/-- What a slice in the mode shows: the mode, and that it neither is in the other mode's wait nor asked to be released. -/
theorem State.modeChanged_spec {s : State} {sl mode : Nat} {f : Fld} (hf : f ∈ [Reg.SLC_RATE_STATUS_PAUSED, Reg.SLC_RATE_STATUS_HOLDING])
    (hrel : s.flag Reg.SLC_CTRL_RELEASE sl = false) : (s.modeChanged sl mode f).slMode sl = mode % 4 ∧
      (s.modeChanged sl mode f).flag f sl = false ∧ (s.modeChanged sl mode f).flag Reg.SLC_CTRL_RELEASE sl = false := by
  have hne : ∀ f ∈ [Reg.SLC_RATE_STATUS_PAUSED, Reg.SLC_RATE_STATUS_HOLDING], f.id % 8192 ≠ Reg.SLC_ASSIGN_MODE.id % 8192 ∧
    Reg.SLC_STATUS_STATE.id % 8192 ≠ f.id % 8192 ∧ f.id % 8192 ≠ Reg.SLC_CTRL_RELEASE.id % 8192 := by decide
  obtain ⟨hmode, hstate, hrelne⟩ := hne f hf
  unfold State.modeChanged State.setSl
  refine ⟨?_, ?_, ?_⟩
  · rw [State.slMode, State.rd_wr_ne _ _ _ _ _ _ (by decide), State.rd_clr_ne _ _ _ _ _ hmode, State.rd_wr_same]
    rfl
  · rw [State.flag_wr_ne _ _ _ _ _ _ hstate, State.flag_clr]
  · rw [State.flag_wr_ne _ _ _ _ _ _ (by decide), State.clr, State.flag_wr_ne _ _ _ _ _ _ hrelne, State.flag_wr_ne _ _ _ _ _ _ (by decide)]
    exact hrel

theorem exec_sliceModeChange_toWrite {s : State} {sl : Fin 96} {h : Nat} (hh : (s.slice sl).head = some h)
    (hrest : (s.slice sl).atRest = true) (hedge : (s.slice sl).atEdge = true) (hmode : s.slMode sl = 1) (hwork : s.writeWork h = true) :
    exec (.sliceModeChange sl) s = .next ((s.modeChanged sl 2 Reg.SLC_RATE_STATUS_PAUSED).showSlice sl) := by
  rw [exec, execSliceModeChange]
  split
  · next hnone => exact absurd (hh.symm.trans hnone) nofun
  · next h' hsome =>
    obtain rfl : h = h' := Option.some.inj (hh.symm.trans hsome)
    exact (if_neg (by simp [hrest, hedge])).trans (if_pos ⟨hmode, hwork⟩)

theorem exec_sliceModeChange_toRead {s : State} {sl : Fin 96} {h : Nat} (hh : (s.slice sl).head = some h)
    (hrest : (s.slice sl).atRest = true) (hedge : (s.slice sl).atEdge = true) (hmode : s.slMode sl = 2)
    (hwork : s.readWork h = true) (hdram : s.dramOk sl 1 = true) :
    exec (.sliceModeChange sl) s = .next ((s.modeChanged sl 1 Reg.SLC_RATE_STATUS_HOLDING).showSlice sl) := by
  rw [exec, execSliceModeChange]
  split
  · next hnone => exact absurd (hh.symm.trans hnone) nofun
  · next h' hsome =>
    obtain rfl : h = h' := Option.some.inj (hh.symm.trans hsome)
    refine (if_neg (by simp [hrest, hedge])).trans ((if_neg fun hw => ?_).trans (if_pos ⟨hmode, hwork, ?_⟩))
    · exact absurd (hmode.symm.trans hw.1) (by decide)
    · exact (s.putSlice_dramOk ..).trans hdram

theorem gives_sliceModeChange_toWrite (s : State) (sl : Fin 96) (h : Nat) (hh : (s.slice sl).head = some h)
    (hrest : (s.slice sl).atRest = true) (hedge : (s.slice sl).atEdge = true) (hmode : s.slMode sl = 1) (hwork : s.writeWork h = true)
    (hrel : s.flag Reg.SLC_CTRL_RELEASE sl = false) :
    s.gives (.sliceModeChange sl) fun t => t.slMode sl = 2 ∧ t.flag Reg.SLC_RATE_STATUS_PAUSED sl = false ∧
      (t.slice sl).head = some h := by
  obtain ⟨hnew, hflag, hrelu⟩ := State.modeChanged_spec (mode := 2) (.head _) hrel
  obtain ⟨hhead, hshown⟩ := State.showSlice_assigned (.inr hrelu)
  obtain ⟨hkeep, -⟩ := State.showSlice_spec (.inr hrelu)
  exact State.gives_of_exec (exec_sliceModeChange_toWrite hh hrest hedge hmode hwork)
    ⟨hshown.trans hnew, (hkeep.flag _ _ (by decide +kernel)).trans hflag, hhead.trans ((s.modeChanged_head ..).trans hh)⟩

theorem gives_sliceModeChange_toRead (s : State) (sl : Fin 96) (h : Nat) (hh : (s.slice sl).head = some h)
    (hrest : (s.slice sl).atRest = true) (hedge : (s.slice sl).atEdge = true) (hmode : s.slMode sl = 2) (hwork : s.readWork h = true)
    (hdram : s.dramOk sl 1 = true) (hrel : s.flag Reg.SLC_CTRL_RELEASE sl = false) :
    s.gives (.sliceModeChange sl) fun t => t.slMode sl = 1 ∧ t.flag Reg.SLC_RATE_STATUS_HOLDING sl = false ∧
      (t.slice sl).head = some h := by
  obtain ⟨hnew, hflag, hrelu⟩ := State.modeChanged_spec (mode := 1) (.tail _ (.head _)) hrel
  obtain ⟨hhead, hshown⟩ := State.showSlice_assigned (.inr hrelu)
  exact State.gives_of_exec (exec_sliceModeChange_toRead hh hrest hedge hmode hwork hdram)
    ⟨hshown.trans hnew, State.showSlice_holding (.inr hrelu) hflag, hhead.trans ((s.modeChanged_head ..).trans hh)⟩

end Sys2Proof.Machine
end

section
/-!
PROOF. Slices serve heads (O23): equaliser sets, rate matching, pauses and holding steps.
-/

set_option Elab.async false

namespace Sys2Proof.Machine

/-! ### Equaliser sets (R253, R254) -/

/-- The coefficients of a set are 64 instances apart from those of the next. -/
theorem eqSet_eq (sl set : Nat) : eqSet sl set = (eqSet 0 0).map ((sl * 6 + set) * 64 + ·) := by
  simp only [eqSet, List.map_flatMap, List.map_map]
  refine List.flatMap_congr fun f _ => List.map_congr_left fun t _ => ?_
  simp only [Function.comp_apply]
  ring

theorem eqSet_nodup (sl set : Nat) : (eqSet sl set).Nodup := by
  rw [eqSet_eq]
  exact List.Nodup.map (fun _ _ => Nat.add_left_cancel) (by decide)

theorem eqSet_div {sl set i : Nat} (h : i ∈ eqSet sl set) : i / 64 = sl * 6 + set := by
  have hlt : ∀ j ∈ eqSet 0 0, j < 64 := by decide
  rw [eqSet_eq] at h
  obtain ⟨j, hj, rfl⟩ := List.mem_map.1 h
  have := hlt j hj
  omega

/-- The coefficients of a set that are not written are kept. -/
theorem State.eqGet_congr {s t : State} {sl set : Nat}
    (h : ∀ i ∈ eqSet sl set, t.rd Reg.SLC_EQ_SET_COEF i = s.rd Reg.SLC_EQ_SET_COEF i) :
    t.eqGet sl set = s.eqGet sl set := List.map_congr_left h

theorem Keeps.eqGet {m : Nat} {s t : State} (h : Keeps m s t) (sl set : Nat)
    (hm : m.testBit (Reg.SLC_EQ_SET_COEF.id % 8192) = false := by decide +kernel) : t.eqGet sl set = s.eqGet sl set :=
  State.eqGet_congr fun i _ => h.rd _ i hm

theorem State.rd_foldl_wr_of_not_mem {f : Fld} {i : Nat} {ps : List (Nat × Nat)} (h : i ∉ ps.map Prod.fst) (s : State) :
    (ps.foldl (fun t p => t.wr f p.1 p.2) s).rd f i = s.rd f i := by
  induction ps generalizing s with
  | nil => rfl
  | cons p r ih =>
    simp only [List.map_cons, List.mem_cons, not_or] at h
    rw [List.foldl_cons, ih h.2, State.rd_wr_inst _ _ _ _ _ (Ne.symm h.1)]

/-- Instances of a field written one after the other read as the values, cut to its width. -/
theorem State.map_rd_foldl_wr {f : Fld} {is vs : List Nat} (hnodup : is.Nodup) (hlen : is.length = vs.length) (s : State) :
    is.map (((is.zip vs).foldl (fun t p => t.wr f p.1 p.2) s).rd f) = vs.map (· % 2 ^ f.w) := by
  induction is generalizing vs s with
  | nil => rw [List.eq_nil_of_length_eq_zero hlen.symm]; rfl
  | cons i r ih =>
    obtain ⟨v, ws, rfl⟩ := List.exists_cons_of_length_eq_add_one hlen.symm
    obtain ⟨hi, hr⟩ := List.nodup_cons.1 hnodup
    have hlen' : r.length = ws.length := Nat.succ.inj hlen
    have hkeep : i ∉ (r.zip ws).map Prod.fst := by rwa [List.map_fst_zip hlen'.le]
    rw [List.zip_cons_cons, List.foldl_cons, List.map_cons, List.map_cons, ih hr hlen',
      State.rd_foldl_wr_of_not_mem hkeep, State.rd_wr_same]

theorem State.eqPut_eqGet (s : State) (sl set : Nat) {v : List Nat} (hv : (eqSet sl set).length = v.length) :
    (s.eqPut sl set v).eqGet sl set = v.map (· % 2 ^ 12) := State.map_rd_foldl_wr (eqSet_nodup sl set) hv s

/-- A set that takes coefficients leaves the other sets. -/
theorem State.eqPut_eqGet_ne (s : State) {sl sl' set set' : Nat} (h : sl * 6 + set ≠ sl' * 6 + set') (v : List Nat) :
    (s.eqPut sl set v).eqGet sl' set' = s.eqGet sl' set' := by
  refine State.eqGet_congr fun i hi => State.rd_foldl_wr_of_not_mem (fun hmem => ?_) s
  obtain ⟨p, hp, rfl⟩ := List.mem_map.1 hmem
  exact h ((eqSet_div (List.of_mem_zip hp).1).symm.trans (eqSet_div hi))

theorem gives_eqCommit (s : State) (sl : Fin 96) :
    s.gives (.eqCommit sl) fun t => t.flag Reg.SLC_EQ_CTRL_COMMIT sl = true ∧ t.flag Reg.SLC_EQ_CTRL_COMMIT_PENDING sl = true :=
  State.gives_of_exec rfl ⟨(State.flag_wr_ne _ _ _ _ _ _ (by decide)).trans (State.flag_set1 _ _ (by decide)),
    State.flag_set1 _ _ (by decide)⟩

theorem exec_eqCommitCopy {s : State} {sl : Fin 96} (hpend : s.flag Reg.SLC_EQ_CTRL_COMMIT_PENDING sl = true)
    (hsaved : (s.slice sl).saved = []) :
    exec (.eqCommitCopy sl) s = .next ((((s.eqPut sl 0 (s.eqGet sl 1)).putSlice sl { s.slice sl with trimFrames := 0, saved := [] }).clr
      Reg.SLC_EQ_CTRL_COMMIT sl).clr Reg.SLC_EQ_CTRL_COMMIT_PENDING sl) := by
  rw [exec, execEqCommitCopy, if_neg (by simp [hpend])]
  simp only [hsaved, List.isEmpty_nil, if_true]

theorem gives_eqCommitCopy (s : State) (sl : Fin 96) (hpend : s.flag Reg.SLC_EQ_CTRL_COMMIT_PENDING sl = true)
    (hsaved : (s.slice sl).saved = []) :
    s.gives (.eqCommitCopy sl) fun t => t.eqGet sl 0 = (s.eqGet sl 1).map (· % 2 ^ 12) ∧
      t.flag Reg.SLC_EQ_CTRL_COMMIT_PENDING sl = false ∧ t.eqGet sl 1 = s.eqGet sl 1 := by
  let u := s.eqPut sl 0 (s.eqGet sl 1)
  have hend : ∀ x, Keeps (State.putSlice_mask ||| fieldBits [Reg.SLC_EQ_CTRL_COMMIT, Reg.SLC_EQ_CTRL_COMMIT_PENDING]) u
      (((u.putSlice sl x).clr Reg.SLC_EQ_CTRL_COMMIT sl).clr Reg.SLC_EQ_CTRL_COMMIT_PENDING sl) :=
    fun x => Keeps.clr (Keeps.clr (Keeps.mono (State.putSlice_keeps ..)))
  have hlen : (eqSet sl 0).length = (s.eqGet sl 1).length := by
    rw [State.eqGet, List.length_map, eqSet_eq sl 0, eqSet_eq sl 1, List.length_map, List.length_map]
  refine State.gives_of_exec (exec_eqCommitCopy hpend hsaved) ⟨?_, State.flag_clr .., ?_⟩
  · exact ((hend _).eqGet _ _).trans (s.eqPut_eqGet sl 0 hlen)
  · exact ((hend _).eqGet _ _).trans (s.eqPut_eqGet_ne (by omega) _)

theorem gives_eqShadowWrite (s : State) (sl : Fin 96) (f : Fin 4) (i : Fin 16) (v : BitVec 12)
    (hpend : s.flag Reg.SLC_EQ_CTRL_COMMIT_PENDING sl = false) (htap : i.val < eqTaps f) :
    s.gives (.eqShadowWrite sl f i v) fun t => t.rd Reg.SLC_EQ_SET_COEF (((sl * 6 + 1) * 4 + f) * 16 + i) = v.toNat ∧
      t.eqGet sl 0 = s.eqGet sl 0 := by
  have hexec : exec (.eqShadowWrite sl f i v) s = .next (s.wr Reg.SLC_EQ_SET_COEF (((sl * 6 + 1) * 4 + f) * 16 + i) v.toNat) := by
    rw [exec, execEqShadowWrite, if_neg (by simp [hpend]), if_pos htap]
  refine State.gives_of_exec hexec ⟨(State.rd_wr_same ..).trans (Nat.mod_eq_of_lt v.isLt), State.eqGet_congr fun j hj => ?_⟩
  have hdiv := eqSet_div hj
  exact State.rd_wr_inst _ _ _ _ _ (by omega)

theorem gives_eqShadowWrite_dropped (s : State) (sl : Fin 96) (f : Fin 4) (i : Fin 16) (v : BitVec 12)
    (hpend : s.flag Reg.SLC_EQ_CTRL_COMMIT_PENDING sl = true) :
    s.gives (.eqShadowWrite sl f i v) fun t => t.flag Reg.SLC_EQ_CTRL_WR_DROP sl = true ∧ t.eqGet sl 1 = s.eqGet sl 1 ∧
      t.lastEvent 0x0409 [sl] := by
  have hexec : exec (.eqShadowWrite sl f i v) s = .next ((s.set1 Reg.SLC_EQ_CTRL_WR_DROP sl).raise 0x0409 [sl]) := by
    rw [exec, execEqShadowWrite, if_pos hpend]
  have hkeep : Keeps (State.raise_mask ||| fieldBits [Reg.SLC_EQ_CTRL_WR_DROP]) s
      ((s.set1 Reg.SLC_EQ_CTRL_WR_DROP sl).raise 0x0409 [↑sl]) :=
    Keeps.step (State.raise_keeps ..) (Keeps.set1 (Keeps.refl _ _))
  exact State.gives_of_exec hexec ⟨((State.raise_keeps ..).flag _ _ (by decide +kernel)).trans (State.flag_set1 _ _ (by decide)),
    hkeep.eqGet _ _, State.raise_lastEvent ..⟩

/-! ### Rate matching (R275) -/

/-- The next tick of rate matching is due: 100 ms after the last. -/
def State.rateDue (s : State) (sl : Nat) : State := s.advanceTo ((s.slice sl).rateAt + 100 * msCycles)

/-- A tick of rate matching leaves a scale, and its time. -/
def State.rateTicked (s : State) (sl h : Nat) (x : Slice) (v : Nat) : State :=
  ((s.putSlice sl { x with rateAt := s.now }).wr Reg.SLC_RATE_STATUS_SCALE sl v).showSp (h / 2)

theorem State.rateTicked_scale (s : State) (sl h : Nat) (x : Slice) {v : Nat} (hv : v ≤ 16) :
    (s.rateTicked sl h x v).rd Reg.SLC_RATE_STATUS_SCALE sl = v := by
  have hlt : v < 2 ^ Reg.SLC_RATE_STATUS_SCALE.w := Nat.lt_of_le_of_lt hv (by decide)
  exact ((State.showSp_keeps ..).rd _ _ (by decide +kernel)).trans ((State.rd_wr_same ..).trans (Nat.mod_eq_of_lt hlt))

theorem State.rateTicked_now (s : State) (sl h : Nat) (x : Slice) (v : Nat) : (s.rateTicked sl h x v).now = s.now := rfl

theorem State.rateTicked_rateAt (s : State) (sl h : Nat) (x : Slice) (v : Nat) :
    ((s.rateTicked sl h x v).slice sl).rateAt = s.now := congrArg Slice.rateAt (State.putSlice_slice ..)

theorem exec_rateMatchTick_off {s : State} {sl : Fin 96} {h : Nat} (hh : (s.slice sl).head = some h)
    (hen : s.flag Reg.SLC_CTRL_RATE_EN sl = false) :
    exec (.rateMatchTick sl) s = .next ((s.rateDue sl).rateTicked sl h (s.slice sl) 16) := by
  rw [exec, execRateMatchTick]
  split
  · next hnone => exact absurd (hh.symm.trans hnone) nofun
  · next h' hsome =>
    obtain rfl : h = h' := Option.some.inj (hh.symm.trans hsome)
    simp only [hen, Bool.false_eq_true, if_false]
    rfl

theorem gives_rateMatchTick_off (s : State) (sl : Fin 96) (h : Nat) (hh : (s.slice sl).head = some h)
    (hen : s.flag Reg.SLC_CTRL_RATE_EN sl = false) :
    s.gives (.rateMatchTick sl) fun t => t.rd Reg.SLC_RATE_STATUS_SCALE sl = 16 ∧ (s.slice sl).rateAt + 100 * msCycles ≤ t.now ∧
      (t.slice sl).rateAt = t.now :=
  State.gives_of_exec (exec_rateMatchTick_off hh hen) ⟨State.rateTicked_scale _ sl h _ (Nat.le_refl 16),
    by rw [State.rateTicked_now]; exact s.le_advanceTo_now _, by rw [State.rateTicked_rateAt, State.rateTicked_now]⟩

/-- A reading slice whose backlog is at HIGH, and not at LOW, lets the scale fall by STEP. -/
theorem exec_rateMatchTick_falls {s : State} {sl : Fin 96} {h : Nat} (hh : (s.slice sl).head = some h)
    (hen : s.flag Reg.SLC_CTRL_RATE_EN sl = true) (hmode : s.slMode sl = 1) (hhigh : s.rd Reg.SLC_RATE_CFG_HIGH sl ≤ s.backlog h)
    (hlow : s.rd Reg.SLC_RATE_CFG_LOW sl < s.backlog h)
    (hmin : s.rd1 Reg.SLC_RATE_CFG_S_MIN sl + s.rd1 Reg.SLC_RATE_CFG_STEP sl ≤ s.rd Reg.SLC_RATE_STATUS_SCALE sl)
    (hmax : s.rd Reg.SLC_RATE_STATUS_SCALE sl ≤ 16) :
    exec (.rateMatchTick sl) s = .next ((s.rateDue sl).rateTicked sl h (s.slice sl)
      (s.rd Reg.SLC_RATE_STATUS_SCALE sl - s.rd1 Reg.SLC_RATE_CFG_STEP sl)) := by
  have hread : (s.slMode sl == 2) = false := by rw [hmode]; rfl
  have hmaxlo : max (s.rd1 Reg.SLC_RATE_CFG_S_MIN sl) (s.rd Reg.SLC_RATE_STATUS_SCALE sl - s.rd1 Reg.SLC_RATE_CFG_STEP sl) =
      s.rd Reg.SLC_RATE_STATUS_SCALE sl - s.rd1 Reg.SLC_RATE_CFG_STEP sl := by omega
  have hclamp : clampNat (s.rd1 Reg.SLC_RATE_CFG_S_MIN sl) 16 (s.rd Reg.SLC_RATE_STATUS_SCALE sl - s.rd1 Reg.SLC_RATE_CFG_STEP sl) =
      s.rd Reg.SLC_RATE_STATUS_SCALE sl - s.rd1 Reg.SLC_RATE_CFG_STEP sl := by
    rw [clampNat, if_neg (by omega), if_neg (by omega)]
  rw [exec, execRateMatchTick]
  split
  · next hnone => exact absurd (hh.symm.trans hnone) nofun
  · next h' hsome =>
    obtain rfl : h = h' := Option.some.inj (hh.symm.trans hsome)
    simp only [hen, hread, hhigh, Nat.not_le.2 hlow, decide_true, decide_false, Bool.false_eq_true, if_true, if_false, hmaxlo, hclamp]
    rfl

theorem gives_rateMatchTick_falls (s : State) (sl : Fin 96) (h : Nat) (hh : (s.slice sl).head = some h)
    (hen : s.flag Reg.SLC_CTRL_RATE_EN sl = true) (hmode : s.slMode sl = 1) (hhigh : s.rd Reg.SLC_RATE_CFG_HIGH sl ≤ s.backlog h)
    (hlow : s.rd Reg.SLC_RATE_CFG_LOW sl < s.backlog h)
    (hmin : s.rd1 Reg.SLC_RATE_CFG_S_MIN sl + s.rd1 Reg.SLC_RATE_CFG_STEP sl ≤ s.rd Reg.SLC_RATE_STATUS_SCALE sl)
    (hmax : s.rd Reg.SLC_RATE_STATUS_SCALE sl ≤ 16) :
    s.gives (.rateMatchTick sl) fun t => t.rd Reg.SLC_RATE_STATUS_SCALE sl =
      s.rd Reg.SLC_RATE_STATUS_SCALE sl - s.rd1 Reg.SLC_RATE_CFG_STEP sl :=
  State.gives_of_exec (exec_rateMatchTick_falls hh hen hmode hhigh hlow hmin hmax) (State.rateTicked_scale _ sl h _ (by omega))

/-! ### Pauses and holding steps (R268, R276, R277) -/

theorem gives_readPause (s : State) (sl : Fin 96) (h : Nat) (hh : (s.slice sl).head = some h) (hmode : s.slMode sl = 1)
    (hread : s.flag Reg.SLC_RATE_STATUS_PAUSED sl = false) (hpass : (s.slice sl).pass.on = false)
    (hstall : s.rd Reg.SLC_RATE_CFG_STALL sl ≤ s.backlog h) :
    s.gives (.readPause sl) fun t => t.flag Reg.SLC_RATE_STATUS_PAUSED sl = true ∧ t.rd Reg.SLC_STATUS_STATE sl = slPaused ∧
      t.lastEvent 0x0407 [sl, 1] := by
  let u := ((s.putSlice sl { s.slice sl with pauseReq := false }).set1 Reg.SLC_RATE_STATUS_PAUSED sl).setSl sl slPaused
  have hexec : exec (.readPause sl) s = .next (u.raise 0x0407 [sl, 1]) := by
    have hdue : s.pauseDue sl h = true := by rw [State.pauseDue, decide_eq_true hstall, Bool.or_true]
    rw [exec, execReadPause]
    split
    · next hnone => exact absurd (hh.symm.trans hnone) nofun
    · next h' hsome =>
      obtain rfl : h = h' := Option.some.inj (hh.symm.trans hsome)
      exact if_neg (by simp [hmode, hread, hpass, hdue])
  refine State.gives_of_exec hexec ⟨?_, ?_, State.raise_lastEvent ..⟩
  · exact ((State.raise_keeps ..).flag _ _ (by decide +kernel)).trans
      ((State.flag_wr_ne _ _ _ _ _ _ (by decide)).trans (State.flag_set1 _ _ (by decide)))
  · exact ((State.raise_keeps ..).rd _ _ (by decide +kernel)).trans (State.rd_wr_same ..)

theorem gives_readResume (s : State) (sl : Fin 96) (h : Nat) (hh : (s.slice sl).head = some h)
    (hpaused : s.flag Reg.SLC_RATE_STATUS_PAUSED sl = true) (hlow : s.backlog h ≤ s.rd Reg.SLC_RATE_CFG_LOW sl)
    (hroom : (s.slice sl).store.length < 4) :
    s.gives (.readResume sl) fun t => t.flag Reg.SLC_RATE_STATUS_PAUSED sl = false ∧ t.rd Reg.SLC_STATUS_STATE sl = slReading ∧
      t.lastEvent 0x0407 [sl, 0] := by
  let u := ((s.clr Reg.SLC_RATE_STATUS_PAUSED sl).clr Reg.SLC_RATE_STATUS_HOLDING sl).setSl sl slReading
  have hexec : exec (.readResume sl) s = .next (u.raise 0x0407 [sl, 0]) := by
    rw [exec, execReadResume]
    simp only [hh]
    rw [if_pos (by simp [hpaused, hlow, hroom])]
  refine State.gives_of_exec hexec ⟨?_, ?_, State.raise_lastEvent ..⟩
  · exact ((State.raise_keeps ..).flag _ _ (by decide +kernel)).trans
      ((State.flag_wr_ne _ _ _ _ _ _ (by decide)).trans ((State.flag_wr_ne _ _ _ _ _ _ (by decide)).trans (State.flag_clr ..)))
  · exact ((State.raise_keeps ..).rd _ _ (by decide +kernel)).trans (State.rd_wr_same ..)

/-- A slice holds: the step is counted, and its time is kept. -/
def State.holdBegun (s : State) (sl : Nat) : State :=
  ((s.set1 Reg.SLC_RATE_STATUS_HOLDING sl).bump Reg.SLC_STAT_COUNT (sl * 13 + 11) 1).putSlice sl { s.slice sl with holdAt := some s.now }

theorem State.holdBegun_spec (s : State) (sl : Nat) :
    (s.holdBegun sl).flag Reg.SLC_RATE_STATUS_HOLDING sl = true ∧ ((s.holdBegun sl).slice sl).holdAt = some s.now :=
  ⟨(State.flag_wr_ne _ _ _ _ _ _ (by decide)).trans (State.flag_set1 _ _ (by decide)),
    congrArg Slice.holdAt (State.putSlice_slice ..)⟩

/-- A slice that is to hold, and has not held before, asks its head for a step. -/
theorem exec_holdStep {s : State} {sl : Fin 96} {h : Nat} (hh : (s.slice sl).head = some h)
    (hdue : (if s.slMode sl == 2 then s.mayHold sl h else s.flag Reg.SLC_RATE_STATUS_PAUSED sl) = true)
    (hnew : s.flag Reg.SLC_RATE_STATUS_HOLDING sl = false) :
    exec (.holdStep sl) s = .next ((if s.slMode sl == 2 then (s.holdBegun sl).setSl sl slHolding else s.holdBegun sl).oneTrack h true) := by
  rw [exec, execHoldStep]
  split
  · next hnone => exact absurd (hh.symm.trans hnone) nofun
  · next h' hsome =>
    obtain rfl : h = h' := Option.some.inj (hh.symm.trans hsome)
    refine if_neg (not_or.2 ⟨?_, by rw [hdue]; decide⟩)
    split <;> simp [hnew]

theorem gives_holdStep_read (s : State) (sl : Fin 96) (h : Nat) (hh : (s.slice sl).head = some h) (hmode : s.slMode sl = 1)
    (hpaused : s.flag Reg.SLC_RATE_STATUS_PAUSED sl = true) (hnew : s.flag Reg.SLC_RATE_STATUS_HOLDING sl = false) :
    s.gives (.holdStep sl) fun t => t.flag Reg.SLC_RATE_STATUS_HOLDING sl = true ∧ (t.slice sl).holdAt = some s.now := by
  have hread : ¬(s.slMode sl == 2) = true := by rw [hmode]; decide
  obtain ⟨hflag, hat⟩ := s.holdBegun_spec sl
  refine State.gives_of_exec (exec_holdStep hh (by rw [if_neg hread, hpaused]) hnew) ?_
  rw [if_neg hread]
  exact ⟨((State.oneTrack_keeps ..).flag _ _ (by decide +kernel)).trans hflag,
    (congrArg Slice.holdAt ((State.oneTrack_keeps ..).slice _)).trans hat⟩

theorem gives_holdStep_write (s : State) (sl : Fin 96) (h : Nat) (hh : (s.slice sl).head = some h) (hmode : s.slMode sl = 2)
    (hmay : s.mayHold sl h = true) (hnew : s.flag Reg.SLC_RATE_STATUS_HOLDING sl = false) :
    s.gives (.holdStep sl) fun t => t.flag Reg.SLC_RATE_STATUS_HOLDING sl = true ∧ (t.slice sl).holdAt = some s.now ∧
      t.rd Reg.SLC_STATUS_STATE sl = slHolding := by
  have hwrite : (s.slMode sl == 2) = true := by rw [hmode]; rfl
  obtain ⟨hflag, hat⟩ := s.holdBegun_spec sl
  refine State.gives_of_exec (exec_holdStep hh (by rw [if_pos hwrite, hmay]) hnew) ?_
  rw [if_pos hwrite]
  exact ⟨((State.oneTrack_keeps ..).flag _ _ (by decide +kernel)).trans ((State.flag_wr_ne _ _ _ _ _ _ (by decide)).trans hflag),
    (congrArg Slice.holdAt ((State.oneTrack_keeps ..).slice _)).trans hat,
    ((State.oneTrack_keeps ..).rd _ _ (by decide +kernel)).trans (State.rd_wr_same ..)⟩

/-- Settles O23, one command after the other. -/
theorem slicesServeHeads : Obligations.SlicesServeHeads :=
  ⟨gives_sliceAssign, gives_sliceWait, gives_sliceRelease, gives_sliceReleaseRequest_idle, gives_sliceReleaseRequest_busy,
    gives_sliceStatClear, gives_sliceModeChange_toWrite, gives_sliceModeChange_toRead, gives_eqCommit, gives_eqCommitCopy,
    gives_eqShadowWrite, gives_eqShadowWrite_dropped, gives_rateMatchTick_off, gives_rateMatchTick_falls, gives_readPause,
    gives_readResume, gives_holdStep_read, gives_holdStep_write⟩

end Sys2Proof.Machine
end

section
/-!
PROOF. The recovery ladder (O25): the ladder of a slot, how a rung is left for the next, and how a ladder ends.
-/

set_option Elab.async false

namespace Sys2Proof.Machine

/-! ### The ladder of a slot -/

theorem State.ladder?_congr {s t : State} (h : t.ladders = s.ladders) (sl slot : Nat) : t.ladder? sl slot = s.ladder? sl slot := by
  rw [State.ladder?, State.ladder?, h]

theorem Keeps.ladder? {m : Nat} {s t : State} (h : Keeps m s t) (sl slot : Nat)
    (hm : m.testBit (Part.bit .ladders) = false := by decide +kernel) : t.ladder? sl slot = s.ladder? sl slot :=
  State.ladder?_congr (h.part .ladders hm) sl slot

/-- What is found for a slot is the slot's. -/
theorem State.ladder?_eq {s : State} {sl slot : Nat} {l : Ladder} (h : s.ladder? sl slot = some l) : l.slice = sl ∧ l.slot = slot := by
  simpa using List.find?_some h

/-- A ladder changed under its slot is found there as changed. -/
theorem State.putLadder_ladder? {s : State} {sl slot : Nat} {l l' : Ladder} (hl : s.ladder? sl slot = some l)
    (hat : l'.slice = sl ∧ l'.slot = slot) : (s.putLadder l').ladder? sl slot = some l' := by
  obtain ⟨rfl, rfl⟩ := hat
  simp only [State.ladder?, State.putLadder] at hl ⊢
  generalize s.ladders = ls at hl ⊢
  induction ls with
  | nil => cases hl
  | cons x r ih =>
    rw [List.map_cons, List.find?_cons]
    rw [List.find?_cons] at hl
    obtain hx | hx := Bool.eq_false_or_eq_true (x.slice == l'.slice && x.slot == l'.slot)
    · simp [hx]
    · rw [hx] at hl
      simpa only [hx, Bool.false_eq_true, if_false] using ih hl

/-! ### What the next rung depends on -/

theorem State.ladderCmd_congr {s t : State} (h : t.cmds = s.cmds) {l l' : Ladder} (hu : l'.users = l.users) :
    t.ladderCmd l' = s.ladderCmd l := by
  simp only [State.ladderCmd, hu, State.cmd?_congr h]

theorem State.budgetGone_congr {s t : State} (h : t.now = s.now) (c : Cmd) : t.budgetGone c = s.budgetGone c := by
  rw [State.budgetGone, State.budgetGone, h]

/-- The last rung is 9 (R282). -/
theorem rungOn_le {prof r : Nat} (h : rungOn prof r = true) : r ≤ 9 := by
  simp only [rungOn, Bool.and_eq_true, decide_eq_true_eq] at h
  refine h.1.trans ?_
  unfold clampNat
  split
  · decide
  · split <;> omega

/-- A rung that the profile allows is the next one, where neither the budget nor what the rung needs stands against it. -/
theorem State.rungFrom_of_on {s : State} {l : Ladder} {c : Cmd} {r : Nat} (hon : rungOn c.prof r = true)
    (hbudget : r = 9 ∨ s.budgetGone c = false) (h5 : r ≠ 5) (h7 : r ≠ 7) (n : Nat) : s.rungFrom l c (n + 1) r = (some r, false) := by
  have hle := rungOn_le hon
  rw [State.rungFrom, if_neg (by omega), if_neg (by simp [hon]), if_neg, if_neg (fun h => h7 h.1), if_neg (fun h => h5 h.1)]
  rintro ⟨hr, hgone⟩
  obtain rfl | hb := hbudget
  · omega
  · exact absurd (hb.symm.trans hgone) nofun

/-- No rung comes after rung 9 (R309). -/
theorem State.rungFrom_past (s : State) (l : Ladder) (c : Cmd) (n : Nat) : s.rungFrom l c (n + 1) 10 = (none, false) := by
  rw [State.rungFrom, if_pos (by decide)]

/-- A frame whose command's budget is not over is never too late. -/
theorem State.tooLate_eq_false {s : State} {l : Ladder} {c : Cmd} {i : Nat} (hcmd : s.ladderCmd l = some (c, i))
    (hbudget : s.budgetGone c = false) : s.tooLate l = false := by
  simp [State.tooLate, hcmd, hbudget]

theorem State.laddersRun_of_mode {s : State} (h : s.mode ≠ mKiln) : s.laddersRun = true := bne_iff_ne.2 h

/-! ### A ladder goes on (R285) -/

/-- A ladder at a rung that has not started. -/
def Ladder.atRung (l : Ladder) (r : Nat) : Ladder :=
  { l with started := false, fresh := none, ready := none, tries := 0, rung := r, rereading := l.rereading && rereadRung r }

theorem State.ladderNext_ladders {s : State} {l : Ladder} {c : Cmd} {i r : Nat} (hcmd : s.ladderCmd l = some (c, i))
    (hon : rungOn c.prof r = true) (hbudget : r = 9 ∨ s.budgetGone c = false) (h5 : r ≠ 5) (h7 : r ≠ 7) :
    (s.ladderNext l r).ladders = (s.putLadder (l.atRung r)).ladders := by
  unfold State.ladderNext
  extract_lets s1 l1
  have h1 : Keeps State.endReread_mask s s1 := Keeps.ite (State.endReread_keeps ..) (Keeps.refl _ _)
  have hcmd1 : s1.ladderCmd l1 = some (c, i) := (State.ladderCmd_congr (h1.part .cmds (by decide +kernel)) rfl).trans hcmd
  have hrung : s1.rungFrom l1 c 10 r = (some r, false) :=
    State.rungFrom_of_on hon (hbudget.imp_right fun hb => (State.budgetGone_congr h1.now c).trans hb) h5 h7 9
  have hput : (s1.putLadder (l.atRung r)).ladders = (s.putLadder (l.atRung r)).ladders :=
    congrArg (List.map _) (h1.part .ladders (by decide +kernel))
  simp only [hcmd1, hrung, Bool.or_false]
  split
  · exact hput
  · exact ((State.resumeRead_keeps ..).part .ladders (by decide +kernel)).trans hput

theorem State.ladderNext_ladder? {s : State} {sl slot : Nat} {l l' : Ladder} {c : Cmd} {i r : Nat} (hl : s.ladder? sl slot = some l)
    (hat : l'.slice = sl ∧ l'.slot = slot) (hcmd : s.ladderCmd l' = some (c, i)) (hon : rungOn c.prof r = true)
    (hbudget : r = 9 ∨ s.budgetGone c = false) (h5 : r ≠ 5) (h7 : r ≠ 7) : (s.ladderNext l' r).ladder? sl slot = some (l'.atRung r) :=
  (State.ladder?_congr (State.ladderNext_ladders hcmd hon hbudget h5 h7) ..).trans (State.putLadder_ladder? (l' := l'.atRung r) hl hat)

/-! ### A ladder ends (R265, R297, R309) -/

theorem State.freeEntry_entry (s : State) (sl slot : Nat) : ((s.freeEntry sl slot).slice sl).entry slot = none := by
  have hslice : (s.freeEntry sl slot).slice sl = { s.slice sl with store := (s.slice sl).store.filter fun e => e.slot != slot } :=
    State.putSlice_slice ..
  rw [hslice]
  exact List.find?_eq_none.2 fun e he => by simpa using (List.mem_filter.1 he).2

/-- A ladder that is over is gone, and its entry is free. -/
theorem State.dropLadder_spec (s : State) (l : Ladder) : (s.dropLadder l).ladder? l.slice l.slot = none ∧
    ((s.dropLadder l).slice l.slice).entry l.slot = none := by
  suffices h : ∃ u : State, u.ladder? l.slice l.slot = none ∧
      Keeps (State.showSp_mask ||| State.resumeRead_mask) (u.freeEntry l.slice l.slot) (s.dropLadder l) by
    obtain ⟨u, hgone, hend⟩ := h
    refine ⟨(hend.ladder? ..).trans hgone, ?_⟩
    rw [hend.slice]
    exact u.freeEntry_entry ..
  unfold State.dropLadder
  extract_lets s1 s2
  refine ⟨s2, List.find?_eq_none.2 fun x hx => ?_, Keeps.step (State.resumeRead_keeps ..) (Keeps.mono (State.showSp_keeps ..))⟩
  obtain ⟨-, hother⟩ := List.mem_filter.1 hx
  exact fun hsame => by rw [hsame] at hother; cases hother

theorem State.settle_ladder? (s : State) (sl slot : Nat) : s.settle.ladder? sl slot = s.ladder? sl slot := (State.settle_keeps s).ladder? ..

def State.mismatchEnd_mask : Nat := State.slStat_mask ||| State.raise_mask ||| State.ladderBad_mask ||| State.draw_mask

/-- A frame whose header disagrees with its slot is reported and given up. -/
theorem State.ladderMismatch_spec (s : State) (l : Ladder) (field : Nat) : ∃ u : State, s.ladderMismatch l field = u.settle ∧
    u.flag Reg.SLC_EVT_HEADER_MISMATCH l.slice = true ∧ u.rd Reg.SLC_LAST_RES_OUTCOME l.slice = s.rd Reg.SLC_LAST_RES_OUTCOME l.slice ∧
    (u.slice l.slice).entry l.slot = none ∧ u.ladder? l.slice l.slot = none := by
  unfold State.ladderMismatch
  have hdraw := State.draw_keeps s 32
  generalize s.draw 32 = p at hdraw ⊢
  obtain ⟨code, s0⟩ := p
  dsimp -zeta only
  extract_lets s1 s2
  have h2 : Keeps State.mismatchEnd_mask (s0.set1 Reg.SLC_EVT_HEADER_MISMATCH l.slice) s2 :=
    Keeps.foldl (fun t u => Keeps.mono (State.ladderBad_keeps ..))
      (Keeps.step (State.raise_keeps ..) (Keeps.mono (State.slStat_keeps ..)))
  obtain ⟨hgone, hfree⟩ := s2.dropLadder_spec l
  refine ⟨s2.dropLadder l, rfl, ?_, ?_, hfree, hgone⟩
  · exact ((State.dropLadder_keeps ..).flag _ _ (by decide +kernel)).trans
      ((h2.flag _ _ (by decide +kernel)).trans (State.flag_set1 _ _ (by decide)))
  · exact ((State.dropLadder_keeps ..).rd _ _ (by decide +kernel)).trans ((h2.rd _ _ (by decide +kernel)).trans
      ((State.rd_set1_ne _ _ _ _ _ (by decide)).trans (hdraw.get.rd _ _ (by decide +kernel))))

theorem State.ladderMismatch_ladder? (s : State) {sl slot : Nat} {l : Ladder} (hat : l.slice = sl ∧ l.slot = slot) (field : Nat) :
    (s.ladderMismatch l field).ladder? sl slot = none := by
  obtain ⟨rfl, rfl⟩ := hat
  obtain ⟨u, heq, -, -, -, hgone⟩ := s.ladderMismatch_spec l field
  rw [heq, State.settle_ladder?, hgone]

/-- With rung 9 behind it no command that shares a ladder has a rung left. -/
theorem State.ladderOut_ladder? (n : Nat) (s : State) {l : Ladder} (hdeep : l.deepest = 9) :
    (State.ladderOut n s l).ladder? l.slice l.slot = none := by
  induction n generalizing s l with
  | zero => exact (s.dropLadder_spec l).1
  | succ n ih =>
    unfold State.ladderOut
    split
    · exact (s.dropLadder_spec l).1
    · extract_lets s1 l1
      split
      · exact ih (l := l1) s1 hdeep
      · extract_lets s2
        rw [hdeep, State.rungFrom_past]
        exact ih (l := l1) s2 hdeep

/-- After rung 9 a ladder is over. -/
theorem State.ladderNext_ends {s : State} {sl slot : Nat} {l : Ladder} {c : Cmd} {i : Nat} (hat : l.slice = sl ∧ l.slot = slot)
    (hcmd : s.ladderCmd l = some (c, i)) (hdeep : l.deepest = 9) : (s.ladderNext l 10).ladder? sl slot = none := by
  obtain ⟨rfl, rfl⟩ := hat
  unfold State.ladderNext
  extract_lets s1 l1
  have h1 : Keeps State.endReread_mask s s1 := Keeps.ite (State.endReread_keeps ..) (Keeps.refl _ _)
  have hcmd1 : s1.ladderCmd l1 = some (c, i) := (State.ladderCmd_congr (h1.part .cmds (by decide +kernel)) rfl).trans hcmd
  simp only [hcmd1, State.rungFrom_past]
  rw [State.settle_ladder?]
  exact State.ladderOut_ladder? (l := { l1 with skipped7 := l.skipped7 || false }) _ _ hdeep

/-! ### An attempt is judged (R286) -/

theorem Ladder.learn_hdr_none {l : Ladder} {o : FrameObs} (hl : l.hdr = none) (ho : o.hdr = none) : (l.learn o).hdr = none := by
  simp only [Ladder.learn, hl, ho]

theorem Ladder.learn_hdr_some {l : Ladder} {hd : List Nat} (hl : l.hdr = some hd) (o : FrameObs) : (l.learn o).hdr = some hd := by
  simp only [Ladder.learn, hl]

/-- An attempt without an accepted header has failed. -/
theorem State.judge_of_noHeader {l : Ladder} (h : l.hdr = none) (s : State) (rung : Nat) (get : Nat → Option Nat) (cws : List CwObs)
    (next : State → State) : s.judge l rung get cws next = next ((s.countDecode l.slice cws 0).putLadder l) := by
  rw [State.judge, h]

/-- An attempt is counted before its ladder goes on. -/
theorem State.counted_keeps (s : State) (l : Ladder) (cws : List CwObs) :
    Keeps (State.countDecode_mask ||| State.putLadder_mask) s ((s.countDecode l.slice cws 0).putLadder l) :=
  Keeps.step (State.putLadder_keeps ..) (Keeps.mono (State.countDecode_keeps ..))

theorem State.counted_ladder? {s : State} {sl slot : Nat} {l l' : Ladder} (hl : s.ladder? sl slot = some l)
    (hat : l'.slice = sl ∧ l'.slot = slot) (cws : List CwObs) :
    ((s.countDecode l'.slice cws 0).putLadder l').ladder? sl slot = some l' :=
  State.putLadder_ladder? (((State.countDecode_keeps ..).ladder? ..).trans hl) hat

/-- An attempt that gives no accepted header goes on to the next rung, when the profile allows that one. -/
theorem State.judge_goesOn {s : State} {sl slot : Nat} {l l' : Ladder} {c : Cmd} {i r : Nat} (hl : s.ladder? sl slot = some l)
    (hat : l'.slice = sl ∧ l'.slot = slot) (husers : l'.users = l.users) (hhdr : l'.hdr = none) (hcmd : s.ladderCmd l = some (c, i))
    (hon : rungOn c.prof r = true) (hbudget : r = 9 ∨ s.budgetGone c = false) (h5 : r ≠ 5) (h7 : r ≠ 7) (rung : Nat)
    (get : Nat → Option Nat) (cws : List CwObs) :
    (s.judge l' rung get cws fun t => t.ladderNext l' r).ladder? sl slot = some (l'.atRung r) := by
  have hkeep := s.counted_keeps l' cws
  rw [State.judge_of_noHeader hhdr]
  exact State.ladderNext_ladder? (State.counted_ladder? hl hat cws) hat
    ((State.ladderCmd_congr (hkeep.part .cmds (by decide +kernel)) husers).trans hcmd) hon
    (hbudget.imp_right fun hb => (State.budgetGone_congr hkeep.now c).trans hb) h5 h7

/-- An accepted header that disagrees with the slot ends the ladder. -/
theorem State.judge_mismatch {s : State} {sl slot : Nat} {l : Ladder} {hd : List Nat} {f : Nat} (hat : l.slice = sl ∧ l.slot = slot)
    (hhdr : l.hdr = some hd) (hbad : headerBad hd l.pfa (s.disc (zoneDisc l.zone)).discId l.index = some f) (rung : Nat)
    (get : Nat → Option Nat) (cws : List CwObs) (next : State → State) : (s.judge l rung get cws next).ladder? sl slot = none := by
  rw [State.judge, hhdr]
  simp only [hbad]
  exact State.ladderMismatch_ladder? _ hat f

end Sys2Proof.Machine
end

section
/-!
PROOF. The rungs of the recovery ladder (O25): the first decode, rungs 2 and 3, the re-reads, rungs 8 and 9, and the budget.
-/

set_option Elab.async false

namespace Sys2Proof.Machine

/-! ### Rung 1 (R264, R265) -/

theorem gives_frameDecode_unwanted (s : State) (sl : Fin 96) (slot h : Nat) (e : Soft) (hh : (s.slice sl).head = some h)
    (he : (s.slice sl).entry slot = some e) (hl : s.ladder? sl slot = none) (hw : s.wantedAt h slot = none) :
    s.gives (.frameDecode sl slot) fun t => (t.slice sl).entry slot = none ∧ (t.slice sl).head = some h := by
  let u := (s.putSlice sl ((s.slice sl).putEntry e.headed)).realign sl e.headed
  have hexec : exec (.frameDecode sl slot) s = .next (u.freeEntry sl slot) := by
    rw [exec, execFrameDecode]
    simp only [hh, he, hl, hw]
    rfl
  have hhead : (u.slice sl).head = some h := by
    rw [(State.realign_keeps ..).slice, State.putSlice_slice]
    exact hh
  have hslice : (u.freeEntry sl slot).slice sl = { u.slice sl with store := (u.slice sl).store.filter fun e => e.slot != slot } :=
    State.putSlice_slice ..
  exact State.gives_of_exec hexec ⟨State.freeEntry_entry .., by rw [hslice]; exact hhead⟩

/-- A frame whose header disagrees with its slot is given up with outcome 2. -/
theorem exec_frameDecode_mismatch {s : State} {sl : Fin 96} {slot h zk idx f : Nat} {e : Soft} {hd : List Nat}
    (hh : (s.slice sl).head = some h) (he : (s.slice sl).entry slot = some e) (hl : s.ladder? sl slot = none)
    (hw : s.wantedAt h slot = some (zk, idx)) (hhdr : e.headed.hdr = some hd)
    (hbad : headerBad hd (zonePfa zk slot) (s.disc (zoneDisc zk)).discId idx = some f) :
    ∃ (u : State) (l : Ladder), exec (.frameDecode sl slot) s = .next (u.ladderMismatch l f) ∧
      u.rd Reg.SLC_LAST_RES_OUTCOME sl = 2 ∧ l.slice = sl ∧ l.slot = slot := by
  rw [exec, execFrameDecode]
  simp only [hh, he, hl, hw, hhdr, hbad, Option.bind_some]
  exact ⟨_, _, rfl, State.lastFrame_outcome _ _ _ 2 _ _ _ _ _ (by decide), rfl, rfl⟩

theorem gives_frameDecode_mismatch (s : State) (sl : Fin 96) (slot h zk idx f : Nat) (e : Soft) (hd : List Nat)
    (hh : (s.slice sl).head = some h) (he : (s.slice sl).entry slot = some e) (hl : s.ladder? sl slot = none)
    (hw : s.wantedAt h slot = some (zk, idx)) (hhdr : e.headed.hdr = some hd)
    (hbad : headerBad hd (zonePfa zk slot) (s.disc (zoneDisc zk)).discId idx = some f) :
    s.gives (.frameDecode sl slot) fun t => ∃ u : State, t = u.settle ∧ u.flag Reg.SLC_EVT_HEADER_MISMATCH sl = true ∧
      u.rd Reg.SLC_LAST_RES_OUTCOME sl = 2 ∧ (u.slice sl).entry slot = none := by
  obtain ⟨v, l, hexec, hout, hslice, hslot⟩ := exec_frameDecode_mismatch hh he hl hw hhdr hbad
  obtain ⟨u, heq, hflag, hres, hfree, -⟩ := v.ladderMismatch_spec l f
  rw [hslice] at hflag hres hfree
  rw [hslot] at hfree
  exact State.gives_of_exec hexec ⟨u, heq, hflag, hres.trans hout, hfree⟩

/-- A command has a frame at the ladder: its budget runs from the first of them. -/
def Cmd.laddered (i now : Nat) (c : Cmd) : Cmd :=
  { c.setFrame i fun f => { f with fate := .ladder } with
      budgetFrom := match c.budgetFrom with | some b => some b | none => some now }

/-- A command changed under a queue and tag is found as changed, any other as it was. -/
theorem State.cmd?_updCmd_any (s : State) (a b sq tag : Nat) {f : Cmd → Cmd} (hf : ∀ c, (f c).sq = c.sq ∧ (f c).tag = c.tag) :
    (s.updCmd a b f).cmd? sq tag = (s.cmd? sq tag).map fun c => if c.sq == a && c.tag == b then f c else c := by
  simp only [State.cmd?, State.updCmd, List.find?_map]
  congr 2
  funext c
  obtain ⟨hsq, htag⟩ := hf c
  simp only [Function.comp_apply]
  split <;> simp only [hsq, htag]

/-- A command whose frames go to the ladder keeps its profile; its budget, where none ran yet, runs from now. -/
theorem State.markLadder_cmd? {s : State} {sq tag : Nat} {c : Cmd} (us : List Sharer) (hc : s.cmd? sq tag = some c) :
    ∃ c', (s.markLadder us).cmd? sq tag = some c' ∧ c'.prof = c.prof ∧ c'.budgetOut = c.budgetOut ∧
      (c'.budgetFrom = c.budgetFrom ∨ c'.budgetFrom = some s.now) := by
  induction us generalizing s c with
  | nil => exact ⟨c, hc, rfl, rfl, .inl rfl⟩
  | cons u r ih =>
    let c1 := if c.sq == u.sq && c.tag == u.tag then c.laddered u.idx s.now else c
    have hc1 : (s.updCmd u.sq u.tag (Cmd.laddered u.idx s.now)).cmd? sq tag = some c1 := by
      rw [State.cmd?_updCmd_any (f := Cmd.laddered u.idx s.now) _ _ _ _ _ fun _ => ⟨rfl, rfl⟩, hc]
      rfl
    have hkept : c1.prof = c.prof ∧ c1.budgetOut = c.budgetOut ∧ (c1.budgetFrom = c.budgetFrom ∨ c1.budgetFrom = some s.now) := by
      unfold c1
      split
      · refine ⟨rfl, rfl, ?_⟩
        cases hb : c.budgetFrom <;> simp [Cmd.laddered, hb]
      · exact ⟨rfl, rfl, .inl rfl⟩
    obtain ⟨hprof, hout, hfrom⟩ := hkept
    obtain ⟨c2, hc2, hprof2, hout2, hfrom2⟩ := ih hc1
    refine ⟨c2, hc2, hprof2.trans hprof, hout2.trans hout, ?_⟩
    obtain hsame | hnow := hfrom2
    · exact hfrom.imp hsame.trans hsame.trans
    · exact .inr hnow

/-- A budget that does not run, or runs from now, is not over. -/
theorem State.budgetGone_eq_false {s : State} {c : Cmd} (hout : c.budgetOut = false)
    (hfrom : c.budgetFrom = none ∨ c.budgetFrom = some s.now) : s.budgetGone c = false := by
  rw [State.budgetGone, hout, Bool.false_or]
  obtain hnone | hnow := hfrom
  · simp [hnone]
  · rw [hnow, Bool.and_eq_false_iff, bne_eq_false_iff_eq, decide_eq_false_iff_not]
    obtain h0 | hpos := Nat.eq_zero_or_pos (c.prof / 2 ^ 16)
    · exact .inl h0
    · have hms : 0 < c.prof / 2 ^ 16 * msCycles := Nat.mul_pos hpos (by decide)
      exact .inr (by omega)

/-- The first decode of a frame has failed: it is aligned to, counted and shown. -/
def State.frameFailed (s : State) (sl pfa : Nat) (e : Soft) (o : FrameObs) : State :=
  let s1 := (s.putSlice sl ((s.slice sl).putEntry e)).realign sl e
  ((s1.countDecode sl o.cws 0).lastFrame sl pfa 1 (headerCopies (e.content 0 0)).length e.trailRows.length (badWords o.cws).length
    (min 63 (o.cws.foldl (fun a c => max a c.iters) 0)) (!e.missed.isEmpty)).slStat sl 1 1

def State.frameFailed_mask : Nat := State.putSlice_mask ||| State.realign_mask ||| State.countDecode_mask ||| State.lastFrame_mask |||
  State.slStat_mask

theorem State.frameFailed_keeps (s : State) (sl pfa : Nat) (e : Soft) (o : FrameObs) :
    Keeps State.frameFailed_mask s (s.frameFailed sl pfa e o) := by
  unfold State.frameFailed
  exact Keeps.step (State.slStat_keeps ..) (Keeps.step (State.lastFrame_keeps ..) (Keeps.step (State.countDecode_keeps ..)
    (Keeps.step (State.realign_keeps ..) (Keeps.mono (State.putSlice_keeps ..)))))

/-- The ladder of a frame whose first decode gave no header, for every command that wants the frame. -/
def State.firstLadder (s : State) (sl h slot zk idx : Nat) (e : Soft) (o : FrameObs) : Ladder :=
  { slice := sl, head := h, slot := slot, zone := zk, index := idx, users := s.usersOf zk idx, soft := e, hdr := none,
    failing := badWords o.cws, bank := bankIn [] o.cws, best := bestIn [] o.cws }

/-- A frame stands at the ladder. -/
def State.withLadder (s : State) (l : Ladder) : State :=
  { s.markLadder l.users with ladders := (s.markLadder l.users).ladders ++ [l] }

theorem State.withLadder_ladder? {s : State} {sl slot : Nat} {l : Ladder} (hl : s.ladder? sl slot = none)
    (hat : l.slice = sl ∧ l.slot = slot) : (s.withLadder l).ladder? sl slot = some l := by
  have hold : (s.markLadder l.users).ladder? sl slot = none := ((State.markLadder_keeps ..).ladder? ..).trans hl
  obtain ⟨rfl, rfl⟩ := hat
  rw [State.ladder?] at hold ⊢
  simp [State.withLadder, List.find?_append, hold]

/-- A complete frame with no accepted header goes to the ladder. -/
theorem exec_frameDecode_noHeader {s : State} {sl : Fin 96} {slot h zk idx : Nat} {e : Soft} (hh : (s.slice sl).head = some h)
    (he : (s.slice sl).entry slot = some e) (hl : s.ladder? sl slot = none) (hcomplete : (s.slice sl).complete e.headed = true)
    (hw : s.wantedAt h slot = some (zk, idx)) (hhdr : e.headed.hdr = none) :
    ∃ o : FrameObs, exec (.frameDecode sl slot) s = .next (((s.frameFailed sl (zonePfa zk slot) e.headed o).withLadder
      (s.firstLadder sl h slot zk idx e.headed o)).ladderNext (s.firstLadder sl h slot zk idx e.headed o) 2) := by
  refine ⟨decodeSoft (s.maxIter sl) e.headed [] fun _ => none, ?_⟩
  rw [exec, execFrameDecode]
  simp only [hh, he, hl, hw, hhdr, hcomplete, Option.bind_none]
  exact (if_neg Bool.false_ne_true).trans (if_neg Bool.false_ne_true)

theorem gives_frameDecode_noHeader (s : State) (sl : Fin 96) (slot h zk idx : Nat) (e : Soft) (u : Sharer) (us : List Sharer) (c : Cmd)
    (hh : (s.slice sl).head = some h) (he : (s.slice sl).entry slot = some e) (hl : s.ladder? sl slot = none)
    (hcomplete : (s.slice sl).complete e.headed = true) (hw : s.wantedAt h slot = some (zk, idx)) (hhdr : e.headed.hdr = none)
    (hus : s.usersOf zk idx = u :: us) (hc : s.cmd? u.sq u.tag = some c) (hon : rungOn c.prof 2 = true) (hfrom : c.budgetFrom = none)
    (hout : c.budgetOut = false) :
    s.gives (.frameDecode sl slot) fun t => (t.ladder? sl slot).map (fun l => (l.rung, l.zone, l.index, l.head)) =
      some (2, zk, idx, h) := by
  obtain ⟨o, hexec⟩ := exec_frameDecode_noHeader hh he hl hcomplete hw hhdr
  let l := s.firstLadder sl h slot zk idx e.headed o
  let v := s.frameFailed sl (zonePfa zk slot) e.headed o
  have hv : Keeps State.frameFailed_mask s v := State.frameFailed_keeps ..
  have hcv : v.cmd? u.sq u.tag = some c := (State.cmd?_congr (hv.part .cmds (by decide +kernel)) ..).trans hc
  obtain ⟨c', hc', hprof', hout', hfrom'⟩ := State.markLadder_cmd? l.users hcv
  have hnow : (v.withLadder l).now = v.now := (State.markLadder_keeps v l.users).now
  have hcmd : (v.withLadder l).ladderCmd l = some (c', u.idx) := by
    rw [State.ladderCmd, show l.users = u :: us from hus]
    exact congrArg (Option.map fun c => (c, u.idx)) hc'
  have hbudget : (v.withLadder l).budgetGone c' = false :=
    State.budgetGone_eq_false (hout'.trans hout) (by rwa [hfrom, ← hnow] at hfrom')
  have hfound := State.withLadder_ladder? (l := l) ((hv.ladder? ..).trans hl) ⟨rfl, rfl⟩
  have hnext := State.ladderNext_ladder? (r := 2) hfound ⟨rfl, rfl⟩ hcmd (by rwa [hprof']) (.inr hbudget) (by decide) (by decide)
  exact State.gives_of_exec hexec (by rw [hnext]; rfl)

/-! ### Rungs 2 and 3 (R290 to R295) -/

/-- The frame is decoded again from its stored values, but for the codewords that have passed. -/
def Ladder.redecoded (l : Ladder) : FrameObs :=
  decodeSoft ladderIters l.soft [] fun k => if l.failing.contains k then none else (l.banked k).map fun i => ⟨i, ldpcParity i, 0, 0⟩

theorem Ladder.redecoded_hdr (l : Ladder) : l.redecoded.hdr = headerOf [(l.soft.contents []).getD 0 #[]] := by
  rw [Ladder.redecoded, decodeSoft]

/-- What the ladder knows after rung 2. -/
def Ladder.afterRung2 (l : Ladder) (o : FrameObs) : Ladder := { l.learn o with deepest := 2, shares := rowShares o.cws }

theorem exec_ladderRungDecode {s : State} {sl : Fin 96} {slot : Nat} {l : Ladder} (hl : s.ladder? sl slot = some l) (hr : l.rung = 2)
    (hmode : s.mode ≠ mKiln) (hlate : s.tooLate l = false) :
    exec (.ladderRungDecode sl slot) s = .next (s.judge (l.afterRung2 l.redecoded) 2 (obsWord l.redecoded.cws)
      l.redecoded.cws fun t => t.ladderNext (l.afterRung2 l.redecoded) 3) := by
  rw [exec, execLadderRungDecode]
  simp only [hl]
  rw [if_neg (by simp [hr, State.laddersRun_of_mode hmode]), if_neg (by simp [hlate])]
  rfl

theorem gives_ladderRungDecode_goesOn (s : State) (sl : Fin 96) (slot : Nat) (l : Ladder) (c : Cmd) (i : Nat)
    (hl : s.ladder? sl slot = some l) (hr : l.rung = 2) (hmode : s.mode ≠ mKiln) (_ : l.started = false) (hhdr : l.hdr = none)
    (hnone : headerOf [(l.soft.contents []).getD 0 #[]] = none) (hcmd : s.ladderCmd l = some (c, i)) (hon : rungOn c.prof 3 = true)
    (hbudget : s.budgetGone c = false) :
    s.gives (.ladderRungDecode sl slot) fun t => (t.ladder? sl slot).map (fun x => (x.rung, x.deepest)) = some (3, 2) := by
  have hexec := exec_ladderRungDecode hl hr hmode (State.tooLate_eq_false hcmd hbudget)
  have ho : l.redecoded.hdr = none := l.redecoded_hdr.trans hnone
  generalize l.redecoded = o at hexec ho
  have hnext := State.judge_goesOn (l' := l.afterRung2 o) (r := 3) hl (State.ladder?_eq hl :) rfl (Ladder.learn_hdr_none hhdr ho) hcmd hon
    (.inr hbudget) (by decide) (by decide) 2 (obsWord o.cws) o.cws
  exact State.gives_of_exec hexec (by rw [hnext]; rfl)

theorem gives_ladderRungDecode_mismatch (s : State) (sl : Fin 96) (slot : Nat) (l : Ladder) (hd : List Nat) (f : Nat)
    (hl : s.ladder? sl slot = some l) (hr : l.rung = 2) (hmode : s.mode ≠ mKiln) (hlate : s.tooLate l = false) (hhdr : l.hdr = some hd)
    (hbad : headerBad hd l.pfa (s.disc (zoneDisc l.zone)).discId l.index = some f) :
    s.gives (.ladderRungDecode sl slot) fun t => t.ladder? sl slot = none := by
  have hexec := exec_ladderRungDecode hl hr hmode hlate
  generalize l.redecoded = o at hexec
  exact State.gives_of_exec hexec
    (State.judge_mismatch (l := l.afterRung2 o) (State.ladder?_eq hl :) (Ladder.learn_hdr_some hhdr o) hbad ..)

/-- A frame whose rung has not started when the budget is over goes on to rung 9. -/
theorem gives_ladderRungDecode_tooLate (s : State) (sl : Fin 96) (slot : Nat) (l : Ladder) (c : Cmd) (i : Nat)
    (hl : s.ladder? sl slot = some l) (hr : l.rung = 2) (hmode : s.mode ≠ mKiln) (hlate : s.tooLate l = true)
    (hcmd : s.ladderCmd l = some (c, i)) (hon : rungOn c.prof 9 = true) :
    s.gives (.ladderRungDecode sl slot) fun t => (t.ladder? sl slot).map (fun x => x.rung) = some 9 := by
  have hexec : exec (.ladderRungDecode sl slot) s = .next (s.ladderNext l 9) := by
    rw [exec, execLadderRungDecode]
    simp only [hl]
    rw [if_neg (by simp [hr, State.laddersRun_of_mode hmode]), if_pos hlate]
  have hnext := State.ladderNext_ladder? hl (State.ladder?_eq hl) hcmd hon (.inl rfl) (by decide) (by decide)
  exact State.gives_of_exec hexec (by rw [hnext]; rfl)

/-- What the ladder knows after rung 3: its first copy is the read it began with, under the shifts kept. -/
def Ladder.afterRung3 (l : Ladder) (shifts : List (Nat × Int)) (o : FrameObs) : Ladder :=
  { l.learn o with deepest := 3, copies := [{ soft := l.soft, failing := (badWords o.cws).length, shifts := shifts }] }

theorem exec_rowShiftSearch {s : State} {sl : Fin 96} {slot : Nat} {l : Ladder} (hl : s.ladder? sl slot = some l) (hr : l.rung = 3)
    (hmode : s.mode ≠ mKiln) (hlate : s.tooLate l = false) {shifts : List (Nat × Int)} {o : FrameObs}
    (hshift : rowShift l.soft l.shares l.hdr.isSome = (shifts, o)) :
    exec (.rowShiftSearch sl slot) s = .next (s.judge (l.afterRung3 shifts o) 3 (obsWord o.cws) o.cws fun t =>
      t.ladderNext (l.afterRung3 shifts o) 4) := by
  rw [exec, execRowShiftSearch]
  simp only [hl]
  rw [if_neg (by simp [hr, State.laddersRun_of_mode hmode]), if_neg (by simp [hlate]), hshift]
  rfl

theorem gives_rowShiftSearch_mismatch (s : State) (sl : Fin 96) (slot : Nat) (l : Ladder) (hd : List Nat) (f : Nat)
    (hl : s.ladder? sl slot = some l) (hr : l.rung = 3) (hmode : s.mode ≠ mKiln) (hlate : s.tooLate l = false) (hhdr : l.hdr = some hd)
    (hbad : headerBad hd l.pfa (s.disc (zoneDisc l.zone)).discId l.index = some f) :
    s.gives (.rowShiftSearch sl slot) fun t => t.ladder? sl slot = none := by
  generalize hshift : rowShift l.soft l.shares l.hdr.isSome = q
  obtain ⟨shifts, o⟩ := q
  exact State.gives_of_exec (exec_rowShiftSearch hl hr hmode hlate hshift)
    (State.judge_mismatch (l := l.afterRung3 shifts o) (State.ladder?_eq hl :) (Ladder.learn_hdr_some hhdr _) hbad ..)

theorem gives_rowShiftSearch_goesOn (s : State) (sl : Fin 96) (slot : Nat) (l : Ladder) (c : Cmd) (i : Nat)
    (hl : s.ladder? sl slot = some l) (hr : l.rung = 3) (hmode : s.mode ≠ mKiln) (_ : l.started = false) (hhdr : l.hdr = none)
    (hnone : (rowShift l.soft l.shares false).2.hdr = none) (hcmd : s.ladderCmd l = some (c, i)) (hon : rungOn c.prof 4 = true)
    (hbudget : s.budgetGone c = false) :
    s.gives (.rowShiftSearch sl slot) fun t => (t.ladder? sl slot).map (fun x => (x.rung, x.deepest, x.copies.length)) =
      some (4, 3, 1) := by
  generalize hshift : rowShift l.soft l.shares false = q at hnone
  obtain ⟨shifts, o⟩ := q
  have hexec := exec_rowShiftSearch hl hr hmode (State.tooLate_eq_false hcmd hbudget) (shifts := shifts) (o := o)
    (by rw [hhdr]; exact hshift)
  have hnext := State.judge_goesOn (l' := l.afterRung3 shifts o) (r := 4) hl (State.ladder?_eq hl :) rfl
    (Ladder.learn_hdr_none (o := o) hhdr hnone) hcmd hon (.inr hbudget) (by decide) (by decide) 3 (obsWord o.cws) o.cws
  exact State.gives_of_exec hexec (by rw [hnext]; rfl)

/-! ### Re-reads (R296 to R302) -/

theorem gives_ladderSlotClaim (s : State) (sl : Fin 96) (slot i : Nat) (l : Ladder) (hl : s.ladder? sl slot = some l)
    (hr : rereadRung l.rung = true) (hpool : l.pool = none) (hmode : s.mode ≠ mKiln) (hwait : s.ladderWait = [])
    (hfree : ((upTo 64).find? fun i => !(s.ladders.filterMap fun x => x.pool).contains i) = some i) :
    s.gives (.ladderSlotClaim sl slot) fun t => (t.ladder? sl slot).map (fun x => x.pool) = some (some i) ∧
      (t.slice sl).entry slot = none := by
  let v : State := { s with ladderWait := [] }
  let l' : Ladder := { l with
    pool := some i, copies := if l.copies.isEmpty then [{ soft := l.soft, failing := l.failing.length }] else l.copies }
  have hexec : exec (.ladderSlotClaim sl slot) s = .next ((v.freeEntry sl slot).putLadder l') := by
    rw [exec, execLadderSlotClaim]
    simp only [hl]
    rw [if_neg (by simp [hr, hpool, State.laddersRun_of_mode hmode])]
    simp only [hfree, hwait]
    rfl
  have hput := State.putLadder_ladder? (l' := l') (((State.freeEntry_keeps v sl slot).ladder? ..).trans hl) (State.ladder?_eq hl :)
  exact State.gives_of_exec hexec ⟨by rw [hput]; rfl, v.freeEntry_entry ..⟩

/-- A ladder whose next re-read, number k of rung r, is under way. -/
def Ladder.retried (l : Ladder) (r k : Nat) (skipped : Bool) : Ladder :=
  { l with rung := r, started := true, tries := k + 1, deepest := max l.deepest r, rereading := true,
           fresh := some { slot := l.slot }, skipped7 := l.skipped7 || skipped }

def State.retryAsked_mask : Nat := State.showSp_mask ||| State.putSlice_mask ||| State.askHead_mask

/-- The settings of the re-read are applied, the ladder shows it, and the head is asked to return to the slot. -/
theorem exec_ladderReread {s : State} {sl : Fin 96} {slot r k : Nat} {sk : Bool} {l : Ladder} (hl : s.ladder? sl slot = some l)
    (hr : rereadRung l.rung = true) (hpool : l.pool ≠ none) (hfresh : l.fresh = none) (hmode : s.mode ≠ mKiln)
    (hmay : s.mayReread l = true) (hlate : s.tooLate l = false) (htry : s.nextTry l = (some (r, k), sk)) :
    ∃ t, Keeps State.retryAsked_mask (((s.endReread l).applyTry l r k).putLadder (l.retried r k sk)) t ∧
      exec (.ladderReread sl slot) s = .next t := by
  rw [exec, execLadderReread]
  simp only [hl]
  rw [if_neg (by simp [hr, hpool, hfresh, hmay, State.laddersRun_of_mode hmode]), if_neg (by simp [hlate])]
  simp only [htry]
  split
  · exact ⟨_, Keeps.mono (State.showSp_keeps ..), rfl⟩
  · refine ⟨_, Keeps.step (State.askHead_keeps ..) ?_, rfl⟩
    have hoff (x : Slice) (v : State) : Keeps State.retryAsked_mask v ((v.showSp (l.head / 2)).putSlice sl x) :=
      Keeps.step (State.putSlice_keeps ..) (Keeps.mono (State.showSp_keeps ..))
    exact Keeps.ite (hoff _ _) (Keeps.step (State.askHead_keeps ..) (hoff _ _))

theorem gives_ladderReread (s : State) (sl : Fin 96) (slot r k : Nat) (sk : Bool) (l : Ladder) (hl : s.ladder? sl slot = some l)
    (hr : rereadRung l.rung = true) (hpool : l.pool ≠ none) (hfresh : l.fresh = none) (hmode : s.mode ≠ mKiln)
    (hmay : s.mayReread l = true) (hlate : s.tooLate l = false) (htry : s.nextTry l = (some (r, k), sk)) :
    s.gives (.ladderReread sl slot) fun t => (t.ladder? sl slot).map (fun x => (x.rung, x.started, x.tries, x.rereading, x.fresh)) =
      some (r, true, k + 1, true, some { slot := l.slot }) := by
  obtain ⟨t, ht, hexec⟩ := exec_ladderReread hl hr hpool hfresh hmode hmay hlate htry
  have happly : ((s.endReread l).applyTry l r k).ladder? sl slot = some l :=
    ((State.applyTry_keeps ..).ladder? ..).trans (((State.endReread_keeps ..).ladder? ..).trans hl)
  have hput := State.putLadder_ladder? (l' := l.retried r k sk) happly (State.ladder?_eq hl :)
  exact State.gives_of_exec hexec (by rw [ht.ladder?, hput]; rfl)

theorem putCopy_length {cs : List Copy} (h : cs.length < 4) (c : Copy) : (putCopy cs c).length = cs.length + 1 := by
  rw [putCopy, if_pos h, List.length_append, List.length_singleton]

/-- A re-read that was decoded, as a copy: the youngest of the ladder's. -/
def Ladder.rereadCopy (l : Ladder) (e : Soft) (shifts : List (Nat × Int)) (o : FrameObs) : Copy :=
  { soft := e, failing := (badWords o.cws).length, age := l.copies.foldl (fun a c => max a c.age) 0 + 1, shifts := shifts }

/-- What the ladder knows after a re-read was decoded in vain while the next one, f, is in progress. -/
def Ladder.afterReread (l : Ladder) (e f : Soft) (o1 : FrameObs) (shifts : List (Nat × Int)) (o : FrameObs) : Ladder :=
  { (l.learn o1).learn o with ready := none, fresh := some f, copies := putCopy l.copies (l.rereadCopy e shifts o) }

theorem exec_rereadDecode {s : State} {sl : Fin 96} {slot r : Nat} {e f : Soft} {l : Ladder} (hl : s.ladder? sl slot = some l)
    (hready : l.ready = some (r, e)) (hfresh : l.fresh = some f) (hpart : f.full = false) (hmode : s.mode ≠ mKiln) (hhdr : l.hdr = none)
    {o1 o : FrameObs} {shifts : List (Nat × Int)} (htry : rereadTry e none l.pfa = (o1, shifts, o)) (h1 : o1.hdr = none)
    (h2 : o.hdr = none) :
    exec (.rereadDecode sl slot) s = .next ((s.countDecode l.slice o.cws 0).putLadder (l.afterReread e f o1 shifts o)) := by
  have hnone : (l.afterReread e f o1 shifts o).hdr = none := Ladder.learn_hdr_none (Ladder.learn_hdr_none hhdr h1) h2
  rw [exec, execRereadDecode]
  simp only [hl, hready, hhdr, htry, hfresh, hpart]
  rw [if_neg (by simp [State.laddersRun_of_mode hmode])]
  exact congrArg _ ((State.judge_of_noHeader hnone ..).trans (if_pos rfl))

theorem gives_rereadDecode (s : State) (sl : Fin 96) (slot r : Nat) (e f : Soft) (l : Ladder) (hl : s.ladder? sl slot = some l)
    (hready : l.ready = some (r, e)) (hfresh : l.fresh = some f) (hpart : f.full = false) (hmode : s.mode ≠ mKiln) (hhdr : l.hdr = none)
    (h1 : (rereadTry e none l.pfa).1.hdr = none) (h2 : (rereadTry e none l.pfa).2.2.hdr = none) (hroom : l.copies.length < 4) :
    s.gives (.rereadDecode sl slot) fun t => (t.ladder? sl slot).map (fun x => (x.rung, x.ready.isNone, x.fresh, x.copies.length)) =
      some (l.rung, true, some f, l.copies.length + 1) := by
  generalize htry : rereadTry e none l.pfa = q at h1 h2
  obtain ⟨o1, shifts, o⟩ := q
  have hexec := exec_rereadDecode hl hready hfresh hpart hmode hhdr htry h1 h2
  have hput := State.counted_ladder? (l' := l.afterReread e f o1 shifts o) hl (State.ladder?_eq hl :) o.cws
  have hcopies : (l.afterReread e f o1 shifts o).copies.length = l.copies.length + 1 := putCopy_length hroom _
  refine State.gives_of_exec hexec ?_
  rw [show (s.countDecode l.slice o.cws 0) = s.countDecode (l.afterReread e f o1 shifts o).slice o.cws 0 from rfl, hput, Option.map_some,
    hcopies]
  rfl

/-! ### Rungs 8 and 9 (R308 to R310) -/

/-- The summed copies of a frame as a decode sees them. -/
def Ladder.combined (l : Ladder) : FrameObs :=
  { hdr := headerOf (l.copies.map fun c => c.soft.content (mget 0 c.shifts 0) 0), copies := 0,
    cws := decodeWords (readWeight / 4) ladderIters (sumCopies l.copies) fun _ => none }

theorem Ladder.combined_hdr (l : Ladder) :
    l.combined.hdr = headerOf (l.copies.map fun c => c.soft.content (mget 0 c.shifts 0) 0) := by
  rw [Ladder.combined]

/-- What the ladder knows after rung 8. -/
def Ladder.afterRung8 (l : Ladder) (o : FrameObs) : Ladder := { l.learn o with deepest := 8 }

theorem exec_softCombine {s : State} {sl : Fin 96} {slot : Nat} {l : Ladder} (hl : s.ladder? sl slot = some l) (hr : l.rung = 8)
    (hmode : s.mode ≠ mKiln) (hfresh : l.fresh = none) (hready : l.ready = none) (hfull : 4 ≤ l.copies.length)
    (hlate : s.tooLate l = false) :
    exec (.softCombine sl slot) s = .next (s.judge (l.afterRung8 l.combined) 8 (obsWord l.combined.cws) l.combined.cws fun t =>
      t.ladderNext (l.afterRung8 l.combined) 9) := by
  rw [exec, execSoftCombine]
  simp only [hl]
  rw [if_neg (by simp [hr, hfresh, hready, hfull, State.laddersRun_of_mode hmode]), if_neg (by simp [hlate])]
  rfl

/-- A frame that rung 8 does not decode goes on to rung 9. -/
theorem State.judge_afterRung8 {s : State} {sl slot : Nat} {l : Ladder} {c : Cmd} {i : Nat} {o : FrameObs}
    (hl : s.ladder? sl slot = some l) (hhdr : l.hdr = none) (ho : o.hdr = none) (hcmd : s.ladderCmd l = some (c, i))
    (hon : rungOn c.prof 9 = true) :
    ((s.judge (l.afterRung8 o) 8 (obsWord o.cws) o.cws fun t => t.ladderNext (l.afterRung8 o) 9).ladder? sl slot).map
      (fun x => (x.rung, x.deepest)) = some (9, 8) := by
  have hat := State.ladder?_eq hl
  have hat8 : (l.afterRung8 o).slice = sl ∧ (l.afterRung8 o).slot = slot := hat
  have husers : (l.afterRung8 o).users = l.users := rfl
  have hhdr8 : (l.afterRung8 o).hdr = none := Ladder.learn_hdr_none hhdr ho
  rw [State.judge_goesOn (l' := l.afterRung8 o) (r := 9) hl hat8 husers hhdr8 hcmd hon (.inl rfl) (by decide) (by decide)]
  rfl

theorem gives_softCombine (s : State) (sl : Fin 96) (slot : Nat) (l : Ladder) (c : Cmd) (i : Nat) (hl : s.ladder? sl slot = some l)
    (hr : l.rung = 8) (hmode : s.mode ≠ mKiln) (_ : l.started = false) (hfresh : l.fresh = none) (hready : l.ready = none)
    (hfull : 4 ≤ l.copies.length) (hhdr : l.hdr = none) (hlate : s.tooLate l = false)
    (hnone : headerOf (l.copies.map fun c => c.soft.content (mget 0 c.shifts 0) 0) = none) (hcmd : s.ladderCmd l = some (c, i))
    (hon : rungOn c.prof 9 = true) :
    s.gives (.softCombine sl slot) fun t => (t.ladder? sl slot).map (fun x => (x.rung, x.deepest)) = some (9, 8) := by
  have hexec := exec_softCombine hl hr hmode hfresh hready hfull hlate
  have ho : l.combined.hdr = none := l.combined_hdr.trans hnone
  exact State.gives_of_exec hexec (State.judge_afterRung8 hl hhdr ho hcmd hon)

theorem gives_outerErasureDecode (s : State) (sl : Fin 96) (slot : Nat) (l : Ladder) (c : Cmd) (i : Nat) (hl : s.ladder? sl slot = some l)
    (hr : l.rung = 9) (hmode : s.mode ≠ mKiln) (hhdr : l.hdr = none) (hcmd : s.ladderCmd l = some (c, i)) (hon : rungOn c.prof 9 = true) :
    s.gives (.outerErasureDecode sl slot) fun t => t.ladder? sl slot = none := by
  let l9 : Ladder := { l with deepest := 9 }
  let u := (s.countDecode l9.slice [] 0).putLadder l9
  have hexec : exec (.outerErasureDecode sl slot) s = .next (u.ladderNext l9 10) := by
    rw [exec, execOuterErasureDecode]
    simp only [hl]
    rw [if_neg (by simp [hr, State.laddersRun_of_mode hmode])]
    simp only [hcmd]
    rw [if_neg (by simp [hon])]
    exact congrArg _ (State.judge_of_noHeader (l := l9) hhdr ..)
  have hcmd9 : u.ladderCmd l9 = some (c, i) :=
    (State.ladderCmd_congr ((s.counted_keeps l9 []).part .cmds (by decide +kernel)) rfl).trans hcmd
  exact State.gives_of_exec hexec (State.ladderNext_ends (State.ladder?_eq hl :) hcmd9 rfl)

/-! ### The budget (R287, R288) -/

/-- A command's budget is over at a moment. -/
def State.budgetOver (s : State) (sq tag due : Nat) : State := (s.advanceTo due).updCmd sq tag fun x => { x with budgetOut := true }

/-- A frame of a command whose rung, before the last, has not started. -/
def Ladder.waits (sq tag : Nat) (l : Ladder) : Bool :=
  !l.started && l.rung ≤ 8 && (match l.users with | u :: _ => u.sq == sq && u.tag == tag | [] => false)

theorem State.budgetOver_cmd? {s : State} {sq tag : Nat} {c : Cmd} (hc : s.cmd? sq tag = some c) (due : Nat) :
    (s.budgetOver sq tag due).cmd? sq tag = some { c with budgetOut := true } := by
  have hadv : (s.advanceTo due).cmd? sq tag = some c := (State.cmd?_congr (s.advance_cmds _) ..).trans hc
  rw [State.budgetOver, State.cmd?_updCmd (f := fun x => { x with budgetOut := true }) _ _ _ fun _ => ⟨rfl, rfl⟩, hadv]
  rfl

theorem State.budgetOver_ladders (s : State) (sq tag due : Nat) : (s.budgetOver sq tag due).ladders = s.ladders :=
  s.advance_ladders (due - s.now)

theorem State.le_budgetOver_now (s : State) (sq tag due : Nat) : due ≤ (s.budgetOver sq tag due).now := s.le_advanceTo_now due

theorem exec_ladderBudgetExpire {s : State} {sq tag t0 : Nat} {c : Cmd} (hc : s.cmd? sq tag = some c) (hfrom : c.budgetFrom = some t0)
    (hprof : c.prof / 2 ^ 16 ≠ 0) (hout : c.budgetOut = false) (hmode : s.mode ≠ mKiln) (hphase : c.phase = .started) :
    exec (.ladderBudgetExpire sq tag) s = .next ((s.ladders.filter (Ladder.waits sq tag)).foldl (fun t l => t.ladderNext l 9)
      (s.budgetOver sq tag (t0 + c.prof / 2 ^ 16 * msCycles))) := by
  rw [exec, execLadderBudgetExpire, ← s.budgetOver_ladders sq tag (t0 + c.prof / 2 ^ 16 * msCycles)]
  simp only [hc, hfrom]
  rw [if_neg (by simp only [hprof, hout, hphase, State.laddersRun_of_mode hmode]; decide)]
  rfl

theorem gives_ladderBudgetExpire_started (s : State) (sq tag t0 : Nat) (c : Cmd) (hc : s.cmd? sq tag = some c)
    (hfrom : c.budgetFrom = some t0) (hprof : c.prof / 2 ^ 16 ≠ 0) (hout : c.budgetOut = false) (hmode : s.mode ≠ mKiln)
    (hphase : c.phase = .started) (hall : ∀ l ∈ s.ladders, l.started = true) :
    s.gives (.ladderBudgetExpire sq tag) fun t => (t.cmd? sq tag).map (fun x => x.budgetOut) = some true ∧
      t0 + c.prof / 2 ^ 16 * msCycles ≤ t.now ∧ t.ladders = s.ladders := by
  have hwaits : s.ladders.filter (Ladder.waits sq tag) = [] :=
    List.filter_eq_nil_iff.2 fun l hl => by simp [Ladder.waits, hall l hl]
  have hexec := exec_ladderBudgetExpire hc hfrom hprof hout hmode hphase
  rw [hwaits, List.foldl_nil] at hexec
  exact State.gives_of_exec hexec ⟨by rw [State.budgetOver_cmd? hc]; rfl, s.le_budgetOver_now .., s.budgetOver_ladders ..⟩

theorem gives_ladderBudgetExpire_waiting (s : State) (sq tag t0 : Nat) (c : Cmd) (l : Ladder) (u : Sharer) (us : List Sharer)
    (hc : s.cmd? sq tag = some c) (hfrom : c.budgetFrom = some t0) (hprof : c.prof / 2 ^ 16 ≠ 0) (hout : c.budgetOut = false)
    (hmode : s.mode ≠ mKiln) (hphase : c.phase = .started) (hl : s.ladders = [l]) (hstarted : l.started = false) (hr : l.rung ≤ 8)
    (hus : l.users = u :: us) (hsq : u.sq = sq) (htag : u.tag = tag) (hon : rungOn c.prof 9 = true) :
    s.gives (.ladderBudgetExpire sq tag) fun t => t.ladders.map (fun x => x.rung) = [9] := by
  let v := s.budgetOver sq tag (t0 + c.prof / 2 ^ 16 * msCycles)
  have hwaits : s.ladders.filter (Ladder.waits sq tag) = [l] := by
    rw [hl]
    simp [Ladder.waits, hstarted, hr, hus, hsq, htag]
  have hexec := exec_ladderBudgetExpire hc hfrom hprof hout hmode hphase
  rw [hwaits, List.foldl_cons, List.foldl_nil] at hexec
  have hcmd : v.ladderCmd l = some ({ c with budgetOut := true }, u.idx) := by
    rw [State.ladderCmd, hus]
    simp only [hsq, htag]
    rw [State.budgetOver_cmd? hc]
    rfl
  have hnext := State.ladderNext_ladders (r := 9) hcmd hon (.inl rfl) (by decide) (by decide)
  refine State.gives_of_exec hexec ?_
  rw [hnext, State.putLadder, s.budgetOver_ladders, hl]
  simp [Ladder.atRung]

/-- Settles O25, one command after the other. -/
theorem recoveryLadderSteps : Obligations.RecoveryLadderSteps :=
  ⟨gives_frameDecode_unwanted, gives_frameDecode_mismatch, gives_frameDecode_noHeader, gives_ladderRungDecode_goesOn,
    gives_ladderRungDecode_mismatch, gives_ladderRungDecode_tooLate, gives_rowShiftSearch_mismatch, gives_rowShiftSearch_goesOn,
    gives_ladderSlotClaim, gives_ladderReread, gives_rereadDecode, gives_softCombine, gives_outerErasureDecode,
    gives_ladderBudgetExpire_started, gives_ladderBudgetExpire_waiting⟩

end Sys2Proof.Machine
end

section
/-!
PROOF. What the operations of the loop engine do to a slot's record and to its registers: the rules that O34 is made of.
-/

set_option Elab.async false

namespace Sys2Proof.Machine

/-! ### The slot's record -/

@[simp] theorem State.putLslot_lslot (s : State) (n : Nat) (x : LSlot) : (s.putLslot n x).lslot n = x := mget_mput_same _ _ _ _

theorem State.putLslot_lslot_ne (s : State) {i n : Nat} (x : LSlot) (h : i ≠ n) : (s.putLslot i x).lslot n = s.lslot n :=
  mget_mput_ne _ _ _ _ _ h

theorem State.lslot_congr {s t : State} (h : t.loop = s.loop) (n : Nat) : t.lslot n = s.lslot n := by rw [State.lslot, State.lslot, h]

theorem Keeps.lslot {m : Nat} {s t : State} (h : Keeps m s t) (n : Nat) (hm : m.testBit (Part.bit .loop) = false := by decide +kernel) :
    t.lslot n = s.lslot n := State.lslot_congr (h.part .loop hm) n

@[simp] theorem State.wr_lslot (s : State) (f : Fld) (i v n : Nat) : (s.wr f i v).lslot n = s.lslot n := rfl
@[simp] theorem State.set1_lslot (s : State) (f : Fld) (i n : Nat) : (s.set1 f i).lslot n = s.lslot n := rfl
@[simp] theorem State.clr_lslot (s : State) (f : Fld) (i n : Nat) : (s.clr f i).lslot n = s.lslot n := rfl
@[simp] theorem State.advanceTo_lslot (s : State) (k n : Nat) : (s.advanceTo k).lslot n = s.lslot n :=
  State.lslot_congr (s.advance_loop _) n

/-- A slot that waits for a swap is listed, so not every listed slot is without one. -/
theorem State.slots_any_swap {s : State} {n : Nat} (h : (s.lslot n).swap ≠ none) :
    (s.loop.slots.any fun p => p.2.swap.isSome) = true := by
  obtain hdefault | hmem := mget_eq_or_mem ({} : LSlot) s.loop.slots n
  · rw [State.lslot, hdefault] at h
    exact absurd rfl h
  · exact List.any_eq_true.2 ⟨_, hmem, Option.isSome_iff_ne_none.2 h⟩

/-! ### EN of a slot (R361 to R363) -/

theorem Keeps.slotOn {m : Nat} {s t : State} (h : Keeps m s t) (n : Nat)
    (hm : m.testBit (Reg.DESC_CTRL_EN.id % 8192) = false := by decide +kernel) : t.slotOn n = s.slotOn n := h.flag _ n hm

theorem State.slotOn_wr_ne (s : State) (f : Fld) (i v n : Nat) (h : f.id % 8192 ≠ Reg.DESC_CTRL_EN.id % 8192) :
    (s.wr f i v).slotOn n = s.slotOn n := State.flag_wr_ne _ _ _ _ _ _ h

theorem mem_laneSlots (n : Nat) : n ∈ laneSlots (n / 64) :=
  List.mem_map.2 ⟨n % 64, List.mem_range.2 (Nat.mod_lt _ (by decide)), Nat.div_add_mod n 64⟩

theorem laneSlots_nodup (l : Nat) : (laneSlots l).Nodup := (upTo_nodup 64).map fun a b h => by simpa using h

/-- A slot's part in showing its lane: its start phase and its EN. -/
def State.showSlot (t : State) (n : Nat) : State :=
  (t.wr Reg.LPE_SLOT_STAT_START n (t.startPhase n)).wrB Reg.LPE_SLOT_STAT_EN n (t.slotOn n)

theorem State.showSlot_slotOn (t : State) (a n : Nat) : (t.showSlot a).slotOn n = t.slotOn n :=
  (State.slotOn_wr_ne _ _ _ _ _ (by decide)).trans (State.slotOn_wr_ne _ _ _ _ _ (by decide))

theorem State.showSlot_statEn (t : State) (n : Nat) : (t.showSlot n).flag Reg.LPE_SLOT_STAT_EN n = t.slotOn n := by
  rw [State.showSlot, State.flag, State.rd_wrB]
  cases t.slotOn n <;> rfl

theorem State.showSlot_statEn_ne (t : State) {a n : Nat} (h : a ≠ n) :
    (t.showSlot a).flag Reg.LPE_SLOT_STAT_EN n = t.flag Reg.LPE_SLOT_STAT_EN n := by
  rw [State.showSlot, State.flag, State.wrB, State.rd_wr_inst _ _ _ _ _ h]
  exact State.flag_wr_ne _ _ _ _ _ _ (by decide)

/-- The peak of a lane's load as it is shown. -/
def State.showPeak (s : State) (l : Nat) : State :=
  (s.wr Reg.LPE_LOAD_PEAK l (s.peak l).1).wr Reg.LPE_LOAD_PEAK_PHASE l (s.peak l).2

theorem State.showPeak_slotOn (s : State) (l n : Nat) : (s.showPeak l).slotOn n = s.slotOn n :=
  (State.slotOn_wr_ne _ _ _ _ _ (by decide)).trans (State.slotOn_wr_ne _ _ _ _ _ (by decide))

theorem State.showLoad_eq (s : State) (l : Nat) : s.showLoad l = (laneSlots l).foldl State.showSlot (s.showPeak l) := rfl

/-- Where a lane's load is shown, each of its slots shows its EN. -/
theorem State.showLoad_statEn (s : State) (n : Nat) : (s.showLoad (n / 64)).flag Reg.LPE_SLOT_STAT_EN n = s.slotOn n := by
  rw [State.showLoad_eq]
  exact foldl_each (f := State.showSlot) (ready := fun t a => t.slotOn a = s.slotOn a)
    (done := fun t a => t.flag Reg.LPE_SLOT_STAT_EN a = s.slotOn a) (fun t a h => (t.showSlot_statEn a).trans h)
    (fun t a b _ _ h => (t.showSlot_slotOn a b).trans h) (fun t a b _ hne h => (t.showSlot_statEn_ne hne.symm).trans h)
    (laneSlots_nodup _) (fun a _ => s.showPeak_slotOn _ a) n (mem_laneSlots n)

theorem State.showLoad_lslot (s : State) (l n : Nat) : (s.showLoad l).lslot n = s.lslot n := (s.showLoad_keeps l).lslot n

theorem State.showLoad_slotOn (s : State) (l n : Nat) : (s.showLoad l).slotOn n = s.slotOn n := (s.showLoad_keeps l).slotOn n

/-! ### LPE_ERR (R378) -/

/-- With VALID 0 an error is the one that LPE_ERR holds. -/
theorem State.lpeErr_shown {s : State} (hv : s.flag Reg.LPE_ERR_VALID 0 = false) {sl code : Nat} (hsl : sl < 2048) (hcode : code < 16) :
    (s.lpeErr sl code).flag Reg.LPE_ERR_VALID 0 = true ∧ (s.lpeErr sl code).rd Reg.LPE_ERR_CODE 0 = code ∧
      (s.lpeErr sl code).rd Reg.LPE_ERR_SLOT 0 = sl := by
  unfold State.lpeErr
  rw [hv, if_neg Bool.false_ne_true]
  refine ⟨?_, ?_, ?_⟩
  · rw [State.flag_wr_ne _ _ _ _ _ _ (by decide), State.flag_wr_ne _ _ _ _ _ _ (by decide)]
    exact State.flag_set1 _ _ (by decide)
  · exact (State.rd_wr_same ..).trans (Nat.mod_eq_of_lt hcode)
  · rw [State.rd_wr_ne _ _ _ _ _ _ (by decide)]
    exact (State.rd_wr_same ..).trans (Nat.mod_eq_of_lt hsl)

/-! ### Swaps (R367, R368) -/

/-- The banks of a slot change over, and no swap is shown to wait. -/
def State.swapBanks (s : State) (n : Nat) : State :=
  (s.wr Reg.DESC_CTRL_BANK n (1 - s.rd Reg.DESC_CTRL_BANK n)).clr Reg.LPE_SLOT_STAT_SWAP_PENDING n

/-- The states of a slot after a swap, by its MODE. -/
def State.swapStates (s : State) (n mode : Nat) : State :=
  if mode = 1 then s.resetSlot n 0
  else if mode = 2 then s.putLslot n { s.lslot n with s1 := [], s2 := [], i := s.coef n 61 * 2 ^ 17 }
  else s

/-- A slot's swap but for LPE_SWAP.PENDING. -/
def State.swapDone (s : State) (n mode : Nat) : State :=
  let u := (s.swapBanks n).swapStates n mode
  u.putLslot n { u.lslot n with swap := none }

theorem State.swapSlot_eq (s : State) (n mode : Nat) :
    s.swapSlot n mode = if (s.swapDone n mode).loop.slots.any fun p => p.2.swap.isSome then s.swapDone n mode
      else (s.swapDone n mode).clr Reg.LPE_SWAP_PENDING 0 := rfl

theorem State.swapStates_rd (s : State) (n mode : Nat) (f : Fld) (i : Nat) : (s.swapStates n mode).rd f i = s.rd f i := by
  unfold State.swapStates
  split
  · rfl
  · split <;> rfl

theorem State.swapStates_lslot_ne (s : State) {i n : Nat} (mode : Nat) (h : i ≠ n) : (s.swapStates i mode).lslot n = s.lslot n := by
  unfold State.swapStates
  split
  · exact State.putLslot_lslot_ne _ _ h
  · split
    · exact State.putLslot_lslot_ne _ _ h
    · rfl

theorem State.swapSlot_lslot_eq (s : State) (i mode n : Nat) : (s.swapSlot i mode).lslot n = (s.swapDone i mode).lslot n := by
  rw [State.swapSlot_eq]
  split <;> rfl

/-- A swap leaves the other slots' records. -/
theorem State.swapSlot_lslot_ne (s : State) {i n : Nat} (mode : Nat) (h : i ≠ n) : (s.swapSlot i mode).lslot n = s.lslot n := by
  rw [State.swapSlot_lslot_eq, State.swapDone, State.putLslot_lslot_ne _ _ h, State.swapStates_lslot_ne _ _ h]
  rfl

/-- A slot that was swapped waits for no swap. -/
theorem State.swapSlot_swap (s : State) (n mode : Nat) : ((s.swapSlot n mode).lslot n).swap = none := by
  rw [State.swapSlot_lslot_eq, State.swapDone, State.putLslot_lslot]

/-- MODE 1 sets the previous output to zero. -/
theorem State.swapSlot_y (s : State) (n : Nat) : ((s.swapSlot n 1).lslot n).y = 0 := by
  rw [State.swapSlot_lslot_eq, State.swapDone, State.putLslot_lslot]
  exact congrArg LSlot.y (State.putLslot_lslot ..)

theorem State.swapDone_bank (s : State) (n mode : Nat) : (s.swapDone n mode).rd Reg.DESC_CTRL_BANK n = 1 - s.rd Reg.DESC_CTRL_BANK n := by
  rw [State.swapDone, State.putLslot_rd, State.swapStates_rd, State.swapBanks, State.rd_clr_ne _ _ _ _ _ (by decide), State.rd_wr_same]
  exact Nat.mod_eq_of_lt (Nat.lt_succ_of_le (Nat.sub_le ..))

theorem State.swapSlot_bank (s : State) (n mode : Nat) : (s.swapSlot n mode).rd Reg.DESC_CTRL_BANK n = 1 - s.rd Reg.DESC_CTRL_BANK n := by
  rw [State.swapSlot_eq]
  split
  · exact s.swapDone_bank n mode
  · exact (State.rd_clr_ne _ _ _ _ _ (by decide)).trans (s.swapDone_bank n mode)

/-- LPE_SWAP.PENDING stays 1 while another slot waits. -/
theorem State.swapSlot_pending {s : State} {i n : Nat} (mode : Nat) (hne : i ≠ n) (hn : (s.lslot n).swap ≠ none) :
    (s.swapSlot i mode).flag Reg.LPE_SWAP_PENDING 0 = s.flag Reg.LPE_SWAP_PENDING 0 := by
  rw [← s.swapSlot_lslot_ne mode hne, State.swapSlot_lslot_eq] at hn
  rw [State.swapSlot_eq, if_pos (State.slots_any_swap hn), State.flag, State.swapDone, State.putLslot_rd, State.swapStates_rd]
  rw [State.swapBanks, State.rd_clr_ne _ _ _ _ _ (by decide), State.rd_wr_ne _ _ _ _ _ _ (by decide)]
  rfl

/-- One slot's part in a request: an enabled slot waits until an elapsed moment, another is swapped at once. -/
def State.askSwap (mode due : Nat) (t : State) (n : Nat) : State :=
  if t.slotOn n then
    ((t.putLslot n { t.lslot n with swap := some (mode, due) }).set1 Reg.LPE_SLOT_STAT_SWAP_PENDING n).set1 Reg.LPE_SWAP_PENDING 0
  else t.swapSlot n mode

theorem State.requestSwap_eq (s : State) (l : List Nat) (mode : Nat) :
    s.requestSwap l mode = l.foldl (State.askSwap mode (s.now + 5000)) (s.wr Reg.LPE_SWAP_MODE 0 mode) := rfl

/-- A slot waits for a swap, and LPE_SWAP shows that one does. -/
def State.waitsForSwap (mode due : Nat) (t : State) (n : Nat) : Prop :=
  (t.lslot n).swap = some (mode, due) ∧ t.flag Reg.LPE_SWAP_PENDING 0 = true

theorem State.askSwap_slotOn (mode due : Nat) (t : State) (a n : Nat) : (t.askSwap mode due a).slotOn n = t.slotOn n := by
  unfold State.askSwap
  split
  · exact (State.slotOn_wr_ne _ _ _ _ _ (by decide)).trans (State.slotOn_wr_ne _ _ _ _ _ (by decide))
  · exact (t.swapSlot_keeps a mode).slotOn n

theorem State.askSwap_waits (mode due : Nat) {t : State} {n : Nat} (h : t.slotOn n = true) :
    State.waitsForSwap mode due (t.askSwap mode due n) n := by
  rw [State.askSwap, if_pos h]
  exact ⟨congrArg LSlot.swap (State.putLslot_lslot ..), State.flag_set1 _ _ (by decide)⟩

theorem State.waitsForSwap.askSwap {mode due : Nat} {t : State} {a n : Nat} (h : State.waitsForSwap mode due t n) (hne : a ≠ n) :
    State.waitsForSwap mode due (t.askSwap mode due a) n := by
  obtain ⟨hswap, hpending⟩ := h
  unfold State.askSwap
  split
  · exact ⟨(congrArg LSlot.swap (State.putLslot_lslot_ne _ _ hne)).trans hswap, State.flag_set1 _ _ (by decide)⟩
  · have hn : (t.lslot n).swap ≠ none := by simp [hswap]
    exact ⟨(congrArg LSlot.swap (t.swapSlot_lslot_ne mode hne)).trans hswap, (State.swapSlot_pending mode hne hn).trans hpending⟩

/-- An enabled slot of a request waits for its swap, whatever becomes of the others. -/
theorem State.requestSwap_waits {s : State} {l : List Nat} (hl : l.Nodup) {n : Nat} (hn : n ∈ l) (hon : s.slotOn n = true) (mode : Nat) :
    State.waitsForSwap mode (s.now + 5000) (s.requestSwap l mode) n := by
  rw [State.requestSwap_eq]
  refine foldl_each (f := State.askSwap mode (s.now + 5000)) (ready := fun t a => t.slotOn a = s.slotOn a)
    (done := fun t a => s.slotOn a = true → State.waitsForSwap mode (s.now + 5000) t a) (fun t a h ha => State.askSwap_waits _ _ (h.trans ha))
    (fun t a b _ _ h => (State.askSwap_slotOn ..).trans h) (fun t a b _ hne h hb => (h hb).askSwap hne.symm) hl
    (fun a _ => State.slotOn_wr_ne _ _ _ _ _ (by decide)) n hn hon

/-- A request of one enabled slot leaves its bank as it is. -/
theorem State.requestSwap_bank_enabled {s : State} {n : Nat} (hon : s.slotOn n = true) (mode : Nat) :
    (s.requestSwap [n] mode).rd Reg.DESC_CTRL_BANK n = s.rd Reg.DESC_CTRL_BANK n := by
  have hon' : (s.wr Reg.LPE_SWAP_MODE 0 mode).slotOn n = true := (State.slotOn_wr_ne _ _ _ _ _ (by decide)).trans hon
  rw [State.requestSwap_eq, List.foldl_cons, List.foldl_nil, State.askSwap, if_pos hon', State.rd_set1_ne _ _ _ _ _ (by decide),
    State.rd_set1_ne _ _ _ _ _ (by decide)]
  exact State.rd_wr_ne _ _ _ _ _ _ (by decide)

/-- A request of one disabled slot changes its bank over at once. -/
theorem State.requestSwap_disabled {s : State} {n : Nat} (hoff : s.slotOn n = false) (mode : Nat) :
    (s.requestSwap [n] mode).rd Reg.DESC_CTRL_BANK n = 1 - s.rd Reg.DESC_CTRL_BANK n ∧ ((s.requestSwap [n] mode).lslot n).swap = none := by
  have hoff' : ¬(s.wr Reg.LPE_SWAP_MODE 0 mode).slotOn n = true := by
    rw [State.slotOn_wr_ne _ _ _ _ _ (by decide), hoff]
    decide
  rw [State.requestSwap_eq, List.foldl_cons, List.foldl_nil, State.askSwap, if_neg hoff', State.swapSlot_bank]
  exact ⟨congrArg (1 - ·) (State.rd_wr_ne _ _ _ _ _ _ (by decide)), State.swapSlot_swap ..⟩

end Sys2Proof.Machine
end

section
/-!
PROOF. The commands of the loop engine (O34): a lane's run, the parameter copy, the enable, the disable, the writes, the swaps, and the
end of the safe program.
-/

set_option Elab.async false

namespace Sys2Proof.Machine

/-! ### A lane's run and its overrun (R337, R374) -/

theorem State.release_lanes (s : State) (n w : Nat) : (s.release n w).loop.lanes = s.loop.lanes := by
  unfold State.release
  split
  · rfl
  · dsimp only
    split <;> rfl

/-- The end of one-track steps leaves the periods in which the lanes ran last. -/
theorem State.endSteps_lanes (s : State) : s.endSteps.loop.lanes = s.loop.lanes := by
  unfold State.endSteps
  refine List.foldlRecOn (motive := fun t : State => t.loop.lanes = s.loop.lanes) s.heads _ rfl fun t ht p _ => ?_
  split
  · split
    · exact (State.release_lanes ..).trans ((State.release_lanes ..).trans ht)
    · exact ht
  · exact ht

/-- The engine at phase 1,100, with the one-track steps that are over and the accelerations of now. -/
def State.atLaneRun (s : State) : State := (s.advancePhase 1100).endSteps.showAccel

theorem State.atLaneRun_keeps (s : State) :
    Keeps (State.endSteps_mask ||| State.showAccel_mask) (s.advancePhase 1100) s.atLaneRun :=
  Keeps.step (State.showAccel_keeps _) (Keeps.step (State.endSteps_keeps _) (Keeps.refl _ _))

/-- A lane has run in the period that began at an elapsed moment. -/
def State.markLane (s : State) (l start : Nat) : State := { s with loop := { s.loop with lanes := mput s.loop.lanes l start } }

/-- The slots of a lane that run in this period. -/
def State.laneDue (s : State) (l : Nat) : List Nat :=
  (s.laneOn l).filter fun sl => s.slotDue sl s.period && (s.lslot sl).dueAt ≤ s.now - 1100

/-- A lane's run of its due slots. -/
def State.laneRun (s : State) (l : Nat) : State :=
  State.runSlots s.period (s.markLane l (s.now - 1100)) 0 (s.laneDue l)

theorem State.laneRun_keeps (s : State) (l : Nat) : Keeps (State.runSlots_mask ||| partBits [.loop]) s (s.laneRun l) :=
  Keeps.step (State.runSlots_keeps ..) (Keeps.set_loop (Keeps.refl _ _))

theorem State.mode_ne_cinder_of_loopsRun {s : State} (h : s.loopsRun = true) : s.mode ≠ mCinder := by
  intro hm
  rw [State.loopsRun, State.loopMode, hm] at h
  exact Bool.false_ne_true h

theorem exec_loopLaneRun {s : State} {l : Fin 32} (hrun : s.loopsRun = true)
    (hfresh : mfind s.loop.lanes l.val ≠ some ((s.advancePhase 1100).now - 1100)) :
    exec (.loopLaneRun l []) s = .next (((s.atLaneRun.laneRun l).wr Reg.LPE_STATUS_K_LO 0 (s.atLaneRun.period % 65536)).wr
      Reg.LPE_STATUS_STATE 0 1) := by
  have hkeep := s.atLaneRun_keeps
  have hrd (f : Fld) (hf : (State.endSteps_mask ||| State.showAccel_mask).testBit (f.id % 8192) = false) (i : Nat) :
      s.atLaneRun.rd f i = s.rd f i := (hkeep.rd f i hf).trans (State.advancePhase_rd ..)
  have hnow : s.atLaneRun.now = (s.advancePhase 1100).now := hkeep.now
  have hlanes : s.atLaneRun.loop.lanes = s.loop.lanes :=
    ((s.advancePhase 1100).endSteps_lanes).trans (congrArg Loop.lanes (s.advance_loop _))
  have hmode : s.atLaneRun.mode = s.mode := hrd _ (by decide +kernel) 0
  have hrun' : s.atLaneRun.loopsRun = true := by
    rw [← hrun, State.loopsRun, State.loopsRun, State.loopMode, State.loopMode, State.flag, State.flag, hmode,
      hrd Reg.LPE_CTRL_RUN (by decide +kernel)]
  rw [← hnow, ← hlanes] at hfresh
  have hcinder : ¬(s.atLaneRun.markLane l (s.atLaneRun.now - 1100)).mode = mCinder := fun h => State.mode_ne_cinder_of_loopsRun hrun (hmode ▸ h)
  exact (if_neg hfresh).trans ((if_neg hcinder).trans (if_pos hrun'))

theorem gives_loopLaneRun (s : State) (l : Fin 32) (hrun : s.loopsRun = true)
    (hfresh : mfind s.loop.lanes l.val ≠ some ((s.advancePhase 1100).now - 1100)) :
    s.gives (.loopLaneRun l []) fun t => t.lin % 5000 = 1100 ∧ t.rd Reg.LPE_STATUS_STATE 0 = 1 ∧
      t.rd Reg.LPE_STATUS_K_LO 0 = t.period % 65536 ∧ t.mode = s.mode := by
  have hat := s.atLaneRun_keeps
  have hran := s.atLaneRun.laneRun_keeps l
  have htb : (s.atLaneRun.laneRun l).tb = s.atLaneRun.tb := hran.part .tb (by decide +kernel)
  have htb0 : s.atLaneRun.tb = (s.advancePhase 1100).tb := hat.part .tb (by decide +kernel)
  refine State.gives_of_exec (exec_loopLaneRun hrun hfresh) ⟨?_, State.rd_wr_same .., ?_, ?_⟩
  · calc _ = (s.advancePhase 1100).lin % 5000 := congrArg (· % 5000) (State.lin_congr (htb.trans htb0))
      _ = 1100 := s.advancePhase_lin_mod (by decide)
  · rw [State.rd_wr_ne _ _ _ _ _ _ (by decide), State.rd_wr_same]
    calc _ = s.atLaneRun.period % 65536 := Nat.mod_eq_of_lt (Nat.mod_lt _ (by decide))
      _ = _ := congrArg (· / 5000 % 65536) (State.lin_congr htb).symm
  · calc _ = (s.atLaneRun.laneRun l).mode :=
          (State.rd_wr_ne _ _ _ _ _ _ (by decide)).trans (State.rd_wr_ne _ _ _ _ _ _ (by decide))
      _ = s.atLaneRun.mode := hran.rd _ _ (by decide +kernel)
      _ = (s.advancePhase 1100).mode := hat.rd _ _ (by decide +kernel)
      _ = s.mode := State.advancePhase_rd ..

/-- What CINDER does to commands, DMA, axes and runs of calibration on entry, before the mode changes. -/
def State.cinderStops (s : State) : State :=
  let s1 : State := { s with pw := { s.pw with faultN := true, coresRun := false, trans := none } }
  let s2 := (({ s1 with ladders := [], ladderWait := [] } : State).failAll (fun _ => true) stDegraded).stopDma.haltAll.dropCal
  { s2 with heads := s2.heads.map fun p => (p.1, { p.2 with op := none, waiting := [], again := none }),
            lib := { s2.lib with lockOut := false } }

theorem State.cinderStops_keeps (s : State) :
    Keeps (State.failAll_mask ||| State.stopDma_mask ||| State.haltAll_mask ||| State.dropCal_mask |||
      partBits [.pw, .ladders, .ladderWait, .heads, .lib]) s s.cinderStops :=
  Keeps.set_heads_lib (Keeps.step (State.dropCal_keeps _) (Keeps.step (State.haltAll_keeps _) (Keeps.step (State.stopDma_keeps _)
    (Keeps.step (State.failAll_keeps ..) (Keeps.set_ladders_ladderWait (Keeps.set_pw (Keeps.refl _ _)))))))

/-- A cause that is recorded, and the mode when everything has stopped. -/
def State.cinderMode (s : State) (cause : Nat) : State :=
  (((s.wr Reg.GCTL_STATUS_CINDER_CAUSE 0 cause).set1 Reg.GCTL_STATUS_FAULT 0).cinderStops).wr Reg.GCTL_STATUS_MODE 0 mCinder

/-- After the mode CINDER begins the safe program and raises its events. -/
theorem State.cinder_after_mode {s : State} (hc : s.mode ≠ mCinder) (hb : s.mode ≠ mBanked) (cause : Nat) :
    Keeps (State.startSafe_mask ||| State.raise_mask) (s.cinderMode cause) (s.cinder cause) := by
  rw [State.cinder, if_neg (not_or.2 ⟨hc, hb⟩)]
  exact Keeps.step (State.raise_keeps ..) (Keeps.step (State.raise_keeps ..)
    (Keeps.step (State.startSafe_keeps (s.cinderMode cause)) (Keeps.refl _ _)))

theorem State.cinder_mode {s : State} (hc : s.mode ≠ mCinder) (hb : s.mode ≠ mBanked) (cause : Nat) : (s.cinder cause).mode = mCinder :=
  ((State.cinder_after_mode hc hb cause).rd _ _ (by decide +kernel)).trans (State.rd_wr_same ..)

theorem State.cinder_cause {s : State} (hc : s.mode ≠ mCinder) (hb : s.mode ≠ mBanked) {cause : Nat} (h : cause < 256) :
    (s.cinder cause).rd Reg.GCTL_STATUS_CINDER_CAUSE 0 = cause := by
  let u := (s.wr Reg.GCTL_STATUS_CINDER_CAUSE 0 cause).set1 Reg.GCTL_STATUS_FAULT 0
  calc _ = (s.cinderMode cause).rd Reg.GCTL_STATUS_CINDER_CAUSE 0 := (State.cinder_after_mode hc hb cause).rd _ _ (by decide +kernel)
    _ = u.cinderStops.rd Reg.GCTL_STATUS_CINDER_CAUSE 0 := State.rd_wr_ne _ _ _ _ _ _ (by decide)
    _ = u.rd Reg.GCTL_STATUS_CINDER_CAUSE 0 := u.cinderStops_keeps.rd _ _ (by decide +kernel)
    _ = _ := State.rd_set1_ne _ _ _ _ _ (by decide)
    _ = cause % 256 := State.rd_wr_same ..
    _ = cause := Nat.mod_eq_of_lt h

theorem gives_loopOverrun (s : State) (l : Fin 32) (hc : s.mode ≠ mCinder) (hb : s.mode ≠ mBanked) :
    s.gives (.loopOverrun l) fun t => t.lin % 5000 = 2400 ∧ t.mode = mCinder ∧ t.rd Reg.GCTL_STATUS_CINDER_CAUSE 0 = cLoopOverrun := by
  let u := (s.advancePhase 2400).raise 0x05F4 [l, (s.advancePhase 2400).period % 16]
  have hmode : u.mode = s.mode := ((State.raise_keeps ..).rd _ _ (by decide +kernel)).trans (State.advancePhase_rd ..)
  rw [← hmode] at hc hb
  refine State.gives_of_exec (t := u.cinder cLoopOverrun) rfl ⟨?_, State.cinder_mode hc hb _, State.cinder_cause hc hb (by decide)⟩
  have htb : (u.cinder cLoopOverrun).tb = (s.advancePhase 2400).tb :=
    ((State.cinder_keeps ..).part .tb (by decide +kernel)).trans (State.raise_tb ..)
  rw [State.lin_congr htb]
  exact s.advancePhase_lin_mod (by decide)

/-! ### The parameter copy (R370) -/

/-- A field's own entries, by index, hold what the whole register file holds of it. -/
theorem mget_fieldEntries (d : Nat) {f : Fld} (hid : f.id < 8192) (l : List (Nat × Nat)) (i : Nat) :
    mget d ((l.filter fun p => p.1 % 8192 == f.id).map fun p => (p.1 / 8192, p.2)) i = mget d l (f.key i) := by
  induction l with
  | nil => rfl
  | cons p r ih =>
    obtain ⟨a, b⟩ := p
    by_cases ha : a = f.key i
    · subst ha
      have hmod : f.key i % 8192 = f.id := by rw [Fld.key]; omega
      have hdiv : f.key i / 8192 = i := by rw [Fld.key]; omega
      simp [mget, hmod, hdiv]
    · by_cases hof : a % 8192 = f.id
      · have hi : a / 8192 ≠ i := by
          rintro rfl
          exact ha (by simp only [Fld.key]; omega)
        simp [mget, hof, hi, ha, ih]
      · simp [mget, hof, ha, ih]

theorem gives_loopParamCopy (s : State) (i : Nat) :
    s.gives .loopParamCopy fun t => t.lin % 5000 = 1000 ∧ t.prm i = signed 24 (s.rd Reg.LPE_PRM_VALUE i) := by
  refine State.gives_of_exec rfl ⟨s.advancePhase_lin_mod (p := 1000) (by decide), ?_⟩
  rw [← s.advancePhase_rd 1000]
  exact congrArg (signed 24) (mget_fieldEntries 0 (f := Reg.LPE_PRM_VALUE) (by decide) _ i)

/-! ### Enable and disable (R361, R363) -/

theorem State.storeCtrl_slotOn (s : State) (n ctrl k : Nat) : (s.storeCtrl n ctrl).slotOn k = s.slotOn k := (s.storeCtrl_keeps n ctrl).slotOn k

theorem State.enableError_range {s : State} {n e : Nat} (h : s.enableError n = some e) : e < 16 := by
  unfold State.enableError at h
  dsimp only at h
  split_ifs at h <;> cases h <;> decide

/-- A slot enabled: its EN, and its record as its first run finds it, which comes at an elapsed moment or later. -/
def State.enableSlot (s : State) (n due : Nat) : State :=
  let u := (s.set1 Reg.DESC_CTRL_EN n).clr Reg.LPE_SLOT_STAT_RAN n
  u.putLslot n { u.lslot n with s1 := [], s2 := [], y := 0, i := if u.isFoc n then 0 else u.coef n 61 * 2 ^ 17, dueAt := due,
                                acting := false, swap := none, foc := {} }

@[simp] theorem State.enableSlot_now (s : State) (n due : Nat) : (s.enableSlot n due).now = s.now := rfl

theorem State.enableSlot_slotOn (s : State) (n due : Nat) : (s.enableSlot n due).slotOn n = true :=
  (State.slotOn_wr_ne _ _ _ _ _ (by decide)).trans (State.flag_set1 _ _ (by decide))

theorem State.enableSlot_lslot (s : State) (n due : Nat) :
    ((s.enableSlot n due).lslot n).dueAt = due ∧ ((s.enableSlot n due).lslot n).y = 0 := by
  rw [State.enableSlot, State.putLslot_lslot]
  exact ⟨rfl, rfl⟩

theorem exec_loopSlotEnable {s : State} {sl : Fin 2048} {c : BitVec 32} (hoff : s.slotOn sl = false)
    (hok : (s.storeCtrl sl c.toNat).enableError sl = none) :
    exec (.loopSlotEnable sl c) s = .next (((s.storeCtrl sl c.toNat).enableSlot sl (s.now + 5000)).showLoad (sl / 64)) := by
  rw [exec, execLoopSlotEnable, if_neg (by simp [hoff])]
  dsimp only
  rw [hok]
  rfl

theorem exec_loopSlotEnable_refused {s : State} {sl : Fin 2048} {c : BitVec 32} {e : Nat} (hoff : s.slotOn sl = false)
    (herr : (s.storeCtrl sl c.toNat).enableError sl = some e) :
    exec (.loopSlotEnable sl c) s = .next (((s.storeCtrl sl c.toNat).lpeErr sl e).raise 0x05F2 [sl, e]) := by
  rw [exec, execLoopSlotEnable, if_neg (by simp [hoff])]
  dsimp only
  rw [herr]

theorem gives_loopSlotEnable (s : State) (sl : Fin 2048) (c : BitVec 32) (hoff : s.slotOn sl = false)
    (hok : (s.storeCtrl sl c.toNat).enableError sl = none) :
    s.gives (.loopSlotEnable sl c) fun t => t.slotOn sl = true ∧ (t.lslot sl).dueAt = s.now + 5000 ∧ (t.lslot sl).y = 0 ∧
      t.flag Reg.LPE_SLOT_STAT_EN sl = true ∧ t.now = s.now := by
  obtain ⟨hdue, hy⟩ := (s.storeCtrl sl c.toNat).enableSlot_lslot sl (s.now + 5000)
  refine State.gives_of_exec (exec_loopSlotEnable hoff hok) ⟨?_, ?_, ?_, ?_, ?_⟩
  · rw [State.showLoad_slotOn, State.enableSlot_slotOn]
  · rw [State.showLoad_lslot, hdue]
  · rw [State.showLoad_lslot, hy]
  · rw [State.showLoad_statEn, State.enableSlot_slotOn]
  · rw [(State.showLoad_keeps ..).now, State.enableSlot_now, (s.storeCtrl_keeps sl c.toNat).now]

theorem gives_loopSlotEnable_refused (s : State) (sl : Fin 2048) (c : BitVec 32) (e : Nat) (hoff : s.slotOn sl = false)
    (herr : (s.storeCtrl sl c.toNat).enableError sl = some e) :
    s.gives (.loopSlotEnable sl c) fun t => t.slotOn sl = false ∧ t.lastEvent 0x05F2 [sl, e] ∧
      (s.flag Reg.LPE_ERR_VALID 0 = false → t.rd Reg.LPE_ERR_CODE 0 = e ∧ t.rd Reg.LPE_ERR_SLOT 0 = sl) := by
  let u := s.storeCtrl sl c.toNat
  have hraise := (u.lpeErr sl e).raise_keeps 0x05F2 [sl, e]
  refine State.gives_of_exec (exec_loopSlotEnable_refused hoff herr) ⟨?_, State.raise_lastEvent .., fun hv => ?_⟩
  · rw [hraise.slotOn, (u.lpeErr_keeps sl e).slotOn, State.storeCtrl_slotOn, hoff]
  · have huv : u.flag Reg.LPE_ERR_VALID 0 = false := ((s.storeCtrl_keeps sl c.toNat).flag _ _ (by decide +kernel)).trans hv
    obtain ⟨-, hcode, hslot⟩ := State.lpeErr_shown huv sl.isLt (State.enableError_range herr)
    exact ⟨(hraise.rd _ _ (by decide +kernel)).trans hcode, (hraise.rd _ _ (by decide +kernel)).trans hslot⟩

/-- A slot that was disabled waits for no swap: the one that it waited for has taken place. -/
theorem State.disableSlot_swap (s : State) (n : Nat) : ((s.disableSlot n).lslot n).swap = none := by
  unfold State.disableSlot
  dsimp only
  rw [State.putLslot_lslot]
  cases h : (s.lslot n).swap with
  | none => exact h
  | some p => exact s.swapSlot_swap n p.1

theorem State.disableSlot_slotOn (s : State) (n : Nat) : (s.disableSlot n).slotOn n = false := by
  unfold State.disableSlot
  extract_lets s0 s1
  calc _ = s1.slotOn n := s1.slotOn_wr_ne Reg.LPE_STALE_BITS _ _ n (by decide)
    _ = (s0.clr Reg.DESC_CTRL_EN n).slotOn n := State.slotOn_wr_ne _ Reg.LPE_SLOT_STAT_RAN n 0 n (by decide)
    _ = false := State.flag_clr ..

theorem gives_loopSlotDisable (s : State) (sl : Fin 2048) (hon : s.slotOn sl = true) :
    s.gives (.loopSlotDisable sl) fun t => t.slotOn sl = false ∧ t.lin % 5000 = 0 ∧ (t.lslot sl).swap = none := by
  let u := s.advanceMod 5000
  have htb : ((u.disableSlot sl).showLoad (sl / 64)).tb = u.tb :=
    ((State.showLoad_keeps ..).part .tb (by decide +kernel)).trans ((u.disableSlot_keeps sl).part .tb (by decide +kernel))
  refine State.gives_of_exec (t := (u.disableSlot sl).showLoad (sl / 64)) (if_pos hon) ⟨?_, ?_, ?_⟩
  · rw [State.showLoad_slotOn, State.disableSlot_slotOn]
  · rw [State.lin_congr htb]
    exact s.advanceMod_lin_mod (by decide)
  · rw [State.showLoad_lslot, State.disableSlot_swap]

/-! ### Descriptor words (R362) -/

/-- Of different fields written one after the other each holds what was written to it. -/
theorem State.rd_foldl_wr {l : List (Fld × Nat)} (hl : (l.map fun p => p.1.id % 8192).Nodup) {p : Fld × Nat} (hp : p ∈ l) (s : State)
    (i : Nat) (v : Fld × Nat → Nat) : (l.foldl (fun t q => t.wr q.1 i (v q)) s).rd p.1 i = v p % 2 ^ p.1.w := by
  induction l generalizing s with
  | nil => cases hp
  | cons q r ih =>
    obtain ⟨hq, hr⟩ := List.nodup_cons.1 hl
    rw [List.foldl_cons]
    cases hp with
    | head =>
      refine List.foldlRecOn (motive := fun t : State => t.rd p.1 i = v p % 2 ^ p.1.w) r _ (State.rd_wr_same ..) fun t ht a ha => ?_
      have hne : a.1.id % 8192 ≠ p.1.id % 8192 := fun e => hq (List.mem_map.2 ⟨a, ha, e⟩)
      exact (State.rd_wr_ne _ _ _ _ _ _ hne).trans ht
    | tail _ hp => exact ih hr hp _

/-- The fields of DESC_CTRL that a write to a disabled slot stores, with their lowest bits. -/
def ctrlFields : List (Fld × Nat) :=
  [(Reg.DESC_CTRL_STALE_MAX, 24), (Reg.DESC_CTRL_STALE_ACT, 22), (Reg.DESC_CTRL_EWRAP, 21), (Reg.DESC_CTRL_INTERP, 20),
   (Reg.DESC_CTRL_FF_MODE, 19), (Reg.DESC_CTRL_FF_EN, 18), (Reg.DESC_CTRL_NBR, 16), (Reg.DESC_CTRL_INT_MODE, 14),
   (Reg.DESC_CTRL_NSEC, 10), (Reg.DESC_CTRL_TYPE, 8), (Reg.DESC_CTRL_PHASE, 4), (Reg.DESC_CTRL_RATE, 2)]

theorem State.storeCtrl_rd (s : State) (n ctrl : Nat) {f : Fld} {lo : Nat} (h : (f, lo) ∈ ctrlFields) :
    (s.storeCtrl n ctrl).rd f n = bitsOf ctrl lo f.w :=
  (State.rd_foldl_wr (l := ctrlFields) (by decide) h s n fun p => bitsOf ctrl p.2 p.1.w).trans (bitsOf_mod ..)

theorem descWordFields_nodup : ∀ w : Fin 16, ((descWordFields w).map fun p => p.1.id % 8192).Nodup := by decide

theorem descWordFields_lpeErr : ∀ w : Fin 16, ∀ p ∈ descWordFields w, State.lpeErr_mask.testBit (p.1.id % 8192) = false := by
  decide +kernel

theorem gives_loopDescWrite (s : State) (sl : Fin 2048) (w : Fin 16) (d : BitVec 32) (hoff : s.slotOn sl = false) (hw : w ≠ 0) :
    s.gives (.loopDescWrite sl w d) fun t =>
      ∀ p ∈ descWordFields w, t.rd p.1 sl = bitsOf d.toNat p.2 p.1.w % 2 ^ p.1.w := by
  have hw0 : w.val ≠ 0 := fun h => hw (Fin.ext h)
  exact State.gives_of_exec ((if_neg (by simp [hoff])).trans (if_neg hw0)) fun p hp =>
    State.rd_foldl_wr (descWordFields_nodup w) hp s sl fun p => bitsOf d.toNat p.2 p.1.w

theorem gives_loopDescWrite_ctrl (s : State) (sl : Fin 2048) (d : BitVec 32) (hoff : s.slotOn sl = false) :
    s.gives (.loopDescWrite sl 0 d) fun t => t.rd Reg.DESC_CTRL_RATE sl = bitsOf d.toNat 2 2 ∧
      t.rd Reg.DESC_CTRL_PHASE sl = bitsOf d.toNat 4 4 ∧ t.rd Reg.DESC_CTRL_NSEC sl = bitsOf d.toNat 10 4 ∧ t.slotOn sl = false :=
  State.gives_of_exec ((if_neg (by simp [hoff])).trans (if_pos rfl))
    ⟨s.storeCtrl_rd sl d.toNat (by simp [ctrlFields]), s.storeCtrl_rd sl d.toNat (by simp [ctrlFields]),
      s.storeCtrl_rd sl d.toNat (by simp [ctrlFields]), (s.storeCtrl_slotOn ..).trans hoff⟩

theorem gives_loopDescWrite_refused (s : State) (sl : Fin 2048) (w : Fin 16) (d : BitVec 32) (hon : s.slotOn sl = true) (hw : w ≠ 0)
    (hv : s.flag Reg.LPE_ERR_VALID 0 = false) :
    s.gives (.loopDescWrite sl w d) fun t => t.flag Reg.LPE_ERR_VALID 0 = true ∧ t.rd Reg.LPE_ERR_CODE 0 = 5 ∧
      t.rd Reg.LPE_ERR_SLOT 0 = sl ∧ ∀ p ∈ descWordFields w, t.rd p.1 sl = s.rd p.1 sl := by
  have hw0 : w.val ≠ 0 := fun h => hw (Fin.ext h)
  obtain ⟨hvalid, hcode, hslot⟩ := State.lpeErr_shown (code := 5) hv sl.isLt (by decide)
  exact State.gives_of_exec ((if_pos hon).trans (if_neg hw0))
    ⟨hvalid, hcode, hslot, fun p hp => (s.lpeErr_keeps sl 5).rd _ _ (descWordFields_lpeErr w p hp)⟩

/-! ### Bank words (R366) -/

theorem gives_loopBankWrite (s : State) (sl : Fin 2048) (b : Fin 2) (w : Fin 64) (d : BitVec 32)
    (hbank : s.slotOn sl = false ∨ b.val ≠ s.rd Reg.DESC_CTRL_BANK sl) (hswap : (s.lslot sl).swap = none) :
    s.gives (.loopBankWrite sl b w d) fun t => t.rd Reg.LPE_BANK_WORD ((sl * 2 + b) * 64 + w) = d.toNat := by
  have hfree : ¬(s.slotOn sl = true ∧ b.val = s.rd Reg.DESC_CTRL_BANK sl) := by
    rintro ⟨hon, hb⟩
    obtain hoff | hne := hbank
    · exact Bool.false_ne_true (hoff.symm.trans hon)
    · exact hne hb
  exact State.gives_of_exec ((if_neg hfree).trans (if_neg (by simp [hswap]))) ((State.rd_wr_same ..).trans (Nat.mod_eq_of_lt d.isLt))

theorem gives_loopBankWrite_active (s : State) (sl : Fin 2048) (b : Fin 2) (w : Fin 64) (d : BitVec 32) (hon : s.slotOn sl = true)
    (hb : b.val = s.rd Reg.DESC_CTRL_BANK sl) (hv : s.flag Reg.LPE_ERR_VALID 0 = false) :
    s.gives (.loopBankWrite sl b w d) fun t => t.rd Reg.LPE_ERR_CODE 0 = 6 ∧ t.rd Reg.LPE_ERR_SLOT 0 = sl ∧
      t.rd Reg.LPE_BANK_WORD ((sl * 2 + b) * 64 + w) = s.rd Reg.LPE_BANK_WORD ((sl * 2 + b) * 64 + w) := by
  obtain ⟨-, hcode, hslot⟩ := State.lpeErr_shown (code := 6) hv sl.isLt (by decide)
  exact State.gives_of_exec (if_pos ⟨hon, hb⟩) ⟨hcode, hslot, (s.lpeErr_keeps sl 6).rd _ _ (by decide +kernel)⟩

theorem gives_loopBankWrite_waiting (s : State) (sl : Fin 2048) (b : Fin 2) (w : Fin 64) (d : BitVec 32)
    (hb : b.val ≠ s.rd Reg.DESC_CTRL_BANK sl) (hswap : (s.lslot sl).swap ≠ none) (hv : s.flag Reg.LPE_ERR_VALID 0 = false) :
    s.gives (.loopBankWrite sl b w d) fun t => t.rd Reg.LPE_ERR_CODE 0 = 7 ∧
      t.rd Reg.LPE_BANK_WORD ((sl * 2 + b) * 64 + w) = s.rd Reg.LPE_BANK_WORD ((sl * 2 + b) * 64 + w) := by
  obtain ⟨-, hcode, -⟩ := State.lpeErr_shown (code := 7) hv sl.isLt (by decide)
  have hwaits : (s.lslot sl).swap.isSome = true := Option.isSome_iff_ne_none.2 hswap
  exact State.gives_of_exec ((if_neg fun h => hb h.2).trans (if_pos hwaits)) ⟨hcode, (s.lpeErr_keeps sl 7).rd _ _ (by decide +kernel)⟩

/-! ### Swaps (R367, R368) -/

/-- LPE_SWAP as it names one slot. -/
def State.nameSwap (s : State) (n : Nat) : State := (s.wr Reg.LPE_SWAP_SLOT 0 n).clr Reg.LPE_SWAP_GROUP 0

theorem State.nameSwap_keeps (s : State) (n : Nat) : Keeps (fieldBits [Reg.LPE_SWAP_SLOT, Reg.LPE_SWAP_GROUP]) s (s.nameSwap n) :=
  Keeps.clr (Keeps.wr (Keeps.refl _ _))

theorem exec_loopSwapSlot {s : State} (hidle : s.flag Reg.LPE_SWAP_PENDING 0 = false) (sl : Fin 2048) (m : Fin 4) :
    exec (.loopSwapSlot sl m) s = .next ((s.nameSwap sl).requestSwap [sl.val] m) := if_neg (by simp [hidle])

theorem gives_loopSwapSlot_enabled (s : State) (sl : Fin 2048) (m : Fin 4) (hidle : s.flag Reg.LPE_SWAP_PENDING 0 = false)
    (hon : s.slotOn sl = true) :
    s.gives (.loopSwapSlot sl m) fun t => (t.lslot sl).swap = some (m.val, s.now + 5000) ∧ t.flag Reg.LPE_SWAP_PENDING 0 = true ∧
      t.rd Reg.DESC_CTRL_BANK sl = s.rd Reg.DESC_CTRL_BANK sl := by
  have hname := s.nameSwap_keeps sl
  have hon' : (s.nameSwap sl).slotOn sl = true := (hname.slotOn sl).trans hon
  obtain ⟨hswap, hpending⟩ := State.requestSwap_waits (List.nodup_singleton _) (List.mem_singleton_self _) hon' m
  refine State.gives_of_exec (exec_loopSwapSlot hidle sl m) ⟨hswap, hpending, ?_⟩
  calc _ = (s.nameSwap sl).rd Reg.DESC_CTRL_BANK sl := State.requestSwap_bank_enabled hon' m
    _ = s.rd Reg.DESC_CTRL_BANK sl := hname.rd _ _ (by decide +kernel)

theorem gives_loopSwapSlot_disabled (s : State) (sl : Fin 2048) (m : Fin 4) (hidle : s.flag Reg.LPE_SWAP_PENDING 0 = false)
    (hoff : s.slotOn sl = false) :
    s.gives (.loopSwapSlot sl m) fun t => t.rd Reg.DESC_CTRL_BANK sl = 1 - s.rd Reg.DESC_CTRL_BANK sl ∧ (t.lslot sl).swap = none := by
  have hname := s.nameSwap_keeps sl
  have hoff' : (s.nameSwap sl).slotOn sl = false := (hname.slotOn sl).trans hoff
  obtain ⟨hbank, hswap⟩ := State.requestSwap_disabled hoff' m
  refine State.gives_of_exec (exec_loopSwapSlot hidle sl m) ⟨?_, hswap⟩
  rw [hbank, hname.rd _ _ (by decide +kernel)]

theorem gives_loopSwapGroup (s : State) (m : Fin 4) (sl : Fin 2048) (hidle : s.flag Reg.LPE_SWAP_PENDING 0 = false)
    (hon : s.slotOn sl = true) (hset : s.slotFlag Reg.LPE_SWAP_SET_BITS sl = true) :
    s.gives (.loopSwapGroup m) fun t => (t.lslot sl).swap = some (m.val, s.now + 5000) ∧ t.flag Reg.LPE_SWAP_PENDING 0 = true := by
  have hon' : (s.set1 Reg.LPE_SWAP_GROUP 0).slotOn sl = true := (State.slotOn_wr_ne _ _ _ _ _ (by decide)).trans hon
  have hmem : sl.val ∈ (upTo 2048).filter fun n => s.slotFlag Reg.LPE_SWAP_SET_BITS n :=
    List.mem_filter.2 ⟨List.mem_range.2 sl.isLt, hset⟩
  exact State.gives_of_exec (if_neg (by simp [hidle])) (State.requestSwap_waits ((upTo_nodup 2048).filter _) hmem hon' m)

theorem gives_loopSwapExecute (s : State) (sl : Fin 2048) (m x : Nat) (hswap : (s.lslot sl).swap = some (m, x)) :
    s.gives (.loopSwapExecute sl) fun t => t.rd Reg.DESC_CTRL_BANK sl = 1 - s.rd Reg.DESC_CTRL_BANK sl ∧ (t.lslot sl).swap = none ∧
      x ≤ t.now ∧ (m = 1 → (t.lslot sl).y = 0) := by
  have hexec : exec (.loopSwapExecute sl) s = .next ((s.advanceTo x).swapSlot sl m) := by
    rw [exec, execLoopSwapExecute, hswap]
  refine State.gives_of_exec hexec ⟨?_, State.swapSlot_swap .., ?_, ?_⟩
  · rw [State.swapSlot_bank, State.advanceTo_rd]
  · rw [(State.swapSlot_keeps ..).now]
    exact s.le_advanceTo_now x
  · rintro rfl
    exact State.swapSlot_y ..

/-! ### Saturation bits and the safe program (R376, R378) -/

theorem gives_loopSatClear (s : State) : s.gives .loopSatClear fun t => ∀ i : Fin 64, t.rd Reg.LPE_SAT_BITS i = 0 :=
  State.gives_of_exec rfl fun i => State.rd_foldl_clr (fld := fun _ => Reg.LPE_SAT_BITS) (inst := id) (List.mem_range.2 i.isLt) s

theorem State.turningCount_congr {s t : State} (hregs : t.regs = s.regs) (hspins : t.spins = s.spins) (hloop : t.loop = s.loop) :
    t.turningCount = s.turningCount := by
  have hrd : t.rd = s.rd := funext fun f => funext fun i => State.rd_congr hregs f i
  have hspRd (n : Nat) (f : Fld) : t.spRd n f = s.spRd n f := by
    rw [State.spRd, State.spRd, State.spin, State.spin, hspins, hrd]
  have hspeed (n : Nat) : t.obsSpeed n = s.obsSpeed n := by
    rw [State.obsSpeed, State.obsSpeed, State.focOf, State.focOf, State.lslot_congr hloop, hrd]
  have hturning (n : Nat) : t.turning n = s.turning n := by
    rw [State.turning, State.turning, State.spState, State.spState, State.mode, State.mode, hspRd, hspeed, hrd]
  rw [State.turningCount, State.turningCount, funext hturning]

/-- Time as the safe program's end finds it: at once when nothing turns, else when TIMEOUT_S is over. -/
def State.safeEnd (s : State) (t0 : Nat) : State :=
  if s.turningCount = 0 then s else s.advanceTo (t0 + s.rd1 Reg.LPE_SAFE_BRAKE_TIMEOUT_S 0 * hz)

theorem State.safeEnd_turningCount (s : State) (t0 : Nat) : (s.safeEnd t0).turningCount = s.turningCount := by
  unfold State.safeEnd
  split
  · rfl
  · exact State.turningCount_congr (State.advance_regs ..) (State.advance_spins ..) (State.advance_loop ..)

theorem State.le_safeEnd_now {s : State} (h : s.turningCount ≠ 0) (t0 : Nat) :
    t0 + s.rd1 Reg.LPE_SAFE_BRAKE_TIMEOUT_S 0 * hz ≤ (s.safeEnd t0).now := by
  rw [State.safeEnd, if_neg h]
  exact s.le_advanceTo_now _

theorem gives_safeProgramDone (s : State) (x : Nat) (hfrom : s.loop.safeFrom = some x) (hdone : s.loop.safeDone = false) :
    s.gives .safeProgramDone fun t => t.rd Reg.LPE_STATUS_STATE 0 = 3 ∧ t.loop.safeDone = true ∧
      t.lastEvent 0x05F3 [1, s.turningCount] ∧
      (s.turningCount ≠ 0 → x + s.rd1 Reg.LPE_SAFE_BRAKE_TIMEOUT_S 0 * hz ≤ t.now) := by
  let v := s.safeEnd x
  let u : State := ({ v with loop := { v.loop with safeDone := true } } : State).wr Reg.LPE_STATUS_STATE 0 3
  have hexec : exec .safeProgramDone s = .next (u.raise 0x05F3 [1, s.turningCount]) := by
    rw [← s.safeEnd_turningCount x, exec, execSafeProgramDone, hfrom]
    exact if_neg (by simp [hdone])
  have hraise := u.raise_keeps 0x05F3 [1, s.turningCount]
  refine State.gives_of_exec hexec ⟨?_, ?_, State.raise_lastEvent .., fun hturn => ?_⟩
  · exact (hraise.rd _ _ (by decide +kernel)).trans (State.rd_wr_same ..)
  · exact congrArg Loop.safeDone (hraise.part .loop (by decide +kernel))
  · rw [hraise.now]
    exact State.le_safeEnd_now hturn x

/-- Settles O34, one command after the other. -/
theorem loopEngineCommands : Obligations.LoopEngineCommands :=
  ⟨gives_loopLaneRun, gives_loopOverrun, gives_loopParamCopy, gives_loopSlotEnable, gives_loopSlotEnable_refused, gives_loopSlotDisable,
    gives_loopDescWrite, gives_loopDescWrite_ctrl, gives_loopDescWrite_refused, gives_loopBankWrite, gives_loopBankWrite_active,
    gives_loopBankWrite_waiting, gives_loopSwapSlot_enabled, gives_loopSwapSlot_disabled, gives_loopSwapGroup, gives_loopSwapExecute,
    gives_loopSatClear, gives_safeProgramDone⟩

end Sys2Proof.Machine
end

section
/-!
PROOF. The values of the loop engine (O35): outputs, integrators and duties within their limits, and the plain scaled sum.
-/

set_option Elab.async false

namespace Sys2Proof.Machine

theorem clampInt_mem {lo hi : Int} (h : lo ≤ hi) (x : Int) : lo ≤ clampInt lo hi x ∧ clampInt lo hi x ≤ hi := by
  unfold clampInt
  split
  · exact ⟨le_rfl, h⟩
  · split
    · exact ⟨h, le_rfl⟩
    · omega

/-! ### CHAIN (R345 to R349) -/

/-- The limits act last: whichever integrator the run keeps, the output is u limited. -/
theorem State.chain_out (s : State) (k sl : Nat) :
    (s.chain k sl).out = clampInt (s.coef sl 49) (s.coef sl 48) (stage 24 1 (s.chain k sl).u) :=
  iteInduction (motive := fun o : Int × Nat × Int => o.2.2 = clampInt (s.coef sl 49) (s.coef sl 48) (stage 24 1 o.1))
    (fun _ => rfl) fun _ => rfl

/-- In modes 1 and 2 a run holds the integrator, or steps it within its limits. -/
theorem State.chain_i {s : State} {sl : Nat} (hmode : s.rd Reg.DESC_CTRL_INT_MODE sl = 1 ∨ s.rd Reg.DESC_CTRL_INT_MODE sl = 2) (k : Nat) :
    (s.chain k sl).i = (s.lslot sl).i ∨
      ∃ x, (s.chain k sl).i = clampInt (s.coef sl 47 * 2 ^ 17) (s.coef sl 46 * 2 ^ 17) x := by
  have h0 : s.rd Reg.DESC_CTRL_INT_MODE sl ≠ 0 := by omega
  have h3 : s.rd Reg.DESC_CTRL_INT_MODE sl ≠ 3 := by omega
  exact iteInduction (motive := fun i : Int => i = (s.lslot sl).i ∨ ∃ x, i = clampInt (s.coef sl 47 * 2 ^ 17) (s.coef sl 46 * 2 ^ 17) x)
    (fun _ => .inl rfl) fun _ => .inr ⟨_, (if_neg h0).trans (if_neg h3)⟩

/-- Without an integrator in mode 3, feed-forward and branches, u is the value and the integrator brought together. -/
theorem State.chainOut_plain {s : State} {sl : Nat} (hmode : s.rd Reg.DESC_CTRL_INT_MODE sl ≠ 3) (hnbr : s.rd Reg.DESC_CTRL_NBR sl = 0)
    (hff : s.flag Reg.DESC_CTRL_FF_EN sl = false) (k : Nat) (v i : Int) :
    (s.chainOut k sl v i).1 = stage 32 16 (v * 2 ^ 16 + i) := by
  unfold State.chainOut
  simp only [hnbr, hff, if_neg hmode]
  rfl

/-- With no section, integrator, feed-forward or branch, u is the error signal brought to the path format. -/
theorem State.chain_u_plain {s : State} {sl : Nat} (hnsec : s.rd Reg.DESC_CTRL_NSEC sl = 0)
    (hmode : s.rd Reg.DESC_CTRL_INT_MODE sl = 0) (hnbr : s.rd Reg.DESC_CTRL_NBR sl = 0) (hff : s.flag Reg.DESC_CTRL_FF_EN sl = false)
    (k : Nat) : (s.chain k sl).u = stage 32 16 ((s.chain k sl).e * 2 ^ 16) := by
  have hout (v : Int) : (s.chainOut k sl v 0).1 = stage 32 16 (v * 2 ^ 16) := by
    rw [State.chainOut_plain (by omega) hnbr hff, Int.add_zero]
  unfold State.chain
  dsimp only
  rw [hnsec, hmode]
  exact (congrArg Prod.fst (if_neg (by omega))).trans (hout _)

theorem State.chain_e {s : State} {sl : Nat} (hwrap : s.flag Reg.DESC_CTRL_EWRAP sl = false) (k : Nat) :
    (s.chain k sl).e = stage 32 27 (s.coef sl 4 * 2 ^ 28 + s.coef sl 0 * s.source k sl (s.rd Reg.DESC_SRC01_SRC0 sl) +
      s.coef sl 1 * s.source k sl (s.rd Reg.DESC_SRC01_SRC1 sl) + s.coef sl 2 * s.source k sl (s.rd Reg.DESC_SRC23_SRC2 sl) +
      s.coef sl 3 * s.source k sl (s.rd Reg.DESC_SRC23_SRC3 sl)) := by
  unfold State.chain
  simp only [hwrap]
  rfl

/-! ### FOC (R358) -/

theorem State.focRun_duty (s : State) (sl n : Nat) (iq id ang : Int) (stale : Bool) :
    ∃ x y z, (s.focRun sl n iq id ang stale).duty =
      [clampInt (s.coef sl 6) (s.coef sl 7) x, clampInt (s.coef sl 6) (s.coef sl 7) y, clampInt (s.coef sl 6) (s.coef sl 7) z] :=
  ⟨_, _, _, rfl⟩

/-- Settles O35: what a run gives is what `clampInt` leaves, and the plain run's u is the scaled sum. -/
theorem loopOutputsStayWithinLimits : Obligations.LoopOutputsStayWithinLimits := by
  unfold Obligations.LoopOutputsStayWithinLimits
  refine ⟨fun s k sl h => ?_, fun s k sl hmode h => ?_, fun s sl n iq id ang stale h => ?_,
    fun s k sl e hnsec hmode hnbr hff hwrap he => ?_⟩
  · rw [s.chain_out]
    exact clampInt_mem h _
  · obtain hheld | ⟨x, hx⟩ := State.chain_i hmode k
    · exact .inl hheld
    · rw [hx]
      exact .inr (clampInt_mem (by omega) x)
  · obtain ⟨x, y, z, hduty⟩ := s.focRun_duty sl n iq id ang stale
    rw [hduty]
    refine ⟨rfl, ?_⟩
    simp [clampInt_mem h]
  · rw [s.chain_out, State.chain_u_plain hnsec hmode hnbr hff, State.chain_e hwrap, he]

end Sys2Proof.Machine
end

section
/-!
PROOF. What the operations of a head sequencer do to the head's record, its state and its place: the rules that the proofs about heads
(O36, O37) are made of.
-/

set_option Elab.async false

namespace Sys2Proof.Machine

/-! ### The record and the state of a head (R387) -/

theorem State.head_congr {s t : State} (hheads : t.heads = s.heads) (h : Nat) : t.head h = s.head h := by
  rw [State.head, State.head, hheads]

theorem Keeps.head {m : Nat} {s t : State} (k : Keeps m s t) (h : Nat) (hm : m.testBit (Part.bit .heads) = false := by decide +kernel) :
    t.head h = s.head h := State.head_congr (k.part .heads hm) h

theorem Keeps.hd {m : Nat} {s t : State} (k : Keeps m s t) (h : Nat)
    (hm : m.testBit (Reg.STN_HD_STATUS_STATE.id % 8192) = false := by decide +kernel) : t.hd h = s.hd h := k.rd _ h hm

theorem State.putHead_head_ne (s : State) {h k : Nat} (x : Head) (hne : h ≠ k) : (s.putHead h x).head k = s.head k :=
  mget_mput_ne _ _ _ _ _ hne

@[simp] theorem State.putHead_hd (s : State) (h k : Nat) (x : Head) : (s.putHead h x).hd k = s.hd k := rfl

/-- Behind the write of the state only the sled follows or rests. -/
theorem State.setHd_after (s : State) (h st : Nat) :
    Keeps (State.setAx_mask ||| State.putAxis_mask) (s.wr Reg.STN_HD_STATUS_STATE h st) (s.setHd h st) := by
  unfold State.setHd
  refine Keeps.ite (Keeps.mono (State.setAx_keeps ..)) (Keeps.ite ?_ (Keeps.refl _ _))
  exact Keeps.step (State.setAx_keeps ..) (Keeps.mono (State.putAxis_keeps ..))

@[simp] theorem State.setHd_head (s : State) (h st k : Nat) : (s.setHd h st).head k = s.head k := (s.setHd_keeps h st).head k

theorem State.setHd_hd (s : State) (h : Nat) {st : Nat} (hst : st < 16 := by decide) : (s.setHd h st).hd h = st :=
  ((s.setHd_after h st).hd h).trans ((State.rd_wr_same ..).trans (Nat.mod_eq_of_lt hst))

theorem State.setHd_hd_ne (s : State) {h k : Nat} (st : Nat) (hne : h ≠ k) : (s.setHd h st).hd k = s.hd k :=
  ((s.setHd_after h st).hd k).trans (State.rd_wr_inst _ _ _ _ _ hne)

theorem State.headUp_congr {s t : State} {h : Nat} (hhd : t.hd h = s.hd h) : t.headUp h = s.headUp h := by
  rw [State.headUp, State.headUp, hhd]

theorem State.headUp_iff {s : State} {h : Nat} : s.headUp h = true ↔ s.hd h ≠ hdOff ∧ s.hd h ≠ hdParked ∧ s.hd h ≠ hdFault := by
  simp [State.headUp, and_assoc]

/-! ### The end of an operation (R389, R424) -/

/-- The result that firmware waits for is shown. -/
theorem State.headResult_busy {s : State} {h result : Nat} (hb : s.flag Reg.STN_HD_CMD_BUSY h = true) (hr : result < 8 := by decide) :
    (s.headResult h result).flag Reg.STN_HD_CMD_BUSY h = false ∧ (s.headResult h result).rd Reg.STN_HD_CMD_RESULT h = result := by
  rw [State.headResult, if_pos hb]
  exact ⟨(State.flag_wr_ne _ _ _ _ _ _ (by decide)).trans (State.flag_clr ..), (State.rd_wr_same ..).trans (Nat.mod_eq_of_lt hr)⟩

/-- A head's record once its operation has ended well. -/
def Head.idle (x : Head) : Head := { x with op := none, longMoves := 0, tries := 0, stage := 0 }

theorem State.opDone_after (s : State) (h : Nat) :
    Keeps State.headResult_mask ((s.putHead h (s.head h).idle).setHd h hdReady) (s.opDone h) := State.headResult_keeps ..

theorem State.opDone_hd (s : State) (h : Nat) : (s.opDone h).hd h = hdReady := ((s.opDone_after h).hd h).trans (State.setHd_hd ..)

theorem State.opDone_head (s : State) (h : Nat) : (s.opDone h).head h = (s.head h).idle :=
  ((s.opDone_after h).head h).trans ((State.setHd_head ..).trans (State.putHead_head ..))

theorem State.opDone_busy {s : State} {h : Nat} (hb : s.flag Reg.STN_HD_CMD_BUSY h = true) :
    (s.opDone h).flag Reg.STN_HD_CMD_BUSY h = false ∧ (s.opDone h).rd Reg.STN_HD_CMD_RESULT h = 0 :=
  State.headResult_busy (((State.setHd_keeps ..).flag _ _ (by decide +kernel)).trans hb)

/-- Nothing is served next where nothing waits. -/
theorem State.nextReq_of_none {s : State} {h : Nat} (hagain : (s.head h).again = none) (hwait : (s.head h).waiting = []) :
    s.nextReq h = s := by
  unfold State.nextReq
  simp only [hagain, hwait, ite_self]

/-- An operation that ends where nothing waits. -/
theorem State.opDone_nextReq {s : State} {h : Nat} (hagain : (s.head h).again = none) (hwait : (s.head h).waiting = []) :
    (s.opDone h).nextReq h = s.opDone h :=
  State.nextReq_of_none (by rw [State.opDone_head]; exact hagain) (by rw [State.opDone_head]; exact hwait)

/-! ### An operation abandoned (R391) -/

theorem State.abandonOp_of_none {s : State} {h : Nat} (hop : (s.head h).op = none) (parked : Bool) : s.abandonOp h parked = s := by
  simp only [State.abandonOp, hop]

theorem State.abandonOp_op (s : State) (h : Nat) (parked : Bool) : ((s.abandonOp h parked).head h).op = none := by
  unfold State.abandonOp
  extract_lets x
  split
  · assumption
  · extract_lets keep s1
    have h1 : (s1.head h).op = none := congrArg Head.op (State.putHead_head ..)
    split
    · rwa [(State.headResult_keeps ..).head h]
    · exact h1

theorem State.abandonOp_ne (s : State) {h k : Nat} (parked : Bool) (hne : h ≠ k) : (s.abandonOp h parked).head k = s.head k := by
  unfold State.abandonOp
  extract_lets x
  split
  · rfl
  · extract_lets keep s1
    have h1 : s1.head k = s.head k := State.putHead_head_ne _ _ hne
    split
    · rwa [(State.headResult_keeps ..).head k]
    · exact h1

/-! ### Parking (R415, R420) -/

theorem State.readPowerOff_head (s : State) (h : Nat) : (s.readPowerOff h).head h = { s.head h with readOn := false } :=
  (State.putHead_head ..).trans (by rw [(State.headPrm_keeps ..).head h])

theorem State.readPowerOn_head (s : State) (h : Nat) : (s.readPowerOn h).head h = { s.head h with readOn := true } :=
  ((State.releaseHead_keeps ..).head h).trans ((State.putHead_head ..).trans (by rw [(State.headPrm_keeps ..).head h]))

/-- The operation ends, writing stops and the read laser goes out before the lens is taken away. -/
def State.parkDark (s : State) (h : Nat) : State := ((s.abandonOp h true).stopWriting h).readPowerOff h

theorem State.parkDark_head (s : State) (h : Nat) : ((s.parkDark h).head h).op = none ∧ ((s.parkDark h).head h).readOn = false := by
  have hhead := State.readPowerOff_head ((s.abandonOp h true).stopWriting h) h
  rw [State.parkDark, hhead, (State.stopWriting_keeps ..).head h]
  exact ⟨s.abandonOp_op h true, rfl⟩

theorem State.parkDark_ne (s : State) {h k : Nat} (hne : h ≠ k) : (s.parkDark h).head k = s.head k :=
  (State.putHead_head_ne _ _ hne).trans (((State.headPrm_keeps ..).head k).trans
    (((State.stopWriting_keeps ..).head k).trans (s.abandonOp_ne true hne)))

/-- The words of a dark head go to rest over their ramps. -/
def State.parkRamps (s : State) (h ms : Nat) : State :=
  let s2 := (((s.parkDark h).gateHead h 4 (.hold 0)).gateHead h 5 (.hold 0)).gateHead h 2 (.ramp (s.lastOut h 2) 0 s.now msCycles)
  let s3 := s2.gateTrack h (.ramp (s.lastOut h 1) 0 s.now msCycles)
  s3.gateHead h 0 (.ramp (s.lastOut h 0) (s.rdS Reg.LPE_SAFE_CFG_FOCUS_PARK 0) (s.now + msCycles) ms)

def State.parkRamps_mask : Nat := State.gateHead_mask ||| State.gateTrack_mask

theorem State.parkRamps_keeps (s : State) (h ms : Nat) : Keeps State.parkRamps_mask (s.parkDark h) (s.parkRamps h ms) := by
  unfold State.parkRamps
  exact Keeps.step (State.gateHead_keeps ..) (Keeps.step (State.gateTrack_keeps ..) (Keeps.step (State.gateHead_keeps ..)
    (Keeps.step (State.gateHead_keeps ..) (Keeps.mono (State.gateHead_keeps ..)))))

/-- A head's record while it parks. -/
def Head.parking (x : Head) (cause due : Nat) : Head :=
  { x with waiting := if cause = 0 ∨ cause = 3 then x.waiting else [], again := none, step := none, parkCause := cause, stage := 0,
           pfPark := false, dueAt := due }

/-- What keeps a head from parking: it is down, or parks already. -/
abbrev State.parkStays (s : State) (h cause : Nat) : Prop :=
  s.hd h = hdOff ∨ s.hd h = hdParked ∨ (s.hd h = hdFault ∧ cause ≠ 4) ∨ (s.hd h = hdParking ∧ cause ≠ 4)

theorem State.parkHead_eq {s : State} {h cause : Nat} (hgo : ¬s.parkStays h cause) : ∃ ms due, s.parkHead h cause =
    (((s.parkRamps h ms).putHead h (((s.parkRamps h ms).head h).parking cause due)).clearLocks h).setHd h hdParking := by
  rw [State.parkHead]
  exact ⟨_, _, if_neg hgo⟩

theorem State.not_parkStays {s : State} {h : Nat} (hup : s.headUp h = true) (hne : s.hd h ≠ hdParking) (cause : Nat) :
    ¬s.parkStays h cause := by
  obtain ⟨hoff, hparked, hfault⟩ := State.headUp_iff.1 hup
  simp [hoff, hparked, hfault, hne]

theorem State.parkHead_spec {s : State} {h : Nat} (hup : s.headUp h = true) (hne : s.hd h ≠ hdParking) (cause : Nat) :
    (s.parkHead h cause).hd h = hdParking ∧ ((s.parkHead h cause).head h).op = none ∧
      ((s.parkHead h cause).head h).readOn = false ∧ ((s.parkHead h cause).head h).parkCause = cause := by
  obtain ⟨ms, due, heq⟩ := State.parkHead_eq (State.not_parkStays hup hne cause)
  obtain ⟨hdone, hdark⟩ := s.parkDark_head h
  rw [heq, State.setHd_head, (State.clearLocks_keeps ..).head h, State.putHead_head, (State.parkRamps_keeps ..).head h]
  exact ⟨State.setHd_hd .., hdone, hdark, rfl⟩

/-- A head that is down stays as it is, unless power fails. -/
theorem State.parkHead_down {s : State} {h cause : Nat} (hdown : s.headUp h = false) (hc : cause ≠ 4) : s.parkHead h cause = s := by
  refine if_pos ?_
  rw [← Bool.not_eq_true, State.headUp_iff] at hdown
  simp only [not_and_or, not_not] at hdown
  obtain hoff | hparked | hfault := hdown
  · exact .inl hoff
  · exact .inr (.inl hparked)
  · exact .inr (.inr (.inl ⟨hfault, hc⟩))

/-- The parking of a head leaves every other head alone. -/
theorem State.parkHead_ne (s : State) {h k : Nat} (cause : Nat) (hne : h ≠ k) :
    (s.parkHead h cause).head k = s.head k ∧ (s.parkHead h cause).hd k = s.hd k := by
  by_cases hstay : s.parkStays h cause
  · rw [show s.parkHead h cause = s from if_pos hstay]
    exact ⟨rfl, rfl⟩
  · obtain ⟨ms, due, heq⟩ := State.parkHead_eq hstay
    have hdark : (s.parkDark h).hd k = s.hd k := ((State.readPowerOff_keeps ..).hd k).trans
      (((State.stopWriting_keeps ..).hd k).trans ((State.abandonOp_keeps ..).hd k))
    rw [heq, State.setHd_head, State.setHd_hd_ne _ _ hne, (State.clearLocks_keeps ..).head k, (State.clearLocks_keeps ..).hd k,
      State.putHead_head_ne _ _ hne, State.putHead_hd, (State.parkRamps_keeps ..).head k, (State.parkRamps_keeps ..).hd k, hdark]
    exact ⟨s.parkDark_ne hne, rfl⟩

/-- A head that fails in acquisition or recovery parks on its way to FAULT. -/
theorem State.faultHead_parks {s : State} {h : Nat} (hup : s.headUp h = true) (hne : s.hd h ≠ hdParking) (why : Nat) :
    (s.faultHead h why).hd h = hdParking ∧ ((s.faultHead h why).head h).parkCause = 2 ∧ ((s.faultHead h why).head h).op = none := by
  suffices hpark : ∀ t : State, t.hd h = s.hd h → (t.parkHead h 2).hd h = hdParking ∧ ((t.parkHead h 2).head h).parkCause = 2 ∧
      ((t.parkHead h 2).head h).op = none by
    unfold State.faultHead
    extract_lets s1 x s2
    have h2 : s2.hd h = s.hd h := (State.raise_keeps ..).hd h
    split
    · exact hpark _ (((State.headResult_keeps ..).hd h).trans h2)
    · exact hpark _ h2
  intro t ht
  obtain ⟨hhd, hop, -, hcause⟩ := State.parkHead_spec ((State.headUp_congr ht).trans hup) (ht ▸ hne) 2
  exact ⟨hhd, hcause, hop⟩

theorem State.acqFail_parks {s : State} {h : Nat} (hup : s.headUp h = true) (hne : s.hd h ≠ hdParking) (why : Nat) :
    (s.acqFail h why).hd h = hdParking ∧ ((s.acqFail h why).head h).parkCause = 2 ∧ ((s.acqFail h why).head h).op = none := by
  have hfail : Keeps State.failHead_mask (s.faultHead h why) (s.acqFail h why) := State.failHead_keeps ..
  rw [hfail.hd h, hfail.head h]
  exact State.faultHead_parks hup hne why

/-! ### The place of a head (R398) -/

theorem State.focOf_congr {s t : State} (hloop : t.loop = s.loop) {n : Nat}
    (hslot : t.rd Reg.STN_SP_SLOTS_FOC_SLOT n = s.rd Reg.STN_SP_SLOTS_FOC_SLOT n) : t.focOf n = s.focOf n := by
  rw [State.focOf, State.focOf, State.lslot, State.lslot, hloop, hslot]

theorem State.posNow_congr {s t : State} {h : Nat} (hfoc : t.focOf (h / 2) = s.focOf (h / 2)) (hnow : t.now = s.now)
    (hpos : (t.head h).pos = (s.head h).pos) (hat : (t.head h).posAt = (s.head h).posAt) : t.posNow h = s.posNow h := by
  simp only [State.posNow, State.bitsIn, State.obsSpeed, hfoc, hnow, hpos, hat]

/-- A head that has just been located is where it was found. -/
theorem State.posNow_of_located {s : State} {h : Nat} (hat : (s.head h).posAt = s.now) : s.posNow h = (s.head h).pos := by
  simp [State.posNow, State.bitsIn, hat]

/-- The seek to a request's slot is as long after an operation that leaves the head's place alone. -/
theorem Keeps.landingOf {m : Nat} {s t : State} (k : Keeps m s t) {h : Nat} (hpos : (t.head h).pos = (s.head h).pos)
    (hat : (t.head h).posAt = (s.head h).posAt) (r : HReq) (hloop : m.testBit (Part.bit .loop) = false := by decide +kernel)
    (hnow : m.testBit (Part.bit .now) = false := by decide +kernel)
    (hslot : m.testBit (Reg.STN_SP_SLOTS_FOC_SLOT.id % 8192) = false := by decide +kernel)
    (hmargin : m.testBit (Reg.STN_HD_SEEK_CFG_LAND_MARGIN.id % 8192) = false := by decide +kernel) :
    t.landingOf h r = s.landingOf h r := by
  have hplace : t.posNow h = s.posNow h :=
    State.posNow_congr (State.focOf_congr (k.part .loop hloop) (k.rd _ _ hslot)) (k.now hnow) hpos hat
  rw [State.landingOf, State.landingOf, State.landMargin, State.landMargin, hplace, k.rd _ _ hmargin]

/-! ### Seeks (R397 to R399) -/

theorem State.jumpMax_congr {s t : State} {h : Nat} (hmax : t.rd Reg.STN_HD_TRK_CFG_JUMP_MAX h = s.rd Reg.STN_HD_TRK_CFG_JUMP_MAX h) :
    t.jumpMax h = s.jumpMax h := by rw [State.jumpMax, State.jumpMax, State.rd1, State.rd1, hmax]

theorem State.startJump_head (s : State) (h : Nat) (j : Int) :
    ∃ due, (s.startJump h j).head h = { s.head h with jump := j, stage := 8, dueAt := due } :=
  ⟨_, (State.putHead_head ..).trans (by rw [(State.stepTrack_keeps ..).head h])⟩

theorem State.longMove_head (s : State) (h : Nat) (j : Int) : (s.longMove h j).head h =
    { s.head h with jump := j, longMoves := (s.head h).longMoves + 1, stage := 9, tries := 0, stageAt := s.now } := by
  rw [State.longMove, (State.headMove_keeps ..).head h]
  exact (State.putHead_head ..).trans (by rw [(State.gateTrack_keeps ..).head h])

theorem State.longMove_unlocked (s : State) (h : Nat) (j : Int) : (s.longMove h j).flag Reg.STN_HD_STATUS_TRK_LOCK h = false := by
  rw [State.longMove, (State.headMove_keeps ..).flag _ _ (by decide +kernel)]
  exact (State.flag_wr_ne _ _ _ _ _ _ (by decide)).trans (State.flag_clr ..)

theorem State.seekMove_jumps {s : State} {h : Nat} {j : Int} (hj : j.natAbs ≤ s.jumpMax h) : s.seekMove h j = s.startJump h j :=
  if_pos hj

theorem State.seekMove_long {s : State} {h : Nat} {j : Int} (hj : s.jumpMax h < j.natAbs) : s.seekMove h j = s.longMove h j :=
  if_neg (by omega)

/-- A move of a seek leaves the operation and its calibration burst. -/
theorem State.seekMove_head (s : State) (h : Nat) (j : Int) :
    ((s.seekMove h j).head h).op = (s.head h).op ∧ ((s.seekMove h j).head h).opc = (s.head h).opc := by
  obtain hj | hj := le_or_gt j.natAbs (s.jumpMax h)
  · obtain ⟨due, hhead⟩ := s.startJump_head h j
    rw [State.seekMove_jumps hj, hhead]
    exact ⟨rfl, rfl⟩
  · rw [State.seekMove_long hj, s.longMove_head h j]
    exact ⟨rfl, rfl⟩

/-- A head's record as a seek begins. -/
def Head.seeking (x : Head) (r : HReq) : Head := { x with op := some r, longMoves := 0, stage := 8 }

theorem State.startSeek_here {s : State} {h : Nat} {r : HReq} (hj : s.landingOf h r = 0) (hk : r.kind ≠ 5) :
    s.startSeek h r = (s.putHead h ((s.head h).seeking r)).opDone h := by
  simp only [State.startSeek, hj, if_true, if_neg hk]
  rfl

theorem State.startSeek_opc {s : State} {h : Nat} {r : HReq} (hj : s.landingOf h r = 0) (hk : r.kind = 5) :
    s.startSeek h r = (s.putHead h ((s.head h).seeking r)).opcLanded h := by
  simp only [State.startSeek, hj, if_true, if_pos hk]
  rfl

def State.seekBegun_mask : Nat := State.putHead_mask ||| State.setHd_mask

/-- A seek that is to move the head: it is in SEEK, its operation the seek, and one jump or a long move begins. -/
theorem State.startSeek_moves {s : State} {h : Nat} {r : HReq} (hj : s.landingOf h r ≠ 0) : ∃ u : State,
    Keeps State.seekBegun_mask s u ∧ u.hd h = hdSeek ∧ u.head h = (s.head h).seeking r ∧
      s.startSeek h r = u.seekMove h (s.landingOf h r) := by
  refine ⟨(s.putHead h ((s.head h).seeking r)).setHd h hdSeek, ?_, State.setHd_hd .., ?_, ?_⟩
  · exact Keeps.step (State.setHd_keeps ..) (Keeps.mono (State.putHead_keeps ..))
  · rw [State.setHd_head, State.putHead_head]
  · simp only [State.startSeek, if_neg hj]
    rfl

theorem State.startSeek_moves_keeps {s : State} {h : Nat} {r : HReq} (hj : s.landingOf h r ≠ 0) :
    Keeps (State.seekBegun_mask ||| State.seekMove_mask) s (s.startSeek h r) := by
  obtain ⟨u, hu, -, -, heq⟩ := State.startSeek_moves hj
  exact heq ▸ Keeps.step (State.seekMove_keeps ..) hu.mono

theorem State.startSeek_jumps {s : State} {h : Nat} {r : HReq} (hj : s.landingOf h r ≠ 0)
    (hmax : (s.landingOf h r).natAbs ≤ s.jumpMax h) :
    (s.startSeek h r).hd h = hdSeek ∧ ((s.startSeek h r).head h).jump = s.landingOf h r ∧
      ((s.startSeek h r).head h).op = some r := by
  obtain ⟨u, hu, hhd, hhead, heq⟩ := State.startSeek_moves hj
  obtain ⟨due, hdue⟩ := u.startJump_head h (s.landingOf h r)
  rw [heq, State.seekMove_jumps (by rwa [State.jumpMax_congr (hu.rd _ _ (by decide +kernel))]), hdue,
    (State.startJump_keeps ..).hd h, hhead]
  exact ⟨hhd, rfl, rfl⟩

theorem State.startSeek_long {s : State} {h : Nat} {r : HReq} (hmax : s.jumpMax h < (s.landingOf h r).natAbs) :
    (s.startSeek h r).hd h = hdSeek ∧ ((s.startSeek h r).head h).longMoves = 1 ∧ ((s.startSeek h r).head h).stage = 9 ∧
      (s.startSeek h r).flag Reg.STN_HD_STATUS_TRK_LOCK h = false := by
  have hj : s.landingOf h r ≠ 0 := Int.natAbs_pos.1 (by omega)
  obtain ⟨u, hu, hhd, hhead, heq⟩ := State.startSeek_moves hj
  rw [heq, State.seekMove_long (by rwa [State.jumpMax_congr (hu.rd _ _ (by decide +kernel))]), u.longMove_head,
    (State.longMove_keeps ..).hd h, hhead]
  exact ⟨hhd, rfl, rfl, u.longMove_unlocked ..⟩

theorem State.opcLanded_head (s : State) (h : Nat) : (s.opcLanded h).head h = { s.head h with stage := 0, longMoves := 0 } :=
  (State.setHd_head ..).trans (State.putHead_head ..)

/-- The seek of a calibration leads to OPC, at once where it is on its place. -/
theorem State.startSeek_calibrates {s : State} {h : Nat} {r : HReq} (hk : r.kind = 5) :
    ((s.startSeek h r).head h).op = some r ∧ ((s.startSeek h r).head h).opc = (s.head h).opc ∧
      (s.startSeek h r).hd h = if s.landingOf h r = 0 then hdOpc else hdSeek := by
  by_cases hj : s.landingOf h r = 0
  · rw [State.startSeek_opc hj hk, if_pos hj, State.opcLanded_head, State.putHead_head]
    exact ⟨rfl, rfl, State.setHd_hd ..⟩
  · obtain ⟨u, -, hhd, hhead, heq⟩ := State.startSeek_moves hj
    obtain ⟨hop, hopc⟩ := u.seekMove_head h (s.landingOf h r)
    rw [heq, if_neg hj, hop, hopc, hhead, (State.seekMove_keeps ..).hd h]
    exact ⟨rfl, rfl, hhd⟩

/-! ### Layer jumps (R403) -/

theorem State.moveRelay_head (s : State) (h l : Nat) (off : Int) :
    ∃ x : Head, (s.moveRelay h l off).head h = x ∧ x.op = (s.head h).op ∧ x.again = (s.head h).again ∧ x.stage = 5 ∧
      x.readOn = false := by
  unfold State.moveRelay
  extract_lets from_ to_ rate runs s1 s2 s3 x
  have hsent : Keeps (State.gateHead_mask ||| State.setOut_mask ||| State.headPrm_mask) (s.readPowerOff h) s3 :=
    Keeps.step (State.headPrm_keeps ..) (Keeps.step (State.setOut_keeps ..) (Keeps.mono (State.gateHead_keeps ..)))
  have hx : x = { s.head h with readOn := false } := (hsent.head h).trans (s.readPowerOff_head h)
  refine ⟨_, State.putHead_head s3 h _, ?_⟩
  rw [hx]
  exact ⟨rfl, rfl, rfl, rfl⟩

/-! ### Recovery (R413) -/

/-- A head that enters RECOVER has the recovery as its operation, and what it abandoned to do again. -/
theorem State.enterRecover_spec (s : State) (h stage : Nat) : (s.enterRecover h stage).hd h = hdRecover ∧
    ((s.enterRecover h stage).head h).op.map HReq.kind = some 6 ∧
    ((s.enterRecover h stage).head h).again = ((s.abandonOp h false).head h).again := by
  unfold State.enterRecover
  extract_lets s1 x r
  rw [State.setHd_head, State.putHead_head]
  exact ⟨State.setHd_hd .., rfl, rfl⟩

/-- A head without an operation enters RECOVER with what it had to do again. -/
theorem State.enterRecover_again {s : State} {h : Nat} (hop : (s.head h).op = none) (stage : Nat) :
    ((s.enterRecover h stage).head h).again = (s.head h).again := by
  obtain ⟨-, -, hagain⟩ := s.enterRecover_spec h stage
  rw [hagain, State.abandonOp_of_none hop]

end Sys2Proof.Machine
end

section
/-!
PROOF. Operations of a head start (O36): those that firmware asks for, the requests of the slice and the command sequencer, the
one-track step and the automatic calibration.
-/

set_option Elab.async false

namespace Sys2Proof.Machine

/-! ### GO (R389, R424) -/

/-- Firmware has told a head to carry out an operation. -/
def State.headTold (s : State) (h op : Nat) : State := (s.wr Reg.STN_HD_CMD_OP h op).set1 Reg.STN_HD_CMD_BUSY h

def State.headTold_mask : Nat := fieldBits [Reg.STN_HD_CMD_OP, Reg.STN_HD_CMD_BUSY]

theorem State.headTold_keeps (s : State) (h op : Nat) : Keeps State.headTold_mask s (s.headTold h op) :=
  Keeps.set1 (Keeps.wr (Keeps.refl _ _))

theorem State.headTold_busy (s : State) (h op : Nat) : (s.headTold h op).flag Reg.STN_HD_CMD_BUSY h = true :=
  State.flag_set1 _ _ (by decide)

theorem State.headTold_landingOf (s : State) (h op : Nat) (r : HReq) : (s.headTold h op).landingOf h r = s.landingOf h r :=
  (s.headTold_keeps h op).landingOf rfl rfl r

theorem State.headTold_jumpMax (s : State) (h op : Nat) : (s.headTold h op).jumpMax h = s.jumpMax h :=
  State.jumpMax_congr ((s.headTold_keeps h op).rd _ _ (by decide +kernel))

/-- GO with an operation that the head may carry out; PARK is taken even from a busy head. -/
theorem State.headGo_takes {s : State} {h op : Nat} {ok : Bool} (hok : ok = true) (hm : s.mode ≠ mCinder)
    (hb : s.flag Reg.STN_HD_CMD_BUSY h = false ∨ op = 4) (f : State → State) :
    (.next (s.headGo h op ok f) : Res) = .next (f (s.headTold h op)) := by
  have hgo : ¬(decide (s.mode = mCinder) || (s.flag Reg.STN_HD_CMD_BUSY h && op != 4)) = true := by
    obtain hb | hb := hb <;> simp [hm, hb]
  rw [State.headGo, if_neg hgo, if_pos hok]
  rfl

theorem State.headGo_refuses {s : State} {h op : Nat} {ok : Bool} (hok : ok = false) (hm : s.mode ≠ mCinder)
    (hb : s.flag Reg.STN_HD_CMD_BUSY h = false) (f : State → State) :
    (.next (s.headGo h op ok f) : Res) = .next ((s.wr Reg.STN_HD_CMD_OP h op).wr Reg.STN_HD_CMD_RESULT h 1) := by
  rw [State.headGo, if_neg (by simp [hm, hb]), if_neg (by simp [hok])]

/-- A READY head without an operation may take one. -/
theorem State.idleReady {s : State} {h : Nat} (hready : s.hd h = hdReady) (hop : (s.head h).op = none) :
    (s.hd h == hdReady && (s.head h).op.isNone) = true := by simp [hready, hop]

/-! ### ACQUIRE (R393) -/

theorem State.focusSweep_spec (s : State) (h : Nat) : (s.focusSweep h).hd h = hdFocusAcq ∧
    ((s.focusSweep h).head h).op = (s.head h).op ∧ ((s.focusSweep h).head h).stageAt = s.now := by
  unfold State.focusSweep
  extract_lets x s1 s2
  rw [State.setHd_head, State.putHead_head]
  exact ⟨State.setHd_hd .., rfl, rfl⟩

theorem State.acquire_spec {s : State} {h : Nat} (hdown : s.hd h = hdParked ∨ s.hd h = hdFault) (r : HReq) :
    (s.acquire h r).hd h = hdFocusAcq ∧ ((s.acquire h r).head h).op = some r := by
  unfold State.acquire
  rw [if_pos hdown]
  obtain ⟨hhd, hop, -⟩ := (((s.parkGates h).clr Reg.STN_HD_POS_VALID h).putHead h
    { s.head h with op := some r, tries := 0 }).focusSweep_spec h
  rw [State.putHead_head] at hop
  exact ⟨hhd, hop⟩

theorem gives_headAcquire (s : State) (n : Fin 128) (a : Fin 2) (h : Nat) (hh : h = headOf n a) (hm : s.mode ≠ mCinder)
    (hb : s.flag Reg.STN_HD_CMD_BUSY h = false) (hdown : s.hd h = hdParked ∨ s.hd h = hdFault) :
    s.gives (.headAcquire n a) fun t => t.hd h = hdFocusAcq ∧ (t.head h).op = some (s.targetReq h 1) ∧
      t.flag Reg.STN_HD_CMD_BUSY h = true := by
  subst hh
  have htold : (s.headTold (headOf n a) 1).hd (headOf n a) = s.hd (headOf n a) := (s.headTold_keeps ..).hd _
  obtain ⟨hhd, hop⟩ := State.acquire_spec (htold.symm ▸ hdown) (s.targetReq (headOf n a) 1)
  refine State.gives_of_exec (State.headGo_takes (by simpa using hdown) hm (.inl hb) _) ⟨hhd, hop, ?_⟩
  exact ((State.acquire_keeps ..).flag _ _ (by decide +kernel)).trans (s.headTold_busy ..)

theorem gives_headAcquire_refused (s : State) (n : Fin 128) (a : Fin 2) (h : Nat) (hh : h = headOf n a) (hm : s.mode ≠ mCinder)
    (hb : s.flag Reg.STN_HD_CMD_BUSY h = false) (hparked : s.hd h ≠ hdParked) (hfault : s.hd h ≠ hdFault) :
    s.gives (.headAcquire n a) fun t => t.rd Reg.STN_HD_CMD_RESULT h = 1 ∧ t.hd h = s.hd h ∧ t.heads = s.heads := by
  subst hh
  refine State.gives_of_exec (State.headGo_refuses (by simp [hparked, hfault]) hm hb _) ⟨State.rd_wr_same .., ?_, rfl⟩
  exact (State.rd_wr_ne _ _ _ _ _ _ (by decide)).trans (State.rd_wr_ne _ _ _ _ _ _ (by decide))

/-! ### SEEK (R397 to R399) -/

theorem exec_headSeek {s : State} {n : Fin 128} {a : Fin 2} {h : Nat} (hh : h = headOf n a) (hm : s.mode ≠ mCinder)
    (hb : s.flag Reg.STN_HD_CMD_BUSY h = false) (hready : s.hd h = hdReady) (hop : (s.head h).op = none) :
    exec (.headSeek n a) s = .next ((s.headTold h 2).startSeek h (s.targetReq h 2)) := by
  subst hh
  exact State.headGo_takes (State.idleReady hready hop) hm (.inl hb) _

theorem gives_headSeek_here (s : State) (n : Fin 128) (a : Fin 2) (h : Nat) (hh : h = headOf n a) (hm : s.mode ≠ mCinder)
    (hb : s.flag Reg.STN_HD_CMD_BUSY h = false) (hready : s.hd h = hdReady) (hop : (s.head h).op = none)
    (hj : landing (s.posNow h) (slotPos (s.rd Reg.STN_HD_TARGET_SLOT h) (s.flag Reg.STN_HD_TARGET_LEADIN h)) (s.landMargin h) = 0) :
    s.gives (.headSeek n a) fun t => t.hd h = hdReady ∧ (t.head h).op = none ∧ t.flag Reg.STN_HD_CMD_BUSY h = false ∧
      t.rd Reg.STN_HD_CMD_RESULT h = 0 := by
  refine State.gives_of_exec (exec_headSeek hh hm hb hready hop) ?_
  rw [State.startSeek_here ((s.headTold_landingOf h 2 (s.targetReq h 2)).trans hj) (by simp [State.targetReq]), State.opDone_head]
  exact ⟨State.opDone_hd .., rfl, State.opDone_busy (s.headTold_busy h 2)⟩

theorem gives_headSeek_jumps (s : State) (n : Fin 128) (a : Fin 2) (h : Nat) (j : Int) (hh : h = headOf n a) (hm : s.mode ≠ mCinder)
    (hb : s.flag Reg.STN_HD_CMD_BUSY h = false) (hready : s.hd h = hdReady) (hop : (s.head h).op = none)
    (hj : j = landing (s.posNow h) (slotPos (s.rd Reg.STN_HD_TARGET_SLOT h) (s.flag Reg.STN_HD_TARGET_LEADIN h)) (s.landMargin h))
    (hj0 : j ≠ 0) (hmax : j.natAbs ≤ s.jumpMax h) :
    s.gives (.headSeek n a) fun t => t.hd h = hdSeek ∧ (t.head h).jump = j ∧ (t.head h).op = some (s.targetReq h 2) ∧
      t.flag Reg.STN_HD_CMD_BUSY h = true := by
  have hland : (s.headTold h 2).landingOf h (s.targetReq h 2) = j := (s.headTold_landingOf ..).trans hj.symm
  rw [← hland] at hj0
  obtain ⟨hhd, hjump, hreq⟩ := State.startSeek_jumps hj0 (by rwa [hland, State.headTold_jumpMax])
  refine State.gives_of_exec (exec_headSeek hh hm hb hready hop) ⟨hhd, hjump.trans hland, hreq, ?_⟩
  exact ((State.startSeek_moves_keeps hj0).flag _ _ (by decide +kernel)).trans (s.headTold_busy h 2)

theorem gives_headSeek_long (s : State) (n : Fin 128) (a : Fin 2) (h : Nat) (j : Int) (hh : h = headOf n a) (hm : s.mode ≠ mCinder)
    (hb : s.flag Reg.STN_HD_CMD_BUSY h = false) (hready : s.hd h = hdReady) (hop : (s.head h).op = none)
    (hj : j = landing (s.posNow h) (slotPos (s.rd Reg.STN_HD_TARGET_SLOT h) (s.flag Reg.STN_HD_TARGET_LEADIN h)) (s.landMargin h))
    (hmax : s.jumpMax h < j.natAbs) :
    s.gives (.headSeek n a) fun t => t.hd h = hdSeek ∧ (t.head h).longMoves = 1 ∧ (t.head h).stage = 9 ∧
      t.flag Reg.STN_HD_STATUS_TRK_LOCK h = false := by
  have hland : (s.headTold h 2).landingOf h (s.targetReq h 2) = j := (s.headTold_landingOf ..).trans hj.symm
  exact State.gives_of_exec (exec_headSeek hh hm hb hready hop) (State.startSeek_long (by rwa [hland, State.headTold_jumpMax]))

/-! ### LAYER (R403) -/

theorem State.startLayer_spec (s : State) (h : Nat) (r : HReq) : (s.startLayer h r).hd h = hdLayerAcq ∧
    ((s.startLayer h r).head h).op = some r ∧ ((s.startLayer h r).head h).stage = 5 ∧ ((s.startLayer h r).head h).readOn = false := by
  unfold State.startLayer
  extract_lets x
  obtain ⟨y, hy, hop, -, hstage, hread⟩ := State.moveRelay_head
    ((s.putHead h { x with op := some r, tries := 0 }).setHd h hdLayerAcq) h r.layer 0
  rw [State.setHd_head, State.putHead_head] at hop
  rw [hy, (State.moveRelay_keeps ..).hd h]
  exact ⟨State.setHd_hd .., hop, hstage, hread⟩

theorem gives_headLayer (s : State) (n : Fin 128) (a : Fin 2) (h : Nat) (hh : h = headOf n a) (hm : s.mode ≠ mCinder)
    (hb : s.flag Reg.STN_HD_CMD_BUSY h = false) (hready : s.hd h = hdReady) (hop : (s.head h).op = none) :
    s.gives (.headLayer n a) fun t => t.hd h = hdLayerAcq ∧ (t.head h).op = some (s.targetReq h 3) ∧ (t.head h).stage = 5 ∧
      (t.head h).readOn = false := by
  subst hh
  exact State.gives_of_exec (State.headGo_takes (State.idleReady hready hop) hm (.inl hb) _) (State.startLayer_spec ..)

/-! ### PARK and CLEAR_FAULT (R390, R415, R420) -/

theorem gives_headPark (s : State) (n : Fin 128) (a : Fin 2) (h : Nat) (hh : h = headOf n a) (hm : s.mode ≠ mCinder)
    (hup : s.headUp h = true) (hne : s.hd h ≠ hdParking) :
    s.gives (.headPark n a) fun t => t.hd h = hdParking ∧ (t.head h).op = some { kind := 4, firmware := true } ∧
      t.flag Reg.STN_HD_CMD_BUSY h = true ∧ (t.head h).readOn = false := by
  subst hh
  obtain ⟨hoff, hparked, hfault⟩ := State.headUp_iff.1 hup
  let u := (s.headTold (headOf n a) 4).abandonHeadCal (headOf n a)
  let v := u.parkHead (headOf n a) 0
  have hu : u.hd (headOf n a) = s.hd (headOf n a) := ((State.abandonHeadCal_keeps ..).hd _).trans ((s.headTold_keeps ..).hd _)
  obtain ⟨hhd, -, hread, -⟩ := State.parkHead_spec ((State.headUp_congr hu).trans hup) (hu ▸ hne) 0
  have hexec : exec (.headPark n a) s = .next ((v.putHead (headOf n a) { v.head (headOf n a) with
      op := some { kind := 4, firmware := true } }).set1 Reg.STN_HD_CMD_BUSY (headOf n a)) :=
    (State.headGo_takes (by simp [hoff, hfault, hne]) hm (.inr rfl) _).trans (by rw [if_neg hparked])
  have hhead : ∀ x, ((v.putHead (headOf n a) x).set1 Reg.STN_HD_CMD_BUSY (headOf n a)).head (headOf n a) = x := fun x =>
    State.putHead_head ..
  refine State.gives_of_exec hexec ⟨?_, by rw [hhead], State.flag_set1 _ _ (by decide), by rw [hhead]; exact hread⟩
  exact (State.rd_set1_ne _ _ _ _ _ (by decide)).trans hhd

theorem gives_headPark_parked (s : State) (n : Fin 128) (a : Fin 2) (h : Nat) (hh : h = headOf n a) (hm : s.mode ≠ mCinder)
    (hparked : s.hd h = hdParked) :
    s.gives (.headPark n a) fun t => t.hd h = hdParked ∧ t.flag Reg.STN_HD_CMD_BUSY h = false ∧ t.rd Reg.STN_HD_CMD_RESULT h = 0 := by
  subst hh
  have hexec : exec (.headPark n a) s = .next ((s.headTold (headOf n a) 4).headResult (headOf n a) 0) :=
    (State.headGo_takes (by simp only [hparked]; decide) hm (.inr rfl) _).trans (by rw [if_pos hparked])
  refine State.gives_of_exec hexec ⟨?_, State.headResult_busy (s.headTold_busy ..)⟩
  exact ((State.headResult_keeps ..).hd _).trans (((s.headTold_keeps ..).hd _).trans hparked)

theorem gives_headClearFault (s : State) (n : Fin 128) (a : Fin 2) (h : Nat) (hh : h = headOf n a) (hm : s.mode ≠ mCinder)
    (hb : s.flag Reg.STN_HD_CMD_BUSY h = false) (hfault : s.hd h = hdFault) :
    s.gives (.headClearFault n a) fun t => t.hd h = hdParked ∧ t.flag Reg.STN_HD_CMD_BUSY h = false ∧
      t.rd Reg.STN_HD_CMD_RESULT h = 0 := by
  subst hh
  refine State.gives_of_exec (State.headGo_takes (beq_iff_eq.2 hfault) hm (.inl hb) _) ⟨?_, State.headResult_busy ?_⟩
  · exact ((State.headResult_keeps ..).hd _).trans (State.setHd_hd ..)
  · exact ((State.setHd_keeps ..).flag _ _ (by decide +kernel)).trans (s.headTold_busy ..)

/-! ### OPC (R407, R408, R410) -/

/-- A head's record as a calibration begins. -/
def Head.calibrating (x : Head) (b : Nat) : Head := { x with opcTries := 0, opc := { burst := b } }

/-- A calibration seeks to the slot of the next burst. -/
theorem State.startOpc_seeks {s : State} {h : Nat} {r : HReq} (hk : r.kind = 5) (hb : s.pcaNext h r.layer < 18432) :
    ((s.startOpc h r).head h).op = some { r with slot := s.pcaNext h r.layer / 18, leadin := true } ∧
      ((s.startOpc h r).head h).opc.burst = s.pcaNext h r.layer ∧
      (s.startOpc h r).hd h =
        if s.landingOf h { r with slot := s.pcaNext h r.layer / 18, leadin := true } = 0 then hdOpc else hdSeek := by
  let r' : HReq := { r with slot := s.pcaNext h r.layer / 18, leadin := true }
  let u := (s.putHead h ((s.head h).calibrating (s.pcaNext h r.layer))).wantSlice h true
  have heq : s.startOpc h r = u.startSeek h r' := if_pos hb
  have hu : u.head h = (s.head h).calibrating (s.pcaNext h r.layer) := ((State.wantSlice_keeps ..).head h).trans (State.putHead_head ..)
  have hkeep : Keeps (State.wantSlice_mask ||| State.putHead_mask) s u :=
    Keeps.step (State.wantSlice_keeps ..) (Keeps.mono (State.putHead_keeps ..))
  have hland : u.landingOf h r' = s.landingOf h r' := hkeep.landingOf (by rw [hu]; rfl) (by rw [hu]; rfl) r'
  obtain ⟨hop, hopc, hhd⟩ := State.startSeek_calibrates (s := u) (h := h) (r := r') hk
  rw [heq, hop, hopc, hhd, hu, hland]
  exact ⟨rfl, rfl, rfl⟩

/-- With the calibration area used up there is nothing to seek. -/
theorem State.startOpc_full {s : State} {h : Nat} {r : HReq} (hb : 18432 ≤ s.pcaNext h r.layer) :
    (s.startOpc h r).hd h = hdOpc ∧ ((s.startOpc h r).head h).op = some r := by
  unfold State.startOpc
  extract_lets b x s1
  rw [if_neg (Nat.not_lt.2 hb), State.setHd_head, State.putHead_head]
  exact ⟨State.setHd_hd .., rfl⟩

theorem exec_headOpc {s : State} {n : Fin 128} {a : Fin 2} {h : Nat} (hh : h = headOf n a) (hm : s.mode ≠ mCinder)
    (hb : s.flag Reg.STN_HD_CMD_BUSY h = false) (hready : s.hd h = hdReady) (hop : (s.head h).op = none) :
    exec (.headOpc n a) s = .next ((s.headTold h 5).startOpc h { s.targetReq h 5 with layer := s.layerOf h }) := by
  subst hh
  exact State.headGo_takes (State.idleReady hready hop) hm (.inl hb) _

theorem gives_headOpc (s : State) (n : Fin 128) (a : Fin 2) (h : Nat) (hh : h = headOf n a) (hm : s.mode ≠ mCinder)
    (hb : s.flag Reg.STN_HD_CMD_BUSY h = false) (hready : s.hd h = hdReady) (hop : (s.head h).op = none)
    (hnext : s.pcaNext h (s.layerOf h) < 18432) :
    s.gives (.headOpc n a) fun t => (t.head h).op = some { s.targetReq h 5 with
        layer := s.layerOf h, slot := s.pcaNext h (s.layerOf h) / 18, leadin := true } ∧
      (t.head h).opc.burst = s.pcaNext h (s.layerOf h) ∧
      t.hd h = (if landing (s.posNow h) (slotPos (s.pcaNext h (s.layerOf h) / 18) true) (s.landMargin h) = 0 then hdOpc else hdSeek) := by
  obtain ⟨hreq, hburst, hhd⟩ := State.startOpc_seeks (s := s.headTold h 5) (h := h)
    (r := { s.targetReq h 5 with layer := s.layerOf h }) rfl hnext
  rw [State.headTold_landingOf] at hhd
  exact State.gives_of_exec (exec_headOpc hh hm hb hready hop) ⟨hreq, hburst, hhd⟩

theorem gives_headOpc_full (s : State) (n : Fin 128) (a : Fin 2) (h : Nat) (hh : h = headOf n a) (hm : s.mode ≠ mCinder)
    (hb : s.flag Reg.STN_HD_CMD_BUSY h = false) (hready : s.hd h = hdReady) (hop : (s.head h).op = none)
    (hnext : 18432 ≤ s.pcaNext h (s.layerOf h)) :
    s.gives (.headOpc n a) fun t => t.hd h = hdOpc ∧ (t.head h).op = some { s.targetReq h 5 with layer := s.layerOf h } :=
  State.gives_of_exec (exec_headOpc hh hm hb hready hop) (State.startOpc_full hnext)

/-! ### Requests (R389) -/

/-- A request that a head cannot serve waits. -/
theorem State.askHead_waits {s : State} {h : Nat} (hm : s.mode ≠ mCinder) (hbusy : s.hd h ≠ hdReady) (r : HReq) :
    ((s.askHead h r).head h).waiting = (s.head h).waiting ++ [r] ∧ (s.askHead h r).hd h = s.hd h := by
  unfold State.askHead
  extract_lets x
  rw [if_neg hm, if_neg fun hready => hbusy hready.1, State.putHead_head]
  exact ⟨rfl, rfl⟩

theorem State.askHead_starts {s : State} {h : Nat} (hm : s.mode ≠ mCinder) (hready : s.hd h = hdReady) (hop : (s.head h).op = none)
    (r : HReq) : s.askHead h r = s.startReq h r := by
  unfold State.askHead
  extract_lets x
  rw [if_neg hm, if_pos ⟨hready, by simp [x, hop]⟩]

theorem gives_seekRequest_waits (s : State) (n : Fin 128) (a : Fin 2) (h : Nat) (p : Nat) (c : Option (Nat × Nat)) (hh : h = headOf n a)
    (hm : s.mode ≠ mCinder) (hbusy : s.hd h ≠ hdReady) :
    s.gives (.seekRequest n a p c) fun t => (t.head h).waiting = (s.head h).waiting ++
      [{ kind := 2, slot := p, layer := s.layerOf h, cmd := c }] ∧ t.hd h = s.hd h := by
  subst hh
  exact State.gives_of_exec rfl (State.askHead_waits hm hbusy _)

theorem gives_seekRequest_jumps (s : State) (n : Fin 128) (a : Fin 2) (h : Nat) (p : Nat) (c : Option (Nat × Nat)) (j : Int)
    (hh : h = headOf n a) (hm : s.mode ≠ mCinder) (hready : s.hd h = hdReady) (hop : (s.head h).op = none)
    (hj : j = landing (s.posNow h) (slotPos p false) (s.landMargin h)) (hj0 : j ≠ 0) (hmax : j.natAbs ≤ s.jumpMax h) :
    s.gives (.seekRequest n a p c) fun t => t.hd h = hdSeek ∧ (t.head h).jump = j := by
  subst hh hj
  let r : HReq := { kind := 2, slot := p, layer := s.layerOf (headOf n a), cmd := c }
  obtain ⟨hhd, hjump, -⟩ := State.startSeek_jumps (s := s) (r := r) hj0 hmax
  refine State.gives_of_exec (congrArg (Host.Outcome.next (σ := State)) (State.askHead_starts hm hready hop r)) ⟨?_, ?_⟩
  · exact ((State.firstAction_keeps ..).hd _).trans hhd
  · exact (congrArg Head.jump ((State.firstAction_keeps ..).head _)).trans hjump

theorem gives_layerJumpRequest_waits (s : State) (n : Fin 128) (a : Fin 2) (h : Nat) (l : Fin 16) (c : Option (Nat × Nat))
    (hh : h = headOf n a) (hm : s.mode ≠ mCinder) (hbusy : s.hd h ≠ hdReady) :
    s.gives (.layerJumpRequest n a l c) fun t => (t.head h).waiting = (s.head h).waiting ++ [{ kind := 3, layer := l, cmd := c }] ∧
      t.hd h = s.hd h := by
  subst hh
  have hcal := s.abandonHeadCal_keeps (headOf n a)
  obtain ⟨hwait, hhd⟩ := State.askHead_waits (s := s.abandonHeadCal (headOf n a))
    (ne_of_eq_of_ne (hcal.rd _ _ (by decide +kernel)) hm) (ne_of_eq_of_ne (hcal.hd _) hbusy) { kind := 3, layer := l, cmd := c }
  rw [hcal.head] at hwait
  exact State.gives_of_exec rfl ⟨hwait, hhd.trans (hcal.hd _)⟩

theorem gives_layerJumpRequest_starts (s : State) (n : Fin 128) (a : Fin 2) (h : Nat) (l : Fin 16) (c : Option (Nat × Nat))
    (hh : h = headOf n a) (hm : s.mode ≠ mCinder) (hready : s.hd h = hdReady) (hop : (s.head h).op = none) :
    s.gives (.layerJumpRequest n a l c) fun t => t.hd h = hdLayerAcq ∧ (t.head h).op = some { kind := 3, layer := l, cmd := c } := by
  subst hh
  let r : HReq := { kind := 3, layer := l, cmd := c }
  have hcal := s.abandonHeadCal_keeps (headOf n a)
  obtain ⟨hhd, hreq, -⟩ := (s.abandonHeadCal (headOf n a)).startLayer_spec (headOf n a) r
  refine State.gives_of_exec (congrArg (Host.Outcome.next (σ := State)) (State.askHead_starts
    (ne_of_eq_of_ne (hcal.rd _ _ (by decide +kernel)) hm) ((hcal.hd _).trans hready) (by rwa [hcal.head]) r)) ⟨?_, ?_⟩
  · exact ((State.firstAction_keeps ..).hd _).trans hhd
  · exact (congrArg Head.op ((State.firstAction_keeps ..).head _)).trans hreq

theorem gives_opcTrigger (s : State) (n : Fin 128) (a : Fin 2) (h : Nat) (hh : h = headOf n a) (hm : s.mode ≠ mCinder)
    (hready : s.hd h = hdReady) (hop : (s.head h).op = none) (hauto : s.flag Reg.STN_HD_CTRL_OPC_AUTO h = true)
    (hdue : s.opcDue h = true) (hnext : s.pcaNext h (s.layerOf h) < 18432) :
    s.gives (.opcTrigger n a) fun t => (t.head h).op = some
      { kind := 5, layer := s.layerOf h, slot := s.pcaNext h (s.layerOf h) / 18, leadin := true } ∧
      (t.hd h = hdOpc ∨ t.hd h = hdSeek) := by
  subst hh
  let r : HReq := { kind := 5, layer := s.layerOf (headOf n a) }
  have hexec : exec (.opcTrigger n a) s = .next (s.startOpc (headOf n a) r) :=
    (if_pos (by rw [hauto, hdue]; rfl)).trans (congrArg _ (State.askHead_starts hm hready hop r))
  obtain ⟨hreq, -, hhd⟩ := State.startOpc_seeks (s := s) (h := headOf n a) (r := r) rfl hnext
  refine State.gives_of_exec hexec ⟨hreq, ?_⟩
  rw [hhd]
  split
  · exact .inl rfl
  · exact .inr rfl

/-! ### One-track steps (R395) -/

theorem mfind_mput_ne {α : Type} (l : List (Nat × α)) {j k : Nat} (v : α) (hne : j ≠ k) : mfind (mput l j v) k = mfind l k := by
  induction l with
  | nil => simp [mput, mfind, hne]
  | cons p r ih =>
    obtain ⟨a, b⟩ := p
    rw [mput]
    split
    · next heq => simp [mfind, heq, hne]
    · split
      · simp [mfind, hne]
      · simp [mfind, ih]

/-- Word 1 goes up its stair; the trim loop's word, gated with it, is another. -/
theorem State.stepTrack_gate (s : State) (h : Nat) (step : Int) (k start : Nat) :
    mfind (s.stepTrack h step k start).loop.gates (wordKey (h / 2) (headWord h 1)) = some (.stair (s.lastOut h 1) step k start) := by
  have hwords : wordKey (h / 2) (headWord h 6) ≠ wordKey (h / 2) (headWord h 1) := by
    simp only [wordKey, headWord]
    omega
  exact (mfind_mput_ne _ _ hwords).trans (mfind_mput_same ..)

theorem State.oneTrack_spec {s : State} {h b : Nat} {i : Bool} (hready : s.hd h = hdReady) (hstep : (s.head h).step = none)
    (hb : b = if s.lin % 5000 ≤ 2400 then s.now - s.lin % 5000 else s.now - s.lin % 5000 + 5000) :
    mfind (s.oneTrack h i).loop.gates (wordKey (h / 2) (headWord h 1)) = some (.stair (s.lastOut h 1)
        (if i = true then -s.rdS Reg.STN_HD_TRK_CFG_TRK_STEP h else s.rdS Reg.STN_HD_TRK_CFG_TRK_STEP h) 1 b) ∧
      (s.oneTrack h i).head h = { s.head h with step := some (i, b + 10000) } := by
  unfold State.oneTrack
  rw [if_neg (by simp [hready, hstep])]
  extract_lets d ph start s1 x s2
  have hs2 : s2.head h = { s.head h with step := some (i, b + 10000) } := by
    have hx : x = s.head h := (s.stepTrack_keeps ..).head h
    rw [State.putHead_head, hx, hb]
  have hgate : mfind s2.loop.gates (wordKey (h / 2) (headWord h 1)) = some (.stair (s.lastOut h 1) (if i = true then -d else d) 1 b) :=
    hb ▸ s.stepTrack_gate ..
  split
  · exact ⟨hgate, hs2⟩
  · exact ⟨hgate, hs2⟩

theorem gives_oneTrackStep (s : State) (n : Fin 128) (a : Fin 2) (h : Nat) (i : Bool) (b : Nat) (hh : h = headOf n a)
    (hm : s.mode ≠ mCinder) (hready : s.hd h = hdReady) (hop : (s.head h).op = none) (hask : (s.head h).stepAsk = some i)
    (hstep : (s.head h).step = none)
    (hb : b = (if s.lin % 5000 ≤ 2400 then s.now - s.lin % 5000 else s.now - s.lin % 5000 + 5000)) :
    s.gives (.oneTrackStep n a) fun t => mfind t.loop.gates (wordKey (h / 2) (headWord h 1)) = some (.stair (s.lastOut h 1)
        (if i = true then -s.rdS Reg.STN_HD_TRK_CFG_TRK_STEP h else s.rdS Reg.STN_HD_TRK_CFG_TRK_STEP h) 1 b) ∧
      (t.head h).step = some (i, b + 10000) ∧ (t.head h).stepAsk = none := by
  subst hh
  let u := s.putHead (headOf n a) { s.head (headOf n a) with stepAsk := none }
  have hexec : exec (.oneTrackStep n a) s = .next (u.oneTrack (headOf n a) i) := by
    rw [exec, execOneTrackStep]
    simp only [hask]
    exact if_neg (by simp [hm, hready, hop, hstep])
  have hu : u.head (headOf n a) = { s.head (headOf n a) with stepAsk := none } := State.putHead_head ..
  obtain ⟨hgate, hhead⟩ := State.oneTrack_spec (s := u) (h := headOf n a) (i := i) hready (by rw [hu]; exact hstep) hb
  refine State.gives_of_exec hexec ⟨hgate, ?_⟩
  rw [hhead, hu]
  exact ⟨rfl, rfl⟩

/-- Settles O36, one command after the other. -/
theorem headOperationsStart : Obligations.HeadOperationsStart :=
  ⟨gives_headAcquire, gives_headAcquire_refused, gives_headSeek_here, gives_headSeek_jumps,
    fun s n a h j hh hm hb hready hop hj => gives_headSeek_long s n a h j hh hm hb hready hop hj, gives_headLayer, gives_headPark,
    gives_headPark_parked, gives_headOpc, gives_headOpc_full, gives_headClearFault, gives_seekRequest_waits, gives_seekRequest_jumps,
    gives_layerJumpRequest_waits, gives_layerJumpRequest_starts, gives_oneTrackStep, gives_opcTrigger⟩

end Sys2Proof.Machine
end

section
/-!
PROOF. Sequences of a head go on (O37, first part): the stages of acquisition, the ends of jumps and long moves, and layer jumps. Loss of
lock, recovery, calibration and parking follow.
-/

set_option Elab.async false

namespace Sys2Proof.Machine

/-! ### A stage begins (R393) -/

/-- A head's record as a stage of acquisition or recovery begins. -/
def Head.atStage (x : Head) (stage now : Nat) : Head :=
  { x with stage := stage, stageAt := now, tries := 0, watch := { x.watch with
      focIn := 0, trkIn := 0, relIn := 0, pwrIn := 0, sumLow := 0, teOut := 0, relOut := 0, pwrOut := 0 } }

theorem Head.acquires_of_kind {x : Head} {r : HReq} (hop : x.op = some r) (hk : r.kind = 1) :
    (x.op.any fun r => r.kind == 6) = false ∧ (x.op.any fun r => r.kind == 1 || r.kind == 6) = true := by
  simp [hop, hk]

/-- Tracking, the clock and the address: a stage of acquisition shows its state and is otherwise a note in the record. -/
theorem State.enterStage_acquires {s : State} {h stage st : Nat} {r : HReq} (hop : (s.head h).op = some r) (hk : r.kind = 1)
    (hst : (stage = 1 ∨ stage = 2) ∧ st = hdTrackAcq ∨ stage = 3 ∧ st = hdOnGuide) :
    s.enterStage h stage = (s.putHead h ((s.head h).atStage stage s.now)).setHd h st := by
  obtain ⟨hacq, -⟩ := Head.acquires_of_kind hop hk
  unfold State.enterStage
  simp only [hacq]
  obtain ⟨rfl | rfl, rfl⟩ | ⟨rfl, rfl⟩ := hst <;> rfl

theorem State.enterStage_acquires_spec {s : State} {h stage st : Nat} {r : HReq} (hop : (s.head h).op = some r) (hk : r.kind = 1)
    (hst : (stage = 1 ∨ stage = 2) ∧ st = hdTrackAcq ∨ stage = 3 ∧ st = hdOnGuide) :
    (s.enterStage h stage).hd h = st ∧ ((s.enterStage h stage).head h).stage = stage := by
  rw [State.enterStage_acquires hop hk hst, State.setHd_head, State.putHead_head]
  refine ⟨State.setHd_hd _ _ ?_, rfl⟩
  obtain ⟨-, rfl⟩ | ⟨-, rfl⟩ := hst <;> decide

/-- Read power is turned on for the stage of the reflected power. -/
theorem State.enterStage_reads {s : State} {h : Nat} {r : HReq} (hop : (s.head h).op = some r) (hk : r.kind = 1) :
    (s.enterStage h 4).hd h = hdLayerAcq ∧ ((s.enterStage h 4).head h).stage = 4 ∧ ((s.enterStage h 4).head h).readOn = true := by
  obtain ⟨hacq, -⟩ := Head.acquires_of_kind hop hk
  have heq : s.enterStage h 4 = ((s.putHead h ((s.head h).atStage 4 s.now)).readPowerOn h).setHd h hdLayerAcq := by
    unfold State.enterStage
    simp only [hacq]
    rfl
  rw [heq, State.setHd_head, State.readPowerOn_head, State.putHead_head]
  exact ⟨State.setHd_hd .., rfl, rfl⟩

/-! ### A stage is locked (R393) -/

/-- A head's record where a word of the guide has shown its place. -/
def Head.locate (x : Head) (p now : Nat) : Head := { x with pos := p, posAt := now }

/-- The clock is locked, and the head is at the slot of the address word. -/
theorem State.addrLock_spec (s : State) (h w : Nat) : (s.addrLock h w).flag Reg.STN_HD_STATUS_CLK_LOCK h = true ∧
    (s.addrLock h w).rd Reg.STN_HD_POS_SLOT h = bitsOf w 0 20 ∧
    (s.addrLock h w).head h = (s.head h).locate (slotPos (bitsOf w 0 20) (bitOf w 21)) s.now := by
  refine ⟨?_, ?_, State.putHead_head ..⟩
  · refine (State.flag_wr_ne _ _ _ _ _ _ (by decide)).trans ((State.flag_wr_ne _ _ _ _ _ _ (by decide)).trans ?_)
    exact (State.flag_wr_ne _ _ _ _ _ _ (by decide)).trans (State.flag_set1 _ _ (by decide))
  · exact (State.rd_wrB_ne _ _ _ _ _ _ (by decide)).trans ((State.rd_wr_same ..).trans (bitsOf_mod ..))

theorem exec_acqStageLocked {s : State} {n : Fin 128} {a : Fin 2} {x y : BitVec 64} {k : Nat} {r : HReq}
    (hop : (s.head (headOf n a)).op = some r) (hk : r.kind = 1) :
    exec (.acqStageLocked n a x y k) s = match (s.head (headOf n a)).stage with
      | 0 => if 64 ≤ (s.head (headOf n a)).watch.focIn then
          .next ((s.set1 Reg.STN_HD_STATUS_FOC_LOCK (headOf n a)).enterStage (headOf n a) 1) else .next s
      | 1 => if 300 ≤ (s.head (headOf n a)).watch.trkIn then
          .next ((s.set1 Reg.STN_HD_STATUS_TRK_LOCK (headOf n a)).enterStage (headOf n a) 2) else .next s
      | 2 =>
        if !(guideOk x.toNat && guideOk y.toNat) then .next s
        else if bitsOf x.toNat 20 1 ≠ a.val then
          .next ((s.raise 0x0503 [n, a, bitsOf x.toNat 20 1]).acqFail (headOf n a) 0x0503)
        else if addrPair a x.toNat y.toNat k then .next ((s.addrLock (headOf n a) y.toNat).enterStage (headOf n a) 3)
        else .next s
      | 3 =>
        if !guideOk x.toNat then .next s
        else if bitsOf x.toNat 20 1 = a.val then .next (s.enterStage (headOf n a) 4)
        else .next ((s.raise 0x0503 [n, a, bitsOf x.toNat 20 1]).acqFail (headOf n a) 0x0503)
      | 4 => if 16 ≤ (s.head (headOf n a)).watch.pwrIn then .next (s.enterStage (headOf n a) 5) else .next s
      | _ => .next s := by
  obtain ⟨-, hany⟩ := Head.acquires_of_kind hop hk
  refine (if_neg ?_).trans ?_
  · simp [hany]
  · rfl

theorem gives_acqStageLocked_focus (s : State) (n : Fin 128) (a : Fin 2) (h : Nat) (r : HReq) (x y : BitVec 64) (k : Nat)
    (hh : h = headOf n a) (hop : (s.head h).op = some r) (hk : r.kind = 1) (hstage : (s.head h).stage = 0)
    (hin : 64 ≤ (s.head h).watch.focIn) :
    s.gives (.acqStageLocked n a x y k) fun t => t.flag Reg.STN_HD_STATUS_FOC_LOCK h = true ∧ t.hd h = hdTrackAcq ∧
      (t.head h).stage = 1 := by
  subst hh
  have hexec := exec_acqStageLocked (x := x) (y := y) (k := k) hop hk
  simp only [hstage, if_pos hin] at hexec
  refine State.gives_of_exec hexec ⟨?_, State.enterStage_acquires_spec (r := r) hop hk (.inl ⟨.inl rfl, rfl⟩)⟩
  exact ((State.enterStage_keeps ..).flag _ _ (by decide +kernel)).trans (State.flag_set1 _ _ (by decide))

theorem gives_acqStageLocked_track (s : State) (n : Fin 128) (a : Fin 2) (h : Nat) (r : HReq) (x y : BitVec 64) (k : Nat)
    (hh : h = headOf n a) (hop : (s.head h).op = some r) (hk : r.kind = 1) (hstage : (s.head h).stage = 1)
    (hin : 300 ≤ (s.head h).watch.trkIn) :
    s.gives (.acqStageLocked n a x y k) fun t => t.flag Reg.STN_HD_STATUS_TRK_LOCK h = true ∧ t.hd h = hdTrackAcq ∧
      (t.head h).stage = 2 := by
  subst hh
  have hexec := exec_acqStageLocked (x := x) (y := y) (k := k) hop hk
  simp only [hstage, if_pos hin] at hexec
  refine State.gives_of_exec hexec ⟨?_, State.enterStage_acquires_spec (r := r) hop hk (.inl ⟨.inr rfl, rfl⟩)⟩
  exact ((State.enterStage_keeps ..).flag _ _ (by decide +kernel)).trans (State.flag_set1 _ _ (by decide))

theorem gives_acqStageLocked_address (s : State) (n : Fin 128) (a : Fin 2) (h : Nat) (r : HReq) (x y : BitVec 64) (k : Nat)
    (hh : h = headOf n a) (hop : (s.head h).op = some r) (hk : r.kind = 1) (hstage : (s.head h).stage = 2)
    (hx : guideOk x.toNat = true) (hy : guideOk y.toNat = true) (hxs : bitsOf x.toNat 20 1 = a) (hys : bitsOf y.toNat 20 1 = a)
    (hk1 : k ≤ 1) (hslot : bitsOf y.toNat 0 20 = bitsOf x.toNat 0 20 + k) :
    s.gives (.acqStageLocked n a x y k) fun t => t.flag Reg.STN_HD_STATUS_CLK_LOCK h = true ∧
      t.rd Reg.STN_HD_POS_SLOT h = bitsOf y.toNat 0 20 ∧ t.hd h = hdOnGuide ∧ (t.head h).stage = 3 := by
  subst hh
  have hpair : addrPair a x.toNat y.toNat k = true := by simp [addrPair, hx, hy, hxs, hys, hk1, hslot]
  have hexec := exec_acqStageLocked (x := x) (y := y) (k := k) hop hk
  simp only [hstage, hx, hy, hxs, hpair, Bool.and_self, Bool.not_true, Bool.false_eq_true, ne_eq, not_true_eq_false, if_false, if_true]
    at hexec
  obtain ⟨hclk, hpos, hhead⟩ := s.addrLock_spec (headOf n a) y.toNat
  have hkeep := (s.addrLock (headOf n a) y.toNat).enterStage_keeps (headOf n a) 3
  exact State.gives_of_exec hexec ⟨(hkeep.flag _ _ (by decide +kernel)).trans hclk, (hkeep.rd _ _ (by decide +kernel)).trans hpos,
    State.enterStage_acquires_spec (r := r) (by rw [hhead]; exact hop) hk (.inr ⟨rfl, rfl⟩)⟩

theorem gives_acqStageLocked_side (s : State) (n : Fin 128) (a : Fin 2) (h : Nat) (r : HReq) (x y : BitVec 64) (k : Nat)
    (hh : h = headOf n a) (hop : (s.head h).op = some r) (hk : r.kind = 1) (hstage : (s.head h).stage = 3)
    (hx : guideOk x.toNat = true) (hxs : bitsOf x.toNat 20 1 = a) :
    s.gives (.acqStageLocked n a x y k) fun t => t.hd h = hdLayerAcq ∧ (t.head h).stage = 4 ∧ (t.head h).readOn = true := by
  subst hh
  have hexec := exec_acqStageLocked (x := x) (y := y) (k := k) hop hk
  simp only [hstage, hx, hxs, Bool.not_true, Bool.false_eq_true, if_false, if_true] at hexec
  exact State.gives_of_exec hexec (State.enterStage_reads hop hk)

/-- A sound word of the other side fails the acquisition at once. -/
theorem gives_acqStageLocked_wrongSide (s : State) (n : Fin 128) (a : Fin 2) (h : Nat) (r : HReq) (x y : BitVec 64) (k : Nat)
    (hh : h = headOf n a) (hop : (s.head h).op = some r) (hk : r.kind = 1) (hstage : (s.head h).stage = 2)
    (hy : guideOk y.toNat = true) (_ : (s.head h).stage = 2 ∨ (s.head h).stage = 3) (hx : guideOk x.toNat = true)
    (hxs : bitsOf x.toNat 20 1 ≠ a) (hup : s.headUp h = true) (hne : s.hd h ≠ hdParking) :
    s.gives (.acqStageLocked n a x y k) fun t => t.hd h = hdParking ∧ (t.head h).parkCause = 2 ∧ (t.head h).op = none := by
  subst hh
  have hexec := exec_acqStageLocked (x := x) (y := y) (k := k) hop hk
  simp only [hstage, hx, hy, hxs, Bool.and_self, Bool.not_true, Bool.false_eq_true, ne_eq, not_false_eq_true, if_false, if_true] at hexec
  have hraise : (s.raise 0x0503 [n, a, bitsOf x.toNat 20 1]).hd (headOf n a) = s.hd (headOf n a) := (State.raise_keeps ..).hd _
  exact State.gives_of_exec hexec (State.acqFail_parks ((State.headUp_congr hraise).trans hup) (ne_of_eq_of_ne hraise hne) _)

/-! ### A stage is not locked in its time (R393, R415) -/

theorem State.tryAgain_spec (s : State) (h : Nat) : ((s.tryAgain h).head h).tries = (s.head h).tries + 1 ∧
    ((s.tryAgain h).head h).stageAt = s.now ∧ (s.tryAgain h).now = s.now := by
  have hgates : Keeps (State.gateHead_mask ||| State.gateTrack_mask)
      (s.putHead h { s.head h with tries := (s.head h).tries + 1, stageAt := s.now }) (s.tryAgain h) := by
    unfold State.tryAgain
    extract_lets x s1
    split
    · exact Keeps.mono (State.gateHead_keeps ..)
    · exact Keeps.mono (State.gateTrack_keeps ..)
    · exact Keeps.mono (State.gateTrack_keeps ..)
    · exact Keeps.refl _ _
  rw [hgates.head h, hgates.now, State.putHead_head]
  exact ⟨rfl, rfl, rfl⟩

/-- A stage of acquisition that has a limit runs into it: the sweep's lens is back, or a further attempt or the end follows. -/
theorem exec_acqStageTimeout {s : State} {n : Fin 128} {a : Fin 2} {h : Nat} {r : HReq} (hh : h = headOf n a)
    (hop : (s.head h).op = some r) (hk : r.kind = 1) (hstage : (s.head h).stage < 3 ∨ (s.head h).stage = 4) :
    exec (.acqStageTimeout n a) s = match (if (s.head h).stage = 0 then s.sweepBack h else none) with
      | some t => .next ((s.advanceTo t).focusSweep h)
      | none =>
        let s1 := s.advanceTo ((s.head h).stageAt + s.stageLimit h (s.head h).stage)
        if (s.head h).tries + 1 < 3 then .next (s1.tryAgain h)
        else if (s.head h).stage = 0 then
          .next ((s1.raise 0x0501 ([n.val, a.val, 3] ++ i1 (s.head h).watch.sumMax)).acqFail h 0x0501)
        else if (s.head h).stage = 4 then .next ((s1.raise 0x0504 [n, a, s1.layerOf h]).acqFail h 0x0504)
        else .next (((s1.draw 32).2.raise 0x0502 [n, a, (s1.draw 32).1]).acqFail h 0x0502) := by
  subst hh
  obtain ⟨hno, hany⟩ := Head.acquires_of_kind hop hk
  refine (if_neg ?_).trans ?_
  · rw [hany]
    simp only [Bool.not_true, Bool.false_eq_true, false_or, not_and]
    omega
  · simp only [hno, Bool.false_eq_true, if_false] <;> rfl

/-- Two attempts behind it, a stage that is not locked in its time fails the acquisition. -/
theorem exec_acqStageTimeout_fails {s : State} {n : Fin 128} {a : Fin 2} {h : Nat} {r : HReq} (hh : h = headOf n a)
    (hop : (s.head h).op = some r) (hk : r.kind = 1) (hstage : (s.head h).stage < 3 ∨ (s.head h).stage = 4)
    (hback : (s.head h).stage = 0 → s.sweepBack h = none) (htries : 2 ≤ (s.head h).tries) :
    ∃ (t : State) (why : Nat), t.hd h = s.hd h ∧ exec (.acqStageTimeout n a) s = .next (t.acqFail h why) := by
  have hnone : (if (s.head h).stage = 0 then s.sweepBack h else none) = none := ite_eq_right_iff.2 hback
  rw [exec_acqStageTimeout hh hop hk hstage, hnone]
  dsimp -zeta only
  extract_lets s1
  have hs1 : s1.hd h = s.hd h := (State.advanceTo_keeps ..).hd h
  rw [if_neg (by omega)]
  split
  · exact ⟨_, _, ((State.raise_keeps ..).hd h).trans hs1, rfl⟩
  · split
    · exact ⟨_, _, ((State.raise_keeps ..).hd h).trans hs1, rfl⟩
    · exact ⟨_, _, ((State.raise_keeps ..).hd h).trans (((State.draw_keeps s1 32).get.hd h).trans hs1), rfl⟩

theorem gives_acqStageTimeout_again (s : State) (n : Fin 128) (a : Fin 2) (h : Nat) (r : HReq) (hh : h = headOf n a)
    (hop : (s.head h).op = some r) (hk : r.kind = 1) (hstage : (s.head h).stage < 3 ∨ (s.head h).stage = 4)
    (hback : (s.head h).stage = 0 → s.sweepBack h = none) (htries : (s.head h).tries < 2) :
    s.gives (.acqStageTimeout n a) fun t => (t.head h).tries = (s.head h).tries + 1 ∧ (t.head h).stageAt = t.now ∧
      (s.head h).stageAt + s.stageLimit h (s.head h).stage ≤ t.now := by
  let s1 := s.advanceTo ((s.head h).stageAt + s.stageLimit h (s.head h).stage)
  have hnone : (if (s.head h).stage = 0 then s.sweepBack h else none) = none := ite_eq_right_iff.2 hback
  have hexec : exec (.acqStageTimeout n a) s = .next (s1.tryAgain h) := by
    rw [exec_acqStageTimeout hh hop hk hstage, hnone]
    exact if_pos (by omega)
  obtain ⟨htry, hat, hnow⟩ := s1.tryAgain_spec h
  rw [(State.advanceTo_keeps ..).head h] at htry
  refine State.gives_of_exec hexec ⟨htry, hat.trans hnow.symm, ?_⟩
  rw [hnow]
  exact State.le_advanceTo_now ..

theorem gives_acqStageTimeout_fails (s : State) (n : Fin 128) (a : Fin 2) (h : Nat) (r : HReq) (hh : h = headOf n a)
    (hop : (s.head h).op = some r) (hk : r.kind = 1) (hstage : (s.head h).stage < 3 ∨ (s.head h).stage = 4)
    (hback : (s.head h).stage = 0 → s.sweepBack h = none) (htries : 2 ≤ (s.head h).tries) (hup : s.headUp h = true)
    (hne : s.hd h ≠ hdParking) :
    s.gives (.acqStageTimeout n a) fun t => t.hd h = hdParking ∧ (t.head h).parkCause = 2 := by
  obtain ⟨t, why, ht, hexec⟩ := exec_acqStageTimeout_fails hh hop hk hstage hback htries
  obtain ⟨hhd, hcause, -⟩ := State.acqFail_parks ((State.headUp_congr ht).trans hup) (ne_of_eq_of_ne ht hne) why
  exact State.gives_of_exec hexec ⟨hhd, hcause⟩

theorem gives_acqStageTimeout_sweep (s : State) (n : Fin 128) (a : Fin 2) (h : Nat) (r : HReq) (e : Nat) (hh : h = headOf n a)
    (hop : (s.head h).op = some r) (hk : r.kind = 1) (hstage : (s.head h).stage = 0) (hback : s.sweepBack h = some e) :
    s.gives (.acqStageTimeout n a) fun t => t.hd h = hdFocusAcq ∧ (t.head h).stageAt = t.now ∧ e ≤ t.now := by
  have hexec : exec (.acqStageTimeout n a) s = .next ((s.advanceTo e).focusSweep h) := by
    rw [exec_acqStageTimeout hh hop hk (.inl (by omega)), if_pos hstage, hback]
  obtain ⟨hhd, -, hat⟩ := (s.advanceTo e).focusSweep_spec h
  have hnow : ((s.advanceTo e).focusSweep h).now = (s.advanceTo e).now := (State.focusSweep_keeps ..).now
  refine State.gives_of_exec hexec ⟨hhd, hat.trans hnow.symm, ?_⟩
  rw [hnow]
  exact State.le_advanceTo_now ..

/-! ### A seek has landed (R397 to R400) -/

/-- The states that a head's landing leads to with nothing waiting: the operation ends, its slice's alignment loaded. -/
theorem State.landed_ends {s : State} {h : Nat} {r : HReq} (hwait : (s.head h).waiting = []) (hagain : (s.head h).again = none)
    (hop : (s.head h).op = some r) (h6 : r.kind ≠ 6) (h5 : r.kind ≠ 5) :
    ∃ u : State, Keeps State.loadAlign_mask s u ∧ s.landed h = u.opDone h := by
  unfold State.landed
  simp only [hop, if_neg h6, if_neg h5]
  have hend : ∀ u : State, Keeps State.loadAlign_mask s u → (u.opDone h).nextReq h = u.opDone h := fun u hu =>
    State.opDone_nextReq (by rw [hu.head h, hagain]) (by rw [hu.head h, hwait])
  split
  · next sl _ => exact ⟨s.loadAlign sl, s.loadAlign_keeps sl, hend _ (s.loadAlign_keeps sl)⟩
  · exact ⟨s, Keeps.refl _ _, hend _ (Keeps.refl _ _)⟩

theorem State.landed_spec {s : State} {h : Nat} {r : HReq} (hwait : (s.head h).waiting = []) (hagain : (s.head h).again = none)
    (hop : (s.head h).op = some r) (h6 : r.kind ≠ 6) (h5 : r.kind ≠ 5) : (s.landed h).hd h = hdReady ∧
    (s.landed h).head h = (s.head h).idle ∧ Keeps (State.loadAlign_mask ||| State.opDone_mask) s (s.landed h) := by
  obtain ⟨u, hu, heq⟩ := State.landed_ends hwait hagain hop h6 h5
  rw [heq, State.opDone_head, hu.head h]
  exact ⟨State.opDone_hd .., rfl, Keeps.step (State.opDone_keeps ..) hu.mono⟩

theorem State.release_foc (s : State) (n w k : Nat) : ((s.release n w).lslot k).foc = (s.lslot k).foc := by
  unfold State.release
  split
  · rfl
  · next g _ =>
    extract_lets s1
    split
    · next sl _ =>
      by_cases hk : sl = k
      · subst hk
        rw [State.closeLoop, State.resetSlot, State.putLslot_lslot]
        rfl
      · rw [State.closeLoop, State.resetSlot, State.putLslot_lslot_ne _ _ hk]
        rfl
    · rfl

/-- A gate released leaves the observers of the spindles as they were. -/
theorem State.freeTrack_focOf (s : State) (h n : Nat) : (s.freeTrack h).focOf n = s.focOf n := by
  have hslot : (s.freeTrack h).rd Reg.STN_SP_SLOTS_FOC_SLOT n = s.rd Reg.STN_SP_SLOTS_FOC_SLOT n :=
    (State.freeTrack_keeps ..).rd _ _ (by decide +kernel)
  rw [State.focOf, State.focOf, hslot, State.freeTrack, State.releaseHead, State.releaseHead, State.release_foc, State.release_foc]

theorem State.freeTrack_posNow (s : State) (h : Nat) : (s.freeTrack h).posNow h = s.posNow h := by
  have hkeep := s.freeTrack_keeps h
  exact State.posNow_congr (s.freeTrack_focOf ..) hkeep.now (by rw [hkeep.head h]) (by rw [hkeep.head h])

/-- A head's record where a jump has taken it to. -/
def Head.jumped (x : Head) (p now : Nat) : Head := { x with pos := p, posAt := now, jump := 0 }

theorem gives_seekJumpDone (s : State) (n : Fin 128) (a : Fin 2) (h : Nat) (r : HReq) (hh : h = headOf n a)
    (hwait : (s.head h).waiting = []) (hagain : (s.head h).again = none) (hop : (s.head h).op = some r) (h6 : r.kind ≠ 6)
    (h5 : r.kind ≠ 5) (hj : (s.head h).jump ≠ 0) :
    s.gives (.seekJumpDone n a) fun t => t.hd h = hdReady ∧ (t.head h).op = none ∧
      (t.head h).pos = jumpedPos ((s.advanceTo (s.head h).dueAt).posNow h) (s.head h).jump ∧ (t.head h).jump = 0 ∧
      (s.head h).dueAt ≤ t.now := by
  subst hh
  let s0 := s.advanceTo (s.head (headOf n a)).dueAt
  let s1 := s0.freeTrack (headOf n a)
  let y := (s1.head (headOf n a)).jumped (jumpedPos (s1.posNow (headOf n a)) (s.head (headOf n a)).jump) s1.now
  have hexec : exec (.seekJumpDone n a) s = .next ((s1.putHead (headOf n a) y).landed (headOf n a)) :=
    if_neg (by simp [hop, hj])
  have hs1 : s1.head (headOf n a) = s.head (headOf n a) := ((State.freeTrack_keeps ..).head _).trans ((State.advanceTo_keeps ..).head _)
  have hy : (s1.putHead (headOf n a) y).head (headOf n a) = y := State.putHead_head ..
  obtain ⟨hhd, hhead, hkeep⟩ := State.landed_spec (s := s1.putHead (headOf n a) y) (h := headOf n a) (r := r)
    (by rw [hy]; exact (congrArg Head.waiting hs1).trans hwait) (by rw [hy]; exact (congrArg Head.again hs1).trans hagain)
    (by rw [hy]; exact (congrArg Head.op hs1).trans hop) h6 h5
  refine State.gives_of_exec hexec ⟨hhd, by rw [hhead]; rfl, ?_, by rw [hhead, hy]; rfl, ?_⟩
  · rw [hhead, hy]
    exact congrArg (jumpedPos · _) (s0.freeTrack_posNow _)
  · have hnow : s1.now = s0.now := (State.freeTrack_keeps ..).now
    rw [hkeep.now, State.putHead_now, hnow]
    exact State.le_advanceTo_now ..

theorem State.set1_head (s : State) (f : Fld) (i h : Nat) : (s.set1 f i).head h = s.head h := State.head_congr (State.wr_heads ..) h

/-- A head's record behind a move of its sled. -/
def Head.settled (x : Head) : Head := { x with jump := 0, stage := 8 }

/-- A long move has settled: tracking, the clock and the address are locked, and the head is located anew. -/
def State.relocated (s : State) (h w : Nat) : State :=
  ((s.set1 Reg.STN_HD_STATUS_TRK_LOCK h).addrLock h w).putHead h
    (((s.set1 Reg.STN_HD_STATUS_TRK_LOCK h).addrLock h w).head h).settled

theorem State.relocated_head (s : State) (h w : Nat) : (s.relocated h w).head h =
    ((s.head h).locate (slotPos (bitsOf w 0 20) (bitOf w 21)) s.now).settled := by
  obtain ⟨-, -, hhead⟩ := (s.set1 Reg.STN_HD_STATUS_TRK_LOCK h).addrLock_spec h w
  rw [State.relocated, State.putHead_head, hhead, State.set1_head, State.set1_now]

theorem State.relocated_shows (s : State) (h w : Nat) : (s.relocated h w).flag Reg.STN_HD_STATUS_TRK_LOCK h = true ∧
    (s.relocated h w).flag Reg.STN_HD_STATUS_CLK_LOCK h = true ∧ (s.relocated h w).rd Reg.STN_HD_POS_SLOT h = bitsOf w 0 20 := by
  obtain ⟨hclk, hpos, -⟩ := (s.set1 Reg.STN_HD_STATUS_TRK_LOCK h).addrLock_spec h w
  have hput : Keeps State.putHead_mask ((s.set1 Reg.STN_HD_STATUS_TRK_LOCK h).addrLock h w) (s.relocated h w) := State.putHead_keeps ..
  refine ⟨?_, (hput.flag _ _ (by decide +kernel)).trans hclk, (hput.rd _ _ (by decide +kernel)).trans hpos⟩
  rw [hput.flag _ _ (by decide +kernel), (State.addrLock_keeps ..).flag _ _ (by decide +kernel), State.flag_set1 _ _ (by decide)]

theorem State.relocated_landingOf (s : State) (h w : Nat) (r : HReq) : (s.relocated h w).landingOf h r =
    landing (slotPos (bitsOf w 0 20) (bitOf w 21)) (slotPos r.slot r.leadin) (s.landMargin h) := by
  have hhead := s.relocated_head h w
  have hmargin : (s.relocated h w).landMargin h = s.landMargin h := by
    rw [State.landMargin, State.landMargin]
    have hkeep : Keeps State.addrLock_mask (s.set1 Reg.STN_HD_STATUS_TRK_LOCK h) (s.relocated h w) :=
      Keeps.step (State.putHead_keeps ..) (State.addrLock_keeps ..)
    rw [hkeep.rd _ _ (by decide +kernel), State.rd_set1_ne _ _ _ _ _ (by decide)]
  have hnow : (s.relocated h w).now = s.now := rfl
  rw [State.landingOf, hmargin, State.posNow_of_located (by rw [hhead, hnow]; rfl), hhead]
  rfl

/-- The landing rule is applied once more where the sled has come to rest and all is locked. -/
theorem exec_longSeekSettled {s : State} {n : Fin 128} {a : Fin 2} {h : Nat} {r : HReq} {x y : BitVec 64} {k : Nat} {j : Int}
    (hh : h = headOf n a) (hlong : (s.head h).longMoves ≠ 0) (hstage : (s.head h).stage = 9) (hmoving : s.axState h ≠ axMoving)
    (hhoming : s.axState h ≠ axHoming) (hgate : s.gate n (headWord h 1) = none) (hin : 300 ≤ (s.head h).watch.trkIn)
    (hpair : addrPair a x.toNat y.toNat k = true) (hop : (s.head h).op = some r)
    (hj : j = landing (slotPos (bitsOf y.toNat 0 20) (bitOf y.toNat 21)) (slotPos r.slot r.leadin) (s.landMargin h)) :
    exec (.longSeekSettled n a x y k) s =
      let u := s.relocated h y.toNat
      if j = 0 then .next (u.landed h)
      else if j.natAbs ≤ s.jumpMax h then .next (u.startJump h j)
      else if (s.head h).longMoves < 3 then .next (u.longMove h j)
      else .next (u.seekFail h r j) := by
  rw [← State.relocated_landingOf] at hj
  subst hh hj
  rw [exec, execLongSeekSettled]
  simp only [hop]
  rw [if_neg (by simp [hlong, hstage, hmoving, hhoming, hgate, hpair]; omega)]
  rfl

theorem gives_longSeekSettled (s : State) (n : Fin 128) (a : Fin 2) (h : Nat) (r : HReq) (x y : BitVec 64) (k : Nat) (hh : h = headOf n a)
    (hwait : (s.head h).waiting = []) (hagain : (s.head h).again = none) (hlong : (s.head h).longMoves ≠ 0)
    (hstage : (s.head h).stage = 9) (hmoving : s.axState h ≠ axMoving) (hhoming : s.axState h ≠ axHoming)
    (hgate : s.gate n (headWord h 1) = none) (hin : 300 ≤ (s.head h).watch.trkIn) (hpair : addrPair a x.toNat y.toNat k = true)
    (hop : (s.head h).op = some r) (h6 : r.kind ≠ 6) (h5 : r.kind ≠ 5)
    (hland : landing (slotPos (bitsOf y.toNat 0 20) (bitOf y.toNat 21)) (slotPos r.slot r.leadin) (s.landMargin h) = 0) :
    s.gives (.longSeekSettled n a x y k) fun t => t.hd h = hdReady ∧ (t.head h).op = none ∧
      t.flag Reg.STN_HD_STATUS_TRK_LOCK h = true ∧ t.flag Reg.STN_HD_STATUS_CLK_LOCK h = true ∧
      t.rd Reg.STN_HD_POS_SLOT h = bitsOf y.toNat 0 20 := by
  let u := s.relocated h y.toNat
  have hexec : exec (.longSeekSettled n a x y k) s = .next (u.landed h) :=
    (exec_longSeekSettled hh hlong hstage hmoving hhoming hgate hin hpair hop hland.symm).trans (if_pos rfl)
  have hhead := s.relocated_head h y.toNat
  obtain ⟨hhd, hidle, hkeep⟩ := State.landed_spec (s := u) (h := h) (r := r) (by rw [hhead]; exact hwait) (by rw [hhead]; exact hagain)
    (by rw [hhead]; exact hop) h6 h5
  obtain ⟨htrk, hclk, hpos⟩ := s.relocated_shows h y.toNat
  exact State.gives_of_exec hexec ⟨hhd, by rw [hidle]; rfl, (hkeep.flag _ _ (by decide +kernel)).trans htrk,
    (hkeep.flag _ _ (by decide +kernel)).trans hclk, (hkeep.rd _ _ (by decide +kernel)).trans hpos⟩

/-- A head's record with the request that it is to do again. -/
def Head.withAgain (x : Head) (again : Option HReq) : Head := { x with again := again }

/-- A seek that fails leads to recovery; one that firmware did not ask for starts again behind it. -/
theorem State.seekFail_recovers {r : HReq} (hk : r.kind = 2) (s : State) (h : Nat) (j : Int) : (s.seekFail h r j).hd h = hdRecover ∧
    ((s.seekFail h r j).head h).op.map HReq.kind = some 6 ∧
    (r.firmware = false → r.failed = false → ((s.seekFail h r j).head h).again = some { r with failed := true }) := by
  unfold State.seekFail
  rw [if_neg (by simp [hk])]
  extract_lets s1 x s2 y t s3
  obtain ⟨hhd, hop, -⟩ := s3.enterRecover_spec h 1
  refine ⟨hhd, hop, fun hfw hfailed => ?_⟩
  have hs3 : s3 = s2.putHead h ((s2.head h).withAgain (some { r with failed := true })) :=
    (if_neg (by simp [hfw])).trans (if_pos (by simp [hfailed]))
  have hs2 : (s2.head h).op = none := congrArg Head.op (State.putHead_head ..)
  have hhead : s3.head h = (s2.head h).withAgain (some { r with failed := true }) := by rw [hs3, State.putHead_head]
  rw [State.enterRecover_again (by rw [hhead]; exact hs2), hhead]
  rfl

theorem gives_longSeekSettled_fails (s : State) (n : Fin 128) (a : Fin 2) (h : Nat) (r : HReq) (x y : BitVec 64) (k : Nat) (j : Int)
    (hh : h = headOf n a) (hlong : (s.head h).longMoves ≠ 0) (hstage : (s.head h).stage = 9) (hmoving : s.axState h ≠ axMoving)
    (hhoming : s.axState h ≠ axHoming) (hgate : s.gate n (headWord h 1) = none) (hin : 300 ≤ (s.head h).watch.trkIn)
    (hpair : addrPair a x.toNat y.toNat k = true) (hop : (s.head h).op = some r) (hk : r.kind = 2)
    (hj : j = landing (slotPos (bitsOf y.toNat 0 20) (bitOf y.toNat 21)) (slotPos r.slot r.leadin) (s.landMargin h))
    (hmax : s.jumpMax h < j.natAbs) (hthree : 3 ≤ (s.head h).longMoves) :
    s.gives (.longSeekSettled n a x y k) fun t => t.hd h = hdRecover ∧ (t.head h).op.map HReq.kind = some 6 ∧
      (r.firmware = false → r.failed = false → (t.head h).again = some { r with failed := true }) := by
  have hexec : exec (.longSeekSettled n a x y k) s = .next ((s.relocated h y.toNat).seekFail h r j) :=
    (exec_longSeekSettled hh hlong hstage hmoving hhoming hgate hin hpair hop hj).trans
      ((if_neg (by omega)).trans ((if_neg (by omega)).trans (if_neg (by omega))))
  exact State.gives_of_exec hexec (State.seekFail_recovers hk ..)

theorem State.startReq_seek (s : State) (h : Nat) {r : HReq} (hk : r.kind = 2) :
    s.startReq h r = (s.startSeek h r).firstAction r.cmd := by
  unfold State.startReq
  simp only [hk]

theorem exec_seekRestart {s : State} {n : Fin 128} {a : Fin 2} {r : HReq} (hready : s.hd (headOf n a) = hdReady)
    (hop : (s.head (headOf n a)).op = none) (hagain : (s.head (headOf n a)).again = some r) (hk : r.kind = 2) :
    exec (.seekRestart n a) s =
      .next (((s.putHead (headOf n a) ((s.head (headOf n a)).withAgain none)).startSeek (headOf n a) r).firstAction r.cmd) := by
  rw [exec, execSeekRestart]
  simp only [hagain]
  rw [if_pos ⟨hready, by simp [hop]⟩, State.startReq_seek _ _ hk]
  rfl

theorem gives_seekRestart (s : State) (n : Fin 128) (a : Fin 2) (h : Nat) (r : HReq) (hh : h = headOf n a) (hready : s.hd h = hdReady)
    (hop : (s.head h).op = none) (hagain : (s.head h).again = some r) (hk : r.kind = 2)
    (hland : landing (s.posNow h) (slotPos r.slot r.leadin) (s.landMargin h) = 0) :
    s.gives (.seekRestart n a) fun t => t.hd h = hdReady ∧ (t.head h).op = none ∧ (t.head h).again = none := by
  subst hh
  let u := s.putHead (headOf n a) ((s.head (headOf n a)).withAgain none)
  have hu : u.head (headOf n a) = (s.head (headOf n a)).withAgain none := State.putHead_head ..
  have hland' : u.landingOf (headOf n a) r = 0 :=
    (Keeps.landingOf (State.putHead_keeps ..) (by rw [hu]; rfl) (by rw [hu]; rfl) r).trans hland
  refine State.gives_of_exec (exec_seekRestart hready hop hagain hk) ?_
  rw [(State.firstAction_keeps ..).hd, (State.firstAction_keeps ..).head, State.startSeek_here hland' (by omega), State.opDone_head,
    hu, State.putHead_head]
  exact ⟨State.opDone_hd .., rfl, rfl⟩

/-! ### Layer jumps (R403, R404) -/

theorem gives_layerMoveEnd (s : State) (n : Fin 128) (a : Fin 2) (h : Nat) (hh : h = headOf n a) (hrelay : (s.head h).onRelay = true) :
    s.gives (.layerMoveEnd n a) fun t => (t.head h).readOn = true ∧ (t.head h).stageAt = t.now ∧ (s.head h).dueAt ≤ t.now := by
  subst hh
  let s1 := (s.advanceTo (s.head (headOf n a)).dueAt).readPowerOn (headOf n a)
  have hexec : exec (.layerMoveEnd n a) s =
      .next (s1.putHead (headOf n a) { s1.head (headOf n a) with stageAt := s1.now }) := if_neg (by simp [hrelay])
  refine State.gives_of_exec hexec ?_
  have hnow : s1.now = (s.advanceTo (s.head (headOf n a)).dueAt).now := (State.readPowerOn_keeps ..).now
  rw [State.putHead_head, State.putHead_now, State.readPowerOn_head]
  exact ⟨rfl, rfl, hnow ▸ State.le_advanceTo_now ..⟩

/-- The relay is locked and the head on a layer. -/
def State.onLayer (s : State) (h l : Nat) : State := (s.set1 Reg.STN_HD_STATUS_REL_LOCK h).wr Reg.STN_HD_STATUS_LAYER h l

theorem State.onLayer_shows (s : State) (h : Nat) {l : Nat} (hl : l < 16) :
    (s.onLayer h l).layerOf h = l ∧ (s.onLayer h l).flag Reg.STN_HD_STATUS_REL_LOCK h = true :=
  ⟨(State.rd_wr_same ..).trans (Nat.mod_eq_of_lt hl),
    (State.flag_wr_ne _ _ _ _ _ _ (by decide)).trans (State.flag_set1 _ _ (by decide))⟩

def State.layerLoaded_mask : Nat := State.loadEq_mask ||| State.loadAlign_mask

/-- A layer jump whose relay locks ends, with its slice's sets of the layer and its alignment loaded. -/
theorem exec_relayLocked {s : State} {n : Fin 128} {a : Fin 2} {h : Nat} {r : HReq} (hh : h = headOf n a) (hop : (s.head h).op = some r)
    (hk : r.kind = 3) (hrelay : (s.head h).onRelay = true) (hin : 16 ≤ (s.head h).watch.relIn) :
    ∃ u : State, Keeps State.layerLoaded_mask (s.onLayer h r.layer) u ∧ exec (.relayLocked n a) s = .next ((u.opDone h).nextReq h) := by
  subst hh
  rw [exec, execRelayLocked]
  simp only [hop, if_pos hk]
  rw [if_neg (by simp [hrelay]; omega)]
  refine ⟨_, ?_, rfl⟩
  split
  · exact Keeps.step (State.loadAlign_keeps ..) (Keeps.mono (State.loadEq_keeps ..))
  · exact Keeps.refl _ _

theorem gives_relayLocked (s : State) (n : Fin 128) (a : Fin 2) (h : Nat) (r : HReq) (hh : h = headOf n a)
    (hwait : (s.head h).waiting = []) (hagain : (s.head h).again = none) (hop : (s.head h).op = some r) (hk : r.kind = 3)
    (hlayer : r.layer < 16) (hrelay : (s.head h).onRelay = true) (hin : 16 ≤ (s.head h).watch.relIn) :
    s.gives (.relayLocked n a) fun t => t.hd h = hdReady ∧ (t.head h).op = none ∧ t.layerOf h = r.layer ∧
      t.flag Reg.STN_HD_STATUS_REL_LOCK h = true := by
  obtain ⟨u, hu, hexec⟩ := exec_relayLocked hh hop hk hrelay hin
  have hhead : u.head h = s.head h := hu.head h
  obtain ⟨hlay, hlock⟩ := s.onLayer_shows h hlayer
  have hend : Keeps (State.layerLoaded_mask ||| State.opDone_mask) (s.onLayer h r.layer) (u.opDone h) :=
    Keeps.step (State.opDone_keeps ..) hu.mono
  rw [State.opDone_nextReq (by rw [hhead, hagain]) (by rw [hhead, hwait])] at hexec
  refine State.gives_of_exec hexec ⟨State.opDone_hd .., by rw [State.opDone_head]; rfl, ?_, ?_⟩
  · exact (hend.rd _ _ (by decide +kernel)).trans hlay
  · exact (hend.flag _ _ (by decide +kernel)).trans hlock

/-- A head's record whose operation is to be done again behind a recovery. -/
def Head.toDoAgain (x : Head) (again : Option HReq) : Head := { x with op := none, again := again }

theorem exec_layerJumpTimeout {s : State} {n : Fin 128} {a : Fin 2} {h : Nat} {r : HReq} (hh : h = headOf n a)
    (hop : (s.head h).op = some r) (hrelay : (s.head h).onRelay = true) :
    exec (.layerJumpTimeout n a) s =
      let s1 := s.advanceTo ((s.head h).stageAt + s.rd1 Reg.STN_HD_LJ_CFG_REL_ACQ_MS h * msCycles)
      if (s.head h).tries < 2 then
        let t := s1.moveRelay h r.layer (if (s.head h).tries = 0 then -262144 else 262144)
        .next (t.putHead h { t.head h with tries := (s.head h).tries + 1, stageAt := (t.head h).dueAt })
      else
        let s2 := s1.raise 0x0504 [n, a, r.layer]
        if r.kind = 3 then
          let s3 := s2.putHead h ((s2.head h).toDoAgain (if r.firmware then (s.head h).again else some r))
          .next ((if r.firmware then s3.headResult h 2 else s3).enterRecover h 5)
        else .next (s2.acqFail h 0x0504) := by
  subst hh
  rw [exec, execLayerJumpTimeout]
  simp only [hop]
  exact if_neg (by simp [hrelay])

theorem gives_layerJumpTimeout_again (s : State) (n : Fin 128) (a : Fin 2) (h : Nat) (r : HReq) (hh : h = headOf n a)
    (hop : (s.head h).op = some r) (hrelay : (s.head h).onRelay = true) (htries : (s.head h).tries < 2) :
    s.gives (.layerJumpTimeout n a) fun t => (t.head h).tries = (s.head h).tries + 1 ∧ (t.head h).readOn = false ∧
      (s.head h).stageAt + s.rd1 Reg.STN_HD_LJ_CFG_REL_ACQ_MS h * msCycles ≤ t.now := by
  refine State.gives_of_exec ((exec_layerJumpTimeout hh hop hrelay).trans (if_pos htries)) ?_
  obtain ⟨y, hy, -, -, -, hread⟩ := State.moveRelay_head
    (s.advanceTo ((s.head h).stageAt + s.rd1 Reg.STN_HD_LJ_CFG_REL_ACQ_MS h * msCycles)) h r.layer
    (if (s.head h).tries = 0 then -262144 else 262144)
  rw [State.putHead_head, State.putHead_now, hy, (State.moveRelay_keeps ..).now]
  exact ⟨rfl, hread, State.le_advanceTo_now ..⟩

theorem gives_layerJumpTimeout_fails (s : State) (n : Fin 128) (a : Fin 2) (h : Nat) (r : HReq) (hh : h = headOf n a)
    (hop : (s.head h).op = some r) (hk : r.kind = 3) (hrelay : (s.head h).onRelay = true) (htries : 2 ≤ (s.head h).tries) :
    s.gives (.layerJumpTimeout n a) fun t => t.hd h = hdRecover ∧ (t.head h).op.map HReq.kind = some 6 ∧
      (r.firmware = false → (t.head h).again = some r) := by
  let s2 := (s.advanceTo ((s.head h).stageAt + s.rd1 Reg.STN_HD_LJ_CFG_REL_ACQ_MS h * msCycles)).raise 0x0504 [n, a, r.layer]
  let s3 := s2.putHead h ((s2.head h).toDoAgain (if r.firmware then (s.head h).again else some r))
  have hexec : exec (.layerJumpTimeout n a) s = .next ((if r.firmware then s3.headResult h 2 else s3).enterRecover h 5) :=
    (exec_layerJumpTimeout hh hop hrelay).trans ((if_neg (by omega)).trans (if_pos hk))
  obtain ⟨hhd, hreq, -⟩ := (if r.firmware then s3.headResult h 2 else s3).enterRecover_spec h 5
  refine State.gives_of_exec hexec ⟨hhd, hreq, fun hfw => ?_⟩
  have hs3 : s3.head h = (s2.head h).toDoAgain (some r) := by
    rw [State.putHead_head, hfw]
    rfl
  rw [hfw, if_neg (by decide), State.enterRecover_again (by rw [hs3]; rfl), hs3]
  rfl

end Sys2Proof.Machine
end

section
/-!
PROOF. Sequences of a head end (O37, second part): loss of lock, recovery, the limits of power, calibration and parking.
-/

set_option Elab.async false

namespace Sys2Proof.Machine

/-! ### Loss of lock (R412 to R415) -/

theorem State.stopWriting_stops (s : State) (h : Nat) : (s.stopWriting h).flag Reg.STN_HD_STATUS_WRITING h = false := by
  have hsame : ∀ t : State, t.flag Reg.STN_HD_STATUS_WRITING h = s.flag Reg.STN_HD_STATUS_WRITING h →
      (if s.flag Reg.STN_HD_STATUS_WRITING h then (t.gateWriting h).sendStop (h / 2) (h % 2 == 0) (h % 2 == 1) else t).flag
        Reg.STN_HD_STATUS_WRITING h = false := by
    intro t ht
    split
    · next hw =>
      rw [(State.sendStop_keeps ..).flag _ _ (by decide +kernel), State.gateWriting, if_pos (ht.trans hw),
        (State.gateHead_keeps ..).flag _ _ (by decide +kernel), State.flag_clr]
    · next hw => exact ht.trans (Bool.eq_false_iff.2 hw)
  unfold State.stopWriting
  refine hsame _ ?_
  split
  · exact (State.putSlice_keeps ..).flag _ _ (by decide +kernel)
  · rfl

def State.lockLost_mask : Nat := State.clearLock_mask ||| State.abandonHeadCal_mask ||| State.draw_mask ||| State.raise_mask |||
  State.markReverify_mask

/-- A head that loses a lock: writing has stopped, and it recovers, or parks on its way to FAULT. -/
theorem exec_lockLoss {s : State} {n : Fin 128} {a : Fin 2} {h : Nat} {l : Fin 5} (hh : h = headOf n a) (hmode : s.mode ≠ mCinder)
    (hst : s.hd h = hdReady ∨ s.hd h = hdSeek ∨ s.hd h = hdOpc) (hlost : (s.head h).watch.lost (s.sliceOf h).isSome l = true) :
    ∃ (t : State) (stage : Nat), Keeps State.lockLost_mask (s.stopWriting h) t ∧ exec (.lockLoss n a l) s =
      if !s.flag Reg.STN_HD_CTRL_AUTO_RECOVER h then .next (t.acqFail h 0x0506)
      else .next ((t.enterRecover h stage).enterStage h stage) := by
  subst hh
  let s1 := ((s.stopWriting (headOf n a)).clearLock (headOf n a) l).abandonHeadCal (headOf n a)
  refine ⟨((s1.draw 32).2.raise 0x0506 [n, a, (s1.draw 32).1, s.hd (headOf n a)]).markReverify (headOf n a), _, ?_, if_neg ?_⟩
  · have h1 : Keeps State.lockLost_mask (s.stopWriting (headOf n a)) s1 :=
      Keeps.step (State.abandonHeadCal_keeps ..) (Keeps.mono (State.clearLock_keeps ..))
    exact Keeps.step (State.markReverify_keeps ..) (Keeps.step (State.raise_keeps ..) (Keeps.step (State.draw_keeps s1 32).get h1))
  · have hst' : (s.hd (headOf n a) == hdReady || s.hd (headOf n a) == hdSeek || s.hd (headOf n a) == hdOpc) = true := by
      simpa [or_assoc] using hst
    simp [hmode, hst', hlost]

/-- A recovering head stays in RECOVER over the stages it goes through. -/
theorem State.enterStage_recovers {s : State} {h : Nat} (hop : (s.head h).op.map HReq.kind = some 6) (hhd : s.hd h = hdRecover)
    (stage : Nat) : (s.enterStage h stage).hd h = hdRecover ∧ ((s.enterStage h stage).head h).op.map HReq.kind = some 6 := by
  have hrec : ((s.head h).op.any fun r => r.kind == 6) = true := by
    obtain ⟨r, hr, hk⟩ := Option.map_eq_some_iff.1 hop
    simp [hr, hk]
  let s1 := s.putHead h ((s.head h).atStage stage s.now)
  have hs1 : s1.head h = (s.head h).atStage stage s.now := State.putHead_head ..
  have hop1 : (s1.head h).op.map HReq.kind = some 6 := (congrArg (·.op.map HReq.kind) hs1).trans hop
  unfold State.enterStage
  simp only [hrec, if_true]
  split
  · obtain ⟨-, hsweep, -⟩ := s1.focusSweep_spec h
    refine ⟨State.setHd_hd .., ?_⟩
    rw [State.setHd_head]
    exact (congrArg (Option.map HReq.kind) hsweep).trans hop1
  · exact ⟨hhd, hop1⟩
  · exact ⟨hhd, hop1⟩
  · exact ⟨hhd, hop1⟩
  · exact ⟨((State.readPowerOn_keeps s1 h).hd h).trans hhd, (congrArg (·.op.map HReq.kind) (s1.readPowerOn_head h)).trans hop1⟩
  · obtain ⟨y, hy, hyop, -⟩ := s1.moveRelay_head h (match (s.head h).op with | some r => r.layer | none => 0) 0
    refine ⟨((State.moveRelay_keeps s1 ..).hd h).trans hhd, ?_⟩
    exact (congrArg (·.op.map HReq.kind) hy).trans ((congrArg (Option.map HReq.kind) hyop).trans hop1)
  · exact ⟨hhd, hop1⟩

theorem gives_lockLoss_recovers (s : State) (n : Fin 128) (a : Fin 2) (h : Nat) (l : Fin 5) (hh : h = headOf n a)
    (hmode : s.mode ≠ mCinder) (hst : s.hd h = hdReady ∨ s.hd h = hdSeek ∨ s.hd h = hdOpc)
    (hlost : (s.head h).watch.lost (s.sliceOf h).isSome l = true) (hauto : s.flag Reg.STN_HD_CTRL_AUTO_RECOVER h = true) :
    s.gives (.lockLoss n a l) fun t => t.hd h = hdRecover ∧ (t.head h).op.map HReq.kind = some 6 ∧
      t.flag Reg.STN_HD_STATUS_WRITING h = false := by
  obtain ⟨t, stage, ht, hexec⟩ := exec_lockLoss hh hmode hst hlost
  rw [hauto] at hexec
  obtain ⟨hhd, hop, -⟩ := t.enterRecover_spec h stage
  obtain ⟨hhd', hop'⟩ := State.enterStage_recovers hop hhd stage
  refine State.gives_of_exec hexec ⟨hhd', hop', ?_⟩
  rw [(State.enterStage_keeps ..).flag _ _ (by decide +kernel), (State.enterRecover_keeps ..).flag _ _ (by decide +kernel),
    ht.flag _ _ (by decide +kernel), s.stopWriting_stops h]

theorem gives_lockLoss_parks (s : State) (n : Fin 128) (a : Fin 2) (h : Nat) (l : Fin 5) (hh : h = headOf n a)
    (hmode : s.mode ≠ mCinder) (hst : s.hd h = hdReady ∨ s.hd h = hdSeek ∨ s.hd h = hdOpc)
    (hlost : (s.head h).watch.lost (s.sliceOf h).isSome l = true) (hauto : s.flag Reg.STN_HD_CTRL_AUTO_RECOVER h = false) :
    s.gives (.lockLoss n a l) fun t => t.hd h = hdParking ∧ (t.head h).parkCause = 2 := by
  obtain ⟨t, stage, ht, hexec⟩ := exec_lockLoss hh hmode hst hlost
  rw [hauto] at hexec
  have hhd : t.hd h = s.hd h := (ht.hd h).trans ((State.stopWriting_keeps ..).hd h)
  have hup : t.headUp h = true ∧ t.hd h ≠ hdParking := by
    rw [State.headUp_iff, hhd]
    obtain hst | hst | hst := hst <;> rw [hst] <;> decide
  obtain ⟨hpark, hcause, -⟩ := State.acqFail_parks hup.1 hup.2 0x0506
  exact State.gives_of_exec hexec ⟨hpark, hcause⟩

/-! ### The end of a recovery (R413 to R415) -/

theorem State.seekVerify_of_none {s : State} {h : Nat} (hver : ∀ sl, s.sliceOf h = some sl → (s.slice sl).reverify = false) :
    s.seekVerify h = s := by
  unfold State.seekVerify
  cases hsl : s.sliceOf h with
  | none => rfl
  | some sl => simp only [Option.bind_some, hver sl hsl, Bool.false_eq_true, if_false]

theorem gives_headRecoveryDone (s : State) (n : Fin 128) (a : Fin 2) (h : Nat) (r : HReq) (hh : h = headOf n a)
    (hwait : (s.head h).waiting = []) (hagain : (s.head h).again = none) (hop : (s.head h).op = some r) (hk : r.kind = 6)
    (hhd : s.hd h = hdRecover) (hstage : (s.head h).stage = 7)
    (hver : ∀ sl, s.sliceOf h = some sl → (s.slice sl).reverify = false) :
    s.gives (.headRecoveryDone n a) fun t => t.hd h = hdReady ∧ (t.head h).op = none ∧
      t.lastEvent 0x0507 [n, a, (s.now - (s.head h).recoverAt) / msCycles] := by
  subst hh
  let u := (s.opDone (headOf n a)).raise 0x0507 [n, a, (s.now - (s.head (headOf n a)).recoverAt) / msCycles]
  have hu : Keeps State.raise_mask (s.opDone (headOf n a)) u := State.raise_keeps ..
  have huhead : u.head (headOf n a) = (s.head (headOf n a)).idle := (hu.head _).trans (State.opDone_head ..)
  have hslices : u.slices = s.slices :=
    (hu.part .slices (by decide +kernel)).trans ((State.opDone_keeps ..).part .slices (by decide +kernel))
  have hver' : ∀ sl, u.sliceOf (headOf n a) = some sl → (u.slice sl).reverify = false := by
    simpa only [State.sliceOf, State.slice, hslices] using hver
  have hexec : exec (.headRecoveryDone n a) s = .next u :=
    (if_pos ⟨by simp [hop, hk], hhd, hstage⟩).trans (congrArg _ ((congrArg (State.nextReq · _) (State.seekVerify_of_none hver')).trans
      (State.nextReq_of_none (by rw [huhead]; exact hagain) (by rw [huhead]; exact hwait))))
  refine State.gives_of_exec hexec ⟨(hu.hd _).trans (State.opDone_hd ..), ?_, State.raise_lastEvent ..⟩
  rw [huhead]
  rfl

theorem gives_headRecoveryTimeout (s : State) (n : Fin 128) (a : Fin 2) (h : Nat) (r : HReq) (hh : h = headOf n a)
    (hop : (s.head h).op = some r) (hk : r.kind = 6) (hhd : s.hd h = hdRecover) :
    s.gives (.headRecoveryTimeout n a) fun t => t.hd h = hdParking ∧ (t.head h).parkCause = 2 ∧
      (s.head h).recoverAt + s.rd Reg.STN_HD_LOSS_CFG_RECOVER_MS h * 10 * msCycles ≤ t.now := by
  subst hh
  let s1 := s.advanceTo ((s.head (headOf n a)).recoverAt + s.rd Reg.STN_HD_LOSS_CFG_RECOVER_MS (headOf n a) * 10 * msCycles)
  have hexec : exec (.headRecoveryTimeout n a) s = .next (s1.acqFail (headOf n a) 0x0506) := if_pos ⟨by simp [hop, hk], hhd⟩
  have hhd1 : s1.hd (headOf n a) = hdRecover := ((State.advanceTo_keeps ..).hd _).trans hhd
  obtain ⟨hpark, hcause, -⟩ := State.acqFail_parks (s := s1) (h := headOf n a) (State.headUp_iff.2 (by rw [hhd1]; decide))
    (by rw [hhd1]; decide) 0x0506
  refine State.gives_of_exec hexec ⟨hpark, hcause, ?_⟩
  rw [(State.acqFail_keeps ..).now]
  exact State.le_advanceTo_now ..

/-! ### The limits of power (R405) -/

/-- A head's record with the limit of one of its powers shown or not. -/
def Head.showLimit (x : Head) (write b : Bool) : Head :=
  { x with watch := if write then { x.watch with shownW := b } else { x.watch with shownR := b } }

theorem gives_powerLimitDetect_limited (s : State) (n : Fin 128) (a : Fin 2) (h : Nat) (hh : h = headOf n a)
    (hlim : 16 ≤ (s.head h).watch.limR) (hshown : (s.head h).watch.shownR = false) :
    s.gives (.powerLimitDetect n a false) fun t => t.flag Reg.STN_HD_STATUS_PWR_LIMITED h = true ∧ t.hd h = s.hd h := by
  subst hh
  let s1 := s.set1 Reg.STN_HD_STATUS_PWR_LIMITED (headOf n a)
  let sl := (s.writerOf n (headWord (headOf n a) 4)).getD 0
  let u := (s1.putHead (headOf n a) ((s1.head (headOf n a)).showLimit false true)).raise 0x0509
    [n, a, sl, s.rd Reg.LPE_SLOT_STAT_SEL sl - 1]
  have hexec : exec (.powerLimitDetect n a false) s = .next u := if_pos ⟨hlim, by simp [hshown]⟩
  have hu : Keeps (State.putHead_mask ||| State.raise_mask) s1 u := Keeps.step (State.raise_keeps ..) (Keeps.mono (State.putHead_keeps ..))
  exact State.gives_of_exec hexec ⟨(hu.flag _ _ (by decide +kernel)).trans (State.flag_set1 _ _ (by decide)),
    (hu.hd _).trans (State.rd_set1_ne _ _ _ _ _ (by decide))⟩

theorem gives_powerLimitDetect_free (s : State) (n : Fin 128) (a : Fin 2) (h : Nat) (w : Bool) (hh : h = headOf n a)
    (hlimR : (s.head h).watch.limR < 16) (hlimW : (s.head h).watch.limW < 16) (hfreeR : 16 ≤ (s.head h).watch.freeR)
    (hfreeW : 16 ≤ (s.head h).watch.freeW)
    (hshown : (if w then (s.head h).watch.shownW else (s.head h).watch.shownR) = true)
    (hother : (if w then (s.head h).watch.shownR else (s.head h).watch.shownW) = false) :
    s.gives (.powerLimitDetect n a w) fun t => t.flag Reg.STN_HD_STATUS_PWR_LIMITED h = false := by
  subst hh
  have hexec : exec (.powerLimitDetect n a w) s =
      .next ((s.putHead (headOf n a) ((s.head (headOf n a)).showLimit w false)).clr Reg.STN_HD_STATUS_PWR_LIMITED (headOf n a)) := by
    cases w with
    | false =>
      refine (if_neg (by omega)).trans ((if_neg (by simp)).trans ((if_pos ⟨hfreeR, hshown⟩).trans ?_))
      exact congrArg _ (if_neg (by simpa using hother))
    | true =>
      refine (if_neg (by omega)).trans ((if_neg (by omega)).trans ((if_pos ⟨hfreeW, hshown⟩).trans ?_))
      exact congrArg _ (if_neg (by simpa using hother))
  exact State.gives_of_exec hexec (State.flag_clr ..)

/-! ### The end of a calibration (R408 to R410) -/

/-- The first entry of a map that passes a test keeps its key where a value that fares as the old one is put into the map. -/
theorem find?_mput_fst {α : Type} (d v : α) (p : α → Bool) {k : Nat} (l : List (Nat × α)) (hv : p v = p (mget d l k))
    (hfind : (l.find? fun e => p e.2).map Prod.fst = some k) : ((mput l k v).find? fun e => p e.2).map Prod.fst = some k := by
  induction l with
  | nil => simp at hfind
  | cons e r ih =>
    obtain ⟨j, w⟩ := e
    by_cases hj : j = k
    · subst hj
      rw [mget, if_pos rfl] at hv
      rw [mput, if_pos rfl, List.find?_cons, hv]
      rw [List.find?_cons] at hfind
      split at hfind <;> simp_all
    · have hw : p w = false := by
        rw [List.find?_cons] at hfind
        split at hfind
        · simp [hj] at hfind
        · assumption
      rw [mget, if_neg hj] at hv
      rw [List.find?_cons_of_neg (by simp [hw])] at hfind
      rw [mput, if_neg hj]
      split
      · rw [List.find?_cons]
        split
        · rfl
        · rwa [List.find?_cons_of_neg (by simp [hw])]
      · rw [List.find?_cons_of_neg (by simp [hw])]
        exact ih hv hfind

theorem Disc.setSide_spec (x : Disc) (i : Nat) (sd : DiscSide) :
    (x.setSide i sd).side i = sd ∧ (x.setSide i sd).loc = x.loc ∧ (x.setSide i sd).known = x.known := by
  unfold Disc.setSide Disc.side
  split <;> exact ⟨rfl, rfl, rfl⟩

/-- A change to a disc's side leaves it in its station. -/
theorem State.discIn_putDisc_side {s : State} {n d : Nat} (hd : s.discIn n = some d) (i : Nat) (sd : DiscSide) :
    (s.putDisc d ((s.disc d).setSide i sd)).discIn n = some d := by
  obtain ⟨-, hloc, hknown⟩ := (s.disc d).setSide_spec i sd
  exact find?_mput_fst {} _ (fun x : Disc => x.loc == .station n && x.known) s.discs (by rw [hloc, hknown]; rfl) hd

/-- A burst taken moves the pointer of its layer on. -/
theorem State.pcaTake_pcaNext {s : State} {h d : Nat} (hd : s.discIn (h / 2) = some d) (l : Nat) :
    (s.pcaTake h l).pcaNext h l = s.pcaNext h l + 1 := by
  have hstays := State.discIn_putDisc_side hd (h % 2) { (s.disc d).side (h % 2) with
    pca := mput ((s.disc d).side (h % 2)).pca l (mget 0 ((s.disc d).side (h % 2)).pca l + 1) }
  have hold : s.pcaNext h l = mget 0 ((s.disc d).side (h % 2)).pca l := by simp only [State.pcaNext, hd]
  rw [hold]
  simp only [State.pcaTake, hd, State.pcaNext, hstays, State.putDisc_disc, (Disc.setSide_spec ..).1, mget_mput_same]

/-- A calibration whose errors are found: they and the layer are shown. -/
def State.opcShown (s : State) (h l e : Nat) : State := (s.wr Reg.STN_HD_OPC_RES_E_MIN h e).wr Reg.STN_HD_OPC_RES_LAYER h l

def State.opcShown_mask : Nat := fieldBits [Reg.STN_HD_OPC_RES_E_MIN, Reg.STN_HD_OPC_RES_LAYER]

theorem State.opcShown_keeps (s : State) (h l e : Nat) : Keeps State.opcShown_mask s (s.opcShown h l e) :=
  Keeps.wr (Keeps.wr (Keeps.refl _ _))

/-- The errors of the rows of a burst read back against its pattern (R409). -/
def Opc.errors (o : Opc) (h l : Nat) : List Nat :=
  (upTo 8).map fun k => match mfind o.rows k with
    | some b => burstErrors b.words (burstPfa o.burst h l)
    | none => 6656

theorem Opc.errors_eq (o : Opc) (h l : Nat) : o.errors h l =
    (upTo 8).map fun k => ((mfind o.rows k).map fun b => burstErrors b.words (burstPfa o.burst h l)).getD 6656 := by
  unfold Opc.errors
  congr 1
  funext k
  cases mfind o.rows k <;> rfl

/-- A head's record as its calibration goes on to one more burst. -/
def Head.oneMoreBurst (x : Head) : Head := { x with opcTries := 1 }

/-- A first burst that is lost is passed over. -/
theorem exec_opcReadback_lost {s : State} {n : Fin 128} {a : Fin 2} {h : Nat} {r : HReq} (hh : h = headOf n a)
    (hop : (s.head h).op = some r) (hk : r.kind = 5) (hhd : s.hd h = hdOpc) (hburst : (s.head h).opc.burst < 18432)
    (hstage : (s.head h).opc.stage = .back) (hlost : (s.head h).opc.lost = true) (htries : (s.head h).opcTries = 0) :
    exec (.opcReadback n a) s =
      let s2 := s.opcShown h r.layer (((s.head h).opc.errors h r.layer).foldl min 6656)
      .next ((s2.putHead h (s2.head h).oneMoreBurst).opcNext h r.layer) := by
  subst hh
  rw [exec]
  unfold execOpcReadback
  extract_lets h x
  rw [show x.op = some r from hop]
  have hback : ¬((s.head h).opc.stage ≠ .back ∨ (!((s.head h).opc.lost || (s.head h).opc.rows.length == 8)) = true) := by
    simp [h, hstage, hlost]
  refine (if_neg (by simp [hk, hhd, h])).trans ((if_neg (Nat.not_le.2 hburst)).trans ((if_neg hback).trans ?_))
  exact (if_pos (.inl hlost)).trans (if_pos htries)

theorem gives_opcReadback_lost (s : State) (n : Fin 128) (a : Fin 2) (h : Nat) (r : HReq) (d : Nat) (hh : h = headOf n a)
    (hburst : (s.head h).opc.burst < 18432) (hstage : (s.head h).opc.stage = .back) (hop : (s.head h).op = some r) (hk : r.kind = 5)
    (hhd : s.hd h = hdOpc) (hlost : (s.head h).opc.lost = true) (htries : (s.head h).opcTries = 0)
    (hdisc : s.discIn (h / 2) = some d) :
    s.gives (.opcReadback n a) fun t => t.pcaNext h r.layer = s.pcaNext h r.layer + 1 ∧ t.hd h = hdOpc ∧ (t.head h).opcTries = 1 ∧
      (t.head h).opc.burst = s.pcaNext h r.layer + 1 := by
  let s2 := s.opcShown h r.layer (((s.head h).opc.errors h r.layer).foldl min 6656)
  let u := s2.putHead h (s2.head h).oneMoreBurst
  have hu : Keeps (State.opcShown_mask ||| State.putHead_mask) s u :=
    Keeps.step (State.putHead_keeps ..) (Keeps.mono (State.opcShown_keeps ..))
  have hnext : (u.pcaTake h r.layer).pcaNext h r.layer = s.pcaNext h r.layer + 1 := State.pcaTake_pcaNext (s := u) hdisc r.layer
  have hhead : (u.pcaTake h r.layer).head h = (s2.head h).oneMoreBurst := ((State.pcaTake_keeps ..).head h).trans (State.putHead_head ..)
  refine State.gives_of_exec (exec_opcReadback_lost hh hop hk hhd hburst hstage hlost htries) ⟨hnext, ?_, ?_, ?_⟩
  · exact ((State.opcNext_keeps u h r.layer).hd h).trans ((hu.hd h).trans hhd)
  · rw [State.opcNext, State.putHead_head]
    exact congrArg Head.opcTries hhead
  · rw [State.opcNext, State.putHead_head]
    exact hnext

def State.opcJudged_mask : Nat := State.opcMean_mask ||| State.kept_mask ||| State.pcaTake_mask |||
  fieldBits [Reg.STN_HD_WPWR_VALID, Reg.STN_HD_WPWR_WRITE_SP]

def State.powerSet_mask : Nat := State.headPrm_mask ||| State.putHead_mask ||| State.raise_mask

/-- A burst read back with few enough errors: the power of its layer is valid, and the operation ends. -/
theorem exec_opcReadback_good {s : State} {n : Fin 128} {a : Fin 2} {h e : Nat} {r : HReq} (hh : h = headOf n a)
    (hop : (s.head h).op = some r) (hk : r.kind = 5) (hhd : s.hd h = hdOpc) (hburst : (s.head h).opc.burst < 18432)
    (hstage : (s.head h).opc.stage = .back) (hlost : (s.head h).opc.lost = false) (hrows : (s.head h).opc.rows.length = 8)
    (he : e = ((s.head h).opc.errors h r.layer).foldl min 6656) (hmax : e ≤ s.rd Reg.STN_HD_OPC_RES_E_MAX h) :
    ∃ u : State, u.flag Reg.STN_HD_WPWR_VALID (layerIdx h r.layer) = true ∧ u.rd Reg.STN_HD_OPC_RES_E_MIN h = e % 2 ^ 16 ∧
      (u.head h).again = (s.head h).again ∧ (u.head h).waiting = (s.head h).waiting ∧
      exec (.opcReadback n a) s = .next ((u.opDone h).nextReq h) := by
  subst hh he
  rw [exec]
  unfold execOpcReadback
  extract_lets h x o
  rw [show x.op = some r from hop]
  have hback : ¬((s.head h).opc.stage ≠ .back ∨ (!((s.head h).opc.lost || (s.head h).opc.rows.length == 8)) = true) := by
    simp [h, hstage, hrows]
  dsimp -zeta only
  extract_lets l errs e s2 x2 win s6 s7 y s8
  have hgood : ¬((s.head h).opc.lost = true ∨ s.rd Reg.STN_HD_OPC_RES_E_MAX h < e) := by
    rw [not_or]
    exact ⟨by simp [h, hlost], Nat.not_lt.2 hmax⟩
  rw [if_neg (by simp [hk, hhd, h]), if_neg (Nat.not_le.2 hburst), if_neg hback, if_neg hgood]
  have h6 : Keeps State.opcJudged_mask s2 s6 := by
    have hlo := s2.opcMean_keeps h (win.headD 0)
    have hhi := (s2.opcMean h (win.headD 0)).2.opcMean_keeps h (win.getLastD 0)
    exact Keeps.set1 (Keeps.wrS (Keeps.step (State.pcaTake_keeps ..) (KeepsSnd.step (State.kept_keeps ..)
      (KeepsSnd.step hhi hlo.get.mono).get).get))
  have h8 : Keeps State.powerSet_mask s6 s8 := Keeps.step (State.putHead_keeps ..) (Keeps.mono (State.headPrm_keeps ..))
  have hu (data : List Nat) : Keeps State.powerSet_mask s6 (s8.raise 0x050A data) := Keeps.step (State.raise_keeps ..) h8
  have hy : y = s.head h := ((State.headPrm_keeps ..).head h).trans ((h6.head h).trans ((State.opcShown_keeps ..).head h))
  have hhead (data : List Nat) : (s8.raise 0x050A data).head h = s8.head h := (State.raise_keeps ..).head h
  have h8head : (s8.head h).again = y.again ∧ (s8.head h).waiting = y.waiting := by
    rw [State.putHead_head]
    exact ⟨rfl, rfl⟩
  obtain ⟨hagain, hwait⟩ := h8head
  refine ⟨s8.raise 0x050A _, ?_, ?_, ?_, ?_, rfl⟩
  · exact ((hu _).flag _ _ (by decide +kernel)).trans (State.flag_set1 _ _ (by decide))
  · rw [(hu _).rd _ _ (by decide +kernel), h6.rd _ _ (by decide +kernel)]
    exact (State.rd_wr_ne _ _ _ _ _ _ (by decide)).trans (State.rd_wr_same ..)
  · rw [hhead, hagain, hy]
  · rw [hhead, hwait, hy]

theorem foldl_min_le (l : List Nat) (e : Nat) : l.foldl min e ≤ e := by
  induction l generalizing e with
  | nil => exact le_rfl
  | cons k l ih => exact (ih _).trans (min_le_left ..)

theorem gives_opcReadback_good (s : State) (n : Fin 128) (a : Fin 2) (h : Nat) (r : HReq) (e : Nat) (hh : h = headOf n a)
    (hwait : (s.head h).waiting = []) (hagain : (s.head h).again = none) (hburst : (s.head h).opc.burst < 18432)
    (hstage : (s.head h).opc.stage = .back) (hop : (s.head h).op = some r) (hk : r.kind = 5) (hhd : s.hd h = hdOpc)
    (hlost : (s.head h).opc.lost = false) (hrows : (s.head h).opc.rows.length = 8)
    (he : e = ((upTo 8).map fun k => ((mfind (s.head h).opc.rows k).map fun b => burstErrors b.words
      (burstPfa (s.head h).opc.burst h r.layer)).getD 6656).foldl min 6656)
    (hmax : e ≤ s.rd Reg.STN_HD_OPC_RES_E_MAX h) :
    s.gives (.opcReadback n a) fun t => t.flag Reg.STN_HD_WPWR_VALID (layerIdx h r.layer) = true ∧
      t.rd Reg.STN_HD_OPC_RES_E_MIN h = e ∧ t.hd h = hdReady ∧ (t.head h).op = none := by
  have hlt : e < 2 ^ 16 := (he.le.trans (foldl_min_le ..)).trans_lt (by decide)
  rw [← Opc.errors_eq] at he
  obtain ⟨u, hvalid, hfew, huagain, huwait, hexec⟩ := exec_opcReadback_good hh hop hk hhd hburst hstage hlost hrows he hmax
  rw [State.opDone_nextReq (huagain.trans hagain) (huwait.trans hwait)] at hexec
  have hend := u.opDone_keeps h
  refine State.gives_of_exec hexec ⟨(hend.flag _ _ (by decide +kernel)).trans hvalid, ?_, State.opDone_hd .., ?_⟩
  · rw [hend.rd _ _ (by decide +kernel), hfew, Nat.mod_eq_of_lt hlt]
  · rw [State.opDone_head]
    rfl

/-- A calibration without a burst left ends without a result (R410). -/
theorem State.opcFail_spec {s : State} {h : Nat} (hwait : (s.head h).waiting = []) (hagain : (s.head h).again = none)
    (l e full : Nat) : (s.opcFail h l e full).lastEvent 0x050B [h / 2, h % 2, l, e, full] ∧ (s.opcFail h l e full).hd h = hdReady ∧
      ((s.opcFail h l e full).head h).op = none := by
  unfold State.opcFail
  extract_lets s1 fw x s2 s3
  have h3 : Keeps State.headResult_mask s2 s3 := Keeps.ite (State.headResult_keeps ..) (Keeps.refl _ _)
  have hhead : s3.head h = s2.head h := h3.head h
  have hx : x = s.head h := (State.raise_keeps ..).head h
  have h2 : (s2.head h).again = none ∧ (s2.head h).waiting = [] := by
    rw [State.putHead_head]
    exact ⟨(congrArg Head.again hx).trans hagain, (congrArg Head.waiting hx).trans hwait⟩
  obtain ⟨hagain2, hwait2⟩ := h2
  have hev : Keeps (State.headResult_mask ||| State.putHead_mask ||| State.opDone_mask ||| fieldBits [Reg.STN_HD_OPC_RES_LAYER])
      (s.raise 0x050B [h / 2, h % 2, l, e, full]) (s3.opDone h) :=
    Keeps.step (State.opDone_keeps ..) (Keeps.step h3 (Keeps.step (State.putHead_keeps ..) (Keeps.wr (Keeps.refl _ _))))
  rw [State.opDone_nextReq (by rw [hhead, hagain2]) (by rw [hhead, hwait2]), State.opDone_head]
  refine ⟨?_, State.opDone_hd .., rfl⟩
  rw [State.lastEvent, hev.part .ev (by decide +kernel)]
  exact State.raise_lastEvent ..

theorem gives_opcReadback_full (s : State) (n : Fin 128) (a : Fin 2) (h : Nat) (r : HReq) (hh : h = headOf n a)
    (hwait : (s.head h).waiting = []) (hagain : (s.head h).again = none) (hop : (s.head h).op = some r) (hk : r.kind = 5)
    (hhd : s.hd h = hdOpc) (hburst : 18432 ≤ (s.head h).opc.burst) :
    s.gives (.opcReadback n a) fun t => t.lastEvent 0x050B [h / 2, h % 2, r.layer, s.rd Reg.STN_HD_OPC_RES_E_MIN h, 1] ∧
      t.hd h = hdReady ∧ (t.head h).op = none := by
  subst hh
  have hexec : exec (.opcReadback n a) s =
      .next (s.opcFail (headOf n a) r.layer (s.rd Reg.STN_HD_OPC_RES_E_MIN (headOf n a)) 1) := by
    rw [exec]
    unfold execOpcReadback
    extract_lets h x o
    rw [show x.op = some r from hop]
    exact (if_neg (by simp [hk, hhd, h])).trans (if_pos hburst)
  exact State.gives_of_exec hexec (State.opcFail_spec hwait hagain ..)

/-! ### The end of parking (R415, R420) -/

/-- A head in PARKING whose sled is not at its place begins the sled's move. -/
theorem gives_headParkDone_moves (s : State) (n : Fin 128) (a : Fin 2) (h : Nat) (hh : h = headOf n a) (hmode : s.mode ≠ mCinder)
    (hhd : s.hd h = hdParking) (hcause : (s.head h).parkCause ≠ 4) (hmoving : s.axState h ≠ axMoving)
    (hhoming : s.axState h ≠ axHoming) (hstage : (s.head h).stage ≠ 10) (hpark : s.axPos h ≠ s.rdS Reg.MOT_SLED_PARK_PARK 0) :
    s.gives (.headParkDone n a) fun t => t.hd h = hdParking ∧ (t.head h).stage = 10 ∧ (s.head h).dueAt ≤ t.now := by
  subst hh
  let s1 := s.advanceTo (s.head (headOf n a)).dueAt
  let u := s1.putHead (headOf n a) { s1.head (headOf n a) with stage := 10 }
  have hexec : exec (.headParkDone n a) s = .next (u.headMove (headOf n a) (s.rdS Reg.MOT_SLED_PARK_PARK 0)) :=
    (if_neg (by simp [hmode, hhd, hmoving, hhoming])).trans (if_pos ⟨hcause, hstage, hpark⟩)
  have hmove := u.headMove_keeps (headOf n a) (s.rdS Reg.MOT_SLED_PARK_PARK 0)
  have hs1 : s1.hd (headOf n a) = hdParking := ((State.advanceTo_keeps ..).hd _).trans hhd
  refine State.gives_of_exec hexec ⟨(hmove.hd _).trans hs1, ?_, ?_⟩
  · rw [hmove.head, State.putHead_head]
  · rw [hmove.now]
    exact State.le_advanceTo_now ..

/-- The parking of the heads of a station leaves a head that is down alone. -/
theorem State.parkHead_leaves {s : State} {h : Nat} (hdown : s.headUp h = false) (k : Nat) :
    (s.parkHead k 0).head h = s.head h ∧ (s.parkHead k 0).hd h = s.hd h := by
  by_cases hk : k = h
  · rw [hk, State.parkHead_down hdown (by decide)]
    exact ⟨rfl, rfl⟩
  · exact s.parkHead_ne 0 hk

def State.afterPark_end_mask : Nat := State.safeNow_mask ||| State.stopSpindle_mask ||| State.spinTarget_mask

/-- What follows a head's parking leaves it down. -/
theorem State.afterPark_leaves {s : State} {h : Nat} (hdown : s.headUp h = false) (n cause : Nat) :
    (s.afterPark n cause).head h = s.head h ∧ (s.afterPark n cause).hd h = s.hd h ∧ (s.afterPark n cause).now = s.now := by
  unfold State.afterPark
  extract_lets unmounted s1
  have h1 : s1.head h = s.head h ∧ s1.hd h = s.hd h ∧ s1.now = s.now := by
    simp only [s1]
    split
    · obtain ⟨hhead, hhd⟩ := State.parkHead_leaves hdown (2 * n)
      obtain ⟨hhead', hhd'⟩ := State.parkHead_leaves ((State.headUp_congr hhd).trans hdown) (2 * n + 1)
      exact ⟨hhead'.trans hhead, hhd'.trans hhd, (State.parkHead_keeps ..).now.trans (State.parkHead_keeps ..).now⟩
    · exact ⟨rfl, rfl, rfl⟩
  obtain ⟨hhead, hhd, hnow⟩ := h1
  have hend : Keeps State.afterPark_end_mask s1 (if !s1.bothDown n then s1 else if cause = 4 then s1.safeNow n 4 .stay
      else if cause = 3 then s1.stopSpindle n 2 else if cause = 1 ∨ unmounted then s1.spinTarget n 0 else s1) := by
    refine Keeps.ite (Keeps.refl _ _) (Keeps.ite (Keeps.mono (State.safeNow_keeps ..)) (Keeps.ite (Keeps.mono (State.stopSpindle_keeps ..))
      (Keeps.ite (Keeps.mono (State.spinTarget_keeps ..)) (Keeps.refl _ _))))
  exact ⟨(hend.head h).trans hhead, (hend.hd h).trans hhd, hend.now.trans hnow⟩

theorem gives_headParkDone_down (s : State) (n : Fin 128) (a : Fin 2) (h : Nat) (hh : h = headOf n a) (hmode : s.mode ≠ mCinder)
    (hhd : s.hd h = hdParking) (hrest : (s.head h).parkCause = 4 ∨ (s.axState h ≠ axMoving ∧ s.axState h ≠ axHoming ∧
      ((s.head h).stage = 10 ∨ s.axPos h = s.rdS Reg.MOT_SLED_PARK_PARK 0))) :
    s.gives (.headParkDone n a) fun t => t.hd h = (if (s.head h).parkCause = 2 then hdFault else hdParked) ∧ (t.head h).op = none ∧
      (s.head h).dueAt ≤ t.now := by
  subst hh
  let x := s.head (headOf n a)
  let s1 := ((s.advanceTo x.dueAt).parkGates (headOf n a)).putHead (headOf n a) { x with op := none }
  let s2 := s1.setHd (headOf n a) (if x.parkCause = 2 then hdFault else hdParked)
  let u := (s2.headResult (headOf n a) (if x.parkCause = 2 then 2 else 0)).raise 0x050C [n, a, x.parkCause]
  have hexec : exec (.headParkDone n a) s = .next (u.afterPark n x.parkCause) := by
    refine (if_neg ?_).trans (if_neg ?_)
    · simp only [hmode, hhd, ne_eq, not_true_eq_false, false_or]
      tauto
    · simp only [ne_eq]
      tauto
  have hu : Keeps (State.headResult_mask ||| State.raise_mask) s2 u :=
    Keeps.step (State.raise_keeps ..) (Keeps.mono (State.headResult_keeps ..))
  have hst : u.hd (headOf n a) = if x.parkCause = 2 then hdFault else hdParked :=
    (hu.hd _).trans (State.setHd_hd _ _ (by split <;> decide))
  have hdown : u.headUp (headOf n a) = false := by
    rw [State.headUp, hst]
    split <;> rfl
  obtain ⟨hhead, hhd', hnow⟩ := State.afterPark_leaves hdown n x.parkCause
  refine State.gives_of_exec hexec ⟨hhd'.trans hst, ?_, ?_⟩
  · rw [hhead, hu.head, State.setHd_head, State.putHead_head]
  · have h2 : Keeps (State.parkGates_mask ||| State.putHead_mask ||| State.setHd_mask) (s.advanceTo x.dueAt) s2 :=
      Keeps.step (State.setHd_keeps ..) (Keeps.step (State.putHead_keeps ..) (Keeps.mono (State.parkGates_keeps ..)))
    rw [hnow, hu.now, h2.now]
    exact State.le_advanceTo_now ..

/-- Settles O37, clause by clause: what a head's operation, its stage and what its watch has seen make of the head. -/
theorem headSequencesEnd : Obligations.HeadSequencesEnd :=
  ⟨gives_acqStageLocked_focus, gives_acqStageLocked_track, gives_acqStageLocked_address, gives_acqStageLocked_side,
    gives_acqStageLocked_wrongSide, gives_acqStageTimeout_again, gives_acqStageTimeout_fails, gives_acqStageTimeout_sweep,
    gives_seekJumpDone, gives_longSeekSettled, gives_longSeekSettled_fails, gives_seekRestart, gives_layerMoveEnd, gives_relayLocked,
    gives_layerJumpTimeout_again, gives_layerJumpTimeout_fails, gives_lockLoss_recovers, gives_lockLoss_parks, gives_headRecoveryDone,
    gives_headRecoveryTimeout, gives_powerLimitDetect_limited, gives_powerLimitDetect_free, gives_opcReadback_lost,
    gives_opcReadback_good, gives_opcReadback_full, gives_headParkDone_moves, gives_headParkDone_down⟩

end Sys2Proof.Machine
end

section
/-!
PROOF. MOUNT, UNMOUNT, MOVE, INVENTORY and the end of a mount (O56).
-/

set_option Elab.async false

namespace Sys2Proof.Machine

/-! ### Commands that end, and transfers asked for -/

/-- A command of this cell's host that may run ends, and the library is left alone. -/
theorem State.runnable_ends {s : State} {q tag op : Nat} {c : Cmd} (hrun : s.runnable q tag op = some c) (hl : c.local = true)
    (status a b field : Nat) : (s.finish c.sq c.tag status a b field).ended c.sq c.tag status a b field ∧
      (s.finish c.sq c.tag status a b field).lib = s.lib := by
  obtain ⟨hc, hp, -⟩ := State.runnable_spec hrun
  exact ⟨State.finish_ended hc hp hl .., (State.finish_keeps ..).part .lib (by decide +kernel)⟩

theorem State.discBlocked_of_moving {s : State} {d : Nat} (hm : s.discMoving d = true) : s.discBlocked d = some stBusyMoving :=
  if_pos (.inl hm)

/-- A transfer asked for stands behind the others, with a number, a time and the entries of other cells' tables still to come. -/
theorem State.askTransfer_transfers {α : Type} (s : State) (x : Transfer) (g : Transfer → α)
    (hg : ∀ i k l, g { x with id := i, since := k, locsDue := l } = g x) :
    (s.askTransfer x).lib.transfers.map g = s.lib.transfers.map g ++ [g x] := by
  unfold State.askTransfer
  extract_lets far y lib s1
  have hsent : Keeps State.ringSend_mask s1 (far.foldl (fun u p => u.ringSend p.1 0x09 [7, p.2]) s1) :=
    Keeps.foldl (fun _ _ => State.ringSend_keeps ..) (Keeps.refl _ _)
  have hlib : (far.foldl (fun u p => u.ringSend p.1 0x09 [7, p.2]) s1).lib = s1.lib := hsent.part .lib (by decide +kernel)
  rw [hlib]
  exact List.map_append.trans (congrArg _ (congrArg (fun v => [v]) (hg ..)))

/-- The transfer that a command asks for, of the disc it names from its home slot. -/
def Cmd.transferTo (c : Cmd) (dst dstCell kind : Nat) : Transfer where
  id := 0
  cmd := some (c.sq, c.tag)
  disc := aaddrDisc c.aaddr
  src := locSlot (aaddrDisc c.aaddr % 4096)
  srcCell := aaddrDisc c.aaddr / 4096
  dst := dst
  dstCell := dstCell
  kind := kind

/-- A command under way asks for a transfer. -/
theorem State.start_askTransfer {α : Type} {s : State} {q tag op : Nat} {c : Cmd} (hrun : s.runnable q tag op = some c) (x : Transfer)
    (g : Transfer → α) (hg : ∀ i k l, g { x with id := i, since := k, locsDue := l } = g x) :
    ((s.start c).askTransfer x).underWay c.sq c.tag ∧
      ((s.start c).askTransfer x).lib.transfers.map g = s.lib.transfers.map g ++ [g x] := by
  obtain ⟨hc, -⟩ := State.runnable_spec hrun
  exact ⟨State.underWay_congr ((State.askTransfer_keeps ..).part .cmds (by decide +kernel)) (State.start_underWay hc),
    (s.start c).askTransfer_transfers x g hg⟩

/-! ### MOUNT (R663) -/

theorem gives_mount_mounted (s : State) (q : BitVec 20) (tag : BitVec 12) (c : Cmd) (n : Nat)
    (hrun : s.runnable q.toNat tag.toNat opMount = some c) (hl : c.local = true) (hfree : s.discBlocked (aaddrDisc c.aaddr) = none)
    (hloc : (s.disc (aaddrDisc c.aaddr)).loc = .station n) (hmounted : (s.disc (aaddrDisc c.aaddr)).mounted = true) :
    s.gives (.mount q tag) fun t => ∃ u : State, t = u.settle ∧ u.ended c.sq c.tag stSuccess (n + s.cell * 256) 0 0 ∧
      u.lib = s.lib := by
  have hexec : exec (.mount q tag) s = .next (s.finish c.sq c.tag stSuccess (n + s.cell * 256) 0 0).settle := by
    rw [exec, execMount]
    simp only [hrun, hfree, hloc]
    exact if_pos hmounted
  exact State.gives_of_exec hexec ⟨_, rfl, State.runnable_ends hrun hl ..⟩

theorem gives_mount_asks (s : State) (q : BitVec 20) (tag : BitVec 12) (c : Cmd) (k n : Nat)
    (hrun : s.runnable q.toNat tag.toNat opMount = some c) (hfree : s.discBlocked (aaddrDisc c.aaddr) = none)
    (hloc : (s.disc (aaddrDisc c.aaddr)).loc = .home) (htarget : s.mountTarget (aaddrDisc c.aaddr / 4096) (c.get 24 2) = .inl (k, n)) :
    s.gives (.mount q tag) fun t => ∃ u : State, t = u.settle ∧ u.underWay c.sq c.tag ∧
      u.lib.transfers.map (fun x => (x.cmd, x.disc, x.dst, x.dstCell)) = s.lib.transfers.map (fun x => (x.cmd, x.disc, x.dst, x.dstCell)) ++
        [(some (c.sq, c.tag), aaddrDisc c.aaddr, locStation n, k)] := by
  have hexec : exec (.mount q tag) s = .next ((s.start c).askTransfer (c.transferTo (locStation n) k 0)).settle := by
    rw [exec, execMount]
    simp only [hrun, hfree, hloc, htarget]
    rfl
  exact State.gives_of_exec hexec ⟨_, rfl, State.start_askTransfer hrun _ _ fun _ _ _ => rfl⟩

theorem gives_mount_moving (s : State) (q : BitVec 20) (tag : BitVec 12) (c : Cmd)
    (hrun : s.runnable q.toNat tag.toNat opMount = some c) (hl : c.local = true) (hm : s.discMoving (aaddrDisc c.aaddr) = true) :
    s.gives (.mount q tag) fun t => ∃ u : State, t = u.settle ∧ u.ended c.sq c.tag stBusyMoving 0 0 0 ∧ u.lib = s.lib := by
  have hexec : exec (.mount q tag) s = .next (s.fail c.sq c.tag stBusyMoving).settle := by
    rw [exec, execMount]
    simp only [hrun, State.discBlocked_of_moving hm]
  exact State.gives_of_exec hexec ⟨_, rfl, State.runnable_ends hrun hl ..⟩

/-! ### UNMOUNT (R664) -/

theorem gives_unmount_home (s : State) (q : BitVec 20) (tag : BitVec 12) (c : Cmd)
    (hrun : s.runnable q.toNat tag.toNat opUnmount = some c) (hl : c.local = true) (hfree : s.discBlocked (aaddrDisc c.aaddr) = none)
    (hloc : (s.disc (aaddrDisc c.aaddr)).loc = .home) :
    s.gives (.unmount q tag) fun t => ∃ u : State, t = u.settle ∧ u.ended c.sq c.tag stDiscNotMounted 0 0 0 ∧ u.lib = s.lib := by
  have hexec : exec (.unmount q tag) s = .next (s.fail c.sq c.tag stDiscNotMounted).settle := by
    rw [exec, execUnmount]
    simp only [hrun, hfree, hloc]
  exact State.gives_of_exec hexec ⟨_, rfl, State.runnable_ends hrun hl ..⟩

/-- A command in its first stage at a disc's station. -/
def Cmd.atStation (n d : Nat) (c : Cmd) : Cmd := { c with stn := some n, disc := some d, stage := 0 }

def State.unmountWakes_mask : Nat := State.wantSlice_mask ||| State.wake_mask

/-- UNMOUNT of a disc in a station is under way there; what it wakes leaves the commands alone. -/
theorem exec_unmount_station {s : State} {q : BitVec 20} {tag : BitVec 12} {c : Cmd} {n : Nat}
    (hrun : s.runnable q.toNat tag.toNat opUnmount = some c) (hfree : s.discBlocked (aaddrDisc c.aaddr) = none)
    (hloc : (s.disc (aaddrDisc c.aaddr)).loc = .station n) : ∃ u : State,
    Keeps State.unmountWakes_mask
      (((s.start c).resumeZones c.flushes).updCmd c.sq c.tag (Cmd.atStation n (aaddrDisc c.aaddr))) u ∧
      exec (.unmount q tag) s = .next u.settle := by
  rw [exec, execUnmount]
  simp only [hrun, hfree, hloc]
  refine ⟨_, ?_, rfl⟩
  have hwakes (l : List Nat) (t : State) : Keeps State.unmountWakes_mask t (l.foldl (fun t h => (t.wantSlice h true).wake (h / 2)) t) :=
    Keeps.foldl (fun _ _ => Keeps.step (State.wake_keeps ..) (Keeps.mono (State.wantSlice_keeps ..))) (Keeps.refl _ _)
  exact Keeps.ite (Keeps.step (State.wake_keeps ..) (hwakes ..)) (hwakes ..)

theorem gives_unmount_station (s : State) (q : BitVec 20) (tag : BitVec 12) (c : Cmd) (n : Nat)
    (hrun : s.runnable q.toNat tag.toNat opUnmount = some c) (hfree : s.discBlocked (aaddrDisc c.aaddr) = none)
    (hloc : (s.disc (aaddrDisc c.aaddr)).loc = .station n) :
    s.gives (.unmount q tag) fun t => ∃ u : State, t = u.settle ∧ u.underWay c.sq c.tag ∧
      (u.cmd? c.sq c.tag).map (fun x => x.stn) = some (some n) := by
  obtain ⟨hc, -⟩ := State.runnable_spec hrun
  obtain ⟨u, hu, hexec⟩ := exec_unmount_station hrun hfree hloc
  have hcmd : u.cmd? c.sq c.tag = ((s.start c).cmd? c.sq c.tag).map (Cmd.atStation n (aaddrDisc c.aaddr)) :=
    (State.cmd?_congr (hu.part .cmds (by decide +kernel)) ..).trans (State.cmd?_updCmd _ _ _ fun _ => ⟨rfl, rfl⟩)
  have hstart : (s.start c).cmd? c.sq c.tag = some { c with phase := .started } :=
    (s.cmd?_updCmd c.sq c.tag (f := fun x => { x with phase := .started }) fun _ => ⟨rfl, rfl⟩).trans (by rw [hc]; rfl)
  refine State.gives_of_exec hexec ⟨u, rfl, ?_⟩
  rw [State.underWay, hcmd, hstart]
  exact ⟨rfl, rfl⟩

/-! ### MOVE (R665) -/

theorem gives_move_homeOf (s : State) (q : BitVec 20) (tag : BitVec 12) (c : Cmd)
    (hrun : s.runnable q.toNat tag.toNat opMove = some c) (hl : c.local = true) (hfree : s.discBlocked (aaddrDisc c.aaddr) = none)
    (hloc : (s.disc (aaddrDisc c.aaddr)).loc = .home) (hhome : s.homeOf (aaddrDisc c.aaddr / 4096) (c.get 24 2) = true) :
    s.gives (.move q tag) fun t => ∃ u : State, t = u.settle ∧ u.ended c.sq c.tag stInvalidField 0 0 24 ∧ u.lib = s.lib := by
  have hexec : exec (.move q tag) s = .next (s.finish c.sq c.tag stInvalidField 0 0 24).settle := by
    rw [exec, execMove]
    simp only [hrun, hfree]
    exact (if_neg (not_not_intro hloc)).trans (if_pos hhome)
  exact State.gives_of_exec hexec ⟨_, rfl, State.runnable_ends hrun hl ..⟩

theorem gives_move_asks (s : State) (q : BitVec 20) (tag : BitVec 12) (c : Cmd)
    (hrun : s.runnable q.toNat tag.toNat opMove = some c) (hfree : s.discBlocked (aaddrDisc c.aaddr) = none)
    (hloc : (s.disc (aaddrDisc c.aaddr)).loc = .home) (hhome : s.homeOf (aaddrDisc c.aaddr / 4096) (c.get 24 2) = false) :
    s.gives (.move q tag) fun t => ∃ u : State, t = u.settle ∧ u.underWay c.sq c.tag ∧
      u.lib.transfers.map (fun x => (x.cmd, x.disc, x.dst, x.kind)) = s.lib.transfers.map (fun x => (x.cmd, x.disc, x.dst, x.kind)) ++
        [(some (c.sq, c.tag), aaddrDisc c.aaddr, locSlot (c.get 24 2), 2)] := by
  have hexec : exec (.move q tag) s =
      .next ((s.start c).askTransfer (c.transferTo (locSlot (c.get 24 2)) (aaddrDisc c.aaddr / 4096) 2)).settle := by
    rw [exec, execMove]
    simp only [hrun, hfree]
    exact (if_neg (not_not_intro hloc)).trans (if_neg (by simp [hhome]))
  exact State.gives_of_exec hexec ⟨_, rfl, State.start_askTransfer hrun _ _ fun _ _ _ => rfl⟩

/-! ### INVENTORY (R665) -/

/-- The first action of a command begins, and it is still under way. -/
theorem State.firstAction_underWay {s : State} {sq tag : Nat} (hs : s.underWay sq tag) :
    (s.firstAction (some (sq, tag))).underWay sq tag := by
  unfold State.firstAction
  dsimp -zeta only
  split
  · exact hs
  · next l late _ =>
    extract_lets d s1
    have h1 : s1.underWay sq tag := by
      have hupd := s.cmd?_updCmd sq tag (f := fun x => { x with launchT := none }) fun _ => ⟨rfl, rfl⟩
      rw [State.underWay, hupd, Option.map_map]
      exact hs
    split
    · exact State.underWay_congr ((State.raise_keeps ..).part .cmds (by decide +kernel)) h1
    · exact h1

/-- The scan covers the slots asked for, or all behind the first where no count is given. -/
theorem gives_inventory_scan {s : State} {q : BitVec 20} {tag : BitVec 12} {c : Cmd}
    (hrun : s.runnable q.toNat tag.toNat opInventory = some c) (hinv : s.lib.inv = none) :
    s.gives (.inventory q tag) fun t => t.underWay c.sq c.tag ∧ t.lib.inv = some (c.get 16 2,
      if c.get 18 2 = 0 then s.slotsOf (c.get 20 1) - c.get 16 2 else c.get 18 2, some (c.sq, c.tag)) := by
  obtain ⟨hc, -⟩ := State.runnable_spec hrun
  rw [State.gives, exec, execInventory]
  simp only [hrun, hinv]
  exact ⟨_, rfl, State.firstAction_underWay (State.start_underWay hc), rfl⟩

theorem gives_inventory_count (s : State) (q : BitVec 20) (tag : BitVec 12) (c : Cmd)
    (hrun : s.runnable q.toNat tag.toNat opInventory = some c) (hinv : s.lib.inv = none) (hn : c.get 18 2 ≠ 0) :
    s.gives (.inventory q tag) fun t => t.underWay c.sq c.tag ∧ t.lib.inv = some (c.get 16 2, c.get 18 2, some (c.sq, c.tag)) := by
  have hgives := gives_inventory_scan hrun hinv
  rwa [if_neg hn] at hgives

theorem gives_inventory_all (s : State) (q : BitVec 20) (tag : BitVec 12) (c : Cmd)
    (hrun : s.runnable q.toNat tag.toNat opInventory = some c) (hinv : s.lib.inv = none) (hn : c.get 18 2 = 0) :
    s.gives (.inventory q tag) fun t => t.underWay c.sq c.tag ∧
      t.lib.inv = some (c.get 16 2, s.slotsOf (c.get 20 1) - c.get 16 2, some (c.sq, c.tag)) := by
  have hgives := gives_inventory_scan hrun hinv
  rwa [if_pos hn] at hgives

/-! ### The end of a mount (R417 to R419, R808) -/

theorem Keeps.disc {m : Nat} {s t : State} (k : Keeps m s t) (d : Nat) (hm : m.testBit (Part.bit .discs) = false := by decide +kernel) :
    t.disc d = s.disc d := by
  have hdiscs : t.discs = s.discs := k.part .discs hm
  rw [State.disc, State.disc, hdiscs]

theorem Disc.setSide_discId (x : Disc) (i : Nat) (sd : DiscSide) : (x.setSide i sd).discId = x.discId := by
  unfold Disc.setSide
  split <;> rfl

/-- What the records of a side say leaves the DISC_ID. -/
theorem State.takeSide_discId (s : State) (d i id : Nat) (m : MgmtArea) (rebuilt : List (Nat × List SlotRead)) :
    ((s.takeSide d i id m rebuilt).disc d).discId = (s.disc d).discId := by
  have hput (sd : DiscSide) : ((s.putDisc d ((s.disc d).setSide i sd)).disc d).discId = (s.disc d).discId := by
    rw [State.putDisc_disc, Disc.setSide_discId]
  unfold State.takeSide
  extract_lets recs x sd
  split
  · exact hput _
  · next f _ =>
    extract_lets in_ final sd1 s1
    split
    · exact hput _
    · refine (congrArg Disc.discId ?_).trans (hput sd1)
      exact Keeps.disc (Keeps.foldl (fun _ _ => State.takeZone_keeps ..) (Keeps.refl State.takeZone_mask s1)) d

theorem State.rebind_discId (s : State) (d id : Nat) : ((s.rebind d id).disc d).discId = id := by
  unfold State.rebind
  extract_lets x s1 s2
  rw [(State.raise_keeps ..).disc d, (State.journal_keeps ..).disc d, State.putDisc_disc]

/-- The disc is bound to the DISC_ID that was read, where it is not the one the catalogue knows. -/
def State.bound (s : State) (cell d id : Nat) (other : Bool) : State :=
  if !other then s else if d / 4096 = cell then s.rebind d id else s.putDisc d { s.disc d with discId := id }

theorem State.bound_discId (s : State) (cell d id : Nat) (other : Bool) (hsame : other = false → (s.disc d).discId = id) :
    ((s.bound cell d id other).disc d).discId = id := by
  unfold State.bound
  split
  · next ho => exact hsame (by simpa using ho)
  · split
    · exact s.rebind_discId d id
    · rw [State.putDisc_disc]

theorem State.mountHeads_both {s : State} {n : Nat} (h0 : s.flag Reg.STN_HD_CTRL_EN (2 * n) = true)
    (h1 : s.flag Reg.STN_HD_CTRL_EN (2 * n + 1) = true) : s.mountHeads n = [2 * n, 2 * n + 1] := by
  simp [State.mountHeads, h0, h1]

/-- What a mount with both heads has read: the disc's record is that of the DISC_ID read. -/
theorem exec_mountComplete {s : State} {n : Fin 128} {a b : MgmtSide} {x y : List (Nat × List SlotRead)} {d : Nat}
    (hmount : s.mounting n = true) (hspeed : s.flag Reg.STN_SP_STATUS_AT_SPEED n = true)
    (hen0 : s.flag Reg.STN_HD_CTRL_EN (2 * n) = true) (hen1 : s.flag Reg.STN_HD_CTRL_EN (2 * n + 1) = true)
    (hready0 : s.hd (2 * n) = hdReady) (hready1 : s.hd (2 * n + 1) = hdReady) (hdisc : s.discIn n = some d) :
    ∃ u : State, (u.disc d).discId = discIdRead (mgmtArea 0 a) (mgmtArea 1 b) ∧
      exec (.mountComplete n a b x y) s = .next (((u.putDisc d { u.disc d with mounted := true }).endMount d n).settle) := by
  rw [exec]
  unfold execMountComplete
  rw [State.mountHeads_both hen0 hen1]
  extract_lets hs blank here ma mb id s0
  rw [if_neg (by simp [hs, hmount, hspeed, hready0, hready1]), hdisc]
  dsimp -zeta only
  extract_lets other clean known s1 s2 s3 due s4
  have h0 : here 0 = true := by simp [here, hs]
  have h1 : here 1 = true := by simp [here, hs]
  have hid : id = discIdRead (mgmtArea 0 a) (mgmtArea 1 b) := congrArg₂ discIdRead (if_pos h0) (if_pos h1)
  have hsame : other = false → (s0.disc d).discId = id := by
    have hheads : Keeps State.mountHead_mask s s0 := Keeps.foldl (fun _ _ => State.mountHead_keeps ..) (Keeps.refl _ s)
    rw [hheads.disc d]
    intro ho
    simpa [other, hs] using ho
  clear_value s0 other id
  have hbound : (s1.disc d).discId = id := s0.bound_discId s.cell d id other hsame
  have h2 : (s2.disc d).discId = id := by
    rw [show s2 = s1.takeSide d 0 id ma x from if_pos h0, State.takeSide_discId, hbound]
  have h3 : (s3.disc d).discId = id := by
    rw [show s3 = s2.takeSide d 1 id mb y from if_pos h1, State.takeSide_discId, h2]
  have h4 : s4.disc d = s3.disc d := by
    simp only [s4]
    split <;> rfl
  exact ⟨s4, by rw [h4, h3, hid], rfl⟩

theorem gives_mountComplete (s : State) (n : Fin 128) (a b : MgmtSide) (x y : List (Nat × List SlotRead)) (d : Nat)
    (hmount : s.mounting n = true) (hspeed : s.flag Reg.STN_SP_STATUS_AT_SPEED n = true)
    (hen0 : s.flag Reg.STN_HD_CTRL_EN (2 * n) = true) (hen1 : s.flag Reg.STN_HD_CTRL_EN (2 * n + 1) = true)
    (hready0 : s.hd (2 * n) = hdReady) (hready1 : s.hd (2 * n + 1) = hdReady) (hdisc : s.discIn n = some d) :
    s.gives (.mountComplete n a b x y) fun t => ∃ u : State, t = u.settle ∧ (u.disc d).mounted = true ∧
      (u.disc d).discId = discIdRead (mgmtArea 0 a) (mgmtArea 1 b) := by
  obtain ⟨u, hid, hexec⟩ := exec_mountComplete hmount hspeed hen0 hen1 hready0 hready1 hdisc
  refine State.gives_of_exec hexec ⟨_, rfl, ?_⟩
  rw [(State.endMount_keeps ..).disc d, State.putDisc_disc]
  exact ⟨rfl, hid⟩

/-- Settles O56, clause by clause: the place of the disc decides what the command asks for or how it ends. -/
theorem mountUnmountMoveAndInventory : Obligations.MountUnmountMoveAndInventory :=
  ⟨gives_mount_mounted, gives_mount_asks, gives_mount_moving, gives_unmount_home, gives_unmount_station, gives_move_homeOf,
    gives_move_asks, gives_inventory_count, gives_inventory_all, gives_mountComplete⟩

end Sys2Proof.Machine
end

section
/-!
PROOF. What the operations of a spindle sequencer do to the spindle's record and its state: the rules that the proofs about spindles
(O38, O39) are made of.
-/

set_option Elab.async false

namespace Sys2Proof.Machine

/-! ### The record and the state of a spindle (R450) -/

theorem Keeps.spin {m : Nat} {s t : State} (k : Keeps m s t) (n : Nat) (hm : m.testBit (Part.bit .spins) = false := by decide +kernel) :
    t.spin n = s.spin n := by rw [State.spin, State.spin, k.part .spins hm]

theorem Keeps.spState {m : Nat} {s t : State} (k : Keeps m s t) (n : Nat)
    (hm : m.testBit (Reg.STN_SP_STATUS_STATE.id % 8192) = false := by decide +kernel) : t.spState n = s.spState n := k.rd _ n hm

@[simp] theorem State.putSpin_spState (s : State) (n : Nat) (x : Spin) (k : Nat) : (s.putSpin n x).spState k = s.spState k := rfl

@[simp] theorem State.advanceTo_spState (s : State) (k n : Nat) : (s.advanceTo k).spState n = s.spState n := s.advanceTo_rd k _ n

/-- A spindle's record as a state is entered: what the state before it counted is gone, and the configuration comes into force. -/
def Spin.enter (x : Spin) (now : Nat) (cfg : List (Nat × Nat)) : Spin :=
  { x with stateAt := now, resLow := 0, resHigh := 0, handRuns := 0, retryAt := none, catchBad := false, cfg := cfg }

theorem State.setSp_spin (s : State) (n st : Nat) : ∃ cfg, (s.setSp n st).spin n = (s.spin n).enter s.now cfg := by
  unfold State.setSp
  extract_lets x s1 forced s2
  have h2 : s2.spin n = (s.spin n).enter s.now (s.spin n).cfg := by
    simp only [s2]
    split <;> exact State.putSpin_spin ..
  refine ⟨((s2.spCapture n spStateFields).spin n).cfg, ?_⟩
  rw [State.spCapture, State.putSpin_spin, h2]
  rfl

theorem State.setSp_spState (s : State) (n : Nat) {st : Nat} (hst : st < 16 := by decide) : (s.setSp n st).spState n = st := by
  unfold State.setSp
  extract_lets x s1 forced s2
  have h2 : s2.spState n = s1.spState n := by
    simp only [s2]
    split <;> rfl
  exact h2.trans ((State.rd_wr_same ..).trans (Nat.mod_eq_of_lt hst))

/-! ### Starts and faults (R439, R450, R452, R453) -/

theorem State.faultSpindle_spec (s : State) (n : Nat) {cause : Nat} (hc : cause < 16 := by decide) :
    (s.faultSpindle n cause).spState n = spFault ∧ (s.faultSpindle n cause).rd Reg.STN_SP_STATUS_FAULT_CAUSE n = cause := by
  unfold State.faultSpindle
  extract_lets s1 s2
  have hend : Keeps (State.spPrm_mask ||| State.raise_mask) (s2.setSp n spFault)
      (((s2.setSp n spFault).spPrm n 1 0).raise 0x060B [n, cause]) := Keeps.step (State.raise_keeps ..) (Keeps.mono (State.spPrm_keeps ..))
  have hs2 : s2.rd Reg.STN_SP_STATUS_FAULT_CAUSE n = s1.rd Reg.STN_SP_STATUS_FAULT_CAUSE n :=
    (State.rd_clr_ne _ _ _ _ _ (by decide)).trans (State.rd_clr_ne _ _ _ _ _ (by decide))
  refine ⟨(hend.spState n).trans (State.setSp_spState ..), ?_⟩
  rw [hend.rd _ _ (by decide +kernel), (State.setSp_keeps ..).rd _ _ (by decide +kernel), hs2]
  exact (State.rd_wr_same ..).trans (Nat.mod_eq_of_lt hc)

theorem State.senseSpindle_spec (s : State) (n : Nat) :
    (s.senseSpindle n).spState n = spSense ∧ ((s.senseSpindle n).spin n).retryAt = none := by
  unfold State.senseSpindle
  extract_lets s1 s2
  obtain ⟨cfg, hspin⟩ := s1.setSp_spin n spSense
  rw [State.putSpin_spin, State.putSpin_spState]
  exact ⟨State.setSp_spState .., congrArg Spin.retryAt hspin⟩

/-- A start leads to SENSE where the configuration is right, and else to FAULT. -/
theorem State.startSpindle_spState (s : State) (n : Nat) :
    (s.startSpindle n).spState n = if s.spConfigOk n = true then spSense else spFault := by
  unfold State.startSpindle
  cases s.spConfigOk n with
  | true => exact (State.senseSpindle_spec ..).1
  | false => exact (s.faultSpindle_spec n).1

/-- The register fields that R438 and R439 set conditions for. -/
def spConfigFields : List Fld := [Reg.STN_SP_SLOTS_FOC_SLOT, Reg.STN_SP_SLOTS_SPD_SLOT, Reg.DESC_CTRL_EN, Reg.DESC_CTRL_TYPE,
  Reg.DESC_CTRL_RATE, Reg.DESC_CTRL_INT_MODE, Reg.DESC_CTRL_BANK, Reg.DESC_IO_OUT_DEST, Reg.DESC_SRC01_SRC0, Reg.DESC_SRC01_SRC1,
  Reg.LPE_BANK_WORD]

/-- The configuration of a spindle is as right after an operation that leaves its fields alone. -/
theorem Keeps.spConfigOk {m : Nat} {s t : State} (k : Keeps m s t) (n : Nat)
    (hm : ∀ f ∈ spConfigFields, m.testBit (f.id % 8192) = false := by decide +kernel) : t.spConfigOk n = s.spConfigOk n := by
  have hrd : ∀ f ∈ spConfigFields, ∀ i, t.rd f i = s.rd f i := fun f hf i => k.rd f i (hm f hf)
  simp only [spConfigFields, List.forall_mem_cons] at hrd
  obtain ⟨hfoc, hspd, hen, htype, hrate, hint, hbank, hdest, hsrc0, hsrc1, hword, -⟩ := hrd
  simp only [State.spConfigOk, State.slotOn, State.flag, State.isFoc, State.coef, State.bankAt, State.rdS, hfoc, hspd, hen, htype, hrate,
    hint, hbank, hdest, hsrc0, hsrc1, hword]

/-! ### Catches, braking and RUN (R458, R459, R470 to R473) -/

theorem State.catchSpindle_spState (s : State) (n : Nat) (m : Meas) (afterLoss : Bool) :
    (s.catchSpindle n m afterLoss).spState n = spCatch :=
  (State.putSpin_spState ..).trans (State.setSp_spState ..)

theorem State.brakeSpindle_spec (s : State) (n : Nat) (tracks : Bool) (why : Nat) :
    (s.brakeSpindle n tracks why).spState n = spBrake ∧ ((s.brakeSpindle n tracks why).spin n).stopCause = why ∧
      ((s.brakeSpindle n tracks why).spin n).tracked = tracks := by
  rw [State.brakeSpindle, State.putSpin_spin, State.putSpin_spState]
  exact ⟨State.setSp_spState .., rfl, rfl⟩

theorem State.shortOn_short (s : State) (n : Nat) : (s.shortOn n).flag Reg.STN_SP_STATUS_SHORT n = true := by
  have hrest : Keeps (State.raise_mask ||| State.bridge_mask ||| State.putSpin_mask) (s.set1 Reg.STN_SP_STATUS_SHORT n) (s.shortOn n) :=
    Keeps.step (State.putSpin_keeps ..) (Keeps.step (State.raise_keeps ..) (Keeps.mono (State.bridge_keeps ..)))
  exact (hrest.flag _ _ (by decide +kernel)).trans (State.flag_set1 _ _ (by decide))

theorem State.closeSpeed_spec (s : State) (n : Nat) : (s.closeSpeed n).spState n = spRun ∧
    ((s.closeSpeed n).spin n).commAt = s.now ∧ ((s.closeSpeed n).spin n).bandFrom = none := by
  rw [State.closeSpeed, State.putSpin_spin, State.putSpin_spState]
  exact ⟨State.setSp_spState .., (State.closeSpeed_keeps s n).now, rfl⟩

/-- Phase lock that held ends with its event. -/
theorem State.dropPhase_unlocks {s : State} {n : Nat} (hlock : s.flag Reg.STN_SP_STATUS_PHASE_LOCKED n = true) :
    (s.dropPhase n).flag Reg.STN_SP_STATUS_PHASE_LOCKED n = false ∧ (s.dropPhase n).lastEvent 0x060A [n, 0] := by
  rw [State.dropPhase, if_pos hlock]
  exact ⟨((State.raise_keeps ..).flag _ _ (by decide +kernel)).trans (State.flag_clr ..), State.raise_lastEvent ..⟩

/-! ### Failed attempts (R460, R461) -/

/-- An attempt before the third counts, and is to be repeated 200 ms later. -/
theorem State.attemptFail_again {s : State} {n : Nat} (ha : s.rd Reg.STN_SP_STATUS_ATTEMPT n < 3) (cause : Nat) :
    (s.attemptFail n cause).rd Reg.STN_SP_STATUS_ATTEMPT n = s.rd Reg.STN_SP_STATUS_ATTEMPT n + 1 ∧
      ((s.attemptFail n cause).spin n).retryAt = some ((s.attemptFail n cause).now + 200 * msCycles) := by
  rw [(s.attemptFail_keeps n cause).now]
  unfold State.attemptFail
  extract_lets a s0 s1 s2
  rw [if_neg ha.ne, State.putSpin_spin]
  refine ⟨?_, rfl⟩
  exact (State.rd_bump_ne _ _ _ _ _ _ (by decide)).trans ((State.rd_wr_same ..).trans (Nat.mod_eq_of_lt (Nat.succ_lt_succ ha)))

/-- The third attempt that fails leads to FAULT with cause START. -/
theorem State.attemptFail_last {s : State} {n : Nat} (ha : s.rd Reg.STN_SP_STATUS_ATTEMPT n = 3) (cause : Nat) :
    (s.attemptFail n cause).spState n = spFault ∧ (s.attemptFail n cause).rd Reg.STN_SP_STATUS_FAULT_CAUSE n = 1 := by
  unfold State.attemptFail
  extract_lets a s0 s1 s2
  rw [if_pos ha, (State.headsGiveUp_keeps ..).spState n, (State.headsGiveUp_keeps ..).rd _ _ (by decide +kernel)]
  exact State.faultSpindle_spec ..

/-! ### Measurements (R453) -/

theorem State.measure_advanceTo (s : State) (k n runs : Nat) : (s.advanceTo k).measure n runs = s.measure n runs := rfl

end Sys2Proof.Machine
end

section
/-!
PROOF. A spindle starts (O38): its target, SENSE and the measurement, ALIGN, RAMP and CATCH up to RUN, and the attempts that fail.
-/

set_option Elab.async false

namespace Sys2Proof.Machine

/-! ### The target (R443, R452, R476) -/

/-- The target of a spindle and its set point are shown. -/
def State.shownTarget (s : State) (n rpm : Nat) : State :=
  (s.wr Reg.STN_SP_TARGET_RPM n rpm).wr Reg.STN_SP_SPEED_SP_RPM n ((s.wr Reg.STN_SP_TARGET_RPM n rpm).setPoint n)

def State.shownTarget_mask : Nat := fieldBits [Reg.STN_SP_TARGET_RPM, Reg.STN_SP_SPEED_SP_RPM]

theorem State.shownTarget_keeps (s : State) (n rpm : Nat) : Keeps State.shownTarget_mask s (s.shownTarget n rpm) :=
  Keeps.wr (Keeps.wr (Keeps.refl _ _))

theorem State.shownTarget_target (s : State) (n : Nat) {rpm : Nat} (hr : rpm < 2 ^ 14) :
    (s.shownTarget n rpm).rd Reg.STN_SP_TARGET_RPM n = rpm :=
  (State.rd_wr_ne _ _ _ _ _ _ (by decide)).trans ((State.rd_wr_same ..).trans (Nat.mod_eq_of_lt hr))

theorem gives_spindleTargetWrite_starts (s : State) (n : Fin 128) (r : BitVec 14) (hmode : s.mode ≠ mCinder)
    (hst : s.spState n = spStopped) (hr : r ≠ 0) :
    s.gives (.spindleTargetWrite n r) fun t => t.rd Reg.STN_SP_TARGET_RPM n = r.toNat ∧
      t.spState n = if s.spConfigOk n = true then spSense else spFault := by
  let u := s.shownTarget n r.toNat
  have hu : Keeps State.shownTarget_mask s u := s.shownTarget_keeps n r.toNat
  have hne : r.toNat ≠ 0 := fun h => hr (BitVec.eq_of_toNat_eq h)
  have hexec : exec (.spindleTargetWrite n r) s = .next (u.startSpindle n) :=
    congrArg Host.Outcome.next ((if_neg hmode).trans ((if_neg hne).trans (if_pos ((hu.spState n).trans hst))))
  refine State.gives_of_exec hexec ⟨?_, ?_⟩
  · rw [(State.startSpindle_keeps ..).rd _ _ (by decide +kernel)]
    exact s.shownTarget_target n r.isLt
  · rw [State.startSpindle_spState, hu.spConfigOk]

theorem gives_spindleTargetWrite_brakes (s : State) (n : Fin 128) (hmode : s.mode ≠ mCinder) (hst : s.spState n = spRun)
    (hretry : (s.spin n).retryAt = none) :
    s.gives (.spindleTargetWrite n 0) fun t => t.rd Reg.STN_SP_TARGET_RPM n = 0 ∧ t.spState n = spBrake ∧ (t.spin n).stopCause = 0 := by
  let u := s.shownTarget n 0
  have hu : Keeps State.shownTarget_mask s u := s.shownTarget_keeps n 0
  have hust : u.spState n = spRun := (hu.spState n).trans hst
  have hrun : ¬(u.spState n = spOff ∨ u.spState n = spStopped ∨ u.spState n = spFault ∨ u.spState n = spBrake ∨
      u.spState n = spHold) := by
    rw [hust]
    decide
  have hbrake : u.stopSpindle n 0 = u.brakeSpindle n true 0 :=
    (if_neg (by simp [hu.spin, hretry])).trans (if_pos (.inl hust))
  have hexec : exec (.spindleTargetWrite n 0) s = .next (u.brakeSpindle n true 0) :=
    congrArg Host.Outcome.next ((if_neg hmode).trans ((if_pos rfl).trans ((if_neg hrun).trans hbrake)))
  obtain ⟨hbst, hcause, -⟩ := u.brakeSpindle_spec n true 0
  refine State.gives_of_exec hexec ⟨?_, hbst, hcause⟩
  rw [(State.brakeSpindle_keeps ..).rd _ _ (by decide +kernel)]
  exact s.shownTarget_target n (by decide)

/-! ### SENSE, WAIT_SLOW and reverse braking (R453 to R456) -/

/-- A spindle's record with what SENSE has measured. -/
def Spin.measured (x : Spin) (m : Option Meas) : Spin := { x with meas := m }

/-- What SENSE has measured is shown. -/
def State.shownMeasure (s : State) (n : Nat) (m : Meas) : State :=
  ((s.wrB Reg.STN_SP_STATUS_REVERSE n (decide (m.rpm < 0))).putSpin n
    (((s.wrB Reg.STN_SP_STATUS_REVERSE n (decide (m.rpm < 0))).spin n).measured (some m))).wrS Reg.STN_SP_SPEED_RPM n m.rpm

/-- Where SENSE leads a spindle, by what it has measured. -/
def State.afterSense (s : State) (n : Nat) : Option Meas → State
  | some m =>
    if 300 < m.rpm then (s.shownMeasure n m).catchSpindle n m false
    else if m.rpm < -100 then
      ((((s.shownMeasure n m).seedObserver n m).brakeSpindle n true 0).setSp n spRevBrake).raise 0x0603 (n :: i1 m.rpm)
    else (s.shownMeasure n m).setSp n spWaitSlow
  | none => (s.putSpin n ((s.spin n).measured none)).setSp n spWaitSlow

theorem State.afterSense_spState (s : State) (n : Nat) (o : Option Meas) : (s.afterSense n o).spState n =
    o.elim spWaitSlow fun m => if 300 < m.rpm then spCatch else if m.rpm < -100 then spRevBrake else spWaitSlow := by
  cases o with
  | none => exact State.setSp_spState ..
  | some m =>
    simp only [State.afterSense, Option.elim_some]
    split
    · exact State.catchSpindle_spState ..
    · split
      · exact ((State.raise_keeps ..).spState n).trans (State.setSp_spState ..)
      · exact State.setSp_spState ..

def State.afterSense_mask : Nat := State.putSpin_mask ||| State.catchSpindle_mask ||| State.brakeSpindle_mask |||
  State.seedObserver_mask ||| State.raise_mask ||| State.setSp_mask ||| fieldBits [Reg.STN_SP_STATUS_REVERSE, Reg.STN_SP_SPEED_RPM]

theorem State.afterSense_keeps (s : State) (n : Nat) (o : Option Meas) : Keeps State.afterSense_mask s (s.afterSense n o) := by
  cases o with
  | none => exact Keeps.step (State.setSp_keeps ..) (Keeps.mono (State.putSpin_keeps ..))
  | some m =>
    have hshown : Keeps State.afterSense_mask s (s.shownMeasure n m) :=
      Keeps.wrS (Keeps.step (State.putSpin_keeps ..) (Keeps.wrB (Keeps.refl _ _)))
    refine Keeps.ite (Keeps.step (State.catchSpindle_keeps ..) hshown) (Keeps.ite ?_ (Keeps.step (State.setSp_keeps ..) hshown))
    exact Keeps.step (State.raise_keeps ..) (Keeps.step (State.setSp_keeps ..) (Keeps.step (State.brakeSpindle_keeps ..)
      (Keeps.step (State.seedObserver_keeps ..) hshown)))

theorem exec_spindleSenseEnd {s : State} {n : Fin 128} (hmode : s.mode ≠ mCinder) (hst : s.spState n = spSense) :
    exec (.spindleSenseEnd n) s = .next ((s.advanceTo ((s.spin n).stateAt + 20 * msCycles)).afterSense n (s.measure n 750)) := by
  rw [exec]
  unfold execSpindleSenseEnd
  extract_lets s1
  rw [if_neg hmode, if_neg (not_not.2 hst), show s1.measure n 750 = s.measure n 750 from State.measure_advanceTo ..]
  cases s.measure n 750 with
  | none => rfl
  | some m =>
    simp only [State.afterSense]
    split
    · rfl
    · split <;> rfl

theorem gives_spindleSenseEnd (s : State) (n : Fin 128) (hmode : s.mode ≠ mCinder) (hst : s.spState n = spSense) :
    s.gives (.spindleSenseEnd n) fun t => (s.spin n).stateAt + 20 * msCycles ≤ t.now ∧ t.spState n =
      (s.measure n 750).elim spWaitSlow (fun m => if 300 < m.rpm then spCatch else if m.rpm < -100 then spRevBrake else spWaitSlow) := by
  refine State.gives_of_exec (exec_spindleSenseEnd hmode hst) ⟨?_, State.afterSense_spState ..⟩
  rw [(State.afterSense_keeps ..).now]
  exact State.le_advanceTo_now ..

/-- A spindle's record with ALIGN allowed to follow. -/
def Spin.ready (x : Spin) : Spin := { x with alignReady := true }

theorem gives_spindleWaitSlowEnd (s : State) (n : Fin 128) (hmode : s.mode ≠ mCinder) (hst : s.spState n = spWaitSlow) :
    s.gives (.spindleWaitSlowEnd n) fun t => (t.spin n).alignReady = true ∧ t.spState n = spWaitSlow ∧
      ((s.spin n).lowFrom = none → (s.spin n).stateAt + hz ≤ t.now) := by
  let full := (s.spin n).stateAt + hz
  let due := match (s.spin n).lowFrom with
    | some t => min full (max (s.spin n).stateAt t + 100 * msCycles)
    | none => full
  let s1 := s.advanceTo due
  have hexec : exec (.spindleWaitSlowEnd n) s = .next (s1.putSpin n (s1.spin n).ready) := (if_neg hmode).trans (if_neg (not_not.2 hst))
  refine State.gives_of_exec hexec ⟨?_, (s.advanceTo_spState due n).trans hst, fun hlow => ?_⟩
  · rw [State.putSpin_spin]
    rfl
  · have hdue : due = full := by simp only [due, hlow]
    exact (congrArg (· ≤ s1.now) hdue).mp (s.le_advanceTo_now due)

theorem gives_spindleRevBrakeEnd (s : State) (n : Fin 128) (hmode : s.mode ≠ mCinder) (hst : s.spState n = spRevBrake)
    (hslow : (rpmOf (s.obsSpeed n)).natAbs < 60) :
    s.gives (.spindleRevBrakeEnd n) fun t => (t.spin n).alignReady = true ∧ t.spState n = spRevBrake := by
  let s1 := s.gateSpeed n 0
  have hexec : exec (.spindleRevBrakeEnd n) s = .next (s1.putSpin n (s1.spin n).ready) := (if_neg hmode).trans (if_pos ⟨hst, hslow⟩)
  refine State.gives_of_exec hexec ⟨?_, ((s.gateSpeed_keeps n 0).spState n).trans hst⟩
  rw [State.putSpin_spin]
  rfl

/-! ### ALIGN, RAMP and RUN (R457 to R459) -/

def State.alignPrepared_mask : Nat := State.admitted_mask ||| State.bridge_mask ||| State.gateSpeed_mask ||| State.spPrm_mask |||
  partBits [.tb]

/-- A start from rest that the group's gap and the power cap allow. -/
theorem exec_spindleAlignStart {s : State} {n : Fin 128} (hmode : s.mode ≠ mCinder) (hready : (s.spin n).alignReady = true)
    (hgap : s.spinupGap n = true) (hcap : s.capAdmits (s.rd Reg.PWR_WEIGHT_STN_START_W 0) = true) :
    ∃ (u t : State) (x : Spin), Keeps State.alignPrepared_mask s u ∧ exec (.spindleAlignStart n) s = .next (t.putSpin n x) ∧
      t.spState n = (u.setSp n spAlign).spState n ∧ x.stateAt = ((u.setSp n spAlign).spin n).stateAt ∧ x.alignReady = false := by
  rw [exec]
  unfold execSpindleAlignStart
  extract_lets x w tb s1 s2 i s3 forced s4
  have h1 : Keeps State.alignPrepared_mask s s1 := by
    simp only [s1]
    split
    · exact Keeps.set_tb (Keeps.refl _ _)
    · exact Keeps.refl _ _
  have hu : Keeps State.alignPrepared_mask s (s2.spPrm n 1 0) := Keeps.step (State.spPrm_keeps ..) (Keeps.step (State.gateSpeed_keeps ..)
    (Keeps.step (State.bridge_keeps ..) (Keeps.step (State.admitted_keeps ..) h1)))
  rw [if_neg hmode, if_neg (by simp [x, w, hready, hgap, hcap])]
  exact ⟨s2.spPrm n 1 0, s4, _, hu, rfl, rfl, rfl, rfl⟩

theorem gives_spindleAlignStart (s : State) (n : Fin 128) (hmode : s.mode ≠ mCinder) (hready : (s.spin n).alignReady = true)
    (hgap : s.spinupGap n = true) (hcap : s.capAdmits (s.rd Reg.PWR_WEIGHT_STN_START_W 0) = true) :
    s.gives (.spindleAlignStart n) fun t => t.spState n = spAlign ∧ (t.spin n).alignReady = false ∧ (t.spin n).stateAt = s.now := by
  obtain ⟨u, t, x, hu, hexec, hst, hat, hx⟩ := exec_spindleAlignStart hmode hready hgap hcap
  obtain ⟨cfg, hspin⟩ := u.setSp_spin n spAlign
  refine State.gives_of_exec hexec ⟨hst.trans (State.setSp_spState ..), ?_, ?_⟩
  · rw [State.putSpin_spin, hx]
  · rw [State.putSpin_spin, hat, hspin]
    exact hu.now

def State.rampPrepared_mask : Nat := State.spPrm_mask ||| State.gateSpeed_mask ||| State.setSp_mask ||| State.putSpin_mask

theorem gives_spindleAlignEnd (s : State) (n : Fin 128) (hmode : s.mode ≠ mCinder) (hst : s.spState n = spAlign) :
    s.gives (.spindleAlignEnd n) fun t => t.spState n = spRamp ∧
      (s.spin n).stateAt + max 1 (s.spRd n Reg.STN_SP_START_CFG_ALIGN_MS) * msCycles ≤ t.now := by
  let s1 := s.advanceTo ((s.spin n).stateAt + max 1 (s.spRd n Reg.STN_SP_START_CFG_ALIGN_MS) * msCycles)
  let s2 := (s1.spPrm n 1 0).gateSpeed n (s.rdS Reg.STN_SP_I_RAMP_VALUE n)
  let s3 := s2.setSp n spRamp
  let u := s3.putSpin n { s3.spin n with thF := 0, spF := 0, topAt := none, commAt := s3.now }
  have hexec : exec (.spindleAlignEnd n) s = .next u := (if_neg hmode).trans (if_neg (not_not.2 hst))
  have hu : Keeps State.rampPrepared_mask s1 u := Keeps.step (State.putSpin_keeps ..) (Keeps.step (State.setSp_keeps ..)
    (Keeps.step (State.gateSpeed_keeps ..) (Keeps.mono (State.spPrm_keeps ..))))
  refine State.gives_of_exec hexec ⟨(s3.putSpin_spState ..).trans (s2.setSp_spState n), ?_⟩
  rw [hu.now]
  exact State.le_advanceTo_now ..

theorem gives_spindleHandover (s : State) (n : Fin 128) (hmode : s.mode ≠ mCinder) (hst : s.spState n = spRamp)
    (hruns : 64 ≤ (s.spin n).handRuns) (htop : (s.spin n).topAt ≠ none) :
    s.gives (.spindleHandover n) fun t => t.spState n = spRun ∧ (t.spin n).commAt = s.now ∧ (t.spin n).bandFrom = none := by
  have hexec : exec (.spindleHandover n) s = .next (s.closeSpeed n) :=
    (if_neg hmode).trans (if_pos ⟨hst, hruns, Option.isSome_iff_ne_none.2 htop⟩)
  exact State.gives_of_exec hexec (s.closeSpeed_spec n)

theorem gives_spindleCatchDone (s : State) (n : Fin 128) (hmode : s.mode ≠ mCinder) (hst : s.spState n = spCatch)
    (hruns : 64 ≤ (s.spin n).resLow) (hgood : (s.spin n).catchBad = false) :
    s.gives (.spindleCatchDone n) fun t => t.spState n = spRun ∧ t.lastEvent 0x0602 ([n.val] ++ i1 (rpmOf (s.obsSpeed n)) ++
      [if (s.spin n).lossCatch then 1 else 0]) := by
  have hexec : exec (.spindleCatchDone n) s = .next ((s.closeSpeed n).raise 0x0602 ([n.val] ++ i1 (rpmOf (s.obsSpeed n)) ++
      [if (s.spin n).lossCatch then 1 else 0])) := (if_neg hmode).trans (if_pos ⟨hst, hruns, by rw [hgood]; rfl⟩)
  obtain ⟨hrun, -, -⟩ := s.closeSpeed_spec n
  exact State.gives_of_exec hexec ⟨((State.raise_keeps ..).spState n).trans hrun, State.raise_lastEvent ..⟩

/-! ### Failed attempts (R460 to R462) -/

/-- No handover within 1 s of the top of the ramp. -/
theorem exec_spindleAttemptFail {s : State} {n : Fin 128} {x : Nat} (hmode : s.mode ≠ mCinder) (hst : s.spState n = spRamp)
    (hretry : (s.spin n).retryAt = none) (htop : (s.spin n).topAt = some x) :
    exec (.spindleAttemptFail n) s = .next ((s.advanceTo (x + hz)).attemptFail n 1) := by
  rw [exec]
  unfold execSpindleAttemptFail
  simp only [htop, hretry, Option.isSome_none, Bool.false_eq_true, if_false, if_neg hmode, if_pos hst]

theorem gives_spindleAttemptFail_again (s : State) (n : Fin 128) (x : Nat) (hmode : s.mode ≠ mCinder) (hst : s.spState n = spRamp)
    (hretry : (s.spin n).retryAt = none) (htop : (s.spin n).topAt = some x) (ha : s.rd Reg.STN_SP_STATUS_ATTEMPT n < 3) :
    s.gives (.spindleAttemptFail n) fun t => t.rd Reg.STN_SP_STATUS_ATTEMPT n = s.rd Reg.STN_SP_STATUS_ATTEMPT n + 1 ∧
      (t.spin n).retryAt = some (t.now + 200 * msCycles) ∧ x + hz ≤ t.now := by
  let s1 := s.advanceTo (x + hz)
  have ha1 : s1.rd Reg.STN_SP_STATUS_ATTEMPT n = s.rd Reg.STN_SP_STATUS_ATTEMPT n := s.advanceTo_rd _ _ _
  obtain ⟨hcount, hagain⟩ := State.attemptFail_again (s := s1) (ha1.trans_lt ha) 1
  refine State.gives_of_exec (exec_spindleAttemptFail hmode hst hretry htop) ⟨hcount.trans (congrArg (· + 1) ha1), hagain, ?_⟩
  rw [(State.attemptFail_keeps ..).now]
  exact State.le_advanceTo_now ..

theorem gives_spindleAttemptFail_last (s : State) (n : Fin 128) (x : Nat) (hmode : s.mode ≠ mCinder) (hst : s.spState n = spRamp)
    (hretry : (s.spin n).retryAt = none) (htop : (s.spin n).topAt = some x) (ha : s.rd Reg.STN_SP_STATUS_ATTEMPT n = 3) :
    s.gives (.spindleAttemptFail n) fun t => t.spState n = spFault ∧ t.rd Reg.STN_SP_STATUS_FAULT_CAUSE n = 1 :=
  State.gives_of_exec (exec_spindleAttemptFail hmode hst hretry htop) (State.attemptFail_last ((s.advanceTo_rd _ _ _).trans ha) 1)

theorem gives_spindleRetry (s : State) (n : Fin 128) (x : Nat) (hmode : s.mode ≠ mCinder) (hretry : (s.spin n).retryAt = some x) :
    s.gives (.spindleRetry n) fun t => t.spState n = spSense ∧ (t.spin n).retryAt = none ∧ x ≤ t.now := by
  have hexec : exec (.spindleRetry n) s = .next ((s.advanceTo x).senseSpindle n) := by
    rw [exec]
    unfold execSpindleRetry
    rw [if_neg hmode, hretry]
  obtain ⟨hst, hnone⟩ := (s.advanceTo x).senseSpindle_spec n
  refine State.gives_of_exec hexec ⟨hst, hnone, ?_⟩
  rw [(State.senseSpindle_keeps ..).now]
  exact State.le_advanceTo_now ..

/-- A rotor that is locked in RAMP is a failed attempt. -/
theorem gives_spindleLockedRotor_ramp (s : State) (n : Fin 128) (hmode : s.mode ≠ mCinder) (hst : s.spState n = spRamp)
    (hretry : (s.spin n).retryAt = none) (hcomm : (s.spin n).commAt ≤ (s.spin n).stateAt)
    (ha : s.rd Reg.STN_SP_STATUS_ATTEMPT n < 3) :
    s.gives (.spindleLockedRotor n) fun t => t.rd Reg.STN_SP_STATUS_ATTEMPT n = s.rd Reg.STN_SP_STATUS_ATTEMPT n + 1 ∧
      (t.spin n).retryAt = some (t.now + 200 * msCycles) ∧ (s.spin n).stateAt + 400 * msCycles ≤ t.now := by
  let s1 := s.advanceTo ((s.spin n).stateAt + 400 * msCycles)
  let u := s1.raise 0x0606 [n, 0]
  have hexec : exec (.spindleLockedRotor n) s = .next (u.attemptFail n 2) :=
    (if_neg hmode).trans (if_pos ⟨hst, by simp [hretry], hcomm⟩)
  have ha1 : u.rd Reg.STN_SP_STATUS_ATTEMPT n = s.rd Reg.STN_SP_STATUS_ATTEMPT n :=
    ((State.raise_keeps ..).rd _ _ (by decide +kernel)).trans (s.advanceTo_rd _ _ _)
  obtain ⟨hcount, hagain⟩ := State.attemptFail_again (s := u) (ha1.trans_lt ha) 2
  refine State.gives_of_exec hexec ⟨hcount.trans (congrArg (· + 1) ha1), hagain, ?_⟩
  rw [(State.attemptFail_keeps ..).now, State.raise_now]
  exact State.le_advanceTo_now ..

/-- Settles O38, clause by clause: the state of the spindle and what it has measured or counted decide where a command leads it. -/
theorem spindleStarts : Obligations.SpindleStarts :=
  ⟨gives_spindleTargetWrite_starts, gives_spindleTargetWrite_brakes, gives_spindleSenseEnd, gives_spindleWaitSlowEnd,
    gives_spindleRevBrakeEnd, gives_spindleAlignStart, gives_spindleAlignEnd, gives_spindleHandover, gives_spindleCatchDone,
    gives_spindleAttemptFail_again, gives_spindleAttemptFail_last, gives_spindleRetry, gives_spindleLockedRotor_ramp⟩

end Sys2Proof.Machine
end

section
/-!
PROOF. A spindle runs and stops (O39): speed and phase reached, a locked rotor, the observer lost and regained, braking to HOLD and
STOPPED, and FAULT cleared.
-/

set_option Elab.async false

namespace Sys2Proof.Machine

/-! ### A rotor locked in RUN (R462) -/

/-- A spindle that enters FAULT stays there, with its cause, while its heads give up. -/
theorem State.faultSpindle_headsGiveUp (s : State) (n why : Nat) {cause : Nat} (hc : cause < 16 := by decide) :
    ((s.faultSpindle n cause).headsGiveUp n why).spState n = spFault ∧
      ((s.faultSpindle n cause).headsGiveUp n why).rd Reg.STN_SP_STATUS_FAULT_CAUSE n = cause ∧
      ((s.faultSpindle n cause).headsGiveUp n why).now = s.now := by
  have hheads := (s.faultSpindle n cause).headsGiveUp_keeps n why
  obtain ⟨hst, hcause⟩ := s.faultSpindle_spec n hc
  exact ⟨(hheads.spState n).trans hst, (hheads.rd _ _ (by decide +kernel)).trans hcause,
    hheads.now.trans (State.faultSpindle_keeps ..).now⟩

theorem gives_spindleLockedRotor_run (s : State) (n : Fin 128) (hmode : s.mode ≠ mCinder) (hst : s.spState n = spRun) :
    s.gives (.spindleLockedRotor n) fun t => t.spState n = spFault ∧ t.rd Reg.STN_SP_STATUS_FAULT_CAUSE n = 2 ∧
      (s.spin n).commAt + 50 * msCycles ≤ t.now := by
  let s1 := s.advanceTo ((s.spin n).commAt + 50 * msCycles)
  let u := (s1.dropPhase n).raise 0x0606 [n, 1]
  have hexec : exec (.spindleLockedRotor n) s = .next ((u.faultSpindle n 2).headsGiveUp n 0x0606) :=
    (if_neg hmode).trans ((if_neg (by simp [hst, spRun, spRamp])).trans (if_pos hst))
  have hu : Keeps (State.dropPhase_mask ||| State.raise_mask) s1 u :=
    Keeps.step (State.raise_keeps ..) (Keeps.mono (State.dropPhase_keeps ..))
  obtain ⟨hfault, hcause, hnow⟩ := u.faultSpindle_headsGiveUp n 0x0606 (cause := 2)
  refine State.gives_of_exec hexec ⟨hfault, hcause, ?_⟩
  rw [hnow, hu.now]
  exact s.le_advanceTo_now _

/-! ### The observer lost and regained (R465 to R468, R473) -/

/-- A head that serves stops what it does and waits for the spindle (R416). -/
def State.waitForSpindle (t : State) (h : Nat) : State :=
  if t.headUp h && t.hd h != hdParking then
    let u := ((t.stopWriting h).abandonOp h false).markReverify h
    let v := (u.gateTrack h (.hold (u.lastOut h 1))).gateHead h 2 (.hold (u.lastOut h 2))
    (v.abandonHeadCal h).setHd h hdSpinWait
  else t

def State.headHalted_mask : Nat := State.stopWriting_mask ||| State.abandonOp_mask ||| State.markReverify_mask |||
  State.gateTrack_mask ||| State.gateHead_mask ||| State.abandonHeadCal_mask

/-- The head that waits has halted first, which leaves the states of heads alone. -/
theorem State.waitForSpindle_eq (t : State) (h : Nat) : ∃ u, Keeps State.headHalted_mask t u ∧
    t.waitForSpindle h = if t.headUp h && t.hd h != hdParking then u.setHd h hdSpinWait else t := by
  refine ⟨_, ?_, rfl⟩
  exact Keeps.step (State.abandonHeadCal_keeps ..) (Keeps.step (State.gateHead_keeps ..) (Keeps.step (State.gateTrack_keeps ..)
    (Keeps.step (State.markReverify_keeps ..) (Keeps.step (State.abandonOp_keeps ..) (Keeps.mono (State.stopWriting_keeps ..))))))

theorem State.waitForSpindle_waits {t : State} {h : Nat} (hup : t.headUp h = true) (hpark : t.hd h ≠ hdParking) :
    (t.waitForSpindle h).hd h = hdSpinWait := by
  obtain ⟨u, -, heq⟩ := t.waitForSpindle_eq h
  rw [heq, if_pos (by simp [hup, hpark])]
  exact State.setHd_hd ..

theorem State.waitForSpindle_ne (t : State) {h k : Nat} (hne : h ≠ k) : (t.waitForSpindle h).hd k = t.hd k := by
  obtain ⟨u, hu, heq⟩ := t.waitForSpindle_eq h
  rw [heq]
  split
  · exact (State.setHd_hd_ne _ _ hne).trans (hu.hd k)
  · rfl

theorem State.waitForSpindle_keeps (t : State) (h : Nat) : Keeps (State.headHalted_mask ||| State.setHd_mask) t (t.waitForSpindle h) := by
  obtain ⟨u, hu, heq⟩ := t.waitForSpindle_eq h
  rw [heq]
  exact Keeps.ite (Keeps.step (State.setHd_keeps ..) hu.mono) (Keeps.refl _ _)

/-- Of two heads told to wait for the spindle, each that serves does. -/
theorem State.waitForSpindle_both {t : State} {h0 h1 h : Nat} (hne : h0 ≠ h1) (hh : h = h0 ∨ h = h1) (hup : t.headUp h = true)
    (hpark : t.hd h ≠ hdParking) : ((t.waitForSpindle h0).waitForSpindle h1).hd h = hdSpinWait := by
  obtain rfl | rfl := hh
  · exact (State.waitForSpindle_ne _ hne.symm).trans (State.waitForSpindle_waits hup hpark)
  · have hsame : (t.waitForSpindle h0).hd h = t.hd h := t.waitForSpindle_ne hne
    exact State.waitForSpindle_waits ((State.headUp_congr hsame).trans hup) (hsame.trans_ne hpark)

theorem headOf_cases (n : Fin 128) (a : Fin 2) : headOf n a = 2 * n.val ∨ headOf n a = 2 * n.val + 1 := by
  have ha := a.isLt
  rw [headOf]
  omega

def State.reacquiring_mask : Nat := State.gateSpeed_mask ||| State.bridge_mask ||| State.raise_mask ||| State.dropPhase_mask |||
  State.setSp_mask ||| State.putSpin_mask ||| fieldBits [Reg.STN_SP_COUNT_OBS_LOSS, Reg.STN_SP_STATUS_AT_SPEED]

/-- A lost observer: the spindle is in REACQ, and then its heads wait. -/
theorem exec_spindleObserverLoss {s : State} {n : Fin 128} {w : Nat} (hmode : s.mode ≠ mCinder) (hst : s.spState n = spRun)
    (hlost : s.observerLost n = some w) : ∃ u, Keeps State.reacquiring_mask s u ∧ u.spState n = spReacq ∧
      exec (.spindleObserverLoss n) s = .next ([2 * n.val, 2 * n.val + 1].foldl State.waitForSpindle u) := by
  rw [exec]
  unfold execSpindleObserverLoss
  rw [if_neg hmode, hlost]
  dsimp -zeta only
  rw [if_neg (not_not.2 hst)]
  extract_lets x s1 s2 s3 y s4
  have h3 : Keeps State.reacquiring_mask s s3 := Keeps.step (State.setSp_keeps ..) (Keeps.clr (Keeps.step (State.dropPhase_keeps ..)
    (Keeps.step (State.raise_keeps ..) (Keeps.bump (Keeps.step (State.bridge_keeps ..) (Keeps.mono (State.gateSpeed_keeps ..)))))))
  exact ⟨s4, Keeps.step (State.putSpin_keeps ..) h3, (State.putSpin_spState ..).trans (State.setSp_spState ..), rfl⟩

theorem gives_spindleObserverLoss (s : State) (n : Fin 128) (w : Nat) (hmode : s.mode ≠ mCinder) (hst : s.spState n = spRun)
    (hlost : s.observerLost n = some w) :
    s.gives (.spindleObserverLoss n) fun t => t.spState n = spReacq ∧ ∀ a : Fin 2, s.headUp (headOf n a) = true →
      s.hd (headOf n a) ≠ hdParking → t.hd (headOf n a) = hdSpinWait := by
  obtain ⟨u, hu, hreacq, hexec⟩ := exec_spindleObserverLoss hmode hst hlost
  refine State.gives_of_exec hexec ⟨?_, fun a hup hpark => ?_⟩
  · exact ((State.waitForSpindle_keeps ..).spState n).trans (((State.waitForSpindle_keeps ..).spState n).trans hreacq)
  · have hhd : u.hd (headOf n a) = s.hd (headOf n a) := hu.hd _
    exact State.waitForSpindle_both (by omega) (headOf_cases n a) ((State.headUp_congr hhd).trans hup) (hhd.trans_ne hpark)

theorem gives_spindleReacquired (s : State) (n : Fin 128) (m : Meas) (hmode : s.mode ≠ mCinder) (hst : s.spState n = spReacq)
    (hmeas : s.measure n 150 = some m) :
    s.gives (.spindleReacquired n) fun t => t.spState n =
      if (3 * s.setPoint n : Nat) < (10 * m.rpm : Int) ∧ 0 < s.setPoint n then spCatch else spBrake := by
  let u := (s.wrB Reg.STN_SP_STATUS_REVERSE n (decide (m.rpm < 0))).putSpin n ((s.spin n).measured (some m))
  have hexec : exec (.spindleReacquired n) s =
      if (3 * s.setPoint n : Nat) < (10 * m.rpm : Int) ∧ 0 < s.setPoint n then .next (u.catchSpindle n m true)
      else .next ((u.seedObserver n m).brakeSpindle n true 1) := by
    rw [exec]
    unfold execSpindleReacquired
    rw [if_neg hmode, if_neg (not_not.2 hst), hmeas]
    rfl
  split_ifs at hexec ⊢ with hcatch
  · exact State.gives_of_exec hexec (u.catchSpindle_spState n m true)
  · obtain ⟨hbrake, -, -⟩ := (u.seedObserver n m).brakeSpindle_spec n true 1
    exact State.gives_of_exec hexec hbrake

theorem gives_spindleReacqTimeout (s : State) (n : Fin 128) (hmode : s.mode ≠ mCinder) (hst : s.spState n = spReacq) :
    s.gives (.spindleReacqTimeout n) fun t => t.spState n = spBrake ∧ (t.spin n).tracked = false ∧
      (s.spin n).openAt + 200 * msCycles ≤ t.now := by
  let s1 := s.advanceTo ((s.spin n).openAt + 200 * msCycles)
  have hexec : exec (.spindleReacqTimeout n) s = .next (s1.brakeSpindle n false 1) := (if_neg hmode).trans (if_neg (not_not.2 hst))
  obtain ⟨hbrake, -, htracked⟩ := s1.brakeSpindle_spec n false 1
  refine State.gives_of_exec hexec ⟨hbrake, htracked, ?_⟩
  rw [(State.brakeSpindle_keeps ..).now]
  exact s.le_advanceTo_now _

/-! ### Braking and HOLD (R471, R474, R475) -/

theorem gives_spindleVbusChange (s : State) (n : Fin 128) (hmode : s.mode ≠ mCinder)
    (hst : s.spState n = spBrake ∨ s.spState n = spRevBrake) (htracked : (s.spin n).tracked = true)
    (hshort : s.flag Reg.STN_SP_STATUS_SHORT n = false)
    (hrise : s.coef (s.rd Reg.STN_SP_SLOTS_FOC_SLOT n) 5 * (s.spRd n Reg.STN_SP_BRAKE_CFG_VBUS_MAX : Int) < s.sensor n 21 * 128) :
    s.gives (.spindleVbusChange n) fun t => t.flag Reg.STN_SP_STATUS_SHORT n = true ∧ t.spState n = s.spState n := by
  have hactive : ¬((s.spState n ≠ spBrake ∧ s.spState n ≠ spRevBrake) ∨ (!(s.spin n).tracked) = true) := by
    rw [htracked]
    tauto
  have hexec : exec (.spindleVbusChange n) s = .next (s.shortOn n) :=
    (if_neg hmode).trans ((if_neg hactive).trans (if_pos ⟨by rw [hshort]; rfl, hrise⟩))
  exact State.gives_of_exec hexec ⟨s.shortOn_short n, (s.shortOn_keeps n).spState n⟩

theorem gives_spindleBrakeEnd (s : State) (n : Fin 128) (hmode : s.mode ≠ mCinder) (hst : s.spState n = spBrake)
    (hslow : s.brakeRpm n < s.spRd n Reg.STN_SP_BRAKE_CFG_STOP_RPM) :
    s.gives (.spindleBrakeEnd n) fun t => t.spState n = spHold ∧ (t.spin n).stateAt = s.now ∧
      t.flag Reg.STN_SP_STATUS_SHORT n = false := by
  let s1 := s.clr Reg.STN_SP_STATUS_SHORT n
  let u := (s1.bridge n 2).gateSpeed n 0
  have hu : Keeps (State.bridge_mask ||| State.gateSpeed_mask) s1 u :=
    Keeps.step (State.gateSpeed_keeps ..) (Keeps.mono (State.bridge_keeps ..))
  have hexec : exec (.spindleBrakeEnd n) s = .next (u.setSp n spHold) :=
    (if_neg hmode).trans (if_neg (not_or.2 ⟨not_not.2 hst, Nat.not_le.2 hslow⟩))
  obtain ⟨cfg, hspin⟩ := u.setSp_spin n spHold
  refine State.gives_of_exec hexec ⟨State.setSp_spState .., ?_, ?_⟩
  · rw [hspin]
    exact hu.now
  · rw [(State.setSp_keeps ..).flag _ _ (by decide +kernel), hu.flag _ _ (by decide +kernel)]
    exact State.flag_clr ..

theorem gives_spindleHoldEnd (s : State) (n : Fin 128) (hmode : s.mode ≠ mCinder) (hst : s.spState n = spHold)
    (hcause : (s.spin n).stopCause = 2) :
    s.gives (.spindleHoldEnd n) fun t => t.spState n = spStopped ∧ t.lastEvent 0x0609 [n, 2] ∧
      (s.spin n).stateAt + s.spRd n Reg.STN_SP_BRAKE_CFG_HOLD_MS * 10 * msCycles ≤ t.now := by
  let s1 := s.advanceTo ((s.spin n).stateAt + s.spRd n Reg.STN_SP_BRAKE_CFG_HOLD_MS * 10 * msCycles)
  let u := (s1.bridge n 0).setSp n spStopped
  have hexec : exec (.spindleHoldEnd n) s = .next (u.raise 0x0609 [n, 2]) := by
    rw [← hcause]
    exact (if_neg hmode).trans ((if_neg (not_not.2 hst)).trans ((if_neg (by simp [hcause])).trans (if_neg (by simp [hcause]))))
  have hu : Keeps (State.bridge_mask ||| State.setSp_mask ||| State.raise_mask) s1 (u.raise 0x0609 [n, 2]) :=
    Keeps.step (State.raise_keeps ..) (Keeps.step (State.setSp_keeps ..) (Keeps.mono (State.bridge_keeps ..)))
  refine State.gives_of_exec hexec ⟨((State.raise_keeps ..).spState n).trans (State.setSp_spState ..), State.raise_lastEvent .., ?_⟩
  rw [hu.now]
  exact s.le_advanceTo_now _

theorem gives_spindleBrakeTimeout (s : State) (n : Fin 128) (hmode : s.mode ≠ mCinder) (hst : s.spState n = spBrake) :
    s.gives (.spindleBrakeTimeout n) fun t => t.spState n = spFault ∧ t.rd Reg.STN_SP_STATUS_FAULT_CAUSE n = 5 ∧
      (s.spin n).brakeAt + 30 * hz ≤ t.now := by
  let s1 := s.advanceTo ((s.spin n).brakeAt + 30 * hz)
  have hexec : exec (.spindleBrakeTimeout n) s = .next ((s1.faultSpindle n 5).headsGiveUp n 0x060B) :=
    (if_neg hmode).trans (if_neg (not_not.2 hst))
  obtain ⟨hfault, hcause, hnow⟩ := s1.faultSpindle_headsGiveUp n 0x060B (cause := 5)
  refine State.gives_of_exec hexec ⟨hfault, hcause, ?_⟩
  rw [hnow]
  exact s.le_advanceTo_now _

/-! ### Speed and phase reached (R446, R449) -/

def State.speedReported_mask : Nat := State.raise_mask ||| State.putSpin_mask ||| State.headsResume_mask ||| State.mountGo_mask |||
  fieldBits [Reg.STN_SP_STATUS_ATTEMPT, Reg.STN_SP_COUNT_STARTS]

/-- A speed reached is shown, with its report after a start, and the heads of the station go on. -/
theorem exec_spindleAtSpeed {s : State} {n : Fin 128} {x : Nat} (hmode : s.mode ≠ mCinder) (hst : s.spState n = spRun)
    (hband : (s.spin n).bandFrom = some x) (hspeed : s.flag Reg.STN_SP_STATUS_AT_SPEED n = false) :
    ∃ t, Keeps State.speedReported_mask ((s.advanceTo (x + 100 * msCycles)).set1 Reg.STN_SP_STATUS_AT_SPEED n) t ∧
      exec (.spindleAtSpeed n) s = .next t := by
  rw [exec]
  unfold execSpindleAtSpeed
  extract_lets y
  rw [if_neg hmode, show y.bandFrom = some x from hband]
  dsimp -zeta only
  rw [if_neg (by simp [hst, hspeed])]
  extract_lets s1 s2
  have h2 : Keeps State.speedReported_mask s1 s2 := Keeps.ite (Keeps.refl _ _) (Keeps.step (State.putSpin_keeps ..)
    (Keeps.step (State.raise_keeps ..) (Keeps.bump (Keeps.wr (Keeps.refl _ _)))))
  exact ⟨_, Keeps.step (State.mountGo_keeps ..) (Keeps.step (State.headsResume_keeps ..) h2), rfl⟩

theorem gives_spindleAtSpeed (s : State) (n : Fin 128) (x : Nat) (hmode : s.mode ≠ mCinder) (hst : s.spState n = spRun)
    (hband : (s.spin n).bandFrom = some x) (hspeed : s.flag Reg.STN_SP_STATUS_AT_SPEED n = false) :
    s.gives (.spindleAtSpeed n) fun t => t.flag Reg.STN_SP_STATUS_AT_SPEED n = true ∧ t.spState n = spRun ∧
      x + 100 * msCycles ≤ t.now := by
  obtain ⟨t, ht, hexec⟩ := exec_spindleAtSpeed hmode hst hband hspeed
  refine State.gives_of_exec hexec ⟨?_, ?_, ?_⟩
  · exact (ht.flag _ _ (by decide +kernel)).trans (State.flag_set1 _ _ (by decide))
  · exact (ht.spState n).trans ((State.rd_set1_ne _ _ _ _ _ (by decide)).trans ((s.advanceTo_spState _ n).trans hst))
  · rw [ht.now]
    exact s.le_advanceTo_now _

theorem gives_phaseLockChange_locks (s : State) (n : Fin 128) (hmode : s.mode ≠ mCinder)
    (hlock : s.flag Reg.STN_SP_STATUS_PHASE_LOCKED n = false) (hruns : 16 ≤ (s.spin n).phaseRuns) (hon : s.phaseOn n = true) :
    s.gives (.phaseLockChange n) fun t => t.flag Reg.STN_SP_STATUS_PHASE_LOCKED n = true ∧ t.lastEvent 0x060A [n, 1] := by
  have hexec : exec (.phaseLockChange n) s = .next ((s.set1 Reg.STN_SP_STATUS_PHASE_LOCKED n).raise 0x060A [n, 1]) :=
    (if_neg hmode).trans (if_pos ⟨by rw [hlock]; rfl, hruns, hon⟩)
  exact State.gives_of_exec hexec ⟨((State.raise_keeps ..).flag _ _ (by decide +kernel)).trans (State.flag_set1 _ _ (by decide)),
    State.raise_lastEvent ..⟩

theorem gives_phaseLockChange_unlocks (s : State) (n : Fin 128) (hmode : s.mode ≠ mCinder)
    (hlock : s.flag Reg.STN_SP_STATUS_PHASE_LOCKED n = true) (hbad : (s.spin n).phiBad = true) :
    s.gives (.phaseLockChange n) fun t => t.flag Reg.STN_SP_STATUS_PHASE_LOCKED n = false ∧ t.lastEvent 0x060A [n, 0] := by
  have hexec : exec (.phaseLockChange n) s = .next (s.dropPhase n) :=
    (if_neg hmode).trans ((if_neg (by simp [hlock])).trans (if_pos ⟨hlock, .inl hbad⟩))
  exact State.gives_of_exec hexec (State.dropPhase_unlocks hlock)

/-! ### CLEAR (R477) -/

/-- A spindle without a target has no set point. -/
theorem State.setPoint_of_rest {s : State} {n : Nat} (h : s.rd Reg.STN_SP_TARGET_RPM n = 0) : s.setPoint n = 0 := if_pos h

theorem gives_spindleClearFault (s : State) (n : Fin 128) (hmode : s.mode ≠ mCinder) (hst : s.spState n = spFault)
    (hrest : s.rd Reg.STN_SP_TARGET_RPM n = 0) :
    s.gives (.spindleClearFault n) fun t => t.spState n = spStopped ∧ t.rd Reg.STN_SP_STATUS_FAULT_CAUSE n = 0 := by
  let s1 := s.wr Reg.STN_SP_STATUS_FAULT_CAUSE n 0
  let u := s1.setSp n spStopped
  have hu : Keeps State.setSp_mask s1 u := s1.setSp_keeps n spStopped
  have htarget : u.rd Reg.STN_SP_TARGET_RPM n = 0 :=
    (hu.rd _ _ (by decide +kernel)).trans ((State.rd_wr_ne _ _ _ _ _ _ (by decide)).trans hrest)
  have hexec : exec (.spindleClearFault n) s = .next u :=
    (if_neg hmode).trans ((if_pos hst).trans (congrArg _ (if_neg (not_not.2 (State.setPoint_of_rest htarget)))))
  exact State.gives_of_exec hexec ⟨State.setSp_spState .., (hu.rd _ _ (by decide +kernel)).trans (State.rd_clr ..)⟩

/-- Settles O39, clause by clause: what the observer, the speed and Vdc show decides where a running or braking spindle goes. -/
theorem spindleRunsAndStops : Obligations.SpindleRunsAndStops :=
  ⟨gives_spindleLockedRotor_run, gives_spindleObserverLoss, gives_spindleReacquired, gives_spindleReacqTimeout,
    gives_spindleVbusChange, gives_spindleBrakeEnd, gives_spindleHoldEnd, gives_spindleBrakeTimeout, gives_spindleAtSpeed,
    gives_phaseLockChange_locks, gives_phaseLockChange_unlocks, gives_spindleClearFault⟩

end Sys2Proof.Machine
end

section
/-!
PROOF. What the operations of the motion engine do to an axis: its record, its state, its position and its operation. The rules that the
proofs about moves and about the library (O40, O54, O55) are made of.
-/

set_option Elab.async false

namespace Sys2Proof.Machine

/-! ### An axis's record and its registers -/

theorem State.axis_congr {s t : State} (h : t.axes = s.axes) (a : Nat) : t.axis a = s.axis a := by rw [State.axis, State.axis, h]

theorem Keeps.axis {m : Nat} {s t : State} (k : Keeps m s t) (a : Nat) (hm : m.testBit (Part.bit .axes) = false := by decide +kernel) :
    t.axis a = s.axis a := State.axis_congr (k.part .axes hm) a

theorem Keeps.axState {m : Nat} {s t : State} (k : Keeps m s t) (a : Nat)
    (hm : m.testBit (Reg.MOT_AX_STATUS_STATE.id % 8192) = false := by decide +kernel) : t.axState a = s.axState a := k.rd _ a hm

theorem Keeps.rdS {m : Nat} {s t : State} (k : Keeps m s t) (f : Fld) (i : Nat) (hm : m.testBit (f.id % 8192) = false) :
    t.rdS f i = s.rdS f i := by rw [State.rdS, State.rdS, k.rd f i hm]

theorem Keeps.axPos {m : Nat} {s t : State} (k : Keeps m s t) (a : Nat)
    (hm : m.testBit (Reg.MOT_AX_POS_VALUE.id % 8192) = false := by decide +kernel) : t.axPos a = s.axPos a := k.rdS _ a hm

theorem Keeps.mode {m : Nat} {s t : State} (k : Keeps m s t)
    (hm : m.testBit (Reg.GCTL_STATUS_MODE.id % 8192) = false := by decide +kernel) : t.mode = s.mode := k.rd _ 0 hm

theorem State.putAxis_axis_ne (s : State) {a b : Nat} (x : Axis) (hne : a ≠ b) : (s.putAxis a x).axis b = s.axis b :=
  mget_mput_ne _ _ _ _ _ hne

@[simp] theorem State.wr_axis (s : State) (f : Fld) (i v a : Nat) : (s.wr f i v).axis a = s.axis a := rfl
@[simp] theorem State.wrS_axis (s : State) (f : Fld) (i : Nat) (v : Int) (a : Nat) : (s.wrS f i v).axis a = s.axis a := rfl
@[simp] theorem State.axAtRest_axis (s : State) (a b : Nat) : (s.axAtRest a).axis b = s.axis b := rfl
@[simp] theorem State.advanceTo_axis (s : State) (k a : Nat) : (s.advanceTo k).axis a = s.axis a := (s.advanceTo_keeps k).axis a
@[simp] theorem State.emitSteps_axis (s : State) (a : Nat) (p : Plan) (n b : Nat) : (s.emitSteps a p n).axis b = s.axis b :=
  (s.emitSteps_keeps a p n).axis b
@[simp] theorem State.raise_axis (s : State) (code : Nat) (data : List Nat) (a : Nat) : (s.raise code data).axis a = s.axis a :=
  (s.raise_keeps code data).axis a
@[simp] theorem State.axDone_axis (s : State) (a result b : Nat) : (s.axDone a result).axis b = s.axis b :=
  (s.axDone_keeps a result).axis b

theorem State.setAx_axState (s : State) (a : Nat) {st : Nat} (hst : st < 16 := by decide) : (s.setAx a st).axState a = st := by
  rw [State.axState, State.setAx, State.rd_wrB_ne _ _ _ _ _ _ (by decide), State.rd_wr_same]
  exact Nat.mod_eq_of_lt hst

theorem State.setAx_axState_ne (s : State) {a b : Nat} (st : Nat) (hne : a ≠ b) : (s.setAx a st).axState b = s.axState b := by
  rw [State.axState, State.setAx, State.rd_wrB_ne _ _ _ _ _ _ (by decide), State.rd_wr_inst _ _ _ _ _ hne, State.axState]

theorem signed_mod (w x : Nat) : signed w (x % 2 ^ w) = signed w x := by simp only [signed, Nat.mod_mod]

/-- A field written with an integer reads as the integer cut to the field's width. -/
theorem State.rdS_wrS (s : State) (f : Fld) (i : Nat) (v : Int) : (s.wrS f i v).rdS f i = signed f.w (unsignedOf f.w v) := by
  rw [State.rdS, State.wrS, State.rd_wr_same, signed_mod]

theorem signed_unsignedOf_signed (w x : Nat) : signed w (unsignedOf w (signed w x)) = signed w x := by
  have hcode : unsignedOf w (signed w x) = x % 2 ^ w := by
    have hlt : x % 2 ^ w < 2 ^ w := Nat.mod_lt _ (Nat.two_pow_pos w)
    have hmod : signed w x % ((2 ^ w : Nat) : Int) = ((x % 2 ^ w : Nat) : Int) := by
      rw [signed]
      split
      · exact Int.emod_eq_of_lt (Int.natCast_nonneg _) (by exact_mod_cast hlt)
      · rw [Int.sub_emod_right]
        exact Int.emod_eq_of_lt (Int.natCast_nonneg _) (by exact_mod_cast hlt)
    rw [unsignedOf, hmod, Int.toNat_natCast]
  rw [hcode, signed_mod]

/-! ### The conditions of a move (R494, R514, R954) -/

/-- The register fields that a move is judged by. -/
def moveFields : List Fld := [Reg.STN_HD_STATUS_STATE, Reg.MOT_AX_STATUS_STATE, Reg.MOT_AX_POS_VALUE, Reg.MOT_AX_CTRL_PROFILE,
  Reg.MOT_AX_VMAX_VALUE, Reg.MOT_AX_AMAX_VALUE, Reg.MOT_AX_JMAX_VALUE, Reg.MOT_AX_VSTART_VALUE, Reg.MOT_AX_STOP_DEC_VALUE,
  Reg.MOT_AX_LIM_LO_VALUE, Reg.MOT_AX_LIM_HI_VALUE, Reg.MOT_PK_PULSE_PULSE, Reg.GCTL_STATUS_MODE, Reg.LIB_STATUS_DOOR_CLOSED,
  Reg.LIB_STATUS_DOOR_LOCKED]

/-- A move is judged in the second state as in the first. -/
structure SameMoves (s t : State) : Prop where
  sledFree : ∀ a, t.sledFree a = s.sledFree a
  axState : ∀ a, t.axState a = s.axState a
  held : t.motionHeld = s.motionHeld
  badProfile : ∀ a, t.badProfile a = s.badProfile a
  inLimits : ∀ a x, t.inLimits a x = s.inLimits a x
  tooFast : ∀ a x, t.tooFast a x = s.tooFast a x
  doorOk : t.doorOk = s.doorOk

theorem Keeps.sameMoves {m : Nat} {s t : State} (k : Keeps m s t)
    (hm : ∀ f ∈ moveFields, m.testBit (f.id % 8192) = false := by decide +kernel)
    (hpw : m.testBit (Part.bit .pw) = false := by decide +kernel)
    (hlib : m.testBit (Part.bit .lib) = false := by decide +kernel) : SameMoves s t := by
  have hrd : ∀ f ∈ moveFields, ∀ i, t.rd f i = s.rd f i := fun f hf i => k.rd f i (hm f hf)
  simp only [moveFields, List.forall_mem_cons] at hrd
  obtain ⟨hhd, hst, hpos, hprof, hv, hacc, hj, hvs, hdec, hlo, hhi, hpulse, hmode, hclosed, hlocked, -⟩ := hrd
  have hplan : ∀ a x h, t.planTo a x h = s.planTo a x h := fun a x h => by
    simp only [State.planTo, State.axPos, State.rdS, hpos, hprof, hv, hacc, hj, hvs]
  have hpower : t.pw = s.pw := k.part .pw hpw
  have hlibrary : t.lib = s.lib := k.part .lib hlib
  refine ⟨fun a => ?_, hst, ?_, fun a => ?_, fun a x => ?_, fun a x => ?_, ?_⟩
  · simp only [State.sledFree, State.headUp, State.hd, hhd]
  · simp only [State.motionHeld, State.mode, hmode, hpower]
  · simp only [State.badProfile, State.flag, hv, hacc, hvs, hdec, hprof, hj]
  · rw [State.inLimits, State.inLimits, State.rdS, State.rdS, State.rdS, State.rdS, hlo, hhi]
  · simp only [State.tooFast, hplan, hpulse]
  · simp only [State.doorOk, State.flag, hclosed, hlocked, hlibrary]

/-! ### Errors and the end of an operation (R530) -/

/-- The first error is shown, with its axis. -/
theorem State.motErr_spec {s : State} (hfree : s.flag Reg.MOT_ERR_VALID 0 = false) (a code : Nat) :
    (s.motErr a code).flag Reg.MOT_ERR_VALID 0 = true ∧ (s.motErr a code).rd Reg.MOT_ERR_CODE 0 = code % 2 ^ Reg.MOT_ERR_CODE.w ∧
      (s.motErr a code).rd Reg.MOT_ERR_AXIS 0 = a % 2 ^ Reg.MOT_ERR_AXIS.w := by
  rw [State.motErr, if_neg (Bool.eq_false_iff.1 hfree)]
  refine ⟨?_, State.rd_wr_same .., (State.rd_wr_ne _ _ _ _ _ _ (by decide)).trans (State.rd_wr_same ..)⟩
  rw [State.flag_wr_ne _ _ _ _ _ _ (by decide), State.flag_wr_ne _ _ _ _ _ _ (by decide)]
  exact State.flag_set1 _ _ (by decide)

theorem State.axRefuse_spec (s : State) (a code : Nat) :
    (s.axRefuse a code).rd Reg.MOT_AX_CMD_RESULT a = 1 ∧
      (s.flag Reg.MOT_ERR_VALID 0 = false → (s.axRefuse a code).rd Reg.MOT_ERR_CODE 0 = code % 2 ^ Reg.MOT_ERR_CODE.w ∧
        (s.axRefuse a code).rd Reg.MOT_ERR_AXIS 0 = a % 2 ^ Reg.MOT_ERR_AXIS.w) ∧
      (s.axRefuse a code).axes = s.axes := by
  refine ⟨State.rd_wr_same .., fun hfree => ?_, (s.axRefuse_keeps a code).part .axes (by decide +kernel)⟩
  obtain ⟨-, hcode, haxis⟩ := State.motErr_spec hfree a code
  exact ⟨(State.rd_wr_ne _ _ _ _ _ _ (by decide)).trans hcode, (State.rd_wr_ne _ _ _ _ _ _ (by decide)).trans haxis⟩

theorem State.axDone_busy (s : State) (a result : Nat) : (s.axDone a result).flag Reg.MOT_AX_CMD_BUSY a = false := by
  rw [State.axDone]
  split
  · exact (State.flag_wr_ne _ _ _ _ _ _ (by decide)).trans (State.flag_clr ..)
  · next h => exact Bool.eq_false_iff.2 h

/-- GO is taken where no operation is in progress, and STOP always. -/
theorem State.axGo_takes {s : State} {a op : Nat} (h : s.flag Reg.MOT_AX_CMD_BUSY a = false ∨ op = 2) (f : State → State) :
    s.axGo a op f = f (s.wr Reg.MOT_AX_CMD_OP a op) := by
  rw [State.axGo, if_neg]
  rcases h with h | rfl
  · simp [h]
  · simp

/-! ### Moves and homing runs start (R486, R506, R507) -/

theorem State.startMove_spec {s : State} (hm : s.mode ≠ mKiln) (a : Nat) (x : Int) (byHead : Bool) :
    (s.startMove a x byHead).axState a = axMoving ∧
      ((s.startMove a x byHead).axis a).plan.map (fun p => (p.a, p.b)) = some (s.axPos a, x) := by
  rw [State.startMove, if_neg hm]
  extract_lets p y s1 start go
  have hst : s1.axState a = axMoving := (State.rd_wrB_ne _ _ _ _ _ _ (by decide)).trans (State.setAx_axState ..)
  split
  · split
    · exact ⟨hst, congrArg (fun z => z.plan.map fun p => (p.a, p.b)) (State.putAxis_axis ..)⟩
    · exact ⟨hst, congrArg (fun z => z.plan.map fun p => (p.a, p.b)) (State.putAxis_axis ..)⟩
  · exact ⟨hst, congrArg (fun z => z.plan.map fun p => (p.a, p.b)) (State.putAxis_axis ..)⟩

theorem State.homeSled_spec {s : State} (hm : s.mode ≠ mKiln) (a : Nat) (after : Option Int) :
    (s.homeSled a after).axState a = axHoming ∧ ((s.homeSled a after).axis a).plan.map (fun p => p.a) = some (s.axPos a) := by
  rw [State.homeSled, if_neg hm]
  exact ⟨(State.rd_set1_ne _ _ _ _ _ (by decide)).trans (s.setAx_axState a (st := axHoming)),
    congrArg (fun z => z.plan.map fun p => p.a) (State.putAxis_axis ..)⟩

/-- A picker axis homes at once, or in KILN waits in the same state (R528). -/
theorem State.homePicker_homes (s : State) (a : Nat) : (s.homePicker a).axState a = axHoming := by
  rw [State.homePicker]
  split
  · exact s.setAx_axState a (st := axHoming)
  · exact (State.rd_wrB_ne _ _ _ _ _ _ (by decide)).trans (s.setAx_axState a (st := axHoming))

theorem State.homePicker_plan {s : State} (hm : s.mode ≠ mKiln) (a : Nat) :
    ((s.homePicker a).axis a).plan.map (fun p => p.a) = some (s.axPos a) := by
  rw [State.homePicker, if_neg hm]
  exact congrArg (fun z => z.plan.map fun p => p.a) (State.putAxis_axis ..)

/-! ### The end of a plan (R486, R493) -/

/-- An axis at rest without a plan. -/
def Axis.atRest (x : Axis) : Axis := { x with plan := none, after := none, speed := 0, accel := 0 }

@[simp] theorem State.endPlan_axis (s : State) (a : Nat) (p : Plan) (result : Nat) :
    (s.endPlan a p result).axis a = (s.axis a).atRest := by
  unfold State.endPlan
  extract_lets x s1 s2 s3
  calc (s3.axDone a result).axis a
    _ = s3.axis a := State.axDone_axis ..
    _ = (s.axis a).atRest := State.putAxis_axis ..

theorem State.endPlan_busy (s : State) (a : Nat) (p : Plan) (result : Nat) :
    (s.endPlan a p result).flag Reg.MOT_AX_CMD_BUSY a = false := State.axDone_busy ..

theorem State.endPlan_axState (s : State) (a : Nat) (p : Plan) (result : Nat) :
    (s.endPlan a p result).axState a = if s.axState a = axHoming then axUnref else axIdle := by
  unfold State.endPlan
  extract_lets x s1 s2 s3
  calc (s3.axDone a result).axState a
    _ = s3.axState a := (s3.axDone_keeps a result).axState a
    _ = s2.axState a := State.rd_wr_ne _ _ _ _ _ _ (by decide)
    _ = if s.axState a = axHoming then axUnref else axIdle := by
      unfold s2
      split
      · exact State.setAx_axState ..
      · exact State.setAx_axState ..

theorem State.endPlan_axPos (s : State) (a : Nat) (p : Plan) (result : Nat) :
    (s.endPlan a p result).axPos a = signed 32 (unsignedOf 32 p.b) := by
  have hpos : (s.endPlan a p result).rd Reg.MOT_AX_POS_VALUE a =
      ((s.emitSteps a p p.steps).wrS Reg.MOT_AX_POS_VALUE a p.b).rd Reg.MOT_AX_POS_VALUE a := by
    unfold State.endPlan
    extract_lets x s1 s2 s3
    calc (s3.axDone a result).rd Reg.MOT_AX_POS_VALUE a
      _ = s3.rd Reg.MOT_AX_POS_VALUE a := (s3.axDone_keeps a result).rd _ _ (by decide +kernel)
      _ = s2.rd Reg.MOT_AX_POS_VALUE a := State.rd_wr_ne _ _ _ _ _ _ (by decide)
      _ = s1.rd Reg.MOT_AX_POS_VALUE a := by
        unfold s2
        split
        · exact ((State.setAx_keeps ..).rd _ _ (by decide +kernel)).trans (State.rd_clr_ne _ _ _ _ _ (by decide))
        · exact (State.setAx_keeps ..).rd _ _ (by decide +kernel)
  rw [State.axPos, State.rdS, hpos]
  exact State.rdS_wrS ..

/-! ### The other axes -/

/-- An axis's record and state are the same in two states. -/
structure AxisKept (b : Nat) (s t : State) : Prop where
  axis : t.axis b = s.axis b
  axState : t.axState b = s.axState b

namespace AxisKept

variable {b : Nat} {s t u : State}

theorem refl (s : State) : AxisKept b s s := ⟨rfl, rfl⟩

theorem trans (h : AxisKept b s t) (g : AxisKept b t u) : AxisKept b s u := ⟨g.axis.trans h.axis, g.axState.trans h.axState⟩

/-- An operation that leaves the axes' records and states, after others. -/
theorem keeps {m : Nat} (h : AxisKept b s t) (k : Keeps m t u) (hax : m.testBit (Part.bit .axes) = false := by decide +kernel)
    (hst : m.testBit (Reg.MOT_AX_STATUS_STATE.id % 8192) = false := by decide +kernel) : AxisKept b s u :=
  h.trans ⟨k.axis b hax, k.axState b hst⟩

theorem putAxis {a : Nat} {x : Axis} (h : AxisKept b s t) (hne : a ≠ b) : AxisKept b s (t.putAxis a x) :=
  h.trans ⟨State.putAxis_axis_ne _ _ hne, rfl⟩

theorem setAx {a st : Nat} (h : AxisKept b s t) (hne : a ≠ b) : AxisKept b s (t.setAx a st) :=
  h.trans ⟨rfl, State.setAx_axState_ne _ _ hne⟩

theorem wr {f : Fld} {i v : Nat} (h : AxisKept b s t) (hf : f.id % 8192 ≠ Reg.MOT_AX_STATUS_STATE.id % 8192 := by decide) :
    AxisKept b s (t.wr f i v) := h.trans ⟨rfl, State.rd_wr_ne _ _ _ _ _ _ hf⟩

theorem clr {f : Fld} {i : Nat} (h : AxisKept b s t) (hf : f.id % 8192 ≠ Reg.MOT_AX_STATUS_STATE.id % 8192 := by decide) :
    AxisKept b s (t.clr f i) := h.wr hf

theorem wrB {f : Fld} {i : Nat} {v : Bool} (h : AxisKept b s t) (hf : f.id % 8192 ≠ Reg.MOT_AX_STATUS_STATE.id % 8192 := by decide) :
    AxisKept b s (t.wrB f i v) := h.wr hf

theorem wrS {f : Fld} {i : Nat} {v : Int} (h : AxisKept b s t) (hf : f.id % 8192 ≠ Reg.MOT_AX_STATUS_STATE.id % 8192 := by decide) :
    AxisKept b s (t.wrS f i v) := h.wr hf

theorem ite {c : Prop} [Decidable c] (h : AxisKept b s t) (g : AxisKept b s u) : AxisKept b s (if c then t else u) := by
  split <;> assumption

end AxisKept

theorem State.homePicker_ne (s : State) {a b : Nat} (hne : a ≠ b) : AxisKept b s (s.homePicker a) := by
  rw [State.homePicker]
  exact .ite (((AxisKept.refl s).setAx hne).putAxis hne) ((((AxisKept.refl s).setAx hne).wrB).putAxis hne)

theorem State.endPlan_ne (s : State) {a b : Nat} (p : Plan) (result : Nat) (hne : a ≠ b) : AxisKept b s (s.endPlan a p result) := by
  unfold State.endPlan
  extract_lets x s1 s2 s3
  have h1 : AxisKept b s s1 := ((AxisKept.refl s).keeps (s.emitSteps_keeps a p _)).wrS
  have h2 : AxisKept b s s2 := .ite (h1.clr.setAx hne) (h1.setAx hne)
  have h3 : AxisKept b s s3 := (h2.putAxis hne).wr
  exact (h3.keeps (s3.axDone_keeps a result)).trans ⟨rfl, rfl⟩

theorem State.freezePlan_ne (s : State) {a b : Nat} (hne : a ≠ b) : AxisKept b s (s.freezePlan a) := by
  unfold State.freezePlan
  extract_lets x s0
  have h0 : AxisKept b s s0 := (AxisKept.refl s).putAxis hne
  split
  · exact ((h0.keeps (s0.emitSteps_keeps ..)).wrS).wr
  · exact h0

theorem State.stopAxis_ne (s : State) {a b : Nat} (hne : a ≠ b) : AxisKept b s (s.stopAxis a) := by
  unfold State.stopAxis
  extract_lets s1 x
  have h1 : AxisKept b s s1 := by
    unfold s1
    split
    · exact (s.freezePlan_ne hne).trans (State.endPlan_ne _ _ _ hne)
    · exact .refl s
  split
  · split
    · exact h1.trans (State.endPlan_ne _ _ _ hne)
    · exact .ite (h1.putAxis hne) (h1.putAxis hne)
  · exact .ite (h1.putAxis hne).wr h1

/-! ### STOP (R493) -/

theorem Keeps.braked {m : Nat} {s t : State} (k : Keeps m s t) (a : Nat) (p : Plan) (x : Nat)
    (hnow : m.testBit (Part.bit .now) = false := by decide +kernel)
    (hv : m.testBit (Reg.MOT_AX_VSTART_VALUE.id % 8192) = false := by decide +kernel)
    (hd : m.testBit (Reg.MOT_AX_STOP_DEC_VALUE.id % 8192) = false := by decide +kernel) : t.braked a p x = s.braked a p x := by
  simp only [State.braked, k.now hnow, k.rd _ _ hv, k.rd _ _ hd]

theorem State.stopAxis_unbegun {s : State} {a : Nat} {p : Plan} (hheld : (s.axis a).held = none) (hp : (s.axis a).plan = some p)
    (hat : p.at_ = none) : s.stopAxis a = s.endPlan a p.unbegun 3 := by
  simp only [State.stopAxis, hheld, hp, hat]

theorem State.stopAxis_running {s : State} {a x : Nat} {p : Plan} (hheld : (s.axis a).held = none) (hp : (s.axis a).plan = some p)
    (hat : p.at_ = some x) : s.stopAxis a = s.putAxis a
      (if p.cut.isSome then { s.axis a with after := none } else { s.axis a with plan := some (s.braked a p x), after := none }) := by
  simp only [State.stopAxis, hheld, hp, hat]
  split <;> rfl

/-- An axis without a plan stays without one. -/
theorem State.stopAxis_planless {s : State} {a : Nat} (hheld : (s.axis a).held = none) (hp : (s.axis a).plan = none) :
    ((s.stopAxis a).axis a).held = none ∧ ((s.stopAxis a).axis a).plan = none := by
  simp only [State.stopAxis, hheld, hp]
  split
  · rw [State.wr_axis, State.putAxis_axis]
    exact ⟨rfl, rfl⟩
  · exact ⟨hheld, hp⟩

/-! ### The door stays as it is where it is not asked to open (R515) -/

theorem State.openDoor_of_not_opening {s : State} (h : s.lib.opening = false) : s.openDoor = s := by
  rw [State.openDoor, h]
  exact if_neg (by simp)

end Sys2Proof.Machine
end

section
/-!
PROOF. The commands of the motion engine (O40): moves, stops, homing, faults and the steps that a sled is sent.
-/

set_option Elab.async false

namespace Sys2Proof.Machine

/-! ### GO (R492, R530) -/

/-- An operation is written to MOT_AX_CMD. -/
def State.opTold (s : State) (a op : Nat) : State := s.wr Reg.MOT_AX_CMD_OP a op

def State.opTold_mask : Nat := fieldBits [Reg.MOT_AX_CMD_OP]

theorem State.opTold_keeps (s : State) (a op : Nat) : Keeps State.opTold_mask s (s.opTold a op) := Keeps.wr (.refl _ _)

@[simp] theorem State.opTold_axis (s : State) (a op b : Nat) : (s.opTold a op).axis b = s.axis b := rfl

@[simp] theorem State.opTold_axState (s : State) (a op b : Nat) : (s.opTold a op).axState b = s.axState b := (s.opTold_keeps a op).axState b

/-- An operation is in progress. -/
def State.opBegun (s : State) (a op : Nat) : State := (s.opTold a op).set1 Reg.MOT_AX_CMD_BUSY a

def State.opBegun_mask : Nat := fieldBits [Reg.MOT_AX_CMD_OP, Reg.MOT_AX_CMD_BUSY]

theorem State.opBegun_keeps (s : State) (a op : Nat) : Keeps State.opBegun_mask s (s.opBegun a op) := Keeps.set1 (Keeps.wr (.refl _ _))

theorem State.opBegun_busy (s : State) (a op : Nat) : (s.opBegun a op).flag Reg.MOT_AX_CMD_BUSY a = true := State.flag_set1 _ _ (by decide)

theorem State.opBegun_mode {s : State} (hm : s.mode ≠ mKiln) (a op : Nat) : (s.opBegun a op).mode ≠ mKiln :=
  ((s.opBegun_keeps a op).mode).trans_ne hm

/-- An operation that is refused shows RESULT 1, and its code and axis where no error is shown yet; the axes stay as they were. -/
theorem State.opTold_refuse (s : State) (a : Fin 264) (op : Nat) {code : Nat} (hc : code < 16 := by decide) :
    ((s.opTold a op).axRefuse a code).rd Reg.MOT_AX_CMD_RESULT a = 1 ∧
      (s.flag Reg.MOT_ERR_VALID 0 = false → ((s.opTold a op).axRefuse a code).rd Reg.MOT_ERR_CODE 0 = code ∧
        ((s.opTold a op).axRefuse a code).rd Reg.MOT_ERR_AXIS 0 = a) ∧
      ((s.opTold a op).axRefuse a code).axes = s.axes := by
  obtain ⟨hres, herr, haxes⟩ := (s.opTold a op).axRefuse_spec a code
  have ha : a.val < 2 ^ Reg.MOT_ERR_AXIS.w := Nat.lt_trans a.isLt (by decide)
  refine ⟨hres, fun hfree => ?_, haxes⟩
  obtain ⟨hcode, haxis⟩ := herr (((s.opTold_keeps a op).flag _ _ (by decide +kernel)).trans hfree)
  exact ⟨hcode.trans (Nat.mod_eq_of_lt hc), haxis.trans (Nat.mod_eq_of_lt ha)⟩

/-! ### MOVE (R486, R494, R495, R505, R514) -/

/-- What MOVE answers, with its conditions as they stood before GO. -/
def State.answerMove (s : State) (a : Nat) (x : Int) : State :=
  if !s.sledFree a then (s.opTold a 1).axRefuse a 5
  else if s.axState a = axUnref then (s.opTold a 1).axRefuse a 3
  else if s.axState a ≠ axIdle ∨ s.motionHeld then (s.opTold a 1).wr Reg.MOT_AX_CMD_RESULT a 1
  else if s.badProfile a || s.tooFast a x then (s.opTold a 1).axRefuse a 4
  else if !s.inLimits a x then (s.opTold a 1).axRefuse a 2
  else if isPicker a && !s.doorOk then (s.opTold a 1).axRefuse a 6
  else (s.opBegun a 1).startMove a x false

theorem exec_axisMove {s : State} {a : Fin 264} (hb : s.flag Reg.MOT_AX_CMD_BUSY a = false) :
    exec (.axisMove a) s = .next (s.answerMove a (s.rdS Reg.MOT_AX_TARGET_VALUE a)) := by
  have k : SameMoves s (s.wr Reg.MOT_AX_CMD_OP a 1) := (s.opTold_keeps a 1).sameMoves
  rw [exec, execAxisMove]
  rw [State.axGo_takes (.inl hb), k.sledFree, k.axState, k.held, k.badProfile, k.tooFast, k.inLimits, k.doorOk]
  rfl

theorem gives_axisMove_starts (s : State) (a : Fin 264) (hb : s.flag Reg.MOT_AX_CMD_BUSY a = false) (hfree : s.sledFree a = true)
    (hst : s.axState a = axIdle) (hheld : s.motionHeld = false) (hm : s.mode ≠ mKiln) (hbad : s.badProfile a = false)
    (hfast : s.tooFast a (s.rdS Reg.MOT_AX_TARGET_VALUE a) = false) (hlim : s.inLimits a (s.rdS Reg.MOT_AX_TARGET_VALUE a) = true)
    (hdoor : isPicker a = true → s.doorOk = true) : s.gives (.axisMove a) fun t =>
      t.axState a = axMoving ∧ t.flag Reg.MOT_AX_CMD_BUSY a = true ∧
        (t.axis a).plan.map (fun p => (p.a, p.b)) = some (s.axPos a, s.rdS Reg.MOT_AX_TARGET_VALUE a) := by
  have hd : (isPicker a && !s.doorOk) = false := by
    cases hp : isPicker a
    · rfl
    · rw [hdoor hp]
      rfl
  have hgo : s.answerMove a (s.rdS Reg.MOT_AX_TARGET_VALUE a) =
      (s.opBegun a 1).startMove a (s.rdS Reg.MOT_AX_TARGET_VALUE a) false := by
    simp [State.answerMove, hfree, hst, hheld, hbad, hfast, hlim, hd, axIdle, axUnref]
  obtain ⟨hmoves, hplan⟩ := State.startMove_spec (s.opBegun_mode hm a 1) a (s.rdS Reg.MOT_AX_TARGET_VALUE a) false
  refine State.gives_of_exec ((exec_axisMove hb).trans (congrArg Host.Outcome.next hgo)) ⟨hmoves, ?_, hplan.trans ?_⟩
  · exact ((State.startMove_keeps ..).flag _ _ (by decide +kernel)).trans (s.opBegun_busy a 1)
  · rw [(s.opBegun_keeps a 1).axPos]

theorem gives_axisMove_unreferenced (s : State) (a : Fin 264) (hb : s.flag Reg.MOT_AX_CMD_BUSY a = false) (hfree : s.sledFree a = true)
    (hst : s.axState a = axUnref) : s.gives (.axisMove a) fun t => t.rd Reg.MOT_AX_CMD_RESULT a = 1 ∧
      (s.flag Reg.MOT_ERR_VALID 0 = false → t.rd Reg.MOT_ERR_CODE 0 = 3 ∧ t.rd Reg.MOT_ERR_AXIS 0 = a) ∧ t.axes = s.axes := by
  refine State.gives_of_exec (exec_axisMove hb) ?_
  rw [State.answerMove, if_neg (by simp [hfree]), if_pos hst]
  exact s.opTold_refuse a 1

theorem gives_axisMove_outside (s : State) (a : Fin 264) (hb : s.flag Reg.MOT_AX_CMD_BUSY a = false) (hfree : s.sledFree a = true)
    (hst : s.axState a = axIdle) (hheld : s.motionHeld = false) (hbad : s.badProfile a = false)
    (hfast : s.tooFast a (s.rdS Reg.MOT_AX_TARGET_VALUE a) = false)
    (hlim : s.inLimits a (s.rdS Reg.MOT_AX_TARGET_VALUE a) = false) : s.gives (.axisMove a) fun t => t.rd Reg.MOT_AX_CMD_RESULT a = 1 ∧
      (s.flag Reg.MOT_ERR_VALID 0 = false → t.rd Reg.MOT_ERR_CODE 0 = 2) ∧ t.axes = s.axes := by
  have hgo : s.answerMove a (s.rdS Reg.MOT_AX_TARGET_VALUE a) = (s.opTold a 1).axRefuse a 2 := by
    simp [State.answerMove, hfree, hst, hheld, hbad, hfast, hlim, axIdle, axUnref]
  obtain ⟨hres, herr, haxes⟩ := s.opTold_refuse a 1 (code := 2)
  refine State.gives_of_exec ((exec_axisMove hb).trans (congrArg Host.Outcome.next hgo)) ⟨hres, fun hv => (herr hv).1, haxes⟩

theorem gives_axisMove_sled_in_use (s : State) (a : Fin 264) (hb : s.flag Reg.MOT_AX_CMD_BUSY a = false) (hfree : s.sledFree a = false) :
    s.gives (.axisMove a) fun t => t.rd Reg.MOT_AX_CMD_RESULT a = 1 ∧
      (s.flag Reg.MOT_ERR_VALID 0 = false → t.rd Reg.MOT_ERR_CODE 0 = 5) ∧ t.axes = s.axes := by
  refine State.gives_of_exec (exec_axisMove hb) ?_
  rw [State.answerMove, if_pos (by simp [hfree])]
  obtain ⟨hres, herr, haxes⟩ := s.opTold_refuse a 1 (code := 5)
  exact ⟨hres, fun hv => (herr hv).1, haxes⟩

/-! ### STOP (R493) -/

theorem exec_axisStop {s : State} {a : Fin 264} (hst : s.axState a = axMoving) :
    exec (.axisStop a) s = .next ((s.opTold a 2).stopAxis a) := by
  have hmoves : (s.wr Reg.MOT_AX_CMD_OP a 2).axState a = axMoving := (s.opTold_axState a 2 a).trans hst
  rw [exec, execAxisStop, State.axGo_takes (.inr rfl), if_pos (.inl hmoves)]
  rfl

theorem gives_axisStop_unbegun (s : State) (a : Fin 264) (p : Plan) (hst : s.axState a = axMoving) (hheld : (s.axis a).held = none)
    (hp : (s.axis a).plan = some p) (hat : p.at_ = none) : s.gives (.axisStop a) fun t => t.axState a = axIdle ∧
      (t.axis a).plan = none ∧ t.flag Reg.MOT_AX_CMD_BUSY a = false ∧ (t.axis a).speed = 0 := by
  refine State.gives_of_exec (exec_axisStop hst) ?_
  rw [State.stopAxis_unbegun (s := s.opTold a 2) hheld hp hat, State.endPlan_axState, State.endPlan_axis, s.opTold_axState, hst]
  exact ⟨rfl, rfl, State.endPlan_busy .., rfl⟩

theorem gives_axisStop_running (s : State) (a : Fin 264) (p : Plan) (x : Nat) (hst : s.axState a = axMoving)
    (hheld : (s.axis a).held = none) (hp : (s.axis a).plan = some p) (hat : p.at_ = some x) (hcut : p.cut = none) :
    s.gives (.axisStop a) fun t => t.axState a = axMoving ∧ (t.axis a).plan = some (s.braked a p x) ∧ t.axPos a = s.axPos a := by
  refine State.gives_of_exec (exec_axisStop hst) ?_
  rw [State.stopAxis_running (s := s.opTold a 2) hheld hp hat, hcut, (s.opTold_keeps a 2).braked, State.putAxis_axis]
  exact ⟨(s.opTold_axState a 2 a).trans hst, rfl, (s.opTold_keeps a 2).axPos a⟩

/-! ### HOME, CLEAR and TARGET (R492, R506, R507, R511) -/

theorem exec_axisHome {s : State} {a : Fin 264} (hb : s.flag Reg.MOT_AX_CMD_BUSY a = false) (hfree : s.sledFree a = true)
    (hst : s.axState a = axUnref ∨ s.axState a = axIdle) (hheld : s.motionHeld = false) :
    exec (.axisHome a) s = .next (if isPicker a then if s.doorOk then (s.opBegun a 3).homePicker a else (s.opTold a 3).axRefuse a 6
      else (s.opBegun a 3).homeSled a none) := by
  have k : SameMoves s (s.wr Reg.MOT_AX_CMD_OP a 3) := (s.opTold_keeps a 3).sameMoves
  have hmay : ¬(s.axState a = axFault ∨ s.axState a = axDisabled ∨ s.axState a = axMoving ∨ s.axState a = axHoming ∨
      s.motionHeld = true) := by
    rcases hst with h | h <;> simp [h, hheld, axUnref, axIdle, axFault, axDisabled, axMoving, axHoming]
  rw [exec, execAxisHome]
  rw [State.axGo_takes (.inl hb), k.sledFree, k.held, k.doorOk, if_neg (by simp [hfree]), if_neg hmay]
  rfl

theorem gives_axisHome_sled (s : State) (a : Fin 264) (hb : s.flag Reg.MOT_AX_CMD_BUSY a = false) (hfree : s.sledFree a = true)
    (hst : s.axState a = axUnref ∨ s.axState a = axIdle) (hheld : s.motionHeld = false) (hm : s.mode ≠ mKiln) (ha : a.val < 256) :
    s.gives (.axisHome a) fun t => t.axState a = axHoming ∧ t.flag Reg.MOT_AX_CMD_BUSY a = true ∧
      (t.axis a).plan.map (fun p => p.a) = some (s.axPos a) := by
  refine State.gives_of_exec (exec_axisHome hb hfree hst hheld) ?_
  rw [if_neg (by simpa [isPicker] using ha)]
  obtain ⟨hhomes, hplan⟩ := State.homeSled_spec (s.opBegun_mode hm a 3) a none
  refine ⟨hhomes, ?_, hplan.trans (congrArg some ((s.opBegun_keeps a 3).axPos a))⟩
  exact ((State.homeSled_keeps ..).flag _ _ (by decide +kernel)).trans (s.opBegun_busy a 3)

theorem gives_axisHome_picker (s : State) (a : Fin 264) (hb : s.flag Reg.MOT_AX_CMD_BUSY a = false) (hfree : s.sledFree a = true)
    (hst : s.axState a = axUnref ∨ s.axState a = axIdle) (hheld : s.motionHeld = false) (hm : s.mode ≠ mKiln) (ha : 256 ≤ a.val)
    (hdoor : s.doorOk = true) : s.gives (.axisHome a) fun t => t.axState a = axHoming ∧ t.flag Reg.MOT_AX_CMD_BUSY a = true ∧
      (t.axis a).plan.map (fun p => p.a) = some (s.axPos a) := by
  refine State.gives_of_exec (exec_axisHome hb hfree hst hheld) ?_
  rw [if_pos (by simpa [isPicker] using ha), if_pos hdoor]
  refine ⟨State.homePicker_homes .., ?_, ?_⟩
  · exact ((State.homePicker_keeps ..).flag _ _ (by decide +kernel)).trans (s.opBegun_busy a 3)
  · exact (State.homePicker_plan (s.opBegun_mode hm a 3) a).trans (congrArg some ((s.opBegun_keeps a 3).axPos a))

theorem gives_axisClear (s : State) (a : Fin 264) (hb : s.flag Reg.MOT_AX_CMD_BUSY a = false) (hst : s.axState a = axFault)
    (hflt : (s.axis a).flt = false) : s.gives (.axisClear a) fun t => t.axState a = axUnref ∧ t.rd Reg.MOT_AX_CMD_RESULT a = 0 := by
  have hclear : (s.opTold a 4).axState a = axFault ∧ !((s.opTold a 4).axis a).flt :=
    ⟨(s.opTold_axState a 4 a).trans hst, by rw [s.opTold_axis, hflt]; rfl⟩
  have hex : exec (.axisClear a) s = .next (((s.opTold a 4).setAx a axUnref).wr Reg.MOT_AX_CMD_RESULT a 0) := by
    rw [exec, execAxisClear, State.axGo_takes (.inl hb)]
    exact congrArg Host.Outcome.next (if_pos hclear)
  exact State.gives_of_exec hex ⟨(State.rd_wr_ne _ _ _ _ _ _ (by decide)).trans (State.setAx_axState ..), State.rd_wr_same ..⟩

theorem gives_axisTargetWrite_resting (s : State) (a : Fin 264) (v : BitVec 32) (hmoves : s.flag Reg.MOT_AX_STATUS_MOVING a = false) :
    s.gives (.axisTargetWrite a v) fun t => t.rd Reg.MOT_AX_TARGET_VALUE a = v.toNat := by
  refine State.gives_of_exec (t := s.wr Reg.MOT_AX_TARGET_VALUE a v.toNat) ?_ ((State.rd_wr_same ..).trans (Nat.mod_eq_of_lt v.isLt))
  rw [exec, execAxisTargetWrite, if_neg (Bool.eq_false_iff.1 hmoves)]

theorem gives_axisTargetWrite_moving (s : State) (a : Fin 264) (v : BitVec 32) (hmoves : s.flag Reg.MOT_AX_STATUS_MOVING a = true) :
    s.gives (.axisTargetWrite a v) fun t => t.rd Reg.MOT_AX_TARGET_VALUE a = s.rd Reg.MOT_AX_TARGET_VALUE a ∧
      (s.flag Reg.MOT_ERR_VALID 0 = false → t.rd Reg.MOT_ERR_CODE 0 = 1) := by
  refine State.gives_of_exec (t := s.motErr a 1) ?_ ⟨(s.motErr_keeps a 1).rd _ _ (by decide +kernel), fun hfree => ?_⟩
  · rw [exec, execAxisTargetWrite, if_pos hmoves]
  · obtain ⟨-, hcode, -⟩ := State.motErr_spec hfree a 1
    exact hcode

/-! ### A move ends (R486) -/

/-- The plans of all axes are the same. -/
abbrev PlanKeeps (s t : State) : Prop := EachKeeps State.axis Axis.plan s t

namespace EachKeeps

variable {s t u : State}

/-- An operation that leaves the axes' records, after those before it. -/
theorem plans {m : Nat} (h : PlanKeeps s t) (k : Keeps m t u) (hm : m.testBit (Part.bit .axes) = false := by decide +kernel) :
    PlanKeeps s u := h.trans ⟨fun a => congrArg Axis.plan (k.axis a hm)⟩

/-- An axis's record replaced by one with the same plan, after other operations. -/
theorem putAxis {a : Nat} {x : Axis} (h : PlanKeeps s t) (hx : x.plan = (t.axis a).plan) : PlanKeeps s (t.putAxis a x) := by
  refine h.trans ⟨fun b => ?_⟩
  by_cases hb : a = b
  · subst hb
    exact (congrArg Axis.plan (State.putAxis_axis ..)).trans hx
  · exact congrArg Axis.plan (State.putAxis_axis_ne _ _ hb)

end EachKeeps

theorem State.setHd_plans (s : State) (h st : Nat) : PlanKeeps s (s.setHd h st) := by
  unfold State.setHd
  extract_lets s1
  have h1 : PlanKeeps s s1 := (EachKeeps.refl s).plans (Keeps.wr (m := fieldBits [Reg.STN_HD_STATUS_STATE]) (.refl _ _))
  have h2 : PlanKeeps s (s1.putAxis h { s1.axis h with speed := 0, accel := 0 }) := h1.putAxis rfl
  exact .ite (h1.plans (State.setAx_keeps ..)) (.ite (h2.plans (State.setAx_keeps ..)) h1)

theorem State.focusSweep_plans (s : State) (h : Nat) : PlanKeeps s (s.focusSweep h) := by
  unfold State.focusSweep
  extract_lets x s1 s2
  have h2 : PlanKeeps s s2 := ((EachKeeps.refl s).plans (State.gateHead_keeps ..)).plans (State.gateTrack_keeps ..)
  exact (h2.plans (State.putHead_keeps ..)).trans (State.setHd_plans ..)

theorem State.acquire_plans (s : State) (h : Nat) (r : HReq) : PlanKeeps s (s.acquire h r) := by
  unfold State.acquire
  extract_lets st x
  have h1 : PlanKeeps s ((s.parkGates h).clr Reg.STN_HD_POS_VALID h) :=
    (EachKeeps.refl s).plans (Keeps.clr (m := State.parkGates_mask ||| fieldBits [Reg.STN_HD_POS_VALID]) (Keeps.mono (s.parkGates_keeps h)))
  exact .ite ((h1.plans (State.putHead_keeps ..)).trans (State.focusSweep_plans ..)) (.refl s)

theorem State.mountGo_plans (s : State) (n : Nat) : PlanKeeps s (s.mountGo n) := by
  unfold State.mountGo
  exact .ite (EachKeeps.foldl (fun t h => .ite (State.acquire_plans ..) (.refl t)) (.refl s)) (.refl s)

def State.moveEnded_mask : Nat := State.axAtRest_mask ||| State.sledSettle_mask ||| State.mountGo_mask

theorem gives_axisMoveDone (s : State) (a : Fin 264) (p : Plan) (x : Nat) (hp : (s.axis a).plan = some p) (hend : p.endAt = some x)
    (hcut : p.cut = none) (hst : s.axState a = axMoving) (hgo : s.stepping a = true) (hdoor : s.lib.opening = false) :
    s.gives (.axisMoveDone a) fun t => t.axPos a = signed 32 (unsignedOf 32 p.b) ∧ (t.axis a).plan = none ∧
      t.flag Reg.MOT_AX_CMD_BUSY a = false ∧ x ≤ t.now := by
  let s1 := s.advanceTo x
  let s2 := s1.endPlan a p 0
  let s3 := ((s2.axAtRest a).sledSettle a).mountGo (a / 2)
  have hex : exec (.axisMoveDone a) s = .next s3.openDoor := by
    rw [exec, execAxisMoveDone]
    cases hafter : (s.axis a).after <;>
      simp [hp, hend, hcut, hst, hgo, axMoving, axHoming, s3, s2, s1]
  have k : Keeps State.moveEnded_mask s2 s3 := (State.mountGo_keeps ..).step ((State.sledSettle_keeps ..).step ((State.axAtRest_keeps ..).mono))
  have hplans : PlanKeeps s2 s3 :=
    EachKeeps.trans (((EachKeeps.refl s2).plans (s2.axAtRest_keeps a)).plans (State.sledSettle_keeps ..)) (State.mountGo_plans ..)
  have hlib : s3.lib = s.lib := calc
    s3.lib = s2.lib := k.part .lib (by decide +kernel)
    _ = s1.lib := (s1.endPlan_keeps a p 0).part .lib (by decide +kernel)
    _ = s.lib := (s.advanceTo_keeps x).part .lib (by decide +kernel)
  rw [State.openDoor_of_not_opening (by rw [hlib, hdoor])] at hex
  refine State.gives_of_exec hex ⟨(k.axPos a).trans (s1.endPlan_axPos a p 0), ?_, ?_, ?_⟩
  · rw [hplans.same, s1.endPlan_axis]
    rfl
  · exact (k.flag _ _ (by decide +kernel)).trans (s1.endPlan_busy a p 0)
  · rw [k.now, (s1.endPlan_keeps a p 0).now]
    exact s.le_advanceTo_now x

/-! ### A homing run ends (R506, R507) -/

/-- A homed axis is referenced and at rest, and its event is raised. -/
def State.homedAt (s : State) (a : Nat) (pos : Int) : State :=
  (((((s.wrS Reg.MOT_AX_POS_VALUE a pos).set1 Reg.MOT_AX_STATUS_REF a).putAxis a (s.axis a).atRest).axAtRest a).axDone a 0).raise
    0x0701 [a]

/-- What is left to do with the axis at rest. -/
def State.homedAt_mask : Nat := State.putAxis_mask ||| State.axAtRest_mask ||| State.axDone_mask ||| State.raise_mask

theorem State.homedAt_keeps (s : State) (a : Nat) (pos : Int) :
    Keeps State.homedAt_mask ((s.wrS Reg.MOT_AX_POS_VALUE a pos).set1 Reg.MOT_AX_STATUS_REF a) (s.homedAt a pos) :=
  (State.raise_keeps ..).step ((State.axDone_keeps ..).step ((State.axAtRest_keeps ..).step ((State.putAxis_keeps ..).mono)))

theorem State.homedAt_spec (s : State) (a : Nat) (pos : Int) : (s.homedAt a pos).flag Reg.MOT_AX_STATUS_REF a = true ∧
    (s.homedAt a pos).axPos a = signed 32 (unsignedOf 32 pos) ∧ ((s.homedAt a pos).axis a).plan = none ∧
    (s.homedAt a pos).now = s.now := by
  have k := s.homedAt_keeps a pos
  refine ⟨(k.flag _ _ (by decide +kernel)).trans (State.flag_set1 _ _ (by decide)), ?_, ?_, k.now⟩
  · rw [k.axPos, State.axPos, State.rdS, State.rd_set1_ne _ _ _ _ _ (by decide)]
    exact State.rdS_wrS ..
  · rw [State.homedAt, State.raise_axis, State.axDone_axis, State.axAtRest_axis, State.putAxis_axis]
    rfl

theorem State.homed_of_no_after {s : State} {a : Nat} (hafter : (s.axis a).after = none) (pos : Int) :
    s.homed a pos = (s.homedAt a pos).pickerHomed a := by
  simp only [State.homed, hafter]
  rfl

theorem gives_axisHomeDone_sled (s : State) (a : Fin 264) (p : Plan) (x f r : Nat) (b : Bool) (hst : s.axState a = axHoming)
    (hp : (s.axis a).plan = some p) (hend : p.endAt = some x) (hcut : p.cut = none) (hgo : s.stepping a = true) (ha : a.val < 256)
    (hafter : (s.axis a).after = none) : s.gives (.axisHomeDone a b r f) fun t => t.flag Reg.MOT_AX_STATUS_REF a = true ∧
      t.axPos a = 0 ∧ (t.axis a).plan = none ∧ x ≤ t.now ∧ t.lastEvent 0x0701 [a] := by
  have hsled : isPicker a = false := by simpa [isPicker] using ha
  have hrest : ((s.advanceTo x).homedAt a 0).pickerHomed a = (s.advanceTo x).homedAt a 0 := by
    rw [State.pickerHomed, hsled]
    rfl
  have hex : exec (.axisHomeDone a b r f) s = .next ((s.advanceTo x).homedAt a 0) := by
    rw [exec, execAxisHomeDone]
    obtain ⟨t0, hat, -⟩ := Option.map_eq_some_iff.1 hend
    simp [hp, hat, hend, hst, hcut, hgo, hsled, State.homed_of_no_after, hafter, hrest]
  obtain ⟨href, hpos, hplan, hnow⟩ := (s.advanceTo x).homedAt_spec a 0
  exact State.gives_of_exec hex ⟨href, hpos.trans (by decide), hplan, hnow ▸ s.le_advanceTo_now x, State.raise_lastEvent ..⟩

theorem gives_axisHomeDone_missed (s : State) (a : Fin 264) (p : Plan) (x f r : Nat) (hst : s.axState a = axHoming)
    (hp : (s.axis a).plan = some p) (hend : p.endAt = some x) (hcut : p.cut = none) (hgo : s.stepping a = true) (ha : 256 ≤ a.val)
    (hdoor : s.lib.opening = false) : s.gives (.axisHomeDone a false r f) fun t => t.axState a = axUnref ∧ (t.axis a).plan = none ∧
      x ≤ t.now ∧ t.lastEvent 0x0702 [a] := by
  let s1 := s.advanceTo x
  let s2 := s1.endPlan a p 2
  let s3 := (s2.wr Reg.LIB_PK_STATE ((a.val - 256) / 4) 0).raise 0x0702 [a]
  have hpick : isPicker a = true := by simpa [isPicker] using ha
  have hex : exec (.axisHomeDone a false r f) s = .next s3.openDoor := by
    rw [exec, execAxisHomeDone]
    obtain ⟨t0, hat, -⟩ := Option.map_eq_some_iff.1 hend
    simp [hp, hat, hend, hst, hcut, hgo, hpick, s3, s2, s1]
  have k : Keeps (State.raise_mask ||| fieldBits [Reg.LIB_PK_STATE]) s2 s3 := (State.raise_keeps ..).step (Keeps.wr (.refl _ _))
  have hlib : s3.lib = s.lib := calc
    s3.lib = s2.lib := k.part .lib (by decide +kernel)
    _ = s1.lib := (s1.endPlan_keeps a p 2).part .lib (by decide +kernel)
    _ = s.lib := (s.advanceTo_keeps x).part .lib (by decide +kernel)
  rw [State.openDoor_of_not_opening (by rw [hlib, hdoor])] at hex
  refine State.gives_of_exec hex ⟨?_, ?_, ?_, State.raise_lastEvent ..⟩
  · rw [k.axState, s1.endPlan_axState, if_pos (((s.advanceTo_keeps x).axState a).trans hst)]
  · rw [k.axis, s1.endPlan_axis]
    rfl
  · rw [k.now, (s1.endPlan_keeps a p 2).now]
    exact s.le_advanceTo_now x

theorem gives_axisHomeDone_found (s : State) (a : Fin 264) (p : Plan) (x f r : Nat) (hst : s.axState a = axHoming)
    (hp : (s.axis a).plan = some p) (hat : p.at_ = some x) (hcut : p.cut = none) (hgo : s.stepping a = true) (ha : 256 ≤ a.val)
    (hafter : (s.axis a).after = none) (hdoor : s.lib.opening = false) : s.gives (.axisHomeDone a true r f) fun t =>
      t.flag Reg.MOT_AX_STATUS_REF a = true ∧ t.axPos a = s.rdS Reg.MOT_AX_HOME_POS_VALUE a ∧ x + f ≤ t.now := by
  let s1 := s.advanceTo (x + f)
  let s2 := s1.emitHoming a p x r f
  let pos := s.rdS Reg.MOT_AX_HOME_POS_VALUE a
  let s3 := (s2.homedAt a pos).pickerHomed a
  have hpick : isPicker a = true := by simpa [isPicker] using ha
  have hend : p.endAt = some (x + 4 * p.time p.steps) := by rw [Plan.endAt, hat]; rfl
  have k2 : Keeps State.emitHoming_mask s1 s2 := s1.emitHoming_keeps ..
  have hafter2 : (s2.axis a).after = none := by rw [k2.axis, State.advanceTo_axis, hafter]
  have k3 : Keeps State.pickerHomed_mask (s2.homedAt a pos) s3 := State.pickerHomed_keeps ..
  have hex : exec (.axisHomeDone a true r f) s = .next s3.openDoor := by
    rw [exec, execAxisHomeDone]
    simp [hp, hat, hend, hst, hcut, hgo, hpick, s3, s2, s1, pos, ← State.homed_of_no_after hafter2]
  have hlib : s3.lib = s.lib := calc
    s3.lib = s2.lib := (s2.homed_of_no_after hafter2 pos ▸ s2.homed_keeps a pos).part .lib (by decide +kernel)
    _ = s1.lib := k2.part .lib (by decide +kernel)
    _ = s.lib := (s.advanceTo_keeps _).part .lib (by decide +kernel)
  rw [State.openDoor_of_not_opening (by rw [hlib, hdoor])] at hex
  obtain ⟨href, hpos, -, hnow⟩ := s2.homedAt_spec a pos
  refine State.gives_of_exec hex ⟨(k3.flag _ _ (by decide +kernel)).trans href, ?_, ?_⟩
  · exact ((k3.axPos a).trans hpos).trans (signed_unsignedOf_signed ..)
  · rw [k3.now, hnow, k2.now]
    exact s.le_advanceTo_now _

/-! ### The fault input of a picker axis (R509) -/

@[simp] theorem State.freezePlan_axis (s : State) (a : Nat) : (s.freezePlan a).axis a =
    { s.axis a with plan := none, after := none, speed := 0, demand := 0, accel := 0, held := none } := by
  unfold State.freezePlan
  extract_lets x s0
  have h0 : s0.axis a = { s.axis a with plan := none, after := none, speed := 0, demand := 0, accel := 0, held := none } :=
    State.putAxis_axis ..
  split
  · rw [State.wr_axis, State.wrS_axis, State.emitSteps_axis, h0]
  · exact h0

/-- Whether the fault input is 1 stays as it was, and no plan begins. -/
theorem State.loseRef_axis (s : State) (a why : Nat) : ((s.loseRef a why).axis a).flt = (s.axis a).flt ∧
    ((s.axis a).plan = none → ((s.loseRef a why).axis a).plan = none) := by
  rw [State.loseRef]
  split
  · rw [State.raise_axis, State.putAxis_axis]
    exact ⟨rfl, fun _ => rfl⟩
  · exact ⟨rfl, id⟩

theorem gives_axisFaultInput_rises (s : State) (j : Fin 8) : s.gives (.axisFaultInput j true) fun t =>
    t.axState (256 + j) = axFault ∧ (t.axis (256 + j)).flt = true ∧ (t.axis (256 + j)).plan = none ∧
      t.rd Reg.LIB_PK_STATE (pickerOf (256 + j)) = 5 := by
  rw [State.gives, exec]
  unfold execAxisFaultInput
  extract_lets a x s1 s2 s3 m s4 s5 mine s6
  refine ⟨_, rfl, ?_⟩
  have hfrozen : (s1.axis a).flt = true ∧ (s1.axis a).plan = none := by
    unfold s1
    rw [State.freezePlan_axis, State.putAxis_axis]
    exact ⟨rfl, rfl⟩
  have hfault : s2.axState a = axFault ∧ (s2.axis a).flt = true ∧ (s2.axis a).plan = none := by
    obtain ⟨hflt, hplan⟩ := hfrozen
    obtain ⟨hkept, hnone⟩ := State.loseRef_axis (s1.clr Reg.MOT_AX_CTRL_EN a) a 1
    exact ⟨State.setAx_axState .., hkept.trans hflt, hnone hplan⟩
  have h4 : AxisKept a s2 s4 := by
    refine List.foldlRecOn (motive := AxisKept a s2) _ _ ?_ fun t ht b _ => ?_
    · exact ((AxisKept.refl s2).keeps (s2.axDone_keeps a 2)).keeps (State.raise_keeps ..)
    · split
      · exact ht
      · next hne => exact ht.trans (t.stopAxis_ne hne)
  have k6 : Keeps State.fail_mask s5 s6 := by
    refine Keeps.foldl (fun t r => ?_) (.refl _ _)
    split
    · exact State.fail_keeps ..
    · exact .refl _ _
  have h6 : AxisKept a s2 s6 := (h4.wr).keeps k6
  obtain ⟨hst, hflt, hplan⟩ := hfault
  refine ⟨h6.axState.trans hst, (congrArg Axis.flt h6.axis).trans hflt, (congrArg Axis.plan h6.axis).trans hplan, ?_⟩
  exact (k6.rd _ _ (by decide +kernel)).trans (State.rd_wr_same ..)

theorem gives_axisFaultInput_falls (s : State) (j : Fin 8) : s.gives (.axisFaultInput j false) fun t =>
    (t.axis (256 + j)).flt = false ∧ t.axState (256 + j) = s.axState (256 + j) := by
  refine State.gives_of_exec (t := s.putAxis (256 + j) { s.axis (256 + j) with flt := false }) rfl ⟨?_, rfl⟩
  rw [State.putAxis_axis]

/-! ### STOP_ALL (R530) -/

/-- A listed element's turn brings something about, where what it needs for it is left by the turns of the others, and what it brings
about is left by every turn. -/
theorem foldl_turn {α σ : Type} [DecidableEq α] {f : σ → α → σ} {ready done : σ → Prop} {a : α}
    (hready : ∀ t b, b ≠ a → ready t → ready (f t b)) (hmake : ∀ t, ready t → done (f t a)) (hdone : ∀ t b, done t → done (f t b))
    {l : List α} (ha : a ∈ l) {s : σ} (hs : ready s) : done (l.foldl f s) := by
  induction l generalizing s with
  | nil => cases ha
  | cons b r ih =>
    rw [List.foldl_cons]
    by_cases hb : b = a
    · subst hb
      exact List.foldlRecOn r f (hmake s hs) fun t ht b _ => hdone t b ht
    · exact ih ((List.mem_cons.1 ha).resolve_left (Ne.symm hb)) (hready s b hb hs)

/-- An axis with a plan is one of those that STOP_ALL goes through. -/
theorem State.axis_listed {s : State} {a : Nat} {p : Plan} (hp : (s.axis a).plan = some p) : a ∈ s.axes.map Prod.fst := by
  rcases mget_eq_or_mem {} s.axes a with h | h
  · rw [State.axis, h] at hp
    cases hp
  · exact List.mem_map.2 ⟨_, h, rfl⟩

/-- The state of an axis as its turn finds it: the record, and what a deceleration is reckoned from. -/
structure StopsAs (s t : State) (a : Nat) : Prop where
  axis : t.axis a = s.axis a
  braked : ∀ p x, t.braked a p x = s.braked a p x

theorem StopsAs.stopAxis {s t : State} {a b : Nat} (hne : b ≠ a) (h : StopsAs s t a) : StopsAs s (t.stopAxis b) a :=
  ⟨(t.stopAxis_ne hne).axis.trans h.axis, fun p x => ((t.stopAxis_keeps b).braked a p x).trans (h.braked p x)⟩

theorem State.stopAll_now (s : State) : s.stopAll.now = s.now := s.stopAll_keeps.now

theorem gives_motionStopAll_running (s : State) (a x : Nat) (p : Plan) (hheld : (s.axis a).held = none) (hp : (s.axis a).plan = some p)
    (hat : p.at_ = some x) (hcut : p.cut = none) :
    s.gives .motionStopAll fun t => (t.axis a).plan = some (s.braked a p x) ∧ t.now = s.now := by
  have hstop : (s.stopAll.axis a).held = none ∧ (s.stopAll.axis a).plan = some (s.braked a p x) := by
    refine foldl_turn (ready := fun t => StopsAs s t a)
      (done := fun t => (t.axis a).held = none ∧ (t.axis a).plan = some (s.braked a p x))
      (fun t b => StopsAs.stopAxis) (fun t ht => ?_) (fun t b ht => ?_) (State.axis_listed hp) ⟨rfl, fun _ _ => rfl⟩
    · rw [State.stopAxis_running (ht.axis ▸ hheld) (ht.axis ▸ hp) hat, State.putAxis_axis, ht.axis, ht.braked, hcut]
      exact ⟨hheld, rfl⟩
    · obtain ⟨hh, hpl⟩ := ht
      by_cases hb : b = a
      · subst hb
        rw [State.stopAxis_running hh hpl hat, State.putAxis_axis]
        exact ⟨hh, hpl⟩
      · rw [(t.stopAxis_ne hb).axis]
        exact ⟨hh, hpl⟩
  exact State.gives_of_exec rfl ⟨hstop.2, s.stopAll_now⟩

theorem gives_motionStopAll_unbegun (s : State) (a : Nat) (p : Plan) (hheld : (s.axis a).held = none) (hp : (s.axis a).plan = some p)
    (hat : p.at_ = none) : s.gives .motionStopAll fun t => (t.axis a).plan = none ∧ t.now = s.now := by
  have hstop : (s.stopAll.axis a).held = none ∧ (s.stopAll.axis a).plan = none := by
    refine foldl_turn (ready := fun t => StopsAs s t a) (done := fun t => (t.axis a).held = none ∧ (t.axis a).plan = none)
      (fun t b => StopsAs.stopAxis) (fun t ht => ?_) (fun t b ht => ?_) (State.axis_listed hp) ⟨rfl, fun _ _ => rfl⟩
    · rw [State.stopAxis_unbegun (ht.axis ▸ hheld) (ht.axis ▸ hp) hat, State.endPlan_axis, ht.axis]
      exact ⟨hheld, rfl⟩
    · obtain ⟨hh, hpl⟩ := ht
      by_cases hb : b = a
      · subst hb
        exact State.stopAxis_planless hh hpl
      · rw [(t.stopAxis_ne hb).axis]
        exact ⟨hh, hpl⟩
  exact State.gives_of_exec rfl ⟨hstop.2, s.stopAll_now⟩

/-! ### Steps are sent (R141, R498) -/

theorem gives_stepSend_follow_rest (s : State) (n : Fin 128) (b : Fin 2) (k : Nat) (hact : s.active n = true)
    (hen : s.flag Reg.MOT_CTRL_EN 0 = true) (hp : (s.axis (2 * n + b)).plan = none) (hst : s.axState (2 * n + b) = axFollow)
    (hd : (s.axis (2 * n + b)).demand = 0) : s.gives (.stepSend n b k) fun t => (t.axis (2 * n + b)).speed = 0 ∧
      t.rd Reg.MOT_AX_STATUS_SPEED (2 * n + b) = 0 ∧ t.out = s.out := by
  have hex : exec (.stepSend n b k) s = .next ((s.putAxis (2 * n + b) { s.axis (2 * n + b) with speed := 0, accel := 0 }).wr
      Reg.MOT_AX_STATUS_SPEED (2 * n + b) 0) := by
    rw [exec, execStepSend]
    simp [hact, hen, hp, hst, hd]
  refine State.gives_of_exec hex ⟨?_, State.rd_wr_same .., rfl⟩
  rw [State.wr_axis, State.putAxis_axis]

/-- A plan with a step left has entries to send. -/
theorem planEntries_nonempty {l : Nat} {p : Plan} (hl : 0 < l) (hnext : p.next ≤ p.steps) (phase : Nat) :
    (planEntries l p phase).1.isEmpty = false := by
  obtain ⟨k, rfl⟩ := Nat.exists_eq_succ_of_ne_zero hl.ne'
  rw [planEntries, if_neg (Nat.not_lt.2 hnext)]
  rfl

theorem State.sendPlan_none (s : State) (n side t0 k : Nat) : State.sendPlan n side t0 k 0 s = s := by
  cases k with
  | zero => rfl
  | succ k =>
    rw [State.sendPlan]
    dsimp only
    split
    · rfl
    · rw [if_pos]
      simp [planEntries]

/-- Entries that fit into one message, and into the front end's queue, go out in one. -/
theorem State.sendPlan_one {s : State} {n side t0 k l : Nat} {p : Plan} (hp : (s.axis (2 * n + side)).plan = some p) (hpos : 0 < l)
    (hmsg : l ≤ 16) (hroom : l ≤ s.stepRoom n (2 * n + side)) (hnext : p.next ≤ p.steps) :
    State.sendPlan n side t0 (k + 1) l s = (s.putAxis (2 * n + side) { s.axis (2 * n + side) with
      plan := some (planEntries l p (s.axis (2 * n + side)).phase).2.1,
      phase := (planEntries l p (s.axis (2 * n + side)).phase).2.2 }).sendStep n side (t0 + 4 * p.time p.next)
        (planEntries l p (s.axis (2 * n + side)).phase).1 := by
  have hm : min (min l 16) (s.stepRoom n (2 * n + side)) = l := by omega
  rw [State.sendPlan]
  simp only [hp, hm, planEntries_nonempty hpos hnext, Nat.sub_self, State.sendPlan_none, Bool.false_eq_true, if_false]

/-- A STEP message that goes out leaves the axis's plan and phase, and awaits its acknowledgement. -/
theorem State.sendStep_spec (s : State) (n side due : Nat) {blocks : List Nat} (hb : blocks.isEmpty = false) :
    ((s.sendStep n side due blocks).axis (2 * n + side)).plan = (s.axis (2 * n + side)).plan ∧
      ((s.sendStep n side due blocks).axis (2 * n + side)).phase = (s.axis (2 * n + side)).phase ∧
      ((s.sendStep n side due blocks).stn n).stepUnacked.map Unacked.blocks = (s.stn n).stepUnacked.map Unacked.blocks ++ [blocks] := by
  rw [State.sendStep, if_neg (Bool.eq_false_iff.1 hb)]
  extract_lets q s1 x a y s2
  have haxis : s1.axis a = s.axis a := (State.send_keeps ..).axis a
  have hunacked : x.stepUnacked = (s.stn n).stepUnacked := by
    unfold x s1
    rw [State.send_stn]
  obtain ⟨hplan, hphase⟩ : (s2.axis a).plan = (s1.axis a).plan ∧ (s2.axis a).phase = (s1.axis a).phase := by
    unfold s2
    rw [State.putAxis_axis]
    exact ⟨rfl, rfl⟩
  refine ⟨?_, ?_, ?_⟩
  · exact hplan.trans (congrArg Axis.plan haxis)
  · exact hphase.trans (congrArg Axis.phase haxis)
  · rw [State.putStn_stn, List.map_append, hunacked]
    rfl

theorem gives_stepSend_plan (s : State) (n : Fin 128) (b : Fin 2) (k x l : Nat) (p : Plan) (hact : s.active n = true)
    (hen : s.flag Reg.MOT_CTRL_EN 0 = true) (hp : (s.axis (2 * n + b)).plan = some p) (hat : p.at_ = some x)
    (hl : l = max k (p.reached x (s.now + 40000) 32 0 + 1 - p.next)) (hpos : 0 < l) (hmsg : l ≤ 16)
    (hroom : l ≤ s.stepRoom n (2 * n + b)) (hnext : p.next ≤ p.steps) : s.gives (.stepSend n b k) fun t =>
      (t.axis (2 * n + b)).plan = some (planEntries l p (s.axis (2 * n + b)).phase).2.1 ∧
      (t.axis (2 * n + b)).phase = (planEntries l p (s.axis (2 * n + b)).phase).2.2 ∧
      (t.stn n).stepUnacked.map Unacked.blocks = (s.stn n).stepUnacked.map Unacked.blocks ++
        [(planEntries l p (s.axis (2 * n + b)).phase).1] := by
  have hex : exec (.stepSend n b k) s = .next (State.sendPlan n b x 16 l s) := by
    rw [exec, execStepSend, hl]
    simp [hact, hen, hp, hat]
  refine State.gives_of_exec (hex.trans (congrArg Host.Outcome.next (State.sendPlan_one hp hpos hmsg hroom hnext))) ?_
  obtain ⟨hplan, hphase, hunacked⟩ := State.sendStep_spec (s.putAxis (2 * n + b) { s.axis (2 * n + b) with
    plan := some (planEntries l p (s.axis (2 * n + b)).phase).2.1, phase := (planEntries l p (s.axis (2 * n + b)).phase).2.2 }) n b
    (x + 4 * p.time p.next) (planEntries_nonempty hpos hnext (s.axis (2 * n + b)).phase)
  rw [State.putAxis_axis] at hplan hphase
  exact ⟨hplan, hphase, hunacked⟩

/-- Settles O40, clause by clause: MOVE answers by its conditions, STOP cuts or ends the plan, runs end at their targets, the fault input
freezes the plan, STOP_ALL gives every axis its turn, and entries go out as far as there is room. -/
theorem motionEngineMoves : Obligations.MotionEngineMoves :=
  ⟨gives_axisMove_starts, gives_axisMove_unreferenced, gives_axisMove_outside, gives_axisMove_sled_in_use, gives_axisStop_unbegun,
    gives_axisStop_running, gives_axisHome_sled, gives_axisHome_picker, gives_axisClear, gives_axisTargetWrite_resting,
    gives_axisTargetWrite_moving, gives_axisMoveDone, gives_axisHomeDone_sled, gives_axisHomeDone_missed, gives_axisHomeDone_found,
    gives_axisFaultInput_rises, gives_axisFaultInput_falls, gives_motionStopAll_running, gives_motionStopAll_unbegun,
    gives_stepSend_follow_rest, gives_stepSend_plan⟩

end Sys2Proof.Machine
end

section
/-!
PROOF. The library's door, its transfers and the ends of commands (O54, O55): the rules that both are made of.
-/

set_option Elab.async false

namespace Sys2Proof.Machine

theorem Keeps.now_le {m : Nat} {s t : State} (k : Keeps m s t) : s.now ≤ t.now := by
  obtain ⟨-, -, -, -, h, -⟩ := k
  exact h

/-! ### A command of this cell's own host ends (R525) -/

/-- The end of a command that is not over fixes its outcome. -/
theorem State.finish_open_ended {s : State} {sq tag : Nat} {c : Cmd} (hc : s.cmd? sq tag = some c) (hp : c.phase ≠ .fixed)
    (hl : c.local = true) (status a b field : Nat) : (s.finish sq tag status a b field).ended sq tag status a b field := by
  simp only [Cmd.local, Bool.and_eq_true, Bool.not_eq_true', Option.isNone_iff_eq_none] at hl
  obtain ⟨hsilent, horigin⟩ := hl
  have hcmds : (s.finish sq tag status a b field).cmds = (s.updCmd sq tag (Cmd.fixedAs status a b field)).cmds := by
    simp only [State.finish, hc, hp, hsilent, horigin, Option.isSome_none, Bool.false_eq_true, if_false]
    split <;> rfl
  have hupd := s.cmd?_updCmd sq tag (f := Cmd.fixedAs status a b field) fun _ => ⟨rfl, rfl⟩
  rw [State.ended, State.cmd?_congr hcmds, hupd, hc]
  rfl

/-- What an operation behind the end of a command leaves of its outcome. -/
theorem State.ended_congr {s t : State} (h : t.cmds = s.cmds) {sq tag status a b field : Nat} (hs : s.ended sq tag status a b field) :
    t.ended sq tag status a b field := by rwa [State.ended, State.cmd?_congr h]

/-- The command of a transfer that fails ends with LIBRARY_FAULT. -/
theorem State.failTransfer_ended {s : State} {x : Transfer} {sq tag : Nat} {c : Cmd} (hx : x.cmd = some (sq, tag))
    (hc : s.cmd? sq tag = some c) (hp : c.phase ≠ .fixed) (hl : c.local = true) :
    (s.failTransfer x).ended sq tag stLibraryFault 0 0 0 := by
  rw [State.failTransfer, hx]
  exact State.finish_open_ended hc hp hl ..

/-! ### Discs and transfers -/

/-- A disc's location is the one given last. -/
theorem State.setLoc_disc (s : State) (d : Nat) (l : DiscLoc) : (s.setLoc d l).disc d = { s.disc d with loc := l } := by
  unfold State.setLoc
  extract_lets y x s1 home
  have h1 : s1.disc d = x := State.putDisc_disc ..
  split
  · exact h1
  · split
    · exact ((State.ringSend_keeps ..).disc d).trans h1
    · exact h1

theorem State.placeOf_slot (s : State) {cell loc : Nat} (h : locKind loc = 0) : s.placeOf cell loc = .home := by
  rw [State.placeOf, h]
  rfl

/-- The transfer put stands among the transfers, in the place of the one with its number. -/
theorem State.mem_putTransfer {s : State} {x y : Transfer} (hx : x ∈ s.lib.transfers) (hid : y.id = x.id) :
    y ∈ (s.putTransfer y).lib.transfers :=
  List.mem_map.2 ⟨x, hx, by rw [hid, beq_self_eq_true, if_pos rfl]⟩

/-- No other transfer has the number of the one put. -/
theorem State.eq_of_mem_putTransfer {s : State} {y z : Transfer} (hz : z ∈ (s.putTransfer y).lib.transfers) (hid : z.id = y.id) :
    z = y := by
  obtain ⟨w, -, rfl⟩ := List.mem_map.1 hz
  split at hid
  · next h => rw [if_pos h]
  · next h => exact absurd (beq_iff_eq.2 hid) h

/-- No transfer has the number of the one dropped. -/
theorem State.ne_of_mem_dropTransfer {s : State} {x z : Transfer} (hz : z ∈ (s.dropTransfer x).lib.transfers) : z.id ≠ x.id := by
  simpa using (List.mem_filter.1 hz).2

/-! ### The door opens (R515) -/

/-- The pickers that are IDLE or HELD park. -/
def State.parkIdle (s : State) : State :=
  [0, 1].foldl (fun t m => if t.rd Reg.LIB_PK_STATE m == 2 || t.rd Reg.LIB_PK_STATE m == 6 then t.pkPark m else t) s

theorem State.parkIdle_keeps (s : State) : Keeps State.pkPark_mask s s.parkIdle :=
  Keeps.foldl (fun _ _ => Keeps.ite (State.pkPark_keeps ..) (.refl _ _)) (.refl _ _)

/-- The library once its door is open: nobody is locked out, and the door is no longer asked for. -/
def Lib.doorOpen (l : Lib) : Lib := { l with opening := false, lockOut := false }

/-- Steps 3 and 4 of R515. -/
def State.doorOpened (s : State) : State :=
  (((({ s.parkIdle with lib := s.parkIdle.lib.doorOpen } : State).set1 Reg.LIB_DOOR_OPEN_READY 0).clr
    Reg.LIB_STATUS_DOOR_LOCKED 0).raise 0x0709 [0])

theorem State.openDoor_eq (s : State) : s.openDoor = s ∨ s.openDoor = s.doorOpened := by
  rw [State.openDoor]
  split
  · exact .inr rfl
  · exact .inl rfl

/-- With no transfer in progress and the picker axes at rest the door that is asked for opens. -/
theorem State.openDoor_opens {s : State} (hask : s.lib.opening = true) (hrest : s.pkRest = true)
    (hnone : ∀ x ∈ s.lib.transfers, x.step = 0) : s.openDoor = s.doorOpened := by
  have hidle : (s.lib.transfers.any fun t => t.step != 0) = false := by
    simpa using hnone
  rw [State.openDoor, hask, hrest, hidle]
  rfl

theorem State.doorOpened_lib (s : State) : s.doorOpened.lib = s.lib.doorOpen := by
  have h : s.doorOpened.lib = s.parkIdle.lib.doorOpen := (State.raise_keeps ..).part .lib (by decide +kernel)
  rw [h, s.parkIdle_keeps.part .lib (by decide +kernel)]

theorem State.openDoor_transfers (s : State) : s.openDoor.lib.transfers = s.lib.transfers := by
  rcases s.openDoor_eq with h | h
  · rw [h]
  · rw [h, s.doorOpened_lib]
    rfl

/-! A picker in FAULT or HELD stays so (R520). -/

theorem State.pkPark_state_ne (s : State) {m k : Nat} (hne : m ≠ k) : (s.pkPark m).rd Reg.LIB_PK_STATE k = s.rd Reg.LIB_PK_STATE k := by
  rw [State.pkPark]
  split
  · split
    · exact (State.motErr_keeps ..).rd _ _ (by decide +kernel)
    · extract_lets s1
      have h1 : s1.rd Reg.LIB_PK_STATE k = s.rd Reg.LIB_PK_STATE k :=
        (State.rd_wr_ne _ _ _ _ _ _ (by decide)).trans
          (((State.pkMove_keeps ..).rd _ _ (by decide +kernel)).trans ((State.pkIn_keeps ..).rd _ _ (by decide +kernel)))
      split
      · exact h1
      · exact (State.rd_wr_inst _ _ _ _ _ hne).trans h1
  · rfl

theorem State.pkPark_held {s : State} {m : Nat} (h : s.rd Reg.LIB_PK_STATE m = 6) : (s.pkPark m).rd Reg.LIB_PK_STATE m = 6 := by
  rw [State.pkPark]
  split
  · split
    · exact ((State.motErr_keeps ..).rd _ _ (by decide +kernel)).trans h
    · extract_lets s1
      rw [if_pos (.inr h)]
      exact (State.rd_wr_ne _ _ _ _ _ _ (by decide)).trans
        (((State.pkMove_keeps ..).rd _ _ (by decide +kernel)).trans (((State.pkIn_keeps ..).rd _ _ (by decide +kernel)).trans h))
  · exact h

theorem State.parkIdle_held {s : State} {m : Nat} (h : s.rd Reg.LIB_PK_STATE m = 6) : s.parkIdle.rd Reg.LIB_PK_STATE m = 6 := by
  refine List.foldlRecOn (motive := fun t : State => t.rd Reg.LIB_PK_STATE m = 6) _ _ h fun t ht k _ => ?_
  split
  · by_cases hk : k = m
    · subst hk
      exact State.pkPark_held ht
    · exact (t.pkPark_state_ne hk).trans ht
  · exact ht

theorem State.openDoor_held {s : State} {m : Nat} (h : s.rd Reg.LIB_PK_STATE m = 6) : s.openDoor.rd Reg.LIB_PK_STATE m = 6 := by
  rcases s.openDoor_eq with heq | heq
  · rw [heq, h]
  · rw [heq]
    calc s.doorOpened.rd Reg.LIB_PK_STATE m
      _ = s.parkIdle.rd Reg.LIB_PK_STATE m := (State.raise_keeps ..).rd _ _ (by decide +kernel) |>.trans <|
          (State.rd_clr_ne _ _ _ _ _ (by decide)).trans (State.rd_set1_ne _ _ _ _ _ (by decide))
      _ = 6 := State.parkIdle_held h

/-! ### A transfer is over (R518) -/

theorem State.closed_lib (s : State) (x : Transfer) (m pk : Nat) :
    (((s.dropTransfer x).transferRecord x 3).wr Reg.LIB_PK_STATE m pk).lib = (s.dropTransfer x).lib :=
  ((s.dropTransfer x).transferRecord_keeps x 3).part .lib (by decide +kernel)

theorem State.endTransfer_drops {s : State} {x y : Transfer} {m pk : Nat} (hy : y ∈ (s.endTransfer x m pk true).lib.transfers) :
    y.id ≠ x.id := by
  rw [State.endTransfer, if_pos rfl, State.openDoor_transfers, State.closed_lib] at hy
  exact State.ne_of_mem_dropTransfer hy

theorem State.endTransfer_held (s : State) (x : Transfer) (m : Nat) (closed : Bool) :
    (s.endTransfer x m 6 closed).rd Reg.LIB_PK_STATE m = 6 := by
  rw [State.endTransfer]
  exact State.openDoor_held ((State.rd_wr_same ..).trans (by decide))

/-- Where the door is not asked for, the picker is in the state given. -/
theorem State.endTransfer_state {s : State} (h : s.lib.opening = false) (x : Transfer) (m : Nat) {pk : Nat} (hpk : pk < 8 := by decide) :
    (s.endTransfer x m pk true).rd Reg.LIB_PK_STATE m = pk := by
  rw [State.endTransfer, if_pos rfl, State.openDoor_of_not_opening (by rw [State.closed_lib]; exact h), State.rd_wr_same]
  exact Nat.mod_eq_of_lt hpk

end Sys2Proof.Machine
end
section
/-!
PROOF. The library is enabled, its door opens and locks, and transfers and inventories begin, wait and end (O54).
-/

set_option Elab.async false

namespace Sys2Proof.Machine

/-! ### LIB_CTRL.EN (R507, R531) -/

/-- REACH of a picker homes, and the picker with it. -/
def State.homesPicker (s : State) (m : Nat) : State := (s.wr Reg.LIB_PK_STATE m 1).homePicker (pkAxis m 2)

def State.homesPicker_mask : Nat := State.homePicker_mask ||| fieldBits [Reg.LIB_PK_STATE]

theorem State.homesPicker_keeps (s : State) (m : Nat) : Keeps State.homesPicker_mask s (s.homesPicker m) :=
  (State.homePicker_keeps ..).step (Keeps.wr (.refl _ _))

theorem State.homesPicker_spec (s : State) (m : Nat) :
    (s.homesPicker m).axState (pkAxis m 2) = axHoming ∧ (s.homesPicker m).rd Reg.LIB_PK_STATE m = 1 :=
  ⟨State.homePicker_homes .., ((State.homePicker_keeps ..).rd _ _ (by decide +kernel)).trans (State.rd_wr_same ..)⟩

theorem State.homesPicker_ne (s : State) {m k : Nat} (hne : m ≠ k) :
    (s.homesPicker m).axState (pkAxis k 2) = s.axState (pkAxis k 2) ∧
      (s.homesPicker m).rd Reg.LIB_PK_STATE k = s.rd Reg.LIB_PK_STATE k := by
  have hax : pkAxis m 2 ≠ pkAxis k 2 := by simp only [pkAxis]; omega
  exact ⟨((s.wr Reg.LIB_PK_STATE m 1).homePicker_ne hax).axState.trans (State.rd_wr_ne _ _ _ _ _ _ (by decide)),
    ((State.homePicker_keeps ..).rd _ _ (by decide +kernel)).trans (State.rd_wr_inst _ _ _ _ _ hne)⟩

/-- Both pickers home where the door allows it and their REACH axes are without their reference. -/
theorem State.homePickers_both {s : State} (hdoor : s.doorOk = true) (h0 : s.axState (pkAxis 0 2) = axUnref)
    (h1 : s.axState (pkAxis 1 2) = axUnref) : s.homePickers [0, 1] = (s.homesPicker 0).homesPicker 1 := by
  have hdoor1 : (s.homesPicker 0).doorOk = true := by
    have k := s.homesPicker_keeps 0
    rwa [State.doorOk, k.flag _ _ (by decide +kernel), k.flag _ _ (by decide +kernel), k.part .lib (by decide +kernel)]
  have h1' : (s.homesPicker 0).axState (pkAxis 1 2) = axUnref := (s.homesPicker_ne (by decide)).1.trans h1
  have hgo : ∀ (t : State) (m : Nat), t.doorOk = true → t.axState (pkAxis m 2) = axUnref →
      (t.doorOk && t.axState (pkAxis m 2) != axDisabled && t.axState (pkAxis m 2) != axFault) = true := fun t m hd hu => by
    rw [hd, hu]
    decide
  rw [State.homePickers, List.foldl_cons, if_pos (hgo s 0 hdoor h0)]
  exact if_pos (hgo (s.homesPicker 0) 1 hdoor1 h1')

theorem gives_libraryEnable (s : State) (m : Fin 2) (hdoor : s.doorOk = true) (h0 : s.axState (pkAxis 0 2) = axUnref)
    (h1 : s.axState (pkAxis 1 2) = axUnref) : s.gives .libraryEnable fun t => t.flag Reg.LIB_CTRL_EN 0 = true ∧
      t.axState (pkAxis m 2) = axHoming ∧ t.rd Reg.LIB_PK_STATE m = 1 := by
  let s1 := s.set1 Reg.LIB_CTRL_EN 0
  have k1 : Keeps (fieldBits [Reg.LIB_CTRL_EN]) s s1 := Keeps.set1 (.refl _ _)
  have hdoor1 : s1.doorOk = true := k1.sameMoves.doorOk.trans hdoor
  have hex : exec .libraryEnable s = .next ((s1.homesPicker 0).homesPicker 1) :=
    congrArg Host.Outcome.next (State.homePickers_both hdoor1 ((k1.axState _).trans h0) ((k1.axState _).trans h1))
  refine State.gives_of_exec hex ⟨?_, ?_⟩
  · rw [(State.homesPicker_keeps ..).flag _ _ (by decide +kernel), (State.homesPicker_keeps ..).flag _ _ (by decide +kernel)]
    exact State.flag_set1 _ _ (by decide)
  · match m with
    | 0 =>
      obtain ⟨hst, hpk⟩ := (s1.homesPicker 0).homesPicker_ne (m := 1) (k := 0) (by decide)
      exact ⟨hst.trans (s1.homesPicker_spec 0).1, hpk.trans (s1.homesPicker_spec 0).2⟩
    | 1 => exact (s1.homesPicker 0).homesPicker_spec 1

/-! ### The door (R515 to R517) -/

theorem gives_doorRequestOpen (s : State) (hnone : ∀ x ∈ s.lib.transfers, x.step = 0) (hrest : s.pkRest = true) :
    s.gives .doorRequestOpen fun t => t.flag Reg.LIB_DOOR_OPEN_READY 0 = true ∧ t.flag Reg.LIB_STATUS_DOOR_LOCKED 0 = false ∧
      t.lib.hold = true ∧ t.lib.lockOut = false ∧ t.lastEvent 0x0709 [0] := by
  let s1 : State := { s with lib := { s.lib with hold := true, opening := true, heldFrom := s.now } }
  have hex : exec .doorRequestOpen s = .next s1.doorOpened := congrArg Host.Outcome.next (State.openDoor_opens (s := s1) rfl hrest hnone)
  refine State.gives_of_exec hex ⟨?_, ?_, ?_, ?_, State.raise_lastEvent ..⟩
  · exact ((State.raise_keeps ..).flag _ _ (by decide +kernel)).trans
      ((State.flag_wr_ne _ _ _ _ _ _ (by decide)).trans (State.flag_set1 _ _ (by decide)))
  · exact ((State.raise_keeps ..).flag _ _ (by decide +kernel)).trans (State.flag_clr ..)
  · rw [State.doorOpened_lib]
    rfl
  · rw [State.doorOpened_lib]
    rfl

theorem gives_doorRequestLock_closed (s : State) : s.gives (.doorRequestLock true) fun t => t.lib.lockOut = true ∧
    t.flag Reg.LIB_DOOR_OPEN_READY 0 = false ∧ t.flag Reg.LIB_STATUS_DOOR_CLOSED 0 = true :=
  State.gives_of_exec rfl ⟨rfl, State.flag_clr ..,
    (State.flag_wr_ne _ _ _ _ _ _ (by decide)).trans (State.flag_set1 s _ (by decide))⟩

theorem gives_doorRequestLock_open (s : State) : s.gives (.doorRequestLock false) fun t => t.lib = s.lib ∧
    t.flag Reg.LIB_STATUS_DOOR_CLOSED 0 = false := State.gives_of_exec rfl ⟨rfl, State.flag_clr ..⟩

theorem gives_doorLockConfirmed (s : State) (hlock : s.lib.lockOut = true) : s.gives .doorLockConfirmed fun t =>
    t.flag Reg.LIB_STATUS_DOOR_LOCKED 0 = true ∧ t.lib.hold = false ∧ t.flag Reg.LIB_STATUS_INV_STALE 0 = true ∧
      t.lastEvent 0x0709 [1] := by
  rw [State.gives, exec, execDoorLockConfirmed, if_neg (by simp [hlock])]
  extract_lets s1 auto full y s2 s3 s4
  have k4 : Keeps (State.homePickers_mask ||| State.raise_mask ||| fieldBits [Reg.LIB_PK_STATE]) s2 (s4.raise 0x0709 [1]) := by
    have k3 : Keeps (State.homePickers_mask ||| State.raise_mask ||| fieldBits [Reg.LIB_PK_STATE]) s2 s3 :=
      Keeps.foldl (fun _ _ => Keeps.ite (Keeps.wr (.refl _ _)) (.refl _ _)) (.refl _ _)
    exact (State.raise_keeps ..).step (Keeps.ite ((State.homePickers_keeps ..).step k3) k3)
  refine ⟨_, rfl, ?_, ?_, ?_, State.raise_lastEvent ..⟩
  · rw [k4.flag _ _ (by decide +kernel)]
    exact (State.flag_wr_ne _ _ _ _ _ _ (by decide)).trans (State.flag_set1 s _ (by decide))
  · rw [k4.part .lib (by decide +kernel)]
  · rw [k4.flag _ _ (by decide +kernel)]
    exact State.flag_set1 (s.set1 Reg.LIB_STATUS_DOOR_LOCKED 0) _ (by decide)

theorem gives_doorOpenedUnexpected (s : State) (c : Bool) (hlock : s.lib.lockOut = true) : s.gives (.doorOpenedUnexpected c) fun t =>
    t.lib.hold = true ∧ (∀ x ∈ t.lib.transfers, x.step = 0) ∧ t.flag Reg.LIB_STATUS_INV_STALE 0 = true ∧ t.lastEvent 0x0709 [2] := by
  rw [State.gives, exec, execDoorOpenedUnexpected, if_neg (by simp [hlock])]
  extract_lets s1 s2 mine s3 y s4
  clear_value s3
  have k : Keeps State.raise_mask (s4.set1 Reg.LIB_STATUS_INV_STALE 0) ((s4.set1 Reg.LIB_STATUS_INV_STALE 0).raise 0x0709 [2]) :=
    State.raise_keeps ..
  have hlib : ((s4.set1 Reg.LIB_STATUS_INV_STALE 0).raise 0x0709 [2]).lib = s4.lib := k.part .lib (by decide +kernel)
  refine ⟨_, rfl, ?_, fun x hx => ?_, ?_, State.raise_lastEvent ..⟩
  · rw [hlib]
  · rw [hlib] at hx
    simpa using (List.mem_filter.1 hx).2
  · exact (k.flag _ _ (by decide +kernel)).trans (State.flag_set1 _ _ (by decide))

/-! ### Transfers wait and start (R515, R518, R521) -/

theorem gives_doorWaitTimeout (s : State) (sq tag : Nat) (x : Transfer) (c : Cmd) (hc : s.cmd? sq tag = some c) (hl : c.local = true)
    (hp : c.phase ≠ .fixed) (hx : (s.lib.transfers.find? fun t => t.cmd == some (sq, tag) && t.step == 0) = some x)
    (hhold : s.lib.hold = true) : s.gives (.doorWaitTimeout sq tag) fun t => t.ended sq tag stLibraryFault 0 0 0 ∧
      (∀ y ∈ t.lib.transfers, y.id ≠ x.id) ∧ max x.since s.lib.heldFrom + s.rd Reg.LIB_CFG_DOOR_WAIT_S 0 * hz ≤ t.now := by
  let s1 := s.advanceTo (max x.since s.lib.heldFrom + s.rd Reg.LIB_CFG_DOOR_WAIT_S 0 * hz)
  have hex : exec (.doorWaitTimeout sq tag) s = .next ((s1.failTransfer x).dropTransfer x) := by
    rw [exec, execDoorWaitTimeout]
    simp only [hx, hhold, if_true, s1]
  have hcmd : x.cmd = some (sq, tag) := by
    have h := List.find?_some hx
    simp only [Bool.and_eq_true, beq_iff_eq] at h
    exact h.1
  have hc1 : s1.cmd? sq tag = some c := (State.cmd?_congr ((s.advanceTo_keeps _).part .cmds (by decide +kernel)) sq tag).trans hc
  refine State.gives_of_exec hex ⟨State.failTransfer_ended hcmd hc1 hp hl, fun y hy => State.ne_of_mem_dropTransfer hy, ?_⟩
  exact (s.le_advanceTo_now _).trans_eq (s1.failTransfer_keeps x).now.symm

theorem gives_transferWaitTimeout (s : State) (sq tag : Nat) (x : Transfer)
    (hx : (s.lib.transfers.find? fun t => t.cmd == some (sq, tag) && t.step == 0 && !t.blocked) = some x) :
    s.gives (.transferWaitTimeout sq tag) fun t => (∀ y ∈ t.lib.transfers, y.id = x.id → y.blocked = true) ∧
      x.since + 10 * hz ≤ t.now := by
  rw [State.gives, exec, execTransferWaitTimeout]
  simp only [hx]
  refine ⟨_, rfl, fun y hy hid => ?_, ?_⟩
  · rw [(State.raise_keeps ..).part .lib (by decide +kernel)] at hy
    rw [State.eq_of_mem_putTransfer hy hid]
  · rw [State.raise_now]
    exact s.le_advanceTo_now _

/-- What follows in TRANSFER_START once the transfer stands with its picker. -/
def State.started_mask : Nat := State.transferRecord_mask ||| State.firstAction_mask ||| State.setLoc_mask

theorem gives_transferStart (s : State) (x : Transfer) (hruns : s.libRuns = true)
    (hx : (s.lib.transfers.find? fun t => t.step == 0 && t.locsDue.isEmpty && (s.fit t 0 != 1 || s.fit t 1 != 1)) = some x)
    (hfit : s.fit x 0 = 0) (hsrc : locKind x.src = 0) : s.gives .transferStart fun t =>
      (∃ y ∈ t.lib.transfers, y.id = x.id ∧ y.picker = some 0 ∧ y.step = 2 ∧ (y.lo, y.hi) = s.spanOf x 0) ∧
        t.rd Reg.LIB_PK_STATE 0 = 3 := by
  have hslot : ¬(locKind x.src = 1 ∧ x.srcCell = s.cell ∧ (!s.stationFree (locIndex x.src)) = true) := by simp [hsrc]
  rw [State.gives, exec]
  unfold execTransferStart
  rw [if_neg (by simp [hruns])]
  simp -zeta only [hx]
  extract_lets +onlyGivenNames m
  have hm : m = 0 := if_pos hfit
  clear_value m
  subst hm
  rw [if_neg (not_not.2 hfit), if_neg hslot]
  extract_lets o sp pos s1 far t1 s2
  have k1 : Keeps State.pkPark_mask s s1 := Keeps.ite (State.pkPark_keeps ..) (.refl _ _)
  let u := (s1.putTransfer t1).wr Reg.LIB_PK_STATE 0 3
  have k2 : Keeps State.started_mask u s2 := (State.firstAction_keeps ..).step ((State.transferRecord_keeps ..).mono)
  refine ⟨_, rfl, ?_⟩
  have k3 : Keeps State.started_mask u (if x.disc / 4096 ≠ s.cell then s2.setLoc x.disc (s2.disc x.disc).loc else s2) :=
    Keeps.ite ((State.setLoc_keeps ..).step k2) k2
  have hmem : t1 ∈ u.lib.transfers := by
    refine State.mem_putTransfer (s := s1) (x := x) ?_ rfl
    rw [k1.part .lib (by decide +kernel)]
    exact List.mem_of_find?_eq_some hx
  refine ⟨⟨t1, ?_, rfl, rfl, rfl, rfl⟩, ?_⟩
  · rw [k3.part .lib (by decide +kernel)]
    exact hmem
  · exact (k3.rd _ _ (by decide +kernel)).trans (State.rd_wr_same ..)

/-! ### Open records are resolved (R525) -/

/-- The record's transfer is taken from those left open, and the disc's sensor shown. -/
def State.resolving (s : State) (x : Transfer) (m : Nat) (inJaws : Bool) : State :=
  ({ s with lib := { s.lib with records := s.lib.records.filter fun y => y.id != x.id } } : State).wrB Reg.LIB_PK_DISC m inJaws

theorem State.ne_of_mem_resolving {s : State} {x y : Transfer} {m : Nat} {b : Bool} (hy : y ∈ (s.resolving x m b).lib.records) :
    y.id ≠ x.id := by
  simpa using (List.mem_filter.1 hy).2

theorem gives_transferResolve_source (s : State) (m : Fin 2) (x : Transfer)
    (hx : (s.lib.records.find? fun t => t.picker == some m.val) = some x) (hpk : s.rd Reg.LIB_PK_STATE m = 2)
    (hsrc : locKind x.src = 0) (hkind : x.kind ≠ 2) : s.gives (.transferResolve m false true false) fun t =>
      (t.disc x.disc).loc = .home ∧ ∀ y ∈ t.lib.records, y.id ≠ x.id := by
  let s2 := s.resolving x m false
  let s3 := s2.setLoc x.disc (s2.placeOf x.srcCell x.src)
  have hex : exec (.transferResolve m false true false) s = .next (s3.transferRecord x 3) := by
    rw [exec, execTransferResolve]
    simp [hx, hpk, hkind, s3, s2, State.resolving]
  have k : Keeps State.transferRecord_mask s3 (s3.transferRecord x 3) := State.transferRecord_keeps ..
  refine State.gives_of_exec hex ⟨?_, fun y hy => ?_⟩
  · rw [k.disc, State.setLoc_disc]
    exact State.placeOf_slot _ hsrc
  · rw [k.part .lib (by decide +kernel), (s2.setLoc_keeps ..).part .lib (by decide +kernel)] at hy
    exact State.ne_of_mem_resolving hy

theorem gives_transferResolve_lost (s : State) (m : Fin 2) (x : Transfer)
    (hx : (s.lib.records.find? fun t => t.picker == some m.val) = some x) (hpk : s.rd Reg.LIB_PK_STATE m = 2) :
    s.gives (.transferResolve m false false false) fun t => (t.disc x.disc).loc = .lost ∧ ∀ y ∈ t.lib.records, y.id ≠ x.id := by
  let s2 := s.resolving x m false
  let s3 := s2.setLoc x.disc .lost
  have hex : exec (.transferResolve m false false false) s = .next ((s2.discLost x.disc).transferRecord x 3) := by
    rw [exec, execTransferResolve]
    simp [hx, hpk, s2, State.resolving]
  have k : Keeps (State.raise_mask ||| State.failAll_mask ||| State.transferRecord_mask) s3 ((s2.discLost x.disc).transferRecord x 3) :=
    (State.transferRecord_keeps ..).step ((State.failAll_keeps ..).step ((State.raise_keeps ..).mono))
  refine State.gives_of_exec hex ⟨?_, fun y hy => ?_⟩
  · rw [k.disc, State.setLoc_disc]
  · rw [k.part .lib (by decide +kernel), (s2.setLoc_keeps ..).part .lib (by decide +kernel)] at hy
    exact State.ne_of_mem_resolving hy

/-! ### A disc falls (R518) -/

/-- A transfer is given up with its disc lost. -/
def State.loseDisc (s : State) (x : Transfer) (m : Nat) : State :=
  ((s.setLoc x.disc .lost).raise 0x070A [x.disc / 4096, x.disc % 4096]).endTransfer x m 6 true

def State.discGone_mask : Nat := State.raise_mask ||| State.endTransfer_mask

theorem State.loseDisc_keeps (s : State) (x : Transfer) (m : Nat) : Keeps State.discGone_mask (s.setLoc x.disc .lost) (s.loseDisc x m) :=
  (State.endTransfer_keeps ..).step ((State.raise_keeps ..).mono)

theorem State.loseDisc_spec (s : State) (x : Transfer) (m : Nat) : ((s.loseDisc x m).disc x.disc).loc = .lost ∧
    (s.loseDisc x m).rd Reg.LIB_PK_STATE m = 6 ∧ ∀ y ∈ (s.loseDisc x m).lib.transfers, y.id ≠ x.id := by
  refine ⟨?_, State.endTransfer_held .., fun y => State.endTransfer_drops⟩
  rw [(s.loseDisc_keeps x m).disc, State.setLoc_disc]

theorem gives_pickerDiscFall (s : State) (m : Fin 2) (x : Transfer) (hx : (s.lib.transfers.find? fun t =>
      t.picker == some m.val && (t.step == 5 || t.step == 6 || t.step == 7 || t.step == 8)) = some x) :
    s.gives (.pickerDiscFall m) fun t => (t.disc x.disc).loc = .lost ∧ t.rd Reg.LIB_PK_STATE m = 6 ∧
      t.flag Reg.LIB_PK_DISC m = false ∧ ∀ y ∈ t.lib.transfers, y.id ≠ x.id := by
  let s0 := s.clr Reg.LIB_PK_DISC m
  let s1 := s0.stepFail x 0x0707 [m, x.step, x.src]
  have hex : exec (.pickerDiscFall m) s = .next (s1.loseDisc x m) := by
    rw [exec, execPickerDiscFall]
    simp only [hx]
    rfl
  obtain ⟨hloc, hpk, hgone⟩ := s1.loseDisc_spec x m
  refine State.gives_of_exec hex ⟨hloc, hpk, ?_, hgone⟩
  rw [(s1.loseDisc_keeps x m).flag _ _ (by decide +kernel), (s1.setLoc_keeps ..).flag _ _ (by decide +kernel),
    (s0.stepFail_keeps ..).flag _ _ (by decide +kernel)]
  exact State.flag_clr ..

/-! ### An inventory ends (R524) -/

/-- With no open record no slot is skipped. -/
theorem State.slotMoving_of_none {s : State} (ht : s.lib.transfers = []) (hr : s.lib.records = []) (slot : Nat) :
    s.slotMoving slot = false := by
  rw [State.slotMoving, ht, hr]
  rfl

/-- The mismatches of the slots scanned are counted by their place in the scan. -/
theorem mismatches_eq (s : State) (f n : Nat) (l : List Bool) :
    (((upTo n).map (f + ·)).filter fun x => l.getD (x - f) false != s.catalogued x).length =
      ((upTo n).filter fun i => l.getD i false != s.catalogued (f + i)).length := by
  rw [List.filter_map, List.length_map]
  simp only [Function.comp_def, Nat.add_sub_cancel_left]

def State.scanned_mask : Nat := State.scanSlot_mask ||| State.raise_mask ||| fieldBits [Reg.LIB_PK_STATE, Reg.LIB_STATUS_INV_STALE]

theorem gives_inventoryComplete (s : State) (dt f n sq tag m : Nat) (l : List Bool) (c : Cmd) (hc : s.cmd? sq tag = some c)
    (hl : c.local = true) (hp : c.phase ≠ .fixed) (hinv : s.lib.inv = some (f, n, some (sq, tag))) (ht : s.lib.transfers = [])
    (hr : s.lib.records = []) (hm : s.invPicker = some m) (hheld : s.motionHeld = false)
    (hin : s.pkRefused m (inTarget s.posns) = none)
    (hwalk : (State.scanWalk m ((upTo n).map (f + ·)) (s.pkIn m s.posns)).2 = none) : s.gives (.inventoryComplete dt l) fun t =>
      t.lib.inv = (if s.lib.invDue = true then some (0, s.rd Reg.LIB_CFG_SLOTS 0, none) else none) ∧ t.lib.invDue = s.lib.invDue ∧
      s.now + dt ≤ t.now ∧ t.ended sq tag stSuccess n
        (((upTo n).filter fun i => l.getD i false != s.catalogued (f + i)).length) 0 := by
  have hscan : (((upTo n).map (f + ·)).filter fun x => !s.slotMoving x) = (upTo n).map (f + ·) :=
    List.filter_eq_self.2 fun x _ => by rw [State.slotMoving_of_none ht hr]; rfl
  rw [State.gives, exec]
  unfold execInventoryComplete
  simp -zeta only [hinv, hm]
  extract_lets +onlyGivenNames slots scan read w
  replace hscan : scan = (upTo n).map (f + ·) := hscan
  have hw : w = State.scanWalk m scan (s.pkIn m s.posns) := by
    unfold w
    rw [hin]
  have hnone : w.2 = none := by rw [hw, hscan, hwalk]
  have kw : Keeps State.scanWalk_mask s w.1 := by
    rw [hw]
    exact Keeps.step (m := State.scanWalk_mask) (State.scanWalk_keeps ..) ((s.pkIn_keeps ..).mono)
  simp -zeta only [hnone, hheld, Bool.false_eq_true, if_false]
  extract_lets s1 mis full s2 again next y s3 s4
  have k1 : Keeps State.scanned_mask (w.1.advance dt) s1 :=
    Keeps.foldl (fun t x => (t.scanSlot_keeps x _).mono) (Keeps.wr (.refl _ _))
  have k2 : Keeps State.scanned_mask (w.1.advance dt) s2 := Keeps.ite (Keeps.clr k1) k1
  have k4 : Keeps State.raise_mask s3 s4 := State.raise_keeps ..
  have kf : Keeps State.finish_mask s4 (s4.finish sq tag stSuccess scan.length mis 0) := State.finish_keeps ..
  have hcmds : s4.cmds = s.cmds := calc
    s4.cmds = s2.cmds := k4.part .cmds (by decide +kernel)
    _ = (w.1.advance dt).cmds := k2.part .cmds (by decide +kernel)
    _ = w.1.cmds := State.advance_cmds ..
    _ = s.cmds := kw.part .cmds (by decide +kernel)
  have hlib : (s4.finish sq tag stSuccess scan.length mis 0).lib = s3.lib :=
    (kf.part .lib (by decide +kernel)).trans (k4.part .lib (by decide +kernel))
  have hnow : s.now + dt ≤ (s4.finish sq tag stSuccess scan.length mis 0).now := by
    rw [kf.now, k4.now]
    calc s.now + dt ≤ w.1.now + dt := Nat.add_le_add_right kw.now_le dt
      _ = s2.now := ((k2.now).trans (State.advance_now ..)).symm
  have hlen : scan.length = n := by rw [hscan, List.length_map, upTo, List.length_range]
  have hmis : mis = ((upTo n).filter fun i => l.getD i false != s.catalogued (f + i)).length := by
    unfold mis read
    rw [hscan, mismatches_eq]
  refine ⟨_, rfl, ?_, ?_, hnow, ?_⟩
  · rw [hlib]
    simp [s3, next, again]
  · rw [hlib]
    simp [s3, again]
  · rw [← hmis, ← hlen]
    exact State.finish_open_ended ((State.cmd?_congr hcmds sq tag).trans hc) hp hl ..

/-- Settles O54, clause by clause: enabling homes the pickers, the door opens and locks, transfers wait, start and are resolved, a disc that
falls is lost, and a scan ends with its counts. -/
theorem doorAndTransfersStart : Obligations.DoorAndTransfersStart :=
  ⟨gives_libraryEnable, gives_doorRequestOpen, gives_doorRequestLock_closed, gives_doorRequestLock_open, gives_doorLockConfirmed,
    gives_doorOpenedUnexpected, gives_doorWaitTimeout, gives_transferWaitTimeout, gives_transferStart, gives_transferResolve_source,
    gives_transferResolve_lost, gives_pickerDiscFall, gives_inventoryComplete⟩

end Sys2Proof.Machine
end

section
/-!
PROOF. A transfer goes through its steps (O55).
-/

set_option Elab.async false

namespace Sys2Proof.Machine

/-! ### A step of a transfer (R518, R562) -/

/-- The transfer that a picker runs may take its step, a number: the axes are ready, no acknowledgement is awaited, the power is good, and
no move of the step is refused. -/
structure TransferGoes (s : State) (m : Fin 2) (x : Transfer) (k : Nat) : Prop where
  runs : (s.lib.transfers.find? fun t => t.picker == some m.val && t.step != 0) = some x
  ready : s.pkReady m = true
  acked : x.ackDue = false
  powered : s.pw.pfAt = none
  allowed : s.pkRefused m x.moves = none
  step : x.step = k

/-- What a picker changes as it moves, grips and shows its sensors. -/
def State.handled_mask : Nat := State.pkIn_mask ||| State.pkTo_mask ||| State.pkReach_mask ||| State.pkSense_mask ||| State.advance_mask |||
  fieldBits [Reg.LIB_PK_GRIP]

namespace TransferGoes

variable {s : State} {m : Fin 2} {x : Transfer} {k : Nat}

theorem mem (h : TransferGoes s m x k) : x ∈ s.lib.transfers := List.mem_of_find?_eq_some h.runs

theorem exec_eq (h : TransferGoes s m x k) (a b c : Bool) :
    exec (.transferProgress m a b c) s = .next (s.transferStep x m a b c) := by
  have hmay : (s.pkReady m && !x.ackDue && s.pw.pfAt.isNone) = true := by rw [h.ready, h.acked, h.powered]; rfl
  rw [exec, execTransferProgress]
  simp only [h.runs, hmay, h.allowed, if_true]

theorem gives_of_step (h : TransferGoes s m x k) {a b c : Bool} {t : State} {p : State → Prop} (hstep : s.transferStep x m a b c = t)
    (hp : p t) : s.gives (.transferProgress m a b c) p :=
  State.gives_of_exec ((h.exec_eq a b c).trans (congrArg Host.Outcome.next hstep)) hp

/-- Behind what the picker does the transfer stands at its next step, `j`. -/
theorem at_next (h : TransferGoes s m x k) {u : State} (hu : Keeps State.handled_mask s u) (j : Nat) :
    ∃ y ∈ (u.putTransfer { x with step := j }).lib.transfers, y.id = x.id ∧ y.step = j := by
  have hmem : x ∈ u.lib.transfers := by
    rw [hu.part .lib (by decide +kernel)]
    exact h.mem
  exact ⟨_, State.mem_putTransfer hmem rfl, rfl, rfl⟩

/-- A step that the picker completes leads to the next. -/
theorem gives_next (h : TransferGoes s m x k) {a b c : Bool} {u : State} {j : Nat} (hu : Keeps State.handled_mask s u)
    (hstep : s.transferStep x m a b c = u.putTransfer { x with step := j }) :
    s.gives (.transferProgress m a b c) fun t => ∃ y ∈ t.lib.transfers, y.id = x.id ∧ y.step = j :=
  h.gives_of_step hstep (h.at_next hu j)

end TransferGoes

theorem State.pkSense_slot (s : State) (m : Nat) (slot disc jaw : Bool) :
    (s.pkSense m slot disc jaw).flag Reg.LIB_PK_SLOT_SNS m = slot := by
  rw [State.flag, State.pkSense, State.rd_wrB_ne _ _ _ _ _ _ (by decide), State.rd_wrB_ne _ _ _ _ _ _ (by decide), State.rd_wrB]
  cases slot <;> rfl

/-! ### A step is refused (R494, R954) -/

theorem gives_transferProgress_refused (s : State) (m : Fin 2) (x : Transfer) (a b c : Bool) (i k : Nat)
    (hx : (s.lib.transfers.find? fun t => t.picker == some m.val && t.step != 0) = some x) (hready : s.pkReady m = true)
    (hack : x.ackDue = false) (hpf : s.pw.pfAt = none) (hno : s.pkRefused m x.moves = some (i, k))
    (hfree : s.flag Reg.MOT_ERR_VALID 0 = false) : s.gives (.transferProgress m a b c) fun t => t.lib = s.lib ∧ t.now = s.now ∧
      t.flag Reg.MOT_ERR_VALID 0 = true ∧ t.rd Reg.MOT_ERR_CODE 0 = k % 2 ^ Reg.MOT_ERR_CODE.w := by
  have hmay : (s.pkReady m && !x.ackDue && s.pw.pfAt.isNone) = true := by rw [hready, hack, hpf]; rfl
  have hex : exec (.transferProgress m a b c) s = .next (s.motErr i k) := by
    rw [exec, execTransferProgress]
    simp only [hx, hmay, hno, if_true]
  obtain ⟨hvalid, hcode, -⟩ := State.motErr_spec hfree i k
  have kerr : Keeps State.motErr_mask s (s.motErr i k) := s.motErr_keeps i k
  exact State.gives_of_exec hex ⟨kerr.part .lib (by decide +kernel), kerr.now, hvalid, hcode⟩

section
variable {s : State} {m : Fin 2} {x : Transfer}

/-! ### To the source, grip and lift (R518 steps 2 to 5) -/

theorem gives_transferProgress_toSource (h : TransferGoes s m x 2) (a b c : Bool) : s.gives (.transferProgress m a b c) fun t =>
    ∃ y ∈ t.lib.transfers, y.id = x.id ∧ y.step = 3 ∧ t.flag Reg.LIB_PK_SLOT_SNS m = a := by
  let u := ((s.pkIn m x.posns).pkTo m x.posns x.srcE x.src).pkSense m a b c
  have hu : Keeps State.handled_mask s u := (State.pkSense_keeps ..).step ((State.pkTo_keeps ..).step ((State.pkIn_keeps ..).mono))
  have hstep : s.transferStep x m a b c = u.putTransfer { x with step := 3 } := by
    simp only [State.transferStep, h.step]
    rfl
  have hshown : u.flag Reg.LIB_PK_SLOT_SNS m = a := State.pkSense_slot ..
  obtain ⟨y, hy, hid, hnext⟩ := h.at_next hu 3
  exact h.gives_of_step hstep ⟨y, hy, hid, hnext, hshown⟩

theorem gives_transferProgress_slotRead (h : TransferGoes s m x 3) : s.gives (.transferProgress m true false true) fun t =>
    ∃ y ∈ t.lib.transfers, y.id = x.id ∧ y.step = 4 := by
  refine h.gives_next (u := s.pkSense m true false true) ((State.pkSense_keeps ..).mono) ?_
  simp only [State.transferStep, h.step]
  rfl

theorem gives_transferProgress_slotEmpty {q g : Nat} {c : Cmd} (hc : s.cmd? q g = some c) (hl : c.local = true) (hp : c.phase ≠ .fixed)
    (h : TransferGoes s m x 3) (hcmd : x.cmd = some (q, g)) (hdoor : s.lib.opening = false) :
    s.gives (.transferProgress m false false true) fun t => t.ended q g stLibraryFault 0 0 0 ∧ (∀ y ∈ t.lib.transfers, y.id ≠ x.id) ∧
      t.rd Reg.LIB_PK_STATE m = 2 := by
  let u := s.pkSense m false false true
  let v := u.stepFail x 0x0708 [m, x.src, 0]
  have hstep : s.transferStep x m false false true = v.endTransfer x m 2 true := by
    simp only [State.transferStep, h.step]
    rfl
  have hu : Keeps State.pkSense_mask s u := State.pkSense_keeps ..
  have hv : Keeps State.stepFail_mask u v := State.stepFail_keeps ..
  have hfail : (u.failTransfer x).ended q g stLibraryFault 0 0 0 :=
    State.failTransfer_ended hcmd ((State.cmd?_congr (hu.part .cmds (by decide +kernel)) q g).trans hc) hp hl
  have hlib : v.lib = s.lib := (hv.part .lib (by decide +kernel)).trans (hu.part .lib (by decide +kernel))
  refine h.gives_of_step hstep ⟨?_, fun y => State.endTransfer_drops, ?_⟩
  · have hkept : v.cmds = (u.failTransfer x).cmds := (State.raise_keeps ..).part .cmds (by decide +kernel)
    exact State.ended_congr (((v.endTransfer_keeps ..).part .cmds (by decide +kernel)).trans hkept) hfail
  · exact State.endTransfer_state (by rw [hlib, hdoor]) x m

theorem gives_transferProgress_grips (h : TransferGoes s m x 4) : s.gives (.transferProgress m true true false) fun t =>
    ∃ y ∈ t.lib.transfers, y.id = x.id ∧ y.step = 5 := by
  refine h.gives_next (u := (((s.pkReach m x.posns x.src).set1 Reg.LIB_PK_GRIP m).advance (s.rd Reg.LIB_CFG_GRIP_MS 0 * msCycles)).pkSense
    m true true false) ?_ ?_
  · exact (State.pkSense_keeps ..).step ((State.advance_keeps ..).step (Keeps.set1 ((State.pkReach_keeps ..).mono)))
  · simp only [State.transferStep, h.step]
    rfl

theorem gives_transferProgress_lifts (h : TransferGoes s m x 5) (a : Bool) : s.gives (.transferProgress m a true false) fun t =>
    (∃ y ∈ t.lib.transfers, y.id = x.id ∧ y.step = 6) ∧ (t.disc x.disc).loc = .picker m := by
  let u := (s.pkIn m x.posns).pkSense m a true false
  let v := (u.setLoc x.disc (.picker m)).transferRecord x 2
  let y : Transfer := { x with step := 6, ackDue := x.disc / 4096 ≠ s.cell && s.reach (x.disc / 4096) }
  have hstep : s.transferStep x m a true false = v.putTransfer y := by
    simp only [State.transferStep, h.step]
    rfl
  have hu : Keeps State.handled_mask s u := (State.pkSense_keeps ..).step ((State.pkIn_keeps ..).mono)
  have hv : Keeps State.transferRecord_mask (u.setLoc x.disc (.picker m)) v := State.transferRecord_keeps ..
  have hmem : x ∈ v.lib.transfers := by
    rw [hv.part .lib (by decide +kernel), (u.setLoc_keeps ..).part .lib (by decide +kernel), hu.part .lib (by decide +kernel)]
    exact h.mem
  have hdisc : (v.putTransfer y).disc x.disc = (u.setLoc x.disc (.picker m)).disc x.disc := hv.disc x.disc
  refine h.gives_of_step hstep ⟨⟨y, State.mem_putTransfer hmem rfl, rfl, rfl⟩, ?_⟩
  rw [hdisc, State.setLoc_disc]

theorem gives_transferProgress_notHeld (h : TransferGoes s m x 5) (a : Bool) : s.gives (.transferProgress m a false false) fun t =>
    (∀ y ∈ t.lib.transfers, y.id ≠ x.id) ∧ (t.disc x.disc).loc = .lost ∧ t.rd Reg.LIB_PK_STATE m = 6 := by
  let u := ((s.pkIn m x.posns).pkSense m a false false).stepFail x 0x0707 [m, 5, x.src]
  have hstep : s.transferStep x m a false false = u.loseDisc x m := by
    simp only [State.transferStep, h.step]
    rfl
  obtain ⟨hloc, hpk, hgone⟩ := u.loseDisc_spec x m
  exact h.gives_of_step hstep ⟨hgone, hloc, hpk⟩

/-! ### To the destination and release (R518 steps 6 to 8) -/

theorem gives_transferProgress_toDestination (h : TransferGoes s m x 6) (hdst : locKind x.dst = 0) (a b c : Bool) :
    s.gives (.transferProgress m a b c) fun t => ∃ y ∈ t.lib.transfers, y.id = x.id ∧ y.step = 7 := by
  refine h.gives_next (u := (s.pkTo m x.posns x.dstE x.dst).pkSense m a b c) ((State.pkSense_keeps ..).step ((State.pkTo_keeps ..).mono)) ?_
  simp [State.transferStep, h.step, hdst]

theorem gives_transferProgress_slotFree (h : TransferGoes s m x 7) (b c : Bool) : s.gives (.transferProgress m false b c) fun t =>
    ∃ y ∈ t.lib.transfers, y.id = x.id ∧ y.step = 8 := by
  refine h.gives_next (u := s.pkSense m false b c) ((State.pkSense_keeps ..).mono) ?_
  simp only [State.transferStep, h.step]
  rfl

theorem gives_transferProgress_releases (h : TransferGoes s m x 8) (a : Bool) : s.gives (.transferProgress m a false true) fun t =>
    ∃ y ∈ t.lib.transfers, y.id = x.id ∧ y.step = 9 := by
  refine h.gives_next (u := (((s.pkReach m x.posns x.dst).clr Reg.LIB_PK_GRIP m).advance (s.rd Reg.LIB_CFG_GRIP_MS 0 * msCycles)).pkSense
    m a false true) ?_ ?_
  · exact (State.pkSense_keeps ..).step ((State.advance_keeps ..).step (Keeps.clr ((State.pkReach_keeps ..).mono)))
  · simp only [State.transferStep, h.step]
    rfl

/-! ### The disc is delivered (R518 step 9, R523) -/

/-- The picker draws its REACH back. -/
def State.drawnBack (s : State) (x : Transfer) (m : Nat) (a b d : Bool) : State := (s.pkIn m x.posns).pkSense m a b d

theorem State.drawnBack_keeps (s : State) (x : Transfer) (m : Nat) (a b d : Bool) :
    Keeps State.handled_mask s (s.drawnBack x m a b d) := (State.pkSense_keeps ..).step ((State.pkIn_keeps ..).mono)

theorem TransferGoes.delivers (h : TransferGoes s m x 9) (a b d : Bool) :
    s.transferStep x m a b d = (s.drawnBack x m a b d).delivered x m := by
  simp only [State.transferStep, h.step]
  rfl

/-- What an operation that leaves transfers alone leaves of one that is over. -/
theorem State.endTransfer_gone {s t : State} {k : Nat} {pk : Nat} (kt : Keeps k (s.endTransfer x m pk true) t)
    (hm : k.testBit (Part.bit .lib) = false := by decide +kernel) : ∀ y ∈ t.lib.transfers, y.id ≠ x.id := by
  intro y hy
  rw [kt.part .lib hm] at hy
  exact State.endTransfer_drops hy

/-- The command of a transfer that ends well, as it stands behind the end of the transfer. -/
theorem State.endTransfer_cmd? {s : State} {q g pk : Nat} {c : Cmd} (hc : s.cmd? q g = some c) (x : Transfer) (a b d : Bool) :
    ((s.drawnBack x m a b d).endTransfer x m pk true).cmd? q g = some c := by
  have hcmds : ((s.drawnBack x m a b d).endTransfer x m pk true).cmds = s.cmds :=
    ((State.endTransfer_keeps ..).part .cmds (by decide +kernel)).trans ((s.drawnBack_keeps x m a b d).part .cmds (by decide +kernel))
  rw [State.cmd?_congr hcmds, hc]

theorem gives_transferProgress_unmounted {q g : Nat} {c : Cmd} (hc : s.cmd? q g = some c) (hl : c.local = true) (hp : c.phase ≠ .fixed)
    (h : TransferGoes s m x 9) (hcmd : x.cmd = some (q, g)) (hkind : x.kind = 1) (hback : x.back = false) (a b d : Bool) :
    s.gives (.transferProgress m a b d) fun t => (t.disc x.disc).loc = .home ∧ (t.disc x.disc).mounted = false ∧
      t.ended q g stSuccess 0 0 0 ∧ ∀ y ∈ t.lib.transfers, y.id ≠ x.id := by
  let u := (s.drawnBack x m a b d).endTransfer x m 2 true
  let v := u.setLoc x.disc .home
  let w := v.putDisc x.disc { v.disc x.disc with mounted := false }
  have hdel : (s.drawnBack x m a b d).delivered x m = w.fail q g stSuccess := by
    simp only [State.delivered, hback, hkind, hcmd]
    rfl
  have kw : Keeps (State.setLoc_mask ||| State.putDisc_mask) u w := (State.putDisc_keeps ..).step ((State.setLoc_keeps ..).mono)
  have kf : Keeps State.fail_mask w (w.fail q g stSuccess) := State.fail_keeps ..
  have hdisc : (w.fail q g stSuccess).disc x.disc = { v.disc x.disc with mounted := false } :=
    (kf.disc x.disc).trans (State.putDisc_disc ..)
  refine h.gives_of_step ((h.delivers a b d).trans hdel) ⟨?_, ?_, ?_, ?_⟩
  · rw [hdisc, State.setLoc_disc]
  · rw [hdisc]
  · have hcw : w.cmd? q g = some c := (State.cmd?_congr (kw.part .cmds (by decide +kernel)) q g).trans (State.endTransfer_cmd? hc x a b d)
    exact State.finish_open_ended hcw hp hl ..
  · exact State.endTransfer_gone (kf.step (m := State.setLoc_mask ||| State.putDisc_mask ||| State.fail_mask) kw.mono)

theorem gives_transferProgress_moved {q g : Nat} {c : Cmd} (hc : s.cmd? q g = some c) (hl : c.local = true) (hp : c.phase ≠ .fixed)
    (h : TransferGoes s m x 9) (hcmd : x.cmd = some (q, g)) (hkind : x.kind = 2) (hback : x.back = false) (a b d : Bool) :
    s.gives (.transferProgress m a b d) fun t => (t.disc (x.disc / 4096 * 4096 + locIndex x.dst)).loc = .home ∧
      t.ended q g stSuccess 0 0 0 ∧ ∀ y ∈ t.lib.transfers, y.id ≠ x.id := by
  let u := (s.drawnBack x m a b d).endTransfer x m 2 true
  let w := u.rehome x.disc (locIndex x.dst)
  have hdel : (s.drawnBack x m a b d).delivered x m = w.fail q g stSuccess := by
    simp only [State.delivered, hback, hkind, hcmd]
    rfl
  have kw : Keeps State.rehome_mask u w := State.rehome_keeps ..
  have kf : Keeps State.fail_mask w (w.fail q g stSuccess) := State.fail_keeps ..
  refine h.gives_of_step ((h.delivers a b d).trans hdel) ⟨?_, ?_, ?_⟩
  · rw [kf.disc]
    exact congrArg Disc.loc (mget_mput_same ..)
  · have hcw : w.cmd? q g = some c := (State.cmd?_congr (kw.part .cmds (by decide +kernel)) q g).trans (State.endTransfer_cmd? hc x a b d)
    exact State.finish_open_ended hcw hp hl ..
  · exact State.endTransfer_gone (kf.step (m := State.rehome_mask ||| State.fail_mask) kw.mono)

theorem gives_transferProgress_mounts (h : TransferGoes s m x 9) (hkind : x.kind = 0) (hback : x.back = false) (hcell : x.dstCell = s.cell)
    (a b d : Bool) : s.gives (.transferProgress m a b d) fun t => (t.disc x.disc).loc = .station (locIndex x.dst) ∧
      ∀ y ∈ t.lib.transfers, y.id ≠ x.id := by
  let u := (s.drawnBack x m a b d).endTransfer x m 2 true
  let v := u.setLoc x.disc (.station (locIndex x.dst))
  have hhere : x.dstCell = (s.drawnBack x m a b d).cell := hcell.trans ((s.drawnBack_keeps x m a b d).rd _ _ (by decide +kernel)).symm
  have hdel : (s.drawnBack x m a b d).delivered x m = v.mountStart (locIndex x.dst) := by
    simp only [State.delivered, hback, hkind, hhere, if_true]
    rfl
  have kt : Keeps State.mountStart_mask v (v.mountStart (locIndex x.dst)) := State.mountStart_keeps ..
  refine h.gives_of_step ((h.delivers a b d).trans hdel) ⟨?_, ?_⟩
  · rw [kt.disc, State.setLoc_disc]
  · exact State.endTransfer_gone (kt.step (m := State.setLoc_mask ||| State.mountStart_mask) ((State.setLoc_keeps ..).mono))

theorem gives_transferProgress_back (h : TransferGoes s m x 9) (hback : x.back = true) (a b d : Bool) :
    s.gives (.transferProgress m a b d) fun t => (t.disc x.disc).loc = s.placeOf x.dstCell x.dst ∧ ∀ y ∈ t.lib.transfers, y.id ≠ x.id := by
  let u := (s.drawnBack x m a b d).endTransfer x m 2 true
  have hhere : (s.drawnBack x m a b d).cell = s.cell := (s.drawnBack_keeps x m a b d).rd _ _ (by decide +kernel)
  have hplace : (s.drawnBack x m a b d).placeOf x.dstCell x.dst = s.placeOf x.dstCell x.dst := by
    rw [State.placeOf, State.placeOf, hhere]
  have hdel : (s.drawnBack x m a b d).delivered x m = u.setLoc x.disc (s.placeOf x.dstCell x.dst) := by
    simp only [State.delivered, hback, if_true, hplace]
    rfl
  refine h.gives_of_step ((h.delivers a b d).trans hdel) ⟨?_, ?_⟩
  · rw [State.setLoc_disc]
  · exact State.endTransfer_gone (State.setLoc_keeps ..)

end

/-- Settles O55, clause by clause: a refused step leaves its error, each step of a transfer that may go on leads to the next or ends it, and
the last one delivers the disc. -/
theorem transfersGoStepByStep : Obligations.TransfersGoStepByStep :=
  ⟨gives_transferProgress_refused,
    fun _ _ _ a b c hx hr ha hp ho hs => gives_transferProgress_toSource ⟨hx, hr, ha, hp, ho, hs⟩ a b c,
    fun _ _ _ hx hr ha hp ho hs => gives_transferProgress_slotRead ⟨hx, hr, ha, hp, ho, hs⟩,
    fun _ _ _ _ _ _ hc hl hf hx hr ha hp ho hs => gives_transferProgress_slotEmpty hc hl hf ⟨hx, hr, ha, hp, ho, hs⟩,
    fun _ _ _ hx hr ha hp ho hs => gives_transferProgress_grips ⟨hx, hr, ha, hp, ho, hs⟩,
    fun _ _ _ a hx hr ha hp ho hs => gives_transferProgress_lifts ⟨hx, hr, ha, hp, ho, hs⟩ a,
    fun _ _ _ a hx hr ha hp ho hs => gives_transferProgress_notHeld ⟨hx, hr, ha, hp, ho, hs⟩ a,
    fun _ _ _ a b c hx hr ha hp ho hs hd => gives_transferProgress_toDestination ⟨hx, hr, ha, hp, ho, hs⟩ hd a b c,
    fun _ _ _ b c hx hr ha hp ho hs => gives_transferProgress_slotFree ⟨hx, hr, ha, hp, ho, hs⟩ b c,
    fun _ _ _ a hx hr ha hp ho hs => gives_transferProgress_releases ⟨hx, hr, ha, hp, ho, hs⟩ a,
    fun _ _ _ a b d _ _ _ hc hl hf hx hr ha hp ho hs hq hk hb =>
      gives_transferProgress_unmounted hc hl hf ⟨hx, hr, ha, hp, ho, hs⟩ hq hk hb a b d,
    fun _ _ _ a b d _ _ _ hc hl hf hx hr ha hp ho hs hq hk hb =>
      gives_transferProgress_moved hc hl hf ⟨hx, hr, ha, hp, ho, hs⟩ hq hk hb a b d,
    fun _ _ _ a b d hx hr ha hp ho hs hk hb hc => gives_transferProgress_mounts ⟨hx, hr, ha, hp, ho, hs⟩ hk hb hc a b d,
    fun _ _ _ a b d hx hr ha hp ho hs hb => gives_transferProgress_back ⟨hx, hr, ha, hp, ho, hs⟩ hb a b d⟩

end Sys2Proof.Machine
end

section
/-!
PROOF. The serial numbers that the master holds after FORGET (O57).
-/

set_option Elab.async false

namespace Sys2Proof.Machine

@[simp] theorem State.ringSend_serials (s : State) (dst mtype : Nat) (items : List Nat) :
    (s.ringSend dst mtype items).stack.serials = s.stack.serials := by
  unfold State.ringSend
  dsimp only
  split <;> rfl

/-- A new version of the table tells the members what the master lists; the serial numbers it holds stay. -/
theorem State.sendMembers_serials (s : State) : s.sendMembers.stack.serials = s.stack.serials := by
  unfold State.sendMembers
  refine List.foldlRecOn (motive := fun t : State => t.stack.serials = s.stack.serials) _ _ rfl fun t ht c _ => ?_
  rw [State.ringSend_serials, ht]

/-- FORGET leaves the serial numbers alone, or drops the first entry of the cell it names. -/
theorem cascadeForget_serials {s t : State} (h : exec .cascadeForget s = .next t) :
    t.stack.serials = s.stack.serials ∨ t.stack.serials = mdel s.stack.serials (s.rd Reg.CASC_CTRL_FORGET_CELL 0) := by
  rw [exec, execCascadeForget] at h
  dsimp only at h
  split at h <;> cases h
  · exact .inr (State.sendMembers_serials _)
  · exact .inl rfl

/-- Refutes O57 in its third clause: the map of serial numbers of a state is a plain list, and where it names a cell twice, FORGET drops
one of the two entries, so that the cell still has a serial number. Here the master forgets cell 3, which is listed and ABSENT and has
the serial numbers 76 and 77. -/
theorem not_ringFormsAndChanges : ¬ Obligations.RingFormsAndChanges := by
  rintro ⟨-, -, hforget, -⟩
  obtain ⟨t, hexec, -, hgone, -⟩ := hforget
    { ((({} : State).wr Reg.CASC_STATUS_STATE 0 csMaster).wr Reg.CASC_CTRL_FORGET_CELL 0 3).wr Reg.CASC_CELL_LISTED 3 1 with
      stack := { serials := [(3, 76), (3, 77)] } }
    3 (by decide +kernel) (by decide +kernel) (by decide +kernel) (by decide +kernel) (by decide +kernel)
  have hheld : mhas t.stack.serials 3 = true := by
    rcases cascadeForget_serials hexec with hkept | hdropped
    · rw [hkept]; rfl
    · rw [hdropped]; decide +kernel
  exact Bool.noConfusion (hheld.symm.trans hgone)

end Sys2Proof.Machine
end

section
/-!
PROOF. The host and its peers read and write device memory (O44): the bytes that a list of bytes leaves where it is written, and what an
access from outside changes besides.
-/

set_option Elab.async false

namespace Sys2Proof.Machine

/-! ### Bytes written and read -/

theorem length_bytesLE (n x : Nat) : (bytesLE n x).length = n := by
  induction n generalizing x with
  | zero => rfl
  | succ n ih => rw [bytesLE, List.length_cons, ih]

/-- Byte `i` of a number packed into bytes. -/
theorem getD_bytesLE {n i : Nat} (h : i < n) (x : Nat) : (bytesLE n x).getD i 0 = bitsOf x (8 * i) 8 := by
  induction n generalizing i x with
  | zero => exact absurd h (Nat.not_lt_zero _)
  | succ n ih =>
    cases i with
    | zero => rfl
    | succ i =>
      rw [bytesLE, List.getD_cons_succ, ih (Nat.lt_of_succ_lt_succ h), bitsOf, bitsOf, Nat.mul_succ, Nat.add_comm (8 * i) 8,
        Nat.shiftRight_add, Nat.shiftRight_eq_div_pow x 8]

theorem memRead_memWriteList_below (l : List Nat) {m : List Host.Cell} (h : Memory.wf m = true) {a j : Nat} (hj : j < a) :
    memRead (memWriteList m a l) j = memRead m j := by
  induction l generalizing m a with
  | nil => rfl
  | cons b r ih =>
    rw [memWriteList, ih (memWrite_wf _ _ _ h) (by omega), memRead_memWrite _ _ _ _ 0 h, if_neg (by omega)]

theorem memRead_memWriteList_above (l : List Nat) {m : List Host.Cell} (h : Memory.wf m = true) {a j : Nat} (hj : a + l.length ≤ j) :
    memRead (memWriteList m a l) j = memRead m j := by
  induction l generalizing m a with
  | nil => rfl
  | cons b r ih =>
    rw [List.length_cons] at hj
    rw [memWriteList, ih (memWrite_wf _ _ _ h) (by omega), memRead_memWrite _ _ _ _ 0 h, if_neg (by omega)]

theorem memRead_memWriteList (l : List Nat) {m : List Host.Cell} (h : Memory.wf m = true) (a : Nat) {i : Nat} (hi : i < l.length) :
    memRead (memWriteList m a l) (a + i) = BitVec.ofNat 8 (l.getD i 0) := by
  induction l generalizing m a i with
  | nil => exact absurd hi (Nat.not_lt_zero _)
  | cons b r ih =>
    cases i with
    | zero =>
      rw [memWriteList, memRead_memWriteList_below r (memWrite_wf _ _ _ h) (by omega), memRead_memWrite _ _ _ _ 0 h,
        if_pos (Nat.add_zero a)]
      rfl
    | succ i =>
      rw [memWriteList, Nat.add_comm i 1, ← Nat.add_assoc, ih (memWrite_wf _ _ _ h) (a + 1) (Nat.lt_of_succ_lt_succ hi), Nat.add_comm 1 i,
        List.getD_cons_succ]

/-- Memory of `t` is that of `s` with bytes written from an address on: they are read there, and what was there everywhere else. -/
theorem State.byte_of_written {s t : State} {a : Nat} {bs : List Nat} (hwf : Memory.wf s.mem = true)
    (ht : t.mem = memWriteList s.mem a bs) : (∀ i < bs.length, t.byte (a + i) = bs.getD i 0 % 256) ∧
      ∀ x, x < a ∨ a + bs.length ≤ x → t.byte x = s.byte x := by
  refine ⟨fun i hi => ?_, fun x hx => ?_⟩
  · rw [State.byte, ht, memRead_memWriteList bs hwf a hi]
    rfl
  · rw [State.byte, State.byte, ht]
    rcases hx with hlow | hhigh
    · rw [memRead_memWriteList_below bs hwf hlow]
    · rw [memRead_memWriteList_above bs hwf hhigh]

theorem State.bytes_congr {s t : State} (h : t.mem = s.mem) (a n : Nat) : t.bytes a n = s.bytes a n := by
  simp only [State.bytes, State.byte, h]

theorem State.touchLines_mem (s : State) (a n : Nat) : (s.touchLines a n).mem = s.mem :=
  (s.touchLines_keeps a n).part .mem (by decide +kernel)

theorem State.store_mem (s : State) (a : Nat) (bs : List Nat) : (s.store a bs).mem = memWriteList s.mem a bs := by
  unfold State.store
  dsimp only
  split
  · rfl
  · rw [State.touchLines_mem]

/-! ### Corrections leave uncorrectable lines -/

theorem State.noteCe_ue (s : State) (line rank cw device beat source : Nat) :
    (s.noteCe line rank cw device beat source).ms.ue = s.ms.ue := by
  unfold State.noteCe
  extract_lets a ch sub s1 s2 s3 hour ms ms0 k n hit s4
  have h3 : Keeps (allRegs ||| State.raiseWin_mask) s s3 :=
    (State.raiseWin_keeps ..).step (.set1 (.wr (.wr (.wr (.wr (.wr (.wr (.wr (.wr (.bump (.refl _ _)))))))))))
  have h0 : ms0.ue = s.ms.ue := by
    rw [← h3.part .ms (by decide +kernel)]
    exact (apply_ite MemSys.ue ..).trans (ite_self _)
  have h4 : s4.ms.ue = s.ms.ue := h0
  clear_value s4
  split
  · rw [(s4.raise_keeps ..).part .ms (by decide +kernel), h4]
  · exact h4

theorem State.correctStored_ue (s : State) (line cw source : Nat) : (s.correctStored line cw source).ms.ue = s.ms.ue := by
  simp only [State.correctStored, State.noteCe_ue]
  rfl

theorem State.correctRange_ue (s : State) (a n source : Nat) : (s.correctRange a n source).ms.ue = s.ms.ue := by
  unfold State.correctRange
  exact List.foldlRecOn (motive := fun t : State => t.ms.ue = s.ms.ue) _ _ rfl fun t ht p _ => (t.correctStored_ue ..).trans ht

theorem State.touchDram_ue (s : State) : s.touchDram.ms.ue = s.ms.ue := by
  unfold State.touchDram
  dsimp only
  split <;> rfl

theorem State.ueAt_congr {s t : State} (h : t.ms.ue = s.ms.ue) (a n : Nat) : t.ueAt a n = s.ueAt a n := by
  rw [State.ueAt, State.ueAt, h]

/-! ### What is done before the bytes are given or stored (R582, R740, R746) -/

/-- The pages that an access from outside touches go to host bias, and DRAM leaves self-refresh. -/
def State.outside (s : State) (off n : Nat) : State := (s.toHost off n).touchDram

theorem State.outside_keeps (s : State) (off n : Nat) : Keeps (State.toHost_mask ||| State.touchDram_mask) s (s.outside off n) :=
  (State.touchDram_keeps _).step ((State.toHost_keeps ..).mono)

theorem State.outside_mem (s : State) (off n : Nat) : (s.outside off n).mem = s.mem := (s.outside_keeps off n).part .mem (by decide +kernel)

/-- A read from outside corrects what it finds stored wrong. -/
def State.outsideRead (s : State) (off n a source : Nat) : State := (s.outside off n).correctRange a n source

theorem State.outsideRead_keeps (s : State) (off n a source : Nat) :
    Keeps (State.toHost_mask ||| State.touchDram_mask ||| State.correctRange_mask) s (s.outsideRead off n a source) :=
  (State.correctRange_keeps ..).step ((s.outside_keeps off n).mono)

theorem State.outsideRead_ue (s : State) (off n a source : Nat) : (s.outsideRead off n a source).ms.ue = s.ms.ue := by
  rw [State.outsideRead, State.correctRange_ue]
  exact State.touchDram_ue _

/-- A read from outside gives the bytes of device memory, and leaves them. -/
theorem State.outsideRead_gives (s : State) (off n a source : Nat) :
    (s.outsideRead off n a source).bytes a n = s.bytes a n ∧ (s.outsideRead off n a source).ueAt a n = s.ueAt a n ∧
      (s.outsideRead off n a source).out = s.out ∧ (s.outsideRead off n a source).mem = s.mem := by
  have hkeep := s.outsideRead_keeps off n a source
  have hmem : (s.outsideRead off n a source).mem = s.mem := hkeep.part .mem (by decide +kernel)
  exact ⟨State.bytes_congr hmem a n, State.ueAt_congr (s.outsideRead_ue ..) a n, hkeep.part .out (by decide +kernel), hmem⟩

/-! ### Reads from outside (R579, R601) -/

theorem gives_hdmHostRead (s : State) (l : BitVec 33) (hopen : s.flag Reg.HEP_STATUS_HDM_OPEN 0 = true)
    (hin : l.toNat * 64 + 64 ≤ s.rangeSize) (hgood : s.ueAt (hdmBase + l.toNat * 64) 64 = none) :
    s.gives (.hdmHostRead l) fun t =>
      t.out = .hdmData (l.toNat * 64) (s.bytes (hdmBase + l.toNat * 64) 64) false :: s.out ∧ t.mem = s.mem := by
  obtain ⟨hbytes, hue, hout, hmem⟩ := s.outsideRead_gives (l.toNat * 64) 64 (hdmBase + l.toNat * 64) srcHost
  have hgo : ¬ ((!s.flag Reg.HEP_STATUS_HDM_OPEN 0) = true ∨ s.rangeSize < l.toNat * 64 + 64) := by simp [hopen, hin]
  have hnone : (((s.toHost (l.toNat * 64) 64).touchDram).correctRange (hdmBase + l.toNat * 64) 64 srcHost).ueAt
      (hdmBase + l.toNat * 64) 64 = none := hue.trans hgood
  have hex : exec (.hdmHostRead l) s = .next ((s.outsideRead (l.toNat * 64) 64 (hdmBase + l.toNat * 64) srcHost).emit
      (.hdmData (l.toNat * 64) (s.bytes (hdmBase + l.toNat * 64) 64) false)) := by
    rw [← hbytes, exec, execHdmHostRead]
    simp only [hgo, if_false, hnone]
    rfl
  exact State.gives_of_exec hex ⟨congrArg _ hout, hmem⟩

theorem gives_peerRequest_read (s : State) (o : BitVec 36) (n : Fin 4096) (id : BitVec 16) (a : Nat)
    (hup : s.flag Reg.HEP_STATUS_LINK_UP 0 = true) (hopen : s.flag Reg.HEP_STATUS_HDM_OPEN 0 = true)
    (hmap : s.peerMap o.toNat (n.val + 1) id.toNat false = some a) (hgood : s.ueAt (hdmBase + a) (n.val + 1) = none) :
    s.gives (.peerRequest o n id none) fun t =>
      t.out = .peerData o.toNat (s.bytes (hdmBase + a) (n.val + 1)) false :: s.out ∧ t.mem = s.mem := by
  obtain ⟨hbytes, hue, hout, hmem⟩ := s.outsideRead_gives a (n.val + 1) (hdmBase + a) srcPeer
  have hnone : (((s.toHost a (n.val + 1)).touchDram).correctRange (hdmBase + a) (n.val + 1) srcPeer).ueAt (hdmBase + a)
      (n.val + 1) = none := hue.trans hgood
  have hex : exec (.peerRequest o n id none) s = .next ((s.outsideRead a (n.val + 1) (hdmBase + a) srcPeer).emit
      (.peerData o.toNat (s.bytes (hdmBase + a) (n.val + 1)) false)) := by
    rw [← hbytes]
    refine (if_neg (by simp [hup])).trans ((if_neg (by simp [hopen])).trans ?_)
    simp only [Option.isSome_none, hmap, hnone]
    rfl
  exact State.gives_of_exec hex ⟨congrArg _ hout, hmem⟩

/-! ### Writes from outside (R579, R603) -/

theorem mergeMask_length (old new : List Nat) (mask : Nat) : (mergeMask old new mask).length = 64 := by
  rw [mergeMask, List.length_map, upTo, List.length_range]

theorem getD_mergeMask (old new : List Nat) (mask : Nat) {i : Nat} (hi : i < 64) :
    (mergeMask old new mask).getD i 0 = if bitOf mask i then new.getD i 0 % 256 else old.getD i 0 := by
  simp [mergeMask, upTo, hi]

theorem State.getD_bytes (s : State) (a : Nat) {n i : Nat} (hi : i < n) : (s.bytes a n).getD i 0 = s.byte (a + i) := by
  simp [State.bytes, upTo, hi]

theorem bitOf_all {w i : Nat} (hi : i < w) : bitOf (2 ^ w - 1) i = true := by
  rw [bitOf_eq_testBit, Nat.testBit_two_pow_sub_one, decide_eq_true hi]

theorem State.byte_lt (s : State) (a : Nat) : s.byte a < 256 := (memRead s.mem a).isLt

/-- The bytes that a masked write of a line leaves there. -/
def State.maskedLine (s : State) (l : BitVec 33) (d : BitVec 512) (m : BitVec 64) : List Nat :=
  if m.toNat = 2 ^ 64 - 1 then bytesLE 64 d.toNat else mergeMask (s.bytes (hdmBase + l.toNat * 64) 64) (bytesLE 64 d.toNat) m.toNat

theorem State.maskedLine_length (s : State) (l : BitVec 33) (d : BitVec 512) (m : BitVec 64) : (s.maskedLine l d m).length = 64 := by
  unfold State.maskedLine
  split
  · exact length_bytesLE ..
  · exact mergeMask_length ..

theorem State.getD_maskedLine (s : State) (l : BitVec 33) (d : BitVec 512) (m : BitVec 64) {i : Nat} (hi : i < 64) :
    (s.maskedLine l d m).getD i 0 % 256 = if bitOf m.toNat i then bitsOf d.toNat (8 * i) 8 else s.byte (hdmBase + l.toNat * 64 + i) := by
  have hdata : (bytesLE 64 d.toNat).getD i 0 % 256 = bitsOf d.toNat (8 * i) 8 := by
    rw [getD_bytesLE hi]
    exact bitsOf_mod ..
  unfold State.maskedLine
  split
  · next hall => rw [hdata, hall, if_pos (bitOf_all hi)]
  · rw [getD_mergeMask _ _ _ hi, hdata, s.getD_bytes _ hi]
    split
    · exact bitsOf_mod ..
    · exact Nat.mod_eq_of_lt (s.byte_lt _)

theorem exec_hdmHostWrite_mem {s : State} {l : BitVec 33} (d : BitVec 512) (m : BitVec 64) (p : Bool)
    (hopen : s.flag Reg.HEP_STATUS_HDM_OPEN 0 = true) (hin : l.toNat * 64 + 64 ≤ s.rangeSize) :
    ∃ t, exec (.hdmHostWrite l d m p) s = .next t ∧ t.mem = memWriteList s.mem (hdmBase + l.toNat * 64) (s.maskedLine l d m) := by
  have hgo : ¬ ((!s.flag Reg.HEP_STATUS_HDM_OPEN 0) = true ∨ s.rangeSize < l.toNat * 64 + 64) := by simp [hopen, hin]
  have hmem : ((s.toHost (l.toNat * 64) 64).touchDram).mem = s.mem := s.outside_mem ..
  rw [exec, execHdmHostWrite]
  simp only [hgo, if_false]
  refine ⟨_, rfl, ?_⟩
  rw [apply_ite State.mem, ite_self, State.maskedLine]
  split
  · rw [State.store_mem, hmem]
  · rw [State.touchLines_mem, State.bytes_congr hmem, hmem]

theorem gives_hdmHostWrite (s : State) (l : BitVec 33) (d : BitVec 512) (m : BitVec 64) (p : Bool) (hwf : Memory.wf s.mem = true)
    (hopen : s.flag Reg.HEP_STATUS_HDM_OPEN 0 = true) (hin : l.toNat * 64 + 64 ≤ s.rangeSize) : s.gives (.hdmHostWrite l d m p) fun t =>
      (∀ i < 64, t.byte (hdmBase + l.toNat * 64 + i) =
        if bitOf m.toNat i then bitsOf d.toNat (8 * i) 8 else s.byte (hdmBase + l.toNat * 64 + i)) ∧
      ∀ a, a < hdmBase + l.toNat * 64 ∨ hdmBase + l.toNat * 64 + 64 ≤ a → t.byte a = s.byte a := by
  obtain ⟨t, hex, hmem⟩ := exec_hdmHostWrite_mem d m p hopen hin
  obtain ⟨hline, hrest⟩ := State.byte_of_written hwf hmem
  rw [State.maskedLine_length] at hline hrest
  exact State.gives_of_exec hex ⟨fun i hi => (hline i hi).trans (s.getD_maskedLine l d m hi), hrest⟩

theorem gives_peerRequest_write (s : State) (o : BitVec 36) (n : Fin 4096) (id : BitVec 16) (a : Nat) (bs : List Nat)
    (hwf : Memory.wf s.mem = true) (hup : s.flag Reg.HEP_STATUS_LINK_UP 0 = true) (hopen : s.flag Reg.HEP_STATUS_HDM_OPEN 0 = true)
    (hmap : s.peerMap o.toNat (n.val + 1) id.toNat true = some a) (hlen : bs.length = n.val + 1) :
    s.gives (.peerRequest o n id (some bs)) fun t => (∀ i < n.val + 1, t.byte (hdmBase + a + i) = bs.getD i 0 % 256) ∧
      ∀ x, x < hdmBase + a ∨ hdmBase + a + (n.val + 1) ≤ x → t.byte x = s.byte x := by
  have hpad : padBytes (n.val + 1) (bs.take (n.val + 1)) = bs := by simp [padBytes, ← hlen]
  have hex : exec (.peerRequest o n id (some bs)) s = .next ((s.outside a (n.val + 1)).store (hdmBase + a) bs) := by
    refine (if_neg (by simp [hup])).trans ((if_neg (by simp [hopen])).trans ?_)
    simp only [Option.isSome_some, hmap, hpad]
    rfl
  have hmem : ((s.outside a (n.val + 1)).store (hdmBase + a) bs).mem = memWriteList s.mem (hdmBase + a) bs := by
    rw [State.store_mem, State.outside_mem]
  rw [← hlen]
  exact State.gives_of_exec hex (State.byte_of_written hwf hmem)

/-! ### Peer requests that no window maps (R602) -/

theorem gives_peerRequest_unsupported (s : State) (o : BitVec 36) (n : Fin 4096) (id : BitVec 16)
    (hup : s.flag Reg.HEP_STATUS_LINK_UP 0 = true) (hopen : s.flag Reg.HEP_STATUS_HDM_OPEN 0 = true)
    (hmap : s.peerMap o.toNat (n.val + 1) id.toNat false = none) :
    s.gives (.peerRequest o n id none) fun t => t.out = .peerUnsupported o.toNat :: s.out ∧ t.mem = s.mem := by
  refine State.gives_of_exec (t := s.emit (.peerUnsupported o.toNat)) ?_ ⟨rfl, rfl⟩
  refine (if_neg (by simp [hup])).trans ((if_neg (by simp [hopen])).trans ?_)
  rw [Option.isSome_none, hmap]

/-- The first dropped write since the log was read is logged. -/
def State.logDrop (s : State) (o id : Nat) : State :=
  if s.flag Reg.HEP_WIN_LOG_ID_VALID 0 then s
  else (((s.wr Reg.HEP_WIN_LOG_ADDR 0 o).wr Reg.HEP_WIN_LOG_ID_WIN 0 (o / 2 ^ 30)).wr Reg.HEP_WIN_LOG_ID_REQ_ID 0 id).set1
    Reg.HEP_WIN_LOG_ID_VALID 0

theorem State.logDrop_keeps (s : State) (o id : Nat) : Keeps (fieldBits [Reg.HEP_WIN_LOG_ADDR, Reg.HEP_WIN_LOG_ID_WIN,
    Reg.HEP_WIN_LOG_ID_REQ_ID, Reg.HEP_WIN_LOG_ID_VALID]) s (s.logDrop o id) :=
  .ite (.refl _ _) (.set1 (.wr (.wr (.wr (.refl _ _)))))

theorem gives_peerRequest_dropped (s : State) (o : BitVec 36) (n : Fin 4096) (id : BitVec 16) (bs : List Nat)
    (hup : s.flag Reg.HEP_STATUS_LINK_UP 0 = true) (hopen : s.flag Reg.HEP_STATUS_HDM_OPEN 0 = true)
    (hmap : s.peerMap o.toNat (n.val + 1) id.toNat true = none)
    (hroom : s.rd Reg.HEP_WIN_DROP_COUNT 0 < 2 ^ Reg.HEP_WIN_DROP_COUNT.w - 1) :
    s.gives (.peerRequest o n id (some bs)) fun t =>
      t.rd Reg.HEP_WIN_DROP_COUNT 0 = s.rd Reg.HEP_WIN_DROP_COUNT 0 + 1 ∧ t.mem = s.mem ∧ t.out = s.out := by
  let u := s.bump Reg.HEP_WIN_DROP_COUNT 0 1
  let t := (u.logDrop o.toNat id.toNat).raiseWin 0x0806 0 [o.toNat / 2 ^ 30, id.toNat] true
  have hvalid : u.flag Reg.HEP_WIN_LOG_ID_VALID 0 = s.flag Reg.HEP_WIN_LOG_ID_VALID 0 := State.flag_wr_ne _ _ _ _ _ _ (by decide)
  have hex : exec (.peerRequest o n id (some bs)) s = .next t := by
    refine (if_neg (by simp [hup])).trans ((if_neg (by simp [hopen])).trans ?_)
    rw [Option.isSome_some, hmap]
    simp only [← hvalid]
    rfl
  have hkeep : Keeps (fieldBits [Reg.HEP_WIN_LOG_ADDR, Reg.HEP_WIN_LOG_ID_WIN, Reg.HEP_WIN_LOG_ID_REQ_ID, Reg.HEP_WIN_LOG_ID_VALID] |||
      State.raiseWin_mask) u t := (State.raiseWin_keeps ..).step ((u.logDrop_keeps ..).mono)
  have hcount : u.rd Reg.HEP_WIN_DROP_COUNT 0 = s.rd Reg.HEP_WIN_DROP_COUNT 0 + 1 := s.rd_bump_of_lt (Nat.add_lt_of_lt_sub hroom)
  exact State.gives_of_exec hex ⟨(hkeep.rd _ _ (by decide +kernel)).trans hcount, hkeep.part .mem (by decide +kernel),
    hkeep.part .out (by decide +kernel)⟩

/-- Settles O44, clause by clause. -/
theorem hostAndPeerMemoryAccess : Obligations.HostAndPeerMemoryAccess :=
  ⟨gives_hdmHostRead, gives_hdmHostWrite, gives_peerRequest_read, gives_peerRequest_write, gives_peerRequest_unsupported,
    gives_peerRequest_dropped⟩

end Sys2Proof.Machine
end

section
/-!
PROOF. To complete what may complete leaves the host endpoint but for its pages in host bias: those of a buffer that is freed go to
device bias. An operation that frees no buffer leaves the endpoint by its lemma of `Keeps`; those that may free one are followed here.
-/

set_option Elab.async false

namespace Sys2Proof.Machine

/-- The host endpoint but for its pages in host bias. -/
def Hep.unpaged (x : Hep) : Hep := { x with hostPages := [] }

/-- An operation leaves the host endpoint but for its pages in host bias. -/
abbrev HepKeeps (s t : State) : Prop := EachKeeps (fun s (_ : Nat) => s.hep) Hep.unpaged s t

namespace EachKeeps

variable {s t u : State}

theorem hepEq (h : HepKeeps s t) : t.hep.unpaged = s.hep.unpaged := h.same 0

theorem ofHep (h : t.hep = s.hep) : HepKeeps s t := ⟨fun _ => congrArg Hep.unpaged h⟩

/-- An operation that leaves the endpoint, after those before it. -/
theorem hep {m : Nat} (h : HepKeeps s t) (hk : Keeps m t u) (hm : m.testBit (Part.bit .hep) = false := by decide +kernel) :
    HepKeeps s u := h.trans (.ofHep (hk.part .hep hm))

/-- An operation that leaves the endpoint. -/
theorem ofKeeps {m : Nat} (hk : Keeps m s t) (hm : m.testBit (Part.bit .hep) = false := by decide +kernel) : HepKeeps s t :=
  .ofHep (hk.part .hep hm)

end EachKeeps

/-- The one operation of those below that changes the endpoint: pages leave host bias (R582). -/
theorem State.toDevice_hep (s : State) (k : Nat) : HepKeeps s (s.toDevice k) := by
  unfold State.toDevice
  extract_lets a n x s1 s2
  have hflush : HepKeeps s s2 :=
    EachKeeps.foldl (fun _ p => EachKeeps.foldl (fun _ _ => .ofHep rfl) (.refl _)) ⟨fun _ => rfl⟩
  exact hflush.trans (.ofHep rfl)

theorem State.freeBuf_hep (s : State) (k : Nat) : HepKeeps s (s.freeBuf k) :=
  .ite ((s.toDevice_hep k).trans (.ofHep rfl)) (.refl _)

theorem State.settleBuf_hep (s : State) (k : Nat) : HepKeeps s (s.settleBuf k) := by
  unfold State.settleBuf
  split
  · exact .ite (s.freeBuf_hep k) (.refl _)
  · exact .refl _

theorem State.settleAll_hep (s : State) : HepKeeps s s.settleAll := EachKeeps.foldl (fun t b => t.settleBuf_hep b.1) (.refl _)

theorem State.letBuf_hep (s : State) (k : Nat) : HepKeeps s (s.letBuf k) := by
  unfold State.letBuf
  split
  · exact .ite (.ite (.refl _) (s.freeBuf_hep k)) (s.settleBuf_hep k)
  · exact .refl _

theorem State.dropHeld_hep (s : State) (p : Held → Bool) : HepKeeps s (s.dropHeld p) :=
  EachKeeps.foldl (fun t h => t.letBuf_hep h.buf) (.ofHep rfl)

theorem State.fallBack_hep (s : State) (zk n : Nat) : HepKeeps s (s.fallBack zk n) := by
  unfold State.fallBack
  extract_lets hit gone lost s1 s2 s3 z s4
  have h1 : HepKeeps s s1 := EachKeeps.foldl (fun _ _ => .ofHep rfl) (.refl _)
  have h2 : HepKeeps s s2 := by
    refine EachKeeps.foldl (fun t h => ?_) h1
    split
    · exact .ite (.refl _) (EachKeeps.ofKeeps (State.finish_keeps ..))
    · exact .refl _
  have h4 : HepKeeps s s4 := (h2.trans (State.dropHeld_hep ..)).trans (.ofHep rfl)
  clear_value s4 lost
  split
  · exact h4
  · exact h4.hep (State.raise_keeps ..)

theorem State.failZoneWrites_hep (s : State) (zk status : Nat) : HepKeeps s (s.failZoneWrites zk status) := by
  unfold State.failZoneWrites
  extract_lets mine s1 s2 s3
  have h1 : HepKeeps s s1 := EachKeeps.foldl (fun t h => (EachKeeps.ofKeeps (t.flushMissed_keeps zk h.ord)).hep (State.fail_keeps ..))
    (.refl _)
  have h3 : HepKeeps s s3 := EachKeeps.foldl (fun _ _ => .ofHep rfl) (h1.trans (State.dropHeld_hep ..))
  exact h3.trans (State.fallBack_hep ..)

theorem State.shutZone_hep (s : State) (zk : Nat) : HepKeeps s (s.shutZone zk) :=
  ((s.failZoneWrites_hep zk _).trans (State.fallBack_hep ..)).hep (State.closeZone_keeps ..)

theorem State.zoneState_hep (s : State) (d side : Nat) : HepKeeps s (s.zoneState d side) :=
  (EachKeeps.ite (EachKeeps.foldl State.shutZone_hep (.refl _)) (.refl _)).hep (State.mgmtSet_keeps ..)

theorem State.finalise_hep (s : State) (d side : Nat) : HepKeeps s (s.finalise d side) :=
  ((EachKeeps.foldl State.shutZone_hep (.refl s)).hep (State.mgmtSet_keeps ..)).hep (State.putDisc_keeps ..)

theorem State.settleWrite_hep (s : State) (c : Cmd) : HepKeeps s (s.settleWrite c) := by
  have hfin : ∀ (t : State) (st n : Nat), HepKeeps t (t.finish c.sq c.tag st n 0 0) := fun t st n =>
    EachKeeps.ofKeeps (State.finish_keeps ..)
  unfold State.settleWrite
  extract_lets n mine last
  have hjournal : ∀ zk : Nat, HepKeeps s (if (s.zone zk).jdue < last then s.journalZone zk else s) := fun zk =>
    .ite (.ofKeeps (State.journalZone_keeps ..)) (.refl _)
  exact .ite (.ite ((hfin ..).trans (State.fallBack_hep ..)) (.refl _))
    (.ite (.ite (.refl _) (.ite ((hjournal _).trans (hfin ..)) (hjournal _))) (.ite (hfin ..) (.refl _)))

theorem State.settleClose_hep (s : State) (c : Cmd) : HepKeeps s (s.settleClose c) := by
  unfold State.settleClose
  extract_lets zk d
  have hclosed : HepKeeps s ((s.initDisc d).closeZone zk .closed) :=
    (EachKeeps.ofKeeps (State.initDisc_keeps ..)).hep (State.closeZone_keeps ..)
  exact .ite (.ite (((hclosed.trans (State.zoneState_hep ..)).hep (State.snapshot_keeps ..)).hep (State.setStage_keeps ..)) (.refl _))
    (.ite (.refl _) (.ofKeeps (State.finish_keeps ..)))

theorem State.settleFinalise_hep (s : State) (c : Cmd) : HepKeeps s (s.settleFinalise c) := by
  unfold State.settleFinalise
  split
  · exact .refl _
  · next d _ =>
    refine .ite (.ite ?_ (.refl _)) (.ite (.refl _) (.ite ?_ ?_))
    · have h1 : HepKeeps s (s.initDisc d) := EachKeeps.ofKeeps (State.initDisc_keeps ..)
      exact (EachKeeps.ite h1 (h1.trans (State.finalise_hep ..))).hep (State.setStage_keeps ..)
    · exact (s.finalise_hep d 1).hep (State.setStage_keeps ..)
    · exact (EachKeeps.ofKeeps (State.snapshot_keeps ..)).hep (State.fail_keeps ..)

theorem State.settleUnmount_hep (s : State) (c : Cmd) : HepKeeps s (s.settleUnmount c) := by
  unfold State.settleUnmount
  split
  · next d n _ _ =>
    extract_lets bad
    refine .ite (EachKeeps.ofKeeps (State.fail_keeps ..)) (.ite (.ite ?_ (.refl _)) (.ite (.ite (.refl _) ?_)
      (.ite (.ite (.ite ?_ ?_) (.refl _)) (.refl _))))
    · have hsides : HepKeeps s ([0, 1].foldl (fun t i =>
          if t.sideChanged d i && ((t.disc d).side i).writable then t.zoneState d i else t) s) :=
        EachKeeps.foldl (fun t i => .ite (t.zoneState_hep d i) (.refl _)) (.refl _)
      exact hsides.hep (State.setStage_keeps ..)
    · have hparked : HepKeeps s (((s.snapshot d true).parkHead (2 * n) 1).parkHead (2 * n + 1) 1) :=
        ((EachKeeps.ofKeeps (State.snapshot_keeps ..)).hep (State.parkHead_keeps ..)).hep (State.parkHead_keeps ..)
      exact (EachKeeps.ite (hparked.hep (State.spinTarget_keeps ..)) hparked).hep (State.setStage_keeps ..)
    · exact (EachKeeps.ofKeeps (State.askTransfer_keeps ..)).hep (State.setStage_keeps ..)
    · have hgone : HepKeeps s { s with cmds := s.cmds.filter fun x => x.ord != c.ord } := .ofHep rfl
      exact (hgone.hep (State.dropGuest_keeps ..)).hep (State.ringSend_keeps ..)
  · exact .refl _

theorem State.settleCmd_hep (s : State) (sq tag : Nat) : HepKeeps s (s.settleCmd sq tag) := by
  unfold State.settleCmd
  split
  · exact .refl _
  · next c _ =>
    refine .ite (.refl _) ?_
    split
    · exact EachKeeps.ofKeeps (State.settleRead_keeps ..)
    · exact EachKeeps.ofKeeps (State.settleRead_keeps ..)
    · exact s.settleWrite_hep c
    · exact EachKeeps.ofKeeps (State.settleFlush_keeps ..)
    · exact s.settleClose_hep c
    · exact s.settleFinalise_hep c
    · exact s.settleUnmount_hep c
    · exact EachKeeps.ofKeeps (State.settleAbort_keeps ..)
    · exact .refl _

theorem State.finishSides_hep (s : State) : HepKeeps s s.finishSides := by
  refine EachKeeps.foldl (fun t p => ?_) (.refl _)
  exact .ite (.ite (t.finalise_hep p.1 1) (EachKeeps.ofKeeps (State.initDisc_keeps ..))) (.refl _)

/-- What may have become complete completes without a change of the host endpoint but of its pages. -/
theorem State.settle_hep (s : State) : s.settle.hep.unpaged = s.hep.unpaged := by
  refine EachKeeps.hepEq ?_
  unfold State.settle
  extract_lets s1 s2
  have hcmds : HepKeeps s (s.cmds.foldl (fun t c => t.settleCmd c.sq c.tag) s) :=
    EachKeeps.foldl (fun t c => t.settleCmd_hep c.sq c.tag) (.refl s)
  have h1 : HepKeeps s s1 := (hcmds.trans (State.settleAll_hep _)).trans (State.finishSides_hep _)
  have h2 : HepKeeps s s2 := by
    refine EachKeeps.foldl (fun t m => ?_) h1
    split
    · exact EachKeeps.ofKeeps (State.wantSlice_keeps ..)
    · exact .refl _
  exact EachKeeps.foldl (fun t p => EachKeeps.ofKeeps (State.showSlice_keeps ..)) h2

theorem State.settle_atc (s : State) : s.settle.hep.atc = s.hep.atc := (congrArg Hep.atc s.settle_hep :)

theorem State.settle_asked (s : State) : s.settle.hep.asked = s.hep.asked := (congrArg Hep.asked s.settle_hep :)

theorem State.settle_msixEn (s : State) : s.settle.hep.msixEn = s.hep.msixEn := (congrArg Hep.msixEn s.settle_hep :)

end Sys2Proof.Machine
end

section
/-!
PROOF. The host endpoint (O43): its link, configuration requests and reset, the decoder of HDM, peer windows, invalidations and
translations.
-/

set_option Elab.async false

namespace Sys2Proof.Machine

/-! ### The link and configuration space (R570, R573, R606, R613, R617) -/

theorem State.flag_wrB (s : State) {f : Fld} (i : Nat) (b : Bool) (hw : 0 < f.w) : (s.wrB f i b).flag f i = b := by
  cases b
  · exact s.flag_clr f i
  · exact s.flag_set1 i hw

/-- The link shows its rate, its width and whether CXL runs, and is up. -/
def State.linkShown (s : State) (r w : Nat) (c : Bool) : State :=
  (((s.wr Reg.HEP_STATUS_SPEED 0 r).wr Reg.HEP_STATUS_WIDTH 0 w).wrB Reg.HEP_STATUS_CXL 0 c).set1 Reg.HEP_STATUS_LINK_UP 0

theorem State.linkShown_spec (s : State) {r w : Nat} (c : Bool) (hr : r < 8) (hw : w < 32) :
    (s.linkShown r w c).flag Reg.HEP_STATUS_LINK_UP 0 = true ∧ (s.linkShown r w c).rd Reg.HEP_STATUS_SPEED 0 = r ∧
      (s.linkShown r w c).rd Reg.HEP_STATUS_WIDTH 0 = w ∧ (s.linkShown r w c).flag Reg.HEP_STATUS_CXL 0 = c := by
  refine ⟨State.flag_set1 _ _ (by decide), ?_, ?_, ?_⟩
  · rw [State.linkShown, State.rd_set1_ne _ _ _ _ _ (by decide), State.rd_wrB_ne _ _ _ _ _ _ (by decide),
      State.rd_wr_ne _ _ _ _ _ _ (by decide), State.rd_wr_same]
    exact Nat.mod_eq_of_lt hr
  · rw [State.linkShown, State.rd_set1_ne _ _ _ _ _ (by decide), State.rd_wrB_ne _ _ _ _ _ _ (by decide), State.rd_wr_same]
    exact Nat.mod_eq_of_lt hw
  · exact (State.flag_wr_ne _ _ _ _ _ _ (by decide)).trans (State.flag_wrB _ _ _ (by decide))

theorem gives_hostLinkUp (s : State) (r w : Nat) (c : Bool) (hdown : s.flag Reg.HEP_STATUS_LINK_UP 0 = false) (hr1 : 1 ≤ r)
    (hr5 : r ≤ 5) (hw : w = 4 ∨ w = 8 ∨ w = 16) (hmode : s.mode ≠ mBanked) (hpor : s.pw.porst = false) (hcxl : c = true → 3 ≤ r) :
    s.gives (.hostLinkUp r w c) fun t => t.flag Reg.HEP_STATUS_LINK_UP 0 = true ∧ t.rd Reg.HEP_STATUS_SPEED 0 = r ∧
      t.rd Reg.HEP_STATUS_WIDTH 0 = w ∧ t.flag Reg.HEP_STATUS_CXL 0 = c := by
  let u := (s.linkShown r w c).raise 0x0802 [r, w, if c then 1 else 0]
  let t := if w < 16 ∨ r < 5 then u.raise 0x0804 [r, w] else u
  have hex : exec (.hostLinkUp r w c) s = .next t := by
    refine if_neg ?_
    have hslow : ¬ (c = true ∧ r < 3) := fun h => absurd (hcxl h.1) (by omega)
    simp [hdown, hr1, hr5, hw, hmode, hpor, hslow]
  have hkeep : Keeps State.raise_mask (s.linkShown r w c) t :=
    .ite ((State.raise_keeps ..).step (State.raise_keeps ..)) (State.raise_keeps ..)
  obtain ⟨hup, hspeed, hwidth, hc⟩ := s.linkShown_spec c (r := r) (w := w) (by omega) (by omega)
  exact State.gives_of_exec hex ⟨(hkeep.flag _ _ (by decide +kernel)).trans hup, (hkeep.rd _ _ (by decide +kernel)).trans hspeed,
    (hkeep.rd _ _ (by decide +kernel)).trans hwidth, (hkeep.flag _ _ (by decide +kernel)).trans hc⟩

theorem gives_configRequest_retry (s : State) (r : CfgReq) (hup : s.flag Reg.HEP_STATUS_LINK_UP 0 = true)
    (hfw : s.flag Reg.GCTL_STATUS_FW_READY 0 = false) (hmode : s.mode ≠ mCinder) : s.gives (.configRequest r) fun t =>
      t.out = .cfgRetry :: s.out ∧ t.regs = s.regs ∧ t.hep = s.hep :=
  State.gives_of_exec (t := s.emit .cfgRetry) ((if_neg (by simp [hup])).trans (if_pos ⟨by simp [hfw], hmode⟩)) ⟨rfl, rfl, rfl⟩

theorem gives_configRequest_ids (s : State) (hup : s.flag Reg.HEP_STATUS_LINK_UP 0 = true)
    (hfw : s.flag Reg.GCTL_STATUS_FW_READY 0 = true) : s.gives (.configRequest (.read 0)) fun t =>
      t.out = .cfgData 0 0x81281D8B :: s.out ∧ t.regs = s.regs :=
  State.gives_of_exec (t := s.emit (.cfgData 0 0x81281D8B)) ((if_neg (by simp [hup])).trans (if_neg (by simp [hfw]))) ⟨rfl, rfl⟩

theorem State.flushPending_hep (s : State) : s.flushPending.hep = s.hep := s.flushPending_keeps.part .hep (by decide +kernel)

theorem gives_configRequest_msix (s : State) (en mask : Bool) (hup : s.flag Reg.HEP_STATUS_LINK_UP 0 = true)
    (hfw : s.flag Reg.GCTL_STATUS_FW_READY 0 = true) : s.gives (.configRequest (.msix en mask)) fun t =>
      t.hep.msixEn = en ∧ t.hep.fnMask = mask ∧ t.out.head? = some .cfgNormal := by
  let u : State := { s with hep := { s.hep with msixEn := en, fnMask := mask } }
  have hhep : (u.flushPending.emit .cfgNormal).hep = u.hep := (State.emit_hep ..).trans u.flushPending_hep
  refine State.gives_of_exec (t := u.flushPending.emit .cfgNormal) ((if_neg (by simp [hup])).trans (if_neg (by simp [hfw])))
    ⟨?_, ?_, rfl⟩
  · rw [hhep]
  · rw [hhep]

/-! ### The reset of the host endpoint (R616, R682) -/

theorem mget_filter_out {d k : Nat} (p : Nat × Nat → Bool) (l : List (Nat × Nat)) (hp : ∀ v, p (k, v) = false) :
    mget d (l.filter p) k = d := by
  induction l with
  | nil => rfl
  | cons x r ih =>
    rw [List.filter_cons]
    split
    · next hx =>
      have hne : x.1 ≠ k := fun e => by rw [← Prod.eta x, e, hp] at hx; cases hx
      rw [mget, if_neg hne, ih]
    · exact ih

/-- A field of a block that is reset returns to its reset value. -/
theorem State.rd_resetBlocks (s : State) (blks : List Nat) (f : Fld) (i : Nat) (hblk : blks.contains (f.id % 8192 / 256) = true)
    (hid : f.id % 256 < 160) : (s.resetBlocks blks).rd f i = f.rst i := by
  refine mget_filter_out _ _ fun v => ?_
  have hkey : f.key i % 8192 = f.id % 8192 := by rw [Fld.key, Nat.add_comm, Nat.add_mul_mod_self_right]
  have hlow : f.key i % 256 = f.id % 256 := by rw [Fld.key, Nat.add_mod, Nat.mul_mod]; simp
  simp only [hkey, hlow, hblk, hid, decide_true, Bool.and_true, Bool.not_true]

/-- The endpoint that a reset leaves, before what may complete completes: no queue, no group, its registers and its ATC reset. -/
structure EndpointCleared (u : State) : Prop where
  sqs : u.sqs = []
  grps : u.grps = []
  copyWait : u.copyWait = []
  atc : u.hep.atc = []
  msixEn : u.hep.msixEn = false
  down : u.flag Reg.HEP_STATUS_LINK_UP 0 = false

theorem EndpointCleared.settle {u : State} (h : EndpointCleared u) : EndpointCleared u.settle where
  sqs := (u.settle_keeps.part .sqs (by decide +kernel)).trans h.sqs
  grps := (u.settle_keeps.part .grps (by decide +kernel)).trans h.grps
  copyWait := (u.settle_keeps.part .copyWait (by decide +kernel)).trans h.copyWait
  atc := u.settle_atc.trans h.atc
  msixEn := u.settle_msixEn.trans h.msixEn
  down := (u.settle_keeps.flag _ _ (by decide +kernel)).trans h.down

theorem EndpointCleared.keeps {m : Nat} {u t : State} (h : EndpointCleared u) (hk : Keeps m u t)
    (hsqs : m.testBit (Part.bit .sqs) = false := by decide +kernel) (hgrps : m.testBit (Part.bit .grps) = false := by decide +kernel)
    (hcopy : m.testBit (Part.bit .copyWait) = false := by decide +kernel) (hhep : m.testBit (Part.bit .hep) = false := by decide +kernel)
    (hup : m.testBit (Reg.HEP_STATUS_LINK_UP.id % 8192) = false := by decide +kernel) : EndpointCleared t where
  sqs := (hk.part .sqs hsqs).trans h.sqs
  grps := (hk.part .grps hgrps).trans h.grps
  copyWait := (hk.part .copyWait hcopy).trans h.copyWait
  atc := (congrArg Hep.atc (hk.part .hep hhep)).trans h.atc
  msixEn := (congrArg Hep.msixEn (hk.part .hep hhep)).trans h.msixEn
  down := (hk.flag _ _ hup).trans h.down

theorem State.endpointReset_cleared (s : State) : EndpointCleared s.endpointReset := by
  unfold State.endpointReset
  extract_lets s1 s2 s3 s4 s5
  clear_value s3
  have hdown : s4.rd Reg.HEP_STATUS_LINK_UP 0 = 0 := s3.rd_resetBlocks _ Reg.HEP_STATUS_LINK_UP 0 (by decide) (by decide)
  exact EndpointCleared.settle ⟨rfl, rfl, rfl, rfl, rfl, State.flag_eq_false hdown⟩

theorem gives_hostEndpointReset (s : State) (p : Bool) : s.gives (.hostEndpointReset p) fun t => t.sqs = [] ∧ t.grps = [] ∧
    t.copyWait = [] ∧ t.hep.atc = [] ∧ t.hep.msixEn = false ∧ t.flag Reg.HEP_STATUS_LINK_UP 0 = false ∧
      t.lastEvent 0x0803 [if p then 0 else 1] := by
  obtain ⟨hsqs, hgrps, hcopy, hatc, hmsix, hdown⟩ :=
    s.endpointReset_cleared.keeps (s.endpointReset.raise_keeps 0x0803 [if p then 0 else 1])
  exact State.gives_of_exec rfl ⟨hsqs, hgrps, hcopy, hatc, hmsix, hdown, State.raise_lastEvent ..⟩

/-! ### The decoder of HDM (R572, R578) -/

/-- HDM is open when the decoder is committed and CXL.mem is enabled. -/
theorem State.showHdm_open (s : State) :
    s.showHdm.flag Reg.HEP_STATUS_HDM_OPEN 0 = (s.hep.committed && s.flag Reg.HEP_STATUS_MEM_EN 0) := s.flag_wrB 0 _ (by decide)

/-- The decoder holds the outcome of its last commit. -/
def State.decoderSet (s : State) (ok : Bool) : State := { s with hep := { s.hep with committed := ok, notCommitted := !ok } }

theorem exec_hdmDecoderCommit {s : State} {ways size : Nat} {ok : Bool} (h : (decide (ways = 1) && decide (size = s.rangeSize)) = ok) :
    exec (.hdmDecoderCommit ways size) s = .next (s.decoderSet ok).showHdm := by
  subst h
  rfl

theorem gives_hdmDecoderCommit (s : State) : s.gives (.hdmDecoderCommit 1 s.rangeSize) fun t => t.hep.committed = true ∧
    t.hep.notCommitted = false ∧ t.flag Reg.HEP_STATUS_HDM_OPEN 0 = s.flag Reg.HEP_STATUS_MEM_EN 0 :=
  State.gives_of_exec (exec_hdmDecoderCommit (ok := true) (by simp))
    ⟨rfl, rfl, (s.decoderSet true).showHdm_open.trans (Bool.true_and _)⟩

theorem gives_hdmDecoderCommit_refused (s : State) (ways size : Nat) (hbad : ways ≠ 1 ∨ size ≠ s.rangeSize) :
    s.gives (.hdmDecoderCommit ways size) fun t => t.hep.committed = false ∧ t.hep.notCommitted = true ∧
      t.flag Reg.HEP_STATUS_HDM_OPEN 0 = false := by
  have hok : (decide (ways = 1) && decide (size = s.rangeSize)) = false := by
    rw [Bool.and_eq_false_iff, decide_eq_false_iff_not, decide_eq_false_iff_not]
    exact hbad
  exact State.gives_of_exec (exec_hdmDecoderCommit hok) ⟨rfl, rfl, (s.decoderSet false).showHdm_open.trans (Bool.false_and _)⟩

/-! ### Peer windows (R599, R600) -/

theorem gives_peerWindowCommit (s : State) (hfree : s.flag Reg.HEP_WIN_COMMIT_PENDING 0 = false)
    (hok : ∀ w ∈ upTo 64, s.winOk w = true) : s.gives .peerWindowCommit fun t => t.flag Reg.HEP_WIN_COMMIT_PENDING 0 = true ∧
      t.hep.taken = (upTo 64).map fun w => (w, s.winTgt w, s.winCfg w) := by
  have hnone : ((upTo 64).find? fun w => !s.winOk w) = none := List.find?_eq_none.2 fun w hw => by simp [hok w hw]
  let u : State := { s with hep := { s.hep with taken := (upTo 64).map fun w => (w, s.winTgt w, s.winCfg w) } }
  have hex : exec .peerWindowCommit s = .next (u.set1 Reg.HEP_WIN_COMMIT_PENDING 0) := by
    refine (if_neg (by simp [hfree])).trans ?_
    rw [hnone]
  exact State.gives_of_exec hex ⟨u.flag_set1 0 (by decide), rfl⟩

theorem gives_peerWindowCommit_error (s : State) (w : Nat) (hfree : s.flag Reg.HEP_WIN_COMMIT_PENDING 0 = false)
    (hbad : ((upTo 64).find? fun w => !s.winOk w) = some w) : s.gives .peerWindowCommit fun t =>
      t.flag Reg.HEP_WIN_COMMIT_COMMIT_ERR 0 = true ∧ t.flag Reg.HEP_WIN_COMMIT_PENDING 0 = false ∧ t.lastEvent 0x0807 [1, w] := by
  let u := s.set1 Reg.HEP_WIN_COMMIT_COMMIT_ERR 0
  let v := u.wr Reg.HEP_WIN_COMMIT_ERR_WIN 0 w
  have hex : exec .peerWindowCommit s = .next (v.raise 0x0807 [1, w]) := by
    refine (if_neg (by simp [hfree])).trans ?_
    rw [hbad]
  have hkeep : Keeps (fieldBits [Reg.HEP_WIN_COMMIT_ERR_WIN] ||| State.raise_mask) u (v.raise 0x0807 [1, w]) :=
    (State.raise_keeps ..).step (.wr (.refl _ _))
  have hstill : u.flag Reg.HEP_WIN_COMMIT_PENDING 0 = false := (State.flag_wr_ne _ _ _ _ _ _ (by decide)).trans hfree
  exact State.gives_of_exec hex ⟨(hkeep.flag _ _ (by decide +kernel)).trans (s.flag_set1 0 (by decide)),
    (hkeep.flag _ _ (by decide +kernel)).trans hstill, State.raise_lastEvent ..⟩

/-- A shadow taken becomes what its window maps with. -/
def State.activate (s : State) (x : Nat × Nat × Nat) : State :=
  (s.wr Reg.HEP_WIN_ACT_TGT_ACTIVE x.1 x.2.1).wr Reg.HEP_WIN_ACT_CFG_ACTIVE x.1 x.2.2

/-- A window maps with a target and a configuration. -/
def State.mapsWith (s : State) (w tgt cfg : Nat) : Prop :=
  s.rd Reg.HEP_WIN_ACT_CFG_ACTIVE w = cfg % 2 ^ Reg.HEP_WIN_ACT_CFG_ACTIVE.w ∧
    s.rd Reg.HEP_WIN_ACT_TGT_ACTIVE w = tgt % 2 ^ Reg.HEP_WIN_ACT_TGT_ACTIVE.w

theorem State.activate_same (s : State) (w tgt cfg : Nat) : (s.activate (w, tgt, cfg)).mapsWith w tgt cfg :=
  ⟨State.rd_wr_same .., (State.rd_wr_ne _ _ _ _ _ _ (by decide)).trans (State.rd_wr_same ..)⟩

theorem State.activate_ne {s : State} {w tgt cfg : Nat} (h : s.mapsWith w tgt cfg) (x : Nat × Nat × Nat) (hne : x.1 ≠ w) :
    (s.activate x).mapsWith w tgt cfg :=
  ⟨(State.rd_wr_inst _ _ _ _ _ hne).trans ((State.rd_wr_ne _ _ _ _ _ _ (by decide)).trans h.1),
    (State.rd_wr_ne _ _ _ _ _ _ (by decide)).trans ((State.rd_wr_inst _ _ _ _ _ hne).trans h.2)⟩

/-- Windows activated one after the other each map with what was taken of them. -/
theorem State.activate_all (s : State) (tgt cfg : Nat → Nat) {l : List Nat} (hl : l.Nodup) :
    ∀ w ∈ l, (l.foldl (fun t w => t.activate (w, tgt w, cfg w)) s).mapsWith w (tgt w) (cfg w) :=
  foldl_each (ready := fun _ _ => True) (done := fun (t : State) w => t.mapsWith w (tgt w) (cfg w))
    (fun t _ _ => State.activate_same t ..) (fun _ _ _ _ _ _ => trivial) (fun _ _ _ _ hne h => State.activate_ne h _ hne.symm) hl
    (fun _ _ => trivial)

theorem gives_peerCommitEffect (s : State) (hpend : s.flag Reg.HEP_WIN_COMMIT_PENDING 0 = true)
    (htaken : s.hep.taken = (upTo 64).map fun w => (w, s.winTgt w, s.winCfg w)) : s.gives .peerCommitEffect fun t =>
      t.flag Reg.HEP_WIN_COMMIT_PENDING 0 = false ∧ ∀ w ∈ upTo 64,
        t.rd Reg.HEP_WIN_ACT_CFG_ACTIVE w = s.winCfg w % 2 ^ Reg.HEP_WIN_ACT_CFG_ACTIVE.w ∧
        t.rd Reg.HEP_WIN_ACT_TGT_ACTIVE w = s.winTgt w % 2 ^ Reg.HEP_WIN_ACT_TGT_ACTIVE.w := by
  let u := s.hep.taken.foldl State.activate s
  let v : State := { u with hep := { u.hep with taken := [] } }
  let x := v.clr Reg.HEP_WIN_COMMIT_PENDING 0
  let t := x.raise 0x0807 [0, s.rd Reg.HEP_WIN_COMMIT_ERR_WIN 0]
  have hex : exec .peerCommitEffect s = .next t := if_neg (by simp [hpend])
  have hraise : Keeps State.raise_mask x t := State.raise_keeps ..
  refine State.gives_of_exec hex ⟨(hraise.flag _ _ (by decide +kernel)).trans (v.flag_clr ..), fun w hw => ?_⟩
  have hact : u.mapsWith w (s.winTgt w) (s.winCfg w) := by
    unfold u
    rw [htaken, List.foldl_map]
    exact s.activate_all s.winTgt s.winCfg (upTo_nodup 64) w hw
  exact ⟨(hraise.rd _ _ (by decide +kernel)).trans ((State.rd_clr_ne _ _ _ _ _ (by decide)).trans hact.1),
    (hraise.rd _ _ (by decide +kernel)).trans ((State.rd_clr_ne _ _ _ _ _ (by decide)).trans hact.2)⟩

/-! ### An invalidation (R593, R594) -/

/-- No entry of the ATC meets a range, and the completion of an invalidation has been sent. -/
structure Invalidated (p : Option Nat) (a n itag : Nat) (t : State) : Prop where
  gone : ∀ x ∈ t.hep.atc, x.meets p a n = false
  sent : Out.invalidateDone itag ∈ t.out

namespace Invalidated

variable {p : Option Nat} {a n itag : Nat} {t : State}

theorem xlatLater (h : Invalidated p a n itag t) (q : Option Nat) (b k : Nat) : Invalidated p a n itag (t.xlatLater q b k) := by
  unfold State.xlatLater
  split
  · exact h
  · exact ⟨h.gone, h.sent⟩

/-- A translation asked for enters the ATC with its answer, not before. -/
theorem askRange (h : Invalidated p a n itag t) (q : Option Nat) (b k : Nat) : Invalidated p a n itag (t.askRange q b k) := by
  unfold State.askRange
  split
  · exact h
  · split
    · exact h
    · extract_lets page s1
      split
      · exact h
      · split
        · exact h.xlatLater q b k
        · exact ⟨h.gone, List.mem_cons_of_mem _ h.sent⟩

theorem useHost (h : Invalidated p a n itag t) (q : Option Nat) (b k : Nat) : Invalidated p a n itag (t.useHost q b k) := by
  unfold State.useHost
  extract_lets mark
  refine askRange ?_ q b k
  refine ⟨fun y hy => ?_, h.sent⟩
  obtain ⟨x, hx, rfl⟩ := List.mem_map.1 hy
  unfold mark
  split <;> exact h.gone x hx

theorem useDesc (h : Invalidated p a n itag t) (e : Nat) : Invalidated p a n itag (t.useDesc e) := by
  unfold State.useDesc
  dsimp only
  split
  · exact h
  · split
    · exact h.useHost ..
    · exact h

theorem retryXlat (h : Invalidated p a n itag t) : Invalidated p a n itag t.retryXlat :=
  List.foldlRecOn _ _ (motive := Invalidated p a n itag) ⟨h.gone, h.sent⟩ fun _ ht _ _ => ht.askRange ..

end Invalidated

theorem gives_atsInvalidate (s : State) (p : Option (BitVec 20)) (a n itag : Nat) (us : Fin 101) :
    s.gives (.atsInvalidate p a n itag us) fun t => (∀ x ∈ t.hep.atc, x.meets (p.map BitVec.toNat) a n = false) ∧
      .invalidateDone itag ∈ t.out ∧ t.now = s.now + us * 1500 := by
  let q := p.map BitVec.toNat
  let s1 := s.advance (us.val * 1500)
  let s2 : State := { s1 with hep := { s1.hep with atc := s1.hep.atc.filter fun x => !x.meets q a n } }
  let s3 := (s2.bump Reg.HEP_INV_CNT_COUNT 0 1).wr Reg.HEP_INV_CNT_MAX_US 0 (max (s.rd Reg.HEP_INV_CNT_MAX_US 0) us.val)
  let s4 := s3.emit (.invalidateDone itag)
  let s5 := s4.engines.foldl (fun t e => t.useDesc e.1) s4
  have h4 : Invalidated q a n itag s4 := ⟨fun x hx => by simpa using (List.mem_filter.1 hx).2, List.mem_cons_self⟩
  have h5 : Invalidated q a n itag s5.retryXlat := (List.foldlRecOn _ _ h4 fun _ ht e _ => ht.useDesc e.1).retryXlat
  have hkeep : Keeps (State.useDesc_mask ||| State.retryXlat_mask) s4 s5.retryXlat :=
    (State.retryXlat_keeps _).step (.foldl (fun t e => (t.useDesc_keeps e.1).mono) (.refl _ _))
  exact State.gives_of_exec (t := s5.retryXlat) rfl ⟨h5.gone, h5.sent, hkeep.now.trans (s.advance_now _)⟩

/-! ### A translation is granted (R591) -/

/-- The entry that a granted translation gives the ATC. -/
def grantEntry (x : Grant) (p : Option Nat) (a now : Nat) : Atc :=
  { pasid := p, addr := a / max 4096 x.size * max 4096 x.size, size := max 4096 x.size, trans := x.trans, rd := x.rd, wr := x.wr,
    used := now }

theorem State.atcPut_of_empty {s : State} (h : s.hep.atc = []) (x : Atc) : s.atcPut x = { s with hep := { s.hep with atc := [x] } } := by
  simp [State.atcPut, h]

theorem gives_translationCompletion (s : State) (p : Option (BitVec 20)) (a : BitVec 64) (x : Grant)
    (hasked : s.hep.asked.contains (p.map BitVec.toNat, a.toNat) = true) (hrd : x.rd = true) (_ : x.wr = true) (hcmds : s.cmds = [])
    (hatc : s.hep.atc = []) : s.gives (.translationCompletion p a (some x)) fun t =>
      t.hep.asked.contains (p.map BitVec.toNat, a.toNat) = false ∧
      t.hep.atc.map (fun y => (y.pasid, y.addr, y.size, y.trans)) =
        [(p.map BitVec.toNat, a.toNat / max 4096 x.size * max 4096 x.size, max 4096 x.size, x.trans)] := by
  let q := p.map BitVec.toNat
  let s1 : State := { s with hep := { s.hep with asked := s.hep.asked.filter fun y => y != (q, a.toNat) } }
  let s2 : State := { s1 with hep := { s1.hep with atc := [grantEntry x q a.toNat s.now] } }
  have hput : s1.atcPut (grantEntry x q a.toNat s.now) = s2 := State.atcPut_of_empty (s := s1) hatc _
  have hex : exec (.translationCompletion p a (some x)) s = .next s2.settle := by
    have hgo : ¬ (!s.hep.asked.contains (p.map BitVec.toNat, a.toNat)) = true := by
      rw [hasked]
      decide
    rw [exec, execTranslationCompletion, if_neg hgo]
    extract_lets hep u size base u2 ok mine bad u3
    have hu2 : u2 = s2 := by
      unfold u2
      rw [if_pos (by rw [hrd]; rfl)]
      exact hput
    have hmine : mine = [] := by
      unfold mine
      rw [hu2]
      exact congrArg (List.filter _) hcmds
    have hu3 : u3 = s2 := by
      unfold u3 bad
      rw [hmine]
      exact hu2
    rw [hmine, List.foldl_nil, hu3]
  refine State.gives_of_exec hex ⟨?_, ?_⟩
  · rw [s2.settle_asked]
    simp [s2, s1, q]
  · rw [s2.settle_atc]
    rfl

/-- Settles O43, clause by clause. -/
theorem hostEndpointActs : Obligations.HostEndpointActs :=
  ⟨gives_hostLinkUp, gives_configRequest_retry, gives_configRequest_ids, gives_configRequest_msix, gives_hostEndpointReset,
    gives_hdmDecoderCommit, gives_hdmDecoderCommit_refused, gives_peerWindowCommit, gives_peerWindowCommit_error,
    gives_peerCommitEffect, gives_atsInvalidate, gives_translationCompletion⟩

end Sys2Proof.Machine
end

section
/-!
PROOF. The SMBus port (O45).
-/

set_option Elab.async false

namespace Sys2Proof.Machine

/-! ### Answers (R609) -/

/-- A block read answers its count, status and content, and the PEC of the whole transfer. -/
theorem State.smbBlock_out (s : State) (cmd status : Nat) {n : Nat} {l : List Nat} (hl : l.length = n) :
    (s.smbBlock cmd status l).out =
      .smb ([n + 1, status] ++ l ++ [pec ([s.smbAddr false, cmd, s.smbAddr true, n + 1, status] ++ l)]) :: s.out := by
  subst hl
  rfl

/-! ### IDENTIFY and HEALTH (R607, R611, R614) -/

theorem gives_smbIdentify_nack (s : State) (hoff : s.smbAwake = false) :
    s.gives .smbIdentify fun t => t.out = .smbNack :: s.out ∧ t.regs = s.regs :=
  State.gives_of_exec (t := s.emit .smbNack) (if_pos (by rw [hoff]; rfl)) ⟨rfl, rfl⟩

/-- What IDENTIFY answers. -/
def State.smbIds (s : State) : List Nat :=
  [Reg.GCTL_ID_PART, Reg.GCTL_REV_BASE, Reg.GCTL_SERIAL_LO_SERIAL, Reg.GCTL_SERIAL_HI_SERIAL].flatMap fun f => bytesLE 4 (s.regOf f)

theorem State.length_smbIds (s : State) : s.smbIds.length = 16 := by
  simp [State.smbIds, length_bytesLE]

theorem gives_smbIdentify (s : State) (hon : s.smbAwake = true) : s.gives .smbIdentify fun t => ∃ l : List Nat,
    l = s.smbIds ∧ t.out = .smb ([17, smOk] ++ l ++ [pec ([s.smbAddr false, 0x00, s.smbAddr true, 17, smOk] ++ l)]) :: s.out :=
  State.gives_of_exec (t := s.smbBlock 0x00 smOk s.smbIds) (if_neg (by simp [hon])) ⟨s.smbIds, rfl, s.smbBlock_out _ _ s.length_smbIds⟩

/-- What HEALTH answers. -/
def State.smbReport (s : State) : List Nat :=
  bytesLE 4 (s.regOf Reg.GCTL_STATUS_MODE) ++ bytesLE 2 (s.rd Reg.PWR_TEMP_TJ 0) ++ bytesLE 2 s.pw.ownW

theorem State.length_smbReport (s : State) : s.smbReport.length = 8 := by
  simp [State.smbReport, length_bytesLE]

theorem gives_smbHealth (s : State) (hon : s.smbAwake = true) (hfw : s.flag Reg.GCTL_STATUS_FW_READY 0 = true) :
    s.gives .smbHealth fun t => ∃ l : List Nat,
      l = s.smbReport ∧ t.out = .smb ([9, smOk] ++ l ++ [pec ([s.smbAddr false, 0x01, s.smbAddr true, 9, smOk] ++ l)]) :: s.out :=
  State.gives_of_exec (t := s.smbBlock 0x01 smOk s.smbReport) ((if_neg (by simp [hon])).trans (if_neg (by simp [hfw])))
    ⟨s.smbReport, rfl, s.smbBlock_out _ _ s.length_smbReport⟩

/-! ### SET_OFFSET and READ_REG (R608) -/

theorem gives_smbSetOffset (s : State) (o : BitVec 32) (p : Option (BitVec 8)) (hon : s.smbAwake = true)
    (hpec : s.pecOk 0x02 (4 :: bytesLE 4 o.toNat) p = true) (hserves : s.smbServes = true) :
    s.gives (.smbSetOffset o p) fun t => t.hep.smbOffset = o.toNat ∧ t.out = .smb [smOk] :: s.out :=
  State.gives_of_exec (t := ({ s with hep := { s.hep with smbOffset := o.toNat } } : State).emit (.smb [smOk]))
    ((if_neg (by simp [hon])).trans ((if_neg (by simp [hpec])).trans (if_neg (by simp [hserves])))) ⟨rfl, rfl⟩

theorem gives_smbReadReg (s : State) (hon : s.smbAwake = true) (hserves : s.smbServes = true)
    (hread : smbReadable s.hep.smbOffset = true) : s.gives .smbReadReg fun t =>
      t.out = .smb ([5, smOk] ++ bytesLE 4 (s.word32 s.hep.smbOffset) ++ [pec ([s.smbAddr false, 0x03, s.smbAddr true, 5, smOk] ++
        bytesLE 4 (s.word32 s.hep.smbOffset))]) :: s.out :=
  State.gives_of_exec (t := s.smbBlock 0x03 smOk (bytesLE 4 (s.word32 s.hep.smbOffset)))
    ((if_neg (by simp [hon])).trans ((if_neg (by simp [hserves])).trans (if_pos hread))) (s.smbBlock_out _ _ (length_bytesLE ..))

/-- A block read that is not OK answers its status and content that is a free value. -/
theorem State.smbNot_spec (s : State) (cmd status n : Nat) : ∃ l : List Nat, (s.smbNot cmd status n).out =
    .smb ([l.length + 1, status] ++ l ++ [pec ([s.smbAddr false, cmd, s.smbAddr true, l.length + 1, status] ++ l)]) :: s.out ∧
      l.length = n ∧ (s.smbNot cmd status n).free = s.free + 1 :=
  ⟨bytesLE n (s.draw 64).1, (s.draw 64).2.smbBlock_out cmd status rfl, length_bytesLE .., rfl⟩

theorem gives_smbReadReg_denied (s : State) (hon : s.smbAwake = true) (hserves : s.smbServes = true)
    (hread : smbReadable s.hep.smbOffset = false) : s.gives .smbReadReg fun t => ∃ l : List Nat,
      t.out = .smb ([l.length + 1, smDenied] ++ l ++ [pec ([s.smbAddr false, 0x03, s.smbAddr true, l.length + 1, smDenied] ++ l)]) ::
        s.out ∧ l.length = 4 ∧ t.free = s.free + 1 :=
  State.gives_of_exec (t := s.smbNot 0x03 smDenied 4)
    ((if_neg (by simp [hon])).trans ((if_neg (by simp [hserves])).trans (if_neg (by simp [hread])))) (s.smbNot_spec ..)

/-! ### WAKE (R607, R861) -/

theorem gives_smbWake_invalid (s : State) (v : BitVec 8) (p : Option (BitVec 8)) (i : Bool) (hon : s.smbAwake = true)
    (hpec : s.pecOk 0x08 [v.toNat] p = true) (hfw : s.flag Reg.GCTL_STATUS_FW_READY 0 = true) (hv : v ≠ 1) :
    s.gives (.smbWake v p i) fun t => t.out = .smb [smInvalid] :: s.out ∧ t.pw = s.pw :=
  State.gives_of_exec (t := s.emit (.smb [smInvalid]))
    ((if_neg (by simp [hon])).trans ((if_neg (by simp [hpec])).trans ((if_neg (by simp [hfw])).trans (if_pos hv)))) ⟨rfl, rfl⟩

/-- Out of BANKED nothing is there to wake. -/
theorem gives_smbWake_awake (s : State) (p : Option (BitVec 8)) (i : Bool) (hon : s.smbAwake = true) (hpec : s.pecOk 0x08 [1] p = true)
    (hfw : s.flag Reg.GCTL_STATUS_FW_READY 0 = true) (hmode : s.mode ≠ mBanked) :
    s.gives (.smbWake 1 p i) fun t => t.out = .smb [smOk] :: s.out ∧ t.pw = s.pw := by
  have hdone : ¬ (!s.pecOk 0x08 [(1 : BitVec 8).toNat] p) = true := by
    rw [show (1 : BitVec 8).toNat = 1 from rfl, hpec]
    decide
  have hex : exec (.smbWake 1 p i) s = .next (s.emit (.smb [smOk])) := by
    refine (if_neg (by simp [hon])).trans ((if_neg hdone).trans ((if_neg (by simp [hfw])).trans ((if_neg (by simp)).trans ?_)))
    exact congrArg Host.Outcome.next (if_neg fun h => hmode h.1)
  exact State.gives_of_exec hex ⟨rfl, rfl⟩

/-- Settles O45, clause by clause. -/
theorem managementPortAnswers : Obligations.ManagementPortAnswers :=
  ⟨gives_smbIdentify_nack, gives_smbIdentify, gives_smbHealth, gives_smbSetOffset, gives_smbReadReg, gives_smbReadReg_denied,
    gives_smbWake_invalid, gives_smbWake_awake⟩

end Sys2Proof.Machine
end

section
/-!
PROOF. The queue of commands and its step (O1, O7), the EVT ring (O12), and the cache operations turned away while one runs (O13).
-/

set_option Elab.async false

namespace Sys2Proof.Machine

/-! ### The queue of commands -/

/-- Settles O1: the queue is not empty, so its front is carried out. -/
theorem stepRunsTheFrontCommand : Obligations.StepRunsTheFrontCommand := fun _ _ _ => rfl

/-- What only changes as some mask says keeps the queue of commands. -/
theorem Keeps.pending {m : Nat} {s t : State} (h : Keeps m s t) : t.pending = s.pending := by
  obtain ⟨hpending, _⟩ := h
  exact hpending

/-- Settles O7: no command touches the queue (`exec_keeps`), and a step is a command or an idle cycle. -/
theorem commandsWaitFirstInFirstOut : Obligations.CommandsWaitFirstInFirstOut := by
  unfold Obligations.CommandsWaitFirstInFirstOut
  refine ⟨fun c rest s t hp h => ?_, fun s t h => ?_⟩
  · rw [step, hp] at h
    exact (exec_keeps c { s with pending := rest } t h).pending
  · obtain ⟨_, rfl⟩ | ⟨c, rest, _, h⟩ := step_cases h
    · exact s.idle_keeps.now_le
    · exact (exec_keeps c { s with pending := rest } t h).now_le

/-! ### The EVT ring (R885 to R887) -/

/-- The registers of the event ring read the same after a block has marked its event. -/
theorem State.markEvt_rd (s : State) (code : Nat) (data : List Nat) (f : Fld) (i : Nat)
    (hf : State.markEvt_mask.testBit (f.id % 8192) = false) : (s.markEvt code data).rd f i = s.rd f i :=
  (s.markEvt_keeps code data).rd f i hf

/-- The entry that an event places in the ring. -/
def State.evEntry (s : State) (code : Nat) (data : List Nat) : EvEntry :=
  { code := code, mode := s.mode, cell := s.cell, coarse := s.isCoarse, seq := (s.ev.seq + 1) % 2 ^ 48, time := s.time, data := data }

/-- An event, beside the mark in its block's register: the event part of the state with the entries given. -/
theorem State.raise_of_room {s : State} (h : s.ev.ring.length < 1024) (code : Nat) (data : List Nat) :
    (s.raise code data).ev.ring = s.ev.ring ++ [s.evEntry code data] ∧ (s.raise code data).regs = (s.markEvt code data).regs := by
  rw [State.raise]
  dsimp only
  rw [if_pos h]
  exact ⟨rfl, rfl⟩

/-- In a full ring the oldest entry makes place, OVERFLOW is set and EVT_LOST counts. -/
theorem State.raise_of_full {s : State} (h : ¬ s.ev.ring.length < 1024) (code : Nat) (data : List Nat) :
    (s.raise code data).ev.ring = s.ev.ring.drop 1 ++ [s.evEntry code data] ∧
      (s.raise code data).regs = (((s.markEvt code data).set1 Reg.EVT_STATUS_OVERFLOW 0).bump Reg.EVT_LOST_COUNT 0 1).regs := by
  rw [State.raise]
  dsimp only
  rw [if_neg h]
  exact ⟨rfl, rfl⟩

theorem State.raise_newest_of_room (s : State) (code : Nat) (d : List Nat) (h : s.ev.ring.length < 1024) :
    ∃ e : EvEntry, e.code = code ∧ e.data = d ∧ (s.raise code d).ev.ring = s.ev.ring ++ [e] ∧
      (s.raise code d).rd Reg.EVT_STATUS_OVERFLOW 0 = s.rd Reg.EVT_STATUS_OVERFLOW 0 ∧
      (s.raise code d).rd Reg.EVT_LOST_COUNT 0 = s.rd Reg.EVT_LOST_COUNT 0 := by
  obtain ⟨hring, hregs⟩ := State.raise_of_room h code d
  exact ⟨s.evEntry code d, rfl, rfl, hring, (State.rd_congr hregs _ _).trans (s.markEvt_rd _ _ _ _ (by decide +kernel)),
    (State.rd_congr hregs _ _).trans (s.markEvt_rd _ _ _ _ (by decide +kernel))⟩

theorem State.raise_newest_of_full (s : State) (code : Nat) (d : List Nat) (e0 : EvEntry) (r : List EvEntry)
    (hr : s.ev.ring = e0 :: r) (hlen : r.length = 1023)
    (hlost : s.rd Reg.EVT_LOST_COUNT 0 < 2 ^ Reg.EVT_LOST_COUNT.w - 1) :
    ∃ e : EvEntry, e.code = code ∧ e.data = d ∧ (s.raise code d).ev.ring = r ++ [e] ∧
      (s.raise code d).rd Reg.EVT_STATUS_OVERFLOW 0 = 1 ∧
      (s.raise code d).rd Reg.EVT_LOST_COUNT 0 = s.rd Reg.EVT_LOST_COUNT 0 + 1 := by
  obtain ⟨hring, hregs⟩ := State.raise_of_full (s := s) (by simp [hr, hlen]) code d
  have hcount : ((s.markEvt code d).set1 Reg.EVT_STATUS_OVERFLOW 0).rd Reg.EVT_LOST_COUNT 0 = s.rd Reg.EVT_LOST_COUNT 0 :=
    (State.rd_set1_ne _ _ _ _ _ (by decide)).trans (s.markEvt_rd _ _ _ _ (by decide +kernel))
  refine ⟨s.evEntry code d, rfl, rfl, by rw [hring, hr]; rfl, ?_, ?_⟩
  · rw [State.rd_congr hregs, State.rd_bump_ne _ _ _ _ _ _ (by decide)]
    exact State.rd_set1 ..
  · rw [State.rd_congr hregs, State.rd_bump_of_lt _ (by rw [hcount]; exact Nat.add_lt_of_lt_sub hlost), hcount]

/-- Settles O12: the entry is the newest, in a ring with room and in a full one. -/
theorem eventsFillTheRing : Obligations.EventsFillTheRing :=
  ⟨State.raise_newest_of_room, State.raise_newest_of_full⟩

/-! ### One cache operation at a time (R761, R767) -/

/-- No operation of the cache begins while one runs. -/
theorem State.cacheOp_of_busy {s : State} (h : s.flag Reg.MEMC_CACHE_OP_BUSY 0 = true) (src : Src) (op : Nat) (force : Bool)
    (f : State → Nat × Nat → State) : s.cacheOp src op force f = .next s := by
  rw [State.cacheOp, if_pos (.inr h)]

/-- A register that does not change while a cache operation runs: of its fields one is locked then, and the others are read-only. -/
def heldByCacheOp (f : Fld) : Bool :=
  ([Reg.MEMC_CACHE_ADDR_ADDR, Reg.MEMC_CACHE_LEN_LEN, Reg.MEMC_CACHE_OP_OP, Reg.MEMC_CACHE_OP_FORCE,
    Reg.MEMC_CACHE_OP_GO].any fun g => g.id == f.id) || decide (f.ty = .ro) && !hasRow f

theorem State.writeField_of_heldByCacheOp {s : State} (h : s.flag Reg.MEMC_CACHE_OP_BUSY 0 = true) {f : Fld} (hf : heldByCacheOp f = true)
    (src : Src) (i v : Nat) : s.writeField src f i v = s := by
  rw [heldByCacheOp, Bool.or_eq_true] at hf
  obtain hheld | hro := hf
  · refine State.writeField_of_shut ?_ v
    simp only [State.shut, h, hheld, Bool.true_and, Bool.or_true, Bool.true_or]
  · obtain ⟨hty, hrow⟩ := (Bool.and_eq_true ..).mp hro
    exact s.writeField_of_readOnly src (of_decide_eq_true hty) ((Bool.not_eq_true' _).mp hrow) i v

/-- A write of one register that a running cache operation holds changes nothing. -/
theorem State.gives_self_of_heldByCacheOp {s : State} (h : s.flag Reg.MEMC_CACHE_OP_BUSY 0 = true) {src : Src} {a : BitVec 26}
    {l : Fin 65} {d r w : Nat} (hw : wholeRegs a.toNat l.val = [(r, w)]) (hr : firstReserved a.toNat l.val = none)
    (hf : ((fieldsAt r).all fun p => heldByCacheOp p.1) = true) (hreg : isDoorbell r = false ∧ ¬(0xC00000 ≤ r ∧ r < 0xC20000)) :
    s.gives (.registerWrite src a l d) fun t => t = s := by
  obtain ⟨hdoor, hdesc⟩ := hreg
  have hheld (p : Fld × Nat) (hp : p ∈ fieldsAt r) (v : Nat) : s.writeField src p.1 p.2 v = s :=
    State.writeField_of_heldByCacheOp h (List.all_eq_true.1 hf p hp) src p.2 v
  have hfold (l : List (Fld × Nat)) (hl : ∀ p ∈ l, p ∈ fieldsAt r) (v : Nat) :
      l.foldl (fun t p => t.writeField src p.1 p.2 v) s = s :=
    List.foldlRecOn (motive := fun t => t = s) _ _ rfl fun t ht p hmem => by rw [ht]; exact hheld p (hl p hmem) v
  refine ⟨_, exec_registerWrite_of_one hw hr, ?_⟩
  rw [State.writeReg, hdoor, if_neg Bool.false_ne_true, if_neg hdesc]
  dsimp only
  rw [hfold _ (fun p hp => List.mem_of_mem_filter hp), hfold _ (fun p hp => List.mem_of_mem_filter hp)]

/-- Settles O13: an operation and a write of its registers are turned away by the same flag. -/
theorem oneCacheOperationAtATime : Obligations.OneCacheOperationAtATime := by
  unfold Obligations.OneCacheOperationAtATime
  refine ⟨fun s src f h => ?_, fun s src f h => ?_, fun s src f h => ?_, fun s src f h => ?_, fun s src d h => ?_, fun s src d h => ?_,
    fun s src d h => ?_⟩
  · exact State.gives_of_exec (show execCacheInvalidate src f s = .next s from State.cacheOp_of_busy h ..) rfl
  · exact State.gives_of_exec (show execCacheDrain src f s = .next s from State.cacheOp_of_busy h ..) rfl
  · exact State.gives_of_exec (show execCacheDrainInvalidate src f s = .next s from State.cacheOp_of_busy h ..) rfl
  · exact State.gives_of_exec (show execCacheLoadLock src f s = .next s from State.cacheOp_of_busy h ..) rfl
  · exact State.gives_self_of_heldByCacheOp h (r := 0x50100) (w := 8) (by decide +kernel) (by decide +kernel) (by decide +kernel)
      (by decide +kernel)
  · exact State.gives_self_of_heldByCacheOp h (r := 0x50108) (w := 4) (by decide +kernel) (by decide +kernel) (by decide +kernel)
      (by decide +kernel)
  · exact State.gives_self_of_heldByCacheOp h (r := 0x5010C) (w := 4) (by decide +kernel) (by decide +kernel) (by decide +kernel)
      (by decide +kernel)

end Sys2Proof.Machine
end

section
/-!
PROOF. The buffers that queues take, release and share, and the buffer that a copy command is granted (O27).
-/

set_option Elab.async false

namespace Sys2Proof.Machine

/-! ### Bytes cleared -/

theorem memRead_filter_out {p : Host.Cell → Bool} {k : Nat} (h : ∀ b, p (k, b) = false) (m : List Host.Cell) :
    memRead (m.filter p) k = memBlank := by
  induction m with
  | nil => rfl
  | cons q r ih =>
    obtain ⟨a, b⟩ := q
    rw [List.filter_cons]
    split
    · next hq =>
      have hne : a ≠ k := by rintro rfl; rw [h b] at hq; cases hq
      rw [memRead, if_neg hne, ih]
    · exact ih

theorem State.zeroMem_mem (s : State) (a n : Nat) : (s.zeroMem a n).mem = memClear s.mem a n := by
  unfold State.zeroMem
  dsimp only
  split
  · rfl
  · rw [State.touchLines_mem]

/-- Every byte of a range that has been cleared reads 0 (R693). -/
theorem State.byte_of_cleared {s t : State} {a n : Nat} (ht : t.mem = memClear s.mem a n) {x : Nat} (hlo : a ≤ x) (hhi : x < a + n) :
    t.byte x = 0 := by
  rw [State.byte, ht, memClear, memRead_filter_out (fun _ => by simp [hlo, hhi])]
  rfl

/-! ### A buffer is taken and freed (R693, R694, R706) -/

/-- The pool gives its next fresh buffer: the buffer belongs to the queue, and the pool has given one more. -/
theorem State.takeBuf_fresh {s : State} {p : Nat} (hact : s.flag Reg.BPM_STATUS_ACTIVE 0 = true)
    (hfresh : (mget {} s.pools p).fresh < s.rd Reg.BPM_POOL_CNT_COUNT p) (q : Nat) (o : Option Nat) :
    ∃ t, s.takeBuf p q o = some (bufKey p (mget {} s.pools p).fresh, t) ∧
      t.bufs = mput s.bufs (bufKey p (mget {} s.pools p).fresh) { owner := q, copyOf := o } ∧
      (mget {} t.pools p).fresh = (mget {} s.pools p).fresh + 1 := by
  have htake : poolTake (s.rd Reg.BPM_POOL_CNT_COUNT p) (mget {} s.pools p) =
      some ((mget {} s.pools p).fresh, { mget {} s.pools p with fresh := (mget {} s.pools p).fresh + 1 }) := if_pos hfresh
  refine ⟨_, by simp only [State.takeBuf, hact, Bool.not_true, Bool.false_eq_true, if_false, htake]; rfl, ?_, ?_⟩
  · rw [(State.toDevice_keeps ..).part .bufs (by decide +kernel)]
    rfl
  · rw [(State.toDevice_keeps ..).part .pools (by decide +kernel)]
    exact congrArg Pool.fresh (mget_mput_same _ s.pools p _)

/-- A buffer freed is gone, and its generation advances. -/
theorem State.freeBuf_spec {s : State} {k : Nat} (h : mhas s.bufs k = true) :
    (s.freeBuf k).bufs = mdel s.bufs k ∧ (s.freeBuf k).gen k = (s.gen k + 1) % 16 := by
  rw [State.freeBuf, if_pos h]
  exact ⟨rfl, mget_mput_same ..⟩

theorem mhas_of_mfind {α : Type} {l : List (Nat × α)} {k : Nat} {v : α} (h : mfind l k = some v) : mhas l k = true := by
  induction l with
  | nil => cases h
  | cons p r ih =>
    obtain ⟨a, b⟩ := p
    rw [mfind] at h
    rw [mhas, List.any_cons, Bool.or_eq_true]
    split at h
    · next he => exact .inl (beq_iff_eq.2 he)
    · exact .inr (ih h)

/-- A handle names a buffer that is allocated. -/
theorem State.mfind_of_known {s : State} {h k : Nat} {b : Buf} (hk : s.known h = some (k, b)) : mfind s.bufs k = some b := by
  unfold State.known at hk
  dsimp only at hk
  split at hk
  · next x hx =>
    split at hk
    · cases hk; exact hx
    · cases hk
  · cases hk

/-! ### BUFFER_ALLOC, BUFFER_RELEASE and BUFFER_SHARE (R660 to R662) -/

/-- A command that a step leaves in flight and waiting ends there as it would have before the step. -/
theorem State.finish_ended_after {s t : State} {c : Cmd} (hcmds : t.cmds = s.cmds) (hc : s.cmd? c.sq c.tag = some c)
    (hp : c.phase = .waiting) (hl : c.local = true) (status a b field : Nat) :
    (t.finish c.sq c.tag status a b field).ended c.sq c.tag status a b field :=
  State.finish_ended (by rw [State.cmd?_congr hcmds, hc]) hp hl status a b field

theorem State.bufOffset_congr {s t : State} (h : ∀ i, t.rd Reg.BPM_POOL_BASE_BASE i = s.rd Reg.BPM_POOL_BASE_BASE i) (k : Nat) :
    t.bufOffset k = s.bufOffset k := by
  rw [State.bufOffset, State.bufOffset, h]

theorem State.handle_congr {s t : State} (h : t.gens = s.gens) (k : Nat) : t.handle k = s.handle k := by
  rw [State.handle, State.handle, State.gen, State.gen, h]

theorem gives_bufferAlloc (s : State) (q : BitVec 20) (tag : BitVec 12) (c : Cmd) (p : Nat)
    (hc : s.runnable q.toNat tag.toNat opAlloc = some c) (hl : c.local = true) (hp : poolFor (c.get 16 4) = some p)
    (hq : s.quotaOk c.sq (poolGranules p) = true) (hact : s.flag Reg.BPM_STATUS_ACTIVE 0 = true)
    (hfresh : (mget {} s.pools p).fresh < s.rd Reg.BPM_POOL_CNT_COUNT p) :
    s.gives (.bufferAlloc q tag) fun t => ∃ k, t.ended c.sq c.tag stSuccess (t.handle k) (t.bufOffset k / 4096) 0 ∧
      k = bufKey p (mget {} s.pools p).fresh ∧ mfind t.bufs k = some { owner := c.sq } ∧
      (mget {} t.pools p).fresh = (mget {} s.pools p).fresh + 1 ∧
      ∀ a, hdmBase + t.bufOffset k ≤ a → a < hdmBase + t.bufOffset k + poolSize p → t.byte a = 0 := by
  obtain ⟨hfound, hphase, -⟩ := State.runnable_spec hc
  obtain ⟨u, htake, hbufs, hpools⟩ := State.takeBuf_fresh hact hfresh c.sq none
  generalize bufKey p (mget {} s.pools p).fresh = k at htake hbufs ⊢
  let v := u.zeroMem (hdmBase + u.bufOffset k) (poolSize p)
  let t := v.finish c.sq c.tag stSuccess (v.handle k) (v.bufOffset k / 4096) 0
  have hexec : exec (.bufferAlloc q tag) s = .next t := by
    simp only [exec, execBufferAlloc, hc, hp, hq, Bool.not_true, Bool.false_eq_true, if_false, htake]
    rfl
  have huv : Keeps State.zeroMem_mask u v := u.zeroMem_keeps ..
  have hvt : Keeps State.finish_mask v t := v.finish_keeps ..
  have hsu : Keeps State.takeBuf_mask s u := s.takeBuf_keeps p c.sq none _ htake
  have hoff : t.bufOffset k = u.bufOffset k :=
    State.bufOffset_congr (fun i => (hvt.rd _ i (by decide +kernel)).trans (huv.rd _ i (by decide +kernel))) k
  have hoffv : t.bufOffset k = v.bufOffset k := State.bufOffset_congr (fun i => hvt.rd _ i (by decide +kernel)) k
  have hhandle : t.handle k = v.handle k := State.handle_congr (hvt.part .gens (by decide +kernel)) k
  have hcmds : v.cmds = s.cmds := (huv.part .cmds (by decide +kernel)).trans (hsu.part .cmds (by decide +kernel))
  have htbufs : t.bufs = u.bufs := (hvt.part .bufs (by decide +kernel)).trans (huv.part .bufs (by decide +kernel))
  have htpools : t.pools = u.pools := (hvt.part .pools (by decide +kernel)).trans (huv.part .pools (by decide +kernel))
  have htmem : t.mem = memClear u.mem (hdmBase + u.bufOffset k) (poolSize p) :=
    (hvt.part .mem (by decide +kernel)).trans (u.zeroMem_mem ..)
  refine State.gives_of_exec hexec ⟨k, ?_, rfl, ?_, ?_, fun a hlo hhi => ?_⟩
  · rw [hhandle, hoffv]
    exact State.finish_ended_after hcmds hfound hphase hl ..
  · rw [htbufs, hbufs, mfind_mput_same]
  · rw [htpools, hpools]
  · rw [hoff] at hlo hhi
    exact State.byte_of_cleared htmem hlo hhi

theorem gives_bufferAlloc_tooLarge (s : State) (q : BitVec 20) (tag : BitVec 12) (c : Cmd)
    (hc : s.runnable q.toNat tag.toNat opAlloc = some c) (hl : c.local = true) (hp : poolFor (c.get 16 4) = none) :
    s.gives (.bufferAlloc q tag) fun t => t.ended c.sq c.tag stInvalidField 0 0 16 ∧ t.bufs = s.bufs ∧ t.mem = s.mem := by
  obtain ⟨hfound, hphase, -⟩ := State.runnable_spec hc
  have hexec : exec (.bufferAlloc q tag) s = .next (s.finish c.sq c.tag stInvalidField 0 0 16) := by
    simp only [exec, execBufferAlloc, hc, hp]
  have hkeeps := s.finish_keeps c.sq c.tag stInvalidField 0 0 16
  exact State.gives_of_exec hexec ⟨State.finish_ended hfound hphase hl .., hkeeps.part .bufs (by decide +kernel),
    hkeeps.part .mem (by decide +kernel)⟩

theorem gives_bufferRelease (s : State) (q : BitVec 20) (tag : BitVec 12) (c : Cmd) (k : Nat) (b : Buf)
    (hc : s.runnable q.toNat tag.toNat opRelease = some c) (hl : c.local = true) (hk : s.known (c.get 16 4) = some (k, b))
    (howner : b.owner = c.sq) (hheld : s.bufHeld k = false) :
    s.gives (.bufferRelease q tag) fun t => t.ended c.sq c.tag stSuccess 0 0 0 ∧ t.bufs = mdel s.bufs k ∧
      t.gen k = (s.gen k + 1) % 16 := by
  obtain ⟨hfound, hphase, -⟩ := State.runnable_spec hc
  have hexec : exec (.bufferRelease q tag) s = .next ((s.freeBuf k).fail c.sq c.tag stSuccess) := by
    simp only [exec, execBufferRelease, hc, hk, howner, hheld, ne_eq, not_true_eq_false, Bool.false_eq_true, if_false]
  obtain ⟨hbufs, hgen⟩ := State.freeBuf_spec (mhas_of_mfind (State.mfind_of_known hk))
  have hfail := (s.freeBuf k).fail_keeps c.sq c.tag stSuccess
  have hcmds := (s.freeBuf_keeps k).part .cmds (by decide +kernel)
  have hgens := hfail.part .gens (by decide +kernel)
  exact State.gives_of_exec hexec ⟨State.finish_ended_after hcmds hfound hphase hl .., (hfail.part .bufs (by decide +kernel)).trans hbufs,
    (congrArg (mget 0 · k) hgens).trans hgen⟩

theorem gives_bufferRelease_unknown (s : State) (q : BitVec 20) (tag : BitVec 12) (c : Cmd)
    (hc : s.runnable q.toNat tag.toNat opRelease = some c) (hl : c.local = true) (hk : s.known (c.get 16 4) = none) :
    s.gives (.bufferRelease q tag) fun t => t.ended c.sq c.tag stInvalidField 0 0 16 ∧ t.bufs = s.bufs ∧ t.gens = s.gens := by
  obtain ⟨hfound, hphase, -⟩ := State.runnable_spec hc
  have hexec : exec (.bufferRelease q tag) s = .next (s.finish c.sq c.tag stInvalidField 0 0 16) := by
    simp only [exec, execBufferRelease, hc, hk]
  have hkeeps := s.finish_keeps c.sq c.tag stInvalidField 0 0 16
  exact State.gives_of_exec hexec ⟨State.finish_ended hfound hphase hl .., hkeeps.part .bufs (by decide +kernel),
    hkeeps.part .gens (by decide +kernel)⟩

/-- The owner's place is another queue's, and the old owner reads on (R662, R703, R704). -/
def Buf.shared (b : Buf) (dest old : Nat) : Buf :=
  { b with owner := dest, readers := (b.readers.filter fun r => r != dest) ++ [old] }

theorem gives_bufferShare (s : State) (q : BitVec 20) (tag : BitVec 12) (c : Cmd) (k : Nat) (b : Buf)
    (hc : s.runnable q.toNat tag.toNat opShare = some c) (hl : c.local = true) (hk : s.known (c.get 16 4) = some (k, b))
    (howner : b.owner = c.sq) (hheld : s.bufHeld k = false) (hsq : mhas s.sqs (c.get 20 2) = true) (hgrp : c.get 20 2 / 64 = c.grp)
    (hne : c.get 20 2 ≠ c.sq) (hroom : (b.readers.filter fun r => r != c.get 20 2).length < 8)
    (hquota : s.quotaOk (c.get 20 2) (poolGranules (bufPool k)) = true) :
    s.gives (.bufferShare q tag) fun t => t.ended c.sq c.tag stSuccess 0 0 0 ∧
      (mfind t.bufs k).map (fun x => (x.owner, x.readers)) =
        some (c.get 20 2, (b.readers.filter fun r => r != c.get 20 2) ++ [c.sq]) := by
  obtain ⟨hfound, hphase, -⟩ := State.runnable_spec hc
  let u : State := { s with bufs := mput s.bufs k (b.shared (c.get 20 2) c.sq) }
  have hexec : exec (.bufferShare q tag) s = .next ((u.toDevice k).fail c.sq c.tag stSuccess) := by
    simp only [exec, execBufferShare, hc, hk, howner, hheld, hsq, hgrp, hne, hquota, Nat.not_le.2 hroom, ne_eq, not_true_eq_false,
      Bool.not_true, bne_self_eq_false, Bool.false_and, Bool.or_self, decide_false, Bool.false_eq_true, not_false_eq_true, and_false, if_false]
    rfl
  have hdev := u.toDevice_keeps k
  have hbufs : ((u.toDevice k).fail c.sq c.tag stSuccess).bufs = u.bufs :=
    (((u.toDevice k).fail_keeps ..).part .bufs (by decide +kernel)).trans (hdev.part .bufs (by decide +kernel))
  refine State.gives_of_exec hexec ⟨State.finish_ended_after (s := s) (hdev.part .cmds (by decide +kernel)) hfound hphase hl .., ?_⟩
  rw [hbufs, mfind_mput_same]
  rfl

/-! ### A copy command's buffer (R698) -/

/-- The command with a queue and tag holds a buffer. -/
def State.holdsBuf (s : State) (sq tag k : Nat) : Prop := (s.cmd? sq tag).map (fun d => d.bufs.contains k) = some true

theorem State.holdsBuf_congr {s t : State} (h : t.cmds = s.cmds) {sq tag k : Nat} (hs : s.holdsBuf sq tag k) : t.holdsBuf sq tag k := by
  rwa [State.holdsBuf, State.cmd?_congr h]

/-- What is done to frames of commands leaves their buffers. -/
theorem State.holdsBuf_setFrame {s : State} {sq tag k : Nat} (h : s.holdsBuf sq tag k) (a b i : Nat) (f : FrameReq → FrameReq) :
    (s.updCmd a b fun x => x.setFrame i f).holdsBuf sq tag k := by
  rw [State.holdsBuf, State.cmd?_updCmd_any (f := fun x : Cmd => x.setFrame i f) _ _ _ _ _ fun _ => ⟨rfl, rfl⟩, Option.map_map]
  refine Eq.trans (congrArg (Option.map · _) (funext fun d => ?_)) h
  exact congrArg (fun l : List Nat => l.contains k) ((apply_ite Cmd.bufs ..).trans (ite_self _))

theorem State.queueMove_holdsBuf {s : State} {sq tag k : Nat} (h : s.holdsBuf sq tag k) (c : Cmd) (idx sl buf hdm off len : Nat)
    (toHost : Bool) : (s.queueMove c idx sl buf hdm off len toHost).holdsBuf sq tag k :=
  State.holdsBuf_congr ((s.queueMove_keeps ..).part .cmds (by decide +kernel)) h

/-- A command that is given a buffer holds it. -/
theorem State.giveBuf_holdsBuf {s : State} {c d : Cmd} (h : s.cmd? c.sq c.tag = some d) (k : Nat) :
    (s.giveBuf c k).holdsBuf c.sq c.tag k := by
  unfold State.giveBuf
  extract_lets addr s1
  have h1 : s1.holdsBuf c.sq c.tag k := by
    rw [State.holdsBuf, State.cmd?_updCmd _ _ _ fun x => by split <;> exact ⟨rfl, rfl⟩, h]
    refine congrArg some ?_
    dsimp only
    split
    · assumption
    · exact List.contains_iff_mem.2 (List.mem_append_right _ (List.mem_singleton.2 rfl))
  clear_value s1
  split
  · split
    · exact h1
    · extract_lets s2
      have h2 : s2.holdsBuf c.sq c.tag k := State.holdsBuf_setFrame h1 ..
      split
      · exact State.queueMove_holdsBuf h2 ..
      · exact h2
  · split
    · exact h1
    · extract_lets i s2
      have h2 : s2.holdsBuf c.sq c.tag k := State.holdsBuf_congr (s := s1) rfl h1
      exact State.queueMove_holdsBuf h2 ..

theorem State.placeFrame_holdsBuf {s : State} {sq tag k : Nat} (h : s.holdsBuf sq tag k) (c : Cmd) (i sl : Nat) (bytes : List Nat) :
    (s.placeFrame c i sl bytes).holdsBuf sq tag k := by
  unfold State.placeFrame
  extract_lets f mv s1 p
  have hs1 : s1.holdsBuf sq tag k := State.holdsBuf_congr ((s.ownWrite_keeps ..).part .cmds (by decide +kernel)) h
  clear_value s1
  split
  · exact State.holdsBuf_setFrame h ..
  · split
    · exact State.holdsBuf_setFrame (State.holdsBuf_congr ((s.ringSend_keeps ..).part .cmds (by decide +kernel)) h) ..
    · split
      · exact State.holdsBuf_setFrame hs1 ..
      · exact State.queueMove_holdsBuf hs1 ..

/-- Serving a command's frames from those held for writing leaves every command its buffers. -/
theorem State.serveHeld_holdsBuf {s : State} {sq tag k : Nat} (h : s.holdsBuf sq tag k) (a b : Nat) :
    (s.serveHeld a b).holdsBuf sq tag k := by
  unfold State.serveHeld
  split
  · exact h
  · refine List.foldlRecOn (motive := fun t : State => t.holdsBuf sq tag k) _ _ h fun t ht i _ => ?_
    split
    · exact ht
    · split
      · exact ht
      · split
        · next x _ _ y _ _ =>
          extract_lets t1 t2
          have h1 : t1.holdsBuf sq tag k := State.holdsBuf_setFrame ht ..
          have h2 : t2.holdsBuf sq tag k := by
            refine State.placeFrame_holdsBuf (State.holdsBuf_congr ?_ h1) ..
            exact (t1.ownRead_keeps ..).part .cmds (by decide +kernel)
          split
          · exact State.holdsBuf_congr ((t2.tap_keeps ..).part .cmds (by decide +kernel)) h2
          · exact h2
        · exact ht

/-- A copy command takes the next fresh buffer of pool 2: the buffer is its queue's, for the command, which holds it. -/
theorem State.takeOne_fresh {s : State} {c d : Cmd} (hd : s.cmd? c.sq c.tag = some d) (hact : s.flag Reg.BPM_STATUS_ACTIVE 0 = true)
    (hfresh : (mget {} s.pools 2).fresh < s.rd Reg.BPM_POOL_CNT_COUNT 2) :
    mfind (s.takeOne c).bufs (bufKey 2 (mget {} s.pools 2).fresh) = some { owner := c.sq, copyOf := some c.ord } ∧
      (s.takeOne c).holdsBuf c.sq c.tag (bufKey 2 (mget {} s.pools 2).fresh) := by
  obtain ⟨u, htake, hbufs, -⟩ := State.takeBuf_fresh hact hfresh c.sq (some c.ord)
  generalize bufKey 2 (mget {} s.pools 2).fresh = k at htake hbufs ⊢
  have hcmds : u.cmds = s.cmds := (s.takeBuf_keeps 2 c.sq (some c.ord) _ htake).part .cmds (by decide +kernel)
  have hholds : (u.giveBuf c k).holdsBuf c.sq c.tag k := State.giveBuf_holdsBuf ((State.cmd?_congr hcmds ..).trans hd) k
  have hgiven : (u.giveBuf c k).bufs = u.bufs := (u.giveBuf_keeps c k).part .bufs (by decide +kernel)
  have hserved : ((u.giveBuf c k).serveHeld c.sq c.tag).bufs = (u.giveBuf c k).bufs :=
    (State.serveHeld_keeps ..).part .bufs (by decide +kernel)
  rw [State.takeOne, htake]
  dsimp only
  split
  · exact ⟨by rw [hgiven, hbufs, mfind_mput_same], hholds⟩
  · exact ⟨by rw [hserved, hgiven, hbufs, mfind_mput_same], State.serveHeld_holdsBuf hholds ..⟩

/-- The command that waits for a buffer is in flight. -/
theorem State.waiter_mem {s : State} {w : CopyWait} {c : Cmd} (h : s.waiter w = some c) : c ∈ s.cmds := by
  unfold State.waiter at h
  split at h
  · next x hx =>
    split at h
    · cases h; exact List.mem_of_find?_eq_some hx
    · cases h
  · cases h

/-- A command in flight has one under its queue and tag. -/
theorem State.cmd?_of_mem {s : State} {c : Cmd} (h : c ∈ s.cmds) : ∃ d, s.cmd? c.sq c.tag = some d :=
  Option.isSome_iff_exists.1 (List.find?_isSome.2 ⟨c, h, by simp⟩)

/-- The requests for buffers whose command still lacks one. -/
def State.waiting (s : State) : State := { s with copyWait := s.copyWait.filter fun w => (s.waiter w).isSome }

theorem gives_copyBufferGrant (s : State) (w : CopyWait) (c : Cmd)
    (hw : (s.copyWait.find? fun w => (s.waiter w).any s.mayTake) = some w) (hc : s.waiter w = some c)
    (hact : s.flag Reg.BPM_STATUS_ACTIVE 0 = true) (hfresh : (mget {} s.pools 2).fresh < s.rd Reg.BPM_POOL_CNT_COUNT 2) :
    s.gives .copyBufferGrant fun t => ∃ u : State, t = u.settle ∧
      (mfind u.bufs (bufKey 2 (mget {} s.pools 2).fresh)).map (fun b => (b.owner, b.copyOf)) = some (c.sq, some c.ord) ∧
      (u.cmd? c.sq c.tag).map (fun d => d.bufs.contains (bufKey 2 (mget {} s.pools 2).fresh)) = some true := by
  have hfirst : (s.waiting.copyWait.find? fun w => match s.waiting.waiter w with | some c => s.waiting.mayTake c | none => false) =
      some w := by
    refine (List.find?_filter ..).trans (Eq.trans (congrArg (List.find? · s.copyWait) (funext fun x => ?_)) hw)
    change decide ((s.waiter x).isSome = true ∧ (match s.waiter x with | some d => s.mayTake d | none => false) = true) =
      (s.waiter x).any s.mayTake
    cases s.waiter x with
    | none => rfl
    | some d => simp
  obtain ⟨d, hd⟩ := State.cmd?_of_mem (State.waiter_mem hc)
  obtain ⟨hbuf, hholds⟩ := State.takeOne_fresh (s := s.waiting) hd hact hfresh
  have hexec : ∃ l, exec .copyBufferGrant s = .next ({ s.waiting.takeOne c with copyWait := l } : State).settle := by
    rw [exec, execCopyBufferGrant]
    split
    · next hnone => cases hnone.symm.trans hfirst
    · next x hx =>
      obtain rfl : x = w := Option.some.inj (hx.symm.trans hfirst)
      split
      · next hnone => cases hnone.symm.trans hc
      · next y hy =>
        obtain rfl : y = c := Option.some.inj (hy.symm.trans hc)
        exact ⟨_, rfl⟩
  obtain ⟨l, hexec⟩ := hexec
  refine State.gives_of_exec hexec ⟨_, rfl, ?_, hholds⟩
  exact congrArg (Option.map _) hbuf

/-- Settles O27, one command after the other. -/
theorem bufferCommands : Obligations.BufferCommands :=
  ⟨gives_bufferAlloc, gives_bufferAlloc_tooLarge, gives_bufferRelease, gives_bufferRelease_unknown, gives_bufferShare,
    gives_copyBufferGrant⟩

end Sys2Proof.Machine
end

section
/-!
PROOF. DRAM trained and filled, the patrol scrub, self-refresh, and the merging buffer with the accesses of the cores (O41).
-/

set_option Elab.async false

namespace Sys2Proof.Machine

/-! ### Training (R731, R732, R735) -/

/-- One channel as training leaves it: its DIMMs and the rate shown, 0 where none is fitted (R731). -/
def State.putChan (chans : List ChanObs) (r : Nat) (t : State) (i : Nat) : State :=
  match chans[i]? with
  | none => t
  | some c =>
    let t1 := ((t.wrB Reg.MEMC_CHAN_FITTED i c.fitted).wrB Reg.MEMC_CHAN_TRAIN_OK i c.fitted).wr Reg.MEMC_CHAN_DIMMS i c.dimms
    ((t1.wr Reg.MEMC_CHAN_RANKS i c.ranks).wr Reg.MEMC_CHAN_RATE i (if c.fitted then r else 0)).wr Reg.MEMC_CHAN_SIZE i c.size

/-- The register fields that training writes of a channel. -/
def chanFields : List Fld :=
  [Reg.MEMC_CHAN_FITTED, Reg.MEMC_CHAN_TRAIN_OK, Reg.MEMC_CHAN_DIMMS, Reg.MEMC_CHAN_RANKS, Reg.MEMC_CHAN_RATE, Reg.MEMC_CHAN_SIZE]

theorem State.putChan_keeps (chans : List ChanObs) (r : Nat) (t : State) (i : Nat) : Keeps (fieldBits chanFields) t (t.putChan chans r i) := by
  unfold State.putChan
  split
  · exact Keeps.refl _ _
  · exact Keeps.wr (Keeps.wr (Keeps.wr (Keeps.wr (Keeps.wrB (Keeps.wrB (Keeps.refl _ _))))))

theorem State.putChan_rate {chans : List ChanObs} {r i : Nat} (hr : r < 2 ^ Reg.MEMC_CHAN_RATE.w)
    (hi : (chans[i]?).map ChanObs.fitted = some true) (t : State) : (t.putChan chans r i).rd Reg.MEMC_CHAN_RATE i = r := by
  obtain ⟨c, hc, hfit⟩ := Option.map_eq_some_iff.1 hi
  simp only [State.putChan, hc, hfit, if_true]
  rw [State.rd_wr_ne _ _ _ _ _ _ (by decide), State.rd_wr_same, Nat.mod_eq_of_lt hr]

theorem State.putChan_rate_ne {chans : List ChanObs} {r i j : Nat} (hj : j ≠ i) (t : State) :
    (t.putChan chans r j).rd Reg.MEMC_CHAN_RATE i = t.rd Reg.MEMC_CHAN_RATE i := by
  unfold State.putChan
  split
  · rfl
  · dsimp only
    rw [State.rd_wr_ne _ _ _ _ _ _ (by decide), State.rd_wr_inst _ _ _ _ _ hj, State.rd_wr_ne _ _ _ _ _ _ (by decide),
      State.rd_wr_ne _ _ _ _ _ _ (by decide), State.rd_wrB_ne _ _ _ _ _ _ (by decide), State.rd_wrB_ne _ _ _ _ _ _ (by decide)]

/-- Every fitted channel that has been gone through shows the rate. -/
theorem State.putChans_rate {chans : List ChanObs} {r i : Nat} (hr : r < 2 ^ Reg.MEMC_CHAN_RATE.w)
    (hi : (chans[i]?).map ChanObs.fitted = some true) (l : List Nat) {t : State} (h : t.rd Reg.MEMC_CHAN_RATE i = r ∨ i ∈ l) :
    (l.foldl (State.putChan chans r) t).rd Reg.MEMC_CHAN_RATE i = r := by
  induction l generalizing t with
  | nil => exact h.resolve_right List.not_mem_nil
  | cons j l ih =>
    rw [List.foldl_cons]
    refine ih ?_
    by_cases hj : j = i
    · exact .inl (hj ▸ State.putChan_rate hr (hj ▸ hi) t)
    · obtain hshown | hmem := h
      · exact .inl ((State.putChan_rate_ne hj t).trans hshown)
      · exact .inr ((List.mem_cons.1 hmem).resolve_left (Ne.symm hj))

theorem State.putChans_keeps (chans : List ChanObs) (r : Nat) (l : List Nat) (s : State) :
    Keeps (fieldBits chanFields) s (l.foldl (State.putChan chans r) s) :=
  Keeps.foldl (fun t i => State.putChan_keeps chans r t i) (Keeps.refl _ _)

/-- The registers as training that has succeeded leaves them. -/
def State.trained (s : State) (chans : List ChanObs) (r : Nat) : State :=
  let s1 := (upTo 4).foldl (State.putChan chans r) s
  let s2 := ((s1.wr Reg.MEMC_STATUS_CHANNELS 0 (if s1.channels = 4 then 3 else s1.channels)).set1 Reg.MEMC_STATUS_TRAINED 0).wrB
    Reg.MEMC_STATUS_INIT_DONE 0 s.ms.trainedAt.isSome
  s2.wr Reg.MEMC_SCRUB_POS_POS 0 0

theorem State.trained_keeps (s : State) (chans : List ChanObs) (r : Nat) :
    Keeps (fieldBits (chanFields ++ [Reg.MEMC_STATUS_CHANNELS, Reg.MEMC_STATUS_TRAINED, Reg.MEMC_STATUS_INIT_DONE,
      Reg.MEMC_SCRUB_POS_POS])) s (s.trained chans r) :=
  Keeps.wr (Keeps.wrB (Keeps.set1 (Keeps.wr (Keeps.step (s.putChans_keeps ..) (Keeps.refl _ _)))))

theorem State.trained_shows (s : State) (chans : List ChanObs) (r : Nat) :
    (s.trained chans r).flag Reg.MEMC_STATUS_TRAINED 0 = true ∧
      (s.trained chans r).flag Reg.MEMC_STATUS_INIT_DONE 0 = s.ms.trainedAt.isSome := by
  constructor
  · refine State.flag_eq_true ?_
    exact (State.rd_wr_ne _ _ _ _ _ _ (by decide)).trans ((State.rd_wrB_ne _ _ _ _ _ _ (by decide)).trans (State.rd_set1 ..))
  · rw [State.flag, State.trained, State.rd_wr_ne _ _ _ _ _ _ (by decide), State.rd_wrB]
    cases s.ms.trainedAt.isSome <;> rfl

theorem State.trained_rate (s : State) {chans : List ChanObs} {r i : Nat} (hr : r < 2 ^ Reg.MEMC_CHAN_RATE.w) (hlt : i < 4)
    (hi : (chans[i]?).map ChanObs.fitted = some true) : (s.trained chans r).rd Reg.MEMC_CHAN_RATE i = r := by
  refine Eq.trans ?_ (State.putChans_rate hr hi (upTo 4) (t := s) (.inr (List.mem_range.2 hlt)))
  exact (State.rd_wr_ne _ _ _ _ _ _ (by decide)).trans ((State.rd_wrB_ne _ _ _ _ _ _ (by decide)).trans
    ((State.rd_set1_ne _ _ _ _ _ (by decide)).trans (State.rd_wr_ne _ _ _ _ _ _ (by decide))))

/-- Training succeeds where the DIMMs keep R730, a rate suits them all and every fitted channel has been trained. -/
theorem exec_dramTrainingDone {l : List ChanObs} {r : Nat} (hfit : badFit l = none) (hrate : rateOf l = some r)
    (htrained : ∀ c ∈ l, c.fitted = true → c.trained = true) (s : State) : exec (.dramTrainingDone l) s =
      .next (if s.ms.trainedAt.isSome then s.trained l r
        else { s.trained l r with mem := [], ms := { (s.trained l r).ms with ue := [], ce := [], merge := [], trainedAt := some s.now } }) := by
  rw [exec, execDramTrainingDone, hfit, hrate]
  dsimp only
  split
  · next i hi =>
    have hbad := List.find?_some hi
    split at hbad
    · next c hc =>
      simp only [Bool.and_eq_true, Bool.not_eq_true'] at hbad
      obtain ⟨hfitted, huntrained⟩ := hbad
      rw [htrained c (List.mem_of_getElem? hc) hfitted] at huntrained
      cases huntrained
    · cases hbad
  · exact (apply_ite Host.Outcome.next ..).symm

theorem gives_dramTrainingDone_cold (s : State) (l : List ChanObs) (r : Nat) (hfit : badFit l = none) (hrate : rateOf l = some r)
    (htrained : ∀ c ∈ l, c.fitted = true → c.trained = true) (hcold : s.ms.trainedAt = none) (hr : r < 2 ^ Reg.MEMC_CHAN_RATE.w) :
    s.gives (.dramTrainingDone l) fun t => t.flag Reg.MEMC_STATUS_TRAINED 0 = true ∧ t.flag Reg.MEMC_STATUS_INIT_DONE 0 = false ∧
      t.mem = [] ∧ t.ms.trainedAt = some s.now ∧
      ∀ i : Fin 4, (l[i.val]?).map ChanObs.fitted = some true → t.rd Reg.MEMC_CHAN_RATE i = r := by
  obtain ⟨hshown, hinit⟩ := s.trained_shows l r
  have hexec := exec_dramTrainingDone hfit hrate htrained s
  rw [hcold] at hexec hinit
  exact State.gives_of_exec hexec ⟨hshown, hinit, rfl, rfl, fun i hi => s.trained_rate hr i.isLt hi⟩

theorem gives_dramTrainingDone_kept (s : State) (l : List ChanObs) (r x : Nat) (hfit : badFit l = none) (hrate : rateOf l = some r)
    (htrained : ∀ c ∈ l, c.fitted = true → c.trained = true) (hkept : s.ms.trainedAt = some x) :
    s.gives (.dramTrainingDone l) fun t => t.flag Reg.MEMC_STATUS_TRAINED 0 = true ∧ t.flag Reg.MEMC_STATUS_INIT_DONE 0 = true ∧
      t.mem = s.mem ∧ t.ms.trainedAt = some x := by
  obtain ⟨hshown, hinit⟩ := s.trained_shows l r
  have hkeeps := s.trained_keeps l r
  have hexec := exec_dramTrainingDone hfit hrate htrained s
  rw [hkept] at hexec hinit
  exact State.gives_of_exec hexec ⟨hshown, hinit, hkeeps.part .mem (by decide +kernel),
    (congrArg MemSys.trainedAt (hkeeps.part .ms (by decide +kernel))).trans hkept⟩

/-- An event leaves the mode. -/
theorem State.raise_mode (s : State) (code : Nat) (data : List Nat) : (s.raise code data).mode = s.mode :=
  (s.raise_keeps code data).rd _ _ (by decide +kernel)

/-- An event and CINDER for a cause: the mode and the cause recorded. -/
theorem State.raise_cinder {s : State} (hc : s.mode ≠ mCinder) (hb : s.mode ≠ mBanked) (code : Nat) (data : List Nat) {cause : Nat}
    (h : cause < 256) : ((s.raise code data).cinder cause).mode = mCinder ∧
      ((s.raise code data).cinder cause).rd Reg.GCTL_STATUS_CINDER_CAUSE 0 = cause := by
  rw [← s.raise_mode code data] at hc hb
  exact ⟨State.cinder_mode hc hb cause, State.cinder_cause hc hb h⟩

/-- Training fails for a population against R730, for want of a rate, or at a channel that has not been trained. -/
theorem exec_dramTrainingDone_fails {l : List ChanObs} (h : badFit l ≠ none ∨ rateOf l = none ∨
    ∃ i : Fin 4, (l[i.val]?).any (fun c => c.fitted && !c.trained) = true) (s : State) :
    ∃ data, exec (.dramTrainingDone l) s = .next ((s.raise 0x0A0A data).cinder cDram) := by
  rw [exec, execDramTrainingDone]
  split
  · exact ⟨_, rfl⟩
  · exact ⟨_, rfl⟩
  · next r hfit hrate =>
    obtain ⟨i, hi⟩ : ∃ i : Fin 4, (l[i.val]?).any (fun c => c.fitted && !c.trained) = true :=
      (h.resolve_left fun hne => hne hfit).resolve_left (by rw [hrate]; simp)
    split
    · exact ⟨_, rfl⟩
    · next hnone =>
      have hgood := List.find?_eq_none.1 hnone i (List.mem_range.2 i.isLt)
      cases hc : l[i.val]? with
      | none => rw [hc] at hi; cases hi
      | some c => rw [hc] at hi hgood; exact absurd hi hgood

theorem gives_dramTrainingDone_fails (s : State) (l : List ChanObs) (h : badFit l ≠ none ∨ rateOf l = none ∨
    ∃ i : Fin 4, (l[i.val]?).any (fun c => c.fitted && !c.trained) = true) (hc : s.mode ≠ mCinder) (hb : s.mode ≠ mBanked) :
    s.gives (.dramTrainingDone l) fun t => t.mode = mCinder ∧ t.rd Reg.GCTL_STATUS_CINDER_CAUSE 0 = cDram := by
  obtain ⟨data, hexec⟩ := exec_dramTrainingDone_fails h s
  exact State.gives_of_exec hexec (State.raise_cinder hc hb _ _ (by decide))

theorem gives_dramInitDone (s : State) (dt x : Nat) (hx : s.ms.trainedAt = some x) (hinit : s.flag Reg.MEMC_STATUS_INIT_DONE 0 = false)
    (htrained : s.flag Reg.MEMC_STATUS_TRAINED 0 = true) : s.gives (.dramInitDone dt) fun t =>
      t.flag Reg.MEMC_STATUS_INIT_DONE 0 = true ∧ t.lastEvent 0x0A09 [(t.now - x) / msCycles] ∧ t.now = s.now + dt := by
  let u := (s.advance dt).set1 Reg.MEMC_STATUS_INIT_DONE 0
  let t := u.raise 0x0A09 [(u.now - x) / msCycles]
  have hexec : exec (.dramInitDone dt) s = .next t := by
    simp only [exec, execDramInitDone, hx, hinit, htrained, Bool.not_true, Bool.false_eq_true, or_self, if_false]
    rfl
  have hraise : Keeps State.raise_mask u t := u.raise_keeps ..
  have hnow : t.now = u.now := hraise.now
  refine State.gives_of_exec hexec ⟨?_, ?_, hnow.trans (s.advance_now dt)⟩
  · rw [hraise.flag _ _ (by decide +kernel)]
    exact State.flag_set1 _ 0 (by decide)
  · rw [hnow]
    exact u.raise_lastEvent ..

/-! ### The patrol scrub (R744, R745) -/

/-- The scrub runs: memory is trained and out of self-refresh, the mode lets it, and a pass has a length. -/
structure State.Scrubs (s : State) : Prop where
  trained : s.flag Reg.MEMC_STATUS_TRAINED 0 = true
  awake : s.flag Reg.MEMC_STATUS_SELF_REFRESH 0 = false
  ember : s.mode ≠ mEmber
  banked : s.mode ≠ mBanked
  hours : s.rd Reg.MEMC_SCRUB_CFG_HOURS 0 ≠ 0

/-- The scrub's place moves on to the next line, or the pass ends. -/
def State.scrubOn (u s : State) : State :=
  if s.fittedDram ≤ s.rd Reg.MEMC_SCRUB_POS_POS 0 + 64 then u.scrubPass
  else u.wr Reg.MEMC_SCRUB_POS_POS 0 (s.rd Reg.MEMC_SCRUB_POS_POS 0 + 64)

/-- A line that reads as it was stored and holds no error is left as it is. -/
theorem exec_scrubStep_clean {s : State} (h : s.Scrubs) (hmerge : s.ms.merge = []) (hue : s.ms.ue = []) (hce : s.ms.ce = []) :
    exec (.scrubStep .asStored) s = .next (s.scrubOn s) := by
  obtain ⟨htrained, hawake, hember, hbanked, hhours⟩ := h
  simp only [exec, execScrubStep, htrained, hawake, hember, hbanked, hhours, hmerge, hue, hce, Bool.not_true, Bool.false_eq_true,
    or_self, if_false, List.any_nil, List.find?_nil]
  rfl

/-- The counts of the scrub's pass grow (R745). -/
def State.growPass (s : State) (ce ue : Nat) : State :=
  { s with ms := { s.ms with passCe := s.ms.passCe + ce, passUe := s.ms.passUe + ue } }

/-- A line that turns out uncorrectable is kept as such and counted for the pass. -/
def State.scrubBad (s : State) (l w : Nat) : State :=
  let t : State := { s with ms := { s.ms with ue := s.ms.ue ++ [(l, w)], ce := s.ms.ce.filter fun p => p.1 != l } }
  (t.noteUe l w srcScrub).growPass 0 1

theorem exec_scrubStep_bad {s : State} (h : s.Scrubs) (hmerge : s.ms.merge = []) (hue : s.ms.ue = []) (w : Nat) :
    exec (.scrubStep (.uncorrectable w)) s = .next ((s.scrubBad (lineOf (s.rd Reg.MEMC_SCRUB_POS_POS 0)) w).scrubOn s) := by
  obtain ⟨htrained, hawake, hember, hbanked, hhours⟩ := h
  have hmerged : (s.ms.merge.any fun e => e.line == lineOf (s.rd Reg.MEMC_SCRUB_POS_POS 0)) = false := by rw [hmerge]; rfl
  have hfind : (s.ms.ue.find? fun p => p.1 == lineOf (s.rd Reg.MEMC_SCRUB_POS_POS 0)) = none := by rw [hue]; rfl
  simp only [exec, execScrubStep, htrained, hawake, hember, hbanked, hhours, hmerged, hfind, Bool.not_true, Bool.false_eq_true,
    or_self, if_false]
  rfl

/-- An uncorrectable read leaves the lists of lines, the merging buffer and the count of the scrub's pass. -/
theorem State.noteUe_ms (s : State) (line cw source : Nat) : (s.noteUe line cw source).ms.ue = s.ms.ue ∧
    (s.noteUe line cw source).ms.merge = s.ms.merge ∧ (s.noteUe line cw source).ms.passUe = s.ms.passUe := by
  unfold State.noteUe
  extract_lets +onlyGivenNames a s1 s2 fresh n ms s3
  have h2 : s2.ms = s.ms := by
    unfold s2
    split
    · exact rfl
    · simp only [State.set1_ms, State.clr_ms, State.wr_ms]
      exact rfl
  have h3 : s3.ms.ue = s.ms.ue ∧ s3.ms.merge = s.ms.merge ∧ s3.ms.passUe = s.ms.passUe := by
    rw [← h2]
    exact ⟨rfl, rfl, rfl⟩
  clear_value s3
  split
  · rw [(s3.raise_keeps ..).part .ms (by decide +kernel)]
    exact h3
  · exact h3

/-- The line is in the list of uncorrectable lines, and memory stays. -/
theorem State.scrubBad_spec (s : State) (l w : Nat) : (s.scrubBad l w).ms.ue = s.ms.ue ++ [(l, w)] ∧
    (s.scrubBad l w).ms.passUe = s.ms.passUe + 1 ∧ (s.scrubBad l w).mem = s.mem := by
  unfold State.scrubBad
  extract_lets +onlyGivenNames ms t
  obtain ⟨hue, -, hpass⟩ := t.noteUe_ms l w srcScrub
  have hmem : (t.noteUe l w srcScrub).mem = t.mem := (t.noteUe_keeps l w srcScrub).part .mem (by decide +kernel)
  exact ⟨hue, congrArg (· + 1) hpass, hmem⟩

theorem gives_scrubStep_clean (s : State) (h : s.Scrubs) (hmerge : s.ms.merge = []) (hue : s.ms.ue = []) (hce : s.ms.ce = [])
    (hmore : s.rd Reg.MEMC_SCRUB_POS_POS 0 + 64 < s.fittedDram) : s.gives (.scrubStep .asStored) fun t =>
      t.rd Reg.MEMC_SCRUB_POS_POS 0 = (s.rd Reg.MEMC_SCRUB_POS_POS 0 + 64) % 2 ^ Reg.MEMC_SCRUB_POS_POS.w ∧ t.ms = s.ms ∧
        t.mem = s.mem := by
  have hexec := exec_scrubStep_clean h hmerge hue hce
  rw [State.scrubOn, if_neg (Nat.not_le.2 hmore)] at hexec
  exact State.gives_of_exec hexec ⟨State.rd_wr_same .., rfl, rfl⟩

theorem gives_scrubStep_bad (s : State) (w : Nat) (h : s.Scrubs) (hmerge : s.ms.merge = []) (hue : s.ms.ue = [])
    (hmore : s.rd Reg.MEMC_SCRUB_POS_POS 0 + 64 < s.fittedDram) : s.gives (.scrubStep (.uncorrectable w)) fun t =>
      t.ms.ue = [(lineOf (s.rd Reg.MEMC_SCRUB_POS_POS 0), w)] ∧ t.ms.passUe = s.ms.passUe + 1 ∧ t.mem = s.mem := by
  have hexec := exec_scrubStep_bad h hmerge hue w
  rw [State.scrubOn, if_neg (Nat.not_le.2 hmore)] at hexec
  obtain ⟨hbad, hpass, hmem⟩ := s.scrubBad_spec (lineOf (s.rd Reg.MEMC_SCRUB_POS_POS 0)) w
  rw [hue, List.nil_append] at hbad
  exact State.gives_of_exec hexec ⟨hbad, hpass, hmem⟩

/-- The end of a pass: the scrub begins again, the pass is counted and reported, and its own counts start at 0 (R745). -/
theorem State.scrubPass_spec {s : State} (hlt : s.rd Reg.MEMC_SCRUB_PASSES_PASSES 0 < 2 ^ Reg.MEMC_SCRUB_PASSES_PASSES.w - 1) :
    s.scrubPass.rd Reg.MEMC_SCRUB_POS_POS 0 = 0 ∧
      s.scrubPass.rd Reg.MEMC_SCRUB_PASSES_PASSES 0 = s.rd Reg.MEMC_SCRUB_PASSES_PASSES 0 + 1 ∧
      s.scrubPass.lastEvent 0x0A03 [s.ms.passCe, s.ms.passUe] ∧ s.scrubPass.ms.passCe = 0 := by
  unfold State.scrubPass
  extract_lets +onlyGivenNames t ms
  let u := (s.wr Reg.MEMC_SCRUB_POS_POS 0 0).bump Reg.MEMC_SCRUB_PASSES_PASSES 0 1
  have hraise : Keeps State.raise_mask u t := u.raise_keeps ..
  have hlast : t.lastEvent 0x0A03 [s.ms.passCe, s.ms.passUe] := u.raise_lastEvent ..
  clear_value t
  have hsame : (s.wr Reg.MEMC_SCRUB_POS_POS 0 0).rd Reg.MEMC_SCRUB_PASSES_PASSES 0 = s.rd Reg.MEMC_SCRUB_PASSES_PASSES 0 :=
    State.rd_wr_ne _ _ _ _ _ _ (by decide)
  refine ⟨(hraise.rd _ _ (by decide +kernel)).trans ?_, (hraise.rd _ _ (by decide +kernel)).trans ?_, hlast, rfl⟩
  · exact (State.rd_bump_ne _ _ _ _ _ _ (by decide)).trans (State.rd_wr_same ..)
  · rw [State.rd_bump_of_lt _ (by rw [hsame]; exact Nat.add_lt_of_lt_sub hlt), hsame]

theorem gives_scrubStep_pass (s : State) (h : s.Scrubs) (hmerge : s.ms.merge = []) (hue : s.ms.ue = []) (hce : s.ms.ce = [])
    (hend : s.fittedDram ≤ s.rd Reg.MEMC_SCRUB_POS_POS 0 + 64)
    (hlt : s.rd Reg.MEMC_SCRUB_PASSES_PASSES 0 < 2 ^ Reg.MEMC_SCRUB_PASSES_PASSES.w - 1) :
    s.gives (.scrubStep .asStored) fun t => t.rd Reg.MEMC_SCRUB_POS_POS 0 = 0 ∧
      t.rd Reg.MEMC_SCRUB_PASSES_PASSES 0 = s.rd Reg.MEMC_SCRUB_PASSES_PASSES 0 + 1 ∧
      t.lastEvent 0x0A03 [s.ms.passCe, s.ms.passUe] ∧ t.ms.passCe = 0 := by
  have hexec := exec_scrubStep_clean h hmerge hue hce
  rw [State.scrubOn, if_pos hend] at hexec
  exact State.gives_of_exec hexec (State.scrubPass_spec hlt)

theorem gives_selfRefreshEnter (s : State) (hm : s.mode = mEmber) (ht : s.flag Reg.MEMC_STATUS_TRAINED 0 = true) :
    s.gives .selfRefreshEnter fun t => t.flag Reg.MEMC_STATUS_SELF_REFRESH 0 = true ∧ s.ms.accessAt + 15000 ≤ t.now :=
  State.gives_of_exec (t := (s.advanceTo (s.ms.accessAt + 15000)).set1 Reg.MEMC_STATUS_SELF_REFRESH 0)
    (if_neg (by simp [hm, ht])) ⟨State.flag_set1 _ 0 (by decide), s.le_advanceTo_now _⟩

/-! ### The merging buffer drains (R741, R753) -/

theorem State.touchLines_merge (s : State) (a n : Nat) : (s.touchLines a n).ms.merge = s.ms.merge := by
  unfold State.touchLines
  extract_lets +onlyGivenNames whole meets torn ms s1 s2 l
  have h2 : s2.ms.merge = s.ms.merge :=
    List.foldlRecOn (motive := fun t : State => t.ms.merge = s.ms.merge) _ _ rfl fun t ht p _ => by
      obtain ⟨-, hmerge, -⟩ := t.noteUe_ms p.1 p.2 srcRmw
      exact hmerge.trans ht
  clear_value s2
  split
  · extract_lets cw s3
    have h3 : s3.ms.merge = s.ms.merge := h2
    split
    · exact h3
    · split <;> exact h3
  · exact h2

theorem State.touchDram_merge (s : State) : s.touchDram.ms.merge = s.ms.merge := by
  unfold State.touchDram
  dsimp only
  split <;> rfl

/-- An entry that drains leaves the buffer, memory as it is read, and no time passes. -/
theorem State.drainEntry_spec (s : State) (e : Merge) : (s.drainEntry e).ms.merge = s.ms.merge.filter (fun x => x.line != e.line) ∧
    (s.drainEntry e).mem = s.mem ∧ (s.drainEntry e).now = s.now := by
  have hkeeps := s.drainEntry_keeps e
  refine ⟨?_, hkeeps.part .mem (by decide +kernel), hkeeps.now⟩
  unfold State.drainEntry
  extract_lets +onlyGivenNames ms s1 s2
  rw [State.touchDram_merge]
  unfold s2
  split <;> exact State.touchLines_merge ..

/-- The sole entry of the buffer leaves it empty. -/
theorem State.drainEntry_sole {s : State} {e : Merge} (h : s.ms.merge = [e]) : (s.drainEntry e).ms.merge = [] := by
  obtain ⟨hmerge, -⟩ := s.drainEntry_spec e
  rw [hmerge, h, List.filter_cons, if_neg (by simp), List.filter_nil]

/-- After the accesses nothing is in the buffer to drain. -/
theorem exec_mergeBufferDrain_empty {s : State} {acts : List MemAct} (h : (acts.foldl State.memAct s).ms.merge = []) :
    exec (.mergeBufferDrain acts) s = .next (acts.foldl State.memAct s) := by
  simp only [exec, execMergeBufferDrain, h, List.find?_nil, oldest]

/-- After the accesses a whole line is all there is: it drains at once. -/
theorem exec_mergeBufferDrain_whole {s : State} {acts : List MemAct} {e : Merge} (h : (acts.foldl State.memAct s).ms.merge = [e])
    (he : e.mask = 2 ^ 64 - 1) : exec (.mergeBufferDrain acts) s = .next ((acts.foldl State.memAct s).drainEntry e) := by
  simp only [exec, execMergeBufferDrain, h, he, List.find?_cons, beq_self_eq_true]

/-- After the accesses a partial line is all there is: it drains 256 cycles after its last write. -/
theorem exec_mergeBufferDrain_partial {s : State} {acts : List MemAct} {e : Merge} (h : (acts.foldl State.memAct s).ms.merge = [e])
    (he : e.mask ≠ 2 ^ 64 - 1) : exec (.mergeBufferDrain acts) s =
      .next (((acts.foldl State.memAct s).advanceTo (e.at_ + 256)).drainEntry e) := by
  simp only [exec, execMergeBufferDrain, h, List.find?_cons, beq_eq_false_iff_ne.2 he, List.find?_nil, oldest]
  rfl

theorem gives_mergeBufferDrain_whole (s : State) (e : Merge) (h : s.ms.merge = [e]) (he : e.mask = 2 ^ 64 - 1) :
    s.gives (.mergeBufferDrain []) fun t => t.ms.merge = [] ∧ t.mem = s.mem ∧ t.now = s.now := by
  obtain ⟨-, hmem, hnow⟩ := s.drainEntry_spec e
  exact State.gives_of_exec (exec_mergeBufferDrain_whole (acts := []) h he) ⟨State.drainEntry_sole h, hmem, hnow⟩

/-- A sole partial line that drains: the buffer is empty, memory reads the same, and its 256 cycles have passed. -/
theorem State.drainEntry_partial {s : State} {e : Merge} (h : s.ms.merge = [e]) :
    ((s.advanceTo (e.at_ + 256)).drainEntry e).ms.merge = [] ∧ ((s.advanceTo (e.at_ + 256)).drainEntry e).mem = s.mem ∧
      e.at_ + 256 ≤ ((s.advanceTo (e.at_ + 256)).drainEntry e).now := by
  obtain ⟨-, hmem, hnow⟩ := (s.advanceTo (e.at_ + 256)).drainEntry_spec e
  have hms : (s.advanceTo (e.at_ + 256)).ms = s.ms := s.advance_ms _
  exact ⟨State.drainEntry_sole ((congrArg MemSys.merge hms).trans h), hmem.trans (s.advance_mem _), hnow ▸ s.le_advanceTo_now _⟩

theorem gives_mergeBufferDrain_partial (s : State) (e : Merge) (h : s.ms.merge = [e]) (he : e.mask ≠ 2 ^ 64 - 1) :
    s.gives (.mergeBufferDrain []) fun t => t.ms.merge = [] ∧ t.mem = s.mem ∧ e.at_ + 256 ≤ t.now :=
  State.gives_of_exec (exec_mergeBufferDrain_partial (acts := []) h he) (State.drainEntry_partial h)

/-! ### Accesses of the cores (R743, R750, R752) -/

/-- Where the cores run, the mode is neither CINDER nor BANKED. -/
theorem State.fwRuns_spec {s : State} (h : s.fwRuns = true) : s.pw.coresRun = true ∧ s.mode ≠ mCinder ∧ s.mode ≠ mBanked ∧
    s.pw.porst = false := by
  simpa [State.fwRuns, and_assoc] using h

theorem State.fwRuns_congr {s t : State} (hpw : t.pw = s.pw) (hmode : t.mode = s.mode) : t.fwRuns = s.fwRuns := by
  rw [State.fwRuns, State.fwRuns, hpw, hmode]

/-- A write that hits changes the cache alone. -/
theorem State.writeHit_merge (s : State) (a : Nat) (bs : List Nat) : (s.writeHit a bs).ms.merge = s.ms.merge := by
  unfold State.writeHit
  split <;> rfl

/-- The entry that a byte written to an empty merging buffer makes. -/
def byteEntry (a now : Nat) : Merge := { line := lineOf a, mask := 2 ^ (a % 64), at_ := now }

/-- One byte is no whole line. -/
theorem byteEntry_partial (a now : Nat) : (byteEntry a now).mask ≠ 2 ^ 64 - 1 := by
  have hpows : ∀ k < 64, 2 ^ k ≠ 2 ^ 64 - 1 := by decide
  exact hpows (a % 64) (Nat.mod_lt _ (by decide))

/-- A byte that a core writes to its own region is in memory as it is read, and in the merging buffer. -/
theorem State.memAct_write {s : State} {k a v : Nat} (hmerge : s.ms.merge = []) (hfw : s.fwRuns = true) (ha : a < 2 ^ 32) :
    (s.memAct (.write k a [v])).mem = memWriteList s.mem a [v] ∧ (s.memAct (.write k a [v])).ms.merge = [byteEntry a s.now] := by
  obtain ⟨-, -, hb, -⟩ := State.fwRuns_spec hfw
  have hact : s.memAct (.write k a [v]) = s.mergeWrite a [v] := by
    rw [State.memAct, if_neg hb, hfw, if_pos rfl, State.coreWrite, if_neg (Nat.not_le.2 ha)]
  have hhit : (s.writeHit a [v]).ms.merge = [] := (s.writeHit_merge ..).trans hmerge
  rw [hact, State.mergeWrite]
  simp only [hmerge, oldest, hhit, List.find?_nil, List.filter_nil, List.nil_append]
  refine ⟨congrArg (memWriteList · a [v]) ((s.writeHit_keeps ..).part .mem (by decide +kernel)), ?_⟩
  rw [(s.writeHit_keeps ..).part .now (by decide +kernel), byteEntry]
  simp

theorem gives_mergeBufferDrain_write (s : State) (k a v : Nat) (hwf : Memory.wf s.mem = true) (hmerge : s.ms.merge = [])
    (hfw : s.fwRuns = true) (ha : a < 2 ^ 32) (hv : v < 256) : s.gives (.mergeBufferDrain [.write k a [v]]) fun t =>
      t.byte a = v ∧ (∀ b, b ≠ a → t.byte b = s.byte b) ∧ t.ms.merge = [] ∧ s.now + 256 ≤ t.now := by
  obtain ⟨hmem, hentry⟩ := State.memAct_write (k := k) (v := v) hmerge hfw ha
  have hexec := exec_mergeBufferDrain_partial (acts := [.write k a [v]]) hentry (byteEntry_partial a s.now)
  obtain ⟨hempty, hdrained, hnow⟩ := State.drainEntry_partial hentry
  obtain ⟨hin, hout⟩ := State.byte_of_written (bs := [v]) hwf (hdrained.trans hmem)
  refine State.gives_of_exec hexec ⟨(hin 0 Nat.one_pos).trans (Nat.mod_eq_of_lt hv), fun b hb => hout b ?_, hempty, hnow⟩
  rw [List.length_singleton]
  omega

theorem gives_mergeBufferDrain_corrected (s : State) (u : Fin 9) (hmerge : s.ms.merge = []) (hb : s.mode ≠ mBanked)
    (hlt : s.rd Reg.MEMC_SRAM_CE_COUNT u < 2 ^ Reg.MEMC_SRAM_CE_COUNT.w - 1) : s.gives (.mergeBufferDrain [.corrected u]) fun t =>
      t.rd Reg.MEMC_SRAM_CE_COUNT u = s.rd Reg.MEMC_SRAM_CE_COUNT u + 1 ∧ t.mode = s.mode := by
  have hact : s.memAct (.corrected u) = s.sramFixed u := if_neg hb
  have hraise := (s.bump Reg.MEMC_SRAM_CE_COUNT u 1).raiseWin_keeps 0x0A05 0 [u.val] false
  have hms : (s.sramFixed u).ms = s.ms := (s.sramFixed_keeps u).part .ms (by decide +kernel)
  have hexec := exec_mergeBufferDrain_empty (s := s) (acts := [.corrected u])
    ((congrArg (fun t : State => t.ms.merge) hact).trans ((congrArg MemSys.merge hms).trans hmerge))
  rw [List.foldl_cons, List.foldl_nil, hact] at hexec
  exact State.gives_of_exec hexec ⟨(hraise.rd _ _ (by decide +kernel)).trans (State.rd_bump_of_lt _ (Nat.add_lt_of_lt_sub hlt)),
    (s.sramFixed_keeps u).rd _ _ (by decide +kernel)⟩

/-- The trap of a core whose handler has not run yet enters CINDER (R750). -/
theorem State.coreTrap_trapped {s : State} {k : Nat} (hc : s.mode ≠ mCinder) (hb : s.mode ≠ mBanked)
    (ht : s.ms.trapped.contains k = true) (a : Nat) : (s.coreTrap k a).mode = mCinder ∧
      (s.coreTrap k a).rd Reg.GCTL_STATUS_CINDER_CAUSE 0 = cMemory := by
  unfold State.coreTrap
  dsimp only
  rw [if_pos ht]
  exact State.raise_cinder hc hb _ _ (by decide)

/-- The first trap of a core is noted, and the cores run on. -/
theorem State.coreTrap_first {s : State} {k : Nat} (ht : s.ms.trapped.contains k = false) (a : Nat) :
    (s.coreTrap k a).ms.trapped.contains k = true ∧ (s.coreTrap k a).pw = s.pw ∧ (s.coreTrap k a).mode = s.mode := by
  have hraise := s.raise_keeps 0x0A08 (k :: w2 a)
  unfold State.coreTrap
  dsimp only
  rw [if_neg (by simp only [ht, Bool.false_eq_true, not_false_eq_true])]
  refine ⟨?_, hraise.part .pw (by decide +kernel), hraise.rd _ _ (by decide +kernel)⟩
  exact List.contains_iff_mem.2 (List.mem_append_right _ (List.mem_singleton.2 rfl))

/-- An uncorrectable word of a core's own memory traps it, while the cores run. -/
theorem State.memAct_localBad {s : State} (h : s.fwRuns = true) (k a : Nat) :
    s.memAct (.localBad k a) = (s.sramBad 7).coreTrap k a := by
  obtain ⟨-, -, hb, -⟩ := State.fwRuns_spec h
  rw [State.memAct, if_neg hb]
  exact if_pos h

/-- The first of two traps leads to CINDER, or leaves the cores running with the trap noted. -/
theorem State.memAct_localBad_cases {s : State} (h : s.fwRuns = true) (k a : Nat) :
    (s.memAct (.localBad k a)).mode = mCinder ∧ (s.memAct (.localBad k a)).rd Reg.GCTL_STATUS_CINDER_CAUSE 0 = cMemory ∨
      (s.memAct (.localBad k a)).fwRuns = true ∧ (s.memAct (.localBad k a)).ms.trapped.contains k = true := by
  obtain ⟨-, hc, hb, -⟩ := State.fwRuns_spec h
  have hkeeps : Keeps State.sramBad_mask s (s.sramBad 7) := s.sramBad_keeps 7
  have hmode : (s.sramBad 7).mode = s.mode := hkeeps.rd _ _ (by decide +kernel)
  have hpw : (s.sramBad 7).pw = s.pw := hkeeps.part .pw (by decide +kernel)
  rw [State.memAct_localBad h]
  rw [← hmode] at hc hb
  obtain ht | ht := Bool.eq_false_or_eq_true ((s.sramBad 7).ms.trapped.contains k)
  · exact .inl (State.coreTrap_trapped hc hb ht a)
  · obtain ⟨hin, hpw1, hmode1⟩ := State.coreTrap_first ht a
    exact .inr ⟨(State.fwRuns_congr (hpw1.trans hpw) (hmode1.trans hmode)).trans h, hin⟩

/-- After two traps of a core the mode is CINDER for cause MEMORY (R750). -/
theorem State.memAct_localBad_twice {s : State} (h : s.fwRuns = true) (k a b : Nat) :
    ((s.memAct (.localBad k a)).memAct (.localBad k b)).mode = mCinder ∧
      ((s.memAct (.localBad k a)).memAct (.localBad k b)).rd Reg.GCTL_STATUS_CINDER_CAUSE 0 = cMemory := by
  obtain ⟨hmode, hcause⟩ | ⟨hfw, ht⟩ := s.memAct_localBad_cases h k a
  · generalize s.memAct (.localBad k a) = u at hmode hcause
    have hstops : u.fwRuns = false := by simp [State.fwRuns, hmode]
    have hact : u.memAct (.localBad k b) = u := by
      rw [State.memAct, if_neg (by rw [hmode]; decide)]
      exact if_neg (by simp [hstops])
    rw [hact]
    exact ⟨hmode, hcause⟩
  · generalize s.memAct (.localBad k a) = u at hfw ht
    obtain ⟨-, hc, hb, -⟩ := State.fwRuns_spec hfw
    have hkeeps : Keeps State.sramBad_mask u (u.sramBad 7) := u.sramBad_keeps 7
    have hmode : (u.sramBad 7).mode = u.mode := hkeeps.rd _ _ (by decide +kernel)
    have hms : (u.sramBad 7).ms = u.ms := hkeeps.part .ms (by decide +kernel)
    rw [State.memAct_localBad hfw]
    rw [← hmode] at hc hb
    exact State.coreTrap_trapped hc hb (by rw [hms, ht]) b

/-- A core's trap leaves the merging buffer. -/
theorem State.memAct_localBad_merge (s : State) (k a : Nat) : (s.memAct (.localBad k a)).ms.merge = s.ms.merge := by
  have htrap (u : State) : (u.coreTrap k a).ms.merge = u.ms.merge := by
    have hraise : (u.raise 0x0A08 (k :: w2 a)).ms = u.ms := (u.raise_keeps ..).part .ms (by decide +kernel)
    unfold State.coreTrap
    extract_lets u1
    have hu1 : u1.ms.merge = u.ms.merge := congrArg MemSys.merge hraise
    clear_value u1
    split
    · exact (congrArg MemSys.merge ((State.cinder_keeps ..).part .ms (by decide +kernel))).trans hu1
    · exact hu1
  by_cases hb : s.mode = mBanked
  · rw [State.memAct, if_pos hb]
  · rw [State.memAct, if_neg hb]
    split
    · exact (htrap _).trans (congrArg MemSys.merge ((s.sramBad_keeps 7).part .ms (by decide +kernel)))
    · rfl

theorem gives_mergeBufferDrain_twoTraps (s : State) (k a b : Nat) (hmerge : s.ms.merge = []) (hfw : s.fwRuns = true) :
    s.gives (.mergeBufferDrain [.localBad k a, .localBad k b]) fun t => t.mode = mCinder ∧
      t.rd Reg.GCTL_STATUS_CINDER_CAUSE 0 = cMemory := by
  have hempty : ((s.memAct (.localBad k a)).memAct (.localBad k b)).ms.merge = [] := by
    rw [State.memAct_localBad_merge, State.memAct_localBad_merge, hmerge]
  exact State.gives_of_exec (exec_mergeBufferDrain_empty (acts := [.localBad k a, .localBad k b]) hempty)
    (s.memAct_localBad_twice hfw k a b)

/-- Settles O41, clause by clause. -/
theorem memoryTrainingScrubAndBuffer : Obligations.MemoryTrainingScrubAndBuffer :=
  ⟨gives_dramTrainingDone_cold, gives_dramTrainingDone_kept, gives_dramTrainingDone_fails, gives_dramInitDone,
    fun s ht ha he hb hh => gives_scrubStep_clean s ⟨ht, ha, he, hb, hh⟩, fun s w ht ha he hb hh => gives_scrubStep_bad s w ⟨ht, ha, he, hb, hh⟩,
    fun s ht ha he hb hh => gives_scrubStep_pass s ⟨ht, ha, he, hb, hh⟩, gives_selfRefreshEnter, gives_mergeBufferDrain_whole,
    gives_mergeBufferDrain_partial, gives_mergeBufferDrain_write, gives_mergeBufferDrain_corrected,
    fun s k a b hm hf _ => gives_mergeBufferDrain_twoTraps s k a b hm hf⟩

end Sys2Proof.Machine
end

section
/-!
PROOF. The sequences of the flash array: programs, erases, their suspension, and what ends with an error (O46).
-/

set_option Elab.async false

namespace Sys2Proof.Machine

/-! ### Words of the array (R772, R773) -/

theorem mem_mput {α : Type} {l : List (Nat × α)} {k : Nat} {v : α} {p : Nat × α} (h : p ∈ mput l k v) : p = (k, v) ∨ p ∈ l := by
  induction l with
  | nil => exact .inl (List.mem_singleton.1 h)
  | cons q r ih =>
    obtain ⟨a, b⟩ := q
    simp only [mput] at h
    split at h
    · obtain hk | hr := List.mem_cons.1 h
      · exact .inl hk
      · exact .inr (List.mem_cons_of_mem _ hr)
    · split at h
      · exact List.mem_cons.1 h
      · obtain hq | hr := List.mem_cons.1 h
        · exact .inr (hq ▸ List.mem_cons_self ..)
        · exact (ih hr).imp_right (List.mem_cons_of_mem _)

theorem State.fword_congr {s t : State} (h : t.flash = s.flash) (i : Nat) : t.fword i = s.fword i := by rw [State.fword, State.fword, h]

/-- A program that the word admits leaves it programmed, any other as it was. -/
theorem State.programNow_fword (s : State) (i v : Nat) :
    (s.programNow i v).fword i = if (s.fword i).outcome v = 0 then (s.fword i).prog v else s.fword i := by
  unfold State.programNow
  split
  · exact mget_mput_same ..
  · rfl

theorem State.programNow_fword_ne (s : State) {i j : Nat} (h : i ≠ j) (v : Nat) : (s.programNow i v).fword j = s.fword j := by
  unfold State.programNow
  split
  · exact mget_mput_ne _ _ _ _ _ h
  · rfl

/-- A program changes words of the array only. -/
theorem State.programNow_flash (s : State) (i v : Nat) : (s.programNow i v).flash.prog = s.flash.prog ∧
    (s.programNow i v).flash.erase = s.flash.erase := by
  unfold State.programNow
  split <;> exact ⟨rfl, rfl⟩

/-- A word listed after a program is the word programmed or was listed before. -/
theorem State.mem_programNow {s : State} {i v : Nat} {p : Nat × FWord} (h : p ∈ (s.programNow i v).flash.words) :
    p.1 = i ∨ p ∈ s.flash.words := by
  unfold State.programNow at h
  split at h
  · exact (mem_mput h).imp_left (congrArg Prod.fst)
  · exact .inr h

/-! ### What the controller shows (R813, R814) -/

theorem State.flag_wrB_ne (s : State) (f g : Fld) (i j : Nat) (b : Bool) (h : f.id % 8192 ≠ g.id % 8192) :
    (s.wrB f i b).flag g j = s.flag g j := State.flag_wr_ne _ _ _ _ _ _ h

theorem State.showFlash_flags (s : State) : s.showFlash.flag Reg.FLC_STATUS_BUSY 0 = (s.flash.prog.isSome || s.eraseRuns) ∧
    s.showFlash.flag Reg.FLC_STATUS_ERASING 0 = s.flash.erase.isSome ∧
    s.showFlash.flag Reg.FLC_STATUS_SUSPENDED 0 = (s.flash.erase.isSome && !s.eraseRuns) := by
  unfold State.showFlash
  dsimp only
  refine ⟨?_, ?_, State.flag_wrB _ 0 _ (by decide)⟩
  · rw [State.flag_wrB_ne _ _ _ _ _ _ (by decide), State.flag_wrB_ne _ _ _ _ _ _ (by decide), State.flag_wrB _ 0 _ (by decide)]
  · rw [State.flag_wrB_ne _ _ _ _ _ _ (by decide), State.flag_wrB _ 0 _ (by decide)]

theorem State.showFlash_flash (s : State) : s.showFlash.flash = s.flash := s.showFlash_keeps.part .flash (by decide +kernel)

theorem State.flashResult_flash (s : State) (r off : Nat) : (s.flashResult r off).flash = s.flash :=
  (s.flashResult_keeps r off).part .flash (by decide +kernel)

theorem State.flashResult_rd (s : State) {r : Nat} (hr : r < 256) (off : Nat) :
    (s.flashResult r off).rd Reg.FLC_STATUS_RESULT 0 = r := by
  have hwr : (s.wr Reg.FLC_STATUS_RESULT 0 r).rd Reg.FLC_STATUS_RESULT 0 = r := (State.rd_wr_same ..).trans (Nat.mod_eq_of_lt hr)
  unfold State.flashResult
  extract_lets s1
  split
  · exact ((s1.raise_keeps ..).rd _ _ (by decide +kernel)).trans hwr
  · exact hwr

/-- A sequence that ends with an error shows it and leaves the array. -/
theorem State.gives_of_flashResult {s : State} {c : Instr} {r off : Nat} (h : exec c s = .next (s.flashResult r off)) (hr : r < 256) :
    s.gives c fun t => t.rd Reg.FLC_STATUS_RESULT 0 = r ∧ t.flash = s.flash :=
  State.gives_of_exec h ⟨s.flashResult_rd hr off, s.flashResult_flash r off⟩

/-! ### Programs (R771, R773, R774, R777) -/

theorem FWord.outcome_le (w : FWord) (v : Nat) : w.outcome v ≤ 2 := by
  unfold FWord.outcome
  split
  · exact Nat.le_refl 2
  · split <;> decide

/-- With the array idle a sequence for a sector of firmware is judged by the word alone. -/
theorem exec_flashProgram {s : State} {w : BitVec 25} (hfw : s.fwRuns = true) (hsec : s.fwSector (w.toNat / sectorWords) = true)
    (herase : s.flash.erase = none) (hprog : s.flash.prog = none) (v : BitVec 64) (m : BitVec 8) :
    exec (.flashProgram w v m) s =
      if (s.fword w.toNat).outcome (maskBytes (s.fword w.toNat).data v.toNat m.toNat) ≠ 0 then
        .next (s.flashResult ((s.fword w.toNat).outcome (maskBytes (s.fword w.toNat).data v.toNat m.toNat)) (w.toNat * 8))
      else .next ({ s with flash := { s.flash with
        prog := some { word := w.toNat, value := maskBytes (s.fword w.toNat).data v.toNat m.toNat }, erase := none } } : State).showFlash := by
  simp only [exec, execFlashProgram, hfw, hsec, State.eraseOf, State.eraseRuns, herase, hprog, Bool.not_true, Bool.false_eq_true,
    Option.isSome_none, false_and, or_self, if_false, Option.map_none]

theorem gives_flashProgram (s : State) (w : BitVec 25) (v : BitVec 64) (m : BitVec 8) (hfw : s.fwRuns = true)
    (hsec : s.fwSector (w.toNat / sectorWords) = true) (herase : s.flash.erase = none) (hprog : s.flash.prog = none)
    (hok : (s.fword w.toNat).outcome (maskBytes (s.fword w.toNat).data v.toNat m.toNat) = 0) :
    s.gives (.flashProgram w v m) fun t =>
      t.flash.prog = some { word := w.toNat, value := maskBytes (s.fword w.toNat).data v.toNat m.toNat } ∧
      t.flag Reg.FLC_STATUS_BUSY 0 = true ∧ t.flash.words = s.flash.words := by
  let u : State := { s with flash := { s.flash with
    prog := some { word := w.toNat, value := maskBytes (s.fword w.toNat).data v.toNat m.toNat }, erase := none } }
  obtain ⟨hbusy, -⟩ := u.showFlash_flags
  have hflash := u.showFlash_flash
  exact State.gives_of_exec ((exec_flashProgram hfw hsec herase hprog v m).trans (if_neg (not_not.2 hok)))
    ⟨congrArg Flash.prog hflash, hbusy, (congrArg Flash.words hflash :)⟩

theorem gives_flashProgram_refused (s : State) (w : BitVec 25) (v : BitVec 64) (m : BitVec 8) (hfw : s.fwRuns = true)
    (hsec : s.fwSector (w.toNat / sectorWords) = true) (herase : s.flash.erase = none) (hprog : s.flash.prog = none)
    (hno : (s.fword w.toNat).outcome (maskBytes (s.fword w.toNat).data v.toNat m.toNat) ≠ 0) :
    s.gives (.flashProgram w v m) fun t =>
      t.rd Reg.FLC_STATUS_RESULT 0 = (s.fword w.toNat).outcome (maskBytes (s.fword w.toNat).data v.toNat m.toNat) ∧ t.flash = s.flash ∧
      t.lastEvent 0x0B03 (w2 (w.toNat * 8) ++ [(s.fword w.toNat).outcome (maskBytes (s.fword w.toNat).data v.toNat m.toNat)]) := by
  have hexec := (exec_flashProgram hfw hsec herase hprog v m).trans (if_pos hno)
  have hle := (s.fword w.toNat).outcome_le (maskBytes (s.fword w.toNat).data v.toNat m.toNat)
  generalize (s.fword w.toNat).outcome (maskBytes (s.fword w.toNat).data v.toNat m.toNat) = r at hexec hno hle ⊢
  refine State.gives_of_exec hexec ⟨s.flashResult_rd (by omega) _, s.flashResult_flash r _, ?_⟩
  rw [State.flashResult, if_pos (by omega)]
  exact State.raise_lastEvent ..

theorem gives_flashProgram_locked (s : State) (w : BitVec 25) (v : BitVec 64) (m : BitVec 8) (hfw : s.fwRuns = true)
    (hsec : s.fwSector (w.toNat / sectorWords) = false) :
    s.gives (.flashProgram w v m) fun t => t.rd Reg.FLC_STATUS_RESULT 0 = 3 ∧ t.flash = s.flash :=
  State.gives_of_flashResult ((if_neg (by simp [hfw])).trans (if_pos (by simp [hsec]))) (by decide)

/-- What a program of a journal word makes of what was due leaves the words, the program and the erase of the array. -/
theorem State.takeItem_flash (s : State) (p : JItem → Bool) (note : Option Nat) : (s.takeItem p note).flash.words = s.flash.words ∧
    (s.takeItem p note).flash.prog = s.flash.prog := by
  unfold State.takeItem
  split
  · exact ⟨rfl, rfl⟩
  · next x _ =>
    extract_lets +onlyGivenNames s1 flash s2
    have h2 : s2.flash.words = s.flash.words ∧ s2.flash.prog = s.flash.prog := by
      unfold s2
      split <;> exact ⟨rfl, rfl⟩
    rwa [(s2.itemDone_keeps x).part .flash (by decide +kernel)]

theorem State.recorded_flash (s : State) (i v : Nat) : (s.recorded i v).flash.words = s.flash.words ∧
    (s.recorded i v).flash.prog = s.flash.prog := by
  have hsame : s.flash.words = s.flash.words ∧ s.flash.prog = s.flash.prog := ⟨rfl, rfl⟩
  unfold State.recorded
  dsimp only
  split
  · exact hsame
  · split
    · split
      · exact s.takeItem_flash ..
      · split
        · exact s.takeItem_flash ..
        · exact hsame
    · split
      · exact s.takeItem_flash ..
      · exact hsame

/-- The program in progress ends, up to what settles behind it. -/
def State.programEnded (s : State) (p : Prog) : State :=
  let s1 := s.programNow p.word p.value
  let er := s1.flash.erase.map fun e => if p.resume then { e with suspended := false } else e
  let s2 : State := { s1 with flash := { s1.flash with prog := none, erase := er } }
  ((s2.wr Reg.FLC_STATUS_RESULT 0 0).showFlash).recorded p.word p.value

theorem State.endProgram_eq {s : State} {p : Prog} (h : s.flash.prog = some p) : s.endProgram = (s.programEnded p).settle := by
  unfold State.endProgram
  rw [h]
  rfl

theorem State.programEnded_spec {s : State} {p : Prog} (hok : (s.fword p.word).outcome p.value = 0) :
    (s.programEnded p).fword p.word = (s.fword p.word).prog p.value ∧ (s.programEnded p).flash.prog = none ∧
      (s.programEnded p).rd Reg.FLC_STATUS_RESULT 0 = 0 ∧ (s.programEnded p).now = s.now := by
  unfold State.programEnded
  extract_lets +onlyGivenNames s1 er flash s2
  have hword : s1.fword p.word = (s.fword p.word).prog p.value := (s.programNow_fword ..).trans (if_pos hok)
  have hnow : s1.now = s.now := (s.programNow_keeps ..).now
  have hshow := (s2.wr Reg.FLC_STATUS_RESULT 0 0).showFlash_keeps
  generalize hu : (s2.wr Reg.FLC_STATUS_RESULT 0 0).showFlash = u at hshow
  obtain ⟨hwords, hprog⟩ := u.recorded_flash p.word p.value
  have hrec := u.recorded_keeps p.word p.value
  have hflash : u.flash = s2.flash := hshow.part .flash (by decide +kernel)
  refine ⟨?_, hprog.trans (congrArg Flash.prog hflash), ?_, ?_⟩
  · rw [← hword, State.fword, hwords, hflash]
    rfl
  · exact (hrec.rd _ _ (by decide +kernel)).trans ((hshow.rd _ _ (by decide +kernel)).trans (State.rd_wr_same ..))
  · exact hrec.now.trans (hshow.now.trans hnow)

theorem gives_flashProgramDone (s : State) (dt : Nat) (p : Prog) (hp : s.flash.prog = some p) (hok : (s.fword p.word).outcome p.value = 0) :
    s.gives (.flashProgramDone dt) fun t => ∃ u : State, t = u.settle ∧ u.fword p.word = (s.fword p.word).prog p.value ∧
      u.flash.prog = none ∧ u.rd Reg.FLC_STATUS_RESULT 0 = 0 ∧ u.now = s.now + dt := by
  have hflash : (s.advance dt).flash = s.flash := s.advance_flash dt
  have hexec : exec (.flashProgramDone dt) s = .next ((s.advance dt).programEnded p).settle := by
    rw [← State.endProgram_eq (hflash ▸ hp)]
    exact if_neg (by simp [hp])
  have hword := State.fword_congr hflash p.word
  obtain ⟨hprogrammed, hnone, hresult, hnow⟩ := State.programEnded_spec (s := s.advance dt) (hword ▸ hok)
  exact State.gives_of_exec hexec ⟨_, rfl, hword ▸ hprogrammed, hnone, hresult, hnow.trans (s.advance_now dt)⟩

/-! ### Erases begin, stop and go on (R783, R787) -/

/-- An erase whose entry is not the last word of the active log writes that entry, and is in progress under it. -/
theorem State.startErase_spec {s : State} {sec : Nat} (hsec : sec < 2 ^ 12) (hprog : s.flash.prog = none)
    (hlog : s.logNext s.activeLog + 1 ≠ secWord (2 + s.activeLog)) :
    (s.startErase sec 0 0).flash.erase =
      some { sector := sec, kind := 0, seq := max (s.logMax 0) (s.logMax 1) + 1, entry := s.logNext s.activeLog, from_ := s.now } ∧
    (s.startErase sec 0 0).rd Reg.FLC_ERASE_SECTOR 0 = sec ∧ (s.startErase sec 0 0).flag Reg.FLC_STATUS_ERASING 0 = true ∧
    (s.startErase sec 0 0).flag Reg.FLC_STATUS_BUSY 0 = true ∧
    (s.startErase sec 0 0).fword (s.logNext s.activeLog) =
      (s.programNow (s.logNext s.activeLog) (logWord sec 0 (max (s.logMax 0) (s.logMax 1) + 1) 0)).fword (s.logNext s.activeLog) := by
  let i := s.logNext s.activeLog
  let seq := max (s.logMax 0) (s.logMax 1) + 1
  let e : Erase := { sector := sec, kind := 0, seq := seq, entry := i, from_ := s.now }
  obtain ⟨s1, hs1⟩ : ∃ s1, s1 = (s.appendEntry s.activeLog sec 0 seq 0).2 := ⟨_, rfl⟩
  let u : State := ({ s1 with flash := { s1.flash with erase := some e } } : State).wr Reg.FLC_ERASE_SECTOR 0 sec
  have hstart : s.startErase sec 0 0 = u.showFlash := by
    unfold State.startErase State.logErase
    dsimp only
    rw [if_neg hlog]
    subst hs1
    rfl
  have hprog1 : s1.flash.prog = none := by
    obtain ⟨hp, -⟩ := s.programNow_flash i (logWord sec 0 seq 0)
    subst hs1
    exact hp.trans hprog
  have hword1 : s1.fword i = (s.programNow i (logWord sec 0 seq 0)).fword i := by
    subst hs1
    rfl
  have hflash : u.showFlash.flash = { s1.flash with erase := some e } := u.showFlash_flash
  obtain ⟨hbusy, herasing, -⟩ := u.showFlash_flags
  have hruns : u.eraseRuns = true := rfl
  rw [hstart]
  refine ⟨congrArg Flash.erase hflash, ?_, herasing, ?_, ?_⟩
  · exact (u.showFlash_keeps.rd _ _ (by decide +kernel)).trans ((State.rd_wr_same ..).trans (Nat.mod_eq_of_lt hsec))
  · rw [hbusy, hruns, Bool.or_true]
  · rw [← hword1, State.fword, hflash]
    rfl

theorem gives_flashSectorErase (s : State) (x : BitVec 12) (hfw : s.fwRuns = true) (hsec : s.fwSector x.toNat = true)
    (hprog : s.flash.prog = none) (herase : s.flash.erase = none) (hx : x ≠ 0)
    (hlog : s.logNext s.activeLog + 1 ≠ secWord (2 + s.activeLog)) : s.gives (.flashSectorErase x) fun t =>
      t.flash.erase = some { sector := x.toNat, kind := 0, seq := max (s.logMax 0) (s.logMax 1) + 1, entry := s.logNext s.activeLog,
                             from_ := s.now } ∧
      t.rd Reg.FLC_ERASE_SECTOR 0 = x.toNat ∧ t.flag Reg.FLC_STATUS_ERASING 0 = true ∧ t.flag Reg.FLC_STATUS_BUSY 0 = true ∧
      t.fword (s.logNext s.activeLog) =
        (if (s.fword (s.logNext s.activeLog)).outcome (logWord x.toNat 0 (max (s.logMax 0) (s.logMax 1) + 1) 0) = 0 then
          (s.fword (s.logNext s.activeLog)).prog (logWord x.toNat 0 (max (s.logMax 0) (s.logMax 1) + 1) 0)
        else s.fword (s.logNext s.activeLog)) := by
  have hne : x.toNat ≠ 0 := fun h => hx (BitVec.eq_of_toNat_eq h)
  have hexec : exec (.flashSectorErase x) s = .next (s.startErase x.toNat 0 0) := by
    simp only [exec, execFlashSectorErase, hfw, hsec, hprog, herase, hne, State.eraseOf, Bool.not_true, Bool.false_eq_true,
      Option.isSome_none, or_self, false_and, if_false]
  rw [← State.programNow_fword]
  exact State.gives_of_exec hexec (State.startErase_spec x.isLt hprog hlog)

/-- The erase in progress or suspended is the one given. -/
def State.setErase (s : State) (e : Erase) : State := { s with flash := { s.flash with erase := some e } }

/-- An erase stands suspended or goes on, with no program in progress: what the status shows. -/
theorem State.setErase_shows {s : State} (hprog : s.flash.prog = none) (e : Erase) :
    (s.setErase e).showFlash.flash.erase = some e ∧ (s.setErase e).showFlash.flag Reg.FLC_STATUS_SUSPENDED 0 = e.suspended ∧
      (s.setErase e).showFlash.flag Reg.FLC_STATUS_BUSY 0 = !e.suspended := by
  obtain ⟨hbusy, -, hsusp⟩ := (s.setErase e).showFlash_flags
  have hruns : (s.setErase e).eraseRuns = !e.suspended := rfl
  have hprog' : (s.setErase e).flash.prog = none := hprog
  have herase : (s.setErase e).flash.erase = some e := rfl
  refine ⟨congrArg Flash.erase (s.setErase e).showFlash_flash, ?_, ?_⟩
  · rw [hsusp, hruns, herase, Bool.not_not, Option.isSome_some, Bool.true_and]
  · rw [hbusy, hruns, hprog', Option.isSome_none, Bool.false_or]

theorem gives_flashSuspend (s : State) (e : Erase) (hfw : s.fwRuns = true) (hprog : s.flash.prog = none)
    (herase : s.flash.erase = some e) : s.gives .flashSuspend fun t => t.flash.erase = some { e with suspended := true } ∧
      t.flag Reg.FLC_STATUS_SUSPENDED 0 = true ∧ t.flag Reg.FLC_STATUS_BUSY 0 = false := by
  have hexec : exec .flashSuspend s = .next (s.setErase { e with suspended := true }).showFlash := by
    have hidle : s.flash.prog.isSome = false := by rw [hprog]; rfl
    simp only [exec, execFlashSuspend, hfw, hidle, herase, Bool.not_true, Bool.false_eq_true, if_false, Option.map_some]
    rfl
  exact State.gives_of_exec hexec (State.setErase_shows hprog _)

theorem gives_flashResume (s : State) (e : Erase) (hfw : s.fwRuns = true) (hprog : s.flash.prog = none)
    (herase : s.flash.erase = some e) : s.gives .flashResume fun t => t.flash.erase = some { e with suspended := false } ∧
      t.flag Reg.FLC_STATUS_SUSPENDED 0 = false ∧ t.flag Reg.FLC_STATUS_BUSY 0 = true := by
  have hexec : exec .flashResume s = .next (s.setErase { e with suspended := false }).showFlash := by
    have hidle : s.flash.prog.isSome = false := by rw [hprog]; rfl
    simp only [exec, execFlashResume, hfw, hidle, herase, Bool.not_true, Bool.false_eq_true, if_false, Option.map_some]
    rfl
  exact State.gives_of_exec hexec (State.setErase_shows hprog _)

/-! ### Sequences out of order (R778 to R780) -/

theorem gives_flashReadArray_idle (s : State) (_ : s.fwRuns = true) (hbusy : s.flag Reg.FLC_STATUS_BUSY 0 = false) :
    s.gives .flashReadArray fun t => t = s :=
  State.gives_of_exec (t := s) (if_neg (by simp [hbusy])) rfl

theorem gives_flashReadArray_busy (s : State) (hfw : s.fwRuns = true) (hbusy : s.flag Reg.FLC_STATUS_BUSY 0 = true) :
    s.gives .flashReadArray fun t => t.rd Reg.FLC_STATUS_RESULT 0 = 5 ∧ t.flash = s.flash :=
  State.gives_of_flashResult (if_pos ⟨hfw, hbusy⟩) (by decide)

theorem gives_flashSeqError (s : State) (hfw : s.fwRuns = true) :
    s.gives .flashSeqError fun t => t.rd Reg.FLC_STATUS_RESULT 0 = 4 ∧ t.flash = s.flash :=
  State.gives_of_flashResult (if_pos hfw) (by decide)

/-! ### An erase ends (R783, R788, R794) -/

/-- The array once an erase has passed its verify: no erase is pending, the sector reads erased and its entry says done. -/
def State.erased (s : State) (e : Erase) : State :=
  (({ s with flash := { s.flash with erase := none } } : State).clearSector e.sector).entryDone e.entry

theorem exec_flashEraseDone {s : State} {e : Erase} (he : s.flash.erase = some e) (hs : e.suspended = false) (dt : Nat) {n : Nat}
    (hn : n ≤ 360) : exec (.flashEraseDone dt n 0) s =
      .next (((((s.advance dt).wr Reg.FLC_ERASE_PULSES 0 n).erased e).swapErased e).wr Reg.FLC_STATUS_RESULT 0 0).showFlash := by
  simp only [exec, execFlashEraseDone, he, hs, Nat.zero_min, Nat.not_lt_zero, Nat.lt_irrefl, decide_false, Bool.false_eq_true, if_false,
    Nat.not_lt.2 hn, Nat.min_eq_right (show n ≤ 65535 by omega)]
  rfl

/-- What the verified erase shows, whatever the record of the swap selector adds to the array. -/
theorem State.eraseShown_spec {u v : State} {n : Nat} (hn : n ≤ 360) {e : Erase} (hv : (u.wr Reg.FLC_ERASE_PULSES 0 n).erased e = v) :
    ((v.swapErased e).wr Reg.FLC_STATUS_RESULT 0 0).showFlash.rd Reg.FLC_STATUS_RESULT 0 = 0 ∧
      ((v.swapErased e).wr Reg.FLC_STATUS_RESULT 0 0).showFlash.rd Reg.FLC_ERASE_PULSES 0 = n ∧
      ((v.swapErased e).wr Reg.FLC_STATUS_RESULT 0 0).showFlash.flash = (v.swapErased e).flash := by
  have hshow := ((v.swapErased e).wr Reg.FLC_STATUS_RESULT 0 0).showFlash_keeps
  have hpulses : v.rd Reg.FLC_ERASE_PULSES 0 = n := by
    rw [← hv, State.erased]
    exact ((State.entryDone_keeps ..).rd _ _ (by decide +kernel)).trans ((State.rd_wr_same ..).trans
      (Nat.mod_eq_of_lt (Nat.lt_of_le_of_lt hn (by decide))))
  refine ⟨(hshow.rd _ _ (by decide +kernel)).trans (State.rd_wr_same ..), ?_, State.showFlash_flash _⟩
  rw [hshow.rd _ _ (by decide +kernel), State.rd_wr_ne _ _ _ _ _ _ (by decide), (v.swapErased_keeps e).rd _ _ (by decide +kernel), hpulses]

/-- No word of the sector is left, where the erase's entry lies elsewhere. -/
theorem State.mem_erased {s : State} {e : Erase} (hentry : e.entry / sectorWords ≠ e.sector) {p : Nat × FWord}
    (hp : p ∈ (s.erased e).flash.words) : p.1 / sectorWords ≠ e.sector := by
  obtain hentry' | hold := State.mem_programNow hp
  · rwa [hentry']
  · simpa using List.of_mem_filter hold

theorem State.erased_erase (s : State) (e : Erase) : (s.erased e).flash.erase = none := by
  obtain ⟨-, herase⟩ := (({ s with flash := { s.flash with erase := none } } : State).clearSector e.sector).programNow_flash e.entry
    (((({ s with flash := { s.flash with erase := none } } : State).clearSector e.sector).fword e.entry).data % 2 ^ 63)
  exact herase

theorem gives_flashEraseDone (s : State) (dt n : Nat) (e : Erase) (he : s.flash.erase = some e) (hs : e.suspended = false) (hn : n ≤ 360)
    (hentry : e.entry / sectorWords ≠ e.sector) (hkind : e.kind ≠ 2) : s.gives (.flashEraseDone dt n 0) fun t =>
      t.flash.erase = none ∧ t.rd Reg.FLC_STATUS_RESULT 0 = 0 ∧ t.rd Reg.FLC_ERASE_PULSES 0 = n ∧
      (∀ p ∈ t.flash.words, p.1 / sectorWords ≠ e.sector) ∧ t.flag Reg.FLC_STATUS_ERASING 0 = false := by
  have hexec := exec_flashEraseDone he hs dt hn
  obtain ⟨v, hv⟩ : ∃ v, ((s.advance dt).wr Reg.FLC_ERASE_PULSES 0 n).erased e = v := ⟨_, rfl⟩
  obtain ⟨hresult, hpulses, hflash⟩ := State.eraseShown_spec hn hv
  obtain ⟨-, herasing, -⟩ := ((v.swapErased e).wr Reg.FLC_STATUS_RESULT 0 0).showFlash_flags
  have hswap : v.swapErased e = v := if_neg hkind
  have hnone : v.flash.erase = none := hv ▸ State.erased_erase ..
  rw [hv] at hexec
  rw [hswap] at hexec hresult hpulses hflash herasing
  refine State.gives_of_exec hexec ⟨(congrArg Flash.erase hflash).trans hnone, hresult, hpulses, fun p hp => ?_, ?_⟩
  · rw [hflash, ← hv] at hp
    exact State.mem_erased hentry hp
  · rw [herasing]
    exact congrArg Option.isSome hnone

/-! ### The swap selector after its erase (R794) -/

theorem State.fwords_congr {s t : State} (h : t.flash = s.flash) (lo hi : Nat) : t.fwords lo hi = s.fwords lo hi := by
  rw [State.fwords, State.fwords, h]

theorem State.fval_congr {s t : State} (h : t.flash = s.flash) (i : Nat) : t.fval i = s.fval i := by
  rw [State.fval, State.fval, State.fword_congr h]

theorem State.logEntries_congr {s t : State} (h : t.flash = s.flash) (log : Nat) : t.logEntries log = s.logEntries log := by
  rw [State.logEntries, State.logEntries, State.fwords_congr h]

theorem State.logMax_congr {s t : State} (h : t.flash = s.flash) (log : Nat) : t.logMax log = s.logMax log := by
  rw [State.logMax, State.logMax, State.logEntries_congr h]

theorem State.activeLog_congr {s t : State} (h : t.flash = s.flash) : t.activeLog = s.activeLog := by
  rw [State.activeLog, State.activeLog, State.logMax_congr h, State.logMax_congr h]

theorem State.auxTwin_congr {s t : State} (h : t.flash = s.flash) : t.auxTwin = s.auxTwin := by
  rw [State.auxTwin, State.auxTwin, State.activeLog_congr h, State.logEntries_congr h]

theorem State.swapUsed_congr {s t : State} (h : t.flash = s.flash) : t.swapUsed = s.swapUsed := by
  rw [State.swapUsed, State.swapUsed, State.fwords_congr h]

theorem State.swapInForce_congr {s t : State} (h : t.flash = s.flash) : t.swapInForce = s.swapInForce := by
  have hat : t.swapAt = s.swapAt := by
    funext j
    simp only [State.swapAt, State.fval_congr h, State.fword_congr h]
  rw [State.swapInForce, State.swapInForce, State.swapUsed_congr h, hat]

theorem State.programNow_flash_congr {s t : State} (h : t.flash = s.flash) (i v : Nat) :
    (t.programNow i v).flash = (s.programNow i v).flash := by
  unfold State.programNow
  rw [State.fword_congr h]
  split
  · rw [h]
  · exact h

/-- The record that is appended depends on the array alone. -/
theorem State.appendSwap_flash_congr {s t : State} (h : t.flash = s.flash) (twin kind version : Nat) :
    (t.appendSwap twin kind version).flash = (s.appendSwap twin kind version).flash := by
  unfold State.appendSwap
  rw [State.swapInForce_congr h, State.swapUsed_congr h]
  dsimp only
  split
  · exact h
  · exact State.programNow_flash_congr (State.programNow_flash_congr h _ _) _ _

theorem State.appendSwap_erase (s : State) (twin kind version : Nat) : (s.appendSwap twin kind version).flash.erase = s.flash.erase := by
  unfold State.appendSwap
  dsimp only
  split
  · rfl
  · obtain ⟨-, h1⟩ := s.programNow_flash _ _
    obtain ⟨-, h2⟩ := State.programNow_flash (s.programNow _ _) _ _
    exact h2.trans h1

/-- What an erase makes of the array depends on the array alone. -/
theorem State.erased_flash_congr {s t : State} (h : t.flash = s.flash) (e : Erase) : (t.erased e).flash = (s.erased e).flash := by
  have hclear : (({ t with flash := { t.flash with erase := none } } : State).clearSector e.sector).flash =
      (({ s with flash := { s.flash with erase := none } } : State).clearSector e.sector).flash := by
    rw [State.clearSector, State.clearSector, h]
  rw [State.erased, State.erased, State.entryDone, State.entryDone, State.fword_congr hclear]
  exact State.programNow_flash_congr hclear _ _

theorem gives_flashEraseDone_swap (s : State) (dt n tw : Nat) (e : Erase) (he : s.flash.erase = some e) (hs : e.suspended = false)
    (hn : n ≤ 360) (hkind : e.kind = 2) (htw : (s.erased e).auxTwin = some tw) : s.gives (.flashEraseDone dt n 0) fun t =>
      t.flash.erase = none ∧ t.rd Reg.FLC_STATUS_RESULT 0 = 0 ∧
      t.flash = ((s.erased e).appendSwap tw 1 ((((s.erased e).fval (secWord (twinSector tw) + 1)).getD 0) % 2 ^ 32 / 65536)).flash := by
  have hexec := exec_flashEraseDone he hs dt hn
  obtain ⟨v, hv⟩ : ∃ v, ((s.advance dt).wr Reg.FLC_ERASE_PULSES 0 n).erased e = v := ⟨_, rfl⟩
  obtain ⟨hresult, -, hflash⟩ := State.eraseShown_spec hn hv
  have hsame : v.flash = (s.erased e).flash := by
    rw [← hv]
    exact State.erased_flash_congr (t := (s.advance dt).wr _ 0 n) (s.advance_flash dt) e
  have hswap : v.swapErased e = v.appendSwap tw 1 (((v.fval (secWord (twinSector tw) + 1)).getD 0) % 2 ^ 32 / 65536) := by
    rw [State.swapErased, if_pos hkind, State.auxTwin_congr hsame, htw]
  rw [hswap, State.fval_congr hsame, State.appendSwap_flash_congr hsame] at hflash
  rw [hv] at hexec
  rw [hswap, State.fval_congr hsame] at hexec hresult
  refine State.gives_of_exec hexec ⟨?_, hresult, hflash⟩
  rw [hflash, State.appendSwap_erase, State.erased_erase]

theorem gives_erasePendingLong (s : State) (e : Erase) (he : s.flash.erase = some e) (hw : e.warned = false) :
    s.gives .erasePendingLong fun t => t.flash.erase = some { e with warned := true } ∧
      e.from_ + s.rd1 Reg.FLC_CTRL_PEND_WARN_S 0 * hz ≤ t.now ∧ t.lastEvent 0x0B08 [e.sector, s.rd1 Reg.FLC_CTRL_PEND_WARN_S 0] := by
  have hdue := s.le_advanceTo_now (e.from_ + s.rd1 Reg.FLC_CTRL_PEND_WARN_S 0 * hz)
  have hexec : exec .erasePendingLong s =
      .next (((s.advanceTo (e.from_ + s.rd1 Reg.FLC_CTRL_PEND_WARN_S 0 * hz)).setErase { e with warned := true }).raise 0x0B08
        [e.sector, s.rd1 Reg.FLC_CTRL_PEND_WARN_S 0]) := by
    simp only [exec, execErasePendingLong, he, hw, Bool.false_eq_true, if_false]
    rfl
  generalize s.advanceTo (e.from_ + s.rd1 Reg.FLC_CTRL_PEND_WARN_S 0 * hz) = u at hdue hexec
  have hraise := (u.setErase { e with warned := true }).raise_keeps 0x0B08 [e.sector, s.rd1 Reg.FLC_CTRL_PEND_WARN_S 0]
  refine State.gives_of_exec hexec ⟨congrArg Flash.erase (hraise.part .flash (by decide +kernel)), ?_, State.raise_lastEvent ..⟩
  rw [hraise.now]
  exact hdue

/-- Settles O46, clause by clause. -/
theorem flashSequencesAct : Obligations.FlashSequencesAct :=
  ⟨gives_flashProgram, gives_flashProgram_refused, gives_flashProgram_locked, gives_flashProgramDone, gives_flashSectorErase,
    gives_flashSuspend, gives_flashResume, gives_flashReadArray_idle, gives_flashReadArray_busy, gives_flashSeqError,
    gives_flashEraseDone, gives_flashEraseDone_swap, gives_erasePendingLong⟩

end Sys2Proof.Machine
end

section
/-!
PROOF. The boot ROM chooses and starts an image, the journal is replayed and reclaimed, and a zone's frontier is searched (O47).
-/

set_option Elab.async false

namespace Sys2Proof.Machine

/-! ### A start (R792, R930) -/

theorem State.fErased_congr {s t : State} (h : t.flash = s.flash) (i : Nat) : t.fErased i = s.fErased i := by
  rw [State.fErased, State.fErased, State.fword_congr h]

theorem State.imgCheck_congr {s t : State} (h : t.flash = s.flash) (twin : Nat) (o : Option ImgObs) :
    t.imgCheck twin o = s.imgCheck twin o := by
  have hval : t.fval = s.fval := funext (State.fval_congr h)
  have hok : t.hdrOk twin = s.hdrOk twin := by
    unfold State.hdrOk
    rw [hval]
  unfold State.imgCheck State.hdrVersion State.hdrHandoff
  rw [hok, hval, State.fErased_congr h]

/-- An image that passes its check starts. -/
theorem State.checkAndStart_of_pass {s : State} {twin : Nat} {a b : Option ImgObs} {x : ImgObs}
    (h : s.imgCheck twin (if twin = 0 then a else b) = some x) (trial fell : Bool) :
    s.checkAndStart twin trial fell a b = s.startImage twin trial fell x := by
  simp only [State.checkAndStart, h]

/-- What an image that starts shows and records. -/
theorem State.startImage_spec (s : State) {twin : Nat} (ht : twin < 2) (trial fell : Bool) (x : ImgObs) :
    (s.startImage twin trial fell x).rd Reg.GCTL_BOOT_ACTIVE_TWIN 0 = twin ∧
      (s.startImage twin trial fell x).flag Reg.GCTL_BOOT_TRIAL 0 = trial ∧
      (s.startImage twin trial fell x).flag Reg.GCTL_BOOT_FELL_BACK 0 = fell ∧
      (s.startImage twin trial fell x).firm.booting = false ∧ (s.startImage twin trial fell x).firm.version = x.version ∧
      (s.startImage twin trial fell x).firm.trialAt = (if trial then some s.now else none) := by
  refine ⟨?_, ?_, State.flag_wrB ((s.wr Reg.GCTL_BOOT_ACTIVE_TWIN 0 twin).wrB Reg.GCTL_BOOT_TRIAL 0 trial) 0 fell (by decide),
    rfl, rfl, rfl⟩
  · exact (State.rd_wrB_ne _ _ _ _ _ _ (by decide)).trans ((State.rd_wrB_ne _ _ _ _ _ _ (by decide)).trans
      ((State.rd_wr_same ..).trans (Nat.mod_eq_of_lt ht)))
  · exact (State.flag_wrB_ne _ _ _ _ _ _ (by decide)).trans (State.flag_wrB _ 0 trial (by decide))

/-- The boot ROM chooses while it runs, in KINDLING or KILN, with the supply up. -/
structure State.Boots (s : State) : Prop where
  booting : s.firm.booting = true
  power : s.pw.pfAt = none
  porst : s.pw.porst = false
  mode : s.mode = mKindling ∨ s.mode = mKiln

theorem State.Boots.go {s : State} (h : s.Boots) :
    ¬ ((!s.firm.booting) = true ∨ s.pw.pfAt.isSome = true ∨ s.pw.porst = true ∨ (!decide (s.mode = mKindling ∨ s.mode = mKiln)) = true) := by
  simp [h.booting, h.power, h.porst, h.mode]

/-- The array after the scan of the boot sectors: nothing of it has changed, and the active log is shown (R775, R785). -/
def State.bootScan (s : State) : State := (s.scanRange 0 (secWord 3)).wrB Reg.FLC_STATUS_LOG_B 0 (s.activeLog == 1)

theorem State.bootScan_keeps (s : State) : Keeps (State.scanRange_mask ||| fieldBits [Reg.FLC_STATUS_LOG_B]) s s.bootScan :=
  Keeps.wrB (Keeps.step (s.scanRange_keeps ..) (Keeps.refl _ _))

theorem State.bootScan_flash (s : State) : s.bootScan.flash = s.flash := s.bootScan_keeps.part .flash (by decide +kernel)

theorem State.bootScan_mode (s : State) : s.bootScan.mode = s.mode := s.bootScan_keeps.rd _ _ (by decide +kernel)

/-- With no erase left undone there is nothing to repair, and the record in force says which image to start, and how. -/
theorem exec_bootSelect_record {s : State} (h : s.Boots) (hundone : s.undone = []) {r : Swap} (hr : s.swapInForce = some r)
    (a b : Option ImgObs) : exec (.bootSelect a b) s =
      if r.kind ≠ 0 ∨ !r.confirmN then .next (s.bootScan.checkAndStart r.twin false false a b)
      else if r.attemptN ∧ !r.damaged then
        .next ((s.bootScan.programNow (2 * r.j) ((s.bootScan.fword (2 * r.j)).data % 2 ^ 63)).checkAndStart r.twin true false a b)
      else .next (((s.bootScan.appendSwap (1 - r.twin) 2 (s.bootScan.hdrVersion (1 - r.twin) / 65536)).raise 0x0E06
        [1 - r.twin, 0]).checkAndStart (1 - r.twin) false true a b) := by
  have hforce : s.bootScan.swapInForce = some r := (State.swapInForce_congr s.bootScan_flash).trans hr
  refine (if_neg h.go).trans ?_
  simp only [hundone, List.filter_nil, List.foldl_nil, ite_self]
  rw [← State.bootScan, hforce]

theorem gives_bootSelect (s : State) (a b : Option ImgObs) (r : Swap) (x : ImgObs) (h : s.Boots) (hundone : s.undone = [])
    (hr : s.swapInForce = some r) (htwin : r.twin < 2) (hkind : r.kind ≠ 0)
    (hx : s.imgCheck r.twin (if r.twin = 0 then a else b) = some x) : s.gives (.bootSelect a b) fun t =>
      t.rd Reg.GCTL_BOOT_ACTIVE_TWIN 0 = r.twin ∧ t.flag Reg.GCTL_BOOT_TRIAL 0 = false ∧
      t.flag Reg.GCTL_BOOT_FELL_BACK 0 = false ∧ t.firm.booting = false ∧ t.firm.version = x.version ∧ t.mode = s.mode := by
  have hpass := State.checkAndStart_of_pass ((State.imgCheck_congr s.bootScan_flash ..).trans hx) false false
  have hexec := (exec_bootSelect_record h hundone hr a b).trans (if_pos (.inl hkind))
  rw [hpass] at hexec
  obtain ⟨hactive, htrial, hfell, hbooting, hversion, -⟩ := s.bootScan.startImage_spec htwin false false x
  have hmode : (s.bootScan.startImage r.twin false false x).mode = s.bootScan.mode := (State.startImage_keeps ..).rd _ _ (by decide +kernel)
  exact State.gives_of_exec hexec ⟨hactive, htrial, hfell, hbooting, hversion, hmode.trans s.bootScan_mode⟩

/-- A program in the swap selector leaves the header of a twin. -/
theorem State.programNow_fErased_ne {s : State} {i j : Nat} (h : i ≠ j) (v : Nat) : (s.programNow i v).fErased j = s.fErased j := by
  rw [State.fErased, State.fErased, State.programNow_fword_ne _ h]

/-- The word before a twin's first is beyond the swap selector's sector. -/
theorem sectorWords_le_twin (twin : Nat) : sectorWords ≤ secWord (twinSector twin) := by
  unfold twinSector
  split <;> decide

theorem gives_bootSelect_trial (s : State) (a b : Option ImgObs) (r : Swap) (x : ImgObs) (h : s.Boots) (hundone : s.undone = [])
    (hr : s.swapInForce = some r) (htwin : r.twin < 2) (hkind : r.kind = 0) (hconfirm : r.confirmN = true) (hattempt : r.attemptN = true)
    (hdamaged : r.damaged = false) (herased : s.fErased (secWord (twinSector r.twin)) = true)
    (hx : (if r.twin = 0 then a else b) = some x) (hj : 2 * r.j + 1 < sectorWords) : s.gives (.bootSelect a b) fun t =>
      t.rd Reg.GCTL_BOOT_ACTIVE_TWIN 0 = r.twin ∧ t.flag Reg.GCTL_BOOT_TRIAL 0 = true ∧
      t.flag Reg.GCTL_BOOT_FELL_BACK 0 = false ∧ t.firm.booting = false ∧ t.firm.version = x.version ∧
      t.firm.trialAt = some t.now := by
  let u := s.bootScan.programNow (2 * r.j) ((s.bootScan.fword (2 * r.j)).data % 2 ^ 63)
  have hle := sectorWords_le_twin r.twin
  have hscanned : s.bootScan.fErased (secWord (twinSector r.twin)) = true := by
    rw [State.fErased_congr s.bootScan_flash, herased]
  have hcheck : u.imgCheck r.twin (if r.twin = 0 then a else b) = some x := by
    rw [hx, State.imgCheck]
    exact if_pos ((State.programNow_fErased_ne (by omega) _).trans hscanned)
  have hexec := exec_bootSelect_record h hundone hr a b
  rw [if_neg (by simp [hkind, hconfirm]), if_pos (by simp [hattempt, hdamaged]), State.checkAndStart_of_pass hcheck] at hexec
  obtain ⟨hactive, htrial, hfell, hbooting, hversion, htrialAt⟩ := u.startImage_spec htwin true false x
  exact State.gives_of_exec hexec ⟨hactive, htrial, hfell, hbooting, hversion, htrialAt⟩

/-! ### Neither twin passes (R930) -/

/-- CINDER asserts the fault pin, stops the management cores and ends a transition. -/
theorem State.cinder_pw {s : State} (hc : s.mode ≠ mCinder) (hb : s.mode ≠ mBanked) (cause : Nat) :
    (s.cinder cause).pw = { s.pw with faultN := true, coresRun := false, trans := none } := by
  have hstops (u : State) : u.cinderStops.pw = { u.pw with faultN := true, coresRun := false, trans := none } := by
    have hkeeps : Keeps (State.failAll_mask ||| State.stopDma_mask ||| State.haltAll_mask ||| State.dropCal_mask |||
        partBits [.ladders, .ladderWait, .heads, .lib])
        { u with pw := { u.pw with faultN := true, coresRun := false, trans := none } } u.cinderStops :=
      Keeps.set_heads_lib (Keeps.step (State.dropCal_keeps _) (Keeps.step (State.haltAll_keeps _) (Keeps.step (State.stopDma_keeps _)
        (Keeps.step (State.failAll_keeps ..) (Keeps.set_ladders_ladderWait (Keeps.refl _ _))))))
    exact hkeeps.part .pw (by decide +kernel)
  have hpw : (s.cinder cause).pw = (s.cinderMode cause).pw := (State.cinder_after_mode hc hb cause).part .pw (by decide +kernel)
  rw [hpw, State.cinderMode, State.wr_pw, hstops]
  rfl

theorem State.cinder_coresRun {s : State} (hc : s.mode ≠ mCinder) (hb : s.mode ≠ mBanked) (cause : Nat) :
    (s.cinder cause).pw.coresRun = false := congrArg Power.coresRun (State.cinder_pw hc hb cause)

/-- What the boot ROM does before it checks a twin. -/
def bootPrep_mask : Nat := State.repairErase_mask ||| State.scanRange_mask ||| State.appendSwap_mask ||| State.programNow_mask |||
  State.raise_mask ||| fieldBits [Reg.FLC_STATUS_LOG_B]

/-- Whatever the array holds, the boot ROM ends in the check of some twin. -/
theorem exec_bootSelect_checks {s : State} (h : s.Boots) (a b : Option ImgObs) : ∃ (u : State) (twin : Nat) (trial fell : Bool),
    exec (.bootSelect a b) s = .next (u.checkAndStart twin trial fell a b) ∧ Keeps bootPrep_mask s u := by
  rw [exec, execBootSelect, if_neg h.go]
  extract_lets +onlyGivenNames s0 s1
  have hrepair (t : State) (l : List Nat) (ht : Keeps bootPrep_mask s t) : Keeps bootPrep_mask s (l.foldl State.repairErase t) :=
    Keeps.foldl (fun t _ => Keeps.step (State.repairErase_keeps ..) (Keeps.refl _ _)) ht
  have h0 : Keeps bootPrep_mask s s0 := Keeps.ite (Keeps.refl _ _) (hrepair s _ (Keeps.refl _ _))
  have h1 : Keeps bootPrep_mask s s1 := Keeps.wrB (Keeps.step (s0.scanRange_keeps ..) h0)
  clear_value s1
  split
  · split
    · exact ⟨_, _, _, _, rfl, Keeps.step (State.appendSwap_keeps ..) (hrepair s1 _ h1)⟩
    · exact ⟨_, _, _, _, rfl, Keeps.step (State.appendSwap_keeps ..) h1⟩
  · split
    · exact ⟨_, _, _, _, rfl, h1⟩
    · split
      · exact ⟨_, _, _, _, rfl, Keeps.step (State.programNow_keeps ..) h1⟩
      · exact ⟨_, _, _, _, rfl, Keeps.step (State.raise_keeps ..) (Keeps.step (State.appendSwap_keeps ..) h1)⟩

/-- When neither image is found, CINDER is entered for cause BOOT. -/
theorem State.checkAndStart_none {s : State} (hc : s.mode ≠ mCinder) (hb : s.mode ≠ mBanked) (twin : Nat) (trial fell : Bool) :
    (s.checkAndStart twin trial fell none none).mode = mCinder ∧
      (s.checkAndStart twin trial fell none none).rd Reg.GCTL_STATUS_CINDER_CAUSE 0 = cBoot ∧
      (s.checkAndStart twin trial fell none none).pw.coresRun = false := by
  unfold State.checkAndStart
  extract_lets +onlyGivenNames obs
  have hfails (t : State) (o : Nat) : t.imgCheck o (obs o) = none := by
    rw [show obs o = none from ite_self _]
    rfl
  rw [hfails]
  extract_lets +onlyGivenNames o s1
  have h1 : Keeps (State.raise_mask ||| State.appendSwap_mask) s s1 :=
    Keeps.step (State.raise_keeps ..) (Keeps.step (s.appendSwap_keeps ..) (Keeps.refl _ _))
  clear_value s1
  rw [hfails]
  extract_lets +onlyGivenNames s2 firm
  have h2 : Keeps (State.raise_mask ||| State.appendSwap_mask ||| partBits [.firm]) s { s2 with firm := { s2.firm with booting := false } } :=
    Keeps.set_firm (Keeps.step (State.raise_keeps ..) h1.mono)
  have hmode := h2.rd Reg.GCTL_STATUS_MODE 0 (by decide +kernel)
  rw [State.mode, ← hmode] at hc hb
  exact ⟨State.cinder_mode hc hb _, State.cinder_cause hc hb (by decide), State.cinder_coresRun hc hb _⟩

theorem gives_bootSelect_neither (s : State) (h : s.Boots) : s.gives (.bootSelect none none) fun t =>
    t.mode = mCinder ∧ t.rd Reg.GCTL_STATUS_CINDER_CAUSE 0 = cBoot ∧ t.pw.coresRun = false := by
  obtain ⟨u, twin, trial, fell, hexec, hprep⟩ := exec_bootSelect_checks h none none
  have hmode : u.mode = s.mode := hprep.rd _ _ (by decide +kernel)
  have hm := h.mode
  rw [← hmode] at hm
  refine State.gives_of_exec hexec (State.checkAndStart_none ?_ ?_ ..)
  · rcases hm with hm | hm <;> rw [hm] <;> decide
  · rcases hm with hm | hm <;> rw [hm] <;> decide

/-! ### The journal (R798, R805 to R807, R812) -/

/-- The journal and the catalogue of the scan before a replay. -/
def State.replayScan (s : State) : State := (s.scanRange (secWord 132) (secWord 228)).scanRange (secWord 356) (secWord 4096)

theorem State.replayScan_keeps (s : State) : Keeps State.scanRange_mask s s.replayScan :=
  Keeps.step (State.scanRange_keeps ..) (Keeps.step (s.scanRange_keeps ..) (Keeps.refl _ _))

theorem exec_journalReplay_go {s : State} (hfw : s.fwRuns = true) (hboot : s.firm.booting = false) (hdone : s.flash.replayed = false)
    (herase : s.flash.erase = none) :
    ¬ (s.firm.booting = true ∨ s.flash.replayed = true ∨ (!s.fwRuns) = true ∨ s.flash.erase.isSome = true) := by
  simp [hfw, hboot, hdone, herase]

theorem gives_journalReplay (s : State) (hfw : s.fwRuns = true) (hboot : s.firm.booting = false) (hdone : s.flash.replayed = false)
    (herase : s.flash.erase = none) : s.gives .journalReplay fun t => t.flash.replayed = true := by
  have hraise (u : State) (code : Nat) (data : List Nat) (hu : u.flash.replayed = true) : (u.raise code data).flash.replayed = true :=
    (congrArg Flash.replayed ((u.raise_keeps code data).part .flash (by decide +kernel))).trans hu
  rw [State.gives_iff, exec, execJournalReplay, if_neg (exec_journalReplay_go hfw hboot hdone herase)]
  extract_lets +onlyGivenNames s0 slots s1 recs live
  split
  extract_lets +onlyGivenNames zs flash s3 s4
  have h4 : s4.flash.replayed = true := hraise s3 _ _ rfl
  clear_value s4
  split
  · rw [nextIs_next]
    split
    · exact hraise s4 _ _ h4
    · exact h4
  · exact h4

/-- An array with no words from an index on has none there. -/
theorem State.words_filter_of_below {s : State} {n : Nat} (h : ∀ p ∈ s.flash.words, p.1 < n) {q : Nat × FWord → Bool}
    (hq : ∀ p, q p = true → n ≤ p.1) : s.flash.words.filter q = [] :=
  List.filter_eq_nil_iff.2 fun p hp hqp => absurd (h p hp) (Nat.not_lt.2 (hq p hqp))

theorem State.ringSectors_of_below {s : State} {lo : Nat} (h : ∀ p ∈ s.flash.words, p.1 < secWord lo) (hi : Nat) :
    s.ringSectors lo hi = [] := by
  rw [State.ringSectors, State.words_filter_of_below h (by simp +contextual)]
  rfl

theorem gives_journalReplay_empty (s : State) (hfw : s.fwRuns = true) (hboot : s.firm.booting = false) (hdone : s.flash.replayed = false)
    (herase : s.flash.erase = none) (hbelow : ∀ p ∈ s.flash.words, p.1 < secWord 356) : s.gives .journalReplay fun t =>
      t.flash.replayed = true ∧ t.lastEvent 0x0B09 [0, 0] ∧ t.discs = s.discs := by
  have hscan := s.replayScan_keeps
  have hflash : s.replayScan.flash = s.flash := hscan.part .flash (by decide +kernel)
  have hrings : s.replayScan.ringSectors 356 612 = [] := State.ringSectors_of_below (by rwa [hflash]) 612
  have hsnaps : (s.replayScan.flash.words.filter fun p => decide (secWord 612 ≤ p.1)) = [] := by
    refine State.words_filter_of_below (n := secWord 612) (fun p hp => ?_) (by simp)
    rw [hflash] at hp
    exact Nat.lt_trans (hbelow p hp) (by decide)
  let u : State := { s.replayScan with
    flash := { s.replayScan.flash with replayed := true },
    zones := s.replayScan.zones.map fun z => (z.1, { z.2 with jframes := z.2.frames, jdue := z.2.frames }) }
  have hexec : exec .journalReplay s = .next (u.raise 0x0B09 [0, 0]) := by
    rw [exec, execJournalReplay, if_neg (exec_journalReplay_go hfw hboot hdone herase), ← State.replayScan]
    simp only [hsnaps, List.filterMap_nil, List.eraseDups_nil, List.foldl_nil, hrings, List.flatMap_nil, List.filter_nil,
      List.getLast?_nil, List.length_nil]
    rfl
  have hraise := u.raise_keeps 0x0B09 [0, 0]
  refine State.gives_of_exec hexec ⟨congrArg Flash.replayed (hraise.part .flash (by decide +kernel)), u.raise_lastEvent .., ?_⟩
  exact (hraise.part .discs (by decide +kernel)).trans (hscan.part .discs (by decide +kernel))

/-- An erase that begins is pending for its sector. -/
theorem State.startErase_sector (s : State) (sec kind aux : Nat) :
    (s.startErase sec kind aux).flash.erase.map (fun e => e.sector) = some sec := by
  unfold State.startErase
  split
  rw [State.showFlash_flash]
  rfl

theorem gives_journalReclaim (s : State) (q k : Nat) (r : List (Nat × Nat)) (hfw : s.fwRuns = true)
    (hfew : 256 < (((s.flash.words.filter fun p => decide (secWord 356 ≤ p.1) && decide (p.1 < secWord 612)).map fun p =>
      p.1 / sectorWords).eraseDups).length + 8)
    (hring : s.ringSectors 356 612 = (q, k) :: r) (hprog : s.flash.prog = none) (herase : s.flash.erase = none)
    (hnone : dropInner 0 (s.recordsIn k) = []) : s.gives .journalReclaim fun t => t.flash.erase.map (fun e => e.sector) = some k := by
  have hexec : exec .journalReclaim s = .next (s.startErase k 0 0) := by
    refine (if_pos (.inr hfew)).trans ?_
    simp only [hring, hfw, hprog, herase, hnone, Bool.not_true, Bool.false_eq_true, Option.isSome_none, or_self, if_false,
      List.filterMap_nil, List.eraseDups_nil, List.filter_nil, List.isEmpty_nil, and_self, if_true]
  exact State.gives_of_exec hexec (s.startErase_sector k 0 0)

theorem gives_frontierSearch (s : State) (d : Nat) (a : Fin 2) (l : Fin 16) (z : Fin 64) (f : List SlotRead)
    (hr : (s.zone (zoneKey d a l z)).resolve = true) (hopen : (s.zone (zoneKey d a l z)).state = .open_) :
    s.gives (.frontierSearch d a l z f) fun t => ∃ u : State, t = u.settle ∧ (u.zone (zoneKey d a l z)).resolve = false :=
  State.gives_of_exec (t := (s.searchZone (zoneKey d a l z) f).settle) (if_neg (by simp [hr, hopen])) ⟨_, rfl, State.searchZone_resolve ..⟩

/-- Settles O47, clause by clause. -/
theorem bootReplayAndSearch : Obligations.BootReplayAndSearch :=
  ⟨fun s a b r x hb hp hn hm => gives_bootSelect s a b r x ⟨hb, hp, hn, hm⟩,
    fun s a b r x hb hp hn hm => gives_bootSelect_trial s a b r x ⟨hb, hp, hn, hm⟩,
    fun s hb hp hn hm => gives_bootSelect_neither s ⟨hb, hp, hn, hm⟩, gives_journalReplay, gives_journalReplay_empty, gives_journalReclaim,
    gives_frontierSearch⟩

end Sys2Proof.Machine
end

section
/-!
PROOF. Modes, temperature, the watchdog and the power cap (O50).
-/

set_option Elab.async false

namespace Sys2Proof.Machine

/-! ### The mode shown (R857) -/

theorem State.setMode_mode (s : State) {m : Nat} (hm : m < 8) : (s.setMode m).mode = m :=
  (State.rd_wr_same ..).trans (Nat.mod_eq_of_lt hm)

theorem State.arrive_mode (s : State) {m : Nat} (hm : m < 8) (cause : Nat) : (s.arrive m cause).mode = m :=
  (State.raise_mode ..).trans (s.setMode_mode hm)

/-- A MODE_SET that completes leaves the mode. -/
theorem State.endModeSet_mode (s : State) : s.endModeSet.mode = s.mode := s.endModeSet_keeps.rd _ _ (by decide +kernel)

/-- A MODE_SET that completes leaves all of the power state but the transition. -/
theorem State.endModeSet_pw (s : State) : { s.endModeSet.pw with trans := none } = { s.pw with trans := none } := by
  unfold State.endModeSet
  split
  · split
    · rw [(State.finish_keeps ..).part .pw (by decide +kernel)]
    · rfl
  · rfl

theorem State.endTrans_mode (s : State) {m : Nat} (hm : m < 8) (cause : Nat) : (s.endTrans m cause).mode = m :=
  (State.endModeSet_mode _).trans (s.arrive_mode hm cause)

theorem State.endTrans_pw (s : State) (m cause : Nat) : (s.endTrans m cause).pw = { (s.setMode m).pw with trans := none } := by
  refine ((s.arrive m cause).endModeSet_pw).trans ?_
  rw [State.arrive, (State.raise_keeps ..).part .pw (by decide +kernel)]

theorem State.endTrans_tb (s : State) (m cause : Nat) : (s.endTrans m cause).tb = s.tb :=
  (s.endTrans_keeps m cause).part .tb (by decide +kernel)

/-! ### Transitions complete (R857 to R862, R869) -/

theorem gives_modeTransitionDone_runs (s : State) (x : Trans) (a b : Bool) (hx : s.pw.trans = some x) (hm : s.mode ≠ mEmber)
    (hto : x.to_ = mBurn ∨ x.to_ = mDamped) : s.gives (.modeTransitionDone a b) fun t => t.pw.trans = none ∧
      t.mode = if x.to_ = mBurn ∧ s.flag Reg.PWR_STATUS_THERM_DAMPED 0 = true then mDamped else x.to_ := by
  have hlow : ¬(x.to_ = mEmber ∨ x.to_ = mBanked) := by
    rcases hto with h | h <;> rw [h] <;> decide
  have hverify : x.to_ ≠ mVerify := by
    rcases hto with h | h <;> rw [h] <;> decide
  have hlt : (if x.to_ = mBurn ∧ s.flag Reg.PWR_STATUS_THERM_DAMPED 0 = true then mDamped else x.to_) < 8 := by
    rcases hto with h | h <;> rw [h] <;> split <;> decide
  have hexec : exec (.modeTransitionDone a b) s =
      .next (s.endTrans (if x.to_ = mBurn ∧ s.flag Reg.PWR_STATUS_THERM_DAMPED 0 = true then mDamped else x.to_) x.cause) := by
    rw [exec, execModeTransitionDone, hx]
    dsimp only
    rw [if_neg hlow, if_neg hverify, if_neg hm]
  exact State.gives_of_exec hexec ⟨rfl, s.endTrans_mode hlt x.cause⟩

/-- In EMBER the entry to BANKED ends when the grace of the host link is over. -/
theorem State.downStep_grace {s : State} {g : Nat} (hm : s.mode = mEmber) (hwork : s.workWaits = false)
    (hg : s.pw.linkGraceFrom = some g) (x : Trans) : s.downStep x =
      (s.advanceTo (g + s.rd Reg.PWR_CFG_LINK_GRACE 0 * msCycles)).goBanked.endTrans mBanked x.cause := by
  unfold State.downStep
  rw [if_pos hm, if_neg (Bool.eq_false_iff.1 hwork), hg]

theorem gives_modeTransitionDone_banked (s : State) (x : Trans) (g : Nat) (a b : Bool) (hx : s.pw.trans = some x)
    (hm : s.mode = mEmber) (hto : x.to_ = mBanked) (hwork : s.workWaits = false) (hg : s.pw.linkGraceFrom = some g) :
    s.gives (.modeTransitionDone a b) fun t => t.pw.trans = none ∧ t.mode = mBanked ∧ t.tb.cclk = false ∧
      g + s.rd Reg.PWR_CFG_LINK_GRACE 0 * msCycles ≤ t.now := by
  have hm' : s.mode ≠ mBanked := by rw [hm]; decide
  let n := g + s.rd Reg.PWR_CFG_LINK_GRACE 0 * msCycles
  have hexec : exec (.modeTransitionDone a b) s = .next ((s.advanceTo n).goBanked.endTrans mBanked x.cause) := by
    rw [exec, execModeTransitionDone, hx]
    dsimp only
    rw [if_pos (Or.inr hto), if_neg hm', State.downStep_grace hm hwork hg]
  have hn : n ≤ (s.advanceTo n).now := s.le_advanceTo_now n
  generalize s.advanceTo n = u at hn hexec
  have hnow : (u.goBanked.endTrans mBanked x.cause).now = u.now :=
    ((State.endTrans_keeps ..).part .now (by decide +kernel)).trans (u.goBanked_keeps.part .now (by decide +kernel))
  exact State.gives_of_exec hexec ⟨rfl, State.endTrans_mode _ (by decide) _, congrArg Timebase.cclk (State.endTrans_tb ..),
    hn.trans_eq hnow.symm⟩

/-- After a wake the cores run, fine TIME is to be reloaded, and lock has to return. -/
theorem State.awake_spec (s : State) : s.awake.pw.coresRun = true ∧ s.awake.tb.reload = some s.now ∧
    s.awake.flag Reg.GCTL_STATUS_TIME_LOCKED 0 = false := by
  unfold State.awake
  extract_lets s1 s2
  clear_value s1
  exact ⟨rfl, rfl, State.flag_wrB s1 0 false (by decide)⟩

theorem gives_modeTransitionDone_wakes (s : State) (x : Trans) (a b : Bool) (hx : s.pw.trans = some x) (hm : s.mode = mBanked)
    (hto : x.to_ = mEmber) : s.gives (.modeTransitionDone a b) fun t => t.pw.trans = none ∧ t.mode = mEmber ∧
      t.pw.coresRun = true ∧ t.tb.reload = some s.now ∧ t.flag Reg.GCTL_STATUS_TIME_LOCKED 0 = false := by
  have hexec : exec (.modeTransitionDone a b) s = .next (s.awake.endTrans mEmber x.cause) := by
    rw [exec, execModeTransitionDone, hx]
    dsimp only
    rw [if_pos (Or.inl hto), if_pos hm]
  obtain ⟨hcores, hreload, hlock⟩ := s.awake_spec
  exact State.gives_of_exec hexec ⟨rfl, State.endTrans_mode _ (by decide) _, (congrArg Power.coresRun (State.endTrans_pw ..)).trans hcores,
    (congrArg Timebase.reload (State.endTrans_tb ..)).trans hreload, ((State.endTrans_keeps ..).flag _ _ (by decide +kernel)).trans hlock⟩

theorem foldl_eq_self {α σ : Type} {f : σ → α → σ} {s : σ} {l : List α} (h : ∀ a ∈ l, f s a = s) : l.foldl f s = s := by
  induction l with
  | nil => rfl
  | cons a l ih =>
    rw [List.foldl_cons, h a (List.mem_cons_self ..)]
    exact ih fun b hb => h b (List.mem_cons_of_mem _ hb)

/-- Where every station rests and none is to run there is nothing to stop. -/
theorem State.stopStations_of_rest {s : State} (hrest : s.stationsRest = true) (hup : ∀ h : Fin 256, s.headUp h = false)
    (htarget : ∀ n : Fin 128, s.rd Reg.STN_SP_TARGET_RPM n = 0) : s.stopStations = s := by
  refine foldl_eq_self fun n hn => ?_
  have hlt : n < 128 := List.mem_range.1 hn
  have hstation := List.all_eq_true.1 hrest n hn
  simp only [Bool.and_eq_true, Bool.not_eq_true'] at hstation
  obtain ⟨hdown, hstill⟩ := hstation
  have h0 : s.headUp (2 * n) = false := hup ⟨2 * n, by omega⟩
  have h1 : s.headUp (2 * n + 1) = false := hup ⟨2 * n + 1, by omega⟩
  have hzero : s.rd Reg.STN_SP_TARGET_RPM n = 0 := htarget ⟨n, hlt⟩
  simp only [List.foldl_cons, List.foldl_nil, h0, h1, hdown, hstill, hzero, Bool.false_eq_true, Bool.not_true, Bool.false_and,
    if_false, if_true]

theorem gives_modeTransitionDone_verify (s : State) (x : Trans) (a b : Bool) (hx : s.pw.trans = some x) (hto : x.to_ = mVerify)
    (hrest : s.stationsRest = true) (hup : ∀ h : Fin 256, s.headUp h = false)
    (htarget : ∀ n : Fin 128, s.rd Reg.STN_SP_TARGET_RPM n = 0) (htally : s.tallyOn = false) :
    s.gives (.modeTransitionDone a b) fun t => t.pw.trans = none ∧ t.mode = mVerify := by
  have hlow : ¬(x.to_ = mEmber ∨ x.to_ = mBanked) := by rw [hto]; decide
  have hkeeps := s.endTrans_keeps mVerify x.cause
  have hoff : (s.endTrans mVerify x.cause).tallyOn = false := by
    rw [← htally, State.tallyOn, State.tallyOn, hkeeps.flag _ _ (by decide +kernel), hkeeps.flag _ _ (by decide +kernel)]
  have hexec : exec (.modeTransitionDone a b) s = .next (s.endTrans mVerify x.cause) := by
    rw [exec, execModeTransitionDone, hx]
    dsimp only
    rw [if_neg hlow, if_pos hto, State.stopStations_of_rest hrest hup htarget, if_pos hrest, State.attest, hoff]
    rfl
  exact State.gives_of_exec hexec ⟨rfl, s.endTrans_mode (by decide) x.cause⟩

/-! ### Wakes (R861, R862) -/

/-- The wake's source is shown, and reported. -/
def State.showWake (s : State) (i : Nat) : State := (s.wr Reg.PWR_STATUS_WAKE_SRC 0 (i + 1)).raise 0x0106 [i + 1]

theorem State.showWake_keeps (s : State) (i : Nat) : Keeps (State.raise_mask ||| fieldBits [Reg.PWR_STATUS_WAKE_SRC]) s (s.showWake i) :=
  Keeps.step (State.raise_keeps ..) (Keeps.wr (Keeps.refl _ _))

theorem State.showWake_mode (s : State) (i : Nat) : (s.showWake i).mode = s.mode := (s.showWake_keeps i).rd _ _ (by decide +kernel)

theorem State.showWake_src (s : State) {i : Nat} (hi : i < 3) : (s.showWake i).rd Reg.PWR_STATUS_WAKE_SRC 0 = i + 1 :=
  calc _ = (s.wr Reg.PWR_STATUS_WAKE_SRC 0 (i + 1)).rd Reg.PWR_STATUS_WAKE_SRC 0 := (State.raise_keeps ..).rd _ _ (by decide +kernel)
    _ = (i + 1) % 16 := State.rd_wr_same ..
    _ = i + 1 := Nat.mod_eq_of_lt (by omega)

theorem exec_wake {s : State} {w : BitVec 4} {i : Nat} (hm : s.mode = mBanked) (hx : s.pw.trans = none) (hp : s.pw.resetPend = none)
    (hw : s.wakeSource w.toNat = some i) (hi : i < 3) (intact : Bool) : exec (.wake w intact) s = .next (s.wakeBy i intact) := by
  have hgo : ¬(s.mode ≠ mBanked ∨ s.pw.trans.isSome = true ∨ s.pw.resetPend.isSome = true) := by simp [hm, hx, hp]
  rw [exec, execWake, if_neg hgo, hw]
  dsimp only
  rw [if_neg fun h => hi.ne h.1]

theorem gives_wake_intact (s : State) (w : BitVec 4) (i : Nat) (hm : s.mode = mBanked) (hx : s.pw.trans = none)
    (hp : s.pw.resetPend = none) (hw : s.wakeSource w.toNat = some i) (hi : i < 3) : s.gives (.wake w true) fun t =>
      t.rd Reg.PWR_STATUS_WAKE_SRC 0 = i + 1 ∧ t.pw.trans.map Trans.to_ = some mEmber ∧ t.mode = mBanked ∧
      t.lastEvent 0x0106 [i + 1] ∧ t.now = s.now :=
  State.gives_of_exec (t := (s.showWake i).beginTrans mEmber 2 none) (exec_wake hm hx hp hw hi true)
    ⟨s.showWake_src hi, rfl, (s.showWake_mode i).trans hm, State.raise_lastEvent .., (s.showWake_keeps i).part .now (by decide +kernel)⟩

/-- A reset asked for in BANKED, where nothing but the tally acts. -/
theorem State.requestReset_of_banked {s : State} (hm : s.mode = mBanked) (hp : s.pw.resetPend = none) (code : Nat) :
    s.requestReset code = { s with pw := { s.pw with resetPend := some (code, s.now + 10 * msCycles) } } := by
  rw [State.requestReset, if_neg (by simp [hp]), State.pfActions, if_pos hm]

theorem State.wakeBy_lost (s : State) (i : Nat) : s.wakeBy i false = ((s.showWake i).raise 0x0108 []).requestReset 1 := by
  rw [State.wakeBy, if_neg Bool.false_ne_true, State.showWake]

theorem gives_wake_lost (s : State) (w : BitVec 4) (i : Nat) (hm : s.mode = mBanked) (hx : s.pw.trans = none)
    (hp : s.pw.resetPend = none) (hw : s.wakeSource w.toNat = some i) (hi : i < 3) : s.gives (.wake w false) fun t =>
      t.rd Reg.PWR_STATUS_WAKE_SRC 0 = i + 1 ∧ t.pw.resetPend = some (1, s.now + 10 * msCycles) ∧ t.lastEvent 0x0108 [] := by
  let u := (s.showWake i).raise 0x0108 []
  have hu : Keeps (State.raise_mask ||| fieldBits [Reg.PWR_STATUS_WAKE_SRC]) s u :=
    Keeps.step ((s.showWake i).raise_keeps 0x0108 []) (s.showWake_keeps i)
  have hmode : u.mode = mBanked := (((s.showWake i).raise_mode 0x0108 []).trans (s.showWake_mode i)).trans hm
  have hpend : u.pw.resetPend = none := (congrArg Power.resetPend (hu.part .pw (by decide +kernel))).trans hp
  have hnow : u.now = s.now := hu.part .now (by decide +kernel)
  have hexec := exec_wake hm hx hp hw hi false
  rw [State.wakeBy_lost, State.requestReset_of_banked hmode hpend, hnow] at hexec
  have hsrc : u.rd Reg.PWR_STATUS_WAKE_SRC 0 = i + 1 :=
    (((s.showWake i).raise_keeps 0x0108 []).rd _ _ (by decide +kernel)).trans (s.showWake_src hi)
  have hlast : u.lastEvent 0x0108 [] := (s.showWake i).raise_lastEvent 0x0108 []
  clear_value u
  exact State.gives_of_exec hexec ⟨hsrc, rfl, hlast⟩

/-! ### Firmware is ready (R873, R874) -/

/-- GCTL_FW_VER shows a version. -/
def State.showVersion (s : State) (v : Nat) : State :=
  ((s.wr Reg.GCTL_FW_VER_MAJOR 0 (v / 2 ^ 24)).wr Reg.GCTL_FW_VER_MINOR 0 (v / 2 ^ 16)).wr Reg.GCTL_FW_VER_BUILD 0 v

theorem State.showVersion_keeps (s : State) (v : Nat) :
    Keeps (fieldBits [Reg.GCTL_FW_VER_MAJOR, Reg.GCTL_FW_VER_MINOR, Reg.GCTL_FW_VER_BUILD]) s (s.showVersion v) :=
  Keeps.wr (Keeps.wr (Keeps.wr (Keeps.refl _ _)))

theorem State.showVersion_shown (s : State) {v : Nat} (hv : v < 2 ^ 32) : (s.showVersion v).shownVersion = v := by
  have hmajor : (s.showVersion v).rd Reg.GCTL_FW_VER_MAJOR 0 = v / 2 ^ 24 % 2 ^ 8 :=
    (State.rd_wr_ne _ _ _ _ _ _ (by decide)).trans ((State.rd_wr_ne _ _ _ _ _ _ (by decide)).trans (State.rd_wr_same ..))
  have hminor : (s.showVersion v).rd Reg.GCTL_FW_VER_MINOR 0 = v / 2 ^ 16 % 2 ^ 8 :=
    (State.rd_wr_ne _ _ _ _ _ _ (by decide)).trans (State.rd_wr_same ..)
  have hbuild : (s.showVersion v).rd Reg.GCTL_FW_VER_BUILD 0 = v % 2 ^ 16 := State.rd_wr_same ..
  rw [State.shownVersion, hmajor, hminor, hbuild]
  omega

/-- What leaves GCTL_FW_VER leaves the version shown. -/
theorem Keeps.shownVersion {m : Nat} {s t : State} (h : Keeps m s t)
    (hm : ([Reg.GCTL_FW_VER_MAJOR, Reg.GCTL_FW_VER_MINOR, Reg.GCTL_FW_VER_BUILD].all fun f => !m.testBit (f.id % 8192)) = true) :
    t.shownVersion = s.shownVersion := by
  simp only [List.all_cons, List.all_nil, Bool.and_true, Bool.and_eq_true, Bool.not_eq_true'] at hm
  obtain ⟨hmajor, hminor, hbuild⟩ := hm
  rw [State.shownVersion, State.shownVersion, h.rd _ _ hmajor, h.rd _ _ hminor, h.rd _ _ hbuild]

/-- What FW_READY shows. -/
def State.showReady (s : State) (slots stns : Nat) : State :=
  (((s.showVersion s.firm.version).wr Reg.GCTL_SIZE_MAG_SLOTS 0 slots).wr Reg.GCTL_SIZE_STN_FITTED 0 stns).set1 Reg.GCTL_STATUS_FW_READY 0

def showReady_mask : Nat := fieldBits [Reg.GCTL_FW_VER_MAJOR, Reg.GCTL_FW_VER_MINOR, Reg.GCTL_FW_VER_BUILD, Reg.GCTL_SIZE_MAG_SLOTS,
  Reg.GCTL_SIZE_STN_FITTED, Reg.GCTL_STATUS_FW_READY]

theorem State.showReady_keeps (s : State) (slots stns : Nat) : Keeps showReady_mask s (s.showReady slots stns) :=
  Keeps.set1 (Keeps.wr (Keeps.wr (s.showVersion_keeps _).mono))

theorem State.showReady_ready (s : State) (slots stns : Nat) : (s.showReady slots stns).flag Reg.GCTL_STATUS_FW_READY 0 = true :=
  State.flag_set1 _ 0 (by decide)

theorem State.showReady_sizes (s : State) {slots stns : Nat} (hslots : slots < 2 ^ 13) (hstns : stns < 2 ^ 8) :
    (s.showReady slots stns).rd Reg.GCTL_SIZE_MAG_SLOTS 0 = slots ∧ (s.showReady slots stns).rd Reg.GCTL_SIZE_STN_FITTED 0 = stns :=
  ⟨(State.rd_set1_ne _ _ _ _ _ (by decide)).trans ((State.rd_wr_ne _ _ _ _ _ _ (by decide)).trans
      ((State.rd_wr_same ..).trans (Nat.mod_eq_of_lt hslots))),
    (State.rd_set1_ne _ _ _ _ _ (by decide)).trans ((State.rd_wr_same ..).trans (Nat.mod_eq_of_lt hstns))⟩

theorem State.showReady_version (s : State) (slots stns : Nat) (hv : s.firm.version < 2 ^ 32) :
    (s.showReady slots stns).shownVersion = s.firm.version := by
  have hafter : Keeps (fieldBits [Reg.GCTL_SIZE_MAG_SLOTS, Reg.GCTL_SIZE_STN_FITTED, Reg.GCTL_STATUS_FW_READY])
      (s.showVersion s.firm.version) (s.showReady slots stns) := Keeps.set1 (Keeps.wr (Keeps.wr (Keeps.refl _ _)))
  exact (hafter.shownVersion (by decide +kernel)).trans (s.showVersion_shown hv)

/-- Replay, batches and training are done in KINDLING, so that firmware may become ready. -/
structure State.Kindled (s : State) : Prop where
  mode : s.mode = mKindling
  booting : s.firm.booting = false
  replayed : s.flash.replayed = true
  trained : s.ms.trainedAt.isSome = true
  power : s.pw.pfAt = none
  porst : s.pw.porst = false
  notReady : s.flag Reg.GCTL_STATUS_FW_READY 0 = false
  batches : ((upTo 128).all fun n => (s.stn n).batchDone) = true

/-- FW_READY shows its registers, raises its events, and then arrives in BURN or begins the entry to EMBER. -/
theorem exec_fwReady {s : State} (h : s.Kindled) (n : Fin 4097) (m : Fin 129) (ember : Bool) : ∃ u,
    exec (.fwReady n m ember) s = .next (if ember then u.beginTrans mEmber 5 none else u.arrive mBurn 5).noteHealth ∧
      Keeps (State.raise_mask ||| partBits [.pw]) (s.firmLayout.showReady n m) u := by
  have hgo : ¬(s.mode ≠ mKindling ∨ s.firm.booting = true ∨ (!s.flash.replayed) = true ∨ s.ms.trainedAt.isNone = true ∨
      s.pw.pfAt.isSome = true ∨ s.pw.porst = true ∨ s.flag Reg.GCTL_STATUS_FW_READY 0 = true ∨
      (!((upTo 128).all fun n => (s.stn n).batchDone)) = true) := by
    obtain ⟨hmode, hboot, hdone, htrained, hpower, hporst, hready, hbatch⟩ := h
    have hsome : s.ms.trainedAt.isNone = false := by rw [← Option.not_isSome, htrained]; rfl
    rw [hmode, hboot, hdone, hsome, hpower, hporst, hready, hbatch]
    simp
  rw [exec, execFwReady, if_neg hgo]
  extract_lets s0 v s1 s2 src s3 s4 s5
  have hs2 : s2 = s0.showReady n m := rfl
  rw [← hs2]
  clear_value s2
  have h3 : Keeps (State.raise_mask ||| partBits [.pw]) s2 s3 := Keeps.set_pw (Keeps.refl _ _)
  have h4 : Keeps (State.raise_mask ||| partBits [.pw]) s2 s4 := Keeps.ite (Keeps.step (State.raise_keeps ..) h3) h3
  exact ⟨s5, rfl, Keeps.foldl (fun t _ => Keeps.step (State.raise_keeps ..) (Keeps.refl _ _)) h4⟩

theorem gives_fwReady_burn (s : State) (n : Fin 4097) (m : Fin 129) (h : s.Kindled) (hv : s.firm.version < 2 ^ 32) :
    s.gives (.fwReady n m false) fun t => t.flag Reg.GCTL_STATUS_FW_READY 0 = true ∧ t.mode = mBurn ∧
      t.shownVersion = s.firm.version ∧ t.rd Reg.GCTL_SIZE_MAG_SLOTS 0 = n ∧ t.rd Reg.GCTL_SIZE_STN_FITTED 0 = m := by
  obtain ⟨u, hexec, hu⟩ := exec_fwReady h n m false
  have hversion : s.firmLayout.firm.version = s.firm.version :=
    congrArg Firm.version (s.firmLayout_keeps.part .firm (by decide +kernel))
  rw [← hversion] at hv ⊢
  generalize s.firmLayout = w at hu hv
  have ht : Keeps (State.raise_mask ||| State.arrive_mask ||| State.noteHealth_mask ||| partBits [.pw]) (w.showReady n m)
      (u.arrive mBurn 5).noteHealth := Keeps.step (State.noteHealth_keeps _) (Keeps.step (State.arrive_keeps ..) hu.mono)
  obtain ⟨hslots, hstns⟩ := w.showReady_sizes (slots := n) (stns := m) (by omega) (by omega)
  exact State.gives_of_exec hexec ⟨(ht.flag _ _ (by decide +kernel)).trans (w.showReady_ready ..),
    ((State.noteHealth_keeps _).rd _ _ (by decide +kernel)).trans (u.arrive_mode (by decide) 5),
    (ht.shownVersion (by decide +kernel)).trans (w.showReady_version _ _ hv), (ht.rd _ _ (by decide +kernel)).trans hslots,
    (ht.rd _ _ (by decide +kernel)).trans hstns⟩

theorem gives_fwReady_ember (s : State) (n : Fin 4097) (m : Fin 129) (h : s.Kindled) : s.gives (.fwReady n m true) fun t =>
    t.flag Reg.GCTL_STATUS_FW_READY 0 = true ∧ t.pw.trans.map Trans.to_ = some mEmber ∧ t.mode = mKindling := by
  obtain ⟨u, hexec, hu⟩ := exec_fwReady h n m true
  have hmode : s.firmLayout.mode = s.mode := s.firmLayout_keeps.rd _ _ (by decide +kernel)
  rw [h.mode] at hmode
  generalize s.firmLayout = w at hu hmode
  refine State.gives_of_exec hexec ⟨(hu.flag _ _ (by decide +kernel)).trans (w.showReady_ready ..), rfl, ?_⟩
  exact (hu.rd _ _ (by decide +kernel)).trans (((w.showReady_keeps ..).rd _ _ (by decide +kernel)).trans hmode)

/-! ### The watchdog and the supplies (R878, R881) -/

theorem gives_watchdogKick (s : State) : s.gives .watchdogKick fun t =>
    t.pw.wdogFrom = (if wdogHeld s.mode = true then 0 else s.now) ∧ t.regs = s.regs := State.gives_of_exec rfl ⟨rfl, rfl⟩

theorem State.cinder_fault {s : State} (hc : s.mode ≠ mCinder) (hb : s.mode ≠ mBanked) (cause : Nat) :
    (s.cinder cause).flag Reg.GCTL_STATUS_FAULT 0 = true :=
  calc _ = (s.cinderMode cause).flag Reg.GCTL_STATUS_FAULT 0 := (State.cinder_after_mode hc hb cause).flag _ _ (by decide +kernel)
    _ = ((s.wr Reg.GCTL_STATUS_CINDER_CAUSE 0 cause).set1 Reg.GCTL_STATUS_FAULT 0).cinderStops.flag Reg.GCTL_STATUS_FAULT 0 :=
      State.flag_wr_ne _ _ _ _ _ _ (by decide)
    _ = ((s.wr Reg.GCTL_STATUS_CINDER_CAUSE 0 cause).set1 Reg.GCTL_STATUS_FAULT 0).flag Reg.GCTL_STATUS_FAULT 0 :=
      (State.cinderStops_keeps _).flag _ _ (by decide +kernel)
    _ = true := State.flag_set1 _ 0 (by decide)

theorem State.cinder_now (s : State) (cause : Nat) : (s.cinder cause).now = s.now := (s.cinder_keeps cause).part .now (by decide +kernel)

theorem gives_watchdogExpire (s : State) (hready : s.flag Reg.GCTL_STATUS_FW_READY 0 = true) (hheld : wdogHeld s.mode = false)
    (hc : s.mode ≠ mCinder) : s.gives .watchdogExpire fun t => t.mode = mCinder ∧
      t.rd Reg.GCTL_STATUS_CINDER_CAUSE 0 = cWatchdog ∧ t.flag Reg.GCTL_STATUS_FAULT 0 = true ∧
      s.pw.wdogFrom + s.rd1 Reg.PWR_WDOG_TIMEOUT_MS 0 * msCycles ≤ t.now := by
  have hb : s.mode ≠ mBanked := by
    intro h
    rw [h] at hheld
    cases hheld
  let n := s.pw.wdogFrom + s.rd1 Reg.PWR_WDOG_TIMEOUT_MS 0 * msCycles
  have hexec : exec .watchdogExpire s = .next ((s.advanceTo n).cinder cWatchdog) := if_neg (by simp [hready, hheld, hc])
  have hn : n ≤ (s.advanceTo n).now := s.le_advanceTo_now n
  have hmode : (s.advanceTo n).mode = s.mode := s.advanceTo_rd n _ 0
  rw [← hmode] at hc hb
  generalize s.advanceTo n = u at hexec hn hc hb
  exact State.gives_of_exec hexec ⟨State.cinder_mode hc hb _, State.cinder_cause hc hb (by decide), State.cinder_fault hc hb _,
    hn.trans_eq (u.cinder_now _).symm⟩

theorem gives_supplyFault (s : State) (dt : Nat) (hp : s.pw.pfAt = none) (hporst : s.pw.porst = false) (hc : s.mode ≠ mCinder)
    (hb : s.mode ≠ mBanked) : s.gives (.supplyFault dt) fun t => t.mode = mCinder ∧
      t.rd Reg.GCTL_STATUS_CINDER_CAUSE 0 = cSupply ∧ t.pw.faultN = true ∧ t.now = s.now + dt := by
  have hexec : exec (.supplyFault dt) s = .next ((s.advance dt).cinder cSupply) := if_neg (by simp [hp, hporst])
  have hmode : (s.advance dt).mode = s.mode := s.advance_rd dt _ 0
  rw [← hmode] at hc hb
  exact State.gives_of_exec hexec ⟨State.cinder_mode hc hb _, State.cinder_cause hc hb (by decide),
    congrArg Power.faultN (State.cinder_pw hc hb _), (State.cinder_now ..).trans (s.advance_now dt)⟩

/-! ### Temperature (R867 to R871) -/

/-- The highest of the readings is shown, and the runs of readings at the thresholds are counted. -/
def State.takeReading (s : State) (tj : Int) : State :=
  let s1 := (s.wrS Reg.PWR_TEMP_TJ 0 tj).wrS Reg.PWR_TEMP_TJ_PEAK 0 (max tj (s.rdS Reg.PWR_TEMP_TJ_PEAK 0))
  { s1 with pw := { s1.pw with
      run95 := if 1520 ≤ tj then s.pw.run95 + 1 else 0, run105 := if 1680 ≤ tj then s.pw.run105 + 1 else 0,
      coolFrom := if tj ≤ s1.exitTemp then some (s.pw.coolFrom.getD s.now) else none } }

theorem State.takeReading_keeps (s : State) (tj : Int) :
    Keeps (fieldBits [Reg.PWR_TEMP_TJ, Reg.PWR_TEMP_TJ_PEAK] ||| partBits [.pw]) s (s.takeReading tj) :=
  Keeps.set_pw (Keeps.wr (Keeps.wr (Keeps.refl _ _)))

theorem State.takeReading_mode (s : State) (tj : Int) : (s.takeReading tj).mode = s.mode :=
  (s.takeReading_keeps tj).rd _ _ (by decide +kernel)

theorem unsignedOf_lt (w : Nat) (x : Int) : unsignedOf w x < 2 ^ w := by
  unfold unsignedOf
  have := Int.emod_lt_of_pos x (show (0 : Int) < 2 ^ w by positivity)
  have := Int.emod_nonneg x (show (2 : Int) ^ w ≠ 0 by positivity)
  zify
  omega

theorem State.takeReading_tj (s : State) (tj : Int) : (s.takeReading tj).rd Reg.PWR_TEMP_TJ 0 = unsignedOf 16 tj :=
  calc _ = (s.wrS Reg.PWR_TEMP_TJ 0 tj).rd Reg.PWR_TEMP_TJ 0 := State.rd_wr_ne _ _ _ _ _ _ (by decide)
    _ = unsignedOf 16 tj % 2 ^ 16 := State.rd_wr_same ..
    _ = _ := Nat.mod_eq_of_lt (unsignedOf_lt ..)

/-- What four readings in a row at a threshold lead to (R868, R869). -/
def State.actOnReading (s : State) : State :=
  if 4 ≤ s.pw.run105 ∧ s.mode ≠ mCinder then s.cinder cThermal
  else if 4 ≤ s.pw.run95 ∧ (!s.flag Reg.PWR_STATUS_THERM_DAMPED 0) = true then
    if s.mode = mBurn then s.thermDamp
    else if s.mode = mKiln ∧ s.pw.kilnFrom = mBurn then { s with pw := { s.pw with dampAfterKiln := true } }
    else s
  else s

theorem State.actOnReading_keeps (s : State) :
    Keeps (State.cinder_mask ||| State.thermDamp_mask ||| partBits [.pw]) s s.actOnReading :=
  Keeps.ite (Keeps.step (State.cinder_keeps ..) (Keeps.refl _ _)) (Keeps.ite (Keeps.ite (Keeps.step (State.thermDamp_keeps _)
    (Keeps.refl _ _)) (Keeps.ite (Keeps.set_pw (Keeps.refl _ _)) (Keeps.refl _ _))) (Keeps.refl _ _))

theorem exec_thermalReading {s : State} {l : List (BitVec 16)} (hl : l.length = 15) (hb : s.mode ≠ mBanked)
    (hporst : s.pw.porst = false) (dt : Nat) (a : BitVec 16) : exec (.thermalReading dt (a :: l)) s =
      .next ((s.advance dt).takeReading ((l.map BitVec.toInt).foldl max a.toInt)).actOnReading := by
  have hmode : (s.advance dt).mode = s.mode := s.advance_rd dt _ 0
  have hgo : ¬((s.advance dt).mode = mBanked ∨ (s.advance dt).pw.porst = true ∨ (a :: l).length ≠ 16) := by
    rw [hmode, s.advance_pw, hporst, List.length_cons, hl]
    simpa using hb
  refine (if_neg hgo).trans ?_
  generalize s.advance dt = u
  simp only [State.actOnReading, apply_ite Host.Outcome.next]
  rfl

theorem gives_thermalReading (s : State) (dt : Nat) (a : BitVec 16) (l : List (BitVec 16)) (hl : l.length = 15) (hb : s.mode ≠ mBanked)
    (hporst : s.pw.porst = false) : s.gives (.thermalReading dt (a :: l)) fun t =>
      t.rd Reg.PWR_TEMP_TJ 0 = unsignedOf 16 ((l.map BitVec.toInt).foldl max a.toInt) ∧ t.now = s.now + dt := by
  refine State.gives_of_exec (exec_thermalReading hl hb hporst dt a) ⟨?_, ?_⟩
  · exact ((State.actOnReading_keeps _).rd _ _ (by decide +kernel)).trans (State.takeReading_tj ..)
  · exact ((State.actOnReading_keeps _).part .now (by decide +kernel)).trans
      (((State.takeReading_keeps ..).part .now (by decide +kernel)).trans (s.advance_now dt))

theorem gives_thermalReading_cinder (s : State) (dt : Nat) (a : BitVec 16) (l : List (BitVec 16)) (hl : l.length = 15)
    (hb : s.mode ≠ mBanked) (hporst : s.pw.porst = false) (hc : s.mode ≠ mCinder) (hrun : 3 ≤ s.pw.run105)
    (htj : 1680 ≤ (l.map BitVec.toInt).foldl max a.toInt) : s.gives (.thermalReading dt (a :: l)) fun t =>
      t.mode = mCinder ∧ t.rd Reg.GCTL_STATUS_CINDER_CAUSE 0 = cThermal := by
  have hexec := exec_thermalReading hl hb hporst dt a
  generalize (l.map BitVec.toInt).foldl max a.toInt = tj at htj hexec
  have hmode : ((s.advance dt).takeReading tj).mode = s.mode := (State.takeReading_mode ..).trans (s.advance_rd dt _ 0)
  have hfourth : 4 ≤ ((s.advance dt).takeReading tj).pw.run105 := by
    have h : ((s.advance dt).takeReading tj).pw.run105 = s.pw.run105 + 1 := by
      rw [← s.advance_pw dt]
      exact if_pos htj
    omega
  generalize (s.advance dt).takeReading tj = u at hexec hmode hfourth
  rw [← hmode] at hb hc
  rw [State.actOnReading, if_pos ⟨hfourth, hc⟩] at hexec
  exact State.gives_of_exec hexec ⟨State.cinder_mode hc hb _, State.cinder_cause hc hb (by decide)⟩

/-- Damping that begins in a mode without a transition shows THERM_DAMPED and begins the transition to DAMPED. -/
theorem State.thermDamp_spec {s : State} (h : s.pw.trans = none) : s.thermDamp.mode = s.mode ∧
    s.thermDamp.flag Reg.PWR_STATUS_THERM_DAMPED 0 = true ∧ s.thermDamp.pw.trans.map Trans.to_ = some mDamped := by
  let s1 := (s.set1 Reg.PWR_STATUS_THERM_DAMPED 0).raise 0x0102 (1 :: s.tjItem)
  have h1 : Keeps State.raise_mask (s.set1 Reg.PWR_STATUS_THERM_DAMPED 0) s1 := State.raise_keeps ..
  have hnone : s1.pw.trans = none := (congrArg Power.trans (h1.part .pw (by decide +kernel))).trans h
  have heq : s.thermDamp = s1.beginTrans mDamped 1 none := if_pos (by rw [hnone]; rfl)
  rw [heq]
  refine ⟨?_, (h1.flag _ _ (by decide +kernel)).trans (State.flag_set1 _ 0 (by decide)), rfl⟩
  exact (h1.rd _ _ (by decide +kernel)).trans (State.rd_set1_ne _ _ _ _ _ (by decide))

theorem gives_thermalReading_damps (s : State) (dt : Nat) (a : BitVec 16) (l : List (BitVec 16)) (hl : l.length = 15)
    (hb : s.mode ≠ mBanked) (hporst : s.pw.porst = false) (hm : s.mode = mBurn) (hx : s.pw.trans = none) (hrun : 3 ≤ s.pw.run95)
    (hdamped : s.flag Reg.PWR_STATUS_THERM_DAMPED 0 = false) (hlo : 1520 ≤ (l.map BitVec.toInt).foldl max a.toInt)
    (hhi : (l.map BitVec.toInt).foldl max a.toInt < 1680) : s.gives (.thermalReading dt (a :: l)) fun t =>
      t.mode = mBurn ∧ t.flag Reg.PWR_STATUS_THERM_DAMPED 0 = true ∧ t.pw.trans.map Trans.to_ = some mDamped := by
  have hexec := exec_thermalReading hl hb hporst dt a
  generalize (l.map BitVec.toInt).foldl max a.toInt = tj at hlo hhi hexec
  have hread := (s.advance dt).takeReading_keeps tj
  have hmode : ((s.advance dt).takeReading tj).mode = mBurn := ((State.takeReading_mode ..).trans (s.advance_rd dt _ 0)).trans hm
  have hflag : ((s.advance dt).takeReading tj).flag Reg.PWR_STATUS_THERM_DAMPED 0 = false :=
    (hread.flag _ _ (by decide +kernel)).trans (((s.advance_keeps dt).flag _ _ (by decide +kernel)).trans hdamped)
  have hfourth : 4 ≤ ((s.advance dt).takeReading tj).pw.run95 := by
    have h : ((s.advance dt).takeReading tj).pw.run95 = s.pw.run95 + 1 := by
      rw [← s.advance_pw dt]
      exact if_pos hlo
    omega
  have hcool : ((s.advance dt).takeReading tj).pw.run105 = 0 := if_neg (by omega)
  have htrans : ((s.advance dt).takeReading tj).pw.trans = none := (congrArg Power.trans (s.advance_pw dt)).trans hx
  generalize (s.advance dt).takeReading tj = u at hexec hmode hflag hfourth hcool htrans
  rw [State.actOnReading, if_neg (by omega), if_pos ⟨hfourth, by rw [hflag]; rfl⟩, if_pos hmode] at hexec
  obtain ⟨hkept, hset, hto⟩ := State.thermDamp_spec htrans
  exact State.gives_of_exec hexec ⟨hkept.trans hmode, hset, hto⟩

/-- THERM_DAMPED is cleared, and reported. -/
def State.endDamping (s : State) : State := (s.clr Reg.PWR_STATUS_THERM_DAMPED 0).raise 0x0102 (0 :: s.tjItem)

theorem State.endDamping_keeps (s : State) : Keeps (State.raise_mask ||| fieldBits [Reg.PWR_STATUS_THERM_DAMPED]) s s.endDamping :=
  Keeps.step (State.raise_keeps ..) (Keeps.clr (Keeps.refl _ _))

/-- Damping is over, and DAMPED is left where BURN is asked for. -/
def State.cool (s : State) : State :=
  if s.endDamping.mode = mDamped ∧ s.endDamping.pw.trans.isNone = true ∧ s.endDamping.rd Reg.PWR_STATUS_REQ_MODE 0 = mBurn then
    s.endDamping.beginTrans mBurn 1 none
  else s.endDamping

theorem State.cool_spec {s : State} (hm : s.mode = mDamped) (hx : s.pw.trans = none) (hreq : s.rd Reg.PWR_STATUS_REQ_MODE 0 = mBurn) :
    s.cool.flag Reg.PWR_STATUS_THERM_DAMPED 0 = false ∧ s.cool.pw.trans.map Trans.to_ = some mBurn ∧ s.cool.now = s.now := by
  have hkeeps := s.endDamping_keeps
  have hmode : s.endDamping.mode = mDamped := (hkeeps.rd _ _ (by decide +kernel)).trans hm
  have hnone : s.endDamping.pw.trans.isNone = true := by rw [hkeeps.part .pw (by decide +kernel), hx]; rfl
  have hburn : s.endDamping.rd Reg.PWR_STATUS_REQ_MODE 0 = mBurn := (hkeeps.rd _ _ (by decide +kernel)).trans hreq
  rw [State.cool, if_pos ⟨hmode, hnone, hburn⟩]
  refine ⟨?_, rfl, hkeeps.part .now (by decide +kernel)⟩
  exact ((State.raise_keeps ..).flag _ _ (by decide +kernel)).trans (State.flag_clr s _ 0)

theorem gives_thermalExit (s : State) (x : Nat) (hx : s.pw.coolFrom = some x) (hdamped : s.flag Reg.PWR_STATUS_THERM_DAMPED 0 = true)
    (hm : s.mode = mDamped) (htrans : s.pw.trans = none) (hreq : s.rd Reg.PWR_STATUS_REQ_MODE 0 = mBurn) : s.gives .thermalExit fun t =>
      t.flag Reg.PWR_STATUS_THERM_DAMPED 0 = false ∧ t.pw.trans.map Trans.to_ = some mBurn ∧
      x + s.rd1 Reg.PWR_THERM_CFG_EXIT_S 0 * hz ≤ t.now := by
  let n := x + s.rd1 Reg.PWR_THERM_CFG_EXIT_S 0 * hz
  have hgo : ¬((!s.flag Reg.PWR_STATUS_THERM_DAMPED 0) = true ∨ s.mode = mBanked ∨ s.mode = mCinder) := by
    rw [hdamped, hm]
    decide
  have hn : n ≤ (s.advanceTo n).now := s.le_advanceTo_now n
  have hmode : (s.advanceTo n).mode = mDamped := (s.advanceTo_rd n _ 0).trans hm
  have hnone : (s.advanceTo n).pw.trans = none := (congrArg Power.trans (s.advance_pw _)).trans htrans
  have hburn : (s.advanceTo n).rd Reg.PWR_STATUS_REQ_MODE 0 = mBurn := (s.advanceTo_rd n _ 0).trans hreq
  have hexec : exec .thermalExit s = .next (s.advanceTo n).cool := by
    rw [exec, execThermalExit, hx]
    exact if_neg hgo
  generalize s.advanceTo n = u at hn hmode hnone hburn hexec
  obtain ⟨hflag, hto, hnow⟩ := State.cool_spec hmode hnone hburn
  exact State.gives_of_exec hexec ⟨hflag, hto, hn.trans_eq hnow.symm⟩

theorem gives_thermtrip (s : State) (ht : s.pw.thermTrip = false) (hporst : s.pw.porst = false) : s.gives .thermtrip fun t =>
    t.pw.thermTrip = true ∧ t.out = .pin pinThermtrip false :: s.out :=
  State.gives_of_exec (t := ({ s with pw := { s.pw with thermTrip := true } } : State).emit (.pin pinThermtrip false))
    (if_neg (by simp [ht, hporst])) ⟨rfl, rfl⟩

/-! ### The power cap (R864 to R866) -/

theorem State.capLoad_congr {s t : State} (hregs : t.regs = s.regs) (hheads : t.heads = s.heads) (hadmits : t.pw.admits = s.pw.admits) :
    t.capLoad = s.capLoad := by
  simp only [State.capLoad, State.spState, State.flag, State.rd, hregs, hheads, hadmits]

theorem State.capNow_congr {s t : State} (hregs : t.regs = s.regs) : t.capNow = s.capNow := by
  have hrd (f : Fld) (i : Nat) : t.rd f i = s.rd f i := State.rd_congr hregs f i
  rw [State.capNow, State.capNow, State.flag, State.flag, hrd, hrd, hrd]

/-- The controller's own power is taken, and the admissions of the last 100 ms are kept. -/
def State.takeOwn (s : State) (own : Nat) : State :=
  { s with pw := { s.pw with admits := s.pw.admits.filter (fun p => decide (s.now < p.1 + 100 * msCycles)),
                             fresh := 0, ownW := min 65535 own } }

/-- EST and OVER_CAP are shown. -/
def State.showEst (s : State) (est : Nat) : State :=
  (s.wr Reg.PWR_CAP_EST 0 est).wrB Reg.PWR_STATUS_OVER_CAP 0 (s.mode == mDamped && decide (s.capNow < est))

theorem State.showEst_rd (s : State) {est : Nat} (h : est < 2 ^ 16) : (s.showEst est).rd Reg.PWR_CAP_EST 0 = est :=
  (State.rd_wrB_ne _ _ _ _ _ _ (by decide)).trans ((State.rd_wr_same ..).trans (Nat.mod_eq_of_lt h))

theorem State.showEst_over (s : State) (est : Nat) :
    (s.showEst est).flag Reg.PWR_STATUS_OVER_CAP 0 = (s.mode == mDamped && decide (s.capNow < est)) := State.flag_wrB _ 0 _ (by decide)

theorem exec_powerCapEstimate {s : State} (hb : s.mode ≠ mBanked) (hporst : s.pw.porst = false) (dt own : Nat) : ∃ pw,
    exec (.powerCapEstimate dt own) s = .next { (((s.advance dt).takeOwn own).showEst
      (min 65535 (own + ((s.advance dt).takeOwn own).capLoad))) with pw := pw } := by
  have hmode : (s.advance dt).mode = s.mode := s.advance_rd dt _ 0
  have hgo : ¬((s.advance dt).mode = mBanked ∨ (s.advance dt).pw.porst = true) := by
    rw [hmode, s.advance_pw, hporst]
    simpa using hb
  rw [exec, execPowerCapEstimate, if_neg hgo]
  exact ⟨_, rfl⟩

theorem gives_powerCapEstimate (s : State) (dt own : Nat) (hb : s.mode ≠ mBanked) (hporst : s.pw.porst = false)
    (hadmits : s.pw.admits = []) : s.gives (.powerCapEstimate dt own) fun t => t.rd Reg.PWR_CAP_EST 0 = min 65535 (own + s.capLoad) ∧
      t.now = s.now + dt ∧ (s.mode ≠ mDamped → t.flag Reg.PWR_STATUS_OVER_CAP 0 = false) := by
  obtain ⟨pw, hexec⟩ := exec_powerCapEstimate hb hporst dt own
  have hload : ((s.advance dt).takeOwn own).capLoad = s.capLoad := by
    refine State.capLoad_congr (s.advance_regs dt) (s.advance_heads dt) ?_
    rw [State.takeOwn, s.advance_pw, hadmits]
    rfl
  have hmode : ((s.advance dt).takeOwn own).mode = s.mode := s.advance_rd dt _ 0
  have hnow : ((s.advance dt).takeOwn own).now = s.now + dt := s.advance_now dt
  rw [hload] at hexec
  generalize (s.advance dt).takeOwn own = u at hexec hmode hnow
  refine State.gives_of_exec hexec ⟨u.showEst_rd (by omega), hnow, fun hm => (u.showEst_over _).trans ?_⟩
  rw [hmode, beq_false_of_ne hm, Bool.false_and]

theorem gives_capExceeded (s : State) (x : Nat) (hx : s.pw.overFrom = some x) (hraised : s.pw.capRaised = false) :
    s.gives .capExceeded fun t => t.lastEvent 0x0103 [s.rd Reg.PWR_CAP_EST 0, s.capNow] ∧ t.pw.capRaised = true ∧ x + hz ≤ t.now := by
  have hn : x + hz ≤ (s.advanceTo (x + hz)).now := s.le_advanceTo_now (x + hz)
  have hest : (s.advanceTo (x + hz)).rd Reg.PWR_CAP_EST 0 = s.rd Reg.PWR_CAP_EST 0 := s.advanceTo_rd _ _ 0
  have hcap : (s.advanceTo (x + hz)).capNow = s.capNow := State.capNow_congr (s.advance_regs _)
  have hexec : exec .capExceeded s = .next (({ s.advanceTo (x + hz) with
      pw := { (s.advanceTo (x + hz)).pw with capRaised := true } } : State).raise 0x0103
        [(s.advanceTo (x + hz)).rd Reg.PWR_CAP_EST 0, (s.advanceTo (x + hz)).capNow]) := by
    rw [exec, execCapExceeded, hx]
    exact if_neg (by simp [hraised])
  rw [hest, hcap] at hexec
  generalize s.advanceTo (x + hz) = u at hn hexec
  have hraise := State.raise_keeps ({ u with pw := { u.pw with capRaised := true } } : State) 0x0103 [s.rd Reg.PWR_CAP_EST 0, s.capNow]
  exact State.gives_of_exec hexec ⟨State.raise_lastEvent .., congrArg Power.capRaised (hraise.part .pw (by decide +kernel)),
    hn.trans_eq (hraise.part .now (by decide +kernel)).symm⟩

/-- Settles O50, clause by clause. -/
theorem modesTemperatureAndCap : Obligations.ModesTemperatureAndCap :=
  ⟨gives_modeTransitionDone_runs, gives_modeTransitionDone_banked, gives_modeTransitionDone_wakes, gives_modeTransitionDone_verify,
    gives_wake_intact, gives_wake_lost,
    fun s n m hm hb hr ht hp ho hf hd hv => gives_fwReady_burn s n m ⟨hm, hb, hr, ht, hp, ho, hf, hd⟩ hv,
    fun s n m hm hb hr ht hp ho hf hd => gives_fwReady_ember s n m ⟨hm, hb, hr, ht, hp, ho, hf, hd⟩,
    gives_watchdogKick, gives_watchdogExpire, gives_supplyFault, gives_thermalReading, gives_thermalReading_cinder,
    gives_thermalReading_damps, gives_thermalExit, gives_thermtrip, gives_powerCapEstimate, gives_capExceeded⟩

end Sys2Proof.Machine
end

section
/-!
PROOF. Firmware images: download, activation, KILN and the trial (O48).
-/

set_option Elab.async false

namespace Sys2Proof.Machine

/-! ### Words of a sector that is erased (R783, R811) -/

/-- A sector that is cleared reads erased, every other as before. -/
theorem State.clearSector_fword (s : State) (sec j : Nat) :
    (s.clearSector sec).fword j = if j / sectorWords = sec then blankWord else s.fword j := by
  split
  case isTrue h => exact mget_filter_false _ _ _ fun v => by simp [h]
  case isFalse h => exact mget_filter blankWord (fun k => k / sectorWords != sec) s.flash.words j (by simpa using h)

theorem State.activeLog_lt (s : State) : s.activeLog < 2 := by
  unfold State.activeLog
  split <;> decide

/-- The erased words at the end of a log begin within it or right behind it. -/
theorem State.logNext_le (s : State) (log : Nat) : s.logNext log ≤ secWord (2 + log) := by
  refine List.foldlRecOn (motive := fun m => m ≤ secWord (2 + log)) _ _ ?_ fun m hm p hp => ?_
  · exact Nat.mul_le_mul_right _ (by omega)
  · have hin := (List.mem_filter.1 hp).2
    simp only [Bool.and_eq_true, decide_eq_true_eq] at hin
    exact max_le hm hin.2

/-- An erase's entry stands below sector 4, and no word from there on changes with it. -/
theorem State.logErase_spec (s : State) (sec kind aux : Nat) : (s.logErase sec kind aux).1 < secWord 4 ∧
    ∀ j, secWord 4 ≤ j → (s.logErase sec kind aux).2.2.fword j = s.fword j := by
  have hlow (t : State) {log : Nat} (hlog : log < 2) : t.logNext log < secWord 4 :=
    (t.logNext_le log).trans_lt (Nat.mul_lt_mul_of_pos_right (by omega) (by decide))
  have hentry (t : State) {log : Nat} (hlog : log < 2) (x y z w j : Nat) (hj : secWord 4 ≤ j) :
      (t.appendEntry log x y z w).2.fword j = t.fword j :=
    t.programNow_fword_ne ((hlow t hlog).trans_le hj).ne _
  have hlog := s.activeLog_lt
  generalize hr : s.logErase sec kind aux = r
  unfold State.logErase at hr
  extract_lets log seq at hr
  split at hr <;> subst hr
  · refine ⟨hlow _ (by omega), fun j hj => ?_⟩
    have hne : j / sectorWords ≠ 2 - s.activeLog := by
      have h4 : 4 ≤ j / sectorWords := (Nat.le_div_iff_mul_le (by decide)).2 hj
      omega
    have hentered : (s.appendEntry log (2 - log) 1 seq 0).1 ≠ j := ((hlow s hlog).trans_le hj).ne
    rw [hentry _ (by omega) _ _ _ _ j hj, State.entryDone, State.programNow_fword_ne _ hentered, State.clearSector_fword, if_neg hne]
    exact hentry s hlog _ _ _ _ j hj
  · exact ⟨hlow s hlog, fun j hj => hentry s hlog _ _ _ _ j hj⟩

/-- From sector 4 on an erase clears its sector and leaves the rest. -/
theorem State.eraseNow_fword (s : State) (sec kind aux : Nat) {j : Nat} (hj : secWord 4 ≤ j) :
    (s.eraseNow sec kind aux).fword j = if j / sectorWords = sec then blankWord else s.fword j := by
  obtain ⟨hentry, hkept⟩ := s.logErase_spec sec kind aux
  change (((s.logErase sec kind aux).2.2.clearSector sec).entryDone (s.logErase sec kind aux).1).fword j = _
  rw [State.entryDone, State.programNow_fword_ne _ (hentry.trans_le hj).ne, State.clearSector_fword, hkept j hj]

/-! ### Words that are programmed in a row (R773) -/

/-- An erased word admits any value of 64 bits, and then reads it. -/
theorem State.programNow_fval_blank {s : State} {i v : Nat} (h : s.fword i = blankWord) (hv : v < 2 ^ 64) :
    (s.programNow i v).fval i = some v := by
  have hadmit : blankWord.outcome v = 0 := by
    have : v &&& (2 ^ 64 - 1) = v := (Nat.and_two_pow_sub_one_eq_mod v 64).trans (Nat.mod_eq_of_lt hv)
    exact if_pos this
  have hword : (s.programNow i v).fword i = blankWord.prog v := by rw [State.programNow_fword, h, if_pos hadmit]
  have hread : (blankWord.prog v).read = .good v := if_pos rfl
  rw [State.fval, hword, hread]

theorem State.programList_fword_lt (ws : List Nat) {s : State} {i j : Nat} (h : j < i) :
    (s.programList i ws).fword j = s.fword j := by
  induction ws generalizing s i with
  | nil => rfl
  | cons w r ih => exact (ih (Nat.lt_succ_of_lt h)).trans (s.programNow_fword_ne h.ne' w)

theorem State.fval_of_fword {s t : State} {i : Nat} (h : t.fword i = s.fword i) : t.fval i = s.fval i := by
  rw [State.fval, State.fval, h]

/-- Words programmed in a row where the array is erased read their values. -/
theorem State.programList_fval {ws : List Nat} (hw : ∀ w ∈ ws, w < 2 ^ 64) {s : State} {i : Nat}
    (hblank : ∀ k < ws.length, s.fword (i + k) = blankWord) : ∀ k < ws.length, (s.programList i ws).fval (i + k) = some (ws.getD k 0) := by
  induction ws generalizing s i with
  | nil => exact fun k hk => absurd hk (Nat.not_lt_zero k)
  | cons w r ih =>
    intro k hk
    cases k with
    | zero =>
      have hkept := State.programList_fword_lt r (s := s.programNow i w) (Nat.lt_succ_self i)
      have hval := State.programNow_fval_blank (hblank 0 hk) (hw w (List.mem_cons_self ..))
      exact (State.fval_of_fword hkept).trans hval
    | succ k =>
      have hrest (m : Nat) (hm : m < r.length) : (s.programNow i w).fword (i + 1 + m) = blankWord := by
        rw [State.programNow_fword_ne _ (by omega), Nat.add_assoc, Nat.add_comm 1 m]
        exact hblank (m + 1) (by simpa using hm)
      have hval := ih (fun x hx => hw x (List.mem_cons_of_mem _ hx)) hrest k (by simpa using hk)
      rw [Nat.add_assoc, Nat.add_comm 1 k] at hval
      exact hval

/-! ### FW_DOWNLOAD (R917 to R921) -/

/-- The sectors of a twin that an image of n words touches from its start on. -/
theorem mem_imageSectors {n i : Nat} (hi : i < n) (hn : 8 * n ≤ 64 * 65536) : i / sectorWords ∈
    (upTo 64).filter fun k => decide (k * 65536 < 0 + 8 * n) && decide (0 < (k + 1) * 65536) && !([] : List Nat).contains k := by
  have hdiv : i / sectorWords * 8192 ≤ i := Nat.div_mul_le_self i sectorWords
  refine List.mem_filter.2 ⟨List.mem_range.2 ?_, ?_⟩
  · omega
  · simp only [Bool.and_eq_true, decide_eq_true_eq]
    exact ⟨⟨by omega, by omega⟩, rfl⟩

theorem le_twinSector (twin : Nat) : 4 ≤ twinSector twin := by
  unfold twinSector
  split <;> decide

/-- An image written from its start on, in a session that has erased nothing yet, is what the spare twin then reads. -/
theorem State.writeImage_fval {s : State} (herased : s.firm.erased = []) {ws : List Nat} (hlen : 8 * ws.length ≤ 64 * 65536)
    (hw : ∀ w ∈ ws, w < 2 ^ 64) :
    ∀ i < ws.length, (s.writeImage 0 ws).fval (secWord (twinSector s.spareTwin) + i) = some (ws.getD i 0) := by
  have hbase := le_twinSector s.spareTwin
  unfold State.writeImage
  rw [herased, Nat.zero_div]
  extract_lets +onlyGivenNames base secs s1 s2
  have hblank (i : Nat) (hi : i < ws.length) : s1.fword (secWord base + i) = blankWord := by
    have hj : secWord 4 ≤ secWord base + i := (Nat.mul_le_mul_right sectorWords hbase).trans (Nat.le_add_right ..)
    have hsec : (secWord base + i) / sectorWords = base + i / sectorWords := by
      rw [secWord, Nat.add_comm, Nat.add_mul_div_right _ _ (by decide), Nat.add_comm]
    refine foldl_of_mem (p := fun t : State => t.fword (secWord base + i) = blankWord) (fun t k _ ht => ?_) (mem_imageSectors hi hlen)
      (fun t => ?_) s
    · rw [State.eraseNow_fword _ _ _ _ hj, ht, ite_self]
    · rw [State.eraseNow_fword _ _ _ _ hj, hsec, if_pos rfl]
  have hval := State.programList_fval hw hblank
  have hs2 : s2 = s1.programList (secWord base) ws := congrArg (fun n => s1.programList n ws) (Nat.add_zero _)
  rw [← hs2] at hval
  clear_value s2
  exact hval

/-- The session of a first range is open. -/
def State.openSession (s : State) : State := { s with firm := { s.firm with session := some [], erased := [] } }

/-- A range is written, and its blocks are in the session. -/
def State.takeRange (s : State) (ws : List Nat) (blocks : List Nat) : State :=
  { s.writeImage 0 ws with firm := { (s.writeImage 0 ws).firm with session := some blocks } }

theorem State.takeRange_keeps (s : State) (ws blocks : List Nat) : Keeps (State.writeImage_mask ||| partBits [.firm]) s (s.takeRange ws blocks) :=
  Keeps.set_firm (Keeps.step (State.writeImage_keeps ..) (Keeps.refl _ _))

theorem exec_fwDownload_first {s : State} {q : BitVec 20} {tag : BitVec 12} {c : Cmd} {ws : List Nat}
    (hc : s.runnable q.toNat tag.toNat opFwDownload = some c) (hahead : s.downloadAhead c = false) (hoff : c.get 16 4 = 0)
    (hpos : 0 < c.get 20 4) (htrial : s.flag Reg.GCTL_BOOT_TRIAL 0 = false) (hprog : s.flash.prog = none)
    (herase : s.flash.erase = none) (hdue : s.flash.pfDue = false) (hws : ws.length = c.get 20 4 / 8) :
    exec (.fwDownload q tag (some ws)) s =
      .next (((s.openSession.hostReads (s.pasidOf c.grp) (c.flagBit 3) (c.get 32 8) (c.get 20 4)).takeRange ws
        (blocksOf 0 (c.get 20 4))).fail c.sq c.tag stSuccess) := by
  have hidle : ¬(s.flash.prog.isSome = true ∨ s.flash.erase.isSome = true ∨ s.flash.pfDue = true) := by simp [hprog, herase, hdue]
  have hnew : ¬((blocksOf 0 (c.get 20 4)).any [].contains = true) := by simp
  rw [exec, execFwDownload, hc]
  dsimp only
  rw [hoff, if_neg (by simp [hahead]), if_neg hpos.ne', if_pos rfl]
  dsimp only
  rw [if_neg hnew, if_neg (by simp [htrial]), if_neg hidle, if_neg (not_not.2 hws)]
  rfl

theorem gives_fwDownload (s : State) (q : BitVec 20) (tag : BitVec 12) (c : Cmd) (ws : List Nat)
    (hc : s.runnable q.toNat tag.toNat opFwDownload = some c) (hl : c.local = true) (hahead : s.downloadAhead c = false)
    (hoff : c.get 16 4 = 0) (hpos : 0 < c.get 20 4) (hmax : c.get 20 4 ≤ 4194304) (_ : s.activeTwin < 2)
    (htrial : s.flag Reg.GCTL_BOOT_TRIAL 0 = false) (hprog : s.flash.prog = none) (herase : s.flash.erase = none)
    (hdue : s.flash.pfDue = false) (hws : ws.length = c.get 20 4 / 8) (hw : ∀ w ∈ ws, w < 2 ^ 64) :
    s.gives (.fwDownload q tag (some ws)) fun t => t.ended c.sq c.tag stSuccess 0 0 0 ∧
      t.firm.session = some (blocksOf 0 (c.get 20 4)) ∧
      ∀ i < ws.length, t.fval (secWord (twinSector s.spareTwin) + i) = some (ws.getD i 0) := by
  obtain ⟨hfound, hphase, -⟩ := State.runnable_spec hc
  have hexec := exec_fwDownload_first hc hahead hoff hpos htrial hprog herase hdue hws
  have hread := s.openSession.hostReads_keeps (s.pasidOf c.grp) (c.flagBit 3) (c.get 32 8) (c.get 20 4)
  generalize s.openSession.hostReads (s.pasidOf c.grp) (c.flagBit 3) (c.get 32 8) (c.get 20 4) = u at hexec hread
  have hfirm : u.firm.erased = [] := congrArg Firm.erased (hread.part .firm (by decide +kernel))
  have hspare : u.spareTwin = s.spareTwin := congrArg (1 - ·) (hread.rd _ _ (by decide +kernel))
  have hcmds : (u.takeRange ws (blocksOf 0 (c.get 20 4))).cmds = s.cmds :=
    ((State.takeRange_keeps ..).part .cmds (by decide +kernel)).trans (hread.part .cmds (by decide +kernel))
  have hfail := State.fail_keeps (u.takeRange ws (blocksOf 0 (c.get 20 4))) c.sq c.tag stSuccess
  refine State.gives_of_exec hexec ⟨State.finish_ended_after hcmds hfound hphase hl .., ?_, fun i hi => ?_⟩
  · exact congrArg Firm.session (hfail.part .firm (by decide +kernel))
  · rw [State.fval_congr (hfail.part .flash (by decide +kernel)), ← hspare]
    exact State.writeImage_fval hfirm (by omega) hw i hi

/-! ### FW_ACTIVATE (R919, R923 to R927) -/

/-- An FW_ACTIVATE that may act: no trial runs, no download waits, and the array is idle. -/
structure State.Activates (s : State) (q : BitVec 20) (tag : BitVec 12) (c : Cmd) : Prop where
  cmd : s.runnable q.toNat tag.toNat opFwActivate = some c
  trial : s.flag Reg.GCTL_BOOT_TRIAL 0 = false
  download : ∀ x ∈ s.cmds, x.op ≠ opFwDownload
  prog : s.flash.prog = none
  erase : s.flash.erase = none
  due : s.flash.pfDue = false

theorem State.Activates.idle {s : State} {q : BitVec 20} {tag : BitVec 12} {c : Cmd} (h : s.Activates q tag c) :
    ¬((s.cmds.any fun x => x.op == opFwDownload && x.phase != .fixed) = true ∨ s.flash.prog.isSome = true ∨
      s.flash.erase.isSome = true ∨ s.flash.pfDue = true) := by
  have hnone : (s.cmds.any fun x => x.op == opFwDownload && x.phase != .fixed) = false :=
    List.any_eq_false.2 fun x hx => by simp [h.download x hx]
  simp [hnone, h.prog, h.erase, h.due]

theorem exec_fwActivate_rejects {s : State} {q : BitVec 20} {tag : BitVec 12} {c : Cmd} (h : s.Activates q tag c) {keyOk sigOk : Bool}
    {why : Nat} (hr : s.rejectImage keyOk sigOk = some why) :
    exec (.fwActivate q tag keyOk sigOk) s = .next ((s.raise 0x0E01 [why]).endActivate c.sq c.tag stFwInvalid) := by
  rw [exec, execFwActivate, h.cmd]
  dsimp only
  rw [if_neg (by simp [h.trial]), if_neg h.idle, hr]

/-- An image of another HANDOFF is activated by a reset, 10 ms later. -/
def State.activateByReset (s : State) (c : Cmd) (hand : Nat) : State :=
  let t := (s.raise 0x0E03 [s.firm.handoff, hand]).endActivate c.sq c.tag stSuccess
  { t with firm := { t.firm with resetAt := some (t.now + 10 * msCycles) } }

theorem State.appendTrial_firm (s : State) : s.appendTrial.firm = s.firm := s.appendTrial_keeps.part .firm (by decide +kernel)

theorem exec_fwActivate_accepts {s : State} {q : BitVec 20} {tag : BitVec 12} {c : Cmd} (h : s.Activates q tag c) {keyOk sigOk : Bool}
    (hr : s.rejectImage keyOk sigOk = none) : exec (.fwActivate q tag keyOk sigOk) s =
      .next (if s.hdrHandoff s.spareTwin = s.firm.handoff then (s.appendTrial.start c).enterKiln c.sq c.tag
        else s.appendTrial.activateByReset c (s.hdrHandoff s.spareTwin)) := by
  rw [exec, execFwActivate, h.cmd]
  dsimp only
  rw [if_neg (by simp [h.trial]), if_neg h.idle, hr, State.activateByReset, State.appendTrial_firm]
  exact (apply_ite Host.Outcome.next ..).symm

/-- No download session and no activation is under way. -/
def State.closeSession (s : State) : State := { s with firm := { s.firm with session := none, erased := [], activate := none } }

theorem State.endActivate_eq (s : State) (q tag status : Nat) : s.endActivate q tag status = s.closeSession.finish q tag status 0 0 0 := rfl

/-- A command that waits when its activation ends has its outcome fixed, with no results. -/
theorem State.endActivate_ended {s t : State} {c : Cmd} (hcmds : t.cmds = s.cmds) (hc : s.cmd? c.sq c.tag = some c)
    (hp : c.phase = .waiting) (hl : c.local = true) (status : Nat) :
    (t.endActivate c.sq c.tag status).ended c.sq c.tag status 0 0 0 :=
  State.endActivate_eq .. ▸ State.finish_ended_after (t := t.closeSession) hcmds hc hp hl status 0 0 0

/-- The newest event stays the newest while the ring does. -/
theorem State.lastEvent_congr {s t : State} (h : t.ev = s.ev) {code : Nat} {data : List Nat} (hs : s.lastEvent code data) :
    t.lastEvent code data := by rwa [State.lastEvent, h]

theorem gives_fwActivate_incomplete (s : State) (q : BitVec 20) (tag : BitVec 12) (c : Cmd) (x y : Bool) (h : s.Activates q tag c)
    (hl : c.local = true) (hsession : s.firm.session = none) : s.gives (.fwActivate q tag x y) fun t =>
      t.ended c.sq c.tag stFwInvalid 0 0 0 ∧ t.lastEvent 0x0E01 [1] ∧ t.flash = s.flash := by
  obtain ⟨hfound, hphase, -⟩ := State.runnable_spec h.cmd
  have hexec := exec_fwActivate_rejects (why := 1) (keyOk := x) (sigOk := y) h (by rw [State.rejectImage, hsession])
  have hraise := s.raise_keeps 0x0E01 [1]
  have hlast := s.raise_lastEvent 0x0E01 [1]
  generalize s.raise 0x0E01 [1] = u at hexec hraise hlast
  have hend := u.endActivate_keeps c.sq c.tag stFwInvalid
  exact State.gives_of_exec hexec ⟨State.endActivate_ended (hraise.part .cmds (by decide +kernel)) hfound hphase hl _,
    State.lastEvent_congr (hend.part .ev (by decide +kernel)) hlast,
    (hend.part .flash (by decide +kernel)).trans (hraise.part .flash (by decide +kernel))⟩

/-- In KILN the management cores restart, and the activation and the mode that was left are remembered. -/
theorem State.enterKiln_spec (s : State) (q tag : Nat) : (s.enterKiln q tag).mode = mKiln ∧ (s.enterKiln q tag).firm.booting = true ∧
    (s.enterKiln q tag).firm.activate = some (q, tag) ∧ (s.enterKiln q tag).firm.kilnAt = some (s.enterKiln q tag).now ∧
    (s.enterKiln q tag).pw.kilnFrom = s.mode ∧ (s.enterKiln q tag).cmds = s.cmds := by
  unfold State.enterKiln
  extract_lets +onlyGivenNames from_ s1
  have hmode : s1.mode = mKiln := s.arrive_mode (by decide) 4
  have hcmds : s1.cmds = s.cmds := (s.arrive_keeps mKiln 4).part .cmds (by decide +kernel)
  clear_value s1
  exact ⟨hmode, rfl, rfl, rfl, rfl, hcmds⟩

theorem gives_fwActivate_kiln (s : State) (q : BitVec 20) (tag : BitVec 12) (c : Cmd) (h : s.Activates q tag c)
    (hgood : s.rejectImage true true = none) (hsame : s.hdrHandoff s.spareTwin = s.firm.handoff) :
    s.gives (.fwActivate q tag true true) fun t => t.mode = mKiln ∧ t.firm.booting = true ∧ t.firm.activate = some (c.sq, c.tag) ∧
      t.firm.kilnAt = some t.now ∧ t.pw.kilnFrom = s.mode ∧ t.underWay c.sq c.tag := by
  obtain ⟨hfound, -⟩ := State.runnable_spec h.cmd
  have hexec := exec_fwActivate_accepts h hgood
  rw [if_pos hsame] at hexec
  have htrial := s.appendTrial_keeps
  generalize s.appendTrial = u at hexec htrial
  have hmode : u.mode = s.mode := htrial.rd _ _ (by decide +kernel)
  have hstart : (u.start c).underWay c.sq c.tag :=
    State.start_underWay (by rw [State.cmd?_congr (htrial.part .cmds (by decide +kernel)), hfound])
  obtain ⟨hkiln, hboot, hact, hat, hfrom, hcmds⟩ := (u.start c).enterKiln_spec c.sq c.tag
  exact State.gives_of_exec hexec ⟨hkiln, hboot, hact, hat, hfrom.trans hmode, State.underWay_congr hcmds hstart⟩

theorem gives_fwActivate_byReset (s : State) (q : BitVec 20) (tag : BitVec 12) (c : Cmd) (h : s.Activates q tag c)
    (hl : c.local = true) (hgood : s.rejectImage true true = none) (hdiffers : s.hdrHandoff s.spareTwin ≠ s.firm.handoff) :
    s.gives (.fwActivate q tag true true) fun t => t.ended c.sq c.tag stSuccess 0 0 0 ∧
      t.lastEvent 0x0E03 [s.firm.handoff, s.hdrHandoff s.spareTwin] ∧ t.firm.resetAt = some (t.now + 10 * msCycles) ∧
      t.mode = s.mode := by
  obtain ⟨hfound, hphase, -⟩ := State.runnable_spec h.cmd
  have hexec := exec_fwActivate_accepts h hgood
  rw [if_neg hdiffers, State.activateByReset, State.appendTrial_firm] at hexec
  have hraise := Keeps.step (m := State.raise_mask ||| State.appendTrial_mask)
    (s.appendTrial.raise_keeps 0x0E03 [s.firm.handoff, s.hdrHandoff s.spareTwin]) s.appendTrial_keeps.mono
  have hlast := s.appendTrial.raise_lastEvent 0x0E03 [s.firm.handoff, s.hdrHandoff s.spareTwin]
  generalize s.appendTrial.raise 0x0E03 [s.firm.handoff, s.hdrHandoff s.spareTwin] = u at hexec hraise hlast
  have hend := u.endActivate_keeps c.sq c.tag stSuccess
  have hended := State.endActivate_ended (t := u) (hraise.part .cmds (by decide +kernel)) hfound hphase hl stSuccess
  generalize u.endActivate c.sq c.tag stSuccess = v at hexec hend hended
  exact State.gives_of_exec hexec ⟨hended, State.lastEvent_congr (hend.part .ev (by decide +kernel)) hlast, rfl,
    (hend.rd _ _ (by decide +kernel)).trans (hraise.rd _ _ (by decide +kernel))⟩

/-! ### KILN ends (R926, R928) -/

/-- Budgets that stood still in KILN go on. -/
def State.resumeBudgets (s : State) (d : Nat) : State :=
  { s with cmds := s.cmds.map fun c => { c with budgetFrom := c.budgetFrom.map fun b => b + d } }

theorem State.resumeBudgets_cmd? (s : State) (d q tag : Nat) :
    (s.resumeBudgets d).cmd? q tag = (s.cmd? q tag).map fun c => { c with budgetFrom := c.budgetFrom.map fun b => b + d } := by
  rw [State.cmd?, State.resumeBudgets, List.find?_map]
  rfl

/-- The mode that KILN was entered from is back. -/
def State.leaveKiln (s : State) (data : List Nat) : State :=
  let t := (s.arrive s.pw.kilnFrom 4).raise 0x0E02 data
  { t with firm := { t.firm with kilnAt := none } }

/-- What leaving KILN changes behind the mode. -/
theorem State.leaveKiln_after_mode (s : State) (data : List Nat) :
    Keeps (State.raise_mask ||| partBits [.firm]) (s.arrive s.pw.kilnFrom 4) (s.leaveKiln data) :=
  Keeps.set_firm (Keeps.step ((s.arrive s.pw.kilnFrom 4).raise_keeps 0x0E02 data) (Keeps.refl _ _))

theorem State.leaveKiln_keeps (s : State) (data : List Nat) :
    Keeps (State.raise_mask ||| State.arrive_mask ||| partBits [.firm]) s (s.leaveKiln data) :=
  Keeps.step (s.leaveKiln_after_mode data) (Keeps.step (s.arrive_keeps s.pw.kilnFrom 4) (Keeps.refl _ _))

theorem State.leaveKiln_mode {s : State} (h : s.pw.kilnFrom < 8) (data : List Nat) : (s.leaveKiln data).mode = s.pw.kilnFrom :=
  ((s.leaveKiln_after_mode data).rd _ _ (by decide +kernel)).trans (s.arrive_mode h 4)

theorem State.leaveKiln_damp (s : State) (data : List Nat) : (s.leaveKiln data).pw.dampAfterKiln = s.pw.dampAfterKiln := by
  have hpw : ((s.arrive s.pw.kilnFrom 4).raise 0x0E02 data).pw = (s.setMode s.pw.kilnFrom).pw :=
    (((s.arrive s.pw.kilnFrom 4).raise_keeps 0x0E02 data).part .pw (by decide +kernel)).trans
      (((s.setMode s.pw.kilnFrom).raise_keeps 0x0101 [s.mode, s.pw.kilnFrom, 4]).part .pw (by decide +kernel))
  exact (congrArg Power.dampAfterKiln hpw :)

/-- The trial's version is shown, and budgets go on, before KILN is left. -/
def State.adopt (s : State) (d : Nat) : State := (s.showVersion s.firm.version).resumeBudgets d

theorem State.adopt_keeps (s : State) (d : Nat) :
    Keeps (fieldBits [Reg.GCTL_FW_VER_MAJOR, Reg.GCTL_FW_VER_MINOR, Reg.GCTL_FW_VER_BUILD] ||| partBits [.cmds]) s (s.adopt d) :=
  Keeps.set_cmds (s.showVersion_keeps s.firm.version).mono

theorem State.adopt_cmd? {s : State} {q tag : Nat} {c : Cmd} (hc : s.cmd? q tag = some c) (d : Nat) :
    (s.adopt d).cmd? q tag = some { c with budgetFrom := c.budgetFrom.map fun b => b + d } := by
  rw [State.adopt, State.resumeBudgets_cmd?, State.cmd?_congr ((s.showVersion_keeps _).part .cmds (by decide +kernel)), hc]
  rfl

/-- No damping is put off any longer. -/
def State.undamp (s : State) : State := { s with pw := { s.pw with dampAfterKiln := false } }

theorem exec_kilnEnd {s : State} {t0 q tag : Nat} (hk : s.firm.kilnAt = some t0) (ha : s.firm.activate = some (q, tag))
    (hm : s.mode = mKiln) (hboot : s.firm.booting = false) (htrial : s.flag Reg.GCTL_BOOT_TRIAL 0 = true)
    (hdamp : s.pw.dampAfterKiln = false) : ∃ data, exec .kilnEnd s =
      .next ((((s.adopt (s.now - t0)).leaveKiln data).endActivate q tag stSuccess).undamp.runHeld.noteHealth).settle := by
  have hgo : ¬(s.mode ≠ mKiln ∨ s.firm.booting = true ∨ (!s.flag Reg.GCTL_BOOT_TRIAL 0) = true) := by simp [hm, hboot, htrial]
  rw [exec, execKilnEnd]
  split
  case h_2 h => exact absurd ha (h t0 q tag hk)
  case h_1 t1 q1 tag1 hk1 ha1 =>
    obtain rfl : t0 = t1 := Option.some.inj (hk.symm.trans hk1)
    obtain ⟨rfl, rfl⟩ : q = q1 ∧ tag = tag1 := Prod.mk.inj (Option.some.inj (ha.symm.trans ha1))
    rw [if_neg hgo]
    extract_lets +onlyGivenNames d v old s1 s2
    have hs2 : s2 = s.adopt d := rfl
    have hdamp2 : s2.pw.dampAfterKiln = false := hdamp
    rw [← hs2]
    clear_value s2
    extract_lets +onlyGivenNames s3 f3 s4 damp p4 s5
    refine ⟨[old, v, d / msCycles], ?_⟩
    have hs4 : (s2.leaveKiln [old, v, d / msCycles]).endActivate q tag stSuccess = s4 := rfl
    have hnot : s4.pw.dampAfterKiln = false := by
      rw [← hs4, (State.endActivate_keeps ..).part .pw (by decide +kernel), State.leaveKiln_damp]
      exact hdamp2
    have hs5 : s4.undamp = s5 := rfl
    have hstays : ¬damp = true := by
      simp only [damp, hnot, Bool.false_and, Bool.false_eq_true, not_false_eq_true]
    rw [hs4, hs5, if_neg hstays]

theorem gives_kilnEnd (s : State) (t0 q tag : Nat) (c : Cmd) (hk : s.firm.kilnAt = some t0) (ha : s.firm.activate = some (q, tag))
    (hm : s.mode = mKiln) (hboot : s.firm.booting = false) (htrial : s.flag Reg.GCTL_BOOT_TRIAL 0 = true)
    (hdamp : s.pw.dampAfterKiln = false) (hc : s.cmd? q tag = some c) (hl : c.local = true) (hp : c.phase = .started)
    (hfrom : s.pw.kilnFrom < 8) (hv : s.firm.version < 2 ^ 32) : s.gives .kilnEnd fun t => ∃ u : State, t = u.settle ∧
      u.mode = s.pw.kilnFrom ∧ u.shownVersion = s.firm.version ∧ u.firm.kilnAt = none ∧ u.firm.session = none ∧
      u.ended q tag stSuccess 0 0 0 := by
  obtain ⟨data, hexec⟩ := exec_kilnEnd hk ha hm hboot htrial hdamp
  have hadopt := s.adopt_keeps (s.now - t0)
  have hversion : (s.adopt (s.now - t0)).shownVersion = s.firm.version := s.showVersion_shown hv
  have hcmd := State.adopt_cmd? hc (s.now - t0)
  generalize s.adopt (s.now - t0) = a at hexec hadopt hversion hcmd
  have hpw : a.pw = s.pw := hadopt.part .pw (by decide +kernel)
  have hmode : (a.leaveKiln data).mode = s.pw.kilnFrom := by
    rw [← hpw] at hfrom ⊢
    exact State.leaveKiln_mode hfrom data
  have hleave := a.leaveKiln_keeps data
  have hkiln : (a.leaveKiln data).firm.kilnAt = none := rfl
  generalize a.leaveKiln data = u at hexec hmode hkiln hleave
  rw [← State.cmd?_congr (hleave.part .cmds (by decide +kernel))] at hcmd
  have hfirm : (u.endActivate q tag stSuccess).firm = { u.firm with session := none, erased := [], activate := none } :=
    (State.fail_keeps ..).part .firm (by decide +kernel)
  have hended : (u.endActivate q tag stSuccess).ended q tag stSuccess 0 0 0 :=
    State.endActivate_eq .. ▸ State.finish_open_ended (s := u.closeSession) hcmd (by rw [hp]; decide) hl stSuccess 0 0 0
  have hend := u.endActivate_keeps q tag stSuccess
  generalize u.endActivate q tag stSuccess = v at hexec hend hfirm hended
  have hrun : Keeps (State.runHeld_mask ||| partBits [.pw]) v v.undamp.runHeld :=
    Keeps.step (State.runHeld_keeps _) (Keeps.set_pw (Keeps.refl _ _))
  generalize v.undamp.runHeld = w at hexec hrun
  have hnote := w.noteHealth_keeps
  have hwfirm : w.firm = { u.firm with session := none, erased := [], activate := none } := (hrun.part .firm (by decide +kernel)).trans hfirm
  refine State.gives_of_exec hexec ⟨w.noteHealth, rfl, ?_, ?_, ?_, ?_, ?_⟩
  · exact (hnote.rd _ _ (by decide +kernel)).trans ((hrun.rd _ _ (by decide +kernel)).trans ((hend.rd _ _ (by decide +kernel)).trans hmode))
  · exact (hnote.shownVersion (by decide +kernel)).trans ((hrun.shownVersion (by decide +kernel)).trans
      ((hend.shownVersion (by decide +kernel)).trans ((hleave.shownVersion (by decide +kernel)).trans hversion)))
  · exact (congrArg Firm.kilnAt hwfirm).trans hkiln
  · exact congrArg Firm.session hwfirm
  · exact State.ended_congr ((hnote.part .cmds (by decide +kernel)).trans (hrun.part .cmds (by decide +kernel))) hended

/-! ### Warm resets (R927, R928, R932) -/

/-- A reset that is asked for while none is due takes effect within 10 ms. -/
theorem State.requestReset_spec {s : State} (h : s.pw.resetPend = none) (code : Nat) :
    (s.requestReset code).pw.resetPend = some (code, (s.requestReset code).now + 10 * msCycles) ∧
      (s.requestReset code).now = s.now ∧ (s.requestReset code).firm = s.firm := by
  have hnow : (s.requestReset code).now = s.now := (s.requestReset_keeps code).part .now (by decide +kernel)
  refine ⟨?_, hnow, (s.requestReset_keeps code).part .firm (by decide +kernel)⟩
  rw [hnow, State.requestReset, if_neg (by simp [h])]

theorem State.advanceTo_pw (s : State) (n : Nat) : (s.advanceTo n).pw = s.pw := s.advance_pw _

theorem gives_kilnTimeout (s : State) (x : Nat) (hx : s.firm.kilnAt = some x) (hm : s.mode = mKiln) (hp : s.pw.resetPend = none) :
    s.gives .kilnTimeout fun t => t.pw.resetPend = some (2, t.now + 10 * msCycles) ∧ x + 250 * msCycles ≤ t.now := by
  let n := x + 250 * msCycles
  have hn : n ≤ (s.advanceTo n).now := s.le_advanceTo_now n
  have hpend : (s.advanceTo n).pw.resetPend = none := (congrArg Power.resetPend (s.advanceTo_pw n)).trans hp
  obtain ⟨data, hexec⟩ : ∃ data, exec .kilnTimeout s = .next (((s.advanceTo n).raise 0x0E04 data).requestReset 2) := by
    rw [exec, execKilnTimeout, hx]
    exact ⟨_, if_neg (not_not.2 hm)⟩
  generalize s.advanceTo n = u at hn hpend hexec
  have hraise := u.raise_keeps 0x0E04 data
  obtain ⟨hdue, hnow, -⟩ := State.requestReset_spec (s := u.raise 0x0E04 data)
    ((congrArg Power.resetPend (hraise.part .pw (by decide +kernel))).trans hpend) 2
  exact State.gives_of_exec hexec ⟨hdue, hn.trans_eq (hnow.trans (hraise.part .now (by decide +kernel))).symm⟩

theorem gives_fwActivateReset (s : State) (x : Nat) (hx : s.firm.resetAt = some x) (hp : s.pw.resetPend = none) :
    s.gives .fwActivateReset fun t => t.pw.resetPend = some (2, t.now + 10 * msCycles) ∧ x ≤ t.now ∧ t.firm.resetAt = none := by
  have hn : x ≤ (s.advanceTo x).now := s.le_advanceTo_now x
  have hpend : (s.advanceTo x).pw.resetPend = none := (congrArg Power.resetPend (s.advanceTo_pw x)).trans hp
  have hexec : exec .fwActivateReset s = .next (({ s.advanceTo x with firm := { (s.advanceTo x).firm with resetAt := none } } :
      State).requestReset 2) := by
    rw [exec, execFwActivateReset, hx]
  generalize s.advanceTo x = u at hn hpend hexec
  obtain ⟨hdue, hnow, hfirm⟩ := State.requestReset_spec (s := { u with firm := { u.firm with resetAt := none } }) hpend 2
  exact State.gives_of_exec hexec ⟨hdue, hn.trans_eq hnow.symm, congrArg Firm.resetAt hfirm⟩

theorem gives_trialTimeout (s : State) (x : Nat) (hx : s.firm.trialAt = some x) (htrial : s.flag Reg.GCTL_BOOT_TRIAL 0 = true)
    (hp : s.pw.resetPend = none) : s.gives .trialTimeout fun t =>
      t.pw.resetPend = some (2, t.now + 10 * msCycles) ∧ x + 90 * hz ≤ t.now := by
  have hn : x + 90 * hz ≤ (s.advanceTo (x + 90 * hz)).now := s.le_advanceTo_now (x + 90 * hz)
  have hpend : (s.advanceTo (x + 90 * hz)).pw.resetPend = none := (congrArg Power.resetPend (s.advanceTo_pw _)).trans hp
  have hexec : exec .trialTimeout s = .next ((s.advanceTo (x + 90 * hz)).requestReset 2) := by
    rw [exec, execTrialTimeout, hx]
    exact if_neg (by simp [htrial])
  generalize s.advanceTo (x + 90 * hz) = u at hn hpend hexec
  obtain ⟨hdue, hnow, -⟩ := State.requestReset_spec hpend 2
  exact State.gives_of_exec hexec ⟨hdue, hn.trans_eq hnow.symm⟩

/-! ### The trial is confirmed (R931) -/

/-- A program that only clears bits of a word not programmed twice leaves the value given. -/
theorem State.programNow_data {s : State} {i : Nat} (hpb : (s.fword i).pb = false) {v : Nat} (hv : v &&& (s.fword i).data = v) :
    ((s.programNow i v).fword i).data = v := by
  have hadmit : (s.fword i).outcome v = 0 := (if_neg (by simp [hpb])).trans (if_pos hv)
  rw [State.programNow_fword, if_pos hadmit, FWord.prog]
  split <;> rfl

theorem mod_two_pow_land_self (x n : Nat) : x % 2 ^ n &&& x = x % 2 ^ n := by
  rw [← Nat.and_two_pow_sub_one_eq_mod, Nat.land_comm, ← Nat.land_assoc, Nat.and_self]

/-- The confirmation bit of the record in force is cleared, and TRIAL with it. -/
def State.confirmTrial (s : State) (i : Nat) : State := (s.programNow i ((s.fword i).data % 2 ^ 63)).clr Reg.GCTL_BOOT_TRIAL 0

/-- The trial is over. -/
def State.endTrial (s : State) : State := { s with firm := { s.firm with trialAt := none } }

theorem gives_trialConfirm (s : State) (x : Nat) (r : Swap) (hx : s.noteHealth.firm.healthFrom = some x) (hr : s.swapInForce = some r)
    (htrial : s.flag Reg.GCTL_BOOT_TRIAL 0 = true) (hprog : s.flash.prog = none) (hpb : (s.fword (2 * r.j + 1)).pb = false) :
    s.gives .trialConfirm fun t => t.flag Reg.GCTL_BOOT_TRIAL 0 = false ∧ t.firm.trialAt = none ∧ x + 10 * hz ≤ t.now ∧
      (t.fword (2 * r.j + 1)).data = (s.fword (2 * r.j + 1)).data % 2 ^ 63 := by
  have hswap : s.noteHealth.swapInForce = some r := (State.swapInForce_congr rfl).trans hr
  have hgo : ¬((!s.noteHealth.flag Reg.GCTL_BOOT_TRIAL 0) = true ∨ s.noteHealth.flash.prog.isSome = true) := by
    have h1 : s.noteHealth.flag Reg.GCTL_BOOT_TRIAL 0 = true := htrial
    have h2 : s.noteHealth.flash.prog = none := hprog
    simp [h1, h2]
  let n := x + 10 * hz
  let i := 2 * r.j + 1
  have hn : n ≤ (s.noteHealth.advanceTo n).now := State.le_advanceTo_now _ n
  have hword : (s.noteHealth.advanceTo n).fword i = s.fword i := State.fword_congr (State.advance_flash ..) i
  obtain ⟨data, hexec⟩ : ∃ data, exec .trialConfirm s = .next ((((s.noteHealth.advanceTo n).confirmTrial i).raise
      0x0E05 data).endTrial) := by
    rw [exec, execTrialConfirm]
    dsimp only
    rw [hx, hswap]
    exact ⟨_, if_neg hgo⟩
  generalize s.noteHealth.advanceTo n = u at hn hword hexec
  have hraise := (u.confirmTrial i).raise_keeps 0x0E05 data
  have hnow : (u.confirmTrial i).now = u.now := (u.programNow_keeps ..).part .now (by decide +kernel)
  have hdata : ((u.confirmTrial i).fword i).data = (u.fword i).data % 2 ^ 63 :=
    State.programNow_data (by rw [hword, hpb]) (mod_two_pow_land_self ..)
  have hflag : (u.confirmTrial i).flag Reg.GCTL_BOOT_TRIAL 0 = false := State.flag_clr ..
  generalize u.confirmTrial i = v at hexec hraise hnow hdata hflag
  refine State.gives_of_exec hexec ⟨(hraise.flag _ _ (by decide +kernel)).trans hflag, rfl,
    hn.trans_eq ((hraise.part .now (by decide +kernel)).trans hnow).symm, ?_⟩
  calc ((v.raise 0x0E05 data).endTrial.fword i).data = (v.fword i).data :=
        congrArg FWord.data (State.fword_congr (hraise.part .flash (by decide +kernel)) i)
    _ = (u.fword i).data % 2 ^ 63 := hdata
    _ = (s.fword i).data % 2 ^ 63 := by rw [hword]

/-- Settles O48, clause by clause. -/
theorem firmwareUpdateActs : Obligations.FirmwareUpdateActs :=
  ⟨gives_fwDownload,
    fun s q tag c x y hc hl ht hd hp he hf hs => gives_fwActivate_incomplete s q tag c x y ⟨hc, ht, hd, hp, he, hf⟩ hl hs,
    fun s q tag c hc _ ht hd hp he hf hg hh => gives_fwActivate_kiln s q tag c ⟨hc, ht, hd, hp, he, hf⟩ hg hh,
    fun s q tag c hc hl ht hd hp he hf hg hh => gives_fwActivate_byReset s q tag c ⟨hc, ht, hd, hp, he, hf⟩ hl hg hh,
    gives_kilnEnd, gives_kilnTimeout, gives_fwActivateReset, gives_trialConfirm, gives_trialTimeout⟩

end Sys2Proof.Machine
end
